-- ==== Sys2Proof/Word.lean ====
section
/-! DEFINITION. The words the manual counts in, and the two containers the state is built from.
Bit 0 is the least significant bit of every word (R6); registers are 32 bits wide (R8). -/

namespace Sys2Proof

abbrev Byte := BitVec 8
abbrev W16 := BitVec 16
abbrev W32 := BitVec 32
abbrev W64 := BitVec 64
abbrev W128 := BitVec 128

/-- The bits of an IEEE 754 binary64 value (R7). -/
abbrev F64 := BitVec 64
/-- The bits of an IEEE 754 binary32 value (R7). -/
abbrev F32 := BitVec 32

/-- A table by number: pairs with strictly rising numbers, none equal to what an unlisted number
reads as (the read and the write in Machine/Ops.lean keep that form). -/
abbrev Tbl (α : Type) := List (Nat × α)

/-- A string of bytes, first byte first. -/
abbrev Bytes := List Byte

end Sys2Proof
end

