-- ==== Sys2Proof/Syntax.lean ====
section
/-! DEFINITION. The commands of the block: one constructor per row of opcode_table.json, with the
operands that come from outside the step (what a bus, a pin, a clock, the host or MC0 firmware gives). -/

namespace Sys2Proof

/-- Who makes a register access: a BAR0 master (numbered), MC0 or MC1 (R13). -/
inductive RegMaster where
  | bar0 (n : Nat)
  | mc0
  | mc1
  deriving DecidableEq, Repr

/-- A descriptor as HIF holds it: its ring, its submission index, its 64 bytes (R383), the bytes read
from the host buffer it names, whether that read failed (R384), and, for the inner descriptor of a
verified owner-signed record, the record's OCNT (R402) and the TAG of the SEC_SIGNED that carried it.
The buffer of a SEC_SIGNED holds the 192-byte record, and after it the bytes of the buffer that the
inner descriptor names, if it names one. -/
structure HostDesc where
  ring : Fin 64
  sqidx : W16
  bytes : Bytes
  buf : Bytes
  readFail : Bool
  signed : Option W64
  outerTag : W16
  deriving DecidableEq, Repr

/-- A CAN frame on the bus: identifier, IDE, FDF, BRS, remote flag and data bytes. -/
structure CanFrame where
  id : BitVec 29
  ide : Bool
  fdf : Bool
  brs : Bool
  rtr : Bool
  data : Bytes
  /-- The error state indicator of an FD frame: 1 from an error-passive node. -/
  esi : Bool := false
  deriving DecidableEq, Repr

/-- How the transmission of a CAN frame ended (R301). -/
inductive CanEnd where
  | completed
  | lostArbitration
  | busError
  deriving DecidableEq, Repr

/-- The bus errors of LASTERR, Table 10-11, in its numbering from 1. -/
inductive CanErr where
  | bit
  | stuff
  | form
  | crc
  | ack
  deriving DecidableEq, Repr

/-- Where a bus error is met, as ISO 11898-1 tells the rules of TEC and REC apart (R298): in a frame; a stuff error that
its transmitter meets in arbitration, on a recessive stuff bit; within the node's own error or overload flag; a dominant
bit right after the error flag, or eight more of them. -/
inductive CanErrAt where
  | frame
  | arbitration
  | ownFlag
  | afterFlag
  deriving DecidableEq, Repr

/-- A bus error: its kind, and where it is met. -/
structure CanFault where
  kind : CanErr
  place : CanErrAt
  deriving DecidableEq, Repr

/-- A port whose Sync interval, or Pdelay interval, has passed since the partner that waits for a Follow_Up (R338). -/
structure PtpWait where
  p : Fin 16
  peer : Bool
  deriving DecidableEq, Repr

/-- A fabric request of a master: the address, and whether it writes. -/
structure FabricReq where
  addr : BitVec 40
  write : Bool
  deriving DecidableEq, Repr

/-- The masters whose slots move link data (R60, R300). -/
inductive LinkMaster where
  | canl
  | mbus
  | ethl
  | pair
  deriving DecidableEq, Repr

/-- The two masters with PUB and LONG slots (R47). -/
inductive LongMaster where
  | solv
  | parc
  deriving DecidableEq, Repr

/-- What an M-Bus master hears after a request (R316, R317). -/
inductive MbusRx where
  | frame (bytes : Bytes) (parityOk : Bool)
  | collision
  deriving DecidableEq, Repr

/-- A received Ethernet frame: bytes from the destination address to before the FCS, whether FCS and
coding were good, and the counter captured at its timestamp point, with eighths of a nanosecond (R334, R335). -/
structure EthRx where
  bytes : Bytes
  good : Bool
  cap : W64
  frac : BitVec 3
  deriving DecidableEq, Repr

/-- A received PTP message: the message bytes and the counter captured at its timestamp point. -/
structure PtpRx where
  msg : Bytes
  cap : W64
  frac : BitVec 3
  deriving DecidableEq, Repr

/-- A received mirror frame: the lane, all its bytes (header, payload, tag, CRC) and the counter captured as its
start block crosses the ball (R418, R421). -/
structure MirRx where
  lane : Fin 2
  bytes : Bytes
  cap : W64
  frac : BitVec 3
  deriving DecidableEq, Repr

/-- A temperature reading of an RTD channel as a ratio to its reference resistor; none: open or shorted
(R269). HEAT_WINDOW_CLOSE gives the two readings of each of the 32 channels, the frequency on each PLS_n, and the levels of the PLS_n;
PULSE gives the level of the paired input PLS_(n XOR 1) at the rising edge (R271). -/
abbrev RtdReading := Option F64

/-- What the NAND reports when a REC slot checks the operation in progress (R462): for a page read its
bytes after correction and, for each codeword, the bits corrected, or none if it is uncorrectable (R463). -/
inductive NandReport where
  | busy
  | done
  | failed
  | read (page : Bytes) (codewords : List (Option Nat))
  deriving DecidableEq, Repr

/-- Which read of host memory a completion or a failure belongs to (R380, R384). -/
inductive HostRead where
  | doorbell (ring : Fin 64) (bytes : Bytes)
  | descriptors (ring : Fin 64) (descs : List HostDesc)
  | buffer (d : HostDesc)
  deriving DecidableEq, Repr

/-- Which read of host memory failed (R384). -/
inductive HostReadFail where
  | doorbell (ring : Fin 64)
  | descriptors (ring : Fin 64)
  | buffer (d : HostDesc)
  deriving DecidableEq, Repr

/-- Where network time comes from in stage 5 (R500). -/
inductive TimeSource where
  | ptp (delta : W128)
  | mirror (delta : W128)
  deriving DecidableEq, Repr

/-- The engine that executes an instruction: a cell engine, or MC1 in the supervisor profile (R206). -/
inductive Core where
  | cell (e : Fin 8)
  | mc1
  deriving DecidableEq, Repr

/-- A core that the interrupt controller serves (R389). -/
inductive IrqCore where
  | mc0
  | mc1
  deriving DecidableEq, Repr

/-- The fields every instruction carries: the engine, and the guard GP, GN (R203, Table 7-1). -/
structure Ctl where
  core : Core
  gp : BitVec 4
  gn : Bool
  deriving DecidableEq, Repr

/-- The second operand: register B, or IMM32 in the immediate form (Table 7-2). -/
inductive Src where
  | reg (b : BitVec 6)
  | imm (v : W32)
  deriving DecidableEq, Repr

/-- The second operand of CMP: register B, or IMM16 in the immediate form (Table 7-2). -/
inductive Src16 where
  | reg (b : BitVec 6)
  | imm (v : W16)
  deriving DecidableEq, Repr

/-- The condition codes of CMP, Table 7-3. -/
inductive IntCC where
  | eq | ne | lt | ge | ltu | geu | le | gt | leu | gtu | bits | nbits
  deriving DecidableEq, Repr

/-- The condition codes of FCMP, Table 7-3. -/
inductive FltCC where
  | eq | ne | lt | ge | le | gt | un | or
  deriving DecidableEq, Repr

/-- FN of PLOG, Table 7-2. -/
inductive PFn where
  | and | or | xor
  deriving DecidableEq, Repr

/-- RM of FCVTI, FCVTU and FRND, and the one rounding of the arithmetic (R213). -/
inductive RMode where
  | nearest | zero | down | up
  deriving DecidableEq, Repr

/-- The commands. -/
inductive Instr where
  -- the schedule
  | minorFrameStart (mr4High : Bool)
  | majorFrameBoundary
  | snapshot
  | commit
  | cellCycle (slot : Nat)
  | loopOccurrence (e : Fin 4)
  | axisSlot
  | axisStep (n : Fin 16)
  | driverStatus (n : Fin 16) (inTime : Bool) (load status seq crc : Byte)
  | receiveSlot (m : LinkMaster)
  | transmitSlot (m : LinkMaster)
  | metrSlot
  | longSlot (slot : Nat)
  | iterationCommit (task : W16)
  | resultWrite (task : W16)
  | pubSlot (m : LongMaster)
  | parcelStepCommit
  | switchReserve
  | newImageActive
  | freezeRelease (m : Fin 25)
  | imageCheckComplete
  | structureLoad (k : Fin 4)
  | parccfgLoad
  -- host slots
  | hostSlotStart
  | closePoint
  | hostReadFailure (what : HostReadFail)
  | cutSlot
  | recSlot (report : NandReport)
  | lanternWrite
  -- metering
  | metrSample (codes : List (BitVec 24))
  | zeroCrossingTimeout (f : Fin 4) (p : Fin 3)
  | heatWindowClose (rtd : List (RtdReading × RtdReading)) (freq : List F64) (high : W16)
  | pulse (n : Fin 16) (pairedHigh tooFast : Bool)
  | intervalClose
  | totaliserSave (readBackOk : Bool)
  | theftWatchSecond (rms : List (BitVec 12))
  -- time, RTC, interrupts
  | triggerFire (n : Fin 32)
  | triggerCapture (n : Fin 32) (rising : Bool)
  | rtcSecond
  | rtcAlarm
  | snapTaken
  | commitApplied
  | oscillatorStop
  | operatingTimeSecond
  | holdoffExpiry (g : Fin 16)
  | interruptEntry (c : IrqCore)
  | wakeWatch (w : Fin 32)
  -- field links
  | canFrameReceive (ch : Fin 40) (f : CanFrame) (ts : W32)
  | canFrameEnd (ch : Fin 40) (buf : Fin 64) (how : CanEnd)
  | canBusError (ch : Fin 40) (err : CanFault) (transmitting : Bool)
  | busOffRecovery (ch : Fin 40)
  | joinReq (ch : Fin 40) (version : Byte) (cls : W16) (uid : W64) (ns : W128)
  | response (ch : Fin 40) (slot : W16) (uid : W64) (tag : W128)
  | joinTimeout (k : Fin 1024)
  | leave (ch : Fin 40) (f : CanFrame)
  | rspUd (k : Fin 6) (rx : MbusRx)
  | mbusResponseTimeout (k : Fin 6)
  -- Ethernet and PTP
  | ethFrameReceive (p : Fin 16) (f : EthRx)
  | ethFrameTransmit (p : Fin 16) (cap : W64) (frac : BitVec 3)
  | ethLinkDown (p : Fin 16)
  | ethLinkUp (p : Fin 16)
  | sync (p : Fin 16) (m : PtpRx)
  | followUp (p : Fin 16) (m : PtpRx)
  | delayReq (p : Fin 16) (m : PtpRx)
  | delayResp (p : Fin 16) (m : PtpRx)
  | pdelayReq (p : Fin 16) (m : PtpRx)
  | pdelayResp (p : Fin 16) (m : PtpRx)
  | pdelayRespFollowUp (p : Fin 16) (m : PtpRx)
  | announce (p : Fin 16) (m : PtpRx)
  | syncInterval (p : Fin 16)
  | delayReqInterval (p : Fin 16)
  | pdelayReqInterval (p : Fin 16)
  | announceInterval (p : Fin 16)
  | followUpTimeout (w : PtpWait)
  -- redundant pair
  | cut (f : MirRx)
  | cutend (f : MirRx)
  | stream (f : MirRx)
  | ack (f : MirRx)
  | hello (f : MirRx)
  | time (f : MirRx)
  | meter (f : MirRx)
  | idle (f : MirRx)
  | pseenTimeout
  | handshakeRetry
  | bugle (body : Bytes) (crcOk : Bool)
  -- panel, records, security, power
  | panelPhase
  | pgood
  | pumpTimeout
  | auditFreezeExpiry
  | tamperEvent (cause : Fin 14)
  | drbgHealthFailure
  | powerFailure
  | pwrfailRise
  | por (brownOut : Bool)
  | pd0Cold
  | sysrst
  | watchdogExpiry
  | pllLockLoss (pll : Fin 3)
  | hifReset
  | domainPowerUp (d : Fin 12)
  | powerGoodTimeout (d : Fin 12)
  | domainPowerDown (d : Fin 12)
  | stageRom (directory : Bytes)
  | stageFirmware (copyA copyB : Option Bytes)
  | stageMemory (dramGiB : BitVec 5) (vddq11 : Bool) (trained : BitVec 2) (nandOk : Bool)
  | stageImage (imageA imageB : Option Bytes)
  | stageRole
  | pwaitExpiry
  | stageTime (src : TimeSource)
  | twaitExpiry
  | lateTimeStep (delta : W128)
  | stageRun
  | bootHostSlot
  | pairRejoinReset
  | pairModeTimeout
  | pairRekeyTimeout
  | pairSwapreqTimeout
  -- descriptors
  | dNop (d : HostDesc)
  | imageLoad (d : HostDesc)
  | imageSwitch (d : HostDesc)
  | imageAbort (d : HostDesc)
  | unfreeze (d : HostDesc)
  | ptRead (d : HostDesc)
  | ptWrite (d : HostDesc)
  | ptForce (d : HostDesc)
  | cellMode (d : HostDesc)
  | cellStep (d : HostDesc)
  | cellRead (d : HostDesc)
  | solvDelta (d : HostDesc)
  | solvRun (d : HostDesc)
  | solvCut (d : HostDesc)
  | solvRead (d : HostDesc)
  | solvReload (d : HostDesc)
  | parcSet (d : HostDesc)
  | parcRead (d : HostDesc)
  | loopMode (d : HostDesc)
  | loopParam (d : HostDesc)
  | loopTrace (d : HostDesc)
  | loopRead (d : HostDesc)
  | axisCmd (d : HostDesc)
  | metrRead (d : HostDesc)
  | metrCal (d : HostDesc)
  | metrLock (d : HostDesc)
  | metrTwclr (d : HostDesc)
  | linkRead (d : HostDesc)
  | linkEvict (d : HostDesc)
  | linkBuson (d : HostDesc)
  | ethRead (d : HostDesc)
  | ethPort (d : HostDesc)
  | timeRead (d : HostDesc)
  | timeRearm (d : HostDesc)
  | rtcRead (d : HostDesc)
  | rtcWrite (d : HostDesc)
  | secAttest (d : HostDesc)
  | secRead (d : HostDesc)
  | secSigned (d : HostDesc)
  | secBlob (d : HostDesc)
  | secRetire (d : HostDesc)
  | secRoot (d : HostDesc)
  | secFloor (d : HostDesc)
  | secCtl (d : HostDesc)
  | pairRead (d : HostDesc)
  | pairMode (d : HostDesc)
  | pairRekey (d : HostDesc)
  | pairResync (d : HostDesc)
  | pairSwapreq (d : HostDesc)
  | recRead (d : HostDesc)
  | audFreeze (d : HostDesc)
  | audClear (d : HostDesc)
  | lanThaw (d : HostDesc)
  | histWrite (d : HostDesc)
  | tagWrite (d : HostDesc)
  | tagLock (d : HostDesc)
  | nvmFormat (d : HostDesc)
  | pnlLoad (d : HostDesc)
  | pnlUpdate (d : HostDesc)
  | pnlConfig (d : HostDesc)
  | pnlClear (d : HostDesc)
  -- register accesses
  | enWrite (m : RegMaster) (blk : Fin 21) (v : W32)
  | cntRead (m : RegMaster) (blk : Fin 21) (n : Fin 32)
  | wideRead (m : RegMaster) (addr : BitVec 24)
  | schedUnfrz (m : RegMaster) (v : W32)
  | rstreq (m : RegMaster) (v : W32)
  | rate (m : RegMaster) (v : W64)
  | step (m : RegMaster) (v : W128)
  | snap (m : RegMaster)
  | commitRequest (m : RegMaster)
  | txcan (m : RegMaster) (ch : Fin 40) (v : Byte)
  | txreq (m : RegMaster) (ch : Fin 40) (v : Byte)
  | fifopop (m : RegMaster) (ch : Fin 40) (v : W32)
  | fifohdRead (m : RegMaster) (ch : Fin 40)
  | ringen (m : RegMaster) (v : W64)
  | cpl0 (m : RegMaster) (v : W32)
  | cpl1 (m : RegMaster) (v : W32)
  | swset (m : RegMaster) (v : W32)
  | dbgdata (m : RegMaster) (v : Option W64)
  | registerWrite (m : RegMaster) (addr : BitVec 24) (size : Nat) (v : W64)
  -- instructions of the cell engines and MC1
  | inop (x : Ctl)
  | iend (x : Ctl)
  | loop (x : Ctl) (len : BitVec 15) (count : W16)
  | lidx (x : Ctl) (d : BitVec 6) (level : BitVec 2)
  | rdaf (x : Ctl) (d : BitVec 6)
  | claf (x : Ctl)
  | movi (x : Ctl) (d : BitVec 6) (v : W32)
  | movhi (x : Ctl) (d : BitVec 6) (v : W32)
  | sel (x : Ctl) (d a b : BitVec 6) (p : BitVec 4)
  | pmov (x : Ctl) (d : BitVec 6) (p : BitVec 4)
  | cmp (x : Ctl) (w : Bool) (cc : IntCC) (a : BitVec 6) (b : Src16) (pd pe : BitVec 4)
  | fcmp (x : Ctl) (w : Bool) (cc : FltCC) (a b : BitVec 6) (pd pe : BitVec 4)
  | plog (x : Ctl) (pd pa pb : BitVec 4) (na nb : Bool) (fn : PFn)
  | add (x : Ctl) (w : Bool) (d a : BitVec 6) (b : Src)
  | sub (x : Ctl) (w : Bool) (d a : BitVec 6) (b : Src)
  | adds (x : Ctl) (w : Bool) (d a : BitVec 6) (b : Src)
  | subs (x : Ctl) (w : Bool) (d a : BitVec 6) (b : Src)
  | mul (x : Ctl) (w : Bool) (d a : BitVec 6) (b : Src)
  | muls (x : Ctl) (w : Bool) (d a : BitVec 6) (b : Src)
  | mulhs (x : Ctl) (w : Bool) (d a b : BitVec 6)
  | mulhu (x : Ctl) (w : Bool) (d a b : BitVec 6)
  | divs (x : Ctl) (w : Bool) (d a : BitVec 6) (b : Src)
  | divu (x : Ctl) (w : Bool) (d a : BitVec 6) (b : Src)
  | rems (x : Ctl) (w : Bool) (d a : BitVec 6) (b : Src)
  | remu (x : Ctl) (w : Bool) (d a : BitVec 6) (b : Src)
  | min (x : Ctl) (w : Bool) (d a : BitVec 6) (b : Src)
  | max (x : Ctl) (w : Bool) (d a : BitVec 6) (b : Src)
  | minu (x : Ctl) (w : Bool) (d a : BitVec 6) (b : Src)
  | maxu (x : Ctl) (w : Bool) (d a : BitVec 6) (b : Src)
  | and (x : Ctl) (w : Bool) (d a : BitVec 6) (b : Src)
  | or (x : Ctl) (w : Bool) (d a : BitVec 6) (b : Src)
  | xor (x : Ctl) (w : Bool) (d a : BitVec 6) (b : Src)
  | andn (x : Ctl) (w : Bool) (d a : BitVec 6) (b : Src)
  | shl (x : Ctl) (w : Bool) (d a : BitVec 6) (b : Src)
  | shr (x : Ctl) (w : Bool) (d a : BitVec 6) (b : Src)
  | sar (x : Ctl) (w : Bool) (d a : BitVec 6) (b : Src)
  | rol (x : Ctl) (w : Bool) (d a : BitVec 6) (b : Src)
  | bfxu (x : Ctl) (d a lo wm1 : BitVec 6)
  | bfxs (x : Ctl) (d a lo wm1 : BitVec 6)
  | bfi (x : Ctl) (d a lo wm1 : BitVec 6)
  | clz (x : Ctl) (w : Bool) (d a : BitVec 6)
  | popc (x : Ctl) (w : Bool) (d a : BitVec 6)
  | abss (x : Ctl) (w : Bool) (d a : BitVec 6)
  | fadd (x : Ctl) (w : Bool) (d a b : BitVec 6)
  | fsub (x : Ctl) (w : Bool) (d a b : BitVec 6)
  | fmul (x : Ctl) (w : Bool) (d a b : BitVec 6)
  | fdiv (x : Ctl) (w : Bool) (d a b : BitVec 6)
  | fsqrt (x : Ctl) (w : Bool) (d a : BitVec 6)
  | fma (x : Ctl) (w : Bool) (d a b c : BitVec 6)
  | fms (x : Ctl) (w : Bool) (d a b c : BitVec 6)
  | fmin (x : Ctl) (w : Bool) (d a b : BitVec 6)
  | fmax (x : Ctl) (w : Bool) (d a b : BitVec 6)
  | fminn (x : Ctl) (w : Bool) (d a b : BitVec 6)
  | fmaxn (x : Ctl) (w : Bool) (d a b : BitVec 6)
  | fabs (x : Ctl) (w : Bool) (d a : BitVec 6)
  | fneg (x : Ctl) (w : Bool) (d a : BitVec 6)
  | fcvt (x : Ctl) (w : Bool) (d a : BitVec 6)
  | icvtf (x : Ctl) (w : Bool) (d a : BitVec 6)
  | ucvtf (x : Ctl) (w : Bool) (d a : BitVec 6)
  | fcvti (x : Ctl) (w : Bool) (d a : BitVec 6) (rm : RMode) (r32 : Bool)
  | fcvtu (x : Ctl) (w : Bool) (d a : BitVec 6) (rm : RMode) (r32 : Bool)
  | frnd (x : Ctl) (w : Bool) (d a : BitVec 6) (rm : RMode)
  | ld (x : Ctl) (d a : BitVec 6) (sz : BitVec 2) (sx : Bool) (v : W32)
  | st (x : Ctl) (d a : BitVec 6) (sz : BitVec 2) (v : W32)
  | pld (x : Ctl) (d xr q : BitVec 6) (out : Bool) (pt : BitVec 17)
  | pst (x : Ctl) (d xr : BitVec 6) (pt : BitVec 17)
  | pstq (x : Ctl) (d xr q : BitVec 6) (pt : BitVec 17)
  | tmr (x : Ctl) (d a : BitVec 6) (pi : BitVec 4) (ni : Bool) (pq : BitVec 4) (num : BitVec 12)
  | edge (x : Ctl) (pi : BitVec 4) (ni : Bool) (pq : BitVec 4) (num : BitVec 12)
  | br (x : Ctl) (v : W32)
  | call (x : Ctl) (v : W32)
  | ret (x : Ctl)
  | jr (x : Ctl) (a : BitVec 6)
  | callr (x : Ctl) (a : BitVec 6)
  | push (x : Ctl) (a : BitVec 6)
  | pop (x : Ctl) (d : BitVec 6)
  | mrs (x : Ctl) (d : BitVec 6) (idx : BitVec 4)
  | msr (x : Ctl) (a : BitVec 6) (idx : BitVec 4)
  | reti (x : Ctl)
  | wfi (x : Ctl)
  | fence (x : Ctl)
  -- further events
  | overrun (m : Fin 25) (req : FabricReq)
  | startOfFrame (ch : Fin 40) (buf : Fin 64) (ts : W32)
  | mirrorLaneDown (lane : Fin 2)
  | mirrorLaneUp (lane : Fin 2)
  | configurationWrite (bme d3 functionMask : Bool)
  | hostReadCompletion (what : HostRead)
  | pwrfailNGlitch
  | rtcEdge
  | readWithoutEffect (m : RegMaster) (addr : BitVec 24) (size : Nat)
  | signatureVerification
  deriving DecidableEq, Repr

end Sys2Proof
end

