-- ==== Sys2Proof/Machine/Bits.lean ====
section
/-! DEFINITION. Tables by number in canonical form, byte strings and their little-endian and
big-endian readings (R6), bit fields, and exact integer helpers. -/

namespace Sys2Proof.Machine

/-- The entry of number `n`; `d` is what an unlisted number reads as. -/
def tblGet {α : Type} (t : Tbl α) (n : Nat) (d : α) : α :=
  match t with
  | [] => d
  | (k, v) :: r => if k = n then v else tblGet r n d

/-- A table without its entries of number `n`. -/
def tblDel {α : Type} (t : Tbl α) (n : Nat) : Tbl α :=
  match t with
  | [] => []
  | (k, w) :: r => if k = n then tblDel r n else (k, w) :: tblDel r n

/-- Write of number `n`: the numbers stay strictly rising and no entry equals the default. On a list of any other form
the number reads as written, and every other number as before. -/
def tblPut {α : Type} [DecidableEq α] (t : Tbl α) (n : Nat) (v d : α) : Tbl α :=
  match t with
  | [] => if v = d then [] else [(n, v)]
  | (k, w) :: r =>
    if n < k then (if v = d then (k, w) :: tblDel r n else (n, v) :: (k, w) :: tblDel r n)
    else if n = k then (if v = d then tblDel r n else (n, v) :: tblDel r n)
    else (k, w) :: tblPut r n v d

/-- The canonical form of a table whose unlisted entries read `d`: numbers above `lo`, rising, no default. -/
def tblFrom {α : Type} [DecidableEq α] (d : α) : Option Nat → Tbl α → Bool
  | _, [] => true
  | lo, (k, v) :: r =>
    (match lo with | none => true | some l => decide (l < k)) && decide (v ≠ d) && tblFrom d (some k) r

def tblWf {α : Type} [DecidableEq α] (t : Tbl α) (d : α) : Bool := tblFrom d none t

/-- Writes of consecutive numbers. -/
def tblPutAll {α : Type} [DecidableEq α] (t : Tbl α) (n : Nat) (vs : List α) (d : α) : Tbl α :=
  match vs with
  | [] => t
  | v :: r => tblPutAll (tblPut t n v d) (n + 1) r d

/-- Reads of `len` consecutive numbers from `n`. -/
def tblRange {α : Type} (t : Tbl α) (n len : Nat) (d : α) : List α :=
  match len with
  | 0 => []
  | k + 1 => tblGet t n d :: tblRange t (n + 1) k d

/-- Byte `i` of a string; beyond its end a string reads 0. -/
def byteAt (b : Bytes) (i : Nat) : Byte := b.getD i 0

/-- The little-endian reading of a byte string. -/
def leNat : Bytes → Nat
  | [] => 0
  | b :: r => b.toNat + 256 * leNat r

/-- The big-endian reading of a byte string. -/
def beNat (b : Bytes) : Nat := b.foldl (fun a x => 256 * a + x.toNat) 0

/-- The `n` low bytes of `v`, little-endian. -/
def leBytes : Nat → Nat → Bytes
  | 0, _ => []
  | n + 1, v => BitVec.ofNat 8 v :: leBytes n (v / 256)

/-- The `n` low bytes of `v`, big-endian. -/
def beBytes (n v : Nat) : Bytes := (leBytes n v).reverse

/-- `len` bytes from `off`, padded with zeros beyond the end. -/
def slice (b : Bytes) (off len : Nat) : Bytes :=
  let c := (b.drop off).take len
  c ++ List.replicate (len - c.length) 0

def u8 (b : Bytes) (off : Nat) : Nat := (byteAt b off).toNat
def u16 (b : Bytes) (off : Nat) : Nat := leNat (slice b off 2)
def u32 (b : Bytes) (off : Nat) : Nat := leNat (slice b off 4)
def u64 (b : Bytes) (off : Nat) : Nat := leNat (slice b off 8)
def u128 (b : Bytes) (off : Nat) : Nat := leNat (slice b off 16)

/-- Bytes `off` onward replaced by `v`; the string grows with zeros where it is too short. -/
def patch (b : Bytes) (off : Nat) (v : Bytes) : Bytes :=
  slice b 0 off ++ v ++ b.drop (off + v.length)

def zeros (n : Nat) : Bytes := List.replicate n 0

/-- All bytes are 0 in `len` bytes from `off`. -/
def allZero (b : Bytes) (off len : Nat) : Bool := (slice b off len).all (· == 0)

/-- Bits hi:lo of a number. -/
def bits (v hi lo : Nat) : Nat := (v >>> lo) % 2 ^ (hi + 1 - lo)

def bit (v i : Nat) : Bool := v.testBit i

def b2n (b : Bool) : Nat := if b then 1 else 0

/-- A number with its bit `i` set to `b`. -/
def setBit (v i : Nat) (b : Bool) : Nat := if b then v ||| (1 <<< i) else if v.testBit i then v - (1 <<< i) else v

/-- Bit `i` of a word set to `b`. -/
def putBit {w : Nat} (v : BitVec w) (i : Nat) (b : Bool) : BitVec w :=
  if b then v ||| (1#w <<< i) else v &&& ~~~(1#w <<< i)

/-- The n low bits of v read as two's complement. -/
def sint (n v : Nat) : Int := if v % 2 ^ n < 2 ^ (n - 1) then (v % 2 ^ n : Nat) else (v % 2 ^ n : Nat) - (2 ^ n : Nat)

/-- The two's complement word of an integer. -/
def ofInt (w : Nat) (i : Int) : BitVec w := BitVec.ofInt w i

/-- A 32-bit count that saturates. -/
def satInc (c : W32) : W32 := if c = 0xFFFFFFFF then c else c + 1

def ceilDiv (a b : Nat) : Nat := if b = 0 then 0 else (a + b - 1) / b

/-- The floor of the square root, by bits from `2^k` downward. -/
def isqrtAux (n : Nat) : Nat → Nat → Nat
  | 0, r => r
  | k + 1, r =>
    let t := r + 2 ^ k
    isqrtAux n k (if t * t ≤ n then t else r)

def isqrt (n : Nat) : Nat := isqrtAux n (n.log2 / 2 + 1) 0

/-- The first index of a list at which `p` holds. -/
def firstIdx {α : Type} (p : α → Bool) : List α → Nat → Option Nat
  | [], _ => none
  | x :: r, i => if p x then some i else firstIdx p r (i + 1)

/-- The list with entry `i` replaced. -/
def setAt {α : Type} (l : List α) (i : Nat) (v : α) : List α := l.set i v

end Sys2Proof.Machine
end

