-- ==== Sys2Proof/Machine/Crypto.lean ====
section
/-! DEFINITION. The standard algorithms that the manual names: SHA-256 and SHA-384 (FIPS 180-4),
HMAC-SHA-256 (FIPS 198-1), the KDF of R396, AES-128 and AES-256 (FIPS 197), AES-CMAC (SP 800-38B),
AES-GCM (SP 800-38D), AES-KW (SP 800-38F), ECDSA and ECDH over P-384 (FIPS 186-5), and the CRCs. -/

namespace Sys2Proof.Machine

/-! ### Constants of SHA-2: fractions of the roots of the first primes -/

def isPrime (n : Nat) : Bool := decide (2 ≤ n) && (List.range n).all (fun d => d < 2 || n % d != 0)

def primes80 : List Nat := ((List.range 410).filter isPrime).take 80

def icbrtAux (n : Nat) : Nat → Nat → Nat
  | 0, r => r
  | k + 1, r =>
    let t := r + 2 ^ k
    icbrtAux n k (if t * t * t ≤ n then t else r)

def fracCbrt (w p : Nat) : Nat := icbrtAux (p * 2 ^ (3 * w)) (w + 4) 0 % 2 ^ w
def fracSqrt (w p : Nat) : Nat := isqrt (p * 2 ^ (2 * w)) % 2 ^ w

/-! ### SHA-2 over words of w bits -/

structure Sha where
  w : Nat
  rounds : Nat
  s0 : Nat × Nat × Nat
  s1 : Nat × Nat × Nat
  e0 : Nat × Nat × Nat
  e1 : Nat × Nat × Nat
  deriving DecidableEq, Repr

def sha32 : Sha := ⟨32, 64, (7, 18, 3), (17, 19, 10), (2, 13, 22), (6, 11, 25)⟩
def sha64 : Sha := ⟨64, 80, (1, 8, 7), (19, 61, 6), (28, 34, 39), (14, 18, 41)⟩

def rotr (w x n : Nat) : Nat := (x >>> n) ||| ((x <<< (w - n)) % 2 ^ w)

def smallSig (c : Sha) (t : Nat × Nat × Nat) (x : Nat) : Nat :=
  rotr c.w x t.1 ^^^ rotr c.w x t.2.1 ^^^ (x >>> t.2.2)

def bigSig (c : Sha) (t : Nat × Nat × Nat) (x : Nat) : Nat :=
  rotr c.w x t.1 ^^^ rotr c.w x t.2.1 ^^^ rotr c.w x t.2.2

/-- The message schedule, newest word first. -/
def shaSched (c : Sha) : Nat → List Nat → List Nat
  | 0, ws => ws
  | k + 1, ws =>
    let x := (smallSig c c.s1 (ws.getD 1 0) + ws.getD 6 0 + smallSig c c.s0 (ws.getD 14 0) + ws.getD 15 0) % 2 ^ c.w
    shaSched c k (x :: ws)

structure Sha8 where
  a : Nat
  b : Nat
  c : Nat
  d : Nat
  e : Nat
  f : Nat
  g : Nat
  h : Nat
  deriving DecidableEq, Repr

def shaRound (c : Sha) (s : Sha8) (kw : Nat × Nat) : Sha8 :=
  let ch := (s.e &&& s.f) ^^^ ((2 ^ c.w - 1 - s.e) &&& s.g)
  let t1 := s.h + bigSig c c.e1 s.e + ch + kw.1 + kw.2
  let maj := (s.a &&& s.b) ^^^ (s.a &&& s.c) ^^^ (s.b &&& s.c)
  let t2 := bigSig c c.e0 s.a + maj
  ⟨(t1 + t2) % 2 ^ c.w, s.a, s.b, s.c, (s.d + t1) % 2 ^ c.w, s.e, s.f, s.g⟩

def chunks (n : Nat) : Nat → Bytes → List Bytes
  | 0, _ => []
  | k + 1, b => b.take n :: chunks n k (b.drop n)

def shaBlock (c : Sha) (ks : List Nat) (h : Sha8) (blk : Bytes) : Sha8 :=
  let ws := ((chunks (c.w / 8) 16 blk).map beNat).reverse
  let sched := (shaSched c (c.rounds - 16) ws).reverse
  let s := (ks.zip sched).foldl (shaRound c) h
  let m := 2 ^ c.w
  ⟨(h.a + s.a) % m, (h.b + s.b) % m, (h.c + s.c) % m, (h.d + s.d) % m,
   (h.e + s.e) % m, (h.f + s.f) % m, (h.g + s.g) % m, (h.h + s.h) % m⟩

def shaPad (c : Sha) (m : Bytes) : Bytes :=
  let blk := 2 * c.w
  let lenB := c.w / 4
  let k := (2 * blk - 1 - lenB - m.length % blk) % blk
  m ++ [0x80] ++ zeros k ++ beBytes lenB (8 * m.length)

def shaRun (c : Sha) (ks : List Nat) (iv : List Nat) (m : Bytes) : Bytes :=
  let p := shaPad c m
  let h0 : Sha8 := ⟨iv.getD 0 0, iv.getD 1 0, iv.getD 2 0, iv.getD 3 0, iv.getD 4 0, iv.getD 5 0, iv.getD 6 0, iv.getD 7 0⟩
  let h := (chunks (2 * c.w) (p.length / (2 * c.w)) p).foldl (shaBlock c ks) h0
  ([h.a, h.b, h.c, h.d, h.e, h.f, h.g, h.h].map (beBytes (c.w / 8))).flatten

def sha256 (m : Bytes) : Bytes :=
  shaRun sha32 ((primes80.take 64).map (fracCbrt 32)) ((primes80.take 8).map (fracSqrt 32)) m

def sha384 (m : Bytes) : Bytes :=
  (shaRun sha64 (primes80.map (fracCbrt 64)) (((primes80.drop 8).take 8).map (fracSqrt 64)) m).take 48

def xorBytes (a b : Bytes) : Bytes := (a.zip b).map (fun p => p.1 ^^^ p.2)

def hmac256 (k m : Bytes) : Bytes :=
  let k0 := slice (if k.length > 64 then sha256 k else k) 0 64
  let pad (c : Byte) : Bytes := k0.map (· ^^^ c)
  sha256 (pad 0x5c ++ sha256 (pad 0x36 ++ m))

/-- kdf(k, label, context, l) of R396, l in bits (a multiple of 8). -/
def kdf (k label context : Bytes) (l : Nat) : Bytes :=
  (((List.range (ceilDiv l 256)).map fun i =>
    hmac256 k (beBytes 4 (i + 1) ++ label ++ [0] ++ context ++ beBytes 4 l)).flatten).take (l / 8)

def ascii (s : String) : Bytes := s.toList.map fun c => BitVec.ofNat 8 c.toNat

/-! ### AES -/

def xtime (x : Nat) : Nat := if x < 128 then 2 * x else (2 * x) ^^^ 0x11b

def gmul : Nat → Nat → Nat → Nat
  | 0, _, _ => 0
  | k + 1, x, y => (if y % 2 = 1 then x else 0) ^^^ gmul k (xtime x) (y / 2)

def gf (x y : Nat) : Nat := gmul 8 x y

/-- x^254, the inverse in GF(2^8). -/
def ginv (x : Nat) : Nat :=
  let x2 := gf x x
  let x4 := gf x2 x2
  let x8 := gf x4 x4
  let x16 := gf x8 x8
  let x32 := gf x16 x16
  let x64 := gf x32 x32
  let x128 := gf x64 x64
  gf x128 (gf x64 (gf x32 (gf x16 (gf x8 (gf x4 x2)))))

def rotl8 (x n : Nat) : Nat := ((x <<< n) ||| (x >>> (8 - n))) % 256

def sboxN (x : Nat) : Nat :=
  let y := ginv x
  y ^^^ rotl8 y 1 ^^^ rotl8 y 2 ^^^ rotl8 y 3 ^^^ rotl8 y 4 ^^^ 0x63

def sbox : List Nat := (List.range 256).map sboxN
def isbox : List Nat := (List.range 256).map fun v => (sbox.findIdx? (· == v)).getD 0

def subW (w : List Nat) : List Nat := w.map fun x => sbox.getD x 0
def xorL (a b : List Nat) : List Nat := (a.zip b).map fun p => p.1 ^^^ p.2

/-- Key expansion; words newest first. -/
def keyExpand (nk : Nat) : Nat → Nat → Nat → List (List Nat) → List (List Nat)
  | 0, _, _, ws => ws
  | k + 1, i, rc, ws =>
    let prev := ws.getD 0 []
    let t :=
      if i % nk = 0 then
        (match subW (prev.drop 1 ++ prev.take 1) with | [] => [] | x :: r => (x ^^^ rc) :: r)
      else if nk > 6 && i % nk == 4 then subW prev else prev
    keyExpand nk k (i + 1) (if i % nk = 0 then xtime rc else rc) (xorL (ws.getD (nk - 1) []) t :: ws)

def natsOf (b : Bytes) : List Nat := b.map (·.toNat)
def bytesOf (l : List Nat) : Bytes := l.map (BitVec.ofNat 8)

/-- Round keys of 16 bytes. -/
def roundKeys (key : Bytes) : List (List Nat) :=
  let nk := key.length / 4
  let nr := nk + 6
  let w0 := (chunks 4 nk key).map natsOf
  let ws := (keyExpand nk (4 * (nr + 1) - nk) nk 1 w0.reverse).reverse
  (List.range (nr + 1)).map fun r => ((ws.drop (4 * r)).take 4).flatten

def shiftRows (s : List Nat) : List Nat := (List.range 16).map fun i => s.getD ((i + 4 * (i % 4)) % 16) 0
def invShiftRows (s : List Nat) : List Nat := (List.range 16).map fun i => s.getD ((i + 12 * (i % 4)) % 16) 0

def mixWith (c : List Nat) (s : List Nat) : List Nat :=
  (List.range 16).map fun i =>
    let col := (s.drop (4 * (i / 4))).take 4
    (List.range 4).foldl (fun a j => a ^^^ gf (c.getD ((j + 4 - i % 4) % 4) 0) (col.getD j 0)) 0

def aesEnc (key blk : Bytes) : Bytes :=
  let ks := roundKeys key
  let s := xorL (natsOf blk) (ks.getD 0 [])
  let mid := (ks.drop 1).take (ks.length - 2)
  let s := mid.foldl (fun s k => xorL (mixWith [2, 3, 1, 1] (shiftRows (subW s))) k) s
  bytesOf (xorL (shiftRows (subW s)) (ks.getD (ks.length - 1) []))

def aesDec (key blk : Bytes) : Bytes :=
  let ks := (roundKeys key).reverse
  let isub (s : List Nat) := s.map fun x => isbox.getD x 0
  let s := xorL (natsOf blk) (ks.getD 0 [])
  let mid := (ks.drop 1).take (ks.length - 2)
  let s := mid.foldl (fun s k => mixWith [14, 11, 13, 9] (xorL (isub (invShiftRows s)) k)) s
  bytesOf (xorL (isub (invShiftRows s)) (ks.getD (ks.length - 1) []))

/-! ### AES-CMAC -/

def dbl128 (x : Nat) : Nat := if x < 2 ^ 127 then 2 * x else (2 * x) % 2 ^ 128 ^^^ 0x87

def cmac (key m : Bytes) : Bytes :=
  let k1 := dbl128 (beNat (aesEnc key (zeros 16)))
  let n := max 1 (ceilDiv m.length 16)
  let head := m.take (16 * (n - 1))
  let tail := m.drop (16 * (n - 1))
  let last :=
    if tail.length = 16 then xorBytes tail (beBytes 16 k1)
    else xorBytes (slice (tail ++ [0x80]) 0 16) (beBytes 16 (dbl128 k1))
  let c := (chunks 16 (n - 1) head).foldl (fun c b => aesEnc key (xorBytes c b)) (zeros 16)
  aesEnc key (xorBytes c last)

/-! ### AES-GCM -/

/-- The product in GF(2^128) with the bit order of GCM. -/
def gcmMul : Nat → Nat → Nat → Nat
  | 0, _, _ => 0
  | k + 1, v, y =>
    (if y ≥ 2 ^ 127 then v else 0) ^^^
      gcmMul k (if v % 2 = 1 then (v / 2) ^^^ (0xe1 * 2 ^ 120) else v / 2) ((2 * y) % 2 ^ 128)

def pad16 (b : Bytes) : Bytes := b ++ zeros ((16 - b.length % 16) % 16)

def ghash (h : Nat) (b : Bytes) : Nat :=
  (chunks 16 (b.length / 16) b).foldl (fun y c => gcmMul 128 (y ^^^ beNat c) h) 0

/-- CTR from counter block `ctr`, whose low 32 bits count. -/
def gctr (key : Bytes) (iv : Bytes) (c0 : Nat) (m : Bytes) : Bytes :=
  ((chunks 16 (ceilDiv m.length 16) m).zipIdx.map fun p =>
    xorBytes p.1 (aesEnc key (iv ++ beBytes 4 (c0 + p.2)))).flatten

def gcmTag (key iv aad ct : Bytes) : Bytes :=
  let h := beNat (aesEnc key (zeros 16))
  let s := ghash h (pad16 aad ++ pad16 ct ++ beBytes 8 (8 * aad.length) ++ beBytes 8 (8 * ct.length))
  xorBytes (beBytes 16 s) (aesEnc key (iv ++ beBytes 4 1))

/-- Ciphertext and tag, for a 96-bit IV. -/
def gcmEnc (key iv aad pt : Bytes) : Bytes × Bytes :=
  let ct := gctr key iv 2 pt
  (ct, gcmTag key iv aad ct)

/-- The plaintext when the tag verifies. -/
def gcmDec (key iv aad ct tag : Bytes) : Option Bytes :=
  if gcmTag key iv aad ct = tag then some (gctr key iv 2 ct) else none

/-! ### AES-KW -/

def kwStep (key : Bytes) (n : Nat) (st : Bytes × List Bytes) (t : Nat) : Bytes × List Bytes :=
  let i := t % n
  let b := aesEnc key (st.1 ++ st.2.getD i [])
  (xorBytes (b.take 8) (beBytes 8 (t + 1)), st.2.set i (b.drop 8))

def kwWrap (key p : Bytes) : Bytes :=
  let n := p.length / 8
  let r := (List.range (6 * n)).foldl (kwStep key n) (List.replicate 8 0xa6, chunks 8 n p)
  r.1 ++ r.2.flatten

def kwUnStep (key : Bytes) (n : Nat) (st : Bytes × List Bytes) (t : Nat) : Bytes × List Bytes :=
  let i := t % n
  let b := aesDec key (xorBytes st.1 (beBytes 8 (t + 1)) ++ st.2.getD i [])
  (b.take 8, st.2.set i (b.drop 8))

def kwUnwrap (key c : Bytes) : Option Bytes :=
  let n := c.length / 8 - 1
  let r := (List.range (6 * n)).reverse.foldl (kwUnStep key n) (c.take 8, chunks 8 n (c.drop 8))
  if c.length ≥ 24 ∧ r.1 = List.replicate 8 0xa6 then some r.2.flatten else none

/-! ### P-384 -/

def p384 : Nat := 2 ^ 384 - 2 ^ 128 - 2 ^ 96 + 2 ^ 32 - 1
def n384 : Nat := 0xffffffffffffffffffffffffffffffffffffffffffffffffc7634d81f4372ddf581a0db248b0a77aecec196accc52973
def b384 : Nat := 0xb3312fa7e23ee7e4988e056be3f82d19181d9c6efe8141120314088f5013875ac656398d8a2ed19d2a85c8edd3ec2aef
def g384 : Nat × Nat :=
  (0xaa87ca22be8b05378eb1c71ef320ad746e1d3b628ba79b9859f741e082542a385502f25dbf55296c3a545e3872760ab7,
   0x3617de4a96262c6f5d9e98bf9292dc29f8f41dbd289a147ce9da3113b5f0b8c00a60b1ce1d7e819d7a431d7c90ea0e5f)

/-- b^e mod m by the bits of e from the top. -/
def powModAux (b m e : Nat) : Nat → Nat → Nat
  | 0, r => r
  | k + 1, r =>
    let r2 := r * r % m
    powModAux b m e k (if e.testBit k then r2 * b % m else r2)

def powMod (b e m : Nat) : Nat := powModAux (b % m) m e (e.log2 + 1) 1
def invMod (a m : Nat) : Nat := powMod a (m - 2) m

abbrev EcPt := Option (Nat × Nat)

def ecAdd (x y : EcPt) : EcPt :=
  match x, y with
  | none, q => q
  | p, none => p
  | some (x1, y1), some (x2, y2) =>
    if x1 = x2 ∧ (y1 + y2) % p384 = 0 then none
    else
      let l := if x1 = x2 then (3 * (x1 * x1 + p384 * p384 - 1)) % p384 * invMod (2 * y1) p384 % p384
               else (y2 + p384 - y1) * invMod (x2 + p384 - x1) p384 % p384
      let x3 := (l * l + 2 * p384 - x1 - x2) % p384
      some (x3, (l * (x1 + p384 - x3) + p384 - y1) % p384)

def ecMulAux (q : EcPt) (d : Nat) : Nat → EcPt → EcPt
  | 0, r => r
  | k + 1, r =>
    let r2 := ecAdd r r
    ecMulAux q d k (if d.testBit k then ecAdd r2 q else r2)

def ecMul (d : Nat) (q : EcPt) : EcPt := ecMulAux q d 384 none

def ecOn (x y : Nat) : Bool :=
  decide (x < p384) && decide (y < p384) && (y * y % p384 == (x * x * x + (p384 - 3) * x + b384) % p384)

/-- The uncompressed form, 97 bytes. -/
def ecBytes : EcPt → Bytes
  | none => zeros 97
  | some (x, y) => [0x04] ++ beBytes 48 x ++ beBytes 48 y

def ecOfBytes (b : Bytes) : EcPt :=
  let x := beNat (slice b 1 48)
  let y := beNat (slice b 49 48)
  if b.length = 97 ∧ u8 b 0 = 4 ∧ ecOn x y then some (x, y) else none

def ecdsaVerify (q : EcPt) (dig : Bytes) (r s : Nat) : Bool :=
  if q = none ∨ r = 0 ∨ n384 ≤ r ∨ s = 0 ∨ n384 ≤ s then false
  else
    let w := invMod s n384
    let e := beNat dig
    match ecAdd (ecMul (e * w % n384) (some g384)) (ecMul (r * w % n384) q) with
    | none => false
    | some (x, _) => x % n384 == r

/-- r and s, big-endian, 96 bytes, with the per-signature number k. -/
def ecdsaSign (d k : Nat) (dig : Bytes) : Bytes :=
  match ecMul k (some g384) with
  | none => zeros 96
  | some (x, _) =>
    let r := x % n384
    beBytes 48 r ++ beBytes 48 (invMod k n384 * (beNat dig + r * d) % n384)

/-- The private scalar of R396 from 448 extra random bits. -/
def scalarOf (c : Bytes) : Nat := beNat c % (n384 - 1) + 1

def ecPub (d : Nat) : Bytes := ecBytes (ecMul d (some g384))

/-! ### CRCs, reflected and plain -/

def crcBitR (poly : Nat) : Nat → Nat → Nat
  | 0, c => c
  | k + 1, c => crcBitR poly k (if c % 2 = 1 then (c / 2) ^^^ poly else c / 2)

/-- A reflected CRC with initial value and final inversion all ones. -/
def crcR (poly w : Nat) (b : Bytes) : Nat :=
  (b.foldl (fun c x => crcBitR poly 8 (c ^^^ x.toNat)) (2 ^ w - 1)) ^^^ (2 ^ w - 1)

/-- CRC-32C (Castagnoli) and CRC-32 (IEEE 802.3). -/
def crc32c (b : Bytes) : Nat := crcR 0x82F63B78 32 b
def crc32 (b : Bytes) : Nat := crcR 0xEDB88320 32 b

def crcBitL (poly w : Nat) : Nat → Nat → Nat
  | 0, c => c
  | k + 1, c => crcBitL poly w k (if c ≥ 2 ^ (w - 1) then ((2 * c) % 2 ^ w) ^^^ poly else 2 * c)

/-- A CRC taken most significant bit first. -/
def crcL (poly w init : Nat) (b : Bytes) : Nat :=
  b.foldl (fun c x => crcBitL poly w 8 (c ^^^ (x.toNat <<< (w - 8)))) init

end Sys2Proof.Machine
end

