-- ==== Sys2Proof/Config.lean ====
section
/-! DEFINITION. What an implementation fixes and what the manual leaves open: constants without a body
(nothing in Lean can evaluate them), and the tables of constants that several files read. -/

namespace Sys2Proof.Config

/-- Random bits of the DRBG (R398), by the count of free values taken so far. FREE VALUE: log entry 10. -/
opaque random : Nat → BitVec 512

/-- A value of a word that the manual does not state, by the count of free values taken so far. -/
opaque word : Nat → BitVec 64

/-- The sum of a list of three or more binary64 terms in the order that the engine takes: the manual fixes no
order (chapters 3 to 5). FREE VALUE: log entry 11. -/
opaque fsum : List (BitVec 64) → BitVec 64

/-- NV of a fused multiply-add of 0 and infinity with a quiet NaN addend: IEEE 754 leaves it to the
implementation. FREE VALUE: log entry 12. -/
opaque fmaNanInvalid : Bool

/-- Whether exp(x), which no binary64 number is, is rounded up: the manual states no rounding (R149). FREE VALUE:
log entry 11. -/
opaque expUp : BitVec 64 → Bool

/-- a − Σ l·d·m over one or more terms (l, d, m) in binary64, as the 64 FMA lanes sum it (R89): the manual fixes no
order of the terms and no rounding within one. FREE VALUE: log entry 11. -/
opaque elim : BitVec 64 → List (BitVec 64 × BitVec 64 × BitVec 64) → BitVec 64

/-- The place of the term that a double-double sum takes next, by the terms left (R93): the manual fixes no order.
FREE VALUE: log entry 11. -/
opaque sumOrder : List (BitVec 64) → Nat

/-- An uncorrectable ECC error in a word that SOLV stages from DRAM, by the count of free values taken so far (R142):
an event of the memory that no command brings. FREE VALUE: log entry 29. -/
opaque eccError : Nat → Bool

/-- The flows and heads that a cold NEWTON run starts from, by structure signature and position: R99 names
"initial values of the image", and no section holds them. FREE VALUE: log entry 22. -/
opaque newtonStart : BitVec 64 → Nat → BitVec 64

/-- The fitted NAND: whether a block carries a factory bad mark, the blocks in all less 1, the page size
code and the targets less 1 (R461, Table 16-12). FREE VALUES: log entry 13. -/
opaque factoryBad : Nat → Bool
opaque nandBlocks : BitVec 18
opaque nandPage : BitVec 2
opaque nandTargets : BitVec 2
opaque nandId : BitVec 64
/-- Pages of a NAND block. -/
opaque nandPages : Nat

/-- The public key and the device secret of Muotte's test root, and the Muotte vendor key: held in the
boot ROM and not printed in the manual (R395, R409). FREE VALUES: log entry 14. -/
opaque testRootKey : List (BitVec 8)
opaque testSecret : List (BitVec 8)
opaque vendorKey : List (BitVec 8)

/-- The delayed sample of a current channel in units of 2^-64 code, by PHASE and the last 32 codes, newest
first (R265): the taps of the filter are not given. FREE VALUE: log entry 15. -/
opaque delayed : BitVec 32 → List (BitVec 24) → Int

/-- The temperature in °C below 0 °C by R/R0, A and B: the inverse equation there has no closed form and
its third coefficient is not given (R269). FREE VALUE: log entry 16. -/
opaque cvdBelow : BitVec 64 → BitVec 64 → BitVec 64 → BitVec 64

/-- The heat factor of R270 where a temperature is below 0 °C, outside IAPWS-IF97 region 1, by θf, θr, θm and PK.
FREE VALUE: log entry 17. -/
opaque heatFactor : BitVec 64 → BitVec 64 → BitVec 64 → BitVec 64 → BitVec 64

/-- How far METR's heat factor deviates from the exact value, in units of 10^-14 of it, held to 0.001 % where it is
used (R270). FREE VALUE: log entry 17. -/
opaque heatDev : BitVec 64 → BitVec 64 → BitVec 64 → BitVec 64 → Int

/-- A calibrated sample whose exact value does not fit a signed 32-bit integer (R265), by that value. FREE VALUE: log
entry 15. -/
opaque calOver : Int → BitVec 32

/-- The number of the exchange of MFN 0 of a station slot: the manual fixes no start of the exchange
numbers (R309). FREE VALUE: log entry 18. -/
opaque exchangeBase : Nat → Nat

/-- The value that REC takes when a frame is received in error-passive state: ISO 11898-1 leaves a choice
from 119 to 127, here as an excess over 119. FREE VALUE: log entry 19. -/
opaque recExcess : Nat → Fin 9

/-- The TTL or hop limit of a PTP message over UDP that is not a peer delay message. FREE VALUE: log
entry 21. -/
opaque ptpTtl : BitVec 8

end Sys2Proof.Config
end

