-- ==== Sys2Proof/Machine/Float.lean ====
section
/-! DEFINITION. IEEE 754 binary32 and binary64 with the choices of R213 and R214: nearest with ties to
even, subnormals kept, tininess after rounding, canonical NaNs. Every value is exact before its one
rounding. Flags are in the layout of Table 7-7. -/

namespace Sys2Proof.Machine

/-- A binary format: bits of the stored significand and of the exponent. -/
structure Fmt where
  m : Nat
  e : Nat
  deriving DecidableEq, Repr

def fmt64 : Fmt := ⟨52, 11⟩
def fmt32 : Fmt := ⟨23, 8⟩

def Fmt.bias (f : Fmt) : Nat := 2 ^ (f.e - 1) - 1
/-- The exponent of the least significant bit of the smallest number. -/
def Fmt.qmin (f : Fmt) : Int := 1 - (f.bias : Int) - (f.m : Int)
def Fmt.nan (f : Fmt) : Nat := (2 ^ (f.e + 1) - 1) * 2 ^ (f.m - 1)
def Fmt.inf (f : Fmt) : Nat := (2 ^ f.e - 1) * 2 ^ f.m
def Fmt.sgn (f : Fmt) : Nat := 2 ^ (f.e + f.m)

/-- A floating-point datum: NaN, infinity, or (-1)^neg × m × 2^e. -/
inductive FVal where
  | nan (signalling : Bool)
  | inf (neg : Bool)
  | fin (neg : Bool) (m : Nat) (e : Int)
  deriving DecidableEq, Repr

/-- The flags NX, UF, OF, DZ, NV, IDZ and SAT of Table 7-7. -/
def flNX : BitVec 7 := 1
def flUF : BitVec 7 := 2
def flOF : BitVec 7 := 4
def flDZ : BitVec 7 := 8
def flNV : BitVec 7 := 16
def flIDZ : BitVec 7 := 32
def flSAT : BitVec 7 := 64

def fdec (f : Fmt) (b : Nat) : FVal :=
  let neg := bit b (f.e + f.m)
  let ex := bits b (f.e + f.m - 1) f.m
  let mant := b % 2 ^ f.m
  if ex = 2 ^ f.e - 1 then
    if mant = 0 then .inf neg else .nan (!(bit b (f.m - 1)))
  else if ex = 0 then .fin neg mant f.qmin
  else .fin neg (mant + 2 ^ f.m) (f.qmin + ((ex : Int) - 1))

def fsign (f : Fmt) (neg : Bool) : Nat := if neg then f.sgn else 0

/-- Whether a magnitude q + (rest)/(whole) is rounded up, to nearest with ties to even. -/
def roundUp (q rest half : Nat) (sticky : Bool) : Bool :=
  decide (rest > half) || (decide (rest = half) && (sticky || q % 2 == 1))

/-- m × 2^-s rounded to nearest even, for s ≥ 1; and whether it was inexact. -/
def shiftRound (m s : Nat) (sticky : Bool) : Nat × Bool :=
  let q := m >>> s
  let rest := m % 2 ^ s
  (if roundUp q rest (2 ^ (s - 1)) sticky then q + 1 else q, decide (rest ≠ 0) || sticky)

/-- The datum (-1)^neg × m × 2^e, with a further positive amount below the last bit of `m` when
`sticky`, rounded into the format (R213). `m` must have more than the format's bits when `sticky`. -/
def fpack (f : Fmt) (neg : Bool) (m : Nat) (e : Int) (sticky : Bool) : Nat × BitVec 7 :=
  if m = 0 then (fsign f neg, 0)
  else
    let top := e + (m.log2 : Int)
    let q := max (top - (f.m : Int)) f.qmin
    let (mant, inexact) :=
      if q ≤ e then (m * 2 ^ (e - q).toNat, sticky) else shiftRound m (q - e).toNat sticky
    let (mant, q) := if mant = 2 ^ (f.m + 1) then (2 ^ f.m, q + 1) else (mant, q)
    let ex := if mant < 2 ^ f.m then 0 else (q - f.qmin).toNat + 1
    if ex ≥ 2 ^ f.e - 1 then (fsign f neg + f.inf, flOF ||| flNX)
    else
      -- tininess after rounding: the value rounded to the format's precision with no exponent limit
      let q0 := top - (f.m : Int)
      let tiny := decide (q0 < f.qmin) &&
        (if q0 ≤ e then true
         else decide (q0 + 1 < f.qmin) || decide ((shiftRound m (q0 - e).toNat sticky).1 < 2 ^ (f.m + 1)))
      let fl := if inexact then (if tiny then flNX ||| flUF else flNX) else 0
      (fsign f neg + (if ex = 0 then mant else ex * 2 ^ f.m + (mant - 2 ^ f.m)), fl)

def isSNaN : FVal → Bool
  | .nan s => s
  | _ => false

def isNaN : FVal → Bool
  | .nan _ => true
  | _ => false

def nvIf (b : Bool) : BitVec 7 := if b then flNV else 0

/-- A signed exact value m × 2^e. -/
def sgnInt (neg : Bool) (m : Nat) : Int := if neg then -(m : Int) else m

/-- The exact sum of two finite data as integer × 2^e. -/
def addExact (n1 : Bool) (m1 : Nat) (e1 : Int) (n2 : Bool) (m2 : Nat) (e2 : Int) : Int × Int :=
  let e := min e1 e2
  (sgnInt n1 m1 * 2 ^ (e1 - e).toNat + sgnInt n2 m2 * 2 ^ (e2 - e).toNat, e)

/-- The sum of two data that are no NaN; an exact zero sum is +0 unless both are −0. -/
def addVal (f : Fmt) (a b : FVal) : Nat × BitVec 7 :=
  match a, b with
  | .inf s, .inf t => if s = t then (fsign f s + f.inf, 0) else (f.nan, flNV)
  | .inf s, _ => (fsign f s + f.inf, 0)
  | _, .inf t => (fsign f t + f.inf, 0)
  | .fin n1 m1 e1, .fin n2 m2 e2 =>
    let (v, e) := addExact n1 m1 e1 n2 m2 e2
    if v = 0 then (fsign f (n1 && n2 && (m1 == 0) && (m2 == 0)), 0)
    else fpack f (decide (v < 0)) v.natAbs e false
  | _, _ => (f.nan, 0)

def negVal : FVal → FVal
  | .inf s => .inf (!s)
  | .fin n m e => .fin (!n) m e
  | x => x

def fAdd (f : Fmt) (x y : Nat) : Nat × BitVec 7 :=
  let a := fdec f x
  let b := fdec f y
  if isNaN a || isNaN b then (f.nan, nvIf (isSNaN a || isSNaN b)) else addVal f a b

def fSub (f : Fmt) (x y : Nat) : Nat × BitVec 7 :=
  let a := fdec f x
  let b := fdec f y
  if isNaN a || isNaN b then (f.nan, nvIf (isSNaN a || isSNaN b)) else addVal f a (negVal b)

/-- The exact product of two data that are no NaN; `none` is 0 × infinity. -/
def mulVal (a b : FVal) : Option FVal :=
  match a, b with
  | .inf s, .inf t => some (.inf (s != t))
  | .inf s, .fin n m _ => if m = 0 then none else some (.inf (s != n))
  | .fin n m _, .inf t => if m = 0 then none else some (.inf (n != t))
  | .fin n1 m1 e1, .fin n2 m2 e2 => some (.fin (n1 != n2) (m1 * m2) (e1 + e2))
  | _, _ => none

def packVal (f : Fmt) : FVal → Nat × BitVec 7
  | .nan _ => (f.nan, 0)
  | .inf s => (fsign f s + f.inf, 0)
  | .fin n m e => fpack f n m e false

def fMul (f : Fmt) (x y : Nat) : Nat × BitVec 7 :=
  let a := fdec f x
  let b := fdec f y
  if isNaN a || isNaN b then (f.nan, nvIf (isSNaN a || isSNaN b))
  else match mulVal a b with
    | none => (f.nan, flNV)
    | some v => packVal f v

def fDiv (f : Fmt) (x y : Nat) : Nat × BitVec 7 :=
  let a := fdec f x
  let b := fdec f y
  if isNaN a || isNaN b then (f.nan, nvIf (isSNaN a || isSNaN b))
  else match a, b with
    | .inf _, .inf _ => (f.nan, flNV)
    | .inf s, .fin n _ _ => (fsign f (s != n) + f.inf, 0)
    | .fin n _ _, .inf t => (fsign f (n != t), 0)
    | .fin n1 m1 e1, .fin n2 m2 e2 =>
      if m2 = 0 then (if m1 = 0 then (f.nan, flNV) else (fsign f (n1 != n2) + f.inf, flDZ))
      else if m1 = 0 then (fsign f (n1 != n2), 0)
      else
        let k := f.m + 3 + m2.log2
        fpack f (n1 != n2) (m1 * 2 ^ k / m2) (e1 - e2 - k) (decide (m1 * 2 ^ k % m2 ≠ 0))
    | _, _ => (f.nan, 0)

def fSqrt (f : Fmt) (x : Nat) : Nat × BitVec 7 :=
  match fdec f x with
  | .nan s => (f.nan, nvIf s)
  | .inf true => (f.nan, flNV)
  | .inf false => (f.inf, 0)
  | .fin n m e =>
    if m = 0 then (fsign f n, 0)
    else if n then (f.nan, flNV)
    else
      let odd := (e % 2).toNat
      let v := m * 2 ^ (2 * (f.m + 3) + odd)
      let r := isqrt v
      fpack f false r ((e - odd) / 2 - (f.m + 3 : Nat)) (decide (r * r ≠ v))

/-- a × b + c with one rounding. -/
def fFma (f : Fmt) (neg : Bool) (x y z : Nat) : Nat × BitVec 7 :=
  let a := fdec f x
  let b := fdec f y
  let c0 := fdec f z
  let c := if neg then negVal c0 else c0
  let sig := isSNaN a || isSNaN b || isSNaN c
  if isNaN a || isNaN b then (f.nan, nvIf sig)
  else match mulVal a b with
    | none => (f.nan, if isNaN c && !isSNaN c then nvIf Config.fmaNanInvalid else flNV)
    | some v => if isNaN c then (f.nan, nvIf sig) else addVal f v c

/-- The order of two data; `none` when unordered. −0 and +0 are equal. -/
def fcmpVal (a b : FVal) : Option Ordering :=
  match a, b with
  | .nan _, _ => none
  | _, .nan _ => none
  | .inf s, .inf t => some (if s = t then .eq else if s then .lt else .gt)
  | .inf s, _ => some (if s then .lt else .gt)
  | _, .inf t => some (if t then .gt else .lt)
  | .fin n1 m1 e1, .fin n2 m2 e2 => some (compare (addExact n1 m1 e1 (!n2) m2 e2).1 0)

def fcmp (f : Fmt) (x y : Nat) : Option Ordering := fcmpVal (fdec f x) (fdec f y)

/-- The order used by FMIN and its kin: −0 is below +0 (Table 7-5). -/
def fbelow (f : Fmt) (x y : Nat) : Bool :=
  match fcmp f x y with
  | some .lt => true
  | some .eq => bit x (f.e + f.m) && !bit y (f.e + f.m)
  | _ => false

/-- FMIN, FMAX, FMINN and FMAXN (Table 7-5): `mx` picks the larger, `num` ignores one NaN. -/
def fMinMax (f : Fmt) (mx num : Bool) (x y : Nat) : Nat × BitVec 7 :=
  let a := fdec f x
  let b := fdec f y
  let fl := nvIf (isSNaN a || isSNaN b)
  if isNaN a && isNaN b then (f.nan, fl)
  else if isNaN a then (if num then y else f.nan, fl)
  else if isNaN b then (if num then x else f.nan, fl)
  else (if fbelow f x y != mx then x else y, fl)

/-- m × 2^e rounded to an integer magnitude under RM, and whether it was inexact. -/
def roundInt (rm : RMode) (neg : Bool) (m : Nat) (e : Int) : Nat × Bool :=
  if 0 ≤ e then (m * 2 ^ e.toNat, false)
  else
    let s := (-e).toNat
    let q := m >>> s
    let rest := m % 2 ^ s
    let up := match rm with
      | .nearest => roundUp q rest (2 ^ (s - 1)) false
      | .zero => false
      | .down => neg && decide (rest ≠ 0)
      | .up => !neg && decide (rest ≠ 0)
    (if up then q + 1 else q, decide (rest ≠ 0))

/-- Floating point to an integer in lo to hi (R214). -/
def fToInt (f : Fmt) (rm : RMode) (lo hi : Int) (x : Nat) : Int × BitVec 7 :=
  match fdec f x with
  | .nan _ => (0, flNV)
  | .inf s => (if s then lo else hi, flNV)
  | .fin n m e =>
    let (q, inexact) := roundInt rm n m e
    let v := sgnInt n q
    if v < lo then (lo, flNV) else if v > hi then (hi, flNV)
    else (v, if inexact then flNX else 0)

/-- An integer to floating point. -/
def fOfInt (f : Fmt) (v : Int) : Nat × BitVec 7 := fpack f (decide (v < 0)) v.natAbs 0 false

/-- FRND: an integral value under RM; NX is never raised. -/
def fRnd (f : Fmt) (rm : RMode) (x : Nat) : Nat × BitVec 7 :=
  match fdec f x with
  | .nan s => (f.nan, nvIf s)
  | .inf s => (fsign f s + f.inf, 0)
  | .fin n m e => ((fpack f n (roundInt rm n m e).1 0 false).1, 0)

/-- FCVT between the two formats. -/
def fCvt (src dst : Fmt) (x : Nat) : Nat × BitVec 7 :=
  match fdec src x with
  | .nan s => (dst.nan, nvIf s)
  | v => packVal dst v

/-! ### The values alone, for the engines that keep no flags -/

def addF (x y : F64) : F64 := BitVec.ofNat 64 (fAdd fmt64 x.toNat y.toNat).1
def subF (x y : F64) : F64 := BitVec.ofNat 64 (fSub fmt64 x.toNat y.toNat).1
def mulF (x y : F64) : F64 := BitVec.ofNat 64 (fMul fmt64 x.toNat y.toNat).1
def divF (x y : F64) : F64 := BitVec.ofNat 64 (fDiv fmt64 x.toNat y.toNat).1
def sqrtF (x : F64) : F64 := BitVec.ofNat 64 (fSqrt fmt64 x.toNat).1
def fmaF (x y z : F64) : F64 := BitVec.ofNat 64 (fFma fmt64 false x.toNat y.toNat z.toNat).1
def negF (x : F64) : F64 := x ^^^ (1#64 <<< 63)
def absF (x : F64) : F64 := x &&& ~~~(1#64 <<< 63)
def ltF (x y : F64) : Bool := fcmp fmt64 x.toNat y.toNat == some .lt
def leF (x y : F64) : Bool := let c := fcmp fmt64 x.toNat y.toNat; c == some .lt || c == some .eq
def eqF (x y : F64) : Bool := fcmp fmt64 x.toNat y.toNat == some .eq
def nanF (x : F64) : Bool := isNaN (fdec fmt64 x.toNat)
def infF (x : F64) : Bool := match fdec fmt64 x.toNat with | .inf _ => true | _ => false
def finF (x : F64) : Bool := match fdec fmt64 x.toNat with | .fin _ _ _ => true | _ => false
def maxF (x y : F64) : F64 := if ltF x y then y else x
def minF (x y : F64) : F64 := if ltF y x then y else x
def ofIntF (v : Int) : F64 := BitVec.ofNat 64 (fOfInt fmt64 v).1
def ofNatF (v : Nat) : F64 := ofIntF v
/-- num/den × 2^sc correctly rounded, for constants and exact ratios. -/
def ofRatioF (num : Int) (den : Nat) : F64 :=
  if num = 0 ∨ den = 0 then 0
  else
    let k := 56 + den.log2
    BitVec.ofNat 64 (fpack fmt64 (decide (num < 0)) (num.natAbs * 2 ^ k / den) (-(k : Int))
      (decide (num.natAbs * 2 ^ k % den ≠ 0))).1
/-- binary64 to the nearest integer, ties to even, clamped to lo..hi; NaN gives 0. -/
def toIntF (lo hi : Int) (x : F64) : Int := (fToInt fmt64 .nearest lo hi x.toNat).1
def toF32 (x : F64) : F32 := BitVec.ofNat 32 (fCvt fmt64 fmt32 x.toNat).1
def ofF32 (x : F32) : F64 := BitVec.ofNat 64 (fCvt fmt32 fmt64 x.toNat).1
def addS (x y : F32) : F32 := BitVec.ofNat 32 (fAdd fmt32 x.toNat y.toNat).1
def subS (x y : F32) : F32 := BitVec.ofNat 32 (fSub fmt32 x.toNat y.toNat).1
def mulS (x y : F32) : F32 := BitVec.ofNat 32 (fMul fmt32 x.toNat y.toNat).1
def divS (x y : F32) : F32 := BitVec.ofNat 32 (fDiv fmt32 x.toNat y.toNat).1
def ltS (x y : F32) : Bool := fcmp fmt32 x.toNat y.toNat == some .lt
def leS (x y : F32) : Bool := let c := fcmp fmt32 x.toNat y.toNat; c == some .lt || c == some .eq
def negS (x : F32) : F32 := x ^^^ (1#32 <<< 31)
def absS (x : F32) : F32 := x &&& ~~~(1#32 <<< 31)
def finS (x : F32) : Bool := match fdec fmt32 x.toNat with | .fin _ _ _ => true | _ => false

end Sys2Proof.Machine
end

