-- ==== Sys2Proof/Machine/TypesCore.lean ====
section
/-! DEFINITION. State of the common registers, SYS, PWR, SCHED, the process image, the cell engines
and MC1, as plain data. A default field value is the field's reset value. -/

namespace Sys2Proof.Machine

/-- The common registers of one block (R29, Tables 1-11 to 1-14). ID is a constant, STATUS.FROZEN is
read from the set of frozen masters, CNTV is a second view of `cnt`, and STATUS.DRAIN and STATUS.IDLE
are read from EN, FROZEN and the item in flight (R33, R34). -/
structure Blk where
  en : Bool := false
  /-- EN has risen and the block's next scheduled slot has not come (R35). -/
  held : Bool := false
  cntSat : Bool := false
  cnt : Tbl W32 := []
  deriving DecidableEq, Repr

/-- The latched or staged words of a wide register, for one master (R13). `words` holds the values of
the words by their word index, a word that is absent has not been written. -/
structure WideLatch where
  who : RegMaster
  addr : Nat
  words : Tbl W32
  deriving DecidableEq, Repr

/-- SYS registers and the start-up state (Tables 18-9 to 18-11). -/
structure SysRegs where
  cause : BitVec 4 := 1
  pd0Cold : Bool := true
  imgRes : Byte := 0
  fwErr : Byte := 0
  tsrc : BitVec 2 := 0
  debug : Bool := false
  imgB : Bool := false
  fwB : Bool := false
  dirBad : Bool := false
  stage : BitVec 4 := 0
  pwait : Byte := 20
  twait : Byte := 30
  vddq : Bool := false
  chok : BitVec 2 := 0
  gib : BitVec 5 := 0
  startTbc : W64 := 0
  /-- The offsets FWA, FWB, IMGA, IMGB and CERT of the boot directory (R496). -/
  dirFwA : W32 := 0
  dirFwB : W32 := 0xFFFFFFFF
  dirImgA : W32 := 0xFFFFFFFF
  dirImgB : W32 := 0xFFFFFFFF
  dirCert : W32 := 0
  xmode : Byte := 0
  xdiv : Byte := 40
  /-- FWDIG of the firmware that runs (R406, R497). -/
  fwDig : BitVec 384 := 0
  /-- A requested SYSRST and its cause (R494). -/
  rstReq : Option (BitVec 4) := none
  /-- Stage 4 has found an ACTIVE partner (R501). -/
  partnerActive : Bool := false
  deriving DecidableEq, Repr

/-- One power domain (Table 18-14). -/
structure Dom where
  upcnt : W16 := 0
  need : Bool := false
  /-- 0 OFF, 1 ON, 2 RET, 3 switching. -/
  st : BitVec 2 := 0
  deriving DecidableEq, Repr

/-- PWR registers (Tables 18-12 to 18-14). -/
structure PwrRegs where
  pllA : Bool := false
  pllB : Bool := false
  pllC : Bool := false
  pd0Src : Bool := true
  pflock : Bool := false
  tjMax : W16 := 0
  tj : W16 := 0
  vbat : BitVec 12 := 0
  doms : Tbl Dom := []
  /-- PFTIME, the RTC tick count at the last power failure (R278, R487). -/
  pfTime : BitVec 48 := 0
  /-- The management domain has not started: PORST_N is low or the main rails are absent (R494). -/
  asleep : Bool := true
  deriving DecidableEq, Repr

/-- A directory entry of a Bornen image (R42). -/
structure DirEnt where
  typ : Nat
  num : Nat
  off : Nat
  len : Nat
  crc : Nat
  deriving DecidableEq, Repr

/-- A slot entry (Table 2-3); the period 0 of the image is held as 65,536. -/
structure SlotE where
  start : Nat
  budget : Nat
  period : Nat
  phase : Nat
  task : Nat
  master : Nat
  flags : Nat
  res : Nat
  rsvd : Nat
  deriving DecidableEq, Repr

/-- A long-task entry (Table 2-5). -/
structure LTask where
  task : Nat
  master : Nat
  kind : Nat
  sslot : Nat
  periodMaj : Nat
  phaseMaj : Nat
  pubOff : Nat
  rsvd : Nat
  deriving DecidableEq, Repr

/-- A memory window (R49). -/
structure Win where
  base : Nat
  limit : Nat
  master : Nat
  perm : Nat
  rsvd : Nat
  deriving DecidableEq, Repr

/-- A DRAM reservation (R50). -/
structure DramRes where
  master : Nat
  channel : Nat
  slog : Nat
  offset : Nat
  rsvd : Nat
  deriving DecidableEq, Repr

/-- A crossing entry (Table 2-7). -/
structure Xing where
  xid : Nat
  pkind : Nat
  ckind : Nat
  dframe : Nat
  pref : Nat
  cref : Nat
  lat : Nat
  rsvd : Nat
  deriving DecidableEq, Repr

/-- A carry-over rule (R52). -/
structure CarryE where
  cls : Nat
  action : Nat
  seng : Nat
  deng : Nat
  src : Nat
  dst : Nat
  len : Nat
  rsvd : Nat
  deriving DecidableEq, Repr

/-- A Bornen image as read: its bytes, header fields (Table 2-1), directory and the sections of the
schedule chapter; the other sections are read from the bytes when they are used. -/
structure Image where
  bytes : Bytes := []
  imgLen : Nat := 0
  root : Nat := 0
  minRev : Nat := 0
  imgId : W64 := 0
  predId : W64 := 0
  imgSeq : W64 := 0
  l : Nat := 0
  m : Nat := 0
  snapAt : Nat := 0
  commitAt : Nat := 0
  stageLen : Nat := 0
  engMask : Nat := 0
  flags : Nat := 0
  /-- The build name of Glieb. -/
  glieb : Bytes := []
  dir : List DirEnt := []
  slots : List SlotE := []
  ltasks : List LTask := []
  wins : List Win := []
  dram : List DramRes := []
  xing : List Xing := []
  carry : List CarryE := []
  deriving DecidableEq, Repr

/-- SCHED.FRZINFO of one master (Table 2-26). -/
structure Frz where
  cause : BitVec 4 := 0
  addr : BitVec 40 := 0
  slot : BitVec 11 := 0
  mfn : W32 := 0
  cyc : W32 := 0
  deriving DecidableEq, Repr

/-- A release request for a frozen master, with the UNFREEZE descriptor that made it, if any (R69). -/
structure Release where
  master : Nat
  desc : Option HostDesc
  deriving DecidableEq, Repr

/-- SCHED registers and the state of images, switches and freezes (02_schedule_contract.md). -/
structure SchedRegs where
  bank : Bool := false
  switchPend : Bool := false
  shadowReady : Bool := false
  run : Bool := false
  mfn : W64 := 0
  kmf : W64 := 0
  /-- The MFN of the last major-frame boundary that KMF counts. -/
  majMfn : Option W64 := none
  mfnBase : W64 := 0
  frameL : W32 := 0
  majM : BitVec 17 := 0
  cyc : BitVec 24 := 0
  actId : W64 := 0
  shdId : W64 := 0
  chkItem : BitVec 24 := 0
  chkRes : Byte := 0
  swMfn : W64 := 0
  frozen : Tbl Bool := []
  frzInfo : Tbl Frz := []
  rbFloor : W64 := 0
  /-- The running image; the image it replaced, while carry-over needs it. -/
  image : Option Image := none
  /-- Bytes of the shadow bank written so far. -/
  shadow : Bytes := []
  /-- The shadow image after checks 0x01 to 0x0E have passed. -/
  shadowImage : Option Image := none
  /-- The IMAGE_LOAD with LAST whose checks run (R70). -/
  checking : Option HostDesc := none
  /-- The IMAGE_SWITCH that waits for its boundary (R71). -/
  switchDesc : Option HostDesc := none
  /-- The pending switch is committed (R72). -/
  committed : Bool := false
  /-- Instances reset for a type change at the switch (R71, R78). -/
  typeResets : Nat := 0
  releases : List Release := []
  /-- KMF at the freeze of HIF (R408). -/
  hifFreezeKmf : W64 := 0
  /-- Digest of the running image, of its CCODE sections (Table 14-8). -/
  imgDig : BitVec 384 := 0
  cellDig : BitVec 384 := 0
  deriving DecidableEq, Repr

/-- A point record (Table 6-1). The default is the undefined record of R168. -/
structure Point where
  value : W64 := 0
  qual : BitVec 3 := 2
  typ : Byte := 0
  cls : Byte := 0
  owner : Byte := 0
  stamp : W32 := 0
  deriving DecidableEq, Repr

/-- A staging entry (R174). -/
structure Stage where
  value : W64 := 0
  point : Nat := 0
  qual : Byte := 0
  isNew : Bool := false
  deriving DecidableEq, Repr

/-- One PT_FORCE record (R197). -/
structure ForceRec where
  point : Nat
  force : Bool
  value : W64
  deriving DecidableEq, Repr

/-- The records of one PT_FORCE descriptor that wait for a snapshot window. -/
structure ForceBatch where
  desc : HostDesc
  recs : List ForceRec
  deriving DecidableEq, Repr

/-- The process image (06_cyclic_programs.md). -/
structure PImage where
  npoint : Nat := 0
  nstage : Nat := 0
  working : Tbl Point := []
  frozen : Tbl Point := []
  staging : Tbl Stage := []
  forces : List ForceBatch := []
  /-- Released INPUT points that wait for their next merge (R179). -/
  released : Tbl Bool := []
  /-- The open span of the frame (R172): from the snapshot to the commit. -/
  openSpan : Bool := false
  /-- The snapshot window of the current frame has ended (R184). -/
  snapDone : Bool := false
  pisnap : W64 := 0
  picmt : W64 := 0
  /-- A commit has taken place on this unit while it drove the field (R504). -/
  committedOnce : Bool := false
  deriving DecidableEq, Repr

/-- One level of counted loop (R208). -/
structure LoopLevel where
  first : Nat
  last : Nat
  left : Nat
  idx : Nat
  deriving DecidableEq, Repr

/-- A task of a cell engine with its running counts (R189, R210). -/
structure CellTask where
  task : W16
  entry : Nat
  path : Nat
  cycles : W64 := 0
  skipped : W32 := 0
  lastNow : W64 := 0
  /-- The next cycle has FIRST set, SWITCHED set (Table 6-9). -/
  first : Bool := true
  switched : Bool := false
  deriving DecidableEq, Repr

/-- A timer (R190): the type 1 TON, 2 TOF, 3 TP; 0 none. -/
structure Timer where
  hash : W64 := 0
  typ : Byte := 0
  start : W64 := 0
  run : Bool := false
  q : Bool := false
  inPrev : Bool := false
  deriving DecidableEq, Repr

/-- An edge detector (R190): the type 1 R_TRIG, 2 F_TRIG; 0 none. -/
structure EdgeDet where
  hash : W64 := 0
  typ : Byte := 0
  prev : Bool := false
  first : Bool := false
  deriving DecidableEq, Repr

/-- One cell engine (06_cyclic_programs.md, 07_cell_instruction_set.md). Modes: 0 STOP, 1 RUN, 2 HOLD. -/
structure CellEng where
  mode : BitVec 2 := 0
  req : Option (BitVec 2) := none
  g : Tbl W64 := []
  p : Tbl Bool := []
  afl : BitVec 7 := 0
  aflAcc : BitVec 7 := 0
  inCyc : Bool := false
  task : W16 := 0
  pos : Nat := 0
  loops : List LoopLevel := []
  /-- Cycles of the program cycle used so far (R209) and cycles before the next issue. -/
  used : Nat := 0
  busy : Nat := 0
  /-- END has issued and its 24 cycles pass (R207). -/
  ending : Bool := false
  now : W64 := 0
  cycles : W64 := 0
  skips : W32 := 0
  skipCause : Byte := 0
  skipTask : W16 := 0
  skipMfn : W64 := 0
  code : List W64 := []
  tasks : List CellTask := []
  data : Tbl Byte := []
  constLen : Nat := 0
  varLen : Nat := 0
  timers : Tbl Timer := []
  edges : Tbl EdgeDet := []
  nTimer : Nat := 0
  nEdge : Nat := 0
  newInst : W16 := 0
  typeRst : W16 := 0
  /-- A CELL_STEP that waits or runs; whether the cycle in progress is its cycle (R187). -/
  step : Option HostDesc := none
  stepping : Bool := false
  /-- CELL_READs that wait for the end of a stepped cycle (R199). -/
  reads : List HostDesc := []
  deriving DecidableEq, Repr

/-- CELL: the eight engines. -/
structure CellRegs where
  eng : Tbl CellEng := []
  deriving DecidableEq, Repr

/-- An interrupt entry of MC1 in progress (R228): the cycles left of its 8, the source S that pre-empted, the source
selected at the end of cycle 6, and G63 before the entry. -/
structure IrqEntry where
  left : Nat
  first : Nat
  sel : Option Nat
  sp : W64
  deriving DecidableEq, Repr

/-- MC1 (R224 to R229). -/
structure Mc1 where
  pc : W64 := 0
  g : Tbl W64 := []
  p : Tbl Bool := []
  afl : BitVec 7 := 0
  ie : Bool := false
  pmask : BitVec 4 := 0
  cpri : BitVec 5 := 0
  splim : W64 := 0x1E00100000
  vbase : W64 := 0x1E00000000
  code : Tbl Byte := []
  data : Tbl Byte := []
  /-- WFI has not ended; cycles before the next issue. -/
  waiting : Bool := false
  busy : Nat := 0
  entry : Option IrqEntry := none
  /-- An entry has been delivered and its handler's first instruction has not issued (Table 7-12, cycle 9). -/
  fresh : Bool := false
  /-- Cycles left of an exit in progress (R229). -/
  exitLeft : Option Nat := none
  deriving DecidableEq, Repr

end Sys2Proof.Machine
end

