-- ==== Sys2Proof/Machine/TypesHost.lean ====
section
/-! DEFINITION. State of HIF, IRQ, SEC, REC and NVM as plain data (chapters 13, 14 and 16), and what
leaves the block. -/

namespace Sys2Proof.Machine

/-- What the block sends or drives outwards. -/
inductive Out where
  /-- A write of HIF to host memory. -/
  | hostWrite (addr : W64) (bytes : Bytes)
  /-- A read request of HIF for host memory: the data comes back as a command. -/
  | hostRead (addr : W64) (len : Nat)
  /-- An MSI-X message: its vector, address and data. -/
  | msix (vec : Nat) (addr : W64) (data : W32)
  /-- The value that a register read returned to its master. -/
  | regRead (m : RegMaster) (addr : Nat) (v : W32)
  /-- A CAN frame offered to the bus by a channel's buffer. -/
  | can (ch buf : Nat) (f : CanFrame)
  /-- An M-Bus telegram. -/
  | mbus (k : Nat) (bytes : Bytes)
  /-- An Ethernet frame on the wire. -/
  | eth (p : Nat) (bytes : Bytes)
  /-- The first bytes of an Ethernet frame that a link drop cut short (R326). -/
  | ethCut (p : Nat) (bytes : Bytes)
  /-- A mirror frame on a lane. -/
  | mirror (lane : Nat) (bytes : Bytes)
  /-- A frame on the witness port. -/
  | witness (bytes : Bytes)
  /-- The two bytes of a driver command of an axis (R255). -/
  | driver (n : Nat) (bytes : Bytes)
  /-- A step pulse of an axis with the level of DIR. -/
  | step (n : Nat) (dir : Bool)
  /-- TSYN_OUT_k. -/
  | tsyn (k : Nat) (level : Bool)
  /-- The drive codes of one panel row in one phase. -/
  | panelRow (row : Nat) (codes : Bytes)
  /-- PNL_PEN. -/
  | panelEn (level : Bool)
  /-- MESH_OUT and WAKE_N. -/
  | meshOut (level : Bool)
  | wakeN (level : Bool)
  /-- A NAND operation started by a REC slot: 0 program, 1 read, 2 erase, 3 patrol read; block, page, data. -/
  | nand (op block page : Nat) (data : Bytes)
  deriving DecidableEq, Repr

/-- A completion that waits for its close point (Table 13-3), without its PHASE. -/
structure Compl where
  ring : Nat
  sqidx : W16
  tag : W16
  opcode : Byte
  status : Byte
  data : W64
  unsol : Bool
  src : Byte
  /-- It goes out in the first host slot that starts after now (R140). -/
  hold : Bool := false
  /-- An effect due once the entry is written: the session to end (R413). -/
  retire : Option Nat := none
  deriving DecidableEq, Repr

/-- A copy into a host buffer that HIF makes in its slots: whether it has read the first record, and whether what it copies
has been overtaken (R141, R165, R195). -/
structure CopyRun where
  desc : HostDesc
  begun : Bool := false
  spoiled : Bool := false
  deriving DecidableEq, Repr

/-- One ring pair (Table 13-13, R374 to R382). -/
structure Ring where
  sqBase : W64 := 0
  cqBase : W64 := 0
  classMask : BitVec 12 := 0
  cqLog : BitVec 5 := 2
  sqLog : BitVec 5 := 2
  cqTail : W16 := 0
  sqHead : W16 := 0
  ringErr : Bool := false
  /-- The doorbell record of the last fetch was ignored (status page). -/
  lastIgnored : Bool := false
  phase : Bool := true
  /-- The doorbell record as last taken. -/
  sqt : W32 := 0
  cqh : W32 := 0
  vack : W32 := 0
  /-- Completion entries written and not yet read. -/
  unread : Nat := 0
  /-- Fetched descriptors that wait to start, first in first out. -/
  queue : List HostDesc := []
  /-- Submission entries whose descriptor read has not arrived. -/
  fetching : Nat := 0
  /-- Descriptors of the ring fetched in this host slot. -/
  slotN : Nat := 0
  started : List HostDesc := []
  backlog : List Compl := []
  dropun : W32 := 0
  deriving DecidableEq, Repr

/-- HIF (13_host_interface.md). -/
structure HifRegs where
  width : BitVec 3 := 0
  speed : BitVec 2 := 0
  d3 : Bool := false
  bme : Bool := false
  link : Bool := false
  dbAddr : W64 := 0
  stAddr : W64 := 0
  ringEn : W64 := 0
  rings : Tbl Ring := []
  /-- SEQ of the status page (R378). -/
  seq : W64 := 0
  /-- A host slot is in progress; its close point has passed. -/
  inSlot : Bool := false
  closed : Bool := false
  /-- MFN of the host slot, 0 on the boot timeline. -/
  slotMfn : W64 := 0
  /-- The ring served first in the last slot, and descriptors fetched in this one (R380). -/
  firstRing : Nat := 63
  fetched : Nat := 0
  /-- Started descriptors that wait for the host buffer they name, and whether its read is issued (R384). -/
  reads : List (HostDesc × Bool) := []
  /-- Writes of started descriptors that wait for a host slot (R380). -/
  writes : List (W64 × Bytes) := []
  /-- Copies in progress, and started descriptors whose accesses wait for a host slot (R19). -/
  copies : List CopyRun := []
  todo : List HostDesc := []
  /-- Owned DRAM opportunities that deltas have used in this slot (R130). -/
  opps : Nat := 0
  /-- Host data that arrived after the close point (R380). -/
  late : List HostRead := []
  /-- Completions in order of completion. -/
  waiting : List Compl := []
  /-- The MSI-X table and PBA, and the function mask. -/
  msix : Tbl W128 := []
  pba : W64 := 0
  fnMask : Bool := false
  deriving DecidableEq, Repr

/-- One interrupt source (Table 13-19). TARGET after reset is 0 below 64 and 1 otherwise. -/
structure IrqSrc where
  dam : Bool := false
  insvc : Bool := false
  pend : Bool := false
  vec : BitVec 6 := 0
  target : BitVec 2 := 0
  group : BitVec 4 := 0
  pri : BitVec 4 := 0
  mask : Bool := true
  /-- The target and vector it was delivered to, while in service (R391). -/
  svcTarget : BitVec 2 := 0
  svcVec : BitVec 6 := 0
  /-- The cycle of its last selection while that delivery is not done (R391). -/
  selAt : Option W64 := none
  deriving DecidableEq, Repr

/-- One hold-off group (R392): HOLD and the TBC at which the hold-off ends. -/
structure IrqGrp where
  hold : W16 := 0
  run : Bool := false
  ends : W64 := 0
  deriving DecidableEq, Repr

/-- One wake watch (Table 13-17). -/
structure Wake where
  en : Bool := false
  src : BitVec 9 := 0
  deriving DecidableEq, Repr

structure IrqRegs where
  src : Tbl IrqSrc := []
  grp : Tbl IrqGrp := []
  wake : Tbl Wake := []
  wakeSt : W32 := 0
  /-- Hits of the sleep in progress: their edge sources are pending after the wake (R393). -/
  wakeLatch : W32 := 0
  deriving DecidableEq, Repr

/-- One session (R404, Tables 14-6 and 14-15). The key never leaves the block (R394). -/
structure Sess where
  kind : Byte := 0
  st : BitVec 4 := 0
  ref : W16 := 0
  uses : W32 := 0
  fails : W32 := 0
  /-- LAST of an OPERATOR session (R405). -/
  last : W64 := 0
  rights : W32 := 0
  key : Bytes := []
  /-- SEAL: the keys, FV and LAST of the two directions (R305); direction 0 is towards the station. -/
  key2 : Bytes := []
  fvTx : BitVec 56 := 0
  fvRx : BitVec 56 := 0
  deriving DecidableEq, Repr

/-- One owner root (R399): its MRAM public key, its fused digest and fuses, and the check of this start. -/
structure Root where
  key : Bytes := []
  digest : BitVec 384 := 0
  installed : Bool := false
  revoked : Bool := false
  checked : Bool := false
  deriving DecidableEq, Repr

/-- A signed record or key blob whose verification runs on MC0's crypto engine (R402, R403). -/
structure Verif where
  desc : HostDesc
  blob : Bool
  deriving DecidableEq, Repr

/-- SEC (14_security.md). -/
structure SecRegs where
  mc0flt : Bool := false
  tampLock : Bool := false
  noSecret : Bool := true
  drbgOk : Bool := false
  drbgFailed : Bool := false
  debug : Bool := false
  tampSt : BitVec 14 := 0
  tampTime : W64 := 0
  tampCfg : W32 := 0
  tampArm : Bool := false
  ocnt : W64 := 0
  scnt : W64 := 0
  fwFloor : W32 := 0
  dbgCtl : W32 := 0
  dbgAddr : W64 := 0
  roots : Tbl Root := []
  sess : Tbl Sess := []
  /-- Fuses: UDS, DEBUG_PERM. UDS is locked after its one read. -/
  uds : BitVec 256 := 0
  debugPerm : Bool := false
  udsLocked : Bool := false
  /-- The MRAM debug request (R409). -/
  debugReq : Bool := false
  /-- Key SRAM; `none` is a key that is absent. -/
  dik : Option Nat := none
  dxk : Option Nat := none
  kek : Option Bytes := none
  swk : Option Bytes := none
  netsec : Option Bytes := none
  pairsec : Option Bytes := none
  /-- The MRAM key store (R397): wrapped NETSEC, PAIRSEC and kept sessions. -/
  wrapNet : Bytes := []
  wrapPair : Bytes := []
  wrapSess : Tbl Bytes := []
  keptSess : Tbl Sess := []
  /-- The Snuffer line has fired and no operational key was loaded since (R412). -/
  snuffed : Bool := false
  /-- The Snuffer line fired before this start and its audit record is due (Table 16-5). -/
  auditTamper : Bool := false
  /-- A tamper event that MC0 has not yet counted and recorded. -/
  tamperDue : Bool := false
  verif : List Verif := []
  /-- The LFSR of MESH_OUT (R410). -/
  lfsr : BitVec 31 := 0
  deriving DecidableEq, Repr

/-- A Lantern record that waits (R452): all its fields but LSEQ, DROPS and CRC. -/
structure LanRec where
  pcyc : W32
  opt : BitVec 36
  code : W16
  sev : Byte
  mfn : W64
  data : Bytes
  deriving DecidableEq, Repr

/-- An audit record (Table 16-4). -/
structure AudRec where
  seq : BitVec 48
  code : W16
  ctx : W16
  auth : Byte
  ocnt : W64
  data : Bytes
  deriving DecidableEq, Repr

/-- The NAND operation in progress (R462): a page program of audit records, of a history page or of a
refresh copy, a page read for a REC_READ or a refresh copy, a block erase, a patrol read. Blocks are physical. -/
inductive NandOp where
  | audit (block : Nat) (recs : List AudRec)
  | history (block : Nat) (hseq : Nat) (desc : HostDesc)
  | copyProg (src dst page : Nat)
  | read (desc : HostDesc)
  | copyRead (src dst page : Nat)
  | erase (block : Nat)
  | patrol (block page : Nat)
  deriving DecidableEq, Repr

/-- A programmed page of the audit log, and of the history store. -/
structure AudPage where
  blk : Nat
  page : Nat
  recs : List AudRec
  deriving DecidableEq, Repr

structure HistPage where
  blk : Nat := 0
  page : Nat := 0
  data : Bytes := []
  deriving DecidableEq, Repr

/-- A refresh copy in progress (R463): the next page, and whether it has been read. -/
structure CopyJob where
  src : Nat
  dst : Nat
  page : Nat
  isRead : Bool
  deriving DecidableEq, Repr

/-- One block of the NAND (R464); the default is a FREE block of no partition. -/
structure NandBlk where
  log : W32 := 0xFFFFFFFF
  erases : W32 := 0
  reads : W32 := 0
  st : Byte := 0
  part : Byte := 0
  /-- Pages programmed since the erase. -/
  used : Nat := 0
  /-- Refresh is due (R463, R465). -/
  refresh : Bool := false
  deriving DecidableEq, Repr

/-- An audit read in progress on the NAND: the descriptor, the next record and the count delivered (R471). -/
structure RecRead where
  desc : HostDesc
  what : Nat
  next : Nat
  left : Nat
  done : Nat
  addr : W64
  deriving DecidableEq, Repr

/-- REC (16_records_and_storage.md). -/
structure RecRegs where
  lseq : W32 := 0xFFFFFFFF
  lfatal : W32 := 0xFFFFFFFF
  lfrozen : Bool := false
  /-- Records still written after a fatal one (R454). -/
  lleft : Option Nat := none
  queue : List LanRec := []
  drops : Nat := 0
  opt : BitVec 36 := 0
  /-- The second has turned and the operating time is to be saved (R452); the last save (R449). -/
  optDue : Bool := false
  optSaved : BitVec 36 := 0
  pcyc : W32 := 0
  audNext : BitVec 48 := 0
  audFirst : BitVec 48 := 0
  audEnd : BitVec 48 := 0
  audCap : W32 := 0
  /-- Pages of the log, oldest first, and the journal. -/
  audPages : List AudPage := []
  journal : List AudRec := []
  audGap : W32 := 0
  afrozen : Bool := false
  /-- The minor frame in which the freeze ends (R459). -/
  afreezeEnd : W64 := 0
  clearing : Option HostDesc := none
  /-- The new log's first record is to be programmed alone (R460). -/
  clearProg : Bool := false
  /-- Blocks that wait for an erase (R460, R468). -/
  eraseQ : List Nat := []
  /-- The physical block that takes the next audit page, and the next history page. -/
  audBlk : Option Nat := none
  histBlk : Option Nat := none
  hseqNext : W64 := 0
  hseqFirst : W64 := 0
  hist : Tbl HistPage := []
  histQueue : List HostDesc := []
  reads : List RecRead := []
  copying : Option CopyJob := none
  op : Option NandOp := none
  deriving DecidableEq, Repr

/-- NVM (16_records_and_storage.md). -/
structure NvmRegs where
  tagLock : Bool := false
  uncor : Bool := false
  formatted : Bool := false
  nandOk : Bool := false
  /-- The identification of the NAND is done (stage 3). -/
  started : Bool := false
  endur : W16 := 60
  rdlim : W16 := 100
  geomBlocks : BitVec 18 := 0
  geomPage : BitVec 2 := 0
  geomTargets : BitVec 2 := 0
  /-- Operating hours at the start of the last patrol pass and at the end of the last complete one;
  the next block and page of the pass in progress (R466). -/
  passStart : Nat := 0
  passEnd : Nat := 0
  patrol : Option (Nat × Nat) := none
  corrMax : BitVec 7 := 0
  blocks : Tbl NandBlk := []
  onfiId : W64 := 0
  /-- NVM_FORMAT in progress. -/
  formatReq : Option HostDesc := none
  deriving DecidableEq, Repr

end Sys2Proof.Machine
end

