-- ==== Sys2Proof/Machine/TypesLink.lean ====
section
/-! DEFINITION. State of CANL, MBUS and ETHL with PTP as plain data (chapters 10 and 11). -/

namespace Sys2Proof.Machine

/-! ### CANL -/

/-- A map entry between a point and wire bytes (R320, R329): OFFSET is the byte of the frame. -/
structure MapEnt where
  point : Nat
  frame : Nat
  output : Bool
  off : Nat
  wire : Nat
  bitNo : Nat
  deriving DecidableEq, Repr

/-- A station template with its map entries (Table 10-5); the default is an EMPTY slot. -/
structure StnTmpl where
  uid : W64 := 0
  cls : W16 := 0
  chan : Byte := 0xFF
  sealed : Bool := false
  period : Nat := 1
  phase : Nat := 0
  ackwin : Nat := 1
  lossn : Nat := 1
  hold : W16 := 0
  txid : W32 := 0
  rxid : W32 := 0
  ntx : Nat := 1
  nrx : Nat := 1
  tbuf : Nat := 1
  rbuf : Nat := 0
  len : Nat := 8
  evict : Nat := 0
  map : List MapEnt := []
  deriving DecidableEq, Repr

/-- An acceptance filter: FID, FMASK, TARGET (R321). -/
structure CanFilt where
  fid : W32
  mask : W32
  target : W16
  deriving DecidableEq, Repr

/-- A channel entry (Table 10-6) with its filters. -/
structure CanCfg where
  en : Bool := false
  monitor : Bool := false
  autorec : Bool := false
  fd : Bool := false
  brs : Bool := false
  refen : Bool := false
  tdc : Bool := false
  /-- NBRP to TDCO as in the entry. -/
  timing : Bytes := []
  reftrig : Nat := 0
  joinid : W32 := 0
  refid : W32 := 0
  ntu : Nat := 1
  jointo : Nat := 1
  filters : List CanFilt := []
  deriving DecidableEq, Repr

/-- A transmit buffer (Table 10-12): the words of SBUF, and what is on its way. ST: 0 IDLE, 1 PENDING,
2 SENDING, 3 DONE, 4 CANCELLED. -/
structure TxBuf where
  idw : W32 := 0
  ctx : BitVec 11 := 0
  sealed : Bool := false
  dlc : BitVec 4 := 0
  data : Tbl Byte := []
  clate : Bool := false
  st : BitVec 3 := 0
  ts : W32 := 0
  /-- The frame to send; none while a supervisor buffer waits for its seal. -/
  frame : Option CanFrame := none
  /-- The reload latch (R300). -/
  reload : Option CanFrame := none
  /-- A cancellation came after start of frame and is unresolved (R301). -/
  late : Bool := false
  /-- The buffer's station was removed: the frame on the bus ends DROPPED, ST 5, which no register shows (R301, R80). -/
  dropped : Bool := false
  deriving DecidableEq, Repr

/-- A received frame as a buffer holds it, with the TBC of its arrival (R60). -/
structure RxItem where
  frame : CanFrame
  ts : W32
  sealOk : Bool
  filt : Nat
  arr : W64
  deriving DecidableEq, Repr

/-- A CAN channel (Table 10-11). ERRST: 0 error-active, 1 error-passive, 2 bus-off, 3 recovering. -/
structure CanChan where
  tec : BitVec 9 := 0
  recc : BitVec 8 := 0
  errst : BitVec 2 := 0
  cancelLate : Bool := false
  fifoOvf : Bool := false
  lasterr : BitVec 3 := 0
  tx : Tbl TxBuf := []
  rx : Tbl (Option RxItem) := []
  fifo : List RxItem := []
  shadow : Option RxItem := none
  /-- The head entry is latched in the read window (R296). -/
  latched : Option RxItem := none
  /-- The cycle count of the reference message (R302). -/
  cycle : BitVec 6 := 0
  deriving DecidableEq, Repr

/-- An exchange that awaits its acknowledgement (R309): its minor frame, its number, the input frames
taken so far by their index. -/
structure Exch where
  mfn : W64
  num : Byte
  got : List (Nat × Bytes)
  deriving DecidableEq, Repr

/-- A station slot. ST as Table 10-3. `badEx` counts exchanges in BAD (R311). -/
structure Station where
  st : BitVec 4 := 0
  miss : Byte := 0
  uid : W64 := 0
  exs : List Exch := []
  badEx : Nat := 0
  joins : W32 := 0
  lastMfn : W64 := 0
  /-- The join record (NS, ND), and on a standby the FV and LAST carried by cuts (Table 15-5, R436). -/
  ns : W128 := 0
  nd : W128 := 0
  carTx : BitVec 56 := 0
  carRx : BitVec 56 := 0
  evicts : List HostDesc := []
  deriving DecidableEq, Repr

/-- A join in progress (R313). `prev` is the slot's state before JOINING. -/
structure JoinRec where
  slot : Nat
  ch : Nat
  uid : W64
  cls : W16
  ns : W128
  nd : W128
  prev : BitVec 4
  ends : W64
  deriving DecidableEq, Repr

structure CanlRegs where
  cfg : Tbl CanCfg := []
  tmpl : Tbl StnTmpl := []
  ch : Tbl CanChan := []
  stn : Tbl Station := []
  joins : List JoinRec := []
  /-- Joins whose ACCEPT waits for a transmit slot that claims SEAL (R306). -/
  accepts : List JoinRec := []
  tsref : W32 := 0
  deriving DecidableEq, Repr

/-! ### MBUS -/

/-- A record map entry (R321). -/
structure RecMap where
  dif : Byte
  vif : Byte
  storage : Byte
  point : Nat
  scale : F64
  deriving DecidableEq, Repr

/-- A meter entry with its record map (R321). -/
structure MtrCfg where
  secondary : Bool
  paddr : Byte
  saddr : Bytes
  period : Nat
  phase : Nat
  lossn : Nat
  mode0 : Bool
  ctx : Nat
  map : List RecMap
  deriving DecidableEq, Repr

/-- A master entry with its poll list. -/
structure MbCfg where
  en : Bool := false
  baud : Nat := 0
  retry : Nat := 0
  meters : List MtrCfg := []
  deriving DecidableEq, Repr

/-- A meter's state. `values` are verified values that wait for the next receive slot. -/
structure Meter where
  st : BitVec 4 := 1
  miss : Byte := 0
  fcb : Bool := true
  /-- The last accepted message counter of mode 7. -/
  last : Option W64 := none
  lastMfn : W64 := 0
  deriving DecidableEq, Repr

/-- A staged value of a verified response, or a quality alone. -/
structure MbVal where
  point : Nat
  value : Option F64
  qual : Nat
  arr : W64
  deriving DecidableEq, Repr

/-- An M-Bus master (Table 10-15). STATE: 0 IDLE, 1 SELECT, 2 REQUEST, 3 WAIT. -/
structure MbMaster where
  state : BitVec 2 := 0
  meter : Nat := 0
  done : W32 := 0
  /-- Meters due and not started, in list order. -/
  due : List Nat := []
  /-- The minor frame whose due meters have been added. -/
  dueMfn : Option W64 := none
  tries : Nat := 0
  mtr : Tbl Meter := []
  values : List MbVal := []
  deriving DecidableEq, Repr

structure MbusRegs where
  cfg : Tbl MbCfg := []
  m : Tbl MbMaster := []
  deriving DecidableEq, Repr

/-! ### ETHL -/

/-- A rule (Table 11-1) with its frame-map entries. -/
structure EthRule where
  etype : Nat
  udpp : Nat
  vid : Nat
  target : Nat
  unctrl : Bool
  le : Bool
  lossmf : Nat
  map : List MapEnt
  deriving DecidableEq, Repr

/-- A data template (R346) with its header bytes and map. -/
structure EthTpl where
  en : Bool
  udpcsum : Bool
  le : Bool
  hdr : Bytes
  len : Nat
  period : Nat
  phase : Nat
  map : List MapEnt
  deriving DecidableEq, Repr

/-- A port entry (Table 11-6) with its rules and templates. -/
structure EthCfg where
  en : Bool := false
  anen : Bool := false
  ptp : Bool := false
  p2p : Bool := false
  macsec : Bool := false
  xpn : Bool := false
  conf : Bool := false
  transport : Nat := 0
  domain : Byte := 0
  mac : Bytes := []
  sdoid : Nat := 0
  logSync : Byte := 0
  logAnn : Byte := 0
  logDreq : Byte := 0
  confoff : Nat := 0
  ptpvid : Nat := 0
  egress : Nat := 0
  ingress : Nat := 0
  asym : Int := 0
  replay : Nat := 0
  ipsrc : Bytes := []
  rules : List EthRule := []
  tpls : List EthTpl := []
  deriving DecidableEq, Repr

/-- A frame that waits for a port's receive slot (R327 to R331): its rule, bytes, timestamp. -/
structure EthItem where
  rule : Nat
  bytes : Bytes
  ts : W128
  secured : Bool
  arr : W64
  deriving DecidableEq, Repr

/-- A frame that waits for transmission. `ptp` is the message type of a PTP message, which the port
completes as it leaves; `rx` its Pdelay_Req receive timestamp with its step count. -/
structure EthTx where
  bytes : Bytes
  ptp : Option Nat := none
  rx : W128 := 0
  rxSteps : W16 := 0
  /-- The address of the ring descriptor of an MC1 frame, and its TSREQ. -/
  desc : Option (Nat × Bool) := none
  deriving DecidableEq, Repr

/-- The frame on the wire of a port: its bytes as they leave, its timestamp and step count, the cycle of its timestamp point
and the one in which it ends. -/
structure EthWire where
  tx : EthTx
  bytes : Bytes
  ts : W128
  steps : W16
  start : W64
  ends : W64
  deriving DecidableEq, Repr

/-- A ring descriptor to return in the next transmit slot: its address, and TS where it is written (R330). -/
structure EthBack where
  addr : Nat
  ts : Option W128
  deriving DecidableEq, Repr

/-- A STAGE rule's last matching minor frame, and the quality given since: 0 GOOD, 1 STALE, 2 BAD (R329). -/
structure EthLoss where
  last : W64 := 0
  level : Nat := 0
  deriving DecidableEq, Repr

/-- A transmit or receive SA (R342 to R344): the session context, the next or lowest PN. -/
structure MacSa where
  ctx : Nat
  an : Nat
  sci : W64
  ssci : W32
  /-- The salt of a XPN SA. -/
  salt : Bytes
  pn : W64
  warned : Bool := false
  deriving DecidableEq, Repr

/-- The PTP engine of a port (Table 11-10, R337 to R340). Times are in units of 2^-16 ns; each exchange keeps
the step count of its timestamps (R335). -/
structure PtpRegs where
  nompd : Bool := true
  seq : W16 := 0
  pstate : BitVec 4 := 3
  mpd : W64 := 0
  offset : W64 := 0
  t2 : W128 := 0
  /-- A two-step Sync that waits for its Follow_Up: sequenceId, correction, t2, steps. -/
  syncWait : Option (Nat × Int × W128 × W16) := none
  /-- The last Delay_Req sent, and the last Pdelay_Req sent: sequenceId, transmit timestamp, steps. -/
  dreq : Option (Nat × W128 × W16) := none
  pdreq : Option (Nat × W128 × W16) := none
  /-- A two-step Pdelay_Resp that waits for its follow-up: sequenceId, its time and correction, t4p, steps. -/
  pdWait : Option (Nat × Int × W128 × W16) := none
  /-- The last complete exchange: t4 − t3 of E2E, or the link delay of P2P, with its steps. -/
  e2e : Option (Int × W16) := none
  p2p : Option (Int × W16) := none
  seqSync : W16 := 0
  seqReq : W16 := 0
  seqPdreq : W16 := 0
  seqAnn : W16 := 0
  /-- Announce records passed to MC0 (R337). -/
  announces : List Bytes := []
  deriving DecidableEq, Repr

/-- An Ethernet port (Table 11-9). -/
structure EthPort where
  pen : Bool := false
  link : Bool := false
  sync : Bool := false
  andone : Bool := false
  pnwarn : Bool := false
  rxbase : W64 := 0
  txbase : W64 := 0
  rxsize : W16 := 0
  txsize : W16 := 0
  rxhead : W16 := 0
  txhead : W16 := 0
  rxfrm : W64 := 0
  txfrm : W64 := 0
  rxoct : W64 := 0
  txoct : W64 := 0
  /-- Waiting frames by class (R332). -/
  txPtp : List EthTx := []
  txPair : List EthTx := []
  txData : List EthTx := []
  txMc1 : List EthTx := []
  wire : Option EthWire := none
  back : List EthBack := []
  /-- ETH_PORT descriptors that wait until the port is IDLE (R347). -/
  drains : List HostDesc := []
  rxq : List EthItem := []
  /-- The transmit SA by AN and the active AN; the receive SAs. -/
  txsa : Tbl MacSa := []
  txan : BitVec 2 := 0
  rxsa : List MacSa := []
  ptp : PtpRegs := {}
  loss : Tbl EthLoss := []
  deriving DecidableEq, Repr

structure EthlRegs where
  cfg : Tbl EthCfg := []
  port : Tbl EthPort := []
  deriving DecidableEq, Repr

end Sys2Proof.Machine
end

