-- ==== Sys2Proof/Machine/TypesLoop.lean ====
section
/-! DEFINITION. State of LOOP and AXIS as plain data (08_loops_and_axes.md). -/

namespace Sys2Proof.Machine

/-- A loop configuration entry (Table 8-3). -/
structure LoopCfg where
  mpt : Nat := 0
  sppt : Nat := 0xFFFFFFFF
  opt : Nat := 0
  ffpt : Nat := 0xFFFFFFFF
  trkpt : Nat := 0xFFFFFFFF
  modept : Nat := 0xFFFFFFFF
  div : Nat := 1
  lph : Nat := 0
  flags : Byte := 0
  outer : Nat := 0xFF
  initMode : BitVec 2 := 0
  fecnt : Nat := 1
  kp : F64 := 0
  ki : F64 := 0
  kd : F64 := 0
  tf : F64 := 0
  umin : F64 := 0
  umax : F64 := 0
  vmax : F64 := 0
  amax : F64 := 0
  jmax : F64 := 0
  felim : F64 := 0
  uman : F64 := 0
  spfix : F64 := 0
  deriving DecidableEq, Repr

/-- The state of a loop (Table 8-4), with the values that the next sample needs from the last one.
Modes: 0 OFF, 1 MAN, 2 AUTO, 3 TRACK. -/
structure LoopSt where
  i : F64 := 0
  d : F64 := 0
  xprev : F64 := 0
  u : F64 := 0
  p : F64 := 0
  v : F64 := 0
  a : F64 := 0
  mode : BitVec 2 := 0
  first : Bool := true
  fe : Bool := false
  hold : Bool := false
  satHi : Bool := false
  satLo : Bool := false
  tracking : Bool := false
  feCnt : W16 := 0
  /-- The profile state has been set to (w_t, 0, 0) (R242). -/
  inited : Bool := false
  /-- y, w, w_t, e and P of the last sample (R240), and the last usable value of each point (R234). -/
  y : F64 := 0
  w : F64 := 0
  wt : F64 := 0
  e : F64 := 0
  pp : F64 := 0
  spLast : Option F64 := none
  ffLast : F64 := 0
  trkLast : Option F64 := none
  /-- The last sample set the set-point target to y (R236). -/
  spTrk : Bool := false
  /-- FEHOLD: the next sample is in MAN (R239). -/
  feMan : Bool := false
  /-- The LOOP_MODE that waits for the next due sample (R243). -/
  req : Option HostDesc := none
  deriving DecidableEq, Repr

structure TraceNode where
  loop : Nat
  sig : Nat
  offset : F64
  gain : F64
  deriving DecidableEq, Repr

/-- A trace (R240): 0 IDLE, 1 ARMED, 2 TRIGGERED, 3 DONE. -/
structure Trace where
  nodes : List TraceNode := []
  st : BitVec 3 := 0
  pre : Nat := 0
  tdiv : Nat := 1
  tsrc : Nat := 0
  /-- Occurrences and samples since arming; samples still to take after the trigger. -/
  occ : Nat := 0
  cnt : Nat := 0
  left : Nat := 0
  idx : BitVec 12 := 0
  /-- Entry i of node n at 4,096 n + i. -/
  buf : Tbl W16 := []
  deriving DecidableEq, Repr

structure LoopEng where
  cfgs : List LoopCfg := []
  st : Tbl LoopSt := []
  trace : Trace := {}
  deriving DecidableEq, Repr

/-- The pairs of a LOOP_PARAM that wait (R244): loop, field and value. -/
structure LoopPair where
  loop : Nat
  field : Nat
  value : F64
  deriving DecidableEq, Repr

structure ParamBatch where
  desc : HostDesc
  pairs : List LoopPair
  deriving DecidableEq, Repr

structure LoopRegs where
  eng : Tbl LoopEng := []
  params : List ParamBatch := []
  fechg : Tbl Bool := []
  deriving DecidableEq, Repr

/-- An axis configuration entry (Table 8-7). -/
structure AxisCfg where
  tgtpt : Nat := 0xFFFFFFFF
  pospt : Nat := 0xFFFFFFFF
  stoppt : Nat := 0xFFFFFFFF
  statpt : Nat := 0xFFFFFFFF
  en : Bool := false
  dirinv : Bool := false
  ihold : Nat := 0
  irun : Nat := 0
  imax : Nat := 0
  iinc : Nat := 0
  loadhi : Nat := 0
  loadlo : Nat := 0
  holdt : Nat := 0
  stallt : Nat := 0
  vmax : F64 := 0
  amax : F64 := 0
  jmax : F64 := 0
  fdec : F64 := 0
  vstart : F64 := 0
  slmin : W64 := 0
  slmax : W64 := 0
  deriving DecidableEq, Repr

/-- The state of the profile generator (R238). -/
structure Prof where
  p : F64 := 0
  v : F64 := 0
  a : F64 := 0
  deriving DecidableEq, Repr

/-- One axis (Table 8-13). -/
structure Axis where
  pos : BitVec 48 := 0
  acc : W64 := 0
  vel : W64 := 0
  /-- The integer position at which the move began, the profile relative to it, and whether it runs. -/
  org : W64 := 0
  prof : Prof := {}
  moving : Bool := false
  /-- The kept target, the last target taken and the last value refused (R250, R252). -/
  target : W64 := 0
  taken : W64 := 0
  refusedT : Option W64 := none
  rem : W64 := 0
  /-- The stop point in force (R252), and the deceleration of a LIMIT_STOP (R251). -/
  stopTo : Option F64 := none
  limiting : Bool := false
  stopped : Bool := false
  fault : Bool := false
  stopCmd : Bool := false
  /-- STOPPT was TRUE in the last slot. -/
  stopWas : Bool := false
  /-- The STOP came from EN = 0 (R253). -/
  drainStop : Bool := false
  iref : Byte := 0
  load : Byte := 0
  pwr : Bool := false
  mov : Bool := false
  ot : Bool := false
  flt : Bool := false
  drvFlt : Bool := false
  drvLost : Bool := false
  stall : Bool := false
  limitStop : Bool := false
  tgtLimit : Bool := false
  posLost : Bool := false
  /-- The position was lost at start-up and is counted (R259). -/
  lostStart : Bool := false
  stallCnt : Nat := 0
  rest : Nat := 0
  /-- Statuses missed in a row; the status that arrived since the last slot; a command has been sent. -/
  missed : Nat := 0
  got : Option (Byte × Byte) := none
  sent : Bool := false
  seq : BitVec 7 := 0
  /-- |VEL| exceeded VSTART at the last mirrored frame (R253). -/
  fast : Bool := false
  cmds : List HostDesc := []
  deriving DecidableEq, Repr

structure AxGroupCfg where
  trigpt : Nat := 0xFFFFFFFF
  mask : W16 := 0
  deriving DecidableEq, Repr

/-- An interpolation group (R254): the line in force by member, its length D, and the profile on it. -/
structure AxGroup where
  trig : W64 := 0
  line : List (Nat × Int × Int) := []
  dist : Nat := 0
  prof : Prof := {}
  moving : Bool := false
  stopTo : Option F64 := none
  limiting : Bool := false
  /-- A new line waits for rest; the members have targets that no line has been begun to. -/
  again : Bool := false
  want : Bool := false
  deriving DecidableEq, Repr

structure AxisRegs where
  cfg : List AxisCfg := []
  grpCfg : List AxGroupCfg := []
  ax : Tbl Axis := []
  grp : Tbl AxGroup := []
  deriving DecidableEq, Repr

end Sys2Proof.Machine
end

