-- ==== Sys2Proof/Machine/TypesMetr.lean ====
section
/-! DEFINITION. State of METR as plain data (09_metering.md). -/

namespace Sys2Proof.Machine

/-- METRCFG: feed entries, pair entries and bindings (Table 9-9). -/
structure MFeedCfg where
  en : Bool := false
  twen : Bool := false
  twph : Nat := 0
  twthr : BitVec 12 := 0
  inA : F64 := 0
  pmax : F64 := 0
  creep : F64 := 0
  zxhys : F64 := 0
  deriving DecidableEq, Repr

structure MPairCfg where
  en : Bool := false
  src : Nat := 0
  pls : Nat := 0
  dirsrc : Nat := 0
  vloc : Nat := 0
  pvol : W64 := 0
  fk : F64 := 0
  hmax : F64 := 0
  vfpt : Nat := 0xFFFFFFFF
  vrpt : Nat := 0xFFFFFFFF
  dirpt : Nat := 0xFFFFFFFF
  deriving DecidableEq, Repr

structure MBind where
  kind : Nat
  index : Nat
  point : Nat
  scale : F64
  deriving DecidableEq, Repr

structure MetrCfg where
  fs : Nat := 0
  fnom : Nat := 50
  intmf : Nat := 0
  closeAt : Nat := 0
  pk : F64 := 0
  xtol : F64 := 0
  xabs : F64 := 0
  feeds : List MFeedCfg := []
  pairs : List MPairCfg := []
  binds : List MBind := []
  deriving DecidableEq, Repr

/-- The calibration record (Table 9-6), group by group. -/
structure CalChan where
  gain : W32 := 0
  offs : W32 := 0
  phase : W32 := 0
  deriving DecidableEq, Repr

structure CalFeed where
  vlsb : F64 := 0
  ilsb : F64 := 0
  tc1 : F32 := 0
  tc2 : F32 := 0
  deriving DecidableEq, Repr

structure CalRtd where
  rref : F64 := 0
  r0 : F64 := 0
  a : F64 := 0
  b : F64 := 0
  deriving DecidableEq, Repr

structure MCal where
  chans : Tbl CalChan := []
  feeds : Tbl CalFeed := []
  rtds : Tbl CalRtd := []
  deriving DecidableEq, Repr

/-- A METR_CAL that waits for the next periodic save (R282): group, index and the group's bytes. -/
structure CalPend where
  group : Nat
  index : Nat
  bytes : Bytes
  deriving DecidableEq, Repr

/-- One phase of a feed: its open cycle, and what its last cycle gave. -/
structure MPhase where
  c : Int := 0
  n : Nat := 0
  sumV : Nat := 0
  sumI : Nat := 0
  /-- The voltage has been below −ZXHYS since the last crossing (R267). -/
  armed : Bool := false
  lastV : Int := 0
  /-- The end of the previous cycle, in ns, once there is one. -/
  ended : Option W64 := none
  rmsV : F64 := 0
  rmsI : F64 := 0
  power : F64 := 0
  creep : Bool := false
  zxto : Bool := false
  deriving DecidableEq, Repr

/-- A period of phase 1 that ended within the last second: its end, its length, ended by timeout. -/
structure MPeriod where
  at_ : W64
  len : W64
  timeout : Bool
  deriving DecidableEq, Repr

structure MFeed where
  ph : Tbl MPhase := []
  sumN : Nat := 0
  rmsN : F64 := 0
  periods : List MPeriod := []
  freq : W32 := 0
  /-- Overloads, timeouts and creep cuts of the interval in progress; those of the last interval. -/
  ovl : BitVec 7 := 0
  ovlLast : BitVec 7 := 0
  zxto : Bool := false
  zxtoLast : Bool := false
  creep : Bool := false
  deriving DecidableEq, Repr

/-- One temperature pair. Volumes are in units of 2^-64 L, heat in units of 2^-64 kJ. -/
structure MPair where
  vol : Int := 0
  tf : Option F64 := none
  tr : Option F64 := none
  /-- The last usable temperatures (R278). -/
  tfGood : Option F64 := none
  trGood : Option F64 := none
  /-- S and n of R272, and all windows since the last reading taken. -/
  s : Rat := 0
  n : Nat := 0
  since : Nat := 0
  vf : Option Int := none
  vr : Int := 0
  stamp : W32 := 0
  dir : Bool := false
  hasDir : Bool := false
  revs : Nat := 0
  revsLast : W16 := 0
  /-- The volume and heat of the windows of the last second, newest first; none without usable temperatures. -/
  wins : List (Int × Option Int) := []
  /-- The volume and heat of the last combined sample and the windows it covers (SRC 2). -/
  last : Option (Int × Option Int × Nat) := none
  /-- DIRPT was TRUE and usable in the last METR slot. -/
  dirTrue : Bool := false
  deriving DecidableEq, Repr

/-- The theft watch of one feed in the Wick domain (R281). -/
structure MTheft where
  secs : W32 := 0
  peak : BitVec 12 := 0
  first : W64 := 0
  twen : Bool := false
  twph : BitVec 2 := 0
  twthr : BitVec 12 := 0
  deriving DecidableEq, Repr

structure MetrRegs where
  cfg : MetrCfg := {}
  cal : MCal := {}
  calValid : Bool := false
  calLock : Bool := false
  calPend : List CalPend := []
  /-- The last 32 codes of each channel, newest first. -/
  codes : Tbl (List (BitVec 24)) := []
  lastTs : W64 := 0
  /-- Sample instants since the converters started; the last captured one (R263). -/
  samples : Nat := 0
  captured : W64 := 0
  feeds : Tbl MFeed := []
  pairs : Tbl MPair := []
  /-- T × 2^FB + ρ of each totaliser (R274); T at the last interval close and at the last copy. -/
  tot : Tbl Nat := []
  totClose : Tbl Nat := []
  totCopy : Tbl Nat := []
  saveSeq : W64 := 0
  copyB : Bool := false
  intSeq : W64 := 0
  short : Bool := true
  /-- The record buffer: the record of SEQ at SEQ mod 128. -/
  records : Tbl Bytes := []
  resLost : Bool := false
  pfGap : W32 := 0
  /-- Loss bounds: feed f at f, pair k at 4 + k. -/
  loss : Tbl F64 := []
  tw : Tbl MTheft := []
  /-- Samples still to settle after a change of FS (R285). -/
  settle : Nat := 0
  /-- METR has started; the TBC at which PWRFAIL_N fell (R280). -/
  started : Bool := false
  pfTbc : Option W64 := none
  /-- EN was written 0 and the last save is due (R284). -/
  stopping : Bool := false
  deriving DecidableEq, Repr

end Sys2Proof.Machine
end

