-- ==== Sys2Proof/Machine/TypesSafe.lean ====
section
/-! DEFINITION. State of PAIR and PNL as plain data (chapters 15 and 17). -/

namespace Sys2Proof.Machine

/-- The MIRROR keys of a handshake by direction (R419). -/
structure MirKeys where
  k0 : Bytes := []
  k1 : Bytes := []
  deriving DecidableEq, Repr

/-- The partner's last valid HELLO (Table 15-4). -/
structure Hello where
  devuid : W64
  nonce : Bytes
  role : Byte
  sync : Byte
  cfgd : W64
  actid : W64
  mfn : W64
  kmf : W64
  mfnBase : W64
  l : W32
  /-- The TBC at its arrival. -/
  arr : W64 := 0
  deriving DecidableEq, Repr

/-- What a CUTEND carries (Table 15-4), with the TBC at which it was verified. -/
structure CutEnd where
  cseq : W64
  nlines : Nat
  nframes : Nat
  overflow : Bool
  final : Bool
  lsum : W64
  actid : W64
  kmf : W64
  swb : W64
  swid : W64
  arr : W64
  deriving DecidableEq, Repr

/-- A CUT frame that waits for its CUTEND: CSEQ, OFF and its bytes. -/
structure CutPart where
  cseq : W64
  off : Nat
  data : Bytes
  deriving DecidableEq, Repr

/-- A stream item in the stream buffer: its item, its tag, its chunks by offset. -/
structure StreamPart where
  item : Nat
  cseq : W64
  off : Nat
  data : Bytes
  deriving DecidableEq, Repr

/-- An item that waits for lane time: its item, its tag, its bytes. -/
structure StreamOut where
  item : Nat
  cseq : W64
  data : Bytes
  deriving DecidableEq, Repr

/-- The grant of the last accepted Bugle (R432, R433). ACT: 0 RENEW, 1 TAKE, 2 SWAP, 3 NONE. -/
structure Grant where
  act : Byte := 3
  s : W64 := 0
  e : W64 := 0
  nexts : W64 := 0
  deriving DecidableEq, Repr

/-- PAIR (15_redundant_pair.md). ROLE: 0 SOLO, 1 ACTIVE, 2 STANDBY, 3 FENCED. -/
structure PairRegs where
  role : BitVec 2 := 0
  mode : Bool := false
  pseen : Bool := false
  /-- The final cut of a swap has been taken (R439). -/
  finalCut : Bool := false
  eligage : Byte := 32
  plen : Byte := 8
  ringEn : Bool := false
  ring : BitVec 6 := 0
  weth : BitVec 4 := 0
  witsel : Bool := false
  etype : W16 := 0
  wmac : BitVec 48 := 0
  lasym0 : W64 := 0
  lasym1 : W64 := 0
  sbase : W64 := 0
  slen : W32 := 0
  partner : W64 := 0
  epoch : W32 := 0
  grant : Grant := {}
  /-- The last accepted FV of the witness, and the last FV sent. -/
  fvRx : W64 := 0
  fvTx : W64 := 0
  /-- PLE, and whether it is still held (R433). -/
  ple : W64 := 0
  pleOk : Bool := false
  /-- The partner's HELLO showed this unit's schedule (R441, R503). -/
  sameGrid : Bool := false
  /-- TAKE or SWAP accepted as STANDBY: no partner lease is granted (R433). -/
  noLease : Bool := false
  /-- The last ACK reported READY. -/
  ackReady : Bool := false
  cseq : W64 := 0
  cutLines : W16 := 0
  cutMax : W16 := 0
  preStat : BitVec 11 := 0
  toff : W64 := 0
  copyLines : W32 := 0
  tlock : Bool := false
  tlockRun : Nat := 0
  lane0 : Bool := false
  lane1 : Bool := false
  /-- MFN of the last Bugle accepted, and of the last mirror frame verified. -/
  bugleMfn : Option W64 := none
  lastSeen : W64 := 0
  /-- The handshake: the own nonce, the partner's HELLO, the keys in use and those of a new handshake, whether
  frames are sent under the new ones, and the wait after a refusal (R420). -/
  nonce : Bytes := []
  hello : Option Hello := none
  keys : Option MirKeys := none
  nextKeys : Option MirKeys := none
  sendNext : Bool := false
  refused : Bool := false
  refusedAt : W64 := 0
  /-- Lanes on which a frame has been verified under the new keys. -/
  newLanes : BitVec 2 := 0
  /-- FCNT by lane and direction, at 2 × lane + direction: the next to send, and the last accepted plus 1. -/
  fcnt : Tbl W64 := []
  /-- The same under the new keys. -/
  fcnt2 : Tbl W64 := []
  /-- Lanes that carried a frame in this minor frame (IDLE). -/
  sent : BitVec 2 := 0
  /-- TIME: the transmit time of the own last TIME frame and the receive time of the partner's last. -/
  timeTx : W128 := 0
  timeRx : W128 := 0
  /-- The tracked lines at the last cut point, by REGION × 2^32 + LINE; a line of zeros is not listed. -/
  snap : Tbl Bytes := []
  /-- The received cut, and the last one applied. -/
  cutParts : List CutPart := []
  cutEnds : List CutEnd := []
  applied : Option W64 := none
  appliedAct : W64 := 0
  /-- A cut with FINAL has been applied (R434). -/
  finalApplied : Bool := false
  /-- SYNC is READY or may be (R430): every line and item installed and a later cut compared equal. -/
  copied : Bool := false
  /-- Every line of the full copy has come; items 1 to 5 installed since. -/
  copyDone : Bool := false
  /-- Items installed in this copy, by item. -/
  items : List Nat := []
  streamIn : List StreamPart := []
  streamOut : List StreamOut := []
  /-- The next line of a full copy in progress, by its position in the list of tracked lines. -/
  copyNext : Option Nat := none
  /-- The last ACK reported COPYING: the full copy has been started for it. -/
  partnerCopying : Bool := false
  /-- The images of the last items sent, to see a commit (Table 15-6). -/
  itemSent : Tbl Bytes := []
  swMismatch : Bool := false
  /-- The B of that comparison: agreement from this frame on ends the mismatch. -/
  swFrom : W64 := 0
  /-- The minor frame whose close the last METER frame carried; the own closes not yet compared. -/
  meterSent : W64 := 0
  /-- Descriptors that wait, each with the minor frame since which it does (R445). -/
  modeReq : List (HostDesc × W64) := []
  rekeyReq : List (HostDesc × W64) := []
  swapReq : List (HostDesc × W64) := []
  swapAsked : Bool := false
  /-- The bodies of the last accepted Bugle and of the last heartbeat sent. -/
  lastBugle : Bytes := []
  lastBeat : Bytes := []
  deriving DecidableEq, Repr

/-- An update, a clearing or a recovery that runs (R479 to R483). -/
structure PnlRun where
  clear : Bool := false
  desc : Option HostDesc := none
  /-- The window, and the strip in hand: first row and rows. -/
  x0 : Nat := 0
  y0 : Nat := 0
  ww : Nat := 0
  wh : Nat := 0
  sy : Nat := 0
  sh : Nat := 0
  band : Nat := 0
  /-- The next phase and its first row; PNL_PGOOD has come; a recovery. -/
  ph : Nat := 0
  row : Nat := 0
  good : Bool := false
  recover : Bool := false
  useq : W64 := 0
  deriving DecidableEq, Repr

/-- PNL (17_status_panel.md). The panel region is part of the MRAM. -/
structure PnlRegs where
  f : Tbl Byte := []
  fcrc : W32 := 0
  useq : W64 := 0
  band : BitVec 3 := 0
  zeroed : Bool := false
  /-- PNL_PEN, and VCOM as set on the ladder. -/
  pen : Bool := false
  vcom : Byte := 0
  ph : Byte := 0
  row : W16 := 0
  queue : List HostDesc := []
  run : Option PnlRun := none
  /-- The journal has been acted on in this start (R482). -/
  started : Bool := false
  deriving DecidableEq, Repr

end Sys2Proof.Machine
end

