-- ==== Sys2Proof/Machine/TypesSolver.lean ====
section
/-! DEFINITION. State of SOLV and PARC as plain data (chapters 3, 4 and 5). -/

namespace Sys2Proof.Machine

/-- A supernode (Table 4-4): first position, width, height. -/
structure Supernode where
  first : Nat
  w : Nat
  r : Nat
  deriving DecidableEq, Repr

/-- A branch of a NEWTON structure (Table 4-4). -/
structure Branch where
  src : Nat
  dst : Nat
  law : Nat
  deriving DecidableEq, Repr

/-- A capture binding (R124). -/
structure CapBind where
  point : Nat
  index : Nat
  arr : Nat
  scale : F64
  deriving DecidableEq, Repr

/-- A publication binding (R125). -/
structure PubBind where
  src : Nat
  point : Nat
  scale : F64
  deriving DecidableEq, Repr

/-- A structure descriptor (R120 to R122) as loaded. -/
structure SStruct where
  kind : Nat := 0
  p : Nat := 0
  ref : Nat := 0
  nls : Nat := 0
  n : Nat := 0
  nv : Nat := 0
  nr1 : Nat := 0
  nr2 : Nat := 0
  nnzk : Nat := 0
  nnzl : Nat := 0
  ns : Nat := 0
  npump : Nat := 0
  sig : W64 := 0
  /-- The 14 parameters in PARAM order (Table 4-7), as the header gives them. -/
  params : List F64 := []
  drBase : Nat := 0
  drLen : Nat := 0
  ssBase : Nat := 0
  ssLen : Nat := 0
  bPhase : List Nat := []
  ncap : Nat := 0
  npub : Nat := 0
  ring : Nat := 0xFFFF
  colptr : List Nat := []
  rowidx : List Nat := []
  order : List Nat := []
  super : List Supernode := []
  frows : List Nat := []
  place : List Nat := []
  branch : List Branch := []
  capbind : List CapBind := []
  pubbind : List PubBind := []
  /-- RES_OFF, the place of the result buffers in the DRAM region (Table 4-3). -/
  resOff : Nat := 0
  deriving DecidableEq, Repr

/-- The occurrence of a LONG slot that a run or a step was given last: its minor frame, its start and its working cycles. -/
structure Occ where
  mfn : W64
  start : Nat
  work : Nat
  deriving DecidableEq, Repr

/-- A SOLV_DELTA whose pairs are being written: the lines left, and the minor frame in which writing began (R130, R131). -/
structure DeltaRun where
  desc : HostDesc
  left : Nat
  mfn : W64
  deriving DecidableEq, Repr

/-- An iterate: QP x, y, z, s, z_l, z_u s_l, s_u; NEWTON q in `x`, H in `y`;
WLS x in `x`, lambda in `y`, mu in `z`. -/
structure Iterate where
  x : List F64 := []
  y : List F64 := []
  z : List F64 := []
  s : List F64 := []
  zl : List F64 := []
  zu : List F64 := []
  sl : List F64 := []
  su : List F64 := []
  deriving DecidableEq, Repr

/-- A result buffer: the record of Table 4-9 and the vector part of Table 4-12. -/
structure SResult where
  rseq : W32 := 0
  sslot : Nat := 0
  status : Byte := 0xFF
  flags : Byte := 0
  endc : Byte := 0
  task : W16 := 0
  iter : Byte := 0
  cert : Byte := 0
  dsv : W32 := 0
  mfn : W64 := 0
  wc : W64 := 0
  pivcnt : W32 := 0
  pividx : W32 := 0xFFFFFFFF
  pivtot : W32 := 0
  badbind : W32 := 0
  rhoRel : F64 := 0
  meas : List F64 := []
  badidx : W32 := 0xFFFFFFFF
  vec : List F64 := []
  valid : Bool := false
  deriving DecidableEq, Repr

/-- A structure slot (Table 4-17): 0 EMPTY, 1 LOADING, 2 READY, 3 FAILED. -/
structure SSlot where
  st : BitVec 2 := 0
  loadErr : Byte := 0
  desc : Option SStruct := none
  /-- The section whose load is in progress (R116), and the SOLV_RELOAD that asked for it. -/
  loading : Bytes := []
  reload : Option HostDesc := none
  /-- The data set: arrays of Table 4-6 by array × 2^32 + index. -/
  data : Tbl F64 := []
  dsv : W32 := 0
  rseq : W32 := 0
  usable : Bool := false
  store : Iterate := {}
  storeSig : W64 := 0
  /-- RB0, RB1, RB2 (R136) and which of RB0, RB1 the next scheduled result takes. -/
  rb : Tbl SResult := []
  nextRb : Nat := 0
  last : SResult := {}
  /-- The SOLV_DELTA being written, and started ones that wait behind it, first in first out (R131). -/
  writing : Option DeltaRun := none
  deltas : List HostDesc := []
  /-- The data set and DSV as at cycle 0 of a minor frame in which a later delta was applied (R126). -/
  prior : Option (W64 × Tbl F64 × W32) := none
  /-- The last capture frame whose initialisation has read the data set, by task (R131). -/
  initd : List (W16 × W64) := []
  deriving DecidableEq, Repr

/-- A run in progress (R102 to R111, R132 to R135). -/
structure SRun where
  task : W16
  slot : Nat
  /-- The SOLV_RUN of a host run. -/
  host : Option HostDesc := none
  capMfn : W64 := 0
  /-- Working cycles at the end of the last phase, counted from the capture (R113); those of the LONG slots that are over,
  and the one in progress or last (R108). -/
  wc : Nat := 0
  elapsed : Nat := 0
  occ : Option Occ := none
  /-- The entries captured from points, and whether the initialisation waits for a delta (R124, R131). -/
  caps : List (Nat × Nat × F64) := []
  wait : Bool := false
  /-- Working cycles at the start of the initialisation. -/
  began : Nat := 0
  /-- Working cycles between capture and deadline; SOLV_CUT has shortened them. -/
  budget : Nat := 0
  hostCut : Bool := false
  data : Tbl F64 := []
  dsv : W32 := 0
  badbind : Nat := 0
  badidx : W32 := 0xFFFFFFFF
  warm : Bool := false
  refusedWarm : Bool := false
  /-- The scaling of the run, by matrix index (R88). -/
  scale : List F64 := []
  it : Iterate := {}
  iter : Nat := 0
  dx : List F64 := []
  lowAlpha : Nat := 0
  /-- μ and the largest feasibility measure of the last iterations, newest first (R98). -/
  hist : List (F64 × F64) := []
  noprog : Nat := 0
  lastStep : F64 := 0
  /-- Replaced pivots of the last factorisation, the first of them, and those of the run (R91). -/
  pivcnt : Nat := 0
  pividx : W32 := 0xFFFFFFFF
  pivtot : Nat := 0
  rhoRel : F64 := 0
  /-- Status and END of a run that has ended and waits for its result write. -/
  ended : Option (Byte × Byte) := none
  cert : Byte := 0
  /-- EN was written 0 while this run was in progress (R109). -/
  disabled : Bool := false
  deriving DecidableEq, Repr

/-- A result that waits for its PUB slot (R103, R140). -/
structure SHeld where
  task : W16
  slot : Nat
  rb : Nat
  pubMfn : W64
  publish : Bool
  deriving DecidableEq, Repr

structure SolvRegs where
  slots : Tbl SSlot := []
  runs : List SRun := []
  held : List SHeld := []
  /-- SOLV_RUN descriptors that wait for their task's next working cycle (R133). -/
  hostRuns : List HostDesc := []
  deriving DecidableEq, Repr

/-- A parcel (Table 5-2). -/
structure Parcel where
  vol : F32 := 0
  temp : F32 := 0
  age : W32 := 0
  deriving DecidableEq, Repr

/-- A segment (Table 5-3), its parcels from the FROM end to the TO end. -/
structure Segment where
  src : Nat := 0
  dst : Nat := 0
  branch : Nat := 0
  volume : F32 := 0
  lambda : F32 := 0
  flow : F32 := 0
  loss : F32 := 0
  pbase : Nat := 0
  pcap : Nat := 0
  amb : Nat := 0
  group : Nat := 0
  head : Nat := 0
  parcels : List Parcel := []
  overrun : Bool := false
  stagnant : Bool := false
  deriving DecidableEq, Repr

/-- A node (Table 5-4). -/
structure PNode where
  temp : F32 := 0
  age : W32 := 0
  fixed : Bool := false
  noflow : Bool := false
  srcbad : Bool := false
  point : W32 := 0xFFFFFFFF
  deriving DecidableEq, Repr

/-- A watch entry (R153). -/
structure Watch where
  kind : Nat := 0
  st : Bool := false
  index : Nat := 0
  point : W32 := 0
  limit : F32 := 0
  pers : Nat := 1
  cnt : Nat := 0
  deriving DecidableEq, Repr

/-- A PARC publication binding (R152). -/
structure ParcBind where
  kind : Nat
  index : Nat
  point : Nat
  scale : F64
  deriving DecidableEq, Repr

/-- A PARC_SET pair (R164). -/
structure ParcPair where
  index : Nat
  field : Nat
  value : F64
  /-- The minor frame of its delivery (R147). -/
  mfn : W64
  deriving DecidableEq, Repr

/-- What a step reads at its capture (R147): usable values by point; `none` is unusable. -/
structure PCapture where
  mfn : W64
  /-- The segments, ambient entries and watches that the step works on: with the pairs and flows taken at its capture. -/
  segs : List Segment := []
  amb : List (W32 × F32) := []
  watch : List Watch := []
  /-- FIXED nodes whose point was unusable or not finite (SRCBAD). -/
  bad : List Bool := []
  /-- The PARC_SET pairs that the capture took, and whether it took fresh flows. -/
  pairs : List ParcPair := []
  took : Bool := false
  nodes : List (Option F64) := []
  ambs : List (Option F64) := []
  watches : List (Option F64) := []
  subst : Bool := false
  /-- Working cycles of the LONG slots that are over, and the one in progress or last. -/
  wc : Nat := 0
  occ : Option Occ := none
  /-- Not published: the step runs out under EN = 0 (R158). -/
  noPub : Bool := false
  deriving DecidableEq, Repr

structure ParcRegs where
  cfgSt : BitVec 2 := 0
  loadErr : Byte := 0
  loading : Bytes := []
  psig : W64 := 0
  hslot : Nat := 0xFF
  dtMs : Nat := 0
  cp : F32 := 0
  flowScale : F64 := 0
  qZero : F32 := 0
  mergeTol : F32 := 0
  rhoRef : F32 := 0
  npar : Nat := 0
  dens : List F32 := []
  amb : List (W32 × F32) := []
  segs : List Segment := []
  nodes : List PNode := []
  watch : List Watch := []
  pubs : List ParcBind := []
  flowIn : List F32 := []
  fresh : Bool := false
  pend : List ParcPair := []
  step : Option PCapture := none
  /-- The capture frame of the last complete step, if it is still to be published. -/
  doneMfn : Option W64 := none
  doneSubst : Bool := false
  mstep : W64 := 0
  badin : Byte := 0
  substPub : Bool := false
  lastPub : Bool := false
  stepSt : BitVec 4 := 0xF
  ovr : W32 := 0
  mrg : W32 := 0
  wc : W32 := 0
  almChg : Tbl Bool := []
  /-- Residuals of the last evaluation of each watch (Table 5-5). -/
  resid : List F64 := []
  /-- The parcel state of the last committed step, as the mirror carries it (Table 15-6). -/
  item : Option Bytes := none
  deriving DecidableEq, Repr

end Sys2Proof.Machine
end

