-- ==== Sys2Proof/Machine/TypesTime.lean ====
section
/-! DEFINITION. State of TIME and RTC as plain data (12_time_and_calendar.md). -/

namespace Sys2Proof.Machine

/-- One time trigger (Table 12-8). -/
structure Trig where
  width : W16 := 0
  out : BitVec 2 := 0
  src : BitVec 6 := 0
  edge : BitVec 2 := 0
  mode : BitVec 2 := 0
  missed : Bool := false
  fired : Bool := false
  next : W64 := 0
  period : W64 := 0
  cap : W64 := 0
  deriving DecidableEq, Repr

/-- Values of network time that were in force before the cycle `until_`, and their step count (R335, R350). -/
structure TimePast where
  until_ : W64
  offset : W128
  anchor : W64
  rate : W64
  steps : W16
  deriving DecidableEq, Repr

structure TimeRegs where
  tbc : W64 := 0
  offset : W128 := 0
  anchor : W64 := 0
  rate : W64 := 0
  steps : W16 := 0
  lock : Bool := false
  armed : Bool := true
  gridErr : W32 := 0
  flen : W32 := 0
  f0 : W128 := 0
  /-- ORIGIN (R353), the start cycle of the current frame and its length (R354). -/
  origin : W128 := 0
  frameStart : W64 := 0
  frameLen : W32 := 0
  /-- The grid instant b computed at the start of the current frame (R354). -/
  nextInst : W128 := 0
  trig : Tbl Trig := []
  /-- The TBC at which the pulse on TSYN_OUT_k ends (R358). -/
  pulse0 : Option W64 := none
  pulse1 : Option W64 := none
  /-- The values before the last changes, oldest first, for captures of cycles before them. -/
  past : List TimePast := []
  deriving DecidableEq, Repr

/-- A calendar (Table 12-12). -/
structure Cal where
  wday : BitVec 3 := 0
  hour : BitVec 5 := 0
  min : BitVec 6 := 0
  sec : BitVec 6 := 0
  year : BitVec 14 := 0
  mon : BitVec 4 := 0
  day : BitVec 5 := 0
  deriving DecidableEq, Repr

/-- RTC, all in PD0 (Tables 12-10 to 12-12). -/
structure RtcRegs where
  rcnt : BitVec 55 := 0
  cal : Cal := {}
  calEn : Bool := false
  bin : Bool := false
  osf : Bool := true
  almf : Bool := false
  calWrap : Bool := false
  snapDone : Bool := false
  snapPend : Bool := false
  commitPend : Bool := false
  snapCnt : W64 := 0
  snapCal : Cal := {}
  stgCnt : W64 := 0
  stgCal : Cal := {}
  stgFlags : BitVec 4 := 0
  alarm : BitVec 48 := 0
  almEn : Bool := false
  /-- The last edge applied a commit (R366). -/
  commitEdge : Bool := false
  /-- EN was written 0 and no edge has come since (R361). -/
  draining : Bool := false
  reads : List HostDesc := []
  writes : List HostDesc := []
  deriving DecidableEq, Repr

end Sys2Proof.Machine
end

