-- ==== Sys2Proof/Machine/State.lean ====
section
/-! DEFINITION. The state of the SH1024 as plain data, its value at reset, and the reasons a step can
stop. -/

namespace Sys2Proof.Machine

/-- Reasons a step stops with a fault: there is none. Every error that the manual describes is counted,
reported or freezes one master, and the block goes on (R30). -/
inductive Fault where
  deriving DecidableEq, Repr

/-- Reasons a step is refused. -/
inductive Refusal where
  /-- Raised by the arm of a command that has no meaning yet; safe: nothing is claimed of it. -/
  | notModelled (mnemonic : String)
  deriving DecidableEq, Repr

/-- Everything the manual gives the machine, what has left the block (newest first), the count of free
values taken, and the commands that wait. A table lists only entries that differ from reset. -/
structure State where
  blk : Tbl Blk := []
  snaps : List WideLatch := []
  staged : List WideLatch := []
  sys : SysRegs := {}
  pwr : PwrRegs := {}
  sched : SchedRegs := {}
  pimg : PImage := {}
  cell : CellRegs := {}
  mc1 : Mc1 := {}
  loops : LoopRegs := {}
  axis : AxisRegs := {}
  metr : MetrRegs := {}
  canl : CanlRegs := {}
  mbus : MbusRegs := {}
  ethl : EthlRegs := {}
  solv : SolvRegs := {}
  parc : ParcRegs := {}
  hif : HifRegs := {}
  irq : IrqRegs := {}
  sec : SecRegs := {}
  recs : RecRegs := {}
  nvm : NvmRegs := {}
  time : TimeRegs := {}
  rtc : RtcRegs := {}
  pair : PairRegs := {}
  pnl : PnlRegs := {}
  /-- The MRAM, by byte offset; the DRAM, by fabric address. An unlisted byte reads 0. -/
  mram : Tbl Byte := []
  dram : Tbl Byte := []
  /-- Bytes of the engines' memories that MC1 has stored where no field stands for them, by fabric address. -/
  other : Tbl (Option Byte) := []
  out : List Out := []
  free : Nat := 0
  pending : List Instr := []
  deriving DecidableEq, Repr

/-- The machine right after the first power-on reset of a blank part: every field at its reset value. -/
def State.reset : State := {}

end Sys2Proof.Machine
end

