-- ==== Sys2Proof/Machine/Ops.lean ====
section
/-! DEFINITION. The operations that the commands share: counters (R31), network time (R349), Lantern
and audit records (R452, R456), interrupt events (R388), windows and freezes (R65 to R68), points
(R168, R173, R515), and the start and completion of a descriptor (R381 to R385, R405, R416). -/

namespace Sys2Proof.Machine

/-! ### Block numbers (Table 1-9) -/

def bSYS : Nat := 0x00
def bHIF : Nat := 0x01
def bIRQ : Nat := 0x02
def bSCHED : Nat := 0x03
def bCELL : Nat := 0x04
def bLOOP : Nat := 0x05
def bSOLV : Nat := 0x06
def bPARC : Nat := 0x07
def bAXIS : Nat := 0x08
def bMETR : Nat := 0x09
def bCANL : Nat := 0x0A
def bETHL : Nat := 0x0B
def bMBUS : Nat := 0x0C
def bTIME : Nat := 0x0D
def bRTC : Nat := 0x0E
def bPWR : Nat := 0x0F
def bSEC : Nat := 0x10
def bPAIR : Nat := 0x11
def bREC : Nat := 0x12
def bNVM : Nat := 0x13
def bPNL : Nat := 0x14

/-! ### Common registers -/

/-- The common registers of block `b` after reset: EN is 1 for SYS, RTC, PWR and SEC (Table 1-11). -/
def blkReset (b : Nat) : Blk := { en := b == bSYS || b == bRTC || b == bPWR || b == bSEC }

def blkGet (s : State) (b : Nat) : Blk := tblGet s.blk b (blkReset b)
def blkPut (s : State) (b : Nat) (v : Blk) : State := { s with blk := tblPut s.blk b v (blkReset b) }
def enOf (s : State) (b : Nat) : Bool := (blkGet s b).en
def setEn (s : State) (b : Nat) (v : Bool) : State := blkPut s b { blkGet s b with en := v }

/-- EN rises: the function starts at its next scheduled slot and never earlier (R35). -/
def enable (s : State) (b : Nat) : State := blkPut s b { blkGet s b with en := true, held := true }

/-- A scheduled slot of the block has come. -/
def slotReached (b : Nat) (s : State) : State :=
  if (blkGet s b).held then blkPut s b { blkGet s b with held := false } else s

/-- The function works: EN is 1 and its first slot since then has come. -/
def runsEn (s : State) (b : Nat) : Bool := (blkGet s b).en && !(blkGet s b).held

/-- The new counters of a block when counter `n` takes one error (R31, Table 1-13). -/
def blkInc (k : Blk) (n : Nat) : Blk :=
  let c := satInc (tblGet k.cnt n 0)
  { k with cnt := tblPut k.cnt n c 0, cntSat := k.cntSat || c == 0xFFFFFFFF }

/-- One error counted in BLOCK.CNT[n] (R31). -/
def count (b n : Nat) (s : State) : State := blkPut s b (blkInc (blkGet s b) n)

def countIf (c : Bool) (b n : Nat) (s : State) : State := if c then count b n s else s

def countN (b n : Nat) : Nat → State → State
  | 0, s => s
  | k + 1, s => countN b n k (count b n s)

/-- What leaves the block. -/
def emit (o : Out) (s : State) : State := { s with out := o :: s.out }

def emitAll (os : List Out) (s : State) : State := { s with out := os.reverse ++ s.out }

/-! ### Network time (R349, Table 12-1) -/

/-- t(c) under the values in force. -/
def timeAt (t : TimeRegs) (c : Nat) : W128 :=
  t.offset + BitVec.ofInt 128 (((c : Int) - t.anchor.toNat) * (2 ^ 48 + t.rate.toInt) / 2 ^ 32)

def nowT (s : State) : W128 := timeAt s.time s.time.tbc.toNat
def nsOf (t : W128) : Nat := t.toNat / 65536
def nowNs (s : State) : W64 := BitVec.ofNat 64 (nsOf (nowT s))
/-- Network time with the values that were in force in cycle c (R350). -/
def timeIn (t : TimeRegs) (c : W64) : TimeRegs :=
  match t.past.find? fun p => decide (c.toNat < p.until_.toNat) with
  | some p => { t with offset := p.offset, anchor := p.anchor, rate := p.rate, steps := p.steps }
  | none => t

/-- A timestamp from the counter captured at its point, `frac` eighths of a nanosecond into cycle `cap`: to 0.125 ns,
with the step count of that cycle (R334, R335). -/
def stampOf (s : State) (cap : W64) (frac : BitVec 3) : W128 :=
  BitVec.ofNat 128 ((timeAt (timeIn s.time cap) cap.toNat).toNat / 8192 * 8192 + frac.toNat * 8192)
def stepsAt (s : State) (cap : W64) : W16 := (timeIn s.time cap).steps

/-- The values in force are kept for captures of the last 65,536 cycles when they change. -/
def keepTime (t : TimeRegs) : TimeRegs :=
  { t with past := (t.past.filter fun p => decide (t.tbc.toNat < p.until_.toNat + 65536)) ++
      [{ until_ := t.tbc, offset := t.offset, anchor := t.anchor, rate := t.rate, steps := t.steps }] }

/-- TIME.NOW: FRAC, NS and SEC. -/
def timeForm (t : W128) : W128 :=
  BitVec.ofNat 128 (t.toNat % 65536 + (nsOf t % 10 ^ 9) * 2 ^ 32 + (nsOf t / 10 ^ 9 % 2 ^ 64) * 2 ^ 64)

/-! ### Interrupt events -/

/-- Level sources (Table 13-10). -/
def isLevel (n : Nat) : Bool :=
  [195, 196, 197, 199, 202, 204, 205, 207, 209, 210, 211, 213].contains n ||
  (decide (240 ≤ n) && decide (n ≤ 279)) || (decide (312 ≤ n) && decide (n ≤ 343))

def isReservedSrc (n : Nat) : Bool :=
  (decide (96 ≤ n) && decide (n ≤ 127)) || (decide (215 ≤ n) && decide (n ≤ 239)) || decide (344 ≤ n)

/-- A source after reset: TARGET 0 below 64 and 1 otherwise, masked (Table 13-19). -/
def srcReset (n : Nat) : IrqSrc := { target := if n < 64 then 0 else 1 }
def srcGet (s : State) (n : Nat) : IrqSrc := tblGet s.irq.src n (srcReset n)
def srcPut (s : State) (n : Nat) (v : IrqSrc) : State :=
  { s with irq := { s.irq with src := tblPut s.irq.src n v (srcReset n) } }

/-- An edge event sets PEND; further events merge (R388). -/
def irqEdge (n : Nat) (s : State) : State := srcPut s n { srcGet s n with pend := true }

/-! ### Lantern and audit -/

/-- The MFN that a record carries: 0 before schedule start (Table 16-2). -/
def recMfn (s : State) : W64 := if s.sched.run then s.sched.mfn else 0

/-- A record enters the Lantern queue (R452, R454): dropped and counted when the queue of 64 is full,
counted and not written while Lantern is frozen. -/
def lantern (code sev : Nat) (data : Bytes) (s : State) : State :=
  if s.recs.lfrozen then count bREC 1 s
  else if s.recs.queue.length < 64 then
    { s with recs := { s.recs with queue := s.recs.queue ++
        [{ pcyc := s.recs.pcyc, opt := s.recs.opt, code := BitVec.ofNat 16 code, sev := BitVec.ofNat 8 sev,
           mfn := recMfn s, data := slice data 0 32 }] } }
  else count bREC 0 { s with recs := { s.recs with drops := s.recs.drops + 1 } }

/-- Records that the audit log holds, in programmed pages and in the journal (R455, R457). -/
def audCount (r : RecRegs) : Nat := (r.audPages.map fun p => p.recs.length).sum + r.journal.length

/-- AFULL (R458): the log of a formatted store holds AUDCAP records. -/
def audFull (s : State) : Bool := s.nvm.formatted && decide (s.recs.audCap.toNat ≤ audCount s.recs)

def mkAud (r : RecRegs) (code ctx auth ocnt : Nat) (data : Bytes) : AudRec :=
  { seq := r.audNext, code := BitVec.ofNat 16 code, ctx := BitVec.ofNat 16 ctx,
    auth := BitVec.ofNat 8 auth, ocnt := BitVec.ofNat 64 ocnt, data := slice data 0 104 }

def audPush (code ctx auth ocnt : Nat) (data : Bytes) (s : State) : State :=
  { s with recs := { s.recs with journal := s.recs.journal ++ [mkAud s.recs code ctx auth ocnt data],
                                 audNext := s.recs.audNext + 1 } }

/-- An audit record is created (R456 to R458): refused while the log is full, dropped while the journal
is full, and preceded by a Gap record after a drop. -/
def audit (code ctx auth ocnt : Nat) (data : Bytes) (s : State) : State :=
  let gap := s.recs.audGap != 0
  if audFull s then count bREC 3 s
  else if s.recs.journal.length + (if gap then 2 else 1) > 256 then
    count bREC 2 { s with recs := { s.recs with audGap := satInc s.recs.audGap } }
  else if gap then
    audPush code ctx auth ocnt data
      (let s1 := audPush 0x0009 0xFFFF 0 0 (leBytes 4 s.recs.audGap.toNat) s
       { s1 with recs := { s1.recs with audGap := 0 } })
  else audPush code ctx auth ocnt data s

/-! ### MRAM -/

/-- A write of a region's own writer: discarded without count while PFLOCK is 1 (R488). -/
def mramWrite (off : Nat) (b : Bytes) (s : State) : State :=
  if s.pwr.pflock then s else { s with mram := tblPutAll s.mram off b 0 }

def mramRead (off len : Nat) (s : State) : Bytes := tblRange s.mram off len 0

/-- A field in MRAM changes unless PFLOCK holds (R488). -/
def unlocked (s : State) : Bool := !s.pwr.pflock

/-! ### DRAM -/

def dramRead (s : State) (a n : Nat) : Bytes := tblRange s.dram a n 0
def dramWrite (a : Nat) (b : Bytes) (s : State) : State := { s with dram := tblPutAll s.dram a b 0 }

/-- Bytes that a master has stored where the model keeps no field for them; `none` where one of them was never stored. -/
def otherBytes (s : State) (a n : Nat) : Option Bytes :=
  let l := (List.range n).filterMap fun i => tblGet s.other (a + i) none
  if l.length = n then some l else none

def otherStore (a : Nat) (v : Byte) (s : State) : State := { s with other := tblPut s.other a (some v) none }

/-- Opportunities of a channel before cycle `c` of a minor frame: 320 in each 2,000 cycles from cycle 2,000 (R54). -/
def oppsBefore (c : Nat) : Nat := if c ≤ 2000 then 0 else 320 * (c / 2000 - 1) + min 320 ((c % 2000 + 4) / 5)

/-- Of the opportunities before number `i`, those of a reservation (R50). -/
def ownedBefore (r : DramRes) (i : Nat) : Nat :=
  let k := 2 ^ r.slog
  if i ≤ r.offset then 0 else (i - r.offset + k - 1) / k

/-- Opportunities that master `m` owns in the cycles from `a` to below `b` (R56). -/
def ownedOpps (s : State) (m a b : Nat) : Nat :=
  match s.sched.image with
  | none => 0
  | some i => ((i.dram.filter fun r => r.master == m).map fun r =>
      ownedBefore r (oppsBefore b) - ownedBefore r (oppsBefore a)).sum

/-! ### Free values -/

/-- `n` random bytes of the DRBG (R398). -/
def randomBytes (n : Nat) (s : State) : Bytes × State :=
  (leBytes n (Config.random s.free).toNat, { s with free := s.free + 1 })

/-- One free word. -/
def freeWord (s : State) : W64 × State := (Config.word s.free, { s with free := s.free + 1 })

/-! ### The running image, windows and freezes -/

def frozenM (s : State) (m : Nat) : Bool := tblGet s.sched.frozen m false

def slotsOf (s : State) (m : Nat) : List (Nat × SlotE) :=
  match s.sched.image with
  | none => []
  | some i => (i.slots.zipIdx.map fun p => (p.2, p.1)).filter fun p => p.2.master == m

def holdsSlots (s : State) (m : Nat) : Bool := !(slotsOf s m).isEmpty

/-- The minor frame's index in the major frame (R37). -/
def mIndex (s : State) : Nat :=
  (s.sched.mfn.toNat - s.sched.mfnBase.toNat) % max 1 s.sched.majM.toNat

/-- A slot is active in minor frame m (R37). -/
def slotActive (e : SlotE) (m : Nat) : Bool := decide ((m + e.period - e.phase) % max 1 e.period = 0)

/-- An access of master `m` to `len` bytes at `addr` lies in one of its windows with the permission (R49, R65). -/
def inWindow (s : State) (m addr len : Nat) (write : Bool) : Bool :=
  match s.sched.image with
  | none => false
  | some i => i.wins.any fun w =>
      w.master == m && decide (w.base ≤ addr) && decide (addr + len ≤ w.limit + 1) && bit w.perm (if write then 1 else 0)

def viewIn (p : Nat) : Nat := 0x1000000000 + 16 * p
def viewOut (p : Nat) : Nat := 0x1000200000 + 16 * p
def stageAddr (e : Nat) : Nat := 0x1000400000 + 16 * e

/-- The causes of FRZINFO (Table 2-26). -/
def czWINDOW_W : Nat := 1
def czWINDOW_R : Nat := 2
def czOVERRUN : Nat := 3
def czFAULT : Nat := 4

/-- The four words of SCHED.FRZINFO. -/
def frzWords (f : Frz) : List W32 :=
  [BitVec.ofNat 32 ((f.addr.toNat / 2 ^ 32) * 2 ^ 24 + f.slot.toNat * 2 ^ 8 + f.cause.toNat), f.mfn, f.cyc,
   BitVec.ofNat 32 f.addr.toNat]

/-- The working cycles that an occurrence of a LONG slot has given by now (R108). -/
def occNow (s : State) (o : Option Occ) : Nat :=
  match o with
  | some o => if o.mfn = s.sched.mfn then min o.work (s.sched.cyc.toNat - o.start) else o.work
  | none => 0

/-- The working cycles of a run since its capture (R108, R137). -/
def elapsedNow (s : State) (r : SRun) : Nat := r.elapsed + occNow s r.occ

/-- The initialisation or the cold start is in flight: the model has computed it as a whole at its start (log entry 75). -/
def inStart (s : State) (r : SRun) : Bool := r.iter == 0 && decide (elapsedNow s r < r.wc)
def inProgress (s : State) (r : SRun) : Bool := r.ended.isNone || inStart s r

/-- A run in progress ends in whatever phase it is (R109, R111); an unfinished factorisation leaves nothing. -/
def cutRun (s : State) (st en : Byte) (r : SRun) : SRun :=
  if !inProgress s r then r
  else
    let r1 := { r with ended := some (st, en), wc := elapsedNow s r, wait := false, cert := 0 }
    if inStart s r then { r1 with pivcnt := 0, pividx := 0xFFFFFFFF, pivtot := 0, rhoRel := 0 } else r1

/-- PARC's step in progress is given up: the state is that of the last complete step, and the pairs and fresh flows that its
capture took are there again for the next one (R151, R157; log entry 61). -/
def parcGiveUp (st : BitVec 4) (s : State) : State :=
  match s.parc.step with
  | none => s
  | some c => { s with parc := { s.parc with
      step := none, stepSt := st, pend := c.pairs ++ s.parc.pend, fresh := s.parc.fresh || c.took,
      wc := BitVec.ofNat 32 (c.wc + occNow s c.occ) } }

/-- The step ends without committing (R157). -/
def parcInterrupt (s : State) : State := parcGiveUp 3 s

/-- The further effects of a freeze on the master's own work in flight (R67, Table 2-9). -/
def freezeEffect (m : Nat) (s : State) : State :=
  if 2 ≤ m ∧ m ≤ 9 then
    let e := m - 2
    let c := tblGet s.cell.eng e {}
    { s with cell := { s.cell with eng := tblPut s.cell.eng e { c with inCyc := false, stepping := false } {} } }
  else if m = 15 then
    { s with solv := { s.solv with runs := s.solv.runs.map (cutRun s 4 6) } }
  else if m = 16 then
    parcInterrupt s
  else if m = 24 then
    { s with pnl := { s.pnl with
        run := none, pen := false,
        queue := (match s.pnl.run with | some r => r.desc.toList | none => []) ++ s.pnl.queue } }
  else if m = 17 then { s with sched := { s.sched with hifFreezeKmf := s.sched.kmf } }
  else s

/-- A violation freezes the master (R65 to R68): recorded once, counted, in Lantern, and signalled. -/
def freeze (m cause addr slot : Nat) (s : State) : State :=
  if frozenM s m then s
  else
    let f : Frz := { cause := BitVec.ofNat 4 cause, addr := BitVec.ofNat 40 addr, slot := BitVec.ofNat 11 slot,
                     mfn := BitVec.ofNat 32 s.sched.mfn.toNat, cyc := BitVec.ofNat 32 s.sched.cyc.toNat }
    let s1 := freezeEffect m s
    let s2 := { s1 with sched := { s1.sched with frozen := tblPut s1.sched.frozen m true false,
                                                 frzInfo := tblPut s1.sched.frzInfo m f {} } }
    irqEdge (if m = 1 then 0 else 192)
      (lantern 0x0301 2 (leBytes 1 m ++ ((frzWords f).map fun w => leBytes 4 w.toNat).flatten)
        (count bSCHED (if cause = czFAULT then 7 else if cause = czOVERRUN then 3 else 2) s2))

/-- The index in SLOTS of the master's active slot that covers the current cycle, else its first. -/
def curSlot (s : State) (m : Nat) : Nat :=
  let l := slotsOf s m
  let c := s.sched.cyc.toNat
  match l.find? fun p => slotActive p.2 (mIndex s) && decide (p.2.start ≤ c) && decide (c < p.2.start + p.2.budget) with
  | some p => p.1
  | none => match l with | [] => 0 | p :: _ => p.1

/-- The active slot of master `m` that covers the current cycle (R19, R37). -/
def slotNow (s : State) (m : Nat) : Option SlotE :=
  if s.sched.run then
    ((slotsOf s m).find? fun p => slotActive p.2 (mIndex s) && decide (p.2.start ≤ s.sched.cyc.toNat) &&
      decide (s.sched.cyc.toNat < p.2.start + p.2.budget)).map (·.2)
  else none

def inSlotOf (s : State) (m : Nat) : Bool := (slotNow s m).isSome

/-- A read or write that must lie in the windows of `m`: outside them it has no effect and freezes (R65). A frozen
master's ports are closed (R67). -/
def guarded (m addr len : Nat) (write : Bool) (ok : State → State) (s : State) : State :=
  if frozenM s m then s
  else if inWindow s m addr len write then ok s
  else freeze m (if write then czWINDOW_W else czWINDOW_R) addr (curSlot s m) s

/-- The unit drives the field (Table 15-1), and its scheduled engines run: from the final cut of a swap
they pass idle (R415, R439). -/
def drives (s : State) : Bool := decide (s.pair.role.toNat < 2)
def enginesRun (s : State) : Bool := drives s && !s.pair.finalCut

/-! ### Points -/

def pointUndef : Point := {}

/-- The point record as the working copy holds it; the undefined record beyond NPOINT (R168). -/
def workPt (s : State) (p : Nat) : Point := tblGet s.pimg.working p pointUndef
def frozenPt (s : State) (p : Nat) : Point := tblGet s.pimg.frozen p pointUndef

/-- Point `p` as master `m` reads it (Table 6-5). -/
def readPt (s : State) (m : Nat) (out : Bool) (p : Nat) : Point :=
  if !out then frozenPt s p
  else if decide (18 ≤ m) && decide (m ≤ 22) && s.pimg.openSpan then frozenPt s p
  else workPt s p

/-- The first of the points `ps` whose record in the input view lies outside the read windows of master `m` (R65). -/
def outsidePt (s : State) (m : Nat) (ps : List Nat) : Option Nat := ps.find? fun p => !inWindow s m (viewIn p) 16 false

/-- Master `m` reads the points `ps` of the input view: the first one outside its windows freezes it, and what it reads
them for does not happen (R20, R65). -/
def readPts (m : Nat) (ps : List Nat) (ok : State → State) (s : State) : State :=
  if frozenM s m then s
  else match outsidePt s m ps with
    | some p => freeze m czWINDOW_R (viewIn p) (curSlot s m) s
    | none => ok s

def qGOOD : BitVec 3 := 0
def qSTALE : BitVec 3 := 1
def qBAD : BitVec 3 := 2
def qFORCED : BitVec 3 := 3
def qSUBST : BitVec 3 := 4
def qINIT : BitVec 3 := 5

/-- The bytes stored for a TYPE: the low bits of the value, the rest 0 (R168, R219). -/
def typeBits (typ : Byte) (v : W64) : W64 :=
  if typ = 1 then v &&& 1
  else if typ = 2 ∨ typ = 3 ∨ typ = 6 then v &&& 0xFFFFFFFF
  else v

/-- A new value and quality in a copy: STAMP follows a change (R177). -/
def ptSet (p : Point) (v : W64) (q : BitVec 3) (mfn : W64) : Point :=
  let v1 := typeBits p.typ v
  if p.value = v1 ∧ p.qual = q then p
  else { p with value := v1, qual := q, stamp := BitVec.ofNat 32 mfn.toNat }

def workPut (s : State) (p : Nat) (r : Point) : State :=
  { s with pimg := { s.pimg with working := tblPut s.pimg.working p r pointUndef } }

def workSet (s : State) (p : Nat) (v : W64) (q : BitVec 3) : State :=
  workPut s p (ptSet (workPt s p) v q s.sched.mfn)

/-- A point write by master `m` inside its windows: the tests of R515 in their order. -/
def pointWrite (m p : Nat) (v : W64) (q : Nat) (s : State) : State :=
  let r := workPt s p
  if p ≥ 131072 ∨ r.typ = 0 then count bCELL 2 s
  else if r.owner.toNat ≠ m then count bCELL 2 s
  else if 2 ≤ m ∧ m ≤ 14 ∧ (r.cls = 1 ∨ r.cls = 2) ∧ !s.pimg.openSpan then count bCELL 1 s
  else if r.qual = qFORCED then s
  else if q = 0 ∨ q = 1 ∨ q = 2 ∨ q = 4 then workSet s p v (BitVec.ofNat 3 q)
  else count bCELL 2 (workSet s p v qBAD)

/-- A point that an engine may use: its quality is GOOD, FORCED or SUBST and its value is finite (R232). -/
def usableQ (r : Point) : Bool := r.qual == 0 || r.qual == 3 || r.qual == 4

/-- The integer range of a TYPE. -/
def typeRange (typ : Byte) : Int × Int :=
  if typ = 2 then (-2 ^ 31, 2 ^ 31 - 1) else if typ = 3 then (0, 2 ^ 32 - 1)
  else if typ = 4 then (-2 ^ 63, 2 ^ 63 - 1) else (0, 2 ^ 64 - 1)

/-- The value of a point as binary64 (R180); `none` for an undefined point. -/
def ptToF64 (r : Point) : Option F64 :=
  if r.typ = 0 then none
  else if r.typ = 1 then some (if r.value.toNat % 2 = 1 then 0x3FF0000000000000 else 0)
  else if r.typ = 2 then some (ofIntF (sint 32 r.value.toNat))
  else if r.typ = 3 then some (ofNatF (r.value.toNat % 2 ^ 32))
  else if r.typ = 4 then some (ofIntF r.value.toInt)
  else if r.typ = 6 then some (ofF32 (BitVec.ofNat 32 r.value.toNat))
  else if r.typ = 7 then some r.value
  else some (ofNatF r.value.toNat)

/-- The usable value of a point as binary64. -/
def usableF (r : Point) : Option F64 :=
  match ptToF64 r with
  | some v => if usableQ r && finF v then some v else none
  | none => none

/-- A binary64 value as bits of a TYPE (R181): the bits, whether a NaN gave 0 with BAD, whether it counts. -/
def f64ToType (typ : Byte) (v : F64) : W64 × Bool × Bool :=
  if typ = 7 then (v, false, false)
  else if typ = 6 then
    match fdec fmt64 v.toNat with
    | .nan _ => (0x7FC00000, false, false)
    | _ =>
      let r := (fCvt fmt64 fmt32 v.toNat).1
      if r % 2 ^ 31 = fmt32.inf then (BitVec.ofNat 64 (r - 1), false, true) else (BitVec.ofNat 64 r, false, false)
  else if nanF v then (0, true, true)
  else if typ = 1 then (if eqF v 0 then 0 else 1, false, false)
  else
    let (lo, hi) := typeRange typ
    let (i, fl) := fToInt fmt64 .nearest lo hi v.toNat
    (typeBits typ (BitVec.ofInt 64 i), false, fl == flNV)

/-- A binary64 value stored into a point by its owner's publication (R181, then R515). -/
def pointStoreF (m p : Nat) (v : F64) (q : Nat) (s : State) : State :=
  let r := workPt s p
  let (b, bad, cnt) := f64ToType r.typ v
  if r.typ = 0 then count bCELL 2 s
  else pointWrite m p b (if bad then 2 else q) (countIf cnt bCELL 4 s)

/-- A staging entry is written by its owner: value and quality, or quality alone (R174). -/
def stageWrite (e : Nat) (v : Option W64) (q : Nat) (s : State) : State :=
  let g := tblGet s.pimg.staging e {}
  let g1 := match v with
    | some x => { g with value := typeBits (workPt s g.point).typ x, qual := BitVec.ofNat 8 q, isNew := true }
    | none => { g with qual := BitVec.ofNat 8 q }
  { s with pimg := { s.pimg with staging := tblPut s.pimg.staging e g1 {} } }

/-- A staged write of master `m`, under its windows (R65). -/
def stage (m e : Nat) (v : Option W64) (q : Nat) (s : State) : State :=
  guarded m (stageAddr e) 16 true (stageWrite e v q) s

/-- The staging entry of an INPUT point (R174). -/
def entryOf (s : State) (p : Nat) : Option Nat :=
  (List.range s.pimg.nstage).find? fun e => (tblGet s.pimg.staging e {}).point == p

/-- A staged write of master `m` for a point: value and quality, or quality alone. -/
def stagePoint (m p : Nat) (v : Option W64) (q : Nat) (s : State) : State :=
  match entryOf s p with
  | some e => stage m e v q s
  | none => s

/-- A binary64 value staged for a point (R181). -/
def stageF (m p : Nat) (v : F64) (q : Nat) (s : State) : State :=
  let (b, bad, cnt) := f64ToType (workPt s p).typ v
  stagePoint m p (some b) (if bad then 2 else q) (countIf cnt bCELL 4 s)

/-! ### Descriptors -/

def stOK : Nat := 0
def stPARTIAL : Nat := 1
def stDROPPED : Nat := 2
def stREFUSED : Nat := 3
def stTIMEOUT : Nat := 4
def stAUTH_FAIL : Nat := 5
def stSTRUCT_MISMATCH : Nat := 6
def stFROZEN : Nat := 7
def stNOT_READY : Nat := 8
def stRANGE : Nat := 9
def stBUSY : Nat := 10
def stLOCKED : Nat := 11
def stCAPACITY : Nat := 12

/-- The fields of a descriptor: common (Table 13-6) and by offset. -/
def dOp (d : HostDesc) : Nat := u8 d.bytes 0
def d8 (d : HostDesc) (o : Nat) : Nat := u8 d.bytes o
def d16 (d : HostDesc) (o : Nat) : Nat := u16 d.bytes o
def d32 (d : HostDesc) (o : Nat) : Nat := u32 d.bytes o
def d64 (d : HostDesc) (o : Nat) : Nat := u64 d.bytes o
def dAddr (d : HostDesc) : W64 := BitVec.ofNat 64 (d64 d 32)

def ringGet (s : State) (r : Nat) : Ring := tblGet s.hif.rings r {}
def ringPut (s : State) (r : Nat) (v : Ring) : State :=
  { s with hif := { s.hif with rings := tblPut s.hif.rings r v {} } }
def ringOn (s : State) (r : Nat) : Bool := s.hif.ringEn.getLsbD r

/-- The audit code of a command that completes OK (Table 16-5). -/
def auditCode (op : Nat) : Option Nat :=
  if op ∈ [0x02, 0x03, 0x04] then some 2
  else if op ∈ [0x12, 0x13] then some 3
  else if op ∈ [0x41, 0x51, 0x6C, 0x72, 0x73, 0x74] then some 4
  else if op = 0x6B then some 1
  else none

/-- The audit record of a command that completes OK (R456). -/
def auditDesc (d : HostDesc) (s : State) : State :=
  match d.signed with
  | some oc => audit 1 0xFFFF 2 oc.toNat d.bytes s
  | none =>
    match auditCode (dOp d) with
    | some 1 => audit 1 0xFFFF 2 (u64 d.buf 0x10) d.bytes s
    | some c => audit c (d16 d 4) 1 (d16 d 6) d.bytes s
    | none => s

/-- A started descriptor completes: its completion waits for a close point, in order of completion
(R380, R381). A completion of a descriptor started before a PCIe reset is discarded (R373). -/
def completeR (d : HostDesc) (st data : Nat) (ret : Option Nat) (s : State) : State :=
  let r := ringGet s d.ring
  let s1 := if st = stOK then auditDesc d s else s
  if r.started.contains d then
    let s2 := ringPut s1 d.ring { ringGet s1 d.ring with started := r.started.erase d }
    { s2 with hif := { s2.hif with waiting := s2.hif.waiting ++
        [{ ring := d.ring, sqidx := d.sqidx, tag := if d.signed.isSome then d.outerTag else BitVec.ofNat 16 (d16 d 2),
           opcode := if d.signed.isSome then 0x6A else BitVec.ofNat 8 (dOp d), status := BitVec.ofNat 8 st,
           data := BitVec.ofNat 64 data, unsol := false, src := 0, retire := ret }] } }
  else s1

def complete (d : HostDesc) (st data : Nat) (s : State) : State := completeR d st data none s

/-- A completion that a block's own check produces, counted in the block's counter for the listed statuses. -/
def finish (b n : Nat) (cl : List Nat) (d : HostDesc) (st data : Nat) (s : State) : State :=
  complete d st data (countIf (cl.contains st) b n s)

/-- An unsolicited completion that goes out in the first host slot which starts after now (R140). -/
def unsolicitedNext (ring src st data : Nat) (s : State) : State :=
  { s with hif := { s.hif with waiting := s.hif.waiting ++
      [{ ring := ring, sqidx := 0xFFFF, tag := 0, opcode := 0xFF, status := BitVec.ofNat 8 st,
         data := BitVec.ofNat 64 data, unsol := true, src := BitVec.ofNat 8 src, hold := s.hif.inSlot }] } }

/-- An unsolicited completion of a block (R382). -/
def unsolicited (ring src st data : Nat) (s : State) : State :=
  { s with hif := { s.hif with waiting := s.hif.waiting ++
      [{ ring := ring, sqidx := 0xFFFF, tag := 0, opcode := 0xFF, status := BitVec.ofNat 8 st,
         data := BitVec.ofNat 64 data, unsol := true, src := BitVec.ofNat 8 src }] } }

/-- The row of Table 13-8 of an opcode. -/
def classRow (op : Nat) : Nat :=
  if op < 0x10 then 0 else if op < 0x20 then 1 else if op < 0x30 then 2 else if op < 0x38 then 3
  else if op < 0x40 then 4 else if op < 0x50 then 5 else if op < 0x60 then 6 else if op < 0x68 then 7
  else if op < 0x70 then 8 else if op < 0x78 then 9 else if op < 0x80 then 10 else 11

/-- The bytes of bytes 16 to 63 that an opcode's fields take, as (offset, size). -/
def descFields (op : Nat) : List (Nat × Nat) :=
  match op with
  | 0x01 => [(16, 1), (20, 4), (24, 8), (32, 8)]
  | 0x02 => [(24, 8)]
  | 0x04 => [(16, 1)]
  | 0x10 => [(16, 1), (20, 4), (24, 4), (32, 8)]
  | 0x11 => [(20, 4), (24, 8)]
  | 0x12 => [(20, 4), (24, 8)]
  | 0x13 => [(16, 1), (17, 1)]
  | 0x14 => [(16, 1), (20, 2)]
  | 0x15 => [(16, 1), (20, 4), (24, 4), (32, 8)]
  | 0x20 => [(16, 1), (20, 4), (24, 8)]
  | 0x21 => [(16, 1), (17, 1), (20, 2), (24, 8)]
  | 0x22 => [(20, 2), (24, 8)]
  | 0x23 => [(16, 1), (17, 1), (20, 4), (24, 4), (28, 4), (32, 8)]
  | 0x24 => [(16, 1)]
  | 0x30 => [(20, 4), (24, 8)]
  | 0x31 => [(16, 1), (20, 4), (24, 4), (32, 8)]
  | 0x38 => [(16, 2), (18, 1), (19, 1), (24, 8)]
  | 0x39 => [(20, 4), (24, 8)]
  | 0x3A => [(16, 1), (17, 1), (18, 2), (20, 2), (22, 1), (24, 8)]
  | 0x3B => [(16, 1), (17, 1), (20, 4), (24, 4), (32, 8)]
  | 0x3C => [(16, 1), (17, 1), (24, 8)]
  | 0x40 => [(16, 1), (20, 4), (24, 4), (32, 8), (40, 8)]
  | 0x41 => [(16, 1), (17, 1), (24, 8)]
  | 0x42 => [(16, 1)]
  | 0x50 => [(16, 1), (20, 4), (24, 4), (32, 8)]
  | 0x51 => [(16, 2)]
  | 0x52 => [(16, 1)]
  | 0x58 => [(16, 1), (17, 1), (32, 8)]
  | 0x59 => [(16, 1), (17, 1)]
  | 0x60 => [(32, 8)]
  | 0x62 => [(32, 8)]
  | 0x63 => [(16, 1), (20, 4), (24, 4), (32, 8)]
  | 0x68 => [(16, 32), (48, 8)]
  | 0x69 => [(16, 1), (20, 4), (24, 4), (32, 8)]
  | 0x6A => [(32, 8)]
  | 0x6B => [(32, 8)]
  | 0x6C => [(16, 2)]
  | 0x6D => [(16, 1), (17, 1), (24, 8), (32, 32)]
  | 0x6E => [(16, 1), (24, 8)]
  | 0x6F => [(16, 1), (24, 4)]
  | 0x70 => [(16, 1), (32, 8)]
  | 0x71 => [(16, 1)]
  | 0x78 => [(16, 1), (20, 4), (32, 8), (40, 8)]
  | 0x79 => [(16, 1), (20, 4)]
  | 0x7C => [(32, 8)]
  | 0x7D => [(16, 2), (18, 2), (32, 8)]
  | 0x7E => [(16, 1)]
  | 0x80 => [(16, 8), (32, 8)]
  | 0x81 => [(16, 8), (24, 4)]
  | 0x82 => [(32, 8)]
  | _ => []

/-- Reserved bits: 7:1 of FLAGS (byte 1) and those of an opcode's own FLAGS (R383 item 4). -/
def reservedOk (d : HostDesc) : Bool :=
  let fs := descFields (dOp d)
  decide (d8 d 1 < 2) &&
  (List.range 48).all (fun i => byteAt d.bytes (16 + i) == 0 || fs.any fun f => decide (f.1 ≤ 16 + i) && decide (16 + i < f.1 + f.2)) &&
  !((dOp d) == 0x01 && decide (2 ≤ d8 d 16)) && !((dOp d) == 0x21 && decide (2 ≤ d8 d 17)) &&
  !((dOp d) == 0x38 && decide (2 ≤ d8 d 19)) && !((dOp d) == 0x63 && decide (16 ≤ d8 d 16))

/-- Opcodes that only an owner-signed record carries (Tables 14-7, 15-11, 16-7). -/
def ownerSigned (op : Nat) : Bool :=
  [0x42, 0x61, 0x6D, 0x6E, 0x6F, 0x71, 0x7A, 0x7B, 0x7E, 0x7F].contains op

/-- Opcodes that an operator session authorises (Tables 14-7, 15-11, 16-7, 17-6). -/
def operatorOp (op : Nat) : Bool :=
  [0x02, 0x03, 0x04, 0x11, 0x12, 0x13, 0x14, 0x20, 0x21, 0x22, 0x24, 0x30, 0x38, 0x39, 0x3A, 0x3C, 0x41, 0x43,
   0x51, 0x52, 0x59, 0x63, 0x6C, 0x72, 0x73, 0x74, 0x79, 0x7C, 0x7D, 0x80, 0x81, 0x82, 0x83].contains op

def sessGet (s : State) (k : Nat) : Sess := tblGet s.sec.sess k {}
def sessPut (s : State) (k : Nat) (v : Sess) : State :=
  { s with sec := { s.sec with sess := tblPut s.sec.sess k v {} } }

/-- The pool entry of a kind and REF, or the lowest free one (R404). -/
def poolEntry (kind : Byte) (ref : Nat) (s : State) : Option Nat :=
  let own := (List.range 1024).find? fun i => (sessGet s (1024 + i)).kind == kind && (sessGet s (1024 + i)).ref.toNat == ref
  (own.orElse fun _ => (List.range 1024).find? fun i => (sessGet s (1024 + i)).kind == 0).map (1024 + ·)

/-- A pool session that MC0 makes; none without a free entry. -/
def poolMake (kind : Byte) (ref : Nat) (key : Bytes) (s : State) : Option State :=
  (poolEntry kind ref s).map fun k => sessPut s k { kind := kind, st := 1, ref := BitVec.ofNat 16 ref, key := key }

/-- An operation under a pool session of a kind and REF, or a failure under it (Table 14-15). -/
def poolNote (kind : Byte) (ref : Nat) (ok : Bool) (s : State) : State :=
  match poolEntry kind ref s with
  | none => s
  | some k =>
    let e := sessGet s k
    if e.kind != kind then s
    else if ok then sessPut s k { e with uses := e.uses + 1 }
    else sessPut s k { e with fails := if e.fails = 0xFFFFFFFF then e.fails else e.fails + 1 }

/-- The sessions of a kind end. -/
def poolEnd (kind : Byte) (s : State) : State :=
  { s with sec := { s.sec with sess := s.sec.sess.filter fun kv => kv.2.kind != kind } }

/-- DEVUID of the factory identity (Table 16-6). -/
def devuid (s : State) : Bytes := mramRead 0x51000 8 s

/-- The outcome of the operator check (R405): accepted with the new LAST, failed, not fresh,
or refused for want of keys (R412). -/
inductive Auth where
  | ok (last : W64)
  | bad
  | stale
  | noKey
  deriving DecidableEq, Repr

/-- The freshness candidate of R405. -/
def authCand (last : W64) (fv : W16) : Nat :=
  let c := (last.toNat / 65536) * 65536 + fv.toNat
  if c ≤ last.toNat then c + 65536 else c

/-- The authorisation of an operator opcode by CTX, FV and AUTH (R405). -/
def authorise (s : State) (d : HostDesc) : Auth :=
  let k := d16 d 4
  let e := sessGet s k
  let cand := authCand e.last (BitVec.ofNat 16 (d16 d 6))
  let msg := [0x02] ++ devuid s ++ leBytes 8 cand ++ slice d.bytes 0 8 ++ zeros 8 ++ slice d.bytes 16 48
  if k < 1024 ∨ k ≥ 2048 ∨ e.kind ≠ 5 ∨ e.st ≠ 1 ∨ !(e.rights.getLsbD (classRow (dOp d))) then .bad
  else if s.sec.snuffed then .noKey
  else if (hmac256 e.key msg).take 8 ≠ slice d.bytes 8 8 then .bad
  else if cand - e.last.toNat > 2 ^ 15 then .stale
  else .ok (BitVec.ofNat 64 cand)

/-- The authorised session takes its new LAST, consumed even if a later check fails (R405). -/
def authTake (d : HostDesc) (last : W64) (s : State) : State :=
  let e := sessGet s (d16 d 4)
  sessPut s (d16 d 4) { e with last := last, uses := e.uses + 1 }

/-- Opcodes that a STANDBY or FENCED unit refuses (R416). -/
def roleBarred (op : Nat) : Bool :=
  [0x11, 0x12, 0x13, 0x14, 0x20, 0x21, 0x22, 0x24, 0x30, 0x38, 0x39, 0x3A, 0x3C, 0x51, 0x52].contains op

/-- The master that carries a descriptor out, where it is one master for the opcode (R385). -/
def carrier (op : Nat) : Option Nat :=
  match classRow op with
  | 2 => some 15
  | 3 => some 16
  | 4 => if op = 0x3C then some 14 else none
  | 5 => some 21
  | 6 => if op = 0x58 ∨ op = 0x59 then some 20 else none
  | 9 => some 22
  | 10 => some 23
  | 11 => some 24
  | _ => none

/-- Opcodes that read the host buffer that they name (R384). -/
def readsHost (op : Nat) : Bool :=
  [0x01, 0x11, 0x12, 0x20, 0x30, 0x39, 0x3A, 0x41, 0x6A, 0x6B, 0x6D, 0x7C, 0x7D, 0x80, 0x82].contains op

/-- The boot timeline takes rows 0, 8 and 10 only (R499). -/
def bootBarred (s : State) (op : Nat) : Bool := !s.sched.run && !([0, 8, 10].contains (classRow op))

/-- The checks of a started descriptor after its authorisation: role and boot, reserved bits, the
carrying master, the host-memory read, and then its own effect. -/
def runChecked (eff : HostDesc → State → State) (d : HostDesc) (s : State) : State :=
  if roleBarred (dOp d) && !(enginesRun s) then complete d stNOT_READY 0 (count bPAIR 10 s)
  else if bootBarred s (dOp d) then complete d stNOT_READY 0 s
  else if !reservedOk d then complete d stRANGE 0 (count bHIF 2 s)
  else if (match carrier (dOp d) with | some m => frozenM s m | none => false) then complete d stFROZEN 0 s
  else if readsHost (dOp d) && d.readFail then complete d stDROPPED 0 (count bHIF 5 s)
  else eff d s

/-- The common checks of a started descriptor in the order of R383. An inner descriptor of an
owner-signed record passes item 3 by its record (R402). -/
def runDesc (eff : HostDesc → State → State) (d : HostDesc) (s : State) : State :=
  if !((ringGet s d.ring).classMask.getLsbD (classRow (dOp d))) then complete d stREFUSED 0 (count bHIF 3 s)
  else if d.signed.isSome then runChecked eff d s
  else if ownerSigned (dOp d) then complete d stAUTH_FAIL 0 (count bSEC 0 s)
  else if operatorOp (dOp d) then
    match authorise s d with
    | .ok last => runChecked eff d (authTake d last s)
    | .bad => complete d stAUTH_FAIL 0 (count bSEC 0 s)
    | .stale => complete d stAUTH_FAIL 0 (count bSEC 2 s)
    | .noKey => complete d stAUTH_FAIL 0 (count bSEC 8 s)
  else runChecked eff d s

/-- Completion entries of a ring that are free and that no started descriptor holds (R381). -/
def credits (s : State) (r : Nat) : Nat :=
  let g := ringGet s r
  2 ^ g.cqLog.toNat - g.unread - g.started.length - (s.hif.waiting.filter fun c => c.ring == r && !c.unsol).length

def startedAll (s : State) : Nat := (s.hif.rings.map fun p => p.2.started.length).sum

/-- The start limits of R381: a credit, fewer than 32 of the ring and 256 in all, and FENCE. -/
def canStart (s : State) (d : HostDesc) : Bool :=
  let g := ringGet s d.ring
  decide (0 < credits s d.ring) && decide (g.started.length < 32) && decide (startedAll s < 256) &&
  (!bit (d8 d 1) 0 || g.started.isEmpty)

/-- A descriptor is started: it holds its credit, and its checks and effect run. -/
def startDesc (eff : HostDesc → State → State) (d : HostDesc) (s : State) : State :=
  runDesc eff d (ringPut s d.ring { ringGet s d.ring with started := (ringGet s d.ring).started ++ [d] })

/-- A descriptor waits in the start queue of its ring. -/
def queueDesc (d : HostDesc) (s : State) : State :=
  ringPut s d.ring { ringGet s d.ring with queue := (ringGet s d.ring).queue ++ [d] }

/-- A fetched descriptor reaches its turn: it starts, or it waits behind the earlier ones of its ring. -/
def arrive (eff : HostDesc → State → State) (d : HostDesc) (s : State) : State :=
  if (ringGet s d.ring).queue.isEmpty && canStart s d then startDesc eff d s else queueDesc d s

/-- HIF may issue requests to host memory: from a host slot's start to its close point, with Bus Master Enable and
outside D3hot (R372, R380). -/
def slotOpen (s : State) : Bool := s.hif.inSlot && !s.hif.closed && s.hif.bme && !s.hif.d3

/-- An effect of a started descriptor on shared memory: HIF reaches it in a host slot, this one or the next (R19). -/
def inHostSlot (d : HostDesc) (eff : State → State) (s : State) : State :=
  if s.hif.inSlot && !s.hif.closed then eff s else { s with hif := { s.hif with todo := s.hif.todo ++ [d] } }

/-- HIF copies on in its host slot, and `fin` ends the copy. Whether it reaches the last record in this slot is a free
value, but for a copy of one record. -/
def copyTry (fin : CopyRun → State → State) (one : Bool) (r : CopyRun) (s : State) : State :=
  if !slotOpen s then { s with hif := { s.hif with copies := s.hif.copies ++ [r] } }
  else
    let c := { r with begun := true }
    if one then fin c s
    else
      let w := freeWord s
      if w.1.getLsbD 0 then fin c w.2
      else { w.2 with hif := { w.2.hif with copies := w.2.hif.copies ++ [c] } }

/-- Copies that an event overtakes. -/
def spoil (which : CopyRun → Bool) (s : State) : State :=
  { s with hif := { s.hif with copies := s.hif.copies.map fun r => if which r then { r with spoiled := true } else r } }

/-- Bytes that HIF writes to host memory: in a host slot, or in the next one. -/
def toHost (addr : W64) (b : Bytes) (s : State) : State :=
  if slotOpen s then emit (.hostWrite addr b) s
  else { s with hif := { s.hif with writes := s.hif.writes ++ [(addr, b)] } }

end Sys2Proof.Machine
end

