-- ==== Sys2Proof/Machine/Loops.lean ====
section
/-! DEFINITION. LOOP_0 to LOOP_3: sampling, PID, cascades, the profile generator, following-error
supervision, traces and the loop descriptors (08_loops_and_axes.md). -/

namespace Sys2Proof.Machine

def lpGet (s : State) (e : Nat) : LoopEng := tblGet s.loops.eng e {}
def lpPut (s : State) (e : Nat) (v : LoopEng) : State :=
  { s with loops := { s.loops with eng := tblPut s.loops.eng e v {} } }
def lstGet (s : State) (e i : Nat) : LoopSt := tblGet (lpGet s e).st i {}
def lstPut (s : State) (e i : Nat) (v : LoopSt) : State :=
  let g := lpGet s e
  lpPut s e { g with st := tblPut g.st i v {} }
def lcfg (s : State) (e i : Nat) : LoopCfg := (lpGet s e).cfgs.getD i {}
def nloop (s : State) (e : Nat) : Nat := (lpGet s e).cfgs.length

/-- T_occ (R230). -/
def tOcc (n : Nat) : Nat := 128 + 160 * n

def noPoint : Nat := 0xFFFFFFFF

def fzero : F64 := 0
def fhalf (x : F64) : F64 := divF x (ofNatF 2)
def clampF (lo hi x : F64) : F64 := minF (maxF x lo) hi
def sqF (x : F64) : F64 := mulF x x
def cubeF (x : F64) : F64 := mulF (mulF x x) x

/-! ### The profile generator (R238) -/

/-- Distance to rest along the motion. -/
def dstop (am jm vd ad : F64) : F64 :=
  let v0 := addF vd (divF (sqF ad) (mulF (ofNatF 2) jm))
  let d1 := if leF (divF (sqF am) jm) v0 then divF (mulF v0 (addF (divF v0 am) (divF am jm))) (ofNatF 2)
            else mulF v0 (sqrtF (divF v0 jm))
  addF (addF d1 (divF (mulF vd ad) jm)) (divF (cubeF ad) (mulF (ofNatF 3) (sqF jm)))

/-- The direction of motion: of v, or towards the target. -/
def profDir (q : Prof) (tg : F64) : Bool :=
  if eqF q.v fzero then leF fzero (subF tg q.p) else ltF fzero q.v

def signed (dir : Bool) (x : F64) : F64 := if dir then x else negF x

/-- The profile is within one step of rest at the target. -/
def profSettled (jm h : F64) (q : Prof) (tg : F64) : Bool :=
  leF (absF (subF tg q.p)) (mulF jm (cubeF h)) && leF (absF q.v) (mulF jm (sqF h)) && leF (absF q.a) (mulF jm h)

/-- One step of the generator towards `tg` under the limits vm, am and jm. -/
def profStep (vm am jm h : F64) (q : Prof) (tg : F64) : Prof :=
  if profSettled jm h q tg then { p := tg, v := 0, a := 0 }
  else
    let dir := profDir q tg
    let vd := signed dir q.v
    let ad := signed dir q.a
    let ed := signed dir (subF tg q.p)
    let back := divF (sqF ad) (mulF (ofNatF 2) jm)
    let goal :=
      if leF ed (addF (dstop am jm vd ad) (mulF vd h)) then
        (if ltF ad fzero && leF vd back then fzero else negF am)
      else if ltF vm vd then negF am
      else if ltF (addF vd (divF (mulF ad (absF ad)) (mulF (ofNatF 2) jm))) vm then am
      else fzero
    let jh := mulF jm h
    let an0 := clampF (negF am) am (addF ad (clampF (negF jh) jh (subF goal ad)))
    let vn0 := addF vd (fhalf (mulF (addF ad an0) h))
    let vn := if ltF vn0 fzero then fzero else vn0
    let an := if ltF vn0 fzero then fzero else an0
    { p := addF q.p (fhalf (mulF (signed dir (addF vd vn)) h)), v := signed dir vn, a := signed dir an }

/-! ### Reading points -/

/-- Points that a loop reads. -/
def loopPoints (c : LoopCfg) : List Nat :=
  [c.mpt, c.sppt, c.ffpt, c.trkpt, c.modept].filter fun p => p != noPoint

/-- The usable value of a point of the input view. -/
def inPt (s : State) (p : Nat) : Option F64 := usableF (frozenPt s p)

/-- FLAGS of Table 8-3. -/
def lREV (c : LoopCfg) : Bool := c.flags.getLsbD 0
def lDMEAS (c : LoopCfg) : Bool := c.flags.getLsbD 1
def lPROF (c : LoopCfg) : Bool := c.flags.getLsbD 2
def lSPTRK (c : LoopCfg) : Bool := c.flags.getLsbD 3
def lCASC (c : LoopCfg) : Bool := c.flags.getLsbD 4
def lFEHOLD (c : LoopCfg) : Bool := c.flags.getLsbD 5

/-- Ts in seconds (R231). -/
def loopTs (s : State) (c : LoopCfg) : F64 := ofRatioF (c.div * s.sched.frameL.toNat : Nat) (10 ^ 9)

/-- A loop is due in this minor frame (R231). -/
def loopDue (s : State) (c : LoopCfg) : Bool := decide (s.sched.mfn.toNat % max 1 c.div = c.lph)

/-- The inner loop of an outer loop. -/
def innerOf (s : State) (e i : Nat) : Option Nat :=
  firstIdx (fun c => lCASC c && c.outer == i) (lpGet s e).cfgs 0

/-! ### Descriptors that take effect at a sample -/

def loopCounted : List Nat := [stRANGE, stNOT_READY, stBUSY, stLOCKED]
def finLoop (d : HostDesc) (st data : Nat) (s : State) : State := finish bLOOP 4 loopCounted d st data s

/-- One field of LOOP_PARAM (R244): the binary64 fields of Table 8-3 in order, then FECNT. -/
def setParam (c : LoopCfg) (f : Nat) (v : F64) : LoopCfg :=
  match f with
  | 1 => { c with kp := v }
  | 2 => { c with ki := v }
  | 3 => { c with kd := v }
  | 4 => { c with tf := v }
  | 5 => { c with umin := v }
  | 6 => { c with umax := v }
  | 7 => { c with vmax := v }
  | 8 => { c with amax := v }
  | 9 => { c with jmax := v }
  | 10 => { c with felim := v }
  | 11 => { c with uman := v }
  | 12 => { c with spfix := v }
  | 13 => { c with fecnt := (toIntF 0 65536 v).toNat }
  | _ => c

/-- The fields of LOOP_PARAM that a fault of R241 in the values of a loop involves. -/
def faultFields (c : LoopCfg) : List Nat :=
  let neg := fun (v : F64) => !finF v || ltF v fzero
  let lim := fun (v : F64) => neg v || (lPROF c && eqF v fzero)
  ([(2, neg c.ki), (3, neg c.kd), (4, neg c.tf), (10, neg c.felim), (7, lim c.vmax), (8, lim c.amax), (9, lim c.jmax),
    (5, !ltF c.umin c.umax), (6, !ltF c.umin c.umax), (13, c.fecnt == 0 || decide (65535 < c.fecnt))].filter (·.2)).map (·.1)

def putCfg (s : State) (e i : Nat) (c : LoopCfg) : State :=
  let g := lpGet s e
  lpPut s e { g with cfgs := g.cfgs.set i c }

/-- The pairs of waiting descriptors for loop g are taken together, and a descriptor with none left completes. -/
def takeParams (g : Nat) (s : State) : State :=
  let mine := (s.loops.params.map fun b => b.pairs.filter fun q => q.loop == g).flatten
  let e := g / 128
  let i := g % 128
  let s1 := if mine.isEmpty then s else putCfg s e i (mine.foldl (fun c q => setParam c q.field q.value) (lcfg s e i))
  let left := s1.loops.params.map fun b => { b with pairs := b.pairs.filter fun q => q.loop != g }
  let s2 := { s1 with loops := { s1.loops with params := left.filter fun b => !b.pairs.isEmpty } }
  (left.filter fun b => b.pairs.isEmpty).foldl (fun t b => finLoop b.desc stOK 0 t) s2

/-- The mode of a due sample, with UMAN as a LOOP_MODE or FEHOLD sets it (R235, R236, R239). -/
def nextMode (s : State) (c : LoopCfg) (x : LoopSt) : BitVec 2 × LoopCfg :=
  let auto := fun (m : BitVec 2) => if x.mode = 2 ∧ m = 1 then { c with uman := x.u } else c
  if c.modept ≠ noPoint then
    let r := frozenPt s c.modept
    let v := sint 32 r.value.toNat
    if usableQ r && r.typ == 2 && decide (0 ≤ v) && decide (v ≤ 3) then
      (BitVec.ofInt 2 v, auto (BitVec.ofInt 2 v))
    else if x.feMan then (1, { c with uman := x.u }) else (x.mode, c)
  else match x.req with
    | some d =>
      let m := BitVec.ofNat 2 (d8 d 18)
      let c1 := auto m
      (m, if bit (d8 d 19) 0 then { c1 with uman := BitVec.ofNat 64 (d64 d 24) } else c1)
    | none => if x.feMan then (1, { c with uman := x.u }) else (x.mode, c)

/-- The mode of a due sample takes effect, and its LOOP_MODE completes (R243). -/
def takeMode (e i : Nat) (s : State) : State :=
  let c := lcfg s e i
  let x := lstGet s e i
  let (m, c1) := nextMode s c x
  let s1 := lstPut (putCfg s e i c1) e i
    { x with mode := m, first := x.first || (x.mode == 0 && m != 0), req := none, feMan := false }
  match x.req with
  | some d => finLoop d stOK s.sched.mfn.toNat s1
  | none => s1

/-! ### One sample -/

/-- Writes of an engine through its windows. -/
def writeOut (m p : Nat) (v : F64) (q : Nat) (s : State) : State :=
  guarded m (viewOut p) 16 true (pointStoreF m p v q) s

/-- The target, the feed-forward and the track value with the last usable ones, and whether a point was unusable. -/
structure LoopIn where
  wt : F64
  ff : F64
  trk : F64
  spLast : Option F64
  ffLast : F64
  trkLast : Option F64
  bad : Bool

def loopInputs (s : State) (e : Nat) (c : LoopCfg) (x : LoopSt) : LoopIn :=
  let sp := if lCASC c ∨ c.sppt = noPoint then none else some (inPt s c.sppt)
  let ff := if c.ffpt = noPoint then none else some (inPt s c.ffpt)
  let tr := if c.trkpt = noPoint then none else some (inPt s c.trkpt)
  let wt := if lCASC c then (lstGet s e c.outer).u
    else match sp with
      | none => c.spfix
      | some (some v) => v
      | some none => x.spLast.getD c.spfix
  let ffv := match ff with
    | none => 0
    | some (some v) => v
    | some none => x.ffLast
  let trv := match tr with
    | none => x.u
    | some (some v) => v
    | some none => x.trkLast.getD x.u
  { wt := wt, ff := ffv, trk := trv,
    spLast := match sp with | some (some v) => some v | _ => x.spLast,
    ffLast := ffv, trkLast := match tr with | some (some v) => some v | _ => x.trkLast,
    bad := sp == some none || ff == some none || tr == some none }

/-- In MAN or TRACK under SPTRK the set-point target and the profile follow y (R236). -/
def spTracks (c : LoopCfg) (x : LoopSt) : Bool := lSPTRK c && (x.mode == 1 || x.mode == 3)

/-- What a hold sample leaves of a loop's state: I, D, XPREV and the following-error count stay; the last usable values are taken and the
generator makes the step of a due sample (R234, R238), unless its values are not finite. -/
def holdState (s : State) (c : LoopCfg) (x : LoopSt) (n : LoopIn) : LoopSt :=
  let x1 := { x with hold := true, spLast := n.spLast, ffLast := n.ffLast, trkLast := n.trkLast }
  if spTracks c x then x1
  else
    let q0 : Prof := if x.inited then { p := x.p, v := x.v, a := x.a } else { p := n.wt }
    let q := profStep c.vmax c.amax c.jmax (loopTs s c) q0 n.wt
    if !lPROF c then { x1 with wt := n.wt, w := n.wt }
    else if [q.p, q.v, q.a].all finF then { x1 with p := q.p, v := q.v, a := q.a, inited := true, wt := n.wt, w := q.p }
    else x1

/-- A hold sample (R234): the output is written with its last value and SUBST. -/
def holdSample (e i : Nat) (n : LoopIn) (s : State) : State :=
  let x := lstGet s e i
  writeOut (10 + e) (lcfg s e i).opt x.u 4 (lstPut s e i (holdState s (lcfg s e i) x n))

/-- The set-point target of an inner loop now: y under SPTRK in MAN or TRACK, else the output of its outer loop (R236, R237). -/
def innerTarget (c : LoopCfg) (k : LoopSt) (u : F64) : F64 := if spTracks c k && k.inited then k.wt else u

/-- The outer loop tracks its inner loop (R237). -/
def innerForces (s : State) (e i : Nat) : Option F64 :=
  match innerOf s e i with
  | none => none
  | some k => let y := lstGet s e k
              if y.mode ≠ 2 ∨ y.hold then some (innerTarget (lcfg s e k) y (lstGet s e i).u) else none

/-- Integration of an outer loop is blocked by its inner loop's saturation (R233, R237). -/
def blocked (s : State) (e i : Nat) (di : F64) : Bool :=
  match innerOf s e i with
  | none => false
  | some k =>
    let y := lstGet s e k
    let rev := lREV (lcfg s e k)
    let up := ltF fzero di
    let dn := ltF di fzero
    (y.satHi && (if rev then dn else up)) || (y.satLo && (if rev then up else dn))

/-- The new state of a sample that computes, and whether every value is finite. DEDUCED (log entry 76): the target that SPTRK has set to
y is still in force in the first sample in AUTO, which so starts with e = 0 (R236). -/
def loopCompute (s : State) (e i : Nat) (c : LoopCfg) (x : LoopSt) (n : LoopIn) (y : F64) : LoopSt × Bool :=
  let ts := loopTs s c
  let wt := if spTracks c x || (x.spTrk && x.mode == 2) then y else n.wt
  let q0 : Prof := if spTracks c x then { p := y }
    else if !x.inited then { p := wt } else { p := x.p, v := x.v, a := x.a }
  let q := if lPROF c then (if spTracks c x then q0 else profStep c.vmax c.amax c.jmax ts q0 wt) else { q0 with p := wt }
  let w := if lPROF c then q.p else wt
  let sg := fun v => if lREV c then negF v else v
  let er := sg (subF w y)
  let xd := if lDMEAS c then negF (sg y) else er
  let xp := if x.first then xd else x.xprev
  let p := mulF c.kp er
  let d := divF (addF (mulF c.tf x.d) (mulF c.kd (subF xd xp))) (addF c.tf ts)
  let di0 := mulF (mulF c.ki ts) er
  let forced := if x.mode = 2 then innerForces s e i else none
  let raw0 := addF (addF (addF (addF p x.i) di0) d) n.ff
  let stop := (ltF c.umax raw0 && ltF fzero di0) || (ltF raw0 c.umin && ltF di0 fzero) || blocked s e i di0
  let di := if stop then fzero else di0
  let iAuto := addF x.i di
  let raw := addF (addF (addF p iAuto) d) n.ff
  let set := if x.mode = 1 then c.uman else if x.mode = 3 then n.trk else match forced with | some v => v | none => raw
  let auto := x.mode == 2 && forced.isNone
  let u := if x.mode = 2 ∧ forced.isSome then set else clampF c.umin c.umax set
  let iNew := if auto then iAuto else subF (subF (subF u p) d) n.ff
  let x1 := { x with i := iNew, d := d, xprev := xd, u := u, p := if lPROF c || lSPTRK c then q.p else x.p,
                     v := if lPROF c || lSPTRK c then q.v else x.v, a := if lPROF c || lSPTRK c then q.a else x.a,
                     first := false, hold := false, satHi := ltF c.umax set, satLo := ltF set c.umin,
                     tracking := forced.isSome, inited := true, spTrk := spTracks c x, y := y, w := w, wt := wt, e := er, pp := p,
                     spLast := n.spLast, ffLast := n.ffLast, trkLast := n.trkLast }
  let ok := [w, q.p, q.v, q.a, er, p, d, di0, raw0, iNew, raw, u].all finF
  (x1, ok)

/-- Following-error supervision after an AUTO sample (R239), with the persistence of R154. -/
def followErr (e i : Nat) (s : State) : State :=
  let c := lcfg s e i
  let x := lstGet s e i
  if x.mode ≠ 2 then s
  else
    let above := ltF c.felim (absF (subF x.w x.y))
    let cnt := if above != x.fe then x.feCnt.toNat + 1 else 0
    if cnt = c.fecnt then
      let rise := !x.fe
      let s1 := lstPut s e i { x with fe := rise, feCnt := 0, feMan := rise && lFEHOLD c }
      if rise then count bLOOP 2 { s1 with loops := { s1.loops with fechg := tblPut s1.loops.fechg (128 * e + i) true false } }
      else s1
    else lstPut s e i { x with feCnt := BitVec.ofNat 16 cnt }

/-- A due loop in a mode other than OFF. -/
def loopSample (e i : Nat) (s : State) : State :=
  let c := lcfg s e i
  let x := lstGet s e i
  match inPt s c.mpt with
  | none => count bLOOP 0 (countIf (loopInputs s e c x).bad bLOOP 1 (holdSample e i (loopInputs s e c x) s))
  | some y =>
    let n := loopInputs s e c x
    let (x1, ok) := loopCompute s e i c x n y
    let s1 := countIf n.bad bLOOP 1 s
    if ok then followErr e i (writeOut (10 + e) c.opt x1.u 0 (lstPut s1 e i x1))
    else count bLOOP 3 (holdSample e i n s1)

/-- One loop of an occurrence. -/
def loopTurn (e : Nat) (s : State) (i : Nat) : State :=
  let c := lcfg s e i
  if frozenM s (10 + e) || !(loopDue s c) then s
  else
    match (loopPoints c).find? fun p => !(inWindow s (10 + e) (viewIn p) 16 false) with
    | some p => freeze (10 + e) czWINDOW_R (viewIn p) (curSlot s (10 + e)) s
    | none =>
      let s1 := takeMode e i (takeParams (128 * e + i) s)
      if (lstGet s1 e i).mode = 0 then s1 else loopSample e i s1

/-! ### Traces (R240) -/

def traceSig (x : LoopSt) (k : Nat) : F64 :=
  match k with
  | 0 => x.y
  | 1 => x.w
  | 2 => x.wt
  | 3 => x.u
  | 4 => x.e
  | 5 => x.pp
  | 6 => x.i
  | _ => x.d

/-- The int16 value that a node stores. -/
def traceVal (nd : TraceNode) (v : F64) : W16 :=
  let r := mulF (subF v nd.offset) nd.gain
  if nanF r then BitVec.ofInt 16 (-32768) else BitVec.ofInt 16 (toIntF (-32767) 32767 r)

/-- A trigger: the samples still to take, and the trace stops at once when there are none. -/
def traceTrig (t : Trace) : Trace :=
  if t.st = 1 then { t with st := if 4096 - t.pre = 0 then 3 else 2, left := 4096 - t.pre } else t

/-- All 8 nodes sample together. -/
def traceSample (sts : Nat → LoopSt) (t : Trace) : Trace :=
  let b := t.nodes.zipIdx.foldl (fun b p =>
    tblPut b (4096 * p.2 + t.idx.toNat) (traceVal p.1 (traceSig (sts p.1.loop) p.1.sig)) 0) t.buf
  let t1 := { t with buf := b, idx := t.idx + 1, cnt := t.cnt + 1 }
  if t.st = 2 then { t1 with left := t.left - 1, st := if t.left ≤ 1 then 3 else 2 } else t1

/-- The trace after an occurrence in which the loops `due` have sampled: it samples in every TDIV-th one, then sees its trigger. -/
def traceOcc (due : Nat → Bool) (before after : LoopEng) (t : Trace) : Trace :=
  if t.st = 1 ∨ t.st = 2 then
    let t1 := { t with occ := t.occ + 1 }
    let t2 := if t1.occ % max 1 t.tdiv = 0 then traceSample (fun i => tblGet after.st i {}) t1 else t1
    let rise := t.nodes.any fun nd => (tblGet after.st nd.loop {}).fe && !(tblGet before.st nd.loop {}).fe
    let hold := t.nodes.any fun nd => due nd.loop && (tblGet after.st nd.loop {}).mode != 0 && (tblGet after.st nd.loop {}).hold
    if (t.tsrc = 1 ∧ rise) ∨ (t.tsrc = 2 ∧ hold) then traceTrig t2 else t2
  else t

/-- LOOP_OCCURRENCE (R230): the engine works through its loops in ascending index, then its trace
samples. The slots of a unit that does not run its engines pass idle (R415). -/
def execLoopOccurrence (e : Fin 4) (s : State) : Host.Outcome State Fault Refusal :=
  .next (
    if !inSlotOf s (10 + e) || !enginesRun s || !enOf s bLOOP || frozenM s (10 + e) then s
    else
      let s1 := (List.range (nloop s e)).foldl (loopTurn e) s
      let g := lpGet s1 e
      if frozenM s1 (10 + e) then s1 else lpPut s1 e { g with trace := traceOcc (fun i => loopDue s (lcfg s e i)) (lpGet s e) g g.trace })

/-! ### Descriptors -/

def loopExists (s : State) (g : Nat) : Bool := decide (g < 512) && decide (g % 128 < nloop s (g / 128))

/-- LOOP_MODE (R243): it waits for the loop's next due sample and replaces an earlier one. -/
def effLoopMode (d : HostDesc) (s : State) : State :=
  let g := d16 d 16
  let e := g / 128
  let i := g % 128
  if d8 d 18 > 3 ∨ g > 511 then finLoop d stRANGE 0 s
  else if !(loopExists s g) then finLoop d stNOT_READY 0 s
  else if (lcfg s e i).modept ≠ noPoint then finLoop d stLOCKED 0 s
  else
    let x := lstGet s e i
    let s1 := lstPut s e i { x with req := some d }
    match x.req with
    | some old => finLoop old stDROPPED 0 s1
    | none => s1

def loopPairs (d : HostDesc) : List LoopPair :=
  (List.range (d32 d 20)).map fun k =>
    { loop := u32 d.buf (16 * k), field := u8 d.buf (16 * k + 4), value := BitVec.ofNat 64 (u64 d.buf (16 * k + 8)) }

/-- The live values of a loop with every pair that waits for it. -/
def pendingCfg (s : State) (g : Nat) : LoopCfg :=
  ((s.loops.params.map fun b => b.pairs.filter fun q => q.loop == g).flatten).foldl
    (fun c q => setParam c q.field q.value) (lcfg s (g / 128) (g % 128))

/-- FECNT is a whole number from 1 to 65,535. -/
def fecntOk (v : F64) : Bool :=
  let i := toIntF 0 65536 v
  decide (1 ≤ i) && decide (i ≤ 65535) && eqF (ofIntF i) v

/-- A pair of LOOP_PARAM that is invalid by itself, or whose field is part of a fault that the loop's values would have with all pairs
(R244). -/
def loopPairBad (s : State) (all : List LoopPair) (q : LoopPair) : Bool :=
  !(loopExists s q.loop) || q.field == 0 || decide (13 < q.field) || nanF q.value ||
  (q.field == 13 && !(fecntOk q.value)) ||
  (faultFields ((all.filter fun r => r.loop == q.loop).foldl (fun c r => setParam c r.field r.value) (pendingCfg s q.loop))).contains q.field

/-- LOOP_PARAM (R244). -/
def effLoopParam (d : HostDesc) (s : State) : State :=
  let n := d32 d 20
  if n = 0 ∨ n > 1024 ∨ d64 d 24 % 16 ≠ 0 then finLoop d stRANGE 0 s
  else
    let ps := loopPairs d
    match (ps.find? fun q => decide (q.loop < 512) && !(loopExists s q.loop)) with
    | some _ => finLoop d stNOT_READY 0 s
    | none =>
      match firstIdx (loopPairBad s ps) ps 0 with
      | some k => finLoop d stRANGE k s
      | none => { s with loops := { s.loops with params := s.loops.params ++ [{ desc := d, pairs := ps }] } }

/-- The node records of LOOP_TRACE (R245). -/
def traceNodes (b : Bytes) : List TraceNode :=
  (List.range 8).map fun k =>
    { loop := u16 b (32 * k), sig := u8 b (32 * k + 2), offset := BitVec.ofNat 64 (u64 b (32 * k + 8)),
      gain := BitVec.ofNat 64 (u64 b (32 * k + 16)) }

/-- LOOP_TRACE (R245). -/
def effLoopTrace (d : HostDesc) (s : State) : State :=
  let e := d8 d 16
  let act := d8 d 17
  let nodes := traceNodes d.buf
  if e > 3 ∨ act > 2 then finLoop d stRANGE 0 s
  else if nloop s e = 0 then finLoop d stNOT_READY 0 s
  else
    let g := lpGet s e
    if act = 0 then finLoop d stOK 0 (lpPut s e { g with trace := { g.trace with st := 0 } })
    else if act = 2 then finLoop d stOK 0 (lpPut s e { g with trace := traceTrig g.trace })
    else if g.trace.st = 1 ∨ g.trace.st = 2 then finLoop d stBUSY 0 s
    else if d16 d 18 > 4095 ∨ d16 d 20 = 0 ∨ d8 d 22 > 2 ∨ nodes.any (fun n => decide (7 < n.sig)) then finLoop d stRANGE 0 s
    else if nodes.any (fun n => decide (nloop s e ≤ n.loop)) then finLoop d stNOT_READY 0 s
    else finLoop d stOK 0 (lpPut s e { g with trace :=
      { nodes := nodes, st := 1, pre := d16 d 18, tdiv := d16 d 20, tsrc := d8 d 22 } })

/-- The 192 bytes of a loop's configuration (Table 8-3), and the 64 bytes of its state (Table 8-4). -/
def loopCfgBytes (c : LoopCfg) : Bytes :=
  slice (leBytes 4 c.mpt ++ leBytes 4 c.sppt ++ leBytes 4 c.opt ++ leBytes 4 c.ffpt ++ leBytes 4 c.trkpt ++
    leBytes 4 c.modept ++ leBytes 4 c.div ++ leBytes 4 c.lph ++ [c.flags, BitVec.ofNat 8 c.outer,
    BitVec.ofNat 8 c.initMode.toNat, 0] ++ leBytes 4 c.fecnt ++
    ([c.kp, c.ki, c.kd, c.tf, c.umin, c.umax, c.vmax, c.amax, c.jmax, c.felim, c.uman, c.spfix].map
      fun v => leBytes 8 v.toNat).flatten) 0 192

def loopStBytes (x : LoopSt) : Bytes :=
  slice (([x.i, x.d, x.xprev, x.u, x.p, x.v, x.a].map fun v => leBytes 8 v.toNat).flatten ++
    [BitVec.ofNat 8 x.mode.toNat, BitVec.ofNat 8 (b2n x.first + 2 * b2n x.fe + 4 * b2n x.hold + 8 * b2n x.satHi +
      16 * b2n x.satLo + 32 * b2n x.tracking)] ++ leBytes 2 x.feCnt.toNat) 0 64

/-- Entry k of the samples that a stopped trace holds, oldest first. -/
def traceEntry (t : Trace) (node k : Nat) : W16 :=
  let n := min t.cnt 4096
  tblGet t.buf (4096 * node + (t.idx.toNat + 4096 - n + k) % 4096) 0

/-- LOOP_READ (R245). -/
def effLoopRead (d : HostDesc) (s : State) : State :=
  let what := d8 d 16
  let e := d8 d 17
  let f := d32 d 20
  let n := d32 d 24
  if what > 2 ∨ e > 3 then finLoop d stRANGE 0 s
  else if what = 2 then
    let t := (lpGet s e).trace
    if t.st = 1 ∨ t.st = 2 then finLoop d stBUSY 0 s
    else if f + n > min t.cnt 4096 then finLoop d stRANGE 0 s
    else finLoop d stOK 0 (toHost (dAddr d) ((List.range 8).map fun k =>
      ((List.range n).map fun j => leBytes 2 (traceEntry t k (f + j)).toNat).flatten).flatten s)
  else if f + n > 128 then finLoop d stRANGE 0 s
  else if f + n > nloop s e then finLoop d stNOT_READY 0 s
  else finLoop d stOK 0 (toHost (dAddr d) ((List.range n).map fun j =>
    if what = 0 then loopCfgBytes (lcfg s e (f + j)) else loopStBytes (lstGet s e (f + j))).flatten s)

def execLoopMode (d : HostDesc) (s : State) : Host.Outcome State Fault Refusal := .next (arrive effLoopMode d s)
def execLoopParam (d : HostDesc) (s : State) : Host.Outcome State Fault Refusal := .next (arrive effLoopParam d s)
def execLoopTrace (d : HostDesc) (s : State) : Host.Outcome State Fault Refusal := .next (arrive effLoopTrace d s)
def execLoopRead (d : HostDesc) (s : State) : Host.Outcome State Fault Refusal := .next (arrive effLoopRead d s)

end Sys2Proof.Machine
end

