-- ==== Sys2Proof/Machine/AxisOps.lean ====
section
/-! DEFINITION. AXIS: step generation, profiles and targets, groups, the driver link, retention and
AXIS_CMD (08_loops_and_axes.md). -/

namespace Sys2Proof.Machine

def axGet (s : State) (n : Nat) : Axis := tblGet s.axis.ax n {}
def axPut (s : State) (n : Nat) (v : Axis) : State := { s with axis := { s.axis with ax := tblPut s.axis.ax n v {} } }
def axCfg (s : State) (n : Nat) : AxisCfg := s.axis.cfg.getD n {}
def grpGet (s : State) (k : Nat) : AxGroup := tblGet s.axis.grp k {}
def grpPut (s : State) (k : Nat) (v : AxGroup) : State :=
  { s with axis := { s.axis with grp := tblPut s.axis.grp k v {} } }

/-- Enabled axes. -/
def axesOn (s : State) : List Nat := (List.range 16).filter fun n => (axCfg s n).en

/-- The group of an axis (R254). -/
def groupOf (s : State) (n : Nat) : Option Nat := firstIdx (fun g => g.mask.getLsbD n) s.axis.grpCfg 0
def membersOf (s : State) (k : Nat) : List Nat :=
  (axesOn s).filter fun n => (s.axis.grpCfg.getD k {}).mask.getLsbD n

/-- POS as a signed 64-bit value. -/
def posInt (a : Axis) : Int := a.pos.toInt
def pos64 (a : Axis) : W64 := BitVec.ofInt 64 a.pos.toInt

/-- A moving axis: its profile velocity or its VEL is not 0 (R256). -/
def axMoving (s : State) (n : Nat) : Bool := !eqF (axGet s n).prof.v 0 || (axGet s n).vel != 0

/-- The axis moves or is on its way: its profile, or that of its group's line, has not come to rest. -/
def axBusy (s : State) (n : Nat) : Bool :=
  axMoving s n || (axGet s n).moving ||
  (match groupOf s n with
   | some k => (grpGet s k).moving && (grpGet s k).line.any fun m => m.1 == n && m.2.2 != 0
   | none => false)

/-- STATE of Table 8-13. -/
def axState (s : State) (n : Nat) : Nat :=
  let a := axGet s n
  let stopping := a.stopTo.isSome || a.limiting ||
    (match groupOf s n with | some k => ((grpGet s k).stopTo.isSome && !(grpGet s k).again) || (grpGet s k).limiting | none => false)
  if a.fault then 4
  else if !a.pwr && a.sent then 5
  else if a.stopped then 3
  else if axBusy s n then (if stopping then 2 else 1)
  else 0

/-- Word 2 of AXIS.AX[n] (Table 8-13). -/
def axWord2 (s : State) (n : Nat) : Nat :=
  let a := axGet s n
  a.iref.toNat * 2 ^ 24 + a.load.toNat * 2 ^ 16 + b2n a.pwr * 2 ^ 15 + b2n a.drvFlt * 2 ^ 14 + b2n a.drvLost * 2 ^ 13 +
    b2n a.stall * 2 ^ 12 + b2n a.limitStop * 2 ^ 11 + b2n a.tgtLimit * 2 ^ 10 + b2n a.posLost * 2 ^ 9 + axState s n

/-! ### Steps (R246) -/

/-- One step in the direction of VEL: POS changes by 1 and the pulse leaves with its direction (R247). -/
def axStep (n : Nat) (s : State) : State :=
  let a := axGet s n
  if a.vel = 0 then s
  else
    let fwd := decide (0 < a.vel.toInt)
    let s1 := axPut s n { a with pos := if fwd then a.pos + 1 else a.pos - 1 }
    if drives s then emit (.step n (fwd != (axCfg s n).dirinv)) s1 else s1

/-- AXIS_STEP: a carry or borrow of ACC issues one step, unless AXIS is frozen (R67). -/
def execAxisStep (n : Fin 16) (s : State) : Host.Outcome State Fault Refusal :=
  .next (if frozenM s 14 then s else axStep n s)

/-- One cycle of an axis: ACC := ACC + VEL, and a step on its carry or borrow. -/
def axTick (s : State) (n : Nat) : State :=
  let a := axGet s n
  if a.vel = 0 then s
  else
    let acc := a.acc + a.vel
    let s1 := axPut s n { a with acc := acc }
    if (if 0 < a.vel.toInt then decide (acc.toNat < a.acc.toNat) else decide (a.acc.toNat < acc.toNat)) then axStep n s1 else s1

/-- The profile of an axis at rest stands at the actual position. -/
def axHere (a : Axis) : Axis := { a with org := pos64 a, prof := { p := ofRatioF a.acc.toNat (2 ^ 64) } }

/-! ### Retention (R257 to R259) -/

/-- The retention record of an axis is written. -/
def axRetain (n : Nat) (moving : Bool) (s : State) : State :=
  let a := axGet s n
  let b := leBytes 8 (pos64 a).toNat ++ [BitVec.ofNat 8 (b2n (!a.posLost) + 2 * b2n moving), 0, 0, 0]
  mramWrite (0x50000 + 16 * n) (b ++ leBytes 4 (crc32c b)) s

/-- The record as found: the position, and whether it is valid, at rest and with a good CRC. -/
def axRecord (s : State) (n : Nat) : W64 × Bool :=
  let b := mramRead (0x50000 + 16 * n) 16 s
  (BitVec.ofNat 64 (u64 b 0), crc32c (b.take 12) == u32 b 12 && bit (u8 b 8) 0 && !bit (u8 b 8) 1)

/-! ### Stops and faults -/

/-- The profile of an axis ends where it is: VEL := 0. -/
def axHalt (a : Axis) : Axis :=
  axHere { a with vel := 0, moving := false, limiting := false, stopTo := none }

/-- REM of an axis that stands (R252). -/
def remOf (a : Axis) : W64 := a.target - pos64 a

/-- REM of an axis whose profile has come to rest: the steps of the last slot are still to come. -/
def remRest (a : Axis) : W64 := a.target - a.org - BitVec.ofInt 64 (fToInt fmt64 .down (-2 ^ 63) (2 ^ 63 - 1) a.prof.p.toNat).1

/-- A group ends its line where it is. -/
def grpHalt (k : Nat) (s : State) : State :=
  grpPut s k { grpGet s k with moving := false, stopTo := none, limiting := false, again := false, prof := {} }

/-- A cause that stops the steps at once and leaves FAULT: it acts on every member of the axis's group (R254, R256). -/
def axFault (n : Nat) (f : Axis → Axis) (s : State) : State :=
  let one := fun t m =>
    let a := axHalt (axGet t m)
    axPut t m (f { a with fault := true, stopped := false, rem := remOf a })
  match groupOf s n with
  | none => one s n
  | some k => (membersOf s k).foldl one (grpHalt k s)

/-! ### Status of the driver stage (R255, R258, R259) -/

/-- DRIVER_STATUS (R255): the status frame is valid when in time with a good CRC; otherwise it is counted. -/
def execDriverStatus (n : Fin 16) (inTime : Bool) (load status seq crc : Byte) (s : State) :
    Host.Outcome State Fault Refusal :=
  .next (
    if inTime && crcL 7 8 0 [load, status, seq] == crc.toNat then axPut s n { axGet s n with got := some (load, status) }
    else s)

/-- A missed status: after three in a row the driver link is lost. -/
def axMissed (n : Nat) (s : State) : State :=
  let a := axGet s n
  let s1 := count bAXIS 0 (axPut s n { a with missed := a.missed + 1 })
  if a.missed + 1 = 3 then
    let mv := axMoving s n
    axFault n (fun b => { b with posLost := b.posLost || mv })
      (axPut s1 n { axGet s1 n with drvLost := true })
  else s1

/-- Power returns: the position is kept only with a valid record at rest and no motion reported (R259). What start-up found lost is
counted already (R31). -/
def axPowered (n : Nat) (s : State) : State :=
  let a := axGet s n
  if (axRecord s n).2 && !a.mov then axPut s n { a with lostStart := false }
  else countIf (!a.lostStart) bAXIS 4 (axPut s n { a with posLost := true, lostStart := false })

/-- Start-up (R259): the position comes from the record, and the target is the position found. -/
def axRestore (s : State) (n : Nat) : State :=
  let (p, ok) := axRecord s n
  let a := axHere { axGet s n with pos := p.truncate 48, acc := 0 }
  countIf (!ok) bAXIS 4 (axPut s n { a with posLost := a.posLost || !ok, lostStart := !ok, target := pos64 a, taken := pos64 a })

/-- Power falls: the steps stop at once, and the record says whether the axis moved (R258). -/
def axUnpowered (n : Nat) (s : State) : State :=
  let mv := axMoving s n
  let a := axHalt (axGet s n)
  let s1 := match groupOf s n with
    | some k => let g := grpGet s k; grpPut (grpHalt k s) k { grpGet (grpHalt k s) k with want := g.moving || g.want }
    | none => s
  axRetain n mv (axPut s1 n { a with posLost := a.posLost || mv })

/-- A valid status comes into force. -/
def axStatus (n : Nat) (load st : Byte) (s : State) : State :=
  let a := axGet s n
  let a1 := { a with load := load, pwr := st.getLsbD 0, mov := st.getLsbD 1, ot := st.getLsbD 2, flt := st.getLsbD 3,
                     missed := 0 }
  let s1 := axPut s n a1
  let s2 := if a1.pwr && !a.pwr then axPowered n s1 else if a.pwr && !a1.pwr then axUnpowered n s1 else s1
  if (a1.ot || a1.flt) && !a.drvFlt then
    count bAXIS 1 (axFault n (fun b => { b with drvFlt := true, posLost := true }) s2)
  else s2

/-- The status of the last slot is used in this one (R255). -/
def axTakeStatus (s : State) (n : Nat) : State :=
  let a := axGet s n
  let s1 := axPut s n { a with got := none }
  match a.got with
  | some (l, st) => axStatus n l st s1
  | none => if a.sent then axMissed n s1 else s1

/-! ### Moves -/

/-- A move to the kept target starts from the actual position (R249). -/
def axGo (a : Axis) : Axis :=
  { axHere a with moving := true, stopped := false, stopTo := none }

/-- The profile stands at the kept target. -/
def atTarget (a : Axis) : Bool := eqF a.prof.p (ofIntF (a.target.toInt - a.org.toInt))

/-- The stop point of a profile: p + dir × dstop. -/
def stopPoint (am jm : F64) (q : Prof) : F64 :=
  let dir := leF fzero q.v
  addF q.p (signed dir (dstop am jm (signed dir q.v) (signed dir q.a)))

/-- The limits of a group's line (R254): the least of limit × D / |Δ| over the members that move. -/
def grpLimit (s : State) (g : AxGroup) (f : AxisCfg → F64) : F64 :=
  let vs := g.line.filterMap fun m =>
    if m.2.2 = 0 then none else some (divF (mulF (f (axCfg s m.1)) (ofNatF g.dist)) (ofNatF m.2.2.natAbs))
  match vs with
  | [] => 0
  | v :: r => r.foldl minF v

/-- STOP of an axis (R252): a moving one is targeted at its stop point, one at rest is STOPPED. -/
def axStopOne (n : Nat) (s : State) : State :=
  let a := axGet s n
  let c := axCfg s n
  if a.fault || a.stopped then s
  else if a.moving then
    if a.stopTo.isSome || a.limiting then s
    else axPut s n { a with stopTo := some (stopPoint c.amax c.jmax a.prof) }
  else axPut s n { a with stopped := true, rem := if a.vel = 0 then remOf a else remRest a }

/-- STOP of a group along its line. -/
def grpStop (k : Nat) (s : State) : State :=
  let g := grpGet s k
  if g.moving then
    if g.limiting then s
    else grpPut s k { g with again := false, want := false, stopTo := some (match g.stopTo with
      | some x => x
      | none => stopPoint (grpLimit s g (·.amax)) (grpLimit s g (·.jmax)) g.prof) }
  else (membersOf s k).foldl (fun t m =>
    let a := axGet t m
    if a.fault || a.stopped then t else axPut t m { a with stopped := true, rem := if a.vel = 0 then remOf a else remRest a })
    (grpPut s k { g with want := false })

def axStop (n : Nat) (s : State) : State :=
  match groupOf s n with
  | none => axStopOne n s
  | some k => grpStop k s

/-- A line of a group from the members' positions to their targets. -/
def grpGo (k : Nat) (s : State) : State :=
  let ms := membersOf s k
  let line := ms.map fun m => (m, posInt (axGet s m), (axGet s m).target.toInt - posInt (axGet s m))
  let dist := (line.map fun l => l.2.2.natAbs).foldl max 0
  let s1 := ms.foldl (fun t m => axPut t m { axGet t m with stopped := false }) s
  grpPut s1 k { grpGet s1 k with line := line, dist := dist, prof := {}, moving := decide (0 < dist), stopTo := none,
                                 limiting := false, again := false, want := false }

/-- STOPPT of an axis is TRUE and usable. -/
def stopPt (s : State) (n : Nat) : Bool :=
  let p := (axCfg s n).stoppt
  p != noPoint && (let r := readPt s 14 true p; r.typ == 1 && usableQ r && r.value == 1)

/-- RESUME of a group (R252, R254): no member has a stop outstanding or a fault. A group that brakes goes on along its line, or on to
a new line where its members' targets have changed. -/
def grpResume (k : Nat) (s : State) : State :=
  let g := grpGet s k
  let ms := membersOf s k
  if ms.any fun m => (axGet s m).stopCmd || (axGet s m).fault || stopPt s m then s
  else if g.moving then
    if g.limiting || g.stopTo.isNone then s
    else if g.line.all fun m => (axGet s m.1).target.toInt == m.2.1 + m.2.2 then grpPut s k { g with stopTo := none, again := false }
    else grpPut s k { g with again := true }
  else if ms.any fun m => (axGet s m).stopped then
    let s1 := ms.foldl (fun t m => axPut t m { axGet t m with stopped := false }) s
    grpPut s1 k { grpGet s1 k with want := true }
  else s

/-- RESUME of an axis: on to the kept target, also while it still brakes; without power it waits for it (R252, R258). -/
def axResume (n : Nat) (s : State) : State :=
  match groupOf s n with
  | some k => grpResume k s
  | none =>
    let a := axGet s n
    if a.moving && a.stopTo.isSome then axPut s n { a with stopTo := none, drainStop := false }
    else if a.stopped then
      axPut s n (if a.target = pos64 a ∨ !a.pwr then { a with stopped := false } else axGo a)
    else s

/-! ### AXIS_CMD (R252, R256, R259, R260) -/

def finAxis (d : HostDesc) (st data : Nat) (s : State) : State := finish bAXIS 5 [stRANGE, stNOT_READY, stBUSY] d st data s

/-- A member that rests on its group's line rests at its new position. -/
def grpHere (n : Nat) (s : State) : State :=
  match groupOf s n with
  | none => s
  | some k =>
    let g := grpGet s k
    grpPut s k { g with line := g.line.map fun m => if m.1 = n then (n, posInt (axGet s n), m.2.2) else m }

def axCmd (n : Nat) (s : State) (d : HostDesc) : State :=
  let a := axGet s n
  match d8 d 17 with
  | 0 => finAxis d stOK 0 (axStop n (axPut s n { a with stopCmd := true }))
  | 1 =>
    if stopPt s n then finAxis d stOK 0 s
    else finAxis d stOK 0 (axResume n (axPut s n { a with stopCmd := false }))
  | 2 =>
    if axBusy s n then finAxis d stBUSY 0 s
    else
      let p : W64 := BitVec.ofNat 64 (d64 d 24)
      let a1 := axHere { a with pos := p.truncate 48, acc := 0, posLost := false }
      finAxis d stOK 0 (grpHere n (axPut s n
        (if a.stopped then { a1 with rem := remOf a1 } else { a1 with target := pos64 a1 })))
  | _ =>
    if !a.fault then finAxis d stOK 0 s
    else if a.ot || a.flt || decide (3 ≤ a.missed) || axBusy s n then finAxis d stBUSY 0 s
    else finAxis d stOK 0 (axPut s n { a with fault := false, stopped := true, drvFlt := false, drvLost := false,
                                              stall := false, limitStop := false, stallCnt := 0 })

/-- Waiting commands, then STOPPT and the stop of a drained engine (R252, R253). -/
def axCommands (s : State) (n : Nat) : State :=
  let a := axGet s n
  let sp := stopPt s n
  let s1 := a.cmds.foldl (axCmd n) (axPut s n { a with cmds := [], stopWas := sp })
  let b := axGet s1 n
  let drain := !(enOf s1 bAXIS) && axBusy s1 n
  if drain then axStop n (axPut s1 n { b with drainStop := true, stopCmd := true })
  else if sp then axStop n s1
  else if a.stopWas && !b.stopCmd && enOf s1 bAXIS then axResume n s1
  else s1

/-! ### Targets (R250, R254) -/

/-- The target point of an axis: its value, and whether the axis may take it. -/
def tgtRead (s : State) (n : Nat) : W64 × Bool :=
  let c := axCfg s n
  let r := readPt s 14 true c.tgtpt
  (r.value, usableQ r && decide (c.slmin.toInt ≤ r.value.toInt) && decide (r.value.toInt ≤ c.slmax.toInt))

/-- A refused target is counted once for a changed value. -/
def tgtRefuse (n : Nat) (v : W64) (s : State) : State :=
  let a := axGet s n
  if a.refusedT = some v then s
  else count bAXIS 3 (axPut s n { a with refusedT := some v, tgtLimit := true })

/-- A target is taken: it moves an axis that may move, and replaces the kept target of one that stops or is stopped. -/
def tgtTake (n : Nat) (v : W64) (s : State) : State :=
  let a := axGet s n
  let a1 := { a with target := v, taken := v, refusedT := none, tgtLimit := false }
  if a.stopped then axPut s n { a1 with rem := remOf a1 }
  else if a.fault || !a.pwr || a.stopTo.isSome then axPut s n a1
  else if a.moving then axPut s n a1
  else axPut s n (axGo a1)

/-- A changed target is taken or refused; an axis that may move and does not stand at its kept target goes on to it. -/
def axTarget (s : State) (n : Nat) : State :=
  if (groupOf s n).isSome || !(enOf s bAXIS) then s
  else
    let (v, ok) := tgtRead s n
    let s1 := if v = (axGet s n).taken then s else if ok then tgtTake n v s else tgtRefuse n v s
    let b := axGet s1 n
    if !b.moving && !b.stopped && !b.fault && b.pwr && !atTarget b then axPut s1 n (axGo b) else s1

/-- A change of a group's trigger: all members take their targets, or the group does not move. A group
that moves brakes along its line first. -/
def grpTarget (s : State) (k : Nat) : State :=
  let c := s.axis.grpCfg.getD k {}
  let g := grpGet s k
  let r := readPt s 14 true c.trigpt
  let ms := membersOf s k
  if ms.isEmpty || c.trigpt == noPoint || !(usableQ r) || r.value == g.trig || !(enOf s bAXIS) then s
  else
    let s1 := grpPut s k { g with trig := r.value }
    let no := ms.filter fun m => !(tgtRead s m).2
    if !no.isEmpty then no.foldl (fun t m => tgtRefuse m (tgtRead s m).1 t) s1
    else
      let s2 := ms.foldl (fun t m =>
        let a := axGet t m
        let v := (tgtRead s m).1
        let a1 := { a with target := v, taken := v, refusedT := none, tgtLimit := false }
        axPut t m (if a.stopped then { a1 with rem := remOf a1 } else a1)) s1
      if !g.moving then
        (if ms.any fun m => (axGet s m).stopped then s2 else grpPut s2 k { grpGet s2 k with want := true })
      else if g.stopTo.isSome || g.limiting then s2
      else grpPut s2 k { grpGet s2 k with
        again := true, stopTo := some (stopPoint (grpLimit s g (·.amax)) (grpLimit s g (·.jmax)) g.prof) }

/-- A line begins once every member may move: none stopped, in FAULT or without power (R254, R258). -/
def grpStart (s : State) (k : Nat) : State :=
  let g := grpGet s k
  if g.want && !g.moving && enOf s bAXIS &&
      (membersOf s k).all fun m => !(axGet s m).stopped && !(axGet s m).fault && (axGet s m).pwr
  then grpGo k s else s

/-! ### The profile of one slot -/

/-- The slot period h in seconds. -/
def axH (s : State) : F64 := ofRatioF s.sched.frameL.toNat (10 ^ 9)

/-- A stop at the constant deceleration FDEC (R251). -/
def fdecStep (fd h : F64) (q : Prof) : Prof :=
  let dir := leF fzero q.v
  let vd := absF q.v
  let vn0 := subF vd (mulF fd h)
  let vn := if ltF vn0 fzero then fzero else vn0
  { p := addF q.p (fhalf (mulF (signed dir (addF vd vn)) h)), v := signed dir vn, a := 0 }

/-- Integer limits in a profile's coordinate. -/
def belowLimit (c : AxisCfg) (org : Int) (x : F64) : Bool :=
  ltF x (ofIntF (c.slmin.toInt - org)) || ltF (ofIntF (c.slmax.toInt - org)) x

/-- The profile is abandoned for a stop at FDEC (R251). -/
def axLimit (n : Nat) (s : State) : State := axPut s n { axGet s n with limiting := true, stopTo := none }

/-- An axis whose profile has come to rest: after FDEC it reports LIMIT_STOP and is in FAULT (R251). -/
def axAtRest (n : Nat) (s : State) : State :=
  let a := axGet s n
  let a1 := { a with moving := false, stopTo := none, limiting := false }
  if a.limiting then count bAXIS 2 (axPut s n { a1 with limitStop := true, fault := true, drainStop := false, rem := remRest a1 })
  else if a.stopTo.isSome then axPut s n { a1 with stopped := true, rem := remRest a1 }
  else axPut s n a1

/-- One step of the profile of an axis outside a group. -/
def axProfile (s : State) (n : Nat) : State :=
  let a := axGet s n
  let c := axCfg s n
  let h := axH s
  if !a.moving || (groupOf s n).isSome then s
  else if a.limiting then
    let q := fdecStep c.fdec h a.prof
    let s1 := axPut s n { a with prof := q }
    if eqF q.v fzero then axAtRest n s1 else s1
  else
    let tg := match a.stopTo with | some x => x | none => ofIntF (a.target.toInt - a.org.toInt)
    let q := profStep c.vmax c.amax c.jmax h a.prof tg
    let s1 := axPut s n { a with prof := q }
    if belowLimit c a.org.toInt (stopPoint c.amax c.jmax q) then axLimit n s1
    else if eqF q.v fzero && eqF q.a fzero && eqF q.p tg then axAtRest n s1
    else s1

/-- A group at rest: a new line starts, or its members stop. -/
def grpAtRest (k : Nat) (s : State) : State :=
  let g := grpGet s k
  let s1 := grpPut s k { g with moving := false, stopTo := none, limiting := false, again := false }
  let all_ := fun (f : Axis → Axis) (s : State) => (membersOf s k).foldl (fun t m => axPut t m (f (axGet t m))) s
  if g.again then grpGo k s1
  else if g.limiting then
    count bAXIS 2 (all_ (fun a => { a with limitStop := true, fault := true, drainStop := false, rem := remRest a }) s1)
  else if g.stopTo.isSome then all_ (fun a => { a with stopped := true, rem := remRest a }) s1
  else s1

/-- Member position on the line at path length x: Δ × x / D. -/
def onLine (g : AxGroup) (delta : Int) (x : F64) : F64 :=
  if g.dist = 0 then fzero else divF (mulF (ofIntF delta) x) (ofNatF g.dist)

/-- The members' profiles follow the line. -/
def grpSpread (g : AxGroup) (s : State) : State :=
  g.line.foldl (fun t m =>
    let q : Prof := { p := onLine g m.2.2 g.prof.p, v := onLine g m.2.2 g.prof.v, a := onLine g m.2.2 g.prof.a }
    axPut t m.1 { axGet t m.1 with org := BitVec.ofInt 64 m.2.1, prof := q }) s

/-- One step of the path of a group (R254). -/
def grpProfile (s : State) (k : Nat) : State :=
  let g := grpGet s k
  let h := axH s
  if !g.moving then s
  else if g.limiting then
    let g1 := { g with prof := fdecStep (grpLimit s g (·.fdec)) h g.prof }
    let s1 := grpSpread g1 (grpPut s k g1)
    if eqF g1.prof.v fzero then grpAtRest k s1 else s1
  else
    let tg := match g.stopTo with | some x => x | none => ofNatF g.dist
    let am := grpLimit s g (·.amax)
    let jm := grpLimit s g (·.jmax)
    let g1 := { g with prof := profStep (grpLimit s g (·.vmax)) am jm h g.prof tg }
    let s1 := grpSpread g1 (grpPut s k g1)
    let sp := stopPoint am jm g1.prof
    match g1.line.find? fun m => belowLimit (axCfg s m.1) m.2.1 (onLine g1 m.2.2 sp) with
    | some _ => grpPut s1 k { g1 with limiting := true, stopTo := none, again := false }
    | none => if eqF g1.prof.v fzero && eqF g1.prof.a fzero && eqF g1.prof.p tg then grpAtRest k s1 else s1

/-! ### Velocity, current and outputs -/

/-- The quotient of integers rounded to nearest, ties to even. -/
def roundDiv (num : Int) (den : Nat) : Int :=
  let q := num.natAbs / den
  let r := num.natAbs % den
  let up := decide (den < 2 * r) || (decide (2 * r = den) && q % 2 == 1)
  let m := if up then q + 1 else q
  if num < 0 then -(m : Int) else m

/-- The greatest |VEL|: 0.004 × 2^64 (R247). -/
def velMax : Int := 73786976294838206

/-- VEL for the next slot (R248): exactly rounded from the profile position. -/
def velFor (s : State) (a : Axis) : W64 :=
  match fdec fmt64 a.prof.p.toNat with
  | .fin neg m e =>
    let k := (-(e + 64)).toNat
    let x : Int := (if neg then -(m : Int) else (m : Int)) * 2 ^ (e + 64).toNat
    let have_ : Int := ((posInt a - a.org.toInt) * 2 ^ 64 + a.acc.toNat) * 2 ^ k
    BitVec.ofInt 64 (max (-velMax) (min velMax (roundDiv (x - have_) (max 1 s.sched.frameL.toNat * 2 ^ k))))
  | _ => 0

/-- VEL is set at the slot's end; without power no step is issued (R258). -/
def axVelocity (s : State) (n : Nat) : State :=
  let a := axGet s n
  axPut s n { a with vel := if a.pwr then velFor s a else 0 }

/-- An axis that EN = 0 has stopped stands: its record is written (R258). -/
def axDrained (s : State) (n : Nat) : State :=
  let a := axGet s n
  if a.drainStop && a.stopped && !axBusy s n then axRetain n false (axPut s n { a with drainStop := false }) else s

/-- The current set-point and the stall test (R256). -/
def axCurrent (s : State) (n : Nat) : State :=
  let a := axGet s n
  let c := axCfg s n
  if axMoving s n then
    let i0 := max a.iref.toNat c.irun
    let i := if a.load.toNat ≥ c.loadhi then min (i0 + c.iinc) c.imax
             else if a.load.toNat < c.loadlo then max (i0 - c.iinc) c.irun else i0
    let k := if i = c.imax ∧ a.load.toNat ≥ c.loadhi then a.stallCnt + 1 else 0
    let s1 := axPut s n { a with iref := BitVec.ofNat 8 i, stallCnt := k, rest := 0 }
    if k ≥ c.stallt ∧ !a.fault then count bAXIS 1 (axFault n (fun b => { b with stall := true, posLost := true }) s1)
    else s1
  else
    let r := a.rest + 1
    axPut s n { a with stallCnt := 0, rest := r, iref := if r ≥ c.holdt then BitVec.ofNat 8 c.ihold else a.iref }

/-- The driver command leaves (Table 8-6), and POSPT and STATPT are written (R259, R260). -/
def axOutputs (s : State) (n : Nat) : State :=
  let a := axGet s n
  let c := axCfg s n
  let cmd : Bytes := [0x5A, a.iref, BitVec.ofNat 8 (1 + 2 * a.seq.toNat)]
  let s1 := if drives s then
      emit (.driver n (cmd ++ leBytes 1 (crcL 7 8 0 cmd))) (axPut s n { a with seq := a.seq + 1, sent := true }) else s
  let w := fun p v q t => if p = noPoint then t else guarded 14 (viewOut p) 16 true (pointWrite 14 p v q) t
  w c.statpt (BitVec.ofNat 64 (axWord2 s1 n % 65536)) 0 (w c.pospt (pos64 a) (if a.posLost then 2 else 0) s1)

/-- The points that the slot reads. -/
def axisPoints (s : State) : List Nat :=
  (((axesOn s).map fun n => [(axCfg s n).tgtpt, (axCfg s n).stoppt]).flatten ++
    (s.axis.grpCfg.map fun g => if g.mask = 0 then noPoint else g.trigpt)).filter fun p => p != noPoint

/-- AXIS_SLOT (R260). On a unit that does not run its engines the slot passes idle (R415). -/
def execAxisSlot (s : State) : Host.Outcome State Fault Refusal :=
  .next (
    if !inSlotOf s 14 || !enginesRun s || frozenM s 14 then s
    else
      match (axisPoints s).find? fun p => !(inWindow s 14 (viewOut p) 16 false) with
      | some p => freeze 14 czWINDOW_R (viewOut p) (curSlot s 14) s
      | none =>
        let ns := axesOn s
        let ks := List.range 4
        let s1 := ns.foldl axCommands (ns.foldl axTakeStatus s)
        let s2 := ks.foldl grpStart (ks.foldl grpTarget (ns.foldl axTarget s1))
        let s3 := ks.foldl grpProfile (ns.foldl axProfile s2)
        let s4 := ns.foldl axCurrent (ns.foldl axDrained (ns.foldl axVelocity s3))
        ns.foldl axOutputs s4)

/-- AXIS_CMD (R260): it takes effect in the next AXIS slot. -/
def effAxisCmd (d : HostDesc) (s : State) : State :=
  let n := d8 d 16
  if n > 15 ∨ d8 d 17 > 3 then finAxis d stRANGE 0 s
  else if !(axCfg s n).en then finAxis d stNOT_READY 0 s
  else axPut s n { axGet s n with cmds := (axGet s n).cmds ++ [d] }

def execAxisCmd (d : HostDesc) (s : State) : Host.Outcome State Fault Refusal := .next (arrive effAxisCmd d s)

end Sys2Proof.Machine
end

