-- ==== Sys2Proof/Machine/Panel.lean ====
section
/-! DEFINITION. PNL, the bistable status panel (17_status_panel.md). -/

namespace Sys2Proof.Machine

/-! ### The panel region (Table 17-1) -/

def pnlBase : Nat := 0x80000
def pnlShown : Nat := pnlBase + 0x5DC00
def pnlCfg : Nat := pnlBase + 0x75300
def pnlBandAt (b : Nat) : Nat := pnlBase + 0x75340 + 272 * b
def pnlJour : Nat := pnlBase + 0x75BC0
def pnlScratch : Nat := pnlBase + 0x75C00
def pnlTarget : Nat := pnlBase + 0x75F20

/-- A 64-byte header with its magic and its CRC-32C. -/
def headOk (magic : Nat) (b : Bytes) : Bool := u32 b 0 == magic && u32 b 60 == crc32c (b.take 60)
def headSeal (b : Bytes) : Bytes := b.take 60 ++ leBytes 4 (crc32c (b.take 60))

def cfgHead (s : State) : Bytes := mramRead pnlCfg 64 s
def cfgOk (s : State) : Bool := headOk 0x434C4E50 (cfgHead s)
def pW (s : State) : Nat := u16 (cfgHead s) 4
def pH (s : State) : Nat := u16 (cfgHead s) 6
def nph (h : Bytes) (b : Nat) : Nat := u8 h (0x1C + b)
def nphc (h : Bytes) (b : Nat) : Nat := u8 h (0x24 + b)

/-- 2-bit field `k` of a string. -/
def code2 (b : Bytes) (k : Nat) : Nat := u8 b (k / 4) / 4 ^ (k % 4) % 4
/-- 2-bit values packed as R472. -/
def pack2 (l : List Nat) : Bytes :=
  (List.range (ceilDiv l.length 4)).map fun i =>
    BitVec.ofNat 8 (((List.range 4).map fun j => l.getD (4 * i + j) 0 % 4 * 4 ^ j).sum)

def codeVal (c : Nat) : Int := if c = 1 then 1 else if c = 2 then -1 else 0

/-- The transition row of band b from level f to level t, and its clear row (R476). -/
def transRow (s : State) (b f t : Nat) : Bytes := mramRead (pnlBandAt b + 16 * (4 * f + t)) 16 s
def clearRow (s : State) (b : Nat) : Bytes := mramRead (pnlBandAt b + 256) 16 s

def shownRow (s : State) (y : Nat) : Bytes := mramRead (pnlShown + y * (pW s / 4)) (pW s / 4) s
def account (s : State) (y x : Nat) : Int := (tblGet s.mram (pnlBase + y * pW s + x) 0).toInt

/-! ### The journal (Table 17-4) -/

def jHead (s : State) : Bytes := mramRead pnlJour 64 s
def jOk (s : State) : Bool := headOk 0x4C4E4A50 (jHead s)
def jState (s : State) : Nat := u8 (jHead s) 4
def jIDLE : Nat := 0
def jDRIVING : Nat := 1
def jACCOUNTING : Nat := 2
def jCLEARING : Nat := 3
def jZEROING : Nat := 4

def jWrite (st band ph row x0 y0 ww sh acrow scrow : Nat) (useq : W64) (s : State) : State :=
  mramWrite pnlJour (headSeal (leBytes 4 0x4C4E4A50 ++ leBytes 1 st ++ leBytes 1 band ++ leBytes 1 ph ++ [0] ++ leBytes 2 row ++
    leBytes 2 x0 ++ leBytes 2 y0 ++ leBytes 2 ww ++ leBytes 2 sh ++ leBytes 2 acrow ++ leBytes 2 scrow ++ zeros 2 ++
    leBytes 8 useq.toNat ++ zeros 28)) s

/-- A header write of a run: its state, phase and row. -/
def jRun (r : PnlRun) (st ph row : Nat) (s : State) : State :=
  jWrite st r.band ph row r.x0 r.sy r.ww r.sh 0 0xFFFF r.useq s

/-- A header write of the accounting and the zeroing rows. -/
def jRows (r : PnlRun) (st acrow scrow : Nat) (s : State) : State :=
  jWrite st r.band 0 0 r.x0 r.sy r.ww r.sh acrow scrow r.useq s

def pnlSetRun (r : Option PnlRun) (s : State) : State := { s with pnl := { s.pnl with run := r } }
def setPen (v : Bool) (s : State) : State :=
  if s.pnl.pen = v then s else emit (.panelEn v) { s with pnl := { s.pnl with pen := v } }

/-! ### Bands (R478) -/

/-- The number of thresholds at or below a temperature. -/
def bandOf (h : Bytes) (t : F64) : Nat := ((List.range 7).filter fun i => leF (ofIntF (sint 8 (u8 h (0x14 + i)))) t).length
def dieTemp (s : State) : F64 := ofRatioF (sint 16 s.pwr.tj.toNat) 128

/-- The band of an update that starts: TEMPPT lies in the panel's read windows or freezes it (R65). -/
def bandNow (s : State) : Nat × State :=
  let h := cfgHead s
  let p := u32 h 0x10
  if p = 0xFFFFFFFF then (bandOf h (dieTemp s), s)
  else
    let s1 := guarded 24 (viewIn p) 16 false id s
    (bandOf h ((if frozenM s1 24 then none else usableF (frozenPt s p)).getD (dieTemp s)), s1)

/-! ### Driving -/

/-- The largest |a| over all pixels (R483). -/
def maxAccount (s : State) : Nat :=
  (List.range (pH s)).foldl (fun m y => (List.range (pW s)).foldl (fun m x => max m (account s y x).natAbs) m) 0

/-- The phases of a run. -/
def phasesIn (s : State) (r : PnlRun) : Nat :=
  if r.clear then maxAccount s + nphc (cfgHead s) r.band else nph (cfgHead s) r.band

/-- The target level of a pixel of the strip, from the journal target area. -/
def targetLevel (s : State) (r : PnlRun) (y x : Nat) : Nat :=
  code2 (mramRead (pnlTarget + (y - r.sy) * (r.ww / 4)) (r.ww / 4) s) (x - r.x0)

def inStrip (r : PnlRun) (y x : Nat) : Bool :=
  decide (r.sy ≤ y) && decide (y < r.sy + r.sh) && decide (r.x0 ≤ x) && decide (x < r.x0 + r.ww)

/-- The drive code of a pixel in phase k (R476, R483); code 3 is driven as 0. -/
def driveCode (s : State) (r : PnlRun) (a k y x : Nat) : Nat :=
  let c :=
    if r.clear then
      if k < a then
        (if (k : Int) < account s y x then 2 else if (k : Int) < -(account s y x) then 1 else 0)
      else code2 (clearRow s r.band) (k - a)
    else if inStrip r y x then code2 (transRow s r.band (code2 (shownRow s y) x) (targetLevel s r y x)) k
    else 0
  if c = 3 then 0 else c

/-- One phase: every row from `r.row` is scanned (R474). -/
def drivePhase (r : PnlRun) (s : State) : State :=
  let a := if r.clear then maxAccount s else 0
  (List.range (pH s)).foldl (fun t y =>
    if y < r.row then t
    else emit (.panelRow y (pack2 ((List.range (pW s)).map (driveCode s r a r.ph y)))) t) s

/-- The new accounts of row y, and how many saturate (R480). -/
def newAccounts (s : State) (r : PnlRun) (y : Nat) : List (Int × Bool) :=
  let n := nph (cfgHead s) r.band
  (List.range (pW s)).map fun x =>
    let a := account s y x
    if inStrip r y x then
      let row := transRow s r.band (code2 (shownRow s y) x) (targetLevel s r y x)
      let v := a + ((List.range n).map fun k => codeVal (code2 row k)).sum
      if v < -128 then (-128, true) else if 127 < v then (127, true) else (v, false)
    else (a, false)

/-- The scratch row becomes the row's accounts, and the target row its shown image. -/
def copyScratch (r : PnlRun) (y : Nat) (s : State) : State :=
  mramWrite (pnlShown + y * (pW s / 4) + r.x0 / 4) (mramRead (pnlTarget + (y - r.sy) * (r.ww / 4)) (r.ww / 4) s)
    (mramWrite (pnlBase + y * pW s) (mramRead pnlScratch (pW s) s) s)

/-- One row is accounted (R480 item 4). -/
def accountRow (r : PnlRun) (i : Nat) (s : State) : State :=
  let l := newAccounts s r (r.sy + i)
  let s1 := mramWrite pnlScratch (l.map fun p => BitVec.ofInt 8 p.1) (countN bPNL 2 (l.filter (·.2)).length s)
  jRows r jACCOUNTING (i + 1) i (copyScratch r (r.sy + i) (jRows r jACCOUNTING i i s1))

def accountRows (r : PnlRun) (start : Nat) (s : State) : State :=
  (List.range r.sh).foldl (fun s i => if i < start then s else accountRow r i s) s

/-- A strip ends: STATE IDLE and ZEROED 0. -/
def stripEnd (r : PnlRun) (s : State) : State :=
  let s1 := jRun r jIDLE 0 0 s
  { s1 with pnl := { s1.pnl with zeroed := false } }

def stripAccount (r : PnlRun) (start : Nat) (s : State) : State :=
  stripEnd r (accountRows r start (if start = 0 then jRows r jACCOUNTING 0 0xFFFF s else s))

/-- Rows of zero accounts and level 3, then ZEROED and IDLE (R483). -/
def zeroRow (s : State) (y : Nat) : State :=
  mramWrite (pnlShown + y * (pW s / 4)) (List.replicate (pW s / 4) 0xFF) (mramWrite (pnlBase + y * pW s) (zeros (pW s)) s)
def zeroRows (r : PnlRun) (start : Nat) (s : State) : State :=
  let s1 := (List.range (pH s)).foldl (fun s y => if y < start then s else jRows r jZEROING (y + 1) 0xFFFF (zeroRow s y)) s
  let s2 := jRun r jIDLE 0 0 s1
  { s2 with pnl := { s2.pnl with zeroed := true } }

/-! ### The start and the end of a run -/

/-- VCOM is set and PNL_PEN rises (R475). -/
def pumpOn (s : State) : State := setPen true { s with pnl := { s.pnl with vcom := byteAt (cfgHead s) 0x1B } }

def frameBytes (s : State) : Bytes := tblRange s.pnl.f 0 (pH s * (pW s / 4)) 0

/-- Rows of a strip (R479). -/
def stripRows (ww : Nat) : Nat := 164736 / max 1 ww

/-- Step 1 of R480 for the strip in hand. -/
def beginStrip (r : PnlRun) (s : State) : State :=
  let row := fun (y : Nat) => tblRange s.pnl.f (y * (pW s / 4) + r.x0 / 4) (r.ww / 4) 0
  jRun r jDRIVING 0 0 (mramWrite pnlTarget (((List.range r.sh).map fun i => row (r.sy + i)).flatten) s)

def pnlCounted : List Nat := [stRANGE, stNOT_READY, stBUSY, stCAPACITY]
def finPnl (d : HostDesc) (st data : Nat) (s : State) : State := finish bPNL 6 pnlCounted d st data s

/-- A run ends: PNL_PEN falls, its descriptor completes OK. -/
def runEnd (r : PnlRun) (s : State) : State :=
  let s1 := pnlSetRun none (setPen false s)
  match r.desc with
  | some d => irqEdge 212 (finPnl d stOK r.useq.toNat s1)
  | none => s1

/-- The phases of a run start, or it has none. -/
def runBegin (r : PnlRun) (s : State) : State :=
  let s1 := { s with pnl := { s.pnl with band := BitVec.ofNat 3 r.band, useq := r.useq, ph := 0, row := 0 } }
  if r.clear then
    let s2 := jRun r jCLEARING 0 0 s1
    if phasesIn s2 r = 0 then runEnd r (zeroRows r 0 (jRows r jZEROING 0 0xFFFF s2)) else pnlSetRun (some r) (pumpOn s2)
  else pnlSetRun (some r) (pumpOn (beginStrip r s1))

/-- A clearing of the whole panel in a band (R483). -/
def clearRun (s : State) (band : Nat) (d : Option HostDesc) (recover : Bool) : PnlRun :=
  {
    clear := true, desc := d, ww := pW s, wh := pH s, sh := pH s, band := band, recover := recover, useq := s.pnl.useq + 1 }

/-- An update of a window; its first strip. -/
def updateRun (s : State) (band : Nat) (d : HostDesc) : PnlRun :=
  let sh := min (stripRows (d16 d 20)) (d16 d 22)
  {
    desc := some d, x0 := d16 d 16, y0 := d16 d 18, ww := d16 d 20, wh := d16 d 22, sy := d16 d 18, sh := sh, band := band,
    useq := s.pnl.useq + 1 }

/-- The next queued entry runs, when none does. An update whose CRC of F differs is refused (R479). -/
def pnlNext : Nat → State → State
  | 0, s => s
  | n + 1, s =>
    match s.pnl.run, s.pnl.queue with
    | none, d :: rest =>
      if !enOf s bPNL ∨ frozenM s 24 ∨ !unlocked s then s
      else
        let s1 := { s with pnl := { s.pnl with queue := rest } }
        if dOp d = 0x81 ∧ crc32 (frameBytes s) ≠ d32 d 24 then
          pnlNext n (complete d stREFUSED 0 (count bPNL 0 s1))
        else
          let r := bandNow s1
          runBegin (if dOp d = 0x83 then clearRun r.2 r.1 (some d) false else updateRun r.2 r.1 d) r.2
    | _, _ => s

/-- The queue of 4 goes on. -/
def pnlGo (s : State) : State := pnlNext 5 s

/-- After the last phase of a strip or a clearing: its bookkeeping, and the next strip. -/
def phasesDone (r : PnlRun) (s : State) : State :=
  if r.clear then pnlGo (runEnd r (zeroRows r 0 (jRows r jZEROING 0 0xFFFF s)))
  else
    let s1 := stripAccount r 0 s
    let y := r.sy + r.sh
    if r.recover ∨ r.y0 + r.wh ≤ y then pnlGo (runEnd r s1)
    else
      pnlSetRun (some { r with sy := y, sh := min (stripRows r.ww) (r.y0 + r.wh - y), ph := 0, row := 0 }) s1

/-- The strip that the next phase belongs to has its target rows in the journal. -/
def stripReady (r : PnlRun) (s : State) : State := if r.clear ∨ jState s = jDRIVING then s else beginStrip r s

/-- PANEL_PHASE (R480): the header, the phase, and what follows the last one. Between strips EN = 0 holds the
next one (R33). -/
def panelPhase (s : State) : State :=
  match s.pnl.run with
  | none => pnlGo s
  | some r =>
    if !r.good ∨ frozenM s 24 ∨ !unlocked s ∨ (!enOf s bPNL ∧ !r.clear ∧ jState s = jIDLE) then s
    else
      let s1 := stripReady r s
      let st := if r.clear then jCLEARING else jDRIVING
      let s2 := drivePhase r (jRun r st r.ph r.row s1)
      let s3 := { s2 with pnl := { s2.pnl with ph := BitVec.ofNat 8 r.ph, row := BitVec.ofNat 16 (pH s) } }
      let r1 := { r with ph := r.ph + 1, row := 0 }
      if r1.ph < phasesIn s r then pnlSetRun (some r1) s3 else phasesDone r1 s3

def execPanelPhase (s : State) : Host.Outcome State Fault Refusal := .next (panelPhase s)

/-- PGOOD (R475). -/
def execPgood (s : State) : Host.Outcome State Fault Refusal :=
  .next (match s.pnl.run with
    | some r => if s.pnl.pen then pnlSetRun (some { r with good := true }) s else s
    | none => s)

/-- PUMP_TIMEOUT (R475): no phase is driven and the journal returns to IDLE. -/
def execPumpTimeout (s : State) : Host.Outcome State Fault Refusal :=
  .next (match s.pnl.run with
    | none => s
    | some r =>
      if r.good then s
      else
        let s1 := pnlSetRun none (setPen false (count bPNL 1 (jRun r jIDLE 0 0 s)))
        pnlGo (match r.desc with | some d => complete d stTIMEOUT 0 s1 | none => s1))

/-! ### Power failure and recovery (R481, R482) -/

/-- The drive ends and ROW is written, the whole panel of a driven phase being behind it. -/
def pnlPowerFail (s : State) : State :=
  match s.pnl.run with
  | none => setPen false s
  | some r =>
    let h := jHead s
    let s1 := pnlSetRun (some { r with good := false }) (setPen false s)
    if jState s = jDRIVING ∨ jState s = jCLEARING then
      let row := if u8 h 6 = r.ph then r.row else pH s
      mramWrite pnlJour (headSeal (patch h 8 (leBytes 2 row))) s1
    else s1

/-- PWRFAIL_N has risen again: the drive goes on once the pump is good. -/
def pnlResume (s : State) : State := if s.pnl.run.isSome then pumpOn s else s

/-- The run that a journal header describes. -/
def runOfHeader (s : State) (clear : Bool) : PnlRun :=
  let h := jHead s
  let row := u16 h 8
  let ph := u8 h 6
  let over_ := row != 0xFFFF && decide (pH s ≤ row)
  {
    clear := clear, x0 := u16 h 10, y0 := u16 h 12, ww := u16 h 14, wh := u16 h 16, sy := u16 h 12, sh := u16 h 16,
    band := u8 h 5 % 8, ph := if over_ then ph + 1 else ph, row := if row = 0xFFFF ∨ over_ then 0 else row, recover := true,
    useq := BitVec.ofNat 64 (u64 h 0x18) }

def recovery (s : State) : State := count bPNL 3 (lantern 0x1480 1 [] s)

/-- A run taken from the journal drives its remaining phases, or has none left. -/
def resumeRun (r : PnlRun) (s : State) : State :=
  let s1 := { s with pnl := { s.pnl with band := BitVec.ofNat 3 r.band } }
  if r.ph < phasesIn s r then pnlSetRun (some r) (pumpOn s1) else phasesDone r s1

/-- The journal at start (Table 17-5). -/
def pnlStart (s0 : State) : State :=
  let s := { s0 with pnl := { s0.pnl with started := true } }
  if !cfgOk s then s
  else if !jOk s then
    runBegin (clearRun s (bandOf (cfgHead s) (dieTemp s)) none true) (lantern 0x1481 1 [] (count bPNL 4 s))
  else if jState s = jDRIVING then
    let s1 := countIf (u16 (jHead s) 8 == 0xFFFF) bPNL 5 (recovery s)
    resumeRun (runOfHeader s false) s1
  else if jState s = jACCOUNTING then
    let r := runOfHeader s false
    let sc := u16 (jHead s) 0x14
    let ac := u16 (jHead s) 0x12
    let s1 := recovery s
    if sc = 0xFFFF then stripAccount r ac s1
    else stripAccount r (max ac (sc + 1)) (jRows r jACCOUNTING (max ac (sc + 1)) sc (copyScratch r (r.sy + sc) s1))
  else if jState s = jCLEARING then resumeRun (runOfHeader s true) (recovery s)
  else if jState s = jZEROING then zeroRows (runOfHeader s true) (u16 (jHead s) 0x12) (recovery s)
  else s

/-! ### Descriptors (R477, R484) -/

/-- A clear row has as many positive codes as negative ones. -/
def clearBalanced (row : Bytes) (n : Nat) : Bool := ((List.range n).map fun k => codeVal (code2 row k)).sum == 0
def noCode3 (row : Bytes) (n : Nat) : Bool := (List.range n).all fun k => code2 row k != 3
def bandBytes (b : Bytes) (k : Nat) : Bytes := slice b (64 + 272 * k) 272

/-- The checks of a configuration (R477). -/
def cfgFieldsOk (b : Bytes) : Bool :=
  let w := u16 b 4
  let bth := (List.range 7).map fun i => sint 8 (u8 b (0x14 + i))
  headOk 0x434C4E50 (b.take 64) && decide (16 ≤ w) && decide (w ≤ 800) && w % 4 == 0 && decide (16 ≤ u16 b 6) &&
  decide (u16 b 6 ≤ 480) && decide (10 ≤ u8 b 8) && decide (u8 b 8 ≤ 250) && decide (1 ≤ u16 b 0xA) &&
  decide (1000 ≤ u32 b 0xC) && decide (u32 b 0xC ≤ 100000) && (bth.zip (bth.drop 1)).all (fun p => decide (p.1 < p.2)) &&
  (List.range 8).all (fun k => decide (1 ≤ nph b k) && decide (nph b k ≤ 64) && decide (nphc b k ≤ 64)) &&
  decide (1 ≤ u8 b 0x2C) && decide (u8 b 0x2C ≤ 100) && allZero b 0x2D 15

def cfgTempOk (s : State) (b : Bytes) : Bool :=
  let p := u32 b 0x10
  p == 0xFFFFFFFF || (decide (p < 131072) && ((workPt s p).typ == 6 || (workPt s p).typ == 7))

def cfgWaveOk (b : Bytes) : Bool :=
  (List.range 8).all (fun k =>
    let x := bandBytes b k
    (List.range 16).all (fun r => noCode3 (slice x (16 * r) 16) (nph b k)) && noCode3 (slice x 256 16) (nphc b k) &&
      clearBalanced (slice x 256 16) (nphc b k)) &&
  decide ((u16 b 4 / 4 + u16 b 0xA) * u8 b 8 * (u16 b 6 + u8 b 9) ≤ u32 b 0xC * 1000)

/-- An update, a clearing or a recovery runs or is queued. -/
def pnlBusy (s : State) : Bool := s.pnl.run.isSome || !s.pnl.queue.isEmpty
def pnlRecovers (s : State) : Bool := match s.pnl.run with | some r => r.recover | none => false

def windowOk (s : State) (d : HostDesc) : Bool :=
  let x := d16 d 16
  let w := d16 d 20
  x % 4 == 0 && w % 4 == 0 && decide (0 < w) && decide (0 < d16 d 22) && decide (x + w ≤ pW s) && decide (d16 d 18 + d16 d 22 ≤ pH s)

/-- PNL_LOAD: rows into F, and the new CRC-32 of F. -/
def effPnlLoad (d : HostDesc) (s : State) : State :=
  if !cfgOk s then finPnl d stNOT_READY 0 s
  else if !windowOk s d then finPnl d stRANGE 0 s
  else if pnlBusy s then finPnl d stBUSY 0 s
  else
    let n := d16 d 20 / 4
    let f := (List.range (d16 d 22)).foldl (fun t i =>
      tblPutAll t ((d16 d 18 + i) * (pW s / 4) + d16 d 16 / 4) (slice d.buf (n * i) n) 0) s.pnl.f
    let s1 := { s with pnl := { s.pnl with f := f } }
    let c := crc32 (frameBytes s1)
    finPnl d stOK c { s1 with pnl := { s1.pnl with fcrc := BitVec.ofNat 32 c } }

/-- PNL_UPDATE and PNL_CLEAR enter the queue of 4. -/
def pnlQueue (d : HostDesc) (s : State) : State :=
  if pnlRecovers s then finPnl d stBUSY 0 s
  else if 4 ≤ s.pnl.queue.length + (if s.pnl.run.isSome then 1 else 0) then finPnl d stCAPACITY 0 s
  else pnlGo { s with pnl := { s.pnl with queue := s.pnl.queue ++ [d] } }

def effPnlUpdate (d : HostDesc) (s : State) : State :=
  if !cfgOk s then finPnl d stNOT_READY 0 s
  else if !windowOk s d then finPnl d stRANGE 0 s
  else pnlQueue d s

def effPnlClear (d : HostDesc) (s : State) : State :=
  if !cfgOk s then finPnl d stNOT_READY 0 s else pnlQueue d s

/-- The first configuration on an invalid header: every account 0, S at level 3, and an IDLE journal. -/
def firstConfig (w h : Nat) (s : State) : State :=
  let s1 := mramWrite pnlShown (List.replicate (w / 4 * h) 0xFF) (mramWrite pnlBase (zeros (w * h)) s)
  if jOk s1 then s1 else jWrite jIDLE 0 0 0 0 0 0 0 0 0xFFFF s1.pnl.useq s1

/-- PNL_CONFIG (R477). -/
def effPnlConfig (d : HostDesc) (s : State) : State :=
  let b := slice d.buf 0 2240
  let old := cfgOk s
  if pnlBusy s then finPnl d stBUSY 0 s
  else if !cfgFieldsOk b ∨ !cfgTempOk s b ∨ !cfgWaveOk b then finPnl d stRANGE 0 s
  else if old ∧ (u16 b 4 ≠ pW s ∨ u16 b 6 ≠ pH s) ∧ !s.pnl.zeroed then complete d stREFUSED 0 (count bPNL 6 s)
  else
    let s1 := mramWrite pnlCfg b s
    finPnl d stOK 0 (if old then s1 else firstConfig (u16 b 4) (u16 b 6) s1)

def execPnlLoad (d : HostDesc) (s : State) : Host.Outcome State Fault Refusal := .next (arrive effPnlLoad d s)
def execPnlUpdate (d : HostDesc) (s : State) : Host.Outcome State Fault Refusal := .next (arrive effPnlUpdate d s)
def execPnlConfig (d : HostDesc) (s : State) : Host.Outcome State Fault Refusal := .next (arrive effPnlConfig d s)
def execPnlClear (d : HostDesc) (s : State) : Host.Outcome State Fault Refusal := .next (arrive effPnlClear d s)

/-! ### Registers (Tables 17-7, 17-8) -/

/-- The entries of the queue, that of the run included; a recovery is no entry. -/
def pnlQueued (s : State) : Nat :=
  s.pnl.queue.length + (match s.pnl.run with | some r => b2n r.desc.isSome | none => 0)

def pnlStatusBits (s : State) : Nat :=
  min 4 (pnlQueued s) * 2 ^ 13 + s.pnl.band.toNat * 2 ^ 10 + (if jOk s then jState s % 8 else 0) * 2 ^ 7 +
    b2n s.pnl.zeroed * 2 ^ 6 + b2n s.pnl.pen * 2 ^ 5 + b2n (cfgOk s) * 2 ^ 4

end Sys2Proof.Machine
end

