-- ==== Sys2Proof/Machine/Records.lean ====
section
/-! DEFINITION. REC and NVM: Lantern, the audit log, the history store, the NAND and the user tag
(16_records_and_storage.md). -/

namespace Sys2Proof.Machine

/-! ### Lantern (R451 to R454) -/

/-- The bytes of a Lantern record (Table 16-2). -/
def lanBytes (r : LanRec) (drops : Nat) (lseq : W32) : Bytes :=
  let b := leBytes 4 r.pcyc.toNat ++ leBytes 6 r.opt.toNat ++ leBytes 2 r.code.toNat ++ [r.sev, 0] ++
    leBytes 2 (256 * min 255 drops) ++ leBytes 8 r.mfn.toNat ++ leBytes 4 lseq.toNat ++ slice r.data 0 32
  b ++ leBytes 4 (crc32c b)

def lanAddr (lseq : W32) : Nat := 0x20000 + 64 * (lseq.toNat % 2048)

/-- The rules of R454 after a record has been written. -/
def lanAfter (fatal : Bool) (lseq : W32) (r : RecRegs) : RecRegs :=
  match r.lleft with
  | none => if fatal then { r with lfatal := lseq, lleft := some 63 } else r
  | some n => { r with lleft := some (n - 1) }

/-- Lantern stops once the 63 records after the fatal one are written: what still waits is not written (R454). -/
def lanStop (s : State) : State :=
  if s.recs.lleft = some 0 ∧ !s.recs.lfrozen then
    countN bREC 1 s.recs.queue.length { s with recs := { s.recs with lfrozen := true, queue := [] } }
  else s

/-- The oldest queued record is written at its index. -/
def lanOne (s : State) : State :=
  match s.recs.queue with
  | [] => s
  | r :: q =>
    let n := s.recs.lseq + 1
    let s1 := mramWrite (lanAddr n) (lanBytes r s.recs.drops n) s
    lanStop { s1 with recs := lanAfter (r.sev == 3) n { s1.recs with lseq := n, queue := q, drops := 0 } }

/-- The operating time is saved when the second has turned (R452). -/
def optSave (s : State) : State :=
  if s.recs.optDue then { s with recs := { s.recs with optSaved := s.recs.opt, optDue := false } } else s

/-- LANTERN_WRITE (R452): the next record, then the operating time; nothing while PFLOCK holds (R488) or
REC is frozen (R67). -/
def execLanternWrite (s : State) : Host.Outcome State Fault Refusal :=
  .next (if s.pwr.pflock || frozenM s 23 then s else optSave (lanOne s))

/-- A record whose CRC is valid. -/
def lanValid (b : Bytes) : Bool := decide (leNat (b.drop 60) = crc32c (b.take 60))

/-- Lantern at start (R451): records with a bad CRC are counted, and the valid record with the highest
LSEQ, compared modulo 2^32, is the last. -/
def lanScan (s : State) : State :=
  (List.range 2048).foldl (fun t i =>
    let b := mramRead (0x20000 + 64 * i) 64 t
    let n : W32 := BitVec.ofNat 32 (u32 b 0x18)
    if lanValid b then
      (if t.recs.lseq = 0xFFFFFFFF ∨ (n - t.recs.lseq).toInt > 0 then { t with recs := { t.recs with lseq := n } } else t)
    else count bREC 4 t)
    { s with recs := { s.recs with lseq := 0xFFFFFFFF } }

/-! ### Geometry of the NAND -/

def pageData (s : State) : Nat := 4096 * 2 ^ s.nvm.geomPage.toNat
/-- Audit records of a page (R457). -/
def recsPerPage (s : State) : Nat := pageData s / 128

def nbGet (s : State) (b : Nat) : NandBlk := tblGet s.nvm.blocks b {}
def nbPut (s : State) (b : Nat) (v : NandBlk) : State :=
  { s with nvm := { s.nvm with blocks := tblPut s.nvm.blocks b v {} } }

def bkFREE : Byte := 0
def bkIN_USE : Byte := 1
def bkRESERVE : Byte := 2
def bkBAD_FACTORY : Byte := 3
def bkBAD_RUNTIME : Byte := 4
def bkWORN : Byte := 5

def noLog : W32 := 0xFFFFFFFF

/-- Blocks of a state, and of a partition. -/
def nbCount (s : State) (p : NandBlk → Bool) : Nat := (s.nvm.blocks.filter fun kv => p kv.2).length

/-- Reserve blocks of a partition (R467). -/
def reserveOf (s : State) (part : Byte) : Nat := nbCount s fun v => v.st == bkRESERVE && v.part == part

/-- Operating hours (R449). -/
def optHours (s : State) : Nat := s.recs.opt.toNat % 2 ^ 24

def scrubAge (s : State) : Nat := min 65535 (optHours s - s.nvm.passEnd)

/-- REC.STATUS (Table 16-8) and NVM.STATUS (Table 16-11) above the common bits. -/
def aWarn (s : State) : Bool := s.nvm.formatted && decide (s.recs.audCap.toNat ≤ audCount s.recs + 65536)
def resvLow (s : State) : Bool := s.nvm.formatted && (decide (reserveOf s 0 < 2) || decide (reserveOf s 1 < 2))
def scrubLate (s : State) : Bool := decide (744 < scrubAge s)

/-! ### Blocks that are lost, erased and refreshed -/

/-- The first reserve block of a partition that no refresh has taken. -/
def reserveBlk (s : State) (part : Byte) : Option Nat :=
  (s.nvm.blocks.find? fun kv => kv.2.st == bkRESERVE && kv.2.part == part && kv.2.used == 0 &&
    !(match s.recs.copying with | some j => j.dst == kv.1 | none => false)).map (·.1)

/-- A partition that has no reserve left shrinks by a lost block (R467). -/
def shrink (part : Byte) (s : State) : State :=
  if part = 0 then
    { s with recs := { s.recs with audCap := s.recs.audCap - BitVec.ofNat 32 (Config.nandPages * recsPerPage s) } }
  else s

/-- A reserve block takes the place of a block that holds no valid page (R464). -/
def replaceBlk (b : Nat) (s : State) : State :=
  let v := nbGet s b
  match reserveBlk s v.part with
  | some r => nbPut (nbPut s r { nbGet s r with log := v.log, st := bkFREE }) b { v with log := noLog }
  | none => shrink v.part (nbPut s b { v with log := noLog })

/-- Pages of the log or of the history store lie in a block. -/
def hasPages (s : State) (b : Nat) : Bool :=
  (s.recs.audPages.any fun p => p.blk == b) || (s.recs.hist.any fun kv => kv.2.blk == b)

/-- A program or an erase of a block reports failure (R464): retired, its valid pages to be moved. -/
def blkFailed (b : Nat) (s : State) : State :=
  let v := nbGet s b
  let s1 := count bNVM 5 (nbPut s b { v with st := bkBAD_RUNTIME, refresh := hasPages s b })
  let s2 := { s1 with recs := { s1.recs with
      audBlk := if s1.recs.audBlk = some b then none else s1.recs.audBlk,
      histBlk := if s1.recs.histBlk = some b then none else s1.recs.histBlk } }
  if hasPages s b then s2 else replaceBlk b s2

/-- The pages of block `a` lie in block `b`. -/
def movePages (a b : Nat) (r : RecRegs) : RecRegs :=
  { r with audPages := r.audPages.map (fun p => if p.blk = a then { p with blk := b } else p),
           hist := r.hist.map (fun kv => if kv.2.blk = a then (kv.1, { kv.2 with blk := b }) else kv),
           audBlk := if r.audBlk = some a then some b else r.audBlk,
           histBlk := if r.histBlk = some a then some b else r.histBlk }

/-- A refresh copy ends: the two blocks exchange their logical indices and the old block is erased,
unless it is bad (R463, R464). -/
def copyDone (j : CopyJob) (s : State) : State :=
  let a := nbGet s j.src
  let b := nbGet s j.dst
  let bad := a.st == bkBAD_RUNTIME
  let s1 := nbPut (nbPut s j.src { a with log := b.log, st := if bad then a.st else bkRESERVE, refresh := false })
    j.dst { b with log := a.log, st := bkIN_USE }
  let r := movePages j.src j.dst s1.recs
  { s1 with recs := { r with copying := none, eraseQ := if bad then r.eraseQ else r.eraseQ ++ [j.src] } }

/-- The next block whose refresh is due starts, if its partition has a reserve block. -/
def copyStart (s : State) : State :=
  match s.recs.copying with
  | some _ => s
  | none =>
    match s.nvm.blocks.find? fun kv => kv.2.refresh && decide (0 < kv.2.used) with
    | none => s
    | some (b, v) =>
      match reserveBlk s v.part with
      | some r => { s with recs := { s.recs with copying := some { src := b, dst := r, page := 0, isRead := false } } }
      | none => s

/-- One page has been read: its codewords, its block's READS, and the refreshes they ask for (R463, R465). -/
def pageRead (b : Nat) (cw : List (Option Nat)) (patrol : Bool) (s : State) : State :=
  let v := nbGet s b
  let n := (cw.filter fun c => match c with | some k => decide (0 < k) | none => false).length
  let bad := (cw.filter fun c => c.isNone).length
  let worst := (cw.filterMap id).foldl max 0
  let disturb := decide (v.reads.toNat + 1 = 1000 * s.nvm.rdlim.toNat)
  let weak := decide (48 < worst)
  let s1 := nbPut s b { v with reads := v.reads + 1, refresh := v.refresh || disturb || weak }
  let s2 := { s1 with nvm := { s1.nvm with uncor := s1.nvm.uncor || decide (0 < bad),
                                           corrMax := BitVec.ofNat 7 (max s1.nvm.corrMax.toNat (min 127 worst)) } }
  countIf disturb bNVM 4 (countIf (patrol && weak && !v.refresh) bNVM 3 (countN bNVM 1 bad (countN bNVM 0 n s2)))

/-! ### Descriptors -/

def recCounted : List Nat := [stRANGE, stNOT_READY, stBUSY, stLOCKED, stDROPPED]
def finRec (d : HostDesc) (st data : Nat) (s : State) : State := finish bREC 5 recCounted d st data s
def finNvm (d : HostDesc) (st data : Nat) (s : State) : State := finish bNVM 9 recCounted d st data s

/-- The bytes of an audit record (Table 16-4). -/
def audBytes (r : AudRec) : Bytes :=
  let b := leBytes 6 r.seq.toNat ++ leBytes 2 r.code.toNat ++ leBytes 2 r.ctx.toNat ++ [r.auth, 0] ++
    leBytes 8 r.ocnt.toNat ++ slice r.data 0 104
  b ++ leBytes 4 (crc32c b)

/-- The user tag: the valid copy with the higher TSEQ, as its number (0 or 1) and TSEQ (R470). -/
def tagAddr (k : Nat) : Nat := if k = 0 then 0x51100 else 0x51400
def tagSeq (s : State) (k : Nat) : Option Nat :=
  let b := mramRead (tagAddr k) 528 s
  if crc32c (b.drop 16 ++ b.take 8) = u32 b 12 then some (u64 b 0) else none

def tagCur (s : State) : Option (Nat × Nat) :=
  match tagSeq s 0, tagSeq s 1 with
  | some a, some b => if a < b then some (1, b) else some (0, a)
  | some a, none => some (0, a)
  | none, some b => some (1, b)
  | none, none => none

def tagData (s : State) : Bytes :=
  match tagCur s with
  | some (k, _) => mramRead (tagAddr k + 16) 512 s
  | none => zeros 512

/-- Lantern record x as REC_READ finds it: none: it does not exist; some none: overwritten. -/
def lanFind (s : State) (x : W32) : Option (Option Bytes) :=
  let l := s.recs.lseq
  let b := mramRead (lanAddr x) 64 s
  if l = 0xFFFFFFFF ∨ (l - x).toInt < 0 then none
  else if 2048 ≤ (l - x).toNat then some none
  else if u32 b 0x18 ≠ x.toNat then none
  else some (some b)

/-- Lantern records of a REC_READ: bytes in order, with the bad ones counted (Table 16-10). -/
def lanReadAll (d : HostDesc) (s : State) : State :=
  let n := d32 d 20
  let first : W32 := BitVec.ofNat 32 (d64 d 40)
  let fs := (List.range n).map fun i => lanFind s (first + BitVec.ofNat 32 i)
  if n > 2 ^ 31 ∨ d64 d 40 ≥ 2 ^ 32 ∨ fs.any (·.isNone) then finRec d stRANGE 0 s
  else if fs.any (· == some none) then finRec d stDROPPED 0 s
  else
    let bs := fs.filterMap fun f => f.join
    finRec d stOK n (toHost (dAddr d) bs.flatten (countN bREC 4 (bs.filter fun b => !lanValid b).length s))

/-- REC_READ (R471). Audit and history items are read from the NAND in REC slots. -/
def effRecRead (d : HostDesc) (s : State) : State :=
  let what := d8 d 16
  let n := d32 d 20
  let f := d64 d 40
  if what = 0 then lanReadAll d s
  else if what = 3 then finRec d stOK n (toHost (dAddr d) (mramRead 0x51000 64 s ++ tagData s) s)
  else if what > 3 then finRec d stRANGE 0 s
  else if !s.nvm.formatted || (what == 1 && !s.recs.afrozen) then finRec d stNOT_READY 0 s
  else
    let fin := if what = 1 then (s.recs.audEnd + 1).toNat else s.recs.hseqNext.toNat
    let low := if what = 1 then s.recs.audFirst.toNat else s.recs.hseqFirst.toNat
    if f + n > fin then finRec d stRANGE 0 s
    else if f < low then finRec d stDROPPED 0 s
    else if n = 0 then finRec d stOK 0 s
    else { s with recs := { s.recs with reads := s.recs.reads ++
        [{ desc := d, what := what, next := f, left := n, done := 0, addr := dAddr d }] } }

/-- AUD_FREEZE (R459). -/
def effAudFreeze (d : HostDesc) (s : State) : State :=
  let a := d8 d 16
  let n := d32 d 20
  if a = 0 then finRec d stOK 0 { s with recs := { s.recs with afrozen := false } }
  else if a = 1 ∧ 1 ≤ n ∧ n ≤ 3600000 then
    finRec d stOK 0 { s with recs := { s.recs with
      afrozen := true, afreezeEnd := s.sched.mfn + BitVec.ofNat 64 n,
      audEnd := if s.recs.afrozen then s.recs.audEnd else s.recs.audNext - 1 } }
  else finRec d stRANGE 0 s

/-- AUDIT_FREEZE_EXPIRY (R459): once FRAMES minor frames have passed. -/
def execAuditFreezeExpiry (s : State) : Host.Outcome State Fault Refusal :=
  .next (if s.sched.run && decide (s.sched.mfn.toNat < s.recs.afreezeEnd.toNat) then s
    else { s with recs := { s.recs with afrozen := false } })

/-- The audit block with the lowest logical index. -/
def firstAudBlk (s : State) : Option Nat :=
  ((s.nvm.blocks.filter fun kv => kv.2.part == 0 && kv.2.log != noLog).foldl
    (fun (m : Option (Nat × Nat)) kv =>
      match m with
      | some (l, _) => if kv.2.log.toNat < l then some (kv.2.log.toNat, kv.1) else m
      | none => some (kv.2.log.toNat, kv.1)) none).map (·.2)

/-- AUD_CLEAR (R460): the old log is discarded and the first record of the new one is created. -/
def clearLog (d : HostDesc) (s : State) : State :=
  let oc := leBytes 8 ((d.signed.getD 0).toNat)
  let data := oc ++ leBytes 6 s.recs.audFirst.toNat ++ leBytes 6 (s.recs.audNext - 1).toNat
  let s1 := lantern 0x1201 0 data s
  let first := firstAudBlk s1
  let marked := (s1.nvm.blocks.filter fun kv => kv.2.part == 0 && kv.2.log != noLog && decide (0 < kv.2.used) &&
    some kv.1 != first).map (·.1)
  let old := s1.recs.eraseQ.filter fun b => some b != first && !(marked.contains b)
  audPush 0x1201 0xFFFF 0 0 data { s1 with recs := { s1.recs with
    audPages := [], journal := [], audFirst := s1.recs.audNext, clearing := some d, clearProg := true,
    audBlk := first, eraseQ := first.toList ++ old ++ marked } }

def effAudClear (d : HostDesc) (s : State) : State :=
  if !s.nvm.formatted then finRec d stNOT_READY 0 s
  else if s.recs.afrozen || s.recs.clearing.isSome then finRec d stBUSY 0 s
  else clearLog d s

/-- LAN_THAW (R454): the first record after the thaw is 0x1202. -/
def effLanThaw (d : HostDesc) (s : State) : State :=
  if s.recs.lfrozen then
    finRec d stOK 0 (lantern 0x1202 0 (leBytes 8 ((d.signed.getD 0).toNat) ++ leBytes 4 s.recs.lfatal.toNat)
      { s with recs := { s.recs with lfrozen := false, lleft := none, lfatal := 0xFFFFFFFF } })
  else finRec d stNOT_READY 0 s

/-- HIST_WRITE (R468): the page waits for its program. -/
def effHistWrite (d : HostDesc) (s : State) : State :=
  if s.nvm.formatted then { s with recs := { s.recs with histQueue := s.recs.histQueue ++ [d] } }
  else finNvm d stNOT_READY 0 s

/-- TAG_WRITE (R470): the changed content goes to the other copy with TSEQ + 1. -/
def effTagWrite (d : HostDesc) (s : State) : State :=
  let o := d16 d 16
  let n := d16 d 18
  if s.nvm.tagLock then finNvm d stLOCKED 0 s
  else if n = 0 ∨ n > 512 ∨ o + n > 512 then finNvm d stRANGE 0 s
  else
    let c := tagCur s
    let data := patch (tagData s) o (slice d.buf 0 n)
    let q := leBytes 8 ((c.map (·.2)).getD 0 + 1)
    let k := match c with | some (k, _) => 1 - k | none => 0
    finNvm d stOK 0 (mramWrite (tagAddr k) (q ++ zeros 4 ++ leBytes 4 (crc32c (data ++ q)) ++ data) s)

/-- TAG_LOCK (R470). -/
def effTagLock (d : HostDesc) (s : State) : State :=
  if d8 d 16 ≤ 1 then
    finNvm d stOK 0 (if unlocked s then { s with nvm := { s.nvm with tagLock := d8 d 16 == 1 } } else s)
  else finNvm d stRANGE 0 s

/-- NVM_FORMAT (R467, R471): carried out by REC when no NAND operation and no clear is in progress. -/
def effNvmFormat (d : HostDesc) (s : State) : State :=
  if s.recs.afrozen || s.nvm.formatReq.isSome then finNvm d stBUSY 0 s
  else { s with nvm := { s.nvm with formatReq := some d } }

/-! ### Formatting (R467) -/

def ceilMul2pc (n : Nat) : Nat := n * 2 / 100

/-- AUDCAP for a count of good blocks. -/
def audCapFor (s : State) (good : Nat) : Nat :=
  let c := min 1048576 (good * Config.nandPages * pageData s / 2 / 128)
  c / max 1 (recsPerPage s) * recsPerPage s

/-- The entry of a block by its position among the good blocks: `na` audit blocks and `ra` reserve,
then `nh` history blocks and their reserve. -/
def formatBlk (old : NandBlk) (na ra nh i : Nat) : NandBlk :=
  let b : NandBlk := { erases := old.erases, reads := old.reads, used := old.used }
  if i < na then { b with log := BitVec.ofNat 32 i, part := 0 }
  else if i < na + ra then { b with st := bkRESERVE, part := 0 }
  else if i < na + ra + nh then { b with log := BitVec.ofNat 32 (i - na - ra), part := 1 }
  else { b with st := bkRESERVE, part := 1 }

/-- The NAND is formatted: both partitions are discarded, and the audit SEQ continues. -/
def formatNand (s : State) : State :=
  let all := List.range (s.nvm.geomBlocks.toNat + 1)
  let keep := fun b => !(Config.factoryBad b) && (nbGet s b).st != bkBAD_RUNTIME && (nbGet s b).st != bkWORN
  let good := all.filter keep
  let cap := audCapFor s good.length
  let na := ceilDiv cap (Config.nandPages * recsPerPage s)
  let ra := max 4 (ceilMul2pc na)
  let rest := good.length - na - ra
  let nh := rest - max 4 (ceilMul2pc rest)
  let ents := good.zipIdx.map fun p => (p.1, formatBlk (nbGet s p.1) na ra nh p.2)
  let bad := (all.filter fun b => !(keep b)).map fun b =>
    (b, if Config.factoryBad b then ({ st := bkBAD_FACTORY } : NandBlk) else { nbGet s b with log := noLog })
  let t := (ents ++ bad).foldl (fun t kv => tblPut t kv.1 kv.2 ({} : NandBlk)) []
  lantern 0x1301 1 (leBytes 8 Config.nandId.toNat ++ leBytes 4 cap)
    { s with
      nvm := { s.nvm with blocks := t, formatted := true, onfiId := Config.nandId, patrol := none,
                          passStart := optHours s, passEnd := optHours s },
      recs := { s.recs with
        audCap := BitVec.ofNat 32 cap, audPages := [], hist := [], hseqFirst := s.recs.hseqNext, copying := none,
        audFirst := (s.recs.journal.head?.map (·.seq)).getD s.recs.audNext, audBlk := none, histBlk := none,
        eraseQ := (ents.filter fun kv => decide (0 < kv.2.used)).map (·.1) } }

/-! ### The REC slot (R462) -/

/-- The erased page that takes the next program of a partition: in the current block, or the first page
of the next erased block in logical order. -/
def nextPage (s : State) (part : Byte) (cur : Option Nat) : Option Nat :=
  let free := fun b => !(s.recs.eraseQ.contains b)
  let here := match cur with
    | some b => let v := nbGet s b
                decide (v.used < Config.nandPages) && free b && (v.st == bkFREE || v.st == bkIN_USE)
    | none => false
  if here then cur
  else
    let l := match cur with | some b => (nbGet s b).log.toNat + 1 | none => 0
    let c := s.nvm.blocks.filter fun kv =>
      kv.2.part == part && kv.2.st == bkFREE && kv.2.log != noLog && kv.2.used == 0 && free kv.1
    let best := c.foldl (fun (m : Option (Nat × Nat)) kv =>
      let key := if kv.2.log.toNat ≥ l then kv.2.log.toNat else kv.2.log.toNat + 2 ^ 32
      match m with
      | some (k, _) => if key < k then some (key, kv.1) else m
      | none => some (key, kv.1)) none
    best.map (·.2)

/-- One more page of a block is programmed. -/
def usePage (b : Nat) (s : State) : State :=
  nbPut s b { nbGet s b with used := (nbGet s b).used + 1, st := bkIN_USE }

def startNand (op : NandOp) (kind blk page : Nat) (data : Bytes) (s : State) : State :=
  emit (.nand kind blk page data) { s with recs := { s.recs with op := some op } }

/-- The audit records that are due for a page program (R457, R460). -/
def audDue (s : State) : List AudRec :=
  if s.recs.clearProg then s.recs.journal.take 1
  else if s.recs.afrozen then []
  else if 0 < recsPerPage s ∧ recsPerPage s ≤ s.recs.journal.length then s.recs.journal.take (recsPerPage s)
  else []

/-- A page program: a refresh copy, audit records, a history page. -/
def startProgram (s : State) : Option State :=
  let copy := match s.recs.copying with
    | some j => if j.isRead then
        some (startNand (.copyProg j.src j.dst j.page) 0 j.dst (nbGet s j.dst).used [] (usePage j.dst s)) else none
    | none => none
  let aud := if (audDue s).isEmpty then none else
    (nextPage s 0 s.recs.audBlk).map fun b =>
      startNand (.audit b (audDue s)) 0 b (nbGet s b).used ((audDue s).map audBytes).flatten
        (usePage b { s with recs := { s.recs with audBlk := some b } })
  let hist := match s.recs.histQueue with
    | [] => none
    | d :: _ => (nextPage s 1 s.recs.histBlk).map fun b =>
        startNand (.history b s.recs.hseqNext.toNat d) 0 b (nbGet s b).used (slice d.buf 0 4096)
          (usePage b { s with recs := { s.recs with histBlk := some b } })
  copy <|> aud <|> hist

/-- The page that holds the next item of an audit or history read. -/
def pageOf (s : State) (r : RecRead) : Option (Nat × Nat) :=
  if r.what = 1 then
    (s.recs.audPages.find? fun p => p.recs.any fun x => x.seq.toNat == r.next).map fun p => (p.blk, p.page)
  else (s.recs.hist.find? fun kv => kv.1 == r.next).map fun kv => (kv.2.blk, kv.2.page)

/-- Items that a read takes from the journal. -/
def journalItems (s : State) (r : RecRead) : List AudRec :=
  (s.recs.journal.dropWhile fun x => x.seq.toNat < r.next).take r.left

def putRead (r : RecRead) (s : State) : State :=
  { s with recs := { s.recs with reads := match s.recs.reads with | [] => [] | _ :: q => r :: q } }
def dropRead (s : State) : State := { s with recs := { s.recs with reads := s.recs.reads.tail } }

/-- The first read at its next item: it ends from the journal, its items were discarded, or the NAND
page to read next. -/
def readProgress (s : State) : State :=
  match s.recs.reads with
  | [] => s
  | r :: _ =>
    match pageOf s r with
    | some _ => s
    | none =>
      if r.what = 1 ∧ (s.recs.journal.head?.map fun x => decide (x.seq.toNat ≤ r.next)) = some true then
        let l := journalItems s r
        dropRead (finRec r.desc stOK (r.done + l.length) (toHost r.addr (l.map audBytes).flatten s))
      else dropRead (finRec r.desc stDROPPED 0 s)

def startRead (s : State) : Option State :=
  let rd := match s.recs.reads with
    | r :: _ => (pageOf s r).map fun p => startNand (.read r.desc) 1 p.1 p.2 [] s
    | [] => none
  let cp := match s.recs.copying with
    | some j => if j.isRead then none else some (startNand (.copyRead j.src j.dst j.page) 1 j.src j.page [] s)
    | none => none
  rd <|> cp

/-- The history block with the oldest page, to be erased when the ring has no erased page ahead (R468). -/
def histVictim (s : State) : Option Nat :=
  if s.recs.histQueue.isEmpty || (nextPage s 1 s.recs.histBlk).isSome then none
  else (s.recs.hist.head?).map fun kv => kv.2.blk

/-- An erase starts: the pages of the block are gone. -/
def startEraseOf (b : Nat) (s : State) : State :=
  let h := s.recs.hist.filter fun kv => kv.2.blk != b
  startNand (.erase b) 2 b 0 [] { s with recs := { s.recs with
    eraseQ := s.recs.eraseQ.erase b, hist := h,
    hseqFirst := (h.head?.map fun kv => BitVec.ofNat 64 kv.1).getD s.recs.hseqNext } }

def startErase (s : State) : Option State :=
  match s.recs.eraseQ with
  | b :: _ => some (startEraseOf b s)
  | [] => (histVictim s).map fun b => startEraseOf b s

/-- The next programmed page from (block, page) on, for the patrol (R466). -/
def patrolNext (s : State) (b p : Nat) : Option (Nat × Nat) :=
  (s.nvm.blocks.find? fun kv => (decide (b < kv.1) && decide (0 < kv.2.used)) || (kv.1 == b && decide (p < kv.2.used))).map
    fun kv => (kv.1, if kv.1 = b then p else 0)

def startPatrol (s : State) : State :=
  let at_ := match s.nvm.patrol with
    | some x => some x
    | none => if s.nvm.passStart + 720 ≤ optHours s then some (0, 0) else none
  match at_ with
  | none => s
  | some (b, p) =>
    let ps := if s.nvm.patrol.isSome then s.nvm.passStart else optHours s
    match patrolNext s b p with
    | some (c, q) => startNand (.patrol c q) 3 c q [] { s with nvm := { s.nvm with patrol := some (c, q), passStart := ps } }
    | none => { s with nvm := { s.nvm with patrol := none, passStart := ps, passEnd := optHours s } }

/-- At most one new operation, in the order of preference of R462. -/
def startOp (s : State) : State :=
  if !(enOf s bREC) || !s.nvm.formatted then s
  else
    let s1 := copyStart (readProgress s)
    match startProgram s1 <|> startRead s1 <|> startErase s1 with
    | some t => t
    | none => startPatrol s1

/-- The read of a page for a REC_READ has arrived: its items go to the host, and an uncorrectable
codeword ends the read with PARTIAL (R463, R471). -/
def readArrived (page : Bytes) (cw : List (Option Nat)) (s : State) : State :=
  match s.recs.reads with
  | [] => s
  | r :: _ =>
    match pageOf s r with
    | none => s
    | some (b, _) =>
      let bad := cw.any (·.isNone)
      let recs := if r.what = 1 then
          ((s.recs.audPages.find? fun p => p.recs.any fun x => x.seq.toNat == r.next).map (·.recs)).getD [] else []
      let items := (recs.dropWhile fun x => x.seq.toNat < r.next).take r.left
      let skip := recs.length - (recs.dropWhile fun x => x.seq.toNat < r.next).length
      let n := if r.what = 1 then items.length else 1
      let good := if r.what = 1 then (items.map audBytes).flatten else (tblGet s.recs.hist r.next {}).data
      let bytes := if bad then (if r.what = 1 then slice page (128 * skip) (128 * n) else slice page 0 4096) else good
      let s1 := toHost r.addr bytes (pageRead b cw false s)
      if bad then dropRead (finRec r.desc stPARTIAL r.done s1)
      else if r.left ≤ n then dropRead (finRec r.desc stOK (r.done + n) s1)
      else putRead { r with next := r.next + n, left := r.left - n, done := r.done + n,
                            addr := r.addr + BitVec.ofNat 64 bytes.length } s1

/-- An erase ends well: ERASES rises, and the block is worn out at ENDUR, or exchanges roles with the
least erased reserve block of the history partition (R464, R468). -/
def eraseDone (b : Nat) (s : State) : State :=
  let v := nbGet s b
  let v1 := { v with erases := v.erases + 1, reads := 0, used := 0, refresh := false,
                     st := if v.st = bkRESERVE then v.st else bkFREE }
  if v1.erases.toNat ≥ 1000 * s.nvm.endur.toNat then
    replaceBlk b (count bNVM 2 (nbPut s b { v1 with st := bkWORN }))
  else
    let low := (s.nvm.blocks.filter fun kv => kv.2.part == 1 && kv.2.st == bkRESERVE && kv.2.used == 0).foldl
      (fun (m : Option (Nat × Nat)) kv =>
        match m with
        | some (e, _) => if kv.2.erases.toNat < e then some (kv.2.erases.toNat, kv.1) else m
        | none => some (kv.2.erases.toNat, kv.1)) none
    match low with
    | some (e, r) =>
      if v1.part = 1 ∧ v1.st = bkFREE ∧ v1.erases.toNat > e + 1000 then
        nbPut (nbPut s b { v1 with log := noLog, st := bkRESERVE }) r { nbGet s r with log := v1.log, st := bkFREE }
      else nbPut s b v1
    | none => nbPut s b v1

/-- A page program ends well. -/
def audProgrammed (b : Nat) (rs : List AudRec) (s : State) : State :=
  let s1 := { s with recs := { s.recs with
    audPages := s.recs.audPages ++ [({ blk := b, page := (nbGet s b).used - 1, recs := rs } : AudPage)],
    journal := s.recs.journal.drop rs.length } }
  if s1.recs.clearProg then
    let s2 := { s1 with recs := { s1.recs with clearProg := false, clearing := none } }
    match s1.recs.clearing with
    | some d => finRec d stOK 0 s2
    | none => s2
  else s1

def histProgrammed (b h : Nat) (d : HostDesc) (s : State) : State :=
  finNvm d stOK h { s with recs := { s.recs with
    hist := tblPut s.recs.hist h { blk := b, page := (nbGet s b).used - 1, data := slice d.buf 0 4096 } {},
    hseqNext := BitVec.ofNat 64 (h + 1), histQueue := s.recs.histQueue.tail } }

def copyProgrammed (src page : Nat) (s : State) : State :=
  match s.recs.copying with
  | none => s
  | some j =>
    if (nbGet s src).used ≤ page + 1 then copyDone j s
    else { s with recs := { s.recs with copying := some { j with page := page + 1, isRead := false } } }

/-- The page and the codewords of a read report. -/
def pageBytes : NandReport → Bytes
  | .read p _ => p
  | _ => []
def codewords : NandReport → List (Option Nat)
  | .read _ c => c
  | _ => []

/-- The operation in progress has ended with a report. -/
def endOp (op : NandOp) (r : NandReport) (s0 : State) : State :=
  let s := { s0 with recs := { s0.recs with op := none } }
  let bad := r == .failed
  match op with
  | .audit b rs => if bad then blkFailed b s else audProgrammed b rs s
  | .history b h d => if bad then blkFailed b s else histProgrammed b h d s
  | .copyProg src dst p =>
    if bad then blkFailed dst { s with recs := { s.recs with copying := none } } else copyProgrammed src p s
  | .read _ => readArrived (pageBytes r) (codewords r) s
  | .copyRead src dst p =>
    let s1 := pageRead src (codewords r) false s
    { s1 with recs := { s1.recs with copying := some { src := src, dst := dst, page := p, isRead := true } } }
  | .erase b => if bad then blkFailed b s else eraseDone b s
  | .patrol b p =>
    let s1 := pageRead b (codewords r) true s
    { s1 with nvm := { s1.nvm with patrol := some (b, p + 1) } }

/-- A format that was asked for, once no operation and no clear is in progress. -/
def formatDue (s : State) : State :=
  match s.nvm.formatReq with
  | some d =>
    if s.recs.clearing.isNone then
      let s1 := formatNand { s with nvm := { s.nvm with formatReq := none } }
      finNvm d stOK 0 s1
    else s
  | none => s

/-- REC_SLOT (R462). -/
def execRecSlot (r : NandReport) (s : State) : Host.Outcome State Fault Refusal :=
  .next (
    if frozenM s 23 then s
    else match s.recs.op with
    | none => startOp (formatDue s)
    | some op => if r == .busy then s else startOp (formatDue (endOp op r s)))

def execRecRead (d : HostDesc) (s : State) : Host.Outcome State Fault Refusal := .next (arrive effRecRead d s)
def execAudFreeze (d : HostDesc) (s : State) : Host.Outcome State Fault Refusal := .next (arrive effAudFreeze d s)
def execAudClear (d : HostDesc) (s : State) : Host.Outcome State Fault Refusal := .next (arrive effAudClear d s)
def execLanThaw (d : HostDesc) (s : State) : Host.Outcome State Fault Refusal := .next (arrive effLanThaw d s)
def execHistWrite (d : HostDesc) (s : State) : Host.Outcome State Fault Refusal := .next (arrive effHistWrite d s)
def execTagWrite (d : HostDesc) (s : State) : Host.Outcome State Fault Refusal := .next (arrive effTagWrite d s)
def execTagLock (d : HostDesc) (s : State) : Host.Outcome State Fault Refusal := .next (arrive effTagLock d s)
def execNvmFormat (d : HostDesc) (s : State) : Host.Outcome State Fault Refusal := .next (arrive effNvmFormat d s)

end Sys2Proof.Machine
end

