-- ==== Sys2Proof/Machine/Operands.lean ====
section
/-! DEFINITION. Operands of the instructions: general registers and predicates (R200), guards (R203), the
second operand and its immediate forms (Table 7-2), the data memory of a cell engine (R188, R216), and
the program position of an engine (R207, R208). -/

namespace Sys2Proof.Machine

def engGet (s : State) (e : Nat) : CellEng := tblGet s.cell.eng e {}
def engPut (s : State) (e : Nat) (c : CellEng) : State :=
  { s with cell := { s.cell with eng := tblPut s.cell.eng e c {} } }

/-- G0 reads 0 and P0 reads TRUE; writes to them are discarded (R200). -/
def gRead (t : Tbl W64) (i : BitVec 6) : W64 := if i = 0 then 0 else tblGet t i.toNat 0
def gWrite (t : Tbl W64) (i : BitVec 6) (v : W64) : Tbl W64 := if i = 0 then t else tblPut t i.toNat v 0
def pRead (t : Tbl Bool) (i : BitVec 4) : Bool := if i = 0 then true else tblGet t i.toNat false
def pWrite (t : Tbl Bool) (i : BitVec 4) (v : Bool) : Tbl Bool := if i = 0 then t else tblPut t i.toNat v false

def getG (c : Core) (s : State) (i : BitVec 6) : W64 :=
  match c with
  | .cell e => gRead (engGet s e).g i
  | .mc1 => gRead s.mc1.g i

def setG (c : Core) (i : BitVec 6) (v : W64) (s : State) : State :=
  match c with
  | .cell e => engPut s e { engGet s e with g := gWrite (engGet s e).g i v }
  | .mc1 => { s with mc1 := { s.mc1 with g := gWrite s.mc1.g i v } }

def getP (c : Core) (s : State) (i : BitVec 4) : Bool :=
  match c with
  | .cell e => pRead (engGet s e).p i
  | .mc1 => pRead s.mc1.p i

def setP (c : Core) (i : BitVec 4) (v : Bool) (s : State) : State :=
  match c with
  | .cell e => engPut s e { engGet s e with p := pWrite (engGet s e).p i v }
  | .mc1 => { s with mc1 := { s.mc1 with p := pWrite s.mc1.p i v } }

/-- The guard: P[GP], negated when GN = 1 (R203). -/
def guardOk (x : Ctl) (s : State) : Bool := getP x.core s x.gp != x.gn

/-- The 32 low bits sign-extended (R212). -/
def sext32 (v : W64) : W64 := (v.truncate 32).signExtend 64

/-- The second operand: register B, or IMM32 sign-extended (Table 7-2). With W = 1 only the low 32 bits count. -/
def srcVal (c : Core) (s : State) : Src → W64
  | .reg b => getG c s b
  | .imm v => v.signExtend 64

/-- The second operand of CMP: register B, or IMM16 sign-extended. -/
def src16Val (c : Core) (s : State) : Src16 → W64
  | .reg b => getG c s b
  | .imm v => v.signExtend 64

/-- The width of an integer operation. -/
def wid (w : Bool) : Nat := if w then 32 else 64

/-- An integer result at its width, written sign-extended (R212). -/
def intRes (w : Bool) (v : Int) : W64 := if w then (BitVec.ofInt 32 v).signExtend 64 else BitVec.ofInt 64 v

/-- An operand as unsigned and as signed number at the width. -/
def uval (w : Bool) (v : W64) : Nat := if w then v.toNat % 2 ^ 32 else v.toNat
def sval (w : Bool) (v : W64) : Int := if w then sint 32 v.toNat else v.toInt

/-- The binary format of W. -/
def fmtOf (w : Bool) : Fmt := if w then fmt32 else fmt64

/-- A floating operand's bits: bits 31:0 with W = 1 (R200). -/
def fval (w : Bool) (v : W64) : Nat := if w then v.toNat % 2 ^ 32 else v.toNat

/-! ### Data memory of a cell engine -/

def sizeOf (sz : BitVec 2) : Nat := 2 ^ sz.toNat

/-- A loaded value, zero-extended or sign-extended (R216). -/
def extLoad (sz : BitVec 2) (sx : Bool) (v : Nat) : W64 :=
  if sx then BitVec.ofInt 64 (sint (8 * sizeOf sz) v) else BitVec.ofNat 64 v

/-- The address of a cell's LD or ST: modulo 262,144, aligned down (R216). -/
def cellAddr (a : W64) (imm : W32) (sz : BitVec 2) : Nat :=
  let x := (a + imm.signExtend 64).toNat % 262144
  x - x % sizeOf sz

def cellLoad (c : CellEng) (a n : Nat) : Nat := leNat (tblRange c.data a n 0)

/-- Whether a program may store at the address: the variable area (R188). -/
def cellStorable (c : CellEng) (a n : Nat) : Bool :=
  decide (0x100 + c.constLen ≤ a) && decide (a + n ≤ 0x100 + c.constLen + c.varLen)

/-! ### The program position -/

/-- The position after the instruction at `p`, through the loop levels that end with it (R208). -/
def loopNext : List LoopLevel → Nat → List LoopLevel × Nat
  | [], p => ([], p + 1)
  | l :: r, p =>
    if p = l.last then
      (if l.left > 1 then ({ l with left := l.left - 1, idx := l.idx + 1 } :: r, l.first) else loopNext r p)
    else (l :: r, p + 1)

/-- The core of a debug boot that DBGCTL halts: 1 MC1, 2 + e CELL_e (R409). -/
def halted (s : State) (t : Nat) : Bool := s.sec.debug && s.sec.dbgCtl.getLsbD 8 && s.sec.dbgCtl.toNat % 16 == t

/-- An engine executes: a cell in a program cycle and not frozen; MC1 neither frozen, waiting, nor between contexts. -/
def coreRuns (c : Core) (s : State) : Bool :=
  match c with
  | .cell e => (engGet s e).inCyc && !frozenM s (2 + e) && !halted s (2 + e)
  | .mc1 => !frozenM s 1 && !s.mc1.waiting && s.mc1.entry.isNone && s.mc1.exitLeft.isNone && !halted s 1

/-- Before the effect: MC1's PC moves to the next instruction and its cycles begin. -/
def preStep (c : Core) (cyc : Nat) (s : State) : State :=
  match c with
  | .cell _ => s
  | .mc1 => { s with mc1 := { s.mc1 with pc := s.mc1.pc + 8, busy := cyc, fresh := false } }

/-- After the effect: a cell's position moves on and its cycles are counted (R202, R209). -/
def postStep (c : Core) (cyc : Nat) (s : State) : State :=
  match c with
  | .mc1 => s
  | .cell e =>
    let g := engGet s e
    let n := loopNext g.loops g.pos
    engPut s e { g with loops := n.1, pos := n.2, used := g.used + cyc, busy := cyc }

/-- One instruction: its cycles pass whatever its guard; its effect needs the guard (R202, R203). -/
def insnBody (x : Ctl) (cyc : Nat) (eff : State → State) (s : State) : State :=
  if coreRuns x.core s then
    let s1 := preStep x.core cyc s
    postStep x.core cyc (if guardOk x s then eff s1 else s1)
  else s

def insn (x : Ctl) (cyc : Nat) (eff : State → State) (s : State) : Host.Outcome State Fault Refusal :=
  .next (insnBody x cyc eff s)

end Sys2Proof.Machine
end

