-- ==== Sys2Proof/Machine/Flags.lean ====
section
/-! DEFINITION. The arithmetic flags (R215, Table 7-7): sticky, gathered in AFLACC for a cell engine
(Table 7-14), and integer divisions by zero of cell programs counted in CELL.CNT[7] (R212). -/

namespace Sys2Proof.Machine

def getAfl (c : Core) (s : State) : BitVec 7 :=
  match c with
  | .cell e => (engGet s e).afl
  | .mc1 => s.mc1.afl

/-- Flags are set and never cleared by an operation. -/
def orFlags (c : Core) (fl : BitVec 7) (s : State) : State :=
  match c with
  | .cell e =>
    let g := engGet s e
    countIf (fl.getLsbD 5) bCELL 7 (engPut s e { g with afl := g.afl ||| fl, aflAcc := g.aflAcc ||| fl })
  | .mc1 => { s with mc1 := { s.mc1 with afl := s.mc1.afl ||| fl } }

def clearFlags (c : Core) (s : State) : State :=
  match c with
  | .cell e => engPut s e { engGet s e with afl := 0 }
  | .mc1 => { s with mc1 := { s.mc1 with afl := 0 } }

/-- A result and its flags written back. -/
def wrBack (c : Core) (d : BitVec 6) (r : W64 × BitVec 7) (s : State) : State := orFlags c r.2 (setG c d r.1 s)

/-- The nearest limit of the signed range, with SAT (Table 7-6). -/
def satRes (w : Bool) (v : Int) : W64 × BitVec 7 :=
  let hi : Int := 2 ^ (wid w - 1) - 1
  let lo : Int := -(2 ^ (wid w - 1))
  if v > hi then (intRes w hi, flSAT) else if v < lo then (intRes w lo, flSAT) else (intRes w v, 0)

/-- A signed quotient (Table 7-6). -/
def divsRes (w : Bool) (a b : Int) : W64 × BitVec 7 :=
  let hi : Int := 2 ^ (wid w - 1) - 1
  let lo : Int := -(2 ^ (wid w - 1))
  if b = 0 then (intRes w (if a > 0 then hi else if a < 0 then lo else 0), flIDZ)
  else if a = lo ∧ b = -1 then (intRes w lo, flSAT)
  else (intRes w (Int.tdiv a b), 0)

def divuRes (w : Bool) (a b : Nat) : W64 × BitVec 7 :=
  if b = 0 then (intRes w (-1), flIDZ) else (intRes w (a / b : Nat), 0)

def remsRes (w : Bool) (a b : Int) : W64 × BitVec 7 :=
  if b = 0 then (intRes w a, flIDZ) else (intRes w (Int.tmod a b), 0)

def remuRes (w : Bool) (a b : Nat) : W64 × BitVec 7 :=
  if b = 0 then (intRes w a, flIDZ) else (intRes w (a % b : Nat), 0)

/-- A floating result: bits 63:32 written 0 with W = 1 (R213). -/
def fres (r : Nat × BitVec 7) : W64 × BitVec 7 := (BitVec.ofNat 64 r.1, r.2)

/-- The outcome of an integer comparison (Table 7-3). -/
def cmpRes (w : Bool) (cc : IntCC) (a b : W64) : Bool :=
  match cc with
  | .eq => uval w a == uval w b
  | .ne => uval w a != uval w b
  | .lt => decide (sval w a < sval w b)
  | .ge => decide (sval w b ≤ sval w a)
  | .ltu => decide (uval w a < uval w b)
  | .geu => decide (uval w b ≤ uval w a)
  | .le => decide (sval w a ≤ sval w b)
  | .gt => decide (sval w b < sval w a)
  | .leu => decide (uval w a ≤ uval w b)
  | .gtu => decide (uval w b < uval w a)
  | .bits => uval w (a &&& b) != 0
  | .nbits => uval w (a &&& b) == 0

/-- The outcome of a floating comparison (Table 7-3). A signalling NaN raises NV (R213). -/
def fcmpRes (f : Fmt) (cc : FltCC) (a b : Nat) : Bool × BitVec 7 :=
  let o := fcmp f a b
  (match cc with
   | .eq => o == some .eq
   | .ne => o != some .eq
   | .lt => o == some .lt
   | .ge => o == some .gt || o == some .eq
   | .le => o == some .lt || o == some .eq
   | .gt => o == some .gt
   | .un => o == none
   | .or => o != none,
   nvIf (isSNaN (fdec f a) || isSNaN (fdec f b)))

/-- The two predicates of a comparison; the write of PD wins where both name one predicate (R516). -/
def setPreds (c : Core) (pd pe : BitVec 4) (r : Bool) (s : State) : State := setP c pd r (setP c pe (!r) s)

end Sys2Proof.Machine
end

