-- ==== Sys2Proof/Machine/Mc1Ops.lean ====
section
/-! DEFINITION. MC1's program status, its context frames, vectors and faults (R224 to R227, Tables 7-8 to
7-11). -/

namespace Sys2Proof.Machine

def mc1Code : Nat := 0x1E00000000
def mc1Data : Nat := 0x1E00100000
def mc1FSave : Nat := 0x1E0017FFC0
/-- The end of MC1's data memory: 512 KiB. -/
def mc1DataEnd : Nat := 0x1E00180000

/-- PSR as MRS reads it (Table 7-10). -/
def psrOf (m : Mc1) : W64 :=
  BitVec.ofNat 64 (b2n m.ie * 2 ^ 36 + m.pmask.toNat * 2 ^ 32 + m.cpri.toNat * 2 ^ 24 + m.afl.toNat * 2 ^ 16 +
    ((List.range 16).map fun i => if pRead m.p (BitVec.ofNat 4 i) then 2 ^ i else 0).sum)

/-- The predicates of a PSR value. -/
def predsOf (v : Nat) : Tbl Bool :=
  (List.range 15).filterMap fun i => if v.testBit (i + 1) then some (i + 1, true) else none

/-- PSR taken whole, with CPRI as given. -/
def psrSet (m : Mc1) (v : W64) (cpri : BitVec 5) : Mc1 :=
  { m with ie := bit v.toNat 36, pmask := BitVec.ofNat 4 (v.toNat / 2 ^ 32), cpri := cpri,
           afl := BitVec.ofNat 7 (v.toNat / 2 ^ 16), p := predsOf v.toNat }

/-- The context frame: PC of the next instruction, PSR and G1 to G6 (R228). -/
def frameOf (m : Mc1) : Bytes :=
  leBytes 8 m.pc.toNat ++ leBytes 8 (psrOf m).toNat ++
    ((List.range 6).map fun i => leBytes 8 (gRead m.g (BitVec.ofNat 6 (i + 1))).toNat).flatten

/-- G1 to G6 of a frame. -/
def frameG (g : Tbl W64) (f : Bytes) : Tbl W64 :=
  (List.range 6).foldl (fun t i => gWrite t (BitVec.ofNat 6 (i + 1)) (BitVec.ofNat 64 (u64 f (16 + 8 * i)))) g

/-- PC, PSR and G1 to G6 taken from a frame (Table 7-13). -/
def frameTake (m : Mc1) (f : Bytes) : Mc1 :=
  let m1 := psrSet m (BitVec.ofNat 64 (u64 f 8)) (BitVec.ofNat 5 (u64 f 8 / 2 ^ 24))
  { m1 with pc := BitVec.ofNat 64 (u64 f 0), g := frameG m1.g f }

/-- Bytes of MC1's data memory by fabric address. -/
def mdRead (m : Mc1) (a n : Nat) : Bytes := tblRange m.data (a - mc1Data) n 0
def mdWrite (m : Mc1) (a : Nat) (b : Bytes) : Mc1 := { m with data := tblPutAll m.data (a - mc1Data) b 0 }
def inData (a n : Nat) : Bool := decide (mc1Data ≤ a) && decide (a + n ≤ mc1DataEnd)

/-- The vector of index v (Table 7-11): the doubleword at VBASE + 8 × v, in the code memory or, above its end, in the
data memory (R227). -/
def vectorOf (m : Mc1) (v : Nat) : W64 :=
  let a := m.vbase.toNat + 8 * v
  BitVec.ofNat 64 (leNat (if a < mc1Data then tblRange m.code (a - mc1Code) 8 0 else mdRead m a 8))

/-- The vectors of the faults (Table 7-11). -/
def vILLEGAL : Nat := 512
def vALIGN : Nat := 513
def vACCESS : Nat := 514
def vSTACK : Nat := 515
def vRESET : Nat := 516

/-- A fault taken at the boundary after the faulting instruction (R227): the frame goes to FSAVE and the
handler is entered at priority 16; in the fault handler itself MC1 is frozen. PC already names the next
instruction, and `at_` is the faulting one. -/
def mc1Fault (vec : Nat) (at_ : W64) (s : State) : State :=
  if s.mc1.cpri = 16 then freeze 1 czFAULT at_.toNat 0 s
  else
    let m := mdWrite s.mc1 mc1FSave (frameOf s.mc1)
    { s with mc1 := { m with cpri := 16, pc := vectorOf m vec } }

/-- An instruction that is not valid in the supervisor profile (R205, R227). -/
def illegal (x : Ctl) (s : State) : Host.Outcome State Fault Refusal :=
  match x.core with
  | .cell _ => .next s
  | .mc1 =>
    .next (if coreRuns .mc1 s then mc1Fault vILLEGAL s.mc1.pc (preStep .mc1 1 s) else s)

/-- An instruction of both profiles whose encoding is valid only when `ok` holds (R205). -/
def insnIf (ok : Bool) (x : Ctl) (cyc : Nat) (eff : State → State) (s : State) : Host.Outcome State Fault Refusal :=
  if ok then insn x cyc eff s else illegal x s

/-- An instruction of the supervisor profile only: no effect on a cell engine, whose code cannot hold it (R211). -/
def insnS (x : Ctl) (cyc : Nat) (eff : State → State) (s : State) : Host.Outcome State Fault Refusal :=
  match x.core with
  | .mc1 => insn x cyc eff s
  | .cell _ => .next s

/-- An instruction of the cell profile only: ILLEGAL on MC1. -/
def insnC (x : Ctl) (cyc : Nat) (eff : Fin 8 → State → State) (s : State) : Host.Outcome State Fault Refusal :=
  match x.core with
  | .cell e => insn x cyc (eff e) s
  | .mc1 => illegal x s

/-- MC1 as after reset: PC from the reset vector, registers at their reset values, memories kept (R225). -/
def mc1Restart (m : Mc1) : Mc1 :=
  let m0 : Mc1 := { code := m.code, data := m.data }
  { m0 with pc := vectorOf m0 vRESET }

end Sys2Proof.Machine
end

