-- ==== Sys2Proof/Machine/Points.lean ====
section
/-! DEFINITION. The process image: the snapshot and commit windows (R175, R176), forcing (R179) and the
point descriptors (R195 to R197). -/

namespace Sys2Proof.Machine

/-- The statuses that CELL.CNT[5] counts (R194). -/
def cellCounted : List Nat := [stRANGE, stNOT_READY, stBUSY, stCAPACITY]
def finCell (d : HostDesc) (st data : Nat) (s : State) : State := finish bCELL 5 cellCounted d st data s

/-! ### Forces -/

/-- One PT_FORCE record at its snapshot window (R179); the flag says whether it was applied. -/
def applyForce (s : State) (r : ForceRec) : State × Bool :=
  let p := workPt s r.point
  if p.typ = 0 then (count bCELL 2 s, false)
  else if r.force then
    let s1 := { s with pimg := { s.pimg with released := tblPut s.pimg.released r.point false false } }
    (workSet s1 r.point r.value qFORCED, true)
  else if p.qual = qFORCED then
    let s1 := workSet s r.point p.value qSUBST
    (if p.cls = 0 then { s1 with pimg := { s1.pimg with released := tblPut s1.pimg.released r.point true false } } else s1, true)
  else (s, true)

def applyRecs : List ForceRec → State → Nat → State × Nat
  | [], s, n => (s, n)
  | r :: rs, s, n =>
    let a := applyForce s r
    applyRecs rs a.1 (if a.2 then n + 1 else n)

/-- One PT_FORCE descriptor is applied and completes (R197). -/
def applyBatch (s : State) (b : ForceBatch) : State :=
  let a := applyRecs b.recs s 0
  if a.2 = b.recs.length then complete b.desc stOK 0 a.1 else complete b.desc stPARTIAL a.2 a.1

/-! ### The merge and the freeze of the copy -/

/-- The merge of one staging entry (R175). -/
def mergeEntry (s : State) (e : Nat) : State :=
  let g := tblGet s.pimg.staging e {}
  let p := workPt s g.point
  if frozenM s p.owner.toNat then s
  else
    let rel := tblGet s.pimg.released g.point false
    let s1 :=
      if p.qual = qFORCED ∨ p.typ = 0 then s
      else
        let s2 := workSet s g.point (if g.isNew || rel then g.value else p.value) (BitVec.ofNat 3 g.qual.toNat)
        if g.isNew || rel then { s2 with pimg := { s2.pimg with released := tblPut s2.pimg.released g.point false false } } else s2
    { s1 with pimg := { s1.pimg with staging := tblPut s1.pimg.staging e { g with isNew := false } {} } }

def mergeAll (s : State) : State := (List.range s.pimg.nstage).foldl mergeEntry s

/-- Points of a frozen owner that take BAD (Table 6-6). -/
def ownerBad (s : State) (p : Point) : Bool :=
  frozenM s p.owner.toNat &&
    ((decide (2 ≤ p.owner.toNat) && decide (p.owner.toNat ≤ 14) && (p.cls == 1 || p.cls == 2)) ||
     (decide (18 ≤ p.owner.toNat) && decide (p.owner.toNat ≤ 21) && p.cls == 0))

def markBad (s : State) : State :=
  { s with pimg := { s.pimg with working := s.pimg.working.map fun kv =>
      (kv.1, if ownerBad s kv.2 && kv.2.qual != qFORCED then ptSet kv.2 kv.2.value qBAD s.sched.mfn else kv.2) } }

/-- A record as the frozen copy takes it: STAMP changes only with VALUE or QUAL in that copy (R177). -/
def freezePt (old : Tbl Point) (mfn : W64) (kv : Nat × Point) : Nat × Point :=
  let o := tblGet old kv.1 pointUndef
  (kv.1, { kv.2 with stamp := if o.value = kv.2.value ∧ o.qual = kv.2.qual then o.stamp else BitVec.ofNat 32 mfn.toNat })

def takeSnapshot (s : State) : State :=
  { s with pimg := { s.pimg with frozen := s.pimg.working.map (freezePt s.pimg.frozen s.sched.mfn),
                                 pisnap := s.sched.mfn, openSpan := true, snapDone := true,
                                 forces := if drives s then [] else s.pimg.forces } }

/-- A PT_READ of the input view whose first record HIF has read: a snapshot window overlaps it (R195). -/
def overlapped (r : CopyRun) : Bool := dOp r.desc == 0x10 && d8 r.desc 16 == 0 && r.begun

/-- SNAPSHOT (R175), once in a minor frame (R21): forces and releases, the staging merge, BAD for frozen owners, and the frozen copy.
On a unit that does not drive the field the window passes without a merge (R415). The open span runs from its end to COMMIT_AT (R172). -/
def execSnapshot (s : State) : Host.Outcome State Fault Refusal :=
  .next (if s.sched.run && !s.pimg.snapDone then
      spoil overlapped (takeSnapshot (if drives s then markBad (mergeAll (s.pimg.forces.foldl applyBatch s)) else s))
    else s)

/-- COMMIT (R176), once in a minor frame and after its snapshot (R21): the committed outputs of the frame start, and
the open span ends. -/
def execCommit (s : State) : Host.Outcome State Fault Refusal :=
  .next (if s.sched.run && s.pimg.openSpan then
    { s with pimg := { s.pimg with picmt := s.sched.mfn, openSpan := false,
                                   committedOnce := s.pimg.committedOnce || drives s } }
  else s)

/-! ### Descriptors -/

/-- The 16 bytes of a point record (Table 6-1). -/
def ptBytes (p : Point) : Bytes :=
  leBytes 8 p.value.toNat ++ [BitVec.ofNat 8 p.qual.toNat, p.typ, p.cls, p.owner] ++ leBytes 4 p.stamp.toNat

/-- HIF has read the last record: the copy is written, or lost to a snapshot window (R195). -/
def ptReadEnd (r : CopyRun) (s : State) : State :=
  let d := r.desc
  let n := d32 d 24
  if r.spoiled then complete d stDROPPED 0 (count bCELL 6 s)
  else
    finCell d stOK (16 * n)
      (toHost (dAddr d) (((List.range n).map fun i => ptBytes (readPt s 17 (d8 d 16 == 1) (d32 d 20 + i))).flatten) s)

def effPtRead (d : HostDesc) (s : State) : State :=
  let n := d32 d 24
  let first := d32 d 20
  if d8 d 16 > 1 ∨ n = 0 ∨ first + n > 131072 then finCell d stRANGE 0 s
  else guarded 17 (if d8 d 16 = 0 then viewIn first else viewOut first) (16 * n) false
    (copyTry ptReadEnd (n == 1) { desc := d }) s

/-- Record i of a PT_WRITE or PT_FORCE buffer: point, second field, value. -/
def ptRec (b : Bytes) (i : Nat) : Nat × Nat × W64 :=
  (u32 b (16 * i), u8 b (16 * i + 4), BitVec.ofNat 64 (u64 b (16 * i + 8)))

def ptRecs (b : Bytes) (n : Nat) : List (Nat × Nat × W64) := (List.range n).map (ptRec b)

/-- A record of PT_WRITE is invalid (R196). -/
def ptWriteBad (s : State) (r : Nat × Nat × W64) : Bool :=
  let p := workPt s r.1
  p.typ == 0 || p.owner != 17 || !(r.2.1 == 0 || r.2.1 == 4)

def ptWriteAll (rs : List (Nat × Nat × W64)) (s : State) : State :=
  rs.foldl (fun s r => if frozenM s 17 then s
    else guarded 17 (viewOut r.1) 16 true (pointWrite 17 r.1 r.2.2 r.2.1) s) s

def effPtWrite (d : HostDesc) (s : State) : State :=
  let n := d32 d 20
  let rs := ptRecs d.buf n
  if n = 0 ∨ n > 4096 ∨ d64 d 24 % 16 ≠ 0 then finCell d stRANGE 0 s
  else match firstIdx (ptWriteBad s) rs 0 with
    | some i => finCell d stRANGE i s
    | none =>
      inHostSlot d (fun s =>
        let s1 := ptWriteAll rs s
        if frozenM s1 17 then s1 else finCell d stOK 0 s1) s

/-- A record of PT_FORCE is invalid (R197): an undefined point or an ACTION above 1. -/
def ptForceBad (s : State) (r : Nat × Nat × W64) : Bool := (workPt s r.1).typ == 0 || decide (1 < r.2.1)

/-- The forced points after further records (R197). -/
def forcedAfter (f : List Nat) (rs : List ForceRec) : List Nat :=
  rs.foldl (fun f r => if r.force then (if f.contains r.point then f else r.point :: f) else f.filter (· != r.point)) f

def forcedNow (s : State) : List Nat := (s.pimg.working.filter fun kv => kv.2.qual == qFORCED).map (·.1)

def toForce (r : Nat × Nat × W64) : ForceRec := { point := r.1, force := r.2.1 == 1, value := r.2.2 }

def effPtForce (d : HostDesc) (s : State) : State :=
  let n := d32 d 20
  let rs := ptRecs d.buf n
  if n = 0 ∨ n > 1024 ∨ d64 d 24 % 16 ≠ 0 then finCell d stRANGE 0 s
  else match firstIdx (ptForceBad s) rs 0 with
    | some i => finCell d stRANGE i s
    | none =>
      let b := rs.map toForce
      let after := forcedAfter (s.pimg.forces.foldl (fun f x => forcedAfter f x.recs) (forcedNow s)) b
      if after.length > 1024 then finCell d stCAPACITY 0 s
      else { s with pimg := { s.pimg with forces := s.pimg.forces ++ [{ desc := d, recs := b }] } }

def execPtRead (d : HostDesc) (s : State) : Host.Outcome State Fault Refusal := .next (arrive effPtRead d s)
def execPtWrite (d : HostDesc) (s : State) : Host.Outcome State Fault Refusal := .next (arrive effPtWrite d s)
def execPtForce (d : HostDesc) (s : State) : Host.Outcome State Fault Refusal := .next (arrive effPtForce d s)

end Sys2Proof.Machine
end

