-- ==== Sys2Proof/Machine/Cells.lean ====
section
/-! DEFINITION. Program cycles and modes of the cell engines (R183 to R189, R207, R208), the cell
instructions of control, points, timers and edge detectors (R217 to R222), and the cell descriptors
(R198, R199). -/

namespace Sys2Proof.Machine

def slotAt (s : State) (i : Nat) : Option SlotE :=
  match s.sched.image with
  | none => none
  | some m => m.slots[i]?

def taskOf (g : CellEng) (t : Nat) : Option CellTask := g.tasks.find? fun k => k.task.toNat == t

def taskUpd (g : CellEng) (t : Nat) (f : CellTask → CellTask) : CellEng :=
  { g with tasks := g.tasks.map fun k => if k.task.toNat == t then f k else k }

/-! ### Mode boundaries -/

/-- A requested mode takes effect at a cycle boundary; a change drops a waiting CELL_STEP, and STOP marks
the first cycle of every task (R186, R198). -/
def modeBoundary (e : Nat) (s : State) : State :=
  let g := engGet s e
  match g.req with
  | none => s
  | some m =>
    let g1 := { g with req := none, mode := m, step := if m = g.mode then g.step else none,
                       tasks := if m = 0 then g.tasks.map fun k => { k with first := true } else g.tasks }
    let s1 := engPut s e g1
    match g.step with
    | some d => if m = g.mode then s1 else complete d stDROPPED 0 s1
    | none => s1

/-- DATA of a skip record: engine, task, cause, count (Table 16-3). -/
def skipData (e t cause n : Nat) : Bytes := leBytes 1 e ++ leBytes 2 t ++ leBytes 1 cause ++ leBytes 4 n

/-- A skipped cycle (R184): cause 1 FROZEN, 2 INPUTS. -/
def skipCycle (e : Nat) (t : CellTask) (cause : Nat) (s : State) : State :=
  let g := engGet s e
  let g1 := taskUpd { g with skips := satInc g.skips, skipCause := BitVec.ofNat 8 cause, skipTask := t.task,
                             skipMfn := s.sched.mfn } t.task.toNat fun k => { k with skipped := satInc k.skipped }
  let s1 := irqEdge 214 (count bCELL 0 (engPut s e g1))
  if t.skipped = 0 then lantern 0x0401 1 (skipData e t.task.toNat cause 1) s1 else s1

/-- The control block (Table 6-9). -/
def controlBlock (mfn now cyc skipped task mode flags per dt : Nat) : Bytes :=
  leBytes 8 mfn ++ leBytes 8 now ++ leBytes 8 cyc ++ leBytes 4 skipped ++ leBytes 2 task ++ leBytes 1 mode ++
    leBytes 1 flags ++ leBytes 8 per ++ leBytes 8 dt ++ zeros 80

/-- The prologue of a program cycle (R189, R201, R207). -/
def startCycle (e : Nat) (t : CellTask) (period : Nat) (stepping : Bool) (s : State) : State :=
  let g := engGet s e
  let now := nowNs s
  let cb := controlBlock s.sched.mfn.toNat now.toNat t.cycles.toNat t.skipped.toNat t.task.toNat g.mode.toNat
    (b2n t.first + 2 * b2n t.switched + 4 * b2n stepping) (period * s.sched.frameL.toNat)
    (if t.first then 0 else (now - t.lastNow).toNat)
  let g1 := taskUpd { g with g := [], p := [], afl := 0, inCyc := true, stepping := stepping, task := t.task,
                             pos := t.entry, loops := [], used := 20, busy := 21, ending := false, now := now,
                             data := tblPutAll g.data 0 cb 0 }
    t.task.toNat fun k => { k with skipped := 0, lastNow := now, first := false, switched := false }
  let s1 := if t.skipped = 0 then s
    else lantern 0x0401 1 (skipData e t.task.toNat g.skipCause.toNat t.skipped.toNat) s
  engPut s1 e g1

/-- What the slot's start does for its engine, after the boundary (R183, R184, R187). -/
def slotCycle (e : Nat) (p : SlotE) (s : State) : State :=
  let g := engGet s e
  match taskOf g p.task with
  | none => s
  | some t =>
    if !enOf s bCELL || g.inCyc || !enginesRun s then s
    else if g.mode = 1 then
      if frozenM s (2 + e) then skipCycle e t 1 s
      else if !s.pimg.snapDone then skipCycle e t 2 s
      else startCycle e t p.period false s
    else if g.mode == 2 && (match g.step with | some d => d16 d 20 == p.task | none => false) then
      if frozenM s (2 + e) || !s.pimg.snapDone then s else startCycle e t p.period true s
    else s

/-- CELL_CYCLE (R183): an active slot of a cell engine starts. -/
def execCellCycle (slot : Nat) (s : State) : Host.Outcome State Fault Refusal :=
  .next (match slotAt s slot with
    | none => s
    | some p =>
      if 2 ≤ p.master ∧ p.master ≤ 9 ∧ slotActive p (mIndex s) ∧ s.sched.run then
        slotCycle (p.master - 2) p (modeBoundary (p.master - 2) s)
      else s)

/-! ### CELL_READ at an engine in no cycle (R199) -/

def cellReadDone (d : HostDesc) (s : State) : State :=
  let off := d32 d 20
  let len := d32 d 24
  if off + len > 262144 then finCell d stRANGE 0 s
  else finCell d stOK len (toHost (dAddr d) (tblRange (engGet s (d8 d 16)).data off len 0) s)

/-- The reads that wait are carried out once the engine is in no cycle. -/
def cellReadWaits (e : Nat) (s : State) : State :=
  let g := engGet s e
  if g.inCyc || g.reads.isEmpty then s
  else g.reads.foldl (fun s d => cellReadDone d s) (engPut s e { g with reads := [] })

/-! ### END, LOOP, LIDX -/

def unguarded (x : Ctl) : Bool := x.gp == 0 && !x.gn

/-- The program cycle ends (R207): counts, the step's completion, the mode boundary. -/
def endCycle (e : Nat) (s : State) : State :=
  let g := engGet s e
  let g1 := taskUpd { g with inCyc := false, ending := false, stepping := false, cycles := g.cycles + 1,
                             step := if g.stepping then none else g.step } g.task.toNat
    fun k => { k with cycles := k.cycles + 1 }
  let s1 := engPut s e g1
  let s2 := match g.stepping, g.step with
    | true, some d => complete d stOK s.sched.mfn.toNat s1
    | _, _ => s1
  cellReadWaits e (modeBoundary e s2)

def execIend (x : Ctl) (s : State) : Host.Outcome State Fault Refusal :=
  if unguarded x then insnC x 24 (fun e => endCycle e.val) s else illegal x s

/-- LOOP pushes a level over the next LEN instructions (R208). -/
def loopPush (e : Fin 8) (len : BitVec 15) (c : W16) (s : State) : State :=
  let g := engGet s e
  engPut s e { g with loops := { first := g.pos + 1, last := g.pos + len.toNat,
                                 left := if c = 0 then 65536 else c.toNat, idx := 0 } :: g.loops }

def execLoop (x : Ctl) (len : BitVec 15) (c : W16) (s : State) : Host.Outcome State Fault Refusal :=
  if unguarded x && len != 0 then insnC x 1 (fun e => loopPush e len c) s else illegal x s

def execLidx (x : Ctl) (d : BitVec 6) (level : BitVec 2) (s : State) : Host.Outcome State Fault Refusal :=
  insnC x 1 (fun e s => setG x.core d
    (match (engGet s e).loops[level.toNat]? with | some l => BitVec.ofNat 64 l.idx | none => 0) s) s

/-! ### Point instructions -/

/-- The value PLD gives for a record (R218). -/
def pldValue (p : Point) : W64 :=
  if p.typ = 2 then sext32 p.value
  else if p.typ = 3 ∨ p.typ = 6 then p.value &&& 0xFFFFFFFF
  else if p.typ = 1 then p.value &&& 1
  else p.value

/-- The point index PT + X as an unsigned 64-bit sum (R217). -/
def ptIndex (c : Core) (s : State) (xr : BitVec 6) (pt : BitVec 17) : Nat :=
  (getG c s xr + pt.zeroExtend 64).toNat

/-- The master number of an engine. -/
def coreMaster : Core → Nat
  | .cell e => 2 + e.val
  | .mc1 => 1

/-- An access of a point record by an engine: outside its windows a violation of a cell engine (R220) and ACCESS of MC1
(R224); a cell engine's access inside its windows but outside its slot is an OVERRUN (R65, R66). -/
def ptAccess (c : Core) (write : Bool) (addr : Nat) (ok : State → State) (s : State) : State :=
  let m := coreMaster c
  if inWindow s m addr 16 write then
    (match c with
     | .cell _ => if inSlotOf s m then ok s else freeze m czOVERRUN addr (curSlot s m) s
     | .mc1 => ok s)
  else
    match c with
    | .cell _ => freeze m (if write then czWINDOW_W else czWINDOW_R) addr (curSlot s m) s
    | .mc1 => mc1Fault vACCESS (s.mc1.pc - 8) s

def pldEff (x : Ctl) (d xr q : BitVec 6) (out : Bool) (pt : BitVec 17) (s : State) : State :=
  let i := ptIndex x.core s xr pt
  if i ≥ 131072 then setG x.core q (qBAD.zeroExtend 64) (setG x.core d 0 s)
  else
    ptAccess x.core false (if out then viewOut i else viewIn i) (fun s =>
      let r := readPt s (coreMaster x.core) out i
      setG x.core q (r.qual.zeroExtend 64) (setG x.core d (pldValue r) s)) s

def execPld (x : Ctl) (d xr q : BitVec 6) (out : Bool) (pt : BitVec 17) (s : State) : Host.Outcome State Fault Refusal :=
  insn x 20 (pldEff x d xr q out pt) s

def pstEff (x : Ctl) (d xr : BitVec 6) (q : Nat) (pt : BitVec 17) (s : State) : State :=
  let i := ptIndex x.core s xr pt
  if i ≥ 131072 then count bCELL 2 s
  else ptAccess x.core true (viewOut i) (fun s => pointWrite (coreMaster x.core) i (getG x.core s d) q s) s

def execPst (x : Ctl) (d xr : BitVec 6) (pt : BitVec 17) (s : State) : Host.Outcome State Fault Refusal :=
  insn x 4 (pstEff x d xr 0 pt) s

def execPstq (x : Ctl) (d xr q : BitVec 6) (pt : BitVec 17) (s : State) : Host.Outcome State Fault Refusal :=
  insn x 4 (fun s => pstEff x d xr ((getG x.core s q).toNat % 8) pt s) s

/-! ### Timers and edge detectors -/

/-- One evaluation of a timer (R221): the new instance, ET and Q. -/
def timerEval (t : Timer) (inp : Bool) (pt now : W64) : Timer × W64 × Bool :=
  let d0 : W64 := if now - t.start ≤ pt then now - t.start else pt
  let r : Timer × W64 × Bool :=
    if t.typ = 1 then
      if !inp then ({ t with run := false, q := false }, 0, false)
      else if !t.inPrev then ({ t with start := now, run := true, q := pt == 0 }, 0, pt == 0)
      else ({ t with q := d0 == pt }, d0, d0 == pt)
    else if t.typ = 2 then
      if inp then ({ t with run := false, q := true }, 0, true)
      else
        let t1 := if t.inPrev then { t with start := now, run := true } else t
        let d := if t.inPrev then 0 else d0
        let q := t1.run && decide (d < pt)
        ({ t1 with q := q, run := if d = pt then false else t1.run }, d, q)
    else
      if t.run then
        let q := decide (d0 < pt)
        ({ t with q := q, run := if d0 = pt then false else true }, d0, q)
      else if inp && !t.inPrev then
        let r := decide (0 < pt)
        ({ t with start := now, run := r, q := r }, 0, r)
      else ({ t with q := false }, if inp then pt else 0, false)
  ({ r.1 with inPrev := inp }, r.2.1, r.2.2)

def tmrEff (x : Ctl) (e : Fin 8) (d a : BitVec 6) (pi : BitVec 4) (ni : Bool) (pq : BitVec 4) (num : BitVec 12)
    (s : State) : State :=
  let g := engGet s e
  let r := timerEval (tblGet g.timers num.toNat {}) (getP x.core s pi != ni) (getG x.core s a) g.now
  setP x.core pq r.2.2 (setG x.core d r.2.1 (engPut s e { g with timers := tblPut g.timers num.toNat r.1 {} }))

def execTmr (x : Ctl) (d a : BitVec 6) (pi : BitVec 4) (ni : Bool) (pq : BitVec 4) (num : BitVec 12) (s : State) :
    Host.Outcome State Fault Refusal :=
  insnC x 6 (fun e => tmrEff x e d a pi ni pq num) s

/-- One evaluation of an edge detector (R222). -/
def edgeEval (t : EdgeDet) (inp : Bool) : EdgeDet × Bool :=
  ({ t with first := false, prev := inp },
   if t.first then false else if t.typ = 1 then inp && !t.prev else t.prev && !inp)

def edgeEff (x : Ctl) (e : Fin 8) (pi : BitVec 4) (ni : Bool) (pq : BitVec 4) (num : BitVec 12) (s : State) : State :=
  let g := engGet s e
  let r := edgeEval (tblGet g.edges num.toNat {}) (getP x.core s pi != ni)
  setP x.core pq r.2 (engPut s e { g with edges := tblPut g.edges num.toNat r.1 {} })

def execEdge (x : Ctl) (pi : BitVec 4) (ni : Bool) (pq : BitVec 4) (num : BitVec 12) (s : State) :
    Host.Outcome State Fault Refusal :=
  insnC x 3 (fun e => edgeEff x e pi ni pq num) s

/-! ### Descriptors -/

def cellsIn (s : State) (mask : Nat) : List Nat :=
  (List.range 8).filter fun e => bit mask e && holdsSlots s (2 + e)

/-- CELL_MODE (R198): the request of R186 for every engine in MASK that holds slots. -/
def effCellMode (d : HostDesc) (s : State) : State :=
  let m := d8 d 17
  let es := cellsIn s (d8 d 16)
  if m > 2 ∨ es.isEmpty then finCell d stRANGE 0 s
  else finCell d stOK 0 (es.foldl (fun s e => engPut s e { engGet s e with req := some (BitVec.ofNat 2 m) }) s)

/-- CELL_STEP (R198). -/
def effCellStep (d : HostDesc) (s : State) : State :=
  let e := d8 d 16
  let g := engGet s e
  if e > 7 then finCell d stRANGE 0 s
  else if g.mode ≠ 2 then finCell d stNOT_READY 0 s
  else if (taskOf g (d16 d 20)).isNone then finCell d stRANGE 0 s
  else if g.step.isSome || !g.reads.isEmpty then finCell d stBUSY 0 s
  else engPut s e { g with step := some d }

/-- CELL_READ (R199): in a stepped cycle it waits for the cycle's end. -/
def effCellRead (d : HostDesc) (s : State) : State :=
  let e := d8 d 16
  let g := engGet s e
  if e > 7 then finCell d stRANGE 0 s
  else if g.mode = 1 then finCell d stBUSY 0 s
  else if g.inCyc then engPut s e { g with reads := g.reads ++ [d] }
  else cellReadDone d s

def execCellMode (d : HostDesc) (s : State) : Host.Outcome State Fault Refusal := .next (arrive effCellMode d s)
def execCellStep (d : HostDesc) (s : State) : Host.Outcome State Fault Refusal := .next (arrive effCellStep d s)
def execCellRead (d : HostDesc) (s : State) : Host.Outcome State Fault Refusal := .next (arrive effCellRead d s)

end Sys2Proof.Machine
end

