-- ==== Sys2Proof/Machine/Can.lean ====
section
/-! DEFINITION. CANL: buffers, filters, error confinement, the frame seal, exchanges and joins
(10_field_links.md). -/

namespace Sys2Proof.Machine

def chGet (s : State) (n : Nat) : CanChan := tblGet s.canl.ch n {}
def chPut (s : State) (n : Nat) (v : CanChan) : State :=
  { s with canl := { s.canl with ch := tblPut s.canl.ch n v {} } }
def canCfg (s : State) (n : Nat) : CanCfg := tblGet s.canl.cfg n {}
def tmplOf (s : State) (k : Nat) : StnTmpl := tblGet s.canl.tmpl k {}
def stnGet (s : State) (k : Nat) : Station := tblGet s.canl.stn k {}
def stnPut (s : State) (k : Nat) (v : Station) : State :=
  { s with canl := { s.canl with stn := tblPut s.canl.stn k v {} } }
def txGet (c : CanChan) (b : Nat) : TxBuf := tblGet c.tx b {}
def txPut (c : CanChan) (b : Nat) (v : TxBuf) : CanChan := { c with tx := tblPut c.tx b v {} }
def bufGet (s : State) (n b : Nat) : TxBuf := txGet (chGet s n) b
def bufPut (s : State) (n b : Nat) (v : TxBuf) : State := chPut s n (txPut (chGet s n) b v)

/-- The states of Table 10-3. -/
def snEMPTY : BitVec 4 := 0
def snINIT : BitVec 4 := 1
def snJOINING : BitVec 4 := 2
def snONLINE : BitVec 4 := 3
def snSTALE : BitVec 4 := 4
def snBAD : BitVec 4 := 5

/-- A station is admitted. -/
def admitted (v : Station) : Bool := v.st == snONLINE || v.st == snSTALE || v.st == snBAD

/-- A channel in use, from CANL's first slot since EN = 1 (R35), and one that may drive the bus (R299). -/
def chanOn (s : State) (n : Nat) : Bool := runsEn s bCANL && (canCfg s n).en
def chanSends (s : State) (n : Nat) : Bool := chanOn s n && !(canCfg s n).monitor && drives s

/-- A channel at work: in use, or with a frame of its own still on the bus while CANL drains (R33). -/
def chanWorks (s : State) (n : Nat) : Bool := chanOn s n || (chGet s n).tx.any fun kv => kv.2.st == 2

/-- CANL.TSCNT: 80 MHz from the 1 GHz time base (R297). -/
def tscnt (s : State) : W32 := BitVec.ofNat 32 (s.time.tbc.toNat * 2 / 25)

/-- CANL.TSREF latches the counter at cycle 0, within one count: which is a free value (R297). -/
def latchTsref (s : State) : State :=
  let w := freeWord s
  { w.2 with canl := { w.2.canl with tsref := tscnt s + BitVec.ofNat 32 (w.1.toNat % 3) - 1 } }

/-! ### Identifiers and lengths -/

/-- The identifier of a 4-byte field and whether it is a 29-bit one. -/
def identOf (v : W32) : BitVec 29 × Bool := (BitVec.ofNat 29 v.toNat, v.getLsbD 31 || decide (0x7FF < v.toNat % 2 ^ 29))

/-- The identifier word of the seal (R304), and of SBUF and FIFOHD (Table 10-12). -/
def sealWord (f : CanFrame) : Nat := f.id.toNat + b2n f.ide * 2 ^ 29 + b2n f.fdf * 2 ^ 30
def idWord (f : CanFrame) : W32 := BitVec.ofNat 32 (sealWord f + b2n f.brs * 2 ^ 31)

def fdLens : List Nat := [0, 1, 2, 3, 4, 5, 6, 7, 8, 12, 16, 20, 24, 32, 48, 64]
/-- The data length of a DLC: at most 8 in a classical frame. -/
def lenOfDlc (fdf : Bool) (d : BitVec 4) : Nat := if fdf then fdLens.getD d.toNat 0 else min 8 d.toNat
def dlcOfLen (n : Nat) : Nat := (fdLens.findIdx? (· == n)).getD 0

/-! ### The frame seal (R303 to R306) -/

/-- The message of the tag. -/
def sealMsg (f : CanFrame) (ctx dir fv : Nat) : Bytes :=
  [0x01] ++ leBytes 4 (sealWord f) ++ leBytes 2 ctx ++ leBytes 1 dir ++ leBytes 7 fv ++
    leBytes 1 f.data.length ++ f.data.take (f.data.length - 7)

def sealTag (key : Bytes) (f : CanFrame) (ctx dir fv : Nat) : Bytes := (cmac key (sealMsg f ctx dir fv)).take 4

/-- A frame with its trailer, direction 0. -/
def sealed (key : Bytes) (f : CanFrame) (ctx fv : Nat) : CanFrame :=
  { f with data := f.data.take (f.data.length - 7) ++ leBytes 3 fv ++ sealTag key f ctx 0 fv }

/-- A frame is sealed for the station of a session; refused and counted while no key may be used (R412). -/
def sealTx (k : Nat) (f : CanFrame) (s : State) : Option CanFrame × State :=
  let e := sessGet s k
  if s.sec.snuffed || e.kind != 1 || e.st != 1 then (none, count bSEC 8 s)
  else
    let fv := e.fvTx + 1
    (some (sealed e.key f k fv.toNat), sessPut s k { e with fvTx := fv, uses := e.uses + 1 })

/-- The freshness candidate of R305. -/
def sealCand (last fvl : Nat) : Nat :=
  let c := last / 2 ^ 24 * 2 ^ 24 + fvl
  if c ≤ last then c + 2 ^ 24 else c

/-- The check of a received seal (R305): the new LAST, or none. -/
def sealCheck (e : Sess) (k : Nat) (f : CanFrame) : Option Nat :=
  let n := f.data.length
  let last := e.fvRx.toNat
  let c := sealCand last (leNat (slice f.data (n - 7) 3))
  if n < 8 ∨ !f.fdf ∨ c - last > 2 ^ 23 ∨ sealTag e.key2 f k 1 c ≠ f.data.drop (n - 4) then none else some c

/-- A received seal under session `k`: accepted with its new LAST, or dropped as a security failure (R305,
R412). -/
def sealRx (k : Nat) (f : CanFrame) (s : State) : Bool × State :=
  let e := sessGet s k
  let bad := { e with fails := satInc e.fails }
  if s.sec.snuffed then (false, count bCANL 4 s)
  else if e.kind ≠ 1 ∨ e.st ≠ 1 then (false, countIf (drives s) bCANL 4 s)
  else match sealCheck e k f with
    | some c => (true, sessPut s k { e with fvRx := BitVec.ofNat 56 c, uses := e.uses + 1 })
    | none => (false, count bCANL 4 (sessPut s k bad))

/-! ### Error confinement (R298, R299) -/

/-- The error state by the counters (ISO 11898-1), outside bus-off and recovery. -/
def errstOf (c : CanChan) : BitVec 2 := if c.tec.toNat > 127 ∨ c.recc.toNat > 127 then 1 else 0

/-- A channel enters bus-off. -/
def busOff (n : Nat) (c : CanChan) (s : State) : State :=
  irqEdge 200 (lantern 0x0A01 2 (leBytes 1 n ++ leBytes 2 c.tec.toNat ++ leBytes 1 c.recc.toNat)
    (count bCANL 1 (chPut s n { c with errst := if (canCfg s n).autorec then 3 else 2 })))

def canErrCode : CanErr → BitVec 3
  | .bit => 1
  | .stuff => 2
  | .form => 3
  | .crc => 4
  | .ack => 5

/-- What TEC rises by on a transmitter (ISO 11898-1): 8, but for an acknowledgement error of an error-passive node and a
stuff error in arbitration. -/
def tecRise (kind : CanErr) (at_ : CanErrAt) (c : CanChan) : BitVec 9 :=
  match at_ with
  | .frame => if kind = .ack ∧ c.errst = 1 then 0 else 8
  | .arbitration => if kind = .stuff then 0 else 8
  | .ownFlag | .afterFlag => 8

/-- What REC rises by on a receiver: 1 in a frame, 8 for a bit error within its own flag and a dominant bit after it. -/
def recRise (at_ : CanErrAt) : Nat :=
  match at_ with
  | .frame | .arbitration => 1
  | .ownFlag | .afterFlag => 8

/-- CAN_BUS_ERROR (R298): an error counts in CNT[0] and sets LASTERR; a dominant bit after the flag only moves TEC or REC.
A channel that drives no dominant bit leaves TEC (R299). -/
def execCanBusError (n : Fin 40) (err : CanFault) (transmitting : Bool) (s : State) :
    Host.Outcome State Fault Refusal :=
  .next (
    let met := err.place != .afterFlag
    let c := { chGet s n with lasterr := if met then canErrCode err.kind else (chGet s n).lasterr }
    if !chanWorks s n then s
    else
      let s1 := countIf met bCANL 0 (chPut s n c)
      if c.errst = 2 ∨ c.errst = 3 then s1
      else
        let c1 :=
          if transmitting then
            (if (canCfg s n).monitor || !drives s then c else { c with tec := c.tec + tecRise err.kind err.place c })
          else { c with recc := BitVec.ofNat 8 (min 255 (c.recc.toNat + recRise err.place)) }
        if c1.tec.toNat > 255 then busOff n c1 s1 else chPut s1 n { c1 with errst := errstOf c1 })

/-- BUS_OFF_RECOVERY (R298). -/
def execBusOffRecovery (n : Fin 40) (s : State) : Host.Outcome State Fault Refusal :=
  .next (
    let c := chGet s n
    if c.errst = 3 then chPut s n { c with tec := 0, recc := 0, errst := 0 } else s)

/-- A frame received without error lowers REC. -/
def recSuccess (n : Nat) (s : State) : State :=
  let c := chGet s n
  let c1 :=
    if c.recc = 0 then c
    else if c.recc.toNat ≤ 127 then { c with recc := c.recc - 1 }
    else { c with recc := BitVec.ofNat 8 (119 + (Config.recExcess s.free).val) }
  let s1 := if c.recc.toNat > 127 then { s with free := s.free + 1 } else s
  chPut s1 n { c1 with errst := errstOf c1 }

/-! ### Transmission (R300 to R302) -/

/-- New content for a transmit buffer (R300). -/
def loadBuf (n b : Nat) (f : CanFrame) (s : State) : State :=
  let x := bufGet s n b
  if x.st = 1 then count bCANL 5 (bufPut s n b { x with frame := some f, clate := false, late := false })
  else if x.st = 2 then
    let c := chGet s n
    chPut s n (txPut { c with cancelLate := true } b { x with reload := some f, late := true, clate := true })
  else bufPut s n b { x with frame := some f, st := 1, clate := false, late := false }

/-- A buffer's frame has ended with status `st`, or DROPPED when its station was removed: a reload takes its place
(R300, R80). -/
def bufEnd (x : TxBuf) (st : BitVec 3) : TxBuf :=
  match x.reload with
  | some f => { x with frame := some f, reload := none, st := 1, late := false, dropped := false }
  | none => { x with frame := none, st := if x.dropped then 5 else st, late := false, dropped := false }

/-- A cancellation (R301): before start of frame the buffer is CANCELLED, after it the cancellation is late. -/
def cancelBuf (n b : Nat) (s : State) : State :=
  let x := bufGet s n b
  if x.st = 1 then bufPut s n b { x with st := 4, frame := none, late := false }
  else if x.st = 2 then chPut s n (txPut { chGet s n with cancelLate := true } b { x with late := true, clate := true })
  else s

/-- The buffer of a removed station: a frame that has not started ends DROPPED, one on the bus when it ends (R80). -/
def dropBuf (n b : Nat) (s : State) : State :=
  let x := bufGet s n b
  if x.st = 1 then bufPut s n b { x with st := 5, frame := none, late := false }
  else if x.st = 2 then
    chPut s n (txPut { chGet s n with cancelLate := true } b { x with late := true, clate := true, reload := none, dropped := true })
  else s

/-- The reference message of a channel (R302, ISO 11898-4): its mark is filled in at start of frame. -/
def refFrame (g : CanCfg) (c : CanChan) (mark : Nat) : CanFrame :=
  let i := identOf g.refid
  { id := i.1, ide := i.2, fdf := false, brs := false, rtr := false, data := leBytes 2 c.cycle.toNat ++ leBytes 2 mark }

/-- The Master_Ref_Mark now: network time in units of NTU_NS (R302). -/
def refMark (s : State) (g : CanCfg) : Nat := (nowNs s).toNat / max 1 g.ntu % 65536

def isRef (s : State) (n b : Nat) : Bool := b == 0 && decide (n < 4) && (canCfg s n).refen

/-- START_OF_FRAME (R301): the pending frame becomes SENDING, takes its timestamp and goes out. -/
def execStartOfFrame (n : Fin 40) (b : Fin 64) (ts : W32) (s : State) : Host.Outcome State Fault Refusal :=
  .next (
    let c := chGet s n
    let x := txGet c b
    match x.frame with
    | none => s
    | some f =>
      if x.st = 1 ∧ chanSends s n ∧ (c.errst = 0 ∨ c.errst = 1) then
        let f0 := if isRef s n b then refFrame (canCfg s n) c (refMark s (canCfg s n)) else f
        let f1 := { f0 with esi := f0.fdf && c.errst == 1 }
        emit (.can n b f1) (bufPut s n b { x with st := 2, ts := ts, frame := some f1 })
      else s)

/-- A completed frame lowers TEC and, as a reference message, advances the cycle count. -/
def txSuccess (ref : Bool) (c : CanChan) : CanChan :=
  let c1 := { c with tec := if c.tec = 0 then 0 else c.tec - 1, cycle := if ref then c.cycle + 1 else c.cycle }
  { c1 with errst := if c.errst = 2 ∨ c.errst = 3 then c.errst else errstOf c1 }

/-- CAN_FRAME_END (R301). -/
def execCanFrameEnd (n : Fin 40) (b : Fin 64) (how : CanEnd) (s : State) : Host.Outcome State Fault Refusal :=
  .next (
    let c := chGet s n
    let x := txGet c b
    if x.st ≠ 2 then s
    else match how with
      | .completed => chPut s n (txPut (txSuccess (isRef s n b) c) b (bufEnd x 3))
      | _ => if x.late then bufPut s n b (bufEnd x 4) else bufPut s n b { x with st := 1 })

/-- The frame of a supervisor buffer as its words give it. -/
def sbufFrame (x : TxBuf) : CanFrame :=
  let fdf := x.idw.getLsbD 30
  { id := BitVec.ofNat 29 x.idw.toNat, ide := x.idw.getLsbD 29, fdf := fdf, brs := x.idw.getLsbD 31 && fdf, rtr := false,
    data := tblRange x.data 0 (lenOfDlc fdf x.dlc) 0 }

/-- A request to send a supervisor buffer: one with SEAL waits for its seal. -/
def requestBuf (n b : Nat) (s : State) : State :=
  let x := bufGet s n b
  if x.st = 1 ∨ x.st = 2 ∨ !chanOn s n then s
  else bufPut s n b { x with st := 1, clate := false, late := false, frame := if x.sealed then none else some (sbufFrame x) }

/-- The supervisor buffers that a byte of TXREQ or TXCAN names. -/
def sbufsOf (v : Byte) : List Nat := ((List.range 8).filter fun j => v.getLsbD j).map (· + 56)

/-- Writes of TXREQ and TXCAN. -/
def txreqOp (n : Nat) (v : Byte) (s : State) : State := (sbufsOf v).foldl (fun s b => requestBuf n b s) s
def txcanOp (n : Nat) (v : Byte) (s : State) : State := (sbufsOf v).foldl (fun s b => cancelBuf n b s) s

/-- A frame that can carry the seal trailer: an FD frame of at least 8 data bytes (R303). -/
def sealable (f : CanFrame) : Bool := f.fdf && decide (8 ≤ f.data.length)

/-- The transmit slot in progress claims the SEAL engine (R306). -/
def claimsSeal (s : State) : Bool := match slotNow s 18 with | some e => bit e.res 0 | none => false

/-- A pending supervisor buffer with SEAL takes its seal in a transmit slot (R306). One that cannot be sealed is not sent:
CANCELLED (log entry 78). -/
def sealSbuf (n : Nat) (s : State) (b : Nat) : State :=
  let x := bufGet s n b
  if x.st = 1 ∧ x.sealed ∧ x.frame.isNone then
    let r := if sealable (sbufFrame x) then sealTx x.ctx.toNat (sbufFrame x) s else (none, s)
    match r.1 with
    | some f => bufPut r.2 n b { x with frame := some f }
    | none => bufPut r.2 n b { x with st := 4 }
  else s

/-- A firing of REFTRIG loads the reference messages (R302). -/
def loadRefs (trig : Nat) (s : State) : State :=
  (List.range 4).foldl (fun s n =>
    let g := canCfg s n
    if g.refen ∧ g.reftrig = trig ∧ chanSends s n then loadBuf n 0 (refFrame g (chGet s n) 0) s else s) s

/-! ### Wire values (R320) -/

/-- A value on its way between a point and the wire: an integer exactly, or binary64. -/
inductive WVal where
  | int (i : Int)
  | flt (v : F64)
  deriving DecidableEq, Repr

/-- The bytes of a wire code. -/
def wireSize (w : Nat) : Nat := if w ≤ 2 then 1 else if w ≤ 4 then 2 else if w ≤ 7 then 4 else 8

/-- The bytes of a wire value as a number. -/
def wireRaw (le : Bool) (b : Bytes) (off w : Nat) : Nat :=
  let x := slice b off (wireSize w)
  if le then leNat x else beNat x

/-- The value read from the wire. -/
def fromWire (le : Bool) (b : Bytes) (e : MapEnt) : WVal :=
  let r := wireRaw le b e.off e.wire
  match e.wire with
  | 0 => .int (b2n (bit r e.bitNo))
  | 1 => .int (sint 8 r)
  | 3 => .int (sint 16 r)
  | 5 => .int (sint 32 r)
  | 7 => .flt (ofF32 (BitVec.ofNat 32 r))
  | 8 => .int (sint 64 r)
  | 10 => .flt (BitVec.ofNat 64 r)
  | _ => .int r

/-- An integer within a range, and whether it was clamped. A NaN gives 0 with BAD (R181). -/
def wvInt (lo hi : Int) : WVal → Int × Bool × Bool
  | .int i => if i < lo then (lo, false, true) else if hi < i then (hi, false, true) else (i, false, false)
  | .flt v =>
    if nanF v then (0, true, false)
    else
      let (i, fl) := fToInt fmt64 .nearest lo hi v.toNat
      (i, false, fl == flNV)

/-- The bits for a TYPE, whether they are BAD, whether the value was clamped (R181, R320). -/
def wvType (typ : Byte) (v : WVal) : W64 × Bool × Bool :=
  match v with
  | .int i =>
    if typ = 1 then (if i = 0 then 0 else 1, false, false)
    else if typ = 6 ∨ typ = 7 then f64ToType typ (ofIntF i)
    else
      let (lo, hi) := typeRange typ
      let r := wvInt lo hi v
      (typeBits typ (BitVec.ofInt 64 r.1), r.2)
  | .flt x => f64ToType typ x

/-- The value of a point. -/
def ofPoint (r : Point) : WVal :=
  if r.typ = 6 ∨ r.typ = 7 then .flt ((ptToF64 r).getD 0)
  else if r.typ = 1 then .int (r.value.toNat % 2)
  else if r.typ = 2 then .int (sint 32 r.value.toNat)
  else if r.typ = 4 then .int r.value.toInt
  else .int r.value.toNat

/-- The number that goes on the wire, and whether it was clamped. -/
def toWire (w : Nat) (v : WVal) : Nat × Bool :=
  let num := fun lo hi n => let r := wvInt lo hi v; (BitVec.ofInt n r.1).toNat
  let cl := fun lo hi => (wvInt lo hi v).2.2
  match w with
  | 0 => (((wvType 1 v).1).toNat, false)
  | 1 => (num (-128) 127 8, cl (-128) 127)
  | 2 => (num 0 255 8, cl 0 255)
  | 3 => (num (-32768) 32767 16, cl (-32768) 32767)
  | 4 => (num 0 65535 16, cl 0 65535)
  | 5 => let r := wvType 2 v; (r.1.toNat, r.2.2)
  | 6 => let r := wvType 3 v; (r.1.toNat, r.2.2)
  | 7 => let r := wvType 6 v; (r.1.toNat, r.2.2)
  | 8 => let r := wvType 4 v; (r.1.toNat, r.2.2)
  | 9 => let r := wvType 5 v; (r.1.toNat, r.2.2)
  | _ => let r := wvType 7 v; (r.1.toNat, r.2.2)

/-- A wire value written into frame bytes; WIRE 0 sets or clears its one bit. -/
def putWire (le : Bool) (b : Bytes) (e : MapEnt) (v : Nat) : Bytes :=
  let n := wireSize e.wire
  if e.wire = 0 then patch b e.off [BitVec.ofNat 8 (setBit (u8 b e.off) e.bitNo (v == 1))]
  else patch b e.off (if le then leBytes n v else beBytes n v)

/-- One mapped output point into frame bytes; a clamp counts in counter `c` of block `blk`. -/
def putPoint (m blk c : Nat) (le : Bool) (bs : Bytes × State) (e : MapEnt) : Bytes × State :=
  let r := toWire e.wire (ofPoint (readPt bs.2 m true e.point))
  (putWire le bs.1 e r.1, countIf r.2 blk c bs.2)

/-- One mapped input value of frame bytes is staged by master `m` with quality `q`. -/
def stageWire (m blk c : Nat) (le : Bool) (q : Nat) (b : Bytes) (s : State) (e : MapEnt) : State :=
  let r := wvType (workPt s e.point).typ (fromWire le b e)
  stagePoint m e.point (some r.1) (if r.2.1 then 2 else q) (countIf r.2.2 blk c s)

/-! ### Exchanges (R309 to R311) -/

def inputsOf (t : StnTmpl) : List MapEnt := t.map.filter fun e => !e.output
def outputsOf (t : StnTmpl) : List MapEnt := t.map.filter fun e => e.output

/-- The exchange number of minor frame `mfn`. -/
def exchNum (k : Nat) (t : StnTmpl) (mfn : W64) : Byte :=
  BitVec.ofNat 8 (Config.exchangeBase k + mfn.toNat / max 1 t.period)

/-- Output frame `i` of an exchange, before its seal. -/
def outFrame (s : State) (t : StnTmpl) (i : Nat) (num : Byte) : CanFrame × State :=
  let g := canCfg s t.chan.toNat
  let d := (outputsOf t).filter fun e => e.frame == i
  let r := d.foldl (putPoint 18 bCANL 10 true) (num :: zeros (t.len - 1), s)
  let id := identOf (t.txid + BitVec.ofNat 32 i)
  ({ id := id.1, ide := id.2, fdf := g.fd || t.sealed, brs := g.fd && g.brs, rtr := false, data := r.1 }, r.2)

/-- One output frame is built, sealed and loaded. -/
def sendOut (k : Nat) (t : StnTmpl) (num : Byte) (s : State) (i : Nat) : State :=
  let r := outFrame s t i num
  let n := t.chan.toNat
  if t.sealed then
    if !claimsSeal s then s
    else match sealTx k r.1 r.2 with
      | (some f, s1) => loadBuf n (t.tbuf + i) f s1
      | (none, s1) => s1
  else loadBuf n (t.tbuf + i) r.1 r.2

/-- The exchange of a station in this minor frame: one exchange, loaded in each transmit slot (R300, R309). A sealed frame is
loaded in a slot that claims SEAL. -/
def exchange (s : State) (k : Nat) : State :=
  let t := tmplOf s k
  let v := stnGet s k
  if admitted v ∧ s.sched.mfn.toNat % max 1 t.period = t.phase then
    let num := exchNum k t s.sched.mfn
    let open_ := v.exs.any fun e => e.mfn == s.sched.mfn
    let s1 := if open_ then s else stnPut s k { v with exs := v.exs ++ [{ mfn := s.sched.mfn, num := num, got := [] }] }
    if chanSends s t.chan.toNat then (List.range t.ntx).foldl (sendOut k t num) s1 else s1
  else s

/-- Stations of the image, by slot. -/
def slotsUsed (s : State) : List Nat := s.canl.tmpl.map (·.1)

/-- Quality by state (Table 10-3). -/
def stnQual (v : Station) : Nat := if v.st = snONLINE then 0 else if v.st = snSTALE then 1 else 2

def stageFrame (k q : Nat) (s : State) (f : Nat × Bytes) : State :=
  ((inputsOf (tmplOf s k)).filter fun e => e.frame == f.1).foldl (stageWire 18 bCANL 10 true q f.2) s

/-- QUAL alone of every INPUT entry of a station (R182). -/
def stageQual (k q : Nat) (s : State) : State :=
  (inputsOf (tmplOf s k)).foldl (fun s e => stagePoint 18 e.point none q s) s

/-- A valid input frame of a station is taken by the receive slot: for its open exchange, or as a late
one with the quality of the state. A standby stages at once (Table 15-2). -/
def takeFrame (k i : Nat) (d : Bytes) (s : State) : State :=
  let v := { stnGet s k with lastMfn := s.sched.mfn }
  if !admitted v then s
  else if drives s && v.exs.any (fun e => e.num == byteAt d 0) then
    stnPut s k { v with exs := v.exs.map fun e => if e.num = byteAt d 0 then { e with got := e.got ++ [(i, d)] } else e }
  else stageFrame k (stnQual v) (stnPut s k v) (i, d)

/-- The station slot of a dedicated buffer of a channel, with the frame's index. -/
def slotOfBuf (s : State) (n b : Nat) : Option (Nat × Nat) :=
  (s.canl.tmpl.find? fun kv => kv.2.chan.toNat == n && decide (kv.2.rbuf ≤ b) && decide (b < kv.2.rbuf + kv.2.nrx)).map
    fun kv => (kv.1, b - kv.2.rbuf)

/-- The CAN → CORE crossing (R60): arrived at least 31 cycles before the slot. -/
def crossed (lat : Nat) (arr : W64) (s : State) : Bool := decide (arr.toNat + lat ≤ s.time.tbc.toNat)

/-- A frame has the identifier and the length of input frame `i`. -/
def inputFrame (t : StnTmpl) (i : Nat) (f : CanFrame) : Bool :=
  (f.id, f.ide) == identOf (t.rxid + BitVec.ofNat 32 i) && f.data.length == t.len

/-- The receive slot takes one dedicated buffer. -/
def takeBuf (n : Nat) (s : State) (kv : Nat × Option RxItem) : State :=
  match kv.2 with
  | none => s
  | some x =>
    if !crossed 31 x.arr s then s
    else
      let c := chGet s n
      let s1 := chPut s n { c with rx := tblPut c.rx kv.1 none none }
      match slotOfBuf s n kv.1 with
      | some (k, i) => if inputFrame (tmplOf s k) i x.frame then takeFrame k i x.frame.data s1 else s1
      | none => s1

/-- The session of a slot ends. -/
def endSess (k : Nat) (s : State) : State := sessPut s k {}

/-- A station leaves its slot: INIT, and an open slot is free (R308). -/
def freeSlot (k : Nat) (s : State) : State :=
  let v := stnGet s k
  let w := { v with
    st := snINIT, miss := 0, exs := [], badEx := 0, ns := 0, nd := 0, carTx := 0,
    carRx := 0, uid := if (tmplOf s k).uid = 0 then 0 else v.uid }
  let s1 := endSess k s
  stnPut { s1 with canl := { s1.canl with joins := s1.canl.joins.filter (fun j => j.slot != k),
                                          accepts := s1.canl.accepts.filter fun j => j.slot != k } } k w

/-- Eviction (R311): the last values stay with quality BAD. -/
def evict (k : Nat) (s : State) : State :=
  let u := (stnGet s k).uid
  lantern 0x0A02 1 (leBytes 2 k ++ leBytes 8 u.toNat) (freeSlot k (stageQual k 2 s))

/-- A missed acknowledgement (R310, R311). -/
def missAck (k : Nat) (s : State) : State :=
  let t := tmplOf s k
  let v := stnGet s k
  let miss := if v.miss = 255 then 255 else v.miss + 1
  let st := if t.lossn ≤ miss.toNat then snBAD else snSTALE
  let bad := if st = snBAD then (if v.st = snBAD then v.badEx + 1 else 0) else 0
  let s1 := stageQual k (if st = snBAD then 2 else 1)
    (count bCANL 6 (stnPut s k { v with miss := miss, st := st, badEx := bad }))
  if t.uid = 0 ∧ t.evict ≠ 0 ∧ st = snBAD ∧ bad = t.evict then evict k s1 else s1

/-- The acknowledgement of an exchange is evaluated (R310). -/
def evalAck (k : Nat) (s : State) (e : Exch) : State :=
  let t := tmplOf s k
  let v := stnGet s k
  if (List.range t.nrx).all fun i => e.got.any fun g => g.1 == i then
    e.got.foldl (stageFrame k 0) (stnPut s k { v with miss := 0, st := snONLINE, badEx := 0 })
  else missAck k s

/-- The evaluations that a station is due in this receive slot; overdue ones pass with the freeze. -/
def evalStation (s : State) (k : Nat) : State :=
  let t := tmplOf s k
  let v := stnGet s k
  let due := v.exs.filter fun e => decide (e.mfn.toNat + t.ackwin = s.sched.mfn.toNat)
  let s1 := stnPut s k { v with exs := v.exs.filter fun e => decide (s.sched.mfn.toNat < e.mfn.toNat + t.ackwin) }
  if drives s then due.foldl (evalAck k) s1 else s1

def canCounted : List Nat := [stRANGE, stNOT_READY]
def finCan (d : HostDesc) (st data : Nat) (s : State) : State := finish bCANL 11 canCounted d st data s

/-- LINK_EVICT completes at the receive slot (R322). -/
def evictAsked (s : State) (k : Nat) : State :=
  let v := stnGet s k
  if v.evicts.isEmpty then s
  else
    let s1 := stnPut s k { v with evicts := [] }
    v.evicts.foldl (fun s d => finCan d stOK 0 s) (if v.st = snINIT ∨ v.st = snEMPTY then s1 else evict k s1)

/-- The receive slot of CANL. -/
def canReceive (s : State) : State :=
  let s1 := s.canl.ch.foldl (fun s kv => kv.2.rx.foldl (takeBuf kv.1) s) s
  let s2 := (slotsUsed s1).foldl evalStation s1
  (slotsUsed s2).foldl evictAsked s2

/-- The output points that CANL reads in this minor frame. -/
def canReads (s : State) : List Nat :=
  ((slotsUsed s).map fun k =>
    let t := tmplOf s k
    if admitted (stnGet s k) ∧ s.sched.mfn.toNat % max 1 t.period = t.phase then (outputsOf t).map (·.point) else []).flatten

/-! ### Joins (R312 to R314) -/

/-- A join frame: 29-bit identifier JOINID + 1, 32 data bytes (Table 10-4). -/
def joinFrame (s : State) (n : Nat) (d : Bytes) : CanFrame :=
  { id := BitVec.ofNat 29 ((canCfg s n).joinid.toNat + 1), ide := true, fdf := true, brs := (canCfg s n).brs, rtr := false,
    data := slice d 0 32 }

/-- A join frame goes out where the channel may transmit (R298, R299). -/
def sendFrame (n : Nat) (f : CanFrame) (s : State) : State :=
  let e := (chGet s n).errst
  if chanSends s n && (e == 0 || e == 1) then emit (.can n 64 { f with esi := e == 1 }) s else s
def sendJoin (n : Nat) (d : Bytes) (s : State) : State := sendFrame n (joinFrame s n d) s

/-- REFUSE with its counter; every end of a join raises CANL_JOIN. Reasons: 1 CAPACITY, 2 AUTH, 3 CLASS,
4 BUSY, 5 TIMEOUT. -/
def refuse (n reason : Nat) (uid : W64) (s : State) : State :=
  let c := if reason = 1 then 7 else if reason = 2 then 8 else 9
  irqEdge 201 (sendJoin n ([0x05] ++ leBytes 1 reason ++ zeros 2 ++ leBytes 8 uid.toNat) (count bCANL c s))

/-- Whether the random source and NETSEC serve joins (R398, R412). -/
def joinsServed (s : State) : Bool :=
  s.sec.drbgOk && s.sec.tampSt == 0 && !s.sec.snuffed && s.sec.netsec.isSome

/-- CHALLENGE: the join is in progress. -/
def challenge (n k : Nat) (cls : W16) (uid : W64) (ns : W128) (s : State) : State :=
  if !joinsServed s then refuse n 4 uid s
  else
    let r := randomBytes 16 s
    let v := stnGet r.2 k
    let j : JoinRec := {
      slot := k, ch := n, uid := uid, cls := cls, ns := ns, nd := BitVec.ofNat 128 (leNat r.1),
      prev := v.st, ends := s.sched.mfn + BitVec.ofNat 64 (canCfg s n).jointo }
    let s1 := stnPut r.2 k { v with st := if v.st = snINIT then snJOINING else v.st }
    sendJoin n ([0x02, 0] ++ leBytes 2 k ++ leBytes 8 uid.toNat ++ r.1)
      { s1 with canl := { s1.canl with joins := s1.canl.joins ++ [j] } }

/-- The slot of a UID whose template fixes it, and of an admitted station in an open slot (R314). -/
def fixedSlot (s : State) (uid : W64) : Option Nat :=
  if uid = 0 then none else (s.canl.tmpl.find? fun kv => kv.2.uid == uid).map (·.1)
def heldSlot (s : State) (n : Nat) (cls : W16) (uid : W64) : Option Nat :=
  (s.canl.tmpl.find? fun kv => kv.2.uid == 0 && kv.2.chan.toNat == n && kv.2.cls == cls &&
    admitted (stnGet s kv.1) && (stnGet s kv.1).uid == uid).map (·.1)
def openSlot (s : State) (n : Nat) (cls : W16) : Option Nat :=
  (s.canl.tmpl.find? fun kv => kv.2.uid == 0 && kv.2.chan.toNat == n && kv.2.cls == cls &&
    (stnGet s kv.1).st == snINIT).map (·.1)

/-- A JOIN_REQ (R313, R314). -/
def joinReq (n : Nat) (version : Byte) (cls : W16) (uid : W64) (ns : W128) (s : State) : State :=
  if version ≠ 1 ∨ !chanSends s n ∨ (s.canl.joins.any fun j => j.uid == uid) then s
  else if 16 ≤ s.canl.joins.length then refuse n 4 uid s
  else match fixedSlot s uid with
    | some k => if (tmplOf s k).cls = cls then challenge n k cls uid ns s else refuse n 3 uid s
    | none =>
      match heldSlot s n cls uid with
      | some k => challenge n k cls uid ns s
      | none =>
        match openSlot s n cls with
        | some k => challenge n k cls uid ns s
        | none => audit 0x0006 0xFFFF 0 0 (leBytes 8 uid.toNat ++ leBytes 2 cls.toNat ++ leBytes 1 n) (refuse n 1 uid s)

/-- Station secret and seal keys of a join (Table 14-2), and the tag of its RESPONSE (R313). -/
def stnSecret (netsec : Bytes) (uid : W64) (cls : W16) : Bytes :=
  kdf netsec (ascii "SH-STN") (leBytes 8 uid.toNat ++ leBytes 2 cls.toNat) 256
def sealKey (ss : Bytes) (j : JoinRec) (dir : Nat) : Bytes :=
  kdf ss (ascii "SH-SEAL") (leBytes 2 j.slot ++ leBytes 8 j.uid.toNat ++ leBytes 16 j.ns.toNat ++
    leBytes 16 j.nd.toNat ++ leBytes 1 dir) 128
def joinTag (ss : Bytes) (j : JoinRec) : Bytes :=
  (hmac256 ss ([0x03] ++ leBytes 2 j.slot ++ leBytes 8 j.uid.toNat ++ leBytes 16 j.ns.toNat ++ leBytes 16 j.nd.toNat)).take 16

/-- The session of a join (R305, R404). -/
def joinSess (ss : Bytes) (j : JoinRec) : Sess :=
  { kind := 1, st := 1, ref := BitVec.ofNat 16 j.slot, key := sealKey ss j 0, key2 := sealKey ss j 1 }

/-- A verified RESPONSE: the session is made, the station is ONLINE, and ACCEPT waits for a transmit slot that claims SEAL
(R306). -/
def accept (j : JoinRec) (ss : Bytes) (s : State) : State :=
  let k := j.slot
  let v := stnGet s k
  let s1 := stnPut (sessPut s k (joinSess ss j)) k
    { v with
      st := snONLINE, miss := 0, uid := j.uid, exs := [], badEx := 0, joins := v.joins + 1, ns := j.ns, nd := j.nd,
      carTx := 0, carRx := 0 }
  irqEdge 201 { s1 with canl := { s1.canl with accepts := s1.canl.accepts ++ [j] } }

/-- ACCEPT of a join, sealed under its session (Table 10-4). -/
def sendAccept (s : State) (j : JoinRec) : State :=
  let t := tmplOf s j.slot
  let d : Bytes := [0x04, 0] ++ leBytes 2 j.slot ++ leBytes 8 j.uid.toNat ++ leBytes 2 t.hold.toNat ++ leBytes 2 t.period ++ zeros 16
  let r := sealTx j.slot (joinFrame s j.ch d) s
  match r.1 with
  | some f => sendFrame j.ch f r.2
  | none => r.2

/-- The transmit slot of CANL (R300): what waits for the SEAL engine goes in a slot that claims it, the ACCEPTs before the
first exchange of their sessions. -/
def canTransmit (s : State) : State :=
  match (canReads s).find? fun p => !(inWindow s 18 (viewOut p) 16 false) with
  | some p => freeze 18 czWINDOW_R (viewOut p) (curSlot s 18) s
  | none =>
    let s0 := if claimsSeal s then s.canl.accepts.foldl sendAccept { s with canl := { s.canl with accepts := [] } } else s
    let s1 := (slotsUsed s0).foldl exchange s0
    if claimsSeal s then
      (List.range 40).foldl (fun s n => if chanSends s n then ((List.range 8).map (· + 56)).foldl (sealSbuf n) s else s) s1
    else s1

/-- A join ends without admission: its slot returns to its previous state. -/
def joinBack (j : JoinRec) (s : State) : State :=
  let v := stnGet s j.slot
  if v.st = snJOINING then stnPut s j.slot { v with st := j.prev } else s

def dropJoin (j : JoinRec) (s : State) : State :=
  { s with canl := { s.canl with joins := s.canl.joins.filter fun x => x != j } }

/-- JOINTO minor frames have passed since the JOIN_REQ. -/
def joinOver (s : State) (j : JoinRec) : Bool := decide (j.ends.toNat < s.sched.mfn.toNat)

/-- A join that has no RESPONSE within JOINTO is refused, and its slot returns to its previous state. -/
def joinExpires (j : JoinRec) (s : State) : State := refuse j.ch 5 j.uid (joinBack j (dropJoin j s))

/-- Joins end with the unit's right to drive the bus: no REFUSE is sent (R299). -/
def dropJoins (s : State) : State :=
  let s1 := s.canl.joins.foldl (fun s j => irqEdge 201 (joinBack j (dropJoin j s))) s
  { s1 with canl := { s1.canl with accepts := [] } }

/-- A RESPONSE (R313), within JOINTO minor frames of the JOIN_REQ. -/
def response (n slot : Nat) (uid : W64) (tag : Bytes) (s : State) : State :=
  match s.canl.joins.find? fun j => j.ch == n && j.slot == slot && j.uid == uid with
  | none => s
  | some j =>
    let s1 := dropJoin j s
    if joinOver s j then joinExpires j s
    else match s.sec.netsec with
    | none => refuse n 4 uid (joinBack j s1)
    | some key =>
      let ss := stnSecret key uid j.cls
      if s.sec.snuffed then refuse n 4 uid (joinBack j s1)
      else if joinTag ss j = tag then accept j ss s1
      else refuse n 2 uid (joinBack j s1)

/-- A LEAVE whose seal has been accepted (R314). -/
def leaveOk (k : Nat) (uid : W64) (s : State) : State :=
  if admitted (stnGet s k) ∧ (stnGet s k).uid = uid then freeSlot k s else s

def execJoinReq (n : Fin 40) (version : Byte) (cls : W16) (uid : W64) (ns : W128) (s : State) :
    Host.Outcome State Fault Refusal := .next (joinReq n version cls uid ns s)

def execResponse (n : Fin 40) (slot : W16) (uid : W64) (tag : W128) (s : State) : Host.Outcome State Fault Refusal :=
  .next (if chanSends s n then response n slot.toNat uid (leBytes 16 tag.toNat) s else s)

/-- JOIN_TIMEOUT (R313): of a join whose JOINTO has passed. -/
def execJoinTimeout (k : Fin 1024) (s : State) : Host.Outcome State Fault Refusal :=
  .next (match s.canl.joins.find? fun j => j.slot == k.val && joinOver s j with
    | none => s
    | some j => joinExpires j s)

/-- LEAVE (R314): the frame's seal is verified under the session of its SLOT. -/
def execLeave (n : Fin 40) (f : CanFrame) (s : State) : Host.Outcome State Fault Refusal :=
  .next (
    let k := u16 f.data 2
    if !chanOn s n ∨ 1024 ≤ k ∨ (tmplOf s k).chan.toNat ≠ n.val then s
    else
      let r := sealRx k f s
      if r.1 then leaveOk k (BitVec.ofNat 64 (u64 f.data 4)) r.2 else r.2)

/-! ### Reception (R294 to R296, R306) -/

/-- A frame of the station-to-device join identifier. -/
def isJoin (s : State) (n : Nat) (f : CanFrame) : Bool :=
  f.ide && f.fdf && f.id == BitVec.ofNat 29 (canCfg s n).joinid.toNat && f.data.length == 32

/-- The sealed station that a frame's identifier names on a channel. -/
def sealedSlot (s : State) (n : Nat) (f : CanFrame) : Option Nat :=
  (s.canl.tmpl.find? fun kv => kv.2.chan.toNat == n && kv.2.sealed &&
    (List.range kv.2.nrx).any fun i => (f.id, f.ide) == identOf (kv.2.rxid + BitVec.ofNat 32 i)).map (·.1)

/-- The first filter that a frame matches. -/
def filterOf (g : CanCfg) (f : CanFrame) : Option Nat :=
  firstIdx (fun x => (f.id ^^^ BitVec.ofNat 29 x.fid.toNat) &&& BitVec.ofNat 29 x.mask.toNat == 0 && x.fid.getLsbD 31 == f.ide)
    g.filters 0

/-- A frame enters its dedicated buffer (R295) or the FIFO (R296). -/
def storeFrame (n target : Nat) (x : RxItem) (s : State) : State :=
  let c := chGet s n
  if target < 64 then
    countIf (tblGet c.rx target none).isSome bCANL 2 (chPut s n { c with rx := tblPut c.rx target (some x) none })
  else if target = 0xFFFE then
    if c.fifo.length < 32 then chPut s n { c with fifo := c.fifo ++ [x] }
    else if c.latched.isSome ∧ c.shadow.isNone then chPut s n { c with shadow := some x }
    else count bCANL 3 (chPut s n { c with fifoOvf := true })
  else s

def filterFrame (n : Nat) (f : CanFrame) (ts : W32) (ok : Bool) (s : State) : State :=
  match filterOf (canCfg s n) f with
  | none => s
  | some i =>
    storeFrame n ((canCfg s n).filters[i]?.map (·.target.toNat) |>.getD 0xFFFF)
      { frame := f, ts := ts, sealOk := ok, filt := i, arr := s.time.tbc } s

/-- The join message that a frame carries takes its effect; LEAVE after its seal. -/
def joinMessage (n : Nat) (f : CanFrame) (s : State) : State :=
  let t := u8 f.data 0
  let uid : W64 := BitVec.ofNat 64 (u64 f.data 4)
  if t = 1 then joinReq n (byteAt f.data 1) (BitVec.ofNat 16 (u16 f.data 2)) uid (BitVec.ofNat 128 (u128 f.data 12)) s
  else if t = 3 then (if chanSends s n then response n (u16 f.data 2) uid (slice f.data 12 16) s else s)
  else if t = 6 then leaveOk (u16 f.data 2) uid s
  else s

/-- The session that must verify a frame: its sealed station's, or the one of a LEAVE (R306). -/
def sealSlot (s : State) (n : Nat) (f : CanFrame) : Option Nat :=
  if isJoin s n f ∧ u8 f.data 0 = 6 ∧ u16 f.data 2 < 1024 then some (u16 f.data 2) else sealedSlot s n f

/-- CAN_FRAME_RECEIVE (R294, R306). A received remote frame is discarded (R290). -/
def execCanFrameReceive (n : Fin 40) (f : CanFrame) (ts : W32) (s : State) : Host.Outcome State Fault Refusal :=
  .next (
    let c := chGet s n
    if !chanOn s n ∨ c.errst = 2 ∨ c.errst = 3 then s
    else
      let s1 := recSuccess n s
      if f.rtr then s1
      else
        let r := match sealSlot s1 n f with | some k => sealRx k f s1 | none => (true, s1)
        if !r.1 then r.2
        else filterFrame n f ts (sealSlot s1 n f).isSome (if isJoin s1 n f then joinMessage n f r.2 else r.2))

/-! ### FIFO registers (R296) -/

/-- A read of FIFOHD word 0 latches the head. -/
def fifoLatch (n : Nat) (s : State) : State := chPut s n { chGet s n with latched := (chGet s n).fifo.head? }
def fifoHeadId (s : State) (n : Nat) : W32 := match (chGet s n).fifo.head? with | some x => idWord x.frame | none => 0

/-- FIFOPOP: the latched head is freed and the shadow entry moves to the tail. -/
def fifopopOp (n : Nat) (v : W32) (s : State) : State :=
  let c := chGet s n
  if v.getLsbD 0 ∧ c.latched.isSome then
    chPut s n { c with fifo := c.fifo.drop 1 ++ c.shadow.toList, shadow := none, latched := none }
  else s

/-! ### Registers and descriptors -/

/-- The first word of CANL.CH[n] and its further words (Table 10-11). -/
def chWord (s : State) (n w : Nat) : W32 :=
  let c := chGet s n
  let bitsOf := fun (p : TxBuf → Bool) => ((List.range 8).filter fun j => p (txGet c (56 + j))).foldl (fun a j => a + 2 ^ j) 0
  BitVec.ofNat 32 (
    match w with
    | 0 => c.recc.toNat * 2 ^ 24 + c.tec.toNat * 2 ^ 15 + b2n c.cancelLate * 32 + b2n c.fifoOvf * 16 +
        b2n (canCfg s n).monitor * 8 + c.errst.toNat
    | 1 => bitsOf (·.late)
    | 2 => bitsOf fun x => x.st == 1
    | 3 => b2n c.shadow.isSome * 64 + c.fifo.length
    | 5 => c.lasterr.toNat
    | _ => 0)

/-- The 64-byte record of a station (R322). -/
def stnRecord (s : State) (k : Nat) : Bytes :=
  let v := stnGet s k
  let e := sessGet s k
  slice (leBytes 8 v.uid.toNat ++ leBytes 1 v.st.toNat ++ [v.miss, (tmplOf s k).chan, 0] ++ leBytes 2 k ++ zeros 2 ++
    leBytes 8 e.fvTx.toNat ++ leBytes 8 e.fvRx.toNat ++ leBytes 8 v.lastMfn.toNat ++ leBytes 4 v.joins.toNat) 0 64

/-- The 64-byte record of a channel: the words of CANL.CH[n]. -/
def chRecord (s : State) (n : Nat) : Bytes :=
  slice (((List.range 5).map fun w => leBytes 4 (chWord s n w).toNat).flatten) 0 64

/-- LINK_EVICT (R322). -/
def effLinkEvict (d : HostDesc) (s : State) : State :=
  let k := d16 d 16
  let v := stnGet s k
  if 1024 ≤ k then finCan d stRANGE 0 s
  else if v.st = snINIT ∨ v.st = snEMPTY then finCan d stNOT_READY 0 s
  else stnPut s k { v with evicts := v.evicts ++ [d] }

/-- LINK_BUSON (R322). -/
def effLinkBuson (d : HostDesc) (s : State) : State :=
  let n := d8 d 16
  let c := chGet s n
  if 40 ≤ n then finCan d stRANGE 0 s
  else if c.errst = 2 then finCan d stOK 0 (chPut s n { c with errst := 3 })
  else finCan d stNOT_READY 0 s

def execLinkEvict (d : HostDesc) (s : State) : Host.Outcome State Fault Refusal := .next (arrive effLinkEvict d s)
def execLinkBuson (d : HostDesc) (s : State) : Host.Outcome State Fault Refusal := .next (arrive effLinkBuson d s)

end Sys2Proof.Machine
end

