-- ==== Sys2Proof/Machine/Isa.lean ====
section
/-! DEFINITION. The 64-bit instruction words of the cell engines and MC1: their fields, which are valid in a
profile (R205, Tables 7-1 to 7-4), and the path time of a task (R208, R209). -/

namespace Sys2Proof.Machine

/-- The operand formats (Table 7-2); `ri` is R where I = 0 and I where I = 1, `n` a word without operands. -/
inductive OpFmt where
  | n | r | i | ri | m | c | q | p | t | l
  deriving DecidableEq, Repr

/-- Which values of I a row allows. -/
inductive IForm where
  | no | may | only
  deriving DecidableEq, Repr

/-- The profiles of a row. -/
inductive Prof4 where
  | cs | c | s
  deriving DecidableEq, Repr

/-- A row of Table 7-4: opcodes `op` to `last`, format, forms, cycles with W = 0 and W = 1, profile. -/
structure OpRow where
  op : Nat
  last : Nat
  fmt : OpFmt
  w : Bool
  i : IForm
  cyc0 : Nat
  cyc1 : Nat
  prof : Prof4
  deriving DecidableEq, Repr

/-- Table 7-4, rows of equal form together. -/
def opRows : List OpRow :=
  [⟨0x00, 0x00, .n, false, .no, 1, 1, .cs⟩, ⟨0x01, 0x01, .n, false, .no, 24, 24, .c⟩,
   ⟨0x02, 0x02, .l, false, .no, 1, 1, .c⟩, ⟨0x03, 0x03, .i, false, .only, 1, 1, .c⟩,
   ⟨0x04, 0x05, .r, false, .no, 1, 1, .cs⟩, ⟨0x08, 0x09, .i, false, .only, 1, 1, .cs⟩,
   ⟨0x0A, 0x0B, .r, false, .no, 1, 1, .cs⟩, ⟨0x0C, 0x0C, .c, true, .may, 1, 1, .cs⟩,
   ⟨0x0D, 0x0D, .c, true, .no, 1, 1, .cs⟩, ⟨0x0E, 0x0E, .q, false, .no, 1, 1, .cs⟩,
   ⟨0x10, 0x13, .ri, true, .may, 1, 1, .cs⟩, ⟨0x14, 0x15, .ri, true, .may, 3, 3, .cs⟩,
   ⟨0x16, 0x17, .r, true, .no, 3, 3, .cs⟩, ⟨0x18, 0x1B, .ri, true, .may, 36, 20, .cs⟩,
   ⟨0x1C, 0x27, .ri, true, .may, 1, 1, .cs⟩, ⟨0x28, 0x2A, .i, false, .only, 1, 1, .cs⟩,
   ⟨0x2B, 0x2D, .r, true, .no, 1, 1, .cs⟩] ++
  [⟨0x30, 0x32, .r, true, .no, 4, 4, .cs⟩, ⟨0x33, 0x33, .r, true, .no, 24, 14, .cs⟩,
   ⟨0x34, 0x34, .r, true, .no, 28, 16, .cs⟩, ⟨0x35, 0x36, .r, true, .no, 5, 5, .cs⟩,
   ⟨0x37, 0x3A, .r, true, .no, 2, 2, .cs⟩, ⟨0x3B, 0x3C, .r, true, .no, 1, 1, .cs⟩,
   ⟨0x3D, 0x3D, .r, true, .no, 2, 2, .cs⟩, ⟨0x3E, 0x42, .r, true, .no, 3, 3, .cs⟩,
   ⟨0x48, 0x48, .m, false, .only, 2, 2, .cs⟩, ⟨0x49, 0x49, .m, false, .only, 1, 1, .cs⟩,
   ⟨0x50, 0x50, .p, false, .no, 20, 20, .cs⟩, ⟨0x51, 0x52, .p, false, .no, 4, 4, .cs⟩,
   ⟨0x58, 0x58, .t, false, .no, 6, 6, .c⟩, ⟨0x59, 0x59, .t, false, .no, 3, 3, .c⟩,
   ⟨0x60, 0x61, .i, false, .only, 3, 3, .s⟩, ⟨0x62, 0x64, .r, false, .no, 3, 3, .s⟩,
   ⟨0x65, 0x65, .r, false, .no, 1, 1, .s⟩, ⟨0x66, 0x66, .r, false, .no, 2, 2, .s⟩,
   ⟨0x67, 0x68, .i, false, .only, 1, 1, .s⟩, ⟨0x69, 0x69, .n, false, .no, 6, 6, .s⟩,
   ⟨0x6A, 0x6B, .n, false, .no, 1, 1, .s⟩]

/-- A register field of a word: six bits from `lo`. -/
def rAt (w lo : Nat) : BitVec 6 := BitVec.ofNat 6 (w >>> lo)
def pAt (w lo : Nat) : BitVec 4 := BitVec.ofNat 4 (w >>> lo)
def wOp (w : Nat) : Nat := bits w 63 56
def wW (w : Nat) : Bool := bit w 50
def wI (w : Nat) : Bool := bit w 49
def imm32 (w : Nat) : W32 := BitVec.ofNat 32 w
def srcAt (w : Nat) : Src := if wI w then .imm (imm32 w) else .reg (rAt w 30)
def rmAt (w : Nat) : RMode :=
  match bits w 25 24 with
  | 0 => .nearest
  | 1 => .zero
  | 2 => .down
  | _ => .up

def intCcAt (w : Nat) : Option IntCC :=
  [IntCC.eq, .ne, .lt, .ge, .ltu, .geu, .le, .gt, .leu, .gtu, .bits, .nbits][bits w 47 44]?

def fltCcAt (w : Nat) : Option FltCC :=
  match bits w 47 44 with
  | 0 => some .eq
  | 1 => some .ne
  | 2 => some .lt
  | 3 => some .ge
  | 6 => some .le
  | 7 => some .gt
  | 12 => some .un
  | 13 => some .or
  | _ => none

def opRow (v : Nat) : Option OpRow := opRows.find? fun r => decide (r.op ≤ wOp v) && decide (wOp v ≤ r.last)

/-- The bits that a format names reserved are 0 (Table 7-2). -/
def fmtReserved : OpFmt → Nat → Bool
  | .n, v => bits v 47 0 == 0
  | .r, v => bits v 23 0 == 0
  | .i, v => bits v 35 32 == 0
  | .ri, v => if wI v then bits v 35 32 == 0 else bits v 23 0 == 0
  | .m, v => !bit v 32
  | .c, v => bits v 43 42 == 0 && bits v 21 16 == 0
  | .q, v => bits v 31 0 == 0
  | .p, v => bits v 29 18 == 0
  | .t, v => bits v 26 12 == 0
  | .l, v => bits v 47 31 == 0

/-- The conditions of R205 on single opcodes, and EDGE's reserved D and A fields (R222). -/
def opFields (v : Nat) : Bool :=
  match wOp v with
  | 0x01 => bits v 55 51 == 0
  | 0x02 => bits v 55 51 == 0 && bits v 30 16 != 0
  | 0x0A => bits v 29 28 == 0
  | 0x0B => bits v 29 28 == 0
  | 0x0C => (intCcAt v).isSome
  | 0x0D => (fltCcAt v).isSome
  | 0x0E => decide (bits v 33 32 < 3)
  | 0x28 => decide (bits v 11 6 + bits v 5 0 ≤ 63)
  | 0x29 => decide (bits v 11 6 + bits v 5 0 ≤ 63)
  | 0x2A => decide (bits v 11 6 + bits v 5 0 ≤ 63)
  | 0x40 => bits v 29 27 == 0
  | 0x41 => bits v 29 27 == 0
  | 0x42 => bits v 29 26 == 0
  | 0x59 => bits v 47 36 == 0
  | _ => true

/-- A word is valid in a profile: the cell profile, or with `sup` the supervisor profile (R205). -/
def validWord (sup : Bool) (v : Nat) : Bool :=
  match opRow v with
  | none => false
  | some r =>
    (r.prof == .cs || r.prof == (if sup then .s else .c)) && !bit v 48 && (r.w || !wW v) &&
    (r.i == .may || wI v == (r.i == .only)) && fmtReserved r.fmt v && opFields v

/-- The cycles of a word (Table 7-4). -/
def wordCycles (v : Nat) : Nat :=
  match opRow v with
  | some r => if wW v then r.cyc1 else r.cyc0
  | none => 1

def isLoop (v : Nat) : Bool := wOp v == 2
def isEnd (v : Nat) : Bool := wOp v == 1
def loopLen (v : Nat) : Nat := bits v 30 16
def loopCnt (v : Nat) : Nat := if bits v 15 0 = 0 then 65536 else bits v 15 0

/-- cost(first, last) of R209 over the words of a code; `fuel` bounds the walk. -/
def pathCost (code : List Nat) : Nat → Nat → Nat → Nat
  | 0, _, _ => 0
  | fuel + 1, i, last =>
    if i > last then 0
    else
      let v := code.getD i 0
      if isLoop v then
        1 + loopCnt v * pathCost code fuel (i + 1) (i + loopLen v) + pathCost code fuel (i + loopLen v + 1) last
      else wordCycles v + pathCost code fuel (i + 1) last

/-- The first END that the walk from `i` reaches (R209): loops are passed over. -/
def firstEnd (code : List Nat) : Nat → Nat → Option Nat
  | 0, _ => none
  | fuel + 1, i =>
    match code[i]? with
    | none => none
    | some v =>
      if isEnd v then some i
      else if isLoop v then firstEnd code fuel (i + loopLen v + 1)
      else firstEnd code fuel (i + 1)

/-- path(task) := 20 + cost(entry, e) (R209). -/
def pathTime (code : List Nat) (entry : Nat) : Option Nat :=
  (firstEnd code code.length entry).map fun e => 20 + pathCost code (code.length + 1) entry e

/-- The loop at `i` obeys R208 at nesting depth `d`: its body holds no END and lies within `last`, and inner
bodies lie in it, at most four deep. -/
def loopsOk (code : List Nat) : Nat → Nat → Nat → Nat → Bool
  | 0, _, _, _ => true
  | fuel + 1, d, i, last =>
    if i > last then true
    else
      let v := code.getD i 0
      if isLoop v then
        decide (d < 4) && decide (i + loopLen v ≤ last) &&
        (List.range (loopLen v)).all (fun k => !isEnd (code.getD (i + 1 + k) 0)) &&
        loopsOk code fuel (d + 1) (i + 1) (i + loopLen v) && loopsOk code fuel d (i + loopLen v + 1) last
      else loopsOk code fuel d (i + 1) last

end Sys2Proof.Machine
end

