-- ==== Sys2Proof/Machine/Sums.lean ====
section
/-! DEFINITION. Sums and functions that the manual fixes but for an order of terms or a last rounding: binary64 sums,
the double-double arithmetic of R93 and R94, and exp (R149). What stays open is an opaque choice of Config (log entry 11). -/

namespace Sys2Proof.Machine

/-- A sum of binary64 terms: with three or more terms its order is free. -/
def fsum : List F64 → F64
  | [] => 0
  | [a] => a
  | [a, b] => addF a b
  | l => Config.fsum l

/-- A sum of products as the FMA lanes form it: with two or more terms its order and its fusing are free. -/
def dsum : List (F64 × F64) → F64
  | [] => 0
  | [(a, b)] => mulF a b
  | l => Config.fsum (l.map fun p => mulF p.1 p.2)

/-! ### Double-double (R93, R94): a value is the unevaluated sum of two binary64 numbers -/

abbrev DD := F64 × F64

/-- FMA two-product: the product is exact. -/
def twoProd (a b : F64) : DD := let p := mulF a b; (p, fmaF a b (negF p))

def twoSum (a b : F64) : DD :=
  let s := addF a b
  let t := subF s a
  (s, addF (subF a (subF s t)) (subF b t))

def quickSum (a b : F64) : DD := let s := addF a b; (s, subF b (subF s a))

/-- The sum of two values. -/
def ddAdd (x y : DD) : DD :=
  let s := twoSum x.1 y.1
  let t := twoSum x.2 y.2
  let u := quickSum s.1 (addF s.2 t.1)
  quickSum u.1 (addF u.2 t.2)

def ddNeg (x : DD) : DD := (negF x.1, negF x.2)

def ddMul (x y : DD) : DD :=
  let p := twoProd x.1 y.1
  quickSum p.1 (addF p.2 (addF (mulF x.1 y.2) (mulF x.2 y.1)))

/-- The quotient, by three steps of long division. -/
def ddDiv (x y : DD) : DD :=
  let q1 := divF x.1 y.1
  let r1 := ddAdd x (ddNeg (ddMul (q1, 0) y))
  let q2 := divF r1.1 y.1
  let r2 := ddAdd r1 (ddNeg (ddMul (q2, 0) y))
  let u := quickSum q1 q2
  ddAdd u (divF r2.1 y.1, 0)

def ddLt (x y : DD) : Bool := ltF x.1 y.1 || (eqF x.1 y.1 && ltF x.2 y.2)
def ddAbs (x : DD) : DD := if ddLt x (0, 0) then ddNeg x else x
def ddMax (l : List DD) : DD := l.foldl (fun a x => if ddLt a x then x else a) (0, 0)

/-- A list without its element `i`, and that element. -/
def takeOut : Nat → List DD → DD × List DD
  | _, [] => ((0, 0), [])
  | 0, x :: r => (x, r)
  | n + 1, x :: r => let p := takeOut n r; (p.1, x :: p.2)

/-- A sum in double-double: the terms enter the accumulator in a free order. -/
def ddSum : Nat → DD → List DD → DD
  | _, a, [] => a
  | _, a, [x] => ddAdd a x
  | 0, a, _ => a
  | n + 1, a, l => let p := takeOut (Config.sumOrder (l.map (·.1)) % l.length) l; ddSum n (ddAdd a p.1) p.2

/-- b + Σ u·v in double-double. -/
def ddDot (b : F64) (l : List (F64 × F64)) : DD := ddSum l.length (b, 0) (l.map fun p => twoProd p.1 p.2)

/-! ### exp -/

/-- m × 2^e, m > 0, as the next binary64 value below or above it. -/
def packDir (up : Bool) (m : Nat) (e : Int) : F64 :=
  let q := max (e + (m.log2 : Int) - 52) fmt64.qmin
  if q ≤ e then BitVec.ofNat 64 (fpack fmt64 false m e false).1
  else
    let n := (q - e).toNat
    let k := m >>> n
    BitVec.ofNat 64 (fpack fmt64 false (if up && m % 2 ^ n != 0 then k + 1 else k) q false).1

/-- ln 2 in units of 2^-200. -/
def ln2Fix : Nat := 1113844574712631719546256151097547306333272293549090750737802

/-- e^r in units of 2^-200 for 0 ≤ r < 1 in those units, too small by less than 2^7 units: 64 terms of the series. -/
def expFix (r : Nat) : Nat :=
  ((List.range 64).foldl (fun (a : Nat × Nat) k => let t := a.2 * r / (2 ^ 200 * (k + 1)); (a.1 + t, t)) (2 ^ 200, 2 ^ 200)).1

/-- e^x lies between the two values, for x = ±m × 2^e with m > 0. -/
def expBounds (neg : Bool) (m : Nat) (e : Int) : F64 × F64 :=
  let x := if e + 200 ≥ 0 then m * 2 ^ (e + 200).toNat else m / 2 ^ (-(e + 200)).toNat
  if 2 ^ 210 ≤ x then (if neg then (0, 1) else (0x7FEFFFFFFFFFFFFF, 0x7FF0000000000000))
  else
    let n := x / ln2Fix
    let c := expFix (x - n * ln2Fix)
    let lo := c - 2 ^ 13
    let hi := c + 2 ^ 13
    if neg then (packDir false (2 ^ 400 / hi) (-200 - (n : Int)), packDir true (2 ^ 400 / lo + 1) (-200 - (n : Int)))
    else (packDir false lo ((n : Int) - 200), packDir true hi ((n : Int) - 200))

/-- exp(x) in binary64: one of the two neighbours of the exact value, which of them is free (R149). -/
def expF (x : F64) : F64 :=
  match fdec fmt64 x.toNat with
  | .nan _ => BitVec.ofNat 64 fmt64.nan
  | .inf neg => if neg then 0 else 0x7FF0000000000000
  | .fin neg m e =>
    if m = 0 then 0x3FF0000000000000
    else let b := expBounds neg m e; if Config.expUp x then b.2 else b.1

end Sys2Proof.Machine
end

