-- ==== Sys2Proof/Machine/SolvNum.lean ====
section
/-! DEFINITION. The numerics of SOLV: scaling, factorisation, refinement, and the iterations of the three
problem classes (03_network_solver.md). Sums whose order the manual leaves open are opaque. -/

namespace Sys2Proof.Machine

def fone : F64 := 0x3FF0000000000000
def finf : F64 := 0x7FF0000000000000
def fninf : F64 := 0xFFF0000000000000
def pow2neg (k : Nat) : F64 := ofRatioF 1 (2 ^ k)

/-- An entry of a data-set array (Table 4-6). -/
def dGet (d : Tbl F64) (arr i : Nat) : F64 := tblGet d (arr * 2 ^ 32 + i) 0
def dPut (d : Tbl F64) (arr i : Nat) (v : F64) : Tbl F64 := tblPut d (arr * 2 ^ 32 + i) v 0
def dVec (d : Tbl F64) (arr n : Nat) : List F64 := (List.range n).map (dGet d arr)
def pPar (d : Tbl F64) (i : Nat) : F64 := dGet d 0x30 i
/-- An integral parameter. -/
def pNat (d : Tbl F64) (i : Nat) : Nat := (toIntF 0 (2 ^ 32) (pPar d i)).toNat

def vget (v : List F64) (i : Nat) : F64 := v.getD i 0
def ninf (l : List F64) : F64 := l.foldl (fun a x => maxF a (absF x)) 0
def vzip (f : F64 → F64 → F64) (a b : List F64) : List F64 := (a.zip b).map fun p => f p.1 p.2
def dotF (a b : List F64) : F64 := dsum (a.zip b)
def axpy (k : F64) (d x : List F64) : List F64 := vzip (fun a b => addF a (mulF k b)) x d
def allFin (l : List F64) : Bool := l.all finF

/-! ### Sparse matrices: each stored entry as (row, column, value) -/

abbrev SMat := List (Nat × Nat × F64)

/-- The stored entries of a structure: row, column, index in ROWIDX. -/
def entries (st : SStruct) : List (Nat × Nat × Nat) :=
  ((List.range st.n).map fun j =>
    (List.range (st.colptr.getD (j + 1) 0 - st.colptr.getD j 0)).map fun k =>
      let e := st.colptr.getD j 0 + k
      (st.rowidx.getD e 0, j, e)).flatten

/-- Row `t` of a symmetric matrix, given by its lower triangle, times x, as terms. -/
def symTerms (m : SMat) (x : List F64) (t : Nat) : List (F64 × F64) :=
  m.filterMap fun (i, j, v) => if i = t then some (v, vget x j) else if j = t then some (v, vget x i) else none

def symMul (m : SMat) (x : List F64) (t : Nat) : F64 := dsum (symTerms m x t)
def rowMul (m : SMat) (x : List F64) (t : Nat) : F64 :=
  dsum (m.filterMap fun (i, j, v) => if i = t then some (v, vget x j) else none)
def colMul (m : SMat) (y : List F64) (t : Nat) : F64 :=
  dsum (m.filterMap fun (i, j, v) => if j = t then some (v, vget y i) else none)

/-- The largest absolute entry of a column; 0 where it has none. -/
def colMax (m : SMat) (t : Nat) : F64 :=
  ninf (m.filterMap fun (i, j, v) => if i = t ∨ j = t then some v else none)

/-! ### Equilibration (R88) -/

/-- One pass: rows and columns divided by the root of their largest entry. -/
def equilPass (n : Nat) (ms : SMat × List F64) : SMat × List F64 :=
  let r := (List.range n).map fun j => let x := colMax ms.1 j; if eqF x 0 then fone else sqrtF x
  (ms.1.map fun (i, j, v) => (i, j, divF (divF v (vget r i)) (vget r j)), vzip divF ms.2 r)

def equilAux (n : Nat) : Nat → SMat × List F64 → SMat × List F64
  | 0, ms => ms
  | k + 1, ms => equilAux n k (equilPass n ms)

/-- The scaling of a run. -/
def equil (n p : Nat) (m : SMat) : List F64 := (equilAux n p (m, List.replicate n fone)).2

def scaled (sc : List F64) (m : SMat) : SMat := m.map fun (i, j, v) => (i, j, mulF (mulF v (vget sc i)) (vget sc j))

/-! ### Factorisation (R89 to R91) -/

/-- An eliminated column: its matrix index, its pivot, its rows below. -/
structure FCol where
  j : Nat
  d : F64
  rows : Tbl F64
  deriving DecidableEq, Repr

/-- A factor with the scaled matrix it stands for. -/
structure Fac where
  k : SMat := []
  sc : List F64 := []
  cols : List FCol := []
  cnt : Nat := 0
  first : Option Nat := none
  ok : Bool := true
  deriving DecidableEq, Repr

/-- A value less its terms: nothing is open where there is no term. -/
def elimF (a : F64) (l : List (F64 × F64 × F64)) : F64 := if l.isEmpty then a else Config.elim a l

/-- The terms that the earlier columns subtract from entry (i, j). -/
def elimTerms (cols : List FCol) (i j : Nat) : List (F64 × F64 × F64) :=
  cols.filterMap fun c =>
    let a := tblGet c.rows i 0
    let b := tblGet c.rows j 0
    if eqF a 0 ∨ eqF b 0 then none else some (a, c.d, b)

/-- Entry (i, j) of the lower triangle or its mirror. -/
def kGet (m : SMat) (i j : Nat) : F64 :=
  match m.find? fun (a, b, _) => (a == i && b == j) || (a == j && b == i) with
  | some (_, _, v) => v
  | none => 0

/-- A finite pivot that R90 replaces: one that is not finite ends the run (R111). -/
def pivotBad (sigma : Bool) (tau scale d : F64) : Bool :=
  finF d && (!(if sigma then ltF 0 d else ltF d 0) || ltF (absF d) (mulF tau scale))

/-- One column of the factorisation. `sigma`: the expected sign is +. -/
def elimStep (reg : SMat) (tau : F64) (delta : Nat) (sigma : Nat → Bool) (f : Fac) (jl : Nat × List Nat) : Fac :=
  let j := jl.1
  let x := colMax f.k j
  let scale := if eqF x 0 then fone else x
  let d := elimF (kGet reg j j) (elimTerms f.cols j j)
  let bad := pivotBad (sigma j) tau scale d
  let r := mulF (pow2neg delta) scale
  let d1 := if bad then (if sigma j then r else negF r) else d
  let rows := jl.2.foldl (fun t i =>
    let v := divF (elimF (kGet reg i j) (elimTerms f.cols i j)) d1
    if eqF v 0 then t else tblPut t i v 0) []
  { f with cols := f.cols ++ [{ j := j, d := d1, rows := rows }], cnt := if bad then f.cnt + 1 else f.cnt,
           first := if bad && f.first.isNone then some j else f.first,
           ok := f.ok && finF d && rows.all fun kv => finF kv.2 }

/-- The rows that follow each position of the elimination order. -/
def tails : List Nat → List (Nat × List Nat)
  | [] => []
  | j :: r => (j, r) :: tails r

/-- LDL^T of a scaled matrix, with the regularisation `rho` added on its diagonal. -/
def ldlOf (ks : SMat) (sc : List F64) (order : List Nat) (rho : Nat → F64) (tau : F64) (delta : Nat) (sigma : Nat → Bool) : Fac :=
  let reg := ks.map fun (i, j, v) => if i = j then (i, j, addF v (rho i)) else (i, j, v)
  (tails order).foldl (elimStep reg tau delta sigma) { k := ks, sc := sc, ok := allFin (ks.map fun e => e.2.2) }

/-- The factorisation of an assembled matrix under the scaling of the run. -/
def factor (k : SMat) (sc : List F64) (order : List Nat) (rho : Nat → F64) (tau : F64) (delta : Nat) (sigma : Nat → Bool) : Fac :=
  ldlOf (scaled sc k) sc order rho tau delta sigma

/-- Forward, diagonal and backward solve with the factor. -/
def fwdStep (cols : List FCol) (b : List F64) (y : Tbl F64) (c : FCol) : Tbl F64 :=
  let ts := cols.filterMap fun k =>
    let l := tblGet k.rows c.j 0
    if eqF l 0 then none else some (l, tblGet y k.j 0, fone)
  tblPut y c.j (elimF (vget b c.j) ts) 0

def bwdStep (z : Tbl F64) (x : Tbl F64) (c : FCol) : Tbl F64 :=
  tblPut x c.j (elimF (tblGet z c.j 0) (c.rows.map fun kv => (kv.2, tblGet x kv.1 0, fone))) 0

def facSolve (f : Fac) (n : Nat) (b : List F64) : List F64 :=
  let y := f.cols.foldl (fwdStep f.cols b) []
  let z := f.cols.foldl (fun t c => tblPut t c.j (divF (tblGet y c.j 0) c.d) 0) []
  let x := f.cols.reverse.foldl (bwdStep z) []
  tblRange x 0 n 0

/-! ### Refinement (R93, R94) -/

/-- b − K x of the scaled, unregularised system in double-double. -/
def residual (f : Fac) (n : Nat) (b x : List F64) : List DD :=
  (List.range n).map fun t => ddDot (vget b t) ((symTerms f.k x t).map fun p => (p.1, negF p.2))

def refine (f : Fac) (n : Nat) (b : List F64) : Nat → List F64 → List F64
  | 0, x => x
  | k + 1, x => refine f n b k (vzip addF x (facSolve f n ((residual f n b x).map (·.1))))

/-- The norm of the scaled matrix: the largest sum of the absolute entries of a row. -/
def kNorm (f : Fac) (n : Nat) : DD :=
  ddMax ((List.range n).map fun t => ddDot 0 ((symTerms f.k (List.replicate n fone) t).map fun p => (absF p.1, fone)))

/-- ρ_rel = ‖r‖ / (‖K‖·‖x‖ + ‖b‖), in double-double (R94). -/
def rhoRel (f : Fac) (n : Nat) (b x : List F64) : F64 :=
  (ddDiv (ddMax ((residual f n b x).map ddAbs)) (ddAdd (ddMul (kNorm f n) (ninf x, 0)) (ninf b, 0))).1

/-- The solution of a system in scaled units, and its relative residual. -/
def solveScaled (f : Fac) (n ref : Nat) (b : List F64) : List F64 × F64 :=
  let x := refine f n b ref (facSolve f n b)
  (x, rhoRel f n b x)

/-- The solution of K x = b in unscaled units, and its relative residual. -/
def linSolve (f : Fac) (n ref : Nat) (b : List F64) : List F64 × F64 :=
  let r := solveScaled f n ref (vzip mulF f.sc b)
  (vzip mulF f.sc r.1, r.2)

/-! ### Quadratic programs (R82, R83, R95 to R98) -/

/-- The data of a QP. -/
structure Qp where
  n : Nat
  me : Nat
  mi : Nat
  q : SMat
  a : SMat
  g : SMat
  c : List F64
  b : List F64
  h : List F64
  l : List F64
  u : List F64
  deriving DecidableEq, Repr

def qpOf (st : SStruct) (d : Tbl F64) : Qp :=
  let n := st.nv
  let me := st.nr1
  let es := (entries st).filterMap fun (i, j, e) => if j < n then some (i, j, dGet d 1 e) else none
  {
    n := n, me := me, mi := st.nr2,
    q := es.filter fun e => decide (e.1 < n),
    a := es.filterMap fun (i, j, v) => if n ≤ i ∧ i < n + me then some (i - n, j, v) else none,
    g := es.filterMap fun (i, j, v) => if n + me ≤ i then some (i - n - me, j, v) else none,
    c := dVec d 2 n, b := dVec d 3 me, h := dVec d 4 st.nr2, l := dVec d 5 n, u := dVec d 6 n }

def Qp.finL (p : Qp) (j : Nat) : Bool := finF (vget p.l j) && !eqF (vget p.l j) (vget p.u j)
def Qp.finU (p : Qp) (j : Nat) : Bool := finF (vget p.u j) && !eqF (vget p.l j) (vget p.u j)
def Qp.fixed (p : Qp) (j : Nat) : Bool := eqF (vget p.l j) (vget p.u j)
def Qp.finH (p : Qp) (i : Nat) : Bool := finF (vget p.h i)
def Qp.cols (p : Qp) : List Nat := List.range p.n
def Qp.rows (p : Qp) : List Nat := List.range p.mi

/-- A bound is present: finite, of a fixed variable as well. -/
def Qp.hasL (p : Qp) (j : Nat) : Bool := finF (vget p.l j)
def Qp.hasU (p : Qp) (j : Nat) : Bool := finF (vget p.u j)

/-- p of R82: the inequality rows and the finite bounds. -/
def Qp.count (p : Qp) : Nat :=
  p.mi + (p.cols.filter p.hasL).length + (p.cols.filter p.hasU).length

/-- All slacks and all multipliers of an iterate, in one order. -/
def Qp.slacks (p : Qp) (s sl su : List F64) : List F64 :=
  ((p.rows.filter p.finH).map (vget s)) ++ ((p.cols.filter p.finL).map (vget sl)) ++ ((p.cols.filter p.finU).map (vget su))

def Qp.ss (p : Qp) (i : Iterate) : List F64 := p.slacks i.s i.sl i.su
def Qp.zs (p : Qp) (i : Iterate) : List F64 := p.slacks i.z i.zl i.zu

/-- μ (R82). DESIGN CHOICE (log entry 74): with p = 0, where the rule divides 0 by 0, μ is 0. -/
def Qp.mu (p : Qp) (i : Iterate) : F64 := divF (dotF (p.ss i) (p.zs i)) (ofNatF (max 1 p.count))

/-- Q x + c + A^T y + G^T z at a variable: its reduced cost. -/
def Qp.grad (p : Qp) (i : Iterate) (j : Nat) : F64 :=
  fsum [symMul p.q i.x j, vget p.c j, colMul p.a i.y j, colMul p.g i.z j]

/-- Stationarity, equality and inequality residuals. DESIGN CHOICE (log entry 74): the row of a fixed variable is 0, since its
two multipliers take up the reduced cost (`fixMult`). -/
def Qp.rd (p : Qp) (i : Iterate) : List F64 :=
  p.cols.map fun j =>
    if p.fixed j then 0
    else fsum [symMul p.q i.x j, vget p.c j, colMul p.a i.y j, colMul p.g i.z j, negF (vget i.zl j), vget i.zu j]
/-- A fixed variable takes no part in the iteration (R82): it stands at its bound. DESIGN CHOICE (log entry 74): the
multipliers of its two bounds are the positive and the negative part of its reduced cost, so that it is stationary. -/
def Qp.fixMult (p : Qp) (i : Iterate) : Iterate :=
  let x := p.cols.map fun j => if p.fixed j then vget p.l j else vget i.x j
  let i1 := { i with x := x }
  { i1 with
    zl := p.cols.map fun j => if p.fixed j then maxF 0 (p.grad i1 j) else vget i.zl j,
    zu := p.cols.map fun j => if p.fixed j then maxF 0 (negF (p.grad i1 j)) else vget i.zu j }

def Qp.rp (p : Qp) (i : Iterate) : List F64 := (List.range p.me).map fun r => subF (rowMul p.a i.x r) (vget p.b r)
def Qp.rg (p : Qp) (i : Iterate) : List F64 :=
  p.rows.map fun r => if p.finH r then subF (addF (rowMul p.g i.x r) (vget i.s r)) (vget p.h r) else 0

def Qp.primal (p : Qp) (i : Iterate) : F64 :=
  addF (mulF 0x3FE0000000000000 (dsum (p.cols.map fun j => (vget i.x j, symMul p.q i.x j)))) (dotF p.c i.x)
def Qp.dual (p : Qp) (i : Iterate) : F64 :=
  fsum ([negF (mulF 0x3FE0000000000000 (dsum (p.cols.map fun j => (vget i.x j, symMul p.q i.x j)))),
    negF (dotF p.b i.y)] ++
    ((p.rows.filter p.finH).map fun r => negF (mulF (vget p.h r) (vget i.z r))) ++
    ((p.cols.filter p.hasL).map fun j => mulF (vget p.l j) (vget i.zl j)) ++
    ((p.cols.filter p.hasU).map fun j => negF (mulF (vget p.u j) (vget i.zu j))))

/-- The reduced KKT matrix (R83) without regularisation, from Σ_b and Z^-1 S. -/
def Qp.kktOf (p : Qp) (st : SStruct) (d : Tbl F64) (sig inv : Nat → F64) : SMat :=
  let n := p.n
  (entries st).map fun (r, c, e) =>
    let v : F64 :=
      if r < n then
        (if p.fixed r ∨ p.fixed c then (if r = c then fone else 0)
         else if r = c then addF (dGet d 1 e) (sig r) else dGet d 1 e)
      else if r < n + p.me then (if c < n then (if p.fixed c then 0 else dGet d 1 e) else 0)
      else
        let k := r - n - p.me
        (if !p.finH k then (if r = c then negF fone else 0)
         else if c < n then (if p.fixed c then 0 else dGet d 1 e)
         else if r = c then negF (inv k) else 0)
    (r, c, v)

/-- The finite bounds of a variable that is not fixed. -/
def Qp.bounds (p : Qp) (j : Nat) : F64 := ofNatF (b2n (p.finL j) + b2n (p.finU j))

/-- The matrix at an iterate; `unit`: at Z^-1 S = I. -/
def Qp.kkt (p : Qp) (st : SStruct) (unit : Bool) (i : Iterate) (d : Tbl F64) : SMat :=
  if unit then p.kktOf st d p.bounds fun _ => fone
  else p.kktOf st d
    (fun j => addF (if p.finL j then divF (vget i.zl j) (vget i.sl j) else 0) (if p.finU j then divF (vget i.zu j) (vget i.su j) else 0))
    (fun k => divF (vget i.s k) (vget i.z k))

/-- The matrix of the cold start in scaled units, where Z^-1 S = I (R95). -/
def Qp.coldMat (p : Qp) (st : SStruct) (d : Tbl F64) (sc : List F64) : SMat :=
  (scaled sc (p.kktOf st d (fun _ => 0) fun _ => 0)).map fun (r, c, v) =>
    if r ≠ c then (r, c, v)
    else if r < p.n then (r, c, if p.fixed r then v else addF v (p.bounds r))
    else if p.n + p.me ≤ r then (r, c, negF fone) else (r, c, v)

/-- A direction of all the variables. -/
structure Dir where
  x : List F64
  y : List F64
  z : List F64
  s : List F64
  zl : List F64
  zu : List F64
  sl : List F64
  su : List F64
  deriving DecidableEq, Repr

/-- A solve for a complementarity right-hand side: rows rc, lower and upper bounds rl and ru. -/
def Qp.dir (p : Qp) (f : Fac) (n ref : Nat) (i : Iterate) (rc rl ru : Nat → F64) : Dir × F64 :=
  let rd := p.rd i
  let rp := p.rp i
  let rg := p.rg i
  let el := fun j => subF (subF (vget i.x j) (vget p.l j)) (vget i.sl j)
  let eu := fun j => subF (subF (vget p.u j) (vget i.x j)) (vget i.su j)
  let b1 := p.cols.map fun j =>
    if p.fixed j then 0
    else fsum ([negF (vget rd j)] ++
      (if p.finL j then [divF (subF (rl j) (mulF (vget i.zl j) (el j))) (vget i.sl j)] else []) ++
      (if p.finU j then [negF (divF (subF (ru j) (mulF (vget i.zu j) (eu j))) (vget i.su j))] else []))
  let b3 := p.rows.map fun r => if p.finH r then subF (negF (vget rg r)) (divF (rc r) (vget i.z r)) else 0
  let sol := linSolve f n ref (b1 ++ rp.map negF ++ b3)
  let dx := sol.1.take p.n
  let dz := sol.1.drop (p.n + p.me)
  let dsl := p.cols.map fun j => if p.finL j then addF (vget dx j) (el j) else 0
  let dsu := p.cols.map fun j => if p.finU j then subF (eu j) (vget dx j) else 0
  ({
    x := dx, y := (sol.1.drop p.n).take p.me, z := dz,
    s := p.rows.map fun r => if p.finH r then divF (subF (rc r) (mulF (vget i.s r) (vget dz r))) (vget i.z r) else 0,
    zl := p.cols.map fun j => if p.finL j then divF (subF (rl j) (mulF (vget i.zl j) (vget dsl j))) (vget i.sl j) else 0,
    zu := p.cols.map fun j => if p.finU j then divF (subF (ru j) (mulF (vget i.zu j) (vget dsu j))) (vget i.su j) else 0,
    sl := dsl, su := dsu }, sol.2)

/-- The largest α with v + α·d ≥ 0 in every element; +∞ where no element limits it. -/
def maxStep (v d : List F64) : F64 :=
  (v.zip d).foldl (fun a p => if ltF p.2 0 then minF a (divF (negF p.1) p.2) else a) finf

def Qp.dss (p : Qp) (d : Dir) : List F64 := p.slacks d.s d.sl d.su
def Qp.dzs (p : Qp) (d : Dir) : List F64 := p.slacks d.z d.zl d.zu

def Qp.stepLen (p : Qp) (i : Iterate) (d : Dir) : F64 :=
  minF (maxStep (p.ss i) (p.dss d)) (maxStep (p.zs i) (p.dzs d))

def Qp.move (k : F64) (d : Dir) (i : Iterate) : Iterate :=
  {
    x := axpy k d.x i.x, y := axpy k d.y i.y, z := axpy k d.z i.z, s := axpy k d.s i.s,
    zl := axpy k d.zl i.zl, zu := axpy k d.zu i.zu, sl := axpy k d.sl i.sl, su := axpy k d.su i.su }

/-- What one iteration leaves (R95): the iterate, the direction's x, α, the factor's pivots, ρ_rel. -/
structure StepRes where
  it : Iterate
  dx : List F64 := []
  alpha : F64 := 0
  cnt : Nat := 0
  first : Option Nat := none
  rho : F64 := 0
  noprog : Bool := false
  last : F64 := 0
  ok : Bool := true
  deriving DecidableEq, Repr

def itFin (i : Iterate) : Bool :=
  allFin i.x && allFin i.y && allFin i.z && allFin i.s && allFin i.zl && allFin i.zu && allFin i.sl && allFin i.su

def qpSigma (st : SStruct) (j : Nat) : Bool := decide (j < st.nv)
/-- ρ_p and −ρ_d; the pivot of a fixed variable is 1 (R82). -/
def qpRho (st : SStruct) (d : Tbl F64) (j : Nat) : F64 :=
  if j < st.nv then (if (qpOf st d).fixed j then 0 else pPar d 12) else negF (pPar d 13)

/-- The factor of a scaled QP matrix. -/
def qpFac (st : SStruct) (d : Tbl F64) (sc : List F64) (ks : SMat) : Fac :=
  ldlOf ks sc st.order (qpRho st d) (pPar d 10) (pNat d 11) (qpSigma st)

/-- One predictor-corrector iteration (R95). -/
def qpIterate (st : SStruct) (d : Tbl F64) (sc : List F64) (i : Iterate) : StepRes :=
  let p := qpOf st d
  let f := qpFac st d sc (scaled sc (p.kkt st false i d))
  let c0 := fun (a b : List F64) (j : Nat) => negF (mulF (vget a j) (vget b j))
  let pr := p.dir f st.n st.ref i (c0 i.s i.z) (c0 i.sl i.zl) (c0 i.su i.zu)
  let aa := minF fone (p.stepLen i pr.1)
  let mu := p.mu i
  let ia := Qp.move aa pr.1 i
  let sg := divF (p.mu ia) mu
  let sm := mulF (mulF (mulF sg sg) sg) mu
  let c1 := fun (a b da db : List F64) (j : Nat) => addF (subF (negF (mulF (vget a j) (vget b j))) (mulF (vget da j) (vget db j))) sm
  let co := p.dir f st.n st.ref i (c1 i.s i.z pr.1.s pr.1.z) (c1 i.sl i.zl pr.1.sl pr.1.zl) (c1 i.su i.zu pr.1.su pr.1.zu)
  let al := minF fone (mulF (pPar d 5) (p.stepLen i co.1))
  let i1 := p.fixMult (Qp.move al co.1 i)
  {
    it := i1, dx := co.1.x, alpha := al, cnt := f.cnt, first := f.first, rho := maxF pr.2 co.2,
    ok := f.ok && itFin i1 }

/-- Elements shifted so that each is at least max(1, ‖v‖ × 2^-10) (R95). -/
def shiftUp (v : List F64) : F64 :=
  let least := maxF fone (mulF (ninf v) (pow2neg 10))
  let lo := v.foldl minF finf
  if v.isEmpty ∨ leF least lo then 0 else subF least lo

/-- The cold start (R95), in scaled units. DESIGN CHOICE (log entry 74): the rule names the matrix alone; the right-hand side is
(−c + l + u over the finite bounds, b, h) with the fixed variables at their bounds, and the unshifted s, z, bound slacks and
bound multipliers are s = −z, z_l = l − x, s_l = −z_l, z_u = x − u, s_u = −z_u. -/
def qpCold (st : SStruct) (d : Tbl F64) (sc : List F64) : StepRes :=
  let p := qpOf st d
  let f := qpFac st d sc (p.coldMat st d sc)
  let xf := p.cols.map fun j => if p.fixed j then vget p.l j else 0
  let sr := fun r => vget sc (p.n + p.me + r)
  let lo := fun j => divF (vget p.l j) (vget sc j)
  let hi := fun j => divF (vget p.u j) (vget sc j)
  let b1 := p.cols.map fun j =>
    if p.fixed j then 0
    else fsum ([mulF (vget sc j) (negF (addF (vget p.c j) (symMul p.q xf j)))] ++ (if p.finL j then [lo j] else []) ++
      (if p.finU j then [hi j] else []))
  let b2 := (List.range p.me).map fun r => mulF (vget sc (p.n + r)) (subF (vget p.b r) (rowMul p.a xf r))
  let b3 := p.rows.map fun r => if p.finH r then mulF (sr r) (subF (vget p.h r) (rowMul p.g xf r)) else 0
  let sol := solveScaled f st.n st.ref (b1 ++ b2 ++ b3)
  let z := sol.1.drop (p.n + p.me)
  let zl := p.cols.map fun j => if p.finL j then subF (lo j) (vget sol.1 j) else 0
  let zu := p.cols.map fun j => if p.finU j then subF (vget sol.1 j) (hi j) else 0
  let ks := shiftUp (p.slacks (z.map negF) (zl.map negF) (zu.map negF))
  let kz := shiftUp (p.slacks z zl zu)
  let i : Iterate := p.fixMult {
    x := p.cols.map fun j => mulF (vget sc j) (vget sol.1 j),
    y := (List.range p.me).map fun r => mulF (vget sc (p.n + r)) (vget sol.1 (p.n + r)),
    z := p.rows.map fun r => if p.finH r then mulF (sr r) (addF (vget z r) kz) else 0,
    s := p.rows.map fun r => if p.finH r then divF (addF (negF (vget z r)) ks) (sr r) else 0,
    zl := p.cols.map fun j => if p.finL j then divF (addF (vget zl j) kz) (vget sc j) else 0,
    zu := p.cols.map fun j => if p.finU j then divF (addF (vget zu j) kz) (vget sc j) else 0,
    sl := p.cols.map fun j => if p.finL j then mulF (vget sc j) (addF (negF (vget zl j)) ks) else 0,
    su := p.cols.map fun j => if p.finU j then mulF (vget sc j) (addF (negF (vget zu j)) ks) else 0 }
  { it := i, cnt := f.cnt, first := f.first, rho := sol.2, ok := f.ok && itFin i }

/-- The stored point as its matrix needs it: a slack or a multiplier that is 0, as that of a bound or row which has become
finite since the commit, stands at θ_w. DESIGN CHOICE (log entry 74). -/
def qpLift (st : SStruct) (d : Tbl F64) (i : Iterate) : Iterate :=
  let p := qpOf st d
  let up := fun (v : List F64) (k : Nat) => if ltF 0 (vget v k) then vget v k else pPar d 6
  { i with
    s := p.rows.map (up i.s), z := p.rows.map (up i.z), sl := p.cols.map (up i.sl), su := p.cols.map (up i.su),
    zl := p.cols.map (up i.zl), zu := p.cols.map (up i.zu) }

/-- The warm start: slacks and multipliers of the scaled problem are at least θ_w (R95, R106), and a fixed variable stands at
its bound (R82). A row's slack is scaled by its row, a bound's by the inverse of its column. -/
def qpPush (st : SStruct) (d : Tbl F64) (sc : List F64) (i : Iterate) : Iterate :=
  let p := qpOf st d
  let th := pPar d 6
  let sr := fun r => vget sc (p.n + p.me + r)
  p.fixMult { i with
    s := p.rows.map fun r => if p.finH r then maxF (vget i.s r) (divF th (sr r)) else 0,
    z := p.rows.map fun r => if p.finH r then maxF (vget i.z r) (mulF th (sr r)) else 0,
    sl := p.cols.map fun j => if p.finL j then maxF (vget i.sl j) (mulF th (vget sc j)) else 0,
    su := p.cols.map fun j => if p.finU j then maxF (vget i.su j) (mulF th (vget sc j)) else 0,
    zl := p.cols.map fun j => if p.finL j then maxF (vget i.zl j) (divF th (vget sc j)) else 0,
    zu := p.cols.map fun j => if p.finU j then maxF (vget i.zu j) (divF th (vget sc j)) else 0 }

/-- 1 + x. -/
def onePlus (x : F64) : F64 := addF fone x

/-- The measures M0 to M5 of a QP (Table 4-10). -/
def qpMeas (p : Qp) (i : Iterate) : List F64 :=
  [p.mu i, ninf (p.rp i), ninf (p.rg i), ninf (p.rd i), p.primal i, p.dual i]

/-- The tolerances of R96. -/
def qpOptimal (p : Qp) (d : Tbl F64) (i : Iterate) : Bool :=
  let m := qpMeas p i
  leF (vget m 1) (mulF (pPar d 1) (onePlus (ninf p.b))) &&
  leF (vget m 2) (mulF (pPar d 1) (onePlus (ninf ((p.rows.filter p.finH).map (vget p.h))))) &&
  leF (vget m 3) (mulF (pPar d 2) (onePlus (ninf p.c))) &&
  leF (absF (subF (vget m 4) (vget m 5))) (mulF (pPar d 3) (onePlus (absF (vget m 4))))

def two40 : F64 := ofNatF (2 ^ 40)

/-- The certificate of primal infeasibility (R97). -/
def certPrimal (p : Qp) (d : Tbl F64) (i : Iterate) : Bool :=
  let nu := ninf (i.y ++ i.z ++ i.zl ++ i.zu)
  let e := mulF (pPar d 4) nu
  ltF two40 nu &&
  leF (ninf (p.cols.map fun j => fsum [colMul p.a i.y j, colMul p.g i.z j, negF (vget i.zl j), vget i.zu j])) e &&
  leF (fsum ([dotF p.b i.y] ++ ((p.rows.filter p.finH).map fun r => mulF (vget p.h r) (vget i.z r)) ++
    ((p.cols.filter p.hasL).map fun j => negF (mulF (vget p.l j) (vget i.zl j))) ++
    ((p.cols.filter p.hasU).map fun j => mulF (vget p.u j) (vget i.zu j)))) (negF e)

/-- The certificate of dual infeasibility, with the last direction (R97). -/
def certDual (p : Qp) (d : Tbl F64) (i : Iterate) (dx : List F64) : Bool :=
  let e := mulF (pPar d 4) (ninf dx)
  !dx.isEmpty && ltF two40 (ninf i.x) &&
  leF (ninf (p.cols.map (symMul p.q dx))) e && leF (ninf ((List.range p.me).map (rowMul p.a dx))) e &&
  (p.rows.filter p.finH).all (fun r => leF (rowMul p.g dx r) e) &&
  leF (dotF p.c dx) (negF e) &&
  p.cols.all fun j => (!finF (vget p.l j) || leF (negF e) (vget dx j)) && (!finF (vget p.u j) || leF (vget dx j) e)

/-- The largest of the three feasibility measures of R96. -/
def qpFeas (p : Qp) (i : Iterate) : F64 := let m := qpMeas p i; maxF (vget m 1) (maxF (vget m 2) (vget m 3))

/-- The stall test of R98. -/
def qpStalled (lowAlpha : Nat) (hist : List (F64 × F64)) : Bool :=
  decide (3 ≤ lowAlpha) ||
  (match hist with
   | (m, f) :: _ =>
     (match hist[8]? with
      | some (m8, f8) =>
        let k : F64 := ofRatioF 99 100
        !ltF m (mulF k m8) && !ltF f (mulF k f8)
      | none => false)
   | [] => false)

/-! ### Hydraulic networks (R84 to R86, R99, R100) -/

def coef (d : Tbl F64) (b c : Nat) : F64 := dGet d 0x12 (20 * b + c)

/-- kv at a clamped position: linear between the 17 given positions (Table 3-2). -/
def kvAt (d : Tbl F64) (b : Nat) (th : F64) : F64 :=
  let x := mulF (maxF 0 (minF fone th)) (ofNatF 16)
  let k := min 15 (fToInt fmt64 .zero 0 16 x.toNat).1.toNat
  let a := coef d b (1 + k)
  let v := addF a (mulF (subF (coef d b (2 + k)) a) (subF x (ofNatF k)))
  maxF v (coef d b 18)

def qAbs (q : F64) : F64 := mulF q (absF q)
def ftwo : F64 := 0x4000000000000000

/-- Δh and its Jacobian entry of a branch (Table 3-2). -/
def lawOf (d : Tbl F64) (br : Branch) (b : Nat) (q : F64) : F64 × F64 :=
  let sq := fun k => (mulF k (qAbs q), mulF (mulF ftwo k) (absF q))
  if br.law = 1 then
    let s := dGet d 0x14 b
    if ltF (pPar d 9) s then
      let a0 := coef d b 0
      let a1 := coef d b 1
      let a2 := coef d b 2
      (negF (fsum [mulF (mulF a0 s) s, mulF (mulF a1 s) q, mulF (mulF a2 q) q]),
       negF (addF (mulF a1 s) (mulF (mulF ftwo a2) q)))
    else sq (coef d b 3)
  else if br.law = 2 then
    let kv := kvAt d b (dGet d 0x14 b)
    let k2 := mulF kv kv
    (divF (mulF (coef d b 0) (qAbs q)) k2, divF (mulF (mulF ftwo (coef d b 0)) (absF q)) k2)
  else sq (coef d b 0)

/-- The head at a node, free or fixed. -/
def headAt (st : SStruct) (d : Tbl F64) (h : List F64) (v : Nat) : F64 :=
  if v < st.nr1 then vget h v else dGet d 0x11 (v - st.nr1)

/-- f_branch and f_node (R84). -/
def fBranch (st : SStruct) (d : Tbl F64) (q h : List F64) : List F64 :=
  st.branch.zipIdx.map fun (br, b) =>
    fsum [(lawOf d br b (vget q b)).1, headAt st d h br.dst, negF (headAt st d h br.src)]
def fNode (st : SStruct) (d : Tbl F64) (q : List F64) : List F64 :=
  (List.range st.nr1).map fun v =>
    fsum ((st.branch.zipIdx.filterMap fun (br, b) =>
      if br.dst = v then some (vget q b) else if br.src = v then some (negF (vget q b)) else none) ++ [negF (dGet d 0x10 v)])

def norm2 (l : List F64) : F64 := dsum (l.map fun x => (x, x))

/-- The Jacobian (R99) without regularisation: D on the branches, A below. -/
def nwMat (st : SStruct) (d : Tbl F64) (q : List F64) : SMat :=
  (entries st).map fun (i, j, _) =>
    let v : F64 :=
      if i = j then
        (if i < st.nv then
          (match st.branch[i]? with
           | some br => maxF (lawOf d br i (vget q i)).2 (dGet d 0x13 i)
           | none => 0)
         else 0)
      else if i < st.nv then 0
      else
        match st.branch[j]? with
        | some br => if br.dst = i - st.nv then fone else if br.src = i - st.nv then negF fone else 0
        | none => 0
    (i, j, v)

/-- One damped Newton iteration (R99). -/
def nwIterate (st : SStruct) (d : Tbl F64) (sc : List F64) (i : Iterate) : StepRes :=
  let fb := fBranch st d i.x i.y
  let fn := fNode st d i.x
  let f := factor (nwMat st d i.x) sc st.order (fun j => if j < st.nv then pPar d 12 else negF (pPar d 13))
    (pPar d 10) (pNat d 11) (fun j => decide (j < st.nv))
  let sol := linSolve f st.n st.ref ((fb ++ fn).map negF)
  let dq := sol.1.take st.nv
  let dh := sol.1.drop st.nv
  let g0 := norm2 (fb ++ fn)
  let at_ := fun j => (axpy (pow2neg j) dq i.x, axpy (pow2neg j) dh i.y)
  let good := fun j =>
    let t := at_ j
    leF (norm2 (fBranch st d t.1 t.2 ++ fNode st d t.1)) (mulF (subF fone (divF (pow2neg j) (ofNatF 16))) g0)
  let js := (List.range st.nls).find? good
  let j := js.getD (st.nls - 1)
  let t := at_ j
  let i1 : Iterate := { x := t.1, y := t.2 }
  {
    it := i1, cnt := f.cnt, first := f.first, rho := sol.2, noprog := js.isNone, last := pow2neg j,
    ok := f.ok && itFin i1 }

def nwMeas (st : SStruct) (d : Tbl F64) (i : Iterate) (last : F64) : List F64 :=
  let fb := fBranch st d i.x i.y
  let fn := fNode st d i.x
  [ninf fb, ninf fn, norm2 (fb ++ fn), last, 0, 0]

def nwOptimal (st : SStruct) (d : Tbl F64) (i : Iterate) : Bool :=
  leF (ninf (fBranch st d i.x i.y)) (pPar d 7) && leF (ninf (fNode st d i.x)) (pPar d 8)

/-! ### State estimation (R87, R101) -/

/-- The augmented matrix of R87 without regularisation; a row of weight 0 is replaced. -/
def wlMat (st : SStruct) (d : Tbl F64) : SMat :=
  let w := fun i => dGet d 0x21 (i - st.nv)
  let isM := fun i => decide (st.nv ≤ i) && decide (i < st.nv + st.nr1)
  (entries st).map fun (i, j, e) =>
    let v : F64 :=
      if i = j then (if isM i then (if eqF (w i) 0 then negF fone else negF (divF fone (w i))) else 0)
      else if isM i && eqF (w i) 0 then 0
      else if j < st.nv ∧ st.nv ≤ i then dGet d 1 e else 0
    (i, j, v)

/-- The entries of H, with rows from 0. -/
def wlH (st : SStruct) (d : Tbl F64) : SMat :=
  (entries st).filterMap fun (i, j, e) =>
    if j < st.nv ∧ st.nv ≤ i ∧ i < st.nv + st.nr1 then some (i - st.nv, j, dGet d 1 e) else none

/-- z − H x. -/
def wlRes (st : SStruct) (d : Tbl F64) (i : Iterate) : List F64 :=
  (List.range st.nr1).map fun r => subF (dGet d 0x20 r) (rowMul (wlH st d) i.x r)

/-- The one solve of a WLS run. -/
def wlSolve (st : SStruct) (d : Tbl F64) (sc : List F64) : StepRes :=
  let f := factor (wlMat st d) sc st.order
    (fun j => if j < st.nv then pPar d 12 else if j < st.nv + st.nr1 then 0 else negF (pPar d 13))
    (pPar d 10) (pNat d 11) (fun j => decide (j < st.nv))
  let rhs := List.replicate st.nv (0 : F64) ++
    ((List.range st.nr1).map fun r => if eqF (dGet d 0x21 r) 0 then 0 else dGet d 0x20 r) ++ dVec d 0x22 st.nr2
  let sol := linSolve f st.n st.ref rhs
  let i1 : Iterate := { x := sol.1.take st.nv, y := (sol.1.drop st.nv).take st.nr1, z := sol.1.drop (st.nv + st.nr1) }
  { it := i1, cnt := f.cnt, first := f.first, rho := sol.2, ok := f.ok && itFin i1 }

/-- J, the index of the largest weighted residual, and that residual (Table 4-10). DESIGN CHOICE (log entry 74): among equal
residuals the lowest index. -/
def wlMeas (st : SStruct) (d : Tbl F64) (i : Iterate) : List F64 :=
  let r := wlRes st d i
  let wr := r.zipIdx.map fun p => mulF (absF p.1) (sqrtF (dGet d 0x21 p.2))
  let top := wr.zipIdx.foldl (fun (a : F64 × Nat) p => if ltF a.1 p.1 then (p.1, p.2) else a) (0, 0)
  [dsum (r.zipIdx.map fun p => (mulF (dGet d 0x21 p.2) p.1, p.1)), ofNatF top.2, top.1, 0, 0, 0]

end Sys2Proof.Machine
end

