-- ==== Sys2Proof/Machine/SolvLoad.lean ====
section
/-! DEFINITION. Structure descriptors: their parsing (R120 to R122), the arrays of the data set (Table 4-6),
the load validation of Table 4-2, and the cycle counts of Tables 3-5 and 3-6. -/

namespace Sys2Proof.Machine

def kQP : Nat := 1
def kNEWTON : Nat := 2
def kWLS : Nat := 3

/-- The bytes of a section of an image (R42). -/
def sectAt (im : Image) (typ num : Nat) : Option Bytes :=
  (im.dir.find? fun e => e.typ == typ && e.num == num).map fun e => slice im.bytes e.off e.len

def u32s (b : Bytes) (off n : Nat) : List Nat := (List.range n).map fun i => u32 b (off + 4 * i)
def f64At (b : Bytes) (off : Nat) : F64 := BitVec.ofNat 64 (u64 b off)
def up64 (n : Nat) : Nat := (n + 63) / 64 * 64

/-! ### Parsing -/

/-- A parameter byte: 0xFF takes the default (R121). -/
def byteParam (v dflt : Nat) : Nat := if v = 0xFF then dflt else v
/-- A parameter double: +0.0 takes the default (R121). -/
def dblParam (v dflt : F64) : F64 := if v = 0 then dflt else v

def tenNeg (k : Nat) : F64 := ofRatioF 1 (10 ^ k)

/-- The parameters in PARAM order (Table 4-7), defaults taken (Table 3-3, R121). -/
def headParams (b : Bytes) : List F64 :=
  let kind := u8 b 4
  let d := fun i => f64At b (0x38 + 8 * i)
  let im := u8 b 8
  [ofNatF (if im = 0 then (if kind = kWLS then 1 else 60) else im),
   dblParam (d 5) (tenNeg 8), dblParam (d 6) (tenNeg 8), dblParam (d 7) (tenNeg 8), dblParam (d 8) (tenNeg 10),
   dblParam (d 3) (ofRatioF 995 1000), dblParam (d 4) (pow2neg 10), dblParam (d 9) (tenNeg 6),
   dblParam (d 10) (tenNeg 9), dblParam (f64At b 0x90) (ofRatioF 5 100), dblParam (d 0) (pow2neg 40),
   ofNatF (byteParam (u8 b 9) 40), d 1, d 2]

/-- The offsets of the sub-tables of Table 4-4 from their lengths; the last entry is the end of the section. -/
def subOffs : Nat → Nat → List Nat → List Nat
  | _, e, [] => [e]
  | at_, e, n :: r => at_ :: (if n = 0 then subOffs at_ e r else subOffs (up64 (at_ + n)) (at_ + n) r)

/-- The number of entries that the arrays of a KIND take in INIT (Table 4-6). -/
def initArrays (kind nv nr1 nr2 nnzk : Nat) : List (Nat × Nat) :=
  if kind = kQP then [(1, nnzk), (2, nv), (3, nr1), (4, nr2), (5, nv), (6, nv)]
  else if kind = kNEWTON then [(0x10, nr1), (0x11, nr2), (0x12, 20 * nv), (0x13, nv), (0x14, nv)]
  else [(1, nnzk), (0x20, nr1), (0x21, nr1), (0x22, nr2)]

/-- The lengths of the sub-tables; the sum of the r_s is read from SUPER. -/
def subLens (b : Bytes) : List Nat :=
  let n := u32 b 0xC
  let ns := u32 b 0x24
  let base := 256 + ([4 * (n + 1), 4 * u32 b 0x1C, 4 * n].map up64).sum
  let rs := ((List.range ns).map fun i => u16 b (base + 8 * i + 6)).sum
  [4 * (n + 1), 4 * u32 b 0x1C, 4 * n, 8 * ns, 4 * rs, 8 * ns, if u8 b 4 = kNEWTON then 16 * u32 b 0x10 else 0,
   8 * ((initArrays (u8 b 4) (u32 b 0x10) (u32 b 0x14) (u32 b 0x18) (u32 b 0x1C)).map (·.2)).sum,
   24 * u32 b 0xE0, 24 * u32 b 0xE4]

def capBindAt (b : Bytes) (o : Nat) : CapBind :=
  { point := u32 b o, index := u32 b (o + 4), arr := u8 b (o + 8), scale := f64At b (o + 12) }
def pubBindAt (b : Bytes) (o : Nat) : PubBind := { src := u32 b o, point := u32 b (o + 4), scale := f64At b (o + 16) }

/-- A structure descriptor as read (R120, R122). -/
def parseStruct (b : Bytes) : SStruct :=
  let o := subOffs 256 256 (subLens b)
  let at_ := fun i => o.getD i 0
  let n := u32 b 0xC
  let ns := u32 b 0x24
  let sup := (List.range ns).map fun i =>
    ({ first := u32 b (at_ 3 + 8 * i), w := u16 b (at_ 3 + 8 * i + 4), r := u16 b (at_ 3 + 8 * i + 6) } : Supernode)
  {
    kind := u8 b 4, p := byteParam (u8 b 5) 4, ref := byteParam (u8 b 6) 2,
    nls := if u8 b 4 = kNEWTON then byteParam (u8 b 7) 4 else 0,
    n := n, nv := u32 b 0x10, nr1 := u32 b 0x14, nr2 := u32 b 0x18, nnzk := u32 b 0x1C, nnzl := u32 b 0x20,
    ns := ns, npump := u32 b 0x28, sig := BitVec.ofNat 64 (u64 b 0x30), params := headParams b,
    drBase := u64 b 0x98, drLen := u64 b 0xA0, ssBase := u32 b 0xA8, ssLen := u32 b 0xAC,
    bPhase := (List.range 6).map fun i => u64 b (0xB0 + 8 * i),
    ncap := u32 b 0xE0, npub := u32 b 0xE4, ring := u16 b 0xE8,
    colptr := u32s b (at_ 0) (n + 1), rowidx := u32s b (at_ 1) (u32 b 0x1C), order := u32s b (at_ 2) n,
    super := sup, frows := u32s b (at_ 4) (sup.map (·.r)).sum,
    place := (List.range ns).map fun i => u64 b (at_ 5 + 8 * i),
    branch := if u8 b 4 = kNEWTON then (List.range (u32 b 0x10)).map fun i =>
      { src := u32 b (at_ 6 + 16 * i), dst := u32 b (at_ 6 + 16 * i + 4), law := u8 b (at_ 6 + 16 * i + 8) } else [],
    capbind := (List.range (u32 b 0xE0)).map fun i => capBindAt b (at_ 8 + 24 * i),
    pubbind := (List.range (u32 b 0xE4)).map fun i => pubBindAt b (at_ 9 + 24 * i), resOff := u32 b 0xF4 }

/-- The initial data set: INIT, and the PARAM entries from the header (R126). -/
def initArr (b : Bytes) (off : Nat) : List (Nat × Nat) → Tbl F64 → Tbl F64
  | [], t => t
  | (a, n) :: r, t =>
    initArr b (off + 8 * n) r ((List.range n).foldl (fun t i => dPut t a i (f64At b (off + 8 * i))) t)

def putParams (st : SStruct) (t : Tbl F64) : Tbl F64 :=
  st.params.zipIdx.foldl (fun t p => dPut t 0x30 p.2 p.1) t

def initData (b : Bytes) (st : SStruct) : Tbl F64 :=
  putParams st (initArr b ((subOffs 256 256 (subLens b)).getD 7 0) (initArrays st.kind st.nv st.nr1 st.nr2 st.nnzk) [])

/-- The entries of the vector part (Table 4-12). -/
def vlen (st : SStruct) : Nat :=
  if st.kind = kQP then 3 * st.nv + st.nr1 + 2 * st.nr2
  else if st.kind = kNEWTON then 2 * st.n
  else st.nv + 2 * st.nr1 + st.nr2

/-! ### Data-set entries and their constraints (R127, Table 4-6) -/

/-- The length of an array of the structure's KIND; `none` where the KIND lacks it. -/
def arrLen (st : SStruct) (arr : Nat) : Option Nat :=
  let l : List (Nat × Nat) := initArrays st.kind st.nv st.nr1 st.nr2 st.nnzk ++ [(0x30, 14)]
  (l.find? fun p => p.1 == arr).map fun p => p.2

def lawAt (st : SStruct) (b : Nat) : Nat := match st.branch[b]? with | some x => x.law | none => 3

/-- The PARAM indices of a KIND (Tables 3-3, 4-7). -/
def paramOf (kind i : Nat) : Bool :=
  i == 0 || (decide (10 ≤ i) && decide (i ≤ 13)) || (kind == kQP && decide (i ≤ 6)) ||
  (kind == kNEWTON && decide (7 ≤ i) && decide (i ≤ 9))

/-- An entry that holds data: not a computed matrix entry, an unused coefficient or another KIND's parameter. -/
def isDataEntry (st : SStruct) (arr idx : Nat) : Bool :=
  if arr = 1 then
    match (entries st)[idx]? with
    | some (i, j, _) => decide (j < st.nv) && (st.kind == kQP || decide (st.nv ≤ i))
    | none => false
  else if arr = 0x12 then
    let c := idx % 20
    match lawAt st (idx / 20) with
    | 0 => c == 0
    | 1 => decide (c ≤ 3)
    | 2 => decide (c ≤ 18)
    | _ => false
  else if arr = 0x14 then lawAt st idx != 0
  else if arr = 0x30 then paramOf st.kind idx
  else true

def inRangeF (lo hi v : F64) : Bool := leF lo v && leF v hi
def integralF (v : F64) : Bool := finF v && eqF v (BitVec.ofNat 64 (fRnd fmt64 .zero v.toNat).1)

/-- The range of a parameter (Table 3-3). -/
def paramOk (kind i : Nat) (v : F64) : Bool :=
  match i with
  | 0 => integralF v && inRangeF fone (ofNatF (if kind = kWLS then 1 else 255)) v
  | 1 => inRangeF (tenNeg 14) (tenNeg 2) v
  | 2 => inRangeF (tenNeg 14) (tenNeg 2) v
  | 3 => inRangeF (tenNeg 14) (tenNeg 2) v
  | 4 => inRangeF (tenNeg 14) (tenNeg 4) v
  | 5 => inRangeF (ofRatioF 9 10) (ofRatioF 9999 10000) v
  | 6 => inRangeF (pow2neg 30) fone v
  | 7 => inRangeF (tenNeg 12) fone v
  | 8 => inRangeF (tenNeg 15) fone v
  | 9 => inRangeF 0 (ofRatioF 1 2) v
  | 10 => inRangeF (pow2neg 60) (pow2neg 20) v
  | 11 => integralF v && inRangeF (ofNatF 20) (ofNatF 60) v
  | _ => eqF v 0 || inRangeF (pow2neg 60) (pow2neg 20) v

/-- The constraint on a VALUE (Table 4-6). -/
def valueOk (st : SStruct) (arr idx : Nat) (v : F64) : Bool :=
  let ge0 := leF 0 v
  if arr = 4 ∨ arr = 6 then finF v || v == finf
  else if arr = 5 then finF v || v == fninf
  else if arr = 0x12 then
    finF v && (match lawAt st (idx / 20) with | 1 => decide (idx % 20 ≠ 3) || ge0 | _ => ge0)
  else if arr = 0x13 then finF v && ltF 0 v
  else if arr = 0x21 then finF v && ge0
  else if arr = 0x30 then paramOk st.kind idx v
  else finF v

/-- An entry that a delta or a capture may name (R127). -/
def targetOk (st : SStruct) (arr idx : Nat) : Bool :=
  match arrLen st arr with
  | some n => decide (idx < n) && isDataEntry st arr idx
  | none => false

/-! ### Cycle counts (R112, R113) -/

def solvRes (im : Image) : List DramRes := im.dram.filter fun r => r.master == 15

/-- T_dram(B) under the image's SOLV reservations (R112). -/
def tDram (im : Image) (b : Nat) : Nat :=
  let rs := solvRes im
  let s := (rs.map fun r => 2 ^ r.slog).foldl max 0
  let both := (rs.any fun r => r.channel == 0) && rs.any fun r => r.channel == 1
  if b = 0 then 0 else ceilDiv (ceilDiv b (if both then 128 else 64) * 25 * s) 4

def mTerm (w r : Nat) : Nat := ((List.range w).map fun i => (r - (i + 1)) * (r - i) / 2).sum
def aTerm (w r : Nat) : Nat := (r - w) * (r - w + 1) / 2

/-- The phases of Table 3-5. -/
structure Phases where
  init : Nat
  asm : Nat
  fact : Nat
  sol : Nat
  res : Nat
  step : Nat
  eval : Nat
  upd : Nat
  fin : Nat
  deriving DecidableEq, Repr

def phases (im : Image) (st : SStruct) : Phases :=
  let d := fun i => tDram im (st.bPhase.getD i 0)
  {
    init := max (st.p * ceilDiv (2 * st.nnzk) 64 + ceilDiv (16 * st.n) 64 + 1000) (d 0),
    asm := ceilDiv st.nnzk 16 + 200,
    fact := max ((st.super.map fun s => ceilDiv (mTerm s.w s.r) 64 + ceilDiv (aTerm s.w s.r) 64 + 40).sum) (d 1),
    sol := max (ceilDiv st.nnzl 16 + 24 * st.ns) (d 2),
    res := max (ceilDiv (12 * st.nnzk) 64 + 64) (d 3),
    step := max (ceilDiv (40 * st.n) 64 + 500) (d 4),
    eval := ceilDiv (24 * st.nv) 64 + 100,
    upd := ceilDiv (8 * st.n) 64 + 100,
    fin := max (ceilDiv (8 * st.n) 64 + 500) (d 5) }

def tLs (st : SStruct) (p : Phases) : Nat := (st.ref + 1) * p.sol + st.ref * p.res
def tCold (st : SStruct) (p : Phases) : Nat := p.asm + p.fact + tLs st p + p.step
def tIter (st : SStruct) (p : Phases) : Nat :=
  if st.kind = kQP then p.asm + p.fact + 2 * tLs st p + p.step
  else if st.kind = kNEWTON then (1 + st.nls) * p.eval + p.asm + p.fact + tLs st p + p.upd
  else p.asm + p.fact + tLs st p

/-! ### Validation (Table 4-2) -/

/-- What the validation of slot `k` reads beside the section: the image, and the structures of the other
slots that are READY or LOADING. -/
structure LoadCtx where
  im : Image
  k : Nat
  others : List SStruct
  /-- TYPE of each point. -/
  typ : Nat → Byte

def tasksOn (im : Image) (k : Nat) : List LTask := im.ltasks.filter fun t => t.master == 15 && t.sslot == k

def okFormat (c : LoadCtx) (b : Bytes) (st : SStruct) : Bool :=
  u32 b 0 == 0x52545353 && decide (1 ≤ st.kind) && decide (st.kind ≤ 3) &&
  (tasksOn c.im c.k).all (fun t => t.kind == st.kind) &&
  b.length == (subOffs 256 256 (subLens b)).getD 10 0 &&
  st.n == (if st.kind = kNEWTON then st.nv + st.nr1 else st.nv + st.nr1 + st.nr2) &&
  decide (st.ncap ≤ 65536) && decide (st.npub ≤ 16384) && (decide (st.ring < 64) || st.ring == 0xFFFF) &&
  (st.kind == kNEWTON || (u8 b 7 == 0xFF && st.npump == 0)) &&
  allZero b 0xA 2 && allZero b 0x2C 4 && allZero b 0xEA 2 && allZero b 0xF8 8 &&
  (let o := subOffs 256 256 (subLens b)
   (List.range st.ncap).all (fun i => allZero b (o.getD 8 0 + 24 * i + 9) 3 && allZero b (o.getD 8 0 + 24 * i + 20) 4) &&
   (List.range st.npub).all (fun i => allZero b (o.getD 9 0 + 24 * i + 8) 8))

/-- SIG recomputed (R123). -/
def sigOf (b : Bytes) : W64 :=
  let l := subLens b
  let o := subOffs 256 256 l
  let sub := fun i => slice b (o.getD i 0) (l.getD i 0)
  let br := ((List.range (l.getD 6 0 / 16)).map fun i => slice b (o.getD 6 0 + 16 * i) 9).flatten
  BitVec.ofNat 64 (u64 (sha384 (slice b 4 1 ++ slice b 0xC 0x20 ++ sub 0 ++ sub 1 ++ sub 2 ++ sub 3 ++ sub 4 ++ br)) 0)

def okParam (b : Bytes) (st : SStruct) : Bool :=
  decide (st.p ≤ 8) && decide (1 ≤ st.ref) && decide (st.ref ≤ 8) &&
  (st.kind != kNEWTON || (decide (1 ≤ st.nls) && decide (st.nls ≤ 8))) &&
  (headParams b).zipIdx.all fun p => paramOk st.kind p.2 p.1

def sumOf (f : SStruct → Nat) (st : SStruct) (l : List SStruct) : Nat := f st + (l.map f).sum

def okCapacity (c : LoadCtx) (st : SStruct) : Bool :=
  decide (st.ns ≤ 131072) && st.super.all (fun s => decide (s.r ≤ 1024) && decide (s.w ≤ 256)) &&
  (st.kind != kNEWTON || (decide (1 ≤ st.nr2) && decide (st.nr2 ≤ 64) && decide (st.npump ≤ 256))) &&
  decide (sumOf (·.nv) st c.others ≤ 262144) && decide (sumOf (fun x => x.n - x.nv) st c.others ≤ 262144) &&
  decide (sumOf (·.nnzk) st c.others ≤ 4194304) && decide (sumOf (·.nnzl) st c.others ≤ 33554432)

def nondec : List Nat → Bool
  | a :: b :: r => decide (a ≤ b) && nondec (b :: r)
  | _ => true

/-- The position of each matrix index in ORDER. -/
def posOf (st : SStruct) (i : Nat) : Nat := (st.order.findIdx? (· == i)).getD 0

/-- The symbolic factor by position: the later positions that each column reaches. -/
def symbolic (st : SStruct) : List (List Nat) :=
  let adj := (entries st).map fun e => (min (posOf st e.1) (posOf st e.2.1), max (posOf st e.1) (posOf st e.2.1))
  (List.range st.n).foldl (fun cols p =>
    let own := adj.filterMap fun e => if e.1 = p ∧ p < e.2 then some e.2 else none
    let kids := (cols.filter fun c => c.foldl min st.n == p).map fun c => c.filter (· != p)
    cols ++ [(own ++ kids.flatten).eraseDups]) []

/-- The rows of each supernode: its slice of FROWS. -/
def superRows (st : SStruct) : Nat → List Supernode → List (Supernode × List Nat)
  | _, [] => []
  | at_, s :: r => (s, (st.frows.drop at_).take s.r) :: superRows st (at_ + s.r) r

def okPattern (b : Bytes) (st : SStruct) : Bool :=
  let sy := symbolic st
  nondec st.colptr && st.colptr.getLast? == some st.nnzk && st.colptr.head? == some 0 &&
  (entries st).all (fun e => decide (e.1 < st.n) && decide (e.2.1 ≤ e.1)) &&
  (List.range st.n).all (fun j => (entries st).any fun e => e.1 == j && e.2.1 == j) &&
  (List.range st.n).all (fun i => st.order.contains i) &&
  st.super.all (fun s => decide (1 ≤ s.w) && decide (s.w ≤ s.r)) &&
  (List.range st.n).all (fun p => (st.super.filter fun s => decide (s.first ≤ p) && decide (p < s.first + s.w)).length == 1) &&
  st.super.all (fun s => decide (s.first + s.w ≤ st.n)) &&
  (superRows st 0 st.super).all (fun sr => (List.range sr.1.w).all fun i =>
    let p := sr.1.first + i
    sr.2.contains (st.order.getD p 0) && (sy.getD p []).all fun q => sr.2.contains (st.order.getD q 0)) &&
  (st.kind != kNEWTON ||
    (st.branch.all (fun r => decide (r.src < st.nr1 + st.nr2) && decide (r.dst < st.nr1 + st.nr2) && decide (r.law ≤ 2)) &&
     (let o := (subOffs 256 256 (subLens b)).getD 6 0
      (List.range st.nv).all fun i => allZero b (o + 16 * i + 9) 7) &&
     st.npump == (st.branch.filter fun r => r.law == 1).length))

/-- A window of SOLV with both permissions holds the region. -/
def regionOk (im : Image) (base len : Nat) : Bool :=
  im.wins.any fun w => w.master == 15 && bit w.perm 0 && bit w.perm 1 && decide (w.base ≤ base) && decide (base + len ≤ w.limit + 1)

def meets (a la b lb : Nat) : Bool := decide (a < b + lb) && decide (b < a + la)

def okPlacement (c : LoadCtx) (st : SStruct) : Bool :=
  let staged := st.bPhase.any (· != 0) || st.place.any (fun p => bit p 63)
  let slots := c.im.slots.filter fun e => e.master == 15 && bit e.flags 0 && (tasksOn c.im c.k).any (fun t => t.task == e.task)
  decide (st.ssBase + st.ssLen ≤ 2 ^ 25) && c.others.all (fun o => !meets st.ssBase st.ssLen o.ssBase o.ssLen) &&
  regionOk c.im st.drBase st.drLen &&
  st.place.all (fun p => decide (p % 2 ^ 40 < if bit p 63 then st.drLen else st.ssLen)) &&
  (!staged || (!(solvRes c.im).isEmpty && slots.all fun e => bit e.res 3))

def okOffsets (b : Bytes) (st : SStruct) : Bool :=
  decide (u32 b 0xEC < st.drLen) && decide (u32 b 0xF0 < st.drLen) && decide (u32 b 0xF4 < st.drLen)

def okBinding (c : LoadCtx) (st : SStruct) : Bool :=
  let pts := st.pubbind.map (·.point)
  st.capbind.all (fun x => decide (x.point < 131072) && c.typ x.point != 0 && targetOk st x.arr x.index) &&
  st.pubbind.all (fun x => decide (x.point < 131072) && c.typ x.point != 0 && decide (x.src < vlen st)) &&
  pts.eraseDups.length == pts.length

def okValue (b : Bytes) (st : SStruct) : Bool :=
  let d := initData b st
  (initArrays st.kind st.nv st.nr1 st.nr2 st.nnzk).all fun p =>
    (List.range p.2).all fun i => !isDataEntry st p.1 i || valueOk st p.1 i (dGet d p.1 i)

/-- LOADERR of a section: the first failing check of Table 4-2. -/
def loadErr (c : LoadCtx) (b : Bytes) : Nat :=
  let st := parseStruct b
  if !okFormat c b st then 1 else if sigOf b ≠ st.sig then 2 else if !okParam b st then 3
  else if !okCapacity c st then 4 else if !okPattern b st then 5 else if !(okPlacement c st && okOffsets b st) then 6
  else if !okBinding c st then 7 else if !okValue b st then 8 else 0

end Sys2Proof.Machine
end

