-- ==== Sys2Proof/Machine/Image.lean ====
section
/-! DEFINITION. The Bornen image: header, directory and framing (R41 to R44, R514), the entries of the
schedule sections (R45 to R52), and what the other sections hold (R192, R193, R210, R241, R261, R287, R320,
R321, R346). -/

namespace Sys2Proof.Machine

/-- ITEM of a header field or condition (Table 2-30). -/
def itemHdr : Nat := 0xFFFFFF

/-- The header fields of Table 2-1. -/
def parseHeader (b : Bytes) : Image :=
  {
    bytes := b.take (u32 b 8), imgLen := u32 b 8, root := u8 b 0xE, minRev := u8 b 0xF,
    imgId := BitVec.ofNat 64 (u64 b 0x10), predId := BitVec.ofNat 64 (u64 b 0x18),
    imgSeq := BitVec.ofNat 64 (u64 b 0x20), l := u32 b 0x28, m := u32 b 0x2C, snapAt := u32 b 0x30,
    commitAt := u32 b 0x34, stageLen := u32 b 0x38, engMask := u32 b 0x3C, flags := u32 b 0x40, glieb := slice b 0x60 32 }

/-- ASCII, padded with 0x00. -/
def asciiPadded (b : Bytes) : Bool :=
  let t := b.dropWhile (· != 0)
  (b.take (b.length - t.length)).all (fun c => decide (c.toNat < 128)) && t.all (· == 0)

/-- The conditions of R41 on the header of the bytes in the bank. -/
def headerOk (b : Bytes) : Bool :=
  let h := parseHeader b
  let n := u16 b 0xC
  u32 b 0 == 0x4E4E5242 && u16 b 4 == 1 && u16 b 6 == 0x80 && h.imgLen % 64 == 0 && decide (h.imgLen ≤ 2 ^ 28) &&
  decide (h.imgLen ≤ b.length) && decide (6 ≤ n) && decide (n ≤ 64) && decide (0x80 + 16 * n ≤ h.imgLen) &&
  decide (h.root ≤ 3) && h.imgId != 0 && decide (250000 ≤ h.l) && decide (h.l ≤ 10000000) && h.l % 1000 == 0 &&
  decide (1 ≤ h.m) && decide (h.m ≤ 65536) && h.stageLen % 64 == 0 && decide (h.stageLen ≤ 262144) &&
  decide (h.flags < 4) && h.engMask &&& 0xFE000003 == 0 && allZero b 0x44 28 && decide (h.minRev < 128) && asciiPadded h.glieb

def dirEntAt (b : Bytes) (i : Nat) : DirEnt :=
  let o := 0x80 + 16 * i
  { typ := u16 b o, num := u16 b (o + 2), off := u32 b (o + 4), len := u32 b (o + 8), crc := u32 b (o + 12) }

def parseDir (b : Bytes) : List DirEnt := (List.range (u16 b 0xC)).map (dirEntAt b)

/-- The section types with their largest INST (Table 2-2). -/
def sectTypes : List (Nat × Nat) :=
  [(0x01, 0), (0x02, 0), (0x03, 0), (0x04, 0), (0x05, 0), (0x06, 0), (0x10, 0), (0x11, 7), (0x12, 7), (0x13, 0),
   (0x14, 0), (0x18, 3), (0x19, 0), (0x1A, 0), (0x20, 3), (0x21, 0), (0xFF, 0)]

/-- Entry `i` of the directory obeys R42 to R44: it overlaps no earlier section, and SIG is last. A structure slot beyond the
four is left to check 0x06 (Tables 2-8 and 2-30). -/
def dirEntOk (h : Image) (d : List DirEnt) (i : Nat) (e : DirEnt) : Bool :=
  (sectTypes.any (fun t => t.1 == e.typ && decide (e.num ≤ t.2)) ||
    (e.typ == 0x20 && decide (4 < (d.filter fun p => p.typ == 0x20).length))) &&
  !((d.take i).any fun p => p.typ == e.typ && p.num == e.num) &&
  e.off % 64 == 0 && decide (0x80 + 16 * d.length ≤ e.off) && decide (e.off + e.len ≤ h.imgLen) &&
  ((d.take i).all fun p => decide (p.off + p.len ≤ e.off) || decide (e.off + e.len ≤ p.off)) &&
  (e.typ != 0xFF || i + 1 == d.length) &&
  (e.typ != 0xFF || (e.crc == 0 && e.len == 128 && e.off + 128 == h.imgLen))

def holdsBit (h : Image) (m : Nat) : Bool := bit h.engMask m

/-- The sections that R43 requires of the image. -/
def required (h : Image) : List (Nat × Nat) :=
  let one := fun (c : Bool) (t n : Nat) => if c then [(t, n)] else []
  [(1, 0)] ++ one (holdsBit h 15 || holdsBit h 16) 2 0 ++ [(3, 0), (4, 0), (5, 0)] ++ one (bit h.flags 1) 6 0 ++ [(0x10, 0)] ++
  ((List.range 8).map fun e => one (holdsBit h (2 + e)) 0x11 e).flatten ++
  ((List.range 8).map fun e => one (holdsBit h (2 + e)) 0x12 e).flatten ++
  one (holdsBit h 18 || holdsBit h 19) 0x13 0 ++ one (holdsBit h 18 || holdsBit h 19 || holdsBit h 20) 0x14 0 ++
  ((List.range 4).map fun e => one (holdsBit h (10 + e)) 0x18 e).flatten ++
  one (holdsBit h 14) 0x19 0 ++ one (holdsBit h 21) 0x1A 0 ++ one (holdsBit h 16) 0x21 0 ++
  [(0xFF, 0)]

/-- The entry size of a schedule section (R45 to R52). -/
def entrySize (t : Nat) : Nat :=
  match t with
  | 1 => 24
  | 2 => 32
  | 3 => 24
  | 4 => 8
  | 5 => 24
  | _ => 24

/-- The framing of a schedule section (R514). -/
def framed (h : Image) (e : DirEnt) : Bool :=
  !(decide (1 ≤ e.typ) && decide (e.typ ≤ 6)) ||
  (let b := slice h.bytes e.off e.len
   decide (16 ≤ e.len) && allZero b 4 12 && e.len == 16 + u32 b 0 * entrySize e.typ)

/-! ### Entries of the schedule sections -/

def slotOf (b : Bytes) : SlotE :=
  { start := u32 b 0, budget := u32 b 4, period := if u16 b 8 = 0 then 65536 else u16 b 8, phase := u16 b 10,
    task := u16 b 12, master := u8 b 14, flags := u8 b 15, res := u32 b 16, rsvd := u32 b 20 }

def ltaskOf (b : Bytes) : LTask :=
  { task := u16 b 0, master := u8 b 2, kind := u8 b 3, sslot := u8 b 4, periodMaj := u32 b 8, phaseMaj := u32 b 12,
    pubOff := u32 b 16, rsvd := leNat (slice b 5 3) + leNat (slice b 20 12) }

def winOf (b : Bytes) : Win :=
  { base := u64 b 0, limit := u64 b 8, master := u8 b 16, perm := u8 b 17, rsvd := leNat (slice b 18 6) }

def dramResOf (b : Bytes) : DramRes :=
  { master := u8 b 0, channel := u8 b 1, slog := u8 b 2, offset := u16 b 4, rsvd := u8 b 3 + u16 b 6 }

def xingOf (b : Bytes) : Xing :=
  { xid := u8 b 0, pkind := u8 b 1, ckind := u8 b 2, dframe := u8 b 3, pref := u32 b 4, cref := u32 b 8,
    lat := u32 b 12, rsvd := u64 b 16 }

def carryOf (b : Bytes) : CarryE :=
  { cls := u8 b 0, action := u8 b 1, seng := u8 b 2, deng := u8 b 3, src := u32 b 4, dst := u32 b 8, len := u32 b 12,
    rsvd := u64 b 16 }

/-- The entries of a schedule section of the image; none where the image lacks it. -/
def entriesOf {α : Type} (h : Image) (t : Nat) (f : Bytes → α) : List α :=
  match sectAt h t 0 with
  | none => []
  | some b => (List.range (u32 b 0)).map fun i => f (slice b (16 + entrySize t * i) (entrySize t))

/-- The image with its directory and schedule sections. -/
def parseImage (b : Bytes) : Image :=
  let h := { parseHeader b with
    dir := parseDir b }
  { h with
    slots := entriesOf h 1 slotOf, ltasks := entriesOf h 2 ltaskOf, wins := entriesOf h 3 winOf,
    dram := entriesOf h 4 dramResOf, xing := entriesOf h 5 xingOf, carry := entriesOf h 6 carryOf }

/-! ### PIMAGE (R192) -/

def sectOr (im : Image) (t n : Nat) : Bytes := (sectAt im t n).getD []

/-- The offset of the staging map. -/
def stgMapAt (b : Bytes) : Nat := up64 (64 + 16 * u32 b 4)

def ptRecAt (b : Bytes) (p : Nat) : Point :=
  let o := 64 + 16 * p
  { value := BitVec.ofNat 64 (u64 b o), qual := BitVec.ofNat 3 (u8 b (o + 8)), typ := byteAt b (o + 9),
    cls := byteAt b (o + 10), owner := byteAt b (o + 11) }

/-- The record of a point in the image; the undefined record for TYPE 0 and beyond NPOINT (R168). -/
def imgPoint (im : Image) (p : Nat) : Point :=
  let b := sectOr im 0x10 0
  let r := ptRecAt b p
  if p ≥ u32 b 4 ∨ r.typ = 0 then pointUndef else r

/-- The point of each staging entry. -/
def stageMap (b : Bytes) : List Nat := u32s b (stgMapAt b) (u32 b 8)

/-- OWNER is allowed by CLASS (Table 6-3). -/
def ownerOk (cls owner : Nat) : Bool :=
  match cls with
  | 0 => decide (18 ≤ owner) && decide (owner ≤ 21)
  | 1 => decide (2 ≤ owner) && decide (owner ≤ 14)
  | 2 => decide (2 ≤ owner) && decide (owner ≤ 14)
  | 3 => owner == 1 || owner == 15 || owner == 16 || owner == 17
  | _ => false

/-- The contents of PIMAGE; a count above 131,072 is left to check 0x06 (Table 2-30). -/
def pimageOk (im : Image) (b : Bytes) : Bool :=
  let n := u32 b 4
  let map := stageMap b
  let inputs := (List.range n).filter fun p => (ptRecAt b p).typ != 0 && (ptRecAt b p).cls == 0
  decide (64 ≤ b.length) && u32 b 0 == 0x474D4950 && decide (1 ≤ n) &&
  16 * u32 b 8 == im.stageLen && allZero b 12 52 && b.length == stgMapAt b + 4 * u32 b 8 &&
  (List.range n).all (fun p =>
    let r := ptRecAt b p
    r.typ == 0 || (decide (r.typ.toNat ≤ 8) && ownerOk r.cls.toNat r.owner.toNat &&
      [0, 1, 2, 4, 5].contains (u8 b (64 + 16 * p + 8)))) &&
  inputs.all (fun p => (map.filter (· == p)).length == 1) && map.all (fun p => inputs.contains p)

/-! ### CDATA and CCODE (R193, R210, R211) -/

/-- The offsets of the constant image, the variable image and the two directories. -/
def cdataOffs (b : Bytes) : List Nat := subOffs 64 64 [u32 b 8, u32 b 12, 16 * u16 b 16, 16 * u16 b 18]

def dirTimers (b : Bytes) : List Timer := (List.range (u16 b 16)).map fun i =>
  { hash := BitVec.ofNat 64 (u64 b ((cdataOffs b).getD 2 0 + 16 * i)), typ := byteAt b ((cdataOffs b).getD 2 0 + 16 * i + 8) }
def dirEdges (b : Bytes) : List EdgeDet := (List.range (u16 b 18)).map fun i =>
  { hash := BitVec.ofNat 64 (u64 b ((cdataOffs b).getD 3 0 + 16 * i)), typ := byteAt b ((cdataOffs b).getD 3 0 + 16 * i + 8) }

def apart {α : Type} [DecidableEq α] (l : List α) : Bool := l.eraseDups.length == l.length

def cdataOk (b : Bytes) : Bool :=
  let o := cdataOffs b
  let res := fun (k n : Nat) => (List.range n).all fun i => allZero b (o.getD k 0 + 16 * i + 9) 7
  decide (64 ≤ b.length) && u32 b 0 == 0x41544443 && decide (u8 b 4 ≤ 2) && allZero b 5 3 && allZero b 0x14 44 &&
  u32 b 8 % 64 == 0 && u32 b 12 % 64 == 0 && decide (256 + u32 b 8 + u32 b 12 ≤ 262144) &&
  decide (u16 b 16 ≤ 4096) && decide (u16 b 18 ≤ 4096) && b.length == o.getD 4 0 &&
  res 2 (u16 b 16) && res 3 (u16 b 18) &&
  (dirTimers b).all (fun t => decide (1 ≤ t.typ.toNat) && decide (t.typ.toNat ≤ 3)) &&
  (dirEdges b).all (fun t => decide (1 ≤ t.typ.toNat) && decide (t.typ.toNat ≤ 2)) &&
  apart ((dirTimers b).map (·.hash)) && apart ((dirEdges b).map (·.hash))

def codeOffs (b : Bytes) : List Nat := subOffs 64 64 [16 * u16 b 12, 8 * u32 b 8]

/-- The instructions of a CCODE section, and its tasks. -/
def codeWords (b : Bytes) : List Nat := (List.range (u32 b 8)).map fun i => u64 b ((codeOffs b).getD 1 0 + 8 * i)
def codeTasks (b : Bytes) : List CellTask := (List.range (u16 b 12)).map fun i =>
  let o := (codeOffs b).getD 0 0 + 16 * i
  { task := BitVec.ofNat 16 (u16 b o), entry := u32 b (o + 4), path := u32 b (o + 8) }

def ccodeOk (im : Image) (e : Nat) (b : Bytes) : Bool :=
  let cd := sectOr im 0x12 e
  let w := codeWords b
  let o := (codeOffs b).getD 0 0
  decide (64 ≤ b.length) && u32 b 0 == 0x444F4343 && u32 b 4 == 0 && decide (1 ≤ u32 b 8) && decide (u32 b 8 ≤ 32768) &&
  decide (1 ≤ u16 b 12) && decide (u16 b 12 ≤ 256) && allZero b 0xE 50 && b.length == (codeOffs b).getD 2 0 &&
  (List.range (u16 b 12)).all (fun i => allZero b (o + 16 * i + 2) 2 && allZero b (o + 16 * i + 12) 4) &&
  w.all (validWord false) && loopsOk w (w.length + 1) 0 0 (w.length - 1) &&
  w.all (fun v => (wOp v != 0x58 || decide (bits v 11 0 < u16 cd 16)) && (wOp v != 0x59 || decide (bits v 11 0 < u16 cd 18))) &&
  apart ((codeTasks b).map (·.task)) &&
  (codeTasks b).all (fun t => pathTime w t.entry == some t.path && decide (t.path ≤ 10000000))

/-! ### LOOPCFG (R241, Table 8-3) -/

def loopCfgAt (b : Bytes) (o : Nat) : LoopCfg :=
  let f := fun i => f64At b (o + 0x28 + 8 * i)
  { mpt := u32 b o, sppt := u32 b (o + 4), opt := u32 b (o + 8), ffpt := u32 b (o + 12), trkpt := u32 b (o + 16),
    modept := u32 b (o + 20), div := u32 b (o + 24), lph := u32 b (o + 28), flags := byteAt b (o + 0x20),
    outer := u8 b (o + 0x21), initMode := BitVec.ofNat 2 (u8 b (o + 0x22)), fecnt := u32 b (o + 0x24),
    kp := f 0, ki := f 1, kd := f 2, tf := f 3, umin := f 4, umax := f 5, vmax := f 6, amax := f 7, jmax := f 8,
    felim := f 9, uman := f 10, spfix := f 11 }

def loopCfgs (b : Bytes) : List LoopCfg := (List.range (u32 b 4)).map fun i => loopCfgAt b (64 + 192 * i)

def nonNegF (v : F64) : Bool := finF v && leF 0 v
def definedIn (im : Image) (p : Nat) : Bool := (imgPoint im p).typ != 0
def noneOr (p : Nat) (c : Bool) : Bool := p == 0xFFFFFFFF || c

/-- The loops of the cascade above loop `i`, itself included. -/
def cascadeDepth (l : List LoopCfg) : Nat → Nat → Nat
  | 0, _ => 0
  | fuel + 1, i =>
    match l[i]? with
    | some c => if bit c.flags.toNat 4 then 1 + cascadeDepth l fuel c.outer else 1
    | none => 0

def cascadeOk (l : List LoopCfg) (i : Nat) (c : LoopCfg) : Bool :=
  !(bit c.flags.toNat 4) ||
  (match l[c.outer]? with
   | some o => decide (c.outer < i) && o.div % max 1 c.div == 0 && o.lph % max 1 c.div == c.lph && decide (cascadeDepth l 5 i ≤ 4)
   | none => false)

/-- The numeric faults of R241. -/
def loopNums (c : LoopCfg) : Bool :=
  [c.ki, c.kd, c.tf, c.felim, c.vmax, c.amax, c.jmax].all nonNegF && ltF c.umin c.umax &&
  (!(bit c.flags.toNat 2) || (ltF 0 c.vmax && ltF 0 c.amax && ltF 0 c.jmax)) &&
  decide (1 ≤ c.fecnt) && decide (c.fecnt ≤ 65535)

def loopTime (l : Nat) (c : LoopCfg) : Bool :=
  decide (250000 ≤ c.div * l) && decide (c.div * l ≤ 10000000000) && decide (c.lph < c.div)

/-- The loops of all LOOPCFG sections. -/
def loopTotal (im : Image) : Nat := ((List.range 4).map fun e => u32 (sectOr im 0x18 e) 4).sum

/-- The contents of LOOPCFG; more than 512 loops in all are left to check 0x06 (Table 2-30). -/
def loopcfgOk (im : Image) (e : Nat) (b : Bytes) : Bool :=
  let l := loopCfgs b
  decide (64 ≤ b.length) && u32 b 0 == 0x504F4F4C && decide (1 ≤ u32 b 4) && (decide (u32 b 4 ≤ 128) || decide (512 < loopTotal im)) &&
  b.length == 64 + 192 * u32 b 4 &&
  l.zipIdx.all fun p =>
    let c := p.1
    let out := imgPoint im c.opt
    definedIn im c.mpt && [c.sppt, c.ffpt, c.trkpt, c.modept].all (fun q => noneOr q (definedIn im q)) &&
    out.typ != 0 && (out.cls == 1 || out.cls == 2) && out.owner.toNat == 10 + e && loopTime im.l c &&
    cascadeOk l p.2 c && loopNums c && decide (u8 b (64 + 192 * p.2 + 0x22) ≤ 3)

/-! ### AXISCFG (R261, Table 8-7) -/

def axisCfgAt (b : Bytes) (n : Nat) : AxisCfg :=
  let o := 64 + 128 * n
  let f := fun i => f64At b (o + 0x20 + 8 * i)
  { tgtpt := u32 b o, pospt := u32 b (o + 4), stoppt := u32 b (o + 8), statpt := u32 b (o + 12), en := bit (u8 b (o + 0x11)) 0,
    dirinv := bit (u8 b (o + 0x11)) 1, ihold := u8 b (o + 0x14), irun := u8 b (o + 0x15), imax := u8 b (o + 0x16),
    iinc := u8 b (o + 0x17), loadhi := u8 b (o + 0x18), loadlo := u8 b (o + 0x19), holdt := u16 b (o + 0x1A),
    stallt := u32 b (o + 0x1C), vmax := f 0, amax := f 1, jmax := f 2, fdec := f 3, vstart := f 4,
    slmin := BitVec.ofNat 64 (u64 b (o + 0x48)), slmax := BitVec.ofNat 64 (u64 b (o + 0x50)) }

def axisCfgs (b : Bytes) : List AxisCfg := (List.range 16).map (axisCfgAt b)
def axisGroups (b : Bytes) : List AxGroupCfg := (List.range 4).map fun g =>
  { trigpt := u32 b (2112 + 16 * g), mask := BitVec.ofNat 16 (u16 b (2112 + 16 * g + 4)) }

def posLimit (v : F64) : Bool := finF v && ltF 0 v
def in48 (v : W64) : Bool := decide (-(2 ^ 47 : Int) ≤ v.toInt) && decide (v.toInt < 2 ^ 47)

def axisOk (im : Image) (c : AxisCfg) : Bool :=
  let mem := fun p => (imgPoint im p).typ != 0 && (imgPoint im p).cls == 2 && (imgPoint im p).owner.toNat == 14
  decide (c.slmin.toInt < c.slmax.toInt) && in48 c.slmin && in48 c.slmax && leF c.vmax (ofNatF 4000000) &&
  [c.vmax, c.amax, c.jmax, c.fdec].all posLimit && decide (c.irun ≤ c.imax) && decide (c.ihold ≤ c.imax) && c.stallt != 0 &&
  (imgPoint im c.tgtpt).typ == 4 && noneOr c.pospt (mem c.pospt) && noneOr c.statpt (mem c.statpt)

def popCount (v : Nat) (n : Nat) : Nat := ((List.range n).filter fun i => bit v i).length

def axiscfgOk (im : Image) (b : Bytes) : Bool :=
  let l := axisCfgs b
  let g := (axisGroups b).map fun x => x.mask.toNat
  b.length == 2176 && u32 b 0 == 0x53495841 && u8 b 4 == (l.filter (·.en)).length &&
  (List.range 16).all (fun n => decide ((g.filter fun m => bit m n).length ≤ 1)) &&
  g.all (fun m => m == 0 || decide (2 ≤ popCount m 16)) && l.all (fun c => !c.en || axisOk im c)

/-! ### METRCFG (R287, Table 9-9) -/

/-- A feed; CREEP: 0 takes the default of 0.000 15 (R268, log entry 47). -/
def mFeedAt (b : Bytes) (f : Nat) : MFeedCfg :=
  let o := 64 + 64 * f
  { en := bit (u8 b o) 0, twen := bit (u8 b (o + 1)) 0, twph := u8 b (o + 2), twthr := BitVec.ofNat 12 (u16 b (o + 4)),
    inA := f64At b (o + 8), pmax := f64At b (o + 16), creep := dblParam (f64At b (o + 24)) (ofRatioF 15 100000), zxhys := f64At b (o + 32) }

def mPairAt (b : Bytes) (k : Nat) : MPairCfg :=
  let o := 320 + 64 * k
  { en := bit (u8 b o) 0, src := u8 b (o + 1), pls := u8 b (o + 2), dirsrc := u8 b (o + 3), vloc := u8 b (o + 4),
    pvol := BitVec.ofNat 64 (u64 b (o + 8)), fk := f64At b (o + 16), hmax := f64At b (o + 24), vfpt := u32 b (o + 32),
    vrpt := u32 b (o + 36), dirpt := u32 b (o + 40) }

def mBindAt (b : Bytes) (i : Nat) : MBind :=
  let o := 1344 + 16 * i
  { kind := u8 b o, index := u8 b (o + 1), point := u32 b (o + 4), scale := f64At b (o + 8) }

/-- PK: 0 takes the default of 1.6 MPa. -/
def metrCfgOf (b : Bytes) : MetrCfg :=
  { fs := u8 b 4, fnom := u8 b 5, intmf := u32 b 8, closeAt := u32 b 12, pk := dblParam (f64At b 16) (ofNatF 1600000),
    xtol := f64At b 24, xabs := f64At b 32, feeds := (List.range 4).map (mFeedAt b), pairs := (List.range 16).map (mPairAt b),
    binds := (List.range (u16 b 6)).map (mBindAt b) }

/-- The fields of a pair (R287), disabled or not. DESIGN CHOICE (log entry 47): the volume points have any TYPE but BOOL. -/
def mPairOk (im : Image) (c : MPairCfg) : Bool :=
  decide (c.src ≤ 2) && decide (c.pls < 16) && decide (c.dirsrc ≤ 2) && decide (c.vloc ≤ 1) &&
  (c.src != 2 || c.vfpt != 0xFFFFFFFF) && (c.dirsrc != 2 || c.dirpt != 0xFFFFFFFF) &&
  noneOr c.vfpt (volTyp c.vfpt) && noneOr c.vrpt (volTyp c.vrpt) && noneOr c.dirpt ((imgPoint im c.dirpt).typ == 1)
where volTyp (p : Nat) : Bool := definedIn im p && (imgPoint im p).typ != 1

def metrcfgOk (im : Image) (b : Bytes) : Bool :=
  let c := metrCfgOf b
  let pulses := ((c.pairs.filter fun p => p.en).map fun p =>
    (if p.src < 2 then [p.pls] else []) ++ (if p.dirsrc = 1 ∧ p.src < 2 then [p.pls ^^^ 1] else [])).flatten
  decide (64 ≤ b.length) && u32 b 0 == 0x5254454D && allZero b 0x28 24 &&
  (List.range 4).all (fun f => allZero b (64 + 64 * f + 3) 1 && allZero b (64 + 64 * f + 6) 2 && allZero b (64 + 64 * f + 40) 24) &&
  (List.range 16).all (fun k => allZero b (320 + 64 * k + 5) 3 && allZero b (320 + 64 * k + 44) 20) &&
  (List.range (u16 b 6)).all (fun i => allZero b (1344 + 16 * i + 2) 2) && decide (c.fs ≤ 2) && (c.fnom == 50 || c.fnom == 60) &&
  decide (u16 b 6 ≤ 1024) && b.length == (if u16 b 6 = 0 then 1344 else 1344 + 16 * u16 b 6) &&
  decide (1 ≤ c.intmf) && decide (c.intmf ≤ 3600000) && (c.intmf % im.m == 0 || im.m % c.intmf == 0) &&
  decide (c.closeAt + 800 < im.l) && leF (ofNatF 100000) c.pk && leF c.pk (ofNatF 2500000) &&
  c.feeds.zipIdx.all (fun f => decide (f.1.twph ≤ 2) && decide (u16 b (64 + 64 * f.2 + 4) < 4096)) &&
  c.pairs.all (mPairOk im) && apart pulses &&
  c.binds.all fun x => decide (x.kind ≤ 9) && decide (x.index < 16) &&
    (imgPoint im x.point).typ != 0 && (imgPoint im x.point).cls == 0 && (imgPoint im x.point).owner == 21

/-! ### STATIONS (R320, Table 10-5) -/

def stnMapAt (b : Bytes) (i : Nat) : MapEnt :=
  let o := 64 + 48 * 1024 + 8 * i
  { point := u32 b o, frame := u8 b (o + 4) % 4, output := bit (u8 b (o + 4)) 7, off := u8 b (o + 5), wire := u8 b (o + 6),
    bitNo := u8 b (o + 7) }

def stnTmplAt (b : Bytes) (k : Nat) : StnTmpl :=
  let o := 64 + 48 * k
  if u8 b (o + 10) = 0xFF then {}
  else
    { uid := BitVec.ofNat 64 (u64 b o), cls := BitVec.ofNat 16 (u16 b (o + 8)), chan := byteAt b (o + 10),
      sealed := bit (u8 b (o + 11)) 0, period := u16 b (o + 12), phase := u16 b (o + 14), ackwin := u8 b (o + 16),
      lossn := u8 b (o + 17), hold := BitVec.ofNat 16 (u16 b (o + 18)), txid := BitVec.ofNat 32 (u32 b (o + 20)),
      rxid := BitVec.ofNat 32 (u32 b (o + 24)), ntx := 1 + u8 b (o + 28) % 4, nrx := 1 + u8 b (o + 28) / 16 % 4,
      tbuf := u8 b (o + 29), rbuf := u8 b (o + 30), len := u8 b (o + 31), evict := u16 b (o + 38),
      map := (List.range (u16 b (o + 36))).map fun i => stnMapAt b (u32 b (o + 32) + i) }

def stnTmpls (b : Bytes) : List (Nat × StnTmpl) := (List.range 1024).map fun k => (k, stnTmplAt b k)

/-- A valid FD data length (R303). -/
def fdLen (n : Nat) : Bool := decide (n ≤ 8) || [12, 16, 20, 24, 32, 48, 64].contains n

/-- The payload of a frame: before the trailer of a sealed frame (R303). -/
def payload (t : StnTmpl) : Nat := if t.sealed then t.len - 7 else t.len

def stnMapOk (im : Image) (t : StnTmpl) (e : MapEnt) : Bool :=
  let p := imgPoint im e.point
  decide (e.wire ≤ 10) && decide (e.bitNo ≤ 7) && decide (1 ≤ e.off) && decide (e.off ≤ 56) &&
  decide (e.off + wireSize e.wire ≤ payload t) && decide (e.frame < if e.output then t.ntx else t.nrx) &&
  p.typ != 0 && (if e.output then p.cls == 1 else p.cls == 0 && p.owner == 18)

def rangesMeet (a n b m : Nat) : Bool := decide (a < b + m) && decide (b < a + n)

def stnOk (im : Image) (nmap : Nat) (b : Bytes) (k : Nat) (t : StnTmpl) : Bool :=
  t.chan == 0xFF ||
  (decide (t.chan.toNat < 40) && decide (1 ≤ t.period) && decide (t.phase < t.period) && decide (1 ≤ t.ackwin) &&
   decide (t.ackwin < t.period) && t.lossn != 0 && decide (1 ≤ t.tbuf) && decide (t.tbuf + t.ntx ≤ 56) &&
   decide (t.rbuf + t.nrx ≤ 64) && fdLen t.len && (!t.sealed || decide (8 ≤ t.len)) &&
   decide (u32 b (64 + 48 * k + 32) + u16 b (64 + 48 * k + 36) ≤ nmap) && t.map.all (stnMapOk im t))

/-- No two templates of one channel share a transmit or a receive buffer. -/
def buffersApart : List (Nat × StnTmpl) → Bool
  | [] => true
  | (_, t) :: r =>
    (t.chan == 0xFF || r.all fun q => q.2.chan != t.chan ||
      (!rangesMeet t.tbuf t.ntx q.2.tbuf q.2.ntx && !rangesMeet t.rbuf t.nrx q.2.rbuf q.2.nrx)) && buffersApart r

/-- The contents of STATIONS; a count above 1,024 is left to check 0x06 (Table 2-30). -/
def stationsOk (im : Image) (b : Bytes) : Bool :=
  let l := stnTmpls b
  decide (64 ≤ b.length) && u32 b 0 == 0x534E5453 && b.length == 64 + 48 * 1024 + 8 * u32 b 8 &&
  l.all (fun p => stnOk im (u32 b 8) b p.1 p.2) && buffersApart l

/-! ### LINKCFG (R321, R346) -/

def canFiltAt (b : Bytes) (o : Nat) : CanFilt :=
  { fid := BitVec.ofNat 32 (u32 b o), mask := BitVec.ofNat 32 (u32 b (o + 4)), target := BitVec.ofNat 16 (u16 b (o + 8)) }

def canCfgAt (b : Bytes) (n : Nat) : CanCfg :=
  let o := u32 b 4 + 1568 * n
  let f := u8 b (o + 1)
  { en := bit (u8 b o) 0, monitor := bit f 0, autorec := bit f 1, fd := bit f 2, brs := bit f 3, refen := bit f 4, tdc := bit f 5,
    timing := slice b (o + 2) 9, reftrig := u8 b (o + 11), joinid := BitVec.ofNat 32 (u32 b (o + 12)),
    refid := BitVec.ofNat 32 (u32 b (o + 16)), ntu := u32 b (o + 20), jointo := u16 b (o + 24),
    filters := (List.range 128).map fun i => canFiltAt b (o + 32 + 12 * i) }

def canCfgs (b : Bytes) : List (Nat × CanCfg) := if u32 b 4 = 0 then [] else (List.range 40).map fun n => (n, canCfgAt b n)

def recMapAt (b : Bytes) (o : Nat) : RecMap :=
  { dif := byteAt b o, vif := byteAt b (o + 1), storage := byteAt b (o + 2), point := u32 b (o + 4), scale := f64At b (o + 16) }

/-- A meter entry; `maps` is the offset of the record map entries. -/
def mtrAt (b : Bytes) (maps o : Nat) : MtrCfg :=
  { secondary := u8 b o == 1, paddr := byteAt b (o + 1), saddr := slice b (o + 4) 8, period := u32 b (o + 12),
    phase := u32 b (o + 16), lossn := u8 b (o + 20), mode0 := bit (u8 b (o + 21)) 0, ctx := u16 b (o + 22),
    map := (List.range (u16 b (o + 28))).map fun i => recMapAt b (maps + 24 * (u32 b (o + 24) + i)) }

/-- The meters before master `k`, in master order. -/
def metersBefore (b : Bytes) (k : Nat) : Nat := ((List.range k).map fun i => u16 b (u32 b 8 + 16 * i + 4)).sum

def mbCfgAt (b : Bytes) (k : Nat) : MbCfg :=
  let o := u32 b 8 + 16 * k
  let at_ := u32 b 8 + 96
  let maps := at_ + 32 * metersBefore b 6
  { en := bit (u8 b o) 0, baud := u8 b (o + 1), retry := u8 b (o + 2),
    meters := (List.range (u16 b (o + 4))).map fun i => mtrAt b maps (at_ + 32 * (metersBefore b k + i)) }

def mbCfgs (b : Bytes) : List (Nat × MbCfg) := if u32 b 8 = 0 then [] else (List.range 6).map fun k => (k, mbCfgAt b k)

/-- The Ethernet part: port p at 64 p, rules at 1,024, templates at 9,216, then the header bytes and the map. -/
def ethPart (b : Bytes) : Bytes := b.drop (u32 b 12)
def ethRuleOff (p r : Nat) : Nat := 1024 + 16 * (32 * p + r)
def ethTplOff (p t : Nat) : Nat := 9216 + 32 * (16 * p + t)

/-- The end of the header bytes: of the last header that an enabled template names. -/
def ethHdrEnd (e : Bytes) : Nat :=
  (List.range 256).foldl (fun a i =>
    let o := 9216 + 32 * i
    if bit (u8 e (o + 5)) 0 then max a (u32 e o + u8 e (o + 4)) else a) 17408

def ethMapOff (e : Bytes) : Nat := up64 (ethHdrEnd e)
def ethMapLen (e : Bytes) : Nat := (e.length - ethMapOff e) / 8
def ethMapAt (e : Bytes) (output : Bool) (i : Nat) : MapEnt :=
  let o := ethMapOff e + 8 * i
  { point := u32 e o, frame := 0, output := output, off := u16 e (o + 4), wire := u8 e (o + 6), bitNo := u8 e (o + 7) }

def ethRuleAt (e : Bytes) (o : Nat) : EthRule :=
  { etype := u16 e o, udpp := u16 e (o + 2), vid := u16 e (o + 4), target := u8 e (o + 6), unctrl := bit (u8 e (o + 7)) 0,
    le := bit (u8 e (o + 7)) 1, lossmf := u16 e (o + 14),
    map := if u8 e (o + 6) = 2 then (List.range (u16 e (o + 12))).map fun i => ethMapAt e false (u32 e (o + 8) + i) else [] }

def ethTplAt (e : Bytes) (o : Nat) : EthTpl :=
  let f := u8 e (o + 5)
  { en := bit f 0, udpcsum := bit f 1, le := bit f 2, hdr := slice e (u32 e o) (u8 e (o + 4)), len := u16 e (o + 6),
    period := u16 e (o + 8), phase := u16 e (o + 10),
    map := (List.range (u16 e (o + 16))).map fun i => ethMapAt e true (u32 e (o + 12) + i) }

def ethCfgAt (e : Bytes) (p : Nat) : EthCfg :=
  let o := 64 * p
  let f := u8 e (o + 1)
  { en := bit (u8 e o) 0, anen := bit f 0, ptp := bit f 1, p2p := bit f 2, macsec := bit f 3, xpn := bit f 4, conf := bit f 5,
    transport := u8 e (o + 2), domain := byteAt e (o + 3), mac := slice e (o + 4) 6, sdoid := u16 e (o + 10) % 4096,
    logSync := byteAt e (o + 12), logAnn := byteAt e (o + 13), logDreq := byteAt e (o + 14), confoff := u8 e (o + 15),
    ptpvid := u16 e (o + 18), egress := u32 e (o + 20), ingress := u32 e (o + 24), asym := sint 64 (u64 e (o + 28)),
    replay := u32 e (o + 36), ipsrc := slice e (o + 48) 16,
    rules := (List.range (u8 e (o + 16))).map fun r => ethRuleAt e (ethRuleOff p r),
    tpls := (List.range (u8 e (o + 17))).map fun t => ethTplAt e (ethTplOff p t) }

def ethCfgs (b : Bytes) : List (Nat × EthCfg) :=
  if u32 b 12 = 0 then [] else (List.range 16).map fun p => (p, ethCfgAt (ethPart b) p)

def mapFits (e : Bytes) (i n : Nat) : Bool := decide (i + n ≤ ethMapLen e)

def ethMapOk (im : Image) (limit : Nat) (m : MapEnt) : Bool :=
  let p := imgPoint im m.point
  decide (m.wire ≤ 10) && decide (m.bitNo ≤ 7) && decide (14 ≤ m.off) && decide (m.off + wireSize m.wire ≤ limit) &&
  p.typ != 0 && (if m.output then p.cls == 1 else p.cls == 0 && p.owner == 20)

def ethPortOk (im : Image) (e : Bytes) (p : Nat) : Bool :=
  let c := ethCfgAt e p
  let rng := fun (lo hi : Int) (v : Byte) => decide (lo ≤ v.toInt) && decide (v.toInt ≤ hi)
  !c.en ||
  (decide (c.transport ≤ 2) && decide (u16 e (64 * p + 10) < 4096) && rng (-7) 4 c.logSync && rng (-3) 4 c.logAnn &&
   rng (-7) 6 c.logDreq && [0, 30, 50].contains c.confoff && decide (c.rules.length ≤ 32) && decide (c.tpls.length ≤ 16) &&
   c.rules.zipIdx.all (fun r => decide (r.1.target ≤ 3) &&
     (r.1.target != 2 || (mapFits e (u32 e (ethRuleOff p r.2 + 8)) (u16 e (ethRuleOff p r.2 + 12)) &&
       r.1.map.all (ethMapOk im 1518)))) &&
   c.tpls.zipIdx.all (fun t => !t.1.en || (decide (14 ≤ t.1.hdr.length) && decide (t.1.hdr.length ≤ 64) &&
     decide (60 ≤ t.1.len) && decide (t.1.len ≤ 1514) && decide (t.1.phase < t.1.period) &&
     mapFits e (u32 e (ethTplOff p t.2 + 12)) (u16 e (ethTplOff p t.2 + 16)) && t.1.map.all (ethMapOk im t.1.len))) &&
   (List.range 16).all fun t => decide (t < c.tpls.length) || !bit (u8 e (ethTplOff p t + 5)) 0)

/-- A channel in use lies in the ranges of Table 10-6, and REFTRIG of one with REFEN names neither TRIG_0 nor TRIG_1
(Table 12-2). -/
def canCfgOk (c : CanCfg) : Bool :=
  let t := fun i => u8 c.timing i
  let rng := fun i lo hi => decide (lo ≤ t i) && decide (t i ≤ hi)
  !c.en ||
  (rng 0 1 32 && rng 1 2 255 && rng 2 1 128 && rng 3 1 (t 2) && rng 4 1 32 && rng 5 1 31 && rng 6 1 16 && rng 7 1 (t 6) &&
   decide (c.reftrig ≤ 31) && (!c.refen || decide (2 ≤ c.reftrig)) && decide (1 ≤ c.ntu) && decide (c.ntu ≤ 1000000) &&
   decide (1 ≤ c.jointo) &&
   c.filters.all fun f => decide (f.target.toNat < 64) || f.target == 0xFFFE || f.target == 0xFFFF)

/-- The master entry k, its meters and their record maps lie in their ranges and in the section (R321). -/
def mbCfgOk (b : Bytes) (k : Nat) : Bool :=
  let o := u32 b 8 + 16 * k
  let at_ := u32 b 8 + 96
  let maps := at_ + 32 * metersBefore b 6
  !bit (u8 b o) 0 ||
  (decide (u8 b (o + 1) ≤ 2) && decide (u8 b (o + 2) ≤ 3) && decide (u16 b (o + 4) ≤ 250) &&
   decide (at_ + 32 * metersBefore b (k + 1) ≤ b.length) &&
   (List.range (u16 b (o + 4))).all fun i =>
     let m := at_ + 32 * (metersBefore b k + i)
     decide (u8 b m ≤ 1) && decide (maps + 24 * (u32 b (m + 24) + u16 b (m + 28)) ≤ b.length))

/-- Faults of LINKCFG: fields out of their ranges (R321), the Ethernet part (R346), and parts that are not in the section.
DESIGN CHOICE (log entry 47): entries of channels and masters with EN = 0 are not examined. -/
def linkcfgOk (im : Image) (b : Bytes) : Bool :=
  let e := ethPart b
  decide (64 ≤ b.length) && u32 b 0 == 0x4B4E494C &&
  (u32 b 4 == 0 || decide (u32 b 4 + 40 * 1568 ≤ b.length)) && (u32 b 8 == 0 || decide (u32 b 8 + 96 ≤ b.length)) &&
  (canCfgs b).all (fun c => canCfgOk c.2) && (u32 b 8 == 0 || (List.range 6).all (mbCfgOk b)) &&
  (u32 b 12 == 0 || (decide (17408 ≤ e.length) && decide (u32 b 12 % 64 = 0) && decide (ethMapLen e ≤ 8192) &&
    (List.range 16).all (ethPortOk im e)))

/-! ### The contents of a section -/

/-- The contents of a section obey its rule (R61). SSTRUCT and PARCCFG are validated at their load (R117, R163). -/
def contentOk (im : Image) (e : DirEnt) : Bool :=
  let b := slice im.bytes e.off e.len
  match e.typ with
  | 0x10 => pimageOk im b
  | 0x11 => ccodeOk im e.num b
  | 0x12 => cdataOk b
  | 0x13 => stationsOk im b
  | 0x14 => linkcfgOk im b
  | 0x18 => loopcfgOk im e.num b
  | 0x19 => axiscfgOk im b
  | 0x1A => metrcfgOk im b
  | _ => true

end Sys2Proof.Machine
end

