-- ==== Sys2Proof/Machine/Solver.lean ====
section
/-! DEFINITION. SOLV: loads (R116 to R119), captures and runs (R102 to R111, R132 to R135), results and
publication (R125, R136 to R140), and the solver descriptors (R126 to R131, R141). -/

namespace Sys2Proof.Machine

def slotGet (s : State) (k : Nat) : SSlot := tblGet s.solv.slots k {}
def slotPut (s : State) (k : Nat) (v : SSlot) : State :=
  { s with solv := { s.solv with slots := tblPut s.solv.slots k v {} } }
def ssREADY : BitVec 2 := 2

def theImage (s : State) : Image := s.sched.image.getD {}

/-- The long task of SOLV with this identifier. -/
def solvTask (s : State) (task : Nat) : Option LTask :=
  (theImage s).ltasks.find? fun t => t.master == 15 && t.task == task

/-- The minor frame is the capture frame of the task (R46). -/
def captureFrame (s : State) (t : LTask) : Bool :=
  mIndex s == 0 && decide (s.sched.kmf.toNat % max 1 t.periodMaj = t.phaseMaj)

/-- The LONG slots of a task that are active in minor frame `m` of the major frame. -/
def longSlots (s : State) (master task m : Nat) : List (Nat × SlotE) :=
  (slotsOf s master).filter fun p => bit p.2.flags 0 && p.2.task == task && slotActive p.2 m

/-- The frame ends in a switch: LONG slots end at the reserve's start (R73). -/
def switchFrame (s : State) : Bool := s.sched.switchPend && s.sched.mfn + 1 == s.sched.swMfn

/-- The working cycles of an occurrence (R39, R73). -/
def workOf (s : State) (e : SlotE) : Nat :=
  let fin := if switchFrame s then min (e.start + e.budget) (s.sched.frameL.toNat - 65536) else e.start + e.budget
  fin - e.start - 32

def workIn (s : State) (master task m : Nat) : Nat :=
  ((longSlots s master task m).map fun p => p.2.budget - 32).sum

/-- The working cycles of a task in the `n` minor frames from minor frame `m` of a major frame. -/
def workOver (s : State) (master task m n : Nat) : Nat :=
  let mm := max 1 s.sched.majM.toNat
  let whole := ((List.range mm).map (workIn s master task)).sum
  n / mm * whole + ((List.range (n % mm)).map fun i => workIn s master task ((m + i) % mm)).sum

/-- The working cycles between the capture of a scheduled run and its deadline (R107). -/
def scheduledBudget (s : State) (t : LTask) : Nat := workOver s 15 t.task 0 (t.pubOff + 1)

/-- The minor frames from this one to the task's next capture frame. -/
def framesToCapture (s : State) (t : LTask) : Nat :=
  let per := max 1 t.periodMaj
  let k := (t.phaseMaj + per - (s.sched.kmf.toNat + 1) % per) % per
  (s.sched.majM.toNat - mIndex s) + k * s.sched.majM.toNat

/-- The working cycles from this occurrence to the last before the task's next capture frame (R134). -/
def hostLimit (s : State) (t : LTask) (e : SlotE) : Nat :=
  let here := ((longSlots s 15 t.task (mIndex s)).filter fun p => decide (e.start ≤ p.2.start)).map fun p => p.2.budget - 32
  here.sum + workOver s 15 t.task (mIndex s + 1) (framesToCapture s t - 1)

/-! ### Runs -/

def runOf (s : State) (task : Nat) : Option SRun := s.solv.runs.find? fun r => r.task.toNat == task
def setRun (r : SRun) (s : State) : State :=
  { s with solv := { s.solv with runs := (s.solv.runs.filter fun x => x.task != r.task) ++ [r] } }
def dropRun (task : W16) (s : State) : State :=
  { s with solv := { s.solv with runs := s.solv.runs.filter fun x => x.task != task } }

def structOf (s : State) (k : Nat) : SStruct := (slotGet s k).desc.getD {}
def phasesOf (s : State) (r : SRun) : Phases := phases (theImage s) (structOf s r.slot)

/-- The tolerances of R96 or R100 are met; a WLS run's one iteration meets them (R101). -/
def runOptimal (st : SStruct) (r : SRun) : Bool :=
  if st.kind = kQP then qpOptimal (qpOf st r.data) r.data r.it
  else if st.kind = kNEWTON then nwOptimal st r.data r.it
  else decide (1 ≤ r.iter)

/-- The certificate of R97: 1 primal, 2 dual infeasibility, 0 none. DESIGN CHOICE (log entry 74): where both hold, the
primal one. -/
def runCert (st : SStruct) (r : SRun) : Nat :=
  if st.kind ≠ kQP then 0
  else if certPrimal (qpOf st r.data) r.data r.it then 1
  else if certDual (qpOf st r.data) r.data r.it r.dx then 2 else 0

def runStalled (st : SStruct) (r : SRun) : Bool :=
  if st.kind = kQP then qpStalled r.lowAlpha r.hist else st.kind == kNEWTON && decide (4 ≤ r.noprog)

/-- The next phase of `t` cycles and the result write fit before the deadline (R107). -/
def solvAdmits (p : Phases) (r : SRun) (t : Nat) : Bool := decide (r.wc + t + p.fin ≤ r.budget)

/-- Status and END of a run that R107 stops. -/
def deadlineEnd (r : SRun) : Byte × Byte := (1, if r.hostCut then 3 else 2)

/-- The end tests of R103, after the external end. -/
def endTests (st : SStruct) (p : Phases) (r : SRun) : SRun :=
  if r.ended.isSome then r
  else if runOptimal st r then { r with ended := some (0, 0) }
  else if runCert st r ≠ 0 then { r with ended := some (2, 0), cert := BitVec.ofNat 8 (runCert st r) }
  else if runStalled st r then { r with ended := some (3, 0) }
  else if r.iter = pNat r.data 0 then { r with ended := some (1, 1) }
  else if !solvAdmits p r (tIter st p) then { r with ended := some (deadlineEnd r) }
  else r

/-- What capture bindings give: the entries, the skipped bindings, the first entry that is not finite where
it must be (R111). -/
structure Captured where
  caps : List (Nat × Nat × F64) := []
  skipped : Nat
  bad : Option Nat
  deriving DecidableEq, Repr

/-- A captured value that ends the run (R111). -/
def capturedBad (arr : Nat) (v : F64) : Bool :=
  nanF v || (infF v && !((arr == 5 && v == fninf) || (arr == 6 && v == finf) || (arr == 4 && v == finf)))

def captureBind (s : State) (c : Captured) (b : CapBind) : Captured :=
  let r := frozenPt s b.point
  match (if usableQ r then ptToF64 r else none) with
  | some v0 =>
    let v := mulF v0 b.scale
    { c with caps := c.caps ++ [(b.arr, b.index, v)],
             bad := if c.bad.isNone && capturedBad b.arr v then some b.index else c.bad }
  | none => { c with skipped := c.skipped + 1, caps := if b.arr = 0x20 then c.caps ++ [(0x21, b.index, 0)] else c.caps }

/-- The lowest j with l_j > u_j (R82). -/
def crossedBound (st : SStruct) (d : Tbl F64) : Option Nat :=
  if st.kind ≠ kQP then none else (List.range st.nv).find? fun j => ltF (dGet d 6 j) (dGet d 5 j)

/-- The matrix of the starting point, for the equilibration (R88). -/
def startMat (st : SStruct) (d : Tbl F64) (warm : Bool) (i : Iterate) : SMat :=
  if st.kind = kQP then (qpOf st d).kkt st (!warm) i d
  else if st.kind = kNEWTON then nwMat st d i.x else wlMat st d

def coldIterate (st : SStruct) : Iterate :=
  if st.kind = kNEWTON then
    {
      x := (List.range st.nv).map (Config.newtonStart st.sig),
      y := (List.range st.nr1).map fun i => Config.newtonStart st.sig (st.nv + i) }
  else {}

/-- The largest feasibility measure and μ, for the stall test (R98). -/
def histOf (st : SStruct) (d : Tbl F64) (i : Iterate) : List (F64 × F64) :=
  if st.kind = kQP then [((qpOf st d).mu i, qpFeas (qpOf st d) i)] else []

/-- The starting point, by a warm or a cold start (R105 to R107), then the first end tests. DESIGN CHOICE (log entry 74):
the matrix of a warm QP is that of the stored point, its missing slacks lifted, before the push to θ_w. -/
def startPoint (st : SStruct) (p : Phases) (r : SRun) : SRun :=
  let i0 := if r.warm then r.it else coldIterate st
  let m := startMat st r.data r.warm (if st.kind = kQP ∧ r.warm then qpLift st r.data i0 else i0)
  let sc := equil st.n st.p m
  let r1 := { r with wc := r.began + p.init, scale := sc }
  if !allFin (m.map fun e => e.2.2) then { r1 with ended := some (4, 9) }
  else if st.kind = kQP ∧ !r.warm then
    if !solvAdmits p r1 (tCold st p) then { r1 with ended := some (deadlineEnd r1) }
    else
      let c := qpCold st r.data sc
      let r2 := { r1 with wc := r1.wc + tCold st p, pivcnt := c.cnt, pivtot := c.cnt, rhoRel := c.rho,
                          pividx := match c.first with | some j => BitVec.ofNat 32 j | none => 0xFFFFFFFF }
      if !c.ok then { r2 with ended := some (4, 9) }
      else endTests st p { r2 with it := c.it, hist := histOf st r.data c.it }
  else
    let i1 := if st.kind = kQP then qpPush st r.data sc i0 else i0
    endTests st p { r1 with it := i1, hist := histOf st r.data i1 }

/-- The data set and its version as at cycle 0 of this minor frame, with a delta that was in progress then (R126). -/
def priorOf (s : State) (q : SSlot) : Tbl F64 × W32 :=
  match q.prior with
  | some (m, d, v) => if m = s.sched.mfn then (d, v) else (q.data, q.dsv)
  | none => (q.data, q.dsv)

/-- A run captures its points (R102, R105, R124, R134). A captured value that is not finite ends it here, before a bound
can be crossed (R111; DESIGN CHOICE, log entry 75). -/
def newRun (s : State) (task : W16) (k : Nat) (host : Option HostDesc) (cold : Bool) (budget : Nat) : SRun :=
  let q := slotGet s k
  let st := structOf s k
  let c := st.capbind.foldl (captureBind s) { skipped := 0, bad := none }
  let match_ := q.usable && q.storeSig == st.sig
  let r : SRun := {
    task := task, slot := k, host := host, capMfn := s.sched.mfn, budget := budget, caps := c.caps,
    data := (priorOf s q).1, dsv := (priorOf s q).2,
    badbind := c.skipped, warm := !cold && match_, refusedWarm := !cold && q.usable && !match_,
    it := if !cold && match_ then q.store else {} }
  match c.bad with
  | some i => { r with ended := some (4, 8), badidx := BitVec.ofNat 32 i }
  | none => { r with wait := q.writing.any fun w => w.mfn != s.sched.mfn }

/-- A word of staged data is read with an uncorrectable ECC error (R142): a free value. -/
def eccHit (st : SStruct) (s : State) : Bool := st.bPhase.any (· != 0) && Config.eccError s.free

/-- The free values that a phase with staged data uses. -/
def eccStep (st : SStruct) (s : State) : State := if st.bPhase.any (· != 0) then { s with free := s.free + 1 } else s

/-- The initialisation reads the data set and replaces the bound entries; then the run starts (R82, R111, R126, R131). -/
def initRun (r0 : SRun) (s : State) : State :=
  let q := slotGet s r0.slot
  let st := structOf s r0.slot
  let base := priorOf s q
  let r := { r0 with
    wait := false, began := elapsedNow s r0, wc := elapsedNow s r0, dsv := base.2,
    data := r0.caps.foldl (fun t c => dPut t c.1 c.2.1 c.2.2) base.1 }
  let s1 := slotPut (eccStep st s) r.slot { q with
    initd := (r.task, r.capMfn) :: q.initd.filter fun p => p.1 != r.task }
  setRun (if eccHit st s then { r with ended := some (4, 9) }
    else match crossedBound st r.data with
      | some j => { r with ended := some (2, 8), badidx := BitVec.ofNat 32 j }
      | none => startPoint st (phases (theImage s) st) r) s1

/-- A run starts at its capture, or when the delta that was in progress at cycle 0 has completed (R131). -/
def startRun (r : SRun) (s : State) : State := if r.ended.isSome || r.wait then setRun r s else initRun r s

/-- One iteration's numerics by KIND. -/
def iterateOf (st : SStruct) (r : SRun) : StepRes :=
  if st.kind = kQP then qpIterate st r.data r.scale r.it
  else if st.kind = kNEWTON then nwIterate st r.data r.scale r.it
  else wlSolve st r.data r.scale

/-- The run after a complete iteration (R95, R99, R101). -/
def afterIter (st : SStruct) (p : Phases) (r : SRun) (n : StepRes) : SRun :=
  { r with
    it := n.it, iter := r.iter + 1, wc := r.wc + tIter st p, dx := n.dx,
    lowAlpha := if ltF n.alpha (pow2neg 20) then r.lowAlpha + 1 else 0,
    hist := histOf st r.data n.it ++ r.hist, noprog := if n.noprog then r.noprog + 1 else 0, lastStep := n.last,
    pivcnt := n.cnt, pivtot := r.pivtot + n.cnt, rhoRel := n.rho,
    pividx := match n.first with | some j => BitVec.ofNat 32 j | none => 0xFFFFFFFF }

/-! ### Results -/

/-- No iterate to show: a cold start without a complete iteration (R139). -/
def noIterate (r : SRun) : Bool := r.iter == 0 && !r.warm

/-- The iterate of the result. DESIGN CHOICE (log entry 75): a warm run that ends with 0 iterations after its starting point
was taken shows that point; one that ends before shows the stored iterate. -/
def shownIt (r : SRun) : Iterate := if noIterate r then {} else r.it

def zerosF (n : Nat) : List F64 := List.replicate n 0
def padF (n : Nat) (l : List F64) : List F64 := l.take n ++ zerosF (n - l.length)

/-- The vector part (R139). -/
def resultVec (st : SStruct) (r : SRun) : List F64 :=
  let i := shownIt r
  if noIterate r then zerosF (vlen st)
  else if st.kind = kQP then
    if r.cert = 1 then zerosF st.nv ++ padF st.nr1 i.y ++ padF st.nr2 i.z ++ zerosF st.nr2 ++ padF st.nv i.zl ++ padF st.nv i.zu
    else if r.cert = 2 then padF st.nv r.dx ++ zerosF (vlen st - st.nv)
    else padF st.nv i.x ++ padF st.nr1 i.y ++ padF st.nr2 i.z ++ padF st.nr2 i.s ++ padF st.nv i.zl ++ padF st.nv i.zu
  else if st.kind = kNEWTON then
    padF st.nv i.x ++ padF st.nr1 i.y ++ padF st.nv (fBranch st r.data i.x i.y) ++ padF st.nr1 (fNode st r.data i.x)
  else padF st.nv i.x ++ padF st.nr1 i.y ++ padF st.nr2 i.z ++ padF st.nr1 (wlRes st r.data i)

/-- M0 to M5 (Table 4-10). -/
def resultMeas (st : SStruct) (r : SRun) : List F64 :=
  let i := shownIt r
  if st.kind = kQP then qpMeas (qpOf st r.data) i
  else if st.kind = kNEWTON then nwMeas st r.data i r.lastStep
  else wlMeas st r.data i

def resultFlags (r : SRun) : Nat :=
  b2n (decide (r.pivtot ≠ 0)) + 2 * b2n r.refusedWarm + 4 * b2n r.warm + 8 * b2n r.host.isSome

/-- The result record of a run (Tables 4-9 to 4-11). -/
def mkResult (st : SStruct) (q : SSlot) (r : SRun) (p : Phases) (status endc : Byte) : SResult :=
  let base : SResult := {
    rseq := q.rseq + 1, sslot := r.slot, status := status, endc := endc, task := r.task, dsv := r.dsv,
    mfn := r.capMfn, valid := true }
  if endc = 10 then { base with vec := zerosF (vlen st) }
  else
    { base with
      flags := BitVec.ofNat 8 (resultFlags r), iter := BitVec.ofNat 8 r.iter, cert := r.cert,
      wc := BitVec.ofNat 64 (r.wc + p.fin), pivcnt := BitVec.ofNat 32 r.pivcnt, pividx := r.pividx,
      pivtot := BitVec.ofNat 32 r.pivtot, badbind := BitVec.ofNat 32 r.badbind, rhoRel := r.rhoRel,
      meas := resultMeas st r, badidx := r.badidx, vec := resultVec st r }

/-- The data of a result completion (Table 4-13). -/
def resultData (x : SResult) : Nat :=
  x.rseq.toNat + x.status.toNat * 2 ^ 32 + x.iter.toNat * 2 ^ 40 + x.flags.toNat * 2 ^ 48 +
  x.sslot * 2 ^ 56 + x.endc.toNat * 2 ^ 58

def resultStatus (x : SResult) : Nat :=
  if x.endc = 10 then stNOT_READY else if x.status = 0 then stOK else stPARTIAL

/-- A result that goes out at its result write and not after a PUB slot (R140). -/
def postedAtOnce (status endc : Byte) : Bool :=
  status == 4 || (decide (3 ≤ endc.toNat) && decide (endc.toNat ≤ 7)) || endc == 10 || endc == 11

def publishable (r : SRun) (status endc : Byte) : Bool :=
  r.host.isNone && decide (endc.toNat ≤ 2) && (status == 0 || (status == 1 && decide (1 ≤ r.iter)))

/-- The unsolicited completion of a scheduled result on its RING (R140). -/
def postResult (st : SStruct) (x : SResult) (s : State) : State :=
  if st.ring < 64 then unsolicitedNext st.ring bSOLV (resultStatus x) (resultData x) s else s

/-- The 128 bytes of a result record (Table 4-9). -/
def resultBytes (x : SResult) : Bytes :=
  leBytes 4 x.rseq.toNat ++ [BitVec.ofNat 8 x.sslot, x.status, x.flags, x.endc] ++ leBytes 2 x.task.toNat ++
  [x.iter, x.cert] ++ leBytes 4 x.dsv.toNat ++ leBytes 8 x.mfn.toNat ++ leBytes 8 x.wc.toNat ++
  leBytes 4 x.pivcnt.toNat ++ leBytes 4 x.pividx.toNat ++ leBytes 4 x.pivtot.toNat ++ leBytes 4 x.badbind.toNat ++
  leBytes 8 x.rhoRel.toNat ++ ((List.range 6).map fun i => leBytes 8 (vget x.meas i).toNat).flatten ++
  leBytes 4 x.badidx.toNat ++ leBytes 4 x.vec.length ++ zeros 16

def vecBytes (v : List F64) : Bytes := (v.map fun x => leBytes 8 x.toNat).flatten

/-- The address of result buffer `b` (R136). -/
def rbAddr (st : SStruct) (b : Nat) : Nat := st.drBase + st.resOff + b * up64 (128 + 8 * vlen st)

/-- Bytes of a result buffer are written to the slot's DRAM region, through SOLV's windows. -/
def rbStore (st : SStruct) (b off : Nat) (x : Bytes) (s : State) : State :=
  guarded 15 (rbAddr st b + off) x.length true (dramWrite (rbAddr st b + off) x) s

/-- A write to result buffer `b` begins: copies out of it are overtaken (R141). -/
def rbTaken (q : SSlot) (k b : Nat) (s : State) : State :=
  let x := tblGet q.rb b {}
  spoil (fun c => dOp c.desc == 0x23 && d8 c.desc 16 == k && x.valid && d32 c.desc 20 == x.rseq.toNat) s

/-- A scheduled run commits its iterate to the store (R105), a host run to result buffer RB2, which from then on holds no
earlier result (R134). -/
def commitStore (st : SStruct) (r : SRun) (s : State) : State :=
  let q := slotGet s r.slot
  if r.host.isNone then slotPut s r.slot { q with store := r.it, storeSig := st.sig, usable := true }
  else
    rbStore st 2 128 (vecBytes (resultVec st r))
      (slotPut (rbTaken q r.slot 2 s) r.slot { q with rb := tblPut q.rb 2 { tblGet q.rb 2 {} with valid := false } {} })

/-- An iteration ends: it is committed, or its non-finite value ends the run (R111); a disabled run ends
(R109). -/
def iterate (s0 : State) (r : SRun) : State :=
  let st := structOf s0 r.slot
  let p := phasesOf s0 r
  let n := iterateOf st r
  let s := eccStep st s0
  if eccHit st s0 then setRun { r with ended := some (4, 9), wc := r.wc + tIter st p } s
  else if !n.ok then setRun { r with ended := some (4, 9), wc := r.wc + tIter st p, pivtot := r.pivtot + n.cnt } s
  else
    let r1 := afterIter st p r n
    let r2 := if r.disabled then { r1 with ended := some (if runOptimal st r1 then 0 else 1, 11) } else endTests st p r1
    setRun r2 (commitStore st r1 s)

/-- The result is written to its buffer (R136): RB0 and RB1 in turn, RB2 for a host run; the run is over. -/
def writeResult (s : State) (r : SRun) (status endc : Byte) : State :=
  let q := slotGet s r.slot
  let st := structOf s r.slot
  let x := mkResult st q r (phasesOf s r) status endc
  let b := if r.host.isSome then 2 else q.nextRb
  let clear := r.host.isNone && (status == 2 || status == 3 || status == 4)
  let q1 := { q with rseq := x.rseq, rb := tblPut q.rb b x {}, last := { x with vec := [] },
                     nextRb := if r.host.isSome then q.nextRb else 1 - q.nextRb,
                     usable := q.usable && !clear }
  let s0 := rbStore st b 0 (resultBytes x ++ vecBytes x.vec) (rbTaken q r.slot b (dropRun r.task (slotPut s r.slot q1)))
  let s1 := countIf (status == 4) bSOLV 2 (irqEdge 194 s0)
  match r.host with
  | some d => complete d (resultStatus x) (resultData x) s1
  | none =>
    if postedAtOnce status endc then postResult st x s1
    else
      let off := match solvTask s r.task.toNat with | some t => t.pubOff | none => 0
      { s1 with solv := { s1.solv with held := s1.solv.held ++
          [{ task := r.task, slot := r.slot, rb := b, pubMfn := r.capMfn + BitVec.ofNat 64 off,
             publish := publishable r status endc }] } }

/-- A run that has ended writes its result. -/
def finishRun (s : State) (r : SRun) : State :=
  match r.ended with
  | some (st, en) => writeResult s r st en
  | none => s

/-- Every run in progress is cut (R109): END 4 ROLE or 5 SWITCH. -/
def cutRuns (endc : Byte) (s : State) : State :=
  { s with solv := { s.solv with runs := s.solv.runs.map (cutRun s 1 endc) } }

/-- SOLV at a change of the unit's role: the runs are cut, and a result that still waits is not published, since it comes from
before the first run in the new role (R109, R110). -/
def solvRole (s : State) : State :=
  let s1 := cutRuns 4 s
  { s1 with solv := { s1.solv with held := s1.solv.held.map fun h => { h with publish := false } } }

/-- The initialisation of a run, from the capture to the start of the first iteration or of the cold start. -/
def inInit (s : State) (r : SRun) : Bool := r.wait || (r.iter == 0 && decide (elapsedNow s r < r.began + (phasesOf s r).init))

/-- EN = 0 for one run (R109). A cold start in flight runs to its end and ends the run; so does an iteration in flight. DESIGN
CHOICE (log entry 75): a run in its initialisation, with neither in flight, ends at once. -/
def disableRun (s : State) (r : SRun) : SRun :=
  if !inProgress s r then r
  else if inInit s r then cutRun s 1 11 r
  else if inStart s r then
    (if r.ended = some (4, 9) then r
     else { r with ended := some (if runOptimal (structOf s r.slot) r then 0 else 1, 11), cert := 0 })
  else { r with disabled := true }

/-- SOLV.CTRL.EN is written 0 (R109). -/
def solvDisable (s : State) : State := { s with solv := { s.solv with runs := s.solv.runs.map (disableRun s) } }

/-! ### Deltas (R126 to R131) -/

/-- The statuses that SOLV.CNT[1] and CNT[6] count. -/
def finDelta (d : HostDesc) (st data : Nat) (s : State) : State := finish bSOLV 1 [stRANGE, stNOT_READY] d st data s
def finSolv (d : HostDesc) (st data : Nat) (s : State) : State :=
  finish bSOLV 6 [stRANGE, stNOT_READY, stBUSY] d st data s

/-- Pair i of a delta: INDEX, ARRAY, VALUE (R127). -/
def deltaPair (b : Bytes) (i : Nat) : Nat × Nat × F64 := (u32 b (16 * i), u8 b (16 * i + 4), f64At b (16 * i + 8))

/-- A pair is invalid (R128). -/
def pairBad (st : SStruct) (q : Nat × Nat × F64) : Bool :=
  !targetOk st q.2.1 q.1 || nanF q.2.2 || !valueOk st q.2.1 q.1 q.2.2 ||
  st.capbind.any fun c => c.arr == q.2.1 && c.index == q.1

/-- The pairs of a delta in buffer order. -/
def deltaPairs (d : HostDesc) : List (Nat × Nat × F64) := (List.range (d32 d 20)).map (deltaPair d.buf)

/-- The opportunities that the pairs take: consecutive pairs in one 64-byte line of the data set share one (R130). -/
def deltaLines : List (Nat × Nat × F64) → Nat
  | [] => 0
  | [_] => 1
  | p :: q :: l => (if p.2.1 = q.2.1 ∧ p.1 / 8 = q.1 / 8 then 0 else 1) + deltaLines (q :: l)

/-- The pairs are checked; then their writing begins, or the descriptor ends (R128, R129). -/
def deltaBegin (k : Nat) (d : HostDesc) (s : State) : State :=
  let q := slotGet s k
  if q.st ≠ ssREADY then finDelta d stNOT_READY 0 s
  else match firstIdx (pairBad (structOf s k)) (deltaPairs d) 0 with
    | some i => finDelta d stRANGE i s
    | none => slotPut s k { q with writing := some { desc := d, left := deltaLines (deltaPairs d), mfn := s.sched.mfn } }

/-- The last pair is written: every pair has been applied in buffer order, and DSV counts (R126, R128, R129). -/
def deltaEnd (k : Nat) (w : DeltaRun) (s : State) : State :=
  let q := slotGet s k
  finDelta w.desc stOK (q.dsv + 1).toNat
    (slotPut s k { q with
      writing := none, dsv := q.dsv + 1,
      data := (deltaPairs w.desc).foldl (fun t p => dPut t p.2.1 p.1 p.2.2) q.data,
      prior := if w.mfn = s.sched.mfn then
          match q.prior with
          | some p => if p.1 = s.sched.mfn then q.prior else some (s.sched.mfn, q.data, q.dsv)
          | none => some (s.sched.mfn, q.data, q.dsv)
        else q.prior })

/-- A run of `t` that is to start in this minor frame has not read the data set yet: a scheduled one in its capture frame, a
host one that waits for its start. -/
def startDue (s : State) (k : Nat) (t : LTask) : Bool :=
  t.master == 15 && t.sslot == k && !((slotGet s k).initd.any fun p => p.1.toNat == t.task && p.2 == s.sched.mfn) &&
  (let l := (longSlots s 15 t.task (mIndex s)).map fun p => p.2.start
   if captureFrame s t then (match l with | a :: _ => decide (s.sched.cyc.toNat < a) | [] => false)
   else (s.solv.hostRuns.any fun d => d16 d 20 == t.task) && l.any fun a => decide (s.sched.cyc.toNat < a))

/-- From cycle 0 of a start frame to the run's initialisation no further delta starts on the slot (R131). -/
def deltasHeld (s : State) (k : Nat) : Bool :=
  (s.solv.runs.any fun r => r.slot == k && r.wait) ||
  (s.sched.run && enOf s bSOLV && !frozenM s 15 && enginesRun s && (theImage s).ltasks.any (startDue s k))

/-- The DRAM opportunities that HIF still owns in its slot before the close point, or after it before the slot's end (R56, R130,
R380). -/
def deltaOpps (s : State) : Nat :=
  if frozenM s 17 then 0
  else match slotNow s 17 with
    | none => 0
    | some e =>
      let fin := e.start + e.budget - if s.hif.closed then 0 else 512
      min (ownedOpps s 17 s.sched.cyc.toNat fin) (ownedOpps s 17 e.start fin - s.hif.opps)

/-- The runs of a slot that have waited for a delta are initialised (R131). -/
def runsInit (k : Nat) (s : State) : State := (s.solv.runs.filter fun r => r.slot == k && r.wait).foldl (fun s r => initRun r s) s

/-- The deltas of a slot go on, one at a time and in order, as far as HIF's opportunities reach (R130, R131). The first number
bounds the turns. -/
def deltaPump : Nat → Nat → State → State
  | 0, _, s => s
  | n + 1, k, s =>
    let q := slotGet s k
    match q.writing with
    | some w =>
      let a := deltaOpps s
      if w.left ≤ a then deltaPump n k (runsInit k (deltaEnd k w { s with hif := { s.hif with opps := s.hif.opps + w.left } }))
      else slotPut { s with hif := { s.hif with opps := s.hif.opps + a } } k { q with writing := some { w with left := w.left - a } }
    | none =>
      match q.deltas with
      | [] => s
      | d :: l => if deltasHeld s k then s else deltaPump n k (deltaBegin k d (slotPut s k { q with deltas := l }))

def deltaGo (k : Nat) (s : State) : State := deltaPump (2 * (slotGet s k).deltas.length + 3) k s

def effSolvDelta (d : HostDesc) (s : State) : State :=
  let k := d8 d 16
  let n := d32 d 20
  if 3 < k then finDelta d stRANGE 0 s
  else if (slotGet s k).st ≠ ssREADY then finDelta d stNOT_READY 0 s
  else if n = 0 ∨ 65536 < n ∨ d64 d 24 % 16 ≠ 0 then finDelta d stRANGE 0 s
  else deltaGo k (slotPut s k { slotGet s k with deltas := (slotGet s k).deltas ++ [d] })

/-- A SOLV_DELTA whose turn has come, but which may not start yet: it waits in its ring's start queue (R131). -/
def deltaWaits (s : State) (d : HostDesc) : Bool := dOp d == 0x20 && decide (d8 d 16 ≤ 3) && deltasHeld s (d8 d 16)

/-- The deltas of a slot that is no longer READY end NOT_READY (R119, R129). -/
def dropDeltas (k : Nat) (s : State) : State :=
  let q := slotGet s k
  ((q.writing.map (·.desc)).toList ++ q.deltas).foldl (fun s d => finDelta d stNOT_READY 0 s)
    (slotPut s k { q with writing := none, deltas := [] })

/-! ### LONG slots -/

/-- The first LONG slot of the task in the frame. -/
def firstOccurrence (s : State) (master task idx : Nat) : Bool :=
  match longSlots s master task (mIndex s) with
  | p :: _ => p.1 == idx
  | [] => false

/-- A run reads the points of its capture bindings through SOLV's windows (R20, R65): outside them the freeze ends it. -/
def capture (r : SRun) (s : State) : State :=
  readPts 15 ((structOf s r.slot).capbind.map (·.point)) (startRun r) (setRun { r with ended := none } s)

/-- The scheduled run of a task captures (R102), or does not start (R132). A run of the task that is still
there ends at its deadline first. -/
def solvCapture (t : LTask) (s : State) : State :=
  let s1 := match runOf s t.task with
    | some r => match r.ended with
      | some _ => finishRun s r
      | none => writeResult s { r with wc := elapsedNow s r } 1 2
    | none => s
  if (slotGet s1 t.sslot).st = ssREADY then
    capture (newRun s1 (BitVec.ofNat 16 t.task) t.sslot none false (scheduledBudget s1 t)) s1
  else
    count bSOLV 3 (setRun
      { task := BitVec.ofNat 16 t.task, slot := t.sslot, capMfn := s1.sched.mfn, ended := some (0xFF, 10) } s1)

/-- A host run starts at the first working cycle of its task, or is turned away (R133). -/
def startHost (t : LTask) (e : SlotE) (s : State) (d : HostDesc) : State :=
  if (runOf s t.task).isSome || captureFrame s t then complete d stBUSY 0 (count bSOLV 5 s)
  else if (slotGet s t.sslot).st ≠ ssREADY then finSolv d stNOT_READY 0 s
  else capture (newRun s (BitVec.ofNat 16 t.task) t.sslot (some d) (bit (d8 d 17) 0)
        (min (d64 d 24) (hostLimit s t e))) s

def startHosts (t : LTask) (e : SlotE) (s : State) : State :=
  let mine := s.solv.hostRuns.filter fun d => d16 d 20 == t.task
  mine.foldl (startHost t e)
    { s with solv := { s.solv with hostRuns := s.solv.hostRuns.filter fun d => d16 d 20 != t.task } }

/-- The occurrence gives its working cycles to the run in progress. -/
def passCycles (task : Nat) (e : SlotE) (s : State) : State :=
  match runOf s task with
  | some r => if inProgress s r then setRun { r with
      elapsed := r.elapsed + (match r.occ with | some o => o.work | none => 0),
      occ := some { mfn := s.sched.mfn, start := e.start, work := workOf s e } } s else s
  | none => s

/-- The run that this occurrence has started counts from it. -/
def newCycles (task : Nat) (e : SlotE) (s : State) : State :=
  match runOf s task with
  | some r => if r.occ.isNone then setRun { r with occ := some { mfn := s.sched.mfn, start := e.start, work := workOf s e } } s else s
  | none => s

/-- An occurrence of a LONG slot of SOLV. From a switch's reserve on no slot gives SOLV work (R73). -/
def solvLong (idx : Nat) (e : SlotE) (s : State) : State :=
  match solvTask s e.task with
  | none => s
  | some t =>
    if !enginesRun s || frozenM s 15 || s.sched.committed then s
    else
      let s0 := passCycles t.task e s
      let s1 := if enOf s bSOLV && firstOccurrence s 15 t.task idx && captureFrame s t then solvCapture t s0 else s0
      let s2 := if enOf s bSOLV then startHosts t e s1 else s1
      deltaGo t.sslot (newCycles t.task e s2)

/-- ITERATION_COMMIT (R95): the run's iteration is complete. -/
def execIterationCommit (task : W16) (s : State) : Host.Outcome State Fault Refusal :=
  .next (match runOf s task.toNat with
    | some r => if r.ended.isSome || r.wait || frozenM s 15 || !enginesRun s then s else iterate s r
    | none => s)

/-- RESULT_WRITE (R136). -/
def execResultWrite (task : W16) (s : State) : Host.Outcome State Fault Refusal :=
  .next (match runOf s task.toNat with
    | some r => finishRun s r
    | none => s)

/-! ### Publication (R47, R125, R148) -/

/-- The branch flows of a published NEWTON result enter the flow input. -/
def passFlows (k : Nat) (vec : List F64) (s : State) : State :=
  if s.parc.hslot = k ∧ s.parc.cfgSt = 2 then
    { s with parc := { s.parc with
        flowIn := s.parc.segs.map fun g => toF32 (mulF (vget vec g.branch) s.parc.flowScale), fresh := true } }
  else s

def publishBind (vec : List F64) (s : State) (b : PubBind) : State :=
  if frozenM s 15 then s
  else guarded 15 (viewOut b.point) 16 true (pointStoreF 15 b.point (mulF (vget vec b.src) b.scale) 0) s

/-- One held result in its publication frame. -/
def publishHeld (can : Bool) (s : State) (h : SHeld) : State :=
  let q := slotGet s h.slot
  let st := structOf s h.slot
  let x := tblGet q.rb h.rb {}
  if can && h.publish then
    let s1 := st.pubbind.foldl (publishBind x.vec) s
    if frozenM s1 15 then postResult st x s1
    else
      let x1 := { x with flags := x.flags ||| 0x10 }
      let l1 := if q.last.rseq = x.rseq then { q.last with flags := x1.flags } else q.last
      let s2 := rbStore st h.rb 6 [x1.flags]
        (slotPut s1 h.slot { slotGet s1 h.slot with rb := tblPut q.rb h.rb x1 {}, last := l1 })
      postResult st x1 (if st.kind = kNEWTON then passFlows h.slot x.vec s2 else s2)
  else postResult st x s

/-- Held results in ascending TASK order. -/
def insertHeld (h : SHeld) : List SHeld → List SHeld
  | [] => [h]
  | g :: r => if h.task.toNat < g.task.toNat then h :: g :: r else g :: insertHeld h r

def solvPub (s : State) : State :=
  let due := (s.solv.held.filter fun h => h.pubMfn == s.sched.mfn).foldr insertHeld []
  let s1 := { s with solv := { s.solv with held := s.solv.held.filter fun h => h.pubMfn != s.sched.mfn } }
  due.foldl (publishHeld (enOf s bSOLV && !frozenM s 15 && enginesRun s)) s1

/-! ### Loads (R116 to R119) -/

def otherStructs (s : State) (k : Nat) : List SStruct :=
  ([0, 1, 2, 3].filter fun j => j != k && ((slotGet s j).st == 2 || (slotGet s j).st == 1)).filterMap fun j => (slotGet s j).desc

/-- A load begins: the slot is LOADING (R116). `fresh`: DSV starts at 0 (R118), else it continues (R119). -/
def beginLoad (k : Nat) (b : Bytes) (fresh : Bool) (d : Option HostDesc) (s : State) : State :=
  let q := slotGet s k
  slotPut s k { q with st := 1, loading := b, desc := some (parseStruct b), reload := d, usable := false, data := [], prior := none,
                       dsv := if fresh then 0 else q.dsv, rb := if fresh then [] else q.rb }

/-- A failed load: counted, and in Lantern (R117). -/
def loadFailed (k e : Nat) (s : State) : State :=
  count bSOLV 0 (lantern 0x0601 2 (leBytes 1 k ++ leBytes 1 e) s)

/-- STRUCTURE_LOAD (R117, R119): a load ends. A failed reload is one error, counted in CNT[0] (R31). -/
def execStructureLoad (k : Fin 4) (s : State) : Host.Outcome State Fault Refusal :=
  .next (
    let q := slotGet s k.val
    if q.st ≠ 1 then s
    else
      let e := loadErr { im := theImage s, k := k.val, others := otherStructs s k.val, typ := fun p => (workPt s p).typ } q.loading
      let st := parseStruct q.loading
      let q1 := { q with loading := [], reload := none, loadErr := BitVec.ofNat 8 e, st := if e = 0 then 2 else 3,
                         desc := some st, data := if e = 0 then initData q.loading st else [] }
      let s1 := slotPut s k.val q1
      let s2 := if e = 0 then s1 else loadFailed k.val e s1
      match q.reload with
      | some d => if e = 0 then complete d stOK 0 s2 else complete d stRANGE e s2
      | none => s2)

def effSolvReload (d : HostDesc) (s : State) : State :=
  let k := d8 d 16
  let q := slotGet s k
  if 3 < k then finSolv d stRANGE 0 s
  else if q.st = 0 then finSolv d stNOT_READY 0 s
  else if q.st = 1 then finSolv d stBUSY 0 s
  else match sectAt (theImage s) 0x20 k with
    | none => finSolv d stNOT_READY 0 s
    | some b =>
      dropDeltas k (beginLoad k b false (some d)
        { s with solv := { s.solv with runs := s.solv.runs.map fun r => if r.slot = k then cutRun s 4 7 r else r } })

/-! ### Runs by descriptor and reads (R133, R135, R141) -/

def effSolvRun (d : HostDesc) (s : State) : State :=
  let k := d8 d 16
  match solvTask s (d16 d 20) with
  | none => finSolv d stRANGE 0 s
  | some t =>
    if 3 < k ∨ t.sslot ≠ k ∨ d64 d 24 = 0 then finSolv d stRANGE 0 s
    else if (runOf s t.task).isSome then complete d stBUSY 0 (count bSOLV 5 s)
    else if (slotGet s k).st ≠ ssREADY then finSolv d stNOT_READY 0 s
    else { s with solv := { s.solv with hostRuns := s.solv.hostRuns ++ [d] } }

/-- A run under a shortened budget (R135): past the new deadline it ends at once; else what the deadline of R107 would decide at the
starting point is decided anew. -/
def hostCut (s : State) (b : Nat) (r : SRun) : SRun :=
  let r1 := { r with budget := b, hostCut := true }
  let p := phasesOf s r
  let st := structOf s r.slot
  if b ≤ elapsedNow s r then { cutRun s 1 3 r with budget := b, hostCut := true }
  else if !inStart s r || r.ended = some (4, 9) then r1
  else if inInit s r then startPoint st p { r1 with ended := none, it := if r.warm then (slotGet s r.slot).store else {} }
  else endTests st p { r1 with ended := if r.ended = some (1, 2) ∨ r.ended = some (1, 3) then none else r.ended }

def effSolvCut (d : HostDesc) (s : State) : State :=
  let b := d64 d 24
  match runOf s (d16 d 20) with
  | none => finSolv d stNOT_READY 0 s
  | some r =>
    if !inProgress s r then finSolv d stNOT_READY 0 s
    else if r.budget ≤ b then finSolv d stRANGE 0 s
    else finSolv d stOK 0 (setRun (hostCut s b r) s)

/-- The copy of SOLV_READ ends: from the buffer that holds the result, unless a result write to it has begun (R141). -/
def solvReadEnd (c : CopyRun) (s : State) : State :=
  let d := c.desc
  let k := d8 d 16
  let st := structOf s k
  match ([0, 1, 2].find? fun b => (tblGet (slotGet s k).rb b {}).valid && (tblGet (slotGet s k).rb b {}).rseq.toNat == d32 d 20) with
  | none => complete d stDROPPED 0 (count bSOLV 4 s)
  | some b =>
    if c.spoiled then complete d stDROPPED 0 (count bSOLV 4 s)
    else
      let a := if d8 d 17 = 0 then (rbAddr st b, 128) else (rbAddr st b + 128 + 8 * d32 d 24, 8 * d32 d 28)
      finSolv d stOK a.2 (toHost (dAddr d) (dramRead s a.1 a.2) s)

def effSolvRead (d : HostDesc) (s : State) : State :=
  let k := d8 d 16
  let q := slotGet s k
  let what := d8 d 17
  let rs := d32 d 20
  let first := d32 d 24
  let n := d32 d 28
  if 3 < k then finSolv d stRANGE 0 s
  else if q.st = 1 then finSolv d stNOT_READY 0 s
  else if q.rseq.toNat < rs ∨ 1 < what ∨ vlen (q.desc.getD {}) < first + n then finSolv d stRANGE 0 s
  else if ([0, 1, 2].map fun b => tblGet q.rb b {}).any (fun x => x.valid && x.rseq.toNat == rs) then
    copyTry solvReadEnd (what == 1 && decide (n ≤ 1)) { desc := d } s
  else complete d stDROPPED 0 (count bSOLV 4 s)

def execSolvDelta (d : HostDesc) (s : State) : Host.Outcome State Fault Refusal :=
  .next (if deltaWaits s d then queueDesc d s else arrive effSolvDelta d s)
def execSolvRun (d : HostDesc) (s : State) : Host.Outcome State Fault Refusal := .next (arrive effSolvRun d s)
def execSolvCut (d : HostDesc) (s : State) : Host.Outcome State Fault Refusal := .next (arrive effSolvCut d s)
def execSolvRead (d : HostDesc) (s : State) : Host.Outcome State Fault Refusal := .next (arrive effSolvRead d s)
def execSolvReload (d : HostDesc) (s : State) : Host.Outcome State Fault Refusal := .next (arrive effSolvReload d s)

/-! ### At a switch (R118, Table 2-12 class 0x07) -/

/-- A kept slot takes the new image's bindings and parameters. -/
def keepSlot (k : Nat) (b : Bytes) (s : State) : State :=
  let q := slotGet s k
  let st := parseStruct b
  slotPut s k { q with desc := some st, data := putParams st q.data }

end Sys2Proof.Machine
end

