-- ==== Sys2Proof/Machine/Parc.lean ====
section
/-! DEFINITION. PARC: the configuration (R161 to R163), the capture and the step (R147 to R151), watches
(R153 to R155), publication (R152) and its descriptors (R164, R165). -/

namespace Sys2Proof.Machine

def pcREADY : BitVec 2 := 2

/-! ### Configuration -/

def parcLens (b : Bytes) : List Nat :=
  [260, 8 * u16 b 0x10, 32 * u32 b 4, 16 * u32 b 8, 16 * u16 b 0x12, 16 * u16 b 0x14]
def parcOffs (b : Bytes) : List Nat := subOffs 64 64 (parcLens b)

def f32At (b : Bytes) (o : Nat) : F32 := BitVec.ofNat 32 (u32 b o)
def quota (n : Nat) : Nat := if n = 0 then 256 else n

def segAt (b : Bytes) (o : Nat) : Segment :=
  {
    src := u16 b o, dst := u16 b (o + 2), branch := u32 b (o + 4), volume := f32At b (o + 8), lambda := f32At b (o + 12),
    flow := f32At b (o + 16), pbase := u16 b (o + 24), pcap := quota (u8 b (o + 26)), amb := u8 b (o + 27),
    group := u8 b (o + 28) }

def nodeAt (b : Bytes) (o : Nat) : PNode :=
  {
    temp := f32At b o, age := BitVec.ofNat 32 (u32 b (o + 4)), fixed := u8 b (o + 8) == 1,
    point := BitVec.ofNat 32 (u32 b (o + 12)) }

def watchAt (b : Bytes) (o : Nat) : Watch :=
  {
    kind := u8 b o, st := bit (u8 b (o + 1)) 0, index := u16 b (o + 2), point := BitVec.ofNat 32 (u32 b (o + 4)),
    limit := f32At b (o + 8), pers := u16 b (o + 12), cnt := u16 b (o + 14) }

def parcBindAt (b : Bytes) (o : Nat) : ParcBind :=
  { kind := u8 b o, index := u16 b (o + 2), point := u32 b (o + 4), scale := f64At b (o + 8) }

def rowsAt {α : Type} (f : Bytes → Nat → α) (b : Bytes) (o n size : Nat) : List α := (List.range n).map fun i => f b (o + size * i)

/-- A configuration as loaded: each segment holds one parcel at the initial temperature of its FROM node (R161). -/
def parseParc (b : Bytes) : ParcRegs :=
  let o := parcOffs b
  let at_ := fun i => o.getD i 0
  let nodes := rowsAt nodeAt b (at_ 3) (u32 b 8) 16
  let segs := (rowsAt segAt b (at_ 2) (u32 b 4) 32).map fun g =>
    { g with parcels := [{ vol := g.volume, temp := (nodes.getD g.src {}).temp, age := 0 }] }
  {
    cfgSt := 2, psig := BitVec.ofNat 64 (u64 b 0x20), hslot := u8 b 0x16, dtMs := u32 b 0x18, cp := f32At b 0x1C,
    flowScale := f64At b 0x28, qZero := f32At b 0x30, mergeTol := f32At b 0x34, rhoRef := f32At b 0x38, npar := u32 b 0xC,
    dens := rowsAt f32At b (at_ 0) 65 4,
    amb := rowsAt (fun b i => (BitVec.ofNat 32 (u32 b i), f32At b (i + 4))) b (at_ 1) (u16 b 0x10) 8,
    segs := segs, nodes := nodes, watch := rowsAt watchAt b (at_ 4) (u16 b 0x12) 16,
    pubs := rowsAt parcBindAt b (at_ 5) (u16 b 0x14) 16, flowIn := segs.map (·.flow),
    resid := List.replicate (u16 b 0x12) 0 }

/-- PSIG recomputed (R162). -/
def psigOf (b : Bytes) : W64 :=
  let o := parcOffs b
  let sg := ((List.range (u32 b 4)).map fun i =>
    slice b (o.getD 2 0 + 32 * i) 12 ++ slice b (o.getD 2 0 + 32 * i + 24) 3).flatten
  let nd := ((List.range (u32 b 8)).map fun i => slice b (o.getD 3 0 + 16 * i + 8) 1).flatten
  BitVec.ofNat 64 (u64 (sha384 (slice b 4 12 ++ sg ++ nd)) 0)

/-- T_step (R156). -/
def tStep (r : ParcRegs) : Nat :=
  5600 + 16 * r.segs.length + 4 * r.npar + 10 * r.nodes.length + 6 * r.amb.length + 8 * r.watch.length

def parcTask (s : State) : Option LTask := (theImage s).ltasks.find? fun t => t.master == 16

/-- The working cycles from the capture to the PUB slot. -/
def workToPub (s : State) (t : LTask) (p : SlotE) : Nat :=
  workOver s 16 t.task 0 t.pubOff +
  (((longSlots s 16 t.task (t.pubOff % max 1 s.sched.majM.toNat)).filter fun q => decide (q.2.start < p.start)).map
    fun q => q.2.budget - 32).sum

def pubSlotOf (s : State) (m : Nat) : Option SlotE := ((slotsOf s m).find? fun p => bit p.2.flags 1).map (·.2)

def okParcCapacity (b : Bytes) : Bool :=
  decide (1 ≤ u32 b 4) && decide (u32 b 4 ≤ 8192) && decide (2 ≤ u32 b 8) && decide (u32 b 8 ≤ 8192) &&
  u32 b 0xC == ((parseParc b).segs.map (·.pcap)).sum && decide (u32 b 0xC ≤ 65536) && decide (1 ≤ u16 b 0x10) && decide (u16 b 0x10 ≤ 256) && decide (u16 b 0x12 ≤ 256) &&
  decide (u16 b 0x14 ≤ 4096) && decide (250 ≤ u32 b 0x18) && decide (u32 b 0x18 ≤ 10000)

/-- The quota of a segment meets none of a later one. -/
def quotasApart : List Segment → Bool
  | [] => true
  | g :: r => r.all (fun h => !meets g.pbase g.pcap h.pbase h.pcap) && quotasApart r

def okTopology (s : State) (r : ParcRegs) : Bool :=
  r.segs.all (fun g => g.src != g.dst && decide (g.src < r.nodes.length) && decide (g.dst < r.nodes.length) &&
    decide (g.pbase + g.pcap ≤ r.npar) && decide (g.amb < r.amb.length)) &&
  quotasApart r.segs &&
  (r.hslot == 0xFF ||
    match sectAt (theImage s) 0x20 r.hslot with
    | none => false
    | some b =>
      let st := parseStruct b
      let bs := r.segs.map (·.branch)
      st.kind == kNEWTON && bs.all (fun i => lawAt st i == 0) && bs.eraseDups.length == bs.length)

def okTiming (s : State) (r : ParcRegs) : Bool :=
  match parcTask s, pubSlotOf s 16 with
  | some t, some p =>
    r.dtMs * 1000000 == t.periodMaj * s.sched.majM.toNat * s.sched.frameL.toNat &&
    decide (tStep r ≤ workToPub s t p) && decide (100 + r.pubs.length ≤ p.budget)
  | _, _ => false

def definedPt (s : State) (p : Nat) : Bool := decide (p < 131072) && (workPt s p).typ != 0

/-- INDEX of a binding is within range for its KIND (Table 5-5). -/
def parcBindOk (r : ParcRegs) (b : ParcBind) : Bool :=
  match b.kind with
  | 0 => decide (b.index < r.nodes.length)
  | 1 => decide (b.index < r.nodes.length)
  | 2 => decide (b.index < r.segs.length)
  | 3 => decide (b.index < 256)
  | 4 => true
  | 5 => decide (b.index < r.watch.length)
  | 6 => decide (b.index < r.watch.length)
  | _ => false

def watchOk (s : State) (r : ParcRegs) (w : Watch) : Bool :=
  match w.kind with
  | 0 => decide (w.index < 256)
  | 1 => decide (w.index < r.nodes.length) && definedPt s w.point.toNat
  | 2 => (decide (w.index < 256) || w.index == 0xFFFF) && definedPt s w.point.toNat
  | _ => false

def solvPubPoints (im : Image) : List Nat :=
  (([0, 1, 2, 3].filterMap fun k => sectAt im 0x20 k).map fun b => (parseStruct b).pubbind.map (·.point)).flatten

def okParcBinding (s : State) (r : ParcRegs) : Bool :=
  let pts := r.pubs.map (·.point)
  let sp := solvPubPoints (theImage s)
  r.nodes.all (fun n => !n.fixed || n.point == 0xFFFFFFFF || definedPt s n.point.toNat) &&
  r.amb.all (fun a => a.1 == 0xFFFFFFFF || definedPt s a.1.toNat) && r.watch.all (watchOk s r) &&
  r.pubs.all (fun b => parcBindOk r b && definedPt s b.point) && pts.eraseDups.length == pts.length &&
  pts.all fun p => !sp.contains p

def pos0 (x : F32) : Bool := finS x && leS 0 x
def posS (x : F32) : Bool := finS x && ltS 0 x

def okParcValue (r : ParcRegs) : Bool :=
  r.segs.all (fun g => posS g.volume && pos0 g.lambda && finS g.flow) && posS r.cp && r.dens.all posS && pos0 r.qZero &&
  r.watch.all (fun w => pos0 w.limit && decide (1 ≤ w.pers)) && r.nodes.all (fun n => finS n.temp) &&
  r.amb.all fun a => finS a.2

/-- LOADERR of a PARCCFG section (Table 5-9). -/
def parcErr (s : State) (b : Bytes) : Nat :=
  let r := parseParc b
  if u32 b 0 ≠ 0x43524150 ∨ b.length ≠ (parcOffs b).getD 6 0 then 1
  else if psigOf b ≠ r.psig then 2
  else if !okParcCapacity b then 3
  else if !okTopology s r then 4
  else if !okTiming s r then 5
  else if !okParcBinding s r then 6
  else if !okParcValue r then 7 else 0

/-- A load begins (R163). -/
def beginParc (b : Bytes) (s : State) : State := { s with parc := { cfgSt := 1, loading := b, mstep := s.parc.mstep } }

/-- PARCCFG_LOAD (R163): a load ends READY or FAILED. -/
def execParccfgLoad (s : State) : Host.Outcome State Fault Refusal :=
  .next (
    if s.parc.cfgSt ≠ 1 then s
    else
      let b := s.parc.loading
      let e := parcErr s b
      if e = 0 then { s with parc := { parseParc b with mstep := s.parc.mstep } }
      else count bPARC 0 (lantern 0x0701 2 (leBytes 1 0 ++ leBytes 1 e)
        { s with parc := { s.parc with cfgSt := 3, loadErr := BitVec.ofNat 8 e, loading := [] } }))

/-! ### Capture (R147, R148) -/

/-- The value of a point that is usable by its quality; `none` for no point or an unusable one (R147). -/
def inputOf (s : State) (p : W32) : Option F64 :=
  if p = 0xFFFFFFFF ∨ !usableQ (frozenPt s p.toNat) then none else ptToF64 (frozenPt s p.toNat)

/-- Of a FIXED node: a value that is not finite leaves the node as it is, like an unusable one. -/
def finiteOnly (v : Option F64) : Option F64 := v.filter finF

/-- One pending pair (Table 5-10). -/
def applyParcPair (c : PCapture) (p : ParcPair) : PCapture :=
  match p.field with
  | 1 => { c with segs := c.segs.modify p.index fun g => { g with lambda := toF32 p.value } }
  | 2 => { c with amb := c.amb.modify p.index fun a => (a.1, toF32 p.value) }
  | 3 => { c with watch := c.watch.modify p.index fun w => { w with limit := toF32 p.value } }
  | _ => { c with watch := c.watch.modify p.index fun w => { w with pers := (toIntF 0 65535 p.value).toNat } }

/-- What a step works on: FLOW takes the flow input if it is fresh, and the pairs delivered before this frame are applied. -/
def takeInputs (s : State) : PCapture :=
  let r := s.parc
  let pairs := r.pend.filter fun p => p.mfn != s.sched.mfn
  pairs.foldl applyParcPair {
    mfn := s.sched.mfn, amb := r.amb, watch := r.watch, pairs := pairs, took := r.fresh,
    segs := if r.fresh then (r.segs.zip r.flowIn).map fun p => { p.1 with flow := p.2 } else r.segs }

def watchPoint (w : Watch) : Bool := w.kind == 1 || w.kind == 2

/-- The points that a capture reads (R147). -/
def capturePts (r : ParcRegs) : List Nat :=
  (((r.nodes.filterMap fun n => if n.fixed then some n.point else none) ++ r.amb.map (·.1)).filter (· != 0xFFFFFFFF) ++
    r.watch.filterMap fun w => if watchPoint w then some w.point else none).map (·.toNat)

/-- The capture of a step. A PARC_READ that is still copying is overtaken (R165). -/
def parcCapture (s : State) : State :=
  let r := s.parc
  let c := takeInputs s
  let nodes := r.nodes.map fun n => if n.fixed then inputOf s n.point else none
  let ambs := r.amb.map fun a => inputOf s a.1
  let wts := r.watch.map fun w => if watchPoint w then inputOf s w.point else none
  let named := (r.nodes.zip nodes).map fun p => (p.1.fixed && p.1.point != 0xFFFFFFFF, p.2)
  let badN := named.map fun p => p.1 && p.2.isNone
  let badA := (r.amb.zip ambs).map fun p => p.1.1 != 0xFFFFFFFF && p.2.isNone
  let badW := (r.watch.zip wts).map fun p => watchPoint p.1 && p.2.isNone
  let bad := (badN.filter id).length + (badA.filter id).length + (badW.filter id).length
  countIf (decide (0 < bad)) bPARC 3 (spoil (fun k => dOp k.desc == 0x31) { s with parc := { r with
    pend := r.pend.filter fun p => p.mfn == s.sched.mfn, fresh := false,
    badin := BitVec.ofNat 8 (min bad 255), lastPub := false, doneMfn := none,
    step := some { c with
      nodes := nodes.map finiteOnly, ambs := ambs, watches := wts, subst := badN.any id,
      bad := named.map fun p => p.1 && (finiteOnly p.2).isNone } } })

/-- An occurrence of the LONG slot of PARC: a capture in the capture frame, then working cycles; nothing from a switch's reserve
on (R73). -/
def parcLong (idx : Nat) (e : SlotE) (s : State) : State :=
  match parcTask s with
  | none => s
  | some t =>
    if !enginesRun s || frozenM s 16 || s.sched.committed || e.task ≠ t.task then s
    else
      let s1 := if enOf s bPARC && firstOccurrence s 16 t.task idx && captureFrame s t then
          (if s.parc.cfgSt = pcREADY then
             readPts 16 (capturePts s.parc) parcCapture { s with parc := { s.parc with step := some { mfn := s.sched.mfn } } }
           else count bPARC 1 { s with parc := { s.parc with stepSt := 1, doneMfn := none, lastPub := false } })
        else s
      match s1.parc.step with
      | some c => { s1 with parc := { s1.parc with step := some { c with
          wc := c.wc + (match c.occ with | some o => o.work | none => 0),
          occ := some { mfn := s.sched.mfn, start := e.start, work := workOf s e } } } }
      | none => s1

/-! ### The step (R149, R150) -/

/-- ρ(T): linear in the density table, 0 to 160 °C (R146). -/
def density (r : ParcRegs) (t : F64) : F64 :=
  let x := divF (maxF 0 (minF (ofNatF 160) t)) (ofRatioF 5 2)
  let k := min 63 (fToInt fmt64 .zero 0 64 x.toNat).1.toNat
  let a := ofF32 (r.dens.getD k 0)
  let b := ofF32 (r.dens.getD (k + 1) 0)
  addF a (mulF (subF b a) (subF x (ofNatF k)))

/-- A volume of water in the course of a step: volume, temperature, age in 1/16 s. -/
structure Piece where
  v : F64
  t : F64
  a : F64
  deriving DecidableEq, Repr

def massOf (r : ParcRegs) (p : Piece) : F64 := mulF p.v (density r p.t)

/-- The constants of a segment in a step: ambient temperature, λ, flow magnitude, Δt. -/
structure SegCtx where
  ta : F64
  lam : F64
  q : F64
  dt : F64
  deriving DecidableEq, Repr

def coolT (c : SegCtx) (t x : F64) : F64 := addF c.ta (mulF (subF t c.ta) (expF (negF (mulF c.lam x))))

def sixteen : F64 := ofNatF 16

/-- A piece cooled, and aged, for a time in seconds; and the heat that it gives off. -/
def coolPiece (r : ParcRegs) (c : SegCtx) (x : F64) (ages : Bool) (p : Piece) : Piece × F64 :=
  let t1 := coolT c p.t x
  ({ p with t := t1, a := if ages then addF p.a (mulF x sixteen) else p.a },
   mulF (mulF (massOf r p) (ofF32 r.cp)) (subF p.t t1))

def pieceOf (p : Parcel) : Piece := { v := ofF32 p.vol, t := ofF32 p.temp, a := ofNatF p.age.toNat }
def ageW (a : F64) : W32 := BitVec.ofInt 32 (toIntF 0 0xFFFFFFFF a)
def parcelOf (p : Piece) : Parcel := { vol := toF32 p.v, temp := toF32 p.t, age := ageW p.a }

/-- Two parcels merged: the volumes added, the means weighted by mass (R150). -/
def mergePieces (r : ParcRegs) (p q : Piece) : Piece :=
  let mp := massOf r p
  let mq := massOf r q
  let m := addF mp mq
  {
    v := addF p.v q.v, t := divF (addF (mulF mp p.t) (mulF mq q.t)) m, a := divF (addF (mulF mp p.a) (mulF mq q.a)) m }

/-- Removal of volume `vout` from the outlet end; parcels come outlet first. Gives the pieces that leave,
with their outlet distances, and what remains, outlet first; a remainder that is too small joins its
neighbour towards the inlet. -/
def removeOut (r : ParcRegs) (small vout : F64) : F64 → List Piece → List (Piece × F64 × F64) × List Piece
  | _, [] => ([], [])
  | d, p :: rest =>
    let b := addF d p.v
    if leF b vout then
      let n := removeOut r small vout b rest
      ((p, d, b) :: n.1, n.2)
    else if ltF d vout then
      let left := { p with v := subF b vout }
      let gone := ({ p with v := subF vout d }, d, vout)
      match rest with
      | n :: more => if ltF left.v small then ([gone], mergePieces r n left :: more) else ([gone], left :: rest)
      | [] => ([gone], [left])
    else ([], p :: rest)

/-- What phase 1 leaves of a segment. -/
structure Out1 where
  rest : List Piece
  gone : List Piece
  heat : List F64
  ovr : Bool
  stag : Bool
  /-- The one piece that is left is a split remainder below VOLUME × 2^-20 (R150). -/
  tiny : Bool := false
  deriving DecidableEq, Repr

def inletFrom (g : Segment) : Bool := ltS 0 g.flow
def inletNode (g : Segment) : Nat := if inletFrom g then g.src else g.dst
def outletNode (g : Segment) : Nat := if inletFrom g then g.dst else g.src

def segCtx (r : ParcRegs) (c : PCapture) (g : Segment) : SegCtx :=
  {
    ta := match c.ambs.getD g.amb none with | some v => v | none => ofF32 (c.amb.getD g.amb (0, 0)).2,
    lam := ofF32 g.lambda, q := absF (ofF32 g.flow), dt := ofRatioF r.dtMs 1000 }

/-- Phase 1, outflow. -/
def phase1 (r : ParcRegs) (c : PCapture) (g : Segment) : Out1 :=
  let k := segCtx r c g
  let fromIn := if inletFrom g then g.parcels else g.parcels.reverse
  let ps := fromIn.map pieceOf
  let vol := ofF32 g.volume
  if ltF k.q (ofF32 r.qZero) then
    let n := ps.map (coolPiece r k k.dt false)
    { rest := n.map (·.1), gone := [], heat := n.map (·.2), ovr := false, stag := true }
  else
    let vin := mulF k.q k.dt
    let rm := removeOut r (mulF vol (pow2neg 20)) (minF vin vol) 0 ps.reverse
    let out := rm.1.map fun x => coolPiece r k (divF (addF x.2.1 x.2.2) (mulF (ofNatF 2) k.q)) true x.1
    let nd := r.nodes.getD (inletNode g) {}
    let extra := if ltF vol vin then
        [coolPiece r k (divF vol k.q) true { v := subF vin vol, t := ofF32 nd.temp, a := ofNatF nd.age.toNat }] else []
    let left := rm.2.reverse.map (coolPiece r k k.dt true)
    {
      rest := left.map (·.1), gone := (out ++ extra).map (·.1), heat := (out ++ extra ++ left).map (·.2),
      ovr := ltF vol vin, stag := false,
      tiny := match rm.2, ps with
        | [p], q :: _ => p.v != q.v && ltF p.v (mulF vol (pow2neg 20))
        | _, _ => false }

/-- Phase 2, mixing at node `i`. -/
def phase2 (r : ParcRegs) (c : PCapture) (pieces : List (Nat × Piece)) (i : Nat) (n : PNode) : PNode :=
  let ps := pieces.filterMap fun x => if x.1 = i then some x.2 else none
  if n.fixed then
    { n with temp := match c.nodes.getD i none with | some v => toF32 v | none => n.temp, age := 0, noflow := false }
  else if ps.isEmpty then
    { n with age := ageW (addF (ofNatF n.age.toNat) (ofRatioF (16 * r.dtMs) 1000)), noflow := true }
  else
    let m := fsum (ps.map (massOf r))
    { n with temp := toF32 (divF (fsum (ps.map fun p => mulF (massOf r p) p.t)) m),
             age := ageW (divF (fsum (ps.map fun p => mulF (massOf r p) p.a)) m), noflow := false }

/-- The position of the pair of neighbours with the smallest temperature difference, the one nearest the
outlet on a tie; pieces come inlet first. -/
def closestPair : Nat → List Piece → Option (Nat × F64)
  | i, p :: q :: r =>
    let d := absF (subF p.t q.t)
    match closestPair (i + 1) (q :: r) with
    | some (j, e) => if ltF d e then some (i, d) else some (j, e)
    | none => some (i, d)
  | _, _ => none

def mergeAt (r : ParcRegs) : Nat → List Piece → List Piece
  | 0, p :: q :: rest => mergePieces r p q :: rest
  | n + 1, p :: rest => p :: mergeAt r n rest
  | _, l => l

/-- The new parcel at the inlet end (R150); the flag says that a forced merge was made. A remainder that is too small joins the new
parcel, its neighbour towards the inlet, where it has no other. -/
def pushParcel (r : ParcRegs) (cap : Nat) (tiny : Bool) (n : Piece) (l : List Piece) : List Piece × Bool :=
  match l with
  | [] => ([n], false)
  | p :: rest =>
    if tiny then (mergePieces r n p :: rest, false)
    else if r.mergeTol ≠ 0 ∧ leF (absF (subF n.t p.t)) (ofF32 r.mergeTol) then (mergePieces r n p :: rest, false)
    else if l.length < cap then (n :: l, false)
    else match closestPair 0 l with
      | some (i, _) => (n :: mergeAt r i l, true)
      | none => (mergePieces r n p :: rest, true)

/-- The parcel at the inlet end takes VOLUME less the others (R146). -/
def closeVolume (vol : F64) : List Piece → List Piece
  | p :: rest => { p with v := subF vol (fsum (rest.map (·.v))) } :: rest
  | [] => []

/-- Phase 3, inflow, and the segment's record; the flag says that a forced merge was made. -/
def phase3 (r : ParcRegs) (c : PCapture) (nodes : List PNode) (g : Segment) (o : Out1) : Segment × Bool :=
  let k := segCtx r c g
  let vol := ofF32 g.volume
  let fin := fun (l : List Piece) (heat : List F64) =>
    let ps := l.map parcelOf
    { g with parcels := if inletFrom g then ps else ps.reverse, loss := toF32 (divF (fsum heat) k.dt),
             overrun := o.ovr, stagnant := o.stag }
  if o.stag then (fin (closeVolume vol o.rest) o.heat, false)
  else
    let nd := nodes.getD (inletNode g) {}
    let v := minF (mulF k.q k.dt) vol
    let n := coolPiece r k (divF v (mulF (ofNatF 2) k.q)) true { v := v, t := ofF32 nd.temp, a := ofNatF nd.age.toNat }
    let l := pushParcel r g.pcap o.tiny n.1 o.rest
    (fin (closeVolume vol l.1) (o.heat ++ [n.2]), l.2)

/-! ### Watches (R153 to R155) -/

def groupLoss (segs : List Segment) (k : Nat) : F64 :=
  fsum ((segs.filter fun g => g.group == k).map fun g => ofF32 g.loss)

def waterMass (r : ParcRegs) (segs : List Segment) (k : Nat) : F64 :=
  fsum (((segs.filter fun g => k == 0xFFFF || g.group == k).map fun g => g.parcels.map fun p => massOf r (pieceOf p)).flatten)

/-- r of a watch (Table 5-6); `none` while it is suspended. -/
def watchResid (r : ParcRegs) (segs : List Segment) (nodes : List PNode) (w : Watch) (v : Option F64) : Option F64 :=
  match w.kind, v with
  | 0, _ => some (groupLoss segs w.index)
  | 1, some x => some (absF (subF x (ofF32 (nodes.getD w.index {}).temp)))
  | 2, some x =>
    some (subF x (divF (subF (waterMass r segs w.index) (waterMass r r.segs w.index))
      (mulF (ofF32 r.rhoRef) (ofRatioF r.dtMs 1000))))
  | _, _ => none

/-- One evaluation (R155). -/
def watchStep (w : Watch) (x : F64) : Watch × Bool :=
  let call := if w.st then leF x (ofF32 w.limit) else ltF (ofF32 w.limit) x
  let n := if call then w.cnt + 1 else 0
  if n = w.pers then ({ w with st := !w.st, cnt := 0 }, true) else ({ w with cnt := n }, false)

/-- HEAD of each segment after a step: the manual fixes no place of the parcels in the quota. -/
def newHeads (free : Nat) (segs : List Segment) : List Segment :=
  segs.zipIdx.map fun p =>
    if p.1.stagnant then p.1 else { p.1 with head := (Config.word (free + p.2)).toNat % max 1 p.1.pcap }

/-- The state at the end of a step: segments, nodes, watches with their residuals and changes, forced merges. -/
structure StepEnd where
  segs : List Segment
  nodes : List PNode
  watch : List (Watch × Bool)
  resid : List F64
  merges : Nat
  ok : Bool
  deriving DecidableEq, Repr

def parcStep (r : ParcRegs) (c : PCapture) : StepEnd :=
  let o := c.segs.map (phase1 r c)
  let pieces := ((c.segs.zip o).map fun p => p.2.gone.map fun x => (outletNode p.1, x)).flatten
  let nodes := r.nodes.zipIdx.map fun p => { phase2 r c pieces p.2 p.1 with srcbad := c.bad.getD p.2 false }
  let g3 := (c.segs.zip o).map fun p => phase3 r c nodes p.1 p.2
  let segs := g3.map (·.1)
  let res := (c.watch.zip c.watches).map fun p => watchResid r segs nodes p.1 p.2
  {
    segs := segs, nodes := nodes,
    watch := (c.watch.zip res).map fun p => match p.2 with | some x => watchStep p.1 x | none => (p.1, false),
    resid := (r.resid.zip res).map fun p => p.2.getD p.1,
    merges := (g3.filter (·.2)).length,
    ok := segs.all (fun g => finS g.loss && finS g.flow && finS g.lambda && g.parcels.all fun p => finS p.vol && finS p.temp) &&
      nodes.all (fun n => finS n.temp) && (c.ambs ++ res).all (fun x => match x with | some v => finF v | none => true) &&
      c.amb.all (fun a => finS a.2) && c.watch.all fun w => finS w.limit }

def fB (v : F64) : Bytes := leBytes 8 v.toNat
def flagsB (n : Nat) (l : List Bool) : Bytes := leBytes n ((l.zipIdx.map fun p => b2n p.1 * 2 ^ p.2).sum)

/-- The parcel state kept under R159, with watch CNT and STATE. -/
def parcBytes (r : ParcRegs) : Bytes :=
  leBytes 4 r.segs.length ++
  (r.segs.map fun g => leBytes 4 g.flow.toNat ++ leBytes 1 g.head ++ leBytes 2 g.parcels.length ++
    (g.parcels.map fun p => leBytes 4 p.vol.toNat ++ leBytes 4 p.temp.toNat ++ leBytes 4 p.age.toNat).flatten).flatten ++
  (r.nodes.map fun n => leBytes 4 n.temp.toNat ++ leBytes 4 n.age.toNat).flatten ++
  (r.watch.map fun w => flagsB 1 [w.st] ++ leBytes 2 w.cnt).flatten ++
  flagsB 1 [r.fresh] ++ (r.flowIn.map fun v => leBytes 4 v.toNat).flatten ++
  leBytes 4 r.pend.length ++ (r.pend.map fun p => leBytes 4 p.index ++ leBytes 1 p.field ++ fB p.value ++ leBytes 8 p.mfn.toNat).flatten

/-- A committed step creates its stream item (Table 15-6, R160). -/
def withItem (r : ParcRegs) : ParcRegs := { r with item := some (parcBytes r) }

/-- PARCEL_STEP_COMMIT (R149, R151, R155): the step completes and commits, or is discarded. -/
def execParcelStepCommit (s : State) : Host.Outcome State Fault Refusal :=
  .next (
    let r := s.parc
    match r.step with
    | none => s
    | some c =>
      let e := parcStep r c
      if !e.ok then count bPARC 2 (parcGiveUp 2 s)
      else
        { s with free := s.free + r.segs.length,
                 parc := withItem { r with
                   step := none, amb := c.amb, segs := newHeads s.free e.segs, nodes := e.nodes, watch := e.watch.map (·.1),
                   resid := e.resid, mstep := r.mstep + 1, stepSt := 0, mrg := BitVec.ofNat 32 e.merges,
                   ovr := BitVec.ofNat 32 (e.segs.filter (·.overrun)).length, wc := BitVec.ofNat 32 (tStep r),
                   almChg := e.watch.zipIdx.foldl (fun t p => if p.1.2 then tblPut t p.2 true false else t) r.almChg,
                   doneMfn := if c.noPub then none else some c.mfn, doneSubst := c.subst } })

/-- PARC.CTRL.EN is written 0: the step in progress is not published (R158). -/
def parcDisable (s : State) : State :=
  { s with parc := { s.parc with step := s.parc.step.map fun c => { c with noPub := true } } }

/-! ### Publication (R152) -/

def parcOutput (r : ParcRegs) (b : ParcBind) : F64 :=
  match b.kind with
  | 0 => ofF32 (r.nodes.getD b.index {}).temp
  | 1 => divF (ofNatF (r.nodes.getD b.index {}).age.toNat) sixteen
  | 2 => ofF32 (r.segs.getD b.index {}).loss
  | 3 => groupLoss r.segs b.index
  | 4 => fsum (r.segs.map fun g => ofF32 g.loss)
  | 5 => ofNatF (b2n (r.watch.getD b.index {}).st)
  | _ => vget r.resid b.index

def parcPublish (q : Nat) (s : State) (b : ParcBind) : State :=
  if frozenM s 16 then s
  else guarded 16 (viewOut b.point) 16 true (pointStoreF 16 b.point (mulF (parcOutput s.parc b) b.scale) q) s

def parcPub (s : State) : State :=
  match s.parc.doneMfn, parcTask s with
  | some m, some t =>
    if m + BitVec.ofNat 64 t.pubOff = s.sched.mfn then
      let s0 := { s with parc := { s.parc with doneMfn := none } }
      if enOf s bPARC && !frozenM s 16 && enginesRun s then
        s.parc.pubs.foldl (parcPublish (if s.parc.doneSubst then 4 else 0))
          { s0 with parc := { s0.parc with lastPub := true, substPub := s.parc.doneSubst } }
      else s0
    else s
  | _, _ => s

/-! ### Slots of SOLV and PARC -/

/-- The active slot entry with this index, while the schedule runs. -/
def activeSlot (s : State) (idx : Nat) : Option SlotE :=
  if !s.sched.run then none
  else match (theImage s).slots[idx]? with
    | some e => if slotActive e (mIndex s) then some e else none
    | none => none

/-- LONG_SLOT (R39, R102, R133, R147). -/
def execLongSlot (slot : Nat) (s : State) : Host.Outcome State Fault Refusal :=
  .next (match activeSlot s slot with
    | some e =>
      if !bit e.flags 0 then s
      else if e.master = 15 then solvLong slot e s
      else if e.master = 16 then parcLong slot e s else s
    | none => s)

/-- PUB_SLOT (R47, R125, R152). -/
def execPubSlot (m : LongMaster) (s : State) : Host.Outcome State Fault Refusal :=
  .next (match slotNow s (match m with | .solv => 15 | .parc => 16) with
    | some e => if bit e.flags 1 then (match m with | .solv => solvPub s | .parc => parcPub s) else s
    | none => s)

/-! ### Descriptors -/

def finParc (d : HostDesc) (st data : Nat) (s : State) : State :=
  finish bPARC 4 [stBUSY, stRANGE, stNOT_READY] d st data s

def parcPairOf (s : State) (b : Bytes) (i : Nat) : ParcPair :=
  { index := u32 b (16 * i), field := u8 b (16 * i + 4), value := f64At b (16 * i + 8), mfn := s.sched.mfn }

/-- A pair breaks Table 5-10. -/
def parcPairBad (r : ParcRegs) (p : ParcPair) : Bool :=
  !(finF p.value &&
    (match p.field with
     | 1 => decide (p.index < r.segs.length) && leF 0 p.value
     | 2 => decide (p.index < r.amb.length)
     | 3 => decide (p.index < r.watch.length) && leF 0 p.value
     | 4 => decide (p.index < r.watch.length) && integralF p.value && inRangeF fone (ofNatF 65535) p.value
     | _ => false))

def effParcSet (d : HostDesc) (s : State) : State :=
  let n := d32 d 20
  let ps := (List.range n).map (parcPairOf s d.buf)
  if s.parc.cfgSt ≠ pcREADY then finParc d stNOT_READY 0 s
  else if n = 0 ∨ 1024 < n ∨ d64 d 24 % 16 ≠ 0 then finParc d stRANGE 0 s
  else match firstIdx (parcPairBad s.parc) ps 0 with
    | some i => finParc d stRANGE i s
    | none =>
      if 1024 < s.parc.pend.length + n then finParc d stBUSY 0 s
      else inHostSlot d (fun s => finParc d stOK (s.parc.pend.length + n)
        { s with parc := { s.parc with pend := s.parc.pend ++ (List.range n).map (parcPairOf s d.buf) } }) s

def nodeBytes (n : PNode) : Bytes :=
  leBytes 4 n.temp.toNat ++ leBytes 4 n.age.toNat ++ leBytes 1 (b2n n.fixed) ++
  leBytes 1 (b2n n.noflow + 2 * b2n n.srcbad) ++ zeros 2 ++ leBytes 4 n.point.toNat

def segBytes (g : Segment) : Bytes :=
  leBytes 2 g.src ++ leBytes 2 g.dst ++ leBytes 4 g.branch ++ leBytes 4 g.volume.toNat ++ leBytes 4 g.lambda.toNat ++
  leBytes 4 g.flow.toNat ++ leBytes 4 g.loss.toNat ++ leBytes 2 g.pbase ++ leBytes 1 g.pcap ++ leBytes 1 g.amb ++
  leBytes 1 g.group ++ leBytes 1 g.head ++ leBytes 1 (g.parcels.length - 1) ++ leBytes 1 (b2n g.overrun + 2 * b2n g.stagnant)

def parcelBytes (p : Parcel) : Bytes := leBytes 4 p.vol.toNat ++ leBytes 4 p.temp.toNat ++ leBytes 4 p.age.toNat ++ zeros 4

def watchBytes (w : Watch) : Bytes :=
  leBytes 1 w.kind ++ leBytes 1 (b2n w.st) ++ leBytes 2 w.index ++ leBytes 4 w.point.toNat ++ leBytes 4 w.limit.toNat ++
  leBytes 2 w.pers ++ leBytes 2 w.cnt

/-- An unused pool entry: what MC1 has stored there, else bytes that the manual does not give. -/
def poolFree (s : State) (j : Nat) : Bytes :=
  match otherBytes s (0x1300000000 + 16 * j) 16 with
  | some b => b
  | none => leBytes 8 (Config.word (s.free + 2 * j)).toNat ++ leBytes 8 (Config.word (s.free + 2 * j + 1)).toNat

/-- Pool entry `j`: a parcel, or an unused entry. -/
def poolBytes (s : State) (j : Nat) : Bytes :=
  match s.parc.segs.find? fun g => decide (g.pbase ≤ j) && decide (j < g.pbase + g.pcap) with
  | some g =>
    let i := (j - g.pbase + g.pcap - g.head) % max 1 g.pcap
    (match g.parcels[i]? with
     | some p => parcelBytes p
     | none => poolFree s j)
  | none => poolFree s j

/-- The copy of PARC_READ ends, or was overtaken by a capture (R165). -/
def parcReadEnd (r : CopyRun) (s : State) : State :=
  let d := r.desc
  let first := d32 d 20
  let n := d32 d 24
  if r.spoiled then complete d stDROPPED 0 (count bPARC 5 s)
  else
    let b := match d8 d 16 with
      | 0 => (((s.parc.nodes.drop first).take n).map nodeBytes).flatten
      | 1 => (((s.parc.segs.drop first).take n).map segBytes).flatten
      | 2 => ((List.range n).map fun i => poolBytes s (first + i)).flatten
      | _ => (((s.parc.watch.drop first).take n).map watchBytes).flatten
    finParc d stOK b.length (toHost (dAddr d) b { s with free := s.free + 2 * 65536 })

def effParcRead (d : HostDesc) (s : State) : State :=
  let what := d8 d 16
  let first := d32 d 20
  let n := d32 d 24
  let len := match what with
    | 0 => s.parc.nodes.length | 1 => s.parc.segs.length | 2 => s.parc.npar | _ => s.parc.watch.length
  if s.parc.step.isSome then finParc d stBUSY 0 s
  else if 3 < what ∨ len < first + n then finParc d stRANGE 0 s
  else copyTry parcReadEnd (decide (n ≤ 1)) { desc := d } s

def execParcSet (d : HostDesc) (s : State) : Host.Outcome State Fault Refusal := .next (arrive effParcSet d s)
def execParcRead (d : HostDesc) (s : State) : Host.Outcome State Fault Refusal := .next (arrive effParcRead d s)

/-! ### At a switch (R159) -/

/-- Class 0x08 with COPY and equal PSIG. -/
def keepParc (b : Bytes) (s : State) : State :=
  let n := parseParc b
  let o := s.parc
  { s with parc := { n with
      segs := (n.segs.zip o.segs).map fun p => { p.1 with parcels := p.2.parcels, head := p.2.head, flow := p.2.flow },
      nodes := (n.nodes.zip o.nodes).map fun p => { p.1 with temp := p.2.temp, age := p.2.age },
      watch := n.watch.zipIdx.map fun p => match o.watch[p.2]? with
        | some w => if w.kind = p.1.kind ∧ w.index = p.1.index ∧ w.point = p.1.point
            then { p.1 with cnt := w.cnt, st := w.st } else { p.1 with cnt := 0, st := false }
        | none => { p.1 with cnt := 0, st := false },
      flowIn := o.flowIn, fresh := o.fresh, pend := o.pend, mstep := o.mstep, stepSt := o.stepSt, almChg := o.almChg } }

end Sys2Proof.Machine
end

