-- ==== Sys2Proof/Machine/Time.lean ====
section
/-! DEFINITION. The time base, its grid and triggers, and the real-time clock (12_time_and_calendar.md). -/

namespace Sys2Proof.Machine

/-! ### Rate and step (R351, R352) -/

/-- The limit of |RATE|: 500 ppm (R349). -/
def rateMax : Int := 140737488355

def rateOk (v : W64) : Bool := decide (-rateMax ≤ v.toInt) && decide (v.toInt ≤ rateMax)

/-- A RATE write that takes effect: the slope changes without a jump, or the value is discarded. -/
def applyRate (v : W64) (s : State) : State :=
  if rateOk v then
    { s with time := { keepTime s.time with offset := nowT s, anchor := s.time.tbc, rate := v } }
  else count bTIME 0 s

/-- A STEP write that takes effect: taken when ARMED, otherwise discarded and counted. -/
def applyStep (v : W128) (s : State) : State :=
  if s.time.armed then
    { s with time := { keepTime s.time with offset := s.time.offset + v, armed := false, steps := s.time.steps + 1, lock := false } }
  else count bTIME 1 s

/-- MC0 alone writes TIME.RATE (R351). -/
def rateOp (m : RegMaster) (v : W64) (s : State) : State := if m = .mc0 then applyRate v s else s

/-- MC0 alone writes TIME.STEP (R352). -/
def stepOp (m : RegMaster) (v : W128) (s : State) : State := if m = .mc0 then applyStep v s else s

/-! ### The grid (R353 to R356) -/

def trimOf (l : Nat) : Nat := ceilDiv l 1024

/-- A difference of network times as a signed number. -/
def tDiff (a b : W128) : Int := (a - b).toInt

/-- The grid instant nearest to t; a tie takes the later (R354). -/
def gridNear (t : TimeRegs) (l : Nat) (x : W128) : W128 :=
  let p : Int := l * 65536
  t.origin + BitVec.ofInt 128 (Int.fdiv (tDiff x t.origin + p / 2) p * p)

/-- The least cycle c with t(c) ≥ b under the values in force. -/
def cycleOf (t : TimeRegs) (b : W128) : Int :=
  let k : Int := 2 ^ 48 + t.rate.toInt
  (t.anchor.toNat : Int) + -(Int.fdiv (-(tDiff b t.offset * 2 ^ 32)) k)

/-- The smallest multiple of L × 2^16 at least L × 2^16 above t (R353). -/
def originFor (l : Nat) (t : W128) : W128 :=
  let p := l * 65536
  BitVec.ofNat 128 (ceilDiv (t.toNat + p) p * p)

/-- The grid's part of a frame start (R354, R356): the frame's length, GRIDERR, LOCK, F0 and FLEN. -/
def gridStart (l : Nat) (switching : Bool) (s : State) : State :=
  let t := s.time
  let sn : Int := t.tbc.toNat
  let tsn := nowT s
  let b := gridNear t l (tsn + BitVec.ofNat 128 (l * 65536))
  let d := cycleOf t b - sn
  let trim : Int := trimOf l
  let len0 := min (max d (l - trim)) (l + trim)
  let len := if switching then max len0 l else len0
  let err := sn - cycleOf t (gridNear t l tsn)
  countIf (d < l - trim || l + trim < d) bTIME 3
    { s with time := { t with frameLen := BitVec.ofInt 32 len, flen := t.frameLen, frameStart := t.tbc, f0 := tsn,
                              nextInst := b, gridErr := BitVec.ofInt 32 err, lock := decide (err = 0) } }

/-! ### Triggers (R357 to R359) -/

def trigGet (s : State) (n : Nat) : Trig := tblGet s.time.trig n {}
def trigPut (s : State) (n : Nat) (v : Trig) : State :=
  { s with time := { s.time with trig := tblPut s.time.trig n v {} } }

/-- TRIG_0 records the frame start (Table 12-2). -/
def trig0Frame (s : State) : State := trigPut s 0 { trigGet s 0 with cap := nowNs s, fired := true }

/-- NOWNS has reached an instant (R358). -/
def reached (now inst : W64) : Bool := decide ((now - inst).toNat < 2 ^ 63)

def trigDue (s : State) (n : Nat) : Bool :=
  let g := trigGet s n
  (g.mode == 1 || g.mode == 2) && (enOf s bTIME || decide (n < 2)) && reached (nowNs s) g.next

/-- NEXT after a periodic firing, and whether firings were skipped. -/
def trigNext (now next period : W64) : W64 × Bool :=
  let n1 := next + period
  if reached now n1 then
    (next + BitVec.ofNat 64 (period.toNat * ((now - next).toNat / max 1 period.toNat + 1)), true)
  else (n1, false)

def trigPulse (g : Trig) (s : State) : State :=
  let fin := s.time.tbc + g.width.zeroExtend 64
  if g.out = 1 then emit (.tsyn 0 true) { s with time := { s.time with pulse0 := some fin } }
  else if g.out = 2 then emit (.tsyn 1 true) { s with time := { s.time with pulse1 := some fin } }
  else s

/-- A trigger reaches NEXT and fires (R358). -/
def fireTrig (n : Nat) (s : State) : State :=
  if trigDue s n then
    let g := trigGet s n
    if g.mode = 1 then trigPulse g (trigPut s n { g with mode := 0, fired := true })
    else
      let x := trigNext (nowNs s) g.next g.period
      trigPulse g (countIf x.2 bTIME 2 (trigPut s n { g with next := x.1, fired := true, missed := g.missed || x.2 }))
  else s

/-- NOWNS two cycles before. -/
def nowNsBack2 (s : State) : W64 := BitVec.ofNat 64 (nsOf (timeAt (timeIn s.time (s.time.tbc - 2)) (s.time.tbc.toNat - 2)))

/-- TRIGGER_CAPTURE (R359): the edge appears on the source of a trigger in CAPTURE mode. -/
def execTriggerCapture (n : Fin 32) (rising : Bool) (s : State) : Host.Outcome State Fault Refusal :=
  .next (
    let g := trigGet s n
    if g.mode = 3 ∧ g.edge.getLsbD (if rising then 0 else 1) then
      trigPut s n { g with cap := nowNsBack2 s, missed := g.missed || g.fired, fired := true }
    else s)

/-! ### The common bits of STATUS (Table 1-12) -/

/-- The masters of a block (Tables 1-3, 1-4). -/
def mastersOf (b : Nat) : List Nat :=
  if b = bHIF then [17] else if b = bCELL then [2, 3, 4, 5, 6, 7, 8, 9] else if b = bLOOP then [10, 11, 12, 13]
  else if b = bSOLV then [15] else if b = bPARC then [16] else if b = bAXIS then [14] else if b = bMETR then [21]
  else if b = bCANL then [18] else if b = bETHL then [20] else if b = bMBUS then [19] else if b = bPAIR then [22]
  else if b = bREC then [23] else if b = bPNL then [24] else []

def blkFrozen (s : State) (b : Nat) : Bool := (mastersOf b).any (frozenM s)

/-- IDLE, DRAIN, FROZEN and CNT_SAT of a block with `busy` an atomic item in flight (R33, R34). -/
def commonBits (s : State) (b : Nat) (busy : Bool) : Nat :=
  let fz := blkFrozen s b
  let inf := busy && !fz
  b2n ((!enOf s b || fz) && !inf) + 2 * b2n (!enOf s b && inf) + 4 * b2n fz + 8 * b2n (blkGet s b).cntSat

def timeStatus (s : State) : W32 :=
  BitVec.ofNat 32 (s.time.steps.toNat * 65536 + b2n s.time.lock * 32 + b2n s.time.armed * 16 + commonBits s bTIME false)

/-! ### The calendar (R362) -/

def leap (y : Nat) : Bool := (y % 4 == 0 && y % 100 != 0) || y % 400 == 0
def dim (m y : Nat) : Nat :=
  if m = 4 ∨ m = 6 ∨ m = 9 ∨ m = 11 then 30 else if m = 2 then (if leap y then 29 else 28) else 31

/-- The calendar after one second, and whether the year wrapped. -/
def calNext (c : Cal) : Cal × Bool :=
  if c.sec.toNat < 59 then ({ c with sec := c.sec + 1 }, false)
  else if c.min.toNat < 59 then ({ c with sec := 0, min := c.min + 1 }, false)
  else if c.hour.toNat < 23 then ({ c with sec := 0, min := 0, hour := c.hour + 1 }, false)
  else
    let c1 := { c with sec := 0, min := 0, hour := 0, wday := BitVec.ofNat 3 ((c.wday.toNat + 1) % 7) }
    if c.day.toNat < dim c.mon.toNat c.year.toNat then ({ c1 with day := c.day + 1 }, false)
    else if c.mon.toNat < 12 ∧ c.mon ≠ 0 then ({ c1 with day := 1, mon := c.mon + 1 }, false)
    else if c.year.toNat < 9999 then ({ c1 with day := 1, mon := 1, year := c.year + 1 }, false)
    else ({ c1 with day := 1, mon := 1, year := 0 }, true)

/-- CAL0 and CAL1 (Table 12-12). -/
def calWords (c : Cal) : W32 × W32 :=
  (BitVec.ofNat 32 (c.wday.toNat * 2 ^ 24 + c.hour.toNat * 2 ^ 16 + c.min.toNat * 2 ^ 8 + c.sec.toNat),
   BitVec.ofNat 32 (c.year.toNat * 2 ^ 16 + c.mon.toNat * 2 ^ 8 + c.day.toNat))

def calOf0 (c : Cal) (v : W32) : Cal :=
  { c with wday := BitVec.ofNat 3 (v.toNat >>> 24), hour := BitVec.ofNat 5 (v.toNat >>> 16),
           min := BitVec.ofNat 6 (v.toNat >>> 8), sec := BitVec.ofNat 6 v.toNat }
def calOf1 (c : Cal) (v : W32) : Cal :=
  { c with year := BitVec.ofNat 14 (v.toNat >>> 16), mon := BitVec.ofNat 4 (v.toNat >>> 8), day := BitVec.ofNat 5 v.toNat }

/-- RTC.CNT as read in the mode (Table 12-3). -/
def rtcCount (r : RtcRegs) : W64 := if r.bin then r.rcnt.zeroExtend 64 else BitVec.ofNat 64 (r.rcnt.toNat % 2 ^ 48)

/-- The RTC tick count (R360). -/
def rtcTicks (s : State) : BitVec 48 := s.rtc.rcnt.truncate 48

def rtcStatus (s : State) : W32 :=
  let r := s.rtc
  BitVec.ofNat 32 (b2n r.calEn * 2048 + b2n r.bin * 1024 + b2n r.osf * 512 + b2n r.almf * 256 + b2n r.calWrap * 128 +
    b2n r.snapDone * 64 + b2n r.snapPend * 32 + b2n r.commitPend * 16 + commonBits s bRTC r.draining)

/-- RTC_EDGE (R360, R361): RCNT advances unless EN is 0; a drain completes. -/
def execRtcEdge (s : State) : Host.Outcome State Fault Refusal :=
  .next (
    let r := s.rtc
    let n := r.rcnt.toNat + 1
    { s with rtc := { r with
        rcnt := if enOf s bRTC then (if r.bin then BitVec.ofNat 55 n else BitVec.ofNat 55 (n % 2 ^ 48)) else r.rcnt,
        commitEdge := false, draining := false } })

/-- RTC_SECOND (R362, R366): with CALEN = 1 the calendar advances, unless this edge applied a commit. -/
def execRtcSecond (s : State) : Host.Outcome State Fault Refusal :=
  .next (if s.rtc.calEn && enOf s bRTC && !s.rtc.commitEdge then
    let c := calNext s.rtc.cal
    { s with rtc := { s.rtc with cal := c.1, calWrap := s.rtc.calWrap || c.2 } }
  else s)

/-- RTC_ALARM (R368): RCNT[47:0] equals ALARM with ALMEN = 1. -/
def execRtcAlarm (s : State) : Host.Outcome State Fault Refusal :=
  .next (if s.rtc.almEn ∧ rtcTicks s = s.rtc.alarm then { s with rtc := { s.rtc with almf := true } } else s)

/-- OSCILLATOR_STOP (R367). -/
def execOscillatorStop (s : State) : Host.Outcome State Fault Refusal :=
  .next (count bRTC 0 { s with rtc := { s.rtc with osf := true } })

/-- The 32-byte record of RTC_READ (R369). -/
def rtcRecord (s : State) : Bytes :=
  let c := calWords s.rtc.snapCal
  leBytes 8 s.rtc.snapCnt.toNat ++ leBytes 4 c.1.toNat ++ leBytes 4 c.2.toNat ++ leBytes 4 (rtcStatus s).toNat ++ zeros 12

def finRtc (d : HostDesc) (st data : Nat) (s : State) : State := finish bRTC 2 [stRANGE, stBUSY] d st data s

def rtcReadDone (s : State) (d : HostDesc) : State := finRtc d stOK 0 (toHost (dAddr d) (rtcRecord s) s)

/-- SNAP_TAKEN (R363): the requested snapshot is copied; waiting RTC_READs complete. -/
def execSnapTaken (s : State) : Host.Outcome State Fault Refusal :=
  .next (if s.rtc.snapPend then
    let s1 := { s with rtc := { s.rtc with snapCnt := rtcCount s.rtc, snapCal := s.rtc.cal, snapPend := false,
                                           snapDone := true, reads := [] } }
    s.rtc.reads.foldl rtcReadDone s1
  else s)

/-- What a commit applies (R365). -/
def commitRtc (r : RtcRegs) : RtcRegs :=
  let hi : Nat :=
    if r.stgFlags.getLsbD 0 then
      (if r.bin then r.stgCnt.toNat % 2 ^ 40 else r.stgCnt.toNat % 2 ^ 48 / 2 ^ 15)
    else r.rcnt.toNat / 2 ^ 15
  { r with rcnt := BitVec.ofNat 55 (hi * 2 ^ 15), cal := if r.stgFlags.getLsbD 1 then r.stgCal else r.cal,
           bin := r.stgFlags.getLsbD 2, calEn := r.stgFlags.getLsbD 3, commitPend := false, commitEdge := true, draining := false }

/-- COMMIT_APPLIED (R365): the staged values are applied; waiting RTC_WRITEs complete. -/
def execCommitApplied (s : State) : Host.Outcome State Fault Refusal :=
  .next (if s.rtc.commitPend then
    let s1 := { s with rtc := { commitRtc s.rtc with writes := [] } }
    s.rtc.writes.foldl (fun s d => finRtc d stOK 0 s) s1
  else s)

/-- Requests of a snapshot and of a commit (R363, R365): one more while one is pending has no effect. -/
def requestSnap (s : State) : State := { s with rtc := { s.rtc with snapPend := true } }
def requestCommit (s : State) : State := { s with rtc := { s.rtc with commitPend := true } }

/-- The operating time after one more second (R449). -/
def optNext (o : BitVec 36) : BitVec 36 :=
  let h := o.toNat % 2 ^ 24
  let sec := o.toNat / 2 ^ 24
  if sec < 3599 then BitVec.ofNat 36 ((sec + 1) * 2 ^ 24 + h)
  else BitVec.ofNat 36 (if h < 2 ^ 24 - 1 then h + 1 else h)

/-- OPERATING_TIME_SECOND (R449): one more second, due to be saved. -/
def execOperatingTimeSecond (s : State) : Host.Outcome State Fault Refusal :=
  .next { s with recs := { s.recs with opt := optNext s.recs.opt, optDue := true } }

/-! ### Descriptors (R369) -/

/-- The 64-byte record of TIME_READ. -/
def timeRecord (s : State) : Bytes :=
  leBytes 16 (timeForm (nowT s)).toNat ++ leBytes 8 s.time.tbc.toNat ++ leBytes 16 s.time.offset.toNat ++
    leBytes 8 s.time.anchor.toNat ++ leBytes 8 s.time.rate.toNat ++ leBytes 4 (timeStatus s).toNat ++
    leBytes 4 s.time.gridErr.toNat

def effTimeRead (d : HostDesc) (s : State) : State := finRtc d stOK 64 (toHost (dAddr d) (timeRecord s) s)

/-- TIME_REARM: ARMED is set; recorded in Lantern and in the audit log. -/
def effTimeRearm (d : HostDesc) (s : State) : State :=
  let oc := match d.signed with | some o => o.toNat | none => 0
  finRtc d stOK 0
    (audit 0x0005 0xFFFF 2 oc d.bytes
      (lantern 0x0D80 0 (leBytes 8 oc ++ leBytes 2 s.time.steps.toNat)
        { s with time := { s.time with armed := true } }))

def effRtcRead (d : HostDesc) (s : State) : State :=
  requestSnap { s with rtc := { s.rtc with reads := s.rtc.reads ++ [d] } }

def effRtcWrite (d : HostDesc) (s : State) : State :=
  if d8 d 16 ≥ 16 then finRtc d stRANGE 0 s
  else if s.rtc.commitPend then finRtc d stBUSY 0 s
  else
    requestCommit { s with rtc := { s.rtc with
      stgCnt := BitVec.ofNat 64 (d64 d 32), stgFlags := BitVec.ofNat 4 (d8 d 16),
      stgCal := calOf1 (calOf0 {} (BitVec.ofNat 32 (d32 d 20))) (BitVec.ofNat 32 (d32 d 24)),
      writes := s.rtc.writes ++ [d] } }

def execTimeRead (d : HostDesc) (s : State) : Host.Outcome State Fault Refusal := .next (arrive effTimeRead d s)
def execTimeRearm (d : HostDesc) (s : State) : Host.Outcome State Fault Refusal := .next (arrive effTimeRearm d s)
def execRtcRead (d : HostDesc) (s : State) : Host.Outcome State Fault Refusal := .next (arrive effRtcRead d s)
def execRtcWrite (d : HostDesc) (s : State) : Host.Outcome State Fault Refusal := .next (arrive effRtcWrite d s)

end Sys2Proof.Machine
end

