-- ==== Sys2Proof/Machine/Water.lean ====
section
/-! DEFINITION. Water under IAPWS-IF97 region 1, as exact fractions: the specific enthalpy, the specific volume
and the heat factor of R270 (09_metering.md). The coefficients are those of the standard that R270 names
(PRESUMED, log entry 17). -/

namespace Sys2Proof.Machine

/-- A finite binary64 value as numerator and power-of-two denominator. -/
def ratF (x : F64) : Int × Nat :=
  match fdec fmt64 x.toNat with
  | .fin neg m e => ((if neg then -(m : Int) else (m : Int)) * 2 ^ e.toNat, 2 ^ (-e).toNat)
  | _ => (0, 1)

def fracF (x : F64) : Rat := mkRat (ratF x).1 (ratF x).2

/-- The terms I, J and n of the region 1 equation; n is m × 10^-k, given as (I, J, m, k). -/
def if97Low : List (Nat × Int × Int × Nat) := [
   (0, -2, 14632971213167, 14), (0, -1, -84548187169114, 14), (0, 0, -37563603672040, 13), (0, 1, 33855169168385, 13),
   (0, 2, -95791963387872, 14), (0, 3, 15772038513228, 14), (0, 4, -16616417199501, 15), (0, 5, 81214629983568, 17),
   (1, -9, 28319080123804, 17), (1, -7, -60706301565874, 17), (1, -1, -18990068218419, 15), (1, 0, -32529748770505, 15),
   (1, 1, -21841717175414, 15), (1, 3, -52838357969930, 18), (2, -3, -47184321073267, 17), (2, 0, -30001780793026, 17),
   (2, 1, 47661393906987, 18), (2, 3, -44141845330846, 19), (2, 17, -72694996297594, 29), (3, -4, -31679644845054, 18)]

def if97High : List (Nat × Int × Int × Nat) := [
   (3, 0, -28270797985312, 19), (3, 6, -85205128120103, 23), (4, -5, -22425281908000, 19), (4, -2, -65171222895601, 20),
   (4, 10, -14341729937924, 26), (5, -8, -40516996860117, 20), (8, -11, -12734301741641, 22), (8, -6, -17424871230634, 23),
   (21, -29, -68762131295531, 32), (23, -31, 14478307828521, 33), (29, -38, 26335781662795, 36), (30, -39, -11947622640071, 36),
   (31, -40, 18228094581404, 37), (32, -41, -93537087292458, 39)]

/-- An integer power of a fraction. -/
def ratPow (x : Rat) : Int → Rat
  | .ofNat n => x ^ n
  | .negSucc n => 1 / x ^ (n + 1)

/-- π and τ of the equation, from a pressure in Pa and a temperature in °C. -/
def redP (pk : F64) : Rat := fracF pk / 16530000
def redT (th : F64) : Rat := 1386 / (fracF th + 27315 / 100)

/-- The derivatives of the dimensionless Gibbs energy by τ and by π. -/
def gammaTau (p t : Rat) : Rat :=
  ((if97Low ++ if97High).map fun (i, j, m, k) => mkRat m (10 ^ k) * (71 / 10 - p) ^ i * (j : Rat) * ratPow (t - 1222 / 1000) (j - 1)).sum
def gammaPi (p t : Rat) : Rat :=
  ((if97Low ++ if97High).map fun (i, j, m, k) => -(mkRat m (10 ^ k) * (i : Rat) * (71 / 10 - p) ^ (i - 1) * ratPow (t - 1222 / 1000) j)).sum

/-- R of water in kJ/(kg K). -/
def gasR : Rat := 461526 / 1000000

/-- The specific enthalpy in kJ/kg and the specific volume in m³/kg. -/
def enthalpy (pk th : F64) : Rat := gasR * 1386 * gammaTau (redP pk) (redT th)
def specVol (pk th : F64) : Rat := gasR * (fracF th + 27315 / 100) * gammaPi (redP pk) (redT th) / 16530

/-- The factor of R270 within 0.001 % of the exact value: the deviation is free within it (log entry 17). Below
0 °C, where region 1 ends, the factor is free. -/
def heatFactor (tf tr tm pk : F64) : Rat :=
  if ltF tf 0 || ltF tr 0 then fracF (Config.heatFactor tf tr tm pk)
  else (enthalpy pk tf - enthalpy pk tr) / specVol pk tm *
    (1 + mkRat (max (-(10 ^ 9)) (min (10 ^ 9) (Config.heatDev tf tr tm pk))) (10 ^ 14))

end Sys2Proof.Machine
end

