-- ==== Sys2Proof/Machine/Metering.lean ====
section
/-! DEFINITION. METR: electrical and thermal energy, totalisers, intervals, saves, power failure, theft
watch and calibration (09_metering.md). -/

namespace Sys2Proof.Machine

def mfGet (s : State) (f : Nat) : MFeed := tblGet s.metr.feeds f {}
def mfPut (s : State) (f : Nat) (v : MFeed) : State := { s with metr := { s.metr with feeds := tblPut s.metr.feeds f v {} } }
def mpGet (s : State) (k : Nat) : MPair := tblGet s.metr.pairs k {}
def mpPut (s : State) (k : Nat) (v : MPair) : State := { s with metr := { s.metr with pairs := tblPut s.metr.pairs k v {} } }
def phGet (s : State) (f p : Nat) : MPhase := tblGet (mfGet s f).ph p {}
def phPut (s : State) (f p : Nat) (v : MPhase) : State :=
  let g := mfGet s f
  mfPut s f { g with ph := tblPut g.ph p v {} }
def mfCfg (s : State) (f : Nat) : MFeedCfg := s.metr.cfg.feeds.getD f {}
def mpCfg (s : State) (k : Nat) : MPairCfg := s.metr.cfg.pairs.getD k {}
def calChan (s : State) (c : Nat) : CalChan := tblGet s.metr.cal.chans c {}
def calFeed (s : State) (f : Nat) : CalFeed := tblGet s.metr.cal.feeds f {}
def calRtd (s : State) (n : Nat) : CalRtd := tblGet s.metr.cal.rtds n {}

/-- FS in samples per second (R263). -/
def fsHz (s : State) : Nat := 4000 * 2 ^ s.metr.cfg.fs

/-! ### Exact values -/

/-- An exact quotient rounded to nearest, ties to even. -/
def roundQ (num : Int) (den : Nat) : Int :=
  let d := max 1 den
  let q := num.natAbs / d
  let r := num.natAbs % d
  let up := decide (d < 2 * r) || (decide (2 * r = d) && q % 2 == 1)
  let m := if up then q + 1 else q
  if num < 0 then -(m : Int) else m

/-! ### Totalisers (R274) -/

/-- FB: 56 for electrical and 40 for thermal totalisers. -/
def fineBits (t : Nat) : Nat := if t < 32 then 56 else 40

/-- T and ρ of an exact sum. -/
def totT (t v : Nat) : Nat := v / 2 ^ fineBits t
def totRho (t v : Nat) : Nat := v % 2 ^ fineBits t

/-- An increment in fine units; nothing is credited while CALVALID is 0 (R282). -/
def credit (t : Nat) (x : Int) (s : State) : State :=
  if s.metr.calValid && decide (0 < x) then
    { s with metr := { s.metr with tot := tblPut s.metr.tot t (tblGet s.metr.tot t 0 + x.toNat) 0 } }
  else s

/-! ### Electrical energy (R265 to R268) -/

/-- kwh_f (R266). -/
def kwhOf (s : State) (f : Nat) : W64 :=
  let a := ratF (calFeed s f).vlsb
  let b := ratF (calFeed s f).ilsb
  BitVec.ofInt 64 (roundQ (a.1 * b.1 * 2 ^ 80) (a.2 * b.2 * 3600 * fsHz s))

/-- The gain correction of a feed's channels from the die temperature (Table 9-6), Tj in Q9.7 °C. -/
def gainCorr (s : State) (f : Nat) : F64 :=
  let c := calFeed s f
  let dt := ofRatioF (s.pwr.tj.toInt - 25 * 128) 128
  addF (addF (ofNatF 1) (mulF (ofF32 c.tc1) dt)) (mulF (ofF32 c.tc2) (mulF dt dt))

/-- x′ as a signed 32-bit integer: where the exact value is not one, its value is free. -/
def held32 (x : Int) : Int := if -(2 ^ 31) ≤ x ∧ x < 2 ^ 31 then x else (Config.calOver x).toInt

/-- x′ of a channel (R265): current channels pass the delay filter. -/
def calibrated (s : State) (c : Nat) (hist : List (BitVec 24)) : Int :=
  let k := calChan s c
  let isCur := c < 28 ∧ 3 ≤ c % 7
  let x : Int := if isCur then Config.delayed k.phase hist
                 else ((hist.headD 0).toInt) * 2 ^ 64
  let corr := if c < 28 then ratF (gainCorr s (c / 7)) else (1, 1)
  -- GAIN UQ2.30, OFFS Q24.8
  held32 (roundQ ((k.gain.toNat : Int) * (x - k.offs.toInt * 2 ^ 56) * corr.1 * 2 ^ 8) (2 ^ 94 * corr.2))

/-- RMS from a sum of squares over n samples, in units of one LSB. -/
def rmsF (sum n : Nat) (lsb : F64) : F64 := if n = 0 then 0 else mulF (sqrtF (ofRatioF sum n)) lsb

/-- The end of a cycle of phase p (R268): I_p, the credit of C_p, and the values that are published. -/
def cycleEnd (f p : Nat) (timeout : Bool) (s : State) : State :=
  let c := mfCfg s f
  let k := calFeed s f
  let g := mfGet s f
  let x := phGet s f p
  let ip := rmsF x.sumI x.n k.ilsb
  let cut := ltF ip (mulF c.creep c.inA)
  let s1 := if cut then s
    else if 0 < x.c then credit (8 * f + 6) x.c (credit (8 * f + 2 * p) x.c s)
    else credit (8 * f + 7) (-x.c) (credit (8 * f + 2 * p + 1) (-x.c) s)
  -- W: C_p × 2^-80 Wh × 3600 s/h × FS / n
  let pw := if x.n = 0 then 0 else divF (ofRatioF (x.c * 3600 * fsHz s) (2 ^ 80)) (ofNatF x.n)
  let g1 := { mfGet s1 f with
    rmsN := if p = 0 then rmsF g.sumN x.n k.ilsb else g.rmsN, sumN := if p = 0 then 0 else g.sumN,
    creep := g.creep || cut, zxto := g.zxto || timeout }
  phPut (mfPut s1 f g1) f p
    { x with c := 0, n := 0, sumV := 0, sumI := 0, rmsV := rmsF x.sumV x.n k.vlsb, rmsI := ip, power := pw,
             creep := cut, zxto := timeout }

/-- The frequency of a feed over the last second in UQ8.24 Hz; 0 when a period ended by timeout (R267). -/
def freqOf (l : List MPeriod) : W32 :=
  let sum := (l.map fun p => p.len.toNat).sum
  if l.isEmpty || l.any (·.timeout) then 0 else BitVec.ofInt 32 (roundQ ((l.length * 10 ^ 9 * 2 ^ 24 : Nat) : Int) sum)

/-- The previous cycle's end and, for phase 1, the period and the frequency. -/
def cycleMark (f p : Nat) (at_ : W64) (timeout : Bool) (s : State) : State :=
  let x := phGet s f p
  let s1 := phPut s f p { x with ended := some at_ }
  if p = 0 then
    let g := mfGet s1 f
    let l := match x.ended with
      | some b => ({ at_ := at_, len := at_ - b, timeout := timeout } : MPeriod) :: g.periods
      | none => g.periods
    let l1 := l.filter fun q => decide ((at_ - q.at_).toNat < 10 ^ 9)
    mfPut s1 f { g with periods := l1, freq := freqOf l1 }
  else s1

/-- One sample of one phase: the crossing, which ends the cycle before the sample, then the increment. -/
def phaseSample (f p : Nat) (v i : Int) (ts : W64) (s : State) : State :=
  let x := phGet s f p
  let c := mfCfg s f
  let vl := (calFeed s f).vlsb
  let cross := x.armed && decide (x.lastV < 0) && decide (0 ≤ v)
  let dt := (ts - s.metr.lastTs).toNat
  let at_ := s.metr.lastTs + BitVec.ofInt 64 (roundQ (-x.lastV * dt) (v - x.lastV).toNat)
  let s1 := if cross then cycleMark f p at_ false (cycleEnd f p false s) else s
  let y := phGet s1 f p
  let below := ltF (mulF (ofIntF v) vl) (negF c.zxhys)
  phPut s1 f p { y with c := y.c + v * i * (kwhOf s f).toNat, n := y.n + 1, sumV := y.sumV + (v * v).toNat,
                        sumI := y.sumI + (i * i).toNat, lastV := v, armed := (x.armed && !cross) || below }

def feedSample (xs : List Int) (ts : W64) (s : State) (f : Nat) : State :=
  if !(mfCfg s f).en then s
  else
    let at_ := fun k => xs.getD (7 * f + k) 0
    let s1 := (List.range 3).foldl (fun t p => phaseSample f p (at_ p) (at_ (3 + p)) ts t) s
    let g := mfGet s1 f
    mfPut s1 f { g with sumN := g.sumN + (at_ 6 * at_ 6).toNat }

/-- A code at either end of its range (R263). -/
def overload (c : BitVec 24) : Bool := c == 0x7FFFFF || c == 0x800000

/-- METR runs: started, EN = 1 and its first slot since then has come (R35), and power present. -/
def metrRuns (s : State) : Bool := s.metr.started && runsEn s bMETR && s.metr.pfTbc.isNone

/-- Overloads of the channels, counted and kept for the interval. -/
def noteOverloads (codes : List (BitVec 24)) (s : State) : State :=
  (List.range 32).foldl (fun t c =>
    if overload (codes.getD c 0) then
      let t1 := count bMETR 0 t
      if c < 28 then mfPut t1 (c / 7) { mfGet t1 (c / 7) with ovl := putBit (mfGet t1 (c / 7)).ovl (c % 7) true } else t1
    else t) s

/-- A sample instant: TRIG_1 captures every 1,024th on the time base, and those between follow by count (R263, Table
12-2). -/
def sampleInstant (s : State) : State :=
  if s.metr.samples % 1024 = 0 then
    let g := trigGet s 1
    let s1 := trigPut s 1 { g with mode := 3, cap := nowNsBack2 s, missed := g.missed || g.fired, fired := true }
    { s1 with metr := { s1.metr with captured := nowNsBack2 s, samples := s.metr.samples + 1 } }
  else { s with metr := { s.metr with samples := s.metr.samples + 1 } }

/-- The instant of the sample that `sampleInstant` has counted last. -/
def sampleTs (s : State) : W64 :=
  s.metr.captured + BitVec.ofNat 64 ((s.metr.samples - 1) % 1024 * (10 ^ 9 / fsHz s))

/-- METR_SAMPLE (R263 to R268). -/
def execMetrSample (codes : List (BitVec 24)) (s0 : State) : Host.Outcome State Fault Refusal :=
  .next (
    let s := if s0.metr.started then sampleInstant s0 else s0
    if !(metrRuns s) then s
    else
      let hist := (List.range 32).foldl (fun t c =>
        tblPut t c (((codes.getD c 0) :: tblGet t c []).take 32) []) s.metr.codes
      let s1 := { s with metr := { s.metr with codes := hist } }
      let ts := sampleTs s
      if s.metr.settle > 0 then
        count bMETR 9 { s1 with metr := { s1.metr with settle := s.metr.settle - 1, lastTs := ts } }
      else
        let xs := (List.range 32).map fun c => calibrated s1 c (tblGet hist c [])
        let s2 := (List.range 4).foldl (feedSample xs ts) (noteOverloads codes s1)
        { s2 with metr := { s2.metr with lastTs := ts } })

/-- ZERO_CROSSING_TIMEOUT (R267): the cycle ends at 2 / FNOM after the previous cycle's end. -/
def execZeroCrossingTimeout (f : Fin 4) (p : Fin 3) (s : State) : Host.Outcome State Fault Refusal :=
  .next (
    if metrRuns s && (mfCfg s f).en then
      let lim : W64 := BitVec.ofNat 64 (2 * 10 ^ 9 / max 1 s.metr.cfg.fnom)
      let at_ := match (phGet s f p).ended with | some b => b + lim | none => nowNs s
      count bMETR 1 (cycleMark f p at_ true (cycleEnd f p true s))
    else s)

/-! ### Heat (R269 to R273) -/

/-- A temperature from a ratio reading (R269): the inverse Callendar–Van Dusen equation; none when unusable. -/
def thetaOf (s : State) (n : Nat) (r : RtdReading) : Option F64 :=
  match r with
  | none => none
  | some x =>
    let c := calRtd s n
    let q := divF (mulF x c.rref) c.r0
    let one := ofNatF 1
    let disc := subF (sqF' c.a) (mulF (mulF (ofNatF 4) c.b) (subF one q))
    let th := if ltF q one then Config.cvdBelow q c.a c.b
              else divF (addF (negF c.a) (sqrtF disc)) (mulF (ofNatF 2) c.b)
    if finF th && leF (ofIntF (-40)) th && leF th (ofIntF 200) then some th else none
where sqF' (x : F64) : F64 := mulF x x

/-- The temperature of a channel's window: of the mean of its two readings, where both are usable (R269). -/
def windowTheta (s : State) (n : Nat) (r : RtdReading × RtdReading) : Option F64 :=
  match r.1, r.2 with
  | some a, some b =>
    if (thetaOf s n r.1).isSome && (thetaOf s n r.2).isSome then thetaOf s n (some (divF (addF a b) (ofNatF 2))) else none
  | _, _ => none

/-- The heat factor of a pair at its two temperatures (R270). -/
def factorOf (s : State) (k : Nat) (tf tr : F64) : Rat :=
  heatFactor tf tr (if (mpCfg s k).vloc = 1 then tr else tf) s.metr.cfg.pk

/-- H in units of 2^-64 kJ, rounded once (R270). -/
def heatOf (v : Int) (factor : Rat) : Int := roundQ (v * factor.num) (factor.den * 1000)

/-- DIR and the reversals of a pair after a sample of volume `v` (R273). -/
def noteDir (k : Nat) (v : Int) (s : State) : State :=
  if v = 0 then s
  else
    let g := mpGet s k
    let neg := decide (v < 0)
    mpPut s k { g with dir := neg, hasDir := true, revs := g.revs + b2n (g.hasDir && g.dir != neg) }

/-- One sample is credited by sign, and reversals are counted (R273). -/
def creditHeat (k : Nat) (v h : Int) (s : State) : State :=
  let b := 32 + 5 * k
  let s1 := if 0 < h then credit b h s else credit (b + 1) (-h) s
  noteDir k v (if 0 < v then credit (b + 2) v s1 else credit (b + 3) (-v) s1)

/-- A volume without a usable temperature goes to VE; it is a sample of the pair all the same. -/
def creditVe (k : Nat) (v : Int) (s : State) : State := noteDir k v (count bMETR 2 (credit (32 + 5 * k + 4) v.natAbs s))

/-- The BOOL point DIRPT is TRUE and usable, as a METR slot reads it. -/
def dirNeg (s : State) (k : Nat) : Bool :=
  let r := frozenPt s (mpCfg s k).dirpt
  (mpCfg s k).dirpt != 0xFFFFFFFF && r.typ == 1 && usableQ r && r.value == 1

/-- V of a frequency source for one window: FK × f × 0.1 s. -/
def freqVol (s : State) (k : Nat) (f : F64) : Int :=
  let a := ratF (mpCfg s k).fk
  let b := ratF f
  roundQ (a.1 * b.1 * 2 ^ 64) (a.2 * b.2 * 10)

/-- The volume of a window (R271). Pulses carry the sign of their paired input already. -/
def windowVol (s : State) (k : Nat) (f : F64) (high : Bool) : Int :=
  let c := mpCfg s k
  let v := if c.src = 0 then (mpGet s k).vol else freqVol s k f
  if c.dirsrc = 2 then (if (mpGet s k).dirTrue then -v else v)
  else if c.dirsrc = 1 ∧ c.src = 1 ∧ high then -v
  else v

/-- A window of a pair with its temperatures closes. -/
def closePair (k : Nat) (tf tr : Option F64) (v : Int) (s : State) : State :=
  let c := mpCfg s k
  let g := mpGet s k
  let fGood := match tf with | some x => some x | none => g.tfGood
  let rGood := match tr with | some x => some x | none => g.trGood
  let s0 := mpPut s k { g with vol := 0, since := g.since + 1, tf := tf, tr := tr, tfGood := fGood, trGood := rGood }
  match tf, tr with
  | some a, some b =>
    let f := factorOf s k a b
    if c.src = 2 then
      let y := mpGet s0 k
      mpPut s0 k { y with s := y.s + f, n := y.n + 1 }
    else
      let h := heatOf v f
      let s1 := creditHeat k v h s0
      mpPut s1 k { mpGet s1 k with wins := ((v, some h) :: (mpGet s1 k).wins).take 10 }
  | _, _ =>
    if c.src = 2 then s0
    else
      let s1 := creditVe k v s0
      mpPut s1 k { mpGet s1 k with wins := ((v, none) :: (mpGet s1 k).wins).take 10 }

/-- HEAT_WINDOW_CLOSE (R270). -/
def execHeatWindowClose (rtd : List (RtdReading × RtdReading)) (freq : List F64) (high : W16) (s : State) :
    Host.Outcome State Fault Refusal :=
  .next (
    if !(metrRuns s) then s
    else (List.range 16).foldl (fun t k =>
      let c := mpCfg t k
      if c.en then
        closePair k (windowTheta t (2 * k) (rtd.getD (2 * k) (none, none)))
          (windowTheta t (2 * k + 1) (rtd.getD (2 * k + 1) (none, none)))
          (windowVol t k (freq.getD c.pls 0) (high.getLsbD (c.pls ^^^ 1))) t
      else t) s)

/-- PULSE (R271): a pulse belongs to the window in which its rising edge falls. -/
def execPulse (n : Fin 16) (pairedHigh tooFast : Bool) (s : State) : Host.Outcome State Fault Refusal :=
  .next (
    if !(metrRuns s) then s
    else if tooFast then count bMETR 3 s
    else (List.range 16).foldl (fun t k =>
      let c := mpCfg t k
      if c.en && c.src == 0 && c.pls == n.val then
        let v : Int := (c.pvol.toNat : Int) * 2 ^ 32
        mpPut t k { mpGet t k with vol := (mpGet t k).vol + (if c.dirsrc = 1 ∧ pairedHigh then -v else v) }
      else t) s)

/-- A reading in litres as units of 2^-64 L. -/
def litres (x : F64) : Int := roundQ ((ratF x).1 * 2 ^ 64) (ratF x).2

/-- The M-Bus readings of a pair (R271, R272), in a METR slot: a new base, or one combined sample. -/
def mbusPair (s : State) (k : Nat) : State :=
  let c := mpCfg s k
  let g := mpGet s k
  let r := frozenPt s c.vfpt
  let rv := if c.vrpt = 0xFFFFFFFF then some 0 else usableF (frozenPt s c.vrpt)
  if !c.en || c.src != 2 || r.stamp == g.stamp then s
  else match usableF r, rv with
    | some vf, some vr =>
      let a := litres vf
      let b := litres vr
      let g1 := { g with stamp := r.stamp, vf := some a, vr := b, s := 0, n := 0, since := 0, last := none }
      match g.vf with
      | none => count bMETR 3 (mpPut s k g1)
      | some last =>
        if a < last ∨ b < g.vr then count bMETR 3 (mpPut s k g1)
        else
          let dv := (a - last) - (b - g.vr)
          if g.n = 0 then creditVe k dv (mpPut s k { g1 with last := some (dv, none, g.since) })
          else
            let h := heatOf dv (g.s / (g.n : Rat))
            creditHeat k dv h (mpPut s k { g1 with last := some (dv, some h, g.since) })
    | _, _ => s

/-! ### The METR slot (R288) -/

/-- The mean over the last second of a pair's volume or heat in litres or kJ per second, where its source gives it: ten
windows, or for SRC 2 the last combined sample over the windows that it covers (log entry 77). -/
def lastSecond (s : State) (k : Nat) (pick : Int → Option Int → Option Int) : F64 × Bool :=
  let g := mpGet s k
  let c := mpCfg s k
  if c.src = 2 then
    match g.last with
    | none => (0, false)
    | some (v, h, n) =>
      match pick v h with
      | some x => if n = 0 then (0, false)
                  else (ofRatioF (x * 10) (2 ^ 64 * n), (usableF (frozenPt s c.vfpt)).isSome &&
                    (c.vrpt == 0xFFFFFFFF || (usableF (frozenPt s c.vrpt)).isSome))
      | none => (0, false)
  else
    let xs := g.wins.filterMap fun w => pick w.1 w.2
    (ofRatioF xs.sum (2 ^ 64), xs.length == 10)

/-- The value of a binding and whether its source is usable (Table 9-10). -/
def bindValue (s : State) (b : MBind) : F64 × Bool :=
  let f := b.index / 4
  let p := b.index % 4
  let x := phGet s f p
  let g := mpGet s b.index
  let opt := fun (v : Option F64) => match v with | some y => (y, true) | none => ((0 : F64), false)
  let done := x.ended.isSome
  match b.kind with
  | 0 => (x.rmsV, done)
  | 1 => if p = 3 then ((mfGet s f).rmsN, (phGet s f 0).ended.isSome) else (x.rmsI, done)
  | 2 => (x.power, done)
  | 3 => (addF (addF (phGet s f 0).power (phGet s f 1).power) (phGet s f 2).power,
      (phGet s f 0).ended.isSome && (phGet s f 1).ended.isSome && (phGet s f 2).ended.isSome)
  | 4 => (ofRatioF (mfGet s f).freq.toNat (2 ^ 24), (mfGet s f).freq != 0)
  | 5 => opt g.tf
  | 6 => opt g.tr
  | 7 => match g.tf, g.tr with | some a, some c => (subF a c, true) | _, _ => (0, false)
  | 8 => lastSecond s b.index fun v _ => some v
  | _ => lastSecond s b.index fun _ h => h

def stageBind (s : State) (b : MBind) : State :=
  let (v, ok) := bindValue s b
  stageF 21 b.point (mulF v b.scale) (if ok && s.metr.calValid then 0 else 2) s

/-- The points that a METR slot reads: volumes of SRC 2 pairs and the direction points. -/
def metrPoints (s : State) : List Nat :=
  ((List.range 16).flatMap fun k =>
    let c := mpCfg s k
    if !c.en then []
    else (if c.src = 2 then [c.vfpt, c.vrpt] else []) ++ (if c.dirsrc = 2 then [c.dirpt] else [])).filter (· != 0xFFFFFFFF)

def takeDir (s : State) (k : Nat) : State := mpPut s k { mpGet s k with dirTrue := dirNeg s k }

/-- METR_SLOT (R288): the exchange with the process image, in a slot of master 21 (R19). -/
def execMetrSlot (s : State) : Host.Outcome State Fault Refusal :=
  .next (
    if !s.sched.run || !enOf s bMETR || frozenM s 21 || !(inSlotOf s 21) then s
    else
      readPts 21 (metrPoints s) (fun s =>
        let s1 := (List.range 16).foldl mbusPair ((List.range 16).foldl takeDir s)
        s1.metr.cfg.binds.foldl stageBind s1) (slotReached bMETR s))

/-! ### Intervals (R275, R276) -/

/-- The increment of T since the last close. -/
def incOf (s : State) (t : Nat) : Nat :=
  totT t (tblGet s.metr.tot t 0) - totT t (tblGet s.metr.totClose t 0)

def fwdRevNet (s : State) (a b : Nat) : Bytes :=
  let x := incOf s a
  let y := incOf s b
  leBytes 8 x ++ leBytes 8 y ++ leBytes 8 (BitVec.ofInt 64 ((x : Int) - y)).toNat

/-- The interval record (Table 9-4). -/
def intervalBytes (s : State) (short : Bool) : Bytes :=
  let fl := b2n short + 2 * b2n s.metr.calValid +
    ((List.range 4).map fun f => b2n (mfGet s f).zxto * 2 ^ (2 + f) + b2n (mfGet s f).creep * 2 ^ (6 + f)).sum
  let fr := (List.range 4).map fun f =>
    let g := mfGet s f
    BitVec.ofNat 8 (if g.zxto then 0 else (roundQ (g.freq.toNat * 4 : Nat) (2 ^ 24)).toNat)
  leBytes 8 (s.metr.intSeq.toNat + 1) ++ leBytes 8 s.sched.mfn.toNat ++ leBytes 4 fl ++ fr ++ zeros 40 ++
  ((List.range 4).map fun f => ((List.range 4).map fun p => fwdRevNet s (8 * f + 2 * p) (8 * f + 2 * p + 1)).flatten).flatten ++
  ((List.range 16).map fun k => fwdRevNet s (32 + 5 * k) (32 + 5 * k + 1)).flatten ++
  ((List.range 16).map fun k => fwdRevNet s (32 + 5 * k + 2) (32 + 5 * k + 3)).flatten ++
  ((List.range 16).map fun k => leBytes 8 (incOf s (32 + 5 * k + 4))).flatten ++
  ((List.range 16).map fun k => leBytes 2 (mpGet s k).revs).flatten ++ zeros 32

/-- The interval closes: its record is kept under its SEQ, and the per-interval marks start again. -/
def closeInterval (short : Bool) (s : State) : State :=
  let seq := s.metr.intSeq + 1
  let rec_ := intervalBytes s (short || s.metr.short)
  let s1 := (List.range 4).foldl (fun t f =>
    let g := mfGet t f
    mfPut t f { g with ovlLast := g.ovl, ovl := 0, zxtoLast := g.zxto, zxto := false, creep := false }) s
  let s2 := (List.range 16).foldl (fun t k =>
    let g := mpGet t k
    mpPut t k { g with revsLast := BitVec.ofNat 16 g.revs, revs := 0 }) s1
  irqEdge 198 { s2 with metr := { s2.metr with
    intSeq := seq, short := false, totClose := s2.metr.tot,
    records := tblPut s2.metr.records (seq.toNat % 128) rec_ [] } }

/-- INTERVAL_CLOSE (R275). -/
def execIntervalClose (s : State) : Host.Outcome State Fault Refusal :=
  .next (if metrRuns s then closeInterval false s else s)

/-! ### Saves (R277 to R280) -/

/-- Where the model lays the metering records in the METR region of the MRAM. -/
def mramCopy (b : Bool) : Nat := if b then 0x41000 else 0x40000
def mramResidual : Nat := 0x42000
def mramCal (b : Bool) : Nat := if b then 0x44000 else 0x43000
def mramLoss : Nat := 0x45000

/-- A totaliser copy (R277). -/
def copyBytes (s : State) : Bytes :=
  let b := leBytes 8 (s.metr.saveSeq.toNat + 1) ++ leBytes 8 (rtcTicks s).toNat ++ zeros 48 ++
    ((List.range 112).map fun t =>
      let v := tblGet s.metr.tot t 0
      leBytes 16 (totT t v) ++ leBytes 8 (totRho t v)).flatten
  b ++ leBytes 4 (crc32c b)

/-- The bytes of the calibration record as the copies hold it. -/
def calBytes (c : MCal) : Bytes :=
  ((List.range 32).map fun n => let k := tblGet c.chans n {}
    leBytes 4 k.gain.toNat ++ leBytes 4 k.offs.toNat ++ leBytes 4 k.phase.toNat).flatten ++
  ((List.range 4).map fun n => let k := tblGet c.feeds n {}
    leBytes 8 k.vlsb.toNat ++ leBytes 8 k.ilsb.toNat ++ leBytes 4 k.tc1.toNat ++ leBytes 4 k.tc2.toNat).flatten ++
  ((List.range 32).map fun n => let k := tblGet c.rtds n {}
    leBytes 8 k.rref.toNat ++ leBytes 8 k.r0.toNat ++ leBytes 8 k.a.toNat ++ leBytes 8 k.b.toNat).flatten

/-- The groups of the calibration record from bytes. -/
def chanOf (b : Bytes) : CalChan :=
  { gain := BitVec.ofNat 32 (u32 b 0), offs := BitVec.ofNat 32 (u32 b 4), phase := BitVec.ofNat 32 (u32 b 8) }
def feedOf (b : Bytes) : CalFeed :=
  { vlsb := BitVec.ofNat 64 (u64 b 0), ilsb := BitVec.ofNat 64 (u64 b 8), tc1 := BitVec.ofNat 32 (u32 b 16),
    tc2 := BitVec.ofNat 32 (u32 b 20) }
def rtdOf (b : Bytes) : CalRtd :=
  { rref := BitVec.ofNat 64 (u64 b 0), r0 := BitVec.ofNat 64 (u64 b 8), a := BitVec.ofNat 64 (u64 b 16),
    b := BitVec.ofNat 64 (u64 b 24) }

def calOfBytes (b : Bytes) : MCal :=
  { chans := (List.range 32).foldl (fun t n => tblPut t n (chanOf (b.drop (12 * n))) {}) [],
    feeds := (List.range 4).foldl (fun t n => tblPut t n (feedOf (b.drop (384 + 24 * n))) {}) [],
    rtds := (List.range 32).foldl (fun t n => tblPut t n (rtdOf (b.drop (480 + 32 * n))) {}) [] }

def calLen : Nat := 480 + 32 * 32

/-- One group as METR_CAL gives it. -/
def calApply (c : MCal) (p : CalPend) : MCal :=
  if p.group = 0 then { c with chans := tblPut c.chans p.index (chanOf p.bytes) {} }
  else if p.group = 1 then { c with feeds := tblPut c.feeds p.index (feedOf p.bytes) {} }
  else { c with rtds := tblPut c.rtds p.index (rtdOf p.bytes) {} }

/-- A group takes effect: a changed VLSB or ILSB clears the feed's totalisers, and Lantern records it (R282). -/
def calTake (s : State) (p : CalPend) : State :=
  let old := calFeed s p.index
  let c := calApply s.metr.cal p
  let s1 := { s with metr := { s.metr with cal := c, calValid := true } }
  let new := calFeed s1 p.index
  let clear := p.group == 1 && (old.vlsb != new.vlsb || old.ilsb != new.ilsb)
  let clr := fun (t : Tbl Nat) => t.filter fun kv => !(decide (8 * p.index ≤ kv.1) && decide (kv.1 < 8 * p.index + 8))
  lantern 0x0901 1 (leBytes 1 p.group ++ leBytes 1 p.index)
    (if clear then { s1 with metr := { s1.metr with tot := clr s1.metr.tot, totClose := clr s1.metr.totClose } } else s1)

/-- The calibration record is written in both copies with its CRC. -/
def calSave (s : State) : State :=
  let b := calBytes s.metr.cal
  let r := b ++ leBytes 4 (crc32c b)
  mramWrite (mramCal true) r (mramWrite (mramCal false) r s)

/-- A periodic save: pending calibration takes effect, and a copy is written to A and B in turn. A copy
that does not read back well is counted and written again at the next save (R277). -/
def saveTotals (ok : Bool) (s : State) : State :=
  let s1 := if s.metr.calPend.isEmpty then s
    else
      let t := s.metr.calPend.foldl calTake s
      calSave { t with metr := { t.metr with calPend := [] } }
  let s2 := mramWrite (mramCopy s.metr.copyB) (copyBytes s1) s1
  if ok then
    { s2 with metr := { s2.metr with saveSeq := s.metr.saveSeq + 1, copyB := !s.metr.copyB, totCopy := s1.metr.tot,
                                     stopping := false } }
  else count bMETR 5 s2

/-- TOTALISER_SAVE (R277): not while master 21 is frozen (R283) or METR has stopped (R284). -/
def execTotaliserSave (readBackOk : Bool) (s : State) : Host.Outcome State Fault Refusal :=
  .next (
    if !s.metr.started || s.metr.pfTbc.isSome || frozenM s 21 || !(enOf s bMETR || s.metr.stopping) then s
    else saveTotals readBackOk s)

/-- The residual record (R278). -/
def residualBytes (s : State) : Bytes :=
  let b := leBytes 8 s.metr.saveSeq.toNat ++ leBytes 8 s.pwr.pfTime.toNat ++ zeros 48 ++
    ((List.range 112).map fun t =>
      let v := tblGet s.metr.tot t 0
      leBytes 8 (totT t v - totT t (tblGet s.metr.totCopy t 0)) ++ leBytes 8 (totRho t v)).flatten
  b ++ leBytes 4 (crc32c b)

/-- What the DSP does when PWRFAIL_N falls (R278): open cycles and windows close, the residual is written. The
frequency and the direction input of a window cut short are free values (log entry 77). -/
def metrPowerFail (s : State) : State :=
  if !s.metr.started then s
  else
    let s1 := (List.range 4).foldl (fun t f =>
      if (mfCfg t f).en then (List.range 3).foldl (fun u p => cycleEnd f p (phGet u f p).zxto u) t else t) s
    let s2 := (List.range 16).foldl (fun t k =>
      if (mpCfg t k).en then
        let g := mpGet t k
        let f := freeWord t
        let h := freeWord f.2
        closePair k g.tfGood g.trGood (windowVol t k (f.1 &&& 0x7FFFFFFFFFFFFFFF) (h.1.getLsbD 0)) h.2
      else t) s1
    let s3 := mramWrite mramResidual (residualBytes s2) s2
    { s3 with metr := { s3.metr with pfTbc := some s.time.tbc } }

/-- METR resumes when PWRFAIL_N rises without a reset (R280). -/
def metrResume (s : State) : State :=
  match s.metr.pfTbc with
  | none => s
  | some t0 =>
    let lost := (s.time.tbc - t0).toNat * fsHz s / 10 ^ 9
    countN bMETR 9 lost { s with metr := { s.metr with pfTbc := none } }

/-- A copy in MRAM: its bytes if its CRC is valid. -/
def copyOk (b : Bytes) : Bool := leNat (b.drop 2752) == crc32c (b.take 2752)

/-- Totalisers from a copy, with a residual added when there is one. -/
def totFrom (cp : Bytes) (res : Option Bytes) : Tbl Nat :=
  (List.range 112).foldl (fun m t =>
    let v := match res with
      | none => u128 cp (64 + 24 * t) * 2 ^ fineBits t + u64 cp (80 + 24 * t)
      | some r => (u128 cp (64 + 24 * t) + u64 r (64 + 16 * t)) * 2 ^ fineBits t + u64 r (72 + 16 * t)
    tblPut m t v 0) []

/-- The gap as seconds of an energy bound: ticks of 32,768 Hz, kW × s = kJ; kWh for the feeds as kW × s / 3600. -/
def lossBound (gap : Nat) (p : F64) : F64 := mulF p (ofRatioF gap 32768)

/-- A residual that was not restored (R279). -/
def residualLost (gap : Nat) (s : State) : State :=
  count bMETR 4 { s with metr := { s.metr with resLost := true, pfGap := BitVec.ofNat 32 gap } }

/-- Its loss bounds, once METRCFG gives PMAX and HMAX: in the table and, four to a record, in Lantern; the residual
record is then erased. -/
def lossRecord (s : State) : State :=
  let gap := s.metr.pfGap.toNat
  let l := ((List.range 4).foldl (fun t f => tblPut t f (lossBound gap (mfCfg s f).pmax) 0) ([] : Tbl F64))
  let l2 := (List.range 16).foldl (fun t k => tblPut t (4 + k) (lossBound gap (mpCfg s k).hmax) 0) l
  let bytes := ((List.range 20).map fun i => leBytes 8 (tblGet l2 i 0).toNat).flatten
  if s.metr.resLost then
    (List.range 5).foldl (fun t i => lantern 0x0901 1 (slice bytes (32 * i) 32) t)
      (mramWrite mramResidual (zeros 1860) (mramWrite mramLoss bytes { s with metr := { s.metr with loss := l2 } }))
  else s

/-- Calibration as MRAM holds it (R282). -/
def calLoad (s : State) : State :=
  let ok := fun b => leNat (b.drop calLen) == crc32c (b.take calLen)
  let a := mramRead (mramCal false) (calLen + 4) s
  let b := mramRead (mramCal true) (calLen + 4) s
  if ok a then { s with metr := { s.metr with cal := calOfBytes a, calValid := true } }
  else if ok b then { s with metr := { s.metr with cal := calOfBytes b, calValid := true } }
  else { s with metr := { s.metr with cal := {}, calValid := false } }

/-- The theft watch at a start (R281): its data is reported. -/
def theftStart (s : State) : State :=
  (List.range 4).foldl (fun t f =>
    let w := tblGet t.metr.tw f ({} : MTheft)
    if w.secs = 0 then t else lantern 0x0901 1 (leBytes 1 f ++ leBytes 4 w.secs.toNat) t) s

/-- The image's theft-watch configuration goes to the Wick domain (R281). -/
def theftConfig (s : State) : State :=
  (List.range 4).foldl (fun t f =>
    let c := mfCfg t f
    let w := tblGet t.metr.tw f ({} : MTheft)
    let w1 := { w with twen := c.twen, twph := BitVec.ofNat 2 c.twph, twthr := c.twthr }
    { t with metr := { t.metr with tw := tblPut t.metr.tw f w1 {} } }) s

/-- METR starts (R279): the newest good copy and its residual are restored. A unit whose MRAM holds no
good copy starts its totalisers at 0, and its gap has no SAVET to start from: a free value (log entry 77). -/
def metrStart (s0 : State) : State :=
  let s := calLoad { s0 with metr := { s0.metr with started := true, short := true, pfTbc := none } }
  let a := mramRead (mramCopy false) 2756 s
  let b := mramRead (mramCopy true) 2756 s
  let useB := copyOk b && (!(copyOk a) || decide (u64 a 0 < u64 b 0))
  let cp := if useB then b else a
  if !(copyOk cp) then theftStart (residualLost ((freeWord s).1.toNat % 2 ^ 32) (freeWord s).2)
  else
    let r := mramRead mramResidual 1860 s
    let rok := leNat (r.drop 1856) == crc32c (r.take 1856) && u64 r 0 == u64 cp 0
    let t := totFrom cp (if rok then some r else none)
    let s1 := { s with metr := { s.metr with tot := t, totClose := t, totCopy := totFrom cp none,
                                             saveSeq := BitVec.ofNat 64 (u64 cp 0), copyB := !useB,
                                             pfGap := 0, resLost := false } }
    let gap := (s.pwr.pfTime - BitVec.ofNat 48 (u64 cp 8)).toNat
    theftStart (if rok then mramWrite mramResidual (zeros 1860) s1 else residualLost gap s1)

/-! ### Theft watch (R281) -/

/-- THEFT_WATCH_SECOND: one RMS value per feed while the main rails are absent. -/
def execTheftWatchSecond (rms : List (BitVec 12)) (s : State) : Host.Outcome State Fault Refusal :=
  .next (
    if !s.pwr.asleep then s
    else (List.range 4).foldl (fun t f =>
      let w := tblGet t.metr.tw f ({} : MTheft)
      let r := rms.getD f 0
      if w.twen && decide (w.twthr ≤ r) then
        let w1 := { w with secs := satInc w.secs, peak := if w.peak < r then r else w.peak,
                           first := if w.secs = 0 then (rtcTicks t).zeroExtend 64 else w.first }
        { t with metr := { t.metr with tw := tblPut t.metr.tw f w1 {} } }
      else t) s)

/-- TWDATA (Table 9-12). -/
def twData (s : State) : Bool := s.metr.tw.any fun kv => kv.2.secs != 0

/-! ### Descriptors (R289) -/

def finMetr (d : HostDesc) (st data : Nat) (s : State) : State :=
  complete d st data (countIf (st == stDROPPED) bMETR 8 (countIf (st == stRANGE || st == stLOCKED) bMETR 7 s))

def totEntry (s : State) (t : Nat) : Bytes :=
  let v := tblGet s.metr.tot t 0
  leBytes 16 (totT t v) ++ leBytes 8 (totRho t v) ++ leBytes 4 t ++ zeros 4

def twEntry (s : State) (f : Nat) : Bytes :=
  let w := tblGet s.metr.tw f ({} : MTheft)
  leBytes 4 w.secs.toNat ++ leBytes 4 (w.twph.toNat * 2 ^ 12 + w.peak.toNat) ++ leBytes 8 w.first.toNat

/-- METR_READ (R289). -/
def effMetrRead (d : HostDesc) (s : State) : State :=
  let what := d8 d 16
  let f := d32 d 20
  let n := d32 d 24
  let a := dAddr d
  let send := fun b => finMetr d stOK 0 (toHost a b s)
  match what with
  | 0 => if f + n > 112 then finMetr d stRANGE 0 s else send ((List.range n).map fun i => totEntry s (f + i)).flatten
  | 1 =>
    let q := d64 d 40
    let last := s.metr.intSeq.toNat
    if n > 128 ∨ q = 0 ∨ q + n > last + 1 then finMetr d stRANGE 0 s
    else if q + 128 ≤ last then finMetr d stDROPPED 0 s
    else send ((List.range n).map fun i => tblGet s.metr.records ((q + i) % 128) []).flatten
  | 2 => if f ≠ 0 ∨ n > 1 then finMetr d stRANGE 0 s else send (if n = 1 then calBytes s.metr.cal else [])
  | 3 => if f + n > 20 then finMetr d stRANGE 0 s
         else send ((List.range n).map fun i => leBytes 8 (tblGet s.metr.loss (f + i) 0).toNat).flatten
  | 4 => if f + n > 4 then finMetr d stRANGE 0 s else send ((List.range n).map fun i => twEntry s (f + i)).flatten
  | _ => finMetr d stRANGE 0 s

/-- A calibration group out of its ranges: PHASE lies within −2 to +2 samples, on current channels. -/
def calRange (g i : Nat) (b : Bytes) : Bool :=
  let ph := (BitVec.ofNat 32 (u32 b 8) : W32).toInt
  let cur := i < 28 ∧ 3 ≤ i % 7
  let fin := fun o => finF (BitVec.ofNat 64 (u64 b o))
  match g with
  | 0 => decide (i < 32) && (if cur then decide (-(2 ^ 29) ≤ ph) && decide (ph ≤ 2 ^ 29) else true)
  | 1 => decide (i < 4) && fin 0 && fin 8 && finS (BitVec.ofNat 32 (u32 b 16)) && finS (BitVec.ofNat 32 (u32 b 20))
  | 2 => decide (i < 32) && fin 0 && fin 8 && fin 16 && fin 24
  | _ => false

/-- METR_CAL (R282): the group waits for the next periodic save. -/
def effMetrCal (d : HostDesc) (s : State) : State :=
  let g := d8 d 16
  let i := d8 d 17
  if s.metr.calLock then finMetr d stLOCKED 0 s
  else if !(calRange g i d.buf) then finMetr d stRANGE 0 s
  else finMetr d stOK 0 { s with metr := { s.metr with
    calPend := s.metr.calPend ++ [{ group := g, index := i, bytes := slice d.buf 0 32 }] } }

/-- METR_LOCK (R282). -/
def effMetrLock (d : HostDesc) (s : State) : State :=
  if d8 d 16 ≤ 1 then
    finMetr d stOK 0 (if unlocked s then { s with metr := { s.metr with calLock := d8 d 16 == 1 } } else s)
  else finMetr d stRANGE 0 s

/-- METR_TWCLR (R281): the data is cleared and the watch keeps its configuration. -/
def effMetrTwclr (d : HostDesc) (s : State) : State :=
  finMetr d stOK 0 { s with metr := { s.metr with
    tw := (List.range 4).foldl (fun t f =>
      let w := tblGet t f ({} : MTheft)
      tblPut t f { w with secs := 0, peak := 0, first := 0 } {}) s.metr.tw } }

def execMetrRead (d : HostDesc) (s : State) : Host.Outcome State Fault Refusal := .next (arrive effMetrRead d s)
def execMetrCal (d : HostDesc) (s : State) : Host.Outcome State Fault Refusal := .next (arrive effMetrCal d s)
def execMetrLock (d : HostDesc) (s : State) : Host.Outcome State Fault Refusal := .next (arrive effMetrLock d s)
def execMetrTwclr (d : HostDesc) (s : State) : Host.Outcome State Fault Refusal := .next (arrive effMetrTwclr d s)

end Sys2Proof.Machine
end

