-- ==== Sys2Proof/Machine/Security.lean ====
section
/-! DEFINITION. SEC: keys, owner roots, signed records, sessions, attestation, tamper (14_security.md). -/

namespace Sys2Proof.Machine

/-! ### Roots and signatures (R399 to R403) -/

def rootGet (s : State) (k : Nat) : Root := tblGet s.sec.roots k {}
def rootPut (s : State) (k : Nat) (v : Root) : State := { s with sec := { s.sec with roots := tblPut s.sec.roots k v {} } }
def rootUsable (r : Root) : Bool := r.installed && !r.revoked && r.checked

/-- The public key under which a ROOT verifies: in a debug boot the test root alone (R409). -/
def rootKey (s : State) (k : Nat) : Option Bytes :=
  if s.sec.debug then (if k = 0 then some Config.testRootKey else none)
  else if k < 4 ∧ rootUsable (rootGet s k) then some (rootGet s k).key
  else none

/-- r and s, big-endian, over SHA-384 of a message. -/
def sigOk (key msg sig : Bytes) : Bool :=
  ecdsaVerify (ecOfBytes key) (sha384 msg) (beNat (slice sig 0 48)) (beNat (slice sig 48 48))

/-- The check of R402 on a record: none, or the counter of the failure. -/
def recordFail (s : State) (magic : Nat) (rootAt : Nat) (b : Bytes) (signed : Nat) : Option Nat :=
  if s.sec.snuffed then some 8
  else if u32 b 0 ≠ magic ∨ slice b 8 8 ≠ devuid s then some 1
  else match rootKey s (u8 b rootAt) with
    | none => some 1
    | some key =>
      if !sigOk key (slice b 0 signed) (slice b signed 96) then some 1
      else if u64 b 0x10 ≤ s.sec.ocnt.toNat then some 2
      else none

/-- SEC.OCNT takes the record's value (R402). -/
def takeOcnt (n : Nat) (s : State) : State := { s with sec := { s.sec with ocnt := BitVec.ofNat 64 n } }

/-- The check of a signed command record of 192 bytes (Table 14-4), and of a key blob (Table 14-5). -/
def signedFail (s : State) (b : Bytes) : Option Nat := recordFail s 0x4E47534F 4 b 0x60
def blobFail (s : State) (b : Bytes) : Option Nat := recordFail s 0x424C424B 5 b 0xD0

def finSec (d : HostDesc) (st data : Nat) (s : State) : State :=
  finish bSEC 7 [stRANGE, stREFUSED, stNOT_READY, stBUSY, stCAPACITY] d st data s

/-! ### Key blobs (R403) -/

/-- The secret of a blob: ECDH, KDF and GCM. -/
def blobSecret (s : State) (b : Bytes) : Option Bytes :=
  match s.sec.dxk, ecMul (s.sec.dxk.getD 0) (ecOfBytes (slice b 0x20 97)) with
  | some _, some (x, _) =>
    let k := kdf (beBytes 48 x) (ascii "SH-BLOB") (devuid s ++ slice b 0x10 8) 352
    gcmDec (k.take 32) (k.drop 32) (b.take 0xA0) (slice b 0xA0 32) (slice b 0xC0 16)
  | _, _ => none

/-- A secret as the MRAM key store holds it (R397). -/
def wrapped (s : State) (key : Bytes) : Bytes := match s.sec.kek with | some k => kwWrap k (slice key 0 32) | none => []

/-- A session that a blob makes, kept wrapped in MRAM (Table 14-6). -/
def blobSess (k : Nat) (v : Sess) (s : State) : State :=
  let s1 := sessPut s k v
  { s1 with sec := { s1.sec with
      wrapSess := tblPut s1.sec.wrapSess k (wrapped s v.key) [], keptSess := tblPut s1.sec.keptSess k { v with key := [] } {} } }

/-- The pool entry of a port's CAK: the one it has, or the first free one. -/
def cakEntry (s : State) (p : Nat) : Option Nat := poolEntry 4 p s

/-- A pool session of a blob's kind: made or replaced. -/
def blobPool (d : HostDesc) (kind : Byte) (k : Nat) (v : Sess) (s : State) : State :=
  if k < 1024 ∨ 2048 ≤ k then finSec d stRANGE 0 s
  else if (sessGet s k).kind ≠ 0 ∧ (sessGet s k).kind ≠ kind then finSec d stBUSY 0 s
  else finSec d stOK 0 (blobSess k v (takeOcnt (u64 d.buf 0x10) s))

/-- The installation of a verified secret. -/
def blobInstall (d : HostDesc) (sec : Bytes) (s : State) : State :=
  let b := d.buf
  let kind := u8 b 4
  let t := u16 b 6
  let s1 := takeOcnt (u64 b 0x10) s
  let mk : Byte → Bytes → Sess := fun k key => { kind := k, st := 1, ref := BitVec.ofNat 16 t, key := key }
  if kind = 1 then finSec d stOK 0 { s1 with sec := { s1.sec with netsec := some sec, wrapNet := wrapped s sec } }
  else if kind = 2 then finSec d stOK 0 { s1 with sec := { s1.sec with pairsec := some sec, wrapPair := wrapped s sec } }
  else if kind = 0 ∨ 5 < kind then finSec d stRANGE 0 s
  else if s.sec.noSecret then finSec d stNOT_READY 0 s
  else if kind = 3 then blobPool d 2 t (mk 2 (sec.take 16)) s
  else if kind = 5 then blobPool d 5 t { mk 5 sec with rights := BitVec.ofNat 32 (u32 b 0x18) } s
  else if 16 ≤ t then finSec d stRANGE 0 s
  else match cakEntry s t with
    | none => finSec d stCAPACITY 0 s
    | some k => blobPool d 4 k (mk 4 sec) s

/-- A blob whose verification has ended. -/
def blobDone (d : HostDesc) (s : State) : State :=
  match blobFail s d.buf with
  | some n => complete d stAUTH_FAIL 0 (count bSEC n s)
  | none =>
    match blobSecret s d.buf with
    | none => complete d stAUTH_FAIL 0 (count bSEC 1 s)
    | some x => blobInstall d x s

/-- SEC_SIGNED and SEC_BLOB wait for MC0's crypto engine. -/
def effSecVerify (blob : Bool) (d : HostDesc) (s : State) : State :=
  { s with sec := { s.sec with verif := s.sec.verif ++ [{ desc := d, blob := blob }] } }

def execSecSigned (d : HostDesc) (s : State) : Host.Outcome State Fault Refusal := .next (arrive (effSecVerify false) d s)
def execSecBlob (d : HostDesc) (s : State) : Host.Outcome State Fault Refusal := .next (arrive (effSecVerify true) d s)

/-! ### Attestation (R406) -/

/-- A slot of the owner root table: its state byte and its digest. -/
def rootEntry (s : State) (k : Nat) : Bytes :=
  let r := rootGet s k
  leBytes 1 (b2n r.installed + 2 * b2n r.revoked) ++ beBytes 48 r.digest.toNat

def rootTable (s : State) : Bytes := ((List.range 4).map (rootEntry s)).flatten

def cfgDig (s : State) : Bytes :=
  sha384 (rootTable s ++ leBytes 8 s.sched.rbFloor.toNat ++ leBytes 4 s.sec.fwFloor.toNat ++ leBytes 1 (b2n s.metr.calLock) ++
    calBytes s.metr.cal)

/-- The class 1 statement without its signature (Table 14-8). -/
def statementBody (s : State) (nonce : Bytes) (dxk : Nat) : Bytes :=
  let flags := b2n s.sec.debug + 2 * b2n (s.sec.tampSt != 0) + 4 * b2n (s.pair.role == 1) + 8 * b2n s.time.lock + 16 * b2n s.sec.noSecret
  leBytes 4 0x54535441 ++ leBytes 2 1 ++ leBytes 2 flags ++ devuid s ++ leBytes 8 s.sec.scnt.toNat ++ leBytes 8 s.sched.mfn.toNat ++
    nonce ++ leBytes 16 (timeForm (nowT s)).toNat ++ beBytes 48 s.sys.fwDig.toNat ++ beBytes 48 s.sched.imgDig.toNat ++
    beBytes 48 s.sched.cellDig.toNat ++ cfgDig s ++ sha384 (ecPub dxk)

def effSecAttest (d : HostDesc) (s : State) : State :=
  match s.sec.dik, s.sec.dxk with
  | some dik, some dxk =>
    if s.sec.snuffed ∨ !s.sec.drbgOk then finSec d stNOT_READY 0 s
    else
      let r := randomBytes 56 { s with sec := { s.sec with scnt := s.sec.scnt + 1 } }
      let b := statementBody r.2 (slice d.bytes 16 32) dxk
      finSec d stOK 0 (toHost (BitVec.ofNat 64 (d64 d 48)) (b ++ ecdsaSign dik (scalarOf r.1) (sha384 b)) r.2)
  | _, _ => finSec d stNOT_READY 0 s
def execSecAttest (d : HostDesc) (s : State) : Host.Outcome State Fault Refusal := .next (arrive effSecAttest d s)

/-! ### Reading and ending sessions (R413) -/

/-- SEC.SESS[n] (Table 14-15). -/
def sessBytes (s : State) (k : Nat) : Bytes :=
  let e := sessGet s k
  leBytes 2 e.ref.toNat ++ leBytes 1 (e.st.toNat * 16) ++ [e.kind] ++ leBytes 4 e.uses.toNat ++ leBytes 4 e.fails.toNat ++ zeros 4

def tamperRecord (s : State) : Bytes :=
  leBytes 4 s.sec.tampSt.toNat ++ leBytes 4 s.sec.tampCfg.toNat ++ leBytes 8 s.sec.tampTime.toNat

def effSecRead (d : HostDesc) (s : State) : State :=
  let w := d8 d 16
  let first := d32 d 20
  let n := d32 d 24
  if w = 0 then
    match s.sec.dik, s.sec.dxk with
    | some a, some b => finSec d stOK 0 (toHost (dAddr d) (slice (ecPub a ++ ecPub b) 0 256) s)
    | _, _ => finSec d stNOT_READY 0 s
  else if w = 1 then
    if 2048 < first + n then finSec d stRANGE 0 s
    else finSec d stOK 0 (toHost (dAddr d) ((List.range n).map fun i => sessBytes s (first + i)).flatten s)
  else if w = 2 then
    if 4 < first + n then finSec d stRANGE 0 s
    else finSec d stOK 0 (toHost (dAddr d) ((List.range n).map fun i => rootEntry s (first + i)).flatten s)
  else if w = 3 then finSec d stOK 0 (toHost (dAddr d) (tamperRecord s) s)
  else finSec d stRANGE 0 s
def execSecRead (d : HostDesc) (s : State) : Host.Outcome State Fault Refusal := .next (arrive effSecRead d s)

/-- A session ends; its kept copy is gone. -/
def sessEnd (k : Nat) (s : State) : State :=
  let s1 := sessPut s k {}
  { s1 with sec := { s1.sec with wrapSess := tblPut s1.sec.wrapSess k [] [], keptSess := tblPut s1.sec.keptSess k {} {} } }

/-- SEC_RETIRE: the session that authorises it ends after the completion. -/
def effSecRetire (d : HostDesc) (s : State) : State :=
  let k := d16 d 16
  let kind := (sessGet s k).kind
  if 2048 ≤ k then finSec d stRANGE 0 s
  else if kind = 0 then finSec d stNOT_READY 0 s
  else if kind ≠ 2 ∧ kind ≠ 4 ∧ kind ≠ 5 then finSec d stREFUSED 0 s
  else if k = d16 d 4 ∧ d.signed.isNone then
    completeR d stOK 0 (some k) (sessPut s k { sessGet s k with st := 2 })
  else finSec d stOK 0 (sessEnd k s)
def execSecRetire (d : HostDesc) (s : State) : Host.Outcome State Fault Refusal := .next (arrive effSecRetire d s)

/-! ### Owner-signed commands (R400, R409 to R413) -/

def usableRoots (s : State) : Nat := ((List.range 4).filter fun k => rootUsable (rootGet s k)).length

/-- SEC_ROOT (R400). -/
def effSecRoot (d : HostDesc) (s : State) : State :=
  let k := d8 d 17
  let r := rootGet s k
  if 1 < d8 d 16 ∨ 3 < k then finSec d stRANGE 0 s
  else if d8 d 16 = 0 then
    let key := slice d.buf 0 97
    let dig := sha384 key
    if r.installed ∨ r.revoked ∨ dig.take 32 ≠ slice d.bytes 32 32 then finSec d stREFUSED 0 s
    else finSec d stOK 0 (rootPut s k { key := key, digest := BitVec.ofNat 384 (beNat dig), installed := true, checked := true })
  else if !rootUsable r ∨ usableRoots s ≤ 1 then finSec d stREFUSED 0 s
  else finSec d stOK 0 (rootPut s k { r with revoked := true })
def execSecRoot (d : HostDesc) (s : State) : Host.Outcome State Fault Refusal := .next (arrive effSecRoot d s)

/-- SEC_FLOOR (R413). -/
def effSecFloor (d : HostDesc) (s : State) : State :=
  let v := d64 d 24
  if d8 d 16 = 0 then
    if v < s.sched.rbFloor.toNat then finSec d stRANGE 0 s
    else finSec d stOK 0 { s with sched := { s.sched with rbFloor := BitVec.ofNat 64 v } }
  else if d8 d 16 = 1 then
    if v < s.sec.fwFloor.toNat ∨ 2 ^ 32 ≤ v then finSec d stRANGE 0 s
    else finSec d stOK 0 { s with sec := { s.sec with fwFloor := BitVec.ofNat 32 v } }
  else finSec d stRANGE 0 s
def execSecFloor (d : HostDesc) (s : State) : Host.Outcome State Fault Refusal := .next (arrive effSecFloor d s)

/-- A kept session with its key unwrapped; none where it does not unwrap. -/
def unwrapSess (kek : Bytes) (s : State) (kv : Nat × Sess) : State :=
  match kwUnwrap kek (tblGet s.sec.wrapSess kv.1 []) with
  | some key => sessPut s kv.1 { kv.2 with key := if kv.2.kind = 2 then key.take 16 else key, st := 1 }
  | none => s

/-- MC0 unwraps NETSEC, PAIRSEC and the kept sessions: not while TAMPST is non-zero, nor in a debug boot (R409, R412). -/
def unwrapSecrets (s : State) : State :=
  match s.sec.kek with
  | none => s
  | some kek =>
    if s.sec.tampSt ≠ 0 ∨ s.sec.debug ∨ s.sec.snuffed then s
    else
      s.sec.keptSess.foldl (unwrapSess kek) { s with sec := { s.sec with
        noSecret := false, netsec := kwUnwrap kek s.sec.wrapNet, pairsec := kwUnwrap kek s.sec.wrapPair } }

/-- TAMPER_SET: the mesh generator is seeded from the DRBG when armed (Table 14-10). -/
def tamperSet (d : HostDesc) (s : State) : State :=
  let v := d32 d 24
  if s.sec.tampLock then finSec d stREFUSED 0 s
  else if bit v 20 ∧ !s.sec.drbgOk then finSec d stNOT_READY 0 s
  else
    let r := if bit v 20 then randomBytes 4 s else ([], s)
    finSec d stOK 0 { r.2 with sec := { r.2.sec with
      tampCfg := BitVec.ofNat 32 (v % 2 ^ 21), tampLock := true, tampArm := true,
      lfsr := if bit v 20 then BitVec.ofNat 31 (leNat r.1) else r.2.sec.lfsr } }

/-- SEC_CTL (R409, R411, R412). -/
def effSecCtl (d : HostDesc) (s : State) : State :=
  match d8 d 16 with
  | 0 => finSec d stOK 0 { s with sec := { s.sec with debugReq := true } }
  | 1 => finSec d stOK 0 (unwrapSecrets { s with sec := { s.sec with tampSt := 0, tampTime := 0 } })
  | 2 => finSec d stOK 0 { s with sec := { s.sec with tampLock := false, tampArm := false } }
  | 3 => tamperSet d s
  | _ => finSec d stRANGE 0 s
def execSecCtl (d : HostDesc) (s : State) : Host.Outcome State Fault Refusal := .next (arrive effSecCtl d s)

/-! ### Tamper and the random source (R398, R410 to R412) -/

/-- The management domain runs (R494). -/
def awake (s : State) : Bool := !s.pwr.asleep

/-- A detector is armed (Table 14-10); VBATLOSS is taken at start (R411). -/
def tampArmed (s : State) (c : Nat) : Bool :=
  let v := s.sec.tampCfg.toNat
  if c < 8 then bits v (2 * c + 1) (2 * c) ≠ 0
  else if c = 8 then bit v 20
  else if c = 9 then s.metr.pfTbc.isNone && !s.pwr.pflock
  else if c = 10 then s.pwr.asleep
  else if c = 12 then awake s
  else true

/-- MC0 counts and records the event once it sees it. -/
def tamperSeen (s : State) : State :=
  lantern 0x1001 3 (leBytes 4 s.sec.tampSt.toNat ++ leBytes 8 s.sec.tampTime.toNat)
    (count bSEC 3 { s with sec := { s.sec with tamperDue := false } })

/-- The Snuffer line fires (R410). -/
def snuff (c : Nat) (s : State) : State :=
  let t := if s.sec.tampSt = 0 then (rtcTicks s).zeroExtend 64 else s.sec.tampTime
  let s1 := irqEdge 208 { s with sec := { s.sec with
    dik := none, dxk := none, kek := none, swk := none, netsec := none, pairsec := none, noSecret := true, snuffed := true,
    tampSt := putBit s.sec.tampSt c true, tampTime := t, tamperDue := true, auditTamper := true } }
  if awake s then tamperSeen s1 else s1

/-- TAMPER_EVENT. -/
def execTamperEvent (c : Fin 14) (s : State) : Host.Outcome State Fault Refusal :=
  .next (if tampArmed s c then snuff c s else s)

/-- DRBG_HEALTH_FAILURE (R398). -/
def execDrbgHealthFailure (s : State) : Host.Outcome State Fault Refusal :=
  .next (if s.sec.drbgOk then count bSEC 4 { s with sec := { s.sec with drbgOk := false, drbgFailed := true } } else s)

/-! ### The release of HIF (R408) -/

/-- SCHED_UNFRZ: HIF alone, ten major frames after its freeze; every other write is ignored. -/
def unfrzOp (v : W32) (s : State) : State :=
  if v.toNat % 32 = 17 ∧ frozenM s 17 ∧ s.sched.hifFreezeKmf.toNat + 10 ≤ s.sched.kmf.toNat then
    audit 0x0002 0xFFFF 0 0 [17] (lantern 0x1081 0 [17]
      { s with sched := { s.sched with releases := s.sched.releases ++ [{ master := 17, desc := none }] } })
  else count bSEC 5 s

/-! ### Keys and roots at start (R395, R399, R409, R412) -/

/-- DIK, DXK and KEK from a device secret (Table 14-2). -/
def deriveKeys (secret : Bytes) (s : State) : State :=
  let scalar := fun label => some (scalarOf (kdf secret (ascii label) (devuid s) 448))
  { s with sec := { s.sec with
      dik := scalar "SH-DIK", dxk := scalar "SH-DXK", kek := some (kdf secret (ascii "SH-KEK") (devuid s) 256) } }

/-- A power-on reset reads UDS once and locks it, or takes the test secret in a debug boot. -/
def secPowerOn (s : State) : State :=
  let debug := s.sec.debugPerm || s.sec.debugReq
  let s1 := { s with sec := { s.sec with debug := debug, debugReq := false, udsLocked := true, snuffed := false } }
  deriveKeys (if debug then Config.testSecret else leBytes 32 s.sec.uds.toNat) s1

/-- Each installed root against its fused digest. -/
def rootCheck (s : State) (k : Nat) : State :=
  let r := rootGet s k
  if !r.installed then s
  else
    let ok := BitVec.ofNat 384 (beNat (sha384 r.key)) == r.digest
    let s1 := rootPut s k { r with checked := ok }
    if ok then s1 else lantern 0x1080 1 (leBytes 1 k) s1

/-- The random source starts at a power-on reset; SWK is fresh at each start. -/
def drbgStart (s : State) : State :=
  let s1 := { s with sec := { s.sec with drbgOk := !s.sec.drbgFailed } }
  if s1.sec.drbgOk then
    let r := randomBytes 32 s1
    { r.2 with sec := { r.2.sec with swk := some r.1 } }
  else s1

/-- The security part of stage 2: roots, tamper check, secrets, DRBG. -/
def secStart (cold : Bool) (s : State) : State :=
  let s1 := [0, 1, 2, 3].foldl rootCheck s
  let s2 := if cold ∧ s1.sec.tampArm then snuff 13 s1 else s1
  let s3 := if s2.sec.tamperDue then tamperSeen s2 else s2
  let s4 := if s.sec.auditTamper then
      audit 0x0008 0xFFFF 0 0 (leBytes 4 s3.sec.tampSt.toNat ++ leBytes 8 s3.sec.tampTime.toNat)
        { s3 with sec := { s3.sec with auditTamper := false } }
    else s3
  drbgStart (unwrapSecrets s4)

/-! ### Registers (Tables 14-13, 14-14) -/

def secStatusBits (s : State) : Nat :=
  b2n s.sec.mc0flt * 2 ^ 11 + b2n s.sec.tampLock * 2 ^ 10 + b2n s.sec.noSecret * 2 ^ 9 + b2n s.sec.pairsec.isSome * 2 ^ 8 +
    b2n s.sec.netsec.isSome * 2 ^ 7 + b2n s.sec.drbgOk * 2 ^ 6 + b2n (s.sec.tampSt != 0) * 2 ^ 5 + b2n s.sec.debug * 2 ^ 4

/-- SEC_EVENT (source 209): DRBGOK counts once stage 2 has passed. -/
def secEvent (s : State) : Bool := s.sec.tampSt != 0 || s.sec.mc0flt || (decide (2 < s.sys.stage.toNat) && !s.sec.drbgOk)

def rootsReg (s : State) : Nat :=
  ((List.range 4).map fun k => b2n (rootGet s k).installed * 2 ^ k + b2n (rootGet s k).revoked * 2 ^ (k + 4)).sum

def sessCount (s : State) : Nat :=
  let pool := (s.sec.sess.filter fun kv => decide (1024 ≤ kv.1) && kv.2.kind != 0).length
  let sealed_ := (s.sec.sess.filter fun kv => kv.2.kind == 1).length
  pool * 65536 + sealed_

end Sys2Proof.Machine
end

