-- ==== Sys2Proof/Machine/Checker.lean ====
section
/-! DEFINITION. The contract checker (R61 to R63, Tables 2-11 and 2-30): the checks in their order, each
answering the result and the item of its first failure. -/

namespace Sys2Proof.Machine

/-- A failed check: RESULT and ITEM. -/
abbrev Failure := Option (Nat × Nat)

/-- The first entry of a list that fails, with its index as the item. -/
def firstBad {α : Type} (code : Nat) (ok : Nat → α → Bool) (l : List α) : Failure :=
  (l.zipIdx.find? fun p => !ok p.2 p.1).map fun p => (code, p.2)

def need (c : Bool) (code item : Nat) : Failure := if c then none else some (code, item)

/-- The first failure of checks taken in order. -/
def inOrder (l : List (Unit → Failure)) : Failure := l.findSome? fun f => f ()

/-! ### Checks 0x01 to 0x05, and the contents -/

def chkRequired (im : Image) : Failure :=
  ((required im).find? fun t => !im.dir.any fun e => e.typ == t.1 && e.num == t.2).map fun t => (1, t.1 + 65536 * t.2)

def chkFormat (b : Bytes) (im : Image) : Failure :=
  inOrder [fun _ => need (headerOk b) 1 itemHdr, fun _ => firstBad 1 (dirEntOk im im.dir) im.dir, fun _ => chkRequired im,
    fun _ => firstBad 1 (fun _ e => framed im e) im.dir]

def chkSection (im : Image) : Failure :=
  firstBad 2 (fun _ e => e.typ == 0xFF || decide ((crc32c (slice im.bytes e.off e.len)) = e.crc)) im.dir

/-- The signature under the owner root that the image names (R44, R399). -/
def chkSignature (s : State) (im : Image) : Failure :=
  let off := (im.dir.getLast?.map (·.off)).getD 0
  need (match rootKey s im.root with
    | some key => sigOk key (im.bytes.take off) (slice im.bytes off 96)
    | none => false) 3 itemHdr

def chkContents (im : Image) : Failure := firstBad 1 (fun _ e => contentOk im e) im.dir

/-! ### Check 0x06 (Table 2-8) -/

/-- No more than `n` entries share a key; the item is the first beyond. -/
def atMost {α : Type} (key : α → Nat) (n : Nat) (l : List α) : Failure :=
  firstBad 6 (fun i x => decide (((l.take i).filter fun y => key y == key x).length < n)) l

/-- The limits counted in other sections: stations, points, loops, axes and structure slots; the item is the directory
index of the section that holds the count, or of the first section beyond the limit. -/
def chkCounts (im : Image) : Failure :=
  let at_ := fun (t : Nat) (bad : Bytes → Bool) => firstBad 6 (fun _ e => e.typ != t || !bad (slice im.bytes e.off e.len)) im.dir
  inOrder [fun _ => at_ 0x13 (fun b => decide (1024 < u32 b 4)), fun _ => at_ 0x10 (fun b => decide (131072 < u32 b 4)),
    fun _ => firstBad 6 (fun i e => e.typ != 0x18 ||
      decide ((((im.dir.take (i + 1)).filter fun q => q.typ == 0x18).map fun q => u32 (slice im.bytes q.off q.len) 4).sum ≤ 512)) im.dir,
    fun _ => at_ 0x19 (fun b => decide (16 < u8 b 4)),
    fun _ => firstBad 6 (fun i e => e.typ != 0x20 || decide (((im.dir.take i).filter fun q => q.typ == 0x20).length < 4)) im.dir]

def chkCapacity (im : Image) : Failure :=
  inOrder [fun _ => atMost (·.master) 256 im.slots, fun _ => atMost (fun _ => 0) 2048 im.slots,
    fun _ => atMost (fun _ => 0) 16 im.ltasks, fun _ => atMost (·.master) 16 im.wins,
    fun _ => atMost (·.channel) 64 im.dram, fun _ => atMost (fun _ => 0) 1024 im.xing, fun _ => atMost (fun _ => 0) 4096 im.carry,
    fun _ => chkCounts im]

/-! ### Check 0x07 -/

def sEnd (e : SlotE) : Nat := e.start + e.budget
def snapEnd (im : Image) : Nat := im.snapAt + 64 + im.stageLen / 64
def isLong (e : SlotE) : Bool := bit e.flags 0
def isPub (e : SlotE) : Bool := bit e.flags 1
def roomOf (im : Image) : Nat := im.l - trimOf im.l

/-- The fields and the order of a slot (R45, R47, R355). -/
def slotOk (im : Image) (i : Nat) (e : SlotE) : Bool :=
  e.rsvd == 0 && decide (e.flags < 4) && decide (e.res < 64) &&
  (i == 0 || (match im.slots[i - 1]? with
    | some p => decide (p.master < e.master) || (p.master == e.master && decide (p.start ≤ e.start))
    | none => true)) &&
  decide (2 ≤ e.master) && decide (e.master ≤ 24) && holdsBit im e.master && decide (1 ≤ e.budget) &&
  decide (sEnd e ≤ roomOf im) && im.m % max 1 e.period == 0 && decide (e.phase < e.period) &&
  (!(isLong e || isPub e) || e.master == 15 || e.master == 16) &&
  (!isLong e || (im.ltasks.any (fun t => t.master == e.master && t.task == e.task) && decide (32 < e.budget))) &&
  (!isPub e || (e.task == 0xFFFF && e.period == 1))

def masksMatch (im : Image) : Bool :=
  (List.range 25).all fun b => !(decide (2 ≤ b) && holdsBit im b) || im.slots.any fun e => e.master == b

/-- The slot conditions of the cells (R211), of the loops and of AXIS (R230, R260). -/
def engineSlotOk (im : Image) (e : SlotE) : Bool :=
  if 2 ≤ e.master ∧ e.master ≤ 9 then
    (codeTasks (sectOr im 0x11 (e.master - 2))).any fun t => t.task.toNat == e.task && decide (t.path ≤ e.budget)
  else if 10 ≤ e.master ∧ e.master ≤ 13 then
    e.period == 1 && decide (tOcc (u32 (sectOr im 0x18 (e.master - 10)) 4) ≤ e.budget)
  else if e.master = 14 then
    e.period == 1 && decide (2000 + 800 * u8 (sectOr im 0x19 0) 4 + 400 * u8 (sectOr im 0x19 0) 5 ≤ e.budget)
  else true

/-- The starts of the HIF slots over one span of frames, with their indices, in time order. -/
def hifStarts (im : Image) : List (Nat × Nat) :=
  let l := im.slots.zipIdx.filter fun p => p.1.master == 17
  let span := l.foldl (fun a p => Nat.lcm a p.1.period) 1
  ((List.range span).map fun k => (l.filter fun p => slotActive p.1 k).map fun p => (k * im.l + p.1.start, p.2)).flatten

/-- Consecutive starts lie from 10 µs to 1 ms apart. -/
def spaced : Int → List (Nat × Nat) → Failure
  | _, [] => none
  | prev, (c, i) :: r =>
    if 10000 ≤ (c : Int) - prev ∧ (c : Int) - prev ≤ 1000000 then spaced c r else some (7, i)

/-- The HIF slots (R379). -/
def chkHif (im : Image) : Failure :=
  let l := im.slots.filter fun e => e.master == 17
  let span := l.foldl (fun a e => Nat.lcm a e.period) 1
  let st := hifStarts im
  inOrder [fun _ => firstBad 7 (fun _ e => e.master != 17 || decide (2000 ≤ e.budget)) im.slots,
    fun _ => match st.getLast? with
      | some p => spaced ((p.1 : Int) - (span * im.l : Nat)) st
      | none => none]

/-- The cut slot (R423, R426). -/
def chkCut (im : Image) : Failure :=
  let pr := im.slots.zipIdx.filter fun p => p.1.master == 22
  let cuts := pr.filter fun p => p.1.task == 2
  let late := fun (c : SlotE) => im.slots.all fun e =>
    !((decide (2 ≤ e.master) && decide (e.master ≤ 14)) || e.master == 18 || e.master == 19 || e.master == 20) || decide (sEnd e ≤ c.start)
  match pr, cuts with
  | [], _ => none
  | p :: _, [] => some (7, p.2)
  | _, [c] => need (c.1.period == 1 && late c.1) 7 c.2
  | _, c :: r => some (7, (r.getLast?.getD c).2)

/-- NC of a task's capture, and pubcost (R47). -/
def ncOf (im : Image) (t : LTask) : Nat :=
  if t.master = 15 then u32 (sectOr im 0x20 t.sslot) 0xE0
  else
    let r := parseParc (sectOr im 0x21 0)
    (r.nodes.filter fun n => n.fixed && n.point != 0xFFFFFFFF).length + (r.amb.filter fun a => a.1 != 0xFFFFFFFF).length +
      (r.watch.filter watchPoint).length

def pubCost (im : Image) (t : LTask) : Nat :=
  if t.master = 15 then 200 + 4 * u32 (sectOr im 0x20 t.sslot) 0xE4 else 100 + (parseParc (sectOr im 0x21 0)).pubs.length

/-- A long task (R46, R47). -/
def ltaskOk (im : Image) (i : Nat) (t : LTask) : Bool :=
  let own := im.slots.filter fun e => e.master == t.master && isLong e && e.task == t.task
  t.rsvd == 0 &&
  ((t.master == 15 && decide (1 ≤ t.kind) && decide (t.kind ≤ 3) && decide (t.sslot ≤ 3)) ||
   (t.master == 16 && t.kind == 0x10 && t.sslot == 0xFF)) &&
  decide (1 ≤ t.periodMaj) && decide (t.phaseMaj < t.periodMaj) && decide (1 ≤ t.pubOff) &&
  decide (t.pubOff + 1 ≤ t.periodMaj * im.m) &&
  !((im.ltasks.take i).any fun q => q.master == t.master && q.task == t.task) && !own.isEmpty &&
  (im.slots.filter fun e => e.master == t.master && isPub e).length == 1 &&
  (t.master != 15 || im.dir.any fun e => e.typ == 0x20 && e.num == t.sslot) &&
  (match own.find? fun e => slotActive e 0 with
   | some c => decide (snapEnd im ≤ c.start) && decide (200 + 4 * ncOf im t + 32 ≤ c.budget)
   | none => false)

def pubOk (im : Image) (e : SlotE) : Bool :=
  !isPub e || decide (((im.ltasks.filter fun t => t.master == e.master).map (pubCost im)).sum ≤ e.budget)

def chkSlotRange (im : Image) : Failure :=
  inOrder [fun _ => need (decide (im.commitAt + 64 ≤ roomOf im)) 7 itemHdr, fun _ => firstBad 7 (slotOk im) im.slots,
    fun _ => need (masksMatch im) 7 itemHdr, fun _ => firstBad 7 (fun _ e => engineSlotOk im e) im.slots,
    fun _ => chkHif im, fun _ => chkCut im, fun _ => firstBad 7 (ltaskOk im) im.ltasks, fun _ => firstBad 7 (fun _ e => pubOk im e) im.slots]

/-! ### Checks 0x08 to 0x0A -/

/-- No entry conflicts with an earlier one: entries in index order, the item is the later entry of the pair. -/
def pairsApart {α : Type} (code : Nat) (bad : α → α → Bool) (l : List α) : Failure :=
  firstBad code (fun i y => !((l.take i).any fun x => bad x y)) l

/-- Two slots that share a master or a resource and meet in some frame. -/
def slotsMeet (a b : SlotE) : Bool :=
  (a.master == b.master || a.res &&& b.res != 0) &&
  ((a.phase : Int) - b.phase) % (max 1 (Nat.gcd a.period b.period) : Nat) == 0 &&
  decide (a.start < sEnd b) && decide (b.start < sEnd a)

def viewsOf (im : Image) (m : Nat) : Bool :=
  im.wins.any fun w => w.master == m && decide (w.base < 0x1000400000) && decide (0x1000000000 ≤ w.limit)

def chkSnap (im : Image) : Failure :=
  inOrder [fun _ => need (decide (snapEnd im ≤ im.commitAt)) 9 itemHdr,
    fun _ => firstBad 9 (fun _ e => isLong e || !viewsOf im e.master ||
      (!rangesMeet e.start e.budget im.snapAt (64 + im.stageLen / 64) && !rangesMeet e.start e.budget im.commitAt 64)) im.slots]

def chkReserve (im : Image) : Failure :=
  firstBad 10 (fun _ e => !(slotActive e (im.m - 1)) || !((decide (2 ≤ e.master) && decide (e.master ≤ 14)) || isPub e) ||
    decide (sEnd e + 65536 ≤ im.l)) im.slots

/-! ### Check 0x0B -/

/-- The regions of Table 2-6: first and last byte. -/
def regions : List (Nat × Nat) :=
  [(0x0000000000, 0x03FFFFFFFF), (0x1000000000, 0x10001FFFFF), (0x1000200000, 0x10003FFFFF), (0x1000400000, 0x100043FFFF),
   (0x1100000000, 0x11007FFFFF), (0x1200000000, 0x1201FFFFFF), (0x1300000000, 0x130017FFFF), (0x1400000000, 0x140007FFFF)]

/-- The usable DRAM: seven-eighths of the fitted capacity. -/
def dramTop (s : State) : Nat := s.sys.gib.toNat * 2 ^ 30 * 7 / 8
/-- The start of MC0's reserved area at its top (R407). -/
def mc0Area (s : State) : Nat := dramTop s - 576 * 2 ^ 20

def winOk (s : State) (w : Win) : Bool :=
  w.rsvd == 0 && decide (w.perm < 4) && decide (1 ≤ w.master) && decide (w.master ≤ 24) && w.base % 64 == 0 &&
  (w.limit + 1) % 64 == 0 && decide (w.base ≤ w.limit) && w.perm != 0 &&
  regions.any (fun r => decide (r.1 ≤ w.base) && decide (w.limit ≤ r.2)) && (decide (0x03FFFFFFFF < w.base) || decide (w.limit < mc0Area s))

def winsMeet (v w : Win) : Bool :=
  v.master != w.master && bit v.perm 1 && bit w.perm 1 && v.master != 22 && w.master != 22 &&
  decide (v.base ≤ w.limit) && decide (w.base ≤ v.limit)

def chkWindow (s : State) (im : Image) : Failure :=
  inOrder [fun _ => firstBad 11 (fun _ w => winOk s w) im.wins, fun _ => pairsApart 11 winsMeet im.wins]

/-! ### Checks 0x0C to 0x0E -/

/-- N, the opportunities per channel and minor frame (R55). -/
def opportunities (im : Image) : Nat := 320 * (im.l / 2000 - 1) + im.l % 2000 / 5

def dramOk (im : Image) (r : DramRes) : Bool :=
  r.rsvd == 0 && decide (r.channel ≤ 1) && decide (1 ≤ r.slog) && decide (r.slog ≤ 16) && decide (r.offset < 2 ^ r.slog) &&
  decide (2 ≤ r.master) && decide (r.master ≤ 24) && holdsBit im r.master

def dramMeet (r q : DramRes) : Bool :=
  r.channel == q.channel && ((r.offset : Int) - q.offset) % (2 ^ min r.slog q.slog : Nat) == 0

/-- The opportunities that a reservation owns. -/
def owned (n : Nat) (r : DramRes) : Nat := (((n : Int) - 1 - r.offset) / (2 ^ r.slog : Nat) + 1).toNat

/-- The total of a channel stays within 80 %. -/
def dramSum (n ch : Nat) : Nat → List (DramRes × Nat) → Failure
  | _, [] => none
  | tot, (r, i) :: t =>
    if r.channel = ch then
      (if tot + owned n r > 4 * n / 5 then some (13, i) else dramSum n ch (tot + owned n r) t)
    else dramSum n ch tot t

def chkDram (im : Image) : Failure :=
  let n := opportunities im
  inOrder [fun _ => firstBad 12 (fun _ r => dramOk im r) im.dram, fun _ => pairsApart 12 dramMeet im.dram,
    fun _ => dramSum n 0 0 im.dram.zipIdx, fun _ => dramSum n 1 0 im.dram.zipIdx]

/-- The worst-case latencies of Table 2-10, by XID; 0 for an XID that it does not list. -/
def xlat : List Nat := [0, 31, 42, 22, 29, 18, 23, 87, 127, 26, 35, 9, 10, 61071, 91603]

def xingOk (im : Image) (x : Xing) : Bool :=
  let p := im.slots[x.pref]?
  let c := im.slots[x.cref]?
  let pEnd := if x.pkind = 0 then (p.map sEnd).getD 0 else x.pref
  let cStart := if x.ckind = 0 then (c.map (·.start)).getD 0 else x.cref
  x.rsvd == 0 && decide (1 ≤ x.xid) && decide (x.xid ≤ 14) && decide (x.pkind ≤ 1) && decide (x.ckind ≤ 1) &&
  decide (x.pkind + x.ckind < 2) && (x.pkind == 1 || p.isSome) && (x.ckind == 1 || c.isSome) &&
  decide (xlat.getD x.xid 0 ≤ x.lat) && decide (pEnd + x.lat ≤ x.dframe * im.l + cStart) &&
  (match p, c with
   | some a, some b => x.pkind != 0 || x.ckind != 0 ||
       (a.period % max 1 b.period == 0 && ((b.phase : Int) - a.phase - x.dframe) % (max 1 b.period : Nat) == 0)
   | _, _ => true)

/-! ### The whole check -/

/-- The use that an image is loaded for: bit 0 of FLAGS at start-up, bit 1 for a switch. -/
def checkImage (s : State) (boot : Bool) (b : Bytes) : Nat × Nat :=
  let im := parseImage b
  (inOrder [fun _ => chkFormat b im, fun _ => chkSection im, fun _ => chkSignature s im,
    fun _ => need (decide (s.sched.rbFloor.toNat ≤ im.imgSeq.toNat)) 4 itemHdr,
    fun _ => need (decide (im.minRev ≤ 0x42) && bit im.flags (if boot then 0 else 1)) 5 itemHdr,
    fun _ => chkContents im, fun _ => chkCapacity im, fun _ => chkSlotRange im, fun _ => pairsApart 8 slotsMeet im.slots,
    fun _ => chkSnap im, fun _ => chkReserve im, fun _ => chkWindow s im, fun _ => chkDram im,
    fun _ => firstBad 14 (fun _ x => xingOk im x) im.xing]).getD (0, 0)

/-- The counter of a refused image (Table 2-16). -/
def countRefused (code : Nat) (s : State) : State :=
  if code = 0 then s else count bSCHED (if code = 3 ∨ code = 4 then 0 else 1) s

/-- A check that has ended: RESULT and ITEM, its counter, and SCHED_IMAGE (Table 13-10). -/
def checked (r : Nat × Nat) (s : State) : State :=
  irqEdge 193 (countRefused r.1 { s with sched := { s.sched with chkRes := BitVec.ofNat 8 r.1, chkItem := BitVec.ofNat 24 r.2 } })

/-! ### Check 0x0F (R63) -/

/-- The actions that a class allows (Table 2-12). -/
def actionOk (cls action : Nat) : Bool :=
  if cls = 3 ∨ cls = 4 then action == 2 else decide (1 ≤ cls) && decide (cls ≤ 8) && decide (action ≤ 1)

def hasSect (im : Image) (t n : Nat) : Bool := im.dir.any fun e => e.typ == t && e.num == n

/-- A rule lies within the extents of an image (Table 2-31). -/
def extentOk (im : Image) (cls eng at_ len : Nat) : Bool :=
  let all := fun (f : Nat → Bool) => (List.range len).all fun i => f (at_ + i)
  if 2 ≤ cls ∧ cls ≤ 4 then
    decide (eng ≤ 7) && hasSect im 0x12 eng &&
    (if cls = 2 then decide (at_ + len ≤ 256 + u32 (sectOr im 0x12 eng) 8 + u32 (sectOr im 0x12 eng) 12)
     else at_ == 0 && len == 0)
  else
    eng == 0xFF &&
    (if cls = 1 then decide (at_ + len ≤ 131072)
     else if cls = 5 then decide (at_ + len ≤ 512) && all fun g => decide (g % 128 < u32 (sectOr im 0x18 (g / 128)) 4)
     else if cls = 6 then decide (at_ + len ≤ 1024)
     else if cls = 7 then decide (at_ + len ≤ 4) && all (hasSect im 0x20)
     else decide (at_ + len ≤ u32 (sectOr im 0x21 0) 4))

def carryOk (old im : Image) (r : CarryE) : Bool :=
  r.rsvd == 0 && actionOk r.cls r.action && extentOk old r.cls r.seng r.src r.len && extentOk im r.cls r.deng r.dst r.len

/-- The destinations of two COPY rules of one class meet; of class 0x02, in one engine. -/
def copiesMeet (p q : CarryE) : Bool :=
  p.action == 0 && q.action == 0 && p.cls == q.cls && (p.cls != 2 || p.deng == q.deng) && rangesMeet p.dst p.len q.dst q.len

def checkCarry (old im : Image) : Nat × Nat :=
  (inOrder [fun _ => need (im.predId == old.imgId) 15 itemHdr, fun _ => firstBad 15 (fun _ r => carryOk old im r) im.carry,
    fun _ => pairsApart 15 copiesMeet im.carry]).getD (0, 0)

end Sys2Proof.Machine
end

