-- ==== Sys2Proof/Machine/Mbus.lean ====
section
/-! DEFINITION. MBUS: the masters, their telegrams (EN 13757-2) and the records of a response
(10_field_links.md), and LINK_READ. -/

namespace Sys2Proof.Machine

def mbGet (s : State) (k : Nat) : MbMaster := tblGet s.mbus.m k {}
def mbPut (s : State) (k : Nat) (v : MbMaster) : State :=
  { s with mbus := { s.mbus with m := tblPut s.mbus.m k v {} } }
def mbCfg (s : State) (k : Nat) : MbCfg := tblGet s.mbus.cfg k {}
def mtrCfg (s : State) (k i : Nat) : Option MtrCfg := (mbCfg s k).meters[i]?
def mtrGet (s : State) (k i : Nat) : Meter := tblGet (mbGet s k).mtr i {}
def mtrPut (s : State) (k i : Nat) (v : Meter) : State :=
  mbPut s k { mbGet s k with mtr := tblPut (mbGet s k).mtr i v {} }

/-! ### Telegrams -/

def csum (b : Bytes) : Byte := b.foldl (· + ·) 0

def shortFrame (c a : Byte) : Bytes := [0x10, c, a, csum [c, a], 0x16]
def longFrame (body : Bytes) : Bytes :=
  let l := BitVec.ofNat 8 body.length
  [0x68, l, l, 0x68] ++ body ++ [csum body, 0x16]

/-- The body of a long or control frame that satisfies EN 13757-2. -/
def longBody (b : Bytes) : Option Bytes :=
  let n := u8 b 1
  let body := slice b 4 n
  if byteAt b 0 = 0x68 ∧ u8 b 2 = n ∧ byteAt b 3 = 0x68 ∧ b.length = n + 6 ∧ 3 ≤ n ∧ byteAt b (n + 4) = csum body ∧
    byteAt b (n + 5) = 0x16 then some body else none

/-- The selection of a meter by its secondary address: SND_UD to address 253. -/
def selectFrame (g : MtrCfg) : Bytes := longFrame ([0x53, 0xFD, 0x52] ++ slice g.saddr 0 8)

def mtrAddr (g : MtrCfg) : Byte := if g.secondary then 0xFD else g.paddr

/-- REQ_UD2 with the frame count bit. -/
def reqFrame (g : MtrCfg) (fcb : Bool) : Bytes := shortFrame (if fcb then 0x7B else 0x5B) (mtrAddr g)

/-! ### Exchanges (R316, R319) -/

/-- A master may send: in use, not frozen, on a unit that drives the field (Table 15-2). -/
def mbSends (s : State) (k : Nat) : Bool := enOf s bMBUS && (mbCfg s k).en && !frozenM s 19 && drives s

/-- The first telegram of an exchange, or of its repetition. -/
def mbRequest (k i : Nat) (g : MtrCfg) (s : State) : State :=
  emit (.mbus k (reqFrame g (mtrGet s k i).fcb)) (mbPut s k { mbGet s k with state := 3 })

def mbSelect (k : Nat) (g : MtrCfg) (s : State) : State :=
  emit (.mbus k (selectFrame g)) (mbPut s k { mbGet s k with state := 1 })

/-- Meters that become due in this minor frame, in list order. -/
def mbDue (s : State) (k : Nat) : List Nat :=
  ((mbCfg s k).meters.zipIdx.filter fun p => s.sched.mfn.toNat % max 1 p.1.period == p.1.phase).map (·.2)

/-- An idle master starts the exchange of its next due meter. -/
def mbStart (k : Nat) (s : State) : State :=
  let m := mbGet s k
  match m.due with
  | [] => s
  | i :: r =>
    if m.state ≠ 0 then s
    else
      let s1 := mbPut s k { m with due := r, meter := i, tries := 0 }
      match mtrCfg s k i with
      | none => s1
      | some g => if g.secondary then mbSelect k g s1 else mbRequest k i g s1

/-- One master in the transmit slot of MBUS. -/
def mbTransmit (s : State) (k : Nat) : State :=
  if !mbSends s k then s
  else
    let m := mbGet s k
    let m1 := if m.dueMfn = some s.sched.mfn then m else { m with due := m.due ++ mbDue s k, dueMfn := some s.sched.mfn }
    mbStart k (mbPut s k m1)

def mbusTransmit (s : State) : State := (List.range 6).foldl mbTransmit s

/-- Values and qualities that wait for the receive slot. -/
def mbAdd (k : Nat) (vs : List MbVal) (s : State) : State :=
  mbPut s k { mbGet s k with values := (mbGet s k).values ++ vs }

/-- An exchange ends; the master is idle. -/
def mbEnd (k : Nat) (s : State) : State :=
  let m := mbGet s k
  mbPut s k { m with state := 0, done := m.done + 1 }

/-- The exchange ends without a valid response (R319). -/
def mbMiss (k i : Nat) (g : MtrCfg) (s : State) : State :=
  let v := mtrGet s k i
  let miss := if v.miss = 255 then 255 else v.miss + 1
  let st := if g.lossn ≤ miss.toNat then snBAD else snSTALE
  let q := if st = snBAD then 2 else 1
  mbEnd k (mbAdd k (g.map.map fun e => { point := e.point, value := none, qual := q, arr := s.time.tbc })
    (count bMBUS 4 (mtrPut s k i { v with miss := miss, st := st })))

/-- A missing, collided or malformed response: repeated up to RETRY times. -/
def mbAgain (k : Nat) (s : State) : State :=
  let m := mbGet s k
  match mtrCfg s k m.meter with
  | none => mbEnd k s
  | some g =>
    if m.tries < (mbCfg s k).retry then
      let s1 := mbPut s k { m with tries := m.tries + 1 }
      if m.state = 1 then mbSelect k g s1 else mbRequest k m.meter g s1
    else mbMiss k m.meter g s

/-! ### Records of a response (R318, EN 13757-3) -/

/-- One data record: DIF, VIF, storage number, data bytes. -/
structure MbRec where
  dif : Byte
  vif : Byte
  storage : Nat
  data : Bytes
  deriving DecidableEq, Repr

/-- The storage number of DIF and its extensions. -/
def storageOf (dif : Byte) (ext : Bytes) : Nat :=
  b2n (dif.getLsbD 6) + (ext.zipIdx.map fun p => p.1.toNat % 16 * 2 ^ (1 + 4 * p.2)).sum

/-- The extension bytes after a byte: as long as bit 7 of the last one is 1. -/
def extOf : Nat → Byte → Bytes → Bytes × Bytes
  | 0, _, b => ([], b)
  | n + 1, h, b =>
    if h.getLsbD 7 then
      (match b with
       | [] => ([], [])
       | x :: r => let e := extOf n x r; (x :: e.1, e.2))
    else ([], b)

/-- Data bytes by the low digit of DIF; none: variable length. -/
def difLen (d : Nat) : Option Nat :=
  match d with
  | 0 | 8 => some 0
  | 1 | 9 => some 1
  | 2 | 10 => some 2
  | 3 | 11 => some 3
  | 4 | 5 | 12 => some 4
  | 6 | 14 => some 6
  | 7 => some 8
  | _ => none

/-- The bytes of a variable-length field by its LVAR. -/
def lvarLen (l : Nat) : Nat :=
  if l < 0xC0 then l else if l < 0xD0 then l - 0xC0 else if l < 0xE0 then l - 0xD0 else if l < 0xF0 then l - 0xE0 else 8

/-- The records of a telegram in order. Filler, manufacturer-specific data and variable-length fields are
skipped. -/
def mbRecs : Nat → Bytes → List MbRec
  | 0, _ => []
  | n + 1, b =>
    match b with
    | [] => []
    | dif :: r =>
      if dif = 0x2F then mbRecs n r
      else if dif.toNat % 16 = 15 then []
      else
        let de := extOf 10 dif r
        match de.2 with
        | [] => []
        | vif :: r1 =>
          let ve := extOf 10 vif r1
          match difLen (dif.toNat % 16) with
          | some l =>
            if ve.2.length < l then []
            else
              { dif := dif, vif := vif, storage := storageOf dif de.1, data := ve.2.take l } :: mbRecs n (ve.2.drop l)
          | none => mbRecs n (ve.2.drop (1 + lvarLen (u8 ve.2 0)))

/-- The digits of a BCD field, least significant first; none where a digit is not decimal. -/
def bcdVal (b : Bytes) : Option Int :=
  let ds := (b.map fun x => [x.toNat % 16, x.toNat / 16]).flatten
  let neg := ds.getLast? == some 15
  let es := if neg then ds.dropLast else ds
  if es.any (fun d => decide (9 < d)) then none
  else
    let v : Nat := es.foldr (fun d a => d + 10 * a) 0
    some (if neg then -(v : Int) else v)

/-- The value of a record as binary64 before SCALE; none where it has none. -/
def recVal (r : MbRec) : Option F64 :=
  let k := r.dif.toNat % 16
  if k = 5 then some (ofF32 (BitVec.ofNat 32 (leNat r.data)))
  else if k = 0 ∨ k = 8 then none
  else if k < 8 then some (ofIntF (sint (8 * r.data.length) (leNat r.data)))
  else (bcdVal r.data).map ofIntF

/-- A map entry against the record of its position. -/
def mapRec (now : W64) (e : RecMap) (r : Option MbRec) : MbVal × Bool :=
  let bad : MbVal := { point := e.point, value := none, qual := 2, arr := now }
  match r with
  | none => (bad, true)
  | some x =>
    if x.dif = e.dif ∧ x.vif = e.vif ∧ x.storage = e.storage.toNat then
      (match recVal x with
       | some v => ({ bad with value := some (mulF v e.scale), qual := 0 }, false)
       | none => (bad, true))
    else (bad, true)

/-- A valid response: its records, MISS, and the next frame count bit. -/
def mbValid (k i : Nat) (g : MtrCfg) (last : Option W64) (recs : Bytes) (s : State) : State :=
  let rs := mbRecs (recs.length + 1) recs
  let vs := g.map.zipIdx.map fun p => mapRec s.time.tbc p.1 rs[p.2]?
  let v := mtrGet s k i
  mbEnd k (mbAdd k (vs.map (·.1)) (countN bMBUS 5 (vs.filter (·.2)).length
    (mtrPut s k i { v with miss := 0, st := snONLINE, fcb := !v.fcb, last := last, lastMfn := s.sched.mfn })))

/-- The security mode of a telegram and where its records begin, by its CI (Table 10-1). -/
def mbHeader (body : Bytes) : Option (Nat × Nat) :=
  let ci := u8 body 2
  if ci = 0x72 then some (u16 body 13 / 256 % 32, 15)
  else if ci = 0x7A then some (u16 body 5 / 256 % 32, 7)
  else if ci = 0x78 then some (0, 3)
  else none

/-- The address of a response is that of the meter. -/
def mbAddrOk (g : MtrCfg) (body : Bytes) : Bool :=
  if g.secondary then u8 body 2 != 0x72 || slice body 3 8 == slice g.saddr 0 8 else byteAt body 1 == g.paddr

/-! ### Security mode 7 (EN 13757-7; PRESUMED, log entry 20) -/

/-- The authentication layer before a telegram, CI 0x90: its message control byte, message counter, MAC and the optional
message length, and the bytes after it. -/
structure Afl where
  mcl : Byte
  mcr : Bytes
  mac : Bytes
  ml : Bytes
  rest : Bytes
  deriving DecidableEq, Repr

/-- The bytes of the MAC by the authentication type of MCL: AES-CMAC-128 cut to 2, 4, 8, 12 or 16 bytes. -/
def macLen (mcl : Byte) : Nat :=
  match mcl.toNat % 16 with
  | 3 => 2
  | 4 => 4
  | 5 => 8
  | 6 => 12
  | 7 => 16
  | _ => 0

/-- AFL of a telegram in one fragment, from its length byte on. -/
def aflOf (b : Bytes) : Option Afl :=
  let f := u16 b 1
  let mcl := byteAt b 3
  let oC := if bit f 9 then 6 else 4
  let n := macLen mcl
  let oL := oC + 4 + n
  let fin := oL + (if bit f 12 then 2 else 0)
  if bit f 13 ∧ bit f 11 ∧ bit f 10 ∧ ¬(bit f 14) ∧ 0 < n ∧ u8 b 0 + 1 = fin ∧ fin ≤ b.length then
    some { mcl := mcl, mcr := slice b oC 4, mac := slice b (oC + 4) n, ml := slice b oL (fin - oL), rest := b.drop fin }
  else none

/-- The key of a message by the meter's key, its counter and the meter's identification: DC 0x00 encrypts, 0x01
authenticates. -/
def mode7Key (key : Bytes) (dc : Byte) (mcr ident : Bytes) : Bytes := cmac key ([dc] ++ mcr ++ ident ++ List.replicate 7 0x07)

/-- AES-CBC with an initial vector of zeros. -/
def cbcDec (key : Bytes) : Bytes → List Bytes → Bytes
  | _, [] => []
  | iv, c :: r => xorBytes (aesDec key c) iv ++ cbcDec key c r

/-- The records of a transport header with security mode 7: `off` bytes of header, then a configuration extension and the
encrypted blocks, which begin with two fillers. -/
def mode7Plain (key : Bytes) (tpl : Bytes) (off : Nat) : Option Bytes :=
  let n := 16 * (u16 tpl (off - 2) / 16 % 16)
  let ct := slice tpl (off + 1) n
  let pt := cbcDec key (zeros 16) ((List.range (n / 16)).map fun i => slice ct (16 * i) 16)
  if 0 < n ∧ off + 1 + n ≤ tpl.length ∧ pt.take 2 = [0x2F, 0x2F] then some (pt ++ tpl.drop (off + 1 + n)) else none

/-- The message counter and the decrypted records of a mode 7 telegram, or none where its MAC or its form fails. `tpl`
begins with the CI of the transport layer, and `off` is where its records would begin. -/
def mode7 (key ident : Bytes) (a : Afl) (tpl : Bytes) (off : Nat) : Option (Nat × Bytes) :=
  if (cmac (mode7Key key 0x01 a.mcr ident) ([a.mcl] ++ a.mcr ++ a.ml ++ tpl)).take a.mac.length = a.mac then
    (mode7Plain (mode7Key key 0x00 a.mcr ident) tpl off).map fun p => (leNat a.mcr, p)
  else none

/-- The authentication layer of a telegram, if it has one, and its body from the transport layer on. -/
def aflSplit (body : Bytes) : Option Afl × Bytes :=
  if byteAt body 2 = 0x90 then
    match aflOf (body.drop 3) with
    | some a => (some a, body.take 2 ++ a.rest)
    | none => (none, body)
  else (none, body)

/-- A telegram of security mode 7 (R317), from its transport layer on. Without a valid authentication layer it fails. -/
def mbMode7 (k i : Nat) (g : MtrCfg) (afl : Option Afl) (body : Bytes) (off : Nat) (s : State) : State :=
  let e := sessGet s g.ctx
  let fail := fun t => mbAgain k (count bMBUS 3 (sessPut t g.ctx { sessGet t g.ctx with fails := satInc e.fails }))
  if s.sec.snuffed then mbAgain k (count bMBUS 3 s)
  else if e.kind ≠ 2 ∨ e.st ≠ 1 then mbAgain k (count bMBUS 3 s)
  else match afl.bind fun a => mode7 e.key (if byteAt body 2 = 0x72 then slice body 3 4 else slice g.saddr 0 4) a (body.drop 2) (off - 2) with
    | none => fail s
    | some (c, plain) =>
      let fresh := match (mtrGet s k i).last with | none => true | some l => decide (l.toNat < c)
      if fresh then
        mbValid k i g (some (BitVec.ofNat 64 c)) plain (sessPut s g.ctx { e with uses := e.uses + 1 })
      else fail s

/-- RSP_UD (R317). -/
def mbResponse (k i : Nat) (g : MtrCfg) (b : Bytes) (s : State) : State :=
  match longBody b with
  | none => mbAgain k (count bMBUS 1 s)
  | some whole =>
    let afl := (aflSplit whole).1
    let body := (aflSplit whole).2
    if byteAt body 0 &&& 0xCF ≠ 0x08 then mbAgain k (count bMBUS 1 s)
    else if !mbAddrOk g body then mbAgain k s
    else match mbHeader body with
      | none => mbAgain k (count bMBUS 5 s)
      | some (mode, off) =>
        if mode = 7 then mbMode7 k i g afl body off s
        else if mode = 0 ∧ g.mode0 then mbValid k i g (mtrGet s k i).last (body.drop off) s
        else mbAgain k (count bMBUS 5 s)

/-- What a waiting master hears. -/
def execRspUd (k : Fin 6) (rx : MbusRx) (s : State) : Host.Outcome State Fault Refusal :=
  .next (
    let m := mbGet s k
    if m.state = 0 then s
    else if frozenM s 19 then mbPut s k { m with state := 0 }
    else match mtrCfg s k m.meter with
      | none => mbEnd k s
      | some g =>
        match rx with
        | .collision => mbAgain k (count bMBUS 2 s)
        | .frame b parityOk =>
          if !parityOk then mbAgain k (count bMBUS 1 s)
          else if m.state = 1 then
            (if b = [0xE5] then mbRequest k m.meter g s else mbAgain k (count bMBUS 1 s))
          else mbResponse k m.meter g b s)

/-- MBUS_RESPONSE_TIMEOUT (R316). -/
def execMbusResponseTimeout (k : Fin 6) (s : State) : Host.Outcome State Fault Refusal :=
  .next (
    let m := mbGet s k
    if m.state = 0 then s
    else if frozenM s 19 then mbPut s k { m with state := 0 }
    else mbAgain k (count bMBUS 0 s))

/-- The receive slot of MBUS: verified values and qualities are staged. -/
def mbStage (s : State) (v : MbVal) : State :=
  match v.value with
  | some x => stageF 19 v.point x v.qual s
  | none => stagePoint 19 v.point none v.qual s

def mbusReceive (s : State) : State :=
  if !drives s then s
  else (List.range 6).foldl (fun s k =>
    let vs := (mbGet s k).values
    vs.foldl mbStage (mbPut s k { mbGet s k with values := [] })) s

/-! ### LINK_READ (R322) -/

/-- Meters in master order. -/
def allMeters (s : State) : List (Nat × Nat) :=
  ((List.range 6).map fun k => (List.range (mbCfg s k).meters.length).map fun i => (k, i)).flatten

/-- The 64-byte record of a meter. -/
def mtrRecord (s : State) (x : Nat × Nat) : Bytes :=
  let v := mtrGet s x.1 x.2
  match mtrCfg s x.1 x.2 with
  | none => zeros 64
  | some g =>
    slice (slice g.saddr 0 8 ++ leBytes 1 v.st.toNat ++ [v.miss, BitVec.ofNat 8 x.1, 0] ++ leBytes 2 g.ctx ++ zeros 2 ++
      zeros 8 ++ leBytes 8 ((v.last.getD 0).toNat) ++ leBytes 8 v.lastMfn.toNat) 0 64

def effLinkRead (d : HostDesc) (s : State) : State :=
  let w := d8 d 16
  let f := d32 d 20
  let n := d32 d 24
  let size := if w = 0 then 1024 else if w = 1 then (allMeters s).length else 40
  if 2 < w ∨ size < f + n then finCan d stRANGE 0 s
  else
    let rec_ := fun i =>
      if w = 0 then stnRecord s (f + i)
      else if w = 1 then mtrRecord s ((allMeters s).getD (f + i) (0, 0))
      else chRecord s (f + i)
    finCan d stOK 0 (toHost (dAddr d) (((List.range n).map rec_).flatten) s)

def execLinkRead (d : HostDesc) (s : State) : Host.Outcome State Fault Refusal := .next (arrive effLinkRead d s)

end Sys2Proof.Machine
end

