-- ==== Sys2Proof/Machine/Mirror.lean ====
section
/-! DEFINITION. The tracked state of a pair in 64-byte lines (R422, Table 15-5), its checksum (R428), and the
stream items (R429). The manual fixes the layout of the process image and the cell data; the layouts of the
other regions and of the items are the model's. -/

namespace Sys2Proof.Machine

def optB (v : Option W64) : Bytes := match v with | some x => [1] ++ leBytes 8 x.toNat | none => zeros 9
def optAt (b : Bytes) (o : Nat) : Option W64 := if u8 b o = 1 then some (BitVec.ofNat 64 (u64 b (o + 1))) else none
def pad64 (b : Bytes) : Bytes := slice b 0 64

/-! ### Region 1: points -/

def pointAt (b : Bytes) (o : Nat) : Point :=
  {
    value := BitVec.ofNat 64 (u64 b o), qual := BitVec.ofNat 3 (u8 b (o + 8)), typ := byteAt b (o + 9),
    cls := byteAt b (o + 10), owner := byteAt b (o + 11), stamp := BitVec.ofNat 32 (u32 b (o + 12)) }

def rec16 (p : Point) : Bytes :=
  leBytes 8 p.value.toNat ++ [BitVec.ofNat 8 p.qual.toNat, p.typ, p.cls, p.owner] ++ leBytes 4 p.stamp.toNat

def line1 (s : State) (l : Nat) : Bytes := ((List.range 4).map fun i => rec16 (workPt s (4 * l + i))).flatten
def put1 (l : Nat) (b : Bytes) (s : State) : State :=
  (List.range 4).foldl (fun s i => workPut s (4 * l + i) (pointAt b (16 * i))) s

/-! ### Regions 2 and 3: cell engines -/

def ceGet (s : State) (e : Nat) : CellEng := tblGet s.cell.eng e {}
def cePut (e : Nat) (v : CellEng) (s : State) : State := { s with cell := { s.cell with eng := tblPut s.cell.eng e v {} } }

def line2 (s : State) (l : Nat) : Bytes := tblRange (ceGet s (l / 4096)).data (l % 4096 * 64) 64 0
def put2 (l : Nat) (b : Bytes) (s : State) : State :=
  let c := ceGet s (l / 4096)
  cePut (l / 4096) { c with data := tblPutAll c.data (l % 4096 * 64) b 0 } s

def line3 (s : State) (l : Nat) : Bytes :=
  let c := ceGet s (l / 8192)
  let n := l % 8192
  if n < 4096 then
    let t := tblGet c.timers n {}
    pad64 (leBytes 8 t.hash.toNat ++ [t.typ] ++ flagsB 1 [t.run, t.q, t.inPrev] ++ leBytes 8 t.start.toNat)
  else
    let t := tblGet c.edges (n - 4096) {}
    pad64 (leBytes 8 t.hash.toNat ++ [t.typ] ++ flagsB 1 [t.prev, t.first])
def put3 (l : Nat) (b : Bytes) (s : State) : State :=
  let e := l / 8192
  let c := ceGet s e
  let n := l % 8192
  let f := u8 b 9
  if n < 4096 then
    let v : Timer :=
      {
        hash := BitVec.ofNat 64 (u64 b 0), typ := byteAt b 8, start := BitVec.ofNat 64 (u64 b 10), run := bit f 0,
        q := bit f 1, inPrev := bit f 2 }
    cePut e { c with timers := tblPut c.timers n v {} } s
  else
    let v : EdgeDet := { hash := BitVec.ofNat 64 (u64 b 0), typ := byteAt b 8, prev := bit f 0, first := bit f 1 }
    cePut e { c with edges := tblPut c.edges (n - 4096) v {} } s

/-! ### Region 4: loops -/

def lsGet (s : State) (g : Nat) : LoopSt := tblGet (tblGet s.loops.eng (g / 128) {}).st (g % 128) {}
def lsPut (g : Nat) (v : LoopSt) (s : State) : State :=
  let e := tblGet s.loops.eng (g / 128) {}
  { s with loops := { s.loops with eng := tblPut s.loops.eng (g / 128) { e with st := tblPut e.st (g % 128) v {} } {} } }
def umanOf (s : State) (g : Nat) : F64 := ((tblGet s.loops.eng (g / 128) {}).cfgs.getD (g % 128) {}).uman
def umanPut (g : Nat) (v : F64) (s : State) : State :=
  let e := tblGet s.loops.eng (g / 128) {}
  { s with loops := { s.loops with
      eng := tblPut s.loops.eng (g / 128) { e with cfgs := e.cfgs.modify (g % 128) fun c => { c with uman := v } } {} } }

def line4 (s : State) (l : Nat) : Bytes :=
  let g := l / 3
  let x := lsGet s g
  match l % 3 with
  | 0 => pad64 (([x.i, x.d, x.xprev, x.u, x.p, x.v, x.a].map fB).flatten ++ [BitVec.ofNat 8 x.mode.toNat] ++
      flagsB 1 [x.first, x.fe, x.hold, x.satHi, x.satLo, x.tracking] ++ leBytes 2 x.feCnt.toNat)
  | 1 => pad64 (([umanOf s g, x.y, x.w, x.wt, x.e, x.pp, x.ffLast].map fB).flatten ++ flagsB 1 [x.inited, x.feMan, x.spTrk])
  | _ => pad64 (optB x.spLast ++ optB x.trkLast)
def put4 (l : Nat) (b : Bytes) (s : State) : State :=
  let g := l / 3
  let x := lsGet s g
  let f := fun i => BitVec.ofNat 64 (u64 b (8 * i))
  match l % 3 with
  | 0 =>
    let k := u8 b 57
    lsPut g { x with
      i := f 0, d := f 1, xprev := f 2, u := f 3, p := f 4, v := f 5, a := f 6, mode := BitVec.ofNat 2 (u8 b 56),
      first := bit k 0, fe := bit k 1, hold := bit k 2, satHi := bit k 3, satLo := bit k 4, tracking := bit k 5,
      feCnt := BitVec.ofNat 16 (u16 b 58) } s
  | 1 =>
    umanPut g (f 0) (lsPut g { x with y := f 1, w := f 2, wt := f 3, e := f 4, pp := f 5, ffLast := f 6,
                                      inited := bit (u8 b 56) 0, feMan := bit (u8 b 56) 1,
                                      spTrk := bit (u8 b 56) 2 } s)
  | _ => lsPut g { x with spLast := optAt b 0, trkLast := optAt b 9 } s

/-! ### Region 5: axes -/

def axRaw (s : State) (n : Nat) : Axis := tblGet s.axis.ax n {}
def axRawPut (n : Nat) (a : Axis) (s : State) : State := { s with axis := { s.axis with ax := tblPut s.axis.ax n a {} } }

/-- A member's part of its group's line: its start and its distance. -/
def memberAt (g : AxGroup) (n : Nat) : Int × Int := ((g.line.find? fun m => m.1 == n).map (·.2)).getD (0, 0)

/-- The profile of interpolation group k (R254), and the starts and distances of its members, four to a line. -/
def lineGrp (s : State) (k j : Nat) : Bytes :=
  let g : AxGroup := tblGet s.axis.grp k {}
  if j = 0 then
    pad64 (leBytes 8 g.trig.toNat ++ leBytes 8 g.dist ++ fB g.prof.p ++ fB g.prof.v ++ fB g.prof.a ++
      flagsB 2 ((List.range 16).map fun n => g.line.any fun m => m.1 == n) ++ flagsB 1 [g.moving, g.limiting, g.again, g.want] ++
      optB g.stopTo)
  else
    ((List.range 4).map fun i =>
      let m := memberAt g (4 * (j - 1) + i)
      leBytes 8 (BitVec.ofInt 64 m.1).toNat ++ leBytes 8 (BitVec.ofInt 64 m.2).toNat).flatten

def putGrp (k j : Nat) (b : Bytes) (s : State) : State :=
  let g : AxGroup := tblGet s.axis.grp k {}
  let w := fun o => BitVec.ofNat 64 (u64 b o)
  let v : AxGroup :=
    if j = 0 then
      let f := u8 b 42
      { trig := w 0, dist := u64 b 8, prof := { p := w 16, v := w 24, a := w 32 },
        line := ((List.range 16).filter fun n => bit (u16 b 40) n).map fun n => (n, memberAt g n),
        moving := bit f 0, limiting := bit f 1, again := bit f 2, want := bit f 3, stopTo := optAt b 43 }
    else { g with line := g.line.map fun m =>
      if m.1 / 4 = j - 1 then (m.1, (w (16 * (m.1 % 4))).toInt, (w (16 * (m.1 % 4) + 8)).toInt) else m }
  { s with axis := { s.axis with grp := tblPut s.axis.grp k v {} } }

def lineAx (s : State) (l : Nat) : Bytes :=
  let a := axRaw s (l / 2)
  if l % 2 = 0 then
    pad64 (leBytes 8 a.pos.toNat ++ leBytes 8 a.acc.toNat ++ leBytes 8 a.vel.toNat ++ leBytes 8 a.org.toNat ++
      fB a.prof.p ++ fB a.prof.v ++ fB a.prof.a ++ leBytes 8 a.target.toNat)
  else
    pad64 (leBytes 8 a.rem.toNat ++ leBytes 8 a.taken.toNat ++ flagsB 4 [a.moving, a.limiting, a.stopped, a.fault,
      a.stopCmd, a.stopWas, a.drainStop, a.pwr, a.mov, a.ot, a.flt, a.drvFlt, a.drvLost, a.stall, a.limitStop,
      a.tgtLimit, a.posLost] ++ optB a.stopTo ++ optB a.refusedT)

/-- |VEL| of a mirrored axis exceeds its VSTART (R253). -/
def velFast (s : State) (n : Nat) (vel : W64) : Bool :=
  ltF (s.axis.cfg.getD n {}).vstart (ofRatioF (vel.toInt.natAbs * 10 ^ 9 : Nat) (2 ^ 64))

def putAx (l : Nat) (b : Bytes) (s : State) : State :=
  let n := l / 2
  let a := axRaw s n
  let w := fun i => BitVec.ofNat 64 (u64 b (8 * i))
  if l % 2 = 0 then
    axRawPut n { a with
      pos := BitVec.ofNat 48 (u64 b 0), acc := w 1, vel := w 2, org := w 3, prof := { p := w 4, v := w 5, a := w 6 },
      target := w 7, fast := velFast s n (w 2) } s
  else
    let k := u32 b 16
    axRawPut n { a with
      rem := w 0, taken := w 1, moving := bit k 0, limiting := bit k 1, stopped := bit k 2, fault := bit k 3,
      stopCmd := bit k 4, stopWas := bit k 5, drainStop := bit k 6, pwr := bit k 7, mov := bit k 8, ot := bit k 9,
      flt := bit k 10, drvFlt := bit k 11, drvLost := bit k 12, stall := bit k 13, limitStop := bit k 14,
      tgtLimit := bit k 15, posLost := bit k 16, stopTo := optAt b 20, refusedT := optAt b 29 } s

/-- Two lines an axis, then five lines a group. -/
def line5 (s : State) (l : Nat) : Bytes := if l < 32 then lineAx s l else lineGrp s ((l - 32) / 5) ((l - 32) % 5)
def put5 (l : Nat) (b : Bytes) (s : State) : State := if l < 32 then putAx l b s else putGrp ((l - 32) / 5) ((l - 32) % 5) b s

/-! ### Region 6: stations -/

/-- The transmit FV and LAST of a station: the session's own on the unit that drives, the carried ones else. -/
def stnFv (s : State) (k : Nat) : BitVec 56 × BitVec 56 :=
  if drives s then ((sessGet s k).fvTx, (sessGet s k).fvRx) else ((stnGet s k).carTx, (stnGet s k).carRx)

def line6 (s : State) (k : Nat) : Bytes :=
  let v := stnGet s k
  let num := match (tblGet s.canl.tmpl k {}).period with | 0 => 0 | p => BitVec.ofNat 8 (s.sched.mfn.toNat / p)
  pad64 ([BitVec.ofNat 8 v.st.toNat, v.miss, if v.st = snEMPTY then 0 else num, 0] ++ leBytes 8 (stnFv s k).1.toNat ++
    leBytes 8 (stnFv s k).2.toNat ++ leBytes 8 v.uid.toNat ++ leBytes 16 v.ns.toNat ++ leBytes 16 v.nd.toNat)

/-- The session of a carried join record: its keys are derived again from the network secret (R436). -/
def carriedSess (s : State) (k : Nat) (v : Station) : Sess :=
  match s.sec.netsec with
  | some key =>
    let t := tmplOf s k
    let j : JoinRec := { slot := k, ch := t.chan.toNat, uid := v.uid, cls := t.cls, ns := v.ns, nd := v.nd, prev := snINIT, ends := 0 }
    joinSess (stnSecret key v.uid t.cls) j
  | none => {}

def put6 (k : Nat) (b : Bytes) (s : State) : State :=
  let v := stnGet s k
  let w := { v with
    st := BitVec.ofNat 4 (u8 b 0), miss := byteAt b 1, carTx := BitVec.ofNat 56 (u64 b 4),
    carRx := BitVec.ofNat 56 (u64 b 12), uid := BitVec.ofNat 64 (u64 b 20), ns := BitVec.ofNat 128 (u128 b 28),
    nd := BitVec.ofNat 128 (u128 b 44) }
  let s1 := stnPut s k w
  if !(admitted w) ∨ !(tmplOf s k).sealed then (if (sessGet s k).kind = 1 then sessPut s1 k {} else s1)
  else if w.uid = v.uid ∧ w.ns = v.ns ∧ w.nd = v.nd ∧ (sessGet s k).kind = 1 then s1
  else sessPut s1 k (carriedSess s k w)

/-! ### Region 7: meters -/

def line7 (s : State) (l : Nat) : Bytes :=
  let m := mtrGet s (l / 256) (l % 256)
  pad64 ([BitVec.ofNat 8 m.st.toNat, m.miss] ++ flagsB 1 [m.fcb] ++ optB m.last)
def put7 (l : Nat) (b : Bytes) (s : State) : State :=
  mtrPut s (l / 256) (l % 256) { mtrGet s (l / 256) (l % 256) with
    st := BitVec.ofNat 4 (u8 b 0), miss := byteAt b 1, fcb := bit (u8 b 2) 0, last := optAt b 3 }

/-! ### Region 8: solver slots -/

/-- The data lines of a structure: array, first index, entries. -/
def dataLines (st : SStruct) : List (Nat × Nat × Nat) :=
  let l : List (Nat × Nat) := initArrays st.kind st.nv st.nr1 st.nr2 st.nnzk ++ [(0x30, 14)]
  (l.map fun p => (List.range (ceilDiv p.2 8)).map fun i => (p.1, 8 * i, min 8 (p.2 - 8 * i))).flatten

def slotLines (s : State) (k : Nat) : List (Nat × Nat × Nat) :=
  match (slotGet s k).desc with
  | some st => if (slotGet s k).st = ssREADY then dataLines st else []
  | none => []

def line8 (s : State) (l : Nat) : Bytes :=
  let k := l / 2 ^ 28
  let q := slotGet s k
  match l % 2 ^ 28 with
  | 0 => pad64 (leBytes 4 q.dsv.toNat ++ leBytes 4 q.rseq.toNat)
  | j + 1 => match (slotLines s k)[j]? with
    | some (a, i, n) => pad64 (((List.range n).map fun t => fB (dGet q.data a (i + t))).flatten)
    | none => zeros 64
def put8 (l : Nat) (b : Bytes) (s : State) : State :=
  let k := l / 2 ^ 28
  let q := slotGet s k
  match l % 2 ^ 28 with
  | 0 => slotPut s k { q with dsv := BitVec.ofNat 32 (u32 b 0), rseq := BitVec.ofNat 32 (u32 b 4) }
  | j + 1 => match (slotLines s k)[j]? with
    | some (a, i, n) =>
      slotPut s k { q with data := (List.range n).foldl (fun d t => dPut d a (i + t) (BitVec.ofNat 64 (u64 b (8 * t)))) q.data }
    | none => s

/-! ### Region 9: control state -/

def modeByte (c : CellEng) : Bytes :=
  [BitVec.ofNat 8 c.mode.toNat, match c.req with | some m => BitVec.ofNat 8 (m.toNat + 1) | none => 0]

def line9 (s : State) (l : Nat) : Bytes :=
  match l with
  | 0 => pad64 (leBytes 8 s.sched.kmf.toNat ++ leBytes 8 s.sched.swMfn.toNat ++
      ((List.range 8).map fun e => modeByte (ceGet s e)).flatten)
  | j + 1 => pad64 ((((s.pimg.working.filter fun kv => kv.2.qual == qFORCED).map fun kv => leBytes 4 kv.1).drop (16 * j)).take 16).flatten

/-- KMF, the pending switch and the forced list of the standby follow its own schedule and its points. -/
def put9 (l : Nat) (b : Bytes) (s : State) : State :=
  if l ≠ 0 then s
  else (List.range 8).foldl (fun s e =>
    let r := u8 b (17 + 2 * e)
    cePut e { ceGet s e with mode := BitVec.ofNat 2 (u8 b (16 + 2 * e)),
                             req := if r = 0 then none else some (BitVec.ofNat 2 (r - 1)) } s) s

/-! ### All lines -/

/-- The tracked lines as (REGION, LINE), in order (Table 15-5). -/
def trackedLines (s : State) : List (Nat × Nat) :=
  [(1, 32768), (2, 32768), (3, 65536), (4, 1536), (5, 52), (6, 1024), (7, 1536)].flatMap
    (fun p => (List.range p.2).map fun l => (p.1, l)) ++
  [0, 1, 2, 3].flatMap (fun k => (List.range (1 + (slotLines s k).length)).map fun j => (8, k * 2 ^ 28 + j)) ++
  (List.range 65).map fun l => (9, l)

def lineOf (s : State) (r l : Nat) : Bytes :=
  match r with
  | 1 => line1 s l | 2 => line2 s l | 3 => line3 s l | 4 => line4 s l | 5 => line5 s l
  | 6 => line6 s l | 7 => line7 s l | 8 => line8 s l | _ => line9 s l

def putLine (r l : Nat) (b : Bytes) (s : State) : State :=
  match r with
  | 1 => put1 l b s | 2 => put2 l b s | 3 => put3 l b s | 4 => put4 l b s | 5 => put5 l b s
  | 6 => put6 l b s | 7 => put7 l b s | 8 => put8 l b s | 9 => put9 l b s | _ => s

def lineKey (p : Nat × Nat) : Nat := p.1 * 2 ^ 32 + p.2

/-- The lines that differ from zero, by key. -/
def snapOf (s : State) : Tbl Bytes :=
  (trackedLines s).filterMap fun p => let b := lineOf s p.1 p.2; if b = zeros 64 then none else some (lineKey p, b)

/-- The lines that changed since a snapshot. -/
def dirtyLines (old : Tbl Bytes) (s : State) : List (Nat × Nat) :=
  (trackedLines s).filter fun p => lineOf s p.1 p.2 != tblGet old (lineKey p) (zeros 64)

/-- CRC-64 of REGION ‖ LINE ‖ DATA, and LSUM over all tracked lines (R428). -/
def lineCrc (s : State) (p : Nat × Nat) : Nat :=
  crcL 0x42F0E1EBA9EA3693 64 0 ([BitVec.ofNat 8 p.1] ++ leBytes 4 p.2 ++ lineOf s p.1 p.2)
def lsumOf (s : State) : W64 := BitVec.ofNat 64 ((trackedLines s).foldl (fun a p => a ^^^ lineCrc s p) 0)

/-- A line record (R423). -/
def lineRec (s : State) (p : Nat × Nat) : Bytes := [BitVec.ofNat 8 p.1, 0, 0, 0] ++ leBytes 4 p.2 ++ lineOf s p.1 p.2
def applyRec (s : State) (b : Bytes) : State := putLine (u8 b 0) (u32 b 4) (slice b 8 64) s
def applyRecords (b : Bytes) (s : State) : State :=
  (List.range (b.length / 72)).foldl (fun s i => applyRec s (slice b (72 * i) 72)) s

/-! ### Stream items 1 to 5 (Table 15-6) -/

def vecB (v : List F64) : Bytes := leBytes 4 v.length ++ (v.map fB).flatten
def vecAt (b : Bytes) (o : Nat) : List F64 × Nat :=
  let n := u32 b o
  ((List.range n).map fun i => BitVec.ofNat 64 (u64 b (o + 4 + 8 * i)), o + 4 + 8 * n)

/-- The iterate store of a structure slot. -/
def storeBytes (q : SSlot) : Bytes :=
  flagsB 1 [q.usable] ++ leBytes 8 q.storeSig.toNat ++ vecB q.store.x ++ vecB q.store.y ++ vecB q.store.z ++
    vecB q.store.s ++ vecB q.store.zl ++ vecB q.store.zu ++ vecB q.store.sl ++ vecB q.store.su
def storePut (k : Nat) (b : Bytes) (s : State) : State :=
  let v := fun (o : Nat) => vecAt b o
  let x := v 9
  let y := v x.2
  let z := v y.2
  let t := v z.2
  let zl := v t.2
  let zu := v zl.2
  let sl := v zu.2
  let su := v sl.2
  slotPut s k { slotGet s k with
    usable := bit (u8 b 0) 0, storeSig := BitVec.ofNat 64 (u64 b 1),
    store := { x := x.1, y := y.1, z := z.1, s := t.1, zl := zl.1, zu := zu.1, sl := sl.1, su := su.1 } }

/-- The segments of an item, from its bytes. -/
def segsFrom (b : Bytes) : Nat → List Segment → List Segment × Nat
  | o, [] => ([], o)
  | o, g :: rest =>
    let n := u16 b (o + 5)
    let ps := (List.range n).map fun i =>
      ({ vol := f32At b (o + 7 + 12 * i), temp := f32At b (o + 11 + 12 * i), age := f32At b (o + 15 + 12 * i) } : Parcel)
    let r := segsFrom b (o + 7 + 12 * n) rest
    ({ g with flow := f32At b o, head := u8 b (o + 4), parcels := ps } :: r.1, r.2)

def parcPut (b : Bytes) (s : State) : State :=
  let r := s.parc
  if r.cfgSt ≠ pcREADY ∨ u32 b 0 ≠ r.segs.length then s
  else
    let sg := segsFrom b 4 r.segs
    let oN := sg.2
    let oW := oN + 8 * r.nodes.length
    let oF := oW + 3 * r.watch.length
    let oP := oF + 1 + 4 * r.segs.length
    { s with parc := { r with
        segs := sg.1,
        nodes := r.nodes.zipIdx.map fun p => { p.1 with temp := f32At b (oN + 8 * p.2), age := f32At b (oN + 8 * p.2 + 4) },
        watch := r.watch.zipIdx.map fun p => { p.1 with st := bit (u8 b (oW + 3 * p.2)) 0, cnt := u16 b (oW + 3 * p.2 + 1) },
        fresh := bit (u8 b oF) 0, flowIn := (List.range r.segs.length).map fun i => f32At b (oF + 1 + 4 * i),
        pend := (List.range (u32 b oP)).map fun i =>
          let o := oP + 4 + 21 * i
          { index := u32 b o, field := u8 b (o + 4), value := BitVec.ofNat 64 (u64 b (o + 5)),
            mfn := BitVec.ofNat 64 (u64 b (o + 13)) } } }

/-- The bytes of item 1 to 5, and their installation. Before its first committed step, PARC's item is what it holds
without the step in progress. -/
def itemBytes (s : State) (i : Nat) : Bytes :=
  if i = 5 then s.parc.item.getD (parcBytes (parcInterrupt s).parc) else storeBytes (slotGet s (i - 1))

/-- What tells one instance of an item from the next: the committed steps, or the content of an iterate store. -/
def itemMark (s : State) (i : Nat) : Bytes := if i = 5 then leBytes 8 s.parc.mstep.toNat else itemBytes s i
def itemInstall (i : Nat) (b : Bytes) (s : State) : State :=
  if i = 5 then parcPut b s else if 1 ≤ i ∧ i ≤ 4 then storePut (i - 1) b s else s

end Sys2Proof.Machine
end

