-- ==== Sys2Proof/Machine/Pair.lean ====
section
/-! DEFINITION. Redundant pair operation (15_redundant_pair.md): keys and frames of the mirror lanes, the
handshake, time agreement, roles and leases, the cut, and the witness. -/

namespace Sys2Proof.Machine

/-! ### Values shown -/

def rSOLO : BitVec 2 := 0
def rACTIVE : BitVec 2 := 1
def rSTANDBY : BitVec 2 := 2
def rFENCED : BitVec 2 := 3

/-- PAIR takes part: MODE 1, or a PAIR_MODE 1 that waits for its grant, with EN = 1. -/
def pairOn (s : State) : Bool := s.pair.mode && enOf s bPAIR

/-- The witness lease for the current frame, and the partner lease (R433). -/
def wlHeld (s : State) : Bool :=
  decide (s.pair.grant.s.toNat ≤ s.sched.mfn.toNat) && decide (s.sched.mfn.toNat < s.pair.grant.e.toNat)
def plHeld (s : State) : Bool := s.pair.role == rACTIVE && s.pair.pleOk && decide (s.sched.mfn.toNat < s.pair.ple.toNat)

/-- SYNC = READY of a STANDBY unit (R430). -/
def eligible (s : State) : Bool :=
  s.pair.role == rSTANDBY && s.pair.copied && s.pair.tlock && s.sched.actId == s.pair.appliedAct && !frozenM s 22 &&
  !s.sec.noSecret && !s.sec.snuffed &&
  (match s.pair.applied with | some c => decide (s.sched.mfn.toNat ≤ c.toNat + s.pair.eligage.toNat) | none => false)

def syncOf (s : State) : Nat :=
  if !s.pair.mode then 0
  else if s.pair.role = rSTANDBY then (if eligible s then 3 else 2)
  else if s.pair.keys.isNone && s.pair.nextKeys.isNone then 1
  else 0

def witUp (s : State) : Bool :=
  match s.pair.bugleMfn with | some m => decide (s.sched.mfn.toNat ≤ m.toNat + 16) | none => false

/-- PAIR_FAULT (source 207). -/
def pairFault (s : State) : Bool :=
  s.pair.mode && (!s.pair.lane0 || !s.pair.lane1 || !witUp s || s.pair.role == rFENCED ||
    (s.pair.role == rSTANDBY && !eligible s) || (s.pair.role == rACTIVE && !s.pair.ackReady) || s.pair.swMismatch)

/-! ### Keys (R419) -/

def ownId (s : State) : W64 := BitVec.ofNat 64 (leNat (devuid s))
/-- DEVUID_A ‖ DEVUID_B: the lower first. -/
def pairIds (s : State) (other : W64) : Bytes :=
  leBytes 8 (min (ownId s).toNat other.toNat) ++ leBytes 8 (max (ownId s).toNat other.toNat)

def keyHello (s : State) (other : W64) : Option Bytes :=
  s.sec.pairsec.map fun k => kdf k (ascii "SH-MHS") (pairIds s other) 256
def keyWitness (s : State) : Option Bytes := s.sec.pairsec.map fun k => kdf k (ascii "SH-WIT") (devuid s) 256

/-- The MIRROR keys of both directions from the two nonces. -/
def mirKeys (s : State) (h : Hello) : Option MirKeys :=
  let ns := if (ownId s).toNat < h.devuid.toNat then s.pair.nonce ++ h.nonce else h.nonce ++ s.pair.nonce
  s.sec.pairsec.map fun k =>
    let key := fun d => kdf k (ascii "SH-MIR") (pairIds s h.devuid ++ ns ++ leBytes 1 d) 256
    { k0 := key 0, k1 := key 1 }

/-! ### Frames (R418) -/

def kCUT : Nat := 1
def kCUTEND : Nat := 2
def kSTREAM : Nat := 3
def kACK : Nat := 4
def kHELLO : Nat := 5
def kTIME : Nat := 6
def kMETER : Nat := 7
def kIDLE : Nat := 8

def mirHead (kind lane dir len fcnt cseq off item : Nat) : Bytes :=
  leBytes 2 0x524D ++ leBytes 1 kind ++ leBytes 1 (lane + 2 * dir) ++ leBytes 4 len ++ leBytes 8 fcnt ++ leBytes 8 cseq ++
    leBytes 4 off ++ leBytes 4 item
def mirIv (lane dir fcnt : Nat) : Bytes := leBytes 1 lane ++ leBytes 1 dir ++ zeros 2 ++ leBytes 8 fcnt
def withCrc (b : Bytes) : Bytes := b ++ leBytes 4 (crc32c b)
def dirKey (k : MirKeys) (d : Nat) : Bytes := if d = 0 then k.k0 else k.k1
def ownDir (s : State) : Nat := if s.pair.role = rACTIVE then 0 else 1
def laneSent (lane : Nat) (s : State) : State := { s with pair := { s.pair with sent := putBit s.pair.sent lane true } }

/-- An encrypted frame leaves on a lane, under the keys in use. -/
def mirSend (lane kind : Nat) (cseq : W64) (off item : Nat) (payload : Bytes) (s : State) : State :=
  let nx := s.pair.sendNext
  match (if nx then s.pair.nextKeys else s.pair.keys) with
  | none => s
  | some k =>
    if !pairOn s ∨ s.sec.snuffed then s
    else
      let d := ownDir s
      let i := 2 * lane + d
      let c := (tblGet (if nx then s.pair.fcnt2 else s.pair.fcnt) i 0).toNat
      let hd := mirHead kind lane d (52 + payload.length) c cseq.toNat off item
      let e := gcmEnc (dirKey k d) (mirIv lane d c) hd payload
      let s1 := if nx then { s with pair := { s.pair with fcnt2 := tblPut s.pair.fcnt2 i (BitVec.ofNat 64 (c + 1)) 0 } }
        else { s with pair := { s.pair with fcnt := tblPut s.pair.fcnt i (BitVec.ofNat 64 (c + 1)) 0 } }
      emit (.mirror lane (withCrc (hd ++ e.1 ++ e.2))) (laneSent lane (poolNote 7 lane true s1))

def mirBoth (kind : Nat) (cseq : W64) (off : Nat) (payload : Bytes) (s : State) : State :=
  mirSend 1 kind cseq off 0 payload (mirSend 0 kind cseq off 0 payload s)

/-- CFGD (R420). -/
def cfgDigest (s : State) : W64 :=
  BitVec.ofNat 64 (leNat ((sha384 ([s.pair.plen, s.pair.eligage] ++ leBytes 8 s.pair.lasym0.toNat ++
    leBytes 8 s.pair.lasym1.toNat)).take 8))

def helloPayload (s : State) : Bytes :=
  leBytes 8 (ownId s).toNat ++ slice s.pair.nonce 0 32 ++ leBytes 1 s.pair.role.toNat ++ leBytes 1 (syncOf s) ++ zeros 6 ++
    leBytes 8 (cfgDigest s).toNat ++ leBytes 8 s.sched.actId.toNat ++ leBytes 8 s.sched.mfn.toNat ++
    leBytes 8 s.sched.kmf.toNat ++ leBytes 8 s.sched.mfnBase.toNat ++ leBytes 4 s.sched.frameL.toNat ++ zeros 4

def helloSend (lane : Nat) (s : State) : State :=
  match keyHello s s.pair.partner with
  | none => s
  | some k =>
    let b := mirHead kHELLO lane (ownDir s) 148 0 0 0 0 ++ helloPayload s
    emit (.mirror lane (withCrc (b ++ (hmac256 k b).take 16))) (laneSent lane s)

/-- A fresh own nonce. -/
def freshNonce (s : State) : State :=
  let r := randomBytes 32 s
  { r.2 with pair := { r.2.pair with nonce := r.1 } }

/-- HELLO on both lanes while the handshake is not current or a new one is in progress (R420, R445); none without a nonce,
which needs the random source (R398). -/
def helloDue (s : State) : Bool :=
  pairOn s && !s.sec.snuffed && !s.pair.refused && (s.pair.hello.isNone || s.pair.nextKeys.isSome || !s.pair.rekeyReq.isEmpty)
def helloBoth (s : State) : State :=
  if helloDue s then
    let s1 := if s.pair.nonce.isEmpty then freshNonce s else s
    if s.pair.nonce.isEmpty && !s.sec.drbgOk then s else helloSend 1 (helloSend 0 s1)
  else s

/-! ### Reception -/

/-- Length, LEN and CRC of a frame. -/
def mirFormOk (b : Bytes) : Bool :=
  decide (52 ≤ b.length) && decide (b.length ≤ 16384) && decide (u32 b 4 = b.length) &&
  decide (leNat (b.drop (b.length - 4)) = crc32c (b.take (b.length - 4)))

/-- The payload under one set of keys, when FCNT is above the last accepted and the tag verifies. -/
def mirOpen (k : Option MirKeys) (cnt : Tbl W64) (lane : Nat) (b : Bytes) : Option Bytes :=
  match k with
  | none => none
  | some k =>
    let d := u8 b 3 / 2 % 2
    let n := b.length
    if u64 b 8 < (tblGet cnt (2 * lane + d) 0).toNat then none
    else gcmDec (dirKey k d) (mirIv lane d (u64 b 8)) (b.take 32) ((b.take (n - 20)).drop 32) ((b.take (n - 4)).drop (n - 20))

def finPair (d : HostDesc) (st data : Nat) (s : State) : State :=
  finish bPAIR 9 [stRANGE, stREFUSED, stNOT_READY, stTIMEOUT] d st data s

/-- Descriptors that waited for one event complete. -/
def finAll (ds : List (HostDesc × W64)) (st : Nat) (s : State) : State := ds.foldl (fun s d => finPair d.1 st 0 s) s

/-- Those that have waited `n` minor frames, and the others. -/
def waited (n : Nat) (s : State) (p : HostDesc × W64) : Bool := decide (p.2.toNat + n ≤ s.sched.mfn.toNat)

/-- The MIRROR sessions of the two lanes in the pool (R404, R418): DESIGN CHOICE (log entry 66), one entry a lane. -/
def mirSess (k : MirKeys) (s : State) : Option State := (poolMake 7 0 (k.k0 ++ k.k1) s).bind (poolMake 7 1 (k.k0 ++ k.k1))

/-- The new keys take over once both lanes use them (R445). -/
def rekeyed (s : State) : State :=
  if s.pair.nextKeys.isSome ∧ s.pair.newLanes = 3 then
    let s1 := ((s.pair.nextKeys.bind fun k => mirSess k s)).getD s
    finAll s.pair.rekeyReq stOK
      { s1 with pair := { s.pair with
          keys := s.pair.nextKeys, fcnt := s.pair.fcnt2, nextKeys := none, fcnt2 := [], sendNext := false, newLanes := 0,
          rekeyReq := [] } }
  else s

/-- What every verified frame does: FCNT, PSEEN, and the partner's role by its direction. -/
def mirAccept (lane : Nat) (b : Bytes) (next : Bool) (s : State) : State :=
  let d := u8 b 3 / 2 % 2
  let c := BitVec.ofNat 64 (u64 b 8 + 1)
  let i := 2 * lane + d
  let p := s.pair
  let role : Byte → Byte := fun r => if d = 0 then 1 else if r = 1 then 3 else r
  let h : Option Hello := p.hello.map fun (h : Hello) => { h with role := role h.role }
  let p1 := { p with lastSeen := s.sched.mfn, pseen := true, hello := h }
  rekeyed { poolNote 7 lane true s with pair :=
    if next then { p1 with fcnt2 := tblPut p.fcnt2 i c 0, newLanes := putBit p.newLanes lane true }
    else { p1 with fcnt := tblPut p.fcnt i c 0 } }

/-- A frame of an encrypted kind: its checks (R417, R418), then its effect on the payload. -/
def mirRecv (kind : Nat) (f : MirRx) (eff : Bytes → State → State) (s : State) : State :=
  let b := f.bytes
  if !pairOn s then s
  else if !mirFormOk b then count bPAIR 0 s
  else if s.sec.snuffed then count bPAIR 1 s
  else if u16 b 0 ≠ 0x524D ∨ u8 b 2 ≠ kind then s
  else match mirOpen s.pair.keys s.pair.fcnt f.lane b with
    | some p => eff p (mirAccept f.lane b false s)
    | none =>
      match mirOpen s.pair.nextKeys s.pair.fcnt2 f.lane b with
      | some p => eff p (mirAccept f.lane b true s)
      | none => count bPAIR 1 (poolNote 7 f.lane false s)

/-! ### HELLO (R420) -/

def helloOf (b : Bytes) : Hello :=
  {
    devuid := BitVec.ofNat 64 (u64 b 0), nonce := slice b 8 32, role := byteAt b 40, sync := byteAt b 41,
    cfgd := BitVec.ofNat 64 (u64 b 48), actid := BitVec.ofNat 64 (u64 b 56), mfn := BitVec.ofNat 64 (u64 b 64),
    kmf := BitVec.ofNat 64 (u64 b 72), mfnBase := BitVec.ofNat 64 (u64 b 80), l := BitVec.ofNat 32 (u32 b 88) }

/-- The partner's schedule is this unit's (R503). -/
def gridSame (s : State) (h : Hello) : Bool :=
  s.sched.run && h.mfnBase == s.sched.mfnBase && h.l == s.sched.frameL &&
  decide (h.mfn.toNat ≤ s.sched.mfn.toNat + 1) && decide (s.sched.mfn.toNat ≤ h.mfn.toNat + 1)

def takeHello (h : Hello) (s : State) : State :=
  { s with pair := { s.pair with hello := some h, partner := h.devuid, sameGrid := gridSame s h } }

/-- Keys of a new handshake: at once when there is none, beside the old keys otherwise (R445). Without a pool entry, or
without the random source, the next HELLO tries again (R398, R404). -/
def newHandshake (h : Hello) (s : State) : State :=
  let own := s.pair.nonce.isEmpty || (s.pair.keys.isSome && s.pair.rekeyReq.isEmpty)
  let s1 := takeHello h (if own then freshNonce s else s)
  let k := mirKeys s1 h
  if own && !s.sec.drbgOk then s
  else if s.pair.keys.isNone ∧ s.pair.rekeyReq.isEmpty then
    match k.bind fun k => mirSess k s1 with
    | some s2 => { s2 with pair := { s2.pair with keys := k, fcnt := [] } }
    | none => count bSEC 7 s
  else { s1 with pair := { s1.pair with nextKeys := k, fcnt2 := [], newLanes := 0, sendNext := s.pair.keys.isNone } }

/-- A HELLO whose tag has verified. -/
def helloTake (h : Hello) (s : State) : State :=
  if h.cfgd ≠ cfgDigest s ∨ h.actid ≠ s.sched.actId then
    count bPAIR 8 { s with pair := { s.pair with refused := true, refusedAt := s.sched.mfn } }
  else if (match s.pair.hello with | some o => o.nonce == h.nonce && o.devuid == h.devuid | none => false) then takeHello h s
  else newHandshake h s

/-- HELLO. An unverified HELLO still tells whom the own HELLO addresses, while there is no handshake. -/
def execHello (f : MirRx) (s : State) : Host.Outcome State Fault Refusal :=
  .next (
    let b := f.bytes
    let h := { helloOf (b.drop 32) with
      arr := s.time.tbc }
    if !pairOn s ∨ s.pair.refused then s
    else if !mirFormOk b then count bPAIR 0 s
    else if s.sec.snuffed then count bPAIR 1 s
    else if u16 b 0 ≠ 0x524D ∨ u8 b 2 ≠ kHELLO then s
    else
      let body := b.take 128
      if b.length = 148 ∧ (keyHello s h.devuid).map (fun k => (hmac256 k body).take 16) = some ((b.take 144).drop 128) then
        helloTake h s
      else
        count bPAIR 1 (if s.pair.hello.isNone ∧ b.length = 148 then { s with pair := { s.pair with partner := h.devuid } } else s))

/-- PSEEN_TIMEOUT (R420): after 16 minor frames without a verified frame, the handshake is no longer current. -/
def execPseenTimeout (s : State) : Host.Outcome State Fault Refusal :=
  .next (if !s.pair.mode || (s.sched.run && decide (s.sched.mfn.toNat < s.pair.lastSeen.toNat + 16)) then s else
    { poolEnd 7 s with pair := { s.pair with
        pseen := false, hello := none, keys := none, nextKeys := none, sendNext := false, newLanes := 0, nonce := [],
        fcnt := [], fcnt2 := [], ackReady := false, partnerCopying := false, copyNext := none, streamOut := [] } })

/-- HANDSHAKE_RETRY (R420): 1,000 minor frames after the refusal. -/
def execHandshakeRetry (s : State) : Host.Outcome State Fault Refusal :=
  .next (if s.sched.run && decide (s.sched.mfn.toNat < s.pair.refusedAt.toNat + 1000) then s else
    { s with pair := { s.pair with refused := false } })

/-- MIRROR_LANE_DOWN and MIRROR_LANE_UP (R421, Table 15-12). -/
def setLane (k : Nat) (v : Bool) (s : State) : State :=
  if k = 0 then { s with pair := { s.pair with lane0 := v } } else { s with pair := { s.pair with lane1 := v } }
def execMirrorLaneDown (k : Fin 2) (s : State) : Host.Outcome State Fault Refusal :=
  .next (count bPAIR 7 (setLane k false s))
def execMirrorLaneUp (k : Fin 2) (s : State) : Host.Outcome State Fault Refusal := .next (setLane k true s)

def execIdle (f : MirRx) (s : State) : Host.Outcome State Fault Refusal := .next (mirRecv kIDLE f (fun _ s => s) s)

/-! ### Time agreement (R421) -/

/-- The network time that the form of TIME.NOW gives. -/
def ofTimeForm (v : Nat) : Int := (v % 65536 + (v / 2 ^ 32 % 2 ^ 32 + v / 2 ^ 64 * 10 ^ 9) * 65536 : Nat)

def timeLane (s : State) : Nat := if s.pair.lane0 || !s.pair.lane1 then 0 else 1

def timeSend (s : State) : State :=
  if s.pair.keys.isNone && s.pair.nextKeys.isNone then s
  else
    let t := nowT s
    mirSend (timeLane s) kTIME 0 0 0 (leBytes 16 (timeForm t).toNat ++ leBytes 16 (timeForm s.pair.timeRx).toNat)
      { s with pair := { s.pair with timeTx := t } }

/-- The offset of a STANDBY unit, and TLOCK. -/
def timeOffset (lane : Nat) (p : Bytes) (rx : W128) (s : State) : State :=
  let t1 := ofTimeForm (u128 p 0)
  let t4 := ofTimeForm (u128 p 16)
  let lasym := if lane = 0 then s.pair.lasym0 else s.pair.lasym1
  let off := Int.fdiv ((rx.toNat - t1) - (t4 - s.pair.timeTx.toNat)) 2 - lasym.toInt
  let near := decide (off.natAbs ≤ 32768)
  let n := if near then s.pair.tlockRun + 1 else 0
  { s with pair := { s.pair with
      toff := BitVec.ofInt 64 off, tlockRun := min n 16, tlock := near && (s.pair.tlock || decide (16 ≤ n)) } }

def takesTime (s : State) : Bool := s.pair.role != rACTIVE && (match s.pair.hello with | some h => h.role == 1 | none => false)

def execTime (f : MirRx) (s : State) : Host.Outcome State Fault Refusal :=
  .next (mirRecv kTIME f (fun p s =>
    let ts := stampOf s f.cap f.frac
    let s1 := { s with pair := { s.pair with timeRx := ts } }
    if takesTime s ∧ s.pair.timeTx ≠ 0 ∧ u128 p 16 ≠ 0 then timeOffset f.lane p ts s1 else s1) s)

/-! ### Metering (R286, R440) -/

/-- The interval records in the buffer that closed in minor frame `mfn`, in the order of their SEQ. -/
def recordsOf (s : State) (mfn : Nat) : List Bytes :=
  (List.range 128).filterMap fun i =>
    let q := s.metr.intSeq.toNat + i + 1
    let b := tblGet s.metr.records (q % 128) []
    if b.length = 1408 ∧ u64 b 0 + 128 = q ∧ u64 b 8 = mfn then some b else none

/-- The records of the minor frame before go out in one METER frame. -/
def meterSend (s : State) : State :=
  let m := s.sched.mfn - 1
  let bs := recordsOf s m.toNat
  if bs = [] ∨ m = s.pair.meterSent then s
  else mirSend (timeLane s) kMETER m 0 0 bs.flatten { s with pair := { s.pair with meterSent := m } }

/-- The offsets of the FWD registers in a record. -/
def fwdOffs : List Nat := [0x40, 0x1C0, 0x340].flatMap fun o => (List.range 16).map fun i => o + 24 * i

def fwdDiffer (c : MetrCfg) (a b : Nat) : Bool :=
  ltF (addF (mulF c.xtol (ofNatF (max a b))) c.xabs) (ofNatF (max a b - min a b))

/-- FWD registers that differ beyond the tolerance between two records. -/
def fwdDiffs (c : MetrCfg) (own b : Bytes) : Nat := (fwdOffs.filter fun o => fwdDiffer c (u64 own o) (u64 b o)).length

/-- The partner's records of one close MFN against the unit's own, one by one. -/
def meterCompare (b : Bytes) (s : State) : State :=
  if u64 b 8 + 16 < s.sched.mfn.toNat then s
  else
    let theirs := (List.range (b.length / 1408)).map fun i => slice b (1408 * i) 1408
    countN bMETR 6 ((((recordsOf s (u64 b 8)).zip theirs).map fun p => fwdDiffs s.metr.cfg p.1 p.2).sum) s

def execMeter (f : MirRx) (s : State) : Host.Outcome State Fault Refusal :=
  .next (mirRecv kMETER f meterCompare s)

/-! ### Roles (R434 to R437) -/

/-- The effects of every role change: the runs of SOLV are cut and PARC's step ends (R109, R110, R157). -/
def changeRole (new : BitVec 2) (cause : Nat) (s : State) : State :=
  let c := s.pair.cseq.toNat
  let data := leBytes 1 s.pair.role.toNat ++ leBytes 1 new.toNat ++ leBytes 1 cause ++ leBytes 8 c
  let s1 := irqEdge 206 (audit 0x0007 0xFFFF 0 0 data (lantern 0x1101 1 data
    (parcInterrupt (solvRole { s with pair := { s.pair with role := new, finalCut := false, finalApplied := false, noLease := false } }))))
  if s.pair.ringEn then unsolicited s.pair.ring.toNat bPAIR stOK (c % 2 ^ 48 + new.toNat * 2 ^ 48 + cause * 2 ^ 56) s1 else s1

/-- A standby starts again from a full copy (R442). -/
def enterCopying (s : State) : State :=
  { s with pair := { s.pair with copied := false, copyDone := false, items := [], copyLines := 0 } }

def idleMasters (s : State) : State :=
  { s with mbus := { s.mbus with m := s.mbus.m.map fun kv => (kv.1, { kv.2 with state := 0, due := [], dueMfn := none }) } }

/-- Seals, stations, buffers and axes of a promoted standby (R436, R253). -/
def promoteSeal (s : State) (k : Nat) : State :=
  let e := sessGet s k
  let v := stnGet s k
  let s1 := stnPut s k { v with exs := [] }
  if e.kind = 1 then
    sessPut s1 k { e with fvTx := v.carTx + 4096, fvRx := if e.fvRx.toNat < v.carRx.toNat then v.carRx else e.fvRx }
  else s1
def clearTx (s : State) : State :=
  { s with canl := { s.canl with ch := s.canl.ch.map fun kv => (kv.1, { kv.2 with tx := [] }) } }
def axesTake (s : State) : State :=
  { s with axis := { s.axis with ax := s.axis.ax.map fun kv => (kv.1, { kv.2 with posLost := kv.2.posLost || kv.2.fast, fast := false }) } }
def promoted (s : State) : State := idleMasters (axesTake (clearTx (s.canl.tmpl.foldl (fun s kv => promoteSeal s kv.1) s)))

/-- What a unit stops when it no longer drives the field (R415). -/
def keepFv (s : State) (k : Nat) : State :=
  let e := sessGet s k
  if e.kind = 1 then stnPut s k { stnGet s k with carTx := e.fvTx, carRx := e.fvRx } else s
def cancelTx (s : State) : State :=
  { s with canl := { s.canl with ch := s.canl.ch.map fun kv =>
      (kv.1, { kv.2 with tx := kv.2.tx.map fun b => (b.1, if b.2.st = 1 then { b.2 with st := 4, frame := none } else b.2) }) } }
def demoted (s : State) : State :=
  dropJoins (idleMasters (cancelTx (s.canl.tmpl.foldl (fun s kv => keepFv s kv.1) s)))

def actCause (g : Grant) : Nat := if g.act = 1 then 2 else if g.act = 2 then 3 else 4

/-- The swapped unit is STANDBY and READY by its own final cut (R439). -/
def swappedOut (s : State) : State :=
  let s1 := changeRole rSTANDBY 3 s
  demoted { s1 with pair := { s1.pair with
    copied := true, copyDone := true, tlock := true, tlockRun := 16, applied := some s.pair.cseq, appliedAct := s.sched.actId,
    cutParts := [], cutEnds := [], streamIn := [], ple := 0, pleOk := false } }

/-- A FENCED unit that runs its schedule with an ACTIVE partner on the same schedule joins it (R441). -/
def mayJoin (s : State) : Bool :=
  s.pair.role == rFENCED && s.pair.pseen && s.pair.sameGrid && (match s.pair.hello with | some h => h.role == 1 | none => false)
def joinPartner (s : State) : State :=
  let s1 := changeRole rSTANDBY 4 s
  enterCopying { s1 with pair := { s1.pair with
    applied := none, cutParts := [], cutEnds := [], streamIn := [], ple := 0, pleOk := false } }

/-- PAIR_MODE 1 that waited takes the unit from SOLO to ACTIVE in its first granted frame (R445). -/
def modeGranted (s : State) : State :=
  finAll s.pair.modeReq stOK (let s1 := changeRole rACTIVE (actCause s.pair.grant) s
    { s1 with pair := { s1.pair with mode := true, modeReq := [] } })

/-- The role changes at cycle 0 of a minor frame (R434). -/
def roleChange (s : State) : State :=
  let g := s.pair.grant
  if !s.pair.mode then (if !s.pair.modeReq.isEmpty ∧ wlHeld s then modeGranted s else s)
  else if s.pair.role = rACTIVE then
    if s.pair.finalCut then swappedOut s
    else if wlHeld s || plHeld s then s
    else count bPAIR 6 (demoted (changeRole rFENCED 1 s))
  else if s.pair.role = rSTANDBY then
    if eligible s && wlHeld s && (if g.act = 2 then s.pair.finalApplied else decide (s.pair.ple.toNat ≤ s.sched.mfn.toNat)) then
      let s1 := promoted (changeRole rACTIVE (actCause g) s)
      { s1 with pair := { s1.pair with ple := 0, pleOk := false, ackReady := false, partnerCopying := false, snap := snapOf s1 } }
    else s
  else if s.pair.role = rFENCED then
    if !s.pair.pseen && wlHeld s then
      let s1 := idleMasters (clearTx (changeRole rACTIVE (actCause g) s))
      { s1 with pair := { s1.pair with ple := 0, pleOk := false, ackReady := false, partnerCopying := false, snap := snapOf s1 } }
    else if mayJoin s then joinPartner s
    else s
  else s

/-- Lanes that carried nothing in the last frame carry IDLE. -/
def idleSend (s : State) : State :=
  let idle := fun (k : Nat) (s : State) => if s.pair.sent.getLsbD k then s else mirSend k kIDLE 0 0 0 [] s
  let s1 := idle 1 (idle 0 s)
  { s1 with pair := { s1.pair with sent := 0 } }

/-- One exchange of the mirror lanes: HELLO while it is due, TIME. -/
def mirExchange (s : State) : State := timeSend (helloBoth s)

/-- PAIR at cycle 0 of a minor frame. -/
def pairFrameStart (s : State) : State :=
  let s1 := roleChange s
  if !s1.pair.mode then s1
  else
    let s2 := if s1.pair.nextKeys.isSome then { s1 with pair := { s1.pair with sendNext := true } } else s1
    meterSend (mirExchange (idleSend s2))

/-! ### The cut on the ACTIVE unit (R422 to R426, R439) -/

def chunkList {α : Type} (n : Nat) : Nat → List α → List (List α)
  | 0, _ => []
  | k + 1, l => if l.isEmpty then [] else l.take n :: chunkList n k (l.drop n)

/-- A stream item is replaced by its newer content; chunks of a full copy queue. -/
def queueItem (i : Nat) (cseq : W64) (b : Bytes) (s : State) : State :=
  let o : StreamOut := { item := i, cseq := cseq, data := leBytes 8 b.length ++ b }
  { s with pair := { s.pair with streamOut := (s.pair.streamOut.filter fun x => i = 6 || x.item != i) ++ [o] } }

/-- Items 1 to 5 created since they were last sent (Table 15-6), or all of them. -/
def itemsDue (all : Bool) (s : State) : State :=
  [1, 2, 3, 4, 5].foldl (fun s i =>
    let b := itemMark s i
    if !all ∧ tblGet s.pair.itemSent i (if i = 5 then leBytes 8 0 else []) = b then s
    else
      let s1 : State := { s with pair := { s.pair with itemSent := tblPut s.pair.itemSent i b [] } }
      queueItem i s.sched.mfn (itemBytes s i) s1) s

/-- The next chunk of a full copy: total lines, lines after this chunk, records (Table 15-6). -/
def copyChunk (s : State) : State :=
  match s.pair.copyNext with
  | none => s
  | some p =>
    let ls := trackedLines s
    let c := (ls.drop p).take 4096
    let left := ls.length - (p + c.length)
    let s1 := queueItem 6 s.sched.mfn (leBytes 8 ls.length ++ leBytes 8 left ++ (c.map (lineRec s)).flatten)
      { s with pair := { s.pair with copyNext := if left = 0 then none else some (p + 4096) } }
    if left = 0 then itemsDue true s1 else s1

/-- The final cut of a swap is that of frame W − 1. -/
def isFinal (s : State) : Bool := s.pair.grant.act == 2 && s.pair.grant.e == s.sched.mfn + 1

def swbOf (s : State) : W64 × W64 := if s.sched.switchPend then (s.sched.swMfn, s.sched.shdId) else (0, 0)

def cutEndPayload (s : State) (nl nf : Nat) (ovf : Bool) : Bytes :=
  leBytes 4 nl ++ leBytes 2 nf ++ leBytes 2 (b2n ovf + 2 * b2n (isFinal s)) ++ leBytes 8 (lsumOf s).toNat ++
    leBytes 8 s.sched.actId.toNat ++ leBytes 8 s.sched.kmf.toNat ++ leBytes 8 (swbOf s).1.toNat ++ leBytes 8 (swbOf s).2.toNat

/-- The cut of this frame goes out on both lanes (R423, R425). How many pre-images the gathering met is a
free value of 0 to 1,024 (log entry 62). -/
def cutSend (s : State) : State :=
  let d := dirtyLines s.pair.snap s
  let big := decide (7168 < d.length)
  let fs := if big then [] else chunkList 226 (d.length + 1) d
  let n := if big then 0 else d.length
  let s1 := fs.zipIdx.foldl (fun t p =>
    mirBoth kCUT s.sched.mfn (226 * 72 * p.2) ((p.1.map (lineRec s)).flatten) t) s
  let s2 := mirBoth kCUTEND s.sched.mfn 0 (cutEndPayload s n fs.length big) s1
  let w := freeWord s2
  countIf big bPAIR 3 { w.2 with pair := { w.2.pair with
    cseq := s.sched.mfn, cutLines := BitVec.ofNat 16 d.length,
    cutMax := BitVec.ofNat 16 (max s.pair.cutMax.toNat d.length),
    preStat := BitVec.ofNat 11 (w.1.toNat % 1025) } }

def finalStop (s : State) : State :=
  if isFinal s then
    let s1 := parcInterrupt (cutRuns 4 s)
    { s1 with pair := { s1.pair with finalCut := true } }
  else s

def activeCut (s : State) : State :=
  let s1 := if s.pair.keys.isSome || s.pair.sendNext then copyChunk (itemsDue false (cutSend s)) else s
  finalStop { s1 with pair := { s1.pair with snap := snapOf s1 } }

/-- STREAM frames in the PAIR transmit slot: chunks of at most 16,332 bytes, lane after lane (R429). -/
def streamFrames (o : StreamOut) : List (StreamOut × Nat × Bytes) :=
  (chunkList 16332 (o.data.length + 1) o.data).zipIdx.map fun p => (o, 16332 * p.2, p.1)
def pairTransmit (s : State) : State :=
  if s.pair.role ≠ rACTIVE ∨ frozenM s 22 then s
  else
    let fs := (s.pair.streamOut.map streamFrames).flatten
    fs.zipIdx.foldl (fun s p => mirSend (p.2 % 2) kSTREAM p.1.1.cseq p.1.2.1 p.1.1.item p.1.2.2 s)
      { s with pair := { s.pair with streamOut := [] } }

/-! ### The cut on the STANDBY unit (R427 to R430, R442 to R444) -/

/-- CUT: line records are held. Both lanes carry every frame; the second copy adds nothing. -/
def execCut (f : MirRx) (s : State) : Host.Outcome State Fault Refusal :=
  .next (mirRecv kCUT f (fun p s =>
    let x : CutPart := { cseq := BitVec.ofNat 64 (u64 f.bytes 16), off := u32 f.bytes 24, data := p }
    if s.pair.role ≠ rSTANDBY ∨ s.pair.cutParts.any (fun y => y.cseq == x.cseq && y.off == x.off) then s
    else { s with pair := { s.pair with cutParts := s.pair.cutParts ++ [x] } }) s)

def cutEndOf (f : MirRx) (p : Bytes) (tbc : W64) : CutEnd :=
  {
    cseq := BitVec.ofNat 64 (u64 f.bytes 16), nlines := u32 p 0, nframes := u16 p 4, overflow := bit (u16 p 6) 0,
    final := bit (u16 p 6) 1, lsum := BitVec.ofNat 64 (u64 p 8), actid := BitVec.ofNat 64 (u64 p 16),
    kmf := BitVec.ofNat 64 (u64 p 24), swb := BitVec.ofNat 64 (u64 p 32), swid := BitVec.ofNat 64 (u64 p 40), arr := tbc }

def execCutend (f : MirRx) (s : State) : Host.Outcome State Fault Refusal :=
  .next (mirRecv kCUTEND f (fun p s =>
    let x := cutEndOf f p s.time.tbc
    let old : Bool := match s.pair.applied with | some a => decide (x.cseq.toNat ≤ a.toNat) | none => false
    if s.pair.role ≠ rSTANDBY ∨ s.pair.cutEnds.any (fun y => y.cseq == x.cseq) ∨ old then s
    else { s with pair := { s.pair with cutEnds := s.pair.cutEnds ++ [x] } }) s)

/-- STREAM: a chunk lies in the stream buffer, in a PAIR window; a newer item drops the older one's chunks. -/
def execStream (f : MirRx) (s : State) : Host.Outcome State Fault Refusal :=
  .next (mirRecv kSTREAM f (fun p s =>
    let x : StreamPart := { item := u32 f.bytes 28, cseq := BitVec.ofNat 64 (u64 f.bytes 16), off := u32 f.bytes 24, data := p }
    if s.pair.role ≠ rSTANDBY ∨ frozenM s 22 ∨ s.pair.slen.toNat < x.off + p.length ∨
        s.pair.streamIn.any (fun y => y.item == x.item && y.cseq == x.cseq && y.off == x.off) then s
    else
      guarded 22 (s.pair.sbase.toNat + x.off) p.length true
        (fun s => { s with pair := { s.pair with streamIn := s.pair.streamIn ++ [x] } }) s) s)

/-- The parts of cut n are all there: NFRAMES frames with NLINES lines. -/
def cutParts (s : State) (e : CutEnd) : List CutPart := s.pair.cutParts.filter fun x => x.cseq == e.cseq
def cutComplete (s : State) (e : CutEnd) : Bool :=
  decide ((cutParts s e).length = e.nframes) && decide (((cutParts s e).map fun x => x.data.length).sum = 72 * e.nlines)

/-- A complete stream item: its content, from chunks that cover its length. -/
def itemChunks (s : State) (i : Nat) (c : W64) : List StreamPart := s.pair.streamIn.filter fun x => x.item == i && x.cseq == c
def itemWhole (s : State) (i : Nat) (c : W64) : Option Bytes :=
  let l := itemChunks s i c
  let b := l.foldl (fun b x => patch b x.off x.data) []
  let n := (l.map fun x => x.data.length).sum
  if 8 ≤ n ∧ n = u64 b 0 + 8 then some (b.drop 8) else none

/-- One complete item is installed, atomically. -/
def installItem (i : Nat) (b : Bytes) (s : State) : State :=
  if i = 6 then
    let s1 := applyRecords (b.drop 16) s
    let left := u64 b 8
    let n := (b.length - 16) / 72
    let lines := if u64 b 0 = left + n then n else s.pair.copyLines.toNat + n
    { s1 with pair := { s1.pair with copyLines := BitVec.ofNat 32 lines, copyDone := s.pair.copyDone || decide (left = 0) } }
  else
    let s1 := itemInstall i b s
    { s1 with pair := { s1.pair with items := if s.pair.items.contains i then s.pair.items else s.pair.items ++ [i] } }

/-- The complete items tagged n or before are installed, oldest first. -/
def installItems (n : W64) (s : State) : State :=
  let keys := (s.pair.streamIn.map fun x => (x.item, x.cseq)).eraseDups.filter fun k => decide (k.2.toNat ≤ n.toNat)
  keys.foldl (fun s k =>
    match itemWhole s k.1 k.2 with
    | none => s
    | some b =>
      let s1 := installItem k.1 b s
      { s1 with pair := { s1.pair with streamIn := s1.pair.streamIn.filter fun x => !(x.item == k.1 && x.cseq == k.2) } }) s

/-- The line records of a cut in their order. -/
def byOff (l : List CutPart) : List CutPart := l.mergeSort fun a b => decide (a.off ≤ b.off)
def applyLines (e : CutEnd) (s : State) : State := (byOff (cutParts s e)).foldl (fun s x => applyRecords x.data s) s

/-- ACK on both lanes, with the partner lease while READY (R433). -/
def ackSend (e : CutEnd) (s : State) : State :=
  let grant := eligible s && s.pair.plen != 0 && !s.pair.noLease
  let ple := if grant then e.cseq.toNat + s.pair.plen.toNat + 1 else 0
  let p := leBytes 8 e.cseq.toNat ++ leBytes 1 (syncOf s) ++ zeros 7 ++ leBytes 8 ple ++ leBytes 8 (lsumOf s).toNat
  mirBoth kACK e.cseq 0 p (if grant then { s with pair := { s.pair with ple := BitVec.ofNat 64 ple } } else s)

/-- Cut n is done with. -/
def dropCut (e : CutEnd) (s : State) : State :=
  { s with pair := { s.pair with
      cutEnds := s.pair.cutEnds.filter fun x => decide (e.cseq.toNat < x.cseq.toNat),
      cutParts := s.pair.cutParts.filter fun x => decide (e.cseq.toNat < x.cseq.toNat) } }

/-- A full copy and items 1 to 5 have come. -/
def copyWhole (s : State) : Bool := s.pair.copyDone && [1, 2, 3, 4, 5].all fun i => s.pair.items.contains i

/-- One cut is applied (R427). -/
def applyCut (s : State) (e : CutEnd) : State :=
  if e.actid ≠ s.sched.actId then dropCut e { s with pair := { s.pair with appliedAct := e.actid } }
  else
    let gap := match s.pair.applied with | some a => decide (e.cseq.toNat ≠ a.toNat + 1) | none => false
    let s1 := { s with pair := { s.pair with swMismatch := s.pair.swMismatch && decide (e.cseq.toNat < s.pair.swFrom.toNat) } }
    let s2 := if gap then enterCopying (count bPAIR 2 s1) else s1
    let s3 := if e.overflow then enterCopying s2 else s2
    let s4 := applyLines e (installItems e.cseq s3)
    let s5 := dropCut e { s4 with pair := { s4.pair with
      applied := some e.cseq, appliedAct := e.actid, cseq := e.cseq, cutLines := BitVec.ofNat 16 e.nlines,
      cutMax := BitVec.ofNat 16 (max s.pair.cutMax.toNat e.nlines), finalApplied := s4.pair.finalApplied || e.final } }
    if !copyWhole s5 then ackSend e s5
    else if lsumOf s5 = e.lsum then ackSend e { s5 with pair := { s5.pair with copied := true } }
    else enterCopying (count bPAIR 4 s5)

/-- The switches of the two units are compared in the frame before either B (R444). -/
def switchCompare (s : State) : State :=
  match s.pair.cutEnds.getLast? with
  | none => s
  | some e =>
    let own := swbOf s
    let due := (e.swb ≠ 0 ∧ s.sched.mfn + 1 = e.swb) ∨ (own.1 ≠ 0 ∧ s.sched.mfn + 1 = own.1)
    if due ∧ own ≠ (e.swb, e.swid) then
      lantern 0x1180 1 (leBytes 8 e.swb.toNat ++ leBytes 8 e.swid.toNat ++ leBytes 8 own.1.toNat ++ leBytes 8 own.2.toNat)
        (count bPAIR 11 { s with pair := { s.pair with swMismatch := true, swFrom := s.sched.mfn + 1 } })
    else s

/-- The cuts that are complete and 18 cycles old are applied, in order. -/
def standbyCut (s : State) : State :=
  let s1 := switchCompare s
  let due := (s1.pair.cutEnds.filter fun e => decide (e.arr.toNat + 18 ≤ s.time.tbc.toNat) && cutComplete s1 e).mergeSort
    fun a b => decide (a.cseq.toNat ≤ b.cseq.toNat)
  due.foldl applyCut s1

/-- CUT_SLOT (R423, R427). -/
def execCutSlot (s : State) : Host.Outcome State Fault Refusal :=
  .next (
    if !s.sched.run ∨ frozenM s 22 ∨ !pairOn s then s
    else if s.pair.role = rACTIVE then activeCut s
    else if s.pair.role = rSTANDBY then standbyCut s
    else s)

/-- ACK on the ACTIVE unit (R433, R442). -/
def execAck (f : MirRx) (s : State) : Host.Outcome State Fault Refusal :=
  .next (mirRecv kACK f (fun p s =>
    if s.pair.role ≠ rACTIVE then s
    else
      let copying := u8 p 8 == 2
      { s with pair := { s.pair with
          ple := BitVec.ofNat 64 (u64 p 16), pleOk := true, ackReady := u8 p 8 == 3, partnerCopying := copying,
          copyNext := if copying && !s.pair.partnerCopying then some 0 else s.pair.copyNext } }) s)

/-! ### The witness (R431 to R433) -/

/-- The heartbeat body (Table 15-8). -/
def heartBody (s : State) (fv : Nat) : Bytes :=
  [0x11] ++ leBytes 1 s.pair.role.toNat ++ leBytes 1 (syncOf s) ++
    flagsB 1 [s.pair.pseen, s.pair.tlock, s.sec.tampSt != 0, !s.sched.frozen.isEmpty, s.pair.swapAsked] ++
    leBytes 4 s.pair.epoch.toNat ++ devuid s ++ leBytes 8 s.sched.mfn.toNat ++ leBytes 8 s.pair.cseq.toNat ++
    leBytes 8 s.sched.actId.toNat ++ leBytes 8 fv

/-- The heartbeat leaves on the witness port or on the witness's Ethernet port. -/
def heartbeat (key : Bytes) (s : State) : State :=
  let fv := s.pair.fvTx.toNat + 1
  let b := heartBody s fv
  let body := b ++ (hmac256 key b).take 16
  let s1 := { s with pair := { s.pair with fvTx := BitVec.ofNat 64 fv, lastBeat := body } }
  if s.pair.witsel then
    let p := s.pair.weth.toNat
    let q : EthPort := tblGet s1.ethl.port p {}
    let mac := slice (tblGet s1.ethl.cfg p {}).mac 0 6
    let x : EthTx := { bytes := beBytes 6 s.pair.wmac.toNat ++ mac ++ beBytes 2 s.pair.etype.toNat ++ body }
    { s1 with ethl := { s1.ethl with port := tblPut s1.ethl.port p { q with txPair := q.txPair ++ [x] } {} } }
  else emit (.witness ([0x55, 0x55, 0x7E] ++ withCrc body)) s1

/-- A Bugle passes R432. -/
def bugleOk (s : State) (key b : Bytes) : Bool :=
  decide (b.length = 64) && u8 b 0 == 0x10 && slice b 8 8 == devuid s && (hmac256 key (b.take 48)).take 16 == b.drop 48 &&
  decide (s.pair.fvRx.toNat < u64 b 40) && decide (s.pair.epoch.toNat ≤ u32 b 4)

def bugleTake (b : Bytes) (s : State) : State :=
  let g : Grant :=
    {
      act := byteAt b 1, s := BitVec.ofNat 64 (u64 b 16), e := BitVec.ofNat 64 (u64 b 24), nexts := BitVec.ofNat 64 (u64 b 32) }
  let s1 := { s with pair := { s.pair with
    epoch := BitVec.ofNat 32 (u32 b 4), fvRx := BitVec.ofNat 64 (u64 b 40), grant := g, lastBugle := b,
    bugleMfn := some s.sched.mfn, pleOk := s.pair.pleOk && !(g.s == 0 && g.e == 0),
    noLease := s.pair.noLease || g.act == 1 || g.act == 2 } }
  if g.act = 2 then
    finAll s.pair.swapReq stOK { s1 with pair := { s1.pair with swapReq := [], swapAsked := false } }
  else s1

/-- The WITNESS session in the pool (R404), made with the first accepted Bugle under K_W. -/
def witSess (key : Bytes) (s : State) : Option State :=
  if s.sec.sess.any fun kv => kv.2.kind == 6 && kv.2.key == key then some s else poolMake 6 0 key s

/-- A Bugle to this unit whose tag fails. -/
def bugleForged (s : State) (key b : Bytes) : Bool :=
  decide (b.length = 64) && slice b 8 8 == devuid s && (hmac256 key (b.take 48)).take 16 != b.drop 48

/-- BUGLE (R432). -/
def bugle (b : Bytes) (crcOk : Bool) (s : State) : State :=
  if !enOf s bPAIR ∨ (!s.pair.mode ∧ s.pair.modeReq.isEmpty) then s
  else if s.sec.snuffed then count bPAIR 5 s
  else match keyWitness s with
    | none => count bPAIR 5 s
    | some key =>
      if crcOk && bugleOk s key b then
        match witSess key s with
        | some t => poolNote 6 0 true (heartbeat key (poolNote 6 0 true (bugleTake b t)))
        | none => count bSEC 7 s
      else count bPAIR 5 (if crcOk && bugleForged s key b then poolNote 6 0 false s else s)
def execBugle (body : Bytes) (crcOk : Bool) (s : State) : Host.Outcome State Fault Refusal := .next (bugle body crcOk s)

/-! ### Registers -/

def pairStatusBits (s : State) : Nat :=
  b2n s.pair.tlock * 2 ^ 16 + b2n (plHeld s) * 2 ^ 15 + b2n (wlHeld s) * 2 ^ 14 + b2n (witUp s) * 2 ^ 13 +
    b2n s.pair.pseen * 2 ^ 12 + b2n s.pair.lane1 * 2 ^ 11 + b2n s.pair.lane0 * 2 ^ 10 + syncOf s * 2 ^ 7 + s.pair.role.toNat * 2 ^ 4

/-- PAIR registers 0x140 to 0x1BF (Tables 15-13, 15-14). -/
def pairBytes (s : State) : Bytes :=
  let p := s.pair
  [BitVec.ofNat 8 (b2n p.mode + 2 * b2n p.witsel + 16 * p.weth.toNat), BitVec.ofNat 8 (p.ring.toNat + 128 * b2n p.ringEn),
    p.plen, p.eligage] ++ leBytes 4 p.etype.toNat ++ leBytes 8 p.wmac.toNat ++ leBytes 8 p.lasym0.toNat ++ leBytes 8 p.lasym1.toNat ++
    leBytes 8 p.sbase.toNat ++ leBytes 8 p.slen.toNat ++ leBytes 8 p.partner.toNat ++ leBytes 8 p.epoch.toNat ++
    leBytes 8 p.grant.s.toNat ++ leBytes 8 p.grant.e.toNat ++ leBytes 8 p.ple.toNat ++ leBytes 8 p.cseq.toNat ++
    leBytes 2 p.cutLines.toNat ++ leBytes 2 p.cutMax.toNat ++ leBytes 4 p.preStat.toNat ++ leBytes 8 p.toff.toNat ++
    leBytes 8 (lsumOf s).toNat ++ leBytes 8 p.copyLines.toNat

/-- A write of a configuration register while EN = 0 (Table 15-13, Table 15-14), by offset and 64-bit value. -/
def pairCfgWrite (off : Nat) (v : Nat) (s : State) : State :=
  let p := s.pair
  let set := fun q => { s with pair := q }
  if enOf s bPAIR then s
  else if off = 0x140 then
    let pl := if bits v 23 16 ≤ 64 then BitVec.ofNat 8 (bits v 23 16) else p.plen
    let el := if 4 ≤ bits v 31 24 then BitVec.ofNat 8 (bits v 31 24) else p.eligage
    set { p with eligage := el, plen := pl, ringEn := bit v 15, ring := BitVec.ofNat 6 (bits v 13 8),
                 weth := BitVec.ofNat 4 (bits v 7 4), witsel := bit v 1 }
  else if off = 0x144 then set { p with etype := BitVec.ofNat 16 v }
  else if off = 0x148 then set { p with wmac := BitVec.ofNat 48 v }
  else if off = 0x150 then set { p with lasym0 := BitVec.ofNat 64 v }
  else if off = 0x158 then set { p with lasym1 := BitVec.ofNat 64 v }
  else if off = 0x160 then set { p with sbase := BitVec.ofNat 64 (v / 64 * 64) }
  else if off = 0x168 then set { p with slen := BitVec.ofNat 32 (v % 2 ^ 32 / 64 * 64) }
  else s

/-! ### Descriptors (R445) -/

def effPairRead (d : HostDesc) (s : State) : State :=
  let b := if d8 d 16 = 0 then pairBytes s else slice s.pair.lastBugle 0 64 ++ slice s.pair.lastBeat 0 64
  if 1 < d8 d 16 then finPair d stRANGE 0 s else finPair d stOK 0 (toHost (dAddr d) b s)

def effPairMode (d : HostDesc) (s : State) : State :=
  if 1 < d8 d 16 then finPair d stRANGE 0 s
  else if d8 d 16 = 1 then
    if s.pair.mode then finPair d stOK 0 s
    else { s with pair := { s.pair with modeReq := s.pair.modeReq ++ [(d, s.sched.mfn)], grant := {} } }
  else if s.pair.pseen then finPair d stREFUSED 0 s
  else
    let s1 := if s.pair.mode then changeRole rSOLO 0 s else s
    finPair d stOK 0 { poolEnd 6 (poolEnd 7 s1) with pair := { s1.pair with mode := false } }

def effPairRekey (d : HostDesc) (s : State) : State :=
  let s1 := freshNonce s
  if !s.sec.drbgOk then finPair d stNOT_READY 0 s
  else { s1 with pair := { s1.pair with rekeyReq := s1.pair.rekeyReq ++ [(d, s.sched.mfn)] } }

def effPairResync (d : HostDesc) (s : State) : State :=
  if s.pair.role = rSTANDBY then finPair d stOK 0 (enterCopying s) else finPair d stNOT_READY 0 s

def effPairSwapreq (d : HostDesc) (s : State) : State :=
  { s with pair := { s.pair with swapReq := s.pair.swapReq ++ [(d, s.sched.mfn)], swapAsked := true } }

def execPairRead (d : HostDesc) (s : State) : Host.Outcome State Fault Refusal := .next (arrive effPairRead d s)
def execPairMode (d : HostDesc) (s : State) : Host.Outcome State Fault Refusal := .next (arrive effPairMode d s)
def execPairRekey (d : HostDesc) (s : State) : Host.Outcome State Fault Refusal := .next (arrive effPairRekey d s)
def execPairResync (d : HostDesc) (s : State) : Host.Outcome State Fault Refusal := .next (arrive effPairResync d s)
def execPairSwapreq (d : HostDesc) (s : State) : Host.Outcome State Fault Refusal := .next (arrive effPairSwapreq d s)

def execPairModeTimeout (s : State) : Host.Outcome State Fault Refusal :=
  let out := waited 10000 s
  .next (finAll (s.pair.modeReq.filter out) stTIMEOUT { s with pair := { s.pair with modeReq := s.pair.modeReq.filter fun p => !out p } })

def execPairRekeyTimeout (s : State) : Host.Outcome State Fault Refusal :=
  let out := waited 1000 s
  let left := s.pair.rekeyReq.filter fun p => !out p
  .next (if left.length = s.pair.rekeyReq.length then s
    else
      let old := { s with pair := { s.pair with rekeyReq := left } }
      finAll (s.pair.rekeyReq.filter out) stTIMEOUT (if left.isEmpty then
        { old with pair := { old.pair with nextKeys := none, fcnt2 := [], sendNext := false, newLanes := 0 } } else old))

def execPairSwapreqTimeout (s : State) : Host.Outcome State Fault Refusal :=
  let out := waited 10000 s
  let left := s.pair.swapReq.filter fun p => !out p
  .next (finAll (s.pair.swapReq.filter out) stTIMEOUT
    { s with pair := { s.pair with swapReq := left, swapAsked := s.pair.swapAsked && !left.isEmpty } })

end Sys2Proof.Machine
end

