-- ==== Sys2Proof/Machine/Eth.lean ====
section
/-! DEFINITION. ETHL: frames, MACsec, rules, rings and templates (11_ethernet_and_ptp.md). -/

namespace Sys2Proof.Machine

def ethCfg (s : State) (p : Nat) : EthCfg := tblGet s.ethl.cfg p {}
def portGet (s : State) (p : Nat) : EthPort := tblGet s.ethl.port p {}
def portPut (s : State) (p : Nat) (v : EthPort) : State :=
  { s with ethl := { s.ethl with port := tblPut s.ethl.port p v {} } }

/-- A port in use, from ETHL's first slot since EN = 1 (R35), with its link up. -/
def portUp (s : State) (p : Nat) : Bool := runsEn s bETHL && (portGet s p).pen && (portGet s p).link

/-! ### Frames -/

def be16 (b : Bytes) (o : Nat) : Nat := beNat (slice b o 2)
def be32 (b : Bytes) (o : Nat) : Nat := beNat (slice b o 4)
def be64 (b : Bytes) (o : Nat) : Nat := beNat (slice b o 8)

/-- The VLAN of a frame (0: untagged) and the offset of its EtherType after any tag. -/
def vlanOf (b : Bytes) : Nat × Nat := if be16 b 12 = 0x8100 then (be16 b 14 % 4096, 16) else (0, 12)
def etypeOf (b : Bytes) : Nat := be16 b (vlanOf b).2

/-- The offset of the UDP header over IPv4 or IPv6. -/
def udpOff (b : Bytes) : Option Nat :=
  let o := (vlanOf b).2 + 2
  if etypeOf b = 0x0800 ∧ u8 b (o + 9) = 17 ∧ u8 b o / 16 = 4 then some (o + 4 * (u8 b o % 16))
  else if etypeOf b = 0x86DD ∧ u8 b (o + 6) = 17 then some (o + 40)
  else none

def udpPort (b : Bytes) : Option Nat := (udpOff b).map fun o => be16 b (o + 2)

def macPtp : Bytes := [0x01, 0x1B, 0x19, 0x00, 0x00, 0x00]
def macPeer : Bytes := [0x01, 0x80, 0xC2, 0x00, 0x00, 0x0E]
/-- The MAC groups of PTP over IPv4 and over IPv6 (Table 11-3). -/
def macIp4 (peer : Bool) : Bytes := [0x01, 0x00, 0x5E, 0x00] ++ (if peer then [0x00, 0x6B] else [0x01, 0x81])
def macIp6 (peer : Bool) : Bytes := [0x33, 0x33, 0x00, 0x00] ++ (if peer then [0x00, 0x6B] else [0x01, 0x81])

/-- One rule against a frame (Table 11-1). -/
def ruleMatch (r : EthRule) (b : Bytes) : Bool :=
  (r.etype == 0 || r.etype == etypeOf b) && (r.udpp == 0 || udpPort b == some r.udpp) &&
  (!bit r.vid 15 || r.vid % 4096 == (vlanOf b).1)

/-- The destination addresses that a port takes (R325). A rule entry holds no address: it names the multicast addresses of
the frames that its set fields match (DEDUCED, log entry 79). -/
def dstOk (g : EthCfg) (b : Bytes) : Bool :=
  let d := slice b 0 6
  d == slice g.mac 0 6 || d == List.replicate 6 0xFF || (g.ptp && (d == macPtp || d == macPeer)) ||
  (bit (u8 d 0) 0 && g.rules.any fun r => (r.etype != 0 || r.udpp != 0 || bit r.vid 15) && ruleMatch r b)

/-- The first rule that decides a frame; a frame without a SecTAG on a secured port needs UNCTRL (R345). -/
def ruleOf (g : EthCfg) (unprot : Bool) (b : Bytes) : Option Nat :=
  firstIdx (fun r => ruleMatch r b && (!unprot || r.unctrl)) g.rules 0

/-! ### MACsec (R341 to R345) -/

/-- The parts of a protected frame: SCI, AN, the SecTAG's length, PN, and the E bit. -/
structure SecTag where
  sci : W64
  an : Nat
  len : Nat
  pn : Nat
  enc : Bool
  /-- The length of short secure data, which padding may follow; 0: all of it. -/
  sl : Nat
  deriving DecidableEq, Repr

def secTagOf (b : Bytes) : SecTag :=
  let t := u8 b 14
  let sc := bit t 5
  {
    sci := BitVec.ofNat 64 (if sc then be64 b 20 else beNat (slice b 6 6) * 65536 + (if bit t 6 then 1 else 0)),
    an := t % 4, len := if sc then 16 else 8, pn := be32 b 16, enc := bit t 3, sl := u8 b 15 % 64 }

/-- A frame padded to the least size of IEEE 802.3, less the FCS. -/
def padFrame (b : Bytes) : Bytes := b ++ zeros (60 - b.length)

/-- The packet number of a received frame: with XPN its upper half follows the SA's next PN (R341). -/
def fullPn (xpn : Bool) (next : Nat) (pn : Nat) : Nat :=
  if xpn then
    let hi := next / 2 ^ 32
    (if 2 ^ 31 ≤ next % 2 ^ 32 ∧ pn < 2 ^ 31 then hi + 1 else hi) * 2 ^ 32 + pn
  else pn

/-- The IV of GCM-AES-256 and of GCM-AES-XPN-256. -/
def macIv (xpn : Bool) (sa : MacSa) (pn : Nat) : Bytes :=
  if xpn then xorBytes (beBytes 4 sa.ssci.toNat ++ beBytes 8 pn) (slice sa.salt 0 12)
  else beBytes 8 sa.sci.toNat ++ beBytes 4 pn

/-- The lowest acceptable PN under the replay window. -/
def lowestPn (g : EthCfg) (sa : MacSa) : Nat := sa.pn.toNat - g.replay

/-- The session key of an SA (R342). -/
def saKey (s : State) (sa : MacSa) : Option Bytes :=
  let e := sessGet s sa.ctx
  if e.kind = 3 ∧ e.st = 1 then some e.key else none

/-- A received protected frame: its unprotected bytes, or the counter of its drop (R344). -/
def macVerify (s : State) (g : EthCfg) (p : EthPort) (b : Bytes) : (Nat × Bytes) ⊕ Nat :=
  let t := secTagOf b
  match firstIdx (fun x => x.sci == t.sci && x.an == t.an) p.rxsa 0 with
  | none => .inr 4
  | some i =>
    match p.rxsa[i]? with
    | none => .inr 4
    | some sa =>
      match saKey s sa with
      | none => .inr 4
      | some key =>
        let pn := fullPn g.xpn sa.pn.toNat t.pn
        let off := 12 + t.len
        let n := b.length - off - 16
        let len := if t.sl = 0 then n else t.sl
        let body := (b.drop off).take len
        let icv := slice b (off + len) 16
        let clear := if t.enc then min g.confoff body.length else body.length
        if n < len then .inr 4
        else if pn < lowestPn g sa then .inr 5
        else match gcmDec key (macIv g.xpn sa pn) (b.take off ++ body.take clear) (body.drop clear) icv with
          | none => .inr 4
          | some pt => .inl (i, b.take 12 ++ body.take clear ++ pt)

/-- An accepted frame advances its SA. -/
def macAdvance (g : EthCfg) (i : Nat) (b : Bytes) (p : EthPort) : EthPort :=
  match p.rxsa[i]? with
  | none => p
  | some sa =>
    let pn := fullPn g.xpn sa.pn.toNat (secTagOf b).pn
    { p with rxsa := p.rxsa.set i { sa with pn := BitVec.ofNat 64 (max sa.pn.toNat (pn + 1)) } }

def pnMax (xpn : Bool) : Nat := if xpn then 2 ^ 64 else 2 ^ 32
def pnWarnAt (xpn : Bool) : Nat := if xpn then 2 ^ 64 - 2 ^ 32 else 2 ^ 32 - 2 ^ 20

/-- A frame protected under an SA with its next PN. -/
def macProtect (g : EthCfg) (key : Bytes) (sa : MacSa) (b : Bytes) : Bytes :=
  let pn := sa.pn.toNat
  let rest := b.drop 12
  let conf := g.conf
  let tci := 0x20 + (if conf then 0x0C else 0) + sa.an % 4
  let sl := if rest.length < 48 then rest.length else 0
  let hdr := b.take 12 ++ [0x88, 0xE5] ++ leBytes 1 tci ++ leBytes 1 sl ++ beBytes 4 (pn % 2 ^ 32) ++ beBytes 8 sa.sci.toNat
  let clear := if conf then min g.confoff rest.length else rest.length
  let r := gcmEnc key (macIv g.xpn sa pn) (hdr ++ rest.take clear) (rest.drop clear)
  hdr ++ rest.take clear ++ r.1 ++ r.2

/-- The bytes that leave under MACsec (R343): none while no SA can protect them. -/
def macSend (p : Nat) (b : Bytes) (s : State) : Option Bytes × State :=
  let g := ethCfg s p
  let q := portGet s p
  match (q.txsa.find? fun kv => kv.1 == q.txan.toNat).map (·.2) with
  | none => (none, count bETHL 7 s)
  | some sa =>
    match saKey s sa with
    | none => (none, count bETHL 7 s)
    | some key =>
      if s.sec.snuffed then (none, count bSEC 8 s)
      else if sa.pn = 0 ∨ pnMax g.xpn ≤ sa.pn.toNat then (none, count bETHL 7 s)
      else
        let n := sa.pn + 1
        let warn := !sa.warned && decide (n = 0 ∨ pnWarnAt g.xpn ≤ n.toNat)
        let e := sessGet s sa.ctx
        (some (macProtect g key sa b),
          sessPut (portPut s p {
              q with
              txsa := q.txsa.map fun kv => if kv.1 = q.txan.toNat then (kv.1, { sa with pn := n, warned := sa.warned || warn }) else kv,
              pnwarn := q.pnwarn || warn }) sa.ctx { e with uses := e.uses + 1 })

/-! ### The receive buffer and the MC1 rings (R329 to R331) -/

def rxHeld (q : EthPort) : Nat := (q.rxq.map fun x => x.bytes.length).sum

/-- A frame for a rule's target waits for the receive slot, or finds the buffer full (R331). -/
def rxQueue (p : Nat) (x : EthItem) (s : State) : State :=
  let q := portGet s p
  if 131072 < rxHeld q + x.bytes.length then count bETHL 2 s else portPut s p { q with rxq := q.rxq ++ [x] }


/-- TS of a ring descriptor: SEC, NS and FRAC (Table 11-2). -/
def ringTs (t : W128) : Bytes :=
  leBytes 6 (nsOf t / 10 ^ 9) ++ leBytes 4 (nsOf t % 10 ^ 9) ++ leBytes 2 (t.toNat % 65536)

/-- A frame into the next receive descriptor that the device owns (R330). -/
def mc1Receive (p : Nat) (x : EthItem) (s : State) : State :=
  let q := portGet s p
  let a := q.rxbase.toNat + 32 * q.rxhead.toNat
  let n := q.rxsize.toNat
  if n = 0 then count bETHL 3 s
  else guarded 20 a 32 false (fun s =>
    let d := dramRead s a 32
    if !bit (u16 d 10) 0 then count bETHL 3 s
    else
      let len := min (u16 d 8) x.bytes.length
      let trunc := decide (len < x.bytes.length)
      guarded 20 (u64 d 0) len true (fun s =>
        guarded 20 a 32 true (fun s =>
          irqEdge (280 + p) (portPut
            (dramWrite a (slice d 0 8 ++ leBytes 2 len ++ leBytes 2 (4 * b2n trunc + 8 * b2n x.secured) ++ leBytes 1 x.rule ++
              slice d 13 3 ++ ringTs x.ts ++ slice d 28 4) (dramWrite (u64 d 0) (x.bytes.take len) s))
            p { q with rxhead := BitVec.ofNat 16 ((q.rxhead.toNat + 1) % n) })) s) s) s

/-- Transmit descriptors taken and not yet returned. -/
def mc1Out (q : EthPort) : Nat :=
  q.txMc1.length + q.back.length + (match q.wire with | some w => b2n w.tx.desc.isSome | none => 0)

/-- The owned transmit descriptors of a port are taken in ring order (R330). -/
def mc1Take (p : Nat) : Nat → State → State
  | 0, s => s
  | k + 1, s =>
    let q := portGet s p
    let a := q.txbase.toNat + 32 * q.txhead.toNat
    let n := q.txsize.toNat
    if n ≤ mc1Out q then s
    else if !inWindow s 20 a 32 false then freeze 20 czWINDOW_R a (curSlot s 20) s
    else
      let d := dramRead s a 32
      let len := u16 d 8
      if !bit (u16 d 10) 0 then s
      else if !inWindow s 20 (u64 d 0) len false then freeze 20 czWINDOW_R (u64 d 0) (curSlot s 20) s
      else
        mc1Take p k (portPut s p {
          q with
          txhead := BitVec.ofNat 16 ((q.txhead.toNat + 1) % n),
          txMc1 := q.txMc1 ++ [{ bytes := dramRead s (u64 d 0) len, ptp := none, desc := some (a, bit (u16 d 10) 1) }] })

/-- A transmit descriptor is returned: after its frame has left, with TS when TSREQ is set (R330). -/
def mc1Return (p : Nat) (s : State) (b : EthBack) : State :=
  guarded 20 b.addr 32 true (fun s =>
    let d := dramRead s b.addr 32
    let f := u16 d 10
    irqEdge (296 + p) (dramWrite b.addr (slice d 0 10 ++ leBytes 2 (setBit f 0 false) ++ slice d 12 4 ++
      (match b.ts with | some t => ringTs t | none => slice d 16 12) ++ slice d 28 4) s)) s

/-- The descriptors of frames that have left since the last transmit slot are returned in this one (R19). -/
def mc1Returns (s : State) (p : Nat) : State :=
  (portGet s p).back.foldl (mc1Return p) (portPut s p { portGet s p with back := [] })

/-- A frame of the MC1 ring is done: it has left with its timestamp, or never left whole, and then TS is not written (log
entry 79). -/
def mc1Done (x : EthTx) (ts : Option W128) (q : EthPort) : EthPort :=
  match x.desc with
  | some (a, req) => { q with back := q.back ++ [{ addr := a, ts := if req then ts else none }] }
  | none => q

/-- A STAGE rule's frame is staged (R329). -/
def ethStage (p : Nat) (r : EthRule) (ri : Nat) (b : Bytes) (s : State) : State :=
  let s1 := r.map.foldl (stageWire 20 bETHL 11 r.le 0 b) s
  let q := portGet s1 p
  portPut s1 p { q with loss := tblPut q.loss ri { last := s1.sched.mfn, level := 0 } {} }

/-- The loss of a STAGE rule's frames: STALE after LOSSMF minor frames, BAD after twice as many, counted from the
first receive slot of the rule (R329). -/
def ethLossOne (p : Nat) (s : State) (x : EthRule × Nat) : State :=
  let r := x.1
  let q := portGet s p
  let l := tblGet q.loss x.2 {}
  let n := s.sched.mfn.toNat - l.last.toNat
  let lev := if 2 * r.lossmf ≤ n then 2 else if r.lossmf ≤ n then 1 else 0
  if r.target ≠ 2 ∨ r.lossmf = 0 then s
  else if !(q.loss.any fun kv => kv.1 == x.2) then portPut s p { q with loss := tblPut q.loss x.2 { last := s.sched.mfn } {} }
  else if lev ≤ l.level then s
  else
    r.map.foldl (fun s e => stagePoint 20 e.point none lev s)
      (portPut s p { q with loss := tblPut q.loss x.2 { l with level := lev } {} })

/-! ### Data templates (R333) -/

/-- The Internet checksum of bytes: one's complement of the one's-complement sum of 16-bit words. -/
def ocSum : Bytes → Nat
  | [] => 0
  | [x] => 256 * x.toNat
  | x :: y :: r => 256 * x.toNat + y.toNat + ocSum r

def fold16 (n : Nat) : Nat :=
  let a := n % 65536 + n / 65536
  let b := a % 65536 + a / 65536
  b % 65536 + b / 65536

def not16 (n : Nat) : Nat := 65535 - n % 65536

/-- The UDP checksum over a frame as built, with its pseudo-header. -/
def udpChecksum (b : Bytes) (o : Nat) : Nat :=
  let l := be16 b (o + 4)
  let ip := (vlanOf b).2 + 2
  let ph := if etypeOf b = 0x0800 then slice b (ip + 12) 8 ++ [0, 17] ++ beBytes 2 l
            else slice b (ip + 8) 32 ++ beBytes 4 l ++ [0, 0, 0, 17]
  let c := not16 (fold16 (ocSum (ph ++ slice b o 6 ++ [0, 0] ++ slice b (o + 8) (l - 8))))
  if c = 0 then 0xFFFF else c

def withUdpSum (b : Bytes) : Bytes :=
  match udpOff b with
  | none => b
  | some o => patch b (o + 6) (beBytes 2 (udpChecksum b o))

/-- The frame of a template in this minor frame. -/
def tplFrame (t : EthTpl) (s : State) : Bytes × State :=
  let r := t.map.foldl (putPoint 20 bETHL 11 t.le) (slice t.hdr 0 t.len, s)
  (if t.udpcsum then withUdpSum r.1 else r.1, r.2)

def tplDue (s : State) (t : EthTpl) : Bool := t.en && s.sched.mfn.toNat % max 1 t.period == t.phase

def sendTpl (p : Nat) (s : State) (t : EthTpl) : State :=
  let r := tplFrame t s
  portPut r.2 p { portGet r.2 p with txData := (portGet r.2 p).txData ++ [{ bytes := r.1 }] }

/-- The ports of the image in use. -/
def portsOn (s : State) : List Nat := (List.range 16).filter fun p => (ethCfg s p).en && (portGet s p).pen

/-- The transmit slot of ETHL: descriptors return, then data templates on a unit that drives the field, and MC1 frames. -/
def ethTransmit (s0 : State) : State :=
  let s := (s0.ethl.port.map (·.1)).foldl mc1Returns s0
  let due := fun p => (ethCfg s p).tpls.filter (tplDue s)
  let reads := if drives s then ((portsOn s).map fun p => ((due p).map fun t => t.map.map (·.point)).flatten).flatten else []
  match reads.find? fun x => !(inWindow s 20 (viewOut x) 16 false) with
  | some x => freeze 20 czWINDOW_R (viewOut x) (curSlot s 20) s
  | none =>
    (portsOn s).foldl (fun s p =>
      if frozenM s 20 then s
      else mc1Take p (portGet s p).txsize.toNat (if drives s then (due p).foldl (sendTpl p) s else s)) s

/-! ### Links, descriptors, registers -/


def finEth (d : HostDesc) (st data : Nat) (s : State) : State := finish bETHL 12 [stRANGE, stNOT_READY] d st data s

/-- The port's line is idle: ETH_PORTs that wait for it complete (R347). -/
def portIdle (p : Nat) (s : State) : State :=
  (portGet s p).drains.foldl (fun s d => finEth d stOK 0 s) (portPut s p { portGet s p with drains := [] })

/-- ETH_LINK_UP (R326). -/
def execEthLinkUp (p : Fin 16) (s : State) : Host.Outcome State Fault Refusal :=
  .next (
    let q := portGet s p
    if q.link then s else irqEdge 203 (portPut s p { q with link := true, sync := true, andone := (ethCfg s p).anen }))

/-- The 64 bytes of ETHL.PORT[p] (Table 11-9). -/
def portBytes (s : State) (p : Nat) : Bytes :=
  let q := portGet s p
  leBytes 4 (q.txan.toNat * 64 + b2n (ethCfg s p).macsec * 32 + b2n q.pnwarn * 16 + b2n q.andone * 8 + b2n q.sync * 4 +
    b2n q.link * 2 + b2n q.pen) ++ zeros 4 ++ leBytes 8 q.rxbase.toNat ++ leBytes 8 q.txbase.toNat ++
    leBytes 2 q.rxsize.toNat ++ leBytes 2 q.txsize.toNat ++ leBytes 2 q.rxhead.toNat ++ leBytes 2 q.txhead.toNat ++
    leBytes 8 q.rxfrm.toNat ++ leBytes 8 q.txfrm.toNat ++ leBytes 8 q.rxoct.toNat ++ leBytes 8 q.txoct.toNat

/-- The 64 bytes of ETHL.PTP[p] (Table 11-10). -/
def ptpBytes (s : State) (p : Nat) : Bytes :=
  let x := (portGet s p).ptp
  leBytes 4 (b2n x.nompd * 65536 + x.seq.toNat) ++ leBytes 4 x.pstate.toNat ++ leBytes 8 x.mpd.toNat ++
    leBytes 8 x.offset.toNat ++ leBytes 8 (nsOf x.t2 / 10 ^ 9) ++ leBytes 4 (nsOf x.t2 % 10 ^ 9) ++
    leBytes 2 (x.t2.toNat % 65536) ++ zeros 26

def effEthRead (d : HostDesc) (s : State) : State :=
  let p := d8 d 17
  if 1 < d8 d 16 ∨ 15 < p then finEth d stRANGE 0 s
  else finEth d stOK 0 (toHost (dAddr d) (if d8 d 16 = 0 then portBytes s p else ptpBytes s p) s)

/-- ETH_PORT (R347): a port goes down by drain, completing once it is IDLE, or comes up. -/
def effEthPort (d : HostDesc) (s : State) : State :=
  let p := d8 d 16
  if 1 < d8 d 17 ∨ 15 < p then finEth d stRANGE 0 s
  else if !(ethCfg s p).en then finEth d stNOT_READY 0 s
  else if d8 d 17 = 0 ∧ (portGet s p).wire.isSome then
    portPut s p { portGet s p with pen := false, drains := (portGet s p).drains ++ [d] }
  else finEth d stOK 0 (portPut s p { portGet s p with pen := d8 d 17 == 1 })

def execEthRead (d : HostDesc) (s : State) : Host.Outcome State Fault Refusal := .next (arrive effEthRead d s)
def execEthPort (d : HostDesc) (s : State) : Host.Outcome State Fault Refusal := .next (arrive effEthPort d s)

end Sys2Proof.Machine
end

