-- ==== Sys2Proof/Machine/Ptp.lean ====
section
/-! DEFINITION. The PTP engine of a port, and the reception and transmission of Ethernet frames
(11_ethernet_and_ptp.md). The message layout is that of IEEE 1588-2019. -/

namespace Sys2Proof.Machine

def ptpGet (s : State) (p : Nat) : PtpRegs := (portGet s p).ptp
def ptpPut (s : State) (p : Nat) (x : PtpRegs) : State := portPut s p { portGet s p with ptp := x }

/-! ### Messages -/

def mSync : Nat := 0
def mDelayReq : Nat := 1
def mPdelayReq : Nat := 2
def mPdelayResp : Nat := 3
def mFollowUp : Nat := 8
def mDelayResp : Nat := 9
def mPdelayFu : Nat := 10
def mAnnounce : Nat := 11

/-- The least length of a message type; none: reserved. -/
def msgLen (t : Nat) : Option Nat :=
  match t with
  | 0 | 1 | 8 => some 44
  | 2 | 3 | 9 | 10 => some 54
  | 11 => some 64
  | 12 => some 44
  | 13 => some 48
  | _ => none

def mType (b : Bytes) : Nat := u8 b 0 % 16
def mSeq (b : Bytes) : Nat := be16 b 30
/-- correctionField, in units of 2^-16 ns. -/
def mCorr (b : Bytes) : Int := sint 64 (be64 b 8)
/-- The timestamp at byte 34, in units of 2^-16 ns. -/
def mTime (b : Bytes) : Int := ((beNat (slice b 34 6) * 10 ^ 9 + be32 b 40) * 65536 : Nat)
def mSrc (b : Bytes) : Bytes := slice b 20 10
def mTwoStep (b : Bytes) : Bool := bit (u8 b 6) 1

/-- A malformed message (R338). -/
def malformed (b : Bytes) : Bool :=
  match msgLen (mType b) with
  | none => true
  | some n => decide (b.length < be16 b 2) || decide (be16 b 2 < n) || u8 b 1 % 16 != 2

/-- portIdentity: the clockIdentity and the port number p + 1. -/
def portId (s : State) (p : Nat) : Bytes := mramRead 0x51008 8 s ++ beBytes 2 (p + 1)

/-- A message: header (IEEE 1588-2019) and body. -/
def ptpMsg (s : State) (p t seq : Nat) (corr : Int) (logInt : Byte) (body : Bytes) : Bytes :=
  let g := ethCfg s p
  leBytes 1 (g.sdoid / 256 % 16 * 16 + t) ++ [0x12] ++ beBytes 2 (34 + body.length) ++ [g.domain, BitVec.ofNat 8 g.sdoid, 0, 0] ++
    beBytes 8 (BitVec.ofInt 64 corr).toNat ++ zeros 4 ++ portId s p ++ beBytes 2 seq ++ [0, logInt] ++ body

/-- The seconds and nanoseconds of a time as a Timestamp. -/
def stampBytes (t : Nat) : Bytes := beBytes 6 (t / 65536 / 10 ^ 9) ++ beBytes 4 (t / 65536 % 10 ^ 9)

/-- A message in the frame of the port's transport (Table 11-3). -/
def ptpFrame (s : State) (p : Nat) (peer event : Bool) (m : Bytes) : Bytes :=
  let g := ethCfg s p
  let tag := if bit g.ptpvid 15 then [0x81, 0x00] ++ beBytes 2 (g.ptpvid % 4096) else []
  let src := slice g.mac 0 6
  let port := if event then 319 else 320
  let udp := beBytes 2 port ++ beBytes 2 port ++ beBytes 2 (8 + m.length) ++ [0, 0] ++ m
  let ttl := if peer then 1 else Config.ptpTtl
  if g.transport = 0 then (if peer then macPeer else macPtp) ++ src ++ tag ++ [0x88, 0xF7] ++ m
  else if g.transport = 1 then
    let h : Bytes := [0x45, 0] ++ beBytes 2 (20 + udp.length) ++ [0, 0, 0, 0, ttl, 17, 0, 0] ++ slice g.ipsrc 0 4 ++
      (if peer then [224, 0, 0, 107] else [224, 0, 1, 129])
    withUdpSum (macIp4 peer ++ src ++ tag ++ [0x08, 0x00] ++ patch h 10 (beBytes 2 (not16 (fold16 (ocSum h)))) ++ udp)
  else
    let grp : Bytes := if peer then [0xFF, 0x02] ++ zeros 13 ++ [0x6B] else [0xFF, 0x0E] ++ zeros 12 ++ [0x01, 0x81]
    withUdpSum (macIp6 peer ++ src ++ tag ++ [0x86, 0xDD, 0x60, 0, 0, 0] ++ beBytes 2 udp.length ++ [17, ttl] ++
      slice g.ipsrc 0 16 ++ grp ++ udp)

/-- The offset of the message in a frame of the transport. -/
def ptpOff (tr : Nat) (b : Bytes) : Nat := if tr = 0 then (vlanOf b).2 + 2 else (udpOff b).getD 0 + 8

/-- A message waits for transmission. -/
def ptpQueue (p : Nat) (t : Nat) (m : Bytes) (rx : W128) (steps : W16) (s : State) : State :=
  let peer := t == mPdelayReq || t == mPdelayResp
  let event := decide (t < 4)
  let q := portGet s p
  portPut s p { q with txPtp := q.txPtp ++ [{ bytes := ptpFrame s p peer event m, ptp := some t, rx := rx, rxSteps := steps }] }

/-! ### Reception (R337, R338, R340) -/

def isSlave (x : PtpRegs) : Bool := x.pstate == 9 || x.pstate == 8

/-- A receive timestamp before use: INGRESS_LAT is taken off, to 0.125 ns (R334). -/
def rxStamp (s : State) (p : Nat) (cap : W64) (frac : BitVec 3) : W128 :=
  stampOf s cap frac - BitVec.ofNat 128 (ethCfg s p).ingress

/-- The mean path delay for a Sync with t2 − t1, if an exchange of its step count is complete (R340). -/
def ptpMpd (g : EthCfg) (x : PtpRegs) (d21 : Int) (steps : W16) : Option Int :=
  if g.p2p then
    match x.p2p with
    | some (d, k) => if k = steps then some d else none
    | none => none
  else
    match x.e2e with
    | some (d, k) => if k = steps then some (Int.fdiv (d21 + d) 2) else none
    | none => none

/-- A Sync is used: MPD and OFFSET are computed and passed to MC0 (R340). -/
def useSync (p seq : Nat) (t1 : Int) (t2 : W128) (steps : W16) (s : State) : State :=
  let g := ethCfg s p
  let x := ptpGet s p
  let d21 := (t2.toNat : Int) - t1
  let y := { x with seq := BitVec.ofNat 16 seq, t2 := t2, syncWait := none }
  match ptpMpd g x d21 steps with
  | some m => ptpPut s p { y with nompd := false, mpd := BitVec.ofInt 64 m, offset := BitVec.ofInt 64 (d21 - (m + g.asym)) }
  | none =>
    let w := freeWord s
    ptpPut w.2 p { y with nompd := true, offset := w.1 }

/-- A Sync in SLAVE or UNCALIBRATED. -/
def onSync (p : Nat) (m : Bytes) (t : W128) (steps : W16) (s : State) : State :=
  let x := ptpGet s p
  if !isSlave x then s
  else
    let s1 := countIf x.syncWait.isSome bETHL 8 s
    if mTwoStep m then ptpPut s1 p { x with syncWait := some (mSeq m, mCorr m, t, steps) }
    else useSync p (mSeq m) (mTime m + mCorr m) t steps s1

/-- A Follow_Up is paired with its Sync by sequenceId. -/
def onFollowUp (p : Nat) (m : Bytes) (_ : W128) (_ : W16) (s : State) : State :=
  let x := ptpGet s p
  if !isSlave x then s
  else match x.syncWait with
    | some (q, c, t2, k) => if q = mSeq m then useSync p q (mTime m + mCorr m + c) t2 k s else count bETHL 8 s
    | none => count bETHL 8 s

/-- Delay_Req frames of the port that await their Delay_Resp. -/
def respWaiting (q : EthPort) : Nat := (q.txPtp.filter fun x => x.ptp == some mDelayResp).length

/-- A Delay_Req is answered in MASTER: receiveTimestamp and, in correctionField, less its fraction. -/
def onDelayReq (p : Nat) (m : Bytes) (t : W128) (steps : W16) (s : State) : State :=
  if (ptpGet s p).pstate ≠ 6 then s
  else if 64 ≤ respWaiting (portGet s p) then count bETHL 8 s
  else
    ptpQueue p mDelayResp (ptpMsg s p mDelayResp (mSeq m) (mCorr m - (t.toNat % 65536 : Nat)) (ethCfg s p).logDreq
      (stampBytes t.toNat ++ mSrc m)) t steps s

/-- A Delay_Resp supplies t4 for the last Delay_Req (R340). -/
def onDelayResp (p : Nat) (m : Bytes) (_ : W128) (_ : W16) (s : State) : State :=
  let x := ptpGet s p
  match x.dreq with
  | some (q, t3, k) =>
    if isSlave x ∧ q = mSeq m ∧ slice m 44 10 = portId s p then
      ptpPut s p { x with e2e := some (mTime m - mCorr m - t3.toNat, k), dreq := none }
    else s
  | none => s

/-- A Pdelay_Req is answered in any state but DISABLED and FAULTY. -/
def onPdelayReq (p : Nat) (m : Bytes) (t : W128) (steps : W16) (s : State) : State :=
  let x := ptpGet s p
  if x.pstate = 3 ∨ x.pstate = 2 then s
  else
    ptpQueue p mPdelayResp (ptpMsg s p mPdelayResp (mSeq m) (mCorr m) 0x7F (zeros 10 ++ mSrc m)) t steps s

/-- A peer-delay exchange is complete (R340); timestamps of different step counts are not combined (R335). -/
def pdelayDone (p : Nat) (turn : Int) (t4 : W128) (steps : W16) (s : State) : State :=
  let x := ptpGet s p
  match x.pdreq with
  | some (_, t1, k) =>
    ptpPut s p {
      x with
      pdreq := none, pdWait := none,
      p2p := if k = steps then some (Int.fdiv (((t4.toNat : Int) - t1.toNat) - turn) 2, k) else x.p2p }
  | none => s

/-- A Pdelay_Resp of the port's exchange. -/
def onPdelayResp (p : Nat) (m : Bytes) (t : W128) (steps : W16) (s : State) : State :=
  let x := ptpGet s p
  match x.pdreq with
  | some (q, _, _) =>
    if q = mSeq m ∧ slice m 44 10 = portId s p then
      (if mTwoStep m then
        ptpPut (countIf x.pdWait.isSome bETHL 8 s) p { x with pdWait := some (q, mCorr m - mTime m, t, steps) }
      else pdelayDone p (mCorr m) t steps s)
    else s
  | none => s

/-- A Pdelay_Resp_Follow_Up is paired by sequenceId. -/
def onPdelayFu (p : Nat) (m : Bytes) (_ : W128) (_ : W16) (s : State) : State :=
  let x := ptpGet s p
  match x.pdWait with
  | some (q, c, t4, k) => if q = mSeq m then pdelayDone p (mTime m + mCorr m + c) t4 k s else count bETHL 8 s
  | none => count bETHL 8 s

/-- An Announce is passed to MC0. -/
def onAnnounce (p : Nat) (m : Bytes) (_ : W128) (_ : W16) (s : State) : State :=
  let x := ptpGet s p
  ptpPut s p { x with announces := x.announces ++ [m] }

/-- A recognised message: PTP records stop while the link is down (R326); a malformed one is counted (R338). -/
def ptpRx (f : Nat → Bytes → W128 → W16 → State → State) (p : Nat) (m : PtpRx) (s : State) : State :=
  if !portUp s p || !(ethCfg s p).ptp then s
  else if malformed m.msg then count bETHL 8 s
  else f p m.msg (rxStamp s p m.cap m.frac) (stepsAt s m.cap) s

/-- The message's effect by its type. -/
def onType (t : Nat) : Nat → Bytes → W128 → W16 → State → State :=
  match t with
  | 0 => onSync
  | 1 => onDelayReq
  | 2 => onPdelayReq
  | 3 => onPdelayResp
  | 8 => onFollowUp
  | 9 => onDelayResp
  | 10 => onPdelayFu
  | 11 => onAnnounce
  | _ => fun _ _ _ _ s => s

def execSync (p : Fin 16) (m : PtpRx) (s : State) : Host.Outcome State Fault Refusal := .next (ptpRx onSync p m s)
def execFollowUp (p : Fin 16) (m : PtpRx) (s : State) : Host.Outcome State Fault Refusal := .next (ptpRx onFollowUp p m s)
def execDelayReq (p : Fin 16) (m : PtpRx) (s : State) : Host.Outcome State Fault Refusal := .next (ptpRx onDelayReq p m s)
def execDelayResp (p : Fin 16) (m : PtpRx) (s : State) : Host.Outcome State Fault Refusal := .next (ptpRx onDelayResp p m s)
def execPdelayReq (p : Fin 16) (m : PtpRx) (s : State) : Host.Outcome State Fault Refusal := .next (ptpRx onPdelayReq p m s)
def execPdelayResp (p : Fin 16) (m : PtpRx) (s : State) : Host.Outcome State Fault Refusal := .next (ptpRx onPdelayResp p m s)
def execPdelayRespFollowUp (p : Fin 16) (m : PtpRx) (s : State) : Host.Outcome State Fault Refusal :=
  .next (ptpRx onPdelayFu p m s)
def execAnnounce (p : Fin 16) (m : PtpRx) (s : State) : Host.Outcome State Fault Refusal := .next (ptpRx onAnnounce p m s)

/-- FOLLOW_UP_TIMEOUT (R338): one Sync interval, or one Pdelay interval, has passed since the partner that waits, which is
discarded as unpaired. -/
def execFollowUpTimeout (w : PtpWait) (s : State) : Host.Outcome State Fault Refusal :=
  .next (
    let x := ptpGet s w.p
    if w.peer then countIf x.pdWait.isSome bETHL 8 (ptpPut s w.p { x with pdWait := none })
    else countIf x.syncWait.isSome bETHL 8 (ptpPut s w.p { x with syncWait := none }))

/-! ### Intervals (R337) -/

def ptpActive (s : State) (p : Nat) : Bool := portUp s p && (ethCfg s p).ptp

/-- The Sync interval of a MASTER port ends. -/
def execSyncInterval (p : Fin 16) (s : State) : Host.Outcome State Fault Refusal :=
  .next (
    let x := ptpGet s p
    if ptpActive s p ∧ x.pstate = 6 then
      ptpQueue p mSync (ptpMsg s p mSync x.seqSync.toNat 0 (ethCfg s p).logSync (zeros 10)) 0 0
        (ptpPut s p { x with seqSync := x.seqSync + 1 })
    else s)

/-- The Delay_Req interval of an E2E slave port ends. -/
def execDelayReqInterval (p : Fin 16) (s : State) : Host.Outcome State Fault Refusal :=
  .next (
    let x := ptpGet s p
    if ptpActive s p ∧ isSlave x ∧ !(ethCfg s p).p2p then
      ptpQueue p mDelayReq (ptpMsg s p mDelayReq x.seqReq.toNat 0 0x7F (zeros 10)) 0 0
        (ptpPut s p { x with seqReq := x.seqReq + 1 })
    else s)

/-- The Pdelay_Req interval of a P2P port ends. -/
def execPdelayReqInterval (p : Fin 16) (s : State) : Host.Outcome State Fault Refusal :=
  .next (
    let x := ptpGet s p
    if ptpActive s p ∧ (ethCfg s p).p2p then
      ptpQueue p mPdelayReq (ptpMsg s p mPdelayReq x.seqPdreq.toNat 0 0x7F (zeros 20)) 0 0
        (ptpPut s p { x with seqPdreq := x.seqPdreq + 1 })
    else s)

/-- The Announce interval of a MASTER port ends: its content comes from MC0's datasets, a free value. -/
def execAnnounceInterval (p : Fin 16) (s : State) : Host.Outcome State Fault Refusal :=
  .next (
    let x := ptpGet s p
    if ptpActive s p ∧ x.pstate = 6 then
      let r := randomBytes 30 s
      ptpQueue p mAnnounce (ptpMsg s p mAnnounce x.seqAnn.toNat 0 (ethCfg s p).logAnn r.1) 0 0
        (ptpPut r.2 p { x with seqAnn := x.seqAnn + 1 })
    else s)

/-! ### Frame reception (R324 to R328) -/

/-- The PTP message of a frame under the port's transport, domain and sdoId (R327). -/
def ptpOf (g : EthCfg) (b : Bytes) : Option Bytes :=
  let o := ptpOff g.transport b
  let m := b.drop o
  let carried :=
    if g.transport = 0 then etypeOf b == 0x88F7
    else (udpPort b == some 319 || udpPort b == some 320) && etypeOf b == (if g.transport = 1 then 0x0800 else 0x86DD)
  if g.ptp ∧ carried ∧ byteAt m 4 = g.domain ∧ u8 m 0 / 16 * 256 + u8 m 5 = g.sdoid ∧ mType m ≠ 12 ∧ mType m ≠ 13 then some m
  else none

/-- A frame after MACsec: to the PTP engine or by the rules (R327, R328). -/
def ethDeliver (p : Nat) (unprot secured : Bool) (f : EthRx) (b : Bytes) (s : State) : State :=
  let g := ethCfg s p
  match if unprot then none else ptpOf g b with
  | some m => ptpRx (onType (mType m)) p { msg := m, cap := f.cap, frac := f.frac } s
  | none =>
    match ruleOf g unprot b with
    | none => countIf unprot bETHL 6 s
    | some i =>
      match g.rules[i]? with
      | none => s
      | some r =>
        if unprot ∧ (r.target = 2 ∨ r.target = 3) then count bETHL 6 s
        else if r.target = 0 then s
        else rxQueue p { rule := i, bytes := b, ts := rxStamp s p f.cap f.frac, secured := secured, arr := s.time.tbc } s

/-- ETH_FRAME_RECEIVE. -/
def ethReceiveFrame (p : Nat) (f : EthRx) (s : State) : State :=
  let g := ethCfg s p
  let n := f.bytes.length + 4
  let q := portGet s p
  if !portUp s p then s
  else if !f.good then count bETHL 0 s
  else if n < 64 ∨ (if g.macsec then 1554 else 1522) < n then count bETHL 1 s
  else if be16 f.bytes 12 = 0x8808 then count bETHL 9 s
  else if !dstOk g f.bytes ∨ etypeOf f.bytes = 0x8100 then s
  else
    let s1 := portPut s p { q with rxfrm := q.rxfrm + 1, rxoct := q.rxoct + BitVec.ofNat 64 n }
    if !g.macsec then ethDeliver p false false f f.bytes s1
    else if be16 f.bytes 12 ≠ 0x88E5 then (if 1522 < n then count bETHL 1 s1 else ethDeliver p true false f f.bytes s1)
    else if s.sec.snuffed then count bETHL 4 s1
    else match macVerify s1 g (portGet s1 p) f.bytes with
      | .inr c => count bETHL c s1
      | .inl (i, b) =>
        let s2 := portPut s1 p (macAdvance g i f.bytes (portGet s1 p))
        if 1522 < b.length + 4 then count bETHL 1 s2
        else if etypeOf b = 0x8100 then s2 else ethDeliver p false true f b s2

def execEthFrameReceive (p : Fin 16) (f : EthRx) (s : State) : Host.Outcome State Fault Refusal :=
  .next (ethReceiveFrame p f s)

/-! ### Frame transmission (R332, R339) -/

/-- The order of PTP messages (R332). -/
def ptpRank (t : Nat) : Nat :=
  if t = mPdelayResp then 0 else if t = mDelayResp then 1 else if t = mSync then 2 else if t = mDelayReq then 3
  else if t = mPdelayReq then 4 else 5

/-- The first waiting PTP message of the lowest rank. -/
def firstPtp (l : List EthTx) : Option EthTx :=
  (List.range 6).findSome? fun r => l.find? fun x => ptpRank (x.ptp.getD 15) == r

/-- The message's fields completed as it leaves at `t` (R339). -/
def complete1 (x : EthTx) (t : W128) (m : Bytes) : Bytes :=
  match x.ptp with
  | some ty =>
    if ty = mSync ∨ ty = mDelayReq ∨ ty = mPdelayReq then
      patch (patch m 34 (stampBytes t.toNat)) 8 (beBytes 8 (BitVec.ofInt 64 (mCorr m + (t.toNat % 65536 : Nat))).toNat)
    else if ty = mPdelayResp then
      patch (patch m 34 (zeros 10)) 8 (beBytes 8 (BitVec.ofInt 64 (mCorr m + ((t.toNat : Int) - x.rx.toNat))).toNat)
    else m
  | none => m

/-- The sum over 16-bit words of the new ones and of the complements of the old ones, where they differ. -/
def changedSum : Bytes → Bytes → Nat
  | a :: b :: r, c :: d :: q =>
    (if a = c ∧ b = d then 0 else not16 (256 * a.toNat + b.toNat) + (256 * c.toNat + d.toNat)) + changedSum r q
  | _, _ => 0

/-- The incremental update of a UDP checksum (R339). -/
def updSum (old : Nat) (a b : Bytes) : Nat := not16 (fold16 (not16 old + changedSum a b))

/-- A PTP frame as it leaves. -/
def completeFrame (tr : Nat) (x : EthTx) (t : W128) : Bytes :=
  if x.ptp.isNone then x.bytes
  else
    let o := ptpOff tr x.bytes
    let m := x.bytes.drop o
    let m1 := complete1 x t m
    let f := x.bytes.take o ++ m1
    let c := be16 x.bytes (o - 2)
    if tr = 2 ∨ (tr = 1 ∧ c ≠ 0) then patch f (o - 2) (beBytes 2 (updSum c m m1)) else f

/-- The engine keeps the transmit timestamp of a request (R340). -/
def noteSent (p : Nat) (x : EthTx) (tr : Nat) (t : W128) (steps : W16) (s : State) : State :=
  let y := ptpGet s p
  let q := mSeq (x.bytes.drop (ptpOff tr x.bytes))
  if x.ptp = some mDelayReq then ptpPut s p { y with dreq := some (q, t, steps) }
  else if x.ptp = some mPdelayReq then
    ptpPut (countIf y.pdWait.isSome bETHL 8 s) p { y with pdreq := some (q, t, steps), pdWait := none }
  else s

/-- A frame starts, under MACsec where it is on: it is on the wire until its FCS has left, 8 ns a byte. -/
def ethOut (p : Nat) (x : EthTx) (t : W128) (steps : W16) (s : State) : State :=
  let g := ethCfg s p
  let b := completeFrame g.transport x t
  let r := if g.macsec then macSend p b s else (some b, s)
  let q := portGet r.2 p
  match r.1 with
  | none => portPut r.2 p (mc1Done x none q)
  | some f =>
    let w := padFrame f
    portPut r.2 p { q with wire := some {
      tx := x, bytes := w, ts := t, steps := steps, start := s.time.tbc,
      ends := s.time.tbc + BitVec.ofNat 64 (8 * (w.length + 4)) } }

/-- The frame on the wire has left: it is counted, its timestamp is kept, and its descriptor can return. -/
def wireDone (p : Nat) (s : State) : State :=
  let q := portGet s p
  match q.wire with
  | none => s
  | some w =>
    portIdle p (noteSent p w.tx (ethCfg s p).transport w.ts w.steps (emit (.eth p w.bytes) (portPut s p (mc1Done w.tx (some w.ts) {
      q with wire := none, txfrm := q.txfrm + 1, txoct := q.txoct + BitVec.ofNat 64 (w.bytes.length + 4) }))))

/-- Frames whose last bit leaves in this cycle. -/
def wiresTick (s : State) : State :=
  s.ethl.port.foldl (fun s kv =>
    match kv.2.wire with
    | some w => if w.ends.toNat ≤ s.time.tbc.toNat then wireDone kv.1 s else s
    | none => s) s

/-- The frame on the wire is cut short: its bytes so far have left, and it is not sent again. -/
def wireCut (p : Nat) (s : State) : State :=
  let q := portGet s p
  match q.wire with
  | none => s
  | some w =>
    portIdle p (emit (.ethCut p (w.bytes.take ((s.time.tbc - w.start).toNat / 8)))
      (portPut s p (mc1Done w.tx none { q with wire := none })))

/-- ETH_LINK_DOWN (R326): the frame on the wire, if any, is cut short. -/
def execEthLinkDown (p : Fin 16) (s : State) : Host.Outcome State Fault Refusal :=
  .next (
    let s1 := wiresTick s
    let q := portGet s1 p
    if q.link then
      irqEdge 203 (count bETHL (if q.wire.isSome then 13 else 10)
        (wireCut p (portPut s1 p { q with link := false, sync := false, andone := false })))
    else s1)

/-- ETH_FRAME_TRANSMIT (R332): the line is free, so the frame before has left, and the first waiting frame in order of
priority starts; `cap` is the counter captured at its timestamp point, as for a received frame. A Pdelay_Resp whose request has another step count is discarded
(R335). -/
def execEthFrameTransmit (p : Fin 16) (cap : W64) (frac : BitVec 3) (s0 : State) : Host.Outcome State Fault Refusal :=
  .next (
    let s := wireDone p s0
    let q := portGet s p
    let steps := stepsAt s cap
    let t := stampOf s cap frac + BitVec.ofNat 128 (ethCfg s p).egress
    if !portUp s p then s
    else match firstPtp q.txPtp with
      | some x =>
        let s1 := portPut s p { q with txPtp := q.txPtp.erase x }
        if x.ptp = some mPdelayResp ∧ x.rxSteps ≠ steps then s1 else ethOut p x t steps s1
      | none =>
        match q.txPair, q.txData, q.txMc1 with
        | x :: r, _, _ => ethOut p x t steps (portPut s p { q with txPair := r })
        | [], x :: r, _ => ethOut p x t steps (portPut s p { q with txData := r })
        | [], [], x :: r => ethOut p x t steps (portPut s p { q with txMc1 := r })
        | [], [], [] => s)

end Sys2Proof.Machine
end

