-- ==== Sys2Proof/Machine/Links.lean ====
section
/-! DEFINITION. The receive and transmit slots of the link masters (R60, R300, R329 to R333, R429) and the
firing of a trigger with its reference messages (R302, R358). -/

namespace Sys2Proof.Machine

/-- A frame that a rule delivers: TARGET 1 an MC1 ring, 2 staging, 3 PAIR's witness (Table 11-1). The body
of a Bugle follows the EtherType. -/
def ruleDeliver (p : Nat) (s : State) (x : EthItem) : State :=
  match (ethCfg s p).rules[x.rule]? with
  | none => s
  | some r =>
    if r.target = 1 then mc1Receive p x s
    else if r.target = 2 then ethStage p r x.rule x.bytes s
    else if r.target = 3 then
      (if s.pair.witsel ∧ s.pair.weth.toNat = p then bugle (slice x.bytes ((vlanOf x.bytes).2 + 2) 64) true s else s)
    else s

/-- The frames of a port that arrived at least 22 cycles before the slot (R60). -/
def ethPortReceive (s : State) (p : Nat) : State :=
  let q := portGet s p
  let come := fun (x : EthItem) => decide (x.arr.toNat + 22 ≤ s.time.tbc.toNat)
  let s1 := (q.rxq.filter come).foldl (ruleDeliver p)
    (portPut s p { q with rxq := q.rxq.filter fun x => !(come x) })
  (ethCfg s p).rules.zipIdx.foldl (ethLossOne p) s1

def ethReceiveSlot (s : State) : State := (portsOn s).foldl ethPortReceive s

/-- The master of a link, and whether its slots do their work. -/
def linkMaster : LinkMaster → Nat
  | .canl => 18
  | .mbus => 19
  | .ethl => 20
  | .pair => 22
def linkBlock : LinkMaster → Nat
  | .canl => bCANL
  | .mbus => bMBUS
  | .ethl => bETHL
  | .pair => bPAIR
/-- A slot of the link does its work: it is an active slot of the image (R19), the block is enabled and the master is not
frozen. -/
def linkRuns (m : LinkMaster) (s : State) : Bool := inSlotOf s (linkMaster m) && enOf s (linkBlock m) && !frozenM s (linkMaster m)

/-- RECEIVE_SLOT: PAIR takes mirror frames as they arrive. -/
def execReceiveSlot (m : LinkMaster) (s : State) : Host.Outcome State Fault Refusal :=
  .next (if !linkRuns m s then s else
    let s1 := slotReached (linkBlock m) s
    match m with
    | .canl => canReceive s1
    | .mbus => mbusReceive s1
    | .ethl => ethReceiveSlot s1
    | .pair => s1)

/-- TRANSMIT_SLOT. -/
def execTransmitSlot (m : LinkMaster) (s : State) : Host.Outcome State Fault Refusal :=
  .next (if !linkRuns m s then s else
    let s1 := slotReached (linkBlock m) s
    match m with
    | .canl => canTransmit s1
    | .mbus => mbusTransmit s1
    | .ethl => ethTransmit s1
    | .pair => pairTransmit s1)

/-- TRIGGER_FIRE (R358): the reference messages of its channels are loaded. -/
def execTriggerFire (n : Fin 32) (s : State) : Host.Outcome State Fault Refusal :=
  .next (if trigDue s n then loadRefs n (fireTrig n s) else s)

/-- A released CANL starts afresh: the exchanges that were open at the freeze are never evaluated (R69). -/
def canRestart (s : State) : State :=
  { s with canl := { s.canl with stn := s.canl.stn.map fun kv => (kv.1, { kv.2 with exs := [] }) } }

end Sys2Proof.Machine
end

