-- ==== Sys2Proof/Machine/Sched.lean ====
section
/-! DEFINITION. The installation of an image at start-up and at a switch (R75 to R80, R118, R159, R174, R185,
R285), the frame grid (R37, R38, R354), freezes and releases (R65, R69), and the image descriptors
(R70 to R72, R386). -/

namespace Sys2Proof.Machine

/-! ### Power domains that an image needs (Table 1-8) -/

def domReset (d : Nat) : Dom := { st := if d = 0 ∨ d = 1 ∨ d = 10 then 1 else 0 }
def domGet (s : State) (d : Nat) : Dom := tblGet s.pwr.doms d (domReset d)
def domPut (s : State) (d : Nat) (v : Dom) : State :=
  { s with pwr := { s.pwr with doms := tblPut s.pwr.doms d v (domReset d) } }

/-- The masters whose functions lie in a domain. -/
def domMasters (d : Nat) : List Nat :=
  match d with
  | 2 => [2, 3, 4, 5]
  | 3 => [6, 7, 8, 9]
  | 4 => [15]
  | 5 => [15]
  | 6 => [10, 11, 12, 13, 14, 16]
  | 7 => [18, 19, 22]
  | 8 => [20, 22]
  | 9 => [17]
  | 11 => [21]
  | _ => []

def imageNeeds (im : Image) (d : Nat) : Bool := (domMasters d).any (holdsBit im)

/-- NEED of every domain, by the running and the shadow image (Table 18-14). -/
def setNeeds (s : State) : State :=
  (List.range 12).foldl (fun s d =>
    domPut s d { domGet s d with
      need := [s.sched.image, s.sched.shadowImage].any fun o => match o with | some im => imageNeeds im d | none => false }) s

/-- A domain serves its functions. -/
def domOn (s : State) (d : Nat) : Bool := (domGet s d).st == 1
def domsUp (s : State) (im : Image) : Bool := (List.range 12).all fun d => !imageNeeds im d || domOn s d

/-- MC0 begins to power up what an image needs and is off (R70, R489). -/
def startDoms (im : Image) (s : State) : State :=
  (List.range 12).foldl (fun s d =>
    if imageNeeds im d && (domGet s d).st == 0 then domPut s d { domGet s d with st := 3 } else s) s

/-! ### Carry-over -/

/-- A table from a list of values, by index. -/
def tblOf {α : Type} [DecidableEq α] (l : List α) (d : α) : Tbl α := tblPutAll [] 0 l d

/-- The source of destination `i` under the COPY rules of a class (R77). DESIGN CHOICE (log entry 45): a destination that an
INIT rule of the class covers as well is copied. -/
def carryFrom (im : Image) (cls : Nat) (i : Nat) : Option Nat :=
  (im.carry.find? fun r => r.cls == cls && r.action == 0 && decide (r.dst ≤ i) && decide (i < r.dst + r.len)).map
    fun r => r.src + (i - r.dst)

/-! ### Points and staging (R77, R173, R174) -/

def imgPoints (im : Image) : Nat := u32 (sectOr im 0x10 0) 4

/-- The point of the old working copy that a new point keeps: only with the same TYPE. -/
def keptFrom (s : State) (im : Image) (p : Nat) : Option Nat :=
  match carryFrom im 1 p with
  | some q => if (workPt s q).typ ≠ 0 ∧ (workPt s q).typ = (imgPoint im p).typ then some q else none
  | none => none

/-- A record of the new working copy: carried, or initialised with quality INIT. STAMP follows R177. -/
def switchPt (s : State) (im : Image) (p : Nat) : Point :=
  let n := imgPoint im p
  if n.typ = 0 then pointUndef
  else
    let old := workPt s p
    let (v, q) := match keptFrom s im p with
      | some k => ((workPt s k).value, (workPt s k).qual)
      | none => (typeBits n.typ n.value, qINIT)
    { n with
      value := v, qual := q,
      stamp := if old.value = v ∧ old.qual = q then old.stamp else BitVec.ofNat 32 s.sched.mfn.toNat }

/-- An entry of the new staging map: kept, or initial. -/
def switchStage (s : State) (im : Image) (p : Nat) : Stage :=
  let n := imgPoint im p
  let q := (keptFrom s im p)
  match q.bind (entryOf s), q with
  | some e, some k =>
    if (workPt s k).owner = n.owner ∧ (workPt s k).cls = 0 then { tblGet s.pimg.staging e {} with point := p }
    else { value := typeBits n.typ n.value, point := p, qual := u8b n.qual }
  | _, some _ => { value := typeBits n.typ n.value, point := p, qual := u8b n.qual }
  | _, none => { value := typeBits n.typ n.value, point := p, qual := 5 }
where u8b (q : BitVec 3) : Byte := q.zeroExtend 8

def switchPoints (im : Image) (s : State) : State :=
  let n := imgPoints im
  let w := tblOf ((List.range n).map (switchPt s im)) pointUndef
  let st := (stageMap (sectOr im 0x10 0)).map (switchStage s im)
  let rel := tblOf ((List.range n).map fun p => match keptFrom s im p with
    | some k => (imgPoint im p).cls == 0 && tblGet s.pimg.released k false
    | none => false) false
  { s with pimg := { s.pimg with npoint := n, nstage := st.length, working := w, staging := tblOf st {}, released := rel } }

/-- Points at start-up: the records of the image in both copies, and their staging entries. -/
def startPoints (im : Image) (s : State) : State :=
  let n := imgPoints im
  let w := tblOf ((List.range n).map fun p =>
    let r := imgPoint im p
    { r with value := typeBits r.typ r.value }) pointUndef
  let st := (stageMap (sectOr im 0x10 0)).map fun p =>
    ({ value := typeBits (imgPoint im p).typ (imgPoint im p).value, point := p, qual := (imgPoint im p).qual.zeroExtend 8 } : Stage)
  { s with pimg := { npoint := n, nstage := st.length, working := w, frozen := w, staging := tblOf st {} } }

/-! ### Cells (R77, R78, R185, R189, R191, R223) -/

/-- The constant and variable images of a CDATA section. -/
def cellImage (cd : Bytes) : Bytes :=
  slice cd ((cdataOffs cd).getD 0 0) (u32 cd 8) ++ slice cd ((cdataOffs cd).getD 1 0) (u32 cd 12)

/-- An engine at start-up: initial memory, reset instances, edge detectors with FIRST := 1 (R223). -/
def startCell (im : Image) (e : Nat) : CellEng :=
  if !hasSect im 0x11 e then {}
  else
    let cd := sectOr im 0x12 e
    let cc := sectOr im 0x11 e
    { mode := BitVec.ofNat 2 (u8 cd 4), code := (codeWords cc).map (BitVec.ofNat 64), tasks := codeTasks cc,
      data := tblPutAll [] 0x100 (cellImage cd) 0, constLen := u32 cd 8, varLen := u32 cd 12,
      timers := tblOf (dirTimers cd) {}, edges := tblOf ((dirEdges cd).map fun x => { x with first := true }) {},
      nTimer := u16 cd 16, nEdge := u16 cd 18 }

/-- One MATCH rule for a timer of the new directory (R78): the instance, the reports, no match. -/
def matchTimer (old : Nat → CellEng) (n : Timer) (a : Timer × Nat × Bool) (r : CarryE) : Timer × Nat × Bool :=
  match (old r.seng).timers.find? fun kv => kv.2.hash == n.hash && kv.2.typ != 0 with
  | some (_, o) =>
    if o.typ = n.typ then ({ n with start := o.start, run := o.run, q := o.q, inPrev := o.inPrev }, a.2.1, false)
    else (n, a.2.1 + 1, false)
  | none => (n, a.2.1, true)

/-- The same for an edge detector. The pseudocode copies `previous` alone; DESIGN CHOICE (log entry 45): FIRST goes with it. -/
def matchEdge (old : Nat → CellEng) (n : EdgeDet) (a : EdgeDet × Nat × Bool) (r : CarryE) : EdgeDet × Nat × Bool :=
  match (old r.seng).edges.find? fun kv => kv.2.hash == n.hash && kv.2.typ != 0 with
  | some (_, o) =>
    if o.typ = n.typ then ({ n with prev := o.prev, first := o.first }, a.2.1, false)
    else (n, a.2.1 + 1, false)
  | none => ({ n with first := true }, a.2.1, true)

def matchRules (im : Image) (cls e : Nat) : List CarryE :=
  im.carry.filter fun r => r.cls == cls && r.action == 2 && r.deng == e

/-- The instances of a new engine with their reports. -/
def switchTimers (old : Nat → CellEng) (im : Image) (e : Nat) : List (Timer × Nat × Bool) :=
  (dirTimers (sectOr im 0x12 e)).map fun n => (matchRules im 3 e).foldl (matchTimer old n) (n, 0, true)
def switchEdges (old : Nat → CellEng) (im : Image) (e : Nat) : List (EdgeDet × Nat × Bool) :=
  (dirEdges (sectOr im 0x12 e)).map fun n => (matchRules im 4 e).foldl (matchEdge old n) ({ n with first := true }, 0, true)

/-- The data memory under the COPY rules of class 0x02. -/
def switchData (old : Nat → CellEng) (im : Image) (e : Nat) (d : Tbl Byte) : Tbl Byte :=
  (im.carry.filter fun r => r.cls == 2 && r.action == 0 && r.deng == e).foldl
    (fun d r => tblPutAll d r.dst (tblRange (old r.seng).data r.src r.len 0) 0) d

/-- A task of the new image: its counts stay where the engine had it; its first cycle has SWITCHED. -/
def switchTask (o : CellEng) (n : CellTask) : CellTask :=
  match o.tasks.find? fun k => k.task == n.task with
  | some k => { k with entry := n.entry, path := n.path, switched := true }
  | none => { n with switched := true }

/-- An engine at a switch; `held` says whether it held slots before. -/
def switchCell (old : Nat → CellEng) (im : Image) (held : Bool) (e : Nat) : CellEng × Nat :=
  let o := old e
  let n := startCell im e
  if !hasSect im 0x11 e then
    ({ o with code := [], tasks := [], data := [], constLen := 0, varLen := 0, timers := [], edges := [], nTimer := 0, nEdge := 0,
              inCyc := false, stepping := false, step := none, newInst := 0, typeRst := 0 }, 0)
  else
    let ts := switchTimers old im e
    let es := switchEdges old im e
    let rst := (ts.map fun x => x.2.1).sum + (es.map fun x => x.2.1).sum
    let new := (ts.filter fun x => x.2.2).length + (es.filter fun x => x.2.2).length
    ({ o with
       mode := if held then o.mode else n.mode, req := if held then o.req else none, code := n.code,
       tasks := n.tasks.map (switchTask o), data := switchData old im e n.data, constLen := n.constLen, varLen := n.varLen,
       timers := tblOf (ts.map fun x => x.1) {}, edges := tblOf (es.map fun x => x.1) {}, nTimer := n.nTimer, nEdge := n.nEdge,
       inCyc := false, stepping := false, newInst := BitVec.ofNat 16 new, typeRst := BitVec.ofNat 16 rst,
       step := match o.step with
         | some d => if n.tasks.any fun t => t.task.toNat == d16 d 20 then some d else none
         | none => none }, rst)

/-- A CELL_STEP whose task the switch removed completes DROPPED. -/
def stepDropped (o n : CellEng) (s : State) : State :=
  match o.step, n.step with
  | some d, none => complete d stDROPPED 0 s
  | _, _ => s

def switchCells (old im : Image) (s : State) : State :=
  let eng := fun e => engGet s e
  let r := (List.range 8).map fun e => (e, switchCell eng im (holdsBit old (2 + e)) e)
  let s1 := r.foldl (fun s x => stepDropped (eng x.1) x.2.1 (engPut s x.1 x.2.1)) s
  let total := (r.map fun x => x.2.2).sum
  countN bSCHED 5 total { s1 with sched := { s1.sched with typeResets := total } }

/-! ### Loops and axes (R77, R79, R231) -/

def initLoop (c : LoopCfg) : LoopSt := { mode := c.initMode }

def startLoops (im : Image) (s : State) : State :=
  (List.range 4).foldl (fun s e =>
    let cf := if hasSect im 0x18 e then loopCfgs (sectOr im 0x18 e) else []
    lpPut s e { cfgs := cf, st := tblOf (cf.map initLoop) {} }) s

/-- A loop at a switch: its carried state, or the initial one. -/
def switchLoop (s : State) (im : Image) (e i : Nat) (c : LoopCfg) : LoopSt :=
  match carryFrom im 5 (128 * e + i) with
  | some g => { lstGet s (g / 128) (g % 128) with req := (lstGet s e i).req }
  | none => { initLoop c with req := (lstGet s e i).req }

/-- The configuration comes from the new image, but a carried loop's UMAN goes with its state (R242). -/
def switchUman (s : State) (im : Image) (e i : Nat) (c : LoopCfg) : LoopCfg :=
  match carryFrom im 5 (128 * e + i) with
  | some g => { c with uman := (lcfg s (g / 128) (g % 128)).uman }
  | none => c

/-- LOOP_MODE and LOOP_PARAM descriptors of loops that the new image does not configure complete RANGE. -/
def loopsGone (old s : State) : State :=
  let modes := ((List.range 512).filter fun g => !loopExists s g).filterMap fun g => (lstGet old (g / 128) (g % 128)).req
  let gone := s.loops.params.filter fun b => b.pairs.any fun p => !loopExists s p.loop
  let s1 := { s with loops := { s.loops with params := s.loops.params.filter fun b => b.pairs.all fun p => loopExists s p.loop } }
  (modes ++ gone.map (·.desc)).foldl (fun s d => finLoop d stRANGE 0 s) s1

def switchLoops (im : Image) (s : State) : State :=
  let s1 := (List.range 4).foldl (fun t e =>
    let cf := if hasSect im 0x18 e then loopCfgs (sectOr im 0x18 e) else []
    lpPut t e { cfgs := cf.zipIdx.map fun p => switchUman s im e p.2 p.1,
                st := tblOf (cf.zipIdx.map fun p => switchLoop s im e p.2 p.1) {} }) s
  loopsGone s s1

def axisConfig (im : Image) (s : State) : State :=
  let b := sectOr im 0x19 0
  { s with axis := { s.axis with
      cfg := if hasSect im 0x19 0 then axisCfgs b else [], grpCfg := if hasSect im 0x19 0 then axisGroups b else [] } }

/-! ### Metering (R281, R285) -/

def metrConfig (im : Image) (s : State) : State :=
  let c := if hasSect im 0x1A 0 then metrCfgOf (sectOr im 0x1A 0) else {}
  theftConfig { s with metr := { s.metr with cfg := c } }

/-- A regular close falls at the switch instant. -/
def closeAtSwitch (s : State) : Bool :=
  s.metr.cfg.closeAt == 0 && s.sched.mfn.toNat % max 1 s.metr.cfg.intmf == 0

def switchMetr (im : Image) (s : State) : State :=
  let s1 := if metrRuns s && !closeAtSwitch s then closeInterval true s else s
  let s2 := metrConfig im s1
  if s2.metr.cfg.fs ≠ s.metr.cfg.fs then { s2 with metr := { s2.metr with settle := 64, codes := [] } } else s2

/-! ### Links (R80, R315) -/

def linksConfig (im : Image) (s : State) : State :=
  let b := sectOr im 0x14 0
  let has := hasSect im 0x14 0
  { s with
    canl := { s.canl with
      cfg := tblOf (if has then (canCfgs b).map (·.2) else []) {},
      tmpl := tblOf (if hasSect im 0x13 0 then (stnTmpls (sectOr im 0x13 0)).map (·.2) else []) {} },
    mbus := { s.mbus with cfg := tblOf (if has then (mbCfgs b).map (·.2) else []) {} },
    ethl := { s.ethl with cfg := tblOf (if has then (ethCfgs b).map (·.2) else []) {} } }

/-- A station slot as the image starts it (R77). -/
def initStation (t : StnTmpl) : Station := if t.chan = 0xFF then {} else { st := snINIT, uid := t.uid }

/-- The ports of the image in use are enabled, the others are not (R347, R500). -/
def portsConfig (s : State) : State :=
  (List.range 16).foldl (fun s p => portPut s p { portGet s p with pen := (ethCfg s p).en }) s

def startLinks (im : Image) (s : State) : State :=
  let s1 := linksConfig im s
  { s1 with canl := { s1.canl with stn := tblOf ((List.range 1024).map fun k => initStation (tmplOf s1 k)) {} } }

/-- What a removed station has in flight lies across the switch instant and ends DROPPED: its frames, its joins, its
LINK_EVICTs (R80). -/
def removeStation (k : Nat) (s : State) : State :=
  let t := tmplOf s k
  let s1 := if t.chan = 0xFF then s
    else (List.range t.ntx).foldl (fun s i => dropBuf t.chan.toNat (t.tbuf + i) s)
      ((s.canl.joins.filter fun j => j.slot == k).foldl (fun s j => irqEdge 201 (dropJoin j s)) s)
  (stnGet s k).evicts.foldl (fun s d => finCan d stDROPPED 0 s) (stnPut s1 k { stnGet s1 k with evicts := [] })

/-- The old slot whose station slot `k` of the new image keeps: under a COPY rule, with a template in both images. An added
station starts INIT, and one without a template in the new image is removed (R77, R80). -/
def stnKept (im : Image) (old new : State) (k : Nat) : Option Nat :=
  (carryFrom im 6 k).filter fun q => (tmplOf old q).chan != 0xFF && (tmplOf new k).chan != 0xFF

/-- The session of a slot at the switch: it moves with a copied station; the session table is otherwise unchanged (R79). -/
def switchSess (s : State) (kept : Nat → Option Nat) (moved : Bool) (k : Nat) : Sess :=
  match kept k with
  | some q => { sessGet s q with ref := if (sessGet s q).kind = 1 then BitVec.ofNat 16 k else (sessGet s q).ref }
  | none => if moved then {} else sessGet s k

/-- The stations that no COPY rule carries leave; the joins of carried slots go on. -/
def switchStations (im : Image) (s0 : State) : State :=
  let kept := stnKept im s0 (linksConfig im s0)
  let carried := fun q => (List.range 1024).find? fun k => kept k == some q
  let s := (List.range 1024).foldl (fun s k => if (carried k).isSome then s else removeStation k s) s0
  let s1 := linksConfig im s
  let stn := (List.range 1024).map fun k => match kept k with
    | some q => stnGet s q
    | none => initStation (tmplOf s1 k)
  let sess := (List.range 1024).map fun k => switchSess s kept (carried k).isSome k
  let s2 := { s1 with
    canl := { s1.canl with
      stn := tblOf stn {},
      joins := s.canl.joins.filterMap (fun j => (carried j.slot).map fun k => { j with slot := k }),
      accepts := s.canl.accepts.filterMap fun j => (carried j.slot).map fun k => { j with slot := k } } }
  sess.zipIdx.foldl (fun s p => sessPut s p.2 p.1) s2

/-- A link master whose configuration the switch changes starts from its initial state. -/
def switchMasters (old new : State) : State :=
  let mb := (List.range 6).foldl (fun s k => if mbCfg old k = mbCfg new k then s else mbPut s k {}) new
  (List.range 16).foldl (fun s p =>
    let q := portGet s p
    let q1 := { q with pen := if (ethCfg old p).en = (ethCfg s p).en then q.pen else (ethCfg s p).en }
    portPut s p (if ethCfg old p = ethCfg s p then q1 else { q1 with rxq := [], loss := [], txData := [] })) mb

def switchLinks (im : Image) (s : State) : State := switchMasters s (switchStations im s)

/-! ### Solver and parcels (R80, R118, R159) -/

def startSolver (im : Image) (s : State) : State :=
  let s1 := (List.range 4).foldl (fun s k => match sectAt im 0x20 k with
    | some b => beginLoad k b true none s
    | none => s) s
  match sectAt im 0x21 0 with
  | some b => beginParc b s1
  | none => s1

/-- What a slot's waiting descriptors get when its structure goes: SOLV_RELOAD is DROPPED. -/
def slotLeaves (k : Nat) (s : State) : State :=
  match (slotGet s k).reload with
  | some d => finSolv d stDROPPED 0 (slotPut s k { slotGet s k with reload := none })
  | none => s

/-- One structure slot: kept, loaded afresh, or retired. DESIGN CHOICE (log entry 45): a slot under a COPY rule that is not
READY, loading or failed, is loaded afresh even when its signature is equal. -/
def switchSlot (old : State) (im : Image) (s : State) (k : Nat) : State :=
  let from_ := (carryFrom im 7 k).map (slotGet old)
  let o := slotGet old k
  let goes := fun (q : SSlot) => dropDeltas k (slotPut s k { q with writing := o.writing, deltas := o.deltas })
  match sectAt im 0x20 k with
  | none => goes {}
  | some b =>
    match from_ with
    | some q =>
      if q.st = ssREADY ∧ (q.desc.map (·.sig)) = some (parseStruct b).sig then
        keepSlot k b (if carryFrom im 7 k = some k then slotPut s k q else slotPut (goes {}) k { q with writing := none, deltas := [] })
      else beginLoad k b true none (goes {})
    | none => beginLoad k b true none (goes {})

/-- A slot kept where it was, with the same task: its held results are still published. -/
def heldStays (s : State) (im : Image) (h : SHeld) : Bool :=
  carryFrom im 7 h.slot == some h.slot && (slotGet s h.slot).st == ssREADY &&
  ((sectAt im 0x20 h.slot).map fun b => (parseStruct b).sig) == some (structOf s h.slot).sig &&
  im.ltasks.any fun t => t.master == 15 && t.task == h.task.toNat && t.sslot == h.slot

/-- Runs have ended before a switch (R74); what is held for a slot that goes is posted unpublished; SOLV_RUNs of tasks that
the new image lacks complete RANGE. -/
def switchSolver (im : Image) (s0 : State) : State :=
  let s1 := s0.solv.runs.foldl finishRun s0
  let gone := s1.solv.held.filter fun h => !heldStays s1 im h
  let s2 := gone.foldl (publishHeld false)
    { s1 with solv := { s1.solv with held := s1.solv.held.filter fun h => heldStays s1 im h } }
  let lost := fun (d : HostDesc) => !(im.ltasks.any fun t => t.master == 15 && t.task == d16 d 20 && t.sslot == d8 d 16)
  let s3 := (s2.solv.hostRuns.filter lost).foldl (fun s d => finSolv d stRANGE 0 s)
    { s2 with solv := { s2.solv with hostRuns := s2.solv.hostRuns.filter fun d => !lost d } }
  let s4 := (List.range 4).foldl (fun s k => slotLeaves k s) s3
  (List.range 4).foldl (switchSlot s4 im) s4

def switchParc (im : Image) (s : State) : State :=
  match sectAt im 0x21 0 with
  | none => { s with parc := {} }
  | some b =>
    if (im.carry.any fun r => r.cls == 8 && r.action == 0 && decide (0 < r.len)) && s.parc.cfgSt == pcREADY &&
        (parseParc b).psig == s.parc.psig
    then keepParc b s else beginParc b s

/-! ### The running image -/

def firstMasters (b : Nat) (im : Image) : Bool := (mastersOf b).any (holdsBit im)

/-- MC0 sets EN of the blocks that an image names (Table 1-11). -/
def enableBlocks (im : Image) (s : State) : State :=
  (List.range 21).foldl (fun s b => if firstMasters b im then enable s b else s) s

/-- What a change of EN to 0 starts, beyond the drain that each function carries out itself. -/
def enFalls (b : Nat) (s : State) : State :=
  if b = bSOLV then solvDisable s
  else if b = bPARC then parcDisable s
  else if b = bMETR then { s with metr := { s.metr with stopping := s.metr.started, short := true } }
  else if b = bRTC then { s with rtc := { s.rtc with draining := true } }
  else s

/-- At a switch: blocks that gain slots are enabled, and blocks left without slots are disabled (R33, R75). A single
master of a shared block is out of work without slots, and its domain may go (R34, `domIdle`). -/
def switchBlocks (old im : Image) (s : State) : State :=
  (List.range 21).foldl (fun s b =>
    if firstMasters b im && !firstMasters b old then enable s b
    else if firstMasters b old && !firstMasters b im && enOf s b then enFalls b (setEn s b false) else s) s

/-- The registers and digests of the running image (Tables 2-19, 2-20, 14-8). -/
def setImage (im : Image) (s : State) : State :=
  let sig := (im.dir.getLast?.map (·.off)).getD 0
  let cc := ((List.range 8).filterMap fun e => (sectAt im 0x11 e).map fun b => leBytes 2 e ++ b).flatten
  { s with sched := { s.sched with
      image := some im, actId := im.imgId, frameL := BitVec.ofNat 32 im.l, majM := BitVec.ofNat 17 im.m,
      imgDig := BitVec.ofNat 384 (beNat (sha384 (im.bytes.take sig))), cellDig := BitVec.ofNat 384 (beNat (sha384 cc)) } }

/-- The domains that the image of a start needs are powered (R489, R497). -/
def bootDoms (im : Image) (s : State) : State :=
  (List.range 12).foldl (fun s d =>
    if imageNeeds im d && !domOn s d then domPut s d { domGet s d with st := 1, upcnt := (domGet s d).upcnt + 1 } else s) s

/-- Stage 3 ends with an image (R497): it is loaded into bank A, its sections are installed and its
structure loads begin. -/
def bootImage (im : Image) (s : State) : State :=
  let s1 := setNeeds (bootDoms im (setImage im { s with sched := { s.sched with bank := false } }))
  let s2 := (List.range 8).foldl (fun s e => engPut s e (startCell im e)) (startPoints im s1)
  enableBlocks im (startSolver im (startLinks im (lossRecord (metrConfig im (axisConfig im (startLoops im s2))))))

/-! ### Frames -/

/-- The count of major frames goes on, once for each boundary (R38). -/
def majorFrame (s : State) : State :=
  if s.sched.run && mIndex s == 0 && s.sched.majMfn != some s.sched.mfn then
    { s with sched := { s.sched with kmf := s.sched.kmf + 1, majMfn := some s.sched.mfn } }
  else s

/-- The pending switch takes place at the boundary after this frame. -/
def endsInSwitch (s : State) : Bool := s.sched.committed && s.sched.mfn + 1 == s.sched.swMfn

/-- R76: the frame that starts at a switch boundary has the new L, and with a changed L the new ORIGIN. -/
def newGrid (s : State) : Nat × State :=
  match (if endsInSwitch s then s.sched.shadowImage else none) with
  | some im => (im.l, if im.l = s.sched.frameL.toNat then s else { s with time := { s.time with origin := s.time.nextInst } })
  | none => (s.sched.frameL.toNat, s)

/-- The role at the start of the schedule, with its completion of cause 4 (R437, R501). -/
def roleAtStart (s : State) : State :=
  if !s.pair.mode then s
  else if s.sys.partnerActive then joinPartner s
  else if s.pair.ringEn then
    unsolicited s.pair.ring.toNat bPAIR stOK (s.pair.cseq.toNat % 2 ^ 48 + s.pair.role.toNat * 2 ^ 48 + 4 * 2 ^ 56) s
  else s

/-- The first minor frame of the schedule (R502): its MFN is set by STAGE_RUN or, for a unit that joins an ACTIVE
partner, goes on from the partner's HELLO (R441). -/
def firstFrame (s : State) : State :=
  let m := max 1 s.sched.majM.toNat
  let s1 := match s.pair.hello, s.sys.partnerActive with
    | some h, true =>
      let n := h.mfn.toNat + (s.time.tbc.toNat - h.arr.toNat + s.sched.frameL.toNat / 2) / max 1 s.sched.frameL.toNat
      let base := h.mfnBase.toNat
      { s with sched := { s.sched with
          mfn := BitVec.ofNat 64 n, mfnBase := h.mfnBase,
          kmf := h.kmf + BitVec.ofNat 64 ((n - base) / m - (h.mfn.toNat - base) / m) } }
    | _, _ => s
  roleAtStart
    { s1 with sched := { s1.sched with run := true, majMfn := some s1.sched.mfn }, sys := { s1.sys with startTbc := s.time.tbc } }

/-- MINOR_FRAME_START (R354): once the schedule is enabled, MFN, the grid, TRIG_0, the refresh demand, and the pair. -/
def minorFrame (mr4High : Bool) (s : State) : State :=
  let g := newGrid s
  let s1 := if s.sched.run then { g.2 with sched := { g.2.sched with mfn := s.sched.mfn + 1 } } else firstFrame s
  let s2 := gridStart g.1 false { s1 with
    sched := { s1.sched with cyc := 0 }, pimg := { s1.pimg with openSpan := false, snapDone := false } }
  pairFrameStart (countIf mr4High bSCHED 6 (latchTsref (trig0Frame s2)))

def execMinorFrameStart (mr4High : Bool) (s : State) : Host.Outcome State Fault Refusal :=
  .next (if enOf s bSCHED && s.sched.image.isSome then minorFrame mr4High s else s)

def execMajorFrameBoundary (s : State) : Host.Outcome State Fault Refusal := .next (majorFrame s)

/-! ### Releases (R69, R75) -/

/-- A freeze ends: recorded in Lantern, MC1 as after reset (R227), the waiting UNFREEZEs complete. -/
def unfreezeMaster (m : Nat) (s : State) : State :=
  let ds := (s.sched.releases.filter fun r => r.master == m).filterMap (·.desc)
  let s0 := { s with sched := { s.sched with releases := s.sched.releases.filter fun r => r.master != m } }
  if !frozenM s m then s0
  else
    let s1 := lantern 0x0302 0 (leBytes 1 m ++ leBytes 8 s.sched.mfn.toNat)
      { s0 with sched := { s0.sched with frozen := tblPut s0.sched.frozen m false false } }
    let s2 := if m = 1 then { s1 with mc1 := mc1Restart s1.mc1 } else if m = 18 then canRestart s1 else s1
    ds.foldl (fun s d => complete d stOK s.sched.mfn.toNat s) s2

/-- FREEZE_RELEASE: at a major-frame boundary, a master whose release has been asked for. -/
def execFreezeRelease (m : Fin 25) (s : State) : Host.Outcome State Fault Refusal :=
  .next (if (s.sched.releases.any fun r => r.master == m.val) && mIndex s == 0 then unfreezeMaster m.val s else s)

/-- OVERRUN (R65): the request still outstanding reads or writes an address; where that lies outside the master's windows
as well, the cause is WINDOW_W or WINDOW_R (R66). -/
def execOverrun (m : Fin 25) (req : FabricReq) (s : State) : Host.Outcome State Fault Refusal :=
  .next (if 2 ≤ m.val ∧ holdsSlots s m.val then
      freeze m.val (if inWindow s m.val req.addr.toNat 1 req.write then czOVERRUN else if req.write then czWINDOW_W else czWINDOW_R)
        req.addr.toNat (curSlot s m.val) s
    else s)

/-! ### The switch (R73 to R80, Table 2-13) -/

/-- SWITCH_RESERVE: the pending switch is committed; SOLV and PARC end their work (R74), and the frame is not
shortened by the grid (R354). -/
def execSwitchReserve (s : State) : Host.Outcome State Fault Refusal :=
  .next (if s.sched.run && s.sched.switchPend && s.sched.mfn + 1 == s.sched.swMfn then
    let s1 := parcInterrupt (cutRuns 5 { s with sched := { s.sched with committed := true } })
    { s1 with time := { s1.time with frameLen := if s1.time.frameLen.toNat < s1.sched.frameL.toNat then s1.sched.frameL else s1.time.frameLen } }
  else s)

/-- The slot entries and the code section of a master are those of the old image (R75). -/
def masterSame (old im : Image) (m : Nat) : Bool :=
  (old.slots.filter fun e => e.master == m) == (im.slots.filter fun e => e.master == m) &&
  (!(decide (2 ≤ m) && decide (m ≤ 9)) || sectAt old 0x11 (m - 2) == sectAt im 0x11 (m - 2))

/-- The new image's sections over the state of the old one. -/
def carryOver (old im : Image) (s : State) : State :=
  switchParc im (switchSolver im (switchLinks im (switchMetr im (axisConfig im (switchLoops im
    (switchCells old im (switchPoints im s)))))))

/-- The image becomes the running one; the old one's bank is the shadow. -/
def activate (old im : Image) (s : State) : State :=
  let s1 := setImage im { s with sched := { s.sched with
    bank := !s.sched.bank, switchPend := false, shadowReady := false, committed := false, mfnBase := s.sched.mfn, swMfn := 0,
    shadow := [], shadowImage := none, shdId := 0, switchDesc := none } }
  let s2 := majorFrame (setNeeds (switchBlocks old im s1))
  (List.range 25).foldl (fun s m => if frozenM s m && !masterSame old im m then unfreezeMaster m s else s) s2

def newImage (old im : Image) (s : State) : State :=
  let s1 := activate old im (carryOver old im s)
  let s2 := irqEdge 193 (lantern 0x0303 0 (leBytes 8 old.imgId.toNat ++ leBytes 8 im.imgId.toNat ++ leBytes 8 s.sched.mfn.toNat) s1)
  let s3 := if s2.pair.role = rSTANDBY then enterCopying s2 else s2
  match s.sched.switchDesc with
  | some d => complete d stOK (s.sched.mfn.toNat % 2 ^ 48 + min 65535 s2.sched.typeResets * 2 ^ 48) s3
  | none => s3

/-- NEW_IMAGE_ACTIVE: in the first cycle of frame B of a committed switch. -/
def execNewImageActive (s : State) : Host.Outcome State Fault Refusal :=
  .next (match s.sched.image, s.sched.shadowImage with
    | some old, some im => if s.sched.committed && s.sched.mfn == s.sched.swMfn then newImage old im s else s
    | _, _ => s)

/-! ### Image descriptors (R70 to R72, R386) -/

/-- HIF.CNT[7] counts what SCHED does not. -/
def finGen (d : HostDesc) (st data : Nat) (s : State) : State := complete d st data (countIf (st != stOK) bHIF 7 s)

/-- A refused switch request (R71). -/
def refuseSwitch (d : HostDesc) (st data : Nat) (s : State) : State := complete d st data (count bSCHED 4 s)

def noImage (s : State) : Bool := s.sys.stage == 0xE

def effNop (d : HostDesc) (s : State) : State := finGen d stOK s.hif.slotMfn.toNat s

/-- IMAGE_LOAD: bytes into the shadow bank; LAST starts the checks. -/
def effImageLoad (d : HostDesc) (s : State) : State :=
  let len := d32 d 20
  let off := d64 d 24
  if s.sched.switchPend || s.sched.checking.isSome then finGen d stBUSY 0 s
  else if len < 64 ∨ 16777216 < len ∨ len % 64 ≠ 0 ∨ off % 64 ≠ 0 ∨ 2 ^ 28 < off + len then finGen d stRANGE 0 s
  else
    let s1 := { s with sched := { s.sched with
      shadow := patch s.sched.shadow off (slice d.buf 0 len), shadowReady := false, shadowImage := none, shdId := 0 } }
    if bit (d8 d 16) 0 then { s1 with sched := { s1.sched with checking := some d } } else finGen d stOK 0 s1

/-- A shadow image that has passed: SHADOW_READY once its domains are on (R70, R489). -/
def shadowPassed (im : Image) (s : State) : State :=
  let s1 := setNeeds (startDoms im { s with sched := { s.sched with shadowImage := some im, shdId := im.imgId } })
  { s1 with sched := { s1.sched with shadowReady := domsUp s1 im } }

/-- IMAGE_CHECK_COMPLETE (R61, R70, R499). -/
def execImageCheckComplete (s : State) : Host.Outcome State Fault Refusal :=
  .next (match s.sched.checking with
    | none => s
    | some d =>
      let b := s.sched.shadow
      let r := checkImage s (noImage s) b
      let s1 := checked r { s with sched := { s.sched with checking := none } }
      if r.1 = 3 ∨ r.1 = 4 then complete d stAUTH_FAIL r.1 s1
      else if r.1 ≠ 0 then complete d stREFUSED r.1 s1
      else if noImage s then
        complete d stOK 0 (bootImage (parseImage b) { s1 with sys := { s1.sys with stage := 3, imgB := true } })
      else complete d stOK 0 (shadowPassed (parseImage b) s1))

/-- The deadline of R71 and R72: before cycle L − 65,536 of minor frame B − 1. -/
def beforeReserve (s : State) (b : Nat) : Bool :=
  decide (s.sched.mfn.toNat + 1 < b) ||
  (s.sched.mfn.toNat + 1 == b && decide (s.sched.cyc.toNat + 65536 < s.sched.frameL.toNat))

/-- The boundary that a switch request names: 0 takes the first one that meets the deadline. -/
def switchTarget (s : State) (b : Nat) : Nat :=
  if b = 0 then
    let m := max 1 s.sched.majM.toNat
    let base := s.sched.mfnBase.toNat
    let c := base + ((s.sched.mfn.toNat - base) / m + 1) * m
    if beforeReserve s c then c else c + m
  else b

def isBoundary (s : State) (b : Nat) : Bool :=
  decide (s.sched.mfnBase.toNat < b) && (b - s.sched.mfnBase.toNat) % max 1 s.sched.majM.toNat == 0

/-- IMAGE_SWITCH. -/
def effImageSwitch (d : HostDesc) (s : State) : State :=
  let b := switchTarget s (d64 d 24)
  if s.sched.switchPend then refuseSwitch d stBUSY 0 s
  else match s.sched.image, s.sched.shadowImage with
    | some old, some im =>
      if !s.sched.shadowReady || !s.sched.run then refuseSwitch d stNOT_READY 0 s
      else if !bit im.flags 1 then refuseSwitch d stREFUSED 0 s
      else
        let r := checkCarry old im
        let s1 := { s with sched := { s.sched with chkRes := BitVec.ofNat 8 r.1, chkItem := BitVec.ofNat 24 r.2 } }
        if r.1 ≠ 0 then refuseSwitch d stREFUSED r.1 s1
        else if !isBoundary s b || !beforeReserve s b then refuseSwitch d stRANGE 0 s1
        else { s1 with sched := { s1.sched with switchPend := true, swMfn := BitVec.ofNat 64 b, switchDesc := some d } }
    | _, _ => refuseSwitch d stNOT_READY 0 s

/-- IMAGE_ABORT: the withdrawn IMAGE_SWITCH completes DROPPED. -/
def effImageAbort (d : HostDesc) (s : State) : State :=
  if !s.sched.switchPend then finGen d stNOT_READY 0 s
  else if s.sched.committed || !beforeReserve s s.sched.swMfn.toNat then finGen d stRANGE 0 s
  else
    let s1 := { s with sched := { s.sched with switchPend := false, swMfn := 0, switchDesc := none } }
    finGen d stOK 0 (match s.sched.switchDesc with | some w => finGen w stDROPPED 0 s1 | none => s1)

/-- UNFREEZE waits for the next major-frame boundary. -/
def effUnfreeze (d : HostDesc) (s : State) : State :=
  let m := d8 d 16
  if m < 1 ∨ 24 < m then finGen d stRANGE 0 s
  else if !frozenM s m then finGen d stNOT_READY 0 s
  else { s with sched := { s.sched with releases := s.sched.releases ++ [{ master := m, desc := some d }] } }

def execDNop (d : HostDesc) (s : State) : Host.Outcome State Fault Refusal := .next (arrive effNop d s)
def execImageLoad (d : HostDesc) (s : State) : Host.Outcome State Fault Refusal := .next (arrive effImageLoad d s)
def execImageSwitch (d : HostDesc) (s : State) : Host.Outcome State Fault Refusal := .next (arrive effImageSwitch d s)
def execImageAbort (d : HostDesc) (s : State) : Host.Outcome State Fault Refusal := .next (arrive effImageAbort d s)
def execUnfreeze (d : HostDesc) (s : State) : Host.Outcome State Fault Refusal := .next (arrive effUnfreeze d s)

end Sys2Proof.Machine
end

