-- ==== Sys2Proof/Machine/Power.lean ====
section
/-! DEFINITION. Power failure, resets, power domains and start-up (18_power_reset_startup.md). -/

namespace Sys2Proof.Machine

/-! ### Power failure (R278, R453, R481, R487, R488) -/

/-- The queued Lantern records are written in order. -/
def lanFlush : Nat → State → State
  | 0, s => s
  | k + 1, s => lanFlush k (lanOne s)

/-- The record of the power failure goes before the queued ones. -/
def lanPowerFail (s : State) : State :=
  let q := s.recs.queue
  let s1 := lantern 0x0F01 0 [] { s with recs := { s.recs with queue := [] } }
  let s2 := { s1 with recs := { s1.recs with queue := s1.recs.queue ++ q } }
  let s3 := lanFlush s2.recs.queue.length s2
  { s3 with recs := { s3.recs with optSaved := s3.recs.opt, optDue := false } }

/-- The save sequence of Table 18-2, ending in PFLOCK; nothing is left to save while PFLOCK holds. -/
def saveSequence (s : State) : State :=
  if s.pwr.pflock then s
  else
    let s1 := metrPowerFail { s with pwr := { s.pwr with pfTime := rtcTicks s } }
    let s2 := lanPowerFail ((List.range 16).foldl (fun s n => axRetain n (axMoving s n) s) s1)
    let s3 := pnlPowerFail s2
    { s3 with pwr := { s3.pwr with pflock := true } }

/-- POWER_FAILURE: a low of 1 µs or more. -/
def execPowerFailure (s : State) : Host.Outcome State Fault Refusal :=
  .next (if !awake s ∨ s.pwr.pflock then s else saveSequence (count bPWR 0 s))

/-- PWRFAIL_RISE without a reset; a requested SYSRST keeps PFLOCK (R494). -/
def execPwrfailRise (s : State) : Host.Outcome State Fault Refusal :=
  .next (
    if s.pwr.pflock && s.sys.rstReq.isNone then
      pnlResume (metrResume (count bPWR 1 { s with pwr := { s.pwr with pflock := false } }))
    else s)

/-- PWRFAIL_N_GLITCH (R487). -/
def execPwrfailNGlitch (s : State) : Host.Outcome State Fault Refusal := .next (count bPWR 3 s)

/-! ### What a reset keeps (Table 18-5) -/

/-- Lantern, the audit log and the history store lie in MRAM and NAND. An interrupted erase is done again, and the
block of an interrupted refresh copy is erased. -/
def resetRec (r : RecRegs) : RecRegs :=
  let again := match r.op with | some (.erase b) => [b] | _ => []
  let part := match r.copying with | some j => [j.dst] | none => []
  {
    lseq := r.lseq, lfatal := r.lfatal, lfrozen := r.lfrozen, lleft := r.lleft, opt := r.optSaved, optSaved := r.optSaved,
    pcyc := r.pcyc, audNext := r.audNext, audFirst := r.audFirst, audCap := r.audCap, audPages := r.audPages,
    journal := r.journal, audGap := r.audGap, clearProg := r.clearProg, eraseQ := again ++ r.eraseQ ++ part,
    audBlk := r.audBlk, histBlk := r.histBlk, hseqNext := r.hseqNext, hseqFirst := r.hseqFirst, hist := r.hist }

def resetNvm (n : NvmRegs) : NvmRegs :=
  {
    tagLock := n.tagLock, endur := n.endur, rdlim := n.rdlim, passStart := n.passStart, passEnd := n.passEnd,
    patrol := n.patrol, blocks := n.blocks, onfiId := n.onfiId }

def resetMetr (m : MetrRegs) : MetrRegs := { calLock := m.calLock, tw := m.tw }

/-- The settings kept in MRAM; ROLE follows MODE (Table 15-12). -/
def resetPair (p : PairRegs) : PairRegs :=
  {
    role := if p.mode then rFENCED else rSOLO, mode := p.mode, eligage := p.eligage, plen := p.plen, ringEn := p.ringEn,
    ring := p.ring, weth := p.weth, witsel := p.witsel, etype := p.etype, wmac := p.wmac, lasym0 := p.lasym0,
    lasym1 := p.lasym1, sbase := p.sbase, slen := p.slen }

/-- The sessions that a reset keeps, as the MRAM key store holds them (Table 14-6). -/
def keptSessions (x : SecRegs) : Tbl Sess :=
  let l := x.sess.filter fun kv => kv.2.kind = 2 ∨ kv.2.kind = 4 ∨ kv.2.kind = 5
  l.foldl (fun t kv => tblPut t kv.1 { kv.2 with key := [], uses := 0, fails := 0 } {}) x.keptSess

def uncheckRoots (t : Tbl Root) : Tbl Root :=
  [0, 1, 2, 3].foldl (fun t k => tblPut t k { tblGet t k {} with checked := false } {}) t

/-- SEC: what PD0, the fuses and MRAM hold. A power-on reset derives the keys again and restarts the DRBG; another
reset keeps them as they stand (R398, R412). -/
def resetSec (por : Bool) (x : SecRegs) : SecRegs :=
  let y : SecRegs := {
    tampLock := x.tampLock, tampSt := x.tampSt, tampTime := x.tampTime, tampCfg := x.tampCfg, tampArm := x.tampArm,
    ocnt := x.ocnt, scnt := x.scnt, fwFloor := x.fwFloor, roots := uncheckRoots x.roots, uds := x.uds,
    debugPerm := x.debugPerm, debugReq := x.debugReq, wrapNet := x.wrapNet, wrapPair := x.wrapPair, wrapSess := x.wrapSess,
    keptSess := keptSessions x, snuffed := x.snuffed, auditTamper := x.auditTamper, tamperDue := x.tamperDue, lfsr := x.lfsr }
  if por then y
  else { y with dik := x.dik, dxk := x.dxk, kek := x.kek, debug := x.debug, udsLocked := x.udsLocked, drbgFailed := x.drbgFailed }

/-- The pins fall to their idle levels (Table 18-8). -/
def idlePins (s : State) : List Out :=
  (if s.pnl.pen then [.panelEn false] else []) ++ (if s.time.pulse0.isSome then [.tsyn 0 false] else []) ++
  (if s.time.pulse1.isSome then [.tsyn 1 false] else [])

/-- A reset of PD1 to PD11. RTC lies in PD0 and keeps its registers. -/
def resetDevice (por : Bool) (cause : BitVec 4) (s : State) : State :=
  let t : State := {
    blk := tblPut [] bRTC (blkGet s bRTC) (blkReset bRTC)
    sys := { cause := cause, pd0Cold := s.sys.pd0Cold && s.pwr.asleep, pwait := s.sys.pwait, twait := s.sys.twait }
    pwr := { pfTime := s.pwr.pfTime }
    sched := { rbFloor := s.sched.rbFloor }
    metr := resetMetr s.metr
    irq := { wake := s.irq.wake, wakeSt := s.irq.wakeSt, wakeLatch := s.irq.wakeLatch }
    sec := resetSec por s.sec
    recs := resetRec s.recs
    nvm := resetNvm s.nvm
    rtc := { s.rtc with
      reads := [], writes := [] }
    pair := resetPair s.pair
    pnl := { zeroed := s.pnl.zeroed, useq := s.pnl.useq }
    mram := s.mram
    out := s.out
    free := s.free
    pending := s.pending }
  emitAll (idlePins s) t

/-- POR: PORST_N low, or a core brown-out. -/
def execPor (brownOut : Bool) (s : State) : Host.Outcome State Fault Refusal :=
  .next (resetDevice true (if brownOut then 2 else 1) s)

/-- PD0_COLD: with the main rails absent, or with them the device is reset as well; the Wick domain starts anew. -/
def execPd0Cold (s : State) : Host.Outcome State Fault Refusal :=
  let t := resetDevice true 1 s
  .next { t with
    blk := [],
    sys := { t.sys with pd0Cold := true },
    pwr := { t.pwr with pfTime := 0 },
    rtc := {},
    irq := {},
    metr := { t.metr with tw := [] },
    sec := { t.sec with tampSt := 0, tampTime := 0, tampCfg := 0, snuffed := false, tamperDue := false, auditTamper := false, lfsr := 0 } }

/-- A SYSRST is requested: the save sequence runs first (R494). -/
def requestReset (cause : BitVec 4) (s : State) : State :=
  if !awake s ∨ s.sys.rstReq.isSome then s
  else saveSequence { s with sys := { s.sys with rstReq := some cause } }

/-- SYSRST: the requested reset takes effect. -/
def execSysrst (s : State) : Host.Outcome State Fault Refusal :=
  .next (match s.sys.rstReq with
    | some c => resetDevice false c s
    | none => s)

def execWatchdogExpiry (s : State) : Host.Outcome State Fault Refusal := .next (requestReset 4 s)

/-- RSTREQ: from MC0 alone. -/
def rstreqOp (m : RegMaster) (v : W32) (s : State) : State := if m = .mc0 ∧ bit v.toNat 0 then requestReset 3 s else s

/-- PLL_LOCK_LOSS: after it has locked (R492). -/
def execPllLockLoss (pll : Fin 3) (s : State) : Host.Outcome State Fault Refusal :=
  .next (
    let p := s.pwr
    if pll = 0 ∧ p.pllA then requestReset 5 { s with pwr := { p with pllA := false } }
    else if pll = 1 ∧ p.pllB then requestReset 5 { s with pwr := { p with pllB := false } }
    else if pll = 2 ∧ p.pllC then requestReset 5 { s with pwr := { p with pllC := false } }
    else s)

/-- PAIR_REJOIN_RESET (R503). -/
def execPairRejoinReset (s : State) : Host.Outcome State Fault Refusal :=
  .next (
    if s.pair.mode && s.sched.run && s.pair.role == rFENCED && !s.pair.sameGrid &&
        (match s.pair.hello with | some h => h.role == 1 | none => false) then
      requestReset 6 (lantern 0x1181 1 [] s)
    else s)

/-- HIF_RESET (R373): the link, the configuration space, RINGEN and the rings; completions that are not written
are discarded, and those of started descriptors will be. -/
def execHifReset (s : State) : Host.Outcome State Fault Refusal :=
  .next { s with
    hif := { dbAddr := s.hif.dbAddr, stAddr := s.hif.stAddr, seq := s.hif.seq, inSlot := s.hif.inSlot, closed := s.hif.closed, slotMfn := s.hif.slotMfn,
             todo := s.hif.todo, opps := s.hif.opps } }

/-! ### Power domains (R34, R489, R490) -/

/-- The contents of a domain after its power-up: its registers at their reset values. -/
def domClear (d : Nat) (s : State) : State :=
  let eng := fun l s => l.foldl (fun s e => engPut s e {}) s
  match d with
  | 2 => eng [0, 1, 2, 3] s
  | 3 => eng [4, 5, 6, 7] s
  | 4 => { s with solv := { s.solv with runs := [] } }
  | 5 => { s with solv := { s.solv with slots := [], held := [] } }
  | 6 => { s with loops := {}, axis := {}, parc := {} }
  | 7 => { s with canl := {}, mbus := {} }
  | 8 => { s with ethl := {}, pair := resetPair s.pair }
  | 9 => { s with hif := {} }
  | 11 => { s with metr := { resetMetr s.metr with
      cal := s.metr.cal, calValid := s.metr.calValid, tot := s.metr.totCopy, totClose := s.metr.totCopy, totCopy := s.metr.totCopy,
      saveSeq := s.metr.saveSeq, copyB := s.metr.copyB, resLost := s.metr.resLost, pfGap := s.metr.pfGap, loss := s.metr.loss } }
  | _ => s

def slotLoaded (s : State) : Bool := (List.range 4).any fun k => (slotGet s k).st != 0

/-- The shadow image is ready once every domain that it needs is on (R70). -/
def shadowDoms (s : State) : State :=
  match s.sched.shadowImage with
  | some im => if domsUp s im then { s with sched := { s.sched with shadowReady := true } } else s
  | none => s

/-- What a domain does once it is on: PD4 ends the retention of PD5, PD6 restores the axis positions, METR starts. -/
def domStarted (d : Nat) (s : State) : State :=
  if d = 4 then (if (domGet s 5).st = 2 then domPut s 5 { domGet s 5 with st := 1 } else s)
  else if d = 6 then (List.range 16).foldl axRestore s
  else if d = 11 then { s with metr := { s.metr with started := true, short := true } }
  else s

/-- DOMAIN_POWER_UP: of a domain that MC0 switches. -/
def execDomainPowerUp (d : Fin 12) (s : State) : Host.Outcome State Fault Refusal :=
  .next (
    let v := domGet s d
    if (domReset d).st = 1 ∨ v.st = 1 ∨ !awake s then s
    else shadowDoms (domStarted d (domPut s d { v with st := 1, upcnt := v.upcnt + 1 })))

/-- POWER_GOOD_TIMEOUT: a domain that was being switched on is OFF again (R489). -/
def execPowerGoodTimeout (d : Fin 12) (s : State) : Host.Outcome State Fault Refusal :=
  .next (
    let v := domGet s d
    if (domReset d).st = 1 ∨ v.st = 1 ∨ !awake s then s
    else lantern 0x0F80 1 (leBytes 1 d.val) (count bPWR 2 (domPut (if v.st = 2 then domClear d s else s) d { v with st := 0 })))

/-- An atomic item of a master is in flight (Tables 0-5, 1-17). -/
def masterBusy (s : State) (m : Nat) : Bool :=
  if 2 ≤ m ∧ m ≤ 9 then (engGet s (m - 2)).inCyc
  else if m = 14 then (List.range 16).any (axBusy s)
  else if m = 15 then !s.solv.runs.isEmpty
  else if m = 16 then s.parc.step.isSome
  else if m = 17 then decide (0 < startedAll s)
  else if m = 18 then s.canl.ch.any fun kv => kv.2.tx.any fun t => t.2.st == 2
  else if m = 19 then s.mbus.m.any fun kv => kv.2.state != 0
  else if m = 20 then s.ethl.port.any fun kv => kv.2.wire.isSome
  else if m = 21 then s.metr.stopping
  else if m = 23 then s.recs.op.isSome
  else if m = 24 then s.pnl.run.isSome
  else false

/-- The function of a master is IDLE (R33, R34): it is disabled, or it is one engine of a shared block and has no slot, and
it has no atomic item in flight unless it is frozen. -/
def masterIdle (s : State) (m : Nat) : Bool :=
  (frozenM s m || !masterBusy s m) &&
  (List.range 21).all fun b => !((mastersOf b).contains m) || !enOf s b || (decide (1 < (mastersOf b).length) && !holdsSlots s m)

/-- No function of a domain holds a slot, and every one is IDLE (R27, R34). -/
def domIdle (s : State) (d : Nat) : Bool :=
  !(domGet s d).need && (domMasters d).all fun m => !holdsSlots s m && masterIdle s m

/-- DOMAIN_POWER_DOWN: PD4 with a loaded slot puts PD5 into retention. -/
def execDomainPowerDown (d : Fin 12) (s : State) : Host.Outcome State Fault Refusal :=
  .next (
    if (domReset d).st = 1 ∨ (domGet s d).st ≠ 1 ∨ !domIdle s d then s
    else
      let s1 := domClear d (domPut s d { domGet s d with st := 0 })
      if d = 4 ∧ slotLoaded s1 ∧ (domGet s1 5).st = 1 then domPut s1 5 { domGet s1 5 with st := 2 } else s1)

/-! ### Start-up (R496 to R503, Table 18-7) -/

def setStage (n : BitVec 4) (s : State) : State := { s with sys := { s.sys with stage := n } }

/-- BOOTFAIL with its cause (R498): 1 no firmware, 2 DRAM training. -/
def bootFail (cause : Nat) (s : State) : State := lantern 0x0080 2 (leBytes 1 cause) (setStage 0xF s)

def absent : W32 := 0xFFFFFFFF

/-- The boot directory (Table 18-6), or what the boot ROM takes without it. -/
def takeDirectory (b : Bytes) (s : State) : State :=
  let w := fun o => BitVec.ofNat 32 (u32 b o)
  if b.length < 64 ∨ u32 b 0x3C ≠ crc32c (b.take 0x3C) then
    { s with sys := { s.sys with
        dirBad := true, dirFwA := 0x1000, dirFwB := absent, dirImgA := absent, dirImgB := absent, xmode := 0, xdiv := 40 } }
  else
    { s with sys := { s.sys with
        xmode := BitVec.ofNat 8 (u8 b 4), xdiv := BitVec.ofNat 8 (u8 b 5), dirFwA := w 8, dirFwB := w 12, dirImgA := w 16,
        dirImgB := w 20, dirCert := w 24 } }

/-- Edge sources that the Wick watch latched are pending after the wake (R393). -/
def wakeSources (s : State) : State :=
  let s1 := { s with irq := { s.irq with wakeLatch := 0 } }
  (List.range 32).foldl (fun t w =>
    let n := (tblGet s.irq.wake w {}).src.toNat
    if s.irq.wakeLatch.getLsbD w && !isLevel n && !isReservedSrc n then irqEdge n t else t) s1

/-- STAGE_ROM: the management domain starts; after a power-on reset with fuses, UDS and derived keys. -/
def execStageRom (directory : Bytes) (s : State) : Host.Outcome State Fault Refusal :=
  .next (
    if s.sys.stage ≠ 0 then s
    else
      let s1 := { s with pwr := { s.pwr with asleep := false, pllA := true } }
      let s2 := if s.sys.cause.toNat ≤ 2 then secPowerOn s1 else s1
      let s3 := takeDirectory directory (wakeSources s2)
      setStage 1 { s3 with sys := { s3.sys with debug := s3.sec.debug } })

/-- A root as the boot ROM checks it. -/
def bootRoot (s : State) (k : Nat) : Option Bytes :=
  if s.sec.debug then (if k = 0 then some Config.testRootKey else none)
  else
    let r := rootGet s k
    if k < 4 ∧ r.installed ∧ !r.revoked ∧ BitVec.ofNat 384 (beNat (sha384 r.key)) = r.digest then some r.key else none

/-- The check of a firmware container (R401): FWERR. -/
def firmwareError (s : State) (b : Bytes) : Nat :=
  let n := u32 b 8
  if u32 b 0 ≠ 0x5257464D ∨ u16 b 4 ≠ 1 ∨ n % 64 ≠ 0 ∨ b.length < 0x100 + n then 1
  else if !sigOk Config.vendorKey (b.take (0x40 + n)) (slice b (0x40 + n) 96) then 2
  else match bootRoot s (u8 b 6) with
    | none => 3
    | some key =>
      if !sigOk key (b.take (0xA0 + n)) (slice b (0xA0 + n) 96) then 3
      else if u32 b 0xC < s.sec.fwFloor.toNat then 4
      else 0

/-- Firmware copies in order: the first that passes runs. -/
def tryFirmware (b : Bool) (at_ : W32) (copy : Option Bytes) (s : State) : State :=
  match copy with
  | none => s
  | some c =>
    if s.sys.stage ≠ 1 ∨ at_ = absent then s
    else
      let e := firmwareError s c
      if e = 0 then setStage 2 { s with sys := { s.sys with
        fwB := b, fwDig := BitVec.ofNat 384 (beNat (sha384 (c.take (0x100 + u32 c 8)))) } }
      else { s with sys := { s.sys with fwErr := BitVec.ofNat 8 e } }

/-- STAGE_FIRMWARE. -/
def execStageFirmware (copyA copyB : Option Bytes) (s : State) : Host.Outcome State Fault Refusal :=
  .next (
    if s.sys.stage ≠ 1 then s
    else
      let t := tryFirmware true s.sys.dirFwB copyB (tryFirmware false s.sys.dirFwA copyA s)
      if t.sys.stage = 1 then bootFail 1 t else t)

/-- The NAND as identified (R461, R467). -/
def nvmStart (nandOk : Bool) (s : State) : State :=
  { s with nvm := { s.nvm with
      started := true, nandOk := nandOk, formatted := nandOk && !s.nvm.blocks.isEmpty,
      geomBlocks := if nandOk then Config.nandBlocks else 0, geomPage := if nandOk then Config.nandPage else 0,
      geomTargets := if nandOk then Config.nandTargets else 0 } }

/-- What MC0 does in stage 2 after the DRAM is trained. -/
def memoryWork (nandOk : Bool) (s : State) : State :=
  let s1 := lanScan (nvmStart nandOk s)
  let s2 := secStart s.sys.pd0Cold s1
  let s3 := if s.rtc.osf then lantern 0x0E01 1 (leBytes 6 (rtcTicks s).toNat) s2 else s2
  let s4 := (List.range 16).foldl axRestore (metrStart s3)
  setStage 3 (enable (domPut (pnlStart s4) 9 { domGet s4 9 with st := 1, upcnt := (domGet s4 9).upcnt + 1 }) bHIF)

/-- STAGE_MEMORY: PCYC at a power-on reset, PLL-B and PLL-C, DRAM training, and the work of MC0. -/
def execStageMemory (dramGiB : BitVec 5) (vddq11 : Bool) (trained : BitVec 2) (nandOk : Bool) (s : State) :
    Host.Outcome State Fault Refusal :=
  .next (
    if s.sys.stage ≠ 2 then s
    else
      let s1 := { s with
        recs := { s.recs with pcyc := if s.sys.cause.toNat ≤ 2 then satInc s.recs.pcyc else s.recs.pcyc },
        pwr := { s.pwr with pllB := true, pllC := true },
        sys := { s.sys with gib := dramGiB, vddq := vddq11, chok := trained } }
      if trained ≠ 3 then bootFail 2 s1 else memoryWork nandOk s1)

/-- One image copy in stage 3. -/
def tryImage (b : Bool) (at_ : W32) (copy : Option Bytes) (s : State) : State :=
  match copy with
  | none => s
  | some c =>
    if s.sys.stage ≠ 3 ∨ at_ = absent then s
    else
      let r := checkImage s true c
      let s1 := checked r s
      if r.1 = 0 then setStage 4 (bootImage (parseImage c) { s1 with sys := { s1.sys with imgB := b } })
      else { s1 with sys := { s1.sys with imgRes := BitVec.ofNat 8 r.1 } }

/-- STAGE_IMAGE: image A, then image B; without either NOIMAGE. An image loaded under R499 is installed already. -/
def execStageImage (imageA imageB : Option Bytes) (s : State) : Host.Outcome State Fault Refusal :=
  .next (
    if s.sys.stage ≠ 3 then s
    else if s.sched.image.isSome then setStage 4 s
    else
      let t := tryImage true s.sys.dirImgB imageB (tryImage false s.sys.dirImgA imageA s)
      if t.sys.stage = 3 then setStage 0xE t else t)

/-- Stage 5 begins: the ports of the image come up, and without a PTP port there is nothing to wait for (R500). -/
def enterTime (active : Bool) (s : State) : State :=
  let s1 := portsConfig (setStage 5 { s with sys := { s.sys with partnerActive := active } })
  if !active && !((List.range 16).any fun p => (ethCfg s p).en && (ethCfg s p).ptp) then setStage 6 s1 else s1

/-- STAGE_ROLE (R501): MODE 0 passes at once; in MODE 1 one exchange, until a partner's HELLO is verified. -/
def execStageRole (s : State) : Host.Outcome State Fault Refusal :=
  .next (
    if s.sys.stage ≠ 4 then s
    else if !s.pair.mode then enterTime false s
    else match s.pair.hello with
      | some h => enterTime (h.role == 1) s
      | none => mirExchange s)

/-- PWAIT_EXPIRY: no partner has been found. -/
def execPwaitExpiry (s : State) : Host.Outcome State Fault Refusal :=
  .next (if s.sys.stage = 4 ∧ s.pair.mode then enterTime false s else s)

/-- Network time is at hand: a Sync record with MPD on a port in UNCALIBRATED (8) or SLAVE (9) (R500). -/
def ptpSource (s : State) : Bool :=
  (List.range 16).any fun p => (portGet s p).pen && !(portGet s p).ptp.nompd && ((portGet s p).ptp.pstate == 8 || (portGet s p).ptp.pstate == 9)

def setTsrc (n : BitVec 2) (s : State) : State := { s with sys := { s.sys with tsrc := n } }

/-- STAGE_TIME (R500): the single step, from the mirror for a unit that joins an ACTIVE partner, else from PTP. -/
def execStageTime (src : TimeSource) (s : State) : Host.Outcome State Fault Refusal :=
  .next (
    if s.sys.stage ≠ 5 then s
    else match src, s.sys.partnerActive with
      | .mirror d, true => setStage 6 (setTsrc 2 (applyStep d s))
      | .ptp d, false => if ptpSource s then setStage 6 (setTsrc 1 (applyStep d s)) else s
      | _, _ => s)

/-- TWAIT_EXPIRY: the unit runs on local time. -/
def execTwaitExpiry (s : State) : Host.Outcome State Fault Refusal :=
  .next (if s.sys.stage = 5 ∧ !s.sys.partnerActive then setStage 6 s else s)

/-- LATE_TIME_STEP: the step is still armed and network time has become available. -/
def execLateTimeStep (delta : W128) (s : State) : Host.Outcome State Fault Refusal :=
  .next (if s.sys.stage = 6 ∧ s.sys.tsrc = 0 ∧ s.time.armed ∧ ptpSource s then lantern 0x0D81 0 [] (applyStep delta s) else s)

/-- STAGE_RUN: SCHED.CTRL.EN := 1; the schedule starts at the first grid instant of R353, with MFN 0 or the
partner's (R502). -/
def execStageRun (s : State) : Host.Outcome State Fault Refusal :=
  .next (
    if s.sys.stage = 6 ∧ !enOf s bSCHED then
      setEn { s with
        time := { s.time with origin := originFor s.sched.frameL.toNat (nowT s) },
        sched := { s.sched with mfn := 0, mfnBase := 0, kmf := 0 } } bSCHED true
    else s)

end Sys2Proof.Machine
end

