-- ==== Sys2Proof/Machine/Irq.lean ====
section
/-! DEFINITION. The interrupt controller: conditions of the level sources, eligibility, selection, delivery,
completion, hold-off and the Wick wake watch (R387 to R393). -/

namespace Sys2Proof.Machine

/-! ### Level sources (Table 13-10) -/

def levelCond (s : State) (n : Nat) : Bool :=
  if n = 195 then !s.parc.almChg.isEmpty
  else if n = 196 then !s.loops.fechg.isEmpty
  else if n = 197 then s.axis.ax.any fun kv => kv.2.fault
  else if n = 199 then s.metr.resLost || twData s
  else if n = 202 then s.ethl.port.any fun kv => kv.2.pnwarn
  else if n = 204 then s.rtc.almf
  else if n = 205 then s.rtc.osf
  else if n = 207 then pairFault s
  else if n = 209 then secEvent s
  else if n = 210 then aWarn s || audFull s || s.recs.lfrozen
  else if n = 211 then s.nvm.uncor || scrubLate s || resvLow s || (s.nvm.started && !s.nvm.nandOk)
  else if n = 213 then s.hif.rings.any fun kv => kv.2.ringErr
  else if 240 ≤ n ∧ n < 280 then !(chGet s (n - 240)).fifo.isEmpty
  else if 312 ≤ n ∧ n < 344 then (trigGet s (n - 312)).fired
  else false

/-- PEND: of a level source while its condition holds and it is not in service (R388). -/
def pendOf (s : State) (n : Nat) : Bool :=
  if isLevel n then levelCond s n && !(srcGet s n).insvc else (srcGet s n).pend

/-! ### Selection (R389, R392) -/

def grpGetI (s : State) (g : Nat) : IrqGrp := tblGet s.irq.grp g {}
def grpPutI (s : State) (g : Nat) (v : IrqGrp) : State := { s with irq := { s.irq with grp := tblPut s.irq.grp g v {} } }

/-- A hold-off runs until TBC reaches its end; HOLD = 0 disables it (R392). -/
def holdRuns (s : State) (g : Nat) : Bool := (grpGetI s g).run && (grpGetI s g).hold != 0 && decide (s.time.tbc.toNat < (grpGetI s g).ends.toNat)

def eligibleSrc (s : State) (n : Nat) : Bool :=
  let v := srcGet s n
  pendOf s n && !v.mask && enOf s bIRQ && (v.target == 2 || v.pri != 0) && !holdRuns s v.group.toNat

/-- The eligible sources of a target: 0 MC0, 1 MC1, 2 MSI-X. -/
def eligibleFor (s : State) (t : Nat) : List Nat :=
  (List.range 344).filter fun n => (srcGet s n).target.toNat == t && eligibleSrc s n

/-- The eligible source of highest PRI of a core, among equals the lowest number. -/
def bestSrc (s : State) (t : Nat) : Option Nat :=
  (eligibleFor s t).foldl (fun b n => match b with
    | some k => if (srcGet s k).pri.toNat < (srcGet s n).pri.toNat then some n else b
    | none => some n) none

/-- A source is selected: its group's hold-off starts in this cycle (R392). -/
def selectSrc (n : Nat) (s : State) : State :=
  let v := srcGet s n
  let g := grpGetI s v.group.toNat
  let s1 := srcPut s n { v with selAt := some s.time.tbc }
  if g.hold = 0 then s1
  else grpPutI s1 v.group.toNat { g with run := true, ends := s.time.tbc + BitVec.ofNat 64 (g.hold.toNat * 1000) }

/-- Delivery clears PEND, and a level source enters service at its target (R388, R391). -/
def deliverSrc (n t vec : Nat) (s : State) : State :=
  let v := srcGet s n
  srcPut s n { v with
    pend := false, insvc := isLevel n,
    svcTarget := if isLevel n then BitVec.ofNat 2 t else v.svcTarget,
    svcVec := if isLevel n then BitVec.ofNat 6 vec else v.svcVec }

/-- Completion: out of service, and the condition is sampled again. -/
def completeSrc (n : Nat) (s : State) : State := srcPut s n { srcGet s n with insvc := false }

/-- A CPL write of core `t`. -/
def cplWrite (t n : Nat) (s : State) : State :=
  let v := srcGet s n
  if n < 512 ∧ v.insvc ∧ v.svcTarget.toNat = t then completeSrc n s else count bIRQ 2 s

/-- CPL0 by MC0 alone, CPL1 by MC1 alone (Table 13-15). -/
def cpl0Op (m : RegMaster) (v : W32) (s : State) : State := if m = .mc0 then cplWrite 0 (v.toNat % 512) s else s
def cpl1Op (m : RegMaster) (v : W32) (s : State) : State := if m = .mc1 then cplWrite 1 (v.toNat % 512) s else s

/-- SWSET: sources 32 to 63 by MC0 alone, 64 to 95 by any master. -/
def swsetOp (m : RegMaster) (v : W32) (s : State) : State :=
  let n := v.toNat % 512
  if (64 ≤ n ∧ n ≤ 95) ∨ (32 ≤ n ∧ n ≤ 63 ∧ m = .mc0) then irqEdge n s else s

/-- HOLDOFF_EXPIRY: the hold-off ends HOLD × 1,000 cycles after its start, and not before (R392). -/
def endHold (g : Nat) (s : State) : State :=
  if holdRuns s g then s else grpPutI s g { grpGetI s g with run := false }
def execHoldoffExpiry (g : Fin 16) (s : State) : Host.Outcome State Fault Refusal := .next (endHold g.val s)

/-- The domain of a source's producing logic; RTC_ALARM, RTC_OSF and SEC_TAMPER are produced in PD0 (Table 13-10, R393). -/
def srcDomain (n : Nat) : Nat :=
  if n = 204 ∨ n = 205 ∨ n = 208 then 0
  else if n = 194 then 4
  else if 195 ≤ n ∧ n ≤ 197 then 6
  else if n = 198 ∨ n = 199 then 11
  else if n = 200 ∨ n = 201 ∨ (240 ≤ n ∧ n < 280) then 7
  else if n = 202 ∨ n = 203 ∨ n = 206 ∨ n = 207 ∨ (280 ≤ n ∧ n < 312) then 8
  else if n = 213 ∨ (128 ≤ n ∧ n < 192) then 9
  else if n = 214 then 2
  else 1

/-- A source whose producing logic lies in a domain that is powered down never asserts (R393). -/
def wakeAble (s : State) (n : Nat) : Bool := !isReservedSrc n && (domGet s (srcDomain n)).st == 1

/-- WAKE_WATCH: a watched source asserts while the management domain is off or asleep. -/
def execWakeWatch (w : Fin 32) (s : State) : Host.Outcome State Fault Refusal :=
  .next (
    if s.pwr.asleep && (tblGet s.irq.wake w.val {}).en && wakeAble s (tblGet s.irq.wake w.val {}).src.toNat then
      emit (.wakeN false) { s with irq := { s.irq with
        wakeSt := putBit s.irq.wakeSt w.val true, wakeLatch := putBit s.irq.wakeLatch w.val true } }
    else s)

/-- The highest source in service at a core (IRQ.ACT0, IRQ.ACT1). -/
def actOf (s : State) (t : Nat) : W32 :=
  let l := (List.range 512).filter fun n => (srcGet s n).insvc && (srcGet s n).svcTarget.toNat == t
  match l.foldl (fun (b : Option Nat) n => match b with
    | some k => if (srcGet s k).pri.toNat < (srcGet s n).pri.toNat then some n else b
    | none => some n) none with
  | some n => BitVec.ofNat 32 (2 ^ 31 + n)
  | none => 0

/-! ### MSI-X (R390) -/

/-- An MSI-X table entry: after reset its vector is masked, as the PCIe capability has it. -/
def vecReset : W128 := BitVec.ofNat 128 (2 ^ 96)
def vecGet (s : State) (v : Nat) : W128 := tblGet s.hif.msix v vecReset

/-- The sources of a vector that are eligible are selected together. -/
def selectVec (s : State) (v : Nat) : State :=
  let l := (eligibleFor s 2).filter fun n => (srcGet s n).vec.toNat == v
  if l.isEmpty then s
  else
    let s1 := l.foldl (fun s n => deliverSrc n 2 v (selectSrc n s)) s
    { s1 with hif := { s1.hif with pba := putBit s1.hif.pba v true } }

def selectVecs (s : State) : State := (List.range 64).foldl selectVec s

/-- A pending vector that is unmasked sends its message. -/
def sendVec (s : State) (v : Nat) : State :=
  if s.hif.pba.getLsbD v && !s.hif.fnMask && !(vecGet s v).getLsbD 96 then
    emit (.msix v (BitVec.ofNat 64 (vecGet s v).toNat) (BitVec.ofNat 32 ((vecGet s v).toNat / 2 ^ 64)))
      { s with hif := { s.hif with pba := putBit s.hif.pba v false } }
  else s

def sendVecs (s : State) : State := (List.range 64).foldl sendVec s

/-- A change of VACK completes the level sources delivered to the vector (R388). -/
def vackDone (v : Nat) (s : State) : State :=
  (List.range 512).foldl (fun s n =>
    let g := srcGet s n
    if g.insvc && g.svcTarget == 2 && g.svcVec.toNat == v then completeSrc n s else s) s

end Sys2Proof.Machine
end

