-- ==== Sys2Proof/Machine/Regs.lean ====
section
/-! DEFINITION. The values of the registers of the 21 blocks, as a read gives them: the register tables of
every chapter, with the common registers of R29. -/

namespace Sys2Proof.Machine

/-- A register value: its byte offset in the block, its words, its value (R13 for more than one word). -/
structure RegE where
  off : Nat
  words : Nat
  val : Nat
  deriving DecidableEq, Repr

def r32 (off val : Nat) : RegE := { off := off, words := 1, val := val }
def r64 (off val : Nat) : RegE := { off := off, words := 2, val := val }
def r128 (off val : Nat) : RegE := { off := off, words := 4, val := val }

/-- The element of an array of registers that holds offset `o`. -/
def regArr (base stride n o : Nat) (f : Nat → List RegE) : List RegE :=
  if base ≤ o ∧ o < base + stride * n then
    let i := (o - base) / stride
    (f i).map fun e => { e with off := base + stride * i + e.off }
  else []

/-- 32 flags as a word. -/
def flagWord (f : Nat → Bool) : Nat := (List.range 32).foldl (fun a b => a + b2n (f b) * 2 ^ b) 0

/-- The words of a byte string at `off`. -/
def byteRegs (off : Nat) (b : Bytes) : List RegE := (List.range (b.length / 4)).map fun i => r32 (off + 4 * i) (u32 b (4 * i))

/-! ### SYS, HIF, IRQ, SCHED -/

def errSum (s : State) : Nat :=
  (List.range 21).foldl (fun a b => a + b2n ((blkGet s b).cnt.any fun kv => kv.2 != 0) * 2 ^ b) 0

def sysRegs (s : State) : List RegE :=
  let y := s.sys
  [r32 0x140 (errSum s), r32 0x144 (b2n y.pd0Cold * 256 + y.cause.toNat),
   r32 0x148 (y.imgRes.toNat * 2 ^ 24 + y.fwErr.toNat * 2 ^ 16 + y.tsrc.toNat * 2 ^ 12 + b2n y.debug * 2 ^ 11 +
     b2n y.imgB * 2 ^ 10 + b2n y.fwB * 2 ^ 9 + b2n y.dirBad * 2 ^ 8 + y.stage.toNat),
   r32 0x14C (y.pwait.toNat * 256 + y.twait.toNat), r32 0x150 0,
   r32 0x154 (b2n y.vddq * 2 ^ 20 + y.chok.toNat * 2 ^ 18 + y.gib.toNat), r64 0x158 y.startTbc.toNat]

/-- HIF.DBPER: the largest spacing of host slots in µs (Table 13-12). -/
def dbPer (s : State) : Nat :=
  match s.sched.image with
  | none => 0
  | some im =>
    let span := (slotsOf s 17).foldl (fun a p => Nat.lcm a p.2.period) 1
    match hifStarts im with
    | [] => 0
    | a :: l => ((List.zip (a :: l) (l ++ [(a.1 + span * im.l, a.2)])).map fun p => p.2.1 - p.1.1).foldl max 0 / 1000

def ringRegs (s : State) (r : Nat) : List RegE :=
  let g := ringGet s r
  [r64 0 g.sqBase.toNat, r64 8 g.cqBase.toNat,
   r32 0x10 (g.classMask.toNat * 2 ^ 16 + g.cqLog.toNat * 2 ^ 8 + g.sqLog.toNat),
   r32 0x18 (g.cqTail.toNat * 2 ^ 16 + g.sqHead.toNat),
   r32 0x1C (b2n g.ringErr * 2 ^ 17 + b2n g.phase * 2 ^ 16 + g.backlog.length * 2 ^ 8 + g.started.length)]

def hifRegs (s : State) (o : Nat) : List RegE :=
  let h := s.hif
  [r64 0x140 h.dbAddr.toNat, r64 0x148 h.stAddr.toNat, r64 0x150 h.ringEn.toNat, r32 0x158 (dbPer s), r64 0x8400 h.pba.toNat] ++
  regArr 0x200 0x20 64 o (ringRegs s) ++
  regArr 0x8000 0x10 64 o fun v => (List.range 4).map fun i => r32 (4 * i) ((vecGet s v).toNat / 2 ^ (32 * i) % 2 ^ 32)

/-- IRQ.SRC[n]: the entries of reserved sources read 0 (Table 13-19). -/
def srcWord (s : State) (n : Nat) : Nat :=
  let v := srcGet s n
  if isReservedSrc n then 0
  else b2n v.dam * 2 ^ 31 + b2n v.insvc * 2 ^ 30 + b2n (pendOf s n) * 2 ^ 29 + b2n (isLevel n) * 2 ^ 28 + v.vec.toNat * 2 ^ 16 +
    v.target.toNat * 2 ^ 14 + v.group.toNat * 2 ^ 8 + v.pri.toNat * 2 ^ 4 + b2n v.mask

def irqRegs (s : State) (o : Nat) : List RegE :=
  [r32 0x140 0, r32 0x144 0, r32 0x148 0, r32 0x150 (actOf s 0).toNat, r32 0x154 (actOf s 1).toNat, r32 0x300 s.irq.wakeSt.toNat] ++
  regArr 0x200 4 16 o (fun g => [r32 0 (b2n (holdRuns s g) * 2 ^ 31 + (grpGetI s g).hold.toNat)]) ++
  regArr 0x280 4 32 o (fun w => let v := tblGet s.irq.wake w {}; [r32 0 (b2n v.en * 2 ^ 31 + v.src.toNat)]) ++
  regArr 0x400 4 16 o (fun w => [r32 0 (flagWord fun b => pendOf s (32 * w + b))]) ++
  regArr 0x1000 4 512 o fun n => [r32 0 (srcWord s n)]

def frozenMask (s : State) : Nat := (List.range 25).foldl (fun a m => a + b2n (frozenM s m) * 2 ^ m) 0

def schedRegs (s : State) (o : Nat) : List RegE :=
  let c := s.sched
  [r64 0x140 c.mfn.toNat, r64 0x148 c.kmf.toNat, r32 0x150 c.frameL.toNat, r32 0x154 c.majM.toNat, r32 0x158 c.cyc.toNat,
   r64 0x160 c.actId.toNat, r64 0x168 c.shdId.toNat, r32 0x170 (c.chkItem.toNat * 256 + c.chkRes.toNat), r64 0x178 c.swMfn.toNat,
   r32 0x180 (frozenMask s), r32 0x184 0, r64 0x188 c.rbFloor.toNat] ++
  regArr 0x200 0x10 25 o (fun m =>
    let f := tblGet c.frzInfo m {}
    (frzWords f).zipIdx.map fun p => r32 (4 * p.2) p.1.toNat) ++
  regArr 0x400 4 32 o fun x => [r32 0 (xlat.getD x 0)]

/-! ### CELL, LOOP, SOLV, PARC, AXIS, METR -/

def cellEngRegs (s : State) (e : Nat) : List RegE :=
  let g := ceGet s e
  [r32 0x00 (g.tasks.length * 2 ^ 16 + b2n g.step.isSome * 64 + b2n g.inCyc * 32 + (g.req.getD 0).toNat * 4 + g.mode.toNat),
   r64 0x08 g.cycles.toNat, r32 0x10 g.skips.toNat, r32 0x14 (g.skipCause.toNat * 2 ^ 24 + g.skipTask.toNat),
   r64 0x18 g.skipMfn.toNat, r32 0x20 (g.nEdge * 2 ^ 16 + g.nTimer), r32 0x24 (g.newInst.toNat * 2 ^ 16 + g.typeRst.toNat),
   r32 0x28 g.aflAcc.toNat]

def cellRegs (s : State) (o : Nat) : List RegE :=
  [r64 0x140 s.pimg.pisnap.toNat, r64 0x148 s.pimg.picmt.toNat, r32 0x150 s.pimg.npoint,
   r32 0x154 (s.pimg.nstage * 2 ^ 11 + (forcedNow s).length)] ++
  regArr 0x200 0x40 8 o (cellEngRegs s)

def cellStatus (s : State) : Nat :=
  (List.range 8).foldl (fun a e => a + b2n (ceGet s e).inCyc * 2 ^ (12 + e) + b2n (holdsSlots s (e + 2)) * 2 ^ (4 + e)) 0

def loopFlag (s : State) (f : LoopSt → Bool) (g : Nat) : Bool := loopExists s g && f (lstGet s (g / 128) (g % 128))

def loopRegs (s : State) (o : Nat) : List RegE :=
  regArr 0x140 4 16 o (fun w => [r32 0 (flagWord fun b => loopFlag s (·.fe) (32 * w + b))]) ++
  regArr 0x180 4 16 o (fun w => [r32 0 (flagWord fun b => tblGet s.loops.fechg (32 * w + b) false)]) ++
  regArr 0x1C0 4 16 o (fun w => [r32 0 (flagWord fun b => loopFlag s (·.hold) (32 * w + b))]) ++
  regArr 0x200 0x10 4 o fun e =>
    let t := (lpGet s e).trace
    [r32 0 (t.idx.toNat * 256 + nloop s e), r32 4 t.st.toNat, r32 8 (if nloop s e = 0 then 0 else tOcc (nloop s e))]

def loopStatus (s : State) : Nat :=
  (List.range 4).foldl (fun a e => a + b2n ((lpGet s e).trace.st == 3) * 2 ^ (8 + e) + b2n (holdsSlots s (e + 10)) * 2 ^ (4 + e)) 0

/-- The structure that a slot holds or loads. -/
def slotStruct (s : State) (k : Nat) : Option SStruct :=
  let q := slotGet s k
  if q.st = 2 then q.desc else if q.st = 1 then some (parseStruct q.loading) else none

def solvSum (s : State) (f : SStruct → Nat) : Nat :=
  ((List.range 4).map fun k => match slotStruct s k with | some x => f x | none => 0).sum

def slotRun (s : State) (k : Nat) : Option SRun := s.solv.runs.find? fun r => r.slot == k

def solvSlotRegs (s : State) (k : Nat) : List RegE :=
  let q := slotGet s k
  let x := q.last
  let run := slotRun s k
  [r32 0 (q.loadErr.toNat * 2 ^ 16 + (structOf s k).kind * 2 ^ 8 + b2n q.usable * 64 +
     b2n (match run with | some r => r.host.isSome | none => false) * 32 + b2n run.isSome * 16 + q.st.toNat),
   r64 8 (structOf s k).sig.toNat, r32 0x10 q.dsv.toNat, r32 0x14 q.rseq.toNat,
   r32 0x18 (x.endc.toNat * 2 ^ 24 + x.flags.toNat * 2 ^ 16 + x.iter.toNat * 2 ^ 8 + x.status.toNat), r32 0x1C x.pivcnt.toNat,
   r32 0x20 x.pividx.toNat, r64 0x28 x.rhoRel.toNat, r64 0x30 (match run with | some r => elapsedNow s r | none => x.wc.toNat)]

def solvRegs (s : State) (o : Nat) : List RegE :=
  [r32 0x140 (solvSum s (·.nv)), r32 0x144 (solvSum s fun x => x.n - x.nv), r32 0x148 (solvSum s (·.nnzk)),
   r32 0x14C (solvSum s (·.nnzl))] ++
  regArr 0x200 0x40 4 o (solvSlotRegs s)

def solvStatus (s : State) : Nat :=
  (List.range 4).foldl (fun a k => a + b2n (slotRun s k).isSome * 2 ^ (12 + k) + b2n ((slotGet s k).st == 2) * 2 ^ (8 + k) +
    b2n ((slotGet s k).st == 1) * 2 ^ (4 + k)) 0

def parcRegs (s : State) (o : Nat) : List RegE :=
  let p := s.parc
  [r64 0x140 p.mstep.toNat, r64 0x148 p.psig.toNat,
   r32 0x150 (p.loadErr.toNat * 2 ^ 24 + p.badin.toNat * 2 ^ 8 + b2n p.substPub * 32 + b2n p.lastPub * 16 + p.stepSt.toNat),
   r32 0x154 p.ovr.toNat, r32 0x158 p.mrg.toNat, r32 0x15C (if p.cfgSt = pcREADY then tStep p else 0), r32 0x160 (match p.step with | some c => c.wc + occNow s c.occ | none => p.wc.toNat),
   r32 0x164 p.pend.length] ++
  regArr 0x180 4 8 o (fun w => [r32 0 (flagWord fun b => (p.watch.getD (32 * w + b) {}).st)]) ++
  regArr 0x1A0 4 8 o fun w => [r32 0 (flagWord fun b => tblGet p.almChg (32 * w + b) false)]

def parcStatus (s : State) : Nat :=
  b2n (s.parc.watch.any (·.st)) * 256 + b2n s.parc.fresh * 128 + s.parc.cfgSt.toNat * 32 + b2n s.parc.step.isSome * 16

def axisRegs (s : State) (o : Nat) : List RegE :=
  regArr 0x200 0x20 16 o fun n =>
    [r64 0 (pos64 (axGet s n)).toNat, r32 8 (axWord2 s n), r64 0x10 (axGet s n).rem.toNat, r64 0x18 (axGet s n).vel.toNat]

def axisStatus (s : State) : Nat := (List.range 16).foldl (fun a n => a + b2n (axMoving s n) * 2 ^ (4 + n)) 0

def metrRegs (s : State) (o : Nat) : List RegE :=
  [r64 0x140 s.metr.saveSeq.toNat, r64 0x148 s.metr.intSeq.toNat, r32 0x150 s.metr.pfGap.toNat] ++
  regArr 0x200 0x10 4 o (fun f =>
    let g := mfGet s f
    let ph := fun (p : MPhase → Bool) => (List.range 3).foldl (fun a i => a + b2n (p (phGet s f i)) * 2 ^ i) 0
    [r32 0 g.freq.toNat, r32 4 (g.ovlLast.toNat * 64 + ph (·.creep) * 8 + ph (·.zxto)), r64 8 (kwhOf s f).toNat]) ++
  regArr 0x300 8 16 o (fun k =>
    let g := mpGet s k
    [r32 0 (b2n g.dir * 8 + b2n ((mpCfg s k).en && (mpCfg s k).src == 2 && g.vf.isNone) * 4 +
       b2n (g.tr.isNone && !g.wins.isEmpty) * 2 + b2n (g.tf.isNone && !g.wins.isEmpty)),
     r32 4 g.revsLast.toNat]) ++
  regArr 0x400 0x10 4 o fun f =>
    let t := tblGet s.metr.tw f {}
    [r32 0 t.secs.toNat, r32 4 (t.twph.toNat * 2 ^ 12 + t.peak.toNat), r64 8 t.first.toNat]

def metrStatus (s : State) : Nat :=
  b2n (twData s) * 2 ^ 11 + b2n s.metr.calLock * 2 ^ 10 + b2n s.metr.calValid * 2 ^ 9 + b2n s.metr.resLost * 2 ^ 8 +
    (List.range 4).foldl (fun a f => a + b2n (mfGet s f).zxtoLast * 2 ^ (4 + f)) 0

/-! ### CANL, MBUS, ETHL -/

def stnCount (s : State) (p : BitVec 4) : Nat := (s.canl.stn.filter fun kv => kv.2.st == p).length

/-- A data length code (Tables 10-12, 10-13). -/
def frameRegs (idw ctl : Nat) (data : Nat → Byte) (w48 : Nat) : List RegE :=
  [r32 0 idw, r32 4 ctl] ++ ((List.range 16).map fun i => r32 (8 + 4 * i) (leNat ((List.range 4).map fun j => data (4 * i + j)))) ++
  [r32 0x48 w48]

def sbufRegs (s : State) (x : Nat) : List RegE :=
  let b := bufGet s (x / 8) (56 + x % 8)
  frameRegs b.idw.toNat (b.ctx.toNat * 2 ^ 16 + b2n b.sealed * 256 + b.dlc.toNat) (fun i => tblGet b.data i 0)
    (b2n b.clate * 8 + b.st.toNat) ++ [r32 0x4C b.ts.toNat]

def fifohdRegs (s : State) (n : Nat) : List RegE :=
  match (chGet s n).latched with
  | none => frameRegs 0 0 (fun _ => 0) 0
  | some x => frameRegs (idWord x.frame).toNat (b2n x.sealOk * 2 ^ 31 + x.filt % 128 * 2 ^ 16 + dlcOfLen x.frame.data.length)
      (byteAt x.frame.data) x.ts.toNat

def canlRegs (s : State) (o : Nat) : List RegE :=
  [r32 0x140 (tscnt s).toNat, r32 0x144 s.canl.tsref.toNat, r32 0x148 (stnCount s snSTALE * 2 ^ 16 + stnCount s snONLINE),
   r32 0x14C (stnCount s snJOINING * 2 ^ 16 + stnCount s snBAD)] ++
  regArr 0x400 4 128 o (fun w => [r32 0 ((List.range 8).foldl (fun a j => a + (stnGet s (8 * w + j)).st.toNat * 2 ^ (4 * j)) 0)]) ++
  regArr 0x1000 0x20 40 o (fun n => (List.range 6).map fun w => r32 (4 * w) (chWord s n w).toNat) ++
  regArr 0x3000 0x60 40 o (fifohdRegs s) ++
  regArr 0x8000 0x60 320 o (sbufRegs s)

def mbusRegs (s : State) (o : Nat) : List RegE :=
  regArr 0x200 0x10 6 o (fun k => let m := mbGet s k; [r32 0 (m.meter % 65536 * 2 ^ 16 + (mbCfg s k).baud % 4 * 4 + m.state.toNat), r32 4 m.done.toNat]) ++
  regArr 0x400 4 188 o fun w =>
    [r32 0 ((List.range 8).foldl (fun a j => match (allMeters s)[8 * w + j]? with
      | some x => a + (mtrGet s x.1 x.2).st.toNat * 2 ^ (4 * j)
      | none => a) 0)]

def ethlRegs (s : State) (o : Nat) : List RegE :=
  regArr 0x200 0x40 16 o (fun p =>
    let b := portBytes s p
    [r32 0 (u32 b 0), r64 8 (u64 b 8), r64 0x10 (u64 b 0x10),
     r32 0x18 ((portGet s p).txsize.toNat * 2 ^ 16 + (portGet s p).rxsize.toNat),
     r32 0x1C ((portGet s p).txhead.toNat * 2 ^ 16 + (portGet s p).rxhead.toNat),
     r64 0x20 (u64 b 0x20), r64 0x28 (u64 b 0x28), r64 0x30 (u64 b 0x30), r64 0x38 (u64 b 0x38)]) ++
  regArr 0x800 0x40 16 o fun p =>
    let b := ptpBytes s p
    [r32 0 (u32 b 0), r32 4 (u32 b 4), r64 8 (u64 b 8), r64 0x10 (u64 b 0x10), r64 0x18 (u64 b 0x18), r32 0x20 (u32 b 0x20),
     r32 0x24 (u32 b 0x24)]

def ethlStatus (s : State) : Nat := (List.range 16).foldl (fun a p => a + b2n (portGet s p).link * 2 ^ (4 + p)) 0

/-! ### TIME, RTC, PWR, SEC -/

def timeRegs (s : State) (o : Nat) : List RegE :=
  let t := s.time
  [r128 0x140 (timeForm (nowT s)).toNat, r64 0x150 t.tbc.toNat, r64 0x158 t.rate.toNat, r128 0x160 t.offset.toNat,
   r64 0x170 t.anchor.toNat, r32 0x178 t.gridErr.toNat, r32 0x17C t.flen.toNat, r128 0x180 0, r128 0x190 t.f0.toNat] ++
  regArr 0x400 0x20 32 o fun n =>
    let g := trigGet s n
    [r32 0 (g.width.toNat * 2 ^ 16 + g.out.toNat * 2 ^ 12 + g.src.toNat * 16 + g.edge.toNat * 4 + g.mode.toNat),
     r32 4 (b2n g.missed * 2 + b2n g.fired), r64 8 g.next.toNat, r64 0x10 g.period.toNat, r64 0x18 g.cap.toNat]

def rtcRegs (s : State) : List RegE :=
  let r := s.rtc
  let live := calWords r.cal
  let sn := calWords r.snapCal
  let st := calWords r.stgCal
  [r32 0x140 (b2n r.commitPend * 2 + b2n r.snapPend), r64 0x148 (rtcCount r).toNat, r32 0x150 live.1.toNat, r32 0x154 live.2.toNat,
   r64 0x158 r.snapCnt.toNat, r32 0x160 sn.1.toNat, r32 0x164 sn.2.toNat, r64 0x168 r.stgCnt.toNat, r32 0x170 st.1.toNat,
   r32 0x174 st.2.toNat, r32 0x178 r.stgFlags.toNat, r64 0x180 r.alarm.toNat, r32 0x188 (b2n r.almEn)]

def pwrRegs (s : State) (o : Nat) : List RegE :=
  [r32 0x140 (s.pwr.tjMax.toNat * 2 ^ 16 + s.pwr.tj.toNat), r32 0x144 s.pwr.vbat.toNat] ++
  regArr 0x200 4 12 o fun d => let v := domGet s d; [r32 0 (v.upcnt.toNat * 2 ^ 16 + b2n v.need * 4 + v.st.toNat)]

def pwrStatus (s : State) : Nat :=
  b2n s.pwr.pllC * 256 + b2n s.pwr.pllB * 128 + b2n s.pwr.pllA * 64 + b2n s.pwr.pd0Src * 32 + b2n s.pwr.pflock * 16

/-- The SEC registers; the debug registers follow R9 in a production boot (R409). -/
def secRegs (s : State) (o : Nat) : List RegE :=
  let x := s.sec
  [r32 0x140 x.tampSt.toNat, r64 0x148 x.tampTime.toNat, r32 0x150 x.tampCfg.toNat, r64 0x158 x.ocnt.toNat, r64 0x160 x.scnt.toNat,
   r32 0x168 x.fwFloor.toNat, r32 0x16C (rootsReg s), r32 0x170 (sessCount s)] ++
  (if x.debug then [r32 0x180 x.dbgCtl.toNat, r64 0x188 x.dbgAddr.toNat, r64 0x190 0] else []) ++
  regArr 0x8000 0x10 2048 o fun n =>
    let e := sessGet s n
    [r32 0 (e.kind.toNat * 2 ^ 24 + e.st.toNat * 2 ^ 20 + e.ref.toNat), r32 4 e.uses.toNat, r32 8 e.fails.toNat, r32 12 0]

/-! ### PAIR, REC, NVM, PNL -/

def pairRegs (s : State) : List RegE :=
  let b := pairBytes s
  let w := fun o => r64 o (u64 b (o - 0x140))
  let h := fun o => r32 o (u32 b (o - 0x140))
  [h 0x140, h 0x144, w 0x148, w 0x150, w 0x158, w 0x160, h 0x168, w 0x170, h 0x178, w 0x180, w 0x188, w 0x190, w 0x198, h 0x1A0,
   h 0x1A4, w 0x1A8, w 0x1B0, h 0x1B8]

def recRegs (s : State) : List RegE :=
  let r := s.recs
  [r32 0x140 r.lseq.toNat, r32 0x144 r.lfatal.toNat, r64 0x148 r.audNext.toNat, r64 0x150 r.audFirst.toNat, r64 0x158 r.audEnd.toNat,
   r32 0x160 r.audCap.toNat, r32 0x164 (audCount r), r64 0x168 r.opt.toNat, r32 0x170 r.pcyc.toNat, r32 0x174 r.journal.length]

def recStatus (s : State) : Nat :=
  b2n s.recs.clearing.isSome * 256 + b2n s.recs.afrozen * 128 + b2n (aWarn s) * 64 + b2n (audFull s) * 32 + b2n s.recs.lfrozen * 16

def nvmRegs (s : State) : List RegE :=
  let n := s.nvm
  let bad := nbCount s fun v => v.st == bkBAD_RUNTIME || v.st == bkWORN
  [r32 0x140 (n.rdlim.toNat * 2 ^ 16 + n.endur.toNat),
   r32 0x144 (n.geomTargets.toNat * 2 ^ 20 + n.geomPage.toNat * 2 ^ 18 + n.geomBlocks.toNat),
   r32 0x148 (bad * 2 ^ 16 + nbCount s fun v => v.st == bkBAD_FACTORY), r32 0x14C (reserveOf s 1 * 2 ^ 16 + reserveOf s 0),
   r32 0x150 (scrubAge s), r32 0x154 n.corrMax.toNat]

def nvmStatus (s : State) : Nat :=
  b2n s.nvm.tagLock * 512 + b2n (scrubLate s) * 256 + b2n (resvLow s) * 128 + b2n s.nvm.uncor * 64 + b2n s.nvm.formatted * 32 +
    b2n s.nvm.nandOk * 16

def pnlRegs (s : State) : List RegE :=
  [r32 0x140 s.pnl.fcrc.toNat, r64 0x148 s.pnl.useq.toNat, r32 0x150 (s.pnl.ph.toNat * 2 ^ 24 + s.pnl.row.toNat)]

/-! ### Blocks -/

/-- An atomic item of a block is in flight (Tables 0-5, 1-17). -/
def blkBusy (s : State) (b : Nat) : Bool :=
  if b = bRTC then s.rtc.draining
  else if b = bNVM then s.recs.op.isSome
  else (mastersOf b).any (masterBusy s)

/-- The power domains that hold a block's own registers; none: a domain that is always on (Table 1-8). -/
def blkDoms (b : Nat) : List Nat :=
  if b = bPNL ∨ b = bREC then []
  else (List.range 12).filter fun d => d != 5 && (domMasters d).any fun m => (mastersOf b).contains m

/-- A block in a powered-down domain (R29). -/
def blkOff (s : State) (b : Nat) : Bool := !(blkDoms b).isEmpty && !((blkDoms b).any (domOn s))

/-- The bits of STATUS that a block's own chapter defines. -/
def ownStatus (s : State) (b : Nat) : Nat :=
  if b = bHIF then s.hif.width.toNat * 512 + s.hif.speed.toNat * 128 + b2n s.hif.d3 * 64 + b2n s.hif.bme * 32 + b2n s.hif.link * 16
  else if b = bSCHED then b2n s.sched.bank * 128 + b2n s.sched.switchPend * 64 + b2n s.sched.shadowReady * 32 + b2n s.sched.run * 16
  else if b = bCELL then cellStatus s
  else if b = bLOOP then loopStatus s
  else if b = bSOLV then solvStatus s
  else if b = bPARC then parcStatus s
  else if b = bAXIS then axisStatus s
  else if b = bMETR then metrStatus s
  else if b = bCANL then s.canl.joins.length * 16
  else if b = bETHL then ethlStatus s
  else if b = bTIME then (timeStatus s).toNat / 16 * 16
  else if b = bRTC then (rtcStatus s).toNat / 16 * 16
  else if b = bPWR then pwrStatus s
  else if b = bSEC then secStatusBits s
  else if b = bPAIR then pairStatusBits s
  else if b = bREC then recStatus s
  else if b = bNVM then nvmStatus s
  else if b = bPNL then pnlStatusBits s
  else 0

/-- BLOCK.STATUS: IDLE is 1 and no other own bit is shown in a powered-down domain. -/
def blkStatus (s : State) (b : Nat) : W32 :=
  BitVec.ofNat 32 (if blkOff s b then 1 + b2n (blkGet s b).cntSat * 8 else ownStatus s b + commonBits s b (blkBusy s b))

/-- BLOCK.ID (Table 1-10). -/
def blkId (b : Nat) : Nat := b * 2 ^ 24 + 0x14200

/-- The registers of a block's own chapter near offset `o`. -/
def ownRegs (s : State) (b o : Nat) : List RegE :=
  if b = bSYS then sysRegs s else if b = bHIF then hifRegs s o else if b = bIRQ then irqRegs s o
  else if b = bSCHED then schedRegs s o else if b = bCELL then cellRegs s o else if b = bLOOP then loopRegs s o
  else if b = bSOLV then solvRegs s o else if b = bPARC then parcRegs s o else if b = bAXIS then axisRegs s o
  else if b = bMETR then metrRegs s o else if b = bCANL then canlRegs s o else if b = bETHL then ethlRegs s o
  else if b = bMBUS then mbusRegs s o else if b = bTIME then timeRegs s o else if b = bRTC then rtcRegs s
  else if b = bPWR then pwrRegs s o else if b = bSEC then secRegs s o else if b = bPAIR then pairRegs s
  else if b = bREC then recRegs s else if b = bNVM then nvmRegs s else if b = bPNL then pnlRegs s else []

/-- CELL.ENG[e] lies in the domain of CELL_e; the other registers of a block in the block's domain. -/
def regOff (s : State) (b o : Nat) : Bool :=
  if b = bCELL ∧ 0x200 ≤ o ∧ o < 0x400 then !(domOn s (if (o - 0x200) / 0x40 < 4 then 2 else 3)) else blkOff s b

/-- The register of a block at a word offset, where one is defined (R9, R29). -/
def regAt (s : State) (b o : Nat) : Option RegE :=
  if o = 0 then some (r32 0 (blkId b))
  else if o = 4 then some (r32 4 (b2n (enOf s b)))
  else if o = 8 then some (r32 8 (blkStatus s b).toNat)
  else if 0x40 ≤ o ∧ o < 0xC0 then some (r32 o (tblGet (blkGet s b).cnt ((o - 0x40) / 4) 0).toNat)
  else if 0xC0 ≤ o ∧ o < 0x140 then some (r32 o (tblGet (blkGet s b).cnt ((o - 0xC0) / 4) 0).toNat)
  else if o < 0x140 ∨ regOff s b o then none
  else (ownRegs s b o).find? fun e => decide (e.off ≤ o) && decide (o < e.off + 4 * e.words)

/-- A register access of 32 bits reaches a register: BAR0 serves SYS and PWR alone in BOOTFAIL (R498). -/
def regOf (s : State) (m : RegMaster) (addr : Nat) : Option RegE :=
  let b := addr / 65536
  let blocked := match m with | .bar0 _ => s.sys.stage == 0xF && b != bSYS && b != bPWR | _ => false
  if addr % 4 != 0 || decide (21 ≤ b) || blocked then none else regAt s b (addr % 65536)

end Sys2Proof.Machine
end

