-- ==== Sys2Proof/Machine/Bus.lean ====
section
/-! DEFINITION. Register accesses: reads with their effects (R12, R13, R296), writes by register, CTRL.EN (R33 to
R35), and the ring enables (R374, R382). DBGDATA is passed in, since it reaches other memories (R409). -/

namespace Sys2Proof.Machine

/-! ### Snapshots and staging (R13) -/

def wideGet (l : List WideLatch) (m : RegMaster) (a : Nat) : Tbl W32 :=
  match l.find? fun x => x.who == m && x.addr == a with
  | some x => x.words
  | none => []

def widePut (m : RegMaster) (a : Nat) (w : Tbl W32) (l : List WideLatch) : List WideLatch :=
  let r := l.filter fun x => !(x.who == m && x.addr == a)
  if w.isEmpty then r else r ++ [{ who := m, addr := a, words := w }]

/-- The words of a value, by their index. -/
def wordsOf (n v : Nat) : Tbl W32 :=
  ((List.range n).map fun i => BitVec.ofNat 32 (v / 2 ^ (32 * i))).zipIdx.foldl (fun t p => tblPut t p.2 p.1 0) []

def latchWide (m : RegMaster) (a n v : Nat) (s : State) : State := { s with snaps := widePut m a (wordsOf n v) s.snaps }

/-! ### Reads -/

/-- The channel whose FIFOHD word 0 lies at an offset of CANL. -/
def fifohdAt (b o : Nat) : Option Nat :=
  if b = bCANL ∧ 0x3000 ≤ o ∧ o < 0x3000 + 0x60 * 40 ∧ (o - 0x3000) % 0x60 = 0 then some ((o - 0x3000) / 0x60) else none

def isDbgData (b off : Nat) : Bool := b == bSEC && off == 0x190

/-- CNT[n] is read and cleared (Table 1-13). -/
def cntClear (b n : Nat) (s : State) : State :=
  blkPut s b { blkGet s b with cnt := tblPut (blkGet s b).cnt n 0 0 }

/-- A 32-bit read that reaches register `e` of block `b` at offset `o`. -/
def readReg (dbg : State → W64 × State) (m : RegMaster) (b o : Nat) (e : RegE) (s : State) : W32 × State :=
  let i := (o - e.off) / 4
  let a := b * 65536 + e.off
  if e.words = 1 then
    if 0x40 ≤ o ∧ o < 0xC0 then (BitVec.ofNat 32 e.val, cntClear b ((o - 0x40) / 4) s)
    else match fifohdAt b o with
      | some n => (fifoHeadId s n, fifoLatch n s)
      | none => (BitVec.ofNat 32 e.val, s)
  else if i = 0 then
    let r := if isDbgData b e.off then dbg s else (BitVec.ofNat 64 0, s)
    let v := if isDbgData b e.off then r.1.toNat else e.val
    (BitVec.ofNat 32 v, latchWide m a e.words v r.2)
  else (tblGet (wideGet s.snaps m a) i 0, s)

/-- A 32-bit read: without effect and counted where no register answers (R9, R371). -/
def readWord (dbg : State → W64 × State) (m : RegMaster) (addr : Nat) (s : State) : W32 × State :=
  match regOf s m addr with
  | none => (0, count bHIF 0 s)
  | some e => readReg dbg m (addr / 65536) (addr % 65536) e s

/-- A read of `size` bytes: 4 bytes, or 8 bytes as two reads, the lower address first (R371). -/
def busReadWith (dbg : State → W64 × State) (m : RegMaster) (addr size : Nat) (s : State) : W64 × State :=
  if size = 4 then
    let r := readWord dbg m addr s
    (r.1.zeroExtend 64, r.2)
  else if size = 8 ∧ addr % 8 = 0 then
    let lo := readWord dbg m addr s
    let hi := readWord dbg m (addr + 4) lo.2
    (hi.1 ++ lo.1, hi.2)
  else (0, count bHIF 0 s)

/-! ### CTRL.EN -/

/-- EN of these blocks is written by MC0 alone (Tables 2-14, 14-12, PWR.CTRL). -/
def enLocked (b : Nat) : Bool := b == bSCHED || b == bPWR || b == bSEC

/-- SCHED and SEC stop only at reset. -/
def enSticks (b : Nat) : Bool := b == bSCHED || b == bSEC

/-- A write of CTRL (R33, R35). -/
def enOp (m : RegMaster) (b : Nat) (v : Bool) (s : State) : State :=
  if (enLocked b && m != .mc0) || (enSticks b && !v) || enOf s b == v then s
  else if v then enable s b
  else enFalls b (setEn s b false)

/-! ### Ring enables -/

/-- A ring whose bit rises starts at index 0 with phase 1 (R374). -/
def ringStart (r : Nat) (s : State) : State :=
  let g := ringGet s r
  ringPut s r { g with cqTail := 0, sqHead := 0, phase := true, unread := 0, sqt := 0, cqh := 0, lastIgnored := false, fetching := 0 }

/-- A write of HIF.RINGEN: rings start, or drain (R382). -/
def ringenOp (v : W64) (s : State) : State :=
  let rising := (List.range 64).filter fun r => v.getLsbD r && !ringOn s r
  let t := rising.foldl (fun t r => ringStart r t) s
  { t with hif := { t.hif with ringEn := v } }

/-! ### Writes by register -/

/-- Bits of a flag table at 32w that a word of ones clears. -/
def flagsClear (t : Tbl Bool) (w v : Nat) : Tbl Bool :=
  (List.range 32).foldl (fun t b => if bit v b then tblPut t (32 * w + b) false false else t) t

/-- The W1C bits of STATUS (Table 1-12 and the chapters). -/
def statusWrite (b v : Nat) (s : State) : State :=
  let s1 := if bit v 3 then blkPut s b { blkGet s b with cntSat := false } else s
  if blkOff s b then s1
  else if b = bMETR then { s1 with metr := { s1.metr with resLost := s1.metr.resLost && !bit v 8 } }
  else if b = bSEC then { s1 with sec := { s1.sec with mc0flt := s1.sec.mc0flt && !bit v 11 } }
  else if b = bNVM then { s1 with nvm := { s1.nvm with uncor := s1.nvm.uncor && !bit v 6 } }
  else if b = bRTC then
    { s1 with rtc := { s1.rtc with osf := s1.rtc.osf && !bit v 9, almf := s1.rtc.almf && !bit v 8,
                                   calWrap := s1.rtc.calWrap && !bit v 7, snapDone := s1.rtc.snapDone && !bit v 6 } }
  else s1

/-- SYS.BOOTCFG: MC0 and MC1 alone; PWAIT 0 is reserved (R10, Table 18-11). -/
def bootCfgWrite (m : RegMaster) (v : Nat) (s : State) : State :=
  match m with
  | .bar0 _ => s
  | _ =>
    if unlocked s then
      { s with sys := { s.sys with pwait := if bits v 15 8 = 0 then s.sys.pwait else BitVec.ofNat 8 (bits v 15 8),
                                   twait := BitVec.ofNat 8 (bits v 7 0) } }
    else s

/-- A ring length code: 2 to 16; other values are reserved. -/
def ringLog (old : BitVec 5) (v : Nat) : BitVec 5 := if 2 ≤ v ∧ v ≤ 16 then BitVec.ofNat 5 v else old

/-- HIF.RING[r] at offset `o` (R374). -/
def ringWrite (r o v : Nat) (s : State) : State :=
  let g := ringGet s r
  if o = 0x1C then (if bit v 17 then ringPut s r { g with ringErr := false } else s)
  else if o ≠ 0 ∧ o ≠ 8 ∧ o ≠ 0x10 then s
  else if ringOn s r then count bHIF 6 s
  else if o = 0 then ringPut s r { g with sqBase := BitVec.ofNat 64 (v / 4096 * 4096) }
  else if o = 8 then ringPut s r { g with cqBase := BitVec.ofNat 64 (v / 4096 * 4096) }
  else ringPut s r { g with classMask := BitVec.ofNat 12 (bits v 27 16), cqLog := ringLog g.cqLog (bits v 12 8),
                            sqLog := ringLog g.sqLog (bits v 4 0) }

/-- One doubleword of the MSI-X table. -/
def msixWrite (k i v : Nat) (s : State) : State :=
  let e := (vecGet s k).toNat
  let w := if i = 0 then v / 4 * 4 else if i = 3 then v % 2 else v
  let n := e - (e / 2 ^ (32 * i) % 2 ^ 32) * 2 ^ (32 * i) + w * 2 ^ (32 * i)
  { s with hif := { s.hif with msix := tblPut s.hif.msix k (BitVec.ofNat 128 n) vecReset } }

def hifWrite (off o v : Nat) (s : State) : State :=
  let addr := BitVec.ofNat 64 (v / 4096 * 4096)
  if off = 0x140 then (if enOf s bHIF then count bHIF 6 s else { s with hif := { s.hif with dbAddr := addr } })
  else if off = 0x148 then (if enOf s bHIF then count bHIF 6 s else { s with hif := { s.hif with stAddr := addr } })
  else if off = 0x150 then ringenOp (BitVec.ofNat 64 v) s
  else if 0x200 ≤ off ∧ off < 0xA00 then ringWrite ((off - 0x200) / 0x20) ((off - 0x200) % 0x20) v s
  else if 0x8000 ≤ o ∧ o < 0x8400 then msixWrite ((o - 0x8000) / 16) ((o - 0x8000) / 4 % 4) v s
  else s

/-- A MASK that is set within 3 cycles of the selection comes too late (R391). -/
def lateMask (s : State) (v : IrqSrc) : Bool :=
  match v.selAt with
  | some t => decide (s.time.tbc.toNat ≤ t.toNat + 3)
  | none => false

/-- IRQ.SRC[n] (Table 13-19). -/
def srcWrite (m : RegMaster) (n v : Nat) (s : State) : State :=
  if isReservedSrc n then s
  else if n < 64 ∧ m ≠ .mc0 then count bIRQ 3 s
  else
    let g := srcGet s n
    let tgt := bits v 15 14
    let late := bit v 0 && !g.mask && lateMask s g
    countIf late bIRQ 0 (srcPut s n { g with
      dam := (g.dam && !bit v 31) || late, vec := BitVec.ofNat 6 (bits v 21 16),
      target := if n < 128 ∨ tgt = 3 then g.target else BitVec.ofNat 2 tgt,
      group := BitVec.ofNat 4 (bits v 11 8), pri := BitVec.ofNat 4 (bits v 7 4), mask := bit v 0,
      selAt := if late then none else g.selAt })

/-- IRQ.WAKEST: WAKE_N is released when the last bit clears (R495). -/
def wakeClear (v : Nat) (s : State) : State :=
  let w := s.irq.wakeSt &&& ~~~(BitVec.ofNat 32 v)
  let s1 := { s with irq := { s.irq with wakeSt := w } }
  if s.irq.wakeSt != 0 && w == 0 then emit (.wakeN true) s1 else s1

def irqWrite (m : RegMaster) (off v : Nat) (s : State) : State :=
  let w := BitVec.ofNat 32 v
  if off = 0x140 then cpl0Op m w s
  else if off = 0x144 then cpl1Op m w s
  else if off = 0x148 then swsetOp m w s
  else if 0x200 ≤ off ∧ off < 0x240 then
    let g := (off - 0x200) / 4
    grpPutI s g { grpGetI s g with hold := BitVec.ofNat 16 v }
  else if 0x280 ≤ off ∧ off < 0x300 then
    { s with irq := { s.irq with wake := tblPut s.irq.wake ((off - 0x280) / 4) { en := bit v 31, src := BitVec.ofNat 9 v } {} } }
  else if off = 0x300 then wakeClear v s
  else if 0x1000 ≤ off ∧ off < 0x1800 then srcWrite m ((off - 0x1000) / 4) v s
  else s

/-- CELL.ENG[e].AFLACC (Table 7-14). -/
def cellWrite (off v : Nat) (s : State) : State :=
  if 0x200 ≤ off ∧ off < 0x400 ∧ off % 0x40 = 0x28 then
    let e := (off - 0x200) / 0x40
    cePut e { ceGet s e with aflAcc := (ceGet s e).aflAcc &&& ~~~(BitVec.ofNat 7 v) } s
  else s

/-- A word of CANL.SBUF, while the buffer is neither pending nor sending (Table 10-12). -/
def sbufWrite (n b o v : Nat) (s : State) : State :=
  let x := bufGet s n b
  if x.st = 1 ∨ x.st = 2 then s
  else if o = 0 then bufPut s n b { x with idw := BitVec.ofNat 32 v }
  else if o = 4 then bufPut s n b { x with ctx := BitVec.ofNat 11 (bits v 26 16), sealed := bit v 8, dlc := BitVec.ofNat 4 (bits v 3 0) }
  else if o < 0x48 then bufPut s n b { x with data := tblPutAll x.data (o - 8) (leBytes 4 v) 0 }
  else s

def canlWrite (off v : Nat) (s : State) : State :=
  if 0x1000 ≤ off ∧ off < 0x1500 then
    let n := (off - 0x1000) / 0x20
    let o := off % 0x20
    if o = 0 then
      chPut s n { chGet s n with cancelLate := (chGet s n).cancelLate && !bit v 5, fifoOvf := (chGet s n).fifoOvf && !bit v 4 }
    else if o = 4 then txcanOp n (BitVec.ofNat 8 v) s
    else if o = 8 then txreqOp n (BitVec.ofNat 8 v) s
    else if o = 0x10 then fifopopOp n (BitVec.ofNat 32 v) s
    else s
  else if 0x8000 ≤ off ∧ off < 0x8000 + 0x60 * 320 then
    let k := (off - 0x8000) / 0x60
    sbufWrite (k / 8) (56 + k % 8) ((off - 0x8000) % 0x60) v s
  else s

/-- ETHL.PORT[p] and ETHL.PTP[p]: the rings while the port is disabled, PSTATE by MC0 alone. -/
def ethlWrite (m : RegMaster) (off v : Nat) (s : State) : State :=
  if 0x200 ≤ off ∧ off < 0x600 then
    let p := (off - 0x200) / 0x40
    let o := (off - 0x200) % 0x40
    let q := portGet s p
    if o = 0 then (if bit v 4 then portPut s p { q with pnwarn := false } else s)
    else if q.pen then s
    else if o = 8 then portPut s p { q with rxbase := BitVec.ofNat 64 (v / 64 * 64) }
    else if o = 0x10 then portPut s p { q with txbase := BitVec.ofNat 64 (v / 64 * 64) }
    else if o = 0x18 then
      portPut s p { q with rxsize := if v % 65536 ≤ 4096 then BitVec.ofNat 16 v else q.rxsize,
                           txsize := if v / 65536 ≤ 4096 then BitVec.ofNat 16 (v / 65536) else q.txsize }
    else s
  else if 0x800 ≤ off ∧ off < 0xC00 ∧ off % 0x40 = 4 ∧ m = .mc0 ∧ 1 ≤ v % 16 ∧ v % 16 ≤ 9 then
    let p := (off - 0x800) / 0x40
    ptpPut s p { ptpGet s p with pstate := BitVec.ofNat 4 v }
  else s

/-- TIME.TRIG[n], by its owner (R357). DESIGN CHOICE (log entry 80): PERIODIC and a PERIOD below 1,000 exclude each other,
whichever is written last: the field keeps its value (R10). -/
def trigWrite (m : RegMaster) (n o v : Nat) (s : State) : State :=
  let g := trigGet s n
  if n < 2 ∧ m ≠ .mc0 then s
  else if o = 0 then
    trigPut s n { g with
      width := if bits v 31 16 = 0 then g.width else BitVec.ofNat 16 (bits v 31 16),
      out := if bits v 13 12 = 3 then g.out else BitVec.ofNat 2 (bits v 13 12),
      src := if 17 < bits v 9 4 then g.src else BitVec.ofNat 6 (bits v 9 4),
      edge := if bits v 3 2 = 0 then g.edge else BitVec.ofNat 2 (bits v 3 2),
      mode := if bits v 1 0 = 2 ∧ g.period.toNat < 1000 then g.mode else BitVec.ofNat 2 (bits v 1 0) }
  else if o = 4 then trigPut s n { g with missed := g.missed && !bit v 1, fired := g.fired && !bit v 0 }
  else if o = 8 then trigPut s n { g with next := BitVec.ofNat 64 v }
  else if o = 0x10 then (if g.mode = 2 ∧ v < 1000 then s else trigPut s n { g with period := BitVec.ofNat 64 v })
  else s

def timeWrite (m : RegMaster) (off v : Nat) (s : State) : State :=
  if off = 0x158 then rateOp m (BitVec.ofNat 64 v) s
  else if off = 0x180 then stepOp m (BitVec.ofNat 128 v) s
  else if 0x400 ≤ off ∧ off < 0x800 then trigWrite m ((off - 0x400) / 0x20) ((off - 0x400) % 0x20) v s
  else s

/-- RTC: a staging write while a commit is pending is discarded and counted (R365). -/
def rtcWrite (off v : Nat) (s : State) : State :=
  let r := s.rtc
  let w := BitVec.ofNat 32 v
  if off = 0x140 then
    let s1 := if bit v 0 then requestSnap s else s
    if bit v 1 then requestCommit s1 else s1
  else if off = 0x180 then { s with rtc := { r with alarm := BitVec.ofNat 48 v } }
  else if off = 0x188 then { s with rtc := { r with almEn := bit v 0 } }
  else if off ≠ 0x168 ∧ off ≠ 0x170 ∧ off ≠ 0x174 ∧ off ≠ 0x178 then s
  else if r.commitPend then count bRTC 1 s
  else if off = 0x168 then { s with rtc := { r with stgCnt := BitVec.ofNat 64 v } }
  else if off = 0x170 then { s with rtc := { r with stgCal := calOf0 r.stgCal w } }
  else if off = 0x174 then { s with rtc := { r with stgCal := calOf1 r.stgCal w } }
  else { s with rtc := { r with stgFlags := BitVec.ofNat 4 v } }

/-- SEC.DBGCTL, DBGADDR and DBGDATA of a debug boot (R409); a reserved target keeps the field (R10). -/
def secWrite (dbg : W64 → State → State) (off v : Nat) (s : State) : State :=
  if !s.sec.debug then s
  else if off = 0x180 then
    let target := if v % 16 ≤ 9 then v % 16 else s.sec.dbgCtl.toNat % 16
    { s with sec := { s.sec with dbgCtl := BitVec.ofNat 32 (target + b2n (bit v 8) * 256) } }
  else if off = 0x188 then { s with sec := { s.sec with dbgAddr := BitVec.ofNat 64 v } }
  else if off = 0x190 then dbg (BitVec.ofNat 64 v) s
  else s

/-- NVM.CFG lies in the MRAM (R488). -/
def nvmWrite (off v : Nat) (s : State) : State :=
  if off = 0x140 ∧ unlocked s then
    { s with nvm := { s.nvm with endur := BitVec.ofNat 16 v, rdlim := BitVec.ofNat 16 (v / 65536) } }
  else s

/-- The value `v` reaches the whole register at `off` of block `b`; `o` is the offset of the word written. -/
def regApply (dbg : W64 → State → State) (m : RegMaster) (b off o v : Nat) (s : State) : State :=
  if off = 4 then enOp m b (bit v 0) s
  else if off = 8 then statusWrite b v s
  else if off < 0x140 then s
  else if b = bSYS then
    if off = 0x14C then bootCfgWrite m v s else if off = 0x150 then rstreqOp m (BitVec.ofNat 32 v) s else s
  else if b = bHIF then hifWrite off o v s
  else if b = bIRQ then irqWrite m off v s
  else if b = bSCHED then (if off = 0x184 then unfrzOp (BitVec.ofNat 32 v) s else s)
  else if b = bCELL then cellWrite off v s
  else if b = bLOOP then
    if 0x180 ≤ off ∧ off < 0x1C0 then { s with loops := { s.loops with fechg := flagsClear s.loops.fechg ((off - 0x180) / 4) v } } else s
  else if b = bPARC then
    if 0x1A0 ≤ off ∧ off < 0x1C0 then { s with parc := { s.parc with almChg := flagsClear s.parc.almChg ((off - 0x1A0) / 4) v } } else s
  else if b = bCANL then canlWrite off v s
  else if b = bETHL then ethlWrite m off v s
  else if b = bTIME then timeWrite m off v s
  else if b = bRTC then rtcWrite off v s
  else if b = bSEC then secWrite dbg off v s
  else if b = bPAIR then pairCfgWrite off v s
  else if b = bNVM then nvmWrite off v s
  else s

/-- A write of a wide register's highest word, with the whole value `v`, is discarded, so that no value takes effect and
the staging stays (R13, log entry 25). -/
def wideBarred (s : State) (m : RegMaster) (b off v : Nat) : Bool :=
  if b = bHIF then (if off < 0x150 then enOf s bHIF else decide (0x200 ≤ off) && ringOn s ((off - 0x200) / 0x20))
  else if b = bETHL then (portGet s ((off - 0x200) / 0x40)).pen
  else if b = bTIME then
    (m != .mc0 && (decide (off < 0x400) || decide ((off - 0x400) / 0x20 < 2))) ||
    (decide (0x400 ≤ off) && off % 0x20 == 0x10 && (trigGet s ((off - 0x400) / 0x20)).mode == 2 && decide (v < 1000)) ||
    (off == 0x158 && !rateOk (BitVec.ofNat 64 v)) || (off == 0x180 && !s.time.armed)
  else if b = bRTC then off == 0x168 && s.rtc.commitPend
  else if b = bPAIR then enOf s bPAIR
  else false

/-- A 32-bit write that reaches register `e`: a wide one takes effect with its highest word (R13). -/
def writeReg (dbg : W64 → State → State) (m : RegMaster) (b o : Nat) (e : RegE) (v : W32) (s : State) : State :=
  let i := (o - e.off) / 4
  let a := b * 65536 + e.off
  if e.words = 1 then regApply dbg m b e.off o v.toNat s
  else
    let st := wideGet s.staged m a
    if i + 1 < e.words then { s with staged := widePut m a (st.filter (fun kv => kv.1 != i) ++ [(i, v)]) s.staged }
    else
      let lower := fun j => match st.find? fun kv => kv.1 == j with
        | some kv => kv.2.toNat
        | none => e.val / 2 ^ (32 * j) % 2 ^ 32
      let whole := ((List.range i).map fun j => lower j * 2 ^ (32 * j)).sum + v.toNat * 2 ^ (32 * i)
      let s1 := if wideBarred s m b e.off whole then s else { s with staged := widePut m a [] s.staged }
      regApply dbg m b e.off o whole s1

/-- A 32-bit write: without effect and counted where no register answers (R9, R371). -/
def writeWord (dbg : W64 → State → State) (m : RegMaster) (addr : Nat) (v : W32) (s : State) : State :=
  match regOf s m addr with
  | none => count bHIF 0 s
  | some e => writeReg dbg m (addr / 65536) (addr % 65536) e v s

/-- A write of `size` bytes: 4 bytes, or 8 bytes as two writes, the lower address first (R371). -/
def busWriteWith (dbg : W64 → State → State) (m : RegMaster) (addr size : Nat) (v : W64) (s : State) : State :=
  if size = 4 then writeWord dbg m addr (BitVec.ofNat 32 v.toNat) s
  else if size = 8 ∧ addr % 8 = 0 then
    writeWord dbg m (addr + 4) (BitVec.ofNat 32 (v.toNat / 2 ^ 32)) (writeWord dbg m addr (BitVec.ofNat 32 v.toNat) s)
  else count bHIF 0 s

end Sys2Proof.Machine
end

