-- ==== Sys2Proof/Machine/Fabric.lean ====
section
/-! DEFINITION. The fabric regions (Table 2-6): what a read of each finds, and what a store of MC1 does there. -/

namespace Sys2Proof.Machine

/-! ### Fabric regions -/

def fDRAM : Nat := 0x0400000000
def fSTAGE : Nat := 0x1000400000
def fMRAM : Nat := 0x1100000000
def fSOLV : Nat := 0x1200000000
def fPARC : Nat := 0x1300000000
def fLOOP : Nat := 0x1400000000
def fEND : Nat := 0x1500000000

/-- The 16 bytes of a staging entry (R174). -/
def stageBytes (g : Stage) : Bytes :=
  leBytes 8 g.value.toNat ++ leBytes 4 g.point ++ [g.qual, if g.isNew then 1 else 0, 0, 0]

/-- Rows of a table of `size` bytes each: the bytes from offset `o`. -/
def rowBytes (f : Nat → Bytes) (size o n : Nat) : Bytes := slice (f (o / size) ++ f (o / size + 1)) (o % size) n

/-- MRAM contents by offset: the areas whose layout the manual gives. The reserved areas read 0. -/
def mramBytes (s : State) (o n : Nat) : Option Bytes :=
  if o < 0x20000 ∨ (0x52000 ≤ o ∧ o < 0x5A000) then none
  else if 0x400000 ≤ o then
    some (rowBytes (fun i =>
      let v := nbGet s i
      leBytes 4 v.log.toNat ++ leBytes 4 v.erases.toNat ++ leBytes 4 v.reads.toNat ++ [v.st, v.part, 0, 0]) 16 (o - 0x400000) n)
  else some (mramRead o n s)

/-- The header of Table 5-8 as parcel memory holds it. -/
def parcHead (p : ParcRegs) : Bytes :=
  leBytes 4 0x43524150 ++ leBytes 4 p.segs.length ++ leBytes 4 p.nodes.length ++ leBytes 4 p.npar ++ leBytes 2 p.amb.length ++
    leBytes 2 p.watch.length ++ leBytes 2 p.pubs.length ++ [BitVec.ofNat 8 p.hslot, 0] ++ leBytes 4 p.dtMs ++ leBytes 4 p.cp.toNat ++
    leBytes 8 p.psig.toNat ++ leBytes 8 p.flowScale.toNat ++ leBytes 4 p.qZero.toNat ++ leBytes 4 p.mergeTol.toNat ++
    leBytes 4 p.rhoRef.toNat ++ zeros 4

def ambBytes (a : W32 × F32) : Bytes := leBytes 4 a.1.toNat ++ leBytes 4 a.2.toNat
def pairBytesOf (p : ParcPair) : Bytes := leBytes 4 p.index ++ leBytes 1 p.field ++ zeros 3 ++ leBytes 8 p.value.toNat
def parcBindBytes (b : ParcBind) : Bytes := leBytes 1 b.kind ++ [0] ++ leBytes 2 b.index ++ leBytes 4 b.point ++ leBytes 8 b.scale.toNat

/-- The tables as a read finds them: while a step is in progress, with what its capture took (R144, R148). -/
def shownParc (p : ParcRegs) : ParcRegs :=
  match p.step with
  | some c => if p.cfgSt = pcREADY ∧ c.segs.length = p.segs.length then { p with segs := c.segs, amb := c.amb, watch := c.watch } else p
  | none => p

/-- Parcel memory by offset (Table 5-1). DEDUCED (log entry 29): the density table follows the header on its 64-byte boundary. -/
def parcBytesAt (s : State) (o n : Nat) : Option Bytes :=
  let p := shownParc s.parc
  let row := fun (f : Nat → Bytes) (len size base : Nat) =>
    if (o - base + n - 1) / size < len then some (rowBytes f size (o - base) n) else none
  if p.cfgSt ≠ pcREADY then none
  else if o < 0x100000 then some (rowBytes (poolBytes s) 16 o n)
  else if o < 0x140000 then row (fun i => segBytes (p.segs.getD i {})) p.segs.length 32 0x100000
  else if o < 0x160000 then row (fun i => nodeBytes (p.nodes.getD i {})) p.nodes.length 16 0x140000
  else if o < 0x160040 then some (slice (parcHead p) (o - 0x160000) n)
  else if o < 0x160400 then row (fun i => leBytes 4 (p.dens.getD i 0).toNat) p.dens.length 4 0x160040
  else if o < 0x160C00 then row (fun i => ambBytes (p.amb.getD i (0, 0))) p.amb.length 8 0x160400
  else if o < 0x162000 then row (fun i => watchBytes (p.watch.getD i {})) p.watch.length 16 0x160C00
  else if o < 0x16A000 then row (fun i => leBytes 4 (p.flowIn.getD i 0).toNat) p.flowIn.length 4 0x162000
  else if o < 0x16E000 then row (fun i => match p.pend[i]? with | some x => pairBytesOf x | none => []) p.pend.length 16 0x16A000
  else if 0x170000 ≤ o then row (fun i => match p.pubs[i]? with | some x => parcBindBytes x | none => []) p.pubs.length 16 0x170000
  else none

/-- Loop, axis and trace memory by offset (Table 8-1): loop records and trace buffers. -/
def loopBytesAt (s : State) (o n : Nat) : Option Bytes :=
  if o < 0x30000 then
    let g := o / 384
    if o % 384 < 256 ∧ g % 128 < nloop s (g / 128) then
      some (slice (loopCfgBytes (lcfg s (g / 128) (g % 128)) ++ loopStBytes (lstGet s (g / 128) (g % 128))) (o % 384) n)
    else none
  else if 0x40000 ≤ o ∧ o < 0x80000 then
    let e := (o - 0x40000) / 0x10000
    let at_ := fun i => leBytes 2 (tblGet (lpGet s e).trace.buf i 0).toNat
    some (rowBytes (fun i => at_ i ++ at_ (i + 1) ++ at_ (i + 2) ++ at_ (i + 3)) 2 (o % 0x10000) n)
  else none

/-- `n` ≤ 8 naturally aligned bytes of the fabric as master `m` reads them; none: contents the manual leaves open. -/
def fabRead (s : State) (m a n : Nat) : Option Bytes :=
  if a < fDRAM then some (dramRead s a n)
  else if a < viewOut 0 then some (slice (ptBytes (readPt s m false ((a - viewIn 0) / 16))) (a % 16) n)
  else if a < fSTAGE then some (slice (ptBytes (readPt s m true ((a - viewOut 0) / 16))) (a % 16) n)
  else if a < fMRAM then some (slice (stageBytes (tblGet s.pimg.staging ((a - fSTAGE) / 16) {})) (a % 16) n)
  else if a < fSOLV then mramBytes s (a - fMRAM) n
  else
    let f := if a < fPARC then none else if a < fLOOP then parcBytesAt s (a - fPARC) n else loopBytesAt s (a - fLOOP) n
    match f with
    | some b => some b
    | none => otherBytes s a n

/-- A store of MC1 to a point record of the output view: VALUE carries GOOD, QUAL is written as it is; TYPE, CLASS,
OWNER and STAMP are not written by a store (R167, R171, R515). -/
def storePoint (p o : Nat) (b : Bytes) (s : State) : State :=
  let r := workPt s p
  let n := patch (ptBytes r) o b
  if o < 8 then pointWrite 1 p (BitVec.ofNat 64 (u64 n 0)) 0 s
  else if o = 8 then pointWrite 1 p r.value (u8 n 8) s
  else s

/-- A store of MC1 to a staging entry: VALUE, QUAL and NEW; the staging map fixes POINT (R174). -/
def storeStage (e o : Nat) (b : Bytes) (s : State) : State :=
  let g := tblGet s.pimg.staging e {}
  let n := patch (stageBytes g) o b
  let v : Stage := { g with value := BitVec.ofNat 64 (u64 n 0), qual := byteAt n 12, isNew := bit (u8 n 13) 0 }
  { s with pimg := { s.pimg with staging := tblPut s.pimg.staging e v {} } }

/-! ### Stores to the memories of the engines -/

/-- The segment that a changed record gives; parcels that CNTM1 adds hold what was in their entries, a free value. -/
def segFrom (free : Nat) (old : Segment) (b : Bytes) : Segment :=
  let h := segAt b 0
  let n := u8 b 30 + 1
  let add := (List.range (n - old.parcels.length)).map fun i =>
    let w := (Config.word (free + i)).toNat
    ({ vol := BitVec.ofNat 32 w, temp := BitVec.ofNat 32 (w / 2 ^ 32), age := BitVec.ofNat 32 (w / 2 ^ 16) } : Parcel)
  { h with
    loss := f32At b 20, head := u8 b 29, overrun := bit (u8 b 31) 0, stagnant := bit (u8 b 31) 1,
    parcels := old.parcels.take n ++ add }

def parcelFrom (b : Bytes) : Parcel := { vol := f32At b 0, temp := f32At b 4, age := f32At b 8 }

/-- The parcel that pool entry `j` holds: its segment and its place there. -/
def poolHolder (p : ParcRegs) (j : Nat) : Option (Nat × Nat) :=
  match p.segs.findIdx? fun g => decide (g.pbase ≤ j) && decide (j < g.pbase + g.pcap) with
  | some g =>
    let x := p.segs.getD g {}
    let i := (j - x.pbase + x.pcap - x.head) % max 1 x.pcap
    if i < x.parcels.length then some (g, i) else none
  | none => none

/-- The header as a store changes it; its counts are those of the tables and stay. -/
def headFrom (p : ParcRegs) (b : Bytes) : ParcRegs :=
  { p with
    npar := u32 b 0xC, hslot := u8 b 0x16, dtMs := u32 b 0x18, cp := f32At b 0x1C, psig := BitVec.ofNat 64 (u64 b 0x20),
    flowScale := f64At b 0x28, qZero := f32At b 0x30, mergeTol := f32At b 0x34, rhoRef := f32At b 0x38 }

/-- One byte of parcel memory changes: the entry that holds it is read back from its changed bytes (Tables 5-1 to 5-4). -/
def parcByte (o : Nat) (v : Byte) (s : State) : State :=
  let p := s.parc
  let put := fun (q : ParcRegs) => { s with parc := q }
  let miss := otherStore (fPARC + o) v s
  if p.cfgSt ≠ pcREADY then miss
  else if o < 0x100000 then
    match poolHolder p (o / 16) with
    | some (g, i) => put { p with segs := p.segs.modify g fun x => { x with
        parcels := x.parcels.modify i fun y => parcelFrom (patch (parcelBytes y) (o % 16) [v]) } }
    | none => miss
  else if o < 0x140000 then
    let i := (o - 0x100000) / 32
    if i < p.segs.length then put { p with segs := p.segs.modify i fun x => segFrom s.free x (patch (segBytes x) (o % 32) [v]) } else miss
  else if o < 0x160000 then
    let i := (o - 0x140000) / 16
    if i < p.nodes.length then put { p with nodes := p.nodes.modify i fun x =>
      let b := patch (nodeBytes x) (o % 16) [v]
      { nodeAt b 0 with noflow := bit (u8 b 9) 0, srcbad := bit (u8 b 9) 1 } } else miss
  else if o < 0x160040 then put (headFrom p (patch (parcHead p) (o - 0x160000) [v]))
  else if o < 0x160400 then
    let i := (o - 0x160040) / 4
    if i < p.dens.length then put { p with dens := p.dens.modify i fun x => f32At (patch (leBytes 4 x.toNat) (o % 4) [v]) 0 } else miss
  else if o < 0x160C00 then
    let i := (o - 0x160400) / 8
    if i < p.amb.length then put { p with amb := p.amb.modify i fun x =>
      let b := patch (ambBytes x) (o % 8) [v]
      (f32At b 0, f32At b 4) } else miss
  else if o < 0x162000 then
    let i := (o - 0x160C00) / 16
    if i < p.watch.length then put { p with watch := p.watch.modify i fun x => watchAt (patch (watchBytes x) (o % 16) [v]) 0 } else miss
  else if o < 0x16A000 then
    let i := (o - 0x162000) / 4
    if i < p.flowIn.length then put { p with flowIn := p.flowIn.modify i fun x => f32At (patch (leBytes 4 x.toNat) (o % 4) [v]) 0 } else miss
  else if o < 0x16E000 then
    let i := (o - 0x16A000) / 16
    if i < p.pend.length then put { p with pend := p.pend.modify i fun x =>
      let b := patch (pairBytesOf x) (o % 16) [v]
      { x with index := u32 b 0, field := u8 b 4, value := f64At b 8 } } else miss
  else if 0x170000 ≤ o then
    let i := (o - 0x170000) / 16
    if i < p.pubs.length then put { p with pubs := p.pubs.modify i fun x => parcBindAt (patch (parcBindBytes x) (o % 16) [v]) 0 } else miss
  else miss

/-- The loop state that changed bytes give (Table 8-4). -/
def loopStFrom (x : LoopSt) (b : Bytes) : LoopSt :=
  let f := fun i => f64At b (8 * i)
  let k := u8 b 0x39
  { x with
    i := f 0, d := f 1, xprev := f 2, u := f 3, p := f 4, v := f 5, a := f 6, mode := BitVec.ofNat 2 (u8 b 0x38),
    first := bit k 0, fe := bit k 1, hold := bit k 2, satHi := bit k 3, satLo := bit k 4, tracking := bit k 5,
    feCnt := BitVec.ofNat 16 (u16 b 0x3A) }

/-- One byte of loop, axis and trace memory changes (Table 8-1). -/
def loopByte (o : Nat) (v : Byte) (s : State) : State :=
  let e := o / 384 / 128
  let i := o / 384 % 128
  let k := o % 384
  if o < 0x30000 ∧ i < nloop s e ∧ k < 192 then
    putCfg s e i (loopCfgAt (patch (loopCfgBytes (lcfg s e i)) k [v]) 0)
  else if o < 0x30000 ∧ i < nloop s e ∧ k < 256 then
    lstPut s e i (loopStFrom (lstGet s e i) (patch (loopStBytes (lstGet s e i)) (k - 192) [v]))
  else if 0x40000 ≤ o ∧ o < 0x80000 then
    let e := (o - 0x40000) / 0x10000
    let j := o % 0x10000 / 2
    let g := lpGet s e
    let w : W16 := BitVec.ofNat 16 (u16 (patch (leBytes 2 (tblGet g.trace.buf j 0).toNat) (o % 2) [v]) 0)
    lpPut s e { g with trace := { g.trace with buf := tblPut g.trace.buf j w 0 } }
  else otherStore (fLOOP + o) v s

/-- One byte of an engine's memory changes. The manual gives the solver store no layout: what MC1 stores there reads back, and the runs
do not see it (log entry 29). -/
def memByte (a : Nat) (v : Byte) (s : State) : State :=
  if a < fPARC then otherStore a v s else if a < fLOOP then parcByte (a - fPARC) v s else loopByte (a - fLOOP) v s

/-- A store of MC1 inside its windows. The frozen copy changes only at a snapshot (R173), and the MRAM accepts its own
writers alone (R447). -/
def fabStore (a : Nat) (b : Bytes) (s : State) : State :=
  if a < fDRAM then dramWrite a b s
  else if a < viewOut 0 then s
  else if a < fSTAGE then storePoint ((a - viewOut 0) / 16) (a % 16) b s
  else if a < fMRAM then storeStage ((a - fSTAGE) / 16) (a % 16) b s
  else if a < fSOLV then count bNVM 8 s
  else b.zipIdx.foldl (fun s x => memByte (a + x.2) x.1 s) s

end Sys2Proof.Machine
end

