-- ==== Sys2Proof/Machine/InsnMem.lean ====
section
/-! DEFINITION. Memory of the instructions: the address map of MC1 (R224, Table
7-8), LD, ST, the branches and the stack (R216, R226), the special registers (Table 7-9), interrupt entry
and exit (R228, R229), and the debug access (R409). -/

namespace Sys2Proof.Machine

/-! ### The address map of MC1 (Table 7-8) -/

def regBase : Nat := 0x1F00000000
def regEnd : Nat := 0x1F01000000

def isRegAddr (a : Nat) : Bool := decide (regBase ≤ a) && decide (a < regEnd)

/-- A fabric address that a window of MC1 with the permission holds. -/
def mc1Win (s : State) (a n : Nat) (write : Bool) : Bool := decide (a < fEND) && inWindow s 1 a n write

def inCode (a n : Nat) : Bool := decide (mc1Code ≤ a) && decide (a + n ≤ mc1Code + 0x100000)

/-- A load of `n` bytes: the value with the state after it, or the fault's vector. -/
def mc1LoadWith (dbg : State → W64 × State) (a n : Nat) (s : State) : (W64 × State) ⊕ Nat :=
  if isRegAddr a then .inl (busReadWith dbg .mc1 (a - regBase) n s)
  else if a % n ≠ 0 then .inr vALIGN
  else if inCode a n then .inl (BitVec.ofNat 64 (leNat (tblRange s.mc1.code (a - mc1Code) n 0)), s)
  else if inData a n then .inl (BitVec.ofNat 64 (leNat (mdRead s.mc1 a n)), s)
  else if mc1Win s a n false then
    match fabRead s 1 a n with
    | some b => .inl (BitVec.ofNat 64 (leNat b), s)
    | none => let r := freeWord s; .inl (BitVec.ofNat 64 (r.1.toNat % 2 ^ (8 * n)), r.2)
  else .inr vACCESS

/-- A store of the low `n` bytes of `v`: the state after it, or the fault's vector. -/
def mc1StoreWith (dbg : W64 → State → State) (a n : Nat) (v : W64) (s : State) : State ⊕ Nat :=
  if isRegAddr a then .inl (busWriteWith dbg .mc1 (a - regBase) n v s)
  else if a % n ≠ 0 then .inr vALIGN
  else if inData a n then .inl { s with mc1 := mdWrite s.mc1 a (leBytes n v.toNat) }
  else if mc1Win s a n true then .inl (fabStore a (leBytes n v.toNat) s)
  else .inr vACCESS

/-! ### Debug access (R409) -/

/-- The target of DBGCTL: 0 MC0, 1 MC1, 2 + e CELL_e. -/
def dbgTarget (s : State) : Nat := s.sec.dbgCtl.toNat % 16

/-- A read of DBGADDR at the target; a read that reaches no memory gives 0. -/
def dbgRead (s : State) : W64 × State :=
  let a := s.sec.dbgAddr.toNat
  let t := dbgTarget s
  if t = 0 then
    if isRegAddr a then busReadWith (fun s => (0, s)) .mc0 (a - regBase) 8 s
    else if a < fEND ∧ a % 8 = 0 then
      match fabRead s 0 a 8 with
      | some b => (BitVec.ofNat 64 (leNat b), s)
      | none => freeWord s
    else freeWord s
  else if t = 1 then
    match mc1LoadWith (fun s => (0, s)) a 8 s with
    | .inl r => r
    | .inr _ => (0, s)
  else if t < 10 ∧ a + 8 ≤ 262144 then (BitVec.ofNat 64 (cellLoad (engGet s (t - 2)) a 8), s)
  else (0, s)

/-- A write of DBGADDR at the target. -/
def dbgWrite (v : W64) (s : State) : State :=
  let a := s.sec.dbgAddr.toNat
  let t := dbgTarget s
  if t = 0 then
    if isRegAddr a then busWriteWith (fun _ s => s) .mc0 (a - regBase) 8 v s
    else if a < fEND ∧ a % 8 = 0 then fabStore a (leBytes 8 v.toNat) s
    else s
  else if t = 1 then
    match mc1StoreWith (fun _ s => s) a 8 v s with
    | .inl r => r
    | .inr _ => s
  else if t < 10 ∧ a + 8 ≤ 262144 then
    engPut s (t - 2) { engGet s (t - 2) with data := tblPutAll (engGet s (t - 2)).data a (leBytes 8 v.toNat) 0 }
  else s

/-- Register accesses as every master makes them. -/
def busRead (m : RegMaster) (addr size : Nat) (s : State) : W64 × State := busReadWith dbgRead m addr size s
def busWrite (m : RegMaster) (addr size : Nat) (v : W64) (s : State) : State := busWriteWith dbgWrite m addr size v s

def mc1Load (a n : Nat) (s : State) : (W64 × State) ⊕ Nat := mc1LoadWith dbgRead a n s
def mc1Store (a n : Nat) (v : W64) (s : State) : State ⊕ Nat := mc1StoreWith dbgWrite a n v s

/-! ### LD and ST (R216, R224) -/

/-- The fault of the instruction that MC1 has just left. -/
def insnFault (vec : Nat) (s : State) : State := mc1Fault vec (s.mc1.pc - 8) s

def mc1G (s : State) (i : BitVec 6) : W64 := gRead s.mc1.g i
def mc1SetG (i : BitVec 6) (v : W64) (s : State) : State := { s with mc1 := { s.mc1 with g := gWrite s.mc1.g i v } }

def ldEff (x : Ctl) (d a : BitVec 6) (sz : BitVec 2) (sx : Bool) (v : W32) (s : State) : State :=
  match x.core with
  | .cell e => setG x.core d (extLoad sz sx (cellLoad (engGet s e) (cellAddr (getG x.core s a) v sz) (sizeOf sz))) s
  | .mc1 =>
    match mc1Load (mc1G s a + v.signExtend 64).toNat (sizeOf sz) s with
    | .inl r => mc1SetG d (extLoad sz sx r.1.toNat) r.2
    | .inr f => insnFault f s

/-- LD. -/
def execLd (x : Ctl) (d a : BitVec 6) (sz : BitVec 2) (sx : Bool) (v : W32) (s : State) : Host.Outcome State Fault Refusal :=
  insn x 2 (ldEff x d a sz sx v) s

def stEff (x : Ctl) (d a : BitVec 6) (sz : BitVec 2) (v : W32) (s : State) : State :=
  match x.core with
  | .cell e =>
    let at_ := cellAddr (getG x.core s a) v sz
    if cellStorable (engGet s e) at_ (sizeOf sz) then
      engPut s e { engGet s e with data := tblPutAll (engGet s e).data at_ (leBytes (sizeOf sz) (getG x.core s d).toNat) 0 }
    else count bCELL 3 s
  | .mc1 =>
    match mc1Store (mc1G s a + v.signExtend 64).toNat (sizeOf sz) (mc1G s d) s with
    | .inl t => t
    | .inr f => insnFault f s

/-- ST. -/
def execSt (x : Ctl) (d a : BitVec 6) (sz : BitVec 2) (v : W32) (s : State) : Host.Outcome State Fault Refusal :=
  insn x 1 (stEff x d a sz v) s

/-! ### Branches and the stack (R226) -/

def mc1Pc (v : W64) (s : State) : State := { s with mc1 := { s.mc1 with pc := v } }

/-- G63, the stack pointer. -/
def spOf (s : State) : W64 := mc1G s 63
def setSp (v : W64) (s : State) : State := mc1SetG 63 v s

/-- A doubleword is pushed, then `next` acts; below SPLIM the push is not made and STACK is raised. -/
def pushThen (v : W64) (next : State → State) (s : State) : State :=
  let sp := spOf s - 8
  if (spOf s).toNat < s.mc1.splim.toNat + 8 then insnFault vSTACK s
  else match mc1Store sp.toNat 8 v s with
    | .inl t => next (setSp sp t)
    | .inr f => insnFault f s

/-- The doubleword at G63 is taken, and G63 moves above it. -/
def popThen (next : W64 → State → State) (s : State) : State :=
  match mc1Load (spOf s).toNat 8 s with
  | .inl r => setSp (spOf s + 8) (next r.1 r.2)
  | .inr f => insnFault f s

/-- The target of BR and CALL: 8 × sext(IMM32) from the instruction (Table 7-4). -/
def brTarget (s : State) (v : W32) : W64 := s.mc1.pc - 8 + 8 * v.signExtend 64

/-- BR: 3 cycles taken, 1 not. -/
def execBr (x : Ctl) (v : W32) (s : State) : Host.Outcome State Fault Refusal :=
  insnS x (if guardOk x s then 3 else 1) (fun s => mc1Pc (brTarget s v) s) s

def execCall (x : Ctl) (v : W32) (s : State) : Host.Outcome State Fault Refusal :=
  insnS x 3 (fun s => pushThen s.mc1.pc (mc1Pc (brTarget s v)) s) s

def execRet (x : Ctl) (s : State) : Host.Outcome State Fault Refusal := insnS x 3 (popThen mc1Pc) s

def execJr (x : Ctl) (a : BitVec 6) (s : State) : Host.Outcome State Fault Refusal := insnS x 3 (fun s => mc1Pc (mc1G s a) s) s

def execCallr (x : Ctl) (a : BitVec 6) (s : State) : Host.Outcome State Fault Refusal :=
  insnS x 3 (fun s => pushThen s.mc1.pc (mc1Pc (mc1G s a)) s) s

def execPush (x : Ctl) (a : BitVec 6) (s : State) : Host.Outcome State Fault Refusal :=
  insnS x 1 (fun s => pushThen (mc1G s a) id s) s

def execPop (x : Ctl) (d : BitVec 6) (s : State) : Host.Outcome State Fault Refusal := insnS x 2 (popThen (mc1SetG d)) s

/-! ### Special registers (Table 7-9) -/

def specialReg (s : State) (i : Nat) : W64 :=
  if i = 0 then psrOf s.mc1 else if i = 1 then s.mc1.splim else if i = 2 then s.mc1.vbase else s.time.tbc

/-- An MSR: CPRI is left, and VBASE takes a multiple of 4,096 in the code memory. -/
def setSpecial (i : Nat) (v : W64) (s : State) : State :=
  if i = 0 then { s with mc1 := psrSet s.mc1 v s.mc1.cpri }
  else if i = 1 then { s with mc1 := { s.mc1 with splim := v } }
  else if v.toNat % 4096 = 0 ∧ inCode v.toNat 4096 then { s with mc1 := { s.mc1 with vbase := v } }
  else s

/-- MRS and MSR: an index above 3, and an MSR to TBC, are ILLEGAL. -/
def execMrs (x : Ctl) (d : BitVec 6) (idx : BitVec 4) (s : State) : Host.Outcome State Fault Refusal :=
  if idx.toNat ≤ 3 then insnS x 1 (fun s => mc1SetG d (specialReg s idx.toNat) s) s else illegal x s

def execMsr (x : Ctl) (a : BitVec 6) (idx : BitVec 4) (s : State) : Host.Outcome State Fault Refusal :=
  if idx.toNat ≤ 2 then insnS x 1 (fun s => setSpecial idx.toNat (mc1G s a) s) s else illegal x s

/-! ### Interrupt entry and exit (R228, R229) -/

/-- The source that would pre-empt a context of MC1, whatever IE holds. -/
def preempts (s : State) (cpri : Nat) (pmask : BitVec 4) : Option Nat :=
  match bestSrc s 1 with
  | some n => if cpri < (srcGet s n).pri.toNat ∧ pmask.toNat < (srcGet s n).pri.toNat then some n else none
  | none => none

/-- The dispatch phase: the source is selected and delivered, its handler entered. -/
def mc1Enter (n : Nat) (s : State) : State :=
  let t := deliverSrc n 1 0 (selectSrc n s)
  { t with mc1 := { t.mc1 with pc := vectorOf t.mc1 n, cpri := BitVec.ofNat 5 (srcGet s n).pri.toNat, entry := none, waiting := false } }

/-- Every byte of a context frame lies where MC1 may write it. -/
def frameAt (s : State) (a n : Nat) (write : Bool) : Bool :=
  (List.range n).all fun i => let b := a + 8 * i
    b % 8 == 0 && (inData b 8 || (!write && inCode b 8) || mc1Win s b 8 write)

/-- The frame is written, doubleword by doubleword. -/
def frameStore (a : Nat) (f : Bytes) (s : State) : State :=
  (List.range 8).foldl (fun t i => match mc1Store (a + 8 * i) 8 (BitVec.ofNat 64 (u64 f (8 * i))) t with
    | .inl u => u
    | .inr _ => t) s

/-- The save phase: the frame below G63; a breach of SPLIM is taken as STACK, and the interrupt stays pending (R227). -/
def mc1Save (s : State) : Option State :=
  let sp := spOf s - 64
  if (spOf s).toNat < s.mc1.splim.toNat + 64 ∨ !frameAt s sp.toNat 8 true then none
  else some (setSp sp (frameStore sp.toNat (frameOf s.mc1) s))

/-- The fault of an entry that cannot save its frame. -/
def entryFault (s : State) : State :=
  let vec := if (spOf s).toNat < s.mc1.splim.toNat + 64 then vSTACK else vACCESS
  let t := { s with mc1 := { s.mc1 with entry := none, waiting := false } }
  mc1Fault vec t.mc1.pc t

/-- The source that holds an entry at the end of cycle 6: one above S's priority takes the place of S; where S is no longer
eligible, the source that pre-empts now (R228, R389). -/
def entryHolder (first : Nat) (s : State) : Option Nat :=
  match preempts s s.mc1.cpri.toNat s.mc1.pmask with
  | none => none
  | some n =>
    if (eligibleFor s 1).contains first && decide ((srcGet s n).pri.toNat ≤ (srcGet s first).pri.toNat) then some first
    else some n

/-- The end of cycle 6: a source holds the entry, or the entry is abandoned (R228, R389). -/
def entrySelect (e : IrqEntry) (s : State) : State :=
  match entryHolder e.first s with
  | some n => selectSrc n { s with mc1 := { s.mc1 with entry := some { e with sel := some n } } }
  | none => count bIRQ 1 (setSp e.sp { s with mc1 := { s.mc1 with entry := none } })

/-- Cycle 8: the selected source is delivered. -/
def entryDeliver (n : Nat) (s : State) : State :=
  let t := deliverSrc n 1 0 s
  { t with mc1 := { t.mc1 with
      pc := vectorOf t.mc1 n, cpri := BitVec.ofNat 5 (srcGet s n).pri.toNat, entry := none, fresh := true } }

/-- A source pre-empts MC1 at an instruction boundary: the entry begins. -/
def entryBegin (s : State) : State :=
  let sp := spOf s
  match preempts s s.mc1.cpri.toNat s.mc1.pmask, mc1Save s with
  | some n, some t => { t with mc1 := { t.mc1 with entry := some { left := 8, first := n, sel := none, sp := sp }, waiting := false } }
  | some _, none => entryFault s
  | none, _ => s

/-- MC1 may take an interrupt now; after an entry the handler's first instruction comes first (Table 7-12, cycle 9). -/
def mc1Takes (s : State) : Bool :=
  !frozenM s 1 && s.mc1.ie && !s.mc1.fresh && (preempts s s.mc1.cpri.toNat s.mc1.pmask).isSome

/-- A whole entry: save, selection, delivery; an entry in progress goes on from where it is. -/
def mc1Entry (s : State) : State :=
  match s.mc1.entry with
  | some e =>
    (match e.sel with
     | some n => entryDeliver n s
     | none =>
       let t := entrySelect e s
       match t.mc1.entry with
       | some f => (match f.sel with | some n => entryDeliver n t | none => t)
       | none => t)
  | none =>
    if mc1Takes s then
      match mc1Save s with
      | none => entryFault s
      | some t => (match preempts t t.mc1.cpri.toNat t.mc1.pmask with
        | some n => let u := mc1Enter n t; { u with mc1 := { u.mc1 with fresh := true } }
        | none => t)
    else if s.mc1.waiting && (preempts s s.mc1.cpri.toNat s.mc1.pmask).isSome then
      { s with mc1 := { s.mc1 with waiting := false } }
    else s

/-- INTERRUPT_ENTRY: MC0's highest eligible source is delivered to it; MC1 takes its own. -/
def execInterruptEntry (c : IrqCore) (s : State) : Host.Outcome State Fault Refusal :=
  .next (match c with
    | .mc0 => (match bestSrc s 0 with | some n => deliverSrc n 0 0 (selectSrc n s) | none => s)
    | .mc1 => mc1Entry s)

/-- The frame at G63. -/
def frameLoad (a : Nat) (s : State) : Bytes :=
  ((List.range 8).map fun i => match mc1Load (a + 8 * i) 8 s with
    | .inl r => leBytes 8 r.1.toNat
    | .inr _ => zeros 8).flatten

/-- The exit of a handler: a source that would pre-empt the context in the frame is entered in 3 cycles, else the context
is restored (R229). -/
def mc1Exit (s : State) : State :=
  if s.mc1.cpri = 16 then { s with mc1 := frameTake s.mc1 (mdRead s.mc1 mc1FSave 64) }
  else if !frameAt s (spOf s).toNat 8 false then insnFault vACCESS s
  else
    let m := frameTake s.mc1 (frameLoad (spOf s).toNat s)
    match (if m.ie then preempts s m.cpri.toNat m.pmask else none) with
    | some n => let t := mc1Enter n s; { t with mc1 := { t.mc1 with busy := 3 } }
    | none => setSp (spOf s + 64) { s with mc1 := m }

/-- RETI. -/
def execReti (x : Ctl) (s : State) : Host.Outcome State Fault Refusal := insnS x 6 mc1Exit s

/-- WFI waits until a source would pre-empt, whatever IE holds. -/
def execWfi (x : Ctl) (s : State) : Host.Outcome State Fault Refusal :=
  insnS x 1 (fun s => { s with mc1 := { s.mc1 with waiting := (preempts s s.mc1.cpri.toNat s.mc1.pmask).isNone } }) s

/-- FENCE: every earlier write has reached its target. -/
def execFence (x : Ctl) (s : State) : Host.Outcome State Fault Refusal := insnS x 1 id s

end Sys2Proof.Machine
end

