-- ==== Sys2Proof/Machine/BusRows.lean ====
section
/-! DEFINITION. The register rows: each is an access of a master at the address that the manual gives the register
(R8 to R14, R29, R371). -/

namespace Sys2Proof.Machine

/-- An address of block `b`. -/
def regAddr (b off : Nat) : Nat := b * 65536 + off

/-- A read: what it returns leaves the block, word by word. -/
def readRow (m : RegMaster) (addr size : Nat) (s : State) : Host.Outcome State Fault Refusal :=
  let r := busRead m addr size s
  let lo : Out := .regRead m addr (BitVec.ofNat 32 r.1.toNat)
  let hi : Out := .regRead m (addr + 4) (BitVec.ofNat 32 (r.1.toNat / 2 ^ 32))
  .next (emitAll (if size = 8 then [lo, hi] else [lo]) r.2)

def writeRow (m : RegMaster) (addr size : Nat) (v : W64) (s : State) : Host.Outcome State Fault Refusal :=
  .next (busWrite m addr size v s)

/-- EN_WRITE: CTRL of a block (R33). -/
def execEnWrite (m : RegMaster) (blk : Fin 21) (v : W32) (s : State) : Host.Outcome State Fault Refusal :=
  writeRow m (regAddr blk 4) 4 (v.zeroExtend 64) s

/-- CNT_READ: CNT[n] is returned and cleared (R12). -/
def execCntRead (m : RegMaster) (blk : Fin 21) (n : Fin 32) (s : State) : Host.Outcome State Fault Refusal :=
  readRow m (regAddr blk (0x40 + 4 * n.val)) 4 s

/-- WIDE_READ: the lowest word of a wide value latches the reader's snapshot (R13). -/
def execWideRead (m : RegMaster) (addr : BitVec 24) (s : State) : Host.Outcome State Fault Refusal := readRow m addr.toNat 4 s

/-- SCHED_UNFRZ (R408). -/
def execSchedUnfrz (m : RegMaster) (v : W32) (s : State) : Host.Outcome State Fault Refusal :=
  writeRow m (regAddr bSCHED 0x184) 4 (v.zeroExtend 64) s

/-- RSTREQ (R494). -/
def execRstreq (m : RegMaster) (v : W32) (s : State) : Host.Outcome State Fault Refusal :=
  writeRow m (regAddr bSYS 0x150) 4 (v.zeroExtend 64) s

/-- RATE (R351). -/
def execRate (m : RegMaster) (v : W64) (s : State) : Host.Outcome State Fault Refusal := writeRow m (regAddr bTIME 0x158) 8 v s

/-- STEP (R352): 128 bits, the lower half first. -/
def execStep (m : RegMaster) (v : W128) (s : State) : Host.Outcome State Fault Refusal :=
  writeRow m (regAddr bTIME 0x188) 8 (BitVec.ofNat 64 (v.toNat / 2 ^ 64)) (busWrite m (regAddr bTIME 0x180) 8 (BitVec.ofNat 64 v.toNat) s)

/-- SNAP and COMMIT_REQUEST: RTC.CMD (R363, R365). -/
def execSnap (m : RegMaster) (s : State) : Host.Outcome State Fault Refusal := writeRow m (regAddr bRTC 0x140) 4 1 s
def execCommitRequest (m : RegMaster) (s : State) : Host.Outcome State Fault Refusal := writeRow m (regAddr bRTC 0x140) 4 2 s

/-- TXCAN (R301), TXREQ (R293), FIFOPOP and FIFOHD_READ (R296) of a channel. -/
def execTxcan (m : RegMaster) (ch : Fin 40) (v : Byte) (s : State) : Host.Outcome State Fault Refusal :=
  writeRow m (regAddr bCANL (0x1004 + 0x20 * ch.val)) 4 (v.zeroExtend 64) s
def execTxreq (m : RegMaster) (ch : Fin 40) (v : Byte) (s : State) : Host.Outcome State Fault Refusal :=
  writeRow m (regAddr bCANL (0x1008 + 0x20 * ch.val)) 4 (v.zeroExtend 64) s
def execFifopop (m : RegMaster) (ch : Fin 40) (v : W32) (s : State) : Host.Outcome State Fault Refusal :=
  writeRow m (regAddr bCANL (0x1010 + 0x20 * ch.val)) 4 (v.zeroExtend 64) s
def execFifohdRead (m : RegMaster) (ch : Fin 40) (s : State) : Host.Outcome State Fault Refusal :=
  readRow m (regAddr bCANL (0x3000 + 0x60 * ch.val)) 4 s

/-- RINGEN (R374, R382). -/
def execRingen (m : RegMaster) (v : W64) (s : State) : Host.Outcome State Fault Refusal := writeRow m (regAddr bHIF 0x150) 8 v s

/-- CPL0, CPL1 (R388) and SWSET (R387). -/
def execCpl0 (m : RegMaster) (v : W32) (s : State) : Host.Outcome State Fault Refusal :=
  writeRow m (regAddr bIRQ 0x140) 4 (v.zeroExtend 64) s
def execCpl1 (m : RegMaster) (v : W32) (s : State) : Host.Outcome State Fault Refusal :=
  writeRow m (regAddr bIRQ 0x144) 4 (v.zeroExtend 64) s
def execSwset (m : RegMaster) (v : W32) (s : State) : Host.Outcome State Fault Refusal :=
  writeRow m (regAddr bIRQ 0x148) 4 (v.zeroExtend 64) s

/-- DBGDATA (R409): a read, or a write of 64 bits. -/
def execDbgdata (m : RegMaster) (v : Option W64) (s : State) : Host.Outcome State Fault Refusal :=
  match v with
  | none => readRow m (regAddr bSEC 0x190) 8 s
  | some x => writeRow m (regAddr bSEC 0x190) 8 x s

/-- REGISTER_WRITE: any other register, by its access type (R12, R14). -/
def execRegisterWrite (m : RegMaster) (addr : BitVec 24) (size : Nat) (v : W64) (s : State) : Host.Outcome State Fault Refusal :=
  writeRow m addr.toNat size v s

/-- READ_WITHOUT_EFFECT: 0, and HIF.CNT[0] (R9, R371). -/
def execReadWithoutEffect (m : RegMaster) (addr : BitVec 24) (size : Nat) (s : State) : Host.Outcome State Fault Refusal :=
  readRow m addr.toNat size s

end Sys2Proof.Machine
end

