-- ==== Sys2Proof/Machine/Effects.lean ====
section
/-! DEFINITION. The opcodes (Table 13-8): the effect of each, and the host buffer that it reads (R384). -/

namespace Sys2Proof.Machine

/-- The assigned opcodes. -/
def assignedOp (op : Nat) : Bool :=
  decide (op ≤ 0x04) || (decide (0x10 ≤ op) && decide (op ≤ 0x15)) || (decide (0x20 ≤ op) && decide (op ≤ 0x24)) ||
  op == 0x30 || op == 0x31 || (decide (0x38 ≤ op) && decide (op ≤ 0x3C)) || (decide (0x40 ≤ op) && decide (op ≤ 0x43)) ||
  (decide (0x50 ≤ op) && decide (op ≤ 0x52)) || op == 0x58 || op == 0x59 || (decide (0x60 ≤ op) && decide (op ≤ 0x63)) ||
  (decide (0x68 ≤ op) && decide (op ≤ 0x74)) || (decide (0x78 ≤ op) && decide (op ≤ 0x83))

/-- The effect of an opcode, after the common checks. -/
def effOf (d : HostDesc) (s : State) : State :=
  match dOp d with
  | 0x00 => effNop d s
  | 0x01 => effImageLoad d s
  | 0x02 => effImageSwitch d s
  | 0x03 => effImageAbort d s
  | 0x04 => effUnfreeze d s
  | 0x10 => effPtRead d s
  | 0x11 => effPtWrite d s
  | 0x12 => effPtForce d s
  | 0x13 => effCellMode d s
  | 0x14 => effCellStep d s
  | 0x15 => effCellRead d s
  | 0x20 => effSolvDelta d s
  | 0x21 => effSolvRun d s
  | 0x22 => effSolvCut d s
  | 0x23 => effSolvRead d s
  | 0x24 => effSolvReload d s
  | 0x30 => effParcSet d s
  | 0x31 => effParcRead d s
  | 0x38 => effLoopMode d s
  | 0x39 => effLoopParam d s
  | 0x3A => effLoopTrace d s
  | 0x3B => effLoopRead d s
  | 0x3C => effAxisCmd d s
  | 0x40 => effMetrRead d s
  | 0x41 => effMetrCal d s
  | 0x42 => effMetrLock d s
  | 0x43 => effMetrTwclr d s
  | 0x50 => effLinkRead d s
  | 0x51 => effLinkEvict d s
  | 0x52 => effLinkBuson d s
  | 0x58 => effEthRead d s
  | 0x59 => effEthPort d s
  | 0x60 => effTimeRead d s
  | 0x61 => effTimeRearm d s
  | 0x62 => effRtcRead d s
  | 0x63 => effRtcWrite d s
  | 0x68 => effSecAttest d s
  | 0x69 => effSecRead d s
  | 0x6A => effSecVerify false d s
  | 0x6B => effSecVerify true d s
  | 0x6C => effSecRetire d s
  | 0x6D => effSecRoot d s
  | 0x6E => effSecFloor d s
  | 0x6F => effSecCtl d s
  | 0x70 => effPairRead d s
  | 0x71 => effPairMode d s
  | 0x72 => effPairRekey d s
  | 0x73 => effPairResync d s
  | 0x74 => effPairSwapreq d s
  | 0x78 => effRecRead d s
  | 0x79 => effAudFreeze d s
  | 0x7A => effAudClear d s
  | 0x7B => effLanThaw d s
  | 0x7C => effHistWrite d s
  | 0x7D => effTagWrite d s
  | 0x7E => effTagLock d s
  | 0x7F => effNvmFormat d s
  | 0x80 => effPnlLoad d s
  | 0x81 => effPnlUpdate d s
  | 0x82 => effPnlConfig d s
  | 0x83 => effPnlClear d s
  | _ => complete d stRANGE 0 (count bHIF 2 s)

/-- The end of a copy into a host buffer, by its opcode. -/
def copyEnd (r : CopyRun) (s : State) : State :=
  match dOp r.desc with
  | 0x10 => ptReadEnd r s
  | 0x23 => solvReadEnd r s
  | _ => parcReadEnd r s

/-- A copy that no event can overtake between its first record and its last. -/
def copyOne (d : HostDesc) : Bool :=
  if dOp d = 0x23 then d8 d 17 == 1 && decide (d32 d 28 ≤ 1) else decide (d32 d 24 ≤ 1)

/-- A host slot goes on with the copies, the accesses and the deltas that waited for one (R19, R130). -/
def slotWork (s : State) : State :=
  let s1 := s.hif.todo.foldl (fun s d => effOf d s) { s with hif := { s.hif with todo := [] } }
  let s2 := s1.hif.copies.foldl (fun s r => copyTry copyEnd (copyOne r.desc) r s) { s1 with hif := { s1.hif with copies := [] } }
  [0, 1, 2, 3].foldl (fun s k => deltaGo k s) s2

/-- The address of the host buffer that a descriptor names. -/
def bufAddr (d : HostDesc) : W64 :=
  BitVec.ofNat 64 (d64 d (if [0x11, 0x12, 0x20, 0x30, 0x39, 0x3A, 0x41, 0x6D].contains (dOp d) then 24 else 32))

/-- `n` records of 16 bytes, where the count is in its range. -/
def recsLen (n top : Nat) : Nat := if n ≤ top then 16 * n else 0

/-- The bytes of the host buffer that a descriptor reads; 0 where its fields are out of range. -/
def bufLen (s : State) (d : HostDesc) : Nat :=
  match dOp d with
  | 0x01 => if 64 ≤ d32 d 20 ∧ d32 d 20 ≤ 16777216 then d32 d 20 else 0
  | 0x11 => recsLen (d32 d 20) 4096
  | 0x12 => recsLen (d32 d 20) 1024
  | 0x20 => recsLen (d32 d 20) 65536
  | 0x30 => recsLen (d32 d 20) 1024
  | 0x39 => recsLen (d32 d 20) 1024
  | 0x3A => if d8 d 17 = 1 then 256 else 0
  | 0x41 => (match d8 d 16 with | 0 => 12 | 1 => 24 | 2 => 32 | _ => 0)
  | 0x6A => 192
  | 0x6B => 304
  | 0x6D => if d8 d 16 = 0 then 97 else 0
  | 0x7C => 4096
  | 0x7D => if d16 d 18 ≤ 512 then d16 d 18 else 0
  | 0x80 => if windowOk s d then d16 d 22 * (d16 d 20 / 4) else 0
  | 0x82 => 2240
  | _ => 0

/-- The read of a host buffer is requested, in this host slot or in the next one. -/
def askBuf (d : HostDesc) (s : State) : State :=
  let s1 := { s with hif := { s.hif with reads := s.hif.reads ++ [(d, slotOpen s)] } }
  if slotOpen s then emit (.hostRead (bufAddr d) (bufLen s d)) s1 else s1

/-- The effect of a descriptor whose buffer is still in host memory waits for it. -/
def effBuf (d : HostDesc) (s : State) : State :=
  if readsHost (dOp d) && d.buf.isEmpty && decide (0 < bufLen s d) then askBuf d s else effOf d s

/-- The checks of R383 on a started descriptor, from the first. -/
def checkDesc (d : HostDesc) (s : State) : State :=
  if assignedOp (dOp d) then runDesc effBuf d s else complete d stRANGE 0 (count bHIF 2 s)

end Sys2Proof.Machine
end

