-- ==== Sys2Proof/Machine/Host.lean ====
section
/-! DEFINITION. Host slots: doorbells, fetch, start and close point (R371 to R385, R499), the data that the host
returns, and the end of a signature verification (R402, R403). -/

namespace Sys2Proof.Machine

/-! ### Starting descriptors (R381) -/

/-- HIF fetches and starts: enabled and in a slot since then (R35), with Bus Master Enable, outside D3hot (R372, R382). -/
def hifServes (s : State) : Bool := runsEn s bHIF && s.hif.bme && !s.hif.d3 && !frozenM s 17

/-- The start queue of a ring, in submission order; the first number bounds the descriptors looked at. -/
def pumpRing : Nat → Nat → State → State
  | 0, _, s => s
  | n + 1, r, s =>
    match (ringGet s r).queue with
    | [] => s
    | d :: q =>
      if canStart s d && ringOn s r && !deltaWaits s d then
        let s1 := ringPut s r { ringGet s r with
          queue := q, started := (ringGet s r).started ++ [d] }
        pumpRing n r (checkDesc d s1)
      else s

def pump (s : State) : State :=
  if hifServes s then (List.range 64).foldl (fun t r => pumpRing (ringGet t r).queue.length r t) s else s

/-! ### Doorbell records (R375, R376, R388) -/

def ringSize (log : BitVec 5) : Nat := 2 ^ log.toNat

/-- A record that lies outside its rings, or frees entries that were never written. -/
def doorbellBad (g : Ring) (sqt cqh : Nat) : Bool :=
  let c := ringSize g.cqLog
  decide (ringSize g.sqLog ≤ sqt) || decide (c ≤ cqh) || decide (g.unread < (cqh + c - g.cqh.toNat) % c)

/-- Submission entries that are new and not yet requested. -/
def newEntries (g : Ring) : Nat :=
  let q := ringSize g.sqLog
  (g.sqt.toNat + 2 * q - g.sqHead.toNat - g.fetching) % q

/-- The reads of `n` descriptors from the next submission entry, in one piece or across the wrap. -/
def descReads (g : Ring) (n : Nat) : List Out :=
  let q := ringSize g.sqLog
  let i := (g.sqHead.toNat + g.fetching) % q
  let k := min n (q - i)
  let at_ := fun j => g.sqBase + BitVec.ofNat 64 (64 * j)
  if n = 0 then [] else if k = n then [.hostRead (at_ i) (64 * n)] else [.hostRead (at_ i) (64 * k), .hostRead (at_ 0) (64 * (n - k))]

/-- Descriptor reads of a ring: at most 32 of it and 128 in all in a host slot (Table 13-5). -/
def fetchRing (r : Nat) (s : State) : State :=
  let g := ringGet s r
  let n := min (newEntries g) (min (32 - g.slotN) (128 - s.hif.fetched))
  if n = 0 ∨ !ringOn s r ∨ !hifServes s then s
  else
    let s1 := ringPut s r { g with
      fetching := g.fetching + n, slotN := g.slotN + n }
    emitAll (descReads g n) { s1 with hif := { s1.hif with
      firstRing := if s.hif.fetched = 0 then r else s.hif.firstRing, fetched := s.hif.fetched + n } }

/-- A doorbell record of 64 bytes has arrived: bytes 0 to 11 count. -/
def takeDoorbell (r : Nat) (b : Bytes) (s : State) : State :=
  let g := ringGet s r
  if !ringOn s r then s
  else if doorbellBad g (u32 b 0) (u32 b 4) then count bHIF 1 (ringPut s r { g with ringErr := true, lastIgnored := true })
  else
    let c := ringSize g.cqLog
    let s1 := ringPut s r { g with
      lastIgnored := false, sqt := BitVec.ofNat 32 (u32 b 0), cqh := BitVec.ofNat 32 (u32 b 4), vack := BitVec.ofNat 32 (u32 b 8),
      unread := g.unread - (u32 b 4 + c - g.cqh.toNat) % c }
    fetchRing r (if g.vack.toNat = u32 b 8 then s1 else vackDone r s1)

/-! ### Descriptors and buffers -/

/-- A descriptor as fetched: its place in the ring, and nothing of its buffer yet. -/
def fetched (r : Fin 64) (i : Nat) (d : HostDesc) : HostDesc :=
  { ring := r, sqidx := BitVec.ofNat 16 i, bytes := slice d.bytes 0 64, buf := [], readFail := false, signed := none, outerTag := 0 }

/-- Descriptors have arrived: SQHEAD passes them, and they start in submission order. -/
def takeDescs (r : Fin 64) (ds : List HostDesc) (s : State) : State :=
  let g := ringGet s r
  let l := ds.take g.fetching
  let q := ringSize g.sqLog
  let new := l.zipIdx.map fun p => fetched r ((g.sqHead.toNat + p.2) % q) p.1
  if !ringOn s r then ringPut s r { g with fetching := 0 }
  else pump (ringPut s r { g with
    fetching := g.fetching - l.length, sqHead := BitVec.ofNat 16 ((g.sqHead.toNat + l.length) % q), queue := g.queue ++ new })

/-- The started descriptor that a buffer belongs to. -/
def readOf (s : State) (d : HostDesc) : Option HostDesc :=
  (s.hif.reads.find? fun p => p.1.ring == d.ring && p.1.sqidx == d.sqidx && p.1.bytes == d.bytes).map (·.1)

/-- A started descriptor no longer waits for its buffer; it carries `b` or the mark of the failure. -/
def endRead (e : HostDesc) (b : Bytes) (fail : Bool) (s : State) : HostDesc × State :=
  let e2 : HostDesc := { e with buf := b, readFail := fail }
  let s1 := { s with hif := { s.hif with reads := s.hif.reads.eraseP fun p => p.1 == e } }
  let g := ringGet s1 e.ring
  (e2, ringPut s1 e.ring { g with started := g.started.map fun x => if x == e then e2 else x })

/-- A host buffer has arrived: the effect of its descriptor follows. -/
def takeBuffer (d : HostDesc) (s : State) : State :=
  match readOf s d with
  | some e => let r := endRead e d.buf false s; pump (effOf r.1 r.2)
  | none => s

def takeRead (w : HostRead) (s : State) : State :=
  match w with
  | .doorbell r b => takeDoorbell r b s
  | .descriptors r ds => takeDescs r ds s
  | .buffer d => takeBuffer d s

/-- HOST_READ_COMPLETION: after the close point the data waits for the next host slot (R380). -/
def execHostReadCompletion (w : HostRead) (s : State) : Host.Outcome State Fault Refusal :=
  .next (if s.hif.inSlot && !s.hif.closed && !frozenM s 17 then takeRead w s
    else { s with hif := { s.hif with late := s.hif.late ++ [w] } })

/-- HOST_READ_FAILURE (R384): CNT[5], and the descriptor whose buffer it was completes DROPPED. -/
def execHostReadFailure (w : HostReadFail) (s : State) : Host.Outcome State Fault Refusal :=
  let s1 := count bHIF 5 s
  .next (match w with
    | .doorbell _ => s1
    | .descriptors r => ringPut s1 r { ringGet s1 r with fetching := 0 }
    | .buffer d =>
      match readOf s d with
      | some e => let r := endRead e [] true s1; complete r.1 stDROPPED 0 r.2
      | none => s1)

/-! ### The slot -/

/-- One doorbell read for each enabled ring, from the ring after the one served first in the last slot. -/
def doorbellReads (s : State) : List Out :=
  ((List.range 64).map fun i => (s.hif.firstRing + 1 + i) % 64).filterMap fun r =>
    if ringOn s r then some (.hostRead (s.hif.dbAddr + BitVec.ofNat 64 (64 * r)) 64) else none

/-- Writes and buffer reads that waited for a slot are issued. -/
def issueWaiting (s : State) : State :=
  let w := s.hif.writes.map fun p => Out.hostWrite p.1 p.2
  let r := (s.hif.reads.filter fun p => !p.2).map fun p => Out.hostRead (bufAddr p.1) (bufLen s p.1)
  emitAll (w ++ r) { s with hif := { s.hif with writes := [], reads := s.hif.reads.map fun p => (p.1, true) } }

def clearSlotN (s : State) : State :=
  (List.range 64).foldl (fun t r => if (ringGet t r).slotN = 0 then t else ringPut t r { ringGet t r with slotN := 0 }) s

/-- A host slot starts with MFN `n` (Table 13-5). Without Bus Master Enable, or in D3hot, it issues no host request, and
what the started descriptors do in shared memory goes on (R372). -/
def slotStart (n : W64) (s : State) : State :=
  let s1 := clearSlotN { slotReached bHIF s with hif := { s.hif with
    inSlot := true, closed := false, slotMfn := n, fetched := 0, opps := 0,
    waiting := s.hif.waiting.map fun c => { c with hold := false } } }
  if !s1.hif.bme || s1.hif.d3 then slotWork s1
  else
    let s2 := issueWaiting s1
    let s3 := if enOf s2 bHIF then emitAll (doorbellReads s2) s2 else s2
    let s4 := s3.hif.late.foldl (fun t w => takeRead w t) { s3 with hif := { s3.hif with late := [] } }
    pump (slotWork s4)

/-- HOST_SLOT_START. -/
def execHostSlotStart (s : State) : Host.Outcome State Fault Refusal :=
  .next (if inSlotOf s 17 && !frozenM s 17 then slotStart s.sched.mfn s else s)

/-- BOOT_HOST_SLOT: from the end of stage 2 until the schedule starts; not in BOOTFAIL (R498, R499). -/
def execBootHostSlot (s : State) : Host.Outcome State Fault Refusal :=
  .next (if !s.sched.run && decide (3 ≤ s.sys.stage.toNat) && s.sys.stage != 0xF then slotStart 0 s else s)

/-! ### The close point (R377, R378, R382, R390) -/

/-- The 16 bytes of a completion entry (Table 13-3). -/
def complBytes (c : Compl) (phase : Bool) : Bytes :=
  leBytes 8 c.data.toNat ++ leBytes 2 c.sqidx.toNat ++ leBytes 2 c.tag.toNat ++
    [c.opcode, c.status, BitVec.ofNat 8 (b2n phase + 2 * b2n c.unsol), c.src]

/-- The next completion entry of the ring is written. -/
def writeCompl (c : Compl) (s : State) : State :=
  let g := ringGet s c.ring
  let t := (g.cqTail.toNat + 1) % ringSize g.cqLog
  let s1 := ringPut s c.ring { g with
    cqTail := BitVec.ofNat 16 t, phase := if t = 0 then !g.phase else g.phase, unread := g.unread + 1 }
  let s2 := irqEdge (128 + c.ring) (emit (.hostWrite (g.cqBase + BitVec.ofNat 64 (16 * g.cqTail.toNat)) (complBytes c g.phase)) s1)
  match c.retire with
  | some k => sessEnd k s2
  | none => s2

/-- An unsolicited completion is dropped (R382). -/
def dropUnsol (r : Nat) (s : State) : State :=
  count bHIF 4 (ringPut s r { ringGet s r with dropun := (ringGet s r).dropun + 1 })

/-- A completion at the close point: one of a descriptor is written, an unsolicited one where an entry is free. -/
def closeCompl (s : State) (c : Compl) : State :=
  let g := ringGet s c.ring
  if !c.unsol then writeCompl c s
  else if !ringOn s c.ring then dropUnsol c.ring s
  else if g.backlog.isEmpty && decide (0 < credits s c.ring) then writeCompl c s
  else if g.backlog.length < 16 then ringPut s c.ring { g with backlog := g.backlog ++ [c] }
  else dropUnsol c.ring s

/-- The backlog of a ring goes before newer completions, as far as entries are free. -/
def closeBacklog (s : State) (r : Nat) : State :=
  let g := ringGet s r
  if g.backlog.isEmpty then s
  else g.backlog.foldl closeCompl (ringPut s r { g with backlog := [] })

/-- The completions in their order, but for those that wait for the next slot (R140); each leaves the list before it is written. -/
def closeWaiting : List Compl → State → State
  | [], s => s
  | c :: l, s => closeWaiting l (closeCompl { s with hif := { s.hif with waiting := s.hif.waiting.erase c } } c)

/-- Ring record r of the status page (Table 13-4). -/
def ringRecord (s : State) (r : Nat) : Bytes :=
  let g := ringGet s r
  leBytes 4 g.sqHead.toNat ++ leBytes 4 g.cqTail.toNat ++ leBytes 2 g.started.length ++ leBytes 2 g.backlog.length ++
    leBytes 4 (b2n (ringOn s r) + 2 * b2n g.lastIgnored + 4 * b2n g.phase) ++ leBytes 4 g.dropun.toNat ++ zeros 12

/-- The status page between SEQ_A and SEQ_B. -/
def statusBody (s : State) : Bytes :=
  leBytes 8 s.hif.slotMfn.toNat ++ leBytes 8 (if s.sched.run then s.sched.kmf.toNat else 0) ++ leBytes 16 (timeForm (nowT s)).toNat ++
    leBytes 4 (errSum s) ++ leBytes 4 (frozenMask s) ++ leBytes 8 s.hif.pba.toNat ++ zeros 8 ++
    ((List.range 21).map fun b => leBytes 4 (blkStatus s b).toNat).flatten ++ zeros 1892

/-- The status page: SEQ_A first and SEQ_B last (R378). -/
def writeStatusPage (s : State) : State :=
  let q := s.hif.seq + 1
  let at_ := fun o => s.hif.stAddr + BitVec.ofNat 64 o
  emitAll [.hostWrite (at_ 0x800) (leBytes 8 q.toNat), .hostWrite (at_ 0) ((List.range 64).map (ringRecord s)).flatten,
    .hostWrite (at_ 0x808) (statusBody s), .hostWrite (at_ 0xFF8) (leBytes 8 q.toNat)]
    { s with hif := { s.hif with seq := q } }

/-- The close point: completions, then the status page, then messages. -/
def closePoint (s : State) : State :=
  let s1 := (List.range 64).foldl closeBacklog s
  let s2 := closeWaiting (s1.hif.waiting.filter fun c => !c.hold) s1
  sendVecs (writeStatusPage (selectVecs s2))

/-- CLOSE_POINT: the one of the open slot (R380). The deltas go on in the slot's last cycles. -/
def execClosePoint (s : State) : Host.Outcome State Fault Refusal :=
  .next (
    if frozenM s 17 || !s.hif.inSlot || s.hif.closed then s
    else
      let s1 := { s with hif := { s.hif with closed := true } }
      let s2 := if !s1.hif.bme || s1.hif.d3 then s1 else closePoint s1
      [0, 1, 2, 3].foldl (fun s k => deltaGo k s) s2)

/-! ### Configuration space (R370, R372) -/

/-- The link as negotiated: ×1, ×2 or ×4 at one of three speeds; which one is free. -/
def linkUp (s : State) : State :=
  if s.hif.link then s
  else
    let w := freeWord s
    let v := w.1.toNat
    let width : BitVec 3 := if v % 3 = 0 then 1 else if v % 3 = 1 then 2 else 4
    { w.2 with hif := { w.2.hif with link := true, width := width, speed := BitVec.ofNat 2 (1 + v / 3 % 3) } }

/-- CONFIGURATION_WRITE. -/
def execConfigurationWrite (bme d3 functionMask : Bool) (s : State) : Host.Outcome State Fault Refusal :=
  let s1 := linkUp s
  .next { s1 with hif := { s1.hif with bme := bme, d3 := d3, fnMask := functionMask } }

/-! ### Signatures (R402, R403) -/

/-- The inner descriptor of a verified record of 192 bytes; what follows the record is its buffer. -/
def innerDesc (d : HostDesc) : HostDesc :=
  { ring := d.ring, sqidx := d.sqidx, bytes := slice d.buf 0x20 64, buf := d.buf.drop 192, readFail := false,
    signed := some (BitVec.ofNat 64 (u64 d.buf 0x10)),
    outerTag := if d.signed.isSome then d.outerTag else BitVec.ofNat 16 (d16 d 2) }

/-- A record whose verification has ended: the inner descriptor takes the place of SEC_SIGNED. -/
def signedDone (d : HostDesc) (s : State) : State :=
  match signedFail s d.buf with
  | some n => complete d stAUTH_FAIL 0 (count bSEC n s)
  | none =>
    let e := innerDesc d
    let s1 := takeOcnt (u64 d.buf 0x10) s
    let g := ringGet s1 d.ring
    checkDesc e (ringPut s1 d.ring { g with started := g.started.map fun x => if x == d then e else x })

/-- SIGNATURE_VERIFICATION. -/
def execSignatureVerification (s : State) : Host.Outcome State Fault Refusal :=
  .next (match s.sec.verif with
    | [] => s
    | v :: l =>
      let s1 := { s with sec := { s.sec with verif := l } }
      if v.blob then blobDone v.desc s1 else signedDone v.desc s1)

end Sys2Proof.Machine
end

