-- ==== Sys2Proof/Machine/InsnInt.lean ====
section
/-! DEFINITION. Register, predicate and integer instructions (Tables 7-4 and 7-6). -/

namespace Sys2Proof.Machine

/-- NOP: one cycle, no effect. -/
def execInop (x : Ctl) (s : State) : Host.Outcome State Fault Refusal := insn x 1 id s

def execRdaf (x : Ctl) (d : BitVec 6) (s : State) : Host.Outcome State Fault Refusal :=
  insn x 1 (fun s => setG x.core d ((getAfl x.core s).zeroExtend 64) s) s

def execClaf (x : Ctl) (s : State) : Host.Outcome State Fault Refusal := insn x 1 (clearFlags x.core) s

def execMovi (x : Ctl) (d : BitVec 6) (v : W32) (s : State) : Host.Outcome State Fault Refusal :=
  insn x 1 (setG x.core d (v.signExtend 64)) s

def execMovhi (x : Ctl) (d : BitVec 6) (v : W32) (s : State) : Host.Outcome State Fault Refusal :=
  insn x 1 (fun s => setG x.core d (v ++ (getG x.core s d).truncate 32) s) s

def execSel (x : Ctl) (d a b : BitVec 6) (p : BitVec 4) (s : State) : Host.Outcome State Fault Refusal :=
  insn x 1 (fun s => setG x.core d (if getP x.core s p then getG x.core s a else getG x.core s b) s) s

def execPmov (x : Ctl) (d : BitVec 6) (p : BitVec 4) (s : State) : Host.Outcome State Fault Refusal :=
  insn x 1 (fun s => setG x.core d (if getP x.core s p then 1 else 0) s) s

def execCmp (x : Ctl) (w : Bool) (cc : IntCC) (a : BitVec 6) (b : Src16) (pd pe : BitVec 4) (s : State) :
    Host.Outcome State Fault Refusal :=
  insn x 1 (fun s => setPreds x.core pd pe (cmpRes w cc (getG x.core s a) (src16Val x.core s b)) s) s

def plogRes (fn : PFn) (a b : Bool) : Bool :=
  match fn with
  | .and => a && b
  | .or => a || b
  | .xor => a != b

def execPlog (x : Ctl) (pd pa pb : BitVec 4) (na nb : Bool) (fn : PFn) (s : State) : Host.Outcome State Fault Refusal :=
  insn x 1 (fun s => setP x.core pd (plogRes fn (getP x.core s pa != na) (getP x.core s pb != nb)) s) s

/-! ### Shared shapes -/

/-- D := f(A, B) with its flags, B a register or the immediate. -/
def insnAB (x : Ctl) (cyc : Nat) (f : W64 → W64 → W64 × BitVec 7) (d a : BitVec 6) (b : Src) (s : State) :
    Host.Outcome State Fault Refusal :=
  insn x cyc (fun s => wrBack x.core d (f (getG x.core s a) (srcVal x.core s b)) s) s

/-- D := f(A) with its flags. -/
def insnA (x : Ctl) (cyc : Nat) (f : W64 → W64 × BitVec 7) (d a : BitVec 6) (s : State) :
    Host.Outcome State Fault Refusal :=
  insn x cyc (fun s => wrBack x.core d (f (getG x.core s a)) s) s

/-- A result on signed or unsigned operands that wraps and sets no flag. -/
def onS (w : Bool) (f : Int → Int → Int) (a b : W64) : W64 × BitVec 7 := (intRes w (f (sval w a) (sval w b)), 0)
def onU (w : Bool) (f : Nat → Nat → Nat) (a b : W64) : W64 × BitVec 7 := (intRes w (f (uval w a) (uval w b)), 0)
def onSat (w : Bool) (f : Int → Int → Int) (a b : W64) : W64 × BitVec 7 := satRes w (f (sval w a) (sval w b))
/-- A shift by B mod the width (Table 7-6). -/
def onSh (w : Bool) (f : Int → Nat → Int) (a b : W64) : W64 × BitVec 7 :=
  (intRes w (f (uval w a) (b.toNat % wid w)), 0)

def divCycles (w : Bool) : Nat := if w then 20 else 36

def execAdd (x : Ctl) (w : Bool) (d a : BitVec 6) (b : Src) (s : State) : Host.Outcome State Fault Refusal :=
  insnAB x 1 (onS w (· + ·)) d a b s
def execSub (x : Ctl) (w : Bool) (d a : BitVec 6) (b : Src) (s : State) : Host.Outcome State Fault Refusal :=
  insnAB x 1 (onS w (· - ·)) d a b s
def execAdds (x : Ctl) (w : Bool) (d a : BitVec 6) (b : Src) (s : State) : Host.Outcome State Fault Refusal :=
  insnAB x 1 (onSat w (· + ·)) d a b s
def execSubs (x : Ctl) (w : Bool) (d a : BitVec 6) (b : Src) (s : State) : Host.Outcome State Fault Refusal :=
  insnAB x 1 (onSat w (· - ·)) d a b s
def execMul (x : Ctl) (w : Bool) (d a : BitVec 6) (b : Src) (s : State) : Host.Outcome State Fault Refusal :=
  insnAB x 3 (onS w (· * ·)) d a b s
def execMuls (x : Ctl) (w : Bool) (d a : BitVec 6) (b : Src) (s : State) : Host.Outcome State Fault Refusal :=
  insnAB x 3 (onSat w (· * ·)) d a b s
def execMulhs (x : Ctl) (w : Bool) (d a b : BitVec 6) (s : State) : Host.Outcome State Fault Refusal :=
  insnAB x 3 (onS w fun a b => a * b / 2 ^ wid w) d a (.reg b) s
def execMulhu (x : Ctl) (w : Bool) (d a b : BitVec 6) (s : State) : Host.Outcome State Fault Refusal :=
  insnAB x 3 (onU w fun a b => a * b / 2 ^ wid w) d a (.reg b) s
def execDivs (x : Ctl) (w : Bool) (d a : BitVec 6) (b : Src) (s : State) : Host.Outcome State Fault Refusal :=
  insnAB x (divCycles w) (fun a b => divsRes w (sval w a) (sval w b)) d a b s
def execDivu (x : Ctl) (w : Bool) (d a : BitVec 6) (b : Src) (s : State) : Host.Outcome State Fault Refusal :=
  insnAB x (divCycles w) (fun a b => divuRes w (uval w a) (uval w b)) d a b s
def execRems (x : Ctl) (w : Bool) (d a : BitVec 6) (b : Src) (s : State) : Host.Outcome State Fault Refusal :=
  insnAB x (divCycles w) (fun a b => remsRes w (sval w a) (sval w b)) d a b s
def execRemu (x : Ctl) (w : Bool) (d a : BitVec 6) (b : Src) (s : State) : Host.Outcome State Fault Refusal :=
  insnAB x (divCycles w) (fun a b => remuRes w (uval w a) (uval w b)) d a b s
def execMin (x : Ctl) (w : Bool) (d a : BitVec 6) (b : Src) (s : State) : Host.Outcome State Fault Refusal :=
  insnAB x 1 (onS w fun a b => if a ≤ b then a else b) d a b s
def execMax (x : Ctl) (w : Bool) (d a : BitVec 6) (b : Src) (s : State) : Host.Outcome State Fault Refusal :=
  insnAB x 1 (onS w fun a b => if a ≤ b then b else a) d a b s
def execMinu (x : Ctl) (w : Bool) (d a : BitVec 6) (b : Src) (s : State) : Host.Outcome State Fault Refusal :=
  insnAB x 1 (onU w fun a b => if a ≤ b then a else b) d a b s
def execMaxu (x : Ctl) (w : Bool) (d a : BitVec 6) (b : Src) (s : State) : Host.Outcome State Fault Refusal :=
  insnAB x 1 (onU w fun a b => if a ≤ b then b else a) d a b s
def execAnd (x : Ctl) (w : Bool) (d a : BitVec 6) (b : Src) (s : State) : Host.Outcome State Fault Refusal :=
  insnAB x 1 (onU w (· &&& ·)) d a b s
def execOr (x : Ctl) (w : Bool) (d a : BitVec 6) (b : Src) (s : State) : Host.Outcome State Fault Refusal :=
  insnAB x 1 (onU w (· ||| ·)) d a b s
def execXor (x : Ctl) (w : Bool) (d a : BitVec 6) (b : Src) (s : State) : Host.Outcome State Fault Refusal :=
  insnAB x 1 (onU w (· ^^^ ·)) d a b s
def execAndn (x : Ctl) (w : Bool) (d a : BitVec 6) (b : Src) (s : State) : Host.Outcome State Fault Refusal :=
  insnAB x 1 (onU w fun a b => a - (a &&& b)) d a b s
def execShl (x : Ctl) (w : Bool) (d a : BitVec 6) (b : Src) (s : State) : Host.Outcome State Fault Refusal :=
  insnAB x 1 (onSh w fun a n => a * 2 ^ n) d a b s
def execShr (x : Ctl) (w : Bool) (d a : BitVec 6) (b : Src) (s : State) : Host.Outcome State Fault Refusal :=
  insnAB x 1 (onSh w fun a n => a / 2 ^ n) d a b s
def execSar (x : Ctl) (w : Bool) (d a : BitVec 6) (b : Src) (s : State) : Host.Outcome State Fault Refusal :=
  insnAB x 1 (fun a b => (intRes w (sval w a / 2 ^ (b.toNat % wid w)), 0)) d a b s
def execRol (x : Ctl) (w : Bool) (d a : BitVec 6) (b : Src) (s : State) : Host.Outcome State Fault Refusal :=
  insnAB x 1 (onSh w fun a n => a * 2 ^ n + a * 2 ^ n / 2 ^ wid w) d a b s

/-- The field of `n` bits at `l` of a word. -/
def field (v : W64) (l n : Nat) : Nat := v.toNat / 2 ^ l % 2 ^ n

/-- BFXU, BFXS and BFI are valid only when l + w − 1 is at most 63 (R205). -/
def bfOk (lo wm1 : BitVec 6) : Bool := decide (lo.toNat + wm1.toNat ≤ 63)

def execBfxu (x : Ctl) (d a lo wm1 : BitVec 6) (s : State) : Host.Outcome State Fault Refusal :=
  insnIf (bfOk lo wm1) x 1
    (fun s => setG x.core d (BitVec.ofNat 64 (field (getG x.core s a) lo.toNat (wm1.toNat + 1))) s) s

def execBfxs (x : Ctl) (d a lo wm1 : BitVec 6) (s : State) : Host.Outcome State Fault Refusal :=
  insnIf (bfOk lo wm1) x 1
    (fun s => setG x.core d (BitVec.ofInt 64 (sint (wm1.toNat + 1) (field (getG x.core s a) lo.toNat (wm1.toNat + 1)))) s) s

/-- D with bits l + w − 1 : l replaced by the low bits of A. -/
def bfiRes (d a : W64) (lo wm1 : BitVec 6) : W64 :=
  let m : W64 := BitVec.ofNat 64 ((2 ^ (wm1.toNat + 1) - 1) * 2 ^ lo.toNat)
  (d &&& ~~~m) ||| ((a <<< lo.toNat) &&& m)

def execBfi (x : Ctl) (d a lo wm1 : BitVec 6) (s : State) : Host.Outcome State Fault Refusal :=
  insnIf (bfOk lo wm1) x 1
    (fun s => setG x.core d (bfiRes (getG x.core s d) (getG x.core s a) lo wm1) s) s

def clzRes (w : Bool) (a : W64) : W64 × BitVec 7 :=
  let v := uval w a
  (BitVec.ofNat 64 (if v = 0 then wid w else wid w - 1 - v.log2), 0)

def popcRes (w : Bool) (a : W64) : W64 × BitVec 7 :=
  (BitVec.ofNat 64 ((List.range (wid w)).filter fun i => a.toNat.testBit i).length, 0)

def execClz (x : Ctl) (w : Bool) (d a : BitVec 6) (s : State) : Host.Outcome State Fault Refusal :=
  insnA x 1 (clzRes w) d a s
def execPopc (x : Ctl) (w : Bool) (d a : BitVec 6) (s : State) : Host.Outcome State Fault Refusal :=
  insnA x 1 (popcRes w) d a s
def execAbss (x : Ctl) (w : Bool) (d a : BitVec 6) (s : State) : Host.Outcome State Fault Refusal :=
  insnA x 1 (fun a => satRes w (sval w a).natAbs) d a s

end Sys2Proof.Machine
end

