-- ==== Sys2Proof/Machine/InsnFloat.lean ====
section
/-! DEFINITION. Floating-point instructions (R213, R214, Table 7-5). -/

namespace Sys2Proof.Machine

def execFcmp (x : Ctl) (w : Bool) (cc : FltCC) (a b : BitVec 6) (pd pe : BitVec 4) (s : State) :
    Host.Outcome State Fault Refusal :=
  insn x 1 (fun s =>
    let r := fcmpRes (fmtOf w) cc (fval w (getG x.core s a)) (fval w (getG x.core s b))
    orFlags x.core r.2 (setPreds x.core pd pe r.1 s)) s

/-- D := f(A, B) on the bits of the format of W. -/
def insnF2 (x : Ctl) (cyc : Nat) (w : Bool) (f : Fmt → Nat → Nat → Nat × BitVec 7) (d a b : BitVec 6) (s : State) :
    Host.Outcome State Fault Refusal :=
  insn x cyc (fun s => wrBack x.core d (fres (f (fmtOf w) (fval w (getG x.core s a)) (fval w (getG x.core s b)))) s) s

def insnF1 (x : Ctl) (cyc : Nat) (w : Bool) (f : Fmt → Nat → Nat × BitVec 7) (d a : BitVec 6) (s : State) :
    Host.Outcome State Fault Refusal :=
  insn x cyc (fun s => wrBack x.core d (fres (f (fmtOf w) (fval w (getG x.core s a)))) s) s

def execFadd (x : Ctl) (w : Bool) (d a b : BitVec 6) (s : State) : Host.Outcome State Fault Refusal := insnF2 x 4 w fAdd d a b s
def execFsub (x : Ctl) (w : Bool) (d a b : BitVec 6) (s : State) : Host.Outcome State Fault Refusal := insnF2 x 4 w fSub d a b s
def execFmul (x : Ctl) (w : Bool) (d a b : BitVec 6) (s : State) : Host.Outcome State Fault Refusal := insnF2 x 4 w fMul d a b s
def execFdiv (x : Ctl) (w : Bool) (d a b : BitVec 6) (s : State) : Host.Outcome State Fault Refusal :=
  insnF2 x (if w then 14 else 24) w fDiv d a b s
def execFsqrt (x : Ctl) (w : Bool) (d a : BitVec 6) (s : State) : Host.Outcome State Fault Refusal :=
  insnF1 x (if w then 16 else 28) w fSqrt d a s

/-- A × B ± C with one rounding. -/
def insnFma (x : Ctl) (w neg : Bool) (d a b c : BitVec 6) (s : State) : Host.Outcome State Fault Refusal :=
  insn x 5 (fun s => wrBack x.core d (fres (fFma (fmtOf w) neg (fval w (getG x.core s a)) (fval w (getG x.core s b))
    (fval w (getG x.core s c)))) s) s

def execFma (x : Ctl) (w : Bool) (d a b c : BitVec 6) (s : State) : Host.Outcome State Fault Refusal := insnFma x w false d a b c s
def execFms (x : Ctl) (w : Bool) (d a b c : BitVec 6) (s : State) : Host.Outcome State Fault Refusal := insnFma x w true d a b c s
def execFmin (x : Ctl) (w : Bool) (d a b : BitVec 6) (s : State) : Host.Outcome State Fault Refusal :=
  insnF2 x 2 w (fun f => fMinMax f false false) d a b s
def execFmax (x : Ctl) (w : Bool) (d a b : BitVec 6) (s : State) : Host.Outcome State Fault Refusal :=
  insnF2 x 2 w (fun f => fMinMax f true false) d a b s
def execFminn (x : Ctl) (w : Bool) (d a b : BitVec 6) (s : State) : Host.Outcome State Fault Refusal :=
  insnF2 x 2 w (fun f => fMinMax f false true) d a b s
def execFmaxn (x : Ctl) (w : Bool) (d a b : BitVec 6) (s : State) : Host.Outcome State Fault Refusal :=
  insnF2 x 2 w (fun f => fMinMax f true true) d a b s

def execFabs (x : Ctl) (w : Bool) (d a : BitVec 6) (s : State) : Host.Outcome State Fault Refusal :=
  insnF1 x 1 w (fun f v => (v % f.sgn, 0)) d a s
def execFneg (x : Ctl) (w : Bool) (d a : BitVec 6) (s : State) : Host.Outcome State Fault Refusal :=
  insnF1 x 1 w (fun f v => (v ^^^ f.sgn, 0)) d a s

/-- W = 0: binary32 to binary64; W = 1: binary64 to binary32. -/
def fcvtRes (w : Bool) (v : W64) : W64 × BitVec 7 :=
  fres (if w then fCvt fmt64 fmt32 v.toNat else fCvt fmt32 fmt64 (v.toNat % 2 ^ 32))

def execFcvt (x : Ctl) (w : Bool) (d a : BitVec 6) (s : State) : Host.Outcome State Fault Refusal := insnA x 2 (fcvtRes w) d a s
def execIcvtf (x : Ctl) (w : Bool) (d a : BitVec 6) (s : State) : Host.Outcome State Fault Refusal :=
  insnA x 3 (fun v => fres (fOfInt (fmtOf w) v.toInt)) d a s
def execUcvtf (x : Ctl) (w : Bool) (d a : BitVec 6) (s : State) : Host.Outcome State Fault Refusal :=
  insnA x 3 (fun v => fres (fOfInt (fmtOf w) v.toNat)) d a s

/-- FCVTI and FCVTU: the range of the result, 32 or 64 bits, and its form in D (R212, R214). -/
def fcvtiRes (w : Bool) (rm : RMode) (r32 sgn : Bool) (v : W64) : W64 × BitVec 7 :=
  let n := if r32 then 32 else 64
  let lo : Int := if sgn then -(2 ^ (n - 1)) else 0
  let hi : Int := if sgn then 2 ^ (n - 1) - 1 else 2 ^ n - 1
  let r := fToInt (fmtOf w) rm lo hi (fval w v)
  (intRes r32 r.1, r.2)

def execFcvti (x : Ctl) (w : Bool) (d a : BitVec 6) (rm : RMode) (r32 : Bool) (s : State) : Host.Outcome State Fault Refusal :=
  insnA x 3 (fcvtiRes w rm r32 true) d a s
def execFcvtu (x : Ctl) (w : Bool) (d a : BitVec 6) (rm : RMode) (r32 : Bool) (s : State) : Host.Outcome State Fault Refusal :=
  insnA x 3 (fcvtiRes w rm r32 false) d a s
def execFrnd (x : Ctl) (w : Bool) (d a : BitVec 6) (rm : RMode) (s : State) : Host.Outcome State Fault Refusal :=
  insnF1 x 3 w (fun f => fRnd f rm) d a s

end Sys2Proof.Machine
end

