-- ==== Sys2Proof/Machine/Dispatch.lean ====
section
/-! DEFINITION. The dispatch: one arm per command, each a direct call of its meaning. -/

namespace Sys2Proof.Machine

def exec (i : Instr) (s : State) : Host.Outcome State Fault Refusal :=
  match i with
  | .minorFrameStart mr4High => Sys2Proof.Machine.execMinorFrameStart mr4High s
  | .majorFrameBoundary => Sys2Proof.Machine.execMajorFrameBoundary s
  | .snapshot => Sys2Proof.Machine.execSnapshot s
  | .commit => Sys2Proof.Machine.execCommit s
  | .cellCycle slot => Sys2Proof.Machine.execCellCycle slot s
  | .loopOccurrence e => Sys2Proof.Machine.execLoopOccurrence e s
  | .axisSlot => Sys2Proof.Machine.execAxisSlot s
  | .axisStep n => Sys2Proof.Machine.execAxisStep n s
  | .driverStatus n inTime load status seq crc => Sys2Proof.Machine.execDriverStatus n inTime load status seq crc s
  | .receiveSlot m => Sys2Proof.Machine.execReceiveSlot m s
  | .transmitSlot m => Sys2Proof.Machine.execTransmitSlot m s
  | .metrSlot => Sys2Proof.Machine.execMetrSlot s
  | .longSlot slot => Sys2Proof.Machine.execLongSlot slot s
  | .iterationCommit task => Sys2Proof.Machine.execIterationCommit task s
  | .resultWrite task => Sys2Proof.Machine.execResultWrite task s
  | .pubSlot m => Sys2Proof.Machine.execPubSlot m s
  | .parcelStepCommit => Sys2Proof.Machine.execParcelStepCommit s
  | .switchReserve => Sys2Proof.Machine.execSwitchReserve s
  | .newImageActive => Sys2Proof.Machine.execNewImageActive s
  | .freezeRelease m => Sys2Proof.Machine.execFreezeRelease m s
  | .imageCheckComplete => Sys2Proof.Machine.execImageCheckComplete s
  | .structureLoad k => Sys2Proof.Machine.execStructureLoad k s
  | .parccfgLoad => Sys2Proof.Machine.execParccfgLoad s
  | .hostSlotStart => Sys2Proof.Machine.execHostSlotStart s
  | .closePoint => Sys2Proof.Machine.execClosePoint s
  | .hostReadFailure what => Sys2Proof.Machine.execHostReadFailure what s
  | .cutSlot => Sys2Proof.Machine.execCutSlot s
  | .recSlot report => Sys2Proof.Machine.execRecSlot report s
  | .lanternWrite => Sys2Proof.Machine.execLanternWrite s
  | .metrSample codes => Sys2Proof.Machine.execMetrSample codes s
  | .zeroCrossingTimeout f p => Sys2Proof.Machine.execZeroCrossingTimeout f p s
  | .heatWindowClose rtd freq high => Sys2Proof.Machine.execHeatWindowClose rtd freq high s
  | .pulse n pairedHigh tooFast => Sys2Proof.Machine.execPulse n pairedHigh tooFast s
  | .intervalClose => Sys2Proof.Machine.execIntervalClose s
  | .totaliserSave readBackOk => Sys2Proof.Machine.execTotaliserSave readBackOk s
  | .theftWatchSecond rms => Sys2Proof.Machine.execTheftWatchSecond rms s
  | .triggerFire n => Sys2Proof.Machine.execTriggerFire n s
  | .triggerCapture n rising => Sys2Proof.Machine.execTriggerCapture n rising s
  | .rtcSecond => Sys2Proof.Machine.execRtcSecond s
  | .rtcAlarm => Sys2Proof.Machine.execRtcAlarm s
  | .snapTaken => Sys2Proof.Machine.execSnapTaken s
  | .commitApplied => Sys2Proof.Machine.execCommitApplied s
  | .oscillatorStop => Sys2Proof.Machine.execOscillatorStop s
  | .operatingTimeSecond => Sys2Proof.Machine.execOperatingTimeSecond s
  | .holdoffExpiry g => Sys2Proof.Machine.execHoldoffExpiry g s
  | .interruptEntry c => Sys2Proof.Machine.execInterruptEntry c s
  | .wakeWatch w => Sys2Proof.Machine.execWakeWatch w s
  | .canFrameReceive ch f ts => Sys2Proof.Machine.execCanFrameReceive ch f ts s
  | .canFrameEnd ch buf how => Sys2Proof.Machine.execCanFrameEnd ch buf how s
  | .canBusError ch err transmitting => Sys2Proof.Machine.execCanBusError ch err transmitting s
  | .busOffRecovery ch => Sys2Proof.Machine.execBusOffRecovery ch s
  | .joinReq ch version cls uid ns => Sys2Proof.Machine.execJoinReq ch version cls uid ns s
  | .response ch slot uid tag => Sys2Proof.Machine.execResponse ch slot uid tag s
  | .joinTimeout k => Sys2Proof.Machine.execJoinTimeout k s
  | .leave ch f => Sys2Proof.Machine.execLeave ch f s
  | .rspUd k rx => Sys2Proof.Machine.execRspUd k rx s
  | .mbusResponseTimeout k => Sys2Proof.Machine.execMbusResponseTimeout k s
  | .ethFrameReceive p f => Sys2Proof.Machine.execEthFrameReceive p f s
  | .ethFrameTransmit p cap frac => Sys2Proof.Machine.execEthFrameTransmit p cap frac s
  | .ethLinkDown p => Sys2Proof.Machine.execEthLinkDown p s
  | .ethLinkUp p => Sys2Proof.Machine.execEthLinkUp p s
  | .sync p m => Sys2Proof.Machine.execSync p m s
  | .followUp p m => Sys2Proof.Machine.execFollowUp p m s
  | .delayReq p m => Sys2Proof.Machine.execDelayReq p m s
  | .delayResp p m => Sys2Proof.Machine.execDelayResp p m s
  | .pdelayReq p m => Sys2Proof.Machine.execPdelayReq p m s
  | .pdelayResp p m => Sys2Proof.Machine.execPdelayResp p m s
  | .pdelayRespFollowUp p m => Sys2Proof.Machine.execPdelayRespFollowUp p m s
  | .announce p m => Sys2Proof.Machine.execAnnounce p m s
  | .syncInterval p => Sys2Proof.Machine.execSyncInterval p s
  | .delayReqInterval p => Sys2Proof.Machine.execDelayReqInterval p s
  | .pdelayReqInterval p => Sys2Proof.Machine.execPdelayReqInterval p s
  | .announceInterval p => Sys2Proof.Machine.execAnnounceInterval p s
  | .followUpTimeout w => Sys2Proof.Machine.execFollowUpTimeout w s
  | .cut f => Sys2Proof.Machine.execCut f s
  | .cutend f => Sys2Proof.Machine.execCutend f s
  | .stream f => Sys2Proof.Machine.execStream f s
  | .ack f => Sys2Proof.Machine.execAck f s
  | .hello f => Sys2Proof.Machine.execHello f s
  | .time f => Sys2Proof.Machine.execTime f s
  | .meter f => Sys2Proof.Machine.execMeter f s
  | .idle f => Sys2Proof.Machine.execIdle f s
  | .pseenTimeout => Sys2Proof.Machine.execPseenTimeout s
  | .handshakeRetry => Sys2Proof.Machine.execHandshakeRetry s
  | .bugle body crcOk => Sys2Proof.Machine.execBugle body crcOk s
  | .panelPhase => Sys2Proof.Machine.execPanelPhase s
  | .pgood => Sys2Proof.Machine.execPgood s
  | .pumpTimeout => Sys2Proof.Machine.execPumpTimeout s
  | .auditFreezeExpiry => Sys2Proof.Machine.execAuditFreezeExpiry s
  | .tamperEvent cause => Sys2Proof.Machine.execTamperEvent cause s
  | .drbgHealthFailure => Sys2Proof.Machine.execDrbgHealthFailure s
  | .powerFailure => Sys2Proof.Machine.execPowerFailure s
  | .pwrfailRise => Sys2Proof.Machine.execPwrfailRise s
  | .por brownOut => Sys2Proof.Machine.execPor brownOut s
  | .pd0Cold => Sys2Proof.Machine.execPd0Cold s
  | .sysrst => Sys2Proof.Machine.execSysrst s
  | .watchdogExpiry => Sys2Proof.Machine.execWatchdogExpiry s
  | .pllLockLoss pll => Sys2Proof.Machine.execPllLockLoss pll s
  | .hifReset => Sys2Proof.Machine.execHifReset s
  | .domainPowerUp d => Sys2Proof.Machine.execDomainPowerUp d s
  | .powerGoodTimeout d => Sys2Proof.Machine.execPowerGoodTimeout d s
  | .domainPowerDown d => Sys2Proof.Machine.execDomainPowerDown d s
  | .stageRom directory => Sys2Proof.Machine.execStageRom directory s
  | .stageFirmware copyA copyB => Sys2Proof.Machine.execStageFirmware copyA copyB s
  | .stageMemory dramGiB vddq11 trained nandOk => Sys2Proof.Machine.execStageMemory dramGiB vddq11 trained nandOk s
  | .stageImage imageA imageB => Sys2Proof.Machine.execStageImage imageA imageB s
  | .stageRole => Sys2Proof.Machine.execStageRole s
  | .pwaitExpiry => Sys2Proof.Machine.execPwaitExpiry s
  | .stageTime src => Sys2Proof.Machine.execStageTime src s
  | .twaitExpiry => Sys2Proof.Machine.execTwaitExpiry s
  | .lateTimeStep delta => Sys2Proof.Machine.execLateTimeStep delta s
  | .stageRun => Sys2Proof.Machine.execStageRun s
  | .bootHostSlot => Sys2Proof.Machine.execBootHostSlot s
  | .pairRejoinReset => Sys2Proof.Machine.execPairRejoinReset s
  | .pairModeTimeout => Sys2Proof.Machine.execPairModeTimeout s
  | .pairRekeyTimeout => Sys2Proof.Machine.execPairRekeyTimeout s
  | .pairSwapreqTimeout => Sys2Proof.Machine.execPairSwapreqTimeout s
  | .dNop d => Sys2Proof.Machine.execDNop d s
  | .imageLoad d => Sys2Proof.Machine.execImageLoad d s
  | .imageSwitch d => Sys2Proof.Machine.execImageSwitch d s
  | .imageAbort d => Sys2Proof.Machine.execImageAbort d s
  | .unfreeze d => Sys2Proof.Machine.execUnfreeze d s
  | .ptRead d => Sys2Proof.Machine.execPtRead d s
  | .ptWrite d => Sys2Proof.Machine.execPtWrite d s
  | .ptForce d => Sys2Proof.Machine.execPtForce d s
  | .cellMode d => Sys2Proof.Machine.execCellMode d s
  | .cellStep d => Sys2Proof.Machine.execCellStep d s
  | .cellRead d => Sys2Proof.Machine.execCellRead d s
  | .solvDelta d => Sys2Proof.Machine.execSolvDelta d s
  | .solvRun d => Sys2Proof.Machine.execSolvRun d s
  | .solvCut d => Sys2Proof.Machine.execSolvCut d s
  | .solvRead d => Sys2Proof.Machine.execSolvRead d s
  | .solvReload d => Sys2Proof.Machine.execSolvReload d s
  | .parcSet d => Sys2Proof.Machine.execParcSet d s
  | .parcRead d => Sys2Proof.Machine.execParcRead d s
  | .loopMode d => Sys2Proof.Machine.execLoopMode d s
  | .loopParam d => Sys2Proof.Machine.execLoopParam d s
  | .loopTrace d => Sys2Proof.Machine.execLoopTrace d s
  | .loopRead d => Sys2Proof.Machine.execLoopRead d s
  | .axisCmd d => Sys2Proof.Machine.execAxisCmd d s
  | .metrRead d => Sys2Proof.Machine.execMetrRead d s
  | .metrCal d => Sys2Proof.Machine.execMetrCal d s
  | .metrLock d => Sys2Proof.Machine.execMetrLock d s
  | .metrTwclr d => Sys2Proof.Machine.execMetrTwclr d s
  | .linkRead d => Sys2Proof.Machine.execLinkRead d s
  | .linkEvict d => Sys2Proof.Machine.execLinkEvict d s
  | .linkBuson d => Sys2Proof.Machine.execLinkBuson d s
  | .ethRead d => Sys2Proof.Machine.execEthRead d s
  | .ethPort d => Sys2Proof.Machine.execEthPort d s
  | .timeRead d => Sys2Proof.Machine.execTimeRead d s
  | .timeRearm d => Sys2Proof.Machine.execTimeRearm d s
  | .rtcRead d => Sys2Proof.Machine.execRtcRead d s
  | .rtcWrite d => Sys2Proof.Machine.execRtcWrite d s
  | .secAttest d => Sys2Proof.Machine.execSecAttest d s
  | .secRead d => Sys2Proof.Machine.execSecRead d s
  | .secSigned d => Sys2Proof.Machine.execSecSigned d s
  | .secBlob d => Sys2Proof.Machine.execSecBlob d s
  | .secRetire d => Sys2Proof.Machine.execSecRetire d s
  | .secRoot d => Sys2Proof.Machine.execSecRoot d s
  | .secFloor d => Sys2Proof.Machine.execSecFloor d s
  | .secCtl d => Sys2Proof.Machine.execSecCtl d s
  | .pairRead d => Sys2Proof.Machine.execPairRead d s
  | .pairMode d => Sys2Proof.Machine.execPairMode d s
  | .pairRekey d => Sys2Proof.Machine.execPairRekey d s
  | .pairResync d => Sys2Proof.Machine.execPairResync d s
  | .pairSwapreq d => Sys2Proof.Machine.execPairSwapreq d s
  | .recRead d => Sys2Proof.Machine.execRecRead d s
  | .audFreeze d => Sys2Proof.Machine.execAudFreeze d s
  | .audClear d => Sys2Proof.Machine.execAudClear d s
  | .lanThaw d => Sys2Proof.Machine.execLanThaw d s
  | .histWrite d => Sys2Proof.Machine.execHistWrite d s
  | .tagWrite d => Sys2Proof.Machine.execTagWrite d s
  | .tagLock d => Sys2Proof.Machine.execTagLock d s
  | .nvmFormat d => Sys2Proof.Machine.execNvmFormat d s
  | .pnlLoad d => Sys2Proof.Machine.execPnlLoad d s
  | .pnlUpdate d => Sys2Proof.Machine.execPnlUpdate d s
  | .pnlConfig d => Sys2Proof.Machine.execPnlConfig d s
  | .pnlClear d => Sys2Proof.Machine.execPnlClear d s
  | .enWrite m blk v => Sys2Proof.Machine.execEnWrite m blk v s
  | .cntRead m blk n => Sys2Proof.Machine.execCntRead m blk n s
  | .wideRead m addr => Sys2Proof.Machine.execWideRead m addr s
  | .schedUnfrz m v => Sys2Proof.Machine.execSchedUnfrz m v s
  | .rstreq m v => Sys2Proof.Machine.execRstreq m v s
  | .rate m v => Sys2Proof.Machine.execRate m v s
  | .step m v => Sys2Proof.Machine.execStep m v s
  | .snap m => Sys2Proof.Machine.execSnap m s
  | .commitRequest m => Sys2Proof.Machine.execCommitRequest m s
  | .txcan m ch v => Sys2Proof.Machine.execTxcan m ch v s
  | .txreq m ch v => Sys2Proof.Machine.execTxreq m ch v s
  | .fifopop m ch v => Sys2Proof.Machine.execFifopop m ch v s
  | .fifohdRead m ch => Sys2Proof.Machine.execFifohdRead m ch s
  | .ringen m v => Sys2Proof.Machine.execRingen m v s
  | .cpl0 m v => Sys2Proof.Machine.execCpl0 m v s
  | .cpl1 m v => Sys2Proof.Machine.execCpl1 m v s
  | .swset m v => Sys2Proof.Machine.execSwset m v s
  | .dbgdata m v => Sys2Proof.Machine.execDbgdata m v s
  | .registerWrite m addr size v => Sys2Proof.Machine.execRegisterWrite m addr size v s
  | .inop x => Sys2Proof.Machine.execInop x s
  | .iend x => Sys2Proof.Machine.execIend x s
  | .loop x len count => Sys2Proof.Machine.execLoop x len count s
  | .lidx x d level => Sys2Proof.Machine.execLidx x d level s
  | .rdaf x d => Sys2Proof.Machine.execRdaf x d s
  | .claf x => Sys2Proof.Machine.execClaf x s
  | .movi x d v => Sys2Proof.Machine.execMovi x d v s
  | .movhi x d v => Sys2Proof.Machine.execMovhi x d v s
  | .sel x d a b p => Sys2Proof.Machine.execSel x d a b p s
  | .pmov x d p => Sys2Proof.Machine.execPmov x d p s
  | .cmp x w cc a b pd pe => Sys2Proof.Machine.execCmp x w cc a b pd pe s
  | .fcmp x w cc a b pd pe => Sys2Proof.Machine.execFcmp x w cc a b pd pe s
  | .plog x pd pa pb na nb fn => Sys2Proof.Machine.execPlog x pd pa pb na nb fn s
  | .add x w d a b => Sys2Proof.Machine.execAdd x w d a b s
  | .sub x w d a b => Sys2Proof.Machine.execSub x w d a b s
  | .adds x w d a b => Sys2Proof.Machine.execAdds x w d a b s
  | .subs x w d a b => Sys2Proof.Machine.execSubs x w d a b s
  | .mul x w d a b => Sys2Proof.Machine.execMul x w d a b s
  | .muls x w d a b => Sys2Proof.Machine.execMuls x w d a b s
  | .mulhs x w d a b => Sys2Proof.Machine.execMulhs x w d a b s
  | .mulhu x w d a b => Sys2Proof.Machine.execMulhu x w d a b s
  | .divs x w d a b => Sys2Proof.Machine.execDivs x w d a b s
  | .divu x w d a b => Sys2Proof.Machine.execDivu x w d a b s
  | .rems x w d a b => Sys2Proof.Machine.execRems x w d a b s
  | .remu x w d a b => Sys2Proof.Machine.execRemu x w d a b s
  | .min x w d a b => Sys2Proof.Machine.execMin x w d a b s
  | .max x w d a b => Sys2Proof.Machine.execMax x w d a b s
  | .minu x w d a b => Sys2Proof.Machine.execMinu x w d a b s
  | .maxu x w d a b => Sys2Proof.Machine.execMaxu x w d a b s
  | .and x w d a b => Sys2Proof.Machine.execAnd x w d a b s
  | .or x w d a b => Sys2Proof.Machine.execOr x w d a b s
  | .xor x w d a b => Sys2Proof.Machine.execXor x w d a b s
  | .andn x w d a b => Sys2Proof.Machine.execAndn x w d a b s
  | .shl x w d a b => Sys2Proof.Machine.execShl x w d a b s
  | .shr x w d a b => Sys2Proof.Machine.execShr x w d a b s
  | .sar x w d a b => Sys2Proof.Machine.execSar x w d a b s
  | .rol x w d a b => Sys2Proof.Machine.execRol x w d a b s
  | .bfxu x d a lo wm1 => Sys2Proof.Machine.execBfxu x d a lo wm1 s
  | .bfxs x d a lo wm1 => Sys2Proof.Machine.execBfxs x d a lo wm1 s
  | .bfi x d a lo wm1 => Sys2Proof.Machine.execBfi x d a lo wm1 s
  | .clz x w d a => Sys2Proof.Machine.execClz x w d a s
  | .popc x w d a => Sys2Proof.Machine.execPopc x w d a s
  | .abss x w d a => Sys2Proof.Machine.execAbss x w d a s
  | .fadd x w d a b => Sys2Proof.Machine.execFadd x w d a b s
  | .fsub x w d a b => Sys2Proof.Machine.execFsub x w d a b s
  | .fmul x w d a b => Sys2Proof.Machine.execFmul x w d a b s
  | .fdiv x w d a b => Sys2Proof.Machine.execFdiv x w d a b s
  | .fsqrt x w d a => Sys2Proof.Machine.execFsqrt x w d a s
  | .fma x w d a b c => Sys2Proof.Machine.execFma x w d a b c s
  | .fms x w d a b c => Sys2Proof.Machine.execFms x w d a b c s
  | .fmin x w d a b => Sys2Proof.Machine.execFmin x w d a b s
  | .fmax x w d a b => Sys2Proof.Machine.execFmax x w d a b s
  | .fminn x w d a b => Sys2Proof.Machine.execFminn x w d a b s
  | .fmaxn x w d a b => Sys2Proof.Machine.execFmaxn x w d a b s
  | .fabs x w d a => Sys2Proof.Machine.execFabs x w d a s
  | .fneg x w d a => Sys2Proof.Machine.execFneg x w d a s
  | .fcvt x w d a => Sys2Proof.Machine.execFcvt x w d a s
  | .icvtf x w d a => Sys2Proof.Machine.execIcvtf x w d a s
  | .ucvtf x w d a => Sys2Proof.Machine.execUcvtf x w d a s
  | .fcvti x w d a rm r32 => Sys2Proof.Machine.execFcvti x w d a rm r32 s
  | .fcvtu x w d a rm r32 => Sys2Proof.Machine.execFcvtu x w d a rm r32 s
  | .frnd x w d a rm => Sys2Proof.Machine.execFrnd x w d a rm s
  | .ld x d a sz sx v => Sys2Proof.Machine.execLd x d a sz sx v s
  | .st x d a sz v => Sys2Proof.Machine.execSt x d a sz v s
  | .pld x d xr q out pt => Sys2Proof.Machine.execPld x d xr q out pt s
  | .pst x d xr pt => Sys2Proof.Machine.execPst x d xr pt s
  | .pstq x d xr q pt => Sys2Proof.Machine.execPstq x d xr q pt s
  | .tmr x d a pi ni pq num => Sys2Proof.Machine.execTmr x d a pi ni pq num s
  | .edge x pi ni pq num => Sys2Proof.Machine.execEdge x pi ni pq num s
  | .br x v => Sys2Proof.Machine.execBr x v s
  | .call x v => Sys2Proof.Machine.execCall x v s
  | .ret x => Sys2Proof.Machine.execRet x s
  | .jr x a => Sys2Proof.Machine.execJr x a s
  | .callr x a => Sys2Proof.Machine.execCallr x a s
  | .push x a => Sys2Proof.Machine.execPush x a s
  | .pop x d => Sys2Proof.Machine.execPop x d s
  | .mrs x d idx => Sys2Proof.Machine.execMrs x d idx s
  | .msr x a idx => Sys2Proof.Machine.execMsr x a idx s
  | .reti x => Sys2Proof.Machine.execReti x s
  | .wfi x => Sys2Proof.Machine.execWfi x s
  | .fence x => Sys2Proof.Machine.execFence x s
  | .overrun m req => Sys2Proof.Machine.execOverrun m req s
  | .startOfFrame ch buf ts => Sys2Proof.Machine.execStartOfFrame ch buf ts s
  | .mirrorLaneDown lane => Sys2Proof.Machine.execMirrorLaneDown lane s
  | .mirrorLaneUp lane => Sys2Proof.Machine.execMirrorLaneUp lane s
  | .configurationWrite bme d3 functionMask => Sys2Proof.Machine.execConfigurationWrite bme d3 functionMask s
  | .hostReadCompletion what => Sys2Proof.Machine.execHostReadCompletion what s
  | .pwrfailNGlitch => Sys2Proof.Machine.execPwrfailNGlitch s
  | .rtcEdge => Sys2Proof.Machine.execRtcEdge s
  | .readWithoutEffect m addr size => Sys2Proof.Machine.execReadWithoutEffect m addr size s
  | .signatureVerification => Sys2Proof.Machine.execSignatureVerification s

end Sys2Proof.Machine
end

