-- ==== Sys2Proof/Machine/Exec.lean ====
section
/-! DEFINITION. The meaning of a 64-bit instruction word, by its opcode (Tables 7-1 to 7-4). -/

namespace Sys2Proof.Machine

abbrev Insn := State → Host.Outcome State Fault Refusal

/-- The guard of a word. -/
def wCtl (c : Core) (v : Nat) : Ctl := { core := c, gp := pAt v 52, gn := bit v 51 }

/-- The fields of the formats R and I: D, A, B, C. -/
def wD (v : Nat) : BitVec 6 := rAt v 42
def wA (v : Nat) : BitVec 6 := rAt v 36
def wB (v : Nat) : BitVec 6 := rAt v 30
def wC (v : Nat) : BitVec 6 := rAt v 24

/-- The second operand of CMP. -/
def src16At (v : Nat) : Src16 := if wI v then .imm (BitVec.ofNat 16 v) else .reg (wB v)

def pfnAt (v : Nat) : PFn := if bits v 33 32 = 0 then .and else if bits v 33 32 = 1 then .or else .xor

/-- Opcodes 0x00 to 0x0E. -/
def runControl (x : Ctl) (v : Nat) : Insn :=
  match wOp v with
  | 0x00 => execInop x
  | 0x01 => execIend x
  | 0x02 => execLoop x (BitVec.ofNat 15 (loopLen v)) (BitVec.ofNat 16 v)
  | 0x03 => execLidx x (wD v) (BitVec.ofNat 2 v)
  | 0x04 => execRdaf x (wD v)
  | 0x05 => execClaf x
  | 0x08 => execMovi x (wD v) (imm32 v)
  | 0x09 => execMovhi x (wD v) (imm32 v)
  | 0x0A => execSel x (wD v) (wA v) (wB v) (pAt v 24)
  | 0x0B => execPmov x (wD v) (pAt v 24)
  | 0x0C => (match intCcAt v with
    | some cc => execCmp x (wW v) cc (wA v) (src16At v) (pAt v 26) (pAt v 22)
    | none => illegal x)
  | 0x0D => (match fltCcAt v with
    | some cc => execFcmp x (wW v) cc (wA v) (wB v) (pAt v 26) (pAt v 22)
    | none => illegal x)
  | 0x0E => execPlog x (pAt v 44) (pAt v 40) (pAt v 36) (bit v 35) (bit v 34) (pfnAt v)
  | _ => illegal x

/-- Opcodes 0x10 to 0x2D. -/
def runInt (x : Ctl) (v : Nat) : Insn :=
  match wOp v with
  | 0x10 => execAdd x (wW v) (wD v) (wA v) (srcAt v)
  | 0x11 => execSub x (wW v) (wD v) (wA v) (srcAt v)
  | 0x12 => execAdds x (wW v) (wD v) (wA v) (srcAt v)
  | 0x13 => execSubs x (wW v) (wD v) (wA v) (srcAt v)
  | 0x14 => execMul x (wW v) (wD v) (wA v) (srcAt v)
  | 0x15 => execMuls x (wW v) (wD v) (wA v) (srcAt v)
  | 0x16 => execMulhs x (wW v) (wD v) (wA v) (wB v)
  | 0x17 => execMulhu x (wW v) (wD v) (wA v) (wB v)
  | 0x18 => execDivs x (wW v) (wD v) (wA v) (srcAt v)
  | 0x19 => execDivu x (wW v) (wD v) (wA v) (srcAt v)
  | 0x1A => execRems x (wW v) (wD v) (wA v) (srcAt v)
  | 0x1B => execRemu x (wW v) (wD v) (wA v) (srcAt v)
  | 0x1C => execMin x (wW v) (wD v) (wA v) (srcAt v)
  | 0x1D => execMax x (wW v) (wD v) (wA v) (srcAt v)
  | 0x1E => execMinu x (wW v) (wD v) (wA v) (srcAt v)
  | 0x1F => execMaxu x (wW v) (wD v) (wA v) (srcAt v)
  | 0x20 => execAnd x (wW v) (wD v) (wA v) (srcAt v)
  | 0x21 => execOr x (wW v) (wD v) (wA v) (srcAt v)
  | 0x22 => execXor x (wW v) (wD v) (wA v) (srcAt v)
  | 0x23 => execAndn x (wW v) (wD v) (wA v) (srcAt v)
  | 0x24 => execShl x (wW v) (wD v) (wA v) (srcAt v)
  | 0x25 => execShr x (wW v) (wD v) (wA v) (srcAt v)
  | 0x26 => execSar x (wW v) (wD v) (wA v) (srcAt v)
  | 0x27 => execRol x (wW v) (wD v) (wA v) (srcAt v)
  | 0x28 => execBfxu x (wD v) (wA v) (rAt v 6) (rAt v 0)
  | 0x29 => execBfxs x (wD v) (wA v) (rAt v 6) (rAt v 0)
  | 0x2A => execBfi x (wD v) (wA v) (rAt v 6) (rAt v 0)
  | 0x2B => execClz x (wW v) (wD v) (wA v)
  | 0x2C => execPopc x (wW v) (wD v) (wA v)
  | 0x2D => execAbss x (wW v) (wD v) (wA v)
  | _ => illegal x

/-- Opcodes 0x30 to 0x42. -/
def runFloat (x : Ctl) (v : Nat) : Insn :=
  match wOp v with
  | 0x30 => execFadd x (wW v) (wD v) (wA v) (wB v)
  | 0x31 => execFsub x (wW v) (wD v) (wA v) (wB v)
  | 0x32 => execFmul x (wW v) (wD v) (wA v) (wB v)
  | 0x33 => execFdiv x (wW v) (wD v) (wA v) (wB v)
  | 0x34 => execFsqrt x (wW v) (wD v) (wA v)
  | 0x35 => execFma x (wW v) (wD v) (wA v) (wB v) (wC v)
  | 0x36 => execFms x (wW v) (wD v) (wA v) (wB v) (wC v)
  | 0x37 => execFmin x (wW v) (wD v) (wA v) (wB v)
  | 0x38 => execFmax x (wW v) (wD v) (wA v) (wB v)
  | 0x39 => execFminn x (wW v) (wD v) (wA v) (wB v)
  | 0x3A => execFmaxn x (wW v) (wD v) (wA v) (wB v)
  | 0x3B => execFabs x (wW v) (wD v) (wA v)
  | 0x3C => execFneg x (wW v) (wD v) (wA v)
  | 0x3D => execFcvt x (wW v) (wD v) (wA v)
  | 0x3E => execIcvtf x (wW v) (wD v) (wA v)
  | 0x3F => execUcvtf x (wW v) (wD v) (wA v)
  | 0x40 => execFcvti x (wW v) (wD v) (wA v) (rmAt v) (bit v 26)
  | 0x41 => execFcvtu x (wW v) (wD v) (wA v) (rmAt v) (bit v 26)
  | 0x42 => execFrnd x (wW v) (wD v) (wA v) (rmAt v)
  | _ => illegal x

/-- Opcodes 0x48 to 0x6B. -/
def runMem (x : Ctl) (v : Nat) : Insn :=
  match wOp v with
  | 0x48 => execLd x (wD v) (wA v) (BitVec.ofNat 2 (bits v 35 34)) (bit v 33) (imm32 v)
  | 0x49 => execSt x (wD v) (wA v) (BitVec.ofNat 2 (bits v 35 34)) (imm32 v)
  | 0x50 => execPld x (wD v) (wA v) (wB v) (bit v 17) (BitVec.ofNat 17 v)
  | 0x51 => execPst x (wD v) (wA v) (BitVec.ofNat 17 v)
  | 0x52 => execPstq x (wD v) (wA v) (wB v) (BitVec.ofNat 17 v)
  | 0x58 => execTmr x (wD v) (wA v) (pAt v 32) (bit v 31) (pAt v 27) (BitVec.ofNat 12 v)
  | 0x59 => execEdge x (pAt v 32) (bit v 31) (pAt v 27) (BitVec.ofNat 12 v)
  | 0x60 => execBr x (imm32 v)
  | 0x61 => execCall x (imm32 v)
  | 0x62 => execRet x
  | 0x63 => execJr x (wA v)
  | 0x64 => execCallr x (wA v)
  | 0x65 => execPush x (wA v)
  | 0x66 => execPop x (wD v)
  | 0x67 => execMrs x (wD v) (BitVec.ofNat 4 v)
  | 0x68 => execMsr x (wA v) (BitVec.ofNat 4 v)
  | 0x69 => execReti x
  | 0x6A => execWfi x
  | 0x6B => execFence x
  | _ => illegal x

/-- A word on an engine: ILLEGAL where it is not valid in the engine's profile (R205). -/
def runWord (c : Core) (v : Nat) : Insn :=
  let x := wCtl c v
  if !validWord (c == .mc1) v then illegal { x with gp := 0, gn := false }
  else if wOp v < 0x10 then runControl x v
  else if wOp v < 0x30 then runInt x v
  else if wOp v < 0x48 then runFloat x v
  else runMem x v

end Sys2Proof.Machine
end

