-- ==== Sys2Proof/Machine/Tick.lean ====
section
/-! DEFINITION. One CORE cycle of the block, which a step takes when no command waits: the engines and MC1 execute
from their own memories, the axes integrate, pulses end, and TBC and the frame's cycle count. -/

namespace Sys2Proof.Machine

def outState (r : Host.Outcome State Fault Refusal) (s : State) : State :=
  match r with
  | .next t => t
  | _ => s

/-! ### The cell engines (R202, R207) -/

/-- One cycle of a cell engine: the next instruction issues when the cycles of the last one have passed. END issues, and
the cycle ends in the last of its 24 cycles (R207). MC0 carries out the CELL_READs of an engine in no cycle (R199). -/
def cellTick (s : State) (e : Fin 8) : State :=
  let g := engGet s e
  let v := (g.code.getD g.pos 0).toNat
  if !coreRuns (.cell e) s then cellReadWaits e s
  else if 1 < g.busy then engPut s e { g with busy := g.busy - 1 }
  else if isEnd v && !g.ending then engPut s e { g with ending := true, busy := wordCycles v - 1 }
  else outState (runWord (.cell e) v s) s

/-! ### MC1 (R224 to R229) -/

/-- The word at PC, or the fault of its fetch: from the code memory, or through a read window, where contents that the
manual leaves open are a free word. -/
def mc1Word (s : State) : (Nat × State) ⊕ Nat :=
  let a := s.mc1.pc.toNat
  if a % 8 ≠ 0 then .inr vALIGN
  else if inCode a 8 then .inl (leNat (tblRange s.mc1.code (a - mc1Code) 8 0), s)
  else if mc1Win s a 8 false then
    match fabRead s 1 a 8 with
    | some b => .inl (leNat b, s)
    | none => let w := freeWord s; .inl (w.1.toNat, w.2)
  else .inr vACCESS

/-- A cycle of the exit, with `k` of its six cycles left: a handover in cycles 1 to 4, the commit in cycle 6. -/
def exitCycle (k : Nat) (s : State) : State :=
  let t := { s with mc1 := { s.mc1 with exitLeft := none } }
  if k ≤ 1 then setSp (spOf t + 64) { t with mc1 := frameTake t.mc1 (frameLoad (spOf t).toNat t) }
  else
    let m := frameTake t.mc1 (frameLoad (spOf t).toNat t)
    match (if 3 ≤ k && m.ie then preempts t m.cpri.toNat m.pmask else none) with
    | some n => let u := mc1Enter n t; { u with mc1 := { u.mc1 with busy := 3 } }
    | none => { s with mc1 := { s.mc1 with exitLeft := some (k - 1) } }

/-- A RETI issued by MC1 itself begins its exit: the frame can be read, and the choice stays open through cycle 4. -/
def exitBegin (s : State) : State :=
  if s.mc1.cpri = 16 ∨ !frameAt s (spOf s).toNat 8 false then mc1Exit (preStep .mc1 6 s)
  else exitCycle 6 { s with mc1 := { s.mc1 with pc := s.mc1.pc + 8, fresh := false } }

/-- A cycle of the entry: the choice at the end of cycle 6, the delivery in cycle 8 (Table 7-12). -/
def entryCycle (e : IrqEntry) (s : State) : State :=
  if e.left ≤ 1 then (match e.sel with | some n => entryDeliver n s | none => s)
  else
    let f := { e with left := e.left - 1 }
    let t := { s with mc1 := { s.mc1 with entry := some f } }
    if e.left = 3 then entrySelect f t else t

/-- The next instruction of MC1. -/
def mc1Issue (s : State) : State :=
  match mc1Word s with
  | .inr vec => mc1Fault vec s.mc1.pc (preStep .mc1 1 s)
  | .inl (v, s) =>
    if wOp v = 0x69 ∧ validWord true v ∧ guardOk (wCtl .mc1 v) s then exitBegin s
    else outState (runWord .mc1 v s) s

/-- One cycle of MC1, once its code memory holds a program. -/
def mc1Tick (s : State) : State :=
  if frozenM s 1 || halted s 1 || s.mc1.code.isEmpty then s
  else match s.mc1.entry, s.mc1.exitLeft with
    | some e, _ => entryCycle e s
    | none, some k => exitCycle k s
    | none, none =>
      if 1 < s.mc1.busy then { s with mc1 := { s.mc1 with busy := s.mc1.busy - 1 } }
      else if mc1Takes s then (let t := entryBegin s; match t.mc1.entry with | some e => entryCycle e t | none => t)
      else if s.mc1.waiting then
        { s with mc1 := { s.mc1 with waiting := (preempts s s.mc1.cpri.toNat s.mc1.pmask).isNone } }
      else mc1Issue s

/-! ### The cycle -/

/-- A TSYN pulse ends. -/
def pulseEnds (s : State) : State :=
  let s0 := if s.time.pulse0 = some s.time.tbc then emit (.tsyn 0 false) { s with time := { s.time with pulse0 := none } } else s
  if s0.time.pulse1 = some s0.time.tbc then emit (.tsyn 1 false) { s0 with time := { s0.time with pulse1 := none } } else s0

/-- Before schedule start the units exchange once in every 1,000,000 cycles of TBC (R418). -/
def startExchange (s : State) : State :=
  if !s.sched.run && decide (4 ≤ s.sys.stage.toNat) && s.sys.stage != 0xE && s.sys.stage != 0xF && s.pair.mode &&
      s.time.tbc.toNat % 1000000 == 0 then mirExchange s
  else s

/-- TEMP is measured once in every 1,000,000 cycles of TBC and VBAT once in every 1,000,000,000 (Table 18-13).
DESIGN CHOICE (log entry 2): the measured values are free, and MAX is the highest TJ since reset. -/
def measure (s : State) : State :=
  let s1 := if s.time.tbc.toNat % 1000000 = 0 then
      let w := freeWord s
      let t : W16 := w.1.truncate 16
      { w.2 with pwr := { w.2.pwr with tj := t, tjMax := if s.pwr.tjMax.slt t then t else s.pwr.tjMax } }
    else s
  if s.time.tbc.toNat % 1000000000 = 0 then
    let w := freeWord s1
    { w.2 with pwr := { w.2.pwr with vbat := w.1.truncate 12 } }
  else s1

/-- One CORE cycle. MC1 goes first, so that an event of the cycle outlives MC1's clearing access of the same cycle
(Table 0-6), and the axes stand still while AXIS is frozen (R67). It passes while PLL-A is locked and the management domain is awake. -/
def tick (s : State) : State :=
  if !s.pwr.pllA || s.pwr.asleep then s
  else
    let s1 := [0, 1, 2, 3, 4, 5, 6, 7].foldl cellTick (mc1Tick s)
    let s2 := if drives s1 && !frozenM s1 14 then (List.range 16).foldl axTick s1 else s1
    let s3 := { s2 with time := { s2.time with tbc := s2.time.tbc + 1 },
                        sched := { s2.sched with cyc := if s2.sched.run then s2.sched.cyc + 1 else s2.sched.cyc } }
    startExchange (wiresTick (pulseEnds (measure s3)))

end Sys2Proof.Machine
end

