-- ==== Sys2Proof/Safety.lean ====
section
/-! DEFINITION. What the statements speak of: a command that answers a next state, an instruction that issues, a
descriptor that reaches the checks of its own chapter, and what a master reads. The model has no fault. -/

namespace Sys2Proof.Machine

/-- The step from `s` answers a next state. -/
def Runs (s : State) : Prop := ∃ t, step s = .next t

/-- The command answers a next state of which `P` holds. -/
def Gives (i : Instr) (s : State) (P : State → Prop) : Prop := ∃ t, exec i s = .next t ∧ P t

/-- The instruction has its effect: its engine executes and its guard holds (R202, R203). -/
def Issues (x : Ctl) (s : State) : Prop := coreRuns x.core s = true ∧ guardOk x s = true

/-- What register `d` reads after a write of `v`: G0 reads 0 (R200). -/
def rd (d : BitVec 6) (v : W64) : W64 := if d = 0 then 0 else v

/-- What predicate `p` reads after a write of `v`: P0 reads TRUE (R200). -/
def rp (p : BitVec 4) (v : Bool) : Bool := if p = 0 then true else v

/-- The completion entry of a descriptor waits for its close point, with the status and the data (Table 13-3). -/
def Answered (d : HostDesc) (st data : Nat) (t : State) : Prop :=
  ∃ c ∈ t.hif.waiting, c.ring = d.ring.val ∧ c.sqidx = d.sqidx ∧ c.unsol = false ∧
    c.status = BitVec.ofNat 8 st ∧ c.data = BitVec.ofNat 64 data

/-- A descriptor that HIF starts now and that passes items 1 to 4 of R383, the role check of R416, the boot timeline of
R499 and the frozen check of R385, with its host buffer read; a SOLV_DELTA is not held back by R131. -/
def Reaches (op : Nat) (d : HostDesc) (s : State) : Prop :=
  dOp d = op ∧ (ringGet s d.ring).queue = [] ∧ canStart s d = true ∧
  (ringGet s d.ring).classMask.getLsbD (classRow op) = true ∧
  (d.signed.isSome = true ∨ (ownerSigned op = false ∧ (operatorOp op = true → ∃ l, authorise s d = .ok l))) ∧
  (roleBarred op = true → enginesRun s = true) ∧ bootBarred s op = false ∧ reservedOk d = true ∧
  (∀ m, carrier op = some m → frozenM s m = false) ∧ deltaWaits s d = false ∧ d.readFail = false

/-- The state in which a descriptor that reaches its chapter finds the block: started, its authorisation consumed. -/
def entered (d : HostDesc) (s : State) : State :=
  let s1 := ringPut s d.ring { ringGet s d.ring with started := (ringGet s d.ring).started ++ [d] }
  if d.signed.isSome || !operatorOp (dOp d) then s1
  else match authorise s1 d with
    | .ok last => authTake d last s1
    | _ => s1

/-- No SOLV_DELTA of any structure slot is written or waits to be written (R130). -/
def NoDeltas (s : State) : Prop := ∀ k, k < 4 → (slotGet s k).writing = none ∧ (slotGet s k).deltas = []

/-- Nothing of HIF waits for a host slot: no late data, no buffer read, no write, no copy, no access of a started
descriptor, no delta. -/
def NoHostWork (s : State) : Prop :=
  s.hif.late = [] ∧ s.hif.reads = [] ∧ s.hif.writes = [] ∧ s.hif.copies = [] ∧ s.hif.todo = [] ∧ NoDeltas s

/-- A block holds the descriptor for something that an image switch can end. -/
def HeldByABlock (d : HostDesc) (s : State) : Prop :=
  (∃ r ∈ s.sched.releases, r.desc = some d) ∨ (∃ e, (engGet s e).step = some d) ∨ (∃ e i, (lstGet s e i).req = some d) ∨
  (∃ b ∈ s.loops.params, b.desc = d) ∨ (∃ k, d ∈ (stnGet s k).evicts) ∨ d ∈ s.solv.hostRuns ∨
  (∃ r ∈ s.solv.runs, r.host = some d) ∨
  ∃ k, (slotGet s k).reload = some d ∨ d ∈ (slotGet s k).deltas ∨ ∃ w, (slotGet s k).writing = some w ∧ w.desc = d

/-- A register access of 32 bits by the master reaches the register of one word at the address. -/
def Reads (s : State) (m : RegMaster) (addr v : Nat) : Prop :=
  ∃ e, regOf s m addr = some e ∧ e.words = 1 ∧ e.val = v

/-- The guard and engine of an instruction, its cycles (Table 7-4), and whether it is valid on its engine (R205). BR has
the cycles of a branch not taken. -/
def insnShape : Instr → Option (Ctl × Nat × Bool)
  | .inop x | .rdaf x _ | .claf x | .movi x _ _ | .movhi x _ _ | .sel x _ _ _ _ | .pmov x _ _ | .cmp x _ _ _ _ _ _
  | .fcmp x _ _ _ _ _ _ | .plog x _ _ _ _ _ _ | .add x _ _ _ _ | .sub x _ _ _ _ | .adds x _ _ _ _ | .subs x _ _ _ _
  | .min x _ _ _ _ | .max x _ _ _ _ | .minu x _ _ _ _ | .maxu x _ _ _ _ | .and x _ _ _ _ | .or x _ _ _ _
  | .xor x _ _ _ _ | .andn x _ _ _ _ | .shl x _ _ _ _ | .shr x _ _ _ _ | .sar x _ _ _ _ | .rol x _ _ _ _
  | .clz x _ _ _ | .popc x _ _ _ | .abss x _ _ _ | .fabs x _ _ _ | .fneg x _ _ _ | .st x _ _ _ _ => some (x, 1, true)
  | .bfxu x _ _ l w | .bfxs x _ _ l w | .bfi x _ _ l w => some (x, 1, decide (l.toNat + w.toNat ≤ 63))
  | .mul x _ _ _ _ | .muls x _ _ _ _ | .mulhs x _ _ _ _ | .mulhu x _ _ _ _ | .icvtf x _ _ _ | .ucvtf x _ _ _
  | .fcvti x _ _ _ _ _ | .fcvtu x _ _ _ _ _ | .frnd x _ _ _ _ => some (x, 3, true)
  | .divs x w _ _ _ | .divu x w _ _ _ | .rems x w _ _ _ | .remu x w _ _ _ => some (x, if w then 20 else 36, true)
  | .fadd x _ _ _ _ | .fsub x _ _ _ _ | .fmul x _ _ _ _ | .pst x _ _ _ | .pstq x _ _ _ _ => some (x, 4, true)
  | .fdiv x w _ _ _ => some (x, if w then 14 else 24, true)
  | .fsqrt x w _ _ => some (x, if w then 16 else 28, true)
  | .fma x _ _ _ _ _ | .fms x _ _ _ _ _ => some (x, 5, true)
  | .fmin x _ _ _ _ | .fmax x _ _ _ _ | .fminn x _ _ _ _ | .fmaxn x _ _ _ _ | .fcvt x _ _ _ | .ld x _ _ _ _ _ =>
    some (x, 2, true)
  | .pld x _ _ _ _ _ => some (x, 20, true)
  | .iend x => some (x, 24, x.core != .mc1 && x.gp == 0 && !x.gn)
  | .loop x n _ => some (x, 1, x.core != .mc1 && x.gp == 0 && !x.gn && n != 0)
  | .lidx x _ _ => some (x, 1, x.core != .mc1)
  | .tmr x _ _ _ _ _ _ => some (x, 6, x.core != .mc1)
  | .edge x _ _ _ _ => some (x, 3, x.core != .mc1)
  | .br x _ | .push x _ | .wfi x | .fence x => some (x, 1, x.core == .mc1)
  | .call x _ | .ret x | .jr x _ | .callr x _ => some (x, 3, x.core == .mc1)
  | .pop x _ => some (x, 2, x.core == .mc1)
  | .mrs x _ i => some (x, 1, x.core == .mc1 && decide (i.toNat ≤ 3))
  | .msr x _ i => some (x, 1, x.core == .mc1 && decide (i.toNat ≤ 2))
  | .reti x => some (x, 6, x.core == .mc1)
  | _ => none

/-- Everything but the general registers, predicates, flags and progress of one engine (for MC1 its PC, its cycles, and
that an instruction has gone by since the last entry). -/
def elsewhere (c : Core) (s : State) : State :=
  match c with
  | .cell e => engPut s e { engGet s e with g := [], p := [], afl := 0, aflAcc := 0, pos := 0, loops := [], used := 0, busy := 0 }
  | .mc1 => { s with mc1 := { s.mc1 with g := [], p := [], afl := 0, pc := 0, busy := 0, fresh := false } }

/-- MC1 has taken a fault raised in `s` by the instruction that it executes: the handler of `vec` is entered at priority
16, the frame is in FSAVE and G63 is kept; in the fault handler MC1 is frozen with cause FAULT (R227). -/
def FaultTaken (vec : Nat) (s t : State) : Prop :=
  (s.mc1.cpri ≠ 16 → t.mc1.cpri = 16 ∧ t.mc1.pc = vectorOf s.mc1 vec ∧
    mdRead t.mc1 mc1FSave 64 = frameOf { s.mc1 with pc := s.mc1.pc + 8 } ∧
    (∀ i, getG .mc1 t i = getG .mc1 s i) ∧ frozenM t 1 = frozenM s 1) ∧
  (s.mc1.cpri = 16 → frozenM t 1 = true ∧ (tblGet t.sched.frzInfo 1 {}).cause = 4 ∧
    (tblGet t.sched.frzInfo 1 {}).addr = BitVec.ofNat 40 s.mc1.pc.toNat ∧
    tblGet (blkGet t bSCHED).cnt 7 0 = satInc (tblGet (blkGet s bSCHED).cnt 7 0) ∧
    (srcGet t 0).pend = true ∧ (∀ i, getG .mc1 t i = getG .mc1 s i))

/-- BAR0 reaches every block: it is closed in BOOTFAIL but for SYS and PWR, and no other master ever is (R498). -/
def Reachable (m : RegMaster) (s : State) : Prop := ∀ n, m = .bar0 n → s.sys.stage ≠ 0xF

/-- Bytes for host memory: written in an open host slot, or held for the next one (R380). -/
def Delivered (addr : W64) (b : Bytes) (s t : State) : Prop :=
  (slotOpen s = true → Out.hostWrite addr b ∈ t.out) ∧ (slotOpen s = false → (addr, b) ∈ t.hif.writes)

/-- A record of the code waits in the Lantern queue, where Lantern takes records (R452, R454). -/
def InLantern (code : Nat) (s t : State) : Prop :=
  s.recs.lfrozen = false → s.recs.queue.length < 64 → ∃ r ∈ t.recs.queue, r.code = BitVec.ofNat 16 code

/-- An audit record of the code is in the journal, where the log takes records (R456 to R458). -/
def InAudit (code : Nat) (s t : State) : Prop :=
  audFull s = false → s.recs.journal.length < 255 → ∃ r ∈ t.recs.journal, r.code = BitVec.ofNat 16 code

/-- A block's error counter. -/
def cntOf (s : State) (b n : Nat) : W32 := tblGet (blkGet s b).cnt n 0

/-- Counter n of block b has counted one error, and no other counter has changed (R31). -/
def Counted (b n : Nat) (s t : State) : Prop :=
  ∀ c k, cntOf t c k = if c = b ∧ k = n then satInc (cntOf s b n) else cntOf s c k

/-- The command of an opcode (Table 13-8). -/
def descRow : Nat → Option (HostDesc → Instr)
  | 0x00 => some .dNop | 0x01 => some .imageLoad | 0x02 => some .imageSwitch | 0x03 => some .imageAbort
  | 0x04 => some .unfreeze | 0x10 => some .ptRead | 0x11 => some .ptWrite | 0x12 => some .ptForce
  | 0x13 => some .cellMode | 0x14 => some .cellStep | 0x15 => some .cellRead | 0x20 => some .solvDelta
  | 0x21 => some .solvRun | 0x22 => some .solvCut | 0x23 => some .solvRead | 0x24 => some .solvReload
  | 0x30 => some .parcSet | 0x31 => some .parcRead | 0x38 => some .loopMode | 0x39 => some .loopParam
  | 0x3A => some .loopTrace | 0x3B => some .loopRead | 0x3C => some .axisCmd | 0x40 => some .metrRead
  | 0x41 => some .metrCal | 0x42 => some .metrLock | 0x43 => some .metrTwclr | 0x50 => some .linkRead
  | 0x51 => some .linkEvict | 0x52 => some .linkBuson | 0x58 => some .ethRead | 0x59 => some .ethPort
  | 0x60 => some .timeRead | 0x61 => some .timeRearm | 0x62 => some .rtcRead | 0x63 => some .rtcWrite
  | 0x68 => some .secAttest | 0x69 => some .secRead | 0x6A => some .secSigned | 0x6B => some .secBlob
  | 0x6C => some .secRetire | 0x6D => some .secRoot | 0x6E => some .secFloor | 0x6F => some .secCtl
  | 0x70 => some .pairRead | 0x71 => some .pairMode | 0x72 => some .pairRekey | 0x73 => some .pairResync
  | 0x74 => some .pairSwapreq | 0x78 => some .recRead | 0x79 => some .audFreeze | 0x7A => some .audClear
  | 0x7B => some .lanThaw | 0x7C => some .histWrite | 0x7D => some .tagWrite | 0x7E => some .tagLock
  | 0x7F => some .nvmFormat | 0x80 => some .pnlLoad | 0x81 => some .pnlUpdate | 0x82 => some .pnlConfig
  | 0x83 => some .pnlClear
  | _ => none

/-- A source that the controller may present for a target (R389, R392): 0 MC0, 1 MC1, 2 MSI-X. -/
def Presentable (s : State) (target n : Nat) : Prop :=
  n < 344 ∧ pendOf s n = true ∧ (srcGet s n).mask = false ∧ (target = 2 ∨ (srcGet s n).pri ≠ 0) ∧
  (srcGet s n).target.toNat = target ∧ enOf s bIRQ = true ∧
  ¬((grpGetI s (srcGet s n).group.toNat).run = true ∧ (grpGetI s (srcGet s n).group.toNat).hold ≠ 0 ∧ s.time.tbc.toNat < (grpGetI s (srcGet s n).group.toNat).ends.toNat)

/-- The source that the controller presents to a core: the highest PRI, among equals the lowest number (R389). -/
def Presented (s : State) (target n : Nat) : Prop :=
  Presentable s target n ∧ ∀ k, Presentable s target k →
    (srcGet s k).pri.toNat ≤ (srcGet s n).pri.toNat ∧ ((srcGet s k).pri = (srcGet s n).pri → n ≤ k)

end Sys2Proof.Machine
end

