-- ==== Sys2Proof/Certificates/Slice0/Obligations.lean ====
section
/-! DEFINITION. The statements about the block, family by family. Each names the rules of the manual that it rests
on. -/

open Sys2Proof Sys2Proof.Machine

/-! ### Instructions (07_cell_instruction_set.md) -/

/-- A step carries out the command at the front of the queue, with the queue's rest: the model's convention (log entry 1). -/
def Obligations.StepRunsTheFrontCommand : Prop :=
  ∀ (c : Instr) (s : State) (r : List Instr), s.pending = c :: r → step s = exec c { s with pending := r }

/-- A guarded instruction without its effect (R203). -/
def Obligations.FalseGuardHasNoEffect : Prop :=
  ∀ (i : Instr) (x : Ctl) (n : Nat) (s : State), insnShape i = some (x, n, true) → coreRuns x.core s = true →
    (getP x.core s x.gp != x.gn) = false →
    Gives i s (fun t => elsewhere x.core t = elsewhere x.core s ∧
      (∀ r, getG x.core t r = getG x.core s r) ∧ (∀ p, getP x.core t p = getP x.core s p) ∧
      getAfl x.core t = getAfl x.core s ∧
      (∀ e : Fin 8, x.core = .cell e → (engGet t e).aflAcc = (engGet s e).aflAcc ∧
        (engGet t e).used = (engGet s e).used + n ∧ (engGet t e).busy = n) ∧
      (x.core = .mc1 → t.mc1.busy = n ∧ t.mc1.pc = s.mc1.pc + 8))

/-- The cycles of every instruction of a cell engine (R202). ILLEGAL (R205, R227). -/
def Obligations.InstructionsTakeTheirCyclesWhereValid : Prop :=
  (
    ∀ (i : Instr) (e : Fin 8) (p : BitVec 4) (g : Bool) (n : Nat) (s : State),
      insnShape i = some ({ core := .cell e, gp := p, gn := g }, n, true) → coreRuns (.cell e) s = true →
      Gives i s (fun t => (engGet t e).used = (engGet s e).used + n)) ∧
  (
    ∀ (i : Instr) (x : Ctl) (n : Nat) (s : State), insnShape i = some (x, n, false) → x.core = .mc1 → coreRuns .mc1 s = true →
      Gives i s (FaultTaken vILLEGAL s))

/-- Wrapping and high-half arithmetic (R212, Table 7-6). Saturating arithmetic (Table 7-6). Quotients and remainders,
by zero and at the signed limit (R212, Table 7-6). -/
def Obligations.IntegerResults : Prop :=
  (
    ∀ (x : Ctl) (s : State) (w : Bool) (d a b : BitVec 6) (v : Src), Issues x s →
      let A := sval w (getG x.core s a)
      let B := sval w (srcVal x.core s v)
      let C := sval w (getG x.core s b)
      let put := fun (i : Instr) (r : Int) => Gives i s (fun t =>
        getG x.core t d = rd d (intRes w r) ∧ getAfl x.core t = getAfl x.core s)
      put (.add x w d a v) (A + B) ∧ put (.sub x w d a v) (A - B) ∧ put (.mul x w d a v) (A * B) ∧
      put (.mulhs x w d a b) (A * C / 2 ^ wid w) ∧
      put (.mulhu x w d a b) ((uval w (getG x.core s a) * uval w (getG x.core s b) / 2 ^ wid w : Nat))) ∧
  (
    ∀ (x : Ctl) (s : State) (w : Bool) (d a : BitVec 6) (v : Src), Issues x s →
      let A := sval w (getG x.core s a)
      let B := sval w (srcVal x.core s v)
      let hi : Int := 2 ^ (wid w - 1) - 1
      let lo : Int := -(2 ^ (wid w - 1))
      let sat := fun (i : Instr) (e : Int) => Gives i s (fun t =>
        getG x.core t d = rd d (intRes w (max lo (min hi e))) ∧
        getAfl x.core t = if lo ≤ e ∧ e ≤ hi then getAfl x.core s else getAfl x.core s ||| flSAT)
      sat (.adds x w d a v) (A + B) ∧ sat (.subs x w d a v) (A - B) ∧ sat (.muls x w d a v) (A * B) ∧
      sat (.abss x w d a) A.natAbs) ∧
  (
    ∀ (x : Ctl) (s : State) (w : Bool) (d a : BitVec 6) (v : Src), Issues x s →
      let A := sval w (getG x.core s a)
      let B := sval w (srcVal x.core s v)
      let M := uval w (getG x.core s a)
      let N := uval w (srcVal x.core s v)
      let hi : Int := 2 ^ (wid w - 1) - 1
      let lo : Int := -(2 ^ (wid w - 1))
      let cnt := fun (t : State) => tblGet (blkGet t bCELL).cnt 7 0
      let put := fun (i : Instr) (r : Int) (fl : BitVec 7) => Gives i s (fun t =>
        getG x.core t d = rd d (intRes w r) ∧ getAfl x.core t = getAfl x.core s ||| fl ∧
        cnt t = if x.core ≠ .mc1 ∧ N = 0 then satInc (cnt s) else cnt s)
      (B ≠ 0 → ¬(A = lo ∧ B = -1) → put (.divs x w d a v) (Int.tdiv A B) 0) ∧
      (A = lo → B = -1 → put (.divs x w d a v) lo flSAT ∧ put (.rems x w d a v) 0 0) ∧
      (B = 0 → put (.divs x w d a v) (if 0 < A then hi else if A < 0 then lo else 0) flIDZ ∧ put (.rems x w d a v) A flIDZ) ∧
      (B ≠ 0 → put (.rems x w d a v) (A - B * Int.tdiv A B) 0) ∧
      (N ≠ 0 → put (.divu x w d a v) (M / N : Nat) 0 ∧ put (.remu x w d a v) (M % N : Nat) 0) ∧
      (N = 0 → put (.divu x w d a v) (-1) flIDZ ∧ put (.remu x w d a v) M flIDZ))

/-- Minimum, maximum, logic and shifts (Tables 7-4, 7-6). Moves, fields, counts and the flag register (Table 7-4). -/
def Obligations.LogicMoveAndFieldResults : Prop :=
  (
    ∀ (x : Ctl) (s : State) (w : Bool) (d a : BitVec 6) (v : Src), Issues x s →
      let A := sval w (getG x.core s a)
      let B := sval w (srcVal x.core s v)
      let M := uval w (getG x.core s a)
      let N := uval w (srcVal x.core s v)
      let k := (srcVal x.core s v).toNat % wid w
      let put := fun (i : Instr) (r : Int) => Gives i s (fun t =>
        getG x.core t d = rd d (intRes w r) ∧ getAfl x.core t = getAfl x.core s)
      put (.min x w d a v) (min A B) ∧ put (.max x w d a v) (max A B) ∧
      put (.minu x w d a v) (min M N : Nat) ∧ put (.maxu x w d a v) (max M N : Nat) ∧
      put (.and x w d a v) (M &&& N : Nat) ∧ put (.or x w d a v) (M ||| N : Nat) ∧ put (.xor x w d a v) (M ^^^ N : Nat) ∧
      put (.shl x w d a v) (M * 2 ^ k : Nat) ∧ put (.shr x w d a v) (M / 2 ^ k : Nat) ∧ put (.sar x w d a v) (A / 2 ^ k) ∧
      Gives (.andn x w d a v) s (fun t => getAfl x.core t = getAfl x.core s ∧
        ∀ i, i < wid w → d ≠ 0 → (getG x.core t d).getLsbD i = (M.testBit i && !N.testBit i)) ∧
      Gives (.rol x w d a v) s (fun t => getAfl x.core t = getAfl x.core s ∧
        ∀ i, i < wid w → d ≠ 0 → (getG x.core t d).getLsbD i = M.testBit ((i + wid w - k) % wid w))) ∧
  (
    ∀ (x : Ctl) (s : State) (w : Bool) (d a b lo wm1 : BitVec 6) (p : BitVec 4) (v : W32), Issues x s →
      let A := getG x.core s a
      let put := fun (i : Instr) (r : W64) => Gives i s (fun t => getG x.core t d = rd d r)
      put (.movi x d v) (v.signExtend 64) ∧ put (.movhi x d v) (v ++ (getG x.core s d).truncate 32) ∧
      put (.sel x d a b p) (if getP x.core s p then A else getG x.core s b) ∧
      put (.pmov x d p) (if getP x.core s p then 1 else 0) ∧ put (.rdaf x d) ((getAfl x.core s).zeroExtend 64) ∧
      put (.popc x w d a) (BitVec.ofNat 64 ((List.range (wid w)).filter fun i => A.toNat.testBit i).length) ∧
      (uval w A = 0 → put (.clz x w d a) (BitVec.ofNat 64 (wid w))) ∧
      (∀ n, n < wid w → uval w A / 2 ^ n = 1 → put (.clz x w d a) (BitVec.ofNat 64 (wid w - 1 - n))) ∧
      (lo.toNat + wm1.toNat ≤ 63 →
        put (.bfxu x d a lo wm1) (BitVec.ofNat 64 (A.toNat / 2 ^ lo.toNat % 2 ^ (wm1.toNat + 1))) ∧
        (d ≠ 0 → ∀ i, i < 64 → Gives (.bfxs x d a lo wm1) s (fun t =>
          (getG x.core t d).getLsbD i = A.getLsbD (lo.toNat + min i wm1.toNat))) ∧
        (d ≠ 0 → ∀ i, i < 64 → Gives (.bfi x d a lo wm1) s (fun t => (getG x.core t d).getLsbD i =
          if lo.toNat ≤ i ∧ i ≤ lo.toNat + wm1.toNat then A.getLsbD (i - lo.toNat) else (getG x.core s d).getLsbD i))) ∧
      Gives (.claf x) s (fun t => getAfl x.core t = 0) ∧
      Gives (.inop x) s (fun t => getAfl x.core t = getAfl x.core s ∧ (∀ i, getG x.core t i = getG x.core s i) ∧
        ∀ p, getP x.core t p = getP x.core s p))

/-- Comparisons and predicate logic (Table 7-3, R516). -/
def Obligations.PredicateResults : Prop :=
  ∀ (x : Ctl) (s : State) (w : Bool) (cc : IntCC) (fc : FltCC) (a b : BitVec 6) (v : Src16) (pd pe pa pb : BitVec 4)
    (na nb : Bool) (fn : PFn), Issues x s →
    let A := getG x.core s a
    let V := src16Val x.core s v
    let o := fcmp (fmtOf w) (fval w A) (fval w (getG x.core s b))
    let sn := isSNaN (fdec (fmtOf w) (fval w A)) || isSNaN (fdec (fmtOf w) (fval w (getG x.core s b)))
    let r : Bool := match cc with
      | .eq => decide (sval w A = sval w V)
      | .ne => decide (sval w A ≠ sval w V)
      | .lt => decide (sval w A < sval w V)
      | .ge => decide (sval w A ≥ sval w V)
      | .ltu => decide (uval w A < uval w V)
      | .geu => decide (uval w A ≥ uval w V)
      | .le => decide (sval w A ≤ sval w V)
      | .gt => decide (sval w A > sval w V)
      | .leu => decide (uval w A ≤ uval w V)
      | .gtu => decide (uval w A > uval w V)
      | .bits => decide (uval w A &&& uval w V ≠ 0)
      | .nbits => decide (uval w A &&& uval w V = 0)
    let f : Bool := match fc with
      | .eq => o == some .eq
      | .ne => o != some .eq
      | .lt => o == some .lt
      | .ge => o.isSome && o != some .lt
      | .le => o.isSome && o != some .gt
      | .gt => o == some .gt
      | .un => o.isNone
      | .or => o.isSome
    let two := fun (i : Instr) (r : Bool) (fl : BitVec 7) => Gives i s (fun t =>
      getP x.core t pd = rp pd r ∧ (pe ≠ pd → getP x.core t pe = rp pe (!r)) ∧ getAfl x.core t = getAfl x.core s ||| fl ∧
      (∀ p, p ≠ pd → p ≠ pe → getP x.core t p = getP x.core s p) ∧ ∀ i, getG x.core t i = getG x.core s i)
    two (.cmp x w cc a v pd pe) r 0 ∧ two (.fcmp x w fc a b pd pe) f (if sn then flNV else 0) ∧
    Gives (.plog x pd pa pb na nb fn) s (fun t => getP x.core t pd = rp pd (match fn with
      | .and => (getP x.core s pa != na) && (getP x.core s pb != nb)
      | .or => (getP x.core s pa != na) || (getP x.core s pb != nb)
      | .xor => (getP x.core s pa != na) != (getP x.core s pb != nb)))

/-- Floating-point results in the format of W, with their flags (R213, R214). NaN results and the limits of Table 7-5. -/
def Obligations.FloatingPointResults : Prop :=
  (
    ∀ (x : Ctl) (s : State) (w : Bool) (d a b c : BitVec 6) (rm : RMode) (r32 : Bool), Issues x s →
      let f := fmtOf w
      let A := fval w (getG x.core s a)
      let B := fval w (getG x.core s b)
      let C := fval w (getG x.core s c)
      let V := getG x.core s a
      let n := if r32 then 32 else 64
      let put := fun (i : Instr) (r : Nat × BitVec 7) => Gives i s (fun t =>
        getG x.core t d = rd d (BitVec.ofNat 64 r.1) ∧ getAfl x.core t = getAfl x.core s ||| r.2)
      put (.fadd x w d a b) (fAdd f A B) ∧ put (.fsub x w d a b) (fSub f A B) ∧ put (.fmul x w d a b) (fMul f A B) ∧
      put (.fdiv x w d a b) (fDiv f A B) ∧ put (.fsqrt x w d a) (fSqrt f A) ∧
      put (.fma x w d a b c) (fFma f false A B C) ∧ put (.fms x w d a b c) (fFma f true A B C) ∧
      put (.fmin x w d a b) (fMinMax f false false A B) ∧ put (.fmax x w d a b) (fMinMax f true false A B) ∧
      put (.fminn x w d a b) (fMinMax f false true A B) ∧ put (.fmaxn x w d a b) (fMinMax f true true A B) ∧
      put (.fabs x w d a) (A % f.sgn, 0) ∧ put (.fneg x w d a) (A ^^^ f.sgn, 0) ∧ put (.frnd x w d a rm) (fRnd f rm A) ∧
      put (.icvtf x w d a) (fOfInt f V.toInt) ∧ put (.ucvtf x w d a) (fOfInt f V.toNat) ∧
      put (.fcvt x w d a) (if w then fCvt fmt64 fmt32 V.toNat else fCvt fmt32 fmt64 (V.toNat % 2 ^ 32)) ∧
      Gives (.fcvti x w d a rm r32) s (fun t =>
        let r := fToInt f rm (-(2 ^ (n - 1))) (2 ^ (n - 1) - 1) A
        getG x.core t d = rd d (intRes r32 r.1) ∧ getAfl x.core t = getAfl x.core s ||| r.2) ∧
      Gives (.fcvtu x w d a rm r32) s (fun t =>
        let r := fToInt f rm 0 (2 ^ n - 1) A
        getG x.core t d = rd d (intRes r32 r.1) ∧ getAfl x.core t = getAfl x.core s ||| r.2)) ∧
  (
    ∀ (f : Fmt) (a b c : Nat) (neg : Bool) (rm : RMode) (lo hi : Int), f = fmt64 ∨ f = fmt32 → lo ≤ 0 → 0 ≤ hi →
      (∀ r ∈ [fAdd f a b, fSub f a b, fMul f a b, fDiv f a b, fSqrt f a, fFma f neg a b c, fMinMax f neg false a b, fRnd f rm a],
        isNaN (fdec f r.1) = true → r.1 = f.nan) ∧
      (isNaN (fdec f a) = true ∨ isNaN (fdec f b) = true → (fAdd f a b).1 = f.nan ∧ (fMul f a b).1 = f.nan ∧
        (fMinMax f neg false a b).1 = f.nan) ∧
      (isNaN (fdec f a) = true → isNaN (fdec f b) = false →
        (fMinMax f neg true a b).1 = b ∧ (fMinMax f neg true b a).1 = b ∧ fToInt f rm lo hi a = (0, flNV)) ∧
      (fMinMax f false false 0 f.sgn).1 = f.sgn ∧ (fMinMax f false false f.sgn 0).1 = f.sgn ∧
      (fMinMax f true false 0 f.sgn).1 = 0 ∧ (fMinMax f true false f.sgn 0).1 = 0 ∧
      fToInt f rm lo hi f.inf = (hi, flNV) ∧ fToInt f rm lo hi (f.inf + f.sgn) = (lo, flNV) ∧
      lo ≤ (fToInt f rm lo hi a).1 ∧ (fToInt f rm lo hi a).1 ≤ hi)

/-- LD and ST of a cell engine (R216, R188). LD and ST of MC1 (R224, Table 7-8). -/
def Obligations.LoadsAndStores : Prop :=
  (
    ∀ (e : Fin 8) (p : BitVec 4) (g : Bool) (s : State) (d a : BitVec 6) (sz : BitVec 2) (sx : Bool) (v : W32),
      let x : Ctl := { core := .cell e, gp := p, gn := g }
      let n := 2 ^ sz.toNat
      let at_ := (getG x.core s a + v.signExtend 64).toNat % 262144 / n * n
      let byteOf := fun (t : State) (b : Nat) => tblGet (engGet t e).data b 0
      let val := leNat ((List.range n).map fun k => byteOf s (at_ + k))
      let lim := 0x100 + (engGet s e).constLen
      Issues x s →
      Gives (.ld x d a sz sx v) s (fun t => getG x.core t d =
          rd d (if sx = true ∧ 2 ^ (8 * n - 1) ≤ val then BitVec.ofInt 64 ((val : Int) - 2 ^ (8 * n)) else BitVec.ofNat 64 val) ∧
        ∀ b, byteOf t b = byteOf s b) ∧
      (lim ≤ at_ → at_ + n ≤ lim + (engGet s e).varLen → Gives (.st x d a sz v) s (fun t =>
        ∀ b, byteOf t b = if at_ ≤ b ∧ b < at_ + n then
          BitVec.ofNat 8 ((getG x.core s d).toNat / 2 ^ (8 * (b - at_))) else byteOf s b)) ∧
      ((at_ < lim ∨ lim + (engGet s e).varLen < at_ + n) → Gives (.st x d a sz v) s (fun t =>
        (∀ b, byteOf t b = byteOf s b) ∧ tblGet (blkGet t bCELL).cnt 3 0 = satInc (tblGet (blkGet s bCELL).cnt 3 0)))) ∧
  (
    ∀ (p : BitVec 4) (g : Bool) (s : State) (d a : BitVec 6) (sz : BitVec 2) (sx : Bool) (v : W32),
      let x : Ctl := { core := .mc1, gp := p, gn := g }
      let n := 2 ^ sz.toNat
      let at_ := (getG .mc1 s a + v.signExtend 64).toNat
      let inD := mc1Data ≤ at_ ∧ at_ < mc1DataEnd
      let inC := mc1Code ≤ at_ ∧ at_ < mc1Data
      let dataOf := fun (t : State) (b : Nat) => tblGet t.mc1.data (b - mc1Data) 0
      let codeOf := fun (t : State) (b : Nat) => tblGet t.mc1.code (b - mc1Code) 0
      let ext := fun (val : Nat) =>
        if sx = true ∧ 2 ^ (8 * n - 1) ≤ val then BitVec.ofInt 64 ((val : Int) - 2 ^ (8 * n)) else BitVec.ofNat 64 val
      Issues x s →
      (at_ % n = 0 → inD → Gives (.ld x d a sz sx v) s (fun t =>
        getG .mc1 t d = rd d (ext (leNat ((List.range n).map fun k => dataOf s (at_ + k)))))) ∧
      (at_ % n = 0 → inC → Gives (.ld x d a sz sx v) s (fun t =>
        getG .mc1 t d = rd d (ext (leNat ((List.range n).map fun k => codeOf s (at_ + k)))))) ∧
      (at_ % n = 0 → inD → Gives (.st x d a sz v) s (fun t => ∀ b, mc1Data ≤ b → dataOf t b =
        if at_ ≤ b ∧ b < at_ + n then BitVec.ofNat 8 ((getG .mc1 s d).toNat / 2 ^ (8 * (b - at_))) else dataOf s b)) ∧
      (at_ % n = 0 → inC → Gives (.st x d a sz v) s (FaultTaken vACCESS s)) ∧
      (at_ % n = 0 → fEND ≤ at_ → ¬inD → ¬inC → isRegAddr at_ = false →
        Gives (.ld x d a sz sx v) s (FaultTaken vACCESS s) ∧ Gives (.st x d a sz v) s (FaultTaken vACCESS s)) ∧
      (at_ % n ≠ 0 → isRegAddr at_ = false →
        Gives (.ld x d a sz sx v) s (FaultTaken vALIGN s) ∧ Gives (.st x d a sz v) s (FaultTaken vALIGN s)))

/-- PLD (R217, R218, R220). -/
def Obligations.PointReads : Prop :=
  ∀ (x : Ctl) (s : State) (d xr q : BitVec 6) (out : Bool) (pt : BitVec 17), Issues x s →
    let i := (getG x.core s xr + pt.zeroExtend 64).toNat
    let m := coreMaster x.core
    let a := if out then viewOut i else viewIn i
    let r := if out then workPt s i else frozenPt s i
    let v : W64 := if r.typ = 1 then r.value &&& 1 else if r.typ = 2 then (r.value.truncate 32).signExtend 64
      else if r.typ = 3 ∨ r.typ = 6 then (r.value.truncate 32 : W32).zeroExtend 64 else r.value
    let put := fun (v : W64) (k : W64) => Gives (.pld x d xr q out pt) s (fun t =>
      (q ≠ d → getG x.core t d = rd d v) ∧ getG x.core t q = rd q k ∧
      (∀ j, j ≠ d → j ≠ q → getG x.core t j = getG x.core s j) ∧ elsewhere x.core t = elsewhere x.core s)
    let stops := fun (cause : BitVec 4) => ∀ e, x.core = .cell e → Gives (.pld x d xr q out pt) s (fun t =>
        frozenM t (2 + e.val) = true ∧ (tblGet t.sched.frzInfo (2 + e.val) {}).cause = cause ∧ (tblGet t.sched.frzInfo (2 + e.val) {}).addr = BitVec.ofNat 40 a ∧
        ∀ j, getG x.core t j = getG x.core s j)
    (131072 ≤ i → put 0 2) ∧
    (i < 131072 → inWindow s m a 16 false = true → (∀ e, x.core = .cell e → inSlotOf s m = true) → put v (r.qual.zeroExtend 64)) ∧
    (i < 131072 → inWindow s m a 16 false = false → stops 2) ∧
    (i < 131072 → inWindow s m a 16 false = true → inSlotOf s m = false → stops 3)

/-- The order of the tests of a point write (R515), and the writes of PST and PSTQ. -/
def Obligations.PointWritesAreTestedInOrder : Prop :=
  (∀ (m i : Nat) (v : W64) (k : Nat) (s : State),
    let r := workPt s i
    let t := pointWrite m i v k s
    let cnt := fun (t : State) (n : Nat) => tblGet (blkGet t bCELL).cnt n 0
    let others := ∀ j, j ≠ i → workPt t j = workPt s j
    let counted := fun (n : Nat) => others ∧ ∀ j, cnt t j = if j = n then satInc (cnt s n) else cnt s j
    let span := 2 ≤ m ∧ m ≤ 14 ∧ (r.cls = 1 ∨ r.cls = 2) ∧ s.pimg.openSpan = false
    (131072 ≤ i ∨ r.typ = 0 → counted 2 ∧ workPt t i = r) ∧
    (i < 131072 → r.typ ≠ 0 →
      (r.owner.toNat ≠ m → counted 2 ∧ workPt t i = r) ∧
      (r.owner.toNat = m → span → counted 1 ∧ workPt t i = r) ∧
      (r.owner.toNat = m → ¬span → r.qual = 3 → t = s) ∧
      (r.owner.toNat = m → ¬span → r.qual ≠ 3 → ¬(k = 0 ∨ k = 1 ∨ k = 2 ∨ k = 4) →
        counted 2 ∧ (workPt t i).value = typeBits r.typ v ∧ (workPt t i).qual = 2) ∧
      (r.owner.toNat = m → ¬span → r.qual ≠ 3 → (k = 0 ∨ k = 1 ∨ k = 2 ∨ k = 4) →
        others ∧ (∀ j, cnt t j = cnt s j) ∧ (workPt t i).value = typeBits r.typ v ∧
        (workPt t i).qual = BitVec.ofNat 3 k ∧ (workPt t i).stamp =
          if r.value = typeBits r.typ v ∧ r.qual = BitVec.ofNat 3 k then r.stamp else BitVec.ofNat 32 s.sched.mfn.toNat))) ∧
  ∀ (x : Ctl) (s : State) (d xr q : BitVec 6) (pt : BitVec 17), Issues x s →
    let i := (getG x.core s xr + pt.zeroExtend 64).toNat
    let w := fun (k : Nat) => pointWrite (coreMaster x.core) i (getG x.core s d) k s
    let same := fun (k : Nat) (t : State) => t.pimg = (w k).pimg ∧ t.blk = (w k).blk
    (i < 131072 → inWindow s (coreMaster x.core) (viewOut i) 16 true = true ∧
      ∀ e, x.core = .cell e → inSlotOf s (coreMaster x.core) = true) →
    Gives (.pst x d xr pt) s (same 0) ∧ Gives (.pstq x d xr q pt) s (same ((getG x.core s q).toNat % 8))

/-- TMR (R221). -/
def Obligations.TimersFollowTheirRule : Prop :=
  ∀ (e : Fin 8) (p : BitVec 4) (gn : Bool) (s : State) (d a : BitVec 6) (pi pq : BitVec 4) (ni : Bool) (num : BitVec 12),
    let x : Ctl := { core := .cell e, gp := p, gn := gn }
    let g := engGet s e
    let tm := fun (t : State) (k : Nat) => tblGet (engGet t e).timers k {}
    let o := tm s num.toNat
    let inp := getP x.core s pi != ni
    let pre := getG x.core s a
    let el : W64 := if (g.now - o.start).toNat < pre.toNat then g.now - o.start else pre
    let out := fun (start : W64) (run q : Bool) (et : W64) => Gives (.tmr x d a pi ni pq num) s (fun t =>
      tm t num.toNat = { o with start := start, run := run, q := q, inPrev := inp } ∧
      getG x.core t d = rd d et ∧ getP x.core t pq = rp pq q ∧ ∀ k, k ≠ num.toNat → tm t k = tm s k)
    Issues x s →
    (o.typ = 1 → inp = false → out o.start false false 0) ∧
    (o.typ = 1 → inp = true → o.inPrev = false → out g.now true (pre == 0) 0) ∧
    (o.typ = 1 → inp = true → o.inPrev = true → out o.start o.run (el == pre) el) ∧
    (o.typ = 2 → inp = true → out o.start false true 0) ∧
    (o.typ = 2 → inp = false → o.inPrev = true → out g.now (pre != 0) (pre != 0) 0) ∧
    (o.typ = 2 → inp = false → o.inPrev = false → out o.start (o.run && el != pre) (o.run && decide (el.toNat < pre.toNat)) el) ∧
    (o.typ = 3 → o.run = true → out o.start (el != pre) (decide (el.toNat < pre.toNat)) el) ∧
    (o.typ = 3 → o.run = false → inp = true → o.inPrev = false → out g.now (pre != 0) (pre != 0) 0) ∧
    (o.typ = 3 → o.run = false → ¬(inp = true ∧ o.inPrev = false) → out o.start false false (if inp then pre else 0))

/-- EDGE (R222). -/
def Obligations.EdgesFollowTheirRule : Prop :=
  (∀ v, wOp v = 0x59 → bits v 47 36 ≠ 0 → validWord false v = false) ∧
  ∀ (e : Fin 8) (p : BitVec 4) (gn : Bool) (s : State) (pi pq : BitVec 4) (ni : Bool) (num : BitVec 12),
    let x : Ctl := { core := .cell e, gp := p, gn := gn }
    let ed := fun (t : State) (k : Nat) => tblGet (engGet t e).edges k {}
    let o := ed s num.toNat
    let inp := getP x.core s pi != ni
    let q := if o.first = true then false else if o.typ = 1 then inp && !o.prev else o.prev && !inp
    Issues x s → Gives (.edge x pi ni pq num) s (fun t =>
      getP x.core t pq = rp pq q ∧ ed t num.toNat = { o with first := false, prev := inp } ∧
      (∀ k, k ≠ num.toNat → ed t k = ed s k) ∧ (∀ j, getG x.core t j = getG x.core s j) ∧
      ∀ k, k ≠ pq → getP x.core t k = getP x.core s k)

/-- LOOP, LIDX and END (R207, R208). -/
def Obligations.LoopsAndTheEndOfACycle : Prop :=
  ∀ (e : Fin 8) (s : State) (d : BitVec 6) (n : BitVec 15) (c : W16) (lv : BitVec 2) (l : LoopLevel) (r : List LoopLevel),
    let x : Ctl := { core := .cell e, gp := 0, gn := false }
    let g := engGet s e
    coreRuns (.cell e) s = true →
    (n ≠ 0 → Gives (.loop x n c) s (fun t =>
      (engGet t e).loops = { first := g.pos + 1, last := g.pos + n.toNat, left := if c = 0 then 65536 else c.toNat, idx := 0 } :: g.loops ∧
      (engGet t e).pos = g.pos + 1)) ∧
    (g.loops = l :: r → g.pos = l.last → 1 < l.left → Gives (.inop x) s (fun t =>
      (engGet t e).pos = l.first ∧ (engGet t e).loops = { l with left := l.left - 1, idx := l.idx + 1 } :: r)) ∧
    (g.loops = l :: r → g.pos = l.last → l.left ≤ 1 → (∀ k ∈ r, g.pos ≠ k.last) → Gives (.inop x) s (fun t =>
      (engGet t e).pos = g.pos + 1 ∧ (engGet t e).loops = r)) ∧
    (∀ k ∈ g.loops[lv.toNat]?, Gives (.lidx x d lv) s (fun t => getG x.core t d = rd d (BitVec.ofNat 64 k.idx))) ∧
    (g.loops[lv.toNat]? = none → Gives (.lidx x d lv) s (fun t => getG x.core t d = 0)) ∧
    Gives (.iend x) s (fun t => (engGet t e).inCyc = false ∧ (engGet t e).cycles = g.cycles + 1 ∧
      ∀ k, taskOf g g.task.toNat = some k → ∃ u, taskOf (engGet t e) g.task.toNat = some u ∧ u.cycles = k.cycles + 1) ∧
    (∀ q, g.stepping = true → g.step = some q → q ∈ (ringGet s q.ring).started → g.reads = [] →
      Gives (.iend x) s (fun t => Answered q stOK s.sched.mfn.toNat t ∧ (engGet t e).step = none))

/-- Branches and the stack (Table 7-4, R226). Special registers, WFI and FENCE (Tables 7-9 and 7-10, R226). RETI
(R229, Table 7-13). -/
def Obligations.SupervisorControlFlow : Prop :=
  (
    ∀ (p : BitVec 4) (gn : Bool) (s : State) (d a : BitVec 6) (v : W32),
      let x : Ctl := { core := .mc1, gp := p, gn := gn }
      let sp := (getG .mc1 s 63).toNat
      let dataOf := fun (t : State) (b : Nat) => tblGet t.mc1.data (b - mc1Data) 0
      let top := BitVec.ofNat 64 (leNat ((List.range 8).map fun k => dataOf s (sp + k)))
      let pushed := fun (t : State) (w : W64) => getG .mc1 t 63 = getG .mc1 s 63 - 8 ∧
        ∀ b, mc1Data ≤ b → dataOf t b = if sp - 8 ≤ b ∧ b < sp then BitVec.ofNat 8 (w.toNat / 2 ^ (8 * (b - (sp - 8)))) else dataOf s b
      let dest := s.mc1.pc + 8 * v.signExtend 64
      Issues x s →
      Gives (.br x v) s (fun t => t.mc1.pc = dest ∧ ∀ j, getG .mc1 t j = getG .mc1 s j) ∧
      Gives (.jr x a) s (fun t => t.mc1.pc = getG .mc1 s a ∧ ∀ j, getG .mc1 t j = getG .mc1 s j) ∧
      (sp % 8 = 0 → mc1Data + 8 ≤ sp → sp ≤ mc1DataEnd → s.mc1.splim.toNat + 8 ≤ sp →
        Gives (.call x v) s (fun t => t.mc1.pc = dest ∧ pushed t (s.mc1.pc + 8)) ∧
        Gives (.callr x a) s (fun t => t.mc1.pc = getG .mc1 s a ∧ pushed t (s.mc1.pc + 8)) ∧
        Gives (.push x a) s (fun t => t.mc1.pc = s.mc1.pc + 8 ∧ pushed t (getG .mc1 s a))) ∧
      (sp % 8 = 0 → mc1Data ≤ sp → sp + 8 ≤ mc1DataEnd →
        Gives (.ret x) s (fun t => t.mc1.pc = top ∧ getG .mc1 t 63 = getG .mc1 s 63 + 8) ∧
        Gives (.pop x d) s (fun t => (d ≠ 63 → getG .mc1 t d = rd d top) ∧ getG .mc1 t 63 = getG .mc1 s 63 + 8)) ∧
      (sp < s.mc1.splim.toNat + 8 → Gives (.call x v) s (FaultTaken vSTACK s) ∧ Gives (.callr x a) s (FaultTaken vSTACK s) ∧
        Gives (.push x a) s (FaultTaken vSTACK s))) ∧
  (
    ∀ (p : BitVec 4) (gn : Bool) (s : State) (d a : BitVec 6),
      let x : Ctl := { core := .mc1, gp := p, gn := gn }
      let A := getG .mc1 s a
      Issues x s →
      (d ≠ 0 → Gives (.mrs x d 0) s (fun t => let v := getG .mc1 t d
        v.getLsbD 36 = s.mc1.ie ∧ v.toNat / 2 ^ 32 % 16 = s.mc1.pmask.toNat ∧ v.toNat / 2 ^ 24 % 32 = s.mc1.cpri.toNat ∧
        v.toNat / 2 ^ 16 % 128 = s.mc1.afl.toNat ∧ ∀ i : BitVec 4, v.getLsbD i.toNat = getP .mc1 s i)) ∧
      Gives (.mrs x d 1) s (fun t => getG .mc1 t d = rd d s.mc1.splim) ∧
      Gives (.mrs x d 2) s (fun t => getG .mc1 t d = rd d s.mc1.vbase) ∧
      Gives (.mrs x d 3) s (fun t => getG .mc1 t d = rd d s.time.tbc) ∧
      Gives (.msr x a 0) s (fun t => t.mc1.ie = A.getLsbD 36 ∧ t.mc1.pmask = BitVec.ofNat 4 (A.toNat / 2 ^ 32) ∧
        t.mc1.cpri = s.mc1.cpri ∧ t.mc1.afl = BitVec.ofNat 7 (A.toNat / 2 ^ 16) ∧
        ∀ i : BitVec 4, i ≠ 0 → getP .mc1 t i = A.getLsbD i.toNat) ∧
      Gives (.msr x a 1) s (fun t => t.mc1.splim = A) ∧
      (A.toNat % 4096 = 0 → mc1Code ≤ A.toNat → A.toNat < mc1Data → Gives (.msr x a 2) s (fun t => t.mc1.vbase = A)) ∧
      Gives (.wfi x) s (fun t => t.mc1.waiting = (preempts s s.mc1.cpri.toNat s.mc1.pmask).isNone ∧ t.mc1.pc = s.mc1.pc + 8) ∧
      Gives (.fence x) s (fun t => elsewhere .mc1 t = elsewhere .mc1 s ∧ t.mc1.pc = s.mc1.pc + 8 ∧
        ∀ i, getG .mc1 t i = getG .mc1 s i)) ∧
  (
    ∀ (p : BitVec 4) (gn : Bool) (s : State) (n : Nat),
      let x : Ctl := { core := .mc1, gp := p, gn := gn }
      let sp := (getG .mc1 s 63).toNat
      let word := fun (a k : Nat) => BitVec.ofNat 64 (leNat (tblRange s.mc1.data (a - mc1Data + 8 * k) 8 0))
      let restored := fun (t : State) (a : Nat) => t.mc1.pc = word a 0 ∧ t.mc1.ie = (word a 1).getLsbD 36 ∧
        t.mc1.pmask = BitVec.ofNat 4 ((word a 1).toNat / 2 ^ 32) ∧ t.mc1.cpri = BitVec.ofNat 5 ((word a 1).toNat / 2 ^ 24) ∧
        t.mc1.afl = BitVec.ofNat 7 ((word a 1).toNat / 2 ^ 16) ∧
        (∀ i : BitVec 4, i ≠ 0 → getP .mc1 t i = (word a 1).getLsbD i.toNat) ∧
        (∀ i : BitVec 6, 1 ≤ i.toNat → i.toNat ≤ 6 → getG .mc1 t i = word a (i.toNat + 1)) ∧
        ∀ i : BitVec 6, 6 < i.toNat → i ≠ 63 → getG .mc1 t i = getG .mc1 s i
      let inFrame := fun (k : W64) => preempts s (BitVec.ofNat 5 (k.toNat / 2 ^ 24)).toNat (BitVec.ofNat 4 (k.toNat / 2 ^ 32))
      Issues x s →
      (s.mc1.cpri = 16 → Gives (.reti x) s (fun t => restored t mc1FSave ∧ getG .mc1 t 63 = getG .mc1 s 63)) ∧
      (s.mc1.cpri ≠ 16 → sp % 8 = 0 → mc1Data ≤ sp → sp + 64 ≤ mc1DataEnd →
        ((word sp 1).getLsbD 36 = false ∨ inFrame (word sp 1) = none →
          Gives (.reti x) s (fun t => restored t sp ∧ getG .mc1 t 63 = getG .mc1 s 63 + 64)) ∧
        ((word sp 1).getLsbD 36 = true → inFrame (word sp 1) = some n → Gives (.reti x) s (fun t =>
          t.mc1.pc = vectorOf s.mc1 n ∧ t.mc1.cpri = BitVec.ofNat 5 (srcGet s n).pri.toNat ∧
          (∀ i, getG .mc1 t i = getG .mc1 s i) ∧ t.mc1.data = s.mc1.data))))

/-- The frame of the instructions whose result is one register. -/
def Obligations.RegisterInstructionsChangeOnlyTheirResult : Prop :=
  ∀ (x : Ctl) (s : State) (w r32 : Bool) (d a b c lo wm1 : BitVec 6) (p : BitVec 4) (v : W32) (u : Src) (rm : RMode),
    Issues x s → lo.toNat + wm1.toNat ≤ 63 →
    let only := fun (o : State) (t : State) => (∀ j, j ≠ d → getG x.core t j = getG x.core s j) ∧
      (∀ q, getP x.core t q = getP x.core s q) ∧ elsewhere x.core t = elsewhere x.core o
    (∀ i ∈ [Instr.rdaf x d, .movi x d v, .movhi x d v, .sel x d a b p, .pmov x d p, .bfxu x d a lo wm1, .bfxs x d a lo wm1,
        .bfi x d a lo wm1, .clz x w d a, .popc x w d a],
      Gives i s (fun t => only s t ∧ getAfl x.core t = getAfl x.core s)) ∧
    (∀ i ∈ [Instr.add x w d a u, .sub x w d a u, .adds x w d a u, .subs x w d a u, .mul x w d a u, .muls x w d a u,
        .mulhs x w d a b, .mulhu x w d a b, .min x w d a u, .max x w d a u, .minu x w d a u, .maxu x w d a u,
        .and x w d a u, .or x w d a u, .xor x w d a u, .andn x w d a u, .shl x w d a u, .shr x w d a u, .sar x w d a u,
        .rol x w d a u, .abss x w d a],
      Gives i s (only s)) ∧
    (∀ i ∈ [Instr.fadd x w d a b, .fsub x w d a b, .fmul x w d a b, .fdiv x w d a b, .fsqrt x w d a, .fma x w d a b c,
        .fms x w d a b c, .fmin x w d a b, .fmax x w d a b, .fminn x w d a b, .fmaxn x w d a b, .fabs x w d a,
        .fneg x w d a, .fcvt x w d a, .icvtf x w d a, .ucvtf x w d a, .fcvti x w d a rm r32, .fcvtu x w d a rm r32,
        .frnd x w d a rm],
      Gives i s (only s)) ∧
    (∀ i ∈ [Instr.divs x w d a u, .divu x w d a u, .rems x w d a u, .remu x w d a u],
      Gives i s (only (if x.core ≠ .mc1 ∧ uval w (srcVal x.core s u) = 0 then count bCELL 7 s else s)))

/-- The frames of the instructions that store. -/
def Obligations.StoresChangeOnlyTheStoredBytes : Prop :=
  ∀ (x : Ctl) (s : State) (d a q : BitVec 6) (sz : BitVec 2) (v : W32) (pt : BitVec 17) (pi pq : BitVec 4) (ni : Bool)
    (num : BitVec 12), Issues x s →
    let regs := fun (t : State) => (∀ j, getG x.core t j = getG x.core s j) ∧ (∀ k, getP x.core t k = getP x.core s k) ∧
      getAfl x.core t = getAfl x.core s
    let mems := fun (t : State) => t.dram = s.dram ∧ t.mram = s.mram ∧ t.mc1.code = s.mc1.code ∧
      (∀ e : Fin 8, x.core ≠ .cell e → engGet t e = engGet s e)
    let rest := fun (t : State) => mems t ∧ t.pimg = s.pimg ∧ t.out = s.out ∧ t.hif = s.hif ∧ t.sec = s.sec
    (∀ e, x.core = .cell e → Gives (.st x d a sz v) s (fun t => regs t ∧ rest t ∧ t.mc1 = s.mc1)) ∧
    (∀ i ∈ [Instr.pst x d a pt, .pstq x d a q pt], (ptIndex x.core s a pt < 131072 → inWindow s (coreMaster x.core) (viewOut (ptIndex x.core s a pt)) 16 true = true) →
      Gives i s (fun t => regs t ∧ mems t ∧ t.mc1.data = s.mc1.data ∧ t.pimg.frozen = s.pimg.frozen ∧
        t.pimg.staging = s.pimg.staging ∧ ∀ e : Fin 8, (engGet t e).data = (engGet s e).data)) ∧
    (∀ e, x.core = .cell e → ∀ i ∈ [Instr.tmr x d a pi ni pq num, .edge x pi ni pq num],
      Gives i s (fun t => rest t ∧ t.mc1 = s.mc1 ∧ (engGet t e).data = (engGet s e).data ∧
        (∀ j, j ≠ d → getG x.core t j = getG x.core s j) ∧ (∀ k, k ≠ pq → getP x.core t k = getP x.core s k))) ∧
    (x.core = .mc1 → let at_ := (getG .mc1 s a + v.signExtend 64).toNat
      at_ % 2 ^ sz.toNat = 0 → mc1Data ≤ at_ → at_ < mc1DataEnd → Gives (.st x d a sz v) s (fun t => regs t ∧ rest t))

/-! ### Registers (00_scope.md, 01_architecture.md) -/

/-- The access type RC, on the error counters (Tables 0-6, 1-13). Snapshots and staging (R13). -/
def Obligations.CountersAndWideValues : Prop :=
  (
    ∀ (m : RegMaster) (b : Fin 21) (n : Fin 32) (s : State), (Reachable m s ∨ b.val = bSYS ∨ b.val = bPWR) →
      Gives (.cntRead m b n) s (fun t =>
        t.out = .regRead m (65536 * b.val + 0x40 + 4 * n.val) (cntOf s b n) :: s.out ∧
        (∀ c k, cntOf t c k = if c = b.val ∧ k = n.val then 0 else cntOf s c k) ∧
        (∀ c, (blkGet t c).en = (blkGet s c).en ∧ (blkGet t c).cntSat = (blkGet s c).cntSat) ∧
        { t with blk := s.blk, out := s.out } = s)) ∧
  (
    (∀ (m : RegMaster) (a : BitVec 24) (e : RegE) (s : State), 1 < e.words → a.toNat % 65536 = e.off → a.toNat ≠ 0x100190 →
      regOf s m a.toNat = some e →
      Gives (.wideRead m a) s (fun t => t.out = .regRead m a.toNat (BitVec.ofNat 32 e.val) :: s.out ∧
        (∀ i, i < e.words → (tblGet (wideGet t.snaps m a.toNat) i 0).toNat = e.val / 2 ^ (32 * i) % 2 ^ 32) ∧
        (∀ m' a', ¬(m' = m ∧ a' = a.toNat) → wideGet t.snaps m' a' = wideGet s.snaps m' a') ∧
        { t with snaps := s.snaps, out := s.out } = s)) ∧
    (∀ (m : RegMaster) (a : BitVec 24) (e : RegE) (i : Nat) (s : State), 1 ≤ i → i < e.words → a.toNat % 65536 = e.off + 4 * i →
      regOf s m a.toNat = some e →
      Gives (.wideRead m a) s (fun t =>
        t.out = .regRead m a.toNat (tblGet (wideGet s.snaps m (a.toNat - 4 * i)) i 0) :: s.out ∧ { t with out := s.out } = s)) ∧
    ∀ (m : RegMaster) (n : Fin 32) (lo hi : W32) (s : State), 2 ≤ n.val → Reachable m s →
      let a := BitVec.ofNat 24 (0xD0408 + 0x20 * n.val)
      let next := fun (t : State) => (trigGet t n).next
      let st := wideGet s.staged m a.toNat
      Gives (.registerWrite m a 4 (lo.zeroExtend 64)) s (fun t => { t with staged := s.staged } = s ∧
        Gives (.registerWrite m (a + 4) 4 (hi.zeroExtend 64)) t (fun u => next u = hi ++ lo)) ∧
      (st = [] → Gives (.registerWrite m (a + 4) 4 (hi.zeroExtend 64)) s (fun t =>
        next t = hi ++ ((next s).truncate 32 : W32) ∧ ∀ k, k ≠ n.val → trigGet t k = trigGet s k)) ∧
      Gives (.registerWrite m a 8 (hi ++ lo)) s (fun t => next t = hi ++ lo ∧ (trigGet t n).period = (trigGet s n).period))

/-- Accesses without effect (R9), counted in HIF.CNT[0] (R371). -/
def Obligations.AccessesWithoutARegister : Prop :=
  ∀ (m : RegMaster) (a : BitVec 24) (size : Nat) (v : W64) (s : State),
    (a.toNat % 4 ≠ 0 ∨ 0x150000 ≤ a.toNat → regOf s m a.toNat = none) ∧
    ((size ≠ 4 ∧ ¬(size = 8 ∧ a.toNat % 8 = 0)) ∨ (size = 4 ∧ regOf s m a.toNat = none) →
      Gives (.readWithoutEffect m a size) s (fun t => { t with out := s.out } = count bHIF 0 s ∧
        Out.regRead m a.toNat 0 ∈ t.out ∧ (∀ o ∈ t.out, o ∈ s.out ∨ ∃ k, o = .regRead m k 0) ∧ Counted bHIF 0 s t) ∧
      Gives (.registerWrite m a size v) s (fun t => t = count bHIF 0 s ∧ Counted bHIF 0 s t))

/-- CTRL.EN (R33, R35). The ring registers (R374, R382, Table 13-13). -/
def Obligations.EnablesAndRings : Prop :=
  (
    ∀ (m : RegMaster) (b : Fin 21) (v : W32) (s : State), (Reachable m s ∨ b.val = bSYS ∨ b.val = bPWR) →
      let own := b.val = bSCHED ∨ b.val = bPWR ∨ b.val = bSEC
      let sticks := b.val = bSCHED ∨ b.val = bSEC
      Gives (.enWrite m b v) s (fun t =>
        enOf t b = (if (own ∧ m ≠ .mc0) ∨ (sticks ∧ v.getLsbD 0 = false) then enOf s b else v.getLsbD 0) ∧
        (∀ c, c ≠ b.val → enOf t c = enOf s c) ∧ (∀ c k, cntOf t c k = cntOf s c k) ∧
        (b.val ≠ bSOLV → b.val ≠ bPARC → b.val ≠ bMETR → b.val ≠ bRTC → { t with blk := s.blk } = s))) ∧
  (
    ∀ (m : RegMaster) (v : W64) (r : Fin 64) (w : W32) (s : State), Reachable m s → blkOff s bHIF = false →
      let cfg := BitVec.ofNat 24 (0x10210 + 0x20 * r.val)
      let log := fun (old : BitVec 5) (k : Nat) => if 2 ≤ k ∧ k ≤ 16 then BitVec.ofNat 5 k else old
      Gives (.ringen m v) s (fun t => t.hif.ringEn = v ∧
        (∀ k, k < 64 → v.getLsbD k = true → ringOn s k = false →
          (ringGet t k).sqHead = 0 ∧ (ringGet t k).cqTail = 0 ∧ (ringGet t k).phase = true ∧
          (ringGet t k).started = (ringGet s k).started ∧ (ringGet t k).sqBase = (ringGet s k).sqBase) ∧
        (∀ k, v.getLsbD k = false ∨ ringOn s k = true → ringGet t k = ringGet s k) ∧
        { t with hif := s.hif, staged := s.staged } = s) ∧
      (ringOn s r = true → Gives (.registerWrite m cfg 4 (w.zeroExtend 64)) s (fun t => t = count bHIF 6 s) ∧
        ∀ a ∈ [BitVec.ofNat 24 (0x10200 + 0x20 * r.val), BitVec.ofNat 24 (0x10208 + 0x20 * r.val)],
          Gives (.registerWrite m a 8 v) s (fun t => { t with staged := s.staged } = count bHIF 6 s)) ∧
      (ringOn s r = false → Gives (.registerWrite m cfg 4 (w.zeroExtend 64)) s (fun t =>
        ringGet t r = { ringGet s r with
          classMask := BitVec.ofNat 12 (w.toNat / 2 ^ 16), cqLog := log (ringGet s r).cqLog (w.toNat / 2 ^ 8 % 32),
          sqLog := log (ringGet s r).sqLog (w.toNat % 32) } ∧
        ∀ k, k ≠ r.val → ringGet t k = ringGet s k)))

/-! ### Time base and real-time clock (12_time_and_calendar.md) -/

/-- TIME.RATE (R351). -/
def Obligations.RateChangesSlopeWithoutAJump : Prop :=
  (∀ (v : W64) (s : State), -140737488355 ≤ v.toInt → v.toInt ≤ 140737488355 →
    Gives (.rate .mc0 v) s (fun t => { t.time with past := s.time.past } = { s.time with offset := nowT s, anchor := s.time.tbc, rate := v } ∧
      (∀ c : W64, c.toNat < s.time.tbc.toNat → s.time.tbc.toNat ≤ c.toNat + 65536 → ∀ f, stampOf t c f = stampOf s c f ∧ stepsAt t c = stepsAt s c) ∧
      nowT t = nowT s ∧ (∀ k : Nat, timeAt t.time (s.time.tbc.toNat + k) =
        nowT s + BitVec.ofInt 128 ((k : Int) * (2 ^ 48 + v.toInt) / 2 ^ 32)) ∧
      { t with time := s.time, staged := s.staged } = s)) ∧
  (∀ (v : W64) (s : State), ¬(-140737488355 ≤ v.toInt ∧ v.toInt ≤ 140737488355) →
    Gives (.rate .mc0 v) s (fun t => { t with staged := s.staged } = count bTIME 0 s)) ∧
  ∀ (m : RegMaster) (v : W64) (w : W128) (s : State), m ≠ .mc0 → Reachable m s →
    Gives (.rate m v) s (fun t => { t with staged := s.staged } = s) ∧
    Gives (.step m w) s (fun t => { t with staged := s.staged } = s)

/-- TIME.STEP (R352) and TIME_REARM (R369). TIME_READ (R369). -/
def Obligations.NetworkTimeIsReadAndStepped : Prop :=
  (
    (∀ (v : W128) (s : State), s.time.armed = true → Gives (.step .mc0 v) s (fun t =>
      nowT t = nowT s + v ∧ { t.time with past := s.time.past } =
        { s.time with offset := s.time.offset + v, armed := false, steps := s.time.steps + 1, lock := false } ∧
      (∀ c : W64, c.toNat < s.time.tbc.toNat → s.time.tbc.toNat ≤ c.toNat + 65536 → ∀ f, stampOf t c f = stampOf s c f ∧ stepsAt t c = stepsAt s c) ∧
      { t with time := s.time, staged := s.staged } = s)) ∧
    (∀ (v : W128) (s : State), s.time.armed = false →
      Gives (.step .mc0 v) s (fun t => { t with staged := s.staged } = count bTIME 1 s)) ∧
    ∀ (d : HostDesc) (s : State), Reaches 0x61 d s → Gives (.timeRearm d) s (fun t =>
      Answered d stOK 0 t ∧ t.time = { s.time with armed := true } ∧ InLantern 0x0D80 s t ∧ InAudit 5 s t)) ∧
  (
    ∀ (d : HostDesc) (s : State), Reaches 0x60 d s →
      let T := (nowT s).toNat
      let ns := T / 2 ^ 16
      let now := T % 2 ^ 16 + (ns % 10 ^ 9) * 2 ^ 32 + (ns / 10 ^ 9 % 2 ^ 64) * 2 ^ 64
      Gives (.timeRead d) s (fun t => Answered d stOK 64 t ∧ t.time = s.time ∧ t.out.length ≤ s.out.length + 1 ∧
        Delivered (dAddr d) (leBytes 16 now ++ leBytes 8 s.time.tbc.toNat ++ leBytes 16 s.time.offset.toNat ++
          leBytes 8 s.time.anchor.toNat ++ leBytes 8 s.time.rate.toNat ++ leBytes 4 (blkStatus s bTIME).toNat ++
          leBytes 4 s.time.gridErr.toNat) s t))

/-- Triggers (R358, R359). -/
def Obligations.TriggersFireAndCapture : Prop :=
  (∀ (n : Fin 32) (s : State), let g := trigGet s n
    let now := nowNs s
    let others := fun (t : State) => ∀ k, k ≠ n.val → trigGet t k = trigGet s k
    (enOf s bTIME = true ∨ n.val < 2) → (now - g.next).toNat < 2 ^ 63 →
    (g.mode = 1 → Gives (.triggerFire n) s (fun t =>
      (trigGet t n).mode = 0 ∧ (trigGet t n).fired = true ∧ (trigGet t n).next = g.next ∧ others t)) ∧
    (g.mode = 2 → 2 ^ 63 ≤ (now - (g.next + g.period)).toNat → Gives (.triggerFire n) s (fun t =>
      (trigGet t n).mode = 2 ∧ (trigGet t n).fired = true ∧ (trigGet t n).next = g.next + g.period ∧
      (trigGet t n).missed = g.missed ∧ others t)) ∧
    (g.mode = 2 → (now - (g.next + g.period)).toNat < 2 ^ 63 → 1 ≤ g.period.toNat → g.period.toNat < 2 ^ 62 →
      Gives (.triggerFire n) s (fun t => (trigGet t n).fired = true ∧ (trigGet t n).missed = true ∧ others t ∧
        cntOf t bTIME 2 = satInc (cntOf s bTIME 2) ∧ ∃ k : Nat, 1 ≤ k ∧
          (trigGet t n).next = g.next + BitVec.ofNat 64 (k * g.period.toNat) ∧
          2 ^ 63 ≤ (now - (trigGet t n).next).toNat ∧ ((trigGet t n).next - now).toNat ≤ g.period.toNat))) ∧
  ∀ (n : Fin 32) (rising : Bool) (s : State), let g := trigGet s n
    g.mode = 3 → g.edge.getLsbD (if rising then 0 else 1) = true → 2 ≤ s.time.tbc.toNat →
    Gives (.triggerCapture n rising) s (fun t => trigGet t n = { g with
        cap := BitVec.ofNat 64 ((timeAt (timeIn s.time (s.time.tbc - 2)) (s.time.tbc.toNat - 2)).toNat / 2 ^ 16), fired := true, missed := g.missed || g.fired } ∧
      ∀ k, k ≠ n.val → trigGet t k = trigGet s k)

/-- RTC edges and seconds (R360 to R368), and the operating time (R449). RTC snapshots and commits (R363, R365, R369). -/
def Obligations.TheCalendarAdvancesAndIsCommitted : Prop :=
  (
    (∀ s : State, Gives .rtcEdge s (fun t => t.rtc.draining = false ∧ t.rtc.cal = s.rtc.cal ∧
      (enOf s bRTC = false → t.rtc.rcnt = s.rtc.rcnt) ∧
      (enOf s bRTC = true → s.rtc.bin = true → t.rtc.rcnt = s.rtc.rcnt + 1) ∧
      (enOf s bRTC = true → s.rtc.bin = false → s.rtc.rcnt.toNat < 2 ^ 48 →
        t.rtc.rcnt.toNat = if s.rtc.rcnt.toNat = 2 ^ 48 - 1 then 0 else s.rtc.rcnt.toNat + 1))) ∧
    (∀ (s : State), let c := s.rtc.cal
      let dim : Nat := if c.mon = 4 ∨ c.mon = 6 ∨ c.mon = 9 ∨ c.mon = 11 then 30
        else if c.mon = 2 then (if (c.year.toNat % 4 = 0 ∧ c.year.toNat % 100 ≠ 0) ∨ c.year.toNat % 400 = 0 then 29 else 28) else 31
      let noon : Cal := { c with sec := 0, min := 0, hour := 0, wday := BitVec.ofNat 3 ((c.wday.toNat + 1) % 7) }
      let r : Cal × Bool :=
        if c.sec.toNat < 59 then ({ c with sec := c.sec + 1 }, false)
        else if c.min.toNat < 59 then ({ c with sec := 0, min := c.min + 1 }, false)
        else if c.hour.toNat < 23 then ({ c with sec := 0, min := 0, hour := c.hour + 1 }, false)
        else if c.day.toNat < dim then ({ noon with day := c.day + 1 }, false)
        else if c.mon ≠ 0 ∧ c.mon.toNat < 12 then ({ noon with day := 1, mon := c.mon + 1 }, false)
        else ({ noon with day := 1, mon := 1, year := if c.year.toNat < 9999 then c.year + 1 else 0 }, decide (9999 ≤ c.year.toNat))
      s.rtc.calEn = true → enOf s bRTC = true → s.rtc.commitEdge = false → Gives .rtcSecond s (fun t =>
        t.rtc.cal = r.1 ∧ t.rtc.calWrap = (s.rtc.calWrap || r.2) ∧ t.rtc.rcnt = s.rtc.rcnt)) ∧
    (∀ s : State, s.rtc.almEn = true → s.rtc.rcnt.toNat % 2 ^ 48 = s.rtc.alarm.toNat →
      Gives .rtcAlarm s (fun t => t.rtc = { s.rtc with almf := true } ∧ levelCond t 204 = true)) ∧
    (∀ s : State, Gives .oscillatorStop s (fun t => t.rtc = { s.rtc with osf := true } ∧ Counted bRTC 0 s t)) ∧
    ∀ s : State, let h := s.recs.opt.toNat % 2 ^ 24
      let x := s.recs.opt.toNat / 2 ^ 24
      x ≤ 3599 → Gives .operatingTimeSecond s (fun t =>
        (x < 3599 → t.recs.opt.toNat = (x + 1) * 2 ^ 24 + h) ∧ (x = 3599 → h < 2 ^ 24 - 1 → t.recs.opt.toNat = h + 1))) ∧
  (
    (∀ (m : RegMaster) (s : State), Reachable m s → Gives (.snap m) s (fun t => t.rtc = { s.rtc with snapPend := true }) ∧
      Gives (.commitRequest m) s (fun t => t.rtc = { s.rtc with commitPend := true })) ∧
    (∀ s : State, s.rtc.snapPend = true → let r := s.rtc
      let cnt : W64 := if r.bin then r.rcnt.zeroExtend 64 else BitVec.ofNat 64 (r.rcnt.toNat % 2 ^ 48)
      Gives .snapTaken s (fun t => t.rtc.snapCnt = cnt ∧ t.rtc.snapCal = r.cal ∧ t.rtc.snapPend = false ∧
        t.rtc.snapDone = true ∧ t.rtc.reads = [] ∧ t.rtc.rcnt = r.rcnt ∧
        ∀ d, r.reads = [d] → d ∈ (ringGet s d.ring).started → Answered d stOK 0 t)) ∧
    (∀ s : State, s.rtc.commitPend = true → let r := s.rtc
      Gives .commitApplied s (fun t =>
        t.rtc.rcnt.toNat % 2 ^ 15 = 0 ∧ t.rtc.rcnt.toNat / 2 ^ 15 =
          (if r.stgFlags.getLsbD 0 then (if r.bin then r.stgCnt.toNat % 2 ^ 40 else r.stgCnt.toNat / 2 ^ 15 % 2 ^ 33)
           else r.rcnt.toNat / 2 ^ 15) ∧
        t.rtc.cal = (if r.stgFlags.getLsbD 1 then r.stgCal else r.cal) ∧ t.rtc.bin = r.stgFlags.getLsbD 2 ∧
        t.rtc.calEn = r.stgFlags.getLsbD 3 ∧ t.rtc.commitPend = false ∧
        ∀ d, r.writes = [d] → d ∈ (ringGet s d.ring).started → Answered d stOK 0 t)) ∧
    ∀ (d : HostDesc) (s : State),
      (Reaches 0x62 d s → Gives (.rtcRead d) s (fun t => t.rtc = { s.rtc with snapPend := true, reads := s.rtc.reads ++ [d] })) ∧
      (Reaches 0x63 d s → d8 d 16 < 16 → s.rtc.commitPend = false → Gives (.rtcWrite d) s (fun t => t.rtc.commitPend = true ∧
        t.rtc.stgCnt = BitVec.ofNat 64 (d64 d 32) ∧ t.rtc.stgFlags.toNat = d8 d 16 ∧ t.rtc.writes = s.rtc.writes ++ [d] ∧
        t.rtc.rcnt = s.rtc.rcnt ∧ t.rtc.cal = s.rtc.cal)) ∧
      (Reaches 0x63 d s → d8 d 16 < 16 → s.rtc.commitPend = true →
        Gives (.rtcWrite d) s (fun t => Answered d stBUSY 0 t ∧ t.rtc = s.rtc ∧ Counted bRTC 2 s t)))

/-! ### Host interface and interrupts (13_host_interface.md) -/

/-- SWSET, CPL0, CPL1, the hold-off and the wake watch (R387, R388, R392, R393). INTERRUPT_ENTRY (R389, R228, Table
7-12). -/
def Obligations.InterruptSourcesAndEntries : Prop :=
  (
    ∀ (m : RegMaster) (v : W32) (s : State), Reachable m s →
      let n := v.toNat % 512
      let ended := fun (t : State) => srcGet t n = { srcGet s n with insvc := false } ∧ (∀ k, k ≠ n → srcGet t k = srcGet s k) ∧
        (isLevel n = true → pendOf t n = levelCond s n) ∧ { t with irq := s.irq } = s
      (((64 ≤ n ∧ n ≤ 95) ∨ (32 ≤ n ∧ n ≤ 63 ∧ m = .mc0)) → Gives (.swset m v) s (fun t =>
        srcGet t n = { srcGet s n with pend := true } ∧ (∀ k, k ≠ n → srcGet t k = srcGet s k) ∧ { t with irq := s.irq } = s)) ∧
      (¬((64 ≤ n ∧ n ≤ 95) ∨ (32 ≤ n ∧ n ≤ 63 ∧ m = .mc0)) → Gives (.swset m v) s (fun t => t = s)) ∧
      (∀ c ∈ [(RegMaster.mc0, 0, Instr.cpl0), (RegMaster.mc1, 1, Instr.cpl1)],
        ((srcGet s n).insvc = true → (srcGet s n).svcTarget.toNat = c.2.1 → Gives (c.2.2 c.1 v) s ended) ∧
        (¬((srcGet s n).insvc = true ∧ (srcGet s n).svcTarget.toNat = c.2.1) →
          Gives (c.2.2 c.1 v) s (fun t => t = count bIRQ 2 s)) ∧
        (m ≠ c.1 → Gives (c.2.2 m v) s (fun t => t = s))) ∧
      (∀ g : Fin 16, holdRuns s g = true → Gives (.holdoffExpiry g) s (fun t => t = s)) ∧
      (∀ g : Fin 16, holdRuns s g = false → Gives (.holdoffExpiry g) s (fun t => (grpGetI t g).run = false ∧ (grpGetI t g).hold = (grpGetI s g).hold ∧
        (∀ k, k ≠ g.val → grpGetI t k = grpGetI s k) ∧ { t with irq := s.irq } = s)) ∧
      ∀ w : Fin 32, s.pwr.asleep = true → (tblGet s.irq.wake w.val {}).en = true →
        let able := wakeAble s (tblGet s.irq.wake w.val {}).src.toNat
        (able = false → Gives (.wakeWatch w) s (fun t => t = s)) ∧
        (able = true → Gives (.wakeWatch w) s (fun t =>
        (∀ k, k < 32 → t.irq.wakeSt.getLsbD k = (s.irq.wakeSt.getLsbD k || decide (k = w.val))) ∧
        t.irq.wake = s.irq.wake ∧ t.out = .wakeN false :: s.out ∧ { t with irq := s.irq, out := s.out } = s))) ∧
  (
    ∀ (n : Nat) (s : State),
      let v := srcGet s n
      let g := grpGetI s v.group.toNat
      let delivered := fun (core : BitVec 2) (t : State) => (srcGet t n).pend = false ∧ (srcGet t n).insvc = isLevel n ∧
        (isLevel n = true → (srcGet t n).svcTarget = core ∧ pendOf t n = false) ∧ (∀ k, k ≠ n → srcGet t k = srcGet s k) ∧
        (0 < g.hold.toNat → (grpGetI t v.group.toNat).run = true ∧
          (grpGetI t v.group.toNat).ends = s.time.tbc + BitVec.ofNat 64 (g.hold.toNat * 1000)) ∧
        ∀ k, k ≠ v.group.toNat ∨ g.hold = 0 → grpGetI t k = grpGetI s k
      let sp := getG .mc1 s 63
      (Presented s 0 n → Gives (.interruptEntry .mc0) s (fun t => delivered 0 t ∧ { t with irq := s.irq } = s)) ∧
      (frozenM s 1 = false → s.mc1.entry = none → s.mc1.ie = true → s.mc1.fresh = false → Presented s 1 n → s.mc1.cpri.toNat < v.pri.toNat →
        s.mc1.pmask.toNat < v.pri.toNat → sp.toNat % 8 = 0 → mc1Data + 64 ≤ sp.toNat → sp.toNat ≤ mc1DataEnd →
        s.mc1.splim.toNat + 64 ≤ sp.toNat → Gives (.interruptEntry .mc1) s (fun t => delivered 1 t ∧
          getG .mc1 t 63 = sp - 64 ∧ mdRead t.mc1 (sp.toNat - 64) 64 = frameOf s.mc1 ∧
          (∀ a, a + 64 < sp.toNat ∨ sp.toNat ≤ a → mdRead t.mc1 a 1 = mdRead s.mc1 a 1 ∨ a < mc1Data) ∧
          t.mc1.pc = vectorOf s.mc1 n ∧ t.mc1.cpri.toNat = v.pri.toNat ∧ t.mc1.waiting = false ∧
          (∀ i, i ≠ 63 → getG .mc1 t i = getG .mc1 s i) ∧ { t with irq := s.irq, mc1 := s.mc1 } = s)) ∧
      ∀ e : IrqEntry, s.mc1.entry = some e → e.sel = none →
        (∀ k, Presentable s 1 k → (srcGet s k).pri.toNat ≤ s.mc1.cpri.toNat ∨ (srcGet s k).pri.toNat ≤ s.mc1.pmask.toNat) →
        Gives (.interruptEntry .mc1) s (fun t => t.mc1.entry = none ∧ getG .mc1 t 63 = e.sp ∧ t.mc1.pc = s.mc1.pc ∧
          t.mc1.cpri = s.mc1.cpri ∧ t.irq = s.irq ∧ Counted bIRQ 1 s t))

/-- HOST_SLOT_START, BOOT_HOST_SLOT, the doorbell records, CONFIGURATION_WRITE and HIF_RESET (Tables 13-2, 13-5). -/
def Obligations.HostSlotsReadTheDoorbells : Prop :=
  (∀ (row : Instr) (s : State),
    (row = .hostSlotStart ∧ inSlotOf s 17 = true ∧ frozenM s 17 = false) ∨
      (row = .bootHostSlot ∧ s.sched.run = false ∧ 3 ≤ s.sys.stage.toNat ∧ s.sys.stage ≠ 0xF) → NoHostWork s →
    (s.hif.bme = true → s.hif.d3 = false → enOf s bHIF = true → (∀ r, r < 64 → (ringGet s r).queue = []) → Gives row s (fun t =>
        t.out = (((List.range 64).map fun i => (s.hif.firstRing + 1 + i) % 64).filterMap fun r =>
          if s.hif.ringEn.getLsbD r then some (Out.hostRead (s.hif.dbAddr + BitVec.ofNat 64 (64 * r)) 64) else none).reverse ++ s.out ∧
        slotOpen t = true ∧ t.hif.slotMfn = (if row = .hostSlotStart then s.sched.mfn else 0) ∧ t.hif.fetched = 0 ∧
        (∀ r, r < 64 → ringGet t r = { ringGet s r with slotN := 0 }) ∧ (∀ c ∈ t.hif.waiting, c.hold = false) ∧
        { t with hif := s.hif, out := s.out } = slotReached bHIF s)) ∧
    (s.hif.bme = false ∨ s.hif.d3 = true → Gives row s (fun t => t.hif.inSlot = true ∧ slotOpen t = false ∧
      t.hif.waiting = (s.hif.waiting.map fun c => { c with hold := false }) ∧ { t with hif := s.hif } = slotReached bHIF s))) ∧
  (∀ (r : Fin 64) (b : Bytes) (s : State), slotOpen s = true → frozenM s 17 = false → runsEn s bHIF = true → ringOn s r = true →
    let g := ringGet s r
    let sqt := u32 b 0
    let cqh := u32 b 4
    let q := 2 ^ g.sqLog.toNat
    let c := 2 ^ g.cqLog.toNat
    let freed := (cqh + c - g.cqh.toNat) % c
    let k := min ((sqt + 2 * q - g.sqHead.toNat - g.fetching) % q) (min (32 - g.slotN) (128 - s.hif.fetched))
    (sqt < q → cqh < c → freed ≤ g.unread → Gives (.hostReadCompletion (.doorbell r b)) s (fun t =>
      ringGet t r = { g with
        sqt := BitVec.ofNat 32 sqt, cqh := BitVec.ofNat 32 cqh, vack := BitVec.ofNat 32 (u32 b 8), unread := g.unread - freed,
        lastIgnored := false, fetching := g.fetching + k, slotN := g.slotN + k } ∧
      (∀ i, i ≠ r.val → ringGet t i = ringGet s i) ∧ t.hif.fetched = s.hif.fetched + k ∧ t.blk = s.blk ∧
      (k = 0 → t.out = s.out) ∧
      (0 < k → (g.sqHead.toNat + g.fetching) % q + k ≤ q → t.out =
        .hostRead (g.sqBase + BitVec.ofNat 64 (64 * ((g.sqHead.toNat + g.fetching) % q))) (64 * k) :: s.out))) ∧
    (q ≤ sqt ∨ c ≤ cqh ∨ g.unread < freed → Gives (.hostReadCompletion (.doorbell r b)) s (fun t =>
      ringGet t r = { g with ringErr := true, lastIgnored := true } ∧ (∀ i, i ≠ r.val → ringGet t i = ringGet s i) ∧
      Counted bHIF 1 s t ∧ t.out = s.out))) ∧
  (∀ (bme d3 fm : Bool) (s : State), Gives (.configurationWrite bme d3 fm) s (fun t => t.hif.bme = bme ∧ t.hif.d3 = d3 ∧
    t.hif.fnMask = fm ∧ t.hif.link = true ∧ (s.hif.link = true → t.hif.width = s.hif.width ∧ t.hif.speed = s.hif.speed) ∧
    t.hif.rings = s.hif.rings ∧ { t with hif := s.hif, free := s.free } = s)) ∧
  ∀ s : State, Gives .hifReset s (fun t => t.hif.ringEn = 0 ∧ (∀ r, ringGet t r = {}) ∧ t.hif.waiting = [] ∧ t.hif.bme = false ∧
    t.hif.link = false ∧ t.hif.msix = [] ∧ t.hif.pba = 0 ∧ t.hif.dbAddr = s.hif.dbAddr ∧ t.hif.stAddr = s.hif.stAddr ∧
    { t with hif := s.hif } = s)

/-- HOST_READ_COMPLETION and HOST_READ_FAILURE (R380, R384). -/
def Obligations.HostDataReachesItsDescriptor : Prop :=
  ∀ s : State,
    (slotOpen s = true → frozenM s 17 = false → runsEn s bHIF = true →
      (∀ (r : Fin 64) (d : HostDesc), let g := ringGet s r
        let e := fetched r g.sqHead.toNat d
        ringOn s r = true → g.fetching = 1 → (∀ k, k < 64 → (ringGet s k).queue = []) → g.started = [] → 0 < credits s r →
        startedAll s < 256 → g.sqHead.toNat < 2 ^ g.sqLog.toNat → g.sqLog.toNat ≤ 16 → g.classMask.getLsbD 0 = true → dOp e = 0 → reservedOk e = true →
        Gives (.hostReadCompletion (.descriptors r [d])) s (fun t => Answered e stOK s.hif.slotMfn.toNat t ∧
          (ringGet t r).sqHead.toNat = (g.sqHead.toNat + 1) % 2 ^ g.sqLog.toNat ∧ (ringGet t r).fetching = 0 ∧
          (ringGet t r).started = [] ∧ (ringGet t r).queue = [] ∧ t.blk = s.blk)) ∧
      (∀ (d : HostDesc) (b : Bytes), let e : HostDesc := { d with buf := b }
        s.hif.reads = [(d, true)] → d ∈ (ringGet s d.ring).started → (∀ k, k < 64 → (ringGet s k).queue = []) →
        dOp d = 0x01 → d8 d 16 = 0 → d32 d 20 = b.length → 64 ≤ b.length → b.length ≤ 16777216 → b.length % 64 = 0 →
        d64 d 24 % 64 = 0 → d64 d 24 + b.length ≤ 2 ^ 28 → s.sched.switchPend = false → s.sched.checking = none →
        Gives (.hostReadCompletion (.buffer { e with readFail := false })) s (fun t => Answered d stOK 0 t ∧
          slice t.sched.shadow (d64 d 24) b.length = b ∧ t.hif.reads = [] ∧
          (∀ a, a < d64 d 24 ∨ d64 d 24 + b.length ≤ a → byteAt t.sched.shadow a = byteAt s.sched.shadow a)))) ∧
    (∀ w : HostRead, s.hif.inSlot = false ∨ s.hif.closed = true ∨ frozenM s 17 = true →
      Gives (.hostReadCompletion w) s (fun t => t.hif.late = s.hif.late ++ [w] ∧ { t with hif := s.hif } = s)) ∧
    (∀ r : Fin 64, Gives (.hostReadFailure (.doorbell r)) s (fun t => t = count bHIF 5 s ∧ Counted bHIF 5 s t)) ∧
    (∀ r : Fin 64, Gives (.hostReadFailure (.descriptors r)) s (fun t => ringGet t r = { ringGet s r with fetching := 0 } ∧
      Counted bHIF 5 s t ∧ t.hif.waiting = s.hif.waiting)) ∧
    ∀ d : HostDesc, s.hif.reads = [(d, true)] → d ∈ (ringGet s d.ring).started →
      Gives (.hostReadFailure (.buffer d)) s (fun t => Answered d stDROPPED 0 t ∧ t.hif.reads = [] ∧ Counted bHIF 5 s t ∧
        { t with hif := s.hif, blk := s.blk } = s)

/-- CLOSE_POINT (Table 13-5). -/
def Obligations.ClosePointsWriteInOrder : Prop :=
  ∀ s : State, frozenM s 17 = false →
    (s.hif.inSlot = false ∨ s.hif.closed = true → Gives .closePoint s (fun t => t = s)) ∧
    (s.hif.inSlot = true → s.hif.closed = false → NoDeltas s →
    let q := s.hif.seq + 1
    let at_ := fun (o : Nat) => s.hif.stAddr + BitVec.ofNat 64 o
    let page := fun (o : List Out) (older : List Out) => ∃ recs body : Bytes, recs.length = 2048 ∧ body.length = 2032 ∧
      o = .hostWrite (at_ 0xFF8) (leBytes 8 q.toNat) ::
        .hostWrite (at_ 0x808) (leBytes 8 s.hif.slotMfn.toNat ++ leBytes 8 (if s.sched.run then s.sched.kmf.toNat else 0) ++ body.drop 16) ::
        .hostWrite (at_ 0) recs :: .hostWrite (at_ 0x800) (leBytes 8 q.toNat) :: older
    (s.hif.bme = false ∨ s.hif.d3 = true → Gives .closePoint s (fun t => t = { s with hif := { s.hif with closed := true } })) ∧
    (s.hif.bme = true → s.hif.d3 = false → (∀ r, (ringGet s r).backlog = []) →
      (∀ c : Compl, s.hif.waiting = [c] → c.hold = false → c.ring < 64 → c.retire = none → s.hif.pba = 0 → (∀ n, n < 344 → (srcGet s n).target ≠ 2) →
        let g := ringGet s c.ring
        let tail := (g.cqTail.toNat + 1) % 2 ^ g.cqLog.toNat
        (c.unsol = false → g.cqLog.toNat ≤ 16 → Gives .closePoint s (fun t =>
          page t.out (.hostWrite (g.cqBase + BitVec.ofNat 64 (16 * g.cqTail.toNat))
            (leBytes 8 c.data.toNat ++ leBytes 2 c.sqidx.toNat ++ leBytes 2 c.tag.toNat ++
              [c.opcode, c.status, BitVec.ofNat 8 (if g.phase then 1 else 0), c.src]) :: s.out) ∧
          (ringGet t c.ring).cqTail = BitVec.ofNat 16 tail ∧ (ringGet t c.ring).phase = (if tail = 0 then !g.phase else g.phase) ∧
          (ringGet t c.ring).unread = g.unread + 1 ∧ (srcGet t (128 + c.ring)).pend = true ∧
          t.hif.waiting = [] ∧ t.hif.seq = q ∧ t.hif.closed = true ∧ t.blk = s.blk)) ∧
        (c.unsol = true → ringOn s c.ring = false → Gives .closePoint s (fun t => page t.out s.out ∧
          (ringGet t c.ring).dropun = g.dropun + 1 ∧ (ringGet t c.ring).cqTail = g.cqTail ∧ Counted bHIF 4 s t))) ∧
      (∀ c : Compl, s.hif.waiting = [c] → c.hold = true → s.hif.pba = 0 → (∀ n, n < 344 → (srcGet s n).target ≠ 2) →
        Gives .closePoint s (fun t => page t.out s.out ∧ t.hif.waiting = [c] ∧ t.hif.rings = s.hif.rings)) ∧
      ∀ n : Nat, s.hif.waiting = [] → s.hif.pba = 0 → s.hif.fnMask = false → Presentable s 2 n →
        (∀ k, Presentable s 2 k → k = n) →
        let v := (srcGet s n).vec.toNat
        let masked := (tblGet s.hif.msix v vecReset).getLsbD 96
        Gives .closePoint s (fun t => (srcGet t n).pend = false ∧ (srcGet t n).insvc = isLevel n ∧
          t.hif.pba.getLsbD v = masked ∧ (∀ k, k ≠ v → t.hif.pba.getLsbD k = false) ∧
          (masked = true → page t.out s.out) ∧
          (masked = false → ∃ l, page l s.out ∧ t.out = .msix v (BitVec.ofNat 64 (tblGet s.hif.msix v vecReset).toNat)
            (BitVec.ofNat 32 ((tblGet s.hif.msix v vecReset).toNat / 2 ^ 64)) :: l))))

/-- The order of the checks of R383, with R385, R416 and R499. -/
def Obligations.DescriptorsAreCheckedInOrder : Prop :=
  (∀ (op : Nat) (c : HostDesc → Instr) (d : HostDesc) (s : State), descRow op = some c → dOp d = op →
    (ringGet s d.ring).queue = [] → canStart s d = true → deltaWaits s d = false →
    let classOk := (ringGet s d.ring).classMask.getLsbD (classRow op) = true
    let ends := fun (st : Nat) (t : State) => Answered d st 0 t ∧ (ringGet t d.ring).started.length = (ringGet s d.ring).started.length ∧
      { t with hif := s.hif, blk := s.blk, sec := s.sec } = s
    let noKey := fun (st : Nat) (n : Nat) => Gives (c d) s (fun t => ends st t ∧ Counted bSEC n s t ∧ t.sec = s.sec)
    (¬classOk → Gives (c d) s (fun t => ends stREFUSED t ∧ Counted bHIF 3 s t ∧ t.sec = s.sec)) ∧
    (classOk → d.signed = none →
      (ownerSigned op = true → noKey stAUTH_FAIL 0) ∧
      (operatorOp op = true → (authorise s d = .bad → noKey stAUTH_FAIL 0) ∧ (authorise s d = .stale → noKey stAUTH_FAIL 2) ∧
        (authorise s d = .noKey → noKey stAUTH_FAIL 8))) ∧
    (classOk → d.signed.isSome = true ∨ (ownerSigned op = false ∧ (operatorOp op = true → ∃ l, authorise s d = .ok l)) →
      let role := roleBarred op = true ∧ enginesRun s = false
      let boot := s.sched.run = false ∧ classRow op ≠ 0 ∧ classRow op ≠ 8 ∧ classRow op ≠ 10
      let froz := ∃ m, carrier op = some m ∧ frozenM s m = true
      (role → Gives (c d) s (fun t => ends stNOT_READY t ∧ Counted bPAIR 10 s t)) ∧
      (¬role → boot → Gives (c d) s (fun t => ends stNOT_READY t ∧ t.blk = s.blk)) ∧
      (¬role → ¬boot → reservedOk d = false → Gives (c d) s (fun t => ends stRANGE t ∧ Counted bHIF 2 s t)) ∧
      (¬role → ¬boot → reservedOk d = true → froz → Gives (c d) s (fun t => ends stFROZEN t ∧ t.blk = s.blk)))) ∧
  (∀ (d : HostDesc) (s : State), deltaWaits s d = true → Gives (.solvDelta d) s (fun t =>
    t = ringPut s d.ring { ringGet s d.ring with queue := (ringGet s d.ring).queue ++ [d] })) ∧
  ∀ (d : HostDesc) (s : State), Reaches 0 d s → Gives (.dNop d) s (fun t => Answered d stOK s.hif.slotMfn.toNat t ∧ { t with hif := s.hif } = s)

/-! ### The schedule (02_schedule_contract.md) -/

/-- MINOR_FRAME_START and MAJOR_FRAME_BOUNDARY (R38, R354, R356). -/
def Obligations.FramesFollowTheGrid : Prop :=
  (∀ (hot : Bool) (s : State), let l := s.sched.frameL.toNat
    let p : Int := l * 65536
    let trim : Int := (l + 1023) / 1024
    let now := nowT s
    let b := gridNear s.time l (now + BitVec.ofNat 128 (l * 65536))
    let d := cycleOf s.time b - s.time.tbc.toNat
    let len := if d < l - trim then l - trim else if l + trim < d then l + trim else d
    let err : Int := s.time.tbc.toNat - cycleOf s.time (gridNear s.time l now)
    enOf s bSCHED = true → s.sched.image.isSome = true → s.sched.run = true → s.sched.committed = false → 250000 ≤ l → l ≤ 10000000 →
    Gives (.minorFrameStart hot) s (fun t => t.sched.mfn = s.sched.mfn + 1 ∧ t.sched.cyc = 0 ∧ t.sched.kmf = s.sched.kmf ∧
      t.pimg.openSpan = false ∧ t.time.f0 = now ∧ t.time.frameStart = s.time.tbc ∧ t.time.flen = s.time.frameLen ∧
      (t.time.frameLen.toNat : Int) = len ∧ t.time.nextInst = b ∧ t.time.gridErr = BitVec.ofInt 32 err ∧
      t.time.lock = decide (err = 0) ∧ (trigGet t 0).cap = nowNs s ∧ (trigGet t 0).fired = true ∧
      (∃ k : Int, b = s.time.origin + BitVec.ofInt 128 (k * p) ∧ 2 * (k * p - tDiff (now + BitVec.ofNat 128 (l * 65536)) s.time.origin) ≤ p ∧
        -p ≤ 2 * (k * p - tDiff (now + BitVec.ofNat 128 (l * 65536)) s.time.origin)) ∧
      cntOf t bTIME 3 = (if d < l - trim ∨ l + trim < d then satInc (cntOf s bTIME 3) else cntOf s bTIME 3) ∧
      cntOf t bSCHED 6 = (if hot then satInc (cntOf s bSCHED 6) else cntOf s bSCHED 6))) ∧
  (∀ s : State, enOf s bSCHED = true → s.sched.image.isSome = true → s.sched.run = false → s.sched.committed = false → s.pair.mode = false →
    s.pair.modeReq = [] → s.sys.partnerActive = false → Gives (.minorFrameStart false) s (fun t => t.sched.run = true ∧
      t.sched.mfn = s.sched.mfn ∧ t.sched.kmf = s.sched.kmf ∧ t.sys.startTbc = s.time.tbc ∧ t.sched.cyc = 0 ∧ t.time.f0 = nowT s)) ∧
  (∀ s : State, let m := if s.sched.majM = 0 then 1 else s.sched.majM.toNat
    let boundary := s.sched.run = true ∧ (s.sched.mfn.toNat - s.sched.mfnBase.toNat) % m = 0 ∧ s.sched.majMfn ≠ some s.sched.mfn
    (boundary → Gives .majorFrameBoundary s (fun t => t.sched = { s.sched with kmf := s.sched.kmf + 1, majMfn := some s.sched.mfn } ∧
      { t with sched := s.sched } = s)) ∧
    (¬boundary → Gives .majorFrameBoundary s (fun t => t = s)))

/-- OVERRUN, UNFREEZE, FREEZE_RELEASE and SCHED_UNFRZ. -/
def Obligations.FreezesHoldUntilReleased : Prop :=
  (∀ (m : Fin 25) (q : FabricReq) (s : State),
    (m.val < 2 ∨ holdsSlots s m.val = false ∨ frozenM s m.val = true → Gives (.overrun m q) s (fun t => t = s)) ∧
    (2 ≤ m.val → holdsSlots s m.val = true → frozenM s m.val = false →
      let inside := inWindow s m.val q.addr.toNat 1 q.write
      Gives (.overrun m q) s (fun t => frozenM t m.val = true ∧
      (∀ k, k ≠ m.val → frozenM t k = frozenM s k) ∧ (let f := tblGet t.sched.frzInfo m.val {}
        f.cause = (if inside then 3 else if q.write then 1 else 2) ∧ f.addr = q.addr ∧ f.mfn = s.sched.mfn.truncate 32 ∧ f.cyc = s.sched.cyc.zeroExtend 32) ∧
      (∀ k, cntOf t bSCHED k = if k = (if inside then 3 else 2) then satInc (cntOf s bSCHED k) else cntOf s bSCHED k) ∧ (srcGet t 192).pend = true ∧
      InLantern 0x0301 s t ∧ (m.val = 16 → t.parc.step = none ∧ t.parc.segs = s.parc.segs) ∧
      (m.val = 15 → (∀ r ∈ t.solv.runs, r.ended.isSome = true) ∧
        ∀ r ∈ s.solv.runs, r.ended = none → ∃ u ∈ t.solv.runs, u.task = r.task ∧ u.ended = some (4, 6)) ∧ t.pimg = s.pimg ∧ t.mram = s.mram ∧ t.dram = s.dram))) ∧
  (∀ (d : HostDesc) (s : State), Reaches 0x04 d s → let m := d8 d 16
    (1 ≤ m → m ≤ 24 → frozenM s m = true → Gives (.unfreeze d) s (fun t =>
      t.sched = { s.sched with releases := s.sched.releases ++ [{ master := m, desc := some d }] })) ∧
    (1 ≤ m → m ≤ 24 → frozenM s m = false → Gives (.unfreeze d) s (fun t => Answered d stNOT_READY 0 t ∧ Counted bHIF 7 s t ∧ t.sched = s.sched)) ∧
    (m = 0 ∨ 24 < m → Gives (.unfreeze d) s (fun t => Answered d stRANGE 0 t ∧ Counted bHIF 7 s t ∧ t.sched = s.sched))) ∧
  (∀ (m : Fin 25) (s : State), let asked := s.sched.releases.any fun r => r.master == m.val
    (asked = true → mIndex s = 0 → frozenM s m.val = true → Gives (.freezeRelease m) s (fun t => frozenM t m.val = false ∧
      (∀ k, k ≠ m.val → frozenM t k = frozenM s k) ∧ (∀ r ∈ t.sched.releases, r.master ≠ m.val) ∧ InLantern 0x0302 s t ∧
      ∀ d, ({ master := m.val, desc := some d } : Release) ∈ s.sched.releases → d ∈ (ringGet s d.ring).started →
        Answered d stOK s.sched.mfn.toNat t)) ∧
    (asked = false ∨ mIndex s ≠ 0 → Gives (.freezeRelease m) s (fun t => t = s))) ∧
  ∀ (m : RegMaster) (v : W32) (s : State), Reachable m s →
    let granted := v.toNat % 32 = 17 ∧ frozenM s 17 = true ∧ s.sched.hifFreezeKmf.toNat + 10 ≤ s.sched.kmf.toNat
    (granted → Gives (.schedUnfrz m v) s (fun t =>
      t.sched = { s.sched with releases := s.sched.releases ++ [{ master := 17, desc := none }] } ∧
      InLantern 0x1081 s t ∧ InAudit 2 s t)) ∧
    (¬granted → Gives (.schedUnfrz m v) s (fun t => t = count bSEC 5 s))

/-- IMAGE_LOAD and IMAGE_CHECK_COMPLETE (R70). -/
def Obligations.ImagesAreLoadedAndChecked : Prop :=
  (∀ (d : HostDesc) (s : State), Reaches 0x01 d s → let len := d32 d 20
    let off := d64 d 24
    let inRange := 64 ≤ len ∧ len ≤ 2 ^ 24 ∧ len % 64 = 0 ∧ off % 64 = 0 ∧ off + len ≤ 2 ^ 28
    let free := s.sched.switchPend = false ∧ s.sched.checking = none
    (free → inRange → Gives (.imageLoad d) s (fun t => slice t.sched.shadow off len = slice d.buf 0 len ∧
      t.sched.shadowReady = false ∧ t.sched.image = s.sched.image ∧
      ((d8 d 16).testBit 0 = true → t.sched.checking = some d ∧ t.hif.waiting = s.hif.waiting) ∧
      ((d8 d 16).testBit 0 = false → Answered d stOK 0 t ∧ t.sched.checking = none))) ∧
    (free → ¬inRange → Gives (.imageLoad d) s (fun t => Answered d stRANGE 0 t ∧ Counted bHIF 7 s t ∧ t.sched = s.sched)) ∧
    (s.sched.switchPend = true → Gives (.imageLoad d) s (fun t => Answered d stBUSY 0 t ∧ Counted bHIF 7 s t ∧ t.sched = s.sched))) ∧
  ∀ (d : HostDesc) (s : State), s.sched.checking = some d → d ∈ (ringGet s d.ring).started → s.sys.stage ≠ 0xE →
    let r := checkImage s false s.sched.shadow
    Gives .imageCheckComplete s (fun t => t.sched.checking = none ∧ t.sched.chkRes = BitVec.ofNat 8 r.1 ∧
      t.sched.chkItem = BitVec.ofNat 24 r.2 ∧ (srcGet t 193).pend = true ∧ t.sched.image = s.sched.image ∧ t.sched.mfn = s.sched.mfn ∧
      t.sched.actId = s.sched.actId ∧ t.pimg = s.pimg ∧ t.cell = s.cell ∧
      (r.1 = 0 → Answered d stOK 0 t ∧ t.sched.shdId = (parseImage s.sched.shadow).imgId ∧
        t.sched.shadowReady = (List.range 12).all (fun k => !imageNeeds (parseImage s.sched.shadow) k || domOn s k) ∧ (d.signed = none → t.blk = s.blk)) ∧
      (r.1 = 3 ∨ r.1 = 4 → Answered d stAUTH_FAIL r.1 t ∧ Counted bSCHED 0 s t ∧ t.sched.shadowReady = s.sched.shadowReady) ∧
      (r.1 ≠ 0 → r.1 ≠ 3 → r.1 ≠ 4 → Answered d stREFUSED r.1 t ∧ Counted bSCHED 1 s t ∧ t.sched.shadowReady = s.sched.shadowReady))

/-- IMAGE_SWITCH, IMAGE_ABORT, SWITCH_RESERVE and NEW_IMAGE_ACTIVE. -/
def Obligations.ImagesAreSwitchedAtTheirBoundary : Prop :=
  (∀ (d : HostDesc) (s : State), Reaches 0x02 d s →
    let m := max 1 s.sched.majM.toNat
    let inTime := fun (b : Nat) => s.sched.mfn.toNat + 1 < b ∨ (s.sched.mfn.toNat + 1 = b ∧ s.sched.cyc.toNat + 65536 < s.sched.frameL.toNat)
    let boundary := fun (b : Nat) => s.sched.mfnBase.toNat < b ∧ (b - s.sched.mfnBase.toNat) % m = 0
    let refused := fun (st data : Nat) => Gives (.imageSwitch d) s (fun t => Answered d st data t ∧
      Counted bSCHED 4 s t ∧ t.sched.switchPend = s.sched.switchPend ∧ t.sched.swMfn = s.sched.swMfn ∧ t.sched.image = s.sched.image)
    let accepted := fun (b : Nat) => Gives (.imageSwitch d) s (fun t => t.sched.switchPend = true ∧ t.sched.swMfn = BitVec.ofNat 64 b ∧
      t.sched.switchDesc = some d ∧ t.sched.image = s.sched.image ∧ t.sched.chkRes = 0 ∧ t.hif.waiting = s.hif.waiting)
    (s.sched.switchPend = true → refused stBUSY 0) ∧
    (s.sched.switchPend = false → s.sched.shadowReady = false ∨ s.sched.run = false → refused stNOT_READY 0) ∧
    ∀ old im : Image, s.sched.switchPend = false → s.sched.shadowReady = true → s.sched.run = true → s.sched.image = some old →
      s.sched.shadowImage = some im →
      (im.flags.testBit 1 = false → refused stREFUSED 0) ∧
      (im.flags.testBit 1 = true → (checkCarry old im).1 ≠ 0 → refused stREFUSED (checkCarry old im).1) ∧
      (im.flags.testBit 1 = true → (checkCarry old im).1 = 0 →
        (d64 d 24 ≠ 0 → ¬(inTime (d64 d 24) ∧ boundary (d64 d 24)) → refused stRANGE 0) ∧
        (d64 d 24 ≠ 0 → inTime (d64 d 24) → boundary (d64 d 24) → accepted (d64 d 24)) ∧
        (d64 d 24 = 0 → s.sched.mfnBase.toNat ≤ s.sched.mfn.toNat → 65536 < s.sched.frameL.toNat → ∀ b, boundary b → inTime b →
          (∀ c, boundary c → inTime c → b ≤ c) → accepted b))) ∧
  (∀ (d : HostDesc) (s : State), Reaches 0x03 d s →
    let early := s.sched.mfn.toNat + 1 < s.sched.swMfn.toNat ∨
      (s.sched.mfn.toNat + 1 = s.sched.swMfn.toNat ∧ s.sched.cyc.toNat + 65536 < s.sched.frameL.toNat)
    (s.sched.switchPend = false → Gives (.imageAbort d) s (fun t => Answered d stNOT_READY 0 t ∧ t.sched = s.sched)) ∧
    (s.sched.switchPend = true → s.sched.committed = false → early → Gives (.imageAbort d) s (fun t => Answered d stOK 0 t ∧
      t.sched.switchPend = false ∧ t.sched.swMfn = 0 ∧ t.sched.image = s.sched.image ∧
      ∀ w, s.sched.switchDesc = some w → w ∈ (ringGet s w.ring).started → Answered w stDROPPED 0 t)) ∧
    (s.sched.switchPend = true → s.sched.committed = true ∨ ¬early → Gives (.imageAbort d) s (fun t =>
      Answered d stRANGE 0 t ∧ t.sched = s.sched))) ∧
  (∀ s : State, s.sched.run = true → s.sched.switchPend = true → s.sched.mfn + 1 = s.sched.swMfn → Gives .switchReserve s (fun t =>
    t.sched = { s.sched with committed := true } ∧ t.parc.step = none ∧ t.parc.segs = s.parc.segs ∧
    (∀ r ∈ t.solv.runs, r.ended.isSome = true) ∧ (∀ r ∈ s.solv.runs, r.ended = none → ∃ q ∈ t.solv.runs, q.task = r.task ∧ q.ended = some (1, 5)) ∧
    s.sched.frameL.toNat ≤ t.time.frameLen.toNat ∧ t.pimg = s.pimg)) ∧
  (∀ s : State, ¬(s.sched.run = true ∧ s.sched.switchPend = true ∧ s.sched.mfn + 1 = s.sched.swMfn) →
    Gives .switchReserve s (fun t => t = s)) ∧
  (∀ s : State, s.sched.committed = false ∨ s.sched.mfn ≠ s.sched.swMfn → Gives .newImageActive s (fun t => t = s)) ∧
  ∀ (old im : Image) (s : State), s.sched.image = some old → s.sched.shadowImage = some im → s.sched.committed = true →
    s.sched.mfn = s.sched.swMfn → s.sched.run = true → im.l < 2 ^ 32 → im.m < 2 ^ 17 → Gives .newImageActive s (fun t =>
      t.sched.image = some im ∧ t.sched.actId = im.imgId ∧ t.sched.frameL.toNat = im.l ∧ t.sched.majM.toNat = im.m ∧
      t.sched.mfnBase = s.sched.mfn ∧ t.sched.mfn = s.sched.mfn ∧ t.sched.switchPend = false ∧ t.sched.shadowReady = false ∧
      t.sched.swMfn = 0 ∧ t.sched.bank = !s.sched.bank ∧ t.sched.committed = false ∧ (srcGet t 193).pend = true ∧
      t.time = s.time ∧ t.rtc = s.rtc ∧ t.mram = s.mram ∧ (s.solv.runs = [] → t.dram = s.dram) ∧
      ∀ d, s.sched.switchDesc = some d → d ∈ (ringGet s d.ring).started → ¬HeldByABlock d s →
        Answered d stOK (s.sched.mfn.toNat % 2 ^ 48 + min 65535 t.sched.typeResets * 2 ^ 48) t)

/-- What the contract checker guarantees (checks 0x07, 0x08, 0x0A, 0x0B and 0x0C). -/
def Obligations.AcceptedImagesHaveNoConflicts : Prop :=
  ∀ (s : State) (boot : Bool) (b : Bytes), (checkImage s boot b).1 = 0 →
    let im := parseImage b
    (∀ (i j m : Nat) (x y : SlotE), i < j → im.slots[i]? = some x → im.slots[j]? = some y →
      x.master = y.master ∨ x.res &&& y.res ≠ 0 → slotActive x m = true → slotActive y m = true →
      x.start + x.budget ≤ y.start ∨ y.start + y.budget ≤ x.start) ∧
    (∀ x ∈ im.slots, x.start + x.budget + (im.l + 1023) / 1024 ≤ im.l ∧
      (slotActive x (im.m - 1) = true → (2 ≤ x.master ∧ x.master ≤ 14) ∨ x.flags.testBit 1 = true → x.start + x.budget + 65536 ≤ im.l)) ∧
    (∀ (i j : Nat) (v w : Win), i < j → im.wins[i]? = some v → im.wins[j]? = some w → v.master ≠ w.master → v.master ≠ 22 → w.master ≠ 22 →
      v.perm.testBit 1 = true → w.perm.testBit 1 = true → v.limit < w.base ∨ w.limit < v.base) ∧
    ∀ (i j k : Nat) (r q : DramRes), i < j → im.dram[i]? = some r → im.dram[j]? = some q → r.channel = q.channel →
      ¬(k % 2 ^ r.slog = r.offset ∧ k % 2 ^ q.slog = q.offset)

/-! ### Points and program cycles (06_cyclic_programs.md) -/

/-- SNAPSHOT and COMMIT (R175 to R179). -/
def Obligations.SnapshotsMergeAndFreeze : Prop :=
  (∀ s : State, s.sched.run = false ∨ s.pimg.snapDone = true → Gives .snapshot s (fun t => t = s)) ∧
  (∀ s : State, s.sched.run = false ∨ s.pimg.openSpan = false → Gives .commit s (fun t => t = s)) ∧
  (∀ s : State, s.sched.run = true → s.pimg.snapDone = false → drives s = true → s.pimg.forces = [] → Gives .snapshot s (fun t =>
    t.pimg.pisnap = s.sched.mfn ∧ t.pimg.openSpan = true ∧ t.pimg.snapDone = true ∧
    t.hif.copies = (s.hif.copies.map fun r => if overlapped r then { r with spoiled := true } else r) ∧
    { t with pimg := s.pimg, hif := s.hif } = s ∧ { t.hif with copies := s.hif.copies } = s.hif ∧
    ∀ p : Nat, let w := workPt s p
      let n := workPt t p
      let f := frozenPt t p
      let o := frozenPt s p
      let lost := frozenM s w.owner.toNat
      let es := fun (e : Nat) => e < s.pimg.nstage ∧ (tblGet s.pimg.staging e {}).point = p
      f.value = n.value ∧ f.qual = n.qual ∧ f.typ = n.typ ∧ f.cls = n.cls ∧ f.owner = n.owner ∧
      n.typ = w.typ ∧ n.cls = w.cls ∧ n.owner = w.owner ∧
      (w.typ ≠ 0 → (f.value = o.value ∧ f.qual = o.qual → f.stamp = o.stamp) ∧
        (¬(f.value = o.value ∧ f.qual = o.qual) → f.stamp = s.sched.mfn.truncate 32)) ∧
      (w.qual = qFORCED → n.value = w.value ∧ n.qual = qFORCED) ∧
      (w.qual ≠ qFORCED → lost = true → ((2 ≤ w.owner.toNat ∧ w.owner.toNat ≤ 14 ∧ (w.cls = 1 ∨ w.cls = 2)) ∨
        (18 ≤ w.owner.toNat ∧ w.owner.toNat ≤ 21 ∧ w.cls = 0)) → w.typ ≠ 0 → n.value = typeBits w.typ w.value ∨ n.value = w.value) ∧
      (w.qual ≠ qFORCED → lost = true → ((2 ≤ w.owner.toNat ∧ w.owner.toNat ≤ 14 ∧ (w.cls = 1 ∨ w.cls = 2)) ∨
        (18 ≤ w.owner.toNat ∧ w.owner.toNat ≤ 21 ∧ w.cls = 0)) → w.typ ≠ 0 → n.qual = qBAD) ∧
      (w.qual ≠ qFORCED → lost = false → (∀ e, ¬es e) → n = w) ∧
      ∀ e, es e → (∀ k, es k → k = e) → w.typ ≠ 0 →
        let g := tblGet s.pimg.staging e {}
        (lost = true → tblGet t.pimg.staging e {} = g) ∧
        (lost = false → (tblGet t.pimg.staging e {}).isNew = false ∧ (w.qual ≠ qFORCED →
          n.qual = BitVec.ofNat 3 g.qual.toNat ∧
          n.value = (if g.isNew = true ∨ tblGet s.pimg.released p false = true then typeBits w.typ g.value else typeBits w.typ w.value) ∧
          (n.value = w.value ∧ n.qual = w.qual → n.stamp = w.stamp))))) ∧
  (∀ s : State, s.sched.run = true → s.pimg.snapDone = false → drives s = false → Gives .snapshot s (fun t =>
    t.pimg.pisnap = s.sched.mfn ∧ t.pimg.openSpan = true ∧ t.pimg.snapDone = true ∧ (∀ p, workPt t p = workPt s p) ∧
    t.pimg.staging = s.pimg.staging ∧ { t with pimg := s.pimg, hif := s.hif } = s)) ∧
  (∀ (d : HostDesc) (r : ForceRec) (s : State), s.sched.run = true → s.pimg.snapDone = false → drives s = true →
    s.pimg.forces = [{ desc := d, recs := [r] }] → d ∈ (ringGet s d.ring).started → r.force = true →
    ((workPt s r.point).typ ≠ 0 → Gives .snapshot s (fun t => Answered d stOK 0 t ∧ t.pimg.forces = [] ∧
      (workPt t r.point).value = typeBits (workPt s r.point).typ r.value ∧ (workPt t r.point).qual = qFORCED ∧
      (frozenPt t r.point).value = typeBits (workPt s r.point).typ r.value ∧ (frozenPt t r.point).qual = qFORCED)) ∧
    ((workPt s r.point).typ = 0 → Gives .snapshot s (fun t => Answered d stPARTIAL 0 t ∧ t.pimg.forces = [] ∧ Counted bCELL 2 s t))) ∧
  ∀ s : State, s.sched.run = true → s.pimg.openSpan = true → Gives .commit s (fun t => t.pimg.picmt = s.sched.mfn ∧ t.pimg.openSpan = false ∧
    (∀ p, workPt t p = workPt s p ∧ frozenPt t p = frozenPt s p) ∧ t.pimg.staging = s.pimg.staging ∧ { t with pimg := s.pimg } = s ∧
    ∀ m p, 18 ≤ m → m ≤ 22 → readPt t m true p = workPt s p)

/-- CELL_CYCLE (R183 to R189). -/
def Obligations.ProgramCyclesRunOrAreSkipped : Prop :=
  ∀ (i : Nat) (p : SlotE) (k : CellTask) (e : Fin 8) (s : State), let g := engGet s e
    slotAt s i = some p → p.master = e.val + 2 → slotActive p (mIndex s) = true → s.sched.run = true → enOf s bCELL = true →
    enginesRun s = true → g.inCyc = false → taskOf g p.task = some k → k.task.toNat = p.task →
    let started := fun (stepping : Bool) (t : State) => let h := engGet t e
      h.inCyc = true ∧ h.stepping = stepping ∧ h.pos = k.entry ∧ h.used = 20 ∧ h.busy = 21 ∧ h.loops = [] ∧ h.now = nowNs s ∧
      (∀ j, getG (.cell e) t j = 0) ∧ (∀ q, getP (.cell e) t q = decide (q = 0)) ∧ h.afl = 0 ∧ h.mode = g.mode ∧
      tblRange h.data 0 48 0 = leBytes 8 s.sched.mfn.toNat ++ leBytes 8 (nowNs s).toNat ++ leBytes 8 k.cycles.toNat ++
        leBytes 4 k.skipped.toNat ++ leBytes 2 p.task ++ [BitVec.ofNat 8 g.mode.toNat,
          BitVec.ofNat 8 ((if k.first then 1 else 0) + (if k.switched then 2 else 0) + (if stepping then 4 else 0))] ++
        leBytes 8 (p.period * s.sched.frameL.toNat) ++ leBytes 8 (if k.first then 0 else (nowNs s - k.lastNow).toNat) ∧
      (∀ a, 128 ≤ a → tblGet h.data a 0 = tblGet g.data a 0) ∧ h.cycles = g.cycles ∧
      (∃ k2 ∈ h.tasks, k2.task = k.task ∧ k2.skipped = 0 ∧ k2.first = false ∧ k2.lastNow = nowNs s) ∧
      t.pimg = s.pimg
    let skipped := fun (cause : Byte) (t : State) => let h := engGet t e
      h.inCyc = false ∧ h.skips = satInc g.skips ∧ h.skipCause = cause ∧ h.skipTask.toNat = p.task ∧ h.skipMfn = s.sched.mfn ∧
      h.g = g.g ∧ h.data = g.data ∧ cntOf t bCELL 0 = satInc (cntOf s bCELL 0) ∧ (srcGet t 214).pend = true ∧ t.pimg = s.pimg ∧
      (k.skipped = 0 → InLantern 0x0401 s t)
    (g.req = none → g.mode = 1 →
      (frozenM s (e.val + 2) = false → s.pimg.snapDone = true → Gives (.cellCycle i) s (started false)) ∧
      (frozenM s (e.val + 2) = true → Gives (.cellCycle i) s (skipped 1)) ∧
      (frozenM s (e.val + 2) = false → s.pimg.snapDone = false → Gives (.cellCycle i) s (skipped 2))) ∧
    (g.req = some 0 → Gives (.cellCycle i) s (fun t => (engGet t e).mode = 0 ∧ (engGet t e).req = none ∧ (engGet t e).inCyc = false ∧
      (∀ x ∈ (engGet t e).tasks, x.first = true) ∧ t.pimg = s.pimg)) ∧
    (g.req = none → g.mode = 2 → frozenM s (e.val + 2) = false → s.pimg.snapDone = true →
      (∀ d, g.step = some d → d16 d 20 = p.task → Gives (.cellCycle i) s (started true)) ∧
      (g.step = none → Gives (.cellCycle i) s (fun t => t = s)))

/-- PT_READ, PT_WRITE, PT_FORCE, CELL_MODE, CELL_STEP and CELL_READ (R195 to R199). -/
def Obligations.PointAndCellDescriptors : Prop :=
  ∀ (d : HostDesc) (s : State),
    let refused := fun (i : Instr) (st n : Nat) =>
      Gives i s (fun t => Answered d st n t ∧ Counted bCELL 5 s t ∧ t.pimg = s.pimg ∧ t.cell = s.cell)
    let n := d32 d 20
    let first := d32 d 20
    let count := d32 d 24
    let record := fun (i : Nat) => ptBytes (readPt s 17 (d8 d 16 == 1) (first + i))
    let p := u32 d.buf 0
    let w := workPt s p
    let e := d8 d 16
    let g := engGet s e
    (Reaches 0x10 d s → frozenM s 17 = false →
      (d8 d 16 ≤ 1 → 0 < count → first + count ≤ 131072 →
        inWindow s 17 (if d8 d 16 = 0 then 0x1000000000 + 16 * first else 0x1000200000 + 16 * first) (16 * count) false = true →
        Gives (.ptRead d) s (fun t => t.pimg = s.pimg ∧
          ((slotOpen s = true ∧ Answered d stOK (16 * count) t ∧ Delivered (dAddr d) (((List.range count).map record).flatten) s t) ∨
           (¬(slotOpen s = true ∧ count = 1) ∧ t.hif.copies = s.hif.copies ++ [{ desc := d, begun := slotOpen s }] ∧
            t.hif.waiting = s.hif.waiting)))) ∧
      (1 < d8 d 16 ∨ count = 0 ∨ 131072 < first + count → refused (.ptRead d) stRANGE 0)) ∧
    (Reaches 0x11 d s → frozenM s 17 = false → n = 1 → d64 d 24 % 16 = 0 →
      let q := u8 d.buf 4
      (w.typ ≠ 0 → w.owner = 17 → q = 0 ∨ q = 4 → s.hif.inSlot = false ∨ s.hif.closed = true → Gives (.ptWrite d) s (fun t =>
        t.hif.todo = s.hif.todo ++ [d] ∧ t.hif.waiting = s.hif.waiting ∧ t.pimg = s.pimg)) ∧
      (w.typ ≠ 0 → w.owner = 17 → w.qual ≠ qFORCED → q = 0 ∨ q = 4 → p < 131072 → s.hif.inSlot = true → s.hif.closed = false → inWindow s 17 (0x1000200000 + 16 * p) 16 true = true →
        Gives (.ptWrite d) s (fun t => Answered d stOK 0 t ∧ (workPt t p).value = typeBits w.typ (BitVec.ofNat 64 (u64 d.buf 8)) ∧
          (workPt t p).qual = BitVec.ofNat 3 q ∧ (∀ k, k ≠ p → workPt t k = workPt s k) ∧ t.pimg.frozen = s.pimg.frozen)) ∧
      (w.typ = 0 ∨ w.owner ≠ 17 ∨ (q ≠ 0 ∧ q ≠ 4) → refused (.ptWrite d) stRANGE 0)) ∧
    (Reaches 0x12 d s → n = 1 → d64 d 24 % 16 = 0 →
      (w.typ ≠ 0 → u8 d.buf 4 = 1 → s.pimg.forces = [] → (forcedNow s).length < 1024 → Gives (.ptForce d) s (fun t =>
        t.pimg = { s.pimg with forces := [{ desc := d, recs := [{ point := p, force := true, value := BitVec.ofNat 64 (u64 d.buf 8) }] }] } ∧
        t.hif.waiting = s.hif.waiting)) ∧
      (w.typ = 0 ∨ 1 < u8 d.buf 4 → refused (.ptForce d) stRANGE 0)) ∧
    (Reaches 0x13 d s →
      (d8 d 17 ≤ 2 → (∃ k, k < 8 ∧ e.testBit k = true ∧ holdsSlots s (2 + k) = true) → Gives (.cellMode d) s (fun t =>
        Answered d stOK 0 t ∧ ∀ k, k < 8 → engGet t k =
          if e.testBit k = true ∧ holdsSlots s (2 + k) = true then { engGet s k with req := some (BitVec.ofNat 2 (d8 d 17)) } else engGet s k)) ∧
      (2 < d8 d 17 → refused (.cellMode d) stRANGE 0)) ∧
    (Reaches 0x14 d s → e ≤ 7 →
      (g.mode = 2 → (taskOf g (d16 d 20)).isSome = true → g.step = none → g.reads = [] → Gives (.cellStep d) s (fun t =>
        engGet t e = { g with step := some d } ∧ (∀ k, k ≠ e → engGet t k = engGet s k) ∧ t.hif.waiting = s.hif.waiting)) ∧
      (g.mode ≠ 2 → refused (.cellStep d) stNOT_READY 0)) ∧
    (Reaches 0x15 d s → e ≤ 7 →
      (g.mode ≠ 1 → g.inCyc = true → Gives (.cellRead d) s (fun t => engGet t e = { g with reads := g.reads ++ [d] } ∧
        (∀ k, k ≠ e → engGet t k = engGet s k) ∧ t.hif.waiting = s.hif.waiting)) ∧
      (g.mode ≠ 1 → g.inCyc = false → d32 d 20 + d32 d 24 ≤ 262144 → Gives (.cellRead d) s (fun t =>
        Answered d stOK (d32 d 24) t ∧ Delivered (dAddr d) (tblRange g.data (d32 d 20) (d32 d 24) 0) s t ∧ t.cell = s.cell)) ∧
      (g.mode = 1 → refused (.cellRead d) stBUSY 0))

/-! ### Network solver (03_network_solver.md, 04_solver_programming.md) -/

/-- LONG_SLOT of SOLV and ITERATION_COMMIT (R102 to R111). -/
def Obligations.SolverRunsCaptureAndCommit : Prop :=
  (∀ (i : Nat) (e : SlotE) (k : LTask) (s : State), let q := slotGet s k.sslot
    let dsv0 := match q.prior with | some p => if p.1 = s.sched.mfn then p.2.2 else q.dsv | none => q.dsv
    let kept := fun (t : State) => (∀ j, j ≠ k.sslot → slotGet t j = slotGet s j) ∧ { slotGet t k.sslot with initd := q.initd } = q
    activeSlot s i = some e → e.flags.testBit 0 = true → e.master = 15 → solvTask s e.task = some k → k.task < 65536 →
    (s.sched.committed = true → Gives (.longSlot i) s (fun t => t = s)) ∧
    (s.sched.committed = false → enginesRun s = true → frozenM s 15 = false → enOf s bSOLV = true →
    (∀ b ∈ (structOf s k.sslot).capbind, inWindow s 15 (viewIn b.point) 16 false = true) →
    runOf s k.task = none → q.deltas = [] → q.writing = none →
    (firstOccurrence s 15 k.task i = true → captureFrame s k = true → (∀ d ∈ s.solv.hostRuns, d16 d 20 ≠ k.task) →
      (q.st = 2 → Gives (.longSlot i) s (fun t => kept t ∧ { t with solv := s.solv, free := s.free } = s ∧
        ∃ r, runOf t k.task = some r ∧ r.slot = k.sslot ∧ r.host = none ∧ r.capMfn = s.sched.mfn ∧
          r.budget = scheduledBudget s k ∧ r.iter = 0 ∧ r.dsv = dsv0 ∧
          (r.warm = true ↔ q.usable = true ∧ q.storeSig = (structOf s k.sslot).sig) ∧
          (r.refusedWarm = true ↔ q.usable = true ∧ q.storeSig ≠ (structOf s k.sslot).sig) ∧
          r.elapsed = 0 ∧ r.occ = some { mfn := s.sched.mfn, start := e.start, work := workOf s e })) ∧
      (q.st ≠ 2 → Gives (.longSlot i) s (fun t => (∀ j, slotGet t j = slotGet s j) ∧ Counted bSOLV 3 s t ∧
        ∃ r, runOf t k.task = some r ∧ r.ended = some (0xFF, 10) ∧ r.capMfn = s.sched.mfn))) ∧
    (∀ d : HostDesc, s.solv.hostRuns = [d] → d16 d 20 = k.task → q.st = 2 → captureFrame s k = false →
      Gives (.longSlot i) s (fun t => t.solv.hostRuns = [] ∧ kept t ∧ t.blk = s.blk ∧
        ∃ r, runOf t k.task = some r ∧ r.host = some d ∧ r.capMfn = s.sched.mfn ∧
          r.budget = min (d64 d 24) (hostLimit s k e) ∧ r.iter = 0 ∧ ((d8 d 17).testBit 0 = true → r.warm = false))) ∧
    (∀ d : HostDesc, s.solv.hostRuns = [d] → d16 d 20 = k.task → captureFrame s k = true → firstOccurrence s 15 k.task i = true →
      q.st = 2 → d ∈ (ringGet s d.ring).started → Gives (.longSlot i) s (fun t => Answered d stBUSY 0 t ∧ Counted bSOLV 5 s t ∧
        t.solv.hostRuns = [])))) ∧
  ∀ (task : W16) (r : SRun) (s : State), runOf s task.toNat = some r → r.ended = none → r.wait = false → frozenM s 15 = false → enginesRun s = true →
    let st := structOf s r.slot
    let p := phasesOf s r
    let n := iterateOf st r
    let q := slotGet s r.slot
    (eccHit st s = false → n.ok = true → Gives (.iterationCommit task) s (fun t => (∀ j, j ≠ r.slot → slotGet t j = slotGet s j) ∧ t.pimg = s.pimg ∧
      (r.host = none → { t with solv := s.solv, free := s.free } = s ∧
        slotGet t r.slot = { q with store := n.it, storeSig := st.sig, usable := true }) ∧
      (r.host.isSome = true → slotGet t r.slot = { q with rb := tblPut q.rb 2 { tblGet q.rb 2 {} with valid := false } {} }) ∧
      ∃ x, runOf t task.toNat = some x ∧ x.it = n.it ∧ x.iter = r.iter + 1 ∧ x.wc = r.wc + tIter st p ∧ x.data = r.data ∧
        (r.host.isSome = true → let v := vecBytes (resultVec st { x with cert := r.cert })
          inWindow s 15 (rbAddr st 2 + 128) v.length true = true → dramRead t (rbAddr st 2 + 128) v.length = v) ∧
        x.pivcnt = n.cnt ∧ x.pivtot = r.pivtot + n.cnt ∧ x.rhoRel = n.rho ∧ x.budget = r.budget ∧
        (r.disabled = true → x.ended = some (if runOptimal st x then 0 else 1, 11)) ∧
        (r.disabled = false → x.ended =
          if runOptimal st x then some (0, 0) else if runCert st x ≠ 0 then some (2, 0) else if runStalled st x then some (3, 0)
          else if x.iter = pNat r.data 0 then some (1, 1) else if x.wc + tIter st p + p.fin ≤ r.budget then none
          else some (1, if r.hostCut then 3 else 2)))) ∧
    (eccHit st s = true ∨ n.ok = false → Gives (.iterationCommit task) s (fun t => (∀ j, slotGet t j = slotGet s j) ∧
      { t with solv := s.solv, free := s.free } = s ∧ ∃ x, runOf t task.toNat = some x ∧ x.ended = some (4, 9) ∧ x.iter = r.iter ∧
        x.it = r.it ∧ x.wc = r.wc + tIter st p ∧ (eccHit st s = false → x.pivtot = r.pivtot + n.cnt)))

/-- RESULT_WRITE and PUB_SLOT of SOLV (R136 to R140). -/
def Obligations.ResultsAreWrittenAndPublished : Prop :=
  (∀ (task : W16) (r : SRun) (st en : Byte) (s : State), runOf s task.toNat = some r → r.ended = some (st, en) →
    (∀ d, r.host = some d → d ∈ (ringGet s d.ring).started) →
    let a := rbAddr (structOf s r.slot) (if r.host.isSome then 2 else (slotGet s r.slot).nextRb)
    let z := mkResult (structOf s r.slot) (slotGet s r.slot) r (phasesOf s r) st en
    let img := resultBytes z ++ vecBytes z.vec
    frozenM s 15 = true ∨ inWindow s 15 a img.length true = true →
    Gives (.resultWrite task) s (fun t => let q := slotGet s r.slot
      let w := slotGet t r.slot
      let x := tblGet w.rb (if r.host.isSome then 2 else q.nextRb) {}
      (frozenM s 15 = false → dramRead t a img.length = img) ∧ x = z ∧
      runOf t task.toNat = none ∧ w.rseq = q.rseq + 1 ∧ x.rseq = q.rseq + 1 ∧ x.status = st ∧ x.endc = en ∧ x.task = task ∧
      x.mfn = r.capMfn ∧ x.sslot = r.slot ∧ x.valid = true ∧
      (en ≠ 10 → x.iter.toNat = r.iter % 256 ∧ x.dsv = r.dsv ∧ x.cert = r.cert ∧ x.vec = resultVec (structOf s r.slot) r ∧
        x.wc.toNat = (r.wc + (phasesOf s r).fin) % 2 ^ 64) ∧
      (∀ j, j ≠ (if r.host.isSome then 2 else q.nextRb) → tblGet w.rb j {} = tblGet q.rb j {}) ∧
      (w.usable = true ↔ q.usable = true ∧ ¬(r.host = none ∧ (st = 2 ∨ st = 3 ∨ st = 4))) ∧ w.data = q.data ∧ w.store = q.store ∧
      (r.host = none → w.nextRb = 1 - q.nextRb) ∧ (srcGet t 194).pend = true ∧ t.pimg = s.pimg ∧
      (st = 4 → Counted bSOLV 2 s t) ∧
      (∀ d, r.host = some d → Answered d (resultStatus x) (resultData x) t ∧ t.solv.held = s.solv.held) ∧
      (r.host = none → st ≠ 4 → en.toNat < 3 ∨ en = 8 → ∃ h ∈ t.solv.held, h.task = task ∧ h.slot = r.slot ∧ h.rb = q.nextRb ∧
        (h.publish = true ↔ en.toNat ≤ 2 ∧ (st = 0 ∨ (st = 1 ∧ 1 ≤ r.iter)))))) ∧
  (∀ (m : LongMaster) (s : State), (∀ e, slotNow s (match m with | .solv => 15 | .parc => 16) = some e → e.flags.testBit 1 = false) →
    Gives (.pubSlot m) s (fun t => t = s)) ∧
  ∀ (h : SHeld) (e : SlotE) (s : State), slotNow s 15 = some e → e.flags.testBit 1 = true → s.solv.held = [h] → h.pubMfn = s.sched.mfn →
    let q := slotGet s h.slot
    let st := structOf s h.slot
    let x := tblGet q.rb h.rb {}
    let y : SResult := { x with flags := x.flags ||| 0x10 }
    let posted := fun (x : SResult) (t : State) => st.ring < 64 → ∃ c ∈ t.hif.waiting, c.ring = st.ring ∧ c.unsol = true ∧
      c.status = BitVec.ofNat 8 (resultStatus x) ∧ c.data = BitVec.ofNat 64 (resultData x) ∧ c.src = BitVec.ofNat 8 bSOLV
    (h.publish = false → Gives (.pubSlot .solv) s (fun t => t.solv.held = [] ∧ t.pimg = s.pimg ∧ posted x t ∧
      ∀ k, slotGet t k = slotGet s k)) ∧
    ∀ b : PubBind, h.publish = true → enOf s bSOLV = true → frozenM s 15 = false → enginesRun s = true → st.pubbind = [b] →
      b.point < 131072 → (workPt s b.point).typ = 7 → (workPt s b.point).owner = 15 → (workPt s b.point).qual ≠ qFORCED →
      inWindow s 15 (viewOut b.point) 16 true = true → Gives (.pubSlot .solv) s (fun t =>
        t.solv.held = [] ∧ (workPt t b.point).value = mulF (vget x.vec b.src) b.scale ∧ (workPt t b.point).qual = qGOOD ∧
        (∀ p, p ≠ b.point → workPt t p = workPt s p) ∧ t.pimg.frozen = s.pimg.frozen ∧
        (tblGet (slotGet t h.slot).rb h.rb {}).flags = x.flags ||| 0x10 ∧ (slotGet t h.slot).store = q.store ∧ posted y t ∧
        (inWindow s 15 (rbAddr st h.rb + 6) 1 true = true → tblGet t.dram (rbAddr st h.rb + 6) 0 = y.flags) ∧
        (st.kind = kNEWTON → s.parc.hslot = h.slot → s.parc.cfgSt = 2 → t.parc.fresh = true ∧
          t.parc.flowIn = s.parc.segs.map fun g => toF32 (mulF (vget x.vec g.branch) s.parc.flowScale)) ∧
        (st.kind ≠ kNEWTON → t.parc = s.parc))

/-- STRUCTURE_LOAD and the solver descriptors (R117, R126 to R141). -/
def Obligations.StructuresAndSolverDescriptors : Prop :=
  (∀ (k : Fin 4) (s : State), (slotGet s k).st ≠ 1 → Gives (.structureLoad k) s (fun t => t = s)) ∧
  (∀ (k : Fin 4) (s : State), let q := slotGet s k
    let e := loadErr { im := theImage s, k := k.val, others := otherStructs s k, typ := fun p => (workPt s p).typ } q.loading
    q.st = 1 → (∀ d, q.reload = some d → d ∈ (ringGet s d.ring).started) → Gives (.structureLoad k) s (fun t => let w := slotGet t k
      (∀ j, j ≠ k.val → slotGet t j = slotGet s j) ∧ w.dsv = q.dsv ∧ w.rseq = q.rseq ∧ w.usable = q.usable ∧ t.pimg = s.pimg ∧
      (e = 0 → w.st = 2 ∧ w.loadErr = 0 ∧ w.desc = some (parseStruct q.loading) ∧ w.data = initData q.loading (parseStruct q.loading) ∧
        (q.reload = none → t.blk = s.blk) ∧ ∀ d, q.reload = some d → Answered d stOK 0 t) ∧
      (e ≠ 0 → w.st = 3 ∧ w.loadErr = BitVec.ofNat 8 e ∧ InLantern 0x0601 s t ∧ (s.recs.lfrozen = false → s.recs.queue.length < 64 → Counted bSOLV 0 s t) ∧
        ∀ d, q.reload = some d → Answered d stRANGE e t))) ∧
  ∀ (d : HostDesc) (s : State), let k := d8 d 16
    let q := slotGet s k
    let refused := fun (i : Instr) (c st n : Nat) => Gives i s (fun t => Answered d st n t ∧ Counted bSOLV c s t ∧ t.solv = s.solv)
    (Reaches 0x20 d s → k ≤ 3 → d32 d 20 = 1 → d64 d 24 % 16 = 0 →
      let p := deltaPair d.buf 0
      (q.st = 2 → q.writing = none → q.deltas = [] → pairBad (structOf s k) p = false → deltaOpps s = 0 → Gives (.solvDelta d) s (fun t =>
        slotGet t k = { q with writing := some { desc := d, left := 1, mfn := s.sched.mfn } } ∧ (∀ j, j ≠ k → slotGet t j = slotGet s j) ∧
        t.hif.waiting = s.hif.waiting)) ∧
      (q.st = 2 → q.writing = none → q.deltas = [] → pairBad (structOf s k) p = false → 1 ≤ deltaOpps s → Gives (.solvDelta d) s (fun t =>
        (slotGet t k).writing = none ∧ (slotGet t k).deltas = [] ∧ priorOf t (slotGet t k) = priorOf s q ∧
        Answered d stOK ((q.dsv.toNat + 1) % 2 ^ 32) t ∧ (slotGet t k).dsv = q.dsv + 1 ∧ dGet (slotGet t k).data p.2.1 p.1 = p.2.2 ∧
        (∀ a i, i < 2 ^ 32 → (a, i) ≠ (p.2.1, p.1) → dGet (slotGet t k).data a i = dGet q.data a i) ∧
        (∀ j, j ≠ k → slotGet t j = slotGet s j) ∧ t.solv.runs = s.solv.runs)) ∧
      (∀ w, q.st = 2 → q.writing = some w → 0 < w.left → deltaOpps s = 0 → Gives (.solvDelta d) s (fun t =>
        slotGet t k = { q with deltas := q.deltas ++ [d] } ∧ (∀ j, j ≠ k → slotGet t j = slotGet s j) ∧ t.hif.waiting = s.hif.waiting)) ∧
      (q.st = 2 → q.writing = none → q.deltas = [] → pairBad (structOf s k) p = true → Gives (.solvDelta d) s (fun t =>
        Answered d stRANGE 0 t ∧ Counted bSOLV 1 s t ∧ (∀ j, slotGet t j = slotGet s j) ∧ { t.solv with slots := s.solv.slots } = s.solv)) ∧
      (q.st ≠ 2 → refused (.solvDelta d) 1 stNOT_READY 0)) ∧
    (Reaches 0x21 d s → ∀ x : LTask, solvTask s (d16 d 20) = some x →
      (x.sslot = k → k ≤ 3 → d64 d 24 ≠ 0 → runOf s x.task = none → q.st = 2 → Gives (.solvRun d) s (fun t =>
        t.solv = { s.solv with hostRuns := s.solv.hostRuns ++ [d] } ∧ t.hif.waiting = s.hif.waiting)) ∧
      (x.sslot = k → k ≤ 3 → d64 d 24 ≠ 0 → runOf s x.task ≠ none → refused (.solvRun d) 5 stBUSY 0) ∧
      (x.sslot ≠ k ∨ d64 d 24 = 0 → refused (.solvRun d) 6 stRANGE 0)) ∧
    (Reaches 0x22 d s →
      (∀ r, runOf s (d16 d 20) = some r →
        (inProgress s r = true → d64 d 24 < r.budget → Gives (.solvCut d) s (fun t => Answered d stOK 0 t ∧ (∀ j, slotGet t j = slotGet s j) ∧
          ∃ x, runOf t (d16 d 20) = some x ∧ x.budget = d64 d 24 ∧ x.hostCut = true ∧ x.slot = r.slot ∧ x.iter = r.iter ∧
            (d64 d 24 ≤ elapsedNow s r → x.ended = some (1, 3)) ∧
            (elapsedNow s r < d64 d 24 → inStart s r = false → x = { r with budget := d64 d 24, hostCut := true }))) ∧
        (inProgress s r = true → r.budget ≤ d64 d 24 → refused (.solvCut d) 6 stRANGE 0) ∧
        (inProgress s r = false → refused (.solvCut d) 6 stNOT_READY 0)) ∧
      (runOf s (d16 d 20) = none → refused (.solvCut d) 6 stNOT_READY 0)) ∧
    (Reaches 0x23 d s → k ≤ 3 → q.st ≠ 1 →
      let inside := d32 d 20 ≤ q.rseq.toNat ∧ d8 d 17 ≤ 1 ∧ d32 d 24 + d32 d 28 ≤ vlen (structOf s k)
      (∀ (x : SResult) (n : Nat), n ≤ 2 → tblGet q.rb n {} = x → x.valid = true → x.rseq.toNat = d32 d 20 →
        (∀ j, j ≤ 2 → j ≠ n → (tblGet q.rb j {}).rseq ≠ x.rseq) → inside →
        let a := rbAddr (structOf s k) n + if d8 d 17 = 0 then 0 else 128 + 8 * d32 d 24
        let len := if d8 d 17 = 0 then 128 else 8 * d32 d 28
        Gives (.solvRead d) s (fun t => t.solv = s.solv ∧
          ((slotOpen s = true ∧ Answered d stOK len t ∧ Delivered (dAddr d) (dramRead s a len) s t) ∨
           (¬(slotOpen s = true ∧ d8 d 17 = 1 ∧ d32 d 28 ≤ 1) ∧ t.hif.waiting = s.hif.waiting ∧
            t.hif.copies = s.hif.copies ++ [{ desc := d, begun := slotOpen s }])))) ∧
      (¬inside → refused (.solvRead d) 6 stRANGE 0) ∧
      (inside → (∀ n, n ≤ 2 → (tblGet q.rb n {}).valid = false ∨ (tblGet q.rb n {}).rseq.toNat ≠ d32 d 20) →
        refused (.solvRead d) 4 stDROPPED 0)) ∧
    (Reaches 0x24 d s → k ≤ 3 →
      (∀ b, q.st = 2 ∨ q.st = 3 → sectAt (theImage s) 0x20 k = some b → q.deltas = [] → q.writing = none → Gives (.solvReload d) s (fun t =>
        (slotGet t k).st = 1 ∧ (slotGet t k).loading = b ∧ (slotGet t k).reload = some d ∧ (slotGet t k).usable = false ∧
        (slotGet t k).dsv = q.dsv ∧ (slotGet t k).rseq = q.rseq ∧ (∀ r ∈ t.solv.runs, r.slot = k → r.ended.isSome = true) ∧
        t.hif.waiting = s.hif.waiting ∧ ∀ j, j ≠ k → slotGet t j = slotGet s j)) ∧
      (q.st = 1 → refused (.solvReload d) 6 stBUSY 0) ∧ (q.st = 0 → refused (.solvReload d) 6 stNOT_READY 0))

/-! ### Heat transport (05_thermal_transport.md) -/

/-- LONG_SLOT and PUB_SLOT of PARC, PARCEL_STEP_COMMIT, PARCCFG_LOAD, PARC_SET and PARC_READ. -/
def Obligations.ParcelStepsCommitAndPublish : Prop :=
  (∀ (i : Nat) (e : SlotE) (k : LTask) (s : State), activeSlot s i = some e → e.flags.testBit 0 = true → e.master = 16 →
    parcTask s = some k → e.task = k.task →
    (s.sched.committed = true → Gives (.longSlot i) s (fun t => t = s)) ∧
    (s.sched.committed = false → enginesRun s = true → frozenM s 16 = false → enOf s bPARC = true →
    firstOccurrence s 16 k.task i = true → captureFrame s k = true → s.parc.flowIn.length = s.parc.segs.length →
    (s.parc.cfgSt = 2 → (∀ p ∈ capturePts s.parc, inWindow s 16 (viewIn p) 16 false = true) → Gives (.longSlot i) s (fun t =>
      t.parc.segs = s.parc.segs ∧ t.parc.nodes = s.parc.nodes ∧ t.parc.amb = s.parc.amb ∧ t.parc.watch = s.parc.watch ∧
      t.parc.mstep = s.parc.mstep ∧ t.pimg = s.pimg ∧ t.parc.pend = (s.parc.pend.filter fun p => p.mfn == s.sched.mfn) ∧
      t.parc.fresh = false ∧ t.parc.doneMfn = none ∧
      ∃ c, t.parc.step = some c ∧ c.mfn = s.sched.mfn ∧ c.wc = 0 ∧ c.occ = some { mfn := s.sched.mfn, start := e.start, work := workOf s e } ∧
        c.noPub = false ∧ c.pairs = (s.parc.pend.filter fun p => p.mfn != s.sched.mfn) ∧ c.took = s.parc.fresh ∧
        c.segs.length = s.parc.segs.length ∧ c.amb.length = s.parc.amb.length ∧ c.watch.length = s.parc.watch.length ∧
        (∀ j, j < s.parc.segs.length → let g := s.parc.segs.getD j {}
          let h := c.segs.getD j {}
          h.parcels = g.parcels ∧ h.volume = g.volume ∧ h.flow = if s.parc.fresh then s.parc.flowIn.getD j 0 else g.flow) ∧
        ∀ p, s.parc.pend = [p] → let old := p.mfn = s.sched.mfn
          (p.field = 1 → p.index < s.parc.segs.length → (c.segs.getD p.index {}).lambda =
            if old then (s.parc.segs.getD p.index {}).lambda else toF32 p.value) ∧
          (p.field = 2 → p.index < s.parc.amb.length → (c.amb.getD p.index (0, 0)).2 =
            if old then (s.parc.amb.getD p.index (0, 0)).2 else toF32 p.value) ∧
          (p.field = 3 → p.index < s.parc.watch.length → (c.watch.getD p.index {}).limit =
            if old then (s.parc.watch.getD p.index {}).limit else toF32 p.value))) ∧
    (s.parc.cfgSt ≠ 2 → s.parc.step = none → Gives (.longSlot i) s (fun t => Counted bPARC 1 s t ∧ t.pimg = s.pimg ∧
      t.parc = { s.parc with stepSt := 1, doneMfn := none, lastPub := false })))) ∧
  (∀ (c : PCapture) (s : State), s.parc.step = some c → let r := s.parc
    let e := parcStep r c
    (e.ok = true → Gives .parcelStepCommit s (fun t => let u := t.parc
      u.mstep = r.mstep + 1 ∧ u.step = none ∧ u.stepSt = 0 ∧ u.doneMfn = (if c.noPub then none else some c.mfn) ∧ u.doneSubst = c.subst ∧
      { t with parc := s.parc, free := s.free } = s ∧ u.nodes.length = r.nodes.length ∧ u.segs.length = c.segs.length ∧ u.amb = c.amb ∧
      (∀ j, j < r.nodes.length → let n := r.nodes.getD j {}
        let m := u.nodes.getD j {}
        m.fixed = n.fixed ∧ (n.fixed = true → m.age = 0 ∧
          m.temp = match c.nodes.getD j none with | some v => toF32 v | none => n.temp) ∧
        (n.fixed = false → m.noflow = true → m.temp = n.temp)) ∧
      (∀ j, j < c.segs.length → let g := c.segs.getD j {}
        let h := u.segs.getD j {}
        h.volume = g.volume ∧ h.lambda = g.lambda ∧ h.flow = g.flow ∧ h.src = g.src ∧ h.dst = g.dst ∧
        h.stagnant = ltF (absF (ofF32 g.flow)) (ofF32 r.qZero) ∧
        (h.stagnant = true → h.head = g.head ∧ h.parcels.length = g.parcels.length) ∧
        (1 ≤ g.pcap → g.parcels.length ≤ g.pcap → h.parcels.length ≤ g.pcap)) ∧
      ∀ j, j < c.watch.length → c.watches.length = c.watch.length → r.resid.length = c.watch.length →
        let w := c.watch.getD j {}
        let v := u.watch.getD j {}
        let x := u.resid.getD j 0
        let call := if w.st then leF x (ofF32 w.limit) else ltF (ofF32 w.limit) x
        v.limit = w.limit ∧ v.pers = w.pers ∧
        (w.kind = 1 ∨ w.kind = 2 → c.watches.getD j none = none → v = w) ∧
        (w.kind = 0 ∨ ((w.kind = 1 ∨ w.kind = 2) ∧ (c.watches.getD j none).isSome = true) → 0 < w.pers →
          (call = false → v.st = w.st ∧ v.cnt = 0) ∧ (call = true → w.cnt + 1 ≠ w.pers → v.st = w.st ∧ v.cnt = w.cnt + 1) ∧
          (call = true → w.cnt + 1 = w.pers → v.st = !w.st ∧ v.cnt = 0 ∧ tblGet u.almChg j false = true)))) ∧
    (e.ok = false → Gives .parcelStepCommit s (fun t => t.parc = { r with
        step := none, stepSt := 2, pend := c.pairs ++ r.pend, fresh := r.fresh || c.took, wc := BitVec.ofNat 32 (c.wc + occNow s c.occ) } ∧ Counted bPARC 2 s t ∧
      t.pimg = s.pimg))) ∧
  (∀ s : State, s.parc.cfgSt = 1 → let b := s.parc.loading
    let e := parcErr s b
    (e = 0 → Gives .parccfgLoad s (fun t => t.parc.cfgSt = 2 ∧ t.parc.mstep = s.parc.mstep ∧ t.parc.step = none ∧
      t.parc.segs.length = u32 b 4 ∧ t.parc.nodes.length = u32 b 8 ∧ t.parc.psig = BitVec.ofNat 64 (u64 b 0x20) ∧
      { t with parc := s.parc } = s ∧
      ∀ g ∈ t.parc.segs, g.parcels = [{ vol := g.volume, temp := (t.parc.nodes.getD g.src {}).temp, age := 0 }])) ∧
    (e ≠ 0 → Gives .parccfgLoad s (fun t => t.parc.cfgSt = 3 ∧ t.parc.loadErr = BitVec.ofNat 8 e ∧ t.parc.segs = s.parc.segs ∧
      InLantern 0x0701 s t ∧ cntOf t bPARC 0 = satInc (cntOf s bPARC 0)))) ∧
  (∀ (m : W64) (k : LTask) (e : SlotE) (s : State), slotNow s 16 = some e → e.flags.testBit 1 = true → s.parc.doneMfn = some m → parcTask s = some k →
    (m + BitVec.ofNat 64 k.pubOff ≠ s.sched.mfn → Gives (.pubSlot .parc) s (fun t => t = s)) ∧
    (m + BitVec.ofNat 64 k.pubOff = s.sched.mfn →
      (enOf s bPARC = false ∨ frozenM s 16 = true ∨ enginesRun s = false → Gives (.pubSlot .parc) s (fun t => t.pimg = s.pimg ∧
        t.parc = { s.parc with doneMfn := none })) ∧
      ∀ b : ParcBind, enOf s bPARC = true → frozenM s 16 = false → enginesRun s = true → s.parc.pubs = [b] → b.point < 131072 →
        (workPt s b.point).typ = 7 → (workPt s b.point).owner = 16 → (workPt s b.point).qual ≠ qFORCED →
        inWindow s 16 (viewOut b.point) 16 true = true → Gives (.pubSlot .parc) s (fun t =>
          (workPt t b.point).value = mulF (parcOutput s.parc b) b.scale ∧
          (workPt t b.point).qual = (if s.parc.doneSubst then qSUBST else qGOOD) ∧ t.pimg.frozen = s.pimg.frozen ∧
          (∀ p, p ≠ b.point → workPt t p = workPt s p) ∧
          t.parc = { s.parc with doneMfn := none, lastPub := true, substPub := s.parc.doneSubst }))) ∧
  ∀ (d : HostDesc) (s : State),
    let refused := fun (i : Instr) (st n : Nat) => Gives i s (fun t => Answered d st n t ∧ Counted bPARC 4 s t ∧ t.parc = s.parc)
    let p := parcPairOf s d.buf 0
    let first := d32 d 20
    let n := d32 d 24
    (Reaches 0x30 d s → d32 d 20 = 1 → d64 d 24 % 16 = 0 →
      (s.parc.cfgSt = 2 → parcPairBad s.parc p = false → s.parc.pend.length < 1024 → s.hif.inSlot = false ∨ s.hif.closed = true → Gives (.parcSet d) s (fun t =>
        t.hif.todo = s.hif.todo ++ [d] ∧ t.hif.waiting = s.hif.waiting ∧ t.parc = s.parc)) ∧
      (s.parc.cfgSt = 2 → parcPairBad s.parc p = false → s.parc.pend.length < 1024 → s.hif.inSlot = true → s.hif.closed = false → Gives (.parcSet d) s (fun t =>
        Answered d stOK (s.parc.pend.length + 1) t ∧ t.parc = { s.parc with pend := s.parc.pend ++ [p] })) ∧
      (s.parc.cfgSt = 2 → parcPairBad s.parc p = false → 1024 ≤ s.parc.pend.length → refused (.parcSet d) stBUSY 0) ∧
      (s.parc.cfgSt = 2 → parcPairBad s.parc p = true → refused (.parcSet d) stRANGE 0) ∧
      (s.parc.cfgSt ≠ 2 → refused (.parcSet d) stNOT_READY 0)) ∧
    (Reaches 0x31 d s →
      let len := match d8 d 16 with | 0 => s.parc.nodes.length | 1 => s.parc.segs.length | 2 => s.parc.npar | _ => s.parc.watch.length
      (s.parc.step = none → d8 d 16 ≤ 3 → first + n ≤ len → Gives (.parcRead d) s (fun t => t.parc = s.parc ∧
        ((slotOpen s = true ∧ Answered d stOK ((if d8 d 16 = 1 then 32 else 16) * n) t ∧
          (d8 d 16 = 0 → Delivered (dAddr d) (((s.parc.nodes.drop first).take n).map nodeBytes).flatten s t) ∧
          (d8 d 16 = 1 → Delivered (dAddr d) (((s.parc.segs.drop first).take n).map segBytes).flatten s t) ∧
          (d8 d 16 = 2 → ∃ b : Bytes, b.length = 16 * n ∧ Delivered (dAddr d) b s t ∧ ∀ i g, i < n → g ∈ s.parc.segs → g.pbase = first + i →
            (∀ h ∈ s.parc.segs, h ≠ g → first + i < h.pbase ∨ h.pbase + h.pcap ≤ first + i) → g.head = 0 → 0 < g.parcels.length →
            0 < g.pcap → slice b (16 * i) 16 = parcelBytes (g.parcels.getD 0 {})) ∧
          (d8 d 16 = 3 → Delivered (dAddr d) (((s.parc.watch.drop first).take n).map watchBytes).flatten s t)) ∨
         (¬(slotOpen s = true ∧ n ≤ 1) ∧ t.hif.waiting = s.hif.waiting ∧ t.hif.copies = s.hif.copies ++ [{ desc := d, begun := slotOpen s }])))) ∧
      (s.parc.step = none → 3 < d8 d 16 ∨ len < first + n → refused (.parcRead d) stRANGE 0) ∧
      ((s.parc.step).isSome = true → refused (.parcRead d) stBUSY 0))

/-! ### Loops and axes (08_loops_and_axes.md) -/

/-- LOOP_OCCURRENCE and the loop descriptors (R230 to R245). That the first AUTO sample after SPTRK has y as its target is the
model's reading (log entry 76). -/
def Obligations.LoopsSampleWhenDue : Prop :=
  (∀ (e : Fin 4) (s : State),
    (inSlotOf s (10 + e.val) = false ∨ enginesRun s = false ∨ enOf s bLOOP = false ∨ frozenM s (10 + e.val) = true →
      Gives (.loopOccurrence e) s (fun t => t = s)) ∧
    Gives (.loopOccurrence e) s (fun t => (∀ j, loopDue s (lcfg s e j) = false → lstGet t e j = lstGet s e j) ∧
      (∀ f j, f ≠ e.val → lstGet t f j = lstGet s f j) ∧ t.pimg.frozen = s.pimg.frozen ∧
      ∀ p, (∀ j, j < nloop s e → loopDue s (lcfg s e j) = true → (lcfg s e j).opt ≠ p) → workPt t p = workPt s p)) ∧
  (∀ (e : Fin 4) (i : Nat) (s : State), let c := lcfg s e i
    let x := lstGet s e i
    let y := fun (t : State) => lstGet t e i
    inSlotOf s (10 + e.val) = true → enginesRun s = true → enOf s bLOOP = true → frozenM s (10 + e.val) = false →
    i < nloop s e → loopDue s c = true → (∀ j, j < nloop s e → j ≠ i → loopDue s (lcfg s e j) = false) → s.loops.params = [] →
    (∀ p ∈ loopPoints c, inWindow s (10 + e.val) (viewIn p) 16 false = true) → inWindow s (10 + e.val) (viewOut c.opt) 16 true = true →
    c.opt < 131072 → (workPt s c.opt).typ = 7 → (workPt s c.opt).owner.toNat = 10 + e.val → (workPt s c.opt).qual ≠ qFORCED →
    s.pimg.openSpan = true →
    let written := fun (v : F64) (q : BitVec 3) (t : State) => (workPt t c.opt).value = v ∧ (workPt t c.opt).qual = q
    let ts := loopTs s c
    let wt0 := if lCASC c then (lstGet s e c.outer).u else if c.sppt = noPoint then c.spfix else (inPt s c.sppt).getD (x.spLast.getD c.spfix)
    let ff := if c.ffpt = noPoint then 0 else (inPt s c.ffpt).getD x.ffLast
    let trk := if c.trkpt = noPoint then x.u else (inPt s c.trkpt).getD (x.trkLast.getD x.u)
    let bad := (lCASC c = false ∧ c.sppt ≠ noPoint ∧ inPt s c.sppt = none) ∨ (c.ffpt ≠ noPoint ∧ inPt s c.ffpt = none) ∨
      (c.trkpt ≠ noPoint ∧ inPt s c.trkpt = none)
    let pid := fun (m : F64) (uman : F64) (mode : BitVec 2) (t : State) =>
      let byY := lSPTRK c = true ∧ (mode = 1 ∨ mode = 3)
      let wt := if byY ∨ (x.spTrk = true ∧ mode = 2) then m else wt0
      let q0 : Prof := if byY then { p := m } else if x.inited = true then { p := x.p, v := x.v, a := x.a } else { p := wt }
      let q := if lPROF c = false then { q0 with p := wt } else if byY then q0 else profStep c.vmax c.amax c.jmax ts q0 wt
      let w := if lPROF c then q.p else wt
      let er := if lREV c then negF (subF w m) else subF w m
      let xd := if lDMEAS c then negF (if lREV c then negF m else m) else er
      let p := mulF c.kp er
      let d := divF (addF (mulF c.tf x.d) (mulF c.kd (subF xd (if x.first = true ∨ (x.mode = 0 ∧ mode ≠ 0) then xd else x.xprev)))) (addF c.tf ts)
      let di := mulF (mulF c.ki ts) er
      let raw := addF (addF (addF (addF p x.i) di) d) ff
      let i := addF x.i (if (ltF c.umax raw && ltF fzero di) || (ltF raw c.umin && ltF di fzero) then fzero else di)
      let u := clampF c.umin c.umax (if mode = 1 then uman else if mode = 3 then trk else addF (addF (addF p i) d) ff)
      let above := ltF c.felim (absF (subF w m))
      let cnt := if above = x.fe then 0 else x.feCnt.toNat + 1
      let n := y t
      n.mode = mode ∧ (cntOf t bLOOP 1 = if bad then satInc (cntOf s bLOOP 1) else cntOf s bLOOP 1) ∧ cntOf t bLOOP 0 = cntOf s bLOOP 0 ∧
      ((n.hold = true ∧ n.i = x.i ∧ n.d = x.d ∧ written x.u qSUBST t ∧ cntOf t bLOOP 3 = satInc (cntOf s bLOOP 3)) ∨
        (n.hold = false ∧ n.e = er ∧ n.pp = p ∧ n.d = d ∧ n.xprev = xd ∧ n.u = u ∧ n.y = m ∧ n.w = w ∧ n.wt = wt ∧ n.first = false ∧
          n.i = (if mode = 2 then i else subF (subF (subF u p) d) ff) ∧ written u qGOOD t ∧ cntOf t bLOOP 3 = cntOf s bLOOP 3 ∧
          (mode ≠ 2 → n.fe = x.fe ∧ n.feCnt = x.feCnt) ∧
          (mode = 2 → cnt = c.fecnt → n.fe = !x.fe ∧ n.feCnt = 0 ∧ n.feMan = (!x.fe && lFEHOLD c)) ∧
          (mode = 2 → cnt ≠ c.fecnt → n.fe = x.fe ∧ n.feCnt = BitVec.ofNat 16 cnt)))
    let held := fun (mode : BitVec 2) (t : State) => (y t).mode = mode ∧ (y t).hold = true ∧ (y t).i = x.i ∧ (y t).d = x.d ∧
      (y t).xprev = x.xprev ∧ (y t).feCnt = x.feCnt ∧ (y t).u = x.u ∧ written x.u qSUBST t ∧
      cntOf t bLOOP 0 = satInc (cntOf s bLOOP 0) ∧ (cntOf t bLOOP 1 = if bad then satInc (cntOf s bLOOP 1) else cntOf s bLOOP 1)
    let sampled := fun (mode : BitVec 2) (uman : F64) (ends : State → Prop) =>
      (mode = 0 → Gives (.loopOccurrence e) s (fun t => t.pimg = s.pimg ∧ (∀ k, cntOf t bLOOP k = cntOf s bLOOP k) ∧ (y t).mode = 0 ∧
        (y t).i = x.i ∧ (y t).d = x.d ∧ (y t).u = x.u ∧ ends t)) ∧
      (∀ m, mode ≠ 0 → inPt s c.mpt = some m → Gives (.loopOccurrence e) s (fun t => pid m uman mode t ∧ ends t)) ∧
      (mode ≠ 0 → inPt s c.mpt = none → Gives (.loopOccurrence e) s (fun t => held mode t ∧ ends t))
    let free := ∀ k, innerOf s e i = some k → (lstGet s e k).mode = 2 ∧ (lstGet s e k).hold = false ∧
      (lstGet s e k).satHi = false ∧ (lstGet s e k).satLo = false
    (free → c.modept = noPoint → x.req = none → x.feMan = false → sampled x.mode c.uman fun _ => True) ∧
    (free → c.modept = noPoint → x.req = none → x.feMan = true → sampled 1 x.u fun _ => True) ∧
    (free → c.modept ≠ noPoint → x.req = none → usableQ (frozenPt s c.modept) = true → (frozenPt s c.modept).typ = 2 → ∀ m : BitVec 2,
      (frozenPt s c.modept).value.toNat % 2 ^ 32 = m.toNat → sampled m (if x.mode = 2 ∧ m = 1 then x.u else c.uman) fun _ => True) ∧
    (∀ d : HostDesc, free → c.modept = noPoint → x.req = some d → d ∈ (ringGet s d.ring).started → d8 d 18 ≤ 3 →
      d.signed = none → auditCode (dOp d) = none →
      let mode := BitVec.ofNat 2 (d8 d 18)
      sampled mode (if (d8 d 19).testBit 0 = true then BitVec.ofNat 64 (d64 d 24) else if x.mode = 2 ∧ mode = 1 then x.u else c.uman) fun t =>
        Answered d stOK s.sched.mfn.toNat t ∧ (y t).req = none) ∧
    ∀ (k : Nat) (m : F64), innerOf s e i = some k → (lstGet s e k).mode ≠ 2 ∨ (lstGet s e k).hold = true → lSPTRK (lcfg s e k) = false →
      c.modept = noPoint → x.req = none → x.feMan = false → x.mode = 2 → inPt s c.mpt = some m →
      Gives (.loopOccurrence e) s (fun t => (y t).u = x.u ∧ ((y t).hold = true ∨ ((y t).tracking = true ∧ written x.u qGOOD t)))) ∧
  ∀ (d : HostDesc) (s : State),
    let refused := fun (i : Instr) (st n : Nat) => Gives i s (fun t => Answered d st n t ∧ Counted bLOOP 4 s t ∧ t.loops = s.loops)
    let g := d16 d 16
    let e := d8 d 16
    let x := lstGet s (g / 128) (g % 128)
    (Reaches 0x38 d s →
      (d8 d 18 ≤ 3 → g < 512 → g % 128 < nloop s (g / 128) → (lcfg s (g / 128) (g % 128)).modept = noPoint →
        Gives (.loopMode d) s (fun t => lstGet t (g / 128) (g % 128) = { x with req := some d } ∧
          (∀ f j, ¬(f = g / 128 ∧ j = g % 128) → lstGet t f j = lstGet s f j) ∧
          (x.req = none → t.hif.waiting = s.hif.waiting) ∧
          ∀ o, x.req = some o → o ≠ d → o ∈ (ringGet s o.ring).started → Answered o stDROPPED 0 t)) ∧
      (3 < d8 d 18 ∨ 511 < g → refused (.loopMode d) stRANGE 0) ∧
      (d8 d 18 ≤ 3 → g < 512 → nloop s (g / 128) ≤ g % 128 → refused (.loopMode d) stNOT_READY 0) ∧
      (d8 d 18 ≤ 3 → g < 512 → g % 128 < nloop s (g / 128) → (lcfg s (g / 128) (g % 128)).modept ≠ noPoint →
        refused (.loopMode d) stLOCKED 0)) ∧
    (Reaches 0x39 d s → let ps := loopPairs d
      let good := 1 ≤ d32 d 20 ∧ d32 d 20 ≤ 1024 ∧ d64 d 24 % 16 = 0
      let absent := ∃ q ∈ ps, q.loop < 512 ∧ nloop s (q.loop / 128) ≤ q.loop % 128
      (¬good → refused (.loopParam d) stRANGE 0) ∧ (good → absent → refused (.loopParam d) stNOT_READY 0) ∧
      (good → ¬absent → (∀ q ∈ ps, loopPairBad s ps q = false) → Gives (.loopParam d) s (fun t => t.loops = { s.loops with
        params := s.loops.params ++ [{ desc := d, pairs := ps }] } ∧ t.hif.waiting = s.hif.waiting)) ∧
      (∀ (k : Nat) (q : LoopPair), good → ¬absent → ps[k]? = some q → loopPairBad s ps q = true → (∀ r ∈ ps.take k, loopPairBad s ps r = false) →
        refused (.loopParam d) stRANGE k) ∧
      ∀ q : LoopPair, 511 < q.loop ∨ q.field = 0 ∨ 13 < q.field ∨ nanF q.value = true → loopPairBad s ps q = true) ∧
    (Reaches 0x3A d s →
      let r := (lpGet s e).trace
      let nodes := traceNodes d.buf
      let done := fun (v : Trace) (t : State) => Answered d stOK 0 t ∧ (lpGet t e).trace = v ∧ (lpGet t e).st = (lpGet s e).st ∧
        (lpGet t e).cfgs = (lpGet s e).cfgs
      (3 < e ∨ 2 < d8 d 17 → refused (.loopTrace d) stRANGE 0) ∧
      (e ≤ 3 → d8 d 17 ≤ 2 → nloop s e = 0 → refused (.loopTrace d) stNOT_READY 0) ∧
      (e ≤ 3 → nloop s e ≠ 0 →
        (d8 d 17 = 0 → Gives (.loopTrace d) s (done { r with st := 0 })) ∧
        (d8 d 17 = 2 → r.st ≠ 1 → Gives (.loopTrace d) s (done r)) ∧
        (d8 d 17 = 2 → r.st = 1 → Gives (.loopTrace d) s (done { r with st := if 4096 ≤ r.pre then 3 else 2, left := 4096 - r.pre })) ∧
        (d8 d 17 = 1 → r.st = 1 ∨ r.st = 2 → refused (.loopTrace d) stBUSY 0) ∧
        (d8 d 17 = 1 → ¬(r.st = 1 ∨ r.st = 2) →
          let inRange := d16 d 18 ≤ 4095 ∧ d16 d 20 ≠ 0 ∧ d8 d 22 ≤ 2 ∧ ∀ n ∈ nodes, n.sig ≤ 7
          (¬inRange → refused (.loopTrace d) stRANGE 0) ∧
          (inRange → (∃ n ∈ nodes, nloop s e ≤ n.loop) → refused (.loopTrace d) stNOT_READY 0) ∧
          (inRange → (∀ n ∈ nodes, n.loop < nloop s e) → Gives (.loopTrace d) s
            (done { nodes := nodes, st := 1, pre := d16 d 18, tdiv := d16 d 20, tsrc := d8 d 22 }))))) ∧
    (Reaches 0x3B d s → let w := d8 d 17
      let f := d32 d 20
      let n := d32 d 24
      let tr := (lpGet s w).trace
      let copied := fun (b : Bytes) => Gives (.loopRead d) s (fun t => Answered d stOK 0 t ∧ t.loops = s.loops ∧ Delivered (dAddr d) b s t)
      (2 < d8 d 16 ∨ 3 < w → refused (.loopRead d) stRANGE 0) ∧
      (d8 d 16 ≤ 1 → w ≤ 3 → f + n ≤ nloop s w → f + n ≤ 128 → copied ((List.range n).map fun j =>
          if d8 d 16 = 0 then loopCfgBytes (lcfg s w (f + j)) else loopStBytes (lstGet s w (f + j))).flatten) ∧
      (d8 d 16 ≤ 1 → w ≤ 3 → 128 < f + n → refused (.loopRead d) stRANGE 0) ∧
      (d8 d 16 ≤ 1 → w ≤ 3 → f + n ≤ 128 → nloop s w < f + n → refused (.loopRead d) stNOT_READY 0) ∧
      (d8 d 16 = 2 → w ≤ 3 → tr.st = 1 ∨ tr.st = 2 → refused (.loopRead d) stBUSY 0) ∧
      (d8 d 16 = 2 → w ≤ 3 → ¬(tr.st = 1 ∨ tr.st = 2) → min tr.cnt 4096 < f + n → refused (.loopRead d) stRANGE 0) ∧
      (d8 d 16 = 2 → w ≤ 3 → ¬(tr.st = 1 ∨ tr.st = 2) → f + n ≤ min tr.cnt 4096 → copied ((List.range 8).map fun k =>
        ((List.range n).map fun j => leBytes 2 (traceEntry tr k (f + j)).toNat).flatten).flatten))

/-- AXIS_STEP, DRIVER_STATUS, AXIS_SLOT and AXIS_CMD (R246 to R260). -/
def Obligations.AxesStepAndFollowTheirTargets : Prop :=
  (∀ (n : Fin 16) (s : State), let a := axGet s n
    (a.vel = 0 ∨ frozenM s 14 = true → Gives (.axisStep n) s (fun t => t = s)) ∧
    (a.vel ≠ 0 → frozenM s 14 = false → Gives (.axisStep n) s (fun t => axGet t n = { a with pos := if 0 < a.vel.toInt then a.pos + 1 else a.pos - 1 } ∧
      (∀ k, k ≠ n.val → axGet t k = axGet s k) ∧ { t with axis := s.axis, out := s.out } = s ∧
      (drives s = true → t.out = .step n (decide (0 < a.vel.toInt) != (axCfg s n).dirinv) :: s.out) ∧
      (drives s = false → t.out = s.out))) ∧
    ∀ (inTime : Bool) (load st seq crc : Byte), Gives (.driverStatus n inTime load st seq crc) s (fun t =>
      axGet t n = { a with got := if inTime = true ∧ crcL 7 8 0 [load, st, seq] = crc.toNat then some (load, st) else a.got } ∧
      (∀ k, k ≠ n.val → axGet t k = axGet s k) ∧ { t with axis := s.axis } = s)) ∧
  (∀ (n : Nat) (l : Byte) (s : State), let a := axGet s n
    let c := axCfg s n
    let b := fun (t : State) => axGet t n
    let v := (tgtRead s n).1
    let ok := (tgtRead s n).2
    inSlotOf s 14 = true → enginesRun s = true → frozenM s 14 = false → enOf s bAXIS = true →
    (∀ p ∈ axisPoints s, inWindow s 14 (viewOut p) 16 false = true) → axesOn s = [n] → (∀ g ∈ s.axis.grpCfg, g.mask = 0) →
    (∀ k, (grpGet s k).moving = false) → c.stoppt = noPoint → a.stopWas = false → a.moving = false → a.limiting = false →
    a.vel = 0 → a.fault = false → a.stopped = false → a.stopTo = none → a.pwr = true → a.stallCnt + 1 < c.stallt →
    (a.got = some (l, 1) →
      let sent := fun (t : State) => (b t).load = l ∧ (b t).pos = a.pos ∧ (b t).acc = a.acc ∧ (b t).missed = 0 ∧ (b t).seq = a.seq + 1 ∧
        (b t).got = none ∧ (b t).vel = velFor t (b t) ∧
        (let cmd : Bytes := [0x5A, (b t).iref, BitVec.ofNat 8 (1 + 2 * a.seq.toNat)]
         .driver n (cmd ++ leBytes 1 (crcL 7 8 0 cmd)) ∈ t.out)
      (a.cmds = [] → v = a.taken → atTarget a = true → Gives .axisSlot s (fun t => sent t ∧ (b t).target = a.target ∧
        (b t).moving = false ∧ (b t).prof = a.prof ∧ (b t).posLost = a.posLost)) ∧
      (a.cmds = [] → v ≠ a.taken → ok = true →
        let q := profStep c.vmax c.amax c.jmax (axH s) { p := ofRatioF a.acc.toNat (2 ^ 64) } (ofIntF (v.toInt - (pos64 a).toInt))
        belowLimit c (pos64 a).toInt (stopPoint c.amax c.jmax q) = false → Gives .axisSlot s (fun t => sent t ∧ (b t).target = v ∧
          (b t).taken = v ∧ (b t).tgtLimit = false ∧ (b t).org = pos64 a ∧ (b t).prof = q)) ∧
      (a.cmds = [] → v ≠ a.taken → ok = false → a.refusedT ≠ some v → atTarget a = true → Gives .axisSlot s (fun t => sent t ∧
        (b t).target = a.target ∧ (b t).tgtLimit = true ∧ (b t).moving = false ∧ cntOf t bAXIS 3 = satInc (cntOf s bAXIS 3))) ∧
      ∀ d : HostDesc, a.cmds = [d] → v = a.taken → atTarget a = true → d ∈ (ringGet s d.ring).started → d.signed = none →
        (d8 d 17 = 0 → Gives .axisSlot s (fun t => sent t ∧ Answered d stOK 0 t ∧ (b t).stopped = true ∧ (b t).cmds = [] ∧
          (b t).rem = a.target - pos64 a)) ∧
        (d8 d 17 = 2 → Gives .axisSlot s (fun t => Answered d stOK 0 t ∧ (b t).pos = BitVec.ofNat 48 (d64 d 24) ∧ (b t).acc = 0 ∧
          (b t).posLost = false ∧ (b t).moving = false ∧ (b t).cmds = []))) ∧
    (a.got = none → a.sent = true → a.cmds = [] → v = a.taken → atTarget a = true → a.missed < 2 → Gives .axisSlot s (fun t =>
      (b t).missed = a.missed + 1 ∧ (b t).load = a.load ∧ cntOf t bAXIS 0 = satInc (cntOf s bAXIS 0) ∧ (b t).pos = a.pos))) ∧
  ∀ (d : HostDesc) (s : State), Reaches 0x3C d s → let n := d8 d 16
    let refused := fun (st : Nat) => Gives (.axisCmd d) s (fun t => Answered d st 0 t ∧ Counted bAXIS 5 s t ∧ t.axis = s.axis)
    (n ≤ 15 → d8 d 17 ≤ 3 → (axCfg s n).en = true → Gives (.axisCmd d) s (fun t =>
      axGet t n = { axGet s n with cmds := (axGet s n).cmds ++ [d] } ∧ (∀ k, k ≠ n → axGet t k = axGet s k) ∧
      t.hif.waiting = s.hif.waiting)) ∧
    (15 < n ∨ 3 < d8 d 17 → refused stRANGE) ∧
    (n ≤ 15 → d8 d 17 ≤ 3 → (axCfg s n).en = false → refused stNOT_READY)

/-! ### Metering (09_metering.md) -/

/-- METR_SAMPLE, ZERO_CROSSING_TIMEOUT, HEAT_WINDOW_CLOSE, PULSE and TOTALISER_SAVE (R263 to R277). -/
def Obligations.EnergyAndHeatAreCreditedExactly : Prop :=
  (∀ (codes : List (BitVec 24)) (s : State), metrRuns s = true → s.metr.calValid = true →
    let x := fun (c : Nat) => calibrated s c (((codes.getD c 0) :: tblGet s.metr.codes c []).take 32)
    let tot := fun (s : State) (k : Nat) => tblGet s.metr.tot k 0
    (0 < s.metr.settle → Gives (.metrSample codes) s (fun t => Counted bMETR 9 s t ∧ t.metr.tot = s.metr.tot ∧
      t.metr.settle + 1 = s.metr.settle ∧ ∀ f p, phGet t f p = phGet s f p)) ∧
    (s.metr.settle = 0 → Gives (.metrSample codes) s (fun t => ∀ f : Fin 4, (mfCfg s f).en = true →
      (tot t (8 * f.val) + tot t (8 * f.val + 2) + tot t (8 * f.val + 4) + tot s (8 * f.val + 6) =
        tot s (8 * f.val) + tot s (8 * f.val + 2) + tot s (8 * f.val + 4) + tot t (8 * f.val + 6)) ∧
      ∀ p : Fin 3, let a := phGet s f p
        let b := phGet t f p
        let v := x (7 * f.val + p.val)
        let e := v * x (7 * f.val + 3 + p.val) * (kwhOf s f).toNat
        let cross := a.armed = true ∧ a.lastV < 0 ∧ 0 ≤ v
        let cut := ltF (rmsF a.sumI a.n (calFeed s f).ilsb) (mulF (mfCfg s f).creep (mfCfg s f).inA) = true
        let imp := 8 * f.val + 2 * p.val
        b.lastV = v ∧
        (¬cross → b.c = a.c + e ∧ b.n = a.n + 1 ∧ tot t imp = tot s imp ∧ tot t (imp + 1) = tot s (imp + 1)) ∧
        (cross → b.c = e ∧ b.n = 1 ∧
          (cut → tot t imp = tot s imp ∧ tot t (imp + 1) = tot s (imp + 1)) ∧
          (¬cut → tot t imp = tot s imp + a.c.toNat ∧ tot t (imp + 1) = tot s (imp + 1) + (-a.c).toNat))))) ∧
  (∀ (f : Fin 4) (p : Fin 3) (s : State), metrRuns s = true → s.metr.calValid = true → (mfCfg s f).en = true →
    Gives (.zeroCrossingTimeout f p) s (fun t => let a := phGet s f p
      let b := phGet t f p
      let imp := 8 * f.val + 2 * p.val
      let cut := ltF (rmsF a.sumI a.n (calFeed s f).ilsb) (mulF (mfCfg s f).creep (mfCfg s f).inA) = true
      b.c = 0 ∧ b.n = 0 ∧ b.zxto = true ∧ b.armed = a.armed ∧ b.lastV = a.lastV ∧ (mfGet t f).zxto = true ∧ Counted bMETR 1 s t ∧
      (∀ k, k ≠ imp → k ≠ imp + 1 → k ≠ 8 * f.val + 6 → k ≠ 8 * f.val + 7 → tblGet t.metr.tot k 0 = tblGet s.metr.tot k 0) ∧
      (cut → t.metr.tot = s.metr.tot) ∧
      (¬cut → tblGet t.metr.tot imp 0 = tblGet s.metr.tot imp 0 + a.c.toNat ∧
        tblGet t.metr.tot (imp + 1) 0 = tblGet s.metr.tot (imp + 1) 0 + (-a.c).toNat))) ∧
  (∀ (rtd : List (RtdReading × RtdReading)) (freq : List F64) (high : W16) (s : State), metrRuns s = true → s.metr.calValid = true →
    Gives (.heatWindowClose rtd freq high) s (fun t => (∀ k, k < 32 → tblGet t.metr.tot k 0 = tblGet s.metr.tot k 0) ∧
      ∀ k, k < 16 → let c := mpCfg s k
        let v := windowVol s k (freq.getD c.pls 0) (high.getLsbD (c.pls ^^^ 1))
        let tot := fun (s : State) (i : Nat) => tblGet s.metr.tot (32 + 5 * k + i) 0
        (c.en = false → mpGet t k = mpGet s k ∧ ∀ i, i < 5 → tot t i = tot s i) ∧
        (c.en = true → c.src = 2 → ∀ i, i < 5 → tot t i = tot s i) ∧
        (c.en = true → c.src ≠ 2 → (mpGet t k).vol = 0 ∧ (v ≠ 0 → (mpGet t k).dir = decide (v < 0)) ∧
          match windowTheta s (2 * k) (rtd.getD (2 * k) (none, none)), windowTheta s (2 * k + 1) (rtd.getD (2 * k + 1) (none, none)) with
          | some a, some b => let h := heatOf v (factorOf s k a b)
            tot t 0 = tot s 0 + h.toNat ∧ tot t 1 = tot s 1 + (-h).toNat ∧ tot t 2 = tot s 2 + v.toNat ∧
            tot t 3 = tot s 3 + (-v).toNat ∧ tot t 4 = tot s 4
          | _, _ => tot t 4 = tot s 4 + v.natAbs ∧ ∀ i, i < 4 → tot t i = tot s i))) ∧
  (∀ (n : Fin 16) (high fast : Bool) (s : State), metrRuns s = true →
    (fast = true → Gives (.pulse n high fast) s (fun t => t = count bMETR 3 s ∧ Counted bMETR 3 s t)) ∧
    (fast = false → Gives (.pulse n high fast) s (fun t => t.metr.tot = s.metr.tot ∧ t.blk = s.blk ∧ ∀ k, k < 16 →
      let c := mpCfg s k
      (c.en = true ∧ c.src = 0 ∧ c.pls = n.val → (mpGet t k).vol = (mpGet s k).vol +
        (if c.dirsrc = 1 ∧ high = true then -(c.pvol.toNat * 2 ^ 32 : Int) else (c.pvol.toNat * 2 ^ 32 : Int))) ∧
      (¬(c.en = true ∧ c.src = 0 ∧ c.pls = n.val) → mpGet t k = mpGet s k)))) ∧
  ∀ (ok : Bool) (s : State), s.metr.started = true → s.metr.pfTbc = none → frozenM s 21 = false → enOf s bMETR = true ∨ s.metr.stopping = true →
    (s.metr.calPend = [] →
      (ok = true → Gives (.totaliserSave ok) s (fun t => t.metr = { s.metr with
          saveSeq := s.metr.saveSeq + 1, copyB := !s.metr.copyB, totCopy := s.metr.tot, stopping := false } ∧ t.blk = s.blk ∧
        (s.pwr.pflock = false → mramRead (mramCopy s.metr.copyB) 2756 t = copyBytes s) ∧ (s.pwr.pflock = true → t.mram = s.mram))) ∧
      (ok = false → Gives (.totaliserSave ok) s (fun t => Counted bMETR 5 s t ∧ t.metr = s.metr))) ∧
    ∀ p : CalPend, s.metr.calPend = [p] → ok = true → Gives (.totaliserSave ok) s (fun t =>
      t.metr.cal = calApply s.metr.cal p ∧ t.metr.calValid = true ∧ t.metr.calPend = [] ∧ InLantern 0x0901 s t ∧
      let changed := p.group = 1 ∧ ((calFeed t p.index).vlsb ≠ (calFeed s p.index).vlsb ∨ (calFeed t p.index).ilsb ≠ (calFeed s p.index).ilsb)
      ∀ k, (changed → 8 * p.index ≤ k → k < 8 * p.index + 8 → tblGet t.metr.tot k 0 = 0) ∧
        (¬(changed ∧ 8 * p.index ≤ k ∧ k < 8 * p.index + 8) → tblGet t.metr.tot k 0 = tblGet s.metr.tot k 0))

/-- INTERVAL_CLOSE, METR_SLOT, THEFT_WATCH_SECOND and the metering descriptors (R275 to R289). -/
def Obligations.IntervalsTheftWatchAndMeteringDescriptors : Prop :=
  (∀ s : State,
    (metrRuns s = true → Gives .intervalClose s (fun t => t.metr.intSeq = s.metr.intSeq + 1 ∧ t.metr.totClose = s.metr.tot ∧
      t.metr.tot = s.metr.tot ∧ t.metr.short = false ∧ (srcGet t 198).pend = true ∧ t.pimg = s.pimg ∧ t.blk = s.blk ∧
      let r := tblGet t.metr.records ((s.metr.intSeq + 1).toNat % 128) []
      r.length = 1408 ∧ u64 r 8 = s.sched.mfn.toNat ∧ (u64 r 0 = (s.metr.intSeq.toNat + 1) % 2 ^ 64) ∧
      (u32 r 16).testBit 0 = s.metr.short ∧ (u32 r 16).testBit 1 = s.metr.calValid ∧
      (∀ n, n ≠ (s.metr.intSeq + 1).toNat % 128 → tblGet t.metr.records n [] = tblGet s.metr.records n []) ∧
      ∀ f p, f < 4 → p < 4 → u64 r (0x40 + 96 * f + 24 * p) = incOf s (8 * f + 2 * p) % 2 ^ 64 ∧
        u64 r (0x40 + 96 * f + 24 * p + 8) = incOf s (8 * f + 2 * p + 1) % 2 ^ 64)) ∧
    (metrRuns s = false → Gives .intervalClose s (fun t => t = s)) ∧
    ∀ (b : MBind) (e : Nat), inSlotOf s 21 = true → enOf s bMETR = true → frozenM s 21 = false → (∀ k, (mpCfg s k).src ≠ 2) →
      outsidePt s 21 (metrPoints s) = none →
      s.metr.cfg.binds = [b] → entryOf s b.point = some e → inWindow s 21 (stageAddr e) 16 true = true → (workPt s b.point).typ = 7 →
      (tblGet s.pimg.staging e {}).point = b.point → Gives .metrSlot s (fun t => let g := tblGet t.pimg.staging e {}
        g.value = mulF (bindValue s b).1 b.scale ∧ g.isNew = true ∧
        g.qual = (if (bindValue s b).2 = true ∧ s.metr.calValid = true then 0 else 2) ∧
        (∀ k, k ≠ e → tblGet t.pimg.staging k {} = tblGet s.pimg.staging k {}) ∧ t.pimg.working = s.pimg.working ∧
        (∀ k, k < 16 → mpGet t k = { mpGet s k with dirTrue := dirNeg s k }) ∧ { t.metr with pairs := s.metr.pairs } = s.metr ∧
        runsEn t bMETR = true)) ∧
  (∀ (rms : List (BitVec 12)) (s : State),
    (s.pwr.asleep = false → Gives (.theftWatchSecond rms) s (fun t => t = s)) ∧
    (s.pwr.asleep = true → Gives (.theftWatchSecond rms) s (fun t => { t with metr := { t.metr with tw := s.metr.tw } } = s ∧
      ∀ f, f < 4 → let w := tblGet s.metr.tw f ({} : MTheft)
        let r := rms.getD f 0
        tblGet t.metr.tw f {} = if w.twen = true ∧ w.twthr ≤ r then { w with
          secs := satInc w.secs, peak := if w.peak < r then r else w.peak,
          first := if w.secs = 0 then (rtcTicks s).zeroExtend 64 else w.first } else w))) ∧
  ∀ (d : HostDesc) (s : State),
    let refused := fun (i : Instr) (st c : Nat) => Gives i s (fun t => Answered d st 0 t ∧ Counted bMETR c s t ∧ t.metr = s.metr)
    let f := d32 d 20
    let n := d32 d 24
    (Reaches 0x40 d s →
      (d8 d 16 = 0 → f + n ≤ 112 → Gives (.metrRead d) s (fun t => Answered d stOK 0 t ∧ t.metr = s.metr ∧
        Delivered (dAddr d) ((List.range n).map fun i => totEntry s (f + i)).flatten s t)) ∧
      (d8 d 16 = 1 → n ≤ 128 → 0 < d64 d 40 → d64 d 40 + n ≤ s.metr.intSeq.toNat + 1 → s.metr.intSeq.toNat < d64 d 40 + 128 →
        Gives (.metrRead d) s (fun t => Answered d stOK 0 t ∧ t.metr = s.metr ∧
          Delivered (dAddr d) ((List.range n).map fun i => tblGet s.metr.records ((d64 d 40 + i) % 128) []).flatten s t)) ∧
      (d8 d 16 = 1 → n ≤ 128 → 0 < d64 d 40 → d64 d 40 + 128 ≤ s.metr.intSeq.toNat → refused (.metrRead d) stDROPPED 8) ∧
      (4 < d8 d 16 ∨ (d8 d 16 = 0 ∧ 112 < f + n) → refused (.metrRead d) stRANGE 7)) ∧
    (Reaches 0x41 d s → let g := d8 d 16
      let i := d8 d 17
      (s.metr.calLock = true → refused (.metrCal d) stLOCKED 7) ∧
      (s.metr.calLock = false → calRange g i d.buf = true → Gives (.metrCal d) s (fun t => Answered d stOK 0 t ∧
        t.metr = { s.metr with calPend := s.metr.calPend ++ [{ group := g, index := i, bytes := slice d.buf 0 32 }] })) ∧
      (s.metr.calLock = false → 2 < g ∨ 31 < i ∨ (g = 1 ∧ 3 < i) → refused (.metrCal d) stRANGE 7)) ∧
    (Reaches 0x42 d s →
      (d8 d 16 ≤ 1 → s.pwr.pflock = false → Gives (.metrLock d) s (fun t => Answered d stOK 0 t ∧
        t.metr = { s.metr with calLock := decide (d8 d 16 = 1) })) ∧
      (1 < d8 d 16 → refused (.metrLock d) stRANGE 7)) ∧
    (Reaches 0x43 d s → Gives (.metrTwclr d) s (fun t => Answered d stOK 0 t ∧ ∀ k, k < 4 → let w := tblGet s.metr.tw k ({} : MTheft)
      let v := tblGet t.metr.tw k {}
      (v.secs = 0 ∧ v.peak = 0 ∧ v.first = 0) ∧ v.twen = w.twen ∧ v.twph = w.twph ∧ v.twthr = w.twthr))

/-! ### Field links (10_field_links.md) -/

/-- START_OF_FRAME, CAN_FRAME_END, CAN_BUS_ERROR, BUS_OFF_RECOVERY, CAN_FRAME_RECEIVE, TXREQ, TXCAN, FIFOPOP and
FIFOHD_READ (R294 to R306). The cycle count's and the mark's places in a reference message are the model's. -/
def Obligations.CanFramesAreSentSealedAndStored : Prop :=
  (∀ (n : Fin 40) (b : Fin 64) (ts : W32) (f : CanFrame) (s : State), (bufGet s n b).frame = some f → (bufGet s n b).st = 1 →
    chanSends s n = true → (chGet s n).errst = 0 ∨ (chGet s n).errst = 1 →
    Gives (.startOfFrame n b ts) s (fun t => ∃ g, t.out = .can n b g :: s.out ∧ (isRef s n b = false → g = { f with esi := f.fdf && (chGet s n).errst == 1 }) ∧
      (isRef s n b = true → (g.id, g.ide) = identOf (canCfg s n).refid ∧ g.fdf = false ∧ g.rtr = false) ∧
      bufGet t n b = { bufGet s n b with st := 2, ts := ts, frame := some g } ∧
      (∀ k, k ≠ b.val → bufGet t n k = bufGet s n k) ∧ (∀ m, m ≠ n.val → chGet t m = chGet s m) ∧
      { t with out := s.out, canl := s.canl } = s)) ∧
  (∀ (n : Fin 40) (b : Fin 64) (how : CanEnd) (s : State), let x := bufGet s n b
    x.st = 2 → Gives (.canFrameEnd n b how) s (fun t => let y := bufGet t n b
      (how = .completed → (chGet t n).tec = (if (chGet s n).tec = 0 then 0 else (chGet s n).tec - 1) ∧
        (chGet t n).cycle = (if isRef s n b = true then (chGet s n).cycle + 1 else (chGet s n).cycle) ∧ y.late = false ∧ y.clate = x.clate ∧
        (x.reload = none → y.st = (if x.dropped = true then 5 else 3) ∧ y.frame = none) ∧ ∀ f, x.reload = some f → y.st = 1 ∧ y.frame = some f ∧ y.reload = none) ∧
      (how ≠ .completed → (chGet t n).tec = (chGet s n).tec ∧ (chGet t n).cycle = (chGet s n).cycle ∧
        (x.late = false → y = { x with st := 1 }) ∧
        (x.late = true → y.late = false ∧ y.clate = x.clate ∧ (x.reload = none → y.st = (if x.dropped = true then 5 else 4) ∧ y.frame = none) ∧
          ∀ f, x.reload = some f → y.st = 1 ∧ y.frame = some f ∧ y.reload = none)) ∧
      (∀ k, k ≠ b.val → bufGet t n k = bufGet s n k) ∧ { t with canl := s.canl } = s)) ∧
  (∀ (n : Fin 40) (e : CanFault) (tx : Bool) (s : State), let c := chGet s n
    let own := tx = true ∧ (canCfg s n).monitor = false ∧ drives s = true ∧ ¬(e.place = .frame ∧ e.kind = .ack ∧ c.errst = 1) ∧
      ¬(e.place = .arbitration ∧ e.kind = .stuff)
    let off := own ∧ 255 < c.tec.toNat + 8
    let met := e.place ≠ .afterFlag
    chanWorks s n = true → c.errst = 0 ∨ c.errst = 1 → c.tec.toNat ≤ 255 → Gives (.canBusError n e tx) s (fun t => let d := chGet t n
      (met → d.lasterr = canErrCode e.kind) ∧ (¬met → d.lasterr = c.lasterr) ∧ d.tx = c.tx ∧ (∀ k, cntOf t bCANL k =
        if (k = 0 ∧ met) ∨ (k = 1 ∧ off) then satInc (cntOf s bCANL k) else cntOf s bCANL k) ∧
      (own → d.tec.toNat = c.tec.toNat + 8) ∧ (¬own → d.tec = c.tec) ∧
      (tx = false → d.recc.toNat = min 255 (c.recc.toNat + if e.place = .frame ∨ e.place = .arbitration then 1 else 8)) ∧
      (tx = true → d.recc = c.recc) ∧
      (off → d.errst = (if (canCfg s n).autorec = true then 3 else 2) ∧ InLantern 0x0A01 s t ∧ (srcGet t 200).pend = true) ∧
      (¬off → d.errst = (if 127 < d.tec.toNat ∨ 127 < d.recc.toNat then 1 else 0)))) ∧
  (∀ (n : Fin 40) (s : State),
    ((chGet s n).errst = 3 → Gives (.busOffRecovery n) s (fun t => chGet t n = { chGet s n with tec := 0, recc := 0, errst := 0 } ∧
      { t with canl := s.canl } = s)) ∧
    ((chGet s n).errst ≠ 3 → Gives (.busOffRecovery n) s (fun t => t = s))) ∧
  (∀ (n : Fin 40) (f : CanFrame) (ts : W32) (s : State), let q := chGet s n
    let hit := fun (y : CanFilt) => (f.id ^^^ BitVec.ofNat 29 y.fid.toNat) &&& BitVec.ofNat 29 y.mask.toNat = 0 ∧ y.fid.getLsbD 31 = f.ide
    chanOn s n = true → q.errst = 0 ∨ q.errst = 1 → f.rtr = false → isJoin s n f = false →
    (sealSlot s n f = none →
      ((∀ y ∈ (canCfg s n).filters, ¬hit y) → Gives (.canFrameReceive n f ts) s (fun t => let r := chGet t n
        r.rx = q.rx ∧ r.fifo = q.fifo ∧ r.shadow = q.shadow ∧ t.blk = s.blk)) ∧
      ∀ i y, (canCfg s n).filters[i]? = some y → hit y → (∀ j z, j < i → (canCfg s n).filters[j]? = some z → ¬hit z) →
        Gives (.canFrameReceive n f ts) s (fun t => let r := chGet t n
          let item : RxItem := { frame := f, ts := ts, sealOk := false, filt := i, arr := s.time.tbc }
          let old := tblGet q.rx y.target.toNat none
          let room := q.fifo.length < 32
          let shade := q.latched.isSome = true ∧ q.shadow = none
          (y.target.toNat < 64 → tblGet r.rx y.target.toNat none = some item ∧ r.fifo = q.fifo ∧
            (∀ k, k ≠ y.target.toNat → tblGet r.rx k none = tblGet q.rx k none) ∧
            (old = none → t.blk = s.blk) ∧ (old ≠ none → Counted bCANL 2 s t)) ∧
          (y.target = 0xFFFE → r.rx = q.rx ∧ (room → r.fifo = q.fifo ++ [item] ∧ t.blk = s.blk) ∧
            (¬room → r.fifo = q.fifo ∧ (shade → r.shadow = some item ∧ t.blk = s.blk) ∧
              (¬shade → r.shadow = q.shadow ∧ r.fifoOvf = true ∧ Counted bCANL 3 s t))) ∧
          (y.target = 0xFFFF → r.rx = q.rx ∧ r.fifo = q.fifo ∧ r.shadow = q.shadow ∧ t.blk = s.blk))) ∧
    ∀ k, sealSlot s n f = some k → s.sec.snuffed = false → (sessGet s k).kind = 1 → (sessGet s k).st = 1 →
      let e := sessGet s k
      let last := e.fvRx.toNat
      let len := f.data.length
      let base := last / 2 ^ 24 * 2 ^ 24 + leNat (slice f.data (len - 7) 3)
      let cand := if base ≤ last then base + 2 ^ 24 else base
      let good := f.fdf = true ∧ 8 ≤ len ∧ cand ≤ last + 2 ^ 23 ∧ sealTag e.key2 f k 1 cand = f.data.drop (len - 4)
      Gives (.canFrameReceive n f ts) s (fun t =>
        (good → (sessGet t k).fvRx = BitVec.ofNat 56 cand ∧ cntOf t bCANL 4 = cntOf s bCANL 4 ∧
          ∀ x ∈ (chGet t n).fifo, x ∈ q.fifo ∨ (x.frame = f ∧ x.sealOk = true)) ∧
        (¬good → (sessGet t k).fvRx = e.fvRx ∧ Counted bCANL 4 s t ∧ (chGet t n).rx = q.rx ∧ (chGet t n).fifo = q.fifo ∧
          (chGet t n).shadow = q.shadow ∧ t.pimg = s.pimg))) ∧
  ∀ (m : RegMaster) (n : Fin 40) (v : Byte) (s : State), Reachable m s → blkOff s bCANL = false →
    Gives (.txreq m n v) s (fun t => (∀ j, j < 8 → let x := bufGet s n (56 + j)
      bufGet t n (56 + j) = if v.getLsbD j = true ∧ x.st ≠ 1 ∧ x.st ≠ 2 ∧ chanOn s n = true then
        { x with st := 1, clate := false, late := false, frame := if x.sealed then none else some (sbufFrame x) } else x) ∧
      { t with canl := s.canl } = s) ∧
    Gives (.txcan m n v) s (fun t => (∀ j, j < 8 → let x := bufGet s n (56 + j)
      bufGet t n (56 + j) = if v.getLsbD j = true ∧ x.st = 1 then { x with st := 4, frame := none, late := false }
        else if v.getLsbD j = true ∧ x.st = 2 then { x with late := true, clate := true } else x) ∧ { t with canl := s.canl } = s) ∧
    Gives (.fifohdRead m n) s (fun t => (chGet t n).latched = (chGet s n).fifo.head? ∧ (chGet t n).fifo = (chGet s n).fifo ∧
      ∃ w, t.out = .regRead m (0x0A3000 + 0x60 * n.val) w :: s.out ∧ ∀ x, (chGet s n).fifo.head? = some x → w.toNat % 2 ^ 29 = x.frame.id.toNat ∧
        w.getLsbD 29 = x.frame.ide ∧ w.getLsbD 30 = x.frame.fdf ∧ w.getLsbD 31 = x.frame.brs) ∧
    ∀ w : W32, w.getLsbD 0 = true → (chGet s n).latched ≠ none → Gives (.fifopop m n w) s (fun t => let q := chGet s n
      chGet t n = { q with fifo := q.fifo.drop 1 ++ q.shadow.toList, shadow := none, latched := none } ∧ { t with canl := s.canl } = s)

/-- TRANSMIT_SLOT and RECEIVE_SLOT of CANL, JOIN_REQ, RESPONSE, JOIN_TIMEOUT and LEAVE (R300, R307 to R314). -/
def Obligations.StationsExchangeJoinAndLeave : Prop :=
  (∀ s : State, linkRuns .canl s = true → (s.canl.tmpl.map (·.1)).Nodup →
    let due := fun k => k ∈ s.canl.tmpl.map (·.1) ∧ admitted (stnGet s k) = true ∧
      s.sched.mfn.toNat % max 1 (tmplOf s k).period = (tmplOf s k).phase
    ((∀ p ∈ canReads s, inWindow s 18 (viewOut p) 16 false = true) → Gives (.transmitSlot .canl) s (fun t => t.pimg = s.pimg ∧
      (∀ k, due k → stnGet t k = if ∃ e ∈ (stnGet s k).exs, e.mfn = s.sched.mfn then stnGet s k
        else { stnGet s k with exs := (stnGet s k).exs ++ [{ mfn := s.sched.mfn, num := exchNum k (tmplOf s k) s.sched.mfn, got := [] }] }) ∧
      (∀ k, ¬due k → stnGet t k = stnGet s k) ∧
      (claimsSeal s = false → t.canl.accepts = s.canl.accepts ∧ t.sec = s.sec ∧ t.out = s.out) ∧
      (∀ k p, s.canl.tmpl = [(k, p)] → due k → chanSends (slotReached bCANL s) p.chan.toNat = true → p.chan.toNat < 40 →
        p.sealed = false → p.ntx = 1 → p.tbuf < 56 → outputsOf p = [] → let x := bufGet s p.chan.toNat p.tbuf
        let y := bufGet t p.chan.toNat p.tbuf
        ∃ f, f.data = exchNum k p s.sched.mfn :: zeros (p.len - 1) ∧ (f.id, f.ide) = identOf p.txid ∧
          (x.st = 2 → y.reload = some f ∧ y.clate = true ∧ y.st = 2) ∧ (x.st ≠ 2 → y.frame = some f ∧ y.st = 1) ∧
          cntOf t bCANL 5 = if x.st = 1 then satInc (cntOf s bCANL 5) else cntOf s bCANL 5) ∧
      ∀ j : JoinRec, s.canl.accepts = [j] → claimsSeal s = true → chanSends (slotReached bCANL s) j.ch = true →
        (chGet s j.ch).errst = 0 ∨ (chGet s j.ch).errst = 1 → s.sec.snuffed = false → (sessGet s j.slot).kind = 1 →
        (sessGet s j.slot).st = 1 → t.canl.accepts = [] ∧ ∃ f, t.out = .can j.ch 64 f :: s.out ∧ f.data.length = 32 ∧
          byteAt f.data 0 = 4 ∧ u16 f.data 2 = j.slot % 65536 ∧ u64 f.data 4 = j.uid.toNat ∧
          f.data.drop 28 = sealTag (sessGet s j.slot).key f j.slot 0 ((sessGet s j.slot).fvTx + 1).toNat)) ∧
    (∀ p ∈ canReads s, inWindow s 18 (viewOut p) 16 false = false → Gives (.transmitSlot .canl) s (fun t =>
      frozenM t 18 = true ∧ (tblGet t.sched.frzInfo 18 {}).cause = 2 ∧ t.canl = s.canl))) ∧
  (∀ (k e : Nat) (p : StnTmpl) (x : Exch) (m : MapEnt) (d : Bytes) (s : State), linkRuns .canl s = true → drives s = true →
    (∀ c ∈ s.canl.ch, c.2.rx = []) → s.canl.tmpl = [(k, p)] → (stnGet s k).exs = [x] → (stnGet s k).evicts = [] →
    x.mfn.toNat + p.ackwin = s.sched.mfn.toNat → inputsOf p = [m] → entryOf s m.point = some e →
    inWindow s 18 (stageAddr e) 16 true = true → (p.uid ≠ 0 ∨ p.evict = 0) → Gives (.receiveSlot .canl) s (fun t =>
      let g := tblGet t.pimg.staging e {}
      let old := tblGet s.pimg.staging e {}
      let inTime := ∀ i, i < p.nrx → ∃ y ∈ x.got, y.1 = i
      (stnGet t k).exs = [] ∧ (∀ j, j ≠ e → tblGet t.pimg.staging j {} = tblGet s.pimg.staging j {}) ∧
      (inTime → x.got = [(m.frame, d)] → (workPt s m.point).typ = 3 → old.point = m.point → m.wire = 4 → (stnGet t k).miss = 0 ∧ (stnGet t k).st = snONLINE ∧
        g.isNew = true ∧ g.qual = 0 ∧ g.value.toNat = u16 d m.off ∧ t.blk = (slotReached bCANL s).blk) ∧
      (¬inTime → (stnGet t k).miss.toNat = min 255 ((stnGet s k).miss.toNat + 1) ∧ Counted bCANL 6 s t ∧
        (stnGet t k).st = (if p.lossn ≤ min 255 ((stnGet s k).miss.toNat + 1) then snBAD else snSTALE) ∧
        g = { old with qual := if p.lossn ≤ min 255 ((stnGet s k).miss.toNat + 1) then 2 else 1 }))) ∧
  (∀ (n : Fin 40) (ver : Byte) (cls : W16) (uid : W64) (ns : W128) (s : State),
    let live := (chGet s n).errst = 0 ∨ (chGet s n).errst = 1
    let refused := fun (r c : Nat) => Gives (.joinReq n ver cls uid ns) s (fun t => (¬live → t.out = s.out) ∧
      (live → ∃ f, t.out = .can n 64 f :: s.out ∧ byteAt f.data 0 = 5 ∧ u8 f.data 1 = r ∧ u64 f.data 4 = uid.toNat ∧ f.data.length = 32) ∧
      cntOf t bCANL c = satInc (cntOf s bCANL c) ∧ (srcGet t 201).pend = true ∧ t.canl = s.canl)
    let busy := 16 ≤ s.canl.joins.length
    let dup := ∃ j ∈ s.canl.joins, j.uid = uid
    (ver ≠ 1 ∨ chanSends s n = false ∨ dup → Gives (.joinReq n ver cls uid ns) s (fun t => t = s)) ∧
    (ver = 1 → chanSends s n = true → ¬dup → (busy → refused 4 9) ∧ (¬busy →
      (∀ k, fixedSlot s uid = some k → (tmplOf s k).cls ≠ cls → refused 3 9) ∧
      (fixedSlot s uid = none → heldSlot s n cls uid = none → openSlot s n cls = none → refused 1 7) ∧
      ∀ k, (fixedSlot s uid = some k ∧ (tmplOf s k).cls = cls) ∨ (fixedSlot s uid = none ∧ (heldSlot s n cls uid = some k ∨
          (heldSlot s n cls uid = none ∧ openSlot s n cls = some k))) →
        (joinsServed s = false → refused 4 9) ∧
        (joinsServed s = true → Gives (.joinReq n ver cls uid ns) s (fun t => ∃ nd, (¬live → t.out = s.out) ∧
          (live → ∃ f, t.out = .can n 64 f :: s.out ∧ byteAt f.data 0 = 2 ∧
            u16 f.data 2 = k % 65536 ∧ u64 f.data 4 = uid.toNat ∧ u128 f.data 12 = nd.toNat) ∧ t.blk = s.blk ∧
          t.canl.joins = s.canl.joins ++ [⟨k, n, uid, cls, ns, nd, (stnGet s k).st, s.sched.mfn + BitVec.ofNat 64 (canCfg s n).jointo⟩] ∧
          (stnGet t k).st = (if (stnGet s k).st = snINIT then snJOINING else (stnGet s k).st) ∧ sessGet t k = sessGet s k))))) ∧
  (∀ (n : Fin 40) (slot : W16) (uid : W64) (tag : W128) (key : Bytes) (j : JoinRec) (s : State), chanSends s n = true →
    s.canl.joins = [j] → (chGet s n).errst = 0 ∨ (chGet s n).errst = 1 → j.ch = n.val → j.slot = slot.toNat → j.uid = uid → j.slot < 1024 → s.sec.netsec = some key → s.sec.snuffed = false →
    let ss := stnSecret key uid j.cls
    let back := if (stnGet s j.slot).st = snJOINING then j.prev else (stnGet s j.slot).st
    (joinOver s j = true → Gives (.response n slot uid tag) s (fun t => t.canl.joins = [] ∧ (stnGet t j.slot).st = back ∧ t.sec = s.sec ∧
      (∃ f, t.out = .can n 64 f :: s.out ∧ byteAt f.data 0 = 5 ∧ byteAt f.data 1 = 5) ∧ Counted bCANL 9 s t)) ∧
    (joinOver s j = false → joinTag ss j = leBytes 16 tag.toNat → Gives (.response n slot uid tag) s (fun t => t.canl.joins = [] ∧ (stnGet t j.slot).st = snONLINE ∧
      (stnGet t j.slot).uid = uid ∧ (stnGet t j.slot).miss = 0 ∧ (stnGet t j.slot).joins = (stnGet s j.slot).joins + 1 ∧
      (sessGet t j.slot).kind = 1 ∧ (sessGet t j.slot).key = sealKey ss j 0 ∧ (sessGet t j.slot).key2 = sealKey ss j 1 ∧
      (sessGet t j.slot).fvRx = 0 ∧ (sessGet t j.slot).fvTx = 0 ∧ t.out = s.out ∧ t.canl.accepts = s.canl.accepts ++ [j] ∧
      (srcGet t 201).pend = true ∧ t.blk = s.blk ∧ ∀ k, k ≠ j.slot → stnGet t k = stnGet s k ∧ sessGet t k = sessGet s k)) ∧
    (joinOver s j = false → joinTag ss j ≠ leBytes 16 tag.toNat → Gives (.response n slot uid tag) s (fun t => t.canl.joins = [] ∧ (stnGet t j.slot).st = back ∧
      sessGet t j.slot = sessGet s j.slot ∧ (∃ f, t.out = .can n 64 f :: s.out ∧ byteAt f.data 0 = 5 ∧ byteAt f.data 1 = 2) ∧
      Counted bCANL 8 s t ∧ ∀ k, k ≠ j.slot → stnGet t k = stnGet s k))) ∧
  (∀ (k : Fin 1024) (j : JoinRec) (s : State), s.canl.joins = [j] → j.slot = k.val →
    (s.sched.mfn.toNat ≤ j.ends.toNat → Gives (.joinTimeout k) s (fun t => t = s)) ∧
    (j.ends.toNat < s.sched.mfn.toNat → Gives (.joinTimeout k) s (fun t => t.canl.joins = [] ∧
    (stnGet t k).st = (if (stnGet s k).st = snJOINING then j.prev else (stnGet s k).st) ∧ Counted bCANL 9 s t ∧ (srcGet t 201).pend = true ∧
    let live := chanSends s j.ch = true ∧ ((chGet s j.ch).errst = 0 ∨ (chGet s j.ch).errst = 1)
    (live → ∃ f, t.out = .can j.ch 64 f :: s.out ∧ byteAt f.data 0 = 5 ∧ byteAt f.data 1 = 5) ∧ (¬live → t.out = s.out) ∧ t.sec = s.sec))) ∧
  ∀ (n : Fin 40) (f : CanFrame) (s : State), let k := u16 f.data 2
    chanOn s n = true → k < 1024 → (tmplOf s k).chan.toNat = n.val → s.sec.snuffed = false → (sessGet s k).kind = 1 → (sessGet s k).st = 1 →
    (∀ c, sealCheck (sessGet s k) k f = some c → admitted (stnGet s k) = true → (stnGet s k).uid.toNat = u64 f.data 4 →
      Gives (.leave n f) s (fun t => (stnGet t k).st = snINIT ∧ sessGet t k = {} ∧ t.pimg = s.pimg ∧ t.blk = s.blk ∧
        (stnGet t k).uid = (if (tmplOf s k).uid = 0 then 0 else (stnGet s k).uid) ∧ ∀ i, i ≠ k → stnGet t i = stnGet s i)) ∧
    (sealCheck (sessGet s k) k f = none → Gives (.leave n f) s (fun t => Counted bCANL 4 s t ∧ t.canl = s.canl))

/-- TRANSMIT_SLOT and RECEIVE_SLOT of MBUS, RSP_UD, MBUS_RESPONSE_TIMEOUT (R316 to R319) and the link descriptors (R322). -/
def Obligations.MetersAreReadAndLinkDescriptors : Prop :=
  (∀ (k : Fin 6) (i : Nat) (r : List Nat) (g : MtrCfg) (s : State), linkRuns .mbus s = true → drives s = true → (mbCfg s k).en = true →
    (∀ j, j ≠ k.val → (mbCfg s j).en = false) → (mbGet s k).dueMfn ≠ some s.sched.mfn → (mbGet s k).due ++ mbDue s k = i :: r → mtrCfg s k i = some g →
    Gives (.transmitSlot .mbus) s (fun t => let m := mbGet s k
      let u := mbGet t k
      u.dueMfn = some s.sched.mfn ∧ u.mtr = m.mtr ∧ t.blk = (slotReached bMBUS s).blk ∧
      (m.state ≠ 0 → u.due = i :: r ∧ u.state = m.state ∧ t.out = s.out) ∧
      (m.state = 0 → u.due = r ∧ u.meter = i ∧ u.tries = 0 ∧
        (g.secondary = true → u.state = 1 ∧ t.out = .mbus k (selectFrame g) :: s.out) ∧
        (g.secondary = false → u.state = 3 ∧ t.out = .mbus k (reqFrame g (mtrGet s k i).fcb) :: s.out)))) ∧
  (∀ (k : Fin 6) (g : MtrCfg) (s : State), let m := mbGet s k
    m.state ≠ 0 → frozenM s 19 = false → mtrCfg s k m.meter = some g →
    let again := fun (i : Instr) (c : Nat) =>
      (m.tries < (mbCfg s k).retry → Gives i s (fun t => Counted bMBUS c s t ∧ (mbGet t k).tries = m.tries + 1 ∧ (mbGet t k).mtr = m.mtr ∧
        (mbGet t k).state = (if m.state = 1 then 1 else 3) ∧
        t.out = .mbus k (if m.state = 1 then selectFrame g else reqFrame g (mtrGet s k m.meter).fcb) :: s.out)) ∧
      ((mbCfg s k).retry ≤ m.tries → Gives i s (fun t => t.out = s.out ∧ (mbGet t k).state = 0 ∧ (mbGet t k).done = m.done + 1 ∧
        (∀ n, cntOf t bMBUS n = if n = c ∨ n = 4 then satInc (cntOf s bMBUS n) else cntOf s bMBUS n) ∧
        let miss := min 255 ((mtrGet s k m.meter).miss.toNat + 1)
        (mtrGet t k m.meter).miss.toNat = miss ∧ (mtrGet t k m.meter).st = (if g.lossn ≤ miss then snBAD else snSTALE) ∧
        (mbGet t k).values = m.values ++ g.map.map fun e =>
          { point := e.point, value := none, qual := if g.lossn ≤ miss then 2 else 1, arr := s.time.tbc }))
    again (.mbusResponseTimeout k) 0 ∧ again (.rspUd k .collision) 2 ∧ (∀ b, again (.rspUd k (.frame b false)) 1) ∧
    (m.state ≠ 1 → ∀ b, longBody b = none → again (.rspUd k (.frame b true)) 1) ∧
    (m.state = 1 → Gives (.rspUd k (.frame [0xE5] true)) s (fun t => (mbGet t k).state = 3 ∧ t.blk = s.blk ∧
      t.out = .mbus k (reqFrame g (mtrGet s k m.meter).fcb) :: s.out)) ∧
    ∀ b whole body off, m.state ≠ 1 → longBody b = some whole → (aflSplit whole).2 = body → byteAt body 0 &&& 0xCF = 0x08 → mbAddrOk g body = true → mbHeader body = some (0, off) →
      g.mode0 = true → Gives (.rspUd k (.frame b true)) s (fun t => (mbGet t k).state = 0 ∧ (mbGet t k).done = m.done + 1 ∧ t.out = s.out ∧
        (mtrGet t k m.meter).miss = 0 ∧ (mtrGet t k m.meter).st = snONLINE ∧ (mtrGet t k m.meter).fcb = !(mtrGet s k m.meter).fcb ∧
        (mbGet t k).values = m.values ++ g.map.zipIdx.map (fun p =>
          (mapRec s.time.tbc p.1 (mbRecs ((body.drop off).length + 1) (body.drop off))[p.2]?).1))) ∧
  (∀ (k : Fin 6) (v : MbVal) (x : F64) (e : Nat) (s : State), linkRuns .mbus s = true → drives s = true → (mbGet s k).values = [v] →
    (∀ j, j ≠ k.val → (mbGet s j).values = []) → entryOf s v.point = some e → inWindow s 19 (stageAddr e) 16 true = true →
    (tblGet s.pimg.staging e {}).point = v.point → (workPt s v.point).typ = 7 → Gives (.receiveSlot .mbus) s (fun t =>
      let g := tblGet t.pimg.staging e {}
      let old := tblGet s.pimg.staging e {}
      (mbGet t k).values = [] ∧ (v.value = none → g = { old with qual := BitVec.ofNat 8 v.qual }) ∧
      (v.value = some x → nanF x = false → g.value = x ∧ g.isNew = true ∧ g.qual = BitVec.ofNat 8 v.qual) ∧
      ∀ j, j ≠ e → tblGet t.pimg.staging j {} = tblGet s.pimg.staging j {})) ∧
  ∀ (d : HostDesc) (s : State),
    let refused := fun (i : Instr) (st : Nat) => Gives i s (fun t => Answered d st 0 t ∧ Counted bCANL 11 s t ∧ t.canl = s.canl)
    let f := d32 d 20
    let n := d32 d 24
    (Reaches 0x50 d s →
      (d8 d 16 = 0 → f + n ≤ 1024 → Gives (.linkRead d) s (fun t => Answered d stOK 0 t ∧ t.canl = s.canl ∧
        Delivered (dAddr d) ((List.range n).map fun i => stnRecord s (f + i)).flatten s t)) ∧
      (d8 d 16 = 2 → f + n ≤ 40 → Gives (.linkRead d) s (fun t => Answered d stOK 0 t ∧
        Delivered (dAddr d) ((List.range n).map fun i => chRecord s (f + i)).flatten s t)) ∧
      (2 < d8 d 16 ∨ (d8 d 16 = 0 ∧ 1024 < f + n) ∨ (d8 d 16 = 2 ∧ 40 < f + n) → refused (.linkRead d) stRANGE)) ∧
    (Reaches 0x51 d s → let k := d16 d 16
      (1024 ≤ k → refused (.linkEvict d) stRANGE) ∧
      (k < 1024 → (stnGet s k).st = snINIT ∨ (stnGet s k).st = snEMPTY → refused (.linkEvict d) stNOT_READY) ∧
      (k < 1024 → (stnGet s k).st ≠ snINIT → (stnGet s k).st ≠ snEMPTY → Gives (.linkEvict d) s (fun t => t.blk = s.blk ∧
        stnGet t k = { stnGet s k with evicts := (stnGet s k).evicts ++ [d] } ∧ Answered d stOK 0 (evictAsked t k) ∧
        (stnGet (evictAsked t k) k).st = snINIT ∧ sessGet (evictAsked t k) k = {}))) ∧
    (Reaches 0x52 d s → let c := d8 d 16
      (40 ≤ c → refused (.linkBuson d) stRANGE) ∧
      (c < 40 → (chGet s c).errst ≠ 2 → refused (.linkBuson d) stNOT_READY) ∧
      (c < 40 → (chGet s c).errst = 2 → Gives (.linkBuson d) s (fun t => Answered d stOK 0 t ∧
        chGet t c = { chGet s c with errst := 3 })))

/-! ### Ethernet and PTP (11_ethernet_and_ptp.md) -/

/-- ETH_FRAME_RECEIVE, ETH_FRAME_TRANSMIT, ETH_LINK_DOWN, ETH_LINK_UP, the slots of ETHL, ETH_READ and ETH_PORT (R324 to R347).
The end of a frame on the wire is the model's: 8 ns a byte with its FCS (log entry 79). -/
def Obligations.EthernetFramesAreTakenAndSent : Prop :=
  (∀ (p : Fin 16) (f : EthRx) (s : State), portUp s p = true → let g := ethCfg s p
    let n := f.bytes.length + 4
    let got := fun (P : State → Prop) => Gives (.ethFrameReceive p f) s P
    let control := be16 f.bytes 12 = 0x8808
    (f.good = false → got fun t => t.ethl = s.ethl ∧ Counted bETHL 0 s t) ∧
    (f.good = true → n < 64 ∨ (if g.macsec then 1554 else 1522) < n → got fun t => t.ethl = s.ethl ∧ Counted bETHL 1 s t) ∧
    (f.good = true → 64 ≤ n → n ≤ 1522 →
      (control → got fun t => t.ethl = s.ethl ∧ Counted bETHL 9 s t) ∧
      (¬control → dstOk g f.bytes = false → got fun t => t = s) ∧
      (¬control → dstOk g f.bytes = true → etypeOf f.bytes ≠ 0x8100 → g.macsec = false → ptpOf g f.bytes = none →
        ((∀ r ∈ g.rules, ruleMatch r f.bytes = false) → got fun t => (portGet t p).rxq = (portGet s p).rxq ∧ t.blk = s.blk ∧
          (portGet t p).rxfrm = (portGet s p).rxfrm + 1) ∧
        ∀ i r, g.rules[i]? = some r → ruleMatch r f.bytes = true → (∀ j q, j < i → g.rules[j]? = some q → ruleMatch q f.bytes = false) →
          got fun t => (portGet t p).rxfrm = (portGet s p).rxfrm + 1 ∧
            let full := 131072 < rxHeld (portGet s p) + f.bytes.length
            (r.target = 0 → (portGet t p).rxq = (portGet s p).rxq ∧ t.blk = s.blk) ∧
            (r.target ≠ 0 → ¬full → t.blk = s.blk ∧ (portGet t p).rxq = (portGet s p).rxq ++
              [⟨i, f.bytes, rxStamp s p f.cap f.frac, false, s.time.tbc⟩]) ∧
            (r.target ≠ 0 → full → (portGet t p).rxq = (portGet s p).rxq ∧ Counted bETHL 2 s t)) ∧
      (¬control → dstOk g f.bytes = true → etypeOf f.bytes ≠ 0x8100 → g.macsec = true → be16 f.bytes 12 ≠ 0x88E5 →
        (∀ r ∈ g.rules, r.unctrl = false) → got fun t => (portGet t p).rxq = (portGet s p).rxq ∧ (portGet t p).ptp = (portGet s p).ptp ∧
          Counted bETHL 6 s t))) ∧
  (∀ (p : Nat) (x : EthItem) (r : EthRule) (s : State), linkRuns .ethl s = true → portsOn s = [p] → (portGet s p).rxq = [x] →
    x.arr.toNat + 22 ≤ s.time.tbc.toNat → (ethCfg s p).rules = [r] → x.rule = 0 → r.lossmf = 0 →
    (∀ e m, r.target = 2 → r.map = [m] → m.wire = 4 → r.le = false → (workPt s m.point).typ = 3 → entryOf s m.point = some e →
      (tblGet s.pimg.staging e {}).point = m.point → inWindow s 20 (stageAddr e) 16 true = true → Gives (.receiveSlot .ethl) s (fun t =>
        let c := tblGet t.pimg.staging e {}
        c.isNew = true ∧ c.qual = 0 ∧ c.value.toNat = be16 x.bytes m.off ∧ (portGet t p).rxq = [] ∧ t.blk = (slotReached bETHL s).blk ∧
        ∀ j, j ≠ e → tblGet t.pimg.staging j {} = tblGet s.pimg.staging j {})) ∧
    (r.target = 1 → 0 < (portGet s p).rxsize.toNat → let a := (portGet s p).rxbase.toNat + 32 * (portGet s p).rxhead.toNat
      let d := dramRead s a 32
      let len := min (u16 d 8) x.bytes.length
      inWindow s 20 a 32 false = true → inWindow s 20 a 32 true = true → inWindow s 20 (u64 d 0) len true = true →
      ((u16 d 10).testBit 0 = true → Gives (.receiveSlot .ethl) s (fun t => let c := dramRead t a 32
        u16 c 8 = len ∧ (u16 c 10).testBit 0 = false ∧ ((u16 c 10).testBit 2 = decide (len < x.bytes.length)) ∧
        ((u16 c 10).testBit 3 = x.secured) ∧ u8 c 12 = 0 ∧ slice c 16 12 = ringTs x.ts ∧ (srcGet t (280 + p)).pend = true ∧ t.blk = (slotReached bETHL s).blk ∧
        ∀ b, (b < u64 d 0 ∨ u64 d 0 + len ≤ b) → (b < a ∨ a + 32 ≤ b) → tblGet t.dram b 0 = tblGet s.dram b 0)) ∧
      ((u16 d 10).testBit 0 = false → Gives (.receiveSlot .ethl) s (fun t => t.dram = s.dram ∧ Counted bETHL 3 s t)))) ∧
  (∀ (p : Nat) (u : EthTpl) (s : State), linkRuns .ethl s = true → portsOn s = [p] → (ethCfg s p).tpls = [u] → u.map = [] → u.udpcsum = false →
    (portGet s p).txsize = 0 → (∀ k, (portGet s k).back = []) → Gives (.transmitSlot .ethl) s (fun t =>
      t.blk = (slotReached bETHL s).blk ∧ t.dram = s.dram ∧ (portGet t p).txData =
      if drives s = true ∧ u.en = true ∧ s.sched.mfn.toNat % max 1 u.period = u.phase then
        (portGet s p).txData ++ [{ bytes := slice u.hdr 0 u.len }] else (portGet s p).txData)) ∧
  (∀ (p : Nat) (b : EthBack) (s : State), linkRuns .ethl s = true → portsOn s = [p] → (ethCfg s p).tpls = [] → (portGet s p).txsize = 0 →
    (portGet s p).back = [b] → (∀ k, k ≠ p → (portGet s k).back = []) → inWindow s 20 b.addr 32 true = true →
    Gives (.transmitSlot .ethl) s (fun t => let c := dramRead t b.addr 32
      let d := dramRead s b.addr 32
      (u16 c 10).testBit 0 = false ∧ slice c 0 10 = slice d 0 10 ∧ (portGet t p).back = [] ∧ (srcGet t (296 + p)).pend = true ∧
      slice c 16 12 = (match b.ts with | some w => ringTs w | none => slice d 16 12) ∧
      ∀ i, (i < b.addr ∨ b.addr + 32 ≤ i) → tblGet t.dram i 0 = tblGet s.dram i 0)) ∧
  (∀ (p : Nat) (s : State), linkRuns .ethl s = true → portsOn s = [p] → (ethCfg s p).tpls = [] → (portGet s p).txsize = 1 →
    (portGet s p).txMc1 = [] → (∀ k, (portGet s k).back = []) → (portGet s p).wire = none → let a := (portGet s p).txbase.toNat + 32 * (portGet s p).txhead.toNat
    let d := dramRead s a 32
    inWindow s 20 a 32 false = true → inWindow s 20 (u64 d 0) (u16 d 8) false = true →
    Gives (.transmitSlot .ethl) s (fun t => (portGet t p).txMc1 = if (u16 d 10).testBit 0 then
      [{ bytes := dramRead s (u64 d 0) (u16 d 8), desc := some (a, (u16 d 10).testBit 1) }] else [])) ∧
  (∀ (p : Fin 16) (cap : W64) (frac : BitVec 3) (s : State), portUp s p = true → (ethCfg s p).macsec = false → let q := portGet s p
    let stamp := stampOf s cap frac + BitVec.ofNat 128 (ethCfg s p).egress
    let starts := fun (x : EthTx) (b : Bytes) (P : EthPort → Prop) => Gives (.ethFrameTransmit p cap frac) s (fun t =>
      t.out = s.out ∧ (portGet t p).txfrm = q.txfrm ∧ t.blk = s.blk ∧ t.dram = s.dram ∧ P (portGet t p) ∧
      (portGet t p).wire = some ⟨x, padFrame b, stamp, stepsAt s cap, s.time.tbc, s.time.tbc + BitVec.ofNat 64 (8 * ((padFrame b).length + 4))⟩)
    (q.wire = none →
      (q.txPtp = [] →
        (∀ x r, q.txPair = x :: r → x.ptp = none → starts x x.bytes fun u => u.txPair = r ∧ u.txData = q.txData ∧ u.txMc1 = q.txMc1) ∧
        (∀ x r, q.txPair = [] → q.txData = x :: r → x.ptp = none → starts x x.bytes fun u => u.txData = r ∧ u.txMc1 = q.txMc1) ∧
        (∀ x r, q.txPair = [] → q.txData = [] → q.txMc1 = x :: r → x.ptp = none → starts x x.bytes fun u => u.txMc1 = r) ∧
        (q.txPair = [] → q.txData = [] → q.txMc1 = [] → Gives (.ethFrameTransmit p cap frac) s (fun t => t = s))) ∧
      ∀ x ∈ q.txPtp, firstPtp q.txPtp = some x → (∀ y ∈ q.txPtp, ptpRank (x.ptp.getD 15) ≤ ptpRank (y.ptp.getD 15)) ∧
        (x.ptp = some mPdelayResp → x.rxSteps ≠ stepsAt s cap → Gives (.ethFrameTransmit p cap frac) s (fun t => t.out = s.out ∧
          portGet t p = { q with txPtp := q.txPtp.erase x })) ∧
        ((x.ptp ≠ some mPdelayResp ∨ x.rxSteps = stepsAt s cap) → let b := completeFrame (ethCfg s p).transport x stamp
          starts x b (fun u => u.txPtp = q.txPtp.erase x ∧ u.txPair = q.txPair ∧ u.txData = q.txData ∧ u.txMc1 = q.txMc1) ∧
          let o := ptpOff (ethCfg s p).transport x.bytes
          (x.ptp = some mSync → (ethCfg s p).transport = 0 → o + 44 ≤ x.bytes.length → slice (b.drop o) 34 10 = stampBytes stamp.toNat ∧
            be64 (b.drop o) 8 = (BitVec.ofInt 64 (mCorr (x.bytes.drop o) + (stamp.toNat % 65536 : Nat))).toNat))) ∧
    ∀ w, q.wire = some w → q.txPtp = [] → q.txPair = [] → q.txData = [] → q.txMc1 = [] → Gives (.ethFrameTransmit p cap frac) s (fun t =>
      t.out = .eth p w.bytes :: s.out ∧ (portGet t p).wire = none ∧ (portGet t p).txfrm = q.txfrm + 1 ∧ (portGet t p).drains = [] ∧
      (portGet t p).txoct = q.txoct + BitVec.ofNat 64 (w.bytes.length + 4) ∧
      (∀ d, q.drains = [d] → d ∈ (ringGet s d.ring).started → Answered d stOK 0 t) ∧
      (∀ a req, w.tx.desc = some (a, req) → (portGet t p).back = q.back ++ [⟨a, if req = true then some w.ts else none⟩]))) ∧
  (∀ (p : Fin 16) (s : State), (∀ kv ∈ s.ethl.port, ∀ w, kv.2.wire = some w → s.time.tbc.toNat < w.ends.toNat) → let q := portGet s p
    (q.link = true → Gives (.ethLinkDown p) s (fun t => let u := portGet t p
      u.link = false ∧ u.wire = none ∧ (srcGet t 203).pend = true ∧ u.txfrm = q.txfrm ∧ u.txoct = q.txoct ∧
      Counted bETHL (if q.wire.isSome then 13 else 10) s t ∧ u.txData = q.txData ∧ u.txPtp = q.txPtp ∧ u.txPair = q.txPair ∧ u.txMc1 = q.txMc1 ∧
      (q.wire = none → t.out = s.out) ∧
      ∀ w, q.wire = some w → t.out = .ethCut p (w.bytes.take ((s.time.tbc - w.start).toNat / 8)) :: s.out ∧
        ∀ a req, w.tx.desc = some (a, req) → u.back = q.back ++ [⟨a, none⟩])) ∧
    (q.link = false → Gives (.ethLinkDown p) s (fun t => t = s) ∧ Gives (.ethLinkUp p) s (fun t => (portGet t p).link = true ∧
      (srcGet t 203).pend = true ∧ t.blk = s.blk))) ∧
  ∀ (d : HostDesc) (s : State),
    let refused := fun (i : Instr) (st : Nat) => Gives i s (fun t => Answered d st 0 t ∧ Counted bETHL 12 s t ∧ t.ethl = s.ethl)
    (Reaches 0x58 d s → let p := d8 d 17
      (d8 d 16 ≤ 1 → p ≤ 15 → Gives (.ethRead d) s (fun t => Answered d stOK 0 t ∧ t.ethl = s.ethl ∧
        Delivered (dAddr d) (if d8 d 16 = 0 then portBytes s p else ptpBytes s p) s t)) ∧
      (1 < d8 d 16 ∨ 15 < p → refused (.ethRead d) stRANGE)) ∧
    (Reaches 0x59 d s → let p := d8 d 16
      (1 < d8 d 17 ∨ 15 < p → refused (.ethPort d) stRANGE) ∧
      (d8 d 17 ≤ 1 → p ≤ 15 → (ethCfg s p).en = false → refused (.ethPort d) stNOT_READY) ∧
      (d8 d 17 ≤ 1 → p ≤ 15 → (ethCfg s p).en = true → let waits := d8 d 17 = 0 ∧ (portGet s p).wire.isSome = true
        (¬waits → Gives (.ethPort d) s (fun t => Answered d stOK 0 t ∧ portGet t p = { portGet s p with pen := decide (d8 d 17 = 1) })) ∧
        (waits → Gives (.ethPort d) s (fun t => t.hif.waiting = s.hif.waiting ∧
          portGet t p = { portGet s p with pen := false, drains := (portGet s p).drains ++ [d] }))))

/-- SYNC, FOLLOW_UP, DELAY_REQ, DELAY_RESP, PDELAY_REQ, PDELAY_RESP, PDELAY_RESP_FOLLOW_UP, ANNOUNCE, the intervals and
FOLLOW_UP_TIMEOUT (R335 to R340). Fields of a message are read as IEEE 1588-2019 places them, which the model presumes. -/
def Obligations.PtpMessagesArePairedAndAnswered : Prop :=
  (∀ (p : Fin 16) (m : PtpRx) (s : State), portUp s p = true → (ethCfg s p).ptp = true →
    let g := ethCfg s p
    let x := ptpGet s p
    let ts := rxStamp s p m.cap m.frac
    let steps := stepsAt s m.cap
    (malformed m.msg = true → ∀ i ∈ [Instr.sync p m, .followUp p m, .delayReq p m, .delayResp p m, .pdelayReq p m, .pdelayResp p m,
      .pdelayRespFollowUp p m, .announce p m], Gives i s (fun t => t.ethl = s.ethl ∧ Counted bETHL 8 s t)) ∧
    (malformed m.msg = false →
      let used := fun (i : Instr) (seq : Nat) (t1 : Int) (t2 : W128) (k : W16) => Gives i s (fun t => let y := ptpGet t p
        let d21 := (t2.toNat : Int) - t1
        y.seq = BitVec.ofNat 16 seq ∧ y.t2 = t2 ∧ y.syncWait = none ∧ y.e2e = x.e2e ∧ y.p2p = x.p2p ∧
        (∀ d, g.p2p = false → x.e2e = some (d, k) → y.nompd = false ∧ y.mpd = BitVec.ofInt 64 ((d21 + d).fdiv 2) ∧
          y.offset = BitVec.ofInt 64 (d21 - ((d21 + d).fdiv 2 + g.asym))) ∧
        (∀ d, g.p2p = true → x.p2p = some (d, k) → y.nompd = false ∧ y.mpd = BitVec.ofInt 64 d ∧
          y.offset = BitVec.ofInt 64 (d21 - (d + g.asym))) ∧
        ((∀ d j, (if g.p2p then x.p2p else x.e2e) = some (d, j) → j ≠ k) → y.nompd = true ∧ y.mpd = x.mpd))
      (isSlave x = true → x.syncWait = none →
        (mTwoStep m.msg = false → used (.sync p m) (mSeq m.msg) (mTime m.msg + mCorr m.msg) ts steps) ∧
        (mTwoStep m.msg = true → Gives (.sync p m) s (fun t => t.blk = s.blk ∧
          ptpGet t p = { x with syncWait := some (mSeq m.msg, mCorr m.msg, ts, steps) })) ∧
        Gives (.followUp p m) s (fun t => t.ethl = s.ethl ∧ Counted bETHL 8 s t)) ∧
      (∀ q c t2 k, isSlave x = true → x.syncWait = some (q, c, t2, k) →
        (q = mSeq m.msg → used (.followUp p m) q (mTime m.msg + mCorr m.msg + c) t2 k) ∧
        (q ≠ mSeq m.msg → Gives (.followUp p m) s (fun t => t.ethl = s.ethl ∧ Counted bETHL 8 s t))) ∧
      (x.pstate = 6 →
        (respWaiting (portGet s p) < 64 → Gives (.delayReq p m) s (fun t => t.blk = s.blk ∧
          ∃ e, (portGet t p).txPtp = (portGet s p).txPtp ++ [e] ∧ e.ptp = some mDelayResp)) ∧
        (64 ≤ respWaiting (portGet s p) → Gives (.delayReq p m) s (fun t => t.ethl = s.ethl ∧ Counted bETHL 8 s t))) ∧
      (∀ t3 k, isSlave x = true → x.dreq = some (mSeq m.msg, t3, k) → slice m.msg 44 10 = portId s p →
        Gives (.delayResp p m) s (fun t => t.blk = s.blk ∧
          ptpGet t p = { x with e2e := some (mTime m.msg - mCorr m.msg - t3.toNat, k), dreq := none })) ∧
      (x.pstate ≠ 3 → x.pstate ≠ 2 → Gives (.pdelayReq p m) s (fun t => t.blk = s.blk ∧
        ∃ e, (portGet t p).txPtp = (portGet s p).txPtp ++ [e] ∧ e.ptp = some mPdelayResp ∧ e.rx = ts ∧ e.rxSteps = steps)) ∧
      (x.pstate = 3 ∨ x.pstate = 2 → Gives (.pdelayReq p m) s (fun t => t = s)) ∧
      (∀ t1 k, x.pdreq = some (mSeq m.msg, t1, k) → slice m.msg 44 10 = portId s p → x.pdWait = none →
        (mTwoStep m.msg = false → Gives (.pdelayResp p m) s (fun t => (ptpGet t p).pdreq = none ∧ t.blk = s.blk ∧ (ptpGet t p).p2p =
          if k = steps then some ((((ts.toNat : Int) - t1.toNat) - mCorr m.msg).fdiv 2, k) else x.p2p)) ∧
        (mTwoStep m.msg = true → Gives (.pdelayResp p m) s (fun t => t.blk = s.blk ∧
          ptpGet t p = { x with pdWait := some (mSeq m.msg, mCorr m.msg - mTime m.msg, ts, steps) })) ∧
        Gives (.pdelayRespFollowUp p m) s (fun t => t.ethl = s.ethl ∧ Counted bETHL 8 s t)) ∧
      (∀ n t1 k c t4 j, x.pdreq = some (n, t1, k) → x.pdWait = some (mSeq m.msg, c, t4, j) →
        Gives (.pdelayRespFollowUp p m) s (fun t => (ptpGet t p).pdreq = none ∧ (ptpGet t p).pdWait = none ∧ t.blk = s.blk ∧
          (ptpGet t p).p2p = if k = j then some ((((t4.toNat : Int) - t1.toNat) - (mTime m.msg + mCorr m.msg + c)).fdiv 2, k) else x.p2p)) ∧
      Gives (.announce p m) s (fun t => t.blk = s.blk ∧ ptpGet t p = { x with announces := x.announces ++ [m.msg] }))) ∧
  ∀ (p : Fin 16) (s : State), let x := ptpGet s p
    let on := portUp s p = true ∧ (ethCfg s p).ptp = true
    let queued := fun (i : Instr) (ty : Nat) (P : PtpRegs → Prop) => Gives i s (fun t => t.blk = s.blk ∧ P (ptpGet t p) ∧
      ∃ e, (portGet t p).txPtp = (portGet s p).txPtp ++ [e] ∧ e.ptp = some ty)
    (on → x.pstate = 6 → queued (.syncInterval p) mSync (fun y => y.seqSync = x.seqSync + 1) ∧
      queued (.announceInterval p) mAnnounce (fun y => y.seqAnn = x.seqAnn + 1)) ∧
    (x.pstate ≠ 6 → Gives (.syncInterval p) s (fun t => t = s) ∧ Gives (.announceInterval p) s (fun t => t = s)) ∧
    (on → isSlave x = true → (ethCfg s p).p2p = false → queued (.delayReqInterval p) mDelayReq (fun y => y.seqReq = x.seqReq + 1)) ∧
    (on → (ethCfg s p).p2p = true → queued (.pdelayReqInterval p) mPdelayReq (fun y => y.seqPdreq = x.seqPdreq + 1)) ∧
    Gives (.followUpTimeout ⟨p, false⟩) s (fun t => ptpGet t p = { x with syncWait := none } ∧
      (x.syncWait = none → t.blk = s.blk) ∧ (x.syncWait ≠ none → Counted bETHL 8 s t)) ∧
    Gives (.followUpTimeout ⟨p, true⟩) s (fun t => ptpGet t p = { x with pdWait := none } ∧
      (x.pdWait = none → t.blk = s.blk) ∧ (x.pdWait ≠ none → Counted bETHL 8 s t))

/-! ### Security (14_security.md) -/

/-- SIGNATURE_VERIFICATION, TAMPER_EVENT, DRBG_HEALTH_FAILURE, DBGDATA and the SEC descriptors (R398 to R413). The forms that
SEC_READ gives the root table and the tamper record are the model's. -/
def Obligations.RecordsBlobsSessionsAndTamper : Prop :=
  (∀ (v : Verif) (l : List Verif) (s : State), s.sec.verif = v :: l → let d := v.desc
    d ∈ (ringGet s d.ring).started → let b := d.buf
    let failed := fun (n : Nat) => Gives .signatureVerification s (fun t => t.sec.verif = l ∧ Answered d stAUTH_FAIL 0 t ∧ Counted bSEC n s t ∧
      t.sec.ocnt = s.sec.ocnt ∧ t.sec.netsec = s.sec.netsec ∧ t.sec.fwFloor = s.sec.fwFloor)
    (v.blob = false →
      (∀ n, signedFail s b = some n → failed n) ∧
      (let e := innerDesc d
       signedFail s b = none → dOp e = 0x6E → d8 e 16 = 1 → reservedOk e = true → (ringGet s d.ring).classMask.getLsbD (classRow 0x6E) = true →
        s.sec.fwFloor.toNat ≤ d64 e 24 → d64 e 24 < 2 ^ 32 → Gives .signatureVerification s (fun t => Answered d stOK 0 t ∧
          t.sec.ocnt.toNat = u64 b 0x10 ∧ s.sec.ocnt.toNat < u64 b 0x10 ∧ t.sec.fwFloor.toNat = d64 e 24 ∧ InAudit 1 s t))) ∧
    (v.blob = true →
      (∀ n, blobFail s b = some n → failed n) ∧
      (blobFail s b = none → blobSecret s b = none → failed 1) ∧
      ∀ x, blobFail s b = none → blobSecret s b = some x → let k := u16 b 6
        (u8 b 4 = 1 → Gives .signatureVerification s (fun t => Answered d stOK 0 t ∧ t.sec.netsec = some x ∧ t.sec.pairsec = s.sec.pairsec ∧
          t.sec.ocnt.toNat = u64 b 0x10 ∧ t.sec.sess = s.sec.sess)) ∧
        (u8 b 4 = 2 → Gives .signatureVerification s (fun t => Answered d stOK 0 t ∧ t.sec.pairsec = some x ∧ t.sec.netsec = s.sec.netsec ∧
          t.sec.ocnt.toNat = u64 b 0x10)) ∧
        (u8 b 4 = 5 → s.sec.noSecret = true → Gives .signatureVerification s (fun t => Answered d stNOT_READY 0 t ∧ Counted bSEC 7 s t ∧
          t.sec.sess = s.sec.sess)) ∧
        (u8 b 4 = 5 → s.sec.noSecret = false → 1024 ≤ k → k < 2048 → (sessGet s k).kind ≠ 0 → (sessGet s k).kind ≠ 5 →
          Gives .signatureVerification s (fun t => Answered d stBUSY 0 t ∧ Counted bSEC 7 s t ∧ t.sec.sess = s.sec.sess)) ∧
        (u8 b 4 = 5 → s.sec.noSecret = false → 1024 ≤ k → k < 2048 → (sessGet s k).kind = 0 ∨ (sessGet s k).kind = 5 →
          Gives .signatureVerification s (fun t => Answered d stOK 0 t ∧ t.sec.ocnt.toNat = u64 b 0x10 ∧ (sessGet t k).kind = 5 ∧ (sessGet t k).st = 1 ∧
            (sessGet t k).key = x ∧ (sessGet t k).last = 0 ∧ (sessGet t k).rights.toNat = u32 b 0x18 ∧ ∀ j, j ≠ k → sessGet t j = sessGet s j)))) ∧
  (∀ (c : Fin 14) (s : State),
    (tampArmed s c = true → Gives (.tamperEvent c) s (fun t => t.sec.dik = none ∧ t.sec.dxk = none ∧ t.sec.kek = none ∧ t.sec.netsec = none ∧
      t.sec.pairsec = none ∧ t.sec.noSecret = true ∧ t.sec.snuffed = true ∧ (srcGet t 208).pend = true ∧
      (∀ i, i < 14 → t.sec.tampSt.getLsbD i = (s.sec.tampSt.getLsbD i || i == c.val)) ∧
      t.sec.tampTime = (if s.sec.tampSt = 0 then (rtcTicks s).zeroExtend 64 else s.sec.tampTime) ∧
      (s.pwr.asleep = false → cntOf t bSEC 3 = satInc (cntOf s bSEC 3) ∧ InLantern 0x1001 s t) ∧ (s.pwr.asleep = true → t.blk = s.blk))) ∧
    (tampArmed s c = false → Gives (.tamperEvent c) s (fun t => t = s)) ∧
    (s.sec.drbgOk = true → Gives .drbgHealthFailure s (fun t => t.sec = { s.sec with drbgOk := false, drbgFailed := true } ∧ Counted bSEC 4 s t)) ∧
    (s.sec.drbgOk = false → Gives .drbgHealthFailure s (fun t => t = s))) ∧
  (∀ (m : RegMaster) (v : W64) (s : State), Reachable m s → blkOff s bSEC = false →
    (s.sec.debug = false → Gives (.dbgdata m none) s (fun t => t.out = .regRead m 0x100194 0 :: .regRead m 0x100190 0 :: s.out ∧ t.cell = s.cell ∧
        t.mc1 = s.mc1) ∧ Gives (.dbgdata m (some v)) s (fun t => t.cell = s.cell ∧ t.mc1 = s.mc1 ∧ t.dram = s.dram ∧ t.pimg = s.pimg)) ∧
    ∀ e, e < 8 → s.sec.debug = true → s.sec.dbgCtl.toNat % 16 = 2 + e → s.sec.dbgAddr.toNat + 8 ≤ 262144 → let a := s.sec.dbgAddr.toNat
      Gives (.dbgdata m none) s (fun t => ∃ lo hi : W32, t.out = .regRead m 0x100194 hi :: .regRead m 0x100190 lo :: s.out ∧
        lo.toNat + 2 ^ 32 * hi.toNat = cellLoad (engGet s e) a 8 ∧ t.cell = s.cell) ∧
      Gives (.dbgdata m (some v)) s (fun t => cellLoad (engGet t e) a 8 = v.toNat ∧ (∀ k, k ≠ e → engGet t k = engGet s k) ∧ t.mc1 = s.mc1)) ∧
  ∀ (d : HostDesc) (s : State),
    let refused := fun (i : Instr) (st : Nat) => Gives i s (fun t => Answered d st 0 t ∧ Counted bSEC 7 s t ∧ t.sec.roots = s.sec.roots ∧
      t.sec.fwFloor = s.sec.fwFloor ∧ t.sec.ocnt = s.sec.ocnt ∧ t.sec.scnt = s.sec.scnt ∧ t.sec.tampCfg = s.sec.tampCfg ∧
      ∀ k, (sessGet t k).kind = (sessGet s k).kind ∧ (sessGet t k).key = (sessGet s k).key)
    (Reaches 0x68 d s → (∀ a b, s.sec.dik = some a → s.sec.dxk = some b → s.sec.snuffed = false → s.sec.drbgOk = true →
        Gives (.secAttest d) s (fun t => Answered d stOK 0 t ∧ t.sec.scnt = s.sec.scnt + 1 ∧ ∃ x, Delivered (BitVec.ofNat 64 (d64 d 48)) x s t ∧
          u32 x 0 = 0x54535441 ∧ u64 x 0x10 = (s.sec.scnt.toNat + 1) % 2 ^ 64 ∧ slice x 0x20 32 = slice d.bytes 16 32)) ∧
      (s.sec.dik = none → refused (.secAttest d) stNOT_READY)) ∧
    (Reaches 0x69 d s → let f := d32 d 20
      let n := d32 d 24
      (d8 d 16 = 1 → f + n ≤ 2048 → Gives (.secRead d) s (fun t => Answered d stOK 0 t ∧ t.sec = s.sec ∧
        Delivered (dAddr d) ((List.range n).map fun i => sessBytes s (f + i)).flatten s t)) ∧
      (d8 d 16 = 2 → f + n ≤ 4 → Gives (.secRead d) s (fun t => Answered d stOK 0 t ∧ t.sec = s.sec ∧
        Delivered (dAddr d) ((List.range n).map fun i => rootEntry s (f + i)).flatten s t)) ∧
      ((d8 d 16 = 1 ∧ 2048 < f + n) ∨ (d8 d 16 = 2 ∧ 4 < f + n) ∨ 3 < d8 d 16 → refused (.secRead d) stRANGE) ∧
      (d8 d 16 = 0 → s.sec.dik = none → refused (.secRead d) stNOT_READY)) ∧
    (Reaches 0x6A d s → Gives (.secSigned d) s (fun t => t.sec.verif = s.sec.verif ++ [⟨d, false⟩] ∧ d ∈ (ringGet t d.ring).started ∧ t.blk = s.blk)) ∧
    (Reaches 0x6B d s → Gives (.secBlob d) s (fun t => t.sec.verif = s.sec.verif ++ [⟨d, true⟩] ∧ d ∈ (ringGet t d.ring).started ∧ t.blk = s.blk)) ∧
    (Reaches 0x6C d s → let k := d16 d 16
      let kind := (sessGet s k).kind
      let ends := kind = 2 ∨ kind = 4 ∨ kind = 5
      (2048 ≤ k → refused (.secRetire d) stRANGE) ∧ (k < 2048 → kind = 0 → refused (.secRetire d) stNOT_READY) ∧
      (k < 2048 → kind ≠ 0 → ¬ends → refused (.secRetire d) stREFUSED) ∧
      (k < 2048 → ends → k ≠ d16 d 4 ∨ d.signed.isSome = true → Gives (.secRetire d) s (fun t => Answered d stOK 0 t ∧ sessGet t k = {})) ∧
      (k < 2048 → ends → k = d16 d 4 → d.signed = none → Gives (.secRetire d) s (fun t => Answered d stOK 0 t ∧ (sessGet t k).st = 2 ∧
        (sessGet t k).kind = kind ∧ ∃ c ∈ t.hif.waiting, c.sqidx = d.sqidx ∧ c.retire = some k))) ∧
    (Reaches 0x6D d s → let k := d8 d 17
      let r := rootGet s k
      let dig := sha384 (slice d.buf 0 97)
      (1 < d8 d 16 ∨ 3 < k → refused (.secRoot d) stRANGE) ∧
      (d8 d 16 = 0 → k ≤ 3 → r.installed = true ∨ r.revoked = true ∨ dig.take 32 ≠ slice d.bytes 32 32 → refused (.secRoot d) stREFUSED) ∧
      (d8 d 16 = 0 → k ≤ 3 → r.installed = false → r.revoked = false → dig.take 32 = slice d.bytes 32 32 →
        Gives (.secRoot d) s (fun t => Answered d stOK 0 t ∧ rootUsable (rootGet t k) = true ∧ (rootGet t k).key = slice d.buf 0 97 ∧
          (rootGet t k).digest = BitVec.ofNat 384 (beNat dig) ∧ ∀ j, j ≠ k → rootGet t j = rootGet s j)) ∧
      (d8 d 16 = 1 → k ≤ 3 → rootUsable r = false ∨ usableRoots s ≤ 1 → refused (.secRoot d) stREFUSED) ∧
      (d8 d 16 = 1 → k ≤ 3 → rootUsable r = true → 1 < usableRoots s → Gives (.secRoot d) s (fun t => Answered d stOK 0 t ∧
        rootGet t k = { r with revoked := true } ∧ ∀ j, j ≠ k → rootGet t j = rootGet s j))) ∧
    (Reaches 0x6E d s → let v := d64 d 24
      (d8 d 16 = 0 → s.sched.rbFloor.toNat ≤ v → Gives (.secFloor d) s (fun t => Answered d stOK 0 t ∧ t.sched.rbFloor.toNat = v ∧ t.sec = s.sec)) ∧
      (d8 d 16 = 1 → s.sec.fwFloor.toNat ≤ v → v < 2 ^ 32 → Gives (.secFloor d) s (fun t => Answered d stOK 0 t ∧ t.sec.fwFloor.toNat = v ∧
        t.sched = s.sched)) ∧
      ((d8 d 16 = 0 ∧ v < s.sched.rbFloor.toNat) ∨ (d8 d 16 = 1 ∧ v < s.sec.fwFloor.toNat) ∨ 1 < d8 d 16 → refused (.secFloor d) stRANGE)) ∧
    (Reaches 0x6F d s →
      (d8 d 16 = 0 → Gives (.secCtl d) s (fun t => Answered d stOK 0 t ∧ t.sec.debugReq = true ∧ t.sec.debug = s.sec.debug)) ∧
      (d8 d 16 = 1 → Gives (.secCtl d) s (fun t => Answered d stOK 0 t ∧ t.sec.tampSt = 0 ∧ t.sec.tampTime = 0 ∧
        (∀ k, s.sec.kek = some k → s.sec.debug = false → s.sec.snuffed = false → t.sec.noSecret = false ∧
          t.sec.netsec = kwUnwrap k s.sec.wrapNet ∧ t.sec.pairsec = kwUnwrap k s.sec.wrapPair))) ∧
      (d8 d 16 = 2 → Gives (.secCtl d) s (fun t => Answered d stOK 0 t ∧ t.sec.tampLock = false ∧ t.sec.tampArm = false ∧ t.sec.tampCfg = s.sec.tampCfg)) ∧
      (d8 d 16 = 3 → s.sec.tampLock = false → s.sec.drbgOk = true ∨ (d32 d 24).testBit 20 = false → Gives (.secCtl d) s (fun t =>
        Answered d stOK 0 t ∧ t.sec.tampCfg.toNat = d32 d 24 % 2 ^ 21 ∧ t.sec.tampLock = true ∧ t.sec.tampArm = true)) ∧
      (3 < d8 d 16 → refused (.secCtl d) stRANGE))

/-! ### The redundant pair (15_redundant_pair.md) -/

/-- CUT, CUTEND, STREAM, ACK, HELLO, TIME, METER, IDLE, PSEEN_TIMEOUT, HANDSHAKE_RETRY, MIRROR_LANE_DOWN, MIRROR_LANE_UP
and PAIR's slots (R417 to R442). -/
def Obligations.MirrorFramesAreVerifiedAndTaken : Prop :=
  (∀ (f : MirRx) (s : State), let b := f.bytes
    let rows : List (Nat × Instr) := [(1, .cut f), (2, .cutend f), (3, .stream f), (4, .ack f), (6, .time f), (7, .meter f), (8, .idle f)]
    (pairOn s = false → ∀ r ∈ rows, Gives r.2 s (fun t => t = s)) ∧
    (pairOn s = true → mirFormOk b = false → ∀ r ∈ rows, Gives r.2 s (fun t => t.pair = s.pair ∧ Counted bPAIR 0 s t)) ∧
    (pairOn s = true → mirFormOk b = true → u16 b 0 = 0x524D →
      (s.sec.snuffed = true ∨ (mirOpen s.pair.keys s.pair.fcnt f.lane b = none ∧ mirOpen s.pair.nextKeys s.pair.fcnt2 f.lane b = none)) →
      ∀ r ∈ rows, u8 b 2 = r.1 → Gives r.2 s (fun t => t.pair = s.pair ∧ Counted bPAIR 1 s t)) ∧
    ∀ p, pairOn s = true → mirFormOk b = true → u16 b 0 = 0x524D → s.sec.snuffed = false → s.pair.nextKeys = none →
      mirOpen s.pair.keys s.pair.fcnt f.lane b = some p →
      let seen := fun (t : State) => t.pair.pseen = true ∧ t.pair.lastSeen = s.sched.mfn ∧
        tblGet t.pair.fcnt (2 * f.lane.val + u8 b 3 / 2 % 2) 0 = BitVec.ofNat 64 (u64 b 8 + 1) ∧ t.pair.role = s.pair.role ∧ t.pimg = s.pimg
      let cseq := BitVec.ofNat 64 (u64 b 16)
      (u8 b 2 = 8 → Gives (.idle f) s (fun t => seen t ∧ t.blk = s.blk ∧ t.pair.tlock = s.pair.tlock)) ∧
      (u8 b 2 = 1 → s.pair.role = 2 → Gives (.cut f) s (fun t => seen t ∧ t.blk = s.blk ∧ ∃ x ∈ t.pair.cutParts, x.cseq = cseq ∧ x.off = u32 b 24 ∧
        ((∀ y ∈ s.pair.cutParts, ¬(y.cseq = cseq ∧ y.off = u32 b 24)) → x.data = p))) ∧
      (u8 b 2 = 2 → s.pair.role = 2 → (∀ a, s.pair.applied = some a → a.toNat < u64 b 16) → (∀ y ∈ s.pair.cutEnds, y.cseq ≠ cseq) →
        Gives (.cutend f) s (fun t => seen t ∧ t.blk = s.blk ∧ ∃ x, t.pair.cutEnds = s.pair.cutEnds ++ [x] ∧ x.cseq = cseq ∧ x.nlines = u32 p 0 ∧
          x.nframes = u16 p 4 ∧ x.overflow = (u16 p 6).testBit 0 ∧ x.final = (u16 p 6).testBit 1 ∧ x.lsum.toNat = u64 p 8 ∧ x.arr = s.time.tbc)) ∧
      (u8 b 2 = 3 → s.pair.role = 2 → frozenM s 22 = false → u32 b 24 + p.length ≤ s.pair.slen.toNat →
        (∀ y ∈ s.pair.streamIn, ¬(y.item = u32 b 28 ∧ y.cseq = cseq ∧ y.off = u32 b 24)) → let a := s.pair.sbase.toNat + u32 b 24
        (inWindow s 22 a p.length true = true → Gives (.stream f) s (fun t => seen t ∧ t.blk = s.blk ∧
          t.pair.streamIn = s.pair.streamIn ++ [⟨u32 b 28, cseq, u32 b 24, p⟩])) ∧
        (inWindow s 22 a p.length true = false → Gives (.stream f) s (fun t => frozenM t 22 = true ∧ t.pair.streamIn = s.pair.streamIn))) ∧
      (u8 b 2 = 4 → s.pair.role = 1 → Gives (.ack f) s (fun t => seen t ∧ t.blk = s.blk ∧ t.pair.ple.toNat = u64 p 16 ∧ t.pair.pleOk = true ∧
        t.pair.ackReady = decide (u8 p 8 = 3) ∧ (u8 p 8 = 2 → s.pair.partnerCopying = false → t.pair.copyNext = some 0) ∧
        (u8 p 8 ≠ 2 → t.pair.copyNext = s.pair.copyNext))) ∧
      (u8 b 2 = 6 → s.pair.role = 2 → (∃ h, s.pair.hello = some h) → u8 b 3 / 2 % 2 = 0 → s.pair.timeTx ≠ 0 → u128 p 16 ≠ 0 →
        let ts := stampOf s f.cap f.frac
        let off := (((ts.toNat : Int) - ofTimeForm (u128 p 0)) - (ofTimeForm (u128 p 16) - s.pair.timeTx.toNat)).fdiv 2 -
          (if f.lane = 0 then s.pair.lasym0 else s.pair.lasym1).toInt
        Gives (.time f) s (fun t => seen t ∧ t.blk = s.blk ∧ t.pair.timeRx = ts ∧ t.pair.toff = BitVec.ofInt 64 off ∧
          (32768 < off.natAbs → t.pair.tlock = false ∧ t.pair.tlockRun = 0) ∧
          (off.natAbs ≤ 32768 → t.pair.tlock = (s.pair.tlock || decide (15 ≤ s.pair.tlockRun))))) ∧
      (u8 b 2 = 7 → Gives (.meter f) s (fun t => seen t ∧ t.metr = s.metr ∧
        (recordsOf s (u64 p 8) = [] ∨ u64 p 8 + 16 < s.sched.mfn.toNat → t.blk = s.blk) ∧
        ∀ own, recordsOf s (u64 p 8) = [own] → 1408 ≤ p.length → s.sched.mfn.toNat ≤ u64 p 8 + 16 →
          t.blk = (countN bMETR 6 (fwdOffs.filter fun o => fwdDiffer s.metr.cfg (u64 own o) (u64 p o)).length s).blk))) ∧
  (∀ (f : MirRx) (s : State), let b := f.bytes
    let h : Hello := { helloOf (b.drop 32) with
      arr := s.time.tbc }
    let tagged := (keyHello s h.devuid).map (fun k => (hmac256 k (b.take 128)).take 16) = some ((b.take 144).drop 128)
    pairOn s = true → s.pair.refused = false → mirFormOk b = true → s.sec.snuffed = false → u16 b 0 = 0x524D → u8 b 2 = 5 → b.length = 148 →
    (¬tagged → Gives (.hello f) s (fun t => t.pair.hello = s.pair.hello ∧ t.pair.keys = s.pair.keys ∧ Counted bPAIR 1 s t)) ∧
    (tagged → h.cfgd ≠ cfgDigest s ∨ h.actid ≠ s.sched.actId → Gives (.hello f) s (fun t => t.pair = { s.pair with refused := true, refusedAt := s.sched.mfn } ∧
      Counted bPAIR 8 s t)) ∧
    (tagged → h.cfgd = cfgDigest s → h.actid = s.sched.actId → s.pair.hello = none → s.pair.keys = none → s.pair.rekeyReq = [] →
      s.pair.nonce ≠ [] → ∀ k, mirKeys s h = some k →
        ((mirSess k s).isSome = true → Gives (.hello f) s (fun t => t.pair.hello = some h ∧ t.pair.partner = h.devuid ∧ t.pair.fcnt = [] ∧
          t.blk = s.blk ∧ t.pair.keys = some k)) ∧
        (mirSess k s = none → Gives (.hello f) s (fun t => t.pair = s.pair ∧ Counted bSEC 7 s t)))) ∧
  (∀ (k : Fin 2) (s : State),
    Gives (.mirrorLaneDown k) s (fun t => Counted bPAIR 7 s t ∧ t.pair.lane0 = (s.pair.lane0 && k != 0) ∧ t.pair.lane1 = (s.pair.lane1 && k != 1)) ∧
    Gives (.mirrorLaneUp k) s (fun t => t.blk = s.blk ∧ t.pair.lane0 = (s.pair.lane0 || k == 0) ∧ t.pair.lane1 = (s.pair.lane1 || k == 1)) ∧
    let late := s.sched.run = false ∨ s.pair.lastSeen.toNat + 16 ≤ s.sched.mfn.toNat
    let retry := s.sched.run = false ∨ s.pair.refusedAt.toNat + 1000 ≤ s.sched.mfn.toNat
    (s.pair.mode = true → late → Gives .pseenTimeout s (fun t => t.pair.pseen = false ∧ t.pair.keys = none ∧ t.pair.hello = none ∧ t.pair.role = s.pair.role ∧
      t.blk = s.blk)) ∧
    (s.pair.mode = false ∨ ¬late → Gives .pseenTimeout s (fun t => t = s)) ∧
    (retry → Gives .handshakeRetry s (fun t => t = { s with pair := { s.pair with refused := false } })) ∧
    (¬retry → Gives .handshakeRetry s (fun t => t = s))) ∧
  ∀ s : State, let passed := if linkRuns .pair s then slotReached bPAIR s else s
    Gives (.receiveSlot .pair) s (fun t => t = passed) ∧
    (s.pair.role ≠ 1 → Gives (.transmitSlot .pair) s (fun t => t = passed)) ∧
    ∀ k o, linkRuns .pair s = true → s.pair.mode = true → s.pair.role = 1 → s.sec.snuffed = false → s.pair.sendNext = false → s.pair.keys = some k →
      s.pair.streamOut = [o] → o.data ≠ [] → o.data.length ≤ 16332 → Gives (.transmitSlot .pair) s (fun t => t.pair.streamOut = [] ∧ t.blk = (slotReached bPAIR s).blk ∧
        ∃ b, t.out = .mirror 0 b :: s.out ∧ u16 b 0 = 0x524D ∧ u8 b 2 = 3 ∧ u32 b 28 = o.item % 2 ^ 32 ∧ u64 b 16 = o.cseq.toNat ∧
          t.pair.fcnt = tblPut s.pair.fcnt 0 (tblGet s.pair.fcnt 0 0 + 1) 0)

/-- BUGLE, MINOR_FRAME_START, CUT_SLOT, the pair descriptors, their timeouts and PAIR_REJOIN_RESET (R414 to R445, R503). -/
def Obligations.RolesFollowLeasesAndCutsAreApplied : Prop :=
  (∀ (b : Bytes) (crc : Bool) (key : Bytes) (s : State), enOf s bPAIR = true → s.pair.mode = true ∨ s.pair.modeReq ≠ [] →
    s.sec.snuffed = false → keyWitness s = some key →
    let ok := crc = true ∧ b.length = 64 ∧ u8 b 0 = 0x10 ∧ slice b 8 8 = devuid s ∧ (hmac256 key (b.take 48)).take 16 = b.drop 48 ∧
      s.pair.fvRx.toNat < u64 b 40 ∧ s.pair.epoch.toNat ≤ u32 b 4
    (¬ok → Gives (.bugle b crc) s (fun t => t.pair = s.pair ∧ t.out = s.out ∧ Counted bPAIR 5 s t)) ∧
    (ok → witSess key s = none → Gives (.bugle b crc) s (fun t => t.pair = s.pair ∧ t.out = s.out ∧ Counted bSEC 7 s t)) ∧
    (ok → (witSess key s).isSome = true → Gives (.bugle b crc) s (fun t => t.pair.grant = ⟨byteAt b 1, BitVec.ofNat 64 (u64 b 16), BitVec.ofNat 64 (u64 b 24), BitVec.ofNat 64 (u64 b 32)⟩ ∧
      t.pair.epoch.toNat = u32 b 4 ∧ t.pair.fvRx.toNat = u64 b 40 ∧ t.pair.fvTx = s.pair.fvTx + 1 ∧ t.pair.role = s.pair.role ∧
      t.pair.pleOk = (s.pair.pleOk && !(u64 b 16 == 0 && u64 b 24 == 0)) ∧ t.pair.noLease = (s.pair.noLease || u8 b 1 == 1 || u8 b 1 == 2) ∧
      (u8 b 1 ≠ 2 → s.pair.witsel = false → ∃ w, t.out = .witness w :: s.out) ∧
      (∀ d n, u8 b 1 = 2 → s.pair.swapReq = [(d, n)] → d ∈ (ringGet s d.ring).started → Answered d stOK 0 t ∧ t.pair.swapAsked = false)))) ∧
  (∀ (hot : Bool) (s : State), enOf s bSCHED = true → s.sched.image.isSome = true → s.sched.run = true →
    let m := (s.sched.mfn + 1).toNat
    let wl := s.pair.grant.s.toNat ≤ m ∧ m < s.pair.grant.e.toNat
    let pl := s.pair.pleOk = true ∧ m < s.pair.ple.toNat
    let c := s.pair.cseq.toNat
    let posted := fun (t : State) (role cause : Nat) => s.pair.ringEn = true → ∃ x ∈ t.hif.waiting, x.ring = s.pair.ring.toNat ∧ x.unsol = true ∧
      x.status = 0 ∧ x.data = BitVec.ofNat 64 (c % 2 ^ 48 + role * 2 ^ 48 + cause * 2 ^ 56)
    let changed := fun (role cause : Nat) (P : State → Prop) => Gives (.minorFrameStart hot) s (fun t => t.pair.role.toNat = role ∧
      (srcGet t 206).pend = true ∧ InLantern 0x1101 s t ∧ posted t role cause ∧ P t)
    let same := Gives (.minorFrameStart hot) s (fun t => t.pair.role = s.pair.role ∧ (∀ k, cntOf t bPAIR k = cntOf s bPAIR k))
    let cause := if s.pair.grant.act = 1 then 2 else if s.pair.grant.act = 2 then 3 else 4
    let ready := s.pair.copied = true ∧ s.pair.tlock = true ∧ s.sched.actId = s.pair.appliedAct ∧ frozenM s 22 = false ∧ s.sec.noSecret = false ∧
      s.sec.snuffed = false ∧ ∃ a, s.pair.applied = some a ∧ m ≤ a.toNat + s.pair.eligage.toNat
    let free := if s.pair.grant.act = 2 then s.pair.finalApplied = true else s.pair.ple.toNat ≤ m
    (s.pair.mode = true →
      (s.pair.role = 1 → s.pair.finalCut = false → (wl ∨ pl → same) ∧
        (¬wl → ¬pl → changed 3 1 fun t => cntOf t bPAIR 6 = satInc (cntOf s bPAIR 6) ∧ drives t = false)) ∧
      (s.pair.role = 1 → s.pair.finalCut = true → changed 2 3 fun t => t.pair.tlock = true ∧ t.pair.copied = true ∧ drives t = false) ∧
      (s.pair.role = 2 → (ready → wl → free → changed 1 cause fun t => drives t = true ∧ (∀ n, (chGet t n).tx = []) ∧
          ∀ k ∈ s.canl.tmpl.map (·.1), (sessGet s k).kind = 1 → (sessGet t k).fvTx = (stnGet s k).carTx + 4096 ∧
            (sessGet t k).fvRx.toNat = max (sessGet s k).fvRx.toNat (stnGet s k).carRx.toNat) ∧
        (¬(ready ∧ wl ∧ free) → same)) ∧
      (s.pair.role = 3 → s.pair.pseen = false → (wl → changed 1 cause fun t => drives t = true) ∧ (¬wl → same))) ∧
    (s.pair.mode = false → (s.pair.modeReq = [] ∨ ¬wl → same) ∧
      ∀ d n, s.pair.modeReq = [(d, n)] → wl → d ∈ (ringGet s d.ring).started → changed 1 cause fun t => t.pair.mode = true ∧ t.pair.modeReq = [] ∧
        Answered d stOK 0 t)) ∧
  (∀ s : State, s.sched.run = true → frozenM s 22 = false → pairOn s = true →
    (∀ k, s.pair.role = 1 → s.pair.keys = some k → s.pair.sendNext = false → s.sec.snuffed = false → Gives .cutSlot s (fun t =>
      let n := (dirtyLines s.pair.snap s).length
      t.pair.cseq = s.sched.mfn ∧ t.pair.cutLines = BitVec.ofNat 16 n ∧ t.pimg = s.pimg ∧ t.cell = s.cell ∧
      (∀ i, cntOf t bPAIR i = if i = 3 ∧ 7168 < n then satInc (cntOf s bPAIR 3) else cntOf s bPAIR i) ∧
      (t.pair.finalCut = true ↔ s.pair.finalCut = true ∨ (s.pair.grant.act = 2 ∧ s.pair.grant.e = s.sched.mfn + 1)) ∧
      ∀ lane, lane < 2 → ∃ b, Out.mirror lane b ∈ t.out ∧ u8 b 2 = 2 ∧ u64 b 16 = s.sched.mfn.toNat)) ∧
    (s.pair.role = 3 → Gives .cutSlot s (fun t => t = s)) ∧
    ∀ e a, s.pair.role = 2 → s.pair.cutEnds = [e] → cutComplete s e = true → e.arr.toNat + 18 ≤ s.time.tbc.toNat → e.actid = s.sched.actId →
      e.overflow = false → e.swb = 0 → s.sched.switchPend = false → s.pair.applied = some a → s.pair.streamIn = [] → copyWhole s = true →
      let u := applyLines e s
      (e.cseq.toNat = a.toNat + 1 → lsumOf u = e.lsum → Gives .cutSlot s (fun t => t.pair.applied = some e.cseq ∧ t.pair.cutEnds = [] ∧
        t.pair.copied = true ∧ t.pimg = u.pimg ∧ t.cell = u.cell ∧ t.blk = u.blk)) ∧
      (e.cseq.toNat = a.toNat + 1 → lsumOf u ≠ e.lsum → Gives .cutSlot s (fun t => t.pair.applied = some e.cseq ∧ t.pair.copied = false ∧
        t.pimg = u.pimg ∧ cntOf t bPAIR 4 = satInc (cntOf s bPAIR 4))) ∧
      (e.cseq.toNat ≠ a.toNat + 1 → Gives .cutSlot s (fun t => t.pair.copied = false ∧ cntOf t bPAIR 2 = satInc (cntOf s bPAIR 2)))) ∧
  (∀ (d : HostDesc) (s : State),
    let refused := fun (i : Instr) (st : Nat) => Gives i s (fun t => Answered d st 0 t ∧ Counted bPAIR 9 s t ∧ t.pair = s.pair)
    (Reaches 0x70 d s → (d8 d 16 ≤ 1 → Gives (.pairRead d) s (fun t => Answered d stOK 0 t ∧ t.pair = s.pair ∧ Delivered (dAddr d)
        (if d8 d 16 = 0 then pairBytes s else slice s.pair.lastBugle 0 64 ++ slice s.pair.lastBeat 0 64) s t)) ∧
      (1 < d8 d 16 → refused (.pairRead d) stRANGE)) ∧
    (Reaches 0x71 d s → (1 < d8 d 16 → refused (.pairMode d) stRANGE) ∧ (d8 d 16 = 0 → s.pair.pseen = true → refused (.pairMode d) stREFUSED) ∧
      (d8 d 16 = 0 → s.pair.pseen = false → Gives (.pairMode d) s (fun t => Answered d stOK 0 t ∧ t.pair.mode = false ∧
        (s.pair.mode = true → t.pair.role = 0))) ∧
      (d8 d 16 = 1 → s.pair.mode = false → Gives (.pairMode d) s (fun t => t.pair.modeReq = s.pair.modeReq ++ [(d, s.sched.mfn)] ∧ t.pair.mode = false ∧
        t.pair.role = s.pair.role ∧ d ∈ (ringGet t d.ring).started))) ∧
    (Reaches 0x72 d s → (s.sec.drbgOk = true → Gives (.pairRekey d) s (fun t => t.pair.rekeyReq = s.pair.rekeyReq ++ [(d, s.sched.mfn)] ∧
        t.pair.keys = s.pair.keys ∧ t.pair.nonce.length = 32)) ∧ (s.sec.drbgOk = false → refused (.pairRekey d) stNOT_READY)) ∧
    (Reaches 0x73 d s → (s.pair.role = 2 → Gives (.pairResync d) s (fun t => Answered d stOK 0 t ∧ t.pair.copied = false ∧ t.pair.role = 2)) ∧
      (s.pair.role ≠ 2 → refused (.pairResync d) stNOT_READY)) ∧
    (Reaches 0x74 d s → Gives (.pairSwapreq d) s (fun t => t.pair.swapReq = s.pair.swapReq ++ [(d, s.sched.mfn)] ∧ t.pair.swapAsked = true)) ∧
    ∀ n : W64, d ∈ (ringGet s d.ring).started → let passed := fun (k : Nat) => n.toNat + k ≤ s.sched.mfn.toNat
      (s.pair.modeReq = [(d, n)] → ¬passed 10000 → Gives .pairModeTimeout s (fun t => t = s)) ∧
      (s.pair.rekeyReq = [(d, n)] → ¬passed 1000 → Gives .pairRekeyTimeout s (fun t => t = s)) ∧
      (s.pair.swapReq = [(d, n)] → ¬passed 10000 → s.pair.swapAsked = true → Gives .pairSwapreqTimeout s (fun t => t = s)) ∧
      (s.pair.modeReq = [(d, n)] → passed 10000 → Gives .pairModeTimeout s (fun t => Answered d stTIMEOUT 0 t ∧ t.pair.modeReq = [] ∧ t.pair.mode = s.pair.mode ∧
        Counted bPAIR 9 s t)) ∧
      (s.pair.rekeyReq = [(d, n)] → passed 1000 → Gives .pairRekeyTimeout s (fun t => Answered d stTIMEOUT 0 t ∧ t.pair.keys = s.pair.keys ∧ t.pair.nextKeys = none ∧
        Counted bPAIR 9 s t)) ∧
      (s.pair.swapReq = [(d, n)] → passed 10000 → Gives .pairSwapreqTimeout s (fun t => Answered d stTIMEOUT 0 t ∧ t.pair.swapAsked = false ∧ Counted bPAIR 9 s t))) ∧
  ∀ s : State, let due := s.pair.mode = true ∧ s.sched.run = true ∧ s.pair.role = 3 ∧ s.pair.sameGrid = false ∧ ∃ h, s.pair.hello = some h ∧ h.role = 1
    (due → s.pwr.asleep = false → s.sys.rstReq = none → Gives .pairRejoinReset s (fun t => t.sys.rstReq = some 6 ∧ t.pwr.pflock = true ∧
        (s.pwr.pflock = true → InLantern 0x1181 s t))) ∧
    (¬due → Gives .pairRejoinReset s (fun t => t = s))

/-! ### Records and storage (16_records_and_storage.md) -/

/-- LANTERN_WRITE, AUDIT_FREEZE_EXPIRY, REC_READ, AUD_FREEZE, AUD_CLEAR and LAN_THAW (R451 to R460, R471). -/
def Obligations.LanternAndAuditRecordsAreKept : Prop :=
  (∀ s : State, (s.pwr.pflock = true ∨ frozenM s 23 = true → Gives .lanternWrite s (fun t => t = s)) ∧
    ∀ r q, s.pwr.pflock = false → frozenM s 23 = false → s.recs.lfrozen = false → s.recs.queue = r :: q → s.recs.lleft ≠ some 0 →
      let n := s.recs.lseq + 1
      let at_ := 0x20000 + 64 * (n.toNat % 2048)
      Gives .lanternWrite s (fun t => let b := mramRead at_ 64 t
        t.recs.lseq = n ∧ t.recs.drops = 0 ∧ (∀ a, a < at_ ∨ at_ + 64 ≤ a → tblGet t.mram a 0 = tblGet s.mram a 0) ∧
        u32 b 0 = r.pcyc.toNat ∧ leNat (slice b 4 6) = r.opt.toNat ∧ u16 b 0xA = r.code.toNat ∧ byteAt b 0xC = r.sev ∧
        u16 b 0xE = 256 * min 255 s.recs.drops ∧ u64 b 0x10 = r.mfn.toNat ∧ u32 b 0x18 = n.toNat ∧ slice b 0x1C 32 = slice r.data 0 32 ∧
        lanValid b = true ∧ (s.recs.optDue = true → t.recs.optSaved = s.recs.opt) ∧
        (s.recs.lleft = none → r.sev = 3 → t.recs.lfatal = n ∧ t.recs.lleft = some 63 ∧ t.recs.lfrozen = false ∧ t.recs.queue = q) ∧
        (s.recs.lleft = none → r.sev ≠ 3 → t.recs.lfatal = s.recs.lfatal ∧ t.recs.lleft = none ∧ t.recs.lfrozen = false ∧ t.recs.queue = q) ∧
        (∀ k, s.recs.lleft = some (k + 2) → t.recs.lleft = some (k + 1) ∧ t.recs.lfatal = s.recs.lfatal ∧ t.recs.lfrozen = false ∧
          t.recs.queue = q) ∧
        (s.recs.lleft = some 1 → t.recs.lfrozen = true ∧ t.recs.lfatal = s.recs.lfatal ∧ t.recs.queue = [] ∧
          (∀ x, q = [x] → Counted bREC 1 s t)))) ∧
  (∀ s : State, let due := s.sched.run = false ∨ s.recs.afreezeEnd.toNat ≤ s.sched.mfn.toNat
    (due → Gives .auditFreezeExpiry s (fun t => t = { s with recs := { s.recs with afrozen := false } })) ∧
    (¬due → Gives .auditFreezeExpiry s (fun t => t = s))) ∧
  ∀ (d : HostDesc) (s : State),
    let refused := fun (i : Instr) (st : Nat) => Gives i s (fun t => Answered d st 0 t ∧ Counted bREC 5 s t ∧ t.recs = s.recs)
    let w := d8 d 16
    let n := d32 d 20
    let f := d64 d 40
    (Reaches 0x78 d s →
      (3 < w → refused (.recRead d) stRANGE) ∧
      (w = 3 → Gives (.recRead d) s (fun t => Answered d stOK n t ∧ t.recs = s.recs ∧
        Delivered (dAddr d) (mramRead 0x51000 64 s ++ tagData s) s t)) ∧
      (w = 0 → 0 < n → s.recs.lseq = 0xFFFFFFFF ∨ 2 ^ 32 ≤ f ∨ 2 ^ 31 ≤ (s.recs.lseq - BitVec.ofNat 32 f).toNat → refused (.recRead d) stRANGE) ∧
      (w = 0 → n = 1 → s.recs.lseq ≠ 0xFFFFFFFF → f < 2 ^ 32 → let back := (s.recs.lseq - BitVec.ofNat 32 f).toNat
        let b := mramRead (0x20000 + 64 * (f % 2048)) 64 s
        (2048 ≤ back → back < 2 ^ 31 → refused (.recRead d) stDROPPED) ∧
        (back < 2048 → u32 b 0x18 = f → Gives (.recRead d) s (fun t => Answered d stOK 1 t ∧ Delivered (dAddr d) b s t ∧ t.recs = s.recs ∧
          (lanValid b = true → t.blk = s.blk) ∧ (lanValid b = false → Counted bREC 4 s t)))) ∧
      (w = 1 ∨ w = 2 → s.nvm.formatted = false ∨ (w = 1 ∧ s.recs.afrozen = false) → refused (.recRead d) stNOT_READY) ∧
      (w = 1 ∨ w = 2 → s.nvm.formatted = true → (w = 1 → s.recs.afrozen = true) →
        let fin := if w = 1 then (s.recs.audEnd + 1).toNat else s.recs.hseqNext.toNat
        let low := if w = 1 then s.recs.audFirst.toNat else s.recs.hseqFirst.toNat
        (fin < f + n → refused (.recRead d) stRANGE) ∧ (f + n ≤ fin → f < low → refused (.recRead d) stDROPPED) ∧
        (f + n ≤ fin → low ≤ f → 0 < n → Gives (.recRead d) s (fun t => d ∈ (ringGet t d.ring).started ∧ t.blk = s.blk ∧
          t.recs.reads = s.recs.reads ++ [⟨d, w, f, n, 0, dAddr d⟩])))) ∧
    (Reaches 0x79 d s →
      (w = 0 → Gives (.audFreeze d) s (fun t => Answered d stOK 0 t ∧ t.recs.afrozen = false)) ∧
      (w = 1 → 1 ≤ n → n ≤ 3600000 → Gives (.audFreeze d) s (fun t => Answered d stOK 0 t ∧ t.recs.afrozen = true ∧
        t.recs.afreezeEnd = s.sched.mfn + BitVec.ofNat 64 n ∧
        t.recs.audEnd = if s.recs.afrozen = true then s.recs.audEnd else s.recs.audNext - 1)) ∧
      (1 < w ∨ (w = 1 ∧ (n = 0 ∨ 3600000 < n)) → refused (.audFreeze d) stRANGE)) ∧
    ∀ oc, d.signed = some oc →
      (Reaches 0x7A d s →
        (s.nvm.formatted = false → refused (.audClear d) stNOT_READY) ∧
        (s.nvm.formatted = true → s.recs.afrozen = true ∨ s.recs.clearing.isSome = true → refused (.audClear d) stBUSY) ∧
        (s.nvm.formatted = true → s.recs.afrozen = false → s.recs.clearing = none → Gives (.audClear d) s (fun t =>
          InLantern 0x1201 s t ∧ t.recs.audPages = [] ∧ t.recs.audFirst = s.recs.audNext ∧ t.recs.audNext = s.recs.audNext + 1 ∧
          t.recs.clearing = some d ∧ d ∈ (ringGet t d.ring).started ∧
          (∀ b, (nbGet s b).part = 0 → (nbGet s b).log ≠ 0xFFFFFFFF → 0 < (nbGet s b).used → b ∈ t.recs.eraseQ) ∧
          ∃ x, t.recs.journal = [x] ∧ x.seq = s.recs.audNext ∧ x.code = 0x1201 ∧ u64 x.data 0 = oc.toNat ∧
            leNat (slice x.data 8 6) = s.recs.audFirst.toNat ∧ leNat (slice x.data 14 6) = (s.recs.audNext - 1).toNat))) ∧
      (Reaches 0x7B d s →
        (s.recs.lfrozen = false → refused (.lanThaw d) stNOT_READY) ∧
        (s.recs.lfrozen = true → Gives (.lanThaw d) s (fun t => Answered d stOK 0 t ∧ t.recs.lfrozen = false ∧ t.recs.lleft = none ∧
          t.recs.lfatal = 0xFFFFFFFF ∧ (s.recs.queue = [] → ∃ x, t.recs.queue = [x] ∧ x.code = 0x1202 ∧ x.sev = 0 ∧
            u64 x.data 0 = oc.toNat ∧ u32 x.data 8 = s.recs.lfatal.toNat))))

/-- REC_SLOT, HIST_WRITE, TAG_WRITE, TAG_LOCK and NVM_FORMAT (R457 to R471). The preference of an audit page over a
history page is the model's choice. -/
def Obligations.StorageIsProgrammedReadAndTagged : Prop :=
  (∀ (r : NandReport) (s : State), frozenM s 23 = true ∨ (r = .busy ∧ s.recs.op ≠ none) → Gives (.recSlot r) s (fun t => t = s)) ∧
  (∀ (r : NandReport) (s : State), frozenM s 23 = false → s.recs.op = none → s.nvm.formatReq = none → enOf s bREC = true →
    s.nvm.formatted = true → s.recs.reads = [] → s.recs.copying = none → (∀ kv ∈ s.nvm.blocks, kv.2.refresh = false) →
    s.recs.clearProg = false →
    let full := s.recs.afrozen = false ∧ 0 < recsPerPage s ∧ recsPerPage s ≤ s.recs.journal.length
    let rs := s.recs.journal.take (recsPerPage s)
    (∀ b, full → nextPage s 0 s.recs.audBlk = some b → Gives (.recSlot r) s (fun t => t.recs.op = some (.audit b rs) ∧
      t.recs.journal = s.recs.journal ∧ (nbGet t b).used = (nbGet s b).used + 1 ∧ t.blk = s.blk ∧
      t.out = .nand 0 b (nbGet s b).used (rs.map audBytes).flatten :: s.out)) ∧
    ∀ b d q, ¬full → s.recs.histQueue = d :: q → nextPage s 1 s.recs.histBlk = some b → Gives (.recSlot r) s (fun t =>
      t.recs.op = some (.history b s.recs.hseqNext.toNat d) ∧ (nbGet t b).used = (nbGet s b).used + 1 ∧ t.blk = s.blk ∧
      t.recs.histQueue = s.recs.histQueue ∧ t.out = .nand 0 b (nbGet s b).used (slice d.buf 0 4096) :: s.out)) ∧
  (∀ (s : State) (b : Nat), frozenM s 23 = false → s.nvm.formatReq = none → enOf s bREC = false → let v := nbGet s b
    (∀ rs, s.recs.op = some (.audit b rs) →
      (s.recs.clearProg = false → Gives (.recSlot .done) s (fun t => t.recs.op = none ∧ t.recs.journal = s.recs.journal.drop rs.length ∧
        t.recs.audPages = s.recs.audPages ++ [⟨b, v.used - 1, rs⟩] ∧ t.recs.audNext = s.recs.audNext ∧ t.blk = s.blk)) ∧
      (∀ d, s.recs.clearProg = true → s.recs.clearing = some d → d ∈ (ringGet s d.ring).started → Gives (.recSlot .done) s (fun t =>
        Answered d stOK 0 t ∧ t.recs.clearing = none ∧ t.recs.clearProg = false)) ∧
      Gives (.recSlot .failed) s (fun t => t.recs.op = none ∧ t.recs.journal = s.recs.journal ∧ t.recs.audPages = s.recs.audPages ∧
        (nbGet t b).st = 4 ∧ Counted bNVM 5 s t)) ∧
    (∀ h d, s.recs.op = some (.history b h d) → d ∈ (ringGet s d.ring).started → Gives (.recSlot .done) s (fun t =>
      Answered d stOK h t ∧ (tblGet t.recs.hist h {}).data = slice d.buf 0 4096 ∧ t.recs.hseqNext = BitVec.ofNat 64 (h + 1) ∧
      t.recs.histQueue = s.recs.histQueue.tail)) ∧
    (s.recs.op = some (.erase b) → v.part = 0 →
      ((v.erases + 1).toNat < 1000 * s.nvm.endur.toNat → Gives (.recSlot .done) s (fun t => t.recs.op = none ∧ t.blk = s.blk ∧
        (nbGet t b).erases = v.erases + 1 ∧ (nbGet t b).reads = 0 ∧ (nbGet t b).used = 0)) ∧
      (1000 * s.nvm.endur.toNat ≤ (v.erases + 1).toNat → Gives (.recSlot .done) s (fun t => (nbGet t b).st = 5 ∧ Counted bNVM 2 s t))) ∧
    ∀ r p page cw, s.recs.op = some (.read r.desc) → s.recs.reads = [r] → r.what = 2 → s.recs.hist = [(r.next, p)] → r.left = 1 →
      r.desc ∈ (ringGet s r.desc.ring).started →
      ((∀ c ∈ cw, c = some 0) → Gives (.recSlot (.read page cw)) s (fun t => Answered r.desc stOK (r.done + 1) t ∧
        Delivered r.addr p.data s t ∧ t.recs.reads = [])) ∧
      (cw = [none] → Gives (.recSlot (.read page cw)) s (fun t => Answered r.desc stPARTIAL r.done t ∧ t.nvm.uncor = true ∧
        Delivered r.addr (slice page 0 4096) s t ∧ t.recs.reads = [] ∧ cntOf t bNVM 1 = satInc (cntOf s bNVM 1)))) ∧
  (∀ (r : NandReport) (d : HostDesc) (s : State), frozenM s 23 = false → s.recs.op = none → enOf s bREC = false → s.nvm.formatReq = some d →
    s.recs.clearing = none → d ∈ (ringGet s d.ring).started → Gives (.recSlot r) s (fun t => Answered d stOK 0 t ∧ InLantern 0x1301 s t ∧
      t.nvm.formatted = true ∧ t.nvm.formatReq = none ∧ t.recs.hist = [] ∧ t.recs.audPages = [] ∧ t.recs.audCap.toNat ≤ 1048576 ∧
      t.nvm.onfiId = Config.nandId)) ∧
  ∀ (d : HostDesc) (s : State),
    let refused := fun (i : Instr) (st : Nat) => Gives i s (fun t => Answered d st 0 t ∧ Counted bNVM 9 s t ∧ t.nvm = s.nvm ∧
      t.recs = s.recs ∧ t.mram = s.mram)
    let o := d16 d 16
    let n := d16 d 18
    (Reaches 0x7C d s → (s.nvm.formatted = false → refused (.histWrite d) stNOT_READY) ∧ (s.nvm.formatted = true →
      Gives (.histWrite d) s (fun t => t.recs.histQueue = s.recs.histQueue ++ [d] ∧ d ∈ (ringGet t d.ring).started ∧ t.blk = s.blk))) ∧
    (Reaches 0x7D d s → (s.nvm.tagLock = true → refused (.tagWrite d) stLOCKED) ∧
      (s.nvm.tagLock = false → n = 0 ∨ 512 < o + n → refused (.tagWrite d) stRANGE) ∧
      (s.nvm.tagLock = false → 0 < n → o + n ≤ 512 → s.pwr.pflock = false → (∀ k x, tagSeq s k = some x → x < 2 ^ 64 - 1) →
        Gives (.tagWrite d) s (fun t => Answered d stOK 0 t ∧ tagData t = patch (tagData s) o (slice d.buf 0 n) ∧
          (tagCur t).map (·.2) = some (((tagCur s).map (·.2)).getD 0 + 1) ∧
          ∀ a, a < 0x51100 ∨ 0x51610 ≤ a → tblGet t.mram a 0 = tblGet s.mram a 0))) ∧
    (Reaches 0x7E d s → (d8 d 16 ≤ 1 → s.pwr.pflock = false → Gives (.tagLock d) s (fun t => Answered d stOK 0 t ∧
        t.nvm.tagLock = decide (d8 d 16 = 1))) ∧
      (1 < d8 d 16 → refused (.tagLock d) stRANGE)) ∧
    (Reaches 0x7F d s → (s.recs.afrozen = true ∨ s.nvm.formatReq.isSome = true → refused (.nvmFormat d) stBUSY) ∧
      (s.recs.afrozen = false → s.nvm.formatReq = none → Gives (.nvmFormat d) s (fun t => t.nvm.formatReq = some d ∧ t.blk = s.blk ∧
        d ∈ (ringGet t d.ring).started)))

/-! ### Status panel (17_status_panel.md) -/

/-- PANEL_PHASE, PGOOD, PUMP_TIMEOUT and the panel descriptors (R472 to R484). -/
def Obligations.PanelUpdatesAreDrivenAndAccounted : Prop :=
  (∀ s : State, s.pnl.run = none → s.pnl.queue = [] → Gives .panelPhase s (fun t => t = s) ∧ Gives .pgood s (fun t => t = s) ∧
    Gives .pumpTimeout s (fun t => t = s)) ∧
  (∀ (s : State) (r : PnlRun), s.pnl.run = some r →
    (r.good = false ∨ frozenM s 24 = true ∨ s.pwr.pflock = true → Gives .panelPhase s (fun t => t = s)) ∧
    (s.pnl.pen = true → Gives .pgood s (fun t => t = { s with pnl := { s.pnl with run := some { r with good := true } } })) ∧
    (r.good = true → Gives .pumpTimeout s (fun t => t = s)) ∧
    ∀ d, r.good = false → r.desc = some d → d ∈ (ringGet s d.ring).started → s.pnl.queue = [] → s.pwr.pflock = false →
      Gives .pumpTimeout s (fun t => Answered d stTIMEOUT 0 t ∧ Counted bPNL 1 s t ∧ t.pnl.run = none ∧ t.pnl.pen = false ∧
        jOk t = true ∧ jState t = 0 ∧ ∀ a, a < pnlJour ∨ pnlJour + 64 ≤ a → tblGet t.mram a 0 = tblGet s.mram a 0)) ∧
  (∀ (s : State) (r : PnlRun), s.pnl.run = some r → r.good = true → frozenM s 24 = false → s.pwr.pflock = false → r.clear = false →
    r.band < 8 → jState s = 1 → pW s ≤ 800 → pW s % 4 = 0 → pH s ≤ 480 → r.ph < 64 → r.row < 65536 →
    let n := nph (cfgHead s) r.band
    let codes := fun (y x : Nat) => transRow s r.band (code2 (shownRow s y) x) (targetLevel s r y x)
    (r.ph + 1 < n → Gives .panelPhase s (fun t => t.pnl.run = some { r with ph := r.ph + 1, row := 0 } ∧ t.blk = s.blk ∧
      jState t = 1 ∧ u8 (jHead t) 6 = r.ph ∧ u16 (jHead t) 8 = r.row ∧ (∀ y x, y < pH s → x < pW s → account t y x = account s y x) ∧
      ∃ l, t.out = l ++ s.out ∧ l.length = pH s - r.row ∧ ∀ y, r.row ≤ y → y < pH s → ∃ b, Out.panelRow y b ∈ l ∧ ∀ x, x < pW s →
        code2 b x = if inStrip r y x = true ∧ code2 (codes y x) r.ph ≠ 3 then code2 (codes y x) r.ph else 0)) ∧
    ∀ d, r.ph + 1 = n → r.recover = false → r.x0 % 4 = 0 → r.ww % 4 = 0 → r.x0 + r.ww ≤ pW s → r.sy + r.sh ≤ pH s →
      r.sh * (r.ww / 4) ≤ 41184 → r.y0 + r.wh ≤ r.sy + r.sh → r.desc = some d → d ∈ (ringGet s d.ring).started → s.pnl.queue = [] →
      Gives .panelPhase s (fun t => Answered d stOK r.useq.toNat t ∧ t.pnl.run = none ∧ t.pnl.pen = false ∧ t.pnl.zeroed = false ∧
        (srcGet t 212).pend = true ∧ jOk t = true ∧ jState t = 0 ∧ ∀ y x, y < pH s → x < pW s →
          let v := account s y x + ((List.range n).map fun k => codeVal (code2 (codes y x) k)).sum
          account t y x = (if inStrip r y x = true then max (-128) (min 127 v) else account s y x) ∧
          code2 (shownRow t y) x = if inStrip r y x = true then targetLevel s r y x else code2 (shownRow s y) x)) ∧
  (∀ (d : HostDesc) (s : State), Reaches 0x82 d s → let b := slice d.buf 0 2240
    let w := u16 b 4
    let h := u16 b 6
    let refused := fun (st : Nat) => Gives (.pnlConfig d) s (fun t => Answered d st 0 t ∧ Counted bPNL 6 s t ∧ t.pnl = s.pnl ∧ t.mram = s.mram)
    (pnlBusy s = true → refused stBUSY) ∧
    (pnlBusy s = false → w < 16 ∨ 800 < w ∨ w % 4 ≠ 0 ∨ h < 16 ∨ 480 < h ∨ u8 b 8 < 10 ∨ 250 < u8 b 8 ∨ u16 b 0xA = 0 ∨ u32 b 0xC < 1000 ∨
      100000 < u32 b 0xC ∨ u8 b 0x2C = 0 ∨ 100 < u8 b 0x2C ∨ u32 b 0xC * 1000 < (w / 4 + u16 b 0xA) * u8 b 8 * (h + u8 b 9) → refused stRANGE) ∧
    (pnlBusy s = false → cfgFieldsOk b = true → cfgTempOk s b = true → cfgWaveOk b = true →
      (cfgOk s = true → w ≠ pW s ∨ h ≠ pH s → s.pnl.zeroed = false → refused stREFUSED) ∧
      (s.pwr.pflock = false → (cfgOk s = true → (w = pW s ∧ h = pH s) ∨ s.pnl.zeroed = true) → Gives (.pnlConfig d) s (fun t =>
        Answered d stOK 0 t ∧ mramRead pnlCfg 2240 t = b ∧ cfgOk t = true ∧ (cfgOk s = false → ∀ y x, y < h → x < w →
          account t y x = 0 ∧ code2 (shownRow t y) x = 3))))) ∧
  ∀ (d : HostDesc) (s : State), let w := pW s
    let h := pH s
    let x0 := d16 d 16
    let y0 := d16 d 18
    let ww := d16 d 20
    let wh := d16 d 22
    let refused := fun (i : Instr) (st : Nat) => Gives i s (fun t => Answered d st 0 t ∧ Counted bPNL 6 s t ∧ t.pnl = s.pnl ∧ t.mram = s.mram)
    let away := x0 % 4 ≠ 0 ∨ ww % 4 ≠ 0 ∨ w < x0 + ww ∨ h < y0 + wh
    let inside := x0 % 4 = 0 ∧ ww % 4 = 0 ∧ 0 < ww ∧ 0 < wh ∧ x0 + ww ≤ w ∧ y0 + wh ≤ h
    let idle := s.pnl.run = none ∧ s.pnl.queue = []
    let ready := idle ∧ enOf s bPNL = true ∧ frozenM s 24 = false ∧ s.pwr.pflock = false ∧ u32 (cfgHead s) 0x10 = 0xFFFFFFFF ∧ w ≤ 800 ∧ h ≤ 480
    let started := fun (t : State) (r : PnlRun) => t.pnl.run = some r ∧ r.desc = some d ∧ r.band = bandOf (cfgHead s) (dieTemp s) ∧ r.ph = 0 ∧
      r.row = 0 ∧ r.good = false ∧ r.useq = s.pnl.useq + 1 ∧ t.pnl.useq = r.useq ∧ t.pnl.pen = true ∧ jOk t = true ∧ d ∈ (ringGet t d.ring).started ∧
      t.blk = s.blk
    (∀ c ∈ [((0x80 : Nat), Instr.pnlLoad d), (0x81, .pnlUpdate d), (0x83, .pnlClear d)], Reaches c.1 d s →
      (cfgOk s = false → refused c.2 stNOT_READY) ∧ (c.1 ≠ 0x83 → cfgOk s = true → away → refused c.2 stRANGE)) ∧
    (Reaches 0x80 d s → cfgOk s = true → inside →
      (pnlBusy s = true → refused (.pnlLoad d) stBUSY) ∧
      (idle → Gives (.pnlLoad d) s (fun t => Answered d stOK (crc32 (frameBytes t)) t ∧ t.pnl.fcrc.toNat = crc32 (frameBytes t) ∧ t.blk = s.blk ∧
        t.mram = s.mram ∧ (∀ i j, i < wh → j < ww / 4 → tblGet t.pnl.f ((y0 + i) * (w / 4) + x0 / 4 + j) 0 = byteAt d.buf (ww / 4 * i + j)) ∧
        ∀ a, (∀ i j, i < wh → j < ww / 4 → a ≠ (y0 + i) * (w / 4) + x0 / 4 + j) → tblGet t.pnl.f a 0 = tblGet s.pnl.f a 0))) ∧
    (∀ c ∈ [((0x81 : Nat), Instr.pnlUpdate d), (0x83, .pnlClear d)], Reaches c.1 d s → cfgOk s = true → (c.1 = 0x81 → inside) →
      ∀ r, s.pnl.run = some r →
        (r.recover = true → refused c.2 stBUSY) ∧
        (r.recover = false → 3 ≤ s.pnl.queue.length → refused c.2 stCAPACITY) ∧
        (r.recover = false → s.pnl.queue.length < 3 → Gives c.2 s (fun t => t.pnl = { s.pnl with queue := s.pnl.queue ++ [d] } ∧ t.blk = s.blk ∧
          d ∈ (ringGet t d.ring).started))) ∧
    (Reaches 0x81 d s → cfgOk s = true → inside → ready →
      (crc32 (frameBytes s) ≠ d32 d 24 → Gives (.pnlUpdate d) s (fun t => Answered d stREFUSED 0 t ∧ Counted bPNL 0 s t ∧ t.pnl = s.pnl ∧
        t.mram = s.mram)) ∧
      (crc32 (frameBytes s) = d32 d 24 → Gives (.pnlUpdate d) s (fun t => ∃ r, started t r ∧ r.clear = false ∧ r.x0 = x0 ∧ r.y0 = y0 ∧ r.ww = ww ∧
        r.wh = wh ∧ r.sy = y0 ∧ r.sh = min (164736 / ww) wh ∧ jState t = 1 ∧ ∀ i j, i < r.sh → j < ww / 4 →
          tblGet t.mram (pnlTarget + ww / 4 * i + j) 0 = tblGet s.pnl.f ((y0 + i) * (w / 4) + x0 / 4 + j) 0))) ∧
    (Reaches 0x83 d s → cfgOk s = true → ready → 0 < maxAccount s + nphc (cfgHead s) (bandOf (cfgHead s) (dieTemp s)) →
      Gives (.pnlClear d) s (fun t => ∃ r, started t r ∧ r.clear = true ∧ r.sh = h ∧ jState t = 3))

/-! ### Power, reset and start-up (18_power_reset_startup.md) -/

/-- POWER_FAILURE, PWRFAIL_RISE, PWRFAIL_N_GLITCH, RSTREQ, WATCHDOG_EXPIRY, PLL_LOCK_LOSS, SYSRST, POR and PD0_COLD (R481 to
R494, Table 18-5). -/
def Obligations.PowerFailuresAndResetsKeepWhatTheySave : Prop :=
  (∀ s : State, (s.pwr.asleep = true ∨ s.pwr.pflock = true → Gives .powerFailure s (fun t => t = s)) ∧
    (s.pwr.asleep = false → s.pwr.pflock = false → Gives .powerFailure s (fun t => t.pwr.pflock = true ∧ t.pwr.pfTime = rtcTicks s ∧
      cntOf t bPWR 0 = satInc (cntOf s bPWR 0) ∧ t.sched = s.sched ∧ t.pimg = s.pimg ∧ t.cell = s.cell ∧ t.time = s.time ∧
      t.pnl.pen = false ∧ t.recs.optSaved = s.recs.opt ∧
      (s.recs.lfrozen = false → s.recs.lleft = none → (∀ r ∈ s.recs.queue, r.sev ≠ 3) → s.recs.queue.length < 64 →
        let n := s.recs.lseq + 1
        t.recs.queue = [] ∧ t.recs.lseq = n + BitVec.ofNat 32 s.recs.queue.length ∧
        u16 (mramRead (0x20000 + 64 * (n.toNat % 2048)) 64 t) 0xA = 0x0F01))) ∧
    (s.pwr.pflock = true → s.sys.rstReq = none → Gives .pwrfailRise s (fun t => t.pwr.pflock = false ∧ t.mram = s.mram ∧
      cntOf t bPWR 1 = satInc (cntOf s bPWR 1) ∧ t.sched = s.sched)) ∧
    (s.pwr.pflock = false ∨ s.sys.rstReq.isSome = true → Gives .pwrfailRise s (fun t => t = s)) ∧
    Gives .pwrfailNGlitch s (fun t => Counted bPWR 3 s t ∧ { t with blk := s.blk } = s)) ∧
  (∀ s : State, s.pwr.asleep = false → s.sys.rstReq = none →
    let asked := fun (c : BitVec 4) (t : State) => t.sys.rstReq = some c ∧ t.pwr.pflock = true ∧ t.sched = s.sched ∧ t.pimg = s.pimg ∧
      t.sys.stage = s.sys.stage
    Gives .watchdogExpiry s (asked 4) ∧
    (∀ v : W32, v.getLsbD 0 = true → Gives (.rstreq .mc0 v) s (asked 3)) ∧
    ∀ k : Fin 3, let locked := if k = 0 then s.pwr.pllA else if k = 1 then s.pwr.pllB else s.pwr.pllC
      (locked = true → Gives (.pllLockLoss k) s (fun t => asked 5 t ∧ t.pwr.pllA = (s.pwr.pllA && k != 0) ∧
        t.pwr.pllB = (s.pwr.pllB && k != 1) ∧ t.pwr.pllC = (s.pwr.pllC && k != 2))) ∧
      (locked = false → Gives (.pllLockLoss k) s (fun t => t = s))) ∧
  (∀ (m : RegMaster) (v : W32) (s : State), Reachable m s → m ≠ .mc0 ∨ v.getLsbD 0 = false → Gives (.rstreq m v) s (fun t => t = s)) ∧
  ∀ s : State,
    let cleared := fun (t : State) => t.sched = { rbFloor := s.sched.rbFloor } ∧ t.pimg = {} ∧ t.cell = {} ∧ t.mc1 = {} ∧ t.loops = {} ∧
      t.axis = {} ∧ t.parc = {} ∧ t.solv = {} ∧ t.canl = {} ∧ t.mbus = {} ∧ t.ethl = {} ∧ t.hif = {} ∧ t.time = {} ∧ t.dram = [] ∧ t.other = [] ∧
      t.sec.netsec = none ∧ t.sec.pairsec = none ∧ t.sec.swk = none ∧ t.pwr.pflock = false ∧ t.pwr.doms = [] ∧ t.sys.stage = 0 ∧
      t.sys.rstReq = none ∧ t.pair.role = (if s.pair.mode = true then 3 else 0) ∧ t.recs.queue = [] ∧
      (∀ b, b ≠ bRTC → blkGet t b = blkReset b) ∧ (s.pnl.pen = true → Out.panelEn false ∈ t.out)
    let logs := fun (t : State) => t.mram = s.mram ∧ t.nvm.blocks = s.nvm.blocks ∧ t.nvm.tagLock = s.nvm.tagLock ∧ t.recs.lseq = s.recs.lseq ∧
      t.recs.pcyc = s.recs.pcyc ∧ t.recs.audNext = s.recs.audNext ∧ t.recs.audPages = s.recs.audPages ∧ t.recs.journal = s.recs.journal ∧
      t.recs.hist = s.recs.hist ∧ t.sec.ocnt = s.sec.ocnt ∧ t.sec.scnt = s.sec.scnt ∧ t.sec.fwFloor = s.sec.fwFloor ∧ t.pair.mode = s.pair.mode ∧
      t.sys.pwait = s.sys.pwait ∧ t.sys.twait = s.sys.twait ∧ t.metr.calLock = s.metr.calLock
    let wick := fun (t : State) => t.rtc = { s.rtc with
        reads := [], writes := [] } ∧ t.sec.tampSt = s.sec.tampSt ∧ t.sec.tampTime = s.sec.tampTime ∧ t.sec.tampCfg = s.sec.tampCfg ∧
      t.irq.wake = s.irq.wake ∧ t.irq.wakeSt = s.irq.wakeSt ∧ t.metr.tw = s.metr.tw ∧ blkGet t bRTC = blkGet s bRTC
    (s.sys.rstReq = none → Gives .sysrst s (fun t => t = s)) ∧
    (∀ c, s.sys.rstReq = some c → Gives .sysrst s (fun t => cleared t ∧ logs t ∧ wick t ∧ t.sys.cause = c ∧ t.sec.dik = s.sec.dik ∧
      t.sec.dxk = s.sec.dxk ∧ t.sec.kek = s.sec.kek ∧ t.sec.drbgFailed = s.sec.drbgFailed)) ∧
    (∀ b : Bool, Gives (.por b) s (fun t => cleared t ∧ logs t ∧ wick t ∧ t.sys.cause = (if b = true then 2 else 1) ∧ t.sec.dik = none ∧
      t.sec.dxk = none ∧ t.sec.kek = none ∧ t.sec.drbgFailed = false)) ∧
    Gives .pd0Cold s (fun t => cleared t ∧ logs t ∧ t.sys.pd0Cold = true ∧ t.rtc.osf = true ∧ t.rtc = {} ∧ t.sec.tampSt = 0 ∧ t.irq = {} ∧
      t.metr.tw = [] ∧ t.sec.dik = none ∧ t.sec.kek = none)

/-- The power domains and the stages of Table 18-7 (R489 to R502). A stage completes when its work is done; the causes of the
BOOTFAIL record are the model's. -/
def Obligations.DomainsAndStagesFollowTheirOrder : Prop :=
  (∀ (d : Fin 12) (s : State), s.pwr.asleep = false → let v := domGet s d
    let sw := d ≠ 0 ∧ d ≠ 1 ∧ d ≠ 10
    (¬sw ∨ v.st = 1 → Gives (.domainPowerUp d) s (fun t => t = s) ∧ Gives (.powerGoodTimeout d) s (fun t => t = s)) ∧
    (sw → v.st ≠ 1 → Gives (.domainPowerUp d) s (fun t => domGet t d = { v with
        st := 1, upcnt := v.upcnt + 1 } ∧
      (∀ k, k ≠ d.val → ¬(d = 4 ∧ k = 5 ∧ (domGet s 5).st = 2) → domGet t k = domGet s k) ∧
      (d = 4 → (domGet s 5).st = 2 → (domGet t 5).st = 1) ∧ (d = 11 → t.metr.started = true))) ∧
    (sw → v.st ≠ 1 → Gives (.powerGoodTimeout d) s (fun t => (domGet t d).st = 0 ∧ cntOf t bPWR 2 = satInc (cntOf s bPWR 2) ∧
      InLantern 0x0F80 s t ∧ t.sched.shadowReady = s.sched.shadowReady ∧ ∀ k, k ≠ d.val → domGet t k = domGet s k)) ∧
    (¬sw ∨ v.st ≠ 1 ∨ domIdle s d = false → Gives (.domainPowerDown d) s (fun t => t = s)) ∧
    (sw → v.st = 1 → domIdle s d = true → Gives (.domainPowerDown d) s (fun t => (domGet t d).st = 0 ∧ t.blk = s.blk ∧
      (∀ k, k ≠ d.val → ¬(d = 4 ∧ k = 5) → domGet t k = domGet s k) ∧
      (d = 2 → ∀ e, e < 4 → engGet t e = {}) ∧ (d = 3 → ∀ e, 4 ≤ e → e < 8 → engGet t e = {}) ∧ (d = 5 → t.solv.slots = []) ∧
      (d = 6 → t.loops = {} ∧ t.axis = {} ∧ t.parc = {}) ∧ (d = 7 → t.canl = {} ∧ t.mbus = {}) ∧ (d = 9 → t.hif = {}) ∧
      (d = 4 → t.solv.slots = s.solv.slots ∧ (slotLoaded s = true → (domGet s 5).st = 1 → (domGet t 5).st = 2))))) ∧
  (∀ (dir : Bytes) (s : State), (s.sys.stage ≠ 0 → Gives (.stageRom dir) s (fun t => t = s)) ∧
    (s.sys.stage = 0 → Gives (.stageRom dir) s (fun t => t.sys.stage = 1 ∧ t.pwr.asleep = false ∧ t.pwr.pllA = true ∧
      (dir.length = 64 → u32 dir 0x3C = crc32c (dir.take 0x3C) → t.sys.dirBad = s.sys.dirBad ∧ t.sys.dirFwA.toNat = u32 dir 8 ∧
        t.sys.dirFwB.toNat = u32 dir 12 ∧ t.sys.dirImgA.toNat = u32 dir 16 ∧ t.sys.dirImgB.toNat = u32 dir 20) ∧
      (dir.length = 64 → u32 dir 0x3C ≠ crc32c (dir.take 0x3C) → t.sys.dirBad = true ∧ t.sys.dirFwA = 0x1000 ∧
        t.sys.dirFwB = 0xFFFFFFFF ∧ t.sys.dirImgA = 0xFFFFFFFF ∧ t.sys.dirImgB = 0xFFFFFFFF)))) ∧
  (∀ (ca cb : Option Bytes) (s : State), (s.sys.stage ≠ 1 → Gives (.stageFirmware ca cb) s (fun t => t = s)) ∧
    (s.sys.stage = 1 → s.sys.dirFwA ≠ 0xFFFFFFFF →
      (∀ a, ca = some a → firmwareError s a = 0 → Gives (.stageFirmware ca cb) s (fun t => t.sys.stage = 2 ∧ t.sys.fwB = false ∧
        t.sys.fwDig = BitVec.ofNat 384 (beNat (sha384 (a.take (0x100 + u32 a 8)))) ∧ t.recs = s.recs)) ∧
      (∀ a b, ca = some a → cb = some b → firmwareError s a ≠ 0 → s.sys.dirFwB ≠ 0xFFFFFFFF →
        (firmwareError s b = 0 → Gives (.stageFirmware ca cb) s (fun t => t.sys.stage = 2 ∧ t.sys.fwB = true ∧
          t.sys.fwErr.toNat = firmwareError s a)) ∧
        (firmwareError s b ≠ 0 → Gives (.stageFirmware ca cb) s (fun t => t.sys.stage = 0xF ∧ InLantern 0x0080 s t ∧
          t.sys.fwErr.toNat = firmwareError s b))))) ∧
  (∀ (g : BitVec 5) (v : Bool) (tr : BitVec 2) (nand : Bool) (s : State),
    (s.sys.stage ≠ 2 → Gives (.stageMemory g v tr nand) s (fun t => t = s)) ∧
    (s.sys.stage = 2 → Gives (.stageMemory g v tr nand) s (fun t => t.sys.gib = g ∧ t.sys.vddq = v ∧ t.sys.chok = tr ∧ t.pwr.pllB = true ∧
      t.pwr.pllC = true ∧ t.recs.pcyc = (if s.sys.cause.toNat ≤ 2 then satInc s.recs.pcyc else s.recs.pcyc) ∧
      (tr ≠ 3 → t.sys.stage = 0xF ∧ InLantern 0x0080 s t) ∧ (tr = 3 → t.sys.stage = 3 ∧ enOf t bHIF = true ∧ domOn t 9 = true ∧
        t.nvm.nandOk = nand ∧ t.nvm.started = true ∧ t.pnl.started = true)))) ∧
  (∀ (ia ib : Option Bytes) (s : State), (s.sys.stage ≠ 3 → Gives (.stageImage ia ib) s (fun t => t = s)) ∧
    (s.sys.stage = 3 → s.sched.image.isSome = true → Gives (.stageImage ia ib) s (fun t => t.sys.stage = 4 ∧ t.sched = s.sched)) ∧
    (s.sys.stage = 3 → s.sched.image = none →
      (ia = none → ib = none → Gives (.stageImage ia ib) s (fun t => t.sys.stage = 0xE ∧ t.sched = s.sched)) ∧
      (∀ a, ia = some a → s.sys.dirImgA ≠ 0xFFFFFFFF → (checkImage s true a).1 = 0 → Gives (.stageImage ia ib) s (fun t => t.sys.stage = 4 ∧
        t.sys.imgB = false ∧ t.sched.image = some (parseImage a) ∧ t.sched.actId = (parseImage a).imgId ∧ t.sched.run = s.sched.run)) ∧
      ∀ b, ia = none → ib = some b → s.sys.dirImgB ≠ 0xFFFFFFFF → (checkImage s true b).1 = 0 → Gives (.stageImage ia ib) s (fun t =>
        t.sys.stage = 4 ∧ t.sys.imgB = true ∧ t.sched.image = some (parseImage b)))) ∧
  ∀ s : State,
    let ptp := (List.range 16).any fun p => (ethCfg s p).en && (ethCfg s p).ptp
    let entered := fun (act : Bool) (t : State) => t.sys.partnerActive = act ∧ t.sys.stage = (if act || ptp then 5 else 6) ∧ t.time = s.time
    (s.sys.stage ≠ 4 → Gives .stageRole s (fun t => t = s) ∧ Gives .pwaitExpiry s (fun t => t = s)) ∧
    (s.sys.stage = 4 → s.pair.mode = false → Gives .stageRole s (entered false) ∧ Gives .pwaitExpiry s (fun t => t = s)) ∧
    (s.sys.stage = 4 → s.pair.mode = true → Gives .pwaitExpiry s (entered false) ∧
      (∀ h, s.pair.hello = some h → Gives .stageRole s (entered (h.role == 1))) ∧
      (s.pair.hello = none → Gives .stageRole s (fun t => t.sys.stage = 4))) ∧
    (∀ δ : W128,
      let stepped := fun (src : BitVec 2) (t : State) => t.sys.stage = 6 ∧ t.sys.tsrc = src ∧ nowT t = nowT s + δ ∧ t.time.armed = false ∧
        t.time.steps = s.time.steps + 1
      (s.sys.stage = 5 → s.time.armed = true →
        (s.sys.partnerActive = false → (ptpSource s = true → Gives (.stageTime (.ptp δ)) s (stepped 1)) ∧
          (ptpSource s = false → Gives (.stageTime (.ptp δ)) s (fun t => t = s))) ∧
        (s.sys.partnerActive = true → Gives (.stageTime (.mirror δ)) s (stepped 2))) ∧
      (s.sys.stage = 6 → s.sys.tsrc = 0 → s.time.armed = true → ptpSource s = true → Gives (.lateTimeStep δ) s (fun t => stepped 0 t ∧ InLantern 0x0D81 s t)) ∧
      (s.sys.stage ≠ 6 ∨ s.sys.tsrc ≠ 0 ∨ s.time.armed = false ∨ ptpSource s = false → Gives (.lateTimeStep δ) s (fun t => t = s))) ∧
    (s.sys.stage = 5 → s.sys.partnerActive = false → Gives .twaitExpiry s (fun t => t = { s with sys := { s.sys with stage := 6 } })) ∧
    (s.sys.stage ≠ 5 → Gives .twaitExpiry s (fun t => t = s) ∧ ∀ src, Gives (.stageTime src) s (fun t => t = s)) ∧
    (s.sys.stage = 6 → enOf s bSCHED = false → Gives .stageRun s (fun t => enOf t bSCHED = true ∧ t.sched.mfn = 0 ∧ t.sched.mfnBase = 0 ∧
      t.sched.kmf = 0 ∧ t.sched.run = s.sched.run ∧ t.pimg = s.pimg)) ∧
    (s.sys.stage ≠ 6 ∨ enOf s bSCHED = true → Gives .stageRun s (fun t => t = s))

/-! ### The whole block -/

/-- TIME.RATE keeps its range of 500 ppm over every command and over the tick of an empty queue (R351). -/
def Obligations.EveryStepKeepsTheRateInRange : Prop :=
  ∀ s t : State, -140737488355 ≤ s.time.rate.toInt → s.time.rate.toInt ≤ 140737488355 → step s = .next t →
    -140737488355 ≤ t.time.rate.toInt ∧ t.time.rate.toInt ≤ 140737488355

/-- The canonical form of both memories, kept by every command and by the tick of an empty queue. -/
def Obligations.EveryStepKeepsMemoryCanonical : Prop :=
  ∀ s t : State, tblWf s.mram 0 = true → tblWf s.dram 0 = true → step s = .next t → tblWf t.mram 0 = true ∧ tblWf t.dram 0 = true

/-- The Reset values of the manual, at which both invariants hold. -/
def Obligations.ResetMeetsTheInvariants : Prop :=
  let s := State.reset
  s.time.rate = 0 ∧ tblWf s.mram 0 = true ∧ tblWf s.dram 0 = true ∧ s.pending = [] ∧ s.time.armed = true ∧ s.time.tbc = 0 ∧
  s.sched.run = false ∧ s.sys.stage = 0 ∧ s.rtc.osf = true ∧ s.pwr.pflock = false ∧ s.recs.lseq = 0xFFFFFFFF ∧
  (∀ b, enOf s b = decide (b = bSYS ∨ b = bRTC ∨ b = bPWR ∨ b = bSEC)) ∧ (∀ b n, cntOf s b n = 0) ∧
  ∀ d, (domGet s d).st = if d = 0 ∨ d = 1 ∨ d = 10 then 1 else 0
end

