-- ==== Sys2Proof/Laws/Tables.lean ====
section
/-! SUPPORT. Laws of the tables: a read after a write of the same number gives the value written, every other number is
left alone, and a write keeps the canonical form. -/

namespace Sys2Proof.Laws

open Sys2Proof.Machine

theorem tblGet_tblDel_same {α : Type} (t : Tbl α) (n : Nat) (d : α) : tblGet (tblDel t n) n d = d := by
  induction t with
  | nil => rfl
  | cons p r ih => obtain ⟨k, w⟩ := p; by_cases h : k = n <;> simp [tblDel, tblGet, h, ih]

theorem tblGet_tblDel_ne {α : Type} (t : Tbl α) {n m : Nat} (d : α) (h : m ≠ n) :
    tblGet (tblDel t n) m d = tblGet t m d := by
  induction t with
  | nil => rfl
  | cons p r ih =>
    obtain ⟨k, w⟩ := p
    by_cases hk : k = n
    · subst hk; simp [tblDel, tblGet, ih, Ne.symm h]
    · simp [tblDel, tblGet, hk, ih]

@[simp] theorem tblGet_tblPut_same {α : Type} [DecidableEq α] (t : Tbl α) (n : Nat) (v d : α) :
    tblGet (tblPut t n v d) n d = v := by
  induction t with
  | nil => by_cases h : v = d <;> simp [tblPut, tblGet, h]
  | cons p r ih =>
    obtain ⟨k, w⟩ := p
    rcases Nat.lt_trichotomy n k with h | h | h
    · by_cases hv : v = d
      · have : k ≠ n := by omega
        simp [tblPut, h, hv, tblGet, this, tblGet_tblDel_same]
      · simp [tblPut, h, hv, tblGet]
    · by_cases hv : v = d <;> simp [tblPut, h, hv, tblGet, tblGet_tblDel_same]
    · have h1 : ¬ n < k := by omega
      have h2 : n ≠ k := by omega
      simp [tblPut, h1, h2, tblGet, Ne.symm h2, ih]

/-- Every other number is left alone, whatever an unlisted one reads as. -/
theorem tblGet_tblPut_ne {α : Type} [DecidableEq α] (t : Tbl α) {n m : Nat} (v d : α) {e : α} (h : m ≠ n) :
    tblGet (tblPut t n v d) m e = tblGet t m e := by
  induction t with
  | nil => by_cases hv : v = d <;> simp [tblPut, tblGet, hv, Ne.symm h]
  | cons p r ih =>
    obtain ⟨k, w⟩ := p
    rcases Nat.lt_trichotomy n k with h1 | h1 | h1
    · by_cases hv : v = d <;> simp [tblPut, h1, hv, tblGet, tblGet_tblDel_ne r e h, Ne.symm h]
    · subst h1
      by_cases hv : v = d <;> simp [tblPut, hv, tblGet, tblGet_tblDel_ne r e h, Ne.symm h]
    · have h2 : ¬ n < k := by omega
      have h3 : n ≠ k := by omega
      simp [tblPut, h2, h3, tblGet, ih]

/-- A second write of a number replaces the first one that was no default. -/
theorem tblPut_tblPut {α : Type} [DecidableEq α] (t : Tbl α) (n : Nat) {v d : α} (w : α) (h : v ≠ d) :
    tblPut (tblPut t n v d) n w d = tblPut t n w d := by
  have hd : ∀ r : Tbl α, tblDel (tblDel r n) n = tblDel r n := by
    intro r
    induction r with
    | nil => rfl
    | cons p r ih => obtain ⟨k, u⟩ := p; by_cases e : k = n <;> simp [tblDel, e, ih]
  induction t with
  | nil => simp [tblPut, h, tblDel]
  | cons p r ih =>
    obtain ⟨k, u⟩ := p
    rcases Nat.lt_trichotomy n k with e | e | e
    · have : k ≠ n := by omega
      simp [tblPut, h, e, tblDel, this, hd]
    · subst e; simp [tblPut, h, hd]
    · have h1 : ¬ n < k := by omega
      have h2 : n ≠ k := by omega
      simp [tblPut, h1, h2, ih]

theorem tblFrom_weaken {α : Type} [DecidableEq α] (t : Tbl α) (d : α) {a b : Nat} (h : a ≤ b)
    (w : tblFrom d (some b) t = true) : tblFrom d (some a) t = true := by
  cases t with
  | nil => rfl
  | cons p r =>
    simp only [tblFrom, Bool.and_eq_true, decide_eq_true_eq] at w ⊢
    exact ⟨⟨by omega, w.1.2⟩, w.2⟩

/-- Above its lower bound a canonical table has no entry of a smaller number. -/
theorem tblDel_below {α : Type} [DecidableEq α] (t : Tbl α) (d : α) {b n : Nat} (h : n ≤ b)
    (w : tblFrom d (some b) t = true) : tblDel t n = t := by
  induction t generalizing b with
  | nil => rfl
  | cons p r ih =>
    obtain ⟨k, v⟩ := p
    simp only [tblFrom, Bool.and_eq_true, decide_eq_true_eq] at w
    have hk : k ≠ n := by omega
    simp [tblDel, hk, ih (b := k) (by omega) w.2]

theorem tblPut_from {α : Type} [DecidableEq α] (t : Tbl α) (d v : α) {b n : Nat} (h : b < n)
    (w : tblFrom d (some b) t = true) : tblFrom d (some b) (tblPut t n v d) = true := by
  induction t generalizing b with
  | nil => by_cases hv : v = d <;> simp [tblPut, tblFrom, hv, h]
  | cons p r ih =>
    obtain ⟨k, u⟩ := p
    simp only [tblFrom, Bool.and_eq_true, decide_eq_true_eq] at w
    obtain ⟨⟨hk, hu⟩, hr⟩ := w
    rcases Nat.lt_trichotomy n k with h1 | h1 | h1
    · have hd := tblDel_below r d (n := n) (by omega) hr
      by_cases hv : v = d <;> simp [tblPut, h1, hv, tblFrom, hd, hk, hu, hr, h]
    · subst h1
      have hd := tblDel_below r d (Nat.le_refl n) hr
      by_cases hv : v = d
      · simp [tblPut, hv, hd, tblFrom_weaken r d (by omega : b ≤ n) hr]
      · simp [tblPut, hv, hd, tblFrom, h, hr]
    · have h2 : ¬ n < k := by omega
      have h3 : n ≠ k := by omega
      simp [tblPut, h2, h3, tblFrom, hk, hu, ih h1 hr]

/-- A write keeps the canonical form: this is the law of every memory and register table (R6). -/
theorem tblPut_wf {α : Type} [DecidableEq α] (t : Tbl α) (d v : α) (n : Nat) (w : tblWf t d = true) :
    tblWf (tblPut t n v d) d = true := by
  cases t with
  | nil => by_cases hv : v = d <;> simp [tblPut, tblWf, tblFrom, hv]
  | cons p r =>
    obtain ⟨k, u⟩ := p
    simp only [tblWf, tblFrom, Bool.true_and, Bool.and_eq_true, decide_eq_true_eq] at w
    obtain ⟨hu, hr⟩ := w
    rcases Nat.lt_trichotomy n k with h1 | h1 | h1
    · have hd := tblDel_below r d (n := n) (by omega) hr
      by_cases hv : v = d <;> simp [tblPut, h1, hv, tblWf, tblFrom, hd, hu, hr]
    · subst h1
      have hd := tblDel_below r d (Nat.le_refl n) hr
      by_cases hv : v = d
      · cases r with
        | nil => simp [tblPut, hv, tblDel, tblWf, tblFrom]
        | cons q l =>
          simp only [tblFrom, Bool.and_eq_true, decide_eq_true_eq] at hr
          simp [tblPut, hv, hd, tblWf, tblFrom, hr.1.2, hr.2]
      · simp [tblPut, hv, hd, tblWf, tblFrom, hr]
    · have h2 : ¬ n < k := by omega
      have h3 : n ≠ k := by omega
      simp [tblPut, h2, h3, tblWf, tblFrom, hu, tblPut_from r d v h1 hr]

theorem tblPutAll_wf {α : Type} [DecidableEq α] (vs : List α) (t : Tbl α) (d : α) (n : Nat) (w : tblWf t d = true) :
    tblWf (tblPutAll t n vs d) d = true := by
  induction vs generalizing t n with
  | nil => exact w
  | cons v r ih => exact ih _ _ (tblPut_wf t d v n w)

/-- A write of consecutive numbers leaves every other number alone. -/
theorem tblGet_tblPutAll_out {α : Type} [DecidableEq α] (vs : List α) (t : Tbl α) (d : α) {n m : Nat}
    (h : m < n ∨ n + vs.length ≤ m) : tblGet (tblPutAll t n vs d) m d = tblGet t m d := by
  induction vs generalizing t n with
  | nil => rfl
  | cons v r ih =>
    simp only [List.length_cons] at h
    rw [tblPutAll, ih _ (by omega), tblGet_tblPut_ne _ _ _ (by omega)]

/-- A write of consecutive numbers is read back. -/
theorem tblGet_tblPutAll_in {α : Type} [DecidableEq α] (vs : List α) (t : Tbl α) (d : α) {n i : Nat}
    (h : i < vs.length) : tblGet (tblPutAll t n vs d) (n + i) d = vs[i] := by
  induction vs generalizing t n i with
  | nil => simp at h
  | cons v r ih =>
    cases i with
    | zero => simp [tblPutAll, tblGet_tblPutAll_out]
    | succ k =>
      have : n + (k + 1) = n + 1 + k := by omega
      rw [this, tblPutAll, ih]
      rfl

end Sys2Proof.Laws
end

