-- ==== Sys2Proof/Laws/State.lean ====
section
/-! SUPPORT. For each update of State that the meanings share: every field that it leaves alone, and what is read back.
Then the operations over them: lantern and audit records, and counts under a condition. -/

namespace Sys2Proof.Laws

open Sys2Proof.Machine

@[simp] theorem blkPut_snaps (s : State) (b : Nat) (v : Blk) : (blkPut s b v).snaps = s.snaps := rfl
@[simp] theorem blkPut_staged (s : State) (b : Nat) (v : Blk) : (blkPut s b v).staged = s.staged := rfl
@[simp] theorem blkPut_sys (s : State) (b : Nat) (v : Blk) : (blkPut s b v).sys = s.sys := rfl
@[simp] theorem blkPut_pwr (s : State) (b : Nat) (v : Blk) : (blkPut s b v).pwr = s.pwr := rfl
@[simp] theorem blkPut_sched (s : State) (b : Nat) (v : Blk) : (blkPut s b v).sched = s.sched := rfl
@[simp] theorem blkPut_pimg (s : State) (b : Nat) (v : Blk) : (blkPut s b v).pimg = s.pimg := rfl
@[simp] theorem blkPut_cell (s : State) (b : Nat) (v : Blk) : (blkPut s b v).cell = s.cell := rfl
@[simp] theorem blkPut_mc1 (s : State) (b : Nat) (v : Blk) : (blkPut s b v).mc1 = s.mc1 := rfl
@[simp] theorem blkPut_loops (s : State) (b : Nat) (v : Blk) : (blkPut s b v).loops = s.loops := rfl
@[simp] theorem blkPut_axis (s : State) (b : Nat) (v : Blk) : (blkPut s b v).axis = s.axis := rfl
@[simp] theorem blkPut_metr (s : State) (b : Nat) (v : Blk) : (blkPut s b v).metr = s.metr := rfl
@[simp] theorem blkPut_canl (s : State) (b : Nat) (v : Blk) : (blkPut s b v).canl = s.canl := rfl
@[simp] theorem blkPut_mbus (s : State) (b : Nat) (v : Blk) : (blkPut s b v).mbus = s.mbus := rfl
@[simp] theorem blkPut_ethl (s : State) (b : Nat) (v : Blk) : (blkPut s b v).ethl = s.ethl := rfl
@[simp] theorem blkPut_solv (s : State) (b : Nat) (v : Blk) : (blkPut s b v).solv = s.solv := rfl
@[simp] theorem blkPut_parc (s : State) (b : Nat) (v : Blk) : (blkPut s b v).parc = s.parc := rfl
@[simp] theorem blkPut_hif (s : State) (b : Nat) (v : Blk) : (blkPut s b v).hif = s.hif := rfl
@[simp] theorem blkPut_irq (s : State) (b : Nat) (v : Blk) : (blkPut s b v).irq = s.irq := rfl
@[simp] theorem blkPut_sec (s : State) (b : Nat) (v : Blk) : (blkPut s b v).sec = s.sec := rfl
@[simp] theorem blkPut_recs (s : State) (b : Nat) (v : Blk) : (blkPut s b v).recs = s.recs := rfl
@[simp] theorem blkPut_nvm (s : State) (b : Nat) (v : Blk) : (blkPut s b v).nvm = s.nvm := rfl
@[simp] theorem blkPut_time (s : State) (b : Nat) (v : Blk) : (blkPut s b v).time = s.time := rfl
@[simp] theorem blkPut_rtc (s : State) (b : Nat) (v : Blk) : (blkPut s b v).rtc = s.rtc := rfl
@[simp] theorem blkPut_pair (s : State) (b : Nat) (v : Blk) : (blkPut s b v).pair = s.pair := rfl
@[simp] theorem blkPut_pnl (s : State) (b : Nat) (v : Blk) : (blkPut s b v).pnl = s.pnl := rfl
@[simp] theorem blkPut_mram (s : State) (b : Nat) (v : Blk) : (blkPut s b v).mram = s.mram := rfl
@[simp] theorem blkPut_dram (s : State) (b : Nat) (v : Blk) : (blkPut s b v).dram = s.dram := rfl
@[simp] theorem blkPut_other (s : State) (b : Nat) (v : Blk) : (blkPut s b v).other = s.other := rfl
@[simp] theorem blkPut_out (s : State) (b : Nat) (v : Blk) : (blkPut s b v).out = s.out := rfl
@[simp] theorem blkPut_free (s : State) (b : Nat) (v : Blk) : (blkPut s b v).free = s.free := rfl
@[simp] theorem blkPut_pending (s : State) (b : Nat) (v : Blk) : (blkPut s b v).pending = s.pending := rfl

@[simp] theorem setEn_snaps (s : State) (b : Nat) (v : Bool) : (setEn s b v).snaps = s.snaps := rfl
@[simp] theorem setEn_staged (s : State) (b : Nat) (v : Bool) : (setEn s b v).staged = s.staged := rfl
@[simp] theorem setEn_sys (s : State) (b : Nat) (v : Bool) : (setEn s b v).sys = s.sys := rfl
@[simp] theorem setEn_pwr (s : State) (b : Nat) (v : Bool) : (setEn s b v).pwr = s.pwr := rfl
@[simp] theorem setEn_sched (s : State) (b : Nat) (v : Bool) : (setEn s b v).sched = s.sched := rfl
@[simp] theorem setEn_pimg (s : State) (b : Nat) (v : Bool) : (setEn s b v).pimg = s.pimg := rfl
@[simp] theorem setEn_cell (s : State) (b : Nat) (v : Bool) : (setEn s b v).cell = s.cell := rfl
@[simp] theorem setEn_mc1 (s : State) (b : Nat) (v : Bool) : (setEn s b v).mc1 = s.mc1 := rfl
@[simp] theorem setEn_loops (s : State) (b : Nat) (v : Bool) : (setEn s b v).loops = s.loops := rfl
@[simp] theorem setEn_axis (s : State) (b : Nat) (v : Bool) : (setEn s b v).axis = s.axis := rfl
@[simp] theorem setEn_metr (s : State) (b : Nat) (v : Bool) : (setEn s b v).metr = s.metr := rfl
@[simp] theorem setEn_canl (s : State) (b : Nat) (v : Bool) : (setEn s b v).canl = s.canl := rfl
@[simp] theorem setEn_mbus (s : State) (b : Nat) (v : Bool) : (setEn s b v).mbus = s.mbus := rfl
@[simp] theorem setEn_ethl (s : State) (b : Nat) (v : Bool) : (setEn s b v).ethl = s.ethl := rfl
@[simp] theorem setEn_solv (s : State) (b : Nat) (v : Bool) : (setEn s b v).solv = s.solv := rfl
@[simp] theorem setEn_parc (s : State) (b : Nat) (v : Bool) : (setEn s b v).parc = s.parc := rfl
@[simp] theorem setEn_hif (s : State) (b : Nat) (v : Bool) : (setEn s b v).hif = s.hif := rfl
@[simp] theorem setEn_irq (s : State) (b : Nat) (v : Bool) : (setEn s b v).irq = s.irq := rfl
@[simp] theorem setEn_sec (s : State) (b : Nat) (v : Bool) : (setEn s b v).sec = s.sec := rfl
@[simp] theorem setEn_recs (s : State) (b : Nat) (v : Bool) : (setEn s b v).recs = s.recs := rfl
@[simp] theorem setEn_nvm (s : State) (b : Nat) (v : Bool) : (setEn s b v).nvm = s.nvm := rfl
@[simp] theorem setEn_time (s : State) (b : Nat) (v : Bool) : (setEn s b v).time = s.time := rfl
@[simp] theorem setEn_rtc (s : State) (b : Nat) (v : Bool) : (setEn s b v).rtc = s.rtc := rfl
@[simp] theorem setEn_pair (s : State) (b : Nat) (v : Bool) : (setEn s b v).pair = s.pair := rfl
@[simp] theorem setEn_pnl (s : State) (b : Nat) (v : Bool) : (setEn s b v).pnl = s.pnl := rfl
@[simp] theorem setEn_mram (s : State) (b : Nat) (v : Bool) : (setEn s b v).mram = s.mram := rfl
@[simp] theorem setEn_dram (s : State) (b : Nat) (v : Bool) : (setEn s b v).dram = s.dram := rfl
@[simp] theorem setEn_other (s : State) (b : Nat) (v : Bool) : (setEn s b v).other = s.other := rfl
@[simp] theorem setEn_out (s : State) (b : Nat) (v : Bool) : (setEn s b v).out = s.out := rfl
@[simp] theorem setEn_free (s : State) (b : Nat) (v : Bool) : (setEn s b v).free = s.free := rfl
@[simp] theorem setEn_pending (s : State) (b : Nat) (v : Bool) : (setEn s b v).pending = s.pending := rfl

@[simp] theorem count_snaps (s : State) (b n : Nat) : (count b n s).snaps = s.snaps := rfl
@[simp] theorem count_staged (s : State) (b n : Nat) : (count b n s).staged = s.staged := rfl
@[simp] theorem count_sys (s : State) (b n : Nat) : (count b n s).sys = s.sys := rfl
@[simp] theorem count_pwr (s : State) (b n : Nat) : (count b n s).pwr = s.pwr := rfl
@[simp] theorem count_sched (s : State) (b n : Nat) : (count b n s).sched = s.sched := rfl
@[simp] theorem count_pimg (s : State) (b n : Nat) : (count b n s).pimg = s.pimg := rfl
@[simp] theorem count_cell (s : State) (b n : Nat) : (count b n s).cell = s.cell := rfl
@[simp] theorem count_mc1 (s : State) (b n : Nat) : (count b n s).mc1 = s.mc1 := rfl
@[simp] theorem count_loops (s : State) (b n : Nat) : (count b n s).loops = s.loops := rfl
@[simp] theorem count_axis (s : State) (b n : Nat) : (count b n s).axis = s.axis := rfl
@[simp] theorem count_metr (s : State) (b n : Nat) : (count b n s).metr = s.metr := rfl
@[simp] theorem count_canl (s : State) (b n : Nat) : (count b n s).canl = s.canl := rfl
@[simp] theorem count_mbus (s : State) (b n : Nat) : (count b n s).mbus = s.mbus := rfl
@[simp] theorem count_ethl (s : State) (b n : Nat) : (count b n s).ethl = s.ethl := rfl
@[simp] theorem count_solv (s : State) (b n : Nat) : (count b n s).solv = s.solv := rfl
@[simp] theorem count_parc (s : State) (b n : Nat) : (count b n s).parc = s.parc := rfl
@[simp] theorem count_hif (s : State) (b n : Nat) : (count b n s).hif = s.hif := rfl
@[simp] theorem count_irq (s : State) (b n : Nat) : (count b n s).irq = s.irq := rfl
@[simp] theorem count_sec (s : State) (b n : Nat) : (count b n s).sec = s.sec := rfl
@[simp] theorem count_recs (s : State) (b n : Nat) : (count b n s).recs = s.recs := rfl
@[simp] theorem count_nvm (s : State) (b n : Nat) : (count b n s).nvm = s.nvm := rfl
@[simp] theorem count_time (s : State) (b n : Nat) : (count b n s).time = s.time := rfl
@[simp] theorem count_rtc (s : State) (b n : Nat) : (count b n s).rtc = s.rtc := rfl
@[simp] theorem count_pair (s : State) (b n : Nat) : (count b n s).pair = s.pair := rfl
@[simp] theorem count_pnl (s : State) (b n : Nat) : (count b n s).pnl = s.pnl := rfl
@[simp] theorem count_mram (s : State) (b n : Nat) : (count b n s).mram = s.mram := rfl
@[simp] theorem count_dram (s : State) (b n : Nat) : (count b n s).dram = s.dram := rfl
@[simp] theorem count_other (s : State) (b n : Nat) : (count b n s).other = s.other := rfl
@[simp] theorem count_out (s : State) (b n : Nat) : (count b n s).out = s.out := rfl
@[simp] theorem count_free (s : State) (b n : Nat) : (count b n s).free = s.free := rfl
@[simp] theorem count_pending (s : State) (b n : Nat) : (count b n s).pending = s.pending := rfl

@[simp] theorem emit_blk (s : State) (o : Out) : (emit o s).blk = s.blk := rfl
@[simp] theorem emit_snaps (s : State) (o : Out) : (emit o s).snaps = s.snaps := rfl
@[simp] theorem emit_staged (s : State) (o : Out) : (emit o s).staged = s.staged := rfl
@[simp] theorem emit_sys (s : State) (o : Out) : (emit o s).sys = s.sys := rfl
@[simp] theorem emit_pwr (s : State) (o : Out) : (emit o s).pwr = s.pwr := rfl
@[simp] theorem emit_sched (s : State) (o : Out) : (emit o s).sched = s.sched := rfl
@[simp] theorem emit_pimg (s : State) (o : Out) : (emit o s).pimg = s.pimg := rfl
@[simp] theorem emit_cell (s : State) (o : Out) : (emit o s).cell = s.cell := rfl
@[simp] theorem emit_mc1 (s : State) (o : Out) : (emit o s).mc1 = s.mc1 := rfl
@[simp] theorem emit_loops (s : State) (o : Out) : (emit o s).loops = s.loops := rfl
@[simp] theorem emit_axis (s : State) (o : Out) : (emit o s).axis = s.axis := rfl
@[simp] theorem emit_metr (s : State) (o : Out) : (emit o s).metr = s.metr := rfl
@[simp] theorem emit_canl (s : State) (o : Out) : (emit o s).canl = s.canl := rfl
@[simp] theorem emit_mbus (s : State) (o : Out) : (emit o s).mbus = s.mbus := rfl
@[simp] theorem emit_ethl (s : State) (o : Out) : (emit o s).ethl = s.ethl := rfl
@[simp] theorem emit_solv (s : State) (o : Out) : (emit o s).solv = s.solv := rfl
@[simp] theorem emit_parc (s : State) (o : Out) : (emit o s).parc = s.parc := rfl
@[simp] theorem emit_hif (s : State) (o : Out) : (emit o s).hif = s.hif := rfl
@[simp] theorem emit_irq (s : State) (o : Out) : (emit o s).irq = s.irq := rfl
@[simp] theorem emit_sec (s : State) (o : Out) : (emit o s).sec = s.sec := rfl
@[simp] theorem emit_recs (s : State) (o : Out) : (emit o s).recs = s.recs := rfl
@[simp] theorem emit_nvm (s : State) (o : Out) : (emit o s).nvm = s.nvm := rfl
@[simp] theorem emit_time (s : State) (o : Out) : (emit o s).time = s.time := rfl
@[simp] theorem emit_rtc (s : State) (o : Out) : (emit o s).rtc = s.rtc := rfl
@[simp] theorem emit_pair (s : State) (o : Out) : (emit o s).pair = s.pair := rfl
@[simp] theorem emit_pnl (s : State) (o : Out) : (emit o s).pnl = s.pnl := rfl
@[simp] theorem emit_mram (s : State) (o : Out) : (emit o s).mram = s.mram := rfl
@[simp] theorem emit_dram (s : State) (o : Out) : (emit o s).dram = s.dram := rfl
@[simp] theorem emit_other (s : State) (o : Out) : (emit o s).other = s.other := rfl
@[simp] theorem emit_free (s : State) (o : Out) : (emit o s).free = s.free := rfl
@[simp] theorem emit_pending (s : State) (o : Out) : (emit o s).pending = s.pending := rfl

@[simp] theorem emitAll_blk (s : State) (o : List Out) : (emitAll o s).blk = s.blk := rfl
@[simp] theorem emitAll_snaps (s : State) (o : List Out) : (emitAll o s).snaps = s.snaps := rfl
@[simp] theorem emitAll_staged (s : State) (o : List Out) : (emitAll o s).staged = s.staged := rfl
@[simp] theorem emitAll_sys (s : State) (o : List Out) : (emitAll o s).sys = s.sys := rfl
@[simp] theorem emitAll_pwr (s : State) (o : List Out) : (emitAll o s).pwr = s.pwr := rfl
@[simp] theorem emitAll_sched (s : State) (o : List Out) : (emitAll o s).sched = s.sched := rfl
@[simp] theorem emitAll_pimg (s : State) (o : List Out) : (emitAll o s).pimg = s.pimg := rfl
@[simp] theorem emitAll_cell (s : State) (o : List Out) : (emitAll o s).cell = s.cell := rfl
@[simp] theorem emitAll_mc1 (s : State) (o : List Out) : (emitAll o s).mc1 = s.mc1 := rfl
@[simp] theorem emitAll_loops (s : State) (o : List Out) : (emitAll o s).loops = s.loops := rfl
@[simp] theorem emitAll_axis (s : State) (o : List Out) : (emitAll o s).axis = s.axis := rfl
@[simp] theorem emitAll_metr (s : State) (o : List Out) : (emitAll o s).metr = s.metr := rfl
@[simp] theorem emitAll_canl (s : State) (o : List Out) : (emitAll o s).canl = s.canl := rfl
@[simp] theorem emitAll_mbus (s : State) (o : List Out) : (emitAll o s).mbus = s.mbus := rfl
@[simp] theorem emitAll_ethl (s : State) (o : List Out) : (emitAll o s).ethl = s.ethl := rfl
@[simp] theorem emitAll_solv (s : State) (o : List Out) : (emitAll o s).solv = s.solv := rfl
@[simp] theorem emitAll_parc (s : State) (o : List Out) : (emitAll o s).parc = s.parc := rfl
@[simp] theorem emitAll_hif (s : State) (o : List Out) : (emitAll o s).hif = s.hif := rfl
@[simp] theorem emitAll_irq (s : State) (o : List Out) : (emitAll o s).irq = s.irq := rfl
@[simp] theorem emitAll_sec (s : State) (o : List Out) : (emitAll o s).sec = s.sec := rfl
@[simp] theorem emitAll_recs (s : State) (o : List Out) : (emitAll o s).recs = s.recs := rfl
@[simp] theorem emitAll_nvm (s : State) (o : List Out) : (emitAll o s).nvm = s.nvm := rfl
@[simp] theorem emitAll_time (s : State) (o : List Out) : (emitAll o s).time = s.time := rfl
@[simp] theorem emitAll_rtc (s : State) (o : List Out) : (emitAll o s).rtc = s.rtc := rfl
@[simp] theorem emitAll_pair (s : State) (o : List Out) : (emitAll o s).pair = s.pair := rfl
@[simp] theorem emitAll_pnl (s : State) (o : List Out) : (emitAll o s).pnl = s.pnl := rfl
@[simp] theorem emitAll_mram (s : State) (o : List Out) : (emitAll o s).mram = s.mram := rfl
@[simp] theorem emitAll_dram (s : State) (o : List Out) : (emitAll o s).dram = s.dram := rfl
@[simp] theorem emitAll_other (s : State) (o : List Out) : (emitAll o s).other = s.other := rfl
@[simp] theorem emitAll_free (s : State) (o : List Out) : (emitAll o s).free = s.free := rfl
@[simp] theorem emitAll_pending (s : State) (o : List Out) : (emitAll o s).pending = s.pending := rfl

@[simp] theorem srcPut_blk (s : State) (n : Nat) (v : IrqSrc) : (srcPut s n v).blk = s.blk := rfl
@[simp] theorem srcPut_snaps (s : State) (n : Nat) (v : IrqSrc) : (srcPut s n v).snaps = s.snaps := rfl
@[simp] theorem srcPut_staged (s : State) (n : Nat) (v : IrqSrc) : (srcPut s n v).staged = s.staged := rfl
@[simp] theorem srcPut_sys (s : State) (n : Nat) (v : IrqSrc) : (srcPut s n v).sys = s.sys := rfl
@[simp] theorem srcPut_pwr (s : State) (n : Nat) (v : IrqSrc) : (srcPut s n v).pwr = s.pwr := rfl
@[simp] theorem srcPut_sched (s : State) (n : Nat) (v : IrqSrc) : (srcPut s n v).sched = s.sched := rfl
@[simp] theorem srcPut_pimg (s : State) (n : Nat) (v : IrqSrc) : (srcPut s n v).pimg = s.pimg := rfl
@[simp] theorem srcPut_cell (s : State) (n : Nat) (v : IrqSrc) : (srcPut s n v).cell = s.cell := rfl
@[simp] theorem srcPut_mc1 (s : State) (n : Nat) (v : IrqSrc) : (srcPut s n v).mc1 = s.mc1 := rfl
@[simp] theorem srcPut_loops (s : State) (n : Nat) (v : IrqSrc) : (srcPut s n v).loops = s.loops := rfl
@[simp] theorem srcPut_axis (s : State) (n : Nat) (v : IrqSrc) : (srcPut s n v).axis = s.axis := rfl
@[simp] theorem srcPut_metr (s : State) (n : Nat) (v : IrqSrc) : (srcPut s n v).metr = s.metr := rfl
@[simp] theorem srcPut_canl (s : State) (n : Nat) (v : IrqSrc) : (srcPut s n v).canl = s.canl := rfl
@[simp] theorem srcPut_mbus (s : State) (n : Nat) (v : IrqSrc) : (srcPut s n v).mbus = s.mbus := rfl
@[simp] theorem srcPut_ethl (s : State) (n : Nat) (v : IrqSrc) : (srcPut s n v).ethl = s.ethl := rfl
@[simp] theorem srcPut_solv (s : State) (n : Nat) (v : IrqSrc) : (srcPut s n v).solv = s.solv := rfl
@[simp] theorem srcPut_parc (s : State) (n : Nat) (v : IrqSrc) : (srcPut s n v).parc = s.parc := rfl
@[simp] theorem srcPut_hif (s : State) (n : Nat) (v : IrqSrc) : (srcPut s n v).hif = s.hif := rfl
@[simp] theorem srcPut_sec (s : State) (n : Nat) (v : IrqSrc) : (srcPut s n v).sec = s.sec := rfl
@[simp] theorem srcPut_recs (s : State) (n : Nat) (v : IrqSrc) : (srcPut s n v).recs = s.recs := rfl
@[simp] theorem srcPut_nvm (s : State) (n : Nat) (v : IrqSrc) : (srcPut s n v).nvm = s.nvm := rfl
@[simp] theorem srcPut_time (s : State) (n : Nat) (v : IrqSrc) : (srcPut s n v).time = s.time := rfl
@[simp] theorem srcPut_rtc (s : State) (n : Nat) (v : IrqSrc) : (srcPut s n v).rtc = s.rtc := rfl
@[simp] theorem srcPut_pair (s : State) (n : Nat) (v : IrqSrc) : (srcPut s n v).pair = s.pair := rfl
@[simp] theorem srcPut_pnl (s : State) (n : Nat) (v : IrqSrc) : (srcPut s n v).pnl = s.pnl := rfl
@[simp] theorem srcPut_mram (s : State) (n : Nat) (v : IrqSrc) : (srcPut s n v).mram = s.mram := rfl
@[simp] theorem srcPut_dram (s : State) (n : Nat) (v : IrqSrc) : (srcPut s n v).dram = s.dram := rfl
@[simp] theorem srcPut_other (s : State) (n : Nat) (v : IrqSrc) : (srcPut s n v).other = s.other := rfl
@[simp] theorem srcPut_out (s : State) (n : Nat) (v : IrqSrc) : (srcPut s n v).out = s.out := rfl
@[simp] theorem srcPut_free (s : State) (n : Nat) (v : IrqSrc) : (srcPut s n v).free = s.free := rfl
@[simp] theorem srcPut_pending (s : State) (n : Nat) (v : IrqSrc) : (srcPut s n v).pending = s.pending := rfl

@[simp] theorem irqEdge_blk (s : State) (n : Nat) : (irqEdge n s).blk = s.blk := rfl
@[simp] theorem irqEdge_snaps (s : State) (n : Nat) : (irqEdge n s).snaps = s.snaps := rfl
@[simp] theorem irqEdge_staged (s : State) (n : Nat) : (irqEdge n s).staged = s.staged := rfl
@[simp] theorem irqEdge_sys (s : State) (n : Nat) : (irqEdge n s).sys = s.sys := rfl
@[simp] theorem irqEdge_pwr (s : State) (n : Nat) : (irqEdge n s).pwr = s.pwr := rfl
@[simp] theorem irqEdge_sched (s : State) (n : Nat) : (irqEdge n s).sched = s.sched := rfl
@[simp] theorem irqEdge_pimg (s : State) (n : Nat) : (irqEdge n s).pimg = s.pimg := rfl
@[simp] theorem irqEdge_cell (s : State) (n : Nat) : (irqEdge n s).cell = s.cell := rfl
@[simp] theorem irqEdge_mc1 (s : State) (n : Nat) : (irqEdge n s).mc1 = s.mc1 := rfl
@[simp] theorem irqEdge_loops (s : State) (n : Nat) : (irqEdge n s).loops = s.loops := rfl
@[simp] theorem irqEdge_axis (s : State) (n : Nat) : (irqEdge n s).axis = s.axis := rfl
@[simp] theorem irqEdge_metr (s : State) (n : Nat) : (irqEdge n s).metr = s.metr := rfl
@[simp] theorem irqEdge_canl (s : State) (n : Nat) : (irqEdge n s).canl = s.canl := rfl
@[simp] theorem irqEdge_mbus (s : State) (n : Nat) : (irqEdge n s).mbus = s.mbus := rfl
@[simp] theorem irqEdge_ethl (s : State) (n : Nat) : (irqEdge n s).ethl = s.ethl := rfl
@[simp] theorem irqEdge_solv (s : State) (n : Nat) : (irqEdge n s).solv = s.solv := rfl
@[simp] theorem irqEdge_parc (s : State) (n : Nat) : (irqEdge n s).parc = s.parc := rfl
@[simp] theorem irqEdge_hif (s : State) (n : Nat) : (irqEdge n s).hif = s.hif := rfl
@[simp] theorem irqEdge_sec (s : State) (n : Nat) : (irqEdge n s).sec = s.sec := rfl
@[simp] theorem irqEdge_recs (s : State) (n : Nat) : (irqEdge n s).recs = s.recs := rfl
@[simp] theorem irqEdge_nvm (s : State) (n : Nat) : (irqEdge n s).nvm = s.nvm := rfl
@[simp] theorem irqEdge_time (s : State) (n : Nat) : (irqEdge n s).time = s.time := rfl
@[simp] theorem irqEdge_rtc (s : State) (n : Nat) : (irqEdge n s).rtc = s.rtc := rfl
@[simp] theorem irqEdge_pair (s : State) (n : Nat) : (irqEdge n s).pair = s.pair := rfl
@[simp] theorem irqEdge_pnl (s : State) (n : Nat) : (irqEdge n s).pnl = s.pnl := rfl
@[simp] theorem irqEdge_mram (s : State) (n : Nat) : (irqEdge n s).mram = s.mram := rfl
@[simp] theorem irqEdge_dram (s : State) (n : Nat) : (irqEdge n s).dram = s.dram := rfl
@[simp] theorem irqEdge_other (s : State) (n : Nat) : (irqEdge n s).other = s.other := rfl
@[simp] theorem irqEdge_out (s : State) (n : Nat) : (irqEdge n s).out = s.out := rfl
@[simp] theorem irqEdge_free (s : State) (n : Nat) : (irqEdge n s).free = s.free := rfl
@[simp] theorem irqEdge_pending (s : State) (n : Nat) : (irqEdge n s).pending = s.pending := rfl

@[simp] theorem ringPut_blk (s : State) (r : Nat) (v : Ring) : (ringPut s r v).blk = s.blk := rfl
@[simp] theorem ringPut_snaps (s : State) (r : Nat) (v : Ring) : (ringPut s r v).snaps = s.snaps := rfl
@[simp] theorem ringPut_staged (s : State) (r : Nat) (v : Ring) : (ringPut s r v).staged = s.staged := rfl
@[simp] theorem ringPut_sys (s : State) (r : Nat) (v : Ring) : (ringPut s r v).sys = s.sys := rfl
@[simp] theorem ringPut_pwr (s : State) (r : Nat) (v : Ring) : (ringPut s r v).pwr = s.pwr := rfl
@[simp] theorem ringPut_sched (s : State) (r : Nat) (v : Ring) : (ringPut s r v).sched = s.sched := rfl
@[simp] theorem ringPut_pimg (s : State) (r : Nat) (v : Ring) : (ringPut s r v).pimg = s.pimg := rfl
@[simp] theorem ringPut_cell (s : State) (r : Nat) (v : Ring) : (ringPut s r v).cell = s.cell := rfl
@[simp] theorem ringPut_mc1 (s : State) (r : Nat) (v : Ring) : (ringPut s r v).mc1 = s.mc1 := rfl
@[simp] theorem ringPut_loops (s : State) (r : Nat) (v : Ring) : (ringPut s r v).loops = s.loops := rfl
@[simp] theorem ringPut_axis (s : State) (r : Nat) (v : Ring) : (ringPut s r v).axis = s.axis := rfl
@[simp] theorem ringPut_metr (s : State) (r : Nat) (v : Ring) : (ringPut s r v).metr = s.metr := rfl
@[simp] theorem ringPut_canl (s : State) (r : Nat) (v : Ring) : (ringPut s r v).canl = s.canl := rfl
@[simp] theorem ringPut_mbus (s : State) (r : Nat) (v : Ring) : (ringPut s r v).mbus = s.mbus := rfl
@[simp] theorem ringPut_ethl (s : State) (r : Nat) (v : Ring) : (ringPut s r v).ethl = s.ethl := rfl
@[simp] theorem ringPut_solv (s : State) (r : Nat) (v : Ring) : (ringPut s r v).solv = s.solv := rfl
@[simp] theorem ringPut_parc (s : State) (r : Nat) (v : Ring) : (ringPut s r v).parc = s.parc := rfl
@[simp] theorem ringPut_irq (s : State) (r : Nat) (v : Ring) : (ringPut s r v).irq = s.irq := rfl
@[simp] theorem ringPut_sec (s : State) (r : Nat) (v : Ring) : (ringPut s r v).sec = s.sec := rfl
@[simp] theorem ringPut_recs (s : State) (r : Nat) (v : Ring) : (ringPut s r v).recs = s.recs := rfl
@[simp] theorem ringPut_nvm (s : State) (r : Nat) (v : Ring) : (ringPut s r v).nvm = s.nvm := rfl
@[simp] theorem ringPut_time (s : State) (r : Nat) (v : Ring) : (ringPut s r v).time = s.time := rfl
@[simp] theorem ringPut_rtc (s : State) (r : Nat) (v : Ring) : (ringPut s r v).rtc = s.rtc := rfl
@[simp] theorem ringPut_pair (s : State) (r : Nat) (v : Ring) : (ringPut s r v).pair = s.pair := rfl
@[simp] theorem ringPut_pnl (s : State) (r : Nat) (v : Ring) : (ringPut s r v).pnl = s.pnl := rfl
@[simp] theorem ringPut_mram (s : State) (r : Nat) (v : Ring) : (ringPut s r v).mram = s.mram := rfl
@[simp] theorem ringPut_dram (s : State) (r : Nat) (v : Ring) : (ringPut s r v).dram = s.dram := rfl
@[simp] theorem ringPut_other (s : State) (r : Nat) (v : Ring) : (ringPut s r v).other = s.other := rfl
@[simp] theorem ringPut_out (s : State) (r : Nat) (v : Ring) : (ringPut s r v).out = s.out := rfl
@[simp] theorem ringPut_free (s : State) (r : Nat) (v : Ring) : (ringPut s r v).free = s.free := rfl
@[simp] theorem ringPut_pending (s : State) (r : Nat) (v : Ring) : (ringPut s r v).pending = s.pending := rfl

@[simp] theorem sessPut_blk (s : State) (k : Nat) (v : Sess) : (sessPut s k v).blk = s.blk := rfl
@[simp] theorem sessPut_snaps (s : State) (k : Nat) (v : Sess) : (sessPut s k v).snaps = s.snaps := rfl
@[simp] theorem sessPut_staged (s : State) (k : Nat) (v : Sess) : (sessPut s k v).staged = s.staged := rfl
@[simp] theorem sessPut_sys (s : State) (k : Nat) (v : Sess) : (sessPut s k v).sys = s.sys := rfl
@[simp] theorem sessPut_pwr (s : State) (k : Nat) (v : Sess) : (sessPut s k v).pwr = s.pwr := rfl
@[simp] theorem sessPut_sched (s : State) (k : Nat) (v : Sess) : (sessPut s k v).sched = s.sched := rfl
@[simp] theorem sessPut_pimg (s : State) (k : Nat) (v : Sess) : (sessPut s k v).pimg = s.pimg := rfl
@[simp] theorem sessPut_cell (s : State) (k : Nat) (v : Sess) : (sessPut s k v).cell = s.cell := rfl
@[simp] theorem sessPut_mc1 (s : State) (k : Nat) (v : Sess) : (sessPut s k v).mc1 = s.mc1 := rfl
@[simp] theorem sessPut_loops (s : State) (k : Nat) (v : Sess) : (sessPut s k v).loops = s.loops := rfl
@[simp] theorem sessPut_axis (s : State) (k : Nat) (v : Sess) : (sessPut s k v).axis = s.axis := rfl
@[simp] theorem sessPut_metr (s : State) (k : Nat) (v : Sess) : (sessPut s k v).metr = s.metr := rfl
@[simp] theorem sessPut_canl (s : State) (k : Nat) (v : Sess) : (sessPut s k v).canl = s.canl := rfl
@[simp] theorem sessPut_mbus (s : State) (k : Nat) (v : Sess) : (sessPut s k v).mbus = s.mbus := rfl
@[simp] theorem sessPut_ethl (s : State) (k : Nat) (v : Sess) : (sessPut s k v).ethl = s.ethl := rfl
@[simp] theorem sessPut_solv (s : State) (k : Nat) (v : Sess) : (sessPut s k v).solv = s.solv := rfl
@[simp] theorem sessPut_parc (s : State) (k : Nat) (v : Sess) : (sessPut s k v).parc = s.parc := rfl
@[simp] theorem sessPut_hif (s : State) (k : Nat) (v : Sess) : (sessPut s k v).hif = s.hif := rfl
@[simp] theorem sessPut_irq (s : State) (k : Nat) (v : Sess) : (sessPut s k v).irq = s.irq := rfl
@[simp] theorem sessPut_recs (s : State) (k : Nat) (v : Sess) : (sessPut s k v).recs = s.recs := rfl
@[simp] theorem sessPut_nvm (s : State) (k : Nat) (v : Sess) : (sessPut s k v).nvm = s.nvm := rfl
@[simp] theorem sessPut_time (s : State) (k : Nat) (v : Sess) : (sessPut s k v).time = s.time := rfl
@[simp] theorem sessPut_rtc (s : State) (k : Nat) (v : Sess) : (sessPut s k v).rtc = s.rtc := rfl
@[simp] theorem sessPut_pair (s : State) (k : Nat) (v : Sess) : (sessPut s k v).pair = s.pair := rfl
@[simp] theorem sessPut_pnl (s : State) (k : Nat) (v : Sess) : (sessPut s k v).pnl = s.pnl := rfl
@[simp] theorem sessPut_mram (s : State) (k : Nat) (v : Sess) : (sessPut s k v).mram = s.mram := rfl
@[simp] theorem sessPut_dram (s : State) (k : Nat) (v : Sess) : (sessPut s k v).dram = s.dram := rfl
@[simp] theorem sessPut_other (s : State) (k : Nat) (v : Sess) : (sessPut s k v).other = s.other := rfl
@[simp] theorem sessPut_out (s : State) (k : Nat) (v : Sess) : (sessPut s k v).out = s.out := rfl
@[simp] theorem sessPut_free (s : State) (k : Nat) (v : Sess) : (sessPut s k v).free = s.free := rfl
@[simp] theorem sessPut_pending (s : State) (k : Nat) (v : Sess) : (sessPut s k v).pending = s.pending := rfl

@[simp] theorem engPut_blk (s : State) (e : Nat) (v : CellEng) : (engPut s e v).blk = s.blk := rfl
@[simp] theorem engPut_snaps (s : State) (e : Nat) (v : CellEng) : (engPut s e v).snaps = s.snaps := rfl
@[simp] theorem engPut_staged (s : State) (e : Nat) (v : CellEng) : (engPut s e v).staged = s.staged := rfl
@[simp] theorem engPut_sys (s : State) (e : Nat) (v : CellEng) : (engPut s e v).sys = s.sys := rfl
@[simp] theorem engPut_pwr (s : State) (e : Nat) (v : CellEng) : (engPut s e v).pwr = s.pwr := rfl
@[simp] theorem engPut_sched (s : State) (e : Nat) (v : CellEng) : (engPut s e v).sched = s.sched := rfl
@[simp] theorem engPut_pimg (s : State) (e : Nat) (v : CellEng) : (engPut s e v).pimg = s.pimg := rfl
@[simp] theorem engPut_mc1 (s : State) (e : Nat) (v : CellEng) : (engPut s e v).mc1 = s.mc1 := rfl
@[simp] theorem engPut_loops (s : State) (e : Nat) (v : CellEng) : (engPut s e v).loops = s.loops := rfl
@[simp] theorem engPut_axis (s : State) (e : Nat) (v : CellEng) : (engPut s e v).axis = s.axis := rfl
@[simp] theorem engPut_metr (s : State) (e : Nat) (v : CellEng) : (engPut s e v).metr = s.metr := rfl
@[simp] theorem engPut_canl (s : State) (e : Nat) (v : CellEng) : (engPut s e v).canl = s.canl := rfl
@[simp] theorem engPut_mbus (s : State) (e : Nat) (v : CellEng) : (engPut s e v).mbus = s.mbus := rfl
@[simp] theorem engPut_ethl (s : State) (e : Nat) (v : CellEng) : (engPut s e v).ethl = s.ethl := rfl
@[simp] theorem engPut_solv (s : State) (e : Nat) (v : CellEng) : (engPut s e v).solv = s.solv := rfl
@[simp] theorem engPut_parc (s : State) (e : Nat) (v : CellEng) : (engPut s e v).parc = s.parc := rfl
@[simp] theorem engPut_hif (s : State) (e : Nat) (v : CellEng) : (engPut s e v).hif = s.hif := rfl
@[simp] theorem engPut_irq (s : State) (e : Nat) (v : CellEng) : (engPut s e v).irq = s.irq := rfl
@[simp] theorem engPut_sec (s : State) (e : Nat) (v : CellEng) : (engPut s e v).sec = s.sec := rfl
@[simp] theorem engPut_recs (s : State) (e : Nat) (v : CellEng) : (engPut s e v).recs = s.recs := rfl
@[simp] theorem engPut_nvm (s : State) (e : Nat) (v : CellEng) : (engPut s e v).nvm = s.nvm := rfl
@[simp] theorem engPut_time (s : State) (e : Nat) (v : CellEng) : (engPut s e v).time = s.time := rfl
@[simp] theorem engPut_rtc (s : State) (e : Nat) (v : CellEng) : (engPut s e v).rtc = s.rtc := rfl
@[simp] theorem engPut_pair (s : State) (e : Nat) (v : CellEng) : (engPut s e v).pair = s.pair := rfl
@[simp] theorem engPut_pnl (s : State) (e : Nat) (v : CellEng) : (engPut s e v).pnl = s.pnl := rfl
@[simp] theorem engPut_mram (s : State) (e : Nat) (v : CellEng) : (engPut s e v).mram = s.mram := rfl
@[simp] theorem engPut_dram (s : State) (e : Nat) (v : CellEng) : (engPut s e v).dram = s.dram := rfl
@[simp] theorem engPut_other (s : State) (e : Nat) (v : CellEng) : (engPut s e v).other = s.other := rfl
@[simp] theorem engPut_out (s : State) (e : Nat) (v : CellEng) : (engPut s e v).out = s.out := rfl
@[simp] theorem engPut_free (s : State) (e : Nat) (v : CellEng) : (engPut s e v).free = s.free := rfl
@[simp] theorem engPut_pending (s : State) (e : Nat) (v : CellEng) : (engPut s e v).pending = s.pending := rfl

@[simp] theorem workPut_blk (s : State) (p : Nat) (v : Point) : (workPut s p v).blk = s.blk := rfl
@[simp] theorem workPut_snaps (s : State) (p : Nat) (v : Point) : (workPut s p v).snaps = s.snaps := rfl
@[simp] theorem workPut_staged (s : State) (p : Nat) (v : Point) : (workPut s p v).staged = s.staged := rfl
@[simp] theorem workPut_sys (s : State) (p : Nat) (v : Point) : (workPut s p v).sys = s.sys := rfl
@[simp] theorem workPut_pwr (s : State) (p : Nat) (v : Point) : (workPut s p v).pwr = s.pwr := rfl
@[simp] theorem workPut_sched (s : State) (p : Nat) (v : Point) : (workPut s p v).sched = s.sched := rfl
@[simp] theorem workPut_cell (s : State) (p : Nat) (v : Point) : (workPut s p v).cell = s.cell := rfl
@[simp] theorem workPut_mc1 (s : State) (p : Nat) (v : Point) : (workPut s p v).mc1 = s.mc1 := rfl
@[simp] theorem workPut_loops (s : State) (p : Nat) (v : Point) : (workPut s p v).loops = s.loops := rfl
@[simp] theorem workPut_axis (s : State) (p : Nat) (v : Point) : (workPut s p v).axis = s.axis := rfl
@[simp] theorem workPut_metr (s : State) (p : Nat) (v : Point) : (workPut s p v).metr = s.metr := rfl
@[simp] theorem workPut_canl (s : State) (p : Nat) (v : Point) : (workPut s p v).canl = s.canl := rfl
@[simp] theorem workPut_mbus (s : State) (p : Nat) (v : Point) : (workPut s p v).mbus = s.mbus := rfl
@[simp] theorem workPut_ethl (s : State) (p : Nat) (v : Point) : (workPut s p v).ethl = s.ethl := rfl
@[simp] theorem workPut_solv (s : State) (p : Nat) (v : Point) : (workPut s p v).solv = s.solv := rfl
@[simp] theorem workPut_parc (s : State) (p : Nat) (v : Point) : (workPut s p v).parc = s.parc := rfl
@[simp] theorem workPut_hif (s : State) (p : Nat) (v : Point) : (workPut s p v).hif = s.hif := rfl
@[simp] theorem workPut_irq (s : State) (p : Nat) (v : Point) : (workPut s p v).irq = s.irq := rfl
@[simp] theorem workPut_sec (s : State) (p : Nat) (v : Point) : (workPut s p v).sec = s.sec := rfl
@[simp] theorem workPut_recs (s : State) (p : Nat) (v : Point) : (workPut s p v).recs = s.recs := rfl
@[simp] theorem workPut_nvm (s : State) (p : Nat) (v : Point) : (workPut s p v).nvm = s.nvm := rfl
@[simp] theorem workPut_time (s : State) (p : Nat) (v : Point) : (workPut s p v).time = s.time := rfl
@[simp] theorem workPut_rtc (s : State) (p : Nat) (v : Point) : (workPut s p v).rtc = s.rtc := rfl
@[simp] theorem workPut_pair (s : State) (p : Nat) (v : Point) : (workPut s p v).pair = s.pair := rfl
@[simp] theorem workPut_pnl (s : State) (p : Nat) (v : Point) : (workPut s p v).pnl = s.pnl := rfl
@[simp] theorem workPut_mram (s : State) (p : Nat) (v : Point) : (workPut s p v).mram = s.mram := rfl
@[simp] theorem workPut_dram (s : State) (p : Nat) (v : Point) : (workPut s p v).dram = s.dram := rfl
@[simp] theorem workPut_other (s : State) (p : Nat) (v : Point) : (workPut s p v).other = s.other := rfl
@[simp] theorem workPut_out (s : State) (p : Nat) (v : Point) : (workPut s p v).out = s.out := rfl
@[simp] theorem workPut_free (s : State) (p : Nat) (v : Point) : (workPut s p v).free = s.free := rfl
@[simp] theorem workPut_pending (s : State) (p : Nat) (v : Point) : (workPut s p v).pending = s.pending := rfl

@[simp] theorem trigPut_blk (s : State) (n : Nat) (v : Trig) : (trigPut s n v).blk = s.blk := rfl
@[simp] theorem trigPut_snaps (s : State) (n : Nat) (v : Trig) : (trigPut s n v).snaps = s.snaps := rfl
@[simp] theorem trigPut_staged (s : State) (n : Nat) (v : Trig) : (trigPut s n v).staged = s.staged := rfl
@[simp] theorem trigPut_sys (s : State) (n : Nat) (v : Trig) : (trigPut s n v).sys = s.sys := rfl
@[simp] theorem trigPut_pwr (s : State) (n : Nat) (v : Trig) : (trigPut s n v).pwr = s.pwr := rfl
@[simp] theorem trigPut_sched (s : State) (n : Nat) (v : Trig) : (trigPut s n v).sched = s.sched := rfl
@[simp] theorem trigPut_pimg (s : State) (n : Nat) (v : Trig) : (trigPut s n v).pimg = s.pimg := rfl
@[simp] theorem trigPut_cell (s : State) (n : Nat) (v : Trig) : (trigPut s n v).cell = s.cell := rfl
@[simp] theorem trigPut_mc1 (s : State) (n : Nat) (v : Trig) : (trigPut s n v).mc1 = s.mc1 := rfl
@[simp] theorem trigPut_loops (s : State) (n : Nat) (v : Trig) : (trigPut s n v).loops = s.loops := rfl
@[simp] theorem trigPut_axis (s : State) (n : Nat) (v : Trig) : (trigPut s n v).axis = s.axis := rfl
@[simp] theorem trigPut_metr (s : State) (n : Nat) (v : Trig) : (trigPut s n v).metr = s.metr := rfl
@[simp] theorem trigPut_canl (s : State) (n : Nat) (v : Trig) : (trigPut s n v).canl = s.canl := rfl
@[simp] theorem trigPut_mbus (s : State) (n : Nat) (v : Trig) : (trigPut s n v).mbus = s.mbus := rfl
@[simp] theorem trigPut_ethl (s : State) (n : Nat) (v : Trig) : (trigPut s n v).ethl = s.ethl := rfl
@[simp] theorem trigPut_solv (s : State) (n : Nat) (v : Trig) : (trigPut s n v).solv = s.solv := rfl
@[simp] theorem trigPut_parc (s : State) (n : Nat) (v : Trig) : (trigPut s n v).parc = s.parc := rfl
@[simp] theorem trigPut_hif (s : State) (n : Nat) (v : Trig) : (trigPut s n v).hif = s.hif := rfl
@[simp] theorem trigPut_irq (s : State) (n : Nat) (v : Trig) : (trigPut s n v).irq = s.irq := rfl
@[simp] theorem trigPut_sec (s : State) (n : Nat) (v : Trig) : (trigPut s n v).sec = s.sec := rfl
@[simp] theorem trigPut_recs (s : State) (n : Nat) (v : Trig) : (trigPut s n v).recs = s.recs := rfl
@[simp] theorem trigPut_nvm (s : State) (n : Nat) (v : Trig) : (trigPut s n v).nvm = s.nvm := rfl
@[simp] theorem trigPut_rtc (s : State) (n : Nat) (v : Trig) : (trigPut s n v).rtc = s.rtc := rfl
@[simp] theorem trigPut_pair (s : State) (n : Nat) (v : Trig) : (trigPut s n v).pair = s.pair := rfl
@[simp] theorem trigPut_pnl (s : State) (n : Nat) (v : Trig) : (trigPut s n v).pnl = s.pnl := rfl
@[simp] theorem trigPut_mram (s : State) (n : Nat) (v : Trig) : (trigPut s n v).mram = s.mram := rfl
@[simp] theorem trigPut_dram (s : State) (n : Nat) (v : Trig) : (trigPut s n v).dram = s.dram := rfl
@[simp] theorem trigPut_other (s : State) (n : Nat) (v : Trig) : (trigPut s n v).other = s.other := rfl
@[simp] theorem trigPut_out (s : State) (n : Nat) (v : Trig) : (trigPut s n v).out = s.out := rfl
@[simp] theorem trigPut_free (s : State) (n : Nat) (v : Trig) : (trigPut s n v).free = s.free := rfl
@[simp] theorem trigPut_pending (s : State) (n : Nat) (v : Trig) : (trigPut s n v).pending = s.pending := rfl

@[simp] theorem chPut_blk (s : State) (n : Nat) (v : CanChan) : (chPut s n v).blk = s.blk := rfl
@[simp] theorem chPut_snaps (s : State) (n : Nat) (v : CanChan) : (chPut s n v).snaps = s.snaps := rfl
@[simp] theorem chPut_staged (s : State) (n : Nat) (v : CanChan) : (chPut s n v).staged = s.staged := rfl
@[simp] theorem chPut_sys (s : State) (n : Nat) (v : CanChan) : (chPut s n v).sys = s.sys := rfl
@[simp] theorem chPut_pwr (s : State) (n : Nat) (v : CanChan) : (chPut s n v).pwr = s.pwr := rfl
@[simp] theorem chPut_sched (s : State) (n : Nat) (v : CanChan) : (chPut s n v).sched = s.sched := rfl
@[simp] theorem chPut_pimg (s : State) (n : Nat) (v : CanChan) : (chPut s n v).pimg = s.pimg := rfl
@[simp] theorem chPut_cell (s : State) (n : Nat) (v : CanChan) : (chPut s n v).cell = s.cell := rfl
@[simp] theorem chPut_mc1 (s : State) (n : Nat) (v : CanChan) : (chPut s n v).mc1 = s.mc1 := rfl
@[simp] theorem chPut_loops (s : State) (n : Nat) (v : CanChan) : (chPut s n v).loops = s.loops := rfl
@[simp] theorem chPut_axis (s : State) (n : Nat) (v : CanChan) : (chPut s n v).axis = s.axis := rfl
@[simp] theorem chPut_metr (s : State) (n : Nat) (v : CanChan) : (chPut s n v).metr = s.metr := rfl
@[simp] theorem chPut_mbus (s : State) (n : Nat) (v : CanChan) : (chPut s n v).mbus = s.mbus := rfl
@[simp] theorem chPut_ethl (s : State) (n : Nat) (v : CanChan) : (chPut s n v).ethl = s.ethl := rfl
@[simp] theorem chPut_solv (s : State) (n : Nat) (v : CanChan) : (chPut s n v).solv = s.solv := rfl
@[simp] theorem chPut_parc (s : State) (n : Nat) (v : CanChan) : (chPut s n v).parc = s.parc := rfl
@[simp] theorem chPut_hif (s : State) (n : Nat) (v : CanChan) : (chPut s n v).hif = s.hif := rfl
@[simp] theorem chPut_irq (s : State) (n : Nat) (v : CanChan) : (chPut s n v).irq = s.irq := rfl
@[simp] theorem chPut_sec (s : State) (n : Nat) (v : CanChan) : (chPut s n v).sec = s.sec := rfl
@[simp] theorem chPut_recs (s : State) (n : Nat) (v : CanChan) : (chPut s n v).recs = s.recs := rfl
@[simp] theorem chPut_nvm (s : State) (n : Nat) (v : CanChan) : (chPut s n v).nvm = s.nvm := rfl
@[simp] theorem chPut_time (s : State) (n : Nat) (v : CanChan) : (chPut s n v).time = s.time := rfl
@[simp] theorem chPut_rtc (s : State) (n : Nat) (v : CanChan) : (chPut s n v).rtc = s.rtc := rfl
@[simp] theorem chPut_pair (s : State) (n : Nat) (v : CanChan) : (chPut s n v).pair = s.pair := rfl
@[simp] theorem chPut_pnl (s : State) (n : Nat) (v : CanChan) : (chPut s n v).pnl = s.pnl := rfl
@[simp] theorem chPut_mram (s : State) (n : Nat) (v : CanChan) : (chPut s n v).mram = s.mram := rfl
@[simp] theorem chPut_dram (s : State) (n : Nat) (v : CanChan) : (chPut s n v).dram = s.dram := rfl
@[simp] theorem chPut_other (s : State) (n : Nat) (v : CanChan) : (chPut s n v).other = s.other := rfl
@[simp] theorem chPut_out (s : State) (n : Nat) (v : CanChan) : (chPut s n v).out = s.out := rfl
@[simp] theorem chPut_free (s : State) (n : Nat) (v : CanChan) : (chPut s n v).free = s.free := rfl
@[simp] theorem chPut_pending (s : State) (n : Nat) (v : CanChan) : (chPut s n v).pending = s.pending := rfl

@[simp] theorem axPut_blk (s : State) (n : Nat) (v : Axis) : (axPut s n v).blk = s.blk := rfl
@[simp] theorem axPut_snaps (s : State) (n : Nat) (v : Axis) : (axPut s n v).snaps = s.snaps := rfl
@[simp] theorem axPut_staged (s : State) (n : Nat) (v : Axis) : (axPut s n v).staged = s.staged := rfl
@[simp] theorem axPut_sys (s : State) (n : Nat) (v : Axis) : (axPut s n v).sys = s.sys := rfl
@[simp] theorem axPut_pwr (s : State) (n : Nat) (v : Axis) : (axPut s n v).pwr = s.pwr := rfl
@[simp] theorem axPut_sched (s : State) (n : Nat) (v : Axis) : (axPut s n v).sched = s.sched := rfl
@[simp] theorem axPut_pimg (s : State) (n : Nat) (v : Axis) : (axPut s n v).pimg = s.pimg := rfl
@[simp] theorem axPut_cell (s : State) (n : Nat) (v : Axis) : (axPut s n v).cell = s.cell := rfl
@[simp] theorem axPut_mc1 (s : State) (n : Nat) (v : Axis) : (axPut s n v).mc1 = s.mc1 := rfl
@[simp] theorem axPut_loops (s : State) (n : Nat) (v : Axis) : (axPut s n v).loops = s.loops := rfl
@[simp] theorem axPut_metr (s : State) (n : Nat) (v : Axis) : (axPut s n v).metr = s.metr := rfl
@[simp] theorem axPut_canl (s : State) (n : Nat) (v : Axis) : (axPut s n v).canl = s.canl := rfl
@[simp] theorem axPut_mbus (s : State) (n : Nat) (v : Axis) : (axPut s n v).mbus = s.mbus := rfl
@[simp] theorem axPut_ethl (s : State) (n : Nat) (v : Axis) : (axPut s n v).ethl = s.ethl := rfl
@[simp] theorem axPut_solv (s : State) (n : Nat) (v : Axis) : (axPut s n v).solv = s.solv := rfl
@[simp] theorem axPut_parc (s : State) (n : Nat) (v : Axis) : (axPut s n v).parc = s.parc := rfl
@[simp] theorem axPut_hif (s : State) (n : Nat) (v : Axis) : (axPut s n v).hif = s.hif := rfl
@[simp] theorem axPut_irq (s : State) (n : Nat) (v : Axis) : (axPut s n v).irq = s.irq := rfl
@[simp] theorem axPut_sec (s : State) (n : Nat) (v : Axis) : (axPut s n v).sec = s.sec := rfl
@[simp] theorem axPut_recs (s : State) (n : Nat) (v : Axis) : (axPut s n v).recs = s.recs := rfl
@[simp] theorem axPut_nvm (s : State) (n : Nat) (v : Axis) : (axPut s n v).nvm = s.nvm := rfl
@[simp] theorem axPut_time (s : State) (n : Nat) (v : Axis) : (axPut s n v).time = s.time := rfl
@[simp] theorem axPut_rtc (s : State) (n : Nat) (v : Axis) : (axPut s n v).rtc = s.rtc := rfl
@[simp] theorem axPut_pair (s : State) (n : Nat) (v : Axis) : (axPut s n v).pair = s.pair := rfl
@[simp] theorem axPut_pnl (s : State) (n : Nat) (v : Axis) : (axPut s n v).pnl = s.pnl := rfl
@[simp] theorem axPut_mram (s : State) (n : Nat) (v : Axis) : (axPut s n v).mram = s.mram := rfl
@[simp] theorem axPut_dram (s : State) (n : Nat) (v : Axis) : (axPut s n v).dram = s.dram := rfl
@[simp] theorem axPut_other (s : State) (n : Nat) (v : Axis) : (axPut s n v).other = s.other := rfl
@[simp] theorem axPut_out (s : State) (n : Nat) (v : Axis) : (axPut s n v).out = s.out := rfl
@[simp] theorem axPut_free (s : State) (n : Nat) (v : Axis) : (axPut s n v).free = s.free := rfl
@[simp] theorem axPut_pending (s : State) (n : Nat) (v : Axis) : (axPut s n v).pending = s.pending := rfl

@[simp] theorem slotPut_blk (s : State) (k : Nat) (v : SSlot) : (slotPut s k v).blk = s.blk := rfl
@[simp] theorem slotPut_snaps (s : State) (k : Nat) (v : SSlot) : (slotPut s k v).snaps = s.snaps := rfl
@[simp] theorem slotPut_staged (s : State) (k : Nat) (v : SSlot) : (slotPut s k v).staged = s.staged := rfl
@[simp] theorem slotPut_sys (s : State) (k : Nat) (v : SSlot) : (slotPut s k v).sys = s.sys := rfl
@[simp] theorem slotPut_pwr (s : State) (k : Nat) (v : SSlot) : (slotPut s k v).pwr = s.pwr := rfl
@[simp] theorem slotPut_sched (s : State) (k : Nat) (v : SSlot) : (slotPut s k v).sched = s.sched := rfl
@[simp] theorem slotPut_pimg (s : State) (k : Nat) (v : SSlot) : (slotPut s k v).pimg = s.pimg := rfl
@[simp] theorem slotPut_cell (s : State) (k : Nat) (v : SSlot) : (slotPut s k v).cell = s.cell := rfl
@[simp] theorem slotPut_mc1 (s : State) (k : Nat) (v : SSlot) : (slotPut s k v).mc1 = s.mc1 := rfl
@[simp] theorem slotPut_loops (s : State) (k : Nat) (v : SSlot) : (slotPut s k v).loops = s.loops := rfl
@[simp] theorem slotPut_axis (s : State) (k : Nat) (v : SSlot) : (slotPut s k v).axis = s.axis := rfl
@[simp] theorem slotPut_metr (s : State) (k : Nat) (v : SSlot) : (slotPut s k v).metr = s.metr := rfl
@[simp] theorem slotPut_canl (s : State) (k : Nat) (v : SSlot) : (slotPut s k v).canl = s.canl := rfl
@[simp] theorem slotPut_mbus (s : State) (k : Nat) (v : SSlot) : (slotPut s k v).mbus = s.mbus := rfl
@[simp] theorem slotPut_ethl (s : State) (k : Nat) (v : SSlot) : (slotPut s k v).ethl = s.ethl := rfl
@[simp] theorem slotPut_parc (s : State) (k : Nat) (v : SSlot) : (slotPut s k v).parc = s.parc := rfl
@[simp] theorem slotPut_hif (s : State) (k : Nat) (v : SSlot) : (slotPut s k v).hif = s.hif := rfl
@[simp] theorem slotPut_irq (s : State) (k : Nat) (v : SSlot) : (slotPut s k v).irq = s.irq := rfl
@[simp] theorem slotPut_sec (s : State) (k : Nat) (v : SSlot) : (slotPut s k v).sec = s.sec := rfl
@[simp] theorem slotPut_recs (s : State) (k : Nat) (v : SSlot) : (slotPut s k v).recs = s.recs := rfl
@[simp] theorem slotPut_nvm (s : State) (k : Nat) (v : SSlot) : (slotPut s k v).nvm = s.nvm := rfl
@[simp] theorem slotPut_time (s : State) (k : Nat) (v : SSlot) : (slotPut s k v).time = s.time := rfl
@[simp] theorem slotPut_rtc (s : State) (k : Nat) (v : SSlot) : (slotPut s k v).rtc = s.rtc := rfl
@[simp] theorem slotPut_pair (s : State) (k : Nat) (v : SSlot) : (slotPut s k v).pair = s.pair := rfl
@[simp] theorem slotPut_pnl (s : State) (k : Nat) (v : SSlot) : (slotPut s k v).pnl = s.pnl := rfl
@[simp] theorem slotPut_mram (s : State) (k : Nat) (v : SSlot) : (slotPut s k v).mram = s.mram := rfl
@[simp] theorem slotPut_dram (s : State) (k : Nat) (v : SSlot) : (slotPut s k v).dram = s.dram := rfl
@[simp] theorem slotPut_other (s : State) (k : Nat) (v : SSlot) : (slotPut s k v).other = s.other := rfl
@[simp] theorem slotPut_out (s : State) (k : Nat) (v : SSlot) : (slotPut s k v).out = s.out := rfl
@[simp] theorem slotPut_free (s : State) (k : Nat) (v : SSlot) : (slotPut s k v).free = s.free := rfl
@[simp] theorem slotPut_pending (s : State) (k : Nat) (v : SSlot) : (slotPut s k v).pending = s.pending := rfl

@[simp] theorem blkGet_blkPut (s : State) (b : Nat) (v : Blk) : blkGet (blkPut s b v) b = v := by
  simp [blkGet, blkPut]
theorem blkGet_blkPut_ne (s : State) {b c : Nat} (v : Blk) (h : c ≠ b) : blkGet (blkPut s b v) c = blkGet s c := by
  simp [blkGet, blkPut, tblGet_tblPut_ne _ _ _ h]
@[simp] theorem enOf_setEn (s : State) (b : Nat) (v : Bool) : enOf (setEn s b v) b = v := by
  simp [enOf, setEn]
theorem enOf_setEn_ne (s : State) {b c : Nat} (v : Bool) (h : c ≠ b) : enOf (setEn s b v) c = enOf s c := by
  simp [enOf, setEn, blkGet_blkPut_ne s _ h]
/-- A count never changes an enable. -/
@[simp] theorem enOf_count (s : State) (b n c : Nat) : enOf (count b n s) c = enOf s c := by
  by_cases h : c = b
  · subst h; simp [enOf, count, blkInc]
  · simp [enOf, count, blkGet_blkPut_ne s _ h]
/-- A count adds one to its own counter, up to the top (R31). -/
@[simp] theorem cnt_count (s : State) (b n : Nat) :
    tblGet (blkGet (count b n s) b).cnt n 0 = satInc (tblGet (blkGet s b).cnt n 0) := by
  simp [count, blkInc]
@[simp] theorem srcGet_srcPut (s : State) (n : Nat) (v : IrqSrc) : srcGet (srcPut s n v) n = v := by
  simp [srcGet, srcPut]
theorem srcGet_srcPut_ne (s : State) {n m : Nat} (v : IrqSrc) (h : m ≠ n) : srcGet (srcPut s n v) m = srcGet s m := by
  simp [srcGet, srcPut, tblGet_tblPut_ne _ _ _ h]
@[simp] theorem ringGet_ringPut (s : State) (r : Nat) (v : Ring) : ringGet (ringPut s r v) r = v := by
  simp [ringGet, ringPut]
theorem ringGet_ringPut_ne (s : State) {r q : Nat} (v : Ring) (h : q ≠ r) : ringGet (ringPut s r v) q = ringGet s q := by
  simp [ringGet, ringPut, tblGet_tblPut_ne _ _ _ h]
@[simp] theorem sessGet_sessPut (s : State) (k : Nat) (v : Sess) : sessGet (sessPut s k v) k = v := by
  simp [sessGet, sessPut]
theorem sessGet_sessPut_ne (s : State) {k j : Nat} (v : Sess) (h : j ≠ k) : sessGet (sessPut s k v) j = sessGet s j := by
  simp [sessGet, sessPut, tblGet_tblPut_ne _ _ _ h]
@[simp] theorem engGet_engPut (s : State) (e : Nat) (v : CellEng) : engGet (engPut s e v) e = v := by
  simp [engGet, engPut]
theorem engGet_engPut_ne (s : State) {e f : Nat} (v : CellEng) (h : f ≠ e) : engGet (engPut s e v) f = engGet s f := by
  simp [engGet, engPut, tblGet_tblPut_ne _ _ _ h]
@[simp] theorem workPt_workPut (s : State) (p : Nat) (v : Point) : workPt (workPut s p v) p = v := by
  simp [workPt, workPut]
theorem workPt_workPut_ne (s : State) {p q : Nat} (v : Point) (h : q ≠ p) : workPt (workPut s p v) q = workPt s q := by
  simp [workPt, workPut, tblGet_tblPut_ne _ _ _ h]
@[simp] theorem trigGet_trigPut (s : State) (n : Nat) (v : Trig) : trigGet (trigPut s n v) n = v := by
  simp [trigGet, trigPut]
@[simp] theorem chGet_chPut (s : State) (n : Nat) (v : CanChan) : chGet (chPut s n v) n = v := by
  simp [chGet, chPut]
@[simp] theorem axGet_axPut (s : State) (n : Nat) (v : Axis) : axGet (axPut s n v) n = v := by
  simp [axGet, axPut]
@[simp] theorem slotGet_slotPut (s : State) (k : Nat) (v : SSlot) : slotGet (slotPut s k v) k = v := by
  simp [slotGet, slotPut]

@[simp] theorem countIf_snaps (s : State) (c : Bool) (b n : Nat) : (countIf c b n s).snaps = s.snaps := by cases c <;> rfl
@[simp] theorem countIf_staged (s : State) (c : Bool) (b n : Nat) : (countIf c b n s).staged = s.staged := by cases c <;> rfl
@[simp] theorem countIf_sys (s : State) (c : Bool) (b n : Nat) : (countIf c b n s).sys = s.sys := by cases c <;> rfl
@[simp] theorem countIf_pwr (s : State) (c : Bool) (b n : Nat) : (countIf c b n s).pwr = s.pwr := by cases c <;> rfl
@[simp] theorem countIf_sched (s : State) (c : Bool) (b n : Nat) : (countIf c b n s).sched = s.sched := by cases c <;> rfl
@[simp] theorem countIf_pimg (s : State) (c : Bool) (b n : Nat) : (countIf c b n s).pimg = s.pimg := by cases c <;> rfl
@[simp] theorem countIf_cell (s : State) (c : Bool) (b n : Nat) : (countIf c b n s).cell = s.cell := by cases c <;> rfl
@[simp] theorem countIf_mc1 (s : State) (c : Bool) (b n : Nat) : (countIf c b n s).mc1 = s.mc1 := by cases c <;> rfl
@[simp] theorem countIf_loops (s : State) (c : Bool) (b n : Nat) : (countIf c b n s).loops = s.loops := by cases c <;> rfl
@[simp] theorem countIf_axis (s : State) (c : Bool) (b n : Nat) : (countIf c b n s).axis = s.axis := by cases c <;> rfl
@[simp] theorem countIf_metr (s : State) (c : Bool) (b n : Nat) : (countIf c b n s).metr = s.metr := by cases c <;> rfl
@[simp] theorem countIf_canl (s : State) (c : Bool) (b n : Nat) : (countIf c b n s).canl = s.canl := by cases c <;> rfl
@[simp] theorem countIf_mbus (s : State) (c : Bool) (b n : Nat) : (countIf c b n s).mbus = s.mbus := by cases c <;> rfl
@[simp] theorem countIf_ethl (s : State) (c : Bool) (b n : Nat) : (countIf c b n s).ethl = s.ethl := by cases c <;> rfl
@[simp] theorem countIf_solv (s : State) (c : Bool) (b n : Nat) : (countIf c b n s).solv = s.solv := by cases c <;> rfl
@[simp] theorem countIf_parc (s : State) (c : Bool) (b n : Nat) : (countIf c b n s).parc = s.parc := by cases c <;> rfl
@[simp] theorem countIf_hif (s : State) (c : Bool) (b n : Nat) : (countIf c b n s).hif = s.hif := by cases c <;> rfl
@[simp] theorem countIf_irq (s : State) (c : Bool) (b n : Nat) : (countIf c b n s).irq = s.irq := by cases c <;> rfl
@[simp] theorem countIf_sec (s : State) (c : Bool) (b n : Nat) : (countIf c b n s).sec = s.sec := by cases c <;> rfl
@[simp] theorem countIf_recs (s : State) (c : Bool) (b n : Nat) : (countIf c b n s).recs = s.recs := by cases c <;> rfl
@[simp] theorem countIf_nvm (s : State) (c : Bool) (b n : Nat) : (countIf c b n s).nvm = s.nvm := by cases c <;> rfl
@[simp] theorem countIf_time (s : State) (c : Bool) (b n : Nat) : (countIf c b n s).time = s.time := by cases c <;> rfl
@[simp] theorem countIf_rtc (s : State) (c : Bool) (b n : Nat) : (countIf c b n s).rtc = s.rtc := by cases c <;> rfl
@[simp] theorem countIf_pair (s : State) (c : Bool) (b n : Nat) : (countIf c b n s).pair = s.pair := by cases c <;> rfl
@[simp] theorem countIf_pnl (s : State) (c : Bool) (b n : Nat) : (countIf c b n s).pnl = s.pnl := by cases c <;> rfl
@[simp] theorem countIf_mram (s : State) (c : Bool) (b n : Nat) : (countIf c b n s).mram = s.mram := by cases c <;> rfl
@[simp] theorem countIf_dram (s : State) (c : Bool) (b n : Nat) : (countIf c b n s).dram = s.dram := by cases c <;> rfl
@[simp] theorem countIf_other (s : State) (c : Bool) (b n : Nat) : (countIf c b n s).other = s.other := by cases c <;> rfl
@[simp] theorem countIf_out (s : State) (c : Bool) (b n : Nat) : (countIf c b n s).out = s.out := by cases c <;> rfl
@[simp] theorem countIf_free (s : State) (c : Bool) (b n : Nat) : (countIf c b n s).free = s.free := by cases c <;> rfl
@[simp] theorem countIf_pending (s : State) (c : Bool) (b n : Nat) : (countIf c b n s).pending = s.pending := by cases c <;> rfl
@[simp] theorem lantern_snaps (s : State) (c v : Nat) (d : Bytes) : (lantern c v d s).snaps = s.snaps := by unfold lantern; split_ifs <;> rfl
@[simp] theorem lantern_staged (s : State) (c v : Nat) (d : Bytes) : (lantern c v d s).staged = s.staged := by unfold lantern; split_ifs <;> rfl
@[simp] theorem lantern_sys (s : State) (c v : Nat) (d : Bytes) : (lantern c v d s).sys = s.sys := by unfold lantern; split_ifs <;> rfl
@[simp] theorem lantern_pwr (s : State) (c v : Nat) (d : Bytes) : (lantern c v d s).pwr = s.pwr := by unfold lantern; split_ifs <;> rfl
@[simp] theorem lantern_sched (s : State) (c v : Nat) (d : Bytes) : (lantern c v d s).sched = s.sched := by unfold lantern; split_ifs <;> rfl
@[simp] theorem lantern_pimg (s : State) (c v : Nat) (d : Bytes) : (lantern c v d s).pimg = s.pimg := by unfold lantern; split_ifs <;> rfl
@[simp] theorem lantern_cell (s : State) (c v : Nat) (d : Bytes) : (lantern c v d s).cell = s.cell := by unfold lantern; split_ifs <;> rfl
@[simp] theorem lantern_mc1 (s : State) (c v : Nat) (d : Bytes) : (lantern c v d s).mc1 = s.mc1 := by unfold lantern; split_ifs <;> rfl
@[simp] theorem lantern_loops (s : State) (c v : Nat) (d : Bytes) : (lantern c v d s).loops = s.loops := by unfold lantern; split_ifs <;> rfl
@[simp] theorem lantern_axis (s : State) (c v : Nat) (d : Bytes) : (lantern c v d s).axis = s.axis := by unfold lantern; split_ifs <;> rfl
@[simp] theorem lantern_metr (s : State) (c v : Nat) (d : Bytes) : (lantern c v d s).metr = s.metr := by unfold lantern; split_ifs <;> rfl
@[simp] theorem lantern_canl (s : State) (c v : Nat) (d : Bytes) : (lantern c v d s).canl = s.canl := by unfold lantern; split_ifs <;> rfl
@[simp] theorem lantern_mbus (s : State) (c v : Nat) (d : Bytes) : (lantern c v d s).mbus = s.mbus := by unfold lantern; split_ifs <;> rfl
@[simp] theorem lantern_ethl (s : State) (c v : Nat) (d : Bytes) : (lantern c v d s).ethl = s.ethl := by unfold lantern; split_ifs <;> rfl
@[simp] theorem lantern_solv (s : State) (c v : Nat) (d : Bytes) : (lantern c v d s).solv = s.solv := by unfold lantern; split_ifs <;> rfl
@[simp] theorem lantern_parc (s : State) (c v : Nat) (d : Bytes) : (lantern c v d s).parc = s.parc := by unfold lantern; split_ifs <;> rfl
@[simp] theorem lantern_hif (s : State) (c v : Nat) (d : Bytes) : (lantern c v d s).hif = s.hif := by unfold lantern; split_ifs <;> rfl
@[simp] theorem lantern_irq (s : State) (c v : Nat) (d : Bytes) : (lantern c v d s).irq = s.irq := by unfold lantern; split_ifs <;> rfl
@[simp] theorem lantern_sec (s : State) (c v : Nat) (d : Bytes) : (lantern c v d s).sec = s.sec := by unfold lantern; split_ifs <;> rfl
@[simp] theorem lantern_nvm (s : State) (c v : Nat) (d : Bytes) : (lantern c v d s).nvm = s.nvm := by unfold lantern; split_ifs <;> rfl
@[simp] theorem lantern_time (s : State) (c v : Nat) (d : Bytes) : (lantern c v d s).time = s.time := by unfold lantern; split_ifs <;> rfl
@[simp] theorem lantern_rtc (s : State) (c v : Nat) (d : Bytes) : (lantern c v d s).rtc = s.rtc := by unfold lantern; split_ifs <;> rfl
@[simp] theorem lantern_pair (s : State) (c v : Nat) (d : Bytes) : (lantern c v d s).pair = s.pair := by unfold lantern; split_ifs <;> rfl
@[simp] theorem lantern_pnl (s : State) (c v : Nat) (d : Bytes) : (lantern c v d s).pnl = s.pnl := by unfold lantern; split_ifs <;> rfl
@[simp] theorem lantern_mram (s : State) (c v : Nat) (d : Bytes) : (lantern c v d s).mram = s.mram := by unfold lantern; split_ifs <;> rfl
@[simp] theorem lantern_dram (s : State) (c v : Nat) (d : Bytes) : (lantern c v d s).dram = s.dram := by unfold lantern; split_ifs <;> rfl
@[simp] theorem lantern_other (s : State) (c v : Nat) (d : Bytes) : (lantern c v d s).other = s.other := by unfold lantern; split_ifs <;> rfl
@[simp] theorem lantern_out (s : State) (c v : Nat) (d : Bytes) : (lantern c v d s).out = s.out := by unfold lantern; split_ifs <;> rfl
@[simp] theorem lantern_free (s : State) (c v : Nat) (d : Bytes) : (lantern c v d s).free = s.free := by unfold lantern; split_ifs <;> rfl
@[simp] theorem lantern_pending (s : State) (c v : Nat) (d : Bytes) : (lantern c v d s).pending = s.pending := by unfold lantern; split_ifs <;> rfl
@[simp] theorem audit_snaps (s : State) (a b c d : Nat) (x : Bytes) : (audit a b c d x s).snaps = s.snaps := by unfold audit; dsimp only; split_ifs <;> rfl
@[simp] theorem audit_staged (s : State) (a b c d : Nat) (x : Bytes) : (audit a b c d x s).staged = s.staged := by unfold audit; dsimp only; split_ifs <;> rfl
@[simp] theorem audit_sys (s : State) (a b c d : Nat) (x : Bytes) : (audit a b c d x s).sys = s.sys := by unfold audit; dsimp only; split_ifs <;> rfl
@[simp] theorem audit_pwr (s : State) (a b c d : Nat) (x : Bytes) : (audit a b c d x s).pwr = s.pwr := by unfold audit; dsimp only; split_ifs <;> rfl
@[simp] theorem audit_sched (s : State) (a b c d : Nat) (x : Bytes) : (audit a b c d x s).sched = s.sched := by unfold audit; dsimp only; split_ifs <;> rfl
@[simp] theorem audit_pimg (s : State) (a b c d : Nat) (x : Bytes) : (audit a b c d x s).pimg = s.pimg := by unfold audit; dsimp only; split_ifs <;> rfl
@[simp] theorem audit_cell (s : State) (a b c d : Nat) (x : Bytes) : (audit a b c d x s).cell = s.cell := by unfold audit; dsimp only; split_ifs <;> rfl
@[simp] theorem audit_mc1 (s : State) (a b c d : Nat) (x : Bytes) : (audit a b c d x s).mc1 = s.mc1 := by unfold audit; dsimp only; split_ifs <;> rfl
@[simp] theorem audit_loops (s : State) (a b c d : Nat) (x : Bytes) : (audit a b c d x s).loops = s.loops := by unfold audit; dsimp only; split_ifs <;> rfl
@[simp] theorem audit_axis (s : State) (a b c d : Nat) (x : Bytes) : (audit a b c d x s).axis = s.axis := by unfold audit; dsimp only; split_ifs <;> rfl
@[simp] theorem audit_metr (s : State) (a b c d : Nat) (x : Bytes) : (audit a b c d x s).metr = s.metr := by unfold audit; dsimp only; split_ifs <;> rfl
@[simp] theorem audit_canl (s : State) (a b c d : Nat) (x : Bytes) : (audit a b c d x s).canl = s.canl := by unfold audit; dsimp only; split_ifs <;> rfl
@[simp] theorem audit_mbus (s : State) (a b c d : Nat) (x : Bytes) : (audit a b c d x s).mbus = s.mbus := by unfold audit; dsimp only; split_ifs <;> rfl
@[simp] theorem audit_ethl (s : State) (a b c d : Nat) (x : Bytes) : (audit a b c d x s).ethl = s.ethl := by unfold audit; dsimp only; split_ifs <;> rfl
@[simp] theorem audit_solv (s : State) (a b c d : Nat) (x : Bytes) : (audit a b c d x s).solv = s.solv := by unfold audit; dsimp only; split_ifs <;> rfl
@[simp] theorem audit_parc (s : State) (a b c d : Nat) (x : Bytes) : (audit a b c d x s).parc = s.parc := by unfold audit; dsimp only; split_ifs <;> rfl
@[simp] theorem audit_hif (s : State) (a b c d : Nat) (x : Bytes) : (audit a b c d x s).hif = s.hif := by unfold audit; dsimp only; split_ifs <;> rfl
@[simp] theorem audit_irq (s : State) (a b c d : Nat) (x : Bytes) : (audit a b c d x s).irq = s.irq := by unfold audit; dsimp only; split_ifs <;> rfl
@[simp] theorem audit_sec (s : State) (a b c d : Nat) (x : Bytes) : (audit a b c d x s).sec = s.sec := by unfold audit; dsimp only; split_ifs <;> rfl
@[simp] theorem audit_nvm (s : State) (a b c d : Nat) (x : Bytes) : (audit a b c d x s).nvm = s.nvm := by unfold audit; dsimp only; split_ifs <;> rfl
@[simp] theorem audit_time (s : State) (a b c d : Nat) (x : Bytes) : (audit a b c d x s).time = s.time := by unfold audit; dsimp only; split_ifs <;> rfl
@[simp] theorem audit_rtc (s : State) (a b c d : Nat) (x : Bytes) : (audit a b c d x s).rtc = s.rtc := by unfold audit; dsimp only; split_ifs <;> rfl
@[simp] theorem audit_pair (s : State) (a b c d : Nat) (x : Bytes) : (audit a b c d x s).pair = s.pair := by unfold audit; dsimp only; split_ifs <;> rfl
@[simp] theorem audit_pnl (s : State) (a b c d : Nat) (x : Bytes) : (audit a b c d x s).pnl = s.pnl := by unfold audit; dsimp only; split_ifs <;> rfl
@[simp] theorem audit_mram (s : State) (a b c d : Nat) (x : Bytes) : (audit a b c d x s).mram = s.mram := by unfold audit; dsimp only; split_ifs <;> rfl
@[simp] theorem audit_dram (s : State) (a b c d : Nat) (x : Bytes) : (audit a b c d x s).dram = s.dram := by unfold audit; dsimp only; split_ifs <;> rfl
@[simp] theorem audit_other (s : State) (a b c d : Nat) (x : Bytes) : (audit a b c d x s).other = s.other := by unfold audit; dsimp only; split_ifs <;> rfl
@[simp] theorem audit_out (s : State) (a b c d : Nat) (x : Bytes) : (audit a b c d x s).out = s.out := by unfold audit; dsimp only; split_ifs <;> rfl
@[simp] theorem audit_free (s : State) (a b c d : Nat) (x : Bytes) : (audit a b c d x s).free = s.free := by unfold audit; dsimp only; split_ifs <;> rfl
@[simp] theorem audit_pending (s : State) (a b c d : Nat) (x : Bytes) : (audit a b c d x s).pending = s.pending := by unfold audit; dsimp only; split_ifs <;> rfl

end Sys2Proof.Laws
end

