-- ==== Sys2Proof/Laws/Host.lean ====
section
/-! SUPPORT. What a descriptor's arrival and its completion do, and what a write of the MRAM does. -/

namespace Sys2Proof.Laws

open Sys2Proof.Machine

/-- Authorisation looks at SEC and the MRAM alone (R405). -/
theorem authorise_ringPut (s : State) (r : Nat) (v : Ring) (d : HostDesc) : authorise (ringPut s r v) d = authorise s d := rfl

/-- The checks of R383 to R416 in a state with the ring changed and a session's LAST taken. -/
theorem runChecked_passes {op : Nat} {d : HostDesc} {s u : State} (eff : HostDesc → State → State) (h : Reaches op d s)
    (hs : u.sched = s.sched) (hp : u.pair = s.pair) : runChecked eff d u = eff d u := by
  obtain ⟨ho, -, -, -, -, hr, hb, hv, hc, -, hf⟩ := h
  have e : enginesRun u = enginesRun s := by simp [enginesRun, drives, hp]
  have b : bootBarred u (dOp d) = false := by rw [ho]; simpa [bootBarred, hs] using hb
  have f : ∀ m, frozenM u m = frozenM s m := fun m => by simp [frozenM, hs]
  unfold runChecked
  rw [b, hv, hf, e, ho]
  cases hro : roleBarred op <;> cases hcr : carrier op <;> simp_all

/-- The order of checks of `runDesc` for a descriptor that passes them all, in a state with the ring changed. -/
theorem runDesc_reaches {op : Nat} {d : HostDesc} {s u : State} (eff : HostDesc → State → State) (h : Reaches op d s)
    (hs : u.sched = s.sched) (hp : u.pair = s.pair) (hm : (ringGet u d.ring).classMask = (ringGet s d.ring).classMask)
    (ha : authorise u d = authorise s d) :
    runDesc eff d u = eff d (if d.signed.isSome || !operatorOp (dOp d) then u
      else match authorise u d with
        | .ok last => authTake d last u
        | _ => u) := by
  have hc := h
  obtain ⟨ho, -, -, hmask, hau, -⟩ := hc
  have m : (ringGet u d.ring).classMask.getLsbD (classRow (dOp d)) = true := by rw [hm, ho]; exact hmask
  unfold runDesc
  rw [m, ho]
  cases hsg : d.signed with
  | some x => simp [runChecked_passes eff h hs hp]
  | none =>
    rcases hau with hau | ⟨how, hop⟩
    · simp [hsg] at hau
    · rw [how]
      cases hopr : operatorOp op with
      | false => simp [runChecked_passes eff h hs hp]
      | true =>
        obtain ⟨l, hl⟩ := hop hopr
        have := runChecked_passes (u := authTake d l u) eff h hs hp
        simp [ha, hl, this]

/-- A descriptor that reaches its chapter has its effect in the state `entered`. -/
theorem arrive_reaches {op : Nat} {d : HostDesc} {s : State} (eff : HostDesc → State → State) (h : Reaches op d s) :
    arrive eff d s = eff d (entered d s) := by
  have hc := h
  obtain ⟨-, hq, hst, -⟩ := hc
  unfold arrive startDesc entered
  rw [hq, hst]
  exact runDesc_reaches eff h rfl rfl (by rw [ringGet_ringPut]) rfl

/-- A started descriptor that completes is answered. -/
theorem completeR_answered {d : HostDesc} {st data : Nat} {ret : Option Nat} {s : State}
    (h : d ∈ (ringGet s d.ring).started) : Answered d st data (completeR d st data ret s) := by
  have hc : (ringGet s d.ring).started.contains d = true := by simpa using h
  unfold completeR Answered
  simp only [hc, if_true]
  exact ⟨_, List.mem_append_right _ (List.mem_singleton.mpr rfl), rfl, rfl, rfl, rfl, rfl⟩

/-- A write of the MRAM keeps its canonical form. -/
theorem mramWrite_wf (off : Nat) (b : Bytes) {s : State} (w : tblWf s.mram 0 = true) : tblWf (mramWrite off b s).mram 0 = true := by
  unfold mramWrite; split_ifs
  · exact w
  · exact tblPutAll_wf b s.mram 0 off w

theorem dramWrite_wf (a : Nat) (b : Bytes) {s : State} (w : tblWf s.dram 0 = true) : tblWf (dramWrite a b s).dram 0 = true :=
  tblPutAll_wf b s.dram 0 a w

/-- A write of the MRAM leaves every other byte alone. -/
theorem mramWrite_out {off a : Nat} {b : Bytes} (s : State) (h : a < off ∨ off + b.length ≤ a) :
    tblGet (mramWrite off b s).mram a 0 = tblGet s.mram a 0 := by
  unfold mramWrite; split_ifs
  · rfl
  · exact tblGet_tblPutAll_out b s.mram 0 h

end Sys2Proof.Laws
end

