-- ==== Sys2Proof/Laws/Insn.lean ====
section
/-! SUPPORT. The shared shape of the instructions: what an engine's registers, predicates and flags read after each of
the operations that write them, and what an instruction answers. -/

namespace Sys2Proof.Laws

open Sys2Proof.Machine

theorem gRead_gWrite (t : Tbl W64) (d : BitVec 6) (v : W64) : gRead (gWrite t d v) d = rd d v := by
  unfold gRead gWrite rd; split_ifs <;> simp

theorem gRead_gWrite_ne (t : Tbl W64) {d i : BitVec 6} (v : W64) (h : i ≠ d) : gRead (gWrite t d v) i = gRead t i := by
  have : i.toNat ≠ d.toNat := fun e => h (BitVec.eq_of_toNat_eq e)
  unfold gRead gWrite; split_ifs <;> first | rfl | exact tblGet_tblPut_ne _ _ _ this

theorem pRead_pWrite (t : Tbl Bool) (p : BitVec 4) (v : Bool) : pRead (pWrite t p v) p = rp p v := by
  unfold pRead pWrite rp; split_ifs <;> simp

theorem pRead_pWrite_ne (t : Tbl Bool) {p i : BitVec 4} (v : Bool) (h : i ≠ p) : pRead (pWrite t p v) i = pRead t i := by
  have : i.toNat ≠ p.toNat := fun e => h (BitVec.eq_of_toNat_eq e)
  unfold pRead pWrite; split_ifs <;> first | rfl | exact tblGet_tblPut_ne _ _ _ this

@[simp] theorem getG_setG (c : Core) (s : State) (d : BitVec 6) (v : W64) : getG c (setG c d v s) d = rd d v := by
  cases c <;> simp [getG, setG, gRead_gWrite]

theorem getG_setG_ne (c : Core) (s : State) {d i : BitVec 6} (v : W64) (h : i ≠ d) :
    getG c (setG c d v s) i = getG c s i := by
  cases c <;> simp [getG, setG, gRead_gWrite_ne _ _ h]

@[simp] theorem getP_setP (c : Core) (s : State) (p : BitVec 4) (v : Bool) : getP c (setP c p v s) p = rp p v := by
  cases c <;> simp [getP, setP, pRead_pWrite]

theorem getP_setP_ne (c : Core) (s : State) {p i : BitVec 4} (v : Bool) (h : i ≠ p) :
    getP c (setP c p v s) i = getP c s i := by
  cases c <;> simp [getP, setP, pRead_pWrite_ne _ _ h]

@[simp] theorem getP_setG (c : Core) (s : State) (d : BitVec 6) (v : W64) (i : BitVec 4) : getP c (setG c d v s) i = getP c s i := by
  cases c <;> simp [getP, setG]

@[simp] theorem getG_setP (c : Core) (s : State) (p : BitVec 4) (v : Bool) (i : BitVec 6) : getG c (setP c p v s) i = getG c s i := by
  cases c <;> simp [getG, setP]

@[simp] theorem getAfl_setG (c : Core) (s : State) (d : BitVec 6) (v : W64) : getAfl c (setG c d v s) = getAfl c s := by
  cases c <;> simp [getAfl, setG]

@[simp] theorem getAfl_setP (c : Core) (s : State) (p : BitVec 4) (v : Bool) : getAfl c (setP c p v s) = getAfl c s := by
  cases c <;> simp [getAfl, setP]

@[simp] theorem engGet_countIf (s : State) (b : Bool) (k n e : Nat) : engGet (countIf b k n s) e = engGet s e := by
  cases b <;> rfl

@[simp] theorem engGet_count (s : State) (k n e : Nat) : engGet (count k n s) e = engGet s e := rfl

/-- Flags are sticky: an operation adds its own (R215). -/
@[simp] theorem getAfl_orFlags (c : Core) (s : State) (fl : BitVec 7) : getAfl c (orFlags c fl s) = getAfl c s ||| fl := by
  cases c <;> simp [getAfl, orFlags]

@[simp] theorem getG_orFlags (c : Core) (s : State) (fl : BitVec 7) (i : BitVec 6) : getG c (orFlags c fl s) i = getG c s i := by
  cases c <;> simp [getG, orFlags]

@[simp] theorem getP_orFlags (c : Core) (s : State) (fl : BitVec 7) (i : BitVec 4) : getP c (orFlags c fl s) i = getP c s i := by
  cases c <;> simp [getP, orFlags]

@[simp] theorem getAfl_clearFlags (c : Core) (s : State) : getAfl c (clearFlags c s) = 0 := by
  cases c <;> simp [getAfl, clearFlags]

@[simp] theorem getG_clearFlags (c : Core) (s : State) (i : BitVec 6) : getG c (clearFlags c s) i = getG c s i := by
  cases c <;> simp [getG, clearFlags]

@[simp] theorem getP_clearFlags (c : Core) (s : State) (i : BitVec 4) : getP c (clearFlags c s) i = getP c s i := by
  cases c <;> simp [getP, clearFlags]

@[simp] theorem getG_preStep (c : Core) (n : Nat) (s : State) (i : BitVec 6) : getG c (preStep c n s) i = getG c s i := by
  cases c <;> rfl

@[simp] theorem getP_preStep (c : Core) (n : Nat) (s : State) (i : BitVec 4) : getP c (preStep c n s) i = getP c s i := by
  cases c <;> rfl

@[simp] theorem getAfl_preStep (c : Core) (n : Nat) (s : State) : getAfl c (preStep c n s) = getAfl c s := by
  cases c <;> rfl

@[simp] theorem getG_postStep (c : Core) (n : Nat) (s : State) (i : BitVec 6) : getG c (postStep c n s) i = getG c s i := by
  cases c <;> simp [getG, postStep]

@[simp] theorem getP_postStep (c : Core) (n : Nat) (s : State) (i : BitVec 4) : getP c (postStep c n s) i = getP c s i := by
  cases c <;> simp [getP, postStep]

@[simp] theorem getAfl_postStep (c : Core) (n : Nat) (s : State) : getAfl c (postStep c n s) = getAfl c s := by
  cases c <;> simp [getAfl, postStep]

@[simp] theorem srcVal_preStep (c : Core) (n : Nat) (s : State) (b : Src) : srcVal c (preStep c n s) b = srcVal c s b := by
  cases b <;> simp [srcVal]

@[simp] theorem src16Val_preStep (c : Core) (n : Nat) (s : State) (b : Src16) : src16Val c (preStep c n s) b = src16Val c s b := by
  cases b <;> simp [src16Val]

/-- An instruction that issues: its cycles, its effect, and the move to the next instruction. -/
theorem insn_issues {x : Ctl} {s : State} (h : Issues x s) (cyc : Nat) (eff : State → State) :
    insn x cyc eff s = .next (postStep x.core cyc (eff (preStep x.core cyc s))) := by
  simp [insn, insnBody, h.1, h.2]

/-- An instruction whose guard is false: its cycles pass without effect (R203). -/
theorem insn_guarded {x : Ctl} {s : State} (h : coreRuns x.core s = true) (g : guardOk x s = false) (cyc : Nat)
    (eff : State → State) : insn x cyc eff s = .next (postStep x.core cyc (preStep x.core cyc s)) := by
  simp [insn, insnBody, h, g]

/-- D := f(A, B), with its flags. -/
theorem insnAB_issues {x : Ctl} {s : State} (h : Issues x s) (cyc : Nat) (f : W64 → W64 → W64 × BitVec 7) (d a : BitVec 6)
    (b : Src) : ∃ t, insnAB x cyc f d a b s = .next t ∧ getG x.core t d = rd d (f (getG x.core s a) (srcVal x.core s b)).1 ∧
      getAfl x.core t = getAfl x.core s ||| (f (getG x.core s a) (srcVal x.core s b)).2 :=
  ⟨_, insn_issues h _ _, by simp [wrBack], by simp [wrBack]⟩

/-- D := f(A), with its flags. -/
theorem insnA_issues {x : Ctl} {s : State} (h : Issues x s) (cyc : Nat) (f : W64 → W64 × BitVec 7) (d a : BitVec 6) :
    ∃ t, insnA x cyc f d a s = .next t ∧ getG x.core t d = rd d (f (getG x.core s a)).1 ∧
      getAfl x.core t = getAfl x.core s ||| (f (getG x.core s a)).2 :=
  ⟨_, insn_issues h _ _, by simp [wrBack], by simp [wrBack]⟩

end Sys2Proof.Laws
end

