-- ==== Sys2Proof/WellFormed.lean ====
section
/-! DEFINITION. Which commands are well formed: the operands that the type leaves wider than the manual does. A command
that is not is still carried out; nothing is claimed of it. -/

namespace Sys2Proof

/-- A descriptor of 64 bytes with the opcode of its row (R383). -/
def HostDesc.isOp (d : HostDesc) (op : Nat) : Bool :=
  d.bytes.length == 64 && d.bytes.getD 0 0 == BitVec.ofNat 8 op

/-- The data lengths of CAN FD (ISO 11898-1): up to 8 bytes, and the longer ones of FD frames. -/
def canLens : List Nat := [0, 1, 2, 3, 4, 5, 6, 7, 8, 12, 16, 20, 24, 32, 48, 64]

/-- A CAN frame: an 11-bit identifier unless IDE, BRS only with FDF, no FD remote frame, a length that exists. -/
def CanFrame.wf (f : CanFrame) : Bool :=
  (f.ide || decide (f.id.toNat < 2048)) && (f.fdf || !f.brs) && !(f.fdf && f.rtr) && canLens.contains f.data.length &&
  (f.fdf || decide (f.data.length ≤ 8))

/-- An unguarded instruction: LOOP and END carry no guard (R205). -/
def Ctl.bare (x : Ctl) : Bool := x.gp == 0 && !x.gn

/-- A bit field of BFXU, BFXS and BFI: l + w − 1 is at most 63 (R205). -/
def fieldOk (lo wm1 : BitVec 6) : Bool := decide (lo.toNat + wm1.toNat ≤ 63)

/-- What a host read returns: a 64-byte doorbell record, descriptors of 64 bytes (R375, R376). -/
def HostRead.wf : HostRead → Bool
  | .doorbell _ b => b.length == 64
  | .descriptors _ ds => ds.all fun d => d.bytes.length == 64
  | .buffer d => d.bytes.length == 64

/-- The well-formed commands. -/
def Instr.wf : Instr → Bool
  | .minorFrameStart _ => true
  | .majorFrameBoundary => true
  | .snapshot => true
  | .commit => true
  | .cellCycle slot => decide (slot < 2048)
  | .loopOccurrence _ => true
  | .axisSlot => true
  | .axisStep _ => true
  | .driverStatus _ _ _ _ _ _ => true
  | .receiveSlot _ => true
  | .transmitSlot _ => true
  | .metrSlot => true
  | .longSlot slot => decide (slot < 2048)
  | .iterationCommit _ => true
  | .resultWrite _ => true
  | .pubSlot _ => true
  | .parcelStepCommit => true
  | .switchReserve => true
  | .newImageActive => true
  | .freezeRelease _ => true
  | .imageCheckComplete => true
  | .structureLoad _ => true
  | .parccfgLoad => true
  | .hostSlotStart => true
  | .closePoint => true
  | .hostReadFailure _ => true
  | .cutSlot => true
  | .recSlot _ => true
  | .lanternWrite => true
  | .metrSample codes => codes.length == 32
  | .zeroCrossingTimeout _ _ => true
  | .heatWindowClose rtd freq _ => rtd.length == 32 && freq.length == 16
  | .pulse _ _ _ => true
  | .intervalClose => true
  | .totaliserSave _ => true
  | .theftWatchSecond rms => rms.length == 4
  | .triggerFire _ => true
  | .triggerCapture _ _ => true
  | .rtcSecond => true
  | .rtcAlarm => true
  | .snapTaken => true
  | .commitApplied => true
  | .oscillatorStop => true
  | .operatingTimeSecond => true
  | .holdoffExpiry _ => true
  | .interruptEntry _ => true
  | .wakeWatch _ => true
  | .canFrameReceive _ f _ => f.wf
  | .canFrameEnd _ _ _ => true
  | .canBusError _ _ _ => true
  | .busOffRecovery _ => true
  | .joinReq _ _ _ _ _ => true
  | .response _ _ _ _ => true
  | .joinTimeout _ => true
  | .leave _ f => f.wf
  | .rspUd _ _ => true
  | .mbusResponseTimeout _ => true
  | .ethFrameReceive _ _ => true
  | .ethFrameTransmit _ _ _ => true
  | .ethLinkDown _ => true
  | .ethLinkUp _ => true
  | .sync _ _ => true
  | .followUp _ _ => true
  | .delayReq _ _ => true
  | .delayResp _ _ => true
  | .pdelayReq _ _ => true
  | .pdelayResp _ _ => true
  | .pdelayRespFollowUp _ _ => true
  | .announce _ _ => true
  | .syncInterval _ => true
  | .delayReqInterval _ => true
  | .pdelayReqInterval _ => true
  | .announceInterval _ => true
  | .followUpTimeout _ => true
  | .cut _ => true
  | .cutend _ => true
  | .stream _ => true
  | .ack _ => true
  | .hello _ => true
  | .time _ => true
  | .meter _ => true
  | .idle _ => true
  | .pseenTimeout => true
  | .handshakeRetry => true
  | .bugle _ _ => true
  | .panelPhase => true
  | .pgood => true
  | .pumpTimeout => true
  | .auditFreezeExpiry => true
  | .tamperEvent _ => true
  | .drbgHealthFailure => true
  | .powerFailure => true
  | .pwrfailRise => true
  | .por _ => true
  | .pd0Cold => true
  | .sysrst => true
  | .watchdogExpiry => true
  | .pllLockLoss _ => true
  | .hifReset => true
  | .domainPowerUp _ => true
  | .powerGoodTimeout _ => true
  | .domainPowerDown _ => true
  | .stageRom _ => true
  | .stageFirmware _ _ => true
  | .stageMemory _ _ _ _ => true
  | .stageImage _ _ => true
  | .stageRole => true
  | .pwaitExpiry => true
  | .stageTime _ => true
  | .twaitExpiry => true
  | .lateTimeStep _ => true
  | .stageRun => true
  | .bootHostSlot => true
  | .pairRejoinReset => true
  | .pairModeTimeout => true
  | .pairRekeyTimeout => true
  | .pairSwapreqTimeout => true
  | .dNop d => d.isOp 0x00
  | .imageLoad d => d.isOp 0x01
  | .imageSwitch d => d.isOp 0x02
  | .imageAbort d => d.isOp 0x03
  | .unfreeze d => d.isOp 0x04
  | .ptRead d => d.isOp 0x10
  | .ptWrite d => d.isOp 0x11
  | .ptForce d => d.isOp 0x12
  | .cellMode d => d.isOp 0x13
  | .cellStep d => d.isOp 0x14
  | .cellRead d => d.isOp 0x15
  | .solvDelta d => d.isOp 0x20
  | .solvRun d => d.isOp 0x21
  | .solvCut d => d.isOp 0x22
  | .solvRead d => d.isOp 0x23
  | .solvReload d => d.isOp 0x24
  | .parcSet d => d.isOp 0x30
  | .parcRead d => d.isOp 0x31
  | .loopMode d => d.isOp 0x38
  | .loopParam d => d.isOp 0x39
  | .loopTrace d => d.isOp 0x3A
  | .loopRead d => d.isOp 0x3B
  | .axisCmd d => d.isOp 0x3C
  | .metrRead d => d.isOp 0x40
  | .metrCal d => d.isOp 0x41
  | .metrLock d => d.isOp 0x42
  | .metrTwclr d => d.isOp 0x43
  | .linkRead d => d.isOp 0x50
  | .linkEvict d => d.isOp 0x51
  | .linkBuson d => d.isOp 0x52
  | .ethRead d => d.isOp 0x58
  | .ethPort d => d.isOp 0x59
  | .timeRead d => d.isOp 0x60
  | .timeRearm d => d.isOp 0x61
  | .rtcRead d => d.isOp 0x62
  | .rtcWrite d => d.isOp 0x63
  | .secAttest d => d.isOp 0x68
  | .secRead d => d.isOp 0x69
  | .secSigned d => d.isOp 0x6A
  | .secBlob d => d.isOp 0x6B
  | .secRetire d => d.isOp 0x6C
  | .secRoot d => d.isOp 0x6D
  | .secFloor d => d.isOp 0x6E
  | .secCtl d => d.isOp 0x6F
  | .pairRead d => d.isOp 0x70
  | .pairMode d => d.isOp 0x71
  | .pairRekey d => d.isOp 0x72
  | .pairResync d => d.isOp 0x73
  | .pairSwapreq d => d.isOp 0x74
  | .recRead d => d.isOp 0x78
  | .audFreeze d => d.isOp 0x79
  | .audClear d => d.isOp 0x7A
  | .lanThaw d => d.isOp 0x7B
  | .histWrite d => d.isOp 0x7C
  | .tagWrite d => d.isOp 0x7D
  | .tagLock d => d.isOp 0x7E
  | .nvmFormat d => d.isOp 0x7F
  | .pnlLoad d => d.isOp 0x80
  | .pnlUpdate d => d.isOp 0x81
  | .pnlConfig d => d.isOp 0x82
  | .pnlClear d => d.isOp 0x83
  | .enWrite _ _ _ => true
  | .cntRead _ _ _ => true
  | .wideRead _ addr => addr.toNat % 4 == 0
  | .schedUnfrz _ _ => true
  | .rstreq _ _ => true
  | .rate _ _ => true
  | .step _ _ => true
  | .snap _ => true
  | .commitRequest _ => true
  | .txcan _ _ _ => true
  | .txreq _ _ _ => true
  | .fifopop _ _ _ => true
  | .fifohdRead _ _ => true
  | .ringen _ _ => true
  | .cpl0 _ _ => true
  | .cpl1 _ _ => true
  | .swset _ _ => true
  | .dbgdata _ _ => true
  | .registerWrite _ _ _ _ => true
  | .inop _ => true
  | .iend x => x.bare
  | .loop x len _ => x.bare && len != 0
  | .lidx _ _ _ => true
  | .rdaf _ _ => true
  | .claf _ => true
  | .movi _ _ _ => true
  | .movhi _ _ _ => true
  | .sel _ _ _ _ _ => true
  | .pmov _ _ _ => true
  | .cmp _ _ _ _ _ _ _ => true
  | .fcmp _ _ _ _ _ _ _ => true
  | .plog _ _ _ _ _ _ _ => true
  | .add _ _ _ _ _ => true
  | .sub _ _ _ _ _ => true
  | .adds _ _ _ _ _ => true
  | .subs _ _ _ _ _ => true
  | .mul _ _ _ _ _ => true
  | .muls _ _ _ _ _ => true
  | .mulhs _ _ _ _ _ => true
  | .mulhu _ _ _ _ _ => true
  | .divs _ _ _ _ _ => true
  | .divu _ _ _ _ _ => true
  | .rems _ _ _ _ _ => true
  | .remu _ _ _ _ _ => true
  | .min _ _ _ _ _ => true
  | .max _ _ _ _ _ => true
  | .minu _ _ _ _ _ => true
  | .maxu _ _ _ _ _ => true
  | .and _ _ _ _ _ => true
  | .or _ _ _ _ _ => true
  | .xor _ _ _ _ _ => true
  | .andn _ _ _ _ _ => true
  | .shl _ _ _ _ _ => true
  | .shr _ _ _ _ _ => true
  | .sar _ _ _ _ _ => true
  | .rol _ _ _ _ _ => true
  | .bfxu _ _ _ lo wm1 => fieldOk lo wm1
  | .bfxs _ _ _ lo wm1 => fieldOk lo wm1
  | .bfi _ _ _ lo wm1 => fieldOk lo wm1
  | .clz _ _ _ _ => true
  | .popc _ _ _ _ => true
  | .abss _ _ _ _ => true
  | .fadd _ _ _ _ _ => true
  | .fsub _ _ _ _ _ => true
  | .fmul _ _ _ _ _ => true
  | .fdiv _ _ _ _ _ => true
  | .fsqrt _ _ _ _ => true
  | .fma _ _ _ _ _ _ => true
  | .fms _ _ _ _ _ _ => true
  | .fmin _ _ _ _ _ => true
  | .fmax _ _ _ _ _ => true
  | .fminn _ _ _ _ _ => true
  | .fmaxn _ _ _ _ _ => true
  | .fabs _ _ _ _ => true
  | .fneg _ _ _ _ => true
  | .fcvt _ _ _ _ => true
  | .icvtf _ _ _ _ => true
  | .ucvtf _ _ _ _ => true
  | .fcvti _ _ _ _ _ _ => true
  | .fcvtu _ _ _ _ _ _ => true
  | .frnd _ _ _ _ _ => true
  | .ld _ _ _ _ _ _ => true
  | .st _ _ _ _ _ => true
  | .pld _ _ _ _ _ _ => true
  | .pst _ _ _ _ => true
  | .pstq _ _ _ _ _ => true
  | .tmr _ _ _ _ _ _ _ => true
  | .edge _ _ _ _ _ => true
  | .br _ _ => true
  | .call _ _ => true
  | .ret _ => true
  | .jr _ _ => true
  | .callr _ _ => true
  | .push _ _ => true
  | .pop _ _ => true
  | .mrs _ _ idx => decide (idx.toNat ≤ 3)
  | .msr _ _ idx => decide (idx.toNat ≤ 2)
  | .reti _ => true
  | .wfi _ => true
  | .fence _ => true
  | .overrun _ _ => true
  | .startOfFrame _ _ _ => true
  | .mirrorLaneDown _ => true
  | .mirrorLaneUp _ => true
  | .configurationWrite _ _ _ => true
  | .hostReadCompletion what => what.wf
  | .pwrfailNGlitch => true
  | .rtcEdge => true
  | .readWithoutEffect _ _ _ => true
  | .signatureVerification => true

end Sys2Proof
end

