-- ==== Sys2Proof/Tests/Slice0.lean ====
section
/-! SUPPORT. Tests of single steps, and for each statement states and operands that meet its hypotheses together
(`wit_<statement>`), with a value that the rules give there. -/

open Sys2Proof Sys2Proof.Machine

namespace Sys2Proof.Tests

set_option Elab.async false

/-- The command answers a next state of which `P` holds. -/
def chk (i : Instr) (s : State) (P : State → Bool) : Bool :=
  match exec i s with
  | .next t => P t
  | _ => false

/-- A descriptor on ring 0 with index 5, carried by a verified owner-signed record: fields as (offset, size, value). -/
def desc (op : Nat) (fs : List (Nat × Nat × Nat)) (buf : Bytes := []) : HostDesc :=
  { ring := 0, sqidx := 5, buf := buf, readFail := false, signed := some 1, outerTag := 7
    bytes := fs.foldl (fun b f => b.take f.1 ++ leBytes f.2.1 f.2.2 ++ b.drop (f.1 + f.2.1)) (BitVec.ofNat 8 op :: zeros 63) }

/-- `Reaches`, for a descriptor of a record, as a Bool. -/
def reachB (op : Nat) (d : HostDesc) (s : State) : Bool :=
  dOp d == op && (ringGet s d.ring).queue.isEmpty && canStart s d && (ringGet s d.ring).classMask.getLsbD (classRow op) &&
  d.signed.isSome && (!roleBarred op || enginesRun s) && !bootBarred s op && reservedOk d &&
  (match carrier op with | some m => !frozenM s m | none => true) && !deltaWaits s d && !d.readFail

theorem reaches_of {op : Nat} {d : HostDesc} {s : State} (h : reachB op d s = true) : Reaches op d s := by
  simp only [reachB, Bool.and_eq_true, beq_iff_eq, List.isEmpty_iff, Bool.or_eq_true, Bool.not_eq_true'] at h
  obtain ⟨⟨⟨⟨⟨⟨⟨⟨⟨⟨h1, h2⟩, h3⟩, h4⟩, h5⟩, h6⟩, h7⟩, h8⟩, h9⟩, h10⟩, h11⟩ := h
  refine ⟨h1, h2, h3, h4, Or.inl h5, fun hr => ?_, h7, h8, fun m hm => ?_, h10, h11⟩
  · rcases h6 with h6 | h6
    · rw [hr] at h6; cases h6
    · exact h6
  · rw [hm] at h9; simpa using h9

/-- The completion of the descriptor waits with this status and data. -/
def ans (d : HostDesc) (st data : Nat) (t : State) : Bool :=
  t.hif.waiting.any fun c => c.ring == d.ring.val && c.sqidx == d.sqidx && !c.unsol && c.status == BitVec.ofNat 8 st &&
    c.data == BitVec.ofNat 64 data

def cnt (t : State) (b n : Nat) : Nat := (cntOf t b n).toNat

/-- Every block and every power domain is on. -/
def allOn : Tbl Blk := (List.range 21).map fun b => (b, { en := true })
def pwrOn : PwrRegs := { asleep := false, doms := (List.range 12).map fun d => (d, { st := 1 }) }

/-- A slot of a master, in every minor frame; a window that reads and writes everything for a master. -/
def slot (m start budget task : Nat) (flags : Nat := 0) : SlotE :=
  { start := start, budget := budget, period := 1, phase := 0, task := task, master := m, flags := flags, res := 0, rsvd := 0 }
def win (m : Nat) : Win := { base := 0, limit := 2 ^ 40 - 1, master := m, perm := 3, rsvd := 0 }

/-- An image with a slot from cycle 0 and a window for each of the masters 2 to 24. -/
def img : Image :=
  { l := 1000000, m := 4, engMask := 0xFFF, flags := 2
    slots := (List.range 23).map fun k => slot (k + 2) 0 500 7, wins := (List.range 23).map fun k => win (k + 2) }

/-- A unit that runs its schedule in frame 8 and drives the field; ring 0 takes every class. -/
def base : State := { State.reset with
  blk := allOn
  pwr := pwrOn
  sched := { run := true, frameL := 1000000, majM := 4, mfn := 8, kmf := 2, image := some img }
  hif := { bme := true, link := true, inSlot := true, slotMfn := 8, ringEn := 1, rings := [(0, { classMask := 0xFFF })] } }

/-- The same with a descriptor started. -/
def started (d : HostDesc) (s : State) : State := ringPut s 0 { ringGet s 0 with started := [d] }

/-! ### Well-formed commands -/

def wfDesc : HostDesc := desc 0x10 []
def frame11 : CanFrame := { id := 0x123, ide := false, fdf := false, brs := false, rtr := false, data := [1, 2] }

theorem test_wf_accepts : (Instr.ptRead wfDesc).wf = true ∧ (Instr.canFrameReceive 0 frame11 0).wf = true ∧
    (Instr.bfxu ⟨.mc1, 0, false⟩ 1 2 60 3).wf = true ∧ (Instr.loop ⟨.cell 0, 0, false⟩ 1 0).wf = true ∧
    (Instr.mrs ⟨.mc1, 0, false⟩ 1 3).wf = true ∧ (Instr.wideRead .mc0 4).wf = true ∧
    (Instr.hostReadCompletion (.doorbell 0 (zeros 64))).wf = true := by decide +kernel
theorem test_wf_refuses_an_opcode_of_another_row : (Instr.ptWrite wfDesc).wf = false := by decide +kernel
theorem test_wf_refuses_a_short_descriptor : (Instr.ptRead { wfDesc with bytes := [0x10] }).wf = false := by decide +kernel
theorem test_wf_refuses_can_frames : CanFrame.wf { frame11 with id := 2048 } = false ∧
    CanFrame.wf { frame11 with brs := true } = false ∧ CanFrame.wf { frame11 with fdf := true, rtr := true } = false ∧
    CanFrame.wf { frame11 with fdf := true, data := zeros 9 } = false ∧ CanFrame.wf { frame11 with data := zeros 12 } = false := by
  decide +kernel
theorem test_wf_refuses_fields_past_bit_63 : (Instr.bfxu ⟨.mc1, 0, false⟩ 1 2 60 4).wf = false ∧
    (Instr.bfxs ⟨.mc1, 0, false⟩ 1 2 60 4).wf = false ∧ (Instr.bfi ⟨.mc1, 0, false⟩ 1 2 60 4).wf = false := by decide +kernel
theorem test_wf_refuses_a_guard_on_loop_and_end : (Instr.loop ⟨.cell 0, 1, false⟩ 1 0).wf = false ∧
    (Instr.loop ⟨.cell 0, 0, false⟩ 0 0).wf = false ∧ (Instr.iend ⟨.cell 0, 0, true⟩).wf = false := by decide +kernel
theorem test_wf_refuses_special_registers_that_are_not : (Instr.mrs ⟨.mc1, 0, false⟩ 1 4).wf = false ∧
    (Instr.msr ⟨.mc1, 0, false⟩ 1 3).wf = false := by decide +kernel
theorem test_wf_refuses_operands_of_wrong_length : (Instr.metrSample []).wf = false ∧ (Instr.heatWindowClose [] [] 0).wf = false ∧
    (Instr.theftWatchSecond []).wf = false ∧ (Instr.cellCycle 2048).wf = false ∧ (Instr.longSlot 2048).wf = false ∧
    (Instr.wideRead .mc0 2).wf = false ∧ (Instr.hostReadCompletion (.doorbell 0 [])).wf = false ∧
    (Instr.hostReadCompletion (.descriptors 0 [{ wfDesc with bytes := [] }])).wf = false ∧
    (Instr.hostReadCompletion (.buffer { wfDesc with bytes := [] })).wf = false := by decide +kernel

/-! ### Steps -/

theorem test_reset_idles_one_cycle : (match step State.reset with | .next t => t.pending.isEmpty | _ => false) = true := by
  decide +kernel
theorem test_no_row_has_bits : decodeTableWord 8 0 = none ∧ decodeTableWord 64 (2 ^ 63) = none := by decide +kernel
theorem wit_StepRunsTheFrontCommand : ({ base with pending := [.snapshot, .commit] } : State).pending = .snapshot :: [.commit] ∧
    (match step { base with pending := [.snapshot, .commit] } with
      | .next t => t.pending == [.commit] && t.pimg.openSpan | _ => false) = true := by decide +kernel

/-! ### Instructions -/

def cx : Ctl := { core := .cell 0, gp := 0, gn := false }
def mx : Ctl := { core := .mc1, gp := 0, gn := false }
/-- Engine 0 executes with the given registers, predicates and data; MC1 executes with the given registers. -/
def cell (g : Tbl W64) (p : Tbl Bool := []) (data : Tbl Byte := []) : State := { base with
  cell := { eng := [(0, { mode := 1, inCyc := true, g := g, p := p, data := data, constLen := 16, varLen := 32, task := 7
                          tasks := [{ task := 7, entry := 0, path := 0 }] })] } }
def sup (g : Tbl W64) (f : Mc1 → Mc1 := id) : State := { base with mc1 := f { g := g } }

theorem wit_Issues : Issues cx (cell []) ∧ Issues mx (sup []) := ⟨⟨by decide +kernel, by decide +kernel⟩, by decide +kernel, by decide +kernel⟩

theorem wit_FalseGuardHasNoEffect : let x : Ctl := { cx with gp := 1 }
    insnShape (.movi x 1 5) = some (x, 1, true) ∧ coreRuns x.core (cell []) = true ∧ (getP x.core (cell []) x.gp != x.gn) = false ∧
    chk (.movi x 1 5) (cell []) (fun t => getG x.core t 1 == 0 && (engGet t 0).used == 1) = true ∧
    chk (.br { mx with gn := true } 5) (sup []) (fun t => t.mc1.pc == 8) = true := by decide +kernel

theorem wit_InstructionsTakeTheirCyclesWhereValid :
    insnShape (.divs cx true 1 2 (.imm 3)) = some (cx, 20, true) ∧ coreRuns (.cell 0) (cell []) = true ∧
    chk (.divs cx true 1 2 (.imm 3)) (cell []) (fun t => (engGet t 0).used == 20) = true ∧
    insnShape (.mrs mx 1 4) = some (mx, 1, false) ∧ coreRuns .mc1 (sup []) = true ∧
    chk (.mrs mx 1 4) (sup []) (fun t => t.mc1.cpri == 16 && t.mc1.pc == vectorOf (sup []).mc1 vILLEGAL) = true ∧
    chk (.mrs mx 1 4) (sup [] fun m => { m with cpri := 16 }) (fun t => frozenM t 1) = true := by decide +kernel

theorem test_add_wraps : chk (.add cx true 3 1 (.reg 2)) (cell [(1, 0x7FFFFFFF), (2, 1)])
    (fun t => getG cx.core t 3 == 0xFFFFFFFF80000000) = true := by decide +kernel
theorem test_sub_source_is_destination : chk (.sub cx false 1 1 (.reg 2)) (cell [(1, 5), (2, 7)])
    (fun t => getG cx.core t 1 == 0xFFFFFFFFFFFFFFFE) = true := by decide +kernel
theorem test_adds_saturates : chk (.adds cx false 3 1 (.imm 1)) (cell [(1, 0x7FFFFFFFFFFFFFFF)])
    (fun t => getG cx.core t 3 == 0x7FFFFFFFFFFFFFFF && getAfl cx.core t == flSAT) = true := by decide +kernel
theorem test_mulhs_sign : chk (.mulhs cx true 3 1 2) (cell [(1, 0xFFFFFFFF), (2, 2)])
    (fun t => getG cx.core t 3 == 0xFFFFFFFFFFFFFFFF) = true := by decide +kernel
theorem wit_IntegerResults_by_zero : uval false (srcVal cx.core (cell []) (.reg 2)) = 0 ∧
    chk (.divs cx false 3 1 (.reg 2)) (cell [(1, 5)]) (fun t => getG cx.core t 3 == 0x7FFFFFFFFFFFFFFF &&
      getAfl cx.core t == flIDZ && cnt t bCELL 7 == 1) = true ∧
    chk (.rems cx false 3 1 (.reg 2)) (cell [(1, 5)]) (fun t => getG cx.core t 3 == 5) = true ∧
    chk (.divu cx true 3 1 (.reg 2)) (cell [(1, 5)]) (fun t => getG cx.core t 3 == 0xFFFFFFFFFFFFFFFF) = true := by decide +kernel
theorem wit_IntegerResults_signed_limit : sval true 0x80000000 = -(2 ^ 31) ∧ sval true 0xFFFFFFFF = -1 ∧
    chk (.divs cx true 3 1 (.reg 2)) (cell [(1, 0x80000000), (2, 0xFFFFFFFF)])
      (fun t => getG cx.core t 3 == 0xFFFFFFFF80000000 && getAfl cx.core t == flSAT) = true ∧
    chk (.rems cx true 3 1 (.reg 2)) (cell [(1, 0x80000000), (2, 0xFFFFFFFF)]) (fun t => getG cx.core t 3 == 0) = true ∧
    chk (.divs cx false 3 1 (.imm 2)) (cell [(1, 0xFFFFFFFFFFFFFFF9)]) (fun t => getG cx.core t 3 == 0xFFFFFFFFFFFFFFFD) = true ∧
    chk (.rems cx false 3 1 (.imm 2)) (cell [(1, 0xFFFFFFFFFFFFFFF9)]) (fun t => getG cx.core t 3 == 0xFFFFFFFFFFFFFFFF) = true := by
  decide +kernel

theorem test_shift_counts_wrap : chk (.shl cx true 3 1 (.imm 33)) (cell [(1, 1)]) (fun t => getG cx.core t 3 == 2) = true ∧
    chk (.sar cx true 3 1 (.imm 31)) (cell [(1, 0x80000000)]) (fun t => getG cx.core t 3 == 0xFFFFFFFFFFFFFFFF) = true ∧
    chk (.rol cx true 3 1 (.imm 1)) (cell [(1, 0x80000001)]) (fun t => getG cx.core t 3 == 3) = true := by decide +kernel
theorem wit_LogicMoveAndFieldResults : let s := cell [(1, 0xF0), (3, 0xFFFF)]
    uval false (getG cx.core s 1) / 2 ^ 7 = 1 ∧ uval false (getG cx.core s 2) = 0 ∧ (4 : BitVec 6).toNat + (3 : BitVec 6).toNat ≤ 63 ∧
    chk (.clz cx false 4 1) s (fun t => getG cx.core t 4 == 56) = true ∧ chk (.clz cx true 4 2) s (fun t => getG cx.core t 4 == 32) = true ∧
    chk (.bfxs cx 4 1 4 3) s (fun t => getG cx.core t 4 == 0xFFFFFFFFFFFFFFFF) = true ∧
    chk (.bfi cx 3 1 4 3) s (fun t => getG cx.core t 3 == 0xFF0F) = true ∧
    chk (.movhi cx 3 0xFFFFFFFF) s (fun t => getG cx.core t 3 == 0xFFFFFFFF0000FFFF) = true := by decide +kernel
theorem wit_PredicateResults : let s := cell [(1, 0xFFFFFFFF)]
    chk (.cmp cx true .lt 1 (.imm 0) 1 2) s (fun t => getP cx.core t 1 && !getP cx.core t 2) = true ∧
    chk (.cmp cx false .lt 1 (.imm 0) 1 2) s (fun t => !getP cx.core t 1 && getP cx.core t 2) = true ∧
    chk (.fcmp cx true .ne 1 1 1 2) s (fun t => getP cx.core t 1 && getAfl cx.core t == 0) = true ∧
    chk (.plog cx 1 0 2 false true .and) s (fun t => getP cx.core t 1) = true := by decide +kernel
theorem wit_FloatingPointResults : (isNaN (fdec fmt64 0x7FF8000000000000) = true ∧ isNaN (fdec fmt64 0) = false) ∧
    (fMinMax fmt64 false true 0x7FF8000000000000 0).1 = 0 ∧ (fAdd fmt64 0x7FF0000000000001 0).1 = 0x7FF8000000000000 ∧
    chk (.fdiv cx false 3 1 2) (cell [(1, 0x3FF0000000000000), (2, 0x4008000000000000)])
      (fun t => getG cx.core t 3 == 0x3FD5555555555555 && getAfl cx.core t == flNX) = true ∧
    chk (.fcvti cx true 3 1 .nearest true) (cell [(1, 0x7F800000)])
      (fun t => getG cx.core t 3 == 0x7FFFFFFF && getAfl cx.core t == flNV) = true := by decide +kernel
theorem test_fsqrt_two : chk (.fsqrt cx false 3 1) (cell [(1, 0x4000000000000000)]) (fun t => getG cx.core t 3 == 0x3FF6A09E667F3BCD) = true := by
  decide +kernel

theorem wit_LoadsAndStores_cell : let s := cell [(1, 0x110), (2, 0x80FF), (3, 0x10F)]
    let lim := 0x100 + (engGet s 0).constLen
    (lim ≤ 0x110 ∧ 0x110 + 2 ≤ lim + (engGet s 0).varLen) ∧ 0x10E < lim ∧
    chk (.st cx 2 1 1 0) s (fun t => tblRange (engGet t 0).data 0x110 3 0 == [0xFF, 0x80, 0]) = true ∧
    chk (.st cx 2 3 1 0) s (fun t => (engGet t 0).data.isEmpty && cnt t bCELL 3 == 1) = true ∧
    chk (.ld cx 4 1 1 true 0) (cell [(1, 0x111)] [] [(0x110, 0xFF), (0x111, 0x80)]) (fun t => getG cx.core t 4 == 0xFFFFFFFFFFFF80FF) = true := by
  decide +kernel
theorem wit_LoadsAndStores_mc1 : let s := sup [(1, BitVec.ofNat 64 mc1Data), (2, 0xABCD)]
    (mc1Data ≤ mc1Data ∧ mc1Data < mc1DataEnd ∧ mc1Code < mc1Data) ∧ isRegAddr (mc1DataEnd + 8) = false ∧ isRegAddr (mc1Data + 1) = false ∧
    chk (.st mx 2 1 1 2) s (fun t => tblRange t.mc1.data 2 2 0 == [0xCD, 0xAB]) = true ∧
    chk (.st mx 2 1 1 0xFFFFFFF8) s (fun t => t.mc1.cpri == 16 && t.mc1.pc == vectorOf s.mc1 vACCESS) = true ∧
    chk (.ld mx 2 1 1 true 1) s (fun t => t.mc1.cpri == 16 && t.mc1.pc == vectorOf s.mc1 vALIGN) = true := by decide +kernel

/-- Point 5 is a DWORD of the given owner and class. -/
def pts (g : Tbl W64) (owner cls : Byte) (q : BitVec 3) (opn : Bool) : State :=
  { cell g with pimg := { npoint := 16, openSpan := opn, working := [(5, { value := 9, qual := q, typ := 3, cls := cls, owner := owner })]
                          frozen := [(5, { value := 0xFFFFFFFFF, qual := 0, typ := 3, cls := cls, owner := owner })] } }
theorem wit_PointReads : let s := pts [(1, 2)] 2 1 0 true
    (getG cx.core s 1 + (3 : BitVec 17).zeroExtend 64).toNat = 5 ∧ inWindow s 2 (viewIn 5) 16 false = true ∧
    inWindow { s with sched := { s.sched with image := none } } 2 (viewIn 5) 16 false = false ∧
    chk (.pld cx 3 1 4 false 3) s (fun t => getG cx.core t 3 == 0xFFFFFFFF && getG cx.core t 4 == 0) = true ∧
    chk (.pld cx 3 2 4 false 131071) s (fun t => getG cx.core t 3 == 0 && getG cx.core t 4 == 2) = true ∧
    chk (.pld cx 3 1 4 false 3) { s with sched := { s.sched with image := none } } (fun t => frozenM t 2) = true := by decide +kernel
theorem wit_PointWritesAreTestedInOrder : let s := pts [(1, 2), (2, 0x1FFFFFFFF)] 2 1 0 true
    ((workPt s 6).typ = 0 ∧ (workPt s 5).typ ≠ 0 ∧ (workPt s 5).owner.toNat = 2) ∧
    cnt (pointWrite 2 6 1 0 s) bCELL 2 = 1 ∧ cnt (pointWrite 3 5 1 0 s) bCELL 2 = 1 ∧
    cnt (pointWrite 2 5 1 0 (pts [] 2 1 0 false)) bCELL 1 = 1 ∧ pointWrite 2 5 1 0 (pts [] 2 1 3 true) = pts [] 2 1 3 true ∧
    (workPt (pointWrite 2 5 1 3 s) 5).qual = 2 ∧
    chk (.pst cx 2 1 3) s (fun t => (workPt t 5).value == 0xFFFFFFFF && (workPt t 5).stamp == 8) = true := by decide +kernel

/-- Engine 0 at time 100 with timer 3 of a type. -/
def tmrSt (typ : Byte) (run inPrev inp : Bool) (start : W64) : State := { base with cell := { eng := [(0,
  { inCyc := true, g := [(1, 50)], p := [(1, inp)], now := 100, timers := [(3, { typ := typ, start := start, run := run, inPrev := inPrev })] })] } }
theorem wit_TimersFollowTheirRule :
    chk (.tmr cx 2 1 1 false 2 3) (tmrSt 1 true true false 70) (fun t => getG cx.core t 2 == 0 && !getP cx.core t 2) = true ∧
    chk (.tmr cx 2 1 1 false 2 3) (tmrSt 1 false false true 0) (fun t => getG cx.core t 2 == 0 && !getP cx.core t 2) = true ∧
    chk (.tmr cx 2 1 1 false 2 3) (tmrSt 1 true true true 50) (fun t => getG cx.core t 2 == 50 && getP cx.core t 2) = true ∧
    chk (.tmr cx 2 1 1 false 2 3) (tmrSt 2 false false true 50) (fun t => getP cx.core t 2) = true ∧
    chk (.tmr cx 2 1 1 false 2 3) (tmrSt 2 false true false 50) (fun t => getP cx.core t 2) = true ∧
    chk (.tmr cx 2 1 1 false 2 3) (tmrSt 2 true false false 51) (fun t => getG cx.core t 2 == 49 && getP cx.core t 2) = true ∧
    chk (.tmr cx 2 1 1 false 2 3) (tmrSt 3 true true true 50) (fun t => getG cx.core t 2 == 50 && !getP cx.core t 2) = true ∧
    chk (.tmr cx 2 1 1 false 2 3) (tmrSt 3 false false true 50) (fun t => getP cx.core t 2) = true ∧
    chk (.tmr cx 2 1 1 false 2 3) (tmrSt 3 false true true 50) (fun t => getG cx.core t 2 == 50 && !getP cx.core t 2) = true := by
  decide +kernel
theorem wit_EdgesFollowTheirRule : let s (typ : Byte) (prev first inp : Bool) : State := { base with cell := { eng := [(0,
      { inCyc := true, p := [(1, inp)], edges := [(3, { typ := typ, prev := prev, first := first })] })] } }
    (wOp 0x59FFFFFFFFFFFFFF = 0x59 ∧ bits 0x59FFFFFFFFFFFFFF 47 36 ≠ 0) ∧
    chk (.edge cx 1 false 2 3) (s 1 false false true) (fun t => getP cx.core t 2) = true ∧
    chk (.edge cx 1 false 2 3) (s 1 false true true) (fun t => !getP cx.core t 2) = true ∧
    chk (.edge cx 1 false 2 3) (s 2 true false false) (fun t => getP cx.core t 2) = true := by decide +kernel

theorem wit_LoopsAndTheEndOfACycle : let s (ls : List LoopLevel) : State := { base with cell := { eng := [(0,
      { inCyc := true, pos := 9, loops := ls, mode := 2, task := 7, stepping := true, step := some (desc 0x14 [(20, 2, 7)])
        tasks := [{ task := 7, entry := 0, path := 0 }] })] } }
    coreRuns (.cell 0) (s []) = true ∧ taskOf (engGet (s []) 0) 7 ≠ none ∧
    chk (.loop cx 3 0) (s []) (fun t => (engGet t 0).loops == [{ first := 10, last := 12, left := 65536, idx := 0 }]) = true ∧
    chk (.inop cx) (s [{ first := 4, last := 9, left := 2, idx := 0 }]) (fun t => (engGet t 0).pos == 4) = true ∧
    chk (.inop cx) (s [{ first := 4, last := 9, left := 1, idx := 1 }]) (fun t => (engGet t 0).pos == 10 && (engGet t 0).loops.isEmpty) = true ∧
    chk (.lidx cx 1 0) (s [{ first := 4, last := 19, left := 1, idx := 6 }]) (fun t => getG cx.core t 1 == 6) = true ∧
    chk (.lidx cx 1 3) (s []) (fun t => getG cx.core t 1 == 0) = true ∧
    chk (.iend cx) (started (desc 0x14 [(20, 2, 7)]) (s [])) (fun t => ans (desc 0x14 [(20, 2, 7)]) stOK 8 t && !(engGet t 0).inCyc) = true := by
  decide +kernel

/-- MC1 with its stack pointer at an offset of its data memory. -/
def supSp (o : Nat) (f : Mc1 → Mc1 := id) : State := sup [(1, 0x77), (63, BitVec.ofNat 64 (mc1Data + o))] fun m => f { m with pc := 800 }
theorem wit_SupervisorControlFlow_stack : let s := supSp 64
    ((mc1Data + 64) % 8 = 0 ∧ mc1Data + 8 ≤ mc1Data + 64 ∧ mc1Data + 64 ≤ mc1DataEnd ∧ s.mc1.splim.toNat + 8 ≤ mc1Data + 64) ∧
    chk (.br mx 0xFFFFFFFF) s (fun t => t.mc1.pc == 792) = true ∧ chk (.jr mx 1) s (fun t => t.mc1.pc == 0x77) = true ∧
    chk (.call mx 2) s (fun t => t.mc1.pc == 816 && getG .mc1 t 63 == BitVec.ofNat 64 (mc1Data + 56) && tblRange t.mc1.data 56 2 0 == [40, 3]) = true ∧
    chk (.callr mx 1) s (fun t => t.mc1.pc == 0x77) = true ∧ chk (.push mx 1) s (fun t => tblRange t.mc1.data 56 1 0 == [0x77]) = true ∧
    chk (.pop mx 2) (supSp 64 fun m => { m with data := [(64, 5)] }) (fun t => getG .mc1 t 2 == 5) = true ∧
    chk (.ret mx) (supSp 64 fun m => { m with data := [(64, 8)] }) (fun t => t.mc1.pc == 8) = true ∧
    mc1Data < (supSp 0).mc1.splim.toNat + 8 ∧ chk (.push mx 1) (supSp 0) (fun t => t.mc1.pc == vectorOf (supSp 0).mc1 vSTACK) = true := by
  decide +kernel
theorem wit_SupervisorControlFlow_special : let a := sup [(1, 0x37_0000_0002)]
    let b := sup [(1, BitVec.ofNat 64 (mc1Code + 4096))]
    ((getG .mc1 b 1).toNat % 4096 = 0 ∧ mc1Code ≤ (getG .mc1 b 1).toNat ∧ (getG .mc1 b 1).toNat < mc1Data) ∧
    chk (.msr mx 1 0) a (fun t => t.mc1.ie && t.mc1.pmask == 7 && getP .mc1 t 1 && !getP .mc1 t 2) = true ∧
    chk (.mrs mx 2 0) (sup [] fun m => { m with ie := true, pmask := 7, cpri := 3, afl := 1, p := [(1, true)] })
      (fun t => getG .mc1 t 2 == 0x17_0301_0003) = true ∧
    chk (.msr mx 1 2) b (fun t => t.mc1.vbase == BitVec.ofNat 64 (mc1Code + 4096)) = true ∧
    chk (.wfi mx) a (fun t => t.mc1.waiting) = true ∧ chk (.fence mx) a (fun t => t.mc1.pc == 8) = true := by decide +kernel
theorem wit_SupervisorControlFlow_reti : let fr := fun (o : Nat) => [(o, 0x10), (o + 12, 0x10), (o + 16, 5)]
    let s := supSp 64 fun m => { m with data := fr 64 }
    let f := supSp 64 fun m => { m with cpri := 16, data := fr 0x7FFC0 }
    (s.mc1.cpri ≠ 16 ∧ mc1Data + 64 + 64 ≤ mc1DataEnd ∧ f.mc1.cpri = 16) ∧
    chk (.reti mx) s (fun t => t.mc1.pc == 0x10 && t.mc1.ie && getG .mc1 t 1 == 5 && getG .mc1 t 63 == BitVec.ofNat 64 (mc1Data + 128)) = true ∧
    chk (.reti mx) { s with irq := { src := [(70, { pend := true, mask := false, target := 1, pri := 3 })] } }
      (fun t => t.mc1.pc == vectorOf s.mc1 70 && t.mc1.cpri == 3 && getG .mc1 t 63 == getG .mc1 s 63) = true ∧
    chk (.reti mx) f (fun t => t.mc1.pc == 0x10 && getG .mc1 t 63 == getG .mc1 f 63) = true := by decide +kernel

theorem wit_RegisterInstructionsChangeOnlyTheirResult : (60 : BitVec 6).toNat + (3 : BitVec 6).toNat ≤ 63 ∧
    uval false (srcVal cx.core (cell []) (.reg 2)) = 0 := by decide +kernel
theorem wit_StoresChangeOnlyTheStoredBytes : let s := pts [(1, 2)] 2 1 0 true
    (ptIndex cx.core s 1 3 < 131072 → inWindow s (coreMaster cx.core) (viewOut (ptIndex cx.core s 1 3)) 16 true = true) ∧
    mc1Data % 2 ^ (1 : BitVec 2).toNat = 0 ∧ mc1Data < mc1DataEnd := by decide +kernel

/-- The path time and a word of the program that the manual works out (R209). -/
theorem test_words_of_the_worked_program : validWord false 0x50000C110000A000 = true ∧ validWord false 0x3A100820C0000000 = true := by
  decide +kernel

/-! ### Registers, time, calendar -/

theorem test_reset_master_reads : chk (.cntRead .mc0 3 2) State.reset (fun t => t.out == [.regRead .mc0 0x30048 0]) = true ∧
    chk (.readWithoutEffect .mc0 0x150000 4) State.reset (fun t => cnt t bHIF 0 == 1) = true := by decide +kernel
theorem wit_CountersAndWideValues : let s := { count bCELL 3 base with time := { tbc := 0x1_0000_0002 } }
    let a := 0xD0150
    (match regOf s .mc0 a with | some e => decide (1 < e.words) && a % 65536 == e.off | none => false) = true ∧ s.sys.stage ≠ 0xF ∧ wideGet s.staged .mc0 0xD0448 = [] ∧
    chk (.cntRead .mc0 4 3) s (fun t => t.out == [.regRead .mc0 0x4004C 1] && cnt t bCELL 3 == 0) = true ∧
    chk (.wideRead .mc0 (BitVec.ofNat 24 a)) s (fun t => t.out == [.regRead .mc0 a 2] &&
      chk (.wideRead .mc0 (BitVec.ofNat 24 (a + 4))) { t with time := {} } (fun u => u.out.take 1 == [.regRead .mc0 (a + 4) 1])) = true ∧
    chk (.registerWrite .mc0 0xD0448 4 7) s (fun t => (trigGet t 2).next == 0 &&
      chk (.registerWrite .mc0 0xD044C 4 9) t (fun u => (trigGet u 2).next == 0x900000007)) = true := by
  decide +kernel
theorem wit_AccessesWithoutARegister : regOf base .mc0 0x150000 = none ∧ regOf base .mc0 2 = none ∧ regOf base .mc0 0x30FFC = none ∧
    chk (.registerWrite .mc0 0x30FFC 4 7) base (fun t => cnt t bHIF 0 == 1 && t.sched == base.sched) = true ∧
    chk (.readWithoutEffect (.bar0 3) 0x30FFC 2) base (fun t => cnt t bHIF 0 == 1 && t.out == [.regRead (.bar0 3) 0x30FFC 0]) = true := by
  decide +kernel
theorem wit_EnablesAndRings : (base.sys.stage ≠ 0xF ∧ blkOff base bHIF = false ∧ ringOn base 0 = true ∧ ringOn base 5 = false) ∧
    chk (.enWrite (.bar0 1) 4 0) base (fun t => !enOf t bCELL && enOf t bLOOP) = true ∧
    chk (.enWrite .mc0 3 0) base (fun t => enOf t bSCHED) = true ∧ chk (.enWrite (.bar0 1) 15 0) base (fun t => enOf t bPWR) = true ∧
    chk (.ringen .mc0 0x21) (ringPut base 5 { sqHead := 7, phase := false }) (fun t => (ringGet t 5).sqHead == 0 && (ringGet t 5).phase &&
      (ringGet t 0).classMask == 0xFFF) = true ∧
    chk (.registerWrite .mc0 0x10210 4 0) base (fun t => cnt t bHIF 6 == 1 && (ringGet t 0).classMask == 0xFFF) = true ∧
    chk (.registerWrite .mc0 0x102B0 4 0x0123_1102) base (fun t => (ringGet t 5).classMask == 0x123 && (ringGet t 5).cqLog == 2 &&
      (ringGet t 5).sqLog == 2) = true := by decide +kernel

theorem wit_RateChangesSlopeWithoutAJump : let s := { base with time := { tbc := 1000000000, offset := 5, anchor := 7, rate := 3518437209 } }
    ((-140737488355 : Int) ≤ (0x20C49BA5E3 : W64).toInt ∧ (0x20C49BA5E3 : W64).toInt ≤ 140737488355) ∧
    ¬((0x20C49BA5E4 : W64).toInt ≤ 140737488355) ∧
    chk (.rate .mc0 0x20C49BA5E3) s (fun t => nowT t == nowT s && t.time.anchor == 1000000000) = true ∧
    chk (.rate .mc0 0x20C49BA5E4) s (fun t => t.time == s.time && cnt t bTIME 0 == 1) = true ∧
    chk (.rate (.bar0 0) 5) s (fun t => t.time == s.time) = true := by decide +kernel
theorem wit_NetworkTimeIsReadAndStepped : let s := { base with time := { tbc := 1000000000, armed := true } }
    chk (.step .mc0 65536) s (fun t => nowT t == nowT s + 65536 && !t.time.armed && t.time.steps == 1) = true ∧
    chk (.step .mc0 1) { s with time := { s.time with armed := false } } (fun t => cnt t bTIME 1 == 1) = true ∧
    reachB 0x61 (desc 0x61 []) s = true ∧ reachB 0x60 (desc 0x60 [(32, 8, 0x4000)]) s = true ∧
    chk (.timeRearm (desc 0x61 [])) s (fun t => ans (desc 0x61 []) stOK 0 t && t.time.armed) = true ∧
    chk (.timeRead (desc 0x60 [(32, 8, 0x4000)])) s (fun t => ans (desc 0x60 []) stOK 64 t &&
      t.out.any fun o => match o with | .hostWrite a b => a == 0x4000 && slice b 16 8 == leBytes 8 1000000000 | _ => false) = true := by
  decide +kernel
theorem wit_TriggersFireAndCapture : let s (g : Trig) := { base with time := { tbc := 1000000, trig := [(3, g)] } }
    let n := (nowNs (s {})).toNat
    enOf (s {}) bTIME = true ∧ (nowNs (s {}) - 5).toNat < 2 ^ 63 ∧
    2 ^ 63 ≤ (nowNs (s {}) - (5 + BitVec.ofNat 64 (2 * n))).toNat ∧ (nowNs (s {}) - (5 + 10)).toNat < 2 ^ 63 ∧
    chk (.triggerFire 3) (s { mode := 1, next := 5 }) (fun t => (trigGet t 3).mode == 0 && (trigGet t 3).fired) = true ∧
    chk (.triggerFire 3) (s { mode := 2, next := 5, period := BitVec.ofNat 64 (2 * n) }) (fun t => !(trigGet t 3).missed) = true ∧
    chk (.triggerFire 3) (s { mode := 2, next := 5, period := 10 }) (fun t => (trigGet t 3).missed && cnt t bTIME 2 == 1 &&
      decide (n < (trigGet t 3).next.toNat) && decide ((trigGet t 3).next.toNat ≤ n + 10)) = true ∧
    chk (.triggerCapture 3 true) (s { mode := 3, edge := 1 }) (fun t => (trigGet t 3).fired && (trigGet t 3).cap == BitVec.ofNat 64
      ((timeAt (s {}).time 999998).toNat / 65536)) = true := by decide +kernel

/-- Table 12-4: the frame lengths and the rate that the manual works out. -/
theorem test_rate_of_the_worked_example : (timeAt { rate := 3518437209 } 1000000000).toNat / 65536 = 1000012499 ∨
    (timeAt { rate := 3518437209 } 1000000000).toNat / 65536 = 1000012500 := by decide +kernel

def calAt (y : BitVec 14) (mo : BitVec 4) (d : BitVec 5) (h : BitVec 5) (mi se : BitVec 6) : State :=
  { base with rtc := { calEn := true, cal := { wday := 6, hour := h, min := mi, sec := se, year := y, mon := mo, day := d } } }
theorem wit_TheCalendarAdvancesAndIsCommitted_seconds : enOf (calAt 2024 2 28 23 59 59) bRTC = true ∧
    chk .rtcSecond (calAt 2024 2 28 23 59 59) (fun t => t.rtc.cal.day == 29 && t.rtc.cal.wday == 0 && t.rtc.cal.hour == 0) = true ∧
    chk .rtcSecond (calAt 2100 2 28 23 59 59) (fun t => t.rtc.cal.mon == 3 && t.rtc.cal.day == 1) = true ∧
    chk .rtcSecond (calAt 9999 12 31 23 59 59) (fun t => t.rtc.cal.year == 0 && t.rtc.calWrap) = true ∧
    chk .rtcEdge { base with rtc := { rcnt := 0xFFFFFFFFFFFF } } (fun t => t.rtc.rcnt == 0) = true ∧
    chk .rtcEdge { base with rtc := { rcnt := 0xFFFFFFFFFFFF, bin := true } } (fun t => t.rtc.rcnt == 0x1000000000000) = true ∧
    chk .rtcAlarm { base with rtc := { rcnt := 9, alarm := 9, almEn := true } } (fun t => t.rtc.almf) = true ∧
    chk .operatingTimeSecond { base with recs := { opt := BitVec.ofNat 36 (3599 * 2 ^ 24 + 4) } } (fun t => t.recs.opt == 5) = true := by
  decide +kernel
theorem wit_TheCalendarAdvancesAndIsCommitted_requests : let s (r : RtcRegs) := { base with rtc := r }
    let w := desc 0x63 [(16, 1, 0xF), (32, 8, 0x18000)]
    reachB 0x62 (desc 0x62 [(32, 8, 0x4000)]) (s {}) = true ∧ reachB 0x63 w (s { commitPend := true }) = true ∧
    chk .snapTaken (started (desc 0x62 []) (s { snapPend := true, rcnt := 77, reads := [desc 0x62 []] })) (fun t =>
      t.rtc.snapCnt == 77 && t.rtc.snapDone && t.hif.waiting.length == 1) = true ∧
    chk .commitApplied (s { bin := true, commitPend := true, stgFlags := 5, stgCnt := 5, rcnt := 99 }) (fun t => t.rtc.rcnt == 0x28000 && t.rtc.bin && !t.rtc.calEn) = true ∧
    chk .commitApplied (s { commitPend := true, stgFlags := 0xF, stgCnt := 5, rcnt := 99 }) (fun t => t.rtc.rcnt == 0 && t.rtc.bin && t.rtc.calEn) = true ∧
    chk (.rtcWrite w) (s {}) (fun t => t.rtc.commitPend && t.rtc.stgCnt == 0x18000) = true ∧
    chk (.rtcWrite w) (s { commitPend := true }) (fun t => ans w stBUSY 0 t && cnt t bRTC 2 == 1) = true := by decide +kernel

/-! ### Interrupts and the host interface -/

def irqSt : State := { base with
  mc1 := { ie := true, g := [(63, BitVec.ofNat 64 (mc1Data + 64))] }
  irq := { src := [(70, { pend := true, mask := false, target := 1, pri := 3, group := 2 }),
  (75, { pend := true, mask := false, target := 1, pri := 3 })], grp := [(2, { hold := 4 })] } }
theorem wit_InterruptSourcesAndEntries_presented : Presented irqSt 1 70 := by
  refine ⟨by unfold Presentable; exact ⟨by decide, rfl, rfl, Or.inr (by decide), rfl, rfl, by decide⟩, fun k hk => ?_⟩
  have h : ∀ k, k < 344 → (tblGet irqSt.irq.src k (srcReset k)).mask = false → k = 70 ∨ k = 75 := by decide +kernel
  rcases h k hk.1 hk.2.2.1 with rfl | rfl
  · exact ⟨Nat.le_refl _, fun _ => Nat.le_refl _⟩
  · exact ⟨Nat.le_refl _, fun _ => by decide⟩
theorem wit_InterruptSourcesAndEntries : let s := irqSt
    (frozenM s 1 = false ∧ s.mc1.entry = none ∧ s.mc1.ie = true ∧ s.mc1.cpri.toNat < 3 ∧ s.mc1.pmask.toNat < 3 ∧ (mc1Data + 64) % 8 = 0 ∧
      s.mc1.splim.toNat + 64 ≤ mc1Data + 64) ∧
    chk (.interruptEntry .mc1) s (fun t => t.mc1.pc == vectorOf s.mc1 70 && t.mc1.cpri == 3 && !(srcGet t 70).pend && (srcGet t 75).pend &&
      (grpGetI t 2).run && getG .mc1 t 63 == BitVec.ofNat 64 mc1Data) = true := by decide +kernel
theorem wit_InterruptSourcesAndEntries_levels : let s := { base with pwr := { asleep := true }, irq := {
        src := [(204, { insvc := true, svcTarget := 1 })]
        wake := [(3, { en := true, src := 70 }), (4, { en := true, src := 213 })]
        grp := [(2, { hold := 4, run := true, ends := 5 })] } }
    chk (.swset .mc0 40) s (fun t => (srcGet t 40).pend) = true ∧ chk (.swset (.bar0 0) 40) s (fun t => !(srcGet t 40).pend) = true ∧
    chk (.swset (.bar0 0) 64) s (fun t => (srcGet t 64).pend) = true ∧
    chk (.cpl1 .mc1 204) s (fun t => !(srcGet t 204).insvc) = true ∧ chk (.cpl0 .mc0 204) s (fun t => cnt t bIRQ 2 == 1) = true ∧
    (wakeAble s 70 = true ∧ wakeAble s 213 = false) ∧ chk (.wakeWatch 3) s (fun t => t.irq.wakeSt == 8 && t.out == [.wakeN false]) = true ∧
    chk (.wakeWatch 4) s (fun t => t.irq.wakeSt == 0 && t.out.isEmpty) = true ∧
    holdRuns s 2 = true ∧ chk (.holdoffExpiry 2) s (fun t => holdRuns t 2) = true ∧
    chk (.holdoffExpiry 2) { s with time := { tbc := 5 } } (fun t => !(grpGetI t 2).run && (grpGetI t 2).hold == 4) = true ∧
    chk (.interruptEntry .mc1) { base with mc1 := { entry := some { left := 2, sel := none, sp := 9, first := 9 } } } (fun t => t.mc1.entry.isNone &&
      cnt t bIRQ 1 == 1 && getG .mc1 t 63 == 9) = true := by decide +kernel

theorem wit_NoHostWork : NoHostWork base := by unfold NoHostWork NoDeltas; decide +kernel
theorem wit_HostSlotsReadTheDoorbells : let z : State := { base with hif := { base.hif with inSlot := false, dbAddr := 0x10000, rings := [] } }
    let g : Ring := { sqBase := 0x20000, sqLog := 4, cqLog := 4, cqTail := 3, unread := 2 }
    let s := ringPut base 0 g
    (frozenM z 17 = false ∧ inSlotOf z 17 = true ∧ enOf z bHIF = true ∧ runsEn z bHIF = true ∧ ∀ r, r < 64 → (ringGet z r).queue = []) ∧
    (slotOpen s = true ∧ ringOn s 0 = true) ∧
    chk .hostSlotStart z (fun t => t.out == [.hostRead 0x10000 64] && slotOpen t && t.hif.slotMfn == 8) = true ∧
    chk .bootHostSlot { z with sched := {}, sys := { stage := 3 } } (fun t => slotOpen t && t.hif.slotMfn == 0) = true ∧
    chk .hostSlotStart { z with hif := { z.hif with bme := false } } (fun t => !slotOpen t && t.hif.inSlot) = true ∧
    chk (.hostReadCompletion (.doorbell 0 (leBytes 4 3 ++ leBytes 4 1 ++ zeros 56))) s (fun t => t.out == [.hostRead 0x20000 192] &&
      (ringGet t 0).unread == 1 && (ringGet t 0).fetching == 3) = true ∧
    chk (.hostReadCompletion (.doorbell 0 (leBytes 4 16 ++ zeros 60))) s (fun t => (ringGet t 0).ringErr && cnt t bHIF 1 == 1 && t.out.isEmpty) = true ∧
    chk (.hostReadCompletion (.doorbell 0 (leBytes 4 0 ++ leBytes 4 3 ++ zeros 56))) s (fun t => (ringGet t 0).lastIgnored) = true ∧
    chk (.configurationWrite false true true) base (fun t => !t.hif.bme && t.hif.d3 && t.hif.fnMask) = true ∧
    chk .hifReset base (fun t => t.hif.ringEn == 0 && t.hif.rings.isEmpty && !t.hif.link) = true := by decide +kernel
theorem wit_HostDataReachesItsDescriptor : let d : HostDesc := { desc 0 [] with signed := none }
    let s := ringPut base 0 { classMask := 1, fetching := 1, sqHead := 3 }
    let l := desc 0x01 [(20, 4, 64), (24, 8, 128)]
    let w : State := { started l base with hif := { (started l base).hif with reads := [(l, true)] } }
    (slotOpen s = true ∧ frozenM s 17 = false ∧ 0 < credits s 0 ∧ startedAll s < 256 ∧ dOp (fetched 0 3 d) = 0 ∧ reservedOk (fetched 0 3 d) = true ∧
      ∀ k, k < 64 → (ringGet s k).queue = []) ∧
    (l ∈ (ringGet w l.ring).started ∧ d32 l 20 = 64 ∧ d64 l 24 + 64 ≤ 2 ^ 28) ∧
    chk (.hostReadCompletion (.descriptors 0 [d])) s (fun t => ans (fetched 0 3 d) stOK 8 t && (ringGet t 0).sqHead == 0) = true ∧
    chk (.hostReadCompletion (.buffer { l with buf := List.replicate 64 0xAB })) w (fun t => ans l stOK 0 t && byteAt t.sched.shadow 128 == 0xAB &&
      byteAt t.sched.shadow 127 == 0) = true ∧
    chk (.hostReadCompletion (.doorbell 0 [])) { base with hif := { base.hif with closed := true } } (fun t => t.hif.late.length == 1) = true ∧
    chk (.hostReadFailure (.descriptors 0)) s (fun t => (ringGet t 0).fetching == 0 && cnt t bHIF 5 == 1) = true ∧
    chk (.hostReadFailure (.buffer l)) w (fun t => ans l stDROPPED 0 t && cnt t bHIF 5 == 1) = true := by decide +kernel
theorem wit_ClosePointsWriteInOrder : let c : Compl := { ring := 0, sqidx := 5, tag := 7, opcode := 0x10, status := 1, data := 0x99, unsol := false, src := 0 }
    let s (c : Compl) := ringPut { base with hif := { base.hif with waiting := [c], stAddr := 0x8000 } } 0 { cqBase := 0x30000, cqTail := 3 }
    frozenM (s c) 17 = false ∧ (∀ n, n < 344 → (srcGet (s c) n).target ≠ 2) ∧ ringOn { s c with hif := { (s c).hif with ringEn := 0 } } 0 = false ∧
    chk .closePoint (s c) (fun t => (ringGet t 0).cqTail == 0 && !(ringGet t 0).phase && (srcGet t 128).pend && t.out.length == 5 &&
      t.out.getLast? == some (.hostWrite 0x30030 (leBytes 8 0x99 ++ [5, 0, 7, 0, 0x10, 1, 1, 0]))) = true ∧
    chk .closePoint { s { c with unsol := true } with hif := { (s { c with unsol := true }).hif with ringEn := 0 } } (fun t =>
      (ringGet t 0).dropun == 1 && cnt t bHIF 4 == 1) = true ∧
    chk .closePoint (s { c with hold := true }) (fun t => t.hif.waiting == [{ c with hold := true }] && t.out.length == 4) = true ∧
    chk .closePoint { base with irq := { src := [(70, { pend := true, mask := false, target := 2, vec := 9 })] }
                                hif := { base.hif with msix := [(9, 0x5_0000_0000_0000_4000)] } }
      (fun t => t.out.take 1 == [.msix 9 0x4000 5] && !(srcGet t 70).pend) = true := by decide +kernel
theorem wit_ClosePointsWriteInOrder_msix : let s := { base with irq := { src := [(70, { pend := true, mask := false, target := 2, vec := 9 })] } }
    Presentable s 2 70 ∧ ∀ k, Presentable s 2 k → k = 70 := by
  refine ⟨by unfold Presentable; exact ⟨by decide, rfl, rfl, Or.inl rfl, rfl, rfl, by decide⟩, fun k hk => ?_⟩
  have h : ∀ k, k < 344 → (tblGet [(70, ({ pend := true, mask := false, target := 2, vec := 9 } : IrqSrc))] k (srcReset k)).mask = false → k = 70 := by
    decide +kernel
  exact h k hk.1 hk.2.2.1
theorem wit_DescriptorsAreCheckedInOrder : let d := desc 0x11 []
    let u : HostDesc := { d with signed := none }
    (descRow 0x11).isSome = true ∧ dOp d = 0x11 ∧ canStart base d = true ∧ authorise base u = .bad ∧ reservedOk (desc 0 [(16, 1, 1)]) = false ∧
    carrier 0x20 = some 15 ∧
    chk (.ptWrite d) (ringPut base 0 {}) (fun t => ans d stREFUSED 0 t && cnt t bHIF 3 == 1) = true ∧
    chk (.timeRearm { desc 0x61 [] with signed := none }) base (fun t => ans (desc 0x61 []) stAUTH_FAIL 0 t && cnt t bSEC 0 == 1) = true ∧
    chk (.ptWrite u) base (fun t => ans u stAUTH_FAIL 0 t && cnt t bSEC 0 == 1) = true ∧
    chk (.ptWrite d) { base with pair := { role := 2 } } (fun t => ans d stNOT_READY 0 t && cnt t bPAIR 10 == 1) = true ∧
    chk (.ptRead (desc 0x10 [])) { base with sched := { base.sched with run := false } } (fun t => ans d stNOT_READY 0 t) = true ∧
    chk (.dNop (desc 0 [(16, 1, 1)])) base (fun t => ans d stRANGE 0 t && cnt t bHIF 2 == 1) = true ∧
    chk (.solvDelta (desc 0x20 [])) { base with sched := { base.sched with frozen := [(15, true)] } } (fun t => ans d stFROZEN 0 t) = true ∧
    reachB 0 (desc 0 []) base = true := by decide +kernel
/-- An operator session without keys in use: the two outcomes that need no key. -/
theorem wit_DescriptorsAreCheckedInOrder_sessions : let u : HostDesc := { desc 0x11 [(4, 2, 1024), (6, 2, 3)] with signed := none }
    let s := { base with sec := { snuffed := true, sess := [(1024, { kind := 5, st := 1, rights := 2 })] } }
    authorise s u = .noKey ∧ chk (.ptWrite u) s (fun t => ans u stAUTH_FAIL 0 t && cnt t bSEC 8 == 1) = true := by decide +kernel

/-! ### The schedule -/

theorem wit_FramesFollowTheGrid : let s := { base with time := { tbc := 2000100, frameLen := 1000000, frameStart := 1000000 } }
    (enOf s bSCHED = true ∧ s.sched.committed = false ∧ 250000 ≤ s.sched.frameL.toNat ∧ s.sched.frameL.toNat ≤ 10000000) ∧
    (s.pair.mode = false ∧ s.pair.modeReq = [] ∧ s.sys.partnerActive = false) ∧
    chk (.minorFrameStart true) s (fun t => t.sched.mfn == 9 && t.sched.cyc == 0 && t.time.frameStart == 2000100 && cnt t bSCHED 6 == 1 &&
      decide (1000000 - 977 ≤ t.time.frameLen.toNat) && decide (t.time.frameLen.toNat ≤ 1000977)) = true ∧
    chk (.minorFrameStart false) { s with sched := { s.sched with run := false } } (fun t => t.sched.run && t.sched.mfn == 8 && t.sys.startTbc == 2000100) = true ∧
    chk .majorFrameBoundary s (fun t => t.sched.kmf == 3) = true ∧
    chk .majorFrameBoundary { s with sched := { s.sched with mfn := 9 } } (fun t => t.sched.kmf == 2) = true := by decide +kernel

def frozenSt (m : Nat) : State := { base with sched := { base.sched with frozen := [(m, true)] } }
theorem wit_FreezesHoldUntilReleased : let d := desc 0x04 [(16, 1, 16)]
    let w : State := { started d (frozenSt 16) with sched := { (frozenSt 16).sched with releases := [{ master := 16, desc := some d }] } }
    (holdsSlots base 16 = true ∧ frozenM base 16 = false) ∧ reachB 0x04 d base = true ∧ reachB 0x04 d (frozenSt 16) = true ∧ mIndex w = 0 ∧
    chk (.overrun 16 ⟨0x123, true⟩) base (fun t => frozenM t 16 && (tblGet t.sched.frzInfo 16 {}).cause == 3 && (tblGet t.sched.frzInfo 16 {}).addr == 0x123 &&
      cnt t bSCHED 3 == 1 && (srcGet t 192).pend && t.recs.queue.length == 1) = true ∧
    (let out : State := { base with sched := { base.sched with image := some { img with wins := [] } } }
     inWindow out 16 0x123 1 true = false ∧
     chk (.overrun 16 ⟨0x123, true⟩) out (fun t => (tblGet t.sched.frzInfo 16 {}).cause == 1 && cnt t bSCHED 2 == 1) = true ∧
     chk (.overrun 16 ⟨0x123, false⟩) out (fun t => (tblGet t.sched.frzInfo 16 {}).cause == 2 && cnt t bSCHED 2 == 1) = true) ∧
    chk (.overrun 16 ⟨0x123, true⟩) (frozenSt 16) (fun t => t == frozenSt 16) = true ∧
    chk (.unfreeze d) (frozenSt 16) (fun t => t.sched.releases.length == 1) = true ∧
    chk (.unfreeze d) base (fun t => ans d stNOT_READY 0 t && cnt t bHIF 7 == 1) = true ∧
    chk (.unfreeze (desc 0x04 [(16, 1, 25)])) base (fun t => ans d stRANGE 0 t) = true ∧
    chk (.freezeRelease 16) w (fun t => !frozenM t 16 && ans d stOK 8 t && t.sched.releases.isEmpty) = true ∧
    chk (.schedUnfrz (.bar0 0) 17) (frozenSt 17) (fun t => cnt t bSEC 5 == 1) = true ∧
    chk (.schedUnfrz (.bar0 0) 17) { frozenSt 17 with sched := { (frozenSt 17).sched with kmf := 10 } } (fun t => t.sched.releases.length == 1 &&
      t.recs.journal.length == 1) = true := by decide +kernel

theorem wit_ImagesAreLoadedAndChecked : let d := desc 0x01 [(16, 1, 1), (20, 4, 64), (24, 8, 128)] (List.replicate 64 7)
    let w : State := { started d base with sched := { base.sched with checking := some d } }
    reachB 0x01 d base = true ∧ d ∈ (ringGet w d.ring).started ∧ w.sys.stage ≠ 0xE ∧ (checkImage w false w.sched.shadow).1 = 1 ∧
    chk (.imageLoad d) base (fun t => t.sched.checking == some d && slice t.sched.shadow 128 64 == List.replicate 64 7) = true ∧
    chk (.imageLoad (desc 0x01 [(20, 4, 64)] (zeros 64))) base (fun t => ans d stOK 0 t) = true ∧
    chk (.imageLoad (desc 0x01 [(20, 4, 63)])) base (fun t => ans d stRANGE 0 t && cnt t bHIF 7 == 1) = true ∧
    chk (.imageLoad d) { base with sched := { base.sched with switchPend := true } } (fun t => ans d stBUSY 0 t) = true ∧
    chk .imageCheckComplete w (fun t => ans d stREFUSED 1 t && cnt t bSCHED 1 == 1 && t.sched.chkRes == 1) = true := by decide +kernel

theorem wit_ImagesAreSwitchedAtTheirBoundary : let d := desc 0x02 [(24, 8, 12)]
    let s : State := { base with sched := { base.sched with shadowReady := true, shadowImage := some { img with imgId := 5 } } }
    let p : State := { started d s with sched := { s.sched with switchPend := true, swMfn := 12, switchDesc := some d } }
    let a := desc 0x03 []
    reachB 0x02 d s = true ∧ reachB 0x03 a p = true ∧ (checkCarry img { img with imgId := 5 }).1 = 0 ∧
    (checkCarry { img with imgId := 9 } { img with imgId := 5 }).1 ≠ 0 ∧
    chk (.imageSwitch d) s (fun t => t.sched.switchPend && t.sched.swMfn == 12) = true ∧
    chk (.imageSwitch (desc 0x02 [(24, 8, 13)])) s (fun t => ans d stRANGE 0 t && cnt t bSCHED 4 == 1) = true ∧
    chk (.imageSwitch d) base (fun t => ans d stNOT_READY 0 t) = true ∧
    chk (.imageSwitch d) { s with sched := { s.sched with image := some { img with imgId := 9 } } } (fun t => ans d stREFUSED 15 t) = true ∧
    chk (.imageAbort a) p (fun t => ans a stOK 0 t && !t.sched.switchPend && t.hif.waiting.length == 2) = true ∧
    chk (.imageAbort a) s (fun t => ans a stNOT_READY 0 t) = true ∧
    chk (.imageAbort a) { p with sched := { p.sched with committed := true } } (fun t => ans a stRANGE 0 t && t.sched.switchPend) = true ∧
    chk (.imageSwitch (desc 0x02 [])) s (fun t => t.sched.switchPend && t.sched.swMfn == 12) = true ∧
    chk (.imageSwitch d) p (fun t => ans d stBUSY 0 t && cnt t bSCHED 4 == 1) = true ∧
    chk (.imageSwitch d) { s with sched := { s.sched with shadowImage := some { img with imgId := 5, flags := 0 } } } (fun t => ans d stREFUSED 0 t) = true ∧
    chk .switchReserve { p with sched := { p.sched with mfn := 11 } } (fun t => t.sched.committed) = true ∧
    chk .switchReserve p (fun t => t == p) = true ∧ chk .newImageActive p (fun t => t == p) = true ∧
    (s.sched.shadowImage.isSome = true ∧ img.l < 2 ^ 32 ∧ img.m < 2 ^ 17) := by decide +kernel

def switchSt : State := { started (desc 0x02 [(24, 8, 12)]) base with sched := { base.sched with
  shadowReady := true, shadowImage := some { img with imgId := 5, l := 900000 }, switchPend := true, swMfn := 12, mfn := 12, committed := true
  switchDesc := some (desc 0x02 [(24, 8, 12)]) } }
theorem wit_ImagesAreSwitchedAtTheirBoundary_held : ¬HeldByABlock (desc 0x02 [(24, 8, 12)]) switchSt := by
  rintro (⟨r, hr, -⟩ | ⟨e, he⟩ | ⟨e, i, h⟩ | ⟨b, hb, -⟩ | ⟨k, h⟩ | h | ⟨r, hr, -⟩ | ⟨k, h | h | ⟨w, hw, -⟩⟩)
  · exact absurd hr List.not_mem_nil
  · cases he
  · cases h
  · exact absurd hb List.not_mem_nil
  · exact absurd h List.not_mem_nil
  · exact absurd h List.not_mem_nil
  · exact absurd hr List.not_mem_nil
  · cases h
  · exact absurd h List.not_mem_nil
  · cases hw
theorem wit_ImagesAreSwitchedAtTheirBoundary_active : (switchSt.sched.image = some img ∧ switchSt.sched.shadowImage.isSome = true) ∧
    switchSt.sched.committed = true ∧ switchSt.sched.mfn = switchSt.sched.swMfn ∧ switchSt.sched.run = true ∧ switchSt.solv.runs = [] ∧
    desc 0x02 [(24, 8, 12)] ∈ (ringGet switchSt 0).started ∧ (900000 < 2 ^ 32 ∧ img.m < 2 ^ 17) := by decide +kernel

/-! ### Points and program cycles -/

def ptSt (w : Point) (g : Stage) (m : Nat := 0) : State := { frozenSt m with pimg := { npoint := 16, nstage := 1, working := [(5, w)], staging := [(0, g)] } }
theorem wit_SnapshotsMergeAndFreeze : let w : Point := { value := 3, qual := 0, typ := 3, owner := 18 }
    let g : Stage := { value := 0x1_0000_0009, point := 5, qual := 1, isNew := true }
    let d := desc 0x12 [(20, 4, 1)]
    let f : State := started d { ptSt w g with pimg := { (ptSt w g).pimg with forces := [{ desc := d, recs := [{ point := 5, force := true, value := 77 }] }] } }
    drives (ptSt w g) = true ∧ d ∈ (ringGet f d.ring).started ∧
    chk .snapshot (ptSt w g) (fun t => (workPt t 5).value == 9 && (workPt t 5).qual == 1 && (frozenPt t 5).value == 9 && (frozenPt t 5).stamp == 8 &&
      !(tblGet t.pimg.staging 0 {}).isNew && t.pimg.openSpan) = true ∧
    chk .snapshot (ptSt w g 18) (fun t => (frozenPt t 5).value == 3 && (frozenPt t 5).qual == 2 && (tblGet t.pimg.staging 0 {}).isNew) = true ∧
    chk .snapshot f (fun t => (frozenPt t 5).value == 77 && (frozenPt t 5).qual == 3 && ans d stOK 0 t && t.pimg.forces.isEmpty) = true ∧
    chk .snapshot { f with pimg := { f.pimg with working := [] } } (fun t => ans d stPARTIAL 0 t && cnt t bCELL 2 == 1) = true ∧
    chk .commit { ptSt w g with pimg := { (ptSt w g).pimg with openSpan := true } } (fun t => !t.pimg.openSpan && t.pimg.picmt == 8) = true := by
  decide +kernel
theorem wit_SnapshotsMergeAndFreeze_once : let s : State := { ptSt {} {} with pimg := { (ptSt {} {}).pimg with snapDone := true } }
    let b : State := { ptSt { typ := 3, owner := 18 } { point := 5, isNew := true } with pair := { role := 2 } }
    chk .snapshot s (fun t => t == s) = true ∧ chk .commit s (fun t => t == s) = true ∧
    (drives b = false ∧ chk .snapshot b (fun t => (tblGet t.pimg.staging 0 {}).isNew && t.pimg.openSpan) = true) := by decide +kernel

theorem wit_ProgramCyclesRunOrAreSkipped : let s (mode : BitVec 2) (req : Option (BitVec 2)) (snap : Bool) (m : Nat) : State := { frozenSt m with
        time := { tbc := 5000 }, pimg := { snapDone := snap }
        cell := { eng := [(0, { mode := mode, req := req, g := [(1, 9)], data := [(200, 1)], tasks := [{ task := 7, entry := 3, path := 0, cycles := 4 }] })] } }
    (slotAt (s 1 none true 0) 0).isSome = true ∧ (taskOf (engGet (s 1 none true 0) 0) 7).isSome = true ∧ enOf (s 1 none true 0) bCELL = true ∧
    enginesRun (s 1 none true 0) = true ∧
    chk (.cellCycle 0) (s 1 none true 0) (fun t => (engGet t 0).inCyc && (engGet t 0).pos == 3 && (engGet t 0).used == 20 && getG (.cell 0) t 1 == 0 &&
      tblRange (engGet t 0).data 0 24 0 == leBytes 8 8 ++ leBytes 8 5000 ++ leBytes 8 4 && tblRange (engGet t 0).data 28 4 0 == [7, 0, 1, 1] &&
      tblRange (engGet t 0).data 32 8 0 == leBytes 8 1000000 && tblGet (engGet t 0).data 200 0 == 1) = true ∧
    chk (.cellCycle 0) (s 1 none true 2) (fun t => (engGet t 0).skipCause == 1 && cnt t bCELL 0 == 1 && (srcGet t 214).pend) = true ∧
    chk (.cellCycle 0) (s 1 none false 0) (fun t => (engGet t 0).skipCause == 2 && getG (.cell 0) t 1 == 9) = true ∧
    chk (.cellCycle 0) (s 1 (some 0) true 0) (fun t => (engGet t 0).mode == 0 && !(engGet t 0).inCyc) = true ∧
    (let h (d : HostDesc) := { s 2 none true 0 with cell := { eng := [(0, { engGet (s 2 none true 0) 0 with step := some d })] } }
     chk (.cellCycle 0) (h (desc 0x14 [(20, 2, 7)])) (fun t => (engGet t 0).stepping && (engGet t 0).inCyc) = true) ∧
    chk (.cellCycle 0) (s 2 none true 0) (fun t => !(engGet t 0).inCyc) = true := by decide +kernel

theorem wit_PointAndCellDescriptors_points : let w : Point := { value := 3, qual := 0, typ := 3, owner := 17 }
    let s := ptSt w {}
    let r := desc 0x10 [(20, 4, 4), (24, 4, 2), (32, 8, 0x5000)]
    let rec_ (k : Nat) := leBytes 4 5 ++ [BitVec.ofNat 8 k, 0, 0, 0] ++ leBytes 8 0x100000063
    let wr (k : Nat) := desc 0x11 [(20, 4, 1)] (rec_ k)
    let fo (k : Nat) := desc 0x12 [(20, 4, 1)] (rec_ k)
    reachB 0x10 r s = true ∧ reachB 0x11 (wr 4) s = true ∧ reachB 0x12 (fo 1) s = true ∧ inWindow s 17 (0x1000000000 + 64) 32 false = true ∧
    chk (.ptRead (desc 0x10 [(20, 4, 131071), (24, 4, 2)])) s (fun t => ans r stRANGE 0 t && cnt t bCELL 5 == 1) = true ∧
    (let out : State := { s with hif := { s.hif with inSlot := false } }
     chk (.ptWrite (wr 4)) out (fun t => t.hif.todo == [wr 4] && t.hif.waiting.isEmpty) = true ∧
     chk (.ptRead r) out (fun t => t.hif.copies == [{ desc := r, begun := false }] && t.hif.waiting.isEmpty) = true) ∧
    chk (.ptRead (desc 0x10 [(20, 4, 5), (24, 4, 1), (32, 8, 0x5000)])) s (ans r stOK 16) = true ∧
    chk (.ptWrite (wr 4)) s (fun t => ans r stOK 0 t && (workPt t 5).value == 0x63 && (workPt t 5).qual == 4) = true ∧
    chk (.ptWrite (wr 3)) s (fun t => ans r stRANGE 0 t && (workPt t 5).value == 3) = true ∧
    chk (.ptForce (fo 1)) s (fun t => t.pimg.forces.length == 1) = true ∧
    chk (.ptForce (fo 2)) s (fun t => ans r stRANGE 0 t && t.pimg.forces.isEmpty) = true := by decide +kernel
theorem wit_PointAndCellDescriptors_cells : let s (mode : BitVec 2) : State := { base with cell := { eng := [(0, { mode := mode, data := [(300, 9)]
                                                                                                                   tasks := [{ task := 7, entry := 0, path := 0 }] })] } }
    let m := desc 0x13 [(16, 1, 0x81), (17, 1, 2)]
    let p := desc 0x14 [(20, 2, 7)]
    let r := desc 0x15 [(20, 4, 300), (24, 4, 8), (32, 8, 0x5000)]
    reachB 0x13 m (s 0) = true ∧ reachB 0x14 p (s 2) = true ∧ reachB 0x15 r (s 0) = true ∧ holdsSlots base 9 = true ∧
    chk (.cellMode m) (s 0) (fun t => ans m stOK 0 t && (engGet t 7).req == some 2 && (engGet t 1).req == none) = true ∧
    chk (.cellMode (desc 0x13 [(17, 1, 3)])) (s 0) (fun t => ans m stRANGE 0 t) = true ∧
    chk (.cellStep p) (s 2) (fun t => (engGet t 0).step == some p && t.hif.waiting.isEmpty) = true ∧
    chk (.cellStep p) (s 1) (fun t => ans p stNOT_READY 0 t) = true ∧
    (let b : State := { s 2 with cell := { eng := [(0, { engGet (s 2) 0 with inCyc := true })] } }
     chk (.cellRead r) b (fun t => (engGet t 0).reads == [r] && t.hif.waiting.isEmpty) = true) ∧
    chk (.cellRead r) (s 0) (fun t => ans r stOK 8 t && t.out == [.hostWrite 0x5000 (9 :: zeros 7)]) = true ∧
    chk (.cellRead r) (s 1) (fun t => ans r stBUSY 0 t && cnt t bCELL 5 == 1) = true := by decide +kernel

/-! ### Solver and heat transport -/

/-- Fields (offset, size, value) over a string of bytes. -/
def edit (b : Bytes) (fs : List (Nat × Nat × Nat)) : Bytes :=
  fs.foldl (fun b f => b.take f.1 ++ leBytes f.2.1 f.2.2 ++ b.drop (f.1 + f.2.1)) b

def ltask (m kind sslot : Nat) : LTask :=
  { task := 7, master := m, kind := kind, sslot := sslot, periodMaj := 1, phaseMaj := 0, pubOff := 1, rsvd := 0 }
/-- LONG slots 0 of SOLV and 1 of PARC, then their PUB slots. -/
def longImg : Image := { img with
  slots := [slot 15 1000 100000 7 1, slot 16 1000 100000 7 1, slot 15 300000 500 0xFFFF 2, slot 16 300000 500 0xFFFF 2, slot 17 2000 4000 0]
  dram := [{ channel := 0, master := 17, offset := 0, slog := 0, rsvd := 0 }]
  ltasks := [ltask 15 3 0, ltask 16 0x10 0xFF] }
def long : State := { base with sched := { base.sched with image := some longImg } }
/-- In the PUB slots, and in the host slot. -/
def pubTime (s : State) : State := { s with sched := { s.sched with cyc := 300000 } }
def hostTime (s : State) : State := { s with sched := { s.sched with cyc := 2000 } }

/-- A QP of one variable, without rows or bounds, Q = 1, c = 0. -/
def qpBytes : Bytes :=
  let b := edit (zeros 672) [(0, 4, 0x52545353), (4, 1, 1), (5, 3, 0xFFFFFF), (9, 1, 0xFF), (0xC, 4, 1), (0x10, 4, 1), (0x1C, 4, 1),
    (0x24, 4, 1), (0xA0, 8, 64), (0xAC, 4, 64), (0xE8, 2, 0xFFFF), (260, 4, 1), (452, 2, 1), (454, 2, 1),
    (640, 8, 0x3FF0000000000000), (656, 8, 0xFFF0000000000000), (664, 8, 0x7FF0000000000000)]
  edit b [(0x30, 8, (sigOf b).toNat)]
theorem wit_StructuresAndSolverDescriptors_load : let im : Image := { longImg with ltasks := [ltask 15 1 0] }
    let s : State := { base with sched := { base.sched with image := some im }, solv := { slots := [(0, { st := 1, loading := qpBytes })] } }
    loadErr { im := theImage s, k := 0, others := otherStructs s 0, typ := fun p => (workPt s p).typ } qpBytes = 0 ∧
    loadErr { im := theImage s, k := 0, others := otherStructs s 0, typ := fun p => (workPt s p).typ } [] = 1 ∧
    chk (.structureLoad 0) s (fun t => (slotGet t 0).st == 2 && dGet (slotGet t 0).data 6 0 == 0x7FF0000000000000) = true ∧
    chk (.structureLoad 0) { s with solv := { slots := [(0, { st := 1, reload := some (desc 0x24 []) })] } } (fun t => (slotGet t 0).st == 3 &&
      (slotGet t 0).loadErr == 1 && cnt t bSOLV 0 == 1) = true := by decide +kernel

def wls : SStruct := { kind := 3, pubbind := [{ src := 0, point := 5, scale := 0x4000000000000000 }], nv := 1, ring := 3, p := 4, ref := 2 }
def solv (st : BitVec 2) (runs : List SRun) (f : SolvRegs → SolvRegs := id) : State := { long with
  solv := f { slots := [(0, { st := st, desc := some { wls with nv := 0 }, usable := true, dsv := 4 })], runs := runs } }
def run0 : SRun := { task := 7, slot := 0, budget := 1000000, data := [(0x30 * 2 ^ 32, 0x3FF0000000000000)] }
theorem wit_SolverRunsCaptureAndCommit : let s := solv 2 []
    let d := desc 0x21 [(17, 1, 1), (20, 2, 7), (24, 8, 5000)]
    let k := ltask 15 3 0
    activeSlot s 0 = some (slot 15 1000 100000 7 1) ∧ solvTask s 7 = some k ∧ enginesRun s = true ∧ frozenM s 15 = false ∧ enOf s bSOLV = true ∧
    runOf s 7 = none ∧ (slotGet s 0).deltas = [] ∧ firstOccurrence s 15 7 0 = true ∧ captureFrame s k = true ∧
    captureFrame { s with sched := { s.sched with mfn := 9 } } k = false ∧
    (iterateOf (structOf s 0) run0).ok = true ∧
    chk (.longSlot 0) s (fun t => match runOf t 7 with | some r => r.capMfn == 8 && r.dsv == 4 && r.warm && r.budget == 199936 | none => false) = true ∧
    chk (.longSlot 0) (solv 0 []) (fun t => cnt t bSOLV 3 == 1 && (runOf t 7).any fun r => r.ended == some (0xFF, 10)) = true ∧
    chk (.longSlot 0) { solv 2 [] (fun v => { v with hostRuns := [d] }) with sched := { long.sched with mfn := 9 } } (fun t =>
      t.solv.hostRuns.isEmpty && (runOf t 7).any fun r => r.host == some d && r.budget == 5000) = true ∧
    chk (.longSlot 0) (started d (solv 2 [] (fun v => { v with hostRuns := [d] }))) (fun t => ans d stBUSY 0 t && cnt t bSOLV 5 == 1) = true ∧
    chk (.iterationCommit 7) (solv 2 [run0]) (fun t => (slotGet t 0).usable && (runOf t 7).any fun r => r.iter == 1 && r.ended == some (0, 0)) = true := by
  decide +kernel
theorem wit_ResultsAreWrittenAndPublished : let r : SRun := { run0 with ended := some (0, 0), iter := 1 }
    let d := desc 0x21 [(20, 2, 7)]
    let x : SResult := { valid := true, rseq := 1, status := 0, vec := [0x4008000000000000] }
    let p (publish : Bool) : State := { solv 2 [] (fun v => { v with
        slots := [(0, { st := 2, desc := some wls, rb := [(0, x)] })], held := [{ task := 7, slot := 0, rb := 0, pubMfn := 8, publish := publish }] }) with
      pimg := { npoint := 16, working := [(5, { typ := 7, owner := 15 })] } }
    inWindow (p true) 15 (viewOut 5) 16 true = true ∧ (slotNow (pubTime (p true)) 15).any (·.flags.testBit 1) = true ∧ slotNow (p true) 15 = none ∧
    chk (.pubSlot .solv) (p true) (fun t => t == p true) = true ∧ (workPt (p true) 5).qual ≠ qFORCED ∧
    chk (.resultWrite 7) (solv 2 [r]) (fun t => (runOf t 7).isNone && (slotGet t 0).rseq == 1 && (tblGet (slotGet t 0).rb 0 {}).status == 0 &&
      t.solv.held.length == 1 && (srcGet t 194).pend) = true ∧
    chk (.resultWrite 7) (started d (solv 2 [{ r with host := some d, ended := some (4, 8) }])) (fun t => cnt t bSOLV 2 == 1 &&
      (tblGet (slotGet t 0).rb 2 {}).status == 4 && t.solv.held.isEmpty && t.hif.waiting.length == 1) = true ∧
    chk (.pubSlot .solv) (pubTime (p false)) (fun t => (workPt t 5).value == 0 && t.hif.waiting.any fun c => c.ring == 3 && c.unsol) = true ∧
    chk (.pubSlot .solv) (pubTime (p true)) (fun t => (workPt t 5).value == 0x4018000000000000 && (workPt t 5).qual == 0 && t.solv.held.isEmpty) = true := by
  decide +kernel
theorem wit_StructuresAndSolverDescriptors : let rec_ := leBytes 4 0 ++ leBytes 1 0x30 ++ zeros 3 ++ leBytes 8 0x3FF0000000000000
    let dl := desc 0x20 [(20, 4, 1)] rec_
    let bad := desc 0x20 [(20, 4, 1)] (zeros 16)
    let rn := desc 0x21 [(20, 2, 7), (24, 8, 5000)]
    let ct := desc 0x22 [(20, 2, 7), (24, 8, 900)]
    let rd_ := desc 0x23 [(20, 4, 1), (32, 8, 0x4000)]
    let rv := desc 0x23 [(17, 1, 1), (20, 4, 1), (28, 4, 2), (32, 8, 0x4000)]
    let r1 := desc 0x23 [(17, 1, 1), (20, 4, 1), (28, 4, 1), (32, 8, 0x4000)]
    let rl := desc 0x24 []
    let x : SResult := { valid := true, rseq := 1, vec := [5, 6] }
    let q := { solv 2 [] (fun v => { v with slots := [(0, { st := 2, desc := some { wls with nv := 2 }, rseq := 1, rb := [(0, x)] })] }) with
      dram := [(128, 5), (129, 6)] }
    let u (st : BitVec 2) : State := { solv st [] with sched := { long.sched with mfn := 9 } }
    reachB 0x20 dl (u 2) = true ∧ deltasHeld (entered dl (solv 2 [])) 0 = true ∧ reachB 0x21 rn (solv 2 []) = true ∧ reachB 0x22 ct (solv 2 [run0]) = true ∧ reachB 0x23 rv q = true ∧
    reachB 0x23 rd_ q = true ∧ reachB 0x24 rl (solv 2 []) = true ∧ vlen (structOf q 0) = 2 ∧ pairBad (structOf (solv 2 []) 0) (deltaPair dl.buf 0) = false ∧
    pairBad (structOf (solv 2 []) 0) (deltaPair bad.buf 0) = true ∧ deltasHeld (entered dl (u 2)) 0 = false ∧
    (deltaOpps (u 2) = 0 ∧ 1 ≤ deltaOpps (hostTime (u 2))) ∧
    chk (.solvDelta dl) (u 2) (fun t => (slotGet t 0).writing == some { desc := dl, left := 1, mfn := 9 } && t.hif.waiting.isEmpty) = true ∧
    chk (.solvDelta dl) { u 2 with solv := { (u 2).solv with slots := [(0, { slotGet (u 2) 0 with writing := some { desc := dl, left := 1, mfn := 9 } })] } }
      (fun t => (slotGet t 0).deltas == [dl]) = true ∧
    chk (.solvDelta dl) (hostTime (u 2)) (fun t => ans dl stOK 5 t && dGet (slotGet t 0).data 0x30 0 == 0x3FF0000000000000) = true ∧
    chk (.solvDelta bad) (u 2) (fun t => ans bad stRANGE 0 t && cnt t bSOLV 1 == 1) = true ∧
    chk (.solvDelta dl) (u 0) (fun t => ans dl stNOT_READY 0 t) = true ∧
    chk (.solvRun rn) (solv 2 []) (fun t => t.solv.hostRuns == [rn]) = true ∧ chk (.solvRun rn) (solv 2 [run0]) (fun t => ans rn stBUSY 0 t) = true ∧
    chk (.solvRun (desc 0x21 [(20, 2, 7)])) (solv 2 []) (fun t => ans rn stRANGE 0 t && cnt t bSOLV 6 == 1) = true ∧
    chk (.solvCut ct) (solv 2 [run0]) (fun t => ans ct stOK 0 t && (runOf t 7).any fun r => r.budget == 900 && r.hostCut) = true ∧
    chk (.solvCut ct) (solv 2 [{ run0 with budget := 900 }]) (fun t => ans ct stRANGE 0 t) = true ∧
    chk (.solvCut ct) (solv 2 []) (fun t => ans ct stNOT_READY 0 t) = true ∧
    chk (.solvRead r1) q (fun t => ans rv stOK 8 t && t.out == [.hostWrite 0x4000 (leBytes 8 0x605)]) = true ∧
    chk (.solvRead rv) { q with hif := { q.hif with inSlot := false } } (fun t => t.hif.copies == [{ desc := rv, begun := false }] && t.hif.waiting.isEmpty) = true ∧
    chk (.solvRead (desc 0x23 [(20, 4, 2)])) q (fun t => ans rd_ stRANGE 0 t) = true ∧
    chk (.solvRead (desc 0x23 [])) (solv 2 [] (fun v => { v with slots := [(0, { st := 2, rseq := 4, rb := [(0, x), (1, x), (2, x)] })] })) (fun t =>
      ans rd_ stDROPPED 0 t && cnt t bSOLV 4 == 1) = true ∧
    chk (.solvReload rl) (solv 1 []) (fun t => ans rl stBUSY 0 t) = true ∧ chk (.solvReload rl) (solv 0 []) (fun t => ans rl stNOT_READY 0 t) = true := by
  decide +kernel
theorem wit_StructuresAndSolverDescriptors_reload : let im : Image := { longImg with bytes := zeros 64, dir := [{ typ := 0x20, num := 0, off := 0, len := 64, crc := 0 }] }
    let s : State := { solv 2 [] with sched := { long.sched with image := some im } }
    sectAt (theImage s) 0x20 0 = some (zeros 64) ∧
    chk (.solvReload (desc 0x24 [])) s (fun t => (slotGet t 0).st == 1 && (slotGet t 0).loading == zeros 64 && t.hif.waiting.isEmpty) = true := by
  decide +kernel

/-- A network of one segment of one litre between two nodes, stepped every 252 ms. -/
def parcBytes : Bytes :=
  let one := 0x3F800000
  let b := edit (zeros 544) ([(0, 4, 0x43524150), (4, 4, 1), (8, 4, 2), (0xC, 4, 4), (0x10, 2, 1), (0x16, 1, 0xFF), (0x18, 4, 252), (0x1C, 4, one),
    (0x28, 8, 0x3FF0000000000000), (0x38, 4, one), (384, 4, 0xFFFFFFFF), (450, 2, 1), (456, 4, one), (474, 1, 4), (512, 4, 0x42000000)] ++
    (List.range 65).map (fun i => (64 + 4 * i, 4, one)))
  edit b [(0x20, 8, (psigOf b).toNat)]
theorem wit_ParcelStepsCommitAndPublish_load : let im : Image := { longImg with ltasks := [{ ltask 16 0x10 0xFF with periodMaj := 63 }] }
    let s (b : Bytes) : State := { base with sched := { base.sched with image := some im }, parc := { cfgSt := 1, loading := b } }
    parcErr (s []) [] = 1 ∧ parcErr (s parcBytes) parcBytes = 0 ∧
    chk .parccfgLoad (s parcBytes) (fun t => t.parc.cfgSt == 2 && (t.parc.segs.map (·.parcels)) == [[{ vol := 0x3F800000, temp := 0x42000000 }]]) = true ∧
    chk .parccfgLoad (s []) (fun t => t.parc.cfgSt == 3 && t.parc.loadErr == 1 && cnt t bPARC 0 == 1) = true := by decide +kernel

def parc (f : ParcRegs → ParcRegs) : State := { long with
  pimg := { npoint := 16, working := [(5, { typ := 7, owner := 16 })] }
  parc := f { cfgSt := 2, segs := [{ src := 0, dst := 1, volume := 0x3F800000, pcap := 4, parcels := [{ vol := 0x3F800000 }] }], flowIn := [0x40000000]
              nodes := [{ temp := 0x42000000, fixed := true }, {}] } }
theorem wit_ParcelStepsCommitAndPublish_slots : let s := parc fun r => { r with fresh := true, pend := [{ index := 0, field := 1, value := 0x3FF0000000000000, mfn := 7 }] }
    let k := ltask 16 0x10 0xFF
    let p (dm : W64) := parc fun r => { r with doneMfn := some dm, pubs := [{ kind := 0, index := 0, point := 5, scale := 0x3FF0000000000000 }] }
    activeSlot s 1 = some (slot 16 1000 100000 7 1) ∧ parcTask s = some k ∧ enOf s bPARC = true ∧ firstOccurrence s 16 7 1 = true ∧
    captureFrame s k = true ∧ s.parc.flowIn.length = s.parc.segs.length ∧ inWindow s 16 (viewOut 5) 16 true = true ∧
    chk (.longSlot 1) s (fun t => t.parc.segs == s.parc.segs && t.parc.pend.isEmpty && t.parc.step.any fun c => c.mfn == 8 && c.wc == 0 &&
      (c.segs.getD 0 {}).flow == 0x40000000 && (c.segs.getD 0 {}).lambda == 0x3F800000) = true ∧
    chk (.longSlot 1) (parc fun r => { r with cfgSt := 0 }) (fun t => cnt t bPARC 1 == 1 && t.parc.stepSt == 1) = true ∧
    chk (.pubSlot .parc) (pubTime (p 7)) (fun t => (workPt t 5).value == 0x4040000000000000 && t.parc.lastPub && t.parc.doneMfn == none) = true ∧
    chk (.pubSlot .parc) (pubTime (p 6)) (fun t => t == pubTime (p 6)) = true ∧
    chk (.pubSlot .parc) { pubTime (p 7) with pair := { role := 2 } } (fun t => t.parc.doneMfn == none && (workPt t 5).value == 0) = true := by decide +kernel
theorem wit_ParcelStepsCommitAndPublish_step : let c : PCapture := { mfn := 8, watches := [some 0x4000000000000000] }
    let s (cn : Nat) (st : Bool) (k : Nat) : State := { long with
      parc := { cfgSt := 2, step := some c, resid := [0], watch := [{ kind := k, limit := 0x3F800000, pers := 2, cnt := cn, st := st }] } }
    (parcStep (s 0 false 5).parc c).ok = true ∧
    chk .parcelStepCommit (s 0 false 5) (fun t => t.parc.mstep == 1 && t.parc.step == none && t.parc.doneMfn == some 8) = true := by decide +kernel
theorem wit_ParcelStepsCommitAndPublish_descriptors : let s (n : Nat) := parc fun r => { r with pend := List.replicate n { index := 0, field := 1, value := 0, mfn := 7 } }
    let st (f v : Nat) := desc 0x30 [(20, 4, 1)] (leBytes 4 0 ++ leBytes 1 f ++ zeros 3 ++ leBytes 8 v)
    let r (k : Nat) := desc 0x31 [(16, 1, k), (24, 4, 1), (32, 8, 0x4000)]
    reachB 0x30 (st 1 0) (s 0) = true ∧ reachB 0x31 (r 0) (s 0) = true ∧ parcPairBad (s 0).parc (parcPairOf (s 0) (st 1 0).buf 0) = false ∧
    parcPairBad (s 0).parc (parcPairOf (s 0) (st 9 0).buf 0) = true ∧
    chk (.parcSet (st 1 0)) (s 0) (fun t => ans (r 0) stOK 1 t && t.parc.pend.length == 1) = true ∧
    chk (.parcSet (st 1 0)) (s 1024) (fun t => ans (r 0) stBUSY 0 t) = true ∧
    chk (.parcSet (st 9 0)) (s 0) (fun t => ans (r 0) stRANGE 0 t && cnt t bPARC 4 == 1) = true ∧
    chk (.parcSet (st 1 0)) base (fun t => ans (r 0) stNOT_READY 0 t) = true ∧
    chk (.parcRead (r 0)) (s 0) (fun t => ans (r 0) stOK 16 t) = true ∧ chk (.parcRead (r 1)) (s 0) (fun t => ans (r 0) stOK 32 t) = true ∧
    chk (.parcRead (r 4)) (s 0) (fun t => ans (r 0) stRANGE 0 t) = true ∧
    chk (.parcRead (r 0)) (parc fun r => { r with step := some { mfn := 8 } }) (fun t => ans (r 0) stBUSY 0 t) = true := by decide +kernel

/-! ### Loops, axes, metering -/

def f1 : F64 := 0x3FF0000000000000
def f2 : F64 := 0x4000000000000000
def lcfg1 : LoopCfg := { mpt := 5, opt := 6, kp := f1, umin := 0, umax := 0x4059000000000000, uman := f2, spfix := 0x4008000000000000, tf := f1 }
def loopSt (c : LoopCfg) (x : LoopSt) (q : BitVec 3 := 0) : State := { base with
  pimg := { npoint := 16, openSpan := true, frozen := [(5, { typ := 7, value := f1, qual := q })], working := [(6, { typ := 7, owner := 10, cls := 1 })] }
  loops := { eng := [(0, { cfgs := [c], st := [(0, x)] })] } }
theorem wit_LoopsSampleWhenDue : let s := loopSt lcfg1 { mode := 2 }
    let d : HostDesc := { desc 0x38 [(18, 1, 1), (19, 1, 1), (24, 8, 0x4008000000000000)] with signed := none }
    (lpGet s 0).cfgs = [lcfg1] ∧ enginesRun s = true ∧ enOf s bLOOP = true ∧ frozenM s 10 = false ∧ loopDue s lcfg1 = true ∧
    loopDue s { lcfg1 with div := 3, lph := 0 } = false ∧ inWindow s 10 (viewIn 5) 16 false = true ∧ inWindow s 10 (viewOut 6) 16 true = true ∧
    inPt s 5 = some f1 ∧ inPt (loopSt lcfg1 {} 2) 5 = none ∧ auditCode (dOp d) = none ∧ lcfg1.sppt = noPoint ∧
    chk (.loopOccurrence 0) s (fun t => (workPt t 6).value == f2 && (workPt t 6).qual == 0 && !(lstGet t 0 0).first) = true ∧
    chk (.loopOccurrence 0) (loopSt lcfg1 { mode := 1 }) (fun t => (workPt t 6).value == f2 && (lstGet t 0 0).mode == 1) = true ∧
    chk (.loopOccurrence 0) (loopSt lcfg1 { mode := 2, u := f1 } 2) (fun t => (workPt t 6).value == f1 && (workPt t 6).qual == 4 && cnt t bLOOP 0 == 1) = true ∧
    chk (.loopOccurrence 0) (loopSt lcfg1 {}) (fun t => (workPt t 6).value == 0 && (workPt t 6).qual == 2) = true ∧
    chk (.loopOccurrence 0) (started d (loopSt lcfg1 { mode := 2, req := some d })) (fun t => ans d stOK 8 t && (lstGet t 0 0).mode == 1 &&
      (workPt t 6).value == 0x4008000000000000) = true ∧
    chk (.loopOccurrence 0) (loopSt { lcfg1 with div := 3, lph := 0 } { mode := 2 }) (fun t => (workPt t 6).qual == 2) = true := by decide +kernel
theorem wit_LoopsSampleWhenDue_modes : let s := loopSt lcfg1 { mode := 2 }
    let late : State := { s with sched := { s.sched with cyc := 600000 } }
    let m := loopSt { lcfg1 with modept := 7 } { mode := 2, u := f1 }
    let mp : State := { m with pimg := { m.pimg with frozen := m.pimg.frozen ++ [(7, { typ := 2, value := 1, qual := 0 })] } }
    let two : State := { s with loops := { eng := [(0, { cfgs := [lcfg1, { lcfg1 with div := 3, lph := 0, flags := 16, outer := 0 }]
                                                         st := [(0, { mode := 2, u := f2 }), (1, { mode := 1 })] })] } }
    (inSlotOf s 10 = true ∧ inSlotOf late 10 = false ∧ innerOf s 0 0 = none) ∧ (usableQ (frozenPt mp 7) = true ∧ (frozenPt mp 7).typ = 2) ∧
    (innerOf two 0 0 = some 1 ∧ loopDue two (lcfg two 0 1) = false ∧ lSPTRK (lcfg two 0 1) = false) ∧
    chk (.loopOccurrence 0) late (fun t => t == late) = true ∧
    chk (.loopOccurrence 0) (loopSt lcfg1 { mode := 2, feMan := true, u := f1 }) (fun t => (lstGet t 0 0).mode == 1 && (workPt t 6).value == f1) = true ∧
    chk (.loopOccurrence 0) mp (fun t => (lstGet t 0 0).mode == 1 && (workPt t 6).value == f1) = true ∧
    chk (.loopOccurrence 0) two (fun t => (lstGet t 0 0).tracking && (workPt t 6).value == f2 && (lstGet t 0 1).mode == 1) = true := by decide +kernel
theorem wit_LoopsSampleWhenDue_descriptors : let s := loopSt lcfg1 { mode := 2 }
    let md (g m : Nat) := desc 0x38 [(16, 2, g), (18, 1, m)]
    let pr (g f : Nat) := desc 0x39 [(20, 4, 1)] (leBytes 4 g ++ leBytes 1 f ++ zeros 3 ++ leBytes 8 f2.toNat)
    let tr (a : Nat) := desc 0x3A [(17, 1, a), (20, 2, 1)] (zeros 64)
    let rd_ (k : Nat) := desc 0x3B [(16, 1, k), (24, 4, 1), (32, 8, 0x4000)]
    let arm (st : BitVec 3) : State := { s with loops := { eng := [(0, { cfgs := [lcfg1], trace := { st := st } })] } }
    reachB 0x38 (md 0 1) s = true ∧ reachB 0x39 (pr 0 1) s = true ∧ loopPairBad s (loopPairs (pr 0 1)) ((loopPairs (pr 0 1)).headD ⟨0, 0, 0⟩) = false ∧ reachB 0x3A (tr 1) s = true ∧ reachB 0x3B (rd_ 0) s = true ∧
    (loopPairs (pr 0 0)).length = 1 ∧
    chk (.loopMode (md 0 1)) s (fun t => (lstGet t 0 0).req == some (md 0 1)) = true ∧
    chk (.loopMode (md 0 4)) s (fun t => ans (md 0 0) stRANGE 0 t && cnt t bLOOP 4 == 1) = true ∧
    chk (.loopMode (md 1 1)) s (fun t => ans (md 0 0) stNOT_READY 0 t) = true ∧
    chk (.loopMode (md 0 1)) (loopSt { lcfg1 with modept := 3 } {}) (fun t => ans (md 0 0) stLOCKED 0 t) = true ∧
    chk (.loopParam (pr 0 1)) s (fun t => t.loops.params.length == 1) = true ∧
    (loopPairBad s (loopPairs (pr 0 14)) ((loopPairs (pr 0 14)).headD ⟨0, 0, 0⟩) = true) ∧
    chk (.loopParam (desc 0x39 [])) s (fun t => ans (md 0 0) stRANGE 0 t) = true ∧
    chk (.loopMode (md 0 1)) (started (md 0 2) (loopSt lcfg1 { req := some (md 0 2) })) (fun t => (lstGet t 0 0).req == some (md 0 1) && ans (md 0 2) stDROPPED 0 t) = true ∧
    chk (.loopTrace (tr 2)) s (ans (md 0 0) stOK 0) = true ∧ chk (.loopTrace (tr 2)) (arm 1) (fun t => (lpGet t 0).trace.st == 2) = true ∧
    chk (.loopTrace (desc 0x3A [(17, 1, 1)] (zeros 64))) s (ans (md 0 0) stRANGE 0) = true ∧
    chk (.loopRead (rd_ 1)) s (ans (md 0 0) stOK 0) = true ∧ chk (.loopRead (desc 0x3B [(24, 4, 2)])) s (ans (md 0 0) stNOT_READY 0) = true ∧
    chk (.loopRead (rd_ 2)) s (ans (md 0 0) stRANGE 0) = true ∧
    chk (.loopParam (pr 9 0)) s (fun t => ans (md 0 0) stNOT_READY 0 t) = true ∧ chk (.loopParam (pr 0 14)) s (fun t => ans (md 0 0) stRANGE 0 t) = true ∧
    chk (.loopTrace (tr 0)) (arm 1) (fun t => ans (md 0 0) stOK 0 t && (lpGet t 0).trace.st == 0) = true ∧
    chk (.loopTrace (tr 1)) (arm 1) (fun t => ans (md 0 0) stBUSY 0 t) = true ∧ chk (.loopTrace (tr 1)) s (fun t => (lpGet t 0).trace.st == 1) = true ∧
    chk (.loopTrace (tr 3)) s (fun t => ans (md 0 0) stRANGE 0 t) = true ∧ chk (.loopRead (rd_ 0)) s (fun t => ans (md 0 0) stOK 0 t) = true ∧
    chk (.loopRead (rd_ 2)) (arm 1) (fun t => ans (md 0 0) stBUSY 0 t) = true ∧ chk (.loopRead (rd_ 3)) s (fun t => ans (md 0 0) stRANGE 0 t) = true := by
  decide +kernel

def axisCfg1 : AxisCfg := {
  tgtpt := 5, en := true, stallt := 9, vmax := 0x408F400000000000, amax := 0x408F400000000000, jmax := 0x408F400000000000,
  slmin := 0xFFFFFFFFFFFFFF00, slmax := 0x100, holdt := 9 }
def axisSt (tgt : W64) (a : Axis) : State := { base with
  pimg := { npoint := 16, openSpan := true, frozen := [(5, { typ := 4, value := tgt, qual := 0 })], working := [(5, { typ := 4, value := tgt, qual := 0 })] }
  axis := { cfg := [axisCfg1], ax := [(0, a)] } }
def axisAt : Axis := { pwr := true, got := some (7, 1), sent := true }
theorem wit_AxesStepAndFollowTheirTargets : let s := axisSt 0 axisAt
    let c (k : Nat) : HostDesc := { desc 0x3C [(17, 1, k), (24, 8, 9)] with signed := none }
    enOf s bAXIS = true ∧ frozenM s 14 = false ∧ (∀ p ∈ axisPoints s, inWindow s 14 (viewOut p) 16 false = true) ∧ axesOn s = [0] ∧
    (grpGet s 0).moving = false ∧ (axGet s 0).stallCnt + 1 < (axCfg s 0).stallt ∧ (tgtRead s 0).1 = 0 ∧ atTarget (axGet s 0) = true ∧
    (tgtRead (axisSt 5 axisAt) 0).2 = true ∧ (tgtRead (axisSt 0x200 axisAt) 0).2 = false ∧ reachB 0x3C (desc 0x3C []) s = true ∧
    chk (.axisStep 0) (axisSt 0 { vel := 0xFFFFFFFFFFFFFFFF }) (fun t => (axGet t 0).pos == 0xFFFFFFFFFFFF && t.out == [.step 0 false]) = true ∧
    chk (.axisStep 0) s (fun t => t.axis == s.axis) = true ∧
    chk (.driverStatus 0 true 3 1 0 (BitVec.ofNat 8 (crcL 7 8 0 [3, 1, 0]))) s (fun t => (axGet t 0).got == some (3, 1)) = true ∧
    chk (.driverStatus 0 true 3 1 0 (BitVec.ofNat 8 (crcL 7 8 0 [3, 1, 0]) + 1)) s (fun t => (axGet t 0).got == some (7, 1)) = true ∧
    chk .axisSlot s (fun t => (axGet t 0).load == 7 && !(axGet t 0).moving && (axGet t 0).seq == 1 && t.out.length == 1) = true ∧
    chk .axisSlot (axisSt 5 axisAt) (fun t => (axGet t 0).target == 5 && (axGet t 0).moving && decide (0 < (axGet t 0).vel.toInt)) = true ∧
    chk .axisSlot (axisSt 0x200 axisAt) (fun t => (axGet t 0).tgtLimit && (axGet t 0).target == 0 && cnt t bAXIS 3 == 1) = true ∧
    chk .axisSlot (started (c 0) (axisSt 0 { axisAt with cmds := [c 0] })) (fun t => ans (c 0) stOK 0 t && (axGet t 0).stopped) = true ∧
    chk .axisSlot (started (c 2) (axisSt 0 { axisAt with cmds := [c 2] })) (fun t => ans (c 2) stOK 0 t && (axGet t 0).pos == 9) = true ∧
    chk .axisSlot (axisSt 0 { axisAt with got := none }) (fun t => (axGet t 0).missed == 1 && cnt t bAXIS 0 == 1) = true ∧
    chk (.axisCmd (desc 0x3C [])) s (fun t => (axGet t 0).cmds.length == 1) = true ∧
    chk (.axisCmd (desc 0x3C [(17, 1, 4)])) s (fun t => ans (c 0) stRANGE 0 t && cnt t bAXIS 5 == 1) = true ∧
    chk (.axisCmd (desc 0x3C [(16, 1, 1)])) s (fun t => ans (c 0) stNOT_READY 0 t) = true := by decide +kernel

def metr (f : MetrRegs → MetrRegs) : State := { base with metr := f { started := true, calValid := true, cfg := { feeds := [{ en := true }] } } }
theorem wit_EnergyAndHeatAreCreditedExactly : let s := metr id
    let z : List (BitVec 24) := List.replicate 32 0
    let pl := metr fun m => { m with cfg := { m.cfg with pairs := [{ en := true, pvol := 3, dirsrc := 1 }] } }
    metrRuns s = true ∧ (mfCfg s 0).en = true ∧ s.metr.settle = 0 ∧ s.metr.pfTbc = none ∧ frozenM s 21 = false ∧ s.pwr.pflock = false ∧
    chk (.metrSample z) (metr fun m => { m with settle := 3 }) (fun t => t.metr.settle == 2 && cnt t bMETR 9 == 1) = true ∧
    chk (.zeroCrossingTimeout 0 0) (metr fun m => { m with feeds := [(0, { ph := [(0, { c := -5, n := 4, sumI := 4 })] })] }) (fun t =>
      tblGet t.metr.tot 1 0 == 5 && tblGet t.metr.tot 0 0 == 0 && cnt t bMETR 1 == 1) = true ∧
    chk (.pulse 0 true false) pl (fun t => (mpGet t 0).vol == -(3 * 2 ^ 32)) = true ∧ chk (.pulse 0 false false) pl (fun t => (mpGet t 0).vol == 3 * 2 ^ 32) = true ∧
    chk (.pulse 0 true true) pl (fun t => (mpGet t 0).vol == 0 && cnt t bMETR 3 == 1) = true ∧
    chk (.heatWindowClose (List.replicate 32 (none, none)) (List.replicate 16 0) 0) (metr fun m => { m with
        cfg := { m.cfg with pairs := [{ en := true }] }, pairs := [(0, { vol := -7 })] })
      (fun t => tblGet t.metr.tot 36 0 == 7 && (mpGet t 0).vol == 0) = true ∧
    chk (.totaliserSave true) s (fun t => t.metr.saveSeq == 1 && t.metr.copyB) = true ∧
    chk (.totaliserSave false) s (fun t => t.metr.saveSeq == 0 && cnt t bMETR 5 == 1) = true ∧
    chk (.totaliserSave true) (metr fun m => { m with calPend := [{ group := 1, index := 0, bytes := leBytes 8 f1.toNat ++ zeros 24 }], tot := [(3, 9), (8, 9)] })
      (fun t => tblGet t.metr.tot 3 0 == 0 && tblGet t.metr.tot 8 0 == 9 && (calFeed t 0).vlsb == f1) = true := by decide +kernel
theorem wit_IntervalsTheftWatchAndMeteringDescriptors : let s := metr fun m => { m with intSeq := 5 }
    let tw : State := { State.reset with metr := { tw := [(0, { twen := true, twthr := 10, peak := 5 })] } }
    let b : MBind := { kind := 8, index := 0, point := 5, scale := f1 }
    let st : State := { metr (fun m => { m with cfg := { m.cfg with binds := [b] } }) with
      pimg := { npoint := 16, nstage := 1, working := [(5, { typ := 7, owner := 21 })], staging := [(0, { point := 5 })] } }
    let rd_ (k n sq : Nat) := desc 0x40 [(16, 1, k), (24, 4, n), (32, 8, 0x4000), (40, 8, sq)]
    let cal := desc 0x41 [] (zeros 32)
    let lock (v : Nat) := desc 0x42 [(16, 1, v)]
    reachB 0x40 (rd_ 0 1 0) s = true ∧ reachB 0x41 cal s = true ∧ reachB 0x42 (lock 1) s = true ∧ reachB 0x43 (desc 0x43 []) s = true ∧
    entryOf st 5 = some 0 ∧ inWindow st 21 (stageAddr 0) 16 true = true ∧ calRange 0 0 cal.buf = true ∧ tw.pwr.asleep = true ∧
    chk .intervalClose s (fun t => t.metr.intSeq == 6 && (tblGet t.metr.records 6 []).length == 1408 && (srcGet t 198).pend) = true ∧
    chk .intervalClose base (fun t => t.metr.intSeq == 0) = true ∧
    (outsidePt st 21 (metrPoints st) = none ∧ inSlotOf st 21 = true ∧ ∀ k, k < 16 → (mpCfg st k).src ≠ 2) ∧
    chk .metrSlot st (fun t => (tblGet t.pimg.staging 0 {}).isNew && (tblGet t.pimg.staging 0 {}).qual == 2) = true ∧
    chk .metrSlot { st with metr := { st.metr with cfg := { st.metr.cfg with binds := [{ b with kind := 5 }] }, pairs := [(0, { tf := some f2 })] } }
      (fun t => (tblGet t.pimg.staging 0 {}).value == f2 && (tblGet t.pimg.staging 0 {}).qual == 0) = true ∧
    chk (.theftWatchSecond [11, 0, 0, 0]) tw (fun t => (tblGet t.metr.tw 0 {}).secs == 1 && (tblGet t.metr.tw 0 {}).peak == 11) = true ∧
    chk (.theftWatchSecond [9, 0, 0, 0]) tw (fun t => (tblGet t.metr.tw 0 {}).secs == 0) = true ∧
    chk (.metrRead (rd_ 0 112 0)) s (fun t => ans cal stOK 0 t) = true ∧ chk (.metrRead (rd_ 1 2 4)) s (fun t => ans cal stOK 0 t) = true ∧
    chk (.metrRead (rd_ 1 1 1)) (metr fun m => { m with intSeq := 129 }) (fun t => ans cal stDROPPED 0 t && cnt t bMETR 8 == 1) = true ∧
    chk (.metrRead (rd_ 0 113 0)) s (fun t => ans cal stRANGE 0 t && cnt t bMETR 7 == 1) = true ∧
    chk (.metrCal cal) s (fun t => ans cal stOK 0 t && t.metr.calPend.length == 1) = true ∧
    chk (.metrCal cal) (metr fun m => { m with calLock := true }) (fun t => ans cal stLOCKED 0 t) = true ∧
    chk (.metrCal (desc 0x41 [(16, 1, 3)])) s (fun t => ans cal stRANGE 0 t) = true ∧
    chk (.metrLock (lock 1)) s (fun t => ans cal stOK 0 t && t.metr.calLock) = true ∧ chk (.metrLock (lock 2)) s (fun t => ans cal stRANGE 0 t) = true ∧
    chk (.metrTwclr (desc 0x43 [])) { s with metr := { s.metr with tw := [(0, { secs := 4, peak := 5, twen := true })] } } (fun t =>
      tblGet t.metr.tw 0 {} == { twen := true }) = true := by decide +kernel
/-- The velocity word of Table 8-9's example: 400,000 steps/s at 1 GHz. -/
theorem test_velocity_of_the_example : roundDiv (400000 * 2 ^ 64) (10 ^ 9) = 7378697629483821 := by decide +kernel

/-! ### CAN channels and stations -/

def cdata (n : Nat) : Bytes := (List.range n).map (BitVec.ofNat 8)
def fr (id : BitVec 29) (n : Nat) (ide : Bool := false) (fdf : Bool := false) : CanFrame :=
  { id := id, ide := ide, fdf := fdf, brs := false, rtr := false, data := cdata n }
def canCfg1 : CanCfg := {
  en := true, joinid := 0x100, jointo := 3
  filters := [⟨0x10, 0x7FF, 3⟩, ⟨0x20, 0x7FF, 0xFFFE⟩, ⟨0x30, 0x7FF, 0xFFFF⟩] }
/-- Channel 2 with this state, or with this configuration. -/
def canSt (c : CanChan) (g : CanCfg := canCfg1) : State := { base with canl := { cfg := [(2, g)], ch := [(2, c)] } }

theorem wit_CanFramesAreSentSealedAndStored_sent : let s := canSt { tx := [(9, { st := 1, frame := some (fr 0x55 3) })] }
    (bufGet s 2 9).frame = some (fr 0x55 3) ∧ (bufGet s 2 9).st = 1 ∧ chanSends s 2 = true ∧ (chGet s 2).errst = 0 ∧ isRef s 2 9 = false ∧
    chk (.startOfFrame 2 9 77) s (fun t => t.out == [.can 2 9 (fr 0x55 3)] && (bufGet t 2 9).st == 2 && (bufGet t 2 9).ts == 77) = true ∧
    (let r : State := { base with canl := { cfg := [(2, { canCfg1 with refen := true, refid := 0x80000042, ntu := 1000 })], ch := [(2, { cycle := 5, tx := [(0, { st := 1, frame := some (fr 0 4) })] })] } }
     isRef r 2 0 = true ∧ chk (.startOfFrame 2 0 77) r (fun t => t.out.any fun | .can 2 0 g => g.id == 0x42 && g.ide | _ => false) = true) ∧
    (let e (late : Bool) (rl : Option CanFrame) : State := canSt { tec := 1, cycle := 5, tx := [(9, { st := 2, late := late, clate := late, frame := some (fr 0x55 3), reload := rl })] }
     (bufGet (e false none) 2 9).st = 2 ∧
     chk (.canFrameEnd 2 9 .completed) (e false none) (fun t => (bufGet t 2 9).st == 3 && (chGet t 2).tec == 0) = true ∧
     chk (.canFrameEnd 2 9 .completed) (e true (some (fr 1 1))) (fun t => (bufGet t 2 9).st == 1 && (bufGet t 2 9).frame == some (fr 1 1)) = true ∧
     chk (.canFrameEnd 2 9 .lostArbitration) (e false none) (fun t => (bufGet t 2 9).st == 1) = true ∧
     chk (.canFrameEnd 2 9 .busError) (e true none) (fun t => (bufGet t 2 9).st == 4) = true ∧
     chk (.canFrameEnd 2 9 .busError) (e true (some (fr 1 1))) (fun t => (bufGet t 2 9).st == 1) = true) := by decide +kernel

theorem wit_CanFramesAreSentSealedAndStored_errors : let s (tec : BitVec 9) (rec : BitVec 8) (e : BitVec 2) := canSt { tec := tec, recc := rec, errst := e }
    chanOn (s 247 0 1) 2 = true ∧ chanSends (s 247 0 1) 2 = true ∧
    chk (.canBusError 2 ⟨.crc, .frame⟩ true) (s 247 0 1) (fun t => (chGet t 2).tec == 255 && (chGet t 2).errst == 1 && cnt t bCANL 0 == 1) = true ∧
    chk (.canBusError 2 ⟨.crc, .frame⟩ true) (s 248 0 1) (fun t => (chGet t 2).errst == 2 && cnt t bCANL 1 == 1 && (srcGet t 200).pend) = true ∧
    chk (.canBusError 2 ⟨.ack, .frame⟩ true) (s 248 0 1) (fun t => (chGet t 2).tec == 248 && (chGet t 2).errst == 1) = true ∧
    chk (.canBusError 2 ⟨.form, .frame⟩ false) (s 0 127 0) (fun t => (chGet t 2).recc == 128 && (chGet t 2).errst == 1 && (chGet t 2).lasterr == 3) = true ∧
    chk (.canBusError 2 ⟨.form, .frame⟩ false) (s 0 255 1) (fun t => (chGet t 2).recc == 255) = true ∧
    chk (.canBusError 2 ⟨.bit, .frame⟩ true) (canSt { tec := 250, errst := 1 } { canCfg1 with autorec := true }) (fun t => (chGet t 2).errst == 3) = true ∧
    chk (.canBusError 2 ⟨.stuff, .arbitration⟩ true) (s 8 0 0) (fun t => (chGet t 2).tec == 8 && (chGet t 2).lasterr == canErrCode .stuff) = true ∧
    chk (.canBusError 2 ⟨.bit, .afterFlag⟩ false) (s 0 8 0) (fun t => (chGet t 2).recc == 16 && (chGet t 2).lasterr == 0 && cnt t bCANL 0 == 0) = true ∧
    chk (.busOffRecovery 2) (s 256 9 3) (fun t => (chGet t 2).tec == 0 && (chGet t 2).errst == 0) = true ∧
    chk (.busOffRecovery 2) (s 256 9 2) (fun t => (chGet t 2).tec == 256) = true := by decide +kernel

theorem wit_CanFramesAreSentSealedAndStored_stored : let it : RxItem := { frame := fr 0x20 1, ts := 1, sealOk := false, filt := 1, arr := 0 }
    let s (c : CanChan) := canSt c
    let q : CanChan := {}
    let full : CanChan := { fifo := List.replicate 32 it }
    isJoin (s q) 2 (fr 0x10 2) = false ∧ sealSlot (s q) 2 (fr 0x10 2) = none ∧
    chk (.canFrameReceive 2 (fr 0x11 2) 7) (s q) (fun t => (chGet t 2).rx == [] && (chGet t 2).fifo == []) = true ∧
    chk (.canFrameReceive 2 (fr 0x10 2 true) 7) (s q) (fun t => (chGet t 2).rx == []) = true ∧
    chk (.canFrameReceive 2 (fr 0x10 2) 7) (s q) (fun t => (tblGet (chGet t 2).rx 3 none).any fun x => x.frame == fr 0x10 2 && x.ts == 7 && x.filt == 0) = true ∧
    chk (.canFrameReceive 2 (fr 0x10 2) 7) (s { rx := [(3, some it)] }) (fun t => cnt t bCANL 2 == 1) = true ∧
    chk (.canFrameReceive 2 (fr 0x20 2) 7) (s { fifo := List.replicate 31 it }) (fun t => (chGet t 2).fifo.length == 32) = true ∧
    chk (.canFrameReceive 2 (fr 0x20 2) 7) (s full) (fun t => (chGet t 2).fifo == full.fifo && (chGet t 2).fifoOvf && cnt t bCANL 3 == 1) = true ∧
    chk (.canFrameReceive 2 (fr 0x20 2) 7) (s { full with latched := some it }) (fun t => (chGet t 2).shadow.isSome && cnt t bCANL 3 == 0) = true ∧
    chk (.canFrameReceive 2 (fr 0x20 2) 7) (s { full with latched := some it, shadow := some it }) (fun t => cnt t bCANL 3 == 1) = true ∧
    chk (.canFrameReceive 2 (fr 0x30 2) 7) (s q) (fun t => (chGet t 2).rx == [] && (chGet t 2).fifo == []) = true := by decide +kernel

def sealKey1 : Bytes := cdata 16
def sealSt (last : BitVec 56) : State := { canSt {} with
  canl := { cfg := [(2, { canCfg1 with fd := true, filters := [⟨0x40, 0x7FF, 3⟩] })], tmpl := [(9, { chan := 2, sealed := true, rxid := 0x40, len := 16 })], stn := [(9, { st := 3, uid := 77 })] }
  sec := { base.sec with sess := [(9, { kind := 1, st := 1, key2 := sealKey1, fvRx := last })] } }
def sealedFr (fv : Nat) : CanFrame :=
  let f : CanFrame := fr 0x40 16 false true
  let g := { f with data := f.data.take 9 ++ leBytes 3 fv ++ zeros 4 }
  { g with data := g.data.take 12 ++ sealTag sealKey1 g 9 1 fv }

/-- The freshness candidates of R305. -/
theorem test_seal_candidates : sealCand 0x03FFFFF0 0x05 = 0x04000005 ∧ sealCand 0x03FFFFFF 0xFFFFEE = 0x04FFFFEE := by decide +kernel

theorem wit_CanFramesAreSentSealedAndStored_sealed : let s := sealSt 4
    sealSlot s 2 (sealedFr 5) = some 9 ∧ isJoin s 2 (sealedFr 5) = false ∧
    chk (.canFrameReceive 2 (sealedFr 5) 7) s (fun t => (sessGet t 9).fvRx == 5 && (tblGet (chGet t 2).rx 3 none).any (·.sealOk)) = true ∧
    chk (.canFrameReceive 2 (sealedFr 4) 7) s (fun t => (sessGet t 9).fvRx == 4 && (chGet t 2).rx == [] && cnt t bCANL 4 == 1) = true ∧
    chk (.canFrameReceive 2 { sealedFr 5 with data := (sealedFr 5).data.set 0 9 } 7) s (fun t => cnt t bCANL 4 == 1) = true := by decide +kernel

theorem wit_CanFramesAreSentSealedAndStored_registers : let it : RxItem := { frame := fr 0x20 1, ts := 1, sealOk := false, filt := 1, arr := 0 }
    let s := canSt { fifo := [it], latched := some it, shadow := some it, tx := [(56, { idw := 0x55, dlc := 2 }), (57, { st := 1, frame := some (fr 1 1) }), (58, { st := 2, frame := some (fr 1 1) })] }
    (∀ n, RegMaster.mc1 = .bar0 n → s.sys.stage ≠ 0xF) ∧ blkOff s bCANL = false ∧
    chk (.txreq .mc1 2 7) s (fun t => (bufGet t 2 56).st == 1 && ((bufGet t 2 56).frame.any fun f => f.id == 0x55 && f.data.length == 2) && (bufGet t 2 58).st == 2) = true ∧
    chk (.txcan .mc1 2 7) s (fun t => (bufGet t 2 56).st == 0 && (bufGet t 2 57).st == 4 && (bufGet t 2 58).late) = true ∧
    chk (.fifohdRead .mc1 2) s (fun t => t.out == [.regRead .mc1 (0x0A3000 + 0x60 * 2) 0x20]) = true ∧
    chk (.fifopop .mc1 2 1) s (fun t => (chGet t 2).fifo == [it] && (chGet t 2).shadow == none && (chGet t 2).latched == none) = true :=
  ⟨(fun _ h => nomatch h), by decide +kernel⟩

def tmpl1 : StnTmpl := { chan := 2, txid := 0x60, rxid := 0x70, tbuf := 4, rbuf := 3, period := 4, ackwin := 2, lossn := 2, cls := 9 }
def stnSt (v : Station) (p : StnTmpl := tmpl1) (c : CanChan := {}) (joins : List JoinRec := []) : State := { base with
  time := { base.time with tbc := 1000 }
  canl := { cfg := [(2, canCfg1)], tmpl := [(9, p)], ch := if c == {} then [] else [(2, c)], stn := [(9, v)], joins := joins }
  pimg := { npoint := 16, nstage := 1, working := [(5, { value := 3, typ := 3, owner := 18 })], staging := [(0, { point := 5 })] } }

theorem wit_StationsExchangeJoinAndLeave_transmit : let s := stnSt { st := 3 }
    linkRuns .canl s = true ∧ (s.canl.tmpl.map (·.1)).Nodup ∧ canReads s = [] ∧ admitted (stnGet s 9) = true ∧
    s.sched.mfn.toNat % max 1 (tmplOf s 9).period = (tmplOf s 9).phase ∧ chanSends s 2 = true ∧ outputsOf tmpl1 = [] ∧
    chk (.transmitSlot .canl) s (fun t => (stnGet t 9).exs.length == 1 && ((bufGet t 2 4).frame.any fun f => f.id == 0x60 && f.data.length == 8) && (bufGet t 2 4).st == 1) = true ∧
    chk (.transmitSlot .canl) (stnSt { st := 3 } tmpl1 { tx := [(4, { st := 1, frame := some (fr 1 1) })] }) (fun t => cnt t bCANL 5 == 1) = true ∧
    chk (.transmitSlot .canl) (stnSt { st := 3 } tmpl1 { tx := [(4, { st := 2, frame := some (fr 1 1) })] }) (fun t => (bufGet t 2 4).reload.isSome && (bufGet t 2 4).clate) = true ∧
    chk (.transmitSlot .canl) (stnSt { st := 1 }) (fun t => (stnGet t 9).exs == []) = true ∧
    (let b := stnSt { st := 3 } { tmpl1 with map := [{ point := 5, frame := 0, output := true, off := 1, wire := 4, bitNo := 0 }] }
     let z : State := { b with sched := { b.sched with image := some { img with wins := [] } } }
     canReads z = [5] ∧ inWindow z 18 (viewOut 5) 16 false = false ∧ inWindow b 18 (viewOut 5) 16 false = true ∧
     chk (.transmitSlot .canl) z (fun t => frozenM t 18 && t.canl == z.canl) = true) := by decide +kernel

/-- An ACCEPT waits for a transmit slot that claims SEAL. -/
theorem wit_StationsExchangeJoinAndLeave_accept : let b := stnSt { st := 2, uid := 77 }
    let s : State := { b with
      sched := { b.sched with image := some { img with slots := img.slots.map fun e => { e with res := 1 } } }
      canl := { b.canl with accepts := [{ slot := 9, ch := 2, uid := 77, cls := 9, ns := 5, nd := 6, prev := 1, ends := 11 }] }
      sec := { b.sec with sess := [(9, { kind := 1, st := 1, key := sealKey1, key2 := sealKey1 })] } }
    (linkRuns .canl s = true ∧ claimsSeal s = true ∧ claimsSeal b = false ∧ canReads s = [] ∧ chanSends (slotReached bCANL s) 2 = true ∧
      s.sec.snuffed = false) ∧
    chk (.transmitSlot .canl) s (fun t => t.canl.accepts == [] && t.out.any fun | .can 2 64 f => byteAt f.data 0 == 4 && f.data.length == 32 | _ => false) = true ∧
    chk (.transmitSlot .canl) { s with sched := b.sched } (fun t => t.canl.accepts.length == 1 && t.out == []) = true := by decide +kernel

theorem wit_StationsExchangeJoinAndLeave_receive : let m : MapEnt := { point := 5, frame := 0, output := false, off := 1, wire := 4, bitNo := 0 }
    let p := { tmpl1 with map := [m] }
    let s (miss : Byte) (got : List (Nat × Bytes)) := stnSt { st := 3, miss := miss, exs := [{ mfn := 6, num := 1, got := got }] } p
    linkRuns .canl (s 0 []) = true ∧ drives (s 0 []) = true ∧ (s 0 []).canl.ch = [] ∧ (6 : Nat) + p.ackwin = (s 0 []).sched.mfn.toNat ∧ inputsOf p = [m] ∧
    entryOf (s 0 []) 5 = some 0 ∧ inWindow (s 0 []) 18 (stageAddr 0) 16 true = true ∧
    chk (.receiveSlot .canl) (s 1 [(0, [1, 0x34, 0x12])]) (fun t => (stnGet t 9).miss == 0 && (stnGet t 9).st == 3 && (tblGet t.pimg.staging 0 {}).value == 0x1234 && (tblGet t.pimg.staging 0 {}).isNew) = true ∧
    chk (.receiveSlot .canl) (s 0 []) (fun t => (stnGet t 9).miss == 1 && (stnGet t 9).st == 4 && (tblGet t.pimg.staging 0 {}).qual == 1 && cnt t bCANL 6 == 1) = true ∧
    chk (.receiveSlot .canl) (s 1 []) (fun t => (stnGet t 9).st == 5 && (tblGet t.pimg.staging 0 {}).qual == 2) = true ∧
    chk (.receiveSlot .canl) (s 255 []) (fun t => (stnGet t 9).miss == 255) = true := by decide +kernel

def joinRec1 : JoinRec := { slot := 9, ch := 2, uid := 77, cls := 9, ns := 5, nd := 6, prev := 1, ends := 11 }
/-- What the joins need: the random source, and NETSEC. -/
def served (s : State) : State := { s with sec := { s.sec with drbgOk := true, netsec := some (cdata 32) } }

theorem wit_StationsExchangeJoinAndLeave_requests : let s := served (stnSt { st := 1 })
    let js := (List.range 16).map fun k => { joinRec1 with uid := BitVec.ofNat 64 (100 + k) }
    joinsServed s = true ∧ chanSends s 2 = true ∧ openSlot s 2 9 = some 9 ∧
    chk (.joinReq 2 1 9 77 5) s (fun t => (stnGet t 9).st == 2 && t.canl.joins.length == 1 && t.canl.joins.all (fun j => j.slot == 9 && j.uid == 77 && j.ends == 11) && t.out.any fun | .can 2 64 f => f.id == 0x101 && byteAt f.data 0 == 2 | _ => false) = true ∧
    chk (.joinReq 2 2 9 77 5) s (fun t => t.canl.joins == [] && t.out == []) = true ∧
    chk (.joinReq 2 1 9 77 5) (served (stnSt { st := 1 } tmpl1 {} [joinRec1])) (fun t => t.canl.joins == [joinRec1]) = true ∧
    chk (.joinReq 2 1 9 77 5) (served (stnSt { st := 1 } tmpl1 {} js)) (fun t => t.canl.joins == js && cnt t bCANL 9 == 1) = true ∧
    chk (.joinReq 2 1 9 77 5) (served (stnSt { st := 1 } { tmpl1 with uid := 77, cls := 8 })) (fun t => cnt t bCANL 9 == 1 && t.out.any fun | .can 2 64 f => u8 f.data 1 == 3 | _ => false) = true ∧
    chk (.joinReq 2 1 8 77 5) s (fun t => cnt t bCANL 7 == 1 && t.out.any fun | .can 2 64 f => u8 f.data 1 == 1 | _ => false) = true ∧
    chk (.joinReq 2 1 9 77 5) (served (stnSt { st := 3, uid := 77 })) (fun t => (stnGet t 9).st == 3 && t.canl.joins.length == 1) = true ∧
    chk (.joinReq 2 1 9 77 5) (stnSt { st := 1 }) (fun t => cnt t bCANL 9 == 1) = true := by decide +kernel

theorem wit_StationsExchangeJoinAndLeave_response : let s := served (stnSt { st := 2 } tmpl1 {} [joinRec1])
    let tag := BitVec.ofNat 128 (leNat (joinTag (stnSecret (cdata 32) 77 9) joinRec1))
    s.sec.netsec = some (cdata 32) ∧ s.sec.snuffed = false ∧
    chk (.response 2 9 77 tag) s (fun t => t.canl.joins == [] && (stnGet t 9).st == 3 && (stnGet t 9).uid == 77 && (sessGet t 9).kind == 1 && (sessGet t 9).fvTx == 0 && (srcGet t 201).pend && t.canl.accepts == [joinRec1] && t.out == []) = true ∧
    (let late : State := { s with sched := { s.sched with mfn := 12 } }
     joinOver s joinRec1 = false ∧ joinOver late joinRec1 = true ∧
     chk (.response 2 9 77 tag) late (fun t => t.canl.joins == [] && (stnGet t 9).st == 1 && cnt t bCANL 9 == 1) = true) ∧
    chk (.response 2 9 77 (tag + 1)) s (fun t => t.canl.joins == [] && (stnGet t 9).st == 1 && (sessGet t 9).kind == 0 && cnt t bCANL 8 == 1) = true := by decide +kernel

theorem wit_StationsExchangeJoinAndLeave_ends : let s := stnSt { st := 2 } tmpl1 {} [joinRec1]
    chk (.joinTimeout 9) s (fun t => t == s) = true ∧
    chk (.joinTimeout 9) { s with sched := { s.sched with mfn := 12 } } (fun t => t.canl.joins == [] && (stnGet t 9).st == 1 && cnt t bCANL 9 == 1) = true ∧
    (let z := sealSt 4
     let f : CanFrame := { fr 0x100 32 true true with data := [6, 0] ++ leBytes 2 9 ++ leBytes 8 77 ++ zeros 13 ++ leBytes 3 5 ++ zeros 4 }
     let g : CanFrame := { f with data := f.data.take 28 ++ sealTag sealKey1 f 9 1 5 }
     chanOn z 2 = true ∧ (tmplOf z 9).chan.toNat = 2 ∧ sealCheck (sessGet z 9) 9 g = some 5 ∧ admitted (stnGet z 9) = true ∧ sealCheck (sessGet z 9) 9 f = none ∧
     chk (.leave 2 g) z (fun t => (stnGet t 9).st == 1 && (sessGet t 9).kind == 0 && (stnGet t 9).uid == 0) = true ∧
     chk (.leave 2 f) z (fun t => (stnGet t 9).st == 3 && cnt t bCANL 4 == 1) = true) := by decide +kernel

/-! ### Meters, Ethernet and PTP -/

def mtr1 : MtrCfg := { secondary := false, paddr := 5, saddr := (cdata 8), period := 4, phase := 0, lossn := 2, mode0 := true, ctx := 0, map := [⟨0x02, 0x13, 0, 5, f1⟩] }
def mbusSt (m : MbMaster) (g : MtrCfg := mtr1) : State := { base with
  mbus := { cfg := [(0, { en := true, retry := 1, meters := [g] })], m := [(0, m)] }
  pimg := { npoint := 16, nstage := 1, working := [(5, { value := 0, typ := 7, owner := 19 })], staging := [(0, { point := 5 })] } }
/-- A response of address 5 with one record: DIF 02, VIF 13, 100. -/
def rspUd : Bytes := longFrame [0x08, 5, 0x78, 0x02, 0x13, 100, 0]

theorem wit_MetersAreReadAndLinkDescriptors_polls : let s := mbusSt {}
    linkRuns .mbus s = true ∧ drives s = true ∧ (mbCfg s 0).en = true ∧ (mbGet s 0).dueMfn ≠ some s.sched.mfn ∧ (mbGet s 0).due ++ mbDue s 0 = [0] ∧ mtrCfg s 0 0 = some mtr1 ∧
    chk (.transmitSlot .mbus) s (fun t => (mbGet t 0).state == 3 && (mbGet t 0).due == [] && t.out == [.mbus 0 [0x10, 0x7B, 5, 0x80, 0x16]]) = true ∧
    chk (.transmitSlot .mbus) (mbusSt { state := 3 }) (fun t => (mbGet t 0).due == [0] && t.out == []) = true ∧
    chk (.transmitSlot .mbus) (mbusSt {} { mtr1 with secondary := true }) (fun t => (mbGet t 0).state == 1 && t.out.length == 1) = true := by decide +kernel

theorem wit_MetersAreReadAndLinkDescriptors_responses : let s := mbusSt { state := 3 }
    let l := mbusSt { state := 3, tries := 1, mtr := [(0, { miss := 1 })] }
    frozenM s 19 = false ∧ (mbGet s 0).tries < (mbCfg s 0).retry ∧ (mbCfg l 0).retry ≤ (mbGet l 0).tries ∧
    chk (.mbusResponseTimeout 0) s (fun t => (mbGet t 0).tries == 1 && cnt t bMBUS 0 == 1 && t.out.length == 1) = true ∧
    chk (.rspUd 0 .collision) l (fun t => (mbGet t 0).state == 0 && cnt t bMBUS 2 == 1 && cnt t bMBUS 4 == 1 && (mtrGet t 0 0).st == 5 && (mbGet t 0).values.length == 1) = true ∧
    chk (.rspUd 0 (.frame rspUd false)) s (fun t => cnt t bMBUS 1 == 1) = true ∧
    longBody (rspUd.dropLast ++ [0]) = none ∧ chk (.rspUd 0 (.frame (rspUd.dropLast ++ [0]) true)) s (fun t => cnt t bMBUS 1 == 1) = true ∧
    chk (.rspUd 0 (.frame [0xE5] true)) (mbusSt { state := 1 }) (fun t => (mbGet t 0).state == 3) = true ∧
    longBody rspUd = some [0x08, 5, 0x78, 0x02, 0x13, 100, 0] ∧ mbAddrOk mtr1 [0x08, 5, 0x78, 0x02, 0x13, 100, 0] = true ∧
    chk (.rspUd 0 (.frame rspUd true)) s (fun t => (mbGet t 0).state == 0 && (mtrGet t 0 0).st == 3 && !(mtrGet t 0 0).fcb &&
      (mbGet t 0).values.map (·.value) == [some 0x4059000000000000]) = true := by decide +kernel

theorem wit_MetersAreReadAndLinkDescriptors_staged : let s (v : Option F64) := mbusSt { values := [{ point := 5, value := v, qual := 1, arr := 0 }] }
    entryOf (s none) 5 = some 0 ∧ inWindow (s none) 19 (stageAddr 0) 16 true = true ∧ linkRuns .mbus (s none) = true ∧ nanF f1 = false ∧
    chk (.receiveSlot .mbus) (s none) (fun t => (tblGet t.pimg.staging 0 {}).qual == 1 && !(tblGet t.pimg.staging 0 {}).isNew && (mbGet t 0).values == []) = true ∧
    chk (.receiveSlot .mbus) (s (some f1)) (fun t => (tblGet t.pimg.staging 0 {}).value == f1 && (tblGet t.pimg.staging 0 {}).isNew) = true := by decide +kernel

theorem wit_MetersAreReadAndLinkDescriptors_descriptors : let r (w f n : Nat) := desc 0x50 [(16, 1, w), (20, 4, f), (24, 4, n), (32, 8, 0x9000)]
    let e (k : Nat) := desc 0x51 [(16, 2, k)]
    let b (c : Nat) := desc 0x52 [(16, 1, c)]
    let s := stnSt { st := 3, uid := 77 } tmpl1 { errst := 2 }
    reachB 0x50 (r 0 1022 2) s = true ∧ reachB 0x51 (e 9) s = true ∧ reachB 0x52 (b 2) s = true ∧
    chk (.linkRead (r 0 1022 2)) s (fun t => ans (r 0 1022 2) stOK 0 t && t.out.any fun | .hostWrite 0x9000 x => x.length == 128 | _ => false) = true ∧
    chk (.linkRead (r 0 1023 2)) s (fun t => ans (r 0 1023 2) stRANGE 0 t && cnt t bCANL 11 == 1) = true ∧
    chk (.linkRead (r 2 39 1)) s (ans (r 2 39 1) stOK 0) = true ∧ chk (.linkRead (r 2 40 1)) s (ans (r 2 40 1) stRANGE 0) = true ∧
    chk (.linkRead (r 3 0 0)) s (ans (r 3 0 0) stRANGE 0) = true ∧
    chk (.linkEvict (e 1024)) s (ans (e 1024) stRANGE 0) = true ∧ chk (.linkEvict (e 8)) s (ans (e 8) stNOT_READY 0) = true ∧
    chk (.linkEvict (e 9)) s (fun t => (stnGet t 9).evicts == [e 9] && ans (e 9) stOK 0 (evictAsked t 9) && (stnGet (evictAsked t 9) 9).st == 1) = true ∧
    chk (.linkBuson (b 40)) s (ans (b 40) stRANGE 0) = true ∧ chk (.linkBuson (b 39)) s (ans (b 39) stNOT_READY 0) = true ∧
    chk (.linkBuson (b 2)) s (fun t => ans (b 2) stOK 0 t && (chGet t 2).errst == 3) = true := by decide +kernel

def rule1 (target : Nat) : EthRule := { etype := 0x88B5, udpp := 0, vid := 0, target := target, unctrl := false, le := false, lossmf := 0, map := [{ point := 5, frame := 0, output := false, off := 14, wire := 4, bitNo := 0 }] }
def ethCfg1 : EthCfg := { en := true, mac := [2, 0, 0, 0, 0, 1], rules := [rule1 2] }
def ethSt (q : EthPort) (g : EthCfg := ethCfg1) (dram : Tbl Byte := []) : State := { base with
  time := { base.time with tbc := 1000 }
  ethl := { cfg := [(3, g)], port := [(3, { q with pen := true, link := true })] }
  pimg := { npoint := 16, nstage := 1, working := [(5, { value := 0, typ := 3, owner := 20 })], staging := [(0, { point := 5 })] }
  dram := dram }
/-- A frame of `n` bytes with its FCS. -/
def ethFr (et n : Nat) (good : Bool := true) (dst : Byte := 2) : EthRx :=
  { bytes := [dst, 0, 0, 0, 0, 1, 2, 0, 0, 0, 0, 9] ++ beBytes 2 et ++ [0x12, 0x34] ++ zeros (n - 20), good := good, cap := 1, frac := 0 }

theorem wit_EthernetFramesAreTakenAndSent_received : let s := ethSt {}
    portUp s 3 = true ∧ dstOk ethCfg1 (ethFr 0x88B5 64).bytes = true ∧ ptpOf ethCfg1 (ethFr 0x88B5 64).bytes = none ∧ ruleMatch (rule1 2) (ethFr 0x88B5 64).bytes = true ∧
    chk (.ethFrameReceive 3 (ethFr 0x88B5 64 false)) s (fun t => cnt t bETHL 0 == 1 && t.ethl == s.ethl) = true ∧
    chk (.ethFrameReceive 3 (ethFr 0x88B5 63)) s (fun t => cnt t bETHL 1 == 1) = true ∧
    chk (.ethFrameReceive 3 (ethFr 0x88B5 1523)) s (fun t => cnt t bETHL 1 == 1) = true ∧
    chk (.ethFrameReceive 3 (ethFr 0x8808 64)) s (fun t => cnt t bETHL 9 == 1) = true ∧
    chk (.ethFrameReceive 3 (ethFr 0x88B5 64 true 4)) s (fun t => t.ethl == s.ethl) = true ∧
    chk (.ethFrameReceive 3 (ethFr 0x88B6 64)) s (fun t => (portGet t 3).rxq == [] && (portGet t 3).rxfrm == 1) = true ∧
    chk (.ethFrameReceive 3 (ethFr 0x88B5 64)) s (fun t => (portGet t 3).rxq.map (·.rule) == [0]) = true ∧
    chk (.ethFrameReceive 3 (ethFr 0x88B5 1522)) s (fun t => (portGet t 3).rxq.length == 1) = true ∧
    chk (.ethFrameReceive 3 (ethFr 0x88B5 64)) (ethSt {} { ethCfg1 with rules := [rule1 0] }) (fun t => (portGet t 3).rxq == []) = true ∧
    chk (.ethFrameReceive 3 (ethFr 0x88B5 64)) (ethSt {} { ethCfg1 with macsec := true }) (fun t => (portGet t 3).rxq == [] && cnt t bETHL 6 == 1) = true := by decide +kernel

theorem wit_EthernetFramesAreTakenAndSent_full : let x : EthItem := { rule := 0, bytes := List.replicate 1518 0, ts := 0, secured := false, arr := 0 }
    let s := ethSt { rxq := List.replicate 87 x }
    131072 < rxHeld (portGet s 3) + (ethFr 0x88B5 64).bytes.length ∧
    chk (.ethFrameReceive 3 (ethFr 0x88B5 64)) s (fun t => (portGet t 3).rxq.length == 87 && cnt t bETHL 2 == 1) = true := by decide +kernel

theorem wit_EthernetFramesAreTakenAndSent_slots : let x : EthItem := { rule := 0, bytes := (ethFr 0x88B5 64).bytes, ts := 0, secured := true, arr := 978 }
    let s := ethSt { rxq := [x] }
    let ring (own : Nat) : Tbl Byte := tblPutAll [] 0x1000 (leBytes 8 0x2000 ++ leBytes 2 40 ++ leBytes 2 own) 0
    let m (own : Nat) := ethSt { rxq := [x], rxbase := 0x1000, rxsize := 2 } { ethCfg1 with rules := [rule1 1] } (ring own)
    linkRuns .ethl s = true ∧ portsOn s = [3] ∧ x.arr.toNat + 22 ≤ s.time.tbc.toNat ∧ entryOf s 5 = some 0 ∧ inWindow s 20 (stageAddr 0) 16 true = true ∧
    inWindow s 20 0x1000 32 true = true ∧
    chk (.receiveSlot .ethl) s (fun t => (tblGet t.pimg.staging 0 {}).value == 0x1234 && (portGet t 3).rxq == []) = true ∧
    chk (.receiveSlot .ethl) (m 1) (fun t => u16 (dramRead t 0x1000 32) 8 == 40 && u16 (dramRead t 0x1000 32) 10 == 12 && (srcGet t 283).pend && dramRead t 0x2000 2 == [2, 0]) = true ∧
    chk (.receiveSlot .ethl) (m 0) (fun t => t.dram == ring 0 && cnt t bETHL 3 == 1) = true := by decide +kernel

theorem wit_EthernetFramesAreTakenAndSent_transmit : let u : EthTpl := { en := true, udpcsum := false, le := false, hdr := (cdata 8), len := 8, period := 4, phase := 0, map := [] }
    let s (u : EthTpl) := ethSt {} { ethCfg1 with tpls := [u] }
    let ring (own : Nat) : Tbl Byte := tblPutAll [] 0x1000 (leBytes 8 0x2000 ++ leBytes 2 2 ++ leBytes 2 own) 0
    let m (own : Nat) := ethSt { txbase := 0x1000, txsize := 1 } ethCfg1 (ring own)
    linkRuns .ethl (s u) = true ∧ portsOn (s u) = [3] ∧ inWindow (m 1) 20 0x2000 2 false = true ∧
    chk (.transmitSlot .ethl) (s u) (fun t => (portGet t 3).txData.map (·.bytes) == [(cdata 8)]) = true ∧
    chk (.transmitSlot .ethl) (s { u with phase := 1 }) (fun t => (portGet t 3).txData == []) = true ∧
    chk (.transmitSlot .ethl) (m 3) (fun t => (portGet t 3).txMc1 == [{ bytes := [0, 0], desc := some (0x1000, true) }]) = true ∧
    chk (.transmitSlot .ethl) (m 0) (fun t => (portGet t 3).txMc1 == []) = true := by decide +kernel

theorem wit_EthernetFramesAreTakenAndSent_sent : let a : EthTx := { bytes := [1] }
    let b : EthTx := { bytes := [2] }
    let c : EthTx := { bytes := [3] }
    let ok (q : EthPort) (n : Byte) := chk (.ethFrameTransmit 3 1000 0) (ethSt q) (fun t => t.out == [] && (portGet t 3).txfrm == 0 &&
      (portGet t 3).wire.any fun w => w.bytes == n :: zeros 59 && w.ends == 1512)
    let w (x : EthTx) : EthWire := { tx := x, bytes := x.bytes ++ zeros 59, ts := 0x12345, steps := 0, start := 1000, ends := 1512 }
    let mc1 : EthTx := { c with desc := some (0x1000, true) }
    let u := desc 0x59 [(16, 1, 3)]
    portUp (ethSt {}) 3 = true ∧ ok { txPair := [a], txData := [b] } 1 = true ∧ ok { txData := [b], txMc1 := [c] } 2 = true ∧ ok { txMc1 := [c] } 3 = true ∧
    chk (.ethFrameTransmit 3 1000 0) (ethSt {}) (fun t => t == ethSt {}) = true ∧
    chk (.ethFrameTransmit 3 1000 0) (started u (ethSt { wire := some (w mc1), drains := [u] })) (fun t => t.out == [.eth 3 (3 :: zeros 59)] &&
      (portGet t 3).wire == none && (portGet t 3).txfrm == 1 && (portGet t 3).txoct == 64 && (portGet t 3).back == [⟨0x1000, some 0x12345⟩] && ans u stOK 0 t) = true ∧
    (∀ kv ∈ (ethSt { wire := some (w mc1) }).ethl.port, ∀ x, kv.2.wire = some x → (ethSt {}).time.tbc.toNat < x.ends.toNat) ∧
    chk (.ethLinkDown 3) { ethSt { wire := some (w mc1) } with time := { tbc := 1040 } } (fun t => t.out == [.ethCut 3 [3, 0, 0, 0, 0]] &&
      (portGet t 3).txfrm == 0 && (portGet t 3).wire == none && (portGet t 3).back == [⟨0x1000, none⟩] && cnt t bETHL 13 == 1 && cnt t bETHL 10 == 0) = true ∧
    chk (.ethPort u) (ethSt { wire := some (w c) }) (fun t => (portGet t 3).drains == [u] && !(portGet t 3).pen && t.hif.waiting == []) = true ∧
    chk (.transmitSlot .ethl) (ethSt { back := [⟨0x1000, some 0x10005⟩] } ethCfg1 (tblPutAll [] 0x1000 (zeros 10 ++ [3]) 0)) (fun t =>
      u16 (dramRead t 0x1000 32) 10 == 2 && slice (dramRead t 0x1000 32) 16 12 == ringTs 0x10005 && (srcGet t 299).pend && (portGet t 3).back == []) = true := by
  constructor
  · decide +kernel
  refine ⟨by decide +kernel, by decide +kernel, by decide +kernel, by decide +kernel, by decide +kernel, ?_, by decide +kernel⟩
  intro kv h x hx
  simp only [ethSt, List.mem_singleton] at h
  subst h
  cases hx
  decide

/-- A PTP message of type `t` (IEEE 1588-2019): sequenceId 5, correction, flags, timestamp, target port. -/
def ptpm (t len : Nat) (two : Bool) (corr ns : Nat) (tgt : Bytes) : Bytes :=
  slice ([BitVec.ofNat 8 t, 2] ++ beBytes 2 len ++ [0, 0, if two then 2 else 0, 0] ++ beBytes 8 corr ++ zeros 4 ++ cdata 10 ++ beBytes 2 5 ++ [0, 0] ++ zeros 6 ++ beBytes 4 ns ++ tgt) 0 len
def ptpSt (x : PtpRegs) (g : EthCfg := { ethCfg1 with ptp := true }) : State := ethSt { ptp := x } g
def rx1 (m : Bytes) (ns : Nat) : PtpRx := { msg := m, cap := BitVec.ofNat 64 ns, frac := 0 }

theorem wit_EthernetFramesAreTakenAndSent_ptp : let x : EthTx := { bytes := cdata 12 ++ [0x88, 0xF7] ++ ptpm 0 44 false 0 0 [], ptp := some mSync }
    let s := ethSt { txPtp := [x] } { ethCfg1 with ptp := true }
    firstPtp (portGet s 3).txPtp = some x ∧ x.desc = none ∧ ptpOff 0 x.bytes + 44 ≤ x.bytes.length ∧
    (∀ y ∈ [x], ptpRank (x.ptp.getD 15) ≤ ptpRank (y.ptp.getD 15)) ∧
    chk (.ethFrameTransmit 3 1000 4) s (fun t => (portGet t 3).txPtp == [] && (portGet t 3).wire.any fun w =>
      mTime (w.bytes.drop 14) + mCorr (w.bytes.drop 14) == w.ts.toNat && mCorr (w.bytes.drop 14) == w.ts.toNat % 65536 && w.ts == stampOf s 1000 4) = true ∧
    (let y : EthTx := { x with ptp := some mPdelayResp, rxSteps := 1 }
     chk (.ethFrameTransmit 3 1000 0) (ethSt { txPtp := [y] } { ethCfg1 with ptp := true }) (fun t => (portGet t 3).txPtp == [] && (portGet t 3).wire == none) = true) := by
  decide +kernel

theorem wit_EthernetFramesAreTakenAndSent_links : let s := ethSt {}
    let z : State := { s with ethl := { s.ethl with port := [(3, { pen := true })] } }
    chk (.ethLinkDown 3) s (fun t => !(portGet t 3).link && (srcGet t 203).pend && cnt t bETHL 10 == 1) = true ∧
    chk (.ethLinkDown 3) z (fun t => t.ethl == z.ethl) = true ∧ chk (.ethLinkUp 3) z (fun t => (portGet t 3).link && (srcGet t 203).pend) = true ∧
    (let r (w p : Nat) := desc 0x58 [(16, 1, w), (17, 1, p), (32, 8, 0x9000)]
     let e (p v : Nat) := desc 0x59 [(16, 1, p), (17, 1, v)]
     reachB 0x58 (r 1 15) s = true ∧ reachB 0x59 (e 3 0) s = true ∧
     chk (.ethRead (r 1 15)) s (fun t => ans (r 1 15) stOK 0 t && t.out.any fun | .hostWrite 0x9000 x => x.length == 64 | _ => false) = true ∧
     chk (.ethRead (r 2 15)) s (ans (r 2 15) stRANGE 0) = true ∧ chk (.ethRead (r 0 16)) s (ans (r 0 16) stRANGE 0) = true ∧
     chk (.ethPort (e 3 2)) s (ans (e 3 2) stRANGE 0) = true ∧ chk (.ethPort (e 2 1)) s (ans (e 2 1) stNOT_READY 0) = true ∧
     chk (.ethPort (e 3 0)) s (fun t => ans (e 3 0) stOK 0 t && !(portGet t 3).pen) = true) := by decide +kernel

/-- The incremental update of a UDP checksum (chapter 11): 0x2E78 from 0x1A2B where 0x0000 becomes 0xEBB2. -/
theorem test_udp_checksum_update : updSum 0x1A2B [0, 0] (beBytes 2 0xEBB2) = 0x2E78 := by decide +kernel

theorem wit_PtpMessagesArePairedAndAnswered_sync : let s := ptpSt { pstate := 9, e2e := some (20 * 65536, 0) }
    let p := ptpSt { pstate := 9, p2p := some (15 * 65536, 0) } { ethCfg1 with ptp := true, p2p := true }
    let m := rx1 (ptpm 0 44 false 0 100 []) 130
    let two := rx1 (ptpm 0 44 true 0 0 []) 130
    let w := ptpSt { pstate := 9, e2e := some (20 * 65536, 0), syncWait := some (5, 0, 130 * 65536, 0) }
    portUp s 3 = true ∧ malformed m.msg = false ∧ malformed (ptpm 0 43 false 0 0 []) = true ∧ isSlave (ptpGet s 3) = true ∧ mTwoStep two.msg = true ∧
    chk (.sync 3 (rx1 (ptpm 0 43 false 0 0 []) 1)) s (fun t => cnt t bETHL 8 == 1) = true ∧
    chk (.sync 3 m) s (fun t => (ptpGet t 3).mpd == BitVec.ofNat 64 (25 * 65536) && (ptpGet t 3).offset == BitVec.ofNat 64 (5 * 65536) && !(ptpGet t 3).nompd && (ptpGet t 3).seq == 5) = true ∧
    chk (.sync 3 m) p (fun t => (ptpGet t 3).mpd == BitVec.ofNat 64 (15 * 65536) && (ptpGet t 3).offset == BitVec.ofNat 64 (15 * 65536)) = true ∧
    chk (.sync 3 m) (ptpSt { pstate := 9 }) (fun t => (ptpGet t 3).nompd) = true ∧
    chk (.sync 3 two) s (fun t => (ptpGet t 3).syncWait == some (5, 0, 130 * 65536, 0)) = true ∧
    chk (.followUp 3 (rx1 (ptpm 8 44 false 0 100 []) 0)) w (fun t => (ptpGet t 3).mpd == BitVec.ofNat 64 (25 * 65536) && (ptpGet t 3).syncWait == none) = true ∧
    chk (.followUp 3 (rx1 (ptpm 8 44 false 0 100 []) 0)) s (fun t => cnt t bETHL 8 == 1) = true ∧
    chk (.followUp 3 (rx1 (ptpm 8 44 false 0 100 []) 0)) (ptpSt { pstate := 9, syncWait := some (6, 0, 0, 0) }) (fun t => cnt t bETHL 8 == 1) = true := by decide +kernel

theorem wit_PtpMessagesArePairedAndAnswered_delays : let id (s : State) := portId s 3
    let w : EthTx := { bytes := [], ptp := some mDelayResp }
    let ms := ptpSt { pstate := 6 }
    let full := ethSt { ptp := { pstate := 6 }, txPtp := List.replicate 64 w } { ethCfg1 with ptp := true }
    let sl := ptpSt { pstate := 9, dreq := some (5, 70 * 65536, 0) }
    let pd := ptpSt { pstate := 9, pdreq := some (5, 100 * 65536, 0) }
    let pf := ptpSt { pstate := 9, pdreq := some (5, 100 * 65536, 0), pdWait := some (5, -(120 * 65536), 200 * 65536, 0) }
    respWaiting (portGet full 3) = 64 ∧
    chk (.delayReq 3 (rx1 (ptpm 1 44 false 0 0 []) 9)) ms (fun t => (portGet t 3).txPtp.map (·.ptp) == [some mDelayResp]) = true ∧
    chk (.delayReq 3 (rx1 (ptpm 1 44 false 0 0 []) 9)) full (fun t => cnt t bETHL 8 == 1) = true ∧
    chk (.delayResp 3 (rx1 (ptpm 9 54 false 0 100 (id sl)) 0)) sl (fun t => (ptpGet t 3).e2e == some (30 * 65536, 0) && (ptpGet t 3).dreq == none) = true ∧
    chk (.pdelayReq 3 (rx1 (ptpm 2 54 false 0 0 []) 9)) ms (fun t => (portGet t 3).txPtp.map (·.ptp) == [some mPdelayResp]) = true ∧
    chk (.pdelayReq 3 (rx1 (ptpm 2 54 false 0 0 []) 9)) (ptpSt { pstate := 3 }) (fun t => (portGet t 3).txPtp == []) = true ∧
    chk (.pdelayResp 3 (rx1 (ptpm 3 54 false (20 * 65536) 0 (id pd)) 200)) pd (fun t => (ptpGet t 3).p2p == some (40 * 65536, 0) && (ptpGet t 3).pdreq == none) = true ∧
    chk (.pdelayResp 3 (rx1 (ptpm 3 54 true 0 120 (id pd)) 200)) pd (fun t => (ptpGet t 3).pdWait == some (5, -(120 * 65536), 200 * 65536, 0)) = true ∧
    chk (.pdelayRespFollowUp 3 (rx1 (ptpm 10 54 false 0 140 (id pf)) 0)) pf (fun t => (ptpGet t 3).p2p == some (40 * 65536, 0) && (ptpGet t 3).pdWait == none) = true ∧
    chk (.pdelayRespFollowUp 3 (rx1 (ptpm 10 54 false 0 140 (id pd)) 0)) pd (fun t => cnt t bETHL 8 == 1) = true ∧
    chk (.announce 3 (rx1 (ptpm 11 64 false 0 0 []) 0)) sl (fun t => (ptpGet t 3).announces.length == 1) = true := by decide +kernel

theorem wit_PtpMessagesArePairedAndAnswered_intervals : let ms := ptpSt { pstate := 6, seqSync := 7, seqAnn := 8 }
    let sl := ptpSt { pstate := 9, seqReq := 7 }
    let p := ptpSt { seqPdreq := 7 } { ethCfg1 with ptp := true, p2p := true }
    chk (.syncInterval 3) ms (fun t => (portGet t 3).txPtp.map (·.ptp) == [some mSync] && (ptpGet t 3).seqSync == 8) = true ∧
    chk (.announceInterval 3) ms (fun t => (ptpGet t 3).seqAnn == 9) = true ∧
    chk (.syncInterval 3) sl (fun t => (portGet t 3).txPtp == []) = true ∧
    chk (.delayReqInterval 3) sl (fun t => (portGet t 3).txPtp.map (·.ptp) == [some mDelayReq] && (ptpGet t 3).seqReq == 8) = true ∧
    chk (.pdelayReqInterval 3) p (fun t => (portGet t 3).txPtp.map (·.ptp) == [some mPdelayReq] && (ptpGet t 3).seqPdreq == 8) = true ∧
    chk (.followUpTimeout ⟨3, false⟩) (ptpSt { syncWait := some (5, 0, 0, 0) }) (fun t => (ptpGet t 3).syncWait == none && cnt t bETHL 8 == 1) = true ∧
    chk (.followUpTimeout ⟨3, true⟩) (ptpSt { pdWait := some (5, 0, 0, 0) }) (fun t => (ptpGet t 3).pdWait == none && cnt t bETHL 8 == 1) = true := by decide +kernel

/-! ### An image that the contract checker accepts -/

/-- An image with two HIF slots, two windows and a DRAM reservation, under a root whose key is made for it. -/
def okImg : Bytes :=
    [66, 82, 78, 78, 1, 0, 128, 0, 0, 3, 0, 0, 6, 0, 0, 0, 1] ++ zeros 23 ++ [64, 66, 15, 0, 4, 0, 0, 0, 16, 39, 0, 0, 32, 78] ++ zeros 8 ++ [2, 0, 1] ++
    zeros 63 ++ [1, 0, 0, 0, 0, 1, 0, 0, 64, 0, 0, 0, 94, 24, 7, 26, 3, 0, 0, 0, 64, 1, 0, 0, 64, 0, 0, 0, 151, 90, 4, 53, 4, 0, 0, 0, 128, 1, 0, 0, 24,
    0, 0, 0, 82, 155, 139, 193, 5, 0, 0, 0, 192, 1, 0, 0, 16, 0, 0, 0, 234, 154, 112, 66, 16, 0, 0, 0, 0, 2, 0, 0, 128, 0, 0, 0, 195, 90, 29, 160, 255, 0,
    0, 0, 128, 2, 0, 0, 128] ++ zeros 39 ++ [2] ++ zeros 15 ++ [160, 134, 1, 0, 208, 7, 0, 0, 1, 0, 0, 0, 0, 0, 17] ++ zeros 9 ++ [192, 39, 9, 0, 208, 7,
    0, 0, 1, 0, 0, 0, 0, 0, 17] ++ zeros 9 ++ [2] ++ zeros 23 ++ [255, 255] ++ zeros 6 ++ [1, 3] ++ zeros 8 ++ [1, 0, 0, 0, 0, 0, 255, 255, 1, 0, 0, 0, 0,
    0, 17, 3] ++ zeros 6 ++ [1] ++ zeros 15 ++ [17, 0, 1, 0, 1] ++ zeros 107 ++ [80, 73, 77, 71, 1] ++ zeros 123
/-- A signature whose r and s are both the digest, and the key under which it verifies. -/
def okSig : Bytes := let r := beBytes 48 0x15284f93fadc965df8fabbe2f3305f7c530948025127bdb51425c9f8a3b306c07a2ea6f9d9b032bb2d80a9a0280a7ad8
  r ++ r ++ zeros 32
def okRoot : Bytes := 4 :: beBytes 96 0x40fc728aad2dddd50c81d5ef189b241612bd98b53423b7cfd5f89c88fcadc8d5e4625cfa2de74cab4349acc565b5279054dce001a6d228455751b29ad8b0198c54a97427b3d7cf82dbeac997d453518518e1924dcefdc76fb1d55bf177255b41
def rooted (key : Bytes) (s : State) : State := { s with sec := { s.sec with roots := [(0, { key := key, installed := true, checked := true })] } }
def imgSt : State := let s := rooted okRoot base
  { s with sys := { s.sys with gib := 4, stage := 3, dirImgA := 0, dirImgB := 0x1000 }, sched := {} }

theorem wit_AcceptedImagesHaveNoConflicts : (checkImage imgSt true (okImg ++ okSig)).1 = 0 ∧ (parseImage (okImg ++ okSig)).slots.length = 2 ∧
    (parseImage (okImg ++ okSig)).wins.length = 2 := by decide +kernel

/-! ### Security -/

def okRecKey : Bytes := 4 :: beBytes 96 0xea2b25a3096346b57f8c9041eed622fdfff80747e58f38ed05d41ae86074b7ae05fea2afa19baef2eb5d3313e25c0e908b2850d46d75efd4130c025678042c60de1e50c606b8342be02bfb124451f4f25a72d36372d31ac935e5bea5ca633b8c
def okRec : Bytes := let r := beBytes 48 0x1a3e87dee35bb0715864f1131e8d5ad2ca8c4a7f7ea70223adee529c370bf60317786c93c70ebce1b645576a7c007fad
  [79, 83, 71, 78] ++ zeros 12 ++ [3] ++ zeros 15 ++ [110] ++ zeros 15 ++ [1] ++ zeros 7 ++ [5] ++ zeros 39 ++ r ++ r
def blob1Key : Bytes := 4 :: beBytes 96 0x39cb0e1b866deb137701d1b9d7f504335818fd98e99c7d9c2b5720615634cdb794391ea40a5d8d2e8e0c01f4960f73f3870b049ccc3e7ba2c90cc21e3502e2ca3bac34c23441f11daece95c516cf2244ef3e953872e92c49685ed2f80ef43cde
def blob1 : Bytes := let r := beBytes 48 0x196e9ecd9fec96f9611040b9d49815d7f673427ac33b6837d4cd6f9c747af88771357ea94e78c0d6a114d81fd13e0a9f
  [75, 66, 76, 66, 1] ++ zeros 11 ++ [2] ++ zeros 15 ++ ecBytes (some g384) ++ zeros 31 ++ [35, 223, 180, 231, 235, 0, 155, 185, 41, 160, 221, 206, 164,
    234, 117, 53, 207, 12, 1, 178, 250, 2, 119, 37, 122, 49, 239, 224, 85, 244, 92, 47, 242, 18, 50, 254, 195, 242, 149, 28, 70, 19, 162, 89, 203, 198,
    250, 123] ++ r ++ r
def blob2Key : Bytes := 4 :: beBytes 96 0xd9caeb2beea97570a1094deb3a9bdba79887c9f10e516695b3c55e2ce9a5e2aa8a9451ace481ab21089a1a016659269c65288329501c0d3084b5f2acf3a29f9ed4a045543657871746054866376694d520d113c97b4ffee555a8a5fea24cc0df
def blob2 : Bytes := let r := beBytes 48 0xc9d447dac30a9c51f5c68cc467007bde0f950f109fc11402bf1f72d51ac31222cfa45e05b566a4debf677ea4b0ad0cca
  [75, 66, 76, 66, 2] ++ zeros 11 ++ [2] ++ zeros 15 ++ ecBytes (some g384) ++ zeros 31 ++ [35, 223, 180, 231, 235, 0, 155, 185, 41, 160, 221, 206, 164,
    234, 117, 53, 207, 12, 1, 178, 250, 2, 119, 37, 122, 49, 239, 224, 85, 244, 92, 47, 6, 217, 108, 181, 213, 117, 159, 69, 199, 106, 56, 42, 17, 166,
    113, 204] ++ r ++ r
def blob5Key : Bytes := 4 :: beBytes 96 0xd0a3890e3413a7d7d8bb9670b8ac94641c17c27a3aa127e0caf0c8b1c9b257973a0bb791065644a2fe633b09fdab22f0a7eae78199e9a1a202eef6a4a93450a4239d6ef2966319a3d7952a844e8a39e0576fed270c4a205d2db40c9f76894c26
def blob5 : Bytes := let r := beBytes 48 0xea03ad4bd2bfe2caf8c603e96a3ef6639b3569ce7575d14212b1e8daee12694999baec9a3ba0f5eb36d3a2d9e8f804a0
  [75, 66, 76, 66, 5, 0, 6, 4] ++ zeros 8 ++ [2] ++ zeros 7 ++ [255] ++ zeros 7 ++ ecBytes (some g384) ++ zeros 31 ++ [35, 223, 180, 231, 235, 0, 155,
    185, 41, 160, 221, 206, 164, 234, 117, 53, 207, 12, 1, 178, 250, 2, 119, 37, 122, 49, 239, 224, 85, 244, 92, 47, 99, 6, 186, 125, 213, 153, 37, 91,
    13, 174, 13, 40, 38, 7, 12, 168] ++ r ++ r

/-- A record or blob that waits for MC0, of a descriptor in progress. -/
def secDesc (b : Bytes) : HostDesc := { desc 0x6A [] b with signed := none }
def verifSt (key b : Bytes) (blob : Bool) (s : State := base) : State :=
  let u := started (secDesc b) s
  rooted key { u with sec := { u.sec with verif := [⟨secDesc b, blob⟩], dxk := some 1, noSecret := false } }

theorem wit_RecordsBlobsSessionsAndTamper_record : let s := rooted okRecKey (started (secDesc okRec) base)
    let z : State := { s with sec := { s.sec with verif := [⟨secDesc okRec, false⟩] } }
    let e := innerDesc (secDesc okRec)
    secDesc okRec ∈ (ringGet z 0).started ∧ signedFail z okRec = none ∧ dOp e = 0x6E ∧ d8 e 16 = 1 ∧ reservedOk e = true ∧
    (ringGet z 0).classMask.getLsbD (classRow 0x6E) = true ∧ z.sec.fwFloor.toNat ≤ d64 e 24 ∧
    chk .signatureVerification z (fun t => ans (secDesc okRec) stOK 0 t && t.sec.ocnt == 3 && t.sec.fwFloor == 5) = true := by decide +kernel
theorem wit_RecordsBlobsSessionsAndTamper_failed : let s := verifSt okRecKey (okRec.set 0 0) false
    let o := verifSt okRecKey okRec false
    let z : State := { o with sec := { o.sec with ocnt := 3 } }
    signedFail s (okRec.set 0 0) = some 1 ∧ signedFail z okRec = some 2 ∧ blobFail (verifSt blob1Key okRec true) okRec = some 1 ∧
    chk .signatureVerification s (fun t => ans (secDesc (okRec.set 0 0)) stAUTH_FAIL 0 t && cnt t bSEC 1 == 1 && t.sec.verif == []) = true := by decide +kernel
theorem wit_RecordsBlobsSessionsAndTamper_netsec : let s := verifSt blob1Key blob1 true
    blobFail s blob1 = none ∧ blobSecret s blob1 = some (cdata 32) := by decide +kernel
theorem wit_RecordsBlobsSessionsAndTamper_pairsec : let s := verifSt blob2Key blob2 true
    blobFail s blob2 = none ∧ blobSecret s blob2 = some (cdata 32) := by decide +kernel
theorem wit_RecordsBlobsSessionsAndTamper_operator : let s := verifSt blob5Key blob5 true
    u16 blob5 6 = 1030 ∧ blobFail s blob5 = none ∧ blobSecret s blob5 = some (cdata 32) := by decide +kernel
/-- What a verified secret installs, by kind. -/
theorem test_blob_installs : let s := verifSt blob5Key blob5 true
    let z (k : Byte) : State := sessPut s 1030 { kind := k, st := 1 }
    ans (secDesc blob1) stOK 0 (blobInstall (secDesc blob1) (cdata 32) (started (secDesc blob1) base)) = true ∧
    (blobInstall (secDesc blob2) (cdata 32) s).sec.pairsec = some (cdata 32) ∧
    (sessGet (blobInstall (secDesc blob5) (cdata 32) s) 1030).rights = 0xFF ∧ (sessGet (blobInstall (secDesc blob5) (cdata 32) (z 5)) 1030).uses = 0 ∧
    ans (secDesc blob5) stBUSY 0 (blobInstall (secDesc blob5) (cdata 32) (z 2)) = true ∧
    ans (secDesc blob5) stNOT_READY 0 (blobInstall (secDesc blob5) (cdata 32) { s with sec := { s.sec with noSecret := true } }) = true := by decide +kernel

theorem wit_RecordsBlobsSessionsAndTamper_tamper : let s : State := { base with sec := { base.sec with dik := some 5, tampCfg := 0x100000, drbgOk := true } }
    tampArmed s 8 = true ∧ tampArmed s 7 = false ∧
    chk (.tamperEvent 8) s (fun t => t.sec.dik == none && t.sec.snuffed && t.sec.tampSt == 0x100 && cnt t bSEC 3 == 1 && (srcGet t 208).pend) = true ∧
    chk (.tamperEvent 7) s (fun t => t.sec == s.sec) = true ∧
    chk .drbgHealthFailure s (fun t => !t.sec.drbgOk && cnt t bSEC 4 == 1) = true ∧ chk .drbgHealthFailure base (fun t => cnt t bSEC 4 == 0) = true := by
  decide +kernel

theorem wit_RecordsBlobsSessionsAndTamper_debug : let s (c : W32) (dbg : Bool) : State := { base with
      cell := { eng := [(0, { data := [(256, 9)] })] }
      sec := { base.sec with debug := dbg, dbgCtl := c, dbgAddr := 256 } }
    blkOff (s 2 true) bSEC = false ∧ (s 2 true).sec.dbgCtl.toNat % 16 = 2 + 0 ∧
    chk (.dbgdata .mc0 none) (s 2 false) (fun t => t.out == [.regRead .mc0 0x100194 0, .regRead .mc0 0x100190 0]) = true ∧
    chk (.dbgdata .mc0 (some 5)) (s 2 false) (fun t => t.cell == (s 2 false).cell) = true ∧
    chk (.dbgdata .mc0 none) (s 2 true) (fun t => t.out == [.regRead .mc0 0x100194 0, .regRead .mc0 0x100190 9]) = true ∧
    chk (.dbgdata .mc0 (some 5)) (s 2 true) (fun t => cellLoad (engGet t 0) 256 8 == 5) = true := by decide +kernel

theorem wit_RecordsBlobsSessionsAndTamper_reads : let r (w f n : Nat) := desc 0x69 [(16, 1, w), (20, 4, f), (24, 4, n), (32, 8, 0x9000)]
    let a := desc 0x68 [(48, 8, 0x9000)]
    let s : State := { base with sec := { base.sec with sess := [(1030, { kind := 5, st := 1, ref := 0x406, uses := 3 })] } }
    let z : State := { base with sec := { base.sec with dik := some 5, dxk := some 6, drbgOk := true } }
    reachB 0x69 (r 1 0 1) s = true ∧ reachB 0x68 a s = true ∧ z.sec.snuffed = false ∧
    chk (.secAttest a) s (fun t => ans a stNOT_READY 0 t && cnt t bSEC 7 == 1) = true ∧
    chk (.secRead (r 1 1030 1)) s (fun t => ans (r 1 1030 1) stOK 0 t && t.out == [.hostWrite 0x9000 ([6, 4, 16, 5, 3, 0, 0, 0] ++ zeros 8)]) = true ∧
    chk (.secRead (r 1 2047 1)) s (ans (r 1 2047 1) stOK 0) = true ∧ chk (.secRead (r 1 2048 1)) s (ans (r 1 2048 1) stRANGE 0) = true ∧
    chk (.secRead (r 2 3 1)) s (ans (r 2 3 1) stOK 0) = true ∧ chk (.secRead (r 2 4 1)) s (ans (r 2 4 1) stRANGE 0) = true ∧
    chk (.secRead (r 4 0 0)) s (ans (r 4 0 0) stRANGE 0) = true ∧ chk (.secRead (r 0 0 0)) s (ans (r 0 0 0) stNOT_READY 0) = true := by decide +kernel

theorem wit_RecordsBlobsSessionsAndTamper_sessions : let x := desc 0x6A [(32, 8, 0x8000)] okRec
    let r (k : Nat) := desc 0x6C [(16, 2, k)]
    let u : HostDesc := { desc 0x6C [(4, 2, 1030), (6, 2, 3), (16, 2, 1030)] with signed := none }
    let s : State := { base with sec := { base.sec with sess := [(9, { kind := 1, st := 1 }), (1030, { kind := 5, st := 1 })] } }
    reachB 0x6C (r 1030) s = true ∧ reachB 0x6A x s = true ∧ reachB 0x6B { x with bytes := 0x6B :: x.bytes.drop 1 } s = true ∧
    chk (.secSigned x) s (fun t => t.sec.verif == [⟨x, false⟩]) = true ∧
    chk (.secRetire (r 2048)) s (ans (r 2048) stRANGE 0) = true ∧ chk (.secRetire (r 2047)) s (ans (r 2047) stNOT_READY 0) = true ∧
    chk (.secRetire (r 9)) s (ans (r 9) stREFUSED 0) = true ∧
    chk (.secRetire (r 1030)) s (fun t => ans (r 1030) stOK 0 t && (sessGet t 1030).kind == 0) = true ∧
    (effSecRetire u (started u s)).hif.waiting.map (·.retire) = [some 1030] := by decide +kernel

theorem wit_RecordsBlobsSessionsAndTamper_roots : let key := okRoot
    let r (op k : Nat) := desc 0x6D ([(16, 1, op), (17, 1, k)] ++ ((sha384 key).take 32).zipIdx.map fun p => (32 + p.2, 1, p.1.toNat)) key
    let s := rooted key base
    let z : State := { s with sec := { s.sec with roots := s.sec.roots ++ [(1, { key := key, installed := true, checked := true })] } }
    reachB 0x6D (r 0 1) s = true ∧
    chk (.secRoot (r 0 1)) s (fun t => ans (r 0 1) stOK 0 t && rootUsable (rootGet t 1)) = true ∧
    chk (.secRoot (r 2 1)) s (ans (r 2 1) stRANGE 0) = true ∧ chk (.secRoot (r 0 4)) s (ans (r 0 4) stRANGE 0) = true ∧
    chk (.secRoot (r 0 0)) s (ans (r 0 0) stREFUSED 0) = true ∧ chk (.secRoot (r 1 0)) s (ans (r 1 0) stREFUSED 0) = true ∧
    chk (.secRoot (r 1 0)) z (fun t => ans (r 1 0) stOK 0 t && (rootGet t 0).revoked) = true := by decide +kernel

theorem wit_RecordsBlobsSessionsAndTamper_floors : let f (w v : Nat) := desc 0x6E [(16, 1, w), (24, 8, v)]
    let c (w v : Nat) := desc 0x6F [(16, 1, w), (24, 4, v)]
    let s : State := { base with sched := { base.sched with rbFloor := 4 }, sec := { base.sec with fwFloor := 4, tampSt := 1, tampLock := true, tampArm := true } }
    let z : State := { base with sec := { base.sec with drbgOk := true } }
    reachB 0x6E (f 0 4) s = true ∧ reachB 0x6F (c 0 0) s = true ∧
    chk (.secFloor (f 0 4)) s (fun t => ans (f 0 4) stOK 0 t && t.sched.rbFloor == 4) = true ∧ chk (.secFloor (f 0 3)) s (ans (f 0 3) stRANGE 0) = true ∧
    chk (.secFloor (f 1 9)) s (fun t => ans (f 1 9) stOK 0 t && t.sec.fwFloor == 9) = true ∧ chk (.secFloor (f 1 3)) s (ans (f 1 3) stRANGE 0) = true ∧
    chk (.secFloor (f 2 9)) s (ans (f 2 9) stRANGE 0) = true ∧
    chk (.secCtl (c 0 0)) s (fun t => ans (c 0 0) stOK 0 t && t.sec.debugReq) = true ∧ chk (.secCtl (c 1 0)) s (fun t => t.sec.tampSt == 0) = true ∧
    chk (.secCtl (c 2 0)) s (fun t => !t.sec.tampLock && !t.sec.tampArm) = true ∧
    chk (.secCtl (c 3 5)) z (fun t => ans (c 3 5) stOK 0 t && t.sec.tampCfg == 5 && t.sec.tampLock) = true ∧
    chk (.secCtl (c 4 0)) s (ans (c 4 0) stRANGE 0) = true := by decide +kernel

/-! ### The redundant pair -/

/-- Mirror frames on lane 0 of direction 0 under the key `cdata 32`, FCNT 5 and CSEQ 9. -/
def frIdle : MirRx := { lane := 0, cap := 5, frac := 0, bytes :=
    [77, 82, 8, 0, 52, 0, 0, 0, 5] ++ zeros 7 ++ [9] ++ zeros 11 ++ [2, 0, 0, 0, 158, 232, 246, 134, 31, 227, 12, 216, 182, 113, 212, 76, 99, 196, 108,
    211, 222, 18, 216, 18] }
def frCut : MirRx := { lane := 0, cap := 5, frac := 0, bytes :=
    [77, 82, 1, 0, 53, 0, 0, 0, 5] ++ zeros 7 ++ [9] ++ zeros 11 ++ [2, 0, 0, 0, 121, 150, 155, 96, 111, 24, 79, 153, 92, 142, 81, 61, 136, 190, 252, 7,
    99, 78, 34, 151, 226] }
def frCutend : MirRx := { lane := 0, cap := 5, frac := 0, bytes :=
    [77, 82, 2, 0, 100, 0, 0, 0, 5] ++ zeros 7 ++ [9] ++ zeros 11 ++ [2, 0, 0, 0, 125, 13, 24, 157, 249, 158, 9, 67, 218, 36, 77, 67, 184, 250, 156, 40,
    190, 68, 234, 118, 57, 92, 68, 78, 217, 28, 117, 116, 192, 18, 39, 251, 93, 128, 153, 154, 121, 205, 214, 199, 125, 31, 19, 250, 30, 188, 252, 216,
    153, 139, 2, 109, 238, 132, 6, 137, 217, 54, 56, 196, 170, 78, 246, 167, 63, 253, 131, 116] }
def frStream : MirRx := { lane := 0, cap := 5, frac := 0, bytes :=
    [77, 82, 3, 0, 54, 0, 0, 0, 5] ++ zeros 7 ++ [9] ++ zeros 7 ++ [64, 0, 0, 0, 2, 0, 0, 0, 127, 15, 146, 5, 131, 59, 240, 39, 229, 90, 42, 248, 94, 142,
    101, 111, 156, 223, 183, 223, 170, 70] }
def frAck : MirRx := { lane := 0, cap := 5, frac := 0, bytes :=
    [77, 82, 4, 0, 76, 0, 0, 0, 5] ++ zeros 7 ++ [9] ++ zeros 11 ++ [2, 0, 0, 0, 126, 13, 24, 157, 248, 158, 10, 67, 216, 36, 77, 67, 184, 250, 156, 40,
    243, 68, 234, 118, 57, 92, 68, 78, 38, 211, 69, 163, 162, 175, 112, 232, 154, 52, 35, 106, 223, 125, 241, 50, 122, 180, 220, 10] }
def frTime : MirRx := { lane := 0, cap := 5, frac := 0, bytes :=
    [77, 82, 6, 0, 84, 0, 0, 0, 5] ++ zeros 7 ++ [9] ++ zeros 11 ++ [2, 0, 0, 0, 126, 13, 24, 157, 252, 158, 10, 67, 218, 36, 77, 67, 184, 250, 156, 40,
    190, 68, 234, 118, 59, 92, 68, 78, 217, 28, 117, 116, 192, 18, 39, 251, 255, 32, 112, 206, 241, 100, 214, 226, 136, 185, 108, 146, 251, 185, 89, 54,
    12, 193, 61, 27] }
def frMeter : MirRx := { lane := 0, cap := 5, frac := 0, bytes :=
    [77, 82, 7, 0, 68, 0, 0, 0, 5] ++ zeros 7 ++ [9] ++ zeros 11 ++ [2, 0, 0, 0, 126, 13, 24, 157, 248, 158, 10, 67, 218, 36, 77, 67, 184, 250, 156, 40,
    169, 239, 139, 190, 243, 232, 38, 223, 178, 53, 37, 254, 175, 141, 82, 64, 244, 182, 226, 37] }
def frHello : MirRx := { lane := 0, cap := 5, frac := 0, bytes :=
    [77, 82, 5, 0, 148] ++ zeros 27 ++ [3] ++ zeros 47 ++ [91, 195, 117, 122, 206, 136, 194, 85] ++ zeros 40 ++ [220, 209, 105, 37, 129, 26, 48, 144, 16,
    25, 154, 58, 240, 211, 250, 59, 19, 221, 72, 11] }
def frHelloAct : MirRx := { lane := 0, cap := 5, frac := 0, bytes :=
    [77, 82, 5, 0, 148] ++ zeros 27 ++ [3] ++ zeros 47 ++ [91, 195, 117, 122, 206, 136, 194, 85, 1] ++ zeros 39 ++ [255, 25, 218, 76, 249, 189, 129, 217,
    154, 65, 137, 83, 237, 252, 126, 211, 27, 66, 219, 101] }
def bugle1 : Bytes :=
    [16, 1] ++ zeros 14 ++ [5] ++ zeros 7 ++ [50] ++ zeros 7 ++ [9] ++ zeros 7 ++ [1] ++ zeros 7 ++ [83, 72, 64, 64, 47, 0, 71, 62, 86, 240, 97, 148, 135,
    180, 83, 19]
def pairSt (role : BitVec 2) (f : PairRegs → PairRegs := id) : State := { base with
  pair := f { mode := true, role := role, keys := some ⟨cdata 32, cdata 32⟩, slen := 4096, sbase := 0x1000 } }

theorem wit_MirrorFramesAreVerifiedAndTaken_idle : let f := frIdle
    let s := pairSt 2
    let i := fun (n : Nat) => { f with bytes := f.bytes.set 20 (BitVec.ofNat 8 n) }
    pairOn s = true ∧ mirFormOk f.bytes = true ∧ u16 f.bytes 0 = 0x524D ∧ mirOpen s.pair.keys s.pair.fcnt f.lane f.bytes = some [] ∧
    mirFormOk (i 1).bytes = false ∧
    chk (.idle f) s (fun t => t.pair.pseen && tblGet t.pair.fcnt 0 0 == 6 && t.pair.lastSeen == 8) = true := by decide +kernel
theorem wit_MirrorFramesAreVerifiedAndTaken_refused : let f := frIdle
    let s := pairSt 2 fun p => { p with fcnt := [(0, 6)] }
    let off := pairSt 2 fun p => { p with mode := false }
    let bad := { f with bytes := f.bytes.set 20 1 }
    pairOn off = false ∧ mirOpen s.pair.keys s.pair.fcnt f.lane f.bytes = none ∧ s.pair.nextKeys = none ∧
    chk (.idle f) off (fun t => t.pair == off.pair) = true ∧ chk (.cut bad) s (fun t => cnt t bPAIR 0 == 1 && t.pair == s.pair) = true ∧
    chk (.idle f) s (fun t => cnt t bPAIR 1 == 1 && t.pair == s.pair) = true := by decide +kernel
theorem wit_MirrorFramesAreVerifiedAndTaken_cut : let s := pairSt 2
    let f := frCut
    chk (.cut f) s (fun t => t.pair.cutParts == [⟨9, 0, [7]⟩]) = true := by decide +kernel
theorem wit_MirrorFramesAreVerifiedAndTaken_cutend : let s := pairSt 2 fun p => { p with applied := some 8 }
    let f := frCutend
    chk (.cutend f) s (fun t => t.pair.cutEnds.map (fun x => (x.cseq, x.nlines, x.nframes, x.overflow, x.final)) == [(9, 3, 1, true, true)]) = true := by decide +kernel
theorem wit_MirrorFramesAreVerifiedAndTaken_stream : let s := pairSt 2
    let f := frStream
    inWindow s 22 (0x1000 + 64) 2 true = true ∧ u32 f.bytes 24 + 2 ≤ s.pair.slen.toNat ∧
    chk (.stream f) s (fun t => t.pair.streamIn == [⟨2, 9, 64, [1, 2]⟩]) = true := by decide +kernel
theorem wit_MirrorFramesAreVerifiedAndTaken_ack : let s := pairSt 1
    let f := frAck
    chk (.ack f) s (fun t => t.pair.ple == 77 && t.pair.pleOk && t.pair.copyNext == some 0) = true := by decide +kernel
theorem wit_MirrorFramesAreVerifiedAndTaken_time : let h : Hello := { devuid := 3, nonce := [], role := 1, sync := 0, cfgd := 0, actid := 0, mfn := 0, kmf := 0, mfnBase := 0, l := 0 }
    let s := pairSt 2 fun p => { p with hello := some h, timeTx := 65536, tlockRun := 15 }
    let f := frTime
    chk (.time f) s (fun t => t.pair.toff == 0 && t.pair.tlock) = true := by decide +kernel
theorem wit_MirrorFramesAreVerifiedAndTaken_meter : let s : State := { pairSt 2 with metr := { records := [(0, zeros 4 ++ zeros 16)] } }
    let f := frMeter
    u64 (zeros 20) 8 = u64 (zeros 16) 8 ∧ (∀ o ∈ fwdOffs, fwdDiffer s.metr.cfg (u64 (zeros 20) o) (u64 (zeros 16) o) = false) ∧
    chk (.meter f) s (fun t => t.pair.pseen && t.blk == s.blk) = true := by decide +kernel

/-- A session pool without a free entry. -/
def fullSess (l : List Nat) : Tbl Sess := l.map fun i => (1024 + i, { kind := 5 })
def noSess (s : State) : State := { s with sec := { s.sec with sess := fullSess (List.range 1024) } }
theorem fullSess_get (l : List Nat) {i : Nat} (h : i ∈ l) : tblGet (fullSess l) (1024 + i) {} = { kind := 5 } := by
  induction l with
  | nil => cases h
  | cons a r ih =>
    simp only [fullSess, List.map_cons, tblGet]
    split
    · rfl
    · next hn =>
      rcases List.mem_cons.1 h with rfl | h
      · exact absurd rfl hn
      · exact ih h
theorem noSess_poolMake (kind : Byte) (hk : kind ≠ 5) (ref : Nat) (key : Bytes) (s : State) : poolMake kind ref key (noSess s) = none := by
  have h (p : Sess → Bool) (hp : p { kind := 5 } = false) :
      ((List.range 1024).find? fun i => p (sessGet (noSess s) (1024 + i))) = none := by
    rw [List.find?_eq_none]
    intro i hi
    simp only [sessGet, noSess]
    rw [fullSess_get _ hi, hp]
    decide
  have h1 := h (fun e => e.kind == kind && e.ref.toNat == ref) (by rw [beq_eq_false_iff_ne.2 (Ne.symm hk)]; rfl)
  have h2 := h (fun e => e.kind == 0) (by decide)
  simp only [poolMake, poolEntry, h1, h2]
  rfl
theorem noSess_witSess (key : Bytes) (s : State) : witSess key (noSess s) = none := by
  unfold witSess
  have h : ((noSess s).sec.sess.any fun kv => kv.2.kind == 6 && kv.2.key == key) = false := by
    simp only [noSess, fullSess, List.any_map]
    rw [List.any_eq_false]
    intro i _ hc
    have h5 : ((5 : Byte) == 6 && ([] : Bytes) == key) = true := hc
    exact absurd (Bool.and_eq_true_iff.1 h5).1 (by decide)
  rw [h]
  exact noSess_poolMake 6 (by decide) 0 key s
def helloSt : State := let s := pairSt 2 fun p => { p with keys := none, nonce := zeros 32 }
  { s with sec := { s.sec with pairsec := some (cdata 32) } }
theorem wit_MirrorFramesAreVerifiedAndTaken_hello : let s := helloSt
    let f := frHello
    let h := helloOf (f.bytes.drop 32)
    mirFormOk f.bytes = true ∧ f.bytes.length = 148 ∧ h.devuid = 3 ∧ h.cfgd = cfgDigest s ∧ h.actid = s.sched.actId ∧
    (mirKeys s h).any (fun k => (mirSess k s).isSome) = true ∧
    chk (.hello f) s (fun t => t.pair.partner == 3 && t.pair.hello.isSome && t.pair.keys.isSome) = true := by decide +kernel
theorem wit_MirrorFramesAreVerifiedAndTaken_hello_full : (mirKeys (noSess helloSt) (helloOf (frHello.bytes.drop 32))).isSome = true ∧
    ∀ k, mirSess k (noSess helloSt) = none := by
  refine ⟨by decide +kernel, fun k => ?_⟩
  unfold mirSess
  rw [noSess_poolMake 7 (by decide)]
  rfl

theorem wit_MirrorFramesAreVerifiedAndTaken_lanes : let s := pairSt 1 fun p => { p with lane0 := true, pseen := true, refused := true }
    let late : State := { s with sched := { s.sched with mfn := 1000 } }
    let o : State := { s with pair := { s.pair with mode := false } }
    let q := pairSt 1 fun p => { p with streamOut := [{ item := 2, cseq := 9, data := [1] }] }
    chk (.mirrorLaneDown 0) s (fun t => !t.pair.lane0 && cnt t bPAIR 7 == 1) = true ∧ chk (.mirrorLaneUp 1) s (fun t => t.pair.lane0 && t.pair.lane1) = true ∧
    chk .pseenTimeout late (fun t => !t.pair.pseen && t.pair.keys.isNone && t.pair.role == 1) = true ∧ chk .pseenTimeout s (fun t => t == s) = true ∧ chk .pseenTimeout o (fun t => t.pair.pseen) = true ∧
    chk .handshakeRetry late (fun t => !t.pair.refused) = true ∧ chk .handshakeRetry s (fun t => t == s) = true ∧ linkRuns .pair q = true ∧
    chk (.transmitSlot .pair) q (fun t => t.pair.streamOut == [] && tblGet t.pair.fcnt 0 0 == 1 && t.out.any fun | .mirror 0 b => u8 b 2 == 3 && u64 b 16 == 9 | _ => false) = true := by decide +kernel

theorem wit_RolesFollowLeasesAndCutsAreApplied_bugle : let s := pairSt 2
    let z : State := { s with sec := { s.sec with pairsec := some (cdata 32) } }
    let b := bugle1
    (keyWitness z).isSome = true ∧ enOf z bPAIR = true ∧
    chk (.bugle b true) z (fun t => t.pair.grant == ⟨1, 5, 50, 9⟩ && t.pair.fvRx == 1 && t.pair.fvTx == 1 && t.pair.noLease && t.out.length == 1) = true ∧
    chk (.bugle b false) z (fun t => t.pair == z.pair && cnt t bPAIR 5 == 1) = true := by decide +kernel
theorem wit_RolesFollowLeasesAndCutsAreApplied_bugle_full : let z : State := { pairSt 2 with sec := { (pairSt 2).sec with pairsec := some (cdata 32) } }
    (keyWitness (noSess z)).isSome = true ∧ ∀ k, witSess k (noSess z) = none := by
  refine ⟨by decide +kernel, fun k => ?_⟩
  exact noSess_witSess k _

theorem wit_RolesFollowLeasesAndCutsAreApplied_roles : let g : Grant := { act := 1, s := 5, e := 50 }
    let act (p : PairRegs) : PairRegs := { p with grant := g }
    let fen (p : PairRegs) : PairRegs := { p with grant := { g with e := 9 } }
    let rdy (p : PairRegs) : PairRegs := { p with grant := g, copied := true, tlock := true, applied := some 8 }
    let st (s : State) : State := { s with sec := { s.sec with noSecret := false } }
    let d := desc 0x71 []
    let solo := started d (pairSt 0 fun p => { p with mode := false, grant := g, modeReq := [(d, 8)] })
    let is (s : State) (r : BitVec 2) := chk (.minorFrameStart false) s (fun t => t.pair.role == r)
    is (pairSt 1 act) 1 = true ∧ is (pairSt 1 fen) 3 = true ∧ is (pairSt 1 fun p => { fen p with pleOk := true, ple := 10 }) 1 = true ∧
    is (pairSt 1 fun p => { act p with finalCut := true }) 2 = true ∧ is (st (pairSt 2 rdy)) 1 = true ∧ is (pairSt 2 act) 2 = true ∧
    is (st (pairSt 2 fun p => { rdy p with ple := 10 })) 2 = true ∧ is (st (pairSt 2 fun p => { rdy p with grant := { g with act := 2 } })) 2 = true ∧
    is (st (pairSt 2 fun p => { rdy p with grant := { g with act := 2 }, finalApplied := true })) 1 = true ∧
    is (pairSt 3 act) 1 = true ∧ is (pairSt 3 fen) 3 = true ∧ is (pairSt 0 fun p => { p with mode := false }) 0 = true ∧
    is solo 1 = true ∧ chk (.minorFrameStart false) solo (ans d stOK 0) = true := by decide +kernel

def cutEnd1 : CutEnd := { cseq := 9, nlines := 0, nframes := 0, overflow := false, final := false, lsum := 5, actid := 0, kmf := 0, swb := 0, swid := 0, arr := 0 }
def cutSt (e : CutEnd) (a : W64) : State := { (pairSt 2 fun p => { p with applied := some a, cutEnds := [e], copyDone := true, items := [1, 2, 3, 4, 5] }) with time := { base.time with tbc := 18 } }
theorem wit_RolesFollowLeasesAndCutsAreApplied_cuts : let s := cutSt cutEnd1 8
    let a := pairSt 1
    s.sched.run = true ∧ frozenM s 22 = false ∧ pairOn s = true ∧ s.pair.role = 2 ∧ cutComplete s cutEnd1 = true ∧ cutEnd1.arr.toNat + 18 ≤ s.time.tbc.toNat ∧
    cutEnd1.actid = s.sched.actId ∧ s.sched.switchPend = false ∧ s.pair.streamIn = [] ∧ copyWhole s = true ∧ cutEnd1.cseq.toNat = (8 : W64).toNat + 1 ∧
    pairOn a = true ∧ a.pair.role = 1 ∧ a.pair.keys = some ⟨cdata 32, cdata 32⟩ ∧ a.pair.sendNext = false ∧ a.sec.snuffed = false ∧
    chk .cutSlot (pairSt 3) (fun t => t.pair == (pairSt 3).pair) = true := by decide +kernel
/-- The digest of the lines matches for the digest itself, and for no other value. -/
theorem wit_RolesFollowLeasesAndCutsAreApplied_lsum : ∃ x y : W64, lsumOf (applyLines { cutEnd1 with lsum := x } (cutSt { cutEnd1 with lsum := x } 8)) = x ∧
    lsumOf (applyLines { cutEnd1 with lsum := y } (cutSt { cutEnd1 with lsum := y } 8)) ≠ y := by
  have h (x : W64) : lsumOf (applyLines { cutEnd1 with lsum := x } (cutSt { cutEnd1 with lsum := x } 8)) = lsumOf (cutSt cutEnd1 8) := by
    have e : cutParts (cutSt { cutEnd1 with lsum := x } 8) { cutEnd1 with lsum := x } = [] := by rfl
    simp only [applyLines, e, byOff, List.mergeSort_nil, List.foldl_nil]
    unfold lsumOf trackedLines lineCrc lineOf
    rfl
  refine ⟨lsumOf (cutSt cutEnd1 8), lsumOf (cutSt cutEnd1 8) + 1, h _, ?_⟩
  rw [h]
  exact fun e => absurd e (by bv_omega)

theorem wit_RolesFollowLeasesAndCutsAreApplied_descriptors : let r (w : Nat) := desc 0x70 [(16, 1, w), (32, 8, 0x9000)]
    let m (w : Nat) := desc 0x71 [(16, 1, w)]
    let k := desc 0x72 []
    let y := desc 0x73 []
    let w := desc 0x74 []
    let s := pairSt 2 fun p => { p with copied := true }
    let z := pairSt 0 fun p => { p with mode := false }
    let at_ (p : PairRegs) (n : W64) : State := started k { s with pair := p, sched := { s.sched with mfn := n } }
    reachB 0x70 (r 0) s = true ∧ reachB 0x71 (m 0) s = true ∧ reachB 0x72 k s = true ∧ reachB 0x73 y s = true ∧ reachB 0x74 w s = true ∧
    chk (.pairRead (r 1)) s (fun t => ans (r 1) stOK 0 t && t.out == [.hostWrite 0x9000 (zeros 128)]) = true ∧ chk (.pairRead (r 2)) s (ans (r 2) stRANGE 0) = true ∧
    chk (.pairMode (m 2)) s (ans (m 2) stRANGE 0) = true ∧ chk (.pairMode (m 0)) (pairSt 2 fun p => { p with pseen := true }) (ans (m 0) stREFUSED 0) = true ∧
    chk (.pairMode (m 0)) s (fun t => ans (m 0) stOK 0 t && !t.pair.mode && t.pair.role == 0) = true ∧ chk (.pairMode (m 1)) z (fun t => t.pair.modeReq == [(m 1, 8)] && !t.pair.mode) = true ∧
    chk (.pairRekey k) { s with sec := { s.sec with drbgOk := true } } (fun t => t.pair.rekeyReq == [(k, 8)] && t.pair.nonce.length == 32) = true ∧
    chk (.pairRekey k) { s with sec := { s.sec with drbgOk := false } } (ans k stNOT_READY 0) = true ∧ chk (.pairResync y) s (fun t => ans y stOK 0 t && !t.pair.copied) = true ∧
    chk (.pairResync y) (pairSt 1) (ans y stNOT_READY 0) = true ∧ chk (.pairSwapreq w) s (fun t => t.pair.swapReq == [(w, 8)] && t.pair.swapAsked) = true ∧
    chk .pairModeTimeout (at_ { s.pair with modeReq := [(k, 8)] } 10008) (fun t => ans k stTIMEOUT 0 t && cnt t bPAIR 9 == 1) = true ∧
    chk .pairRekeyTimeout (at_ { s.pair with rekeyReq := [(k, 8)] } 1008) (fun t => ans k stTIMEOUT 0 t && t.pair.nextKeys.isNone) = true ∧
    chk .pairSwapreqTimeout (at_ { s.pair with swapReq := [(k, 8)], swapAsked := true } 10008) (fun t => ans k stTIMEOUT 0 t && !t.pair.swapAsked) = true ∧
    (let e := at_ { s.pair with modeReq := [(k, 8)], rekeyReq := [(k, 8)], swapReq := [(k, 8)], swapAsked := true }
     chk .pairModeTimeout (e 10007) (fun t => t == e 10007) = true ∧ chk .pairRekeyTimeout (e 1007) (fun t => t == e 1007) = true ∧
     chk .pairSwapreqTimeout (e 10007) (fun t => t == e 10007) = true) := by decide +kernel

theorem wit_RolesFollowLeasesAndCutsAreApplied_rejoin : let h : Hello := { devuid := 3, nonce := [], role := 1, sync := 0, cfgd := 0, actid := 0, mfn := 0, kmf := 0, mfnBase := 0, l := 0 }
    let s := pairSt 3 fun p => { p with hello := some h }
    s.pwr.asleep = false ∧ s.sys.rstReq = none ∧ chk .pairRejoinReset s (fun t => t.sys.rstReq == some 6 && t.pwr.pflock) = true ∧
    chk .pairRejoinReset (pairSt 3) (fun t => t.sys.rstReq == none) = true := by decide +kernel

/-! ### Records and storage -/

def lan1 (sev : Byte) : LanRec := { pcyc := 3, opt := 4, code := 0x0A01, sev := sev, mfn := 8, data := [9] }
def recSt (f : RecRegs → RecRegs) (g : NvmRegs → NvmRegs := id) : State := { base with
  recs := f {}, nvm := g { formatted := true, endur := 3, blocks := [(0, { log := 0 }), (1, { log := 0, part := 1 })] } }

theorem wit_LanternAndAuditRecordsAreKept_lantern : let s (sev : Byte) (l : Option Nat) := recSt fun r => { r with lseq := 6, drops := 300, lleft := l, queue := [lan1 sev] }
    let z : State := { s 1 none with pwr := { pwrOn with pflock := true } }
    chk .lanternWrite z (fun t => t.recs == z.recs) = true ∧ chk .lanternWrite (frozenSt 23) (fun t => t.recs == (frozenSt 23).recs) = true ∧
    (s 1 none).pwr.pflock = false ∧ frozenM (s 1 none) 23 = false ∧
    chk .lanternWrite (s 1 none) (fun t => t.recs.lseq == 7 && lanValid (mramRead (0x20000 + 64 * 7) 64 t) && u16 (mramRead (0x20000 + 64 * 7) 64 t) 0xE == 255 * 256) = true ∧
    chk .lanternWrite (s 3 none) (fun t => t.recs.lfatal == 7 && t.recs.lleft == some 63) = true ∧
    chk .lanternWrite (s 3 (some 2)) (fun t => t.recs.lleft == some 1 && t.recs.lfatal == 0xFFFFFFFF) = true ∧
    chk .lanternWrite (recSt fun r => { r with lleft := some 1, queue := [lan1 1, lan1 2] }) (fun t => t.recs.lfrozen && t.recs.queue == [] && cnt t bREC 1 == 1) = true ∧
    chk .auditFreezeExpiry (recSt fun r => { r with afrozen := true }) (fun t => !t.recs.afrozen) = true := by decide +kernel

theorem wit_LanternAndAuditRecordsAreKept_reads : let r (w n f : Nat) := desc 0x78 [(16, 1, w), (20, 4, n), (32, 8, 0x9000), (40, 8, f)]
    let s := mramWrite (0x20000 + 64 * 5) (lanBytes (lan1 1) 0 5) (recSt fun x => { x with lseq := 2052, audFirst := 3, audNext := 9, audEnd := 8, afrozen := true, hseqFirst := 2, hseqNext := 4 })
    let e := recSt fun x => { x with lseq := 2052 }
    reachB 0x78 (r 0 1 5) s = true ∧ chk (.recRead (r 4 0 0)) s (ans (r 4 0 0) stRANGE 0) = true ∧ chk (.recRead (r 3 7 0)) s (ans (r 3 7 0) stOK 7) = true ∧
    chk (.recRead (r 0 1 2053)) s (ans (r 0 1 2053) stRANGE 0) = true ∧ chk (.recRead (r 0 1 0)) (recSt id) (ans (r 0 1 0) stRANGE 0) = true ∧
    chk (.recRead (r 0 1 4)) s (ans (r 0 1 4) stDROPPED 0) = true ∧
    chk (.recRead (r 0 1 5)) s (fun t => ans (r 0 1 5) stOK 1 t && t.out == [.hostWrite 0x9000 (lanBytes (lan1 1) 0 5)]) = true ∧
    chk (.recRead (r 1 1 3)) e (ans (r 1 1 3) stNOT_READY 0) = true ∧ chk (.recRead (r 2 1 4)) s (ans (r 2 1 4) stRANGE 0) = true ∧
    chk (.recRead (r 1 1 9)) s (ans (r 1 1 9) stRANGE 0) = true ∧ chk (.recRead (r 1 1 2)) s (ans (r 1 1 2) stDROPPED 0) = true ∧
    chk (.recRead (r 1 1 8)) s (fun t => t.recs.reads.map (·.next) == [8]) = true := by decide +kernel

theorem wit_LanternAndAuditRecordsAreKept_logs : let f (w n : Nat) := desc 0x79 [(16, 1, w), (20, 4, n)]
    let c := desc 0x7A []
    let l := desc 0x7B []
    let s := recSt fun x => { x with audFirst := 3, audNext := 9 }
    let z := recSt (fun x => { x with audFirst := 3, audNext := 9 }) fun n => { n with blocks := [(0, { log := 0, used := 2 })] }
    reachB 0x79 (f 1 1) s = true ∧ reachB 0x7A c s = true ∧ reachB 0x7B l s = true ∧
    chk (.audFreeze (f 0 0)) s (ans (f 0 0) stOK 0) = true ∧ chk (.audFreeze (f 1 1)) s (fun t => t.recs.afrozen && t.recs.audEnd == 8 && t.recs.afreezeEnd == 9) = true ∧
    chk (.audFreeze (f 1 3600000)) s (ans (f 1 3600000) stOK 0) = true ∧ chk (.audFreeze (f 1 3600001)) s (ans (f 1 3600001) stRANGE 0) = true ∧
    chk (.audFreeze (f 1 0)) s (ans (f 1 0) stRANGE 0) = true ∧ chk (.audFreeze (f 2 1)) s (ans (f 2 1) stRANGE 0) = true ∧
    chk (.audClear c) base (ans c stNOT_READY 0) = true ∧ chk (.audClear c) (recSt fun x => { x with afrozen := true }) (ans c stBUSY 0) = true ∧
    chk (.audClear c) z (fun t => t.recs.audFirst == 9 && t.recs.audNext == 10 && t.recs.clearing == some c && t.recs.eraseQ == [0] && t.recs.journal.length == 1) = true ∧
    chk (.lanThaw l) s (ans l stNOT_READY 0) = true ∧
    chk (.lanThaw l) (recSt fun x => { x with lfrozen := true, lfatal := 6 }) (fun t => ans l stOK 0 t && !t.recs.lfrozen && t.recs.queue.map (·.code) == [0x1202]) = true := by decide +kernel

def aud (n : Nat) : AudRec := { seq := BitVec.ofNat 48 n, code := 1, ctx := 0, auth := 0, ocnt := 0, data := [] }
theorem wit_StorageIsProgrammedReadAndTagged_programs : let d := desc 0x7C [] (zeros 4)
    let j := (List.range 32).map aud
    let s := recSt fun r => { r with journal := j }
    let h := recSt fun r => { r with journal := j.take 31, histQueue := [d], hseqNext := 5 }
    chk (.recSlot .done) (frozenSt 23) (fun t => t.recs == (frozenSt 23).recs) = true ∧
    chk (.recSlot .busy) (recSt fun r => { r with op := some (.erase 0) }) (fun t => t.recs.op == some (.erase 0)) = true ∧
    recsPerPage s = 32 ∧ nextPage s 0 s.recs.audBlk = some 0 ∧ nextPage h 1 h.recs.histBlk = some 1 ∧ enOf s bREC = true ∧
    chk (.recSlot .busy) s (fun t => t.recs.op == some (.audit 0 j) && (nbGet t 0).used == 1 && t.recs.journal == j) = true ∧
    chk (.recSlot .busy) h (fun t => t.recs.op == some (.history 1 5 d) && (nbGet t 1).used == 1) = true := by decide +kernel

/-- REC is not enabled: no new operation starts. -/
def recOff (s : State) : State := { s with blk := tblPut s.blk bREC { en := false } { en := false } }
theorem wit_StorageIsProgrammedReadAndTagged_ends : let d := desc 0x7C [] (zeros 4)
    let q := desc 0x78 []
    let o (op : NandOp) (f : RecRegs → RecRegs := id) (g : NvmRegs → NvmRegs := id) : State := recOff (recSt (fun r => f { r with op := some op }) g)
    let a := o (.audit 0 [aud 0]) (fun r => { r with journal := [aud 0, aud 1] })
    let hp : HistPage := { blk := 1, page := 0, data := [7] }
    let rd := started q (o (.read q) fun r => { r with hist := [(5, hp)], reads := [{ desc := q, what := 2, next := 5, left := 1, done := 0, addr := 0x9000 }] })
    enOf a bREC = false ∧ chk (.recSlot .done) a (fun t => t.recs.op == none && t.recs.journal == [aud 1] && t.recs.audPages.length == 1) = true ∧
    chk (.recSlot .done) (started q (o (.audit 0 [aud 0]) fun r => { r with clearProg := true, clearing := some q })) (fun t => ans q stOK 0 t && t.recs.clearing == none) = true ∧
    chk (.recSlot .failed) a (fun t => (nbGet t 0).st == 4 && t.recs.journal.length == 2 && cnt t bNVM 5 == 1) = true ∧
    chk (.recSlot .done) (started d (o (.history 1 5 d) fun r => { r with histQueue := [d] })) (fun t => ans d stOK 5 t && t.recs.hseqNext == 6 && t.recs.histQueue == []) = true ∧
    chk (.recSlot .done) (o (.erase 0)) (fun t => (nbGet t 0).erases == 1 && (nbGet t 0).used == 0) = true ∧
    chk (.recSlot .done) (o (.erase 0) id fun n => { n with blocks := [(0, { log := 0, erases := 2999 })] }) (fun t => (nbGet t 0).st == 5 && cnt t bNVM 2 == 1) = true ∧
    chk (.recSlot (.read [] [some 0])) rd (fun t => ans q stOK 1 t && t.out == [.hostWrite 0x9000 [7]] && t.recs.reads == []) = true ∧
    chk (.recSlot (.read [] [none])) rd (fun t => ans q stPARTIAL 0 t && t.nvm.uncor && cnt t bNVM 1 == 1) = true ∧
    (let f := started q (recOff (recSt id fun n => { n with formatReq := some q }))
     f.nvm.formatReq = some q ∧ f.recs.clearing = none ∧ frozenM f 23 = false ∧ enOf f bREC = false ∧ q ∈ (ringGet f q.ring).started) := by decide +kernel

set_option maxRecDepth 20000 in
theorem wit_StorageIsProgrammedReadAndTagged_descriptors : let h := desc 0x7C [(32, 8, 0x9000)] (zeros 4)
    let w (o n : Nat) := desc 0x7D [(16, 2, o), (18, 2, n), (32, 8, 0x9000)] (cdata n)
    let l (v : Nat) := desc 0x7E [(16, 1, v)]
    let f := desc 0x7F []
    let s := recSt id
    let k := recSt id fun n => { n with tagLock := true }
    reachB 0x7C h s = true ∧ reachB 0x7D (w 510 2) s = true ∧ reachB 0x7E (l 1) s = true ∧ reachB 0x7F f s = true ∧
    chk (.histWrite h) base (ans h stNOT_READY 0) = true ∧ chk (.histWrite h) s (fun t => t.recs.histQueue == [h]) = true ∧
    chk (.tagWrite (w 510 2)) k (ans (w 510 2) stLOCKED 0) = true ∧ chk (.tagWrite (w 510 3)) s (ans (w 510 3) stRANGE 0) = true ∧
    chk (.tagWrite (w 0 0)) s (ans (w 0 0) stRANGE 0) = true ∧ tagSeq s 0 = none ∧ tagSeq s 1 = none ∧
    chk (.tagWrite (w 510 2)) s (fun t => ans (w 510 2) stOK 0 t && tagCur t == some (0, 1) && (tagData t).drop 509 == [0, 0, 1]) = true ∧
    chk (.tagLock (l 1)) s (fun t => ans (l 1) stOK 0 t && t.nvm.tagLock) = true ∧ chk (.tagLock (l 2)) s (ans (l 2) stRANGE 0) = true ∧
    chk (.nvmFormat f) (recSt fun r => { r with afrozen := true }) (ans f stBUSY 0) = true ∧ chk (.nvmFormat f) s (fun t => t.nvm.formatReq == some f) = true := by decide +kernel

/-! ### The status panel -/

/-- A panel of 16 by 16 with `n` phases in every band; level 3 to level 0 takes one pulse. -/
def pcfg (n : Nat) : Bytes :=
  headSeal (leBytes 4 0x434C4E50 ++ [16, 0, 16, 0, 10, 0, 1, 0] ++ leBytes 4 1000 ++ leBytes 4 0xFFFFFFFF ++ [1, 2, 3, 4, 5, 6, 7, 5] ++
    List.replicate 8 (BitVec.ofNat 8 n) ++ List.replicate 8 1 ++ [1] ++ zeros 15) ++ zeros 192 ++ [1] ++ zeros 1983
def nz (a : Nat) (b : Bytes) : Tbl Byte := (b.zipIdx.filter fun p => p.1 != 0).map fun p => (a + p.2, p.1)
/-- The panel region with this configuration, all pixels at level 3 and an IDLE journal. -/
def pnlSt (n : Nat) (f : PnlRegs → PnlRegs := id) : State := { base with
  pnl := f {}
  mram := nz pnlShown (List.replicate 64 0xFF) ++ nz pnlCfg ((pcfg n).take 64) ++ [(pnlCfg + 256, 1)] ++
    nz pnlJour (headSeal (leBytes 4 0x4C4E4A50 ++ zeros 16 ++ [0xFF, 0xFF] ++ zeros 38)) }
def upd (x y w h : Nat) (op : Nat := 0x81) (crc : Nat := crc32 (zeros 64)) : HostDesc :=
  desc op ([(16, 2, x), (18, 2, y), (20, 2, w), (22, 2, h)] ++ (if op = 0x81 then [(24, 4, crc)] else [(32, 8, 0x9000)]))
def prun (d : HostDesc) (f : PnlRun → PnlRun := id) : PnlRun := f { desc := some d, ww := 16, wh := 16, sh := 16, useq := 1 }

/-- Rows of a strip for windows of 800 and of 400 pixels (R479). -/
theorem test_strip_rows : stripRows 800 = 205 ∧ stripRows 400 = 411 := by decide +kernel

set_option maxRecDepth 20000 in
theorem wit_PanelUpdatesAreDrivenAndAccounted_idle : let s := pnlSt 1
    let d := upd 0 0 16 16
    let r (f : PnlRun → PnlRun := id) := pnlSt 1 fun p => { p with pen := true, run := some (prun d f) }
    chk .panelPhase s (fun t => t.pnl == s.pnl) = true ∧ chk .pgood s (fun t => t.pnl == s.pnl) = true ∧ chk .pumpTimeout s (fun t => t.pnl == s.pnl) = true ∧
    chk .panelPhase r (fun t => t.pnl == r.pnl) = true ∧ chk .pgood r (fun t => t.pnl.run.any (·.good)) = true ∧
    chk .pumpTimeout (r fun x => { x with good := true }) (fun t => t.pnl.run.isSome) = true ∧
    chk .pumpTimeout (started d r) (fun t => ans d stTIMEOUT 0 t && cnt t bPNL 1 == 1 && t.pnl.run.isNone && !t.pnl.pen) = true := by decide +kernel

set_option maxRecDepth 20000 in
theorem wit_PanelUpdatesAreDrivenAndAccounted_phases : let d := upd 0 0 4 1
    let r : PnlRun := prun d fun x => { x with ww := 4, wh := 1, sh := 1, good := true }
    let s (n : Nat) := started d (jRun r 1 0 0 (pnlSt n fun p => { p with pen := true, run := some r }))
    jState (s 1) = 1 ∧ pW (s 1) = 16 ∧ pH (s 1) = 16 ∧ nph (cfgHead (s 1)) 0 = 1 ∧ nph (cfgHead (s 2)) 0 = 2 ∧ frozenM (s 1) 24 = false ∧
    chk .panelPhase (s 2) (fun t => t.pnl.run == some { r with ph := 1 } && jState t == 1) = true ∧
    chk .panelPhase (s 1) (ans d stOK 1) = true := by decide +kernel

set_option maxRecDepth 20000 in
theorem wit_PanelUpdatesAreDrivenAndAccounted_config : let c (b : Bytes) := desc 0x82 [(32, 8, 0x9000)] b
    let s := base
    let z := pnlSt 1 fun p => { p with zeroed := true }
    let big : Bytes := headSeal ((pcfg 1).set 6 20) ++ (pcfg 1).drop 64
    let bad : Bytes := headSeal ((pcfg 1).set 4 12) ++ (pcfg 1).drop 64
    reachB 0x82 (c (pcfg 1)) s = true ∧ cfgFieldsOk (pcfg 1) = true ∧ cfgTempOk s (pcfg 1) = true ∧ cfgWaveOk (pcfg 1) = true ∧ cfgFieldsOk big = true ∧
    cfgOk s = false ∧ cfgOk z = true ∧
    chk (.pnlConfig (c (pcfg 1))) (pnlSt 1 fun p => { p with run := some (prun (upd 0 0 16 16)) }) (ans (c (pcfg 1)) stBUSY 0) = true ∧
    chk (.pnlConfig (c bad)) s (ans (c bad) stRANGE 0) = true ∧ chk (.pnlConfig (c big)) (pnlSt 1) (ans (c big) stREFUSED 0) = true ∧
    chk (.pnlConfig (c big)) z (ans (c big) stOK 0) = true ∧
    chk (.pnlConfig (c (pcfg 1))) s (ans (c (pcfg 1)) stOK 0) = true := by decide +kernel

set_option maxRecDepth 20000 in
theorem wit_PanelUpdatesAreDrivenAndAccounted_descriptors : let l := upd 4 1 8 2 0x80
    let ld := { l with buf := [1, 2, 3, 4] }
    let u := upd 0 0 16 16
    let c := desc 0x83 []
    let s := pnlSt 1
    let q (rec_ : Bool) (n : Nat) := pnlSt 1 fun p => { p with run := some (prun u fun x => { x with recover := rec_ }), queue := List.replicate n c }
    reachB 0x80 ld s = true ∧ reachB 0x81 u s = true ∧ reachB 0x83 c s = true ∧ cfgOk s = true ∧ enOf s bPNL = true ∧ u32 (cfgHead s) 0x10 = 0xFFFFFFFF ∧
    chk (.pnlLoad ld) base (ans ld stNOT_READY 0) = true ∧ chk (.pnlClear c) base (ans c stNOT_READY 0) = true ∧
    chk (.pnlUpdate (upd 2 0 4 4)) s (ans (upd 2 0 4 4) stRANGE 0) = true ∧ chk (.pnlUpdate (upd 4 0 16 4)) s (ans (upd 4 0 16 4) stRANGE 0) = true ∧
    chk (.pnlUpdate (upd 0 1 16 16)) s (ans (upd 0 1 16 16) stRANGE 0) = true ∧
    chk (.pnlLoad ld) (q false 0) (ans ld stBUSY 0) = true ∧
    chk (.pnlLoad ld) s (fun t => ans ld stOK (crc32 (frameBytes t)) t && tblRange t.pnl.f 4 7 0 == [0, 1, 2, 0, 0, 3, 4]) = true ∧
    chk (.pnlUpdate u) (q true 0) (ans u stBUSY 0) = true ∧ chk (.pnlClear c) (q false 3) (ans c stCAPACITY 0) = true ∧
    chk (.pnlClear c) (q false 2) (fun t => t.pnl.queue.length == 3) = true ∧
    chk (.pnlUpdate (upd 0 0 16 16 0x81 5)) s (fun t => ans (upd 0 0 16 16 0x81 5) stREFUSED 0 t && cnt t bPNL 0 == 1) = true ∧
    chk (.pnlUpdate u) s (fun t => t.pnl.pen && jState t == 1 && t.pnl.run == some (prun u)) = true ∧
    chk (.pnlClear c) s (fun t => t.pnl.pen && t.pnl.run.any fun r => r.clear && r.sh == 16) = true := by decide +kernel

/-! ### Power, reset and start-up -/

theorem wit_PowerFailuresAndResetsKeepWhatTheySave_power : let lock (s : State) : State := { s with pwr := { s.pwr with pflock := true } }
    let s := recSt fun r => { r with lseq := 6 }
    s.pwr.asleep = false ∧ s.pwr.pflock = false ∧ chk .powerFailure (lock s) (fun t => t.blk == s.blk && t.recs == s.recs) = true ∧
    chk .powerFailure s (fun t => t.pwr.pflock && cnt t bPWR 0 == 1 && t.recs.lseq == 7 && u16 (mramRead (0x20000 + 64 * 7) 64 t) 0xA == 0x0F01) = true ∧
    chk .pwrfailRise (lock base) (fun t => !t.pwr.pflock && cnt t bPWR 1 == 1) = true ∧ chk .pwrfailRise base (fun t => t.blk == base.blk) = true ∧
    chk .pwrfailNGlitch base (fun t => cnt t bPWR 3 == 1) = true := by decide +kernel

theorem wit_PowerFailuresAndResetsKeepWhatTheySave_requests : let s : State := { base with pwr := { pwrOn with pllB := true } }
    s.pwr.asleep = false ∧ s.sys.rstReq = none ∧ chk .watchdogExpiry s (fun t => t.sys.rstReq == some 4 && t.pwr.pflock) = true ∧
    chk (.rstreq .mc0 1) s (fun t => t.sys.rstReq == some 3) = true ∧ chk (.rstreq .mc0 2) s (fun t => t.sys.rstReq == none) = true ∧
    chk (.rstreq .mc1 1) s (fun t => t.sys.rstReq == none) = true ∧
    chk (.pllLockLoss 1) s (fun t => t.sys.rstReq == some 5 && !t.pwr.pllB) = true ∧ chk (.pllLockLoss 2) s (fun t => t.sys.rstReq == none) = true := by decide +kernel

theorem wit_PowerFailuresAndResetsKeepWhatTheySave_resets : let s : State := { base with
      sys := { base.sys with rstReq := some 3 }, pair := { mode := true, role := 1 }, sec := { base.sec with dik := some 5 }, metr := { calLock := true } }
    chk .sysrst base (fun t => t.sched == base.sched) = true ∧
    chk .sysrst s (fun t => t.sys.cause == 3 && t.sys.rstReq == none && t.sched == {} && t.pair.role == 3 && t.sec.dik == some 5 && t.metr.calLock) = true ∧
    chk (.por true) s (fun t => t.sys.cause == 2 && t.sec.dik == none) = true ∧ chk .pd0Cold s (fun t => t.sys.pd0Cold && t.rtc.osf) = true := by decide +kernel

def bootDir : Bytes := let b := zeros 8 ++ [0, 16, 0, 0, 0, 32, 0, 0] ++ zeros 44
  b ++ leBytes 4 (crc32c b)
theorem wit_DomainsAndStagesFollowTheirOrder_domains : let off : State := { base with blk := [], pwr := { asleep := false, doms := [(4, {}), (5, { st := 2 }), (2, { st := 1 })] }, sched := {} }
    domIdle off 2 = true ∧ domIdle base 2 = false ∧ (domGet off 4).st = 0 ∧
    chk (.domainPowerUp 0) off (fun t => t.pwr == off.pwr) = true ∧ chk (.domainPowerUp 4) off (fun t => (domGet t 4).st == 1 && (domGet t 5).st == 1) = true ∧
    chk (.powerGoodTimeout 4) off (fun t => (domGet t 4).st == 0 && cnt t bPWR 2 == 1) = true ∧
    chk (.domainPowerDown 2) base (fun t => (domGet t 2).st == 1) = true ∧ chk (.domainPowerDown 2) off (fun t => (domGet t 2).st == 0) = true ∧
    (let l : State := { off with pwr := { asleep := false, doms := [(4, { st := 1 }), (5, { st := 1 })] }, solv := { slots := [(0, { st := 2 })] } }
     domIdle l 4 = true ∧ slotLoaded l = true ∧ chk (.domainPowerDown 4) l (fun t => (domGet t 5).st == 2) = true) := by decide +kernel

theorem wit_DomainsAndStagesFollowTheirOrder_early : let st (n : BitVec 4) : State := { base with sys := { base.sys with stage := n, cause := 3, dirFwA := 0, dirFwB := 0x1000 } }
    (st 0).sys.stage = 0 ∧ bootDir.length = 64 ∧ firmwareError (st 1) [] = 1 ∧
    chk (.stageRom bootDir) (st 0) (fun t => t.sys.stage == 1 && t.sys.dirFwA == 0x1000 && t.sys.dirFwB == 0x2000 && !t.sys.dirBad) = true ∧
    chk (.stageRom (bootDir.set 8 1)) (st 0) (fun t => t.sys.dirBad && t.sys.dirFwA == 0x1000 && t.sys.dirFwB == 0xFFFFFFFF) = true ∧
    chk (.stageRom bootDir) (st 1) (fun t => t.sys == (st 1).sys) = true ∧ chk (.stageFirmware none none) (st 0) (fun t => t.sys == (st 0).sys) = true ∧
    chk (.stageFirmware (some []) (some [])) (st 1) (fun t => t.sys.stage == 0xF && t.sys.fwErr == 1) = true ∧
    chk (.stageMemory 4 true 1 true) (st 2) (fun t => t.sys.stage == 0xF && t.sys.gib == 4) = true ∧
    chk (.stageMemory 4 true 3 true) (st 3) (fun t => t.sys == (st 3).sys) = true ∧
    chk (.stageImage none none) { st 3 with sched := {} } (fun t => t.sys.stage == 0xE) = true ∧
    chk (.stageImage none none) (st 3) (fun t => t.sys.stage == 4) = true ∧ chk (.stageImage none none) (st 2) (fun t => t.sys.stage == 2) = true := by decide +kernel
/-- With `wit_AcceptedImagesHaveNoConflicts`: an image copy that stage 3 takes. -/
theorem wit_DomainsAndStagesFollowTheirOrder_image : imgSt.sys.stage = 3 ∧ imgSt.sched.image = none ∧ imgSt.sys.dirImgA ≠ 0xFFFFFFFF ∧
    imgSt.sys.dirImgB ≠ 0xFFFFFFFF := by decide +kernel

theorem wit_DomainsAndStagesFollowTheirOrder_late : let st (n : BitVec 4) (m act : Bool) (h : Option Hello) : State := { base with
      blk := [], sys := { base.sys with stage := n, partnerActive := act }, pair := { mode := m, hello := h } }
    let h : Hello := { devuid := 3, nonce := [], role := 1, sync := 0, cfgd := 0, actid := 0, mfn := 0, kmf := 0, mfnBase := 0, l := 0 }
    let at_ (i : Instr) (s : State) (n : BitVec 4) : Bool := chk i s (fun t => t.sys.stage == n)
    let synced (s : State) : State := { s with ethl := { s.ethl with port := [(3, { pen := true, ptp := { pstate := 9, nompd := false } })] } }
    (ptpSource (synced base) = true ∧ ptpSource base = false) ∧
    chk (.stageTime (.ptp 9)) (st 5 false false none) (fun t => t == st 5 false false none) = true ∧
    chk (.lateTimeStep 9) (st 6 false false none) (fun t => t == st 6 false false none) = true ∧
    (st 5 false false none).time.armed = true ∧ (st 6 false false none).sys.tsrc = 0 ∧
    at_ .stageRole (st 3 false false none) 3 = true ∧ at_ .pwaitExpiry (st 3 true false none) 3 = true ∧ at_ .stageRole (st 4 false false none) 6 = true ∧
    at_ .pwaitExpiry (st 4 false false none) 4 = true ∧ at_ .pwaitExpiry (st 4 true false none) 6 = true ∧ at_ .stageRole (st 4 true false (some h)) 5 = true ∧
    at_ .stageRole (st 4 true false none) 4 = true ∧
    chk (.stageTime (.ptp 9)) (synced (st 5 false false none)) (fun t => t.sys.stage == 6 && t.sys.tsrc == 1 && !t.time.armed && nowT t == nowT base + 9) = true ∧
    chk (.stageTime (.mirror 9)) (st 5 false true none) (fun t => t.sys.stage == 6 && t.sys.tsrc == 2) = true ∧
    chk (.lateTimeStep 9) (synced (st 6 false false none)) (fun t => !t.time.armed && t.sys.tsrc == 0) = true ∧
    chk (.lateTimeStep 9) (st 5 false false none) (fun t => t.time.armed) = true ∧
    at_ .twaitExpiry (st 5 false false none) 6 = true ∧ at_ .twaitExpiry (st 4 false false none) 4 = true ∧ at_ (.stageTime (.ptp 9)) (st 4 false false none) 4 = true ∧
    chk .stageRun (st 6 false false none) (fun t => enOf t bSCHED && t.sched.mfn == 0) = true ∧ chk .stageRun (st 5 false false none) (fun t => !enOf t bSCHED) = true := by decide +kernel

/-! ### The whole block -/

theorem wit_EveryStepKeepsTheRateInRange : -140737488355 ≤ State.reset.time.rate.toInt ∧ State.reset.time.rate.toInt ≤ 140737488355 ∧
    (match step { base with pending := [.snapshot] } with | .next t => t.time.rate == 0 | _ => false) = true := by decide +kernel
theorem wit_EveryStepKeepsMemoryCanonical : let s := mramWrite 5 [7] base
    tblWf s.mram 0 = true ∧ s.mram = [(5, 7)] ∧ tblWf s.dram 0 = true ∧
    (match step { s with pending := [.snapshot] } with | .next t => t.mram == [(5, 7)] | _ => false) = true := by decide +kernel

end Sys2Proof.Tests
end

section
/-! PROOFS. Register accesses (00_scope.md, 01_architecture.md): what a 32-bit access finds, reads that clear (R12),
accesses without a register (R9, R371), and the snapshots and staging of wide values (R13). -/

namespace Sys2Proof.Proofs

open Sys2Proof.Machine Sys2Proof.Laws

/-! ### Counters (R31, Table 1-13) -/

/-- A write of a block's common registers is what its counters read; other blocks keep theirs. -/
theorem cntOf_blkPut (s : State) (b c k : Nat) (v : Blk) :
    cntOf (blkPut s b v) c k = if c = b then tblGet v.cnt k 0 else cntOf s c k := by
  by_cases h : c = b
  · subst h; simp [cntOf]
  · simp [cntOf, blkGet_blkPut_ne s v h, h]

/-- A new value of one counter of a block leaves every other counter alone. -/
theorem cntOf_blkPut_tblPut (s : State) (b n c k : Nat) (w : W32) (v : Blk) (h : v.cnt = tblPut (blkGet s b).cnt n w 0) :
    cntOf (blkPut s b v) c k = if c = b ∧ k = n then w else cntOf s c k := by
  rw [cntOf_blkPut, h]
  by_cases hc : c = b
  · subst hc
    by_cases hk : k = n
    · subst hk; simp
    · simp [hk, cntOf, tblGet_tblPut_ne _ _ _ hk]
  · simp [hc]

theorem counted_count (b n : Nat) (s : State) : Counted b n s (count b n s) :=
  fun c k => cntOf_blkPut_tblPut s b n c k _ _ rfl

theorem cntOf_cntClear (b n c k : Nat) (s : State) :
    cntOf (cntClear b n s) c k = if c = b ∧ k = n then 0 else cntOf s c k :=
  cntOf_blkPut_tblPut s b n c k _ _ rfl

theorem en_cntSat_cntClear (b n c : Nat) (s : State) :
    (blkGet (cntClear b n s) c).en = (blkGet s c).en ∧ (blkGet (cntClear b n s) c).cntSat = (blkGet s c).cntSat := by
  by_cases h : c = b
  · subst h; simp [cntClear]
  · simp [cntClear, blkGet_blkPut_ne s _ h]

/-! ### Rows of accesses (R371) -/

/-- A word that a row carries in 64 bits reaches the register as it was. -/
theorem ofNat_zeroExtend_toNat (w : W32) : BitVec.ofNat 32 (w.zeroExtend 64).toNat = w := by
  rw [BitVec.ofNat_toNat]; exact BitVec.setWidth_setWidth_of_le w (by decide)

theorem gives_registerWrite {m : RegMaster} {a : BitVec 24} {size : Nat} {v : W64} {s : State} {P : State → Prop}
    (h : P (busWrite m a.toNat size v s)) : Gives (.registerWrite m a size v) s P := ⟨_, rfl, h⟩

/-- A 4-byte read gives the word that the address answers with, in the state after the read's effect. -/
theorem readRow_word {m : RegMaster} {addr : Nat} {s t : State} {w : W32} (h : readWord dbgRead m addr s = (w, t)) :
    readRow m addr 4 s = .next (emitAll [.regRead m addr w] t) := by
  simp only [readRow, busRead, busReadWith, h, if_true, ofNat_zeroExtend_toNat]
  rfl

/-! ### Accesses without a register (R9) -/

/-- The access reaches no register: its size is neither 4 nor an aligned 8, or its address answers nothing. -/
def NoRegister (s : State) (m : RegMaster) (addr size : Nat) : Prop :=
  (size ≠ 4 ∧ ¬(size = 8 ∧ addr % 8 = 0)) ∨ (size = 4 ∧ regOf s m addr = none)

theorem regOf_misaligned_or_above (s : State) (m : RegMaster) {addr : Nat} (h : addr % 4 ≠ 0 ∨ 0x150000 ≤ addr) :
    regOf s m addr = none := by
  rcases h with h | h
  · simp [regOf, h]
  · have : 21 ≤ addr / 65536 := by omega
    simp [regOf, this]

theorem busRead_noRegister {s : State} {m : RegMaster} {addr size : Nat} (h : NoRegister s m addr size) :
    busRead m addr size s = (0, count bHIF 0 s) := by
  rcases h with ⟨h4, h8⟩ | ⟨rfl, hr⟩
  · simp [busRead, busReadWith, h4, h8]
  · simp [busRead, busReadWith, readWord, hr]

theorem busWrite_noRegister {s : State} {m : RegMaster} {addr size : Nat} (v : W64) (h : NoRegister s m addr size) :
    busWrite m addr size v s = count bHIF 0 s := by
  rcases h with ⟨h4, h8⟩ | ⟨rfl, hr⟩
  · simp [busWrite, busWriteWith, h4, h8]
  · simp [busWrite, busWriteWith, writeWord, hr]

/-- The read of an access without a register: its words are 0, and HIF.CNT[0] counts it. -/
theorem readRow_noRegister {s : State} {m : RegMaster} {addr size : Nat} (h : NoRegister s m addr size) :
    readRow m addr size s =
      .next (emitAll (if size = 8 then [.regRead m addr 0, .regRead m (addr + 4) 0] else [.regRead m addr 0])
        (count bHIF 0 s)) := by
  simp [readRow, busRead_noRegister h]

/-- Settles O18: neither size nor address lets the access reach a register, so that the bus answers with 0 or with no
write, and counts. -/
theorem accessesWithoutARegister : Obligations.AccessesWithoutARegister := by
  intro m a size v s
  refine ⟨regOf_misaligned_or_above s m, fun h => ⟨⟨_, readRow_noRegister h, ?_⟩, gives_registerWrite ?_⟩⟩
  · refine ⟨rfl, ?_, ?_, counted_count bHIF 0 s⟩
    · by_cases h8 : size = 8 <;> simp [h8, emitAll]
    · by_cases h8 : size = 8 <;> simp +contextual [h8, emitAll]
  · rw [busWrite_noRegister v h]
    exact ⟨rfl, counted_count bHIF 0 s⟩

/-! ### What answers an address -/

/-- BAR0 is not closed to an access that the statement calls reachable (R498). -/
theorem regOf_reachable {s : State} {m : RegMaster} {b o : Nat} (hm : Reachable m s ∨ b = bSYS ∨ b = bPWR) (hb : b < 21)
    (ho : o < 65536) (h4 : o % 4 = 0) : regOf s m (b * 65536 + o) = regAt s b o := by
  have hdiv : (b * 65536 + o) / 65536 = b := by omega
  have hmod : (b * 65536 + o) % 65536 = o := by omega
  have hal : (b * 65536 + o) % 4 = 0 := by omega
  have hlt : ¬ 21 ≤ b := by omega
  unfold regOf
  rw [hdiv, hmod, hal]
  cases m with
  | mc0 => simp [hlt]
  | mc1 => simp [hlt]
  | bar0 k =>
    rcases hm with hm | hm | hm
    · have hs : (s.sys.stage == 0xF) = false := beq_eq_false_iff_ne.mpr (hm k rfl)
      simp only [hs]
      simp [hlt]
    · simp [hm, bSYS]
    · simp [hm, bPWR]

theorem regAt_cnt (s : State) (b : Nat) {n : Nat} (hn : n < 32) :
    regAt s b (0x40 + 4 * n) = some (r32 (0x40 + 4 * n) (cntOf s b n).toNat) := by
  have h : 0x40 + 4 * n < 0xC0 := by omega
  have hi : (0x40 + 4 * n - 0x40) / 4 = n := by omega
  have h4 : 0x40 + 4 * n ≠ 4 := by omega
  have h8 : 0x40 + 4 * n ≠ 8 := by omega
  simp [regAt, h, h4, h8, cntOf]

/-- CNT_READ returns the counter and clears it (R12). -/
theorem readWord_cnt {m : RegMaster} {b n : Nat} {s : State} (hm : Reachable m s ∨ b = bSYS ∨ b = bPWR) (hb : b < 21)
    (hn : n < 32) : readWord dbgRead m (regAddr b (0x40 + 4 * n)) s = (cntOf s b n, cntClear b n s) := by
  have hreg := regOf_reachable (o := 0x40 + 4 * n) hm hb (by omega) (by omega)
  have hdiv : (b * 65536 + (0x40 + 4 * n)) / 65536 = b := by omega
  have hmod : (b * 65536 + (0x40 + 4 * n)) % 65536 = 0x40 + 4 * n := by omega
  have h : 0x40 + 4 * n < 0xC0 := by omega
  unfold readWord regAddr
  rw [hreg, regAt_cnt s b hn, hdiv, hmod]
  simp [readReg, r32, h]

/-- The clause of O17 on counters: CNT_READ returns CNT[n] and clears it alone. -/
theorem cntRead_clears (m : RegMaster) (b : Fin 21) (n : Fin 32) (s : State) (hm : Reachable m s ∨ b.val = bSYS ∨ b.val = bPWR) :
    Gives (.cntRead m b n) s (fun t =>
      t.out = .regRead m (65536 * b.val + 0x40 + 4 * n.val) (cntOf s b n) :: s.out ∧
      (∀ c k, cntOf t c k = if c = b.val ∧ k = n.val then 0 else cntOf s c k) ∧
      (∀ c, (blkGet t c).en = (blkGet s c).en ∧ (blkGet t c).cntSat = (blkGet s c).cntSat) ∧
      { t with blk := s.blk, out := s.out } = s) := by
  refine ⟨_, readRow_word (readWord_cnt hm b.isLt n.isLt), ?_, (cntOf_cntClear b n · · s), (en_cntSat_cntClear b n · s), rfl⟩
  have ha : regAddr b.val (0x40 + 4 * n.val) = 65536 * b.val + 0x40 + 4 * n.val := by unfold regAddr; omega
  rw [ha]; rfl

/-! ### Snapshots and staging by register and master (R13) -/

theorem find?_filter_not_self {α : Type} (p : α → Bool) (l : List α) : (l.filter fun x => !p x).find? p = none := by
  rw [List.find?_eq_none]
  intro x hx
  simpa using (List.mem_filter.mp hx).2

theorem find?_filter_not_other {α : Type} {p q : α → Bool} (l : List α) (h : ∀ x, q x = true → p x = false) :
    (l.filter fun x => !p x).find? q = l.find? q := by
  rw [List.find?_filter]
  congr 1
  funext x
  cases hq : q x with
  | false => simp
  | true => simp [h x hq]

/-- The entry holds the words of the register at `a` for master `m`. -/
def latchOf (m : RegMaster) (a : Nat) (x : WideLatch) : Bool := x.who == m && x.addr == a

theorem latchOf_iff {m : RegMaster} {a : Nat} {x : WideLatch} : latchOf m a x = true ↔ x.who = m ∧ x.addr = a := by
  simp [latchOf]

theorem wideGet_eq (l : List WideLatch) (m : RegMaster) (a : Nat) :
    wideGet l m a = ((l.find? (latchOf m a)).map (·.words)).getD [] := by
  unfold wideGet latchOf
  cases List.find? _ l <;> rfl

theorem widePut_eq (l : List WideLatch) (m : RegMaster) (a : Nat) (w : Tbl W32) :
    widePut m a w l = (l.filter fun x => !latchOf m a x) ++ (if w.isEmpty then [] else [⟨m, a, w⟩]) := by
  unfold widePut latchOf
  cases w <;> simp

theorem wideGet_widePut_same (l : List WideLatch) (m : RegMaster) (a : Nat) (w : Tbl W32) :
    wideGet (widePut m a w l) m a = w := by
  rw [wideGet_eq, widePut_eq, List.find?_append, find?_filter_not_self]
  cases w <;> simp [latchOf]

theorem wideGet_widePut_ne (l : List WideLatch) {m m' : RegMaster} {a a' : Nat} (w : Tbl W32) (h : ¬(m' = m ∧ a' = a)) :
    wideGet (widePut m a w l) m' a' = wideGet l m' a' := by
  have hother : ∀ x : WideLatch, latchOf m' a' x = true → latchOf m a x = false := by
    intro x hx
    obtain ⟨hm, ha⟩ := latchOf_iff.mp hx
    exact Bool.eq_false_iff.mpr fun hc => h (by rw [← hm, ← ha]; exact latchOf_iff.mp hc)
  have hnew : latchOf m' a' ⟨m, a, w⟩ = false :=
    Bool.eq_false_iff.mpr fun hc => h (by obtain ⟨hm, ha⟩ := latchOf_iff.mp hc; exact ⟨hm.symm, ha.symm⟩)
  rw [wideGet_eq, widePut_eq, List.find?_append, find?_filter_not_other l hother, wideGet_eq]
  cases w <;> simp [hnew]

theorem foldl_tblPut_zipIdx (l : List W32) (t : Tbl W32) (k : Nat) :
    (l.zipIdx k).foldl (fun t p => tblPut t p.2 p.1 0) t = tblPutAll t k l 0 := by
  induction l generalizing t k with
  | nil => rfl
  | cons v r ih => exact ih (tblPut t k v 0) (k + 1)

/-- The words of a value, by their index, are its digits to base 2³². -/
theorem tblGet_wordsOf {n i : Nat} (v : Nat) (h : i < n) :
    (tblGet (wordsOf n v) i 0).toNat = v / 2 ^ (32 * i) % 2 ^ 32 := by
  have hlen : i < ((List.range n).map fun i => (BitVec.ofNat 32 (v / 2 ^ (32 * i)) : W32)).length := by simpa using h
  have hread := tblGet_tblPutAll_in _ [] (0 : W32) (n := 0) hlen
  rw [Nat.zero_add] at hread
  unfold wordsOf
  rw [foldl_tblPut_zipIdx, hread]
  simp

/-! ### Reads of wide values (R13) -/

/-- A read of the lowest word latches the value for the reader; DBGDATA, which reads another memory, is left out. -/
theorem readWord_wide_low {m : RegMaster} {addr : Nat} {e : RegE} {s : State} (hw : 1 < e.words) (ho : addr % 65536 = e.off)
    (hd : addr ≠ 0x100190) (hr : regOf s m addr = some e) :
    readWord dbgRead m addr s = (BitVec.ofNat 32 e.val, latchWide m addr e.words e.val s) := by
  have hone : e.words ≠ 1 := by omega
  have ha : addr / 65536 * 65536 + e.off = addr := by omega
  have hdbg : isDbgData (addr / 65536) e.off = false := by
    simp only [isDbgData, bSEC, Bool.and_eq_false_iff, beq_eq_false_iff_ne]
    omega
  simp [readWord, hr, readReg, ho, hone, ha, hdbg]

/-- A read of a higher word returns what the reader has latched. -/
theorem readWord_wide_high {m : RegMaster} {addr i : Nat} {e : RegE} {s : State} (hi : 1 ≤ i) (hw : i < e.words)
    (ho : addr % 65536 = e.off + 4 * i) (hr : regOf s m addr = some e) :
    readWord dbgRead m addr s = (tblGet (wideGet s.snaps m (addr - 4 * i)) i 0, s) := by
  have hone : e.words ≠ 1 := by omega
  have hzero : i ≠ 0 := by omega
  have ha : addr / 65536 * 65536 + e.off = addr - 4 * i := by omega
  simp [readWord, hr, readReg, ho, hone, hzero, ha]

/-- The clause of O17 on reads of the lowest word. -/
theorem wideRead_latches (m : RegMaster) (a : BitVec 24) (e : RegE) (s : State) (hw : 1 < e.words)
    (ho : a.toNat % 65536 = e.off) (hd : a.toNat ≠ 0x100190) (hr : regOf s m a.toNat = some e) :
    Gives (.wideRead m a) s (fun t => t.out = .regRead m a.toNat (BitVec.ofNat 32 e.val) :: s.out ∧
      (∀ i, i < e.words → (tblGet (wideGet t.snaps m a.toNat) i 0).toNat = e.val / 2 ^ (32 * i) % 2 ^ 32) ∧
      (∀ m' a', ¬(m' = m ∧ a' = a.toNat) → wideGet t.snaps m' a' = wideGet s.snaps m' a') ∧
      { t with snaps := s.snaps, out := s.out } = s) := by
  refine ⟨_, readRow_word (readWord_wide_low hw ho hd hr), rfl, fun i hi => ?_, fun m' a' h => ?_, rfl⟩
  · rw [emitAll_snaps, latchWide, wideGet_widePut_same]
    exact tblGet_wordsOf e.val hi
  · rw [emitAll_snaps, latchWide]
    exact wideGet_widePut_ne s.snaps _ h

/-- The clause of O17 on reads of the higher words. -/
theorem wideRead_returns_latched (m : RegMaster) (a : BitVec 24) (e : RegE) (i : Nat) (s : State) (hi : 1 ≤ i)
    (hw : i < e.words) (ho : a.toNat % 65536 = e.off + 4 * i) (hr : regOf s m a.toNat = some e) :
    Gives (.wideRead m a) s (fun t =>
      t.out = .regRead m a.toNat (tblGet (wideGet s.snaps m (a.toNat - 4 * i)) i 0) :: s.out ∧ { t with out := s.out } = s) :=
  ⟨_, readRow_word (readWord_wide_high hi hw ho hr), rfl, rfl⟩

/-! ### Writes of wide values (R13) -/

/-- Two words make a value of 64 bits. -/
theorem append_eq_ofNat (hi lo : W32) : BitVec.ofNat 64 (lo.toNat + hi.toNat * 2 ^ 32) = hi ++ lo := by
  apply BitVec.eq_of_toNat_eq
  rw [BitVec.toNat_append, BitVec.toNat_ofNat, ← Nat.shiftLeft_add_eq_or_of_lt lo.isLt, Nat.shiftLeft_eq]
  omega

/-- The state with word `i` of the register at `a` staged for the writer. -/
def stageWord (m : RegMaster) (a i : Nat) (v : W32) (s : State) : State :=
  { s with staged := widePut m a ((wideGet s.staged m a).filter (fun kv => kv.1 != i) ++ [(i, v)]) s.staged }

/-- Staging does not close BAR0 (R498). -/
theorem reachable_stageWord {m m' : RegMaster} {a i : Nat} {v : W32} {s : State} (h : Reachable m s) :
    Reachable m (stageWord m' a i v s) := h

/-- The state with nothing of the register at `a` staged for the writer. -/
def dropStaging (m : RegMaster) (a : Nat) (s : State) : State := { s with staged := widePut m a [] s.staged }

/-- The word with which a lower word `j` enters a write: the writer's staged one, else that of the present value. -/
def lowerWord (s : State) (m : RegMaster) (a j val : Nat) : W32 :=
  match (wideGet s.staged m a).find? fun kv => kv.1 == j with
  | some kv => kv.2
  | none => BitVec.ofNat 32 (val / 2 ^ (32 * j))

theorem lowerWord_stageWord (m : RegMaster) (a i val : Nat) (v : W32) (s : State) :
    lowerWord (stageWord m a i v s) m a i val = v := by
  have h : ((wideGet s.staged m a).filter fun kv => kv.1 != i).find? (fun kv => kv.1 == i) = none :=
    find?_filter_not_self _ _
  simp [lowerWord, stageWord, wideGet_widePut_same, List.find?_append, h]

theorem lowerWord_unstaged {s : State} {m : RegMaster} {a : Nat} (h : wideGet s.staged m a = []) (j val : Nat) :
    lowerWord s m a j val = BitVec.ofNat 32 (val / 2 ^ (32 * j)) := by
  rw [lowerWord, h]; rfl

/-- A write of a word below the highest one only stages it. -/
theorem writeReg_below_top (dbg : W64 → State → State) (m : RegMaster) (b : Nat) {e : RegE} {i : Nat} (hi : i + 1 < e.words)
    (v : W32) (s : State) : writeReg dbg m b (e.off + 4 * i) e v s = stageWord m (b * 65536 + e.off) i v s := by
  have hone : e.words ≠ 1 := by omega
  simp [writeReg, hone, hi, stageWord]

/-- A write of the higher word of a register of 64 bits applies the whole value, where its state does not bar it. -/
theorem writeReg_double_top (dbg : W64 → State → State) (m : RegMaster) {b : Nat} {e : RegE} (hw : e.words = 2) (v : W32)
    {s : State} (hb : ∀ x, wideBarred s m b e.off x = false) :
    writeReg dbg m b (e.off + 4) e v s =
      regApply dbg m b e.off (e.off + 4) ((lowerWord s m (b * 65536 + e.off) 0 e.val).toNat + v.toNat * 2 ^ 32)
        (dropStaging m (b * 65536 + e.off) s) := by
  cases hst : (wideGet s.staged m (b * 65536 + e.off)).find? fun kv => kv.1 == 0 <;>
    simp [writeReg, hw, hb, lowerWord, hst, dropStaging]

/-! ### Writes of TIME.TRIG[n].NEXT (R13, Table 12-3) -/

/-- The offset of TIME.TRIG[n].NEXT in its block, and its address. -/
def nextOff (n : Nat) : Nat := 0x408 + 0x20 * n
def nextAddr (n : Nat) : Nat := regAddr bTIME (nextOff n)

/-- TIME lies in a domain that is always on. -/
theorem blkOff_time (s : State) : blkOff s bTIME = false := by
  have h : blkDoms bTIME = [] := by decide
  simp [blkOff, h]

/-- Both words of NEXT are found among the registers of TIME. -/
theorem find?_timeRegs_next (s : State) {n j : Nat} (hn : n < 32) (hj : j < 2) :
    (timeRegs s (nextOff n + 4 * j)).find?
      (fun e => decide (e.off ≤ nextOff n + 4 * j) && decide (nextOff n + 4 * j < e.off + 4 * e.words)) =
      some (r64 (nextOff n) (trigGet s n).next.toNat) := by
  have hin : 0x400 ≤ nextOff n + 4 * j ∧ nextOff n + 4 * j < 0x400 + 0x20 * 32 := by unfold nextOff; omega
  have hidx : (nextOff n + 4 * j - 0x400) / 0x20 = n := by unfold nextOff; omega
  unfold timeRegs regArr
  rw [if_pos hin, hidx, List.find?_append, List.find?_eq_none.mpr, Option.none_or]
  · have h0 : nextOff n = 0x400 + 0x20 * n + 8 := by unfold nextOff; omega
    interval_cases j <;> simp [r32, r64, h0]
  · intro e he
    simp only [List.mem_cons, List.not_mem_nil, or_false] at he
    simp only [Bool.not_eq_true, Bool.and_eq_false_iff, decide_eq_false_iff_not]
    right
    rcases he with rfl | rfl | rfl | rfl | rfl | rfl | rfl | rfl | rfl <;> simp only [r32, r64, r128, nextOff] <;> omega

/-- The registers of a block's own chapter answer above its common ones, while their domain is on (R29). -/
theorem regAt_own {s : State} {b o : Nat} (ho : 0x140 ≤ o) (hoff : regOff s b o = false) :
    regAt s b o = (ownRegs s b o).find? fun e => decide (e.off ≤ o) && decide (o < e.off + 4 * e.words) := by
  unfold regAt
  rw [if_neg (by omega), if_neg (by omega), if_neg (by omega), if_neg (by omega), if_neg (by omega), if_neg]
  simp only [hoff, Bool.false_eq_true, or_false]
  omega

theorem regOf_next {s : State} {m : RegMaster} (hm : Reachable m s) {n j : Nat} (hn : n < 32) (hj : j < 2) :
    regOf s m (nextAddr n + 4 * j) = some (r64 (nextOff n) (trigGet s n).next.toNat) := by
  have hoff : regOff s bTIME (nextOff n + 4 * j) = false := by
    rw [regOff, if_neg (fun h => absurd h.1 (by decide)), blkOff_time]
  unfold nextAddr regAddr
  rw [Nat.add_assoc, regOf_reachable (.inl hm) (by decide) (by unfold nextOff; omega) (by unfold nextOff; omega),
    regAt_own (by unfold nextOff; omega) hoff]
  exact find?_timeRegs_next s hn hj

theorem nextOff_place (n : Nat) : (nextOff n - 0x400) / 0x20 = n ∧ (nextOff n - 0x400) % 0x20 = 8 := by
  unfold nextOff; omega

/-- The value of a write reaches NEXT of a trigger that every master owns (R357). -/
theorem regApply_next (dbg : W64 → State → State) (m : RegMaster) {n : Nat} (h2 : 2 ≤ n) (hn : n < 32) (o v : Nat)
    (s : State) :
    regApply dbg m bTIME (nextOff n) o v s = trigPut s n { trigGet s n with next := BitVec.ofNat 64 v } := by
  obtain ⟨hidx, hrem⟩ := nextOff_place n
  have hrange : 0x408 ≤ nextOff n ∧ nextOff n < 0x800 := by unfold nextOff; omega
  have htime : regApply dbg m bTIME (nextOff n) o v s = timeWrite m (nextOff n) v s := by
    unfold regApply
    rw [if_neg (by omega), if_neg (by omega), if_neg (by omega)]
    rfl
  have htrig : timeWrite m (nextOff n) v s = trigWrite m n 8 v s := by
    unfold timeWrite
    rw [if_neg (by omega), if_neg (by omega), if_pos (by omega), hidx, hrem]
  rw [htime, htrig]
  unfold trigWrite
  rw [if_neg (by omega)]
  rfl

/-- Nothing bars a write of NEXT of a trigger that every master owns. -/
theorem wideBarred_next (s : State) (m : RegMaster) {n : Nat} (h2 : 2 ≤ n) (v : Nat) :
    wideBarred s m bTIME (nextOff n) v = false := by
  obtain ⟨hidx, hrem⟩ := nextOff_place n
  have hmod : nextOff n % 0x20 ≠ 0x10 := by unfold nextOff; omega
  have hge : 0x408 ≤ nextOff n := by unfold nextOff; omega
  have hlo : ¬ nextOff n < 0x400 := by omega
  have hne : nextOff n ≠ 0x158 ∧ nextOff n ≠ 0x180 := by omega
  have hown : ¬ n < 2 := by omega
  unfold wideBarred
  rw [if_neg (by decide), if_neg (by decide), if_pos rfl, hidx]
  simp [hmod, hlo, hne, hown]

/-- The value with which a write of NEXT's higher word leaves the trigger. -/
def nextWritten (s : State) (m : RegMaster) (n : Nat) (hi : W32) : Trig :=
  { trigGet s n with next := hi ++ lowerWord s m (nextAddr n) 0 (trigGet s n).next.toNat }

theorem nextAddr_place (n : Nat) (hn : n < 32) {j : Nat} (hj : j < 2) :
    (nextAddr n + 4 * j) / 65536 = bTIME ∧ (nextAddr n + 4 * j) % 65536 = nextOff n + 4 * j := by
  unfold nextAddr regAddr nextOff bTIME; omega

theorem writeWord_next_low {m : RegMaster} {n : Nat} {s : State} (hm : Reachable m s) (hn : n < 32) (lo : W32) :
    writeWord dbgWrite m (nextAddr n) lo s = stageWord m (nextAddr n) 0 lo s := by
  have hreg := regOf_next hm hn (j := 0) (by decide)
  obtain ⟨hdiv, hmod⟩ := nextAddr_place n hn (j := 0) (by decide)
  rw [Nat.mul_zero, Nat.add_zero] at hreg hdiv hmod
  unfold writeWord
  rw [hreg, hdiv, hmod]
  exact writeReg_below_top dbgWrite m bTIME (e := r64 (nextOff n) _) (i := 0) Nat.one_lt_two lo s

theorem writeWord_next_high {m : RegMaster} {n : Nat} {s : State} (hm : Reachable m s) (h2 : 2 ≤ n) (hn : n < 32) (hi : W32) :
    writeWord dbgWrite m (nextAddr n + 4) hi s =
      trigPut (dropStaging m (nextAddr n) s) n (nextWritten s m n hi) := by
  have hreg := regOf_next hm hn (j := 1) (by decide)
  obtain ⟨hdiv, hmod⟩ := nextAddr_place n hn (j := 1) (by decide)
  have htop := writeReg_double_top dbgWrite m (b := bTIME) (e := r64 (nextOff n) (trigGet s n).next.toNat) rfl hi
    (wideBarred_next s m h2)
  rw [Nat.mul_one] at hreg hdiv hmod
  unfold writeWord
  rw [hreg, hdiv, hmod]
  refine htop.trans ((regApply_next dbgWrite m h2 hn _ _ _).trans ?_)
  rw [append_eq_ofNat]
  rfl

/-- The lower word alone changes nothing but the writer's staging; the higher one then gives NEXT both. -/
theorem busWrite_next_low {m : RegMaster} {n : Nat} {s : State} (hm : Reachable m s) (hn : n < 32) (lo : W32) :
    busWrite m (nextAddr n) 4 (lo.zeroExtend 64) s = stageWord m (nextAddr n) 0 lo s := by
  simp only [busWrite, busWriteWith, if_true, ofNat_zeroExtend_toNat]
  exact writeWord_next_low hm hn lo

theorem busWrite_next_high {m : RegMaster} {n : Nat} {s : State} (hm : Reachable m s) (h2 : 2 ≤ n) (hn : n < 32) (hi : W32) :
    busWrite m (nextAddr n + 4) 4 (hi.zeroExtend 64) s =
      trigPut (dropStaging m (nextAddr n) s) n (nextWritten s m n hi) := by
  simp only [busWrite, busWriteWith, if_true, ofNat_zeroExtend_toNat]
  exact writeWord_next_high hm h2 hn hi

/-- 8 bytes are the two words, the lower address first (R371). -/
theorem busWrite_next_both {m : RegMaster} {n : Nat} {s : State} (hm : Reachable m s) (h2 : 2 ≤ n) (hn : n < 32)
    (hi lo : W32) :
    busWrite m (nextAddr n) 8 (hi ++ lo) s =
      trigPut (dropStaging m (nextAddr n) (stageWord m (nextAddr n) 0 lo s)) n
        (nextWritten (stageWord m (nextAddr n) 0 lo s) m n hi) := by
  have hal : nextAddr n % 8 = 0 := by unfold nextAddr regAddr nextOff bTIME; omega
  have hsum : (hi ++ lo : W64).toNat = lo.toNat + hi.toNat * 2 ^ 32 := by
    rw [← append_eq_ofNat, BitVec.toNat_ofNat]; omega
  have hl : BitVec.ofNat 32 (hi ++ lo : W64).toNat = lo := by
    apply BitVec.eq_of_toNat_eq; rw [BitVec.toNat_ofNat, hsum]; omega
  have hh : BitVec.ofNat 32 ((hi ++ lo : W64).toNat / 2 ^ 32) = hi := by
    apply BitVec.eq_of_toNat_eq; rw [BitVec.toNat_ofNat, hsum]; omega
  unfold busWrite busWriteWith
  rw [if_neg (by decide), if_pos ⟨rfl, hal⟩, hl, hh, writeWord_next_low hm hn]
  exact writeWord_next_high (reachable_stageWord hm) h2 hn hi

/-- The addresses of NEXT as a command carries them. -/
theorem nextAddr_toNat {n : Nat} (hn : n < 32) :
    (BitVec.ofNat 24 (0xD0408 + 0x20 * n)).toNat = nextAddr n ∧
    (BitVec.ofNat 24 (0xD0408 + 0x20 * n) + 4).toNat = nextAddr n + 4 := by
  have h : (BitVec.ofNat 24 (0xD0408 + 0x20 * n)).toNat = nextAddr n := by
    rw [BitVec.toNat_ofNat]; unfold nextAddr regAddr nextOff bTIME; omega
  refine ⟨h, ?_⟩
  rw [BitVec.toNat_add, h]
  have h4 : (4 : BitVec 24).toNat = 4 := rfl
  rw [h4, Nat.mod_eq_of_lt]
  unfold nextAddr regAddr nextOff bTIME; omega

theorem trigGet_trigPut_ne (s : State) {n k : Nat} (v : Trig) (h : k ≠ n) : trigGet (trigPut s n v) k = trigGet s k := by
  simp [trigGet, trigPut, tblGet_tblPut_ne _ _ _ h]

/-- With the lower word staged, the higher one gives NEXT both. -/
theorem nextWritten_stageWord (m : RegMaster) (n : Nat) (hi lo : W32) (s : State) :
    nextWritten (stageWord m (nextAddr n) 0 lo s) m n hi = { trigGet s n with next := hi ++ lo } := by
  rw [nextWritten, lowerWord_stageWord]; rfl

theorem nextWritten_unstaged {m : RegMaster} {n : Nat} {s : State} (h : wideGet s.staged m (nextAddr n) = []) (hi : W32) :
    nextWritten s m n hi = { trigGet s n with next := hi ++ ((trigGet s n).next.truncate 32 : W32) } := by
  rw [nextWritten, lowerWord_unstaged h, Nat.mul_zero, Nat.pow_zero, Nat.div_one, BitVec.ofNat_toNat]

/-- Settles O17: a counter read clears one counter; a wide value is latched and staged by register and master, and NEXT
takes effect with its higher word. -/
theorem countersAndWideValues : Obligations.CountersAndWideValues := by
  refine ⟨cntRead_clears, wideRead_latches, wideRead_returns_latched, ?_⟩
  intro m n lo hi s h2 hm a next st
  obtain ⟨hlo, hhi⟩ := nextAddr_toNat n.isLt
  refine ⟨gives_registerWrite ?_, fun hst => gives_registerWrite ?_, gives_registerWrite ?_⟩
  · rw [hlo, busWrite_next_low hm n.isLt]
    refine ⟨rfl, gives_registerWrite ?_⟩
    rw [hhi, busWrite_next_high (reachable_stageWord hm) h2 n.isLt, nextWritten_stageWord]
    simp only [next, trigGet_trigPut]
  · rw [hhi, busWrite_next_high hm h2 n.isLt, nextWritten_unstaged (hlo ▸ hst)]
    exact ⟨by simp only [next, trigGet_trigPut], fun k hk => trigGet_trigPut_ne _ _ hk⟩
  · rw [hlo, busWrite_next_both hm h2 n.isLt, nextWritten_stageWord]
    simp only [next, trigGet_trigPut, and_self]

end Sys2Proof.Proofs
end

section
/-! PROOFS. Enables and rings: writes of CTRL.EN (R33, R35), of HIF.RINGEN (R382) and of the ring registers (R374). -/

namespace Sys2Proof.Proofs

open Sys2Proof.Machine Sys2Proof.Laws

/-! ### What a change of EN leaves alone (R33) -/

/-- EN of block `b` is `v`, while every other block's EN and every counter is as before. -/
def EnBecomes (b : Nat) (v : Bool) (s t : State) : Prop :=
  enOf t b = v ∧ (∀ c, c ≠ b → enOf t c = enOf s c) ∧ ∀ c k, cntOf t c k = cntOf s c k

theorem enBecomes_self (b : Nat) (s : State) : EnBecomes b (enOf s b) s s := ⟨rfl, fun _ _ => rfl, fun _ _ => rfl⟩

/-- New common registers of a block with its old counters change its EN alone. -/
theorem enBecomes_blkPut (b : Nat) (s : State) {w : Blk} (h : w.cnt = (blkGet s b).cnt) :
    EnBecomes b w.en s (blkPut s b w) := by
  refine ⟨by simp [enOf], fun c hc => by simp [enOf, blkGet_blkPut_ne s w hc], fun c k => ?_⟩
  rw [cntOf_blkPut, h]
  split_ifs with hc
  · rw [hc]; rfl
  · rfl

/-- EN and counters lie in the common registers alone. -/
theorem EnBecomes.of_blk {b : Nat} {v : Bool} {s t u : State} (h : EnBecomes b v s t) (hu : u.blk = t.blk) :
    EnBecomes b v s u := by
  have hget : ∀ c, blkGet u c = blkGet t c := fun c => by rw [blkGet, blkGet, hu]
  obtain ⟨hb, hen, hcnt⟩ := h
  simp only [EnBecomes, enOf, cntOf, hget]
  exact ⟨hb, hen, hcnt⟩

theorem enBecomes_enable (b : Nat) (s : State) : EnBecomes b true s (enable s b) := enBecomes_blkPut b s rfl

theorem enBecomes_setEn (b : Nat) (v : Bool) (s : State) : EnBecomes b v s (setEn s b v) := enBecomes_blkPut b s rfl

/-- The drains that a falling EN starts are recorded outside the common registers. -/
theorem enFalls_blk (b : Nat) (s : State) : (enFalls b s).blk = s.blk := by
  unfold enFalls
  split_ifs <;> rfl

/-- Only the drains of four blocks are recorded. -/
theorem enFalls_unrecorded {b : Nat} (hs : b ≠ bSOLV) (hp : b ≠ bPARC) (hm : b ≠ bMETR) (hr : b ≠ bRTC) (s : State) :
    enFalls b s = s := by
  simp [enFalls, hs, hp, hm, hr]

/-! ### Writes of CTRL (R33, R35) -/

/-- A write of EN that has no effect: SCHED, PWR and SEC follow MC0 alone, and SCHED and SEC do not stop (Tables 2-14,
14-12). -/
abbrev EnIgnored (m : RegMaster) (b : Nat) (v : Bool) : Prop :=
  ((b = bSCHED ∨ b = bPWR ∨ b = bSEC) ∧ m ≠ .mc0) ∨ ((b = bSCHED ∨ b = bSEC) ∧ v = false)

theorem enIgnored_iff {m : RegMaster} {b : Nat} {v : Bool} :
    EnIgnored m b v ↔ ((enLocked b && m != .mc0) || (enSticks b && !v)) = true := by
  simp [EnIgnored, enLocked, enSticks, or_assoc]

theorem enOp_ignored {m : RegMaster} {b : Nat} {v : Bool} (h : EnIgnored m b v) (s : State) : enOp m b v s = s := by
  simp [enOp, enIgnored_iff.mp h]

theorem enOp_taken {m : RegMaster} {b : Nat} {v : Bool} (h : ¬EnIgnored m b v) (s : State) :
    enOp m b v s = if enOf s b == v then s else if v then enable s b else enFalls b (setEn s b false) := by
  have htaken := Bool.eq_false_iff.mpr fun hi => h (enIgnored_iff.mpr hi)
  simp only [enOp, htaken, Bool.false_or]

/-- A write of EN that is not ignored: nothing changes, or EN rises, or it falls and a drain begins. -/
theorem enOp_cases {m : RegMaster} {b : Nat} {v : Bool} (h : ¬EnIgnored m b v) (s : State) :
    (v = enOf s b ∧ enOp m b v s = s) ∨ (v = true ∧ enOp m b v s = enable s b) ∨
      (v = false ∧ enOp m b v s = enFalls b (setEn s b false)) := by
  rw [enOp_taken h]
  by_cases he : enOf s b = v
  · exact .inl ⟨he.symm, by simp [he]⟩
  · cases v with
    | true => exact .inr (.inl ⟨rfl, by simp [he]⟩)
    | false => exact .inr (.inr ⟨rfl, by simp [he]⟩)

/-- EN after a write of CTRL (R33). -/
theorem enBecomes_enOp (m : RegMaster) (b : Nat) (v : Bool) (s : State) :
    EnBecomes b (if EnIgnored m b v then enOf s b else v) s (enOp m b v s) := by
  split_ifs with h
  · rw [enOp_ignored h]
    exact enBecomes_self b s
  · rcases enOp_cases h s with ⟨rfl, ht⟩ | ⟨rfl, ht⟩ | ⟨rfl, ht⟩ <;> rw [ht]
    · exact enBecomes_self b s
    · exact enBecomes_enable b s
    · exact (enBecomes_setEn b false s).of_blk (enFalls_blk b _)

/-- Waiting work stays where it was: outside the common registers a write of EN changes recorded drains alone. -/
theorem enOp_frame (m : RegMaster) {b : Nat} (v : Bool) (s : State) (hs : b ≠ bSOLV) (hp : b ≠ bPARC) (hm : b ≠ bMETR)
    (hr : b ≠ bRTC) : { enOp m b v s with blk := s.blk } = s := by
  by_cases h : EnIgnored m b v
  · rw [enOp_ignored h]
  · rcases enOp_cases h s with ⟨-, ht⟩ | ⟨-, ht⟩ | ⟨-, ht⟩ <;> rw [ht]
    · rfl
    · rw [enFalls_unrecorded hs hp hm hr]; rfl

/-- CTRL of every block answers, also of one whose domain is off (R29, log entry 26). -/
theorem regAt_ctrl (s : State) (b : Nat) : regAt s b 4 = some (r32 4 (b2n (enOf s b))) := rfl

/-- A 4-byte write whose address is a register of one word applies the word. -/
theorem busWrite_single {m : RegMaster} {b o : Nat} {e : RegE} {s : State} (ho : o < 65536)
    (hr : regOf s m (regAddr b o) = some e) (hw : e.words = 1) (v : W32) :
    busWrite m (regAddr b o) 4 (v.zeroExtend 64) s = regApply dbgWrite m b e.off o v.toNat s := by
  have hdiv : regAddr b o / 65536 = b := by unfold regAddr; omega
  have hmod : regAddr b o % 65536 = o := by unfold regAddr; omega
  simp only [busWrite, busWriteWith, if_true, ofNat_zeroExtend_toNat]
  unfold writeWord
  rw [hr, hdiv, hmod]
  simp [writeReg, hw]

theorem busWrite_ctrl {m : RegMaster} {b : Nat} {s : State} (hm : Reachable m s ∨ b = bSYS ∨ b = bPWR) (hb : b < 21)
    (v : W32) : busWrite m (regAddr b 4) 4 (v.zeroExtend 64) s = enOp m b (v.getLsbD 0) s :=
  busWrite_single (by decide) ((regOf_reachable hm hb (by decide) (by decide)).trans (regAt_ctrl s b)) rfl v

/-! ### The ring registers (R374, Table 13-13) -/

/-- The offset of byte `j` of HIF.RING[r] in its block. -/
def ringOff (r j : Nat) : Nat := 0x200 + 0x20 * r + j

theorem ringOff_bounds {r j : Nat} (hr : r < 64) (hj : j < 0x20) : 0x200 ≤ ringOff r j ∧ ringOff r j < 0xA00 := by
  unfold ringOff; omega

theorem ringOff_place {r j : Nat} (hj : j < 0x20) : (ringOff r j - 0x200) / 0x20 = r ∧ (ringOff r j - 0x200) % 0x20 = j := by
  unfold ringOff; omega

/-- Between 0x200 and 0x9FF the registers of HIF are those of the ring that the offset lies in. -/
theorem find?_hifRegs_ring (s : State) {r j : Nat} (hr : r < 64) (hj : j < 0x20) :
    (hifRegs s (ringOff r j)).find? (fun e => decide (e.off ≤ ringOff r j) && decide (ringOff r j < e.off + 4 * e.words)) =
      ((ringRegs s r).find? fun e => decide (e.off ≤ j) && decide (j < e.off + 4 * e.words)).map
        fun e => { e with off := ringOff r e.off } := by
  have hin : 0x200 ≤ ringOff r j ∧ ringOff r j < 0x200 + 0x20 * 64 := ringOff_bounds hr hj
  have hmsix : ¬(0x8000 ≤ ringOff r j ∧ ringOff r j < 0x8000 + 0x10 * 64) := by omega
  have hidx : (ringOff r j - 0x200) / 0x20 = r := (ringOff_place hj).1
  unfold hifRegs regArr
  rw [if_pos hin, if_neg hmsix, hidx, List.append_nil, List.find?_append, List.find?_eq_none.mpr, Option.none_or,
    List.find?_map]
  · simp only [Function.comp_def, ringOff, Nat.add_le_add_iff_left, Nat.add_assoc, Nat.add_lt_add_iff_left]
  · intro e he
    simp only [List.mem_cons, List.not_mem_nil, or_false] at he
    simp only [Bool.not_eq_true, Bool.and_eq_false_iff, decide_eq_false_iff_not]
    rcases he with rfl | rfl | rfl | rfl | rfl <;> simp only [r32, r64] <;> omega

/-- With HIF powered, its own registers answer the masters that reach it. -/
theorem regOf_hif {s : State} {m : RegMaster} (hm : Reachable m s) (hoff : blkOff s bHIF = false) {o : Nat}
    (hlo : 0x140 ≤ o) (hhi : o < 65536) (h4 : o % 4 = 0) :
    regOf s m (regAddr bHIF o) =
      (hifRegs s o).find? fun e => decide (e.off ≤ o) && decide (o < e.off + 4 * e.words) := by
  have hreg : regOff s bHIF o = false := by
    rw [regOff, if_neg (fun h => absurd h.1 (by decide)), hoff]
  unfold regAddr
  rw [regOf_reachable (.inl hm) (by decide) hhi h4, regAt_own hlo hreg]
  rfl

theorem regOf_ring {s : State} {m : RegMaster} (hm : Reachable m s) (hoff : blkOff s bHIF = false) {r j : Nat}
    (hr : r < 64) (hj : j < 0x20) (h4 : j % 4 = 0) :
    regOf s m (regAddr bHIF (ringOff r j)) =
      ((ringRegs s r).find? fun e => decide (e.off ≤ j) && decide (j < e.off + 4 * e.words)).map
        fun e => { e with off := ringOff r e.off } := by
  obtain ⟨hlo, hhi⟩ := ringOff_bounds hr hj
  rw [regOf_hif hm hoff (by omega) (by omega) (by unfold ringOff; omega), find?_hifRegs_ring s hr hj]

/-- A value written to a ring register reaches its ring. -/
theorem regApply_ring (dbg : W64 → State → State) (m : RegMaster) {r j : Nat} (hr : r < 64) (hj : j < 0x20) (o v : Nat)
    (s : State) : regApply dbg m bHIF (ringOff r j) o v s = ringWrite r j v s := by
  obtain ⟨hlo, hhi⟩ := ringOff_bounds hr hj
  obtain ⟨hidx, hrem⟩ := ringOff_place (r := r) hj
  have hhif : regApply dbg m bHIF (ringOff r j) o v s = hifWrite (ringOff r j) o v s := by
    unfold regApply
    rw [if_neg (by omega), if_neg (by omega), if_neg (by omega)]
    rfl
  rw [hhif]
  unfold hifWrite
  rw [if_neg (by omega), if_neg (by omega), if_neg (by omega), if_pos (by omega), hidx, hrem]

/-- A base or the lengths of an enabled ring: the write is discarded and counted. -/
theorem ringWrite_enabled {r j : Nat} {s : State} (hj : j ∈ [0, 8, 0x10]) (hon : ringOn s r = true) (v : Nat) :
    ringWrite r j v s = count bHIF 6 s := by
  simp only [List.mem_cons, List.not_mem_nil, or_false] at hj
  unfold ringWrite
  rw [if_neg (by omega), if_neg (by omega), if_pos hon]

/-- The ring with the lengths and classes of a written word; a length outside 2 to 16 leaves its field. -/
def ringConfigured (g : Ring) (v : Nat) : Ring :=
  { g with classMask := BitVec.ofNat 12 (bits v 27 16), cqLog := ringLog g.cqLog (bits v 12 8),
           sqLog := ringLog g.sqLog (bits v 4 0) }

theorem ringWrite_lengths_disabled {r : Nat} {s : State} (hon : ringOn s r = false) (v : Nat) :
    ringWrite r 0x10 v s = ringPut s r (ringConfigured (ringGet s r) v) := by
  simp [ringWrite, hon, ringConfigured]

/-- The fields of the lengths as the manual's places give them (Table 13-13). -/
theorem ringConfigured_eq (g : Ring) (v : Nat) :
    ringConfigured g v = { g with
      classMask := BitVec.ofNat 12 (v / 2 ^ 16), cqLog := ringLog g.cqLog (v / 2 ^ 8 % 32), sqLog := ringLog g.sqLog (v % 32) } := by
  have hmask : BitVec.ofNat 12 (bits v 27 16) = BitVec.ofNat 12 (v / 2 ^ 16) := by
    apply BitVec.eq_of_toNat_eq
    simp [bits, Nat.shiftRight_eq_div_pow]
  have hcq : bits v 12 8 = v / 2 ^ 8 % 32 := by simp [bits, Nat.shiftRight_eq_div_pow]
  have hsq : bits v 4 0 = v % 32 := by simp [bits]
  rw [ringConfigured, hmask, hcq, hsq]

/-- The state of a ring bars its bases (R374). -/
theorem wideBarred_ring (s : State) (m : RegMaster) {r j : Nat} (hj : j < 0x20) (v : Nat) :
    wideBarred s m bHIF (ringOff r j) v = ringOn s r := by
  have hidx : (ringOff r j - 0x200) / 0x20 = r := (ringOff_place hj).1
  have hlo : 0x200 ≤ ringOff r j := by unfold ringOff; omega
  have hnot : ¬ ringOff r j < 0x150 := by omega
  simp [wideBarred, hidx, hlo, hnot]

theorem regOf_ringLengths {s : State} {m : RegMaster} (hm : Reachable m s) (hoff : blkOff s bHIF = false) {r : Nat}
    (hr : r < 64) : ∃ val, regOf s m (regAddr bHIF (ringOff r 0x10)) = some (r32 (ringOff r 0x10) val) :=
  ⟨_, regOf_ring hm hoff hr (by decide) (by decide)⟩

theorem busWrite_ringLengths {m : RegMaster} {r : Nat} {s : State} (hm : Reachable m s) (hoff : blkOff s bHIF = false)
    (hr : r < 64) (w : W32) :
    busWrite m (regAddr bHIF (ringOff r 0x10)) 4 (w.zeroExtend 64) s = ringWrite r 0x10 w.toNat s := by
  obtain ⟨val, hreg⟩ := regOf_ringLengths hm hoff hr
  have hhi := (ringOff_bounds hr (j := 0x10) (by decide)).2
  exact (busWrite_single (by omega) hreg rfl w).trans (regApply_ring _ m hr (by decide) _ _ s)

/-! ### Writes of 8 bytes (R13, R371) -/

theorem toNat_halves (v : W64) :
    (BitVec.ofNat 32 v.toNat).toNat + (BitVec.ofNat 32 (v.toNat / 2 ^ 32)).toNat * 2 ^ 32 = v.toNat := by
  simp only [BitVec.toNat_ofNat]
  omega

/-- The state with the lower half of a value of 64 bits staged for the writer. -/
def stageLow (m : RegMaster) (b o : Nat) (v : W64) (s : State) : State :=
  stageWord m (regAddr b o) 0 (BitVec.ofNat 32 v.toNat) s

/-- A write of the higher word applies it with the staged lower one; where the register's state bars the value, the
staging stays. -/
theorem writeReg_double_staged (dbg : W64 → State → State) (m : RegMaster) (b o val : Nat) (v : W64) (s : State) :
    writeReg dbg m b (o + 4) (r64 o val) (BitVec.ofNat 32 (v.toNat / 2 ^ 32)) (stageLow m b o v s) =
      regApply dbg m b o (o + 4) v.toNat (if wideBarred (stageLow m b o v s) m b o v.toNat then stageLow m b o v s
        else dropStaging m (regAddr b o) (stageLow m b o v s)) := by
  have hfind : (wideGet (stageLow m b o v s).staged m (b * 65536 + o)).find? (fun kv => kv.1 == 0) =
      some (0, BitVec.ofNat 32 v.toNat) := by
    have hrest := find?_filter_not_self (fun kv : Nat × W32 => kv.1 == 0) (wideGet s.staged m (b * 65536 + o))
    simp only [stageLow, stageWord, regAddr, wideGet_widePut_same, List.find?_append]
    exact congrArg (fun x => Option.or x _) hrest
  have hwhole := toNat_halves v
  simp only [writeReg, r64, Nat.add_sub_cancel_left, Nat.reduceDiv, Nat.reduceEqDiff, Nat.reduceAdd, Nat.lt_irrefl, if_false,
    List.range_one, List.map_cons, List.map_nil, List.sum_cons, List.sum_nil, hfind, Nat.mul_zero, Nat.pow_zero, Nat.mul_one,
    Nat.add_zero, hwhole]
  rfl

/-- 8 bytes at a register of 64 bits apply the whole value; the staging stays where the register's state bars it. -/
theorem busWrite_double {m : RegMaster} {b o val : Nat} {s : State} {v : W64} (ho : o + 4 < 65536) (h8 : o % 8 = 0)
    (hlow : regOf s m (regAddr b o) = some (r64 o val))
    (hhigh : regOf (stageLow m b o v s) m (regAddr b (o + 4)) = some (r64 o val)) :
    busWrite m (regAddr b o) 8 v s =
      regApply dbgWrite m b o (o + 4) v.toNat (if wideBarred (stageLow m b o v s) m b o v.toNat then stageLow m b o v s
        else dropStaging m (regAddr b o) (stageLow m b o v s)) := by
  obtain ⟨hal, hdiv, hmod⟩ : regAddr b o % 8 = 0 ∧ regAddr b o / 65536 = b ∧ regAddr b o % 65536 = o := by
    unfold regAddr; omega
  obtain ⟨hdiv4, hmod4⟩ : regAddr b (o + 4) / 65536 = b ∧ regAddr b (o + 4) % 65536 = o + 4 := by
    unfold regAddr; omega
  have hlower : writeWord dbgWrite m (regAddr b o) (BitVec.ofNat 32 v.toNat) s = stageLow m b o v s := by
    unfold writeWord
    rw [hlow, hdiv, hmod]
    exact writeReg_below_top dbgWrite m b (e := r64 o val) (i := 0) Nat.one_lt_two _ s
  have hnext : regAddr b o + 4 = regAddr b (o + 4) := Nat.add_assoc ..
  unfold busWrite busWriteWith
  rw [if_neg (by decide), if_pos ⟨rfl, hal⟩, hlower, hnext]
  unfold writeWord
  rw [hhigh, hdiv4, hmod4]
  exact writeReg_double_staged dbgWrite m b o val v s

/-- SQBASE lies at byte 0 of a ring's registers, CQBASE at byte 8. -/
def ringBase (g : Ring) (j : Nat) : W64 := if j = 0 then g.sqBase else g.cqBase

theorem regOf_ringBase {s : State} {m : RegMaster} (hm : Reachable m s) (hoff : blkOff s bHIF = false) {r j : Nat}
    (hr : r < 64) (hj : j = 0 ∨ j = 8) :
    regOf s m (regAddr bHIF (ringOff r j)) = some (r64 (ringOff r j) (ringBase (ringGet s r) j).toNat) ∧
    regOf s m (regAddr bHIF (ringOff r j + 4)) = some (r64 (ringOff r j) (ringBase (ringGet s r) j).toNat) := by
  have hplace : ringOff r j + 4 = ringOff r (j + 4) := rfl
  rw [hplace, regOf_ring hm hoff hr (by omega) (by omega), regOf_ring hm hoff hr (by omega) (by omega)]
  rcases hj with rfl | rfl <;> exact ⟨rfl, rfl⟩

/-- A base of an enabled ring: the write is discarded and counted once, and what the writer staged stays. -/
theorem busWrite_ringBase_enabled {m : RegMaster} {r j : Nat} {s : State} (hm : Reachable m s) (hoff : blkOff s bHIF = false)
    (hr : r < 64) (hj : j = 0 ∨ j = 8) (hon : ringOn s r = true) (v : W64) :
    busWrite m (regAddr bHIF (ringOff r j)) 8 v s = count bHIF 6 (stageLow m bHIF (ringOff r j) v s) := by
  have hlt : j < 0x20 := by omega
  have hmem : j ∈ [0, 8, 0x10] := by rcases hj with rfl | rfl <;> decide
  obtain ⟨-, hhi⟩ := ringOff_bounds hr hlt
  have hal : ringOff r j % 8 = 0 := by unfold ringOff; omega
  have hlow := (regOf_ringBase hm hoff hr hj).1
  have hhigh := (regOf_ringBase (s := stageLow m bHIF (ringOff r j) v s) (reachable_stageWord hm) hoff hr hj).2
  have honStaged : ringOn (stageLow m bHIF (ringOff r j) v s) r = true := hon
  have hbar : wideBarred (stageLow m bHIF (ringOff r j) v s) m bHIF (ringOff r j) v.toNat = true :=
    (wideBarred_ring _ m hlt v.toNat).trans honStaged
  rw [busWrite_double (by omega) hal hlow hhigh, if_pos hbar, regApply_ring dbgWrite m hr hlt]
  exact ringWrite_enabled hmem honStaged _

/-! ### HIF.RINGEN (R374, R382) -/

/-- A ring that starts: the first index of each queue, phase 1, and no doorbell taken yet. -/
def ringStarted (g : Ring) : Ring :=
  { g with cqTail := 0, sqHead := 0, phase := true, unread := 0, sqt := 0, cqh := 0, lastIgnored := false, fetching := 0 }

theorem ringGet_ringStart (s : State) (r k : Nat) :
    ringGet (ringStart r s) k = if k = r then ringStarted (ringGet s r) else ringGet s k := by
  unfold ringStart
  split_ifs with h
  · rw [h, ringGet_ringPut]; rfl
  · exact ringGet_ringPut_ne s _ h

/-- Each ring that starts starts afresh, however often it is named; the others are as before. -/
theorem ringGet_foldl_ringStart (l : List Nat) (s : State) (k : Nat) :
    ringGet (l.foldl (fun t r => ringStart r t) s) k = if k ∈ l then ringStarted (ringGet s k) else ringGet s k := by
  induction l generalizing s with
  | nil => rfl
  | cons r l ih =>
    rw [List.foldl_cons, ih, ringGet_ringStart]
    by_cases hr : k = r
    · subst hr
      by_cases hl : k ∈ l <;> simp [hl, ringStarted]
    · simp [hr]

/-- Starting rings changes HIF alone. -/
theorem foldl_ringStart_frame (l : List Nat) (s : State) :
    { l.foldl (fun t r => ringStart r t) s with hif := s.hif } = s := by
  induction l generalizing s with
  | nil => rfl
  | cons r l ih => exact congrArg (fun t : State => { t with hif := s.hif }) (ih (ringStart r s))

theorem ringGet_ringenOp (v : W64) (s : State) (k : Nat) :
    ringGet (ringenOp v s) k =
      if k < 64 ∧ v.getLsbD k = true ∧ ringOn s k = false then ringStarted (ringGet s k) else ringGet s k := by
  have h := ringGet_foldl_ringStart ((List.range 64).filter fun r => v.getLsbD r && !ringOn s r) s k
  simp only [List.mem_filter, List.mem_range, Bool.and_eq_true, Bool.not_eq_true'] at h
  exact h

theorem ringenOp_frame (v : W64) (s : State) : { ringenOp v s with hif := s.hif } = s :=
  foldl_ringStart_frame _ s

theorem regOf_ringen {s : State} {m : RegMaster} (hm : Reachable m s) (hoff : blkOff s bHIF = false) :
    regOf s m (regAddr bHIF 0x150) = some (r64 0x150 s.hif.ringEn.toNat) ∧
    regOf s m (regAddr bHIF (0x150 + 4)) = some (r64 0x150 s.hif.ringEn.toNat) := by
  rw [regOf_hif hm hoff (by decide) (by decide) (by decide), regOf_hif hm hoff (by decide) (by decide) (by decide)]
  exact ⟨rfl, rfl⟩

/-- A write of RINGEN starts and drains rings, with nothing of it staged afterwards. -/
theorem busWrite_ringen {m : RegMaster} {s : State} (hm : Reachable m s) (hoff : blkOff s bHIF = false) (v : W64) :
    busWrite m (regAddr bHIF 0x150) 8 v s =
      ringenOp v (dropStaging m (regAddr bHIF 0x150) (stageLow m bHIF 0x150 v s)) := by
  have hlow := (regOf_ringen hm hoff).1
  have hhigh := (regOf_ringen (s := stageLow m bHIF 0x150 v s) (reachable_stageWord hm) hoff).2
  have hopen : ¬wideBarred (stageLow m bHIF 0x150 v s) m bHIF 0x150 v.toNat = true := Bool.false_ne_true
  have happly : ∀ x u, regApply dbgWrite m bHIF 0x150 (0x150 + 4) x u = ringenOp (BitVec.ofNat 64 x) u := fun _ _ => rfl
  rw [busWrite_double (by decide) (by decide) hlow hhigh, if_neg hopen, happly, BitVec.ofNat_toNat, BitVec.setWidth_eq]

/-! ### The clauses of O19 -/

theorem gives_enWrite {m : RegMaster} {b : Fin 21} {v : W32} {s : State} {P : State → Prop}
    (h : P (busWrite m (regAddr b 4) 4 (v.zeroExtend 64) s)) : Gives (.enWrite m b v) s P := ⟨_, rfl, h⟩

theorem gives_ringen {m : RegMaster} {v : W64} {s : State} {P : State → Prop}
    (h : P (busWrite m (regAddr bHIF 0x150) 8 v s)) : Gives (.ringen m v) s P := ⟨_, rfl, h⟩

/-- The address of a ring register as a command carries it. -/
theorem ringAddr_toNat {n r j : Nat} (hr : r < 64) (hj : j < 0x20) (hn : n = 0x10200 + 0x20 * r + j) :
    (BitVec.ofNat 24 n).toNat = regAddr bHIF (ringOff r j) := by
  rw [BitVec.toNat_ofNat]
  unfold regAddr ringOff bHIF
  omega

/-- The clause of O19 on RINGEN: it takes the value, rings whose bit rises start, the others stay (R374, R382). -/
theorem ringen_starts {m : RegMaster} {s : State} (hm : Reachable m s) (hoff : blkOff s bHIF = false) (v : W64) :
    Gives (.ringen m v) s (fun t => t.hif.ringEn = v ∧
      (∀ k, k < 64 → v.getLsbD k = true → ringOn s k = false → ringGet t k = ringStarted (ringGet s k)) ∧
      (∀ k, v.getLsbD k = false ∨ ringOn s k = true → ringGet t k = ringGet s k) ∧
      { t with hif := s.hif, staged := s.staged } = s) := by
  apply gives_ringen
  rw [busWrite_ringen hm hoff]
  refine ⟨rfl, fun k hk hv hon => ?_, fun k hk => ?_, ?_⟩
  · exact (ringGet_ringenOp v _ k).trans (if_pos ⟨hk, hv, hon⟩)
  · refine (ringGet_ringenOp v _ k).trans (if_neg fun ⟨_, hv, hon⟩ => ?_)
    rcases hk with hk | hk
    · exact absurd (hv.symm.trans hk) (by decide)
    · exact absurd (hk.symm.trans hon) (by decide)
  · exact congrArg (fun t : State => { t with staged := s.staged }) (ringenOp_frame v _)

/-- Settles O19: a write of CTRL changes one EN and what its drain records, a write of RINGEN starts the rings whose bit
rises, and the registers of a ring take effect while it is disabled. -/
theorem enablesAndRings : Obligations.EnablesAndRings := by
  refine ⟨fun m b v s hm => gives_enWrite ?_, fun m v r w s hm hoff => ?_⟩
  · rw [busWrite_ctrl hm b.isLt]
    obtain ⟨hen, hothers, hcnt⟩ := enBecomes_enOp m b (v.getLsbD 0) s
    exact ⟨hen, hothers, hcnt, enOp_frame m _ s⟩
  · have hcfg : (BitVec.ofNat 24 (0x10210 + 0x20 * r.val)).toNat = regAddr bHIF (ringOff r 0x10) :=
      ringAddr_toNat r.isLt (by decide) (by omega)
    refine ⟨?_, fun hon => ⟨gives_registerWrite ?_, fun a ha => gives_registerWrite ?_⟩, fun hon => gives_registerWrite ?_⟩
    · obtain ⟨t, ht, hv, hstart, hkeep, hframe⟩ := ringen_starts hm hoff v
      refine ⟨t, ht, hv, fun k hk hvk hon => ?_, hkeep, hframe⟩
      rw [hstart k hk hvk hon]
      exact ⟨rfl, rfl, rfl, rfl, rfl⟩
    · rw [hcfg, busWrite_ringLengths hm hoff r.isLt]
      exact ringWrite_enabled (by decide) hon _
    · obtain ⟨j, hj, hplace⟩ : ∃ j, (j = 0 ∨ j = 8) ∧ a.toNat = regAddr bHIF (ringOff r j) := by
        simp only [List.mem_cons, List.not_mem_nil, or_false] at ha
        rcases ha with rfl | rfl
        · exact ⟨0, .inl rfl, ringAddr_toNat r.isLt (by decide) (by omega)⟩
        · exact ⟨8, .inr rfl, ringAddr_toNat r.isLt (by decide) (by omega)⟩
      rw [hplace, busWrite_ringBase_enabled hm hoff r.isLt hj hon]
      rfl
    · rw [hcfg, busWrite_ringLengths hm hoff r.isLt, ringWrite_lengths_disabled hon]
      exact ⟨(ringGet_ringPut s r _).trans (ringConfigured_eq _ _), fun k hk => ringGet_ringPut_ne s _ hk⟩

end Sys2Proof.Proofs
end

section
/-! PROOFS. What the contract checker guarantees (R61): an image that it accepts passed every check, and what the checks
on slots, windows and DRAM reservations (0x07, 0x08, 0x0A, 0x0B, 0x0C) say of it. -/

namespace Sys2Proof.Proofs

open Sys2Proof.Machine

/-! ### Checks in order -/

/-- A failure carries a result code: code 0 is that of an accepted image. -/
def Reported (f : Failure) : Prop := ∀ p, f = some p → p.1 ≠ 0

theorem reported_none : Reported none := fun _ h => nomatch h

theorem reported_some {c : Nat} (hc : c ≠ 0) (i : Nat) : Reported (some (c, i)) := by
  rintro p ⟨⟩
  exact hc

theorem reported_need {code : Nat} (hc : code ≠ 0) (c : Bool) (item : Nat) : Reported (need c code item) := by
  cases c
  · exact reported_some hc item
  · exact reported_none

theorem reported_firstBad {α : Type} {code : Nat} (hc : code ≠ 0) (ok : Nat → α → Bool) (l : List α) :
    Reported (firstBad code ok l) := by
  intro p hp
  obtain ⟨x, -, rfl⟩ := Option.map_eq_some_iff.mp hp
  exact hc

theorem reported_inOrder {l : List (Unit → Failure)} (h : l.Forall fun f => Reported (f ())) : Reported (inOrder l) := by
  intro p hp
  obtain ⟨f, hf, hfp⟩ := List.exists_of_findSome?_eq_some hp
  exact List.forall_iff_forall_mem.mp h f hf p hfp

theorem inOrder_eq_none {l : List (Unit → Failure)} : inOrder l = none ↔ l.Forall fun f => f () = none :=
  List.findSome?_eq_none_iff.trans List.forall_iff_forall_mem.symm

theorem firstBad_eq_none {α : Type} {code : Nat} {ok : Nat → α → Bool} {l : List α} :
    firstBad code ok l = none ↔ ∀ i x, l[i]? = some x → ok i x = true := by
  simp [firstBad, List.mem_zipIdx_iff_getElem?]
  exact ⟨fun h i x => h x i, fun h x i => h i x⟩

/-- No entry conflicts with a later one. -/
theorem pairsApart_eq_none {α : Type} {code : Nat} {bad : α → α → Bool} {l : List α} (h : pairsApart code bad l = none)
    {i j : Nat} {x y : α} (hij : i < j) (hx : l[i]? = some x) (hy : l[j]? = some y) : bad x y = false := by
  have hj := firstBad_eq_none.mp h j y hy
  rw [Bool.not_eq_true', List.any_eq_false] at hj
  have hmem : x ∈ l.take j := List.mem_iff_getElem?.mpr ⟨i, by rw [List.getElem?_take_of_lt hij]; exact hx⟩
  simpa using hj x hmem

/-! ### Every check reports with its own code -/

theorem reported_chkFormat (b : Bytes) (im : Image) : Reported (chkFormat b im) := by
  apply reported_inOrder
  refine ⟨reported_need (by decide) _ _, reported_firstBad (by decide) _ _, ?_, reported_firstBad (by decide) _ _⟩
  intro p hp
  obtain ⟨t, -, rfl⟩ := Option.map_eq_some_iff.mp hp
  exact Nat.one_ne_zero

theorem reported_chkCounts (im : Image) : Reported (chkCounts im) := by
  apply reported_inOrder
  refine ⟨?_, ?_, ?_, ?_, ?_⟩ <;> exact reported_firstBad (by decide) _ _

theorem reported_chkCapacity (im : Image) : Reported (chkCapacity im) := by
  apply reported_inOrder
  refine ⟨?_, ?_, ?_, ?_, ?_, ?_, ?_, reported_chkCounts im⟩ <;> exact reported_firstBad (by decide) _ _

theorem reported_spaced (l : List (Nat × Nat)) (prev : Int) : Reported (spaced prev l) := by
  induction l generalizing prev with
  | nil => exact reported_none
  | cons p r ih =>
    unfold spaced
    split_ifs
    · exact ih _
    · exact reported_some (by decide) _

theorem reported_chkHif (im : Image) : Reported (chkHif im) := by
  apply reported_inOrder
  refine ⟨reported_firstBad (by decide) _ _, ?_⟩
  split
  · exact reported_spaced _ _
  · exact reported_none

theorem reported_chkCut (im : Image) : Reported (chkCut im) := by
  unfold chkCut
  dsimp only
  split
  · exact reported_none
  · exact reported_some (by decide) _
  · exact reported_need (by decide) _ _
  · exact reported_some (by decide) _

theorem reported_chkSlotRange (im : Image) : Reported (chkSlotRange im) :=
  reported_inOrder ⟨reported_need (by decide) _ _, reported_firstBad (by decide) _ _, reported_need (by decide) _ _,
    reported_firstBad (by decide) _ _, reported_chkHif im, reported_chkCut im, reported_firstBad (by decide) _ _,
    reported_firstBad (by decide) _ _⟩

theorem reported_chkSnap (im : Image) : Reported (chkSnap im) :=
  reported_inOrder ⟨reported_need (by decide) _ _, reported_firstBad (by decide) _ _⟩

theorem reported_chkWindow (s : State) (im : Image) : Reported (chkWindow s im) :=
  reported_inOrder ⟨reported_firstBad (by decide) _ _, reported_firstBad (by decide) _ _⟩

theorem reported_dramSum (n ch : Nat) (l : List (DramRes × Nat)) (tot : Nat) : Reported (dramSum n ch tot l) := by
  induction l generalizing tot with
  | nil => exact reported_none
  | cons p r ih =>
    obtain ⟨q, i⟩ := p
    unfold dramSum
    split_ifs
    · exact reported_some (by decide) _
    · exact ih _
    · exact ih _

theorem reported_chkDram (im : Image) : Reported (chkDram im) :=
  reported_inOrder ⟨reported_firstBad (by decide) _ _, reported_firstBad (by decide) _ _, reported_dramSum _ _ _ _,
    reported_dramSum _ _ _ _⟩

/-! ### An accepted image -/

/-- What of the accepted image's checks speaks of conflicts. -/
structure PassesConflicts (s : State) (im : Image) : Prop where
  slotRange : chkSlotRange im = none
  slotPairs : pairsApart 8 slotsMeet im.slots = none
  reserve : chkReserve im = none
  window : chkWindow s im = none
  dram : chkDram im = none

/-- The checker's checks, in their order. -/
def imageChecks (s : State) (boot : Bool) (b : Bytes) : List (Unit → Failure) :=
  let im := parseImage b
  [fun _ => chkFormat b im, fun _ => chkSection im, fun _ => chkSignature s im,
    fun _ => need (decide (s.sched.rbFloor.toNat ≤ im.imgSeq.toNat)) 4 itemHdr,
    fun _ => need (decide (im.minRev ≤ 0x42) && bit im.flags (if boot then 0 else 1)) 5 itemHdr,
    fun _ => chkContents im, fun _ => chkCapacity im, fun _ => chkSlotRange im, fun _ => pairsApart 8 slotsMeet im.slots,
    fun _ => chkSnap im, fun _ => chkReserve im, fun _ => chkWindow s im, fun _ => chkDram im,
    fun _ => firstBad 14 (fun _ x => xingOk im x) im.xing]

theorem checkImage_eq (s : State) (boot : Bool) (b : Bytes) :
    checkImage s boot b = (inOrder (imageChecks s boot b)).getD (0, 0) := rfl

theorem reported_imageChecks (s : State) (boot : Bool) (b : Bytes) :
    (imageChecks s boot b).Forall fun f => Reported (f ()) :=
  ⟨reported_chkFormat _ _, reported_firstBad (by decide) _ _, reported_need (by decide) _ _,
    reported_need (by decide) _ _, reported_need (by decide) _ _, reported_firstBad (by decide) _ _,
    reported_chkCapacity _, reported_chkSlotRange _, reported_firstBad (by decide) _ _, reported_chkSnap _,
    reported_firstBad (by decide) _ _, reported_chkWindow _ _, reported_chkDram _, reported_firstBad (by decide) _ _⟩

/-- RESULT 0 means that every check passed. -/
theorem checkImage_accepts {s : State} {boot : Bool} {b : Bytes} (h : (checkImage s boot b).1 = 0) :
    (imageChecks s boot b).Forall fun f => f () = none := by
  apply inOrder_eq_none.mp
  rw [checkImage_eq] at h
  cases hr : inOrder (imageChecks s boot b) with
  | none => rfl
  | some p =>
    rw [hr] at h
    exact absurd h (reported_inOrder (reported_imageChecks s boot b) p hr)

theorem passesConflicts_of_accepted {s : State} {boot : Bool} {b : Bytes} (h : (checkImage s boot b).1 = 0) :
    PassesConflicts s (parseImage b) := by
  obtain ⟨-, -, -, -, -, -, -, hrange, hpairs, -, hreserve, hwindow, hdram, -⟩ := checkImage_accepts h
  exact ⟨hrange, hpairs, hreserve, hwindow, hdram⟩

/-! ### Slots (checks 0x07, 0x08 and 0x0A) -/

theorem slotOk_of_passes {im : Image} (h : chkSlotRange im = none) {i : Nat} {x : SlotE} (hx : im.slots[i]? = some x) :
    slotOk im i x = true := by
  obtain ⟨-, hslots, -⟩ := inOrder_eq_none.mp h
  exact firstBad_eq_none.mp hslots i x hx

/-- Of the fields that check 0x07 tests, those that keep slots apart. -/
theorem slotOk_bounds {im : Image} {i : Nat} {x : SlotE} (h : slotOk im i x = true) :
    1 ≤ x.budget ∧ sEnd x ≤ roomOf im ∧ x.phase < x.period := by
  simp only [slotOk, Bool.and_eq_true, decide_eq_true_eq] at h
  obtain ⟨⟨⟨⟨⟨⟨⟨-, hbudget⟩, hend⟩, -⟩, hphase⟩, -⟩, -⟩, -⟩ := h
  exact ⟨hbudget, hend, hphase⟩

/-- A slot is active in the frames that leave its phase as remainder (R37). -/
theorem slotActive_dvd {x : SlotE} {m : Nat} (hphase : x.phase < x.period) (h : slotActive x m = true) :
    (x.period : Int) ∣ (m : Int) - x.phase := by
  have hmod : (m + x.period - x.phase) % x.period = 0 := by
    have hmax : max 1 x.period = x.period := by omega
    simpa [slotActive, hmax] using h
  obtain ⟨k, hk⟩ := Nat.dvd_of_mod_eq_zero hmod
  have hsum : m + x.period = x.period * k + x.phase := by omega
  have hcast : (m : Int) + x.period = x.period * k + x.phase := by exact_mod_cast hsum
  exact ⟨k - 1, by rw [mul_sub, mul_one]; omega⟩

/-- Slots active in one frame have phases that agree modulo the greatest common divisor of their periods. -/
theorem phases_agree {x y : SlotE} {m : Nat} (hx : x.phase < x.period) (hy : y.phase < y.period)
    (hxa : slotActive x m = true) (hya : slotActive y m = true) :
    ((x.phase : Int) - y.phase) % (max 1 (Nat.gcd x.period y.period) : Nat) = 0 := by
  have hgcd : max 1 (Nat.gcd x.period y.period) = Nat.gcd x.period y.period :=
    Nat.max_eq_right (Nat.gcd_pos_of_pos_left _ (by omega))
  have hgx := (Int.natCast_dvd_natCast.mpr (Nat.gcd_dvd_left x.period y.period)).trans (slotActive_dvd hx hxa)
  have hgy := (Int.natCast_dvd_natCast.mpr (Nat.gcd_dvd_right x.period y.period)).trans (slotActive_dvd hy hya)
  rw [hgcd]
  apply Int.emod_eq_zero_of_dvd
  have hsub := dvd_sub hgy hgx
  rwa [sub_sub_sub_cancel_left] at hsub

/-- Check 0x08: two slots of one master or resource that are active in one frame do not meet. -/
theorem slots_apart {s : State} {im : Image} (h : PassesConflicts s im) {i j m : Nat} {x y : SlotE} (hij : i < j)
    (hx : im.slots[i]? = some x) (hy : im.slots[j]? = some y) (hshare : x.master = y.master ∨ x.res &&& y.res ≠ 0)
    (hxa : slotActive x m = true) (hya : slotActive y m = true) :
    x.start + x.budget ≤ y.start ∨ y.start + y.budget ≤ x.start := by
  obtain ⟨-, -, hxp⟩ := slotOk_bounds (slotOk_of_passes h.slotRange hx)
  obtain ⟨-, -, hyp⟩ := slotOk_bounds (slotOk_of_passes h.slotRange hy)
  have happart := pairsApart_eq_none h.slotPairs hij hx hy
  have hphases := phases_agree hxp hyp hxa hya
  have hshared : (x.master == y.master || x.res &&& y.res != 0) = true := by simpa using hshare
  simp only [slotsMeet, hshared, hphases, beq_self_eq_true, Bool.true_and, Bool.and_eq_false_iff,
    decide_eq_false_iff_not] at happart
  unfold sEnd at happart
  omega

/-- Checks 0x07 and 0x0A: a slot ends before the shortest trimmed frame, and before the switch reserve where R73 asks. -/
theorem slot_ends_in_time {s : State} {im : Image} (h : PassesConflicts s im) {x : SlotE} (hx : x ∈ im.slots) :
    x.start + x.budget + (im.l + 1023) / 1024 ≤ im.l ∧
    (slotActive x (im.m - 1) = true → (2 ≤ x.master ∧ x.master ≤ 14) ∨ x.flags.testBit 1 = true →
      x.start + x.budget + 65536 ≤ im.l) := by
  obtain ⟨i, hi⟩ := List.mem_iff_getElem?.mp hx
  obtain ⟨hbudget, hend, -⟩ := slotOk_bounds (slotOk_of_passes h.slotRange hi)
  constructor
  · have htrim : trimOf im.l = (im.l + 1023) / 1024 := rfl
    rw [sEnd, roomOf, htrim] at hend
    omega
  · intro hactive hwho
    have hres := firstBad_eq_none.mp h.reserve i x hi
    have hwho' : (decide (2 ≤ x.master) && decide (x.master ≤ 14) || isPub x) = true := by simpa [isPub, bit] using hwho
    rw [hactive, hwho'] at hres
    exact of_decide_eq_true hres

/-! ### Windows and DRAM reservations (checks 0x0B and 0x0C) -/

/-- Check 0x0B: write windows of different masters other than PAIR are disjoint. -/
theorem windows_apart {s : State} {im : Image} (h : PassesConflicts s im) {i j : Nat} {v w : Win} (hij : i < j)
    (hv : im.wins[i]? = some v) (hw : im.wins[j]? = some w) (hmaster : v.master ≠ w.master) (hvp : v.master ≠ 22)
    (hwp : w.master ≠ 22) (hvw : v.perm.testBit 1 = true) (hww : w.perm.testBit 1 = true) :
    v.limit < w.base ∨ w.limit < v.base := by
  obtain ⟨-, hpairs⟩ := inOrder_eq_none.mp h.window
  have happart := pairsApart_eq_none hpairs hij hv hw
  simp only [winsMeet, bit, hvw, hww, bne_iff_ne.mpr hmaster, bne_iff_ne.mpr hvp, bne_iff_ne.mpr hwp, Bool.true_and,
    Bool.and_eq_false_iff, decide_eq_false_iff_not] at happart
  omega

/-- Check 0x0C: no opportunity of a channel belongs to two reservations. -/
theorem reservations_apart {s : State} {im : Image} (h : PassesConflicts s im) {i j k : Nat} {r q : DramRes} (hij : i < j)
    (hr : im.dram[i]? = some r) (hq : im.dram[j]? = some q) (hch : r.channel = q.channel) :
    ¬(k % 2 ^ r.slog = r.offset ∧ k % 2 ^ q.slog = q.offset) := by
  rintro ⟨hkr, hkq⟩
  obtain ⟨-, hpairs, -⟩ := inOrder_eq_none.mp h.dram
  have happart := pairsApart_eq_none hpairs hij hr hq
  have hdvd : ∀ {t o : Nat}, min r.slog q.slog ≤ t → k % 2 ^ t = o → ((2 ^ min r.slog q.slog : Nat) : Int) ∣ (k : Int) - o := by
    rintro t o ht rfl
    refine (Int.natCast_dvd_natCast.mpr (pow_dvd_pow 2 ht)).trans ?_
    rw [Int.natCast_mod]
    exact Int.dvd_self_sub_emod
  have hsub := dvd_sub (hdvd (min_le_right _ _) hkq) (hdvd (min_le_left _ _) hkr)
  rw [sub_sub_sub_cancel_left] at hsub
  have hzero := Int.emod_eq_zero_of_dvd hsub
  rw [dramMeet, hch, hzero] at happart
  exact absurd happart (by simp)

/-- Settles O33: every check reports with a code of its own, so RESULT 0 means that each of them passed, and those on
pairs, on the ends of slots and on the reserve give the clauses. -/
theorem acceptedImagesHaveNoConflicts : Obligations.AcceptedImagesHaveNoConflicts := by
  intro s boot b haccept
  have h := passesConflicts_of_accepted haccept
  exact ⟨fun i j m x y hij hx hy hshare hxa hya => slots_apart h hij hx hy hshare hxa hya,
    fun x hx => slot_ends_in_time h hx,
    fun i j v w hij hv hw hm hvp hwp hvw hww => windows_apart h hij hv hw hm hvp hwp hvw hww,
    fun i j k r q hij hr hq hch => reservations_apart h hij hr hq hch⟩

end Sys2Proof.Proofs
end

section
/-! PROOFS. What the schedule's commands share: the completion of a descriptor and what it leaves alone (R380, R381), the
state in which a descriptor finds its block, and records in Lantern and in the audit log (R452, R456). -/

namespace Sys2Proof.Proofs

open Sys2Proof.Machine Sys2Proof.Laws

/-! ### Audit records -/

/-- Audit records change the records and counters alone. -/
theorem audit_frame (a b c d : Nat) (x : Bytes) (s : State) :
    { audit a b c d x s with blk := s.blk, recs := s.recs } = s := by
  unfold audit
  dsimp only
  split_ifs <;> rfl

/-- Audit records go to the journal: the queue of Lantern stays. -/
@[simp] theorem audit_queue (a b c d : Nat) (x : Bytes) (s : State) :
    (audit a b c d x s).recs.queue = s.recs.queue := by
  unfold audit
  dsimp only
  split_ifs <;> rfl

/-- What a completion records is an audit record, or nothing. -/
theorem auditDesc_cases (d : HostDesc) (s : State) :
    auditDesc d s = s ∨ ∃ a b c n x, auditDesc d s = audit a b c n x s := by
  unfold auditDesc
  split
  · exact .inr ⟨_, _, _, _, _, rfl⟩
  · split
    · exact .inr ⟨_, _, _, _, _, rfl⟩
    · exact .inr ⟨_, _, _, _, _, rfl⟩
    · exact .inl rfl

/-- Where the log takes records, the record of an audit is in the journal (R457). -/
theorem inAudit_audit {code ctx auth ocnt : Nat} {data : Bytes} {s u : State} (hrecs : u.recs.journal = s.recs.journal)
    (hfull : audFull u = audFull s) : InAudit code s (audit code ctx auth ocnt data u) := by
  intro hf hlen
  have hroom : ¬ u.recs.journal.length + (if (u.recs.audGap != 0) = true then 2 else 1) > 256 := by
    rw [hrecs]
    split_ifs <;> omega
  unfold audit
  dsimp only
  rw [hfull, hf, if_neg Bool.false_ne_true, if_neg hroom]
  split_ifs <;> exact ⟨_, List.mem_append_right _ (List.mem_singleton.mpr rfl), rfl⟩

/-! ### Lantern records -/

/-- A record that enters Lantern is found in any later state that keeps the queue's entries (R452, R454). -/
theorem inLantern_lantern {code sev : Nat} {data : Bytes} {s u t : State} (hu : u.recs = s.recs)
    (ht : t.recs.queue = (lantern code sev data u).recs.queue) : InLantern code s t := by
  intro hfrozen hlen
  rw [ht]
  unfold lantern
  rw [hu, hfrozen, if_neg Bool.false_ne_true, if_pos hlen]
  exact ⟨_, List.mem_append_right _ (List.mem_singleton.mpr rfl), rfl⟩

/-- Lantern records leave the audit log as it is. -/
theorem lantern_audit (code sev : Nat) (data : Bytes) (s : State) :
    (lantern code sev data s).recs.journal = s.recs.journal ∧ audFull (lantern code sev data s) = audFull s := by
  unfold lantern
  split_ifs <;> exact ⟨rfl, rfl⟩

/-- A record that finds no room is counted in REC (R454). -/
theorem lantern_cntOf {b : Nat} (hb : b ≠ bREC) (code sev : Nat) (data : Bytes) (s : State) (k : Nat) :
    cntOf (lantern code sev data s) b k = cntOf s b k := by
  have hcount : ∀ n (u : State), cntOf (count bREC n u) b k = cntOf u b k := fun n u => by
    rw [counted_count]; exact if_neg fun h => hb h.1
  unfold lantern
  split_ifs
  · exact hcount ..
  · rfl
  · exact hcount ..

/-! ### Completions -/

/-- A completion changes HIF, and one that is OK what its audit record changes. -/
theorem complete_eq (d : HostDesc) (st data : Nat) (s : State) :
    ∃ h, complete d st data s = { (if st = stOK then auditDesc d s else s) with hif := h } := by
  unfold complete completeR
  dsimp only
  split_ifs <;> exact ⟨_, rfl⟩

theorem complete_frame (d : HostDesc) (st data : Nat) (s : State) :
    { complete d st data s with blk := s.blk, recs := s.recs, hif := s.hif } = s := by
  obtain ⟨h, heq⟩ := complete_eq d st data s
  rw [heq]
  split_ifs
  · rcases auditDesc_cases d s with ha | ⟨a, b, c, n, x, ha⟩ <;> rw [ha]
    exact congrArg (fun u : State => { u with hif := s.hif }) (audit_frame a b c n x s)
  · rfl

/-- A completion that is not OK changes HIF alone. -/
theorem complete_refused_frame {d : HostDesc} {st data : Nat} (hst : st ≠ stOK) (s : State) :
    { complete d st data s with hif := s.hif } = s := by
  obtain ⟨h, heq⟩ := complete_eq d st data s
  rw [heq, if_neg hst]

@[simp] theorem complete_sched (d : HostDesc) (st data : Nat) (s : State) : (complete d st data s).sched = s.sched :=
  (congrArg State.sched (complete_frame d st data s) :)

@[simp] theorem complete_queue (d : HostDesc) (st data : Nat) (s : State) :
    (complete d st data s).recs.queue = s.recs.queue := by
  obtain ⟨h, heq⟩ := complete_eq d st data s
  rw [heq]
  split_ifs
  · rcases auditDesc_cases d s with ha | ⟨a, b, c, n, x, ha⟩ <;> simp [ha]
  · rfl

theorem auditDesc_hif (d : HostDesc) (s : State) : (auditDesc d s).hif = s.hif := by
  rcases auditDesc_cases d s with ha | ⟨a, b, c, n, x, ha⟩ <;> rw [ha]
  exact audit_hif s a b c n x

theorem auditIf_hif (c : Prop) [Decidable c] (d : HostDesc) (s : State) : (if c then auditDesc d s else s).hif = s.hif := by
  split_ifs
  · exact auditDesc_hif d s
  · rfl

/-- The entry with which a descriptor completes (Table 13-3). -/
def entryFor (d : HostDesc) (st data : Nat) : Compl :=
  { ring := d.ring, sqidx := d.sqidx, tag := if d.signed.isSome then d.outerTag else BitVec.ofNat 16 (d16 d 2),
    opcode := if d.signed.isSome then 0x6A else BitVec.ofNat 8 (dOp d), status := BitVec.ofNat 8 st,
    data := BitVec.ofNat 64 data, unsol := false, src := 0, retire := none }

/-- A started descriptor leaves its ring and its entry waits; any other completion changes nothing of HIF. -/
theorem complete_hif (d : HostDesc) (st data : Nat) (s : State) :
    (complete d st data s).hif =
      if d ∈ (ringGet s d.ring).started then
        { (ringPut s d.ring { ringGet s d.ring with started := (ringGet s d.ring).started.erase d }).hif with
          waiting := s.hif.waiting ++ [entryFor d st data] }
      else s.hif := by
  unfold complete completeR
  dsimp only
  by_cases hmem : d ∈ (ringGet s d.ring).started
  · rw [if_pos hmem, if_pos (List.contains_iff_mem.mpr hmem)]
    simp only [ringPut, ringGet, auditIf_hif]
    rfl
  · rw [if_neg hmem, if_neg (mt List.contains_iff_mem.mp hmem), auditIf_hif]

/-- A completed descriptor is no longer started; the others are. -/
theorem complete_started (e : HostDesc) (st data : Nat) (s : State) (r : Nat) :
    (ringGet (complete e st data s) r).started =
      if r = e.ring then (ringGet s r).started.erase e else (ringGet s r).started := by
  rw [ringGet, complete_hif]
  by_cases hmem : e ∈ (ringGet s e.ring).started
  · rw [if_pos hmem]
    split_ifs with hr
    · subst hr
      exact congrArg Ring.started (ringGet_ringPut s e.ring _)
    · exact congrArg Ring.started (ringGet_ringPut_ne s _ hr)
  · rw [if_neg hmem]
    split_ifs with hr
    · subst hr
      exact (List.erase_of_not_mem hmem).symm
    · rfl

theorem complete_keeps_started {d e : HostDesc} (st data : Nat) {s : State} (hd : d ∈ (ringGet s d.ring).started) (hne : d ≠ e) :
    d ∈ (ringGet (complete e st data s) d.ring).started := by
  rw [complete_started]
  split_ifs
  · exact (List.mem_erase_of_ne hne).mpr hd
  · exact hd

theorem answered_complete {d : HostDesc} {s : State} (st data : Nat) (hd : d ∈ (ringGet s d.ring).started) :
    Answered d st data (complete d st data s) :=
  completeR_answered hd

/-- What waits for the close point goes on waiting. -/
theorem answered_complete_other {d : HostDesc} {st data : Nat} {s : State} (h : Answered d st data s) (e : HostDesc) (st' data' : Nat) :
    Answered d st data (complete e st' data' s) := by
  obtain ⟨c, hc, hentry⟩ := h
  refine ⟨c, ?_, hentry⟩
  rw [complete_hif]
  split_ifs
  · exact List.mem_append_left _ hc
  · exact hc

/-! ### The state in which a descriptor finds its block -/

theorem entered_frame (d : HostDesc) (s : State) : { entered d s with hif := s.hif, sec := s.sec } = s := by
  unfold entered
  dsimp only
  split_ifs
  · rfl
  · split <;> rfl

theorem entered_hif (d : HostDesc) (s : State) :
    (entered d s).hif = (ringPut s d.ring { ringGet s d.ring with started := (ringGet s d.ring).started ++ [d] }).hif := by
  unfold entered
  dsimp only
  split_ifs
  · rfl
  · split <;> rfl

@[simp] theorem entered_sched (d : HostDesc) (s : State) : (entered d s).sched = s.sched :=
  (congrArg State.sched (entered_frame d s) :)

@[simp] theorem entered_blk (d : HostDesc) (s : State) : (entered d s).blk = s.blk :=
  (congrArg State.blk (entered_frame d s) :)

theorem entered_started (d : HostDesc) (s : State) :
    (ringGet (entered d s) d.ring).started = (ringGet s d.ring).started ++ [d] := by
  rw [ringGet, entered_hif]
  exact congrArg Ring.started (ringGet_ringPut s d.ring _)

theorem mem_entered_started (d : HostDesc) (s : State) : d ∈ (ringGet (entered d s) d.ring).started := by
  rw [entered_started]
  exact List.mem_append_right _ (List.mem_singleton.mpr rfl)

/-! ### Counters -/

/-- Counters lie in the common registers alone. -/
theorem cntOf_congr {s t : State} (h : t.blk = s.blk) (b k : Nat) : cntOf t b k = cntOf s b k := by
  rw [cntOf, cntOf, blkGet, blkGet, h]

theorem counted_of_blk {b n : Nat} {s t u : State} (hu : u.blk = s.blk) (ht : t.blk = (count b n u).blk) : Counted b n s t := by
  intro c k
  rw [cntOf_congr ht, counted_count, cntOf_congr hu, cntOf_congr hu]

end Sys2Proof.Proofs
end

section
/-! PROOFS. Freezes and releases: OVERRUN (R65 to R68), UNFREEZE and FREEZE_RELEASE (R69), SCHED_UNFRZ (R408). -/

namespace Sys2Proof.Proofs

open Sys2Proof.Machine Sys2Proof.Laws

/-! ### A freeze (R65 to R68) -/

/-- Of SCHED, the effects of a freeze on work in flight change the frame of HIF's freeze alone; of the rest, only engines,
runs, steps and updates. -/
theorem freezeEffect_eq (m : Nat) (s : State) : ∃ k c v p n, freezeEffect m s =
    { s with sched := { s.sched with hifFreezeKmf := k }, cell := c, solv := v, parc := p, pnl := n } := by
  unfold freezeEffect parcInterrupt parcGiveUp
  dsimp only
  split_ifs
  · exact ⟨_, _, _, _, _, rfl⟩
  · exact ⟨_, _, _, _, _, rfl⟩
  · split <;> exact ⟨_, _, _, _, _, rfl⟩
  · exact ⟨_, _, _, _, _, rfl⟩
  · exact ⟨_, _, _, _, _, rfl⟩
  · exact ⟨_, _, _, _, _, rfl⟩

/-- The record of a freeze (Table 2-26). -/
def freezeRecord (cause addr slot : Nat) (s : State) : Frz :=
  { cause := BitVec.ofNat 4 cause, addr := BitVec.ofNat 40 addr, slot := BitVec.ofNat 11 slot,
    mfn := BitVec.ofNat 32 s.sched.mfn.toNat, cyc := BitVec.ofNat 32 s.sched.cyc.toNat }

/-- The state with master `m` frozen and its record in FRZINFO, before the counter, Lantern and the interrupt. -/
def withFrozen (m cause addr slot : Nat) (s : State) : State :=
  { freezeEffect m s with sched := { (freezeEffect m s).sched with
      frozen := tblPut (freezeEffect m s).sched.frozen m true false,
      frzInfo := tblPut (freezeEffect m s).sched.frzInfo m (freezeRecord cause addr slot s) {} } }

/-- The counter of SCHED for a cause (Table 2-16). -/
def freezeCounter (cause : Nat) : Nat := if cause = czFAULT then 7 else if cause = czOVERRUN then 3 else 2

theorem freeze_eq {m : Nat} {s : State} (h : frozenM s m = false) (cause addr slot : Nat) : ∃ data,
    freeze m cause addr slot s = irqEdge (if m = 1 then 0 else 192)
      (lantern 0x0301 2 data (count bSCHED (freezeCounter cause) (withFrozen m cause addr slot s))) := by
  unfold freeze
  rw [h]
  exact ⟨_, rfl⟩

theorem freeze_frozen {s : State} {m : Nat} (h : frozenM s m = true) (cause addr slot : Nat) : freeze m cause addr slot s = s := by
  unfold freeze
  rw [h, if_pos rfl]

section Freeze

variable {m : Nat} {s : State} (h : frozenM s m = false) (cause addr slot : Nat)
include h

theorem freeze_sched :
    (freeze m cause addr slot s).sched = (withFrozen m cause addr slot s).sched := by
  obtain ⟨data, heq⟩ := freeze_eq h cause addr slot
  simp [heq]

/-- A freeze freezes one master. -/
theorem frozenM_freeze (k : Nat) :
    frozenM (freeze m cause addr slot s) k = if k = m then true else frozenM s k := by
  obtain ⟨_, _, _, _, _, heffect⟩ := freezeEffect_eq m s
  rw [frozenM, freeze_sched h, withFrozen, heffect]
  split_ifs with hk
  · subst hk; exact tblGet_tblPut_same ..
  · exact tblGet_tblPut_ne _ _ _ hk

theorem frzInfo_freeze :
    tblGet (freeze m cause addr slot s).sched.frzInfo m {} = freezeRecord cause addr slot s := by
  rw [freeze_sched h]
  exact tblGet_tblPut_same ..

theorem cntOf_freeze (k : Nat) : cntOf (freeze m cause addr slot s) bSCHED k =
    if k = freezeCounter cause then satInc (cntOf s bSCHED k) else cntOf s bSCHED k := by
  obtain ⟨data, heq⟩ := freeze_eq h cause addr slot
  obtain ⟨_, _, _, _, _, heffect⟩ := freezeEffect_eq m s
  have hblk : (withFrozen m cause addr slot s).blk = s.blk := by rw [withFrozen, heffect]
  rw [heq, cntOf_congr (irqEdge_blk ..), lantern_cntOf (by decide), counted_count, cntOf_congr hblk, cntOf_congr hblk]
  by_cases hk : k = freezeCounter cause
  · subst hk; simp
  · simp [hk]

theorem inLantern_freeze : InLantern 0x0301 s (freeze m cause addr slot s) := by
  obtain ⟨data, heq⟩ := freeze_eq h cause addr slot
  obtain ⟨_, _, _, _, _, heffect⟩ := freezeEffect_eq m s
  have hrecs : (withFrozen m cause addr slot s).recs = s.recs := by rw [withFrozen, heffect]
  rw [heq]
  exact inLantern_lantern (u := count bSCHED (freezeCounter cause) (withFrozen m cause addr slot s)) hrecs rfl

theorem pend_freeze (hm : m ≠ 1) : (srcGet (freeze m cause addr slot s) 192).pend = true := by
  obtain ⟨data, heq⟩ := freeze_eq h cause addr slot
  rw [heq, if_neg hm]
  exact congrArg IrqSrc.pend (srcGet_srcPut _ 192 _)

/-- Memories stay, and what the master's own work in flight becomes is what `freezeEffect` says. -/
theorem freeze_work : (freeze m cause addr slot s).parc = (freezeEffect m s).parc ∧
    (freeze m cause addr slot s).solv = (freezeEffect m s).solv ∧ (freeze m cause addr slot s).pimg = s.pimg ∧
    (freeze m cause addr slot s).mram = s.mram ∧ (freeze m cause addr slot s).dram = s.dram := by
  obtain ⟨data, heq⟩ := freeze_eq h cause addr slot
  obtain ⟨_, _, _, _, _, heffect⟩ := freezeEffect_eq m s
  rw [heq]
  refine ⟨?_, ?_, ?_, ?_, ?_⟩ <;> simp [withFrozen, heffect]

end Freeze

/-- PARC's step is given up: none is left, and the parcels are those of the last complete one (R151). -/
theorem parcInterrupt_parc (s : State) : (parcInterrupt s).parc.step = none ∧ (parcInterrupt s).parc.segs = s.parc.segs := by
  unfold parcInterrupt parcGiveUp
  split
  · exact ⟨by assumption, rfl⟩
  · exact ⟨rfl, rfl⟩

/-- A cut run has ended, and one that was open has the status and END of the cut (R111). -/
theorem cutRun_ended (s : State) (st en : Byte) (r : SRun) : (cutRun s st en r).ended.isSome = true ∧
    (cutRun s st en r).task = r.task ∧ (r.ended = none → (cutRun s st en r).ended = some (st, en)) := by
  unfold cutRun
  by_cases hp : inProgress s r
  · simp only [hp, Bool.not_true, Bool.false_eq_true, if_false]
    split_ifs <;> exact ⟨rfl, rfl, fun _ => rfl⟩
  · have hended : r.ended.isNone = false := by
      simp only [inProgress, Bool.not_eq_true, Bool.or_eq_false_iff] at hp
      exact hp.1
    simp only [hp, Bool.not_false, if_true]
    refine ⟨by simpa [Option.isNone_iff_eq_none, Option.isSome_iff_ne_none] using hended, trivial, fun hn => ?_⟩
    rw [hn] at hended
    cases hended

theorem freezeEffect_parc (s : State) : freezeEffect 16 s = parcInterrupt s := by simp [freezeEffect]

theorem freezeEffect_runs (s : State) : (freezeEffect 15 s).solv.runs = s.solv.runs.map (cutRun s 4 6) := by
  simp [freezeEffect]

/-! ### OVERRUN (R65, R66) -/

/-- The cause that an OVERRUN's request takes: outside the windows that of the access. -/
def overrunCause (m : Nat) (q : FabricReq) (s : State) : Nat :=
  if inWindow s m q.addr.toNat 1 q.write then czOVERRUN else if q.write then czWINDOW_W else czWINDOW_R

theorem gives_overrun {m : Fin 25} {q : FabricReq} {s : State} {P : State → Prop}
    (h : P (if 2 ≤ m.val ∧ holdsSlots s m.val then
      freeze m.val (overrunCause m.val q s) q.addr.toNat (curSlot s m.val) s else s)) : Gives (.overrun m q) s P :=
  ⟨_, rfl, h⟩

/-- A master without slots, or one that is frozen, keeps its state (log entry 71). -/
theorem overrun_ignored {m : Fin 25} {q : FabricReq} {s : State}
    (h : m.val < 2 ∨ holdsSlots s m.val = false ∨ frozenM s m.val = true) : Gives (.overrun m q) s (fun t => t = s) := by
  apply gives_overrun
  split_ifs with hslots
  · obtain ⟨hm, hholds⟩ := hslots
    rcases h with h | h | h
    · omega
    · exact absurd (h.symm.trans hholds) (by decide)
    · exact freeze_frozen h _ _ _
  · rfl

theorem overrunCause_val (m : Nat) (q : FabricReq) (s : State) :
    BitVec.ofNat 4 (overrunCause m q s) = (if inWindow s m q.addr.toNat 1 q.write then 3 else if q.write then 1 else 2) ∧
    freezeCounter (overrunCause m q s) = if inWindow s m q.addr.toNat 1 q.write then 3 else 2 := by
  unfold overrunCause
  split_ifs <;> exact ⟨rfl, rfl⟩

/-- The clause of O30 on an OVERRUN that freezes. -/
theorem overrun_freezes {m : Fin 25} {q : FabricReq} {s : State} (hm : 2 ≤ m.val) (hholds : holdsSlots s m.val = true)
    (h : frozenM s m.val = false) :
    let inside := inWindow s m.val q.addr.toNat 1 q.write
    Gives (.overrun m q) s (fun t => frozenM t m.val = true ∧
      (∀ k, k ≠ m.val → frozenM t k = frozenM s k) ∧ (let f := tblGet t.sched.frzInfo m.val {}
        f.cause = (if inside then 3 else if q.write then 1 else 2) ∧ f.addr = q.addr ∧ f.mfn = s.sched.mfn.truncate 32 ∧ f.cyc = s.sched.cyc.zeroExtend 32) ∧
      (∀ k, cntOf t bSCHED k = if k = (if inside then 3 else 2) then satInc (cntOf s bSCHED k) else cntOf s bSCHED k) ∧ (srcGet t 192).pend = true ∧
      InLantern 0x0301 s t ∧ (m.val = 16 → t.parc.step = none ∧ t.parc.segs = s.parc.segs) ∧
      (m.val = 15 → (∀ r ∈ t.solv.runs, r.ended.isSome = true) ∧
        ∀ r ∈ s.solv.runs, r.ended = none → ∃ u ∈ t.solv.runs, u.task = r.task ∧ u.ended = some (4, 6)) ∧ t.pimg = s.pimg ∧ t.mram = s.mram ∧ t.dram = s.dram) := by
  intro inside
  apply gives_overrun
  rw [if_pos ⟨hm, hholds⟩]
  obtain ⟨hcause, hcounter⟩ := overrunCause_val m.val q s
  obtain ⟨hparc, hsolv, hmem⟩ := freeze_work h (overrunCause m.val q s) q.addr.toNat (curSlot s m.val)
  refine ⟨by rw [frozenM_freeze h, if_pos rfl], fun k hk => by rw [frozenM_freeze h, if_neg hk], ?_, fun k => ?_,
    pend_freeze h _ _ _ (by omega), inLantern_freeze h _ _ _, fun h16 => ?_, fun h15 => ?_, hmem⟩
  · rw [frzInfo_freeze h]
    exact ⟨hcause, BitVec.ofNat_toNat .., BitVec.ofNat_toNat .., BitVec.ofNat_toNat ..⟩
  · rw [cntOf_freeze h, hcounter]
  · rw [hparc, h16, freezeEffect_parc]
    exact parcInterrupt_parc s
  · rw [hsolv, h15, freezeEffect_runs]
    refine ⟨List.forall_mem_map.mpr fun r _ => (cutRun_ended s 4 6 r).1, fun r hr hopen => ?_⟩
    obtain ⟨-, htask, hended⟩ := cutRun_ended s 4 6 r
    exact ⟨_, List.mem_map_of_mem hr, htask, hended hopen⟩

/-! ### UNFREEZE (R69, R386) -/

theorem frozenM_congr {s t : State} (h : t.sched = s.sched) (m : Nat) : frozenM t m = frozenM s m := by
  rw [frozenM, frozenM, h]

theorem gives_unfreeze {d : HostDesc} {s : State} {P : State → Prop} (hd : Reaches 0x04 d s)
    (h : P (effUnfreeze d (entered d s))) : Gives (.unfreeze d) s P :=
  ⟨_, congrArg Host.Outcome.next (arrive_reaches effUnfreeze hd), h⟩

/-- An image descriptor that is refused is answered and counted in HIF.CNT[7], and SCHED stays (R386). -/
theorem finGen_refused {st : Nat} (hst : st ≠ stOK) (data : Nat) (d : HostDesc) (s : State) :
    Answered d st data (finGen d st data (entered d s)) ∧ Counted bHIF 7 s (finGen d st data (entered d s)) ∧
      (finGen d st data (entered d s)).sched = s.sched := by
  have heq : finGen d st data (entered d s) = complete d st data (count bHIF 7 (entered d s)) := by
    rw [finGen, bne_iff_ne.mpr hst]; rfl
  rw [heq]
  refine ⟨answered_complete st data (mem_entered_started d s), ?_, by simp⟩
  exact counted_of_blk (entered_blk d s) (congrArg State.blk (complete_refused_frame hst _) :)

/-- The clauses of O30 on UNFREEZE. -/
theorem unfreeze_clauses (d : HostDesc) (s : State) (hd : Reaches 0x04 d s) : let m := d8 d 16
    (1 ≤ m → m ≤ 24 → frozenM s m = true → Gives (.unfreeze d) s (fun t =>
      t.sched = { s.sched with releases := s.sched.releases ++ [{ master := m, desc := some d }] })) ∧
    (1 ≤ m → m ≤ 24 → frozenM s m = false → Gives (.unfreeze d) s (fun t => Answered d stNOT_READY 0 t ∧ Counted bHIF 7 s t ∧ t.sched = s.sched)) ∧
    (m = 0 ∨ 24 < m → Gives (.unfreeze d) s (fun t => Answered d stRANGE 0 t ∧ Counted bHIF 7 s t ∧ t.sched = s.sched)) := by
  intro m
  have hsched := frozenM_congr (entered_sched d s) m
  refine ⟨fun hlo hhi hf => gives_unfreeze hd ?_, fun hlo hhi hf => gives_unfreeze hd ?_, fun hout => gives_unfreeze hd ?_⟩
  · rw [effUnfreeze, if_neg (by omega), hsched, hf, if_neg (by decide)]
    simp only [entered_sched]
    rfl
  · rw [effUnfreeze, if_neg (by omega), hsched, hf, if_pos (by decide)]
    exact finGen_refused (by decide) 0 d s
  · rw [effUnfreeze, if_pos (by omega)]
    exact finGen_refused (by decide) 0 d s

/-! ### FREEZE_RELEASE (R69, R75) -/

/-- Completions of several descriptors with one status: each descriptor of the list that is started is answered. -/
theorem answered_foldl_complete {st data : Nat} {d : HostDesc} (ds : List HostDesc) (s : State)
    (h : Answered d st data s ∨ d ∈ ds ∧ d ∈ (ringGet s d.ring).started) :
    Answered d st data (ds.foldl (fun s d => complete d st data s) s) := by
  induction ds generalizing s with
  | nil =>
    rcases h with h | ⟨h, -⟩
    · exact h
    · exact absurd h List.not_mem_nil
  | cons e l ih =>
    apply ih
    rcases h with h | ⟨hmem, hstarted⟩
    · exact .inl (answered_complete_other h e st data)
    · by_cases hde : d = e
      · subst hde
        exact .inl (answered_complete st data hstarted)
      · exact .inr ⟨(List.mem_cons.mp hmem).resolve_left hde, complete_keeps_started st data hstarted hde⟩

theorem foldl_complete_sched (st data : Nat) (ds : List HostDesc) (s : State) :
    (ds.foldl (fun s d => complete d st data s) s).sched = s.sched ∧
    (ds.foldl (fun s d => complete d st data s) s).recs.queue = s.recs.queue := by
  induction ds generalizing s with
  | nil => exact ⟨rfl, rfl⟩
  | cons e l ih =>
    obtain ⟨hsched, hqueue⟩ := ih (complete e st data s)
    exact ⟨hsched.trans (complete_sched e st data s), hqueue.trans (complete_queue e st data s)⟩

/-- A completion leaves MFN, so that completions with the MFN as data all carry the same one. -/
theorem foldl_complete_mfn {n : Nat} (ds : List HostDesc) (s : State) (h : s.sched.mfn.toNat = n) :
    ds.foldl (fun s d => complete d stOK s.sched.mfn.toNat s) s = ds.foldl (fun s d => complete d stOK n s) s := by
  induction ds generalizing s with
  | nil => rfl
  | cons e l ih =>
    rw [List.foldl_cons, List.foldl_cons, h]
    exact ih _ (by rw [complete_sched, h])

/-- The descriptors that wait for the release of a master. -/
def releaseDescs (m : Nat) (s : State) : List HostDesc :=
  (s.sched.releases.filter fun r => r.master == m).filterMap (·.desc)

/-- The state with the requests for `m` taken and `m` no longer frozen, with its Lantern record. -/
def released (m : Nat) (s : State) : State :=
  lantern 0x0302 0 (leBytes 1 m ++ leBytes 8 s.sched.mfn.toNat)
    { s with sched := { s.sched with
        releases := s.sched.releases.filter (fun r => r.master != m), frozen := tblPut s.sched.frozen m false false } }

/-- MC1 and CANL start afresh (R69, R227). -/
def restarted (m : Nat) (s : State) : State :=
  if m = 1 then { s with mc1 := mc1Restart s.mc1 } else if m = 18 then canRestart s else s

theorem restarted_frame (m : Nat) (s : State) : { restarted m s with mc1 := s.mc1, canl := s.canl } = s := by
  unfold restarted
  split_ifs <;> rfl

@[simp] theorem restarted_sched (m : Nat) (s : State) : (restarted m s).sched = s.sched :=
  (congrArg State.sched (restarted_frame m s) :)

theorem unfreezeMaster_eq {m : Nat} {s : State} (h : frozenM s m = true) :
    unfreezeMaster m s =
      (releaseDescs m s).foldl (fun t d => complete d stOK s.sched.mfn.toNat t) (restarted m (released m s)) := by
  have hmfn : (restarted m (released m s)).sched.mfn.toNat = s.sched.mfn.toNat := by
    rw [restarted_sched, released, lantern_sched]
  unfold unfreezeMaster
  rw [h]
  exact foldl_complete_mfn (releaseDescs m s) _ hmfn

theorem gives_freezeRelease {m : Fin 25} {s : State} {P : State → Prop}
    (h : P (if (s.sched.releases.any fun r => r.master == m.val) && mIndex s == 0 then unfreezeMaster m.val s else s)) :
    Gives (.freezeRelease m) s P := ⟨_, rfl, h⟩

/-- The clause of O30 on a release at its boundary. -/
theorem freezeRelease_releases {m : Fin 25} {s : State} (hasked : (s.sched.releases.any fun r => r.master == m.val) = true)
    (hindex : mIndex s = 0) (h : frozenM s m.val = true) : Gives (.freezeRelease m) s (fun t => frozenM t m.val = false ∧
      (∀ k, k ≠ m.val → frozenM t k = frozenM s k) ∧ (∀ r ∈ t.sched.releases, r.master ≠ m.val) ∧ InLantern 0x0302 s t ∧
      ∀ d, ({ master := m.val, desc := some d } : Release) ∈ s.sched.releases → d ∈ (ringGet s d.ring).started →
        Answered d stOK s.sched.mfn.toNat t) := by
  apply gives_freezeRelease
  rw [hasked, hindex, if_pos (by decide), unfreezeMaster_eq h]
  obtain ⟨hfoldSched, hfoldQueue⟩ := foldl_complete_sched stOK s.sched.mfn.toNat (releaseDescs m.val s)
    (restarted m.val (released m.val s))
  have hframe := restarted_frame m.val (released m.val s)
  have hsched := hfoldSched.trans ((restarted_sched ..).trans (lantern_sched ..))
  have hqueue := hfoldQueue.trans (congrArg (·.recs.queue) hframe :)
  refine ⟨?_, fun k hk => ?_, ?_, inLantern_lantern (by rfl) hqueue, fun d hd hstarted => ?_⟩
  · rw [frozenM, hsched]
    exact tblGet_tblPut_same ..
  · rw [frozenM, hsched]
    exact tblGet_tblPut_ne _ _ _ hk
  · rw [hsched]
    intro r hr
    simpa using (List.mem_filter.mp hr).2
  · refine answered_foldl_complete _ _ (.inr ⟨?_, ?_⟩)
    · exact List.mem_filterMap.mpr ⟨_, List.mem_filter.mpr ⟨hd, beq_self_eq_true _⟩, rfl⟩
    · have hhif : (restarted m.val (released m.val s)).hif = s.hif := (congrArg State.hif hframe :).trans (lantern_hif ..)
      rw [ringGet, hhif]
      exact hstarted

theorem freezeRelease_waits {m : Fin 25} {s : State}
    (h : (s.sched.releases.any fun r => r.master == m.val) = false ∨ mIndex s ≠ 0) :
    Gives (.freezeRelease m) s (fun t => t = s) := by
  apply gives_freezeRelease
  rcases h with h | h
  · rw [h]; rfl
  · rw [beq_false_of_ne h, Bool.and_false]; rfl

/-! ### SCHED_UNFRZ (R408) -/

/-- SCHED lies in a domain that is always on. -/
theorem blkOff_sched (s : State) : blkOff s bSCHED = false := by
  have h : blkDoms bSCHED = [] := by decide
  simp [blkOff, h]

theorem regOf_unfrz {m : RegMaster} {s : State} (hm : Reachable m s) :
    regOf s m (regAddr bSCHED 0x184) = some (r32 0x184 0) := by
  have hreg : regOff s bSCHED 0x184 = false := by
    rw [regOff, if_neg (fun h => absurd h.1 (by decide)), blkOff_sched]
  unfold regAddr
  rw [regOf_reachable (.inl hm) (by decide) (by decide) (by decide), regAt_own (by decide) hreg]
  rfl

theorem gives_schedUnfrz {m : RegMaster} {v : W32} {s : State} {P : State → Prop} (hm : Reachable m s)
    (h : P (unfrzOp v s)) : Gives (.schedUnfrz m v) s P := by
  have happly : regApply dbgWrite m bSCHED 0x184 0x184 v.toNat s = unfrzOp v s := by
    have hword : BitVec.ofNat 32 v.toNat = v := by simp
    exact congrArg (unfrzOp · s) hword
  exact ⟨_, congrArg Host.Outcome.next ((busWrite_single (by decide) (regOf_unfrz hm) rfl v).trans happly), h⟩

/-- The state in which HIF's release is asked for. -/
def hifReleaseAsked (s : State) : State :=
  { s with sched := { s.sched with releases := s.sched.releases ++ [{ master := 17, desc := none }] } }

/-- The clauses of O30 on SCHED_UNFRZ. -/
theorem schedUnfrz_clauses (m : RegMaster) (v : W32) (s : State) (hm : Reachable m s) :
    let granted := v.toNat % 32 = 17 ∧ frozenM s 17 = true ∧ s.sched.hifFreezeKmf.toNat + 10 ≤ s.sched.kmf.toNat
    (granted → Gives (.schedUnfrz m v) s (fun t =>
      t.sched = { s.sched with releases := s.sched.releases ++ [{ master := 17, desc := none }] } ∧
      InLantern 0x1081 s t ∧ InAudit 2 s t)) ∧
    (¬granted → Gives (.schedUnfrz m v) s (fun t => t = count bSEC 5 s)) := by
  intro granted
  refine ⟨fun hg => gives_schedUnfrz hm ?_, fun hg => gives_schedUnfrz hm ?_⟩
  · rw [unfrzOp, if_pos hg]
    obtain ⟨hjournal, hfull⟩ := lantern_audit 0x1081 0 [17] (hifReleaseAsked s)
    exact ⟨(audit_sched ..).trans (lantern_sched ..), inLantern_lantern (u := hifReleaseAsked s) rfl (audit_queue ..),
      inAudit_audit hjournal hfull⟩
  · rw [unfrzOp, if_neg hg]

/-- Settles O30: a freeze is one operation with one record; a release is asked for and happens at a major frame. -/
theorem freezesHoldUntilReleased : Obligations.FreezesHoldUntilReleased :=
  ⟨fun _ _ _ => ⟨overrun_ignored, overrun_freezes⟩, unfreeze_clauses,
    fun _ _ => ⟨freezeRelease_releases, freezeRelease_waits⟩, schedUnfrz_clauses⟩

end Sys2Proof.Proofs
end

section
/-! PROOFS. Refutations about image loads and switches (R70 to R72). Each carries a concrete unit: an image that the contract
checker accepts, and the two descriptors that the statements do not keep apart from those that a unit starts. -/

namespace Sys2Proof.Proofs

open Sys2Proof.Machine Sys2Proof.Laws

/-! ### An image for a switch that the contract checker accepts (R41 to R44, R61) -/

/-- An entry of the image's directory (R42). -/
def dirEntryBytes (typ off len crc : Nat) : Bytes :=
  leBytes 2 typ ++ leBytes 2 0 ++ leBytes 4 off ++ leBytes 4 len ++ leBytes 4 crc

/-- Everything that the signature covers: the header with FLAGS.SWITCH and no master, a directory of seven sections, the five
schedule sections without entries, and a process image of one undefined point. -/
def signedPart : Bytes :=
  leBytes 4 0x4E4E5242 ++ leBytes 2 1 ++ leBytes 2 0x80 ++ leBytes 4 832 ++ leBytes 2 7 ++ zeros 2 ++ leBytes 8 2 ++ zeros 16 ++
  leBytes 4 1000000 ++ leBytes 4 4 ++ leBytes 4 10000 ++ leBytes 4 20000 ++ zeros 8 ++ leBytes 4 2 ++ zeros 60 ++
  ([(1, 0x100), (3, 0x140), (4, 0x180), (5, 0x1C0), (6, 0x200)].map fun e => dirEntryBytes e.1 e.2 16 0x42709AEA).flatten ++
  dirEntryBytes 0x10 0x240 128 0xA01D5AC3 ++ dirEntryBytes 0xFF 0x2C0 128 0 ++ zeros 336 ++
  leBytes 4 0x474D4950 ++ leBytes 4 1 ++ zeros 120

/-- The digest of the signed part, as r and as s of the signature. -/
def signedDigest : Nat :=
  0x256e98b7df7817245bf346a2daf2da5f5c9a01a2d1718825dddaa877d15b4c172ef997641e027437a3efdb0a8e955cf1

def acceptedImage : Bytes := signedPart ++ beBytes 48 signedDigest ++ beBytes 48 signedDigest ++ zeros 32

/-- The root key under which that signature verifies: with u1 = u2 = 1 it is the point of abscissa r, less the generator. -/
def acceptedRoot : Bytes := 4 :: beBytes 96
  0xb0f57fc408f82be03f8115e090a6c6000ef9bf9d657082ef332504c28937221dabc0c1768802db4c98decae1dce6713c7b8455a026becf4be7d944ddfd94208920584d184eea83d72387e9247d03e88811951b4dc1cf17003c85a24862706314

/-! ### O31: a check's descriptor that an audit record belongs to -/

/-- An operator's descriptor with an opcode and no fields. -/
def bareDesc (op : Byte) (signed : Option W64) : HostDesc :=
  { ring := 0, sqidx := 0, bytes := op :: zeros 63, buf := [], readFail := false, signed := signed, outerTag := 0 }

/-- A descriptor of IMAGE_SWITCH, whose completion OK creates an audit record (Table 16-5). -/
def switchDesc : HostDesc := bareDesc 2 none

/-- A unit whose audit log is full (R458), with the accepted image in the shadow bank: the check runs for
that descriptor. -/
def checkingUnit : State := { State.reset with
  sec := { roots := [(0, { key := acceptedRoot, installed := true, checked := true })] }
  nvm := { formatted := true }, recs := { audCap := 0 }
  sched := { checking := some switchDesc, shadow := acceptedImage }
  hif := { rings := [(0, { started := [switchDesc] })] } }

/-- Kernel evaluation of the fifteen checks on one image, ECDSA included. -/
theorem acceptedImage_accepted : (checkImage checkingUnit false acceptedImage).1 = 0 := by decide +kernel

/-- Changes of power domains one after another are a change of PWR. -/
theorem foldl_pwr_eq {f : State → Nat → State} (hf : ∀ v d, ∃ p, f v d = { v with pwr := p }) (l : List Nat) (s : State) :
    ∃ p, l.foldl f s = { s with pwr := p } := by
  induction l generalizing s with
  | nil => exact ⟨_, rfl⟩
  | cons d l ih =>
    obtain ⟨p, hp⟩ := hf s d
    obtain ⟨q, hq⟩ := ih (f s d)
    exact ⟨q, by rw [List.foldl_cons, hq, hp]⟩

theorem setNeeds_eq (s : State) : ∃ p, setNeeds s = { s with pwr := p } := foldl_pwr_eq (fun _ _ => ⟨_, rfl⟩) _ s

theorem startDoms_eq (im : Image) (s : State) : ∃ p, startDoms im s = { s with pwr := p } := by
  refine foldl_pwr_eq (fun v d => ?_) _ s
  split_ifs <;> exact ⟨_, rfl⟩

/-- The pass of a check sets SCHED's registers and the needs of the power domains. -/
theorem shadowPassed_eq (im : Image) (s : State) : ∃ c p, shadowPassed im s = { s with sched := c, pwr := p } := by
  unfold shadowPassed
  obtain ⟨p, hp⟩ := startDoms_eq im { s with sched := { s.sched with shadowImage := some im, shdId := im.imgId } }
  obtain ⟨q, hq⟩ := setNeeds_eq (startDoms im { s with sched := { s.sched with shadowImage := some im, shdId := im.imgId } })
  rw [hq, hp]
  exact ⟨_, _, rfl⟩

/-- The state in which the descriptor of a check completes OK (R70). -/
def checkPassed (s : State) : State :=
  shadowPassed (parseImage s.sched.shadow)
    (checked (checkImage s false s.sched.shadow) { s with sched := { s.sched with checking := none } })

/-- A check that passes registers its result, and the image stands ready in the shadow bank (R70). -/
theorem imageCheckComplete_passes {d : HostDesc} {s : State} (hchecking : s.sched.checking = some d)
    (hstage : noImage s = false) (hr : (checkImage s false s.sched.shadow).1 = 0) :
    exec .imageCheckComplete s = .next (complete d stOK 0 (checkPassed s)) := by
  change execImageCheckComplete s = _
  unfold execImageCheckComplete checkPassed
  rw [hchecking, hstage]
  simp [hr]

/-- With RESULT 0 nothing is counted: a check's registers and its event change. -/
theorem checked_eq {r : Nat × Nat} (hr : r.1 = 0) (s : State) : ∃ c i, checked r s = { s with sched := c, irq := i } := by
  simp only [checked, countRefused, hr, if_true]
  exact ⟨_, _, rfl⟩

theorem checkPassed_eq {s : State} (hr : (checkImage s false s.sched.shadow).1 = 0) :
    ∃ c p i, checkPassed s = { s with sched := c, pwr := p, irq := i } := by
  obtain ⟨c, i, hchecked⟩ := checked_eq hr { s with sched := { s.sched with checking := none } }
  unfold checkPassed
  rw [hchecked]
  obtain ⟨c', p, hpassed⟩ := shadowPassed_eq (parseImage s.sched.shadow) { s with sched := c, irq := i }
  exact ⟨c', p, i, hpassed⟩

/-- A full log refuses every record, and REC.CNT[3] counts it (R458). -/
theorem audit_full {u : State} (hfull : audFull u = true) (a b c n : Nat) (x : Bytes) : audit a b c n x u = count bREC 3 u := by
  unfold audit
  rw [hfull]
  rfl

/-- So does a completion whose opcode has an audit code. -/
theorem complete_fullLog_blk {d : HostDesc} {u : State} (hcode : auditCode (dOp d) ≠ none) (hfull : audFull u = true) (data : Nat) :
    (complete d stOK data u).blk = (count bREC 3 u).blk := by
  obtain ⟨h, heq⟩ := complete_eq d stOK data u
  have haudit : auditDesc d u = count bREC 3 u := by
    unfold auditDesc
    split
    · exact audit_full hfull ..
    · split
      · exact audit_full hfull ..
      · exact audit_full hfull ..
      · contradiction
  rw [heq, if_pos rfl, haudit]

/-- A check that passes for such a descriptor counts one error in REC. -/
theorem imageCheckComplete_fullLog_counts {d : HostDesc} {s t : State} (hchecking : s.sched.checking = some d)
    (hstage : noImage s = false) (hr : (checkImage s false s.sched.shadow).1 = 0) (hcode : auditCode (dOp d) ≠ none)
    (hfull : audFull s = true) (hexec : exec .imageCheckComplete s = .next t) :
    cntOf t bREC 3 = satInc (cntOf s bREC 3) := by
  rw [imageCheckComplete_passes hchecking hstage hr] at hexec
  obtain rfl := Host.Outcome.next.inj hexec
  obtain ⟨c, p, i, heq⟩ := checkPassed_eq hr
  rw [heq, cntOf_congr (complete_fullLog_blk hcode (by exact hfull) 0), counted_count, if_pos ⟨rfl, rfl⟩]
  rfl

/-- Refutes O31: the completion of the descriptor that `checking` holds can create an audit record, which a full log counts
in REC.CNT[3], while the statement has no counter change for any unsigned descriptor. In a unit the held descriptor is that of
an IMAGE_LOAD, whose opcode creates none. -/
theorem not_imagesAreLoadedAndChecked : ¬ Obligations.ImagesAreLoadedAndChecked := by
  rintro ⟨-, hcheck⟩
  obtain ⟨t, hexec, -, -, -, -, -, -, -, -, -, hpass, -⟩ := hcheck switchDesc checkingUnit rfl (by decide) (by decide)
  obtain ⟨-, -, -, hblk⟩ := hpass acceptedImage_accepted
  have hcount := imageCheckComplete_fullLog_counts (d := switchDesc) (s := checkingUnit) rfl rfl acceptedImage_accepted
    (by decide) (by decide) hexec
  exact absurd ((cntOf_congr (hblk rfl) bREC 3).symm.trans hcount) (by decide)

/-! ### O32: an abort that is its own switch -/

/-- An IMAGE_ABORT under an owner-signed record. -/
def abortDesc : HostDesc := bareDesc 3 (some 0)

/-- A unit in frame 0 with a switch pending for frame 10, whose descriptor is the IMAGE_ABORT that arrives. -/
def abortingUnit : State := { State.reset with
  sched := { switchPend := true, swMfn := 10, switchDesc := some abortDesc }
  hif := { rings := [(0, { classMask := 0xFFF })] } }

theorem abort_reaches : Reaches 0x03 abortDesc abortingUnit := by
  refine ⟨by decide, rfl, by decide, by decide, .inl rfl, fun h => absurd h (by decide), by decide, by decide,
    fun m h => ?_, by decide, rfl⟩
  exact absurd h (by simp [carrier, classRow])

/-- The withdrawn switch completes first, DROPPED; with it the descriptor is no longer started, and no OK follows. -/
theorem abort_waiting : (effImageAbort abortDesc (entered abortDesc abortingUnit)).hif.waiting =
    [entryFor abortDesc stDROPPED 0] := by decide

/-- Refutes O32: the statement takes the pending switch's descriptor for any value, also for the arriving IMAGE_ABORT itself,
which then completes once, DROPPED, and never OK. In a unit the two differ in their opcode. -/
theorem not_imagesAreSwitchedAtTheirBoundary : ¬ Obligations.ImagesAreSwitchedAtTheirBoundary := by
  rintro ⟨-, habort, -⟩
  obtain ⟨-, hearly, -⟩ := habort abortDesc abortingUnit abort_reaches
  obtain ⟨t, hexec, ⟨c, hc, -, -, -, hstatus, -⟩, -⟩ := hearly rfl rfl (.inl (by decide))
  have ht : t = effImageAbort abortDesc (entered abortDesc abortingUnit) :=
    (Host.Outcome.next.inj hexec).symm.trans (arrive_reaches effImageAbort abort_reaches)
  rw [ht, abort_waiting, List.mem_singleton] at hc
  subst hc
  exact absurd hstatus (by decide)

end Sys2Proof.Proofs
end

section
/-! PROOFS. What the solver's commands share: the structure slots and runs of SOLV, its guarded writes to the DRAM
(R65, R136), and what each of them leaves alone. -/

namespace Sys2Proof.Proofs

open Sys2Proof.Machine Sys2Proof.Laws

/-! ### Bytes of the DRAM -/

theorem tblRange_tblPutAll {α : Type} [DecidableEq α] (vs : List α) (t : Tbl α) (n : Nat) (d : α) :
    tblRange (tblPutAll t n vs d) n vs.length d = vs := by
  induction vs generalizing t n with
  | nil => rfl
  | cons v r ih =>
    rw [tblPutAll, List.length_cons, tblRange, ih, tblGet_tblPutAll_out _ _ _ (.inl (Nat.lt_succ_self n)), tblGet_tblPut_same]

theorem dramRead_dramWrite (a : Nat) (b : Bytes) (s : State) : dramRead (dramWrite a b s) a b.length = b :=
  tblRange_tblPutAll b s.dram a 0

/-! ### Structure slots and runs -/

theorem slotGet_slotPut_ne (s : State) {k j : Nat} (v : SSlot) (h : j ≠ k) : slotGet (slotPut s k v) j = slotGet s j :=
  tblGet_tblPut_ne _ _ _ h

theorem slotGet_congr {s t : State} (h : t.solv.slots = s.solv.slots) (k : Nat) : slotGet t k = slotGet s k := by
  rw [slotGet, slotGet, h]

theorem runOf_task {s : State} {task : W16} {r : SRun} (h : runOf s task.toNat = some r) : r.task = task :=
  BitVec.eq_of_toNat_eq (by simpa using List.find?_some h)

/-- A run that is set is the run of its task. -/
theorem runOf_setRun (r : SRun) (s : State) : runOf (setRun r s) r.task.toNat = some r := by
  have hnone : (s.solv.runs.filter fun x => x.task != r.task).find? (fun x => x.task.toNat == r.task.toNat) = none := by
    rw [List.find?_eq_none]
    intro x hx heq
    exact absurd (BitVec.eq_of_toNat_eq (by simpa using heq)) (by simpa using (List.mem_filter.mp hx).2)
  simp [runOf, setRun, hnone]

theorem runOf_dropRun (task : W16) (s : State) : runOf (dropRun task s) task.toNat = none := by
  rw [runOf, List.find?_eq_none]
  intro x hx heq
  exact absurd (BitVec.eq_of_toNat_eq (by simpa using heq)) (by simpa [dropRun] using (List.mem_filter.mp hx).2)

/-! ### Guarded writes (R65, R67) -/

theorem guarded_frozen {m : Nat} {s : State} (h : frozenM s m = true) (a n : Nat) (w : Bool) (ok : State → State) :
    guarded m a n w ok s = s := by
  rw [guarded, if_pos h]

theorem guarded_inside {m a n : Nat} {w : Bool} {s : State} (hf : frozenM s m = false) (hw : inWindow s m a n w = true)
    (ok : State → State) : guarded m a n w ok s = ok s := by
  rw [guarded, hf, hw, if_neg Bool.false_ne_true, if_pos rfl]

/-- SOLV's freeze cuts its runs; of the rest it changes its record in SCHED, the counters, Lantern and an interrupt. -/
theorem freeze_solv_frame (cause addr slot : Nat) (s : State) : let t := freeze 15 cause addr slot s
    { t with blk := s.blk, sched := s.sched, irq := s.irq, recs := s.recs, solv := { t.solv with runs := s.solv.runs } } = s := by
  intro t
  by_cases hf : frozenM s 15 = true
  · rw [show t = s from freeze_frozen hf cause addr slot]
  · obtain ⟨data, heq⟩ := freeze_eq (by simpa using hf) cause addr slot
    simp only [t, heq, irqEdge, srcPut, lantern]
    split_ifs <;> rfl

/-- A write to a result buffer reaches the DRAM, or freezes SOLV (R65). -/
theorem rbStore_frame (st : SStruct) (b off : Nat) (x : Bytes) (s : State) : let t := rbStore st b off x s
    { t with blk := s.blk, sched := s.sched, irq := s.irq, recs := s.recs, dram := s.dram,
             solv := { t.solv with runs := s.solv.runs } } = s := by
  intro t
  simp only [t, rbStore, guarded]
  split_ifs
  · rfl
  · rfl
  · exact congrArg (fun u : State => { u with dram := s.dram }) (freeze_solv_frame ..)

theorem rbStore_slots (st : SStruct) (b off : Nat) (x : Bytes) (s : State) :
    (rbStore st b off x s).solv.slots = s.solv.slots :=
  (congrArg (·.solv.slots) (rbStore_frame st b off x s) :)

theorem rbStore_held (st : SStruct) (b off : Nat) (x : Bytes) (s : State) :
    (rbStore st b off x s).solv.held = s.solv.held :=
  (congrArg (·.solv.held) (rbStore_frame st b off x s) :)

theorem rbStore_pimg (st : SStruct) (b off : Nat) (x : Bytes) (s : State) : (rbStore st b off x s).pimg = s.pimg :=
  (congrArg State.pimg (rbStore_frame st b off x s) :)

theorem rbStore_parc (st : SStruct) (b off : Nat) (x : Bytes) (s : State) : (rbStore st b off x s).parc = s.parc :=
  (congrArg State.parc (rbStore_frame st b off x s) :)

theorem rbStore_inside {st : SStruct} {b off : Nat} {x : Bytes} {s : State} (hf : frozenM s 15 = false)
    (hw : inWindow s 15 (rbAddr st b + off) x.length true = true) :
    rbStore st b off x s = dramWrite (rbAddr st b + off) x s :=
  guarded_inside hf hw _

end Sys2Proof.Proofs
end

section
/-! PROOFS. LONG slots of SOLV and the commit of an iteration (R102 to R111, R132 to R134). -/

namespace Sys2Proof.Proofs

open Sys2Proof.Machine Sys2Proof.Laws

/-! ### The start of a run (R102, R105, R131) -/

/-- A run without what its initialisation and its starting point make of it. -/
def atCapture (r : SRun) : SRun :=
  { r with wc := 0, began := 0, data := [], badidx := 0, scale := [], it := {}, hist := [], pivcnt := 0, pividx := 0,
           pivtot := 0, rhoRel := 0, ended := none, cert := 0 }

theorem endTests_frame (st : SStruct) (p : Phases) (r : SRun) :
    ∃ e c, endTests st p r = { r with ended := e, cert := c } := by
  unfold endTests
  split_ifs <;> exact ⟨_, _, rfl⟩

theorem endTests_atCapture (st : SStruct) (p : Phases) (r : SRun) : atCapture (endTests st p r) = atCapture r := by
  obtain ⟨e, c, heq⟩ := endTests_frame st p r
  rw [heq]
  rfl

theorem startPoint_atCapture (st : SStruct) (p : Phases) (r : SRun) : atCapture (startPoint st p r) = atCapture r := by
  unfold startPoint
  extract_lets start matrix scaling prepared
  split_ifs
  · rfl
  · rfl
  · rfl
  · exact endTests_atCapture ..
  · exact endTests_atCapture ..

/-- A run has been started from the capture `r` in `s`: beside the run, only the mark of its slot's initialisation and the
number of free values change. -/
structure RunStarted (r : SRun) (s t : State) : Prop where
  frame : { t with solv := s.solv, free := s.free } = s
  hostRuns : t.solv.hostRuns = s.solv.hostRuns
  otherSlots : ∀ j, j ≠ r.slot → slotGet t j = slotGet s j
  ownSlot : { slotGet t r.slot with initd := (slotGet s r.slot).initd } = slotGet s r.slot
  run : ∃ x, runOf t r.task.toNat = some x ∧ atCapture x = atCapture r

theorem eccStep_eq (st : SStruct) (s : State) : ∃ n, eccStep st s = { s with free := n } := by
  unfold eccStep
  split_ifs
  · exact ⟨_, rfl⟩
  · exact ⟨s.free, rfl⟩

/-- A run that is set has started, where it is the captured one but for what the initialisation makes of it. -/
theorem setRun_started {r x : SRun} (s : State) (h : atCapture x = atCapture r) : RunStarted r s (setRun x s) := by
  have htask : x.task = r.task := (congrArg SRun.task h :)
  exact ⟨rfl, rfl, fun _ _ => rfl, rfl, x, htask ▸ runOf_setRun x s, h⟩

theorem initRun_started {r : SRun} {s : State} (hwait : r.wait = false) (hdsv : (priorOf s (slotGet s r.slot)).2 = r.dsv) :
    RunStarted r s (initRun r s) := by
  obtain ⟨n, hecc⟩ := eccStep_eq (structOf s r.slot) s
  unfold initRun
  extract_lets q st base begun marked
  have hbegun : atCapture begun = atCapture r := by
    change { atCapture r with wait := false, dsv := (priorOf s (slotGet s r.slot)).2 } = atCapture r
    rw [hdsv, ← hwait]
    rfl
  have hmarked : marked = slotPut { s with free := n } r.slot
      { q with initd := (r.task, r.capMfn) :: q.initd.filter fun p => p.1 != r.task } := congrArg (slotPut · r.slot _) hecc
  have hset : ∀ x, atCapture x = atCapture begun → RunStarted r s (setRun x marked) := fun x hx => by
    have htask : x.task = r.task := (congrArg SRun.task hx :)
    rw [hmarked]
    exact ⟨rfl, rfl, fun j hj => slotGet_slotPut_ne _ _ hj,
      congrArg (fun w : SSlot => { w with initd := q.initd }) (slotGet_slotPut ..), x, htask ▸ runOf_setRun x _,
      hx.trans hbegun⟩
  split_ifs
  · exact hset _ rfl
  · split
    · exact hset _ rfl
    · exact hset _ (startPoint_atCapture ..)

theorem startRun_started {r : SRun} {s : State} (hwait : r.wait = false) (hdsv : (priorOf s (slotGet s r.slot)).2 = r.dsv) :
    RunStarted r s (startRun r s) := by
  unfold startRun
  split_ifs
  · exact setRun_started s rfl
  · exact initRun_started hwait hdsv

/-- Where every capture point lies inside the windows, a capture starts its run. -/
theorem capture_started {r : SRun} {s : State} (hf : frozenM s 15 = false)
    (hwin : ∀ b ∈ (structOf s r.slot).capbind, inWindow s 15 (viewIn b.point) 16 false = true)
    (hwait : r.wait = false) (hdsv : (priorOf s (slotGet s r.slot)).2 = r.dsv) : RunStarted r s (capture r s) := by
  have hinside : outsidePt s 15 ((structOf s r.slot).capbind.map (·.point)) = none := by
    simpa [outsidePt, List.find?_eq_none] using hwin
  have hcapture : capture r s = startRun r (setRun { r with ended := none } s) := by
    have hf' : frozenM (setRun { r with ended := none } s) 15 = false := hf
    have hin : outsidePt (setRun { r with ended := none } s) 15 ((structOf s r.slot).capbind.map (·.point)) = none := hinside
    rw [capture, readPts, hf', hin, if_neg Bool.false_ne_true]
  obtain ⟨hframe, hhost, hother, hown, hrun⟩ := startRun_started (s := setRun { r with ended := none } s) hwait hdsv
  rw [hcapture]
  exact ⟨congrArg (fun u : State => { u with solv := s.solv }) hframe, hhost, hother, hown, hrun⟩

/-- What a capture fixes of a run (R102, R105, R126). -/
structure CapturedAs (s : State) (task k : Nat) (host : Option HostDesc) (cold : Bool) (budget : Nat) (r : SRun) : Prop where
  task : r.task = BitVec.ofNat 16 task
  slot : r.slot = k
  host : r.host = host
  capMfn : r.capMfn = s.sched.mfn
  budget : r.budget = budget
  dsv : r.dsv = (priorOf s (slotGet s k)).2
  iter : r.iter = 0
  elapsed : r.elapsed = 0
  warm : r.warm = (!cold && ((slotGet s k).usable && (slotGet s k).storeSig == (structOf s k).sig))
  refusedWarm : r.refusedWarm =
    (!cold && (slotGet s k).usable && !((slotGet s k).usable && (slotGet s k).storeSig == (structOf s k).sig))

theorem newRun_captured (s : State) (task k : Nat) (host : Option HostDesc) (cold : Bool) (budget : Nat) :
    CapturedAs s task k host cold budget (newRun s (BitVec.ofNat 16 task) k host cold budget) := by
  unfold newRun
  extract_lets q st c same r
  split <;> exact ⟨rfl, rfl, rfl, rfl, rfl, rfl, rfl, rfl, rfl, rfl⟩

theorem newRun_occ_wait (s : State) (task : W16) (k : Nat) (host : Option HostDesc) (cold : Bool) (budget : Nat) :
    (newRun s task k host cold budget).occ = none ∧
      ((slotGet s k).writing = none → (newRun s task k host cold budget).wait = false) := by
  unfold newRun
  extract_lets q st c same r
  split
  · exact ⟨rfl, fun _ => rfl⟩
  · exact ⟨rfl, fun h => congrArg (Option.any _) h⟩

/-- A run that differs from a captured one in what the initialisation makes of it alone has captured the same. -/
theorem CapturedAs.of_atCapture {s : State} {task k budget : Nat} {host : Option HostDesc} {cold : Bool} {r x : SRun}
    (h : CapturedAs s task k host cold budget r) (hx : atCapture x = atCapture r) : CapturedAs s task k host cold budget x where
  task := (congrArg SRun.task hx :).trans h.task
  slot := (congrArg SRun.slot hx :).trans h.slot
  host := (congrArg SRun.host hx :).trans h.host
  capMfn := (congrArg SRun.capMfn hx :).trans h.capMfn
  budget := (congrArg SRun.budget hx :).trans h.budget
  dsv := (congrArg SRun.dsv hx :).trans h.dsv
  iter := (congrArg SRun.iter hx :).trans h.iter
  elapsed := (congrArg SRun.elapsed hx :).trans h.elapsed
  warm := (congrArg SRun.warm hx :).trans h.warm
  refusedWarm := (congrArg SRun.refusedWarm hx :).trans h.refusedWarm

theorem CapturedAs.withOcc {s : State} {task k budget : Nat} {host : Option HostDesc} {cold : Bool} {r : SRun}
    (h : CapturedAs s task k host cold budget r) (o : Option Occ) :
    CapturedAs s task k host cold budget { r with occ := o } :=
  ⟨h.task, h.slot, h.host, h.capMfn, h.budget, h.dsv, h.iter, h.elapsed, h.warm, h.refusedWarm⟩

/-! ### An occurrence of a LONG slot (R102, R108) -/

/-- The occurrence from which a run that it starts is counted. -/
def occurrence (s : State) (e : SlotE) : Occ := { mfn := s.sched.mfn, start := e.start, work := workOf s e }

theorem newCycles_eq {task : Nat} {e : SlotE} {r : SRun} {s : State} (hrun : runOf s task = some r) (hocc : r.occ = none) :
    newCycles task e s = setRun { r with occ := some (occurrence s e) } s := by
  unfold newCycles
  rw [hrun]
  simp only [hocc, Option.isNone_none, if_true]
  rfl

/-- The count of cycles changes runs alone. -/
theorem newCycles_frame (task : Nat) (e : SlotE) (s : State) : let t := newCycles task e s
    { t with solv := { t.solv with runs := s.solv.runs } } = s := by
  unfold newCycles
  split
  · split_ifs <;> rfl
  · rfl

theorem deltaGo_idle {k : Nat} {s : State} (hwriting : (slotGet s k).writing = none) (hdeltas : (slotGet s k).deltas = []) :
    deltaGo k s = s := by
  rw [deltaGo, hdeltas]
  simp only [deltaPump, hwriting, hdeltas]

/-- Without a SOLV_RUN of the task that waits, nothing starts. -/
theorem startHosts_none {k : LTask} {s : State} (h : ∀ d ∈ s.solv.hostRuns, d16 d 20 ≠ k.task) (e : SlotE) :
    startHosts k e s = s := by
  have hmine : s.solv.hostRuns.filter (fun d => d16 d 20 == k.task) = [] := by simpa [List.filter_eq_nil_iff] using h
  have hothers : s.solv.hostRuns.filter (fun d => d16 d 20 != k.task) = s.solv.hostRuns := by
    simpa [List.filter_eq_self] using h
  rw [startHosts, hmine, hothers]
  rfl

theorem startHosts_one {k : LTask} {s : State} {d : HostDesc} (h : s.solv.hostRuns = [d]) (hd : d16 d 20 = k.task) (e : SlotE) :
    startHosts k e s = startHost k e { s with solv := { s.solv with hostRuns := [] } } d := by
  simp [startHosts, h, hd]

/-- A SOLV_RUN of a task that has a run is turned away (R133). -/
theorem startHosts_busy {k : LTask} {s : State} {d : HostDesc} {r : SRun} (h : s.solv.hostRuns = [d]) (hd : d16 d 20 = k.task)
    (hrun : runOf s k.task = some r) (e : SlotE) :
    startHosts k e s = complete d stBUSY 0 (count bSOLV 5 { s with solv := { s.solv with hostRuns := [] } }) := by
  have hrun' : runOf { s with solv := { s.solv with hostRuns := [] } } k.task = some r := hrun
  rw [startHosts_one h hd, startHost, hrun']
  rfl

theorem turnedAway {d : HostDesc} {s : State} (hstarted : d ∈ (ringGet s d.ring).started) :
    let t := complete d stBUSY 0 (count bSOLV 5 { s with solv := { s.solv with hostRuns := [] } })
    Answered d stBUSY 0 t ∧ t.blk = (count bSOLV 5 s).blk ∧ t.solv = { s.solv with hostRuns := [] } := by
  intro t
  have hframe := complete_refused_frame (d := d) (st := stBUSY) (data := 0) (by decide)
    (count bSOLV 5 { s with solv := { s.solv with hostRuns := [] } })
  exact ⟨answered_complete stBUSY 0 (s := count bSOLV 5 { s with solv := { s.solv with hostRuns := [] } }) hstarted,
    (congrArg State.blk hframe :), (congrArg State.solv hframe :)⟩

/-- A run that the occurrence has started counts from it. -/
theorem RunStarted.newCycles {r : SRun} {s t : State} {task : Nat} (h : RunStarted r s t) (htask : r.task.toNat = task)
    (hocc : r.occ = none) (e : SlotE) :
    RunStarted { r with occ := some (occurrence s e) } s (newCycles task e t) := by
  subst htask
  obtain ⟨hframe, hhost, hother, hown, x, hrun, hx⟩ := h
  have hsched : t.sched = s.sched := (congrArg State.sched hframe :)
  have hoccurrence : occurrence t e = occurrence s e := by
    rw [occurrence, occurrence, workOf, workOf, switchFrame, switchFrame, hsched]
  rw [newCycles_eq hrun ((congrArg SRun.occ hx :).trans hocc), hoccurrence]
  have hset := setRun_started t (r := { r with occ := some (occurrence s e) }) (x := { x with occ := some (occurrence s e) })
    (congrArg (fun y : SRun => { y with occ := some (occurrence s e) }) hx)
  exact ⟨hframe, hhost, hother, hown, hset.run⟩

/-- The deltas of a slot on which none waits stay as they are. -/
theorem RunStarted.deltaGo {r : SRun} {s t : State} {k : Nat} (h : RunStarted r s t) (hslot : r.slot = k)
    (hwriting : (slotGet s k).writing = none) (hdeltas : (slotGet s k).deltas = []) : deltaGo k t = t := by
  subst hslot
  exact deltaGo_idle ((congrArg SSlot.writing h.ownSlot :).trans hwriting) ((congrArg SSlot.deltas h.ownSlot :).trans hdeltas)

theorem RunStarted.slots {r : SRun} {s t : State} {k : Nat} (h : RunStarted r s t) (hslot : r.slot = k) :
    (∀ j, j ≠ k → slotGet t j = slotGet s j) ∧ { slotGet t k with initd := (slotGet s k).initd } = slotGet s k := by
  subst hslot
  exact ⟨h.otherSlots, h.ownSlot⟩

/-- No committed switch, no freeze, no role and no EN keeps SOLV from its LONG slot, its capture points lie inside its
windows, and neither a run of the task nor a delta on its slot is in the way. -/
structure LongReady (e : SlotE) (k : LTask) (s : State) : Prop where
  task : solvTask s e.task = some k
  task_lt : k.task < 65536
  committed : s.sched.committed = false
  engines : enginesRun s = true
  frozen : frozenM s 15 = false
  en : enOf s bSOLV = true
  windows : ∀ b ∈ (structOf s k.sslot).capbind, inWindow s 15 (viewIn b.point) 16 false = true
  run : runOf s k.task = none
  deltas : (slotGet s k.sslot).deltas = []
  writing : (slotGet s k.sslot).writing = none

/-- The run of a task whose slot is not READY at its capture (R132). -/
def notStarted (s : State) (k : LTask) : SRun :=
  { task := BitVec.ofNat 16 k.task, slot := k.sslot, capMfn := s.sched.mfn, ended := some (0xFF, 10) }

theorem solvLong_committed {s : State} (h : s.sched.committed = true) (i : Nat) (e : SlotE) : solvLong i e s = s := by
  unfold solvLong
  split
  · rfl
  · rw [h, Bool.or_true, if_pos rfl]

section Long

variable {e : SlotE} {k : LTask} {s : State} (h : LongReady e k s)
include h

theorem task_toNat : (BitVec.ofNat 16 k.task).toNat = k.task := by
  rw [BitVec.toNat_ofNat, Nat.mod_eq_of_lt h.task_lt]

theorem solvLong_eq (i : Nat) : solvLong i e s = deltaGo k.sslot (newCycles k.task e (startHosts k e
    (if firstOccurrence s 15 k.task i && captureFrame s k then solvCapture k s else s))) := by
  simp only [solvLong, passCycles, h.task, h.engines, h.frozen, h.committed, h.en, h.run, Bool.not_true, Bool.or_false,
    Bool.false_eq_true, if_false, if_true, Bool.true_and]

/-- A capture of the task starts its run. -/
theorem newRun_started (host : Option HostDesc) (cold : Bool) (budget : Nat) :
    RunStarted (newRun s (BitVec.ofNat 16 k.task) k.sslot host cold budget) s
      (capture (newRun s (BitVec.ofNat 16 k.task) k.sslot host cold budget) s) := by
  have hcap := newRun_captured s k.task k.sslot host cold budget
  obtain ⟨-, hwait⟩ := newRun_occ_wait s (BitVec.ofNat 16 k.task) k.sslot host cold budget
  refine capture_started h.frozen ?_ (hwait h.writing) ?_
  · rw [hcap.slot]; exact h.windows
  · rw [hcap.slot]; exact hcap.dsv.symm

theorem solvCapture_ready (hst : (slotGet s k.sslot).st = 2) : solvCapture k s =
    capture (newRun s (BitVec.ofNat 16 k.task) k.sslot none false (scheduledBudget s k)) s := by
  simp only [solvCapture, h.run]
  exact if_pos hst

theorem solvCapture_notReady (hst : (slotGet s k.sslot).st ≠ 2) : solvCapture k s =
    count bSOLV 3 (setRun (notStarted s k) s) := by
  simp only [solvCapture, h.run]
  exact if_neg hst

/-- A run of the task, captured in `s`, counts from this occurrence; of its slot, only the mark of the initialisation may
have changed. -/
structure StartedFrom (s : State) (e : SlotE) (k : LTask) (host : Option HostDesc) (cold : Bool) (budget : Nat) (t : State) :
    Prop where
  frame : { t with solv := s.solv, free := s.free } = s
  hostRuns : t.solv.hostRuns = s.solv.hostRuns
  slots : (∀ j, j ≠ k.sslot → slotGet t j = slotGet s j) ∧
    { slotGet t k.sslot with initd := (slotGet s k.sslot).initd } = slotGet s k.sslot
  run : ∃ r, runOf t k.task = some r ∧ CapturedAs s k.task k.sslot host cold budget r ∧ r.occ = some (occurrence s e)

theorem capture_startedFrom (host : Option HostDesc) (cold : Bool) (budget : Nat) :
    StartedFrom s e k host cold budget (deltaGo k.sslot (newCycles k.task e
      (capture (newRun s (BitVec.ofNat 16 k.task) k.sslot host cold budget) s))) := by
  have hcap := newRun_captured s k.task k.sslot host cold budget
  obtain ⟨hocc, -⟩ := newRun_occ_wait s (BitVec.ofNat 16 k.task) k.sslot host cold budget
  have hstart := newRun_started h host cold budget
  generalize newRun s (BitVec.ofNat 16 k.task) k.sslot host cold budget = r at *
  have htask : r.task.toNat = k.task := by rw [hcap.task, task_toNat h]
  have hcount := hstart.newCycles htask hocc e
  rw [hcount.deltaGo hcap.slot h.writing h.deltas]
  obtain ⟨x, hrun, hx⟩ := hcount.run
  exact ⟨hcount.frame, hcount.hostRuns, hcount.slots hcap.slot, x, (congrArg (runOf _) htask.symm).trans hrun,
    (hcap.withOcc _).of_atCapture hx, (congrArg SRun.occ hx :)⟩

/-- The capture of the task, where no SOLV_RUN of it waits (R102). -/
theorem solvLong_scheduled {i : Nat} (hfirst : firstOccurrence s 15 k.task i = true) (hframe : captureFrame s k = true)
    (hhosts : ∀ d ∈ s.solv.hostRuns, d16 d 20 ≠ k.task) (hst : (slotGet s k.sslot).st = 2) :
    StartedFrom s e k none false (scheduledBudget s k) (solvLong i e s) := by
  rw [solvLong_eq h, hfirst, hframe, Bool.and_true, if_pos rfl, solvCapture_ready h hst, startHosts_none]
  · exact capture_startedFrom h none false _
  · rw [(newRun_started h none false _).hostRuns]
    exact hhosts

/-- A SOLV_RUN that waits alone starts at an occurrence outside the capture frame (R133, R134). -/
theorem solvLong_host {d : HostDesc} (hd : s.solv.hostRuns = [d]) (htask : d16 d 20 = k.task)
    (hst : (slotGet s k.sslot).st = 2) (hframe : captureFrame s k = false) (i : Nat) :
    StartedFrom { s with solv := { s.solv with hostRuns := [] } } e k (some d) (bit (d8 d 17) 0)
      (min (d64 d 24) (hostLimit s k e)) (solvLong i e s) := by
  have hu : LongReady e k { s with solv := { s.solv with hostRuns := [] } } :=
    ⟨h.task, h.task_lt, h.committed, h.engines, h.frozen, h.en, h.windows, h.run, h.deltas, h.writing⟩
  have hstart : startHost k e { s with solv := { s.solv with hostRuns := [] } } d =
      capture (newRun { s with solv := { s.solv with hostRuns := [] } } (BitVec.ofNat 16 k.task) k.sslot (some d)
        (bit (d8 d 17) 0) (min (d64 d 24) (hostLimit s k e))) { s with solv := { s.solv with hostRuns := [] } } := by
    have hframe' : captureFrame { s with solv := { s.solv with hostRuns := [] } } k = false := hframe
    rw [startHost, hu.run, hframe']
    exact if_neg (not_not_intro hst)
  rw [solvLong_eq h, hframe, Bool.and_false, if_neg Bool.false_ne_true, startHosts_one hd htask, hstart]
  exact capture_startedFrom hu ..

/-- A SOLV_RUN that waits in the capture frame is turned away by the scheduled run (R133). -/
theorem solvLong_busy {d : HostDesc} {i : Nat} (hd : s.solv.hostRuns = [d]) (htask : d16 d 20 = k.task)
    (hst : (slotGet s k.sslot).st = 2) (hfirst : firstOccurrence s 15 k.task i = true) (hframe : captureFrame s k = true)
    (hstarted : d ∈ (ringGet s d.ring).started) :
    Answered d stBUSY 0 (solvLong i e s) ∧ Counted bSOLV 5 s (solvLong i e s) ∧ (solvLong i e s).solv.hostRuns = [] := by
  have hcap := newRun_captured s k.task k.sslot none false (scheduledBudget s k)
  have hstart := newRun_started h none false (scheduledBudget s k)
  rw [solvLong_eq h, hfirst, hframe, Bool.and_true, if_pos rfl, solvCapture_ready h hst]
  generalize capture (newRun s (BitVec.ofNat 16 k.task) k.sslot none false (scheduledBudget s k)) s = c at *
  obtain ⟨x, hrun, -⟩ := hstart.run
  rw [hcap.task, task_toNat h] at hrun
  obtain ⟨-, hown⟩ := hstart.slots hcap.slot
  have hhif : c.hif = s.hif := (congrArg State.hif hstart.frame :)
  rw [startHosts_busy (hstart.hostRuns.trans hd) htask hrun]
  obtain ⟨hanswered, hblk, hsolv⟩ := turnedAway (d := d) (s := c) (by rwa [ringGet, hhif])
  generalize complete d stBUSY 0 (count bSOLV 5 { c with solv := { c.solv with hostRuns := [] } }) = b at *
  have hcount := newCycles_frame k.task e b
  have hslot : slotGet (newCycles k.task e b) k.sslot = slotGet c k.sslot :=
    slotGet_congr ((congrArg (·.solv.slots) hcount :).trans (congrArg SolvRegs.slots hsolv :)) _
  rw [deltaGo_idle (hslot ▸ (congrArg SSlot.writing hown :).trans h.writing)
    (hslot ▸ (congrArg SSlot.deltas hown :).trans h.deltas)]
  refine ⟨?_, counted_of_blk (u := c) (congrArg State.blk hstart.frame :) ?_, ?_⟩
  · rwa [Answered, (congrArg State.hif hcount :)]
  · exact (congrArg State.blk hcount :).trans hblk
  · exact (congrArg (·.solv.hostRuns) hcount :).trans (congrArg SolvRegs.hostRuns hsolv :)

/-- Of a task whose slot is not READY the run ends at once (R132). -/
theorem solvLong_notReady {i : Nat} (hfirst : firstOccurrence s 15 k.task i = true) (hframe : captureFrame s k = true)
    (hhosts : ∀ d ∈ s.solv.hostRuns, d16 d 20 ≠ k.task) (hst : (slotGet s k.sslot).st ≠ 2) :
    solvLong i e s = setRun { notStarted s k with occ := some (occurrence s e) } (count bSOLV 3 (setRun (notStarted s k) s)) := by
  have hrun : runOf (count bSOLV 3 (setRun (notStarted s k) s)) k.task = some (notStarted s k) :=
    (congrArg (runOf _) (task_toNat h).symm).trans (runOf_setRun (notStarted s k) s)
  rw [solvLong_eq h, hfirst, hframe, Bool.and_true, if_pos rfl, solvCapture_notReady h hst, startHosts_none,
    newCycles_eq hrun rfl]
  · exact deltaGo_idle h.writing h.deltas
  · exact hhosts

end Long

/-! ### The clauses of O37 on LONG_SLOT -/

theorem gives_longSlot {i : Nat} {e : SlotE} {s : State} {P : State → Prop} (hslot : activeSlot s i = some e)
    (hlong : e.flags.testBit 0 = true) (hmaster : e.master = 15) (h : P (solvLong i e s)) : Gives (.longSlot i) s P := by
  refine ⟨_, ?_, h⟩
  have hbit : bit e.flags 0 = true := hlong
  simp only [exec, execLongSlot, hslot, hbit, hmaster, Bool.not_true, Bool.false_eq_true, if_false, if_true]

/-- DSV as at cycle 0 of this minor frame (R126). -/
theorem priorOf_dsv (s : State) (q : SSlot) : (priorOf s q).2 =
    match q.prior with | some p => if p.1 = s.sched.mfn then p.2.2 else q.dsv | none => q.dsv := by
  rw [priorOf]
  rcases q.prior with _ | ⟨m, d, v⟩
  · rfl
  · exact apply_ite Prod.snd ..

/-- The marks of a warm start, and of one that the signature refuses (R105). -/
theorem CapturedAs.warm_iff {s : State} {task k budget : Nat} {host : Option HostDesc} {r : SRun}
    (h : CapturedAs s task k host false budget r) :
    (r.warm = true ↔ (slotGet s k).usable = true ∧ (slotGet s k).storeSig = (structOf s k).sig) ∧
    (r.refusedWarm = true ↔ (slotGet s k).usable = true ∧ (slotGet s k).storeSig ≠ (structOf s k).sig) := by
  rw [h.warm, h.refusedWarm]
  cases (slotGet s k).usable <;> simp

/-! ### ITERATION_COMMIT (R95, R103, R105, R111, R134) -/

theorem gives_iterationCommit {task : W16} {r : SRun} {s : State} {P : State → Prop} (hrun : runOf s task.toNat = some r)
    (hopen : r.ended = none) (hwait : r.wait = false) (hf : frozenM s 15 = false) (hruns : enginesRun s = true)
    (h : P (iterate s r)) : Gives (.iterationCommit task) s P := by
  refine ⟨_, ?_, h⟩
  simp [exec, execIterationCommit, hrun, hopen, hwait, hf, hruns]

/-- The end of an open run by the tests of R103, in their order. -/
theorem endTests_ended {st : SStruct} {p : Phases} {r : SRun} (hopen : r.ended = none) : (endTests st p r).ended =
    if runOptimal st r then some (0, 0) else if runCert st r ≠ 0 then some (2, 0) else if runStalled st r then some (3, 0)
    else if r.iter = pNat r.data 0 then some (1, 1) else if r.wc + tIter st p + p.fin ≤ r.budget then none
    else some (1, if r.hostCut then 3 else 2) := by
  have hadmits : (!solvAdmits p r (tIter st p)) = true ↔ ¬ r.wc + tIter st p + p.fin ≤ r.budget := by simp [solvAdmits]
  simp only [endTests, apply_ite SRun.ended, hopen, hadmits, ite_not, deadlineEnd, Option.isSome_none, Bool.false_eq_true,
    if_false]

/-- A run after an iteration that commits: ended by EN = 0 (R109), or tested (R103). -/
def committedRun (st : SStruct) (p : Phases) (r : SRun) : SRun :=
  let r1 := afterIter st p r (iterateOf st r)
  if r.disabled then { r1 with ended := some (if runOptimal st r1 then 0 else 1, 11) } else endTests st p r1

/-- The end of a run tells of nothing else. -/
theorem committedRun_frame (st : SStruct) (p : Phases) (r : SRun) : ∃ e c,
    committedRun st p r = { afterIter st p r (iterateOf st r) with ended := e, cert := c } := by
  unfold committedRun
  split_ifs
  · exact ⟨_, _, rfl⟩
  · exact endTests_frame ..

theorem runOf_committedRun (st : SStruct) (p : Phases) (r : SRun) (s : State) :
    runOf (setRun (committedRun st p r) s) r.task.toNat = some (committedRun st p r) := by
  obtain ⟨e, c, hx⟩ := committedRun_frame st p r
  rw [hx]
  exact runOf_setRun _ s

theorem iterate_commits {r : SRun} {s : State} (hecc : eccHit (structOf s r.slot) s = false)
    (hok : (iterateOf (structOf s r.slot) r).ok = true) : let st := structOf s r.slot
    ∃ m, iterate s r = setRun (committedRun st (phasesOf s r) r)
      (commitStore st (afterIter st (phasesOf s r) r (iterateOf st r)) { s with free := m }) := by
  obtain ⟨m, hm⟩ := eccStep_eq (structOf s r.slot) s
  refine ⟨m, ?_⟩
  simp only [iterate, hecc, hok, hm, Bool.false_eq_true, if_false, Bool.not_true]
  rfl

/-- A value that is not finite, or an ECC error, ends the run and leaves the store (R111, R142). -/
theorem iterate_aborts {r : SRun} {s : State}
    (h : eccHit (structOf s r.slot) s = true ∨ (iterateOf (structOf s r.slot) r).ok = false) : let st := structOf s r.slot
    ∃ n m, iterate s r =
      setRun { r with ended := some (4, 9), wc := r.wc + tIter st (phasesOf s r), pivtot := n } { s with free := m } ∧
      (eccHit st s = false → n = r.pivtot + (iterateOf st r).cnt) := by
  obtain ⟨m, hm⟩ := eccStep_eq (structOf s r.slot) s
  cases hecc : eccHit (structOf s r.slot) s with
  | true =>
    refine ⟨r.pivtot, m, ?_, fun hn => absurd (hecc.symm.trans hn) (by decide)⟩
    simp only [iterate, hecc, hm, if_true]
  | false =>
    have hok : (iterateOf (structOf s r.slot) r).ok = false := h.resolve_left (by rw [hecc]; decide)
    refine ⟨_, m, ?_, fun _ => rfl⟩
    simp only [iterate, hecc, hm, hok, Bool.not_false, if_true, Bool.false_eq_true, if_false]

theorem commitStore_scheduled {st : SStruct} {r : SRun} (h : r.host = none) (s : State) : commitStore st r s =
    slotPut s r.slot { slotGet s r.slot with store := r.it, storeSig := st.sig, usable := true } := by
  rw [commitStore, h]
  rfl

/-- A slot whose RB2 holds no earlier result any more (R134). -/
def withoutHostResult (q : SSlot) : SSlot :=
  { q with rb := tblPut q.rb 2 { tblGet q.rb 2 {} with valid := false } {} }

theorem commitStore_host {st : SStruct} {r : SRun} (h : r.host.isSome = true) (s : State) :
    commitStore st r s = rbStore st 2 128 (vecBytes (resultVec st r))
      (slotPut (rbTaken (slotGet s r.slot) r.slot 2 s) r.slot (withoutHostResult (slotGet s r.slot))) := by
  have hnone : ¬ r.host.isNone = true := by simpa [Option.isSome_iff_ne_none] using h
  rw [commitStore]
  exact if_neg hnone

/-- The slots after a commit (R105, R134). -/
theorem commitStore_slots (st : SStruct) (r : SRun) (s : State) : let t := commitStore st r s
    let q := slotGet s r.slot
    (∀ j, j ≠ r.slot → slotGet t j = slotGet s j) ∧ t.pimg = s.pimg ∧
    (r.host = none → { t with solv := s.solv } = s ∧
      slotGet t r.slot = { q with store := r.it, storeSig := st.sig, usable := true }) ∧
    (r.host.isSome = true → slotGet t r.slot = withoutHostResult q) := by
  intro t q
  cases hhost : r.host with
  | none =>
    simp only [t, commitStore_scheduled hhost]
    exact ⟨fun j hj => slotGet_slotPut_ne _ _ hj, rfl, fun _ => ⟨rfl, slotGet_slotPut ..⟩, fun hn => by cases hn⟩
  | some d =>
    simp only [t, commitStore_host (by rw [hhost]; rfl : r.host.isSome = true)]
    exact ⟨fun j hj => (slotGet_congr (rbStore_slots ..) j).trans (slotGet_slotPut_ne _ _ hj), rbStore_pimg ..,
      fun hn => (by cases hn), fun _ => (slotGet_congr (rbStore_slots ..) _).trans (slotGet_slotPut ..)⟩

/-- A host run's vector goes to RB2, where SOLV's windows reach it (R134, R136). -/
theorem commitStore_vector {st : SStruct} {r : SRun} {s : State} (h : r.host.isSome = true) (hf : frozenM s 15 = false)
    (hw : inWindow s 15 (rbAddr st 2 + 128) (vecBytes (resultVec st r)).length true = true) :
    dramRead (commitStore st r s) (rbAddr st 2 + 128) (vecBytes (resultVec st r)).length = vecBytes (resultVec st r) := by
  rw [commitStore_host h, rbStore_inside]
  · exact dramRead_dramWrite ..
  · exact hf
  · exact hw

/-- What an iteration that commits makes of the run (R95, R103, R109). -/
theorem committedRun_spec (st : SStruct) (p : Phases) {r : SRun} (hopen : r.ended = none) : let n := iterateOf st r
    let x := committedRun st p r
    x.it = n.it ∧ x.iter = r.iter + 1 ∧ x.wc = r.wc + tIter st p ∧ x.data = r.data ∧
    resultVec st { x with cert := r.cert } = resultVec st (afterIter st p r n) ∧
    x.pivcnt = n.cnt ∧ x.pivtot = r.pivtot + n.cnt ∧ x.rhoRel = n.rho ∧ x.budget = r.budget ∧
    (r.disabled = true → x.ended = some (if runOptimal st x then 0 else 1, 11)) ∧
    (r.disabled = false → x.ended =
      if runOptimal st x then some (0, 0) else if runCert st x ≠ 0 then some (2, 0) else if runStalled st x then some (3, 0)
      else if x.iter = pNat r.data 0 then some (1, 1) else if x.wc + tIter st p + p.fin ≤ r.budget then none
      else some (1, if r.hostCut then 3 else 2)) := by
  intro n x
  obtain ⟨e, c, hx⟩ := committedRun_frame st p r
  have hdisabled : r.disabled = true → x.ended = some (if runOptimal st x then 0 else 1, 11) := fun hd => by
    simp only [x, committedRun, hd, if_true]
    rfl
  have htested : r.disabled = false → x.ended = (endTests st p (afterIter st p r n)).ended := fun hd => by
    simp only [x, committedRun, hd, Bool.false_eq_true, if_false]
    rfl
  have hx' : x = { afterIter st p r n with ended := e, cert := c } := hx
  clear_value x
  subst hx'
  exact ⟨rfl, rfl, rfl, rfl, rfl, rfl, rfl, rfl, rfl, hdisabled, fun hd => (htested hd).trans (endTests_ended hopen)⟩

/-- Settles O37: a LONG slot captures once and counts from its occurrence; an iteration commits whole or not at all. -/
theorem solverRunsCaptureAndCommit : Obligations.SolverRunsCaptureAndCommit := by
  refine ⟨fun i e k s => ?_, fun task r s hrun hopen hwait hf hruns => ?_⟩
  · intro q dsv0 kept hslot hlong hmaster htask hlt
    refine ⟨fun hc => gives_longSlot hslot hlong hmaster (solvLong_committed hc i e), ?_⟩
    intro hc hruns hf hen hwin hrun hdeltas hwriting
    have h : LongReady e k s := ⟨htask, hlt, hc, hruns, hf, hen, hwin, hrun, hdeltas, hwriting⟩
    refine ⟨fun hfirst hframe hhosts => ⟨fun hst => gives_longSlot hslot hlong hmaster ?_,
      fun hst => gives_longSlot hslot hlong hmaster ?_⟩, fun d hd hdtask hst hframe => gives_longSlot hslot hlong hmaster ?_,
      fun d hd hdtask hframe hfirst hst hstarted => gives_longSlot hslot hlong hmaster ?_⟩
    · obtain ⟨hkept, -, hslots, r, hr, hcap, hocc⟩ := solvLong_scheduled h hfirst hframe hhosts hst
      obtain ⟨hwarm, hrefused⟩ := hcap.warm_iff
      exact ⟨hslots, hkept, r, hr, hcap.slot, hcap.host, hcap.capMfn, hcap.budget, hcap.iter,
        hcap.dsv.trans (priorOf_dsv s q), hwarm, hrefused, hcap.elapsed, hocc⟩
    · rw [solvLong_notReady h hfirst hframe hhosts hst]
      refine ⟨fun _ => rfl, counted_of_blk (u := s) rfl rfl, _,
        (congrArg (runOf _) (task_toNat h).symm).trans (runOf_setRun _ _), rfl, rfl⟩
    · obtain ⟨hkept, hhosts, hslots, r, hr, hcap, -⟩ := solvLong_host h hd hdtask hst hframe i
      refine ⟨hhosts, hslots, (congrArg State.blk hkept :), r, hr, hcap.host, hcap.capMfn, hcap.budget, hcap.iter,
        fun hbit => ?_⟩
      have hcold : bit (d8 d 17) 0 = true := hbit
      rw [hcap.warm, hcold]
      rfl
    · exact solvLong_busy h hd hdtask hst hfirst hframe hstarted
  · intro st p n q
    obtain rfl := runOf_task hrun
    refine ⟨fun hecc hok => gives_iterationCommit hrun hopen hwait hf hruns ?_,
      fun habort => gives_iterationCommit hrun hopen hwait hf hruns ?_⟩
    · obtain ⟨m, hcommits⟩ := iterate_commits hecc hok
      obtain ⟨hothers, hpimg, hscheduled, hhost⟩ := commitStore_slots st (afterIter st p r n) { s with free := m }
      obtain ⟨hit, hiter, hwc, hdata, hvec, hspec⟩ := committedRun_spec st p hopen
      rw [hcommits]
      refine ⟨hothers, hpimg, fun hn => ?_, hhost, _, runOf_committedRun .., hit, hiter, hwc, hdata, ?_, hspec⟩
      · obtain ⟨hframe, hstore⟩ := hscheduled hn
        exact ⟨congrArg (fun u : State => { u with free := s.free }) hframe, hstore⟩
      · intro hsome v hw
        have hv : v = vecBytes (resultVec st (afterIter st p r n)) := congrArg vecBytes hvec
        rw [hv] at hw ⊢
        exact commitStore_vector (r := afterIter st p r n) (s := { s with free := m }) hsome hf hw
    · obtain ⟨k, m, haborts, hpiv⟩ := iterate_aborts habort
      rw [haborts]
      exact ⟨fun _ => rfl, rfl, _, runOf_setRun _ _, rfl, rfl, rfl, rfl, hpiv⟩

end Sys2Proof.Proofs
end

section
/-! PROOFS. The result write of SOLV and its publication slot (R104, R105, R125, R134 to R140, R148). -/

namespace Sys2Proof.Proofs

open Sys2Proof.Machine Sys2Proof.Laws

/-! ### The result write (R136) -/

/-- The buffer that a run's result takes: RB2 for a host run, RB0 and RB1 in turn for a scheduled one. -/
def resultBuffer (q : SSlot) (r : SRun) : Nat := if r.host.isSome then 2 else q.nextRb

/-- The result of a run that has ended (Tables 4-9 to 4-12). -/
def resultOf (s : State) (r : SRun) (st en : Byte) : SResult :=
  mkResult (structOf s r.slot) (slotGet s r.slot) r (phasesOf s r) st en

/-- The address of the buffer that a result goes to (R136). -/
def resultAddr (s : State) (r : SRun) : Nat := rbAddr (structOf s r.slot) (resultBuffer (slotGet s r.slot) r)

/-- The bytes of a result: its record and its vector (R136). -/
def resultImage (s : State) (r : SRun) (st en : Byte) : Bytes :=
  resultBytes (resultOf s r st en) ++ vecBytes (resultOf s r st en).vec

/-- The record of a result (Table 4-9); a run that was not started shows its status alone. -/
theorem resultOf_spec (s : State) (r : SRun) (st en : Byte) : let z := resultOf s r st en
    z.rseq = (slotGet s r.slot).rseq + 1 ∧ z.status = st ∧ z.endc = en ∧ z.task = r.task ∧ z.mfn = r.capMfn ∧
    z.sslot = r.slot ∧ z.valid = true ∧ (en ≠ 10 → z.iter.toNat = r.iter % 256 ∧ z.dsv = r.dsv ∧ z.cert = r.cert ∧
      z.vec = resultVec (structOf s r.slot) r ∧ z.wc.toNat = (r.wc + (phasesOf s r).fin) % 2 ^ 64) := by
  unfold resultOf mkResult
  dsimp only
  split_ifs with hen
  · exact ⟨rfl, rfl, rfl, rfl, rfl, rfl, rfl, fun hn => absurd hen hn⟩
  · exact ⟨rfl, rfl, rfl, rfl, rfl, rfl, rfl, fun _ => ⟨BitVec.toNat_ofNat .., rfl, rfl, rfl, BitVec.toNat_ofNat ..⟩⟩

/-- The slot of a run after its result write. -/
def slotWithResult (s : State) (r : SRun) (st en : Byte) : SSlot :=
  let q := slotGet s r.slot
  let z := resultOf s r st en
  { q with rseq := z.rseq, rb := tblPut q.rb (resultBuffer q r) z {}, last := { z with vec := [] },
           nextRb := if r.host.isSome then q.nextRb else 1 - q.nextRb,
           usable := q.usable && !(r.host.isNone && (st == 2 || st == 3 || st == 4)) }

/-- The unit with the run gone and its slot's result taken, before the bytes reach the DRAM. -/
def runClosed (s : State) (r : SRun) (st en : Byte) : State :=
  rbTaken (slotGet s r.slot) r.slot (resultBuffer (slotGet s r.slot) r)
    (dropRun r.task (slotPut s r.slot (slotWithResult s r st en)))

/-- The unit with the result written, before its completion. -/
def resultWritten (s : State) (r : SRun) (st en : Byte) : State :=
  countIf (st == 4) bSOLV 2 (irqEdge 194
    (rbStore (structOf s r.slot) (resultBuffer (slotGet s r.slot) r) 0 (resultImage s r st en) (runClosed s r st en)))

/-- A scheduled result that waits for its publication frame (R103, R140). -/
def heldResult (s : State) (r : SRun) (st en : Byte) : SHeld :=
  { task := r.task, slot := r.slot, rb := resultBuffer (slotGet s r.slot) r,
    pubMfn := r.capMfn + BitVec.ofNat 64 (match solvTask s r.task.toNat with | some t => t.pubOff | none => 0),
    publish := publishable r st en }

theorem writeResult_host {r : SRun} {d : HostDesc} (h : r.host = some d) (s : State) (st en : Byte) :
    writeResult s r st en = complete d (resultStatus (resultOf s r st en)) (resultData (resultOf s r st en))
      (resultWritten s r st en) := by
  unfold writeResult
  extract_lets q t z b clear q1 s0 s1
  simp only [h]
  rfl

theorem writeResult_scheduled {r : SRun} (h : r.host = none) (s : State) (st en : Byte) :
    writeResult s r st en = if postedAtOnce st en then postResult (structOf s r.slot) (resultOf s r st en) (resultWritten s r st en)
      else { resultWritten s r st en with solv := { (resultWritten s r st en).solv with
        held := (resultWritten s r st en).solv.held ++ [heldResult s r st en] } } := by
  unfold writeResult
  extract_lets q t z b clear q1 s0 s1
  simp only [h]
  rfl

/-- A result that goes out on its RING waits in HIF (R140). -/
theorem postResult_frame (st : SStruct) (x : SResult) (s : State) : { postResult st x s with hif := s.hif } = s := by
  unfold postResult
  split_ifs <;> rfl

/-- The completion of a result changes HIF, the results that wait, and what its audit record changes. -/
theorem writeResult_frame (s : State) (r : SRun) (st en : Byte) : let t := writeResult s r st en
    let w := resultWritten s r st en
    { t with blk := w.blk, recs := w.recs, hif := w.hif, solv := { t.solv with held := w.solv.held } } = w := by
  intro t w
  cases hhost : r.host with
  | some d =>
    have heq : t = complete d (resultStatus (resultOf s r st en)) (resultData (resultOf s r st en)) w :=
      writeResult_host hhost s st en
    have hframe := complete_frame d (resultStatus (resultOf s r st en)) (resultData (resultOf s r st en)) w
    rw [heq]
    exact (congrArg (fun u : State => { u with solv := { u.solv with held := w.solv.held } }) hframe :)
  | none =>
    have heq := writeResult_scheduled hhost s st en
    have hpost := postResult_frame (structOf s r.slot) (resultOf s r st en) w
    simp only [t, heq]
    split_ifs
    · exact (congrArg (fun u : State => { u with
        blk := w.blk, recs := w.recs, solv := { u.solv with held := w.solv.held } }) hpost :)
    · rfl

/-- The result write is frozen out or lies inside SOLV's windows, so that it freezes nothing (R65, R67). -/
def WriteContained (s : State) (r : SRun) (st en : Byte) : Prop :=
  frozenM s 15 = true ∨ inWindow s 15 (resultAddr s r) (resultImage s r st en).length true = true

theorem resultWritten_eq {s : State} {r : SRun} {st en : Byte} (hw : WriteContained s r st en) :
    ∃ m, resultWritten s r st en = countIf (st == 4) bSOLV 2 (irqEdge 194 { runClosed s r st en with dram := m }) ∧
      (frozenM s 15 = false → tblRange m (resultAddr s r) (resultImage s r st en).length 0 = resultImage s r st en) := by
  cases hf : frozenM s 15 with
  | true =>
    refine ⟨s.dram, ?_, fun hn => by cases hn⟩
    have hclosed : frozenM (runClosed s r st en) 15 = true := hf
    rw [resultWritten, rbStore, guarded_frozen hclosed]
    rfl
  | false =>
    have hwin := hw.resolve_left (by rw [hf]; decide)
    refine ⟨tblPutAll s.dram (resultAddr s r) (resultImage s r st en) 0, ?_, fun _ => tblRange_tblPutAll ..⟩
    rw [resultWritten, rbStore_inside]
    · rfl
    · exact hf
    · exact hwin

/-- The slot, the runs, the interrupt and the DRAM after a result write. -/
theorem writeResult_spec {s : State} {r : SRun} {st en : Byte} (hw : WriteContained s r st en) : let t := writeResult s r st en
    let img := resultImage s r st en
    (frozenM s 15 = false → dramRead t (resultAddr s r) img.length = img) ∧ slotGet t r.slot = slotWithResult s r st en ∧
    runOf t r.task.toNat = none ∧ (srcGet t 194).pend = true ∧ t.pimg = s.pimg := by
  intro t img
  obtain ⟨m, heq, hm⟩ := resultWritten_eq hw
  have hframe := writeResult_frame s r st en
  rw [heq] at hframe
  have hdram : t.dram = m := (congrArg State.dram hframe :).trans (countIf_dram ..)
  have hsolv : t.solv.slots = (runClosed s r st en).solv.slots ∧ t.solv.runs = (runClosed s r st en).solv.runs :=
    ⟨(congrArg (·.solv.slots) hframe :).trans (congrArg SolvRegs.slots (countIf_solv ..)),
      (congrArg (·.solv.runs) hframe :).trans (congrArg SolvRegs.runs (countIf_solv ..))⟩
  obtain ⟨hslots, hruns⟩ := hsolv
  have hirq : t.irq = (irqEdge 194 s).irq := (congrArg State.irq hframe :).trans (countIf_irq ..)
  refine ⟨fun hf => ?_, (slotGet_congr hslots _).trans (slotGet_slotPut s r.slot _), ?_, ?_,
    (congrArg State.pimg hframe :).trans (countIf_pimg ..)⟩
  · rw [dramRead, hdram]
    exact hm hf
  · rw [runOf, hruns]
    exact runOf_dropRun r.task s
  · rw [srcGet, hirq]
    exact congrArg IrqSrc.pend (srcGet_srcPut s 194 _)

/-- Only OPTIMAL completes OK (R140). -/
theorem resultStatus_ne_ok {x : SResult} (h : x.status ≠ 0) : resultStatus x ≠ stOK := by
  unfold resultStatus
  split_ifs <;> decide

/-- ABORTED increments SOLV.CNT[2] (Table 4-18), and its completion counts nothing. -/
theorem writeResult_aborted {s : State} {r : SRun} {st en : Byte} (hst : st = 4) (hw : WriteContained s r st en) :
    Counted bSOLV 2 s (writeResult s r st en) := by
  subst hst
  obtain ⟨m, heq, -⟩ := resultWritten_eq hw
  obtain ⟨-, hresult, -⟩ := resultOf_spec s r 4 en
  have hblk : (resultWritten s r 4 en).blk = (count bSOLV 2 s).blk := by
    rw [heq]
    rfl
  refine counted_of_blk (u := s) rfl (Eq.trans ?_ hblk)
  cases hhost : r.host with
  | some d =>
    rw [writeResult_host hhost]
    have hstatus : resultStatus (resultOf s r 4 en) ≠ stOK := resultStatus_ne_ok (by rw [hresult]; decide)
    exact (congrArg State.blk (complete_refused_frame hstatus _) :)
  | none =>
    rw [writeResult_scheduled hhost]
    exact (congrArg State.blk (postResult_frame ..) :)

/-- A host run's SOLV_RUN completes with the result's status and data (R133, Table 4-13), and the results that wait stay. -/
theorem writeResult_answers {s : State} {r : SRun} {d : HostDesc} (hhost : r.host = some d) (hd : d ∈ (ringGet s d.ring).started)
    {st en : Byte} (hw : WriteContained s r st en) :
    Answered d (resultStatus (resultOf s r st en)) (resultData (resultOf s r st en)) (writeResult s r st en) ∧
      (writeResult s r st en).solv.held = s.solv.held := by
  obtain ⟨m, heq, -⟩ := resultWritten_eq hw
  have hrings : (resultWritten s r st en).hif.rings = s.hif.rings := by
    rw [heq, countIf_hif]
    rfl
  have hheld : (resultWritten s r st en).solv.held = s.solv.held := by
    rw [heq, countIf_solv]
    rfl
  rw [writeResult_host hhost]
  refine ⟨answered_complete _ _ (by rwa [ringGet, hrings]), ?_⟩
  exact (congrArg (·.solv.held) (complete_frame d _ _ (resultWritten s r st en)) :).trans hheld

/-- A scheduled result that is neither ABORTED nor cut waits for its publication frame (R103, R140). -/
theorem writeResult_holds {s : State} {r : SRun} {st en : Byte} (hhost : r.host = none) (hst : st ≠ 4)
    (hen : en.toNat < 3 ∨ en = 8) : heldResult s r st en ∈ (writeResult s r st en).solv.held := by
  have hwaits : postedAtOnce st en = false := by
    have h10 : en ≠ 10 := by rintro rfl; exact absurd hen (by decide)
    have h11 : en ≠ 11 := by rintro rfl; exact absurd hen (by decide)
    have hcut : ¬(3 ≤ en.toNat ∧ en.toNat ≤ 7) := by
      rcases hen with hen | rfl
      · omega
      · decide
    rw [postedAtOnce, beq_false_of_ne hst, beq_false_of_ne h10, beq_false_of_ne h11]
    simpa using hcut
  rw [writeResult_scheduled hhost, hwaits, if_neg Bool.false_ne_true]
  exact List.mem_append_right _ (List.mem_singleton.mpr rfl)

theorem publish_heldResult {s : State} {r : SRun} (hhost : r.host = none) (st en : Byte) :
    (heldResult s r st en).publish = true ↔ en.toNat ≤ 2 ∧ (st = 0 ∨ (st = 1 ∧ 1 ≤ r.iter)) := by
  simp [heldResult, publishable, hhost]

theorem usable_slotWithResult (s : State) (r : SRun) (st en : Byte) : (slotWithResult s r st en).usable = true ↔
    (slotGet s r.slot).usable = true ∧ ¬(r.host = none ∧ (st = 2 ∨ st = 3 ∨ st = 4)) := by
  cases hhost : r.host <;> simp [slotWithResult, hhost, and_assoc]

theorem gives_resultWrite {task : W16} {r : SRun} {st en : Byte} {s : State} {P : State → Prop}
    (hrun : runOf s task.toNat = some r) (hended : r.ended = some (st, en)) (h : P (writeResult s r st en)) :
    Gives (.resultWrite task) s P := by
  refine ⟨_, ?_, h⟩
  simp only [exec, execResultWrite, hrun, finishRun, hended]

/-! ### The publication slot (R47, R125, R140, R148) -/

theorem pubSlot_idle {m : LongMaster} {s : State}
    (h : ∀ e, slotNow s (match m with | .solv => 15 | .parc => 16) = some e → e.flags.testBit 1 = false) :
    Gives (.pubSlot m) s (fun t => t = s) := by
  refine ⟨s, congrArg Host.Outcome.next ?_, rfl⟩
  split
  · next e he =>
    have hbit : bit e.flags 1 = false := h e he
    rw [hbit]
    rfl
  · rfl

theorem gives_pubSlot {e : SlotE} {s : State} {P : State → Prop} (hslot : slotNow s 15 = some e)
    (hpub : e.flags.testBit 1 = true) (h : P (solvPub s)) : Gives (.pubSlot .solv) s P := by
  refine ⟨_, ?_, h⟩
  have hbit : bit e.flags 1 = true := hpub
  simp only [exec, execPubSlot, hslot, hbit, if_true]

/-- The unit with its one held result taken. -/
def heldTaken (s : State) : State := { s with solv := { s.solv with held := [] } }

theorem solvPub_one {h : SHeld} {s : State} (hheld : s.solv.held = [h]) (hmfn : h.pubMfn = s.sched.mfn) :
    solvPub s = publishHeld (enOf s bSOLV && !frozenM s 15 && enginesRun s) (heldTaken s) h := by
  simp [solvPub, hheld, hmfn, insertHeld, heldTaken]

/-- A result that is posted waits for HIF on the structure's RING (R140). -/
theorem postResult_posted {st : SStruct} (hring : st.ring < 64) (x : SResult) (s : State) :
    ∃ c ∈ (postResult st x s).hif.waiting, c.ring = st.ring ∧ c.unsol = true ∧
      c.status = BitVec.ofNat 8 (resultStatus x) ∧ c.data = BitVec.ofNat 64 (resultData x) ∧ c.src = BitVec.ofNat 8 bSOLV := by
  rw [postResult, if_pos hring]
  exact ⟨_, List.mem_append_right _ (List.mem_singleton.mpr rfl), rfl, rfl, rfl, rfl, rfl⟩

/-- A binary64 point of SOLV that is not forced takes the published value with quality GOOD (R181, R515). -/
theorem publishBind_f64 {s : State} {b : PubBind} (hf : frozenM s 15 = false)
    (hw : inWindow s 15 (viewOut b.point) 16 true = true) (hp : b.point < 131072) (htyp : (workPt s b.point).typ = 7)
    (howner : (workPt s b.point).owner = 15) (hqual : (workPt s b.point).qual ≠ qFORCED) (vec : List F64) :
    publishBind vec s b = workSet s b.point (mulF (vget vec b.src) b.scale) qGOOD := by
  rw [publishBind, hf, if_neg Bool.false_ne_true, guarded_inside hf hw, pointStoreF]
  simp only [htyp, f64ToType, if_true, countIf, Bool.false_eq_true, if_false]
  rw [if_neg (by decide), pointWrite, if_neg (not_or.mpr ⟨by omega, by rw [htyp]; decide⟩),
    if_neg (by rw [howner]; decide), if_neg (by omega), if_neg hqual, if_pos (.inl rfl)]
  rfl

theorem workPt_congr {s t : State} (h : t.pimg = s.pimg) (p : Nat) : workPt t p = workPt s p := by
  rw [workPt, workPt, h]

theorem workSet_same (s : State) (p : Nat) (v : W64) (q : BitVec 3) :
    (workPt (workSet s p v q) p).value = typeBits (workPt s p).typ v ∧ (workPt (workSet s p v q) p).qual = q := by
  rw [workSet, workPt_workPut, ptSet]
  split_ifs with hsame
  · exact hsame
  · exact ⟨rfl, rfl⟩

theorem passFlows_frame (k : Nat) (vec : List F64) (s : State) : { passFlows k vec s with parc := s.parc } = s := by
  unfold passFlows
  split_ifs <;> rfl

/-- The branch flows of a NEWTON result enter the flow input of a loaded PARC that names its slot (R148). -/
theorem passFlows_parc {k : Nat} {s : State} (hto : s.parc.hslot = k) (hcfg : s.parc.cfgSt = 2) (vec : List F64) :
    (passFlows k vec s).parc = { s.parc with
      flowIn := s.parc.segs.map fun g => toF32 (mulF (vget vec g.branch) s.parc.flowScale), fresh := true } := by
  rw [passFlows, if_pos ⟨hto, hcfg⟩]

/-- The result of a buffer, marked as published. -/
def publishedResult (x : SResult) : SResult := { x with flags := x.flags ||| 0x10 }

/-- The mark PUBLISHED is set in the result's buffer and in its record of the last result (R136). -/
def markPublished (h : SHeld) (s : State) : State :=
  let q := slotGet s h.slot
  let y := publishedResult (tblGet q.rb h.rb {})
  rbStore (structOf s h.slot) h.rb 6 [y.flags] (slotPut s h.slot { q with
    rb := tblPut q.rb h.rb y {}, last := if q.last.rseq = y.rseq then { q.last with flags := y.flags } else q.last })

/-- The flows of a NEWTON result are passed on (R148). -/
def withFlows (h : SHeld) (st : SStruct) (x : SResult) (s : State) : State :=
  if st.kind = kNEWTON then passFlows h.slot x.vec s else s

/-- The unit with the one point of a published result stored and its buffer marked. -/
def pointPublished (h : SHeld) (b : PubBind) (s : State) : State :=
  markPublished h
    (workSet (heldTaken s) b.point (mulF (vget (tblGet (slotGet s h.slot).rb h.rb {}).vec b.src) b.scale) qGOOD)

/-- The one held result that may be published: its point, its mark, its flows, then its completion. -/
theorem solvPub_publishes {h : SHeld} {s : State} {b : PubBind} (hheld : s.solv.held = [h]) (hmfn : h.pubMfn = s.sched.mfn)
    (hyes : h.publish = true) (hen : enOf s bSOLV = true) (hf : frozenM s 15 = false) (hruns : enginesRun s = true)
    (hbind : (structOf s h.slot).pubbind = [b]) (hw : inWindow s 15 (viewOut b.point) 16 true = true) (hp : b.point < 131072)
    (htyp : (workPt s b.point).typ = 7) (howner : (workPt s b.point).owner = 15) (hqual : (workPt s b.point).qual ≠ qFORCED) :
    let st := structOf s h.slot
    let x := tblGet (slotGet s h.slot).rb h.rb {}
    solvPub s = postResult st (publishedResult x) (withFlows h st x (pointPublished h b s)) := by
  intro st x
  have hbind' : (structOf (heldTaken s) h.slot).pubbind = [b] := hbind
  have hstore := publishBind_f64 (s := heldTaken s) hf hw hp htyp howner hqual x.vec
  have hopen : frozenM (workSet (heldTaken s) b.point (mulF (vget x.vec b.src) b.scale) qGOOD) 15 = false := hf
  have hx : tblGet (slotGet (heldTaken s) h.slot).rb h.rb {} = x := rfl
  rw [solvPub_one hheld hmfn, hen, hf, hruns]
  simp only [publishHeld, hyes, hbind', hx, Bool.not_false, Bool.and_true, if_true, List.foldl_cons, List.foldl_nil, hstore,
    hopen, Bool.false_eq_true, if_false]
  rfl

/-- A held result that may not be published is posted alone. -/
theorem solvPub_posts {h : SHeld} {s : State} (hheld : s.solv.held = [h]) (hmfn : h.pubMfn = s.sched.mfn)
    (hno : h.publish = false) :
    solvPub s = postResult (structOf s h.slot) (tblGet (slotGet s h.slot).rb h.rb {}) (heldTaken s) := by
  rw [solvPub_one hheld hmfn, publishHeld, hno, Bool.and_false, if_neg Bool.false_ne_true]
  rfl

/-- The flows of a result and its completion change the flow input and HIF alone. -/
theorem postFlows_keeps (h : SHeld) (st : SStruct) (x y : SResult) (s : State) : let t := postResult st y (withFlows h st x s)
    t.solv = s.solv ∧ t.pimg = s.pimg ∧ t.dram = s.dram ∧ t.parc = (withFlows h st x s).parc := by
  intro t
  have hpost := postResult_frame st y (withFlows h st x s)
  have hflows : { withFlows h st x s with parc := s.parc } = s := by
    unfold withFlows
    split_ifs
    · exact passFlows_frame h.slot x.vec s
    · rfl
  exact ⟨(congrArg State.solv hpost :).trans (congrArg State.solv hflows :),
    (congrArg State.pimg hpost :).trans (congrArg State.pimg hflows :),
    (congrArg State.dram hpost :).trans (congrArg State.dram hflows :), (congrArg State.parc hpost :)⟩

/-- What the mark of a published result changes: its slot, and the DRAM where SOLV's windows reach the buffer. -/
theorem markPublished_spec (h : SHeld) (s : State) : let t := markPublished h s
    let x := tblGet (slotGet s h.slot).rb h.rb {}
    t.solv.held = s.solv.held ∧ t.pimg = s.pimg ∧ t.parc = s.parc ∧
    (tblGet (slotGet t h.slot).rb h.rb {}).flags = x.flags ||| 0x10 ∧ (slotGet t h.slot).store = (slotGet s h.slot).store ∧
    (frozenM s 15 = false → inWindow s 15 (rbAddr (structOf s h.slot) h.rb + 6) 1 true = true →
      tblGet t.dram (rbAddr (structOf s h.slot) h.rb + 6) 0 = x.flags ||| 0x10) := by
  intro t x
  have hslot : slotGet t h.slot = _ := (slotGet_congr (rbStore_slots ..) h.slot).trans (slotGet_slotPut ..)
  refine ⟨rbStore_held .., rbStore_pimg .., rbStore_parc .., ?_, ?_, fun hf hw => ?_⟩
  · rw [hslot]
    exact congrArg SResult.flags (tblGet_tblPut_same ..)
  · rw [hslot]
  · simp only [t, markPublished]
    rw [rbStore_inside]
    · exact tblGet_tblPut_same ..
    · exact hf
    · exact hw

/-- Settles O38: a result write closes the run and fills one buffer; the publication slot publishes what may be published. -/
theorem resultsAreWrittenAndPublished : Obligations.ResultsAreWrittenAndPublished := by
  refine ⟨fun task r st en s hrun hended hstarted => ?_, fun m s hidle => pubSlot_idle hidle,
    fun h e s hslot hpub hheld hmfn => ?_⟩
  · intro a z img hw
    obtain rfl := runOf_task hrun
    obtain ⟨hdram, hslot, hgone, hpend, hpimg⟩ := writeResult_spec (st := st) (en := en) hw
    obtain ⟨hrseq, hst, hen, htask, hmfn, hsslot, hvalid, hfields⟩ := resultOf_spec s r st en
    refine gives_resultWrite hrun hended ?_
    intro q w x
    have hw' : w = slotWithResult s r st en := hslot
    have hx : x = z := by
      simp only [x, hw']
      exact tblGet_tblPut_same ..
    clear_value x w
    subst hx hw'
    refine ⟨hdram, rfl, hgone, hrseq, hrseq, hst, hen, htask, hmfn, hsslot, hvalid, hfields,
      fun j hj => tblGet_tblPut_ne _ _ _ hj, usable_slotWithResult .., rfl, rfl, fun hn => ?_, hpend, hpimg,
      fun h4 => writeResult_aborted h4 hw, fun d hd => writeResult_answers hd (hstarted d hd) hw,
      fun hn h4 hcut => ⟨_, writeResult_holds hn h4 hcut, rfl, rfl, ?_, publish_heldResult hn st en⟩⟩
    · simp [slotWithResult, hn, q]
    · simp [heldResult, resultBuffer, hn, q]
  · intro q st x y posted
    refine ⟨fun hno => gives_pubSlot hslot hpub ?_,
      fun b hyes hen hf hruns hbind hp htyp howner hqual hw => gives_pubSlot hslot hpub ?_⟩
    · have hframe := postResult_frame st x (heldTaken s)
      rw [solvPub_posts hheld hmfn hno]
      exact ⟨(congrArg (·.solv.held) hframe :), (congrArg State.pimg hframe :), fun hring => postResult_posted hring ..,
        fun k => slotGet_congr (congrArg (·.solv.slots) hframe :) k⟩
    · obtain ⟨hvalue, hquality⟩ := workSet_same (heldTaken s) b.point (mulF (vget x.vec b.src) b.scale) qGOOD
      obtain ⟨hmheld, hmpimg, hmparc, hflags, hmstore, hmdram⟩ := markPublished_spec h
        (workSet (heldTaken s) b.point (mulF (vget x.vec b.src) b.scale) qGOOD)
      obtain ⟨hsolv, hpimg, hdram, hparc⟩ := postFlows_keeps h st x y (pointPublished h b s)
      have hposted := fun hring : st.ring < 64 => postResult_posted hring y (withFlows h st x (pointPublished h b s))
      have hpublishes : solvPub s = postResult st y (withFlows h st x (pointPublished h b s)) :=
        solvPub_publishes hheld hmfn hyes hen hf hruns hbind hw hp htyp howner hqual
      rw [hpublishes]
      generalize postResult st y (withFlows h st x (pointPublished h b s)) = t at *
      have hpimg := hpimg.trans hmpimg
      have hmparc : (pointPublished h b s).parc = s.parc := hmparc
      have hslots : slotGet t h.slot = slotGet (pointPublished h b s) h.slot := slotGet_congr (congrArg SolvRegs.slots hsolv) _
      refine ⟨(congrArg SolvRegs.held hsolv).trans hmheld, ?_, ?_, fun p hne => ?_, (congrArg PImage.frozen hpimg :), ?_, ?_,
        hposted, fun hin => ?_, fun hk hto hcfg => ?_, fun hk => ?_⟩
      · have htyp' : (workPt (heldTaken s) b.point).typ = 7 := htyp
        rw [workPt_congr hpimg, hvalue, htyp']
        rfl
      · rw [workPt_congr hpimg, hquality]
      · rw [workPt_congr hpimg]
        exact workPt_workPut_ne _ _ hne
      · rw [hslots]
        exact hflags
      · rw [hslots]
        exact hmstore
      · rw [hdram]
        exact hmdram hf hin
      · rw [hparc, withFlows, if_pos hk, passFlows_parc (hmparc ▸ hto) (hmparc ▸ hcfg), hmparc]
        exact ⟨rfl, rfl⟩
      · rw [hparc, withFlows, if_neg hk]
        exact hmparc

end Sys2Proof.Proofs
end

section
/-! PROOFS. What the solver descriptors share: the unit that a started descriptor finds, the refusals that SOLV counts, and
the deltas of a structure slot (R126 to R131). -/

namespace Sys2Proof.Proofs

open Sys2Proof.Machine Sys2Proof.Laws

/-! ### The unit that a descriptor finds -/

/-- The unit with other rings and another SEC: these alone change when a descriptor starts. -/
def withStarted (g : Tbl Ring) (c : SecRegs) (s : State) : State := { s with hif := { s.hif with rings := g }, sec := c }

theorem entered_eq_withStarted (d : HostDesc) (s : State) : ∃ g c, entered d s = withStarted g c s := by
  unfold entered
  dsimp only
  split_ifs
  · exact ⟨_, _, rfl⟩
  · split <;> exact ⟨_, _, rfl⟩

/-- What holds of the effect on every such unit in which the descriptor is started holds after its arrival. -/
theorem arrive_starts {op : Nat} {d : HostDesc} {s : State} {eff : HostDesc → State → State} {P : State → Prop}
    (hreach : Reaches op d s)
    (h : ∀ g c, d ∈ (ringGet (withStarted g c s) d.ring).started → P (eff d (withStarted g c s))) : P (arrive eff d s) := by
  obtain ⟨g, c, heq⟩ := entered_eq_withStarted d s
  have hstarted := mem_entered_started d s
  rw [arrive_reaches eff hreach]
  rw [heq] at hstarted ⊢
  exact h g c hstarted

/-! ### Completions of the solver descriptors (Table 4-18) -/

/-- The descriptor has completed with the status of a failed check, one counter of SOLV has counted it, and SOLV is as it
was. -/
def Refused (d : HostDesc) (c st data : Nat) (s t : State) : Prop :=
  Answered d st data t ∧ Counted bSOLV c s t ∧ t.solv = s.solv

@[simp] theorem complete_solv (d : HostDesc) (st data : Nat) (s : State) : (complete d st data s).solv = s.solv :=
  (congrArg State.solv (complete_frame d st data s) :)

theorem complete_out (d : HostDesc) (st data : Nat) (s : State) : (complete d st data s).out = s.out :=
  (congrArg State.out (complete_frame d st data s) :)

theorem complete_pimg (d : HostDesc) (st data : Nat) (s : State) : (complete d st data s).pimg = s.pimg :=
  (congrArg State.pimg (complete_frame d st data s) :)

theorem complete_counted {d : HostDesc} {s : State} (hd : d ∈ (ringGet s d.ring).started) {st : Nat} (hst : st ≠ stOK)
    (c data : Nat) : Refused d c st data s (complete d st data (count bSOLV c s)) := by
  have hframe := complete_refused_frame (d := d) (data := data) hst (count bSOLV c s)
  exact ⟨answered_complete st data (s := count bSOLV c s) hd, counted_of_blk (u := s) rfl (congrArg State.blk hframe :),
    (congrArg State.solv hframe :)⟩

theorem finish_listed {st : Nat} {cl : List Nat} (h : st ∈ cl) (b n : Nat) (d : HostDesc) (data : Nat) (s : State) :
    finish b n cl d st data s = complete d st data (count b n s) := by
  rw [finish, List.contains_iff_mem.mpr h]
  rfl

theorem finSolv_refused {d : HostDesc} {s : State} (hd : d ∈ (ringGet s d.ring).started) {st : Nat}
    (h : st ∈ [stRANGE, stNOT_READY, stBUSY]) (data : Nat) : Refused d 6 st data s (finSolv d st data s) := by
  have hst : st ≠ stOK := fun he => absurd (he ▸ h) (by decide)
  rw [finSolv, finish_listed h]
  exact complete_counted hd hst 6 data

theorem finSolv_ok (d : HostDesc) (data : Nat) (s : State) : finSolv d stOK data s = complete d stOK data s := rfl

/-! ### Entries of a data set (Table 4-6) -/

theorem dGet_dPut_same (t : Tbl F64) (a i : Nat) (v : F64) : dGet (dPut t a i v) a i = v := tblGet_tblPut_same ..

theorem dGet_dPut_ne (t : Tbl F64) {a b i j : Nat} (v : F64) (hi : i < 2 ^ 32) (hj : j < 2 ^ 32) (h : (b, j) ≠ (a, i)) :
    dGet (dPut t a i v) b j = dGet t b j := by
  refine tblGet_tblPut_ne _ _ _ fun heq => h ?_
  have hb : b = a := by omega
  have hij : j = i := by omega
  rw [hb, hij]

theorem leNat_lt (b : Bytes) : leNat b < 256 ^ b.length := by
  induction b with
  | nil => exact Nat.one_pos
  | cons x r ih =>
    have hx := x.isLt
    rw [leNat, List.length_cons, Nat.pow_succ]
    omega

theorem slice_length (b : Bytes) (off len : Nat) : (slice b off len).length = len := by
  simp [slice]

theorem u32_lt (b : Bytes) (off : Nat) : u32 b off < 2 ^ 32 := by
  have h := leNat_lt (slice b off 4)
  rw [slice_length] at h
  exact h

/-! ### The deltas of a slot -/

theorem structOf_congr {s t : State} {k : Nat} (h : slotGet t k = slotGet s k) : structOf t k = structOf s k := by
  rw [structOf, structOf, h]

theorem deltaPairs_one {d : HostDesc} (h : d32 d 20 = 1) : deltaPairs d = [deltaPair d.buf 0] := by
  rw [deltaPairs, h]
  rfl

/-- The writing of one pair, which takes one opportunity (R130). -/
def onePair (d : HostDesc) (s : State) : DeltaRun := { desc := d, left := 1, mfn := s.sched.mfn }

theorem deltaBegin_valid {k : Nat} {d : HostDesc} {s : State} (hst : (slotGet s k).st = 2) (hone : d32 d 20 = 1)
    (hpair : pairBad (structOf s k) (deltaPair d.buf 0) = false) :
    deltaBegin k d s = slotPut s k { slotGet s k with writing := some (onePair d s) } := by
  unfold deltaBegin
  simp [ssREADY, hst, deltaPairs_one hone, firstIdx, hpair, deltaLines, onePair]

theorem deltaBegin_invalid {k : Nat} {d : HostDesc} {s : State} (hst : (slotGet s k).st = 2) (hone : d32 d 20 = 1)
    (hpair : pairBad (structOf s k) (deltaPair d.buf 0) = true) :
    deltaBegin k d s = complete d stRANGE 0 (count bSOLV 1 s) := by
  unfold deltaBegin
  simp only [ssREADY, hst, deltaPairs_one hone, firstIdx, hpair, ne_eq, not_true_eq_false, if_false, if_true]
  exact finish_listed (by decide) ..

/-- A slot after the last pair of a delta: every pair applied, DSV counted, and the data set of cycle 0 kept (R126). -/
def deltaApplied (s : State) (w : DeltaRun) (q : SSlot) : SSlot :=
  { q with
    writing := none, dsv := q.dsv + 1,
    data := (deltaPairs w.desc).foldl (fun t p => dPut t p.2.1 p.1 p.2.2) q.data,
    prior := if w.mfn = s.sched.mfn then
        match q.prior with
        | some p => if p.1 = s.sched.mfn then q.prior else some (s.sched.mfn, q.data, q.dsv)
        | none => some (s.sched.mfn, q.data, q.dsv)
      else q.prior }

theorem deltaApplied_onePair {d : HostDesc} (hone : d32 d 20 = 1) (s : State) (q : SSlot) :
    (deltaApplied s (onePair d s) q).data =
      dPut q.data (deltaPair d.buf 0).2.1 (deltaPair d.buf 0).1 (deltaPair d.buf 0).2.2 := by
  simp only [deltaApplied, onePair, deltaPairs_one hone]
  rfl

/-- A run that starts in the frame of the delta still reads the values of cycle 0 (R126). -/
theorem priorOf_deltaApplied {s t : State} {w : DeltaRun} (q : SSlot) (hw : w.mfn = s.sched.mfn) (ht : t.sched.mfn = s.sched.mfn) :
    priorOf t (deltaApplied s w q) = priorOf s q := by
  unfold priorOf deltaApplied
  simp only [hw, ht, if_true]
  rcases q.prior with _ | ⟨m, x, v⟩
  · simp
  · by_cases hm : m = s.sched.mfn <;> simp [hm]

theorem deltaPump_idle {k : Nat} {s : State} (hwriting : (slotGet s k).writing = none) (hdeltas : (slotGet s k).deltas = [])
    (n : Nat) : deltaPump n k s = s := by
  cases n with
  | zero => rfl
  | succ n => simp only [deltaPump, hwriting, hdeltas]

theorem deltaPump_begins {k : Nat} {s : State} {d : HostDesc} {l : List HostDesc} (hwriting : (slotGet s k).writing = none)
    (hdeltas : (slotGet s k).deltas = d :: l) (hheld : deltasHeld s k = false) (n : Nat) :
    deltaPump (n + 1) k s = deltaPump n k (deltaBegin k d (slotPut s k { slotGet s k with deltas := l })) := by
  simp only [deltaPump, hwriting, hdeltas, hheld, Bool.false_eq_true, if_false]

/-- Without an opportunity a delta in progress stays where it is. -/
theorem deltaPump_waits {k : Nat} {s : State} {w : DeltaRun} (hwriting : (slotGet s k).writing = some w) (hleft : 0 < w.left)
    (hopps : deltaOpps s = 0) (n : Nat) : deltaPump (n + 1) k s = slotPut s k (slotGet s k) := by
  have hmore : ¬ w.left ≤ deltaOpps s := by omega
  have hsame : { slotGet s k with writing := some w } = slotGet s k := by rw [← hwriting]
  simp only [deltaPump, hwriting, if_neg hmore]
  rw [hopps]
  exact congrArg (slotPut s k) hsame

/-- Where no run of the slot waits for a delta, none is initialised. -/
theorem runsInit_none {k : Nat} {s : State} (h : (s.solv.runs.any fun r => r.slot == k && r.wait) = false) : runsInit k s = s := by
  have hnone : s.solv.runs.filter (fun r => r.slot == k && r.wait) = [] := by
    rw [List.filter_eq_nil_iff]
    exact List.any_eq_false.mp h
  rw [runsInit, hnone]
  rfl

/-- The unit with DRAM opportunities of HIF taken. -/
def oppsTaken (n : Nat) (s : State) : State := { s with hif := { s.hif with opps := s.hif.opps + n } }

/-- Where HIF's opportunities reach the last pair, the delta is applied and completes; no other delta of the slot and no run
waits for it. -/
theorem deltaPump_ends {k : Nat} {s : State} {w : DeltaRun} (hwriting : (slotGet s k).writing = some w)
    (hdeltas : (slotGet s k).deltas = []) (hopps : w.left ≤ deltaOpps s)
    (hruns : (s.solv.runs.any fun r => r.slot == k && r.wait) = false) (n : Nat) : deltaPump (n + 1) k s =
      complete w.desc stOK ((slotGet s k).dsv + 1).toNat (slotPut (oppsTaken w.left s) k (deltaApplied s w (slotGet s k))) := by
  have hpump : deltaPump (n + 1) k s = deltaPump n k (runsInit k (deltaEnd k w (oppsTaken w.left s))) := by
    simp only [deltaPump, hwriting, hopps, if_true]
    rfl
  have hend : deltaEnd k w (oppsTaken w.left s) =
      complete w.desc stOK ((slotGet s k).dsv + 1).toNat (slotPut (oppsTaken w.left s) k (deltaApplied s w (slotGet s k))) := rfl
  rw [hpump, hend]
  generalize hu : slotPut (oppsTaken w.left s) k (deltaApplied s w (slotGet s k)) = u
  have hsolv := complete_solv w.desc stOK ((slotGet s k).dsv + 1).toNat u
  have hslot : slotGet (complete w.desc stOK ((slotGet s k).dsv + 1).toNat u) k = deltaApplied s w (slotGet s k) := by
    rw [slotGet_congr (congrArg SolvRegs.slots hsolv), ← hu, slotGet_slotPut]
  rw [runsInit_none, deltaPump_idle (congrArg SSlot.writing hslot) ((congrArg SSlot.deltas hslot).trans hdeltas)]
  rw [hsolv, ← hu]
  exact hruns

theorem deltasHeld_runs {k : Nat} {s : State} (h : deltasHeld s k = false) :
    (s.solv.runs.any fun r => r.slot == k && r.wait) = false :=
  (Bool.or_eq_false_iff.mp h).1

/-- Of the slot, what holds a delta back asks the marks of its initialisations alone. -/
theorem deltasHeld_slotPut {k : Nat} {s : State} {v : SSlot} (h : v.initd = (slotGet s k).initd) :
    deltasHeld (slotPut s k v) k = deltasHeld s k := by
  have hdue : startDue (slotPut s k v) k = startDue s k := by
    funext x
    simp only [startDue, slotGet_slotPut, h]
    rfl
  simp only [deltasHeld, hdue]
  rfl

/-! ### SOLV_DELTA (R127 to R131) -/

/-- The unit with other structure slots. -/
def withSlots (l : Tbl SSlot) (s : State) : State := { s with solv := { s.solv with slots := l } }

/-- The unit with a SOLV_DELTA in the queue of its slot. -/
def deltaQueued (d : HostDesc) (s : State) : State :=
  slotPut s (d8 d 16) { slotGet s (d8 d 16) with deltas := (slotGet s (d8 d 16)).deltas ++ [d] }

/-- A SOLV_DELTA of one pair on a READY slot. -/
structure OnePairDelta (d : HostDesc) (s : State) : Prop where
  slot : d8 d 16 ≤ 3
  one : d32 d 20 = 1
  aligned : d64 d 24 % 16 = 0
  ready : (slotGet s (d8 d 16)).st = 2

/-- No other delta is on its slot, and none is held back (R131). -/
structure AloneDelta (d : HostDesc) (s : State) : Prop extends OnePairDelta d s where
  unwritten : (slotGet s (d8 d 16)).writing = none
  unqueued : (slotGet s (d8 d 16)).deltas = []
  unheld : deltasHeld s (d8 d 16) = false

theorem solvDelta_notReady {d : HostDesc} {s : State} (hd : d ∈ (ringGet s d.ring).started) (hk : d8 d 16 ≤ 3)
    (hst : (slotGet s (d8 d 16)).st ≠ 2) : Refused d 1 stNOT_READY 0 s (effSolvDelta d s) := by
  have hready : (slotGet s (d8 d 16)).st ≠ ssREADY := hst
  have heff : effSolvDelta d s = complete d stNOT_READY 0 (count bSOLV 1 s) := by
    rw [effSolvDelta, if_neg (by omega), if_pos hready]
    exact finish_listed (by decide) ..
  rw [heff]
  exact complete_counted hd (by decide) 1 0

theorem effSolvDelta_queues {d : HostDesc} {s : State} (h : OnePairDelta d s) : effSolvDelta d s =
    deltaPump (2 * ((slotGet s (d8 d 16)).deltas ++ [d]).length + 3) (d8 d 16) (deltaQueued d s) := by
  obtain ⟨hk, hone, halign, hst⟩ := h
  have hready : ¬(slotGet s (d8 d 16)).st ≠ ssREADY := not_not.mpr hst
  have hrange : ¬(d32 d 20 = 0 ∨ 65536 < d32 d 20 ∨ d64 d 24 % 16 ≠ 0) := by omega
  rw [effSolvDelta, if_neg (by omega), if_neg hready, if_neg hrange, deltaGo, slotGet_slotPut]
  rfl

/-- Behind a delta that is being written, without an opportunity, a delta waits (R131). -/
theorem solvDelta_behind {d : HostDesc} {s : State} {w : DeltaRun} (h : OnePairDelta d s)
    (hwriting : (slotGet s (d8 d 16)).writing = some w) (hleft : 0 < w.left) (hopps : deltaOpps s = 0) :
    let t := effSolvDelta d s
    slotGet t (d8 d 16) = { slotGet s (d8 d 16) with deltas := (slotGet s (d8 d 16)).deltas ++ [d] } ∧
      (∀ j, j ≠ d8 d 16 → slotGet t j = slotGet s j) ∧ t.hif = s.hif := by
  intro t
  have hslot : slotGet (deltaQueued d s) (d8 d 16) =
      { slotGet s (d8 d 16) with deltas := (slotGet s (d8 d 16)).deltas ++ [d] } := slotGet_slotPut ..
  have hwriting' : (slotGet (deltaQueued d s) (d8 d 16)).writing = some w := by rw [hslot]; exact hwriting
  have hopps' : deltaOpps (deltaQueued d s) = 0 := hopps
  have heff : t = slotPut (deltaQueued d s) (d8 d 16) (slotGet (deltaQueued d s) (d8 d 16)) :=
    (effSolvDelta_queues h).trans (deltaPump_waits hwriting' hleft hopps' _)
  rw [heff]
  exact ⟨(slotGet_slotPut ..).trans hslot, fun j hj => (slotGet_slotPut_ne _ _ hj).trans (slotGet_slotPut_ne _ _ hj), rfl⟩

/-- A delta alone on its slot begins at once, in a unit whose slots read as they did. -/
theorem effSolvDelta_begins {d : HostDesc} {s : State} (h : AloneDelta d s) :
    ∃ l, (∀ j, slotGet (withSlots l s) j = slotGet s j) ∧
      effSolvDelta d s = deltaPump 4 (d8 d 16) (deltaBegin (d8 d 16) d (withSlots l s)) := by
  obtain ⟨hone, hwriting, hdeltas, hheld⟩ := h
  have hslot : slotGet (deltaQueued d s) (d8 d 16) = { slotGet s (d8 d 16) with deltas := [d] } := by
    rw [deltaQueued, slotGet_slotPut, hdeltas]
    rfl
  have hheld' : deltasHeld (deltaQueued d s) (d8 d 16) = false :=
    (deltasHeld_slotPut (v := { slotGet s (d8 d 16) with deltas := (slotGet s (d8 d 16)).deltas ++ [d] }) rfl).trans hheld
  have hback : { slotGet s (d8 d 16) with deltas := [] } = slotGet s (d8 d 16) := by rw [← hdeltas]
  have hbegins := deltaPump_begins (by rw [hslot]; exact hwriting) (congrArg SSlot.deltas hslot) hheld' 4
  rw [hslot] at hbegins
  refine ⟨(slotPut (deltaQueued d s) (d8 d 16) (slotGet s (d8 d 16))).solv.slots, fun j => ?_, ?_⟩
  · by_cases hj : j = d8 d 16
    · rw [hj]
      exact slotGet_slotPut ..
    · exact (slotGet_slotPut_ne _ _ hj).trans (slotGet_slotPut_ne _ _ hj)
  · rw [effSolvDelta_queues hone, hdeltas]
    exact hbegins.trans
      (congrArg (fun v => deltaPump 4 (d8 d 16) (deltaBegin (d8 d 16) d (slotPut (deltaQueued d s) (d8 d 16) v))) hback)

/-- An invalid pair refuses the delta with its index (R128). -/
theorem solvDelta_invalid {d : HostDesc} {s : State} (h : AloneDelta d s) (hd : d ∈ (ringGet s d.ring).started)
    (hpair : pairBad (structOf s (d8 d 16)) (deltaPair d.buf 0) = true) : let t := effSolvDelta d s
    Answered d stRANGE 0 t ∧ Counted bSOLV 1 s t ∧ (∀ j, slotGet t j = slotGet s j) ∧
      { t.solv with slots := s.solv.slots } = s.solv := by
  intro t
  obtain ⟨l, hl, heff⟩ := effSolvDelta_begins h
  have hbegin := deltaBegin_invalid ((congrArg SSlot.st (hl _)).trans h.ready) h.one
    ((congrArg (pairBad · _) (structOf_congr (hl _))).trans hpair)
  obtain ⟨hanswered, hcounted, hsolv⟩ := complete_counted (s := withSlots l s) hd (st := stRANGE) (by decide) 1 0
  have hslots : ∀ j, slotGet (complete d stRANGE 0 (count bSOLV 1 (withSlots l s))) j = slotGet s j :=
    fun j => (slotGet_congr (congrArg SolvRegs.slots hsolv) j).trans (hl j)
  rw [hbegin, deltaPump_idle ((congrArg SSlot.writing (hslots _)).trans h.unwritten)
    ((congrArg SSlot.deltas (hslots _)).trans h.unqueued)] at heff
  rw [show t = _ from heff]
  exact ⟨hanswered, hcounted, hslots, congrArg (fun v : SolvRegs => { v with slots := s.solv.slots }) hsolv⟩

/-- A valid pair is being written when the opportunities are asked for (R128, R130). -/
theorem effSolvDelta_writes {d : HostDesc} {s : State} (h : AloneDelta d s)
    (hpair : pairBad (structOf s (d8 d 16)) (deltaPair d.buf 0) = false) :
    ∃ l, slotGet (withSlots l s) (d8 d 16) = { slotGet s (d8 d 16) with writing := some (onePair d s) } ∧
      (∀ j, j ≠ d8 d 16 → slotGet (withSlots l s) j = slotGet s j) ∧
      effSolvDelta d s = deltaPump 4 (d8 d 16) (withSlots l s) := by
  obtain ⟨l, hl, heff⟩ := effSolvDelta_begins h
  have hbegin := deltaBegin_valid ((congrArg SSlot.st (hl _)).trans h.ready) h.one
    ((congrArg (pairBad · _) (structOf_congr (hl _))).trans hpair)
  rw [hbegin, hl] at heff
  refine ⟨tblPut l (d8 d 16) { slotGet s (d8 d 16) with writing := some (onePair d s) } {},
    slotGet_slotPut (withSlots l s) .., fun j hj => ?_, heff⟩
  exact (slotGet_slotPut_ne (withSlots l s) _ hj).trans (hl j)

/-- Without an opportunity the delta has begun and waits (R130). -/
theorem solvDelta_waits {d : HostDesc} {s : State} (h : AloneDelta d s)
    (hpair : pairBad (structOf s (d8 d 16)) (deltaPair d.buf 0) = false) (hopps : deltaOpps s = 0) : let t := effSolvDelta d s
    slotGet t (d8 d 16) = { slotGet s (d8 d 16) with writing := some (onePair d s) } ∧
      (∀ j, j ≠ d8 d 16 → slotGet t j = slotGet s j) ∧ t.hif = s.hif := by
  intro t
  obtain ⟨l, hown, hothers, heff⟩ := effSolvDelta_writes h hpair
  have hopps' : deltaOpps (withSlots l s) = 0 := hopps
  rw [deltaPump_waits (congrArg SSlot.writing hown) Nat.one_pos hopps'] at heff
  rw [show t = _ from heff]
  exact ⟨(slotGet_slotPut ..).trans hown, fun j hj => (slotGet_slotPut_ne _ _ hj).trans (hothers j hj), rfl⟩

/-- With an opportunity the delta is applied whole in this slot (R126, R128 to R130). -/
theorem solvDelta_applies {d : HostDesc} {s : State} (h : AloneDelta d s) (hd : d ∈ (ringGet s d.ring).started)
    (hpair : pairBad (structOf s (d8 d 16)) (deltaPair d.buf 0) = false) (hopps : 1 ≤ deltaOpps s) : let t := effSolvDelta d s
    slotGet t (d8 d 16) = deltaApplied s (onePair d s) (slotGet s (d8 d 16)) ∧
      (∀ j, j ≠ d8 d 16 → slotGet t j = slotGet s j) ∧
      Answered d stOK ((slotGet s (d8 d 16)).dsv + 1).toNat t ∧ t.solv.runs = s.solv.runs ∧ t.sched = s.sched := by
  intro t
  obtain ⟨l, hown, hothers, heff⟩ := effSolvDelta_writes h hpair
  have hopps' : 1 ≤ deltaOpps (withSlots l s) := hopps
  have hruns : ((withSlots l s).solv.runs.any fun r => r.slot == d8 d 16 && r.wait) = false :=
    (deltasHeld_runs h.unheld :)
  have hends := deltaPump_ends (congrArg SSlot.writing hown) ((congrArg SSlot.deltas hown).trans h.unqueued) hopps' hruns 3
  rw [hown] at hends
  have hsolv := complete_solv d stOK ((slotGet s (d8 d 16)).dsv + 1).toNat
    (slotPut (oppsTaken 1 (withSlots l s)) (d8 d 16) (deltaApplied s (onePair d s) (slotGet s (d8 d 16))))
  have heq : t = complete d stOK ((slotGet s (d8 d 16)).dsv + 1).toNat
    (slotPut (oppsTaken 1 (withSlots l s)) (d8 d 16) (deltaApplied s (onePair d s) (slotGet s (d8 d 16)))) := heff.trans hends
  have hslots := slotGet_congr (congrArg SolvRegs.slots hsolv)
  rw [heq]
  refine ⟨(hslots _).trans (slotGet_slotPut ..), fun j hj => ?_, answered_complete _ _ hd, (congrArg SolvRegs.runs hsolv :),
    complete_sched ..⟩
  exact (hslots j).trans ((slotGet_slotPut_ne _ _ hj).trans (hothers j hj))

end Sys2Proof.Proofs
end

section
/-! PROOFS. STRUCTURE_LOAD and the solver descriptors (R117, R119, R126 to R135, R141). -/

namespace Sys2Proof.Proofs

open Sys2Proof.Machine Sys2Proof.Laws

/-! ### STRUCTURE_LOAD (R117, R119) -/

/-- The cause with which the load of a slot ends: 0 where every check of Table 4-2 passes. -/
def loadCause (s : State) (k : Nat) : Nat :=
  loadErr { im := theImage s, k := k, others := otherStructs s k, typ := fun p => (workPt s p).typ } (slotGet s k).loading

/-- A slot after its load. -/
def loadedSlot (q : SSlot) (e : Nat) : SSlot :=
  { q with loading := [], reload := none, loadErr := BitVec.ofNat 8 e, st := if e = 0 then 2 else 3,
           desc := some (parseStruct q.loading), data := if e = 0 then initData q.loading (parseStruct q.loading) else [] }

/-- The unit after a load, before the completion of the SOLV_RELOAD that asked for it. -/
def loadEnded (s : State) (k e : Nat) : State :=
  if e = 0 then slotPut s k (loadedSlot (slotGet s k) e) else loadFailed k e (slotPut s k (loadedSlot (slotGet s k) e))

theorem gives_structureLoad_idle {k : Fin 4} {s : State} (h : (slotGet s k).st ≠ 1) :
    Gives (.structureLoad k) s (fun t => t = s) := by
  refine ⟨_, ?_, rfl⟩
  rw [exec, execStructureLoad]
  exact congrArg Host.Outcome.next (if_pos h)

theorem gives_structureLoad {k : Fin 4} {s : State} {P : State → Prop} (hst : (slotGet s k).st = 1)
    (hauto : (slotGet s k).reload = none → P (loadEnded s k (loadCause s k)))
    (hasked : ∀ d, (slotGet s k).reload = some d → P (if loadCause s k = 0 then complete d stOK 0 (loadEnded s k (loadCause s k))
      else complete d stRANGE (loadCause s k) (loadEnded s k (loadCause s k)))) : Gives (.structureLoad k) s P := by
  refine ⟨_, congrArg Host.Outcome.next (if_neg (not_not.mpr hst)), ?_⟩
  cases hr : (slotGet s k).reload with
  | none => exact hauto hr
  | some d => exact hasked d hr

/-- What a load makes of its slot, whoever asked for it (R117, R119). -/
theorem slotLoaded {s t : State} {k e : Nat} (hsolv : t.solv = (loadEnded s k e).solv) (hpimg : t.pimg = (loadEnded s k e).pimg) :
    let q := slotGet s k
    let w := slotGet t k
    (∀ j, j ≠ k → slotGet t j = slotGet s j) ∧ w.dsv = q.dsv ∧ w.rseq = q.rseq ∧ w.usable = q.usable ∧
      t.pimg = s.pimg ∧
      (e = 0 → w.st = 2 ∧ w.loadErr = 0 ∧ w.desc = some (parseStruct q.loading) ∧
        w.data = initData q.loading (parseStruct q.loading)) ∧
      (e ≠ 0 → w.st = 3 ∧ w.loadErr = BitVec.ofNat 8 e) := by
  intro q w
  have hslots : (loadEnded s k e).solv.slots = (slotPut s k (loadedSlot q e)).solv.slots := by
    unfold loadEnded loadFailed
    split_ifs <;> simp [q]
  have hkeeps : (loadEnded s k e).pimg = s.pimg := by
    unfold loadEnded loadFailed
    split_ifs <;> simp
  have hget := slotGet_congr ((congrArg SolvRegs.slots hsolv).trans hslots)
  have hw : w = loadedSlot q e := (hget k).trans (slotGet_slotPut ..)
  rw [hw]
  refine ⟨fun j hj => (hget j).trans (slotGet_slotPut_ne _ _ hj), rfl, rfl, rfl, hpimg.trans hkeeps, fun he => ?_, fun he => ?_⟩
  · subst he
    simp [loadedSlot]
  · exact ⟨if_neg he, rfl⟩

theorem loadEnded_passed_blk (s : State) (k : Nat) {e : Nat} (he : e = 0) : (loadEnded s k e).blk = s.blk := by
  rw [loadEnded, if_pos he]
  rfl

theorem loadEnded_hif (s : State) (k e : Nat) : (loadEnded s k e).hif = s.hif := by
  unfold loadEnded loadFailed
  split_ifs <;> simp

/-- A failed load is in Lantern and counted, also after the completion of the SOLV_RELOAD that asked for it (R117). -/
theorem loadEnded_failed {s t : State} {k e : Nat} (he : e ≠ 0) (hqueue : t.recs.queue = (loadEnded s k e).recs.queue)
    (hblk : t.blk = (loadEnded s k e).blk) : InLantern 0x0601 s t ∧
      (s.recs.lfrozen = false → s.recs.queue.length < 64 → Counted bSOLV 0 s t) := by
  rw [loadEnded, if_neg he] at hqueue hblk
  refine ⟨inLantern_lantern (u := slotPut s k (loadedSlot (slotGet s k) e)) rfl hqueue, fun hopen hlen => ?_⟩
  refine counted_of_blk (u := lantern 0x0601 2 _ (slotPut s k (loadedSlot (slotGet s k) e))) ?_ hblk
  have hopen' : (slotPut s k (loadedSlot (slotGet s k) e)).recs.lfrozen = false := hopen
  have hlen' : (slotPut s k (loadedSlot (slotGet s k) e)).recs.queue.length < 64 := hlen
  rw [lantern, hopen', if_neg Bool.false_ne_true, if_pos hlen']
  rfl

/-- The clause of O39 on a LOADING slot. -/
theorem structureLoad_ends (k : Fin 4) (s : State) (hst : (slotGet s k).st = 1)
    (hstarted : ∀ d, (slotGet s k).reload = some d → d ∈ (ringGet s d.ring).started) : let q := slotGet s k
    let e := loadCause s k
    Gives (.structureLoad k) s (fun t => let w := slotGet t k
      (∀ j, j ≠ k.val → slotGet t j = slotGet s j) ∧ w.dsv = q.dsv ∧ w.rseq = q.rseq ∧ w.usable = q.usable ∧
      t.pimg = s.pimg ∧
      (e = 0 → w.st = 2 ∧ w.loadErr = 0 ∧ w.desc = some (parseStruct q.loading) ∧
        w.data = initData q.loading (parseStruct q.loading) ∧
        (q.reload = none → t.blk = s.blk) ∧ ∀ d, q.reload = some d → Answered d stOK 0 t) ∧
      (e ≠ 0 → w.st = 3 ∧ w.loadErr = BitVec.ofNat 8 e ∧ InLantern 0x0601 s t ∧
        (s.recs.lfrozen = false → s.recs.queue.length < 64 → Counted bSOLV 0 s t) ∧
        ∀ d, q.reload = some d → Answered d stRANGE e t)) := by
  intro q e
  refine gives_structureLoad hst (fun hr => ?_) fun d hr => ?_
  · obtain ⟨hothers, hdsv, hrseq, husable, hpimg, hpassed, hfailed⟩ := slotLoaded (s := s) (k := k) (e := e) rfl rfl
    have hnone : ∀ (d : HostDesc) {p : Prop}, q.reload = some d → p := fun d p hd =>
      absurd (hr.symm.trans hd) (Option.some_ne_none d).symm
    refine ⟨hothers, hdsv, hrseq, husable, hpimg, fun he => ?_, fun he => ?_⟩
    · obtain ⟨hready, herr, hdesc, hdata⟩ := hpassed he
      exact ⟨hready, herr, hdesc, hdata, fun _ => loadEnded_passed_blk s k he, fun d => hnone d⟩
    · obtain ⟨hst, herr⟩ := hfailed he
      obtain ⟨hlantern, hcounted⟩ := loadEnded_failed (s := s) (k := k) he rfl rfl
      exact ⟨hst, herr, hlantern, hcounted, fun d => hnone d⟩
  · have hd : d ∈ (ringGet (loadEnded s k e) d.ring).started := by
      rw [ringGet, loadEnded_hif]
      exact hstarted d hr
    have hasker : ∀ {p : HostDesc → Prop}, p d → ∀ x, q.reload = some x → p x := fun hp x hx =>
      Option.some.inj (hr.symm.trans hx) ▸ hp
    by_cases he : e = 0
    · rw [if_pos he]
      obtain ⟨hothers, hdsv, hrseq, husable, hpimg, hpassed, -⟩ :=
        slotLoaded (s := s) (k := k) (e := e) (complete_solv d stOK 0 _) (complete_pimg d stOK 0 _)
      obtain ⟨hready, herr, hdesc, hdata⟩ := hpassed he
      refine ⟨hothers, hdsv, hrseq, husable, hpimg, fun _ => ⟨hready, herr, hdesc, hdata, fun hn => ?_,
        hasker (answered_complete stOK 0 hd)⟩, fun hne => absurd he hne⟩
      exact absurd (hn.symm.trans hr) (Option.some_ne_none d).symm
    · rw [if_neg he]
      obtain ⟨hothers, hdsv, hrseq, husable, hpimg, -, hfailed⟩ :=
        slotLoaded (s := s) (k := k) (e := e) (complete_solv d stRANGE e _) (complete_pimg d stRANGE e _)
      obtain ⟨hst, herr⟩ := hfailed he
      obtain ⟨hlantern, hcounted⟩ := loadEnded_failed (s := s) (k := k) he (complete_queue d stRANGE e _)
        (congrArg State.blk (complete_refused_frame (d := d) (st := stRANGE) (data := e) (by decide) _) :)
      exact ⟨hothers, hdsv, hrseq, husable, hpimg, fun hz => absurd hz he, fun _ => ⟨hst, herr, hlantern, hcounted,
        hasker (answered_complete stRANGE e hd)⟩⟩

/-! ### SOLV_RUN (R133) -/

section Run

variable {d : HostDesc} {x : LTask} {s : State} (hx : solvTask s (d16 d 20) = some x)
include hx

theorem effSolvRun_waits (hslot : x.sslot = d8 d 16) (hk : d8 d 16 ≤ 3) (hbudget : d64 d 24 ≠ 0) (hrun : runOf s x.task = none)
    (hst : (slotGet s (d8 d 16)).st = 2) :
    effSolvRun d s = { s with solv := { s.solv with hostRuns := s.solv.hostRuns ++ [d] } } := by
  have hok : ¬(3 < d8 d 16 ∨ x.sslot ≠ d8 d 16 ∨ d64 d 24 = 0) := by omega
  have hready : ¬(slotGet s (d8 d 16)).st ≠ ssREADY := not_not.mpr hst
  simp only [effSolvRun, hx, if_neg hok, hrun, if_neg hready, Option.isSome_none, Bool.false_eq_true, if_false]

theorem solvRun_busy (hd : d ∈ (ringGet s d.ring).started) (hslot : x.sslot = d8 d 16) (hk : d8 d 16 ≤ 3)
    (hbudget : d64 d 24 ≠ 0) (hrun : runOf s x.task ≠ none) : Refused d 5 stBUSY 0 s (effSolvRun d s) := by
  have hok : ¬(3 < d8 d 16 ∨ x.sslot ≠ d8 d 16 ∨ d64 d 24 = 0) := by omega
  simp only [effSolvRun, hx, if_neg hok, Option.isSome_iff_ne_none.mpr hrun, if_true]
  exact complete_counted hd (by decide) 5 0

theorem solvRun_range (hd : d ∈ (ringGet s d.ring).started) (h : x.sslot ≠ d8 d 16 ∨ d64 d 24 = 0) :
    Refused d 6 stRANGE 0 s (effSolvRun d s) := by
  simp only [effSolvRun, hx, if_pos (Or.inr h : 3 < d8 d 16 ∨ _)]
  exact finSolv_refused hd (by decide) 0

end Run

/-! ### SOLV_CUT (R135) -/

/-- A run without what its start makes of it, and without its wait for a delta. -/
def besideStart (r : SRun) : SRun := { atCapture r with wait := false }

theorem besideStart_of_atCapture {r x : SRun} (h : atCapture x = atCapture r) : besideStart x = besideStart r :=
  congrArg (fun y : SRun => { y with wait := false }) h

theorem cutRun_besideStart (s : State) (st en : Byte) (r : SRun) : besideStart (cutRun s st en r) = besideStart r := by
  unfold cutRun
  extract_lets r1
  split_ifs <;> rfl

/-- Beside its start a cut changes the budget of a run alone. -/
theorem hostCut_besideStart (s : State) (b : Nat) (r : SRun) :
    besideStart (hostCut s b r) = besideStart { r with budget := b, hostCut := true } := by
  unfold hostCut
  extract_lets r1 p st
  split
  · exact congrArg (fun x : SRun => { x with budget := b, hostCut := true }) (cutRun_besideStart s 1 3 r)
  · split
    · rfl
    · split
      · exact besideStart_of_atCapture (startPoint_atCapture ..)
      · exact besideStart_of_atCapture (endTests_atCapture ..)

/-- A run whose new deadline has passed ends at once. -/
theorem hostCut_ends {s : State} {b : Nat} {r : SRun} (hprog : inProgress s r = true) (hb : b ≤ elapsedNow s r) :
    (hostCut s b r).ended = some (1, 3) := by
  have hcut : (cutRun s 1 3 r).ended = some (1, 3) := by
    simp only [cutRun, hprog, Bool.not_true, Bool.false_eq_true, if_false]
    split_ifs <;> rfl
  simp only [hostCut, if_pos hb]
  exact hcut

/-- After its start a run whose new deadline lies ahead goes on under the new budget. -/
theorem hostCut_goes_on {s : State} {b : Nat} {r : SRun} (hb : elapsedNow s r < b) (hstart : inStart s r = false) :
    hostCut s b r = { r with budget := b, hostCut := true } := by
  simp only [hostCut, if_neg (Nat.not_le.mpr hb), hstart, Bool.not_false, Bool.true_or, if_true]

theorem solvCut_noRun {d : HostDesc} {s : State} (hd : d ∈ (ringGet s d.ring).started) (hrun : runOf s (d16 d 20) = none) :
    Refused d 6 stNOT_READY 0 s (effSolvCut d s) := by
  simp only [effSolvCut, hrun]
  exact finSolv_refused hd (by decide) 0

section Cut

variable {d : HostDesc} {r : SRun} {s : State} (hd : d ∈ (ringGet s d.ring).started) (hrun : runOf s (d16 d 20) = some r)
include hd hrun

theorem solvCut_over (hprog : inProgress s r = false) : Refused d 6 stNOT_READY 0 s (effSolvCut d s) := by
  simp only [effSolvCut, hrun, hprog, Bool.not_false, if_true]
  exact finSolv_refused hd (by decide) 0

theorem solvCut_longer (hprog : inProgress s r = true) (hb : r.budget ≤ d64 d 24) : Refused d 6 stRANGE 0 s (effSolvCut d s) := by
  simp only [effSolvCut, hrun, hprog, Bool.not_true, Bool.false_eq_true, if_false, if_pos hb]
  exact finSolv_refused hd (by decide) 0

/-- A cut that shortens the budget of a run in progress completes OK; the slots stay, and the run is the one cut. -/
theorem solvCut_shorter (hprog : inProgress s r = true) (hb : d64 d 24 < r.budget) : let t := effSolvCut d s
    Answered d stOK 0 t ∧ (∀ j, slotGet t j = slotGet s j) ∧ runOf t (d16 d 20) = some (hostCut s (d64 d 24) r) := by
  intro t
  have ht : t = complete d stOK 0 (setRun (hostCut s (d64 d 24) r) s) := by
    simp only [t, effSolvCut, hrun, hprog, Bool.not_true, Bool.false_eq_true, if_false, if_neg (Nat.not_le.mpr hb)]
    rfl
  have hsolv : t.solv = (setRun (hostCut s (d64 d 24) r) s).solv := ht ▸ complete_solv ..
  have htask : (hostCut s (d64 d 24) r).task.toNat = d16 d 20 := by
    rw [show (hostCut s (d64 d 24) r).task = r.task from (congrArg SRun.task (hostCut_besideStart s (d64 d 24) r) :)]
    simpa using List.find?_some hrun
  refine ⟨ht ▸ answered_complete (s := setRun _ s) stOK 0 hd, fun j => slotGet_congr (congrArg SolvRegs.slots hsolv :) j, ?_⟩
  rw [runOf, hsolv, ← htask]
  exact runOf_setRun _ s

end Cut

/-! ### SOLV_READ (R141) -/

/-- The place in the DRAM of what a SOLV_READ names of a result buffer, and its length: the record of 128 bytes, or COUNT
entries of the vector from FIRST. -/
def readPlace (st : SStruct) (n : Nat) (d : HostDesc) : Nat := rbAddr st n + if d8 d 17 = 0 then 0 else 128 + 8 * d32 d 24
def readLength (d : HostDesc) : Nat := if d8 d 17 = 0 then 128 else 8 * d32 d 28

/-- A buffer holds the result with this RSEQ. -/
def holdsResult (q : SSlot) (rseq n : Nat) : Bool := (tblGet q.rb n {}).valid && (tblGet q.rb n {}).rseq.toNat == rseq

theorem holdsResult_iff {q : SSlot} {rseq n : Nat} :
    holdsResult q rseq n = true ↔ (tblGet q.rb n {}).valid = true ∧ (tblGet q.rb n {}).rseq.toNat = rseq := by
  rw [holdsResult, Bool.and_eq_true, beq_iff_eq]

theorem find?_buffer {p : Nat → Bool} {n : Nat} (hn : n ≤ 2) (hp : p n = true)
    (hothers : ∀ j, j ≤ 2 → j ≠ n → p j = false) : [0, 1, 2].find? p = some n := by
  interval_cases n
  · simp [hp]
  · simp [hp, hothers 0]
  · simp [hp, hothers 0, hothers 1]

/-- In an open host slot a copy that no result write has overtaken delivers from the buffer that holds the result. -/
theorem solvReadEnd_delivers {c : CopyRun} {s : State} {n : Nat} (hd : c.desc ∈ (ringGet s c.desc.ring).started)
    (hc : c.spoiled = false) (hopen : slotOpen s = true)
    (hfind : [0, 1, 2].find? (holdsResult (slotGet s (d8 c.desc 16)) (d32 c.desc 20)) = some n) : let t := solvReadEnd c s
    t.solv = s.solv ∧ Answered c.desc stOK (readLength c.desc) t ∧
      .hostWrite (dAddr c.desc) (dramRead s (readPlace (structOf s (d8 c.desc 16)) n c.desc) (readLength c.desc)) ∈ t.out := by
  intro t
  have hfind' : [0, 1, 2].find? (fun b => (tblGet (slotGet s (d8 c.desc 16)).rb b {}).valid &&
    (tblGet (slotGet s (d8 c.desc 16)).rb b {}).rseq.toNat == d32 c.desc 20) = some n := hfind
  have ht : t = complete c.desc stOK (readLength c.desc) (emit (.hostWrite (dAddr c.desc)
      (dramRead s (readPlace (structOf s (d8 c.desc 16)) n c.desc) (readLength c.desc))) s) := by
    simp only [t, solvReadEnd, hfind', hc, Bool.false_eq_true, if_false, finSolv_ok, toHost, hopen, if_true, readLength, readPlace]
    split_ifs
    · rfl
    · rw [Nat.add_assoc]
  rw [ht, complete_solv, complete_out]
  exact ⟨rfl, answered_complete (s := emit _ s) _ _ hd, List.mem_cons_self⟩

/-- A copy runs to its end in an open host slot, or goes on in a later one (R380; log entry 34). -/
theorem copyTry_cases (fin : CopyRun → State → State) (one : Bool) (d : HostDesc) (s : State) :
    (slotOpen s = true ∧ ∃ m, copyTry fin one { desc := d } s = fin { desc := d, begun := true } { s with free := m }) ∨
    (¬(slotOpen s = true ∧ one = true) ∧ ∃ m, copyTry fin one { desc := d } s =
      { s with free := m, hif := { s.hif with copies := s.hif.copies ++ [{ desc := d, begun := slotOpen s }] } }) := by
  unfold copyTry
  by_cases hopen : slotOpen s = true
  · simp only [hopen, Bool.not_true, Bool.false_eq_true, if_false]
    by_cases hone : one = true
    · exact .inl ⟨trivial, s.free, if_pos hone⟩
    · simp only [if_neg hone]
      by_cases hfree : (freeWord s).1.getLsbD 0 = true
      · exact .inl ⟨trivial, s.free + 1, if_pos hfree⟩
      · exact .inr ⟨fun h => hone h.2, s.free + 1, if_neg hfree⟩
  · have hclosed : slotOpen s = false := Bool.eq_false_iff.mpr hopen
    simp only [hclosed]
    exact .inr ⟨fun h => Bool.false_ne_true h.1, s.free, rfl⟩

/-- What a SOLV_READ names lies inside: a result that has been written, a record or a vector, and entries of the vector. -/
def ReadInside (d : HostDesc) (s : State) : Prop := d32 d 20 ≤ (slotGet s (d8 d 16)).rseq.toNat ∧ d8 d 17 ≤ 1 ∧
  d32 d 24 + d32 d 28 ≤ vlen (structOf s (d8 d 16))

section Read

variable {d : HostDesc} {s : State} (hd : d ∈ (ringGet s d.ring).started) (hk : d8 d 16 ≤ 3) (hst : (slotGet s (d8 d 16)).st ≠ 1)
include hk hst

theorem effSolvRead_inside (hinside : ReadInside d s) : effSolvRead d s =
    if [0, 1, 2].any (holdsResult (slotGet s (d8 d 16)) (d32 d 20)) then
      copyTry solvReadEnd (d8 d 17 == 1 && decide (d32 d 28 ≤ 1)) { desc := d } s
    else complete d stDROPPED 0 (count bSOLV 4 s) := by
  obtain ⟨hrseq, hwhat, hlen⟩ := hinside
  have hlen' : d32 d 24 + d32 d 28 ≤ vlen ((slotGet s (d8 d 16)).desc.getD {}) := hlen
  rw [effSolvRead, if_neg (by omega), if_neg hst, if_neg (by omega), List.any_map]
  rfl

include hd

theorem solvRead_range (h : ¬ReadInside d s) : Refused d 6 stRANGE 0 s (effSolvRead d s) := by
  have hout : (slotGet s (d8 d 16)).rseq.toNat < d32 d 20 ∨ 1 < d8 d 17 ∨
      vlen ((slotGet s (d8 d 16)).desc.getD {}) < d32 d 24 + d32 d 28 := by
    unfold ReadInside structOf at h
    omega
  rw [effSolvRead, if_neg (by omega), if_neg hst, if_pos hout]
  exact finSolv_refused hd (by decide) 0

theorem solvRead_dropped (hinside : ReadInside d s)
    (hnone : ∀ n, n ≤ 2 → holdsResult (slotGet s (d8 d 16)) (d32 d 20) n = false) :
    Refused d 4 stDROPPED 0 s (effSolvRead d s) := by
  have hany : [0, 1, 2].any (holdsResult (slotGet s (d8 d 16)) (d32 d 20)) = false := by simp [hnone]
  rw [effSolvRead_inside hk hst hinside, hany, if_neg Bool.false_ne_true]
  exact complete_counted hd (by decide) 4 0

/-- From the one buffer that holds the result the bytes go to the host, or the copy goes on in a later host slot. -/
theorem solvRead_copies (hinside : ReadInside d s) {n : Nat} (hn : n ≤ 2)
    (hholds : holdsResult (slotGet s (d8 d 16)) (d32 d 20) n = true)
    (hothers : ∀ j, j ≤ 2 → j ≠ n → holdsResult (slotGet s (d8 d 16)) (d32 d 20) j = false) : let t := effSolvRead d s
    t.solv = s.solv ∧
      ((slotOpen s = true ∧ Answered d stOK (readLength d) t ∧
        Delivered (dAddr d) (dramRead s (readPlace (structOf s (d8 d 16)) n d) (readLength d)) s t) ∨
      (¬(slotOpen s = true ∧ d8 d 17 = 1 ∧ d32 d 28 ≤ 1) ∧ t.hif.waiting = s.hif.waiting ∧
        t.hif.copies = s.hif.copies ++ [{ desc := d, begun := slotOpen s }])) := by
  intro t
  have hfind := find?_buffer hn hholds hothers
  have hany : [0, 1, 2].any (holdsResult (slotGet s (d8 d 16)) (d32 d 20)) = true :=
    List.any_eq_true.mpr ⟨n, List.mem_of_find?_eq_some hfind, hholds⟩
  have ht : t = copyTry solvReadEnd (d8 d 17 == 1 && decide (d32 d 28 ≤ 1)) { desc := d } s := by
    simp only [t, effSolvRead_inside hk hst hinside, hany, if_true]
  rcases copyTry_cases solvReadEnd (d8 d 17 == 1 && decide (d32 d 28 ≤ 1)) d s with ⟨hopen, m, hcopy⟩ | ⟨hlater, m, hcopy⟩
  · obtain ⟨hsolv, hanswered, hout⟩ :=
      solvReadEnd_delivers (c := { desc := d, begun := true }) (s := { s with free := m }) hd rfl hopen hfind
    rw [← hcopy, ← ht] at hsolv hanswered hout
    exact ⟨hsolv, .inl ⟨hopen, hanswered, fun _ => hout, fun hclosed => absurd (hopen.symm.trans hclosed) (by decide)⟩⟩
  · rw [ht, hcopy]
    refine ⟨rfl, .inr ⟨fun ⟨hopen, hvec, hcnt⟩ => hlater ⟨hopen, ?_⟩, rfl, rfl⟩⟩
    simp [hvec, hcnt]

end Read

/-! ### SOLV_RELOAD (R119) -/

theorem dropDeltas_none {k : Nat} {s : State} (hwriting : (slotGet s k).writing = none) (hdeltas : (slotGet s k).deltas = []) :
    dropDeltas k s = slotPut s k (slotGet s k) := by
  have hsame : { slotGet s k with writing := none, deltas := [] } = slotGet s k := by rw [← hwriting, ← hdeltas]
  rw [dropDeltas, hwriting, hdeltas]
  exact congrArg (slotPut s k) hsame

/-- The unit with the runs of a slot ABORTED, since its structure is loaded again. -/
def runsAborted (k : Nat) (s : State) : State :=
  { s with solv := { s.solv with runs := s.solv.runs.map fun r => if r.slot = k then cutRun s 4 7 r else r } }

theorem runsAborted_ended (k : Nat) (s : State) : ∀ r ∈ (runsAborted k s).solv.runs, r.slot = k → r.ended.isSome = true := by
  intro r hr hslot
  obtain ⟨x, -, rfl⟩ := List.mem_map.mp hr
  by_cases hx : x.slot = k
  · rw [if_pos hx]
    exact (cutRun_ended s 4 7 x).1
  · rw [if_neg hx] at hslot
    exact absurd hslot hx

section Reload

variable {d : HostDesc} {s : State} (hk : d8 d 16 ≤ 3)
include hk

/-- A slot that is not EMPTY and not LOADING is loaded again, its runs end and its result numbers go on (R119). -/
theorem solvReload_begins {b : Bytes} (hst : (slotGet s (d8 d 16)).st = 2 ∨ (slotGet s (d8 d 16)).st = 3)
    (hsect : sectAt (theImage s) 0x20 (d8 d 16) = some b) (hdeltas : (slotGet s (d8 d 16)).deltas = [])
    (hwriting : (slotGet s (d8 d 16)).writing = none) : let q := slotGet s (d8 d 16)
    let t := effSolvReload d s
    let w := slotGet t (d8 d 16)
    w.st = 1 ∧ w.loading = b ∧ w.reload = some d ∧ w.usable = false ∧ w.dsv = q.dsv ∧ w.rseq = q.rseq ∧
      (∀ r ∈ t.solv.runs, r.slot = d8 d 16 → r.ended.isSome = true) ∧ t.hif = s.hif ∧
      ∀ j, j ≠ d8 d 16 → slotGet t j = slotGet s j := by
  intro q t w
  have hnonempty : (slotGet s (d8 d 16)).st ≠ 0 := by rcases hst with h | h <;> rw [h] <;> decide
  have hidle : (slotGet s (d8 d 16)).st ≠ 1 := by rcases hst with h | h <;> rw [h] <;> decide
  have hload := slotGet_slotPut (runsAborted (d8 d 16) s) (d8 d 16)
    { q with st := 1, loading := b, desc := some (parseStruct b), reload := some d, usable := false, data := [], prior := none }
  generalize hu : slotPut (runsAborted (d8 d 16) s) (d8 d 16) _ = u at hload
  have ht : t = slotPut u (d8 d 16) (slotGet u (d8 d 16)) := by
    simp only [t, effSolvReload, if_neg (Nat.not_lt.mpr hk), if_neg hnonempty, if_neg hidle, hsect]
    rw [← dropDeltas_none ((congrArg SSlot.writing hload).trans hwriting) ((congrArg SSlot.deltas hload).trans hdeltas), ← hu]
    rfl
  have hw : w = _ := (congrArg (slotGet · (d8 d 16)) ht).trans ((slotGet_slotPut ..).trans hload)
  rw [hw, ht, ← hu]
  exact ⟨rfl, rfl, rfl, rfl, rfl, rfl, runsAborted_ended (d8 d 16) s, rfl,
    fun j hj => (slotGet_slotPut_ne _ _ hj).trans (slotGet_slotPut_ne _ _ hj)⟩

variable (hd : d ∈ (ringGet s d.ring).started)
include hd

theorem solvReload_empty (hst : (slotGet s (d8 d 16)).st = 0) : Refused d 6 stNOT_READY 0 s (effSolvReload d s) := by
  simp only [effSolvReload, if_neg (Nat.not_lt.mpr hk), if_pos hst]
  exact finSolv_refused hd (by decide) 0

theorem solvReload_loading (hst : (slotGet s (d8 d 16)).st = 1) : Refused d 6 stBUSY 0 s (effSolvReload d s) := by
  have hnonempty : (slotGet s (d8 d 16)).st ≠ 0 := by rw [hst]; decide
  simp only [effSolvReload, if_neg (Nat.not_lt.mpr hk), if_neg hnonempty, if_pos hst]
  exact finSolv_refused hd (by decide) 0

end Reload

/-! ### The clauses of O39 -/

theorem deltaWaits_of_reaches {op : Nat} {d : HostDesc} {s : State} (hreach : Reaches op d s) : deltaWaits s d = false := by
  obtain ⟨-, -, -, -, -, -, -, -, -, hwaits, -⟩ := hreach
  exact hwaits

/-- A SOLV_DELTA that starts is not held back on its slot (R131). -/
theorem deltasHeld_of_reaches {d : HostDesc} {s : State} (hreach : Reaches 0x20 d s) (hk : d8 d 16 ≤ 3) :
    deltasHeld s (d8 d 16) = false := by
  have hop : dOp d = 0x20 := hreach.1
  simpa [deltaWaits, hop, hk] using deltaWaits_of_reaches hreach

section Gives

variable {d : HostDesc} {s : State} {P : State → Prop}

theorem gives_solvDelta (hreach : Reaches 0x20 d s)
    (h : ∀ g c, d ∈ (ringGet (withStarted g c s) d.ring).started → P (effSolvDelta d (withStarted g c s))) :
    Gives (.solvDelta d) s P :=
  ⟨_, congrArg Host.Outcome.next (if_neg (Bool.eq_false_iff.mp (deltaWaits_of_reaches hreach))), arrive_starts hreach h⟩

theorem gives_solvRun (hreach : Reaches 0x21 d s)
    (h : ∀ g c, d ∈ (ringGet (withStarted g c s) d.ring).started → P (effSolvRun d (withStarted g c s))) :
    Gives (.solvRun d) s P :=
  ⟨_, rfl, arrive_starts hreach h⟩

theorem gives_solvCut (hreach : Reaches 0x22 d s)
    (h : ∀ g c, d ∈ (ringGet (withStarted g c s) d.ring).started → P (effSolvCut d (withStarted g c s))) :
    Gives (.solvCut d) s P :=
  ⟨_, rfl, arrive_starts hreach h⟩

theorem gives_solvRead (hreach : Reaches 0x23 d s)
    (h : ∀ g c, d ∈ (ringGet (withStarted g c s) d.ring).started → P (effSolvRead d (withStarted g c s))) :
    Gives (.solvRead d) s P :=
  ⟨_, rfl, arrive_starts hreach h⟩

theorem gives_solvReload (hreach : Reaches 0x24 d s)
    (h : ∀ g c, d ∈ (ringGet (withStarted g c s) d.ring).started → P (effSolvReload d (withStarted g c s))) :
    Gives (.solvReload d) s P :=
  ⟨_, rfl, arrive_starts hreach h⟩

end Gives

/-- Settles O39: a load ends by its checks, and each solver descriptor changes what its fields name or is refused by its
first failed check. -/
theorem structuresAndSolverDescriptors : Obligations.StructuresAndSolverDescriptors := by
  refine ⟨fun k s => gives_structureLoad_idle, structureLoad_ends, fun d s => ⟨?_, ?_, ?_, ?_, ?_⟩⟩
  · intro hreach hk hone halign p
    have hheld := deltasHeld_of_reaches hreach hk
    refine ⟨fun hst hw hq hp ho => gives_solvDelta hreach fun g c hd => ?_,
      fun hst hw hq hp ho => gives_solvDelta hreach fun g c hd => ?_,
      fun w hst hw hleft ho => gives_solvDelta hreach fun g c hd => ?_,
      fun hst hw hq hp => gives_solvDelta hreach fun g c hd => ?_, fun hst => gives_solvDelta hreach fun g c hd => ?_⟩
    · obtain ⟨hown, hothers, hhif⟩ :=
        solvDelta_waits (s := withStarted g c s) ⟨⟨hk, hone, halign, hst⟩, hw, hq, hheld⟩ hp ho
      exact ⟨hown, hothers, (congrArg HifRegs.waiting hhif :)⟩
    · obtain ⟨hown, hothers, hanswered, hruns, hsched⟩ :=
        solvDelta_applies (s := withStarted g c s) ⟨⟨hk, hone, halign, hst⟩, hw, hq, hheld⟩ hd hp ho
      have hdata := (congrArg SSlot.data hown).trans (deltaApplied_onePair hone _ _)
      refine ⟨congrArg SSlot.writing hown, (congrArg SSlot.deltas hown).trans hq, ?_, hanswered, congrArg SSlot.dsv hown, ?_,
        fun a i hi hne => ?_, hothers, hruns⟩
      · rw [hown]
        exact priorOf_deltaApplied (s := withStarted g c s) _ rfl (congrArg SchedRegs.mfn hsched)
      · rw [hdata]
        exact dGet_dPut_same ..
      · rw [hdata]
        exact dGet_dPut_ne _ _ (u32_lt ..) hi hne
    · obtain ⟨hown, hothers, hhif⟩ := solvDelta_behind (s := withStarted g c s) ⟨hk, hone, halign, hst⟩ hw hleft ho
      exact ⟨hown, hothers, (congrArg HifRegs.waiting hhif :)⟩
    · exact solvDelta_invalid ⟨⟨hk, hone, halign, hst⟩, hw, hq, hheld⟩ hd hp
    · exact solvDelta_notReady hd hk hst
  · intro hreach x hx
    refine ⟨fun hslot hk hb hrun hst => gives_solvRun hreach fun g c hd => ?_,
      fun hslot hk hb hrun => gives_solvRun hreach fun g c hd => ?_, fun hbad => gives_solvRun hreach fun g c hd => ?_⟩
    · rw [effSolvRun_waits (s := withStarted g c s) hx hslot hk hb hrun hst]
      exact ⟨rfl, rfl⟩
    · exact solvRun_busy hx hd hslot hk hb hrun
    · exact solvRun_range hx hd hbad
  · intro hreach
    refine ⟨fun r hrun => ⟨fun hprog hb => gives_solvCut hreach fun g c hd => ?_,
      fun hprog hb => gives_solvCut hreach fun g c hd => ?_, fun hprog => gives_solvCut hreach fun g c hd => ?_⟩,
      fun hrun => gives_solvCut hreach fun g c hd => ?_⟩
    · obtain ⟨hanswered, hslots, hcut⟩ := solvCut_shorter hd hrun hprog hb
      have hframe := hostCut_besideStart (withStarted g c s) (d64 d 24) r
      exact ⟨hanswered, hslots, _, hcut, (congrArg SRun.budget hframe :), (congrArg SRun.hostCut hframe :),
        (congrArg SRun.slot hframe :), (congrArg SRun.iter hframe :), hostCut_ends hprog, hostCut_goes_on⟩
    · exact solvCut_longer hd hrun hprog hb
    · exact solvCut_over hd hrun hprog
    · exact solvCut_noRun hd hrun
  · intro hreach hk hst inside
    refine ⟨fun x n hn hx hvalid hrseq hothers hinside => gives_solvRead hreach fun g c hd => ?_,
      fun hout => gives_solvRead hreach fun g c hd => ?_,
      fun hinside hnone => gives_solvRead hreach fun g c hd => ?_⟩
    · subst hx
      exact solvRead_copies (s := withStarted g c s) hd hk hst hinside hn (holdsResult_iff.mpr ⟨hvalid, hrseq⟩) fun j hj hne =>
        Bool.eq_false_iff.mpr fun h => hothers j hj hne (BitVec.eq_of_toNat_eq ((holdsResult_iff.mp h).2.trans hrseq.symm))
    · exact solvRead_range hd hk hst hout
    · refine solvRead_dropped (s := withStarted g c s) hd hk hst hinside fun n hn => Bool.eq_false_iff.mpr fun h => ?_
      obtain ⟨hvalid, hrseq⟩ := holdsResult_iff.mp h
      exact (hnone n hn).elim (fun hf => Bool.false_ne_true (hf.symm.trans hvalid)) fun hne => hne hrseq
  · intro hreach hk
    refine ⟨fun b hst hsect hdeltas hwriting => gives_solvReload hreach fun g c hd => ?_,
      fun hst => gives_solvReload hreach fun g c hd => ?_, fun hst => gives_solvReload hreach fun g c hd => ?_⟩
    · obtain ⟨hloading, hbytes, hasked, husable, hdsv, hrseq, hended, hhif, hothers⟩ :=
        solvReload_begins (s := withStarted g c s) hk hst hsect hdeltas hwriting
      exact ⟨hloading, hbytes, hasked, husable, hdsv, hrseq, hended, (congrArg HifRegs.waiting hhif :), hothers⟩
    · exact solvReload_loading hk hd hst
    · exact solvReload_empty hk hd hst

end Sys2Proof.Proofs
end

section
/-! PROOFS. LONG slots of PARC: what a step captures (R147, R148), and the pairs of PARC_SET that it applies (R164). -/

namespace Sys2Proof.Proofs

open Sys2Proof.Machine Sys2Proof.Laws

/-! ### Entries of mapped, zipped and numbered lists -/

theorem getD_map_of_lt {α β : Type} (f : α → β) {l : List α} {j : Nat} (hj : j < l.length) (a : α) (b : β) :
    (l.map f).getD j b = f (l.getD j a) := by
  simp [hj]

theorem getD_zip_of_lt {α β : Type} {l : List α} {m : List β} {j : Nat} (hl : j < l.length) (hm : j < m.length) (a : α) (b : β)
    (p : α × β) : (l.zip m).getD j p = (l.getD j a, m.getD j b) := by
  simp [hl, hm]

theorem getD_zipIdx_of_lt {α : Type} {l : List α} {j : Nat} (hj : j < l.length) (a : α) (p : α × Nat) :
    l.zipIdx.getD j p = (l.getD j a, j) := by
  simp [hj]

/-- A change of one entry that `g` does not see. -/
theorem map_modify_of_blind {α β : Type} {f : α → α} {g : α → β} (h : ∀ a, g (f a) = g a) (l : List α) (i : Nat) :
    (l.modify i f).map g = l.map g := by
  refine List.ext_getElem? fun j => ?_
  rw [List.getElem?_map, List.getElem?_map, List.getElem?_modify]
  cases l[j]? with
  | none => rfl
  | some a =>
    by_cases hij : i = j
    · simp [hij, h]
    · simp [hij]

theorem getD_modify_self {α : Type} (f : α → α) {l : List α} {i : Nat} (hi : i < l.length) (a : α) :
    (l.modify i f).getD i a = f (l.getD i a) := by
  simp [hi]

/-! ### The pairs that a capture applies (Table 5-10) -/

/-- A segment, and a watch, without what the pairs of PARC_SET set. -/
def withoutLambda (g : Segment) : Segment := { g with lambda := 0 }
def withoutBounds (w : Watch) : Watch := { w with limit := 0, pers := 0 }

/-- The inputs of a step without what the pairs of PARC_SET set: λ, TCONST, LIMIT and PERS. -/
def besidePairs (c : PCapture) : PCapture :=
  { c with segs := c.segs.map withoutLambda, amb := c.amb.map fun a => (a.1, 0), watch := c.watch.map withoutBounds }

theorem besidePairs_applyParcPair (c : PCapture) (p : ParcPair) : besidePairs (applyParcPair c p) = besidePairs c := by
  unfold applyParcPair
  split
  · exact congrArg (fun l => { besidePairs c with segs := l })
      (map_modify_of_blind (f := fun g => { g with lambda := toF32 p.value }) (g := withoutLambda) (fun _ => rfl) ..)
  · exact congrArg (fun l => { besidePairs c with amb := l })
      (map_modify_of_blind (f := fun a => (a.1, toF32 p.value)) (g := fun a => (a.1, (0 : F32))) (fun _ => rfl) ..)
  · exact congrArg (fun l => { besidePairs c with watch := l })
      (map_modify_of_blind (f := fun w => { w with limit := toF32 p.value }) (g := withoutBounds) (fun _ => rfl) ..)
  · exact congrArg (fun l => { besidePairs c with watch := l })
      (map_modify_of_blind (f := fun w => { w with pers := (toIntF 0 65535 p.value).toNat }) (g := withoutBounds) (fun _ => rfl) ..)

theorem besidePairs_foldl (l : List ParcPair) (c : PCapture) : besidePairs (l.foldl applyParcPair c) = besidePairs c := by
  induction l generalizing c with
  | nil => rfl
  | cons p r ih => rw [List.foldl_cons, ih, besidePairs_applyParcPair]

theorem applyParcPair_lambda {c : PCapture} {p : ParcPair} (hp : p.field = 1) (hi : p.index < c.segs.length) :
    ((applyParcPair c p).segs.getD p.index {}).lambda = toF32 p.value := by
  rw [applyParcPair, hp]
  exact congrArg Segment.lambda (getD_modify_self _ hi {})

theorem applyParcPair_ambient {c : PCapture} {p : ParcPair} (hp : p.field = 2) (hi : p.index < c.amb.length) :
    ((applyParcPair c p).amb.getD p.index (0, 0)).2 = toF32 p.value := by
  rw [applyParcPair, hp]
  exact congrArg Prod.snd (getD_modify_self _ hi (0, 0))

theorem applyParcPair_limit {c : PCapture} {p : ParcPair} (hp : p.field = 3) (hi : p.index < c.watch.length) :
    ((applyParcPair c p).watch.getD p.index {}).limit = toF32 p.value := by
  rw [applyParcPair, hp]
  exact congrArg Watch.limit (getD_modify_self _ hi {})

/-! ### What a step works on -/

/-- The pairs that were delivered before this minor frame (R147). -/
def earlierPairs (s : State) : List ParcPair := s.parc.pend.filter fun p => p.mfn != s.sched.mfn

/-- The inputs of a step before the pairs are applied: FLOW takes the flow input where it is fresh (R148). -/
def flowsTaken (s : State) : PCapture :=
  { mfn := s.sched.mfn, amb := s.parc.amb, watch := s.parc.watch, pairs := earlierPairs s, took := s.parc.fresh,
    segs := if s.parc.fresh then (s.parc.segs.zip s.parc.flowIn).map fun p => { p.1 with flow := p.2 } else s.parc.segs }

theorem takeInputs_eq (s : State) : takeInputs s = (earlierPairs s).foldl applyParcPair (flowsTaken s) := rfl

section Flows

variable {s : State} (hlen : s.parc.flowIn.length = s.parc.segs.length)
include hlen

theorem flowsTaken_length : (flowsTaken s).segs.length = s.parc.segs.length := by
  unfold flowsTaken
  cases s.parc.fresh <;> simp [hlen]

theorem flowsTaken_seg {j : Nat} (hj : j < s.parc.segs.length) : (flowsTaken s).segs.getD j {} =
    { s.parc.segs.getD j {} with
      flow := if s.parc.fresh then s.parc.flowIn.getD j 0 else (s.parc.segs.getD j {}).flow } := by
  unfold flowsTaken
  cases s.parc.fresh with
  | false => rfl
  | true =>
    have hzip : j < (s.parc.segs.zip s.parc.flowIn).length := by simp [hlen, hj]
    simp only [if_true]
    rw [getD_map_of_lt _ hzip ({}, 0), getD_zip_of_lt hj (hlen ▸ hj) {} 0]

/-- The pairs leave the tables' lengths and all of a segment but λ. -/
theorem takeInputs_spec : let c := takeInputs s
    c.segs.length = s.parc.segs.length ∧ c.amb.length = s.parc.amb.length ∧ c.watch.length = s.parc.watch.length ∧
    ∀ j, j < s.parc.segs.length → let g := s.parc.segs.getD j {}
      let h := c.segs.getD j {}
      h.parcels = g.parcels ∧ h.volume = g.volume ∧ h.flow = if s.parc.fresh then s.parc.flowIn.getD j 0 else g.flow := by
  intro c
  have hbeside : besidePairs c = besidePairs (flowsTaken s) := besidePairs_foldl ..
  have hsegs := congrArg PCapture.segs hbeside
  have hclen : c.segs.length = s.parc.segs.length := by
    rw [← flowsTaken_length hlen]
    simpa [besidePairs] using congrArg List.length hsegs
  refine ⟨hclen, ?_, ?_, fun j hj => ?_⟩
  · simpa [besidePairs, flowsTaken] using congrArg (·.amb.length) hbeside
  · simpa [besidePairs, flowsTaken] using congrArg (·.watch.length) hbeside
  · have hseg : withoutLambda (c.segs.getD j {}) = withoutLambda ((flowsTaken s).segs.getD j {}) := by
      rw [← getD_map_of_lt withoutLambda (hclen ▸ hj) {} {},
        ← getD_map_of_lt withoutLambda (flowsTaken_length hlen ▸ hj) {} {}]
      exact congrArg (·.getD j {}) hsegs
    rw [flowsTaken_seg hlen hj] at hseg
    exact ⟨(congrArg Segment.parcels hseg :), (congrArg Segment.volume hseg :), (congrArg Segment.flow hseg :)⟩

/-- One pending pair is applied where it was delivered before this minor frame (R147). -/
theorem takeInputs_onePair {p : ParcPair} (hp : s.parc.pend = [p]) : let old := p.mfn = s.sched.mfn
    let c := takeInputs s
    (p.field = 1 → p.index < s.parc.segs.length → (c.segs.getD p.index {}).lambda =
      if old then (s.parc.segs.getD p.index {}).lambda else toF32 p.value) ∧
    (p.field = 2 → p.index < s.parc.amb.length → (c.amb.getD p.index (0, 0)).2 =
      if old then (s.parc.amb.getD p.index (0, 0)).2 else toF32 p.value) ∧
    (p.field = 3 → p.index < s.parc.watch.length → (c.watch.getD p.index {}).limit =
      if old then (s.parc.watch.getD p.index {}).limit else toF32 p.value) := by
  intro old c
  by_cases hold : p.mfn = s.sched.mfn
  · have hc : c = flowsTaken s := by simp [c, takeInputs_eq, earlierPairs, hp, hold]
    rw [hc]
    simp only [old, if_pos hold]
    refine ⟨fun _ hi => ?_, fun _ _ => rfl, fun _ _ => rfl⟩
    rw [flowsTaken_seg hlen hi]
  · have hc : c = applyParcPair (flowsTaken s) p := by simp [c, takeInputs_eq, earlierPairs, hp, hold]
    rw [hc]
    simp only [old, if_neg hold]
    exact ⟨fun hfield hi => applyParcPair_lambda hfield (flowsTaken_length hlen ▸ hi),
      fun hfield hi => applyParcPair_ambient hfield hi, fun hfield hi => applyParcPair_limit hfield hi⟩

end Flows

/-! ### An occurrence of a LONG slot (R147, R158) -/

/-- What a LONG slot of PARC needs to begin a step: its task, no switch committed, engines that run and are neither frozen
nor off, and the first occurrence in the capture frame. -/
structure StepDue (i : Nat) (e : SlotE) (k : LTask) (s : State) : Prop where
  task : parcTask s = some k
  own : e.task = k.task
  committed : s.sched.committed = false
  engines : enginesRun s = true
  frozen : frozenM s 16 = false
  en : enOf s bPARC = true
  first : firstOccurrence s 16 k.task i = true
  frame : captureFrame s k = true

theorem readPts_inside {m : Nat} {ps : List Nat} {s : State} (hf : frozenM s m = false)
    (hw : ∀ p ∈ ps, inWindow s m (viewIn p) 16 false = true) (ok : State → State) : readPts m ps ok s = ok s := by
  have hnone : outsidePt s m ps = none := by simpa [outsidePt, List.find?_eq_none] using hw
  rw [readPts, hf, hnone, if_neg Bool.false_ne_true]

/-- The unit in which the capture reads its points: a step is in progress. -/
def stepBegun (s : State) : State := { s with parc := { s.parc with step := some { mfn := s.sched.mfn } } }

/-- PARC with a captured step: the pairs and flows are taken, and nothing is left to publish. -/
def capturedStep (s : State) (c : PCapture) : ParcRegs :=
  { s.parc with pend := s.parc.pend.filter fun p => p.mfn == s.sched.mfn, fresh := false, lastPub := false, doneMfn := none,
                step := some c }

theorem parcCapture_spec (s : State) : ∃ nodes ambs watches subst bad badin, (parcCapture s).pimg = s.pimg ∧
    (parcCapture s).parc = { capturedStep s { takeInputs s with
      nodes := nodes, ambs := ambs, watches := watches, subst := subst, bad := bad } with badin := badin } :=
  ⟨_, _, _, _, _, _, countIf_pimg .., countIf_parc ..⟩

/-- The step in progress, if any, counts the occurrence from here on. -/
def withOccurrence (o : Occ) (t : State) : State :=
  match t.parc.step with
  | some c => { t with parc := { t.parc with step := some { c with
      wc := c.wc + (match c.occ with | some o => o.work | none => 0), occ := some o } } }
  | none => t

theorem withOccurrence_idle {t : State} (h : t.parc.step = none) (o : Occ) : withOccurrence o t = t := by
  rw [withOccurrence, h]

theorem withOccurrence_first {t : State} {c : PCapture} (h : t.parc.step = some c) (hocc : c.occ = none) (o : Occ) :
    withOccurrence o t = { t with parc := { t.parc with step := some { c with occ := some o } } } := by
  rw [withOccurrence, h]
  simp only [hocc]
  rfl

section Long

variable {i : Nat} {e : SlotE} {k : LTask} {s : State}

theorem parcLong_committed (h : s.sched.committed = true) (i : Nat) (e : SlotE) : parcLong i e s = s := by
  unfold parcLong
  split
  · rfl
  · rw [h, Bool.or_true, Bool.true_or, if_pos rfl]

theorem parcLong_due (h : StepDue i e k s) : parcLong i e s = withOccurrence (occurrence s e)
    (if s.parc.cfgSt = 2 then readPts 16 (capturePts s.parc) parcCapture (stepBegun s)
      else count bPARC 1 { s with parc := { s.parc with stepSt := 1, doneMfn := none, lastPub := false } }) := by
  simp only [parcLong, h.task, h.own, h.committed, h.engines, h.frozen, h.en, h.first, h.frame, Bool.not_true, Bool.or_false,
    Bool.false_eq_true, ne_eq, not_true_eq_false, decide_false, if_false, if_true, Bool.and_self]
  rfl

/-- A capture inside the windows begins a step, which counts from this occurrence (R147). -/
theorem parcLong_captures (h : StepDue i e k s) (hcfg : s.parc.cfgSt = 2)
    (hin : ∀ p ∈ capturePts s.parc, inWindow s 16 (viewIn p) 16 false = true) :
    ∃ nodes ambs watches subst bad badin, (parcLong i e s).pimg = s.pimg ∧
      (parcLong i e s).parc = { capturedStep s { takeInputs s with
        nodes := nodes, ambs := ambs, watches := watches, subst := subst, bad := bad, occ := some (occurrence s e) } with
        badin := badin } := by
  obtain ⟨nodes, ambs, watches, subst, bad, badin, hpimg, hparc⟩ := parcCapture_spec (stepBegun s)
  have hocc : (takeInputs s).occ = none := (congrArg PCapture.occ (besidePairs_foldl (earlierPairs s) (flowsTaken s)) :)
  have hstep := congrArg ParcRegs.step hparc
  rw [parcLong_due h, if_pos hcfg, readPts_inside (s := stepBegun s) h.frozen hin, withOccurrence_first hstep hocc, hparc]
  exact ⟨nodes, ambs, watches, subst, bad, badin, hpimg, rfl⟩

/-- Without a READY configuration no step starts (R158). -/
theorem parcLong_notReady (h : StepDue i e k s) (hcfg : s.parc.cfgSt ≠ 2) (hidle : s.parc.step = none) : parcLong i e s =
    count bPARC 1 { s with parc := { s.parc with stepSt := 1, doneMfn := none, lastPub := false } } := by
  rw [parcLong_due h, if_neg hcfg, withOccurrence_idle]
  exact hidle

theorem gives_longSlot_parc {P : State → Prop} (hslot : activeSlot s i = some e) (hlong : e.flags.testBit 0 = true)
    (hmaster : e.master = 16) (h : P (parcLong i e s)) : Gives (.longSlot i) s P := by
  refine ⟨_, ?_, h⟩
  have hbit : bit e.flags 0 = true := hlong
  have hother : (16 : Nat) ≠ 15 := by decide
  simp only [exec, execLongSlot, hslot, hbit, hmaster, hother, Bool.not_true, Bool.false_eq_true, if_false, if_true]

end Long

end Sys2Proof.Proofs
end

section
/-! PROOFS. A parcel step (R149 to R155): what it makes of each segment, node and watch, and its commit. -/

namespace Sys2Proof.Proofs

open Sys2Proof.Machine Sys2Proof.Laws

/-! ### The parcels of a segment keep to its quota (R150) -/

theorem removeOut_length_le (r : ParcRegs) (small vout d : F64) (l : List Piece) :
    (removeOut r small vout d l).2.length ≤ l.length := by
  induction l generalizing d with
  | nil => exact Nat.le_refl _
  | cons p rest ih =>
    rw [removeOut]
    split_ifs
    · exact Nat.le_succ_of_le (ih _)
    · cases rest with
      | nil => exact Nat.le_refl _
      | cons n more =>
        dsimp only
        split_ifs
        · exact Nat.le_succ _
        · exact Nat.le_refl _
    · exact Nat.le_refl _

theorem closestPair_bounds {l : List Piece} {k i : Nat} {d : F64} (h : closestPair k l = some (i, d)) :
    k ≤ i ∧ i + 1 < k + l.length := by
  induction l generalizing k i d with
  | nil => exact nomatch h
  | cons p rest ih =>
    cases rest with
    | nil => exact nomatch h
    | cons q more =>
      rw [List.length_cons, List.length_cons]
      rw [closestPair] at h
      cases hrest : closestPair (k + 1) (q :: more) with
      | none =>
        simp only [hrest, Option.some.injEq, Prod.mk.injEq] at h
        omega
      | some x =>
        obtain ⟨hj, hlast⟩ := ih hrest
        rw [List.length_cons] at hlast
        simp only [hrest] at h
        split_ifs at h <;> simp only [Option.some.injEq, Prod.mk.injEq] at h <;> omega

theorem mergeAt_length (r : ParcRegs) {i : Nat} {l : List Piece} (h : i + 1 < l.length) :
    (mergeAt r i l).length + 1 = l.length := by
  induction i generalizing l with
  | zero =>
    match l with
    | [] | [_] => simp at h
    | _ :: _ :: _ => rfl
  | succ i ih =>
    match l with
    | [] => simp at h
    | _ :: rest => exact congrArg (· + 1) (ih (Nat.lt_of_succ_lt_succ h))

/-- A full quota makes room by a forced merge. -/
theorem pushParcel_length_le (r : ParcRegs) {cap : Nat} (tiny : Bool) (n : Piece) {l : List Piece} (hcap : 1 ≤ cap)
    (hl : l.length ≤ cap) : (pushParcel r cap tiny n l).1.length ≤ cap := by
  cases l with
  | nil => exact hcap
  | cons p rest =>
    simp only [pushParcel]
    split_ifs with _ _ hroom
    · exact hl
    · exact hl
    · exact hroom
    · split
      · next i _ hpair =>
        obtain ⟨-, hi⟩ := closestPair_bounds hpair
        have hmerged := mergeAt_length r (Nat.zero_add (p :: rest).length ▸ hi)
        rw [List.length_cons]
        omega
      · exact hl

theorem closeVolume_length (vol : F64) (l : List Piece) : (closeVolume vol l).length = l.length := by
  cases l <;> rfl

/-! ### Phases 1 and 3: a segment -/

/-- A segment whose flow is below Q_ZERO stands still in a step. -/
def stands (r : ParcRegs) (g : Segment) : Bool := ltF (absF (ofF32 g.flow)) (ofF32 r.qZero)

theorem length_inletOrder {α : Type} (b : Bool) (l : List α) : (if b then l else l.reverse).length = l.length := by
  cases b
  · exact List.length_reverse
  · rfl

section Phases

variable {r : ParcRegs} {c : PCapture} {g : Segment}

/-- A segment that stands keeps its parcels. -/
theorem phase1_stands (h : stands r g = true) : (phase1 r c g).stag = true ∧ (phase1 r c g).rest.length = g.parcels.length := by
  have hq : ltF (segCtx r c g).q (ofF32 r.qZero) = true := h
  unfold phase1
  dsimp only
  rw [if_pos hq]
  exact ⟨rfl, by simp only [List.length_map, length_inletOrder]⟩

/-- Outflow takes parcels away and adds none. -/
theorem phase1_moves (h : stands r g = false) : (phase1 r c g).stag = false ∧ (phase1 r c g).rest.length ≤ g.parcels.length := by
  have hq : ¬ltF (segCtx r c g).q (ofF32 r.qZero) = true := Bool.eq_false_iff.mp h
  unfold phase1
  dsimp only
  rw [if_neg hq]
  refine ⟨rfl, ?_⟩
  simp only [List.length_map, List.length_reverse]
  refine Nat.le_trans (removeOut_length_le ..) ?_
  rw [List.length_reverse, List.length_map, length_inletOrder]

/-- What phase 3 makes of a segment: its parcels, its loss and its marks. -/
theorem phase3_spec (r : ParcRegs) (c : PCapture) (nodes : List PNode) (g : Segment) (o : Out1) :
    ∃ ps loss, (phase3 r c nodes g o).1 = { g with parcels := ps, loss := loss, overrun := o.ovr, stagnant := o.stag } ∧
      (o.stag = true → ps.length = o.rest.length) ∧ (1 ≤ g.pcap → o.rest.length ≤ g.pcap → ps.length ≤ g.pcap) := by
  unfold phase3
  dsimp only
  by_cases h : o.stag = true
  · rw [if_pos h]
    refine ⟨_, _, rfl, fun _ => ?_, fun _ hle => ?_⟩ <;> rw [length_inletOrder, List.length_map, closeVolume_length]
    exact hle
  · rw [if_neg h]
    refine ⟨_, _, rfl, fun hs => absurd hs h, fun hcap hle => ?_⟩
    rw [length_inletOrder, List.length_map, closeVolume_length]
    exact pushParcel_length_le r o.tiny _ hcap hle

end Phases

/-- A segment through phases 1 and 3: constants and flow are kept, and the parcels keep to the quota. -/
theorem segment_stepped (r : ParcRegs) (c : PCapture) (nodes : List PNode) (g : Segment) :
    ∃ ps loss ovr, (phase3 r c nodes g (phase1 r c g)).1 =
        { g with parcels := ps, loss := loss, overrun := ovr, stagnant := stands r g } ∧
      (stands r g = true → ps.length = g.parcels.length) ∧ (1 ≤ g.pcap → g.parcels.length ≤ g.pcap → ps.length ≤ g.pcap) := by
  obtain ⟨ps, loss, heq, hstag, hquota⟩ := phase3_spec r c nodes g (phase1 r c g)
  cases h : stands r g with
  | true =>
    obtain ⟨hs, hsame⟩ := phase1_stands (c := c) h
    rw [hs] at heq
    exact ⟨ps, loss, _, heq, fun _ => (hstag hs).trans hsame, fun hcap hfits => hquota hcap (hsame ▸ hfits)⟩
  | false =>
    obtain ⟨hs, hle⟩ := phase1_moves (c := c) h
    rw [hs] at heq
    exact ⟨ps, loss, _, heq, nofun, fun hcap hfits => hquota hcap (Nat.le_trans hle hfits)⟩

theorem newHeads_length (n : Nat) (segs : List Segment) : (newHeads n segs).length = segs.length := by
  simp [newHeads]

/-- Only a segment that moved takes a new HEAD. -/
theorem newHeads_getD (n : Nat) {segs : List Segment} {j : Nat} (hj : j < segs.length) : let g := segs.getD j {}
    ∃ m, (newHeads n segs).getD j {} = { g with head := m } ∧ (g.stagnant = true → m = g.head) := by
  intro g
  rw [newHeads, getD_map_of_lt _ (by simpa using hj) ({}, 0), getD_zipIdx_of_lt hj {}]
  split_ifs with hs
  · exact ⟨g.head, rfl, fun _ => rfl⟩
  · exact ⟨_, rfl, fun h => absurd h hs⟩

/-! ### The tables at the end of a step -/

/-- What leaves the segments of a step, with the nodes that it reaches. -/
def stepPieces (r : ParcRegs) (c : PCapture) : List (Nat × Piece) :=
  ((c.segs.zip (c.segs.map (phase1 r c))).map fun p => p.2.gone.map fun x => (outletNode p.1, x)).flatten

theorem parcStep_nodes (r : ParcRegs) (c : PCapture) : (parcStep r c).nodes =
    r.nodes.zipIdx.map fun p => { phase2 r c (stepPieces r c) p.2 p.1 with srcbad := c.bad.getD p.2 false } := rfl

theorem parcStep_segs (r : ParcRegs) (c : PCapture) : (parcStep r c).segs =
    c.segs.map fun g => (phase3 r c (parcStep r c).nodes g (phase1 r c g)).1 := by
  have hzip : c.segs.zip (c.segs.map (phase1 r c)) = c.segs.map fun g => (g, phase1 r c g) := by
    simpa using List.zip_map' (f := id) (g := phase1 r c) (l := c.segs)
  have hsegs : (parcStep r c).segs = ((c.segs.zip (c.segs.map (phase1 r c))).map fun p =>
    phase3 r c (parcStep r c).nodes p.1 p.2).map (·.1) := rfl
  rw [hsegs, hzip, List.map_map, List.map_map]
  rfl

/-- Mixing (R149): a FIXED node takes its captured value, and a node without inflow keeps its temperature. -/
theorem parcStep_node (r : ParcRegs) (c : PCapture) {j : Nat} (hj : j < r.nodes.length) : let n := r.nodes.getD j {}
    let m := (parcStep r c).nodes.getD j {}
    m.fixed = n.fixed ∧ (n.fixed = true → m.age = 0 ∧
      m.temp = match c.nodes.getD j none with | some v => toF32 v | none => n.temp) ∧
    (n.fixed = false → m.noflow = true → m.temp = n.temp) := by
  intro n m
  have hm : m = { phase2 r c (stepPieces r c) j n with srcbad := c.bad.getD j false } := by
    simp only [m, parcStep_nodes]
    rw [getD_map_of_lt _ (by simpa using hj) ({}, 0), getD_zipIdx_of_lt hj {}]
  rw [hm]
  unfold phase2
  dsimp only
  split_ifs with hfixed hdry
  · exact ⟨rfl, fun _ => ⟨rfl, rfl⟩, fun h => absurd (hfixed.symm.trans h) (by decide)⟩
  · exact ⟨rfl, fun h => absurd h hfixed, fun _ _ => rfl⟩
  · exact ⟨rfl, fun h => absurd h hfixed, fun _ h => absurd h (by decide)⟩

/-- A segment after the step, with the place of its parcels in the quota (R149, R150). -/
theorem parcStep_seg (r : ParcRegs) (c : PCapture) (n : Nat) {j : Nat} (hj : j < c.segs.length) : let g := c.segs.getD j {}
    let h := (newHeads n (parcStep r c).segs).getD j {}
    h.volume = g.volume ∧ h.lambda = g.lambda ∧ h.flow = g.flow ∧ h.src = g.src ∧ h.dst = g.dst ∧
    h.stagnant = stands r g ∧ (h.stagnant = true → h.head = g.head ∧ h.parcels.length = g.parcels.length) ∧
    (1 ≤ g.pcap → g.parcels.length ≤ g.pcap → h.parcels.length ≤ g.pcap) := by
  intro g h
  obtain ⟨ps, loss, ovr, hstep, hsame, hquota⟩ := segment_stepped r c (parcStep r c).nodes g
  obtain ⟨m, hhead, hkeeps⟩ := newHeads_getD n (segs := (parcStep r c).segs) (j := j) (by rw [parcStep_segs]; simpa using hj)
  have hseg : (parcStep r c).segs.getD j {} = { g with parcels := ps, loss := loss, overrun := ovr, stagnant := stands r g } := by
    rw [parcStep_segs, getD_map_of_lt _ hj ({} : Segment)]
    exact hstep
  have hh : h = _ := hhead
  rw [hseg] at hh hkeeps
  rw [hh]
  exact ⟨rfl, rfl, rfl, rfl, rfl, rfl, fun hs => ⟨hkeeps hs, hsame hs⟩, hquota⟩

/-! ### Watches (R153 to R155) -/

/-- The residuals of a step's watches; `none` of a watch that is suspended. -/
def stepResids (r : ParcRegs) (c : PCapture) : List (Option F64) :=
  (c.watch.zip c.watches).map fun p => watchResid r (parcStep r c).segs (parcStep r c).nodes p.1 p.2

def stepResid (r : ParcRegs) (c : PCapture) (j : Nat) : Option F64 :=
  watchResid r (parcStep r c).segs (parcStep r c).nodes (c.watch.getD j {}) (c.watches.getD j none)

theorem stepResid_suspended {r : ParcRegs} {c : PCapture} {j : Nat}
    (hkind : (c.watch.getD j {}).kind = 1 ∨ (c.watch.getD j {}).kind = 2) (hnone : c.watches.getD j none = none) :
    stepResid r c j = none := by
  unfold stepResid watchResid
  rw [hnone]
  rcases hkind with hkind | hkind <;> rw [hkind] <;> rfl

theorem stepResid_evaluated {r : ParcRegs} {c : PCapture} {j : Nat} (hkind : (c.watch.getD j {}).kind = 0 ∨
    (((c.watch.getD j {}).kind = 1 ∨ (c.watch.getD j {}).kind = 2) ∧ (c.watches.getD j none).isSome = true)) :
    ∃ x, stepResid r c j = some x := by
  unfold stepResid watchResid
  rcases hkind with hkind | ⟨hkind, hsome⟩
  · rw [hkind]
    exact ⟨_, rfl⟩
  · obtain ⟨v, hv⟩ := Option.isSome_iff_exists.mp hsome
    rw [hv]
    rcases hkind with hkind | hkind <;> rw [hkind] <;> exact ⟨_, rfl⟩

section Watches

variable {r : ParcRegs} {c : PCapture} {j : Nat} (hj : j < c.watch.length) (hlen : c.watches.length = c.watch.length)
include hlen

theorem stepResids_length : (stepResids r c).length = c.watch.length := by
  simp [stepResids, hlen]

include hj

theorem stepResids_getD : (stepResids r c).getD j none = stepResid r c j := by
  rw [stepResids, getD_map_of_lt _ (by simp [hj, hlen]) ({}, none), getD_zip_of_lt hj (hlen ▸ hj) {} none]
  rfl

/-- A watch is evaluated, or suspended and kept (R155). -/
theorem parcStep_watch : (parcStep r c).watch.getD j ({}, false) =
    (stepResid r c j).elim (c.watch.getD j {}, false) (watchStep (c.watch.getD j {})) := by
  have hall : (parcStep r c).watch = (c.watch.zip (stepResids r c)).map fun p => p.2.elim (p.1, false) (watchStep p.1) :=
    List.map_congr_left fun p _ => by cases p.2 <;> rfl
  have hj' : j < (stepResids r c).length := by rwa [stepResids_length hlen]
  rw [hall, getD_map_of_lt _ (by simp [hj, hj']) ({}, none), getD_zip_of_lt hj hj' {} none, stepResids_getD hj hlen]

theorem parcStep_resid (hresid : r.resid.length = c.watch.length) : (parcStep r c).resid.getD j 0 =
    (stepResid r c j).getD (r.resid.getD j 0) := by
  have hall : (parcStep r c).resid = (r.resid.zip (stepResids r c)).map fun p => p.2.getD p.1 := rfl
  have hj' : j < (stepResids r c).length := by rwa [stepResids_length hlen]
  rw [hall, getD_map_of_lt _ (by simp [hj, hj', hresid]) (0, none), getD_zip_of_lt (hresid ▸ hj) hj' 0 none,
    stepResids_getD hj hlen]

end Watches

/-- The residual calls for a change of the watch's state (R155). -/
def calls (w : Watch) (x : F64) : Bool := if w.st then leF x (ofF32 w.limit) else ltF (ofF32 w.limit) x

/-- One evaluation (R154, R155): a watch counts its calls, and at PERS it changes state. -/
theorem watchStep_spec (w : Watch) (x : F64) : let v := watchStep w x
    v.1.limit = w.limit ∧ v.1.pers = w.pers ∧
    (0 < w.pers → (calls w x = false → v.1.st = w.st ∧ v.1.cnt = 0) ∧
      (calls w x = true → w.cnt + 1 ≠ w.pers → v.1.st = w.st ∧ v.1.cnt = w.cnt + 1) ∧
      (calls w x = true → w.cnt + 1 = w.pers → v.1.st = !w.st ∧ v.1.cnt = 0 ∧ v.2 = true)) := by
  intro v
  have hv : v = if (if calls w x then w.cnt + 1 else 0) = w.pers then ({ w with st := !w.st, cnt := 0 }, true)
    else ({ w with cnt := if calls w x then w.cnt + 1 else 0 }, false) := rfl
  rw [hv]
  cases calls w x with
  | false =>
    simp only [Bool.false_eq_true, if_false]
    split_ifs with hpers
    · exact ⟨rfl, rfl, fun hpos => absurd hpers (Nat.ne_of_lt hpos)⟩
    · exact ⟨rfl, rfl, fun _ => ⟨fun _ => ⟨rfl, rfl⟩, nofun, nofun⟩⟩
  | true =>
    simp only [if_true]
    split_ifs with hpers
    · exact ⟨rfl, rfl, fun _ => ⟨nofun, fun _ hne => absurd hpers hne, fun _ _ => ⟨rfl, rfl, rfl⟩⟩⟩
    · exact ⟨rfl, rfl, fun _ => ⟨nofun, fun _ _ => ⟨rfl, rfl⟩, fun _ heq => absurd heq hpers⟩⟩

/-- The marks of the watches that changed. -/
def withMarks (l : List (Watch × Bool)) (k : Nat) (t : Tbl Bool) : Tbl Bool :=
  (l.zipIdx k).foldl (fun t p => if p.1.2 then tblPut t p.2 true false else t) t

theorem withMarks_keeps (l : List (Watch × Bool)) (k : Nat) {t : Tbl Bool} {n : Nat} (h : tblGet t n false = true) :
    tblGet (withMarks l k t) n false = true := by
  induction l generalizing k t with
  | nil => exact h
  | cons w rest ih =>
    refine ih (k + 1) ?_
    dsimp only
    split_ifs
    · by_cases hn : n = k
      · subst hn
        exact tblGet_tblPut_same ..
      · exact (tblGet_tblPut_ne _ _ _ hn).trans h
    · exact h

theorem withMarks_marks {l : List (Watch × Bool)} {j : Nat} (h : (l.getD j ({}, false)).2 = true) (k : Nat) (t : Tbl Bool) :
    tblGet (withMarks l k t) (k + j) false = true := by
  induction l generalizing j k t with
  | nil => exact nomatch h
  | cons w rest ih =>
    cases j with
    | zero =>
      have hw : w.2 = true := h
      refine withMarks_keeps rest (k + 1) ?_
      dsimp only
      rw [if_pos hw]
      exact tblGet_tblPut_same ..
    | succ j =>
      rw [show k + (j + 1) = k + 1 + j by omega]
      exact ih h (k + 1) _

/-! ### PARCEL_STEP_COMMIT (R151, R155) -/

/-- The unit after the commit of a finite step. -/
def stepCommitted (s : State) (c : PCapture) : State :=
  let e := parcStep s.parc c
  { s with free := s.free + s.parc.segs.length,
           parc := withItem { s.parc with
             step := none, amb := c.amb, segs := newHeads s.free e.segs, nodes := e.nodes, watch := e.watch.map (·.1),
             resid := e.resid, mstep := s.parc.mstep + 1, stepSt := 0, mrg := BitVec.ofNat 32 e.merges,
             ovr := BitVec.ofNat 32 (e.segs.filter (·.overrun)).length, wc := BitVec.ofNat 32 (tStep s.parc),
             almChg := withMarks e.watch 0 s.parc.almChg,
             doneMfn := if c.noPub then none else some c.mfn, doneSubst := c.subst } }

theorem gives_parcelStepCommit {c : PCapture} {s : State} {P : State → Prop} (hstep : s.parc.step = some c)
    (hok : (parcStep s.parc c).ok = true) (h : P (stepCommitted s c)) : Gives .parcelStepCommit s P := by
  refine ⟨_, ?_, h⟩
  simp only [exec, execParcelStepCommit, hstep, hok, Bool.not_true, Bool.false_eq_true, if_false]
  rfl

theorem gives_parcelStepCommit_discarded {c : PCapture} {s : State} {P : State → Prop} (hstep : s.parc.step = some c)
    (hok : (parcStep s.parc c).ok = false) (h : P (count bPARC 2 (parcGiveUp 2 s))) : Gives .parcelStepCommit s P := by
  refine ⟨_, ?_, h⟩
  simp only [exec, execParcelStepCommit, hstep, hok, Bool.not_false, if_true]

theorem parcGiveUp_eq {c : PCapture} {s : State} (hstep : s.parc.step = some c) (st : BitVec 4) : parcGiveUp st s =
    { s with parc := { s.parc with step := none, stepSt := st, pend := c.pairs ++ s.parc.pend, fresh := s.parc.fresh || c.took,
                                   wc := BitVec.ofNat 32 (c.wc + occNow s c.occ) } } := by
  rw [parcGiveUp, hstep]

/-- A watch after a committed step. -/
theorem stepCommitted_watch {c : PCapture} {s : State} {j : Nat} (hj : j < c.watch.length)
    (hlen : c.watches.length = c.watch.length) (hresid : s.parc.resid.length = c.watch.length) : let u := (stepCommitted s c).parc
    let w := c.watch.getD j {}
    let v := u.watch.getD j {}
    let x := u.resid.getD j 0
    v.limit = w.limit ∧ v.pers = w.pers ∧
    (w.kind = 1 ∨ w.kind = 2 → c.watches.getD j none = none → v = w) ∧
    (w.kind = 0 ∨ ((w.kind = 1 ∨ w.kind = 2) ∧ (c.watches.getD j none).isSome = true) → 0 < w.pers →
      (calls w x = false → v.st = w.st ∧ v.cnt = 0) ∧ (calls w x = true → w.cnt + 1 ≠ w.pers → v.st = w.st ∧ v.cnt = w.cnt + 1) ∧
      (calls w x = true → w.cnt + 1 = w.pers → v.st = !w.st ∧ v.cnt = 0 ∧ tblGet u.almChg j false = true)) := by
  intro u w v x
  have hwatch := parcStep_watch (r := s.parc) hj hlen
  have hwlen : j < (parcStep s.parc c).watch.length := by simp [parcStep, hj, hlen]
  have hv : v = ((parcStep s.parc c).watch.getD j ({}, false)).1 := getD_map_of_lt Prod.fst hwlen ({}, false) {}
  have hx : x = (stepResid s.parc c j).getD (s.parc.resid.getD j 0) := parcStep_resid hj hlen hresid
  have hmark : ((parcStep s.parc c).watch.getD j ({}, false)).2 = true → tblGet u.almChg j false = true := fun h => by
    have hmarked := withMarks_marks h 0 s.parc.almChg
    rwa [Nat.zero_add] at hmarked
  rw [hwatch] at hv hmark
  cases hres : stepResid s.parc c j with
  | none =>
    rw [hres] at hv
    have hv : v = w := hv
    rw [hv]
    refine ⟨rfl, rfl, fun _ _ => rfl, fun hkind => ?_⟩
    obtain ⟨y, hy⟩ := stepResid_evaluated (r := s.parc) hkind
    exact nomatch hres.symm.trans hy
  | some y =>
    rw [hres] at hv hmark hx
    have hv : v = (watchStep w y).1 := hv
    have hx : x = y := hx
    obtain ⟨hlimit, hpers, hcounts⟩ := watchStep_spec w y
    rw [hv, hx]
    refine ⟨hlimit, hpers, fun hkind hnone => ?_, fun _ hpos => ?_⟩
    · exact nomatch (stepResid_suspended hkind hnone).symm.trans hres
    · obtain ⟨hquiet, hgoes, hchanges⟩ := hcounts hpos
      refine ⟨hquiet, hgoes, fun hcall hat => ?_⟩
      obtain ⟨hst, hcnt, hflag⟩ := hchanges hcall hat
      exact ⟨hst, hcnt, hmark hflag⟩

end Sys2Proof.Proofs
end

section
/-! PROOFS. PARCCFG_LOAD and PARC's publication slot (R152, R161, R163). -/

namespace Sys2Proof.Proofs

open Sys2Proof.Machine Sys2Proof.Laws

/-! ### PARCCFG_LOAD (R161, R163) -/

theorem gives_parccfgLoad_ready {s : State} {P : State → Prop} (hcfg : s.parc.cfgSt = 1) (herr : parcErr s s.parc.loading = 0)
    (h : P { s with parc := { parseParc s.parc.loading with mstep := s.parc.mstep } }) : Gives .parccfgLoad s P := by
  refine ⟨_, ?_, h⟩
  rw [exec, execParccfgLoad, if_neg (not_not_intro hcfg)]
  exact congrArg Host.Outcome.next (if_pos herr)

/-- The unit after a load that failed with a cause, before PARC counts it. -/
def configRefused (s : State) (cause : Nat) : State :=
  lantern 0x0701 2 (leBytes 1 0 ++ leBytes 1 cause)
    { s with parc := { s.parc with cfgSt := 3, loadErr := BitVec.ofNat 8 cause, loading := [] } }

theorem gives_parccfgLoad_failed {s : State} {P : State → Prop} (hcfg : s.parc.cfgSt = 1) (herr : parcErr s s.parc.loading ≠ 0)
    (h : P (count bPARC 0 (configRefused s (parcErr s s.parc.loading)))) : Gives .parccfgLoad s P := by
  refine ⟨_, ?_, h⟩
  rw [exec, execParccfgLoad, if_neg (not_not_intro hcfg)]
  exact congrArg Host.Outcome.next (if_neg herr)

theorem configRefused_parc (s : State) (cause : Nat) : (configRefused s cause).parc =
    { s.parc with cfgSt := 3, loadErr := BitVec.ofNat 8 cause, loading := [] } := lantern_parc ..

theorem cntOf_configRefused (s : State) (cause : Nat) : cntOf (configRefused s cause) bPARC 0 = cntOf s bPARC 0 :=
  (lantern_cntOf (by decide) _ _ _ _ _).trans (cntOf_congr rfl ..)

theorem inLantern_configRefused (s : State) (cause : Nat) : InLantern 0x0701 s (count bPARC 0 (configRefused s cause)) :=
  inLantern_lantern (u := { s with parc := { s.parc with cfgSt := 3, loadErr := BitVec.ofNat 8 cause, loading := [] } }) rfl
    (congrArg RecRegs.queue (count_recs ..))

/-- A loaded configuration: its tables, with one parcel a segment at the temperature of its FROM node (R161). -/
theorem parseParc_spec (b : Bytes) : let r := parseParc b
    r.segs.length = u32 b 4 ∧ r.nodes.length = u32 b 8 ∧
    ∀ g ∈ r.segs, g.parcels = [{ vol := g.volume, temp := (r.nodes.getD g.src {}).temp, age := 0 }] := by
  intro r
  refine ⟨by simp [r, parseParc, rowsAt], by simp [r, parseParc, rowsAt], fun g hg => ?_⟩
  obtain ⟨x, -, rfl⟩ := List.mem_map.mp hg
  rfl

/-! ### The publication slot (R152) -/

theorem gives_pubSlot_parc {e : SlotE} {s : State} {P : State → Prop} (hslot : slotNow s 16 = some e)
    (hpub : e.flags.testBit 1 = true) (h : P (parcPub s)) : Gives (.pubSlot .parc) s P := by
  refine ⟨_, ?_, h⟩
  have hbit : bit e.flags 1 = true := hpub
  simp only [exec, execPubSlot, hslot, hbit, if_true]

/-- A binary64 point that its owner may write takes the value with the publication's quality (R181, R515). -/
theorem pointStoreF_f64 {m p : Nat} {s : State} (hm : 14 < m) (hp : p < 131072) (htyp : (workPt s p).typ = 7)
    (howner : (workPt s p).owner.toNat = m) (hqual : (workPt s p).qual ≠ qFORCED) {q : Nat} (hq : q = 0 ∨ q = 4) (v : F64) :
    pointStoreF m p v q s = workSet s p v (BitVec.ofNat 3 q) := by
  rw [pointStoreF]
  simp only [htyp, f64ToType, if_true, countIf, Bool.false_eq_true, if_false]
  rw [if_neg (by decide), pointWrite, if_neg (not_or.mpr ⟨by omega, by rw [htyp]; decide⟩), if_neg (not_not_intro howner),
    if_neg (by omega), if_neg hqual, if_pos (by omega)]

/-- The unit whose step is marked as published, before its points are written. -/
def publishing (s : State) : State :=
  { s with parc := { s.parc with doneMfn := none, lastPub := true, substPub := s.parc.doneSubst } }

section Pub

variable {m : W64} {k : LTask} {s : State} (hdone : s.parc.doneMfn = some m) (htask : parcTask s = some k)
include hdone htask

/-- Outside its publication frame a step waits. -/
theorem parcPub_waits (hmfn : m + BitVec.ofNat 64 k.pubOff ≠ s.sched.mfn) : parcPub s = s := by
  simp only [parcPub, hdone, htask, if_neg hmfn]

section Frame

variable (hmfn : m + BitVec.ofNat 64 k.pubOff = s.sched.mfn)
include hmfn

theorem parcPub_barred (hoff : enOf s bPARC = false ∨ frozenM s 16 = true ∨ enginesRun s = false) :
    parcPub s = { s with parc := { s.parc with doneMfn := none } } := by
  have hbarred : (enOf s bPARC && !frozenM s 16 && enginesRun s) = false := by
    rcases hoff with h | h | h <;> simp [h]
  simp only [parcPub, hdone, htask, if_pos hmfn, hbarred, Bool.false_eq_true, if_false]

/-- Every binding is published, in order, with the quality of the step's inputs. -/
theorem parcPub_open (hen : enOf s bPARC = true) (hf : frozenM s 16 = false) (hruns : enginesRun s = true) :
    parcPub s = s.parc.pubs.foldl (parcPublish (if s.parc.doneSubst then 4 else 0)) (publishing s) := by
  have hopen : (enOf s bPARC && !frozenM s 16 && enginesRun s) = true := by simp [hen, hf, hruns]
  simp only [parcPub, hdone, htask, if_pos hmfn, hopen, if_true]
  rfl

theorem parcPub_publishes (hen : enOf s bPARC = true) (hf : frozenM s 16 = false) (hruns : enginesRun s = true) {b : ParcBind}
    (hpubs : s.parc.pubs = [b]) (hp : b.point < 131072) (htyp : (workPt s b.point).typ = 7)
    (howner : (workPt s b.point).owner = 16) (hqual : (workPt s b.point).qual ≠ qFORCED)
    (hw : inWindow s 16 (viewOut b.point) 16 true = true) : parcPub s =
      workSet (publishing s) b.point (mulF (parcOutput s.parc b) b.scale) (if s.parc.doneSubst then qSUBST else qGOOD) := by
  have hf' : frozenM (publishing s) 16 = false := hf
  have howner' : (workPt (publishing s) b.point).owner.toNat = 16 := congrArg BitVec.toNat howner
  rw [parcPub_open hdone htask hmfn hen hf hruns, hpubs, List.foldl_cons, List.foldl_nil, parcPublish, hf',
    if_neg Bool.false_ne_true, guarded_inside hf' hw]
  cases s.parc.doneSubst with
  | false => exact pointStoreF_f64 (s := publishing s) (by decide) hp htyp howner' hqual (.inl rfl) _
  | true => exact pointStoreF_f64 (s := publishing s) (by decide) hp htyp howner' hqual (.inr rfl) _

end Frame

end Pub

end Sys2Proof.Proofs
end

section
/-! PROOFS. The descriptors PARC_SET and PARC_READ (R164, R165), and O40. -/

namespace Sys2Proof.Proofs

open Sys2Proof.Machine Sys2Proof.Laws

/-! ### Completions of PARC's descriptors (Table 5-17) -/

/-- The descriptor has completed with the status of a failed check, PARC has counted it, and PARC is as it was. -/
def RefusedByParc (d : HostDesc) (st data : Nat) (s t : State) : Prop :=
  Answered d st data t ∧ Counted bPARC 4 s t ∧ t.parc = s.parc

@[simp] theorem complete_parc (d : HostDesc) (st data : Nat) (s : State) : (complete d st data s).parc = s.parc :=
  (congrArg State.parc (complete_frame d st data s) :)

theorem finParc_refused {d : HostDesc} {s : State} (hd : d ∈ (ringGet s d.ring).started) {st : Nat}
    (h : st ∈ [stBUSY, stRANGE, stNOT_READY]) (data : Nat) : RefusedByParc d st data s (finParc d st data s) := by
  have hst : st ≠ stOK := fun he => absurd (he ▸ h) (by decide)
  have hframe := complete_refused_frame (d := d) (data := data) hst (count bPARC 4 s)
  rw [finParc, finish_listed h]
  exact ⟨answered_complete st data (s := count bPARC 4 s) hd, counted_of_blk (u := s) rfl (congrArg State.blk hframe :),
    complete_parc ..⟩

theorem finParc_ok (d : HostDesc) (data : Nat) (s : State) : finParc d stOK data s = complete d stOK data s := rfl

/-! ### PARC_SET (R164) -/

section Set

variable {d : HostDesc} {s : State} (hone : d32 d 20 = 1) (halign : d64 d 24 % 16 = 0)

theorem parcSet_notReady (hd : d ∈ (ringGet s d.ring).started) (hcfg : s.parc.cfgSt ≠ 2) :
    RefusedByParc d stNOT_READY 0 s (effParcSet d s) := by
  have heff : effParcSet d s = finParc d stNOT_READY 0 s := if_pos hcfg
  rw [heff]
  exact finParc_refused hd (by decide) 0

include hone halign

/-- One pair, in a READY configuration: it is checked before the room for it. -/
theorem effParcSet_onePair (hcfg : s.parc.cfgSt = 2) : effParcSet d s =
    if parcPairBad s.parc (parcPairOf s d.buf 0) then finParc d stRANGE 0 s
    else if 1024 ≤ s.parc.pend.length then finParc d stBUSY 0 s
    else inHostSlot d (fun s => finParc d stOK (s.parc.pend.length + 1)
      { s with parc := { s.parc with pend := s.parc.pend ++ [parcPairOf s d.buf 0] } }) s := by
  have hready : ¬s.parc.cfgSt ≠ pcREADY := not_not_intro hcfg
  rw [effParcSet, hone, if_neg hready, if_neg (by omega)]
  have hpairs : ∀ u : State, (List.range 1).map (parcPairOf u d.buf) = [parcPairOf u d.buf 0] := fun _ => rfl
  simp only [hpairs, firstIdx]
  cases parcPairBad s.parc (parcPairOf s d.buf 0) with
  | true => rfl
  | false =>
    simp only [Bool.false_eq_true, if_false]
    by_cases hfull : 1024 ≤ s.parc.pend.length
    · rw [if_pos hfull, if_pos (by omega)]
    · rw [if_neg hfull, if_neg (by omega)]

theorem parcSet_range (hd : d ∈ (ringGet s d.ring).started) (hcfg : s.parc.cfgSt = 2)
    (hbad : parcPairBad s.parc (parcPairOf s d.buf 0) = true) : RefusedByParc d stRANGE 0 s (effParcSet d s) := by
  rw [effParcSet_onePair hone halign hcfg, if_pos hbad]
  exact finParc_refused hd (by decide) 0

theorem parcSet_busy (hd : d ∈ (ringGet s d.ring).started) (hcfg : s.parc.cfgSt = 2)
    (hgood : parcPairBad s.parc (parcPairOf s d.buf 0) = false) (hfull : 1024 ≤ s.parc.pend.length) :
    RefusedByParc d stBUSY 0 s (effParcSet d s) := by
  rw [effParcSet_onePair hone halign hcfg, hgood, if_neg Bool.false_ne_true, if_pos hfull]
  exact finParc_refused hd (by decide) 0

theorem effParcSet_accepted (hcfg : s.parc.cfgSt = 2) (hgood : parcPairBad s.parc (parcPairOf s d.buf 0) = false)
    (hroom : s.parc.pend.length < 1024) : effParcSet d s =
      inHostSlot d (fun s => finParc d stOK (s.parc.pend.length + 1)
        { s with parc := { s.parc with pend := s.parc.pend ++ [parcPairOf s d.buf 0] } }) s := by
  rw [effParcSet_onePair hone halign hcfg, hgood, if_neg Bool.false_ne_true, if_neg (by omega)]

/-- Outside a host slot the pair waits for the next one. -/
theorem parcSet_waits (hcfg : s.parc.cfgSt = 2) (hgood : parcPairBad s.parc (parcPairOf s d.buf 0) = false)
    (hroom : s.parc.pend.length < 1024) (hslot : s.hif.inSlot = false ∨ s.hif.closed = true) :
    effParcSet d s = { s with hif := { s.hif with todo := s.hif.todo ++ [d] } } := by
  have hout : (s.hif.inSlot && !s.hif.closed) = false := by rcases hslot with h | h <;> simp [h]
  rw [effParcSet_accepted hone halign hcfg hgood hroom, inHostSlot, hout, if_neg Bool.false_ne_true]

theorem parcSet_appends (hd : d ∈ (ringGet s d.ring).started) (hcfg : s.parc.cfgSt = 2)
    (hgood : parcPairBad s.parc (parcPairOf s d.buf 0) = false) (hroom : s.parc.pend.length < 1024)
    (hin : s.hif.inSlot = true) (hopen : s.hif.closed = false) : let t := effParcSet d s
    Answered d stOK (s.parc.pend.length + 1) t ∧
      t.parc = { s.parc with pend := s.parc.pend ++ [parcPairOf s d.buf 0] } := by
  intro t
  have ht : t = finParc d stOK (s.parc.pend.length + 1)
      { s with parc := { s.parc with pend := s.parc.pend ++ [parcPairOf s d.buf 0] } } := by
    simp only [t, effParcSet_accepted hone halign hcfg hgood hroom, inHostSlot, hin, hopen, Bool.not_false, Bool.and_self, if_true]
  rw [ht, finParc_ok, complete_parc]
  exact ⟨answered_complete (s := { s with parc := _ }) _ _ hd, rfl⟩

end Set

/-! ### Records of a fixed length -/

theorem leBytes_length (n v : Nat) : (leBytes n v).length = n := by
  induction n generalizing v with
  | zero => rfl
  | succ n ih => rw [leBytes, List.length_cons, ih]

section Records

variable {α : Type} {f : α → Bytes} {k : Nat} (hf : ∀ a, (f a).length = k)
include hf

theorem records_length (l : List α) : (l.map f).flatten.length = k * l.length := by
  induction l with
  | nil => rfl
  | cons a l ih => rw [List.map_cons, List.flatten_cons, List.length_append, hf, ih, List.length_cons, Nat.mul_succ, Nat.add_comm]

theorem slice_records {l : List α} {i : Nat} (hi : i < l.length) : slice (l.map f).flatten (k * i) k = f l[i] := by
  have hdrop : (l.map f).flatten.drop (k * i) = f l[i] ++ ((l.drop (i + 1)).map f).flatten := by
    induction l generalizing i with
    | nil => exact absurd hi (Nat.not_lt_zero i)
    | cons a l ih =>
      cases i with
      | zero => rfl
      | succ i =>
        rw [List.map_cons, List.flatten_cons, Nat.mul_succ, Nat.add_comm, ← List.drop_drop, ← hf a, List.drop_left, hf a]
        exact ih (Nat.lt_of_succ_lt_succ hi)
  rw [slice, hdrop, List.take_left' (hf _), hf, Nat.sub_self]
  exact List.append_nil _

end Records

theorem nodeBytes_length (n : PNode) : (nodeBytes n).length = 16 := by
  simp [nodeBytes, leBytes_length, zeros]

theorem segBytes_length (g : Segment) : (segBytes g).length = 32 := by
  simp [segBytes, leBytes_length]

theorem parcelBytes_length (p : Parcel) : (parcelBytes p).length = 16 := by
  simp [parcelBytes, leBytes_length, zeros]

theorem watchBytes_length (w : Watch) : (watchBytes w).length = 16 := by
  simp [watchBytes, leBytes_length]

theorem poolFree_length (s : State) (j : Nat) : (poolFree s j).length = 16 := by
  unfold poolFree
  split
  · next b hb =>
    rw [otherBytes] at hb
    split_ifs at hb with hlen
    exact Option.some.inj hb ▸ hlen
  · simp [leBytes_length]

theorem poolBytes_length (s : State) (j : Nat) : (poolBytes s j).length = 16 := by
  unfold poolBytes
  split
  · dsimp only
    split
    · exact parcelBytes_length _
    · exact poolFree_length s j
  · exact poolFree_length s j

/-- The first entry of a quota that no other segment shares is the segment's first parcel, where HEAD is 0. -/
theorem poolBytes_head {s : State} {g : Segment} (hg : g ∈ s.parc.segs)
    (hown : ∀ h ∈ s.parc.segs, h ≠ g → g.pbase < h.pbase ∨ h.pbase + h.pcap ≤ g.pbase) (hhead : g.head = 0)
    (hsome : 0 < g.parcels.length) (hcap : 0 < g.pcap) : poolBytes s g.pbase = parcelBytes (g.parcels.getD 0 {}) := by
  have hfind : s.parc.segs.find? (fun h => decide (h.pbase ≤ g.pbase) && decide (g.pbase < h.pbase + h.pcap)) = some g := by
    cases hres : s.parc.segs.find? (fun h => decide (h.pbase ≤ g.pbase) && decide (g.pbase < h.pbase + h.pcap)) with
    | none =>
      have hnot := List.find?_eq_none.mp hres g hg
      simp [hcap] at hnot
    | some h =>
      have hholds := List.find?_some hres
      simp only [Bool.and_eq_true, decide_eq_true_eq] at hholds
      by_contra hne
      have hout := hown h (List.mem_of_find?_eq_some hres) fun heq => hne (congrArg some heq)
      omega
  have hfirst : (g.pbase - g.pbase + g.pcap - g.head) % max 1 g.pcap = 0 := by
    rw [hhead, Nat.sub_self, Nat.zero_add, Nat.sub_zero, Nat.max_eq_right hcap, Nat.mod_self]
  have hparcel : g.parcels[0]? = some (g.parcels.getD 0 {}) := by
    rw [List.getD_eq_getElem _ _ hsome]
    exact List.getElem?_eq_getElem hsome
  simp only [poolBytes, hfind, hfirst, hparcel]

/-! ### PARC_READ (R165) -/

/-- The number of entries of the table that a PARC_READ names. -/
def tableLength (r : ParcRegs) (what : Nat) : Nat :=
  match what with
  | 0 => r.nodes.length | 1 => r.segs.length | 2 => r.npar | _ => r.watch.length

/-- The records of a table that a PARC_READ names, from FIRST on. -/
def tableBytes (s : State) (what first n : Nat) : Bytes :=
  match what with
  | 0 => (((s.parc.nodes.drop first).take n).map nodeBytes).flatten
  | 1 => (((s.parc.segs.drop first).take n).map segBytes).flatten
  | 2 => ((List.range n).map fun i => poolBytes s (first + i)).flatten
  | _ => (((s.parc.watch.drop first).take n).map watchBytes).flatten

theorem tableBytes_length {s : State} {what first n : Nat} (hinside : first + n ≤ tableLength s.parc what) :
    (tableBytes s what first n).length = (if what = 1 then 32 else 16) * n := by
  have htaken : ∀ {α : Type} (l : List α), first + n ≤ l.length → ((l.drop first).take n).length = n := fun l hl => by
    rw [List.length_take, List.length_drop]
    omega
  match what with
  | 0 => rw [tableBytes, records_length nodeBytes_length, htaken _ hinside]; rfl
  | 1 => rw [tableBytes, records_length segBytes_length, htaken _ hinside]; rfl
  | 2 => rw [tableBytes, records_length fun i => poolBytes_length s (first + i), List.length_range]; rfl
  | w + 3 =>
    rw [if_neg (by omega)]
    exact (records_length watchBytes_length _).trans (congrArg (16 * ·) (htaken _ hinside))

section Read

variable {d : HostDesc} {s : State} (hd : d ∈ (ringGet s d.ring).started)

theorem effParcRead_idle (hidle : s.parc.step = none) : effParcRead d s =
    if 3 < d8 d 16 ∨ tableLength s.parc (d8 d 16) < d32 d 20 + d32 d 24 then finParc d stRANGE 0 s
    else copyTry parcReadEnd (decide (d32 d 24 ≤ 1)) { desc := d } s := by
  simp only [effParcRead, hidle, Option.isSome_none, Bool.false_eq_true, if_false]
  rfl

include hd

theorem parcRead_busy (hstep : s.parc.step.isSome = true) : RefusedByParc d stBUSY 0 s (effParcRead d s) := by
  have heff : effParcRead d s = finParc d stBUSY 0 s := if_pos hstep
  rw [heff]
  exact finParc_refused hd (by decide) 0

theorem parcRead_range (hidle : s.parc.step = none)
    (hout : 3 < d8 d 16 ∨ tableLength s.parc (d8 d 16) < d32 d 20 + d32 d 24) :
    RefusedByParc d stRANGE 0 s (effParcRead d s) := by
  rw [effParcRead_idle hidle, if_pos hout]
  exact finParc_refused hd (by decide) 0

/-- In an open host slot a copy that no capture has overtaken delivers the records. -/
theorem parcReadEnd_delivers {c : CopyRun} (hc : c.desc = d) (hspoiled : c.spoiled = false) (hopen : slotOpen s = true) :
    let t := parcReadEnd c s
    let b := tableBytes s (d8 d 16) (d32 d 20) (d32 d 24)
    t.parc = s.parc ∧ Answered d stOK b.length t ∧ .hostWrite (dAddr d) b ∈ t.out := by
  intro t b
  have hopen' : slotOpen { s with free := s.free + 2 * 65536 } = true := hopen
  have ht : t = complete d stOK b.length (emit (.hostWrite (dAddr d) b) { s with free := s.free + 2 * 65536 }) := by
    simp only [t, parcReadEnd, hc, hspoiled, Bool.false_eq_true, if_false, finParc_ok, toHost, hopen', if_true]
    rfl
  rw [ht, complete_parc, complete_out]
  exact ⟨rfl, answered_complete (s := emit _ { s with free := _ }) _ _ hd, List.mem_cons_self⟩

/-- The records go to the host, or the copy goes on in a later host slot. -/
theorem parcRead_copies (hidle : s.parc.step = none) (hwhat : d8 d 16 ≤ 3)
    (hinside : d32 d 20 + d32 d 24 ≤ tableLength s.parc (d8 d 16)) : let t := effParcRead d s
    t.parc = s.parc ∧
      ((slotOpen s = true ∧ Answered d stOK ((if d8 d 16 = 1 then 32 else 16) * d32 d 24) t ∧
          ∃ m, Delivered (dAddr d) (tableBytes { s with free := m } (d8 d 16) (d32 d 20) (d32 d 24)) s t) ∨
        (¬(slotOpen s = true ∧ d32 d 24 ≤ 1) ∧ t.hif.waiting = s.hif.waiting ∧
          t.hif.copies = s.hif.copies ++ [{ desc := d, begun := slotOpen s }])) := by
  intro t
  have ht : t = copyTry parcReadEnd (decide (d32 d 24 ≤ 1)) { desc := d } s := by
    simp only [t, effParcRead_idle hidle]
    exact if_neg (by omega)
  rcases copyTry_cases parcReadEnd (decide (d32 d 24 ≤ 1)) d s with ⟨hopen, m, hcopy⟩ | ⟨hlater, m, hcopy⟩
  · obtain ⟨hparc, hanswered, hout⟩ :=
      parcReadEnd_delivers (d := d) (c := { desc := d, begun := true }) (s := { s with free := m }) hd rfl rfl hopen
    rw [tableBytes_length (s := { s with free := m }) hinside] at hanswered
    rw [← hcopy, ← ht] at hparc hanswered hout
    exact ⟨hparc, .inl ⟨hopen, hanswered, m, fun _ => hout, fun hclosed => absurd (hopen.symm.trans hclosed) (by decide)⟩⟩
  · rw [ht, hcopy]
    refine ⟨rfl, .inr ⟨fun ⟨hopen, hfew⟩ => hlater ⟨hopen, decide_eq_true hfew⟩, rfl, rfl⟩⟩

end Read

/-- A parcel in the pool records that a PARC_READ delivers. -/
theorem tableBytes_parcel {s : State} {first n i : Nat} {g : Segment} (hi : i < n) (hg : g ∈ s.parc.segs)
    (hbase : g.pbase = first + i)
    (hown : ∀ h ∈ s.parc.segs, h ≠ g → first + i < h.pbase ∨ h.pbase + h.pcap ≤ first + i) (hhead : g.head = 0)
    (hsome : 0 < g.parcels.length) (hcap : 0 < g.pcap) :
    slice (tableBytes s 2 first n) (16 * i) 16 = parcelBytes (g.parcels.getD 0 {}) := by
  have hrec := slice_records (fun i => poolBytes_length s (first + i)) (l := List.range n) (i := i) (by simpa using hi)
  rw [List.getElem_range, ← hbase] at hrec
  rw [← hbase] at hown
  exact hrec.trans (poolBytes_head hg hown hhead hsome hcap)

theorem gives_parcSet {d : HostDesc} {s : State} {P : State → Prop} (hreach : Reaches 0x30 d s)
    (h : ∀ g c, d ∈ (ringGet (withStarted g c s) d.ring).started → P (effParcSet d (withStarted g c s))) :
    Gives (.parcSet d) s P :=
  ⟨_, rfl, arrive_starts hreach h⟩

theorem gives_parcRead {d : HostDesc} {s : State} {P : State → Prop} (hreach : Reaches 0x31 d s)
    (h : ∀ g c, d ∈ (ringGet (withStarted g c s) d.ring).started → P (effParcRead d (withStarted g c s))) :
    Gives (.parcRead d) s P :=
  ⟨_, rfl, arrive_starts hreach h⟩

/-! ### The clauses of O40 -/

/-- Settles O40: a step captures its inputs, commits whole or not at all, and is published in its frame; a load and the
descriptors change what they name or are refused by their first failed check. -/
theorem parcelStepsCommitAndPublish : Obligations.ParcelStepsCommitAndPublish := by
  refine ⟨fun i e k s hslot hlong hmaster htask hown => ⟨fun hcom => ?_, fun hcom hruns hf hen hfirst hframe hlen => ⟨?_, ?_⟩⟩,
    fun c s hstep => ⟨?_, ?_⟩, fun s hcfg => ⟨?_, ?_⟩, fun m k e s hslot hpub hdone htask => ⟨?_, ?_⟩, fun d s => ⟨?_, ?_⟩⟩
  · exact gives_longSlot_parc hslot hlong hmaster (parcLong_committed hcom i e)
  · intro hcfg hin
    have hdue : StepDue i e k s := ⟨htask, hown, hcom, hruns, hf, hen, hfirst, hframe⟩
    obtain ⟨nodes, ambs, watches, subst, bad, badin, hpimg, hparc⟩ := parcLong_captures hdue hcfg hin
    obtain ⟨hsegs, hamb, hwatch, hsame⟩ := takeInputs_spec hlen
    have hbeside := besidePairs_foldl (earlierPairs s) (flowsTaken s)
    refine gives_longSlot_parc hslot hlong hmaster ?_
    rw [hparc]
    exact ⟨rfl, rfl, rfl, rfl, rfl, hpimg, rfl, rfl, rfl, _, rfl, (congrArg PCapture.mfn hbeside :),
      (congrArg PCapture.wc hbeside :), rfl, (congrArg PCapture.noPub hbeside :), (congrArg PCapture.pairs hbeside :), (congrArg PCapture.took hbeside :),
      hsegs, hamb, hwatch, hsame, fun p hp => takeInputs_onePair hlen hp⟩
  · intro hcfg hidle
    have hdue : StepDue i e k s := ⟨htask, hown, hcom, hruns, hf, hen, hfirst, hframe⟩
    refine gives_longSlot_parc hslot hlong hmaster ?_
    rw [parcLong_notReady hdue hcfg hidle]
    exact ⟨counted_of_blk (u := { s with parc := _ }) rfl rfl, rfl, rfl⟩
  · intro hok
    refine gives_parcelStepCommit hstep hok ⟨rfl, rfl, rfl, rfl, rfl, rfl, ?_, ?_, rfl, ?_, ?_, ?_⟩
    · exact (congrArg List.length (parcStep_nodes s.parc c)).trans (by simp)
    · exact (newHeads_length ..).trans ((congrArg List.length (parcStep_segs s.parc c)).trans (List.length_map ..))
    · exact fun j hj => parcStep_node s.parc c hj
    · exact fun j hj => parcStep_seg s.parc c s.free hj
    · exact fun j hj hlen hresid => stepCommitted_watch hj hlen hresid
  · intro hok
    refine gives_parcelStepCommit_discarded hstep hok ?_
    rw [parcGiveUp_eq hstep]
    exact ⟨rfl, counted_of_blk (u := { s with parc := _ }) rfl rfl, rfl⟩
  · intro herr
    obtain ⟨hsegs, hnodes, hparcels⟩ := parseParc_spec s.parc.loading
    exact gives_parccfgLoad_ready hcfg herr ⟨rfl, rfl, rfl, hsegs, hnodes, rfl, rfl, hparcels⟩
  · intro herr
    refine gives_parccfgLoad_failed hcfg herr ?_
    rw [count_parc, configRefused_parc]
    refine ⟨rfl, rfl, rfl, inLantern_configRefused s _, ?_⟩
    rw [counted_count, if_pos ⟨rfl, rfl⟩, cntOf_configRefused]
  · exact fun hmfn => gives_pubSlot_parc hslot hpub (parcPub_waits hdone htask hmfn)
  · intro hmfn
    refine ⟨fun hoff => gives_pubSlot_parc hslot hpub ?_,
      fun b hen hf hruns hpubs hp htyp howner hqual hw => gives_pubSlot_parc hslot hpub ?_⟩
    · rw [parcPub_barred hdone htask hmfn hoff]
      exact ⟨rfl, rfl⟩
    · rw [parcPub_publishes hdone htask hmfn hen hf hruns hpubs hp htyp howner hqual hw]
      obtain ⟨hvalue, hquality⟩ := workSet_same (publishing s) b.point (mulF (parcOutput s.parc b) b.scale)
        (if s.parc.doneSubst then qSUBST else qGOOD)
      have htyp' : (workPt (publishing s) b.point).typ = 7 := htyp
      rw [htyp'] at hvalue
      exact ⟨hvalue, hquality, rfl, fun p hne => workPt_workPut_ne _ _ hne, rfl⟩
  · intro hreach hone halign
    refine ⟨fun hcfg hgood hroom hout => gives_parcSet hreach fun g c hd => ?_,
      fun hcfg hgood hroom hin hopen => gives_parcSet hreach fun g c hd => ?_,
      fun hcfg hgood hfull => gives_parcSet hreach fun g c hd => ?_, fun hcfg hbad => gives_parcSet hreach fun g c hd => ?_,
      fun hcfg => gives_parcSet hreach fun g c hd => ?_⟩
    · rw [parcSet_waits (s := withStarted g c s) hone halign hcfg hgood hroom hout]
      exact ⟨rfl, rfl, rfl⟩
    · exact parcSet_appends (s := withStarted g c s) hone halign hd hcfg hgood hroom hin hopen
    · exact parcSet_busy (s := withStarted g c s) hone halign hd hcfg hgood hfull
    · exact parcSet_range (s := withStarted g c s) hone halign hd hcfg hbad
    · exact parcSet_notReady (s := withStarted g c s) hd hcfg
  · intro hreach len
    refine ⟨fun hidle hwhat hinside => gives_parcRead hreach fun g c hd => ?_,
      fun hidle hout => gives_parcRead hreach fun g c hd => ?_, fun hstep => gives_parcRead hreach fun g c hd => ?_⟩
    · obtain ⟨hparc, hread⟩ := parcRead_copies (s := withStarted g c s) hd hidle hwhat hinside
      refine ⟨hparc, hread.imp_left fun ⟨hopen, hanswered, m, hdelivered⟩ => ⟨hopen, hanswered, ?_, ?_, fun hw => ?_, ?_⟩⟩
      · exact fun hw => by rwa [hw] at hdelivered
      · exact fun hw => by rwa [hw] at hdelivered
      · have hlength := tableBytes_length (s := { withStarted g c s with free := m }) hinside
        rw [hw] at hdelivered hlength
        exact ⟨_, hlength, hdelivered, fun i g hi hg hbase hown hhead hsome hcap =>
          tableBytes_parcel hi hg hbase hown hhead hsome hcap⟩
      · exact fun hw => by rwa [hw] at hdelivered
    · exact parcRead_range (s := withStarted g c s) hd hidle hout
    · exact parcRead_busy (s := withStarted g c s) hd hstep

end Sys2Proof.Proofs
end

section
/-! PROOFS. Point writes: the tests of R515 in their order, and the writes that PST and PSTQ make (R217, R219, R220). -/

namespace Sys2Proof.Proofs

open Sys2Proof.Machine Sys2Proof.Laws

/-! ### A new value of a point (R177) -/

theorem workPt_workSet_ne (s : State) {p j : Nat} (v : W64) (q : BitVec 3) (h : j ≠ p) : workPt (workSet s p v q) j = workPt s j :=
  workPt_workPut_ne s _ h

/-- STAMP follows a change of value or quality. -/
theorem workSet_stamp (s : State) (p : Nat) (v : W64) (q : BitVec 3) : (workPt (workSet s p v q) p).stamp =
    if (workPt s p).value = typeBits (workPt s p).typ v ∧ (workPt s p).qual = q then (workPt s p).stamp
    else BitVec.ofNat 32 s.sched.mfn.toNat := by
  rw [workSet, workPt_workPut, ptSet]
  split_ifs <;> rfl

/-! ### The tests of a point write (R515) -/

/-- A point write by a cell engine, a loop or an axis to an OUTPUT or MEMORY point, outside the open span (R172). -/
abbrev SpanClosed (m p : Nat) (s : State) : Prop :=
  2 ≤ m ∧ m ≤ 14 ∧ ((workPt s p).cls = 1 ∨ (workPt s p).cls = 2) ∧ s.pimg.openSpan = false

section Tests

variable {m p : Nat} {s : State} (v : W64) (q : Nat)

theorem pointWrite_undefined (m : Nat) (h : 131072 ≤ p ∨ (workPt s p).typ = 0) : pointWrite m p v q s = count bCELL 2 s :=
  if_pos h

variable (hp : p < 131072) (htyp : (workPt s p).typ ≠ 0)
include hp htyp

/-- A defined point is left to the tests of its owner, its span, its force and the quality. -/
theorem pointWrite_defined (m : Nat) : pointWrite m p v q s =
    if (workPt s p).owner.toNat ≠ m then count bCELL 2 s
    else if SpanClosed m p s then count bCELL 1 s
    else if (workPt s p).qual = qFORCED then s
    else if q = 0 ∨ q = 1 ∨ q = 2 ∨ q = 4 then workSet s p v (BitVec.ofNat 3 q)
    else count bCELL 2 (workSet s p v qBAD) := by
  have hdef : ¬(p ≥ 131072 ∨ (workPt s p).typ = 0) := not_or.mpr ⟨Nat.not_le.mpr hp, htyp⟩
  simp only [pointWrite, if_neg hdef, SpanClosed, Bool.not_eq_true']

theorem pointWrite_foreign (h : (workPt s p).owner.toNat ≠ m) : pointWrite m p v q s = count bCELL 2 s := by
  rw [pointWrite_defined v q hp htyp, if_pos h]

variable (howner : (workPt s p).owner.toNat = m)
include howner

theorem pointWrite_closed (h : SpanClosed m p s) : pointWrite m p v q s = count bCELL 1 s := by
  rw [pointWrite_defined v q hp htyp, if_neg (not_not_intro howner), if_pos h]

variable (hspan : ¬SpanClosed m p s)
include hspan

theorem pointWrite_forced (h : (workPt s p).qual = qFORCED) : pointWrite m p v q s = s := by
  rw [pointWrite_defined v q hp htyp, if_neg (not_not_intro howner), if_neg hspan, if_pos h]

variable (hfree : (workPt s p).qual ≠ qFORCED)
include hfree

theorem pointWrite_unknownCode (h : ¬(q = 0 ∨ q = 1 ∨ q = 2 ∨ q = 4)) :
    pointWrite m p v q s = count bCELL 2 (workSet s p v qBAD) := by
  rw [pointWrite_defined v q hp htyp, if_neg (not_not_intro howner), if_neg hspan, if_neg hfree, if_neg h]

theorem pointWrite_stores (h : q = 0 ∨ q = 1 ∨ q = 2 ∨ q = 4) :
    pointWrite m p v q s = workSet s p v (BitVec.ofNat 3 q) := by
  rw [pointWrite_defined v q hp htyp, if_neg (not_not_intro howner), if_neg hspan, if_neg hfree, if_pos h]

end Tests

/-- One count of CELL leaves every other counter of CELL alone. -/
theorem cntOf_count_cell (n : Nat) (s : State) (j : Nat) :
    cntOf (count bCELL n s) bCELL j = if j = n then satInc (cntOf s bCELL n) else cntOf s bCELL j := by
  rw [counted_count]
  simp

/-! ### PST and PSTQ (R217, R219, R220) -/

/-- Whether and what a point write stores depends on the process image and SCHED, not on MC1. -/
theorem pointWrite_mc1 (m p : Nat) (v : W64) (q : Nat) (s : State) (r : Mc1) :
    pointWrite m p v q { s with mc1 := r } = { pointWrite m p v q s with mc1 := r } := by
  have hpt : workPt { s with mc1 := r } p = workPt s p := rfl
  simp only [pointWrite, hpt]
  split_ifs <;> rfl

/-- Inside its windows, and for a cell engine inside its slot, an engine makes its access (R65, R66, R220). -/
theorem ptAccess_inside {c : Core} {w : Bool} {addr : Nat} {s : State} (hw : inWindow s (coreMaster c) addr 16 w = true)
    (hslot : ∀ e, c = .cell e → inSlotOf s (coreMaster c) = true) (ok : State → State) : ptAccess c w addr ok s = ok s := by
  unfold ptAccess
  extract_lets m
  rw [if_pos hw]
  cases c with
  | cell e => exact if_pos (hslot e rfl)
  | mc1 => rfl

/-- The point that PST names is inside the engine's windows, or beyond every index. -/
def PstInside (c : Core) (i : Nat) (s : State) : Prop :=
  i < 131072 → inWindow s (coreMaster c) (viewOut i) 16 true = true ∧ ∀ e, c = .cell e → inSlotOf s (coreMaster c) = true

theorem pstEff_inside {x : Ctl} {xr : BitVec 6} {pt : BitVec 17} {s : State} (h : PstInside x.core (ptIndex x.core s xr pt) s)
    (d : BitVec 6) (q : Nat) :
    pstEff x d xr q pt s = pointWrite (coreMaster x.core) (ptIndex x.core s xr pt) (getG x.core s d) q s := by
  unfold pstEff
  extract_lets i
  by_cases hi : 131072 ≤ i
  · rw [if_pos hi, pointWrite_undefined _ _ _ (.inl hi)]
  · obtain ⟨hw, hslot⟩ := h (Nat.lt_of_not_le hi)
    rw [if_neg hi, ptAccess_inside hw hslot]

/-- Before its effect an instruction moves MC1 alone. -/
theorem preStep_mc1 (c : Core) (n : Nat) (s : State) : ∃ r, preStep c n s = { s with mc1 := r } := by
  cases c <;> exact ⟨_, rfl⟩

theorem postStep_keeps (c : Core) (n : Nat) (s : State) : (postStep c n s).pimg = s.pimg ∧ (postStep c n s).blk = s.blk := by
  cases c <;> exact ⟨rfl, rfl⟩

/-- A point instruction's write is the point write of R515 in the state in which it issues. -/
theorem pst_writes {x : Ctl} {xr : BitVec 6} {pt : BitVec 17} {s : State} (h : PstInside x.core (ptIndex x.core s xr pt) s)
    (d : BitVec 6) (q cyc : Nat) :
    let t := postStep x.core cyc (pstEff x d xr q pt (preStep x.core cyc s))
    let w := pointWrite (coreMaster x.core) (ptIndex x.core s xr pt) (getG x.core s d) q s
    t.pimg = w.pimg ∧ t.blk = w.blk := by
  intro t w
  obtain ⟨r, hpre⟩ := preStep_mc1 x.core cyc s
  have hindex : ptIndex x.core (preStep x.core cyc s) xr pt = ptIndex x.core s xr pt := by
    rw [ptIndex, getG_preStep, ptIndex]
  have hinside : PstInside x.core (ptIndex x.core s xr pt) (preStep x.core cyc s) := hpre ▸ h
  have heff : pstEff x d xr q pt (preStep x.core cyc s) = { w with mc1 := r } := by
    rw [pstEff_inside (hindex ▸ hinside), hindex, getG_preStep, hpre]
    exact pointWrite_mc1 ..
  simp only [t, heff]
  exact postStep_keeps x.core cyc { w with mc1 := r }

/-- Settles O10: the first failed test of a point write decides, and PST and PSTQ make such writes. -/
theorem pointWritesAreTestedInOrder : Obligations.PointWritesAreTestedInOrder := by
  refine ⟨fun m i v k s => ?_, fun x s d xr q pt hissue => ?_⟩
  · intro r t cnt others counted span
    have hcount : ∀ n, t = count bCELL n s → counted n ∧ workPt t i = r := fun n ht => by
      simp only [counted, others, cnt, ht]
      exact ⟨⟨fun _ _ => rfl, cntOf_count_cell n s⟩, rfl⟩
    refine ⟨fun hundef => hcount 2 (pointWrite_undefined v k m hundef), fun hi htyp => ⟨fun hforeign => ?_,
      fun howner hspan => ?_, fun howner hspan hforced => ?_, fun howner hspan hfree hcode => ?_,
      fun howner hspan hfree hcode => ?_⟩⟩
    · exact hcount 2 (pointWrite_foreign v k hi htyp hforeign)
    · exact hcount 1 (pointWrite_closed v k hi htyp howner hspan)
    · exact pointWrite_forced v k hi htyp howner hspan hforced
    · obtain ⟨hvalue, hqual⟩ := workSet_same s i v qBAD
      have ht : t = count bCELL 2 (workSet s i v qBAD) := pointWrite_unknownCode v k hi htyp howner hspan hfree hcode
      simp only [counted, others, cnt, ht]
      exact ⟨⟨fun j => workPt_workSet_ne s v qBAD, cntOf_count_cell 2 (workSet s i v qBAD)⟩, hvalue, hqual⟩
    · obtain ⟨hvalue, hqual⟩ := workSet_same s i v (BitVec.ofNat 3 k)
      have ht : t = workSet s i v (BitVec.ofNat 3 k) := pointWrite_stores v k hi htyp howner hspan hfree hcode
      simp only [others, cnt, ht]
      exact ⟨fun j => workPt_workSet_ne s v _, fun _ => rfl, hvalue, hqual, workSet_stamp s i v _⟩
  · intro i w same hinside
    refine ⟨⟨_, insn_issues hissue .., pst_writes hinside d 0 4⟩, ⟨_, insn_issues hissue .., ?_⟩⟩
    rw [getG_preStep]
    exact pst_writes hinside d _ 4

end Sys2Proof.Proofs
end

section
/-! PROOFS. The point descriptors PT_READ, PT_WRITE and PT_FORCE (R194 to R197). -/

namespace Sys2Proof.Proofs

open Sys2Proof.Machine Sys2Proof.Laws

/-! ### Completions of the point and cell descriptors (R194) -/

/-- The descriptor has completed with the status of a failed check, CELL.CNT[5] has counted it, and the process image and
the engines are as they were. -/
def RefusedByCell (d : HostDesc) (st data : Nat) (s t : State) : Prop :=
  Answered d st data t ∧ Counted bCELL 5 s t ∧ t.pimg = s.pimg ∧ t.cell = s.cell

theorem complete_cell (d : HostDesc) (st data : Nat) (s : State) : (complete d st data s).cell = s.cell :=
  (congrArg State.cell (complete_frame d st data s) :)

theorem finCell_refused {d : HostDesc} {s : State} (hd : d ∈ (ringGet s d.ring).started) {st : Nat} (h : st ∈ cellCounted)
    (data : Nat) : RefusedByCell d st data s (finCell d st data s) := by
  have hst : st ≠ stOK := fun he => absurd (he ▸ h) (by decide)
  have hframe := complete_refused_frame (d := d) (data := data) hst (count bCELL 5 s)
  rw [finCell, finish_listed h]
  exact ⟨answered_complete st data (s := count bCELL 5 s) hd, counted_of_blk (u := s) rfl (congrArg State.blk hframe :),
    complete_pimg .., complete_cell ..⟩

theorem finCell_ok (d : HostDesc) (data : Nat) (s : State) : finCell d stOK data s = complete d stOK data s := rfl

/-- What holds of a descriptor's effect on every unit in which it is started, its row gives. -/
theorem gives_arrive {i : Instr} {op : Nat} {d : HostDesc} {s : State} {eff : HostDesc → State → State} {P : State → Prop}
    (hexec : exec i s = .next (arrive eff d s)) (hreach : Reaches op d s)
    (h : ∀ g c, d ∈ (ringGet (withStarted g c s) d.ring).started → P (eff d (withStarted g c s))) : Gives i s P :=
  ⟨_, hexec, arrive_starts hreach h⟩

/-! ### Bytes for host memory (R380) -/

theorem toHost_started (a : W64) (b : Bytes) (s : State) (r : Nat) : ringGet (toHost a b s) r = ringGet s r := by
  unfold toHost
  split_ifs <;> rfl

theorem toHost_keeps (a : W64) (b : Bytes) (s : State) : (toHost a b s).pimg = s.pimg ∧ (toHost a b s).cell = s.cell := by
  unfold toHost
  split_ifs <;> exact ⟨rfl, rfl⟩

theorem complete_writes (d : HostDesc) (st data : Nat) (s : State) : (complete d st data s).hif.writes = s.hif.writes := by
  rw [complete_hif]
  split_ifs <;> rfl

/-- Bytes that a completing descriptor sends are delivered in an open host slot, or wait for the next one. -/
theorem delivered_complete (a : W64) (b : Bytes) (d : HostDesc) (st data : Nat) (s : State) :
    Delivered a b s (complete d st data (toHost a b s)) := by
  refine ⟨fun hopen => ?_, fun hclosed => ?_⟩
  · rw [complete_out, toHost, if_pos hopen]
    exact List.mem_cons_self
  · rw [complete_writes, toHost, hclosed, if_neg Bool.false_ne_true]
    exact List.mem_append_right _ (List.mem_singleton.mpr rfl)

/-- A descriptor that sends bytes and completes OK: its entry, its bytes, and what it leaves alone. -/
theorem complete_sends {d : HostDesc} {s : State} (hd : d ∈ (ringGet s d.ring).started) (b : Bytes) (data : Nat) :
    let t := finCell d stOK data (toHost (dAddr d) b s)
    Answered d stOK data t ∧ Delivered (dAddr d) b s t ∧ t.pimg = s.pimg ∧ t.cell = s.cell := by
  intro t
  obtain ⟨hpimg, hcell⟩ := toHost_keeps (dAddr d) b s
  exact ⟨answered_complete (s := toHost (dAddr d) b s) stOK data (by rwa [toHost_started]), delivered_complete ..,
    (complete_pimg ..).trans hpimg, (complete_cell ..).trans hcell⟩

section Points

variable {d : HostDesc} {s : State}

/-! ### PT_READ (R195) -/

/-- What a PT_READ names: its first record in the view, and the records that HIF reads. -/
def readStart (d : HostDesc) : Nat := if d8 d 16 = 0 then viewIn (d32 d 20) else viewOut (d32 d 20)
def readRecords (d : HostDesc) (s : State) : Bytes :=
  ((List.range (d32 d 24)).map fun i => ptBytes (readPt s 17 (d8 d 16 == 1) (d32 d 20 + i))).flatten

theorem ptRead_range (hd : d ∈ (ringGet s d.ring).started) (hout : 1 < d8 d 16 ∨ d32 d 24 = 0 ∨ 131072 < d32 d 20 + d32 d 24) :
    RefusedByCell d stRANGE 0 s (effPtRead d s) := by
  have heff : effPtRead d s = finCell d stRANGE 0 s := if_pos hout
  rw [heff]
  exact finCell_refused hd (by decide) 0

/-- Within HIF's windows the records go to the host, or the copy goes on in a later host slot. -/
theorem ptRead_copies (hd : d ∈ (ringGet s d.ring).started) (hf : frozenM s 17 = false) (hview : d8 d 16 ≤ 1)
    (hcount : 0 < d32 d 24) (hin : d32 d 20 + d32 d 24 ≤ 131072)
    (hw : inWindow s 17 (readStart d) (16 * d32 d 24) false = true) : let t := effPtRead d s
    t.pimg = s.pimg ∧
      ((slotOpen s = true ∧ Answered d stOK (16 * d32 d 24) t ∧ Delivered (dAddr d) (readRecords d s) s t) ∨
       (¬(slotOpen s = true ∧ d32 d 24 = 1) ∧ t.hif.copies = s.hif.copies ++ [{ desc := d, begun := slotOpen s }] ∧
        t.hif.waiting = s.hif.waiting)) := by
  intro t
  have ht : t = copyTry ptReadEnd (d32 d 24 == 1) { desc := d } s := by
    have hvalid : ¬(1 < d8 d 16 ∨ d32 d 24 = 0 ∨ 131072 < d32 d 20 + d32 d 24) := by omega
    exact (if_neg hvalid).trans (guarded_inside hf hw _)
  rcases copyTry_cases ptReadEnd (d32 d 24 == 1) d s with ⟨hopen, m, hcopy⟩ | ⟨hlater, m, hcopy⟩
  · obtain ⟨hanswered, hdelivered, hpimg, -⟩ :=
      complete_sends (s := { s with free := m }) hd (readRecords d s) (16 * d32 d 24)
    rw [ht, hcopy]
    exact ⟨hpimg, .inl ⟨hopen, hanswered, hdelivered⟩⟩
  · rw [ht, hcopy]
    exact ⟨rfl, .inr ⟨fun ⟨hopen, hone⟩ => hlater ⟨hopen, beq_iff_eq.mpr hone⟩, rfl, rfl⟩⟩

/-! ### PT_WRITE (R196) -/

theorem ptWriteBad_iff (r : Nat × Nat × W64) : ptWriteBad s r = true ↔
    (workPt s r.1).typ = 0 ∨ (workPt s r.1).owner ≠ 17 ∨ (r.2.1 ≠ 0 ∧ r.2.1 ≠ 4) := by
  simp [ptWriteBad, or_assoc]

section OneRecord

variable (hone : d32 d 20 = 1) (halign : d64 d 24 % 16 = 0)
include hone halign

/-- One record: an invalid one gives RANGE with its index, and a valid one is written in a host slot. -/
theorem effPtWrite_one : effPtWrite d s =
    if ptWriteBad s (ptRec d.buf 0) then finCell d stRANGE 0 s
    else inHostSlot d (fun u => let v := ptWriteAll [ptRec d.buf 0] u
      if frozenM v 17 then v else finCell d stOK 0 v) s := by
  have hvalid : ¬(1 = 0 ∨ 1 > 4096 ∨ d64 d 24 % 16 ≠ 0) := by omega
  have hrecs : ptRecs d.buf 1 = [ptRec d.buf 0] := rfl
  simp only [effPtWrite, hone, if_neg hvalid, hrecs, firstIdx]
  split_ifs <;> rfl

theorem ptWrite_range (hd : d ∈ (ringGet s d.ring).started) (hbad : ptWriteBad s (ptRec d.buf 0) = true) :
    RefusedByCell d stRANGE 0 s (effPtWrite d s) := by
  rw [effPtWrite_one hone halign, if_pos hbad]
  exact finCell_refused hd (by decide) 0

/-- Outside a host slot the record waits for the next one (R19). -/
theorem ptWrite_waits (hgood : ptWriteBad s (ptRec d.buf 0) = false) (hslot : s.hif.inSlot = false ∨ s.hif.closed = true) :
    effPtWrite d s = { s with hif := { s.hif with todo := s.hif.todo ++ [d] } } := by
  have hout : (s.hif.inSlot && !s.hif.closed) = false := by rcases hslot with h | h <;> simp [h]
  rw [effPtWrite_one hone halign, hgood, if_neg Bool.false_ne_true, inHostSlot, hout, if_neg Bool.false_ne_true]

/-- In a host slot the set-point takes value and quality, and the descriptor completes. -/
theorem ptWrite_writes (hd : d ∈ (ringGet s d.ring).started) (hf : frozenM s 17 = false)
    (hgood : ptWriteBad s (ptRec d.buf 0) = false) (hfree : (workPt s (ptRec d.buf 0).1).qual ≠ qFORCED)
    (hp : (ptRec d.buf 0).1 < 131072) (hin : s.hif.inSlot = true) (hopen : s.hif.closed = false)
    (hw : inWindow s 17 (viewOut (ptRec d.buf 0).1) 16 true = true) : let t := effPtWrite d s
    let r := ptRec d.buf 0
    Answered d stOK 0 t ∧ t.pimg = (workSet s r.1 r.2.2 (BitVec.ofNat 3 r.2.1)).pimg := by
  intro t r
  have hvalid : (workPt s r.1).typ ≠ 0 ∧ (workPt s r.1).owner = 17 ∧ (r.2.1 = 0 ∨ r.2.1 = 4) := by
    have hnot := mt (ptWriteBad_iff (s := s) r).mpr (Bool.eq_false_iff.mp hgood)
    tauto
  obtain ⟨htyp, howner, hcode⟩ := hvalid
  have hstores : ptWriteAll [r] s = workSet s r.1 r.2.2 (BitVec.ofNat 3 r.2.1) := by
    simp only [ptWriteAll, List.foldl_cons, List.foldl_nil, hf, Bool.false_eq_true, if_false]
    rw [guarded_inside hf hw]
    exact pointWrite_stores _ _ hp htyp (congrArg BitVec.toNat howner) (fun h => absurd h.2.1 (by decide)) hfree (by tauto)
  have ht : t = finCell d stOK 0 (workSet s r.1 r.2.2 (BitVec.ofNat 3 r.2.1)) := by
    have hf' : frozenM (workSet s r.1 r.2.2 (BitVec.ofNat 3 r.2.1)) 17 = false := hf
    have hslot : (s.hif.inSlot && !s.hif.closed) = true := by simp [hin, hopen]
    simp only [t, effPtWrite_one hone halign, hgood, Bool.false_eq_true, if_false, inHostSlot, hslot, if_true]
    rw [hstores, hf', if_neg Bool.false_ne_true]
  rw [ht, finCell_ok, complete_pimg]
  exact ⟨answered_complete (s := workSet s ..) _ _ hd, rfl⟩

/-! ### PT_FORCE (R197) -/

/-- One record: an invalid one gives RANGE with its index, and a valid one waits where 1,024 points stay forced at most. -/
theorem effPtForce_one : effPtForce d s =
    if ptForceBad s (ptRec d.buf 0) then finCell d stRANGE 0 s
    else if 1024 < (forcedAfter (s.pimg.forces.foldl (fun f x => forcedAfter f x.recs) (forcedNow s))
      [toForce (ptRec d.buf 0)]).length then finCell d stCAPACITY 0 s
    else { s with pimg := { s.pimg with forces := s.pimg.forces ++ [{ desc := d, recs := [toForce (ptRec d.buf 0)] }] } } := by
  have hvalid : ¬(1 = 0 ∨ 1 > 1024 ∨ d64 d 24 % 16 ≠ 0) := by omega
  have hrecs : ptRecs d.buf 1 = [ptRec d.buf 0] := rfl
  simp only [effPtForce, hone, if_neg hvalid, hrecs, firstIdx, List.map_cons, List.map_nil]
  cases ptForceBad s (ptRec d.buf 0) <;> rfl

theorem ptForce_range (hd : d ∈ (ringGet s d.ring).started) (hbad : ptForceBad s (ptRec d.buf 0) = true) :
    RefusedByCell d stRANGE 0 s (effPtForce d s) := by
  rw [effPtForce_one hone halign, if_pos hbad]
  exact finCell_refused hd (by decide) 0

omit hone halign in
/-- One record forces one point more at most. -/
theorem forcedAfter_one_length (f : List Nat) (r : ForceRec) : (forcedAfter f [r]).length ≤ f.length + 1 := by
  simp only [forcedAfter, List.foldl_cons, List.foldl_nil]
  split_ifs
  · exact Nat.le_succ _
  · exact Nat.le_refl _
  · exact Nat.le_succ_of_le (List.length_filter_le ..)

theorem ptForce_waits (hgood : ptForceBad s (ptRec d.buf 0) = false) (hnone : s.pimg.forces = [])
    (hroom : (forcedNow s).length < 1024) : effPtForce d s =
      { s with pimg := { s.pimg with forces := [{ desc := d, recs := [toForce (ptRec d.buf 0)] }] } } := by
  have hlen := forcedAfter_one_length (forcedNow s) (toForce (ptRec d.buf 0))
  rw [effPtForce_one hone halign, hgood, if_neg Bool.false_ne_true, hnone, List.foldl_nil, if_neg (by omega)]
  rfl

end OneRecord

end Points

end Sys2Proof.Proofs
end

section
/-! PROOFS. The cell descriptors CELL_MODE, CELL_STEP and CELL_READ (R198, R199), and O36. -/

namespace Sys2Proof.Proofs

open Sys2Proof.Machine Sys2Proof.Laws

/-! ### CELL_MODE (R198) -/

/-- The unit in which the engines of a list have a mode requested (R186). -/
def modesRequested (m : BitVec 2) (es : List Nat) (s : State) : State :=
  es.foldl (fun s e => engPut s e { engGet s e with req := some m }) s

theorem engGet_modesRequested (m : BitVec 2) (es : List Nat) (s : State) (k : Nat) : engGet (modesRequested m es s) k =
    if k ∈ es then { engGet s k with req := some m } else engGet s k := by
  induction es generalizing s with
  | nil => rfl
  | cons e es ih =>
    have hrest := ih (engPut s e { engGet s e with req := some m })
    rw [modesRequested, List.foldl_cons]
    refine hrest.trans ?_
    by_cases hk : k = e
    · subst hk
      simp
    · simp [hk, engGet_engPut_ne _ _ hk]

theorem modesRequested_hif (m : BitVec 2) (es : List Nat) (s : State) : (modesRequested m es s).hif = s.hif := by
  induction es generalizing s with
  | nil => rfl
  | cons e es ih => exact ih _

theorem mem_cellsIn {s : State} {mask k : Nat} : k ∈ cellsIn s mask ↔
    k < 8 ∧ mask.testBit k = true ∧ holdsSlots s (2 + k) = true := by
  simp [cellsIn, bit]

section Cells

variable {d : HostDesc} {s : State} (hd : d ∈ (ringGet s d.ring).started)
include hd

theorem cellMode_range (hmode : 2 < d8 d 17) : RefusedByCell d stRANGE 0 s (effCellMode d s) := by
  have heff : effCellMode d s = finCell d stRANGE 0 s := if_pos (.inl hmode)
  rw [heff]
  exact finCell_refused hd (by decide) 0

/-- The request is recorded for the engines in MASK that hold slots. -/
theorem cellMode_requests (hmode : d8 d 17 ≤ 2) {k : Nat} (hk : k ∈ cellsIn s (d8 d 16)) : let t := effCellMode d s
    Answered d stOK 0 t ∧ ∀ j, engGet t j =
      if j ∈ cellsIn s (d8 d 16) then { engGet s j with req := some (BitVec.ofNat 2 (d8 d 17)) } else engGet s j := by
  intro t
  have hsome : ¬(d8 d 17 > 2 ∨ (cellsIn s (d8 d 16)).isEmpty = true) :=
    not_or.mpr ⟨Nat.not_lt.mpr hmode, fun hempty => List.ne_nil_of_mem hk (List.isEmpty_iff.mp hempty)⟩
  have ht : t = complete d stOK 0 (modesRequested (BitVec.ofNat 2 (d8 d 17)) (cellsIn s (d8 d 16)) s) := if_neg hsome
  rw [ht]
  refine ⟨answered_complete _ _ (by rwa [ringGet, modesRequested_hif]), fun j => ?_⟩
  rw [← engGet_modesRequested, engGet, engGet, complete_cell]

/-! ### CELL_STEP (R198) -/

theorem cellStep_notReady (he : d8 d 16 ≤ 7) (hmode : (engGet s (d8 d 16)).mode ≠ 2) :
    RefusedByCell d stNOT_READY 0 s (effCellStep d s) := by
  have heff : effCellStep d s = finCell d stNOT_READY 0 s := by
    rw [effCellStep, if_neg (Nat.not_lt.mpr he), if_pos hmode]
  rw [heff]
  exact finCell_refused hd (by decide) 0

omit hd in
/-- In HOLD a step of a task of the engine waits for its task's slot. -/
theorem cellStep_waits (he : d8 d 16 ≤ 7) (hmode : (engGet s (d8 d 16)).mode = 2)
    (htask : (taskOf (engGet s (d8 d 16)) (d16 d 20)).isSome = true) (hstep : (engGet s (d8 d 16)).step = none)
    (hreads : (engGet s (d8 d 16)).reads = []) :
    effCellStep d s = engPut s (d8 d 16) { engGet s (d8 d 16) with step := some d } := by
  have hknown : ¬(taskOf (engGet s (d8 d 16)) (d16 d 20)).isNone = true := by
    rw [Option.isNone_iff_eq_none]
    exact Option.isSome_iff_ne_none.mp htask
  have hidle : ¬((engGet s (d8 d 16)).step.isSome || !(engGet s (d8 d 16)).reads.isEmpty) = true := by simp [hstep, hreads]
  rw [effCellStep, if_neg (Nat.not_lt.mpr he), if_neg (not_not_intro hmode), if_neg hknown, if_neg hidle]

/-! ### CELL_READ (R199) -/

theorem cellRead_busy (he : d8 d 16 ≤ 7) (hmode : (engGet s (d8 d 16)).mode = 1) :
    RefusedByCell d stBUSY 0 s (effCellRead d s) := by
  have heff : effCellRead d s = finCell d stBUSY 0 s := by
    rw [effCellRead, if_neg (Nat.not_lt.mpr he), if_pos hmode]
  rw [heff]
  exact finCell_refused hd (by decide) 0

omit hd in
/-- In a stepped cycle the read waits for the cycle's end. -/
theorem cellRead_waits (he : d8 d 16 ≤ 7) (hmode : (engGet s (d8 d 16)).mode ≠ 1) (hcyc : (engGet s (d8 d 16)).inCyc = true) :
    effCellRead d s = engPut s (d8 d 16) { engGet s (d8 d 16) with reads := (engGet s (d8 d 16)).reads ++ [d] } := by
  rw [effCellRead, if_neg (Nat.not_lt.mpr he), if_neg hmode, if_pos hcyc]

theorem cellRead_delivers (he : d8 d 16 ≤ 7) (hmode : (engGet s (d8 d 16)).mode ≠ 1)
    (hcyc : (engGet s (d8 d 16)).inCyc = false) (hin : d32 d 20 + d32 d 24 ≤ 262144) : let t := effCellRead d s
    Answered d stOK (d32 d 24) t ∧
      Delivered (dAddr d) (tblRange (engGet s (d8 d 16)).data (d32 d 20) (d32 d 24) 0) s t ∧ t.cell = s.cell := by
  intro t
  have ht : t = finCell d stOK (d32 d 24)
      (toHost (dAddr d) (tblRange (engGet s (d8 d 16)).data (d32 d 20) (d32 d 24) 0) s) := by
    simp only [t, effCellRead, if_neg (Nat.not_lt.mpr he), if_neg hmode, hcyc, Bool.false_eq_true, if_false]
    exact if_neg (Nat.not_lt.mpr hin)
  obtain ⟨hanswered, hdelivered, -, hcell⟩ :=
    complete_sends hd (tblRange (engGet s (d8 d 16)).data (d32 d 20) (d32 d 24) 0) (d32 d 24)
  rw [ht]
  exact ⟨hanswered, hdelivered, hcell⟩

end Cells

/-! ### The clauses of O36 -/

/-- Settles O36: each point and cell descriptor does what its fields name, or is refused and counted by its first failed
check. -/
theorem pointAndCellDescriptors : Obligations.PointAndCellDescriptors := by
  intro d s refused n first count record p w e g
  refine ⟨fun hreach hf => ⟨fun hview hcount hin hw => gives_arrive rfl hreach fun _ _ hd => ?_,
      fun hout => gives_arrive rfl hreach fun _ _ hd => ?_⟩,
    fun hreach hf hone halign => ?_, fun hreach hone halign => ?_,
    fun hreach => ⟨fun hmode ⟨k, hk⟩ => gives_arrive rfl hreach fun g c hd => ?_,
      fun hmode => gives_arrive rfl hreach fun _ _ hd => ?_⟩,
    fun hreach he => ⟨fun hmode htask hstep hreads => gives_arrive rfl hreach fun g c hd => ?_,
      fun hmode => gives_arrive rfl hreach fun _ _ hd => ?_⟩,
    fun hreach he => ⟨fun hmode hcyc => gives_arrive rfl hreach fun g c hd => ?_,
      fun hmode hcyc hin => gives_arrive rfl hreach fun _ _ hd => ?_,
      fun hmode => gives_arrive rfl hreach fun _ _ hd => ?_⟩⟩
  · exact ptRead_copies hd hf hview hcount hin hw
  · exact ptRead_range hd hout
  · intro q
    have hbad : ptWriteBad s (ptRec d.buf 0) = true ↔ w.typ = 0 ∨ w.owner ≠ 17 ∨ (q ≠ 0 ∧ q ≠ 4) := ptWriteBad_iff _
    have hgood : w.typ ≠ 0 → w.owner = 17 → q = 0 ∨ q = 4 → ptWriteBad s (ptRec d.buf 0) = false := fun htyp howner hcode =>
      Bool.eq_false_iff.mpr fun h => by
        have hinvalid := hbad.mp h
        tauto
    refine ⟨fun htyp howner hcode hslot => gives_arrive rfl hreach fun g c hd => ?_,
      fun htyp howner hfree hcode hp hin hopen hw => gives_arrive rfl hreach fun g c hd => ?_,
      fun hinvalid => gives_arrive rfl hreach fun _ _ hd => ptWrite_range hone halign hd (hbad.mpr hinvalid)⟩
    · rw [ptWrite_waits (s := withStarted g c s) hone halign (hgood htyp howner hcode) hslot]
      exact ⟨rfl, rfl, rfl⟩
    · obtain ⟨hanswered, hpimg⟩ := ptWrite_writes (s := withStarted g c s) hone halign hd hf (hgood htyp howner hcode)
        hfree hp hin hopen hw
      obtain ⟨hvalue, hqual⟩ := workSet_same (withStarted g c s) p (BitVec.ofNat 64 (u64 d.buf 8)) (BitVec.ofNat 3 q)
      refine ⟨hanswered, ?_, ?_, fun k hne => ?_, (congrArg PImage.frozen hpimg :)⟩
      · rw [workPt_congr hpimg]
        exact hvalue
      · rw [workPt_congr hpimg]
        exact hqual
      · rw [workPt_congr hpimg]
        exact workPt_workSet_ne _ _ _ hne
  · have hbad : ptForceBad s (ptRec d.buf 0) = true ↔ w.typ = 0 ∨ 1 < u8 d.buf 4 := by
      simp [ptForceBad, ptRec, w, p]
    refine ⟨fun htyp hact hnone hroom => gives_arrive rfl hreach fun g c hd => ?_,
      fun hinvalid => gives_arrive rfl hreach fun _ _ hd => ptForce_range hone halign hd (hbad.mpr hinvalid)⟩
    have hgood : ptForceBad s (ptRec d.buf 0) = false := Bool.eq_false_iff.mpr fun h =>
      (hbad.mp h).elim htyp fun hlt => absurd hact (Nat.ne_of_gt hlt)
    have hforce : toForce (ptRec d.buf 0) = { point := p, force := true, value := BitVec.ofNat 64 (u64 d.buf 8) } := by
      simp [toForce, ptRec, hact, p]
    rw [ptForce_waits (s := withStarted g c s) hone halign hgood hnone hroom, hforce]
    exact ⟨rfl, rfl⟩
  · obtain ⟨hanswered, hengines⟩ := cellMode_requests (s := withStarted g c s) hd hmode (mem_cellsIn.mpr hk)
    refine ⟨hanswered, fun j hj => (hengines j).trans ?_⟩
    simp only [mem_cellsIn, hj, true_and]
    rfl
  · exact cellMode_range hd hmode
  · rw [cellStep_waits (s := withStarted g c s) he hmode htask hstep hreads]
    exact ⟨engGet_engPut .., fun k hk => engGet_engPut_ne _ _ hk, rfl⟩
  · exact cellStep_notReady hd he hmode
  · rw [cellRead_waits (s := withStarted g c s) he hmode hcyc]
    exact ⟨engGet_engPut .., fun k hk => engGet_engPut_ne _ _ hk, rfl⟩
  · exact cellRead_delivers hd he hmode hcyc hin
  · exact cellRead_busy hd he hmode

end Sys2Proof.Proofs
end

section
/-! PROOFS. What the instructions share: the part of the block that an instruction leaves alone (R204), guards that are
false (R203), and the results of the instructions that write one register. -/

namespace Sys2Proof.Proofs

open Sys2Proof.Machine Sys2Proof.Laws

/-! ### Everything but the registers, flags and progress of one engine -/

/-- A cell engine that executes is in a program cycle. -/
def InCycle (c : Core) (s : State) : Prop := ∀ e, c = .cell e → (engGet s e).inCyc = true

theorem inCycle_of_runs {c : Core} {s : State} (h : coreRuns c s = true) : InCycle c s := by
  rintro e rfl
  simp only [coreRuns, Bool.and_eq_true] at h
  exact h.1.1

/-- What `elsewhere` keeps of a cell engine. -/
def restOf (g : CellEng) : CellEng :=
  { g with g := [], p := [], afl := 0, aflAcc := 0, pos := 0, loops := [], used := 0, busy := 0 }

theorem engPut_engPut (s : State) (e : Nat) {v : CellEng} (w : CellEng) (h : v ≠ {}) :
    engPut (engPut s e v) e w = engPut s e w := by
  exact congrArg (fun t => { s with cell := { s.cell with eng := t } }) (tblPut_tblPut _ _ w h)

/-- An update of an engine in its cycle that keeps the rest of it is not seen elsewhere. -/
theorem elsewhere_engPut {e : Fin 8} {s : State} {v : CellEng} (hcyc : v.inCyc = true)
    (hrest : restOf v = restOf (engGet s e)) : elsewhere (.cell e) (engPut s e v) = elsewhere (.cell e) s := by
  have hne : v ≠ {} := fun h => by simp [h] at hcyc
  calc engPut (engPut s e v) e (restOf (engGet (engPut s e v) e))
      = engPut s e (restOf v) := by rw [engGet_engPut, engPut_engPut _ _ _ hne]
    _ = engPut s e (restOf (engGet s e)) := by rw [hrest]

theorem blk_elsewhere (c : Core) (s : State) : (elsewhere c s).blk = s.blk := by cases c <;> rfl

section Frame

variable {c : Core} {s : State}

theorem elsewhere_preStep (n : Nat) : elsewhere c (preStep c n s) = elsewhere c s := by cases c <;> rfl

theorem inCycle_preStep (h : InCycle c s) (n : Nat) : InCycle c (preStep c n s) := by
  rintro e rfl
  exact h e rfl

theorem inCycle_setG (h : InCycle c s) (d : BitVec 6) (v : W64) : InCycle c (setG c d v s) := by
  rintro e rfl
  simpa [setG] using h e rfl

theorem inCycle_setP (h : InCycle c s) (p : BitVec 4) (v : Bool) : InCycle c (setP c p v s) := by
  rintro e rfl
  simpa [setP] using h e rfl

theorem inCycle_orFlags (h : InCycle c s) (fl : BitVec 7) : InCycle c (orFlags c fl s) := by
  rintro e rfl
  simpa [orFlags] using h e rfl

theorem elsewhere_setG (h : InCycle c s) (d : BitVec 6) (v : W64) : elsewhere c (setG c d v s) = elsewhere c s := by
  cases c with
  | cell e => exact elsewhere_engPut (h e rfl) rfl
  | mc1 => rfl

theorem elsewhere_postStep (h : InCycle c s) (n : Nat) : elsewhere c (postStep c n s) = elsewhere c s := by
  cases c with
  | cell e => exact elsewhere_engPut (h e rfl) rfl
  | mc1 => rfl

/-- Integer divisions by zero of cell programs count in CELL.CNT[7] (R212, R215). -/
def withDivision (c : Core) (fl : BitVec 7) (s : State) : State :=
  match c with
  | .cell _ => countIf (fl.getLsbD 5) bCELL 7 s
  | .mc1 => s

theorem withDivision_none (h : fl.getLsbD 5 = false) : withDivision c fl s = s := by
  cases c with
  | cell e => rw [withDivision, h]; rfl
  | mc1 => rfl

theorem orFlags_cell (e : Fin 8) (fl : BitVec 7) : orFlags (.cell e) fl s =
    engPut (withDivision (.cell e) fl s) e
      { engGet s e with afl := (engGet s e).afl ||| fl, aflAcc := (engGet s e).aflAcc ||| fl } := by
  unfold orFlags withDivision countIf
  dsimp only
  split_ifs <;> rfl

theorem elsewhere_orFlags (h : InCycle c s) (fl : BitVec 7) :
    elsewhere c (orFlags c fl s) = elsewhere c (withDivision c fl s) := by
  cases c with
  | cell e =>
    have heng : engGet (withDivision (.cell e) fl s) e = engGet s e := engGet_countIf ..
    rw [orFlags_cell]
    exact elsewhere_engPut (h e rfl) (heng ▸ rfl)
  | mc1 => rfl

theorem elsewhere_withDivision {t : State} (h : elsewhere c t = elsewhere c s) (fl : BitVec 7) :
    elsewhere c (withDivision c fl t) = elsewhere c (withDivision c fl s) := by
  cases c with
  | cell e =>
    have hcount : ∀ u,
        elsewhere (.cell e) (withDivision (.cell e) fl u) = withDivision (.cell e) fl (elsewhere (.cell e) u) := by
      intro u
      unfold withDivision countIf
      dsimp only
      split_ifs <;> rfl
    rw [hcount, hcount, h]
  | mc1 => exact h

end Frame

/-! ### An instruction whose guard is false (R203) -/

theorem insnC_cell {x : Ctl} (h : (x.core != .mc1) = true) (n : Nat) (eff : Fin 8 → State → State) (s : State) :
    ∃ f, insnC x n eff s = insn x n f s := by
  cases hx : x.core with
  | cell e => exact ⟨eff e, by rw [insnC, hx]⟩
  | mc1 => simp [hx] at h

theorem insnS_mc1 {x : Ctl} (h : (x.core == .mc1) = true) (n : Nat) (eff : State → State) (s : State) :
    insnS x n eff s = insn x n eff s := by
  rw [insnS, beq_iff_eq.mp h]

theorem insnIf_valid {ok : Bool} (h : ok = true) (x : Ctl) (n : Nat) (eff : State → State) (s : State) :
    insnIf ok x n eff s = insn x n eff s := if_pos h

/-- END and LOOP are valid unguarded alone, and the guard P0 is always true (R200, R205). -/
theorem guardOk_unguarded {x : Ctl} (hp : (x.gp == 0) = true) (hn : (!x.gn) = true) (s : State) : guardOk x s = true := by
  obtain ⟨c, p, g⟩ := x
  obtain rfl : p = 0 := beq_iff_eq.mp hp
  obtain rfl : g = false := by simpa using hn
  cases c <;> rfl

/-- A valid instruction with a false guard has the shared form of an instruction, at its cycles of Table 7-4. -/
theorem exec_eq_insn {i : Instr} {x : Ctl} {n : Nat} {s : State} (h : insnShape i = some (x, n, true))
    (hguard : guardOk x s = false) : ∃ eff, exec i s = insn x n eff s := by
  unfold insnShape at h
  split at h
  all_goals simp only [Option.some.injEq, Prod.mk.injEq, reduceCtorEq, Bool.and_eq_true] at h
  all_goals obtain ⟨rfl, rfl, hok⟩ := h
  -- the instructions of both profiles, BFXU to BFI, those of the cell profile, those of the supervisor profile
  any_goals exact ⟨_, rfl⟩
  any_goals exact ⟨_, insnIf_valid hok ..⟩
  any_goals exact insnC_cell hok ..
  any_goals exact ⟨_, insnS_mc1 hok ..⟩
  case h_65 =>
    obtain ⟨⟨-, hp⟩, hn⟩ := hok
    simp [guardOk_unguarded hp hn] at hguard
  case h_66 =>
    obtain ⟨⟨⟨-, hp⟩, hn⟩, -⟩ := hok
    simp [guardOk_unguarded hp hn] at hguard
  case h_70 x v =>
    have hcycles : (if guardOk x s then 3 else 1) = 1 := by rw [hguard]; rfl
    exact ⟨_, (insnS_mc1 hok ..).trans (congrArg (insn x · _ s) hcycles)⟩
  case h_79 =>
    obtain ⟨hcore, hindex⟩ := hok
    exact ⟨_, (if_pos (of_decide_eq_true hindex)).trans (insnS_mc1 hcore ..)⟩
  case h_80 =>
    obtain ⟨hcore, hindex⟩ := hok
    exact ⟨_, (if_pos (of_decide_eq_true hindex)).trans (insnS_mc1 hcore ..)⟩

/-- Settles O2: an instruction with a false guard is its cycles and the move to the next instruction, and neither is seen
in a register, a predicate, the flags or elsewhere. -/
theorem falseGuardHasNoEffect : Obligations.FalseGuardHasNoEffect := by
  intro i x n s hshape hrun hguard
  obtain ⟨eff, hexec⟩ := exec_eq_insn hshape hguard
  refine ⟨_, hexec.trans (insn_guarded hrun hguard ..), ?_, fun r => ?_, fun p => ?_, ?_, fun e he => ?_, fun hmc1 => ?_⟩
  · rw [elsewhere_postStep (inCycle_preStep (inCycle_of_runs hrun) n), elsewhere_preStep]
  · rw [getG_postStep, getG_preStep]
  · rw [getP_postStep, getP_preStep]
  · rw [getAfl_postStep, getAfl_preStep]
  · rw [he]
    simp [postStep, preStep]
  · rw [hmc1]
    exact ⟨rfl, rfl⟩

/-! ### Instructions that write one register -/

/-- An instruction has written `r` to register `d` and added its flags; of the rest of the block, only the count of an
integer division by zero has changed (R204, R212, R215). -/
structure Writes (c : Core) (d : BitVec 6) (r : W64 × BitVec 7) (s t : State) : Prop where
  result : getG c t d = rd d r.1
  flags : getAfl c t = getAfl c s ||| r.2
  others : ∀ j, j ≠ d → getG c t j = getG c s j
  preds : ∀ p, getP c t p = getP c s p
  rest : elsewhere c t = elsewhere c (withDivision c r.2 s)

theorem Gives.imp {i : Instr} {s : State} {P Q : State → Prop} (h : Gives i s P) (hPQ : ∀ t, P t → Q t) : Gives i s Q := by
  obtain ⟨t, hexec, hP⟩ := h
  exact ⟨t, hexec, hPQ t hP⟩

/-- An instruction that issues: its effect between the start and the end of the instruction. -/
theorem gives_insn {i : Instr} {x : Ctl} {n : Nat} {eff : State → State} {s u : State} {P : State → Prop} (h : Issues x s)
    (hexec : exec i s = insn x n eff s) (heff : eff (preStep x.core n s) = u) (hP : P (postStep x.core n u)) : Gives i s P :=
  ⟨_, hexec.trans (insn_issues h ..), heff ▸ hP⟩

/-- D := F with its flags, where F does not see the start of the instruction. -/
theorem gives_wrBack {i : Instr} {x : Ctl} {n : Nat} {d : BitVec 6} {F : State → W64 × BitVec 7} {r : W64 × BitVec 7}
    {s : State} (h : Issues x s) (hexec : exec i s = insn x n (fun s => wrBack x.core d (F s) s) s)
    (hF : F (preStep x.core n s) = r) : Gives i s (Writes x.core d r s) := by
  have hcyc := inCycle_preStep (inCycle_of_runs h.1) n
  have hset := inCycle_setG hcyc d r.1
  refine ⟨_, hexec.trans (insn_issues h ..), ?_⟩
  rw [hF, wrBack]
  refine ⟨by simp, by simp, fun j hj => ?_, fun p => by simp, ?_⟩
  · rw [getG_postStep, getG_orFlags, getG_setG_ne _ _ _ hj, getG_preStep]
  · rw [elsewhere_postStep (inCycle_orFlags hset _), elsewhere_orFlags hset]
    exact elsewhere_withDivision ((elsewhere_setG hcyc ..).trans (elsewhere_preStep n)) _

/-- D := F, with the flags kept. -/
theorem gives_setG {i : Instr} {x : Ctl} {n : Nat} {d : BitVec 6} {F : State → W64} {v : W64}
    {s : State} (h : Issues x s) (hexec : exec i s = insn x n (fun s => setG x.core d (F s) s) s)
    (hF : F (preStep x.core n s) = v) : Gives i s (Writes x.core d (v, 0) s) := by
  have hcyc := inCycle_preStep (inCycle_of_runs h.1) n
  refine ⟨_, hexec.trans (insn_issues h ..), ?_⟩
  rw [hF]
  refine ⟨by simp, by simp, fun j hj => ?_, fun p => by simp, ?_⟩
  · rw [getG_postStep, getG_setG_ne _ _ _ hj, getG_preStep]
  · rw [elsewhere_postStep (inCycle_setG hcyc d v), elsewhere_setG hcyc, elsewhere_preStep]
    exact congrArg (elsewhere x.core) (withDivision_none BitVec.getLsbD_zero).symm

/-- What the moves, selections and bit fields write to D in a state (Table 7-4). -/
def moveOf (s : State) : Instr → Option (Ctl × BitVec 6 × W64)
  | .rdaf x d => some (x, d, (getAfl x.core s).zeroExtend 64)
  | .movi x d v => some (x, d, v.signExtend 64)
  | .movhi x d v => some (x, d, v ++ (getG x.core s d).truncate 32)
  | .sel x d a b p => some (x, d, if getP x.core s p then getG x.core s a else getG x.core s b)
  | .pmov x d p => some (x, d, if getP x.core s p then 1 else 0)
  | _ => none

/-- What a bit-field instruction with a field inside the register writes to D in a state (Table 7-4). -/
def bitFieldOf (s : State) : Instr → Option (Ctl × BitVec 6 × W64 × Bool)
  | .bfxu x d a lo wm1 => some (x, d, BitVec.ofNat 64 (field (getG x.core s a) lo.toNat (wm1.toNat + 1)), bfOk lo wm1)
  | .bfxs x d a lo wm1 =>
    some (x, d, BitVec.ofInt 64 (sint (wm1.toNat + 1) (field (getG x.core s a) lo.toNat (wm1.toNat + 1))), bfOk lo wm1)
  | .bfi x d a lo wm1 => some (x, d, bfiRes (getG x.core s d) (getG x.core s a) lo wm1, bfOk lo wm1)
  | _ => none

/-- The result and flags of an arithmetic instruction in a state (Tables 7-4 to 7-7). -/
def arithOf (s : State) : Instr → Option (Ctl × BitVec 6 × (W64 × BitVec 7))
  | .add x w d a b => some (x, d, onS w (· + ·) (getG x.core s a) (srcVal x.core s b))
  | .sub x w d a b => some (x, d, onS w (· - ·) (getG x.core s a) (srcVal x.core s b))
  | .adds x w d a b => some (x, d, onSat w (· + ·) (getG x.core s a) (srcVal x.core s b))
  | .subs x w d a b => some (x, d, onSat w (· - ·) (getG x.core s a) (srcVal x.core s b))
  | .mul x w d a b => some (x, d, onS w (· * ·) (getG x.core s a) (srcVal x.core s b))
  | .muls x w d a b => some (x, d, onSat w (· * ·) (getG x.core s a) (srcVal x.core s b))
  | .mulhs x w d a b => some (x, d, onS w (fun a b => a * b / 2 ^ wid w) (getG x.core s a) (srcVal x.core s (.reg b)))
  | .mulhu x w d a b => some (x, d, onU w (fun a b => a * b / 2 ^ wid w) (getG x.core s a) (srcVal x.core s (.reg b)))
  | .divs x w d a b => some (x, d, divsRes w (sval w (getG x.core s a)) (sval w (srcVal x.core s b)))
  | .divu x w d a b => some (x, d, divuRes w (uval w (getG x.core s a)) (uval w (srcVal x.core s b)))
  | .rems x w d a b => some (x, d, remsRes w (sval w (getG x.core s a)) (sval w (srcVal x.core s b)))
  | .remu x w d a b => some (x, d, remuRes w (uval w (getG x.core s a)) (uval w (srcVal x.core s b)))
  | .min x w d a b => some (x, d, onS w (fun a b => if a ≤ b then a else b) (getG x.core s a) (srcVal x.core s b))
  | .max x w d a b => some (x, d, onS w (fun a b => if a ≤ b then b else a) (getG x.core s a) (srcVal x.core s b))
  | .minu x w d a b => some (x, d, onU w (fun a b => if a ≤ b then a else b) (getG x.core s a) (srcVal x.core s b))
  | .maxu x w d a b => some (x, d, onU w (fun a b => if a ≤ b then b else a) (getG x.core s a) (srcVal x.core s b))
  | .and x w d a b => some (x, d, onU w (· &&& ·) (getG x.core s a) (srcVal x.core s b))
  | .or x w d a b => some (x, d, onU w (· ||| ·) (getG x.core s a) (srcVal x.core s b))
  | .xor x w d a b => some (x, d, onU w (· ^^^ ·) (getG x.core s a) (srcVal x.core s b))
  | .andn x w d a b => some (x, d, onU w (fun a b => a - (a &&& b)) (getG x.core s a) (srcVal x.core s b))
  | .shl x w d a b => some (x, d, onSh w (fun a n => a * 2 ^ n) (getG x.core s a) (srcVal x.core s b))
  | .shr x w d a b => some (x, d, onSh w (fun a n => a / 2 ^ n) (getG x.core s a) (srcVal x.core s b))
  | .sar x w d a b => some (x, d, intRes w (sval w (getG x.core s a) / 2 ^ ((srcVal x.core s b).toNat % wid w)), 0)
  | .rol x w d a b =>
    some (x, d, onSh w (fun a n => a * 2 ^ n + a * 2 ^ n / 2 ^ wid w) (getG x.core s a) (srcVal x.core s b))
  | .clz x w d a => some (x, d, clzRes w (getG x.core s a))
  | .popc x w d a => some (x, d, popcRes w (getG x.core s a))
  | .abss x w d a => some (x, d, satRes w (sval w (getG x.core s a)).natAbs)
  | _ => none

/-- The result and flags of a floating-point instruction in a state (Tables 7-4, 7-5 and 7-7). -/
def floatOf (s : State) : Instr → Option (Ctl × BitVec 6 × (W64 × BitVec 7))
  | .fadd x w d a b => some (x, d, fres (fAdd (fmtOf w) (fval w (getG x.core s a)) (fval w (getG x.core s b))))
  | .fsub x w d a b => some (x, d, fres (fSub (fmtOf w) (fval w (getG x.core s a)) (fval w (getG x.core s b))))
  | .fmul x w d a b => some (x, d, fres (fMul (fmtOf w) (fval w (getG x.core s a)) (fval w (getG x.core s b))))
  | .fdiv x w d a b => some (x, d, fres (fDiv (fmtOf w) (fval w (getG x.core s a)) (fval w (getG x.core s b))))
  | .fsqrt x w d a => some (x, d, fres (fSqrt (fmtOf w) (fval w (getG x.core s a))))
  | .fma x w d a b c =>
    some (x, d, fres (fFma (fmtOf w) false (fval w (getG x.core s a)) (fval w (getG x.core s b)) (fval w (getG x.core s c))))
  | .fms x w d a b c =>
    some (x, d, fres (fFma (fmtOf w) true (fval w (getG x.core s a)) (fval w (getG x.core s b)) (fval w (getG x.core s c))))
  | .fmin x w d a b => some (x, d, fres (fMinMax (fmtOf w) false false (fval w (getG x.core s a)) (fval w (getG x.core s b))))
  | .fmax x w d a b => some (x, d, fres (fMinMax (fmtOf w) true false (fval w (getG x.core s a)) (fval w (getG x.core s b))))
  | .fminn x w d a b => some (x, d, fres (fMinMax (fmtOf w) false true (fval w (getG x.core s a)) (fval w (getG x.core s b))))
  | .fmaxn x w d a b => some (x, d, fres (fMinMax (fmtOf w) true true (fval w (getG x.core s a)) (fval w (getG x.core s b))))
  | .fabs x w d a => some (x, d, fres (fval w (getG x.core s a) % (fmtOf w).sgn, 0))
  | .fneg x w d a => some (x, d, fres (fval w (getG x.core s a) ^^^ (fmtOf w).sgn, 0))
  | .fcvt x w d a => some (x, d, fcvtRes w (getG x.core s a))
  | .icvtf x w d a => some (x, d, fres (fOfInt (fmtOf w) (getG x.core s a).toInt))
  | .ucvtf x w d a => some (x, d, fres (fOfInt (fmtOf w) (getG x.core s a).toNat))
  | .fcvti x w d a rm r32 => some (x, d, fcvtiRes w rm r32 true (getG x.core s a))
  | .fcvtu x w d a rm r32 => some (x, d, fcvtiRes w rm r32 false (getG x.core s a))
  | .frnd x w d a rm => some (x, d, fres (fRnd (fmtOf w) rm (fval w (getG x.core s a))))
  | _ => none

section Results

variable {i : Instr} {x : Ctl} {d : BitVec 6} {s : State} (h : Issues x s)
include h

theorem gives_moveOf {v : W64} (hi : moveOf s i = some (x, d, v)) : Gives i s (Writes x.core d (v, 0) s) := by
  unfold moveOf at hi
  split at hi <;> cases hi <;> exact gives_setG h rfl (by simp only [getG_preStep, getP_preStep, getAfl_preStep])

theorem gives_bitFieldOf {v : W64} (hi : bitFieldOf s i = some (x, d, v, true)) : Gives i s (Writes x.core d (v, 0) s) := by
  unfold bitFieldOf at hi
  split at hi
  all_goals simp only [Option.some.injEq, Prod.mk.injEq, reduceCtorEq] at hi
  all_goals
    obtain ⟨rfl, rfl, rfl, hok⟩ := hi
    exact gives_setG h (insnIf_valid hok ..) (by simp only [getG_preStep])

theorem gives_arithOf {r : W64 × BitVec 7} (hi : arithOf s i = some (x, d, r)) : Gives i s (Writes x.core d r s) := by
  unfold arithOf at hi
  split at hi <;> cases hi <;> exact gives_wrBack h rfl (by simp only [getG_preStep, srcVal_preStep])

theorem gives_floatOf {r : W64 × BitVec 7} (hi : floatOf s i = some (x, d, r)) : Gives i s (Writes x.core d r s) := by
  unfold floatOf at hi
  split at hi <;> cases hi <;> exact gives_wrBack h rfl (by simp only [getG_preStep])

end Results

end Sys2Proof.Proofs
end

section
/-! PROOFS. Integer results: sums, products and quotients, wrapping, saturating and by zero (R212, Table 7-6). -/

namespace Sys2Proof.Proofs

open Sys2Proof.Machine Sys2Proof.Laws

/-! ### Operands at a width -/

/-- The signed readings of two operands agree where the unsigned ones do. -/
theorem sval_inj {w : Bool} {a b : W64} : sval w a = sval w b ↔ uval w a = uval w b := by
  cases w with
  | false =>
    simp only [sval, uval, Bool.false_eq_true, if_false, BitVec.toInt_inj, BitVec.toNat_inj]
  | true =>
    simp only [sval, uval, sint, if_true]
    split_ifs <;> omega

theorem sval_eq_zero {w : Bool} {a : W64} : sval w a = 0 ↔ uval w a = 0 := by
  have hs : sval w 0 = 0 := by cases w <;> rfl
  have hu : uval w 0 = 0 := by cases w <;> rfl
  rw [← hs, sval_inj, hu]

/-! ### Results of Table 7-6 -/

/-- The limits of the signed range of a width. -/
abbrev sMax (w : Bool) : Int := 2 ^ (wid w - 1) - 1
abbrev sMin (w : Bool) : Int := -(2 ^ (wid w - 1))

theorem satRes_eq (w : Bool) (e : Int) : satRes w e =
    (intRes w (max (sMin w) (min (sMax w) e)), if sMin w ≤ e ∧ e ≤ sMax w then 0 else flSAT) := by
  have hpos : (0 : Int) < 2 ^ (wid w - 1) := by positivity
  have hle : sMin w ≤ sMax w := by linarith
  change (if e > sMax w then (intRes w (sMax w), flSAT) else if e < sMin w then (intRes w (sMin w), flSAT)
    else (intRes w e, 0)) = _
  rcases lt_or_ge (sMax w) e with hhi | hhi
  · rw [if_pos hhi, min_eq_left hhi.le, max_eq_right hle, if_neg fun hin => absurd hin.2 hhi.not_ge]
  · rw [if_neg hhi.not_gt, min_eq_right hhi]
    rcases lt_or_ge e (sMin w) with hlo | hlo
    · rw [if_pos hlo, max_eq_left hlo.le, if_neg fun hin => absurd hin.1 hlo.not_ge]
    · rw [if_neg hlo.not_gt, max_eq_right hlo, if_pos ⟨hlo, hhi⟩]

theorem divsRes_quotient {w : Bool} {a b : Int} (hb : b ≠ 0) (hlim : ¬(a = sMin w ∧ b = -1)) :
    divsRes w a b = (intRes w (Int.tdiv a b), 0) :=
  (if_neg hb).trans (if_neg hlim)

theorem divsRes_limit {w : Bool} {a b : Int} (ha : a = sMin w) (hb : b = -1) : divsRes w a b = (intRes w (sMin w), flSAT) :=
  (if_neg (by omega)).trans (if_pos ⟨ha, hb⟩)

theorem divsRes_zero {w : Bool} {a b : Int} (hb : b = 0) : divsRes w a b =
    (intRes w (if 0 < a then sMax w else if a < 0 then sMin w else 0), flIDZ) := if_pos hb

theorem remsRes_remainder (w : Bool) {a b : Int} (hb : b ≠ 0) : remsRes w a b = (intRes w (a - b * Int.tdiv a b), 0) := by
  rw [← Int.tmod_def]
  exact if_neg hb

/-- The remainder of every division by -1 is 0, that of the most negative value among them. -/
theorem remsRes_minusOne (w : Bool) {a b : Int} (hb : b = -1) : remsRes w a b = (intRes w 0, 0) := by
  subst hb
  rw [remsRes, if_neg (by decide), Int.tmod_neg, Int.tmod_one]

/-! ### IDZ (R212, R215) -/

theorem idz_flIDZ : flIDZ.getLsbD 5 = true := rfl
theorem noIDZ_flSAT : ¬flSAT.getLsbD 5 = true := Bool.false_ne_true
theorem noIDZ_none : ¬(0 : BitVec 7).getLsbD 5 = true := Bool.false_ne_true

section Idz

variable (w : Bool)

theorem satRes_noIDZ (e : Int) : ¬(satRes w e).2.getLsbD 5 = true := by
  rw [satRes_eq]
  dsimp only
  split_ifs
  exacts [noIDZ_none, noIDZ_flSAT]

theorem divsRes_idz (a b : Int) : (divsRes w a b).2.getLsbD 5 = true ↔ b = 0 := by
  unfold divsRes
  by_cases hb : b = 0
  · rw [if_pos hb]
    exact iff_of_true idz_flIDZ hb
  · rw [if_neg hb]
    split_ifs
    exacts [iff_of_false noIDZ_flSAT hb, iff_of_false noIDZ_none hb]

theorem divuRes_idz (a b : Nat) : (divuRes w a b).2.getLsbD 5 = true ↔ b = 0 := by
  unfold divuRes
  split_ifs with hb
  exacts [iff_of_true idz_flIDZ hb, iff_of_false noIDZ_none hb]

theorem remsRes_idz (a b : Int) : (remsRes w a b).2.getLsbD 5 = true ↔ b = 0 := by
  unfold remsRes
  split_ifs with hb
  exacts [iff_of_true idz_flIDZ hb, iff_of_false noIDZ_none hb]

theorem remuRes_idz (a b : Nat) : (remuRes w a b).2.getLsbD 5 = true ↔ b = 0 := by
  unfold remuRes
  split_ifs with hb
  exacts [iff_of_true idz_flIDZ hb, iff_of_false noIDZ_none hb]

end Idz

/-- A division by zero of a cell engine counts in CELL.CNT[7], and nothing else does. -/
theorem withDivision_eq (c : Core) {fl : BitVec 7} {N : Nat} (hfl : fl.getLsbD 5 = true ↔ N = 0) (s : State) :
    withDivision c fl s = if c ≠ .mc1 ∧ N = 0 then count bCELL 7 s else s := by
  cases c with
  | cell e => simp only [withDivision, countIf, hfl, ne_eq, reduceCtorEq, not_false_eq_true, true_and]
  | mc1 => rfl

section Integer

variable {i : Instr} {x : Ctl} {d : BitVec 6} {s : State} {r : W64 × BitVec 7} (h : Issues x s)
  (hi : arithOf s i = some (x, d, r))
include h hi

/-- A result without flags. -/
theorem gives_plain {v : W64} (hr : r = (v, 0)) :
    Gives i s (fun t => getG x.core t d = rd d v ∧ getAfl x.core t = getAfl x.core s) := by
  subst hr
  exact Gives.imp (gives_arithOf h hi) fun t ht => ⟨ht.result, by simpa using ht.flags⟩

/-- A saturating result (Table 7-6). -/
theorem gives_saturated {w : Bool} {e : Int} (hr : r = satRes w e) : Gives i s (fun t =>
    getG x.core t d = rd d (intRes w (max (sMin w) (min (sMax w) e))) ∧
    getAfl x.core t = if sMin w ≤ e ∧ e ≤ sMax w then getAfl x.core s else getAfl x.core s ||| flSAT) := by
  rw [satRes_eq] at hr
  subst hr
  refine Gives.imp (gives_arithOf h hi) fun t ht => ⟨ht.result, ht.flags.trans ?_⟩
  dsimp only
  split_ifs
  exacts [BitVec.or_zero, rfl]

/-- A quotient or remainder: IDZ goes with a division by zero, and of a cell engine with a count in CELL.CNT[7]. -/
theorem gives_divided {v : W64} {fl : BitVec 7} {N : Nat} (hidz : r.2.getLsbD 5 = true ↔ N = 0) (hr : r = (v, fl)) :
    Gives i s (fun t => getG x.core t d = rd d v ∧ getAfl x.core t = getAfl x.core s ||| fl ∧
      cntOf t bCELL 7 = if x.core ≠ .mc1 ∧ N = 0 then satInc (cntOf s bCELL 7) else cntOf s bCELL 7) := by
  subst hr
  refine Gives.imp (gives_arithOf h hi) fun t ht => ⟨ht.result, ht.flags, ?_⟩
  have hblk : t.blk = (withDivision x.core fl s).blk := by
    rw [← blk_elsewhere x.core t, ht.rest, blk_elsewhere]
  rw [cntOf_congr hblk, withDivision_eq x.core hidz]
  split_ifs
  · rw [counted_count bCELL 7 s, if_pos ⟨rfl, rfl⟩]
  · rfl

end Integer

/-- Settles O4: each result is the one of Table 7-6, and CELL.CNT[7] goes with IDZ. -/
theorem integerResults : Obligations.IntegerResults := by
  refine ⟨fun x s w d a b v h => ?_, fun x s w d a v h => ?_, fun x s w d a v h => ?_⟩
  · intro A B C put
    exact ⟨gives_plain h rfl rfl, gives_plain h rfl rfl, gives_plain h rfl rfl, gives_plain h rfl rfl, gives_plain h rfl rfl⟩
  · intro A B hi lo sat
    exact ⟨gives_saturated h rfl rfl, gives_saturated h rfl rfl, gives_saturated h rfl rfl, gives_saturated h rfl rfl⟩
  · intro A B M N hi lo cnt put
    have hzero : B = 0 ↔ N = 0 := sval_eq_zero
    have hdivs : ∀ {r : Int} {fl : BitVec 7}, divsRes w A B = (intRes w r, fl) → put (.divs x w d a v) r fl :=
      gives_divided h rfl ((divsRes_idz w A B).trans hzero)
    have hrems : ∀ {r : Int} {fl : BitVec 7}, remsRes w A B = (intRes w r, fl) → put (.rems x w d a v) r fl :=
      gives_divided h rfl ((remsRes_idz w A B).trans hzero)
    have hdivu : ∀ {r : Int} {fl : BitVec 7}, divuRes w M N = (intRes w r, fl) → put (.divu x w d a v) r fl :=
      gives_divided h rfl (divuRes_idz w M N)
    have hremu : ∀ {r : Int} {fl : BitVec 7}, remuRes w M N = (intRes w r, fl) → put (.remu x w d a v) r fl :=
      gives_divided h rfl (remuRes_idz w M N)
    exact ⟨fun hB hlim => hdivs (divsRes_quotient hB hlim),
      fun hA hB => ⟨hdivs (divsRes_limit hA hB), hrems (remsRes_minusOne w hB)⟩,
      fun hB => ⟨hdivs (divsRes_zero hB), hrems (if_pos hB)⟩, fun hB => hrems (remsRes_remainder w hB),
      fun hN => ⟨hdivu (if_neg hN), hremu (if_neg hN)⟩, fun hN => ⟨hdivu (if_pos hN), hremu (if_pos hN)⟩⟩

end Sys2Proof.Proofs
end

section
/-! PROOFS. Logic, shifts, moves, counts and bit fields (R205, R212, Tables 7-4 and 7-6): the bits of their results. -/

namespace Sys2Proof.Proofs

open Sys2Proof.Machine Sys2Proof.Laws

/-! ### Bits of a result -/

theorem wid_pos (w : Bool) : 0 < wid w := by cases w <;> decide

theorem uval_lt (w : Bool) (v : W64) : uval w v < 2 ^ wid w := by
  cases w with
  | false => exact v.isLt
  | true => exact Nat.mod_lt _ (by decide)

/-- The bits of the width of a result are those of its number. -/
theorem getLsbD_intRes {w : Bool} {i : Nat} (hi : i < wid w) (n : Nat) : (intRes w n).getLsbD i = n.testBit i := by
  cases w with
  | false =>
    change (BitVec.ofInt 64 (n : Int)).getLsbD i = _
    rw [BitVec.ofInt_natCast, BitVec.getLsbD_ofNat, decide_eq_true (p := i < 64) hi, Bool.true_and]
  | true =>
    have hi : i < 32 := hi
    change ((BitVec.ofInt 32 (n : Int)).signExtend 64).getLsbD i = _
    rw [BitVec.ofInt_natCast, BitVec.getLsbD_signExtend, if_pos hi, BitVec.getLsbD_ofNat, decide_eq_true hi,
      decide_eq_true (p := i < 64) (by omega), Bool.true_and, Bool.true_and]

/-- Without the bits that it shares with `n`, a number has its other bits. -/
theorem testBit_sub_and (m n i : Nat) : (m - (m &&& n)).testBit i = (m.testBit i && !n.testBit i) := by
  induction i generalizing m n with
  | zero =>
    have hle : m &&& n ≤ m := Nat.and_le_left
    have hand : (m &&& n) % 2 = 1 ↔ m % 2 = 1 ∧ n % 2 = 1 := Nat.and_mod_two_eq_one
    rw [Bool.eq_iff_iff]
    simp only [Nat.testBit_zero, Bool.and_eq_true, Bool.not_eq_true', decide_eq_true_eq, decide_eq_false_iff_not]
    omega
  | succ i ih =>
    have hle : m &&& n ≤ m := Nat.and_le_left
    have hand : (m &&& n) % 2 = 1 ↔ m % 2 = 1 ∧ n % 2 = 1 := Nat.and_mod_two_eq_one
    have hhalf : (m - (m &&& n)) / 2 = m / 2 - (m &&& n) / 2 := by omega
    rw [Nat.testBit_succ, hhalf, Nat.and_div_two, ih, ← Nat.testBit_succ, ← Nat.testBit_succ]

/-- Bit i of a rotation to the left by k is bit i - k modulo the width. -/
theorem testBit_rotation {W m k i : Nat} (hm : m < 2 ^ W) (hk : k < W) (hi : i < W) :
    (m * 2 ^ k + m * 2 ^ k / 2 ^ W).testBit i = m.testBit ((i + W - k) % W) := by
  have hwrapped : m * 2 ^ k / 2 ^ W = m / 2 ^ (W - k) := by
    rw [show W = (W - k) + k by omega, pow_add, Nat.mul_div_mul_right _ _ (Nat.two_pow_pos k), Nat.add_sub_cancel]
  have hlt : m / 2 ^ (W - k) < 2 ^ k := by
    rwa [Nat.div_lt_iff_lt_mul (Nat.two_pow_pos _), ← pow_add, show k + (W - k) = W by omega]
  rw [hwrapped, Nat.mul_comm, Nat.testBit_two_pow_mul_add _ hlt]
  by_cases hik : i < k
  · rw [if_pos hik, Nat.testBit_div_two_pow, Nat.mod_eq_of_lt (by omega), show i + W - k = i + (W - k) by omega]
  · rw [if_neg hik, show i + W - k = i - k + W by omega, Nat.add_mod_right, Nat.mod_eq_of_lt (by omega)]

/-- The leading 1 of an operand is at the power of two that it holds once. -/
theorem clzRes_leading {w : Bool} {a : W64} {n : Nat} (h : uval w a / 2 ^ n = 1) :
    clzRes w a = (BitVec.ofNat 64 (wid w - 1 - n), 0) := by
  obtain ⟨hlow, hhigh⟩ := (Nat.div_eq_iff (Nat.two_pow_pos n)).mp h
  have hpos : 0 < 2 ^ n := Nat.two_pow_pos n
  have hne : uval w a ≠ 0 := by omega
  have hlog : (uval w a).log2 = n := (Nat.log2_eq_iff hne).mpr ⟨by omega, by rw [pow_succ]; omega⟩
  rw [clzRes, if_neg hne, hlog]

theorem sint_ofNat (n v : Nat) : sint (n + 1) v = (BitVec.ofNat (n + 1) v).toInt := by
  have hdouble : 2 ^ (n + 1) = 2 * 2 ^ n := pow_succ' ..
  rw [sint, BitVec.toInt_eq_toNat_cond, BitVec.toNat_ofNat, Nat.add_sub_cancel]
  simp only [hdouble, Nat.mul_lt_mul_left (show 0 < 2 by decide)]

/-- The field that BFXS takes, extended by its highest bit. -/
theorem getLsbD_signedField (a : W64) (l : Nat) {i k : Nat} (hi : i < 64) :
    (BitVec.ofInt 64 (sint (k + 1) (field a l (k + 1)))).getLsbD i = a.getLsbD (l + min i k) := by
  have hfield : ∀ j, (field a l (k + 1)).testBit j = (decide (j < k + 1) && a.getLsbD (l + j)) := fun j => by
    rw [field, Nat.testBit_mod_two_pow, Nat.testBit_div_two_pow, Nat.add_comm j l, BitVec.testBit_toNat]
  rw [sint_ofNat]
  change (BitVec.signExtend 64 (BitVec.ofNat (k + 1) (field a l (k + 1)))).getLsbD i = _
  rw [BitVec.getLsbD_signExtend, BitVec.msb_eq_getLsbD_last, BitVec.getLsbD_ofNat, BitVec.getLsbD_ofNat, hfield, hfield]
  by_cases hik : i < k + 1
  · simp [hi, hik, show min i k = i by omega]
  · simp [hi, hik, show min i k = k by omega]

theorem getLsbD_bfiRes (d a : W64) (lo wm1 : BitVec 6) {i : Nat} (hi : i < 64) :
    (bfiRes d a lo wm1).getLsbD i =
      if lo.toNat ≤ i ∧ i ≤ lo.toNat + wm1.toNat then a.getLsbD (i - lo.toNat) else d.getLsbD i := by
  have hmask : (BitVec.ofNat 64 ((2 ^ (wm1.toNat + 1) - 1) * 2 ^ lo.toNat)).getLsbD i =
      decide (lo.toNat ≤ i ∧ i ≤ lo.toNat + wm1.toNat) := by
    rw [BitVec.getLsbD_ofNat, Nat.testBit_mul_two_pow, Nat.testBit_two_pow_sub_one, Bool.eq_iff_iff]
    simp only [Bool.and_eq_true, decide_eq_true_eq]
    omega
  simp only [bfiRes, BitVec.getLsbD_or, BitVec.getLsbD_and, BitVec.getLsbD_not, BitVec.getLsbD_shiftLeft, hmask]
  by_cases hin : lo.toNat ≤ i ∧ i ≤ lo.toNat + wm1.toNat
  · simp only [hin, hi, show ¬i < lo.toNat by omega, decide_true, decide_false, Bool.not_true, Bool.not_false, Bool.and_false,
      Bool.false_or, Bool.true_and, Bool.and_true, and_self, if_true]
  · simp only [hin, hi, decide_true, decide_false, Bool.not_false, Bool.and_true, Bool.and_false, Bool.or_false, if_false]

section Logic

variable {i : Instr} {x : Ctl} {d : BitVec 6} {s : State} (h : Issues x s)
include h

/-- A result read bit by bit, where D is no G0. -/
theorem gives_bits {w : Bool} {n : Nat} {b : Nat → Bool} (hi : arithOf s i = some (x, d, intRes w n, 0))
    (hb : ∀ j, j < wid w → n.testBit j = b j) : Gives i s (fun t => getAfl x.core t = getAfl x.core s ∧
      ∀ j, j < wid w → d ≠ 0 → (getG x.core t d).getLsbD j = b j) := by
  refine Gives.imp (gives_plain h hi rfl) fun t ⟨hd, hfl⟩ => ⟨hfl, fun j hj hne => ?_⟩
  rw [hd, rd, if_neg hne, getLsbD_intRes hj, hb j hj]

theorem gives_moved {v : W64} (hi : moveOf s i = some (x, d, v)) : Gives i s (fun t => getG x.core t d = rd d v) :=
  Gives.imp (gives_moveOf h hi) fun _ ht => ht.result

theorem gives_field {v : W64} {ok : Bool} (hi : bitFieldOf s i = some (x, d, v, ok)) (hok : ok = true) :
    Gives i s (fun t => getG x.core t d = rd d v) := by
  subst hok
  exact Gives.imp (gives_bitFieldOf h hi) fun _ ht => ht.result

end Logic

/-- Settles O5: each result, read as a number or bit by bit. -/
theorem logicMoveAndFieldResults : Obligations.LogicMoveAndFieldResults := by
  refine ⟨fun x s w d a v h => ?_, fun x s w d a b lo wm1 p v h => ?_⟩
  · intro A B M N k put
    have hk : k < wid w := Nat.mod_lt _ (wid_pos w)
    have hput : ∀ {i : Instr} {r : W64 × BitVec 7} {v : Int}, arithOf s i = some (x, d, r) → r = (intRes w v, 0) → put i v :=
      fun hi hr => gives_plain h hi hr
    refine ⟨hput rfl ?_, hput rfl ?_, hput rfl ?_, hput rfl ?_, hput rfl rfl, hput rfl rfl, hput rfl rfl, hput rfl ?_,
      hput rfl ?_, hput rfl rfl, gives_bits h rfl fun i _ => testBit_sub_and M N i, ?_⟩
    · rw [onS, ← min_def]
    · rw [onS, ← max_def]
    · rw [onU, ← min_def]
    · rw [onU, ← max_def]
    · simp [onSh, M, k]
    · simp [onSh, M, k]
    · have hcast : ((M * 2 ^ k + M * 2 ^ k / 2 ^ wid w : Nat) : Int) = M * 2 ^ k + M * 2 ^ k / 2 ^ wid w := by push_cast; rfl
      exact gives_bits h (congrArg (fun n : Int => some (x, d, intRes w n, 0)) hcast.symm) fun i hi =>
        testBit_rotation (uval_lt w _) hk hi
  · intro A put
    have hmove : ∀ {i : Instr} {r : W64}, moveOf s i = some (x, d, r) → put i r := gives_moved h
    refine ⟨hmove rfl, hmove rfl, hmove rfl, hmove rfl, hmove rfl, ?_, fun hzero => ?_, fun n hn hlead => ?_,
      fun hfield => ⟨?_, fun hd i hi => ?_, fun hd i hi => ?_⟩, ?_, ?_⟩
    · exact Gives.imp (gives_arithOf h rfl) fun t ht => ht.result
    · refine Gives.imp (gives_arithOf h rfl) fun t ht => ht.result.trans ?_
      rw [clzRes, if_pos hzero]
    · refine Gives.imp (gives_arithOf h rfl) fun t ht => ht.result.trans ?_
      rw [clzRes_leading hlead]
    · exact gives_field h rfl (decide_eq_true hfield)
    · refine Gives.imp (gives_field h rfl (decide_eq_true hfield)) fun t ht => ?_
      rw [ht, rd, if_neg hd, getLsbD_signedField _ _ hi]
    · refine Gives.imp (gives_field h rfl (decide_eq_true hfield)) fun t ht => ?_
      rw [ht, rd, if_neg hd, getLsbD_bfiRes _ _ _ _ hi]
    · exact ⟨_, insn_issues h .., by simp⟩
    · exact ⟨_, insn_issues h .., by simp⟩

end Sys2Proof.Proofs
end

section
/-! PROOFS. Floating-point results (R213, R214, Table 7-5): that a result that is a NaN is the canonical one, that no
operation raises IDZ, and the limits of a conversion to an integer. -/

namespace Sys2Proof.Proofs

open Sys2Proof.Machine Sys2Proof.Laws

/-! ### Fields of an encoding -/

theorem isNaN_fdec_iff {f : Fmt} (he : 0 < f.e) (b : Nat) :
    isNaN (fdec f b) = true ↔ b / 2 ^ f.m % 2 ^ f.e = 2 ^ f.e - 1 ∧ b % 2 ^ f.m ≠ 0 := by
  have hwidth : f.e + f.m - 1 + 1 - f.m = f.e := by omega
  have hexp : bits b (f.e + f.m - 1) f.m = b / 2 ^ f.m % 2 ^ f.e := by
    rw [bits, Nat.shiftRight_eq_div_pow, hwidth]
  unfold fdec
  rw [hexp]
  dsimp only
  split_ifs <;> simp_all [isNaN]

/-- Sign, exponent and significand of an encoding do not overlap. -/
theorem encoding_fields {f : Fmt} (neg : Bool) {ex mant : Nat} (hex : ex < 2 ^ f.e) (hmant : mant < 2 ^ f.m) :
    let b := fsign f neg + (ex * 2 ^ f.m + mant)
    b / 2 ^ f.m % 2 ^ f.e = ex ∧ b % 2 ^ f.m = mant := by
  intro b
  have hpos : 0 < 2 ^ f.m := Nat.two_pow_pos _
  obtain ⟨k, hk⟩ : ∃ k, b = mant + 2 ^ f.m * (ex + 2 ^ f.e * k) := by
    refine ⟨b2n neg, ?_⟩
    cases neg <;> simp only [b, fsign, Fmt.sgn, b2n, Bool.false_eq_true, if_false, if_true, pow_add] <;> ring
  rw [hk, Nat.add_mul_div_left _ _ hpos, Nat.div_eq_of_lt hmant, Nat.zero_add, Nat.add_mul_mod_self_left,
    Nat.add_mul_mod_self_left, Nat.mod_eq_of_lt hex, Nat.mod_eq_of_lt hmant]
  exact ⟨rfl, rfl⟩

/-- A result as R213 and R215 have it: its NaN is the canonical one, and it raises no IDZ. -/
def Rounded (f : Fmt) (r : Nat × BitVec 7) : Prop :=
  (isNaN (fdec f r.1) = true → r.1 = f.nan) ∧ r.2.getLsbD 5 = false

theorem rounded_nan {f : Fmt} {fl : BitVec 7} (hfl : fl.getLsbD 5 = false) : Rounded f (f.nan, fl) := ⟨fun _ => rfl, hfl⟩

section Encoding

variable {f : Fmt} (he : 0 < f.e)
include he

theorem rounded_encoding (neg : Bool) {ex mant : Nat} {fl : BitVec 7} (hex : ex < 2 ^ f.e) (hmant : mant < 2 ^ f.m)
    (hfinite : ex = 2 ^ f.e - 1 → mant = 0) (hfl : fl.getLsbD 5 = false) :
    Rounded f (fsign f neg + (ex * 2 ^ f.m + mant), fl) := by
  refine ⟨fun hnan => ?_, hfl⟩
  obtain ⟨hall, hrest⟩ := (isNaN_fdec_iff he _).mp hnan
  obtain ⟨hE, hM⟩ := encoding_fields neg hex hmant
  exact absurd (hM.trans (hfinite (hE.symm.trans hall))) hrest

theorem rounded_inf (neg : Bool) {fl : BitVec 7} (hfl : fl.getLsbD 5 = false) : Rounded f (fsign f neg + f.inf, fl) :=
  rounded_encoding he neg (Nat.sub_lt (Nat.two_pow_pos _) Nat.one_pos) (Nat.two_pow_pos _) (fun _ => rfl) hfl

theorem rounded_zero (neg : Bool) {fl : BitVec 7} (hfl : fl.getLsbD 5 = false) : Rounded f (fsign f neg, fl) := by
  simpa using rounded_encoding (mant := 0) (ex := 0) he neg (Nat.two_pow_pos _) (Nat.two_pow_pos _) (fun _ => rfl) hfl

end Encoding

theorem nvIf_noIDZ (b : Bool) : (nvIf b).getLsbD 5 = false := by cases b <;> rfl

/-! ### The one rounding (R213) -/

/-- The significand that `fpack` rounds to, before a carry out of it is taken into the exponent. -/
def significand (m : Nat) (e q : Int) (sticky : Bool) : Nat × Bool :=
  if q ≤ e then (m * 2 ^ (e - q).toNat, sticky) else shiftRound m (q - e).toNat sticky

/-- With the last place no more than `k` bits below the leading bit, the rounded significand has at most k + 1 bits, or is
the next power of two. -/
theorem significand_le {m k : Nat} {e q : Int} (hq : e + (m.log2 : Int) - k ≤ q) (sticky : Bool) :
    (significand m e q sticky).1 ≤ 2 ^ (k + 1) := by
  have hm : m < 2 ^ (m.log2 + 1) := Nat.lt_log2_self
  unfold significand
  split_ifs with hle
  · calc m * 2 ^ (e - q).toNat ≤ 2 ^ (m.log2 + 1) * 2 ^ (e - q).toNat := Nat.mul_le_mul_right _ hm.le
      _ = 2 ^ (m.log2 + 1 + (e - q).toNat) := (pow_add ..).symm
      _ ≤ 2 ^ (k + 1) := Nat.pow_le_pow_right (by decide) (by omega)
  · have hshift : m >>> (q - e).toNat < 2 ^ (k + 1) := by
      rw [Nat.shiftRight_eq_div_pow, Nat.div_lt_iff_lt_mul (Nat.two_pow_pos _), ← pow_add]
      exact hm.trans_le (Nat.pow_le_pow_right (by decide) (by omega))
    unfold shiftRound
    dsimp only
    split_ifs
    · exact hshift
    · exact hshift.le

/-- A carry out of the significand goes into the exponent of its last place. -/
def carried (f : Fmt) (mant : Nat) (q : Int) : Nat × Int :=
  if mant = 2 ^ (f.m + 1) then (2 ^ f.m, q + 1) else (mant, q)

/-- The encoding of a rounded significand and the exponent of its last place, with the flags. -/
def encoded (f : Fmt) (neg : Bool) (r : Nat × Int) (inexact tiny : Bool) : Nat × BitVec 7 :=
  let ex := if r.1 < 2 ^ f.m then 0 else (r.2 - f.qmin).toNat + 1
  if ex ≥ 2 ^ f.e - 1 then (fsign f neg + f.inf, flOF ||| flNX)
  else (fsign f neg + (if ex = 0 then r.1 else ex * 2 ^ f.m + (r.1 - 2 ^ f.m)),
    if inexact then (if tiny then flNX ||| flUF else flNX) else 0)

theorem fpack_eq (f : Fmt) (neg : Bool) {m : Nat} (hm : m ≠ 0) (e : Int) (sticky : Bool) :
    let q := max (e + (m.log2 : Int) - (f.m : Int)) f.qmin
    let r := significand m e q sticky
    ∃ tiny, fpack f neg m e sticky = encoded f neg (carried f r.1 q) r.2 tiny :=
  ⟨_, by rw [fpack, if_neg hm]; rfl⟩

theorem carried_lt {f : Fmt} {mant : Nat} (h : mant ≤ 2 ^ (f.m + 1)) (q : Int) : (carried f mant q).1 < 2 ^ (f.m + 1) := by
  unfold carried
  split_ifs with hcarry
  · exact Nat.pow_lt_pow_right (by decide) (by omega)
  · omega

theorem rounded_encoded {f : Fmt} (he : 0 < f.e) (neg : Bool) {r : Nat × Int} (hr : r.1 < 2 ^ (f.m + 1))
    (inexact tiny : Bool) : Rounded f (encoded f neg r inexact tiny) := by
  have hdouble : 2 ^ (f.m + 1) = 2 ^ f.m + 2 ^ f.m := by rw [pow_succ]; omega
  unfold encoded
  extract_lets ex
  by_cases hover : ex ≥ 2 ^ f.e - 1
  · rw [if_pos hover]
    exact rounded_inf he neg rfl
  · have hfl : (if inexact then (if tiny then flNX ||| flUF else flNX) else 0 : BitVec 7).getLsbD 5 = false := by
      cases inexact <;> cases tiny <;> rfl
    obtain ⟨mant, hmant, hval⟩ : ∃ mant < 2 ^ f.m,
        (if ex = 0 then r.1 else ex * 2 ^ f.m + (r.1 - 2 ^ f.m)) = ex * 2 ^ f.m + mant := by
      by_cases hsub : r.1 < 2 ^ f.m
      · exact ⟨r.1, hsub, by simp [ex, hsub]⟩
      · exact ⟨r.1 - 2 ^ f.m, by omega, by simp [ex, hsub]⟩
    rw [if_neg hover, hval]
    exact rounded_encoding he neg (by omega) hmant (fun h => absurd h.ge hover) hfl

theorem rounded_fpack {f : Fmt} (he : 0 < f.e) (neg : Bool) (m : Nat) (e : Int) (sticky : Bool) :
    Rounded f (fpack f neg m e sticky) := by
  by_cases hm : m = 0
  · rw [fpack, if_pos hm]
    exact rounded_zero he neg rfl
  · obtain ⟨tiny, heq⟩ := fpack_eq f neg hm e sticky
    rw [heq]
    exact rounded_encoded he neg (carried_lt (significand_le (le_max_left _ _) sticky) _) _ tiny

/-! ### The operations -/

/-- A minimum or maximum is an operand that is no NaN, or the canonical NaN. -/
theorem rounded_fMinMax (f : Fmt) (mx num : Bool) (x y : Nat) : Rounded f (fMinMax f mx num x y) := by
  have hoperand : ∀ {v : Nat} {b : Bool}, ¬isNaN (fdec f v) = true → Rounded f (v, nvIf b) :=
    fun h => ⟨fun hnan => absurd hnan h, nvIf_noIDZ _⟩
  unfold fMinMax
  dsimp only
  split_ifs with hboth hx hnum hy hnum' hbelow
  · exact rounded_nan (nvIf_noIDZ _)
  · exact hoperand fun hy => hboth (by simp [hx, hy])
  · exact rounded_nan (nvIf_noIDZ _)
  · exact hoperand hx
  · exact rounded_nan (nvIf_noIDZ _)
  · exact hoperand hx
  · exact hoperand hy

section Operations

variable {f : Fmt} (he : 0 < f.e)
include he

theorem rounded_addVal (a b : FVal) : Rounded f (addVal f a b) := by
  unfold addVal
  split
  · split_ifs
    · exact rounded_inf he _ rfl
    · exact rounded_nan rfl
  · exact rounded_inf he _ rfl
  · exact rounded_inf he _ rfl
  · dsimp only
    split_ifs
    · exact rounded_zero he _ rfl
    · exact rounded_fpack he ..
  · exact rounded_nan rfl

theorem rounded_packVal (v : FVal) : Rounded f (packVal f v) := by
  cases v with
  | nan s => exact rounded_nan rfl
  | inf s => exact rounded_inf he s rfl
  | fin n m e => exact rounded_fpack he ..

theorem rounded_fAdd (x y : Nat) : Rounded f (fAdd f x y) := by
  unfold fAdd
  dsimp only
  split_ifs
  · exact rounded_nan (nvIf_noIDZ _)
  · exact rounded_addVal he ..

theorem rounded_fSub (x y : Nat) : Rounded f (fSub f x y) := by
  unfold fSub
  dsimp only
  split_ifs
  · exact rounded_nan (nvIf_noIDZ _)
  · exact rounded_addVal he ..

theorem rounded_fMul (x y : Nat) : Rounded f (fMul f x y) := by
  unfold fMul
  dsimp only
  split_ifs
  · exact rounded_nan (nvIf_noIDZ _)
  · split
    · exact rounded_nan rfl
    · exact rounded_packVal he _

theorem rounded_fDiv (x y : Nat) : Rounded f (fDiv f x y) := by
  unfold fDiv
  dsimp only
  split_ifs
  · exact rounded_nan (nvIf_noIDZ _)
  · split
    · exact rounded_nan rfl
    · exact rounded_inf he _ rfl
    · exact rounded_zero he _ rfl
    · split_ifs
      · exact rounded_nan rfl
      · exact rounded_inf he _ rfl
      · exact rounded_zero he _ rfl
      · exact rounded_fpack he ..
    · exact rounded_nan rfl

theorem rounded_fSqrt (x : Nat) : Rounded f (fSqrt f x) := by
  unfold fSqrt
  split
  · exact rounded_nan (nvIf_noIDZ _)
  · exact rounded_nan rfl
  · simpa [fsign] using rounded_inf he false rfl
  · split_ifs
    · exact rounded_zero he _ rfl
    · exact rounded_nan rfl
    · exact rounded_fpack he ..

theorem rounded_fFma (neg : Bool) (x y z : Nat) : Rounded f (fFma f neg x y z) := by
  unfold fFma
  extract_lets a b c0 c sig
  by_cases hab : (isNaN a || isNaN b) = true
  · rw [if_pos hab]
    exact rounded_nan (nvIf_noIDZ _)
  · rw [if_neg hab]
    cases mulVal a b with
    | none =>
      have hfl : (if isNaN c && !isSNaN c then nvIf Config.fmaNanInvalid else flNV).getLsbD 5 = false := by
        split_ifs
        exacts [nvIf_noIDZ _, rfl]
      exact rounded_nan hfl
    | some v =>
      dsimp only
      split_ifs
      exacts [rounded_nan (nvIf_noIDZ _), rounded_addVal he ..]

theorem rounded_fRnd (rm : RMode) (x : Nat) : Rounded f (fRnd f rm x) := by
  unfold fRnd
  split
  · exact rounded_nan (nvIf_noIDZ _)
  · exact rounded_inf he _ rfl
  · exact ⟨(rounded_fpack he ..).1, nvIf_noIDZ false⟩

theorem rounded_fCvt (src : Fmt) (x : Nat) : Rounded f (fCvt src f x) := by
  unfold fCvt
  split
  · exact rounded_nan (nvIf_noIDZ _)
  · exact rounded_packVal he _

end Operations

/-! ### Conversions to an integer (R214) -/

theorem fToInt_noIDZ (f : Fmt) (rm : RMode) (lo hi : Int) (x : Nat) : (fToInt f rm lo hi x).2.getLsbD 5 = false := by
  have hNV : flNV.getLsbD 5 = false := rfl
  have hNX : flNX.getLsbD 5 = false := rfl
  unfold fToInt
  split
  · exact hNV
  · exact hNV
  · dsimp only
    split_ifs
    exacts [hNV, hNV, hNX, BitVec.getLsbD_zero]

theorem fToInt_bounds (f : Fmt) (rm : RMode) {lo hi : Int} (hlo : lo ≤ 0) (hhi : 0 ≤ hi) (x : Nat) :
    lo ≤ (fToInt f rm lo hi x).1 ∧ (fToInt f rm lo hi x).1 ≤ hi := by
  unfold fToInt
  split
  · exact ⟨hlo, hhi⟩
  · dsimp only
    split_ifs <;> constructor <;> omega
  · dsimp only
    split_ifs <;> constructor <;> omega

theorem eq_nan_of_isNaN {v : FVal} (h : isNaN v = true) : ∃ s, v = .nan s := by
  cases v with
  | nan s => exact ⟨s, rfl⟩
  | inf _ => simp [isNaN] at h
  | fin _ _ _ => simp [isNaN] at h

/-! ### NaN operands (R213, Table 7-5) -/

section NanOperands

variable {f : Fmt} {a b : Nat}

theorem fAdd_nan (h : isNaN (fdec f a) = true ∨ isNaN (fdec f b) = true) : (fAdd f a b).1 = f.nan := by
  simp [fAdd, h]

theorem fMul_nan (h : isNaN (fdec f a) = true ∨ isNaN (fdec f b) = true) : (fMul f a b).1 = f.nan := by
  simp [fMul, h]

theorem fMinMax_nan (h : isNaN (fdec f a) = true ∨ isNaN (fdec f b) = true) (mx : Bool) :
    (fMinMax f mx false a b).1 = f.nan := by
  simp only [fMinMax]
  split_ifs <;> simp_all

theorem fMinMax_number (ha : isNaN (fdec f a) = true) (hb : isNaN (fdec f b) = false) (mx : Bool) :
    (fMinMax f mx true a b).1 = b ∧ (fMinMax f mx true b a).1 = b := by
  simp [fMinMax, ha, hb]

theorem fToInt_nan (ha : isNaN (fdec f a) = true) (rm : RMode) (lo hi : Int) : fToInt f rm lo hi a = (0, flNV) := by
  obtain ⟨s, hs⟩ := eq_nan_of_isNaN ha
  rw [fToInt, hs]

end NanOperands

/-- FMIN and FMAX of zeros of both signs, and the encodings of the infinities (Table 7-5). -/
theorem zeros_and_infinities {f : Fmt} (hf : f = fmt64 ∨ f = fmt32) :
    (fMinMax f false false 0 f.sgn).1 = f.sgn ∧ (fMinMax f false false f.sgn 0).1 = f.sgn ∧
    (fMinMax f true false 0 f.sgn).1 = 0 ∧ (fMinMax f true false f.sgn 0).1 = 0 ∧
    fdec f f.inf = .inf false ∧ fdec f (f.inf + f.sgn) = .inf true := by
  rcases hf with rfl | rfl <;> decide

/-- The table's row of a floating-point instruction, read as its result and its flags. -/
theorem gives_float {i : Instr} {x : Ctl} {d : BitVec 6} {s : State} {r : W64 × BitVec 7} (h : Issues x s)
    (hi : floatOf s i = some (x, d, r)) :
    Gives i s (fun t => getG x.core t d = rd d r.1 ∧ getAfl x.core t = getAfl x.core s ||| r.2) :=
  Gives.imp (gives_floatOf h hi) fun _ ht => ⟨ht.result, ht.flags⟩

/-- Settles O7: every instruction writes the result of its operation, and what the operations do with NaNs, zeros and
limits. -/
theorem floatingPointResults : Obligations.FloatingPointResults := by
  refine ⟨fun x s w d a b c rm r32 h => ?_, fun f a b c neg rm lo hi hf hlo hhi => ?_⟩
  · intro f A B C V n put
    have hput : ∀ {i : Instr} {r : Nat × BitVec 7}, floatOf s i = some (x, d, fres r) → put i r := fun hi => gives_float h hi
    exact ⟨hput rfl, hput rfl, hput rfl, hput rfl, hput rfl, hput rfl, hput rfl, hput rfl, hput rfl, hput rfl, hput rfl,
      hput rfl, hput rfl, hput rfl, hput rfl, hput rfl, hput rfl, gives_float (r := fcvtiRes w rm r32 true V) h rfl,
      gives_float (r := fcvtiRes w rm r32 false V) h rfl⟩
  · have he : 0 < f.e := by rcases hf with rfl | rfl <;> decide
    obtain ⟨hmin, hmin', hmax, hmax', hinf, hninf⟩ := zeros_and_infinities hf
    refine ⟨List.forall_iff_forall_mem.mp ?_, fun hnan => ⟨fAdd_nan hnan, fMul_nan hnan, fMinMax_nan hnan neg⟩,
      fun ha hb => ?_, hmin, hmin', hmax, hmax', ?_, ?_, fToInt_bounds f rm hlo hhi a⟩
    · exact ⟨(rounded_fAdd he a b).1, (rounded_fSub he a b).1, (rounded_fMul he a b).1, (rounded_fDiv he a b).1,
        (rounded_fSqrt he a).1, (rounded_fFma he neg a b c).1, (rounded_fMinMax f neg false a b).1, (rounded_fRnd he rm a).1⟩
    · obtain ⟨hleft, hright⟩ := fMinMax_number ha hb neg
      exact ⟨hleft, hright, fToInt_nan ha rm lo hi⟩
    · rw [fToInt, hinf]
      rfl
    · rw [fToInt, hninf]
      rfl

end Sys2Proof.Proofs
end

section
/-! PROOFS. The frame of the instructions whose result is one register (R204, R206, R212, R215). -/

namespace Sys2Proof.Proofs

open Sys2Proof.Machine Sys2Proof.Laws

/-- Of `s`, register `d` alone has changed, but for the flags and progress of the engine; elsewhere the block is as in `o`. -/
def OnlyResult (c : Core) (d : BitVec 6) (s o t : State) : Prop :=
  (∀ j, j ≠ d → getG c t j = getG c s j) ∧ (∀ q, getP c t q = getP c s q) ∧ elsewhere c t = elsewhere c o

theorem Writes.onlyResult {c : Core} {d : BitVec 6} {r : W64 × BitVec 7} {s t : State} (h : Writes c d r s t) :
    OnlyResult c d s (withDivision c r.2 s) t := ⟨h.others, h.preds, h.rest⟩

theorem Writes.onlyResult_noIDZ {c : Core} {d : BitVec 6} {r : W64 × BitVec 7} {s t : State} (h : Writes c d r s t)
    (hfl : ¬r.2.getLsbD 5 = true) : OnlyResult c d s s t := by
  have hrest := h.onlyResult
  rwa [withDivision_none (Bool.eq_false_iff.mpr hfl)] at hrest

theorem Writes.keepsFlags {c : Core} {d : BitVec 6} {v : W64} {s t : State} (h : Writes c d (v, 0) s t) :
    OnlyResult c d s s t ∧ getAfl c t = getAfl c s :=
  ⟨h.onlyResult_noIDZ noIDZ_none, h.flags.trans BitVec.or_zero⟩

/-- No floating-point instruction raises IDZ (Table 7-7). -/
theorem floatOf_noIDZ {i : Instr} {x : Ctl} {d : BitVec 6} {s : State} {r : W64 × BitVec 7}
    (hi : floatOf s i = some (x, d, r)) : ¬r.2.getLsbD 5 = true := by
  have he : ∀ w, 0 < (fmtOf w).e := by decide
  have hround : ∀ {f : Fmt} {r : Nat × BitVec 7}, Rounded f r → ¬(fres r).2.getLsbD 5 = true :=
    fun h => Bool.eq_false_iff.mp h.2
  have hint : ∀ (w : Bool) (rm : RMode) (r32 sgn : Bool) (v : W64), ¬(fcvtiRes w rm r32 sgn v).2.getLsbD 5 = true :=
    fun w rm r32 sgn v => Bool.eq_false_iff.mp (fToInt_noIDZ ..)
  unfold floatOf at hi
  split at hi <;> cases hi
  · exact hround (rounded_fAdd (he _) ..)
  · exact hround (rounded_fSub (he _) ..)
  · exact hround (rounded_fMul (he _) ..)
  · exact hround (rounded_fDiv (he _) ..)
  · exact hround (rounded_fSqrt (he _) ..)
  · exact hround (rounded_fFma (he _) ..)
  · exact hround (rounded_fFma (he _) ..)
  · exact hround (rounded_fMinMax ..)
  · exact hround (rounded_fMinMax ..)
  · exact hround (rounded_fMinMax ..)
  · exact hround (rounded_fMinMax ..)
  · exact noIDZ_none
  · exact noIDZ_none
  · unfold fcvtRes
    split_ifs
    exacts [hround (rounded_fCvt (he true) ..), hround (rounded_fCvt (he false) ..)]
  · exact hround (rounded_fpack (he _) ..)
  · exact hround (rounded_fpack (he _) ..)
  · exact hint _ _ _ _ _
  · exact hint _ _ _ _ _
  · exact hround (rounded_fRnd (he _) ..)

/-- Settles O15: each instruction is a row of the tables of results, and a row changes its register alone. -/
theorem registerInstructionsChangeOnlyTheirResult : Obligations.RegisterInstructionsChangeOnlyTheirResult := by
  intro x s w r32 d a b c lo wm1 p v u rm h hfield only
  have hmove : ∀ {i : Instr} {r : W64}, moveOf s i = some (x, d, r) →
      Gives i s (fun t => only s t ∧ getAfl x.core t = getAfl x.core s) :=
    fun hi => Gives.imp (gives_moveOf h hi) fun _ ht => ht.keepsFlags
  have hbits : ∀ {i : Instr} {r : W64}, bitFieldOf s i = some (x, d, r, bfOk lo wm1) →
      Gives i s (fun t => only s t ∧ getAfl x.core t = getAfl x.core s) := fun hi => by
    rw [show bfOk lo wm1 = true from decide_eq_true hfield] at hi
    exact Gives.imp (gives_bitFieldOf h hi) fun _ ht => ht.keepsFlags
  have hcount : ∀ {i : Instr} {r : W64}, arithOf s i = some (x, d, r, 0) →
      Gives i s (fun t => only s t ∧ getAfl x.core t = getAfl x.core s) :=
    fun hi => Gives.imp (gives_arithOf h hi) fun _ ht => ht.keepsFlags
  have harith : ∀ {i : Instr} {r : W64 × BitVec 7}, arithOf s i = some (x, d, r) → ¬r.2.getLsbD 5 = true →
      Gives i s (only s) := fun hi hfl => Gives.imp (gives_arithOf h hi) fun _ ht => ht.onlyResult_noIDZ hfl
  have hfloat : ∀ {i : Instr} {r : W64 × BitVec 7}, floatOf s i = some (x, d, r) → Gives i s (only s) :=
    fun hi => Gives.imp (gives_floatOf h hi) fun _ ht => ht.onlyResult_noIDZ (floatOf_noIDZ hi)
  have hdivide : ∀ {i : Instr} {r : W64 × BitVec 7} {N : Nat}, arithOf s i = some (x, d, r) →
      (r.2.getLsbD 5 = true ↔ N = 0) → Gives i s (only (if x.core ≠ .mc1 ∧ N = 0 then count bCELL 7 s else s)) :=
    fun hi hidz => withDivision_eq x.core hidz s ▸ Gives.imp (gives_arithOf h hi) fun _ ht => ht.onlyResult
  refine ⟨List.forall_iff_forall_mem.mp ?_, List.forall_iff_forall_mem.mp ?_, List.forall_iff_forall_mem.mp ?_,
    List.forall_iff_forall_mem.mp ?_⟩
  · exact ⟨hmove rfl, hmove rfl, hmove rfl, hmove rfl, hmove rfl, hbits rfl, hbits rfl, hbits rfl, hcount rfl, hcount rfl⟩
  · have hsat := satRes_noIDZ w
    exact ⟨harith rfl noIDZ_none, harith rfl noIDZ_none, harith rfl (hsat _), harith rfl (hsat _), harith rfl noIDZ_none,
      harith rfl (hsat _), harith rfl noIDZ_none, harith rfl noIDZ_none, harith rfl noIDZ_none, harith rfl noIDZ_none,
      harith rfl noIDZ_none, harith rfl noIDZ_none, harith rfl noIDZ_none, harith rfl noIDZ_none, harith rfl noIDZ_none,
      harith rfl noIDZ_none, harith rfl noIDZ_none, harith rfl noIDZ_none, harith rfl noIDZ_none, harith rfl noIDZ_none,
      harith rfl (hsat _)⟩
  · exact ⟨hfloat rfl, hfloat rfl, hfloat rfl, hfloat rfl, hfloat rfl, hfloat rfl, hfloat rfl, hfloat rfl, hfloat rfl,
      hfloat rfl, hfloat rfl, hfloat rfl, hfloat rfl, hfloat rfl, hfloat rfl, hfloat rfl, hfloat rfl, hfloat rfl, hfloat rfl⟩
  · exact ⟨hdivide rfl ((divsRes_idz w _ _).trans sval_eq_zero), hdivide rfl (divuRes_idz w _ _),
      hdivide rfl ((remsRes_idz w _ _).trans sval_eq_zero), hdivide rfl (remuRes_idz w _ _)⟩

end Sys2Proof.Proofs
end

section
/-! PROOFS. Comparisons and predicate logic (R213, R516, Table 7-3). -/

namespace Sys2Proof.Proofs

open Sys2Proof.Machine Sys2Proof.Laws

/-! ### Outcomes of a comparison -/

theorem uval_and (w : Bool) (a b : W64) : uval w (a &&& b) = uval w a &&& uval w b := by
  cases w with
  | false => exact BitVec.toNat_and ..
  | true =>
    simp only [uval, if_true, BitVec.toNat_and]
    exact Nat.and_mod_two_pow

/-- The conditions of CMP (Table 7-3). -/
theorem cmpRes_eq (w : Bool) (cc : IntCC) (a b : W64) : cmpRes w cc a b = match cc with
    | .eq => decide (sval w a = sval w b)
    | .ne => decide (sval w a ≠ sval w b)
    | .lt => decide (sval w a < sval w b)
    | .ge => decide (sval w a ≥ sval w b)
    | .ltu => decide (uval w a < uval w b)
    | .geu => decide (uval w a ≥ uval w b)
    | .le => decide (sval w a ≤ sval w b)
    | .gt => decide (sval w a > sval w b)
    | .leu => decide (uval w a ≤ uval w b)
    | .gtu => decide (uval w a > uval w b)
    | .bits => decide (uval w a &&& uval w b ≠ 0)
    | .nbits => decide (uval w a &&& uval w b = 0) := by
  cases cc with
  | eq => simp only [cmpRes, sval_inj]; rfl
  | ne => simp only [cmpRes, ne_eq, sval_inj, bne, decide_not]; rfl
  | bits => simp only [cmpRes, uval_and, ne_eq, bne, decide_not]; rfl
  | nbits => simp only [cmpRes, uval_and]; rfl
  | _ => rfl

/-- The conditions of FCMP (Table 7-3), by the order of the operands. -/
theorem fcmpRes_outcome (f : Fmt) (fc : FltCC) (a b : Nat) : (fcmpRes f fc a b).1 = match fc with
    | .eq => fcmp f a b == some .eq
    | .ne => fcmp f a b != some .eq
    | .lt => fcmp f a b == some .lt
    | .ge => (fcmp f a b).isSome && fcmp f a b != some .lt
    | .le => (fcmp f a b).isSome && fcmp f a b != some .gt
    | .gt => fcmp f a b == some .gt
    | .un => (fcmp f a b).isNone
    | .or => (fcmp f a b).isSome := by
  unfold fcmpRes
  rcases fcmp f a b with _ | o
  · cases fc <;> rfl
  · cases fc <;> cases o <;> rfl

/-! ### The two predicates (R516) -/

section Predicates

variable {c : Core} {s : State} (pd pe : BitVec 4) (r : Bool)

theorem getP_setPreds_outcome : getP c (setPreds c pd pe r s) pd = rp pd r := getP_setP ..

theorem getP_setPreds_complement (h : pe ≠ pd) : getP c (setPreds c pd pe r s) pe = rp pe (!r) := by
  rw [setPreds, getP_setP_ne _ _ _ h, getP_setP]

theorem getP_setPreds_other {p : BitVec 4} (hd : p ≠ pd) (he : p ≠ pe) : getP c (setPreds c pd pe r s) p = getP c s p := by
  rw [setPreds, getP_setP_ne _ _ _ hd, getP_setP_ne _ _ _ he]

theorem getG_setPreds (i : BitVec 6) : getG c (setPreds c pd pe r s) i = getG c s i := by
  rw [setPreds, getG_setP, getG_setP]

theorem getAfl_setPreds : getAfl c (setPreds c pd pe r s) = getAfl c s := by
  rw [setPreds, getAfl_setP, getAfl_setP]

end Predicates

/-- PD has the outcome, PE its complement unless it names PD's predicate, the flags are added, and every other predicate and
register is as before. -/
def Compared (c : Core) (pd pe : BitVec 4) (r : Bool) (fl : BitVec 7) (s t : State) : Prop :=
  getP c t pd = rp pd r ∧ (pe ≠ pd → getP c t pe = rp pe (!r)) ∧ getAfl c t = getAfl c s ||| fl ∧
  (∀ p, p ≠ pd → p ≠ pe → getP c t p = getP c s p) ∧ ∀ i, getG c t i = getG c s i

theorem compared_setPreds (c : Core) (pd pe : BitVec 4) (r : Bool) (s : State) :
    Compared c pd pe r 0 s (setPreds c pd pe r s) :=
  ⟨getP_setPreds_outcome .., getP_setPreds_complement pd pe r, (getAfl_setPreds ..).trans BitVec.or_zero.symm,
    fun _ => getP_setPreds_other pd pe r, getG_setPreds pd pe r⟩

theorem compared_orFlags (c : Core) (pd pe : BitVec 4) (r : Bool) (fl : BitVec 7) (s : State) :
    Compared c pd pe r fl s (orFlags c fl (setPreds c pd pe r s)) := by
  obtain ⟨hpd, hpe, hfl, hp, hg⟩ := compared_setPreds c pd pe r s
  refine ⟨?_, fun h => ?_, ?_, fun p hd he => ?_, fun i => ?_⟩
  · rw [getP_orFlags, hpd]
  · rw [getP_orFlags, hpe h]
  · rw [getAfl_orFlags, getAfl_setPreds]
  · rw [getP_orFlags, hp p hd he]
  · rw [getG_orFlags, hg]

/-- What an effect compares is compared over the whole instruction. -/
theorem Compared.insn {x : Ctl} {n : Nat} {pd pe : BitVec 4} {r : Bool} {fl : BitVec 7} {s t : State}
    (h : Compared x.core pd pe r fl (preStep x.core n s) t) : Compared x.core pd pe r fl s (postStep x.core n t) := by
  simpa only [Compared, getP_postStep, getG_postStep, getAfl_postStep, getP_preStep, getG_preStep, getAfl_preStep] using h

/-- Settles O6: the outcomes are those of Table 7-3, and the write of PE comes before that of PD. -/
theorem predicateResults : Obligations.PredicateResults := by
  intro x s w cc fc a b v pd pe pa pb na nb fn h A V o sn r f two
  have hcmp : cmpRes w cc A V = r := cmpRes_eq w cc A V
  have hfcmp : (fcmpRes (fmtOf w) fc (fval w A) (fval w (getG x.core s b))).1 = f := fcmpRes_outcome ..
  refine ⟨⟨_, insn_issues h .., Compared.insn ?_⟩, ⟨_, insn_issues h .., Compared.insn ?_⟩, ⟨_, insn_issues h .., ?_⟩⟩
  · rw [getG_preStep, src16Val_preStep, hcmp]
    exact compared_setPreds ..
  · dsimp only
    rw [getG_preStep, getG_preStep, hfcmp]
    exact compared_orFlags ..
  · dsimp only
    rw [getP_postStep, getP_setP, getP_preStep, getP_preStep]
    cases fn <;> rfl

end Sys2Proof.Proofs
end

section
/-! PROOFS. Timers and edge detectors of the cell engines (R221, R222). -/

namespace Sys2Proof.Proofs

open Sys2Proof.Machine Sys2Proof.Laws

/-! ### What the writes of a cell engine leave of it -/

section Engine

variable (e : Fin 8) (s : State)

theorem engGet_setG (d : BitVec 6) (v : W64) :
    engGet (setG (.cell e) d v s) e = { engGet s e with g := gWrite (engGet s e).g d v } := engGet_engPut ..

theorem engGet_setP (p : BitVec 4) (v : Bool) :
    engGet (setP (.cell e) p v s) e = { engGet s e with p := pWrite (engGet s e).p p v } := engGet_engPut ..

theorem engGet_postStep (n : Nat) : let g := engGet s e
    engGet (postStep (.cell e) n s) e =
      { g with loops := (loopNext g.loops g.pos).1, pos := (loopNext g.loops g.pos).2, used := g.used + n, busy := n } :=
  engGet_engPut ..

theorem getG_engPut {v : CellEng} (h : v.g = (engGet s e).g) (i : BitVec 6) :
    getG (.cell e) (engPut s e v) i = getG (.cell e) s i := by
  rw [getG, getG, engGet_engPut, h]

theorem getP_engPut {v : CellEng} (h : v.p = (engGet s e).p) (i : BitVec 4) :
    getP (.cell e) (engPut s e v) i = getP (.cell e) s i := by
  rw [getP, getP, engGet_engPut, h]

end Engine

/-! ### Timers (R221) -/

/-- d of R221: the time since START, at most PT. -/
def timerElapsed (o : Timer) (pt now : W64) : W64 := if (now - o.start).toNat < pt.toNat then now - o.start else pt

/-- A timer as an evaluation leaves it. -/
def timerAfter (o : Timer) (inp : Bool) (start : W64) (run q : Bool) : Timer :=
  { o with start := start, run := run, q := q, inPrev := inp }

theorem decide_zero_lt (pt : W64) : decide (0#64 < pt) = (pt != 0) := by
  rw [Bool.eq_iff_iff, decide_eq_true_eq, bne_iff_ne]
  bv_omega

theorem decide_zero_eq (pt : W64) : decide (0#64 = pt) = !(pt != 0) := by
  rw [bne, Bool.not_not, beq_eq_decide, decide_eq_decide]
  exact eq_comm

section Timers

variable {o : Timer} {inp : Bool} {pt now : W64}

theorem timerElapsed_eq : (if now - o.start ≤ pt then now - o.start else pt) = timerElapsed o pt now := by
  unfold timerElapsed
  simp only [BitVec.le_def]
  split_ifs
  · rfl
  · exact BitVec.eq_of_toNat_eq (by omega)
  · omega
  · rfl

/-- A TON without its input is reset. -/
theorem ton_reset (htyp : o.typ = 1) (hin : inp = false) :
    timerEval o inp pt now = (timerAfter o inp o.start false false, 0, false) := by
  simp [timerEval, timerAfter, htyp, hin]

/-- A TON starts with the rising edge of its input. -/
theorem ton_starts (htyp : o.typ = 1) (hin : inp = true) (hprev : o.inPrev = false) :
    timerEval o inp pt now = (timerAfter o inp now true (pt == 0), 0, pt == 0) := by
  simp [timerEval, timerAfter, htyp, hin, hprev]

theorem ton_runs (htyp : o.typ = 1) (hin : inp = true) (hprev : o.inPrev = true) : let d := timerElapsed o pt now
    timerEval o inp pt now = (timerAfter o inp o.start o.run (d == pt), d, d == pt) := by
  simp [timerEval, timerAfter, htyp, hin, hprev, timerElapsed_eq]

/-- A TOF with its input is on. -/
theorem tof_on (htyp : o.typ = 2) (hin : inp = true) :
    timerEval o inp pt now = (timerAfter o inp o.start false true, 0, true) := by
  simp [timerEval, timerAfter, htyp, hin]

/-- A TOF starts with the falling edge of its input. -/
theorem tof_starts (htyp : o.typ = 2) (hin : inp = false) (hprev : o.inPrev = true) :
    timerEval o inp pt now = (timerAfter o inp now (pt != 0) (pt != 0), 0, pt != 0) := by
  simp [timerEval, timerAfter, htyp, hin, hprev, decide_zero_lt, decide_zero_eq]

theorem tof_runs (htyp : o.typ = 2) (hin : inp = false) (hprev : o.inPrev = false) : let d := timerElapsed o pt now
    timerEval o inp pt now = (timerAfter o inp o.start (o.run && d != pt) (o.run && decide (d.toNat < pt.toNat)), d,
      o.run && decide (d.toNat < pt.toNat)) := by
  simp [timerEval, timerAfter, htyp, hin, hprev, timerElapsed_eq, BitVec.lt_def, bne, beq_eq_decide, Bool.and_comm]

theorem tp_runs (htyp : o.typ = 3) (hrun : o.run = true) : let d := timerElapsed o pt now
    timerEval o inp pt now = (timerAfter o inp o.start (d != pt) (decide (d.toNat < pt.toNat)), d,
      decide (d.toNat < pt.toNat)) := by
  simp [timerEval, timerAfter, htyp, hrun, timerElapsed_eq, BitVec.lt_def, bne, beq_eq_decide]

/-- A TP starts with the rising edge of its input. -/
theorem tp_starts (htyp : o.typ = 3) (hrun : o.run = false) (hin : inp = true) (hprev : o.inPrev = false) :
    timerEval o inp pt now = (timerAfter o inp now (pt != 0) (pt != 0), 0, pt != 0) := by
  simp [timerEval, timerAfter, htyp, hrun, hin, hprev, decide_zero_lt]

/-- A TP without a pulse rests. -/
theorem tp_rests (htyp : o.typ = 3) (hrun : o.run = false) (hedge : ¬(inp = true ∧ o.inPrev = false)) :
    timerEval o inp pt now = (timerAfter o inp o.start false false, if inp then pt else 0, false) := by
  simp [timerEval, timerAfter, htyp, hrun, hedge]

end Timers

/-- Settles O11: the rows of R221, one by one; D takes ET and PQ takes Q. -/
theorem timersFollowTheirRule : Obligations.TimersFollowTheirRule := by
  intro e p gn s d a pi pq ni num x g tm o inp pre el out h
  have hout : ∀ {start : W64} {run q : Bool} {et : W64},
      timerEval o inp pre g.now = (timerAfter o inp start run q, et, q) → out start run q et := by
    intro start run q et heval
    let u := setP x.core pq q (setG x.core d et
      (engPut s e { g with timers := tblPut g.timers num.toNat (timerAfter o inp start run q) {} }))
    have heff : tmrEff x e d a pi ni pq num (preStep x.core 6 s) = u := by
      change setP x.core pq (timerEval o inp pre g.now).2.2 (setG x.core d (timerEval o inp pre g.now).2.1
        (engPut s e { g with timers := tblPut g.timers num.toNat (timerEval o inp pre g.now).1 {} })) = _
      rw [heval]
    have htm : ∀ k, tm (postStep x.core 6 u) k = tblGet (tblPut g.timers num.toNat (timerAfter o inp start run q) {}) k {} :=
      fun k => by simp only [tm, u, x, engGet_postStep, engGet_setP, engGet_setG, engGet_engPut]
    refine gives_insn h rfl heff
      ⟨(htm _).trans (tblGet_tblPut_same ..), ?_, ?_, fun k hk => (htm k).trans (tblGet_tblPut_ne _ _ _ hk)⟩
    · rw [getG_postStep, getG_setP, getG_setG]
    · rw [getP_postStep, getP_setP]
  exact ⟨fun htyp hin => hout (ton_reset htyp hin), fun htyp hin hprev => hout (ton_starts htyp hin hprev),
    fun htyp hin hprev => hout (ton_runs htyp hin hprev), fun htyp hin => hout (tof_on htyp hin),
    fun htyp hin hprev => hout (tof_starts htyp hin hprev), fun htyp hin hprev => hout (tof_runs htyp hin hprev),
    fun htyp hrun => hout (tp_runs htyp hrun), fun htyp hrun hin hprev => hout (tp_starts htyp hrun hin hprev),
    fun htyp hrun hedge => hout (tp_rests htyp hrun hedge)⟩

/-! ### Edge detectors (R222) -/

/-- A word of EDGE with a set bit in its D or A field is not valid. -/
theorem validWord_edge {v : Nat} (hop : wOp v = 0x59) (hfields : bits v 47 36 ≠ 0) : validWord false v = false := by
  have hopf : opFields v = false := by
    unfold opFields
    rw [hop]
    exact beq_false_of_ne hfields
  unfold validWord
  rw [hopf]
  cases opRow v with
  | none => rfl
  | some r => exact Bool.and_false _

/-- Settles O12: one evaluation of the detector, with Q in PQ. -/
theorem edgesFollowTheirRule : Obligations.EdgesFollowTheirRule := by
  refine ⟨fun v => validWord_edge, fun e p gn s pi pq ni num => ?_⟩
  intro x ed o inp q h
  let g : CellEng := { engGet s e with edges := tblPut (engGet s e).edges num.toNat { o with first := false, prev := inp } {} }
  let u := setP x.core pq q (engPut s e g)
  have hed : ∀ k, ed (postStep x.core 3 u) k = tblGet g.edges k {} := fun k => by
    simp only [ed, x, u, engGet_postStep, engGet_setP, engGet_engPut]
  refine gives_insn (u := u) h rfl rfl ⟨?_, (hed _).trans (tblGet_tblPut_same ..),
    fun k hk => (hed k).trans (tblGet_tblPut_ne _ _ _ hk), fun j => ?_, fun k hk => ?_⟩
  · rw [getP_postStep, getP_setP]
  · rw [getG_postStep, getG_setP]
    exact getG_engPut e s (v := g) rfl j
  · rw [getP_postStep, getP_setP_ne _ _ _ hk]
    exact getP_engPut e s (v := g) rfl k

end Sys2Proof.Proofs
end

section
/-! PROOFS. Point reads by PLD (R217, R218, R220). -/

namespace Sys2Proof.Proofs

open Sys2Proof.Machine Sys2Proof.Laws

/-- A freeze of a cell engine ends its program cycle. -/
theorem freezeEffect_cell (e : Fin 8) (s : State) : freezeEffect (2 + e.val) s =
    engPut s e { engGet s e with inCyc := false, stepping := false } := by
  rw [freezeEffect, if_pos ⟨Nat.le_add_right 2 e.val, by omega⟩, Nat.add_sub_cancel_left]
  rfl

/-- A freeze writes no register of a cell engine. -/
theorem getG_freeze {e : Fin 8} {s : State} (h : frozenM s (2 + e.val) = false) (cause addr slot : Nat) (i : BitVec 6) :
    getG (.cell e) (freeze (2 + e.val) cause addr slot s) i = getG (.cell e) s i := by
  have hcell : (freeze (2 + e.val) cause addr slot s).cell = (freezeEffect (2 + e.val) s).cell := by
    obtain ⟨data, heq⟩ := freeze_eq h cause addr slot
    simp [heq, withFrozen]
  calc getG (.cell e) (freeze (2 + e.val) cause addr slot s) i
      = getG (.cell e) (freezeEffect (2 + e.val) s) i := congrArg (fun c : CellRegs => gRead (tblGet c.eng e {}).g i) hcell
    _ = getG (.cell e) s i := by
      rw [freezeEffect_cell]
      exact getG_engPut e s (v := { engGet s e with inCyc := false, stepping := false }) rfl i

/-- The value that a record's TYPE makes of its stored bytes (R218). -/
theorem pldValue_eq (r : Point) : pldValue r =
    if r.typ = 1 then r.value &&& 1 else if r.typ = 2 then (r.value.truncate 32).signExtend 64
    else if r.typ = 3 ∨ r.typ = 6 then (r.value.truncate 32 : W32).zeroExtend 64 else r.value := by
  have hlow : r.value &&& 0xFFFFFFFF = (r.value.truncate 32 : W32).zeroExtend 64 := by
    have hand : r.value.toNat &&& 0xFFFFFFFF = r.value.toNat % 2 ^ 32 := Nat.and_two_pow_sub_one_eq_mod r.value.toNat 32
    exact BitVec.eq_of_toNat_eq (by simp [hand]; omega)
  unfold pldValue sext32
  rw [hlow]
  by_cases h1 : r.typ = 1
  · rw [h1]
    rfl
  · simp only [if_neg h1]

/-- A core reads the working copy of the output view (Table 6-5). -/
theorem readPt_core (c : Core) (s : State) (out : Bool) (i : Nat) :
    readPt s (coreMaster c) out i = if out then workPt s i else frozenPt s i := by
  have hcore : ¬18 ≤ coreMaster c := by
    cases c with
    | cell e => simp only [coreMaster]; omega
    | mc1 => decide
  cases out <;> simp [readPt, hcore]

theorem frozen_of_runs {e : Fin 8} {s : State} (h : coreRuns (.cell e) s = true) : frozenM s (2 + e.val) = false := by
  simp only [coreRuns, Bool.and_eq_true, Bool.not_eq_true'] at h
  exact h.1.2

section Pld

variable {x : Ctl} {s : State} (d xr q : BitVec 6) (out : Bool) (pt : BitVec 17) (h : Issues x s)

/-- PLD has written a value to D and then a quality to Q, and nothing else has changed. -/
def PointRead (c : Core) (d q : BitVec 6) (v k : W64) (s t : State) : Prop :=
  (q ≠ d → getG c t d = rd d v) ∧ getG c t q = rd q k ∧ (∀ j, j ≠ d → j ≠ q → getG c t j = getG c s j) ∧
  elsewhere c t = elsewhere c s

include h

theorem pointRead_postStep (n : Nat) (v k : W64) :
    PointRead x.core d q v k s (postStep x.core n (setG x.core q k (setG x.core d v (preStep x.core n s)))) := by
  have hcyc := inCycle_preStep (inCycle_of_runs h.1) n
  have hset := inCycle_setG hcyc d v
  refine ⟨fun hne => ?_, ?_, fun j hd hq => ?_, ?_⟩
  · rw [getG_postStep, getG_setG_ne _ _ _ hne.symm, getG_setG]
  · rw [getG_postStep, getG_setG]
  · rw [getG_postStep, getG_setG_ne _ _ _ hq, getG_setG_ne _ _ _ hd, getG_preStep]
  · rw [elsewhere_postStep (inCycle_setG hset q k), elsewhere_setG hset, elsewhere_setG hcyc, elsewhere_preStep]

end Pld

/-- A point access of a cell engine outside its windows, or inside them and outside its slot, freezes the engine. -/
theorem ptAccess_outside {e : Fin 8} {addr : Nat} {s : State} (hw : inWindow s (2 + e.val) addr 16 false = false)
    (ok : State → State) : ptAccess (.cell e) false addr ok s = freeze (2 + e.val) czWINDOW_R addr (curSlot s (2 + e.val)) s :=
  if_neg (Bool.eq_false_iff.mp hw)

theorem ptAccess_unslotted {e : Fin 8} {addr : Nat} {w : Bool} {s : State} (hw : inWindow s (2 + e.val) addr 16 w = true)
    (hslot : inSlotOf s (2 + e.val) = false) (ok : State → State) :
    ptAccess (.cell e) w addr ok s = freeze (2 + e.val) czOVERRUN addr (curSlot s (2 + e.val)) s :=
  (if_pos hw).trans (if_neg (Bool.eq_false_iff.mp hslot))

/-- Settles O9: an index beyond every point, a record inside the windows and the slot, and the two freezes. -/
theorem pointReads : Obligations.PointReads := by
  intro x s d xr q out pt h i m a r v put stops
  have hindex : ptIndex x.core (preStep x.core 20 s) xr pt = i := by rw [ptIndex, getG_preStep]
  have hput : ∀ {v k : W64}, pldEff x d xr q out pt (preStep x.core 20 s) =
      setG x.core q k (setG x.core d v (preStep x.core 20 s)) → put v k :=
    fun heff => gives_insn h rfl heff (pointRead_postStep d q h 20 _ _)
  have hstops : ∀ {cause : Nat}, (∀ e, x.core = .cell e → pldEff x d xr q out pt s = freeze m cause a (curSlot s m) s) →
      stops (BitVec.ofNat 4 cause) := by
    intro cause heff e he
    obtain ⟨c, gp, gn⟩ := x
    obtain rfl : c = .cell e := he
    have hfree : frozenM s (2 + e.val) = false := frozen_of_runs h.1
    refine gives_insn h rfl (heff e rfl) ⟨?_, ?_, ?_, fun j => ?_⟩
    · exact (frozenM_freeze hfree ..).trans (if_pos rfl)
    · exact congrArg Frz.cause (frzInfo_freeze hfree ..)
    · exact congrArg Frz.addr (frzInfo_freeze hfree ..)
    · exact (getG_postStep ..).trans (getG_freeze hfree ..)
  obtain ⟨r', hpre⟩ := preStep_mc1 x.core 20 s
  refine ⟨fun hi => hput ?_, fun hi hw hslot => hput ?_, fun hi hw => hstops fun e he => ?_,
    fun hi hw hslot => hstops fun e he => ?_⟩
  · rw [pldEff, hindex]
    exact if_pos hi
  · have hw' : inWindow (preStep x.core 20 s) (coreMaster x.core) a 16 false = true := by rwa [hpre]
    have hslot' : ∀ e, x.core = .cell e → inSlotOf (preStep x.core 20 s) (coreMaster x.core) = true := by rwa [hpre]
    have hr : readPt (preStep x.core 20 s) (coreMaster x.core) out i = r := by
      rw [hpre]
      exact readPt_core x.core _ out i
    rw [pldEff, hindex]
    refine (if_neg (Nat.not_le.mpr hi)).trans ((ptAccess_inside hw' hslot' _).trans ?_)
    dsimp only
    rw [hr, pldValue_eq]
  · obtain ⟨c, gp, gn⟩ := x
    obtain rfl : c = .cell e := he
    exact (if_neg (Nat.not_le.mpr hi)).trans (ptAccess_outside hw _)
  · obtain ⟨c, gp, gn⟩ := x
    obtain rfl : c = .cell e := he
    exact (if_neg (Nat.not_le.mpr hi)).trans (ptAccess_unslotted hw hslot _)

end Sys2Proof.Proofs
end

section
/-! PROOFS. Loops and the end of a program cycle (R183, R198, R207, R208). -/

namespace Sys2Proof.Proofs

open Sys2Proof.Machine Sys2Proof.Laws

/-! ### The position after an instruction (R208) -/

theorem loopNext_inside {l : LoopLevel} {p : Nat} (h : p ≠ l.last) (r : List LoopLevel) :
    loopNext (l :: r) p = (l :: r, p + 1) :=
  if_neg h

theorem loopNext_repeats {l : LoopLevel} (h : 1 < l.left) (r : List LoopLevel) :
    loopNext (l :: r) l.last = ({ l with left := l.left - 1, idx := l.idx + 1 } :: r, l.first) :=
  (if_pos rfl).trans (if_pos h)

/-- After its last repetition a level is left, and no level around it ends at the same place. -/
theorem loopNext_leaves {l : LoopLevel} {r : List LoopLevel} (h : l.left ≤ 1) (hr : ∀ k ∈ r, l.last ≠ k.last) :
    loopNext (l :: r) l.last = (r, l.last + 1) := by
  have houter : loopNext r l.last = (r, l.last + 1) := by
    cases r with
    | nil => rfl
    | cons k r => exact loopNext_inside (hr k List.mem_cons_self) r
  rw [loopNext, if_pos rfl, if_neg (Nat.not_lt.mpr h), houter]

/-! ### The end of a program cycle (R207) -/

theorem taskOf_map {g t : CellEng} {f : CellTask → CellTask} (hf : ∀ k, (f k).task = k.task) (ht : t.tasks = g.tasks.map f)
    (n : Nat) : taskOf t n = (taskOf g n).map f := by
  rw [taskOf, taskOf, ht, List.find?_map]
  simp only [Function.comp_def, hf]

/-- The engine at the end of its cycle, before the mode boundary. -/
def cycleEnded (g : CellEng) : CellEng :=
  taskUpd { g with inCyc := false, ending := false, stepping := false, cycles := g.cycles + 1,
                   step := if g.stepping then none else g.step } g.task.toNat fun k => { k with cycles := k.cycles + 1 }

/-- What the end of a cycle gives an engine, whatever mode and reads wait for it. -/
def CycleEnded (g t : CellEng) : Prop :=
  t.inCyc = false ∧ t.cycles = g.cycles + 1 ∧
  ∀ k, taskOf g g.task.toNat = some k → ∃ u, taskOf t g.task.toNat = some u ∧ u.cycles = k.cycles + 1

theorem CycleEnded.ofEnded (g : CellEng) : CycleEnded g (cycleEnded g) := by
  refine ⟨rfl, rfl, fun k hk => ?_⟩
  have htask : k.task.toNat = g.task.toNat := by simpa using List.find?_some hk
  refine ⟨{ k with cycles := k.cycles + 1 }, ?_, rfl⟩
  rw [taskOf_map (g := g) (f := fun k => if k.task.toNat == g.task.toNat then { k with cycles := k.cycles + 1 } else k)
    (fun k => by split_ifs <;> rfl) rfl, hk]
  simp [htask]

/-- A later change of the engine that keeps the tasks' cycles is no matter. -/
theorem CycleEnded.congr {g t u : CellEng} (h : CycleEnded g t) (hin : u.inCyc = t.inCyc) (hcycles : u.cycles = t.cycles)
    {f : CellTask → CellTask} (hf : ∀ k, (f k).task = k.task ∧ (f k).cycles = k.cycles) (htasks : u.tasks = t.tasks.map f) :
    CycleEnded g u := by
  obtain ⟨hi, hc, htask⟩ := h
  refine ⟨hin.trans hi, hcycles.trans hc, fun k hk => ?_⟩
  obtain ⟨v, hv, hcyc⟩ := htask k hk
  exact ⟨f v, by rw [taskOf_map (fun k => (hf k).1) htasks, hv]; rfl, (hf v).2.trans hcyc⟩

theorem CycleEnded.sameTasks {g t u : CellEng} (h : CycleEnded g t) (hin : u.inCyc = t.inCyc) (hcycles : u.cycles = t.cycles)
    (htasks : u.tasks = t.tasks) : CycleEnded g u :=
  h.congr hin hcycles (f := id) (fun _ => ⟨rfl, rfl⟩) (htasks.trans (List.map_id _).symm)

/-- The engine in a requested mode (R186). -/
def atMode (m : BitVec 2) (g : CellEng) : CellEng :=
  { g with req := none, mode := m, step := if m = g.mode then g.step else none,
           tasks := if m = 0 then g.tasks.map fun k => { k with first := true } else g.tasks }

theorem CycleEnded.atMode {g t : CellEng} (h : CycleEnded g t) (m : BitVec 2) : CycleEnded g (atMode m t) := by
  by_cases hm : m = 0
  · exact h.congr rfl rfl (f := fun k => { k with first := true }) (fun _ => ⟨rfl, rfl⟩) (if_pos hm)
  · exact h.sameTasks rfl rfl (if_neg hm)

/-- A mode boundary changes the engine where a mode is requested, and drops no step but a waiting one. -/
theorem modeBoundary_cases (e : Nat) (s : State) : modeBoundary e s = s ∨
    ∃ m, modeBoundary e s = engPut s e (atMode m (engGet s e)) ∨
      ∃ d, (engGet s e).step = some d ∧ modeBoundary e s = complete d stDROPPED 0 (engPut s e (atMode m (engGet s e))) := by
  unfold modeBoundary
  dsimp only
  split
  · exact .inl rfl
  · next m _ =>
    refine .inr ⟨m, ?_⟩
    split
    · next d hd =>
      by_cases hm : m = (engGet s e).mode
      · exact .inl (if_pos hm)
      · exact .inr ⟨d, hd, if_neg hm⟩
    · exact .inl rfl

theorem engGet_complete (d : HostDesc) (st data : Nat) (s : State) (e : Nat) : engGet (complete d st data s) e = engGet s e :=
  congrArg (fun c : CellRegs => tblGet c.eng e {}) (complete_cell d st data s)

theorem CycleEnded.modeBoundary {g : CellEng} {e : Nat} {s : State} (h : CycleEnded g (engGet s e)) :
    CycleEnded g (engGet (modeBoundary e s) e) := by
  rcases modeBoundary_cases e s with heq | ⟨m, heq | ⟨d, -, heq⟩⟩
  · rwa [heq]
  · rw [heq, engGet_engPut]
    exact h.atMode m
  · rw [heq, engGet_complete, engGet_engPut]
    exact h.atMode m

theorem engGet_cellReadDone (d : HostDesc) (s : State) (e : Nat) : engGet (cellReadDone d s) e = engGet s e := by
  unfold cellReadDone finCell finish
  dsimp only
  split_ifs
  · rw [engGet_complete, engGet_countIf]
  · rw [engGet_complete, engGet_countIf, engGet, (toHost_keeps _ _ s).2, engGet]

theorem CycleEnded.readWaits {g : CellEng} {e : Nat} {s : State} (h : CycleEnded g (engGet s e)) :
    CycleEnded g (engGet (cellReadWaits e s) e) := by
  have hreads : ∀ (l : List HostDesc) (u : State), engGet (l.foldl (fun s d => cellReadDone d s) u) e = engGet u e := by
    intro l
    induction l with
    | nil => exact fun _ => rfl
    | cons d l ih => exact fun u => (ih _).trans (engGet_cellReadDone d u e)
  unfold cellReadWaits
  extract_lets g'
  split_ifs
  · exact h
  · rw [hreads, engGet_engPut]
    exact h.sameTasks rfl rfl rfl

theorem cycleEnded_endCycle (e : Nat) (s : State) : CycleEnded (engGet s e) (engGet (endCycle e s) e) := by
  unfold endCycle
  extract_lets g g1 s1 s2
  have hs1 : engGet s1 e = cycleEnded g := engGet_engPut ..
  have hs2 : engGet s2 e = cycleEnded g := by
    dsimp only [s2]
    split
    · rw [engGet_complete, hs1]
    · exact hs1
  exact CycleEnded.readWaits (CycleEnded.modeBoundary (hs2 ▸ CycleEnded.ofEnded g))

/-- At a mode boundary without a step, nothing is completed and none appears. -/
theorem modeBoundary_stepless {e : Nat} {s : State} (h : (engGet s e).step = none) : (modeBoundary e s).hif = s.hif ∧
    (engGet (modeBoundary e s) e).step = none ∧ (engGet (modeBoundary e s) e).reads = (engGet s e).reads := by
  rcases modeBoundary_cases e s with heq | ⟨m, heq | ⟨d, hd, -⟩⟩
  · rw [heq]
    exact ⟨rfl, h, rfl⟩
  · rw [heq, engGet_engPut]
    exact ⟨rfl, by simp only [atMode, h, ite_self], rfl⟩
  · simp [h] at hd

/-- The end of a stepped cycle completes its CELL_STEP with the MFN (R198). -/
theorem endCycle_stepped {e : Nat} {s : State} {q : HostDesc} (hstepping : (engGet s e).stepping = true)
    (hstep : (engGet s e).step = some q) (hq : q ∈ (ringGet s q.ring).started) (hreads : (engGet s e).reads = []) :
    Answered q stOK s.sched.mfn.toNat (endCycle e s) ∧ (engGet (endCycle e s) e).step = none := by
  let s2 := complete q stOK s.sched.mfn.toNat (engPut s e (cycleEnded (engGet s e)))
  have heng : engGet s2 e = cycleEnded (engGet s e) := (engGet_complete ..).trans (engGet_engPut ..)
  have hnone : (cycleEnded (engGet s e)).step = none := if_pos hstepping
  obtain ⟨hhif, hs, hr⟩ := modeBoundary_stepless (heng ▸ hnone : (engGet s2 e).step = none)
  have hend : endCycle e s = cellReadWaits e (modeBoundary e s2) := by
    unfold endCycle
    dsimp only
    split
    · next d _ hd =>
      obtain rfl : q = d := Option.some.inj (hstep.symm.trans hd)
      rfl
    · next hnot => exact (hnot q hstepping hstep).elim
  have hwaits : cellReadWaits e (modeBoundary e s2) = modeBoundary e s2 := by
    have hempty : (engGet (modeBoundary e s2) e).reads = [] := by rw [hr, heng]; exact hreads
    simp only [cellReadWaits, hempty, List.isEmpty_nil, Bool.or_true, if_true]
  rw [hend, hwaits]
  refine ⟨?_, hs⟩
  rw [Answered, hhif]
  exact answered_complete stOK s.sched.mfn.toNat hq

/-- An instruction of a cell engine moves on as `loopNext` says of the engine it leaves. -/
theorem gives_next {i : Instr} {x : Ctl} {e : Fin 8} {n : Nat} {eff : State → State} {s : State} {v : CellEng}
    (hx : x.core = .cell e) (h : Issues x s) (hexec : exec i s = insn x n eff s)
    (heng : engGet (eff (preStep x.core n s)) e = v) {ls : List LoopLevel} {p : Nat}
    (hnext : loopNext v.loops v.pos = (ls, p)) :
    Gives i s fun t => (engGet t e).pos = p ∧ (engGet t e).loops = ls := by
  refine gives_insn h hexec rfl ?_
  rw [hx] at heng ⊢
  rw [engGet_postStep, heng]
  exact ⟨congrArg Prod.snd hnext, congrArg Prod.fst hnext⟩

/-- Settles O13: the position after each instruction, and what the end of the cycle gives the engine and its step. -/
theorem loopsAndTheEndOfACycle : Obligations.LoopsAndTheEndOfACycle := by
  intro e s d n c lv l r x g hrun
  have h : Issues x s := ⟨hrun, rfl⟩
  refine ⟨fun hn => ?_, fun hl hp hleft => ?_, fun hl hp hleft hr => ?_, fun k hk => ?_, fun hnone => ?_, ?_,
    fun q hstepping hstep hstarted hreads => ?_⟩
  · have hlast : g.pos ≠ g.pos + n.toNat := by bv_omega
    have hunguarded : (unguarded x && n != 0) = true := bne_iff_ne.mpr hn
    have hnext := gives_next (i := .loop x n c) rfl h (if_pos hunguarded) (engGet_engPut ..) (loopNext_inside hlast g.loops)
    exact Gives.imp hnext fun _ => And.symm
  · exact gives_next rfl h rfl rfl ((congrArg₂ loopNext hl hp).trans (loopNext_repeats hleft r))
  · have hnext : loopNext g.loops g.pos = (r, l.last + 1) := by
      rw [hl, hp]
      exact loopNext_leaves hleft fun k hk => hp ▸ hr k hk
    exact gives_next rfl h rfl rfl (hp.symm ▸ hnext)
  · have hlevel : g.loops[lv.toNat]? = some k := hk
    refine Gives.imp (gives_setG (v := BitVec.ofNat 64 k.idx) h rfl ?_) fun t ht => ht.result
    change (match g.loops[lv.toNat]? with | some l => BitVec.ofNat 64 l.idx | none => 0) = _
    rw [hlevel]
  · refine Gives.imp (gives_setG (v := 0) h rfl ?_) fun t ht => ht.result.trans (ite_self _)
    change (match g.loops[lv.toNat]? with | some l => BitVec.ofNat 64 l.idx | none => 0) = _
    rw [hnone]
  · refine gives_insn h rfl rfl ((cycleEnded_endCycle e s).sameTasks ?_ ?_ ?_)
    all_goals rw [engGet_postStep]; rfl
  · obtain ⟨hans, hdone⟩ := endCycle_stepped hstepping hstep hstarted hreads
    refine gives_insn h rfl rfl ⟨hans, ?_⟩
    rw [engGet_postStep]
    exact hdone

end Sys2Proof.Proofs
end

section
/-! PROOFS. Faults whose vector lies in FSAVE (R227): two statements read the vector before the frame is saved. -/

namespace Sys2Proof.Proofs

open Sys2Proof.Machine Sys2Proof.Laws

/-- MC1 executes unguarded. -/
def mc1Always : Ctl := { core := .mc1, gp := 0, gn := false }

/-- The block after reset with a vector table whose entry of `vec` is the first doubleword of FSAVE. No MSR gives VBASE such
a value (R226), but the statements ask nothing of VBASE. -/
def vectorInFSave (vec : Nat) : State :=
  { State.reset with mc1 := { State.reset.mc1 with vbase := BitVec.ofNat 64 (mc1FSave - 8 * vec) } }

/-- The frame in FSAVE starts with the PC after the faulting instruction, so the handler is entered there. -/
def EntersSavedPc (vec : Nat) : Prop :=
  (mc1Fault vec 0 (preStep .mc1 1 (vectorInFSave vec))).mc1.pc = 8 ∧ vectorOf (vectorInFSave vec).mc1 vec = 0

theorem entersSavedPc_illegal : EntersSavedPc vILLEGAL := by unfold EntersSavedPc; decide +kernel

theorem entersSavedPc_stack : EntersSavedPc vSTACK := by unfold EntersSavedPc; decide +kernel

theorem issues_vectorInFSave (vec : Nat) : Issues mc1Always (vectorInFSave vec) := by
  have h : coreRuns .mc1 State.reset = true := by decide +kernel
  exact ⟨h, rfl⟩

/-- The fault is not taken as the statements say: the vector read before the frame is saved is 0. -/
theorem not_faultTaken {vec : Nat} (h : EntersSavedPc vec) :
    ¬ FaultTaken vec (vectorInFSave vec) (mc1Fault vec 0 (preStep .mc1 1 (vectorInFSave vec))) := by
  rintro ⟨hfault, -⟩
  obtain ⟨-, hpc, -⟩ := hfault (by decide +kernel : State.reset.mc1.cpri ≠ 16)
  obtain ⟨hsaved, hvector⟩ := h
  exact absurd (hsaved.symm.trans (hpc.trans hvector)) (by decide)

/-- Refutes O3: LIDX is ILLEGAL on MC1, and with the vector of ILLEGAL in FSAVE the handler is entered at the saved PC, 8,
and not at the 0 that FSAVE held before. -/
theorem not_instructionsTakeTheirCyclesWhereValid : ¬ Obligations.InstructionsTakeTheirCyclesWhereValid := by
  rintro ⟨-, hillegal⟩
  obtain ⟨hruns, -⟩ := issues_vectorInFSave vILLEGAL
  obtain ⟨t, hexec, ht⟩ := hillegal (.lidx mc1Always 0 0) mc1Always 1 (vectorInFSave vILLEGAL) rfl rfl hruns
  have heq : mc1Fault vILLEGAL 0 (preStep .mc1 1 (vectorInFSave vILLEGAL)) = t :=
    Host.Outcome.next.inj ((congrArg Host.Outcome.next (if_pos hruns)).symm.trans hexec)
  exact not_faultTaken entersSavedPc_illegal (heq ▸ ht)

/-- A push below SPLIM raises STACK (R226). -/
theorem pushThen_below {s : State} (h : (spOf s).toNat < s.mc1.splim.toNat + 8) (v : W64) (next : State → State) :
    pushThen v next s = insnFault vSTACK s := if_pos h

/-- Refutes O14: PUSH with G63 = 0 falls below SPLIM, and with the vector of STACK in FSAVE the handler is entered at the
saved PC, 8, and not at the 0 that FSAVE held before. -/
theorem not_supervisorControlFlow : ¬ Obligations.SupervisorControlFlow := by
  rintro ⟨hstack, -⟩
  obtain ⟨-, -, -, -, hbelow⟩ := hstack 0 false (vectorInFSave vSTACK) 0 0 0 (issues_vectorInFSave vSTACK)
  obtain ⟨-, -, t, hexec, ht⟩ := hbelow (by decide +kernel)
  have hbelowPush : (spOf (preStep .mc1 1 (vectorInFSave vSTACK))).toNat < (vectorInFSave vSTACK).mc1.splim.toNat + 8 := by
    decide +kernel
  have hpush : exec (.push mc1Always 0) (vectorInFSave vSTACK) =
      .next (mc1Fault vSTACK 0 (preStep .mc1 1 (vectorInFSave vSTACK))) :=
    (insn_issues (issues_vectorInFSave vSTACK) ..).trans (congrArg Host.Outcome.next (pushThen_below hbelowPush 0 id))
  exact not_faultTaken entersSavedPc_stack (Host.Outcome.next.inj (hpush.symm.trans hexec) ▸ ht)

end Sys2Proof.Proofs
end

section
/-! PROOFS. What the loop engines' commands share: loops by engine and index, the completions of LOOP, the write of an output,
and which loops and points an occurrence can change (R230, R231, R234, R515). -/

namespace Sys2Proof.Proofs

open Sys2Proof.Machine Sys2Proof.Laws

/-! ### Loops by engine and index -/

@[simp] theorem lpGet_lpPut (s : State) (e : Nat) (v : LoopEng) : lpGet (lpPut s e v) e = v := tblGet_tblPut_same ..

theorem lpGet_lpPut_ne (s : State) {e f : Nat} (v : LoopEng) (h : f ≠ e) : lpGet (lpPut s e v) f = lpGet s f :=
  tblGet_tblPut_ne _ _ _ h

theorem lpGet_congr {s t : State} (h : t.loops = s.loops) (e : Nat) : lpGet t e = lpGet s e := by rw [lpGet, lpGet, h]

theorem lstGet_congr {s t : State} (h : t.loops = s.loops) (e i : Nat) : lstGet t e i = lstGet s e i := by
  rw [lstGet, lstGet, lpGet_congr h]

theorem lcfg_congr {s t : State} (h : t.loops = s.loops) (e i : Nat) : lcfg t e i = lcfg s e i := by
  rw [lcfg, lcfg, lpGet_congr h]

@[simp] theorem lstGet_lstPut (s : State) (e i : Nat) (v : LoopSt) : lstGet (lstPut s e i v) e i = v := by
  rw [lstGet, lstPut, lpGet_lpPut]
  exact tblGet_tblPut_same ..

theorem lstGet_lstPut_ne (s : State) {e i f j : Nat} (v : LoopSt) (h : ¬(f = e ∧ j = i)) :
    lstGet (lstPut s e i v) f j = lstGet s f j := by
  rw [lstGet, lstPut]
  by_cases hf : f = e
  · subst hf
    rw [lpGet_lpPut]
    exact tblGet_tblPut_ne _ _ _ fun hj => h ⟨rfl, hj⟩
  · rw [lpGet_lpPut_ne _ _ hf, lstGet]

theorem cfgs_lstPut (s : State) (e i : Nat) (v : LoopSt) (f : Nat) : (lpGet (lstPut s e i v) f).cfgs = (lpGet s f).cfgs := by
  rw [lstPut]
  by_cases hf : f = e
  · subst hf
    rw [lpGet_lpPut]
  · rw [lpGet_lpPut_ne _ _ hf]

@[simp] theorem lcfg_lstPut (s : State) (e i : Nat) (v : LoopSt) (f j : Nat) : lcfg (lstPut s e i v) f j = lcfg s f j := by
  rw [lcfg, cfgs_lstPut, lcfg]

@[simp] theorem lstGet_putCfg (s : State) (e i : Nat) (c : LoopCfg) (f j : Nat) : lstGet (putCfg s e i c) f j = lstGet s f j := by
  rw [lstGet, putCfg]
  by_cases hf : f = e
  · subst hf
    rw [lpGet_lpPut, lstGet]
  · rw [lpGet_lpPut_ne _ _ hf, lstGet]

theorem cfgs_putCfg (s : State) (e i : Nat) (c : LoopCfg) (f : Nat) :
    (lpGet (putCfg s e i c) f).cfgs = if f = e then (lpGet s e).cfgs.set i c else (lpGet s f).cfgs := by
  rw [putCfg]
  split_ifs with hf
  · subst hf
    rw [lpGet_lpPut]
  · rw [lpGet_lpPut_ne _ _ hf]

theorem lcfg_putCfg {s : State} {e i : Nat} (c : LoopCfg) (h : i < nloop s e) : lcfg (putCfg s e i c) e i = c := by
  have hi : i < ((lpGet s e).cfgs.set i c).length := by simpa [nloop] using h
  rw [lcfg, cfgs_putCfg, if_pos rfl, List.getD_eq_getElem _ _ hi, List.getElem_set_self]

/-- What of a loop's configuration says when it is due and which point it writes; a descriptor does not change it. -/
def place (c : LoopCfg) : Nat × Nat × Nat := (c.div, c.lph, c.opt)

theorem place_putCfg {s : State} {e i : Nat} {c : LoopCfg} (h : place c = place (lcfg s e i)) (f j : Nat) :
    place (lcfg (putCfg s e i c) f j) = place (lcfg s f j) := by
  rw [lcfg, cfgs_putCfg]
  split_ifs with hf
  · subst hf
    rw [List.getD_eq_getElem?_getD, List.getElem?_set]
    split_ifs with hij hlen
    · subst hij
      exact h
    · subst hij
      rw [lcfg, List.getD_eq_getElem?_getD, List.getElem?_eq_none (Nat.le_of_not_lt hlen)]
    · rw [lcfg, List.getD_eq_getElem?_getD]
  · rfl

theorem loopDue_congr {s t : State} {c d : LoopCfg} (hmfn : t.sched.mfn = s.sched.mfn) (h : place d = place c) :
    loopDue t d = loopDue s c := by
  obtain ⟨hdiv, hrest⟩ := Prod.mk.inj h
  obtain ⟨hlph, -⟩ := Prod.mk.inj hrest
  rw [loopDue, loopDue, hmfn, hdiv, hlph]

theorem place_setParam (c : LoopCfg) (f : Nat) (v : F64) : place (setParam c f v) = place c := by
  unfold setParam
  split <;> rfl

theorem place_foldl_setParam (l : List LoopPair) (c : LoopCfg) :
    place (l.foldl (fun c q => setParam c q.field q.value) c) = place c := by
  induction l generalizing c with
  | nil => rfl
  | cons q l ih => rw [List.foldl_cons, ih, place_setParam]

theorem nextMode_place (s : State) (c : LoopCfg) (x : LoopSt) : place (nextMode s c x).2 = place c := by
  unfold nextMode
  dsimp only
  repeat' split
  all_goals rfl

/-! ### Completions of LOOP (R243 to R245) -/

/-- A completion changes HIF, counters and records alone. -/
theorem finish_frame (b n : Nat) (cl : List Nat) (d : HostDesc) (st data : Nat) (s : State) :
    { finish b n cl d st data s with blk := s.blk, recs := s.recs, hif := s.hif } = s := by
  have h := complete_frame d st data (countIf (cl.contains st) b n s)
  unfold finish
  cases hc : cl.contains st <;> rw [hc] at h
  · exact h
  · exact congrArg (fun u : State => { u with blk := s.blk }) h

@[simp] theorem finLoop_loops (d : HostDesc) (st data : Nat) (s : State) : (finLoop d st data s).loops = s.loops :=
  (congrArg State.loops (finish_frame bLOOP 4 loopCounted d st data s) :)

@[simp] theorem finLoop_sched (d : HostDesc) (st data : Nat) (s : State) : (finLoop d st data s).sched = s.sched :=
  (congrArg State.sched (finish_frame bLOOP 4 loopCounted d st data s) :)

@[simp] theorem finLoop_pimg (d : HostDesc) (st data : Nat) (s : State) : (finLoop d st data s).pimg = s.pimg :=
  (congrArg State.pimg (finish_frame bLOOP 4 loopCounted d st data s) :)

theorem finLoop_uncounted {st : Nat} (h : st ∉ loopCounted) (d : HostDesc) (data : Nat) (s : State) :
    finLoop d st data s = complete d st data s := by
  have hc : loopCounted.contains st = false := by simpa using h
  rw [finLoop, finish, hc]
  rfl

/-- The descriptor has completed with the status of a failed check, LOOP.CNT[4] has counted it, and the loops are as they
were. -/
def RefusedByLoop (d : HostDesc) (st data : Nat) (s t : State) : Prop :=
  Answered d st data t ∧ Counted bLOOP 4 s t ∧ t.loops = s.loops

theorem finLoop_refused {d : HostDesc} {s : State} (hd : d ∈ (ringGet s d.ring).started) {st : Nat} (h : st ∈ loopCounted)
    (data : Nat) : RefusedByLoop d st data s (finLoop d st data s) := by
  have hst : st ≠ stOK := fun he => absurd (he ▸ h) (by decide)
  have hframe := complete_refused_frame (d := d) (data := data) hst (count bLOOP 4 s)
  refine ⟨?_, ?_, finLoop_loops ..⟩ <;> rw [finLoop, finish_listed h]
  · exact answered_complete st data (s := count bLOOP 4 s) hd
  · exact counted_of_blk (u := s) rfl (congrArg State.blk hframe :)

/-- An audit record counts in REC at most. -/
theorem audit_cntOf {b : Nat} (hb : b ≠ bREC) (c x a o : Nat) (data : Bytes) (s : State) (k : Nat) :
    cntOf (audit c x a o data s) b k = cntOf s b k := by
  have hcount : ∀ n (u : State), cntOf (count bREC n u) b k = cntOf u b k := fun n u => by
    rw [counted_count]; exact if_neg fun h => hb h.1
  unfold audit
  dsimp only
  split_ifs
  · exact hcount ..
  · exact hcount ..
  · rfl
  · exact hcount ..
  · rfl

theorem complete_cntOf {b : Nat} (hb : b ≠ bREC) (d : HostDesc) (st data : Nat) (s : State) (k : Nat) :
    cntOf (complete d st data s) b k = cntOf s b k := by
  obtain ⟨h, heq⟩ := complete_eq d st data s
  rw [heq]
  split_ifs
  · rcases auditDesc_cases d s with ha | ⟨c, x, a, o, l, ha⟩ <;> rw [ha]
    · rfl
    · exact audit_cntOf hb c x a o l s k
  · rfl

/-! ### The write of an output (R515) -/

/-- The point is a binary64 output that the master may write now: inside its windows, owned, not forced, in the open span. -/
structure OutputOpen (m p : Nat) (s : State) : Prop where
  unfrozen : frozenM s m = false
  inside : inWindow s m (viewOut p) 16 true = true
  bound : p < 131072
  typ : (workPt s p).typ = 7
  owner : (workPt s p).owner.toNat = m
  unforced : (workPt s p).qual ≠ qFORCED
  span : s.pimg.openSpan = true

theorem OutputOpen.congr {m p : Nat} {s t : State} (h : OutputOpen m p s) (hs : t.sched = s.sched) (hp : t.pimg = s.pimg) :
    OutputOpen m p t where
  unfrozen := by rw [frozenM, hs]; exact h.unfrozen
  inside := by rw [inWindow, hs]; exact h.inside
  bound := h.bound
  typ := by rw [workPt_congr hp]; exact h.typ
  owner := by rw [workPt_congr hp]; exact h.owner
  unforced := by rw [workPt_congr hp]; exact h.unforced
  span := by rw [hp]; exact h.span

theorem writeOut_open {m p : Nat} {s : State} (h : OutputOpen m p s) (v : F64) {q : Nat} (hq : q = 0 ∨ q = 4) :
    writeOut m p v q s = workSet s p v (BitVec.ofNat 3 q) := by
  have htyp : (workPt s p).typ ≠ 0 := by rw [h.typ]; decide
  have hspan : ¬SpanClosed m p s := fun hc => Bool.false_ne_true (hc.2.2.2.symm.trans h.span)
  rw [writeOut, guarded_inside h.unfrozen h.inside, pointStoreF]
  simp only [h.typ, f64ToType, if_true, countIf, Bool.false_eq_true, if_false]
  rw [if_neg (by decide)]
  exact pointWrite_stores v q h.bound htyp h.owner hspan h.unforced (by omega)

theorem written_workSet {m p : Nat} {s : State} (h : OutputOpen m p s) (v : F64) (q : BitVec 3) :
    (workPt (workSet s p v q) p).value = v ∧ (workPt (workSet s p v q) p).qual = q := by
  obtain ⟨hvalue, hqual⟩ := workSet_same s p v q
  rw [h.typ] at hvalue
  exact ⟨hvalue, hqual⟩

/-- The states differ in counters and in the working copy of point `p` alone. -/
def SameButPoint (p : Nat) (s t : State) : Prop :=
  { t with blk := s.blk, pimg := { t.pimg with working := s.pimg.working } } = s ∧ ∀ j, j ≠ p → workPt t j = workPt s j

theorem pointWrite_sameButPoint (m p : Nat) (v : W64) (q : Nat) (s : State) : SameButPoint p s (pointWrite m p v q s) := by
  have hset : ∀ r, SameButPoint p s (workSet s p v r) := fun r => ⟨rfl, fun j hj => workPt_workSet_ne s _ _ hj⟩
  unfold pointWrite
  dsimp only
  split_ifs
  · exact ⟨rfl, fun _ _ => rfl⟩
  · exact ⟨rfl, fun _ _ => rfl⟩
  · exact ⟨rfl, fun _ _ => rfl⟩
  · exact ⟨rfl, fun _ _ => rfl⟩
  · exact hset _
  · exact hset qBAD

theorem pointStoreF_sameButPoint (m p : Nat) (v : F64) (q : Nat) (s : State) : SameButPoint p s (pointStoreF m p v q s) := by
  have hcounted : ∀ c w r, SameButPoint p s (pointWrite m p w r (countIf c bCELL 4 s)) := fun c w r => by
    obtain ⟨hframe, hpts⟩ := pointWrite_sameButPoint m p w r (countIf c bCELL 4 s)
    cases c
    · exact ⟨hframe, hpts⟩
    · exact ⟨congrArg (fun u : State => { u with blk := s.blk }) hframe, hpts⟩
  rw [pointStoreF]
  split_ifs
  · exact ⟨rfl, fun _ _ => rfl⟩
  · exact hcounted ..

/-! ### Following-error supervision (R239) -/

/-- Samples in a row, this one included, whose following error calls for a change of FE. -/
def feCount (c : LoopCfg) (x : LoopSt) : Nat :=
  if ltF c.felim (absF (subF x.w x.y)) = x.fe then 0 else x.feCnt.toNat + 1

/-- A loop's state after the supervision of an AUTO sample. -/
def followed (c : LoopCfg) (x : LoopSt) : LoopSt :=
  if feCount c x = c.fecnt then { x with fe := !x.fe, feCnt := 0, feMan := !x.fe && lFEHOLD c }
  else { x with feCnt := BitVec.ofNat 16 (feCount c x) }

/-- LOOP with marks of changed FE, and loop i of engine e supervised. -/
def supervised (e i : Nat) (marks : Tbl Bool) (s : State) : State :=
  let t := lstPut s e i (followed (lcfg s e i) (lstGet s e i))
  { t with loops := { t.loops with fechg := marks } }

theorem followErr_other {e i : Nat} {s : State} (h : (lstGet s e i).mode ≠ 2) : followErr e i s = s := if_pos h

/-- In AUTO the loop is supervised; a rise of FE is marked and counted in LOOP.CNT[2]. -/
theorem followErr_auto {e i : Nat} {s : State} (h : (lstGet s e i).mode = 2) : ∃ marks rises,
    followErr e i s = countIf rises bLOOP 2 (supervised e i marks s) := by
  have hcount : (if (ltF (lcfg s e i).felim (absF (subF (lstGet s e i).w (lstGet s e i).y)) != (lstGet s e i).fe) = true
      then (lstGet s e i).feCnt.toNat + 1 else 0) = feCount (lcfg s e i) (lstGet s e i) := by
    rw [feCount]
    by_cases hsame : ltF (lcfg s e i).felim (absF (subF (lstGet s e i).w (lstGet s e i).y)) = (lstGet s e i).fe <;> simp [hsame]
  simp only [followErr, if_neg (not_not_intro h), hcount, supervised, followed]
  by_cases hcnt : feCount (lcfg s e i) (lstGet s e i) = (lcfg s e i).fecnt
  · rw [if_pos hcnt, if_pos hcnt]
    split_ifs
    · exact ⟨_, true, rfl⟩
    · exact ⟨_, false, rfl⟩
  · rw [if_neg hcnt, if_neg hcnt]
    exact ⟨_, false, rfl⟩

/-! ### The turn of a loop (R230, R231, R235) -/

/-- A due loop whose points lie inside the windows and whose parameters are taken: its mode takes effect, and a loop that is not
OFF samples. -/
def dueTurn (e i : Nat) (s : State) : State :=
  if (lstGet (takeMode e i s) e i).mode = 0 then takeMode e i s else loopSample e i (takeMode e i s)

theorem loopTurn_idle {e i : Nat} {s : State} (h : frozenM s (10 + e) = true ∨ loopDue s (lcfg s e i) = false) :
    loopTurn e s i = s := by
  have hidle : (frozenM s (10 + e) || !loopDue s (lcfg s e i)) = true := by rcases h with h | h <;> simp [h]
  rw [loopTurn, if_pos hidle]

section

variable {e i : Nat} {s : State} (hf : frozenM s (10 + e) = false) (hdue : loopDue s (lcfg s e i) = true)
include hf hdue

/-- A point outside the engine's windows freezes the engine (R65). -/
theorem loopTurn_outside {p : Nat} (h : outsidePt s (10 + e) (loopPoints (lcfg s e i)) = some p) :
    loopTurn e s i = freeze (10 + e) czWINDOW_R (viewIn p) (curSlot s (10 + e)) s := by
  rw [outsidePt] at h
  simp only [loopTurn, hf, hdue, h, Bool.not_true, Bool.or_self, Bool.false_eq_true, if_false]

theorem loopTurn_inside (h : outsidePt s (10 + e) (loopPoints (lcfg s e i)) = none) :
    loopTurn e s i = dueTurn e i (takeParams (128 * e + i) s) := by
  rw [outsidePt] at h
  simp only [loopTurn, hf, hdue, h, Bool.not_true, Bool.or_self, Bool.false_eq_true, if_false]
  rfl

end

/-! ### What an occurrence can change (R230, R231) -/

/-- From `s` to `t` the states of other loops than those `P` of engine `e`, the points that none of these has as its output, the
frozen copy, the frame and each loop's place stay. -/
structure Within (e : Nat) (P : Nat → Prop) (s t : State) : Prop where
  mfn : t.sched.mfn = s.sched.mfn
  frozen : t.pimg.frozen = s.pimg.frozen
  placed : ∀ f j, place (lcfg t f j) = place (lcfg s f j)
  others : ∀ f j, ¬(f = e ∧ P j) → lstGet t f j = lstGet s f j
  points : ∀ p, (∀ j, P j → (lcfg s e j).opt ≠ p) → workPt t p = workPt s p

namespace Within

variable {e : Nat} {P : Nat → Prop} {s t u : State}

theorem of_same (hmfn : t.sched.mfn = s.sched.mfn) (hpimg : t.pimg = s.pimg) (hloops : t.loops = s.loops) : Within e P s t where
  mfn := hmfn
  frozen := by rw [hpimg]
  placed f j := by rw [lcfg_congr hloops]
  others f j _ := lstGet_congr hloops f j
  points p _ := workPt_congr hpimg p

theorem refl (s : State) : Within e P s s := of_same rfl rfl rfl

theorem trans (h : Within e P s t) (k : Within e P t u) : Within e P s u where
  mfn := k.mfn.trans h.mfn
  frozen := k.frozen.trans h.frozen
  placed f j := (k.placed f j).trans (h.placed f j)
  others f j hj := (k.others f j hj).trans (h.others f j hj)
  points p hp := by
    refine (k.points p fun j hj => ?_).trans (h.points p hp)
    have hopt : (lcfg t e j).opt = (lcfg s e j).opt := congrArg (fun r => r.2.2) (h.placed e j)
    rw [hopt]
    exact hp j hj

theorem due (h : Within e P s t) (f j : Nat) : loopDue t (lcfg t f j) = loopDue s (lcfg s f j) :=
  loopDue_congr h.mfn (h.placed f j)

end Within

section

variable {e : Nat} {P : Nat → Prop} {s : State}

theorem within_lstPut {i : Nat} (hi : P i) (s : State) (v : LoopSt) : Within e P s (lstPut s e i v) where
  mfn := rfl
  frozen := rfl
  placed f j := by rw [lcfg_lstPut]
  others f j hj := lstGet_lstPut_ne s v fun hk => hj ⟨hk.1, hk.2 ▸ hi⟩
  points _ _ := rfl

theorem within_putCfg {f i : Nat} {c : LoopCfg} (h : place c = place (lcfg s f i)) : Within e P s (putCfg s f i c) where
  mfn := rfl
  frozen := rfl
  placed := place_putCfg h
  others _ _ _ := lstGet_putCfg ..
  points _ _ := rfl

/-- What the waiting pairs and the marks of LOOP become concerns no state, no point and no place. -/
theorem within_loops {r : LoopRegs} (h : r.eng = s.loops.eng) : Within e P s { s with loops := r } := by
  have hget : ∀ f, lpGet { s with loops := r } f = lpGet s f := fun f => congrArg (fun g => tblGet g f ({} : LoopEng)) h
  exact {
    mfn := rfl
    frozen := rfl
    placed := fun f j => by rw [lcfg, hget, lcfg]
    others := fun f j _ => by rw [lstGet, hget, lstGet]
    points := fun _ _ => rfl }

theorem within_finLoop (d : HostDesc) (st data : Nat) (s : State) : Within e P s (finLoop d st data s) :=
  Within.of_same (by rw [finLoop_sched]) (finLoop_pimg ..) (finLoop_loops ..)

theorem within_count (b n : Nat) (s : State) : Within e P s (count b n s) := Within.of_same rfl rfl rfl

theorem within_countIf (c : Bool) (b n : Nat) (s : State) : Within e P s (countIf c b n s) :=
  Within.of_same (by rw [countIf_sched]) (countIf_pimg ..) (countIf_loops ..)

theorem within_freeze (m cause addr slot : Nat) (s : State) : Within e P s (freeze m cause addr slot s) := by
  cases hf : frozenM s m
  · obtain ⟨data, heq⟩ := freeze_eq hf cause addr slot
    obtain ⟨_, _, _, _, _, heffect⟩ := freezeEffect_eq m s
    rw [heq]
    refine Within.of_same ?_ ?_ ?_ <;> simp [withFrozen, heffect]
  · rw [freeze_frozen hf]
    exact Within.refl s

theorem within_writeOut {i p : Nat} (hi : P i) (s : State) (hp : (lcfg s e i).opt = p) (m : Nat) (v : F64) (q : Nat) :
    Within e P s (writeOut m p v q s) := by
  rw [writeOut, guarded]
  split_ifs
  · exact Within.refl s
  · obtain ⟨hframe, hpts⟩ := pointStoreF_sameButPoint m p v q s
    have hloops : (pointStoreF m p v q s).loops = s.loops := (congrArg State.loops hframe :)
    exact {
      mfn := (congrArg (·.sched.mfn) hframe :)
      frozen := (congrArg (·.pimg.frozen) hframe :)
      placed := fun f j => by rw [lcfg_congr hloops]
      others := fun f j _ => lstGet_congr hloops f j
      points := fun k hk => hpts k fun h => hk i hi (hp.trans h.symm) }
  · exact within_freeze ..
  · exact within_freeze ..

theorem within_holdSample {i : Nat} (hi : P i) (n : LoopIn) (s : State) : Within e P s (holdSample e i n s) :=
  (within_lstPut hi s _).trans (within_writeOut hi _ (by rw [lcfg_lstPut]) _ _ _)

theorem within_followErr {i : Nat} (hi : P i) (s : State) : Within e P s (followErr e i s) := by
  by_cases hmode : (lstGet s e i).mode = 2
  · obtain ⟨_, _, heq⟩ := followErr_auto hmode
    rw [heq]
    refine Within.trans ?_ (within_countIf ..)
    exact (within_lstPut hi s _).trans (within_loops rfl)
  · rw [followErr_other hmode]
    exact Within.refl s

theorem within_loopSample {i : Nat} (hi : P i) (s : State) : Within e P s (loopSample e i s) := by
  rw [loopSample]
  dsimp only
  split
  · exact ((within_holdSample hi _ s).trans (within_countIf _ _ _ _)).trans (within_count _ _ _)
  · split_ifs
    · have hopt : ∀ c v, (lcfg (lstPut (countIf c bLOOP 1 s) e i v) e i).opt = (lcfg s e i).opt := fun c v => by
        rw [lcfg_lstPut, lcfg_congr (countIf_loops ..)]
      exact (((within_countIf _ _ _ s).trans (within_lstPut hi _ _)).trans (within_writeOut hi _ (hopt ..) _ _ _)).trans
        (within_followErr hi _)
    · exact ((within_countIf _ _ _ s).trans (within_holdSample hi _ _)).trans (within_count _ _ _)

theorem within_foldl_finLoop (l : List ParamBatch) (s : State) : Within e P s (l.foldl (fun t b => finLoop b.desc stOK 0 t) s) := by
  induction l generalizing s with
  | nil => exact Within.refl s
  | cons b l ih => exact (within_finLoop b.desc stOK 0 s).trans (ih _)

theorem within_takeParams (g : Nat) (s : State) : Within e P s (takeParams g s) := by
  rw [takeParams]
  refine Within.trans ?_ (within_foldl_finLoop ..)
  split_ifs
  · exact within_loops rfl
  · exact (within_putCfg (place_foldl_setParam ..)).trans (within_loops rfl)

theorem within_takeMode {i : Nat} (hi : P i) (s : State) : Within e P s (takeMode e i s) := by
  have hmoded : ∀ v, Within e P s (lstPut (putCfg s e i (nextMode s (lcfg s e i) (lstGet s e i)).2) e i v) :=
    fun v => (within_putCfg (nextMode_place ..)).trans (within_lstPut hi _ v)
  rw [takeMode]
  dsimp only
  split
  · exact (hmoded _).trans (within_finLoop ..)
  · exact hmoded _

theorem within_dueTurn {i : Nat} (hi : P i) (s : State) : Within e P s (dueTurn e i s) := by
  rw [dueTurn]
  split_ifs
  · exact within_takeMode hi s
  · exact (within_takeMode hi s).trans (within_loopSample hi _)

theorem within_loopTurn {i : Nat} (s : State) (hi : loopDue s (lcfg s e i) = true → P i) : Within e P s (loopTurn e s i) := by
  cases hf : frozenM s (10 + e)
  · cases hdue : loopDue s (lcfg s e i)
    · rw [loopTurn_idle (.inr hdue)]
      exact Within.refl s
    · cases hp : outsidePt s (10 + e) (loopPoints (lcfg s e i))
      · rw [loopTurn_inside hf hdue hp]
        exact (within_takeParams _ s).trans (within_dueTurn (hi hdue) _)
      · rw [loopTurn_outside hf hdue hp]
        exact within_freeze ..
  · rw [loopTurn_idle (.inl hf)]
    exact Within.refl s

/-- The turns of an engine's loops change the due ones alone. -/
theorem within_foldl_loopTurn (l : List Nat) (s : State) (h : ∀ i ∈ l, loopDue s (lcfg s e i) = true → P i) :
    Within e P s (l.foldl (loopTurn e) s) := by
  induction l generalizing s with
  | nil => exact Within.refl s
  | cons i l ih =>
    have hturn : Within e P s (loopTurn e s i) := within_loopTurn s (h i List.mem_cons_self)
    refine hturn.trans (ih _ fun j hj hdue => h j (List.mem_cons_of_mem _ hj) ?_)
    rwa [← hturn.due]

end

/-- LOOP_OCCURRENCE outside the engine's slots, or of an engine that does not run, changes nothing. -/
theorem execLoopOccurrence_idle {e : Fin 4} {s : State} (h : inSlotOf s (10 + e.val) = false ∨ enginesRun s = false ∨
    enOf s bLOOP = false ∨ frozenM s (10 + e.val) = true) : execLoopOccurrence e s = .next s := by
  have hidle : (!inSlotOf s (10 + e.val) || !enginesRun s || !enOf s bLOOP || frozenM s (10 + e.val)) = true := by
    rcases h with h | h | h | h <;> simp [h]
  rw [execLoopOccurrence, if_pos hidle]

/-- The trace of an engine after its loops have had their turns (R240). -/
def withTrace (e : Nat) (tr : Trace) (s : State) : State := lpPut s e { lpGet s e with trace := tr }

theorem lstGet_withTrace (e : Nat) (tr : Trace) (s : State) (f j : Nat) : lstGet (withTrace e tr s) f j = lstGet s f j := by
  rw [lstGet, withTrace]
  by_cases hf : f = e
  · subst hf
    rw [lpGet_lpPut, lstGet]
  · rw [lpGet_lpPut_ne _ _ hf, lstGet]

/-- A running engine works through its loops, and then its trace samples, unless a read has frozen the engine. -/
theorem execLoopOccurrence_runs {e : Fin 4} {s : State} (hslot : inSlotOf s (10 + e.val) = true) (hruns : enginesRun s = true)
    (hen : enOf s bLOOP = true) (hf : frozenM s (10 + e.val) = false) :
    let u := (List.range (nloop s e)).foldl (loopTurn e) s
    ∃ tr, execLoopOccurrence e s = .next (if frozenM u (10 + e.val) then u else withTrace e tr u) := by
  simp only [execLoopOccurrence, hslot, hruns, hen, hf, Bool.not_true, Bool.or_self, Bool.false_eq_true, if_false]
  exact ⟨_, rfl⟩

/-- In every state an occurrence keeps what is not of a due loop of its engine. -/
theorem execLoopOccurrence_within (e : Fin 4) (s : State) : ∃ t, execLoopOccurrence e s = .next t ∧
    (∀ f j, ¬(f = e.val ∧ j < nloop s e ∧ loopDue s (lcfg s e j) = true) → lstGet t f j = lstGet s f j) ∧
    t.pimg.frozen = s.pimg.frozen ∧
    ∀ p, (∀ j, j < nloop s e → loopDue s (lcfg s e j) = true → (lcfg s e j).opt ≠ p) → workPt t p = workPt s p := by
  by_cases hidle : inSlotOf s (10 + e.val) = false ∨ enginesRun s = false ∨ enOf s bLOOP = false ∨ frozenM s (10 + e.val) = true
  · exact ⟨s, execLoopOccurrence_idle hidle, fun _ _ _ => rfl, rfl, fun _ _ => rfl⟩
  · simp only [not_or, Bool.not_eq_false, Bool.not_eq_true] at hidle
    obtain ⟨hslot, hruns, hen, hf⟩ := hidle
    obtain ⟨tr, hexec⟩ := execLoopOccurrence_runs hslot hruns hen hf
    have hturns : Within e.val (fun j => j < nloop s e ∧ loopDue s (lcfg s e j) = true) s _ :=
      within_foldl_loopTurn (List.range (nloop s e)) s fun i hi hdue => ⟨List.mem_range.mp hi, hdue⟩
    refine ⟨_, hexec, fun f j hj => ?_, ?_, fun p hp => ?_⟩
    · rw [← hturns.others f j hj]
      split_ifs
      · rfl
      · exact lstGet_withTrace ..
    · rw [← hturns.frozen]
      split_ifs <;> rfl
    · rw [← hturns.points p fun j hj => hp j hj.1 hj.2]
      split_ifs <;> rfl

end Sys2Proof.Proofs
end

section
/-! PROOFS. One sample of a loop (R231 to R239): what takes effect at it, the values that it computes, and what it leaves. -/

namespace Sys2Proof.Proofs

open Sys2Proof.Machine Sys2Proof.Laws

/-! ### The mode of a due sample (R235, R236, R239, R243) -/

/-- A loop's state with the mode of a due sample, before the sample. -/
def modedSt (x : LoopSt) (mode : BitVec 2) : LoopSt :=
  { x with mode := mode, first := x.first || (x.mode == 0 && mode != 0), req := none, feMan := false }

/-- From `s` to `u` loop i of engine e has taken its mode and its UMAN, and nothing else that its sample needs has changed. -/
structure ModeTaken (e i : Nat) (mode : BitVec 2) (uman : F64) (s u : State) : Prop where
  cfg : lcfg u e i = { lcfg s e i with uman := uman }
  st : lstGet u e i = modedSt (lstGet s e i) mode
  others : ∀ k, k ≠ i → lstGet u e k = lstGet s e k
  sptrk : ∀ k, lSPTRK (lcfg u e k) = lSPTRK (lcfg s e k)
  inner : innerOf u e i = innerOf s e i
  pimg : u.pimg = s.pimg
  sched : u.sched = s.sched
  counts : ∀ k, cntOf u bLOOP k = cntOf s bLOOP k

theorem firstIdx_set {α : Type} (p : α → Bool) {l : List α} {i : Nat} {v : α} (d : α) (h : p v = p (l.getD i d)) (k : Nat) :
    firstIdx p (l.set i v) k = firstIdx p l k := by
  induction l generalizing i k with
  | nil => rfl
  | cons a l ih =>
    cases i with
    | zero =>
      have hva : p v = p a := h
      rw [List.set_cons_zero, firstIdx, firstIdx, hva]
    | succ i => rw [List.set_cons_succ, firstIdx, firstIdx, ih h]

theorem modeTaken_takeMode {e i : Nat} {mode : BitVec 2} {uman : F64} {s : State} (hi : i < nloop s e)
    (h : nextMode s (lcfg s e i) (lstGet s e i) = (mode, { lcfg s e i with uman := uman })) :
    ModeTaken e i mode uman s (takeMode e i s) := by
  generalize hu : lstPut (putCfg s e i { lcfg s e i with uman := uman }) e i (modedSt (lstGet s e i) mode) = u
  have hmoded : ModeTaken e i mode uman s u := by
    subst hu
    exact {
      cfg := by rw [lcfg_lstPut, lcfg_putCfg _ hi]
      st := lstGet_lstPut ..
      others := fun k hk => by rw [lstGet_lstPut_ne _ _ fun h => hk h.2, lstGet_putCfg]
      sptrk := fun k => by
        rw [lcfg_lstPut]
        by_cases hk : k = i
        · subst hk
          rw [lcfg_putCfg _ hi]
          rfl
        · rw [lcfg, cfgs_putCfg, if_pos rfl, List.getD_eq_getElem?_getD, List.getElem?_set_ne (Ne.symm hk), lcfg,
            List.getD_eq_getElem?_getD]
      inner := by
        rw [innerOf, cfgs_lstPut, cfgs_putCfg, if_pos rfl]
        exact firstIdx_set (fun c : LoopCfg => lCASC c && c.outer == i) (l := (lpGet s e).cfgs) (v := { lcfg s e i with uman := uman }) {} rfl 0
      pimg := rfl
      sched := rfl
      counts := fun _ => rfl }
  have htake : takeMode e i s = match (lstGet s e i).req with
      | some d => finLoop d stOK s.sched.mfn.toNat u
      | none => u := by
    rw [takeMode, h, ← hu]
    rfl
  rw [htake]
  split
  · next d _ =>
    have hloops : (finLoop d stOK s.sched.mfn.toNat u).loops = u.loops := finLoop_loops ..
    exact {
      cfg := (lcfg_congr hloops ..).trans hmoded.cfg
      st := (lstGet_congr hloops ..).trans hmoded.st
      others := fun k hk => (lstGet_congr hloops ..).trans (hmoded.others k hk)
      sptrk := fun k => by rw [lcfg_congr hloops, hmoded.sptrk]
      inner := by rw [innerOf, lpGet_congr hloops, ← innerOf, hmoded.inner]
      pimg := (finLoop_pimg ..).trans hmoded.pimg
      sched := (finLoop_sched ..).trans hmoded.sched
      counts := fun k => by
        rw [finLoop_uncounted (by decide), complete_cntOf (by decide), hmoded.counts] }
  · exact hmoded

/-! ### What a sample computes (R232 to R238) -/

/-- The profile of a sample with target `wt`: it stands at y, starts, goes on, or follows the target. -/
def sampleProf (byY : Prop) [Decidable byY] (ts : F64) (c : LoopCfg) (x : LoopSt) (wt m : F64) : Prof :=
  let q0 : Prof := if byY then { p := m } else if x.inited = true then { p := x.p, v := x.v, a := x.a } else { p := wt }
  if lPROF c = false then { q0 with p := wt } else if byY then q0 else profStep c.vmax c.amax c.jmax ts q0 wt

/-- The values of a sample that computes. -/
structure PidOut where
  wt : F64
  w : F64
  er : F64
  xd : F64
  p : F64
  d : F64
  i : F64
  u : F64

/-- The PID terms of a sample from the measurement m, its target and its profile (R233): `prev` gives XPREV, `step` the
integral's step from the raw output and the full step, and `out` the output from the sum of the terms. -/
def pidTerms (ts : F64) (c : LoopCfg) (x : LoopSt) (ff m wt : F64) (q : Prof) (prev : F64 → F64) (step : F64 → F64 → F64)
    (out : F64 → F64) : PidOut :=
  let w := if lPROF c then q.p else wt
  let er := if lREV c then negF (subF w m) else subF w m
  let xd := if lDMEAS c then negF (if lREV c then negF m else m) else er
  let p := mulF c.kp er
  let d := divF (addF (mulF c.tf x.d) (mulF c.kd (subF xd (prev xd)))) (addF c.tf ts)
  let di := mulF (mulF c.ki ts) er
  let i := addF x.i (step (addF (addF (addF (addF p x.i) di) d) ff) di)
  { wt := wt, w := w, er := er, xd := xd, p := p, d := d, i := i, u := out (addF (addF (addF p i) d) ff) }

/-- The target of a sample as `loopCompute` has it, its integral step, and its output under the value that an inner loop forces. -/
def computeTarget (c : LoopCfg) (x : LoopSt) (n : LoopIn) (m : F64) : F64 :=
  if spTracks c x || (x.spTrk && x.mode == 2) then m else n.wt
def computeStep (s : State) (e i : Nat) (c : LoopCfg) (raw di : F64) : F64 :=
  if (ltF c.umax raw && ltF fzero di) || (ltF raw c.umin && ltF di fzero) || blocked s e i di then fzero else di
def computeForced (s : State) (e i : Nat) (x : LoopSt) : Option F64 := if x.mode = 2 then innerForces s e i else none
def computeOut (c : LoopCfg) (x : LoopSt) (n : LoopIn) (forced : Option F64) (raw : F64) : F64 :=
  let set := if x.mode = 1 then c.uman else if x.mode = 3 then n.trk else match forced with | some v => v | none => raw
  if x.mode = 2 ∧ forced.isSome then set else clampF c.umin c.umax set

/-- The terms of a sample that `loopCompute` computes. -/
def computed (s : State) (e i : Nat) (c : LoopCfg) (x : LoopSt) (n : LoopIn) (m : F64) : PidOut :=
  let wt := computeTarget c x n m
  pidTerms (loopTs s c) c x n.ff m wt (sampleProf (spTracks c x = true) (loopTs s c) c x wt m) (fun xd => if x.first then xd else x.xprev)
    (computeStep s e i c) (computeOut c x n (computeForced s e i x))

theorem loopCompute_terms (s : State) (e i : Nat) (c : LoopCfg) (x : LoopSt) (n : LoopIn) (m : F64) :
    let r := (loopCompute s e i c x n m).1
    let o := computed s e i c x n m
    r.e = o.er ∧ r.pp = o.p ∧ r.d = o.d ∧ r.xprev = o.xd ∧ r.u = o.u ∧ r.w = o.w ∧ r.wt = o.wt ∧
      r.i = if x.mode == 2 && (computeForced s e i x).isNone then o.i else subF (subF (subF o.u o.p) o.d) n.ff := by
  have hq : (if lPROF c then
        if spTracks c x then
          (if spTracks c x then ({ p := m } : Prof) else if !x.inited then { p := computeTarget c x n m } else { p := x.p, v := x.v, a := x.a })
        else profStep c.vmax c.amax c.jmax (loopTs s c)
          (if spTracks c x then ({ p := m } : Prof) else if !x.inited then { p := computeTarget c x n m } else { p := x.p, v := x.v, a := x.a })
          (computeTarget c x n m)
      else { (if spTracks c x then ({ p := m } : Prof) else if !x.inited then { p := computeTarget c x n m }
        else { p := x.p, v := x.v, a := x.a }) with p := computeTarget c x n m }) =
      sampleProf (spTracks c x = true) (loopTs s c) c x (computeTarget c x n m) m := by
    cases hp : lPROF c <;> cases hi : x.inited <;> simp [sampleProf, hp, hi]
  simp only [computed]
  rw [← hq]
  exact ⟨rfl, rfl, rfl, rfl, rfl, rfl, rfl, rfl⟩

/-- What `loopCompute` takes over as it was, and what it marks. -/
theorem loopCompute_marks (s : State) (e i : Nat) (c : LoopCfg) (x : LoopSt) (n : LoopIn) (m : F64) :
    let r := (loopCompute s e i c x n m).1
    r.mode = x.mode ∧ r.fe = x.fe ∧ r.feCnt = x.feCnt ∧ r.req = x.req ∧ r.y = m ∧ r.first = false ∧ r.hold = false ∧
      r.tracking = (computeForced s e i x).isSome :=
  ⟨rfl, rfl, rfl, rfl, rfl, rfl, rfl, rfl⟩

/-! ### A loop that no inner loop holds (R233, R236, R237) -/

/-- The terms of a sample in `mode` of a loop whose inner loop, if it has one, is in AUTO, not on hold and not saturated. -/
def freeTerms (ts wt0 ff trk : F64) (c : LoopCfg) (x : LoopSt) (uman : F64) (mode : BitVec 2) (m : F64) : PidOut :=
  let wt := if (lSPTRK c = true ∧ (mode = 1 ∨ mode = 3)) ∨ (x.spTrk = true ∧ mode = 2) then m else wt0
  pidTerms ts c x ff m wt (sampleProf (lSPTRK c = true ∧ (mode = 1 ∨ mode = 3)) ts c x wt m)
    (fun xd => if x.first = true ∨ (x.mode = 0 ∧ mode ≠ 0) then xd else x.xprev)
    (fun raw di => if (ltF c.umax raw && ltF fzero di) || (ltF raw c.umin && ltF di fzero) then fzero else di)
    (fun raw => clampF c.umin c.umax (if mode = 1 then uman else if mode = 3 then trk else raw))

theorem sampleProf_congr {a b : Prop} [ha : Decidable a] [hb : Decidable b] (h : a ↔ b) (ts : F64) (c : LoopCfg) (x : LoopSt)
    (wt m : F64) : sampleProf a ts c x wt m = sampleProf b ts c x wt m := by
  obtain rfl := propext h
  rw [Subsingleton.elim ha hb]

theorem computed_free {s : State} {e i : Nat} {c : LoopCfg} {x : LoopSt} (n : LoopIn) (uman : F64) {mode : BitVec 2} (m : F64)
    (hforces : mode = 2 → innerForces s e i = none) (hblocked : ∀ di, blocked s e i di = false) :
    computed s e i { c with uman := uman } (modedSt x mode) n m = freeTerms (loopTs s c) n.wt n.ff n.trk c x uman mode m := by
  have hforced : computeForced s e i (modedSt x mode) = none := by
    rw [computeForced]
    split_ifs with hmode
    · exact hforces hmode
    · rfl
  have hY : spTracks { c with uman := uman } (modedSt x mode) = true ↔ lSPTRK c = true ∧ (mode = 1 ∨ mode = 3) := by
    simp [spTracks, modedSt, lSPTRK]
  have htarget : computeTarget { c with uman := uman } (modedSt x mode) n m =
      if (lSPTRK c = true ∧ (mode = 1 ∨ mode = 3)) ∨ (x.spTrk = true ∧ mode = 2) then m else n.wt := by
    refine if_congr ?_ rfl rfl
    rw [Bool.or_eq_true, hY]
    simp [modedSt]
  have hprev : (fun xd : F64 => if (modedSt x mode).first = true then xd else x.xprev) =
      fun xd => if x.first = true ∨ (x.mode = 0 ∧ mode ≠ 0) then xd else x.xprev :=
    funext fun xd => if_congr (by simp [modedSt]) rfl rfl
  have hstep : computeStep s e i { c with uman := uman } =
      fun raw di => if (ltF c.umax raw && ltF fzero di) || (ltF raw c.umin && ltF di fzero) then fzero else di := by
    funext raw di
    rw [computeStep, hblocked, Bool.or_false]
  have hout : computeOut { c with uman := uman } (modedSt x mode) n none =
      fun raw => clampF c.umin c.umax (if mode = 1 then uman else if mode = 3 then n.trk else raw) := by
    funext raw
    simp only [computeOut, Option.isSome_none, Bool.false_eq_true, and_false, if_false]
    rfl
  calc computed s e i { c with uman := uman } (modedSt x mode) n m
      = pidTerms (loopTs s c) c x n.ff m (computeTarget { c with uman := uman } (modedSt x mode) n m)
          (sampleProf (spTracks { c with uman := uman } (modedSt x mode) = true) (loopTs s c) c x
            (computeTarget { c with uman := uman } (modedSt x mode) n m) m)
          (fun xd => if (modedSt x mode).first = true then xd else x.xprev) (computeStep s e i { c with uman := uman })
          (computeOut { c with uman := uman } (modedSt x mode) n (computeForced s e i (modedSt x mode))) := rfl
    _ = _ := by
      rw [hforced, htarget, sampleProf_congr hY, hprev, hstep, hout]
      rfl

/-! ### The inputs of a sample (R232, R234) -/

section Inputs

variable (s : State) (e : Nat) (c : LoopCfg) (x : LoopSt)

theorem loopInputs_wt : (loopInputs s e c x).wt = if lCASC c then (lstGet s e c.outer).u else if c.sppt = noPoint then c.spfix
    else (inPt s c.sppt).getD (x.spLast.getD c.spfix) := by
  unfold loopInputs
  by_cases hcasc : lCASC c = true
  · simp [hcasc]
  · by_cases hpt : c.sppt = noPoint
    · simp [hcasc, hpt]
    · cases inPt s c.sppt <;> simp [hcasc, hpt]

theorem loopInputs_ff : (loopInputs s e c x).ff = if c.ffpt = noPoint then 0 else (inPt s c.ffpt).getD x.ffLast := by
  unfold loopInputs
  by_cases hpt : c.ffpt = noPoint
  · simp [hpt]
  · cases inPt s c.ffpt <;> simp [hpt]

theorem loopInputs_trk : (loopInputs s e c x).trk =
    if c.trkpt = noPoint then x.u else (inPt s c.trkpt).getD (x.trkLast.getD x.u) := by
  unfold loopInputs
  by_cases hpt : c.trkpt = noPoint
  · simp [hpt]
  · cases inPt s c.trkpt <;> simp [hpt]

theorem loopInputs_bad : (loopInputs s e c x).bad = true ↔ (lCASC c = false ∧ c.sppt ≠ noPoint ∧ inPt s c.sppt = none) ∨
    (c.ffpt ≠ noPoint ∧ inPt s c.ffpt = none) ∨ (c.trkpt ≠ noPoint ∧ inPt s c.trkpt = none) := by
  have hunusable : ∀ (p : Prop) [Decidable p] (o : Option F64), ((if p then none else some o) == some none) = true ↔ ¬p ∧ o = none := by
    intro p _ o
    split_ifs with hp <;> simp [hp]
  simp only [loopInputs, Bool.or_eq_true, hunusable, not_or, Bool.not_eq_true, ne_eq, and_assoc, or_assoc]

end Inputs

section Taken

variable {e i : Nat} {mode : BitVec 2} {uman : F64} {s u : State} (h : ModeTaken e i mode uman s u)
include h

theorem ModeTaken.inPt (p : Nat) : inPt u p = inPt s p := by rw [Machine.inPt, frozenPt, h.pimg, ← frozenPt, ← Machine.inPt]

/-- What the new mode does not concern is of every loop as before. -/
theorem ModeTaken.keeps {α : Type} (f : LoopSt → α) (hf : f (modedSt (lstGet s e i) mode) = f (lstGet s e i)) (k : Nat) :
    f (lstGet u e k) = f (lstGet s e k) := by
  by_cases hk : k = i
  · subst hk
    rw [h.st, hf]
  · rw [h.others k hk]

theorem ModeTaken.lastOut (k : Nat) : (lstGet u e k).u = (lstGet s e k).u := h.keeps (·.u) rfl k

theorem ModeTaken.inputs : loopInputs u e { lcfg s e i with uman := uman } (modedSt (lstGet s e i) mode) =
    loopInputs s e (lcfg s e i) (lstGet s e i) := by
  unfold loopInputs
  simp only [h.inPt, h.lastOut, modedSt]
  rfl

theorem ModeTaken.loopTs (c : LoopCfg) : loopTs u c = loopTs s c := by rw [Machine.loopTs, h.sched, ← Machine.loopTs]

theorem ModeTaken.outputOpen (ho : OutputOpen (10 + e) (lcfg s e i).opt s) : OutputOpen (10 + e) (lcfg s e i).opt u :=
  ho.congr h.sched h.pimg

/-- No inner loop holds the loop in AUTO where its inner loop is in AUTO and not on hold. -/
theorem ModeTaken.not_forced (hmode : mode = 2)
    (hfree : ∀ k, innerOf s e i = some k → (lstGet s e k).mode = 2 ∧ (lstGet s e k).hold = false) : innerForces u e i = none := by
  rw [innerForces, h.inner]
  cases hk : innerOf s e i with
  | none => rfl
  | some k =>
    obtain ⟨hauto, hhold⟩ := hfree k hk
    have hauto' : (lstGet u e k).mode = 2 := by
      by_cases hki : k = i
      · subst hki
        rw [h.st]
        exact hmode
      · rw [h.others k hki]
        exact hauto
    have hhold' : (lstGet u e k).hold = false := (h.keeps (·.hold) rfl k).trans hhold
    simp [hauto', hhold']

/-- An inner loop that is not saturated blocks no integration. -/
theorem ModeTaken.not_blocked
    (hfree : ∀ k, innerOf s e i = some k → (lstGet s e k).satHi = false ∧ (lstGet s e k).satLo = false) (di : F64) :
    blocked u e i di = false := by
  rw [blocked, h.inner]
  cases hk : innerOf s e i with
  | none => rfl
  | some k =>
    obtain ⟨hhi, hlo⟩ := hfree k hk
    have hhi' : (lstGet u e k).satHi = false := (h.keeps (·.satHi) rfl k).trans hhi
    have hlo' : (lstGet u e k).satLo = false := (h.keeps (·.satLo) rfl k).trans hlo
    simp [hhi', hlo']

/-- An inner loop outside AUTO or on hold, without SPTRK, makes its outer loop keep its output. -/
theorem ModeTaken.forced {k : Nat} (hmode : mode = (lstGet s e i).mode) (hk : innerOf s e i = some k)
    (hst : (lstGet s e k).mode ≠ 2 ∨ (lstGet s e k).hold = true) (htrk : lSPTRK (lcfg s e k) = false) :
    innerForces u e i = some (lstGet s e i).u := by
  have hmode' : (lstGet u e k).mode = (lstGet s e k).mode := h.keeps (·.mode) hmode k
  have hhold' : (lstGet u e k).hold = (lstGet s e k).hold := h.keeps (·.hold) rfl k
  have htrk' : lSPTRK (lcfg u e k) = false := (h.sptrk k).trans htrk
  rw [innerForces, h.inner, hk]
  simp only [hmode', hhold', if_pos hst, innerTarget, spTracks, htrk', h.lastOut, Bool.false_and, Bool.false_eq_true, if_false]

end Taken

/-! ### How a sample ends (R232, R234, R239) -/

theorem cntOf_countIf (c : Bool) (b n k : Nat) (s : State) :
    cntOf (countIf c b n s) b k = if c = true ∧ k = n then satInc (cntOf s b n) else cntOf s b k := by
  cases c
  · simp [countIf]
  · rw [countIf, if_pos rfl, counted_count]
    simp

/-- Loop i of engine e has sampled: its new state is `v`, its output point has its output with quality `q`, LOOP.CNT[0], [1] and
[3] have counted an unusable measurement, an unusable further point and a value that is not finite, and nothing of HIF and SCHED
has changed. -/
structure SampleEnds (e i : Nat) (u : State) (v : LoopSt) (q : BitVec 3) (unusable bad infinite : Bool) (t : State) : Prop where
  cfg : lcfg t e i = lcfg u e i
  st : lstGet t e i = v
  value : (workPt t (lcfg u e i).opt).value = v.u
  qual : (workPt t (lcfg u e i).opt).qual = q
  cnt0 : cntOf t bLOOP 0 = if unusable then satInc (cntOf u bLOOP 0) else cntOf u bLOOP 0
  cnt1 : cntOf t bLOOP 1 = if bad then satInc (cntOf u bLOOP 1) else cntOf u bLOOP 1
  cnt3 : cntOf t bLOOP 3 = if infinite then satInc (cntOf u bLOOP 3) else cntOf u bLOOP 3
  hif : t.hif = u.hif
  sched : t.sched = u.sched

/-- A state that differs from `u` in loop i, in its output point and in these counts is the end of a sample. -/
theorem sampleEnds_of {e i : Nat} {u t : State} (ho : OutputOpen (10 + e) (lcfg u e i).opt u) {v : LoopSt} {q : BitVec 3}
    {unusable bad infinite : Bool} (hloops : t.loops = (lstPut u e i v).loops)
    (hpimg : t.pimg = (workSet u (lcfg u e i).opt v.u q).pimg)
    (hblk : t.blk = (countIf infinite bLOOP 3 (countIf unusable bLOOP 0 (countIf bad bLOOP 1 u))).blk)
    (hhif : t.hif = u.hif) (hsched : t.sched = u.sched) : SampleEnds e i u v q unusable bad infinite t := by
  obtain ⟨hvalue, hqual⟩ := written_workSet ho v.u q
  exact {
    cfg := (lcfg_congr hloops e i).trans (lcfg_lstPut ..)
    st := (lstGet_congr hloops e i).trans (lstGet_lstPut ..)
    value := by rw [workPt_congr hpimg, hvalue]
    qual := by rw [workPt_congr hpimg, hqual]
    cnt0 := by simp [cntOf_congr hblk, cntOf_countIf]
    cnt1 := by simp [cntOf_congr hblk, cntOf_countIf]
    cnt3 := by simp [cntOf_congr hblk, cntOf_countIf]
    hif := hhif
    sched := hsched }

/-- A loop's state after a sample that computed: supervised in AUTO. -/
def afterSample (c : LoopCfg) (x : LoopSt) : LoopSt := if x.mode = 2 then followed c x else x

theorem afterSample_frame (c : LoopCfg) (x : LoopSt) :
    { afterSample c x with fe := x.fe, feCnt := x.feCnt, feMan := x.feMan } = x := by
  unfold afterSample followed
  split_ifs <;> rfl

/-- FE changes with the persistence of R154, in AUTO alone (R239). -/
theorem afterSample_fe (c : LoopCfg) (x : LoopSt) : let v := afterSample c x
    (x.mode ≠ 2 → v.fe = x.fe ∧ v.feCnt = x.feCnt) ∧
    (x.mode = 2 → feCount c x = c.fecnt → v.fe = !x.fe ∧ v.feCnt = 0 ∧ v.feMan = (!x.fe && lFEHOLD c)) ∧
    (x.mode = 2 → feCount c x ≠ c.fecnt → v.fe = x.fe ∧ v.feCnt = BitVec.ofNat 16 (feCount c x)) := by
  refine ⟨fun h => ?_, fun h hcnt => ?_, fun h hcnt => ?_⟩
  · rw [afterSample, if_neg h]
    exact ⟨rfl, rfl⟩
  · rw [afterSample, if_pos h, followed, if_pos hcnt]
    exact ⟨rfl, rfl, rfl⟩
  · rw [afterSample, if_pos h, followed, if_neg hcnt]
    exact ⟨rfl, rfl⟩

/-- The supervision of an AUTO sample changes the following error alone. -/
theorem sampleEnds_followErr {e i : Nat} {u t : State} {v : LoopSt} {q : BitVec 3} {unusable bad infinite : Bool}
    (h : SampleEnds e i u v q unusable bad infinite t) :
    SampleEnds e i u (afterSample (lcfg u e i) v) q unusable bad infinite (followErr e i t) := by
  have hmode : (lstGet t e i).mode = v.mode := by rw [h.st]
  rw [afterSample]
  split_ifs with hauto
  · obtain ⟨marks, rises, heq⟩ := followErr_auto (hmode.trans hauto)
    have hloops : (followErr e i t).loops = (supervised e i marks t).loops := by rw [heq, countIf_loops]
    have hpimg : (followErr e i t).pimg = t.pimg := by rw [heq, countIf_pimg]; rfl
    have hcnt : ∀ k, k ≠ 2 → cntOf (followErr e i t) bLOOP k = cntOf t bLOOP k := fun k hk => by
      rw [heq, cntOf_countIf, if_neg fun hc => hk hc.2]
      rfl
    have hu : (followed (lcfg u e i) v).u = v.u := by
      rw [followed]
      split_ifs <;> rfl
    exact {
      cfg := by
        rw [lcfg_congr hloops]
        exact (lcfg_lstPut ..).trans h.cfg
      st := by
        rw [lstGet_congr hloops]
        exact (lstGet_lstPut ..).trans (by rw [h.cfg, h.st])
      value := by rw [workPt_congr hpimg, h.value, hu]
      qual := by rw [workPt_congr hpimg, h.qual]
      cnt0 := (hcnt 0 (by decide)).trans h.cnt0
      cnt1 := (hcnt 1 (by decide)).trans h.cnt1
      cnt3 := (hcnt 3 (by decide)).trans h.cnt3
      hif := by rw [heq, countIf_hif]; exact h.hif
      sched := by rw [heq, countIf_sched]; exact h.sched }
  · rwa [followErr_other fun h2 => hauto (hmode.symm.trans h2)]

theorem holdState_u (s : State) (c : LoopCfg) (x : LoopSt) (n : LoopIn) : (holdState s c x n).u = x.u := by
  unfold holdState
  dsimp only
  split_ifs <;> rfl

/-- What a hold sample leaves: I, D, XPREV, the output and the following error's count stay (R234). -/
theorem holdState_keeps (s : State) (c : LoopCfg) (x : LoopSt) (n : LoopIn) : let v := holdState s c x n
    v.mode = x.mode ∧ v.hold = true ∧ v.i = x.i ∧ v.d = x.d ∧ v.xprev = x.xprev ∧ v.feCnt = x.feCnt ∧ v.req = x.req := by
  intro v
  simp only [v, holdState]
  split_ifs <;> exact ⟨rfl, rfl, rfl, rfl, rfl, rfl, rfl⟩

section Ends

variable {e i : Nat} {u : State} (ho : OutputOpen (10 + e) (lcfg u e i).opt u)
include ho

/-- A hold sample leaves the output and marks it SUBST (R234). -/
theorem holdSample_open (n : LoopIn) : let v := holdState u (lcfg u e i) (lstGet u e i) n
    holdSample e i n u = workSet (lstPut u e i v) (lcfg u e i).opt v.u qSUBST := by
  intro v
  have hu : v.u = (lstGet u e i).u := holdState_u ..
  rw [hu]
  exact writeOut_open (s := lstPut u e i v) (ho.congr rfl rfl) _ (.inr rfl)

theorem loopSample_unusable (hy : inPt u (lcfg u e i).mpt = none) :
    let n := loopInputs u e (lcfg u e i) (lstGet u e i)
    SampleEnds e i u (holdState u (lcfg u e i) (lstGet u e i) n) qSUBST true n.bad false (loopSample e i u) := by
  intro n
  have heq : loopSample e i u = count bLOOP 0 (countIf n.bad bLOOP 1 (holdSample e i n u)) := by
    simp only [loopSample, hy]
    rfl
  rw [heq, holdSample_open ho]
  cases n.bad <;> exact sampleEnds_of ho rfl rfl rfl rfl rfl

section Usable

variable {m : F64} (hy : inPt u (lcfg u e i).mpt = some m)
include hy

/-- A value that is not finite makes the sample a hold sample (R234). -/
theorem loopSample_infinite (hok : (loopCompute u e i (lcfg u e i) (lstGet u e i) (loopInputs u e (lcfg u e i) (lstGet u e i)) m).2 = false) :
    let n := loopInputs u e (lcfg u e i) (lstGet u e i)
    SampleEnds e i u (holdState u (lcfg u e i) (lstGet u e i) n) qSUBST false n.bad true (loopSample e i u) := by
  intro n
  have heq : loopSample e i u = count bLOOP 3 (holdSample e i n (countIf n.bad bLOOP 1 u)) := by
    simp only [loopSample, hy, hok, Bool.false_eq_true, if_false]
    rfl
  have hcfg : lcfg (countIf n.bad bLOOP 1 u) e i = lcfg u e i := lcfg_congr (countIf_loops ..) e i
  have ho' : OutputOpen (10 + e) (lcfg (countIf n.bad bLOOP 1 u) e i).opt (countIf n.bad bLOOP 1 u) := by
    rw [hcfg]
    exact ho.congr (countIf_sched ..) (countIf_pimg ..)
  rw [heq, holdSample_open ho']
  cases n.bad <;> exact sampleEnds_of ho rfl rfl rfl rfl rfl

/-- A sample that computes writes its output with GOOD; after AUTO the following error is supervised (R233, R239). -/
theorem loopSample_finite (hok : (loopCompute u e i (lcfg u e i) (lstGet u e i) (loopInputs u e (lcfg u e i) (lstGet u e i)) m).2 = true) :
    let n := loopInputs u e (lcfg u e i) (lstGet u e i)
    let v := (loopCompute u e i (lcfg u e i) (lstGet u e i) n m).1
    SampleEnds e i u (afterSample (lcfg u e i) v) qGOOD false n.bad false (loopSample e i u) := by
  intro n v
  have heq : loopSample e i u =
      followErr e i (writeOut (10 + e) (lcfg u e i).opt v.u 0 (lstPut (countIf n.bad bLOOP 1 u) e i v)) := by
    simp only [loopSample, hy, hok, if_true]
    rfl
  have ho' : OutputOpen (10 + e) (lcfg u e i).opt (lstPut (countIf n.bad bLOOP 1 u) e i v) :=
    ho.congr (countIf_sched ..) (countIf_pimg ..)
  rw [heq, writeOut_open ho' _ (.inl rfl)]
  refine sampleEnds_followErr ?_
  cases n.bad <;> exact sampleEnds_of ho rfl rfl rfl rfl rfl

end Usable

end Ends

end Sys2Proof.Proofs
end

section
/-! PROOFS. An occurrence with one due loop (R230 to R239), as one sample of that loop. -/

namespace Sys2Proof.Proofs

open Sys2Proof.Machine Sys2Proof.Laws

/-! ### The turns of the other loops (R231) -/

theorem foldl_idle {α β : Type} {f : α → β → α} {l : List β} {s : α} (h : ∀ j ∈ l, f s j = s) : l.foldl f s = s := by
  induction l with
  | nil => rfl
  | cons a l ih =>
    rw [List.foldl_cons, h a List.mem_cons_self]
    exact ih fun j hj => h j (List.mem_cons_of_mem _ hj)

/-- Where only one element acts, a fold is that element's step. -/
theorem foldl_one {α β : Type} {f : α → β → α} {l : List β} {i : β} {s : α} (hnodup : l.Nodup) (hi : i ∈ l)
    (hbefore : ∀ j ∈ l, j ≠ i → f s j = s) (hafter : ∀ j ∈ l, j ≠ i → f (f s i) j = f s i) : l.foldl f s = f s i := by
  induction l with
  | nil => exact nomatch hi
  | cons a l ih =>
    obtain ⟨ha, hnodup'⟩ := List.nodup_cons.mp hnodup
    rw [List.foldl_cons]
    by_cases hai : a = i
    · subst hai
      exact foldl_idle fun j hj => hafter j (List.mem_cons_of_mem _ hj) fun hja => ha (hja ▸ hj)
    · rw [hbefore a List.mem_cons_self hai]
      exact ih hnodup' ((List.mem_cons.mp hi).resolve_left (Ne.symm hai)) (fun j hj => hbefore j (List.mem_cons_of_mem _ hj))
        fun j hj => hafter j (List.mem_cons_of_mem _ hj)

/-- An engine that runs in its slot with one due loop, no waiting parameter, its points inside the windows and its output open. -/
structure OneDue (e i : Nat) (s : State) : Prop where
  slot : inSlotOf s (10 + e) = true
  runs : enginesRun s = true
  enabled : enOf s bLOOP = true
  index : i < nloop s e
  due : loopDue s (lcfg s e i) = true
  alone : ∀ j, j < nloop s e → j ≠ i → loopDue s (lcfg s e j) = false
  params : s.loops.params = []
  readable : ∀ p ∈ loopPoints (lcfg s e i), inWindow s (10 + e) (viewIn p) 16 false = true
  output : OutputOpen (10 + e) (lcfg s e i).opt s

theorem takeParams_none {g : Nat} {s : State} (h : s.loops.params = []) : takeParams g s = s := by
  have hsame : { s with loops := { s.loops with params := [] } } = s := by
    rw [← h]
  simp only [takeParams, h, List.map_nil, List.flatten_nil, List.isEmpty_nil, if_true, List.filter_nil, List.foldl_nil]
  exact hsame

theorem ModeTaken.dueTurn_off {e i : Nat} {mode : BitVec 2} {uman : F64} {s : State}
    (hm : ModeTaken e i mode uman s (takeMode e i s)) (hmode : mode = 0) : dueTurn e i s = takeMode e i s := by
  rw [dueTurn, if_pos]
  rw [hm.st]
  exact hmode

theorem ModeTaken.dueTurn_samples {e i : Nat} {mode : BitVec 2} {uman : F64} {s : State}
    (hm : ModeTaken e i mode uman s (takeMode e i s)) (hmode : mode ≠ 0) : dueTurn e i s = loopSample e i (takeMode e i s) := by
  rw [dueTurn, if_neg]
  rw [hm.st]
  exact hmode

namespace OneDue

variable {e : Fin 4} {i : Nat} {s : State} (h : OneDue e.val i s)
include h

/-- The turns of the engine's loops are the turn of the due one. -/
theorem turns : (List.range (nloop s e)).foldl (loopTurn e) s = dueTurn e i s := by
  have hin : outsidePt s (10 + e.val) (loopPoints (lcfg s e i)) = none := by
    rw [outsidePt, List.find?_eq_none]
    intro p hp
    simp [h.readable p hp]
  have hturn : loopTurn e s i = dueTurn e i s := by
    rw [loopTurn_inside h.output.unfrozen h.due hin, takeParams_none h.params]
  have hwithin : Within e.val (fun j => j = i) s (loopTurn e s i) := within_loopTurn s fun _ => rfl
  rw [foldl_one List.nodup_range (List.mem_range.mpr h.index) (fun j hj hji => ?_) (fun j hj hji => ?_), hturn]
  · exact loopTurn_idle (.inr (h.alone j (List.mem_range.mp hj) hji))
  · refine loopTurn_idle (.inr ?_)
    rw [hwithin.due]
    exact h.alone j (List.mem_range.mp hj) hji

/-- What holds of every state that differs from the end of the due loop's turn in a trace alone, the occurrence gives. -/
theorem gives {P : State → Prop} (hsched : (dueTurn e i s).sched = s.sched) (hP : ∀ tr, P (withTrace e tr (dueTurn e i s))) :
    Gives (.loopOccurrence e) s P := by
  obtain ⟨tr, hexec⟩ := execLoopOccurrence_runs h.slot h.runs h.enabled h.output.unfrozen
  have hunfrozen : frozenM (dueTurn e i s) (10 + e.val) = false := by
    rw [frozenM, hsched]
    exact h.output.unfrozen
  rw [h.turns, hunfrozen, if_neg Bool.false_ne_true] at hexec
  exact ⟨_, hexec, hP tr⟩

variable {mode : BitVec 2} {uman : F64} (hm : ModeTaken e i mode uman s (takeMode e i s))
include hm

/-- An OFF loop takes no sample. -/
theorem gives_off {P : State → Prop} (hmode : mode = 0)
    (hP : ∀ t : State, t.pimg = s.pimg → (∀ k, cntOf t bLOOP k = cntOf s bLOOP k) → t.hif = (takeMode e i s).hif →
      lstGet t e i = modedSt (lstGet s e i) mode → P t) : Gives (.loopOccurrence e) s P := by
  have hoff := hm.dueTurn_off hmode
  refine h.gives (by rw [hoff, hm.sched]) fun tr => ?_
  rw [hoff]
  exact hP _ hm.pimg hm.counts rfl ((lstGet_withTrace ..).trans hm.st)

/-- What holds of every end of the sample, the occurrence gives. -/
theorem gives_sample {P : State → Prop} (hmode : mode ≠ 0) {v : LoopSt} {q : BitVec 3} {unusable bad infinite : Bool}
    (hends : SampleEnds e i (takeMode e i s) v q unusable bad infinite (loopSample e i (takeMode e i s)))
    (hP : ∀ t, SampleEnds e i (takeMode e i s) v q unusable bad infinite t → P t) : Gives (.loopOccurrence e) s P := by
  have hturn := hm.dueTurn_samples hmode
  refine h.gives (by rw [hturn, hends.sched, hm.sched]) fun tr => hP _ ?_
  rw [hturn]
  generalize loopSample e i (takeMode e i s) = t at hends
  have hcfg : lcfg (withTrace e tr t) e i = lcfg t e i := by rw [lcfg, withTrace, lpGet_lpPut, lcfg]
  exact {
    cfg := hcfg.trans hends.cfg
    st := (lstGet_withTrace ..).trans hends.st
    value := hends.value
    qual := hends.qual
    cnt0 := hends.cnt0
    cnt1 := hends.cnt1
    cnt3 := hends.cnt3
    hif := hends.hif
    sched := hends.sched }

theorem outputTaken : OutputOpen (10 + e.val) (lcfg (takeMode e i s) e i).opt (takeMode e i s) := by
  rw [hm.cfg]
  exact hm.outputOpen h.output

/-- An unusable measurement gives a hold sample (R234). -/
theorem gives_unusable {P : State → Prop} (hmode : mode ≠ 0) (hy : inPt s (lcfg s e i).mpt = none)
    (hP : ∀ v t, v = holdState (takeMode e i s) { lcfg s e i with uman := uman } (modedSt (lstGet s e i) mode)
        (loopInputs s e (lcfg s e i) (lstGet s e i)) →
      SampleEnds e i (takeMode e i s) v qSUBST true (loopInputs s e (lcfg s e i) (lstGet s e i)).bad false t → P t) :
    Gives (.loopOccurrence e) s P := by
  have hy' : inPt (takeMode e i s) (lcfg (takeMode e i s) e i).mpt = none := by
    rw [hm.cfg, hm.inPt]
    exact hy
  have hends := loopSample_unusable (h.outputTaken hm) hy'
  rw [hm.cfg, hm.st, hm.inputs] at hends
  exact h.gives_sample hm hmode hends fun t ht => hP _ t rfl ht

/-- A usable measurement gives a sample that computes, or a hold sample for a value that is not finite. -/
theorem gives_usable {P : State → Prop} (hmode : mode ≠ 0) {m : F64} (hy : inPt s (lcfg s e i).mpt = some m)
    (hheld : ∀ v t, v = holdState (takeMode e i s) { lcfg s e i with uman := uman } (modedSt (lstGet s e i) mode)
        (loopInputs s e (lcfg s e i) (lstGet s e i)) →
      SampleEnds e i (takeMode e i s) v qSUBST false (loopInputs s e (lcfg s e i) (lstGet s e i)).bad true t → P t)
    (hcomputed : ∀ r t, r = (loopCompute (takeMode e i s) e i { lcfg s e i with uman := uman } (modedSt (lstGet s e i) mode)
        (loopInputs s e (lcfg s e i) (lstGet s e i)) m).1 →
      SampleEnds e i (takeMode e i s) (afterSample (lcfg s e i) r) qGOOD false
        (loopInputs s e (lcfg s e i) (lstGet s e i)).bad false t → P t) : Gives (.loopOccurrence e) s P := by
  have hy' : inPt (takeMode e i s) (lcfg (takeMode e i s) e i).mpt = some m := by
    rw [hm.cfg, hm.inPt]
    exact hy
  cases hok : (loopCompute (takeMode e i s) e i (lcfg (takeMode e i s) e i) (lstGet (takeMode e i s) e i)
      (loopInputs (takeMode e i s) e (lcfg (takeMode e i s) e i) (lstGet (takeMode e i s) e i)) m).2
  · have hends := loopSample_infinite (h.outputTaken hm) hy' hok
    rw [hm.cfg, hm.st, hm.inputs] at hends
    exact h.gives_sample hm hmode hends fun t ht => hheld _ t rfl ht
  · have hends := loopSample_finite (h.outputTaken hm) hy' hok
    rw [hm.cfg, hm.st, hm.inputs] at hends
    exact h.gives_sample hm hmode hends fun t ht => hcomputed _ t rfl ht

end OneDue

/-! ### The end of a sample in terms of the state before -/

section Seen

variable {e i : Nat} {mode : BitVec 2} {uman : F64} {s u t : State} {v : LoopSt} {q : BitVec 3} {unusable bad infinite : Bool}
  (hm : ModeTaken e i mode uman s u) (h : SampleEnds e i u v q unusable bad infinite t)
include hm h

theorem SampleEnds.written : (workPt t (lcfg s e i).opt).value = v.u ∧ (workPt t (lcfg s e i).opt).qual = q := by
  have hvalue := h.value
  have hqual := h.qual
  rw [hm.cfg] at hvalue hqual
  exact ⟨hvalue, hqual⟩

theorem SampleEnds.counts : (cntOf t bLOOP 0 = if unusable then satInc (cntOf s bLOOP 0) else cntOf s bLOOP 0) ∧
    (cntOf t bLOOP 1 = if bad then satInc (cntOf s bLOOP 1) else cntOf s bLOOP 1) ∧
    cntOf t bLOOP 3 = if infinite then satInc (cntOf s bLOOP 3) else cntOf s bLOOP 3 := by
  rw [← hm.counts 0, ← hm.counts 1, ← hm.counts 3]
  exact ⟨h.cnt0, h.cnt1, h.cnt3⟩

end Seen

end Sys2Proof.Proofs
end

section
/-! PROOFS. The descriptors LOOP_MODE, LOOP_PARAM, LOOP_TRACE and LOOP_READ (R240, R243 to R245). -/

namespace Sys2Proof.Proofs

open Sys2Proof.Machine Sys2Proof.Laws

section Descriptors

variable {d : HostDesc} {s : State}

/-- A completion OK after an update of the loops. -/
theorem finLoop_done {t : State} (ht : d ∈ (ringGet t d.ring).started) (data : Nat) :
    Answered d stOK data (finLoop d stOK data t) ∧ (finLoop d stOK data t).loops = t.loops := by
  refine ⟨?_, finLoop_loops ..⟩
  rw [finLoop_uncounted (by decide)]
  exact answered_complete stOK data ht

/-! ### LOOP_MODE (R243) -/

theorem loopExists_iff (g : Nat) : loopExists s g = true ↔ g < 512 ∧ g % 128 < nloop s (g / 128) := by
  simp [loopExists]

theorem loopMode_range (h : 3 < d8 d 18 ∨ 511 < d16 d 16) (hd : d ∈ (ringGet s d.ring).started) :
    RefusedByLoop d stRANGE 0 s (effLoopMode d s) := by
  have heff : effLoopMode d s = finLoop d stRANGE 0 s := if_pos h
  rw [heff]
  exact finLoop_refused hd (by decide) 0

section Mode

variable (hmode : d8 d 18 ≤ 3) (hg : d16 d 16 < 512)
include hmode hg

theorem loopMode_notReady (hd : d ∈ (ringGet s d.ring).started) (h : nloop s (d16 d 16 / 128) ≤ d16 d 16 % 128) :
    RefusedByLoop d stNOT_READY 0 s (effLoopMode d s) := by
  have habsent : loopExists s (d16 d 16) = false := by simp [loopExists, h]
  have heff : effLoopMode d s = finLoop d stNOT_READY 0 s := by
    simp only [effLoopMode, habsent, Bool.not_false, if_true]
    exact if_neg (by omega)
  rw [heff]
  exact finLoop_refused hd (by decide) 0

variable (hloop : d16 d 16 % 128 < nloop s (d16 d 16 / 128))
include hloop

theorem effLoopMode_exists : effLoopMode d s =
    if (lcfg s (d16 d 16 / 128) (d16 d 16 % 128)).modept ≠ noPoint then finLoop d stLOCKED 0 s
    else
      let x := lstGet s (d16 d 16 / 128) (d16 d 16 % 128)
      let t := lstPut s (d16 d 16 / 128) (d16 d 16 % 128) { x with req := some d }
      (x.req.map fun o => finLoop o stDROPPED 0 t).getD t := by
  have hexists : loopExists s (d16 d 16) = true := (loopExists_iff _).mpr ⟨hg, hloop⟩
  rw [effLoopMode, if_neg (by omega), hexists]
  simp only [Bool.not_true, Bool.false_eq_true, if_false]
  cases (lstGet s (d16 d 16 / 128) (d16 d 16 % 128)).req <;> rfl

theorem loopMode_locked (hd : d ∈ (ringGet s d.ring).started)
    (h : (lcfg s (d16 d 16 / 128) (d16 d 16 % 128)).modept ≠ noPoint) : RefusedByLoop d stLOCKED 0 s (effLoopMode d s) := by
  rw [effLoopMode_exists hmode hg hloop, if_pos h]
  exact finLoop_refused hd (by decide) 0

/-- It waits for the loop's next due sample, and an earlier one completes DROPPED. -/
theorem loopMode_waits (h : (lcfg s (d16 d 16 / 128) (d16 d 16 % 128)).modept = noPoint) :
    let t := effLoopMode d s
    let x := lstGet s (d16 d 16 / 128) (d16 d 16 % 128)
    lstGet t (d16 d 16 / 128) (d16 d 16 % 128) = { x with req := some d } ∧
    (∀ f j, ¬(f = d16 d 16 / 128 ∧ j = d16 d 16 % 128) → lstGet t f j = lstGet s f j) ∧
    (x.req = none → t.hif.waiting = s.hif.waiting) ∧
    ∀ o, x.req = some o → o ∈ (ringGet s o.ring).started → Answered o stDROPPED 0 t := by
  intro t x
  generalize hu : lstPut s (d16 d 16 / 128) (d16 d 16 % 128) { x with req := some d } = u
  have ht : t = (x.req.map fun o => finLoop o stDROPPED 0 u).getD u := by
    rw [← hu]
    exact (effLoopMode_exists hmode hg hloop).trans (if_neg (not_not_intro h))
  have hloops : t.loops = u.loops := by
    rw [ht]
    cases x.req with
    | none => rfl
    | some o => exact finLoop_loops ..
  refine ⟨?_, fun f j hfj => ?_, fun hnone => ?_, fun o ho hstarted => ?_⟩
  · rw [lstGet_congr hloops, ← hu, lstGet_lstPut]
  · rw [lstGet_congr hloops, ← hu, lstGet_lstPut_ne _ _ hfj]
  · rw [ht, hnone, ← hu]
    rfl
  · rw [ht, ho, Option.map_some, Option.getD_some, finLoop_uncounted (by decide)]
    refine answered_complete stDROPPED 0 ?_
    rw [← hu]
    exact hstarted

end Mode

/-! ### LOOP_PARAM (R244) -/

theorem firstIdx_none {α : Type} {p : α → Bool} {l : List α} (h : ∀ a ∈ l, p a = false) (k : Nat) : firstIdx p l k = none := by
  induction l generalizing k with
  | nil => rfl
  | cons a l ih =>
    rw [firstIdx, h a List.mem_cons_self, if_neg Bool.false_ne_true]
    exact ih (fun b hb => h b (List.mem_cons_of_mem _ hb)) _

theorem firstIdx_first {α : Type} {p : α → Bool} {l : List α} {n : Nat} {a : α} (ha : l[n]? = some a) (hbad : p a = true)
    (hgood : ∀ b ∈ l.take n, p b = false) (k : Nat) : firstIdx p l k = some (k + n) := by
  induction l generalizing n k with
  | nil => exact nomatch ha
  | cons b l ih =>
    cases n with
    | zero =>
      obtain rfl : b = a := Option.some.inj ha
      rw [firstIdx, if_pos hbad]
      rfl
    | succ n =>
      rw [firstIdx, hgood b List.mem_cons_self, if_neg Bool.false_ne_true, ih ha fun c hc => hgood c (List.mem_cons_of_mem _ hc)]
      congr 1
      omega

section Param

theorem loopParam_range (hd : d ∈ (ringGet s d.ring).started) (h : ¬(1 ≤ d32 d 20 ∧ d32 d 20 ≤ 1024 ∧ d64 d 24 % 16 = 0)) :
    RefusedByLoop d stRANGE 0 s (effLoopParam d s) := by
  have heff : effLoopParam d s = finLoop d stRANGE 0 s := if_pos (by omega)
  rw [heff]
  exact finLoop_refused hd (by decide) 0

variable (hgood : 1 ≤ d32 d 20 ∧ d32 d 20 ≤ 1024 ∧ d64 d 24 % 16 = 0)
include hgood

theorem loopParam_notReady (hd : d ∈ (ringGet s d.ring).started)
    (h : ∃ q ∈ loopPairs d, q.loop < 512 ∧ nloop s (q.loop / 128) ≤ q.loop % 128) :
    RefusedByLoop d stNOT_READY 0 s (effLoopParam d s) := by
  have hfound : ((loopPairs d).find? fun q => decide (q.loop < 512) && !(loopExists s q.loop)).isSome = true := by
    obtain ⟨q, hq, hlt, habsent⟩ := h
    rw [List.find?_isSome]
    exact ⟨q, hq, by simp [loopExists, hlt, habsent]⟩
  obtain ⟨q, hq⟩ := Option.isSome_iff_exists.mp hfound
  have heff : effLoopParam d s = finLoop d stNOT_READY 0 s := by
    simp only [effLoopParam, hq]
    exact if_neg (by omega)
  rw [heff]
  exact finLoop_refused hd (by decide) 0

variable (hpresent : ¬∃ q ∈ loopPairs d, q.loop < 512 ∧ nloop s (q.loop / 128) ≤ q.loop % 128)
include hpresent

theorem effLoopParam_present : effLoopParam d s =
    ((firstIdx (loopPairBad s (loopPairs d)) (loopPairs d) 0).map fun k => finLoop d stRANGE k s).getD
      { s with loops := { s.loops with params := s.loops.params ++ [{ desc := d, pairs := loopPairs d }] } } := by
  have hnone : ((loopPairs d).find? fun q => decide (q.loop < 512) && !(loopExists s q.loop)) = none := by
    rw [List.find?_eq_none]
    intro q hq hbad
    refine hpresent ⟨q, hq, ?_⟩
    simp only [Bool.and_eq_true, decide_eq_true_eq, Bool.not_eq_true', loopExists, Bool.and_eq_false_imp, decide_eq_false_iff_not] at hbad
    exact ⟨hbad.1, Nat.le_of_not_lt (hbad.2 hbad.1)⟩
  simp only [effLoopParam, hnone]
  rw [if_neg (by omega)]
  cases firstIdx (loopPairBad s (loopPairs d)) (loopPairs d) 0 <;> rfl

/-- Valid pairs wait for the next due samples of their loops. -/
theorem loopParam_waits (h : ∀ q ∈ loopPairs d, loopPairBad s (loopPairs d) q = false) : effLoopParam d s =
    { s with loops := { s.loops with params := s.loops.params ++ [{ desc := d, pairs := loopPairs d }] } } := by
  rw [effLoopParam_present hgood hpresent, firstIdx_none h]
  rfl

/-- The first invalid pair is named. -/
theorem loopParam_invalid (hd : d ∈ (ringGet s d.ring).started) {k : Nat} {q : LoopPair} (hq : (loopPairs d)[k]? = some q)
    (hbad : loopPairBad s (loopPairs d) q = true) (hfirst : ∀ r ∈ (loopPairs d).take k, loopPairBad s (loopPairs d) r = false) :
    RefusedByLoop d stRANGE k s (effLoopParam d s) := by
  rw [effLoopParam_present hgood hpresent, firstIdx_first hq hbad hfirst, Nat.zero_add]
  exact finLoop_refused hd (by decide) k

end Param

/-- A pair without a loop, without a field of Table 8-3, or with a NaN is invalid by itself. -/
theorem loopPairBad_alone {all : List LoopPair} {q : LoopPair}
    (h : 511 < q.loop ∨ q.field = 0 ∨ 13 < q.field ∨ nanF q.value = true) : loopPairBad s all q = true := by
  unfold loopPairBad
  rcases h with h | h | h | h
  · have habsent : loopExists s q.loop = false := by
      simp only [loopExists, Bool.and_eq_false_imp, decide_eq_true_eq]
      intro hlt
      omega
    simp [habsent]
  · simp [h]
  · simp [h]
  · simp [h]

/-! ### LOOP_TRACE (R240, R245) -/

section Trace

/-- The trace of an engine becomes `v`, and the descriptor completes OK; the engine's loops stay. -/
def TraceDone (d : HostDesc) (e : Nat) (v : Trace) (s t : State) : Prop :=
  Answered d stOK 0 t ∧ (lpGet t e).trace = v ∧ (lpGet t e).st = (lpGet s e).st ∧ (lpGet t e).cfgs = (lpGet s e).cfgs

theorem traceDone_finLoop (hd : d ∈ (ringGet s d.ring).started) (e : Nat) (v : Trace) :
    TraceDone d e v s (finLoop d stOK 0 (lpPut s e { lpGet s e with trace := v })) := by
  obtain ⟨hanswered, hloops⟩ := finLoop_done (t := lpPut s e { lpGet s e with trace := v }) hd 0
  refine ⟨hanswered, ?_, ?_, ?_⟩ <;> rw [lpGet_congr hloops, lpGet_lpPut]

theorem loopTrace_range (hd : d ∈ (ringGet s d.ring).started) (h : 3 < d8 d 16 ∨ 2 < d8 d 17) :
    RefusedByLoop d stRANGE 0 s (effLoopTrace d s) := by
  have heff : effLoopTrace d s = finLoop d stRANGE 0 s := if_pos h
  rw [heff]
  exact finLoop_refused hd (by decide) 0

/-- The fields of an arming are in range. -/
def ArmInRange (d : HostDesc) : Prop :=
  d16 d 18 ≤ 4095 ∧ d16 d 20 ≠ 0 ∧ d8 d 22 ≤ 2 ∧ ∀ n ∈ traceNodes d.buf, n.sig ≤ 7

theorem armInRange_iff : ArmInRange d ↔
    ¬(d16 d 18 > 4095 ∨ d16 d 20 = 0 ∨ d8 d 22 > 2 ∨ (traceNodes d.buf).any (fun n => decide (7 < n.sig)) = true) := by
  simp only [ArmInRange, List.any_eq_true, decide_eq_true_eq, not_or, not_exists, not_and, Nat.not_lt, gt_iff_lt, ne_eq]

variable (he : d8 d 16 ≤ 3)
include he

theorem loopTrace_notReady (hd : d ∈ (ringGet s d.ring).started) (hact : d8 d 17 ≤ 2) (h : nloop s (d8 d 16) = 0) :
    RefusedByLoop d stNOT_READY 0 s (effLoopTrace d s) := by
  have heff : effLoopTrace d s = finLoop d stNOT_READY 0 s := (if_neg (by omega)).trans (if_pos h)
  rw [heff]
  exact finLoop_refused hd (by decide) 0

variable (hloops : nloop s (d8 d 16) ≠ 0)
include hloops

/-- ACTION 0 ends the trace. -/
theorem loopTrace_disarms (hd : d ∈ (ringGet s d.ring).started) (hact : d8 d 17 = 0) :
    TraceDone d (d8 d 16) { (lpGet s (d8 d 16)).trace with st := 0 } s (effLoopTrace d s) := by
  have heff : effLoopTrace d s = finLoop d stOK 0 (lpPut s (d8 d 16) { lpGet s (d8 d 16) with
      trace := { (lpGet s (d8 d 16)).trace with st := 0 } }) :=
    (if_neg (by omega)).trans ((if_neg hloops).trans (if_pos hact))
  rw [heff]
  exact traceDone_finLoop hd ..

theorem effLoopTrace_trigger (hact : d8 d 17 = 2) : effLoopTrace d s = finLoop d stOK 0 (lpPut s (d8 d 16)
    { lpGet s (d8 d 16) with trace := traceTrig (lpGet s (d8 d 16)).trace }) :=
  (if_neg (by omega)).trans ((if_neg hloops).trans ((if_neg (by omega)).trans (if_pos hact)))

/-- ACTION 2 leaves a trace that is not armed. -/
theorem loopTrace_triggersNone (hd : d ∈ (ringGet s d.ring).started) (hact : d8 d 17 = 2)
    (hst : (lpGet s (d8 d 16)).trace.st ≠ 1) : TraceDone d (d8 d 16) (lpGet s (d8 d 16)).trace s (effLoopTrace d s) := by
  rw [effLoopTrace_trigger he hloops hact, traceTrig, if_neg hst]
  exact traceDone_finLoop hd ..

/-- ACTION 2 triggers an armed trace: the samples after the ones before the trigger are left. -/
theorem loopTrace_triggers (hd : d ∈ (ringGet s d.ring).started) (hact : d8 d 17 = 2)
    (hst : (lpGet s (d8 d 16)).trace.st = 1) : let r := (lpGet s (d8 d 16)).trace
    TraceDone d (d8 d 16) { r with st := if 4096 ≤ r.pre then 3 else 2, left := 4096 - r.pre } s (effLoopTrace d s) := by
  rw [effLoopTrace_trigger he hloops hact, traceTrig, if_pos hst, if_congr Nat.sub_eq_zero_iff_le rfl rfl]
  exact traceDone_finLoop hd ..

theorem effLoopTrace_arm (hact : d8 d 17 = 1) : effLoopTrace d s =
    if (lpGet s (d8 d 16)).trace.st = 1 ∨ (lpGet s (d8 d 16)).trace.st = 2 then finLoop d stBUSY 0 s
    else if d16 d 18 > 4095 ∨ d16 d 20 = 0 ∨ d8 d 22 > 2 ∨ (traceNodes d.buf).any (fun n => decide (7 < n.sig)) then finLoop d stRANGE 0 s
    else if (traceNodes d.buf).any (fun n => decide (nloop s (d8 d 16) ≤ n.loop)) then finLoop d stNOT_READY 0 s
    else finLoop d stOK 0 (lpPut s (d8 d 16) { lpGet s (d8 d 16) with trace :=
      { nodes := traceNodes d.buf, st := 1, pre := d16 d 18, tdiv := d16 d 20, tsrc := d8 d 22 } }) :=
  (if_neg (by omega)).trans ((if_neg hloops).trans ((if_neg (by omega)).trans (if_neg (by omega))))

theorem loopTrace_busy (hd : d ∈ (ringGet s d.ring).started) (hact : d8 d 17 = 1)
    (hst : (lpGet s (d8 d 16)).trace.st = 1 ∨ (lpGet s (d8 d 16)).trace.st = 2) :
    RefusedByLoop d stBUSY 0 s (effLoopTrace d s) := by
  rw [effLoopTrace_arm he hloops hact, if_pos hst]
  exact finLoop_refused hd (by decide) 0

variable (hact : d8 d 17 = 1) (hst : ¬((lpGet s (d8 d 16)).trace.st = 1 ∨ (lpGet s (d8 d 16)).trace.st = 2))
include hact hst

theorem loopTrace_armRange (hd : d ∈ (ringGet s d.ring).started) (h : ¬ArmInRange d) :
    RefusedByLoop d stRANGE 0 s (effLoopTrace d s) := by
  rw [effLoopTrace_arm he hloops hact, if_neg hst, if_pos (not_not.mp (mt armInRange_iff.mpr h))]
  exact finLoop_refused hd (by decide) 0

theorem loopTrace_armNotReady (hd : d ∈ (ringGet s d.ring).started) (h : ArmInRange d)
    (habsent : ∃ n ∈ traceNodes d.buf, nloop s (d8 d 16) ≤ n.loop) : RefusedByLoop d stNOT_READY 0 s (effLoopTrace d s) := by
  rw [effLoopTrace_arm he hloops hact, if_neg hst, if_neg (armInRange_iff.mp h), if_pos (by simpa using habsent)]
  exact finLoop_refused hd (by decide) 0

/-- ACTION 1 arms the trace of an engine with the 8 nodes. -/
theorem loopTrace_arms (hd : d ∈ (ringGet s d.ring).started) (h : ArmInRange d)
    (hpresent : ∀ n ∈ traceNodes d.buf, n.loop < nloop s (d8 d 16)) : TraceDone d (d8 d 16)
      { nodes := traceNodes d.buf, st := 1, pre := d16 d 18, tdiv := d16 d 20, tsrc := d8 d 22 } s (effLoopTrace d s) := by
  rw [effLoopTrace_arm he hloops hact, if_neg hst, if_neg (armInRange_iff.mp h), if_neg (by simpa using hpresent)]
  exact traceDone_finLoop hd ..

end Trace

/-! ### LOOP_READ (R245) -/

section Read

/-- The descriptor completes OK with its bytes sent, and the loops stay. -/
def LoopBytesSent (d : HostDesc) (b : Bytes) (s t : State) : Prop :=
  Answered d stOK 0 t ∧ t.loops = s.loops ∧ Delivered (dAddr d) b s t

theorem finLoop_sends (hd : d ∈ (ringGet s d.ring).started) (b : Bytes) :
    LoopBytesSent d b s (finLoop d stOK 0 (toHost (dAddr d) b s)) := by
  have hloops : (toHost (dAddr d) b s).loops = s.loops := by
    unfold toHost
    split_ifs <;> rfl
  obtain ⟨hanswered, hsame⟩ := finLoop_done (t := toHost (dAddr d) b s) (by rwa [toHost_started]) 0
  refine ⟨hanswered, hsame.trans hloops, ?_⟩
  rw [finLoop_uncounted (by decide)]
  exact delivered_complete ..

theorem loopRead_range (hd : d ∈ (ringGet s d.ring).started) (h : 2 < d8 d 16 ∨ 3 < d8 d 17) :
    RefusedByLoop d stRANGE 0 s (effLoopRead d s) := by
  have heff : effLoopRead d s = finLoop d stRANGE 0 s := if_pos h
  rw [heff]
  exact finLoop_refused hd (by decide) 0

variable (he : d8 d 17 ≤ 3)
include he

theorem effLoopRead_loops (hwhat : d8 d 16 ≤ 1) : effLoopRead d s =
    if d32 d 20 + d32 d 24 > 128 then finLoop d stRANGE 0 s
    else if d32 d 20 + d32 d 24 > nloop s (d8 d 17) then finLoop d stNOT_READY 0 s
    else finLoop d stOK 0 (toHost (dAddr d) ((List.range (d32 d 24)).map fun j =>
      if d8 d 16 = 0 then loopCfgBytes (lcfg s (d8 d 17) (d32 d 20 + j)) else loopStBytes (lstGet s (d8 d 17) (d32 d 20 + j))).flatten s) :=
  (if_neg (by omega)).trans (if_neg (by omega))

theorem effLoopRead_trace (hwhat : d8 d 16 = 2) : effLoopRead d s =
    if (lpGet s (d8 d 17)).trace.st = 1 ∨ (lpGet s (d8 d 17)).trace.st = 2 then finLoop d stBUSY 0 s
    else if d32 d 20 + d32 d 24 > min (lpGet s (d8 d 17)).trace.cnt 4096 then finLoop d stRANGE 0 s
    else finLoop d stOK 0 (toHost (dAddr d) ((List.range 8).map fun k => ((List.range (d32 d 24)).map fun j =>
      leBytes 2 (traceEntry (lpGet s (d8 d 17)).trace k (d32 d 20 + j)).toNat).flatten).flatten s) :=
  (if_neg (by omega)).trans (if_pos hwhat)

section Records

variable (hwhat : d8 d 16 ≤ 1)
include hwhat

theorem loopRead_pastTable (hd : d ∈ (ringGet s d.ring).started) (h : 128 < d32 d 20 + d32 d 24) :
    RefusedByLoop d stRANGE 0 s (effLoopRead d s) := by
  rw [effLoopRead_loops he hwhat, if_pos h]
  exact finLoop_refused hd (by decide) 0

variable (hin : d32 d 20 + d32 d 24 ≤ 128)
include hin

theorem loopRead_absent (hd : d ∈ (ringGet s d.ring).started) (h : nloop s (d8 d 17) < d32 d 20 + d32 d 24) :
    RefusedByLoop d stNOT_READY 0 s (effLoopRead d s) := by
  rw [effLoopRead_loops he hwhat, if_neg (Nat.not_lt.mpr hin), if_pos h]
  exact finLoop_refused hd (by decide) 0

/-- WHAT 0 and 1 send the configuration and the state records of loops. -/
theorem loopRead_records (hd : d ∈ (ringGet s d.ring).started) (h : d32 d 20 + d32 d 24 ≤ nloop s (d8 d 17)) :
    LoopBytesSent d ((List.range (d32 d 24)).map fun j => if d8 d 16 = 0 then loopCfgBytes (lcfg s (d8 d 17) (d32 d 20 + j))
      else loopStBytes (lstGet s (d8 d 17) (d32 d 20 + j))).flatten s (effLoopRead d s) := by
  rw [effLoopRead_loops he hwhat, if_neg (Nat.not_lt.mpr hin), if_neg (Nat.not_lt.mpr h)]
  exact finLoop_sends hd _

end Records

section Trace

variable (hwhat : d8 d 16 = 2)
include hwhat

theorem loopRead_traceBusy (hd : d ∈ (ringGet s d.ring).started)
    (hst : (lpGet s (d8 d 17)).trace.st = 1 ∨ (lpGet s (d8 d 17)).trace.st = 2) : RefusedByLoop d stBUSY 0 s (effLoopRead d s) := by
  rw [effLoopRead_trace he hwhat, if_pos hst]
  exact finLoop_refused hd (by decide) 0

variable (hst : ¬((lpGet s (d8 d 17)).trace.st = 1 ∨ (lpGet s (d8 d 17)).trace.st = 2))
include hst

theorem loopRead_traceRange (hd : d ∈ (ringGet s d.ring).started)
    (h : min (lpGet s (d8 d 17)).trace.cnt 4096 < d32 d 20 + d32 d 24) : RefusedByLoop d stRANGE 0 s (effLoopRead d s) := by
  rw [effLoopRead_trace he hwhat, if_neg hst, if_pos h]
  exact finLoop_refused hd (by decide) 0

/-- WHAT 2 sends the entries of the 8 nodes, oldest first. -/
theorem loopRead_entries (hd : d ∈ (ringGet s d.ring).started)
    (h : d32 d 20 + d32 d 24 ≤ min (lpGet s (d8 d 17)).trace.cnt 4096) :
    LoopBytesSent d ((List.range 8).map fun k => ((List.range (d32 d 24)).map fun j =>
      leBytes 2 (traceEntry (lpGet s (d8 d 17)).trace k (d32 d 20 + j)).toNat).flatten).flatten s (effLoopRead d s) := by
  rw [effLoopRead_trace he hwhat, if_neg hst, if_neg (Nat.not_lt.mpr h)]
  exact finLoop_sends hd _

end Trace

end Read

end Descriptors

end Sys2Proof.Proofs
end

section
/-! PROOFS. The samples of the obligation about loops (R230 to R245), mode by mode, and the obligation itself. -/

namespace Sys2Proof.Proofs

open Sys2Proof.Machine Sys2Proof.Laws

/-! ### What a computed sample leaves (R233, R236, R239) -/

/-- A loop's state `n` after a sample in `mode` that computed the terms `o` from the measurement `m`; `c` and `x` are its
configuration and its state before. -/
structure Shows (c : LoopCfg) (x : LoopSt) (ff m : F64) (mode : BitVec 2) (o : PidOut) (n : LoopSt) : Prop where
  inMode : n.mode = mode
  hold : n.hold = false
  er : n.e = o.er
  p : n.pp = o.p
  d : n.d = o.d
  xd : n.xprev = o.xd
  u : n.u = o.u
  y : n.y = m
  w : n.w = o.w
  wt : n.wt = o.wt
  first : n.first = false
  i : n.i = if mode = 2 then o.i else subF (subF (subF o.u o.p) o.d) ff
  req : n.req = none
  unsupervised : mode ≠ 2 → n.fe = x.fe ∧ n.feCnt = x.feCnt
  changes : mode = 2 → (if ltF c.felim (absF (subF o.w m)) = x.fe then 0 else x.feCnt.toNat + 1) = c.fecnt →
    n.fe = !x.fe ∧ n.feCnt = 0 ∧ n.feMan = (!x.fe && lFEHOLD c)
  counts : mode = 2 → (if ltF c.felim (absF (subF o.w m)) = x.fe then 0 else x.feCnt.toNat + 1) ≠ c.fecnt →
    n.fe = x.fe ∧ n.feCnt = BitVec.ofNat 16 (if ltF c.felim (absF (subF o.w m)) = x.fe then 0 else x.feCnt.toNat + 1)

/-- No inner loop holds or saturates loop i of engine e. -/
def FreeLoop (e i : Nat) (s : State) : Prop :=
  ∀ k, innerOf s e i = some k → (lstGet s e k).mode = 2 ∧ (lstGet s e k).hold = false ∧
    (lstGet s e k).satHi = false ∧ (lstGet s e k).satLo = false

theorem computeOut_forced (c : LoopCfg) {x : LoopSt} (hauto : x.mode = 2) (n : LoopIn) (v raw : F64) :
    computeOut c x n (some v) raw = v := by
  simp [computeOut, hauto]

section Taken

variable {e i : Nat} {mode : BitVec 2} {uman : F64} {s u : State} (hm : ModeTaken e i mode uman s u)
include hm

theorem ModeTaken.computeForced_free (hfree : FreeLoop e i s) : computeForced u e i (modedSt (lstGet s e i) mode) = none := by
  rw [computeForced]
  split_ifs with hauto
  · exact hm.not_forced hauto fun k hk => ⟨(hfree k hk).1, (hfree k hk).2.1⟩
  · rfl

/-- The state of a free loop after its sample. -/
theorem ModeTaken.shows (hfree : FreeLoop e i s) (m : F64) : let c := lcfg s e i
    let x := lstGet s e i
    let n := loopInputs s e c x
    Shows c x n.ff m mode (freeTerms (Machine.loopTs s c) n.wt n.ff n.trk c x uman mode m)
      (afterSample c (loopCompute u e i { c with uman := uman } (modedSt x mode) n m).1) := by
  intro c x n
  have hterms := loopCompute_terms u e i { c with uman := uman } (modedSt x mode) n m
  have hmarks := loopCompute_marks u e i { c with uman := uman } (modedSt x mode) n m
  have hfreed : computed u e i { c with uman := uman } (modedSt x mode) n m =
      freeTerms (Machine.loopTs s c) n.wt n.ff n.trk c x uman mode m := by
    rw [computed_free n uman m (fun h => hm.not_forced h fun k hk => ⟨(hfree k hk).1, (hfree k hk).2.1⟩)
      (hm.not_blocked fun k hk => (hfree k hk).2.2), hm.loopTs]
  rw [hfreed, hm.computeForced_free hfree] at hterms
  generalize freeTerms (Machine.loopTs s c) n.wt n.ff n.trk c x uman mode m = o at hterms
  generalize (loopCompute u e i { c with uman := uman } (modedSt x mode) n m).1 = r at hterms hmarks
  obtain ⟨her, hp, hd, hxd, hu, hw, hwt, hi⟩ := hterms
  obtain ⟨hmode, hfe, hfeCnt, hreq, hy, hfirst, hhold, -⟩ := hmarks
  have hframe := afterSample_frame c r
  obtain ⟨hother, hchanges, hcounts⟩ := afterSample_fe c r
  have hcnt : feCount c r = if ltF c.felim (absF (subF o.w m)) = x.fe then 0 else x.feCnt.toNat + 1 := by
    rw [feCount, hw, hy, hfe, hfeCnt]
    rfl
  rw [hmode, hfe, hfeCnt] at hother
  rw [hmode, hcnt, hfe] at hchanges hcounts
  exact {
    inMode := (congrArg LoopSt.mode hframe).trans hmode
    hold := (congrArg LoopSt.hold hframe).trans hhold
    er := (congrArg LoopSt.e hframe).trans her
    p := (congrArg LoopSt.pp hframe).trans hp
    d := (congrArg LoopSt.d hframe).trans hd
    xd := (congrArg LoopSt.xprev hframe).trans hxd
    u := (congrArg LoopSt.u hframe).trans hu
    y := (congrArg LoopSt.y hframe).trans hy
    w := (congrArg LoopSt.w hframe).trans hw
    wt := (congrArg LoopSt.wt hframe).trans hwt
    first := (congrArg LoopSt.first hframe).trans hfirst
    i := (congrArg LoopSt.i hframe).trans (hi.trans (if_congr (by simp [modedSt]) rfl rfl))
    req := (congrArg LoopSt.req hframe).trans hreq
    unsupervised := hother
    changes := hchanges
    counts := hcounts }

/-- An outer loop in AUTO whose inner loop is not in AUTO or on hold computes the output that it has (R237). -/
theorem ModeTaken.tracks {k : Nat} (hauto : mode = 2) (hmode : mode = (lstGet s e i).mode) (hk : innerOf s e i = some k)
    (hst : (lstGet s e k).mode ≠ 2 ∨ (lstGet s e k).hold = true) (htrk : lSPTRK (lcfg s e k) = false) (n : LoopIn) (m : F64) :
    let r := (loopCompute u e i { lcfg s e i with uman := uman } (modedSt (lstGet s e i) mode) n m).1
    (afterSample (lcfg s e i) r).u = (lstGet s e i).u ∧ (afterSample (lcfg s e i) r).tracking = true := by
  intro r
  have hforced : computeForced u e i (modedSt (lstGet s e i) mode) = some (lstGet s e i).u :=
    (if_pos hauto).trans (hm.forced hmode hk hst htrk)
  have hterms := loopCompute_terms u e i { lcfg s e i with uman := uman } (modedSt (lstGet s e i) mode) n m
  have hmarks := loopCompute_marks u e i { lcfg s e i with uman := uman } (modedSt (lstGet s e i) mode) n m
  obtain ⟨-, -, -, -, hu, -⟩ := hterms
  obtain ⟨-, -, -, -, -, -, -, htracking⟩ := hmarks
  rw [hforced] at htracking
  have hout : (computed u e i { lcfg s e i with uman := uman } (modedSt (lstGet s e i) mode) n m).u = (lstGet s e i).u := by
    simp only [computed, pidTerms, hforced]
    exact computeOut_forced _ hauto ..
  have hframe := afterSample_frame (lcfg s e i) r
  exact ⟨(congrArg LoopSt.u hframe).trans (hu.trans hout), (congrArg LoopSt.tracking hframe).trans htracking⟩

end Taken

/-! ### The ends of an occurrence's sample, in terms of the state before it -/

/-- What every sample of loop i of engine e leaves: its output point, the counts, HIF, and the LOOP_MODE taken. -/
structure Sampled (e i : Nat) (mode : BitVec 2) (v : F64) (q : BitVec 3) (unusable infinite : Bool) (s t : State) : Prop where
  inMode : (lstGet t e i).mode = mode
  req : (lstGet t e i).req = none
  value : (workPt t (lcfg s e i).opt).value = v
  qual : (workPt t (lcfg s e i).opt).qual = q
  cnt0 : cntOf t bLOOP 0 = if unusable then satInc (cntOf s bLOOP 0) else cntOf s bLOOP 0
  cnt1 : cntOf t bLOOP 1 = if (loopInputs s e (lcfg s e i) (lstGet s e i)).bad then satInc (cntOf s bLOOP 1) else cntOf s bLOOP 1
  cnt3 : cntOf t bLOOP 3 = if infinite then satInc (cntOf s bLOOP 3) else cntOf s bLOOP 3
  hif : t.hif = (takeMode e i s).hif

/-- A loop's state `n` after a hold sample (R234); `x` is its state before. -/
structure Held (x n : LoopSt) : Prop where
  hold : n.hold = true
  i : n.i = x.i
  d : n.d = x.d
  xprev : n.xprev = x.xprev
  feCnt : n.feCnt = x.feCnt
  u : n.u = x.u

section Ends

variable {e i : Nat} {mode : BitVec 2} {uman : F64} {s t : State} (hm : ModeTaken e i mode uman s (takeMode e i s))
include hm

theorem ModeTaken.sampled {v : LoopSt} {q : BitVec 3} {unusable infinite : Bool} (hmode : v.mode = mode) (hreq : v.req = none)
    (h : SampleEnds e i (takeMode e i s) v q unusable (loopInputs s e (lcfg s e i) (lstGet s e i)).bad infinite t) :
    Sampled e i mode v.u q unusable infinite s t := by
  obtain ⟨hvalue, hqual⟩ := SampleEnds.written hm h
  obtain ⟨hcnt0, hcnt1, hcnt3⟩ := SampleEnds.counts hm h
  exact {
    inMode := by rw [h.st, hmode]
    req := by rw [h.st, hreq]
    value := hvalue
    qual := hqual
    cnt0 := hcnt0
    cnt1 := hcnt1
    cnt3 := hcnt3
    hif := h.hif }

theorem ModeTaken.held {n : LoopIn} {q : BitVec 3} {unusable infinite : Bool}
    (h : SampleEnds e i (takeMode e i s) (holdState (takeMode e i s) { lcfg s e i with uman := uman } (modedSt (lstGet s e i) mode) n)
      q unusable (loopInputs s e (lcfg s e i) (lstGet s e i)).bad infinite t) :
    Sampled e i mode (lstGet s e i).u q unusable infinite s t ∧ Held (lstGet s e i) (lstGet t e i) := by
  have hu := holdState_u (takeMode e i s) { lcfg s e i with uman := uman } (modedSt (lstGet s e i) mode) n
  obtain ⟨hmode, hhold, hi, hd, hxprev, hfe, hreq⟩ :=
    holdState_keeps (takeMode e i s) { lcfg s e i with uman := uman } (modedSt (lstGet s e i) mode) n
  have hsampled := hm.sampled hmode hreq h
  rw [hu] at hsampled
  rw [h.st]
  exact ⟨hsampled, hhold, hi, hd, hxprev, hfe, hu⟩

end Ends

namespace OneDue

variable {e : Fin 4} {i : Nat} {s : State} (h : OneDue e.val i s) {mode : BitVec 2} {uman : F64}
  (hm : ModeTaken e i mode uman s (takeMode e i s))
include h hm

/-- A hold sample for an unusable measurement. -/
theorem gives_held {P : State → Prop} (hmode : mode ≠ 0) (hy : inPt s (lcfg s e i).mpt = none)
    (hP : ∀ t, Sampled e i mode (lstGet s e i).u qSUBST true false s t → Held (lstGet s e i) (lstGet t e i) → P t) :
    Gives (.loopOccurrence e) s P :=
  h.gives_unusable hm hmode hy fun v t hv hends => by
    subst hv
    obtain ⟨hsampled, hheld⟩ := hm.held hends
    exact hP t hsampled hheld

/-- The sample of a loop with a usable measurement whose inner loop leaves it free. -/
theorem gives_free {P : State → Prop} (hfree : FreeLoop e i s) (hmode : mode ≠ 0) {m : F64} (hy : inPt s (lcfg s e i).mpt = some m)
    (hheld : ∀ t, Sampled e i mode (lstGet s e i).u qSUBST false true s t → Held (lstGet s e i) (lstGet t e i) → P t)
    (hshown : ∀ t o, o = freeTerms (loopTs s (lcfg s e i)) (loopInputs s e (lcfg s e i) (lstGet s e i)).wt
        (loopInputs s e (lcfg s e i) (lstGet s e i)).ff (loopInputs s e (lcfg s e i) (lstGet s e i)).trk (lcfg s e i) (lstGet s e i) uman mode m →
      Sampled e i mode o.u qGOOD false false s t →
      Shows (lcfg s e i) (lstGet s e i) (loopInputs s e (lcfg s e i) (lstGet s e i)).ff m mode o (lstGet t e i) → P t) :
    Gives (.loopOccurrence e) s P := by
  refine h.gives_usable hm hmode hy (fun v t hv hends => ?_) fun r t hr hends => ?_
  · subst hv
    obtain ⟨hsampled, hheldSt⟩ := hm.held hends
    exact hheld t hsampled hheldSt
  · subst hr
    have hshows := hm.shows hfree m
    have hsampled := hm.sampled hshows.inMode hshows.req hends
    rw [hshows.u] at hsampled
    refine hshown t _ rfl hsampled ?_
    rw [hends.st]
    exact hshows

/-- The sample in AUTO of an outer loop whose inner loop is not in AUTO or on hold. -/
theorem gives_tracking {P : State → Prop} (hauto : mode = 2) (hkept : mode = (lstGet s e i).mode) {k : Nat} (hk : innerOf s e i = some k)
    (hst : (lstGet s e k).mode ≠ 2 ∨ (lstGet s e k).hold = true) (htrk : lSPTRK (lcfg s e k) = false) {m : F64}
    (hy : inPt s (lcfg s e i).mpt = some m)
    (hP : ∀ t, (lstGet t e i).u = (lstGet s e i).u → (lstGet t e i).hold = true ∨ ((lstGet t e i).tracking = true ∧
      (workPt t (lcfg s e i).opt).value = (lstGet s e i).u ∧ (workPt t (lcfg s e i).opt).qual = qGOOD) → P t) :
    Gives (.loopOccurrence e) s P := by
  have hmode : mode ≠ 0 := by
    rw [hauto]
    decide
  refine h.gives_usable hm hmode hy (fun v t hv hends => ?_) fun r t hr hends => ?_
  · subst hv
    obtain ⟨-, hheld⟩ := hm.held hends
    exact hP t hheld.u (.inl hheld.hold)
  · subst hr
    obtain ⟨hu, htracking⟩ := hm.tracks hauto hkept hk hst htrk (loopInputs s e (lcfg s e i) (lstGet s e i)) m
    obtain ⟨hvalue, hqual⟩ := SampleEnds.written hm hends
    rw [← hends.st] at hu htracking
    rw [← hends.st, hu] at hvalue
    exact hP t hu (.inr ⟨htracking, hvalue, hqual⟩)

end OneDue

/-! ### The mode that a due sample takes (R235, R239, R243) -/

section NextMode

variable {s : State} {c : LoopCfg} {x : LoopSt}

theorem nextMode_kept (hpt : c.modept = noPoint) (hreq : x.req = none) (hfe : x.feMan = false) :
    nextMode s c x = (x.mode, { c with uman := c.uman }) := by
  simp only [nextMode, hpt, hreq, hfe, ne_eq, not_true, if_false, Bool.false_eq_true]

theorem nextMode_feMan (hpt : c.modept = noPoint) (hreq : x.req = none) (hfe : x.feMan = true) :
    nextMode s c x = (1, { c with uman := x.u }) := by
  simp only [nextMode, hpt, hreq, hfe, ne_eq, not_true, if_false, if_true]

theorem autoToMan_eq (m : BitVec 2) : (if x.mode = 2 ∧ m = 1 then { c with uman := x.u } else c) =
    { c with uman := if x.mode = 2 ∧ m = 1 then x.u else c.uman } := by
  split_ifs <;> rfl

theorem nextMode_point (hpt : c.modept ≠ noPoint) (husable : usableQ (frozenPt s c.modept) = true)
    (htyp : (frozenPt s c.modept).typ = 2) {m : BitVec 2} (hm : (frozenPt s c.modept).value.toNat % 2 ^ 32 = m.toNat) :
    nextMode s c x = (m, { c with uman := if x.mode = 2 ∧ m = 1 then x.u else c.uman }) := by
  have hlt : m.toNat < 4 := m.isLt
  have hv : sint 32 (frozenPt s c.modept).value.toNat = (m.toNat : Int) := by
    rw [sint, hm, if_pos (Nat.lt_trans hlt (by decide))]
  have hword : BitVec.ofInt 2 (m.toNat : Int) = m := by simp
  have hle : ((m.toNat : Int) ≤ 3) := by omega
  simp only [nextMode, if_pos hpt, husable, htyp, hv, hword, autoToMan_eq, beq_self_eq_true, Int.natCast_nonneg, hle, decide_true,
    Bool.and_self, if_true]

/-- The UMAN of a LOOP_MODE: its own, or the output where the loop goes from AUTO to MAN, or the one before. -/
def requestedUman (c : LoopCfg) (x : LoopSt) (d : HostDesc) : F64 :=
  if (d8 d 19).testBit 0 = true then BitVec.ofNat 64 (d64 d 24)
  else if x.mode = 2 ∧ BitVec.ofNat 2 (d8 d 18) = 1 then x.u else c.uman

theorem nextMode_request (hpt : c.modept = noPoint) {d : HostDesc} (hreq : x.req = some d) :
    nextMode s c x = (BitVec.ofNat 2 (d8 d 18), { c with uman := requestedUman c x d }) := by
  simp only [nextMode, if_neg (not_not_intro hpt), hreq, autoToMan_eq, bit, requestedUman]
  cases (d8 d 19).testBit 0 <;> rfl

/-- A waiting LOOP_MODE completes OK with the MFN (R243). -/
theorem takeMode_answers {e i : Nat} {s : State} {d : HostDesc} (hreq : (lstGet s e i).req = some d)
    (hd : d ∈ (ringGet s d.ring).started) : Answered d stOK s.sched.mfn.toNat (takeMode e i s) := by
  let n := nextMode s (lcfg s e i) (lstGet s e i)
  let u := lstPut (putCfg s e i n.2) e i (modedSt (lstGet s e i) n.1)
  have heq : takeMode e i s = finLoop d stOK s.sched.mfn.toNat u := by
    simp only [takeMode, hreq]
    rfl
  have hstarted : d ∈ (ringGet u d.ring).started := hd
  rw [heq]
  exact (finLoop_done hstarted _).1

end NextMode

/-! ### LOOP_MODE at its arrival (R243) -/

theorem started_entered {d o : HostDesc} {s : State} (ho : o ∈ (ringGet s o.ring).started) :
    o ∈ (ringGet (entered d s) o.ring).started := by
  by_cases hring : (o.ring : Nat) = d.ring
  · rw [hring] at ho ⊢
    rw [entered_started]
    exact List.mem_append_left _ ho
  · rwa [ringGet, entered_hif, ← ringGet, ringGet_ringPut_ne _ _ hring]

/-- A LOOP_MODE that arrives waits for the loop's next due sample, and an earlier one completes DROPPED. -/
theorem loopMode_arrives {d : HostDesc} {s : State} (hreach : Reaches 0x38 d s) (hmode : d8 d 18 ≤ 3) (hg : d16 d 16 < 512)
    (hloop : d16 d 16 % 128 < nloop s (d16 d 16 / 128)) (hpt : (lcfg s (d16 d 16 / 128) (d16 d 16 % 128)).modept = noPoint) :
    let x := lstGet s (d16 d 16 / 128) (d16 d 16 % 128)
    Gives (.loopMode d) s (fun t => lstGet t (d16 d 16 / 128) (d16 d 16 % 128) = { x with req := some d } ∧
      (∀ f j, ¬(f = d16 d 16 / 128 ∧ j = d16 d 16 % 128) → lstGet t f j = lstGet s f j) ∧
      (x.req = none → t.hif.waiting = s.hif.waiting) ∧
      ∀ o, x.req = some o → o ∈ (ringGet s o.ring).started → Answered o stDROPPED 0 t) := by
  intro x
  have hloops : (entered d s).loops = s.loops := (congrArg State.loops (entered_frame d s) :)
  have hwaiting : (entered d s).hif.waiting = s.hif.waiting := by rw [entered_hif]; rfl
  have hloop' : d16 d 16 % 128 < nloop (entered d s) (d16 d 16 / 128) := by rwa [nloop, lpGet_congr hloops]
  obtain ⟨hreq, hothers, hnone, hdropped⟩ :=
    loopMode_waits hmode hg hloop' (by rw [lcfg_congr hloops]; exact hpt)
  simp only [lstGet_congr hloops] at hreq hothers hnone hdropped
  exact ⟨_, congrArg Host.Outcome.next (arrive_reaches effLoopMode hreach), hreq, hothers, fun h => (hnone h).trans hwaiting,
    fun o ho hstarted => hdropped o ho (started_entered hstarted)⟩

/-! ### The obligation -/

/-- Settles O41: an occurrence keeps what is not of its due loops (`execLoopOccurrence_within`); the one due loop takes the mode of
`nextMode`, and its sample is that of `OneDue.gives_free`, `gives_held` and `gives_tracking`; the descriptors are those of the
lemmas about LOOP_MODE, LOOP_PARAM, LOOP_TRACE and LOOP_READ. -/
theorem loopsSampleWhenDue : Obligations.LoopsSampleWhenDue := by
  unfold Obligations.LoopsSampleWhenDue
  refine ⟨fun e s => ⟨fun hidle => ⟨s, execLoopOccurrence_idle hidle, rfl⟩, ?_⟩, ?_, fun d s => ⟨fun hreach => ?_, fun hreach => ?_,
    fun hreach => ?_, fun hreach => ?_⟩⟩
  · obtain ⟨t, hexec, hloops, hfrozen, hpoints⟩ := execLoopOccurrence_within e s
    refine ⟨t, hexec, fun j hj => hloops e j fun hdue => ?_, fun f j hf => hloops f j fun h => hf h.1, hfrozen, hpoints⟩
    exact Bool.false_ne_true (hj.symm.trans hdue.2.2)
  · intro e i s c x y hslot hruns hen hf hi hdue halone hparams hpts hout hbound htyp howner hqual hspan written ts wt0 ff trk bad
      pid held sampled free
    have h : OneDue e.val i s := ⟨hslot, hruns, hen, hi, hdue, halone, hparams, hpts, hf, hout, hbound, htyp, howner, hqual, hspan⟩
    have hsampled : ∀ {mode uman} {ends : State → Prop}, nextMode s c x = (mode, { c with uman := uman }) → free →
        (∀ t, t.hif = (takeMode e i s).hif → (y t).req = none → ends t) → sampled mode uman ends := by
      intro mode uman ends hnext hfree hends
      have hm := modeTaken_takeMode hi hnext
      refine ⟨fun hoff => ?_, fun m hmode hy => ?_, fun hmode hy => ?_⟩
      · exact h.gives_off hm hoff fun t hpimg hcnt hhif hst => ⟨hpimg, hcnt, (congrArg LoopSt.mode hst).trans hoff,
          (congrArg LoopSt.i hst :), (congrArg LoopSt.d hst :), (congrArg LoopSt.u hst :), hends t hhif (congrArg LoopSt.req hst)⟩
      · refine h.gives_free hm hfree hmode hy (fun t hs hh => ?_) fun t o ho hs hn => ?_
        · exact ⟨⟨hs.inMode, hs.cnt1.trans (if_congr (loopInputs_bad ..) rfl rfl), hs.cnt0,
            .inl ⟨hh.hold, hh.i, hh.d, ⟨hs.value, hs.qual⟩, hs.cnt3⟩⟩, hends t hs.hif hs.req⟩
        · rw [loopInputs_wt, loopInputs_ff, loopInputs_trk] at ho
          rw [loopInputs_ff] at hn
          subst ho
          exact ⟨⟨hs.inMode, hs.cnt1.trans (if_congr (loopInputs_bad ..) rfl rfl), hs.cnt0,
            .inr ⟨hn.hold, hn.er, hn.p, hn.d, hn.xd, hn.u, hn.y, hn.w, hn.wt, hn.first, hn.i, ⟨hs.value, hs.qual⟩, hs.cnt3,
              hn.unsupervised, hn.changes, hn.counts⟩⟩, hends t hs.hif hs.req⟩
      · exact h.gives_held hm hmode hy fun t hs hh => ⟨⟨hs.inMode, hh.hold, hh.i, hh.d, hh.xprev, hh.feCnt, hh.u,
          ⟨hs.value, hs.qual⟩, hs.cnt0, hs.cnt1.trans (if_congr (loopInputs_bad ..) rfl rfl)⟩, hends t hs.hif hs.req⟩
    have hquiet : ∀ t : State, t.hif = (takeMode e i s).hif → (y t).req = none → True := fun _ _ _ => trivial
    refine ⟨fun hfree hpt hreq hfe => hsampled (nextMode_kept hpt hreq hfe) hfree hquiet,
      fun hfree hpt hreq hfe => hsampled (nextMode_feMan hpt hreq hfe) hfree hquiet,
      fun hfree hpt _ husable htyp m hm => hsampled (nextMode_point hpt husable htyp hm) hfree hquiet,
      fun d hfree hpt hreq hd _ _ _ => hsampled (nextMode_request hpt hreq) hfree fun t hhif hnone => ⟨?_, hnone⟩,
      fun k m hk hst htrk hpt hreq hfe hauto hy => ?_⟩
    · have hanswered : Answered d stOK s.sched.mfn.toNat (takeMode e i s) := takeMode_answers hreq hd
      rw [Answered, hhif]
      exact hanswered
    · exact h.gives_tracking (modeTaken_takeMode hi (nextMode_kept hpt hreq hfe)) hauto rfl hk hst htrk hy fun t hu hend =>
        ⟨hu, hend⟩
  · refine ⟨fun hmode hg hloop hpt => ?_, fun hout => gives_arrive rfl hreach fun g c hd => loopMode_range hout hd,
      fun hmode hg hloop => gives_arrive rfl hreach fun g c hd => loopMode_notReady hmode hg hd hloop,
      fun hmode hg hloop hpt => gives_arrive rfl hreach fun g c hd => loopMode_locked hmode hg hloop hd hpt⟩
    obtain ⟨t, hexec, hreq, hothers, hnone, hdropped⟩ := loopMode_arrives hreach hmode hg hloop hpt
    exact ⟨t, hexec, hreq, hothers, hnone, fun o ho _ => hdropped o ho⟩
  · refine ⟨fun hbad => gives_arrive rfl hreach fun g c hd => loopParam_range hd hbad,
      fun hgood habsent => gives_arrive rfl hreach fun g c hd => loopParam_notReady hgood hd habsent,
      fun hgood hpresent hvalid => gives_arrive rfl hreach fun g c hd => ?_,
      fun k q hgood hpresent hq hbad hfirst => gives_arrive rfl hreach fun g c hd =>
        loopParam_invalid (s := withStarted g c s) hgood hpresent hd hq hbad hfirst,
      fun q => loopPairBad_alone⟩
    rw [loopParam_waits (s := withStarted g c s) hgood hpresent hvalid]
    exact ⟨rfl, rfl⟩
  · exact ⟨fun hout => gives_arrive rfl hreach fun g c hd => loopTrace_range hd hout,
      fun he hact hnone => gives_arrive rfl hreach fun g c hd => loopTrace_notReady he hd hact hnone,
      fun he hloops => ⟨fun hact => gives_arrive rfl hreach fun g c hd => loopTrace_disarms (s := withStarted g c s) he hloops hd hact,
        fun hact hst => gives_arrive rfl hreach fun g c hd =>
          loopTrace_triggersNone (s := withStarted g c s) he hloops hd hact hst,
        fun hact hst => gives_arrive rfl hreach fun g c hd => loopTrace_triggers (s := withStarted g c s) he hloops hd hact hst,
        fun hact hst => gives_arrive rfl hreach fun g c hd => loopTrace_busy he hloops hd hact hst,
        fun hact hst => ⟨fun hrange => gives_arrive rfl hreach fun g c hd => loopTrace_armRange he hloops hact hst hd hrange,
          fun hrange habsent => gives_arrive rfl hreach fun g c hd => loopTrace_armNotReady he hloops hact hst hd hrange habsent,
          fun hrange hpresent => gives_arrive rfl hreach fun g c hd =>
            loopTrace_arms (s := withStarted g c s) he hloops hact hst hd hrange hpresent⟩⟩⟩
  · exact ⟨fun hout => gives_arrive rfl hreach fun g c hd => loopRead_range hd hout,
      fun hwhat he hn hin => gives_arrive rfl hreach fun g c hd => loopRead_records (s := withStarted g c s) he hwhat hin hd hn,
      fun hwhat he hout => gives_arrive rfl hreach fun g c hd => loopRead_pastTable he hwhat hd hout,
      fun hwhat he hin hn => gives_arrive rfl hreach fun g c hd => loopRead_absent he hwhat hin hd hn,
      fun hwhat he hst => gives_arrive rfl hreach fun g c hd => loopRead_traceBusy he hwhat hd hst,
      fun hwhat he hst hn => gives_arrive rfl hreach fun g c hd => loopRead_traceRange he hwhat hst hd hn,
      fun hwhat he hst hn => gives_arrive rfl hreach fun g c hd =>
        loopRead_entries (s := withStarted g c s) he hwhat hst hd hn⟩

end Sys2Proof.Proofs
end

section
/-! PROOFS. The refutation about axes (R246 to R260): a concrete unit whose AXIS slot ends a SET_POS otherwise than the
statement says. -/

namespace Sys2Proof.Proofs

open Sys2Proof.Machine Sys2Proof.Laws

/-! ### SET_POS of an axis that moves (R256, R259) -/

/-- An axis that moves or is on its way keeps its position: SET_POS completes BUSY (R259). -/
theorem axCmd_setPos_busy {n : Nat} {s : State} {d : HostDesc} (hcmd : d8 d 17 = 2) (hbusy : axBusy s n = true) :
    axCmd n s d = finAxis d stBUSY 0 s := by
  unfold axCmd
  simp only [hcmd, hbusy, if_true]

/-- An axis whose profile has a velocity moves, also with VEL 0 and without a move of its own (R256). -/
theorem axBusy_of_profile {n : Nat} {s : State} (hprof : eqF (axGet s n).prof.v 0 = false) : axBusy s n = true := by
  unfold axBusy axMoving
  rw [hprof]
  rfl

/-- An AXIS_CMD of SET_POS for axis 0 and position 9. -/
def setPosDesc : HostDesc :=
  { ring := 0, sqidx := 0, bytes := 0x3C :: zeros 16 ++ [2] ++ zeros 6 ++ leBytes 8 9 ++ zeros 32, buf := [], readFail := false,
    signed := none, outerTag := 0 }

/-- An axis without a move, powered, with VEL 0 and a status in time, whose profile stands at the target with a velocity of 1. -/
def gliding : Axis := { pwr := true, got := some (7, 1), prof := { v := 0x3FF0000000000000 }, cmds := [setPosDesc] }

/-- A slot of AXIS from cycle 0 of every minor frame. -/
def axisSlotE : SlotE :=
  { start := 0, budget := 500, period := 1, phase := 0, task := 0, master := 14, flags := 0, res := 0, rsvd := 0 }

/-- A unit in the slot of AXIS with that axis alone, and the started SET_POS waiting for it. -/
def glidingUnit : State := { State.reset with
  blk := [(bAXIS, { en := true })]
  sched := { run := true, frameL := 1000000, image := some { slots := [axisSlotE] } }
  hif := { rings := [(0, { started := [setPosDesc] })] }
  axis := { cfg := [{ en := true, stallt := 9 }], ax := [(0, gliding)] } }

/-- The completions that wait after a step. -/
def waitingAfter : Host.Outcome State Fault Refusal → List Compl
  | .next t => t.hif.waiting
  | _ => []

theorem glidingUnit_waiting : waitingAfter (exec .axisSlot glidingUnit) = [entryFor setPosDesc stBUSY 0] := by decide +kernel

/-- Refutes O42: the statement's premises of rest, which are VEL 0, no move and the profile at the target, leave the
velocity of the profile open. By `axBusy_of_profile` and `axCmd_setPos_busy` an axis with such a velocity moves, and its SET_POS
completes BUSY, not OK. A move of an axis outside a group ends with a profile velocity of 0. -/
theorem not_axesStepAndFollowTheirTargets : ¬ Obligations.AxesStepAndFollowTheirTargets := by
  rintro ⟨-, hslot, -⟩
  obtain ⟨hvalid, -⟩ := hslot 0 7 glidingUnit (by decide) (by decide) (by decide) (by decide) (by decide) (by decide)
    (by decide) (fun _ => rfl) rfl rfl rfl rfl rfl rfl rfl rfl rfl (by decide)
  obtain ⟨-, -, -, hcmds⟩ := hvalid rfl
  obtain ⟨-, hset⟩ := hcmds setPosDesc rfl (by decide) (by decide +kernel) (by decide) rfl
  obtain ⟨t, hexec, ⟨c, hc, -, -, -, hstatus, -⟩, -⟩ := hset (by decide)
  have hwaiting : t.hif.waiting = [entryFor setPosDesc stBUSY 0] := by
    rw [← glidingUnit_waiting, hexec]
    rfl
  rw [hwaiting, List.mem_singleton] at hc
  subst hc
  exact absurd hstatus (by decide)

end Sys2Proof.Proofs
end

section
/-! PROOFS. The refutation about stations (R303 to R314): a session without a key, whose ACCEPT has no tag. -/

namespace Sys2Proof.Proofs

open Sys2Proof.Machine Sys2Proof.Laws

/-! ### A seal without a key (R303, R304) -/

/-- Without a key there are no round keys, and the cipher gives no bytes. -/
theorem aesEnc_keyless (blk : Bytes) : aesEnc [] blk = [] := by
  have hlast : (roundKeys []).getD ((roundKeys []).length - 1) [] = [] := by decide
  simp only [aesEnc, hlast, xorL, List.zip_nil_right]
  rfl

theorem cmac_keyless (m : Bytes) : cmac [] m = [] := aesEnc_keyless _

theorem sealTag_keyless (f : CanFrame) (ctx dir fv : Nat) : sealTag [] f ctx dir fv = [] := by
  rw [sealTag, cmac_keyless, List.take_nil]

/-- A join in station slot 9 of channel 2 whose ACCEPT waits. -/
def acceptedJoin : JoinRec := { slot := 9, ch := 2, uid := 77, cls := 9, ns := 5, nd := 6, prev := 1, ends := 11 }

/-- A slot of CANL from cycle 0 of every minor frame that claims the SEAL engine. -/
def sealingSlotE : SlotE :=
  { start := 0, budget := 500, period := 1, phase := 0, task := 0, master := 18, flags := 0, res := 1, rsvd := 0 }

/-- A unit in that slot, with the ACCEPT waiting and a seal session of the station that holds no key. -/
def keylessUnit : State := { State.reset with
  blk := [(bCANL, { en := true })]
  sched := { run := true, frameL := 1000000, image := some { slots := [sealingSlotE] } }
  canl := { cfg := [(2, { en := true })], accepts := [acceptedJoin] }
  sec := { sess := [(9, { kind := 1, st := 1 })] } }

/-- Refutes O46: the statement gives ACCEPT 32 bytes of data, the last 4 of them the tag of its session's key, and asks
nothing of the key. By `sealTag_keyless` a session without a key gives a tag of no bytes. Sessions that a join makes
have keys of 16 bytes (Table 14-2). -/
theorem not_stationsExchangeJoinAndLeave : ¬ Obligations.StationsExchangeJoinAndLeave := by
  rintro ⟨htransmit, -⟩
  obtain ⟨hsends, -⟩ := htransmit keylessUnit (by decide) (by decide)
  obtain ⟨t, -, -, -, -, -, -, haccept⟩ := hsends (by decide)
  obtain ⟨-, f, -, hlength, -, -, -, htag⟩ := haccept acceptedJoin rfl (by decide) (by decide) (.inl rfl) rfl rfl rfl
  have hbare : f.data.drop 28 = [] := htag.trans (sealTag_keyless f _ _ _)
  have hfour : (f.data.drop 28).length = 4 := by rw [List.length_drop, hlength]
  rw [hbare] at hfour
  exact absurd hfour (by decide)

end Sys2Proof.Proofs
end

section
/-! PROOFS. CAN channels and their transmit buffers (R298 to R301): what starts and ends a frame, and error confinement. -/

namespace Sys2Proof.Proofs

open Sys2Proof.Machine Sys2Proof.Laws

/-! ### Channels and transmit buffers by number -/

theorem chGet_chPut_ne (s : State) {n m : Nat} (v : CanChan) (h : m ≠ n) : chGet (chPut s n v) m = chGet s m :=
  tblGet_tblPut_ne _ _ _ h

theorem chGet_congr {s t : State} (h : t.canl = s.canl) (n : Nat) : chGet t n = chGet s n := by
  rw [chGet, chGet, h]

theorem txGet_txPut (c : CanChan) (b k : Nat) (v : TxBuf) : txGet (txPut c b v) k = if k = b then v else txGet c k := by
  split_ifs with h
  · rw [h]
    exact tblGet_tblPut_same ..
  · exact tblGet_tblPut_ne _ _ _ h

theorem bufGet_chPut (s : State) (n k : Nat) (c : CanChan) : bufGet (chPut s n c) n k = txGet c k := by
  rw [bufGet, chGet_chPut]

theorem bufGet_bufPut (s : State) (n b k : Nat) (v : TxBuf) :
    bufGet (bufPut s n b v) n k = if k = b then v else bufGet s n k := by
  rw [bufPut, bufGet_chPut, txGet_txPut, bufGet]

/-! ### The start and the end of a frame (R301, R302) -/

/-- The frame that goes out at a start of frame: in the reference buffer, the reference message of now (R302). -/
def frameSent (s : State) (n b : Nat) (f : CanFrame) : CanFrame :=
  let f0 := if isRef s n b then refFrame (canCfg s n) (chGet s n) (refMark s (canCfg s n)) else f
  { f0 with esi := f0.fdf && (chGet s n).errst == 1 }

/-- A buffer whose frame has started. -/
def frameStarted (s : State) (n b : Nat) (ts : W32) (f : CanFrame) : TxBuf :=
  { bufGet s n b with st := 2, ts := ts, frame := some (frameSent s n b f) }

theorem gives_startOfFrame {n : Fin 40} {b : Fin 64} {ts : W32} {f : CanFrame} {s : State} {P : State → Prop}
    (hframe : (bufGet s n b).frame = some f) (hst : (bufGet s n b).st = 1) (hsends : chanSends s n = true)
    (herr : (chGet s n).errst = 0 ∨ (chGet s n).errst = 1)
    (h : P (emit (.can n b (frameSent s n b f)) (bufPut s n b (frameStarted s n b ts f)))) : Gives (.startOfFrame n b ts) s P := by
  refine ⟨_, ?_, h⟩
  have hframe' : (txGet (chGet s n) b).frame = some f := hframe
  show execStartOfFrame n b ts s = _
  simp only [execStartOfFrame, hframe']
  rw [if_pos ⟨hst, hsends, herr⟩]
  rfl

theorem frameSent_message {s : State} {n b : Nat} (f : CanFrame) (h : isRef s n b = false) :
    frameSent s n b f = { f with esi := f.fdf && (chGet s n).errst == 1 } := by
  rw [frameSent, h]
  rfl

theorem frameSent_reference {s : State} {n b : Nat} (f : CanFrame) (h : isRef s n b = true) :
    let g := frameSent s n b f
    (g.id, g.ide) = identOf (canCfg s n).refid ∧ g.fdf = false ∧ g.rtr = false := by
  rw [frameSent, h]
  exact ⟨rfl, rfl, rfl⟩

theorem gives_canFrameEnd_completed {n : Fin 40} {b : Fin 64} {s : State} {P : State → Prop} (hst : (bufGet s n b).st = 2)
    (h : P (chPut s n (txPut (txSuccess (isRef s n b) (chGet s n)) b (bufEnd (bufGet s n b) 3)))) :
    Gives (.canFrameEnd n b .completed) s P := by
  refine ⟨_, ?_, h⟩
  exact congrArg _ (if_neg (not_not_intro hst))

/-- A frame that lost the bus or was disturbed stays pending, or ends by its late cancellation. -/
theorem gives_canFrameEnd_unsent {n : Fin 40} {b : Fin 64} {how : CanEnd} {s : State} {P : State → Prop} (hst : (bufGet s n b).st = 2)
    (hhow : how ≠ .completed)
    (h : P (bufPut s n b (if (bufGet s n b).late then bufEnd (bufGet s n b) 4 else { bufGet s n b with st := 1 }))) :
    Gives (.canFrameEnd n b how) s P := by
  refine ⟨_, ?_, h⟩
  refine congrArg _ ((if_neg (not_not_intro hst)).trans ?_)
  cases how with
  | completed => exact absurd rfl hhow
  | _ => exact (apply_ite (bufPut s n b) _ _ _).symm

theorem bufEnd_marks (x : TxBuf) (st : BitVec 3) : (bufEnd x st).late = false ∧ (bufEnd x st).clate = x.clate := by
  unfold bufEnd
  cases x.reload <;> exact ⟨rfl, rfl⟩

theorem bufEnd_ends {x : TxBuf} (h : x.reload = none) (st : BitVec 3) :
    (bufEnd x st).st = (if x.dropped = true then 5 else st) ∧ (bufEnd x st).frame = none := by
  simp only [bufEnd, h, and_self]

theorem bufEnd_reloads {x : TxBuf} {f : CanFrame} (h : x.reload = some f) (st : BitVec 3) :
    (bufEnd x st).st = 1 ∧ (bufEnd x st).frame = some f ∧ (bufEnd x st).reload = none := by
  simp only [bufEnd, h, and_self]

/-- The clause of O45 on START_OF_FRAME. -/
theorem startOfFrame_sends (n : Fin 40) (b : Fin 64) (ts : W32) (f : CanFrame) (s : State)
    (hframe : (bufGet s n b).frame = some f) (hst : (bufGet s n b).st = 1) (hsends : chanSends s n = true)
    (herr : (chGet s n).errst = 0 ∨ (chGet s n).errst = 1) :
    Gives (.startOfFrame n b ts) s (fun t => ∃ g, t.out = .can n b g :: s.out ∧
      (isRef s n b = false → g = { f with esi := f.fdf && (chGet s n).errst == 1 }) ∧
      (isRef s n b = true → (g.id, g.ide) = identOf (canCfg s n).refid ∧ g.fdf = false ∧ g.rtr = false) ∧
      bufGet t n b = { bufGet s n b with st := 2, ts := ts, frame := some g } ∧
      (∀ k, k ≠ b.val → bufGet t n k = bufGet s n k) ∧ (∀ m, m ≠ n.val → chGet t m = chGet s m) ∧
      { t with out := s.out, canl := s.canl } = s) :=
  gives_startOfFrame hframe hst hsends herr ⟨frameSent s n b f, rfl, frameSent_message f, frameSent_reference f,
    (bufGet_bufPut ..).trans (if_pos rfl), fun _ hk => (bufGet_bufPut ..).trans (if_neg hk), fun _ hm => chGet_chPut_ne s _ hm, rfl⟩

/-- The clause of O45 on CAN_FRAME_END. -/
theorem canFrameEnd_ends (n : Fin 40) (b : Fin 64) (how : CanEnd) (s : State) : let x := bufGet s n b
    x.st = 2 → Gives (.canFrameEnd n b how) s (fun t => let y := bufGet t n b
      (how = .completed → (chGet t n).tec = (if (chGet s n).tec = 0 then 0 else (chGet s n).tec - 1) ∧
        (chGet t n).cycle = (if isRef s n b = true then (chGet s n).cycle + 1 else (chGet s n).cycle) ∧ y.late = false ∧ y.clate = x.clate ∧
        (x.reload = none → y.st = (if x.dropped = true then 5 else 3) ∧ y.frame = none) ∧ ∀ f, x.reload = some f → y.st = 1 ∧ y.frame = some f ∧ y.reload = none) ∧
      (how ≠ .completed → (chGet t n).tec = (chGet s n).tec ∧ (chGet t n).cycle = (chGet s n).cycle ∧
        (x.late = false → y = { x with st := 1 }) ∧
        (x.late = true → y.late = false ∧ y.clate = x.clate ∧ (x.reload = none → y.st = (if x.dropped = true then 5 else 4) ∧ y.frame = none) ∧
          ∀ f, x.reload = some f → y.st = 1 ∧ y.frame = some f ∧ y.reload = none)) ∧
      (∀ k, k ≠ b.val → bufGet t n k = bufGet s n k) ∧ { t with canl := s.canl } = s) := by
  intro x hst
  have hbuf : ∀ (c : CanChan) (v : TxBuf), bufGet (chPut s n (txPut c b v)) n b = v := fun c v => by
    rw [bufGet_chPut, txGet_txPut, if_pos rfl]
  by_cases hhow : how = .completed
  · subst hhow
    refine gives_canFrameEnd_completed hst ⟨fun _ => ?_, fun h => absurd rfl h, fun k hk => ?_, rfl⟩
    · rw [hbuf, chGet_chPut]
      exact ⟨rfl, rfl, (bufEnd_marks x 3).1, (bufEnd_marks x 3).2, fun h => bufEnd_ends h 3, fun f h => bufEnd_reloads h 3⟩
    · rw [bufGet_chPut, txGet_txPut, if_neg hk]
      rfl
  · refine gives_canFrameEnd_unsent hst hhow ⟨fun h => absurd h hhow, fun _ => ?_,
      fun k hk => (bufGet_bufPut ..).trans (if_neg hk), rfl⟩
    rw [bufPut, hbuf, chGet_chPut]
    refine ⟨rfl, rfl, fun hlate => if_neg (hlate ▸ Bool.false_ne_true), fun hlate => ?_⟩
    rw [if_pos hlate]
    exact ⟨(bufEnd_marks x 4).1, (bufEnd_marks x 4).2, fun h => bufEnd_ends h 4, fun f h => bufEnd_reloads h 4⟩

/-! ### Error confinement (R298, R299) -/

section Confinement

variable (n : Nat) (e : CanFault) (tx : Bool) (s : State)

/-- The channel with the kind of the error in LASTERR; a dominant bit after a flag is no new error. -/
def withLastErr : CanChan :=
  { chGet s n with lasterr := if e.place != .afterFlag then canErrCode e.kind else (chGet s n).lasterr }

/-- The error raises TEC (R298, R299). -/
def RaisesTec : Prop := tx = true ∧ (canCfg s n).monitor = false ∧ drives s = true ∧
  ¬(e.place = .frame ∧ e.kind = .ack ∧ (chGet s n).errst = 1) ∧ ¬(e.place = .arbitration ∧ e.kind = .stuff)

/-- The channel with its error counters raised. -/
def withErrors : CanChan :=
  let c := withLastErr n e s
  if tx then
    (if (canCfg s n).monitor || !drives s then c else { c with tec := c.tec + tecRise e.kind e.place c })
  else { c with recc := BitVec.ofNat 8 (min 255 (c.recc.toNat + recRise e.place)) }

/-- The unit after the error has been counted. -/
def errorMet : State := countIf (e.place != .afterFlag) bCANL 0 (chPut s n (withLastErr n e s))

theorem withErrors_keeps : (withErrors n e tx s).lasterr = (withLastErr n e s).lasterr ∧ (withErrors n e tx s).tx = (chGet s n).tx := by
  unfold withErrors
  dsimp only
  split_ifs <;> exact ⟨rfl, rfl⟩

variable {n e tx s}

theorem tecRise_eq : tecRise e.kind e.place (withLastErr n e s) =
    if (e.place = .frame ∧ e.kind = .ack ∧ (chGet s n).errst = 1) ∨ (e.place = .arbitration ∧ e.kind = .stuff) then 0 else 8 := by
  unfold tecRise
  cases e.place <;> simp [withLastErr]

theorem withErrors_tec_raised (h : RaisesTec n e tx s) : (withErrors n e tx s).tec = (chGet s n).tec + 8 := by
  obtain ⟨htx, hmon, hdrives, hack, hstuff⟩ := h
  simp only [withErrors, htx, hmon, hdrives, tecRise_eq, hack, hstuff]
  rfl

theorem withErrors_tec_kept (h : ¬RaisesTec n e tx s) : (withErrors n e tx s).tec = (chGet s n).tec := by
  unfold withErrors
  dsimp only
  split_ifs with htx hpassive
  · rfl
  · have hrise : (e.place = .frame ∧ e.kind = .ack ∧ (chGet s n).errst = 1) ∨ (e.place = .arbitration ∧ e.kind = .stuff) := by
      by_contra hnone
      rw [Bool.or_eq_true, not_or, Bool.not_eq_true, Bool.not_eq_true, Bool.not_eq_false'] at hpassive
      exact h ⟨htx, hpassive.1, hpassive.2, not_or.mp hnone⟩
    rw [tecRise_eq, if_pos hrise]
    exact BitVec.add_zero _
  · rfl

theorem withErrors_recc_transmitter (h : tx = true) : (withErrors n e tx s).recc = (chGet s n).recc := by
  unfold withErrors
  rw [h, if_pos rfl]
  split_ifs <;> rfl

theorem withErrors_recc_receiver (h : tx = false) : (withErrors n e tx s).recc.toNat =
    min 255 ((chGet s n).recc.toNat + if e.place = .frame ∨ e.place = .arbitration then 1 else 8) := by
  have hrise : recRise e.place = if e.place = .frame ∨ e.place = .arbitration then 1 else 8 := by
    cases e.place <;> rfl
  unfold withErrors
  rw [h, if_neg Bool.false_ne_true, hrise, BitVec.toNat_ofNat, Nat.mod_eq_of_lt (by omega)]
  rfl

end Confinement

theorem gives_canBusError {n : Fin 40} {e : CanFault} {tx : Bool} {s : State} {P : State → Prop} (hworks : chanWorks s n = true)
    (herr : (chGet s n).errst = 0 ∨ (chGet s n).errst = 1)
    (h : let c := withErrors n e tx s
      P (if c.tec.toNat > 255 then busOff n c (errorMet n e s) else chPut (errorMet n e s) n { c with errst := errstOf c })) :
    Gives (.canBusError n e tx) s P := by
  refine ⟨_, ?_, h⟩
  have hin : ¬((withLastErr n e s).errst = 2 ∨ (withLastErr n e s).errst = 3) := by
    rcases herr with h | h <;> simp [withLastErr, h]
  have hon : ¬((!chanWorks s n) = true) := by simp [hworks]
  exact congrArg _ ((if_neg hon).trans (if_neg hin))

/-- A channel that enters bus-off: its error state, CNT[1], the record in Lantern and the interrupt. -/
theorem busOff_spec (n : Nat) (c : CanChan) (s : State) : let t := busOff n c s
    chGet t n = { c with errst := if (canCfg s n).autorec then 3 else 2 } ∧
    (∀ k, cntOf t bCANL k = if k = 1 then satInc (cntOf s bCANL k) else cntOf s bCANL k) ∧
    InLantern 0x0A01 s t ∧ (srcGet t 200).pend = true := by
  refine ⟨?_, fun k => ?_, ?_, ?_⟩
  · rw [busOff, chGet_congr ((irqEdge_canl ..).trans ((lantern_canl ..).trans (count_canl ..))), chGet_chPut]
  · rw [busOff, cntOf_congr (irqEdge_blk ..), lantern_cntOf (by decide), counted_count]
    by_cases hk : k = 1
    · subst hk
      rfl
    · rw [if_neg (fun h => hk h.2), if_neg hk]
      rfl
  · exact inLantern_lantern (u := count bCANL 1 (chPut s n _)) rfl rfl
  · exact congrArg IrqSrc.pend (srcGet_srcPut _ 200 _)

theorem cntOf_errorMet (n : Nat) (e : CanFault) (s : State) (k : Nat) :
    cntOf (errorMet n e s) bCANL k = if k = 0 ∧ e.place ≠ .afterFlag then satInc (cntOf s bCANL k) else cntOf s bCANL k := by
  rw [errorMet, cntOf_countIf, cntOf_congr (chPut_blk ..), cntOf_congr (chPut_blk ..)]
  by_cases hk : k = 0
  · subst hk
    simp only [bne_iff_ne, and_true, true_and]
  · simp only [hk, and_false, false_and, if_false]

/-- The clause of O45 on CAN_BUS_ERROR. -/
theorem canBusError_confines (n : Fin 40) (e : CanFault) (tx : Bool) (s : State) : let c := chGet s n
    let own := tx = true ∧ (canCfg s n).monitor = false ∧ drives s = true ∧ ¬(e.place = .frame ∧ e.kind = .ack ∧ c.errst = 1) ∧
      ¬(e.place = .arbitration ∧ e.kind = .stuff)
    let off := own ∧ 255 < c.tec.toNat + 8
    let met := e.place ≠ .afterFlag
    chanWorks s n = true → c.errst = 0 ∨ c.errst = 1 → c.tec.toNat ≤ 255 → Gives (.canBusError n e tx) s (fun t => let d := chGet t n
      (met → d.lasterr = canErrCode e.kind) ∧ (¬met → d.lasterr = c.lasterr) ∧ d.tx = c.tx ∧ (∀ k, cntOf t bCANL k =
        if (k = 0 ∧ met) ∨ (k = 1 ∧ off) then satInc (cntOf s bCANL k) else cntOf s bCANL k) ∧
      (own → d.tec.toNat = c.tec.toNat + 8) ∧ (¬own → d.tec = c.tec) ∧
      (tx = false → d.recc.toNat = min 255 (c.recc.toNat + if e.place = .frame ∨ e.place = .arbitration then 1 else 8)) ∧
      (tx = true → d.recc = c.recc) ∧
      (off → d.errst = (if (canCfg s n).autorec = true then 3 else 2) ∧ InLantern 0x0A01 s t ∧ (srcGet t 200).pend = true) ∧
      (¬off → d.errst = (if 127 < d.tec.toNat ∨ 127 < d.recc.toNat then 1 else 0))) := by
  intro c own off met hworks herr htec
  obtain ⟨hlast, htx⟩ := withErrors_keeps n e tx s
  have hmet : met → (withErrors n e tx s).lasterr = canErrCode e.kind := fun h => by
    rw [hlast, withLastErr, if_pos (bne_iff_ne.mpr h)]
  have hunmet : ¬met → (withErrors n e tx s).lasterr = c.lasterr := fun h => by
    rw [hlast, withLastErr, if_neg (fun hb => h (bne_iff_ne.mp hb))]
  have hraised : own → (withErrors n e tx s).tec.toNat = c.tec.toNat + 8 := fun h => by
    rw [withErrors_tec_raised h, BitVec.toNat_add]
    exact Nat.mod_eq_of_lt (by show c.tec.toNat + 8 < 512; omega)
  have hkept : ¬own → (withErrors n e tx s).tec = c.tec := withErrors_tec_kept
  have hoff : off ↔ (withErrors n e tx s).tec.toNat > 255 := by
    by_cases hown : own
    · rw [hraised hown]
      exact and_iff_right hown
    · rw [hkept hown]
      exact iff_of_false (fun h => hown h.1) (by omega)
  apply gives_canBusError hworks herr
  by_cases h255 : (withErrors n e tx s).tec.toNat > 255
  · have ho := hoff.mpr h255
    obtain ⟨hchan, hcnt, hlantern, hpend⟩ := busOff_spec n (withErrors n e tx s) (errorMet n e s)
    have hcfg : canCfg (errorMet n e s) n = canCfg s n := by
      rw [canCfg, canCfg, errorMet, countIf_canl]
      rfl
    have hrecs : (errorMet n e s).recs = s.recs := by rw [errorMet, countIf_recs]; rfl
    rw [hcfg] at hchan
    dsimp only
    rw [if_pos h255, hchan]
    refine ⟨hmet, hunmet, htx, fun k => ?_, hraised, hkept, withErrors_recc_receiver, withErrors_recc_transmitter,
      fun _ => ⟨rfl, ?_, hpend⟩, fun h => absurd ho h⟩
    · rw [hcnt, cntOf_errorMet]
      by_cases hk : k = 1
      · subst hk
        simp [ho]
      · simp only [hk, false_and, or_false, if_false]
        rfl
    · rwa [InLantern, hrecs] at hlantern
  · have ho : ¬off := fun h => h255 (hoff.mp h)
    dsimp only
    rw [if_neg h255, chGet_chPut]
    refine ⟨hmet, hunmet, htx, fun k => ?_, hraised, hkept, withErrors_recc_receiver, withErrors_recc_transmitter,
      fun h => absurd h ho, fun _ => rfl⟩
    rw [cntOf_congr (chPut_blk ..), cntOf_errorMet]
    simp only [ho, and_false, or_false]
    rfl

/-- The clause of O45 on BUS_OFF_RECOVERY. -/
theorem busOffRecovery_recovers (n : Fin 40) (s : State) :
    ((chGet s n).errst = 3 → Gives (.busOffRecovery n) s (fun t => chGet t n = { chGet s n with tec := 0, recc := 0, errst := 0 } ∧
      { t with canl := s.canl } = s)) ∧
    ((chGet s n).errst ≠ 3 → Gives (.busOffRecovery n) s (fun t => t = s)) :=
  ⟨fun h => ⟨chPut s n { chGet s n with tec := 0, recc := 0, errst := 0 }, congrArg _ (if_pos h), chGet_chPut .., rfl⟩,
    fun h => ⟨s, congrArg _ (if_neg h), rfl⟩⟩

end Sys2Proof.Proofs
end

section
/-! PROOFS. Reception of CAN frames (R294 to R296, R303 to R306): filters, buffers and the FIFO, and the check of a seal. -/

namespace Sys2Proof.Proofs

open Sys2Proof.Machine Sys2Proof.Laws

/-! ### The first filter that a frame matches (R294) -/

section FirstIdx

variable {α : Type} {p : α → Bool} {l : List α}

theorem firstIdx_eq_none (h : ∀ x ∈ l, p x = false) (k : Nat) : firstIdx p l k = none := by
  induction l generalizing k with
  | nil => rfl
  | cons a l ih =>
    rw [firstIdx, h a List.mem_cons_self, if_neg Bool.false_ne_true]
    exact ih (fun x hx => h x (List.mem_cons_of_mem _ hx)) (k + 1)

theorem firstIdx_eq_some {i : Nat} {x : α} (hx : l[i]? = some x) (hp : p x = true)
    (hfirst : ∀ j z, j < i → l[j]? = some z → p z = false) (k : Nat) : firstIdx p l k = some (k + i) := by
  induction l generalizing i k with
  | nil => exact nomatch hx
  | cons a l ih =>
    cases i with
    | zero =>
      obtain rfl : a = x := Option.some.inj hx
      rw [firstIdx, if_pos hp]
      rfl
    | succ i =>
      rw [firstIdx, hfirst 0 a (Nat.succ_pos i) rfl, if_neg Bool.false_ne_true,
        ih (i := i) hx fun j z hj hz => hfirst (j + 1) z (Nat.succ_lt_succ hj) hz]
      exact congrArg some (by omega)

end FirstIdx

/-- A frame matches a filter: its masked identifier, and its identifier's length. -/
def Hits (f : CanFrame) (y : CanFilt) : Prop :=
  (f.id ^^^ BitVec.ofNat 29 y.fid.toNat) &&& BitVec.ofNat 29 y.mask.toNat = 0 ∧ y.fid.getLsbD 31 = f.ide

section Filters

variable {g : CanCfg} {f : CanFrame}

theorem filterOf_none (h : ∀ y ∈ g.filters, ¬Hits f y) : filterOf g f = none :=
  firstIdx_eq_none (fun y hy => by simpa [Hits] using h y hy) 0

theorem filterOf_first {i : Nat} {y : CanFilt} (hy : g.filters[i]? = some y) (hhit : Hits f y)
    (hfirst : ∀ j z, j < i → g.filters[j]? = some z → ¬Hits f z) : filterOf g f = some i := by
  have h := firstIdx_eq_some (p := fun x : CanFilt =>
      (f.id ^^^ BitVec.ofNat 29 x.fid.toNat) &&& BitVec.ofNat 29 x.mask.toNat == 0 && x.fid.getLsbD 31 == f.ide) hy
    (by simpa [Hits] using hhit) (fun j z hj hz => by simpa [Hits] using hfirst j z hj hz) 0
  rw [Nat.zero_add] at h
  exact h

end Filters

/-! ### Buffers and the FIFO (R295, R296) -/

section Storing

variable {n : Nat} {x : RxItem} {s : State}

theorem storeFrame_buffer {target : Nat} (h : target < 64) : storeFrame n target x s =
    countIf (tblGet (chGet s n).rx target none).isSome bCANL 2
      (chPut s n { chGet s n with rx := tblPut (chGet s n).rx target (some x) none }) := if_pos h

theorem storeFrame_fifo (h : (chGet s n).fifo.length < 32) :
    storeFrame n 0xFFFE x s = chPut s n { chGet s n with fifo := (chGet s n).fifo ++ [x] } := if_pos h

theorem storeFrame_shadow (h : ¬(chGet s n).fifo.length < 32) (hshade : (chGet s n).latched.isSome = true ∧ (chGet s n).shadow = none) :
    storeFrame n 0xFFFE x s = chPut s n { chGet s n with shadow := some x } :=
  (if_neg h).trans (if_pos ⟨hshade.1, Option.isNone_iff_eq_none.mpr hshade.2⟩)

theorem storeFrame_overflow (h : ¬(chGet s n).fifo.length < 32) (hshade : ¬((chGet s n).latched.isSome = true ∧ (chGet s n).shadow = none)) :
    storeFrame n 0xFFFE x s = count bCANL 3 (chPut s n { chGet s n with fifoOvf := true }) :=
  (if_neg h).trans (if_neg fun hs => hshade ⟨hs.1, Option.isNone_iff_eq_none.mp hs.2⟩)

/-- Whatever its target, a frame changes its channel alone, and of the counters CNT[2] or CNT[3]; only it enters the FIFO. -/
theorem storeFrame_cases (target : Nat) : storeFrame n target x s = s ∨ ∃ c b j, j ≠ 4 ∧
    storeFrame n target x s = countIf b bCANL j (chPut s n c) ∧ ∀ y ∈ c.fifo, y ∈ (chGet s n).fifo ∨ y = x := by
  unfold storeFrame
  dsimp only
  split_ifs
  · exact .inr ⟨_, _, 2, by decide, rfl, fun y hy => .inl hy⟩
  · refine .inr ⟨_, false, 2, by decide, rfl, fun y hy => ?_⟩
    rwa [List.mem_append, List.mem_singleton] at hy
  · exact .inr ⟨_, false, 2, by decide, rfl, fun y hy => .inl hy⟩
  · exact .inr ⟨_, true, 3, by decide, rfl, fun y hy => .inl hy⟩
  · exact .inl rfl

end Storing

section Filtering

variable {n : Nat} {f : CanFrame} {ts : W32} {ok : Bool} {s : State}

theorem filterFrame_none (h : ∀ y ∈ (canCfg s n).filters, ¬Hits f y) : filterFrame n f ts ok s = s := by
  simp only [filterFrame, filterOf_none h]

theorem filterFrame_first {i : Nat} {y : CanFilt} (hy : (canCfg s n).filters[i]? = some y) (hhit : Hits f y)
    (hfirst : ∀ j z, j < i → (canCfg s n).filters[j]? = some z → ¬Hits f z) :
    filterFrame n f ts ok s = storeFrame n y.target.toNat { frame := f, ts := ts, sealOk := ok, filt := i, arr := s.time.tbc } s := by
  simp only [filterFrame, filterOf_first hy hhit hfirst, hy]
  rfl

/-- A filtered frame leaves the sessions and CNT[4]; only it enters the FIFO. -/
theorem filterFrame_keeps : let t := filterFrame n f ts ok s
    t.sec = s.sec ∧ cntOf t bCANL 4 = cntOf s bCANL 4 ∧
    ∀ y ∈ (chGet t n).fifo, y ∈ (chGet s n).fifo ∨ (y.frame = f ∧ y.sealOk = ok) := by
  intro t
  have hsame : ∀ {u : State}, u = s → u.sec = s.sec ∧ cntOf u bCANL 4 = cntOf s bCANL 4 ∧
      ∀ y ∈ (chGet u n).fifo, y ∈ (chGet s n).fifo ∨ (y.frame = f ∧ y.sealOk = ok) := fun h => by
    subst h
    exact ⟨rfl, rfl, fun y hy => .inl hy⟩
  cases hfilter : filterOf (canCfg s n) f with
  | none => exact hsame (by simp only [t, filterFrame, hfilter])
  | some i =>
    have ht : ∃ target, t = storeFrame n target { frame := f, ts := ts, sealOk := ok, filt := i, arr := s.time.tbc } s :=
      ⟨_, by simp only [t, filterFrame, hfilter]; rfl⟩
    obtain ⟨target, ht⟩ := ht
    rcases storeFrame_cases (n := n) (s := s)
      (x := { frame := f, ts := ts, sealOk := ok, filt := i, arr := s.time.tbc }) target with h | ⟨c, b, j, hj, h, hfifo⟩
    · exact hsame (ht.trans h)
    · rw [ht, h]
      refine ⟨countIf_sec .., ?_, fun y hy => ?_⟩
      · rw [cntOf_countIf, if_neg fun hk => hj hk.2.symm]
        rfl
      · rw [chGet_congr (countIf_canl ..), chGet_chPut] at hy
        refine (hfifo y hy).imp_right fun hx => ?_
        rw [hx]
        exact ⟨rfl, rfl⟩

end Filtering

/-! ### The check of a received seal (R305) -/

/-- The freshness candidate of a frame under a session. -/
def sealCandOf (e : Sess) (f : CanFrame) : Nat := sealCand e.fvRx.toNat (leNat (slice f.data (f.data.length - 7) 3))

/-- The seal of a frame is one of the session: its form, its freshness and its tag. -/
def SealFits (e : Sess) (k : Nat) (f : CanFrame) : Prop :=
  f.fdf = true ∧ 8 ≤ f.data.length ∧ sealCandOf e f ≤ e.fvRx.toNat + 2 ^ 23 ∧
    sealTag e.key2 f k 1 (sealCandOf e f) = f.data.drop (f.data.length - 4)

section Seal

variable {k : Nat} {f : CanFrame} {s : State}

theorem sealCheck_fits {e : Sess} (h : SealFits e k f) : sealCheck e k f = some (sealCandOf e f) := by
  obtain ⟨hfdf, hlen, hfresh, htag⟩ := h
  refine if_neg ?_
  rintro (hshort | hclassic | hold | hforged)
  · exact absurd hshort (by omega)
  · simp [hfdf] at hclassic
  · exact absurd hold (by unfold sealCandOf at hfresh; omega)
  · exact hforged htag

theorem sealCheck_fails {e : Sess} (h : ¬SealFits e k f) : sealCheck e k f = none := by
  refine if_pos ?_
  by_contra hnot
  rw [not_or, not_or, not_or] at hnot
  obtain ⟨hlong, hfd, hfresh, htag⟩ := hnot
  exact h ⟨by simpa using hfd, by omega, by unfold sealCandOf; omega, not_not.mp htag⟩

section Session

variable (hsnuffed : s.sec.snuffed = false) (hkind : (sessGet s k).kind = 1) (hst : (sessGet s k).st = 1)
include hsnuffed hkind hst

theorem sealRx_accepts (h : SealFits (sessGet s k) k f) : sealRx k f s = (true, sessPut s k { sessGet s k with
    fvRx := BitVec.ofNat 56 (sealCandOf (sessGet s k) f), uses := (sessGet s k).uses + 1 }) := by
  simp [sealRx, hsnuffed, hkind, hst, sealCheck_fits h]

theorem sealRx_rejects (h : ¬SealFits (sessGet s k) k f) : sealRx k f s =
    (false, count bCANL 4 (sessPut s k { sessGet s k with fails := satInc (sessGet s k).fails })) := by
  simp [sealRx, hsnuffed, hkind, hst, sealCheck_fails h]

end Session

end Seal

/-! ### CAN_FRAME_RECEIVE (R294, R306) -/

/-- A frame received without error moves REC and the error state alone (R298). -/
theorem recSuccess_eq (n : Nat) (s : State) : ∃ r e k,
    recSuccess n s = { chPut s n { chGet s n with recc := r, errst := e } with free := k } := by
  unfold recSuccess
  dsimp only
  split_ifs <;> exact ⟨_, _, _, rfl⟩

theorem recSuccess_frame (n : Nat) (s : State) : { recSuccess n s with canl := s.canl, free := s.free } = s := by
  obtain ⟨r, e, k, heq⟩ := recSuccess_eq n s
  rw [heq]
  rfl

/-- The received frames of the channel stay as they are until this one is filtered. -/
theorem recSuccess_queues (n : Nat) (s : State) : let c := chGet (recSuccess n s) n
    c.rx = (chGet s n).rx ∧ c.fifo = (chGet s n).fifo ∧ c.shadow = (chGet s n).shadow ∧ c.latched = (chGet s n).latched := by
  obtain ⟨r, e, k, heq⟩ := recSuccess_eq n s
  have hchan : chGet (recSuccess n s) n = { chGet s n with recc := r, errst := e } := by
    rw [heq]
    exact chGet_chPut s n _
  intro c
  rw [show c = _ from hchan]
  exact ⟨rfl, rfl, rfl, rfl⟩

theorem canCfg_recSuccess (n m : Nat) (s : State) : canCfg (recSuccess n s) m = canCfg s m := by
  obtain ⟨r, e, k, heq⟩ := recSuccess_eq n s
  rw [heq]
  rfl

theorem sealSlot_recSuccess (n m : Nat) (f : CanFrame) (s : State) : sealSlot (recSuccess n s) m f = sealSlot s m f := by
  obtain ⟨r, e, k, heq⟩ := recSuccess_eq n s
  rw [heq]
  rfl

theorem isJoin_recSuccess (n m : Nat) (f : CanFrame) (s : State) : isJoin (recSuccess n s) m f = isJoin s m f := by
  rw [isJoin, canCfg_recSuccess]
  rfl

section Receive

variable {n : Fin 40} {f : CanFrame} {ts : W32} {s : State} {P : State → Prop} (hon : chanOn s n = true)
  (herr : (chGet s n).errst = 0 ∨ (chGet s n).errst = 1) (hrtr : f.rtr = false) (hjoin : isJoin s n f = false)
include hon herr hrtr hjoin

theorem execCanFrameReceive_data : execCanFrameReceive n f ts s =
    let r := match sealSlot s n f with | some k => sealRx k f (recSuccess n s) | none => (true, recSuccess n s)
    .next (if !r.1 then r.2 else filterFrame n f ts (sealSlot s n f).isSome r.2) := by
  have hin : ¬((!chanOn s n) = true ∨ (chGet s n).errst = 2 ∨ (chGet s n).errst = 3) := by
    rcases herr with h | h <;> simp [hon, h]
  simp only [execCanFrameReceive, sealSlot_recSuccess, isJoin_recSuccess, hjoin, hrtr, if_neg hin, Bool.false_eq_true, if_false]
    <;> rfl

theorem gives_received_unsealed (hslot : sealSlot s n f = none) (h : P (filterFrame n f ts false (recSuccess n s))) :
    Gives (.canFrameReceive n f ts) s P := by
  refine ⟨_, ?_, h⟩
  refine (execCanFrameReceive_data hon herr hrtr hjoin).trans ?_
  simp only [hslot]
  rfl

section Sealed

variable {k : Nat} (hslot : sealSlot s n f = some k) (hsnuffed : s.sec.snuffed = false) (hkind : (sessGet s k).kind = 1)
  (hst : (sessGet s k).st = 1)
include hslot hsnuffed hkind hst

/-- A frame whose seal fits is filtered under the session with its new LAST. -/
theorem gives_received_accepted (hfits : SealFits (sessGet s k) k f)
    (h : P (filterFrame n f ts true (sessPut (recSuccess n s) k { sessGet s k with
      fvRx := BitVec.ofNat 56 (sealCandOf (sessGet s k) f), uses := (sessGet s k).uses + 1 }))) :
    Gives (.canFrameReceive n f ts) s P := by
  have hsec : (recSuccess n s).sec = s.sec := (congrArg State.sec (recSuccess_frame n s) :)
  have hsess : sessGet (recSuccess n s) k = sessGet s k := by rw [sessGet, hsec]; rfl
  refine ⟨_, ?_, h⟩
  refine (execCanFrameReceive_data hon herr hrtr hjoin).trans ?_
  have hrx := sealRx_accepts (s := recSuccess n s) (k := k) (f := f) (by rw [hsec]; exact hsnuffed) (by rw [hsess]; exact hkind)
    (by rw [hsess]; exact hst) (by rw [hsess]; exact hfits)
  rw [hsess] at hrx
  simp only [hslot, hrx]
  rfl

/-- A frame whose seal does not fit is dropped as a security failure. -/
theorem gives_received_rejected (hfits : ¬SealFits (sessGet s k) k f)
    (h : P (count bCANL 4 (sessPut (recSuccess n s) k { sessGet s k with fails := satInc (sessGet s k).fails }))) :
    Gives (.canFrameReceive n f ts) s P := by
  have hsec : (recSuccess n s).sec = s.sec := (congrArg State.sec (recSuccess_frame n s) :)
  have hsess : sessGet (recSuccess n s) k = sessGet s k := by rw [sessGet, hsec]; rfl
  refine ⟨_, ?_, h⟩
  refine (execCanFrameReceive_data hon herr hrtr hjoin).trans ?_
  have hrx := sealRx_rejects (s := recSuccess n s) (k := k) (f := f) (by rw [hsec]; exact hsnuffed) (by rw [hsess]; exact hkind)
    (by rw [hsess]; exact hst) (by rw [hsess]; exact hfits)
  rw [hsess] at hrx
  simp only [hslot, hrx]
  rfl

end Sealed

end Receive

end Sys2Proof.Proofs
end

section
/-! PROOFS. The registers of a CAN channel (Tables 10-11 to 10-13): TXREQ, TXCAN, FIFOPOP and the read of FIFOHD (R293, R296,
R301). -/

namespace Sys2Proof.Proofs

open Sys2Proof.Machine Sys2Proof.Laws

/-! ### The registers of a channel -/

/-- The offset of word `w` of CANL.CH[n], and of FIFOHD[n]. -/
def chanOff (n w : Nat) : Nat := 0x1000 + 0x20 * n + 4 * w
def fifohdOff (n : Nat) : Nat := 0x3000 + 0x60 * n

theorem chanOff_bounds {n w : Nat} (hn : n < 40) (hw : w < 6) : 0x1000 ≤ chanOff n w ∧ chanOff n w < 0x1500 := by
  unfold chanOff; omega

theorem chanOff_place {n w : Nat} (hw : w < 6) : (chanOff n w - 0x1000) / 0x20 = n ∧ chanOff n w % 0x20 = 4 * w := by
  unfold chanOff; omega

theorem regArr_inside {base stride n o : Nat} (h : base ≤ o ∧ o < base + stride * n) (f : Nat → List RegE) :
    regArr base stride n o f = (f ((o - base) / stride)).map fun e => { e with off := base + stride * ((o - base) / stride) + e.off } :=
  if_pos h

theorem regArr_outside {base stride n o : Nat} (h : ¬(base ≤ o ∧ o < base + stride * n)) (f : Nat → List RegE) :
    regArr base stride n o f = [] := if_neg h

/-- The first registers of CANL lie below the arrays of its channels. -/
theorem find?_canlRegs_above (s : State) {o : Nat} (ho : 0x1000 ≤ o) : (canlRegs s o).find?
      (fun e => decide (e.off ≤ o) && decide (o < e.off + 4 * e.words)) =
    (regArr 0x1000 0x20 40 o (fun n => (List.range 6).map fun w => r32 (4 * w) (chWord s n w).toNat) ++
      regArr 0x3000 0x60 40 o (fifohdRegs s) ++ regArr 0x8000 0x60 320 o (sbufRegs s)).find?
      (fun e => decide (e.off ≤ o) && decide (o < e.off + 4 * e.words)) := by
  have hst : ¬(0x400 ≤ o ∧ o < 0x400 + 4 * 128) := by omega
  unfold canlRegs
  rw [regArr_outside hst, List.append_nil, List.append_assoc, List.append_assoc, List.find?_append, List.find?_eq_none.mpr,
    Option.none_or, ← List.append_assoc]
  intro e he
  simp only [List.mem_cons, List.not_mem_nil, or_false] at he
  simp only [Bool.not_eq_true, Bool.and_eq_false_iff, decide_eq_false_iff_not]
  right
  rcases he with rfl | rfl | rfl | rfl <;> simp only [r32] <;> omega

theorem find?_canlRegs_chan (s : State) {n w : Nat} (hn : n < 40) (hw : w < 6) : (canlRegs s (chanOff n w)).find?
      (fun e => decide (e.off ≤ chanOff n w) && decide (chanOff n w < e.off + 4 * e.words)) =
    some (r32 (chanOff n w) (chWord s n w).toNat) := by
  obtain ⟨hlo, hhi⟩ := chanOff_bounds hn hw
  have hidx := (chanOff_place (n := n) hw).1
  have hin : 0x1000 ≤ chanOff n w ∧ chanOff n w < 0x1000 + 0x20 * 40 := ⟨hlo, hhi⟩
  have hchan : (((List.range 6).map fun i => r32 (4 * i) (chWord s n i).toNat).map fun e => { e with off := 0x1000 + 0x20 * n + e.off }).find?
      (fun e => decide (e.off ≤ chanOff n w) && decide (chanOff n w < e.off + 4 * e.words)) = some (r32 (chanOff n w) (chWord s n w).toNat) := by
    unfold chanOff
    interval_cases w <;> simp [List.range_succ, r32]
  rw [find?_canlRegs_above s hlo, regArr_inside hin, hidx, List.append_assoc, List.find?_append, hchan, Option.some_or]

theorem find?_canlRegs_fifohd (s : State) {n : Nat} (hn : n < 40) : ∃ v, (canlRegs s (fifohdOff n)).find?
      (fun e => decide (e.off ≤ fifohdOff n) && decide (fifohdOff n < e.off + 4 * e.words)) = some (r32 (fifohdOff n) v) := by
  have hch : ¬(0x1000 ≤ fifohdOff n ∧ fifohdOff n < 0x1000 + 0x20 * 40) := by unfold fifohdOff; omega
  have hin : 0x3000 ≤ fifohdOff n ∧ fifohdOff n < 0x3000 + 0x60 * 40 := by unfold fifohdOff; omega
  have hidx : (fifohdOff n - 0x3000) / 0x60 = n := by unfold fifohdOff; omega
  have hhead : ∃ v l, fifohdRegs s n = r32 0 v :: l := by
    unfold fifohdRegs frameRegs
    split <;> exact ⟨_, _, rfl⟩
  obtain ⟨v, l, hregs⟩ := hhead
  refine ⟨v, ?_⟩
  rw [find?_canlRegs_above s (by unfold fifohdOff; omega), regArr_outside hch, List.nil_append, regArr_inside hin, hidx, hregs,
    List.map_cons, List.cons_append, List.find?_cons_of_pos]
  · rfl
  · simp [r32, fifohdOff]

/-- With CANL powered, its own registers answer the masters that reach it. -/
theorem regOf_canl {s : State} {m : RegMaster} (hm : Reachable m s) (hoff : blkOff s bCANL = false) {o : Nat}
    (hlo : 0x140 ≤ o) (hhi : o < 65536) (h4 : o % 4 = 0) :
    regOf s m (regAddr bCANL o) =
      (canlRegs s o).find? fun e => decide (e.off ≤ o) && decide (o < e.off + 4 * e.words) := by
  have hreg : regOff s bCANL o = false := by
    rw [regOff, if_neg (fun h => absurd h.1 (by decide)), hoff]
  unfold regAddr
  rw [regOf_reachable (.inl hm) (by decide) hhi h4, regAt_own hlo hreg]
  rfl

/-- A word written to a register of a channel reaches CANL. -/
theorem busWrite_chan {m : RegMaster} {s : State} (hm : Reachable m s) (hoff : blkOff s bCANL = false) {n w : Nat} (hn : n < 40)
    (hw : w < 6) (v : W32) : busWrite m (regAddr bCANL (chanOff n w)) 4 (v.zeroExtend 64) s = canlWrite (chanOff n w) v.toNat s := by
  obtain ⟨hlo, hhi⟩ := chanOff_bounds hn hw
  have hreg := (regOf_canl hm hoff (o := chanOff n w) (by omega) (by omega) (by unfold chanOff; omega)).trans
    (find?_canlRegs_chan s hn hw)
  rw [busWrite_single (by omega) hreg rfl v]
  show regApply dbgWrite m bCANL (chanOff n w) (chanOff n w) v.toNat s = _
  unfold regApply
  rw [if_neg (by omega), if_neg (by omega), if_neg (by omega)]
  rfl

/-- A byte that a row carries in 64 bits. -/
theorem zeroExtend_byte (v : Byte) : v.zeroExtend 64 = (v.zeroExtend 32 : W32).zeroExtend 64 := by
  have hv : v.toNat < 256 := v.isLt
  apply BitVec.eq_of_toNat_eq
  simp only [BitVec.toNat_setWidth]
  omega

theorem ofNat_byte (v : Byte) : BitVec.ofNat 8 (v.zeroExtend 32 : W32).toNat = v := by
  rw [BitVec.ofNat_toNat]
  exact BitVec.setWidth_setWidth_of_le v (by decide)

theorem canlWrite_chan {n w : Nat} (hn : n < 40) (hw : w < 6) (v : Nat) (s : State) : canlWrite (chanOff n w) v s =
    if w = 0 then chPut s n { chGet s n with cancelLate := (chGet s n).cancelLate && !bit v 5, fifoOvf := (chGet s n).fifoOvf && !bit v 4 }
    else if w = 1 then txcanOp n (BitVec.ofNat 8 v) s
    else if w = 2 then txreqOp n (BitVec.ofNat 8 v) s
    else if w = 4 then fifopopOp n (BitVec.ofNat 32 v) s
    else s := by
  obtain ⟨hidx, hrem⟩ := chanOff_place (n := n) hw
  unfold canlWrite
  rw [if_pos (chanOff_bounds hn hw)]
  simp only [hidx, hrem]
  interval_cases w <;> rfl

/-! ### TXREQ and TXCAN (R293, R301) -/

/-- A supervisor buffer after a request to send it, on a channel in use or not. -/
def requested (on : Bool) (x : TxBuf) : TxBuf :=
  if x.st ≠ 1 ∧ x.st ≠ 2 ∧ on = true then
    { x with st := 1, clate := false, late := false, frame := if x.sealed then none else some (sbufFrame x) }
  else x

/-- A buffer after a cancellation. -/
def cancelled (x : TxBuf) : TxBuf :=
  if x.st = 1 then { x with st := 4, frame := none, late := false }
  else if x.st = 2 then { x with late := true, clate := true } else x

/-- The unit `t` is the unit `s` but for CANL, and CANL's configuration is the same: the channel is in use as before. -/
def OnlyCan (s t : State) : Prop := { t with canl := s.canl } = s ∧ t.canl.cfg = s.canl.cfg

theorem OnlyCan.trans {s t u : State} (h : OnlyCan s t) (h' : OnlyCan t u) : OnlyCan s u := by
  obtain ⟨hframe, hcfg⟩ := h
  obtain ⟨hframe', hcfg'⟩ := h'
  refine ⟨?_, hcfg'.trans hcfg⟩
  rw [← hframe, ← hframe']

theorem OnlyCan.chanOn {s t : State} (h : OnlyCan s t) (n : Nat) : chanOn t n = chanOn s n := by
  obtain ⟨hframe, hcfg⟩ := h
  have hblk : t.blk = s.blk := (congrArg State.blk hframe :)
  rw [Machine.chanOn, Machine.chanOn, runsEn, runsEn, canCfg, canCfg, blkGet, blkGet, hblk, hcfg]

theorem requestBuf_spec (n b : Nat) (s : State) : OnlyCan s (requestBuf n b s) ∧ ∀ k,
    bufGet (requestBuf n b s) n k = if k = b then requested (chanOn s n) (bufGet s n k) else bufGet s n k := by
  by_cases h : (bufGet s n b).st ≠ 1 ∧ (bufGet s n b).st ≠ 2 ∧ chanOn s n = true
  · have hgo : ¬((bufGet s n b).st = 1 ∨ (bufGet s n b).st = 2 ∨ (!chanOn s n) = true) := by
      rw [not_or, not_or]
      simpa using h
    rw [requestBuf, if_neg hgo]
    refine ⟨⟨rfl, rfl⟩, fun k => ?_⟩
    rw [bufGet_bufPut]
    by_cases hk : k = b
    · subst hk
      rw [if_pos rfl, if_pos rfl, requested, if_pos h]
    · rw [if_neg hk, if_neg hk]
  · have hstay : (bufGet s n b).st = 1 ∨ (bufGet s n b).st = 2 ∨ (!chanOn s n) = true := by
      by_contra hn
      rw [not_or, not_or] at hn
      exact h (by simpa using hn)
    rw [requestBuf, if_pos hstay]
    refine ⟨⟨rfl, rfl⟩, fun k => ?_⟩
    split_ifs with hk
    · rw [hk, requested, if_neg h]
    · rfl

theorem cancelBuf_spec (n b : Nat) (s : State) : OnlyCan s (cancelBuf n b s) ∧ ∀ k,
    bufGet (cancelBuf n b s) n k = if k = b then cancelled (bufGet s n k) else bufGet s n k := by
  unfold cancelBuf
  dsimp only
  split_ifs with h1 h2
  · refine ⟨⟨rfl, rfl⟩, fun k => ?_⟩
    rw [bufGet_bufPut]
    split_ifs with hk
    · rw [hk, cancelled, if_pos h1]
    · rfl
  · refine ⟨⟨rfl, rfl⟩, fun k => ?_⟩
    rw [bufGet_chPut, txGet_txPut]
    split_ifs with hk
    · rw [hk, cancelled, if_neg h1, if_pos h2]
    · rfl
  · refine ⟨⟨rfl, rfl⟩, fun k => ?_⟩
    split_ifs with hk
    · rw [hk, cancelled, if_neg h1, if_neg h2]
    · rfl

/-- An operation on buffers, one after the other, changes each buffer of the list once. -/
theorem foldl_bufs {op : Nat → State → State} {F : Bool → TxBuf → TxBuf} {n : Nat}
    (hop : ∀ b s, OnlyCan s (op b s) ∧ ∀ k, bufGet (op b s) n k = if k = b then F (chanOn s n) (bufGet s n k) else bufGet s n k)
    {l : List Nat} (hl : l.Nodup) (s : State) : OnlyCan s (l.foldl (fun s b => op b s) s) ∧ ∀ k,
      bufGet (l.foldl (fun s b => op b s) s) n k = if k ∈ l then F (chanOn s n) (bufGet s n k) else bufGet s n k := by
  induction l generalizing s with
  | nil => exact ⟨⟨rfl, rfl⟩, fun k => (if_neg List.not_mem_nil).symm⟩
  | cons b l ih =>
    obtain ⟨hb, hl⟩ := List.nodup_cons.mp hl
    obtain ⟨honly, hbuf⟩ := hop b s
    obtain ⟨honly', hbuf'⟩ := ih hl (op b s)
    refine ⟨honly.trans honly', fun k => ?_⟩
    rw [List.foldl_cons, hbuf', hbuf, honly.chanOn]
    by_cases hk : k = b
    · subst hk
      simp [hb]
    · simp [hk]

theorem sbufsOf_nodup (v : Byte) : (sbufsOf v).Nodup :=
  (List.nodup_range.filter _).map fun _ _ h => Nat.add_right_cancel h

theorem mem_sbufsOf {v : Byte} {j : Nat} (hj : j < 8) : 56 + j ∈ sbufsOf v ↔ v.getLsbD j = true := by
  simp only [sbufsOf, List.mem_map, List.mem_filter, List.mem_range]
  refine ⟨fun ⟨i, ⟨_, hv⟩, hi⟩ => ?_, fun hv => ⟨j, ⟨hj, hv⟩, by omega⟩⟩
  rwa [show j = i by omega]

theorem txreqOp_spec (n : Nat) (v : Byte) (s : State) : OnlyCan s (txreqOp n v s) ∧ ∀ k,
    bufGet (txreqOp n v s) n k = if k ∈ sbufsOf v then requested (chanOn s n) (bufGet s n k) else bufGet s n k :=
  foldl_bufs (F := requested) (requestBuf_spec n) (sbufsOf_nodup v) s

theorem txcanOp_spec (n : Nat) (v : Byte) (s : State) : OnlyCan s (txcanOp n v s) ∧ ∀ k,
    bufGet (txcanOp n v s) n k = if k ∈ sbufsOf v then cancelled (bufGet s n k) else bufGet s n k :=
  foldl_bufs (F := fun _ => cancelled) (cancelBuf_spec n) (sbufsOf_nodup v) s

/-! ### FIFOHD (R296) -/

theorem b2n_le_one (b : Bool) : b2n b ≤ 1 := by cases b <;> decide

theorem idWord_toNat (f : CanFrame) :
    (idWord f).toNat = 2 ^ 29 * (b2n f.ide + 2 * b2n f.fdf + 4 * b2n f.brs) + f.id.toNat := by
  have hid : f.id.toNat < 2 ^ 29 := f.id.isLt
  have hide := b2n_le_one f.ide
  have hfdf := b2n_le_one f.fdf
  have hbrs := b2n_le_one f.brs
  rw [idWord, BitVec.toNat_ofNat, sealWord]
  omega

/-- The fields of an identifier word (Table 10-12). -/
theorem idWord_fields (f : CanFrame) : (idWord f).toNat % 2 ^ 29 = f.id.toNat ∧ (idWord f).getLsbD 29 = f.ide ∧
    (idWord f).getLsbD 30 = f.fdf ∧ (idWord f).getLsbD 31 = f.brs := by
  have hid : f.id.toNat < 2 ^ 29 := f.id.isLt
  refine ⟨by rw [idWord_toNat, Nat.mul_add_mod, Nat.mod_eq_of_lt hid], ?_, ?_, ?_⟩ <;>
    rw [BitVec.getLsbD, idWord_toNat, Nat.testBit_two_pow_mul_add _ hid, if_neg (by decide)] <;>
    cases f.ide <;> cases f.fdf <;> cases f.brs <;> rfl

/-- A read of FIFOHD word 0 gives the identifier word of the head and latches the head. -/
theorem readWord_fifohd {m : RegMaster} {s : State} (hm : Reachable m s) (hoff : blkOff s bCANL = false) {n : Nat} (hn : n < 40) :
    readWord dbgRead m (regAddr bCANL (fifohdOff n)) s = (fifoHeadId s n, fifoLatch n s) := by
  have hbounds : 0x3000 ≤ fifohdOff n ∧ fifohdOff n < 0x3000 + 0x60 * 40 := by unfold fifohdOff; omega
  have hdiv : regAddr bCANL (fifohdOff n) / 65536 = bCANL := by unfold regAddr; omega
  have hmod : regAddr bCANL (fifohdOff n) % 65536 = fifohdOff n := by unfold regAddr; omega
  have hat : fifohdAt bCANL (fifohdOff n) = some n := by
    rw [fifohdAt, if_pos ⟨rfl, hbounds.1, hbounds.2, by unfold fifohdOff; omega⟩]
    exact congrArg some (by unfold fifohdOff; omega)
  obtain ⟨v, hfind⟩ := find?_canlRegs_fifohd s hn
  have hreg := (regOf_canl hm hoff (o := fifohdOff n) (by omega) (by omega) (by unfold fifohdOff; omega)).trans hfind
  unfold readWord
  rw [hreg, hdiv, hmod]
  have hcnt : ¬(0x40 ≤ fifohdOff n ∧ fifohdOff n < 0xC0) := by omega
  simp only [readReg, r32, if_true, if_neg hcnt, hat]

end Sys2Proof.Proofs
end

section
/-! PROOFS. The clauses of the obligation about CAN frames on reception and on the registers, and the obligation (R294 to
R306). -/

namespace Sys2Proof.Proofs

open Sys2Proof.Machine Sys2Proof.Laws

/-! ### Where an unsealed frame goes (R294 to R296) -/

section Unsealed

variable {n : Nat} {s : State} {x : RxItem}

theorem blk_recSuccess : (recSuccess n s).blk = s.blk := (congrArg State.blk (recSuccess_frame n s) :)

theorem stored_buffer {target : Nat} (htarget : target < 64) : let r := chGet (storeFrame n target x (recSuccess n s)) n
    let q := chGet s n
    tblGet r.rx target none = some x ∧ r.fifo = q.fifo ∧ (∀ k, k ≠ target → tblGet r.rx k none = tblGet q.rx k none) ∧
    (tblGet q.rx target none = none → (storeFrame n target x (recSuccess n s)).blk = s.blk) ∧
    (tblGet q.rx target none ≠ none → Counted bCANL 2 s (storeFrame n target x (recSuccess n s))) := by
  obtain ⟨hrx, hfifo, -, -⟩ := recSuccess_queues n s
  intro r q
  have hr : r = { chGet (recSuccess n s) n with rx := tblPut (chGet (recSuccess n s) n).rx target (some x) none } := by
    show chGet _ n = _
    rw [storeFrame_buffer htarget, chGet_congr (countIf_canl ..), chGet_chPut]
  rw [hr, storeFrame_buffer htarget, hrx]
  refine ⟨tblGet_tblPut_same .., hfifo, fun k hk => tblGet_tblPut_ne _ _ _ hk, fun hnone => ?_, fun hsome => ?_⟩
  · rw [hnone]
    exact blk_recSuccess
  · rw [Option.isSome_iff_ne_none.mpr hsome]
    exact counted_of_blk (u := chPut (recSuccess n s) n _) blk_recSuccess rfl

theorem stored_fifo : let t := storeFrame n 0xFFFE x (recSuccess n s)
    let r := chGet t n
    let q := chGet s n
    let room := q.fifo.length < 32
    let shade := q.latched.isSome = true ∧ q.shadow = none
    r.rx = q.rx ∧ (room → r.fifo = q.fifo ++ [x] ∧ t.blk = s.blk) ∧
      (¬room → r.fifo = q.fifo ∧ (shade → r.shadow = some x ∧ t.blk = s.blk) ∧
        (¬shade → r.shadow = q.shadow ∧ r.fifoOvf = true ∧ Counted bCANL 3 s t)) := by
  obtain ⟨hrx, hfifo, hshadow, hlatched⟩ := recSuccess_queues n s
  intro t r q room shade
  by_cases hroom : room
  · have ht : t = chPut (recSuccess n s) n _ := storeFrame_fifo (by rwa [hfifo])
    have hr : r = _ := (congrArg (chGet · n) ht).trans (chGet_chPut ..)
    rw [hr, ht]
    exact ⟨hrx, fun _ => ⟨congrArg (· ++ [x]) hfifo, blk_recSuccess⟩, fun h => absurd hroom h⟩
  · by_cases hshade : shade
    · have ht : t = chPut (recSuccess n s) n _ := storeFrame_shadow (by rwa [hfifo]) (by rwa [hshadow, hlatched])
      have hr : r = _ := (congrArg (chGet · n) ht).trans (chGet_chPut ..)
      rw [hr, ht]
      exact ⟨hrx, fun h => absurd h hroom, fun _ => ⟨hfifo, fun _ => ⟨rfl, blk_recSuccess⟩, fun h => absurd hshade h⟩⟩
    · have ht : t = count bCANL 3 (chPut (recSuccess n s) n _) := storeFrame_overflow (by rwa [hfifo]) (by rwa [hshadow, hlatched])
      have hr : r = _ := (congrArg (chGet · n) ht).trans ((chGet_congr (count_canl ..) n).trans (chGet_chPut ..))
      rw [hr, ht]
      exact ⟨hrx, fun h => absurd h hroom, fun _ => ⟨hfifo, fun h => absurd h hshade, fun _ => ⟨hshadow, rfl,
        counted_of_blk (u := chPut (recSuccess n s) n _) blk_recSuccess rfl⟩⟩⟩

theorem stored_nowhere : let t := storeFrame n 0xFFFF x (recSuccess n s)
    (chGet t n).rx = (chGet s n).rx ∧ (chGet t n).fifo = (chGet s n).fifo ∧ (chGet t n).shadow = (chGet s n).shadow ∧
      t.blk = s.blk := by
  obtain ⟨hrx, hfifo, hshadow, -⟩ := recSuccess_queues n s
  exact ⟨hrx, hfifo, hshadow, blk_recSuccess⟩

end Unsealed

/-- The clause of O45 on CAN_FRAME_RECEIVE. -/
theorem canFrameReceive_takes (n : Fin 40) (f : CanFrame) (ts : W32) (s : State) : let q := chGet s n
    let hit := fun (y : CanFilt) => (f.id ^^^ BitVec.ofNat 29 y.fid.toNat) &&& BitVec.ofNat 29 y.mask.toNat = 0 ∧ y.fid.getLsbD 31 = f.ide
    chanOn s n = true → q.errst = 0 ∨ q.errst = 1 → f.rtr = false → isJoin s n f = false →
    (sealSlot s n f = none →
      ((∀ y ∈ (canCfg s n).filters, ¬hit y) → Gives (.canFrameReceive n f ts) s (fun t => let r := chGet t n
        r.rx = q.rx ∧ r.fifo = q.fifo ∧ r.shadow = q.shadow ∧ t.blk = s.blk)) ∧
      ∀ i y, (canCfg s n).filters[i]? = some y → hit y → (∀ j z, j < i → (canCfg s n).filters[j]? = some z → ¬hit z) →
        Gives (.canFrameReceive n f ts) s (fun t => let r := chGet t n
          let item : RxItem := { frame := f, ts := ts, sealOk := false, filt := i, arr := s.time.tbc }
          let old := tblGet q.rx y.target.toNat none
          let room := q.fifo.length < 32
          let shade := q.latched.isSome = true ∧ q.shadow = none
          (y.target.toNat < 64 → tblGet r.rx y.target.toNat none = some item ∧ r.fifo = q.fifo ∧
            (∀ k, k ≠ y.target.toNat → tblGet r.rx k none = tblGet q.rx k none) ∧
            (old = none → t.blk = s.blk) ∧ (old ≠ none → Counted bCANL 2 s t)) ∧
          (y.target = 0xFFFE → r.rx = q.rx ∧ (room → r.fifo = q.fifo ++ [item] ∧ t.blk = s.blk) ∧
            (¬room → r.fifo = q.fifo ∧ (shade → r.shadow = some item ∧ t.blk = s.blk) ∧
              (¬shade → r.shadow = q.shadow ∧ r.fifoOvf = true ∧ Counted bCANL 3 s t))) ∧
          (y.target = 0xFFFF → r.rx = q.rx ∧ r.fifo = q.fifo ∧ r.shadow = q.shadow ∧ t.blk = s.blk))) ∧
    ∀ k, sealSlot s n f = some k → s.sec.snuffed = false → (sessGet s k).kind = 1 → (sessGet s k).st = 1 →
      let e := sessGet s k
      let last := e.fvRx.toNat
      let len := f.data.length
      let base := last / 2 ^ 24 * 2 ^ 24 + leNat (slice f.data (len - 7) 3)
      let cand := if base ≤ last then base + 2 ^ 24 else base
      let good := f.fdf = true ∧ 8 ≤ len ∧ cand ≤ last + 2 ^ 23 ∧ sealTag e.key2 f k 1 cand = f.data.drop (len - 4)
      Gives (.canFrameReceive n f ts) s (fun t =>
        (good → (sessGet t k).fvRx = BitVec.ofNat 56 cand ∧ cntOf t bCANL 4 = cntOf s bCANL 4 ∧
          ∀ x ∈ (chGet t n).fifo, x ∈ q.fifo ∨ (x.frame = f ∧ x.sealOk = true)) ∧
        (¬good → (sessGet t k).fvRx = e.fvRx ∧ Counted bCANL 4 s t ∧ (chGet t n).rx = q.rx ∧ (chGet t n).fifo = q.fifo ∧
          (chGet t n).shadow = q.shadow ∧ t.pimg = s.pimg)) := by
  intro q hit hon herr hrtr hjoin
  obtain ⟨hrx, hfifo, hshadow, -⟩ := recSuccess_queues n s
  refine ⟨fun hslot => ⟨fun hmiss => ?_, fun i y hy hhit hfirst => ?_⟩, ?_⟩
  · apply gives_received_unsealed hon herr hrtr hjoin hslot
    rw [filterFrame_none (by rw [canCfg_recSuccess]; exact hmiss)]
    exact ⟨hrx, hfifo, hshadow, blk_recSuccess⟩
  · apply gives_received_unsealed hon herr hrtr hjoin hslot
    have harr : (recSuccess n s).time = s.time := (congrArg State.time (recSuccess_frame n s) :)
    rw [← canCfg_recSuccess n n s] at hy hfirst
    rw [filterFrame_first hy hhit hfirst, harr]
    refine ⟨stored_buffer, fun h => ?_, fun h => ?_⟩
    · rw [h]
      exact stored_fifo
    · rw [h]
      exact stored_nowhere
  · intro k hslot hsnuffed hkind hst e last len base cand good
    by_cases hgood : good
    · refine gives_received_accepted hon herr hrtr hjoin hslot hsnuffed hkind hst hgood ⟨fun _ => ?_, fun h => absurd hgood h⟩
      obtain ⟨hsec, hcnt, hitems⟩ := filterFrame_keeps (n := n) (f := f) (ts := ts) (ok := true)
        (s := sessPut (recSuccess n s) k { e with fvRx := BitVec.ofNat 56 (sealCandOf e f), uses := e.uses + 1 })
      refine ⟨?_, hcnt.trans (cntOf_congr blk_recSuccess ..), fun x hx => ?_⟩
      · rw [sessGet, hsec]
        exact congrArg Sess.fvRx (sessGet_sessPut (recSuccess n s) k _)
      · exact (hitems x hx).imp_left fun h => hfifo ▸ h
    · refine gives_received_rejected hon herr hrtr hjoin hslot hsnuffed hkind hst hgood ⟨fun h => absurd h hgood, fun _ => ?_⟩
      have hput : sessGet (sessPut (recSuccess n s) k { e with fails := satInc e.fails }) k = _ := sessGet_sessPut ..
      exact ⟨(congrArg Sess.fvRx hput :), counted_of_blk (u := recSuccess n s) blk_recSuccess rfl,
        hrx, hfifo, hshadow, (congrArg State.pimg (recSuccess_frame n s) :)⟩

/-! ### The registers of a channel (R293, R296, R301) -/

section Registers

variable {m : RegMaster} {n : Fin 40} {s : State} {P : State → Prop} (hm : Reachable m s) (hoff : blkOff s bCANL = false)
include hm hoff

theorem gives_txreq {v : Byte} (h : P (txreqOp n v s)) : Gives (.txreq m n v) s P := by
  refine ⟨_, ?_, h⟩
  have haddr : 0x1008 + 0x20 * n.val = chanOff n 2 := by unfold chanOff; omega
  show Host.Outcome.next (busWrite m (regAddr bCANL (0x1008 + 0x20 * n.val)) 4 (v.zeroExtend 64) s) = _
  rw [haddr, zeroExtend_byte, busWrite_chan hm hoff n.isLt (by decide), canlWrite_chan n.isLt (by decide), ofNat_byte]
  rfl

theorem gives_txcan {v : Byte} (h : P (txcanOp n v s)) : Gives (.txcan m n v) s P := by
  refine ⟨_, ?_, h⟩
  have haddr : 0x1004 + 0x20 * n.val = chanOff n 1 := by unfold chanOff; omega
  show Host.Outcome.next (busWrite m (regAddr bCANL (0x1004 + 0x20 * n.val)) 4 (v.zeroExtend 64) s) = _
  rw [haddr, zeroExtend_byte, busWrite_chan hm hoff n.isLt (by decide), canlWrite_chan n.isLt (by decide), ofNat_byte]
  rfl

theorem gives_fifopop {w : W32} (h : P (fifopopOp n w s)) : Gives (.fifopop m n w) s P := by
  refine ⟨_, ?_, h⟩
  have haddr : 0x1010 + 0x20 * n.val = chanOff n 4 := by unfold chanOff; omega
  have hword : BitVec.ofNat 32 w.toNat = w := by rw [BitVec.ofNat_toNat, BitVec.setWidth_eq]
  show Host.Outcome.next (busWrite m (regAddr bCANL (0x1010 + 0x20 * n.val)) 4 (w.zeroExtend 64) s) = _
  rw [haddr, busWrite_chan hm hoff n.isLt (by decide), canlWrite_chan n.isLt (by decide), hword]
  rfl

theorem gives_fifohdRead (h : P (emitAll [.regRead m (regAddr bCANL (fifohdOff n)) (fifoHeadId s n)] (fifoLatch n s))) :
    Gives (.fifohdRead m n) s P :=
  ⟨_, readRow_word (readWord_fifohd hm hoff n.isLt), h⟩

/-- The clause of O45 on TXREQ, TXCAN, FIFOHD and FIFOPOP. -/
theorem chanRegisters_act (v : Byte) :
    Gives (.txreq m n v) s (fun t => (∀ j, j < 8 → let x := bufGet s n (56 + j)
      bufGet t n (56 + j) = if v.getLsbD j = true ∧ x.st ≠ 1 ∧ x.st ≠ 2 ∧ chanOn s n = true then
        { x with st := 1, clate := false, late := false, frame := if x.sealed then none else some (sbufFrame x) } else x) ∧
      { t with canl := s.canl } = s) ∧
    Gives (.txcan m n v) s (fun t => (∀ j, j < 8 → let x := bufGet s n (56 + j)
      bufGet t n (56 + j) = if v.getLsbD j = true ∧ x.st = 1 then { x with st := 4, frame := none, late := false }
        else if v.getLsbD j = true ∧ x.st = 2 then { x with late := true, clate := true } else x) ∧ { t with canl := s.canl } = s) ∧
    Gives (.fifohdRead m n) s (fun t => (chGet t n).latched = (chGet s n).fifo.head? ∧ (chGet t n).fifo = (chGet s n).fifo ∧
      ∃ w, t.out = .regRead m (0x0A3000 + 0x60 * n.val) w :: s.out ∧ ∀ x, (chGet s n).fifo.head? = some x → w.toNat % 2 ^ 29 = x.frame.id.toNat ∧
        w.getLsbD 29 = x.frame.ide ∧ w.getLsbD 30 = x.frame.fdf ∧ w.getLsbD 31 = x.frame.brs) ∧
    ∀ w : W32, w.getLsbD 0 = true → (chGet s n).latched ≠ none → Gives (.fifopop m n w) s (fun t => let q := chGet s n
      chGet t n = { q with fifo := q.fifo.drop 1 ++ q.shadow.toList, shadow := none, latched := none } ∧ { t with canl := s.canl } = s) := by
  refine ⟨gives_txreq hm hoff ?_, gives_txcan hm hoff ?_, gives_fifohdRead hm hoff ?_, fun w hw hlatched => gives_fifopop hm hoff ?_⟩
  · obtain ⟨⟨hframe, -⟩, hbuf⟩ := txreqOp_spec n v s
    refine ⟨fun j hj => ?_, hframe⟩
    simp only [hbuf, mem_sbufsOf hj, requested, ite_and]
  · obtain ⟨⟨hframe, -⟩, hbuf⟩ := txcanOp_spec n v s
    refine ⟨fun j hj => ?_, hframe⟩
    rw [hbuf]
    simp only [mem_sbufsOf hj]
    cases v.getLsbD j <;> simp [cancelled]
  · have hchan : chGet (fifoLatch n s) n = { chGet s n with latched := (chGet s n).fifo.head? } := chGet_chPut ..
    have haddr : regAddr bCANL (fifohdOff n) = 0x0A3000 + 0x60 * n.val := by unfold regAddr fifohdOff bCANL; omega
    refine ⟨(congrArg CanChan.latched hchan :), (congrArg CanChan.fifo hchan :), fifoHeadId s n, by rw [haddr]; rfl, fun x hx => ?_⟩
    have hid : fifoHeadId s n = idWord x.frame := by simp only [fifoHeadId, hx]
    rw [hid]
    exact idWord_fields x.frame
  · have hpop : fifopopOp n w s = chPut s n _ := if_pos ⟨hw, Option.isSome_iff_ne_none.mpr hlatched⟩
    rw [hpop]
    exact ⟨chGet_chPut .., rfl⟩

end Registers

/-- Settles O45: the start and the end of a frame, error confinement and recovery, reception by filter and by seal, and the
registers of a channel, clause by clause. -/
theorem canFramesAreSentSealedAndStored : Obligations.CanFramesAreSentSealedAndStored :=
  ⟨startOfFrame_sends, canFrameEnd_ends, canBusError_confines, busOffRecovery_recovers, canFrameReceive_takes,
    fun _ _ v _ hm hoff => chanRegisters_act hm hoff v⟩

end Sys2Proof.Proofs
end

section
/-! PROOFS. Staging by the link masters (R65, R174), and the M-Bus masters (R316 to R319): polls, repetitions, misses and
responses, and the values that the receive slot stages. -/

namespace Sys2Proof.Proofs

open Sys2Proof.Machine Sys2Proof.Laws

/-! ### Slots of the link masters -/

/-- The arrival of a slot changes the held enable of its block alone. -/
theorem slotReached_eq (b : Nat) (s : State) : ∃ x, slotReached b s = { s with blk := x } := by
  unfold slotReached
  split_ifs <;> exact ⟨_, rfl⟩

theorem enOf_slotReached (b c : Nat) (s : State) : enOf (slotReached b s) c = enOf s c := by
  unfold slotReached
  split_ifs
  · by_cases hc : c = b
    · subst hc
      rw [enOf, blkGet_blkPut]
      rfl
    · rw [enOf, blkGet_blkPut_ne s _ hc]
      rfl
  · rfl

theorem linkRuns_spec {m : LinkMaster} {s : State} (h : linkRuns m s = true) :
    enOf s (linkBlock m) = true ∧ frozenM s (linkMaster m) = false := by
  simp only [linkRuns, Bool.and_eq_true, Bool.not_eq_true'] at h
  exact ⟨h.1.2, h.2⟩

theorem gives_transmitSlot_mbus {s : State} {P : State → Prop} (hruns : linkRuns .mbus s = true)
    (h : P (mbusTransmit (slotReached bMBUS s))) : Gives (.transmitSlot .mbus) s P := by
  refine ⟨_, ?_, h⟩
  show execTransmitSlot .mbus s = _
  rw [execTransmitSlot, hruns]
  rfl

theorem gives_receiveSlot_mbus {s : State} {P : State → Prop} (hruns : linkRuns .mbus s = true)
    (h : P (mbusReceive (slotReached bMBUS s))) : Gives (.receiveSlot .mbus) s P := by
  refine ⟨_, ?_, h⟩
  show execReceiveSlot .mbus s = _
  rw [execReceiveSlot, hruns]
  rfl

/-! ### Staging (R65, R174) -/

/-- A staging entry after a write of its owner: value and quality, or quality alone. -/
def stagedEntry (s : State) (e : Nat) (v : Option W64) (q : Nat) : Stage :=
  let g := tblGet s.pimg.staging e {}
  match v with
  | some x => { g with value := typeBits (workPt s g.point).typ x, qual := BitVec.ofNat 8 q, isNew := true }
  | none => { g with qual := BitVec.ofNat 8 q }

theorem stagePoint_inside {m p e : Nat} {s : State} (he : entryOf s p = some e) (hf : frozenM s m = false)
    (hw : inWindow s m (stageAddr e) 16 true = true) (v : Option W64) (q : Nat) : stagePoint m p v q s =
      { s with pimg := { s.pimg with staging := tblPut s.pimg.staging e (stagedEntry s e v q) {} } } := by
  simp only [stagePoint, he, stage, guarded_inside hf hw]
  rfl

/-- A binary64 value for a point of TYPE F64 is staged as it is (R181). -/
theorem stageF_f64 {m p : Nat} {s : State} (htyp : (workPt s p).typ = 7) (x : F64) (q : Nat) :
    stageF m p x q s = stagePoint m p (some x) q s := by
  simp only [stageF, f64ToType, htyp, if_true]
  rfl

/-! ### Masters by number -/

theorem mbGet_mbPut (s : State) (k j : Nat) (v : MbMaster) : mbGet (mbPut s k v) j = if j = k then v else mbGet s j := by
  split_ifs with h
  · rw [h]
    exact tblGet_tblPut_same ..
  · exact tblGet_tblPut_ne _ _ _ h

theorem mbGet_mbPut_same (s : State) (k : Nat) (v : MbMaster) : mbGet (mbPut s k v) k = v := tblGet_tblPut_same ..

/-! ### The transmit slot (R316) -/

section Start

variable {k i : Nat} {r : List Nat} {g : MtrCfg} {s : State}

/-- An exchange has begun: its meter, and no repetition yet. -/
def exchangeBegun (s : State) (k i : Nat) (r : List Nat) : State := mbPut s k { mbGet s k with due := r, meter := i, tries := 0 }

theorem mbStart_busy (hdue : (mbGet s k).due = i :: r) (hstate : (mbGet s k).state ≠ 0) : mbStart k s = s := by
  simp only [mbStart, hdue, ne_eq, hstate, not_false_eq_true, if_true]

theorem mbStart_selects (hdue : (mbGet s k).due = i :: r) (hstate : (mbGet s k).state = 0) (hg : mtrCfg s k i = some g)
    (hsec : g.secondary = true) : mbStart k s = mbSelect k g (exchangeBegun s k i r) := by
  simp only [mbStart, hdue, hg]
  rw [if_neg (not_not_intro hstate), if_pos hsec]
  rfl

theorem mbStart_requests (hdue : (mbGet s k).due = i :: r) (hstate : (mbGet s k).state = 0) (hg : mtrCfg s k i = some g)
    (hsec : g.secondary = false) : mbStart k s = mbRequest k i g (exchangeBegun s k i r) := by
  simp only [mbStart, hdue, hg]
  rw [if_neg (not_not_intro hstate), if_neg (by rw [hsec]; exact Bool.false_ne_true)]
  rfl

end Start

/-- A master with the meters that become due in this minor frame. -/
def withDue (s : State) (k : Nat) : State :=
  mbPut s k { mbGet s k with due := (mbGet s k).due ++ mbDue s k, dueMfn := some s.sched.mfn }

theorem mbTransmit_due {k : Nat} {s : State} (hsends : mbSends s k = true) (hnew : (mbGet s k).dueMfn ≠ some s.sched.mfn) :
    mbTransmit s k = mbStart k (withDue s k) := by
  simp only [mbTransmit, hsends, hnew, Bool.not_true, Bool.false_eq_true, if_false]
  rfl

theorem mbTransmit_disabled {k : Nat} {s : State} (h : (mbCfg s k).en = false) : mbTransmit s k = s := by
  simp [mbTransmit, mbSends, h]

theorem mbStart_cfg (k : Nat) (s : State) : (mbStart k s).mbus.cfg = s.mbus.cfg := by
  unfold mbStart
  dsimp only
  split
  · rfl
  · split_ifs
    · rfl
    · split
      · rfl
      · split_ifs <;> rfl

theorem mbTransmit_cfg (s : State) (k : Nat) : (mbTransmit s k).mbus.cfg = s.mbus.cfg := by
  unfold mbTransmit
  dsimp only
  split_ifs
  · rfl
  · exact mbStart_cfg ..
  · exact mbStart_cfg ..

/-- Where one master is in use, the slot is that master's turn. -/
theorem mbusTransmit_one {k : Nat} {s : State} (hk : k < 6) (hothers : ∀ j, j ≠ k → (mbCfg s j).en = false) :
    mbusTransmit s = mbTransmit s k :=
  foldl_one List.nodup_range (List.mem_range.mpr hk) (fun j _ hj => mbTransmit_disabled (hothers j hj)) fun j _ hj =>
    mbTransmit_disabled (by rw [mbCfg, mbTransmit_cfg]; exact hothers j hj)

/-- The turn of a master in use: a busy one keeps its due meters, an idle one starts the exchange of the first. -/
theorem mbTransmit_polls {k i : Nat} {r : List Nat} {g : MtrCfg} {s : State} (hsends : mbSends s k = true)
    (hnew : (mbGet s k).dueMfn ≠ some s.sched.mfn) (hdue : (mbGet s k).due ++ mbDue s k = i :: r) (hg : mtrCfg s k i = some g) :
    let m := mbGet s k
    let t := mbTransmit s k
    let u := mbGet t k
    u.dueMfn = some s.sched.mfn ∧ u.mtr = m.mtr ∧ t.blk = s.blk ∧
      (m.state ≠ 0 → u.due = i :: r ∧ u.state = m.state ∧ t.out = s.out) ∧
      (m.state = 0 → u.due = r ∧ u.meter = i ∧ u.tries = 0 ∧
        (g.secondary = true → u.state = 1 ∧ t.out = .mbus k (selectFrame g) :: s.out) ∧
        (g.secondary = false → u.state = 3 ∧ t.out = .mbus k (reqFrame g (mtrGet s k i).fcb) :: s.out)) := by
  intro m t u
  have hmaster : mbGet (withDue s k) k = { m with due := i :: r, dueMfn := some s.sched.mfn } := by
    rw [← hdue]
    exact mbGet_mbPut_same ..
  have hdue' : (mbGet (withDue s k) k).due = i :: r := by rw [hmaster]
  have ht : t = mbStart k (withDue s k) := mbTransmit_due hsends hnew
  by_cases hstate : m.state = 0
  · have hstate' : (mbGet (withDue s k) k).state = 0 := by rw [hmaster]; exact hstate
    have hbegun : mbGet (exchangeBegun (withDue s k) k i r) k =
        { m with due := r, dueMfn := some s.sched.mfn, meter := i, tries := 0 } := by
      rw [exchangeBegun, mbGet_mbPut_same, hmaster]
    cases hsec : g.secondary with
    | true =>
      have ht' := ht.trans (mbStart_selects hdue' hstate' hg hsec)
      have hu : u = { mbGet (exchangeBegun (withDue s k) k i r) k with state := 1 } :=
        (congrArg (mbGet · k) ht').trans (mbGet_mbPut_same ..)
      rw [hu, hbegun, ht']
      exact ⟨rfl, rfl, rfl, fun h => absurd hstate h, fun _ => ⟨rfl, rfl, rfl, fun _ => ⟨rfl, rfl⟩, fun h => nomatch h⟩⟩
    | false =>
      have ht' := ht.trans (mbStart_requests hdue' hstate' hg hsec)
      have hu : u = { mbGet (exchangeBegun (withDue s k) k i r) k with state := 3 } :=
        (congrArg (mbGet · k) ht').trans (mbGet_mbPut_same ..)
      have hfcb : mtrGet (exchangeBegun (withDue s k) k i r) k i = mtrGet s k i := by
        rw [mtrGet, hbegun]
        rfl
      rw [hu, hbegun, ht', mbRequest, hfcb]
      exact ⟨rfl, rfl, rfl, fun h => absurd hstate h, fun _ => ⟨rfl, rfl, rfl, fun h => Bool.noConfusion h, fun _ => ⟨rfl, rfl⟩⟩⟩
  · have ht' := ht.trans (mbStart_busy hdue' (by rw [hmaster]; exact hstate))
    have hu : u = _ := (congrArg (mbGet · k) ht').trans hmaster
    rw [hu, ht']
    exact ⟨rfl, rfl, rfl, fun _ => ⟨rfl, rfl, rfl⟩, fun h => absurd h hstate⟩

/-- The clause of O47 on the transmit slot. -/
theorem transmitSlot_polls (k : Fin 6) (i : Nat) (r : List Nat) (g : MtrCfg) (s : State) (hruns : linkRuns .mbus s = true)
    (hdrives : drives s = true) (hen : (mbCfg s k).en = true) (hothers : ∀ j, j ≠ k.val → (mbCfg s j).en = false)
    (hnew : (mbGet s k).dueMfn ≠ some s.sched.mfn) (hdue : (mbGet s k).due ++ mbDue s k = i :: r) (hg : mtrCfg s k i = some g) :
    Gives (.transmitSlot .mbus) s (fun t => let m := mbGet s k
      let u := mbGet t k
      u.dueMfn = some s.sched.mfn ∧ u.mtr = m.mtr ∧ t.blk = (slotReached bMBUS s).blk ∧
      (m.state ≠ 0 → u.due = i :: r ∧ u.state = m.state ∧ t.out = s.out) ∧
      (m.state = 0 → u.due = r ∧ u.meter = i ∧ u.tries = 0 ∧
        (g.secondary = true → u.state = 1 ∧ t.out = .mbus k (selectFrame g) :: s.out) ∧
        (g.secondary = false → u.state = 3 ∧ t.out = .mbus k (reqFrame g (mtrGet s k i).fcb) :: s.out))) := by
  obtain ⟨hblk, hfrozen⟩ : enOf s bMBUS = true ∧ frozenM s 19 = false := linkRuns_spec hruns
  have hen' := (enOf_slotReached bMBUS bMBUS s).trans hblk
  apply gives_transmitSlot_mbus hruns
  obtain ⟨x, hx⟩ := slotReached_eq bMBUS s
  rw [hx] at hen' ⊢
  have hsends : mbSends { s with blk := x } k = true := by
    rw [mbSends, hen', Bool.true_and, Bool.and_eq_true, Bool.and_eq_true, Bool.not_eq_true']
    exact ⟨⟨hen, hfrozen⟩, hdrives⟩
  rw [mbusTransmit_one (s := { s with blk := x }) k.isLt hothers]
  exact mbTransmit_polls hsends hnew hdue hg

/-! ### Faults, repetitions and misses (R316, R319) -/

section Again

variable {k : Nat} {g : MtrCfg} {s : State}

/-- A repetition has begun. -/
def repetitionBegun (s : State) (k : Nat) : State := mbPut s k { mbGet s k with tries := (mbGet s k).tries + 1 }

theorem mbAgain_repeats (hg : mtrCfg s k (mbGet s k).meter = some g) (htries : (mbGet s k).tries < (mbCfg s k).retry) :
    mbAgain k s = if (mbGet s k).state = 1 then mbSelect k g (repetitionBegun s k)
      else mbRequest k (mbGet s k).meter g (repetitionBegun s k) := by
  simp only [mbAgain, hg, htries, if_true]
  rfl

theorem mbAgain_misses (hg : mtrCfg s k (mbGet s k).meter = some g) (htries : (mbCfg s k).retry ≤ (mbGet s k).tries) :
    mbAgain k s = mbMiss k (mbGet s k).meter g s := by
  simp only [mbAgain, hg, Nat.not_lt.mpr htries, if_false]

/-- MISS after a miss, up to 255. -/
def missCount (b : Byte) : Byte := if b = 255 then 255 else b + 1

theorem missCount_toNat (b : Byte) : (missCount b).toNat = min 255 (b.toNat + 1) := by
  have hlt : b.toNat < 256 := b.isLt
  unfold missCount
  split_ifs with h
  · rw [h]
    rfl
  · have hne : b.toNat ≠ 255 := fun h' => h (BitVec.eq_of_toNat_eq h')
    rw [BitVec.toNat_add]
    show (b.toNat + 1) % 256 = _
    omega

/-- A meter after a miss is BAD from LOSSN misses. -/
def missBad (g : MtrCfg) (v : Meter) : Bool := decide (g.lossn ≤ (missCount v.miss).toNat)
def missedMeter (g : MtrCfg) (v : Meter) : Meter := { v with miss := missCount v.miss, st := if missBad g v then snBAD else snSTALE }

/-- What a miss leaves for the receive slot: a quality for each mapped point. -/
def missValues (g : MtrCfg) (v : Meter) (now : W64) : List MbVal :=
  g.map.map fun e => { point := e.point, value := none, qual := if missBad g v then 2 else 1, arr := now }

/-- The end of an exchange: the new state of its meter, and what waits for the receive slot. -/
def exchangeEnded (s : State) (k i : Nat) (v : Meter) (vs : List MbVal) : MbMaster :=
  { mbGet s k with
    state := 0, done := (mbGet s k).done + 1, mtr := tblPut (mbGet s k).mtr i v {}, values := (mbGet s k).values ++ vs }

theorem mbMiss_eq (k i : Nat) (g : MtrCfg) (s : State) : mbMiss k i g s =
    mbEnd k (mbAdd k (missValues g (mtrGet s k i) s.time.tbc) (count bMBUS 4 (mtrPut s k i (missedMeter g (mtrGet s k i))))) := by
  by_cases h : g.lossn ≤ (missCount (mtrGet s k i).miss).toNat
  · simp only [missValues, missedMeter, missBad, h, decide_true, if_true]
    unfold missCount at h ⊢
    simp only [mbMiss, h, if_true]
  · simp only [missValues, missedMeter, missBad, h, decide_false, Bool.false_eq_true, if_false]
    unfold missCount at h ⊢
    simp only [mbMiss, h, if_false]
    rfl

/-- An exchange that ends: the master, and what changes beside it. -/
theorem mbGet_mbEnd {k i : Nat} {s t : State} {v : Meter} (ht : t.mbus = (mtrPut s k i v).mbus) (vs : List MbVal) :
    mbGet (mbEnd k (mbAdd k vs t)) k = exchangeEnded s k i v vs := by
  have hput : mbGet t k = { mbGet s k with mtr := tblPut (mbGet s k).mtr i v {} } := by
    rw [mbGet, ht]
    exact tblGet_tblPut_same ..
  rw [mbEnd, mbAdd, mbGet_mbPut_same, mbGet_mbPut_same, hput]
  rfl

end Again

end Sys2Proof.Proofs
end

section
/-! PROOFS. What a waiting M-Bus master hears: faults that are repeated or end as a miss, and responses (R316 to R319). -/

namespace Sys2Proof.Proofs

open Sys2Proof.Machine Sys2Proof.Laws

section Heard

variable {k : Nat} {g : MtrCfg} {s : State}

/-- A repetition sends the telegram of the step that failed again. -/
theorem mbAgain_repeated (hg : mtrCfg s k (mbGet s k).meter = some g) (htries : (mbGet s k).tries < (mbCfg s k).retry) :
    let m := mbGet s k
    let t := mbAgain k s
    mbGet t k = { m with tries := m.tries + 1, state := if m.state = 1 then 1 else 3 } ∧ t.blk = s.blk ∧
      t.out = .mbus k (if m.state = 1 then selectFrame g else reqFrame g (mtrGet s k m.meter).fcb) :: s.out := by
  intro m t
  have ht : t = _ := mbAgain_repeats hg htries
  have hbegun : mbGet (repetitionBegun s k) k = { m with tries := m.tries + 1 } := mbGet_mbPut_same ..
  by_cases hsel : m.state = 1
  · rw [if_pos hsel, if_pos hsel, ht, if_pos hsel]
    exact ⟨(mbGet_mbPut_same ..).trans (congrArg (fun v : MbMaster => { v with state := 1 }) hbegun), rfl, rfl⟩
  · rw [if_neg hsel, if_neg hsel, ht, if_neg hsel]
    refine ⟨(mbGet_mbPut_same ..).trans (congrArg (fun v : MbMaster => { v with state := 3 }) hbegun), rfl, ?_⟩
    have hmtr : mtrGet (repetitionBegun s k) k m.meter = mtrGet s k m.meter := by
      rw [mtrGet, hbegun]
      rfl
    rw [mbRequest, hmtr]
    rfl

/-- After the last repetition the exchange ends as a miss, counted in CNT[4]. -/
theorem mbAgain_missed (hg : mtrCfg s k (mbGet s k).meter = some g) (htries : (mbCfg s k).retry ≤ (mbGet s k).tries) :
    let m := mbGet s k
    let t := mbAgain k s
    let v := mtrGet s k m.meter
    mbGet t k = exchangeEnded s k m.meter (missedMeter g v) (missValues g v s.time.tbc) ∧ t.blk = (count bMBUS 4 s).blk ∧
      t.out = s.out := by
  intro m t v
  have ht : t = _ := (mbAgain_misses hg htries).trans (mbMiss_eq ..)
  rw [ht]
  exact ⟨mbGet_mbEnd rfl _, rfl, rfl⟩

theorem mtrGet_ended {i : Nat} {t : State} {v : Meter} {vs : List MbVal} (h : mbGet t k = exchangeEnded s k i v vs) :
    mtrGet t k i = v := by
  rw [mtrGet, h]
  exact tblGet_tblPut_same ..

/-- A fault counted in CNT[c] is repeated, and ends as a miss when no repetition is left: the clause of O47. -/
def FaultRepeated (k : Fin 6) (g : MtrCfg) (s : State) (i : Instr) (c : Nat) : Prop :=
  let m := mbGet s k
  (m.tries < (mbCfg s k).retry → Gives i s (fun t => Counted bMBUS c s t ∧ (mbGet t k).tries = m.tries + 1 ∧ (mbGet t k).mtr = m.mtr ∧
    (mbGet t k).state = (if m.state = 1 then 1 else 3) ∧
    t.out = .mbus k (if m.state = 1 then selectFrame g else reqFrame g (mtrGet s k m.meter).fcb) :: s.out)) ∧
  ((mbCfg s k).retry ≤ m.tries → Gives i s (fun t => t.out = s.out ∧ (mbGet t k).state = 0 ∧ (mbGet t k).done = m.done + 1 ∧
    (∀ n, cntOf t bMBUS n = if n = c ∨ n = 4 then satInc (cntOf s bMBUS n) else cntOf s bMBUS n) ∧
    let miss := min 255 ((mtrGet s k m.meter).miss.toNat + 1)
    (mtrGet t k m.meter).miss.toNat = miss ∧ (mtrGet t k m.meter).st = (if g.lossn ≤ miss then snBAD else snSTALE) ∧
    (mbGet t k).values = m.values ++ g.map.map fun e =>
      { point := e.point, value := none, qual := if g.lossn ≤ miss then 2 else 1, arr := s.time.tbc }))

theorem cntOf_count (b c : Nat) (s : State) (n : Nat) :
    cntOf (count b c s) b n = if n = c then satInc (cntOf s b n) else cntOf s b n := by
  rw [counted_count b c s b n]
  by_cases h : n = c
  · rw [if_pos ⟨rfl, h⟩, if_pos h, h]
  · rw [if_neg (fun h' => h h'.2), if_neg h]

/-- Two counters of a block after one error each. -/
theorem cntOf_count_count {b c c' : Nat} (hc : c ≠ c') (s : State) (n : Nat) :
    cntOf (count b c' (count b c s)) b n = if n = c ∨ n = c' then satInc (cntOf s b n) else cntOf s b n := by
  rw [cntOf_count, cntOf_count]
  by_cases h : n = c
  · rw [if_neg (fun h' => hc (h.symm.trans h')), if_pos h, if_pos (.inl h)]
  · by_cases h' : n = c'
    · rw [if_pos h', if_neg h, if_pos (.inr h')]
    · rw [if_neg h', if_neg h, if_neg (not_or.mpr ⟨h, h'⟩)]

end Heard

section Faults

variable {k : Fin 6} {g : MtrCfg} {s : State}

theorem faultRepeated_of_exec {i : Instr} {c : Nat} (hc : c ≠ 4) (hg : mtrCfg s k (mbGet s k).meter = some g)
    (h : exec i s = .next (mbAgain k (count bMBUS c s))) : FaultRepeated k g s i c := by
  constructor
  · intro htries
    obtain ⟨hu, hblk, hout⟩ := mbAgain_repeated (s := count bMBUS c s) hg htries
    refine ⟨_, h, counted_of_blk rfl hblk, ?_, ?_, ?_, hout⟩ <;> rw [hu] <;> rfl
  · intro htries
    obtain ⟨hu, hblk, hout⟩ := mbAgain_missed (s := count bMBUS c s) hg htries
    have hmeter : mtrGet (mbAgain k (count bMBUS c s)) k (mbGet s k).meter = missedMeter g (mtrGet s k (mbGet s k).meter) :=
      mtrGet_ended hu
    refine ⟨_, h, hout, ?_, ?_, fun n => (cntOf_congr hblk _ n).trans (cntOf_count_count hc s n), ?_, ?_, ?_⟩
    · rw [hu]
      rfl
    · rw [hu]
      rfl
    · rw [hmeter]
      exact missCount_toNat _
    · rw [hmeter, ← missCount_toNat]
      show (if missBad g _ then _ else _) = _
      simp only [missBad, decide_eq_true_eq]
    · rw [hu, ← missCount_toNat]
      show _ ++ missValues .. = _
      simp only [missValues, missBad, decide_eq_true_eq]
      rfl

variable (hstate : (mbGet s k).state ≠ 0) (hfrozen : frozenM s 19 = false) (hg : mtrCfg s k (mbGet s k).meter = some g)
include hstate hfrozen

theorem exec_mbusResponseTimeout : exec (.mbusResponseTimeout k) s = .next (mbAgain k (count bMBUS 0 s)) := by
  show execMbusResponseTimeout k s = _
  simp only [execMbusResponseTimeout, hstate, hfrozen, Bool.false_eq_true, if_false]

include hg

theorem exec_rspUd_collision : exec (.rspUd k .collision) s = .next (mbAgain k (count bMBUS 2 s)) := by
  show execRspUd k .collision s = _
  simp only [execRspUd, hstate, hfrozen, hg, Bool.false_eq_true, if_false]

theorem exec_rspUd_parity (b : Bytes) : exec (.rspUd k (.frame b false)) s = .next (mbAgain k (count bMBUS 1 s)) := by
  show execRspUd k (.frame b false) s = _
  simp only [execRspUd, hstate, hfrozen, hg, Bool.false_eq_true, if_false, Bool.not_false, if_true]

/-- The answer to a selection starts the request. -/
theorem exec_rspUd_selected (hsel : (mbGet s k).state = 1) :
    exec (.rspUd k (.frame [0xE5] true)) s = .next (mbRequest k (mbGet s k).meter g s) := by
  show execRspUd k (.frame [0xE5] true) s = _
  simp only [execRspUd, hstate, hfrozen, hg, Bool.false_eq_true, if_false, Bool.not_true, if_true]
  rw [if_pos hsel]

theorem exec_rspUd_response (hsel : (mbGet s k).state ≠ 1) (b : Bytes) :
    exec (.rspUd k (.frame b true)) s = .next (mbResponse k (mbGet s k).meter g b s) := by
  show execRspUd k (.frame b true) s = _
  simp only [execRspUd, hstate, hfrozen, hg, Bool.false_eq_true, if_false, Bool.not_true]
  rw [if_neg hsel]

end Faults

/-! ### Responses (R317, R318) -/

theorem mbResponse_malformed {k i : Nat} {g : MtrCfg} {b : Bytes} (h : longBody b = none) (s : State) :
    mbResponse k i g b s = mbAgain k (count bMBUS 1 s) := by
  simp only [mbResponse, h]

theorem mbResponse_valid {k i off : Nat} {g : MtrCfg} {b whole body : Bytes} {s : State} (hlong : longBody b = some whole)
    (hbody : (aflSplit whole).2 = body) (hctl : byteAt body 0 &&& 0xCF = 0x08) (haddr : mbAddrOk g body = true)
    (hhead : mbHeader body = some (0, off)) (hmode : g.mode0 = true) :
    mbResponse k i g b s = mbValid k i g (mtrGet s k i).last (body.drop off) s := by
  simp only [mbResponse, hlong, hbody, hctl, haddr, hhead, hmode]
  rfl

/-- Errors counted change the counters of their block alone. -/
theorem countN_eq (b c n : Nat) (s : State) : ∃ x, countN b c n s = { s with blk := x } := by
  induction n generalizing s with
  | zero => exact ⟨_, rfl⟩
  | succ n ih =>
    obtain ⟨x, hx⟩ := ih (count b c s)
    exact ⟨x, hx⟩

/-- A meter after a valid response: MISS 0, ONLINE and the next frame count bit. -/
def answeredMeter (v : Meter) (last : Option W64) (mfn : W64) : Meter :=
  { v with miss := 0, st := snONLINE, fcb := !v.fcb, last := last, lastMfn := mfn }

/-- The values of the mapped records, each with whether its record is missing or another one. -/
def mappedValues (g : MtrCfg) (recs : Bytes) (now : W64) : List (MbVal × Bool) :=
  g.map.zipIdx.map fun p => mapRec now p.1 (mbRecs (recs.length + 1) recs)[p.2]?

/-- A valid response ends the exchange and leaves the mapped values for the receive slot. -/
theorem mbValid_ends (k i : Nat) (g : MtrCfg) (last : Option W64) (recs : Bytes) (s : State) :
    let t := mbValid k i g last recs s
    mbGet t k = exchangeEnded s k i (answeredMeter (mtrGet s k i) last s.sched.mfn)
      ((mappedValues g recs s.time.tbc).map (·.1)) ∧ t.out = s.out := by
  obtain ⟨x, hx⟩ := countN_eq bMBUS 5 ((mappedValues g recs s.time.tbc).filter (·.2)).length
    (mtrPut s k i (answeredMeter (mtrGet s k i) last s.sched.mfn))
  have hvalid : mbValid k i g last recs s = mbEnd k (mbAdd k ((mappedValues g recs s.time.tbc).map (·.1))
      { mtrPut s k i (answeredMeter (mtrGet s k i) last s.sched.mfn) with blk := x }) := by
    rw [← hx]
    rfl
  rw [hvalid]
  exact ⟨mbGet_mbEnd rfl _, rfl⟩

/-- The clause of O47 on what a waiting master hears. -/
theorem waitingMaster_hears (k : Fin 6) (g : MtrCfg) (s : State) (hstate : (mbGet s k).state ≠ 0) (hfrozen : frozenM s 19 = false)
    (hg : mtrCfg s k (mbGet s k).meter = some g) :
    let m := mbGet s k
    FaultRepeated k g s (.mbusResponseTimeout k) 0 ∧ FaultRepeated k g s (.rspUd k .collision) 2 ∧
    (∀ b, FaultRepeated k g s (.rspUd k (.frame b false)) 1) ∧
    (m.state ≠ 1 → ∀ b, longBody b = none → FaultRepeated k g s (.rspUd k (.frame b true)) 1) ∧
    (m.state = 1 → Gives (.rspUd k (.frame [0xE5] true)) s (fun t => (mbGet t k).state = 3 ∧ t.blk = s.blk ∧
      t.out = .mbus k (reqFrame g (mtrGet s k m.meter).fcb) :: s.out)) ∧
    ∀ b whole body off, m.state ≠ 1 → longBody b = some whole → (aflSplit whole).2 = body → byteAt body 0 &&& 0xCF = 0x08 → mbAddrOk g body = true → mbHeader body = some (0, off) →
      g.mode0 = true → Gives (.rspUd k (.frame b true)) s (fun t => (mbGet t k).state = 0 ∧ (mbGet t k).done = m.done + 1 ∧ t.out = s.out ∧
        (mtrGet t k m.meter).miss = 0 ∧ (mtrGet t k m.meter).st = snONLINE ∧ (mtrGet t k m.meter).fcb = !(mtrGet s k m.meter).fcb ∧
        (mbGet t k).values = m.values ++ g.map.zipIdx.map (fun p =>
          (mapRec s.time.tbc p.1 (mbRecs ((body.drop off).length + 1) (body.drop off))[p.2]?).1)) := by
  refine ⟨faultRepeated_of_exec (by decide) hg (exec_mbusResponseTimeout hstate hfrozen),
    faultRepeated_of_exec (by decide) hg (exec_rspUd_collision hstate hfrozen hg),
    fun b => faultRepeated_of_exec (by decide) hg (exec_rspUd_parity hstate hfrozen hg b),
    fun hsel b hlong => faultRepeated_of_exec (by decide) hg
      ((exec_rspUd_response hstate hfrozen hg hsel b).trans (congrArg _ (mbResponse_malformed hlong s))),
    fun hsel => ⟨_, exec_rspUd_selected hstate hfrozen hg hsel, ?_, rfl, rfl⟩, ?_⟩
  · exact congrArg MbMaster.state (mbGet_mbPut_same ..)
  · intro b whole body off hsel hlong hbody hctl haddr hhead hmode
    have hexec := (exec_rspUd_response hstate hfrozen hg hsel b).trans
      (congrArg _ (mbResponse_valid hlong hbody hctl haddr hhead hmode))
    obtain ⟨hu, hout⟩ := mbValid_ends k (mbGet s k).meter g (mtrGet s k (mbGet s k).meter).last (body.drop off) s
    refine ⟨_, hexec, congrArg MbMaster.state hu, congrArg MbMaster.done hu, hout, ?_, ?_, ?_,
      (congrArg MbMaster.values hu).trans ?_⟩
    · exact congrArg Meter.miss (mtrGet_ended hu)
    · exact congrArg Meter.st (mtrGet_ended hu)
    · exact congrArg Meter.fcb (mtrGet_ended hu)
    · show _ ++ List.map _ (mappedValues ..) = _
      rw [mappedValues, List.map_map]
      rfl

end Sys2Proof.Proofs
end

section
/-! PROOFS. The receive slot of MBUS (R174, R317): the values of each master are staged once. -/

namespace Sys2Proof.Proofs

open Sys2Proof.Machine Sys2Proof.Laws

/-- The receive slot's turn of one master. -/
def mbTake (s : State) (k : Nat) : State := (mbGet s k).values.foldl mbStage (mbPut s k { mbGet s k with values := [] })

theorem mbusReceive_eq {s : State} (h : drives s = true) : mbusReceive s = (List.range 6).foldl mbTake s := by
  rw [mbusReceive, h]
  rfl

/-- Two states that differ in the stored form of the masters alone. -/
def SameMasters (s t : State) : Prop := (∃ x, t = { s with mbus := x }) ∧ ∀ j, mbGet t j = mbGet s j

theorem sameMasters_refl (s : State) : SameMasters s s := ⟨⟨_, rfl⟩, fun _ => rfl⟩

theorem SameMasters.trans {s t u : State} (h : SameMasters s t) (h' : SameMasters t u) : SameMasters s u := by
  obtain ⟨⟨x, rfl⟩, hst⟩ := h
  obtain ⟨⟨y, rfl⟩, htu⟩ := h'
  exact ⟨⟨y, rfl⟩, fun j => (htu j).trans (hst j)⟩

/-- A master without values has nothing to stage. -/
theorem mbTake_empty {s : State} {k : Nat} (h : (mbGet s k).values = []) : SameMasters s (mbTake s k) := by
  have hsame : { mbGet s k with values := [] } = mbGet s k := by rw [← h]
  rw [mbTake, h, hsame]
  refine ⟨⟨_, rfl⟩, fun j => (mbGet_mbPut ..).trans ?_⟩
  split_ifs with hj
  · rw [hj]
  · rfl

theorem foldl_mbTake_empty (l : List Nat) : ∀ {s : State}, (∀ j ∈ l, (mbGet s j).values = []) → SameMasters s (l.foldl mbTake s) := by
  induction l with
  | nil => exact fun _ => sameMasters_refl _
  | cons k l ih =>
    intro s h
    have hk := mbTake_empty (h k List.mem_cons_self)
    exact hk.trans (ih fun j hj => (congrArg MbMaster.values (hk.2 j)).trans (h j (List.mem_cons_of_mem _ hj)))

/-- A value for a point of TYPE F64, or its quality alone, goes into the point's entry. -/
theorem mbStage_inside {s : State} {v : MbVal} {e : Nat} (he : entryOf s v.point = some e) (hf : frozenM s 19 = false)
    (hw : inWindow s 19 (stageAddr e) 16 true = true) (htyp : (workPt s v.point).typ = 7) : mbStage s v =
      { s with pimg := { s.pimg with staging := tblPut s.pimg.staging e (stagedEntry s e v.value v.qual) {} } } := by
  cases hv : v.value with
  | none =>
    simp only [mbStage, hv]
    exact stagePoint_inside he hf hw none v.qual
  | some x =>
    simp only [mbStage, hv]
    exact (stageF_f64 htyp x v.qual).trans (stagePoint_inside he hf hw (some x) v.qual)

/-- Where one master holds one value, the receive slot stages that value and empties the master. -/
theorem mbusReceive_one {k e : Nat} {v : MbVal} {s : State} (hk : k < 6) (hdrives : drives s = true) (hv : (mbGet s k).values = [v])
    (hothers : ∀ j, j ≠ k → (mbGet s j).values = []) (he : entryOf s v.point = some e) (hf : frozenM s 19 = false)
    (hw : inWindow s 19 (stageAddr e) 16 true = true) (htyp : (workPt s v.point).typ = 7) :
    (mbGet (mbusReceive s) k).values = [] ∧
      (mbusReceive s).pimg.staging = tblPut s.pimg.staging e (stagedEntry s e v.value v.qual) {} := by
  obtain ⟨l₁, l₂, hsplit⟩ := List.append_of_mem (List.mem_range.mpr hk)
  have hnodup : (l₁ ++ k :: l₂).Nodup := hsplit ▸ List.nodup_range
  have hnot : k ∉ l₁ ∧ k ∉ l₂ := by
    simpa using (List.nodup_middle.mp hnodup).notMem
  have hbefore := foldl_mbTake_empty l₁ (s := s) fun j hj => hothers j fun h => hnot.1 (h ▸ hj)
  rw [mbusReceive_eq hdrives, hsplit, List.foldl_append, List.foldl_cons]
  obtain ⟨⟨x, hx⟩, hsame⟩ := hbefore
  set s₁ := l₁.foldl mbTake s
  have hturn : mbTake s₁ k = mbStage (mbPut s₁ k { mbGet s₁ k with values := [] }) v := by
    rw [mbTake, hsame k, hv]
    rfl
  have hstaged : mbStage (mbPut s₁ k { mbGet s₁ k with values := [] }) v = _ :=
    mbStage_inside (by rw [hx]; exact he) (by rw [hx]; exact hf) (by rw [hx]; exact hw) (by rw [hx]; exact htyp)
  have hmasters : ∀ j, mbGet (mbTake s₁ k) j = if j = k then { mbGet s₁ k with values := [] } else mbGet s₁ j := by
    intro j
    rw [hturn, hstaged]
    exact mbGet_mbPut ..
  have hafter := foldl_mbTake_empty l₂ (s := mbTake s₁ k) fun j hj => by
    have hj' : j ≠ k := fun h => hnot.2 (h ▸ hj)
    rw [hmasters, if_neg hj', hsame]
    exact hothers j hj'
  obtain ⟨⟨y, hy⟩, hlast⟩ := hafter
  constructor
  · rw [hlast, hmasters, if_pos rfl]
  · rw [hy, hturn, hstaged, hx]
    rfl

/-- The clause of O47 on the receive slot. -/
theorem receiveSlot_stages (k : Fin 6) (v : MbVal) (x : F64) (e : Nat) (s : State) (hruns : linkRuns .mbus s = true)
    (hdrives : drives s = true) (hv : (mbGet s k).values = [v]) (hothers : ∀ j, j ≠ k.val → (mbGet s j).values = [])
    (he : entryOf s v.point = some e) (hw : inWindow s 19 (stageAddr e) 16 true = true)
    (hpoint : (tblGet s.pimg.staging e {}).point = v.point) (htyp : (workPt s v.point).typ = 7) :
    Gives (.receiveSlot .mbus) s (fun t =>
      let g := tblGet t.pimg.staging e {}
      let old := tblGet s.pimg.staging e {}
      (mbGet t k).values = [] ∧ (v.value = none → g = { old with qual := BitVec.ofNat 8 v.qual }) ∧
      (v.value = some x → nanF x = false → g.value = x ∧ g.isNew = true ∧ g.qual = BitVec.ofNat 8 v.qual) ∧
      ∀ j, j ≠ e → tblGet t.pimg.staging j {} = tblGet s.pimg.staging j {}) := by
  obtain ⟨-, hfrozen⟩ : enOf s bMBUS = true ∧ frozenM s 19 = false := linkRuns_spec hruns
  apply gives_receiveSlot_mbus hruns
  obtain ⟨y, hy⟩ := slotReached_eq bMBUS s
  rw [hy]
  obtain ⟨hempty, hstaging⟩ := mbusReceive_one (s := { s with blk := y }) k.isLt hdrives hv hothers he hfrozen hw htyp
  refine ⟨hempty, fun hnone => ?_, fun hsome _ => ?_, fun j hj => ?_⟩
  · rw [hstaging, tblGet_tblPut_same, hnone]
    rfl
  · have htyp' : (workPt { s with blk := y } (tblGet s.pimg.staging e {}).point).typ = 7 := by
      rw [hpoint]
      exact htyp
    rw [hstaging, tblGet_tblPut_same, hsome]
    refine ⟨?_, rfl, rfl⟩
    show typeBits (workPt { s with blk := y } (tblGet s.pimg.staging e {}).point).typ x = x
    rw [htyp']
    rfl
  · rw [hstaging, tblGet_tblPut_ne _ _ _ hj]

end Sys2Proof.Proofs
end

section
/-! PROOFS. The link descriptors (R322). -/

namespace Sys2Proof.Proofs

open Sys2Proof.Machine Sys2Proof.Laws

/-! ### Completions of CANL -/

/-- The descriptor has completed with the status of a failed check, CANL.CNT[11] has counted it, and CANL is as it was. -/
def RefusedByCanl (d : HostDesc) (st data : Nat) (s t : State) : Prop :=
  Answered d st data t ∧ Counted bCANL 11 s t ∧ t.canl = s.canl

theorem finCan_refused {d : HostDesc} {s : State} (hd : d ∈ (ringGet s d.ring).started) {st : Nat} (h : st ∈ canCounted)
    (data : Nat) : RefusedByCanl d st data s (finCan d st data s) := by
  have hst : st ≠ stOK := fun he => absurd (he ▸ h) (by decide)
  have hframe := complete_refused_frame (d := d) (data := data) hst (count bCANL 11 s)
  rw [finCan, finish_listed h]
  exact ⟨answered_complete st data (s := count bCANL 11 s) hd, counted_of_blk (u := s) rfl (congrArg State.blk hframe :),
    (congrArg State.canl hframe :)⟩

theorem complete_canl (d : HostDesc) (st data : Nat) (s : State) : (complete d st data s).canl = s.canl :=
  (congrArg State.canl (complete_frame d st data s) :)

theorem complete_sec (d : HostDesc) (st data : Nat) (s : State) : (complete d st data s).sec = s.sec :=
  (congrArg State.sec (complete_frame d st data s) :)

/-- Completions change neither CANL nor SEC. -/
theorem foldl_complete_links (st data : Nat) (ds : List HostDesc) (s : State) :
    (ds.foldl (fun s d => complete d st data s) s).canl = s.canl ∧ (ds.foldl (fun s d => complete d st data s) s).sec = s.sec := by
  induction ds generalizing s with
  | nil => exact ⟨rfl, rfl⟩
  | cons d ds ih =>
    obtain ⟨hcanl, hsec⟩ := ih (complete d st data s)
    exact ⟨hcanl.trans (complete_canl ..), hsec.trans (complete_sec ..)⟩

section Descriptors

variable {d : HostDesc} {s : State}

/-! ### LINK_READ -/

/-- A descriptor that needs no operator session leaves SEC as it was when it starts. -/
theorem entered_withoutOperator (h : operatorOp (dOp d) = false) : ∃ g, entered d s = withStarted g s.sec s := by
  unfold entered
  rw [h, Bool.not_false, Bool.or_true]
  exact ⟨_, rfl⟩

theorem toHost_canl (a : W64) (b : Bytes) (s : State) : (toHost a b s).canl = s.canl := by
  unfold toHost
  split_ifs <;> rfl

/-- Records that a completing descriptor sends. -/
theorem finCan_sends (hd : d ∈ (ringGet s d.ring).started) (b : Bytes) :
    let t := finCan d stOK 0 (toHost (dAddr d) b s)
    Answered d stOK 0 t ∧ t.canl = s.canl ∧ Delivered (dAddr d) b s t :=
  ⟨answered_complete (s := toHost (dAddr d) b s) stOK 0 (by rwa [toHost_started]), (complete_canl ..).trans (toHost_canl ..),
    delivered_complete ..⟩

theorem effLinkRead_range (h : 2 < d8 d 16 ∨ (d8 d 16 = 0 ∧ 1024 < d32 d 20 + d32 d 24) ∨ (d8 d 16 = 2 ∧ 40 < d32 d 20 + d32 d 24)) :
    effLinkRead d s = finCan d stRANGE 0 s := by
  refine if_pos ?_
  rcases h with h | ⟨hw, h⟩ | ⟨hw, h⟩
  · exact .inl h
  · rw [hw]
    exact .inr h
  · rw [hw]
    exact .inr h

theorem effLinkRead_stations (hw : d8 d 16 = 0) (h : d32 d 20 + d32 d 24 ≤ 1024) : effLinkRead d s =
    finCan d stOK 0 (toHost (dAddr d) ((List.range (d32 d 24)).map fun i => stnRecord s (d32 d 20 + i)).flatten s) := by
  unfold effLinkRead
  rw [hw]
  exact if_neg (not_or.mpr ⟨by decide, not_lt.mpr h⟩)

theorem effLinkRead_channels (hw : d8 d 16 = 2) (h : d32 d 20 + d32 d 24 ≤ 40) : effLinkRead d s =
    finCan d stOK 0 (toHost (dAddr d) ((List.range (d32 d 24)).map fun i => chRecord s (d32 d 20 + i)).flatten s) := by
  unfold effLinkRead
  rw [hw]
  exact if_neg (not_or.mpr ⟨by decide, not_lt.mpr h⟩)

/-- What holds of LINK_READ on every unit with other rings alone, its row gives. -/
theorem gives_linkRead {P : State → Prop} (hreach : Reaches 0x50 d s)
    (h : ∀ g, d ∈ (ringGet (withStarted g s.sec s) d.ring).started → P (effLinkRead d (withStarted g s.sec s))) :
    Gives (.linkRead d) s P := by
  obtain ⟨g, hg⟩ := entered_withoutOperator (s := s) (by rw [hreach.1]; rfl : operatorOp (dOp d) = false)
  have hstarted := mem_entered_started d s
  rw [hg] at hstarted
  refine ⟨effLinkRead d (withStarted g s.sec s), ?_, h g hstarted⟩
  show execLinkRead d s = _
  rw [execLinkRead, arrive_reaches effLinkRead hreach, hg]

theorem linkRead_acts (hreach : Reaches 0x50 d s) :
    let f := d32 d 20
    let n := d32 d 24
    (d8 d 16 = 0 → f + n ≤ 1024 → Gives (.linkRead d) s (fun t => Answered d stOK 0 t ∧ t.canl = s.canl ∧
      Delivered (dAddr d) ((List.range n).map fun i => stnRecord s (f + i)).flatten s t)) ∧
    (d8 d 16 = 2 → f + n ≤ 40 → Gives (.linkRead d) s (fun t => Answered d stOK 0 t ∧
      Delivered (dAddr d) ((List.range n).map fun i => chRecord s (f + i)).flatten s t)) ∧
    (2 < d8 d 16 ∨ (d8 d 16 = 0 ∧ 1024 < f + n) ∨ (d8 d 16 = 2 ∧ 40 < f + n) →
      Gives (.linkRead d) s (RefusedByCanl d stRANGE 0 s)) := by
  refine ⟨fun hw h => gives_linkRead hreach fun g hd => ?_, fun hw h => gives_linkRead hreach fun g hd => ?_,
    fun h => gives_linkRead hreach fun g hd => ?_⟩
  · rw [effLinkRead_stations hw h]
    exact finCan_sends hd _
  · rw [effLinkRead_channels hw h]
    obtain ⟨hans, -, hdel⟩ := finCan_sends hd ((List.range (d32 d 24)).map fun i => chRecord s (d32 d 20 + i)).flatten
    exact ⟨hans, hdel⟩
  · rw [effLinkRead_range h]
    exact finCan_refused hd (by decide) 0

/-! ### LINK_EVICT (R311, R322) -/

/-- A freeze leaves the descriptors and their completions alone. -/
theorem freeze_hif (m cause addr slot : Nat) (s : State) : (freeze m cause addr slot s).hif = s.hif := by
  cases h : frozenM s m with
  | true => rw [freeze_frozen h]
  | false =>
    obtain ⟨data, heq⟩ := freeze_eq h cause addr slot
    obtain ⟨_, _, _, _, _, heffect⟩ := freezeEffect_eq m s
    rw [heq, irqEdge_hif, lantern_hif, count_hif, withFrozen, heffect]

theorem guarded_hif {ok : State → State} {s : State} (hok : (ok s).hif = s.hif) (m a n : Nat) (w : Bool) :
    (guarded m a n w ok s).hif = s.hif := by
  unfold guarded
  by_cases hf : frozenM s m = true
  · rw [if_pos hf]
  · rw [if_neg hf]
    by_cases hw : inWindow s m a n w = true
    · rw [if_pos hw, hok]
    · rw [if_neg hw, freeze_hif]

theorem stagePoint_hif (m p : Nat) (v : Option W64) (q : Nat) (s : State) : (stagePoint m p v q s).hif = s.hif := by
  unfold stagePoint
  split
  · exact guarded_hif rfl ..
  · rfl

theorem evict_hif (k : Nat) (s : State) : (evict k s).hif = s.hif := by
  have hstaged : ∀ (l : List MapEnt) (u : State), (l.foldl (fun u e => stagePoint 18 e.point none 2 u) u).hif = u.hif := by
    intro l
    induction l with
    | nil => exact fun _ => rfl
    | cons e l ih => exact fun u => (ih _).trans (stagePoint_hif ..)
  rw [evict, lantern_hif]
  exact hstaged ..

/-- An evicted station is in INIT, without a session (R308, R311). -/
theorem evict_frees (k : Nat) (s : State) : (stnGet (evict k s) k).st = snINIT ∧ sessGet (evict k s) k = {} := by
  constructor
  · rw [stnGet, evict, lantern_canl]
    exact congrArg Station.st (tblGet_tblPut_same ..)
  · rw [sessGet, evict, lantern_sec]
    exact tblGet_tblPut_same ..

/-- The unit in which the receive slot completes the LINK_EVICT descriptors of a station. -/
def evictedFor (s : State) (k : Nat) : State := evict k (stnPut s k { stnGet s k with evicts := [] })

/-- The receive slot ends a station that LINK_EVICT names, and completes the descriptor. -/
theorem evictAsked_evicts {k : Nat} (hd : d ∈ (ringGet s d.ring).started) (hasked : d ∈ (stnGet s k).evicts)
    (hinit : (stnGet s k).st ≠ snINIT) (hempty : (stnGet s k).st ≠ snEMPTY) : let t := evictAsked s k
    Answered d stOK 0 t ∧ (stnGet t k).st = snINIT ∧ sessGet t k = {} := by
  have hsome : (stnGet s k).evicts.isEmpty = false := List.isEmpty_eq_false_iff.mpr (List.ne_nil_of_mem hasked)
  have heq : evictAsked s k = (stnGet s k).evicts.foldl (fun s d => complete d stOK 0 s) (evictedFor s k) := by
    simp only [evictAsked, hsome, hinit, hempty, or_self, Bool.false_eq_true, if_false]
    rfl
  have hhif : (evictedFor s k).hif = s.hif := evict_hif ..
  obtain ⟨hst, hsess⟩ := evict_frees k (stnPut s k { stnGet s k with evicts := [] })
  obtain ⟨hcanl, hsec⟩ := foldl_complete_links stOK 0 (stnGet s k).evicts (evictedFor s k)
  rw [heq]
  refine ⟨answered_foldl_complete _ _ (.inr ⟨hasked, by rwa [ringGet, hhif]⟩), ?_, ?_⟩
  · exact (congrArg (fun c : CanlRegs => (tblGet c.stn k {}).st) hcanl).trans hst
  · exact (congrArg (fun c : SecRegs => tblGet c.sess k {}) hsec).trans hsess

theorem linkEvict_acts (hreach : Reaches 0x51 d s) : let k := d16 d 16
    (1024 ≤ k → Gives (.linkEvict d) s (RefusedByCanl d stRANGE 0 s)) ∧
    (k < 1024 → (stnGet s k).st = snINIT ∨ (stnGet s k).st = snEMPTY → Gives (.linkEvict d) s (RefusedByCanl d stNOT_READY 0 s)) ∧
    (k < 1024 → (stnGet s k).st ≠ snINIT → (stnGet s k).st ≠ snEMPTY → Gives (.linkEvict d) s (fun t => t.blk = s.blk ∧
      stnGet t k = { stnGet s k with evicts := (stnGet s k).evicts ++ [d] } ∧ Answered d stOK 0 (evictAsked t k) ∧
      (stnGet (evictAsked t k) k).st = snINIT ∧ sessGet (evictAsked t k) k = {})) := by
  intro k
  refine ⟨fun hk => gives_arrive rfl hreach fun g c hd => ?_, fun hk hst => gives_arrive rfl hreach fun g c hd => ?_,
    fun hk hinit hempty => gives_arrive rfl hreach fun g c hd => ?_⟩
  · have heff : effLinkEvict d (withStarted g c s) = finCan d stRANGE 0 (withStarted g c s) := if_pos hk
    rw [heff]
    exact finCan_refused hd (by decide) 0
  · have heff : effLinkEvict d (withStarted g c s) = finCan d stNOT_READY 0 (withStarted g c s) :=
      (if_neg (not_le.mpr hk)).trans (if_pos hst)
    rw [heff]
    exact finCan_refused hd (by decide) 0
  · have heff : effLinkEvict d (withStarted g c s) =
        stnPut (withStarted g c s) k { stnGet s k with evicts := (stnGet s k).evicts ++ [d] } :=
      (if_neg (not_le.mpr hk)).trans (if_neg (not_or.mpr ⟨hinit, hempty⟩))
    set t := effLinkEvict d (withStarted g c s)
    have hstn : stnGet t k = { stnGet s k with evicts := (stnGet s k).evicts ++ [d] } := by
      rw [heff]
      exact tblGet_tblPut_same ..
    have hblk : t.blk = s.blk := by
      rw [heff]
      rfl
    refine ⟨hblk, hstn, evictAsked_evicts ?_ ?_ ?_ ?_⟩
    · rw [heff]
      exact hd
    · rw [hstn]
      exact List.mem_append_right _ (List.mem_singleton.mpr rfl)
    · rw [hstn]
      exact hinit
    · rw [hstn]
      exact hempty

/-! ### LINK_BUSON -/

theorem linkBuson_acts (hreach : Reaches 0x52 d s) : let c := d8 d 16
    (40 ≤ c → Gives (.linkBuson d) s (RefusedByCanl d stRANGE 0 s)) ∧
    (c < 40 → (chGet s c).errst ≠ 2 → Gives (.linkBuson d) s (RefusedByCanl d stNOT_READY 0 s)) ∧
    (c < 40 → (chGet s c).errst = 2 → Gives (.linkBuson d) s (fun t => Answered d stOK 0 t ∧
      chGet t c = { chGet s c with errst := 3 })) := by
  intro c
  refine ⟨fun hc => gives_arrive rfl hreach fun g e hd => ?_, fun hc hst => gives_arrive rfl hreach fun g e hd => ?_,
    fun hc hst => gives_arrive rfl hreach fun g e hd => ?_⟩
  · have heff : effLinkBuson d (withStarted g e s) = finCan d stRANGE 0 (withStarted g e s) := if_pos hc
    rw [heff]
    exact finCan_refused hd (by decide) 0
  · have heff : effLinkBuson d (withStarted g e s) = finCan d stNOT_READY 0 (withStarted g e s) :=
      (if_neg (not_le.mpr hc)).trans (if_neg hst)
    rw [heff]
    exact finCan_refused hd (by decide) 0
  · have heff : effLinkBuson d (withStarted g e s) =
        complete d stOK 0 (chPut (withStarted g e s) c { chGet s c with errst := 3 }) :=
      (if_neg (not_le.mpr hc)).trans (if_pos hst)
    rw [heff]
    refine ⟨answered_complete stOK 0 hd, (chGet_congr (complete_canl ..) c).trans ?_⟩
    exact tblGet_tblPut_same ..

end Descriptors

/-- Settles O47: the due meters of a master are polled in the transmit slot (`transmitSlot_polls`), a waiting master repeats,
misses or takes the response (`waitingMaster_hears`), the receive slot stages what the meters left (`receiveSlot_stages`), and
each link descriptor completes after its checks. -/
theorem metersAreReadAndLinkDescriptors : Obligations.MetersAreReadAndLinkDescriptors :=
  ⟨transmitSlot_polls, waitingMaster_hears, receiveSlot_stages,
    fun _ _ => ⟨linkRead_acts, linkEvict_acts, linkBuson_acts⟩⟩

end Sys2Proof.Proofs
end

section
/-! PROOFS. The PTP engine of a port (R335 to R340): what its registers and its queue of messages keep, what each message
does, and the messages that the intervals send. -/

namespace Sys2Proof.Proofs

open Sys2Proof.Machine Sys2Proof.Laws

/-! ### Ports and PTP registers by number -/

theorem portGet_portPut_same (s : State) (p : Nat) (q : EthPort) : portGet (portPut s p q) p = q := tblGet_tblPut_same ..

theorem ptpGet_ptpPut_same (s : State) (p : Nat) (x : PtpRegs) : ptpGet (ptpPut s p x) p = x :=
  congrArg EthPort.ptp (portGet_portPut_same ..)

theorem ptpGet_congr {s t : State} (h : t.ethl = s.ethl) (p : Nat) : ptpGet t p = ptpGet s p := by
  rw [ptpGet, ptpGet, portGet, portGet, h]

/-- A message that waits is the last of its queue and keeps the capture that it answers. -/
theorem ptpQueue_waits (p t : Nat) (b : Bytes) (rx : W128) (steps : W16) (s : State) :
    let u := ptpQueue p t b rx steps s
    u.blk = s.blk ∧ ptpGet u p = ptpGet s p ∧
      ∃ e, (portGet u p).txPtp = (portGet s p).txPtp ++ [e] ∧ e.ptp = some t ∧ e.rx = rx ∧ e.rxSteps = steps := by
  intro u
  have hu : portGet u p = _ := portGet_portPut_same ..
  rw [ptpGet, hu]
  exact ⟨rfl, rfl, _, rfl, rfl, rfl, rfl⟩

/-- A partner that waits is counted where it is discarded (R338). -/
theorem countIf_isSome {α : Type} (o : Option α) {b n : Nat} {s u : State} (hu : u.blk = s.blk) :
    (o = none → (countIf o.isSome b n u).blk = s.blk) ∧ (o ≠ none → Counted b n s (countIf o.isSome b n u)) := by
  cases o with
  | none => exact ⟨fun _ => hu, fun h => absurd rfl h⟩
  | some _ => exact ⟨fun h => absurd h (Option.some_ne_none _), fun _ => counted_of_blk hu rfl⟩

/-! ### The use of a Sync (R340) -/

section Use

variable {g : EthCfg} {x : PtpRegs} {d21 d : Int} {k : W16}

theorem ptpMpd_e2e (hmode : g.p2p = false) (h : x.e2e = some (d, k)) : ptpMpd g x d21 k = some ((d21 + d).fdiv 2) := by
  simp only [ptpMpd, hmode, h, Bool.false_eq_true, if_false, if_true]

theorem ptpMpd_p2p (hmode : g.p2p = true) (h : x.p2p = some (d, k)) : ptpMpd g x d21 k = some d := by
  simp only [ptpMpd, hmode, h, if_true]

/-- Timestamps of different step counts are not combined (R335). -/
theorem ptpMpd_otherSteps (h : ∀ d j, (if g.p2p then x.p2p else x.e2e) = some (d, j) → j ≠ k) : ptpMpd g x d21 k = none := by
  unfold ptpMpd
  cases hmode : g.p2p <;> rw [hmode] at h
  · cases hx : x.e2e with
    | none => rfl
    | some e => exact if_neg (h e.1 e.2 hx)
  · cases hx : x.p2p with
    | none => rfl
    | some e => exact if_neg (h e.1 e.2 hx)

end Use

/-- The Sync of t1 and t2 has been used: with a delay exchange of its step count MPD and OFFSET are those of R340, else NOMPD
is 1. -/
def SyncUsed (p seq : Nat) (t1 : Int) (t2 : W128) (k : W16) (s t : State) : Prop :=
  let g := ethCfg s p
  let x := ptpGet s p
  let y := ptpGet t p
  let d21 := (t2.toNat : Int) - t1
  y.seq = BitVec.ofNat 16 seq ∧ y.t2 = t2 ∧ y.syncWait = none ∧ y.e2e = x.e2e ∧ y.p2p = x.p2p ∧
  (∀ d, g.p2p = false → x.e2e = some (d, k) → y.nompd = false ∧ y.mpd = BitVec.ofInt 64 ((d21 + d).fdiv 2) ∧
    y.offset = BitVec.ofInt 64 (d21 - ((d21 + d).fdiv 2 + g.asym))) ∧
  (∀ d, g.p2p = true → x.p2p = some (d, k) → y.nompd = false ∧ y.mpd = BitVec.ofInt 64 d ∧
    y.offset = BitVec.ofInt 64 (d21 - (d + g.asym))) ∧
  ((∀ d j, (if g.p2p then x.p2p else x.e2e) = some (d, j) → j ≠ k) → y.nompd = true ∧ y.mpd = x.mpd)

section Sync

variable {p seq : Nat} {t1 : Int} {t2 : W128} {k : W16} {s : State}

theorem ptpGet_useSync_mpd {m : Int} (h : ptpMpd (ethCfg s p) (ptpGet s p) ((t2.toNat : Int) - t1) k = some m) :
    ptpGet (useSync p seq t1 t2 k s) p =
      { ptpGet s p with
        seq := BitVec.ofNat 16 seq, t2 := t2, syncWait := none, nompd := false, mpd := BitVec.ofInt 64 m,
        offset := BitVec.ofInt 64 ((t2.toNat : Int) - t1 - (m + (ethCfg s p).asym)) } := by
  simp only [useSync, h]
  exact ptpGet_ptpPut_same ..

theorem ptpGet_useSync_nompd (h : ptpMpd (ethCfg s p) (ptpGet s p) ((t2.toNat : Int) - t1) k = none) :
    ptpGet (useSync p seq t1 t2 k s) p =
      { ptpGet s p with
        seq := BitVec.ofNat 16 seq, t2 := t2, syncWait := none, nompd := true, offset := (freeWord s).1 } := by
  simp only [useSync, h]
  exact ptpGet_ptpPut_same ..

theorem useSync_used (p seq : Nat) (t1 : Int) (t2 : W128) (k : W16) (s : State) :
    SyncUsed p seq t1 t2 k s (useSync p seq t1 t2 k s) := by
  have hkeeps : let y := ptpGet (useSync p seq t1 t2 k s) p
      y.seq = BitVec.ofNat 16 seq ∧ y.t2 = t2 ∧ y.syncWait = none ∧ y.e2e = (ptpGet s p).e2e ∧ y.p2p = (ptpGet s p).p2p := by
    cases h : ptpMpd (ethCfg s p) (ptpGet s p) ((t2.toNat : Int) - t1) k with
    | none => rw [ptpGet_useSync_nompd h]; exact ⟨rfl, rfl, rfl, rfl, rfl⟩
    | some m => rw [ptpGet_useSync_mpd h]; exact ⟨rfl, rfl, rfl, rfl, rfl⟩
  obtain ⟨hseq, ht2, hwait, he2e, hp2p⟩ := hkeeps
  refine ⟨hseq, ht2, hwait, he2e, hp2p, fun d hmode h => ?_, fun d hmode h => ?_, fun h => ?_⟩
  · rw [ptpGet_useSync_mpd (ptpMpd_e2e hmode h)]
    exact ⟨rfl, rfl, rfl⟩
  · rw [ptpGet_useSync_mpd (ptpMpd_p2p hmode h)]
    exact ⟨rfl, rfl, rfl⟩
  · rw [ptpGet_useSync_nompd (ptpMpd_otherSteps h)]
    exact ⟨rfl, rfl⟩

end Sync

/-! ### Reception of a message (R337, R338) -/

/-- The engine of the port takes the message: its link is up, PTP is on, and the message is well formed. -/
def TakesMessage (p : Fin 16) (m : PtpRx) (s : State) : Prop :=
  portUp s p = true ∧ (ethCfg s p).ptp = true ∧ malformed m.msg = false

/-- The message is an error of PTP and has no other effect on ETHL (R338). -/
def CountedMessage (s t : State) : Prop := t.ethl = s.ethl ∧ Counted bETHL 8 s t

theorem countedMessage_count (s : State) : CountedMessage s (count bETHL 8 s) := ⟨rfl, counted_count bETHL 8 s⟩

section Messages

variable {p : Fin 16} {m : PtpRx} {s : State}

theorem gives_malformed {i : Instr} {f : Nat → Bytes → W128 → W16 → State → State} (hexec : exec i s = .next (ptpRx f p m s))
    (hup : portUp s p = true) (hptp : (ethCfg s p).ptp = true) (hm : malformed m.msg = true) : Gives i s (CountedMessage s) := by
  have heff : ptpRx f p m s = count bETHL 8 s := by
    simp only [ptpRx, hup, hptp, hm, Bool.not_true, Bool.or_self, Bool.false_eq_true, if_false, if_true]
  exact ⟨_, hexec, heff ▸ countedMessage_count s⟩

theorem gives_message {i : Instr} {f : Nat → Bytes → W128 → W16 → State → State} {P : State → Prop}
    (hexec : exec i s = .next (ptpRx f p m s)) (ht : TakesMessage p m s)
    (h : P (f p m.msg (rxStamp s p m.cap m.frac) (stepsAt s m.cap) s)) : Gives i s P := by
  obtain ⟨hup, hptp, hm⟩ := ht
  have heff : ptpRx f p m s = f p m.msg (rxStamp s p m.cap m.frac) (stepsAt s m.cap) s := by
    simp only [ptpRx, hup, hptp, hm, Bool.not_true, Bool.or_self, Bool.false_eq_true, if_false]
  exact ⟨_, hexec, heff ▸ h⟩

theorem malformed_counted (hup : portUp s p = true) (hptp : (ethCfg s p).ptp = true) (hm : malformed m.msg = true) :
    ∀ i ∈ [Instr.sync p m, .followUp p m, .delayReq p m, .delayResp p m, .pdelayReq p m, .pdelayResp p m,
      .pdelayRespFollowUp p m, .announce p m], Gives i s (CountedMessage s) := by
  simp only [List.forall_mem_cons]
  exact ⟨gives_malformed rfl hup hptp hm, gives_malformed rfl hup hptp hm, gives_malformed rfl hup hptp hm,
    gives_malformed rfl hup hptp hm, gives_malformed rfl hup hptp hm, gives_malformed rfl hup hptp hm,
    gives_malformed rfl hup hptp hm, gives_malformed rfl hup hptp hm, List.forall_mem_nil _⟩

end Messages

/-! ### What each message does -/

section Effects

variable {p : Nat} {b : Bytes} {t : W128} {steps : W16} {s : State}

theorem onSync_oneStep (hslave : isSlave (ptpGet s p) = true) (hwait : (ptpGet s p).syncWait = none) (h : mTwoStep b = false) :
    onSync p b t steps s = useSync p (mSeq b) (mTime b + mCorr b) t steps s := by
  simp only [onSync, hslave, hwait, h, Bool.not_true, Bool.false_eq_true, if_false]
  rfl

theorem onSync_twoStep (hslave : isSlave (ptpGet s p) = true) (hwait : (ptpGet s p).syncWait = none) (h : mTwoStep b = true) :
    onSync p b t steps s = ptpPut s p { ptpGet s p with syncWait := some (mSeq b, mCorr b, t, steps) } := by
  simp only [onSync, hslave, hwait, h, Bool.not_true, Bool.false_eq_true, if_false, if_true]
  rfl

theorem onFollowUp_none (hslave : isSlave (ptpGet s p) = true) (hwait : (ptpGet s p).syncWait = none) :
    onFollowUp p b t steps s = count bETHL 8 s := by
  simp only [onFollowUp, hslave, hwait, Bool.not_true, Bool.false_eq_true, if_false]

theorem onFollowUp_some {q : Nat} {c : Int} {t2 : W128} {k : W16} (hslave : isSlave (ptpGet s p) = true)
    (hwait : (ptpGet s p).syncWait = some (q, c, t2, k)) : onFollowUp p b t steps s =
      if q = mSeq b then useSync p q (mTime b + mCorr b + c) t2 k s else count bETHL 8 s := by
  simp only [onFollowUp, hslave, hwait, Bool.not_true, Bool.false_eq_true, if_false]

theorem onDelayReq_answers (hmaster : (ptpGet s p).pstate = 6) (h : respWaiting (portGet s p) < 64) :
    ∃ r, onDelayReq p b t steps s = ptpQueue p mDelayResp r t steps s := by
  unfold onDelayReq
  rw [if_neg (not_not_intro hmaster), if_neg (not_le.mpr h)]
  exact ⟨_, rfl⟩

theorem onDelayReq_surplus (hmaster : (ptpGet s p).pstate = 6) (h : 64 ≤ respWaiting (portGet s p)) :
    onDelayReq p b t steps s = count bETHL 8 s := by
  unfold onDelayReq
  rw [if_neg (not_not_intro hmaster), if_pos h]

theorem onDelayResp_pairs {t3 : W128} {k : W16} (hslave : isSlave (ptpGet s p) = true)
    (hdreq : (ptpGet s p).dreq = some (mSeq b, t3, k)) (hport : slice b 44 10 = portId s p) :
    onDelayResp p b t steps s =
      ptpPut s p { ptpGet s p with e2e := some (mTime b - mCorr b - t3.toNat, k), dreq := none } := by
  simp only [onDelayResp, hdreq]
  exact if_pos ⟨hslave, trivial, hport⟩

theorem onPdelayReq_answers (hdisabled : (ptpGet s p).pstate ≠ 3) (hfaulty : (ptpGet s p).pstate ≠ 2) :
    ∃ r, onPdelayReq p b t steps s = ptpQueue p mPdelayResp r t steps s :=
  ⟨_, if_neg (not_or.mpr ⟨hdisabled, hfaulty⟩)⟩

theorem onPdelayReq_off (h : (ptpGet s p).pstate = 3 ∨ (ptpGet s p).pstate = 2) : onPdelayReq p b t steps s = s := if_pos h

/-- The peer-delay exchange is complete with the time that the turn at the other end has taken (R340). -/
theorem pdelayDone_regs {n : Nat} {t1 t4 : W128} {k j : W16} (hpdreq : (ptpGet s p).pdreq = some (n, t1, k)) (turn : Int) :
    (pdelayDone p turn t4 j s).blk = s.blk ∧ ptpGet (pdelayDone p turn t4 j s) p =
      { ptpGet s p with
        pdreq := none, pdWait := none,
        p2p := if k = j then some ((((t4.toNat : Int) - t1.toNat) - turn).fdiv 2, k) else (ptpGet s p).p2p } := by
  simp only [pdelayDone, hpdreq]
  exact ⟨rfl, ptpGet_ptpPut_same ..⟩

section PdelayResp

variable {t1 : W128} {k : W16} (hpdreq : (ptpGet s p).pdreq = some (mSeq b, t1, k)) (hport : slice b 44 10 = portId s p)

include hpdreq hport

theorem onPdelayResp_oneStep (h : mTwoStep b = false) : onPdelayResp p b t steps s = pdelayDone p (mCorr b) t steps s := by
  simp only [onPdelayResp, hpdreq, h, hport, and_self, Bool.false_eq_true, if_false, if_true]

theorem onPdelayResp_twoStep (hwait : (ptpGet s p).pdWait = none) (h : mTwoStep b = true) : onPdelayResp p b t steps s =
    ptpPut s p { ptpGet s p with pdWait := some (mSeq b, mCorr b - mTime b, t, steps) } := by
  simp only [onPdelayResp, hpdreq, h, hport, hwait, and_self, if_true]
  rfl

end PdelayResp

theorem onPdelayFu_none (hwait : (ptpGet s p).pdWait = none) : onPdelayFu p b t steps s = count bETHL 8 s := by
  simp only [onPdelayFu, hwait]

theorem onPdelayFu_pairs {c : Int} {t4 : W128} {j : W16} (hwait : (ptpGet s p).pdWait = some (mSeq b, c, t4, j)) :
    onPdelayFu p b t steps s = pdelayDone p (mTime b + mCorr b + c) t4 j s := by
  simp only [onPdelayFu, hwait, if_true]

end Effects

end Sys2Proof.Proofs
end

section
/-! PROOFS. The clauses of the obligation about PTP messages and intervals, and the obligation (R335 to R340). -/

namespace Sys2Proof.Proofs

open Sys2Proof.Machine Sys2Proof.Laws

/-! ### Messages -/

section Messages

variable {p : Fin 16} {m : PtpRx} {s : State} (ht : TakesMessage p m s)

include ht

theorem sync_acts (hslave : isSlave (ptpGet s p) = true) (hwait : (ptpGet s p).syncWait = none) :
    (mTwoStep m.msg = false → Gives (.sync p m) s
      (SyncUsed p (mSeq m.msg) (mTime m.msg + mCorr m.msg) (rxStamp s p m.cap m.frac) (stepsAt s m.cap) s)) ∧
    (mTwoStep m.msg = true → Gives (.sync p m) s (fun t => t.blk = s.blk ∧ ptpGet t p =
      { ptpGet s p with syncWait := some (mSeq m.msg, mCorr m.msg, rxStamp s p m.cap m.frac, stepsAt s m.cap) })) ∧
    Gives (.followUp p m) s (CountedMessage s) := by
  refine ⟨fun h => gives_message rfl ht ?_, fun h => gives_message rfl ht ?_, gives_message rfl ht ?_⟩
  · rw [onSync_oneStep hslave hwait h]
    exact useSync_used ..
  · rw [onSync_twoStep hslave hwait h]
    exact ⟨rfl, ptpGet_ptpPut_same ..⟩
  · rw [onFollowUp_none hslave hwait]
    exact countedMessage_count s

theorem followUp_acts (q : Nat) (c : Int) (t2 : W128) (k : W16) (hslave : isSlave (ptpGet s p) = true)
    (hwait : (ptpGet s p).syncWait = some (q, c, t2, k)) :
    (q = mSeq m.msg → Gives (.followUp p m) s (SyncUsed p q (mTime m.msg + mCorr m.msg + c) t2 k s)) ∧
    (q ≠ mSeq m.msg → Gives (.followUp p m) s (CountedMessage s)) := by
  refine ⟨fun h => gives_message rfl ht ?_, fun h => gives_message rfl ht ?_⟩
  · rw [onFollowUp_some hslave hwait, if_pos h]
    exact useSync_used ..
  · rw [onFollowUp_some hslave hwait, if_neg h]
    exact countedMessage_count s

theorem delayReq_acts (hmaster : (ptpGet s p).pstate = 6) :
    (respWaiting (portGet s p) < 64 → Gives (.delayReq p m) s (fun t => t.blk = s.blk ∧
      ∃ e, (portGet t p).txPtp = (portGet s p).txPtp ++ [e] ∧ e.ptp = some mDelayResp)) ∧
    (64 ≤ respWaiting (portGet s p) → Gives (.delayReq p m) s (CountedMessage s)) := by
  refine ⟨fun h => gives_message rfl ht ?_, fun h => gives_message rfl ht ?_⟩
  · obtain ⟨r, hr⟩ := onDelayReq_answers (b := m.msg) (t := rxStamp s p m.cap m.frac) (steps := stepsAt s m.cap) hmaster h
    rw [hr]
    obtain ⟨hblk, -, e, htx, htype, -⟩ := ptpQueue_waits p mDelayResp r (rxStamp s p m.cap m.frac) (stepsAt s m.cap) s
    exact ⟨hblk, e, htx, htype⟩
  · rw [onDelayReq_surplus hmaster h]
    exact countedMessage_count s

theorem delayResp_acts (t3 : W128) (k : W16) (hslave : isSlave (ptpGet s p) = true)
    (hdreq : (ptpGet s p).dreq = some (mSeq m.msg, t3, k)) (hport : slice m.msg 44 10 = portId s p) :
    Gives (.delayResp p m) s (fun t => t.blk = s.blk ∧
      ptpGet t p = { ptpGet s p with e2e := some (mTime m.msg - mCorr m.msg - t3.toNat, k), dreq := none }) := by
  refine gives_message rfl ht ?_
  rw [onDelayResp_pairs hslave hdreq hport]
  exact ⟨rfl, ptpGet_ptpPut_same ..⟩

theorem pdelayReq_answered (hdisabled : (ptpGet s p).pstate ≠ 3) (hfaulty : (ptpGet s p).pstate ≠ 2) :
    Gives (.pdelayReq p m) s (fun t => t.blk = s.blk ∧ ∃ e, (portGet t p).txPtp = (portGet s p).txPtp ++ [e] ∧
      e.ptp = some mPdelayResp ∧ e.rx = rxStamp s p m.cap m.frac ∧ e.rxSteps = stepsAt s m.cap) := by
  refine gives_message rfl ht ?_
  obtain ⟨r, hr⟩ :=
    onPdelayReq_answers (b := m.msg) (t := rxStamp s p m.cap m.frac) (steps := stepsAt s m.cap) hdisabled hfaulty
  rw [hr]
  obtain ⟨hblk, -, hwaits⟩ := ptpQueue_waits p mPdelayResp r (rxStamp s p m.cap m.frac) (stepsAt s m.cap) s
  exact ⟨hblk, hwaits⟩

theorem pdelayReq_ignored (h : (ptpGet s p).pstate = 3 ∨ (ptpGet s p).pstate = 2) :
    Gives (.pdelayReq p m) s (fun t => t = s) :=
  gives_message rfl ht (onPdelayReq_off h)

theorem pdelayResp_acts (t1 : W128) (k : W16) (hpdreq : (ptpGet s p).pdreq = some (mSeq m.msg, t1, k))
    (hport : slice m.msg 44 10 = portId s p) (hwait : (ptpGet s p).pdWait = none) :
    let ts := rxStamp s p m.cap m.frac
    let steps := stepsAt s m.cap
    (mTwoStep m.msg = false → Gives (.pdelayResp p m) s (fun t => (ptpGet t p).pdreq = none ∧ t.blk = s.blk ∧ (ptpGet t p).p2p =
      if k = steps then some ((((ts.toNat : Int) - t1.toNat) - mCorr m.msg).fdiv 2, k) else (ptpGet s p).p2p)) ∧
    (mTwoStep m.msg = true → Gives (.pdelayResp p m) s (fun t => t.blk = s.blk ∧
      ptpGet t p = { ptpGet s p with pdWait := some (mSeq m.msg, mCorr m.msg - mTime m.msg, ts, steps) })) ∧
    Gives (.pdelayRespFollowUp p m) s (CountedMessage s) := by
  refine ⟨fun h => gives_message rfl ht ?_, fun h => gives_message rfl ht ?_, gives_message rfl ht ?_⟩
  · rw [onPdelayResp_oneStep hpdreq hport h]
    obtain ⟨hblk, hregs⟩ := pdelayDone_regs (t4 := rxStamp s p m.cap m.frac) (j := stepsAt s m.cap) hpdreq (mCorr m.msg)
    rw [hregs]
    exact ⟨rfl, hblk, rfl⟩
  · rw [onPdelayResp_twoStep hpdreq hport hwait h]
    exact ⟨rfl, ptpGet_ptpPut_same ..⟩
  · rw [onPdelayFu_none hwait]
    exact countedMessage_count s

theorem pdelayRespFollowUp_acts (n : Nat) (t1 : W128) (k : W16) (c : Int) (t4 : W128) (j : W16)
    (hpdreq : (ptpGet s p).pdreq = some (n, t1, k)) (hwait : (ptpGet s p).pdWait = some (mSeq m.msg, c, t4, j)) :
    Gives (.pdelayRespFollowUp p m) s (fun t => (ptpGet t p).pdreq = none ∧ (ptpGet t p).pdWait = none ∧ t.blk = s.blk ∧
      (ptpGet t p).p2p = if k = j then some ((((t4.toNat : Int) - t1.toNat) - (mTime m.msg + mCorr m.msg + c)).fdiv 2, k)
        else (ptpGet s p).p2p) := by
  refine gives_message rfl ht ?_
  rw [onPdelayFu_pairs hwait]
  obtain ⟨hblk, hregs⟩ := pdelayDone_regs (t4 := t4) (j := j) hpdreq (mTime m.msg + mCorr m.msg + c)
  rw [hregs]
  exact ⟨rfl, rfl, hblk, rfl⟩

theorem announce_passed : Gives (.announce p m) s (fun t => t.blk = s.blk ∧
    ptpGet t p = { ptpGet s p with announces := (ptpGet s p).announces ++ [m.msg] }) :=
  gives_message rfl ht ⟨rfl, ptpGet_ptpPut_same ..⟩

end Messages

/-! ### Intervals and time-outs (R337, R338) -/

section Intervals

variable {p : Fin 16} {s : State}

/-- A message of the type waits behind the others of its queue, no counter has changed, and `P` holds of the engine. -/
def Queued (p : Fin 16) (ty : Nat) (P : PtpRegs → Prop) (s t : State) : Prop :=
  t.blk = s.blk ∧ P (ptpGet t p) ∧ ∃ e, (portGet t p).txPtp = (portGet s p).txPtp ++ [e] ∧ e.ptp = some ty

/-- A message sent with the next sequenceId, in a unit in which at most free values have been taken. -/
theorem ptpQueue_next {u : State} (hblk : u.blk = s.blk) (hethl : u.ethl = s.ethl) (ty : Nat) (r : Bytes) {x : PtpRegs}
    {P : PtpRegs → Prop} (h : P x) : Queued p ty P s (ptpQueue p ty r 0 0 (ptpPut u p x)) := by
  obtain ⟨hb, hregs, e, htx, htype, -⟩ := ptpQueue_waits p ty r 0 0 (ptpPut u p x)
  have hport : portGet (ptpPut u p x) p = { portGet u p with ptp := x } := portGet_portPut_same ..
  have hsame : portGet u p = portGet s p := by rw [portGet, portGet, hethl]
  refine ⟨hb.trans hblk, ?_, e, ?_, htype⟩
  · rw [hregs, ptpGet_ptpPut_same]
    exact h
  · rw [htx, hport, hsame]

theorem master_sends (hon : ptpActive s p = true) (hmaster : (ptpGet s p).pstate = 6) :
    Gives (.syncInterval p) s (Queued p mSync (fun y => y.seqSync = (ptpGet s p).seqSync + 1) s) ∧
    Gives (.announceInterval p) s (Queued p mAnnounce (fun y => y.seqAnn = (ptpGet s p).seqAnn + 1) s) := by
  have hsends : ptpActive s p = true ∧ (ptpGet s p).pstate = 6 := ⟨hon, hmaster⟩
  exact ⟨⟨_, congrArg Host.Outcome.next (if_pos hsends), ptpQueue_next rfl rfl _ _ rfl⟩,
    ⟨_, congrArg Host.Outcome.next (if_pos hsends), ptpQueue_next (s := s) (u := (randomBytes 30 s).2) rfl rfl _ _ (by rfl)⟩⟩

theorem notMaster_silent (h : (ptpGet s p).pstate ≠ 6) :
    Gives (.syncInterval p) s (fun t => t = s) ∧ Gives (.announceInterval p) s (fun t => t = s) :=
  ⟨⟨s, congrArg Host.Outcome.next (if_neg fun hon => h hon.2), rfl⟩,
    ⟨s, congrArg Host.Outcome.next (if_neg fun hon => h hon.2), rfl⟩⟩

theorem slave_requests (hon : ptpActive s p = true) (hslave : isSlave (ptpGet s p) = true) (hmode : (ethCfg s p).p2p = false) :
    Gives (.delayReqInterval p) s (Queued p mDelayReq (fun y => y.seqReq = (ptpGet s p).seqReq + 1) s) := by
  refine ⟨_, congrArg Host.Outcome.next (if_pos ⟨hon, hslave, ?_⟩), ptpQueue_next rfl rfl _ _ rfl⟩
  rw [hmode]
  rfl

theorem peer_requests (hon : ptpActive s p = true) (hmode : (ethCfg s p).p2p = true) :
    Gives (.pdelayReqInterval p) s (Queued p mPdelayReq (fun y => y.seqPdreq = (ptpGet s p).seqPdreq + 1) s) :=
  ⟨_, congrArg Host.Outcome.next (if_pos ⟨hon, hmode⟩), ptpQueue_next rfl rfl _ _ rfl⟩

/-- The partner that waits, a Sync or a Pdelay_Resp, is discarded, and counted where there was one. -/
theorem followUpTimeout_discards :
    Gives (.followUpTimeout ⟨p, false⟩) s (fun t => ptpGet t p = { ptpGet s p with syncWait := none } ∧
      ((ptpGet s p).syncWait = none → t.blk = s.blk) ∧ ((ptpGet s p).syncWait ≠ none → Counted bETHL 8 s t)) ∧
    Gives (.followUpTimeout ⟨p, true⟩) s (fun t => ptpGet t p = { ptpGet s p with pdWait := none } ∧
      ((ptpGet s p).pdWait = none → t.blk = s.blk) ∧ ((ptpGet s p).pdWait ≠ none → Counted bETHL 8 s t)) :=
  ⟨⟨_, rfl, (ptpGet_congr (countIf_ethl ..) p).trans (ptpGet_ptpPut_same ..), countIf_isSome _ rfl⟩,
    ⟨_, rfl, (ptpGet_congr (countIf_ethl ..) p).trans (ptpGet_ptpPut_same ..), countIf_isSome _ rfl⟩⟩

end Intervals

/-- Settles O49: a malformed message is counted (`malformed_counted`), every other one has the effect of its type, the use of a
Sync being `useSync_used`; the intervals queue their messages with the next sequenceId (`ptpQueue_next`), and a time-out discards
the partner that waits. -/
theorem ptpMessagesArePairedAndAnswered : Obligations.PtpMessagesArePairedAndAnswered := by
  refine ⟨fun p m s hup hptp => ⟨malformed_counted hup hptp, fun hm => ?_⟩, fun p s => ?_⟩
  · have ht : TakesMessage p m s := ⟨hup, hptp, hm⟩
    exact ⟨sync_acts ht, followUp_acts ht, delayReq_acts ht, delayResp_acts ht, pdelayReq_answered ht, pdelayReq_ignored ht,
      pdelayResp_acts ht, pdelayRespFollowUp_acts ht, announce_passed ht⟩
  · have hactive : portUp s p = true ∧ (ethCfg s p).ptp = true → ptpActive s p = true := fun h => Bool.and_eq_true_iff.mpr h
    obtain ⟨hsync, hpeer⟩ := followUpTimeout_discards (p := p) (s := s)
    exact ⟨fun hon => master_sends (hactive hon), notMaster_silent, fun hon => slave_requests (hactive hon),
      fun hon => peer_requests (hactive hon), hsync, hpeer⟩

end Sys2Proof.Proofs
end

section
/-! PROOFS. The refutation about Ethernet frames (R326, R347, R458): a link drop that ends a drain whose descriptor an owner
signed. -/

namespace Sys2Proof.Proofs

open Sys2Proof.Machine Sys2Proof.Laws

/-! ### A signed completion where the audit log is full (R456, R458) -/

/-- The completion OK of an owner-signed descriptor creates an audit record, which a full log counts in REC. -/
theorem complete_signed_fullLog_blk {d : HostDesc} {oc : W64} {u : State} (hsigned : d.signed = some oc) (hfull : audFull u = true)
    (data : Nat) : (complete d stOK data u).blk = (count bREC 3 u).blk := by
  obtain ⟨h, heq⟩ := complete_eq d stOK data u
  have haudit : auditDesc d u = count bREC 3 u := by
    simp only [auditDesc, hsigned]
    exact audit_full hfull ..
  rw [heq, if_pos rfl, haudit]

/-! ### The end of a drain by a link drop (R326, R347) -/

/-- Where every frame on a wire ends later, no frame leaves. -/
theorem wiresTick_none {s : State} (h : ∀ kv ∈ s.ethl.port, ∀ w, kv.2.wire = some w → s.time.tbc.toNat < w.ends.toNat) :
    wiresTick s = s := by
  unfold wiresTick
  refine List.foldlRecOn (motive := fun u => u = s) _ _ rfl fun u hu kv hkv => ?_
  subst hu
  cases hw : kv.2.wire with
  | none => rfl
  | some w => exact if_neg (not_le.mpr (h kv hkv w hw))

theorem mc1Done_drains (x : EthTx) (ts : Option W128) (q : EthPort) : (mc1Done x ts q).drains = q.drains := by
  unfold mc1Done
  split <;> rfl

/-- An idle port ends its drain: a signed ETH_PORT completes, and a full audit log counts in REC. -/
theorem portIdle_fullLog_blk {p : Nat} {s : State} {d : HostDesc} {oc : W64} (hdrains : (portGet s p).drains = [d])
    (hsigned : d.signed = some oc) (hfull : audFull s = true) : (portIdle p s).blk = (count bREC 3 s).blk := by
  rw [portIdle, hdrains]
  exact complete_signed_fullLog_blk (u := portPut s p { portGet s p with drains := [] }) hsigned hfull 0

theorem wireCut_fullLog_blk {p : Nat} {s : State} {w : EthWire} {d : HostDesc} {oc : W64} (hwire : (portGet s p).wire = some w)
    (hdrains : (portGet s p).drains = [d]) (hsigned : d.signed = some oc) (hfull : audFull s = true) :
    (wireCut p s).blk = (count bREC 3 s).blk := by
  simp only [wireCut, hwire]
  refine portIdle_fullLog_blk (Eq.trans ?_ hdrains) hsigned hfull
  exact (congrArg EthPort.drains (portGet_portPut_same ..)).trans (mc1Done_drains ..)

/-- The drop of a link that was up, while every frame on a wire goes on (R326). -/
theorem execEthLinkDown_up {p : Fin 16} {s : State}
    (hends : ∀ kv ∈ s.ethl.port, ∀ w, kv.2.wire = some w → s.time.tbc.toNat < w.ends.toNat) (hlink : (portGet s p).link = true) :
    execEthLinkDown p s = .next (irqEdge 203 (count bETHL (if (portGet s p).wire.isSome then 13 else 10)
      (wireCut p (portPut s p { portGet s p with link := false, sync := false, andone := false })))) := by
  unfold execEthLinkDown
  dsimp only
  rw [wiresTick_none hends, if_pos hlink]

/-- A link drop that cuts a frame of a port which drains for a signed ETH_PORT counts in REC, too. -/
theorem ethLinkDown_fullLog_counts {p : Fin 16} {s t : State} {w : EthWire} {d : HostDesc} {oc : W64}
    (hends : ∀ kv ∈ s.ethl.port, ∀ w, kv.2.wire = some w → s.time.tbc.toNat < w.ends.toNat) (hlink : (portGet s p).link = true)
    (hwire : (portGet s p).wire = some w) (hdrains : (portGet s p).drains = [d]) (hsigned : d.signed = some oc)
    (hfull : audFull s = true) (hexec : exec (.ethLinkDown p) s = .next t) : cntOf t bREC 3 = satInc (cntOf s bREC 3) := by
  obtain rfl := Host.Outcome.next.inj ((execEthLinkDown_up hends hlink).symm.trans hexec)
  set u := portPut s p { portGet s p with link := false, sync := false, andone := false }
  have hport : portGet u p = { portGet s p with link := false, sync := false, andone := false } := portGet_portPut_same ..
  have hcut : (wireCut p u).blk = (count bREC 3 u).blk :=
    wireCut_fullLog_blk ((congrArg EthPort.wire hport).trans hwire) ((congrArg EthPort.drains hport).trans hdrains) hsigned hfull
  calc cntOf (count bETHL _ (wireCut p u)) bREC 3
    _ = cntOf (wireCut p u) bREC 3 := (counted_count ..).trans (if_neg fun h => absurd h.1 (by decide))
    _ = cntOf (count bREC 3 u) bREC 3 := cntOf_congr hcut ..
    _ = satInc (cntOf s bREC 3) := counted_count ..

/-- An owner-signed ETH_PORT that takes port 3 down. -/
def signedPortDesc : HostDesc :=
  { ring := 0, sqidx := 0, bytes := 0x59 :: zeros 15 ++ [3] ++ zeros 47, buf := [], readFail := false, signed := some 0,
    outerTag := 0 }

/-- A frame on the wire until cycle 512. -/
def longWire : EthWire := { tx := { bytes := zeros 60 }, bytes := zeros 60, ts := 0, steps := 0, start := 0, ends := 512 }

/-- A unit in cycle 0 whose audit log is full, with that frame on the wire of port 3, whose drain the descriptor waits for. -/
def drainingUnit : State := { State.reset with
  nvm := { formatted := true }, recs := { audCap := 0 }
  ethl := { port := [(3, { link := true, wire := some longWire, drains := [signedPortDesc] })] }
  hif := { rings := [(0, { started := [signedPortDesc] })] } }

theorem drainingUnit_ends : ∀ kv ∈ drainingUnit.ethl.port, ∀ w, kv.2.wire = some w →
    drainingUnit.time.tbc.toNat < w.ends.toNat := by
  intro kv hkv w hw
  obtain rfl := List.mem_singleton.mp hkv
  obtain rfl := Option.some.inj hw
  decide

/-- Refutes O48: the statement has a link drop that cuts a frame change no counter but ETHL.CNT[13]. The cut leaves the port idle
and so completes the ETH_PORT that waits for it (R347). Where an owner signed that descriptor, the completion creates an
audit record (R456), which a full log refuses and REC.CNT[3] counts (R458). -/
theorem not_ethernetFramesAreTakenAndSent : ¬ Obligations.EthernetFramesAreTakenAndSent := by
  rintro ⟨-, -, -, -, -, -, hlinks, -⟩
  obtain ⟨hdown, -⟩ := hlinks 3 drainingUnit drainingUnit_ends
  obtain ⟨t, hexec, -, -, -, -, -, hcounted, -⟩ := hdown rfl
  have hrec := ethLinkDown_fullLog_counts (w := longWire) (d := signedPortDesc) drainingUnit_ends rfl rfl rfl rfl (by decide) hexec
  have hkept : cntOf t bREC 3 = cntOf drainingUnit bREC 3 := hcounted bREC 3
  exact absurd (hkept.symm.trans hrec) (by decide)

end Sys2Proof.Proofs
end

section
/-! PROOFS. What the two invariants of every step look at, TIME.RATE, the MRAM and the DRAM, and that most operations
leave all three alone. -/

namespace Sys2Proof.Proofs

open Sys2Proof.Machine Sys2Proof.Laws

/-- The part of the unit that the two invariants of every step speak of: TIME.RATE, the MRAM and the DRAM. -/
abbrev Kept := W64 × Tbl Byte × Tbl Byte

def kept (s : State) : Kept := (s.time.rate, s.mram, s.dram)

/-- A command answers, and leaves TIME.RATE and the memories alone. -/
def Answers (s : State) (o : Host.Outcome State Fault Refusal) : Prop := ∃ t, o = .next t ∧ kept t = kept s

@[simp] theorem answers_next (s t : State) : Answers s (.next t) ↔ kept t = kept s := by simp [Answers]

/-- An update of other fields of a state shows none of them here: `kept_mk` takes the update apart and `kept_fold` puts the
three fields together again. -/
theorem kept_mk (a1 a2 a3 a4 a5 a6 a7 a8 a9 a10 a11 a12 a13 a14 a15 a16 a17 a18 a19 a20 a21 a22 a23 a24 a25 a26 a27 a28 a29 a30
      a31 a32) :
    kept (State.mk a1 a2 a3 a4 a5 a6 a7 a8 a9 a10 a11 a12 a13 a14 a15 a16 a17 a18 a19 a20 a21 a22 a23 a24 a25 a26 a27 a28 a29
      a30 a31 a32) = (a23.rate, a27, a28) := rfl

theorem kept_fold (s : State) : (s.time.rate, s.mram, s.dram) = kept s := rfl

@[simp] theorem kept_ite (c : Prop) [Decidable c] (a b : State) : kept (if c then a else b) = if c then kept a else kept b := by
  split <;> rfl

@[simp] theorem kept_foldl {α : Type} (f : State → α → State) (h : ∀ s a, kept (f s a) = kept s) (l : List α) (s : State) :
    kept (l.foldl f s) = kept s := by
  induction l generalizing s with
  | nil => rfl
  | cons a l ih => rw [List.foldl_cons, ih, h]

/-! ### The shared operations -/

@[simp] theorem kept_blkPut (s : State) (b : Nat) (v : Blk) : kept (blkPut s b v) = kept s := (rfl)

@[simp] theorem kept_setEn (s : State) (b : Nat) (v : Bool) : kept (setEn s b v) = kept s := (rfl)

@[simp] theorem kept_enable (s : State) (b : Nat) : kept (enable s b) = kept s := (rfl)

@[simp] theorem kept_slotReached (b : Nat) (s : State) : kept (slotReached b s) = kept s := by simp [slotReached]

@[simp] theorem kept_count (b : Nat) (n : Nat) (s : State) : kept (count b n s) = kept s := (rfl)

@[simp] theorem kept_countIf (c : Bool) (b : Nat) (n : Nat) (s : State) : kept (countIf c b n s) = kept s := by simp [countIf]

@[simp] theorem kept_countN (b n k : Nat) (s : State) : kept (countN b n k s) = kept s := by
  induction k generalizing s with
  | zero => rfl
  | succ k ih => rw [countN, ih, kept_count]

@[simp] theorem kept_emit (o : Out) (s : State) : kept (emit o s) = kept s := (rfl)

@[simp] theorem kept_emitAll (os : List Out) (s : State) : kept (emitAll os s) = kept s := (rfl)

@[simp] theorem kept_srcPut (s : State) (n : Nat) (v : IrqSrc) : kept (srcPut s n v) = kept s := (rfl)

@[simp] theorem kept_irqEdge (n : Nat) (s : State) : kept (irqEdge n s) = kept s := (rfl)

@[simp] theorem kept_lantern (code : Nat) (sev : Nat) (data : Bytes) (s : State) : kept (lantern code sev data s) = kept s := by
  simp [lantern, ↓kept_mk, ↓kept_fold]

@[simp] theorem kept_audPush (code : Nat) (ctx : Nat) (auth : Nat) (ocnt : Nat) (data : Bytes) (s : State) :
    kept (audPush code ctx auth ocnt data s) = kept s := (rfl)

@[simp] theorem kept_audit (code : Nat) (ctx : Nat) (auth : Nat) (ocnt : Nat) (data : Bytes) (s : State) :
    kept (audit code ctx auth ocnt data s) = kept s := by simp [audit, ↓kept_mk, ↓kept_fold]

@[simp] theorem kept_otherStore (a : Nat) (v : Byte) (s : State) : kept (otherStore a v s) = kept s := (rfl)

@[simp] theorem kept_randomBytes (n : Nat) (s : State) : kept (randomBytes n s).2 = kept s := (rfl)

@[simp] theorem kept_freeWord (s : State) : kept (freeWord s).2 = kept s := (rfl)

@[simp] theorem kept_parcGiveUp (st : BitVec 4) (s : State) : kept (parcGiveUp st s) = kept s := by
  unfold parcGiveUp
  split <;> simp [↓kept_mk, ↓kept_fold]

@[simp] theorem kept_parcInterrupt (s : State) : kept (parcInterrupt s) = kept s := by simp [parcInterrupt]

@[simp] theorem kept_freezeEffect (m : Nat) (s : State) : kept (freezeEffect m s) = kept s := by
  simp [freezeEffect, ↓kept_mk, ↓kept_fold]

@[simp] theorem kept_freeze (m : Nat) (cause : Nat) (addr : Nat) (slot : Nat) (s : State) :
    kept (freeze m cause addr slot s) = kept s := by simp [freeze, ↓kept_mk, ↓kept_fold]

@[simp] theorem kept_guarded (m addr len : Nat) (write : Bool) (ok : State → State) (s : State) (h : kept (ok s) = kept s) :
    kept (guarded m addr len write ok s) = kept s := by
  unfold guarded
  (repeat' split) <;> simp [h]

@[simp] theorem kept_readPts (m : Nat) (ps : List Nat) (ok : State → State) (s : State) (hok : ∀ u, kept (ok u) = kept u) :
    kept (readPts m ps ok s) = kept s := by
  unfold readPts
  (repeat' split) <;> simp [hok]

@[simp] theorem kept_workPut (s : State) (p : Nat) (r : Point) : kept (workPut s p r) = kept s := (rfl)

@[simp] theorem kept_workSet (s : State) (p : Nat) (v : W64) (q : BitVec 3) : kept (workSet s p v q) = kept s := (rfl)

@[simp] theorem kept_pointWrite (m : Nat) (p : Nat) (v : W64) (q : Nat) (s : State) : kept (pointWrite m p v q s) = kept s := by
  simp [pointWrite]

@[simp] theorem kept_pointStoreF (m : Nat) (p : Nat) (v : F64) (q : Nat) (s : State) :
    kept (pointStoreF m p v q s) = kept s := by simp [pointStoreF]

@[simp] theorem kept_stageWrite (e : Nat) (v : Option W64) (q : Nat) (s : State) : kept (stageWrite e v q s) = kept s := (rfl)

@[simp] theorem kept_stage (m : Nat) (e : Nat) (v : Option W64) (q : Nat) (s : State) : kept (stage m e v q s) = kept s := by
  simp [stage]

@[simp] theorem kept_stagePoint (m : Nat) (p : Nat) (v : Option W64) (q : Nat) (s : State) :
    kept (stagePoint m p v q s) = kept s := by
  unfold stagePoint
  split <;> simp

@[simp] theorem kept_stageF (m : Nat) (p : Nat) (v : F64) (q : Nat) (s : State) : kept (stageF m p v q s) = kept s := by
  simp [stageF]

@[simp] theorem kept_ringPut (s : State) (r : Nat) (v : Ring) : kept (ringPut s r v) = kept s := (rfl)

@[simp] theorem kept_auditDesc (d : HostDesc) (s : State) : kept (auditDesc d s) = kept s := by
  unfold auditDesc
  (repeat' split) <;> simp

@[simp] theorem kept_completeR (d : HostDesc) (st : Nat) (data : Nat) (ret : Option Nat) (s : State) :
    kept (completeR d st data ret s) = kept s := by simp [completeR, ↓kept_mk, ↓kept_fold]

@[simp] theorem kept_complete (d : HostDesc) (st : Nat) (data : Nat) (s : State) : kept (complete d st data s) = kept s := by
  simp [complete]

@[simp] theorem kept_finish (b : Nat) (n : Nat) (cl : List Nat) (d : HostDesc) (st : Nat) (data : Nat) (s : State) :
    kept (finish b n cl d st data s) = kept s := by simp [finish]

@[simp] theorem kept_unsolicitedNext (ring : Nat) (src : Nat) (st : Nat) (data : Nat) (s : State) :
    kept (unsolicitedNext ring src st data s) = kept s := (rfl)

@[simp] theorem kept_unsolicited (ring : Nat) (src : Nat) (st : Nat) (data : Nat) (s : State) :
    kept (unsolicited ring src st data s) = kept s := (rfl)

@[simp] theorem kept_sessPut (s : State) (k : Nat) (v : Sess) : kept (sessPut s k v) = kept s := (rfl)

/-- Where an operation of the pool or of the NAND answers a state, it keeps the time's rate and the memories. -/
def KeptBy (s : State) (o : Option State) : Prop := ∀ t, o = some t → kept t = kept s
@[simp] theorem keptBy_none (s : State) : KeptBy s none := fun _ h => nomatch h
@[simp] theorem keptBy_some (s t : State) : KeptBy s (some t) ↔ kept t = kept s :=
  ⟨fun h => h t rfl, fun h _ e => Option.some.inj e ▸ h⟩
theorem keptBy_map {α : Type} {s : State} {f : α → State} (h : ∀ a, kept (f a) = kept s) (o : Option α) :
    KeptBy s (o.map f) := by
  cases o <;> simp [h]
theorem keptBy_orElse {s : State} {a b : Option State} (ha : KeptBy s a) (hb : KeptBy s b) : KeptBy s (a <|> b) := by
  cases a with
  | none => exact hb
  | some t => exact ha
theorem keptBy_bind {α : Type} {s : State} {f : α → Option State} (h : ∀ a, KeptBy s (f a)) (o : Option α) :
    KeptBy s (o.bind f) := by
  cases o with
  | none => exact keptBy_none s
  | some a => exact h a
theorem keptBy_getD {s : State} {o : Option State} (h : KeptBy s o) : kept (o.getD s) = kept s := by
  cases o with
  | none => rfl
  | some t => exact h t rfl

theorem keptBy_poolMake (kind : Byte) (ref : Nat) (key : Bytes) (s : State) : KeptBy s (poolMake kind ref key s) :=
  keptBy_map (fun _ => kept_sessPut ..) _

@[simp] theorem kept_poolNote (kind : Byte) (ref : Nat) (ok : Bool) (s : State) : kept (poolNote kind ref ok s) = kept s := by
  unfold poolNote
  split <;> simp

@[simp] theorem kept_poolEnd (kind : Byte) (s : State) : kept (poolEnd kind s) = kept s := (rfl)

@[simp] theorem kept_authTake (d : HostDesc) (last : W64) (s : State) : kept (authTake d last s) = kept s := (rfl)

@[simp] theorem kept_runChecked (eff : HostDesc → State → State) (d : HostDesc) (s : State) (heff : ∀ x0 u, kept (eff x0 u) =
    kept u) : kept (runChecked eff d s) = kept s := by simp [runChecked, heff]

@[simp] theorem kept_runDesc (eff : HostDesc → State → State) (d : HostDesc) (s : State) (heff : ∀ x0 u, kept (eff x0 u) =
    kept u) : kept (runDesc eff d s) = kept s := by
  unfold runDesc
  (repeat' split) <;> simp [heff]

@[simp] theorem kept_startDesc (eff : HostDesc → State → State) (d : HostDesc) (s : State) (heff : ∀ x0 u, kept (eff x0 u) =
    kept u) : kept (startDesc eff d s) = kept s := by simp [startDesc, heff]

@[simp] theorem kept_queueDesc (d : HostDesc) (s : State) : kept (queueDesc d s) = kept s := (rfl)

@[simp] theorem kept_arrive (eff : HostDesc → State → State) (d : HostDesc) (s : State) (heff : ∀ x0 u, kept (eff x0 u) = kept
    u) : kept (arrive eff d s) = kept s := by simp [arrive, heff]

@[simp] theorem kept_inHostSlot (d : HostDesc) (eff : State → State) (s : State) (heff : ∀ u, kept (eff u) = kept u) :
    kept (inHostSlot d eff s) = kept s := by simp [inHostSlot, ↓kept_mk, ↓kept_fold, heff]

@[simp] theorem kept_copyTry (fin : CopyRun → State → State) (one : Bool) (r : CopyRun) (s : State) (hfin : ∀ x0 u, kept (fin
    x0 u) = kept u) : kept (copyTry fin one r s) = kept s := by simp [copyTry, ↓kept_mk, ↓kept_fold, hfin]

@[simp] theorem kept_spoil (which : CopyRun → Bool) (s : State) : kept (spoil which s) = kept s := (rfl)

@[simp] theorem kept_toHost (addr : W64) (b : Bytes) (s : State) : kept (toHost addr b s) = kept s := by
  simp [toHost, ↓kept_mk, ↓kept_fold]

/-! ### LOOP -/

@[simp] theorem kept_lpPut (s : State) (e : Nat) (v : LoopEng) : kept (lpPut s e v) = kept s := (rfl)

@[simp] theorem kept_lstPut (s : State) (e : Nat) (i : Nat) (v : LoopSt) : kept (lstPut s e i v) = kept s := (rfl)

@[simp] theorem kept_finLoop (d : HostDesc) (st : Nat) (data : Nat) (s : State) : kept (finLoop d st data s) = kept s := by
  simp [finLoop]

@[simp] theorem kept_putCfg (s : State) (e : Nat) (i : Nat) (c : LoopCfg) : kept (putCfg s e i c) = kept s := (rfl)

@[simp] theorem kept_takeParams (g : Nat) (s : State) : kept (takeParams g s) = kept s := by
  simp [takeParams, ↓kept_mk, ↓kept_fold]

@[simp] theorem kept_takeMode (e : Nat) (i : Nat) (s : State) : kept (takeMode e i s) = kept s := by
  unfold takeMode
  dsimp only
  (repeat' split) <;> simp

@[simp] theorem kept_writeOut (m : Nat) (p : Nat) (v : F64) (q : Nat) (s : State) : kept (writeOut m p v q s) = kept s := by
  simp [writeOut]

@[simp] theorem kept_holdSample (e : Nat) (i : Nat) (n : LoopIn) (s : State) : kept (holdSample e i n s) = kept s := by
  simp [holdSample]

@[simp] theorem kept_followErr (e : Nat) (i : Nat) (s : State) : kept (followErr e i s) = kept s := by
  simp [followErr, ↓kept_mk, ↓kept_fold]

@[simp] theorem kept_loopSample (e : Nat) (i : Nat) (s : State) : kept (loopSample e i s) = kept s := by
  unfold loopSample
  dsimp only
  (repeat' split) <;> simp

@[simp] theorem kept_loopTurn (e : Nat) (s : State) (i : Nat) : kept (loopTurn e s i) = kept s := by
  unfold loopTurn
  dsimp only
  (repeat' split) <;> simp

@[simp] theorem answers_execLoopOccurrence (e : Fin 4) (s : State) : Answers s (execLoopOccurrence e s) := by
  simp [execLoopOccurrence]

@[simp] theorem kept_effLoopMode (d : HostDesc) (s : State) : kept (effLoopMode d s) = kept s := by
  unfold effLoopMode
  dsimp only
  (repeat' split) <;> simp

@[simp] theorem kept_effLoopParam (d : HostDesc) (s : State) : kept (effLoopParam d s) = kept s := by
  unfold effLoopParam
  dsimp only
  (repeat' split) <;> simp [↓kept_mk, ↓kept_fold]

@[simp] theorem kept_effLoopTrace (d : HostDesc) (s : State) : kept (effLoopTrace d s) = kept s := by simp [effLoopTrace]

@[simp] theorem kept_effLoopRead (d : HostDesc) (s : State) : kept (effLoopRead d s) = kept s := by simp [effLoopRead]

@[simp] theorem answers_execLoopMode (d : HostDesc) (s : State) : Answers s (execLoopMode d s) := by simp [execLoopMode]

@[simp] theorem answers_execLoopParam (d : HostDesc) (s : State) : Answers s (execLoopParam d s) := by simp [execLoopParam]

@[simp] theorem answers_execLoopTrace (d : HostDesc) (s : State) : Answers s (execLoopTrace d s) := by simp [execLoopTrace]

@[simp] theorem answers_execLoopRead (d : HostDesc) (s : State) : Answers s (execLoopRead d s) := by simp [execLoopRead]

/-! ### AXIS -/

@[simp] theorem kept_axPut (s : State) (n : Nat) (v : Axis) : kept (axPut s n v) = kept s := (rfl)

@[simp] theorem kept_grpPut (s : State) (k : Nat) (v : AxGroup) : kept (grpPut s k v) = kept s := (rfl)

@[simp] theorem kept_axStep (n : Nat) (s : State) : kept (axStep n s) = kept s := by simp [axStep]

@[simp] theorem answers_execAxisStep (n : Fin 16) (s : State) : Answers s (execAxisStep n s) := by simp [execAxisStep]

@[simp] theorem kept_axTick (s : State) (n : Nat) : kept (axTick s n) = kept s := by simp [axTick]

@[simp] theorem kept_grpHalt (k : Nat) (s : State) : kept (grpHalt k s) = kept s := (rfl)

@[simp] theorem kept_axFault (n : Nat) (f : Axis → Axis) (s : State) : kept (axFault n f s) = kept s := by
  unfold axFault
  split <;> simp

@[simp] theorem answers_execDriverStatus (n : Fin 16) (inTime : Bool) (load : Byte) (status : Byte) (seq : Byte) (crc : Byte) (s
    : State) : Answers s (execDriverStatus n inTime load status seq crc s) := by simp [execDriverStatus]

@[simp] theorem kept_axMissed (n : Nat) (s : State) : kept (axMissed n s) = kept s := by simp [axMissed]

@[simp] theorem kept_axPowered (n : Nat) (s : State) : kept (axPowered n s) = kept s := by simp [axPowered]

@[simp] theorem kept_axRestore (s : State) (n : Nat) : kept (axRestore s n) = kept s := by simp [axRestore]

@[simp] theorem kept_axStopOne (n : Nat) (s : State) : kept (axStopOne n s) = kept s := by simp [axStopOne]

@[simp] theorem kept_grpStop (k : Nat) (s : State) : kept (grpStop k s) = kept s := by simp [grpStop]

@[simp] theorem kept_axStop (n : Nat) (s : State) : kept (axStop n s) = kept s := by
  unfold axStop
  split <;> simp

@[simp] theorem kept_grpGo (k : Nat) (s : State) : kept (grpGo k s) = kept s := by simp [grpGo]

@[simp] theorem kept_grpResume (k : Nat) (s : State) : kept (grpResume k s) = kept s := by simp [grpResume]

@[simp] theorem kept_axResume (n : Nat) (s : State) : kept (axResume n s) = kept s := by
  unfold axResume
  split <;> simp

@[simp] theorem kept_finAxis (d : HostDesc) (st : Nat) (data : Nat) (s : State) : kept (finAxis d st data s) = kept s := by
  simp [finAxis]

@[simp] theorem kept_grpHere (n : Nat) (s : State) : kept (grpHere n s) = kept s := by
  unfold grpHere
  split <;> simp

@[simp] theorem kept_axCmd (n : Nat) (s : State) (d : HostDesc) : kept (axCmd n s d) = kept s := by
  unfold axCmd
  split <;> simp

@[simp] theorem kept_axCommands (s : State) (n : Nat) : kept (axCommands s n) = kept s := by simp [axCommands]

@[simp] theorem kept_tgtRefuse (n : Nat) (v : W64) (s : State) : kept (tgtRefuse n v s) = kept s := by simp [tgtRefuse]

@[simp] theorem kept_tgtTake (n : Nat) (v : W64) (s : State) : kept (tgtTake n v s) = kept s := by simp [tgtTake]

@[simp] theorem kept_axTarget (s : State) (n : Nat) : kept (axTarget s n) = kept s := by simp [axTarget]

@[simp] theorem kept_grpTarget (s : State) (k : Nat) : kept (grpTarget s k) = kept s := by simp [grpTarget]

@[simp] theorem kept_grpStart (s : State) (k : Nat) : kept (grpStart s k) = kept s := by simp [grpStart]

@[simp] theorem kept_axLimit (n : Nat) (s : State) : kept (axLimit n s) = kept s := (rfl)

@[simp] theorem kept_axAtRest (n : Nat) (s : State) : kept (axAtRest n s) = kept s := by simp [axAtRest]

@[simp] theorem kept_axProfile (s : State) (n : Nat) : kept (axProfile s n) = kept s := by simp [axProfile]

@[simp] theorem kept_grpAtRest (k : Nat) (s : State) : kept (grpAtRest k s) = kept s := by simp [grpAtRest]

@[simp] theorem kept_grpSpread (g : AxGroup) (s : State) : kept (grpSpread g s) = kept s := by simp [grpSpread]

@[simp] theorem kept_grpProfile (s : State) (k : Nat) : kept (grpProfile s k) = kept s := by
  unfold grpProfile
  dsimp only
  (repeat' split) <;> simp

@[simp] theorem kept_axVelocity (s : State) (n : Nat) : kept (axVelocity s n) = kept s := (rfl)

@[simp] theorem kept_axCurrent (s : State) (n : Nat) : kept (axCurrent s n) = kept s := by simp [axCurrent]

@[simp] theorem kept_axOutputs (s : State) (n : Nat) : kept (axOutputs s n) = kept s := by simp [axOutputs]

@[simp] theorem kept_effAxisCmd (d : HostDesc) (s : State) : kept (effAxisCmd d s) = kept s := by simp [effAxisCmd]

@[simp] theorem answers_execAxisCmd (d : HostDesc) (s : State) : Answers s (execAxisCmd d s) := by simp [execAxisCmd]

/-! ### PNL -/

@[simp] theorem kept_pnlSetRun (r : Option PnlRun) (s : State) : kept (pnlSetRun r s) = kept s := (rfl)

@[simp] theorem kept_setPen (v : Bool) (s : State) : kept (setPen v s) = kept s := by simp [setPen, ↓kept_mk, ↓kept_fold]

@[simp] theorem kept_bandNow (s : State) : kept (bandNow s).2 = kept s := by
  unfold bandNow
  dsimp only
  (repeat' split) <;> simp

@[simp] theorem kept_drivePhase (r : PnlRun) (s : State) : kept (drivePhase r s) = kept s := by simp [drivePhase]

@[simp] theorem kept_pumpOn (s : State) : kept (pumpOn s) = kept s := by simp [pumpOn, ↓kept_mk, ↓kept_fold]

@[simp] theorem kept_finPnl (d : HostDesc) (st : Nat) (data : Nat) (s : State) : kept (finPnl d st data s) = kept s := by
  simp [finPnl]

@[simp] theorem kept_runEnd (r : PnlRun) (s : State) : kept (runEnd r s) = kept s := by
  unfold runEnd
  split <;> simp

@[simp] theorem answers_execPgood (s : State) : Answers s (execPgood s) := by
  unfold execPgood
  split <;> simp

@[simp] theorem kept_pnlResume (s : State) : kept (pnlResume s) = kept s := by simp [pnlResume]

@[simp] theorem kept_recovery (s : State) : kept (recovery s) = kept s := by simp [recovery]

@[simp] theorem kept_effPnlLoad (d : HostDesc) (s : State) : kept (effPnlLoad d s) = kept s := by
  simp [effPnlLoad, ↓kept_mk, ↓kept_fold]

@[simp] theorem answers_execPnlLoad (d : HostDesc) (s : State) : Answers s (execPnlLoad d s) := by simp [execPnlLoad]

/-! ### REC and NVM -/

@[simp] theorem kept_lanStop (s : State) : kept (lanStop s) = kept s := by simp [lanStop, ↓kept_mk, ↓kept_fold]

@[simp] theorem kept_optSave (s : State) : kept (optSave s) = kept s := by simp [optSave, ↓kept_mk, ↓kept_fold]

@[simp] theorem kept_lanScan (s : State) : kept (lanScan s) = kept s := by simp [lanScan, ↓kept_mk, ↓kept_fold]

@[simp] theorem kept_nbPut (s : State) (b : Nat) (v : NandBlk) : kept (nbPut s b v) = kept s := (rfl)

@[simp] theorem kept_shrink (part : Byte) (s : State) : kept (shrink part s) = kept s := by simp [shrink, ↓kept_mk, ↓kept_fold]

@[simp] theorem kept_replaceBlk (b : Nat) (s : State) : kept (replaceBlk b s) = kept s := by
  unfold replaceBlk
  dsimp only
  (repeat' split) <;> simp

@[simp] theorem kept_blkFailed (b : Nat) (s : State) : kept (blkFailed b s) = kept s := by
  simp [blkFailed, ↓kept_mk, ↓kept_fold]

@[simp] theorem kept_copyDone (j : CopyJob) (s : State) : kept (copyDone j s) = kept s := (rfl)

@[simp] theorem kept_copyStart (s : State) : kept (copyStart s) = kept s := by
  unfold copyStart
  (repeat' split) <;> simp [↓kept_mk, ↓kept_fold]

@[simp] theorem kept_pageRead (b : Nat) (cw : List (Option Nat)) (patrol : Bool) (s : State) :
    kept (pageRead b cw patrol s) = kept s := by simp [pageRead, ↓kept_mk, ↓kept_fold]

@[simp] theorem kept_finRec (d : HostDesc) (st : Nat) (data : Nat) (s : State) : kept (finRec d st data s) = kept s := by
  simp [finRec]

@[simp] theorem kept_finNvm (d : HostDesc) (st : Nat) (data : Nat) (s : State) : kept (finNvm d st data s) = kept s := by
  simp [finNvm]

@[simp] theorem kept_lanReadAll (d : HostDesc) (s : State) : kept (lanReadAll d s) = kept s := by simp [lanReadAll]

@[simp] theorem kept_effRecRead (d : HostDesc) (s : State) : kept (effRecRead d s) = kept s := by
  simp [effRecRead, ↓kept_mk, ↓kept_fold]

@[simp] theorem kept_effAudFreeze (d : HostDesc) (s : State) : kept (effAudFreeze d s) = kept s := by
  simp [effAudFreeze, ↓kept_mk, ↓kept_fold]

@[simp] theorem answers_execAuditFreezeExpiry (s : State) : Answers s (execAuditFreezeExpiry s) := by
  simp [execAuditFreezeExpiry, ↓kept_mk, ↓kept_fold]

@[simp] theorem kept_clearLog (d : HostDesc) (s : State) : kept (clearLog d s) = kept s := by
  simp [clearLog, ↓kept_mk, ↓kept_fold]

@[simp] theorem kept_effAudClear (d : HostDesc) (s : State) : kept (effAudClear d s) = kept s := by simp [effAudClear]

@[simp] theorem kept_effLanThaw (d : HostDesc) (s : State) : kept (effLanThaw d s) = kept s := by
  simp [effLanThaw, ↓kept_mk, ↓kept_fold]

@[simp] theorem kept_effHistWrite (d : HostDesc) (s : State) : kept (effHistWrite d s) = kept s := by
  simp [effHistWrite, ↓kept_mk, ↓kept_fold]

@[simp] theorem kept_effTagLock (d : HostDesc) (s : State) : kept (effTagLock d s) = kept s := by
  simp [effTagLock, ↓kept_mk, ↓kept_fold]

@[simp] theorem kept_effNvmFormat (d : HostDesc) (s : State) : kept (effNvmFormat d s) = kept s := by
  simp [effNvmFormat, ↓kept_mk, ↓kept_fold]

@[simp] theorem kept_formatNand (s : State) : kept (formatNand s) = kept s := by simp [formatNand, ↓kept_mk, ↓kept_fold]

@[simp] theorem kept_usePage (b : Nat) (s : State) : kept (usePage b s) = kept s := (rfl)

@[simp] theorem kept_startNand (op : NandOp) (kind : Nat) (blk : Nat) (page : Nat) (data : Bytes) (s : State) :
    kept (startNand op kind blk page data s) = kept s := (rfl)

theorem keptBy_startProgram (s : State) : KeptBy s (startProgram s) := by
  unfold startProgram
  refine keptBy_orElse ?_ (keptBy_orElse ?_ ?_)
  · (repeat' split) <;> simp
  · split
    · exact keptBy_none s
    · exact keptBy_map (fun b => by simp [↓kept_mk, ↓kept_fold]) _
  · split
    · exact keptBy_none s
    · exact keptBy_map (fun b => by simp [↓kept_mk, ↓kept_fold]) _

@[simp] theorem kept_putRead (r : RecRead) (s : State) : kept (putRead r s) = kept s := (rfl)

@[simp] theorem kept_dropRead (s : State) : kept (dropRead s) = kept s := (rfl)

@[simp] theorem kept_readProgress (s : State) : kept (readProgress s) = kept s := by
  unfold readProgress
  (repeat' split) <;> simp

theorem keptBy_startRead (s : State) : KeptBy s (startRead s) := by
  unfold startRead
  refine keptBy_orElse ?_ ?_
  · split
    · exact keptBy_map (fun p => by simp) _
    · exact keptBy_none s
  · (repeat' split) <;> simp

@[simp] theorem kept_startEraseOf (b : Nat) (s : State) : kept (startEraseOf b s) = kept s := (rfl)

theorem keptBy_startErase (s : State) : KeptBy s (startErase s) := by
  unfold startErase
  split
  · simp
  · exact keptBy_map (fun b => by simp) _

@[simp] theorem kept_startPatrol (s : State) : kept (startPatrol s) = kept s := by
  unfold startPatrol
  dsimp only
  (repeat' split) <;> simp [↓kept_mk, ↓kept_fold]

@[simp] theorem kept_startOp (s : State) : kept (startOp s) = kept s := by
  unfold startOp
  split
  · rfl
  · dsimp only
    have hs : kept (copyStart (readProgress s)) = kept s := by simp
    split
    next t h =>
      exact (keptBy_orElse (keptBy_startProgram _) (keptBy_orElse (keptBy_startRead _) (keptBy_startErase _)) t h).trans hs
    next => simp

@[simp] theorem kept_readArrived (page : Bytes) (cw : List (Option Nat)) (s : State) :
    kept (readArrived page cw s) = kept s := by
  unfold readArrived
  (repeat' split) <;> simp

@[simp] theorem kept_eraseDone (b : Nat) (s : State) : kept (eraseDone b s) = kept s := by
  unfold eraseDone
  dsimp only
  (repeat' split) <;> simp

@[simp] theorem kept_audProgrammed (b : Nat) (rs : List AudRec) (s : State) : kept (audProgrammed b rs s) = kept s := by
  unfold audProgrammed
  dsimp only
  (repeat' split) <;> simp [↓kept_mk, ↓kept_fold]

@[simp] theorem kept_histProgrammed (b : Nat) (h : Nat) (d : HostDesc) (s : State) :
    kept (histProgrammed b h d s) = kept s := by simp [histProgrammed, ↓kept_mk, ↓kept_fold]

@[simp] theorem kept_copyProgrammed (src : Nat) (page : Nat) (s : State) : kept (copyProgrammed src page s) = kept s := by
  unfold copyProgrammed
  split <;> simp [↓kept_mk, ↓kept_fold]

@[simp] theorem kept_endOp (op : NandOp) (r : NandReport) (s0 : State) : kept (endOp op r s0) = kept s0 := by
  unfold endOp
  split <;> simp [↓kept_mk, ↓kept_fold]

@[simp] theorem kept_formatDue (s : State) : kept (formatDue s) = kept s := by
  unfold formatDue
  split <;> simp [↓kept_mk, ↓kept_fold]

@[simp] theorem answers_execRecSlot (r : NandReport) (s : State) : Answers s (execRecSlot r s) := by
  unfold execRecSlot
  (repeat' split) <;> simp

@[simp] theorem answers_execRecRead (d : HostDesc) (s : State) : Answers s (execRecRead d s) := by simp [execRecRead]

@[simp] theorem answers_execAudFreeze (d : HostDesc) (s : State) : Answers s (execAudFreeze d s) := by simp [execAudFreeze]

@[simp] theorem answers_execAudClear (d : HostDesc) (s : State) : Answers s (execAudClear d s) := by simp [execAudClear]

@[simp] theorem answers_execLanThaw (d : HostDesc) (s : State) : Answers s (execLanThaw d s) := by simp [execLanThaw]

@[simp] theorem answers_execHistWrite (d : HostDesc) (s : State) : Answers s (execHistWrite d s) := by simp [execHistWrite]

@[simp] theorem answers_execTagLock (d : HostDesc) (s : State) : Answers s (execTagLock d s) := by simp [execTagLock]

@[simp] theorem answers_execNvmFormat (d : HostDesc) (s : State) : Answers s (execNvmFormat d s) := by simp [execNvmFormat]

/-! ### The operands of instructions -/

@[simp] theorem kept_engPut (s : State) (e : Nat) (c : CellEng) : kept (engPut s e c) = kept s := (rfl)

@[simp] theorem kept_setG (c : Core) (i : BitVec 6) (v : W64) (s : State) : kept (setG c i v s) = kept s := by
  unfold setG
  split <;> simp [↓kept_mk, ↓kept_fold]

@[simp] theorem kept_setP (c : Core) (i : BitVec 4) (v : Bool) (s : State) : kept (setP c i v s) = kept s := by
  unfold setP
  split <;> simp [↓kept_mk, ↓kept_fold]

@[simp] theorem kept_preStep (c : Core) (cyc : Nat) (s : State) : kept (preStep c cyc s) = kept s := by
  unfold preStep
  split <;> simp [↓kept_mk, ↓kept_fold]

@[simp] theorem kept_postStep (c : Core) (cyc : Nat) (s : State) : kept (postStep c cyc s) = kept s := by
  unfold postStep
  split <;> simp

@[simp] theorem kept_insnBody (x : Ctl) (cyc : Nat) (eff : State → State) (s : State) (heff : ∀ u, kept (eff u) = kept u) :
    kept (insnBody x cyc eff s) = kept s := by simp [insnBody, heff]

@[simp] theorem answers_insn (x : Ctl) (cyc : Nat) (eff : State → State) (s : State) (heff : ∀ u, kept (eff u) = kept u) :
    Answers s (insn x cyc eff s) := by simp [insn, heff]

/-! ### The arithmetic flags -/

@[simp] theorem kept_orFlags (c : Core) (fl : BitVec 7) (s : State) : kept (orFlags c fl s) = kept s := by
  unfold orFlags
  split <;> simp [↓kept_mk, ↓kept_fold]

@[simp] theorem kept_clearFlags (c : Core) (s : State) : kept (clearFlags c s) = kept s := by
  unfold clearFlags
  split <;> simp [↓kept_mk, ↓kept_fold]

@[simp] theorem kept_wrBack (c : Core) (d : BitVec 6) (r : W64 × BitVec 7) (s : State) : kept (wrBack c d r s) = kept s := by
  simp [wrBack]

@[simp] theorem kept_setPreds (c : Core) (pd : BitVec 4) (pe : BitVec 4) (r : Bool) (s : State) :
    kept (setPreds c pd pe r s) = kept s := by simp [setPreds]

/-! ### MC1's status and faults -/

@[simp] theorem kept_mc1Fault (vec : Nat) (at_ : W64) (s : State) : kept (mc1Fault vec at_ s) = kept s := by
  simp [mc1Fault, ↓kept_mk, ↓kept_fold]

@[simp] theorem answers_illegal (x : Ctl) (s : State) : Answers s (illegal x s) := by
  unfold illegal
  split <;> simp

@[simp] theorem answers_insnIf (ok : Bool) (x : Ctl) (cyc : Nat) (eff : State → State) (s : State) (heff : ∀ u, kept (eff u) =
    kept u) : Answers s (insnIf ok x cyc eff s) := by
  unfold insnIf
  split <;> simp [heff]

@[simp] theorem answers_insnS (x : Ctl) (cyc : Nat) (eff : State → State) (s : State) (heff : ∀ u, kept (eff u) = kept u) :
    Answers s (insnS x cyc eff s) := by
  unfold insnS
  split <;> simp [heff]

@[simp] theorem answers_insnC (x : Ctl) (cyc : Nat) (eff : Fin 8 → State → State) (s : State) (heff : ∀ x0 u, kept (eff x0 u) =
    kept u) : Answers s (insnC x cyc eff s) := by
  unfold insnC
  split <;> simp [heff]

/-! ### The process image -/

@[simp] theorem kept_finCell (d : HostDesc) (st : Nat) (data : Nat) (s : State) : kept (finCell d st data s) = kept s := by
  simp [finCell]

@[simp] theorem kept_applyForce (s : State) (r : ForceRec) : kept (applyForce s r).1 = kept s := by
  unfold applyForce
  dsimp only
  (repeat' split) <;> simp [↓kept_mk, ↓kept_fold]

@[simp] theorem kept_applyRecs (l : List ForceRec) (s : State) (n : Nat) : kept (applyRecs l s n).1 = kept s := by
  induction l generalizing s n with
  | nil => rfl
  | cons r l ih => rw [applyRecs, ih, kept_applyForce]

@[simp] theorem kept_applyBatch (s : State) (b : ForceBatch) : kept (applyBatch s b) = kept s := by simp [applyBatch]

@[simp] theorem kept_mergeEntry (s : State) (e : Nat) : kept (mergeEntry s e) = kept s := by
  simp [mergeEntry, ↓kept_mk, ↓kept_fold]

@[simp] theorem kept_mergeAll (s : State) : kept (mergeAll s) = kept s := by simp [mergeAll]

@[simp] theorem kept_markBad (s : State) : kept (markBad s) = kept s := (rfl)

@[simp] theorem kept_takeSnapshot (s : State) : kept (takeSnapshot s) = kept s := (rfl)

@[simp] theorem answers_execSnapshot (s : State) : Answers s (execSnapshot s) := by simp [execSnapshot]

@[simp] theorem answers_execCommit (s : State) : Answers s (execCommit s) := by simp [execCommit, ↓kept_mk, ↓kept_fold]

@[simp] theorem kept_ptReadEnd (r : CopyRun) (s : State) : kept (ptReadEnd r s) = kept s := by simp [ptReadEnd]

@[simp] theorem kept_effPtRead (d : HostDesc) (s : State) : kept (effPtRead d s) = kept s := by simp [effPtRead]

@[simp] theorem kept_ptWriteAll (rs : List (Nat × Nat × W64)) (s : State) : kept (ptWriteAll rs s) = kept s := by
  simp [ptWriteAll]

@[simp] theorem kept_effPtWrite (d : HostDesc) (s : State) : kept (effPtWrite d s) = kept s := by
  unfold effPtWrite
  dsimp only
  (repeat' split) <;> simp

@[simp] theorem kept_effPtForce (d : HostDesc) (s : State) : kept (effPtForce d s) = kept s := by
  unfold effPtForce
  dsimp only
  (repeat' split) <;> simp [↓kept_mk, ↓kept_fold]

@[simp] theorem answers_execPtRead (d : HostDesc) (s : State) : Answers s (execPtRead d s) := by simp [execPtRead]

@[simp] theorem answers_execPtWrite (d : HostDesc) (s : State) : Answers s (execPtWrite d s) := by simp [execPtWrite]

@[simp] theorem answers_execPtForce (d : HostDesc) (s : State) : Answers s (execPtForce d s) := by simp [execPtForce]

/-! ### The cell engines -/

@[simp] theorem kept_modeBoundary (e : Nat) (s : State) : kept (modeBoundary e s) = kept s := by
  unfold modeBoundary
  dsimp only
  (repeat' split) <;> simp

@[simp] theorem kept_skipCycle (e : Nat) (t : CellTask) (cause : Nat) (s : State) : kept (skipCycle e t cause s) = kept s := by
  simp [skipCycle]

@[simp] theorem kept_startCycle (e : Nat) (t : CellTask) (period : Nat) (stepping : Bool) (s : State) :
    kept (startCycle e t period stepping s) = kept s := by simp [startCycle]

@[simp] theorem kept_slotCycle (e : Nat) (p : SlotE) (s : State) : kept (slotCycle e p s) = kept s := by
  unfold slotCycle
  dsimp only
  (repeat' split) <;> simp

@[simp] theorem answers_execCellCycle (slot : Nat) (s : State) : Answers s (execCellCycle slot s) := by
  unfold execCellCycle
  split <;> simp

@[simp] theorem kept_cellReadDone (d : HostDesc) (s : State) : kept (cellReadDone d s) = kept s := by simp [cellReadDone]

@[simp] theorem kept_cellReadWaits (e : Nat) (s : State) : kept (cellReadWaits e s) = kept s := by simp [cellReadWaits]

@[simp] theorem kept_endCycle (e : Nat) (s : State) : kept (endCycle e s) = kept s := by
  unfold endCycle
  dsimp only
  (repeat' split) <;> simp

@[simp] theorem answers_execIend (x : Ctl) (s : State) : Answers s (execIend x s) := by
  unfold execIend
  split <;> simp

@[simp] theorem kept_loopPush (e : Fin 8) (len : BitVec 15) (c : W16) (s : State) : kept (loopPush e len c s) = kept s := (rfl)

@[simp] theorem answers_execLoop (x : Ctl) (len : BitVec 15) (c : W16) (s : State) : Answers s (execLoop x len c s) := by
  unfold execLoop
  split <;> simp

@[simp] theorem answers_execLidx (x : Ctl) (d : BitVec 6) (level : BitVec 2) (s : State) : Answers s (execLidx x d level s) := by
  simp [execLidx]

@[simp] theorem kept_ptAccess (c : Core) (write : Bool) (addr : Nat) (ok : State → State) (s : State) (hok : ∀ u, kept (ok u)
    = kept u) : kept (ptAccess c write addr ok s) = kept s := by
  unfold ptAccess
  split <;> simp [hok]

@[simp] theorem kept_pldEff (x : Ctl) (d : BitVec 6) (xr : BitVec 6) (q : BitVec 6) (out : Bool) (pt : BitVec 17) (s : State) :
    kept (pldEff x d xr q out pt s) = kept s := by simp [pldEff]

@[simp] theorem answers_execPld (x : Ctl) (d : BitVec 6) (xr : BitVec 6) (q : BitVec 6) (out : Bool) (pt : BitVec 17) (s : State)
    : Answers s (execPld x d xr q out pt s) := by simp [execPld]

@[simp] theorem kept_pstEff (x : Ctl) (d : BitVec 6) (xr : BitVec 6) (q : Nat) (pt : BitVec 17) (s : State) :
    kept (pstEff x d xr q pt s) = kept s := by simp [pstEff]

@[simp] theorem answers_execPst (x : Ctl) (d : BitVec 6) (xr : BitVec 6) (pt : BitVec 17) (s : State) :
    Answers s (execPst x d xr pt s) := by simp [execPst]

@[simp] theorem answers_execPstq (x : Ctl) (d : BitVec 6) (xr : BitVec 6) (q : BitVec 6) (pt : BitVec 17) (s : State) :
    Answers s (execPstq x d xr q pt s) := by simp [execPstq]

@[simp] theorem kept_tmrEff (x : Ctl) (e : Fin 8) (d : BitVec 6) (a : BitVec 6) (pi : BitVec 4) (ni : Bool) (pq : BitVec 4)
    (num : BitVec 12) (s : State) : kept (tmrEff x e d a pi ni pq num s) = kept s := by simp [tmrEff]

@[simp] theorem answers_execTmr (x : Ctl) (d : BitVec 6) (a : BitVec 6) (pi : BitVec 4) (ni : Bool) (pq : BitVec 4) (num : BitVec
    12) (s : State) : Answers s (execTmr x d a pi ni pq num s) := by simp [execTmr]

@[simp] theorem kept_edgeEff (x : Ctl) (e : Fin 8) (pi : BitVec 4) (ni : Bool) (pq : BitVec 4) (num : BitVec 12) (s : State) :
    kept (edgeEff x e pi ni pq num s) = kept s := by simp [edgeEff]

@[simp] theorem answers_execEdge (x : Ctl) (pi : BitVec 4) (ni : Bool) (pq : BitVec 4) (num : BitVec 12) (s : State) :
    Answers s (execEdge x pi ni pq num s) := by simp [execEdge]

@[simp] theorem kept_effCellMode (d : HostDesc) (s : State) : kept (effCellMode d s) = kept s := by simp [effCellMode]

@[simp] theorem kept_effCellStep (d : HostDesc) (s : State) : kept (effCellStep d s) = kept s := by simp [effCellStep]

@[simp] theorem kept_effCellRead (d : HostDesc) (s : State) : kept (effCellRead d s) = kept s := by simp [effCellRead]

@[simp] theorem answers_execCellMode (d : HostDesc) (s : State) : Answers s (execCellMode d s) := by simp [execCellMode]

@[simp] theorem answers_execCellStep (d : HostDesc) (s : State) : Answers s (execCellStep d s) := by simp [execCellStep]

@[simp] theorem answers_execCellRead (d : HostDesc) (s : State) : Answers s (execCellRead d s) := by simp [execCellRead]

/-! ### CANL -/

@[simp] theorem kept_chPut (s : State) (n : Nat) (v : CanChan) : kept (chPut s n v) = kept s := (rfl)

@[simp] theorem kept_stnPut (s : State) (k : Nat) (v : Station) : kept (stnPut s k v) = kept s := (rfl)

@[simp] theorem kept_bufPut (s : State) (n : Nat) (b : Nat) (v : TxBuf) : kept (bufPut s n b v) = kept s := (rfl)

@[simp] theorem kept_latchTsref (s : State) : kept (latchTsref s) = kept s := (rfl)

@[simp] theorem kept_sealTx (k : Nat) (f : CanFrame) (s : State) : kept (sealTx k f s).2 = kept s := by
  unfold sealTx
  dsimp only
  (repeat' split) <;> simp

@[simp] theorem kept_sealRx (k : Nat) (f : CanFrame) (s : State) : kept (sealRx k f s).2 = kept s := by
  unfold sealRx
  dsimp only
  (repeat' split) <;> simp

@[simp] theorem kept_busOff (n : Nat) (c : CanChan) (s : State) : kept (busOff n c s) = kept s := by simp [busOff]

@[simp] theorem answers_execCanBusError (n : Fin 40) (err : CanFault) (transmitting : Bool) (s : State) :
    Answers s (execCanBusError n err transmitting s) := by simp [execCanBusError]

@[simp] theorem answers_execBusOffRecovery (n : Fin 40) (s : State) : Answers s (execBusOffRecovery n s) := by
  simp [execBusOffRecovery]

@[simp] theorem kept_recSuccess (n : Nat) (s : State) : kept (recSuccess n s) = kept s := by
  simp [recSuccess, ↓kept_mk, ↓kept_fold]

@[simp] theorem kept_loadBuf (n : Nat) (b : Nat) (f : CanFrame) (s : State) : kept (loadBuf n b f s) = kept s := by
  simp [loadBuf]

@[simp] theorem kept_cancelBuf (n : Nat) (b : Nat) (s : State) : kept (cancelBuf n b s) = kept s := by simp [cancelBuf]

@[simp] theorem kept_dropBuf (n : Nat) (b : Nat) (s : State) : kept (dropBuf n b s) = kept s := by simp [dropBuf]

@[simp] theorem answers_execStartOfFrame (n : Fin 40) (b : Fin 64) (ts : W32) (s : State) :
    Answers s (execStartOfFrame n b ts s) := by
  unfold execStartOfFrame
  dsimp only
  (repeat' split) <;> simp

@[simp] theorem answers_execCanFrameEnd (n : Fin 40) (b : Fin 64) (how : CanEnd) (s : State) :
    Answers s (execCanFrameEnd n b how s) := by
  unfold execCanFrameEnd
  split <;> simp

@[simp] theorem kept_requestBuf (n : Nat) (b : Nat) (s : State) : kept (requestBuf n b s) = kept s := by simp [requestBuf]

@[simp] theorem kept_txreqOp (n : Nat) (v : Byte) (s : State) : kept (txreqOp n v s) = kept s := by simp [txreqOp]

@[simp] theorem kept_txcanOp (n : Nat) (v : Byte) (s : State) : kept (txcanOp n v s) = kept s := by simp [txcanOp]

@[simp] theorem kept_sealSbuf (n : Nat) (s : State) (b : Nat) : kept (sealSbuf n s b) = kept s := by
  unfold sealSbuf
  dsimp only
  (repeat' split) <;> simp

@[simp] theorem kept_loadRefs (trig : Nat) (s : State) : kept (loadRefs trig s) = kept s := by simp [loadRefs]

@[simp] theorem kept_putPoint (m blk c : Nat) (le : Bool) (bs : Bytes × State) (e : MapEnt) :
    kept (putPoint m blk c le bs e).2 = kept bs.2 := by
  simp [putPoint]
theorem kept_putPoints (m blk c : Nat) (le : Bool) (l : List MapEnt) (bs : Bytes × State) :
    kept (l.foldl (putPoint m blk c le) bs).2 = kept bs.2 := by
  induction l generalizing bs with
  | nil => rfl
  | cons e l ih => rw [List.foldl_cons, ih, kept_putPoint]

@[simp] theorem kept_stageWire (m : Nat) (blk : Nat) (c : Nat) (le : Bool) (q : Nat) (b : Bytes) (s : State) (e : MapEnt) :
    kept (stageWire m blk c le q b s e) = kept s := by simp [stageWire]

@[simp] theorem kept_outFrame (s : State) (t : StnTmpl) (i : Nat) (num : Byte) : kept (outFrame s t i num).2 = kept s := by
  simp [outFrame, kept_putPoints]

@[simp] theorem kept_sendOut (k : Nat) (t : StnTmpl) (num : Byte) (s : State) (i : Nat) :
    kept (sendOut k t num s i) = kept s := by
  have hseal (f) (u : State) : kept (sealTx k f u).2 = kept u := kept_sealTx k f u
  unfold sendOut
  dsimp only
  split
  · split
    · rfl
    · split
      next f s1 h =>
        have := congrArg (fun x => kept x.2) h
        simpa using this.symm
      next s1 h =>
        have := congrArg (fun x => kept x.2) h
        simpa using this.symm
  · simp

@[simp] theorem kept_exchange (s : State) (k : Nat) : kept (exchange s k) = kept s := by simp [exchange]

@[simp] theorem kept_stageFrame (k : Nat) (q : Nat) (s : State) (f : Nat × Bytes) : kept (stageFrame k q s f) = kept s := by
  simp [stageFrame]

@[simp] theorem kept_stageQual (k : Nat) (q : Nat) (s : State) : kept (stageQual k q s) = kept s := by simp [stageQual]

@[simp] theorem kept_takeFrame (k : Nat) (i : Nat) (d : Bytes) (s : State) : kept (takeFrame k i d s) = kept s := by
  simp [takeFrame]

@[simp] theorem kept_takeBuf (n : Nat) (s : State) (kv : Nat × Option RxItem) : kept (takeBuf n s kv) = kept s := by
  unfold takeBuf
  (repeat' split) <;> simp

@[simp] theorem kept_endSess (k : Nat) (s : State) : kept (endSess k s) = kept s := (rfl)

@[simp] theorem kept_freeSlot (k : Nat) (s : State) : kept (freeSlot k s) = kept s := (rfl)

@[simp] theorem kept_evict (k : Nat) (s : State) : kept (evict k s) = kept s := by simp [evict]

@[simp] theorem kept_missAck (k : Nat) (s : State) : kept (missAck k s) = kept s := by simp [missAck]

@[simp] theorem kept_evalAck (k : Nat) (s : State) (e : Exch) : kept (evalAck k s e) = kept s := by simp [evalAck]

@[simp] theorem kept_evalStation (s : State) (k : Nat) : kept (evalStation s k) = kept s := by simp [evalStation]

@[simp] theorem kept_finCan (d : HostDesc) (st : Nat) (data : Nat) (s : State) : kept (finCan d st data s) = kept s := by
  simp [finCan]

@[simp] theorem kept_evictAsked (s : State) (k : Nat) : kept (evictAsked s k) = kept s := by simp [evictAsked]

@[simp] theorem kept_canReceive (s : State) : kept (canReceive s) = kept s := by simp [canReceive]

@[simp] theorem kept_sendFrame (n : Nat) (f : CanFrame) (s : State) : kept (sendFrame n f s) = kept s := by simp [sendFrame]

@[simp] theorem kept_sendJoin (n : Nat) (d : Bytes) (s : State) : kept (sendJoin n d s) = kept s := by simp [sendJoin]

@[simp] theorem kept_refuse (n : Nat) (reason : Nat) (uid : W64) (s : State) : kept (refuse n reason uid s) = kept s := by
  simp [refuse]

@[simp] theorem kept_challenge (n : Nat) (k : Nat) (cls : W16) (uid : W64) (ns : W128) (s : State) :
    kept (challenge n k cls uid ns s) = kept s := by simp [challenge, ↓kept_mk, ↓kept_fold]

@[simp] theorem kept_joinReq (n : Nat) (version : Byte) (cls : W16) (uid : W64) (ns : W128) (s : State) :
    kept (joinReq n version cls uid ns s) = kept s := by
  unfold joinReq
  (repeat' split) <;> simp

@[simp] theorem kept_accept (j : JoinRec) (ss : Bytes) (s : State) : kept (accept j ss s) = kept s := (rfl)

@[simp] theorem kept_sendAccept (s : State) (j : JoinRec) : kept (sendAccept s j) = kept s := by
  unfold sendAccept
  dsimp only
  (repeat' split) <;> simp

@[simp] theorem kept_canTransmit (s : State) : kept (canTransmit s) = kept s := by
  unfold canTransmit
  split <;> simp [↓kept_mk, ↓kept_fold]

@[simp] theorem kept_joinBack (j : JoinRec) (s : State) : kept (joinBack j s) = kept s := by simp [joinBack]

@[simp] theorem kept_dropJoin (j : JoinRec) (s : State) : kept (dropJoin j s) = kept s := (rfl)

@[simp] theorem kept_joinExpires (j : JoinRec) (s : State) : kept (joinExpires j s) = kept s := by simp [joinExpires]

@[simp] theorem kept_dropJoins (s : State) : kept (dropJoins s) = kept s := by simp [dropJoins, ↓kept_mk, ↓kept_fold]

@[simp] theorem kept_response (n : Nat) (slot : Nat) (uid : W64) (tag : Bytes) (s : State) :
    kept (response n slot uid tag s) = kept s := by
  unfold response
  (repeat' split) <;> simp

@[simp] theorem kept_leaveOk (k : Nat) (uid : W64) (s : State) : kept (leaveOk k uid s) = kept s := by simp [leaveOk]

@[simp] theorem answers_execJoinReq (n : Fin 40) (version : Byte) (cls : W16) (uid : W64) (ns : W128) (s : State) :
    Answers s (execJoinReq n version cls uid ns s) := by simp [execJoinReq]

@[simp] theorem answers_execResponse (n : Fin 40) (slot : W16) (uid : W64) (tag : W128) (s : State) :
    Answers s (execResponse n slot uid tag s) := by simp [execResponse]

@[simp] theorem answers_execJoinTimeout (k : Fin 1024) (s : State) : Answers s (execJoinTimeout k s) := by
  unfold execJoinTimeout
  split <;> simp

@[simp] theorem answers_execLeave (n : Fin 40) (f : CanFrame) (s : State) : Answers s (execLeave n f s) := by simp [execLeave]

@[simp] theorem kept_storeFrame (n : Nat) (target : Nat) (x : RxItem) (s : State) :
    kept (storeFrame n target x s) = kept s := by simp [storeFrame]

@[simp] theorem kept_filterFrame (n : Nat) (f : CanFrame) (ts : W32) (ok : Bool) (s : State) :
    kept (filterFrame n f ts ok s) = kept s := by
  unfold filterFrame
  split <;> simp

@[simp] theorem kept_joinMessage (n : Nat) (f : CanFrame) (s : State) : kept (joinMessage n f s) = kept s := by
  simp [joinMessage]

@[simp] theorem answers_execCanFrameReceive (n : Fin 40) (f : CanFrame) (ts : W32) (s : State) :
    Answers s (execCanFrameReceive n f ts s) := by
  unfold execCanFrameReceive
  dsimp only
  (repeat' split) <;> simp

@[simp] theorem kept_fifoLatch (n : Nat) (s : State) : kept (fifoLatch n s) = kept s := (rfl)

@[simp] theorem kept_fifopopOp (n : Nat) (v : W32) (s : State) : kept (fifopopOp n v s) = kept s := by simp [fifopopOp]

@[simp] theorem kept_effLinkEvict (d : HostDesc) (s : State) : kept (effLinkEvict d s) = kept s := by simp [effLinkEvict]

@[simp] theorem kept_effLinkBuson (d : HostDesc) (s : State) : kept (effLinkBuson d s) = kept s := by simp [effLinkBuson]

@[simp] theorem answers_execLinkEvict (d : HostDesc) (s : State) : Answers s (execLinkEvict d s) := by simp [execLinkEvict]

@[simp] theorem answers_execLinkBuson (d : HostDesc) (s : State) : Answers s (execLinkBuson d s) := by simp [execLinkBuson]

/-! ### SOLV -/

@[simp] theorem kept_slotPut (s : State) (k : Nat) (v : SSlot) : kept (slotPut s k v) = kept s := (rfl)

@[simp] theorem kept_setRun (r : SRun) (s : State) : kept (setRun r s) = kept s := (rfl)

@[simp] theorem kept_dropRun (task : W16) (s : State) : kept (dropRun task s) = kept s := (rfl)

@[simp] theorem kept_eccStep (st : SStruct) (s : State) : kept (eccStep st s) = kept s := by
  simp [eccStep, ↓kept_mk, ↓kept_fold]

@[simp] theorem kept_initRun (r0 : SRun) (s : State) : kept (initRun r0 s) = kept s := by simp [initRun]

@[simp] theorem kept_startRun (r : SRun) (s : State) : kept (startRun r s) = kept s := by simp [startRun]

@[simp] theorem kept_postResult (st : SStruct) (x : SResult) (s : State) : kept (postResult st x s) = kept s := by
  simp [postResult]

@[simp] theorem kept_rbTaken (q : SSlot) (k : Nat) (b : Nat) (s : State) : kept (rbTaken q k b s) = kept s := (rfl)

@[simp] theorem kept_cutRuns (endc : Byte) (s : State) : kept (cutRuns endc s) = kept s := (rfl)

@[simp] theorem kept_solvRole (s : State) : kept (solvRole s) = kept s := (rfl)

@[simp] theorem kept_solvDisable (s : State) : kept (solvDisable s) = kept s := (rfl)

@[simp] theorem kept_finDelta (d : HostDesc) (st : Nat) (data : Nat) (s : State) : kept (finDelta d st data s) = kept s := by
  simp [finDelta]

@[simp] theorem kept_finSolv (d : HostDesc) (st : Nat) (data : Nat) (s : State) : kept (finSolv d st data s) = kept s := by
  simp [finSolv]

@[simp] theorem kept_deltaBegin (k : Nat) (d : HostDesc) (s : State) : kept (deltaBegin k d s) = kept s := by
  unfold deltaBegin
  split <;> simp

@[simp] theorem kept_deltaEnd (k : Nat) (w : DeltaRun) (s : State) : kept (deltaEnd k w s) = kept s := by simp [deltaEnd]

@[simp] theorem kept_runsInit (k : Nat) (s : State) : kept (runsInit k s) = kept s := by simp [runsInit]

@[simp] theorem kept_deltaPump (n k : Nat) (s : State) : kept (deltaPump n k s) = kept s := by
  induction n generalizing s with
  | zero => rfl
  | succ n ih =>
    simp only [deltaPump]
    (repeat' split) <;> simp [ih, ↓kept_mk, ↓kept_fold]

@[simp] theorem kept_deltaGo (k : Nat) (s : State) : kept (deltaGo k s) = kept s := by simp [deltaGo]

@[simp] theorem kept_effSolvDelta (d : HostDesc) (s : State) : kept (effSolvDelta d s) = kept s := by simp [effSolvDelta]

@[simp] theorem kept_dropDeltas (k : Nat) (s : State) : kept (dropDeltas k s) = kept s := by
  unfold dropDeltas
  exact (kept_foldl _ (fun s d => kept_finDelta d _ _ s) _ _).trans (kept_slotPut ..)

@[simp] theorem kept_capture (r : SRun) (s : State) : kept (capture r s) = kept s := by simp [capture]

@[simp] theorem kept_startHost (t : LTask) (e : SlotE) (s : State) (d : HostDesc) : kept (startHost t e s d) = kept s := by
  simp [startHost]

@[simp] theorem kept_startHosts (t : LTask) (e : SlotE) (s : State) : kept (startHosts t e s) = kept s := by
  simp [startHosts, ↓kept_mk, ↓kept_fold]

@[simp] theorem kept_passCycles (task : Nat) (e : SlotE) (s : State) : kept (passCycles task e s) = kept s := by
  unfold passCycles
  split <;> simp

@[simp] theorem kept_newCycles (task : Nat) (e : SlotE) (s : State) : kept (newCycles task e s) = kept s := by
  unfold newCycles
  split <;> simp

@[simp] theorem kept_passFlows (k : Nat) (vec : List F64) (s : State) : kept (passFlows k vec s) = kept s := by
  simp [passFlows, ↓kept_mk, ↓kept_fold]

@[simp] theorem kept_publishBind (vec : List F64) (s : State) (b : PubBind) : kept (publishBind vec s b) = kept s := by
  simp [publishBind]

@[simp] theorem kept_beginLoad (k : Nat) (b : Bytes) (fresh : Bool) (d : Option HostDesc) (s : State) :
    kept (beginLoad k b fresh d s) = kept s := (rfl)

@[simp] theorem kept_loadFailed (k : Nat) (e : Nat) (s : State) : kept (loadFailed k e s) = kept s := by simp [loadFailed]

@[simp] theorem answers_execStructureLoad (k : Fin 4) (s : State) : Answers s (execStructureLoad k s) := by
  unfold execStructureLoad
  dsimp only
  (repeat' split) <;> simp

@[simp] theorem kept_effSolvReload (d : HostDesc) (s : State) : kept (effSolvReload d s) = kept s := by
  unfold effSolvReload
  dsimp only
  (repeat' split) <;> simp [↓kept_mk, ↓kept_fold]

@[simp] theorem kept_effSolvRun (d : HostDesc) (s : State) : kept (effSolvRun d s) = kept s := by
  unfold effSolvRun
  split <;> simp [↓kept_mk, ↓kept_fold]

@[simp] theorem kept_effSolvCut (d : HostDesc) (s : State) : kept (effSolvCut d s) = kept s := by
  unfold effSolvCut
  split <;> simp

@[simp] theorem kept_solvReadEnd (c : CopyRun) (s : State) : kept (solvReadEnd c s) = kept s := by
  unfold solvReadEnd
  dsimp only
  (repeat' split) <;> simp

@[simp] theorem kept_effSolvRead (d : HostDesc) (s : State) : kept (effSolvRead d s) = kept s := by simp [effSolvRead]

@[simp] theorem answers_execSolvDelta (d : HostDesc) (s : State) : Answers s (execSolvDelta d s) := by simp [execSolvDelta]

@[simp] theorem answers_execSolvRun (d : HostDesc) (s : State) : Answers s (execSolvRun d s) := by simp [execSolvRun]

@[simp] theorem answers_execSolvCut (d : HostDesc) (s : State) : Answers s (execSolvCut d s) := by simp [execSolvCut]

@[simp] theorem answers_execSolvRead (d : HostDesc) (s : State) : Answers s (execSolvRead d s) := by simp [execSolvRead]

@[simp] theorem answers_execSolvReload (d : HostDesc) (s : State) : Answers s (execSolvReload d s) := by simp [execSolvReload]

@[simp] theorem kept_keepSlot (k : Nat) (b : Bytes) (s : State) : kept (keepSlot k b s) = kept s := (rfl)

/-! ### PARC -/

@[simp] theorem kept_beginParc (b : Bytes) (s : State) : kept (beginParc b s) = kept s := (rfl)

@[simp] theorem answers_execParccfgLoad (s : State) : Answers s (execParccfgLoad s) := by
  simp [execParccfgLoad, ↓kept_mk, ↓kept_fold]

@[simp] theorem kept_parcCapture (s : State) : kept (parcCapture s) = kept s := by simp [parcCapture, ↓kept_mk, ↓kept_fold]

@[simp] theorem kept_parcLong (idx : Nat) (e : SlotE) (s : State) : kept (parcLong idx e s) = kept s := by
  unfold parcLong
  dsimp only
  (repeat' split) <;> simp [↓kept_mk, ↓kept_fold]

@[simp] theorem answers_execParcelStepCommit (s : State) : Answers s (execParcelStepCommit s) := by
  unfold execParcelStepCommit
  dsimp only
  (repeat' split) <;> simp [↓kept_mk, ↓kept_fold]

@[simp] theorem kept_parcDisable (s : State) : kept (parcDisable s) = kept s := (rfl)

@[simp] theorem kept_parcPublish (q : Nat) (s : State) (b : ParcBind) : kept (parcPublish q s b) = kept s := by
  simp [parcPublish]

@[simp] theorem kept_parcPub (s : State) : kept (parcPub s) = kept s := by
  unfold parcPub
  split <;> simp [↓kept_mk, ↓kept_fold]

@[simp] theorem kept_finParc (d : HostDesc) (st : Nat) (data : Nat) (s : State) : kept (finParc d st data s) = kept s := by
  simp [finParc]

@[simp] theorem kept_effParcSet (d : HostDesc) (s : State) : kept (effParcSet d s) = kept s := by
  unfold effParcSet
  dsimp only
  (repeat' split) <;> simp [↓kept_mk, ↓kept_fold]

@[simp] theorem kept_parcReadEnd (r : CopyRun) (s : State) : kept (parcReadEnd r s) = kept s := by
  simp [parcReadEnd, ↓kept_mk, ↓kept_fold]

@[simp] theorem kept_effParcRead (d : HostDesc) (s : State) : kept (effParcRead d s) = kept s := by simp [effParcRead]

@[simp] theorem answers_execParcSet (d : HostDesc) (s : State) : Answers s (execParcSet d s) := by simp [execParcSet]

@[simp] theorem answers_execParcRead (d : HostDesc) (s : State) : Answers s (execParcRead d s) := by simp [execParcRead]

@[simp] theorem kept_keepParc (b : Bytes) (s : State) : kept (keepParc b s) = kept s := (rfl)

/-! ### TIME and RTC -/

@[simp] theorem kept_applyStep (v : W128) (s : State) : kept (applyStep v s) = kept s := by
  unfold applyStep
  split <;> simp [keepTime, ↓kept_mk, ↓kept_fold]

@[simp] theorem kept_stepOp (m : RegMaster) (v : W128) (s : State) : kept (stepOp m v s) = kept s := by simp [stepOp]

@[simp] theorem kept_gridStart (l : Nat) (switching : Bool) (s : State) : kept (gridStart l switching s) = kept s := by
  simp [gridStart, ↓kept_mk, ↓kept_fold]

@[simp] theorem kept_trigPut (s : State) (n : Nat) (v : Trig) : kept (trigPut s n v) = kept s := (rfl)

@[simp] theorem kept_trig0Frame (s : State) : kept (trig0Frame s) = kept s := (rfl)

@[simp] theorem kept_trigPulse (g : Trig) (s : State) : kept (trigPulse g s) = kept s := by
  simp [trigPulse, ↓kept_mk, ↓kept_fold]

@[simp] theorem kept_fireTrig (n : Nat) (s : State) : kept (fireTrig n s) = kept s := by simp [fireTrig]

@[simp] theorem answers_execTriggerCapture (n : Fin 32) (rising : Bool) (s : State) :
    Answers s (execTriggerCapture n rising s) := by simp [execTriggerCapture]

@[simp] theorem answers_execRtcEdge (s : State) : Answers s (execRtcEdge s) := by simp [execRtcEdge, ↓kept_mk, ↓kept_fold]

@[simp] theorem answers_execRtcSecond (s : State) : Answers s (execRtcSecond s) := by simp [execRtcSecond, ↓kept_mk, ↓kept_fold]

@[simp] theorem answers_execRtcAlarm (s : State) : Answers s (execRtcAlarm s) := by simp [execRtcAlarm, ↓kept_mk, ↓kept_fold]

@[simp] theorem answers_execOscillatorStop (s : State) : Answers s (execOscillatorStop s) := by
  simp [execOscillatorStop, ↓kept_mk, ↓kept_fold]

@[simp] theorem kept_finRtc (d : HostDesc) (st : Nat) (data : Nat) (s : State) : kept (finRtc d st data s) = kept s := by
  simp [finRtc]

@[simp] theorem kept_rtcReadDone (s : State) (d : HostDesc) : kept (rtcReadDone s d) = kept s := by simp [rtcReadDone]

@[simp] theorem answers_execSnapTaken (s : State) : Answers s (execSnapTaken s) := by simp [execSnapTaken, ↓kept_mk, ↓kept_fold]

@[simp] theorem answers_execCommitApplied (s : State) : Answers s (execCommitApplied s) := by
  unfold execCommitApplied
  rw [answers_next]
  split
  · dsimp only
    rw [kept_foldl _ (fun u d => kept_finRtc d _ _ u), kept_mk]
    rfl
  · rfl

@[simp] theorem kept_requestSnap (s : State) : kept (requestSnap s) = kept s := (rfl)

@[simp] theorem kept_requestCommit (s : State) : kept (requestCommit s) = kept s := (rfl)

@[simp] theorem answers_execOperatingTimeSecond (s : State) : Answers s (execOperatingTimeSecond s) := by
  simp [execOperatingTimeSecond, ↓kept_mk, ↓kept_fold]

@[simp] theorem kept_effTimeRead (d : HostDesc) (s : State) : kept (effTimeRead d s) = kept s := by simp [effTimeRead]

@[simp] theorem kept_effTimeRearm (d : HostDesc) (s : State) : kept (effTimeRearm d s) = kept s := by
  simp [effTimeRearm, ↓kept_mk, ↓kept_fold]

@[simp] theorem kept_effRtcRead (d : HostDesc) (s : State) : kept (effRtcRead d s) = kept s := (rfl)

@[simp] theorem kept_effRtcWrite (d : HostDesc) (s : State) : kept (effRtcWrite d s) = kept s := by
  simp [effRtcWrite, ↓kept_mk, ↓kept_fold]

@[simp] theorem answers_execTimeRead (d : HostDesc) (s : State) : Answers s (execTimeRead d s) := by simp [execTimeRead]

@[simp] theorem answers_execTimeRearm (d : HostDesc) (s : State) : Answers s (execTimeRearm d s) := by simp [execTimeRearm]

@[simp] theorem answers_execRtcRead (d : HostDesc) (s : State) : Answers s (execRtcRead d s) := by simp [execRtcRead]

@[simp] theorem answers_execRtcWrite (d : HostDesc) (s : State) : Answers s (execRtcWrite d s) := by simp [execRtcWrite]

/-! ### METR -/

@[simp] theorem kept_mfPut (s : State) (f : Nat) (v : MFeed) : kept (mfPut s f v) = kept s := (rfl)

@[simp] theorem kept_mpPut (s : State) (k : Nat) (v : MPair) : kept (mpPut s k v) = kept s := (rfl)

@[simp] theorem kept_phPut (s : State) (f : Nat) (p : Nat) (v : MPhase) : kept (phPut s f p v) = kept s := (rfl)

@[simp] theorem kept_credit (t : Nat) (x : Int) (s : State) : kept (credit t x s) = kept s := by
  simp [credit, ↓kept_mk, ↓kept_fold]

@[simp] theorem kept_cycleEnd (f : Nat) (p : Nat) (timeout : Bool) (s : State) : kept (cycleEnd f p timeout s) = kept s := by
  simp [cycleEnd]

@[simp] theorem kept_cycleMark (f : Nat) (p : Nat) (at_ : W64) (timeout : Bool) (s : State) :
    kept (cycleMark f p at_ timeout s) = kept s := by simp [cycleMark]

@[simp] theorem kept_phaseSample (f : Nat) (p : Nat) (v : Int) (i : Int) (ts : W64) (s : State) :
    kept (phaseSample f p v i ts s) = kept s := by simp [phaseSample]

@[simp] theorem kept_feedSample (xs : List Int) (ts : W64) (s : State) (f : Nat) : kept (feedSample xs ts s f) = kept s := by
  simp [feedSample]

@[simp] theorem kept_noteOverloads (codes : List (BitVec 24)) (s : State) : kept (noteOverloads codes s) = kept s := by
  simp [noteOverloads]

@[simp] theorem kept_sampleInstant (s : State) : kept (sampleInstant s) = kept s := by
  unfold sampleInstant
  split <;> simp [↓kept_mk, ↓kept_fold]

@[simp] theorem answers_execMetrSample (codes : List (BitVec 24)) (s0 : State) : Answers s0 (execMetrSample codes s0) := by
  simp [execMetrSample, ↓kept_mk, ↓kept_fold]

@[simp] theorem answers_execZeroCrossingTimeout (f : Fin 4) (p : Fin 3) (s : State) :
    Answers s (execZeroCrossingTimeout f p s) := by simp [execZeroCrossingTimeout]

@[simp] theorem kept_noteDir (k : Nat) (v : Int) (s : State) : kept (noteDir k v s) = kept s := by simp [noteDir]

@[simp] theorem kept_creditHeat (k : Nat) (v : Int) (h : Int) (s : State) : kept (creditHeat k v h s) = kept s := by
  simp [creditHeat]

@[simp] theorem kept_creditVe (k : Nat) (v : Int) (s : State) : kept (creditVe k v s) = kept s := by simp [creditVe]

@[simp] theorem kept_closePair (k : Nat) (tf : Option F64) (tr : Option F64) (v : Int) (s : State) :
    kept (closePair k tf tr v s) = kept s := by
  unfold closePair
  (repeat' split) <;> simp

@[simp] theorem answers_execHeatWindowClose (rtd : List (RtdReading × RtdReading)) (freq : List F64) (high : W16) (s : State) :
    Answers s (execHeatWindowClose rtd freq high s) := by simp [execHeatWindowClose]

@[simp] theorem answers_execPulse (n : Fin 16) (pairedHigh : Bool) (tooFast : Bool) (s : State) :
    Answers s (execPulse n pairedHigh tooFast s) := by simp [execPulse]

@[simp] theorem kept_mbusPair (s : State) (k : Nat) : kept (mbusPair s k) = kept s := by
  unfold mbusPair
  dsimp only
  (repeat' split) <;> simp

@[simp] theorem kept_stageBind (s : State) (b : MBind) : kept (stageBind s b) = kept s := by simp [stageBind]

@[simp] theorem kept_takeDir (s : State) (k : Nat) : kept (takeDir s k) = kept s := (rfl)

@[simp] theorem answers_execMetrSlot (s : State) : Answers s (execMetrSlot s) := by simp [execMetrSlot]

@[simp] theorem kept_closeInterval (short : Bool) (s : State) : kept (closeInterval short s) = kept s := by
  simp [closeInterval, ↓kept_mk, ↓kept_fold]

@[simp] theorem answers_execIntervalClose (s : State) : Answers s (execIntervalClose s) := by
  unfold execIntervalClose
  split <;> simp

@[simp] theorem kept_calTake (s : State) (p : CalPend) : kept (calTake s p) = kept s := by simp [calTake, ↓kept_mk, ↓kept_fold]

@[simp] theorem kept_metrResume (s : State) : kept (metrResume s) = kept s := by
  unfold metrResume
  split <;> simp [↓kept_mk, ↓kept_fold]

@[simp] theorem kept_residualLost (gap : Nat) (s : State) : kept (residualLost gap s) = kept s := (rfl)

@[simp] theorem kept_calLoad (s : State) : kept (calLoad s) = kept s := by simp [calLoad, ↓kept_mk, ↓kept_fold]

@[simp] theorem kept_theftStart (s : State) : kept (theftStart s) = kept s := by simp [theftStart]

@[simp] theorem kept_theftConfig (s : State) : kept (theftConfig s) = kept s := (rfl)

@[simp] theorem answers_execTheftWatchSecond (rms : List (BitVec 12)) (s : State) : Answers s (execTheftWatchSecond rms s) := by
  simp [execTheftWatchSecond, ↓kept_mk, ↓kept_fold]

@[simp] theorem kept_finMetr (d : HostDesc) (st : Nat) (data : Nat) (s : State) : kept (finMetr d st data s) = kept s := by
  simp [finMetr]

@[simp] theorem kept_effMetrRead (d : HostDesc) (s : State) : kept (effMetrRead d s) = kept s := by
  unfold effMetrRead
  dsimp only
  (repeat' split) <;> simp

@[simp] theorem kept_effMetrCal (d : HostDesc) (s : State) : kept (effMetrCal d s) = kept s := by
  simp [effMetrCal, ↓kept_mk, ↓kept_fold]

@[simp] theorem kept_effMetrLock (d : HostDesc) (s : State) : kept (effMetrLock d s) = kept s := by
  simp [effMetrLock, ↓kept_mk, ↓kept_fold]

@[simp] theorem kept_effMetrTwclr (d : HostDesc) (s : State) : kept (effMetrTwclr d s) = kept s := by
  simp [effMetrTwclr, ↓kept_mk, ↓kept_fold]

@[simp] theorem answers_execMetrRead (d : HostDesc) (s : State) : Answers s (execMetrRead d s) := by simp [execMetrRead]

@[simp] theorem answers_execMetrCal (d : HostDesc) (s : State) : Answers s (execMetrCal d s) := by simp [execMetrCal]

@[simp] theorem answers_execMetrLock (d : HostDesc) (s : State) : Answers s (execMetrLock d s) := by simp [execMetrLock]

@[simp] theorem answers_execMetrTwclr (d : HostDesc) (s : State) : Answers s (execMetrTwclr d s) := by simp [execMetrTwclr]

/-! ### SEC -/

@[simp] theorem kept_rootPut (s : State) (k : Nat) (v : Root) : kept (rootPut s k v) = kept s := (rfl)

@[simp] theorem kept_takeOcnt (n : Nat) (s : State) : kept (takeOcnt n s) = kept s := (rfl)

@[simp] theorem kept_finSec (d : HostDesc) (st : Nat) (data : Nat) (s : State) : kept (finSec d st data s) = kept s := by
  simp [finSec]

@[simp] theorem kept_blobSess (k : Nat) (v : Sess) (s : State) : kept (blobSess k v s) = kept s := (rfl)

@[simp] theorem kept_blobPool (d : HostDesc) (kind : Byte) (k : Nat) (v : Sess) (s : State) :
    kept (blobPool d kind k v s) = kept s := by simp [blobPool]

@[simp] theorem kept_blobInstall (d : HostDesc) (sec : Bytes) (s : State) : kept (blobInstall d sec s) = kept s := by
  unfold blobInstall
  dsimp only
  (repeat' split) <;> simp [↓kept_mk, ↓kept_fold]

@[simp] theorem kept_blobDone (d : HostDesc) (s : State) : kept (blobDone d s) = kept s := by
  unfold blobDone
  (repeat' split) <;> simp

@[simp] theorem kept_effSecVerify (blob : Bool) (d : HostDesc) (s : State) : kept (effSecVerify blob d s) = kept s := (rfl)

@[simp] theorem answers_execSecSigned (d : HostDesc) (s : State) : Answers s (execSecSigned d s) := by simp [execSecSigned]

@[simp] theorem answers_execSecBlob (d : HostDesc) (s : State) : Answers s (execSecBlob d s) := by simp [execSecBlob]

@[simp] theorem kept_effSecAttest (d : HostDesc) (s : State) : kept (effSecAttest d s) = kept s := by
  unfold effSecAttest
  split <;> simp [↓kept_mk, ↓kept_fold]

@[simp] theorem answers_execSecAttest (d : HostDesc) (s : State) : Answers s (execSecAttest d s) := by simp [execSecAttest]

@[simp] theorem kept_effSecRead (d : HostDesc) (s : State) : kept (effSecRead d s) = kept s := by
  unfold effSecRead
  split <;> simp

@[simp] theorem answers_execSecRead (d : HostDesc) (s : State) : Answers s (execSecRead d s) := by simp [execSecRead]

@[simp] theorem kept_sessEnd (k : Nat) (s : State) : kept (sessEnd k s) = kept s := (rfl)

@[simp] theorem kept_effSecRetire (d : HostDesc) (s : State) : kept (effSecRetire d s) = kept s := by simp [effSecRetire]

@[simp] theorem answers_execSecRetire (d : HostDesc) (s : State) : Answers s (execSecRetire d s) := by simp [execSecRetire]

@[simp] theorem kept_effSecRoot (d : HostDesc) (s : State) : kept (effSecRoot d s) = kept s := by simp [effSecRoot]

@[simp] theorem answers_execSecRoot (d : HostDesc) (s : State) : Answers s (execSecRoot d s) := by simp [execSecRoot]

@[simp] theorem kept_effSecFloor (d : HostDesc) (s : State) : kept (effSecFloor d s) = kept s := by
  simp [effSecFloor, ↓kept_mk, ↓kept_fold]

@[simp] theorem answers_execSecFloor (d : HostDesc) (s : State) : Answers s (execSecFloor d s) := by simp [execSecFloor]

@[simp] theorem kept_unwrapSess (kek : Bytes) (s : State) (kv : Nat × Sess) : kept (unwrapSess kek s kv) = kept s := by
  unfold unwrapSess
  split <;> simp

@[simp] theorem kept_unwrapSecrets (s : State) : kept (unwrapSecrets s) = kept s := by
  unfold unwrapSecrets
  split <;> simp [↓kept_mk, ↓kept_fold]

@[simp] theorem kept_tamperSet (d : HostDesc) (s : State) : kept (tamperSet d s) = kept s := by
  unfold tamperSet
  dsimp only
  (repeat' split) <;> simp [↓kept_mk, ↓kept_fold]

@[simp] theorem kept_effSecCtl (d : HostDesc) (s : State) : kept (effSecCtl d s) = kept s := by
  unfold effSecCtl
  split <;> simp [↓kept_mk, ↓kept_fold]

@[simp] theorem answers_execSecCtl (d : HostDesc) (s : State) : Answers s (execSecCtl d s) := by simp [execSecCtl]

@[simp] theorem kept_tamperSeen (s : State) : kept (tamperSeen s) = kept s := by simp [tamperSeen, ↓kept_mk, ↓kept_fold]

@[simp] theorem kept_snuff (c : Nat) (s : State) : kept (snuff c s) = kept s := by simp [snuff, ↓kept_mk, ↓kept_fold]

@[simp] theorem answers_execTamperEvent (c : Fin 14) (s : State) : Answers s (execTamperEvent c s) := by simp [execTamperEvent]

@[simp] theorem answers_execDrbgHealthFailure (s : State) : Answers s (execDrbgHealthFailure s) := by
  simp [execDrbgHealthFailure, ↓kept_mk, ↓kept_fold]

@[simp] theorem kept_unfrzOp (v : W32) (s : State) : kept (unfrzOp v s) = kept s := by simp [unfrzOp, ↓kept_mk, ↓kept_fold]

@[simp] theorem kept_deriveKeys (secret : Bytes) (s : State) : kept (deriveKeys secret s) = kept s := (rfl)

@[simp] theorem kept_secPowerOn (s : State) : kept (secPowerOn s) = kept s := (rfl)

@[simp] theorem kept_rootCheck (s : State) (k : Nat) : kept (rootCheck s k) = kept s := by simp [rootCheck]

@[simp] theorem kept_drbgStart (s : State) : kept (drbgStart s) = kept s := by simp [drbgStart, ↓kept_mk, ↓kept_fold]

@[simp] theorem kept_secStart (cold : Bool) (s : State) : kept (secStart cold s) = kept s := by
  unfold secStart
  dsimp only
  (repeat' split) <;> simp [↓kept_mk, ↓kept_fold]

/-! ### The contract checker -/

@[simp] theorem kept_countRefused (code : Nat) (s : State) : kept (countRefused code s) = kept s := by simp [countRefused]

@[simp] theorem kept_checked (r : Nat × Nat) (s : State) : kept (checked r s) = kept s := by
  simp [checked, ↓kept_mk, ↓kept_fold]

/-! ### MBUS -/

@[simp] theorem kept_mbPut (s : State) (k : Nat) (v : MbMaster) : kept (mbPut s k v) = kept s := (rfl)

@[simp] theorem kept_mtrPut (s : State) (k : Nat) (i : Nat) (v : Meter) : kept (mtrPut s k i v) = kept s := (rfl)

@[simp] theorem kept_mbRequest (k : Nat) (i : Nat) (g : MtrCfg) (s : State) : kept (mbRequest k i g s) = kept s := (rfl)

@[simp] theorem kept_mbSelect (k : Nat) (g : MtrCfg) (s : State) : kept (mbSelect k g s) = kept s := (rfl)

@[simp] theorem kept_mbStart (k : Nat) (s : State) : kept (mbStart k s) = kept s := by
  unfold mbStart
  dsimp only
  (repeat' split) <;> simp

@[simp] theorem kept_mbTransmit (s : State) (k : Nat) : kept (mbTransmit s k) = kept s := by simp [mbTransmit]

@[simp] theorem kept_mbusTransmit (s : State) : kept (mbusTransmit s) = kept s := by simp [mbusTransmit]

@[simp] theorem kept_mbAdd (k : Nat) (vs : List MbVal) (s : State) : kept (mbAdd k vs s) = kept s := (rfl)

@[simp] theorem kept_mbEnd (k : Nat) (s : State) : kept (mbEnd k s) = kept s := (rfl)

@[simp] theorem kept_mbMiss (k : Nat) (i : Nat) (g : MtrCfg) (s : State) : kept (mbMiss k i g s) = kept s := (rfl)

@[simp] theorem kept_mbAgain (k : Nat) (s : State) : kept (mbAgain k s) = kept s := by
  unfold mbAgain
  dsimp only
  (repeat' split) <;> simp

@[simp] theorem kept_mbValid (k : Nat) (i : Nat) (g : MtrCfg) (last : Option W64) (recs : Bytes) (s : State) :
    kept (mbValid k i g last recs s) = kept s := by simp [mbValid]

@[simp] theorem kept_mbMode7 (k : Nat) (i : Nat) (g : MtrCfg) (afl : Option Afl) (body : Bytes) (off : Nat) (s : State) :
    kept (mbMode7 k i g afl body off s) = kept s := by
  unfold mbMode7
  dsimp only
  (repeat' split) <;> simp

@[simp] theorem kept_mbResponse (k : Nat) (i : Nat) (g : MtrCfg) (b : Bytes) (s : State) :
    kept (mbResponse k i g b s) = kept s := by
  unfold mbResponse
  dsimp only
  (repeat' split) <;> simp

@[simp] theorem answers_execRspUd (k : Fin 6) (rx : MbusRx) (s : State) : Answers s (execRspUd k rx s) := by
  unfold execRspUd
  dsimp only
  (repeat' split) <;> simp

@[simp] theorem answers_execMbusResponseTimeout (k : Fin 6) (s : State) : Answers s (execMbusResponseTimeout k s) := by
  simp [execMbusResponseTimeout]

@[simp] theorem kept_mbStage (s : State) (v : MbVal) : kept (mbStage s v) = kept s := by
  unfold mbStage
  split <;> simp

@[simp] theorem kept_mbusReceive (s : State) : kept (mbusReceive s) = kept s := by simp [mbusReceive]

@[simp] theorem kept_effLinkRead (d : HostDesc) (s : State) : kept (effLinkRead d s) = kept s := by simp [effLinkRead]

@[simp] theorem answers_execLinkRead (d : HostDesc) (s : State) : Answers s (execLinkRead d s) := by simp [execLinkRead]

/-! ### The mirrored lines -/

@[simp] theorem kept_put1 (l : Nat) (b : Bytes) (s : State) : kept (put1 l b s) = kept s := (rfl)

@[simp] theorem kept_cePut (e : Nat) (v : CellEng) (s : State) : kept (cePut e v s) = kept s := (rfl)

@[simp] theorem kept_put2 (l : Nat) (b : Bytes) (s : State) : kept (put2 l b s) = kept s := (rfl)

@[simp] theorem kept_put3 (l : Nat) (b : Bytes) (s : State) : kept (put3 l b s) = kept s := by simp [put3]

@[simp] theorem kept_lsPut (g : Nat) (v : LoopSt) (s : State) : kept (lsPut g v s) = kept s := (rfl)

@[simp] theorem kept_umanPut (g : Nat) (v : F64) (s : State) : kept (umanPut g v s) = kept s := (rfl)

@[simp] theorem kept_put4 (l : Nat) (b : Bytes) (s : State) : kept (put4 l b s) = kept s := by
  unfold put4
  split <;> simp

@[simp] theorem kept_axRawPut (n : Nat) (a : Axis) (s : State) : kept (axRawPut n a s) = kept s := (rfl)

@[simp] theorem kept_putGrp (k : Nat) (j : Nat) (b : Bytes) (s : State) : kept (putGrp k j b s) = kept s := (rfl)

@[simp] theorem kept_putAx (l : Nat) (b : Bytes) (s : State) : kept (putAx l b s) = kept s := by simp [putAx]

@[simp] theorem kept_put5 (l : Nat) (b : Bytes) (s : State) : kept (put5 l b s) = kept s := by simp [put5]

@[simp] theorem kept_put6 (k : Nat) (b : Bytes) (s : State) : kept (put6 k b s) = kept s := by simp [put6]

@[simp] theorem kept_put7 (l : Nat) (b : Bytes) (s : State) : kept (put7 l b s) = kept s := (rfl)

@[simp] theorem kept_put8 (l : Nat) (b : Bytes) (s : State) : kept (put8 l b s) = kept s := by
  unfold put8
  dsimp only
  (repeat' split) <;> simp

@[simp] theorem kept_put9 (l : Nat) (b : Bytes) (s : State) : kept (put9 l b s) = kept s := by simp [put9]

@[simp] theorem kept_putLine (r : Nat) (l : Nat) (b : Bytes) (s : State) : kept (putLine r l b s) = kept s := by
  unfold putLine
  split <;> simp

@[simp] theorem kept_applyRec (s : State) (b : Bytes) : kept (applyRec s b) = kept s := by simp [applyRec]

@[simp] theorem kept_applyRecords (b : Bytes) (s : State) : kept (applyRecords b s) = kept s := by simp [applyRecords]

@[simp] theorem kept_storePut (k : Nat) (b : Bytes) (s : State) : kept (storePut k b s) = kept s := (rfl)

@[simp] theorem kept_parcPut (b : Bytes) (s : State) : kept (parcPut b s) = kept s := by simp [parcPut, ↓kept_mk, ↓kept_fold]

@[simp] theorem kept_itemInstall (i : Nat) (b : Bytes) (s : State) : kept (itemInstall i b s) = kept s := by simp [itemInstall]

/-! ### PAIR -/

@[simp] theorem kept_laneSent (lane : Nat) (s : State) : kept (laneSent lane s) = kept s := (rfl)

@[simp] theorem kept_mirSend (lane : Nat) (kind : Nat) (cseq : W64) (off : Nat) (item : Nat) (payload : Bytes) (s : State) :
    kept (mirSend lane kind cseq off item payload s) = kept s := by
  unfold mirSend
  dsimp only
  (repeat' split) <;> simp [↓kept_mk, ↓kept_fold]

@[simp] theorem kept_mirBoth (kind : Nat) (cseq : W64) (off : Nat) (payload : Bytes) (s : State) :
    kept (mirBoth kind cseq off payload s) = kept s := by simp [mirBoth]

@[simp] theorem kept_helloSend (lane : Nat) (s : State) : kept (helloSend lane s) = kept s := by
  unfold helloSend
  split <;> simp

@[simp] theorem kept_freshNonce (s : State) : kept (freshNonce s) = kept s := (rfl)

@[simp] theorem kept_helloBoth (s : State) : kept (helloBoth s) = kept s := by simp [helloBoth]

@[simp] theorem kept_finPair (d : HostDesc) (st : Nat) (data : Nat) (s : State) : kept (finPair d st data s) = kept s := by
  simp [finPair]

@[simp] theorem kept_finAll (ds : List (HostDesc × W64)) (st : Nat) (s : State) : kept (finAll ds st s) = kept s := by
  simp [finAll]

theorem keptBy_mirSess (k : MirKeys) (s : State) : KeptBy s (mirSess k s) := fun t h => by
  obtain ⟨u, hu, ht⟩ := Option.bind_eq_some_iff.mp h
  exact (keptBy_poolMake _ _ _ u t ht).trans (keptBy_poolMake _ _ _ s u hu)

@[simp] theorem kept_rekeyed (s : State) : kept (rekeyed s) = kept s := by
  unfold rekeyed
  split
  · have h := keptBy_getD (keptBy_bind (fun k => keptBy_mirSess k s) s.pair.nextKeys)
    simp [↓kept_mk, ↓kept_fold, h]
  · rfl

@[simp] theorem kept_mirAccept (lane : Nat) (b : Bytes) (next : Bool) (s : State) :
    kept (mirAccept lane b next s) = kept s := by simp [mirAccept, ↓kept_mk, ↓kept_fold]

@[simp] theorem kept_mirRecv (kind : Nat) (f : MirRx) (eff : Bytes → State → State) (s : State) (heff : ∀ x0 u, kept (eff x0
    u) = kept u) : kept (mirRecv kind f eff s) = kept s := by
  unfold mirRecv
  dsimp only
  (repeat' split) <;> simp [heff]

@[simp] theorem kept_takeHello (h : Hello) (s : State) : kept (takeHello h s) = kept s := (rfl)

@[simp] theorem kept_newHandshake (h : Hello) (s : State) : kept (newHandshake h s) = kept s := by
  unfold newHandshake
  generalize (s.pair.nonce.isEmpty || (s.pair.keys.isSome && s.pair.rekeyReq.isEmpty)) = own
  have hs1 : kept (takeHello h (if own = true then freshNonce s else s)) = kept s := by simp
  dsimp only
  split
  · rfl
  · split
    · split
      next t ht =>
        exact (keptBy_bind (fun k => keptBy_mirSess k _) _ t ht).trans hs1
      next => rfl
    · exact hs1

@[simp] theorem kept_helloTake (h : Hello) (s : State) : kept (helloTake h s) = kept s := by
  simp [helloTake, ↓kept_mk, ↓kept_fold]

@[simp] theorem answers_execHello (f : MirRx) (s : State) : Answers s (execHello f s) := by simp [execHello, ↓kept_mk, ↓kept_fold]

@[simp] theorem answers_execPseenTimeout (s : State) : Answers s (execPseenTimeout s) := by
  simp [execPseenTimeout, ↓kept_mk, ↓kept_fold]

@[simp] theorem answers_execHandshakeRetry (s : State) : Answers s (execHandshakeRetry s) := by
  simp [execHandshakeRetry, ↓kept_mk, ↓kept_fold]

@[simp] theorem kept_setLane (k : Nat) (v : Bool) (s : State) : kept (setLane k v s) = kept s := by
  simp [setLane, ↓kept_mk, ↓kept_fold]

@[simp] theorem answers_execMirrorLaneDown (k : Fin 2) (s : State) : Answers s (execMirrorLaneDown k s) := by
  simp [execMirrorLaneDown]

@[simp] theorem answers_execMirrorLaneUp (k : Fin 2) (s : State) : Answers s (execMirrorLaneUp k s) := by
  simp [execMirrorLaneUp]

@[simp] theorem answers_execIdle (f : MirRx) (s : State) : Answers s (execIdle f s) := by simp [execIdle]

@[simp] theorem kept_timeSend (s : State) : kept (timeSend s) = kept s := by simp [timeSend, ↓kept_mk, ↓kept_fold]

@[simp] theorem kept_timeOffset (lane : Nat) (p : Bytes) (rx : W128) (s : State) : kept (timeOffset lane p rx s) = kept s := by
  unfold timeOffset
  rw [kept_mk, kept_fold]

@[simp] theorem answers_execTime (f : MirRx) (s : State) : Answers s (execTime f s) := by simp [execTime, ↓kept_mk, ↓kept_fold]

@[simp] theorem kept_meterSend (s : State) : kept (meterSend s) = kept s := by simp [meterSend, ↓kept_mk, ↓kept_fold]

@[simp] theorem kept_meterCompare (b : Bytes) (s : State) : kept (meterCompare b s) = kept s := by simp [meterCompare]

@[simp] theorem answers_execMeter (f : MirRx) (s : State) : Answers s (execMeter f s) := by simp [execMeter]

@[simp] theorem kept_changeRole (new : BitVec 2) (cause : Nat) (s : State) : kept (changeRole new cause s) = kept s := by
  simp [changeRole, ↓kept_mk, ↓kept_fold]

@[simp] theorem kept_enterCopying (s : State) : kept (enterCopying s) = kept s := (rfl)

@[simp] theorem kept_idleMasters (s : State) : kept (idleMasters s) = kept s := (rfl)

@[simp] theorem kept_promoteSeal (s : State) (k : Nat) : kept (promoteSeal s k) = kept s := by simp [promoteSeal]

@[simp] theorem kept_clearTx (s : State) : kept (clearTx s) = kept s := (rfl)

@[simp] theorem kept_axesTake (s : State) : kept (axesTake s) = kept s := (rfl)

@[simp] theorem kept_promoted (s : State) : kept (promoted s) = kept s := by simp [promoted]

@[simp] theorem kept_keepFv (s : State) (k : Nat) : kept (keepFv s k) = kept s := by simp [keepFv]

@[simp] theorem kept_cancelTx (s : State) : kept (cancelTx s) = kept s := (rfl)

@[simp] theorem kept_demoted (s : State) : kept (demoted s) = kept s := by simp [demoted]

@[simp] theorem kept_swappedOut (s : State) : kept (swappedOut s) = kept s := by simp [swappedOut, ↓kept_mk, ↓kept_fold]

@[simp] theorem kept_joinPartner (s : State) : kept (joinPartner s) = kept s := by simp [joinPartner, ↓kept_mk, ↓kept_fold]

@[simp] theorem kept_modeGranted (s : State) : kept (modeGranted s) = kept s := by simp [modeGranted, ↓kept_mk, ↓kept_fold]

@[simp] theorem kept_roleChange (s : State) : kept (roleChange s) = kept s := by simp [roleChange, ↓kept_mk, ↓kept_fold]

@[simp] theorem kept_idleSend (s : State) : kept (idleSend s) = kept s := by simp [idleSend, ↓kept_mk, ↓kept_fold]

@[simp] theorem kept_mirExchange (s : State) : kept (mirExchange s) = kept s := by simp [mirExchange]

@[simp] theorem kept_pairFrameStart (s : State) : kept (pairFrameStart s) = kept s := by
  simp [pairFrameStart, ↓kept_mk, ↓kept_fold]

@[simp] theorem kept_queueItem (i : Nat) (cseq : W64) (b : Bytes) (s : State) : kept (queueItem i cseq b s) = kept s := (rfl)

@[simp] theorem kept_itemsDue (all : Bool) (s : State) : kept (itemsDue all s) = kept s := by
  simp [itemsDue, ↓kept_mk, ↓kept_fold]

@[simp] theorem kept_copyChunk (s : State) : kept (copyChunk s) = kept s := by
  unfold copyChunk
  split
  · rfl
  · dsimp only
    rw [kept_ite]
    split
    · rw [kept_itemsDue, kept_queueItem]
      rfl
    · rw [kept_queueItem]
      rfl

@[simp] theorem kept_cutSend (s : State) : kept (cutSend s) = kept s := by simp [cutSend, ↓kept_mk, ↓kept_fold]

@[simp] theorem kept_finalStop (s : State) : kept (finalStop s) = kept s := by simp [finalStop, ↓kept_mk, ↓kept_fold]

@[simp] theorem kept_activeCut (s : State) : kept (activeCut s) = kept s := by simp [activeCut, ↓kept_mk, ↓kept_fold]

@[simp] theorem kept_pairTransmit (s : State) : kept (pairTransmit s) = kept s := by simp [pairTransmit, ↓kept_mk, ↓kept_fold]

@[simp] theorem answers_execCut (f : MirRx) (s : State) : Answers s (execCut f s) := by simp [execCut, ↓kept_mk, ↓kept_fold]

@[simp] theorem answers_execCutend (f : MirRx) (s : State) : Answers s (execCutend f s) := by
  simp [execCutend, ↓kept_mk, ↓kept_fold]

@[simp] theorem answers_execStream (f : MirRx) (s : State) : Answers s (execStream f s) := by
  refine (answers_next ..).mpr (kept_mirRecv _ _ _ _ fun p u => ?_)
  dsimp only
  split
  · rfl
  · exact kept_guarded _ _ _ _ _ _ rfl

@[simp] theorem kept_installItem (i : Nat) (b : Bytes) (s : State) : kept (installItem i b s) = kept s := by
  simp [installItem, ↓kept_mk, ↓kept_fold]

@[simp] theorem kept_installItems (n : W64) (s : State) : kept (installItems n s) = kept s := by
  refine kept_foldl _ (fun u k => ?_) _ _
  split <;> simp [↓kept_mk, ↓kept_fold]

@[simp] theorem kept_applyLines (e : CutEnd) (s : State) : kept (applyLines e s) = kept s := by simp [applyLines]

@[simp] theorem kept_ackSend (e : CutEnd) (s : State) : kept (ackSend e s) = kept s := by simp [ackSend, ↓kept_mk, ↓kept_fold]

@[simp] theorem kept_dropCut (e : CutEnd) (s : State) : kept (dropCut e s) = kept s := (rfl)

@[simp] theorem kept_applyCut (s : State) (e : CutEnd) : kept (applyCut s e) = kept s := by
  simp [applyCut, ↓kept_mk, ↓kept_fold]

@[simp] theorem kept_switchCompare (s : State) : kept (switchCompare s) = kept s := by
  unfold switchCompare
  split <;> simp [↓kept_mk, ↓kept_fold]

@[simp] theorem kept_standbyCut (s : State) : kept (standbyCut s) = kept s := by simp [standbyCut]

@[simp] theorem answers_execCutSlot (s : State) : Answers s (execCutSlot s) := by simp [execCutSlot]

@[simp] theorem answers_execAck (f : MirRx) (s : State) : Answers s (execAck f s) := by simp [execAck, ↓kept_mk, ↓kept_fold]

@[simp] theorem kept_heartbeat (key : Bytes) (s : State) : kept (heartbeat key s) = kept s := by
  simp [heartbeat, ↓kept_mk, ↓kept_fold]

@[simp] theorem kept_bugleTake (b : Bytes) (s : State) : kept (bugleTake b s) = kept s := by
  simp [bugleTake, ↓kept_mk, ↓kept_fold]

theorem keptBy_witSess (key : Bytes) (s : State) : KeptBy s (witSess key s) := by
  unfold witSess
  split
  · simp
  · exact keptBy_poolMake _ _ _ _

@[simp] theorem kept_bugle (b : Bytes) (crcOk : Bool) (s : State) : kept (bugle b crcOk s) = kept s := by
  unfold bugle
  split
  · rfl
  split
  · simp
  split
  · simp
  split
  · split
    next t ht =>
      have := keptBy_witSess _ s t ht
      simp [this]
    next => simp
  · simp

@[simp] theorem answers_execBugle (body : Bytes) (crcOk : Bool) (s : State) : Answers s (execBugle body crcOk s) := by
  simp [execBugle]

@[simp] theorem kept_pairCfgWrite (off : Nat) (v : Nat) (s : State) : kept (pairCfgWrite off v s) = kept s := by
  simp [pairCfgWrite, ↓kept_mk, ↓kept_fold]

@[simp] theorem kept_effPairRead (d : HostDesc) (s : State) : kept (effPairRead d s) = kept s := by simp [effPairRead]

@[simp] theorem kept_effPairMode (d : HostDesc) (s : State) : kept (effPairMode d s) = kept s := by
  simp [effPairMode, ↓kept_mk, ↓kept_fold]

@[simp] theorem kept_effPairRekey (d : HostDesc) (s : State) : kept (effPairRekey d s) = kept s := by
  simp [effPairRekey, ↓kept_mk, ↓kept_fold]

@[simp] theorem kept_effPairResync (d : HostDesc) (s : State) : kept (effPairResync d s) = kept s := by simp [effPairResync]

@[simp] theorem kept_effPairSwapreq (d : HostDesc) (s : State) : kept (effPairSwapreq d s) = kept s := (rfl)

@[simp] theorem answers_execPairRead (d : HostDesc) (s : State) : Answers s (execPairRead d s) := by simp [execPairRead]

@[simp] theorem answers_execPairMode (d : HostDesc) (s : State) : Answers s (execPairMode d s) := by simp [execPairMode]

@[simp] theorem answers_execPairRekey (d : HostDesc) (s : State) : Answers s (execPairRekey d s) := by simp [execPairRekey]

@[simp] theorem answers_execPairResync (d : HostDesc) (s : State) : Answers s (execPairResync d s) := by simp [execPairResync]

@[simp] theorem answers_execPairSwapreq (d : HostDesc) (s : State) : Answers s (execPairSwapreq d s) := by
  simp [execPairSwapreq]

@[simp] theorem answers_execPairModeTimeout (s : State) : Answers s (execPairModeTimeout s) := by
  simp [execPairModeTimeout, ↓kept_mk, ↓kept_fold]

@[simp] theorem answers_execPairRekeyTimeout (s : State) : Answers s (execPairRekeyTimeout s) := by
  simp [execPairRekeyTimeout, ↓kept_mk, ↓kept_fold]

@[simp] theorem answers_execPairSwapreqTimeout (s : State) : Answers s (execPairSwapreqTimeout s) := by
  simp [execPairSwapreqTimeout, ↓kept_mk, ↓kept_fold]

/-! ### ETHL -/

@[simp] theorem kept_portPut (s : State) (p : Nat) (v : EthPort) : kept (portPut s p v) = kept s := (rfl)

@[simp] theorem kept_macSend (p : Nat) (b : Bytes) (s : State) : kept (macSend p b s).2 = kept s := by
  unfold macSend
  dsimp only
  (repeat' split) <;> simp

@[simp] theorem kept_rxQueue (p : Nat) (x : EthItem) (s : State) : kept (rxQueue p x s) = kept s := by simp [rxQueue]

@[simp] theorem kept_mc1Take (p k : Nat) (s : State) : kept (mc1Take p k s) = kept s := by
  induction k generalizing s with
  | zero => rfl
  | succ k ih =>
    simp only [mc1Take]
    (repeat' split) <;> simp [ih]

@[simp] theorem kept_ethStage (p : Nat) (r : EthRule) (ri : Nat) (b : Bytes) (s : State) :
    kept (ethStage p r ri b s) = kept s := by simp [ethStage]

@[simp] theorem kept_ethLossOne (p : Nat) (s : State) (x : EthRule × Nat) : kept (ethLossOne p s x) = kept s := by
  simp [ethLossOne]

@[simp] theorem kept_tplFrame (t : EthTpl) (s : State) : kept (tplFrame t s).2 = kept s := by simp [tplFrame, kept_putPoints]

@[simp] theorem kept_sendTpl (p : Nat) (s : State) (t : EthTpl) : kept (sendTpl p s t) = kept s := by simp [sendTpl]

@[simp] theorem kept_finEth (d : HostDesc) (st : Nat) (data : Nat) (s : State) : kept (finEth d st data s) = kept s := by
  simp [finEth]

@[simp] theorem kept_portIdle (p : Nat) (s : State) : kept (portIdle p s) = kept s := by simp [portIdle]

@[simp] theorem answers_execEthLinkUp (p : Fin 16) (s : State) : Answers s (execEthLinkUp p s) := by simp [execEthLinkUp]

@[simp] theorem kept_effEthRead (d : HostDesc) (s : State) : kept (effEthRead d s) = kept s := by simp [effEthRead]

@[simp] theorem kept_effEthPort (d : HostDesc) (s : State) : kept (effEthPort d s) = kept s := by simp [effEthPort]

@[simp] theorem answers_execEthRead (d : HostDesc) (s : State) : Answers s (execEthRead d s) := by simp [execEthRead]

@[simp] theorem answers_execEthPort (d : HostDesc) (s : State) : Answers s (execEthPort d s) := by simp [execEthPort]

/-! ### The PTP engine -/

@[simp] theorem kept_ptpPut (s : State) (p : Nat) (x : PtpRegs) : kept (ptpPut s p x) = kept s := (rfl)

@[simp] theorem kept_ptpQueue (p : Nat) (t : Nat) (m : Bytes) (rx : W128) (steps : W16) (s : State) :
    kept (ptpQueue p t m rx steps s) = kept s := (rfl)

@[simp] theorem kept_useSync (p : Nat) (seq : Nat) (t1 : Int) (t2 : W128) (steps : W16) (s : State) :
    kept (useSync p seq t1 t2 steps s) = kept s := by
  unfold useSync
  dsimp only
  (repeat' split) <;> simp

@[simp] theorem kept_onSync (p : Nat) (m : Bytes) (t : W128) (steps : W16) (s : State) :
    kept (onSync p m t steps s) = kept s := by simp [onSync]

@[simp] theorem kept_onFollowUp (p : Nat) (m : Bytes) (x : W128) (x3 : W16) (s : State) :
    kept (onFollowUp p m x x3 s) = kept s := by
  unfold onFollowUp
  dsimp only
  (repeat' split) <;> simp

@[simp] theorem kept_onDelayReq (p : Nat) (m : Bytes) (t : W128) (steps : W16) (s : State) :
    kept (onDelayReq p m t steps s) = kept s := by simp [onDelayReq]

@[simp] theorem kept_onDelayResp (p : Nat) (m : Bytes) (x : W128) (x3 : W16) (s : State) :
    kept (onDelayResp p m x x3 s) = kept s := by
  unfold onDelayResp
  dsimp only
  (repeat' split) <;> simp

@[simp] theorem kept_onPdelayReq (p : Nat) (m : Bytes) (t : W128) (steps : W16) (s : State) :
    kept (onPdelayReq p m t steps s) = kept s := by simp [onPdelayReq]

@[simp] theorem kept_pdelayDone (p : Nat) (turn : Int) (t4 : W128) (steps : W16) (s : State) :
    kept (pdelayDone p turn t4 steps s) = kept s := by
  unfold pdelayDone
  dsimp only
  (repeat' split) <;> simp

@[simp] theorem kept_onPdelayResp (p : Nat) (m : Bytes) (t : W128) (steps : W16) (s : State) :
    kept (onPdelayResp p m t steps s) = kept s := by
  unfold onPdelayResp
  dsimp only
  (repeat' split) <;> simp

@[simp] theorem kept_onPdelayFu (p : Nat) (m : Bytes) (x : W128) (x3 : W16) (s : State) :
    kept (onPdelayFu p m x x3 s) = kept s := by
  unfold onPdelayFu
  dsimp only
  (repeat' split) <;> simp

@[simp] theorem kept_onAnnounce (p : Nat) (m : Bytes) (x : W128) (x3 : W16) (s : State) :
    kept (onAnnounce p m x x3 s) = kept s := (rfl)

@[simp] theorem kept_ptpRx (f : Nat → Bytes → W128 → W16 → State → State) (p : Nat) (m : PtpRx) (s : State) (hf : ∀ x0 x1 x2
    x3 u, kept (f x0 x1 x2 x3 u) = kept u) : kept (ptpRx f p m s) = kept s := by simp [ptpRx, hf]

@[simp] theorem kept_onType (t : Nat) (a : Nat) (a2 : Bytes) (a3 : W128) (a4 : W16) (a5 : State) :
    kept (onType t a a2 a3 a4 a5) = kept a5 := by
  unfold onType
  split <;> simp

@[simp] theorem answers_execSync (p : Fin 16) (m : PtpRx) (s : State) : Answers s (execSync p m s) := by simp [execSync]

@[simp] theorem answers_execFollowUp (p : Fin 16) (m : PtpRx) (s : State) : Answers s (execFollowUp p m s) := by
  simp [execFollowUp]

@[simp] theorem answers_execDelayReq (p : Fin 16) (m : PtpRx) (s : State) : Answers s (execDelayReq p m s) := by
  simp [execDelayReq]

@[simp] theorem answers_execDelayResp (p : Fin 16) (m : PtpRx) (s : State) : Answers s (execDelayResp p m s) := by
  simp [execDelayResp]

@[simp] theorem answers_execPdelayReq (p : Fin 16) (m : PtpRx) (s : State) : Answers s (execPdelayReq p m s) := by
  simp [execPdelayReq]

@[simp] theorem answers_execPdelayResp (p : Fin 16) (m : PtpRx) (s : State) : Answers s (execPdelayResp p m s) := by
  simp [execPdelayResp]

@[simp] theorem answers_execPdelayRespFollowUp (p : Fin 16) (m : PtpRx) (s : State) :
    Answers s (execPdelayRespFollowUp p m s) := by simp [execPdelayRespFollowUp]

@[simp] theorem answers_execAnnounce (p : Fin 16) (m : PtpRx) (s : State) : Answers s (execAnnounce p m s) := by
  simp [execAnnounce]

@[simp] theorem answers_execFollowUpTimeout (w : PtpWait) (s : State) : Answers s (execFollowUpTimeout w s) := by
  simp [execFollowUpTimeout]

@[simp] theorem answers_execSyncInterval (p : Fin 16) (s : State) : Answers s (execSyncInterval p s) := by
  simp [execSyncInterval]

@[simp] theorem answers_execDelayReqInterval (p : Fin 16) (s : State) : Answers s (execDelayReqInterval p s) := by
  simp [execDelayReqInterval]

@[simp] theorem answers_execPdelayReqInterval (p : Fin 16) (s : State) : Answers s (execPdelayReqInterval p s) := by
  simp [execPdelayReqInterval]

@[simp] theorem answers_execAnnounceInterval (p : Fin 16) (s : State) : Answers s (execAnnounceInterval p s) := by
  simp [execAnnounceInterval]

@[simp] theorem kept_ethDeliver (p : Nat) (unprot : Bool) (secured : Bool) (f : EthRx) (b : Bytes) (s : State) :
    kept (ethDeliver p unprot secured f b s) = kept s := by
  unfold ethDeliver
  dsimp only
  (repeat' split) <;> simp

@[simp] theorem kept_ethReceiveFrame (p : Nat) (f : EthRx) (s : State) : kept (ethReceiveFrame p f s) = kept s := by
  simp only [ethReceiveFrame]
  generalize hp : portPut s p _ = s1
  have hs1 : kept s1 = kept s := hp ▸ kept_portPut ..
  (repeat' split) <;> simp [hs1]

@[simp] theorem answers_execEthFrameReceive (p : Fin 16) (f : EthRx) (s : State) : Answers s (execEthFrameReceive p f s) := by
  simp [execEthFrameReceive]

@[simp] theorem kept_noteSent (p : Nat) (x : EthTx) (tr : Nat) (t : W128) (steps : W16) (s : State) :
    kept (noteSent p x tr t steps s) = kept s := by simp [noteSent]

@[simp] theorem kept_ethOut (p : Nat) (x : EthTx) (t : W128) (steps : W16) (s : State) :
    kept (ethOut p x t steps s) = kept s := by
  unfold ethOut
  dsimp only
  (repeat' split) <;> simp

@[simp] theorem kept_wireDone (p : Nat) (s : State) : kept (wireDone p s) = kept s := by
  unfold wireDone
  dsimp only
  (repeat' split) <;> simp

@[simp] theorem kept_wiresTick (s : State) : kept (wiresTick s) = kept s := by
  unfold wiresTick
  refine kept_foldl _ (fun s kv => ?_) _ _
  (repeat' split) <;> simp

@[simp] theorem kept_wireCut (p : Nat) (s : State) : kept (wireCut p s) = kept s := by
  unfold wireCut
  dsimp only
  (repeat' split) <;> simp

@[simp] theorem answers_execEthLinkDown (p : Fin 16) (s : State) : Answers s (execEthLinkDown p s) := by simp [execEthLinkDown]

@[simp] theorem answers_execEthFrameTransmit (p : Fin 16) (cap : W64) (frac : BitVec 3) (s0 : State) :
    Answers s0 (execEthFrameTransmit p cap frac s0) := by
  unfold execEthFrameTransmit
  dsimp only
  (repeat' split) <;> simp

/-! ### The link slots -/

@[simp] theorem answers_execTriggerFire (n : Fin 32) (s : State) : Answers s (execTriggerFire n s) := by simp [execTriggerFire]

@[simp] theorem kept_canRestart (s : State) : kept (canRestart s) = kept s := (rfl)

/-! ### The schedule -/

@[simp] theorem kept_domPut (s : State) (d : Nat) (v : Dom) : kept (domPut s d v) = kept s := (rfl)

@[simp] theorem kept_setNeeds (s : State) : kept (setNeeds s) = kept s := by simp [setNeeds]

@[simp] theorem kept_startDoms (im : Image) (s : State) : kept (startDoms im s) = kept s := by simp [startDoms]

@[simp] theorem kept_switchPoints (im : Image) (s : State) : kept (switchPoints im s) = kept s := (rfl)

@[simp] theorem kept_startPoints (im : Image) (s : State) : kept (startPoints im s) = kept s := (rfl)

@[simp] theorem kept_stepDropped (o : CellEng) (n : CellEng) (s : State) : kept (stepDropped o n s) = kept s := by
  unfold stepDropped
  split <;> simp

@[simp] theorem kept_switchCells (old : Image) (im : Image) (s : State) : kept (switchCells old im s) = kept s := by
  simp [switchCells, ↓kept_mk, ↓kept_fold]

@[simp] theorem kept_startLoops (im : Image) (s : State) : kept (startLoops im s) = kept s := (rfl)

@[simp] theorem kept_loopsGone (old s : State) : kept (loopsGone old s) = kept s := by simp [loopsGone, ↓kept_mk, ↓kept_fold]

@[simp] theorem kept_switchLoops (im : Image) (s : State) : kept (switchLoops im s) = kept s := by simp [switchLoops]

@[simp] theorem kept_axisConfig (im : Image) (s : State) : kept (axisConfig im s) = kept s := (rfl)

@[simp] theorem kept_metrConfig (im : Image) (s : State) : kept (metrConfig im s) = kept s := (rfl)

@[simp] theorem kept_switchMetr (im : Image) (s : State) : kept (switchMetr im s) = kept s := by
  simp [switchMetr, ↓kept_mk, ↓kept_fold]

@[simp] theorem kept_linksConfig (im : Image) (s : State) : kept (linksConfig im s) = kept s := (rfl)

@[simp] theorem kept_portsConfig (s : State) : kept (portsConfig s) = kept s := by simp [portsConfig]

@[simp] theorem kept_startLinks (im : Image) (s : State) : kept (startLinks im s) = kept s := (rfl)

@[simp] theorem kept_removeStation (k : Nat) (s : State) : kept (removeStation k s) = kept s := by simp [removeStation]

@[simp] theorem kept_switchStations (im : Image) (s0 : State) : kept (switchStations im s0) = kept s0 := by
  simp only [switchStations, kept_foldl, kept_sessPut, ↓kept_mk, ↓kept_fold, kept_linksConfig, kept_ite, kept_removeStation,
    ite_self, implies_true]

@[simp] theorem kept_switchMasters (old new : State) : kept (switchMasters old new) = kept new := by simp [switchMasters]

@[simp] theorem kept_switchLinks (im : Image) (s : State) : kept (switchLinks im s) = kept s := by simp [switchLinks]

@[simp] theorem kept_startSolver (im : Image) (s : State) : kept (startSolver im s) = kept s := by
  unfold startSolver
  dsimp only
  have hload : ∀ u : State, kept ((List.range 4).foldl (fun s k => match sectAt im 0x20 k with
      | some b => beginLoad k b true none s
      | none => s) u) = kept u := fun u => kept_foldl _ (fun u k => by split <;> simp) _ _
  split
  · rw [kept_beginParc]
    exact hload s
  · exact hload s

@[simp] theorem kept_slotLeaves (k : Nat) (s : State) : kept (slotLeaves k s) = kept s := by
  unfold slotLeaves
  split <;> simp

@[simp] theorem kept_switchSlot (old : State) (im : Image) (s : State) (k : Nat) : kept (switchSlot old im s k) = kept s := by
  unfold switchSlot
  dsimp only
  (repeat' split) <;> simp

@[simp] theorem kept_switchParc (im : Image) (s : State) : kept (switchParc im s) = kept s := by
  unfold switchParc
  split <;> simp [↓kept_mk, ↓kept_fold]

@[simp] theorem kept_enableBlocks (im : Image) (s : State) : kept (enableBlocks im s) = kept s := by simp [enableBlocks]

@[simp] theorem kept_enFalls (b : Nat) (s : State) : kept (enFalls b s) = kept s := by simp [enFalls, ↓kept_mk, ↓kept_fold]

@[simp] theorem kept_switchBlocks (old : Image) (im : Image) (s : State) : kept (switchBlocks old im s) = kept s := by
  simp [switchBlocks]

@[simp] theorem kept_setImage (im : Image) (s : State) : kept (setImage im s) = kept s := (rfl)

@[simp] theorem kept_bootDoms (im : Image) (s : State) : kept (bootDoms im s) = kept s := by simp [bootDoms]

@[simp] theorem kept_majorFrame (s : State) : kept (majorFrame s) = kept s := by simp [majorFrame, ↓kept_mk, ↓kept_fold]

@[simp] theorem kept_newGrid (s : State) : kept (newGrid s).2 = kept s := by
  unfold newGrid
  split <;> simp [↓kept_mk, ↓kept_fold]

@[simp] theorem kept_roleAtStart (s : State) : kept (roleAtStart s) = kept s := by simp [roleAtStart]

@[simp] theorem kept_firstFrame (s : State) : kept (firstFrame s) = kept s := by
  unfold firstFrame
  split <;> simp [↓kept_mk, ↓kept_fold]

@[simp] theorem kept_minorFrame (mr4High : Bool) (s : State) : kept (minorFrame mr4High s) = kept s := by
  simp [minorFrame, ↓kept_mk, ↓kept_fold]

@[simp] theorem answers_execMinorFrameStart (mr4High : Bool) (s : State) : Answers s (execMinorFrameStart mr4High s) := by
  simp [execMinorFrameStart]

@[simp] theorem answers_execMajorFrameBoundary (s : State) : Answers s (execMajorFrameBoundary s) := by
  simp [execMajorFrameBoundary]

@[simp] theorem kept_unfreezeMaster (m : Nat) (s : State) : kept (unfreezeMaster m s) = kept s := by
  simp [unfreezeMaster, ↓kept_mk, ↓kept_fold]

@[simp] theorem answers_execFreezeRelease (m : Fin 25) (s : State) : Answers s (execFreezeRelease m s) := by
  simp [execFreezeRelease]

@[simp] theorem answers_execOverrun (m : Fin 25) (req : FabricReq) (s : State) : Answers s (execOverrun m req s) := by
  simp [execOverrun]

@[simp] theorem answers_execSwitchReserve (s : State) : Answers s (execSwitchReserve s) := by
  simp [execSwitchReserve, ↓kept_mk, ↓kept_fold]

@[simp] theorem kept_activate (old : Image) (im : Image) (s : State) : kept (activate old im s) = kept s := by
  unfold activate
  simp [↓kept_mk, ↓kept_fold]

@[simp] theorem kept_finGen (d : HostDesc) (st : Nat) (data : Nat) (s : State) : kept (finGen d st data s) = kept s := by
  simp [finGen]

@[simp] theorem kept_refuseSwitch (d : HostDesc) (st : Nat) (data : Nat) (s : State) :
    kept (refuseSwitch d st data s) = kept s := by simp [refuseSwitch]

@[simp] theorem kept_effNop (d : HostDesc) (s : State) : kept (effNop d s) = kept s := by simp [effNop]

@[simp] theorem kept_effImageLoad (d : HostDesc) (s : State) : kept (effImageLoad d s) = kept s := by
  simp [effImageLoad, ↓kept_mk, ↓kept_fold]

@[simp] theorem kept_shadowPassed (im : Image) (s : State) : kept (shadowPassed im s) = kept s := by
  simp only [shadowPassed, ↓kept_mk, ↓kept_fold, kept_setNeeds, kept_startDoms]

@[simp] theorem kept_effImageSwitch (d : HostDesc) (s : State) : kept (effImageSwitch d s) = kept s := by
  unfold effImageSwitch
  (repeat' split) <;> simp [↓kept_mk, ↓kept_fold]

@[simp] theorem kept_effImageAbort (d : HostDesc) (s : State) : kept (effImageAbort d s) = kept s := by
  unfold effImageAbort
  (repeat' split) <;> simp [↓kept_mk, ↓kept_fold]

@[simp] theorem kept_effUnfreeze (d : HostDesc) (s : State) : kept (effUnfreeze d s) = kept s := by
  simp [effUnfreeze, ↓kept_mk, ↓kept_fold]

@[simp] theorem answers_execDNop (d : HostDesc) (s : State) : Answers s (execDNop d s) := by simp [execDNop]

@[simp] theorem answers_execImageLoad (d : HostDesc) (s : State) : Answers s (execImageLoad d s) := by simp [execImageLoad]

@[simp] theorem answers_execImageSwitch (d : HostDesc) (s : State) : Answers s (execImageSwitch d s) := by
  simp [execImageSwitch]

@[simp] theorem answers_execImageAbort (d : HostDesc) (s : State) : Answers s (execImageAbort d s) := by simp [execImageAbort]

@[simp] theorem answers_execUnfreeze (d : HostDesc) (s : State) : Answers s (execUnfreeze d s) := by simp [execUnfreeze]

/-! ### Power, reset and start-up -/

@[simp] theorem answers_execPwrfailRise (s : State) : Answers s (execPwrfailRise s) := by
  simp [execPwrfailRise, ↓kept_mk, ↓kept_fold]

@[simp] theorem answers_execPwrfailNGlitch (s : State) : Answers s (execPwrfailNGlitch s) := by simp [execPwrfailNGlitch]

@[simp] theorem answers_execHifReset (s : State) : Answers s (execHifReset s) := by simp [execHifReset, ↓kept_mk, ↓kept_fold]

@[simp] theorem kept_domClear (d : Nat) (s : State) : kept (domClear d s) = kept s := by
  unfold domClear
  split <;> simp [↓kept_mk, ↓kept_fold]

@[simp] theorem kept_shadowDoms (s : State) : kept (shadowDoms s) = kept s := by
  unfold shadowDoms
  split <;> simp [↓kept_mk, ↓kept_fold]

@[simp] theorem kept_domStarted (d : Nat) (s : State) : kept (domStarted d s) = kept s := by
  simp [domStarted, ↓kept_mk, ↓kept_fold]

@[simp] theorem answers_execDomainPowerUp (d : Fin 12) (s : State) : Answers s (execDomainPowerUp d s) := by
  simp [execDomainPowerUp]

@[simp] theorem answers_execPowerGoodTimeout (d : Fin 12) (s : State) : Answers s (execPowerGoodTimeout d s) := by
  simp [execPowerGoodTimeout]

@[simp] theorem answers_execDomainPowerDown (d : Fin 12) (s : State) : Answers s (execDomainPowerDown d s) := by
  simp [execDomainPowerDown]

@[simp] theorem kept_setStage (n : BitVec 4) (s : State) : kept (setStage n s) = kept s := (rfl)

@[simp] theorem kept_bootFail (cause : Nat) (s : State) : kept (bootFail cause s) = kept s := by simp [bootFail]

@[simp] theorem kept_takeDirectory (b : Bytes) (s : State) : kept (takeDirectory b s) = kept s := by
  simp [takeDirectory, ↓kept_mk, ↓kept_fold]

@[simp] theorem kept_wakeSources (s : State) : kept (wakeSources s) = kept s := by simp [wakeSources, ↓kept_mk, ↓kept_fold]

@[simp] theorem answers_execStageRom (directory : Bytes) (s : State) : Answers s (execStageRom directory s) := by
  simp [execStageRom, ↓kept_mk, ↓kept_fold]

@[simp] theorem kept_tryFirmware (b : Bool) (at_ : W32) (copy : Option Bytes) (s : State) :
    kept (tryFirmware b at_ copy s) = kept s := by
  unfold tryFirmware
  split <;> simp [↓kept_mk, ↓kept_fold]

@[simp] theorem answers_execStageFirmware (copyA : Option Bytes) (copyB : Option Bytes) (s : State) :
    Answers s (execStageFirmware copyA copyB s) := by simp [execStageFirmware]

@[simp] theorem kept_nvmStart (nandOk : Bool) (s : State) : kept (nvmStart nandOk s) = kept s := (rfl)

@[simp] theorem kept_enterTime (active : Bool) (s : State) : kept (enterTime active s) = kept s := by
  simp [enterTime, ↓kept_mk, ↓kept_fold]

@[simp] theorem answers_execStageRole (s : State) : Answers s (execStageRole s) := by
  unfold execStageRole
  (repeat' split) <;> simp

@[simp] theorem answers_execPwaitExpiry (s : State) : Answers s (execPwaitExpiry s) := by simp [execPwaitExpiry]

@[simp] theorem kept_setTsrc (n : BitVec 2) (s : State) : kept (setTsrc n s) = kept s := (rfl)

@[simp] theorem answers_execStageTime (src : TimeSource) (s : State) : Answers s (execStageTime src s) := by
  unfold execStageTime
  (repeat' split) <;> simp

@[simp] theorem answers_execTwaitExpiry (s : State) : Answers s (execTwaitExpiry s) := by simp [execTwaitExpiry]

@[simp] theorem answers_execLateTimeStep (delta : W128) (s : State) : Answers s (execLateTimeStep delta s) := by
  simp [execLateTimeStep]

@[simp] theorem answers_execStageRun (s : State) : Answers s (execStageRun s) := by
  unfold execStageRun
  rw [answers_next]
  split
  · rw [kept_setEn, kept_mk]
    rfl
  · rfl

/-! ### IRQ -/

@[simp] theorem kept_grpPutI (s : State) (g : Nat) (v : IrqGrp) : kept (grpPutI s g v) = kept s := (rfl)

@[simp] theorem kept_selectSrc (n : Nat) (s : State) : kept (selectSrc n s) = kept s := by simp [selectSrc]

@[simp] theorem kept_deliverSrc (n : Nat) (t : Nat) (vec : Nat) (s : State) : kept (deliverSrc n t vec s) = kept s := (rfl)

@[simp] theorem kept_completeSrc (n : Nat) (s : State) : kept (completeSrc n s) = kept s := (rfl)

@[simp] theorem kept_cplWrite (t : Nat) (n : Nat) (s : State) : kept (cplWrite t n s) = kept s := by simp [cplWrite]

@[simp] theorem kept_cpl0Op (m : RegMaster) (v : W32) (s : State) : kept (cpl0Op m v s) = kept s := by simp [cpl0Op]

@[simp] theorem kept_cpl1Op (m : RegMaster) (v : W32) (s : State) : kept (cpl1Op m v s) = kept s := by simp [cpl1Op]

@[simp] theorem kept_swsetOp (m : RegMaster) (v : W32) (s : State) : kept (swsetOp m v s) = kept s := by simp [swsetOp]

@[simp] theorem kept_endHold (g : Nat) (s : State) : kept (endHold g s) = kept s := by simp [endHold]

@[simp] theorem answers_execHoldoffExpiry (g : Fin 16) (s : State) : Answers s (execHoldoffExpiry g s) := by
  simp [execHoldoffExpiry]

@[simp] theorem answers_execWakeWatch (w : Fin 32) (s : State) : Answers s (execWakeWatch w s) := by
  simp [execWakeWatch, ↓kept_mk, ↓kept_fold]

@[simp] theorem kept_selectVec (s : State) (v : Nat) : kept (selectVec s v) = kept s := by
  simp [selectVec, ↓kept_mk, ↓kept_fold]

@[simp] theorem kept_selectVecs (s : State) : kept (selectVecs s) = kept s := by simp [selectVecs]

@[simp] theorem kept_sendVec (s : State) (v : Nat) : kept (sendVec s v) = kept s := by simp [sendVec, ↓kept_mk, ↓kept_fold]

@[simp] theorem kept_sendVecs (s : State) : kept (sendVecs s) = kept s := by simp [sendVecs]

@[simp] theorem kept_vackDone (v : Nat) (s : State) : kept (vackDone v s) = kept s := by simp [vackDone]

/-! ### Register accesses -/

@[simp] theorem kept_latchWide (m : RegMaster) (a : Nat) (n : Nat) (v : Nat) (s : State) :
    kept (latchWide m a n v s) = kept s := (rfl)

@[simp] theorem kept_cntClear (b : Nat) (n : Nat) (s : State) : kept (cntClear b n s) = kept s := (rfl)

@[simp] theorem kept_readReg (dbg : State → W64 × State) (m : RegMaster) (b : Nat) (o : Nat) (e : RegE) (s : State) (hdbg : ∀
    u, kept (dbg u).2 = kept u) : kept (readReg dbg m b o e s).2 = kept s := by
  unfold readReg
  dsimp only
  (repeat' split) <;> simp [hdbg]

@[simp] theorem kept_readWord (dbg : State → W64 × State) (m : RegMaster) (addr : Nat) (s : State) (hdbg : ∀ u, kept (dbg u).2
    = kept u) : kept (readWord dbg m addr s).2 = kept s := by
  unfold readWord
  split <;> simp [hdbg]

@[simp] theorem kept_busReadWith (dbg : State → W64 × State) (m : RegMaster) (addr : Nat) (size : Nat) (s : State) (hdbg : ∀
    u, kept (dbg u).2 = kept u) : kept (busReadWith dbg m addr size s).2 = kept s := by
  unfold busReadWith
  (repeat' split) <;> simp [hdbg]

@[simp] theorem kept_enOp (m : RegMaster) (b : Nat) (v : Bool) (s : State) : kept (enOp m b v s) = kept s := by simp [enOp]

@[simp] theorem kept_ringStart (r : Nat) (s : State) : kept (ringStart r s) = kept s := (rfl)

@[simp] theorem kept_ringenOp (v : W64) (s : State) : kept (ringenOp v s) = kept s := by simp [ringenOp, ↓kept_mk, ↓kept_fold]

@[simp] theorem kept_statusWrite (b : Nat) (v : Nat) (s : State) : kept (statusWrite b v s) = kept s := by
  simp [statusWrite, ↓kept_mk, ↓kept_fold]

@[simp] theorem kept_bootCfgWrite (m : RegMaster) (v : Nat) (s : State) : kept (bootCfgWrite m v s) = kept s := by
  unfold bootCfgWrite
  split <;> simp [↓kept_mk, ↓kept_fold]

@[simp] theorem kept_ringWrite (r : Nat) (o : Nat) (v : Nat) (s : State) : kept (ringWrite r o v s) = kept s := by
  simp [ringWrite]

@[simp] theorem kept_msixWrite (k : Nat) (i : Nat) (v : Nat) (s : State) : kept (msixWrite k i v s) = kept s := (rfl)

@[simp] theorem kept_hifWrite (off : Nat) (o : Nat) (v : Nat) (s : State) : kept (hifWrite off o v s) = kept s := by
  simp [hifWrite, ↓kept_mk, ↓kept_fold]

@[simp] theorem kept_srcWrite (m : RegMaster) (n : Nat) (v : Nat) (s : State) : kept (srcWrite m n v s) = kept s := by
  simp [srcWrite]

@[simp] theorem kept_wakeClear (v : Nat) (s : State) : kept (wakeClear v s) = kept s := by
  simp [wakeClear, ↓kept_mk, ↓kept_fold]

@[simp] theorem kept_irqWrite (m : RegMaster) (off : Nat) (v : Nat) (s : State) : kept (irqWrite m off v s) = kept s := by
  simp [irqWrite, ↓kept_mk, ↓kept_fold]

@[simp] theorem kept_cellWrite (off : Nat) (v : Nat) (s : State) : kept (cellWrite off v s) = kept s := by simp [cellWrite]

@[simp] theorem kept_sbufWrite (n : Nat) (b : Nat) (o : Nat) (v : Nat) (s : State) : kept (sbufWrite n b o v s) = kept s := by
  simp [sbufWrite]

@[simp] theorem kept_canlWrite (off : Nat) (v : Nat) (s : State) : kept (canlWrite off v s) = kept s := by simp [canlWrite]

@[simp] theorem kept_ethlWrite (m : RegMaster) (off : Nat) (v : Nat) (s : State) : kept (ethlWrite m off v s) = kept s := by
  simp [ethlWrite]

@[simp] theorem kept_trigWrite (m : RegMaster) (n : Nat) (o : Nat) (v : Nat) (s : State) :
    kept (trigWrite m n o v s) = kept s := by simp [trigWrite]

@[simp] theorem kept_rtcWrite (off : Nat) (v : Nat) (s : State) : kept (rtcWrite off v s) = kept s := by
  simp [rtcWrite, ↓kept_mk, ↓kept_fold]

@[simp] theorem kept_secWrite (dbg : W64 → State → State) (off : Nat) (v : Nat) (s : State) (hdbg : ∀ x0 u, kept (dbg x0 u) =
    kept u) : kept (secWrite dbg off v s) = kept s := by simp [secWrite, ↓kept_mk, ↓kept_fold, hdbg]

@[simp] theorem kept_nvmWrite (off : Nat) (v : Nat) (s : State) : kept (nvmWrite off v s) = kept s := by
  simp [nvmWrite, ↓kept_mk, ↓kept_fold]

/-! ### The fabric -/

@[simp] theorem kept_storePoint (p : Nat) (o : Nat) (b : Bytes) (s : State) : kept (storePoint p o b s) = kept s := by
  simp [storePoint]

@[simp] theorem kept_storeStage (e : Nat) (o : Nat) (b : Bytes) (s : State) : kept (storeStage e o b s) = kept s := (rfl)

@[simp] theorem kept_parcByte (o : Nat) (v : Byte) (s : State) : kept (parcByte o v s) = kept s := by
  have hput : ∀ q : ParcRegs, kept { s with parc := q } = kept s := fun q => rfl
  have hmiss : kept (otherStore (fPARC + o) v s) = kept s := kept_otherStore ..
  cases hp : poolHolder s.parc (o / 16) <;> simp only [parcByte, hp, kept_ite, hput, hmiss, ite_self]

@[simp] theorem kept_loopByte (o : Nat) (v : Byte) (s : State) : kept (loopByte o v s) = kept s := by simp [loopByte]

@[simp] theorem kept_memByte (a : Nat) (v : Byte) (s : State) : kept (memByte a v s) = kept s := by simp [memByte]

/-! ### The memory instructions -/

/-- A read of MC1 that answers keeps the time's rate and the memories. -/
def LoadKept {α : Type} (s : State) (o : (α × State) ⊕ Nat) : Prop := ∀ r, o = .inl r → kept r.2 = kept s
@[simp] theorem loadKept_inl {α : Type} (s : State) (r : α × State) : LoadKept s (.inl r) ↔ kept r.2 = kept s :=
  ⟨fun h => h r rfl, fun h _ e => Sum.inl.inj e ▸ h⟩
@[simp] theorem loadKept_inr {α : Type} (s : State) (n : Nat) : LoadKept (α := α) s (.inr n) := fun _ h => nomatch h

theorem loadKept_mc1LoadWith (dbg : State → W64 × State) (a n : Nat) (s : State) (hdbg : ∀ u, kept (dbg u).2 = kept u) :
    LoadKept s (mc1LoadWith dbg a n s) := by
  unfold mc1LoadWith
  (repeat' split) <;> simp [hdbg]

@[simp] theorem kept_dbgRead (s : State) : kept (dbgRead s).2 = kept s := by
  unfold dbgRead
  dsimp only
  split
  · (repeat' split) <;> simp
  · split
    · have h := loadKept_mc1LoadWith (fun s => (0, s)) s.sec.dbgAddr.toNat 8 s fun _ => rfl
      split
      next r hr => exact h r hr
      next => rfl
    · (repeat' split) <;> simp

@[simp] theorem kept_busRead (m : RegMaster) (addr : Nat) (size : Nat) (s : State) :
    kept (busRead m addr size s).2 = kept s := by simp [busRead]

theorem loadKept_mc1Load (a n : Nat) (s : State) : LoadKept s (mc1Load a n s) :=
  loadKept_mc1LoadWith _ _ _ _ kept_dbgRead

@[simp] theorem kept_insnFault (vec : Nat) (s : State) : kept (insnFault vec s) = kept s := by simp [insnFault]

@[simp] theorem kept_mc1SetG (i : BitVec 6) (v : W64) (s : State) : kept (mc1SetG i v s) = kept s := (rfl)

@[simp] theorem kept_ldEff (x : Ctl) (d : BitVec 6) (a : BitVec 6) (sz : BitVec 2) (sx : Bool) (v : W32) (s : State) :
    kept (ldEff x d a sz sx v s) = kept s := by
  unfold ldEff
  split
  · simp
  · have h := loadKept_mc1Load (mc1G s a + v.signExtend 64).toNat (Machine.sizeOf sz) s
    split
    next r hr => simpa using h r hr
    next => simp

@[simp] theorem answers_execLd (x : Ctl) (d : BitVec 6) (a : BitVec 6) (sz : BitVec 2) (sx : Bool) (v : W32) (s : State) :
    Answers s (execLd x d a sz sx v s) := by simp [execLd]

@[simp] theorem kept_mc1Pc (v : W64) (s : State) : kept (mc1Pc v s) = kept s := (rfl)

@[simp] theorem kept_setSp (v : W64) (s : State) : kept (setSp v s) = kept s := (rfl)

@[simp] theorem kept_popThen (next : W64 → State → State) (s : State) (hnext : ∀ x0 u, kept (next x0 u) = kept u) :
    kept (popThen next s) = kept s := by
  have h := loadKept_mc1Load (spOf s).toNat 8 s
  unfold popThen
  split
  next r hr => simpa [hnext] using h r hr
  next => simp

@[simp] theorem answers_execBr (x : Ctl) (v : W32) (s : State) : Answers s (execBr x v s) := by simp [execBr]

@[simp] theorem answers_execRet (x : Ctl) (s : State) : Answers s (execRet x s) := by simp [execRet]

@[simp] theorem answers_execJr (x : Ctl) (a : BitVec 6) (s : State) : Answers s (execJr x a s) := by simp [execJr]

@[simp] theorem answers_execPop (x : Ctl) (d : BitVec 6) (s : State) : Answers s (execPop x d s) := by simp [execPop]

@[simp] theorem kept_setSpecial (i : Nat) (v : W64) (s : State) : kept (setSpecial i v s) = kept s := by
  simp [setSpecial, ↓kept_mk, ↓kept_fold]

@[simp] theorem answers_execMrs (x : Ctl) (d : BitVec 6) (idx : BitVec 4) (s : State) : Answers s (execMrs x d idx s) := by
  unfold execMrs
  split <;> simp

@[simp] theorem answers_execMsr (x : Ctl) (a : BitVec 6) (idx : BitVec 4) (s : State) : Answers s (execMsr x a idx s) := by
  unfold execMsr
  split <;> simp

@[simp] theorem kept_mc1Enter (n : Nat) (s : State) : kept (mc1Enter n s) = kept s := by simp [mc1Enter, ↓kept_mk, ↓kept_fold]

@[simp] theorem kept_entryFault (s : State) : kept (entryFault s) = kept s := by simp [entryFault, ↓kept_mk, ↓kept_fold]

@[simp] theorem kept_entrySelect (e : IrqEntry) (s : State) : kept (entrySelect e s) = kept s := by
  unfold entrySelect
  split <;> simp [↓kept_mk, ↓kept_fold]

@[simp] theorem kept_entryDeliver (n : Nat) (s : State) : kept (entryDeliver n s) = kept s := (rfl)

@[simp] theorem kept_mc1Exit (s : State) : kept (mc1Exit s) = kept s := by
  unfold mc1Exit
  dsimp only
  (repeat' split) <;> simp [↓kept_mk, ↓kept_fold]

@[simp] theorem answers_execReti (x : Ctl) (s : State) : Answers s (execReti x s) := by simp [execReti]

@[simp] theorem answers_execWfi (x : Ctl) (s : State) : Answers s (execWfi x s) := answers_insnS _ _ _ _ fun _ => rfl

@[simp] theorem answers_execFence (x : Ctl) (s : State) : Answers s (execFence x s) := by simp [execFence]

/-! ### Rows of accesses -/

@[simp] theorem answers_readRow (m : RegMaster) (addr : Nat) (size : Nat) (s : State) : Answers s (readRow m addr size s) := by
  simp [readRow]

@[simp] theorem answers_execCntRead (m : RegMaster) (blk : Fin 21) (n : Fin 32) (s : State) :
    Answers s (execCntRead m blk n s) := by simp [execCntRead]

@[simp] theorem answers_execWideRead (m : RegMaster) (addr : BitVec 24) (s : State) : Answers s (execWideRead m addr s) := by
  simp [execWideRead]

@[simp] theorem answers_execFifohdRead (m : RegMaster) (ch : Fin 40) (s : State) : Answers s (execFifohdRead m ch s) := by
  simp [execFifohdRead]

@[simp] theorem answers_execReadWithoutEffect (m : RegMaster) (addr : BitVec 24) (size : Nat) (s : State) :
    Answers s (execReadWithoutEffect m addr size s) := by simp [execReadWithoutEffect]

/-! ### The opcodes -/

@[simp] theorem kept_copyEnd (r : CopyRun) (s : State) : kept (copyEnd r s) = kept s := by
  unfold copyEnd
  split <;> simp

@[simp] theorem kept_askBuf (d : HostDesc) (s : State) : kept (askBuf d s) = kept s := by simp [askBuf, ↓kept_mk, ↓kept_fold]

/-! ### The host slots -/

@[simp] theorem kept_fetchRing (r : Nat) (s : State) : kept (fetchRing r s) = kept s := by
  simp [fetchRing, ↓kept_mk, ↓kept_fold]

@[simp] theorem kept_takeDoorbell (r : Nat) (b : Bytes) (s : State) : kept (takeDoorbell r b s) = kept s := by
  simp [takeDoorbell]

@[simp] theorem kept_endRead (e : HostDesc) (b : Bytes) (fail : Bool) (s : State) : kept (endRead e b fail s).2 = kept s :=
    (rfl)

@[simp] theorem answers_execHostReadFailure (w : HostReadFail) (s : State) : Answers s (execHostReadFailure w s) := by
  unfold execHostReadFailure
  (repeat' split) <;> simp

@[simp] theorem kept_issueWaiting (s : State) : kept (issueWaiting s) = kept s := (rfl)

@[simp] theorem kept_clearSlotN (s : State) : kept (clearSlotN s) = kept s := by simp [clearSlotN]

@[simp] theorem kept_writeCompl (c : Compl) (s : State) : kept (writeCompl c s) = kept s := by
  unfold writeCompl
  split <;> simp

@[simp] theorem kept_dropUnsol (r : Nat) (s : State) : kept (dropUnsol r s) = kept s := (rfl)

@[simp] theorem kept_closeCompl (s : State) (c : Compl) : kept (closeCompl s c) = kept s := by simp [closeCompl]

@[simp] theorem kept_closeBacklog (s : State) (r : Nat) : kept (closeBacklog s r) = kept s := by simp [closeBacklog]

@[simp] theorem kept_closeWaiting (l : List Compl) (s : State) : kept (closeWaiting l s) = kept s := by
  induction l generalizing s with
  | nil => rfl
  | cons c l ih => simp [closeWaiting, ih, ↓kept_mk, ↓kept_fold]

@[simp] theorem kept_writeStatusPage (s : State) : kept (writeStatusPage s) = kept s := (rfl)

@[simp] theorem kept_closePoint (s : State) : kept (closePoint s) = kept s := by simp [closePoint]

@[simp] theorem answers_execClosePoint (s : State) : Answers s (execClosePoint s) := by simp [execClosePoint, ↓kept_mk, ↓kept_fold]

@[simp] theorem kept_linkUp (s : State) : kept (linkUp s) = kept s := by simp [linkUp, ↓kept_mk, ↓kept_fold]

@[simp] theorem answers_execConfigurationWrite (bme : Bool) (d3 : Bool) (functionMask : Bool) (s : State) :
    Answers s (execConfigurationWrite bme d3 functionMask s) := by simp [execConfigurationWrite, ↓kept_mk, ↓kept_fold]

/-! ### The integer instructions -/

@[simp] theorem answers_execInop (x : Ctl) (s : State) : Answers s (execInop x s) := by simp [execInop]

@[simp] theorem answers_execRdaf (x : Ctl) (d : BitVec 6) (s : State) : Answers s (execRdaf x d s) := by simp [execRdaf]

@[simp] theorem answers_execClaf (x : Ctl) (s : State) : Answers s (execClaf x s) := by simp [execClaf]

@[simp] theorem answers_execMovi (x : Ctl) (d : BitVec 6) (v : W32) (s : State) : Answers s (execMovi x d v s) := by
  simp [execMovi]

@[simp] theorem answers_execMovhi (x : Ctl) (d : BitVec 6) (v : W32) (s : State) : Answers s (execMovhi x d v s) := by
  simp [execMovhi]

@[simp] theorem answers_execSel (x : Ctl) (d : BitVec 6) (a : BitVec 6) (b : BitVec 6) (p : BitVec 4) (s : State) :
    Answers s (execSel x d a b p s) := by simp [execSel]

@[simp] theorem answers_execPmov (x : Ctl) (d : BitVec 6) (p : BitVec 4) (s : State) : Answers s (execPmov x d p s) := by
  simp [execPmov]

@[simp] theorem answers_execCmp (x : Ctl) (w : Bool) (cc : IntCC) (a : BitVec 6) (b : Src16) (pd : BitVec 4) (pe : BitVec 4) (s :
    State) : Answers s (execCmp x w cc a b pd pe s) := by simp [execCmp]

@[simp] theorem answers_execPlog (x : Ctl) (pd : BitVec 4) (pa : BitVec 4) (pb : BitVec 4) (na : Bool) (nb : Bool) (fn : PFn) (s
    : State) : Answers s (execPlog x pd pa pb na nb fn s) := by simp [execPlog]

@[simp] theorem answers_insnAB (x : Ctl) (cyc : Nat) (f : W64 → W64 → W64 × BitVec 7) (d : BitVec 6) (a : BitVec 6) (b : Src) (s
    : State) : Answers s (insnAB x cyc f d a b s) := by simp [insnAB]

@[simp] theorem answers_insnA (x : Ctl) (cyc : Nat) (f : W64 → W64 × BitVec 7) (d : BitVec 6) (a : BitVec 6) (s : State) :
    Answers s (insnA x cyc f d a s) := by simp [insnA]

@[simp] theorem answers_execAdd (x : Ctl) (w : Bool) (d : BitVec 6) (a : BitVec 6) (b : Src) (s : State) :
    Answers s (execAdd x w d a b s) := by simp [execAdd]

@[simp] theorem answers_execSub (x : Ctl) (w : Bool) (d : BitVec 6) (a : BitVec 6) (b : Src) (s : State) :
    Answers s (execSub x w d a b s) := by simp [execSub]

@[simp] theorem answers_execAdds (x : Ctl) (w : Bool) (d : BitVec 6) (a : BitVec 6) (b : Src) (s : State) :
    Answers s (execAdds x w d a b s) := by simp [execAdds]

@[simp] theorem answers_execSubs (x : Ctl) (w : Bool) (d : BitVec 6) (a : BitVec 6) (b : Src) (s : State) :
    Answers s (execSubs x w d a b s) := by simp [execSubs]

@[simp] theorem answers_execMul (x : Ctl) (w : Bool) (d : BitVec 6) (a : BitVec 6) (b : Src) (s : State) :
    Answers s (execMul x w d a b s) := by simp [execMul]

@[simp] theorem answers_execMuls (x : Ctl) (w : Bool) (d : BitVec 6) (a : BitVec 6) (b : Src) (s : State) :
    Answers s (execMuls x w d a b s) := by simp [execMuls]

@[simp] theorem answers_execMulhs (x : Ctl) (w : Bool) (d : BitVec 6) (a : BitVec 6) (b : BitVec 6) (s : State) :
    Answers s (execMulhs x w d a b s) := by simp [execMulhs]

@[simp] theorem answers_execMulhu (x : Ctl) (w : Bool) (d : BitVec 6) (a : BitVec 6) (b : BitVec 6) (s : State) :
    Answers s (execMulhu x w d a b s) := by simp [execMulhu]

@[simp] theorem answers_execDivs (x : Ctl) (w : Bool) (d : BitVec 6) (a : BitVec 6) (b : Src) (s : State) :
    Answers s (execDivs x w d a b s) := by simp [execDivs]

@[simp] theorem answers_execDivu (x : Ctl) (w : Bool) (d : BitVec 6) (a : BitVec 6) (b : Src) (s : State) :
    Answers s (execDivu x w d a b s) := by simp [execDivu]

@[simp] theorem answers_execRems (x : Ctl) (w : Bool) (d : BitVec 6) (a : BitVec 6) (b : Src) (s : State) :
    Answers s (execRems x w d a b s) := by simp [execRems]

@[simp] theorem answers_execRemu (x : Ctl) (w : Bool) (d : BitVec 6) (a : BitVec 6) (b : Src) (s : State) :
    Answers s (execRemu x w d a b s) := by simp [execRemu]

@[simp] theorem answers_execMin (x : Ctl) (w : Bool) (d : BitVec 6) (a : BitVec 6) (b : Src) (s : State) :
    Answers s (execMin x w d a b s) := by simp [execMin]

@[simp] theorem answers_execMax (x : Ctl) (w : Bool) (d : BitVec 6) (a : BitVec 6) (b : Src) (s : State) :
    Answers s (execMax x w d a b s) := by simp [execMax]

@[simp] theorem answers_execMinu (x : Ctl) (w : Bool) (d : BitVec 6) (a : BitVec 6) (b : Src) (s : State) :
    Answers s (execMinu x w d a b s) := by simp [execMinu]

@[simp] theorem answers_execMaxu (x : Ctl) (w : Bool) (d : BitVec 6) (a : BitVec 6) (b : Src) (s : State) :
    Answers s (execMaxu x w d a b s) := by simp [execMaxu]

@[simp] theorem answers_execAnd (x : Ctl) (w : Bool) (d : BitVec 6) (a : BitVec 6) (b : Src) (s : State) :
    Answers s (execAnd x w d a b s) := by simp [execAnd]

@[simp] theorem answers_execOr (x : Ctl) (w : Bool) (d : BitVec 6) (a : BitVec 6) (b : Src) (s : State) :
    Answers s (execOr x w d a b s) := by simp [execOr]

@[simp] theorem answers_execXor (x : Ctl) (w : Bool) (d : BitVec 6) (a : BitVec 6) (b : Src) (s : State) :
    Answers s (execXor x w d a b s) := by simp [execXor]

@[simp] theorem answers_execAndn (x : Ctl) (w : Bool) (d : BitVec 6) (a : BitVec 6) (b : Src) (s : State) :
    Answers s (execAndn x w d a b s) := by simp [execAndn]

@[simp] theorem answers_execShl (x : Ctl) (w : Bool) (d : BitVec 6) (a : BitVec 6) (b : Src) (s : State) :
    Answers s (execShl x w d a b s) := by simp [execShl]

@[simp] theorem answers_execShr (x : Ctl) (w : Bool) (d : BitVec 6) (a : BitVec 6) (b : Src) (s : State) :
    Answers s (execShr x w d a b s) := by simp [execShr]

@[simp] theorem answers_execSar (x : Ctl) (w : Bool) (d : BitVec 6) (a : BitVec 6) (b : Src) (s : State) :
    Answers s (execSar x w d a b s) := by simp [execSar]

@[simp] theorem answers_execRol (x : Ctl) (w : Bool) (d : BitVec 6) (a : BitVec 6) (b : Src) (s : State) :
    Answers s (execRol x w d a b s) := by simp [execRol]

@[simp] theorem answers_execBfxu (x : Ctl) (d : BitVec 6) (a : BitVec 6) (lo : BitVec 6) (wm1 : BitVec 6) (s : State) :
    Answers s (execBfxu x d a lo wm1 s) := by simp [execBfxu]

@[simp] theorem answers_execBfxs (x : Ctl) (d : BitVec 6) (a : BitVec 6) (lo : BitVec 6) (wm1 : BitVec 6) (s : State) :
    Answers s (execBfxs x d a lo wm1 s) := by simp [execBfxs]

@[simp] theorem answers_execBfi (x : Ctl) (d : BitVec 6) (a : BitVec 6) (lo : BitVec 6) (wm1 : BitVec 6) (s : State) :
    Answers s (execBfi x d a lo wm1 s) := by simp [execBfi]

@[simp] theorem answers_execClz (x : Ctl) (w : Bool) (d : BitVec 6) (a : BitVec 6) (s : State) :
    Answers s (execClz x w d a s) := by simp [execClz]

@[simp] theorem answers_execPopc (x : Ctl) (w : Bool) (d : BitVec 6) (a : BitVec 6) (s : State) :
    Answers s (execPopc x w d a s) := by simp [execPopc]

@[simp] theorem answers_execAbss (x : Ctl) (w : Bool) (d : BitVec 6) (a : BitVec 6) (s : State) :
    Answers s (execAbss x w d a s) := by simp [execAbss]

/-! ### The floating-point instructions -/

@[simp] theorem answers_execFcmp (x : Ctl) (w : Bool) (cc : FltCC) (a : BitVec 6) (b : BitVec 6) (pd : BitVec 4) (pe : BitVec 4)
    (s : State) : Answers s (execFcmp x w cc a b pd pe s) := by simp [execFcmp]

@[simp] theorem answers_insnF2 (x : Ctl) (cyc : Nat) (w : Bool) (f : Fmt → Nat → Nat → Nat × BitVec 7) (d : BitVec 6) (a : BitVec
    6) (b : BitVec 6) (s : State) : Answers s (insnF2 x cyc w f d a b s) := by simp [insnF2]

@[simp] theorem answers_insnF1 (x : Ctl) (cyc : Nat) (w : Bool) (f : Fmt → Nat → Nat × BitVec 7) (d : BitVec 6) (a : BitVec 6) (s
    : State) : Answers s (insnF1 x cyc w f d a s) := by simp [insnF1]

@[simp] theorem answers_execFadd (x : Ctl) (w : Bool) (d : BitVec 6) (a : BitVec 6) (b : BitVec 6) (s : State) :
    Answers s (execFadd x w d a b s) := by simp [execFadd]

@[simp] theorem answers_execFsub (x : Ctl) (w : Bool) (d : BitVec 6) (a : BitVec 6) (b : BitVec 6) (s : State) :
    Answers s (execFsub x w d a b s) := by simp [execFsub]

@[simp] theorem answers_execFmul (x : Ctl) (w : Bool) (d : BitVec 6) (a : BitVec 6) (b : BitVec 6) (s : State) :
    Answers s (execFmul x w d a b s) := by simp [execFmul]

@[simp] theorem answers_execFdiv (x : Ctl) (w : Bool) (d : BitVec 6) (a : BitVec 6) (b : BitVec 6) (s : State) :
    Answers s (execFdiv x w d a b s) := by simp [execFdiv]

@[simp] theorem answers_execFsqrt (x : Ctl) (w : Bool) (d : BitVec 6) (a : BitVec 6) (s : State) :
    Answers s (execFsqrt x w d a s) := by simp [execFsqrt]

@[simp] theorem answers_insnFma (x : Ctl) (w : Bool) (neg : Bool) (d : BitVec 6) (a : BitVec 6) (b : BitVec 6) (c : BitVec 6) (s
    : State) : Answers s (insnFma x w neg d a b c s) := by simp [insnFma]

@[simp] theorem answers_execFma (x : Ctl) (w : Bool) (d : BitVec 6) (a : BitVec 6) (b : BitVec 6) (c : BitVec 6) (s : State) :
    Answers s (execFma x w d a b c s) := by simp [execFma]

@[simp] theorem answers_execFms (x : Ctl) (w : Bool) (d : BitVec 6) (a : BitVec 6) (b : BitVec 6) (c : BitVec 6) (s : State) :
    Answers s (execFms x w d a b c s) := by simp [execFms]

@[simp] theorem answers_execFmin (x : Ctl) (w : Bool) (d : BitVec 6) (a : BitVec 6) (b : BitVec 6) (s : State) :
    Answers s (execFmin x w d a b s) := by simp [execFmin]

@[simp] theorem answers_execFmax (x : Ctl) (w : Bool) (d : BitVec 6) (a : BitVec 6) (b : BitVec 6) (s : State) :
    Answers s (execFmax x w d a b s) := by simp [execFmax]

@[simp] theorem answers_execFminn (x : Ctl) (w : Bool) (d : BitVec 6) (a : BitVec 6) (b : BitVec 6) (s : State) :
    Answers s (execFminn x w d a b s) := by simp [execFminn]

@[simp] theorem answers_execFmaxn (x : Ctl) (w : Bool) (d : BitVec 6) (a : BitVec 6) (b : BitVec 6) (s : State) :
    Answers s (execFmaxn x w d a b s) := by simp [execFmaxn]

@[simp] theorem answers_execFabs (x : Ctl) (w : Bool) (d : BitVec 6) (a : BitVec 6) (s : State) :
    Answers s (execFabs x w d a s) := by simp [execFabs]

@[simp] theorem answers_execFneg (x : Ctl) (w : Bool) (d : BitVec 6) (a : BitVec 6) (s : State) :
    Answers s (execFneg x w d a s) := by simp [execFneg]

@[simp] theorem answers_execFcvt (x : Ctl) (w : Bool) (d : BitVec 6) (a : BitVec 6) (s : State) :
    Answers s (execFcvt x w d a s) := by simp [execFcvt]

@[simp] theorem answers_execIcvtf (x : Ctl) (w : Bool) (d : BitVec 6) (a : BitVec 6) (s : State) :
    Answers s (execIcvtf x w d a s) := by simp [execIcvtf]

@[simp] theorem answers_execUcvtf (x : Ctl) (w : Bool) (d : BitVec 6) (a : BitVec 6) (s : State) :
    Answers s (execUcvtf x w d a s) := by simp [execUcvtf]

@[simp] theorem answers_execFcvti (x : Ctl) (w : Bool) (d : BitVec 6) (a : BitVec 6) (rm : RMode) (r32 : Bool) (s : State) :
    Answers s (execFcvti x w d a rm r32 s) := by simp [execFcvti]

@[simp] theorem answers_execFcvtu (x : Ctl) (w : Bool) (d : BitVec 6) (a : BitVec 6) (rm : RMode) (r32 : Bool) (s : State) :
    Answers s (execFcvtu x w d a rm r32 s) := by simp [execFcvtu]

@[simp] theorem answers_execFrnd (x : Ctl) (w : Bool) (d : BitVec 6) (a : BitVec 6) (rm : RMode) (s : State) :
    Answers s (execFrnd x w d a rm s) := by simp [execFrnd]

/-! ### Instruction words -/

/-- An instruction answers, and keeps the time's rate and the memories. -/
def Steady (f : Insn) : Prop := ∀ s, Answers s (f s)

theorem steady_runControl (x : Ctl) (v : Nat) : Steady (runControl x v) := by
  unfold runControl
  (repeat' split) <;> exact fun s => by simp

theorem steady_runInt (x : Ctl) (v : Nat) : Steady (runInt x v) := by
  unfold runInt
  split <;> exact fun s => by simp

theorem steady_runFloat (x : Ctl) (v : Nat) : Steady (runFloat x v) := by
  unfold runFloat
  split <;> exact fun s => by simp

/-! ### The cycle -/

theorem kept_outState {r : Host.Outcome State Fault Refusal} {s : State} (h : Answers s r) : kept (outState r s) = kept s := by
  obtain ⟨t, rfl, ht⟩ := h
  exact ht

theorem loadKept_mc1Word (s : State) : LoadKept s (mc1Word s) := by
  unfold mc1Word
  dsimp only
  (repeat' split) <;> simp

@[simp] theorem kept_exitCycle (k : Nat) (s : State) : kept (exitCycle k s) = kept s := by
  unfold exitCycle
  dsimp only
  (repeat' split) <;> simp [↓kept_mk, ↓kept_fold]

@[simp] theorem kept_exitBegin (s : State) : kept (exitBegin s) = kept s := by simp [exitBegin, ↓kept_mk, ↓kept_fold]

@[simp] theorem kept_entryCycle (e : IrqEntry) (s : State) : kept (entryCycle e s) = kept s := by
  unfold entryCycle
  (repeat' split) <;> simp [↓kept_mk, ↓kept_fold]

@[simp] theorem kept_pulseEnds (s : State) : kept (pulseEnds s) = kept s := by simp [pulseEnds, ↓kept_mk, ↓kept_fold]

@[simp] theorem kept_startExchange (s : State) : kept (startExchange s) = kept s := by simp [startExchange]

@[simp] theorem kept_measure (s : State) : kept (Machine.measure s) = kept s := by
  unfold Machine.measure
  (repeat' split) <;> simp [↓kept_mk, ↓kept_fold]

end Sys2Proof.Proofs
end

section
/-! PROOFS. The operations that write TIME.RATE, the MRAM or the DRAM: RATE stays in its range (R351), and the memories stay in
their canonical form. Every step is one of them or leaves all three alone. -/

namespace Sys2Proof.Proofs

open Sys2Proof.Machine Sys2Proof.Laws

/-- The range of TIME.RATE (R351). -/
def RateIn (v : W64) : Prop := -140737488355 ≤ v.toInt ∧ v.toInt ≤ 140737488355

/-- What happens between two states takes neither RATE out of its range nor a memory out of its canonical form. -/
def Safe (k l : Kept) : Prop :=
  (RateIn k.1 → RateIn l.1) ∧ (tblWf k.2.1 0 = true → tblWf l.2.1 0 = true) ∧ (tblWf k.2.2 0 = true → tblWf l.2.2 0 = true)

theorem safe_refl (k : Kept) : Safe k k := ⟨id, id, id⟩

/-- A command answers, and its effect is safe. -/
def AnswersSafe (k : Kept) (o : Host.Outcome State Fault Refusal) : Prop := ∃ t, o = .next t ∧ Safe k (kept t)

@[simp] theorem answersSafe_next (k : Kept) (t : State) :
    AnswersSafe k (.next t) ↔ Safe k (kept t) := by simp [AnswersSafe]

@[simp] theorem safe_ite {k : Kept} {c : Prop} [Decidable c] {a b : Kept} :
    Safe k (if c then a else b) ↔ (c → Safe k a) ∧ (¬c → Safe k b) := by split <;> simp_all

@[simp] theorem safe_foldl {α : Type} {k : Kept} {f : State → α → State} {l : List α} {s : State}
    (h : ∀ s a, Safe k (kept s) → Safe k (kept (f s a))) (hs : Safe k (kept s)) : Safe k (kept (l.foldl f s)) := by
  induction l generalizing s with
  | nil => exact hs
  | cons a l ih => exact ih (h s a hs)

theorem safe_eq {k : Kept} {s t : State} (h : kept t = kept s) (hs : Safe k (kept s)) : Safe k (kept t) := h ▸ hs

theorem safe_guarded {k : Kept} {s : State} (m addr len : Nat) (write : Bool) {ok : State → State} (hok : Safe k (kept (ok s)))
    (hs : Safe k (kept s)) : Safe k (kept (guarded m addr len write ok s)) := by
  unfold guarded
  (repeat' split) <;> simp [hs, hok]

theorem safe_readPts {k : Kept} {s : State} (m : Nat) (ps : List Nat) {ok : State → State} (hok : Safe k (kept (ok s)))
    (hs : Safe k (kept s)) : Safe k (kept (readPts m ps ok s)) := by
  unfold readPts
  (repeat' split) <;> simp [hs, hok]

section
variable {k : Kept} {eff : HostDesc → State → State} (heff : ∀ d s, Safe k (kept s) → Safe k (kept (eff d s)))
include heff

theorem safe_runChecked {s : State} (d : HostDesc) (hs : Safe k (kept s)) : Safe k (kept (runChecked eff d s)) := by
  simp only [runChecked, kept_ite, kept_complete, kept_count]
  have h := heff d s hs
  (repeat' split) <;> assumption

theorem safe_runDesc {s : State} (d : HostDesc) (hs : Safe k (kept s)) : Safe k (kept (runDesc eff d s)) := by
  have h (u : State) (hu : kept u = kept s) := safe_runChecked heff (s := u) d (safe_eq hu hs)
  unfold runDesc
  (repeat' split) <;> simp [h, hs]

theorem safe_startDesc {s : State} (d : HostDesc) (hs : Safe k (kept s)) : Safe k (kept (startDesc eff d s)) :=
  safe_runDesc heff d hs

theorem safe_arrive {s : State} (d : HostDesc) (hs : Safe k (kept s)) : Safe k (kept (arrive eff d s)) := by
  unfold arrive
  split
  · exact safe_startDesc heff d hs
  · simpa using hs

end

section
variable {k : Kept} {eff : State → State} (heff : ∀ s, Safe k (kept s) → Safe k (kept (eff s)))
include heff

theorem safe_insnBody {s : State} (x : Ctl) (cyc : Nat) (hs : Safe k (kept s)) : Safe k (kept (insnBody x cyc eff s)) := by
  have h := heff (preStep x.core cyc s) (by simpa using hs)
  unfold insnBody
  (repeat' split) <;> simp [hs, h]

theorem answersSafe_insn {s : State} (x : Ctl) (cyc : Nat) (hs : Safe k (kept s)) : AnswersSafe k (insn x cyc eff s) :=
  ⟨_, rfl, safe_insnBody heff x cyc hs⟩

theorem answersSafe_insnS {s : State} (x : Ctl) (cyc : Nat) (hs : Safe k (kept s)) : AnswersSafe k (insnS x cyc eff s) := by
  unfold insnS
  split
  · exact answersSafe_insn heff x cyc hs
  · exact ⟨_, rfl, hs⟩

end

/-! ### The operations that write them -/

@[simp] theorem safe_mramWrite {k : Kept} {s : State} (off : Nat) (b : Bytes) (hs : Safe k (kept s)) :
    Safe k (kept (mramWrite off b s)) := by
  obtain ⟨hr, hm, hd⟩ := hs
  have hw := fun h => mramWrite_wf off b (hm h)
  unfold mramWrite at *
  split
  · exact ⟨hr, hm, hd⟩
  · exact ⟨hr, fun h => by simpa [kept, *] using tblPutAll_wf b s.mram 0 off (hm h), hd⟩

@[simp] theorem safe_dramWrite {k : Kept} {s : State} (a : Nat) (b : Bytes) (hs : Safe k (kept s)) :
    Safe k (kept (dramWrite a b s)) := by
  obtain ⟨hr, hm, hd⟩ := hs
  exact ⟨hr, hm, fun h => dramWrite_wf a b (hd h)⟩

@[simp] theorem safe_axRetain {k : Kept} {s : State} (n : Nat) (moving : Bool) (hs : Safe k (kept s)) :
    Safe k (kept (axRetain n moving s)) := by simp [axRetain, hs]

@[simp] theorem safe_axUnpowered {k : Kept} {s : State} (n : Nat) (hs : Safe k (kept s)) : Safe k (kept (axUnpowered n s)) := by
  unfold axUnpowered
  split <;> simp [hs]

@[simp] theorem safe_axStatus {k : Kept} {s : State} (n : Nat) (load : Byte) (st : Byte) (hs : Safe k (kept s)) :
    Safe k (kept (axStatus n load st s)) := by simp [axStatus, hs]

@[simp] theorem safe_axTakeStatus {k : Kept} {s : State} (n : Nat) (hs : Safe k (kept s)) :
    Safe k (kept (axTakeStatus s n)) := by
  unfold axTakeStatus
  dsimp only
  (repeat' split) <;> simp [hs]

@[simp] theorem safe_axDrained {k : Kept} {s : State} (n : Nat) (hs : Safe k (kept s)) : Safe k (kept (axDrained s n)) := by
  simp [axDrained, hs]

@[simp] theorem answersSafe_execAxisSlot {k : Kept} {s : State} (hs : Safe k (kept s)) : AnswersSafe k (execAxisSlot s) := by
  refine (answersSafe_next ..).mpr ?_
  split
  · exact hs
  · split
    · simpa using hs
    · dsimp only
      rw [kept_foldl _ kept_axOutputs, kept_foldl _ kept_axCurrent]
      refine safe_foldl (fun u n => safe_axDrained n) ?_
      rw [kept_foldl _ kept_axVelocity, kept_foldl _ kept_grpProfile, kept_foldl _ kept_axProfile, kept_foldl _ kept_grpStart,
        kept_foldl _ kept_grpTarget, kept_foldl _ kept_axTarget, kept_foldl _ kept_axCommands]
      exact safe_foldl (fun u n => safe_axTakeStatus n) hs

@[simp] theorem safe_jWrite {k : Kept} {s : State} (st : Nat) (band : Nat) (ph : Nat) (row : Nat) (x0 : Nat) (y0 : Nat) (ww :
    Nat) (sh : Nat) (acrow : Nat) (scrow : Nat) (useq : W64) (hs : Safe k (kept s)) : Safe k (kept (jWrite st band ph row x0
    y0 ww sh acrow scrow useq s)) := by simp [jWrite, hs]

@[simp] theorem safe_jRun {k : Kept} {s : State} (r : PnlRun) (st : Nat) (ph : Nat) (row : Nat) (hs : Safe k (kept s)) :
    Safe k (kept (jRun r st ph row s)) := by simp [jRun, hs]

@[simp] theorem safe_jRows {k : Kept} {s : State} (r : PnlRun) (st : Nat) (acrow : Nat) (scrow : Nat) (hs : Safe k (kept s)) :
    Safe k (kept (jRows r st acrow scrow s)) := by simp [jRows, hs]

@[simp] theorem safe_copyScratch {k : Kept} {s : State} (r : PnlRun) (y : Nat) (hs : Safe k (kept s)) :
    Safe k (kept (copyScratch r y s)) := by simp [copyScratch, hs]

@[simp] theorem safe_accountRow {k : Kept} {s : State} (r : PnlRun) (i : Nat) (hs : Safe k (kept s)) :
    Safe k (kept (accountRow r i s)) :=
  safe_jRows _ _ _ _ (safe_copyScratch _ _ (safe_jRows _ _ _ _ (safe_mramWrite _ _ (by simpa using hs))))

@[simp] theorem safe_accountRows {k : Kept} {s : State} (r : PnlRun) (i : Nat) (hs : Safe k (kept s)) :
    Safe k (kept (accountRows r i s)) :=
  safe_foldl (fun t i ht => by rw [kept_ite]; exact safe_ite.mpr ⟨fun _ => ht, fun _ => safe_accountRow r i ht⟩) hs

@[simp] theorem safe_stripEnd {k : Kept} {s : State} (r : PnlRun) (hs : Safe k (kept s)) : Safe k (kept (stripEnd r s)) := by
  simp [stripEnd, hs, ↓kept_mk, ↓kept_fold]

@[simp] theorem safe_stripAccount {k : Kept} {s : State} (r : PnlRun) (start : Nat) (hs : Safe k (kept s)) :
    Safe k (kept (stripAccount r start s)) := by
  refine safe_stripEnd _ (safe_accountRows _ _ ?_)
  split
  · exact safe_jRows _ _ _ _ hs
  · exact hs

@[simp] theorem safe_zeroRow {k : Kept} {s : State} (y : Nat) (hs : Safe k (kept s)) : Safe k (kept (zeroRow s y)) := by
  simp [zeroRow, hs]

@[simp] theorem safe_zeroRows {k : Kept} {s : State} (r : PnlRun) (start : Nat) (hs : Safe k (kept s)) :
    Safe k (kept (zeroRows r start s)) := by
  simp only [zeroRows, ↓kept_mk, ↓kept_fold]
  refine safe_jRun r jIDLE 0 0 (safe_foldl (fun t y ht => ?_) hs)
  split
  · exact ht
  · exact safe_jRows _ _ _ _ (safe_zeroRow _ ht)

@[simp] theorem safe_beginStrip {k : Kept} {s : State} (r : PnlRun) (hs : Safe k (kept s)) :
    Safe k (kept (beginStrip r s)) := by simp [beginStrip, hs]

@[simp] theorem safe_runBegin {k : Kept} {s : State} (r : PnlRun) (hs : Safe k (kept s)) : Safe k (kept (runBegin r s)) := by
  have hjr := safe_jRun (k := k) r jCLEARING 0 0 (s :=
    { s with pnl := { s.pnl with band := BitVec.ofNat 3 r.band, useq := r.useq, ph := 0, row := 0 } }) hs
  unfold runBegin
  dsimp only
  split
  · split
    · rw [kept_runEnd]
      exact safe_zeroRows _ _ (safe_jRows _ _ _ _ hjr)
    · simpa using hjr
  · rw [kept_pnlSetRun, kept_pumpOn]
    exact safe_beginStrip _ hs

@[simp] theorem safe_pnlNext {k : Kept} {s : State} (n : Nat) (hs : Safe k (kept s)) : Safe k (kept (pnlNext n s)) := by
  induction n generalizing s with
  | zero => exact hs
  | succ n ih =>
    unfold pnlNext
    split
    · split
      · exact hs
      · dsimp only
        split
        · exact ih (by simpa [↓kept_mk, ↓kept_fold] using hs)
        · exact safe_runBegin _ (by simpa [↓kept_mk, ↓kept_fold] using hs)
    · exact hs

@[simp] theorem safe_pnlGo {k : Kept} {s : State} (hs : Safe k (kept s)) : Safe k (kept (pnlGo s)) := safe_pnlNext 5 hs

@[simp] theorem safe_phasesDone {k : Kept} {s : State} (r : PnlRun) (hs : Safe k (kept s)) :
    Safe k (kept (phasesDone r s)) := by
  have hz := safe_zeroRows r 0 (safe_jRows r jZEROING 0 0xFFFF hs)
  have ha := safe_stripAccount r 0 hs
  unfold phasesDone
  dsimp only
  split
  · exact safe_pnlGo (by simpa using hz)
  · split
    · exact safe_pnlGo (by simpa using ha)
    · simpa using ha

@[simp] theorem safe_stripReady {k : Kept} {s : State} (r : PnlRun) (hs : Safe k (kept s)) :
    Safe k (kept (stripReady r s)) := by simp [stripReady, hs]

@[simp] theorem safe_panelPhase {k : Kept} {s : State} (hs : Safe k (kept s)) : Safe k (kept (panelPhase s)) := by
  unfold panelPhase
  split <;> simp [hs, ↓kept_mk, ↓kept_fold]

@[simp] theorem answersSafe_execPanelPhase {k : Kept} {s : State} (hs : Safe k (kept s)) : AnswersSafe k (execPanelPhase s) := by
  simp [execPanelPhase, hs]

@[simp] theorem answersSafe_execPumpTimeout {k : Kept} {s : State} (hs : Safe k (kept s)) : AnswersSafe k (execPumpTimeout s) := by
  unfold execPumpTimeout
  (repeat' split) <;> simp [hs]

@[simp] theorem safe_pnlPowerFail {k : Kept} {s : State} (hs : Safe k (kept s)) : Safe k (kept (pnlPowerFail s)) := by
  unfold pnlPowerFail
  split <;> simp [hs]

@[simp] theorem safe_resumeRun {k : Kept} {s : State} (r : PnlRun) (hs : Safe k (kept s)) : Safe k (kept (resumeRun r s)) := by
  unfold resumeRun
  dsimp only
  split
  · rw [kept_pnlSetRun, kept_pumpOn]
    exact hs
  · exact safe_phasesDone _ hs

@[simp] theorem safe_pnlStart {k : Kept} {s0 : State} (hs : Safe k (kept s0)) : Safe k (kept (pnlStart s0)) := by
  unfold pnlStart
  generalize hstart : ({ s0 with pnl := { s0.pnl with started := true } } : State) = s
  replace hs : Safe k (kept s) := hstart ▸ hs
  dsimp only
  have hrec : Safe k (kept (recovery s)) := by simpa using hs
  (repeat' split)
  · exact hs
  · exact safe_runBegin _ (by simpa using hs)
  · exact safe_resumeRun _ (by simpa using hs)
  · exact safe_stripAccount _ _ hrec
  · exact safe_stripAccount _ _ (safe_jRows _ _ _ _ (safe_copyScratch _ _ hrec))
  · exact safe_resumeRun _ hrec
  · exact safe_zeroRows _ _ hrec
  · exact hs

@[simp] theorem safe_pnlQueue {k : Kept} {s : State} (d : HostDesc) (hs : Safe k (kept s)) : Safe k (kept (pnlQueue d s)) := by
  rw [pnlQueue, kept_ite, kept_ite, kept_finPnl, kept_finPnl]
  exact safe_ite.mpr ⟨fun _ => hs, fun _ => safe_ite.mpr ⟨fun _ => hs, fun _ => safe_pnlGo hs⟩⟩

@[simp] theorem safe_effPnlUpdate {k : Kept} {s : State} (d : HostDesc) (hs : Safe k (kept s)) :
    Safe k (kept (effPnlUpdate d s)) := by simp [effPnlUpdate, hs]

@[simp] theorem safe_effPnlClear {k : Kept} {s : State} (d : HostDesc) (hs : Safe k (kept s)) :
    Safe k (kept (effPnlClear d s)) := by simp [effPnlClear, hs]

@[simp] theorem safe_firstConfig {k : Kept} {s : State} (w : Nat) (h : Nat) (hs : Safe k (kept s)) :
    Safe k (kept (firstConfig w h s)) := by simp [firstConfig, hs]

@[simp] theorem safe_effPnlConfig {k : Kept} {s : State} (d : HostDesc) (hs : Safe k (kept s)) :
    Safe k (kept (effPnlConfig d s)) := by simp [effPnlConfig, hs]

@[simp] theorem answersSafe_execPnlUpdate {k : Kept} {s : State} (d : HostDesc) (hs : Safe k (kept s)) :
    AnswersSafe k (execPnlUpdate d s) :=
  ⟨_, rfl, safe_arrive (fun d _ h => safe_effPnlUpdate d h) d hs⟩

@[simp] theorem answersSafe_execPnlConfig {k : Kept} {s : State} (d : HostDesc) (hs : Safe k (kept s)) :
    AnswersSafe k (execPnlConfig d s) :=
  ⟨_, rfl, safe_arrive (fun d _ h => safe_effPnlConfig d h) d hs⟩

@[simp] theorem answersSafe_execPnlClear {k : Kept} {s : State} (d : HostDesc) (hs : Safe k (kept s)) :
    AnswersSafe k (execPnlClear d s) :=
  ⟨_, rfl, safe_arrive (fun d _ h => safe_effPnlClear d h) d hs⟩

@[simp] theorem safe_lanOne {k : Kept} {s : State} (hs : Safe k (kept s)) : Safe k (kept (lanOne s)) := by
  unfold lanOne
  split <;> simp [hs, ↓kept_mk, ↓kept_fold]

@[simp] theorem answersSafe_execLanternWrite {k : Kept} {s : State} (hs : Safe k (kept s)) : AnswersSafe k (execLanternWrite s) := by
  simp [execLanternWrite, hs]

@[simp] theorem safe_effTagWrite {k : Kept} {s : State} (d : HostDesc) (hs : Safe k (kept s)) :
    Safe k (kept (effTagWrite d s)) := by simp [effTagWrite, hs]

@[simp] theorem answersSafe_execTagWrite {k : Kept} {s : State} (d : HostDesc) (hs : Safe k (kept s)) :
    AnswersSafe k (execTagWrite d s) :=
  ⟨_, rfl, safe_arrive (fun d _ h => safe_effTagWrite d h) d hs⟩

@[simp] theorem safe_rbStore {k : Kept} {s : State} (st : SStruct) (b off : Nat) (x : Bytes) (hs : Safe k (kept s)) :
    Safe k (kept (rbStore st b off x s)) :=
  safe_guarded _ _ _ _ (safe_dramWrite _ _ hs) hs

@[simp] theorem safe_commitStore {k : Kept} {s : State} (st : SStruct) (r : SRun) (hs : Safe k (kept s)) :
    Safe k (kept (commitStore st r s)) := by simp [commitStore, hs]

@[simp] theorem safe_iterate {k : Kept} {s0 : State} (r : SRun) (hs : Safe k (kept s0)) : Safe k (kept (iterate s0 r)) := by
  simp [iterate, hs]

@[simp] theorem safe_writeResult {k : Kept} {s : State} (r : SRun) (status endc : Byte) (hs : Safe k (kept s)) :
    Safe k (kept (writeResult s r status endc)) := by
  unfold writeResult
  generalize hx : mkResult _ _ _ _ _ _ = x
  dsimp only
  generalize hrb : rbStore _ _ _ _ _ = u
  have hu : Safe k (kept u) := hrb ▸ safe_rbStore _ _ _ _ (by simpa using hs)
  (repeat' split) <;> simp [hu, ↓kept_mk, ↓kept_fold]

@[simp] theorem safe_finishRun {k : Kept} {s : State} (r : SRun) (hs : Safe k (kept s)) : Safe k (kept (finishRun s r)) := by
  unfold finishRun
  split <;> simp [hs]

@[simp] theorem safe_solvCapture {k : Kept} {s : State} (t : LTask) (hs : Safe k (kept s)) :
    Safe k (kept (solvCapture t s)) := by
  unfold solvCapture
  (repeat' split) <;> simp [hs]

@[simp] theorem safe_solvLong {k : Kept} {s : State} (idx : Nat) (e : SlotE) (hs : Safe k (kept s)) :
    Safe k (kept (solvLong idx e s)) := by
  unfold solvLong
  split <;> simp [hs]

@[simp] theorem answersSafe_execIterationCommit {k : Kept} {s : State} (task : W16) (hs : Safe k (kept s)) :
    AnswersSafe k (execIterationCommit task s) := by
  unfold execIterationCommit
  split <;> simp [hs]

@[simp] theorem answersSafe_execResultWrite {k : Kept} {s : State} (task : W16) (hs : Safe k (kept s)) :
    AnswersSafe k (execResultWrite task s) := by
  unfold execResultWrite
  split <;> simp [hs]

@[simp] theorem safe_publishHeld {k : Kept} {s : State} (can : Bool) (h : SHeld) (hs : Safe k (kept s)) :
    Safe k (kept (publishHeld can s h)) := by simp [publishHeld, hs]

@[simp] theorem safe_solvPub {k : Kept} {s : State} (hs : Safe k (kept s)) : Safe k (kept (solvPub s)) :=
  safe_foldl (fun _ h => safe_publishHeld _ h) hs

@[simp] theorem answersSafe_execLongSlot {k : Kept} {s : State} (slot : Nat) (hs : Safe k (kept s)) :
    AnswersSafe k (execLongSlot slot s) := by
  unfold execLongSlot
  split <;> simp [hs]

@[simp] theorem answersSafe_execPubSlot {k : Kept} {s : State} (m : LongMaster) (hs : Safe k (kept s)) :
    AnswersSafe k (execPubSlot m s) := by
  unfold execPubSlot
  (repeat' split) <;> simp [hs]

@[simp] theorem safe_applyRate {k : Kept} {s : State} (v : W64) (hs : Safe k (kept s)) : Safe k (kept (applyRate v s)) := by
  obtain ⟨hr, hm, hd⟩ := hs
  unfold applyRate
  split
  next h =>
    rw [rateOk, Bool.and_eq_true, decide_eq_true_eq, decide_eq_true_eq] at h
    exact ⟨fun _ => h, hm, hd⟩
  next => exact ⟨hr, hm, hd⟩

@[simp] theorem safe_rateOp {k : Kept} {s : State} (m : RegMaster) (v : W64) (hs : Safe k (kept s)) :
    Safe k (kept (rateOp m v s)) := by simp [rateOp, hs]

@[simp] theorem safe_calSave {k : Kept} {s : State} (hs : Safe k (kept s)) : Safe k (kept (calSave s)) := by simp [calSave, hs]

@[simp] theorem safe_saveTotals {k : Kept} {s : State} (ok : Bool) (hs : Safe k (kept s)) :
    Safe k (kept (saveTotals ok s)) := by
  unfold saveTotals
  dsimp only
  have h1 : Safe k (kept (if s.metr.calPend.isEmpty = true then s
      else calSave
        { s.metr.calPend.foldl calTake s with metr := { (s.metr.calPend.foldl calTake s).metr with calPend := [] } })) := by
    split
    · exact hs
    · exact safe_calSave (safe_eq (kept_foldl calTake kept_calTake _ _) hs)
  split
  · exact safe_mramWrite _ _ h1
  · rw [kept_count]
    exact safe_mramWrite _ _ h1

@[simp] theorem answersSafe_execTotaliserSave {k : Kept} {s : State} (readBackOk : Bool) (hs : Safe k (kept s)) :
    AnswersSafe k (execTotaliserSave readBackOk s) := by simp [execTotaliserSave, hs]

@[simp] theorem safe_metrPowerFail {k : Kept} {s : State} (hs : Safe k (kept s)) : Safe k (kept (metrPowerFail s)) := by
  unfold metrPowerFail
  split
  · exact hs
  · dsimp only
    rw [kept_mk, kept_fold]
    refine safe_mramWrite _ _ (safe_foldl (fun t p ht => ?_) (safe_foldl (fun t f ht => ?_) hs))
    · split
      · simpa using ht
      · exact ht
    · split
      · exact safe_foldl (fun u p hu => by simpa using hu) ht
      · exact ht

@[simp] theorem safe_lossRecord {k : Kept} {s : State} (hs : Safe k (kept s)) : Safe k (kept (lossRecord s)) := by
  unfold lossRecord
  dsimp only
  generalize List.flatten _ = bytes
  split
  · rw [kept_foldl _ (fun t i => kept_lantern 0x0901 1 (slice bytes (32 * i) 32) t)]
    exact safe_mramWrite _ _ (safe_mramWrite _ _ (by rwa [kept_mk, kept_fold]))
  · exact hs

@[simp] theorem safe_metrStart {k : Kept} {s0 : State} (hs : Safe k (kept s0)) : Safe k (kept (metrStart s0)) := by
  simp [metrStart, hs, ↓kept_mk, ↓kept_fold]

@[simp] theorem safe_mc1Receive {k : Kept} {s : State} (p : Nat) (x : EthItem) (hs : Safe k (kept s)) :
    Safe k (kept (mc1Receive p x s)) := by
  unfold mc1Receive
  dsimp only
  split
  · simpa using hs
  · refine safe_guarded _ _ _ _ ?_ hs
    split
    · simpa using hs
    · refine safe_guarded _ _ _ _ (safe_guarded _ _ _ _ ?_ hs) hs
      rw [kept_irqEdge, kept_portPut]
      exact safe_dramWrite _ _ (safe_dramWrite _ _ hs)

@[simp] theorem safe_mc1Return {k : Kept} {s : State} (p : Nat) (b : EthBack) (hs : Safe k (kept s)) :
    Safe k (kept (mc1Return p s b)) := by
  refine safe_guarded _ _ _ _ ?_ hs
  rw [kept_irqEdge]
  exact safe_dramWrite _ _ hs

@[simp] theorem safe_mc1Returns {k : Kept} {s : State} (p : Nat) (hs : Safe k (kept s)) : Safe k (kept (mc1Returns s p)) :=
  safe_foldl (fun _ b h => safe_mc1Return p b h) hs

@[simp] theorem safe_ethTransmit {k : Kept} {s0 : State} (hs : Safe k (kept s0)) : Safe k (kept (ethTransmit s0)) := by
  unfold ethTransmit
  have h1 : Safe k (kept ((s0.ethl.port.map (·.1)).foldl mc1Returns s0)) := safe_foldl (fun _ p h => safe_mc1Returns p h) hs
  dsimp only
  generalize (s0.ethl.port.map (·.1)).foldl mc1Returns s0 = s at h1
  split
  · simpa using h1
  · refine safe_foldl (fun t p ht => ?_) h1
    split
    · exact ht
    · rw [kept_mc1Take]
      split
      · exact safe_eq (kept_foldl _ (fun u x => kept_sendTpl p u x) _ _) ht
      · exact ht

@[simp] theorem safe_ruleDeliver {k : Kept} {s : State} (p : Nat) (x : EthItem) (hs : Safe k (kept s)) :
    Safe k (kept (ruleDeliver p s x)) := by
  unfold ruleDeliver
  split <;> simp [hs]

@[simp] theorem safe_ethPortReceive {k : Kept} {s : State} (p : Nat) (hs : Safe k (kept s)) :
    Safe k (kept (ethPortReceive s p)) := by
  unfold ethPortReceive
  dsimp only
  rw [kept_foldl _ (fun u x => kept_ethLossOne p u x)]
  exact safe_foldl (fun _ x h => safe_ruleDeliver p x h) hs

@[simp] theorem safe_ethReceiveSlot {k : Kept} {s : State} (hs : Safe k (kept s)) : Safe k (kept (ethReceiveSlot s)) :=
  safe_foldl (fun _ p h => safe_ethPortReceive p h) hs

@[simp] theorem answersSafe_execReceiveSlot {k : Kept} {s : State} (m : LinkMaster) (hs : Safe k (kept s)) :
    AnswersSafe k (execReceiveSlot m s) := by
  unfold execReceiveSlot
  (repeat' split) <;> simp [hs]

@[simp] theorem answersSafe_execTransmitSlot {k : Kept} {s : State} (m : LinkMaster) (hs : Safe k (kept s)) :
    AnswersSafe k (execTransmitSlot m s) := by
  unfold execTransmitSlot
  (repeat' split) <;> simp [hs]

@[simp] theorem safe_switchSolver {k : Kept} {s : State} (hs : Safe k (kept s)) (im : Image) :
    Safe k (kept (switchSolver im s)) := by
  unfold switchSolver
  have h1 : Safe k (kept (s.solv.runs.foldl finishRun s)) := safe_foldl (fun _ r h => safe_finishRun r h) hs
  dsimp only
  generalize s.solv.runs.foldl finishRun s = s1 at h1
  generalize h2 : List.foldl (publishHeld false) _ _ = s2
  have h2 : Safe k (kept s2) := h2 ▸ safe_foldl (fun _ x h => safe_publishHeld _ x h) h1
  rw [kept_foldl _ (fun t n => kept_switchSlot _ im t n), kept_foldl _ (fun t n => kept_slotLeaves n t),
    kept_foldl _ (fun t d => kept_finSolv d stRANGE 0 t)]
  exact h2

@[simp] theorem safe_bootImage {k : Kept} {s : State} (im : Image) (hs : Safe k (kept s)) : Safe k (kept (bootImage im s)) := by
  simp [bootImage, hs, ↓kept_mk, ↓kept_fold]

@[simp] theorem safe_carryOver {k : Kept} {s : State} (old : Image) (im : Image) (hs : Safe k (kept s)) :
    Safe k (kept (carryOver old im s)) := by simp [carryOver, hs]

@[simp] theorem safe_newImage {k : Kept} {s : State} (old : Image) (im : Image) (hs : Safe k (kept s)) :
    Safe k (kept (newImage old im s)) := by
  unfold newImage
  split <;> simp [hs]

@[simp] theorem answersSafe_execNewImageActive {k : Kept} {s : State} (hs : Safe k (kept s)) :
    AnswersSafe k (execNewImageActive s) := by
  unfold execNewImageActive
  split <;> simp [hs]

@[simp] theorem answersSafe_execImageCheckComplete {k : Kept} {s : State} (hs : Safe k (kept s)) :
    AnswersSafe k (execImageCheckComplete s) := by
  unfold execImageCheckComplete
  split <;> simp [hs, ↓kept_mk, ↓kept_fold]

@[simp] theorem safe_lanFlush {k : Kept} {s : State} (n : Nat) (hs : Safe k (kept s)) : Safe k (kept (lanFlush n s)) := by
  induction n generalizing s with
  | zero => exact hs
  | succ n ih => exact ih (safe_lanOne hs)

@[simp] theorem safe_lanPowerFail {k : Kept} {s : State} (hs : Safe k (kept s)) : Safe k (kept (lanPowerFail s)) := by
  refine safe_lanFlush _ ?_
  rw [kept_mk, kept_fold, kept_lantern]
  exact hs

@[simp] theorem safe_saveSequence {k : Kept} {s : State} (hs : Safe k (kept s)) : Safe k (kept (saveSequence s)) := by
  unfold saveSequence
  split
  · exact hs
  · dsimp only
    rw [kept_mk, kept_fold]
    exact safe_pnlPowerFail (safe_lanPowerFail (safe_foldl (fun _ n h => safe_axRetain n _ h) (safe_metrPowerFail hs)))

@[simp] theorem answersSafe_execPowerFailure {k : Kept} {s : State} (hs : Safe k (kept s)) : AnswersSafe k (execPowerFailure s) := by
  simp [execPowerFailure, hs]

@[simp] theorem safe_resetDevice {k : Kept} {s : State} (por : Bool) (cause : BitVec 4) (hs : Safe k (kept s)) :
    Safe k (kept (resetDevice por cause s)) := by
  obtain ⟨-, hm, -⟩ := hs
  unfold resetDevice
  dsimp only
  rw [kept_emitAll]
  exact ⟨fun _ => (⟨by decide, by decide⟩ : RateIn 0), hm, fun _ => rfl⟩

@[simp] theorem answersSafe_execPor {k : Kept} {s : State} (brownOut : Bool) (hs : Safe k (kept s)) :
    AnswersSafe k (execPor brownOut s) := by simp [execPor, hs]

@[simp] theorem answersSafe_execPd0Cold {k : Kept} {s : State} (hs : Safe k (kept s)) : AnswersSafe k (execPd0Cold s) := by
  simp [execPd0Cold, hs, ↓kept_mk, ↓kept_fold]

@[simp] theorem safe_requestReset {k : Kept} {s : State} (cause : BitVec 4) (hs : Safe k (kept s)) :
    Safe k (kept (requestReset cause s)) := by
  unfold requestReset
  split
  · exact hs
  · exact safe_saveSequence hs

@[simp] theorem answersSafe_execSysrst {k : Kept} {s : State} (hs : Safe k (kept s)) : AnswersSafe k (execSysrst s) := by
  unfold execSysrst
  split <;> simp [hs]

@[simp] theorem answersSafe_execWatchdogExpiry {k : Kept} {s : State} (hs : Safe k (kept s)) :
    AnswersSafe k (execWatchdogExpiry s) := by simp [execWatchdogExpiry, hs]

@[simp] theorem safe_rstreqOp {k : Kept} {s : State} (m : RegMaster) (v : W32) (hs : Safe k (kept s)) :
    Safe k (kept (rstreqOp m v s)) := by simp [rstreqOp, hs]

@[simp] theorem answersSafe_execPllLockLoss {k : Kept} {s : State} (pll : Fin 3) (hs : Safe k (kept s)) :
    AnswersSafe k (execPllLockLoss pll s) := by
  refine (answersSafe_next ..).mpr ?_
  dsimp only
  (repeat' split)
  · exact safe_requestReset 5 hs
  · exact safe_requestReset 5 hs
  · exact safe_requestReset 5 hs
  · exact hs

@[simp] theorem answersSafe_execPairRejoinReset {k : Kept} {s : State} (hs : Safe k (kept s)) :
    AnswersSafe k (execPairRejoinReset s) := by simp [execPairRejoinReset, hs]

@[simp] theorem safe_memoryWork {k : Kept} {s : State} (nandOk : Bool) (hs : Safe k (kept s)) :
    Safe k (kept (memoryWork nandOk s)) := by
  unfold memoryWork
  dsimp only
  rw [kept_setStage, kept_enable, kept_domPut]
  refine safe_pnlStart ?_
  rw [kept_foldl _ kept_axRestore]
  refine safe_metrStart ?_
  split <;> simpa using hs

@[simp] theorem answersSafe_execStageMemory {k : Kept} {s : State} (dramGiB : BitVec 5) (vddq11 : Bool) (trained : BitVec 2) (nandOk
    : Bool) (hs : Safe k (kept s)) : AnswersSafe k (execStageMemory dramGiB vddq11 trained nandOk s) := by
  refine (answersSafe_next ..).mpr ?_
  split
  · exact hs
  · dsimp only
    split
    · rw [kept_bootFail, kept_mk, kept_fold]
      exact hs
    · refine safe_memoryWork nandOk ?_
      rw [kept_mk, kept_fold]
      exact hs

@[simp] theorem safe_tryImage {k : Kept} {s : State} (b : Bool) (at_ : W32) (copy : Option Bytes) (hs : Safe k (kept s)) :
    Safe k (kept (tryImage b at_ copy s)) := by
  unfold tryImage
  split <;> simp [hs, ↓kept_mk, ↓kept_fold]

@[simp] theorem answersSafe_execStageImage {k : Kept} {s : State} (imageA : Option Bytes) (imageB : Option Bytes) (hs : Safe k (kept
    s)) : AnswersSafe k (execStageImage imageA imageB s) := by simp [execStageImage, hs]

@[simp] theorem safe_timeWrite {k : Kept} {s : State} (m : RegMaster) (off : Nat) (v : Nat) (hs : Safe k (kept s)) :
    Safe k (kept (timeWrite m off v s)) := by simp [timeWrite, hs]

@[simp] theorem safe_secWrite {k : Kept} {dbg : W64 → State → State} (hdbg : ∀ v s, Safe k (kept s) → Safe k (kept (dbg v s)))
    {s : State} (off v : Nat) (hs : Safe k (kept s)) : Safe k (kept (secWrite dbg off v s)) := by
  unfold secWrite
  (repeat' split) <;> simp [hs, hdbg, ↓kept_mk, ↓kept_fold]

@[simp] theorem safe_regApply {k : Kept} {dbg : W64 → State → State} (hdbg : ∀ v s, Safe k (kept s) → Safe k (kept (dbg v s)))
    {s : State} (m : RegMaster) (b off o v : Nat) (hs : Safe k (kept s)) : Safe k (kept (regApply dbg m b off o v s)) := by
  have hsec := safe_secWrite hdbg off v hs
  unfold regApply
  simp [hs, hsec, ↓kept_mk, ↓kept_fold, safe_timeWrite, safe_rstreqOp]

@[simp] theorem safe_writeReg {k : Kept} {dbg : W64 → State → State} (hdbg : ∀ v s, Safe k (kept s) → Safe k (kept (dbg v s)))
    {s : State} (m : RegMaster) (b o : Nat) (e : RegE) (v : W32) (hs : Safe k (kept s)) : Safe k (kept (writeReg dbg m b o e v
    s)) := by
  unfold writeReg
  dsimp only
  split
  · exact safe_regApply hdbg m b _ o _ hs
  · split
    · exact hs
    · refine safe_regApply hdbg m b _ o _ ?_
      split <;> exact hs

@[simp] theorem safe_writeWord {k : Kept} {dbg : W64 → State → State} (hdbg : ∀ v s, Safe k (kept s) → Safe k (kept (dbg v
    s))) {s : State} (m : RegMaster) (addr : Nat) (v : W32) (hs : Safe k (kept s)) : Safe k (kept (writeWord dbg m addr v s))
    := by
  unfold writeWord
  split
  · simpa using hs
  · exact safe_writeReg hdbg _ _ _ _ _ hs

@[simp] theorem safe_busWriteWith {k : Kept} {dbg : W64 → State → State} (hdbg : ∀ v s, Safe k (kept s) → Safe k (kept (dbg v
    s))) {s : State} (m : RegMaster) (addr size : Nat) (v : W64) (hs : Safe k (kept s)) : Safe k (kept (busWriteWith dbg m
    addr size v s)) := by
  unfold busWriteWith
  (repeat' split)
  · exact safe_writeWord hdbg _ _ _ hs
  · exact safe_writeWord hdbg _ _ _ (safe_writeWord hdbg _ _ _ hs)
  · simpa using hs

@[simp] theorem safe_fabStore {k : Kept} {s : State} (a : Nat) (b : Bytes) (hs : Safe k (kept s)) :
    Safe k (kept (fabStore a b s)) := by simp [fabStore, hs]

theorem safe_mc1StoreWith {k : Kept} {dbg : W64 → State → State} (hdbg : ∀ v s, Safe k (kept s) → Safe k (kept (dbg v s))) {s
    : State} (a n : Nat) (v : W64) (hs : Safe k (kept s)) {t : State} (ht : mc1StoreWith dbg a n v s = .inl t) : Safe k (kept
    t) := by
  unfold mc1StoreWith at ht
  split at ht
  · obtain rfl := Sum.inl.inj ht
    exact safe_busWriteWith hdbg _ _ _ _ hs
  split at ht
  · cases ht
  split at ht
  · obtain rfl := Sum.inl.inj ht
    exact hs
  split at ht
  · obtain rfl := Sum.inl.inj ht
    exact safe_fabStore _ _ hs
  · cases ht

@[simp] theorem safe_dbgWrite {k : Kept} {s : State} (v : W64) (hs : Safe k (kept s)) : Safe k (kept (dbgWrite v s)) := by
  unfold dbgWrite
  dsimp only
  split
  · split
    · exact safe_busWriteWith (fun _ _ h => h) _ _ _ _ hs
    · split
      · exact safe_fabStore _ _ hs
      · exact hs
  split
  · split
    next t ht => exact safe_mc1StoreWith (fun _ _ h => h) _ _ _ hs ht
    next => exact hs
  split
  · rw [kept_engPut]
    exact hs
  · exact hs

@[simp] theorem safe_busWrite {k : Kept} {s : State} (m : RegMaster) (addr size : Nat) (v : W64) (hs : Safe k (kept s)) :
    Safe k (kept (busWrite m addr size v s)) :=
  safe_busWriteWith (fun v _ h => safe_dbgWrite v h) m addr size v hs

theorem safe_mc1Store {k : Kept} {s : State} (a n : Nat) (v : W64) (hs : Safe k (kept s)) {t : State} (ht : mc1Store a n v s =
    .inl t) : Safe k (kept t) :=
  safe_mc1StoreWith (fun v _ h => safe_dbgWrite v h) a n v hs ht

@[simp] theorem safe_stEff {k : Kept} {s : State} (x : Ctl) (d a : BitVec 6) (sz : BitVec 2) (v : W32) (hs : Safe k (kept s)) :
    Safe k (kept (stEff x d a sz v s)) := by
  unfold stEff
  split
  · dsimp only
    split
    · rw [kept_engPut]
      exact hs
    · rw [kept_count]
      exact hs
  · split
    next t ht => exact safe_mc1Store _ _ _ hs ht
    next => rw [kept_insnFault]; exact hs

@[simp] theorem answersSafe_execSt {k : Kept} {s : State} (x : Ctl) (d a : BitVec 6) (sz : BitVec 2) (v : W32) (hs : Safe k (kept s)) :
    AnswersSafe k (execSt x d a sz v s) :=
  answersSafe_insn (fun _ h => safe_stEff x d a sz v h) x 1 hs

theorem safe_pushThen {k : Kept} {s : State} (v : W64) {next : State → State} (hnext : ∀ u, kept (next u) = kept u) (hs : Safe
    k (kept s)) :
    Safe k (kept (pushThen v next s)) := by
  unfold pushThen
  dsimp only
  split
  · rw [kept_insnFault]; exact hs
  · split
    next t ht =>
      rw [hnext, kept_setSp]
      exact safe_mc1Store _ _ _ hs ht
    next => rw [kept_insnFault]; exact hs

@[simp] theorem answersSafe_execCall {k : Kept} {s : State} (x : Ctl) (v : W32) (hs : Safe k (kept s)) :
    AnswersSafe k (execCall x v s) :=
  answersSafe_insnS (fun u h => safe_pushThen (next := mc1Pc (brTarget u v)) u.mc1.pc (fun _ => rfl) h) x 3 hs

@[simp] theorem answersSafe_execCallr {k : Kept} {s : State} (x : Ctl) (a : BitVec 6) (hs : Safe k (kept s)) :
    AnswersSafe k (execCallr x a s) :=
  answersSafe_insnS (fun u h => safe_pushThen (next := mc1Pc (mc1G u a)) u.mc1.pc (fun _ => rfl) h) x 3 hs

@[simp] theorem answersSafe_execPush {k : Kept} {s : State} (x : Ctl) (a : BitVec 6) (hs : Safe k (kept s)) :
    AnswersSafe k (execPush x a s) :=
  answersSafe_insnS (fun _ h => safe_pushThen _ (fun _ => rfl) h) x 1 hs

@[simp] theorem safe_frameStore {k : Kept} {s : State} (a : Nat) (f : Bytes) (hs : Safe k (kept s)) :
    Safe k (kept (frameStore a f s)) := by
  refine safe_foldl (fun t i ht => ?_) hs
  split
  next u hu => exact safe_mc1Store _ _ _ ht hu
  next => exact ht

theorem safe_mc1Save {k : Kept} {s t : State} (hs : Safe k (kept s)) (ht : mc1Save s = some t) : Safe k (kept t) := by
  unfold mc1Save at ht
  dsimp only at ht
  split at ht
  · cases ht
  · obtain rfl := Option.some.inj ht
    rw [kept_setSp]
    exact safe_frameStore _ _ hs

@[simp] theorem safe_entryBegin {k : Kept} {s : State} (hs : Safe k (kept s)) : Safe k (kept (entryBegin s)) := by
  unfold entryBegin
  dsimp only
  split
  next n t _ ht =>
    rw [kept_mk, kept_fold]
    exact safe_mc1Save hs ht
  next => rw [kept_entryFault]; exact hs
  next => exact hs

@[simp] theorem safe_mc1Entry {k : Kept} {s : State} (hs : Safe k (kept s)) : Safe k (kept (mc1Entry s)) := by
  unfold mc1Entry
  split
  · dsimp only
    (repeat' split) <;> simpa using hs
  · split
    · split
      next => rw [kept_entryFault]; exact hs
      next t ht =>
        have h := safe_mc1Save hs ht
        split
        · dsimp only
          rw [kept_mk, kept_fold, kept_mc1Enter]
          exact h
        · exact h
    · split <;> exact hs

@[simp] theorem answersSafe_execInterruptEntry {k : Kept} {s : State} (c : IrqCore) (hs : Safe k (kept s)) :
    AnswersSafe k (execInterruptEntry c s) := by
  unfold execInterruptEntry
  (repeat' split) <;> simp [hs]

@[simp] theorem answersSafe_writeRow {k : Kept} {s : State} (m : RegMaster) (addr : Nat) (size : Nat) (v : W64) (hs : Safe k (kept
    s)) : AnswersSafe k (writeRow m addr size v s) := by simp [writeRow, hs]

@[simp] theorem answersSafe_execEnWrite {k : Kept} {s : State} (m : RegMaster) (blk : Fin 21) (v : W32) (hs : Safe k (kept s)) :
    AnswersSafe k (execEnWrite m blk v s) := by simp [execEnWrite, hs]

@[simp] theorem answersSafe_execSchedUnfrz {k : Kept} {s : State} (m : RegMaster) (v : W32) (hs : Safe k (kept s)) :
    AnswersSafe k (execSchedUnfrz m v s) := by simp [execSchedUnfrz, hs]

@[simp] theorem answersSafe_execRstreq {k : Kept} {s : State} (m : RegMaster) (v : W32) (hs : Safe k (kept s)) :
    AnswersSafe k (execRstreq m v s) := by simp [execRstreq, hs]

@[simp] theorem answersSafe_execRate {k : Kept} {s : State} (m : RegMaster) (v : W64) (hs : Safe k (kept s)) :
    AnswersSafe k (execRate m v s) := by simp [execRate, hs]

@[simp] theorem answersSafe_execStep {k : Kept} {s : State} (m : RegMaster) (v : W128) (hs : Safe k (kept s)) :
    AnswersSafe k (execStep m v s) := by simp [execStep, hs]

@[simp] theorem answersSafe_execSnap {k : Kept} {s : State} (m : RegMaster) (hs : Safe k (kept s)) : AnswersSafe k (execSnap m s) := by
  simp [execSnap, hs]

@[simp] theorem answersSafe_execCommitRequest {k : Kept} {s : State} (m : RegMaster) (hs : Safe k (kept s)) :
    AnswersSafe k (execCommitRequest m s) := by simp [execCommitRequest, hs]

@[simp] theorem answersSafe_execTxcan {k : Kept} {s : State} (m : RegMaster) (ch : Fin 40) (v : Byte) (hs : Safe k (kept s)) :
    AnswersSafe k (execTxcan m ch v s) := by simp [execTxcan, hs]

@[simp] theorem answersSafe_execTxreq {k : Kept} {s : State} (m : RegMaster) (ch : Fin 40) (v : Byte) (hs : Safe k (kept s)) :
    AnswersSafe k (execTxreq m ch v s) := by simp [execTxreq, hs]

@[simp] theorem answersSafe_execFifopop {k : Kept} {s : State} (m : RegMaster) (ch : Fin 40) (v : W32) (hs : Safe k (kept s)) :
    AnswersSafe k (execFifopop m ch v s) := by simp [execFifopop, hs]

@[simp] theorem answersSafe_execRingen {k : Kept} {s : State} (m : RegMaster) (v : W64) (hs : Safe k (kept s)) :
    AnswersSafe k (execRingen m v s) := by simp [execRingen, hs]

@[simp] theorem answersSafe_execCpl0 {k : Kept} {s : State} (m : RegMaster) (v : W32) (hs : Safe k (kept s)) :
    AnswersSafe k (execCpl0 m v s) := by simp [execCpl0, hs]

@[simp] theorem answersSafe_execCpl1 {k : Kept} {s : State} (m : RegMaster) (v : W32) (hs : Safe k (kept s)) :
    AnswersSafe k (execCpl1 m v s) := by simp [execCpl1, hs]

@[simp] theorem answersSafe_execSwset {k : Kept} {s : State} (m : RegMaster) (v : W32) (hs : Safe k (kept s)) :
    AnswersSafe k (execSwset m v s) := by simp [execSwset, hs]

@[simp] theorem answersSafe_execDbgdata {k : Kept} {s : State} (m : RegMaster) (v : Option W64) (hs : Safe k (kept s)) :
    AnswersSafe k (execDbgdata m v s) := by
  unfold execDbgdata
  split
  · obtain ⟨t, ht, hk⟩ := answers_readRow m (regAddr bSEC 0x190) 8 s
    exact ⟨t, ht, hk ▸ hs⟩
  · exact ⟨_, rfl, safe_busWrite _ _ _ _ hs⟩

@[simp] theorem answersSafe_execRegisterWrite {k : Kept} {s : State} (m : RegMaster) (addr : BitVec 24) (size : Nat) (v : W64) (hs :
    Safe k (kept s)) : AnswersSafe k (execRegisterWrite m addr size v s) := by simp [execRegisterWrite, hs]

@[simp] theorem safe_effOf {k : Kept} {s : State} (d : HostDesc) (hs : Safe k (kept s)) : Safe k (kept (effOf d s)) := by
  unfold effOf
  split <;> simp [hs]

@[simp] theorem safe_slotWork {k : Kept} {s : State} (hs : Safe k (kept s)) : Safe k (kept (slotWork s)) := by
  unfold slotWork
  dsimp only
  rw [kept_foldl _ (fun t n => kept_deltaGo n t), kept_foldl _ (fun t r => kept_copyTry _ _ _ _ kept_copyEnd), kept_mk,
    kept_fold]
  exact safe_foldl (fun _ d h => safe_effOf d h) hs

@[simp] theorem safe_effBuf {k : Kept} {s : State} (d : HostDesc) (hs : Safe k (kept s)) : Safe k (kept (effBuf d s)) := by
  simp [effBuf, hs]

@[simp] theorem safe_checkDesc {k : Kept} {s : State} (d : HostDesc) (hs : Safe k (kept s)) :
    Safe k (kept (checkDesc d s)) := by
  unfold checkDesc
  split
  · exact safe_runDesc (fun d _ h => safe_effBuf d h) d hs
  · simpa using hs

@[simp] theorem safe_pumpRing {k : Kept} {s : State} (n r : Nat) (hs : Safe k (kept s)) : Safe k (kept (pumpRing n r s)) := by
  induction n generalizing s with
  | zero => exact hs
  | succ n ih =>
    unfold pumpRing
    split
    · exact hs
    · split
      · exact ih (safe_checkDesc _ (by rwa [kept_ringPut]))
      · exact hs

@[simp] theorem safe_pump {k : Kept} {s : State} (hs : Safe k (kept s)) : Safe k (kept (pump s)) := by
  unfold pump
  split
  · exact safe_foldl (fun _ r h => safe_pumpRing _ r h) hs
  · exact hs

@[simp] theorem safe_takeDescs {k : Kept} {s : State} (r : Fin 64) (ds : List HostDesc) (hs : Safe k (kept s)) :
    Safe k (kept (takeDescs r ds s)) := by simp [takeDescs, hs]

@[simp] theorem safe_takeBuffer {k : Kept} {s : State} (d : HostDesc) (hs : Safe k (kept s)) :
    Safe k (kept (takeBuffer d s)) := by
  unfold takeBuffer
  split <;> simp [hs]

@[simp] theorem safe_takeRead {k : Kept} {s : State} (w : HostRead) (hs : Safe k (kept s)) : Safe k (kept (takeRead w s)) := by
  unfold takeRead
  split <;> simp [hs]

@[simp] theorem answersSafe_execHostReadCompletion {k : Kept} {s : State} (w : HostRead) (hs : Safe k (kept s)) :
    AnswersSafe k (execHostReadCompletion w s) := by simp [execHostReadCompletion, hs, ↓kept_mk, ↓kept_fold]

@[simp] theorem safe_slotStart {k : Kept} {s : State} (n : W64) (hs : Safe k (kept s)) : Safe k (kept (slotStart n s)) := by
  unfold slotStart
  generalize h1 : clearSlotN _ = s1
  have h1 : Safe k (kept s1) := h1 ▸ (by simpa [↓kept_mk, ↓kept_fold] using hs)
  dsimp only
  split
  · exact safe_slotWork h1
  · refine safe_pump (safe_slotWork (safe_foldl (fun _ w h => safe_takeRead w h) ?_))
    rw [kept_mk, kept_fold]
    split <;> simpa using h1

@[simp] theorem answersSafe_execHostSlotStart {k : Kept} {s : State} (hs : Safe k (kept s)) : AnswersSafe k (execHostSlotStart s) := by
  simp [execHostSlotStart, hs]

@[simp] theorem answersSafe_execBootHostSlot {k : Kept} {s : State} (hs : Safe k (kept s)) : AnswersSafe k (execBootHostSlot s) := by
  simp [execBootHostSlot, hs]

@[simp] theorem safe_signedDone {k : Kept} {s : State} (d : HostDesc) (hs : Safe k (kept s)) :
    Safe k (kept (signedDone d s)) := by
  unfold signedDone
  split <;> simp [hs]

@[simp] theorem answersSafe_execSignatureVerification {k : Kept} {s : State} (hs : Safe k (kept s)) :
    AnswersSafe k (execSignatureVerification s) := by
  refine (answersSafe_next ..).mpr ?_
  split
  · exact hs
  · dsimp only
    split
    · rw [kept_blobDone]; exact hs
    · exact safe_signedDone _ hs

/-- An instruction answers, and what it does to the time's rate and the memories is safe. -/
def SafeInsn (f : Insn) : Prop := ∀ k s, Safe k (kept s) → AnswersSafe k (f s)
theorem Steady.safe {f : Insn} (h : Steady f) : SafeInsn f := fun k s hs => by
  obtain ⟨t, ht, hk⟩ := h s
  exact ⟨t, ht, safe_eq hk hs⟩
theorem safeInsn_runMem (x : Ctl) (v : Nat) : SafeInsn (runMem x v) := by
  unfold runMem
  split
  case h_2 => exact fun k s hs => answersSafe_execSt _ _ _ _ _ hs
  case h_9 => exact fun k s hs => answersSafe_execCall _ _ hs
  case h_12 => exact fun k s hs => answersSafe_execCallr _ _ hs
  case h_13 => exact fun k s hs => answersSafe_execPush _ _ hs
  all_goals exact Steady.safe fun s => by simp

theorem safeInsn_runWord (c : Core) (v : Nat) : SafeInsn (runWord c v) := by
  unfold runWord
  dsimp only
  (repeat' split)
  · exact Steady.safe fun s => answers_illegal _ s
  · exact Steady.safe (steady_runControl _ _)
  · exact Steady.safe (steady_runInt _ _)
  · exact Steady.safe (steady_runFloat _ _)
  · exact safeInsn_runMem _ _

theorem safe_outState {k : Kept} {f : Insn} {s : State} (hf : SafeInsn f) (hs : Safe k (kept s)) :
    Safe k (kept (outState (f s) s)) := by
  obtain ⟨t, ht, hk⟩ := hf k s hs
  rwa [ht]

@[simp] theorem safe_cellTick {k : Kept} {s : State} (e : Fin 8) (hs : Safe k (kept s)) : Safe k (kept (cellTick s e)) := by
  unfold cellTick
  dsimp only
  (repeat' split)
  · simpa using hs
  · simpa using hs
  · simpa using hs
  · exact safe_outState (safeInsn_runWord _ _) hs

@[simp] theorem safe_mc1Issue {k : Kept} {s : State} (hs : Safe k (kept s)) : Safe k (kept (mc1Issue s)) := by
  unfold mc1Issue
  split
  · simpa using hs
  next v u hu =>
    have hk : Safe k (kept u) := safe_eq (loadKept_mc1Word s _ hu) hs
    split
    · simpa using hk
    · exact safe_outState (safeInsn_runWord _ _) hk

@[simp] theorem safe_mc1Tick {k : Kept} {s : State} (hs : Safe k (kept s)) : Safe k (kept (mc1Tick s)) := by
  unfold mc1Tick
  have hb := safe_entryBegin hs
  (repeat' split)
  · exact hs
  · simpa using hs
  · simpa using hs
  · exact hs
  · dsimp only
    split
    · simpa using hb
    · exact hb
  · exact hs
  · exact safe_mc1Issue hs

@[simp] theorem safe_tick {k : Kept} {s : State} (hs : Safe k (kept s)) : Safe k (kept (tick s)) := by
  unfold tick
  have h1 : Safe k (kept ([0, 1, 2, 3, 4, 5, 6, 7].foldl cellTick (mc1Tick s))) := safe_foldl (fun _ e h => safe_cellTick e h)
    (safe_mc1Tick hs)
  split
  · exact hs
  · dsimp only
    rw [kept_startExchange, kept_wiresTick, kept_pulseEnds, kept_measure]
    generalize [0, 1, 2, 3, 4, 5, 6, 7].foldl cellTick (mc1Tick s) = s1 at h1
    rw [kept_mk]
    show Safe k (kept (if (drives s1 && !frozenM s1 14) = true then (List.range 16).foldl axTick s1 else s1))
    split
    · rw [kept_foldl _ kept_axTick]; exact h1
    · exact h1

/-! ### Every step -/

theorem Answers.safe {k : Kept} {s : State} {o : Host.Outcome State Fault Refusal} (h : Answers s o) (hs : Safe k (kept s)) :
    AnswersSafe k o := by
  obtain ⟨t, ht, hk⟩ := h
  exact ⟨t, ht, safe_eq hk hs⟩

/-- The commands that write TIME.RATE, the MRAM or the DRAM by name; every other one leaves them alone. -/
theorem answersSafe_exec {k : Kept} {s : State} (i : Instr) (hs : Safe k (kept s)) : AnswersSafe k (exec i s) := by
  cases i
  case axisSlot => exact answersSafe_execAxisSlot hs
  case receiveSlot => exact answersSafe_execReceiveSlot _ hs
  case transmitSlot => exact answersSafe_execTransmitSlot _ hs
  case longSlot => exact answersSafe_execLongSlot _ hs
  case iterationCommit => exact answersSafe_execIterationCommit _ hs
  case resultWrite => exact answersSafe_execResultWrite _ hs
  case pubSlot => exact answersSafe_execPubSlot _ hs
  case newImageActive => exact answersSafe_execNewImageActive hs
  case imageCheckComplete => exact answersSafe_execImageCheckComplete hs
  case hostSlotStart => exact answersSafe_execHostSlotStart hs
  case lanternWrite => exact answersSafe_execLanternWrite hs
  case totaliserSave => exact answersSafe_execTotaliserSave _ hs
  case interruptEntry => exact answersSafe_execInterruptEntry _ hs
  case panelPhase => exact answersSafe_execPanelPhase hs
  case pumpTimeout => exact answersSafe_execPumpTimeout hs
  case powerFailure => exact answersSafe_execPowerFailure hs
  case por => exact answersSafe_execPor _ hs
  case pd0Cold => exact answersSafe_execPd0Cold hs
  case sysrst => exact answersSafe_execSysrst hs
  case watchdogExpiry => exact answersSafe_execWatchdogExpiry hs
  case pllLockLoss => exact answersSafe_execPllLockLoss _ hs
  case stageMemory => exact answersSafe_execStageMemory _ _ _ _ hs
  case stageImage => exact answersSafe_execStageImage _ _ hs
  case bootHostSlot => exact answersSafe_execBootHostSlot hs
  case pairRejoinReset => exact answersSafe_execPairRejoinReset hs
  case tagWrite => exact answersSafe_execTagWrite _ hs
  case pnlUpdate => exact answersSafe_execPnlUpdate _ hs
  case pnlConfig => exact answersSafe_execPnlConfig _ hs
  case pnlClear => exact answersSafe_execPnlClear _ hs
  case enWrite => exact answersSafe_execEnWrite _ _ _ hs
  case schedUnfrz => exact answersSafe_execSchedUnfrz _ _ hs
  case rstreq => exact answersSafe_execRstreq _ _ hs
  case rate => exact answersSafe_execRate _ _ hs
  case step => exact answersSafe_execStep _ _ hs
  case snap => exact answersSafe_execSnap _ hs
  case commitRequest => exact answersSafe_execCommitRequest _ hs
  case txcan => exact answersSafe_execTxcan _ _ _ hs
  case txreq => exact answersSafe_execTxreq _ _ _ hs
  case fifopop => exact answersSafe_execFifopop _ _ _ hs
  case ringen => exact answersSafe_execRingen _ _ hs
  case cpl0 => exact answersSafe_execCpl0 _ _ hs
  case cpl1 => exact answersSafe_execCpl1 _ _ hs
  case swset => exact answersSafe_execSwset _ _ hs
  case dbgdata => exact answersSafe_execDbgdata _ _ hs
  case registerWrite => exact answersSafe_execRegisterWrite _ _ _ _ hs
  case st => exact answersSafe_execSt _ _ _ _ _ hs
  case call => exact answersSafe_execCall _ _ hs
  case callr => exact answersSafe_execCallr _ _ hs
  case push => exact answersSafe_execPush _ _ hs
  case hostReadCompletion => exact answersSafe_execHostReadCompletion _ hs
  case signatureVerification => exact answersSafe_execSignatureVerification hs
  all_goals exact Answers.safe (by simp [exec]) hs

theorem safe_step {s t : State} (h : step s = .next t) : Safe (kept s) (kept t) := by
  unfold step at h
  split at h
  next c r _ =>
    obtain ⟨u, hu, hk⟩ := answersSafe_exec (k := kept s) (s := { s with pending := r }) c (safe_refl _)
    rw [hu] at h
    exact Host.Outcome.next.inj h ▸ hk
  next => exact Host.Outcome.next.inj h ▸ safe_tick (safe_refl _)

/-- Settles O58: no step but an accepted RATE write and a reset changes RATE, and both keep it in range. -/
theorem everyStepKeepsTheRateInRange : Obligations.EveryStepKeepsTheRateInRange := by
  intro s t hlo hhi hstep
  obtain ⟨hrate, -, -⟩ := safe_step hstep
  exact hrate ⟨hlo, hhi⟩

/-- Settles O59: the memories change by writes of consecutive bytes and by a reset alone, and both keep the canonical form. -/
theorem everyStepKeepsMemoryCanonical : Obligations.EveryStepKeepsMemoryCanonical := by
  intro s t hm hd hstep
  obtain ⟨-, hmram, hdram⟩ := safe_step hstep
  exact ⟨hmram hm, hdram hd⟩

/-! ### The step and the state after reset -/

/-- Settles O1, by the definition of a step. -/
theorem stepRunsTheFrontCommand : Obligations.StepRunsTheFrontCommand := by
  intro c s r h
  rw [step, h]

theorem enOf_reset (b : Nat) : enOf State.reset b = decide (b = bSYS ∨ b = bRTC ∨ b = bPWR ∨ b = bSEC) := by
  have h : enOf State.reset b = (blkReset b).en := rfl
  rw [h, Bool.eq_iff_iff]
  simp [blkReset, or_assoc]

theorem cntOf_reset (b n : Nat) : cntOf State.reset b n = 0 := rfl

theorem domGet_reset (d : Nat) : domGet State.reset d = domReset d := rfl

/-- Settles O60: every field has its reset value, and no block, domain or memory is listed. -/
theorem resetMeetsTheInvariants : Obligations.ResetMeetsTheInvariants :=
  ⟨rfl, rfl, rfl, rfl, rfl, rfl, rfl, rfl, rfl, rfl, rfl, enOf_reset, cntOf_reset, fun d => by rw [domGet_reset]; rfl⟩

end Sys2Proof.Proofs
end

section
/-! PROOFS. The time base as MC0 writes it (R351, R352), and its step and its read as descriptors (R349, R369). -/

namespace Sys2Proof.Proofs

open Sys2Proof.Machine Sys2Proof.Laws

/-! ### Network time before a change of its values (R350) -/

/-- The values of network time alone: OFFSET, ANCHOR, RATE and the count of steps. -/
def timeValues (t : TimeRegs) : W128 × W64 × W64 × W16 := (t.offset, t.anchor, t.rate, t.steps)

theorem timeAt_congr {t u : TimeRegs} (h : timeValues t = timeValues u) (c : Nat) : timeAt t c = timeAt u c := by
  simp only [timeValues, Prod.mk.injEq] at h
  obtain ⟨ho, ha, hr, -⟩ := h
  rw [timeAt, timeAt, ho, ha, hr]

/-- A change that keeps the values in force before it leaves the time of the last 65,536 cycles as it was. -/
theorem timeIn_keepTime {t u : TimeRegs} (hu : u.past = (keepTime t).past) {c : W64} (hc : c.toNat < t.tbc.toNat)
    (hrecent : t.tbc.toNat ≤ c.toNat + 65536) : timeValues (timeIn u c) = timeValues (timeIn t c) := by
  have hfind : (t.past.filter fun p => decide (t.tbc.toNat < p.until_.toNat + 65536)).find?
      (fun p => decide (c.toNat < p.until_.toNat)) = t.past.find? fun p => decide (c.toNat < p.until_.toNat) := by
    rw [List.find?_filter]
    congr 1
    funext p
    simp only [decide_eq_true_eq, decide_eq_decide]
    omega
  unfold timeIn
  rw [hu, keepTime, List.find?_append, hfind]
  cases t.past.find? fun p => decide (c.toNat < p.until_.toNat) <;> simp [hc, timeValues]

/-- Timestamps of the last 65,536 cycles and their step counts do not change with it (R350). -/
theorem stamps_keepTime {s t : State} (hp : t.time.past = (keepTime s.time).past) (c : W64)
    (hc : c.toNat < s.time.tbc.toNat) (hrecent : s.time.tbc.toNat ≤ c.toNat + 65536) (f : BitVec 3) :
    stampOf t c f = stampOf s c f ∧ stepsAt t c = stepsAt s c := by
  have h := timeIn_keepTime hp hc hrecent
  refine ⟨?_, ?_⟩
  · rw [stampOf, stampOf, timeAt_congr h]
  · simp only [timeValues, Prod.mk.injEq] at h
    exact h.2.2.2

theorem timeAt_anchor (t : TimeRegs) : timeAt t t.anchor.toNat = t.offset := by
  simp [timeAt]

/-! ### Writes of TIME.RATE and TIME.STEP (R351, R352) -/

theorem regOf_time {s : State} {m : RegMaster} (hm : Reachable m s) {o : Nat} (hlo : 0x140 ≤ o) (hhi : o < 0x10000)
    (h4 : o % 4 = 0) :
    regOf s m (regAddr bTIME o) = (timeRegs s o).find? fun e => decide (e.off ≤ o) && decide (o < e.off + 4 * e.words) := by
  have hoff : regOff s bTIME o = false := by
    rw [regOff, if_neg (fun h => absurd h.1 (by decide)), blkOff_time]
  exact (regOf_reachable (.inl hm) (by decide) hhi h4).trans (regAt_own hlo hoff)

theorem regOf_rate {s : State} {m : RegMaster} (hm : Reachable m s) :
    regOf s m (regAddr bTIME 0x158) = some (r64 0x158 s.time.rate.toNat) ∧
    regOf s m (regAddr bTIME (0x158 + 4)) = some (r64 0x158 s.time.rate.toNat) := by
  rw [regOf_time hm (by decide) (by decide) (by decide), regOf_time hm (by decide) (by decide) (by decide)]
  exact ⟨rfl, rfl⟩

theorem regOf_step {s : State} {m : RegMaster} (hm : Reachable m s) {i : Nat} (hi : i < 4) :
    regOf s m (regAddr bTIME (0x180 + 4 * i)) = some (r128 0x180 0) := by
  rw [regOf_time hm (by omega) (by omega) (by omega)]
  interval_cases i <;> rfl

/-- What a write of a whole value leaves staged differs in the staging alone. -/
theorem busWrite_rate {m : RegMaster} {s : State} (hm : Reachable m s) (v : W64) :
    ∃ w, execRate m v s = .next (rateOp m v { s with staged := w }) := by
  have hlow := (regOf_rate hm).1
  have hhigh := (regOf_rate (s := stageLow m bTIME 0x158 v s) (reachable_stageWord hm)).2
  have happly : ∀ u, regApply dbgWrite m bTIME 0x158 (0x158 + 4) v.toNat u = rateOp m v u := fun u => by
    rw [show regApply dbgWrite m bTIME 0x158 (0x158 + 4) v.toNat u = rateOp m (BitVec.ofNat 64 v.toNat) u from rfl,
      BitVec.ofNat_toNat, BitVec.setWidth_eq]
  unfold execRate writeRow
  rw [busWrite_double (by decide) (by decide) hlow hhigh, happly]
  split_ifs <;> exact ⟨_, rfl⟩

/-- Words 0 to 2 of a value of 128 bits, staged for the writer. -/
def stageLow3 (m : RegMaster) (a : Nat) (v : W128) (s : State) : State :=
  stageWord m a 2 (BitVec.ofNat 32 (v.toNat / 2 ^ 64)) (stageWord m a 1 (BitVec.ofNat 32 (v.toNat / 2 ^ 32))
    (stageWord m a 0 (BitVec.ofNat 32 v.toNat) s))

theorem find?_stageWord {m : RegMaster} {a i j : Nat} {v : W32} {s : State} :
    (wideGet (stageWord m a i v s).staged m a).find? (fun kv => kv.1 == j) =
      if j = i then some (i, v) else (wideGet s.staged m a).find? fun kv => kv.1 == j := by
  simp only [stageWord, wideGet_widePut_same, List.find?_append]
  split_ifs with h
  · subst h
    have hrest := find?_filter_not_self (fun kv : Nat × W32 => kv.1 == j) (wideGet s.staged m a)
    exact congrArg (fun x => Option.or x _) hrest |>.trans (by simp)
  · have hne : (i == j) = false := beq_eq_false_iff_ne.mpr (Ne.symm h)
    rw [List.find?_filter]
    simp only [List.find?_cons, List.find?_nil, hne, Option.or_none]
    congr 1
    funext kv
    by_cases hk : kv.1 = j <;> simp [hk, h]

/-- Four words of 32 bits make the value. -/
theorem four_words {n : Nat} (h : n < 2 ^ 128) : n % 2 ^ 32 + (n / 2 ^ 32 % 2 ^ 32 * 2 ^ 32 +
    n / 2 ^ 64 % 2 ^ 32 * 2 ^ 64) + n / 2 ^ 96 % 2 ^ 32 * 2 ^ 96 = n := by
  norm_num at *
  omega

theorem sum_words {v : W128} {f : Nat → Nat} (h0 : f 0 = v.toNat % 2 ^ 32) (h1 : f 1 = v.toNat / 2 ^ 32 % 2 ^ 32)
    (h2 : f 2 = v.toNat / 2 ^ 64 % 2 ^ 32) :
    ((List.range 3).map fun j => f j * 2 ^ (32 * j)).sum + (BitVec.ofNat 32 (v.toNat / 2 ^ 96)).toNat * 2 ^ (32 * 3) = v.toNat := by
  have hsum (g : Nat → Nat) : ((List.range 3).map fun j => f j * g j).sum = f 0 * g 0 + (f 1 * g 1 + f 2 * g 2) := by
    simp [List.range_succ]
  rw [hsum, Nat.mul_zero, pow_zero, Nat.mul_one, Nat.mul_one, BitVec.toNat_ofNat, h0, h1, h2]
  exact four_words v.isLt

/-- A write of the highest word of a value of 128 bits applies it with the staged ones. -/
theorem writeReg_quad_staged (dbg : W64 → State → State) (m : RegMaster) (b o val : Nat) (v : W128) (s : State) :
    let u := stageLow3 m (regAddr b o) v s
    writeReg dbg m b (o + 12) (r128 o val) (BitVec.ofNat 32 (v.toNat / 2 ^ 96)) u =
      regApply dbg m b o (o + 12) v.toNat (if wideBarred u m b o v.toNat then u else dropStaging m (regAddr b o) u) := by
  intro u
  have hfind (j : Nat) : (wideGet u.staged m (regAddr b o)).find? (fun kv => kv.1 == j) =
      if j = 2 then some (2, BitVec.ofNat 32 (v.toNat / 2 ^ 64)) else if j = 1 then some (1, BitVec.ofNat 32 (v.toNat / 2 ^ 32))
      else if j = 0 then some (0, BitVec.ofNat 32 v.toNat) else (wideGet s.staged m (regAddr b o)).find? fun kv => kv.1 == j := by
    simp only [u, stageLow3, find?_stageWord]
  have hidx : (o + 12 - (r128 o val).off) / 4 = 3 := by
    have : (r128 o val).off = o := rfl
    omega
  have hwords : (r128 o val).words = 4 := rfl
  unfold writeReg
  rw [if_neg (by rw [hwords]; decide), hidx, if_neg (by rw [hwords]; decide)]
  dsimp only
  rw [sum_words]
  · rfl
  all_goals
    show (match (wideGet u.staged m (regAddr b o)).find? _ with | some kv => _ | none => _) = _
    rw [hfind]
    rfl

theorem writeWord_below_top {m : RegMaster} {b o i : Nat} {e : RegE} {s : State} (ho : o + 4 * i < 65536)
    (hr : regOf s m (regAddr b (o + 4 * i)) = some e) (he : e.off = o) (hi : i + 1 < e.words) (v : W32) :
    writeWord dbgWrite m (regAddr b (o + 4 * i)) v s = stageWord m (regAddr b o) i v s := by
  obtain ⟨hdiv, hmod⟩ : regAddr b (o + 4 * i) / 65536 = b ∧ regAddr b (o + 4 * i) % 65536 = o + 4 * i := by
    unfold regAddr; omega
  subst he
  unfold writeWord
  rw [hr, hdiv, hmod]
  exact writeReg_below_top dbgWrite m b hi v s

theorem busWrite_two_words {m : RegMaster} {b o : Nat} (h8 : o % 8 = 0) (v : W64) (s : State) :
    busWrite m (regAddr b o) 8 v s = writeWord dbgWrite m (regAddr b (o + 4)) (BitVec.ofNat 32 (v.toNat / 2 ^ 32))
      (writeWord dbgWrite m (regAddr b o) (BitVec.ofNat 32 v.toNat) s) := by
  have hal : regAddr b o % 8 = 0 := by unfold regAddr; omega
  unfold busWrite busWriteWith
  rw [if_neg (by decide), if_pos ⟨rfl, hal⟩, show regAddr b o + 4 = regAddr b (o + 4) from Nat.add_assoc ..]

theorem ofNat_word_low (n : Nat) : BitVec.ofNat 32 (BitVec.ofNat 64 n).toNat = BitVec.ofNat 32 n := by
  apply BitVec.eq_of_toNat_eq
  simp only [BitVec.toNat_ofNat]
  omega

theorem ofNat_word_high (n : Nat) : BitVec.ofNat 32 ((BitVec.ofNat 64 n).toNat / 2 ^ 32) = BitVec.ofNat 32 (n / 2 ^ 32) := by
  apply BitVec.eq_of_toNat_eq
  simp only [BitVec.toNat_ofNat]
  omega

/-- The four words of STEP, from the lowest, give it the whole value. -/
theorem busWrite_step {m : RegMaster} {s : State} (hm : Reachable m s) (v : W128) :
    ∃ w, execStep m v s = .next (stepOp m v { s with staged := w }) := by
  have hword (u : State) (hu : Reachable m u) {i : Nat} (hi : i < 3) (x : W32) :
      writeWord dbgWrite m (regAddr bTIME (0x180 + 4 * i)) x u = stageWord m (regAddr bTIME 0x180) i x u :=
    writeWord_below_top (by omega) (regOf_step hu (by omega)) rfl (Nat.succ_lt_succ hi) x
  have hfirst : busWrite m (regAddr bTIME 0x180) 8 (BitVec.ofNat 64 v.toNat) s =
      stageWord m (regAddr bTIME 0x180) 1 (BitVec.ofNat 32 (v.toNat / 2 ^ 32))
        (stageWord m (regAddr bTIME 0x180) 0 (BitVec.ofNat 32 v.toNat) s) := by
    rw [busWrite_two_words (by decide), ofNat_word_low, ofNat_word_high]
    exact (congrArg _ (hword s hm (i := 0) (by decide) _)).trans (hword _ (reachable_stageWord hm) (i := 1) (by decide) _)
  have hthird := hword (stageWord m (regAddr bTIME 0x180) 1 (BitVec.ofNat 32 (v.toNat / 2 ^ 32))
    (stageWord m (regAddr bTIME 0x180) 0 (BitVec.ofNat 32 v.toNat) s)) (reachable_stageWord (reachable_stageWord hm))
    (i := 2) (by decide) (BitVec.ofNat 32 (v.toNat / 2 ^ 64))
  have hlast : writeWord dbgWrite m (regAddr bTIME (0x188 + 4)) (BitVec.ofNat 32 (v.toNat / 2 ^ 64 / 2 ^ 32))
      (stageLow3 m (regAddr bTIME 0x180) v s) = regApply dbgWrite m bTIME 0x180 (0x180 + 12) v.toNat
        (if wideBarred (stageLow3 m (regAddr bTIME 0x180) v s) m bTIME 0x180 v.toNat
          then stageLow3 m (regAddr bTIME 0x180) v s
          else dropStaging m (regAddr bTIME 0x180) (stageLow3 m (regAddr bTIME 0x180) v s)) := by
    have hr := regOf_step (s := stageLow3 m (regAddr bTIME 0x180) v s) (m := m) hm (i := 3) (by decide)
    rw [Nat.div_div_eq_div_mul, ← Nat.pow_add]
    unfold writeWord
    rw [show regAddr bTIME (0x188 + 4) = regAddr bTIME (0x180 + 4 * 3) from rfl, hr]
    exact writeReg_quad_staged dbgWrite m bTIME 0x180 0 v s
  have happly : ∀ u, regApply dbgWrite m bTIME 0x180 (0x180 + 12) v.toNat u = stepOp m v u := fun u => by
    rw [show regApply dbgWrite m bTIME 0x180 (0x180 + 12) v.toNat u = stepOp m (BitVec.ofNat 128 v.toNat) u from rfl,
      BitVec.ofNat_toNat, BitVec.setWidth_eq]
  unfold execStep writeRow
  rw [hfirst, busWrite_two_words (by decide), ofNat_word_low, ofNat_word_high]
  rw [show regAddr bTIME 0x188 = regAddr bTIME (0x180 + 4 * 2) from rfl, hthird]
  rw [show stageWord m (regAddr bTIME 0x180) 2 (BitVec.ofNat 32 (v.toNat / 2 ^ 64)) _ = stageLow3 m (regAddr bTIME 0x180) v s
    from rfl, hlast, happly]
  split_ifs <;> exact ⟨_, rfl⟩

/-! ### The clauses of O20 -/

theorem rateOk_iff {v : W64} : rateOk v = true ↔ -140737488355 ≤ v.toInt ∧ v.toInt ≤ 140737488355 := by
  rw [rateOk, Bool.and_eq_true, decide_eq_true_iff, decide_eq_true_iff]
  rfl

theorem gives_rate {m : RegMaster} {v : W64} {s : State} {P : State → Prop} (hm : Reachable m s)
    (h : ∀ w, P (rateOp m v { s with staged := w })) : Gives (.rate m v) s P := by
  obtain ⟨w, hw⟩ := busWrite_rate hm v
  exact ⟨_, hw, h w⟩

theorem gives_step {m : RegMaster} {v : W128} {s : State} {P : State → Prop} (hm : Reachable m s)
    (h : ∀ w, P (stepOp m v { s with staged := w })) : Gives (.step m v) s P := by
  obtain ⟨w, hw⟩ := busWrite_step hm v
  exact ⟨_, hw, h w⟩

theorem reachable_mc0 (s : State) : Reachable .mc0 s := fun _ h => nomatch h

/-- The time base after a RATE write that takes effect: the slope starts at the network time of this cycle. -/
theorem timeAt_applyRate (v : W64) (s : State) (k : Nat) :
    timeAt { keepTime s.time with offset := nowT s, anchor := s.time.tbc, rate := v } (s.time.tbc.toNat + k) =
      nowT s + BitVec.ofInt 128 ((k : Int) * (2 ^ 48 + v.toInt) / 2 ^ 32) := by
  simp [timeAt]

/-- Settles O20: an accepted value becomes the slope from this cycle's network time on, and the values before it are kept
for the timestamps of earlier cycles. -/
theorem rateChangesSlopeWithoutAJump : Obligations.RateChangesSlopeWithoutAJump := by
  refine ⟨fun v s hlo hhi => gives_rate (reachable_mc0 s) fun w => ?_, fun v s hout => gives_rate (reachable_mc0 s) fun w => ?_,
    fun m v x s hne hm => ⟨gives_rate hm fun w => ?_, gives_step hm fun w => ?_⟩⟩
  · have happly : rateOp .mc0 v { s with staged := w } =
        { s with staged := w, time := { keepTime s.time with offset := nowT s, anchor := s.time.tbc, rate := v } } :=
      if_pos (rateOk_iff.mpr ⟨hlo, hhi⟩)
    rw [happly]
    exact ⟨rfl, fun c hc hrecent f => stamps_keepTime rfl c hc hrecent f, timeAt_anchor _, timeAt_applyRate v s, rfl⟩
  · have happly : rateOp .mc0 v { s with staged := w } = count bTIME 0 { s with staged := w } :=
      if_neg (mt rateOk_iff.mp hout)
    rw [happly]
    rfl
  · rw [rateOp, if_neg hne]
  · rw [stepOp, if_neg hne]

/-! ### The clauses of O21 -/

/-- Network time follows OFFSET. -/
theorem timeAt_offset_add (t : TimeRegs) (d : W128) (c : Nat) : timeAt { t with offset := t.offset + d } c = timeAt t c + d := by
  simp only [timeAt]
  ac_rfl

theorem b2n_le (c : Bool) : b2n c ≤ 1 := by
  cases c <;> decide

theorem commonBits_le (s : State) (b : Nat) (busy : Bool) : commonBits s b busy ≤ 15 := by
  have h1 := b2n_le ((!enOf s b || blkFrozen s b) && !(busy && !blkFrozen s b))
  have h2 := b2n_le (!enOf s b && (busy && !blkFrozen s b))
  have h3 := b2n_le (blkFrozen s b)
  have h4 := b2n_le (blkGet s b).cntSat
  unfold commonBits
  dsimp only
  omega

/-- The STATUS that TIME shows is the one of its record (Tables 1-12, 12-1). -/
theorem blkStatus_time (s : State) : blkStatus s bTIME = timeStatus s := by
  have hc := commonBits_le s bTIME false
  have hl := b2n_le s.time.lock
  have ha := b2n_le s.time.armed
  have hs := s.time.steps.isLt
  have hown : ownStatus s bTIME = (timeStatus s).toNat / 16 * 16 := rfl
  have hbusy : blkBusy s bTIME = false := rfl
  apply BitVec.eq_of_toNat_eq
  rw [blkStatus, blkOff_time, if_neg Bool.false_ne_true, hown, hbusy]
  simp only [timeStatus, BitVec.toNat_ofNat]
  omega

theorem finRtc_ok (d : HostDesc) (data : Nat) (s : State) : finRtc d stOK data s = complete d stOK data s := rfl

theorem complete_time (d : HostDesc) (st data : Nat) (s : State) : (complete d st data s).time = s.time :=
  (congrArg State.time (complete_frame d st data s) :)

theorem entered_time (d : HostDesc) (s : State) : (entered d s).time = s.time :=
  (congrArg State.time (entered_frame d s) :)

theorem entered_recs (d : HostDesc) (s : State) : (entered d s).recs = s.recs ∧ (entered d s).nvm = s.nvm :=
  ⟨(congrArg State.recs (entered_frame d s) :), (congrArg State.nvm (entered_frame d s) :)⟩

/-- The record of TIME_READ is the same when a descriptor has entered. -/
theorem timeRecord_entered (d : HostDesc) (s : State) : timeRecord (entered d s) = timeRecord s := by
  have hblk : (entered d s).blk = s.blk := (congrArg State.blk (entered_frame d s) :)
  have hstatus : timeStatus (entered d s) = timeStatus s := by
    simp only [timeStatus, commonBits, enOf, blkGet, hblk, entered_time]
    rfl
  have hnow : nowT (entered d s) = nowT s := by rw [nowT, nowT, entered_time]
  rw [timeRecord, timeRecord, hstatus, hnow, entered_time]

theorem slotOpen_entered (d : HostDesc) (s : State) : slotOpen (entered d s) = slotOpen s := by
  rw [slotOpen, entered_hif]
  rfl

theorem toHost_out_length (a : W64) (b : Bytes) (s : State) : (toHost a b s).out.length ≤ s.out.length + 1 := by
  unfold toHost
  split_ifs
  · exact Nat.le_refl _
  · exact Nat.le_succ _

theorem toHost_time (a : W64) (b : Bytes) (s : State) : (toHost a b s).time = s.time := by
  unfold toHost
  split_ifs <;> rfl

/-- An audit leaves the records of the journal in it. -/
theorem mem_journal_audit {r : AudRec} {a b c n : Nat} {x : Bytes} {s : State} (h : r ∈ s.recs.journal) :
    r ∈ (audit a b c n x s).recs.journal := by
  unfold audit audPush
  dsimp only
  split_ifs <;> simp [h]

/-- A record of the journal stays when a descriptor completes. -/
theorem inAudit_complete {code : Nat} {s u : State} (h : InAudit code s u) (d : HostDesc) (st data : Nat) :
    InAudit code s (complete d st data u) := by
  intro hroom hlen
  obtain ⟨r, hr, hcode⟩ := h hroom hlen
  obtain ⟨x, heq⟩ := complete_eq d st data u
  refine ⟨r, ?_, hcode⟩
  rw [heq]
  split_ifs
  · rcases auditDesc_cases d u with ha | ⟨a, b, c, n, y, ha⟩ <;> rw [ha]
    · exact hr
    · exact mem_journal_audit hr
  · exact hr

theorem delivered_entered {a : W64} {b : Bytes} {d : HostDesc} {s t : State} (h : Delivered a b (entered d s) t) :
    Delivered a b s t := by
  rwa [Delivered, slotOpen_entered] at h

/-- A Lantern record and an audit record that a completing command makes. -/
theorem recorded {s u : State} (hrecs : u.recs = s.recs) (hnvm : u.nvm = s.nvm) (code sev : Nat) (data : Bytes)
    (acode ctx auth oc : Nat) (adata : Bytes) (d : HostDesc) (st n : Nat) :
    let t := complete d st n (audit acode ctx auth oc adata (lantern code sev data u))
    InLantern code s t ∧ InAudit acode s t := by
  have hfull : audFull u = audFull s := by rw [audFull, audFull, hrecs, hnvm]
  obtain ⟨hjournal, hlog⟩ := lantern_audit code sev data u
  refine ⟨inLantern_lantern (sev := sev) (data := data) hrecs ?_, inAudit_complete (inAudit_audit ?_ ?_) _ _ _⟩
  · rw [complete_queue, audit_queue]
  · rw [hjournal, hrecs]
  · rw [hlog, hfull]

/-- The clause of O21 on TIME_REARM. -/
theorem timeRearm_arms (d : HostDesc) (s : State) :
    let t := effTimeRearm d (entered d s)
    Answered d stOK 0 t ∧ t.time = { s.time with armed := true } ∧ InLantern 0x0D80 s t ∧ InAudit 5 s t := by
  obtain ⟨oc, x, u, heq, hrecs, hnvm, hhif, htime⟩ : ∃ oc x u, effTimeRearm d (entered d s) =
      complete d stOK 0 (audit 0x0005 0xFFFF 2 oc d.bytes (lantern 0x0D80 0 x u)) ∧ u.recs = (entered d s).recs ∧
      u.nvm = (entered d s).nvm ∧ u.hif = (entered d s).hif ∧ u.time = { (entered d s).time with armed := true } :=
    ⟨_, _, _, rfl, rfl, rfl, rfl, rfl⟩
  rw [(entered_recs d s).1] at hrecs
  rw [(entered_recs d s).2] at hnvm
  rw [heq]
  refine ⟨answered_complete _ _ ?_, ?_, recorded hrecs hnvm ..⟩
  · simpa [ringGet, hhif] using mem_entered_started d s
  · rw [complete_time]
    simp [htime, entered_time]

/-- The clause of O21 on TIME_READ. -/
theorem timeRead_delivers (d : HostDesc) (s : State) :
    let t := effTimeRead d (entered d s)
    Answered d stOK 64 t ∧ t.time = s.time ∧ t.out.length ≤ s.out.length + 1 ∧ Delivered (dAddr d) (timeRecord s) s t := by
  have hout : (entered d s).out = s.out := (congrArg State.out (entered_frame d s) :)
  unfold effTimeRead
  rw [finRtc_ok, timeRecord_entered]
  refine ⟨answered_complete _ _ ?_, ?_, ?_, delivered_entered (delivered_complete ..)⟩
  · rw [toHost_started]
    exact mem_entered_started d s
  · rw [complete_time, toHost_time, entered_time]
  · rw [complete_out, ← hout]
    exact toHost_out_length ..

/-- FRAC, NS and SEC fit the 128 bits of TIME.NOW. -/
theorem timeForm_lt (x ns : Nat) : x % 65536 + (ns % 10 ^ 9) * 2 ^ 32 + (ns / 10 ^ 9 % 2 ^ 64) * 2 ^ 64 < 2 ^ 128 := by
  norm_num
  omega

/-- The 64 bytes of TIME_READ as the statement lists them. -/
theorem timeRecord_eq (s : State) :
    let T := (nowT s).toNat
    let ns := T / 2 ^ 16
    let now := T % 2 ^ 16 + (ns % 10 ^ 9) * 2 ^ 32 + (ns / 10 ^ 9 % 2 ^ 64) * 2 ^ 64
    timeRecord s = leBytes 16 now ++ leBytes 8 s.time.tbc.toNat ++ leBytes 16 s.time.offset.toNat ++
      leBytes 8 s.time.anchor.toNat ++ leBytes 8 s.time.rate.toNat ++ leBytes 4 (blkStatus s bTIME).toNat ++
      leBytes 4 s.time.gridErr.toNat := by
  intro T ns now
  have hnow : (timeForm (nowT s)).toNat = now := (BitVec.toNat_ofNat ..).trans (Nat.mod_eq_of_lt (timeForm_lt _ _))
  rw [timeRecord, hnow, blkStatus_time]

/-- Settles O21: an armed step moves OFFSET and keeps the values before it for earlier timestamps; the two descriptors
complete with their record. -/
theorem networkTimeIsReadAndStepped : Obligations.NetworkTimeIsReadAndStepped := by
  refine ⟨⟨fun v s harmed => gives_step (reachable_mc0 s) fun w => ?_, fun v s hno => gives_step (reachable_mc0 s) fun w => ?_,
    fun d s h => ⟨_, congrArg Host.Outcome.next (arrive_reaches effTimeRearm h), timeRearm_arms d s⟩⟩,
    fun d s h => ⟨_, congrArg Host.Outcome.next (arrive_reaches effTimeRead h), ?_⟩⟩
  · have happly : stepOp .mc0 v { s with staged := w } = { s with staged := w, time := { keepTime s.time with
        offset := s.time.offset + v, armed := false, steps := s.time.steps + 1, lock := false } } := if_pos harmed
    rw [happly]
    exact ⟨timeAt_offset_add s.time v _, rfl, fun c hc hrecent f => stamps_keepTime rfl c hc hrecent f, rfl⟩
  · have happly : stepOp .mc0 v { s with staged := w } = count bTIME 1 { s with staged := w } :=
      if_neg (Bool.eq_false_iff.mp hno)
    rw [happly]
    rfl
  · rw [← timeRecord_eq]
    exact timeRead_delivers d s

end Sys2Proof.Proofs
end

section
/-! PROOFS. Triggers: firing and capture. -/

namespace Sys2Proof.Proofs

open Sys2Proof.Machine Sys2Proof.Laws

/-! ### Triggers (R357 to R359) -/

/-- Loading the reference messages of CANL changes neither the time base nor its counters (R358). -/
theorem loadBuf_time (n b : Nat) (f : CanFrame) (s : State) :
    (loadBuf n b f s).time = s.time ∧ ∀ k, cntOf (loadBuf n b f s) bTIME k = cntOf s bTIME k := by
  unfold loadBuf
  dsimp only
  split_ifs
  · exact ⟨rfl, fun k => (counted_count ..).trans (if_neg fun h => absurd h.1 (by decide))⟩
  · exact ⟨rfl, fun _ => rfl⟩
  · exact ⟨rfl, fun _ => rfl⟩

theorem loadRefs_time (n : Nat) (s : State) :
    (loadRefs n s).time = s.time ∧ ∀ k, cntOf (loadRefs n s) bTIME k = cntOf s bTIME k := by
  unfold loadRefs
  refine List.foldlRecOn (motive := fun u => u.time = s.time ∧ ∀ k, cntOf u bTIME k = cntOf s bTIME k) _ _ ⟨rfl, fun _ => rfl⟩
    fun u hu c _ => ?_
  dsimp only
  split_ifs
  · obtain ⟨htime, hcnt⟩ := loadBuf_time c 0 (refFrame (canCfg u c) (chGet u c) 0) u
    exact ⟨htime.trans hu.1, fun k => (hcnt k).trans (hu.2 k)⟩
  · exact hu

/-- A pulse on a time synchronisation output leaves the triggers and the counters. -/
theorem trigPulse_keeps (g : Trig) (s : State) :
    (∀ k, trigGet (trigPulse g s) k = trigGet s k) ∧ ∀ k, cntOf (trigPulse g s) bTIME k = cntOf s bTIME k := by
  unfold trigPulse
  dsimp only
  split_ifs <;> exact ⟨fun _ => rfl, fun _ => rfl⟩

theorem trigGet_countIf (c : Bool) (b n : Nat) (s : State) (k : Nat) : trigGet (countIf c b n s) k = trigGet s k := by
  cases c <;> rfl

/-- What a firing leaves of a trigger (R358). -/
def firedTrig (s : State) (n : Nat) : Trig :=
  let g := trigGet s n
  if g.mode = 1 then { g with mode := 0, fired := true }
  else
    let x := trigNext (nowNs s) g.next g.period
    { g with next := x.1, fired := true, missed := g.missed || x.2 }

/-- Whether a firing skipped others. -/
def firingSkips (s : State) (n : Nat) : Bool :=
  let g := trigGet s n
  g.mode != 1 && (trigNext (nowNs s) g.next g.period).2

/-- A due trigger takes its state after the firing, the others keep theirs, and skipped firings are counted. -/
theorem gives_triggerFire {n : Fin 32} {s : State} (hdue : trigDue s n = true) {P : State → Prop}
    (h : ∀ t, trigGet t n = firedTrig s n → (∀ k, k ≠ n.val → trigGet t k = trigGet s k) →
      (firingSkips s n = true → cntOf t bTIME 2 = satInc (cntOf s bTIME 2)) → P t) : Gives (.triggerFire n) s P := by
  obtain ⟨u, hu, hn, hk, hc⟩ : ∃ u, fireTrig n s = trigPulse (trigGet s n) u ∧ trigGet u n = firedTrig s n ∧
      (∀ k, k ≠ n.val → trigGet u k = trigGet s k) ∧
      (firingSkips s n = true → cntOf u bTIME 2 = satInc (cntOf s bTIME 2)) := by
    unfold fireTrig firedTrig firingSkips
    rw [if_pos hdue]
    dsimp only
    split_ifs with hmode
    · refine ⟨_, rfl, trigGet_trigPut .., fun k hk => trigGet_trigPut_ne _ _ hk, fun hskip => ?_⟩
      simp [hmode] at hskip
    · refine ⟨_, rfl, ?_, fun k hk => ?_, fun hskip => ?_⟩
      · rw [trigGet_countIf, trigGet_trigPut]
      · rw [trigGet_countIf, trigGet_trigPut_ne _ _ hk]
      · simp only [Bool.and_eq_true] at hskip
        rw [countIf, if_pos hskip.2, counted_count, if_pos ⟨rfl, rfl⟩]
        rfl
  obtain ⟨htrig, hcnt⟩ := trigPulse_keeps (trigGet s n) u
  obtain ⟨htime, hcount⟩ := loadRefs_time n (trigPulse (trigGet s n) u)
  have hget (k : Nat) : trigGet (loadRefs n (trigPulse (trigGet s n) u)) k = trigGet u k := by
    rw [← htrig k]
    exact congrArg (fun t : TimeRegs => tblGet t.trig k {}) htime
  refine ⟨_, by rw [exec, execTriggerFire, if_pos hdue, hu], h _ ((hget n).trans hn) (fun k hk' => (hget k).trans (hk k hk'))
    fun hskip => ?_⟩
  rw [hcount, hcnt, hc hskip]

theorem trigDue_of {s : State} {n : Fin 32} (hen : enOf s bTIME = true ∨ n.val < 2)
    (hmode : (trigGet s n).mode = 1 ∨ (trigGet s n).mode = 2) (hreached : (nowNs s - (trigGet s n).next).toNat < 2 ^ 63) :
    trigDue s n = true := by
  simp only [trigDue, reached, Bool.and_eq_true, Bool.or_eq_true, beq_iff_eq, decide_eq_true_eq]
  exact ⟨⟨hmode, hen⟩, hreached⟩

/-- The first whole period after the present (R358): past it by one period at most. -/
theorem firstPeriodAfter {now next : W64} {p : Nat} (h1 : 1 ≤ p) (h2 : p < 2 ^ 62) :
    let k := (now - next).toNat / max 1 p + 1
    2 ^ 63 ≤ (now - (next + BitVec.ofNat 64 (k * p))).toNat ∧ ((next + BitVec.ofNat 64 (k * p)) - now).toNat ≤ p := by
  intro k
  have hk : (now - next).toNat < k * p ∧ k * p ≤ (now - next).toNat + p := by
    have hmax : max 1 p = p := by omega
    have hdiv := Nat.div_add_mod (now - next).toNat p
    have hmod := Nat.mod_lt (now - next).toNat (show 0 < p by omega)
    rw [Nat.succ_mul, hmax, Nat.mul_comm]
    omega
  generalize k * p = q at hk
  have hd := BitVec.toNat_sub now next
  have hnow := now.isLt
  have hnext := next.isLt
  simp only [BitVec.toNat_sub, BitVec.toNat_add, BitVec.toNat_ofNat] at *
  omega

/-- Settles O22: the three outcomes of a due trigger by its mode and NEXT, and the capture's own write. -/
theorem triggersFireAndCapture : Obligations.TriggersFireAndCapture := by
  constructor
  · intro n s g now others hen hreached
    refine ⟨fun hmode => ?_, fun hmode hahead => ?_, fun hmode hbehind h1 h2 => ?_⟩
    · refine gives_triggerFire (trigDue_of hen (.inl hmode) hreached) fun t hn hk _ => ?_
      rw [firedTrig, if_pos hmode] at hn
      rw [hn]
      exact ⟨rfl, rfl, rfl, hk⟩
    · refine gives_triggerFire (trigDue_of hen (.inr hmode) hreached) fun t hn hk _ => ?_
      have hne : ¬ reached now (g.next + g.period) = true := by simpa [reached] using hahead
      have hnext : trigNext now g.next g.period = (g.next + g.period, false) := if_neg hne
      rw [firedTrig, if_neg (by rw [hmode]; decide), hnext] at hn
      rw [hn]
      exact ⟨hmode, rfl, rfl, Bool.or_false _, hk⟩
    · refine gives_triggerFire (trigDue_of hen (.inr hmode) hreached) fun t hn hk hc => ?_
      have hyes : reached now (g.next + g.period) = true := by simpa [reached] using hbehind
      have hnext : trigNext now g.next g.period = (g.next + BitVec.ofNat 64 (g.period.toNat * ((now - g.next).toNat / max 1 g.period.toNat + 1)), true) :=
        if_pos hyes
      have hskip : firingSkips s n = true := by
        show (g.mode != 1 && (trigNext now g.next g.period).2) = true
        rw [hnext, hmode]
        rfl
      rw [firedTrig, if_neg (by rw [hmode]; decide), hnext, Nat.mul_comm] at hn
      rw [hn]
      refine ⟨rfl, Bool.or_true _, hk, hc hskip, _, Nat.le_add_left .., rfl, firstPeriodAfter h1 h2⟩
  · intro n rising s g hmode hedge htbc
    refine ⟨_, rfl, ?_⟩
    dsimp only
    rw [if_pos ⟨hmode, hedge⟩]
    exact ⟨trigGet_trigPut .., fun k hk => trigGet_trigPut_ne _ _ hk⟩

end Sys2Proof.Proofs
end

section
/-! PROOFS. The calendar, the operating time, snapshots and commits. -/

namespace Sys2Proof.Proofs

open Sys2Proof.Machine Sys2Proof.Laws

/-! ### The RTC (R360 to R369) -/

/-- An edge of the RTC counts in its mode (R360, R361). -/
theorem rtcEdge_counts (r : BitVec 55) :
    BitVec.ofNat 55 (r.toNat + 1) = r + 1 ∧ (r.toNat < 2 ^ 48 →
      (BitVec.ofNat 55 ((r.toNat + 1) % 2 ^ 48)).toNat = if r.toNat = 2 ^ 48 - 1 then 0 else r.toNat + 1) := by
  refine ⟨?_, fun h => ?_⟩
  · apply BitVec.eq_of_toNat_eq
    simp [BitVec.toNat_add]
  · rw [BitVec.toNat_ofNat]
    split_ifs <;> omega

/-- One second of the calendar as R362 lists it. -/
def secondLater (c : Cal) : Cal × Bool :=
  let dim : Nat := if c.mon = 4 ∨ c.mon = 6 ∨ c.mon = 9 ∨ c.mon = 11 then 30
    else if c.mon = 2 then (if (c.year.toNat % 4 = 0 ∧ c.year.toNat % 100 ≠ 0) ∨ c.year.toNat % 400 = 0 then 29 else 28) else 31
  let noon : Cal := { c with sec := 0, min := 0, hour := 0, wday := BitVec.ofNat 3 ((c.wday.toNat + 1) % 7) }
  if c.sec.toNat < 59 then ({ c with sec := c.sec + 1 }, false)
  else if c.min.toNat < 59 then ({ c with sec := 0, min := c.min + 1 }, false)
  else if c.hour.toNat < 23 then ({ c with sec := 0, min := 0, hour := c.hour + 1 }, false)
  else if c.day.toNat < dim then ({ noon with day := c.day + 1 }, false)
  else if c.mon ≠ 0 ∧ c.mon.toNat < 12 then ({ noon with day := 1, mon := c.mon + 1 }, false)
  else ({ noon with day := 1, mon := 1, year := if c.year.toNat < 9999 then c.year + 1 else 0 }, decide (9999 ≤ c.year.toNat))

theorem mon_toNat_eq (m : BitVec 4) {k : Nat} (hk : k < 16) : m.toNat = k ↔ m = BitVec.ofNat 4 k := by
  rw [← BitVec.toNat_inj, BitVec.toNat_ofNat, Nat.mod_eq_of_lt hk]

/-- The months' lengths are those of R362. -/
theorem dim_eq (c : Cal) : dim c.mon.toNat c.year.toNat =
    if c.mon = 4 ∨ c.mon = 6 ∨ c.mon = 9 ∨ c.mon = 11 then 30
    else if c.mon = 2 then (if (c.year.toNat % 4 = 0 ∧ c.year.toNat % 100 ≠ 0) ∨ c.year.toNat % 400 = 0 then 29 else 28) else 31 := by
  have hleap : leap c.year.toNat = true ↔ (c.year.toNat % 4 = 0 ∧ c.year.toNat % 100 ≠ 0) ∨ c.year.toNat % 400 = 0 := by
    simp [leap]
  unfold dim
  simp only [mon_toNat_eq c.mon (k := 4) (by decide), mon_toNat_eq c.mon (k := 6) (by decide), mon_toNat_eq c.mon (k := 9) (by decide),
    mon_toNat_eq c.mon (k := 11) (by decide), mon_toNat_eq c.mon (k := 2) (by decide), hleap]
  rfl

theorem calNext_eq (c : Cal) : calNext c = secondLater c := by
  unfold calNext secondLater
  simp only [dim_eq, and_comm (a := c.mon.toNat < 12)]
  by_cases hy : c.year.toNat < 9999
  · simp only [if_pos hy, decide_eq_false (Nat.not_le.mpr hy)]
  · simp only [if_neg hy, decide_eq_true (Nat.not_lt.mp hy)]

/-- The clause of O23 on the operating time (R449). -/
theorem optNext_eq (o : BitVec 36) :
    (o.toNat / 2 ^ 24 < 3599 → (optNext o).toNat = (o.toNat / 2 ^ 24 + 1) * 2 ^ 24 + o.toNat % 2 ^ 24) ∧
    (o.toNat / 2 ^ 24 = 3599 → o.toNat % 2 ^ 24 < 2 ^ 24 - 1 → (optNext o).toNat = o.toNat % 2 ^ 24 + 1) := by
  refine ⟨fun hlt => ?_, fun heq hh => ?_⟩
  · rw [optNext, if_pos hlt, BitVec.toNat_ofNat]
    omega
  · rw [optNext, if_neg (by omega), if_pos hh, BitVec.toNat_ofNat]
    omega

theorem blkOff_rtc (s : State) : blkOff s bRTC = false := by
  have h : blkDoms bRTC = [] := by decide
  simp [blkOff, h]

/-- RTC.CTRL answers a write (Table 12-1). -/
theorem busWrite_rtcCtrl {m : RegMaster} {s : State} (hm : Reachable m s) (w : W32) :
    busWrite m (regAddr bRTC 0x140) 4 (w.zeroExtend 64) s = rtcWrite 0x140 w.toNat s := by
  have hoff : regOff s bRTC 0x140 = false := by
    rw [regOff, if_neg (fun h => absurd h.1 (by decide)), blkOff_rtc]
  have hreg : regOf s m (regAddr bRTC 0x140) = some (r32 0x140 (b2n s.rtc.commitPend * 2 + b2n s.rtc.snapPend)) :=
    (regOf_reachable (.inl hm) (by decide) (by decide) (by decide)).trans ((regAt_own (by decide) hoff).trans rfl)
  rw [busWrite_single (by decide) hreg rfl]
  rfl

theorem execSnap_eq {m : RegMaster} {s : State} (hm : Reachable m s) : execSnap m s = .next (requestSnap s) :=
  congrArg Host.Outcome.next (busWrite_rtcCtrl hm 1)

theorem execCommitRequest_eq {m : RegMaster} {s : State} (hm : Reachable m s) :
    execCommitRequest m s = .next (requestCommit s) :=
  congrArg Host.Outcome.next (busWrite_rtcCtrl hm 2)

theorem complete_rtc (d : HostDesc) (st data : Nat) (s : State) : (complete d st data s).rtc = s.rtc :=
  (congrArg State.rtc (complete_frame d st data s) :)

theorem entered_rtc (d : HostDesc) (s : State) : (entered d s).rtc = s.rtc :=
  (congrArg State.rtc (entered_frame d s) :)

theorem rtcReadDone_rtc (s : State) (d : HostDesc) : (rtcReadDone s d).rtc = s.rtc := by
  rw [rtcReadDone, finRtc_ok, complete_rtc, toHost]
  split_ifs <;> rfl

theorem foldl_rtcReadDone_rtc (l : List HostDesc) (s : State) : (l.foldl rtcReadDone s).rtc = s.rtc :=
  List.foldlRecOn (motive := fun u => u.rtc = s.rtc) l _ rfl fun u hu d _ => (rtcReadDone_rtc u d).trans hu

theorem foldl_finRtc_rtc (l : List HostDesc) (s : State) : (l.foldl (fun s d => finRtc d stOK 0 s) s).rtc = s.rtc :=
  List.foldlRecOn (motive := fun u => u.rtc = s.rtc) l _ rfl fun u hu d _ => (complete_rtc d stOK 0 u).trans hu

/-- RCNT after a commit: its upper 40 bits are the staged or the present ones, the lower 15 are 0 (R365). -/
theorem commitRtc_rcnt (r : RtcRegs) :
    (commitRtc r).rcnt.toNat % 2 ^ 15 = 0 ∧ (commitRtc r).rcnt.toNat / 2 ^ 15 =
      (if r.stgFlags.getLsbD 0 then (if r.bin then r.stgCnt.toNat % 2 ^ 40 else r.stgCnt.toNat / 2 ^ 15 % 2 ^ 33)
       else r.rcnt.toNat / 2 ^ 15) := by
  have hr := r.rcnt.isLt
  unfold commitRtc
  simp only [BitVec.toNat_ofNat]
  split_ifs <;> omega

/-- The state in which the descriptors that wait for a snapshot, or for a commit, complete. -/
def snapped (s : State) : State :=
  { s with rtc := { s.rtc with snapCnt := rtcCount s.rtc, snapCal := s.rtc.cal, snapPend := false, snapDone := true, reads := [] } }
def committed (s : State) : State := { s with rtc := { commitRtc s.rtc with writes := [] } }

theorem execSnapTaken_eq {s : State} (h : s.rtc.snapPend = true) :
    execSnapTaken s = .next (s.rtc.reads.foldl rtcReadDone (snapped s)) := congrArg Host.Outcome.next (if_pos h)

theorem execCommitApplied_eq {s : State} (h : s.rtc.commitPend = true) :
    execCommitApplied s = .next (s.rtc.writes.foldl (fun s d => finRtc d stOK 0 s) (committed s)) :=
  congrArg Host.Outcome.next (if_pos h)

/-- Settles O23: each command by its own write of the RTC, and the register and descriptor paths to the same requests. -/
theorem theCalendarAdvancesAndIsCommitted : Obligations.TheCalendarAdvancesAndIsCommitted := by
  refine ⟨⟨fun s => ⟨_, rfl, rfl, rfl, fun h => ?_, fun h hb => ?_, fun h hb hlt => ?_⟩, ?_, fun s hen halarm => ?_, fun s => ?_, ?_⟩,
    fun m s hm => ⟨⟨_, execSnap_eq hm, rfl⟩, ⟨_, execCommitRequest_eq hm, rfl⟩⟩, ?_, ?_, ?_⟩
  · simp [h]
  · simp only [h, hb, if_true]
    exact (rtcEdge_counts _).1
  · simp only [h, hb, if_true, Bool.false_eq_true, if_false]
    exact (rtcEdge_counts _).2 hlt
  · intro s c dim noon r hcal hen hcommit
    refine ⟨_, rfl, ?_⟩
    have hr : r = calNext c := (calNext_eq c).symm
    rw [hr, hcal, hen, hcommit]
    exact ⟨rfl, rfl, rfl⟩
  · have hticks : rtcTicks s = s.rtc.alarm := by
      apply BitVec.eq_of_toNat_eq
      rw [rtcTicks, BitVec.truncate_eq_setWidth, BitVec.toNat_setWidth]
      exact halarm
    exact ⟨_, congrArg Host.Outcome.next (if_pos ⟨hen, hticks⟩), rfl, rfl⟩
  · exact ⟨_, rfl, rfl, counted_count bRTC 0 { s with rtc := { s.rtc with osf := true } }⟩
  · intro s h x hx
    exact ⟨_, rfl, optNext_eq s.recs.opt⟩
  · intro s hp r cnt
    refine ⟨_, execSnapTaken_eq hp, ?_⟩
    beta_reduce
    rw [foldl_rtcReadDone_rtc]
    refine ⟨rfl, rfl, rfl, rfl, rfl, rfl, fun d hd hmem => ?_⟩
    rw [hd]
    have hstarted : d ∈ (ringGet (toHost (dAddr d) (rtcRecord (snapped s)) (snapped s)) d.ring).started := by
      rw [toHost_started]
      exact hmem
    exact answered_complete _ _ hstarted
  · intro s hp r
    refine ⟨_, execCommitApplied_eq hp, ?_⟩
    beta_reduce
    rw [foldl_finRtc_rtc]
    refine ⟨(commitRtc_rcnt r).1, (commitRtc_rcnt r).2, rfl, rfl, rfl, rfl, fun d hd hmem => ?_⟩
    rw [hd]
    exact answered_complete _ _ hmem
  · intro d s
    refine ⟨fun h => ⟨_, congrArg Host.Outcome.next (arrive_reaches effRtcRead h), ?_⟩,
      fun h hflags hp => ⟨_, congrArg Host.Outcome.next (arrive_reaches effRtcWrite h), ?_⟩,
      fun h hflags hp => ⟨_, congrArg Host.Outcome.next (arrive_reaches effRtcWrite h), ?_⟩⟩
    · simp [effRtcRead, requestSnap, entered_rtc]
    · have hpe : ¬ (entered d s).rtc.commitPend = true := by rw [entered_rtc, hp]; exact Bool.false_ne_true
      rw [effRtcWrite, if_neg (by omega), if_neg hpe]
      simp [requestCommit, entered_rtc]
      omega
    · have hpe : (entered d s).rtc.commitPend = true := by rw [entered_rtc, hp]
      have heq : effRtcWrite d (entered d s) = complete d stBUSY 0 (count bRTC 2 (entered d s)) := by
        rw [effRtcWrite, if_neg (by omega), if_pos hpe]
        rfl
      rw [heq]
      refine ⟨answered_complete _ _ (mem_entered_started d s), ?_, ?_⟩
      · rw [complete_rtc]
        exact entered_rtc d s
      · exact counted_of_blk (entered_blk d s) (congrArg State.blk (complete_refused_frame (st := stBUSY) (by decide) _) :)

end Sys2Proof.Proofs
end

section
/-! PROOFS. What the start of a minor frame leaves alone in the pair: the time base and the schedule. -/

namespace Sys2Proof.Proofs

open Sys2Proof.Machine Sys2Proof.Laws

/-- What the start of a minor frame settles apart from the pair: the time base, the schedule, the spans of the process image,
the start of the schedule, and the counters of TIME and SCHED. -/
def frameSide (s : State) : TimeRegs × SchedRegs × Bool × W64 × (Nat → W32) × (Nat → W32) :=
  (s.time, s.sched, s.pimg.openSpan, s.sys.startTbc, cntOf s bTIME, cntOf s bSCHED)

theorem frameSide_mk (a1 a2 a3 a4 a5 a6 a7 a8 a9 a10 a11 a12 a13 a14 a15 a16 a17 a18 a19 a20 a21 a22 a23 a24 a25 a26 a27 a28
    a29 a30 a31 a32) :
  frameSide (State.mk a1 a2 a3 a4 a5 a6 a7 a8 a9 a10 a11 a12 a13 a14 a15 a16 a17 a18 a19 a20 a21 a22 a23 a24 a25 a26 a27 a28
    a29 a30 a31 a32) =
    (a23, a6, a7.openSpan, a4.startTbc, (fun k => tblGet (tblGet a1 bTIME (blkReset bTIME)).cnt k 0), (fun k => tblGet (tblGet
      a1 bSCHED (blkReset bSCHED)).cnt k 0)) := rfl
theorem frameSide_fold (s : State) : (s.time, s.sched, s.pimg.openSpan, s.sys.startTbc, (fun k => tblGet (tblGet s.blk bTIME
    (blkReset bTIME)).cnt k 0), (fun k => tblGet (tblGet s.blk bSCHED (blkReset bSCHED)).cnt k 0)) = frameSide s := rfl
@[simp] theorem frameSide_ite (c : Prop) [Decidable c] (a b : State) : frameSide (if c then a else b) = if c then frameSide a
    else frameSide b := by split <;> rfl
@[simp] theorem frameSide_foldl {α : Type} (f : State → α → State) (h : ∀ s a, frameSide (f s a) = frameSide s) (l : List α)
    (s : State) : frameSide (l.foldl f s) = frameSide s := by
  induction l generalizing s with
  | nil => rfl
  | cons a l ih => rw [List.foldl_cons, ih, h]
theorem frameSide_count {b : Nat} (ht : b ≠ bTIME) (hs : b ≠ bSCHED) (n : Nat) (s : State) : frameSide (count b n s) =
    frameSide s := by
  have h (c : Nat) (hc : b ≠ c) : cntOf (count b n s) c = cntOf s c := by
    funext k
    rw [counted_count]
    exact if_neg fun h => hc h.1.symm
  simp [frameSide, h _ ht, h _ hs]
@[simp] theorem frameSide_count_pair (n : Nat) (s : State) : frameSide (count bPAIR n s) = frameSide s := frameSide_count (by
    decide) (by decide) n s
@[simp] theorem frameSide_count_rec (n : Nat) (s : State) : frameSide (count bREC n s) = frameSide s := frameSide_count (by
    decide) (by decide) n s
@[simp] theorem frameSide_count_sec (n : Nat) (s : State) : frameSide (count bSEC n s) = frameSide s := frameSide_count (by
    decide) (by decide) n s
@[simp] theorem frameSide_count_parc (n : Nat) (s : State) : frameSide (count bPARC n s) = frameSide s := frameSide_count (by
    decide) (by decide) n s
@[simp] theorem frameSide_count_solv (n : Nat) (s : State) : frameSide (count bSOLV n s) = frameSide s := frameSide_count (by
    decide) (by decide) n s

@[simp] theorem frameSide_emit (o : Out) (s : State) : frameSide (emit o s) = frameSide s := (rfl)

@[simp] theorem frameSide_srcPut (s : State) (n : Nat) (v : IrqSrc) : frameSide (srcPut s n v) = frameSide s := (rfl)

@[simp] theorem frameSide_irqEdge (n : Nat) (s : State) : frameSide (irqEdge n s) = frameSide s := (rfl)

@[simp] theorem frameSide_lantern (code : Nat) (sev : Nat) (data : Bytes) (s : State) : frameSide (lantern code sev data s) =
    frameSide s := by
  simp [lantern, ↓frameSide_mk, ↓frameSide_fold]

@[simp] theorem frameSide_audPush (code : Nat) (ctx : Nat) (auth : Nat) (ocnt : Nat) (data : Bytes) (s : State) : frameSide
    (audPush code ctx auth ocnt data s) = frameSide s := (rfl)

@[simp] theorem frameSide_audit (code : Nat) (ctx : Nat) (auth : Nat) (ocnt : Nat) (data : Bytes) (s : State) : frameSide
    (audit code ctx auth ocnt data s) = frameSide s := by
  simp [audit, ↓frameSide_mk, ↓frameSide_fold]

@[simp] theorem frameSide_randomBytes (n : Nat) (s : State) : frameSide (randomBytes n s).2 = frameSide s := (rfl)

@[simp] theorem frameSide_freeWord (s : State) : frameSide (freeWord s).2 = frameSide s := (rfl)

@[simp] theorem frameSide_parcGiveUp (st : BitVec 4) (s : State) : frameSide (parcGiveUp st s) = frameSide s := by
  unfold parcGiveUp
  split <;> simp [↓frameSide_mk, ↓frameSide_fold]

@[simp] theorem frameSide_parcInterrupt (s : State) : frameSide (parcInterrupt s) = frameSide s := by simp [parcInterrupt]

@[simp] theorem frameSide_ringPut (s : State) (r : Nat) (v : Ring) : frameSide (ringPut s r v) = frameSide s := (rfl)

@[simp] theorem frameSide_auditDesc (d : HostDesc) (s : State) : frameSide (auditDesc d s) = frameSide s := by
  unfold auditDesc
  (repeat' split) <;> simp

@[simp] theorem frameSide_completeR (d : HostDesc) (st : Nat) (data : Nat) (ret : Option Nat) (s : State) : frameSide
    (completeR d st data ret s) = frameSide s := by
  simp [completeR, ↓frameSide_mk, ↓frameSide_fold]

@[simp] theorem frameSide_complete (d : HostDesc) (st : Nat) (data : Nat) (s : State) : frameSide (complete d st data s) =
    frameSide s := by
  simp [complete]

@[simp] theorem frameSide_finish_pair (n : Nat) (cl : List Nat) (d : HostDesc) (st data : Nat) (s : State) :
    frameSide (finish bPAIR n cl d st data s) = frameSide s := by simp [finish, countIf]

@[simp] theorem frameSide_unsolicited (ring : Nat) (src : Nat) (st : Nat) (data : Nat) (s : State) : frameSide (unsolicited
    ring src st data s) = frameSide s := (rfl)

@[simp] theorem frameSide_sessPut (s : State) (k : Nat) (v : Sess) : frameSide (sessPut s k v) = frameSide s := (rfl)

@[simp] theorem frameSide_poolNote (kind : Byte) (ref : Nat) (ok : Bool) (s : State) : frameSide (poolNote kind ref ok s) =
    frameSide s := by
  unfold poolNote
  split <;> simp

@[simp] theorem frameSide_stnPut (s : State) (k : Nat) (v : Station) : frameSide (stnPut s k v) = frameSide s := (rfl)

@[simp] theorem frameSide_latchTsref (s : State) : frameSide (latchTsref s) = frameSide s := (rfl)

@[simp] theorem frameSide_joinBack (j : JoinRec) (s : State) : frameSide (joinBack j s) = frameSide s := by simp [joinBack]

@[simp] theorem frameSide_dropJoin (j : JoinRec) (s : State) : frameSide (dropJoin j s) = frameSide s := (rfl)

@[simp] theorem frameSide_dropJoins (s : State) : frameSide (dropJoins s) = frameSide s := by
  simp [dropJoins, ↓frameSide_mk, ↓frameSide_fold]

@[simp] theorem frameSide_cutRuns (endc : Byte) (s : State) : frameSide (cutRuns endc s) = frameSide s := (rfl)

@[simp] theorem frameSide_solvRole (s : State) : frameSide (solvRole s) = frameSide s := (rfl)

@[simp] theorem frameSide_laneSent (lane : Nat) (s : State) : frameSide (laneSent lane s) = frameSide s := (rfl)

@[simp] theorem frameSide_mirSend (lane : Nat) (kind : Nat) (cseq : W64) (off : Nat) (item : Nat) (payload : Bytes) (s :
    State) : frameSide (mirSend lane kind cseq off item payload s) = frameSide s := by
  unfold mirSend
  dsimp only
  (repeat' split) <;> simp [↓frameSide_mk, ↓frameSide_fold]

@[simp] theorem frameSide_helloSend (lane : Nat) (s : State) : frameSide (helloSend lane s) = frameSide s := by
  unfold helloSend
  split <;> simp

@[simp] theorem frameSide_freshNonce (s : State) : frameSide (freshNonce s) = frameSide s := (rfl)

@[simp] theorem frameSide_helloBoth (s : State) : frameSide (helloBoth s) = frameSide s := by simp [helloBoth]

@[simp] theorem frameSide_finPair (d : HostDesc) (st : Nat) (data : Nat) (s : State) : frameSide (finPair d st data s) =
    frameSide s := by
  simp [finPair]

@[simp] theorem frameSide_finAll (ds : List (HostDesc × W64)) (st : Nat) (s : State) : frameSide (finAll ds st s) = frameSide
    s := by
  simp [finAll]

@[simp] theorem frameSide_timeSend (s : State) : frameSide (timeSend s) = frameSide s := by
  simp [timeSend, ↓frameSide_mk, ↓frameSide_fold]

@[simp] theorem frameSide_meterSend (s : State) : frameSide (meterSend s) = frameSide s := by
  simp [meterSend, ↓frameSide_mk, ↓frameSide_fold]

@[simp] theorem frameSide_changeRole (new : BitVec 2) (cause : Nat) (s : State) : frameSide (changeRole new cause s) =
    frameSide s := by
  simp [changeRole, ↓frameSide_mk, ↓frameSide_fold]

@[simp] theorem frameSide_enterCopying (s : State) : frameSide (enterCopying s) = frameSide s := (rfl)

@[simp] theorem frameSide_idleMasters (s : State) : frameSide (idleMasters s) = frameSide s := (rfl)

@[simp] theorem frameSide_promoteSeal (s : State) (k : Nat) : frameSide (promoteSeal s k) = frameSide s := by simp [promoteSeal]

@[simp] theorem frameSide_clearTx (s : State) : frameSide (clearTx s) = frameSide s := (rfl)

@[simp] theorem frameSide_axesTake (s : State) : frameSide (axesTake s) = frameSide s := (rfl)

@[simp] theorem frameSide_promoted (s : State) : frameSide (promoted s) = frameSide s := by simp [promoted]

@[simp] theorem frameSide_keepFv (s : State) (k : Nat) : frameSide (keepFv s k) = frameSide s := by simp [keepFv]

@[simp] theorem frameSide_cancelTx (s : State) : frameSide (cancelTx s) = frameSide s := (rfl)

@[simp] theorem frameSide_demoted (s : State) : frameSide (demoted s) = frameSide s := by simp [demoted]

@[simp] theorem frameSide_swappedOut (s : State) : frameSide (swappedOut s) = frameSide s := by
  simp [swappedOut, ↓frameSide_mk, ↓frameSide_fold]

@[simp] theorem frameSide_joinPartner (s : State) : frameSide (joinPartner s) = frameSide s := by
  simp [joinPartner, ↓frameSide_mk, ↓frameSide_fold]

@[simp] theorem frameSide_modeGranted (s : State) : frameSide (modeGranted s) = frameSide s := by
  simp [modeGranted, ↓frameSide_mk, ↓frameSide_fold]

@[simp] theorem frameSide_roleChange (s : State) : frameSide (roleChange s) = frameSide s := by
  simp [roleChange, ↓frameSide_mk, ↓frameSide_fold]

@[simp] theorem frameSide_idleSend (s : State) : frameSide (idleSend s) = frameSide s := by
  simp [idleSend, ↓frameSide_mk, ↓frameSide_fold]

@[simp] theorem frameSide_mirExchange (s : State) : frameSide (mirExchange s) = frameSide s := by simp [mirExchange]

@[simp] theorem frameSide_pairFrameStart (s : State) : frameSide (pairFrameStart s) = frameSide s := by
  simp [pairFrameStart, ↓frameSide_mk, ↓frameSide_fold]

end Sys2Proof.Proofs
end

section
/-! PROOFS. The start of a minor frame against the grid. -/

namespace Sys2Proof.Proofs

open Sys2Proof.Machine Sys2Proof.Laws

/-! ### The grid (R353 to R356) -/

/-- The grid instant nearest to a time is a whole number of frames from ORIGIN, and at most half a frame away (R354). -/
theorem gridNear_spec (t : TimeRegs) (l : Nat) (x : W128) :
    let p : Int := l * 65536
    0 < l → ∃ k : Int, gridNear t l x = t.origin + BitVec.ofInt 128 (k * p) ∧
      2 * (k * p - tDiff x t.origin) ≤ p ∧ -p ≤ 2 * (k * p - tDiff x t.origin) := by
  intro p hl
  have hp : 0 < p := by omega
  have heven : p % 2 = 0 := by omega
  have hdiv := Int.mul_fdiv_add_fmod (tDiff x t.origin + p / 2) p
  rw [Int.mul_comm] at hdiv
  have hlo := Int.fmod_nonneg_of_pos (tDiff x t.origin + p / 2) hp
  have hhi := Int.fmod_lt_of_pos (tDiff x t.origin + p / 2) hp
  refine ⟨Int.fdiv (tDiff x t.origin + p / 2) p, rfl, ?_, ?_⟩ <;> omega

/-- The length that the grid gives a frame, within the trim of the nominal one. -/
def trimmed (l : Nat) (d : Int) : Int :=
  let trim : Int := ((l : Int) + 1023) / 1024
  if d < l - trim then l - trim else if l + trim < d then l + trim else d

theorem trimmed_eq (l : Nat) (d : Int) : min (max d (l - trimOf l)) (l + trimOf l) = trimmed l d := by
  have htrim : ((trimOf l : Nat) : Int) = ((l : Int) + 1023) / 1024 := by
    simp [trimOf, ceilDiv]
  rw [htrim, trimmed]
  split_ifs <;> omega

theorem trimmed_range {l : Nat} (hlo : 250000 ≤ l) (hhi : l ≤ 10000000) (d : Int) :
    0 ≤ trimmed l d ∧ trimmed l d < 2 ^ 32 := by
  unfold trimmed
  dsimp only
  split_ifs <;> omega

/-- A frame whose schedule has gone on to its MFN: the grid, TRIG_0, the time stamp reference and the refresh demand. -/
def frameOn (hot : Bool) (l : Nat) (u : State) : State :=
  countIf hot bSCHED 6 (latchTsref (trig0Frame (gridStart l false
    { u with sched := { u.sched with cyc := 0 }, pimg := { u.pimg with openSpan := false, snapDone := false } })))

/-- The time base after the grid's part of a frame start. -/
def gridTime (l : Nat) (t : TimeRegs) : TimeRegs :=
  let b := gridNear t l (timeAt t t.tbc.toNat + BitVec.ofNat 128 (l * 65536))
  let err : Int := t.tbc.toNat - cycleOf t (gridNear t l (timeAt t t.tbc.toNat))
  { t with frameLen := BitVec.ofInt 32 (trimmed l (cycleOf t b - t.tbc.toNat)), flen := t.frameLen, frameStart := t.tbc,
           f0 := timeAt t t.tbc.toNat, nextInst := b, gridErr := BitVec.ofInt 32 err, lock := decide (err = 0) }

/-- Whether the grid's instant lies outside the trim. -/
def gridFar (l : Nat) (t : TimeRegs) : Bool :=
  let trim : Int := ((l : Int) + 1023) / 1024
  let d := cycleOf t (gridNear t l (timeAt t t.tbc.toNat + BitVec.ofNat 128 (l * 65536))) - t.tbc.toNat
  decide (d < l - trim ∨ l + trim < d)

theorem gridStart_eq (l : Nat) (s : State) :
    gridStart l false s = countIf (gridFar l s.time) bTIME 3 { s with time := gridTime l s.time } := by
  have htrim : ((trimOf l : Nat) : Int) = ((l : Int) + 1023) / 1024 := by
    simp [trimOf, ceilDiv]
  unfold gridStart gridTime gridFar
  simp only [Bool.false_eq_true, if_false, trimmed_eq, Bool.decide_or]
  simp only [htrim]
  rfl

theorem countIf_time (c : Bool) (b n : Nat) (s : State) : (countIf c b n s).time = s.time := by
  cases c <;> rfl
theorem countIf_sched (c : Bool) (b n : Nat) (s : State) : (countIf c b n s).sched = s.sched := by
  cases c <;> rfl

/-- The other blocks keep their counters. -/
theorem cntOf_countIf_ne {b e : Nat} (h : e ≠ b) (c : Bool) (n k : Nat) (s : State) : cntOf (countIf c b n s) e k = cntOf s e k := by
  cases c
  · rfl
  · rw [countIf, if_pos rfl, counted_count, if_neg fun hc => h hc.1]

/-- The time stamp reference and TRIG_0 change the time base in TRIG_0 alone. -/
theorem latchTrig0 (u : State) :
    let t := latchTsref (trig0Frame u)
    t.time = { u.time with trig := tblPut u.time.trig 0 { trigGet u 0 with cap := nowNs u, fired := true } {} } ∧
    t.sched = u.sched ∧ t.pimg = u.pimg ∧ t.sys = u.sys ∧ t.blk = u.blk := ⟨rfl, rfl, rfl, rfl, rfl⟩

/-- What a frame start leaves of the time base, the schedule and their counters. -/
theorem frameOn_spec (hot : Bool) (l : Nat) (u : State) :
    let t := frameOn hot l u
    t.time = { gridTime l u.time with
      trig := tblPut u.time.trig 0 { trigGet u 0 with cap := nowNs u, fired := true } {} } ∧
    t.sched = { u.sched with cyc := 0 } ∧ t.pimg.openSpan = false ∧ t.sys.startTbc = u.sys.startTbc ∧
    cntOf t bTIME 3 = (if gridFar l u.time = true then satInc (cntOf u bTIME 3) else cntOf u bTIME 3) ∧
    cntOf t bSCHED 6 = (if hot = true then satInc (cntOf u bSCHED 6) else cntOf u bSCHED 6) := by
  obtain ⟨v, hv, htime, hsched, hpimg, hsys, hblk⟩ : ∃ v, frameOn hot l u = countIf hot bSCHED 6 (latchTsref (trig0Frame
      (countIf (gridFar l u.time) bTIME 3 v))) ∧ v.time = gridTime l u.time ∧ v.sched = { u.sched with cyc := 0 } ∧
      v.pimg.openSpan = false ∧ v.sys = u.sys ∧ v.blk = u.blk := by
    unfold frameOn
    rw [gridStart_eq]
    exact ⟨_, rfl, rfl, rfl, rfl, rfl, rfl⟩
  obtain ⟨ltime, lsched, lpimg, lsys, lblk⟩ := latchTrig0 (countIf (gridFar l u.time) bTIME 3 v)
  have hcnt (b k : Nat) := cntOf_congr lblk b k
  have hnow : nowNs (countIf (gridFar l u.time) bTIME 3 v) = nowNs u := by
    unfold nowNs nowT
    rw [countIf_time, htime]
    rfl
  have hfield {α : Type} (f : State → α) (hf : ∀ c b n w, f (countIf c b n w) = f w) :
      f (countIf hot bSCHED 6 (latchTsref (trig0Frame (countIf (gridFar l u.time) bTIME 3 v)))) =
        f (latchTsref (trig0Frame (countIf (gridFar l u.time) bTIME 3 v))) := hf ..
  rw [hv]
  refine ⟨?_, ?_, ?_, ?_, ?_, ?_⟩
  · rw [hfield State.time countIf_time, ltime, countIf_time, hnow, trigGet, countIf_time, htime]
    rfl
  · rw [hfield State.sched countIf_sched, lsched, countIf_sched, hsched]
  · rw [hfield State.pimg (fun c b n w => by cases c <;> rfl), lpimg, show (countIf (gridFar l u.time) bTIME 3 v).pimg = v.pimg by
      cases gridFar l u.time <;> rfl]
    exact hpimg
  · rw [hfield State.sys (fun c b n w => by cases c <;> rfl), lsys, show (countIf (gridFar l u.time) bTIME 3 v).sys = v.sys by
      cases gridFar l u.time <;> rfl, hsys]
  · rw [cntOf_countIf_ne (by decide), hcnt, cntOf_countIf, cntOf_congr hblk]
    simp
  · rw [cntOf_countIf, hcnt, cntOf_countIf_ne (by decide), cntOf_congr hblk]
    simp

theorem newGrid_running {s : State} (h : s.sched.committed = false) : newGrid s = (s.sched.frameL.toNat, s) := by
  have hend : endsInSwitch s = false := by rw [endsInSwitch, h, Bool.false_and]
  rw [newGrid, hend]
  rfl

/-- A frame that starts outside a switch: the grid acts on the state in which MFN has gone on, and the pair follows. -/
theorem gives_minorFrameStart {hot : Bool} {s : State} (hen : enOf s bSCHED = true) (him : s.sched.image.isSome = true)
    (hc : s.sched.committed = false) {P : State → Prop} (h : ∀ t, frameSide t = frameSide (frameOn hot s.sched.frameL.toNat
      (if s.sched.run = true then { s with sched := { s.sched with mfn := s.sched.mfn + 1 } } else firstFrame s)) → P t) :
    Gives (.minorFrameStart hot) s P := by
  refine ⟨minorFrame hot s, ?_, h _ ?_⟩
  · rw [exec, execMinorFrameStart, hen, him]
    rfl
  · unfold minorFrame
    rw [newGrid_running hc]
    exact frameSide_pairFrameStart _

/-- The schedule of a unit alone begins with the MFN that it holds (R502). -/
def scheduleBegun (s : State) : State :=
  { s with sched := { s.sched with run := true, majMfn := some s.sched.mfn }, sys := { s.sys with startTbc := s.time.tbc } }

theorem firstFrame_alone {s : State} (hmode : s.pair.mode = false) (hpart : s.sys.partnerActive = false) :
    firstFrame s = scheduleBegun s := by
  unfold firstFrame
  rw [hpart]
  unfold roleAtStart
  cases s.pair.hello <;> simp [hmode, scheduleBegun]

/-- Settles O29: a frame start is the grid's part followed by the pair's, and the pair's leaves the time base, the schedule
and their counters as they are. -/
theorem framesFollowTheGrid : Obligations.FramesFollowTheGrid := by
  refine ⟨?_, fun s hen him hrun hc hmode hreq hpart => ?_, ?_⟩
  · intro hot s l p trim now b d len err hen him hrun hc hlo hhi
    refine gives_minorFrameStart hen him hc fun t ht => ?_
    rw [if_pos hrun] at ht
    obtain ⟨htime, hsched, hopen, -, hcnt3, hcnt6⟩ := frameOn_spec hot l { s with sched := { s.sched with mfn := s.sched.mfn + 1 } }
    simp only [frameSide, Prod.mk.injEq] at ht
    obtain ⟨ttime, tsched, topen, -, tcntT, tcntS⟩ := ht
    rw [htime] at ttime
    rw [hsched] at tsched
    rw [hopen] at topen
    have hrange := trimmed_range hlo hhi d
    refine ⟨by rw [tsched], by rw [tsched], by rw [tsched], topen, by rw [ttime]; rfl, by rw [ttime]; rfl, by rw [ttime]; rfl, ?_,
      by rw [ttime]; rfl, by rw [ttime]; rfl, by rw [ttime]; rfl, ?_, ?_, gridNear_spec s.time l _ (by omega), ?_, ?_⟩
    · rw [ttime]
      show ((BitVec.ofInt 32 (trimmed l d)).toNat : Int) = trimmed l d
      rw [BitVec.toNat_ofInt]
      omega
    · rw [trigGet, ttime]
      simp
      rfl
    · rw [trigGet, ttime]
      simp
    · rw [tcntT, hcnt3]
      simp [gridFar]
      rfl
    · rw [tcntS, hcnt6]
      rfl
  · refine gives_minorFrameStart hen him hc fun t ht => ?_
    rw [if_neg (by rw [hrun]; exact Bool.false_ne_true), firstFrame_alone hmode hpart] at ht
    obtain ⟨htime, hsched, -, hstart, -⟩ := frameOn_spec false s.sched.frameL.toNat (scheduleBegun s)
    simp only [frameSide, Prod.mk.injEq] at ht
    obtain ⟨ttime, tsched, -, tstart, -⟩ := ht
    rw [htime] at ttime
    rw [hsched] at tsched
    rw [hstart] at tstart
    exact ⟨by rw [tsched]; rfl, by rw [tsched]; rfl, by rw [tsched]; rfl, tstart, by rw [tsched], by rw [ttime]; rfl⟩
  · intro s m boundary
    have hm : mIndex s = (s.sched.mfn.toNat - s.sched.mfnBase.toNat) % m := by
      rw [mIndex, show max 1 s.sched.majM.toNat = m from ?_]
      show max 1 s.sched.majM.toNat = if s.sched.majM = 0 then 1 else s.sched.majM.toNat
      split_ifs with h0
      · rw [h0]
        rfl
      · have hne : s.sched.majM.toNat ≠ 0 := fun h => h0 (BitVec.eq_of_toNat_eq h)
        omega
    have hiff : (s.sched.run && mIndex s == 0 && s.sched.majMfn != some s.sched.mfn) = true ↔ boundary := by
      simp only [Bool.and_eq_true, beq_iff_eq, bne_iff_ne, boundary, and_assoc, hm]
    refine ⟨fun h => ⟨_, congrArg Host.Outcome.next (if_pos (hiff.mpr h)), rfl, rfl⟩,
      fun h => ⟨_, congrArg Host.Outcome.next (if_neg (mt hiff.mp h)), rfl⟩⟩

end Sys2Proof.Proofs
end

section
/-! PROOFS. The entry of an interrupt (R228): the vector is read after the frame is saved, so that a vector in the data memory
below the stack pointer can be overwritten by the frame. -/

namespace Sys2Proof.Proofs

open Sys2Proof.Machine Sys2Proof.Laws

/-- MC1 with its vectors at the start of its data memory, where the entry of source 70 (at byte 560) is the lowest doubleword
of the frame that the stack pointer leaves room for. No MSR gives VBASE such a value (R226), but the statement asks nothing of
VBASE. -/
def framedVector : State := { setEn State.reset bIRQ true with
  mc1 := { ie := true, pc := 8, vbase := BitVec.ofNat 64 mc1Data, g := [(63, BitVec.ofNat 64 (mc1Data + 624))] }
  irq := { src := [(70, { pend := true, mask := false, target := 1, pri := 3 })] } }

theorem framedVector_presented : Presented framedVector 1 70 := by
  have hready : pendOf framedVector 70 = true ∧ enOf framedVector bIRQ = true := by decide +kernel
  have hone : ∀ k, k < 344 → (srcGet framedVector k).mask = false → k = 70 := by decide +kernel
  refine ⟨⟨by decide, hready.1, rfl, .inr (by decide +kernel), rfl, hready.2, by decide +kernel⟩, fun k hk => ?_⟩
  obtain ⟨hlt, -, hmask, -⟩ := hk
  rw [hone k hlt hmask]
  exact ⟨Nat.le_refl _, fun _ => Nat.le_refl _⟩

/-- Before the entry the vector is 0; the entry reads it as the PC that it has saved there. -/
theorem framedVector_vector : vectorOf framedVector.mc1 70 = 0 := by decide +kernel

theorem framedVector_enters {t : State} (h : exec (.interruptEntry .mc1) framedVector = .next t) : t.mc1.pc = 8 := by
  have hpc : (mc1Entry framedVector).mc1.pc = 8 := by decide +kernel
  exact Host.Outcome.next.inj h ▸ hpc

/-- Refutes O24: with the vector under the frame, MC1 goes on at the saved PC and not at the vector before the entry. -/
theorem not_interruptSourcesAndEntries : ¬ Obligations.InterruptSourcesAndEntries := by
  intro h
  obtain ⟨-, hentry⟩ := h
  obtain ⟨-, hmc1, -⟩ := hentry 70 framedVector
  obtain ⟨t, hexec, -, -, -, -, hpc, -⟩ := hmc1 (by decide +kernel) rfl rfl rfl framedVector_presented
    (by decide +kernel) (by decide +kernel) (by decide +kernel) (by decide +kernel) (by decide +kernel) (by decide +kernel)
  rw [framedVector_enters hexec] at hpc
  exact absurd (hpc.trans framedVector_vector) (by decide)

end Sys2Proof.Proofs
end

section
/-! PROOFS. A descriptor of a signed record is audited when it completes OK (R458), a NOP like any other. -/

namespace Sys2Proof.Proofs

open Sys2Proof.Machine Sys2Proof.Laws

/-- The NOP of a signed record with OCNT 1, on ring 0. -/
def signedNop : HostDesc :=
  { ring := 0, sqidx := 0, bytes := [], buf := [], readFail := false, signed := some 1, outerTag := 0 }

/-- The unit after reset with ring 0 open to class 0. -/
def openRing : State := ringPut State.reset 0 { classMask := 1 }

theorem signedNop_reaches : Reaches 0 signedNop openRing := by
  refine ⟨by decide, by decide, by decide +kernel, by decide, .inl rfl, fun h => ?_, by decide +kernel, by decide +kernel,
    fun m hm => ?_, by decide +kernel, rfl⟩
  · exact absurd h (by decide)
  · cases hm

theorem signedNop_audited : (effNop signedNop (entered signedNop openRing)).recs.journal.length = 1 := by decide +kernel

/-- Refutes O28: the NOP of a signed record completes OK with an audit record, so that more than HIF has changed. -/
theorem not_descriptorsAreCheckedInOrder : ¬ Obligations.DescriptorsAreCheckedInOrder := by
  intro h
  obtain ⟨-, -, hnop⟩ := h
  obtain ⟨t, hexec, -, hframe⟩ := hnop signedNop openRing signedNop_reaches
  have ht : t = effNop signedNop (entered signedNop openRing) :=
    (Host.Outcome.next.inj hexec).symm.trans (arrive_reaches effNop signedNop_reaches)
  have hrecs : t.recs = State.reset.recs := (congrArg State.recs hframe :)
  have hnone : t.recs.journal.length = 0 := by rw [hrecs]; rfl
  rw [ht, signedNop_audited] at hnone
  cases hnone

end Sys2Proof.Proofs
end

section
/-! PROOFS. The data of the host: fetched descriptors, the buffers they wait for, and reads that fail (R380, R381, R384). -/

namespace Sys2Proof.Proofs

open Sys2Proof.Machine Sys2Proof.Laws

/-! ### The start queues (R381) -/

theorem foldl_fixed_of_mem {α β : Type} {f : β → α → β} {s : β} {l : List α} (h : ∀ a ∈ l, f s a = s) : l.foldl f s = s := by
  induction l with
  | nil => rfl
  | cons a l ih =>
    rw [List.foldl_cons, h a List.mem_cons_self]
    exact ih fun b hb => h b (List.mem_cons_of_mem a hb)

/-- A pass over a list in which one member alone acts. -/
theorem foldl_one_of_mem {α β : Type} [DecidableEq α] {f : β → α → β} {s : β} {r : α} {l : List α} (hr : r ∈ l) (hnd : l.Nodup)
    (hpre : ∀ a ∈ l, a ≠ r → f s a = s) (hpost : ∀ a ∈ l, a ≠ r → f (f s r) a = f s r) : l.foldl f s = f s r := by
  induction l with
  | nil => cases hr
  | cons a l ih =>
    obtain ⟨hal, hnd⟩ := List.nodup_cons.mp hnd
    rw [List.foldl_cons]
    by_cases ha : a = r
    · subst ha
      exact foldl_fixed_of_mem fun b hb => hpost b (List.mem_cons_of_mem a hb) fun h => hal (h ▸ hb)
    · rw [hpre a List.mem_cons_self ha]
      refine ih ((List.mem_cons.mp hr).resolve_left (Ne.symm ha)) hnd (fun b hb => ?_) fun b hb => ?_
      · exact hpre b (List.mem_cons_of_mem a hb)
      · exact hpost b (List.mem_cons_of_mem a hb)

theorem pumpRing_of_empty {r : Nat} {s : State} (h : (ringGet s r).queue = []) : pumpRing (ringGet s r).queue.length r s = s := by
  rw [h]
  rfl

/-- With every start queue empty nothing starts. -/
theorem pump_of_empty {s : State} (h : ∀ k, k < 64 → (ringGet s k).queue = []) : pump s = s := by
  unfold pump
  split_ifs
  · exact foldl_fixed_of_mem fun k hk => pumpRing_of_empty (h k (List.mem_range.mp hk))
  · rfl

/-- The unit in which the one queued descriptor of a ring has started. -/
def startedOne (r : Nat) (d : HostDesc) (s : State) : State :=
  ringPut s r { ringGet s r with queue := [], started := (ringGet s r).started ++ [d] }

/-- One descriptor waits, and it starts. -/
theorem pump_one {r : Nat} {d : HostDesc} {s : State} (hr : r < 64) (hserves : hifServes s = true)
    (hq : (ringGet s r).queue = [d]) (hother : ∀ k, k < 64 → k ≠ r → (ringGet s k).queue = [])
    (hstart : canStart s d = true) (hon : ringOn s r = true) (hwait : deltaWaits s d = false)
    (hafter : ∀ k, k < 64 → (ringGet (checkDesc d (startedOne r d s)) k).queue = []) :
    pump s = checkDesc d (startedOne r d s) := by
  have hone : pumpRing (ringGet s r).queue.length r s = checkDesc d (startedOne r d s) := by
    rw [hq, List.length_singleton]
    simp only [pumpRing, hq, hstart, hon, hwait]
    rfl
  unfold pump
  rw [if_pos hserves, foldl_one_of_mem (r := r) (List.mem_range.mpr hr) List.nodup_range, hone]
  · exact fun k hk hne => pumpRing_of_empty (hother k (List.mem_range.mp hk) hne)
  · intro k hk _
    rw [hone]
    exact pumpRing_of_empty (hafter k (List.mem_range.mp hk))

/-! ### The rings as a table -/

theorem sum_tblDel_le {α : Type} (f : α → Nat) (t : Tbl α) (n : Nat) :
    ((tblDel t n).map fun p => f p.2).sum ≤ (t.map fun p => f p.2).sum := by
  induction t with
  | nil => exact Nat.le_refl _
  | cons p t ih =>
    rw [tblDel]
    split_ifs <;> simp only [List.map_cons, List.sum_cons] <;> omega

/-- An entry that counts nothing does not raise a sum over the table. -/
theorem sum_tblPut_le {α : Type} [DecidableEq α] (f : α → Nat) (t : Tbl α) (n : Nat) {v d : α} (hv : f v = 0) :
    ((tblPut t n v d).map fun p => f p.2).sum ≤ (t.map fun p => f p.2).sum := by
  induction t with
  | nil =>
    unfold tblPut
    split_ifs
    · exact Nat.le_refl _
    · simp [hv]
  | cons p t ih =>
    have hdel := sum_tblDel_le f t n
    unfold tblPut
    split_ifs <;> simp only [List.map_cons, List.sum_cons, hv] <;> omega

theorem startedAll_ringPut_le (s : State) (r : Nat) {v : Ring} (hv : v.started = []) : startedAll (ringPut s r v) ≤ startedAll s :=
  sum_tblPut_le (fun g : Ring => g.started.length) s.hif.rings r (by rw [hv]; rfl)

theorem ringGet_complete_ne {d : HostDesc} {k : Nat} (hk : k ≠ d.ring) (st data : Nat) (s : State) :
    ringGet (complete d st data s) k = ringGet s k := by
  rw [ringGet, complete_hif]
  split_ifs
  · exact ringGet_ringPut_ne s _ hk
  · rfl

theorem ringGet_complete_started {d : HostDesc} {s : State} (hd : d ∈ (ringGet s d.ring).started) (st data : Nat) :
    ringGet (complete d st data s) d.ring = { ringGet s d.ring with started := (ringGet s d.ring).started.erase d } := by
  rw [ringGet, complete_hif, if_pos hd]
  exact ringGet_ringPut s d.ring _

/-! ### A fetched NOP -/

theorem complete_queues (d : HostDesc) (st data : Nat) (s : State) (k : Nat) :
    (ringGet (complete d st data s) k).queue = (ringGet s k).queue := by
  by_cases hk : k = d.ring
  · by_cases hd : d ∈ (ringGet s d.ring).started
    · rw [hk, ringGet_complete_started hd]
    · rw [ringGet, complete_hif, if_neg hd]
      rfl
  · rw [ringGet_complete_ne hk]

/-- An OK completion that no audit record follows changes HIF alone. -/
theorem complete_unaudited_frame {d : HostDesc} (hs : d.signed = none) (hc : auditCode (dOp d) = none) (st data : Nat) (s : State) :
    { complete d st data s with hif := s.hif } = s := by
  obtain ⟨h, heq⟩ := complete_eq d st data s
  have haudit : auditDesc d s = s := by
    unfold auditDesc
    rw [hs, hc]
  rw [heq, haudit, ite_self]

/-- The checks of an unsigned NOP (R383): its class and its reserved bits. -/
theorem checkDesc_nop {d : HostDesc} {s : State} (hop : dOp d = 0) (hs : d.signed = none)
    (hclass : (ringGet s d.ring).classMask.getLsbD 0 = true) (hres : reservedOk d = true) :
    checkDesc d s = complete d stOK s.hif.slotMfn.toNat s := by
  have hboot : bootBarred s 0 = false := by simp [bootBarred, classRow]
  have hrun : runDesc effBuf d s = runChecked effBuf d s := by
    unfold runDesc
    rw [hop, hs]
    simp [classRow, hclass, ownerSigned, operatorOp]
  have hchecked : runChecked effBuf d s = effBuf d s := by
    unfold runChecked
    rw [hop, hboot, hres]
    simp [roleBarred, carrier, classRow, readsHost]
  have heff : effBuf d s = effOf d s := by
    unfold effBuf
    rw [hop]
    rfl
  unfold checkDesc
  rw [hrun, hchecked, heff, effOf, hop]
  rfl

/-- The unit in which the one requested descriptor of a ring has been queued. -/
def queuedOne (r : Fin 64) (d : HostDesc) (s : State) : State :=
  ringPut s r { ringGet s r with
    fetching := 0, sqHead := BitVec.ofNat 16 (((ringGet s r).sqHead.toNat + 1) % ringSize (ringGet s r).sqLog), queue := [d] }

theorem takeDescs_one {r : Fin 64} {d : HostDesc} {s : State} (hon : ringOn s r = true) (hf : (ringGet s r).fetching = 1)
    (hq : (ringGet s r).queue = []) (hhead : (ringGet s r).sqHead.toNat < 2 ^ (ringGet s r).sqLog.toNat) :
    takeDescs r [d] s = pump (queuedOne r (fetched r (ringGet s r).sqHead.toNat d) s) := by
  unfold takeDescs queuedOne
  simp [hon, hf, hq, ringSize, Nat.mod_eq_of_lt hhead]

/-- A fetched NOP starts, passes its checks and completes with the MFN of the slot. -/
theorem takeDescs_nop {r : Fin 64} {d : HostDesc} {s : State} (hserves : hifServes s = true) (hon : ringOn s r = true)
    (hf : (ringGet s r).fetching = 1) (hq : ∀ k, k < 64 → (ringGet s k).queue = []) (hst : (ringGet s r).started = [])
    (hcredit : 0 < credits s r) (hall : startedAll s < 256)
    (hhead : (ringGet s r).sqHead.toNat < 2 ^ (ringGet s r).sqLog.toNat)
    (hclass : (ringGet s r).classMask.getLsbD 0 = true)
    (hop : dOp (fetched r (ringGet s r).sqHead.toNat d) = 0)
    (hres : reservedOk (fetched r (ringGet s r).sqHead.toNat d) = true) :
    takeDescs r [d] s =
      complete (fetched r (ringGet s r).sqHead.toNat d) stOK s.hif.slotMfn.toNat
        (startedOne r (fetched r (ringGet s r).sqHead.toNat d) (queuedOne r (fetched r (ringGet s r).sqHead.toNat d) s)) := by
  rw [takeDescs_one hon hf (hq r r.isLt) hhead]
  generalize he : fetched r (ringGet s r).sqHead.toNat d = e at hop hres ⊢
  have hering : e.ring = r := by rw [← he]; rfl
  have hesig : e.signed = none := by rw [← he]; rfl
  have hget : ringGet (queuedOne r e s) r = _ := ringGet_ringPut s r _
  have hget2 : ringGet (startedOne r e (queuedOne r e s)) r = _ := ringGet_ringPut (queuedOne r e s) r _
  have hne (k : Nat) (hk : k ≠ r) : ringGet (startedOne r e (queuedOne r e s)) k = ringGet s k :=
    (ringGet_ringPut_ne _ _ hk).trans (ringGet_ringPut_ne _ _ hk)
  have hcheck : checkDesc e (startedOne r e (queuedOne r e s)) =
      complete e stOK s.hif.slotMfn.toNat (startedOne r e (queuedOne r e s)) :=
    checkDesc_nop hop hesig (by rw [hering, hget2]; dsimp only; rw [hget]; exact hclass) hres
  have hstart : canStart (queuedOne r e s) e = true := by
    have hcred : credits (queuedOne r e s) r = credits s r := by
      unfold credits
      rw [hget]
      rfl
    have hle : startedAll (queuedOne r e s) ≤ startedAll s := startedAll_ringPut_le s r hst
    have hstarted : (ringGet (queuedOne r e s) r).started = [] := by rw [hget]; exact hst
    unfold canStart
    dsimp only
    rw [hering, hcred, hstarted]
    simp [hcredit, Nat.lt_of_le_of_lt hle hall]
  rw [← hcheck]
  refine pump_one r.isLt hserves ?_ (fun k hk hkr => ?_) hstart hon ?_ (fun k hk => ?_)
  · rw [hget]
  · rw [show ringGet (queuedOne r e s) k = ringGet s k from ringGet_ringPut_ne _ _ hkr]
    exact hq k hk
  · unfold deltaWaits
    rw [hop]
    rfl
  · rw [hcheck, complete_queues]
    by_cases hkr : k = r
    · rw [hkr, hget2]
    · rw [hne k hkr]
      exact hq k hk

/-! ### Buffers -/

/-- The place of a buffer in the shadow bank holds it. -/
theorem slice_patch (b v : Bytes) (off : Nat) : slice (patch b off v) off v.length = v := by
  have hlen : (slice b 0 off).length = off := slice_length b 0 off
  have htake : ((patch b off v).drop off).take v.length = v := by
    unfold patch
    rw [List.append_assoc, List.drop_append_of_le_length (Nat.le_of_eq hlen.symm), List.drop_eq_nil_of_le (Nat.le_of_eq hlen),
      List.nil_append, List.take_left]
  unfold slice
  dsimp only
  rw [htake, Nat.sub_self]
  exact List.append_nil v

theorem byteAt_slice_zero {b : Bytes} {a n : Nat} (h : a < n) : byteAt (slice b 0 n) a = byteAt b a := by
  simp only [byteAt, slice, List.drop_zero, List.getD_eq_getElem?_getD]
  by_cases hb : a < b.length
  · rw [List.getElem?_append_left (by rw [List.length_take]; omega), List.getElem?_take_of_lt h]
  · rw [List.getElem?_append_right (by rw [List.length_take]; omega), List.getElem?_eq_none (Nat.not_lt.mp hb),
      List.getElem?_replicate]
    split_ifs <;> rfl

/-- Every other place keeps its byte. -/
theorem byteAt_patch_outside {b v : Bytes} {off a : Nat} (h : a < off ∨ off + v.length ≤ a) :
    byteAt (patch b off v) a = byteAt b a := by
  have hlen : (slice b 0 off).length = off := slice_length b 0 off
  unfold patch
  obtain h | h := h
  · rw [List.append_assoc, ← byteAt_slice_zero (b := b) h]
    simp only [byteAt, List.getD_eq_getElem?_getD]
    rw [List.getElem?_append_left (by omega)]
  · have hleft : (slice b 0 off ++ v).length = off + v.length := by rw [List.length_append, hlen]
    simp only [byteAt, List.getD_eq_getElem?_getD]
    rw [List.getElem?_append_right (by omega), List.getElem?_drop, hleft]
    congr 2
    omega

/-- The read of the one descriptor that waits for its buffer. -/
theorem readOf_one {s : State} {d : HostDesc} {issued : Bool} (h : s.hif.reads = [(d, issued)]) {e : HostDesc} (hr : e.ring = d.ring)
    (hi : e.sqidx = d.sqidx) (hb : e.bytes = d.bytes) : readOf s e = some d := by
  simp [readOf, h, hr, hi, hb]

section
variable {s : State} {d : HostDesc} {issued : Bool} (h : s.hif.reads = [(d, issued)]) (b : Bytes) (fail : Bool)
include h

theorem endRead_reads : (endRead d b fail s).2.hif.reads = [] := by
  simp [endRead, h, ringPut]

end

theorem endRead_started {s : State} {d : HostDesc} (hd : d ∈ (ringGet s d.ring).started) (b : Bytes) (fail : Bool) :
    (endRead d b fail s).1 ∈ (ringGet (endRead d b fail s).2 d.ring).started := by
  unfold endRead
  dsimp only
  rw [ringGet_ringPut]
  exact List.mem_map.mpr ⟨d, hd, by simp⟩

theorem endRead_queue (s : State) (d : HostDesc) (b : Bytes) (fail : Bool) (k : Nat) :
    (ringGet (endRead d b fail s).2 k).queue = (ringGet s k).queue := by
  unfold endRead
  dsimp only
  by_cases hk : k = d.ring
  · rw [hk, ringGet_ringPut]
    rfl
  · rw [ringGet_ringPut_ne _ _ hk]
    rfl

/-- The shadow bank with a piece of an image, which is not checked yet (R60). -/
def pieceLoaded (d : HostDesc) (s : State) : State :=
  { s with sched := { s.sched with
      shadow := patch s.sched.shadow (d64 d 24) (slice d.buf 0 (d32 d 20)), shadowReady := false, shadowImage := none, shdId := 0 } }

theorem effImageLoad_piece {d : HostDesc} {s : State} (hsw : s.sched.switchPend = false) (hch : s.sched.checking = none)
    (hlast : d8 d 16 = 0) (hmin : 64 ≤ d32 d 20) (hmax : d32 d 20 ≤ 16777216) (hlen : d32 d 20 % 64 = 0) (hoff : d64 d 24 % 64 = 0)
    (hend : d64 d 24 + d32 d 20 ≤ 2 ^ 28) : effImageLoad d s = complete d stOK 0 (pieceLoaded d s) := by
  have hrange : ¬(d32 d 20 < 64 ∨ 16777216 < d32 d 20 ∨ d32 d 20 % 64 ≠ 0 ∨ d64 d 24 % 64 ≠ 0 ∨ 2 ^ 28 < d64 d 24 + d32 d 20) := by
    omega
  unfold effImageLoad
  dsimp only
  rw [if_neg (by rw [hsw, hch]; decide), if_neg hrange, if_neg (by rw [hlast]; decide)]
  rfl

theorem complete_reads (d : HostDesc) (st data : Nat) (s : State) : (complete d st data s).hif.reads = s.hif.reads := by
  rw [complete_hif]
  split_ifs <;> rfl

theorem slice_all (b : Bytes) : slice b 0 b.length = b := by
  unfold slice
  dsimp only
  rw [List.drop_zero, List.take_length, Nat.sub_self]
  exact List.append_nil b

/-- The buffer of an IMAGE_LOAD without LAST reaches the shadow bank, and nothing else starts. -/
theorem takeBuffer_piece {s : State} {d e : HostDesc} (hreads : s.hif.reads = [(d, true)]) (hr : e.ring = d.ring)
    (hi : e.sqidx = d.sqidx) (hb : e.bytes = d.bytes) (hq : ∀ k, k < 64 → (ringGet s k).queue = []) (hop : dOp d = 0x01)
    (hlast : d8 d 16 = 0) (hlen : d32 d 20 = e.buf.length) (hmin : 64 ≤ e.buf.length) (hmax : e.buf.length ≤ 16777216)
    (h64 : e.buf.length % 64 = 0) (hoff : d64 d 24 % 64 = 0) (hend : d64 d 24 + e.buf.length ≤ 2 ^ 28)
    (hsw : s.sched.switchPend = false) (hch : s.sched.checking = none) :
    takeBuffer e s = complete (endRead d e.buf false s).1 stOK 0
      (pieceLoaded (endRead d e.buf false s).1 (endRead d e.buf false s).2) := by
  have heff : effOf (endRead d e.buf false s).1 (endRead d e.buf false s).2 =
      effImageLoad (endRead d e.buf false s).1 (endRead d e.buf false s).2 := by
    unfold effOf
    rw [show dOp (endRead d e.buf false s).1 = 0x01 from hop]
    rfl
  rw [← hlen] at hmin hmax h64 hend
  unfold takeBuffer
  rw [readOf_one hreads hr hi hb]
  dsimp only
  rw [heff, effImageLoad_piece (d := (endRead d e.buf false s).1) (s := (endRead d e.buf false s).2) hsw hch hlast hmin hmax h64 hoff hend, pump_of_empty]
  intro k hk
  rw [complete_queues]
  exact (endRead_queue s d e.buf false k).trans (hq k hk)

/-! ### The obligation -/

theorem takesReads {s : State} (h : slotOpen s = true) (hf : frozenM s 17 = false) (w : HostRead) :
    exec (.hostReadCompletion w) s = .next (takeRead w s) := by
  simp only [slotOpen, Bool.and_eq_true, Bool.not_eq_true'] at h
  obtain ⟨⟨⟨hin, hcl⟩, -⟩, -⟩ := h
  exact congrArg Host.Outcome.next (if_pos (by rw [hin, hcl, hf]; rfl))

theorem hifServes_of {s : State} (h : slotOpen s = true) (hf : frozenM s 17 = false) (hen : runsEn s bHIF = true) :
    hifServes s = true := by
  simp only [slotOpen, Bool.and_eq_true, Bool.not_eq_true'] at h
  obtain ⟨⟨-, hbme⟩, hd3⟩ := h
  rw [hifServes, hen, hbme, hd3, hf]
  rfl

/-- Settles O26. -/
theorem hostDataReachesItsDescriptor : Obligations.HostDataReachesItsDescriptor := by
  intro s
  refine ⟨fun hopen hfroz hen => ⟨?_, ?_⟩, fun w hw => ?_, fun r => ?_, fun r => ?_, fun d hreads hd => ?_⟩
  · intro r d g e hon hfetch hq hst hcredit hall hhead hlog hclass hop hres
    refine ⟨_, (takesReads hopen hfroz _).trans (congrArg Host.Outcome.next
      (takeDescs_nop (hifServes_of hopen hfroz hen) hon hfetch hq hst hcredit hall hhead hclass hop hres)), ?_⟩
    have hget2 : ringGet (startedOne r e (queuedOne r e s)) r = _ := ringGet_ringPut (queuedOne r e s) r _
    have hget : ringGet (queuedOne r e s) r = _ := ringGet_ringPut s r _
    have hstarted : (ringGet (startedOne r e (queuedOne r e s)) r).started = [e] := by
      rw [hget2]
      dsimp only
      rw [hget]
      exact congrArg (· ++ [e]) hst
    have hmem : e ∈ (ringGet (startedOne r e (queuedOne r e s)) e.ring).started := by
      change e ∈ (ringGet (startedOne r e (queuedOne r e s)) r).started
      rw [hstarted]
      exact List.mem_singleton.mpr rfl
    have hafter : ringGet (complete e stOK s.hif.slotMfn.toNat (startedOne r e (queuedOne r e s))) r = _ :=
      ringGet_complete_started hmem stOK s.hif.slotMfn.toNat
    have hlt : (g.sqHead.toNat + 1) % 2 ^ g.sqLog.toNat < 2 ^ 16 :=
      Nat.lt_of_lt_of_le (Nat.mod_lt _ (Nat.two_pow_pos _)) (Nat.pow_le_pow_right (by decide) hlog)
    refine ⟨answered_complete _ _ hmem, ?_, ?_, ?_, ?_, ?_⟩
    · rw [hafter]
      change (ringGet (startedOne r e (queuedOne r e s)) r).sqHead.toNat = _
      rw [hget2]
      dsimp only
      rw [hget]
      exact Nat.mod_eq_of_lt hlt
    · rw [hafter]
      change (ringGet (startedOne r e (queuedOne r e s)) r).fetching = _
      rw [hget2]
      dsimp only
      rw [hget]
    · rw [hafter]
      change (ringGet (startedOne r e (queuedOne r e s)) r).started.erase e = _
      rw [hstarted]
      exact List.erase_cons_head (l := []) e
    · rw [hafter]
      change (ringGet (startedOne r e (queuedOne r e s)) r).queue = _
      rw [hget2]
    · have hcode : auditCode (dOp e) = none := by rw [hop]; rfl
      exact (congrArg State.blk (complete_unaudited_frame (d := e) rfl hcode stOK s.hif.slotMfn.toNat _) :)
  · intro d b e hreads hd hq hop hlast hlen hmin hmax h64 hoff hend hsw hch
    refine ⟨_, (takesReads hopen hfroz _).trans (congrArg Host.Outcome.next
      (takeBuffer_piece (e := { e with readFail := false }) hreads rfl rfl rfl hq hop hlast hlen hmin hmax h64 hoff hend hsw hch)), ?_⟩
    have hslice : slice b 0 (d32 d 20) = b := by rw [hlen]; exact slice_all b
    have hshadow : (complete (endRead d b false s).1 stOK 0
        (pieceLoaded (endRead d b false s).1 (endRead d b false s).2)).sched.shadow = patch s.sched.shadow (d64 d 24) b := by
      rw [complete_sched]
      exact congrArg (patch s.sched.shadow (d64 d 24)) hslice
    refine ⟨?_, ?_, ?_, fun a ha => ?_⟩
    · exact answered_complete (d := (endRead d b false s).1) stOK 0 (endRead_started hd b false)
    · refine (congrArg (slice · (d64 d 24) b.length) hshadow).trans ?_
      exact slice_patch s.sched.shadow b (d64 d 24)
    · exact (complete_reads _ _ _ (pieceLoaded _ _)).trans (endRead_reads hreads b false)
    · exact (congrArg (byteAt · a) hshadow).trans (byteAt_patch_outside ha)
  · have hclosed : (s.hif.inSlot && !s.hif.closed && !frozenM s 17) = false := by
      obtain h | h | h := hw <;> simp [h]
    exact ⟨_, congrArg Host.Outcome.next (if_neg (by rw [hclosed]; decide)), rfl, rfl⟩
  · exact ⟨_, rfl, rfl, counted_count bHIF 5 s⟩
  · exact ⟨_, rfl, ringGet_ringPut _ _ _, counted_of_blk (u := s) rfl rfl, rfl⟩
  · have hread : readOf s d = some d := readOf_one hreads rfl rfl rfl
    have hreads1 : (count bHIF 5 s).hif.reads = [(d, true)] := hreads
    have hframe := complete_refused_frame (d := (endRead d [] true (count bHIF 5 s)).1) (st := stDROPPED) (data := 0) (by decide)
      (endRead d [] true (count bHIF 5 s)).2
    refine ⟨complete (endRead d [] true (count bHIF 5 s)).1 stDROPPED 0 (endRead d [] true (count bHIF 5 s)).2, ?_, ?_, ?_, ?_, ?_⟩
    · change Host.Outcome.next (match readOf s d with | some e => _ | none => _) = _
      rw [hread]
    · exact answered_complete (d := (endRead d [] true (count bHIF 5 s)).1) stDROPPED 0
        (endRead_started (s := count bHIF 5 s) hd [] true)
    · exact (complete_reads _ _ _ _).trans (endRead_reads hreads1 [] true)
    · exact counted_of_blk (u := s) rfl (congrArg State.blk hframe :)
    · exact (congrArg (fun v : State => { v with hif := s.hif, blk := s.blk }) hframe :)

end Sys2Proof.Proofs
end

section
/-! PROOFS. A REC_READ of a signed record is audited when it completes OK (R458), and so changes the records that it reads. -/

namespace Sys2Proof.Proofs

open Sys2Proof.Machine Sys2Proof.Laws

/-- REC_READ of the identity and the user tag (WHAT 3), as the inner descriptor of a signed record with OCNT 1. -/
def signedRecRead : HostDesc :=
  { ring := 0, sqidx := 0, bytes := [0x78] ++ zeros 15 ++ [3] ++ zeros 47, buf := [], readFail := false, signed := some 1,
    outerTag := 0 }

/-- The unit after reset with ring 0 open to class 10. -/
def recordsRing : State := ringPut State.reset 0 { classMask := BitVec.ofNat 12 (2 ^ 10) }

theorem signedRecRead_reaches : Reaches 0x78 signedRecRead recordsRing := by
  refine ⟨by decide, by decide, by decide +kernel, by decide, .inl rfl, fun h => ?_, by decide +kernel, by decide +kernel,
    fun m hm => ?_, by decide +kernel, rfl⟩
  · exact absurd h (by decide)
  · cases hm
    decide +kernel

theorem signedRecRead_audited :
    (effRecRead signedRecRead (entered signedRecRead recordsRing)).recs.journal.length = 1 := by decide +kernel

/-- Refutes O53: the signed REC_READ completes OK with an audit record, so that the records are not as before. -/
theorem not_lanternAndAuditRecordsAreKept : ¬ Obligations.LanternAndAuditRecordsAreKept := by
  intro h
  obtain ⟨-, -, hdesc⟩ := h
  obtain ⟨hread, -⟩ := hdesc signedRecRead recordsRing
  obtain ⟨-, hidentity, -⟩ := hread signedRecRead_reaches
  obtain ⟨t, hexec, -, hrecs, -⟩ := hidentity (by decide)
  have ht : t = effRecRead signedRecRead (entered signedRecRead recordsRing) :=
    (Host.Outcome.next.inj hexec).symm.trans (arrive_reaches effRecRead signedRecRead_reaches)
  have hnone : t.recs.journal.length = 0 := by rw [hrecs]; rfl
  rw [ht, signedRecRead_audited] at hnone
  cases hnone

end Sys2Proof.Proofs
end

section
/-! PROOFS. A PNL_LOAD of a signed record is audited when it completes OK (R458); where the audit log is full, REC counts it. -/

namespace Sys2Proof.Proofs

open Sys2Proof.Machine Sys2Proof.Laws

/-- PNL_LOAD of the four pixels of a panel of one row, as the inner descriptor of a signed record with OCNT 1. -/
def signedPnlLoad : HostDesc :=
  { ring := 0, sqidx := 0, bytes := [0x80] ++ zeros 15 ++ [0, 0, 0, 0, 4, 0, 1, 0] ++ zeros 40, buf := [0x55], readFail := false,
    signed := some 1, outerTag := 0 }

/-- The header of a configuration of a panel of four pixels in one row. -/
def smallPanel : Bytes := headSeal (leBytes 4 0x434C4E50 ++ [4, 0, 1, 0] ++ zeros 52)

/-- A unit that runs its schedule, with ring 0 open to class 11, a configured panel and a full audit log. -/
def panelRing : State :=
  { ringPut State.reset 0 { classMask := BitVec.ofNat 12 (2 ^ 11) } with
    sched := { State.reset.sched with run := true }, nvm := { State.reset.nvm with formatted := true },
    mram := tblPutAll [] pnlCfg smallPanel 0 }

theorem signedPnlLoad_reaches : Reaches 0x80 signedPnlLoad panelRing := by
  refine ⟨by decide, by decide, by decide +kernel, by decide, .inl rfl, fun h => ?_, by decide +kernel, by decide +kernel,
    fun m hm => ?_, by decide +kernel, rfl⟩
  · exact absurd h (by decide)
  · cases hm
    decide +kernel

theorem panelRing_configured : cfgOk panelRing = true ∧ pW panelRing = 4 ∧ pH panelRing = 1 := by decide +kernel

theorem signedPnlLoad_counted :
    cntOf (effPnlLoad signedPnlLoad (entered signedPnlLoad panelRing)) bREC 3 = 1 ∧ cntOf panelRing bREC 3 = 0 := by
  decide +kernel

/-- Refutes O55: the signed PNL_LOAD completes OK with an audit record, which the full log drops and counts. -/
theorem not_panelUpdatesAreDrivenAndAccounted : ¬ Obligations.PanelUpdatesAreDrivenAndAccounted := by
  intro h
  obtain ⟨-, -, -, -, hdesc⟩ := h
  obtain ⟨-, hload, -⟩ := hdesc signedPnlLoad panelRing
  obtain ⟨hok, hw, hh⟩ := panelRing_configured
  obtain ⟨-, hidle⟩ := hload signedPnlLoad_reaches hok
    (by rw [hw, hh]; decide)
  obtain ⟨t, hexec, -, -, hblk, -⟩ := hidle ⟨rfl, rfl⟩
  have ht : t = effPnlLoad signedPnlLoad (entered signedPnlLoad panelRing) :=
    (Host.Outcome.next.inj hexec).symm.trans (arrive_reaches effPnlLoad signedPnlLoad_reaches)
  have hcount := cntOf_congr hblk bREC 3
  rw [ht, signedPnlLoad_counted.1, signedPnlLoad_counted.2] at hcount
  exact absurd hcount (by decide)

end Sys2Proof.Proofs
end

section
/-! PROOFS. Host slots read the doorbells, and a doorbell record is taken or ignored (R372 to R376, R380, R499). -/

namespace Sys2Proof.Proofs

open Sys2Proof.Machine Sys2Proof.Laws

/-! ### A host slot without work from before -/

/-- The unit with other rings. -/
def withRings (g : Tbl Ring) (s : State) : State := { s with hif := { s.hif with rings := g } }

/-- A ring that has fetched nothing in this slot. -/
def freshRing (r : Nat) (s : State) : State :=
  if (ringGet s r).slotN = 0 then s else ringPut s r { ringGet s r with slotN := 0 }

theorem ringGet_freshRing (s : State) (r k : Nat) :
    ringGet (freshRing r s) k = if k = r then { ringGet s r with slotN := 0 } else ringGet s k := by
  unfold freshRing
  split_ifs with hn hk hk
  · subst hk
    rw [← hn]
  · rfl
  · rw [hk, ringGet_ringPut]
  · exact ringGet_ringPut_ne s _ hk

theorem freshRing_frame (s : State) (r : Nat) : ∃ g, freshRing r s = withRings g s := by
  unfold freshRing
  split_ifs
  · exact ⟨s.hif.rings, rfl⟩
  · exact ⟨_, rfl⟩

theorem foldl_freshRing (l : List Nat) (s : State) :
    (∃ g, l.foldl (fun t r => freshRing r t) s = withRings g s) ∧
      ∀ k, ringGet (l.foldl (fun t r => freshRing r t) s) k = if k ∈ l then { ringGet s k with slotN := 0 } else ringGet s k := by
  induction l generalizing s with
  | nil => exact ⟨⟨s.hif.rings, rfl⟩, fun k => rfl⟩
  | cons r l ih =>
    obtain ⟨⟨g, hg⟩, hget⟩ := ih (freshRing r s)
    obtain ⟨g', hg'⟩ := freshRing_frame s r
    refine ⟨⟨g, ?_⟩, fun k => ?_⟩
    · rw [List.foldl_cons, hg, hg']
      rfl
    · rw [List.foldl_cons, hget, ringGet_freshRing]
      by_cases hk : k = r
      · subst hk
        by_cases hl : k ∈ l <;> simp [hl]
      · simp [hk]

theorem clearSlotN_spec (s : State) :
    (∃ g, clearSlotN s = withRings g s) ∧ ∀ k, k < 64 → ringGet (clearSlotN s) k = { ringGet s k with slotN := 0 } := by
  obtain ⟨hframe, hget⟩ := foldl_freshRing (List.range 64) s
  exact ⟨hframe, fun k hk => (hget k).trans (if_pos (List.mem_range.mpr hk))⟩

/-- Nothing is left to do in shared memory, and no delta waits. -/
theorem slotWork_idle {s : State} (htodo : s.hif.todo = []) (hcopies : s.hif.copies = []) (hd : NoDeltas s) : slotWork s = s := by
  have h1 : ({ s with hif := { s.hif with todo := [] } } : State) = s := by
    conv_rhs => rw [show s = { s with hif := { s.hif with todo := s.hif.todo } } from rfl, htodo]
  have h2 : ({ s with hif := { s.hif with copies := [] } } : State) = s := by
    conv_rhs => rw [show s = { s with hif := { s.hif with copies := s.hif.copies } } from rfl, hcopies]
  have hgo (k : Nat) (hk : k < 4) : deltaGo k s = s := deltaGo_idle (hd k hk).1 (hd k hk).2
  dsimp only at h1 h2
  unfold slotWork
  dsimp only
  rw [htodo, List.foldl_nil, h1, hcopies, List.foldl_nil, h2]
  simp only [List.foldl_cons, List.foldl_nil, hgo 0 (by decide), hgo 1 (by decide), hgo 2 (by decide), hgo 3 (by decide)]

/-- The registers of HIF at the start of a slot with the MFN `n`. -/
def openedHif (n : W64) (h : HifRegs) : HifRegs :=
  { h with inSlot := true, closed := false, slotMfn := n, fetched := 0, opps := 0,
           waiting := h.waiting.map fun c => { c with hold := false } }

/-- The unit at the start of a host slot, before it reads anything. -/
def slotOpened (n : W64) (s : State) : State := clearSlotN { slotReached bHIF s with hif := openedHif n s.hif }

theorem slotOpened_eq (n : W64) (s : State) :
    ∃ g, slotOpened n s = { slotReached bHIF s with hif := { openedHif n s.hif with rings := g } } :=
  (clearSlotN_spec _).1

theorem slotReached_solv (b : Nat) (s : State) : (slotReached b s).solv = s.solv ∧ (slotReached b s).hif = s.hif := by
  obtain ⟨x, hx⟩ := slotReached_eq b s
  rw [hx]
  exact ⟨rfl, rfl⟩

theorem slotOpened_noDeltas {n : W64} {s : State} (h : NoDeltas s) : NoDeltas (slotOpened n s) := by
  obtain ⟨g, hg⟩ := slotOpened_eq n s
  have hslot (k : Nat) : slotGet (slotOpened n s) k = slotGet s k := by
    rw [hg]
    exact congrArg (fun v : SolvRegs => tblGet v.slots k {}) (slotReached_solv bHIF s).1
  intro k hk
  rw [hslot]
  exact h k hk

/-- What a slot does once it is open (Table 13-5). -/
theorem slotStart_eq (n : W64) (s : State) :
    slotStart n s =
      if !(slotOpened n s).hif.bme || (slotOpened n s).hif.d3 then slotWork (slotOpened n s)
      else
        let s2 := issueWaiting (slotOpened n s)
        let s3 := if enOf s2 bHIF then emitAll (doorbellReads s2) s2 else s2
        pump (slotWork (s3.hif.late.foldl (fun t w => takeRead w t) { s3 with hif := { s3.hif with late := [] } })) := by
  unfold slotStart slotOpened openedHif
  dsimp only

/-- Without Bus Master Enable, or in D3hot, the slot opens and reads nothing. -/
theorem slotStart_shut {n : W64} {s : State} (h : s.hif.bme = false ∨ s.hif.d3 = true) (hwork : NoHostWork s) :
    slotStart n s = slotOpened n s := by
  obtain ⟨-, -, -, hcopies, htodo, hd⟩ := hwork
  obtain ⟨g, hg⟩ := slotOpened_eq n s
  have hshut : (!(slotOpened n s).hif.bme || (slotOpened n s).hif.d3) = true := by
    rw [hg]
    change (!s.hif.bme || s.hif.d3) = true
    obtain h | h := h <;> simp [h]
  have hidle : slotWork (slotOpened n s) = slotOpened n s := by
    refine slotWork_idle ?_ ?_ (slotOpened_noDeltas hd)
    · rw [hg]; exact htodo
    · rw [hg]; exact hcopies
  rw [slotStart_eq, if_pos hshut, hidle]

theorem issueWaiting_nothing {s : State} (hw : s.hif.writes = []) (hr : s.hif.reads = []) : issueWaiting s = s := by
  have h1 : ({ s with hif := { s.hif with writes := [], reads := [] } } : State) = s := by
    conv_rhs => rw [show s = { s with hif := { s.hif with writes := s.hif.writes, reads := s.hif.reads } } from rfl, hw, hr]
  unfold issueWaiting
  rw [hw, hr]
  exact h1

theorem takeLate_nothing {s : State} (h : s.hif.late = []) :
    s.hif.late.foldl (fun t w => takeRead w t) { s with hif := { s.hif with late := [] } } = s := by
  conv_rhs => rw [show s = { s with hif := { s.hif with late := s.hif.late } } from rfl, h]
  rw [h, List.foldl_nil]

/-- A slot that finds no work from before reads the doorbell records, and nothing else. -/
theorem slotStart_reads {n : W64} {s : State} (hbme : s.hif.bme = true) (hd3 : s.hif.d3 = false) (hen : enOf s bHIF = true)
    (hq : ∀ r, r < 64 → (ringGet s r).queue = []) (hwork : NoHostWork s) :
    slotStart n s = emitAll (doorbellReads (slotOpened n s)) (slotOpened n s) := by
  obtain ⟨hlate, hreads, hwrites, hcopies, htodo, hd⟩ := hwork
  obtain ⟨g, hg⟩ := slotOpened_eq n s
  have hopen : ¬(!(slotOpened n s).hif.bme || (slotOpened n s).hif.d3) = true := by
    rw [hg]
    change ¬(!s.hif.bme || s.hif.d3) = true
    simp [hbme, hd3]
  have hissue : issueWaiting (slotOpened n s) = slotOpened n s := by
    refine issueWaiting_nothing ?_ ?_
    · rw [hg]; exact hwrites
    · rw [hg]; exact hreads
  have hen1 : enOf (slotOpened n s) bHIF = true := by
    rw [hg]
    exact (enOf_slotReached bHIF bHIF s).trans hen
  have hlate1 : (slotOpened n s).hif.late = [] := by rw [hg]; exact hlate
  have htodo1 : (slotOpened n s).hif.todo = [] := by rw [hg]; exact htodo
  have hcopies1 : (slotOpened n s).hif.copies = [] := by rw [hg]; exact hcopies
  have hd1 := slotOpened_noDeltas (n := n) hd
  have hq1 (k : Nat) (hk : k < 64) : (ringGet (slotOpened n s) k).queue = [] := by
    rw [slotOpened, (clearSlotN_spec _).2 k hk]
    exact hq k hk
  rw [slotStart_eq, if_neg hopen]
  dsimp only
  rw [hissue, if_pos hen1]
  clear hg hopen hissue
  generalize slotOpened n s = u at hen1 hlate1 htodo1 hcopies1 hd1 hq1 ⊢
  have hlast := takeLate_nothing (s := emitAll (doorbellReads u) u) hlate1
  dsimp only at hlast
  rw [hlast, slotWork_idle (s := emitAll (doorbellReads u) u) htodo1 hcopies1 hd1]
  exact pump_of_empty hq1

/-! ### A doorbell record (R375, R376) -/

/-- The change of VACK completes sources, and changes nothing else. -/
theorem vackDone_eq (v : Nat) (s : State) : ∃ q, vackDone v s = { s with irq := q } := by
  unfold vackDone
  refine List.foldlRecOn (motive := fun u => ∃ q, u = { s with irq := q }) _ _ ⟨s.irq, rfl⟩ fun u hu n _ => ?_
  obtain ⟨q, rfl⟩ := hu
  dsimp only
  split_ifs
  · exact ⟨_, rfl⟩
  · exact ⟨q, rfl⟩

/-- What is fetched of a ring in this slot. -/
def fetchCount (g : Ring) (s : State) : Nat := min (newEntries g) (min (32 - g.slotN) (128 - s.hif.fetched))

/-- The reads of new entries: the ring expects them, the slot counts them, and nothing else has changed. -/
theorem fetchRing_spec {r : Nat} {s : State} (hon : ringOn s r = true) (hserves : hifServes s = true) :
    let g := ringGet s r
    let k := fetchCount g s
    ringGet (fetchRing r s) r = { g with fetching := g.fetching + k, slotN := g.slotN + k } ∧
      (∀ i, i ≠ r → ringGet (fetchRing r s) i = ringGet s i) ∧ (fetchRing r s).hif.fetched = s.hif.fetched + k ∧
      (fetchRing r s).blk = s.blk ∧ (fetchRing r s).out = (if k = 0 then [] else (descReads g k).reverse) ++ s.out := by
  intro g k
  by_cases hk : k = 0
  · have hsame : fetchRing r s = s := if_pos (.inl hk)
    rw [hsame, hk]
    exact ⟨rfl, fun _ _ => rfl, rfl, rfl, rfl⟩
  · have hread : ¬(k = 0 ∨ (!ringOn s r) = true ∨ (!hifServes s) = true) := by simp [hk, hon, hserves]
    have heq : fetchRing r s = _ := if_neg hread
    rw [heq, if_neg hk]
    exact ⟨ringGet_ringPut s r _, fun i hi => ringGet_ringPut_ne s _ hi, rfl, rfl, rfl⟩

/-- A ring with a doorbell record taken. -/
def ringTaken (g : Ring) (b : Bytes) : Ring :=
  { g with
    lastIgnored := false, sqt := BitVec.ofNat 32 (u32 b 0), cqh := BitVec.ofNat 32 (u32 b 4), vack := BitVec.ofNat 32 (u32 b 8),
    unread := g.unread - (u32 b 4 + ringSize g.cqLog - g.cqh.toNat) % ringSize g.cqLog }

theorem newEntries_ringTaken (g : Ring) (b : Bytes) :
    newEntries (ringTaken g b) =
      (u32 b 0 + 2 * 2 ^ g.sqLog.toNat - g.sqHead.toNat - g.fetching) % 2 ^ g.sqLog.toNat := by
  have hsqt : (BitVec.ofNat 32 (u32 b 0)).toNat = u32 b 0 := Nat.mod_eq_of_lt (u32_lt b 0)
  simp only [newEntries, ringTaken, ringSize, hsqt]

/-- A record inside its rings is taken, and the new entries are fetched. -/
theorem takeDoorbell_good {r : Nat} {b : Bytes} {s : State} (hon : ringOn s r = true)
    (hgood : doorbellBad (ringGet s r) (u32 b 0) (u32 b 4) = false) :
    ∃ q, takeDoorbell r b s = fetchRing r { ringPut s r (ringTaken (ringGet s r) b) with irq := q } := by
  unfold takeDoorbell
  dsimp only
  rw [hon, hgood, Bool.not_true, if_neg Bool.false_ne_true, if_neg Bool.false_ne_true]
  split_ifs
  · exact ⟨s.irq, rfl⟩
  · obtain ⟨q, hq⟩ := vackDone_eq r (ringPut s r (ringTaken (ringGet s r) b))
    exact ⟨q, congrArg (fetchRing r) hq⟩

theorem takeDoorbell_bad {r : Nat} {b : Bytes} {s : State} (hon : ringOn s r = true)
    (hbad : doorbellBad (ringGet s r) (u32 b 0) (u32 b 4) = true) :
    takeDoorbell r b s = count bHIF 1 (ringPut s r { ringGet s r with ringErr := true, lastIgnored := true }) := by
  unfold takeDoorbell
  dsimp only
  rw [hon, hbad]
  rfl

theorem doorbellBad_iff (g : Ring) (sqt cqh : Nat) :
    doorbellBad g sqt cqh = true ↔
      2 ^ g.sqLog.toNat ≤ sqt ∨ 2 ^ g.cqLog.toNat ≤ cqh ∨
        g.unread < (cqh + 2 ^ g.cqLog.toNat - g.cqh.toNat) % 2 ^ g.cqLog.toNat := by
  simp only [doorbellBad, ringSize, Bool.or_eq_true, or_assoc]
  exact or_congr decide_eq_true_iff (or_congr decide_eq_true_iff decide_eq_true_iff)

/-- Entries that do not reach over the wrap are read in one piece. -/
theorem descReads_one {g : Ring} {k : Nat} (hk : 0 < k)
    (hfit : (g.sqHead.toNat + g.fetching) % 2 ^ g.sqLog.toNat + k ≤ 2 ^ g.sqLog.toNat) :
    descReads g k =
      [.hostRead (g.sqBase + BitVec.ofNat 64 (64 * ((g.sqHead.toNat + g.fetching) % 2 ^ g.sqLog.toNat))) (64 * k)] := by
  have hmin : min k (2 ^ g.sqLog.toNat - (g.sqHead.toNat + g.fetching) % 2 ^ g.sqLog.toNat) = k := Nat.min_eq_left (by omega)
  unfold descReads ringSize
  dsimp only
  rw [hmin, if_neg (by omega), if_pos rfl]

/-! ### Configuration and the reset of the function (R372, R373) -/

theorem linkUp_spec (s : State) :
    (linkUp s).hif.link = true ∧
      (s.hif.link = true → (linkUp s).hif.width = s.hif.width ∧ (linkUp s).hif.speed = s.hif.speed) ∧
      (linkUp s).hif.rings = s.hif.rings ∧ { linkUp s with hif := s.hif, free := s.free } = s := by
  unfold linkUp
  split_ifs with h
  · exact ⟨h, fun _ => ⟨rfl, rfl⟩, rfl, rfl⟩
  · exact ⟨rfl, fun h' => absurd h' h, rfl, rfl⟩

/-! ### The obligation -/

/-- The slot row of a host slot, in the schedule or before it. -/
theorem slotRow_starts {row : Instr} {s : State}
    (h : (row = .hostSlotStart ∧ inSlotOf s 17 = true ∧ frozenM s 17 = false) ∨
      (row = .bootHostSlot ∧ s.sched.run = false ∧ 3 ≤ s.sys.stage.toNat ∧ s.sys.stage ≠ 0xF)) :
    exec row s = .next (slotStart (if row = .hostSlotStart then s.sched.mfn else 0) s) := by
  obtain ⟨rfl, hin, hfroz⟩ | ⟨rfl, hrun, hstage, hboot⟩ := h
  · exact congrArg Host.Outcome.next (if_pos (by rw [hin, hfroz]; rfl))
  · exact congrArg Host.Outcome.next (if_pos (by
      simp only [hrun, Bool.not_false, Bool.true_and, Bool.and_eq_true, decide_eq_true_eq, bne_iff_ne]
      exact ⟨hstage, hboot⟩))

theorem slotOpened_waiting (n : W64) (s : State) :
    (slotOpened n s).hif.waiting = s.hif.waiting.map fun c => { c with hold := false } := by
  obtain ⟨g, hg⟩ := slotOpened_eq n s
  rw [hg]
  rfl

theorem slotOpened_frame (n : W64) (s : State) : { slotOpened n s with hif := s.hif } = slotReached bHIF s := by
  obtain ⟨g, hg⟩ := slotOpened_eq n s
  obtain ⟨x, hx⟩ := slotReached_eq bHIF s
  rw [hg, hx]

/-- Settles O25. -/
theorem hostSlotsReadTheDoorbells : Obligations.HostSlotsReadTheDoorbells := by
  refine ⟨fun row s hrow hwork => ⟨fun hbme hd3 hen hq => ?_, fun hshut => ?_⟩, fun r b s hopen hfroz hen hon => ?_,
    fun bme d3 fm s => ?_, fun s => ?_⟩
  · have hstart := slotStart_reads (n := if row = .hostSlotStart then s.sched.mfn else 0) hbme hd3 hen hq hwork
    refine ⟨_, (slotRow_starts hrow).trans (congrArg Host.Outcome.next hstart), ?_⟩
    generalize (if row = .hostSlotStart then s.sched.mfn else 0) = n
    obtain ⟨g, hg⟩ := slotOpened_eq n s
    obtain ⟨x, hx⟩ := slotReached_eq bHIF s
    have hrings (r : Nat) (hr : r < 64) : ringGet (slotOpened n s) r = { ringGet s r with slotN := 0 } :=
      (clearSlotN_spec _).2 r hr
    have hwait := slotOpened_waiting n s
    have hframe := slotOpened_frame n s
    rw [hg] at hrings hwait hframe ⊢
    refine ⟨?_, ?_, rfl, rfl, hrings, ?_, ?_⟩
    · rw [hx]
      rfl
    · change (true && !false && s.hif.bme && !s.hif.d3) = true
      rw [hbme, hd3]
      rfl
    · intro c hc
      change c ∈ s.hif.waiting.map _ at hc
      obtain ⟨e, -, rfl⟩ := List.mem_map.mp hc
      rfl
    · rw [hx]
      rfl
  · refine ⟨_, (slotRow_starts hrow).trans (congrArg Host.Outcome.next (slotStart_shut hshut hwork)), ?_⟩
    generalize (if row = .hostSlotStart then s.sched.mfn else 0) = n
    obtain ⟨g, hg⟩ := slotOpened_eq n s
    refine ⟨by rw [hg]; rfl, ?_, slotOpened_waiting n s, slotOpened_frame n s⟩
    rw [hg]
    change (true && !false && s.hif.bme && !s.hif.d3) = false
    obtain h | h := hshut <;> simp [h]
  · intro g sqt cqh q c freed k
    have hexec (w : HostRead) := takesReads hopen hfroz w
    refine ⟨fun hsqt hcqh hfreed => ?_, fun hbad => ?_⟩
    · have hgood : doorbellBad (ringGet s r) (u32 b 0) (u32 b 4) = false := by
        rw [Bool.eq_false_iff, ne_eq, doorbellBad_iff]
        change ¬(q ≤ sqt ∨ c ≤ cqh ∨ g.unread < freed)
        omega
      obtain ⟨irq, htake⟩ := takeDoorbell_good hon hgood
      have hget : ringGet { ringPut s r (ringTaken (ringGet s r) b) with irq := irq } r = ringTaken g b := ringGet_ringPut s r _
      have hk : fetchCount (ringTaken g b) s = k := by
        unfold fetchCount
        rw [newEntries_ringTaken]
        rfl
      obtain ⟨hring, hothers, hfetched, hblk, hout⟩ :=
        fetchRing_spec (r := r) (s := { ringPut s r (ringTaken (ringGet s r) b) with irq := irq }) hon (hifServes_of hopen hfroz hen)
      rw [hget] at hring hfetched hout
      change _ = s.hif.fetched + fetchCount (ringTaken g b) s at hfetched
      change _ = { ringTaken g b with
        fetching := g.fetching + fetchCount (ringTaken g b) s, slotN := g.slotN + fetchCount (ringTaken g b) s } at hring
      change _ = (if fetchCount (ringTaken g b) s = 0 then [] else
        (descReads (ringTaken g b) (fetchCount (ringTaken g b) s)).reverse) ++ s.out at hout
      rw [hk] at hring hfetched hout
      refine ⟨_, (hexec _).trans (congrArg Host.Outcome.next htake), hring, fun i hi => ?_, hfetched, hblk, fun h0 => ?_,
        fun hpos hfit => ?_⟩
      · exact (hothers i hi).trans (ringGet_ringPut_ne s _ hi)
      · rw [hout, if_pos h0]
        rfl
      · rw [hout, if_neg (by omega), descReads_one (g := ringTaken g b) hpos hfit]
        rfl
    · have hbad : doorbellBad (ringGet s r) (u32 b 0) (u32 b 4) = true := (doorbellBad_iff _ _ _).mpr hbad
      refine ⟨_, (hexec _).trans (congrArg Host.Outcome.next (takeDoorbell_bad hon hbad)), ?_, fun i hi => ?_, ?_, rfl⟩
      · exact ringGet_ringPut s r _
      · exact ringGet_ringPut_ne s _ hi
      · exact counted_of_blk (u := ringPut s r { ringGet s r with ringErr := true, lastIgnored := true }) rfl rfl
  · obtain ⟨hlink, hspeed, hrings, hframe⟩ := linkUp_spec s
    exact ⟨_, rfl, rfl, rfl, rfl, hlink, hspeed, hrings, hframe⟩
  · exact ⟨_, rfl, rfl, fun _ => rfl, rfl, rfl, rfl, rfl, rfl, rfl, rfl, rfl⟩

end Sys2Proof.Proofs
end

section
/-! PROOFS. The close point: completions, the status page, and messages (R377, R378, R380, R382, R390). -/

namespace Sys2Proof.Proofs

open Sys2Proof.Machine Sys2Proof.Laws

/-! ### Bits and lists -/

theorem getLsbD_putBit {w : Nat} (x : BitVec w) {i : Nat} (hi : i < w) (b : Bool) (k : Nat) :
    (putBit x i b).getLsbD k = if k = i then b else x.getLsbD k := by
  have hone : ((1#w) <<< i).getLsbD k = decide (k = i) := by
    rw [BitVec.getLsbD_shiftLeft, BitVec.getLsbD_one]
    by_cases hk : k = i
    · subst hk
      simp [hi]
      omega
    · by_cases hlt : k < i
      · simp [hlt, hk]
      · have hsub : ¬k - i = 0 := by omega
        simp [hsub, hk]
  unfold putBit
  cases b with
  | true =>
    rw [if_pos rfl, BitVec.getLsbD_or, hone]
    by_cases hk : k = i <;> simp [hk]
  | false =>
    rw [if_neg Bool.false_ne_true, BitVec.getLsbD_and, BitVec.getLsbD_not, hone]
    by_cases hk : k = i
    · simp [hk]
    · by_cases hkw : k < w
      · simp [hk, hkw]
      · simp [hk, BitVec.getLsbD_of_ge x k (Nat.not_lt.mp hkw)]

/-- A filter that one number below the bound alone passes. -/
theorem filter_range_one {N n : Nat} {p : Nat → Bool} (hn : n < N) (hp : ∀ k, k < N → (p k = true ↔ k = n)) :
    (List.range N).filter p = [n] := by
  have hcongr : (List.range N).filter p = (List.range N).filter (· == n) := by
    refine List.filter_congr fun k hk => ?_
    rw [Bool.eq_iff_iff, hp k (List.mem_range.mp hk), beq_iff_eq]
  rw [hcongr, List.filter_beq, List.count_eq_one_of_mem List.nodup_range (List.mem_range.mpr hn)]
  rfl

/-! ### The status page (R378) -/

/-- The status page of the unit is written after `older`: SEQ_A, the ring records, the body, SEQ_B. -/
def PageWritten (s : State) (o older : List Out) : Prop :=
  ∃ recs body : Bytes, recs.length = 2048 ∧ body.length = 2032 ∧
    o = .hostWrite (s.hif.stAddr + BitVec.ofNat 64 0xFF8) (leBytes 8 (s.hif.seq + 1).toNat) ::
      .hostWrite (s.hif.stAddr + BitVec.ofNat 64 0x808)
        (leBytes 8 s.hif.slotMfn.toNat ++ leBytes 8 (if s.sched.run then s.sched.kmf.toNat else 0) ++ body.drop 16) ::
      .hostWrite (s.hif.stAddr + BitVec.ofNat 64 0) recs ::
      .hostWrite (s.hif.stAddr + BitVec.ofNat 64 0x800) (leBytes 8 (s.hif.seq + 1).toNat) :: older

theorem ringRecord_length (s : State) (r : Nat) : (ringRecord s r).length = 32 := by
  simp [ringRecord, leBytes_length, zeros]

theorem length_flatten_of_const {α β : Type} (l : List α) (f : α → List β) {n : Nat} (h : ∀ a, (f a).length = n) :
    (l.map f).flatten.length = l.length * n := by
  induction l with
  | nil => simp
  | cons a l ih => rw [List.map_cons, List.flatten_cons, List.length_append, h, ih, List.length_cons, Nat.succ_mul, Nat.add_comm]

theorem statusBody_length (s : State) : (statusBody s).length = 2032 := by
  have hblks : (((List.range 21).map fun b => leBytes 4 (blkStatus s b).toNat).flatten).length = 84 :=
    length_flatten_of_const (List.range 21) (fun b => leBytes 4 (blkStatus s b).toNat) fun b => leBytes_length 4 _
  simp only [statusBody, List.length_append, leBytes_length, hblks, zeros, List.length_replicate]

theorem statusBody_head (s : State) :
    statusBody s = leBytes 8 s.hif.slotMfn.toNat ++ leBytes 8 (if s.sched.run then s.sched.kmf.toNat else 0) ++
      (statusBody s).drop 16 := by
  have hlen : (leBytes 8 s.hif.slotMfn.toNat ++ leBytes 8 (if s.sched.run then s.sched.kmf.toNat else 0)).length = 16 := by
    rw [List.length_append, leBytes_length, leBytes_length]
  unfold statusBody
  simp only [List.append_assoc] at hlen ⊢
  rw [← List.append_assoc, ← List.append_assoc (leBytes 8 _) (leBytes 8 _), List.drop_left' hlen]

theorem writeStatusPage_page (s : State) : PageWritten s (writeStatusPage s).out s.out := by
  refine ⟨((List.range 64).map (ringRecord s)).flatten, statusBody s, ?_, statusBody_length s, ?_⟩
  · exact length_flatten_of_const (List.range 64) (ringRecord s) (ringRecord_length s)
  · rw [← statusBody_head]
    rfl

/-- The page depends on the addresses and counts alone. -/
theorem pageWritten_congr {s u : State} (hh : u.hif.stAddr = s.hif.stAddr ∧ u.hif.seq = s.hif.seq ∧ u.hif.slotMfn = s.hif.slotMfn)
    (hs : u.sched = s.sched) {o older : List Out} (h : PageWritten u o older) : PageWritten s o older := by
  obtain ⟨ha, hq, hm⟩ := hh
  unfold PageWritten at h ⊢
  rwa [ha, hq, hm, hs] at h

/-! ### Messages (R390) -/

theorem eligibleSrc_iff (s : State) (n : Nat) (hn : n < 344) (ht : (srcGet s n).target.toNat = 2) :
    eligibleSrc s n = true ↔ Presentable s 2 n := by
  have htarget : ((srcGet s n).target == 2) = true := by
    rw [beq_iff_eq]
    exact BitVec.eq_of_toNat_eq ht
  unfold eligibleSrc Presentable
  dsimp only
  rw [htarget]
  simp only [holdRuns, hn, ht, Bool.true_or, Bool.and_eq_true, Bool.not_eq_true', true_and, true_or, Bool.and_true, and_assoc,
    bne_iff_ne, ← Bool.not_eq_true, decide_eq_true_eq]

/-- Without a source on MSI-X nothing is selected. -/
theorem selectVecs_none {s : State} (h : ∀ n, n < 344 → (srcGet s n).target.toNat = 2 → ¬eligibleSrc s n = true) :
    selectVecs s = s := by
  have hnone : eligibleFor s 2 = [] := by
    refine List.filter_eq_nil_iff.mpr fun n hn => ?_
    rw [Bool.and_eq_true, beq_iff_eq]
    exact fun hp => h n (List.mem_range.mp hn) hp.1 hp.2
  refine foldl_fixed_of_mem fun v _ => ?_
  unfold selectVec
  rw [hnone]
  rfl

theorem sendVec_silent {s : State} {v : Nat} (h : s.hif.pba.getLsbD v = true → s.hif.fnMask = false → (vecGet s v).getLsbD 96 = true) :
    sendVec s v = s := by
  refine if_neg ?_
  simp only [Bool.and_eq_true, Bool.not_eq_true']
  rintro ⟨⟨hpba, hmask⟩, hvec⟩
  rw [h hpba hmask] at hvec
  cases hvec

/-- With no pending bit nothing is sent. -/
theorem sendVecs_none {s : State} (h : s.hif.pba = 0) : sendVecs s = s := by
  refine foldl_fixed_of_mem fun v _ => sendVec_silent fun hpba => ?_
  rw [h] at hpba
  simp at hpba

/-- One source selected for MSI-X and delivered to its vector, whose pending bit is set. -/
def delivered2 (n v : Nat) (s : State) : State :=
  let s1 := deliverSrc n 2 v (selectSrc n s)
  { s1 with hif := { s1.hif with pba := putBit s1.hif.pba v true } }

theorem selectSrc_frame (n : Nat) (s : State) : ∃ g, selectSrc n s = { srcPut s n { srcGet s n with selAt := some s.time.tbc } with
    irq := { (srcPut s n { srcGet s n with selAt := some s.time.tbc }).irq with grp := g } } := by
  unfold selectSrc
  dsimp only
  split_ifs
  · exact ⟨_, rfl⟩
  · exact ⟨_, rfl⟩

theorem delivered2_src (n v : Nat) (s : State) :
    (srcGet (delivered2 n v s) n).pend = false ∧ (srcGet (delivered2 n v s) n).insvc = isLevel n ∧
      ∀ k, k ≠ n → srcGet (delivered2 n v s) k = srcGet s k := by
  obtain ⟨g, hg⟩ := selectSrc_frame n s
  have hn : srcGet (delivered2 n v s) n = _ := srcGet_srcPut (selectSrc n s) n _
  refine ⟨by rw [hn], by rw [hn], fun k hk => ?_⟩
  calc srcGet (delivered2 n v s) k = srcGet (selectSrc n s) k := srcGet_srcPut_ne (selectSrc n s) _ hk
    _ = srcGet (srcPut s n { srcGet s n with selAt := some s.time.tbc }) k := by rw [hg]; rfl
    _ = srcGet s k := srcGet_srcPut_ne s _ hk

/-- The delivery changes IRQ and the pending bits alone. -/
theorem delivered2_frame (n v : Nat) (s : State) :
    ∃ q, delivered2 n v s = { s with irq := q, hif := { s.hif with pba := putBit s.hif.pba v true } } := by
  obtain ⟨g, hg⟩ := selectSrc_frame n s
  unfold delivered2 deliverSrc
  rw [hg]
  exact ⟨_, rfl⟩

/-- A hold-off that starts stops no source of another group, and those of its own group were not stopped. -/
theorem delivered2_holds {n v k : Nat} {s : State} (hn : holdRuns s (srcGet s n).group.toNat = false)
    (hk : holdRuns (delivered2 n v s) k = false) : holdRuns s k = false := by
  by_cases hg : k = (srcGet s n).group.toNat
  · rw [hg]
    exact hn
  · have hsame : grpGetI (delivered2 n v s) k = grpGetI s k := by
      change grpGetI (selectSrc n s) k = _
      unfold selectSrc
      dsimp only
      split_ifs
      · rfl
      · exact tblGet_tblPut_ne _ _ _ hg
    obtain ⟨q, hq⟩ := delivered2_frame n v s
    have htbc : (delivered2 n v s).time = s.time := by rw [hq]
    unfold holdRuns at hk ⊢
    rwa [hsame, htbc] at hk

theorem levelCond_irq_pba (s : State) (q : IrqRegs) (p : W64) (k : Nat) :
    levelCond { s with irq := q, hif := { s.hif with pba := p } } k = levelCond s k := rfl

/-- After the delivery of the one eligible source none is eligible. -/
theorem delivered2_none {n v : Nat} {s : State} (hn : eligibleSrc s n = true)
    (hone : ∀ k, k < 344 → (srcGet s k).target.toNat = 2 → eligibleSrc s k = true → k = n) :
    ∀ k, k < 344 → (srcGet (delivered2 n v s) k).target.toNat = 2 → ¬eligibleSrc (delivered2 n v s) k = true := by
  obtain ⟨hpend, hinsvc, hothers⟩ := delivered2_src n v s
  obtain ⟨q, hq⟩ := delivered2_frame n v s
  have hnhold : holdRuns s (srcGet s n).group.toNat = false := by
    simp only [eligibleSrc, Bool.and_eq_true, Bool.not_eq_true'] at hn
    exact hn.2
  intro k hk ht hel
  by_cases hkn : k = n
  · subst hkn
    have hpendOf : pendOf (delivered2 k v s) k = false := by
      unfold pendOf
      rw [hpend, hinsvc]
      split_ifs with hl
      · rw [hl]; exact Bool.and_false _
      · rfl
    simp only [eligibleSrc, hpendOf, Bool.false_and, Bool.false_eq_true] at hel
  · have hsrc := hothers k hkn
    refine hkn (hone k hk (by rwa [hsrc] at ht) ?_)
    have hp : pendOf (delivered2 n v s) k = pendOf s k := by
      unfold pendOf
      rw [hsrc, hq, levelCond_irq_pba]
    have he : enOf (delivered2 n v s) bIRQ = enOf s bIRQ := by rw [hq]; rfl
    unfold eligibleSrc at hel ⊢
    dsimp only at hel ⊢
    rw [hsrc, hp, he] at hel
    simp only [Bool.and_eq_true, Bool.not_eq_true'] at hel ⊢
    exact ⟨hel.1, delivered2_holds hnhold hel.2⟩

/-- The one eligible source is delivered to its vector. -/
theorem selectVecs_one {n : Nat} {s : State} (hn : n < 344) (ht : (srcGet s n).target.toNat = 2) (hel : eligibleSrc s n = true)
    (hone : ∀ k, k < 344 → (srcGet s k).target.toNat = 2 → eligibleSrc s k = true → k = n) :
    selectVecs s = delivered2 n (srcGet s n).vec.toNat s := by
  have hlist : eligibleFor s 2 = [n] := by
    refine filter_range_one hn fun k hk => ?_
    rw [Bool.and_eq_true, beq_iff_eq]
    exact ⟨fun h => hone k hk h.1 h.2, fun h => h ▸ ⟨ht, hel⟩⟩
  have hfil : ([n].filter fun k => (srcGet s k).vec.toNat == (srcGet s n).vec.toNat) = [n] :=
    List.filter_cons_of_pos (beq_self_eq_true _)
  have hsel : selectVec s (srcGet s n).vec.toNat = delivered2 n (srcGet s n).vec.toNat s := by
    unfold selectVec
    rw [hlist, hfil]
    rfl
  unfold selectVecs
  rw [foldl_one_of_mem (f := selectVec) (r := (srcGet s n).vec.toNat) (List.mem_range.mpr (srcGet s n).vec.isLt) List.nodup_range, hsel]
  · intro v _ hv
    have hempty : ([n].filter fun k => (srcGet s k).vec.toNat == v) = [] :=
      List.filter_cons_of_neg (by rw [beq_iff_eq]; exact fun h => hv h.symm)
    unfold selectVec
    rw [hlist, hempty]
    rfl
  · intro v _ _
    have hnone : eligibleFor (delivered2 n (srcGet s n).vec.toNat s) 2 = [] := by
      refine List.filter_eq_nil_iff.mpr fun k hk => ?_
      rw [Bool.and_eq_true, beq_iff_eq]
      exact fun hp => delivered2_none hel hone k (List.mem_range.mp hk) hp.1 hp.2
    rw [hsel]
    unfold selectVec
    rw [hnone]
    rfl

/-- The message of a vector. -/
def message (v : Nat) (e : W128) : Out := .msix v (BitVec.ofNat 64 e.toNat) (BitVec.ofNat 32 (e.toNat / 2 ^ 64))

/-- One pending vector sends its message, unless it is masked. -/
theorem sendVecs_one {v : Nat} {s : State} (hv : v < 64) (hpba : ∀ k, s.hif.pba.getLsbD k = decide (k = v)) (hmask : s.hif.fnMask = false) :
    sendVecs s = if (vecGet s v).getLsbD 96 then s
      else emit (message v (vecGet s v)) { s with hif := { s.hif with pba := putBit s.hif.pba v false } } := by
  have hsend : sendVec s v = if (vecGet s v).getLsbD 96 then s
      else emit (message v (vecGet s v)) { s with hif := { s.hif with pba := putBit s.hif.pba v false } } := by
    have hbit : s.hif.pba.getLsbD v = true := by rw [hpba, decide_eq_true_eq]
    unfold sendVec
    rw [hbit, hmask]
    cases (vecGet s v).getLsbD 96 <;> rfl
  unfold sendVecs
  rw [foldl_one_of_mem (f := sendVec) (r := v) (List.mem_range.mpr hv) List.nodup_range, hsend]
  · intro k _ hk
    refine sendVec_silent fun h => ?_
    rw [hpba, decide_eq_true_eq] at h
    exact absurd h hk
  · intro k _ hk
    rw [hsend]
    refine sendVec_silent fun h => ?_
    have hclear : ¬s.hif.pba.getLsbD k = true := by rw [hpba, decide_eq_true_eq]; exact hk
    split_ifs at h
    · exact absurd h hclear
    · change (putBit s.hif.pba v false).getLsbD k = true at h
      rw [getLsbD_putBit _ hv, if_neg hk] at h
      exact absurd h hclear

/-! ### Completions (R377, R382) -/

/-- The host slot after its close point. -/
def closedSlot (s : State) : State := { s with hif := { s.hif with closed := true } }

theorem closeBacklogs_none {s : State} (h : ∀ r, (ringGet s r).backlog = []) : (List.range 64).foldl closeBacklog s = s := by
  refine foldl_fixed_of_mem fun r _ => ?_
  unfold closeBacklog
  dsimp only
  rw [h r]
  rfl

/-- With no backlog, no source on MSI-X and no pending bit, the close point writes the completions and the status page. -/
theorem closePoint_page {s u : State} (hb : ∀ r, (ringGet s r).backlog = [])
    (hu : closeWaiting (s.hif.waiting.filter fun c => !c.hold) s = u)
    (hsrc : ∀ n, n < 344 → (srcGet u n).target.toNat ≠ 2) (hpba : u.hif.pba = 0) : closePoint s = writeStatusPage u := by
  unfold closePoint
  dsimp only
  rw [closeBacklogs_none hb, hu, selectVecs_none fun n hn h => absurd h (hsrc n hn)]
  exact sendVecs_none hpba

/-- The one waiting completion leaves the list before it is written. -/
theorem closeWaiting_one {s : State} {c : Compl} (hw : s.hif.waiting = [c]) (hh : c.hold = false) :
    closeWaiting (s.hif.waiting.filter fun c => !c.hold) s = closeCompl { s with hif := { s.hif with waiting := [] } } c := by
  have hfil : ([c].filter fun c => !c.hold) = [c] := List.filter_cons_of_pos (by rw [hh]; rfl)
  have herase : [c].erase c = [] := List.erase_cons_head c []
  rw [hw, hfil]
  unfold closeWaiting
  rw [hw, herase]
  rfl

/-- A waiting completion that is held is passed over. -/
theorem closeWaiting_held {s : State} {c : Compl} (hw : s.hif.waiting = [c]) (hh : c.hold = true) :
    closeWaiting (s.hif.waiting.filter fun c => !c.hold) s = s := by
  have hfil : ([c].filter fun c => !c.hold) = [] := List.filter_cons_of_neg (by rw [hh]; exact Bool.false_ne_true)
  rw [hw, hfil]
  rfl

theorem closeCompl_descriptor {s : State} {c : Compl} (h : c.unsol = false) : closeCompl s c = writeCompl c s := by
  unfold closeCompl
  dsimp only
  rw [h]
  rfl

theorem closeCompl_dropped {s : State} {c : Compl} (h : c.unsol = true) (hoff : ringOn s c.ring = false) :
    closeCompl s c = dropUnsol c.ring s := by
  unfold closeCompl
  dsimp only
  rw [h, hoff]
  rfl

/-- The ring whose next entry has been written. -/
def ringWritten (g : Ring) : Ring :=
  { g with
    cqTail := BitVec.ofNat 16 ((g.cqTail.toNat + 1) % ringSize g.cqLog),
    phase := if (g.cqTail.toNat + 1) % ringSize g.cqLog = 0 then !g.phase else g.phase, unread := g.unread + 1 }

/-- The entry of a completion at the tail of its ring. -/
def entryWrite (c : Compl) (g : Ring) : Out :=
  .hostWrite (g.cqBase + BitVec.ofNat 64 (16 * g.cqTail.toNat)) (complBytes c g.phase)

theorem writeCompl_eq {s : State} {c : Compl} (h : c.retire = none) :
    writeCompl c s = irqEdge (128 + c.ring) (emit (entryWrite c (ringGet s c.ring)) (ringPut s c.ring (ringWritten (ringGet s c.ring)))) := by
  unfold writeCompl
  dsimp only
  rw [h]
  rfl

/-- What the write of a completion changes: its ring, its interrupt source and the output. -/
theorem writeCompl_frame {s : State} {c : Compl} (h : c.retire = none) :
    ∃ q g, writeCompl c s = { s with irq := q, hif := { s.hif with rings := g }, out := entryWrite c (ringGet s c.ring) :: s.out } := by
  rw [writeCompl_eq h]
  exact ⟨_, _, rfl⟩

theorem writeCompl_ring {s : State} {c : Compl} (h : c.retire = none) :
    ringGet (writeCompl c s) c.ring = ringWritten (ringGet s c.ring) := by
  rw [writeCompl_eq h]
  exact ringGet_ringPut s c.ring _

theorem writeCompl_src {s : State} {c : Compl} (h : c.retire = none) :
    (srcGet (writeCompl c s) (128 + c.ring)).pend = true ∧ ∀ n, (srcGet (writeCompl c s) n).target = (srcGet s n).target := by
  rw [writeCompl_eq h]
  refine ⟨?_, fun n => ?_⟩
  · exact congrArg IrqSrc.pend (srcGet_srcPut _ (128 + c.ring) _)
  · by_cases hn : n = 128 + c.ring
    · rw [hn]
      exact (congrArg IrqSrc.target (srcGet_srcPut _ (128 + c.ring) _)).trans rfl
    · exact congrArg IrqSrc.target (srcGet_srcPut_ne _ _ hn)

theorem writeStatusPage_frame (s : State) : ∃ o, writeStatusPage s = { s with hif := { s.hif with seq := s.hif.seq + 1 }, out := o } :=
  ⟨_, rfl⟩

theorem complBytes_descriptor {c : Compl} (h : c.unsol = false) (phase : Bool) :
    complBytes c phase = leBytes 8 c.data.toNat ++ leBytes 2 c.sqidx.toNat ++ leBytes 2 c.tag.toNat ++
      [c.opcode, c.status, BitVec.ofNat 8 (if phase then 1 else 0), c.src] := by
  unfold complBytes
  rw [h]
  cases phase <;> rfl

/-! ### The row -/

/-- What an active close point does, when the deltas have nothing to do in it. -/
theorem execClosePoint_runs {s t : State} (hf : frozenM s 17 = false) (hin : s.hif.inSlot = true) (hcl : s.hif.closed = false)
    (hd : NoDeltas s) (ht : (if !(closedSlot s).hif.bme || (closedSlot s).hif.d3 then closedSlot s else closePoint (closedSlot s)) = t)
    (hsolv : t.solv = s.solv) : exec .closePoint s = .next t := by
  have hgo : ∀ k ∈ [0, 1, 2, 3], deltaGo k t = t := fun k hk => by
    have hslot : slotGet t k = slotGet s k := congrArg (fun v : SolvRegs => tblGet v.slots k {}) hsolv
    obtain ⟨hw, hdel⟩ := hd k (by fin_cases hk <;> decide)
    exact deltaGo_idle (by rw [hslot]; exact hw) (by rw [hslot]; exact hdel)
  have hexec : exec .closePoint s = execClosePoint s := rfl
  rw [hexec]
  unfold execClosePoint
  rw [if_neg (by rw [hf, hin, hcl]; decide)]
  subst ht
  exact congrArg Host.Outcome.next (foldl_fixed_of_mem hgo)

theorem execClosePoint_shut {s : State} (h : s.hif.inSlot = false ∨ s.hif.closed = true) : exec .closePoint s = .next s := by
  have hexec : exec .closePoint s = execClosePoint s := rfl
  rw [hexec]
  unfold execClosePoint
  rw [if_pos]
  rcases h with h | h <;> simp [h]

theorem execClosePoint_page {s u : State} (hf : frozenM s 17 = false) (hin : s.hif.inSlot = true) (hcl : s.hif.closed = false)
    (hd : NoDeltas s) (hbme : s.hif.bme = true) (hd3 : s.hif.d3 = false) (hb : ∀ r, (ringGet s r).backlog = [])
    (hu : closeWaiting (s.hif.waiting.filter fun c => !c.hold) (closedSlot s) = u)
    (hsrc : ∀ n, n < 344 → (srcGet u n).target.toNat ≠ 2) (hpba : u.hif.pba = 0) (hsolv : u.solv = s.solv) :
    exec .closePoint s = .next (writeStatusPage u) := by
  refine execClosePoint_runs hf hin hcl hd ?_ hsolv
  have hopen : (!(closedSlot s).hif.bme || (closedSlot s).hif.d3) = false := by
    change (!s.hif.bme || s.hif.d3) = false
    rw [hbme, hd3]
    rfl
  rw [hopen]
  exact closePoint_page hb hu hsrc hpba

/-- The unit with its host slot closed and its waiting completions taken. -/
def closingSlot (s : State) : State := { s with hif := { s.hif with closed := true, waiting := [] } }

/-- One waiting completion of a descriptor is written before the status page. -/
theorem closePoint_writes {s : State} {c : Compl} (hf : frozenM s 17 = false) (hin : s.hif.inSlot = true) (hcl : s.hif.closed = false)
    (hd : NoDeltas s) (hbme : s.hif.bme = true) (hd3 : s.hif.d3 = false) (hb : ∀ r, (ringGet s r).backlog = [])
    (hw : s.hif.waiting = [c]) (hh : c.hold = false) (hretire : c.retire = none) (hunsol : c.unsol = false)
    (hpba : s.hif.pba = 0) (hsrc : ∀ n, n < 344 → (srcGet s n).target.toNat ≠ 2) :
    exec .closePoint s = .next (writeStatusPage (writeCompl c (closingSlot s))) := by
  obtain ⟨q, g, hframe⟩ := writeCompl_frame (s := closingSlot s) hretire
  have htarget := (writeCompl_src (s := closingSlot s) hretire).2
  have hone : closeWaiting (s.hif.waiting.filter fun c => !c.hold) (closedSlot s) = writeCompl c (closingSlot s) :=
    (closeWaiting_one (s := closedSlot s) hw hh).trans (closeCompl_descriptor hunsol)
  refine execClosePoint_page hf hin hcl hd hbme hd3 hb hone (fun n hn => ?_) (by rw [hframe]; exact hpba) (by rw [hframe]; rfl)
  rw [htarget]
  exact hsrc n hn

/-- An unsolicited completion of a ring that is off is dropped before the status page. -/
theorem closePoint_drops {s : State} {c : Compl} (hf : frozenM s 17 = false) (hin : s.hif.inSlot = true) (hcl : s.hif.closed = false)
    (hd : NoDeltas s) (hbme : s.hif.bme = true) (hd3 : s.hif.d3 = false) (hb : ∀ r, (ringGet s r).backlog = [])
    (hw : s.hif.waiting = [c]) (hh : c.hold = false) (hunsol : c.unsol = true) (hoff : ringOn s c.ring = false)
    (hpba : s.hif.pba = 0) (hsrc : ∀ n, n < 344 → (srcGet s n).target.toNat ≠ 2) :
    exec .closePoint s = .next (writeStatusPage (dropUnsol c.ring (closingSlot s))) :=
  execClosePoint_page hf hin hcl hd hbme hd3 hb
    ((closeWaiting_one (s := closedSlot s) hw hh).trans (closeCompl_dropped hunsol hoff)) hsrc hpba rfl

/-- A completion that waits for the next slot stays. -/
theorem closePoint_holds {s : State} {c : Compl} (hf : frozenM s 17 = false) (hin : s.hif.inSlot = true) (hcl : s.hif.closed = false)
    (hd : NoDeltas s) (hbme : s.hif.bme = true) (hd3 : s.hif.d3 = false) (hb : ∀ r, (ringGet s r).backlog = [])
    (hw : s.hif.waiting = [c]) (hh : c.hold = true) (hpba : s.hif.pba = 0) (hsrc : ∀ n, n < 344 → (srcGet s n).target.toNat ≠ 2) :
    exec .closePoint s = .next (writeStatusPage (closedSlot s)) :=
  execClosePoint_page hf hin hcl hd hbme hd3 hb (closeWaiting_held (s := closedSlot s) hw hh) hsrc hpba rfl

/-- The one eligible source is delivered before the status page, and its message follows. -/
theorem closePoint_sends {s : State} {n : Nat} (hf : frozenM s 17 = false) (hin : s.hif.inSlot = true) (hcl : s.hif.closed = false)
    (hd : NoDeltas s) (hbme : s.hif.bme = true) (hd3 : s.hif.d3 = false) (hb : ∀ r, (ringGet s r).backlog = [])
    (hw : s.hif.waiting = []) (hpba : s.hif.pba = 0) (hmask : s.hif.fnMask = false)
    (hp : Presentable s 2 n) (hone : ∀ k, Presentable s 2 k → k = n) :
    exec .closePoint s = .next (if (vecGet s (srcGet s n).vec.toNat).getLsbD 96 then
        writeStatusPage (delivered2 n (srcGet s n).vec.toNat (closedSlot s))
      else emit (message (srcGet s n).vec.toNat (vecGet s (srcGet s n).vec.toNat))
        { writeStatusPage (delivered2 n (srcGet s n).vec.toNat (closedSlot s)) with
          hif := { (writeStatusPage (delivered2 n (srcGet s n).vec.toNat (closedSlot s))).hif with
            pba := putBit (writeStatusPage (delivered2 n (srcGet s n).vec.toNat (closedSlot s))).hif.pba (srcGet s n).vec.toNat false } }) := by
  have hn := hp.1
  have htarget : (srcGet s n).target.toNat = 2 := hp.2.2.2.2.1
  have hv : (srcGet s n).vec.toNat < 64 := (srcGet s n).vec.isLt
  have hselect : selectVecs (closedSlot s) = delivered2 n (srcGet s n).vec.toNat (closedSlot s) :=
    selectVecs_one (s := closedSlot s) hn htarget ((eligibleSrc_iff (closedSlot s) n hn htarget).mpr hp)
      fun k hk ht hel => hone k ((eligibleSrc_iff (closedSlot s) k hk ht).mp hel)
  obtain ⟨q, hq⟩ := delivered2_frame n (srcGet s n).vec.toNat (closedSlot s)
  generalize delivered2 n (srcGet s n).vec.toNat (closedSlot s) = u at hselect hq ⊢
  have hclose : closePoint (closedSlot s) = sendVecs (writeStatusPage u) := by
    have hback : (List.range 64).foldl closeBacklog (closedSlot s) = closedSlot s := closeBacklogs_none hb
    have hwait : (closedSlot s).hif.waiting = [] := hw
    unfold closePoint
    rw [hback]
    dsimp only
    rw [hwait, ← hselect]
    rfl
  obtain ⟨o, ho⟩ := writeStatusPage_frame u
  have hsend := sendVecs_one (s := writeStatusPage u) hv (fun k => by
    rw [ho, hq]
    change (putBit s.hif.pba (srcGet s n).vec.toNat true).getLsbD k = _
    rw [getLsbD_putBit _ hv, hpba]
    by_cases hk : k = (srcGet s n).vec.toNat <;> simp [hk]) (by rw [ho, hq]; exact hmask)
  have hvec : vecGet (writeStatusPage u) (srcGet s n).vec.toNat = vecGet s (srcGet s n).vec.toNat := by rw [ho, hq]; rfl
  rw [hvec] at hsend
  refine execClosePoint_runs hf hin hcl hd ?_ ?_
  · rw [if_neg, hclose, hsend]
    change ¬(!s.hif.bme || s.hif.d3) = true
    rw [hbme, hd3]
    decide
  · have hsolv : (writeStatusPage u).solv = s.solv := by rw [ho, hq]; rfl
    split_ifs
    · exact hsolv
    · exact hsolv

/-- Settles O27: the completions, the status page and the messages of a close point, in this order. -/
theorem closePointsWriteInOrder : Obligations.ClosePointsWriteInOrder := by
  unfold Obligations.ClosePointsWriteInOrder
  intro s hf
  refine ⟨fun h => ⟨s, execClosePoint_shut h, rfl⟩, fun hin hcl hd => ?_⟩
  intro q at_ page
  refine ⟨fun h => ⟨closedSlot s, execClosePoint_runs hf hin hcl hd (if_pos ?_) rfl, rfl⟩, fun hbme hd3 hb => ⟨?_, ?_, ?_⟩⟩
  · change (!s.hif.bme || s.hif.d3) = true
    rcases h with h | h <;> simp [h]
  · intro c hw hh _hring hretire hpba hsrc
    have htarget : ∀ n, n < 344 → (srcGet s n).target.toNat ≠ 2 := fun n hn h => hsrc n hn (BitVec.eq_of_toNat_eq h)
    refine ⟨fun hunsol _hlog => ⟨_, closePoint_writes hf hin hcl hd hbme hd3 hb hw hh hretire hunsol hpba htarget, ?_⟩,
      fun hunsol hoff => ⟨_, closePoint_drops hf hin hcl hd hbme hd3 hb hw hh hunsol hoff hpba htarget, ?_⟩⟩
    · obtain ⟨q, g, hframe⟩ := writeCompl_frame (s := closingSlot s) hretire
      have hring := writeCompl_ring (s := closingSlot s) hretire
      have hpend := (writeCompl_src (s := closingSlot s) hretire).1
      generalize writeCompl c (closingSlot s) = u at hframe hring hpend ⊢
      have hpage := writeStatusPage_page u
      have hu : u.out = entryWrite c (ringGet s c.ring) :: s.out := by rw [hframe]; rfl
      obtain ⟨o, ho⟩ := writeStatusPage_frame u
      have hkept : u.hif.waiting = [] ∧ u.hif.seq = s.hif.seq ∧ u.hif.closed = true ∧ u.blk = s.blk := by rw [hframe]; exact ⟨rfl, rfl, rfl, rfl⟩
      obtain ⟨hwait, hseq, hclosed, hblk⟩ := hkept
      rw [hu, entryWrite, complBytes_descriptor hunsol] at hpage
      have hgot : ringGet (writeStatusPage u) c.ring = ringWritten (ringGet s c.ring) := by rw [ho]; exact hring
      have hsrc' : (srcGet (writeStatusPage u) (128 + c.ring)).pend = true := by rw [ho]; exact hpend
      refine ⟨pageWritten_congr (by rw [hframe]; exact ⟨rfl, rfl, rfl⟩) (by rw [hframe]; rfl) hpage,
        by rw [hgot]; rfl, by rw [hgot]; rfl, by rw [hgot]; rfl, hsrc', ?_⟩
      rw [ho]
      exact ⟨hwait, congrArg (· + 1) hseq, hclosed, hblk⟩
    · have hpage := writeStatusPage_page (dropUnsol c.ring (closingSlot s))
      have hring : ringGet (dropUnsol c.ring (closingSlot s)) c.ring = { ringGet s c.ring with dropun := (ringGet s c.ring).dropun + 1 } :=
        ringGet_ringPut (closingSlot s) c.ring _
      obtain ⟨o, ho⟩ := writeStatusPage_frame (dropUnsol c.ring (closingSlot s))
      have hgot : ringGet (writeStatusPage (dropUnsol c.ring (closingSlot s))) c.ring =
          { ringGet s c.ring with dropun := (ringGet s c.ring).dropun + 1 } := by rw [ho]; exact hring
      exact ⟨pageWritten_congr ⟨rfl, rfl, rfl⟩ rfl hpage, by rw [hgot], by rw [hgot], counted_count bHIF 4 _⟩
  · intro c hw hh hpba hsrc
    refine ⟨_, closePoint_holds hf hin hcl hd hbme hd3 hb hw hh hpba fun n hn h => hsrc n hn (BitVec.eq_of_toNat_eq h), ?_⟩
    exact ⟨pageWritten_congr ⟨rfl, rfl, rfl⟩ rfl (writeStatusPage_page (closedSlot s)), hw, rfl⟩
  · intro n hw hpba hmask hp hone v masked
    refine ⟨_, closePoint_sends hf hin hcl hd hbme hd3 hb hw hpba hmask hp hone, ?_⟩
    have hv : v < 64 := (srcGet s n).vec.isLt
    obtain ⟨hpend, hinsvc, -⟩ := delivered2_src n v (closedSlot s)
    obtain ⟨q, hq⟩ := delivered2_frame n v (closedSlot s)
    have hpage := writeStatusPage_page (delivered2 n v (closedSlot s))
    obtain ⟨o, ho⟩ := writeStatusPage_frame (delivered2 n v (closedSlot s))
    have hbits (b : Bool) (k : Nat) : (putBit (putBit s.hif.pba v true) v b).getLsbD k = if k = v then b else false := by
      rw [getLsbD_putBit _ hv, getLsbD_putBit _ hv, hpba]
      split_ifs <;> simp
    generalize delivered2 n v (closedSlot s) = u at hpend hinsvc hq hpage ho ⊢
    have hold : PageWritten s (writeStatusPage u).out s.out := by
      rw [show u.out = s.out by rw [hq]; rfl] at hpage
      exact pageWritten_congr (by rw [hq]; exact ⟨rfl, rfl, rfl⟩) (by rw [hq]; rfl) hpage
    have hsrcs : srcGet (writeStatusPage u) n = srcGet u n := by rw [ho]; rfl
    have hpbaOf : (writeStatusPage u).hif.pba = putBit s.hif.pba v true := by rw [ho, hq]; rfl
    cases hm : masked with
    | true =>
      have hm' : (vecGet s v).getLsbD 96 = true := hm
      rw [if_pos hm']
      dsimp only
      rw [hsrcs, hpbaOf]
      exact ⟨hpend, hinsvc, by rw [getLsbD_putBit _ hv, if_pos rfl],
        fun k hk => by rw [getLsbD_putBit _ hv, if_neg hk, hpba]; exact BitVec.getLsbD_zero, fun _ => hold, nofun⟩
    | false =>
      have hm' : ¬(vecGet s v).getLsbD 96 = true := by rw [show (vecGet s v).getLsbD 96 = false from hm]; exact Bool.false_ne_true
      rw [if_neg hm']
      dsimp only
      rw [hpbaOf]
      refine ⟨?_, ?_, ?_, fun k hk => ?_, nofun, fun _ => ⟨_, hold, rfl⟩⟩
      · exact (congrArg IrqSrc.pend hsrcs).trans hpend
      · exact (congrArg IrqSrc.insvc hsrcs).trans hinsvc
      · exact (hbits false v).trans (if_pos rfl)
      · exact (hbits false k).trans (if_neg hk)

end Sys2Proof.Proofs
end

section
/-! PROOFS. Power failure, the resets and what they keep (R278, R453, R481, R487, R488, R492, R493, R494). -/

namespace Sys2Proof.Proofs

open Sys2Proof.Machine Sys2Proof.Laws

/-! ### What METR and AXIS save -/

/-- All but the common registers of the blocks other than PWR, the registers of METR, the contents of the MRAM and the words
of the free generator. -/
def besideMetr (s : State) : State := { s with blk := [(bPWR, blkGet s bPWR)], metr := {}, mram := [], free := 0 }

theorem besideMetr_mk (a1 a2 a3 a4 a5 a6 a7 a8 a9 a10 a11 a12 a13 a14 a15 a16 a17 a18 a19 a20 a21 a22 a23 a24 a25 a26 a27 a28
    a29 a30 a31 a32) :
  besideMetr (State.mk a1 a2 a3 a4 a5 a6 a7 a8 a9 a10 a11 a12 a13 a14 a15 a16 a17 a18 a19 a20 a21 a22 a23 a24 a25 a26 a27 a28
    a29 a30 a31 a32) =
    State.mk [(bPWR, tblGet a1 bPWR (blkReset bPWR))] a2 a3 a4 a5 a6 a7 a8 a9 a10 a11 {} a13 a14 a15 a16 a17 a18 a19 a20 a21
      a22 a23 a24 a25 a26 [] a28 a29 a30 0 a32 := rfl
@[simp] theorem besideMetr_ite (c : Prop) [Decidable c] (a b : State) : besideMetr (if c then a else b) = if c then besideMetr
    a else besideMetr b := by split <;> rfl
@[simp] theorem besideMetr_foldl {α : Type} (f : State → α → State) (h : ∀ s a, besideMetr (f s a) = besideMetr s) (l : List
    α) (s : State) : besideMetr (l.foldl f s) = besideMetr s := by
  induction l generalizing s with
  | nil => rfl
  | cons a l ih => rw [List.foldl_cons, ih, h]
theorem besideMetr_fold (s : State) : State.mk [(bPWR, tblGet s.blk bPWR (blkReset bPWR))] s.snaps s.staged s.sys s.pwr
    s.sched s.pimg s.cell s.mc1 s.loops s.axis {} s.canl s.mbus s.ethl s.solv s.parc s.hif s.irq s.sec s.recs s.nvm s.time
    s.rtc s.pair s.pnl [] s.dram s.other s.out 0 s.pending = besideMetr s := rfl
@[simp] theorem besideMetr_count_metr (n : Nat) (s : State) : besideMetr (count bMETR n s) = besideMetr s := by
  have h : blkGet (count bMETR n s) bPWR = blkGet s bPWR := tblGet_tblPut_ne _ _ _ (by decide)
  unfold besideMetr
  rw [h]
  rfl


@[simp] theorem besideMetr_mramWrite (off : Nat) (b : Bytes) (s : State) : besideMetr (mramWrite off b s) = besideMetr s := by
  simp [mramWrite, ↓besideMetr_mk, ↓besideMetr_fold]

@[simp] theorem besideMetr_freeWord (s : State) : besideMetr (freeWord s).2 = besideMetr s := (rfl)

@[simp] theorem besideMetr_axRetain (n : Nat) (moving : Bool) (s : State) : besideMetr (axRetain n moving s) = besideMetr s
    := by
  simp [axRetain]

@[simp] theorem besideMetr_mfPut (s : State) (f : Nat) (v : MFeed) : besideMetr (mfPut s f v) = besideMetr s := (rfl)

@[simp] theorem besideMetr_mpPut (s : State) (k : Nat) (v : MPair) : besideMetr (mpPut s k v) = besideMetr s := (rfl)

@[simp] theorem besideMetr_phPut (s : State) (f : Nat) (p : Nat) (v : MPhase) : besideMetr (phPut s f p v) = besideMetr s :=
    (rfl)

@[simp] theorem besideMetr_credit (t : Nat) (x : Int) (s : State) : besideMetr (credit t x s) = besideMetr s := by
  simp [credit, ↓besideMetr_mk, ↓besideMetr_fold]

@[simp] theorem besideMetr_cycleEnd (f : Nat) (p : Nat) (timeout : Bool) (s : State) : besideMetr (cycleEnd f p timeout s) =
    besideMetr s := by
  simp [cycleEnd]

@[simp] theorem besideMetr_noteDir (k : Nat) (v : Int) (s : State) : besideMetr (noteDir k v s) = besideMetr s := by
  simp [noteDir]

@[simp] theorem besideMetr_creditHeat (k : Nat) (v : Int) (h : Int) (s : State) : besideMetr (creditHeat k v h s) = besideMetr
    s := by
  simp [creditHeat]

@[simp] theorem besideMetr_creditVe (k : Nat) (v : Int) (s : State) : besideMetr (creditVe k v s) = besideMetr s := by
  simp [creditVe]

@[simp] theorem besideMetr_closePair (k : Nat) (tf : Option F64) (tr : Option F64) (v : Int) (s : State) : besideMetr
    (closePair k tf tr v s) = besideMetr s := by
  unfold closePair
  (repeat' split) <;> simp

@[simp] theorem besideMetr_metrPowerFail (s : State) : besideMetr (metrPowerFail s) = besideMetr s := by
  simp [metrPowerFail, ↓besideMetr_mk, ↓besideMetr_fold]

/-! ### What the save sequence writes -/

/-- All but what the save sequence writes. -/
def besideSave (s : State) : State := { besideMetr s with recs := {}, pnl := {}, out := [] }

theorem besideSave_of_besideMetr {s t : State} (h : besideMetr t = besideMetr s) : besideSave t = besideSave s := by
  unfold besideSave
  rw [h]

theorem besideSave_count {b : Nat} (hb : b ≠ bPWR) (n : Nat) (s : State) : besideSave (count b n s) = besideSave s := by
  have h : blkGet (count b n s) bPWR = blkGet s bPWR := tblGet_tblPut_ne _ _ _ hb.symm
  unfold besideSave besideMetr
  rw [h]
  rfl

theorem besideSave_countN {b : Nat} (hb : b ≠ bPWR) (n k : Nat) (s : State) : besideSave (countN b n k s) = besideSave s := by
  induction k generalizing s with
  | zero => rfl
  | succ k ih => exact (ih _).trans (besideSave_count hb n s)

theorem besideSave_mramWrite (a : Nat) (b : Bytes) (s : State) : besideSave (mramWrite a b s) = besideSave s :=
  besideSave_of_besideMetr (besideMetr_mramWrite a b s)

theorem besideSave_recs (r : RecRegs) (s : State) : besideSave { s with recs := r } = besideSave s := rfl

theorem besideSave_pnl (p : PnlRegs) (s : State) : besideSave { s with pnl := p } = besideSave s := rfl

theorem besideSave_lantern (code sev : Nat) (data : Bytes) (s : State) : besideSave (lantern code sev data s) = besideSave s
    := by
  unfold lantern
  split_ifs
  · exact besideSave_count (by decide) 1 s
  · rfl
  · exact besideSave_count (b := bREC) (by decide) 0 { s with recs := { s.recs with drops := s.recs.drops + 1 } }

theorem besideSave_lanStop (s : State) : besideSave (lanStop s) = besideSave s := by
  unfold lanStop
  split_ifs
  · exact besideSave_countN (b := bREC) (by decide) 1 _ { s with recs := { s.recs with lfrozen := true, queue := [] } }
  · rfl

theorem besideSave_lanOne (s : State) : besideSave (lanOne s) = besideSave s := by
  unfold lanOne
  cases s.recs.queue with
  | nil => rfl
  | cons r q => exact (besideSave_lanStop _).trans (besideSave_mramWrite _ _ s)

theorem besideSave_lanFlush (k : Nat) (s : State) : besideSave (lanFlush k s) = besideSave s := by
  induction k generalizing s with
  | zero => rfl
  | succ k ih => exact (ih _).trans (besideSave_lanOne s)

theorem besideSave_lanPowerFail (s : State) : besideSave (lanPowerFail s) = besideSave s :=
  (besideSave_lanFlush _ _).trans (besideSave_lantern 0x0F01 0 [] { s with recs := { s.recs with queue := [] } })

theorem besideSave_setPen (v : Bool) (s : State) : besideSave (setPen v s) = besideSave s := by
  unfold setPen
  split_ifs <;> rfl

theorem besideSave_pnlPowerFail (s : State) : besideSave (pnlPowerFail s) = besideSave s := by
  have hset (r : PnlRun) : besideSave (pnlSetRun (some r) (setPen false s)) = besideSave s := besideSave_setPen false s
  unfold pnlPowerFail
  split
  · exact besideSave_setPen false s
  · dsimp only
    split
    · exact (besideSave_mramWrite _ _ _).trans (hset _)
    · exact hset _

/-- The time of the power failure is noted (R487). -/
def failureNoted (s : State) : State := { s with pwr := { s.pwr with pfTime := rtcTicks s } }

/-- The state in which Lantern writes: METR and AXIS have saved. -/
def metrSaved (s : State) : State :=
  (List.range 16).foldl (fun u n => axRetain n (axMoving u n) u) (metrPowerFail (failureNoted s))

theorem besideMetr_metrSaved (s : State) : besideMetr (metrSaved s) = besideMetr (failureNoted s) :=
  (besideMetr_foldl _ (fun u n => besideMetr_axRetain n _ u) _ _).trans (besideMetr_metrPowerFail _)

/-- PFLOCK closes the MRAM. -/
def lockedMram (s : State) : State := { s with pwr := { s.pwr with pflock := true } }

theorem saveSequence_eq {s : State} (h : s.pwr.pflock = false) :
    saveSequence s = lockedMram (pnlPowerFail (lanPowerFail (metrSaved s))) := by
  unfold saveSequence
  rw [h]
  rfl

theorem besideSave_lockedMram (s : State) : besideSave (lockedMram s) = lockedMram (besideSave s) := rfl

/-- The save sequence notes the time, locks the MRAM and leaves all else but what it saves. -/
theorem besideSave_saveSequence {s : State} (h : s.pwr.pflock = false) :
    besideSave (saveSequence s) = besideSave (lockedMram (failureNoted s)) := by
  have hall : besideSave (pnlPowerFail (lanPowerFail (metrSaved s))) = besideSave (failureNoted s) :=
    (besideSave_pnlPowerFail _).trans ((besideSave_lanPowerFail _).trans (besideSave_of_besideMetr (besideMetr_metrSaved s)))
  rw [saveSequence_eq h, besideSave_lockedMram, hall]
  rfl

/-! ### Lantern at a power failure (R453, R488) -/

theorem setPen_pen (v : Bool) (s : State) : (setPen v s).pnl.pen = v := by
  unfold setPen
  split_ifs with h
  · exact h
  · rfl

theorem mramWrite_pnl (a : Nat) (b : Bytes) (s : State) : (mramWrite a b s).pnl = s.pnl := by
  unfold mramWrite
  split_ifs <;> rfl

theorem pnlPowerFail_pen (s : State) : (pnlPowerFail s).pnl.pen = false := by
  unfold pnlPowerFail
  split
  · exact setPen_pen false s
  · dsimp only
    split
    · exact (congrArg PnlRegs.pen (mramWrite_pnl _ _ _)).trans (setPen_pen false s)
    · exact setPen_pen false s

theorem setPen_frame (v : Bool) (s : State) : (setPen v s).recs = s.recs ∧ (setPen v s).mram = s.mram := by
  unfold setPen
  split_ifs <;> exact ⟨rfl, rfl⟩

/-! ### Reading the MRAM -/

theorem tblRange_congr {α : Type} {t u : Tbl α} {n len : Nat} {d : α} (h : ∀ k, n ≤ k → k < n + len → tblGet t k d = tblGet u
    k d) :
    tblRange t n len d = tblRange u n len d := by
  induction len generalizing n with
  | zero => rfl
  | succ len ih =>
    unfold tblRange
    rw [h n (Nat.le_refl n) (by omega), ih fun k hk hlt => h k (by omega) (by omega)]

theorem mramWrite_open {s : State} (h : s.pwr.pflock = false) (a : Nat) (b : Bytes) :
    mramWrite a b s = { s with mram := tblPutAll s.mram a b 0 } := by
  unfold mramWrite
  rw [h]
  rfl

theorem mramRead_mramWrite {s : State} (h : s.pwr.pflock = false) (a : Nat) (b : Bytes) :
    mramRead a b.length (mramWrite a b s) = b := by
  rw [mramWrite_open h]
  exact tblRange_tblPutAll b s.mram a 0

theorem mramRead_mramWrite_apart {a n a' : Nat} {b : Bytes} (hapart : a + n ≤ a' ∨ a' + b.length ≤ a) (s : State) :
    mramRead a n (mramWrite a' b s) = mramRead a n s := by
  unfold mramWrite
  split_ifs
  · rfl
  · exact tblRange_congr fun k hk hlt => tblGet_tblPutAll_out b s.mram 0 (by omega)

/-! ### The Lantern ring -/

theorem lanBytes_length (r : LanRec) (drops : Nat) (n : W32) : (lanBytes r drops n).length = 64 := by
  unfold lanBytes
  simp only [List.length_append, leBytes_length, List.length_cons, List.length_nil, slice_length]

/-- One record is written in a ring that goes on. -/
theorem lanOne_plain {s : State} {r : LanRec} {q : List LanRec} (hq : s.recs.queue = r :: q) (hsev : r.sev ≠ 3) (hleft :
    s.recs.lleft = none)
    (hopen : s.pwr.pflock = false) :
    lanOne s = { mramWrite (lanAddr (s.recs.lseq + 1)) (lanBytes r s.recs.drops (s.recs.lseq + 1)) s with
      recs := { s.recs with lseq := s.recs.lseq + 1, queue := q, drops := 0 } } := by
  have hafter : lanAfter (r.sev == 3) (s.recs.lseq + 1) { s.recs with lseq := s.recs.lseq + 1, queue := q, drops := 0 } =
      { s.recs with lseq := s.recs.lseq + 1, queue := q, drops := 0 } := by
    unfold lanAfter
    rw [beq_eq_false_iff_ne.mpr hsev]
    dsimp only
    rw [hleft]
    rfl
  have hrecs : (mramWrite (lanAddr (s.recs.lseq + 1)) (lanBytes r s.recs.drops (s.recs.lseq + 1)) s).recs = s.recs := by
    rw [mramWrite_open hopen]
  unfold lanOne
  rw [hq]
  dsimp only
  rw [hrecs, hafter]
  unfold lanStop
  rw [if_neg]
  dsimp only
  rw [hleft]
  simp

/-- The queue is written in order behind LSEQ; addresses that none of its records take keep their bytes. -/
theorem lanFlush_spec {q : List LanRec} {s : State} (hq : s.recs.queue = q) (hsev : ∀ r ∈ q, r.sev ≠ 3) (hleft : s.recs.lleft
    = none)
    (hopen : s.pwr.pflock = false) :
    (lanFlush q.length s).recs.queue = [] ∧ (lanFlush q.length s).recs.lseq = s.recs.lseq + BitVec.ofNat 32 q.length ∧
      ∀ a n, (∀ k, k < q.length → a + n ≤ lanAddr (s.recs.lseq + 1 + BitVec.ofNat 32 k) ∨
        lanAddr (s.recs.lseq + 1 + BitVec.ofNat 32 k) + 64 ≤ a) → mramRead a n (lanFlush q.length s) = mramRead a n s := by
  induction q generalizing s with
  | nil => exact ⟨hq, (BitVec.add_zero _).symm, fun _ _ _ => rfl⟩
  | cons r q ih =>
    have hone := lanOne_plain hq (hsev r List.mem_cons_self) hleft hopen
    have hopen' : (lanOne s).pwr.pflock = false := by
      rw [hone, mramWrite_open hopen]
      exact hopen
    have hrecs : (lanOne s).recs = { s.recs with lseq := s.recs.lseq + 1, queue := q, drops := 0 } := by rw [hone]
    obtain ⟨hempty, hlseq, hread⟩ := ih (s := lanOne s) (by rw [hrecs]) (fun x hx => hsev x (List.mem_cons_of_mem r hx))
      (by rw [hrecs]; exact hleft) hopen'
    rw [hrecs] at hlseq hread
    have hstep : ∀ k, s.recs.lseq + 1 + 1 + BitVec.ofNat 32 k = s.recs.lseq + 1 + BitVec.ofNat 32 (k + 1) := fun k => by
      rw [BitVec.ofNat_add, BitVec.add_comm (BitVec.ofNat 32 k), ← BitVec.add_assoc]
      rfl
    refine ⟨hempty, ?_, fun a n hapart => ?_⟩
    · rw [List.length_cons, BitVec.ofNat_add, BitVec.add_comm (BitVec.ofNat 32 q.length), ← BitVec.add_assoc]
      exact hlseq
    · have hfirst := hapart 0 (Nat.succ_pos _)
      rw [BitVec.add_zero] at hfirst
      calc mramRead a n (lanFlush q.length (lanOne s))
        _ = mramRead a n (lanOne s) := hread a n fun k hk => by
          rw [hstep]
          exact hapart (k + 1) (Nat.succ_lt_succ hk)
        _ = mramRead a n (mramWrite (lanAddr (s.recs.lseq + 1)) (lanBytes r s.recs.drops (s.recs.lseq + 1)) s) := by
          rw [hone]
          rfl
        _ = mramRead a n s := mramRead_mramWrite_apart (by rw [lanBytes_length]; exact hfirst) s

/-- Up to 2,048 records keep the first of them. -/
theorem lanFlush_first {r : LanRec} {q : List LanRec} {s : State} (hq : s.recs.queue = r :: q) (hsev : ∀ x ∈ r :: q, x.sev ≠ 3)
    (hleft : s.recs.lleft = none) (hopen : s.pwr.pflock = false) (hlen : q.length < 2048) :
    mramRead (lanAddr (s.recs.lseq + 1)) 64 (lanFlush (q.length + 1) s) = lanBytes r s.recs.drops (s.recs.lseq + 1) := by
  have hone := lanOne_plain hq (hsev r List.mem_cons_self) hleft hopen
  have hopen' : (lanOne s).pwr.pflock = false := by
    rw [hone, mramWrite_open hopen]
    exact hopen
  have hrecs : (lanOne s).recs = { s.recs with lseq := s.recs.lseq + 1, queue := q, drops := 0 } := by rw [hone]
  obtain ⟨-, -, hread⟩ := lanFlush_spec (s := lanOne s) (q := q) (by rw [hrecs]) (fun x hx => hsev x (List.mem_cons_of_mem r
    hx))
    (by rw [hrecs]; exact hleft) hopen'
  rw [hrecs] at hread
  have hwritten := mramRead_mramWrite hopen (lanAddr (s.recs.lseq + 1)) (lanBytes r s.recs.drops (s.recs.lseq + 1))
  rw [lanBytes_length] at hwritten
  calc mramRead (lanAddr (s.recs.lseq + 1)) 64 (lanFlush q.length (lanOne s))
    _ = mramRead (lanAddr (s.recs.lseq + 1)) 64 (lanOne s) := hread _ _ fun k hk => by
      unfold lanAddr
      have hone : (1 : W32).toNat = 1 := rfl
      simp only [BitVec.toNat_add, BitVec.toNat_ofNat, hone]
      omega
    _ = _ := by rw [hone]; exact hwritten

/-- The code of a record stands at offset 0x0A of its bytes (Table 16-2). -/
theorem u16_lanBytes (r : LanRec) (drops : Nat) (n : W32) : u16 (lanBytes r drops n) 0xA = r.code.toNat := by
  have hslice : slice (lanBytes r drops n) 0xA 2 = leBytes 2 r.code.toNat := rfl
  unfold u16
  rw [hslice]
  simp only [leBytes, leNat, BitVec.toNat_ofNat]
  omega

/-- The record of a power failure. -/
def failureRecord (s : State) : LanRec :=
  { pcyc := s.recs.pcyc, opt := s.recs.opt, code := 0x0F01, sev := 0, mfn := recMfn s, data := slice [] 0 32 }

/-- The queue with the record of the power failure before it. -/
def failureQueued (s : State) : State := { s with recs := { s.recs with queue := failureRecord s :: s.recs.queue } }

/-- The saved operating time is noted (R449). -/
def timeSaved (s : State) : State := { s with recs := { s.recs with optSaved := s.recs.opt, optDue := false } }

theorem lanPowerFail_eq {s : State} (hfrozen : s.recs.lfrozen = false) :
    lanPowerFail s = timeSaved (lanFlush (s.recs.queue.length + 1) (failureQueued s)) := by
  have hrecord : lantern 0x0F01 0 [] { s with recs := { s.recs with queue := [] } } =
      { s with recs := { s.recs with queue := [failureRecord s] } } := by
    unfold lantern
    dsimp only
    rw [hfrozen]
    rfl
  unfold lanPowerFail
  dsimp only at hrecord ⊢
  rw [hrecord]
  rfl

/-- A power failure of a Lantern that goes on and has room writes record 0x0F01 and the queued ones. -/
theorem lanPowerFail_written {s : State} (hfrozen : s.recs.lfrozen = false) (hleft : s.recs.lleft = none)
    (hsev : ∀ r ∈ s.recs.queue, r.sev ≠ 3) (hlen : s.recs.queue.length < 64) (hopen : s.pwr.pflock = false) :
    (lanPowerFail s).recs.queue = [] ∧ (lanPowerFail s).recs.lseq = s.recs.lseq + 1 + BitVec.ofNat 32 s.recs.queue.length ∧
      u16 (mramRead (lanAddr (s.recs.lseq + 1)) 64 (lanPowerFail s)) 0xA = 0x0F01 := by
  have hsev' : ∀ r ∈ failureRecord s :: s.recs.queue, r.sev ≠ 3 := by
    intro r hr
    rcases List.mem_cons.mp hr with h | h
    · rw [h]
      exact (by decide : (0 : Byte) ≠ 3)
    · exact hsev r h
  obtain ⟨hempty, hlseq, -⟩ := lanFlush_spec (s := failureQueued s) rfl hsev' hleft hopen
  have hfirst := lanFlush_first (s := failureQueued s) rfl hsev' hleft hopen (by omega)
  rw [lanPowerFail_eq hfrozen]
  refine ⟨hempty, hlseq.trans ?_, ?_⟩
  · change s.recs.lseq + BitVec.ofNat 32 (s.recs.queue.length + 1) = _
    rw [BitVec.ofNat_add, BitVec.add_comm (BitVec.ofNat 32 s.recs.queue.length), ← BitVec.add_assoc]
    rfl
  · calc u16 (mramRead (lanAddr (s.recs.lseq + 1)) 64 (lanFlush (s.recs.queue.length + 1) (failureQueued s))) 0xA
      _ = u16 (lanBytes (failureRecord s) s.recs.drops (s.recs.lseq + 1)) 0xA := congrArg (fun b => u16 b 0xA) hfirst
      _ = 0x0F01 := u16_lanBytes _ _ _

theorem lantern_opt (code sev : Nat) (data : Bytes) (s : State) : (lantern code sev data s).recs.opt = s.recs.opt := by
  unfold lantern
  split_ifs <;> rfl

theorem countN_recs (b n k : Nat) (s : State) : (countN b n k s).recs = s.recs := by
  induction k generalizing s with
  | zero => rfl
  | succ k ih => exact ih _

theorem lanStop_opt (s : State) : (lanStop s).recs.opt = s.recs.opt := by
  unfold lanStop
  split_ifs
  · exact (congrArg RecRegs.opt (countN_recs bREC 1 s.recs.queue.length _)).trans rfl
  · rfl

theorem lanAfter_opt (fatal : Bool) (n : W32) (r : RecRegs) : (lanAfter fatal n r).opt = r.opt := by
  unfold lanAfter
  split
  · split_ifs <;> rfl
  · rfl

theorem lanOne_opt (s : State) : (lanOne s).recs.opt = s.recs.opt := by
  have hmram (a : Nat) (b : Bytes) : (mramWrite a b s).recs = s.recs := by
    unfold mramWrite
    split_ifs <;> rfl
  unfold lanOne
  split
  · rfl
  · dsimp only
    rw [lanStop_opt]
    dsimp only
    rw [lanAfter_opt, hmram]

theorem lanFlush_opt (k : Nat) (s : State) : (lanFlush k s).recs.opt = s.recs.opt := by
  induction k generalizing s with
  | zero => rfl
  | succ k ih => exact (ih _).trans (lanOne_opt s)

theorem lanPowerFail_optSaved (s : State) : (lanPowerFail s).recs.optSaved = s.recs.opt :=
  (lanFlush_opt _ _).trans (lantern_opt 0x0F01 0 [] { s with recs := { s.recs with queue := [] } })

/-! ### The panel leaves Lantern as it stands -/

theorem pnlPowerFail_frame (s : State) : (pnlPowerFail s).recs = s.recs ∧
    ∀ a n, a + n ≤ pnlJour → mramRead a n (pnlPowerFail s) = mramRead a n s := by
  have hset : (setPen false s).recs = s.recs ∧ (setPen false s).mram = s.mram := setPen_frame false s
  obtain ⟨hrecs, hmram⟩ := hset
  have hread (a n : Nat) : mramRead a n (setPen false s) = mramRead a n s := congrArg (fun m => tblRange m a n 0) hmram
  have hwrite (a : Nat) (b : Bytes) (r : PnlRun) : (mramWrite a b (pnlSetRun (some r) (setPen false s))).recs = s.recs := by
    unfold mramWrite
    split_ifs <;> exact hrecs
  unfold pnlPowerFail
  split
  · exact ⟨hrecs, fun a n _ => hread a n⟩
  · dsimp only
    split
    · exact ⟨hwrite _ _ _, fun a n h => (mramRead_mramWrite_apart (Or.inl h) _).trans (hread a n)⟩
    · exact ⟨hrecs, fun a n _ => hread a n⟩

/-! ### The save sequence -/

theorem saveSequence_settles {s : State} (h : s.pwr.pflock = false) :
    (saveSequence s).pwr = { s.pwr with pfTime := rtcTicks s, pflock := true } ∧ (saveSequence s).sched = s.sched ∧
      (saveSequence s).pimg = s.pimg ∧ (saveSequence s).cell = s.cell ∧ (saveSequence s).time = s.time ∧ (saveSequence s).sys
        = s.sys ∧
      (∀ n, cntOf (saveSequence s) bPWR n = cntOf s bPWR n) := by
  have hall := besideSave_saveSequence h
  refine ⟨(congrArg State.pwr hall :), (congrArg State.sched hall :), (congrArg State.pimg hall :), (congrArg State.cell hall
    :),
    (congrArg State.time hall :), (congrArg State.sys hall :), fun n => ?_⟩
  have hblk : blkGet (saveSequence s) bPWR = blkGet s bPWR :=
    (congrArg (fun u : State => tblGet u.blk bPWR (blkReset bPWR)) hall :)
  exact congrArg (fun b : Blk => tblGet b.cnt n 0) hblk

/-- What the save sequence writes of the operating time and of Lantern. -/
theorem saveSequence_saves {s : State} (h : s.pwr.pflock = false) :
    (saveSequence s).pnl.pen = false ∧ (saveSequence s).recs.optSaved = s.recs.opt ∧
      (s.recs.lfrozen = false → s.recs.lleft = none → (∀ r ∈ s.recs.queue, r.sev ≠ 3) → s.recs.queue.length < 64 →
        (saveSequence s).recs.queue = [] ∧ (saveSequence s).recs.lseq = s.recs.lseq + 1 + BitVec.ofNat 32 s.recs.queue.length ∧
        u16 (mramRead (lanAddr (s.recs.lseq + 1)) 64 (saveSequence s)) 0xA = 0x0F01) := by
  have hrecs : (metrSaved s).recs = s.recs := (congrArg State.recs (besideMetr_metrSaved s) :)
  have hpwr : (metrSaved s).pwr = (failureNoted s).pwr :=
    (congrArg State.pwr (besideMetr_metrSaved s) :)
  have hopen : (metrSaved s).pwr.pflock = false := by rw [hpwr]; exact h
  obtain ⟨hkept, hread⟩ := pnlPowerFail_frame (lanPowerFail (metrSaved s))
  rw [saveSequence_eq h]
  refine ⟨pnlPowerFail_pen _, ?_, fun hfrozen hleft hsev hlen => ?_⟩
  · exact (congrArg RecRegs.optSaved hkept).trans ((lanPowerFail_optSaved _).trans (congrArg RecRegs.opt hrecs))
  · obtain ⟨hempty, hlseq, hcode⟩ := lanPowerFail_written (s := metrSaved s) (by rw [hrecs]; exact hfrozen)
      (by rw [hrecs]; exact hleft) (by rw [hrecs]; exact hsev) (by rw [hrecs]; exact hlen) hopen
    rw [hrecs] at hlseq hcode
    refine ⟨(congrArg RecRegs.queue hkept).trans hempty, (congrArg RecRegs.lseq hkept).trans hlseq, ?_⟩
    rw [← hcode, ← hread (lanAddr (s.recs.lseq + 1)) 64]
    · rfl
    · have hend : lanAddr (s.recs.lseq + 1) + 64 ≤ 0x20000 + 64 * 2048 := by
        unfold lanAddr
        omega
      exact hend.trans (by decide)

/-! ### Reset requests (R492, R494) -/

theorem requestReset_asks {s : State} (hawake : s.pwr.asleep = false) (hnone : s.sys.rstReq = none) (c : BitVec 4) :
    (requestReset c s).sys = { s.sys with rstReq := some c } ∧ (requestReset c s).pwr.pflock = true ∧
      (requestReset c s).sched = s.sched ∧ (requestReset c s).pimg = s.pimg ∧
      (requestReset c s).pwr.pllA = s.pwr.pllA ∧ (requestReset c s).pwr.pllB = s.pwr.pllB ∧ (requestReset c s).pwr.pllC =
        s.pwr.pllC := by
  have hask : requestReset c s = saveSequence { s with sys := { s.sys with rstReq := some c } } := by
    unfold requestReset
    rw [if_neg]
    rw [awake, hawake, hnone]
    simp
  rw [hask]
  cases hlock : s.pwr.pflock with
  | true =>
    have hsaved : saveSequence { s with sys := { s.sys with rstReq := some c } } =
      { s with sys := { s.sys with rstReq := some c } } :=
      if_pos hlock
    rw [hsaved]
    exact ⟨rfl, hlock, rfl, rfl, rfl, rfl, rfl⟩
  | false =>
    obtain ⟨hpwr, hsched, hpimg, -, -, hsys, -⟩ :=
      saveSequence_settles (s := { s with sys := { s.sys with rstReq := some c } }) hlock
    rw [hpwr]
    exact ⟨hsys, rfl, hsched, hpimg, rfl, rfl, rfl⟩

theorem blkOff_sys (s : State) : blkOff s bSYS = false := by
  have h : blkDoms bSYS = [] := by decide
  simp [blkOff, h]

theorem execRstreq_eq {m : RegMaster} (v : W32) (s : State) : exec (.rstreq m v) s = .next (rstreqOp m v s) := by
  have hoff : regOff s bSYS 0x150 = false := by
    rw [regOff, if_neg (fun h => absurd h.1 (by decide)), blkOff_sys]
  have hreg : regOf s m (regAddr bSYS 0x150) = some (r32 0x150 0) :=
    (regOf_reachable (.inr (.inl rfl)) (by decide) (by decide) (by decide)).trans ((regAt_own (by decide) hoff).trans rfl)
  have happly : regApply dbgWrite m bSYS 0x150 0x150 v.toNat s = rstreqOp m v s := by
    have hword : BitVec.ofNat 32 v.toNat = v := by simp
    exact congrArg (rstreqOp m · s) hword
  exact congrArg Host.Outcome.next ((busWrite_single (by decide) hreg rfl v).trans happly)

theorem rstreqOp_none {m : RegMaster} {v : W32} {s : State} (h : m ≠ .mc0 ∨ v.getLsbD 0 = false) : rstreqOp m v s = s := by
  refine if_neg fun ⟨hm, hbit⟩ => ?_
  rcases h with h | h
  · exact h hm
  · exact absurd (hbit.symm.trans h) (by decide)

def pllLocked (k : Fin 3) (p : PwrRegs) : Bool := if k = 0 then p.pllA else if k = 1 then p.pllB else p.pllC

/-- The lock of one PLL is lost. -/
def pllLost (k : Fin 3) (p : PwrRegs) : PwrRegs :=
  if k = 0 then { p with pllA := false } else if k = 1 then { p with pllB := false } else { p with pllC := false }

theorem execPllLockLoss_eq (k : Fin 3) (s : State) :
    exec (.pllLockLoss k) s = .next (if pllLocked k s.pwr then requestReset 5 { s with pwr := pllLost k s.pwr } else s) := by
  refine congrArg Host.Outcome.next ?_
  fin_cases k <;> simp [pllLocked, pllLost]

/-! ### What a reset keeps (R493) -/

theorem blkGet_resetDevice (por : Bool) (c : BitVec 4) (s : State) :
    blkGet (resetDevice por c s) bRTC = blkGet s bRTC ∧ ∀ b, b ≠ bRTC → blkGet (resetDevice por c s) b = blkReset b :=
  ⟨tblGet_tblPut_same [] bRTC _ _, fun _ hb => tblGet_tblPut_ne _ _ _ hb⟩

/-- What every reset keeps and clears of SEC. -/
theorem resetSec_keeps (por : Bool) (x : SecRegs) :
    (resetSec por x).netsec = none ∧ (resetSec por x).pairsec = none ∧ (resetSec por x).swk = none ∧
      (resetSec por x).ocnt = x.ocnt ∧ (resetSec por x).scnt = x.scnt ∧ (resetSec por x).fwFloor = x.fwFloor ∧
      (resetSec por x).tampSt = x.tampSt ∧ (resetSec por x).tampTime = x.tampTime ∧ (resetSec por x).tampCfg = x.tampCfg := by
  cases por <;> exact ⟨rfl, rfl, rfl, rfl, rfl, rfl, rfl, rfl, rfl⟩

/-- The panel's supply falls with the reset (Table 18-8). -/
theorem resetDevice_pen {s : State} (h : s.pnl.pen = true) (por : Bool) (c : BitVec 4) :
    Out.panelEn false ∈ (resetDevice por c s).out := by
  refine List.mem_append_left _ (List.mem_reverse.mpr ?_)
  unfold idlePins
  rw [h]
  exact List.mem_append_left _ (List.mem_append_left _ List.mem_cons_self)

/-! ### The rows -/

theorem powerFailure_shut {s : State} (h : s.pwr.asleep = true ∨ s.pwr.pflock = true) : exec .powerFailure s = .next s := by
  refine congrArg Host.Outcome.next (if_pos ?_)
  rcases h with h | h <;> simp [awake, h]

theorem powerFailure_saves {s : State} (ha : s.pwr.asleep = false) (hp : s.pwr.pflock = false) :
    exec .powerFailure s = .next (saveSequence (count bPWR 0 s)) := by
  refine congrArg Host.Outcome.next (if_neg ?_)
  simp [awake, ha, hp]

/-- What the end of a power failure leaves alone. -/
def besideResume (s : State) : PwrRegs × Tbl Byte × SchedRegs × (Nat → W32) := (s.pwr, s.mram, s.sched, cntOf s bPWR)

theorem besideResume_countN {b : Nat} (hb : b ≠ bPWR) (n k : Nat) (s : State) : besideResume (countN b n k s) = besideResume s
    := by
  induction k generalizing s with
  | zero => rfl
  | succ k ih =>
    have hcnt : cntOf (count b n s) bPWR = cntOf s bPWR := by
      funext j
      rw [counted_count]
      exact if_neg fun h => hb h.1.symm
    refine (ih (count b n s)).trans ?_
    unfold besideResume
    rw [hcnt]
    rfl

theorem besideResume_metrResume (s : State) : besideResume (metrResume s) = besideResume s := by
  unfold metrResume
  split
  · rfl
  · exact besideResume_countN (by decide) 9 _ { s with metr := { s.metr with pfTbc := none } }

theorem besideResume_pnlResume (s : State) : besideResume (pnlResume s) = besideResume s := by
  unfold pnlResume pumpOn setPen
  split_ifs <;> rfl

theorem pwrfailRise_resumes {s : State} (hp : s.pwr.pflock = true) (hr : s.sys.rstReq = none) :
    exec .pwrfailRise s = .next (pnlResume (metrResume (count bPWR 1 { s with pwr := { s.pwr with pflock := false } }))) := by
  refine congrArg Host.Outcome.next (if_pos ?_)
  rw [hp, hr]
  rfl

theorem pwrfailRise_shut {s : State} (h : s.pwr.pflock = false ∨ s.sys.rstReq.isSome = true) : exec .pwrfailRise s = .next s
    := by
  refine congrArg Host.Outcome.next (if_neg ?_)
  rw [Bool.and_eq_true, Option.isNone_iff_eq_none]
  rintro ⟨hp, hr⟩
  rcases h with h | h
  · exact absurd (hp.symm.trans h) (by decide)
  · rw [hr] at h
    cases h

/-- Settles O56: the save sequence, the reset requests and the resets. -/
theorem powerFailuresAndResetsKeepWhatTheySave : Obligations.PowerFailuresAndResetsKeepWhatTheySave := by
  unfold Obligations.PowerFailuresAndResetsKeepWhatTheySave
  refine ⟨fun s => ⟨fun h => ⟨s, powerFailure_shut h, rfl⟩, fun ha hp => ?_, fun hp hr => ?_,
    fun h => ⟨s, pwrfailRise_shut h, rfl⟩, _, rfl, counted_count bPWR 3 s, rfl⟩, fun s ha hr => ?_,
    fun m v s _ h => ⟨s, (execRstreq_eq v s).trans (congrArg Host.Outcome.next (rstreqOp_none h)), rfl⟩, fun s => ?_⟩
  · refine ⟨_, powerFailure_saves ha hp, ?_⟩
    obtain ⟨hpwr, hsched, hpimg, hcell, htime, -, hcnt⟩ := saveSequence_settles (s := count bPWR 0 s) hp
    obtain ⟨hpen, hopt, hlantern⟩ := saveSequence_saves (s := count bPWR 0 s) hp
    rw [hpwr]
    refine ⟨rfl, rfl, ?_, hsched, hpimg, hcell, htime, hpen, hopt, hlantern⟩
    rw [hcnt]
    exact (counted_count bPWR 0 s bPWR 0).trans (if_pos ⟨rfl, rfl⟩)
  · refine ⟨_, pwrfailRise_resumes hp hr, ?_⟩
    have hall := (besideResume_pnlResume _).trans (besideResume_metrResume (count bPWR 1
      { s with pwr := { s.pwr with pflock := false } }))
    have hcount := counted_count bPWR 1 { s with pwr := { s.pwr with pflock := false } } bPWR 1
    unfold besideResume at hall
    obtain ⟨hpwr, hmram, hsched, hcnt⟩ := by simpa only [Prod.mk.injEq] using hall
    exact ⟨(congrArg PwrRegs.pflock hpwr :), hmram, (congrFun hcnt 1).trans (hcount.trans (if_pos ⟨rfl, rfl⟩)), hsched⟩
  · intro asked
    have hasked (c : BitVec 4) (p : PwrRegs) (hp : p.asleep = false) : asked c (requestReset c { s with pwr := p }) ∧
        (requestReset c { s with pwr := p }).pwr.pllA = p.pllA ∧ (requestReset c { s with pwr := p }).pwr.pllB = p.pllB ∧
        (requestReset c { s with pwr := p }).pwr.pllC = p.pllC := by
      obtain ⟨hsys, hlock, hsched, hpimg, hpll⟩ := requestReset_asks (s := { s with pwr := p }) hp hr c
      exact ⟨⟨by rw [hsys], hlock, hsched, hpimg, by rw [hsys]⟩, hpll⟩
    refine ⟨⟨_, rfl, (hasked 4 s.pwr ha).1⟩, fun v hv => ⟨_, (execRstreq_eq v s).trans (congrArg Host.Outcome.next (if_pos
      ⟨rfl, hv⟩)),
      (hasked 3 s.pwr ha).1⟩, fun k => ?_⟩
    intro locked
    have hlocked : locked = pllLocked k s.pwr := by
      fin_cases k <;> rfl
    have hlost : (pllLost k s.pwr).asleep = false := by
      fin_cases k <;> exact ha
    refine ⟨fun h => ⟨_, (execPllLockLoss_eq k s).trans (congrArg Host.Outcome.next (if_pos (hlocked.symm.trans h))), ?_⟩,
      fun h => ⟨s, (execPllLockLoss_eq k s).trans (congrArg Host.Outcome.next (if_neg ?_)), rfl⟩⟩
    · obtain ⟨hask, hA, hB, hC⟩ := hasked 5 (pllLost k s.pwr) hlost
      rw [hA, hB, hC]
      refine ⟨hask, ?_⟩
      fin_cases k <;> simp [pllLost]
    · rw [← hlocked, h]
      exact Bool.false_ne_true
  · intro cleared logs wick
    have hreset (por : Bool) (c : BitVec 4) : cleared (resetDevice por c s) ∧ logs (resetDevice por c s) ∧ wick (resetDevice
      por c s) := by
      obtain ⟨hrtc, hblk⟩ := blkGet_resetDevice por c s
      obtain ⟨hnet, hpair, hswk, hocnt, hscnt, hfloor, htamper⟩ := resetSec_keeps por s.sec
      exact ⟨⟨rfl, rfl, rfl, rfl, rfl, rfl, rfl, rfl, rfl, rfl, rfl, rfl, rfl, rfl, rfl, hnet, hpair, hswk, rfl, rfl, rfl,
        rfl, rfl, rfl,
        hblk, fun h => resetDevice_pen h por c⟩,
        ⟨rfl, rfl, rfl, rfl, rfl, rfl, rfl, rfl, rfl, hocnt, hscnt, hfloor, rfl, rfl, rfl, rfl⟩,
        rfl, htamper.1, htamper.2.1, htamper.2.2, rfl, rfl, rfl, hrtc⟩
    refine ⟨fun h => ⟨s, ?_, rfl⟩, fun c h => ⟨resetDevice false c s, ?_, ?_⟩, fun b => ⟨_, rfl, ?_⟩, _, rfl, ?_⟩
    · exact congrArg Host.Outcome.next (by rw [h])
    · exact congrArg Host.Outcome.next (by rw [h])
    · obtain ⟨hcleared, hlogs, hwick⟩ := hreset false c
      exact ⟨hcleared, hlogs, hwick, rfl, rfl, rfl, rfl, rfl⟩
    · obtain ⟨hcleared, hlogs, hwick⟩ := hreset true (if b then 2 else 1)
      exact ⟨hcleared, hlogs, hwick, rfl, rfl, rfl, rfl, rfl⟩
    · exact ⟨⟨rfl, rfl, rfl, rfl, rfl, rfl, rfl, rfl, rfl, rfl, rfl, rfl, rfl, rfl, rfl, rfl, rfl, rfl, rfl, rfl, rfl, rfl,
      rfl, rfl,
        fun _ _ => rfl, fun h => resetDevice_pen h true 1⟩,
        ⟨rfl, rfl, rfl, rfl, rfl, rfl, rfl, rfl, rfl, rfl, rfl, rfl, rfl, rfl, rfl, rfl⟩, rfl, rfl, rfl, rfl, rfl, rfl, rfl,
          rfl⟩

end Sys2Proof.Proofs
end

section
/-! PROOFS. What the blocks leave alone when they start: SYS and the domains, and the image that runs. -/

namespace Sys2Proof.Proofs

open Sys2Proof.Machine Sys2Proof.Laws

/-- What the blocks leave alone when they start: SYS, PWR, the NAND as identified, PCYC, and that the panel has started. -/
def bootSide (s : State) : SysRegs × PwrRegs × Bool × Bool × W32 × Bool :=
  (s.sys, s.pwr, s.nvm.nandOk, s.nvm.started, s.recs.pcyc, s.pnl.started)

theorem bootSide_mk (a1 a2 a3 a4 a5 a6 a7 a8 a9 a10 a11 a12 a13 a14 a15 a16 a17 a18 a19 a20 a21 a22 a23 a24 a25 a26 a27 a28
    a29 a30 a31 a32) :
  bootSide (State.mk a1 a2 a3 a4 a5 a6 a7 a8 a9 a10 a11 a12 a13 a14 a15 a16 a17 a18 a19 a20 a21 a22 a23 a24 a25 a26 a27 a28
    a29 a30 a31 a32) =
    (a4, a5, a22.nandOk, a22.started, a21.pcyc, a26.started) := rfl
theorem bootSide_fold (s : State) : (s.sys, s.pwr, s.nvm.nandOk, s.nvm.started, s.recs.pcyc, s.pnl.started) = bootSide s := rfl
@[simp] theorem bootSide_ite (c : Prop) [Decidable c] (a b : State) : bootSide (if c then a else b) = if c then bootSide a
    else bootSide b := by split <;> rfl
@[simp] theorem bootSide_foldl {α : Type} (f : State → α → State) (h : ∀ s a, bootSide (f s a) = bootSide s) (l : List α) (s :
    State) : bootSide (l.foldl f s) = bootSide s := by
  induction l generalizing s with
  | nil => rfl
  | cons a l ih => rw [List.foldl_cons, ih, h]

@[simp] theorem bootSide_blkPut (s : State) (b : Nat) (v : Blk) : bootSide (blkPut s b v) = bootSide s := (rfl)

@[simp] theorem bootSide_enable (s : State) (b : Nat) : bootSide (enable s b) = bootSide s := (rfl)

@[simp] theorem bootSide_count (b : Nat) (n : Nat) (s : State) : bootSide (count b n s) = bootSide s := (rfl)

@[simp] theorem bootSide_countIf (c : Bool) (b : Nat) (n : Nat) (s : State) : bootSide (countIf c b n s) = bootSide s := by
  simp [countIf]

@[simp] theorem bootSide_countN (b n k : Nat) (s : State) : bootSide (countN b n k s) = bootSide s := by
  induction k generalizing s with
  | zero => rfl
  | succ k ih => exact (ih _).trans (bootSide_count b n s)

@[simp] theorem bootSide_emit (o : Out) (s : State) : bootSide (emit o s) = bootSide s := (rfl)

@[simp] theorem bootSide_srcPut (s : State) (n : Nat) (v : IrqSrc) : bootSide (srcPut s n v) = bootSide s := (rfl)

@[simp] theorem bootSide_irqEdge (n : Nat) (s : State) : bootSide (irqEdge n s) = bootSide s := (rfl)

@[simp] theorem bootSide_lantern (code : Nat) (sev : Nat) (data : Bytes) (s : State) : bootSide (lantern code sev data s) =
    bootSide s := by
  simp [lantern, ↓bootSide_mk, ↓bootSide_fold]

@[simp] theorem bootSide_audPush (code : Nat) (ctx : Nat) (auth : Nat) (ocnt : Nat) (data : Bytes) (s : State) : bootSide
    (audPush code ctx auth ocnt data s) = bootSide s := (rfl)

@[simp] theorem bootSide_audit (code : Nat) (ctx : Nat) (auth : Nat) (ocnt : Nat) (data : Bytes) (s : State) : bootSide (audit
    code ctx auth ocnt data s) = bootSide s := by
  simp [audit, ↓bootSide_mk, ↓bootSide_fold]

@[simp] theorem bootSide_mramWrite (off : Nat) (b : Bytes) (s : State) : bootSide (mramWrite off b s) = bootSide s := by
  simp [mramWrite, ↓bootSide_mk, ↓bootSide_fold]

@[simp] theorem bootSide_randomBytes (n : Nat) (s : State) : bootSide (randomBytes n s).2 = bootSide s := (rfl)

@[simp] theorem bootSide_freeWord (s : State) : bootSide (freeWord s).2 = bootSide s := (rfl)

@[simp] theorem bootSide_parcGiveUp (st : BitVec 4) (s : State) : bootSide (parcGiveUp st s) = bootSide s := by
  unfold parcGiveUp
  split <;> simp [↓bootSide_mk, ↓bootSide_fold]

@[simp] theorem bootSide_parcInterrupt (s : State) : bootSide (parcInterrupt s) = bootSide s := by simp [parcInterrupt]

@[simp] theorem bootSide_freezeEffect (m : Nat) (s : State) : bootSide (freezeEffect m s) = bootSide s := by
  simp [freezeEffect, ↓bootSide_mk, ↓bootSide_fold]

@[simp] theorem bootSide_freeze (m : Nat) (cause : Nat) (addr : Nat) (slot : Nat) (s : State) : bootSide (freeze m cause addr
    slot s) = bootSide s := by
  simp [freeze, ↓bootSide_mk, ↓bootSide_fold]

@[simp] theorem bootSide_guarded (m : Nat) (addr : Nat) (len : Nat) (write : Bool) (ok : State → State) (s : State) (hok : ∀
    u, bootSide (ok u) = bootSide u) : bootSide (guarded m addr len write ok s) = bootSide s := by
  simp [guarded, hok]

@[simp] theorem bootSide_ringPut (s : State) (r : Nat) (v : Ring) : bootSide (ringPut s r v) = bootSide s := (rfl)

@[simp] theorem bootSide_auditDesc (d : HostDesc) (s : State) : bootSide (auditDesc d s) = bootSide s := by
  unfold auditDesc
  (repeat' split) <;> simp

@[simp] theorem bootSide_completeR (d : HostDesc) (st : Nat) (data : Nat) (ret : Option Nat) (s : State) : bootSide (completeR
    d st data ret s) = bootSide s := by
  simp [completeR, ↓bootSide_mk, ↓bootSide_fold]

@[simp] theorem bootSide_complete (d : HostDesc) (st : Nat) (data : Nat) (s : State) : bootSide (complete d st data s) =
    bootSide s := by
  simp [complete]

@[simp] theorem bootSide_finish (b : Nat) (n : Nat) (cl : List Nat) (d : HostDesc) (st : Nat) (data : Nat) (s : State) :
    bootSide (finish b n cl d st data s) = bootSide s := by
  simp [finish]

@[simp] theorem bootSide_sessPut (s : State) (k : Nat) (v : Sess) : bootSide (sessPut s k v) = bootSide s := (rfl)

@[simp] theorem bootSide_poolNote (kind : Byte) (ref : Nat) (ok : Bool) (s : State) : bootSide (poolNote kind ref ok s) =
    bootSide s := by
  unfold poolNote
  split <;> simp

@[simp] theorem bootSide_axPut (s : State) (n : Nat) (v : Axis) : bootSide (axPut s n v) = bootSide s := (rfl)

@[simp] theorem bootSide_axRestore (s : State) (n : Nat) : bootSide (axRestore s n) = bootSide s := by simp [axRestore]

@[simp] theorem bootSide_jWrite (st : Nat) (band : Nat) (ph : Nat) (row : Nat) (x0 : Nat) (y0 : Nat) (ww : Nat) (sh : Nat)
    (acrow : Nat) (scrow : Nat) (useq : W64) (s : State) : bootSide (jWrite st band ph row x0 y0 ww sh acrow scrow useq s) =
    bootSide s := by
  simp [jWrite]

@[simp] theorem bootSide_jRun (r : PnlRun) (st : Nat) (ph : Nat) (row : Nat) (s : State) : bootSide (jRun r st ph row s) =
    bootSide s := by
  simp [jRun]

@[simp] theorem bootSide_jRows (r : PnlRun) (st : Nat) (acrow : Nat) (scrow : Nat) (s : State) : bootSide (jRows r st acrow
    scrow s) = bootSide s := by
  simp [jRows]

@[simp] theorem bootSide_pnlSetRun (r : Option PnlRun) (s : State) : bootSide (pnlSetRun r s) = bootSide s := (rfl)

@[simp] theorem bootSide_setPen (v : Bool) (s : State) : bootSide (setPen v s) = bootSide s := by
  simp [setPen, ↓bootSide_mk, ↓bootSide_fold]

@[simp] theorem bootSide_bandNow (s : State) : bootSide (bandNow s).2 = bootSide s := by
  unfold bandNow
  dsimp only
  (repeat' split) <;> simp

@[simp] theorem bootSide_copyScratch (r : PnlRun) (y : Nat) (s : State) : bootSide (copyScratch r y s) = bootSide s := by
  simp [copyScratch]

@[simp] theorem bootSide_accountRow (r : PnlRun) (i : Nat) (s : State) : bootSide (accountRow r i s) = bootSide s := by
  simp [accountRow]

@[simp] theorem bootSide_accountRows (r : PnlRun) (start : Nat) (s : State) : bootSide (accountRows r start s) = bootSide s
    := by
  simp [accountRows]

@[simp] theorem bootSide_stripEnd (r : PnlRun) (s : State) : bootSide (stripEnd r s) = bootSide s := by
  simp [stripEnd, ↓bootSide_mk, ↓bootSide_fold]

@[simp] theorem bootSide_stripAccount (r : PnlRun) (start : Nat) (s : State) : bootSide (stripAccount r start s) = bootSide s
    := by
  simp [stripAccount]

@[simp] theorem bootSide_zeroRow (s : State) (y : Nat) : bootSide (zeroRow s y) = bootSide s := by simp [zeroRow]

@[simp] theorem bootSide_zeroRows (r : PnlRun) (start : Nat) (s : State) : bootSide (zeroRows r start s) = bootSide s := by
  simp [zeroRows, ↓bootSide_mk, ↓bootSide_fold]

@[simp] theorem bootSide_pumpOn (s : State) : bootSide (pumpOn s) = bootSide s := by simp [pumpOn, ↓bootSide_mk, ↓bootSide_fold]

@[simp] theorem bootSide_beginStrip (r : PnlRun) (s : State) : bootSide (beginStrip r s) = bootSide s := by simp [beginStrip]

@[simp] theorem bootSide_finPnl (d : HostDesc) (st : Nat) (data : Nat) (s : State) : bootSide (finPnl d st data s) = bootSide
    s := by
  simp [finPnl]

@[simp] theorem bootSide_runEnd (r : PnlRun) (s : State) : bootSide (runEnd r s) = bootSide s := by
  unfold runEnd
  split <;> simp

@[simp] theorem bootSide_runBegin (r : PnlRun) (s : State) : bootSide (runBegin r s) = bootSide s := by
  simp [runBegin, ↓bootSide_mk, ↓bootSide_fold]

@[simp] theorem bootSide_pnlNext (k : Nat) (s : State) : bootSide (pnlNext k s) = bootSide s := by
  induction k generalizing s with
  | zero => rfl
  | succ k ih =>
    unfold pnlNext
    split
    · dsimp only
      split_ifs
      · rfl
      · simp [ih, ↓bootSide_mk, ↓bootSide_fold]
      all_goals simp [↓bootSide_mk, ↓bootSide_fold]
    · rfl

@[simp] theorem bootSide_pnlGo (s : State) : bootSide (pnlGo s) = bootSide s := by simp [pnlGo]

@[simp] theorem bootSide_phasesDone (r : PnlRun) (s : State) : bootSide (phasesDone r s) = bootSide s := by simp [phasesDone]

@[simp] theorem bootSide_recovery (s : State) : bootSide (recovery s) = bootSide s := by simp [recovery]

@[simp] theorem bootSide_resumeRun (r : PnlRun) (s : State) : bootSide (resumeRun r s) = bootSide s := by
  simp [resumeRun, ↓bootSide_mk, ↓bootSide_fold]

@[simp] theorem bootSide_lanScan (s : State) : bootSide (lanScan s) = bootSide s := by
  simp [lanScan, ↓bootSide_mk, ↓bootSide_fold]

@[simp] theorem bootSide_applyStep (v : W128) (s : State) : bootSide (applyStep v s) = bootSide s := by
  simp [applyStep, ↓bootSide_mk, ↓bootSide_fold]

@[simp] theorem bootSide_residualLost (gap : Nat) (s : State) : bootSide (residualLost gap s) = bootSide s := (rfl)

@[simp] theorem bootSide_calLoad (s : State) : bootSide (calLoad s) = bootSide s := by
  simp [calLoad, ↓bootSide_mk, ↓bootSide_fold]

@[simp] theorem bootSide_theftStart (s : State) : bootSide (theftStart s) = bootSide s := by simp [theftStart]

@[simp] theorem bootSide_metrStart (s0 : State) : bootSide (metrStart s0) = bootSide s0 := by
  simp [metrStart, ↓bootSide_mk, ↓bootSide_fold]

@[simp] theorem bootSide_rootPut (s : State) (k : Nat) (v : Root) : bootSide (rootPut s k v) = bootSide s := (rfl)

@[simp] theorem bootSide_unwrapSess (kek : Bytes) (s : State) (kv : Nat × Sess) : bootSide (unwrapSess kek s kv) = bootSide s
    := by
  unfold unwrapSess
  split <;> simp

@[simp] theorem bootSide_unwrapSecrets (s : State) : bootSide (unwrapSecrets s) = bootSide s := by
  unfold unwrapSecrets
  split <;> simp [↓bootSide_mk, ↓bootSide_fold]

@[simp] theorem bootSide_tamperSeen (s : State) : bootSide (tamperSeen s) = bootSide s := by
  simp [tamperSeen, ↓bootSide_mk, ↓bootSide_fold]

@[simp] theorem bootSide_snuff (c : Nat) (s : State) : bootSide (snuff c s) = bootSide s := by
  simp [snuff, ↓bootSide_mk, ↓bootSide_fold]

@[simp] theorem bootSide_deriveKeys (secret : Bytes) (s : State) : bootSide (deriveKeys secret s) = bootSide s := (rfl)

@[simp] theorem bootSide_secPowerOn (s : State) : bootSide (secPowerOn s) = bootSide s := (rfl)

@[simp] theorem bootSide_rootCheck (s : State) (k : Nat) : bootSide (rootCheck s k) = bootSide s := by simp [rootCheck]

@[simp] theorem bootSide_drbgStart (s : State) : bootSide (drbgStart s) = bootSide s := by
  simp [drbgStart, ↓bootSide_mk, ↓bootSide_fold]

@[simp] theorem bootSide_secStart (cold : Bool) (s : State) : bootSide (secStart cold s) = bootSide s := by
  unfold secStart
  dsimp only
  (repeat' split) <;> simp [↓bootSide_mk, ↓bootSide_fold]

@[simp] theorem bootSide_laneSent (lane : Nat) (s : State) : bootSide (laneSent lane s) = bootSide s := (rfl)

@[simp] theorem bootSide_mirSend (lane : Nat) (kind : Nat) (cseq : W64) (off : Nat) (item : Nat) (payload : Bytes) (s : State)
    : bootSide (mirSend lane kind cseq off item payload s) = bootSide s := by
  unfold mirSend
  dsimp only
  (repeat' split) <;> simp [↓bootSide_mk, ↓bootSide_fold]

@[simp] theorem bootSide_helloSend (lane : Nat) (s : State) : bootSide (helloSend lane s) = bootSide s := by
  unfold helloSend
  split <;> simp

@[simp] theorem bootSide_freshNonce (s : State) : bootSide (freshNonce s) = bootSide s := (rfl)

@[simp] theorem bootSide_helloBoth (s : State) : bootSide (helloBoth s) = bootSide s := by simp [helloBoth]

@[simp] theorem bootSide_timeSend (s : State) : bootSide (timeSend s) = bootSide s := by
  simp [timeSend, ↓bootSide_mk, ↓bootSide_fold]

@[simp] theorem bootSide_mirExchange (s : State) : bootSide (mirExchange s) = bootSide s := by simp [mirExchange]

@[simp] theorem bootSide_wakeSources (s : State) : bootSide (wakeSources s) = bootSide s := by
  simp [wakeSources, ↓bootSide_mk, ↓bootSide_fold]

/-- What the start of an image leaves alone once it is set: SYS, the image and its identity, and whether a schedule runs. -/
def imageSide (s : State) : SysRegs × Option Image × W64 × Bool := (s.sys, s.sched.image, s.sched.actId, s.sched.run)

theorem imageSide_mk (a1 a2 a3 a4 a5 a6 a7 a8 a9 a10 a11 a12 a13 a14 a15 a16 a17 a18 a19 a20 a21 a22 a23 a24 a25 a26 a27 a28
    a29 a30 a31 a32) :
  imageSide (State.mk a1 a2 a3 a4 a5 a6 a7 a8 a9 a10 a11 a12 a13 a14 a15 a16 a17 a18 a19 a20 a21 a22 a23 a24 a25 a26 a27 a28
    a29 a30 a31 a32) =
    (a4, a6.image, a6.actId, a6.run) := rfl
theorem imageSide_fold (s : State) : (s.sys, s.sched.image, s.sched.actId, s.sched.run) = imageSide s := rfl
@[simp] theorem imageSide_ite (c : Prop) [Decidable c] (a b : State) : imageSide (if c then a else b) = if c then imageSide a
    else imageSide b := by split <;> rfl
@[simp] theorem imageSide_foldl {α : Type} (f : State → α → State) (h : ∀ s a, imageSide (f s a) = imageSide s) (l : List α)
    (s : State) : imageSide (l.foldl f s) = imageSide s := by
  induction l generalizing s with
  | nil => rfl
  | cons a l ih => rw [List.foldl_cons, ih, h]

@[simp] theorem imageSide_blkPut (s : State) (b : Nat) (v : Blk) : imageSide (blkPut s b v) = imageSide s := (rfl)

@[simp] theorem imageSide_enable (s : State) (b : Nat) : imageSide (enable s b) = imageSide s := (rfl)

@[simp] theorem imageSide_count (b : Nat) (n : Nat) (s : State) : imageSide (count b n s) = imageSide s := (rfl)

@[simp] theorem imageSide_srcPut (s : State) (n : Nat) (v : IrqSrc) : imageSide (srcPut s n v) = imageSide s := (rfl)

@[simp] theorem imageSide_irqEdge (n : Nat) (s : State) : imageSide (irqEdge n s) = imageSide s := (rfl)

@[simp] theorem imageSide_lantern (code : Nat) (sev : Nat) (data : Bytes) (s : State) : imageSide (lantern code sev data s) =
    imageSide s := by
  simp [lantern, ↓imageSide_mk, ↓imageSide_fold]

@[simp] theorem imageSide_mramWrite (off : Nat) (b : Bytes) (s : State) : imageSide (mramWrite off b s) = imageSide s := by
  simp [mramWrite, ↓imageSide_mk, ↓imageSide_fold]

@[simp] theorem imageSide_lpPut (s : State) (e : Nat) (v : LoopEng) : imageSide (lpPut s e v) = imageSide s := (rfl)

@[simp] theorem imageSide_engPut (s : State) (e : Nat) (c : CellEng) : imageSide (engPut s e c) = imageSide s := (rfl)

@[simp] theorem imageSide_slotPut (s : State) (k : Nat) (v : SSlot) : imageSide (slotPut s k v) = imageSide s := (rfl)

@[simp] theorem imageSide_beginLoad (k : Nat) (b : Bytes) (fresh : Bool) (d : Option HostDesc) (s : State) : imageSide
    (beginLoad k b fresh d s) = imageSide s := (rfl)

@[simp] theorem imageSide_beginParc (b : Bytes) (s : State) : imageSide (beginParc b s) = imageSide s := (rfl)

@[simp] theorem imageSide_lossRecord (s : State) : imageSide (lossRecord s) = imageSide s := by
  simp [lossRecord, ↓imageSide_mk, ↓imageSide_fold]

@[simp] theorem imageSide_theftConfig (s : State) : imageSide (theftConfig s) = imageSide s := (rfl)

@[simp] theorem imageSide_countRefused (code : Nat) (s : State) : imageSide (countRefused code s) = imageSide s := by
  simp [countRefused]

@[simp] theorem imageSide_checked (r : Nat × Nat) (s : State) : imageSide (checked r s) = imageSide s := by
  simp [checked, ↓imageSide_mk, ↓imageSide_fold]

@[simp] theorem imageSide_domPut (s : State) (d : Nat) (v : Dom) : imageSide (domPut s d v) = imageSide s := (rfl)

@[simp] theorem imageSide_setNeeds (s : State) : imageSide (setNeeds s) = imageSide s := by simp [setNeeds]

@[simp] theorem imageSide_startPoints (im : Image) (s : State) : imageSide (startPoints im s) = imageSide s := (rfl)

@[simp] theorem imageSide_startLoops (im : Image) (s : State) : imageSide (startLoops im s) = imageSide s := (rfl)

@[simp] theorem imageSide_axisConfig (im : Image) (s : State) : imageSide (axisConfig im s) = imageSide s := (rfl)

@[simp] theorem imageSide_metrConfig (im : Image) (s : State) : imageSide (metrConfig im s) = imageSide s := (rfl)

@[simp] theorem imageSide_linksConfig (im : Image) (s : State) : imageSide (linksConfig im s) = imageSide s := (rfl)

@[simp] theorem imageSide_startLinks (im : Image) (s : State) : imageSide (startLinks im s) = imageSide s := (rfl)

@[simp] theorem imageSide_startSolver (im : Image) (s : State) : imageSide (startSolver im s) = imageSide s := by
  have hload : imageSide ((List.range 4).foldl (fun s k => match sectAt im 0x20 k with
      | some b => beginLoad k b true none s
      | none => s) s) = imageSide s :=
    imageSide_foldl _ (fun u k => by split <;> simp) _ _
  unfold startSolver
  dsimp only
  split
  · simp only [imageSide_beginParc]
    exact hload
  · exact hload

@[simp] theorem imageSide_enableBlocks (im : Image) (s : State) : imageSide (enableBlocks im s) = imageSide s := by
  simp [enableBlocks]

@[simp] theorem imageSide_bootDoms (im : Image) (s : State) : imageSide (bootDoms im s) = imageSide s := by simp [bootDoms]

end Sys2Proof.Proofs
end

section
/-! PROOFS. Power domains and the stages of the start (R489, R490, R496 to R502). -/

namespace Sys2Proof.Proofs

open Sys2Proof.Machine Sys2Proof.Laws

/-! ### Domains -/

theorem domGet_domPut (s : State) (d : Nat) (v : Dom) : domGet (domPut s d v) d = v := tblGet_tblPut_same _ d v _

theorem domGet_domPut_ne (s : State) {d k : Nat} (v : Dom) (h : k ≠ d) : domGet (domPut s d v) k = domGet s k := tblGet_tblPut_ne _ v _ h

theorem domGet_congr {s t : State} (h : t.pwr = s.pwr) (k : Nat) : domGet t k = domGet s k := by
  unfold domGet
  rw [h]

/-- The domains that MC0 switches. -/
theorem domReset_on_iff (d : Fin 12) : (domReset d).st = 1 ↔ ¬(d ≠ 0 ∧ d ≠ 1 ∧ d ≠ 10) := by
  revert d
  decide

/-- A power-down clears no domain, no common register, no schedule and no record. -/
theorem domClear_frame (d : Nat) (s : State) :
    (domClear d s).pwr = s.pwr ∧ (domClear d s).blk = s.blk ∧ (domClear d s).sched = s.sched ∧ (domClear d s).recs = s.recs := by
  unfold domClear
  split <;> exact ⟨rfl, rfl, rfl, rfl⟩

theorem shadowDoms_frame (s : State) : (shadowDoms s).pwr = s.pwr ∧ (shadowDoms s).metr = s.metr := by
  unfold shadowDoms
  split
  · split_ifs <;> exact ⟨rfl, rfl⟩
  · exact ⟨rfl, rfl⟩

theorem axRestores_pwr (s : State) : ((List.range 16).foldl axRestore s).pwr = s.pwr :=
  (congrArg (fun x => x.2.1) (bootSide_foldl axRestore bootSide_axRestore (List.range 16) s) :)

/-- PD4 ends the retention of PD5; nothing else switches another domain. -/
theorem domGet_domStarted (d k : Nat) (s : State) :
    domGet (domStarted d s) k = if d = 4 ∧ k = 5 ∧ (domGet s 5).st = 2 then { domGet s 5 with st := 1 } else domGet s k := by
  unfold domStarted
  by_cases h4 : d = 4
  · rw [if_pos h4]
    by_cases hret : (domGet s 5).st = 2
    · rw [if_pos hret]
      by_cases hk : k = 5
      · rw [if_pos ⟨h4, hk, hret⟩, hk, domGet_domPut]
      · rw [if_neg (fun h => hk h.2.1), domGet_domPut_ne _ _ hk]
    · rw [if_neg hret, if_neg (fun h => hret h.2.2)]
  · rw [if_neg (fun h => h4 h.1 : ¬(d = 4 ∧ k = 5 ∧ (domGet s 5).st = 2)), if_neg h4]
    split_ifs
    · exact domGet_congr (axRestores_pwr s) k
    · rfl
    · rfl

/-- The state after the power-up of a domain. -/
def poweredUp (d : Nat) (v : Dom) (s : State) : State := shadowDoms (domStarted d (domPut s d v))

theorem domGet_poweredUp (d k : Nat) (v : Dom) (s : State) :
    domGet (poweredUp d v s) k =
      if k = d then v else if d = 4 ∧ k = 5 ∧ (domGet s 5).st = 2 then { domGet s 5 with st := 1 } else domGet s k := by
  rw [poweredUp, domGet_congr (shadowDoms_frame _).1, domGet_domStarted]
  by_cases hk : k = d
  · rw [if_pos hk, hk, domGet_domPut, if_neg (by omega)]
  · rw [if_neg hk, domGet_domPut_ne _ _ hk]
    by_cases h4 : d = 4
    · rw [domGet_domPut_ne _ _ (by omega : 5 ≠ d)]
    · rw [if_neg (fun h => h4 h.1), if_neg (fun h => h4 h.1)]

theorem poweredUp_metr (v : Dom) (s : State) : (poweredUp 11 v s).metr.started = true := by
  rw [poweredUp, (shadowDoms_frame _).2]
  rfl

theorem domainPowerUp_fixed {d : Fin 12} {s : State} (h : ¬(d ≠ 0 ∧ d ≠ 1 ∧ d ≠ 10) ∨ (domGet s d).st = 1) :
    exec (.domainPowerUp d) s = .next s ∧ exec (.powerGoodTimeout d) s = .next s := by
  have hor : (domReset d).st = 1 ∨ (domGet s d).st = 1 ∨ (!awake s) = true := h.imp (domReset_on_iff d).mpr Or.inl
  exact ⟨congrArg Host.Outcome.next (if_pos hor), congrArg Host.Outcome.next (if_pos hor)⟩

theorem not_fixed {d : Fin 12} {s : State} (ha : s.pwr.asleep = false) (hsw : d ≠ 0 ∧ d ≠ 1 ∧ d ≠ 10) (hoff : (domGet s d).st ≠ 1) :
    ¬((domReset d).st = 1 ∨ (domGet s d).st = 1 ∨ (!awake s) = true) := by
  rintro (h | h | h)
  · exact (domReset_on_iff d).mp h hsw
  · exact hoff h
  · rw [awake, ha] at h
    cases h

theorem domainPowerUp_eq {d : Fin 12} {s : State} (ha : s.pwr.asleep = false) (hsw : d ≠ 0 ∧ d ≠ 1 ∧ d ≠ 10) (hoff : (domGet s d).st ≠ 1) :
    exec (.domainPowerUp d) s = .next (poweredUp d { domGet s d with st := 1, upcnt := (domGet s d).upcnt + 1 } s) :=
  congrArg Host.Outcome.next (if_neg (not_fixed ha hsw hoff))

/-- The domain is off again. -/
def timedOut (d : Nat) (s : State) : State :=
  domPut (if (domGet s d).st = 2 then domClear d s else s) d { domGet s d with st := 0 }

theorem powerGoodTimeout_eq {d : Fin 12} {s : State} (ha : s.pwr.asleep = false) (hsw : d ≠ 0 ∧ d ≠ 1 ∧ d ≠ 10) (hoff : (domGet s d).st ≠ 1) :
    exec (.powerGoodTimeout d) s = .next (lantern 0x0F80 1 (leBytes 1 d.val) (count bPWR 2 (timedOut d s))) :=
  congrArg Host.Outcome.next (if_neg (not_fixed ha hsw hoff))

theorem timedOut_frame (d : Nat) (s : State) : (timedOut d s).blk = s.blk ∧ (timedOut d s).sched = s.sched ∧ (timedOut d s).recs = s.recs ∧
    (domGet (timedOut d s) d).st = 0 ∧ ∀ k, k ≠ d → domGet (timedOut d s) k = domGet s k := by
  obtain ⟨hpwr, hblk, hsched, hrecs⟩ := domClear_frame d s
  have hst : (domGet (timedOut d s) d).st = 0 := by
    unfold timedOut
    rw [domGet_domPut]
  unfold timedOut at hst ⊢
  split_ifs at hst ⊢ with h
  · exact ⟨hblk, hsched, hrecs, hst, fun k hk => (domGet_domPut_ne _ _ hk).trans (domGet_congr hpwr k)⟩
  · exact ⟨rfl, rfl, rfl, hst, fun k hk => domGet_domPut_ne _ _ hk⟩

/-- The state after the power-down of an idle domain. -/
def poweredDown (d : Nat) (s : State) : State :=
  let s1 := domClear d (domPut s d { domGet s d with st := 0 })
  if d = 4 ∧ Machine.slotLoaded s1 ∧ (domGet s1 5).st = 1 then domPut s1 5 { domGet s1 5 with st := 2 } else s1

theorem domainPowerDown_fixed {d : Fin 12} {s : State} (h : ¬(d ≠ 0 ∧ d ≠ 1 ∧ d ≠ 10) ∨ (domGet s d).st ≠ 1 ∨ domIdle s d = false) :
    exec (.domainPowerDown d) s = .next s := by
  refine congrArg Host.Outcome.next (if_pos ?_)
  rcases h with h | h | h
  · exact Or.inl ((domReset_on_iff d).mpr h)
  · exact Or.inr (Or.inl h)
  · rw [h]
    exact Or.inr (Or.inr rfl)

theorem domainPowerDown_eq {d : Fin 12} {s : State} (hsw : d ≠ 0 ∧ d ≠ 1 ∧ d ≠ 10) (hon : (domGet s d).st = 1) (hidle : domIdle s d = true) :
    exec (.domainPowerDown d) s = .next (poweredDown d s) := by
  refine congrArg Host.Outcome.next ((if_neg ?_).trans ?_)
  · rw [hidle, domReset_on_iff]
    rintro (h | h | h)
    · exact h hsw
    · exact h hon
    · cases h
  · unfold poweredDown
    dsimp only
    simp only [Fin.ext_iff]
    rfl

/-- A domain other than PD4 that powers down. -/
theorem poweredDown_plain {d : Nat} (h : d ≠ 4) (s : State) : poweredDown d s = domClear d (domPut s d { domGet s d with st := 0 }) :=
  if_neg fun hc => h hc.1

theorem poweredDown_blk (d : Nat) (s : State) : (poweredDown d s).blk = s.blk := by
  have h := (domClear_frame d (domPut s d { domGet s d with st := 0 })).2.1
  unfold poweredDown
  dsimp only
  split_ifs <;> exact h

theorem domGet_poweredDown (d k : Nat) (s : State) (hk : ¬(d = 4 ∧ k = 5)) :
    domGet (poweredDown d s) k = if k = d then { domGet s d with st := 0 } else domGet s k := by
  have hclear : domGet (domClear d (domPut s d { domGet s d with st := 0 })) k = if k = d then { domGet s d with st := 0 } else domGet s k := by
    rw [domGet_congr (domClear_frame d _).1]
    by_cases h : k = d
    · rw [if_pos h, h, domGet_domPut]
    · rw [if_neg h, domGet_domPut_ne _ _ h]
  refine Eq.trans ?_ hclear
  unfold poweredDown
  dsimp only
  split_ifs with hc
  · exact domGet_domPut_ne _ _ (fun h5 => hk ⟨hc.1, h5⟩)
  · rfl

/-- PD4 leaves the slots, and puts PD5 into retention while one is loaded. -/
theorem poweredDown_retains (s : State) : (poweredDown 4 s).solv.slots = s.solv.slots ∧
    (Machine.slotLoaded s = true → (domGet s 5).st = 1 → (domGet (poweredDown 4 s) 5).st = 2) := by
  have h5 : domGet (domClear 4 (domPut s 4 { domGet s 4 with st := 0 })) 5 = domGet s 5 := domGet_domPut_ne s _ (by decide)
  unfold poweredDown
  dsimp only
  refine ⟨?_, fun hloaded hon => ?_⟩
  · split_ifs <;> rfl
  · rw [if_pos ⟨rfl, hloaded, by rw [h5]; exact hon⟩, domGet_domPut]

theorem engGet_cleared (s : State) : (∀ e, e < 4 → engGet (domClear 2 s) e = {}) ∧ ∀ e, 4 ≤ e → e < 8 → engGet (domClear 3 s) e = {} := by
  have hput (l : List Nat) (u : State) (e : Nat) (h : e ∈ l ∨ engGet u e = {}) :
      engGet (l.foldl (fun u e => engPut u e {}) u) e = {} := by
    induction l generalizing u with
    | nil => exact h.resolve_left List.not_mem_nil
    | cons a l ih =>
      refine ih _ ?_
      by_cases ha : e = a
      · rw [ha]
        exact Or.inr (engGet_engPut u a {})
      · rw [engGet_engPut_ne u {} ha]
        exact h.imp_left fun hm => (List.mem_cons.mp hm).resolve_left ha
  refine ⟨fun e he => hput [0, 1, 2, 3] s e (Or.inl ?_), fun e hlo he => hput [4, 5, 6, 7] s e (Or.inl ?_)⟩
  · simp only [List.mem_cons, List.not_mem_nil]
    omega
  · simp only [List.mem_cons, List.not_mem_nil]
    omega

/-- An idle domain that powers down loses its contents. -/
theorem domainPowerDown_clears {d : Fin 12} {s : State} (hsw : d ≠ 0 ∧ d ≠ 1 ∧ d ≠ 10) (hon : (domGet s d).st = 1) (hidle : domIdle s d = true) :
    Gives (.domainPowerDown d) s (fun t => (domGet t d).st = 0 ∧ t.blk = s.blk ∧
      (∀ k, k ≠ d.val → ¬(d = 4 ∧ k = 5) → domGet t k = domGet s k) ∧
      (d = 2 → ∀ e, e < 4 → engGet t e = {}) ∧ (d = 3 → ∀ e, 4 ≤ e → e < 8 → engGet t e = {}) ∧ (d = 5 → t.solv.slots = []) ∧
      (d = 6 → t.loops = {} ∧ t.axis = {} ∧ t.parc = {}) ∧ (d = 7 → t.canl = {} ∧ t.mbus = {}) ∧ (d = 9 → t.hif = {}) ∧
      (d = 4 → t.solv.slots = s.solv.slots ∧ (Machine.slotLoaded s = true → (domGet s 5).st = 1 → (domGet t 5).st = 2))) := by
  have hself : domGet (poweredDown d s) d = { domGet s d with st := 0 } :=
    (domGet_poweredDown d d s (by omega)).trans (if_pos rfl)
  refine ⟨_, domainPowerDown_eq hsw hon hidle, by rw [hself], poweredDown_blk d s, fun k hk h45 => ?_, ?_⟩
  · rw [domGet_poweredDown d k s (fun h => h45 ⟨Fin.ext h.1, h.2⟩), if_neg hk]
  refine ⟨?_, ?_, ?_, ?_, ?_, ?_, ?_⟩
  · rintro rfl
    exact (engGet_cleared _).1
  · rintro rfl
    exact (engGet_cleared _).2
  · rintro rfl
    rfl
  · rintro rfl
    exact ⟨rfl, rfl, rfl⟩
  · rintro rfl
    exact ⟨rfl, rfl⟩
  · rintro rfl
    rfl
  · rintro rfl
    exact poweredDown_retains s

/-! ### The boot ROM (R498) -/

/-- The management domain has started, with the fuses of a power-on reset. -/
def romStarted (s : State) : State :=
  let s1 := { s with pwr := { s.pwr with asleep := false, pllA := true } }
  wakeSources (if s.sys.cause.toNat ≤ 2 then secPowerOn s1 else s1)

theorem romStarted_frame (s : State) : (romStarted s).sys = s.sys ∧ (romStarted s).pwr = { s.pwr with asleep := false, pllA := true } := by
  have h : bootSide (romStarted s) = bootSide { s with pwr := { s.pwr with asleep := false, pllA := true } } := by
    unfold romStarted
    dsimp only
    rw [bootSide_wakeSources]
    split_ifs
    · exact bootSide_secPowerOn _
    · rfl
  exact ⟨(congrArg (fun x => x.1) h :), (congrArg (fun x => x.2.1) h :)⟩

/-- Stage 1 with the directory taken. -/
def romDone (dir : Bytes) (s : State) : State :=
  let s3 := takeDirectory dir (romStarted s)
  setStage 1 { s3 with sys := { s3.sys with debug := s3.sec.debug } }

theorem stageRom_eq {dir : Bytes} {s : State} (h : s.sys.stage = 0) : exec (.stageRom dir) s = .next (romDone dir s) :=
  congrArg Host.Outcome.next (if_neg (not_not_intro h))

theorem stageRom_fixed {dir : Bytes} {s : State} (h : s.sys.stage ≠ 0) : exec (.stageRom dir) s = .next s :=
  congrArg Host.Outcome.next (if_pos h)

theorem takeDirectory_pwr (dir : Bytes) (s : State) : (takeDirectory dir s).pwr = s.pwr := by
  unfold takeDirectory
  dsimp only
  split_ifs <;> rfl

theorem takeDirectory_good {dir : Bytes} (hlen : dir.length = 64) (hcrc : u32 dir 0x3C = crc32c (dir.take 0x3C)) (s : State) :
    (takeDirectory dir s).sys = { s.sys with
      xmode := BitVec.ofNat 8 (u8 dir 4), xdiv := BitVec.ofNat 8 (u8 dir 5), dirFwA := BitVec.ofNat 32 (u32 dir 8),
      dirFwB := BitVec.ofNat 32 (u32 dir 12), dirImgA := BitVec.ofNat 32 (u32 dir 16), dirImgB := BitVec.ofNat 32 (u32 dir 20),
      dirCert := BitVec.ofNat 32 (u32 dir 24) } := by
  refine congrArg State.sys (if_neg ?_)
  rintro (h | h)
  · omega
  · exact h hcrc

theorem takeDirectory_bad {dir : Bytes} (hcrc : u32 dir 0x3C ≠ crc32c (dir.take 0x3C)) (s : State) :
    (takeDirectory dir s).sys = { s.sys with
      dirBad := true, dirFwA := 0x1000, dirFwB := absent, dirImgA := absent, dirImgB := absent, xmode := 0, xdiv := 40 } :=
  congrArg State.sys (if_pos (Or.inr hcrc))

theorem toNat_u32 (b : Bytes) (o : Nat) : (BitVec.ofNat 32 (u32 b o)).toNat = u32 b o := by
  rw [BitVec.toNat_ofNat]
  exact Nat.mod_eq_of_lt (u32_lt b o)

theorem romDone_sys (dir : Bytes) (s : State) : ∃ dbg, (romDone dir s).sys = { (takeDirectory dir (romStarted s)).sys with debug := dbg, stage := 1 } :=
  ⟨_, rfl⟩

/-! ### Firmware (R401, R498) -/

theorem tryFirmware_runs {b : Bool} {at_ : W32} {c : Bytes} {s : State} (hst : s.sys.stage = 1) (hat : at_ ≠ absent) (he : firmwareError s c = 0) :
    tryFirmware b at_ (some c) s = setStage 2 { s with sys := { s.sys with
      fwB := b, fwDig := BitVec.ofNat 384 (beNat (sha384 (c.take (0x100 + u32 c 8)))) } } := by
  unfold tryFirmware
  dsimp only
  rw [if_neg (by rintro (h | h); exacts [h hst, hat h]), if_pos he]

theorem tryFirmware_fails {b : Bool} {at_ : W32} {c : Bytes} {s : State} (hst : s.sys.stage = 1) (hat : at_ ≠ absent) (he : firmwareError s c ≠ 0) :
    tryFirmware b at_ (some c) s = { s with sys := { s.sys with fwErr := BitVec.ofNat 8 (firmwareError s c) } } := by
  unfold tryFirmware
  dsimp only
  rw [if_neg (by rintro (h | h); exacts [h hst, hat h]), if_neg he]

theorem tryFirmware_past {b : Bool} {at_ : W32} {copy : Option Bytes} {s : State} (hst : s.sys.stage ≠ 1) : tryFirmware b at_ copy s = s := by
  unfold tryFirmware
  split
  · rfl
  · exact if_pos (Or.inl hst)

theorem firmwareError_le (s : State) (c : Bytes) : firmwareError s c ≤ 4 := by
  unfold firmwareError
  dsimp only
  split
  · decide
  split
  · decide
  split
  · decide
  · split_ifs <;> decide

theorem toNat_firmwareError (s : State) (c : Bytes) : (BitVec.ofNat 8 (firmwareError s c)).toNat = firmwareError s c := by
  rw [BitVec.toNat_ofNat]
  exact Nat.mod_eq_of_lt ((firmwareError_le s c).trans_lt (by decide))

theorem firmwareError_sys (s : State) (y : SysRegs) (c : Bytes) : firmwareError { s with sys := y } c = firmwareError s c := rfl

/-- A stage that fails writes Lantern record 0x0080. -/
theorem bootFail_frame (cause : Nat) (s : State) : (bootFail cause s).sys = { s.sys with stage := 0xF } ∧
    (bootFail cause s).pwr = s.pwr ∧ (bootFail cause s).recs.pcyc = s.recs.pcyc ∧
    ∀ u : State, s.recs.lfrozen = u.recs.lfrozen → s.recs.queue = u.recs.queue → InLantern 0x0080 u (bootFail cause s) := by
  have hside := bootSide_lantern 0x0080 2 (leBytes 1 cause) (setStage 0xF s)
  refine ⟨(congrArg (fun x => x.1) hside :), (congrArg (fun x => x.2.1) hside :), (congrArg (fun x => x.2.2.2.2.1) hside :), fun u hf hq hfrozen hlen => ?_⟩
  exact inLantern_lantern (s := setStage 0xF s) rfl rfl (hf.trans hfrozen) (by rw [← hq] at hlen; exact hlen)

theorem stageFirmware_fixed {ca cb : Option Bytes} {s : State} (h : s.sys.stage ≠ 1) : exec (.stageFirmware ca cb) s = .next s :=
  congrArg Host.Outcome.next (if_pos h)

/-- The firmware copies in their order. -/
def firmwareTried (ca cb : Option Bytes) (s : State) : State := tryFirmware true s.sys.dirFwB cb (tryFirmware false s.sys.dirFwA ca s)

theorem stageFirmware_passes {ca cb : Option Bytes} {s t : State} (h : s.sys.stage = 1) (ht : firmwareTried ca cb s = t)
    (hst : t.sys.stage = 2) : exec (.stageFirmware ca cb) s = .next t := by
  have hnot : ¬(firmwareTried ca cb s).sys.stage = 1 := by
    rw [ht, hst]
    decide
  exact congrArg Host.Outcome.next ((if_neg (not_not_intro h)).trans ((if_neg hnot).trans ht))

theorem stageFirmware_fails {ca cb : Option Bytes} {s t : State} (h : s.sys.stage = 1) (ht : firmwareTried ca cb s = t)
    (hst : t.sys.stage = 1) : exec (.stageFirmware ca cb) s = .next (bootFail 1 t) := by
  have hone : (firmwareTried ca cb s).sys.stage = 1 := by rw [ht, hst]
  exact congrArg Host.Outcome.next ((if_neg (not_not_intro h)).trans ((if_pos hone).trans (congrArg (bootFail 1) ht)))

/-! ### The memories (R498) -/

theorem bootSide_pnlStart (s : State) : bootSide (pnlStart s) = bootSide { s with pnl := { s.pnl with started := true } } := by
  unfold pnlStart
  dsimp only
  split_ifs <;> simp [↓bootSide_mk]

/-- The blocks that MC0 starts in stage 2 before the panel. -/
def blocksReady (nandOk : Bool) (s : State) : State :=
  let s1 := lanScan (nvmStart nandOk s)
  let s2 := secStart s.sys.pd0Cold s1
  let s3 := if s.rtc.osf then lantern 0x0E01 1 (leBytes 6 (rtcTicks s).toNat) s2 else s2
  (List.range 16).foldl axRestore (metrStart s3)

theorem bootSide_blocksReady (nandOk : Bool) (s : State) : bootSide (blocksReady nandOk s) = bootSide (nvmStart nandOk s) := by
  unfold blocksReady
  dsimp only
  rw [bootSide_foldl axRestore bootSide_axRestore, bootSide_metrStart]
  simp

theorem bootSide_blocksStarted (nandOk : Bool) (s : State) :
    bootSide (pnlStart (blocksReady nandOk s)) = (s.sys, s.pwr, nandOk, true, s.recs.pcyc, true) := by
  have hready := bootSide_blocksReady nandOk s
  rw [bootSide_pnlStart]
  generalize blocksReady nandOk s = u at hready ⊢
  simp only [bootSide, Prod.mk.injEq] at hready ⊢
  obtain ⟨hsys, hpwr, hok, hstarted, hpcyc, -⟩ := hready
  exact ⟨hsys, hpwr, hok, hstarted, hpcyc, trivial⟩

theorem memoryWork_eq (nandOk : Bool) (s : State) : memoryWork nandOk s = setStage 3 (enable (domPut (pnlStart (blocksReady nandOk s)) 9
    { domGet (blocksReady nandOk s) 9 with st := 1, upcnt := (domGet (blocksReady nandOk s) 9).upcnt + 1 }) bHIF) := by
  unfold memoryWork blocksReady
  dsimp only

/-! ### The image (R498, R499) -/

theorem imageSide_bootImage (im : Image) (s : State) :
    imageSide (bootImage im s) = (s.sys, some im, im.imgId, s.sched.run) := by
  unfold bootImage
  simp
  rfl

/-! ### The role and network time (R500, R501) -/

theorem portsConfig_frame (s : State) : ∃ p, portsConfig s = { s with ethl := { s.ethl with port := p } } := by
  have hfold (l : List Nat) (u : State) (hu : ∃ p, u = { s with ethl := { s.ethl with port := p } }) :
      ∃ p, l.foldl (fun s p => portPut s p { portGet s p with pen := (ethCfg s p).en }) u = { s with ethl := { s.ethl with port := p } } := by
    induction l generalizing u with
    | nil => exact hu
    | cons a l ih =>
      obtain ⟨p, rfl⟩ := hu
      exact ih _ ⟨_, rfl⟩
  exact hfold _ s ⟨s.ethl.port, rfl⟩

/-- A port of the image has PTP. -/
def hasPtpPort (s : State) : Bool := (List.range 16).any fun p => (ethCfg s p).en && (ethCfg s p).ptp

/-- Stage 5 with the ports of the image up. -/
def portsUp (act : Bool) (s : State) : State := portsConfig (setStage 5 { s with sys := { s.sys with partnerActive := act } })

theorem enterTime_eq (act : Bool) (s : State) :
    enterTime act s = if !act && !hasPtpPort s then setStage 6 (portsUp act s) else portsUp act s := by
  unfold enterTime hasPtpPort portsUp
  dsimp only

theorem enterTime_spec (act : Bool) (s : State) : (enterTime act s).sys.partnerActive = act ∧
    (enterTime act s).sys.stage = (if act || hasPtpPort s then 5 else 6) ∧ (enterTime act s).time = s.time := by
  obtain ⟨p, hp⟩ := portsConfig_frame (setStage 5 { s with sys := { s.sys with partnerActive := act } })
  have hup : portsUp act s = { setStage 5 { s with sys := { s.sys with partnerActive := act } } with ethl := { s.ethl with port := p } } := hp
  rw [enterTime_eq, hup]
  cases act <;> cases hasPtpPort s <;> exact ⟨rfl, rfl, rfl⟩

theorem applyStep_armed {s : State} (h : s.time.armed = true) (v : W128) : applyStep v s =
    { s with time := { keepTime s.time with offset := s.time.offset + v, armed := false, steps := s.time.steps + 1, lock := false } } :=
  if_pos h

theorem nowT_stepped (s : State) (v : W128) : nowT { s with time := { keepTime s.time with
    offset := s.time.offset + v, armed := false, steps := s.time.steps + 1, lock := false } } = nowT s + v :=
  timeAt_offset_add s.time v _

/-! ### The rows -/

/-- What the rows of the domains do. -/
theorem domains_holds (d : Fin 12) (s : State) (ha : s.pwr.asleep = false) :
    let v := domGet s d
    let sw := d ≠ 0 ∧ d ≠ 1 ∧ d ≠ 10
    (¬sw ∨ v.st = 1 → Gives (.domainPowerUp d) s (fun t => t = s) ∧ Gives (.powerGoodTimeout d) s (fun t => t = s)) ∧
    (sw → v.st ≠ 1 → Gives (.domainPowerUp d) s (fun t => domGet t d = { v with
        st := 1, upcnt := v.upcnt + 1 } ∧
      (∀ k, k ≠ d.val → ¬(d = 4 ∧ k = 5 ∧ (domGet s 5).st = 2) → domGet t k = domGet s k) ∧
      (d = 4 → (domGet s 5).st = 2 → (domGet t 5).st = 1) ∧ (d = 11 → t.metr.started = true))) ∧
    (sw → v.st ≠ 1 → Gives (.powerGoodTimeout d) s (fun t => (domGet t d).st = 0 ∧ cntOf t bPWR 2 = satInc (cntOf s bPWR 2) ∧
      InLantern 0x0F80 s t ∧ t.sched.shadowReady = s.sched.shadowReady ∧ ∀ k, k ≠ d.val → domGet t k = domGet s k)) := by
  intro v sw
  refine ⟨fun h => ?_, fun hsw hoff => ⟨_, domainPowerUp_eq ha hsw hoff, ?_⟩, fun hsw hoff => ⟨_, powerGoodTimeout_eq ha hsw hoff, ?_⟩⟩
  · obtain ⟨hup, hout⟩ := domainPowerUp_fixed h
    exact ⟨⟨s, hup, rfl⟩, s, hout, rfl⟩
  · refine ⟨(domGet_poweredUp _ _ _ _).trans (if_pos rfl), fun k hk hret => ?_, ?_, ?_⟩
    · rw [domGet_poweredUp, if_neg hk, if_neg (fun h => hret ⟨Fin.ext h.1, h.2⟩)]
    · rintro rfl hret
      rw [domGet_poweredUp, if_neg (by decide), if_pos ⟨rfl, rfl, hret⟩]
    · rintro rfl
      exact poweredUp_metr _ s
  · obtain ⟨hblk, hsched, hrecs, hst, hothers⟩ := timedOut_frame d s
    have hdoms (k : Nat) : domGet (lantern 0x0F80 1 (leBytes 1 d.val) (count bPWR 2 (timedOut d s))) k = domGet (timedOut d s) k :=
      domGet_congr (lantern_pwr _ _ _ _) k
    refine ⟨by rw [hdoms]; exact hst, ?_, inLantern_lantern (u := count bPWR 2 (timedOut d s)) hrecs rfl, ?_, fun k hk => (hdoms k).trans (hothers k hk)⟩
    · rw [lantern_cntOf (by decide), counted_count bPWR 2 (timedOut d s) bPWR 2, if_pos ⟨rfl, rfl⟩]
      exact congrArg (fun b => satInc (tblGet (tblGet b bPWR (blkReset bPWR)).cnt 2 0)) hblk
    · rw [lantern_sched]
      exact congrArg SchedRegs.shadowReady hsched

theorem stageRom_holds (dir : Bytes) (s : State) : (s.sys.stage ≠ 0 → Gives (.stageRom dir) s (fun t => t = s)) ∧
    (s.sys.stage = 0 → Gives (.stageRom dir) s (fun t => t.sys.stage = 1 ∧ t.pwr.asleep = false ∧ t.pwr.pllA = true ∧
      (dir.length = 64 → u32 dir 0x3C = crc32c (dir.take 0x3C) → t.sys.dirBad = s.sys.dirBad ∧ t.sys.dirFwA.toNat = u32 dir 8 ∧
        t.sys.dirFwB.toNat = u32 dir 12 ∧ t.sys.dirImgA.toNat = u32 dir 16 ∧ t.sys.dirImgB.toNat = u32 dir 20) ∧
      (dir.length = 64 → u32 dir 0x3C ≠ crc32c (dir.take 0x3C) → t.sys.dirBad = true ∧ t.sys.dirFwA = 0x1000 ∧
        t.sys.dirFwB = 0xFFFFFFFF ∧ t.sys.dirImgA = 0xFFFFFFFF ∧ t.sys.dirImgB = 0xFFFFFFFF))) := by
  refine ⟨fun h => ⟨s, stageRom_fixed h, rfl⟩, fun h => ⟨_, stageRom_eq h, ?_⟩⟩
  obtain ⟨hsys, hpwr⟩ := romStarted_frame s
  obtain ⟨dbg, hdone⟩ := romDone_sys dir s
  have hp : (romDone dir s).pwr = { s.pwr with asleep := false, pllA := true } := (takeDirectory_pwr dir _).trans hpwr
  rw [hp, hdone]
  refine ⟨rfl, rfl, rfl, fun hlen hcrc => ?_, fun _ hcrc => ?_⟩
  · rw [takeDirectory_good hlen hcrc, hsys]
    exact ⟨rfl, toNat_u32 dir 8, toNat_u32 dir 12, toNat_u32 dir 16, toNat_u32 dir 20⟩
  · rw [takeDirectory_bad hcrc]
    exact ⟨rfl, rfl, rfl, rfl, rfl⟩

theorem stageFirmware_holds (ca cb : Option Bytes) (s : State) (hst : s.sys.stage = 1) (hA : s.sys.dirFwA ≠ 0xFFFFFFFF) :
    (∀ a, ca = some a → firmwareError s a = 0 → Gives (.stageFirmware ca cb) s (fun t => t.sys.stage = 2 ∧ t.sys.fwB = false ∧
      t.sys.fwDig = BitVec.ofNat 384 (beNat (sha384 (a.take (0x100 + u32 a 8)))) ∧ t.recs = s.recs)) ∧
    (∀ a b, ca = some a → cb = some b → firmwareError s a ≠ 0 → s.sys.dirFwB ≠ 0xFFFFFFFF →
      (firmwareError s b = 0 → Gives (.stageFirmware ca cb) s (fun t => t.sys.stage = 2 ∧ t.sys.fwB = true ∧
        t.sys.fwErr.toNat = firmwareError s a)) ∧
      (firmwareError s b ≠ 0 → Gives (.stageFirmware ca cb) s (fun t => t.sys.stage = 0xF ∧ InLantern 0x0080 s t ∧
        t.sys.fwErr.toNat = firmwareError s b))) := by
  refine ⟨fun a ha he => ?_, fun a b ha hb hea hB => ?_⟩
  · have htried : firmwareTried ca cb s = setStage 2 { s with sys := { s.sys with
        fwB := false, fwDig := BitVec.ofNat 384 (beNat (sha384 (a.take (0x100 + u32 a 8)))) } } := by
      unfold firmwareTried
      rw [ha, tryFirmware_runs hst hA he]
      exact tryFirmware_past (by decide : (2 : BitVec 4) ≠ 1)
    exact ⟨_, stageFirmware_passes hst htried rfl, rfl, rfl, rfl, rfl⟩
  · subst ha hb
    have hfirst := tryFirmware_fails (b := false) hst hA hea
    refine ⟨fun heb => ?_, fun heb => ?_⟩
    · have htried : firmwareTried (some a) (some b) s = setStage 2 { s with sys := { s.sys with
          fwErr := BitVec.ofNat 8 (firmwareError s a), fwB := true, fwDig := BitVec.ofNat 384 (beNat (sha384 (b.take (0x100 + u32 b 8)))) } } := by
        unfold firmwareTried
        rw [hfirst]
        exact tryFirmware_runs hst hB heb
      exact ⟨_, stageFirmware_passes hst htried rfl, rfl, rfl, toNat_firmwareError s a⟩
    · have htried : firmwareTried (some a) (some b) s = { s with sys := { s.sys with fwErr := BitVec.ofNat 8 (firmwareError s b) } } := by
        unfold firmwareTried
        rw [hfirst]
        exact tryFirmware_fails hst hB heb
      obtain ⟨hsys, -, -, hlantern⟩ := bootFail_frame 1 { s with sys := { s.sys with fwErr := BitVec.ofNat 8 (firmwareError s b) } }
      exact ⟨_, stageFirmware_fails hst htried hst, (congrArg SysRegs.stage hsys).trans rfl, hlantern s rfl rfl,
        (congrArg (fun y : SysRegs => y.fwErr.toNat) hsys).trans (toNat_firmwareError s b)⟩

/-- The state of stage 2 with the trained memory noted. -/
def memoryNoted (g : BitVec 5) (v : Bool) (tr : BitVec 2) (s : State) : State :=
  { s with
    recs := { s.recs with pcyc := if s.sys.cause.toNat ≤ 2 then satInc s.recs.pcyc else s.recs.pcyc },
    pwr := { s.pwr with pllB := true, pllC := true },
    sys := { s.sys with gib := g, vddq := v, chok := tr } }

theorem stageMemory_fails {g : BitVec 5} {v nand : Bool} {tr : BitVec 2} {s : State} (hst : s.sys.stage = 2) (htr : tr ≠ 3) :
    exec (.stageMemory g v tr nand) s = .next (bootFail 2 (memoryNoted g v tr s)) :=
  congrArg Host.Outcome.next ((if_neg (not_not_intro hst)).trans (if_pos htr))

theorem stageMemory_passes {g : BitVec 5} {v nand : Bool} {s : State} (hst : s.sys.stage = 2) :
    exec (.stageMemory g v 3 nand) s = .next (memoryWork nand (memoryNoted g v 3 s)) :=
  congrArg Host.Outcome.next ((if_neg (not_not_intro hst)).trans (if_neg (not_not_intro rfl)))

/-- The host interface is on once the blocks have started. -/
theorem memoryWork_spec (nand : Bool) (s : State) :
    (memoryWork nand s).sys = { s.sys with stage := 3 } ∧ (memoryWork nand s).pwr.pllB = s.pwr.pllB ∧
      (memoryWork nand s).pwr.pllC = s.pwr.pllC ∧ (memoryWork nand s).recs.pcyc = s.recs.pcyc ∧ enOf (memoryWork nand s) bHIF = true ∧
      domOn (memoryWork nand s) 9 = true ∧ (memoryWork nand s).nvm.nandOk = nand ∧ (memoryWork nand s).nvm.started = true ∧
      (memoryWork nand s).pnl.started = true := by
  have hside := bootSide_blocksStarted nand s
  have hwork : ∃ v : Dom, v.st = 1 ∧ memoryWork nand s = setStage 3 (enable (domPut (pnlStart (blocksReady nand s)) 9 v) bHIF) :=
    ⟨_, rfl, memoryWork_eq nand s⟩
  obtain ⟨v, hv, hwork⟩ := hwork
  rw [hwork]
  generalize pnlStart (blocksReady nand s) = u at hside ⊢
  simp only [bootSide, Prod.mk.injEq] at hside
  obtain ⟨hsys, hpwr, hok, hstarted, hpcyc, hpnl⟩ := hside
  refine ⟨congrArg (fun y : SysRegs => { y with stage := 3 }) hsys, (congrArg PwrRegs.pllB hpwr :), (congrArg PwrRegs.pllC hpwr :), hpcyc, ?_, ?_,
    hok, hstarted, hpnl⟩
  · exact congrArg Blk.en (tblGet_tblPut_same u.blk bHIF _ _)
  · have hdom : domGet (domPut u 9 v) 9 = v := domGet_domPut u 9 v
    exact (congrArg (fun d : Dom => d.st == 1) hdom).trans (by rw [hv]; rfl)

theorem stageMemory_holds (g : BitVec 5) (v : Bool) (tr : BitVec 2) (nand : Bool) (s : State) (hst : s.sys.stage = 2) :
    Gives (.stageMemory g v tr nand) s (fun t => t.sys.gib = g ∧ t.sys.vddq = v ∧ t.sys.chok = tr ∧ t.pwr.pllB = true ∧
      t.pwr.pllC = true ∧ t.recs.pcyc = (if s.sys.cause.toNat ≤ 2 then satInc s.recs.pcyc else s.recs.pcyc) ∧
      (tr ≠ 3 → t.sys.stage = 0xF ∧ InLantern 0x0080 s t) ∧ (tr = 3 → t.sys.stage = 3 ∧ enOf t bHIF = true ∧ domOn t 9 = true ∧
        t.nvm.nandOk = nand ∧ t.nvm.started = true ∧ t.pnl.started = true)) := by
  by_cases htr : tr = 3
  · subst htr
    obtain ⟨hsys, hB, hC, hpcyc, hen, hon, hok, hstarted, hpnl⟩ := memoryWork_spec nand (memoryNoted g v 3 s)
    refine ⟨_, stageMemory_passes hst, ?_⟩
    dsimp only
    rw [hsys, hB, hC, hpcyc]
    exact ⟨rfl, rfl, rfl, rfl, rfl, rfl, fun h => absurd rfl h, fun _ => ⟨rfl, hen, hon, hok, hstarted, hpnl⟩⟩
  · obtain ⟨hsys, hpwr, hpcyc, hlantern⟩ := bootFail_frame 2 (memoryNoted g v tr s)
    refine ⟨_, stageMemory_fails hst htr, ?_⟩
    dsimp only
    rw [hsys, hpwr, hpcyc]
    exact ⟨rfl, rfl, rfl, rfl, rfl, rfl, fun _ => ⟨rfl, hlantern s rfl rfl⟩, fun h => absurd h htr⟩

/-- An image that passes its checks is installed and ends stage 3. -/
theorem tryImage_passes {b : Bool} {at_ : W32} {c : Bytes} {s : State} (hst : s.sys.stage = 3) (hat : at_ ≠ absent)
    (hc : (checkImage s true c).1 = 0) :
    (tryImage b at_ (some c) s).sys.stage = 4 ∧ (tryImage b at_ (some c) s).sys.imgB = b ∧
      (tryImage b at_ (some c) s).sched.image = some (parseImage c) ∧ (tryImage b at_ (some c) s).sched.actId = (parseImage c).imgId ∧
      (tryImage b at_ (some c) s).sched.run = s.sched.run := by
  have hchecked := imageSide_checked (checkImage s true c) s
  have htry : ∃ u : State, u.sys.imgB = b ∧ u.sched.run = s.sched.run ∧
      tryImage b at_ (some c) s = setStage 4 (bootImage (parseImage c) u) := by
    refine ⟨{ checked (checkImage s true c) s with sys := { (checked (checkImage s true c) s).sys with imgB := b } }, rfl,
      (congrArg (fun x => x.2.2.2) hchecked :), ?_⟩
    unfold tryImage
    dsimp only
    rw [if_neg (by rintro (h | h); exacts [h hst, hat h]), if_pos hc]
  obtain ⟨u, hb, hrun, htry⟩ := htry
  have hboot := imageSide_bootImage (parseImage c) u
  rw [htry]
  generalize bootImage (parseImage c) u = w at hboot ⊢
  simp only [imageSide, Prod.mk.injEq] at hboot
  obtain ⟨hsys, himage, hid, hrunw⟩ := hboot
  exact ⟨rfl, (congrArg SysRegs.imgB hsys).trans hb, himage, hid, hrunw.trans hrun⟩

theorem tryImage_past {b : Bool} {at_ : W32} {copy : Option Bytes} {s : State} (hst : s.sys.stage ≠ 3) : tryImage b at_ copy s = s := by
  unfold tryImage
  split
  · rfl
  · exact if_pos (Or.inl hst)

/-- The image copies in their order. -/
def imagesTried (ia ib : Option Bytes) (s : State) : State := tryImage true s.sys.dirImgB ib (tryImage false s.sys.dirImgA ia s)

theorem stageImage_fixed {ia ib : Option Bytes} {s : State} (h : s.sys.stage ≠ 3) : exec (.stageImage ia ib) s = .next s :=
  congrArg Host.Outcome.next (if_pos h)

theorem stageImage_loaded {ia ib : Option Bytes} {s : State} (h : s.sys.stage = 3) (him : s.sched.image.isSome = true) :
    exec (.stageImage ia ib) s = .next (setStage 4 s) :=
  congrArg Host.Outcome.next ((if_neg (not_not_intro h)).trans (if_pos him))

theorem stageImage_eq {ia ib : Option Bytes} {s t : State} (h : s.sys.stage = 3) (him : s.sched.image = none) (ht : imagesTried ia ib s = t) :
    exec (.stageImage ia ib) s = .next (if t.sys.stage = 3 then setStage 0xE t else t) := by
  have hnone : ¬s.sched.image.isSome = true := by
    rw [him]
    exact Bool.false_ne_true
  subst ht
  exact congrArg Host.Outcome.next ((if_neg (not_not_intro h)).trans (if_neg hnone))

theorem stageImage_holds (ia ib : Option Bytes) (s : State) (hst : s.sys.stage = 3) (him : s.sched.image = none) :
    (ia = none → ib = none → Gives (.stageImage ia ib) s (fun t => t.sys.stage = 0xE ∧ t.sched = s.sched)) ∧
    (∀ a, ia = some a → s.sys.dirImgA ≠ 0xFFFFFFFF → (checkImage s true a).1 = 0 → Gives (.stageImage ia ib) s (fun t => t.sys.stage = 4 ∧
      t.sys.imgB = false ∧ t.sched.image = some (parseImage a) ∧ t.sched.actId = (parseImage a).imgId ∧ t.sched.run = s.sched.run)) ∧
    ∀ b, ia = none → ib = some b → s.sys.dirImgB ≠ 0xFFFFFFFF → (checkImage s true b).1 = 0 → Gives (.stageImage ia ib) s (fun t =>
      t.sys.stage = 4 ∧ t.sys.imgB = true ∧ t.sched.image = some (parseImage b)) := by
  have hfour {t : State} (h4 : t.sys.stage = 4) : (if t.sys.stage = 3 then setStage 0xE t else t) = t :=
    if_neg (by rw [h4]; decide)
  refine ⟨?_, ?_, ?_⟩
  · rintro rfl rfl
    exact ⟨_, (stageImage_eq hst him rfl).trans (congrArg Host.Outcome.next (if_pos hst)), rfl, rfl⟩
  · rintro a rfl hat hc
    obtain ⟨h4, hB, himage, hid, hrun⟩ := tryImage_passes (b := false) hst hat hc
    have htried : imagesTried (some a) ib s = tryImage false s.sys.dirImgA (some a) s :=
      tryImage_past (by rw [h4]; decide)
    exact ⟨_, (stageImage_eq hst him htried).trans (congrArg Host.Outcome.next (hfour h4)), h4, hB, himage, hid, hrun⟩
  · rintro b rfl rfl hat hc
    obtain ⟨h4, hB, himage, -, -⟩ := tryImage_passes (b := true) hst hat hc
    exact ⟨_, (stageImage_eq hst him rfl).trans (congrArg Host.Outcome.next (hfour h4)), h4, hB, himage⟩

theorem roleStage_fixed {s : State} (h : s.sys.stage ≠ 4) : exec .stageRole s = .next s ∧ exec .pwaitExpiry s = .next s :=
  ⟨congrArg Host.Outcome.next (if_pos h), congrArg Host.Outcome.next (if_neg fun hc => h hc.1)⟩

theorem stageRole_alone {s : State} (h : s.sys.stage = 4) (hm : s.pair.mode = false) :
    exec .stageRole s = .next (enterTime false s) ∧ exec .pwaitExpiry s = .next s := by
  refine ⟨congrArg Host.Outcome.next ((if_neg (not_not_intro h)).trans (if_pos (by rw [hm]; rfl))), congrArg Host.Outcome.next (if_neg ?_)⟩
  rw [hm]
  exact fun hc => Bool.false_ne_true hc.2

theorem stageRole_pair {s : State} (h : s.sys.stage = 4) (hm : s.pair.mode = true) :
    exec .pwaitExpiry s = .next (enterTime false s) ∧ (∀ x, s.pair.hello = some x → exec .stageRole s = .next (enterTime (x.role == 1) s)) ∧
      (s.pair.hello = none → exec .stageRole s = .next (mirExchange s)) := by
  have hpair : ¬(!s.pair.mode) = true := by
    rw [hm]
    exact Bool.false_ne_true
  have hexec : exec .stageRole s = execStageRole s := rfl
  refine ⟨congrArg Host.Outcome.next (if_pos ⟨h, hm⟩), fun x hx => ?_, fun hx => ?_⟩
  · rw [hexec, execStageRole, if_neg (not_not_intro h), if_neg hpair, hx]
  · rw [hexec, execStageRole, if_neg (not_not_intro h), if_neg hpair, hx]

theorem mirExchange_sys (s : State) : (mirExchange s).sys = s.sys := (congrArg (fun x => x.1) (bootSide_mirExchange s) :)

/-! ### The rows of the time step (R500) -/

/-- The unit after the single step of network time. -/
def timeStepped (δ : W128) (s : State) : State :=
  { s with time := { keepTime s.time with offset := s.time.offset + δ, armed := false, steps := s.time.steps + 1, lock := false } }

theorem stageTime_ptp {δ : W128} {s : State} (h : s.sys.stage = 5) (harmed : s.time.armed = true) (hp : s.sys.partnerActive = false) :
    exec (.stageTime (.ptp δ)) s = .next (if ptpSource s then setStage 6 (setTsrc 1 (timeStepped δ s)) else s) := by
  have hexec : exec (.stageTime (.ptp δ)) s = execStageTime (.ptp δ) s := rfl
  rw [hexec, execStageTime, if_neg (not_not_intro h), applyStep_armed harmed]
  · rfl
  · exact hp

theorem stageTime_mirror {δ : W128} {s : State} (h : s.sys.stage = 5) (harmed : s.time.armed = true) (hp : s.sys.partnerActive = true) :
    exec (.stageTime (.mirror δ)) s = .next (setStage 6 (setTsrc 2 (timeStepped δ s))) := by
  have hexec : exec (.stageTime (.mirror δ)) s = execStageTime (.mirror δ) s := rfl
  rw [hexec, execStageTime, if_neg (not_not_intro h), applyStep_armed harmed]
  · rfl
  · exact hp

theorem lateTimeStep_steps {δ : W128} {s : State} (h : s.sys.stage = 6) (ht : s.sys.tsrc = 0) (harmed : s.time.armed = true)
    (hp : ptpSource s = true) : exec (.lateTimeStep δ) s = .next (lantern 0x0D81 0 [] (timeStepped δ s)) :=
  congrArg Host.Outcome.next ((if_pos ⟨h, ht, harmed, hp⟩).trans (congrArg (lantern 0x0D81 0 []) (applyStep_armed harmed δ)))

theorem lateTimeStep_fixed {δ : W128} {s : State} (h : s.sys.stage ≠ 6 ∨ s.sys.tsrc ≠ 0 ∨ s.time.armed = false ∨ ptpSource s = false) :
    exec (.lateTimeStep δ) s = .next s := by
  refine congrArg Host.Outcome.next (if_neg ?_)
  rintro ⟨hst, ht, harmed, hp⟩
  rcases h with h | h | h | h
  · exact h hst
  · exact h ht
  · exact absurd (harmed.symm.trans h) (by decide)
  · exact absurd (hp.symm.trans h) (by decide)

theorem twaitExpiry_ends {s : State} (h : s.sys.stage = 5) (hp : s.sys.partnerActive = false) : exec .twaitExpiry s = .next (setStage 6 s) := by
  refine congrArg Host.Outcome.next (if_pos ⟨h, ?_⟩)
  rw [hp]
  rfl

theorem stageRun_starts {s : State} (h : s.sys.stage = 6) (hen : enOf s bSCHED = false) :
    exec .stageRun s = .next (setEn { s with
      time := { s.time with origin := originFor s.sched.frameL.toNat (nowT s) },
      sched := { s.sched with mfn := 0, mfnBase := 0, kmf := 0 } } bSCHED true) := by
  refine congrArg Host.Outcome.next (if_pos ⟨h, ?_⟩)
  rw [hen]
  rfl

theorem stageRun_fixed {s : State} (h : s.sys.stage ≠ 6 ∨ enOf s bSCHED = true) : exec .stageRun s = .next s := by
  refine congrArg Host.Outcome.next (if_neg ?_)
  rintro ⟨hst, hen⟩
  rcases h with h | h
  · exact h hst
  · rw [h] at hen
    cases hen

/-- Settles O57: the power domains and the stages of the start in their order. -/
theorem domainsAndStagesFollowTheirOrder : Obligations.DomainsAndStagesFollowTheirOrder := by
  unfold Obligations.DomainsAndStagesFollowTheirOrder
  refine ⟨fun d s ha => ?_, stageRom_holds, fun ca cb s => ⟨fun h => ⟨s, stageFirmware_fixed h, rfl⟩, stageFirmware_holds ca cb s⟩,
    fun g v tr nand s => ⟨fun h => ⟨s, congrArg Host.Outcome.next (if_pos h), rfl⟩, stageMemory_holds g v tr nand s⟩,
    fun ia ib s => ⟨fun h => ⟨s, stageImage_fixed h, rfl⟩, fun h him => ⟨_, stageImage_loaded h him, rfl, rfl⟩, stageImage_holds ia ib s⟩,
    fun s => ?_⟩
  · obtain ⟨hfixed, hup, hout⟩ := domains_holds d s ha
    exact ⟨hfixed, hup, hout, fun h => ⟨s, domainPowerDown_fixed h, rfl⟩, domainPowerDown_clears⟩
  · intro ptp entered
    refine ⟨fun h => ?_, fun h hm => ?_, fun h hm => ?_, fun δ => ?_, fun h hp => ⟨_, twaitExpiry_ends h hp, rfl⟩, fun h => ?_,
      fun h hen => ⟨_, stageRun_starts h hen, congrArg Blk.en (tblGet_tblPut_same s.blk bSCHED _ _), rfl, rfl, rfl, rfl, rfl⟩,
      fun h => ⟨s, stageRun_fixed h, rfl⟩⟩
    · obtain ⟨hrole, hwait⟩ := roleStage_fixed h
      exact ⟨⟨s, hrole, rfl⟩, s, hwait, rfl⟩
    · obtain ⟨hrole, hwait⟩ := stageRole_alone h hm
      exact ⟨⟨_, hrole, enterTime_spec false s⟩, s, hwait, rfl⟩
    · obtain ⟨hwait, hhello, hnone⟩ := stageRole_pair h hm
      exact ⟨⟨_, hwait, enterTime_spec false s⟩, fun x hx => ⟨_, hhello x hx, enterTime_spec _ s⟩,
        fun hx => ⟨_, hnone hx, (congrArg SysRegs.stage (mirExchange_sys s)).trans h⟩⟩
    · intro stepped
      have hnow (src : BitVec 2) : stepped src (setStage 6 (setTsrc src (timeStepped δ s))) := ⟨rfl, rfl, nowT_stepped s δ, rfl, rfl⟩
      refine ⟨fun h harmed => ⟨fun hp => ⟨fun hsrc => ⟨_, (stageTime_ptp h harmed hp).trans (congrArg Host.Outcome.next (if_pos hsrc)), hnow 1⟩,
          fun hsrc => ⟨s, (stageTime_ptp h harmed hp).trans (congrArg Host.Outcome.next (if_neg (by rw [hsrc]; exact Bool.false_ne_true))), rfl⟩⟩,
          fun hp => ⟨_, stageTime_mirror h harmed hp, hnow 2⟩⟩,
        fun h ht harmed hp => ⟨_, lateTimeStep_steps h ht harmed hp, ?_, inLantern_lantern (u := timeStepped δ s) rfl rfl⟩,
        fun h => ⟨s, lateTimeStep_fixed h, rfl⟩⟩
      have htime := lantern_time (timeStepped δ s) 0x0D81 0 []
      have hsys := lantern_sys (timeStepped δ s) 0x0D81 0 []
      exact ⟨(congrArg SysRegs.stage hsys).trans h, (congrArg SysRegs.tsrc hsys).trans ht,
        (congrArg (fun t : TimeRegs => timeAt t t.tbc.toNat) htime).trans (nowT_stepped s δ), congrArg TimeRegs.armed htime,
        congrArg TimeRegs.steps htime⟩
    · exact ⟨⟨s, congrArg Host.Outcome.next (if_neg fun hc => h hc.1), rfl⟩,
        fun src => ⟨s, congrArg Host.Outcome.next (if_pos h), rfl⟩⟩

end Sys2Proof.Proofs
end

section
/-! PROOFS. The NAND in REC slots, history pages, the user tag and formatting (R457, R462 to R471). -/

namespace Sys2Proof.Proofs

open Sys2Proof.Machine Sys2Proof.Laws

/-! ### Little-endian numbers and the CRC -/

theorem leNat_leBytes (n v : Nat) : leNat (leBytes n v) = v % 256 ^ n := by
  induction n generalizing v with
  | zero => rw [pow_zero, Nat.mod_one]; rfl
  | succ n ih =>
    have hbyte : (BitVec.ofNat 8 v).toNat = v % 256 := BitVec.toNat_ofNat v 8
    rw [leBytes, leNat, ih, hbyte, pow_succ', Nat.mod_mul]

theorem crcBitR_lt {poly w : Nat} (hp : poly < 2 ^ w) (k : Nat) {c : Nat} (hc : c < 2 ^ w) : crcBitR poly k c < 2 ^ w := by
  induction k generalizing c with
  | zero => exact hc
  | succ k ih =>
    have hhalf : c / 2 < 2 ^ w := (Nat.div_le_self c 2).trans_lt hc
    refine ih ?_
    split_ifs
    · exact Nat.xor_lt_two_pow hhalf hp
    · exact hhalf

theorem crc32c_lt (b : Bytes) : crc32c b < 2 ^ 32 := by
  have hfold (l : Bytes) (c : Nat) (hc : c < 2 ^ 32) : l.foldl (fun c x => crcBitR 0x82F63B78 8 (c ^^^ x.toNat)) c < 2 ^ 32 := by
    induction l generalizing c with
    | nil => exact hc
    | cons x l ih => exact ih _ (crcBitR_lt (by decide) 8 (Nat.xor_lt_two_pow hc (x.isLt.trans (by decide))))
  exact Nat.xor_lt_two_pow (hfold b _ (by decide)) (by decide)

/-! ### The user tag (R470) -/

theorem tblRange_length {α : Type} (t : Tbl α) (n len : Nat) (d : α) : (tblRange t n len d).length = len := by
  induction len generalizing n with
  | zero => rfl
  | succ len ih => rw [tblRange, List.length_cons, ih]

theorem mramRead_length (a n : Nat) (s : State) : (mramRead a n s).length = n := tblRange_length _ _ _ _

theorem tagData_length (s : State) : (tagData s).length = 512 := by
  rw [tagData]
  split
  · exact mramRead_length _ _ _
  · rw [zeros, List.length_replicate]

theorem patch_length {b v : Bytes} {o : Nat} (h : o + v.length ≤ b.length) : (patch b o v).length = b.length := by
  simp only [patch, List.length_append, slice_length, List.length_drop]
  omega

/-- A copy of the tag with its number (Table 16-9). -/
def tagCopy (data : Bytes) (n : Nat) : Bytes := leBytes 8 n ++ zeros 4 ++ leBytes 4 (crc32c (data ++ leBytes 8 n)) ++ data

theorem tagCopy_length {data : Bytes} (h : data.length = 512) (n : Nat) : (tagCopy data n).length = 528 := by
  simp only [tagCopy, List.length_append, leBytes_length, zeros, List.length_replicate, h]

/-- A copy as it was written is valid, and holds its number and its content. -/
theorem tagSeq_of_copy {s : State} {k n : Nat} {data : Bytes} (hn : n < 2 ^ 64) (h : mramRead (tagAddr k) 528 s = tagCopy data n) :
    tagSeq s k = some n := by
  have hdata : (tagCopy data n).drop 16 = data := rfl
  have hseq : (tagCopy data n).take 8 = leBytes 8 n := rfl
  have hcrc : u32 (tagCopy data n) 12 = crc32c (data ++ leBytes 8 n) := by
    have hslice : slice (tagCopy data n) 12 4 = leBytes 4 (crc32c (data ++ leBytes 8 n)) := rfl
    unfold u32
    rw [hslice, leNat_leBytes]
    exact Nat.mod_eq_of_lt (crc32c_lt _)
  have hnum : u64 (tagCopy data n) 0 = n := by
    have hslice : slice (tagCopy data n) 0 8 = leBytes 8 n := rfl
    unfold u64
    rw [hslice, leNat_leBytes]
    exact Nat.mod_eq_of_lt hn
  unfold tagSeq
  dsimp only
  rw [h, hdata, hseq, hcrc, if_pos rfl, hnum]

theorem tblRange_drop {α : Type} (t : Tbl α) (n m len : Nat) (d : α) : (tblRange t n (m + len) d).drop m = tblRange t (n + m) len d := by
  induction m generalizing n with
  | zero => rw [Nat.zero_add, List.drop_zero, Nat.add_zero]
  | succ m ih =>
    rw [Nat.succ_add, tblRange, List.drop_succ_cons, ih, Nat.add_assoc, Nat.add_comm 1 m]

theorem tagContent_of_copy {s : State} {k n : Nat} {data : Bytes} (h : mramRead (tagAddr k) 528 s = tagCopy data n) :
    mramRead (tagAddr k + 16) 512 s = data := by
  have hdata : (tagCopy data n).drop 16 = data := rfl
  rw [← hdata, ← h]
  exact (tblRange_drop s.mram (tagAddr k) 16 512 0).symm

theorem tagSeq_congr {s t : State} (h : t.mram = s.mram) (k : Nat) : tagSeq t k = tagSeq s k := by
  unfold tagSeq mramRead
  rw [h]

theorem tagCur_congr {s t : State} (h : t.mram = s.mram) : tagCur t = tagCur s := by
  rw [tagCur, tagCur, tagSeq_congr h, tagSeq_congr h]

theorem tagData_congr {s t : State} (h : t.mram = s.mram) : tagData t = tagData s := by
  rw [tagData, tagData, tagCur_congr h]
  split
  · exact congrArg (fun m => tblRange m _ 512 0) h
  · rfl

/-- The copy that the next write takes, and its number. -/
def nextTagCopy (c : Option (Nat × Nat)) : Nat := match c with | some (k, _) => 1 - k | none => 0
def nextTagSeq (c : Option (Nat × Nat)) : Nat := (c.map (·.2)).getD 0 + 1

/-- The tag with new content. -/
def tagWritten (data : Bytes) (s : State) : State :=
  mramWrite (tagAddr (nextTagCopy (tagCur s))) (tagCopy data (nextTagSeq (tagCur s))) s

/-- The copy that counts, from the numbers of the two. -/
def laterCopy : Option Nat → Option Nat → Option (Nat × Nat)
  | some a, some b => if a < b then some (1, b) else some (0, a)
  | some a, none => some (0, a)
  | none, some b => some (1, b)
  | none, none => none

theorem tagCur_eq (s : State) : tagCur s = laterCopy (tagSeq s 0) (tagSeq s 1) := by
  rw [tagCur]
  generalize tagSeq s 0 = x
  generalize tagSeq s 1 = y
  cases x <;> cases y <;> rfl

/-- The copy that counts holds its number. -/
theorem laterCopy_some {f : Nat → Option Nat} {k n : Nat} (h : laterCopy (f 0) (f 1) = some (k, n)) : k ≤ 1 ∧ f k = some n := by
  cases h0 : f 0 with
  | none =>
    cases h1 : f 1 with
    | none => rw [h0, h1] at h; cases h
    | some b =>
      rw [h0, h1] at h
      cases h
      exact ⟨Nat.le_refl 1, h1⟩
  | some a =>
    cases h1 : f 1 with
    | none =>
      rw [h0, h1] at h
      cases h
      exact ⟨Nat.zero_le 1, h0⟩
    | some b =>
      rw [h0, h1, laterCopy] at h
      split_ifs at h
      · cases h
        exact ⟨Nat.le_refl 1, h1⟩
      · cases h
        exact ⟨Nat.zero_le 1, h0⟩

/-- A copy that takes the place of the earlier one with the next number counts. -/
theorem laterCopy_next {f g : Nat → Option Nat} (hnew : g (nextTagCopy (laterCopy (f 0) (f 1))) = some (nextTagSeq (laterCopy (f 0) (f 1))))
    (hold : ∀ j, j ≤ 1 → j ≠ nextTagCopy (laterCopy (f 0) (f 1)) → g j = f j) :
    laterCopy (g 0) (g 1) = some (nextTagCopy (laterCopy (f 0) (f 1)), nextTagSeq (laterCopy (f 0) (f 1))) := by
  cases h0 : f 0 with
  | none =>
    cases h1 : f 1 with
    | none =>
      rw [h0, h1] at hnew hold
      rw [(hold 1 (Nat.le_refl 1) (show (1 : Nat) ≠ 0 from Nat.one_ne_zero)).trans h1, show g 0 = some 1 from hnew]
      rfl
    | some b =>
      rw [h0, h1] at hnew hold
      rw [(hold 1 (Nat.le_refl 1) (show (1 : Nat) ≠ 0 from Nat.one_ne_zero)).trans h1, show g 0 = some (b + 1) from hnew]
      exact if_neg (by omega)
  | some a =>
    cases h1 : f 1 with
    | none =>
      rw [h0, h1] at hnew hold
      rw [(hold 0 (Nat.zero_le 1) (show (0 : Nat) ≠ 1 from Nat.zero_ne_one)).trans h0, show g 1 = some (a + 1) from hnew]
      exact if_pos (by omega)
    | some b =>
      rw [h0, h1] at hnew hold
      by_cases hab : a < b
      · have hl : laterCopy (some a) (some b) = some (1, b) := if_pos hab
        rw [hl] at hnew hold ⊢
        rw [(hold 1 (Nat.le_refl 1) (show (1 : Nat) ≠ 0 from Nat.one_ne_zero)).trans h1, show g 0 = some (b + 1) from hnew]
        exact if_neg (by omega)
      · have hl : laterCopy (some a) (some b) = some (0, a) := if_neg hab
        rw [hl] at hnew hold ⊢
        rw [(hold 0 (Nat.zero_le 1) (show (0 : Nat) ≠ 1 from Nat.zero_ne_one)).trans h0, show g 1 = some (a + 1) from hnew]
        exact if_pos (by omega)

theorem nextTagSeq_lt {c : Option (Nat × Nat)} (h : ∀ k n, c = some (k, n) → n < 2 ^ 64 - 1) : nextTagSeq c < 2 ^ 64 := by
  rcases c with _ | ⟨k, n⟩
  · exact (by decide : (1 : Nat) < 2 ^ 64)
  · have hlt := h k n rfl
    change n + 1 < 2 ^ 64
    omega

theorem tagCur_some {s : State} {k n : Nat} (h : tagCur s = some (k, n)) : tagSeq s k = some n :=
  (laterCopy_some (f := tagSeq s) ((tagCur_eq s).symm.trans h)).2

theorem tagData_of_copy {s : State} {k n : Nat} (h : tagCur s = some (k, n)) : tagData s = mramRead (tagAddr k + 16) 512 s := by
  rw [tagData]
  generalize 512 = m
  rw [h]

theorem nextTagCopy_le (c : Option (Nat × Nat)) : nextTagCopy c ≤ 1 := by
  rcases c with _ | ⟨k, n⟩
  · exact Nat.zero_le 1
  · exact Nat.sub_le 1 k

/-- The two copies do not overlap. -/
theorem tagCopies_apart {j k : Nat} (hj : j ≤ 1) (hk : k ≤ 1) (h : j ≠ k) : tagAddr j + 528 ≤ tagAddr k ∨ tagAddr k + 528 ≤ tagAddr j := by
  have hcases : (j = 0 ∧ k = 1) ∨ (j = 1 ∧ k = 0) := by omega
  rcases hcases with ⟨rfl, rfl⟩ | ⟨rfl, rfl⟩ <;> decide

theorem tagWritten_reads {data : Bytes} (hdata : data.length = 512) {s : State} (hopen : s.pwr.pflock = false) :
    mramRead (tagAddr (nextTagCopy (tagCur s))) 528 (tagWritten data s) = tagCopy data (nextTagSeq (tagCur s)) := by
  have h := mramRead_mramWrite hopen (tagAddr (nextTagCopy (tagCur s))) (tagCopy data (nextTagSeq (tagCur s)))
  rwa [tagCopy_length hdata] at h

theorem tagSeq_other {data : Bytes} (hdata : data.length = 512) {s : State} {j : Nat} (hj : j ≤ 1) (h : j ≠ nextTagCopy (tagCur s)) :
    tagSeq (tagWritten data s) j = tagSeq s j := by
  have hread : mramRead (tagAddr j) 528 (tagWritten data s) = mramRead (tagAddr j) 528 s := by
    refine mramRead_mramWrite_apart ?_ s
    rw [tagCopy_length hdata]
    exact tagCopies_apart hj (nextTagCopy_le _) h
  unfold tagSeq
  rw [hread]

/-- The copy that was written is the valid one with the higher number. -/
theorem tagCur_written {data : Bytes} (hdata : data.length = 512) {s : State} (hopen : s.pwr.pflock = false)
    (hseq : ∀ k x, tagSeq s k = some x → x < 2 ^ 64 - 1) :
    tagCur (tagWritten data s) = some (nextTagCopy (tagCur s), nextTagSeq (tagCur s)) := by
  have hnew := tagSeq_of_copy (nextTagSeq_lt fun k n hc => hseq k n (tagCur_some hc)) (tagWritten_reads hdata hopen)
  have hold : ∀ j, j ≤ 1 → j ≠ nextTagCopy (tagCur s) → tagSeq (tagWritten data s) j = tagSeq s j := fun j hj h => tagSeq_other hdata hj h
  rw [tagCur_eq] at hnew hold ⊢
  rw [tagCur_eq s]
  exact laterCopy_next (f := tagSeq s) hnew hold

/-- A write of the tag is read back, and touches the two copies alone. -/
theorem tagData_written {data : Bytes} (hdata : data.length = 512) {s : State} (hopen : s.pwr.pflock = false)
    (hseq : ∀ k x, tagSeq s k = some x → x < 2 ^ 64 - 1) : tagData (tagWritten data s) = data := by
  rw [tagData_of_copy (tagCur_written hdata hopen hseq)]
  exact tagContent_of_copy (tagWritten_reads hdata hopen)

theorem tagWritten_outside {data : Bytes} (hdata : data.length = 512) {s : State} (hopen : s.pwr.pflock = false) {a : Nat}
    (ha : a < 0x51100 ∨ 0x51610 ≤ a) : tblGet (tagWritten data s).mram a 0 = tblGet s.mram a 0 := by
  have haddr : 0x51100 ≤ tagAddr (nextTagCopy (tagCur s)) ∧ tagAddr (nextTagCopy (tagCur s)) ≤ 0x51400 := by
    unfold tagAddr
    split_ifs <;> decide
  have hlen := tagCopy_length hdata (nextTagSeq (tagCur s))
  rw [tagWritten, mramWrite_open hopen]
  generalize tagCopy data (nextTagSeq (tagCur s)) = b at hlen ⊢
  generalize tagAddr (nextTagCopy (tagCur s)) = x at haddr ⊢
  exact tblGet_tblPutAll_out b s.mram 0 (by omega)

/-! ### Completions of REC and NVM (R471) -/

/-- A completion changes of the records the journal alone. -/
theorem complete_recs (d : HostDesc) (st data : Nat) (s : State) : ∃ j n g,
    (complete d st data s).recs = { s.recs with journal := j, audNext := n, audGap := g } := by
  have haudit (a b c n : Nat) (x : Bytes) : ∃ j m g, (audit a b c n x s).recs = { s.recs with journal := j, audNext := m, audGap := g } := by
    unfold audit
    dsimp only
    split_ifs <;> exact ⟨_, _, _, rfl⟩
  obtain ⟨h, heq⟩ := complete_eq d st data s
  rw [heq]
  split_ifs
  · rcases auditDesc_cases d s with ha | ⟨a, b, c, n, x, ha⟩ <;> rw [ha]
    · exact ⟨_, _, _, rfl⟩
    · exact haudit a b c n x
  · exact ⟨_, _, _, rfl⟩

theorem complete_mram (d : HostDesc) (st data : Nat) (s : State) : (complete d st data s).mram = s.mram :=
  (congrArg State.mram (complete_frame d st data s) :)

theorem complete_nvm (d : HostDesc) (st data : Nat) (s : State) : (complete d st data s).nvm = s.nvm :=
  (congrArg State.nvm (complete_frame d st data s) :)

/-- The descriptor has completed with the status of a failed check, NVM has counted it, and the memories are as they were. -/
def RefusedByNvm (d : HostDesc) (st : Nat) (s t : State) : Prop :=
  Answered d st 0 t ∧ Counted bNVM 9 s t ∧ t.nvm = s.nvm ∧ t.recs = s.recs ∧ t.mram = s.mram

theorem finNvm_refused {d : HostDesc} {s : State} (hd : d ∈ (ringGet s d.ring).started) {st : Nat} (h : st ∈ recCounted) :
    RefusedByNvm d st s (finNvm d st 0 s) := by
  have hst : st ≠ stOK := fun he => absurd (he ▸ h) (by decide)
  have hframe := complete_refused_frame (d := d) (data := 0) hst (count bNVM 9 s)
  rw [finNvm, finish_listed h]
  exact ⟨answered_complete st 0 (s := count bNVM 9 s) hd, counted_of_blk (u := s) rfl (congrArg State.blk hframe :),
    (congrArg State.nvm hframe :), (congrArg State.recs hframe :), (congrArg State.mram hframe :)⟩

theorem finNvm_ok (d : HostDesc) (data : Nat) (s : State) : finNvm d stOK data s = complete d stOK data s := rfl

theorem finRec_ok (d : HostDesc) (data : Nat) (s : State) : finRec d stOK data s = complete d stOK data s := rfl

/-! ### The descriptors of NVM (R468, R470, R471) -/

section Descriptors

variable {d : HostDesc} {s : State}

theorem histWrite_refused (hd : d ∈ (ringGet s d.ring).started) (h : s.nvm.formatted = false) :
    RefusedByNvm d stNOT_READY s (effHistWrite d s) := by
  have heff : effHistWrite d s = finNvm d stNOT_READY 0 s := if_neg (by rw [h]; exact Bool.false_ne_true)
  rw [heff]
  exact finNvm_refused hd (by decide)

theorem histWrite_waits (h : s.nvm.formatted = true) :
    effHistWrite d s = { s with recs := { s.recs with histQueue := s.recs.histQueue ++ [d] } } := if_pos h

theorem tagWrite_locked (hd : d ∈ (ringGet s d.ring).started) (h : s.nvm.tagLock = true) : RefusedByNvm d stLOCKED s (effTagWrite d s) := by
  have heff : effTagWrite d s = finNvm d stLOCKED 0 s := if_pos h
  rw [heff]
  exact finNvm_refused hd (by decide)

theorem tagWrite_range (hd : d ∈ (ringGet s d.ring).started) (h : s.nvm.tagLock = false) (hr : d16 d 18 = 0 ∨ 512 < d16 d 16 + d16 d 18) :
    RefusedByNvm d stRANGE s (effTagWrite d s) := by
  have hor : d16 d 18 = 0 ∨ d16 d 18 > 512 ∨ d16 d 16 + d16 d 18 > 512 := hr.imp_right Or.inr
  have heff : effTagWrite d s = finNvm d stRANGE 0 s :=
    (if_neg (by rw [h]; exact Bool.false_ne_true)).trans (if_pos hor)
  rw [heff]
  exact finNvm_refused hd (by decide)

/-- The content that a TAG_WRITE asks for. -/
def tagPatched (d : HostDesc) (s : State) : Bytes := patch (tagData s) (d16 d 16) (slice d.buf 0 (d16 d 18))

theorem tagPatched_length (h : d16 d 16 + d16 d 18 ≤ 512) : (tagPatched d s).length = 512 := by
  rw [tagPatched, patch_length, tagData_length]
  rw [slice_length, tagData_length]
  exact h

theorem tagWrite_writes (h : s.nvm.tagLock = false) (hn : 0 < d16 d 18) (hr : d16 d 16 + d16 d 18 ≤ 512) :
    effTagWrite d s = complete d stOK 0 (tagWritten (tagPatched d s) s) := by
  have hor : ¬(d16 d 18 = 0 ∨ d16 d 18 > 512 ∨ d16 d 16 + d16 d 18 > 512) := by omega
  have hopen : ¬s.nvm.tagLock = true := by
    rw [h]
    exact Bool.false_ne_true
  rw [effTagWrite, if_neg hopen, if_neg hor, tagWritten, tagPatched]
  dsimp only
  generalize patch (tagData s) (d16 d 16) (slice d.buf 0 (d16 d 18)) = data
  generalize tagCur s = c
  rcases c with _ | ⟨k, n⟩ <;> rfl

theorem tagLock_sets (h : d8 d 16 ≤ 1) (hopen : s.pwr.pflock = false) :
    effTagLock d s = complete d stOK 0 { s with nvm := { s.nvm with tagLock := d8 d 16 == 1 } } := by
  have hu : unlocked s = true := by
    rw [unlocked, hopen]
    rfl
  refine (if_pos h).trans ?_
  rw [if_pos hu]
  rfl

theorem tagLock_range (hd : d ∈ (ringGet s d.ring).started) (h : 1 < d8 d 16) : RefusedByNvm d stRANGE s (effTagLock d s) := by
  have heff : effTagLock d s = finNvm d stRANGE 0 s := if_neg (Nat.not_le.mpr h)
  rw [heff]
  exact finNvm_refused hd (by decide)

theorem nvmFormat_busy (hd : d ∈ (ringGet s d.ring).started) (h : s.recs.afrozen = true ∨ s.nvm.formatReq.isSome = true) :
    RefusedByNvm d stBUSY s (effNvmFormat d s) := by
  have heff : effNvmFormat d s = finNvm d stBUSY 0 s := if_pos (by rw [Bool.or_eq_true]; exact h)
  rw [heff]
  exact finNvm_refused hd (by decide)

theorem nvmFormat_waits (h : s.recs.afrozen = false) (hf : s.nvm.formatReq = none) :
    effNvmFormat d s = { s with nvm := { s.nvm with formatReq := some d } } := if_neg (by rw [h, hf]; exact Bool.false_ne_true)

end Descriptors

theorem tagCur_number {s : State} {c : Option (Nat × Nat)} {k : Nat} (h : tagCur s = some (k, nextTagSeq c)) :
    (tagCur s).map (·.2) = some ((c.map (·.2)).getD 0 + 1) := by
  rw [h]
  rfl

/-- A TAG_WRITE that passes its checks, seen from a state with the same MRAM. -/
theorem tagWrite_settles {d : HostDesc} {s u : State} (hd : d ∈ (ringGet s d.ring).started) (h : s.nvm.tagLock = false)
    (hn : 0 < d16 d 18) (ho : d16 d 16 + d16 d 18 ≤ 512) (hopen : s.pwr.pflock = false) (hu : s.mram = u.mram)
    (hseq : ∀ k x, tagSeq u k = some x → x < 2 ^ 64 - 1) :
    Answered d stOK 0 (effTagWrite d s) ∧ tagData (effTagWrite d s) = patch (tagData u) (d16 d 16) (slice d.buf 0 (d16 d 18)) ∧
      (tagCur (effTagWrite d s)).map (·.2) = some (((tagCur u).map (·.2)).getD 0 + 1) ∧
      ∀ a, a < 0x51100 ∨ 0x51610 ≤ a → tblGet (effTagWrite d s).mram a 0 = tblGet u.mram a 0 := by
  have hmram := complete_mram d stOK 0 (tagWritten (tagPatched d s) s)
  have hlen := tagPatched_length (s := s) ho
  have hseq' : ∀ k x, tagSeq s k = some x → x < 2 ^ 64 - 1 := fun k x hx => hseq k x ((tagSeq_congr hu k).symm.trans hx)
  have hstarted : d ∈ (ringGet (tagWritten (tagPatched d s) s) d.ring).started := by
    rw [tagWritten, mramWrite_open hopen]
    exact hd
  have hcur := tagCur_written hlen hopen hseq'
  have hdata := tagData_written hlen hopen hseq'
  have hout := fun a => tagWritten_outside hlen hopen (a := a)
  rw [tagWrite_writes h hn ho, ← tagData_congr hu, ← tagCur_congr hu, ← hu]
  refine ⟨answered_complete _ _ hstarted, (tagData_congr hmram).trans hdata, ?_, fun a ha => ?_⟩
  · rw [tagCur_congr hmram]
    exact tagCur_number hcur
  · rw [hmram]
    exact hout a ha

/-- The clauses on the descriptors of NVM. -/
theorem nvmDescriptors_hold (d : HostDesc) (s : State) :
    let refused := fun (i : Instr) (st : Nat) => Gives i s (fun t => Answered d st 0 t ∧ Counted bNVM 9 s t ∧ t.nvm = s.nvm ∧
      t.recs = s.recs ∧ t.mram = s.mram)
    let o := d16 d 16
    let n := d16 d 18
    (Reaches 0x7C d s → (s.nvm.formatted = false → refused (.histWrite d) stNOT_READY) ∧ (s.nvm.formatted = true →
      Gives (.histWrite d) s (fun t => t.recs.histQueue = s.recs.histQueue ++ [d] ∧ d ∈ (ringGet t d.ring).started ∧ t.blk = s.blk))) ∧
    (Reaches 0x7D d s → (s.nvm.tagLock = true → refused (.tagWrite d) stLOCKED) ∧
      (s.nvm.tagLock = false → n = 0 ∨ 512 < o + n → refused (.tagWrite d) stRANGE) ∧
      (s.nvm.tagLock = false → 0 < n → o + n ≤ 512 → s.pwr.pflock = false → (∀ k x, tagSeq s k = some x → x < 2 ^ 64 - 1) →
        Gives (.tagWrite d) s (fun t => Answered d stOK 0 t ∧ tagData t = patch (tagData s) o (slice d.buf 0 n) ∧
          (tagCur t).map (·.2) = some (((tagCur s).map (·.2)).getD 0 + 1) ∧
          ∀ a, a < 0x51100 ∨ 0x51610 ≤ a → tblGet t.mram a 0 = tblGet s.mram a 0))) ∧
    (Reaches 0x7E d s → (d8 d 16 ≤ 1 → s.pwr.pflock = false → Gives (.tagLock d) s (fun t => Answered d stOK 0 t ∧
        t.nvm.tagLock = decide (d8 d 16 = 1))) ∧
      (1 < d8 d 16 → refused (.tagLock d) stRANGE)) ∧
    (Reaches 0x7F d s → (s.recs.afrozen = true ∨ s.nvm.formatReq.isSome = true → refused (.nvmFormat d) stBUSY) ∧
      (s.recs.afrozen = false → s.nvm.formatReq = none → Gives (.nvmFormat d) s (fun t => t.nvm.formatReq = some d ∧ t.blk = s.blk ∧
        d ∈ (ringGet t d.ring).started))) := by
  refine ⟨fun hr => ⟨fun h => gives_arrive rfl hr fun g c hd => histWrite_refused hd h, fun h => gives_arrive rfl hr fun g c hd => ?_⟩,
    fun hr => ⟨fun h => gives_arrive rfl hr fun g c hd => tagWrite_locked hd h,
      fun h hn => gives_arrive rfl hr fun g c hd => tagWrite_range hd h hn,
      fun h hn ho hopen hseq => gives_arrive rfl hr fun g c hd => ?_⟩,
    fun hr => ⟨fun h hopen => gives_arrive rfl hr fun g c hd => ?_, fun h => gives_arrive rfl hr fun g c hd => tagLock_range hd h⟩,
    fun hr => ⟨fun h => gives_arrive rfl hr fun g c hd => nvmFormat_busy hd h, fun h hf => gives_arrive rfl hr fun g c hd => ?_⟩⟩
  · rw [histWrite_waits (s := withStarted g c s) h]
    exact ⟨rfl, hd, rfl⟩
  · exact tagWrite_settles (s := withStarted g c s) hd h hn ho hopen rfl hseq
  · rw [tagLock_sets (s := withStarted g c s) h hopen]
    exact ⟨answered_complete _ _ hd, congrArg NvmRegs.tagLock (complete_nvm d stOK 0 _)⟩
  · rw [nvmFormat_waits (s := withStarted g c s) h hf]
    exact ⟨rfl, rfl, hd⟩

/-! ### The REC slot (R462) -/

theorem nbGet_nbPut (s : State) (b : Nat) (v : NandBlk) : nbGet (nbPut s b v) b = v := tblGet_tblPut_same _ b v _

theorem enOf_complete (d : HostDesc) (st data : Nat) (s : State) (c : Nat) : enOf (complete d st data s) c = enOf s c := by
  have haudit (a b e n : Nat) (x : Bytes) : enOf (audit a b e n x s) c = enOf s c := by
    unfold audit
    dsimp only
    split_ifs
    · exact enOf_count s bREC 3 c
    · exact enOf_count s bREC 2 c
    · rfl
    · exact enOf_count { s with recs := { s.recs with audGap := satInc s.recs.audGap } } bREC 2 c
    · rfl
  obtain ⟨h, heq⟩ := complete_eq d st data s
  rw [heq]
  split_ifs
  · rcases auditDesc_cases d s with ha | ⟨a, b, e, n, x, ha⟩ <;> rw [ha]
    · rfl
    · exact haudit a b e n x
  · rfl

theorem formatDue_none {s : State} (h : s.nvm.formatReq = none) : formatDue s = s := by
  unfold formatDue
  rw [h]

theorem startOp_disabled {s : State} (h : enOf s bREC = false) : startOp s = s := if_pos (by rw [h]; rfl)

/-- Nothing starts after the operation: REC is off and no format is asked for. -/
def NothingStarts (s : State) : Prop := enOf s bREC = false ∧ s.nvm.formatReq = none

theorem NothingStarts.startOp {s : State} (h : NothingStarts s) : startOp (formatDue s) = s := by
  rw [formatDue_none h.2, startOp_disabled h.1]

theorem NothingStarts.complete {s : State} (h : NothingStarts s) (d : HostDesc) (st data : Nat) : NothingStarts (complete d st data s) :=
  ⟨(enOf_complete d st data s bREC).trans h.1, (congrArg NvmRegs.formatReq (complete_nvm d st data s)).trans h.2⟩

theorem recSlot_idle {r : NandReport} {s : State} (hf : frozenM s 23 = false) (hop : s.recs.op = none) :
    exec (.recSlot r) s = .next (startOp (formatDue s)) := by
  have hexec : exec (.recSlot r) s = execRecSlot r s := rfl
  rw [hexec, execRecSlot, hf, if_neg Bool.false_ne_true, hop]

theorem recSlot_fixed {r : NandReport} {s : State} (h : frozenM s 23 = true ∨ (r = .busy ∧ s.recs.op ≠ none)) : exec (.recSlot r) s = .next s := by
  have hexec : exec (.recSlot r) s = execRecSlot r s := rfl
  rw [hexec, execRecSlot]
  by_cases hf : frozenM s 23 = true
  · rw [if_pos hf]
  · rw [if_neg hf]
    obtain ⟨rfl, hop⟩ := h.resolve_left hf
    obtain ⟨op, hop⟩ := Option.ne_none_iff_exists'.mp hop
    rw [hop]
    rfl

/-- An operation that ends, when nothing starts after it. -/
theorem recSlot_ends {r : NandReport} {op : NandOp} {s t : State} (hf : frozenM s 23 = false) (hop : s.recs.op = some op) (hr : (r == .busy) = false)
    (ht : endOp op r s = t) (hn : NothingStarts t) : exec (.recSlot r) s = .next t := by
  have hexec : exec (.recSlot r) s = execRecSlot r s := rfl
  rw [hexec, execRecSlot, hf, if_neg Bool.false_ne_true, hop]
  dsimp only
  rw [hr, if_neg Bool.false_ne_true, ht, hn.startOp]

/-! ### A page program starts (R457, R462) -/

section Program

variable {s : State} (hreads : s.recs.reads = []) (hcopy : s.recs.copying = none) (hrefresh : ∀ kv ∈ s.nvm.blocks, kv.2.refresh = false)

include hreads hcopy hrefresh

theorem startOp_program {t : State} (hen : enOf s bREC = true) (hfmt : s.nvm.formatted = true) (h : startProgram s = some t) :
    startOp s = t := by
  have hprogress : readProgress s = s := by
    unfold readProgress
    rw [hreads]
  have hnone : (s.nvm.blocks.find? fun kv => kv.2.refresh && decide (0 < kv.2.used)) = none := by
    refine List.find?_eq_none.mpr fun kv hkv => ?_
    rw [hrefresh kv hkv]
    exact Bool.false_ne_true
  have hcopies : copyStart s = s := by
    unfold copyStart
    rw [hcopy]
    dsimp only
    rw [hnone]
  unfold startOp
  rw [hen, hfmt, if_neg (by decide), hprogress, hcopies]
  dsimp only
  rw [h]
  rfl

omit hreads hrefresh

theorem startProgram_audit {b : Nat} (hdue : audDue s ≠ []) (hpage : nextPage s 0 s.recs.audBlk = some b) :
    startProgram s = some (startNand (.audit b (audDue s)) 0 b (nbGet s b).used ((audDue s).map audBytes).flatten
      (usePage b { s with recs := { s.recs with audBlk := some b } })) := by
  have hne : ¬(audDue s).isEmpty = true := fun h => hdue (List.isEmpty_iff.mp h)
  unfold startProgram
  rw [hcopy, if_neg hne, hpage]
  rfl

theorem startProgram_history {b : Nat} {d : HostDesc} {q : List HostDesc} (hdue : audDue s = []) (hq : s.recs.histQueue = d :: q)
    (hpage : nextPage s 1 s.recs.histBlk = some b) :
    startProgram s = some (startNand (.history b s.recs.hseqNext.toNat d) 0 b (nbGet s b).used (slice d.buf 0 4096)
      (usePage b { s with recs := { s.recs with histBlk := some b } })) := by
  unfold startProgram
  rw [hcopy, hdue, hq, hpage]
  rfl

end Program

theorem audDue_full {s : State} (hclear : s.recs.clearProg = false)
    (h : s.recs.afrozen = false ∧ 0 < recsPerPage s ∧ recsPerPage s ≤ s.recs.journal.length) :
    audDue s = s.recs.journal.take (recsPerPage s) ∧ audDue s ≠ [] := by
  obtain ⟨hfrozen, hpos, hlen⟩ := h
  have hdue : audDue s = s.recs.journal.take (recsPerPage s) := by
    unfold audDue
    rw [hclear, hfrozen, if_neg Bool.false_ne_true, if_neg Bool.false_ne_true, if_pos ⟨hpos, hlen⟩]
  refine ⟨hdue, fun hnil => ?_⟩
  have hzero := congrArg List.length (hdue.symm.trans hnil)
  rw [List.length_take, List.length_nil] at hzero
  omega

theorem audDue_short {s : State} (hclear : s.recs.clearProg = false)
    (h : ¬(s.recs.afrozen = false ∧ 0 < recsPerPage s ∧ recsPerPage s ≤ s.recs.journal.length)) : audDue s = [] := by
  unfold audDue
  rw [hclear, if_neg Bool.false_ne_true]
  split_ifs with hfrozen hfull
  · rfl
  · exact absurd ⟨Bool.eq_false_iff.mpr hfrozen, hfull⟩ h
  · rfl

/-! ### Blocks that fail or are worn (R464) -/

/-- The replacement of a block keeps its state and touches the blocks and the capacity alone. -/
theorem replaceBlk_spec (b : Nat) (s : State) : (nbGet (replaceBlk b s) b).st = (nbGet s b).st ∧
    ∃ n a, replaceBlk b s = { s with nvm := { s.nvm with blocks := n }, recs := { s.recs with audCap := a } } := by
  unfold replaceBlk
  dsimp only
  split
  · exact ⟨(congrArg NandBlk.st (nbGet_nbPut _ b _)).trans rfl, _, _, rfl⟩
  · unfold shrink
    split_ifs
    · exact ⟨(congrArg NandBlk.st (nbGet_nbPut s b _)).trans rfl, _, _, rfl⟩
    · exact ⟨(congrArg NandBlk.st (nbGet_nbPut s b _)).trans rfl, _, _, rfl⟩

/-- A failed block is marked, and no program goes on in it. -/
def failMarked (b : Nat) (s : State) : State :=
  let s1 := count bNVM 5 (nbPut s b { nbGet s b with st := bkBAD_RUNTIME, refresh := hasPages s b })
  { s1 with recs := { s1.recs with
      audBlk := if s1.recs.audBlk = some b then none else s1.recs.audBlk,
      histBlk := if s1.recs.histBlk = some b then none else s1.recs.histBlk } }

theorem blkFailed_eq (b : Nat) (s : State) : blkFailed b s = if hasPages s b then failMarked b s else replaceBlk b (failMarked b s) := rfl

theorem failMarked_spec (b : Nat) (s : State) : (nbGet (failMarked b s) b).st = 4 ∧ Counted bNVM 5 s (failMarked b s) ∧
    (failMarked b s).nvm.formatReq = s.nvm.formatReq ∧ enOf (failMarked b s) bREC = enOf s bREC :=
  ⟨(congrArg NandBlk.st (nbGet_nbPut s b _)).trans rfl, counted_of_blk (u := s) rfl rfl, rfl, enOf_count s bNVM 5 bREC⟩

/-- A block that failed is BAD_RUNTIME and counted; the records stay. -/
theorem blkFailed_spec (b : Nat) (s : State) : (nbGet (blkFailed b s) b).st = 4 ∧ Counted bNVM 5 s (blkFailed b s) ∧
    (blkFailed b s).recs.op = s.recs.op ∧ (blkFailed b s).recs.journal = s.recs.journal ∧
    (blkFailed b s).recs.audPages = s.recs.audPages ∧ (NothingStarts s → NothingStarts (blkFailed b s)) := by
  obtain ⟨hst, hcount, hreq, hen⟩ := failMarked_spec b s
  have hmarked : NothingStarts s → NothingStarts (failMarked b s) := fun h => ⟨hen.trans h.1, hreq.trans h.2⟩
  rw [blkFailed_eq]
  split_ifs
  · exact ⟨hst, hcount, rfl, rfl, rfl, hmarked⟩
  · obtain ⟨hkeeps, n, a, hframe⟩ := replaceBlk_spec b (failMarked b s)
    refine ⟨hkeeps.trans hst, ?_, ?_, ?_, ?_, fun h => ?_⟩
    · rw [hframe]
      exact hcount
    · rw [hframe]
      rfl
    · rw [hframe]
      rfl
    · rw [hframe]
      rfl
    · rw [hframe]
      exact hmarked h

/-- A block after its erase. -/
def erasedBlk (v : NandBlk) : NandBlk :=
  { v with erases := v.erases + 1, reads := 0, used := 0, refresh := false, st := if v.st = bkRESERVE then v.st else bkFREE }

theorem eraseDone_worn {b : Nat} {s : State} (h : 1000 * s.nvm.endur.toNat ≤ ((nbGet s b).erases + 1).toNat) :
    eraseDone b s = replaceBlk b (count bNVM 2 (nbPut s b { erasedBlk (nbGet s b) with st := bkWORN })) := if_pos h

theorem eraseDone_kept {b : Nat} {s : State} (hpart : (nbGet s b).part = 0) (h : ((nbGet s b).erases + 1).toNat < 1000 * s.nvm.endur.toNat) :
    eraseDone b s = nbPut s b (erasedBlk (nbGet s b)) := by
  have hpart' : ¬(nbGet s b).part = 1 := by
    rw [hpart]
    decide
  unfold eraseDone
  dsimp only
  rw [if_neg (Nat.not_le.mpr h)]
  split
  · exact if_neg fun hc => hpart' hc.1
  · rfl

/-! ### Reads of the history (R463, R471) -/

theorem countN_frame (b n k : Nat) (s : State) : ∃ x, countN b n k s = { s with blk := x } := by
  induction k generalizing s with
  | zero => exact ⟨_, rfl⟩
  | succ k ih =>
    obtain ⟨x, hx⟩ := ih (count b n s)
    exact ⟨x, hx⟩

theorem countIf_frame (c : Bool) (b n : Nat) (s : State) : ∃ x, countIf c b n s = { s with blk := x } := by
  unfold countIf
  split_ifs <;> exact ⟨_, rfl⟩

theorem enOf_countIf (c : Bool) (b n a : Nat) (s : State) : enOf (countIf c b n s) a = enOf s a := by
  unfold countIf
  split_ifs
  · exact enOf_count s b n a
  · rfl

theorem enOf_countN (b n k a : Nat) (s : State) : enOf (countN b n k s) a = enOf s a := by
  induction k generalizing s with
  | zero => rfl
  | succ k ih => exact (ih _).trans (enOf_count s b n a)

theorem cntOf_countIf_other {b n k : Nat} (h : k ≠ n) (c : Bool) (s : State) : cntOf (countIf c b n s) b k = cntOf s b k := by
  unfold countIf
  split_ifs
  · rw [counted_count]
    exact if_neg fun hc => h hc.2
  · rfl

/-- The blocks, and what the codewords told. -/
def pageNoted (b : Nat) (cw : List (Option Nat)) (s : State) : State :=
  let v := nbGet s b
  let worst := (cw.filterMap id).foldl max 0
  let s1 := nbPut s b { v with reads := v.reads + 1, refresh := v.refresh || decide (v.reads.toNat + 1 = 1000 * s.nvm.rdlim.toNat) || decide (48 < worst) }
  { s1 with nvm := { s1.nvm with uncor := s1.nvm.uncor || decide (0 < (cw.filter fun c => c.isNone).length),
                                 corrMax := BitVec.ofNat 7 (max s1.nvm.corrMax.toNat (min 127 worst)) } }

theorem pageRead_eq (b : Nat) (cw : List (Option Nat)) (s : State) : ∃ x y n, pageRead b cw false s =
    countIf x bNVM 4 (countIf y bNVM 3 (countN bNVM 1 (cw.filter fun c => c.isNone).length (countN bNVM 0 n (pageNoted b cw s)))) :=
  ⟨_, _, _, rfl⟩

/-- A page that has been read changes NVM and counters alone. -/
theorem pageRead_spec (b : Nat) (cw : List (Option Nat)) (s : State) :
    (∃ x, pageRead b cw false s = { s with nvm := (pageNoted b cw s).nvm, blk := x }) ∧ enOf (pageRead b cw false s) bREC = enOf s bREC := by
  obtain ⟨x, y, n, heq⟩ := pageRead_eq b cw s
  constructor
  · obtain ⟨b0, h0⟩ := countN_frame bNVM 0 n (pageNoted b cw s)
    obtain ⟨b1, h1⟩ := countN_frame bNVM 1 (cw.filter fun c => c.isNone).length (countN bNVM 0 n (pageNoted b cw s))
    obtain ⟨b2, h2⟩ := countIf_frame y bNVM 3 (countN bNVM 1 (cw.filter fun c => c.isNone).length (countN bNVM 0 n (pageNoted b cw s)))
    obtain ⟨b3, h3⟩ := countIf_frame x bNVM 4
      (countIf y bNVM 3 (countN bNVM 1 (cw.filter fun c => c.isNone).length (countN bNVM 0 n (pageNoted b cw s))))
    refine ⟨b3, ?_⟩
    rw [heq, h3, h2, h1, h0]
    rfl
  · rw [heq, enOf_countIf, enOf_countIf, enOf_countN, enOf_countN]
    rfl

/-- An uncorrectable codeword alone is counted once. -/
theorem cntOf_pageRead_uncorrectable (b : Nat) (s : State) : cntOf (pageRead b [none] false s) bNVM 1 = satInc (cntOf s bNVM 1) := by
  have heq : ∃ x y, pageRead b [none] false s = countIf x bNVM 4 (countIf y bNVM 3 (count bNVM 1 (pageNoted b [none] s))) := ⟨_, _, rfl⟩
  obtain ⟨x, y, heq⟩ := heq
  rw [heq, cntOf_countIf_other (by decide), cntOf_countIf_other (by decide), counted_count, if_pos ⟨rfl, rfl⟩]
  rfl

/-- The history page of a read. -/
theorem pageOf_history {s : State} {r : RecRead} {p : HistPage} (hwhat : r.what = 2) (hhist : s.recs.hist = [(r.next, p)]) :
    pageOf s r = some (p.blk, p.page) := by
  have hfind : s.recs.hist.find? (fun kv => kv.1 == r.next) = some (r.next, p) := by
    rw [hhist]
    exact List.find?_cons_of_pos (beq_self_eq_true _)
  have hnot : ¬r.what = 1 := by
    rw [hwhat]
    decide
  unfold pageOf
  rw [if_neg hnot, hfind]
  rfl

/-- The last page of a history read: it completes OK with the page, or PARTIAL with the bytes as they were read. -/
theorem readArrived_last {s : State} {r : RecRead} {p : HistPage} (hreads : s.recs.reads = [r]) (hwhat : r.what = 2)
    (hhist : s.recs.hist = [(r.next, p)]) (hleft : r.left = 1) (page : Bytes) (cw : List (Option Nat)) :
    readArrived page cw s =
      if cw.any (·.isNone) then dropRead (finRec r.desc stPARTIAL r.done (toHost r.addr (slice page 0 4096) (pageRead p.blk cw false s)))
      else dropRead (finRec r.desc stOK (r.done + 1) (toHost r.addr p.data (pageRead p.blk cw false s))) := by
  have hnot : ¬r.what = 1 := by
    rw [hwhat]
    decide
  have hdata : (tblGet s.recs.hist r.next {}).data = p.data := by
    rw [hhist]
    exact congrArg HistPage.data (if_pos rfl)
  unfold readArrived
  rw [hreads]
  dsimp only
  rw [pageOf_history hwhat hhist]
  dsimp only
  simp only [if_neg hnot, hdata, hleft, le_refl, if_true]
  cases cw.any (·.isNone) <;> rfl

theorem toHost_frame (a : W64) (b : Bytes) (s : State) : ∃ o w, toHost a b s = { s with out := o, hif := { s.hif with writes := w } } := by
  unfold toHost
  split_ifs <;> exact ⟨_, _, rfl⟩

/-- A read that ends: its bytes are delivered, its descriptor completes, and it leaves the list of reads. -/
theorem readEnded {d : HostDesc} {u : State} (hd : d ∈ (ringGet u d.ring).started) {r : RecRead} (hreads : u.recs.reads = [r])
    (a : W64) (b : Bytes) (st data : Nat) : let t := dropRead (complete d st data (toHost a b u))
    Answered d st data t ∧ Delivered a b u t ∧ t.recs.reads = [] ∧ t.nvm = u.nvm ∧ cntOf t bNVM 1 = cntOf u bNVM 1 ∧
      (NothingStarts u → NothingStarts t) := by
  obtain ⟨o, w, hhost⟩ := toHost_frame a b u
  obtain ⟨j, n, g, hrecs⟩ := complete_recs d st data (toHost a b u)
  have hnvm : (complete d st data (toHost a b u)).nvm = u.nvm := (complete_nvm d st data _).trans (by rw [hhost])
  refine ⟨answered_complete (s := toHost a b u) st data (by rwa [toHost_started]), delivered_complete a b d st data u, ?_, hnvm, ?_, fun h => ?_⟩
  · refine (congrArg (fun x : RecRegs => x.reads.tail) hrecs).trans ?_
    rw [hhost]
    exact congrArg List.tail hreads
  · refine (complete_cntOf (by decide) d st data (toHost a b u) 1).trans ?_
    rw [hhost]
    rfl
  · have hthere : NothingStarts (toHost a b u) := by
      rw [hhost]
      exact h
    exact hthere.complete d st data

/-! ### The format (R467) -/

theorem audCapFor_le (s : State) (good : Nat) : audCapFor s good ≤ 1048576 :=
  (Nat.mul_le_mul_left _ (Nat.le_max_right 1 (recsPerPage s))).trans ((Nat.div_mul_le_self _ _).trans (Nat.min_le_left _ _))

/-- The state with both partitions discarded, before its Lantern record. -/
theorem formatNand_spec (s : State) : ∃ (u : State) (data : Bytes), formatNand s = lantern 0x1301 1 data u ∧
    u.recs.lfrozen = s.recs.lfrozen ∧ u.recs.queue = s.recs.queue ∧ u.nvm.formatted = true ∧ u.nvm.formatReq = s.nvm.formatReq ∧
    u.recs.hist = [] ∧ u.recs.audPages = [] ∧ u.recs.audCap.toNat ≤ 1048576 ∧ u.nvm.onfiId = Config.nandId ∧ u.hif = s.hif ∧ u.blk = s.blk := by
  refine ⟨_, _, rfl, rfl, rfl, rfl, rfl, rfl, rfl, ?_, rfl, rfl, rfl⟩
  exact (BitVec.toNat_ofNat _ _).trans_le ((Nat.mod_le _ _).trans (audCapFor_le s _))

theorem formatDue_formats {s : State} {d : HostDesc} (hreq : s.nvm.formatReq = some d) (hclear : s.recs.clearing = none) :
    formatDue s = complete d stOK 0 (formatNand { s with nvm := { s.nvm with formatReq := none } }) := by
  unfold formatDue
  rw [hreq]
  dsimp only
  rw [hclear]
  rfl

/-! ### The clauses on the REC slot -/

theorem recSlot_programs (r : NandReport) (s : State) (hf : frozenM s 23 = false) (hop : s.recs.op = none) (hreq : s.nvm.formatReq = none)
    (hen : enOf s bREC = true) (hfmt : s.nvm.formatted = true) (hreads : s.recs.reads = []) (hcopy : s.recs.copying = none)
    (hrefresh : ∀ kv ∈ s.nvm.blocks, kv.2.refresh = false) (hclear : s.recs.clearProg = false) :
    let full := s.recs.afrozen = false ∧ 0 < recsPerPage s ∧ recsPerPage s ≤ s.recs.journal.length
    let rs := s.recs.journal.take (recsPerPage s)
    (∀ b, full → nextPage s 0 s.recs.audBlk = some b → Gives (.recSlot r) s (fun t => t.recs.op = some (.audit b rs) ∧
      t.recs.journal = s.recs.journal ∧ (nbGet t b).used = (nbGet s b).used + 1 ∧ t.blk = s.blk ∧
      t.out = .nand 0 b (nbGet s b).used (rs.map audBytes).flatten :: s.out)) ∧
    ∀ b d q, ¬full → s.recs.histQueue = d :: q → nextPage s 1 s.recs.histBlk = some b → Gives (.recSlot r) s (fun t =>
      t.recs.op = some (.history b s.recs.hseqNext.toNat d) ∧ (nbGet t b).used = (nbGet s b).used + 1 ∧ t.blk = s.blk ∧
      t.recs.histQueue = s.recs.histQueue ∧ t.out = .nand 0 b (nbGet s b).used (slice d.buf 0 4096) :: s.out) := by
  have hstarts {t : State} (h : startProgram s = some t) : exec (.recSlot r) s = .next t := by
    rw [recSlot_idle hf hop, formatDue_none hreq, startOp_program hreads hcopy hrefresh hen hfmt h]
  have hused (b : Nat) (u : State) : (nbGet (usePage b u) b).used = (nbGet u b).used + 1 := congrArg NandBlk.used (nbGet_nbPut u b _)
  refine ⟨fun b hfull hpage => ?_, fun b d q hnot hq hpage => ?_⟩
  · obtain ⟨hdue, hne⟩ := audDue_full hclear hfull
    have hprog := startProgram_audit hcopy hne hpage
    rw [hdue] at hprog
    exact ⟨_, hstarts hprog, rfl, rfl, hused b { s with recs := { s.recs with audBlk := some b } }, rfl, rfl⟩
  · have hprog := startProgram_history hcopy (audDue_short hclear hnot) hq hpage
    exact ⟨_, hstarts hprog, rfl, hused b { s with recs := { s.recs with histBlk := some b } }, rfl, rfl, rfl⟩

/-- The state at the end of the operation in progress. -/
def opEnded (s : State) : State := { s with recs := { s.recs with op := none } }

theorem recSlot_auditEnds {s : State} {b : Nat} {rs : List AudRec} (hf : frozenM s 23 = false) (hn : NothingStarts s)
    (hop : s.recs.op = some (.audit b rs)) :
    (s.recs.clearProg = false → Gives (.recSlot .done) s (fun t => t.recs.op = none ∧ t.recs.journal = s.recs.journal.drop rs.length ∧
      t.recs.audPages = s.recs.audPages ++ [⟨b, (nbGet s b).used - 1, rs⟩] ∧ t.recs.audNext = s.recs.audNext ∧ t.blk = s.blk)) ∧
    (∀ d, s.recs.clearProg = true → s.recs.clearing = some d → d ∈ (ringGet s d.ring).started → Gives (.recSlot .done) s (fun t =>
      Answered d stOK 0 t ∧ t.recs.clearing = none ∧ t.recs.clearProg = false)) ∧
    Gives (.recSlot .failed) s (fun t => t.recs.op = none ∧ t.recs.journal = s.recs.journal ∧ t.recs.audPages = s.recs.audPages ∧
      (nbGet t b).st = 4 ∧ Counted bNVM 5 s t) := by
  refine ⟨fun hclear => ?_, fun d hclear hd hstarted => ?_, ?_⟩
  · have hend : endOp (.audit b rs) .done s = { opEnded s with recs := { (opEnded s).recs with
        audPages := s.recs.audPages ++ [⟨b, (nbGet s b).used - 1, rs⟩], journal := s.recs.journal.drop rs.length } } :=
      if_neg (show ¬s.recs.clearProg = true by rw [hclear]; exact Bool.false_ne_true)
    exact ⟨_, recSlot_ends hf hop rfl hend hn, rfl, rfl, rfl, rfl, rfl⟩
  · have hend : ∃ p j, endOp (.audit b rs) .done s = complete d stOK 0 { opEnded s with recs := { (opEnded s).recs with
        audPages := p, journal := j, clearProg := false, clearing := none } } := by
      refine ⟨s.recs.audPages ++ [⟨b, (nbGet s b).used - 1, rs⟩], s.recs.journal.drop rs.length, ?_⟩
      have hprog : endOp (.audit b rs) .done s = audProgrammed b rs (opEnded s) := rfl
      rw [hprog]
      unfold audProgrammed opEnded
      dsimp only
      rw [hclear, if_pos rfl, hd]
      rfl
    obtain ⟨p, j, hend⟩ := hend
    obtain ⟨j', n, g, hrecs⟩ := complete_recs d stOK 0 { opEnded s with recs := { (opEnded s).recs with
      audPages := p, journal := j, clearProg := false, clearing := none } }
    refine ⟨_, recSlot_ends hf hop rfl hend (NothingStarts.complete (by exact hn) d stOK 0), answered_complete _ _ hstarted, ?_, ?_⟩
    · exact (congrArg RecRegs.clearing hrecs).trans rfl
    · exact (congrArg RecRegs.clearProg hrecs).trans rfl
  · obtain ⟨hst, hcount, hop', hjournal, hpages, hquiet⟩ := blkFailed_spec b (opEnded s)
    have hend : endOp (.audit b rs) .failed s = blkFailed b (opEnded s) := rfl
    exact ⟨_, recSlot_ends hf hop rfl hend (hquiet hn), hop', hjournal, hpages, hst, hcount⟩

theorem recSlot_historyEnds {s : State} {b h : Nat} {d : HostDesc} (hf : frozenM s 23 = false) (hn : NothingStarts s)
    (hop : s.recs.op = some (.history b h d)) (hd : d ∈ (ringGet s d.ring).started) :
    Gives (.recSlot .done) s (fun t => Answered d stOK h t ∧ (tblGet t.recs.hist h {}).data = slice d.buf 0 4096 ∧
      t.recs.hseqNext = BitVec.ofNat 64 (h + 1) ∧ t.recs.histQueue = s.recs.histQueue.tail) := by
  have hend : endOp (.history b h d) .done s = complete d stOK h { opEnded s with recs := { (opEnded s).recs with
      hist := tblPut s.recs.hist h { blk := b, page := (nbGet s b).used - 1, data := slice d.buf 0 4096 } {},
      hseqNext := BitVec.ofNat 64 (h + 1), histQueue := s.recs.histQueue.tail } } := rfl
  obtain ⟨j, n, g, hrecs⟩ := complete_recs d stOK h { opEnded s with recs := { (opEnded s).recs with
      hist := tblPut s.recs.hist h { blk := b, page := (nbGet s b).used - 1, data := slice d.buf 0 4096 } {},
      hseqNext := BitVec.ofNat 64 (h + 1), histQueue := s.recs.histQueue.tail } }
  refine ⟨_, recSlot_ends hf hop rfl hend (NothingStarts.complete (by exact hn) d stOK h), answered_complete _ _ hd, ?_, ?_, ?_⟩
  · refine (congrArg (fun x : RecRegs => (tblGet x.hist h {}).data) hrecs).trans ?_
    exact congrArg HistPage.data (tblGet_tblPut_same s.recs.hist h _ _)
  · exact (congrArg RecRegs.hseqNext hrecs).trans rfl
  · exact (congrArg RecRegs.histQueue hrecs).trans rfl

theorem recSlot_eraseEnds {s : State} {b : Nat} (hf : frozenM s 23 = false) (hn : NothingStarts s) (hop : s.recs.op = some (.erase b))
    (hpart : (nbGet s b).part = 0) :
    (((nbGet s b).erases + 1).toNat < 1000 * s.nvm.endur.toNat → Gives (.recSlot .done) s (fun t => t.recs.op = none ∧ t.blk = s.blk ∧
      (nbGet t b).erases = (nbGet s b).erases + 1 ∧ (nbGet t b).reads = 0 ∧ (nbGet t b).used = 0)) ∧
    (1000 * s.nvm.endur.toNat ≤ ((nbGet s b).erases + 1).toNat → Gives (.recSlot .done) s (fun t => (nbGet t b).st = 5 ∧ Counted bNVM 2 s t)) := by
  refine ⟨fun h => ?_, fun h => ?_⟩
  · have hend : endOp (.erase b) .done s = nbPut (opEnded s) b (erasedBlk (nbGet s b)) := eraseDone_kept (s := opEnded s) hpart h
    have hget := nbGet_nbPut (opEnded s) b (erasedBlk (nbGet s b))
    refine ⟨_, recSlot_ends hf hop rfl hend hn, rfl, rfl, ?_, ?_, ?_⟩ <;> rw [hget] <;> rfl
  · have hend : endOp (.erase b) .done s = replaceBlk b (count bNVM 2 (nbPut (opEnded s) b { erasedBlk (nbGet s b) with st := bkWORN })) :=
      eraseDone_worn (s := opEnded s) h
    obtain ⟨hst, n, a, hframe⟩ := replaceBlk_spec b (count bNVM 2 (nbPut (opEnded s) b { erasedBlk (nbGet s b) with st := bkWORN }))
    have hworn : (nbGet (count bNVM 2 (nbPut (opEnded s) b { erasedBlk (nbGet s b) with st := bkWORN })) b).st = 5 :=
      (congrArg NandBlk.st (nbGet_nbPut (opEnded s) b _)).trans rfl
    have hen := enOf_count (nbPut (opEnded s) b { erasedBlk (nbGet s b) with st := bkWORN }) bNVM 2 bREC
    refine ⟨_, recSlot_ends hf hop rfl hend ?_, hst.trans hworn, ?_⟩
    · rw [hframe]
      exact ⟨hen.trans hn.1, hn.2⟩
    · rw [hframe]
      exact counted_of_blk (u := s) rfl rfl

theorem recSlot_readEnds {s : State} {r : RecRead} {p : HistPage} {page : Bytes} {cw : List (Option Nat)} (hf : frozenM s 23 = false)
    (hn : NothingStarts s) (hop : s.recs.op = some (.read r.desc)) (hreads : s.recs.reads = [r]) (hwhat : r.what = 2)
    (hhist : s.recs.hist = [(r.next, p)]) (hleft : r.left = 1) (hd : r.desc ∈ (ringGet s r.desc.ring).started) :
    ((∀ c ∈ cw, c = some 0) → Gives (.recSlot (.read page cw)) s (fun t => Answered r.desc stOK (r.done + 1) t ∧
      Delivered r.addr p.data s t ∧ t.recs.reads = [])) ∧
    (cw = [none] → Gives (.recSlot (.read page cw)) s (fun t => Answered r.desc stPARTIAL r.done t ∧ t.nvm.uncor = true ∧
      Delivered r.addr (slice page 0 4096) s t ∧ t.recs.reads = [] ∧ cntOf t bNVM 1 = satInc (cntOf s bNVM 1))) := by
  have hend : endOp (.read r.desc) (.read page cw) s = readArrived page cw (opEnded s) := rfl
  have hlast := readArrived_last (s := opEnded s) hreads hwhat hhist hleft page cw
  obtain ⟨⟨x, hframe⟩, hen⟩ := pageRead_spec p.blk cw (opEnded s)
  have hquiet : NothingStarts (pageRead p.blk cw false (opEnded s)) := by
    refine ⟨hen.trans hn.1, ?_⟩
    rw [hframe]
    exact hn.2
  have hstarted : r.desc ∈ (ringGet (pageRead p.blk cw false (opEnded s)) r.desc.ring).started := by
    rw [hframe]
    exact hd
  have hreads' : (pageRead p.blk cw false (opEnded s)).recs.reads = [r] := by
    rw [hframe]
    exact hreads
  have hdelivered {a : W64} {b : Bytes} {t : State} (h : Delivered a b (pageRead p.blk cw false (opEnded s)) t) : Delivered a b s t := by
    rw [hframe] at h
    exact h
  refine ⟨fun hgood => ?_, fun hbad => ?_⟩
  · have hany : ¬cw.any (·.isNone) = true := by
      rw [List.any_eq_true]
      rintro ⟨c, hc, hnone⟩
      rw [hgood c hc] at hnone
      cases hnone
    obtain ⟨hanswered, hdel, hempty, -, -, hstays⟩ := readEnded hstarted hreads' r.addr p.data stOK (r.done + 1)
    exact ⟨_, recSlot_ends hf hop rfl (hend.trans (hlast.trans (if_neg hany))) (hstays hquiet), hanswered, hdelivered hdel, hempty⟩
  · have hany : cw.any (·.isNone) = true := by
      rw [hbad]
      rfl
    obtain ⟨hanswered, hdel, hempty, hnvm, hcnt, hstays⟩ := readEnded hstarted hreads' r.addr (slice page 0 4096) stPARTIAL r.done
    refine ⟨_, recSlot_ends hf hop rfl (hend.trans (hlast.trans (if_pos hany))) (hstays hquiet), hanswered, ?_, hdelivered hdel, hempty, ?_⟩
    · refine (congrArg NvmRegs.uncor hnvm).trans ?_
      rw [hframe, hbad]
      exact Bool.or_true _
    · refine hcnt.trans ?_
      rw [hbad]
      exact cntOf_pageRead_uncorrectable p.blk (opEnded s)

/-- What a Lantern record leaves of the records (R452). -/
theorem lantern_logs (code sev : Nat) (data : Bytes) (s : State) : (lantern code sev data s).recs.hist = s.recs.hist ∧
    (lantern code sev data s).recs.audPages = s.recs.audPages ∧ (lantern code sev data s).recs.audCap = s.recs.audCap ∧
    enOf (lantern code sev data s) bREC = enOf s bREC := by
  unfold lantern
  split_ifs
  · exact ⟨rfl, rfl, rfl, enOf_count _ _ _ _⟩
  · exact ⟨rfl, rfl, rfl, rfl⟩
  · exact ⟨rfl, rfl, rfl, enOf_count _ _ _ _⟩

theorem recSlot_formats (r : NandReport) (d : HostDesc) (s : State) (hf : frozenM s 23 = false) (hop : s.recs.op = none)
    (hen : enOf s bREC = false) (hreq : s.nvm.formatReq = some d) (hclear : s.recs.clearing = none) (hd : d ∈ (ringGet s d.ring).started) :
    Gives (.recSlot r) s (fun t => Answered d stOK 0 t ∧ InLantern 0x1301 s t ∧
      t.nvm.formatted = true ∧ t.nvm.formatReq = none ∧ t.recs.hist = [] ∧ t.recs.audPages = [] ∧ t.recs.audCap.toNat ≤ 1048576 ∧
      t.nvm.onfiId = Config.nandId) := by
  obtain ⟨u, data, hformat, hfrozen, hqueue, hdone, hfreq, hhist, hpages, hcap, honfi, hhif, hblk⟩ :=
    formatNand_spec { s with nvm := { s.nvm with formatReq := none } }
  obtain ⟨hhist', hpages', hcap', hen'⟩ := lantern_logs 0x1301 1 data u
  obtain ⟨j, n, g, hrecs⟩ := complete_recs d stOK 0 (lantern 0x1301 1 data u)
  have hnvm : (complete d stOK 0 (lantern 0x1301 1 data u)).nvm = u.nvm := (complete_nvm d stOK 0 _).trans (lantern_nvm u 0x1301 1 data)
  have hend : formatDue s = complete d stOK 0 (lantern 0x1301 1 data u) := (formatDue_formats hreq hclear).trans (by rw [hformat])
  have hoff : enOf (complete d stOK 0 (lantern 0x1301 1 data u)) bREC = false := by
    rw [enOf_complete, hen']
    unfold enOf blkGet at hen ⊢
    rwa [hblk]
  have hstarted : d ∈ (ringGet (lantern 0x1301 1 data u) d.ring).started := by
    unfold ringGet at hd ⊢
    rwa [lantern_hif, hhif]
  refine ⟨_, (recSlot_idle hf hop).trans (congrArg Host.Outcome.next ((congrArg startOp hend).trans (startOp_disabled hoff))),
    answered_complete stOK 0 hstarted, fun hopen hlen => ?_, ?_, ?_, ?_, ?_, ?_, ?_⟩
  · exact inLantern_lantern (s := u) rfl (complete_queue d stOK 0 _) (hfrozen.trans hopen) (by rw [hqueue]; exact hlen)
  · rw [hnvm, hdone]
  · rw [hnvm, hfreq]
  · rw [hrecs]
    exact hhist'.trans hhist
  · rw [hrecs]
    exact hpages'.trans hpages
  · rw [hrecs]
    exact (congrArg BitVec.toNat hcap').trans_le hcap
  · rw [hnvm, honfi]

/-- Settles O54: operations of the NAND start and end in REC slots; the tag, formats and history pages. -/
theorem storageIsProgrammedReadAndTagged : Obligations.StorageIsProgrammedReadAndTagged := by
  unfold Obligations.StorageIsProgrammedReadAndTagged
  refine ⟨fun r s h => ⟨s, recSlot_fixed h, rfl⟩, recSlot_programs, fun s b hf hreq hen => ?_, recSlot_formats, nvmDescriptors_hold⟩
  have hn : NothingStarts s := ⟨hen, hreq⟩
  exact ⟨fun rs hop => recSlot_auditEnds hf hn hop, fun h d hop hd => recSlot_historyEnds hf hn hop hd,
    fun hop hpart => recSlot_eraseEnds hf hn hop hpart,
    fun r p page cw hop hreads hwhat hhist hleft hd => recSlot_readEnds hf hn hop hreads hwhat hhist hleft hd⟩

end Sys2Proof.Proofs
end

section
/-! PROOFS. The mirror lanes: frames verified and taken, the handshake, the lanes, and the stream (R417 to R421, R427 to R440). -/

namespace Sys2Proof.Proofs

open Sys2Proof.Machine Sys2Proof.Laws

/-! ### The session pool (R404) -/

/-- The state with other sessions. -/
def withSess (x : Tbl Sess) (s : State) : State := { s with sec := { s.sec with sess := x } }

/-- A note of an operation changes the sessions alone. -/
theorem poolNote_frame (kind : Byte) (ref : Nat) (ok : Bool) (s : State) : ∃ x, poolNote kind ref ok s = withSess x s := by
  unfold poolNote
  split
  · exact ⟨s.sec.sess, rfl⟩
  · dsimp only
    split_ifs
    · exact ⟨s.sec.sess, rfl⟩
    all_goals exact ⟨_, rfl⟩

/-- A session that the pool makes changes the sessions alone. -/
theorem poolMake_frame {kind : Byte} {ref : Nat} {key : Bytes} {s t : State} (h : poolMake kind ref key s = some t) :
    ∃ x, t = withSess x s := by
  obtain ⟨k, -, rfl⟩ := Option.map_eq_some_iff.mp h
  exact ⟨_, rfl⟩

theorem mirSess_frame {k : MirKeys} {s t : State} (h : mirSess k s = some t) : ∃ x, t = withSess x s := by
  obtain ⟨u, hu, ht⟩ := Option.bind_eq_some_iff.mp h
  obtain ⟨x, rfl⟩ := poolMake_frame hu
  obtain ⟨y, rfl⟩ := poolMake_frame ht
  exact ⟨y, rfl⟩

/-! ### A verified frame (R417, R418, R420) -/

/-- The partner's role as the direction of a frame shows it. -/
def heardRole (d : Nat) (r : Byte) : Byte := if d = 0 then 1 else if r = 1 then 3 else r

/-- PAIR's registers after a verified frame on a lane under the keys in use. -/
def heardRegs (lane : Nat) (b : Bytes) (s : State) : PairRegs :=
  let d := u8 b 3 / 2 % 2
  { s.pair with
    lastSeen := s.sched.mfn, pseen := true, hello := s.pair.hello.map fun h : Hello => { h with role := heardRole d h.role },
    fcnt := tblPut s.pair.fcnt (2 * lane + d) (BitVec.ofNat 64 (u64 b 8 + 1)) 0 }

/-- The state after a verified frame, with the sessions `x`. -/
def heard (x : Tbl Sess) (f : MirRx) (s : State) : State := { withSess x s with pair := heardRegs f.lane f.bytes s }

theorem mirAccept_heard {f : MirRx} {s : State} (h : s.pair.nextKeys = none) : ∃ x, mirAccept f.lane f.bytes false s = heard x f s := by
  obtain ⟨x, hx⟩ := poolNote_frame 7 f.lane true s
  refine ⟨x, ?_⟩
  unfold mirAccept
  rw [hx]
  unfold rekeyed
  dsimp only
  rw [if_neg, if_neg Bool.false_ne_true]
  · rfl
  · rw [if_neg Bool.false_ne_true, h]
    exact fun hk => absurd hk.1 Bool.false_ne_true

/-- A frame of kind `k` that HIF's keys verify: PAIR takes part, its form is good, and it opens to `p`. -/
structure Verified (k : Nat) (f : MirRx) (p : Bytes) (s : State) : Prop where
  pairOn : pairOn s = true
  form : mirFormOk f.bytes = true
  magic : u16 f.bytes 0 = 0x524D
  kind : u8 f.bytes 2 = k
  snuffed : s.sec.snuffed = false
  alone : s.pair.nextKeys = none
  opens : mirOpen s.pair.keys s.pair.fcnt f.lane f.bytes = some p

theorem Verified.takes {k : Nat} {f : MirRx} {p : Bytes} {s : State} (h : Verified k f p s) (eff : Bytes → State → State) :
    ∃ x, mirRecv k f eff s = eff p (heard x f s) := by
  obtain ⟨x, hx⟩ := mirAccept_heard (f := f) h.alone
  refine ⟨x, ?_⟩
  have hkind : ¬(u16 f.bytes 0 ≠ 0x524D ∨ u8 f.bytes 2 ≠ k) := not_or.mpr ⟨not_not_intro h.magic, not_not_intro h.kind⟩
  have hbody : mirRecv k f eff s = if u16 f.bytes 0 ≠ 0x524D ∨ u8 f.bytes 2 ≠ k then s else eff p (mirAccept f.lane f.bytes false s) := by
    simp only [mirRecv, h.pairOn, h.form, h.snuffed, h.opens, Bool.not_true, Bool.false_eq_true, if_false]
  rw [hbody, if_neg hkind, hx]

/-- What every verified frame does. -/
def SeenFrame (f : MirRx) (s t : State) : Prop :=
  t.pair.pseen = true ∧ t.pair.lastSeen = s.sched.mfn ∧
    tblGet t.pair.fcnt (2 * f.lane.val + u8 f.bytes 3 / 2 % 2) 0 = BitVec.ofNat 64 (u64 f.bytes 8 + 1) ∧ t.pair.role = s.pair.role ∧
    t.pimg = s.pimg

theorem seenFrame_heard (x : Tbl Sess) (f : MirRx) (s : State) : SeenFrame f s (heard x f s) :=
  ⟨rfl, rfl, tblGet_tblPut_same _ _ _ _, rfl, rfl⟩

/-! ### Frames that fail a check (R417) -/

/-- The rows of the encrypted kinds, each with its KIND. -/
def mirrorRows (f : MirRx) : List (Nat × Instr) :=
  [(1, .cut f), (2, .cutend f), (3, .stream f), (4, .ack f), (6, .time f), (7, .meter f), (8, .idle f)]

theorem exec_mirrorRow {f : MirRx} {r : Nat × Instr} (hr : r ∈ mirrorRows f) (s : State) :
    ∃ eff, exec r.2 s = .next (mirRecv r.1 f eff s) := by
  simp only [mirrorRows, List.mem_cons, List.not_mem_nil, or_false] at hr
  rcases hr with rfl | rfl | rfl | rfl | rfl | rfl | rfl <;> exact ⟨_, rfl⟩

theorem mirRecv_off {s : State} (h : pairOn s = false) (k : Nat) (f : MirRx) (eff : Bytes → State → State) : mirRecv k f eff s = s := by
  unfold mirRecv
  rw [h]
  rfl

theorem mirRecv_malformed {f : MirRx} {s : State} (hon : pairOn s = true) (h : mirFormOk f.bytes = false) (k : Nat)
    (eff : Bytes → State → State) : mirRecv k f eff s = count bPAIR 0 s := by
  simp only [mirRecv, hon, h, Bool.not_true, Bool.not_false, Bool.false_eq_true, if_false, if_true]

/-- A frame whose FCNT or tag fails is counted, and no more than the sessions' failures change. -/
theorem mirRecv_unverified {f : MirRx} {s : State} {k : Nat} (hon : pairOn s = true) (hform : mirFormOk f.bytes = true)
    (hmagic : u16 f.bytes 0 = 0x524D) (hkind : u8 f.bytes 2 = k)
    (h : s.sec.snuffed = true ∨ (mirOpen s.pair.keys s.pair.fcnt f.lane f.bytes = none ∧
      mirOpen s.pair.nextKeys s.pair.fcnt2 f.lane f.bytes = none)) (eff : Bytes → State → State) :
    ∃ x, mirRecv k f eff s = count bPAIR 1 (withSess x s) := by
  have hrow : ¬(u16 f.bytes 0 ≠ 0x524D ∨ u8 f.bytes 2 ≠ k) := not_or.mpr ⟨not_not_intro hmagic, not_not_intro hkind⟩
  simp only [mirRecv, hon, hform, Bool.not_true, Bool.false_eq_true, if_false]
  by_cases hs : s.sec.snuffed = true
  · rw [if_pos hs]
    exact ⟨s.sec.sess, rfl⟩
  · obtain ⟨hkeys, hnext⟩ := h.resolve_left hs
    obtain ⟨x, hx⟩ := poolNote_frame 7 f.lane false s
    rw [if_neg hs, if_neg hrow, hkeys, hnext]
    exact ⟨x, congrArg (count bPAIR 1) hx⟩

theorem mirrorFrames_checked (f : MirRx) (s : State) : let b := f.bytes
    (pairOn s = false → ∀ r ∈ mirrorRows f, Gives r.2 s (fun t => t = s)) ∧
    (pairOn s = true → mirFormOk b = false → ∀ r ∈ mirrorRows f, Gives r.2 s (fun t => t.pair = s.pair ∧ Counted bPAIR 0 s t)) ∧
    (pairOn s = true → mirFormOk b = true → u16 b 0 = 0x524D →
      (s.sec.snuffed = true ∨ (mirOpen s.pair.keys s.pair.fcnt f.lane b = none ∧ mirOpen s.pair.nextKeys s.pair.fcnt2 f.lane b = none)) →
      ∀ r ∈ mirrorRows f, u8 b 2 = r.1 → Gives r.2 s (fun t => t.pair = s.pair ∧ Counted bPAIR 1 s t)) := by
  refine ⟨fun hoff r hr => ?_, fun hon hform r hr => ?_, fun hon hform hmagic h r hr hkind => ?_⟩ <;>
    obtain ⟨eff, hexec⟩ := exec_mirrorRow hr s
  · exact ⟨s, hexec.trans (by rw [mirRecv_off hoff]), rfl⟩
  · exact ⟨_, hexec.trans (congrArg _ (mirRecv_malformed hon hform r.1 eff)), rfl, counted_count _ _ _⟩
  · obtain ⟨x, hx⟩ := mirRecv_unverified hon hform hmagic hkind h eff
    exact ⟨_, hexec.trans (congrArg _ hx), rfl, counted_of_blk (u := withSess x s) rfl rfl⟩

/-! ### The kinds (R421, R427, R429, R433, R440) -/

section Kinds

variable {f : MirRx} {p : Bytes} {s : State}

theorem Verified.gives {k : Nat} {i : Instr} {eff : Bytes → State → State} {P : State → Prop} (h : Verified k f p s)
    (hexec : exec i s = .next (mirRecv k f eff s)) (hP : ∀ x, P (eff p (heard x f s))) : Gives i s P := by
  obtain ⟨x, hx⟩ := h.takes eff
  exact ⟨_, hexec.trans (congrArg _ hx), hP x⟩

theorem idle_taken (h : Verified 8 f p s) : Gives (.idle f) s (fun t => SeenFrame f s t ∧ t.blk = s.blk ∧ t.pair.tlock = s.pair.tlock) :=
  h.gives rfl fun x => ⟨seenFrame_heard x f s, rfl, rfl⟩

/-- The part of a cut that a frame carries. -/
def partOf (f : MirRx) (p : Bytes) : CutPart := { cseq := BitVec.ofNat 64 (u64 f.bytes 16), off := u32 f.bytes 24, data := p }

/-- A part with the place of `x` is held. -/
def partHeld (s : State) (x : CutPart) : Bool := s.pair.cutParts.any fun y => y.cseq == x.cseq && y.off == x.off

/-- The part of a cut is held on a STANDBY unit. -/
def cutTaken (f : MirRx) (p : Bytes) (s : State) : State :=
  if s.pair.role ≠ rSTANDBY ∨ partHeld s (partOf f p) = true then s
  else { s with pair := { s.pair with cutParts := s.pair.cutParts ++ [partOf f p] } }

theorem cut_taken (h : Verified 1 f p s) (hrole : s.pair.role = 2) :
    Gives (.cut f) s (fun t => SeenFrame f s t ∧ t.blk = s.blk ∧
      ∃ x ∈ t.pair.cutParts, x.cseq = BitVec.ofNat 64 (u64 f.bytes 16) ∧ x.off = u32 f.bytes 24 ∧
        ((∀ y ∈ s.pair.cutParts, ¬(y.cseq = BitVec.ofNat 64 (u64 f.bytes 16) ∧ y.off = u32 f.bytes 24)) → x.data = p)) := by
  refine h.gives (eff := cutTaken f) rfl fun x => ?_
  have hstandby : ¬(heard x f s).pair.role ≠ rSTANDBY := not_not_intro hrole
  unfold cutTaken
  by_cases hheld : partHeld (heard x f s) (partOf f p) = true
  · rw [if_pos (.inr hheld)]
    obtain ⟨y, hy, hsame⟩ := List.any_eq_true.mp hheld
    simp only [Bool.and_eq_true, beq_iff_eq] at hsame
    exact ⟨seenFrame_heard x f s, rfl, y, hy, hsame.1, hsame.2, fun hnew => absurd hsame (hnew y hy)⟩
  · rw [if_neg (not_or.mpr ⟨hstandby, hheld⟩)]
    exact ⟨seenFrame_heard x f s, rfl, partOf f p, List.mem_append_right _ (List.mem_singleton_self _), rfl, rfl, fun _ => rfl⟩

/-- The end of a cut is added to those held. -/
def withEnd (e : CutEnd) (s : State) : State := { s with pair := { s.pair with cutEnds := s.pair.cutEnds ++ [e] } }

/-- The end of a cut is held on a STANDBY unit, when it is new. -/
def cutendTaken (f : MirRx) (p : Bytes) (s : State) : State :=
  if s.pair.role ≠ rSTANDBY ∨ s.pair.cutEnds.any (fun y => y.cseq == (cutEndOf f p s.time.tbc).cseq) ∨
      (match s.pair.applied with
        | some a => decide ((cutEndOf f p s.time.tbc).cseq.toNat ≤ a.toNat)
        | none => false : Bool) then s
  else withEnd (cutEndOf f p s.time.tbc) s

theorem u64_lt (b : Bytes) (off : Nat) : u64 b off < 2 ^ 64 := by
  have h := leNat_lt (slice b off 8)
  rw [slice_length] at h
  exact h

theorem toNat_u64 (b : Bytes) (off : Nat) : (BitVec.ofNat 64 (u64 b off)).toNat = u64 b off :=
  (BitVec.toNat_ofNat _ _).trans (Nat.mod_eq_of_lt (u64_lt b off))

theorem cutend_taken (h : Verified 2 f p s) (hrole : s.pair.role = 2) (hnew : ∀ a, s.pair.applied = some a → a.toNat < u64 f.bytes 16)
    (hfresh : ∀ y ∈ s.pair.cutEnds, y.cseq ≠ BitVec.ofNat 64 (u64 f.bytes 16)) :
    Gives (.cutend f) s (fun t => SeenFrame f s t ∧ t.blk = s.blk ∧ ∃ x, t.pair.cutEnds = s.pair.cutEnds ++ [x] ∧
      x.cseq = BitVec.ofNat 64 (u64 f.bytes 16) ∧ x.nlines = u32 p 0 ∧ x.nframes = u16 p 4 ∧ x.overflow = (u16 p 6).testBit 0 ∧
      x.final = (u16 p 6).testBit 1 ∧ x.lsum.toNat = u64 p 8 ∧ x.arr = s.time.tbc) := by
  refine h.gives (eff := cutendTaken f) rfl fun x => ?_
  have hheld : ¬(heard x f s).pair.cutEnds.any (fun y => y.cseq == (cutEndOf f p s.time.tbc).cseq) = true := by
    rw [List.any_eq_true]
    rintro ⟨y, hy, hsame⟩
    exact hfresh y hy (beq_iff_eq.mp hsame)
  have hold : ¬(match (heard x f s).pair.applied with
      | some a => decide ((cutEndOf f p s.time.tbc).cseq.toNat ≤ a.toNat)
      | none => false : Bool) = true := by
    have hseq : (cutEndOf f p s.time.tbc).cseq.toNat = u64 f.bytes 16 := toNat_u64 ..
    have happlied : (heard x f s).pair.applied = s.pair.applied := rfl
    rw [happlied, hseq]
    cases ha : s.pair.applied with
    | none => exact Bool.false_ne_true
    | some a => exact fun hle => absurd (hnew a ha) (Nat.not_lt.mpr (of_decide_eq_true hle))
  have htaken : cutendTaken f p (heard x f s) = withEnd (cutEndOf f p s.time.tbc) (heard x f s) :=
    if_neg (not_or.mpr ⟨not_not_intro hrole, not_or.mpr ⟨hheld, hold⟩⟩)
  rw [htaken]
  exact ⟨seenFrame_heard x f s, rfl, cutEndOf f p s.time.tbc, rfl, rfl, rfl, rfl, rfl, rfl, toNat_u64 p 8, rfl⟩

/-- A freeze changes of PAIR no register. -/
theorem freeze_pair {m : Nat} {s : State} (h : frozenM s m = false) (cause addr slot : Nat) :
    (freeze m cause addr slot s).pair = s.pair := by
  obtain ⟨data, heq⟩ := freeze_eq h cause addr slot
  obtain ⟨_, _, _, _, _, heffect⟩ := freezeEffect_eq m s
  rw [heq]
  simp [withFrozen, heffect]

/-- The chunk of a stream item that a frame carries. -/
def chunkOf (f : MirRx) (p : Bytes) : StreamPart :=
  { item := u32 f.bytes 28, cseq := BitVec.ofNat 64 (u64 f.bytes 16), off := u32 f.bytes 24, data := p }

/-- A chunk is added to the stream buffer. -/
def withChunk (y : StreamPart) (s : State) : State := { s with pair := { s.pair with streamIn := s.pair.streamIn ++ [y] } }

/-- A chunk lies in the stream buffer of a STANDBY unit, in a PAIR window. -/
def streamTaken (f : MirRx) (p : Bytes) (s : State) : State :=
  if s.pair.role ≠ rSTANDBY ∨ frozenM s 22 ∨ s.pair.slen.toNat < (chunkOf f p).off + p.length ∨
      s.pair.streamIn.any (fun y => y.item == (chunkOf f p).item && y.cseq == (chunkOf f p).cseq && y.off == (chunkOf f p).off) then s
  else guarded 22 (s.pair.sbase.toNat + (chunkOf f p).off) p.length true (withChunk (chunkOf f p)) s

theorem stream_taken (h : Verified 3 f p s) (hrole : s.pair.role = 2) (hf : frozenM s 22 = false)
    (hfits : u32 f.bytes 24 + p.length ≤ s.pair.slen.toNat)
    (hfresh : ∀ y ∈ s.pair.streamIn, ¬(y.item = u32 f.bytes 28 ∧ y.cseq = BitVec.ofNat 64 (u64 f.bytes 16) ∧ y.off = u32 f.bytes 24)) :
    let a := s.pair.sbase.toNat + u32 f.bytes 24
    (inWindow s 22 a p.length true = true → Gives (.stream f) s (fun t => SeenFrame f s t ∧ t.blk = s.blk ∧
      t.pair.streamIn = s.pair.streamIn ++ [⟨u32 f.bytes 28, BitVec.ofNat 64 (u64 f.bytes 16), u32 f.bytes 24, p⟩])) ∧
    (inWindow s 22 a p.length true = false → Gives (.stream f) s (fun t => frozenM t 22 = true ∧ t.pair.streamIn = s.pair.streamIn)) := by
  have htaken (x) : streamTaken f p (heard x f s) =
      guarded 22 (s.pair.sbase.toNat + u32 f.bytes 24) p.length true (withChunk (chunkOf f p)) (heard x f s) := by
    refine if_neg (not_or.mpr ⟨not_not_intro hrole, not_or.mpr ⟨?_, not_or.mpr ⟨Nat.not_lt.mpr hfits, ?_⟩⟩⟩)
    · exact ne_true_of_eq_false hf
    · rw [List.any_eq_true]
      rintro ⟨y, hy, hsame⟩
      simp only [Bool.and_eq_true, beq_iff_eq, and_assoc] at hsame
      exact hfresh y hy hsame
  refine ⟨fun hw => ?_, fun hw => ?_⟩ <;> refine h.gives (eff := streamTaken f) rfl fun x => ?_ <;> rw [htaken]
  · rw [guarded_inside (s := heard x f s) hf hw]
    exact ⟨seenFrame_heard x f s, rfl, rfl⟩
  · have hout : guarded 22 (s.pair.sbase.toNat + u32 f.bytes 24) p.length true (withChunk (chunkOf f p)) (heard x f s) =
        freeze 22 czWINDOW_W (s.pair.sbase.toNat + u32 f.bytes 24) (curSlot (heard x f s) 22) (heard x f s) :=
      (if_neg (ne_true_of_eq_false hf)).trans (if_neg (ne_true_of_eq_false hw))
    rw [hout]
    refine ⟨(frozenM_freeze (s := heard x f s) hf _ _ _ 22).trans (if_pos rfl), ?_⟩
    exact (congrArg PairRegs.streamIn (freeze_pair (s := heard x f s) hf _ _ _) :)

/-- The partner's ACK is taken on an ACTIVE unit. -/
theorem ack_taken (h : Verified 4 f p s) (hrole : s.pair.role = 1) :
    Gives (.ack f) s (fun t => SeenFrame f s t ∧ t.blk = s.blk ∧ t.pair.ple.toNat = u64 p 16 ∧ t.pair.pleOk = true ∧
      t.pair.ackReady = decide (u8 p 8 = 3) ∧ (u8 p 8 = 2 → s.pair.partnerCopying = false → t.pair.copyNext = some 0) ∧
      (u8 p 8 ≠ 2 → t.pair.copyNext = s.pair.copyNext)) := by
  refine h.gives rfl fun x => ?_
  dsimp only
  rw [if_neg (not_not_intro (show (heard x f s).pair.role = rACTIVE from hrole))]
  refine ⟨seenFrame_heard x f s, rfl, toNat_u64 p 16, rfl, rfl, fun hcopying hnot => ?_, fun hcopying => ?_⟩
  · exact if_pos (by rw [beq_iff_eq.mpr hcopying]; exact (congrArg (!·) hnot).trans rfl)
  · exact if_neg (by rw [beq_eq_false_iff_ne.mpr hcopying]; exact Bool.false_ne_true)

/-- The offset that a TIME frame gives (R421). -/
def offsetOf (lasym : W64) (p : Bytes) (ts : W128) (s : State) : Int :=
  (((ts.toNat : Int) - ofTimeForm (u128 p 0)) - (ofTimeForm (u128 p 16) - s.pair.timeTx.toNat)).fdiv 2 - lasym.toInt

theorem timeOffset_tlock {lane : Nat} {p : Bytes} {ts : W128} {s : State} {off : Int}
    (hoff : offsetOf (if lane = 0 then s.pair.lasym0 else s.pair.lasym1) p ts s = off) :
    let t := timeOffset lane p ts s
    t.pair.toff = BitVec.ofInt 64 off ∧ (32768 < off.natAbs → t.pair.tlock = false ∧ t.pair.tlockRun = 0) ∧
      (off.natAbs ≤ 32768 → t.pair.tlock = (s.pair.tlock || decide (15 ≤ s.pair.tlockRun))) := by
  subst hoff
  intro t
  set off := offsetOf (if lane = 0 then s.pair.lasym0 else s.pair.lasym1) p ts s
  have hlock : t.pair.tlock = (decide (off.natAbs ≤ 32768) &&
      (s.pair.tlock || decide (16 ≤ if decide (off.natAbs ≤ 32768) = true then s.pair.tlockRun + 1 else 0))) := rfl
  have hrun : t.pair.tlockRun = min (if decide (off.natAbs ≤ 32768) = true then s.pair.tlockRun + 1 else 0) 16 := rfl
  refine ⟨rfl, fun hfar => ?_, fun hnear => ?_⟩
  · have hnear : decide (off.natAbs ≤ 32768) = false := decide_eq_false (Nat.not_le.mpr hfar)
    rw [hlock, hrun, hnear]
    exact ⟨rfl, rfl⟩
  · have hsixteen : decide (16 ≤ s.pair.tlockRun + 1) = decide (15 ≤ s.pair.tlockRun) := decide_eq_decide.mpr (by omega)
    rw [hlock, decide_eq_true hnear, if_pos rfl, hsixteen, Bool.true_and]

/-- A STANDBY unit takes a frame's receive time, and its offset from the partner's time, when the partner has sent it one. -/
def timeTaken (f : MirRx) (p : Bytes) (s : State) : State :=
  let s1 := { s with pair := { s.pair with timeRx := stampOf s f.cap f.frac } }
  if takesTime s ∧ s.pair.timeTx ≠ 0 ∧ u128 p 16 ≠ 0 then timeOffset f.lane p (stampOf s f.cap f.frac) s1 else s1

theorem time_taken (h : Verified 6 f p s) (hrole : s.pair.role = 2) (hpartner : ∃ h, s.pair.hello = some h)
    (hdir : u8 f.bytes 3 / 2 % 2 = 0) (hsent : s.pair.timeTx ≠ 0) (hback : u128 p 16 ≠ 0) :
    let ts := stampOf s f.cap f.frac
    let off := offsetOf (if f.lane = 0 then s.pair.lasym0 else s.pair.lasym1) p ts s
    Gives (.time f) s (fun t => SeenFrame f s t ∧ t.blk = s.blk ∧ t.pair.timeRx = ts ∧ t.pair.toff = BitVec.ofInt 64 off ∧
      (32768 < off.natAbs → t.pair.tlock = false ∧ t.pair.tlockRun = 0) ∧
      (off.natAbs ≤ 32768 → t.pair.tlock = (s.pair.tlock || decide (15 ≤ s.pair.tlockRun)))) := by
  intro ts off
  refine h.gives (eff := timeTaken f) rfl fun x => ?_
  have htakes : takesTime (heard x f s) = true := by
    obtain ⟨g, hg⟩ := hpartner
    have hhello : (heard x f s).pair.hello = some { g with role := heardRole (u8 f.bytes 3 / 2 % 2) g.role } :=
      congrArg (Option.map _) hg
    have hr : (heard x f s).pair.role = 2 := hrole
    unfold takesTime
    rw [hhello, hr, hdir]
    rfl
  set u := { heard x f s with pair := { (heard x f s).pair with timeRx := ts } }
  have htaken : timeTaken f p (heard x f s) = timeOffset f.lane p ts u := if_pos ⟨htakes, hsent, hback⟩
  have hoff : offsetOf (if (f.lane : Nat) = 0 then u.pair.lasym0 else u.pair.lasym1) p ts u = off := by
    have hlane : (f.lane : Nat) = 0 ↔ f.lane = 0 := Fin.val_eq_zero_iff
    exact congrArg (fun a => offsetOf a p ts s) (if_congr hlane rfl rfl)
  have hlock := timeOffset_tlock hoff
  rw [htaken]
  exact ⟨⟨rfl, rfl, tblGet_tblPut_same _ _ _ _, rfl, rfl⟩, rfl, rfl, hlock⟩

/-- Comparing records counts, and changes nothing else. -/
theorem meterCompare_frame (b : Bytes) (s : State) : ∃ y, meterCompare b s = { s with blk := y } := by
  unfold meterCompare
  split_ifs
  · exact ⟨s.blk, rfl⟩
  · exact countN_frame _ _ _ _

theorem slice_slice_head {p : Bytes} {o k n : Nat} (hn : n ≤ p.length) (h : o + k ≤ n) : slice (slice p 0 n) o k = slice p o k := by
  have hhead : slice p 0 n = p.take n := by
    have hfull : (p.take n).length = n := List.length_take_of_le hn
    simp [slice, hfull]
  have hpart : ((p.take n).drop o).take k = (p.drop o).take k := by
    rw [List.drop_take, List.take_take, Nat.min_eq_left (by omega)]
  rw [hhead]
  unfold slice
  rw [hpart]

theorem countN_congr {s u : State} (h : u.blk = s.blk) (b n k : Nat) : (countN b n k u).blk = (countN b n k s).blk := by
  induction k generalizing s u with
  | zero => exact h
  | succ k ih =>
    refine ih ?_
    simp only [count, blkPut, blkGet, h]

theorem fwdOffs_le : ∀ o ∈ fwdOffs, o + 8 ≤ 1408 := by decide

theorem fwdDiffs_head {c : MetrCfg} {own b : Bytes} (h : 1408 ≤ b.length) :
    fwdDiffs c own (slice b 0 1408) = (fwdOffs.filter fun o => fwdDiffer c (u64 own o) (u64 b o)).length := by
  unfold fwdDiffs
  refine congrArg List.length (List.filter_congr fun o ho => ?_)
  exact congrArg (fun x => fwdDiffer c (u64 own o) (leNat x)) (slice_slice_head h (fwdOffs_le o ho))

theorem meterCompare_one {b own : Bytes} {s : State} (hown : recordsOf s (u64 b 8) = [own]) (hlen : 1408 ≤ b.length)
    (htime : s.sched.mfn.toNat ≤ u64 b 8 + 16) :
    meterCompare b s = countN bMETR 6 (fwdOffs.filter fun o => fwdDiffer s.metr.cfg (u64 own o) (u64 b o)).length s := by
  have hrest : (List.range (b.length / 1408)).map (fun i => slice b (1408 * i) 1408) =
      slice b 0 1408 :: (List.range (b.length / 1408 - 1)).map fun i => slice b (1408 * (i + 1)) 1408 := by
    obtain ⟨n, hn⟩ : ∃ n, b.length / 1408 = n + 1 := ⟨b.length / 1408 - 1, by omega⟩
    rw [hn, List.range_succ_eq_map, List.map_cons, List.map_map]
    rfl
  unfold meterCompare
  dsimp only
  rw [if_neg (Nat.not_lt.mpr htime), hown, hrest, List.zip_cons_cons, List.zip_nil_left, List.map_cons, List.map_nil, List.sum_singleton,
    fwdDiffs_head hlen]

theorem meter_taken (h : Verified 7 f p s) : Gives (.meter f) s (fun t => SeenFrame f s t ∧ t.metr = s.metr ∧
    (recordsOf s (u64 p 8) = [] ∨ u64 p 8 + 16 < s.sched.mfn.toNat → t.blk = s.blk) ∧
    ∀ own, recordsOf s (u64 p 8) = [own] → 1408 ≤ p.length → s.sched.mfn.toNat ≤ u64 p 8 + 16 →
      t.blk = (countN bMETR 6 (fwdOffs.filter fun o => fwdDiffer s.metr.cfg (u64 own o) (u64 p o)).length s).blk) := by
  refine h.gives (eff := meterCompare) rfl fun x => ?_
  obtain ⟨y, hframe⟩ := meterCompare_frame p (heard x f s)
  refine ⟨?_, ?_, fun hnone => ?_, fun own hown hlen htime => ?_⟩
  · rw [hframe]
    exact seenFrame_heard x f s
  · rw [hframe]
    rfl
  · have hstays : meterCompare p (heard x f s) = heard x f s := by
      unfold meterCompare
      dsimp only
      by_cases htime : u64 p 8 + 16 < s.sched.mfn.toNat
      · exact if_pos htime
      · have hempty : recordsOf (heard x f s) (u64 p 8) = [] := hnone.resolve_right htime
        rw [hempty]
        exact if_neg htime
    rw [hstays]
    rfl
  · rw [meterCompare_one (s := heard x f s) hown hlen htime]
    exact countN_congr (s := s) (u := heard x f s) rfl _ _ _

end Kinds

/-! ### HELLO (R420) -/

/-- The HELLO that a frame carries, received now. -/
def heardHello (f : MirRx) (s : State) : Hello := { helloOf (f.bytes.drop 32) with arr := s.time.tbc }

/-- The tag of a HELLO verifies under the key of the pair. -/
def HelloTagged (f : MirRx) (s : State) : Prop :=
  (keyHello s (heardHello f s).devuid).map (fun k => (hmac256 k (f.bytes.take 128)).take 16) = some ((f.bytes.take 144).drop 128)

/-- A HELLO of good form, heard by a unit that takes part and has not refused its partner. -/
structure HelloHeard (f : MirRx) (s : State) : Prop where
  pairOn : pairOn s = true
  refused : s.pair.refused = false
  form : mirFormOk f.bytes = true
  snuffed : s.sec.snuffed = false
  magic : u16 f.bytes 0 = 0x524D
  kind : u8 f.bytes 2 = 5
  length : f.bytes.length = 148

section HelloRows

variable {f : MirRx} {s : State} (h : HelloHeard f s)
include h

theorem HelloHeard.taken (htag : HelloTagged f s) : exec (.hello f) s = .next (helloTake (heardHello f s) s) := by
  have hrow : ¬(u16 f.bytes 0 ≠ 0x524D ∨ u8 f.bytes 2 ≠ kHELLO) := not_or.mpr ⟨not_not_intro h.magic, not_not_intro h.kind⟩
  have hexec : exec (.hello f) s = execHello f s := rfl
  rw [hexec, execHello]
  dsimp only
  rw [if_neg (by rw [h.pairOn, h.refused]; decide), h.form, if_neg (by decide), h.snuffed, if_neg Bool.false_ne_true, if_neg hrow,
    if_pos ⟨h.length, htag⟩]
  rfl

theorem HelloHeard.unverified (htag : ¬HelloTagged f s) :
    Gives (.hello f) s (fun t => t.pair.hello = s.pair.hello ∧ t.pair.keys = s.pair.keys ∧ Counted bPAIR 1 s t) := by
  have hrow : ¬(u16 f.bytes 0 ≠ 0x524D ∨ u8 f.bytes 2 ≠ kHELLO) := not_or.mpr ⟨not_not_intro h.magic, not_not_intro h.kind⟩
  have hexec : exec (.hello f) s = execHello f s := rfl
  unfold Gives
  rw [hexec, execHello]
  dsimp only
  rw [if_neg (by rw [h.pairOn, h.refused]; decide), h.form, if_neg (by decide), h.snuffed, if_neg Bool.false_ne_true, if_neg hrow,
    if_neg fun hboth => htag hboth.2]
  refine ⟨_, rfl, ?_⟩
  split_ifs
  · exact ⟨rfl, rfl, counted_of_blk (u := s) rfl rfl⟩
  · exact ⟨rfl, rfl, counted_count _ _ _⟩

theorem HelloHeard.other (htag : HelloTagged f s)
    (hother : (heardHello f s).cfgd ≠ cfgDigest s ∨ (heardHello f s).actid ≠ s.sched.actId) :
    Gives (.hello f) s (fun t => t.pair = { s.pair with refused := true, refusedAt := s.sched.mfn } ∧ Counted bPAIR 8 s t) := by
  refine ⟨_, (h.taken htag).trans (congrArg Host.Outcome.next (if_pos hother)), rfl, ?_⟩
  exact counted_of_blk (u := s) rfl rfl

end HelloRows

theorem poolEntry_congr {s t : State} (h : t.sec = s.sec) (kind : Byte) (ref : Nat) : poolEntry kind ref t = poolEntry kind ref s := by
  have hget (i) : sessGet t i = sessGet s i := by rw [sessGet, sessGet, h]
  unfold poolEntry
  simp only [hget]

theorem poolMake_takeHello (g : Hello) (kind : Byte) (ref : Nat) (key : Bytes) (s : State) :
    poolMake kind ref key (takeHello g s) = (poolMake kind ref key s).map (takeHello g) := by
  unfold poolMake
  rw [poolEntry_congr (s := s) rfl, Option.map_map]
  rfl

/-- The sessions of the lanes do not depend on the HELLO. -/
theorem mirSess_takeHello (g : Hello) (k : MirKeys) (s : State) : mirSess k (takeHello g s) = (mirSess k s).map (takeHello g) := by
  unfold mirSess
  rw [poolMake_takeHello]
  cases poolMake 7 0 (k.k0 ++ k.k1) s with
  | none => rfl
  | some t =>
    rw [Option.map_some, Option.bind_some, Option.bind_some]
    exact poolMake_takeHello g 7 1 (k.k0 ++ k.k1) t

/-- The first handshake with a partner, by the keys of both nonces. -/
theorem newHandshake_first {g : Hello} {s : State} {k : MirKeys} (hkeys : s.pair.keys = none) (hreq : s.pair.rekeyReq = [])
    (hnonce : s.pair.nonce ≠ []) (hk : mirKeys s g = some k) : newHandshake g s = match mirSess k s with
      | some t => { takeHello g t with pair := { (takeHello g t).pair with keys := some k, fcnt := [] } }
      | none => count bSEC 7 s := by
  have hown : (s.pair.nonce.isEmpty || (s.pair.keys.isSome && s.pair.rekeyReq.isEmpty)) = false := by
    rw [hkeys, List.isEmpty_eq_false_iff.mpr hnonce]
    rfl
  have hk1 : mirKeys (takeHello g s) g = some k := hk
  have hfirst : s.pair.keys.isNone = true ∧ s.pair.rekeyReq.isEmpty = true := by
    rw [hkeys, hreq]
    exact ⟨rfl, rfl⟩
  unfold newHandshake
  dsimp only
  rw [hown, if_neg Bool.false_ne_true, Bool.false_and, if_neg Bool.false_ne_true, if_pos hfirst, hk1, Option.bind_some, mirSess_takeHello]
  cases mirSess k s <;> rfl

theorem HelloHeard.first {f : MirRx} {s : State} {k : MirKeys} (h : HelloHeard f s) (htag : HelloTagged f s)
    (hcfg : (heardHello f s).cfgd = cfgDigest s) (hact : (heardHello f s).actid = s.sched.actId) (hnone : s.pair.hello = none)
    (hkeys : s.pair.keys = none) (hreq : s.pair.rekeyReq = []) (hnonce : s.pair.nonce ≠ []) (hk : mirKeys s (heardHello f s) = some k) :
    ((mirSess k s).isSome = true → Gives (.hello f) s (fun t => t.pair.hello = some (heardHello f s) ∧
      t.pair.partner = (heardHello f s).devuid ∧ t.pair.fcnt = [] ∧ t.blk = s.blk ∧ t.pair.keys = some k)) ∧
    (mirSess k s = none → Gives (.hello f) s (fun t => t.pair = s.pair ∧ Counted bSEC 7 s t)) := by
  have htake : helloTake (heardHello f s) s = newHandshake (heardHello f s) s := by
    unfold helloTake
    rw [if_neg (not_or.mpr ⟨not_not_intro hcfg, not_not_intro hact⟩), hnone]
    rfl
  have hnew := htake.trans (newHandshake_first hkeys hreq hnonce hk)
  refine ⟨fun hsome => ?_, fun hfull => ?_⟩
  · obtain ⟨t, ht⟩ := Option.isSome_iff_exists.mp hsome
    obtain ⟨x, hx⟩ := mirSess_frame ht
    rw [ht] at hnew
    refine ⟨_, (h.taken htag).trans (congrArg _ hnew), rfl, rfl, rfl, ?_, rfl⟩
    rw [hx]
    rfl
  · rw [hfull] at hnew
    exact ⟨_, (h.taken htag).trans (congrArg _ hnew), rfl, counted_count _ _ _⟩

/-! ### The lanes and the handshake's time-outs (R420, R421) -/

theorem setLane_spec (k : Fin 2) (v : Bool) (s : State) : (setLane k v s).blk = s.blk ∧
    (setLane k v s).pair.lane0 = (if k = 0 then v else s.pair.lane0) ∧ (setLane k v s).pair.lane1 = (if k = 1 then v else s.pair.lane1) := by
  match k with
  | 0 => exact ⟨rfl, rfl, rfl⟩
  | 1 => exact ⟨rfl, rfl, rfl⟩

theorem mirrorLanes_change (k : Fin 2) (s : State) :
    Gives (.mirrorLaneDown k) s (fun t => Counted bPAIR 7 s t ∧ t.pair.lane0 = (s.pair.lane0 && k != 0) ∧
      t.pair.lane1 = (s.pair.lane1 && k != 1)) ∧
    Gives (.mirrorLaneUp k) s (fun t => t.blk = s.blk ∧ t.pair.lane0 = (s.pair.lane0 || k == 0) ∧ t.pair.lane1 = (s.pair.lane1 || k == 1)) := by
  obtain ⟨hblk, hdown0, hdown1⟩ := setLane_spec k false s
  obtain ⟨hblk', hup0, hup1⟩ := setLane_spec k true s
  refine ⟨⟨_, rfl, counted_of_blk hblk rfl, hdown0.trans ?_, hdown1.trans ?_⟩, _, rfl, hblk', hup0.trans ?_, hup1.trans ?_⟩ <;>
    match k with
    | 0 => simp
    | 1 => simp

theorem pseenTimeout_acts (s : State) : let late := s.sched.run = false ∨ s.pair.lastSeen.toNat + 16 ≤ s.sched.mfn.toNat
    (s.pair.mode = true → late → Gives .pseenTimeout s (fun t => t.pair.pseen = false ∧ t.pair.keys = none ∧ t.pair.hello = none ∧
      t.pair.role = s.pair.role ∧ t.blk = s.blk)) ∧
    (s.pair.mode = false ∨ ¬late → Gives .pseenTimeout s (fun t => t = s)) := by
  refine ⟨fun hmode hlate => ?_, fun h => ?_⟩
  · have hdue : ¬(!s.pair.mode || (s.sched.run && decide (s.sched.mfn.toNat < s.pair.lastSeen.toNat + 16))) = true := by
      rw [hmode]
      rcases hlate with hrun | hpassed
      · simp [hrun]
      · simp [hpassed]
    exact ⟨_, congrArg Host.Outcome.next (if_neg hdue), rfl, rfl, rfl, rfl, rfl⟩
  · have hnot : (!s.pair.mode || (s.sched.run && decide (s.sched.mfn.toNat < s.pair.lastSeen.toNat + 16))) = true := by
      rcases h with hmode | hearly
      · simp [hmode]
      · obtain ⟨hrun, htime⟩ := not_or.mp hearly
        simp [Bool.eq_true_of_not_eq_false hrun, Nat.not_le.mp htime]
    exact ⟨s, congrArg Host.Outcome.next (if_pos hnot), rfl⟩

theorem handshakeRetry_acts (s : State) : let retry := s.sched.run = false ∨ s.pair.refusedAt.toNat + 1000 ≤ s.sched.mfn.toNat
    (retry → Gives .handshakeRetry s (fun t => t = { s with pair := { s.pair with refused := false } })) ∧
    (¬retry → Gives .handshakeRetry s (fun t => t = s)) := by
  refine ⟨fun h => ⟨_, congrArg Host.Outcome.next (if_neg ?_), rfl⟩, fun h => ⟨s, congrArg Host.Outcome.next (if_pos ?_), rfl⟩⟩
  · rcases h with hrun | hpassed
    · simp [hrun]
    · simp [hpassed]
  · obtain ⟨hrun, htime⟩ := not_or.mp h
    simp [Bool.eq_true_of_not_eq_false hrun, Nat.not_le.mp htime]

/-! ### PAIR's link slots (R427, R429) -/

/-- PAIR's slot reaches the block. -/
def pairPassed (s : State) : State := if linkRuns .pair s then slotReached bPAIR s else s

theorem pairTransmit_idle {s : State} (h : s.pair.role ≠ rACTIVE) : pairTransmit s = s := if_pos (.inl h)

theorem pairSlots_pass (s : State) : Gives (.receiveSlot .pair) s (fun t => t = pairPassed s) ∧
    (s.pair.role ≠ 1 → Gives (.transmitSlot .pair) s (fun t => t = pairPassed s)) := by
  have hrole : (slotReached bPAIR s).pair.role = s.pair.role := by
    obtain ⟨x, hx⟩ := slotReached_eq bPAIR s
    rw [hx]
  have hrx : exec (.receiveSlot .pair) s = execReceiveSlot .pair s := rfl
  have htx : exec (.transmitSlot .pair) s = execTransmitSlot .pair s := rfl
  unfold Gives pairPassed
  rw [hrx, htx, execReceiveSlot, execTransmitSlot]
  cases hruns : linkRuns .pair s with
  | false => exact ⟨⟨s, rfl, rfl⟩, fun _ => ⟨s, rfl, rfl⟩⟩
  | true => exact ⟨⟨_, rfl, rfl⟩, fun h => ⟨_, rfl, pairTransmit_idle fun hactive => h (hrole.symm.trans hactive)⟩⟩

theorem slice_append_right {a b : Bytes} {o k : Nat} (h : a.length = o) : slice (a ++ b) o k = slice b 0 k := by
  unfold slice
  rw [List.drop_append_of_le_length (Nat.le_of_eq h.symm), List.drop_eq_nil_of_le (Nat.le_of_eq h), List.nil_append, List.drop_zero]

theorem slice_append_left {a b : Bytes} {k : Nat} (h : a.length = k) : slice (a ++ b) 0 k = a := by
  unfold slice
  rw [List.drop_zero, List.take_left' h]
  dsimp only
  rw [h, Nat.sub_self, List.replicate_zero, List.append_nil]

theorem leNat_field {a b : Bytes} {o n v : Nat} (h : a.length = o) : leNat (slice (a ++ (leBytes n v ++ b)) o n) = v % 256 ^ n := by
  rw [slice_append_right h, slice_append_left (leBytes_length n v), leNat_leBytes]

/-- The fields of a frame's head (Table 15-2). -/
theorem mirHead_fields (kind lane dir len fcnt cseq off item : Nat) (b : Bytes) :
    let x := mirHead kind lane dir len fcnt cseq off item ++ b
    u16 x 0 = 0x524D ∧ u8 x 2 = kind % 256 ∧ u64 x 16 = cseq % 2 ^ 64 ∧ u32 x 28 = item % 2 ^ 32 := by
  intro x
  have hmagic : x = [] ++ (leBytes 2 0x524D ++ (leBytes 1 kind ++ leBytes 1 (lane + 2 * dir) ++ leBytes 4 len ++ leBytes 8 fcnt ++
      leBytes 8 cseq ++ leBytes 4 off ++ leBytes 4 item ++ b)) := by simp only [x, mirHead, List.append_assoc, List.nil_append]
  have hcseq : x = leBytes 2 0x524D ++ leBytes 1 kind ++ leBytes 1 (lane + 2 * dir) ++ leBytes 4 len ++ leBytes 8 fcnt ++
      (leBytes 8 cseq ++ (leBytes 4 off ++ leBytes 4 item ++ b)) := by simp only [x, mirHead, List.append_assoc]
  have hitem : x = leBytes 2 0x524D ++ leBytes 1 kind ++ leBytes 1 (lane + 2 * dir) ++ leBytes 4 len ++ leBytes 8 fcnt ++
      leBytes 8 cseq ++ leBytes 4 off ++ (leBytes 4 item ++ b) := by simp only [x, mirHead, List.append_assoc]
  refine ⟨?_, BitVec.toNat_ofNat _ _, ?_, ?_⟩
  · rw [hmagic]
    exact leNat_field rfl
  · rw [hcseq]
    exact leNat_field (by simp only [List.length_append, leBytes_length])
  · rw [hitem]
    exact leNat_field (by simp only [List.length_append, leBytes_length])

/-- The count of a direction on a lane has moved on under the keys in use. -/
def fcntNext (i : Nat) (s : State) : State :=
  { s with pair := { s.pair with fcnt := tblPut s.pair.fcnt i (BitVec.ofNat 64 ((tblGet s.pair.fcnt i 0).toNat + 1)) 0 } }

/-- A frame that leaves under the keys in use (R418). -/
theorem mirSend_sent {s : State} {k : MirKeys} (hon : pairOn s = true) (hs : s.sec.snuffed = false) (hnext : s.pair.sendNext = false)
    (hk : s.pair.keys = some k) (lane kind : Nat) (cseq : W64) (off item : Nat) (payload : Bytes) : ∃ x b,
    mirSend lane kind cseq off item payload s = emit (.mirror lane b) (laneSent lane (withSess x (fcntNext (2 * lane + ownDir s) s))) ∧
      u16 b 0 = 0x524D ∧ u8 b 2 = kind % 256 ∧ u64 b 16 = cseq.toNat ∧ u32 b 28 = item % 2 ^ 32 := by
  have hsends : ¬((!pairOn s) = true ∨ s.sec.snuffed = true) := by
    rw [hon, hs]
    decide
  set i := 2 * lane + ownDir s
  obtain ⟨x, hx⟩ := poolNote_frame 7 lane true (fcntNext i s)
  set c := (tblGet s.pair.fcnt i 0).toNat
  set hd := mirHead kind lane (ownDir s) (52 + payload.length) c cseq.toNat off item
  set e := gcmEnc (dirKey k (ownDir s)) (mirIv lane (ownDir s) c) hd payload
  refine ⟨x, withCrc (hd ++ e.1 ++ e.2), ?_, ?_⟩
  · rw [← hx]
    unfold mirSend
    dsimp only
    rw [hnext, if_neg Bool.false_ne_true, hk]
    dsimp only
    rw [if_neg hsends, if_neg Bool.false_ne_true, if_neg Bool.false_ne_true]
    exact congrArg₂ emit rfl (congrArg (laneSent lane) (congrArg (poolNote 7 lane true) (by simp only [fcntNext, hnext, hk, i])))
  · have hframe : withCrc (hd ++ e.1 ++ e.2) = hd ++ (e.1 ++ (e.2 ++ leBytes 4 (crc32c (hd ++ e.1 ++ e.2)))) := by
      simp only [withCrc, List.append_assoc]
    rw [hframe]
    obtain ⟨hmagic, hkind, hcseq, hitem⟩ := mirHead_fields kind lane (ownDir s) (52 + payload.length) c cseq.toNat off item
      (e.1 ++ (e.2 ++ leBytes 4 (crc32c (hd ++ e.1 ++ e.2))))
    exact ⟨hmagic, hkind, hcseq.trans (Nat.mod_eq_of_lt cseq.isLt), hitem⟩

theorem chunkList_one {l : Bytes} {n k : Nat} (hl : l ≠ []) (hn : l.length ≤ n) : chunkList n (k + 1) l = [l] := by
  have hrest : chunkList n k (l.drop n) = [] := by
    rw [List.drop_eq_nil_of_le hn]
    cases k <;> rfl
  rw [chunkList, if_neg (by simpa using hl), hrest, List.take_of_length_le hn]

theorem streamFrames_one {o : StreamOut} (hdata : o.data ≠ []) (hlen : o.data.length ≤ 16332) : streamFrames o = [(o, 0, o.data)] := by
  unfold streamFrames
  rw [chunkList_one hdata hlen]
  rfl

/-- The one item of the stream leaves on lane 0. -/
theorem pairTransmit_one {s : State} {o : StreamOut} (hrole : s.pair.role = 1) (hf : frozenM s 22 = false)
    (hout : s.pair.streamOut = [o]) (hdata : o.data ≠ []) (hlen : o.data.length ≤ 16332) :
    pairTransmit s = mirSend 0 kSTREAM o.cseq 0 o.item o.data { s with pair := { s.pair with streamOut := [] } } := by
  unfold pairTransmit
  dsimp only
  rw [if_neg (not_or.mpr ⟨not_not_intro (show s.pair.role = rACTIVE from hrole), ne_true_of_eq_false hf⟩), hout, List.map_cons, List.map_nil, streamFrames_one hdata hlen]
  rfl

theorem transmitSlot_streams {s : State} {k : MirKeys} {o : StreamOut} (hruns : linkRuns .pair s = true) (hmode : s.pair.mode = true)
    (hrole : s.pair.role = 1) (hs : s.sec.snuffed = false) (hnext : s.pair.sendNext = false) (hk : s.pair.keys = some k)
    (hout : s.pair.streamOut = [o]) (hdata : o.data ≠ []) (hlen : o.data.length ≤ 16332) :
    Gives (.transmitSlot .pair) s (fun t => t.pair.streamOut = [] ∧ t.blk = (slotReached bPAIR s).blk ∧
      ∃ b, t.out = .mirror 0 b :: s.out ∧ u16 b 0 = 0x524D ∧ u8 b 2 = 3 ∧ u32 b 28 = o.item % 2 ^ 32 ∧ u64 b 16 = o.cseq.toNat ∧
        t.pair.fcnt = tblPut s.pair.fcnt 0 (tblGet s.pair.fcnt 0 0 + 1) 0) := by
  obtain ⟨hen, hf⟩ := linkRuns_spec hruns
  obtain ⟨y, hy⟩ := slotReached_eq bPAIR s
  have hexec : exec (.transmitSlot .pair) s = .next (pairTransmit (slotReached bPAIR s)) := by
    show execTransmitSlot .pair s = _
    rw [execTransmitSlot, hruns]
    rfl
  have hen' : enOf { s with blk := y } bPAIR = true := by
    rw [← hy, enOf_slotReached]
    exact hen
  rw [hy] at hexec ⊢
  set v : State := { s with blk := y, pair := { s.pair with streamOut := [] } }
  have hon : pairOn v = true := (congrArg (· && enOf v bPAIR) hmode).trans ((Bool.true_and _).trans hen')
  have hdir : ownDir v = 0 := if_pos hrole
  have hcount : BitVec.ofNat 64 ((tblGet s.pair.fcnt 0 0).toNat + 1) = tblGet s.pair.fcnt 0 0 + 1 := by
    apply BitVec.eq_of_toNat_eq
    simp
  obtain ⟨x, b, hsent, hmagic, hkind, hcseq, hitem⟩ := mirSend_sent (s := v) hon hs hnext hk 0 kSTREAM o.cseq 0 o.item o.data
  rw [hdir] at hsent
  refine ⟨_, hexec.trans (congrArg _ ((pairTransmit_one (s := { s with blk := y }) hrole hf hout hdata hlen).trans hsent)), rfl, rfl,
    b, rfl, hmagic, hkind, hitem, hcseq, ?_⟩
  exact congrArg (fun c => tblPut s.pair.fcnt 0 c 0) hcount

/-- Settles O51: frames that fail a check are counted, each kind has its effect, and the handshake, lanes and slots act. -/
theorem mirrorFramesAreVerifiedAndTaken : Obligations.MirrorFramesAreVerifiedAndTaken := by
  unfold Obligations.MirrorFramesAreVerifiedAndTaken
  refine ⟨fun f s => ?_, fun f s => ?_, fun k s => ?_, fun s => ?_⟩
  · obtain ⟨hoff, hform, htag⟩ := mirrorFrames_checked f s
    refine ⟨hoff, hform, htag, fun p hon hgood hmagic hs hnext hopen => ?_⟩
    have hverified (k : Nat) (hk : u8 f.bytes 2 = k) : Verified k f p s := ⟨hon, hgood, hmagic, hk, hs, hnext, hopen⟩
    exact ⟨fun hk => idle_taken (hverified 8 hk), fun hk => cut_taken (hverified 1 hk), fun hk => cutend_taken (hverified 2 hk),
      fun hk => stream_taken (hverified 3 hk), fun hk => ack_taken (hverified 4 hk), fun hk => time_taken (hverified 6 hk),
      fun hk => meter_taken (hverified 7 hk)⟩
  · intro b h tagged hon hrefused hform hs hmagic hkind hlen
    have hheard : HelloHeard f s := ⟨hon, hrefused, hform, hs, hmagic, hkind, hlen⟩
    exact ⟨hheard.unverified, hheard.other, fun htag hcfg hact hnone hkeys hreq hnonce k hk =>
      hheard.first htag hcfg hact hnone hkeys hreq hnonce hk⟩
  · obtain ⟨hdown, hup⟩ := mirrorLanes_change k s
    obtain ⟨hlate, hearly⟩ := pseenTimeout_acts s
    obtain ⟨hretry, hwait⟩ := handshakeRetry_acts s
    exact ⟨hdown, hup, hlate, hearly, hretry, hwait⟩
  · obtain ⟨hrx, htx⟩ := pairSlots_pass s
    exact ⟨hrx, htx, fun k o hruns hmode hrole hs hnext hk hout hdata hlen =>
      transmitSlot_streams hruns hmode hrole hs hnext hk hout hdata hlen⟩

end Sys2Proof.Proofs
end

section
/-! PROOFS. SEC: signed records, blobs, sessions, roots, floors and controls; tamper and the debug access (R398 to R413). -/

namespace Sys2Proof.Proofs

open Sys2Proof.Machine Sys2Proof.Laws

/-! ### Completions of SEC -/

/-- What a refused descriptor of SEC leaves as it was. -/
def SecStands (s t : State) : Prop :=
  t.sec.roots = s.sec.roots ∧ t.sec.fwFloor = s.sec.fwFloor ∧ t.sec.ocnt = s.sec.ocnt ∧ t.sec.scnt = s.sec.scnt ∧
    t.sec.tampCfg = s.sec.tampCfg ∧ ∀ k, (sessGet t k).kind = (sessGet s k).kind ∧ (sessGet t k).key = (sessGet s k).key

theorem secStands_of_sec {s t : State} (h : t.sec = s.sec) : SecStands s t := by
  have hget (k) : sessGet t k = sessGet s k := by rw [sessGet, sessGet, h]
  exact ⟨congrArg SecRegs.roots h, congrArg SecRegs.fwFloor h, congrArg SecRegs.ocnt h, congrArg SecRegs.scnt h,
    congrArg SecRegs.tampCfg h, fun k => ⟨congrArg Sess.kind (hget k), congrArg Sess.key (hget k)⟩⟩

/-- The descriptor has completed with the status of a failed check, and SEC has counted it. -/
def RefusedBySec (d : HostDesc) (st : Nat) (s t : State) : Prop := Answered d st 0 t ∧ Counted bSEC 7 s t ∧ SecStands s t

/-- The statuses of failed checks that SEC counts. -/
def secCounted : List Nat := [stRANGE, stREFUSED, stNOT_READY, stBUSY, stCAPACITY]

theorem finSec_refused {d : HostDesc} {s : State} (hd : d ∈ (ringGet s d.ring).started) {st : Nat} (h : st ∈ secCounted) :
    Answered d st 0 (finSec d st 0 s) ∧ Counted bSEC 7 s (finSec d st 0 s) ∧ (finSec d st 0 s).sec = s.sec := by
  have hst : st ≠ stOK := fun he => absurd (he ▸ h) (by decide)
  have hframe := complete_refused_frame (d := d) (data := 0) hst (count bSEC 7 s)
  have heq : finSec d st 0 s = complete d st 0 (count bSEC 7 s) := finish_listed h ..
  rw [heq]
  exact ⟨answered_complete st 0 (s := count bSEC 7 s) hd, counted_of_blk (u := s) rfl (congrArg State.blk hframe :),
    (congrArg State.sec hframe :)⟩

theorem finSec_ok (d : HostDesc) (data : Nat) (s : State) : finSec d stOK data s = complete d stOK data s := rfl

/-- A descriptor of SEC that needs no operator session has its effect on the unit with SEC as it was. -/
theorem gives_secPlain {i : Instr} {op : Nat} {d : HostDesc} {s : State} {eff : HostDesc → State → State} {P : State → Prop}
    (hexec : exec i s = .next (arrive eff d s)) (hr : Reaches op d s) (hop : operatorOp op = false)
    (h : ∀ g, d ∈ (ringGet (withStarted g s.sec s) d.ring).started → P (eff d (withStarted g s.sec s))) : Gives i s P := by
  obtain ⟨g, hg⟩ := entered_withoutOperator (d := d) (s := s) (by rw [hr.1]; exact hop)
  have hstarted := mem_entered_started d s
  rw [hg] at hstarted
  exact ⟨_, hexec.trans (congrArg _ (arrive_reaches eff hr)), by rw [hg]; exact h g hstarted⟩

/-- Such a descriptor is refused. -/
theorem gives_secRefused {i : Instr} {op : Nat} {d : HostDesc} {s : State} {eff : HostDesc → State → State} {st : Nat}
    (hexec : exec i s = .next (arrive eff d s)) (hr : Reaches op d s) (hop : operatorOp op = false) (hst : st ∈ secCounted)
    (h : ∀ g, eff d (withStarted g s.sec s) = finSec d st 0 (withStarted g s.sec s)) : Gives i s (RefusedBySec d st s) := by
  refine gives_secPlain hexec hr hop fun g hd => ?_
  obtain ⟨hanswered, hcounted, hsec⟩ := finSec_refused hd hst
  rw [h g]
  exact ⟨hanswered, hcounted, secStands_of_sec (s := s) hsec⟩

/-- Bytes that a completing descriptor delivers. -/
theorem finSec_delivers {d : HostDesc} {u : State} (hd : d ∈ (ringGet u d.ring).started) (a : W64) (b : Bytes) :
    Answered d stOK 0 (finSec d stOK 0 (toHost a b u)) ∧ (finSec d stOK 0 (toHost a b u)).sec = u.sec ∧
      Delivered a b u (finSec d stOK 0 (toHost a b u)) := by
  obtain ⟨o, w, hframe⟩ := toHost_frame a b u
  have hsec : (toHost a b u).sec = u.sec := by rw [hframe]
  rw [finSec_ok]
  exact ⟨answered_complete stOK 0 (by rwa [toHost_started]), (complete_sec ..).trans hsec, delivered_complete ..⟩

section Descriptors

variable {d : HostDesc} {s : State}

/-! ### Attestation (R406) -/

/-- The flags of a statement (Table 14-8). -/
def statementFlags (s : State) : Nat :=
  b2n s.sec.debug + 2 * b2n (s.sec.tampSt != 0) + 4 * b2n (s.pair.role == 1) + 8 * b2n s.time.lock + 16 * b2n s.sec.noSecret

/-- A statement before SCNT. -/
def statementHead (s : State) : Bytes := leBytes 4 0x54535441 ++ leBytes 2 1 ++ leBytes 2 (statementFlags s) ++ devuid s

/-- A statement after the nonce. -/
def statementTail (s : State) (dxk : Nat) : Bytes :=
  leBytes 16 (timeForm (nowT s)).toNat ++ beBytes 48 s.sys.fwDig.toNat ++ beBytes 48 s.sched.imgDig.toNat ++
    beBytes 48 s.sched.cellDig.toNat ++ cfgDig s ++ sha384 (ecPub dxk)

theorem statementBody_eq (s : State) (nonce : Bytes) (dxk : Nat) : statementBody s nonce dxk =
    statementHead s ++ (leBytes 8 s.sec.scnt.toNat ++ (leBytes 8 s.sched.mfn.toNat ++ (nonce ++ statementTail s dxk))) := by
  simp only [statementBody, statementHead, statementFlags, statementTail, List.append_assoc]

theorem statementHead_length (s : State) : (statementHead s).length = 16 := by
  have hdevuid : (devuid s).length = 8 := mramRead_length ..
  simp only [statementHead, List.length_append, leBytes_length, hdevuid]

/-- The fields of a statement that a verifier looks at first. -/
theorem statementBody_fields (s : State) {nonce : Bytes} (hn : nonce.length = 32) (dxk : Nat) (sig : Bytes) :
    let x := statementBody s nonce dxk ++ sig
    u32 x 0 = 0x54535441 ∧ u64 x 0x10 = s.sec.scnt.toNat ∧ slice x 0x20 32 = nonce := by
  intro x
  have hcount : x = statementHead s ++ (leBytes 8 s.sec.scnt.toNat ++ (leBytes 8 s.sched.mfn.toNat ++ (nonce ++ (statementTail s dxk ++ sig)))) := by
    simp only [x, statementBody_eq, List.append_assoc]
  have hmagic : x = [] ++ (leBytes 4 0x54535441 ++ (leBytes 2 1 ++ (leBytes 2 (statementFlags s) ++ (devuid s ++
      (leBytes 8 s.sec.scnt.toNat ++ (leBytes 8 s.sched.mfn.toNat ++ (nonce ++ (statementTail s dxk ++ sig)))))))) := by
    simp only [hcount, statementHead, List.append_assoc, List.nil_append]
  have hnonce : x = (statementHead s ++ (leBytes 8 s.sec.scnt.toNat ++ leBytes 8 s.sched.mfn.toNat)) ++ (nonce ++ (statementTail s dxk ++ sig)) := by
    simp only [hcount, List.append_assoc]
  refine ⟨?_, ?_, ?_⟩
  · rw [hmagic]
    exact leNat_field rfl
  · rw [hcount]
    exact (leNat_field (statementHead_length s)).trans (Nat.mod_eq_of_lt s.sec.scnt.isLt)
  · rw [hnonce, slice_append_right, slice_append_left hn]
    simp only [List.length_append, leBytes_length, statementHead_length]

/-- A unit that has raised SCNT and drawn the random bytes of a signature. -/
def attesting (s : State) : State := { s with sec := { s.sec with scnt := s.sec.scnt + 1 }, free := s.free + 1 }

theorem effSecAttest_signs {u : State} {a b : Nat} (hdik : u.sec.dik = some a) (hdxk : u.sec.dxk = some b) (hs : u.sec.snuffed = false)
    (hdrbg : u.sec.drbgOk = true) : ∃ sig, effSecAttest d u = finSec d stOK 0 (toHost (BitVec.ofNat 64 (d64 d 48))
      (statementBody (attesting u) (slice d.bytes 16 32) b ++ sig) (attesting u)) := by
  unfold effSecAttest
  rw [hdik, hdxk]
  dsimp only
  rw [if_neg (by rw [hs, hdrbg]; decide)]
  exact ⟨_, rfl⟩

theorem secAttest_gives (hr : Reaches 0x68 d s) :
    (∀ a b, s.sec.dik = some a → s.sec.dxk = some b → s.sec.snuffed = false → s.sec.drbgOk = true →
      Gives (.secAttest d) s (fun t => Answered d stOK 0 t ∧ t.sec.scnt = s.sec.scnt + 1 ∧
        ∃ x, Delivered (BitVec.ofNat 64 (d64 d 48)) x s t ∧ u32 x 0 = 0x54535441 ∧
          u64 x 0x10 = (s.sec.scnt.toNat + 1) % 2 ^ 64 ∧ slice x 0x20 32 = slice d.bytes 16 32)) ∧
    (s.sec.dik = none → Gives (.secAttest d) s (RefusedBySec d stNOT_READY s)) := by
  refine ⟨fun a b hdik hdxk hs hdrbg => ?_, fun hdik => ?_⟩
  · refine gives_secPlain rfl hr rfl fun g hd => ?_
    obtain ⟨sig, hsigns⟩ := effSecAttest_signs (d := d) (u := withStarted g s.sec s) hdik hdxk hs hdrbg
    obtain ⟨hanswered, hsec, hdelivered⟩ := finSec_delivers (u := attesting (withStarted g s.sec s)) hd (BitVec.ofNat 64 (d64 d 48))
      (statementBody (attesting (withStarted g s.sec s)) (slice d.bytes 16 32) b ++ sig)
    obtain ⟨hmagic, hcount, hnonce⟩ := statementBody_fields (attesting (withStarted g s.sec s)) (slice_length d.bytes 16 32) b sig
    rw [hsigns]
    exact ⟨hanswered, (congrArg SecRegs.scnt hsec).trans rfl, _, hdelivered, hmagic, hcount.trans (BitVec.toNat_add ..), hnonce⟩
  · refine gives_secRefused rfl hr rfl (by decide) fun g => ?_
    have hnone : (withStarted g s.sec s).sec.dik = none := hdik
    unfold effSecAttest
    rw [hnone]

/-! ### SEC_READ (R413) -/

theorem secRead_gives (hr : Reaches 0x69 d s) : let f := d32 d 20
    let n := d32 d 24
    (d8 d 16 = 1 → f + n ≤ 2048 → Gives (.secRead d) s (fun t => Answered d stOK 0 t ∧ t.sec = s.sec ∧
      Delivered (dAddr d) ((List.range n).map fun i => sessBytes s (f + i)).flatten s t)) ∧
    (d8 d 16 = 2 → f + n ≤ 4 → Gives (.secRead d) s (fun t => Answered d stOK 0 t ∧ t.sec = s.sec ∧
      Delivered (dAddr d) ((List.range n).map fun i => rootEntry s (f + i)).flatten s t)) ∧
    ((d8 d 16 = 1 ∧ 2048 < f + n) ∨ (d8 d 16 = 2 ∧ 4 < f + n) ∨ 3 < d8 d 16 → Gives (.secRead d) s (RefusedBySec d stRANGE s)) ∧
    (d8 d 16 = 0 → s.sec.dik = none → Gives (.secRead d) s (RefusedBySec d stNOT_READY s)) := by
  intro f n
  refine ⟨fun hw hin => ?_, fun hw hin => ?_, fun hout => ?_, fun hw hdik => ?_⟩
  · refine gives_secPlain rfl hr rfl fun g hd => ?_
    have heff : effSecRead d (withStarted g s.sec s) = finSec d stOK 0 (toHost (dAddr d)
        ((List.range n).map fun i => sessBytes s (f + i)).flatten (withStarted g s.sec s)) := by
      unfold effSecRead
      dsimp only
      rw [if_neg (by omega), if_pos hw, if_neg (by omega)]
      rfl
    rw [heff]
    exact finSec_delivers hd _ _
  · refine gives_secPlain rfl hr rfl fun g hd => ?_
    have heff : effSecRead d (withStarted g s.sec s) = finSec d stOK 0 (toHost (dAddr d)
        ((List.range n).map fun i => rootEntry s (f + i)).flatten (withStarted g s.sec s)) := by
      unfold effSecRead
      dsimp only
      rw [if_neg (by omega), if_neg (by omega), if_pos hw, if_neg (by omega)]
      rfl
    rw [heff]
    exact finSec_delivers hd _ _
  · refine gives_secRefused rfl hr rfl (by decide) fun g => ?_
    unfold effSecRead
    dsimp only
    rcases hout with ⟨hw, hlong⟩ | ⟨hw, hlong⟩ | hw
    · rw [if_neg (by omega), if_pos hw, if_pos hlong]
    · rw [if_neg (by omega), if_neg (by omega), if_pos hw, if_pos hlong]
    · rw [if_neg (by omega), if_neg (by omega), if_neg (by omega), if_neg (by omega)]
  · refine gives_secRefused rfl hr rfl (by decide) fun g => ?_
    have hnone : (withStarted g s.sec s).sec.dik = none := hdik
    unfold effSecRead
    dsimp only
    rw [if_pos hw, hnone]

/-! ### SEC_SIGNED and SEC_BLOB (R402, R403) -/

/-- A record or blob waits for its verification. -/
theorem effSecVerify_waits {i : Instr} {op : Nat} (blob : Bool) (hexec : exec i s = .next (arrive (effSecVerify blob) d s))
    (hr : Reaches op d s) (hop : operatorOp op = false) :
    Gives i s (fun t => t.sec.verif = s.sec.verif ++ [⟨d, blob⟩] ∧ d ∈ (ringGet t d.ring).started ∧ t.blk = s.blk) :=
  gives_secPlain hexec hr hop fun _ hd => ⟨rfl, hd, rfl⟩

/-! ### SEC_ROOT (R400) -/

theorem rootGet_rootPut (s : State) (k : Nat) (v : Root) : rootGet (rootPut s k v) k = v := tblGet_tblPut_same ..

theorem rootGet_rootPut_ne (s : State) {k j : Nat} (v : Root) (h : j ≠ k) : rootGet (rootPut s k v) j = rootGet s j :=
  tblGet_tblPut_ne _ _ _ h

theorem rootGet_congr {s t : State} (h : t.sec = s.sec) (k : Nat) : rootGet t k = rootGet s k := by rw [rootGet, rootGet, h]

/-- A root table entry changes with a completion OK. -/
theorem finSec_root {u : State} (hd : d ∈ (ringGet u d.ring).started) (k : Nat) (v : Root) :
    let t := finSec d stOK 0 (rootPut u k v)
    Answered d stOK 0 t ∧ rootGet t k = v ∧ ∀ j, j ≠ k → rootGet t j = rootGet u j := by
  have hsec : (finSec d stOK 0 (rootPut u k v)).sec = (rootPut u k v).sec := complete_sec ..
  refine ⟨answered_complete (s := rootPut u k v) stOK 0 hd, (rootGet_congr hsec k).trans (rootGet_rootPut ..), fun j hj => ?_⟩
  exact (rootGet_congr hsec j).trans (rootGet_rootPut_ne u v hj)

theorem secRoot_gives (hr : Reaches 0x6D d s) : let k := d8 d 17
    let r := rootGet s k
    let dig := sha384 (slice d.buf 0 97)
    (1 < d8 d 16 ∨ 3 < k → Gives (.secRoot d) s (RefusedBySec d stRANGE s)) ∧
    (d8 d 16 = 0 → k ≤ 3 → r.installed = true ∨ r.revoked = true ∨ dig.take 32 ≠ slice d.bytes 32 32 →
      Gives (.secRoot d) s (RefusedBySec d stREFUSED s)) ∧
    (d8 d 16 = 0 → k ≤ 3 → r.installed = false → r.revoked = false → dig.take 32 = slice d.bytes 32 32 →
      Gives (.secRoot d) s (fun t => Answered d stOK 0 t ∧ rootUsable (rootGet t k) = true ∧ (rootGet t k).key = slice d.buf 0 97 ∧
        (rootGet t k).digest = BitVec.ofNat 384 (beNat dig) ∧ ∀ j, j ≠ k → rootGet t j = rootGet s j)) ∧
    (d8 d 16 = 1 → k ≤ 3 → rootUsable r = false ∨ usableRoots s ≤ 1 → Gives (.secRoot d) s (RefusedBySec d stREFUSED s)) ∧
    (d8 d 16 = 1 → k ≤ 3 → rootUsable r = true → 1 < usableRoots s → Gives (.secRoot d) s (fun t => Answered d stOK 0 t ∧
      rootGet t k = { r with revoked := true } ∧ ∀ j, j ≠ k → rootGet t j = rootGet s j)) := by
  intro k r dig
  have hin (hw : d8 d 16 ≤ 1) (hk : k ≤ 3) : ¬(1 < d8 d 16 ∨ 3 < d8 d 17) := not_or.mpr ⟨Nat.not_lt.mpr hw, Nat.not_lt.mpr hk⟩
  refine ⟨fun hout => ?_, fun hw hk hbad => ?_, fun hw hk hinst hrev hdig => ?_, fun hw hk hbad => ?_, fun hw hk husable hmany => ?_⟩
  · exact gives_secRefused rfl hr rfl (by decide) fun g => if_pos hout
  · exact gives_secRefused rfl hr rfl (by decide) fun g =>
      (if_neg (hin (by omega) hk)).trans ((if_pos hw).trans (if_pos hbad))
  · refine gives_secPlain rfl hr rfl fun g hd => ?_
    have hfree : ¬(r.installed = true ∨ r.revoked = true ∨ dig.take 32 ≠ slice d.bytes 32 32) := by
      rw [hinst, hrev]
      simp [hdig]
    have heff : effSecRoot d (withStarted g s.sec s) = finSec d stOK 0 (rootPut (withStarted g s.sec s) k
        { key := slice d.buf 0 97, digest := BitVec.ofNat 384 (beNat dig), installed := true, checked := true }) :=
      (if_neg (hin (by omega) hk)).trans ((if_pos hw).trans (if_neg hfree))
    rw [heff]
    obtain ⟨hanswered, hroot, hothers⟩ := finSec_root hd k
      { key := slice d.buf 0 97, digest := BitVec.ofNat 384 (beNat dig), installed := true, checked := true }
    rw [hroot]
    exact ⟨hanswered, rfl, rfl, rfl, hothers⟩
  · refine gives_secRefused rfl hr rfl (by decide) fun g => ?_
    have hrefused : (!rootUsable r) = true ∨ usableRoots s ≤ 1 := hbad.imp_left fun h => by rw [h]; rfl
    exact (if_neg (hin (by omega) hk)).trans ((if_neg (by omega)).trans (if_pos hrefused))
  · refine gives_secPlain rfl hr rfl fun g hd => ?_
    have hfine : ¬((!rootUsable r) = true ∨ usableRoots s ≤ 1) := by
      rw [husable]
      simp [hmany]
    have heff : effSecRoot d (withStarted g s.sec s) = finSec d stOK 0 (rootPut (withStarted g s.sec s) k { r with revoked := true }) :=
      (if_neg (hin (by omega) hk)).trans ((if_neg (by omega)).trans (if_neg hfine))
    rw [heff]
    exact finSec_root hd k { r with revoked := true }

/-! ### SEC_FLOOR (R413) -/

theorem secFloor_gives (hr : Reaches 0x6E d s) : let v := d64 d 24
    (d8 d 16 = 0 → s.sched.rbFloor.toNat ≤ v → Gives (.secFloor d) s (fun t => Answered d stOK 0 t ∧ t.sched.rbFloor.toNat = v ∧
      t.sec = s.sec)) ∧
    (d8 d 16 = 1 → s.sec.fwFloor.toNat ≤ v → v < 2 ^ 32 → Gives (.secFloor d) s (fun t => Answered d stOK 0 t ∧
      t.sec.fwFloor.toNat = v ∧ t.sched = s.sched)) ∧
    ((d8 d 16 = 0 ∧ v < s.sched.rbFloor.toNat) ∨ (d8 d 16 = 1 ∧ v < s.sec.fwFloor.toNat) ∨ 1 < d8 d 16 →
      Gives (.secFloor d) s (RefusedBySec d stRANGE s)) := by
  intro v
  refine ⟨fun hw hv => ?_, fun hw hv hlt => ?_, fun hbad => ?_⟩
  · refine gives_secPlain rfl hr rfl fun g hd => ?_
    have heff : effSecFloor d (withStarted g s.sec s) = finSec d stOK 0 { withStarted g s.sec s with
        sched := { s.sched with rbFloor := BitVec.ofNat 64 v } } := (if_pos hw).trans (if_neg (Nat.not_lt.mpr hv))
    rw [heff, finSec_ok]
    refine ⟨answered_complete (s := { withStarted g s.sec s with sched := _ }) stOK 0 hd, ?_, complete_sec ..⟩
    rw [complete_sched]
    exact toNat_u64 d.bytes 24
  · refine gives_secPlain rfl hr rfl fun g hd => ?_
    have hnot : ¬(v < s.sec.fwFloor.toNat ∨ 2 ^ 32 ≤ v) := not_or.mpr ⟨Nat.not_lt.mpr hv, Nat.not_le.mpr hlt⟩
    have heff : effSecFloor d (withStarted g s.sec s) = finSec d stOK 0 { withStarted g s.sec s with
        sec := { s.sec with fwFloor := BitVec.ofNat 32 v } } := (if_neg (by omega)).trans ((if_pos hw).trans (if_neg hnot))
    rw [heff, finSec_ok]
    refine ⟨answered_complete (s := { withStarted g s.sec s with sec := _ }) stOK 0 hd, ?_, complete_sched ..⟩
    rw [complete_sec]
    exact (BitVec.toNat_ofNat _ _).trans (Nat.mod_eq_of_lt hlt)
  · refine gives_secRefused rfl hr rfl (by decide) fun g => ?_
    rcases hbad with ⟨hw, hv⟩ | ⟨hw, hv⟩ | hw
    · exact (if_pos hw).trans (if_pos hv)
    · exact (if_neg (by omega)).trans ((if_pos hw).trans (if_pos (.inl hv)))
    · exact (if_neg (by omega)).trans (if_neg (by omega))

/-! ### SEC_CTL (R409, R411, R412) -/

/-- Unwrapping the kept sessions changes the sessions alone. -/
theorem unwrapSess_foldl (kek : Bytes) (l : List (Nat × Sess)) (s : State) : ∃ x, l.foldl (unwrapSess kek) s = withSess x s := by
  induction l generalizing s with
  | nil => exact ⟨s.sec.sess, rfl⟩
  | cons kv l ih =>
    obtain ⟨x, hx⟩ : ∃ x, unwrapSess kek s kv = withSess x s := by
      unfold unwrapSess
      split
      · exact ⟨_, rfl⟩
      · exact ⟨s.sec.sess, rfl⟩
    obtain ⟨y, hy⟩ := ih (withSess x s)
    exact ⟨y, by rw [List.foldl_cons, hx, hy]; rfl⟩

/-- A unit with other secrets. -/
def withSecrets (x : Tbl Sess) (n : Bool) (m p : Option Bytes) (u : State) : State :=
  { u with sec := { u.sec with sess := x, noSecret := n, netsec := m, pairsec := p } }

/-- Unwrapping changes the secrets alone, and it unwraps them where KEK is, in a production boot without a tamper event. -/
theorem unwrapSecrets_spec (u : State) : ∃ x n m p,
    unwrapSecrets u = withSecrets x n m p u ∧
    ∀ k, u.sec.kek = some k → u.sec.tampSt = 0 → u.sec.debug = false → u.sec.snuffed = false →
      n = false ∧ m = kwUnwrap k u.sec.wrapNet ∧ p = kwUnwrap k u.sec.wrapPair := by
  unfold unwrapSecrets
  cases hkek : u.sec.kek with
  | none => exact ⟨u.sec.sess, u.sec.noSecret, u.sec.netsec, u.sec.pairsec, rfl, nofun⟩
  | some k =>
    dsimp only
    split_ifs with hbarred
    · refine ⟨u.sec.sess, u.sec.noSecret, u.sec.netsec, u.sec.pairsec, rfl, fun k _ htamp hdebug hs => ?_⟩
      rw [hdebug, hs] at hbarred
      exact absurd hbarred (not_or.mpr ⟨not_not_intro htamp, by decide⟩)
    · obtain ⟨x, hx⟩ := unwrapSess_foldl k u.sec.keptSess { u with sec := { u.sec with
        noSecret := false, netsec := kwUnwrap k u.sec.wrapNet, pairsec := kwUnwrap k u.sec.wrapPair } }
      refine ⟨x, _, _, _, hx, fun k' hk' _ _ _ => ?_⟩
      obtain rfl := Option.some.inj hk'
      exact ⟨rfl, rfl, rfl⟩

/-- A unit whose tamper status is cleared. -/
def tamperCleared (s : State) : State := { s with sec := { s.sec with tampSt := 0, tampTime := 0 } }

/-- The detectors armed as TAMPER_SET asks. -/
def tamperArmed (v : Nat) (lfsr : BitVec 31) (s : State) : State :=
  { s with sec := { s.sec with tampCfg := BitVec.ofNat 32 (v % 2 ^ 21), tampLock := true, tampArm := true, lfsr := lfsr } }

theorem tamperSet_arms {u : State} (hlock : u.sec.tampLock = false) (hrandom : u.sec.drbgOk = true ∨ (d32 d 24).testBit 20 = false) :
    ∃ f lfsr, tamperSet d u = finSec d stOK 0 (tamperArmed (d32 d 24) lfsr { u with free := f }) := by
  have hready : ¬(bit (d32 d 24) 20 = true ∧ (!u.sec.drbgOk) = true) := by
    rintro ⟨hmesh, hfailed⟩
    rcases hrandom with h | h
    · rw [h] at hfailed
      exact absurd hfailed (by decide)
    · exact absurd (hmesh.symm.trans h) (by decide)
  unfold tamperSet
  dsimp only
  rw [hlock, if_neg Bool.false_ne_true, if_neg hready]
  by_cases hmesh : bit (d32 d 24) 20 = true
  · rw [if_pos hmesh, if_pos hmesh]
    exact ⟨_, _, rfl⟩
  · rw [if_neg hmesh, if_neg hmesh]
    exact ⟨u.free, u.sec.lfsr, rfl⟩

theorem secCtl_gives (hr : Reaches 0x6F d s) :
    (d8 d 16 = 0 → Gives (.secCtl d) s (fun t => Answered d stOK 0 t ∧ t.sec.debugReq = true ∧ t.sec.debug = s.sec.debug)) ∧
    (d8 d 16 = 1 → Gives (.secCtl d) s (fun t => Answered d stOK 0 t ∧ t.sec.tampSt = 0 ∧ t.sec.tampTime = 0 ∧
      (∀ k, s.sec.kek = some k → s.sec.debug = false → s.sec.snuffed = false → t.sec.noSecret = false ∧
        t.sec.netsec = kwUnwrap k s.sec.wrapNet ∧ t.sec.pairsec = kwUnwrap k s.sec.wrapPair))) ∧
    (d8 d 16 = 2 → Gives (.secCtl d) s (fun t => Answered d stOK 0 t ∧ t.sec.tampLock = false ∧ t.sec.tampArm = false ∧
      t.sec.tampCfg = s.sec.tampCfg)) ∧
    (d8 d 16 = 3 → s.sec.tampLock = false → s.sec.drbgOk = true ∨ (d32 d 24).testBit 20 = false → Gives (.secCtl d) s (fun t =>
      Answered d stOK 0 t ∧ t.sec.tampCfg.toNat = d32 d 24 % 2 ^ 21 ∧ t.sec.tampLock = true ∧ t.sec.tampArm = true)) ∧
    (3 < d8 d 16 → Gives (.secCtl d) s (RefusedBySec d stRANGE s)) := by
  refine ⟨fun hw => ?_, fun hw => ?_, fun hw => ?_, fun hw hlock hrandom => ?_, fun hw => ?_⟩
  · refine gives_secPlain rfl hr rfl fun g hd => ?_
    have heff : effSecCtl d (withStarted g s.sec s) =
        finSec d stOK 0 { withStarted g s.sec s with sec := { s.sec with debugReq := true } } := by
      unfold effSecCtl
      rw [hw]
      rfl
    rw [heff, finSec_ok]
    refine ⟨answered_complete (s := { withStarted g s.sec s with sec := _ }) stOK 0 hd, ?_⟩
    rw [complete_sec]
    exact ⟨rfl, rfl⟩
  · refine gives_secPlain rfl hr rfl fun g hd => ?_
    obtain ⟨x, n, m, p, hframe, hsecrets⟩ := unwrapSecrets_spec (tamperCleared (withStarted g s.sec s))
    have heff : effSecCtl d (withStarted g s.sec s) = finSec d stOK 0 (unwrapSecrets (tamperCleared (withStarted g s.sec s))) := by
      unfold effSecCtl
      rw [hw]
      rfl
    rw [heff, hframe, finSec_ok]
    refine ⟨answered_complete (s := withSecrets x n m p (tamperCleared (withStarted g s.sec s))) stOK 0 hd, ?_⟩
    rw [complete_sec]
    exact ⟨rfl, rfl, fun k hkek hdebug hs => hsecrets k hkek rfl hdebug hs⟩
  · refine gives_secPlain rfl hr rfl fun g hd => ?_
    have heff : effSecCtl d (withStarted g s.sec s) =
        finSec d stOK 0 { withStarted g s.sec s with sec := { s.sec with tampLock := false, tampArm := false } } := by
      unfold effSecCtl
      rw [hw]
      rfl
    rw [heff, finSec_ok]
    refine ⟨answered_complete (s := { withStarted g s.sec s with sec := _ }) stOK 0 hd, ?_⟩
    rw [complete_sec]
    exact ⟨rfl, rfl, rfl⟩
  · refine gives_secPlain rfl hr rfl fun g hd => ?_
    obtain ⟨f, lfsr, harms⟩ := tamperSet_arms (d := d) (u := withStarted g s.sec s) hlock hrandom
    have heff : effSecCtl d (withStarted g s.sec s) = tamperSet d (withStarted g s.sec s) := by
      unfold effSecCtl
      rw [hw]
      rfl
    rw [heff, harms, finSec_ok]
    refine ⟨answered_complete (s := tamperArmed (d32 d 24) lfsr { withStarted g s.sec s with free := f }) stOK 0 hd, ?_⟩
    rw [complete_sec]
    exact ⟨(BitVec.toNat_ofNat _ _).trans (Nat.mod_eq_of_lt (by omega)), rfl, rfl⟩
  · refine gives_secRefused rfl hr rfl (by decide) fun g => ?_
    obtain ⟨n, hn⟩ : ∃ n, d8 d 16 = n + 4 := ⟨d8 d 16 - 4, by omega⟩
    unfold effSecCtl
    rw [hn]
    rfl

/-! ### SEC_RETIRE (R413) -/

/-- A descriptor that starts leaves every session its kind and its key. -/
theorem entered_sessions (d : HostDesc) (s : State) : ∃ g x, entered d s = withSess x (withStarted g s.sec s) ∧
    ∀ k, (tblGet x k {}).kind = (sessGet s k).kind ∧ (tblGet x k {}).key = (sessGet s k).key := by
  set u := ringPut s d.ring { ringGet s d.ring with started := (ringGet s d.ring).started ++ [d] } with hu
  have hplain : u = withSess s.sec.sess (withStarted u.hif.rings s.sec s) := rfl
  have htaken (l : W64) : authTake d l u = withSess (authTake d l u).sec.sess (withStarted u.hif.rings s.sec s) := rfl
  have hkept (l : W64) (k : Nat) : (sessGet (authTake d l u) k).kind = (sessGet s k).kind ∧
      (sessGet (authTake d l u) k).key = (sessGet s k).key := by
    unfold authTake
    by_cases hk : k = d16 d 4
    · subst hk
      rw [sessGet_sessPut]
      exact ⟨rfl, rfl⟩
    · rw [sessGet_sessPut_ne _ _ hk]
      exact ⟨rfl, rfl⟩
  unfold entered
  rw [← hu]
  dsimp only
  split_ifs
  · exact ⟨_, _, hplain, fun k => ⟨rfl, rfl⟩⟩
  · split
    · exact ⟨_, _, htaken _, hkept _⟩
    · exact ⟨_, _, hplain, fun k => ⟨rfl, rfl⟩⟩

/-- A completion OK whose entry ends a session once it is written. -/
theorem completeR_retires {u : State} (hd : d ∈ (ringGet u d.ring).started) (k : Nat) : let t := completeR d stOK 0 (some k) u
    Answered d stOK 0 t ∧ t.sec = u.sec ∧ ∃ c ∈ t.hif.waiting, c.sqidx = d.sqidx ∧ c.retire = some k := by
  have hc : (ringGet u d.ring).started.contains d = true := List.contains_iff_mem.mpr hd
  have hsec : (auditDesc d u).sec = u.sec := by
    rcases auditDesc_cases d u with ha | ⟨a, b, c, n, x, ha⟩ <;> rw [ha]
    exact audit_sec ..
  refine ⟨completeR_answered hd, ?_⟩
  unfold completeR
  dsimp only
  rw [if_pos hc, if_pos rfl]
  exact ⟨hsec, _, List.mem_append_right _ (List.mem_singleton_self _), rfl, rfl⟩

/-- The kinds of session that SEC_RETIRE ends. -/
def Retirable (kind : Byte) : Prop := kind = 2 ∨ kind = 4 ∨ kind = 5

theorem secRetire_gives (hr : Reaches 0x6C d s) : let k := d16 d 16
    let kind := (sessGet s k).kind
    (2048 ≤ k → Gives (.secRetire d) s (RefusedBySec d stRANGE s)) ∧
    (k < 2048 → kind = 0 → Gives (.secRetire d) s (RefusedBySec d stNOT_READY s)) ∧
    (k < 2048 → kind ≠ 0 → ¬Retirable kind → Gives (.secRetire d) s (RefusedBySec d stREFUSED s)) ∧
    (k < 2048 → Retirable kind → k ≠ d16 d 4 ∨ d.signed.isSome = true →
      Gives (.secRetire d) s (fun t => Answered d stOK 0 t ∧ sessGet t k = {})) ∧
    (k < 2048 → Retirable kind → k = d16 d 4 → d.signed = none → Gives (.secRetire d) s (fun t => Answered d stOK 0 t ∧
      (sessGet t k).st = 2 ∧ (sessGet t k).kind = kind ∧ ∃ c ∈ t.hif.waiting, c.sqidx = d.sqidx ∧ c.retire = some k)) := by
  intro k kind
  obtain ⟨g, x, hentered, hsess⟩ := entered_sessions d s
  set u := withSess x (withStarted g s.sec s)
  have hexec : exec (.secRetire d) s = .next (effSecRetire d u) :=
    congrArg Host.Outcome.next ((arrive_reaches effSecRetire hr).trans (by rw [hentered]))
  have hd : d ∈ (ringGet u d.ring).started := by
    rw [← hentered]
    exact mem_entered_started d s
  have hkind : (sessGet u k).kind = kind := (hsess k).1
  have hrefused {st : Nat} (hst : st ∈ secCounted) (heff : effSecRetire d u = finSec d st 0 u) :
      Gives (.secRetire d) s (RefusedBySec d st s) := by
    obtain ⟨hanswered, hcounted, hsec⟩ := finSec_refused hd hst
    obtain ⟨hroots, hfloor, hocnt, hscnt, htamp, hkeys⟩ := secStands_of_sec hsec
    refine ⟨_, hexec, ?_⟩
    rw [heff]
    exact ⟨hanswered, hcounted, hroots, hfloor, hocnt, hscnt, htamp, fun j =>
      ⟨(hkeys j).1.trans (hsess j).1, (hkeys j).2.trans (hsess j).2⟩⟩
  have hends (h : Retirable kind) : ¬(kind ≠ 2 ∧ kind ≠ 4 ∧ kind ≠ 5) := by
    rintro ⟨h2, h4, h5⟩
    rcases h with h | h | h
    exacts [h2 h, h4 h, h5 h]
  have hthere (h : Retirable kind) : kind ≠ 0 := by
    intro h0
    rcases h with h | h | h <;> exact absurd (h0.symm.trans h) (by decide)
  have hbody : effSecRetire d u = if 2048 ≤ k then finSec d stRANGE 0 u
      else if kind = 0 then finSec d stNOT_READY 0 u
      else if kind ≠ 2 ∧ kind ≠ 4 ∧ kind ≠ 5 then finSec d stREFUSED 0 u
      else if k = d16 d 4 ∧ d.signed.isNone = true then completeR d stOK 0 (some k) (sessPut u k { sessGet u k with st := 2 })
      else finSec d stOK 0 (sessEnd k u) := by
    rw [← hkind]
    rfl
  refine ⟨fun hk => ?_, fun hk h0 => ?_, fun hk h0 hnot => ?_, fun hk hend hother => ?_, fun hk hend hown hunsigned => ?_⟩
  · exact hrefused (by decide) (hbody.trans (if_pos hk))
  · exact hrefused (by decide) (hbody.trans ((if_neg (Nat.not_le.mpr hk)).trans (if_pos h0)))
  · have hstays : kind ≠ 2 ∧ kind ≠ 4 ∧ kind ≠ 5 :=
      ⟨fun h => hnot (.inl h), fun h => hnot (.inr (.inl h)), fun h => hnot (.inr (.inr h))⟩
    exact hrefused (by decide) (hbody.trans ((if_neg (Nat.not_le.mpr hk)).trans ((if_neg h0).trans (if_pos hstays))))
  · have hnow : ¬(k = d16 d 4 ∧ d.signed.isNone = true) := by
      rintro ⟨hsame, hunsigned⟩
      rcases hother with h | h
      · exact h hsame
      · rw [Option.isNone_iff_eq_none.mp hunsigned] at h
        exact absurd h (by decide)
    refine ⟨_, hexec, ?_⟩
    rw [hbody, if_neg (Nat.not_le.mpr hk), if_neg (hthere hend), if_neg (hends hend), if_neg hnow, finSec_ok]
    refine ⟨answered_complete (s := sessEnd k u) stOK 0 hd, ?_⟩
    rw [sessGet, complete_sec]
    exact tblGet_tblPut_same _ _ _ _
  · refine ⟨_, hexec, ?_⟩
    rw [hbody, if_neg (Nat.not_le.mpr hk), if_neg (hthere hend), if_neg (hends hend), if_pos ⟨hown, by rw [hunsigned]; rfl⟩]
    obtain ⟨hanswered, hsec, hentry⟩ := completeR_retires (u := sessPut u k { sessGet u k with st := 2 }) hd k
    have hget : sessGet (completeR d stOK 0 (some k) (sessPut u k { sessGet u k with st := 2 })) k = { sessGet u k with st := 2 } := by
      rw [sessGet, hsec]
      exact sessGet_sessPut ..
    rw [hget]
    exact ⟨hanswered, rfl, hkind, hentry⟩

end Descriptors

/-! ### Tamper and the random source (R398, R410 to R412) -/

/-- The unit once the Snuffer line has fired, before MC0 sees it. -/
def snuffed (c : Nat) (s : State) : State :=
  irqEdge 208 { s with sec := { s.sec with
    dik := none, dxk := none, kek := none, swk := none, netsec := none, pairsec := none, noSecret := true, snuffed := true,
    tampSt := putBit s.sec.tampSt c true, tampTime := if s.sec.tampSt = 0 then (rtcTicks s).zeroExtend 64 else s.sec.tampTime,
    tamperDue := true, auditTamper := true } }

theorem snuff_eq (c : Nat) (s : State) : snuff c s = if awake s = true then tamperSeen (snuffed c s) else snuffed c s := rfl

/-- MC0 that sees a tamper event clears what is due, counts it and writes its record. -/
theorem tamperSeen_spec (u : State) : (tamperSeen u).sec = { u.sec with tamperDue := false } ∧ (tamperSeen u).irq = u.irq ∧
    cntOf (tamperSeen u) bSEC 3 = satInc (cntOf u bSEC 3) ∧ InLantern 0x1001 u (tamperSeen u) := by
  refine ⟨lantern_sec .., lantern_irq .., ?_, ?_⟩
  · exact (lantern_cntOf (by decide) ..).trans ((counted_count ..).trans (if_pos ⟨rfl, rfl⟩))
  · exact inLantern_lantern (u := count bSEC 3 { u with sec := { u.sec with tamperDue := false } }) rfl rfl

theorem snuffed_tampSt (c : Fin 14) (s : State) (i : Nat) :
    (snuffed c s).sec.tampSt.getLsbD i = (s.sec.tampSt.getLsbD i || i == c.val) := by
  refine (getLsbD_putBit _ c.isLt true i).trans ?_
  by_cases hc : i = c.val <;> simp [hc]

theorem tamperEvent_gives (c : Fin 14) (s : State) :
    (tampArmed s c = true → Gives (.tamperEvent c) s (fun t => t.sec.dik = none ∧ t.sec.dxk = none ∧ t.sec.kek = none ∧ t.sec.netsec = none ∧
      t.sec.pairsec = none ∧ t.sec.noSecret = true ∧ t.sec.snuffed = true ∧ (srcGet t 208).pend = true ∧
      (∀ i, i < 14 → t.sec.tampSt.getLsbD i = (s.sec.tampSt.getLsbD i || i == c.val)) ∧
      t.sec.tampTime = (if s.sec.tampSt = 0 then (rtcTicks s).zeroExtend 64 else s.sec.tampTime) ∧
      (s.pwr.asleep = false → cntOf t bSEC 3 = satInc (cntOf s bSEC 3) ∧ InLantern 0x1001 s t) ∧ (s.pwr.asleep = true → t.blk = s.blk))) ∧
    (tampArmed s c = false → Gives (.tamperEvent c) s (fun t => t = s)) ∧
    (s.sec.drbgOk = true → Gives .drbgHealthFailure s (fun t => t.sec = { s.sec with drbgOk := false, drbgFailed := true } ∧ Counted bSEC 4 s t)) ∧
    (s.sec.drbgOk = false → Gives .drbgHealthFailure s (fun t => t = s)) := by
  have hpend : (srcGet (snuffed c s) 208).pend = true := congrArg IrqSrc.pend (srcGet_srcPut _ 208 _)
  refine ⟨fun harmed => ⟨_, congrArg Host.Outcome.next (if_pos harmed), ?_⟩, fun harmed => ?_, fun hok => ?_, fun hok => ?_⟩
  · rw [snuff_eq]
    cases hasleep : s.pwr.asleep with
    | false =>
      have hawake : awake s = true := (congrArg (!·) hasleep).trans rfl
      obtain ⟨hsec, hirq, hcnt, hlantern⟩ := tamperSeen_spec (snuffed c s)
      rw [if_pos hawake, srcGet, hirq, hsec]
      exact ⟨rfl, rfl, rfl, rfl, rfl, rfl, rfl, hpend, fun i _ => snuffed_tampSt c s i, rfl, fun _ => ⟨hcnt, hlantern⟩, nofun⟩
    | true =>
      have hawake : ¬awake s = true := by
        rw [awake, hasleep]
        decide
      rw [if_neg hawake]
      exact ⟨rfl, rfl, rfl, rfl, rfl, rfl, rfl, hpend, fun i _ => snuffed_tampSt c s i, rfl, nofun, fun _ => rfl⟩
  · exact ⟨s, congrArg Host.Outcome.next (if_neg (ne_true_of_eq_false harmed)), rfl⟩
  · exact ⟨_, congrArg Host.Outcome.next (if_pos hok), rfl, counted_of_blk (u := s) rfl rfl⟩
  · exact ⟨s, congrArg Host.Outcome.next (if_neg (ne_true_of_eq_false hok)), rfl⟩

/-! ### Signatures (R402, R403) -/

/-- SEC without the oldest record that waits for verification. -/
def verifLeft (l : List Verif) (s : State) : State := { s with sec := { s.sec with verif := l } }

theorem signatureVerification_exec {v : Verif} {l : List Verif} {s : State} (h : s.sec.verif = v :: l) :
    exec .signatureVerification s = .next (if v.blob = true then blobDone v.desc (verifLeft l s) else signedDone v.desc (verifLeft l s)) := by
  have hexec : exec .signatureVerification s = execSignatureVerification s := rfl
  rw [hexec, execSignatureVerification, h]
  rfl

theorem recordFail_verifLeft (l : List Verif) (s : State) (magic rootAt : Nat) (b : Bytes) (signed : Nat) :
    recordFail (verifLeft l s) magic rootAt b signed = recordFail s magic rootAt b signed := rfl

/-- A record or a blob fails its check: it completes AUTH_FAIL, and SEC counts it. -/
theorem authFail_completes {d : HostDesc} {s : State} (hd : d ∈ (ringGet s d.ring).started) (l : List Verif) (n : Nat) :
    let t := complete d stAUTH_FAIL 0 (count bSEC n (verifLeft l s))
    t.sec.verif = l ∧ Answered d stAUTH_FAIL 0 t ∧ Counted bSEC n s t ∧ t.sec.ocnt = s.sec.ocnt ∧ t.sec.netsec = s.sec.netsec ∧
      t.sec.fwFloor = s.sec.fwFloor := by
  intro t
  have hsec : t.sec = (verifLeft l s).sec := complete_sec ..
  have hblk : t.blk = (count bSEC n (verifLeft l s)).blk :=
    (congrArg State.blk (complete_refused_frame (st := stAUTH_FAIL) (by decide) (count bSEC n (verifLeft l s))) :)
  rw [hsec]
  exact ⟨rfl, answered_complete (s := count bSEC n (verifLeft l s)) stAUTH_FAIL 0 hd, counted_of_blk (u := verifLeft l s) rfl hblk, rfl, rfl, rfl⟩

section Signed

variable {d : HostDesc} {l : List Verif} {s : State}

/-- The ring of a verified record with the inner descriptor in the record's place. -/
def innerStarted (d : HostDesc) (u : State) : State :=
  let v := takeOcnt (u64 d.buf 0x10) u
  ringPut v d.ring { ringGet v d.ring with started := (ringGet v d.ring).started.map fun x => if x == d then innerDesc d else x }

theorem signedDone_fails {n : Nat} (h : signedFail s d.buf = some n) :
    signedDone d (verifLeft l s) = complete d stAUTH_FAIL 0 (count bSEC n (verifLeft l s)) := by
  have hfail : signedFail (verifLeft l s) d.buf = some n := h
  unfold signedDone
  rw [hfail]

theorem signedDone_runs (h : signedFail s d.buf = none) :
    signedDone d (verifLeft l s) = checkDesc (innerDesc d) (innerStarted d (verifLeft l s)) := by
  have hpass : signedFail (verifLeft l s) d.buf = none := h
  unfold signedDone
  rw [hpass]
  rfl

/-- A record that passes its check is fresh. -/
theorem recordFail_none {magic rootAt signed : Nat} {b : Bytes} (h : recordFail s magic rootAt b signed = none) :
    s.sec.ocnt.toNat < u64 b 0x10 := by
  by_contra hstale
  unfold recordFail at h
  rw [if_pos (Nat.not_lt.mp hstale)] at h
  split_ifs at h
  split at h
  · cases h
  · split_ifs at h

/-- An inner SEC_FLOOR that passes the checks before it has its effect. -/
theorem checkDesc_floor {e : HostDesc} {u : State} (hop : dOp e = 0x6E) (hsigned : e.signed.isSome = true) (hres : reservedOk e = true)
    (hmask : (ringGet u e.ring).classMask.getLsbD (classRow 0x6E) = true) : checkDesc e u = effSecFloor e u := by
  have hassigned : assignedOp 0x6E = true := rfl
  have hrole : roleBarred 0x6E = false := by decide
  have hboot : bootBarred u 0x6E = false := by
    have hrow : (!([0, 8, 10].contains (classRow 0x6E))) = false := rfl
    rw [bootBarred, hrow, Bool.and_false]
  have hreads : readsHost 0x6E = false := by decide
  have heff : effOf e u = effSecFloor e u := by
    unfold effOf
    rw [hop]
    rfl
  have hcarrier : carrier 0x6E = none := rfl
  unfold checkDesc runDesc runChecked effBuf
  rw [hop, hassigned, hmask, hsigned, hrole, hboot, hres, hcarrier, hreads, heff]
  rfl

/-- A verified SEC_FLOOR of the firmware raises the floor, with OCNT and an audit record (R402, R413). -/
theorem signed_floor (hd : d ∈ (ringGet s d.ring).started) (h : signedFail s d.buf = none) (hop : dOp (innerDesc d) = 0x6E)
    (hwhich : d8 (innerDesc d) 16 = 1) (hres : reservedOk (innerDesc d) = true)
    (hmask : (ringGet s d.ring).classMask.getLsbD (classRow 0x6E) = true) (hfloor : s.sec.fwFloor.toNat ≤ d64 (innerDesc d) 24)
    (hlt : d64 (innerDesc d) 24 < 2 ^ 32) : let t := signedDone d (verifLeft l s)
    Answered d stOK 0 t ∧ t.sec.ocnt.toNat = u64 d.buf 0x10 ∧ s.sec.ocnt.toNat < u64 d.buf 0x10 ∧
      t.sec.fwFloor.toNat = d64 (innerDesc d) 24 ∧ InAudit 1 s t := by
  intro t
  set e := innerDesc d
  set u := innerStarted d (verifLeft l s)
  have hring : ringGet u d.ring = { ringGet s d.ring with started := (ringGet s d.ring).started.map fun x => if x == d then e else x } :=
    ringGet_ringPut ..
  have hfloor' : u.sec.fwFloor = s.sec.fwFloor := rfl
  set w : State := { u with sec := { u.sec with fwFloor := BitVec.ofNat 32 (d64 e 24) } }
  have hnot : ¬(d64 e 24 < u.sec.fwFloor.toNat ∨ 2 ^ 32 ≤ d64 e 24) := by
    rw [hfloor']
    exact not_or.mpr ⟨Nat.not_lt.mpr hfloor, Nat.not_le.mpr hlt⟩
  have heff : effSecFloor e u = complete e stOK 0 w :=
    (if_neg (by omega)).trans ((if_pos hwhich).trans (if_neg hnot))
  have hmask' : (ringGet u e.ring).classMask.getLsbD (classRow 0x6E) = true :=
    (congrArg (fun g : Ring => g.classMask.getLsbD (classRow 0x6E)) hring).trans hmask
  have ht : t = complete e stOK 0 w :=
    (signedDone_runs h).trans ((checkDesc_floor hop rfl hres hmask').trans heff)
  have hstarted : e ∈ (ringGet w e.ring).started := by
    have hrings : (ringGet w e.ring).started = (ringGet s d.ring).started.map fun x => if x == d then e else x :=
      congrArg Ring.started hring
    rw [hrings]
    exact List.mem_map.mpr ⟨d, hd, if_pos (beq_self_eq_true d)⟩
  have hsec : t.sec = w.sec := by
    rw [ht]
    exact complete_sec ..
  refine ⟨?_, ?_, recordFail_none h, ?_, ?_⟩
  · rw [ht]
    exact answered_complete stOK 0 hstarted
  · rw [hsec]
    exact toNat_u64 ..
  · rw [hsec]
    exact (BitVec.toNat_ofNat _ _).trans (Nat.mod_eq_of_lt hlt)
  · obtain ⟨x, hx⟩ := complete_eq e stOK 0 w
    have haudit : auditDesc e w = audit 1 0xFFFF 2 (BitVec.ofNat 64 (u64 d.buf 0x10)).toNat e.bytes w := rfl
    have hrecs : w.recs = s.recs := rfl
    have hnvm : w.nvm = s.nvm := rfl
    have hfull : audFull w = audFull s := by rw [audFull, audFull, hrecs, hnvm]
    have hrecorded : InAudit 1 s (audit 1 0xFFFF 2 (BitVec.ofNat 64 (u64 d.buf 0x10)).toNat e.bytes w) := inAudit_audit rfl hfull
    rw [ht, hx, if_pos rfl, haudit]
    exact fun hopen hlen => hrecorded hopen hlen

/-! ### Key blobs (R403) -/

theorem blobDone_fails {n : Nat} (h : blobFail s d.buf = some n) :
    blobDone d (verifLeft l s) = complete d stAUTH_FAIL 0 (count bSEC n (verifLeft l s)) := by
  have hfail : blobFail (verifLeft l s) d.buf = some n := h
  unfold blobDone
  rw [hfail]

theorem blobDone_sealed (h : blobFail s d.buf = none) (hsecret : blobSecret s d.buf = none) :
    blobDone d (verifLeft l s) = complete d stAUTH_FAIL 0 (count bSEC 1 (verifLeft l s)) := by
  have hpass : blobFail (verifLeft l s) d.buf = none := h
  have hnone : blobSecret (verifLeft l s) d.buf = none := hsecret
  unfold blobDone
  rw [hpass]
  dsimp only
  rw [hnone]

theorem blobDone_installs {x : Bytes} (h : blobFail s d.buf = none) (hsecret : blobSecret s d.buf = some x) :
    blobDone d (verifLeft l s) = blobInstall d x (verifLeft l s) := by
  have hpass : blobFail (verifLeft l s) d.buf = none := h
  have hsome : blobSecret (verifLeft l s) d.buf = some x := hsecret
  unfold blobDone
  rw [hpass]
  dsimp only
  rw [hsome]

/-- A secret of the pair's or the network's is installed (R403). -/
theorem blobInstall_secret (hd : d ∈ (ringGet s d.ring).started) (x : Bytes) :
    (u8 d.buf 4 = 1 → let t := blobInstall d x s
      Answered d stOK 0 t ∧ t.sec.netsec = some x ∧ t.sec.pairsec = s.sec.pairsec ∧ t.sec.ocnt.toNat = u64 d.buf 0x10 ∧ t.sec.sess = s.sec.sess) ∧
    (u8 d.buf 4 = 2 → let t := blobInstall d x s
      Answered d stOK 0 t ∧ t.sec.pairsec = some x ∧ t.sec.netsec = s.sec.netsec ∧ t.sec.ocnt.toNat = u64 d.buf 0x10) := by
  set v := takeOcnt (u64 d.buf 0x10) s
  refine ⟨fun hkind => ?_, fun hkind => ?_⟩
  · have heff : blobInstall d x s = complete d stOK 0 { v with sec := { v.sec with netsec := some x, wrapNet := wrapped s x } } :=
      if_pos hkind
    rw [heff]
    dsimp only
    rw [complete_sec]
    exact ⟨answered_complete (s := { v with sec := _ }) stOK 0 hd, rfl, rfl, toNat_u64 .., rfl⟩
  · have heff : blobInstall d x s = complete d stOK 0 { v with sec := { v.sec with pairsec := some x, wrapPair := wrapped s x } } :=
      (if_neg (by omega)).trans (if_pos hkind)
    rw [heff]
    dsimp only
    rw [complete_sec]
    exact ⟨answered_complete (s := { v with sec := _ }) stOK 0 hd, rfl, rfl, toNat_u64 ..⟩

/-- The operator session that a blob names (Table 14-6). -/
def blobOperator (d : HostDesc) (x : Bytes) : Sess :=
  { kind := 5, st := 1, ref := BitVec.ofNat 16 (u16 d.buf 6), key := x, rights := BitVec.ofNat 32 (u32 d.buf 0x18) }

theorem blobInstall_operator_eq (x : Bytes) (hkind : u8 d.buf 4 = 5) : blobInstall d x s =
    if s.sec.noSecret = true then finSec d stNOT_READY 0 s else blobPool d 5 (u16 d.buf 6) (blobOperator d x) s := by
  unfold blobInstall
  dsimp only
  rw [if_neg (by omega), if_neg (by omega), if_neg (by omega)]
  rw [if_neg (show ¬u8 d.buf 4 = 3 by omega), if_pos hkind]
  rfl

/-- An operator's blob makes or replaces its session of the pool (R403). -/
theorem blobInstall_operator (hd : d ∈ (ringGet s d.ring).started) (x : Bytes) (hkind : u8 d.buf 4 = 5) : let t := blobInstall d x s
    let k := u16 d.buf 6
    (s.sec.noSecret = true → Answered d stNOT_READY 0 t ∧ Counted bSEC 7 s t ∧ t.sec = s.sec) ∧
    (s.sec.noSecret = false → 1024 ≤ k → k < 2048 → (sessGet s k).kind ≠ 0 → (sessGet s k).kind ≠ 5 →
      Answered d stBUSY 0 t ∧ Counted bSEC 7 s t ∧ t.sec = s.sec) ∧
    (s.sec.noSecret = false → 1024 ≤ k → k < 2048 → (sessGet s k).kind = 0 ∨ (sessGet s k).kind = 5 →
      Answered d stOK 0 t ∧ t.sec.ocnt.toNat = u64 d.buf 0x10 ∧ (sessGet t k).kind = 5 ∧ (sessGet t k).st = 1 ∧ (sessGet t k).key = x ∧
        (sessGet t k).last = 0 ∧ (sessGet t k).rights.toNat = u32 d.buf 0x18 ∧ ∀ j, j ≠ k → sessGet t j = sessGet s j) := by
  intro t k
  have ht : t = _ := blobInstall_operator_eq x hkind
  have hpool (hin : 1024 ≤ k) (hlt : k < 2048) : ¬(k < 1024 ∨ 2048 ≤ k) := by omega
  refine ⟨fun hno => ?_, fun hyes hin hlt h0 h5 => ?_, fun hyes hin hlt hfree => ?_⟩
  · rw [ht, if_pos hno]
    exact finSec_refused hd (by decide)
  · have hbusy : t = finSec d stBUSY 0 s :=
      ht.trans ((if_neg (ne_true_of_eq_false hyes)).trans ((if_neg (hpool hin hlt)).trans (if_pos ⟨h0, h5⟩)))
    rw [hbusy]
    exact finSec_refused hd (by decide)
  · have hnot : ¬((sessGet s k).kind ≠ 0 ∧ (sessGet s k).kind ≠ 5) := fun h => hfree.elim h.1 h.2
    set w := blobSess k (blobOperator d x) (takeOcnt (u64 d.buf 0x10) s)
    have hmade : t = complete d stOK 0 w :=
      ht.trans ((if_neg (ne_true_of_eq_false hyes)).trans ((if_neg (hpool hin hlt)).trans (if_neg hnot)))
    have hsec : t.sec = w.sec := by
      rw [hmade]
      exact complete_sec ..
    have hget (j) : sessGet t j = tblGet (tblPut s.sec.sess k (blobOperator d x) {}) j {} := by
      rw [sessGet, hsec]
      rfl
    have hown : sessGet t k = blobOperator d x := (hget k).trans (tblGet_tblPut_same _ _ _ _)
    rw [hown, hsec, hmade]
    refine ⟨answered_complete (s := w) stOK 0 hd, toNat_u64 .., rfl, rfl, rfl, rfl, ?_, fun j hj => ?_⟩
    · exact (BitVec.toNat_ofNat _ _).trans (Nat.mod_eq_of_lt (u32_lt ..))
    · rw [← hmade, hget]
      exact tblGet_tblPut_ne _ _ _ hj

end Signed

/-! ### The debug access (R409) -/

theorem regOf_dbgdata {s : State} {m : RegMaster} (hm : Reachable m s) (hoff : blkOff s bSEC = false) {o : Nat} (ho : o = 0x190 ∨ o = 0x194) :
    regOf s m (regAddr bSEC o) = if s.sec.debug = true then some (r64 0x190 0) else none := by
  have hreg : regOff s bSEC o = false := by
    rw [regOff, if_neg (fun h => absurd h.1 (by decide)), hoff]
  unfold regAddr
  rw [regOf_reachable (.inl hm) (by decide) (by omega) (by omega), regAt_own (by omega) hreg]
  have hregs : ownRegs s bSEC o = secRegs s o := rfl
  have harr : regArr 0x8000 0x10 2048 o (fun n => [r32 0 ((sessGet s n).kind.toNat * 2 ^ 24 + (sessGet s n).st.toNat * 2 ^ 20 + (sessGet s n).ref.toNat),
      r32 4 (sessGet s n).uses.toNat, r32 8 (sessGet s n).fails.toNat, r32 12 0]) = [] := if_neg (by omega)
  rw [hregs, secRegs]
  dsimp only
  rw [harr]
  cases s.sec.debug <;> rcases ho with rfl | rfl <;> rfl

/-- An aligned read of 8 bytes reads the lower word, then the higher one. -/
theorem busRead_double {m : RegMaster} {a : Nat} {s t u : State} {lo hi : W32} (h8 : a % 8 = 0) (hlow : readWord dbgRead m a s = (lo, t))
    (hhigh : readWord dbgRead m (a + 4) t = (hi, u)) : busRead m a 8 s = (hi ++ lo, u) := by
  unfold busRead busReadWith
  rw [if_neg (by decide), if_pos ⟨rfl, h8⟩, hlow]
  dsimp only
  rw [hhigh]

theorem words_append (hi lo : W32) : BitVec.ofNat 32 (hi ++ lo).toNat = lo ∧ BitVec.ofNat 32 ((hi ++ lo).toNat / 2 ^ 32) = hi := by
  have hlo := lo.isLt
  have hhi := hi.isLt
  rw [← append_eq_ofNat, BitVec.toNat_ofNat]
  refine ⟨BitVec.eq_of_toNat_eq ?_, BitVec.eq_of_toNat_eq ?_⟩ <;> rw [BitVec.toNat_ofNat] <;> omega

/-- A read of DBGDATA delivers the words that its two halves read. -/
theorem dbgdata_reads {m : RegMaster} {s t u : State} {lo hi : W32} (hlow : readWord dbgRead m (regAddr bSEC 0x190) s = (lo, t))
    (hhigh : readWord dbgRead m (regAddr bSEC 0x194) t = (hi, u)) :
    exec (.dbgdata m none) s = .next { u with out := .regRead m 0x100194 hi :: .regRead m 0x100190 lo :: u.out } := by
  have hread : busRead m (regAddr bSEC 0x190) 8 s = (hi ++ lo, u) := busRead_double (by decide) hlow hhigh
  obtain ⟨hlo, hhi⟩ := words_append hi lo
  have hexec : exec (.dbgdata m none) s = readRow m (regAddr bSEC 0x190) 8 s := rfl
  rw [hexec, readRow, hread]
  dsimp only
  rw [hlo, hhi]
  rfl

/-- The engine's memory with 8 bytes at DBGADDR. -/
def dbgStored (e : Nat) (v : W64) (s : State) : State :=
  engPut s e { engGet s e with data := tblPutAll (engGet s e).data s.sec.dbgAddr.toNat (leBytes 8 v.toNat) 0 }

theorem dbgStored_loads (e : Nat) (v : W64) (s : State) : cellLoad (engGet (dbgStored e v s) e) s.sec.dbgAddr.toNat 8 = v.toNat ∧
    ∀ k, k ≠ e → engGet (dbgStored e v s) k = engGet s k := by
  refine ⟨?_, fun k hk => engGet_engPut_ne s _ hk⟩
  have hback := tblRange_tblPutAll (leBytes 8 v.toNat) (engGet s e).data s.sec.dbgAddr.toNat 0
  rw [leBytes_length] at hback
  unfold dbgStored cellLoad
  rw [engGet_engPut, hback, leNat_leBytes]
  exact Nat.mod_eq_of_lt v.isLt

/-- The debug access to the memory of an engine. -/
theorem dbgAccess_cell {e : Nat} {s : State} (he : e < 8) (htarget : s.sec.dbgCtl.toNat % 16 = 2 + e)
    (hin : s.sec.dbgAddr.toNat + 8 ≤ 262144) (v : W64) :
    dbgRead s = (BitVec.ofNat 64 (cellLoad (engGet s e) s.sec.dbgAddr.toNat 8), s) ∧ dbgWrite v s = dbgStored e v s := by
  have hne0 : ¬dbgTarget s = 0 := by
    rw [dbgTarget, htarget]
    omega
  have hne1 : ¬dbgTarget s = 1 := by
    rw [dbgTarget, htarget]
    omega
  have hcell : dbgTarget s < 10 ∧ s.sec.dbgAddr.toNat + 8 ≤ 262144 := by
    rw [dbgTarget, htarget]
    omega
  have he' : dbgTarget s - 2 = e := by
    rw [dbgTarget, htarget]
    omega
  unfold dbgRead dbgWrite
  dsimp only
  rw [if_neg hne0, if_neg hne0, if_neg hne1, if_neg hne1, if_pos hcell, if_pos hcell, he']
  exact ⟨rfl, rfl⟩

theorem cellLoad_lt (c : CellEng) (a : Nat) : cellLoad c a 8 < 2 ^ 64 := by
  have h := leNat_lt (tblRange c.data a 8 0)
  rwa [tblRange_length] at h

section Debug

variable {m : RegMaster} {s : State} (hm : Reachable m s) (hoff : blkOff s bSEC = false)
include hm hoff

/-- In a production boot the debug register is none (R9). -/
theorem dbgdata_production (hdebug : s.sec.debug = false) (v : W64) :
    Gives (.dbgdata m none) s (fun t => t.out = .regRead m 0x100194 0 :: .regRead m 0x100190 0 :: s.out ∧ t.cell = s.cell ∧ t.mc1 = s.mc1) ∧
    Gives (.dbgdata m (some v)) s (fun t => t.cell = s.cell ∧ t.mc1 = s.mc1 ∧ t.dram = s.dram ∧ t.pimg = s.pimg) := by
  have hnone {u : State} (hu : Reachable m u) (hpower : blkOff u bSEC = false) (hprod : u.sec.debug = false) {o : Nat}
      (ho : o = 0x190 ∨ o = 0x194) : regOf u m (regAddr bSEC o) = none :=
    (regOf_dbgdata hu hpower ho).trans (if_neg (ne_true_of_eq_false hprod))
  have hread {u : State} (hu : Reachable m u) (hpower : blkOff u bSEC = false) (hprod : u.sec.debug = false) {o : Nat}
      (ho : o = 0x190 ∨ o = 0x194) : readWord dbgRead m (regAddr bSEC o) u = (0, count bHIF 0 u) := by
    unfold readWord
    rw [hnone hu hpower hprod ho]
  have hwrite {u : State} (hu : Reachable m u) (hpower : blkOff u bSEC = false) (hprod : u.sec.debug = false) {o : Nat}
      (ho : o = 0x190 ∨ o = 0x194) (w : W32) : writeWord dbgWrite m (regAddr bSEC o) w u = count bHIF 0 u := by
    unfold writeWord
    rw [hnone hu hpower hprod ho]
  have hcounted : blkOff (count bHIF 0 s) bSEC = false := hoff
  refine ⟨⟨_, dbgdata_reads (hread hm hoff hdebug (.inl rfl)) (hread (u := count bHIF 0 s) hm hcounted hdebug (.inr rfl)), rfl, rfl, rfl⟩, ?_⟩
  have hbus : busWrite m (regAddr bSEC 0x190) 8 v s = count bHIF 0 (count bHIF 0 s) := by
    have hnext : regAddr bSEC 0x190 + 4 = regAddr bSEC 0x194 := rfl
    unfold busWrite busWriteWith
    rw [if_neg (by decide), if_pos ⟨rfl, by decide⟩, hnext, hwrite hm hoff hdebug (.inl rfl), hwrite (u := count bHIF 0 s) hm hcounted hdebug (.inr rfl)]
  exact ⟨_, congrArg Host.Outcome.next hbus, rfl, rfl, rfl, rfl⟩

/-- In a debug boot the register reads and writes the memory of the engine that it addresses. -/
theorem dbgdata_debug {e : Nat} (he : e < 8) (hdebug : s.sec.debug = true) (htarget : s.sec.dbgCtl.toNat % 16 = 2 + e)
    (hin : s.sec.dbgAddr.toNat + 8 ≤ 262144) (v : W64) : let a := s.sec.dbgAddr.toNat
    Gives (.dbgdata m none) s (fun t => ∃ lo hi : W32, t.out = .regRead m 0x100194 hi :: .regRead m 0x100190 lo :: s.out ∧
      lo.toNat + 2 ^ 32 * hi.toNat = cellLoad (engGet s e) a 8 ∧ t.cell = s.cell) ∧
    Gives (.dbgdata m (some v)) s (fun t => cellLoad (engGet t e) a 8 = v.toNat ∧ (∀ k, k ≠ e → engGet t k = engGet s k) ∧ t.mc1 = s.mc1) := by
  intro a
  have hsome {u : State} (hu : Reachable m u) (hpower : blkOff u bSEC = false) (hdbg : u.sec.debug = true) {o : Nat}
      (ho : o = 0x190 ∨ o = 0x194) : regOf u m (regAddr bSEC o) = some (r64 0x190 0) :=
    (regOf_dbgdata hu hpower ho).trans (if_pos hdbg)
  set n := cellLoad (engGet s e) a 8
  have hload : n < 2 ^ 64 := cellLoad_lt _ _
  obtain ⟨hread, -⟩ := dbgAccess_cell he htarget hin v
  have hlow : readWord dbgRead m (regAddr bSEC 0x190) s = (BitVec.ofNat 32 n, latchWide m (regAddr bSEC 0x190) 2 n s) := by
    have hvalue : (BitVec.ofNat 64 n).toNat = n := (BitVec.toNat_ofNat _ _).trans (Nat.mod_eq_of_lt hload)
    unfold readWord
    rw [hsome hm hoff hdebug (.inl rfl)]
    have hreg : readReg dbgRead m (regAddr bSEC 0x190 / 65536) (regAddr bSEC 0x190 % 65536) (r64 0x190 0) s =
        (BitVec.ofNat 32 (dbgRead s).1.toNat, latchWide m (regAddr bSEC 0x190) 2 (dbgRead s).1.toNat (dbgRead s).2) := rfl
    dsimp only
    rw [hreg, hread, hvalue]
  set u := latchWide m (regAddr bSEC 0x190) 2 n s
  refine ⟨⟨_, dbgdata_reads hlow (readWord_wide_high (i := 1) (e := r64 0x190 0) le_rfl (by decide) rfl
    (hsome (u := u) hm hoff hdebug (.inr rfl))), ?_⟩, ?_⟩
  · refine ⟨_, _, rfl, ?_, rfl⟩
    have hsnaps : wideGet u.snaps m (regAddr bSEC 0x194 - 4 * 1) = wordsOf 2 n := wideGet_widePut_same ..
    rw [hsnaps, tblGet_wordsOf n (by decide), BitVec.toNat_ofNat]
    omega
  · set w := dropStaging m (regAddr bSEC 0x190) (stageLow m bSEC 0x190 v s)
    have hbus : busWrite m (regAddr bSEC 0x190) 8 v s = dbgStored e v w := by
      have hwrite : dbgWrite v w = dbgStored e v w := (dbgAccess_cell (s := w) he htarget hin v).2
      have happly : regApply dbgWrite m bSEC 0x190 (0x190 + 4) v.toNat w = dbgWrite (BitVec.ofNat 64 v.toNat) w := by
        have hsec : regApply dbgWrite m bSEC 0x190 (0x190 + 4) v.toNat w = secWrite dbgWrite 0x190 v.toNat w := rfl
        rw [hsec]
        refine (if_neg ?_).trans rfl
        exact fun hprod => absurd ((congrArg (!·) hdebug).symm.trans hprod) (by decide)
      have hopen : ¬wideBarred (stageLow m bSEC 0x190 v s) m bSEC 0x190 v.toNat = true := Bool.false_ne_true
      rw [busWrite_double (by decide) (by decide) (hsome hm hoff hdebug (.inl rfl))
        (hsome (u := stageLow m bSEC 0x190 v s) (reachable_stageWord hm) hoff hdebug (.inr rfl)), if_neg hopen, happly,
        BitVec.ofNat_toNat, BitVec.setWidth_eq, hwrite]
    obtain ⟨hload, hothers⟩ := dbgStored_loads e v w
    exact ⟨_, congrArg Host.Outcome.next hbus, hload, hothers, rfl⟩

end Debug

/-- Settles O50: signed records and blobs, tamper, the debug access, and the descriptors of SEC. -/
theorem recordsBlobsSessionsAndTamper : Obligations.RecordsBlobsSessionsAndTamper := by
  unfold Obligations.RecordsBlobsSessionsAndTamper
  refine ⟨fun v l s hverif => ?_, fun c s => ?_, fun m v s hm hoff => ?_, fun d s => ?_⟩
  · intro d hd b failed
    have hexec := signatureVerification_exec hverif
    have hgives {P : State → Prop} {t : State} (ht : (if v.blob = true then blobDone d (verifLeft l s) else signedDone d (verifLeft l s)) = t)
        (hP : P t) : Gives .signatureVerification s P := ⟨t, hexec.trans (congrArg _ ht), hP⟩
    refine ⟨fun hrecord => ⟨fun n hfail => ?_, fun hpass hop hwhich hres hmask hfloor hlt => ?_⟩,
      fun hblob => ⟨fun n hfail => ?_, fun hpass hsealed => ?_, fun x hpass hsecret => ?_⟩⟩
    · exact hgives ((if_neg (ne_true_of_eq_false hrecord)).trans (signedDone_fails hfail)) (authFail_completes hd l n)
    · exact hgives (if_neg (ne_true_of_eq_false hrecord)) (signed_floor hd hpass hop hwhich hres hmask hfloor hlt)
    · exact hgives ((if_pos hblob).trans (blobDone_fails hfail)) (authFail_completes hd l n)
    · exact hgives ((if_pos hblob).trans (blobDone_sealed hpass hsealed)) (authFail_completes hd l 1)
    · have hinstalls : (if v.blob = true then blobDone d (verifLeft l s) else signedDone d (verifLeft l s)) = blobInstall d x (verifLeft l s) :=
        (if_pos hblob).trans (blobDone_installs hpass hsecret)
      obtain ⟨hnet, hpair⟩ := blobInstall_secret (s := verifLeft l s) hd x
      have hoperator := blobInstall_operator (s := verifLeft l s) hd x
      refine ⟨fun hk => hgives hinstalls (hnet hk), fun hk => hgives hinstalls (hpair hk), fun hk hno => ?_, fun hk hyes hin hlt h0 h5 => ?_,
        fun hk hyes hin hlt hfree => hgives hinstalls ((hoperator hk).2.2 hyes hin hlt hfree)⟩
      · obtain ⟨hanswered, hcounted, hsec⟩ := (hoperator hk).1 hno
        exact hgives hinstalls ⟨hanswered, hcounted, (congrArg SecRegs.sess hsec :)⟩
      · obtain ⟨hanswered, hcounted, hsec⟩ := (hoperator hk).2.1 hyes hin hlt h0 h5
        exact hgives hinstalls ⟨hanswered, hcounted, (congrArg SecRegs.sess hsec :)⟩
  · exact tamperEvent_gives c s
  · exact ⟨fun hprod => dbgdata_production hm hoff hprod v, fun e he hdebug htarget hin => dbgdata_debug hm hoff he hdebug htarget hin v⟩
  · exact ⟨secAttest_gives, secRead_gives, fun hr => effSecVerify_waits false rfl hr rfl, fun hr => effSecVerify_waits true rfl hr rfl,
      secRetire_gives, secRoot_gives, secFloor_gives, secCtl_gives⟩

end Sys2Proof.Proofs
end

section
/-! PROOFS. The witness of a pair: Bugles and heartbeats (R431 to R433). -/

namespace Sys2Proof.Proofs

open Sys2Proof.Machine Sys2Proof.Laws

/-! ### Completions of PAIR -/

theorem answered_of_hif {d : HostDesc} {st data : Nat} {u t : State} (h : Answered d st data u) (ht : t.hif = u.hif) :
    Answered d st data t := by
  unfold Answered
  rw [ht]
  exact h

theorem finPair_frame (d : HostDesc) (st data : Nat) (s : State) :
    { finPair d st data s with blk := s.blk, recs := s.recs, hif := s.hif } = s := finish_frame ..

/-- Completions of descriptors change HIF, the records and the counters alone. -/
theorem finAll_frame (ds : List (HostDesc × W64)) (st : Nat) (s : State) : ∃ b r h, finAll ds st s = { s with blk := b, recs := r, hif := h } := by
  induction ds generalizing s with
  | nil => exact ⟨s.blk, s.recs, s.hif, rfl⟩
  | cons d ds ih =>
    obtain ⟨b, r, h, heq⟩ := ih (finPair d.1 st 0 s)
    refine ⟨b, r, h, ?_⟩
    have hframe := congrArg (fun u : State => { u with blk := b, recs := r, hif := h }) (finPair_frame d.1 st 0 s)
    rw [finAll, List.foldl_cons]
    exact heq.trans hframe

/-! ### The witness (R431 to R433) -/

/-- PAIR's registers after an accepted Bugle, before its answer. -/
def bugleRegs (b : Bytes) (s : State) : PairRegs :=
  { s.pair with
    epoch := BitVec.ofNat 32 (u32 b 4), fvRx := BitVec.ofNat 64 (u64 b 40),
    grant := ⟨byteAt b 1, BitVec.ofNat 64 (u64 b 16), BitVec.ofNat 64 (u64 b 24), BitVec.ofNat 64 (u64 b 32)⟩, lastBugle := b,
    bugleMfn := some s.sched.mfn, pleOk := s.pair.pleOk && !(BitVec.ofNat 64 (u64 b 16) == 0 && BitVec.ofNat 64 (u64 b 24) == 0),
    noLease := s.pair.noLease || byteAt b 1 == 1 || byteAt b 1 == 2 }

/-- PAIR's registers once a swap that it asked for has been granted. -/
def swapGranted (p : PairRegs) : PairRegs := { p with swapReq := [], swapAsked := false }

theorem bugleTake_swap {b : Bytes} (h : byteAt b 1 = 2) (s : State) :
    bugleTake b s = finAll s.pair.swapReq stOK { s with pair := swapGranted (bugleRegs b s) } := if_pos h

theorem bugleTake_other {b : Bytes} (h : byteAt b 1 ≠ 2) (s : State) : bugleTake b s = { s with pair := bugleRegs b s } := if_neg h

theorem byteAt_eq_two {b : Bytes} : byteAt b 1 = 2 ↔ u8 b 1 = 2 := BitVec.toNat_inj.symm

/-- The registers of a granted unit, whatever the Bugle asks. -/
theorem bugleTake_pair (b : Bytes) (s : State) :
    (bugleTake b s).pair = if u8 b 1 = 2 then swapGranted (bugleRegs b s) else bugleRegs b s := by
  by_cases h : u8 b 1 = 2
  · obtain ⟨_, _, _, hframe⟩ := finAll_frame s.pair.swapReq stOK { s with pair := swapGranted (bugleRegs b s) }
    rw [bugleTake_swap (byteAt_eq_two.mpr h), hframe, if_pos h]
  · rw [bugleTake_other (mt byteAt_eq_two.mp h), if_neg h]

/-- A heartbeat moves FV on and leaves on the port that WITSEL names. -/
theorem heartbeat_spec (key : Bytes) (s : State) :
    (∃ body, (heartbeat key s).pair = { s.pair with fvTx := s.pair.fvTx + 1, lastBeat := body }) ∧ (heartbeat key s).hif = s.hif ∧
      (s.pair.witsel = false → ∃ w, (heartbeat key s).out = .witness w :: s.out) := by
  have hfv : BitVec.ofNat 64 (s.pair.fvTx.toNat + 1) = s.pair.fvTx + 1 := by
    apply BitVec.eq_of_toNat_eq
    simp
  unfold heartbeat
  dsimp only
  split_ifs with hsel
  · exact ⟨⟨_, by rw [hfv]⟩, rfl, fun hoff => absurd (hsel.symm.trans hoff) (by decide)⟩
  · exact ⟨⟨_, by rw [← hfv]; rfl⟩, rfl, fun _ => ⟨_, rfl⟩⟩

/-- A Bugle that R432 accepts. -/
def BugleGood (b : Bytes) (crc : Bool) (key : Bytes) (s : State) : Prop :=
  crc = true ∧ b.length = 64 ∧ u8 b 0 = 0x10 ∧ slice b 8 8 = devuid s ∧ (hmac256 key (b.take 48)).take 16 = b.drop 48 ∧
    s.pair.fvRx.toNat < u64 b 40 ∧ s.pair.epoch.toNat ≤ u32 b 4

theorem bugleGood_iff {b : Bytes} {crc : Bool} {key : Bytes} {s : State} : (crc && bugleOk s key b) = true ↔ BugleGood b crc key s := by
  simp only [bugleOk, BugleGood, Bool.and_eq_true, decide_eq_true_eq, beq_iff_eq, and_assoc]

theorem witSess_frame {key : Bytes} {s t : State} (h : witSess key s = some t) : ∃ x, t = withSess x s := by
  unfold witSess at h
  split_ifs at h
  · exact ⟨s.sec.sess, (Option.some.inj h).symm⟩
  · exact poolMake_frame h

/-- An accepted Bugle is answered, where the pool holds the session of the witness. -/
def bugleAnswered (b key : Bytes) (s : State) : State :=
  match witSess key s with
  | some t => poolNote 6 0 true (heartbeat key (poolNote 6 0 true (bugleTake b t)))
  | none => count bSEC 7 s

section Bugle

variable {b : Bytes} {crc : Bool} {key : Bytes} {s : State} (hen : enOf s bPAIR = true) (hmode : s.pair.mode = true ∨ s.pair.modeReq ≠ [])
  (hs : s.sec.snuffed = false) (hkey : keyWitness s = some key)
include hen hmode hs hkey

theorem bugle_checked : bugle b crc s = if (crc && bugleOk s key b) = true then bugleAnswered b key s
  else count bPAIR 5 (if crc && bugleForged s key b then poolNote 6 0 false s else s) := by
  have hruns : ¬((!enOf s bPAIR) = true ∨ (!s.pair.mode) = true ∧ s.pair.modeReq.isEmpty = true) := by
    rw [hen]
    rcases hmode with h | h
    · simp [h]
    · simp [h]
  unfold bugle
  rw [if_neg hruns, hs, if_neg Bool.false_ne_true, hkey]
  rfl

theorem bugle_refused (hbad : ¬BugleGood b crc key s) :
    Gives (.bugle b crc) s (fun t => t.pair = s.pair ∧ t.out = s.out ∧ Counted bPAIR 5 s t) := by
  refine ⟨bugle b crc s, rfl, ?_⟩
  rw [bugle_checked hen hmode hs hkey, if_neg (mt bugleGood_iff.mp hbad)]
  split_ifs
  · obtain ⟨x, hx⟩ := poolNote_frame 6 0 false s
    rw [hx]
    exact ⟨rfl, rfl, counted_of_blk (u := withSess x s) rfl rfl⟩
  · exact ⟨rfl, rfl, counted_count _ _ _⟩

theorem bugle_poolFull (hgood : BugleGood b crc key s) (hfull : witSess key s = none) :
    Gives (.bugle b crc) s (fun t => t.pair = s.pair ∧ t.out = s.out ∧ Counted bSEC 7 s t) := by
  refine ⟨bugle b crc s, rfl, ?_⟩
  rw [bugle_checked hen hmode hs hkey, if_pos (bugleGood_iff.mpr hgood), bugleAnswered, hfull]
  exact ⟨rfl, rfl, counted_count _ _ _⟩

theorem bugle_granted (hgood : BugleGood b crc key s) (hmade : (witSess key s).isSome = true) :
    Gives (.bugle b crc) s (fun t => t.pair.grant = ⟨byteAt b 1, BitVec.ofNat 64 (u64 b 16), BitVec.ofNat 64 (u64 b 24), BitVec.ofNat 64 (u64 b 32)⟩ ∧
      t.pair.epoch.toNat = u32 b 4 ∧ t.pair.fvRx.toNat = u64 b 40 ∧ t.pair.fvTx = s.pair.fvTx + 1 ∧ t.pair.role = s.pair.role ∧
      t.pair.pleOk = (s.pair.pleOk && !(u64 b 16 == 0 && u64 b 24 == 0)) ∧ t.pair.noLease = (s.pair.noLease || u8 b 1 == 1 || u8 b 1 == 2) ∧
      (u8 b 1 ≠ 2 → s.pair.witsel = false → ∃ w, t.out = .witness w :: s.out) ∧
      (∀ d n, u8 b 1 = 2 → s.pair.swapReq = [(d, n)] → d ∈ (ringGet s d.ring).started → Answered d stOK 0 t ∧ t.pair.swapAsked = false)) := by
  obtain ⟨w, hw⟩ := Option.isSome_iff_exists.mp hmade
  obtain ⟨x, rfl⟩ := witSess_frame hw
  obtain ⟨y, hy⟩ := poolNote_frame 6 0 true (bugleTake b (withSess x s))
  set v := withSess y (bugleTake b (withSess x s))
  obtain ⟨z, hz⟩ := poolNote_frame 6 0 true (heartbeat key v)
  obtain ⟨⟨body, hpair⟩, hhif, hout⟩ := heartbeat_spec key v
  have hexec : exec (.bugle b crc) s = .next (withSess z (heartbeat key v)) := by
    refine congrArg Host.Outcome.next ((bugle_checked hen hmode hs hkey).trans ?_)
    rw [if_pos (bugleGood_iff.mpr hgood), bugleAnswered, hw]
    dsimp only
    rw [hy, hz]
  have hv : v.pair = if u8 b 1 = 2 then swapGranted (bugleRegs b s) else bugleRegs b s := bugleTake_pair b (withSess x s)
  have hact (n : Nat) (hn : n < 256) : (byteAt b 1 == BitVec.ofNat 8 n) = (u8 b 1 == n) := by
    rw [Bool.eq_iff_iff, beq_iff_eq, beq_iff_eq, ← BitVec.toNat_inj, BitVec.toNat_ofNat, Nat.mod_eq_of_lt hn]
    rfl
  have hzero (o : Nat) : (BitVec.ofNat 64 (u64 b o) == 0) = (u64 b o == 0) := by
    rw [Bool.eq_iff_iff, beq_iff_eq, beq_iff_eq, ← BitVec.toNat_inj, toNat_u64]
    rfl
  have hok : (bugleRegs b s).pleOk = (s.pair.pleOk && !(u64 b 16 == 0 && u64 b 24 == 0)) := by
    rw [← hzero, ← hzero]
    rfl
  have hno : (bugleRegs b s).noLease = (s.pair.noLease || u8 b 1 == 1 || u8 b 1 == 2) := by
    rw [← hact 1 (by decide), ← hact 2 (by decide)]
    rfl
  have hregs {α : Type} (f : PairRegs → α) (hswap : ∀ p, f (swapGranted p) = f p) : f v.pair = f (bugleRegs b s) := by
    rw [hv]
    split_ifs
    · exact hswap _
    · rfl
  have hfield {α : Type} (f : PairRegs → α) (hbeat : f { v.pair with fvTx := v.pair.fvTx + 1, lastBeat := body } = f v.pair)
      (hswap : ∀ p, f (swapGranted p) = f p) : f (withSess z (heartbeat key v)).pair = f (bugleRegs b s) :=
    (congrArg f hpair).trans (hbeat.trans (hregs f hswap))
  refine ⟨_, hexec, hfield PairRegs.grant rfl fun _ => rfl, ?_, ?_, ?_, hfield PairRegs.role rfl fun _ => rfl,
    (hfield PairRegs.pleOk rfl fun _ => rfl).trans hok, (hfield PairRegs.noLease rfl fun _ => rfl).trans hno, fun hother hsel => ?_,
    fun d n hswap hreq hd => ?_⟩
  · rw [hfield PairRegs.epoch rfl fun _ => rfl]
    exact (BitVec.toNat_ofNat _ _).trans (Nat.mod_eq_of_lt (u32_lt ..))
  · rw [hfield PairRegs.fvRx rfl fun _ => rfl]
    exact toNat_u64 ..
  · refine (congrArg PairRegs.fvTx hpair).trans ?_
    exact congrArg (· + 1) (hregs PairRegs.fvTx fun _ => rfl)
  · have hsel' : v.pair.witsel = false := (hregs PairRegs.witsel fun _ => rfl).trans hsel
    obtain ⟨w, hw⟩ := hout hsel'
    refine ⟨w, hw.trans ?_⟩
    rw [show v.out = s.out from (congrArg State.out (bugleTake_other (mt byteAt_eq_two.mp hother) (withSess x s)) :)]
  · have htake : bugleTake b (withSess x s) = finPair d stOK 0 { withSess x s with pair := swapGranted (bugleRegs b s) } := by
      rw [bugleTake_swap (byteAt_eq_two.mpr hswap)]
      exact congrArg (fun l => finAll l stOK { withSess x s with pair := swapGranted (bugleRegs b s) }) hreq
    refine ⟨answered_of_hif (u := finPair d stOK 0 { withSess x s with pair := swapGranted (bugleRegs b s) })
      (answered_complete (s := { withSess x s with pair := swapGranted (bugleRegs b s) }) stOK 0 hd) ?_, ?_⟩
    · exact hhif.trans (congrArg State.hif htake :)
    · refine (congrArg PairRegs.swapAsked hpair).trans ?_
      rw [hv, if_pos hswap]
      rfl

end Bugle

end Sys2Proof.Proofs
end

section
/-! PROOFS. PAIR at the start of a minor frame: what the mirror lanes send, and the changes of role (R414, R420, R434 to R439). -/

namespace Sys2Proof.Proofs

open Sys2Proof.Machine Sys2Proof.Laws

/-! ### What a mirror frame that leaves changes (R418) -/

/-- PAIR's registers without what sending on the mirror lanes moves. -/
def besideSending (p : PairRegs) : PairRegs :=
  { p with fcnt := [], fcnt2 := [], sent := 0, nonce := [], sendNext := false, timeTx := 0, meterSent := 0 }

/-- The state after sending: PAIR's registers, the sessions, what has left and the free words are new. -/
def sending (p : PairRegs) (x : Tbl Sess) (o : List Out) (f : Nat) (s : State) : State :=
  { withSess x s with pair := p, out := o, free := f }

/-- `t` is `s` after frames of the mirror lanes, which keep the sessions of the stations. -/
def Mirrored (s t : State) : Prop :=
  ∃ p x o f, t = sending p x o f s ∧ besideSending p = besideSending s.pair ∧
    ∀ k, (sessGet s k).kind = 1 → tblGet x k {} = sessGet s k

theorem Mirrored.refl (s : State) : Mirrored s s := ⟨s.pair, s.sec.sess, s.out, s.free, rfl, rfl, fun _ _ => rfl⟩

theorem Mirrored.trans {s t u : State} (h : Mirrored s t) (h' : Mirrored t u) : Mirrored s u := by
  obtain ⟨p, x, o, f, rfl, hp, hx⟩ := h
  obtain ⟨p', x', o', f', rfl, hp', hx'⟩ := h'
  refine ⟨p', x', o', f', rfl, hp'.trans hp, fun k hk => ?_⟩
  have hkept : sessGet (sending p x o f s) k = sessGet s k := hx k hk
  exact (hx' k (by rw [hkept]; exact hk)).trans hkept

/-- A register that sending does not move is as it was. -/
theorem Mirrored.pair {s t : State} (h : Mirrored s t) {α : Type} (f : PairRegs → α) (hf : ∀ p, f (besideSending p) = f p) :
    f t.pair = f s.pair := by
  obtain ⟨p, x, o, n, rfl, hp, -⟩ := h
  exact (hf p).symm.trans ((congrArg f hp).trans (hf s.pair))

/-- So is all but PAIR, SEC, what has left and the free words. -/
theorem Mirrored.beside {s t : State} (h : Mirrored s t) {α : Type} (f : State → α) (hf : ∀ p x o n, f (sending p x o n s) = f s) :
    f t = f s := by
  obtain ⟨p, x, o, n, rfl, -, -⟩ := h
  exact hf p x o n

theorem Mirrored.session {s t : State} (h : Mirrored s t) {k : Nat} (hk : (sessGet s k).kind = 1) : sessGet t k = sessGet s k := by
  obtain ⟨p, x, o, n, rfl, -, hx⟩ := h
  exact hx k hk

/-- A note of an operation keeps the sessions of other kinds. -/
theorem poolNote_keeps {kind : Byte} (hkind : kind ≠ 1) (ref : Nat) (ok : Bool) (s : State) : ∃ x, poolNote kind ref ok s = withSess x s ∧
    ∀ k, (sessGet s k).kind = 1 → tblGet x k {} = sessGet s k := by
  unfold poolNote
  split
  · exact ⟨s.sec.sess, rfl, fun _ _ => rfl⟩
  next i _ =>
    dsimp only
    have hput (v : Sess) (hown : ¬((sessGet s i).kind != kind) = true) (k : Nat) (hk : (sessGet s k).kind = 1) :
        tblGet (tblPut s.sec.sess i v {}) k {} = sessGet s k := by
      refine tblGet_tblPut_ne _ _ _ fun hsame => hkind ?_
      have hi : (sessGet s i).kind = kind := by simpa using hown
      rw [← hi, ← hsame, hk]
    split_ifs with hother
    · exact ⟨s.sec.sess, rfl, fun _ _ => rfl⟩
    all_goals exact ⟨_, rfl, hput _ hother⟩

theorem mirSend_mirrored (lane kind : Nat) (cseq : W64) (off item : Nat) (payload : Bytes) (s : State) :
    Mirrored s (mirSend lane kind cseq off item payload s) := by
  unfold mirSend
  dsimp only
  split
  · exact .refl s
  · split_ifs
    · exact .refl s
    · obtain ⟨x, hx, hkept⟩ := poolNote_keeps (kind := 7) (by decide) lane true { s with pair := { s.pair with
        fcnt2 := tblPut s.pair.fcnt2 (2 * lane + ownDir s) (BitVec.ofNat 64 ((tblGet s.pair.fcnt2 (2 * lane + ownDir s) 0).toNat + 1)) 0 } }
      rw [hx]
      exact ⟨_, x, _, _, rfl, rfl, hkept⟩
    · obtain ⟨x, hx, hkept⟩ := poolNote_keeps (kind := 7) (by decide) lane true { s with pair := { s.pair with
        fcnt := tblPut s.pair.fcnt (2 * lane + ownDir s) (BitVec.ofNat 64 ((tblGet s.pair.fcnt (2 * lane + ownDir s) 0).toNat + 1)) 0 } }
      rw [hx]
      exact ⟨_, x, _, _, rfl, rfl, hkept⟩

theorem mirBoth_mirrored (kind : Nat) (cseq : W64) (off : Nat) (payload : Bytes) (s : State) :
    Mirrored s (mirBoth kind cseq off payload s) :=
  (mirSend_mirrored 0 kind cseq off 0 payload s).trans (mirSend_mirrored 1 kind cseq off 0 payload _)

/-- Registers that only sending moves. -/
theorem mirrored_pair {s : State} {p : PairRegs} (h : besideSending p = besideSending s.pair) : Mirrored s { s with pair := p } :=
  ⟨p, s.sec.sess, s.out, s.free, rfl, h, fun _ _ => rfl⟩

theorem freshNonce_mirrored (s : State) : Mirrored s (freshNonce s) := ⟨_, s.sec.sess, s.out, _, rfl, rfl, fun _ _ => rfl⟩

theorem helloSend_mirrored (lane : Nat) (s : State) : Mirrored s (helloSend lane s) := by
  unfold helloSend
  split
  · exact .refl s
  · exact ⟨_, s.sec.sess, _, s.free, rfl, rfl, fun _ _ => rfl⟩

theorem helloBoth_mirrored (s : State) : Mirrored s (helloBoth s) := by
  have hboth (u : State) : Mirrored u (helloSend 1 (helloSend 0 u)) := (helloSend_mirrored 0 u).trans (helloSend_mirrored 1 _)
  unfold helloBoth
  dsimp only
  by_cases hdue : helloDue s = true
  · rw [if_pos hdue]
    by_cases hnone : (s.pair.nonce.isEmpty && !s.sec.drbgOk) = true
    · rw [if_pos hnone]
      exact .refl s
    · rw [if_neg hnone]
      split_ifs
      · exact (freshNonce_mirrored s).trans (hboth _)
      · exact hboth s
  · rw [if_neg hdue]
    exact .refl s

theorem timeSend_mirrored (s : State) : Mirrored s (timeSend s) := by
  unfold timeSend
  split_ifs
  · exact .refl s
  · exact (mirrored_pair (s := s) (p := { s.pair with timeTx := nowT s }) rfl).trans (mirSend_mirrored ..)

theorem meterSend_mirrored (s : State) : Mirrored s (meterSend s) := by
  unfold meterSend
  dsimp only
  split_ifs
  · exact .refl s
  · exact (mirrored_pair (s := s) (p := { s.pair with meterSent := s.sched.mfn - 1 }) rfl).trans (mirSend_mirrored ..)

/-- A lane that carried nothing carries IDLE. -/
theorem idle_mirrored (k : Nat) (s : State) : Mirrored s (if s.pair.sent.getLsbD k then s else mirSend k kIDLE 0 0 0 [] s) := by
  split_ifs
  · exact .refl s
  · exact mirSend_mirrored ..

theorem idleSend_mirrored (s : State) : Mirrored s (idleSend s) :=
  ((idle_mirrored 0 s).trans (idle_mirrored 1 _)).trans (mirrored_pair rfl)

/-- Once its role is settled, PAIR only sends. -/
theorem pairFrameStart_mirrored (s : State) : Mirrored (roleChange s) (pairFrameStart s) := by
  unfold pairFrameStart
  dsimp only
  split_ifs
  · exact .refl _
  · refine (mirrored_pair (s := roleChange s) (p := { (roleChange s).pair with sendNext := true }) rfl).trans ?_
    exact (idleSend_mirrored _).trans ((helloBoth_mirrored _).trans ((timeSend_mirrored _).trans (meterSend_mirrored _)))
  · exact (idleSend_mirrored _).trans ((helloBoth_mirrored _).trans ((timeSend_mirrored _).trans (meterSend_mirrored _)))

/-! ### The frame that has begun (R354) -/

/-- The state at the start of a frame, after the grid's part. -/
def begun (m : TimeRegs) (c : W32) (b : Tbl Blk) (p : PImage) (f : Nat) (s : State) : State :=
  { s with time := m, sched := { s.sched with mfn := s.sched.mfn + 1, cyc := 0 }, canl := { s.canl with tsref := c }, blk := b, pimg := p, free := f }

theorem newGrid_frame (s : State) : ∃ m, (newGrid s).2 = { s with time := m } := by
  unfold newGrid
  split
  · dsimp only
    split_ifs
    · exact ⟨s.time, rfl⟩
    · exact ⟨_, rfl⟩
  · exact ⟨s.time, rfl⟩

/-- Counting in another block keeps PAIR's counters. -/
theorem countIf_pair (c : Bool) {b : Nat} (hb : b ≠ bPAIR) (n : Nat) (s : State) : ∃ x, countIf c b n s = { s with blk := x } ∧
    ∀ k, cntOf { s with blk := x } bPAIR k = cntOf s bPAIR k := by
  cases c
  · exact ⟨s.blk, rfl, fun _ => rfl⟩
  · refine ⟨_, rfl, fun k => ?_⟩
    exact (counted_count b n s bPAIR k).trans (if_neg fun h => hb h.1.symm)

/-- A running schedule's frame start: the grid's part keeps PAIR, and PAIR follows (R354, R434). -/
theorem minorFrame_begun {hot : Bool} {s : State} (hrun : s.sched.run = true) : ∃ m c b p f, minorFrame hot s = pairFrameStart (begun m c b p f s) ∧
    ∀ k, cntOf (begun m c b p f s) bPAIR k = cntOf s bPAIR k := by
  obtain ⟨m, hm⟩ := newGrid_frame s
  set v : State := { s with
    time := m, sched := { s.sched with mfn := s.sched.mfn + 1, cyc := 0 }, pimg := { s.pimg with openSpan := false, snapDone := false } }
  set l := (newGrid s).1
  obtain ⟨x, hx, hcnt⟩ := countIf_pair (gridFar l v.time) (show bTIME ≠ bPAIR by decide) 3 { v with time := gridTime l v.time }
  obtain ⟨y, hy, hcnt'⟩ := countIf_pair hot (show bSCHED ≠ bPAIR by decide) 6
    (latchTsref (trig0Frame { v with time := gridTime l v.time, blk := x }))
  have hbody : minorFrame hot s = pairFrameStart (countIf hot bSCHED 6 (latchTsref (trig0Frame (gridStart l false v)))) := by
    unfold minorFrame
    dsimp only
    rw [if_pos hrun, hm]
  rw [gridStart_eq, hx, hy] at hbody
  exact ⟨_, _, _, _, _, hbody, fun k => (hcnt' k).trans (hcnt k)⟩

/-- A frame start gives what PAIR's changes of role give. -/
theorem gives_minorFrame {hot : Bool} {s : State} (hen : enOf s bSCHED = true) (him : s.sched.image.isSome = true) (hrun : s.sched.run = true)
    {P : State → Prop} (h : ∀ m c b p f t, (∀ k, cntOf (begun m c b p f s) bPAIR k = cntOf s bPAIR k) →
      Mirrored (roleChange (begun m c b p f s)) t → P t) : Gives (.minorFrameStart hot) s P := by
  obtain ⟨m, c, b, p, f, heq, hcnt⟩ := minorFrame_begun (hot := hot) hrun
  refine ⟨minorFrame hot s, ?_, ?_⟩
  · rw [exec, execMinorFrameStart, hen, him]
    rfl
  · rw [heq]
    exact h m c b p f _ hcnt (pairFrameStart_mirrored _)

/-! ### A change of role (R434) -/

/-- PAIR's registers in a new role. -/
def roleRegs (new : BitVec 2) (p : PairRegs) : PairRegs := { p with role := new, finalCut := false, finalApplied := false, noLease := false }

theorem lantern_frame (code sev : Nat) (data : Bytes) (s : State) : ∃ b r, lantern code sev data s = { s with blk := b, recs := r } := by
  unfold lantern
  split_ifs
  · exact ⟨_, s.recs, rfl⟩
  · exact ⟨s.blk, _, rfl⟩
  · exact ⟨_, _, rfl⟩

theorem audit_recs (a b c d : Nat) (x : Bytes) (s : State) : ∃ k r, audit a b c d x s = { s with blk := k, recs := r } :=
  ⟨_, _, (congrArg (fun u : State => { u with blk := (audit a b c d x s).blk, recs := (audit a b c d x s).recs }) (audit_frame a b c d x s) :)⟩

theorem parcInterrupt_frame (s : State) : ∃ p, parcInterrupt s = { s with parc := p } := by
  unfold parcInterrupt parcGiveUp
  split
  · exact ⟨s.parc, rfl⟩
  · exact ⟨_, rfl⟩

/-- The state with SOLV, PARC, the records, the counters, the sources and HIF as a change of role leaves them. -/
def turned (p : PairRegs) (v : SolvRegs) (q : ParcRegs) (b : Tbl Blk) (r : RecRegs) (i : IrqRegs) (h : HifRegs) (s : State) : State :=
  { s with pair := p, solv := v, parc := q, blk := b, recs := r, irq := i, hif := h }

/-- The completion of PAIR_ROLE's change waits, where the ring is enabled. -/
def RolePosted (role cause : Nat) (s t : State) : Prop := s.pair.ringEn = true → ∃ x ∈ t.hif.waiting, x.ring = s.pair.ring.toNat ∧ x.unsol = true ∧
  x.status = 0 ∧ x.data = BitVec.ofNat 64 (s.pair.cseq.toNat % 2 ^ 48 + role * 2 ^ 48 + cause * 2 ^ 56)

/-- What every change of role records and announces. -/
structure RoleTold (role cause : Nat) (s t : State) : Prop where
  source : (srcGet t 206).pend = true
  lantern : InLantern 0x1101 s t
  posted : RolePosted role cause s t

/-- What is told stays told. -/
theorem RoleTold.of_kept {role cause : Nat} {s t u : State} (h : RoleTold role cause s t) (hsrc : srcGet u 206 = srcGet t 206)
    (hqueue : u.recs.queue = t.recs.queue) (hwait : ∀ x ∈ t.hif.waiting, x ∈ u.hif.waiting) : RoleTold role cause s u := by
  obtain ⟨hsource, hlantern, hposted⟩ := h
  refine ⟨by rw [hsrc]; exact hsource, fun hf hl => ?_, fun hring => ?_⟩
  · rw [hqueue]
    exact hlantern hf hl
  · obtain ⟨x, hx, hentry⟩ := hposted hring
    exact ⟨x, hwait x hx, hentry⟩

theorem changeRole_turns (new : BitVec 2) (cause : Nat) (s : State) : ∃ v q b r i h,
    changeRole new cause s = turned (roleRegs new s.pair) v q b r i h s ∧ h.rings = s.hif.rings ∧
      RoleTold new.toNat cause s (changeRole new cause s) ∧ ∀ k, cntOf (changeRole new cause s) bPAIR k = cntOf s bPAIR k := by
  set data := leBytes 1 s.pair.role.toNat ++ leBytes 1 new.toNat ++ leBytes 1 cause ++ leBytes 8 s.pair.cseq.toNat
  obtain ⟨q, hq⟩ := parcInterrupt_frame (solvRole { s with pair := roleRegs new s.pair })
  set w := parcInterrupt (solvRole { s with pair := roleRegs new s.pair })
  obtain ⟨b, r, hl⟩ := lantern_frame 0x1101 1 data w
  obtain ⟨b', r', ha⟩ := audit_recs 0x0007 0xFFFF 0 0 data (lantern 0x1101 1 data w)
  set z := irqEdge 206 (audit 0x0007 0xFFFF 0 0 data (lantern 0x1101 1 data w)) with hz
  have hchange : changeRole new cause s = if s.pair.ringEn = true then
      unsolicited s.pair.ring.toNat bPAIR stOK (s.pair.cseq.toNat % 2 ^ 48 + new.toNat * 2 ^ 48 + cause * 2 ^ 56) z else z := rfl
  have hturned : ∃ v q b r i, z = turned (roleRegs new s.pair) v q b r i s.hif s := by
    rw [hz, ha, hl, hq]
    exact ⟨_, _, _, _, _, rfl⟩
  have hsource : (srcGet z 206).pend = true := congrArg IrqSrc.pend (srcGet_srcPut _ 206 _)
  have hlantern : InLantern 0x1101 s z := by
    refine inLantern_lantern (sev := 1) (data := data) (u := w) (by rw [hq]; rfl) ?_
    exact audit_queue ..
  have hcnt (k : Nat) : cntOf z bPAIR k = cntOf s bPAIR k := by
    refine (audit_cntOf (by decide) ..).trans ((lantern_cntOf (by decide) ..).trans ?_)
    rw [hq]
    rfl
  obtain ⟨v, q, b, r, i, hv⟩ := hturned
  rw [hchange]
  split_ifs with hring
  · set e := s.pair.cseq.toNat % 2 ^ 48 + new.toNat * 2 ^ 48 + cause * 2 ^ 56
    refine ⟨v, q, b, r, i, (unsolicited s.pair.ring.toNat bPAIR stOK e z).hif, by rw [hv]; rfl,
      (congrArg (fun u : State => u.hif.rings) hv :), ⟨hsource, hlantern, fun _ => ?_⟩, hcnt⟩
    exact ⟨_, List.mem_append_right _ (List.mem_singleton_self _), rfl, rfl, rfl, rfl⟩
  · exact ⟨v, q, b, r, i, s.hif, hv, rfl, ⟨hsource, hlantern, fun h => absurd h hring⟩, hcnt⟩

end Sys2Proof.Proofs
end

section
/-! PROOFS. The changes of role at the start of a frame, case by case (R434 to R439, R445). -/

namespace Sys2Proof.Proofs

open Sys2Proof.Machine Sys2Proof.Laws

/-! ### What a unit stops or starts with its role (R415, R436) -/

/-- The state with other CAN registers, M-Bus masters and sources. -/
def stopped (c : CanlRegs) (m : MbusRegs) (i : IrqRegs) (s : State) : State := { s with canl := c, mbus := m, irq := i }

theorem keepFv_foldl (l : List (Nat × StnTmpl)) (s : State) : ∃ c, l.foldl (fun s kv => keepFv s kv.1) s = { s with canl := c } := by
  induction l generalizing s with
  | nil => exact ⟨s.canl, rfl⟩
  | cons kv l ih =>
    obtain ⟨c, hc⟩ : ∃ c, keepFv s kv.1 = { s with canl := c } := by
      unfold keepFv
      dsimp only
      split_ifs
      · exact ⟨_, rfl⟩
      · exact ⟨s.canl, rfl⟩
    obtain ⟨c', hc'⟩ := ih { s with canl := c }
    exact ⟨c', by rw [List.foldl_cons, hc, hc']⟩

theorem joinBack_dropJoin (j : JoinRec) (s : State) : ∃ c, joinBack j (dropJoin j s) = { s with canl := c } := by
  unfold joinBack
  dsimp only
  split_ifs
  · exact ⟨_, rfl⟩
  · exact ⟨_, rfl⟩

/-- Ending the joins changes CANL and raises source 201. -/
theorem dropJoins_frame (s : State) : ∃ c i, dropJoins s = { s with canl := c, irq := i } ∧
    srcGet { s with canl := c, irq := i } 206 = srcGet s 206 := by
  have hfold (l : List JoinRec) (u : State) : ∃ c i, l.foldl (fun s j => irqEdge 201 (joinBack j (dropJoin j s))) u = { u with canl := c, irq := i } ∧
      srcGet { u with canl := c, irq := i } 206 = srcGet u 206 := by
    induction l generalizing u with
    | nil => exact ⟨u.canl, u.irq, rfl, rfl⟩
    | cons j l ih =>
      obtain ⟨c, hc⟩ := joinBack_dropJoin j u
      obtain ⟨c', i', hfold, hsrc⟩ := ih (irqEdge 201 { u with canl := c })
      refine ⟨c', i', ?_, ?_⟩
      · rw [List.foldl_cons, hc, hfold]
        rfl
      · exact hsrc.trans (srcGet_srcPut_ne { u with canl := c } _ (by decide))
  obtain ⟨c, i, hjoins, hsrc⟩ := hfold s.canl.joins s
  exact ⟨{ c with accepts := [] }, i, by unfold dropJoins; rw [hjoins], hsrc⟩

theorem demoted_frame (s : State) : ∃ c m i, demoted s = stopped c m i s ∧ srcGet (stopped c m i s) 206 = srcGet s 206 := by
  obtain ⟨c, hc⟩ := keepFv_foldl s.canl.tmpl s
  obtain ⟨c', i, hdrop, hsrc⟩ := dropJoins_frame (idleMasters (cancelTx { s with canl := c }))
  exact ⟨c', _, i, by unfold demoted; rw [hc, hdrop]; rfl, hsrc⟩

/-- The session of a station as a promoted unit goes on with it. -/
def raised (e : Sess) (v : Station) : Sess := { e with fvTx := v.carTx + 4096, fvRx := if e.fvRx.toNat < v.carRx.toNat then v.carRx else e.fvRx }

theorem raised_kind (e : Sess) (v : Station) : (raised e v).kind = e.kind := by rw [raised]

theorem raised_raised (e : Sess) (v : Station) : raised (raised e v) v = raised e v := by
  have hlow : ¬(if e.fvRx.toNat < v.carRx.toNat then v.carRx else e.fvRx).toNat < v.carRx.toNat := by
    split_ifs <;> omega
  unfold raised
  dsimp only
  rw [if_neg hlow]

theorem raised_fvRx (e : Sess) (v : Station) : (raised e v).fvRx.toNat = max e.fvRx.toNat v.carRx.toNat := by
  unfold raised
  dsimp only
  split_ifs <;> omega

theorem stnGet_stnPut (s : State) (k : Nat) (v : Station) : stnGet (stnPut s k v) k = v := tblGet_tblPut_same ..

theorem stnGet_stnPut_ne (s : State) {k j : Nat} (v : Station) (h : j ≠ k) : stnGet (stnPut s k v) j = stnGet s j := tblGet_tblPut_ne _ _ _ h

/-- The state with other stations and sessions. -/
def withStations (y : Tbl Station) (x : Tbl Sess) (s : State) : State := { withSess x s with canl := { s.canl with stn := y } }

/-- One station is taken over: it keeps its carried FVs, and its session goes on above them. -/
theorem promoteSeal_spec (s : State) (i : Nat) : ∃ y x, promoteSeal s i = withStations y x s ∧
    (∀ k, (stnGet (promoteSeal s i) k).carTx = (stnGet s k).carTx ∧ (stnGet (promoteSeal s i) k).carRx = (stnGet s k).carRx) ∧
    ∀ k, sessGet (promoteSeal s i) k = if k = i ∧ (sessGet s k).kind = 1 then raised (sessGet s k) (stnGet s k) else sessGet s k := by
  set s1 := stnPut s i { stnGet s i with exs := [] } with hs1
  have hbody : promoteSeal s i = if (sessGet s i).kind = 1 then sessPut s1 i (raised (sessGet s i) (stnGet s i)) else s1 := rfl
  have hcarried (k : Nat) : (stnGet s1 k).carTx = (stnGet s k).carTx ∧ (stnGet s1 k).carRx = (stnGet s k).carRx := by
    by_cases hk : k = i
    · rw [hk, hs1, stnGet_stnPut]
      exact ⟨rfl, rfl⟩
    · rw [hs1, stnGet_stnPut_ne _ _ hk]
      exact ⟨rfl, rfl⟩
  rw [hbody]
  split_ifs with hkind
  · refine ⟨_, _, rfl, hcarried, fun k => ?_⟩
    by_cases hk : k = i
    · subst hk
      rw [sessGet_sessPut, if_pos ⟨rfl, hkind⟩]
    · rw [sessGet_sessPut_ne _ _ hk, if_neg (fun h : k = i ∧ _ => hk h.1)]
      rfl
  · refine ⟨_, s.sec.sess, rfl, hcarried, fun k => ?_⟩
    rw [if_neg (fun h : k = i ∧ (sessGet s k).kind = 1 => hkind (h.1 ▸ h.2))]
    rfl

theorem promoteSeal_foldl (l : List (Nat × StnTmpl)) (s : State) : ∃ y x, l.foldl (fun s kv => promoteSeal s kv.1) s = withStations y x s ∧
    ∀ k, (sessGet s k).kind = 1 → k ∈ l.map (·.1) →
      sessGet (l.foldl (fun s kv => promoteSeal s kv.1) s) k = raised (sessGet s k) (stnGet s k) := by
  have hall (u : State) : ∃ y x, l.foldl (fun s kv => promoteSeal s kv.1) u = withStations y x u ∧
      ∀ k, (sessGet u k).kind = 1 → sessGet (l.foldl (fun s kv => promoteSeal s kv.1) u) k =
        if k ∈ l.map (·.1) then raised (sessGet u k) (stnGet u k) else sessGet u k := by
    induction l generalizing u with
    | nil => exact ⟨u.canl.stn, u.sec.sess, rfl, fun _ _ => rfl⟩
    | cons kv l ih =>
      obtain ⟨y, x, hframe, hcarried, hsess⟩ := promoteSeal_spec u kv.1
      obtain ⟨y', x', hframe', hsess'⟩ := ih (promoteSeal u kv.1)
      refine ⟨y', x', ?_, fun k hk => ?_⟩
      · rw [List.foldl_cons, hframe']
        rw [hframe]
        rfl
      · have hraised (e : Sess) : raised e (stnGet (promoteSeal u kv.1) k) = raised e (stnGet u k) := by
          unfold raised
          rw [(hcarried k).1, (hcarried k).2]
        by_cases hown : k = kv.1
        · have hone : sessGet (promoteSeal u kv.1) k = raised (sessGet u k) (stnGet u k) := (hsess k).trans (if_pos ⟨hown, hk⟩)
          have hkind : (sessGet (promoteSeal u kv.1) k).kind = 1 := by rw [hone, raised_kind, hk]
          rw [List.foldl_cons, hsess' k hkind, hraised, hone, raised_raised, ite_self]
          exact (if_pos (List.mem_cons.mpr (.inl hown))).symm
        · have hone : sessGet (promoteSeal u kv.1) k = sessGet u k := (hsess k).trans (if_neg fun h => hown h.1)
          have hkind : (sessGet (promoteSeal u kv.1) k).kind = 1 := by rw [hone, hk]
          rw [List.foldl_cons, hsess' k hkind, hraised, hone]
          exact if_congr (by simp [hown]) rfl rfl
  obtain ⟨y, x, hframe, hsess⟩ := hall s
  exact ⟨y, x, hframe, fun k hk hl => (hsess k hk).trans (if_pos hl)⟩

theorem tblGet_map_snd {α β : Type} (f : α → β) (d : α) (e : β) (h : f d = e) (t : Tbl α) (n : Nat) :
    tblGet (t.map fun kv => (kv.1, f kv.2)) n e = f (tblGet t n d) := by
  induction t with
  | nil => exact h.symm
  | cons kv t ih =>
    rw [List.map_cons, tblGet, tblGet]
    split_ifs
    · rfl
    · exact ih

theorem clearTx_tx (s : State) (n : Nat) : (chGet (clearTx s) n).tx = [] :=
  (congrArg CanChan.tx (tblGet_map_snd (fun c : CanChan => { c with tx := [] }) ({} : CanChan) ({} : CanChan) rfl s.canl.ch n) :)

/-- The state as a promoted unit takes over the field. -/
def taken (c : CanlRegs) (a : AxisRegs) (m : MbusRegs) (x : Tbl Sess) (s : State) : State := { withSess x s with canl := c, axis := a, mbus := m }

theorem promoted_spec (s : State) : ∃ c a m x, promoted s = taken c a m x s ∧ (∀ n, (chGet (promoted s) n).tx = []) ∧
    ∀ k, (sessGet s k).kind = 1 → k ∈ s.canl.tmpl.map (·.1) → sessGet (promoted s) k = raised (sessGet s k) (stnGet s k) := by
  obtain ⟨y, x, hframe, hsess⟩ := promoteSeal_foldl s.canl.tmpl s
  set u := s.canl.tmpl.foldl (fun s kv => promoteSeal s kv.1) s
  have hbody : promoted s = idleMasters (axesTake (clearTx u)) := rfl
  refine ⟨(promoted s).canl, (promoted s).axis, (promoted s).mbus, x, ?_, fun n => clearTx_tx u n, fun k hk hl => hsess k hk hl⟩
  rw [hbody, hframe]
  rfl

/-! ### The changes of role (R434 to R439) -/

/-- After a change of role: what it tells is told, and PAIR has the new role. -/
structure Changed (new cause : Nat) (s t : State) : Prop where
  role : t.pair.role.toNat = new
  told : RoleTold new cause s t

/-- PAIR's registers as a standby or fenced unit becomes ACTIVE. -/
def activeRegs (p : PairRegs) (x : Tbl Bytes) : PairRegs :=
  { p with ple := 0, pleOk := false, ackReady := false, partnerCopying := false, snap := x }

section Roles

variable (s : State)

theorem fenced_spec : let t := count bPAIR 6 (demoted (changeRole rFENCED 1 s))
    Changed 3 1 s t ∧ cntOf t bPAIR 6 = satInc (cntOf s bPAIR 6) ∧ t.pair.mode = s.pair.mode := by
  intro t
  obtain ⟨v, q, b, r, i, h, hframe, -, htold, hcnt⟩ := changeRole_turns rFENCED 1 s
  obtain ⟨c, m, j, hdemoted, hsrc⟩ := demoted_frame (changeRole rFENCED 1 s)
  have ht : t = count bPAIR 6 (stopped c m j (changeRole rFENCED 1 s)) := congrArg (count bPAIR 6) hdemoted
  have hpair : t.pair = roleRegs rFENCED s.pair := by
    rw [ht]
    exact (congrArg State.pair hframe :)
  refine ⟨⟨by rw [hpair]; rfl, htold.of_kept ?_ ?_ ?_⟩, ?_, by rw [hpair]; rfl⟩
  · rw [ht]
    exact hsrc
  · rw [ht]
    rfl
  · rw [ht]
    exact fun _ hx => hx
  · have hcounted : cntOf t bPAIR 6 = satInc (cntOf (changeRole rFENCED 1 s) bPAIR 6) := by
      rw [ht]
      exact (counted_count ..).trans (if_pos ⟨rfl, rfl⟩)
    rw [hcounted, hcnt]

theorem swappedOut_spec : Changed 2 3 s (swappedOut s) ∧ (swappedOut s).pair.tlock = true ∧ (swappedOut s).pair.copied = true := by
  obtain ⟨v, q, b, r, i, h, hframe, -, htold, -⟩ := changeRole_turns rSTANDBY 3 s
  set u : State := { changeRole rSTANDBY 3 s with pair := { (changeRole rSTANDBY 3 s).pair with
    copied := true, copyDone := true, tlock := true, tlockRun := 16, applied := some s.pair.cseq, appliedAct := s.sched.actId,
    cutParts := [], cutEnds := [], streamIn := [], ple := 0, pleOk := false } } with hu
  obtain ⟨c, m, j, hdemoted, hsrc⟩ := demoted_frame u
  have ht : swappedOut s = stopped c m j u := hdemoted
  have hrole : u.pair.role = rSTANDBY := (congrArg (fun u : State => u.pair.role) hframe :)
  rw [ht]
  refine ⟨⟨congrArg BitVec.toNat hrole, htold.of_kept hsrc rfl fun _ hx => hx⟩, rfl, rfl⟩

theorem standbyActive_spec (cause : Nat) (x : State → Tbl Bytes) : let u := promoted (changeRole rACTIVE cause s)
    let t : State := { u with pair := activeRegs u.pair (x u) }
    Changed 1 cause s t ∧ (∀ n, (chGet t n).tx = []) ∧
      ∀ k, (sessGet s k).kind = 1 → k ∈ s.canl.tmpl.map (·.1) → sessGet t k = raised (sessGet s k) (stnGet s k) := by
  intro u t
  obtain ⟨v, q, b, r, i, h, hframe, -, htold, -⟩ := changeRole_turns rACTIVE cause s
  obtain ⟨c, a, m, y, htaken, htx, hsess⟩ := promoted_spec (changeRole rACTIVE cause s)
  have hrole : u.pair.role = rACTIVE := by
    rw [show u = _ from htaken]
    exact (congrArg (fun u : State => u.pair.role) hframe :)
  have hsec : (changeRole rACTIVE cause s).sec = s.sec := (congrArg State.sec hframe :)
  have hcanl : (changeRole rACTIVE cause s).canl = s.canl := (congrArg State.canl hframe :)
  refine ⟨⟨congrArg BitVec.toNat hrole, htold.of_kept ?_ ?_ ?_⟩, htx, fun k hk hl => ?_⟩
  · show srcGet u 206 = _
    rw [show u = _ from htaken]
    rfl
  · show u.recs.queue = _
    rw [show u = _ from htaken]
    rfl
  · show ∀ x ∈ _, x ∈ u.hif.waiting
    rw [show u = _ from htaken]
    exact fun _ hx => hx
  · have hown := hsess k
    unfold sessGet stnGet at hown
    rw [hsec, hcanl] at hown
    exact hown hk hl

theorem fencedActive_spec (cause : Nat) (x : State → Tbl Bytes) : let u := idleMasters (clearTx (changeRole rACTIVE cause s))
    Changed 1 cause s { u with pair := activeRegs u.pair (x u) } := by
  intro u
  obtain ⟨v, q, b, r, i, h, hframe, -, htold, -⟩ := changeRole_turns rACTIVE cause s
  have hrole : u.pair.role = rACTIVE := (congrArg (fun u : State => u.pair.role) hframe :)
  exact ⟨congrArg BitVec.toNat hrole, htold.of_kept rfl rfl fun _ hx => hx⟩

theorem modeGranted_spec {d : HostDesc} {n : W64} (hreq : s.pair.modeReq = [(d, n)]) (hd : d ∈ (ringGet s d.ring).started) :
    let t := modeGranted s
    Changed 1 (actCause s.pair.grant) s t ∧ t.pair.mode = true ∧ t.pair.modeReq = [] ∧ Answered d stOK 0 t := by
  intro t
  obtain ⟨v, q, b, r, i, h, hframe, hrings, htold, -⟩ := changeRole_turns rACTIVE (actCause s.pair.grant) s
  set w := changeRole rACTIVE (actCause s.pair.grant) s
  set u : State := { w with pair := { w.pair with mode := true, modeReq := [] } }
  have ht : t = complete d stOK 0 u := by
    have hbody : t = finAll s.pair.modeReq stOK u := rfl
    rw [hbody, hreq]
    rfl
  have hpair : t.pair = u.pair := by
    rw [ht]
    exact (congrArg State.pair (complete_frame d stOK 0 u) :)
  have hrole : u.pair.role = rACTIVE := (congrArg (fun u : State => u.pair.role) hframe :)
  have hstarted : d ∈ (ringGet u d.ring).started := by
    have hhif : u.hif.rings = s.hif.rings := by
      rw [← hrings]
      exact (congrArg (fun u : State => u.hif.rings) hframe :)
    unfold ringGet
    rw [hhif]
    exact hd
  refine ⟨⟨by rw [hpair, hrole]; rfl, htold.of_kept ?_ ?_ ?_⟩, by rw [hpair], by rw [hpair], ?_⟩
  · have hirq : t.irq = u.irq := by
      rw [ht]
      exact (congrArg State.irq (complete_frame d stOK 0 u) :)
    unfold srcGet
    rw [hirq]
  · rw [ht]
    exact complete_queue ..
  · rw [ht, complete_hif, if_pos hstarted]
    exact fun _ hx => List.mem_append_left _ hx
  · rw [ht]
    exact answered_complete stOK 0 hstarted

end Roles

end Sys2Proof.Proofs
end

section
/-! PROOFS. MINOR_FRAME_START for PAIR: which role a unit has in the frame (R434 to R439, R445). -/

namespace Sys2Proof.Proofs

open Sys2Proof.Machine Sys2Proof.Laws

/-- `u` is `s` in the frame that has begun, before PAIR acts. -/
def Begun (s u : State) : Prop := ∃ m c b p f, u = begun m c b p f s ∧ ∀ k, cntOf u bPAIR k = cntOf s bPAIR k

theorem Changed.mirrored {role cause : Nat} {s r t : State} (h : Changed role cause s r) (hm : Mirrored r t) : Changed role cause s t := by
  have hrecs : t.recs = r.recs := hm.beside State.recs fun _ _ _ _ => rfl
  have hhif : t.hif = r.hif := hm.beside State.hif fun _ _ _ _ => rfl
  have hirq : t.irq = r.irq := hm.beside State.irq fun _ _ _ _ => rfl
  refine ⟨(congrArg BitVec.toNat (hm.pair PairRegs.role fun _ => rfl)).trans h.role, h.told.of_kept ?_ (by rw [hrecs]) (by rw [hhif]; exact fun _ hx => hx)⟩
  rw [srcGet, srcGet, hirq]

section FrameStart

variable {hot : Bool} {s : State} (hen : enOf s bSCHED = true) (him : s.sched.image.isSome = true) (hrun : s.sched.run = true)
include hen him hrun

/-- A frame start at which PAIR's role changes. -/
theorem gives_roleChanged {role cause : Nat} {P : State → Prop} (h : ∀ u, Begun s u → Changed role cause u (roleChange u) ∧
    ∀ t, Mirrored (roleChange u) t → P t) : Gives (.minorFrameStart hot) s (fun t => t.pair.role.toNat = role ∧
      (srcGet t 206).pend = true ∧ InLantern 0x1101 s t ∧ RolePosted role cause s t ∧ P t) := by
  refine gives_minorFrame hen him hrun fun m c b p f t hcnt hm => ?_
  obtain ⟨hchanged, hP⟩ := h _ ⟨m, c, b, p, f, rfl, hcnt⟩
  obtain ⟨hrole, hsource, hlantern, hposted⟩ := hchanged.mirrored hm
  exact ⟨hrole, hsource, hlantern, hposted, hP t hm⟩

/-- A frame start at which it does not. -/
theorem gives_roleKept (h : ∀ u, Begun s u → roleChange u = u) : Gives (.minorFrameStart hot) s (fun t => t.pair.role = s.pair.role ∧
    ∀ k, cntOf t bPAIR k = cntOf s bPAIR k) := by
  refine gives_minorFrame hen him hrun fun m c b p f t hcnt hm => ?_
  rw [h _ ⟨m, c, b, p, f, rfl, hcnt⟩] at hm
  refine ⟨hm.pair PairRegs.role fun _ => rfl, fun k => ?_⟩
  exact (cntOf_congr (hm.beside State.blk fun _ _ _ _ => rfl) bPAIR k).trans (hcnt k)

end FrameStart

/-! ### The leases (R433) -/

/-- The witness lease covers the frame that follows. -/
def LeaseNext (s : State) : Prop := s.pair.grant.s.toNat ≤ (s.sched.mfn + 1).toNat ∧ (s.sched.mfn + 1).toNat < s.pair.grant.e.toNat

/-- The partner lease does. -/
def PartnerNext (s : State) : Prop := s.pair.pleOk = true ∧ (s.sched.mfn + 1).toNat < s.pair.ple.toNat

/-- A standby is eligible in the frame that follows (R430). -/
def ReadyNext (s : State) : Prop := s.pair.copied = true ∧ s.pair.tlock = true ∧ s.sched.actId = s.pair.appliedAct ∧ frozenM s 22 = false ∧
  s.sec.noSecret = false ∧ s.sec.snuffed = false ∧ ∃ a, s.pair.applied = some a ∧ (s.sched.mfn + 1).toNat ≤ a.toNat + s.pair.eligage.toNat

/-- What a promotion waits for besides: the final cut of a swap, or the end of the partner lease. -/
def FreeNext (s : State) : Prop := if s.pair.grant.act = 2 then s.pair.finalApplied = true else s.pair.ple.toNat ≤ (s.sched.mfn + 1).toNat

section Conditions

variable {s u : State} (hu : Begun s u)
include hu

theorem Begun.pair : u.pair = s.pair := by
  obtain ⟨m, c, b, p, f, rfl, -⟩ := hu
  rfl

theorem Begun.wlHeld : wlHeld u = true ↔ LeaseNext s := by
  obtain ⟨m, c, b, p, f, rfl, -⟩ := hu
  unfold Machine.wlHeld LeaseNext
  rw [Bool.and_eq_true, decide_eq_true_eq, decide_eq_true_eq]
  rfl

theorem Begun.plHeld (hrole : s.pair.role = 1) : plHeld u = true ↔ PartnerNext s := by
  obtain ⟨m, c, b, p, f, rfl, -⟩ := hu
  unfold Machine.plHeld PartnerNext
  rw [Bool.and_eq_true, Bool.and_eq_true, beq_iff_eq, decide_eq_true_eq]
  exact ⟨fun h => ⟨h.1.2, h.2⟩, fun h => ⟨⟨hrole, h.1⟩, h.2⟩⟩

theorem Begun.eligible (hrole : s.pair.role = 2) : eligible u = true ↔ ReadyNext s := by
  obtain ⟨m, c, b, p, f, rfl, -⟩ := hu
  have happlied : (match s.pair.applied with
      | some a => decide ((s.sched.mfn + 1).toNat ≤ a.toNat + s.pair.eligage.toNat)
      | none => false : Bool) = true ↔ ∃ a, s.pair.applied = some a ∧ (s.sched.mfn + 1).toNat ≤ a.toNat + s.pair.eligage.toNat := by
    cases s.pair.applied with
    | none => simp
    | some a => simp
  have hbody : Machine.eligible (begun m c b p f s) = (s.pair.role == rSTANDBY && s.pair.copied && s.pair.tlock &&
      s.sched.actId == s.pair.appliedAct && !frozenM s 22 && !s.sec.noSecret && !s.sec.snuffed && (match s.pair.applied with
      | some a => decide ((s.sched.mfn + 1).toNat ≤ a.toNat + s.pair.eligage.toNat)
      | none => false : Bool)) := rfl
  rw [hbody]
  simp only [Bool.and_eq_true, happlied, beq_iff_eq, Bool.not_eq_true', and_assoc]
  exact ⟨fun h => h.2, fun h => ⟨hrole, h⟩⟩

theorem Begun.free : (if u.pair.grant.act = 2 then u.pair.finalApplied else decide (u.pair.ple.toNat ≤ u.sched.mfn.toNat)) = true ↔ FreeNext s := by
  obtain ⟨m, c, b, p, f, rfl, -⟩ := hu
  have hbody : (if s.pair.grant.act = 2 then s.pair.finalApplied else decide (s.pair.ple.toNat ≤ (s.sched.mfn + 1).toNat)) = true ↔ FreeNext s := by
    unfold FreeNext
    split_ifs
    · exact Iff.rfl
    · exact decide_eq_true_iff
  exact hbody

end Conditions

/-! ### The role in the frame (R434) -/

section RoleCases

variable {u : State}

theorem roleChange_solo (hmode : u.pair.mode = false) :
    roleChange u = if u.pair.modeReq ≠ [] ∧ wlHeld u = true then modeGranted u else u := by
  unfold roleChange
  dsimp only
  rw [if_pos (by rw [hmode]; rfl)]
  exact if_congr (by simp) rfl rfl

theorem roleChange_active (hmode : u.pair.mode = true) (hrole : u.pair.role = 1) : roleChange u =
    if u.pair.finalCut = true then swappedOut u else if (wlHeld u || plHeld u) = true then u
      else count bPAIR 6 (demoted (changeRole rFENCED 1 u)) := by
  unfold roleChange
  dsimp only
  rw [if_neg (by rw [hmode]; decide), if_pos (show u.pair.role = rACTIVE from hrole)]

/-- A standby that becomes ACTIVE. -/
def standbyActive (u : State) : State :=
  let t := promoted (changeRole rACTIVE (actCause u.pair.grant) u)
  { t with pair := activeRegs t.pair (snapOf t) }

/-- A fenced unit that becomes ACTIVE. -/
def fencedActive (u : State) : State :=
  let t := idleMasters (clearTx (changeRole rACTIVE (actCause u.pair.grant) u))
  { t with pair := activeRegs t.pair (snapOf t) }

theorem roleChange_standby (hmode : u.pair.mode = true) (hrole : u.pair.role = 2) : roleChange u =
    if (eligible u && wlHeld u && (if u.pair.grant.act = 2 then u.pair.finalApplied else decide (u.pair.ple.toNat ≤ u.sched.mfn.toNat))) = true
    then standbyActive u else u := by
  unfold roleChange
  dsimp only
  rw [if_neg (by rw [hmode]; decide), if_neg (show ¬u.pair.role = rACTIVE by rw [hrole]; decide),
    if_pos (show u.pair.role = rSTANDBY from hrole)]
  rfl

theorem roleChange_fenced (hmode : u.pair.mode = true) (hrole : u.pair.role = 3) (halone : u.pair.pseen = false) : roleChange u =
    if wlHeld u = true then fencedActive u else u := by
  have hstays : mayJoin u = false := by
    unfold mayJoin
    rw [halone, Bool.and_false, Bool.false_and, Bool.false_and]
  unfold roleChange
  dsimp only
  rw [if_neg (by rw [hmode]; decide), if_neg (show ¬u.pair.role = rACTIVE by rw [hrole]; decide),
    if_neg (show ¬u.pair.role = rSTANDBY by rw [hrole]; decide), if_pos (show u.pair.role = rFENCED from hrole), halone, hstays,
    if_neg Bool.false_ne_true, Bool.not_false, Bool.true_and]
  rfl

end RoleCases

theorem drives_iff {s : State} : drives s = true ↔ s.pair.role.toNat < 2 := decide_eq_true_iff

theorem not_drives {s : State} : drives s = false ↔ 2 ≤ s.pair.role.toNat := by
  rw [drives, decide_eq_false_iff_not, Nat.not_lt]

section Frames

variable {hot : Bool} {s : State} (hen : enOf s bSCHED = true) (him : s.sched.image.isSome = true) (hrun : s.sched.run = true)
include hen him hrun

theorem frame_active (hmode : s.pair.mode = true) (hrole : s.pair.role = 1) (hfinal : s.pair.finalCut = false) :
    (LeaseNext s ∨ PartnerNext s → Gives (.minorFrameStart hot) s (fun t => t.pair.role = s.pair.role ∧
      ∀ k, cntOf t bPAIR k = cntOf s bPAIR k)) ∧
    (¬LeaseNext s → ¬PartnerNext s → Gives (.minorFrameStart hot) s (fun t => t.pair.role.toNat = 3 ∧ (srcGet t 206).pend = true ∧
      InLantern 0x1101 s t ∧ RolePosted 3 1 s t ∧ cntOf t bPAIR 6 = satInc (cntOf s bPAIR 6) ∧ drives t = false)) := by
  have hrow {u : State} (hu : Begun s u) : roleChange u =
      if (wlHeld u || plHeld u) = true then u else count bPAIR 6 (demoted (changeRole rFENCED 1 u)) := by
    have hp := hu.pair
    rw [roleChange_active (by rw [hp, hmode]) (by rw [hp, hrole]), if_neg (by rw [hp, hfinal]; exact Bool.false_ne_true)]
  refine ⟨fun hlease => gives_roleKept hen him hrun fun u hu => ?_, fun hwl hpl => gives_roleChanged hen him hrun fun u hu => ?_⟩
  · rw [hrow hu]
    refine if_pos ?_
    rw [Bool.or_eq_true, hu.wlHeld, hu.plHeld hrole]
    exact hlease
  · have hnone : ¬(wlHeld u || plHeld u) = true := by
      rw [Bool.or_eq_true, hu.wlHeld, hu.plHeld hrole]
      exact not_or.mpr ⟨hwl, hpl⟩
    obtain ⟨hchanged, hcnt, -⟩ := fenced_spec u
    rw [hrow hu, if_neg hnone]
    refine ⟨hchanged, fun t hm => ⟨?_, not_drives.mpr ?_⟩⟩
    · obtain ⟨_, _, _, _, _, -, hkept⟩ := hu
      exact (cntOf_congr (hm.beside State.blk fun _ _ _ _ => rfl) bPAIR 6).trans (hcnt.trans (congrArg satInc (hkept 6)))
    · rw [(hchanged.mirrored hm).role]
      decide

theorem frame_swapped (hmode : s.pair.mode = true) (hrole : s.pair.role = 1) (hfinal : s.pair.finalCut = true) :
    Gives (.minorFrameStart hot) s (fun t => t.pair.role.toNat = 2 ∧ (srcGet t 206).pend = true ∧ InLantern 0x1101 s t ∧ RolePosted 2 3 s t ∧
      t.pair.tlock = true ∧ t.pair.copied = true ∧ drives t = false) := by
  refine gives_roleChanged hen him hrun fun u hu => ?_
  have hp := hu.pair
  obtain ⟨hchanged, hlock, hcopied⟩ := swappedOut_spec u
  rw [roleChange_active (by rw [hp, hmode]) (by rw [hp, hrole]), if_pos (by rw [hp, hfinal])]
  refine ⟨hchanged, fun t hm => ⟨?_, ?_, not_drives.mpr ?_⟩⟩
  · exact (hm.pair PairRegs.tlock fun _ => rfl).trans hlock
  · exact (hm.pair PairRegs.copied fun _ => rfl).trans hcopied
  · rw [(hchanged.mirrored hm).role]

theorem frame_standby (hmode : s.pair.mode = true) (hrole : s.pair.role = 2) :
    (ReadyNext s → LeaseNext s → FreeNext s → Gives (.minorFrameStart hot) s (fun t => t.pair.role.toNat = 1 ∧ (srcGet t 206).pend = true ∧
      InLantern 0x1101 s t ∧ RolePosted 1 (actCause s.pair.grant) s t ∧ drives t = true ∧ (∀ n, (chGet t n).tx = []) ∧
      ∀ k ∈ s.canl.tmpl.map (·.1), (sessGet s k).kind = 1 → (sessGet t k).fvTx = (stnGet s k).carTx + 4096 ∧
        (sessGet t k).fvRx.toNat = max (sessGet s k).fvRx.toNat (stnGet s k).carRx.toNat)) ∧
    (¬(ReadyNext s ∧ LeaseNext s ∧ FreeNext s) → Gives (.minorFrameStart hot) s (fun t => t.pair.role = s.pair.role ∧
      ∀ k, cntOf t bPAIR k = cntOf s bPAIR k)) := by
  have hrow {u : State} (hu : Begun s u) := roleChange_standby (u := u) (by rw [hu.pair, hmode]) (by rw [hu.pair, hrole])
  have hgate {u : State} (hu : Begun s u) : (eligible u && wlHeld u && (if u.pair.grant.act = 2 then u.pair.finalApplied
      else decide (u.pair.ple.toNat ≤ u.sched.mfn.toNat))) = true ↔ ReadyNext s ∧ LeaseNext s ∧ FreeNext s := by
    rw [Bool.and_eq_true, Bool.and_eq_true, hu.eligible hrole, hu.wlHeld, hu.free, and_assoc]
  refine ⟨fun hready hlease hfree => gives_roleChanged hen him hrun fun u hu => ?_, fun hnot => gives_roleKept hen him hrun fun u hu => ?_⟩
  · obtain ⟨hchanged, htx, hsess⟩ := standbyActive_spec u (actCause u.pair.grant) snapOf
    rw [hrow hu, if_pos ((hgate hu).mpr ⟨hready, hlease, hfree⟩)]
    have hcause : actCause u.pair.grant = actCause s.pair.grant := by rw [hu.pair]
    rw [← hcause]
    refine ⟨hchanged, fun t hm => ⟨drives_iff.mpr ?_, fun n => ?_, fun k hk hkind => ?_⟩⟩
    · rw [(hchanged.mirrored hm).role]
      decide
    · have hcanl : t.canl = (standbyActive u).canl := hm.beside State.canl fun _ _ _ _ => rfl
      unfold chGet
      rw [hcanl]
      exact htx n
    · obtain ⟨m, c, b, p, f, rfl, -⟩ := hu
      have hraised : sessGet (standbyActive (begun m c b p f s)) k = raised (sessGet s k) (stnGet s k) := hsess k hkind hk
      rw [hm.session (by rw [hraised, raised_kind, hkind]), hraised]
      exact ⟨by rw [raised], raised_fvRx _ _⟩
  · rw [hrow hu, if_neg (mt (hgate hu).mp hnot)]

theorem frame_fenced (hmode : s.pair.mode = true) (hrole : s.pair.role = 3) (halone : s.pair.pseen = false) :
    (LeaseNext s → Gives (.minorFrameStart hot) s (fun t => t.pair.role.toNat = 1 ∧ (srcGet t 206).pend = true ∧
      InLantern 0x1101 s t ∧ RolePosted 1 (actCause s.pair.grant) s t ∧ drives t = true)) ∧
    (¬LeaseNext s → Gives (.minorFrameStart hot) s (fun t => t.pair.role = s.pair.role ∧ ∀ k, cntOf t bPAIR k = cntOf s bPAIR k)) := by
  have hrow {u : State} (hu : Begun s u) :=
    roleChange_fenced (u := u) (by rw [hu.pair, hmode]) (by rw [hu.pair, hrole]) (by rw [hu.pair, halone])
  refine ⟨fun hlease => gives_roleChanged hen him hrun fun u hu => ?_, fun hnot => gives_roleKept hen him hrun fun u hu => ?_⟩
  · have hchanged := fencedActive_spec u (actCause u.pair.grant) snapOf
    have hcause : actCause u.pair.grant = actCause s.pair.grant := by rw [hu.pair]
    rw [hrow hu, if_pos (hu.wlHeld.mpr hlease), ← hcause]
    refine ⟨hchanged, fun t hm => drives_iff.mpr ?_⟩
    rw [(hchanged.mirrored hm).role]
    decide
  · rw [hrow hu, if_neg (mt hu.wlHeld.mp hnot)]

theorem frame_solo (hmode : s.pair.mode = false) :
    (s.pair.modeReq = [] ∨ ¬LeaseNext s → Gives (.minorFrameStart hot) s (fun t => t.pair.role = s.pair.role ∧
      ∀ k, cntOf t bPAIR k = cntOf s bPAIR k)) ∧
    ∀ d n, s.pair.modeReq = [(d, n)] → LeaseNext s → d ∈ (ringGet s d.ring).started → Gives (.minorFrameStart hot) s (fun t =>
      t.pair.role.toNat = 1 ∧ (srcGet t 206).pend = true ∧ InLantern 0x1101 s t ∧ RolePosted 1 (actCause s.pair.grant) s t ∧
      t.pair.mode = true ∧ t.pair.modeReq = [] ∧ Answered d stOK 0 t) := by
  have hrow {u : State} (hu : Begun s u) := roleChange_solo (u := u) (by rw [hu.pair, hmode])
  refine ⟨fun hnot => gives_roleKept hen him hrun fun u hu => ?_, fun d n hreq hlease hd => gives_roleChanged hen him hrun fun u hu => ?_⟩
  · rw [hrow hu, hu.pair]
    exact if_neg fun h => hnot.elim h.1 fun hl => hl (hu.wlHeld.mp h.2)
  · have hdue : u.pair.modeReq ≠ [] ∧ wlHeld u = true := by
      rw [hu.wlHeld, hu.pair, hreq]
      exact ⟨List.cons_ne_nil _ _, hlease⟩
    have hstarted : d ∈ (ringGet u d.ring).started := by
      obtain ⟨_, _, _, _, _, rfl, -⟩ := hu
      exact hd
    have hcause : actCause u.pair.grant = actCause s.pair.grant := by rw [hu.pair]
    obtain ⟨hchanged, hgranted, hnone, hanswered⟩ := modeGranted_spec u (by rw [hu.pair, hreq]) hstarted
    rw [hrow hu, if_pos hdue, ← hcause]
    refine ⟨hchanged, fun t hm => ⟨?_, ?_, ?_⟩⟩
    · exact (hm.pair PairRegs.mode fun _ => rfl).trans hgranted
    · exact (hm.pair PairRegs.modeReq fun _ => rfl).trans hnone
    · exact answered_of_hif hanswered (hm.beside State.hif fun _ _ _ _ => rfl)

end Frames

end Sys2Proof.Proofs
end

section
/-! PROOFS. Lines of the tracked state: they are put and summed without PAIR's registers and the counters (R422, R428). -/

namespace Sys2Proof.Proofs

open Sys2Proof.Machine Sys2Proof.Laws

/-- The state with other registers of PAIR and other common registers. -/
def withSide (p : PairRegs) (k : Tbl Blk) (s : State) : State := { s with pair := p, blk := k }

theorem withSide_self (s : State) : withSide s.pair s.blk s = s := rfl

theorem foldl_comm {α : Type} {f : State → α → State} {g : State → State} (h : ∀ s a, f (g s) a = g (f s a)) (l : List α) (s : State) :
    l.foldl f (g s) = g (l.foldl f s) := by
  induction l generalizing s with
  | nil => rfl
  | cons a l ih => rw [List.foldl_cons, List.foldl_cons, h, ih]

section Put

variable (p : PairRegs) (k : Tbl Blk) (l : Nat) (b : Bytes) (s : State)

theorem put1_withSide : put1 l b (withSide p k s) = withSide p k (put1 l b s) := by
  unfold put1
  exact foldl_comm (g := withSide p k) (fun _ _ => rfl) _ s

theorem put3_withSide : put3 l b (withSide p k s) = withSide p k (put3 l b s) := by
  unfold put3
  dsimp only
  split_ifs <;> rfl

theorem put4_withSide : put4 l b (withSide p k s) = withSide p k (put4 l b s) := by
  unfold put4
  dsimp only
  split <;> rfl

theorem put5_withSide : put5 l b (withSide p k s) = withSide p k (put5 l b s) := by
  unfold put5 putAx
  dsimp only
  split_ifs <;> rfl

theorem put6_withSide : put6 l b (withSide p k s) = withSide p k (put6 l b s) := by
  unfold put6
  dsimp only
  have hsess : sessGet (withSide p k s) l = sessGet s l := rfl
  have hstn : stnGet (withSide p k s) l = stnGet s l := rfl
  have htmpl : tmplOf (withSide p k s) l = tmplOf s l := rfl
  rw [hsess, hstn, htmpl]
  split_ifs <;> rfl

theorem put8_withSide : put8 l b (withSide p k s) = withSide p k (put8 l b s) := by
  unfold put8
  dsimp only
  have hslot (j : Nat) : slotLines (withSide p k s) j = slotLines s j := rfl
  rw [hslot]
  split
  · rfl
  · split <;> rfl

theorem put9_withSide : put9 l b (withSide p k s) = withSide p k (put9 l b s) := by
  unfold put9
  split_ifs
  · rfl
  · exact foldl_comm (g := withSide p k) (fun _ _ => rfl) _ s

theorem putLine_withSide (r : Nat) : putLine r l b (withSide p k s) = withSide p k (putLine r l b s) := by
  unfold putLine
  split
  · exact put1_withSide ..
  · rfl
  · exact put3_withSide ..
  · exact put4_withSide ..
  · exact put5_withSide ..
  · exact put6_withSide ..
  · rfl
  · exact put8_withSide ..
  · exact put9_withSide ..
  · rfl

theorem applyRecords_withSide : applyRecords b (withSide p k s) = withSide p k (applyRecords b s) :=
  foldl_comm (g := withSide p k) (fun u _ => putLine_withSide p k _ _ u _) _ s

end Put

/-- The lines of a cut are put beside PAIR's registers and the counters. -/
theorem applyLines_withSide (e : CutEnd) {p : PairRegs} (k : Tbl Blk) {s : State} (hp : p.cutParts = s.pair.cutParts) :
    applyLines e (withSide p k s) = withSide p k (applyLines e s) := by
  have hparts : cutParts (withSide p k s) e = cutParts s e := congrArg (List.filter fun x : CutPart => x.cseq == e.cseq) hp
  unfold applyLines
  rw [hparts]
  exact foldl_comm (g := withSide p k) (fun u x => applyRecords_withSide p k x.data u) _ s

theorem applyLines_side (e : CutEnd) (s : State) : (applyLines e s).pair = s.pair ∧ (applyLines e s).blk = s.blk := by
  have h := applyLines_withSide e s.blk (p := s.pair) (s := s) rfl
  rw [withSide_self] at h
  exact ⟨(congrArg State.pair h :), (congrArg State.blk h :)⟩

/-! ### LSUM (R428) -/

section Sum

variable {p : PairRegs} {s : State} (hp : p.role = s.pair.role) (k : Tbl Blk)

theorem trackedLines_withSide : trackedLines (withSide p k s) = trackedLines s := by
  have hslot (j : Nat) : slotLines (withSide p k s) j = slotLines s j := rfl
  unfold trackedLines
  simp only [hslot]

include hp

theorem line6_withSide (l : Nat) : line6 (withSide p k s) l = line6 s l := by
  have hdrives : drives (withSide p k s) = drives s := congrArg (fun r : BitVec 2 => decide (r.toNat < 2)) hp
  have hfv : stnFv (withSide p k s) l = stnFv s l := by
    unfold stnFv
    rw [hdrives]
    rfl
  unfold line6
  rw [hfv]
  rfl

theorem lineOf_withSide (r l : Nat) : lineOf (withSide p k s) r l = lineOf s r l := by
  unfold lineOf
  split
  · rfl
  · rfl
  · rfl
  · rfl
  · rfl
  · exact line6_withSide hp k l
  · rfl
  · rfl
  · rfl

theorem lsumOf_withSide : lsumOf (withSide p k s) = lsumOf s := by
  have hcrc (x : Nat × Nat) : lineCrc (withSide p k s) x = lineCrc s x := by
    unfold lineCrc
    rw [lineOf_withSide hp k]
  unfold lsumOf
  simp only [trackedLines_withSide, hcrc]

end Sum

end Sys2Proof.Proofs
end

section
/-! PROOFS. The cut slot: the cut that an ACTIVE unit sends, and the one that a STANDBY unit applies (R422 to R430, R439). -/

namespace Sys2Proof.Proofs

open Sys2Proof.Machine Sys2Proof.Laws

/-! ### The cut of an ACTIVE unit (R423, R425) -/

/-- `t` is `s` after frames that left under the keys in use, or under those of a rekeying. -/
def Sent (s t : State) : Prop := Mirrored s t ∧ t.pair.sendNext = s.pair.sendNext

theorem Sent.refl (s : State) : Sent s s := ⟨.refl s, rfl⟩

theorem Sent.trans {s t u : State} (h : Sent s t) (h' : Sent t u) : Sent s u := ⟨h.1.trans h'.1, h'.2.trans h.2⟩

theorem mirSend_sends (lane kind : Nat) (cseq : W64) (off item : Nat) (payload : Bytes) (s : State) :
    Sent s (mirSend lane kind cseq off item payload s) := by
  refine ⟨mirSend_mirrored .., ?_⟩
  have hlane (o : Out) (u : State) : (emit o (laneSent lane (poolNote 7 lane true u))).pair.sendNext = u.pair.sendNext := by
    obtain ⟨x, hx⟩ := poolNote_frame 7 lane true u
    rw [hx]
    rfl
  unfold mirSend
  dsimp only
  split
  · rfl
  · split_ifs
    · rfl
    · exact hlane _ _
    · exact hlane _ _

theorem mirBoth_sends (kind : Nat) (cseq : W64) (off : Nat) (payload : Bytes) (s : State) : Sent s (mirBoth kind cseq off payload s) :=
  (mirSend_sends 0 kind cseq off 0 payload s).trans (mirSend_sends 1 kind cseq off 0 payload _)

theorem foldl_sends {α : Type} {f : State → α → State} (h : ∀ s a, Sent s (f s a)) (l : List α) (s : State) : Sent s (l.foldl f s) := by
  induction l generalizing s with
  | nil => exact .refl s
  | cons a l ih => exact (h s a).trans (ih _)

/-- What a frame needs to leave under the keys in use. -/
structure Sends (k : MirKeys) (s : State) : Prop where
  pairOn : pairOn s = true
  snuffed : s.sec.snuffed = false
  next : s.pair.sendNext = false
  keys : s.pair.keys = some k

theorem Sends.sent {k : MirKeys} {s t : State} (h : Sends k s) (hst : Sent s t) : Sends k t := by
  obtain ⟨hm, hnext⟩ := hst
  refine ⟨?_, ?_, hnext.trans h.next, (hm.pair PairRegs.keys fun _ => rfl).trans h.keys⟩
  · have hblk : enOf t bPAIR = enOf s bPAIR := hm.beside (fun u => enOf u bPAIR) fun _ _ _ _ => rfl
    have hmode : t.pair.mode = s.pair.mode := hm.pair PairRegs.mode fun _ => rfl
    have hon := h.pairOn
    unfold Machine.pairOn at hon ⊢
    rw [hmode, hblk]
    exact hon
  · exact (hm.beside (fun u => u.sec.snuffed) fun _ _ _ _ => rfl).trans h.snuffed

theorem mirSend_leaves {k : MirKeys} {s : State} (h : Sends k s) (lane kind : Nat) (cseq : W64) (off item : Nat) (payload : Bytes) :
    ∃ b, (mirSend lane kind cseq off item payload s).out = .mirror lane b :: s.out ∧ u8 b 2 = kind % 256 ∧ u64 b 16 = cseq.toNat := by
  obtain ⟨x, b, hframe, -, hkind, hcseq, -⟩ := mirSend_sent h.pairOn h.snuffed h.next h.keys lane kind cseq off item payload
  exact ⟨b, by rw [hframe]; rfl, hkind, hcseq⟩

/-- A frame on both lanes has left on each. -/
theorem mirBoth_leaves {k : MirKeys} {s : State} (h : Sends k s) (kind : Nat) (cseq : W64) (off : Nat) (payload : Bytes) {lane : Nat}
    (hlane : lane < 2) : ∃ b, Out.mirror lane b ∈ (mirBoth kind cseq off payload s).out ∧ u8 b 2 = kind % 256 ∧ u64 b 16 = cseq.toNat := by
  obtain ⟨b, hfirst, hkind, hcseq⟩ := mirSend_leaves h 0 kind cseq off 0 payload
  obtain ⟨b', hsecond, hkind', hcseq'⟩ := mirSend_leaves (h.sent (mirSend_sends 0 kind cseq off 0 payload s)) 1 kind cseq off 0 payload
  unfold mirBoth
  rw [hsecond, hfirst]
  match lane, hlane with
  | 0, _ => exact ⟨b, List.mem_cons_of_mem _ List.mem_cons_self, hkind, hcseq⟩
  | 1, _ => exact ⟨b', List.mem_cons_self, hkind', hcseq'⟩

/-- PAIR's registers without what a cut queues for the stream. -/
def besideQueue (p : PairRegs) : PairRegs := { p with itemSent := [], streamOut := [], copyNext := none }

/-- `t` is `s` with other items in the stream's queue. -/
def StreamQueued (s t : State) : Prop := ∃ p, t = { s with pair := p } ∧ besideQueue p = besideQueue s.pair

theorem StreamQueued.refl (s : State) : StreamQueued s s := ⟨s.pair, rfl, rfl⟩

theorem StreamQueued.trans {s t u : State} (h : StreamQueued s t) (h' : StreamQueued t u) : StreamQueued s u := by
  obtain ⟨p, rfl, hp⟩ := h
  obtain ⟨q, rfl, hq⟩ := h'
  exact ⟨q, rfl, hq.trans hp⟩

theorem StreamQueued.pair {s t : State} (h : StreamQueued s t) {α : Type} (f : PairRegs → α) (hf : ∀ p, f (besideQueue p) = f p) : f t.pair = f s.pair := by
  obtain ⟨p, rfl, hp⟩ := h
  exact (hf p).symm.trans ((congrArg f hp).trans (hf s.pair))

theorem StreamQueued.beside {s t : State} (h : StreamQueued s t) :
    t.sched = s.sched ∧ t.pimg = s.pimg ∧ t.cell = s.cell ∧ t.blk = s.blk ∧ t.out = s.out := by
  obtain ⟨p, rfl, -⟩ := h
  exact ⟨rfl, rfl, rfl, rfl, rfl⟩

theorem StreamQueued.ite {s t u : State} (c : Prop) [Decidable c] (ht : StreamQueued s t) (hu : StreamQueued s u) :
    StreamQueued s (if c then t else u) := by
  split_ifs
  · exact ht
  · exact hu

theorem itemsDue_queued (all : Bool) (s : State) : StreamQueued s (itemsDue all s) := by
  have hfold (f : State → Nat → State) (hf : ∀ u i, StreamQueued u (f u i)) (l : List Nat) (u : State) : StreamQueued u (l.foldl f u) := by
    induction l generalizing u with
    | nil => exact .refl u
    | cons i l ih => exact (hf u i).trans (ih _)
  refine hfold _ (fun u i => ?_) _ s
  exact .ite _ (.refl u) ⟨_, rfl, rfl⟩

theorem copyChunk_queued (s : State) : StreamQueued s (copyChunk s) := by
  unfold copyChunk
  split
  · exact .refl s
  · dsimp only
    split_ifs
    · exact StreamQueued.trans ⟨_, rfl, rfl⟩ (itemsDue_queued true _)
    · exact ⟨_, rfl, rfl⟩

/-- A cut of `size` lines is noted. -/
def cutSized (size : Nat) (mfn : W64) (old : Nat) (s : State) : State :=
  { (freeWord s).2 with pair := { (freeWord s).2.pair with
    cseq := mfn, cutLines := BitVec.ofNat 16 size, cutMax := BitVec.ofNat 16 (max old size),
    preStat := BitVec.ofNat 11 ((freeWord s).1.toNat % 1025) } }

/-- A cut that is too large is counted besides. -/
def cutNoted (size : Nat) (mfn : W64) (old : Nat) (s : State) : State :=
  countIf (decide (7168 < size)) bPAIR 3 (cutSized size mfn old s)

theorem cutNoted_spec (size : Nat) (mfn : W64) (old : Nat) (s : State) : let t := cutNoted size mfn old s
    t.pair.cseq = mfn ∧ t.pair.cutLines = BitVec.ofNat 16 size ∧ t.pair.finalCut = s.pair.finalCut ∧ t.pair.grant = s.pair.grant ∧
      t.sched = s.sched ∧ t.pimg = s.pimg ∧ t.cell = s.cell ∧ t.out = s.out ∧
      ∀ i, cntOf t bPAIR i = if i = 3 ∧ 7168 < size then satInc (cntOf s bPAIR 3) else cntOf s bPAIR i := by
  intro t
  have hcnt (i : Nat) : cntOf t bPAIR i = if i = 3 ∧ 7168 < size then satInc (cntOf s bPAIR 3) else cntOf s bPAIR i := by
    refine (cntOf_countIf ..).trans ?_
    exact if_congr (by rw [decide_eq_true_eq, and_comm]) rfl rfl
  obtain ⟨b, hb⟩ : ∃ b, t = { cutSized size mfn old s with blk := b } := countIf_frame ..
  have hfields : t.pair.cseq = mfn ∧ t.pair.cutLines = BitVec.ofNat 16 size ∧ t.pair.finalCut = s.pair.finalCut ∧ t.pair.grant = s.pair.grant ∧
      t.sched = s.sched ∧ t.pimg = s.pimg ∧ t.cell = s.cell ∧ t.out = s.out := by
    rw [hb]
    exact ⟨rfl, rfl, rfl, rfl, rfl, rfl, rfl, rfl⟩
  obtain ⟨hcseq, hcut, hfinal, hgrant, hsched, hpimg, hcell, hout⟩ := hfields
  exact ⟨hcseq, hcut, hfinal, hgrant, hsched, hpimg, hcell, hout, hcnt⟩

/-- The cut of a frame: its lines leave, then its end. -/
theorem cutSend_eq (s : State) : ∃ u payload, cutSend s = cutNoted (dirtyLines s.pair.snap s).length s.sched.mfn s.pair.cutMax.toNat
    (mirBoth kCUTEND s.sched.mfn 0 payload u) ∧ Sent s u := by
  unfold cutSend
  exact ⟨_, _, rfl, foldl_sends (fun _ _ => mirBoth_sends ..) _ s⟩

/-- What a cut notes, what it counts, and its last frame on each lane. -/
theorem cutSend_spec {k : MirKeys} {s : State} (h : Sends k s) : let t := cutSend s
    let n := (dirtyLines s.pair.snap s).length
    t.pair.cseq = s.sched.mfn ∧ t.pair.cutLines = BitVec.ofNat 16 n ∧ t.pair.finalCut = s.pair.finalCut ∧ t.pair.grant = s.pair.grant ∧
      t.sched = s.sched ∧ t.pimg = s.pimg ∧ t.cell = s.cell ∧
      (∀ i, cntOf t bPAIR i = if i = 3 ∧ 7168 < n then satInc (cntOf s bPAIR 3) else cntOf s bPAIR i) ∧
      ∀ lane, lane < 2 → ∃ b, Out.mirror lane b ∈ t.out ∧ u8 b 2 = 2 ∧ u64 b 16 = s.sched.mfn.toNat := by
  obtain ⟨u, payload, heq, hlines⟩ := cutSend_eq s
  obtain ⟨hm, -⟩ := hlines.trans (mirBoth_sends kCUTEND s.sched.mfn 0 payload u)
  have hends := fun lane (hl : lane < 2) => mirBoth_leaves (h.sent hlines) kCUTEND s.sched.mfn 0 payload hl
  generalize mirBoth kCUTEND s.sched.mfn 0 payload u = v at *
  obtain ⟨hcseq, hcut, hfinal, hgrant, hsched, hpimg, hcell, hout, hcnt⟩ := cutNoted_spec (dirtyLines s.pair.snap s).length s.sched.mfn
    s.pair.cutMax.toNat v
  rw [heq]
  refine ⟨hcseq, hcut, hfinal.trans (hm.pair PairRegs.finalCut fun _ => rfl), hgrant.trans (hm.pair PairRegs.grant fun _ => rfl),
    hsched.trans (hm.beside State.sched fun _ _ _ _ => rfl), hpimg.trans (hm.beside State.pimg fun _ _ _ _ => rfl),
    hcell.trans (hm.beside State.cell fun _ _ _ _ => rfl), fun i => ?_, fun lane hl => ?_⟩
  · have hkept (j : Nat) : cntOf v bPAIR j = cntOf s bPAIR j := cntOf_congr (hm.beside State.blk fun _ _ _ _ => rfl) bPAIR j
    rw [hcnt, hkept, hkept]
  · rw [hout]
    exact hends lane hl

/-- The end of an ACTIVE unit's cut slot: its lines are kept, and the final cut of a swap stops it (R439). -/
def cutClosed (s : State) : State := finalStop { s with pair := { s.pair with snap := snapOf s } }

/-- The final cut stops the runs of SOLV and the step of PARC, and nothing else. -/
theorem finalStop_spec (s : State) : ∃ p v q, finalStop s = { s with pair := p, solv := v, parc := q } ∧ p.cseq = s.pair.cseq ∧
    p.cutLines = s.pair.cutLines ∧ (p.finalCut = true ↔ s.pair.finalCut = true ∨ (s.pair.grant.act = 2 ∧ s.pair.grant.e = s.sched.mfn + 1)) := by
  have hfinal : isFinal s = true ↔ s.pair.grant.act = 2 ∧ s.pair.grant.e = s.sched.mfn + 1 := by
    unfold isFinal
    rw [Bool.and_eq_true, beq_iff_eq, beq_iff_eq]
  unfold finalStop
  by_cases h : isFinal s = true
  · obtain ⟨q, hq⟩ := parcInterrupt_frame (cutRuns 4 s)
    rw [if_pos h, hq]
    exact ⟨_, _, _, rfl, rfl, rfl, fun _ => .inr (hfinal.mp h), fun _ => rfl⟩
  · rw [if_neg h]
    exact ⟨s.pair, s.solv, s.parc, rfl, rfl, rfl, .inl, fun hor => hor.elim id fun hf => absurd (hfinal.mpr hf) h⟩

theorem cutClosed_spec (s : State) : let t := cutClosed s
    t.pair.cseq = s.pair.cseq ∧ t.pair.cutLines = s.pair.cutLines ∧ t.pimg = s.pimg ∧ t.cell = s.cell ∧ t.blk = s.blk ∧ t.out = s.out ∧
      (t.pair.finalCut = true ↔ s.pair.finalCut = true ∨ (s.pair.grant.act = 2 ∧ s.pair.grant.e = s.sched.mfn + 1)) := by
  intro t
  obtain ⟨p, v, q, hstop, hcseq, hlines, hfinal⟩ := finalStop_spec { s with pair := { s.pair with snap := snapOf s } }
  rw [show t = _ from hstop]
  exact ⟨hcseq, hlines, rfl, rfl, rfl, rfl, hfinal⟩

section CutSlot

variable {s : State} (hrun : s.sched.run = true) (hf : frozenM s 22 = false) (hon : pairOn s = true)
include hrun hf hon

theorem cutSlot_exec : exec .cutSlot s = .next (if s.pair.role = rACTIVE then activeCut s else if s.pair.role = rSTANDBY then standbyCut s else s) := by
  have hopen : ¬((!s.sched.run) = true ∨ frozenM s 22 = true ∨ (!pairOn s) = true) := by
    rw [hrun, hf, hon]
    decide
  exact congrArg Host.Outcome.next (if_neg hopen)

theorem cutSlot_active {k : MirKeys} (hrole : s.pair.role = 1) (hkeys : s.pair.keys = some k) (hnext : s.pair.sendNext = false)
    (hs : s.sec.snuffed = false) : Gives .cutSlot s (fun t => t.pair.cseq = s.sched.mfn ∧ t.pair.cutLines = BitVec.ofNat 16 (dirtyLines s.pair.snap s).length ∧
      t.pimg = s.pimg ∧ t.cell = s.cell ∧
      (∀ i, cntOf t bPAIR i = if i = 3 ∧ 7168 < (dirtyLines s.pair.snap s).length then satInc (cntOf s bPAIR 3) else cntOf s bPAIR i) ∧
      (t.pair.finalCut = true ↔ s.pair.finalCut = true ∨ (s.pair.grant.act = 2 ∧ s.pair.grant.e = s.sched.mfn + 1)) ∧
      ∀ lane, lane < 2 → ∃ b, Out.mirror lane b ∈ t.out ∧ u8 b 2 = 2 ∧ u64 b 16 = s.sched.mfn.toNat) := by
  obtain ⟨hcseq, hlines, hfinal, hgrant, hsched, hpimg, hcell, hcnt, hout⟩ := cutSend_spec ⟨hon, hs, hnext, hkeys⟩
  have hq : StreamQueued (cutSend s) (copyChunk (itemsDue false (cutSend s))) := (itemsDue_queued ..).trans (copyChunk_queued _)
  have hbody : activeCut s = cutClosed (copyChunk (itemsDue false (cutSend s))) := by
    unfold activeCut
    rw [if_pos (by rw [hkeys]; rfl)]
    rfl
  have hexec : exec .cutSlot s = .next (cutClosed (copyChunk (itemsDue false (cutSend s)))) :=
    (cutSlot_exec hrun hf hon).trans (congrArg _ ((if_pos hrole).trans hbody))
  generalize copyChunk (itemsDue false (cutSend s)) = w at *
  generalize cutSend s = v at *
  obtain ⟨hqsched, hqpimg, hqcell, hqblk, hqout⟩ := hq.beside
  obtain ⟨htcseq, htlines, htpimg, htcell, htblk, htout, htfinal⟩ := cutClosed_spec w
  refine ⟨_, hexec, ?_, ?_, htpimg.trans (hqpimg.trans hpimg), htcell.trans (hqcell.trans hcell), fun i => ?_, ?_, fun lane hl => ?_⟩
  · exact htcseq.trans ((hq.pair PairRegs.cseq fun _ => rfl).trans hcseq)
  · exact htlines.trans ((hq.pair PairRegs.cutLines fun _ => rfl).trans hlines)
  · exact (cntOf_congr (htblk.trans hqblk) bPAIR i).trans (hcnt i)
  · rw [htfinal, (hq.pair PairRegs.finalCut fun _ => rfl).trans hfinal, (hq.pair PairRegs.grant fun _ => rfl).trans hgrant,
      hqsched.trans hsched]
  · obtain ⟨b, hb, hfields⟩ := hout lane hl
    refine ⟨b, ?_, hfields⟩
    rw [htout, hqout]
    exact hb

theorem cutSlot_fenced (hrole : s.pair.role = 3) : Gives .cutSlot s (fun t => t = s) := by
  refine ⟨s, ?_, rfl⟩
  rw [cutSlot_exec hrun hf hon, hrole]
  rfl

end CutSlot

end Sys2Proof.Proofs
end

section
/-! PROOFS. The cut that a STANDBY unit applies (R427, R428, R430, R442). -/

namespace Sys2Proof.Proofs

open Sys2Proof.Machine Sys2Proof.Laws

/-- The ACK moves what sending moves, and PLE. -/
theorem ackSend_frame (e : CutEnd) (s : State) : ∃ p x o f, ackSend e s = sending p x o f s ∧ p.applied = s.pair.applied ∧
    p.cutEnds = s.pair.cutEnds ∧ p.copied = s.pair.copied := by
  have hboth (l : W64) (b : Bytes) : ∃ p x o f, mirBoth kACK e.cseq 0 b { s with pair := { s.pair with ple := l } } = sending p x o f s ∧
      p.applied = s.pair.applied ∧ p.cutEnds = s.pair.cutEnds ∧ p.copied = s.pair.copied := by
    have hm := mirBoth_mirrored kACK e.cseq 0 b { s with pair := { s.pair with ple := l } }
    have happlied := hm.pair PairRegs.applied fun _ => rfl
    have hends := hm.pair PairRegs.cutEnds fun _ => rfl
    have hcopied := hm.pair PairRegs.copied fun _ => rfl
    obtain ⟨p, x, o, f, heq, -, -⟩ := hm
    rw [heq] at happlied hends hcopied ⊢
    exact ⟨p, x, o, f, rfl, happlied, hends, hcopied⟩
  unfold ackSend
  dsimp only
  split_ifs
  · exact hboth _ _
  · exact hboth s.pair.ple _

theorem installItems_none {s : State} (h : s.pair.streamIn = []) (n : W64) : installItems n s = s := by
  unfold installItems
  rw [h]
  rfl

/-- PAIR's registers once a cut has been applied and is done with. -/
def cutDone (e : CutEnd) (p : PairRegs) : PairRegs :=
  { p with
    applied := some e.cseq, appliedAct := e.actid, cseq := e.cseq, cutLines := BitVec.ofNat 16 e.nlines,
    cutMax := BitVec.ofNat 16 (max p.cutMax.toNat e.nlines), finalApplied := p.finalApplied || e.final,
    cutEnds := p.cutEnds.filter fun x => decide (e.cseq.toNat < x.cseq.toNat),
    cutParts := p.cutParts.filter fun x => decide (e.cseq.toNat < x.cseq.toNat) }

/-- The state once the lines of a cut are put. -/
def linesPut (old : Nat) (e : CutEnd) (s : State) : State :=
  let u := applyLines e (installItems e.cseq s)
  dropCut e { u with pair := { u.pair with
    applied := some e.cseq, appliedAct := e.actid, cseq := e.cseq, cutLines := BitVec.ofNat 16 e.nlines,
    cutMax := BitVec.ofNat 16 (max old e.nlines), finalApplied := u.pair.finalApplied || e.final } }

theorem linesPut_withSide (e : CutEnd) {p : PairRegs} (k : Tbl Blk) {s : State} (hparts : p.cutParts = s.pair.cutParts) (hstream : p.streamIn = []) :
    linesPut p.cutMax.toNat e (withSide p k s) = withSide (cutDone e p) k (applyLines e s) := by
  unfold linesPut
  rw [installItems_none (s := withSide p k s) hstream, applyLines_withSide e k hparts]
  rfl

/-- What follows the lines of a cut: an ACK, or a full copy where LSUM differs. -/
def cutChecked (e : CutEnd) (s : State) : State :=
  if !copyWhole s then ackSend e s
  else if lsumOf s = e.lsum then ackSend e { s with pair := { s.pair with copied := true } }
  else enterCopying (count bPAIR 4 s)

/-- PAIR's registers as the cut finds them. -/
def cutFound (e : CutEnd) (p : PairRegs) : PairRegs := { p with swMismatch := p.swMismatch && decide (e.cseq.toNat < p.swFrom.toNat) }

/-- A cut that does not follow the last one applied. -/
def cutGap (e : CutEnd) (s : State) : Bool := match s.pair.applied with | some a => decide (e.cseq.toNat ≠ a.toNat + 1) | none => false

theorem applyCut_eq {e : CutEnd} {s : State} (hact : e.actid = s.sched.actId) (hov : e.overflow = false) :
    applyCut s e = cutChecked e (linesPut s.pair.cutMax.toNat e
      (if cutGap e s = true then enterCopying (count bPAIR 2 (withSide (cutFound e s.pair) s.blk s)) else withSide (cutFound e s.pair) s.blk s)) := by
  unfold applyCut
  rw [if_neg (not_not_intro hact), hov]
  rfl

/-- A standby between cuts, with one complete cut that is due. -/
structure CutDue (e : CutEnd) (s : State) : Prop where
  ends : s.pair.cutEnds = [e]
  complete : cutComplete s e = true
  old : e.arr.toNat + 18 ≤ s.time.tbc.toNat
  act : e.actid = s.sched.actId
  overflow : e.overflow = false
  swb : e.swb = 0
  pend : s.sched.switchPend = false
  stream : s.pair.streamIn = []

section Standby

variable {e : CutEnd} {s : State} (h : CutDue e s)
include h

theorem CutDue.switchCompare : switchCompare s = s := by
  have hown : swbOf s = (0, 0) := if_neg (ne_true_of_eq_false h.pend)
  unfold Machine.switchCompare
  rw [h.ends, List.getLast?_singleton, hown]
  exact if_neg fun hboth => hboth.1.elim (fun hb => hb.1 h.swb) fun hb => hb.1 rfl

theorem CutDue.standbyCut : standbyCut s = applyCut s e := by
  have hdue : (decide (e.arr.toNat + 18 ≤ s.time.tbc.toNat) && cutComplete s e) = true := by
    rw [decide_eq_true h.old, h.complete]
    rfl
  have hfilter : [e].filter (fun e => decide (e.arr.toNat + 18 ≤ s.time.tbc.toNat) && cutComplete s e) = [e] := List.filter_cons_of_pos hdue
  unfold Machine.standbyCut
  dsimp only
  rw [h.switchCompare, h.ends, hfilter, List.mergeSort_singleton]
  rfl

variable {a : W64} (happlied : s.pair.applied = some a)
include happlied

theorem CutDue.follows (hseq : e.cseq.toNat = a.toNat + 1) :
    applyCut s e = cutChecked e (withSide (cutDone e (cutFound e s.pair)) s.blk (applyLines e s)) := by
  have hgap : cutGap e s = false := by
    unfold cutGap
    rw [happlied]
    exact decide_eq_false (not_not_intro hseq)
  rw [applyCut_eq h.act h.overflow, hgap, if_neg Bool.false_ne_true]
  exact congrArg (cutChecked e) (linesPut_withSide (p := cutFound e s.pair) e s.blk rfl h.stream)

/-- PAIR's registers as a gap leaves them. -/
def gapFound (e : CutEnd) (p : PairRegs) : PairRegs := { cutFound e p with copied := false, copyDone := false, items := [], copyLines := 0 }

theorem CutDue.gap (hseq : e.cseq.toNat ≠ a.toNat + 1) :
    applyCut s e = cutChecked e (withSide (cutDone e (gapFound e s.pair)) (count bPAIR 2 s).blk (applyLines e s)) := by
  have hgap : cutGap e s = true := by
    unfold cutGap
    rw [happlied]
    exact decide_eq_true hseq
  rw [applyCut_eq h.act h.overflow, hgap, if_pos rfl]
  exact congrArg (cutChecked e) (linesPut_withSide (p := gapFound e s.pair) e (count bPAIR 2 s).blk rfl h.stream)

end Standby

/-- The cut ends of a standby with one are used up. -/
theorem cutDone_ends {e : CutEnd} {p : PairRegs} (h : p.cutEnds = [e]) : (cutDone e p).cutEnds = [] := by
  have hold : ¬decide (e.cseq.toNat < e.cseq.toNat) = true := by simp
  have hbody : (cutDone e p).cutEnds = p.cutEnds.filter fun x => decide (e.cseq.toNat < x.cseq.toNat) := rfl
  rw [hbody, h]
  exact List.filter_cons_of_neg hold

/-- The lines of a cut leave the copy whole, and LSUM does not look at PAIR's registers but for the role. -/
theorem cutPut_checks (e : CutEnd) {s : State} (p : PairRegs) (k : Tbl Blk) (hp : p.role = s.pair.role) :
    copyWhole (withSide p k (applyLines e s)) = (p.copyDone && [1, 2, 3, 4, 5].all fun i => p.items.contains i) ∧
      lsumOf (withSide p k (applyLines e s)) = lsumOf (applyLines e s) :=
  ⟨rfl, lsumOf_withSide (hp.trans (congrArg PairRegs.role (applyLines_side e s).1).symm) k⟩

section StandbySlot

variable {e : CutEnd} {s : State} {a : W64} (hrun : s.sched.run = true) (hf : frozenM s 22 = false) (hon : pairOn s = true)
  (hrole : s.pair.role = 2) (h : CutDue e s)
include hrun hf hon hrole h

theorem cutSlot_standby : exec .cutSlot s = .next (applyCut s e) := by
  rw [cutSlot_exec hrun hf hon, if_neg (show ¬s.pair.role = rACTIVE by rw [hrole]; decide), if_pos (show s.pair.role = rSTANDBY from hrole),
    h.standbyCut]

theorem cutSlot_applies (happlied : s.pair.applied = some a) (hwhole : copyWhole s = true) (hseq : e.cseq.toNat = a.toNat + 1) : let u := applyLines e s
    (lsumOf u = e.lsum → Gives .cutSlot s (fun t => t.pair.applied = some e.cseq ∧ t.pair.cutEnds = [] ∧ t.pair.copied = true ∧
      t.pimg = u.pimg ∧ t.cell = u.cell ∧ t.blk = u.blk)) ∧
    (lsumOf u ≠ e.lsum → Gives .cutSlot s (fun t => t.pair.applied = some e.cseq ∧ t.pair.copied = false ∧ t.pimg = u.pimg ∧
      cntOf t bPAIR 4 = satInc (cntOf s bPAIR 4))) := by
  intro u
  have hexec := (cutSlot_standby hrun hf hon hrole h).trans (congrArg Host.Outcome.next (h.follows happlied hseq))
  set p := cutDone e (cutFound e s.pair)
  obtain ⟨hcopy, hsum⟩ := cutPut_checks e (s := s) p s.blk rfl
  have hwhole' : ¬(!copyWhole (withSide p s.blk u)) = true := by
    rw [hcopy]
    exact fun hn => absurd (hwhole.symm.trans ((Bool.not_eq_true' _).mp hn)) (by decide)
  have hblk : u.blk = s.blk := (applyLines_side e s).2
  have hends : p.cutEnds = [] := cutDone_ends (p := cutFound e s.pair) h.ends
  refine ⟨fun hequal => ?_, fun hdiffer => ?_⟩
  · have hchecked : cutChecked e (withSide p s.blk u) = ackSend e (withSide { p with copied := true } s.blk u) :=
      (if_neg hwhole').trans (if_pos (hsum.trans hequal))
    obtain ⟨q, x, o, f, hack, hqapplied, hqends, hqcopied⟩ := ackSend_frame e (withSide { p with copied := true } s.blk u)
    exact ⟨_, hexec.trans (congrArg _ (hchecked.trans hack)), hqapplied, hqends.trans hends, hqcopied, rfl, rfl, hblk.symm⟩
  · have hchecked : cutChecked e (withSide p s.blk u) = enterCopying (count bPAIR 4 (withSide p s.blk u)) :=
      (if_neg hwhole').trans (if_neg fun hequal => hdiffer (hsum.symm.trans hequal))
    refine ⟨_, hexec.trans (congrArg _ hchecked), rfl, rfl, rfl, ?_⟩
    exact (counted_count bPAIR 4 (withSide p s.blk u) bPAIR 4).trans (if_pos ⟨rfl, rfl⟩)

theorem cutSlot_gap (happlied : s.pair.applied = some a) (hseq : e.cseq.toNat ≠ a.toNat + 1) :
    Gives .cutSlot s (fun t => t.pair.copied = false ∧ cntOf t bPAIR 2 = satInc (cntOf s bPAIR 2)) := by
  have hexec := (cutSlot_standby hrun hf hon hrole h).trans (congrArg Host.Outcome.next (h.gap happlied hseq))
  set p := cutDone e (gapFound e s.pair)
  obtain ⟨hcopy, -⟩ := cutPut_checks e (s := s) p (count bPAIR 2 s).blk rfl
  have hchecked : cutChecked e (withSide p (count bPAIR 2 s).blk (applyLines e s)) = ackSend e (withSide p (count bPAIR 2 s).blk (applyLines e s)) :=
    if_pos (by rw [hcopy]; rfl)
  obtain ⟨q, x, o, f, hack, -, -, hcopied⟩ := ackSend_frame e (withSide p (count bPAIR 2 s).blk (applyLines e s))
  refine ⟨_, hexec.trans (congrArg _ (hchecked.trans hack)), hcopied, ?_⟩
  exact (counted_count bPAIR 2 s bPAIR 2).trans (if_pos ⟨rfl, rfl⟩)

end StandbySlot

end Sys2Proof.Proofs
end

section
/-! PROOFS. The descriptors of PAIR and their time-outs, and the reset of a unit that cannot rejoin (R445, R503). -/

namespace Sys2Proof.Proofs

open Sys2Proof.Machine Sys2Proof.Laws

/-! ### Completions -/

/-- The statuses that PAIR counts. -/
def pairCounted : List Nat := [stRANGE, stREFUSED, stNOT_READY, stTIMEOUT]

theorem finPair_refused {d : HostDesc} {s : State} (hd : d ∈ (ringGet s d.ring).started) {st : Nat} (h : st ∈ pairCounted) :
    Answered d st 0 (finPair d st 0 s) ∧ Counted bPAIR 9 s (finPair d st 0 s) ∧ (finPair d st 0 s).pair = s.pair := by
  have hst : st ≠ stOK := fun he => absurd (he ▸ h) (by decide)
  have hframe := complete_refused_frame (d := d) (data := 0) hst (count bPAIR 9 s)
  have heq : finPair d st 0 s = complete d st 0 (count bPAIR 9 s) := finish_listed h ..
  rw [heq]
  exact ⟨answered_complete st 0 (s := count bPAIR 9 s) hd, counted_of_blk (u := s) rfl (congrArg State.blk hframe :),
    (congrArg State.pair hframe :)⟩

theorem finPair_done {d : HostDesc} {s : State} (hd : d ∈ (ringGet s d.ring).started) :
    Answered d stOK 0 (finPair d stOK 0 s) ∧ (finPair d stOK 0 s).pair = s.pair :=
  ⟨answered_complete stOK 0 hd, (congrArg State.pair (complete_frame d stOK 0 s) :)⟩

section Descriptors

variable {d : HostDesc} {s : State}

/-- The state in which PAIR finds a descriptor that has started. -/
def startedFor (g : Tbl Ring) (x : Tbl Sess) (s : State) : State := withSess x (withStarted g s.sec s)

/-- A descriptor of PAIR has its effect in the state in which it has started. -/
theorem gives_pairDesc {i : Instr} {op : Nat} {eff : HostDesc → State → State} {P : State → Prop} (hexec : exec i s = .next (arrive eff d s))
    (hr : Reaches op d s) (h : ∀ g x, d ∈ (ringGet (startedFor g x s) d.ring).started → P (eff d (startedFor g x s))) : Gives i s P := by
  obtain ⟨g, x, hentered, -⟩ := entered_sessions d s
  have hstarted := mem_entered_started d s
  rw [hentered] at hstarted
  exact ⟨_, hexec.trans (congrArg _ (arrive_reaches eff hr)), by rw [hentered]; exact h g x hstarted⟩

/-- What a refused descriptor of PAIR leaves behind. -/
def RefusedByPair (d : HostDesc) (st : Nat) (s t : State) : Prop := Answered d st 0 t ∧ Counted bPAIR 9 s t ∧ t.pair = s.pair

theorem gives_pairRefused {i : Instr} {op : Nat} {eff : HostDesc → State → State} {st : Nat} (hexec : exec i s = .next (arrive eff d s))
    (hr : Reaches op d s) (hst : st ∈ pairCounted) (h : ∀ g x, eff d (startedFor g x s) = finPair d st 0 (startedFor g x s)) :
    Gives i s (RefusedByPair d st s) := by
  refine gives_pairDesc hexec hr fun g x hd => ?_
  rw [h g x]
  exact finPair_refused hd hst

/-! ### PAIR_READ -/

theorem lsumOf_started (g : Tbl Ring) (s : State) : lsumOf (withStarted g s.sec s) = lsumOf s := by
  have hslot (j : Nat) : slotLines (withStarted g s.sec s) j = slotLines s j := rfl
  have hlines : trackedLines (withStarted g s.sec s) = trackedLines s := by
    unfold trackedLines
    simp only [hslot]
  have hline (r l : Nat) : lineOf (withStarted g s.sec s) r l = lineOf s r l := by
    unfold lineOf
    split <;> rfl
  have hcrc (x : Nat × Nat) : lineCrc (withStarted g s.sec s) x = lineCrc s x := by
    unfold lineCrc
    rw [hline]
  unfold lsumOf
  simp only [hlines, hcrc]

theorem pairBytes_started (g : Tbl Ring) (s : State) : pairBytes (withStarted g s.sec s) = pairBytes s := by
  unfold pairBytes
  rw [lsumOf_started]
  rfl

theorem pairRead_gives (hr : Reaches 0x70 d s) :
    (d8 d 16 ≤ 1 → Gives (.pairRead d) s (fun t => Answered d stOK 0 t ∧ t.pair = s.pair ∧ Delivered (dAddr d)
      (if d8 d 16 = 0 then pairBytes s else slice s.pair.lastBugle 0 64 ++ slice s.pair.lastBeat 0 64) s t)) ∧
    (1 < d8 d 16 → Gives (.pairRead d) s (RefusedByPair d stRANGE s)) := by
  refine ⟨fun hw => ?_, fun hw => gives_pairRefused rfl hr (by decide) fun g x => if_pos hw⟩
  refine gives_secPlain rfl hr rfl fun g hd => ?_
  set b := if d8 d 16 = 0 then pairBytes s else slice s.pair.lastBugle 0 64 ++ slice s.pair.lastBeat 0 64 with hb
  have heff : effPairRead d (withStarted g s.sec s) = complete d stOK 0 (toHost (dAddr d) b (withStarted g s.sec s)) := by
    unfold effPairRead
    dsimp only
    rw [pairBytes_started, if_neg (Nat.not_lt.mpr hw)]
    rfl
  obtain ⟨o, w, hhost⟩ := toHost_frame (dAddr d) b (withStarted g s.sec s)
  have hpair : (toHost (dAddr d) b (withStarted g s.sec s)).pair = s.pair := by rw [hhost]; rfl
  have hdelivered := delivered_complete (dAddr d) b d stOK 0 (withStarted g s.sec s)
  rw [heff]
  refine ⟨answered_complete stOK 0 (by rwa [toHost_started]), ?_, hdelivered⟩
  exact (congrArg State.pair (complete_frame d stOK 0 (toHost (dAddr d) b (withStarted g s.sec s))) :).trans hpair

/-! ### PAIR_MODE -/

/-- The sessions of PAIR end, and it takes no part any longer. -/
def modeLeft (u : State) : State := { poolEnd 6 (poolEnd 7 u) with pair := { u.pair with mode := false } }

theorem pairMode_leaves {u : State} (hd : d ∈ (ringGet u d.ring).started) (hw : d8 d 16 = 0) (hpseen : u.pair.pseen = false) :
    let t := effPairMode d u
    Answered d stOK 0 t ∧ t.pair.mode = false ∧ (u.pair.mode = true → t.pair.role = 0) := by
  intro t
  set v := if u.pair.mode = true then changeRole rSOLO 0 u else u with hv
  have ht : t = finPair d stOK 0 (modeLeft v) := by
    unfold t effPairMode
    rw [if_neg (by omega), if_neg (by omega), hpseen, if_neg Bool.false_ne_true]
    rfl
  have hvside : v.hif.rings = u.hif.rings ∧ (u.pair.mode = true → v.pair.role = 0) := by
    rw [hv]
    split_ifs with hmode
    · obtain ⟨x, q, b, r, i, h, hframe, hrings, -⟩ := changeRole_turns rSOLO 0 u
      exact ⟨(congrArg (fun w : State => w.hif.rings) hframe :).trans hrings, fun _ => (congrArg (fun w : State => w.pair.role) hframe :)⟩
    · exact ⟨rfl, fun h => absurd h hmode⟩
  have hstarted : d ∈ (ringGet (modeLeft v) d.ring).started := by
    have hrings : (modeLeft v).hif.rings = u.hif.rings := hvside.1
    unfold ringGet
    rw [hrings]
    exact hd
  obtain ⟨hanswered, hpair⟩ := finPair_done hstarted
  rw [ht]
  refine ⟨hanswered, by rw [hpair]; rfl, fun hmode => ?_⟩
  rw [hpair]
  exact hvside.2 hmode

theorem pairMode_gives (hr : Reaches 0x71 d s) :
    (1 < d8 d 16 → Gives (.pairMode d) s (RefusedByPair d stRANGE s)) ∧
    (d8 d 16 = 0 → s.pair.pseen = true → Gives (.pairMode d) s (RefusedByPair d stREFUSED s)) ∧
    (d8 d 16 = 0 → s.pair.pseen = false → Gives (.pairMode d) s (fun t => Answered d stOK 0 t ∧ t.pair.mode = false ∧
      (s.pair.mode = true → t.pair.role = 0))) ∧
    (d8 d 16 = 1 → s.pair.mode = false → Gives (.pairMode d) s (fun t => t.pair.modeReq = s.pair.modeReq ++ [(d, s.sched.mfn)] ∧
      t.pair.mode = false ∧ t.pair.role = s.pair.role ∧ d ∈ (ringGet t d.ring).started)) := by
  refine ⟨fun hw => ?_, fun hw hseen => ?_, fun hw hseen => ?_, fun hw hmode => ?_⟩
  · exact gives_pairRefused rfl hr (by decide) fun g x => if_pos hw
  · refine gives_pairRefused rfl hr (by decide) fun g x => ?_
    have hpseen : (startedFor g x s).pair.pseen = true := hseen
    unfold effPairMode
    rw [if_neg (by omega), if_neg (by omega), if_pos hpseen]
  · exact gives_pairDesc rfl hr fun g x hd => pairMode_leaves (u := startedFor g x s) hd hw hseen
  · refine gives_pairDesc rfl hr fun g x hd => ?_
    have hoff : (startedFor g x s).pair.mode = false := hmode
    unfold effPairMode
    rw [if_neg (by omega), if_pos hw, hoff, if_neg Bool.false_ne_true]
    exact ⟨rfl, hmode, rfl, hd⟩

/-! ### PAIR_REKEY, PAIR_RESYNC and PAIR_SWAPREQ -/

theorem pairRekey_gives (hr : Reaches 0x72 d s) :
    (s.sec.drbgOk = true → Gives (.pairRekey d) s (fun t => t.pair.rekeyReq = s.pair.rekeyReq ++ [(d, s.sched.mfn)] ∧
      t.pair.keys = s.pair.keys ∧ t.pair.nonce.length = 32)) ∧
    (s.sec.drbgOk = false → Gives (.pairRekey d) s (RefusedByPair d stNOT_READY s)) := by
  refine ⟨fun hok => ?_, fun hfailed => ?_⟩
  · refine gives_pairDesc rfl hr fun g x hd => ?_
    have hready : (startedFor g x s).sec.drbgOk = true := hok
    unfold effPairRekey
    dsimp only
    rw [hready, if_neg (by decide)]
    exact ⟨rfl, rfl, leBytes_length ..⟩
  · refine gives_pairRefused rfl hr (by decide) fun g x => ?_
    have hnot : (startedFor g x s).sec.drbgOk = false := hfailed
    unfold effPairRekey
    dsimp only
    rw [hnot, if_pos (by decide)]

theorem pairResync_gives (hr : Reaches 0x73 d s) :
    (s.pair.role = 2 → Gives (.pairResync d) s (fun t => Answered d stOK 0 t ∧ t.pair.copied = false ∧ t.pair.role = 2)) ∧
    (s.pair.role ≠ 2 → Gives (.pairResync d) s (RefusedByPair d stNOT_READY s)) := by
  refine ⟨fun hrole => ?_, fun hrole => gives_pairRefused rfl hr (by decide) fun g x => if_neg hrole⟩
  refine gives_pairDesc rfl hr fun g x hd => ?_
  have heff : effPairResync d (startedFor g x s) = finPair d stOK 0 (enterCopying (startedFor g x s)) := if_pos hrole
  obtain ⟨hanswered, hpair⟩ := finPair_done (s := enterCopying (startedFor g x s)) hd
  rw [heff, hpair]
  exact ⟨hanswered, rfl, hrole⟩

theorem pairSwapreq_gives (hr : Reaches 0x74 d s) :
    Gives (.pairSwapreq d) s (fun t => t.pair.swapReq = s.pair.swapReq ++ [(d, s.sched.mfn)] ∧ t.pair.swapAsked = true) :=
  gives_pairDesc rfl hr fun _ _ _ => ⟨rfl, rfl⟩

/-! ### Their time-outs -/

variable {n : W64}

/-- A descriptor has waited `k` frames. -/
def Passed (k : Nat) (n : W64) (s : State) : Prop := n.toNat + k ≤ s.sched.mfn.toNat

theorem waited_iff {k : Nat} : waited k s (d, n) = true ↔ Passed k n s := decide_eq_true_iff

theorem filter_waited {k : Nat} (h : Passed k n s) : [(d, n)].filter (waited k s) = [(d, n)] ∧ [(d, n)].filter (fun p => !waited k s p) = [] := by
  have hw : waited k s (d, n) = true := waited_iff.mpr h
  exact ⟨List.filter_cons_of_pos hw, List.filter_cons_of_neg (by rw [hw]; decide)⟩

theorem filter_waiting {k : Nat} (h : ¬Passed k n s) : [(d, n)].filter (waited k s) = [] ∧ [(d, n)].filter (fun p => !waited k s p) = [(d, n)] := by
  have hw : waited k s (d, n) = false := Bool.eq_false_iff.mpr (mt waited_iff.mp h)
  exact ⟨List.filter_cons_of_neg (by rw [hw]; decide), List.filter_cons_of_pos (by rw [hw]; rfl)⟩

/-- A time-out completes the descriptor, and PAIR's registers are those of the state in which it does. -/
theorem gives_timedOut {i : Instr} {p : PairRegs} {P : State → Prop} (hd : d ∈ (ringGet s d.ring).started)
    (hexec : exec i s = .next (finPair d stTIMEOUT 0 { s with pair := p }))
    (h : ∀ t, Answered d stTIMEOUT 0 t → Counted bPAIR 9 s t → t.pair = p → P t) : Gives i s P := by
  obtain ⟨hanswered, hcounted, hpair⟩ := finPair_refused (s := { s with pair := p }) hd (st := stTIMEOUT) (by decide)
  exact ⟨_, hexec, h _ hanswered hcounted hpair⟩

theorem pairModeTimeout_gives (hreq : s.pair.modeReq = [(d, n)]) :
    (¬Passed 10000 n s → Gives .pairModeTimeout s (fun t => t = s)) ∧
    (d ∈ (ringGet s d.ring).started → Passed 10000 n s → Gives .pairModeTimeout s (fun t => Answered d stTIMEOUT 0 t ∧ t.pair.modeReq = [] ∧
      t.pair.mode = s.pair.mode ∧ Counted bPAIR 9 s t)) := by
  have hexec : exec .pairModeTimeout s = .next (finAll (s.pair.modeReq.filter (waited 10000 s)) stTIMEOUT
    { s with pair := { s.pair with modeReq := s.pair.modeReq.filter fun p => !waited 10000 s p } }) := rfl
  rw [hreq] at hexec
  refine ⟨fun hwait => ?_, fun hd hpassed => ?_⟩
  · obtain ⟨hnone, hall⟩ := filter_waiting (d := d) hwait
    rw [hnone, hall, ← hreq] at hexec
    exact ⟨s, hexec, rfl⟩
  · obtain ⟨hall, hnone⟩ := filter_waited (d := d) hpassed
    rw [hall, hnone] at hexec
    exact gives_timedOut hd hexec fun t hanswered hcounted hpair => by
      rw [hpair]
      exact ⟨hanswered, rfl, rfl, hcounted⟩

theorem pairRekeyTimeout_gives (hreq : s.pair.rekeyReq = [(d, n)]) :
    (¬Passed 1000 n s → Gives .pairRekeyTimeout s (fun t => t = s)) ∧
    (d ∈ (ringGet s d.ring).started → Passed 1000 n s → Gives .pairRekeyTimeout s (fun t => Answered d stTIMEOUT 0 t ∧ t.pair.keys = s.pair.keys ∧
      t.pair.nextKeys = none ∧ Counted bPAIR 9 s t)) := by
  refine ⟨fun hwait => ?_, fun hd hpassed => ?_⟩
  · obtain ⟨-, hall⟩ := filter_waiting (d := d) hwait
    refine ⟨s, congrArg Host.Outcome.next (if_pos ?_), rfl⟩
    rw [hreq, hall]
  · obtain ⟨hall, hnone⟩ := filter_waited (d := d) hpassed
    have hleft : s.pair.rekeyReq.filter (fun p => !waited 1000 s p) = [] := by rw [hreq, hnone]
    have hexec : exec .pairRekeyTimeout s = .next (finPair d stTIMEOUT 0 { s with pair := { s.pair with
        rekeyReq := [], nextKeys := none, fcnt2 := [], sendNext := false, newLanes := 0 } }) := by
      have hbody : exec .pairRekeyTimeout s = execPairRekeyTimeout s := rfl
      rw [hbody, execPairRekeyTimeout]
      dsimp only
      rw [hleft, hreq, hall, if_neg (show ¬([] : List (HostDesc × W64)).length = [(d, n)].length from Nat.zero_ne_one)]
      rfl
    exact gives_timedOut hd hexec fun t hanswered hcounted hpair => by
      rw [hpair]
      exact ⟨hanswered, rfl, rfl, hcounted⟩

theorem pairSwapreqTimeout_gives (hreq : s.pair.swapReq = [(d, n)]) :
    (¬Passed 10000 n s → s.pair.swapAsked = true → Gives .pairSwapreqTimeout s (fun t => t = s)) ∧
    (d ∈ (ringGet s d.ring).started → Passed 10000 n s → Gives .pairSwapreqTimeout s (fun t => Answered d stTIMEOUT 0 t ∧ t.pair.swapAsked = false ∧
      Counted bPAIR 9 s t)) := by
  have hexec : exec .pairSwapreqTimeout s = .next (finAll (s.pair.swapReq.filter (waited 10000 s)) stTIMEOUT { s with pair := { s.pair with
    swapReq := s.pair.swapReq.filter fun p => !waited 10000 s p,
    swapAsked := s.pair.swapAsked && !(s.pair.swapReq.filter fun p => !waited 10000 s p).isEmpty } }) := rfl
  rw [hreq] at hexec
  refine ⟨fun hwait hasked => ?_, fun hd hpassed => ?_⟩
  · obtain ⟨hnone, hall⟩ := filter_waiting (d := d) hwait
    have hkept : (s.pair.swapAsked && !(List.isEmpty [(d, n)])) = s.pair.swapAsked := Bool.and_true _
    rw [hnone, hall, hkept, ← hreq] at hexec
    exact ⟨s, hexec, rfl⟩
  · obtain ⟨hall, hnone⟩ := filter_waited (d := d) hpassed
    rw [hall, hnone] at hexec
    exact gives_timedOut hd hexec fun t hanswered hcounted hpair => by
      rw [hpair]
      exact ⟨hanswered, Bool.and_false _, hcounted⟩

end Descriptors

/-! ### PAIR_REJOIN_RESET (R503) -/

/-- A fenced unit whose ACTIVE partner runs another schedule. -/
def RejoinDue (s : State) : Prop := s.pair.mode = true ∧ s.sched.run = true ∧ s.pair.role = 3 ∧ s.pair.sameGrid = false ∧
  ∃ h, s.pair.hello = some h ∧ h.role = 1

theorem pairRejoinReset_exec (s : State) : (RejoinDue s → exec .pairRejoinReset s = .next (requestReset 6 (lantern 0x1181 1 [] s))) ∧
    (¬RejoinDue s → exec .pairRejoinReset s = .next s) := by
  have hpartner : (match s.pair.hello with | some h => h.role == 1 | none => false : Bool) = true ↔ ∃ h, s.pair.hello = some h ∧ h.role = 1 := by
    cases s.pair.hello with
    | none => simp
    | some h => simp
  have hdue : (s.pair.mode && s.sched.run && s.pair.role == rFENCED && !s.pair.sameGrid &&
      (match s.pair.hello with | some h => h.role == 1 | none => false)) = true ↔ RejoinDue s := by
    simp only [Bool.and_eq_true, hpartner, beq_iff_eq, Bool.not_eq_true', and_assoc]
    rfl
  exact ⟨fun h => congrArg Host.Outcome.next (if_pos (hdue.mpr h)), fun h => congrArg Host.Outcome.next (if_neg (mt hdue.mp h))⟩

theorem pairRejoinReset_gives (s : State) :
    (RejoinDue s → s.pwr.asleep = false → s.sys.rstReq = none → Gives .pairRejoinReset s (fun t => t.sys.rstReq = some 6 ∧ t.pwr.pflock = true ∧
      (s.pwr.pflock = true → InLantern 0x1181 s t))) ∧
    (¬RejoinDue s → Gives .pairRejoinReset s (fun t => t = s)) := by
  obtain ⟨hasks, hstays⟩ := pairRejoinReset_exec s
  refine ⟨fun hdue hawake hnone => ⟨_, hasks hdue, ?_⟩, fun hnot => ⟨s, hstays hnot, rfl⟩⟩
  set u := lantern 0x1181 1 [] s with hu
  have hpwr : u.pwr = s.pwr := lantern_pwr ..
  have hsys : u.sys = s.sys := lantern_sys ..
  have hawake' : u.pwr.asleep = false := by rw [hpwr, hawake]
  have hnone' : u.sys.rstReq = none := by rw [hsys, hnone]
  obtain ⟨hrst, hlock, -⟩ := requestReset_asks hawake' hnone' 6
  refine ⟨by rw [hrst], hlock, fun hpf => ?_⟩
  have hsaved : requestReset 6 u = { u with sys := { u.sys with rstReq := some 6 } } := by
    unfold requestReset
    rw [if_neg (by rw [awake, hawake', hnone']; decide)]
    exact if_pos (by rw [← hpf, ← hpwr])
  rw [hsaved]
  exact inLantern_lantern (sev := 1) (data := []) (u := s) rfl rfl

/-- Settles O52: Bugles and leases decide the role at a frame start, cuts are sent, applied and compared, and PAIR's descriptors,
time-outs and reset act. -/
theorem rolesFollowLeasesAndCutsAreApplied : Obligations.RolesFollowLeasesAndCutsAreApplied := by
  unfold Obligations.RolesFollowLeasesAndCutsAreApplied
  refine ⟨fun b crc key s hen hmode hs hkey => ?_, fun hot s hen him hrun => ?_, fun s hrun hf hon => ?_, fun d s => ?_, fun s => ?_⟩
  · exact ⟨bugle_refused hen hmode hs hkey, bugle_poolFull hen hmode hs hkey, bugle_granted hen hmode hs hkey⟩
  · intro m wl pl c posted changed same cause ready free
    refine ⟨fun hmode => ⟨fun hrole hfinal => frame_active hen him hrun hmode hrole hfinal, fun hrole hfinal => frame_swapped hen him hrun hmode hrole hfinal,
      fun hrole => frame_standby hen him hrun hmode hrole, fun hrole halone => frame_fenced hen him hrun hmode hrole halone⟩,
      fun hmode => frame_solo hen him hrun hmode⟩
  · refine ⟨fun k hrole hkeys hnext hs => cutSlot_active hrun hf hon hrole hkeys hnext hs, cutSlot_fenced hrun hf hon,
      fun e a hrole hends hcomplete hold hact hov hswb hpend happlied hstream hwhole => ?_⟩
    have hdue : CutDue e s := ⟨hends, hcomplete, hold, hact, hov, hswb, hpend, hstream⟩
    exact ⟨fun hseq => (cutSlot_applies hrun hf hon hrole hdue happlied hwhole hseq).1,
      fun hseq => (cutSlot_applies hrun hf hon hrole hdue happlied hwhole hseq).2, cutSlot_gap hrun hf hon hrole hdue happlied⟩
  · refine ⟨pairRead_gives, pairMode_gives, pairRekey_gives, pairResync_gives, pairSwapreq_gives, fun n hd => ?_⟩
    exact ⟨fun hreq => (pairModeTimeout_gives hreq).1, fun hreq => (pairRekeyTimeout_gives hreq).1, fun hreq => (pairSwapreqTimeout_gives hreq).1,
      fun hreq => (pairModeTimeout_gives hreq).2 hd, fun hreq => (pairRekeyTimeout_gives hreq).2 hd, fun hreq => (pairSwapreqTimeout_gives hreq).2 hd⟩
  · exact pairRejoinReset_gives s

end Sys2Proof.Proofs
end
